-- ==== Sys2Proof/Word.lean ====
section
/-! DEFINITION. The word types of the part and the units of time (00_scope.md R3, R6, R17). -/
namespace Sys2Proof

/-- The part's memories are addressed by the byte (R3). -/
abbrev Byte := BitVec 8

/-- A word cell computes on 16 bits (05_fabric.md R141). -/
abbrev W16 := BitVec 16

/-- An element of a DSP vector register (14_dsp.md R370). -/
abbrev Elem := BitVec 24

/-- A DSP accumulator (14_dsp.md R369). -/
abbrev Acc56 := BitVec 56

/-- One engine clock period of 1.0 ns in ticks (R17). -/
abbrev ticksPerNs : Nat := 8192

/-- One microsecond in ticks (R17). -/
abbrev ticksPerUs : Nat := 8192000

end Sys2Proof
end

