-- ==== Sys2Proof/Syntax.lean ====
section
/-! DEFINITION. The commands of the block: one constructor per row of spec/opcode_table.json, with the
operands each takes from outside. Numbers of units and register values are Nat; what the manual treats as a
word of bits is a BitVec. -/
namespace Sys2Proof

/-- A dictionary request: who sends it and the TAG its response echoes (02 R37, R41). Master 0 is the I3C
port, 1 to 8 the management slots, 9 the debug port, 16 + 16 x node + port a mesh master. What a frame can have wrong beside
its fields (02 R38): its reserved byte, the number of data bytes received where it is not LENGTH, and an operation code in
byte 0 that is none of R38. -/
structure Req where
  master : Nat
  tag : Nat
  rsv : Nat := 0
  got : Option Nat := none
  op : Option Nat := none
  deriving DecidableEq, Repr

/-- A request in a well-formed frame. -/
abbrev Req.of (master tag : Nat) : Req := { master := master, tag := tag }
/-- Is the frame none of R38: a reserved byte that is not zero, a LENGTH that does not match, another operation code? -/
def Req.wrong (q : Req) : Bool := q.rsv != 0 || q.got.isSome || q.op.isSome

/-- The member byte and LENGTH of an MREAD or MDROP frame (02 R38, R58), which carry no data. -/
structure MirrorMem where
  mem : Nat
  len : Nat := 0
  deriving DecidableEq, Repr

/-- How a frame that names its operation code comes (02 R38): TAG, the reserved byte, the bytes received where they do not
match LENGTH. -/
structure FrameTag where
  tag : Nat
  rsv : Nat := 0
  got : Option Nat := none
  deriving DecidableEq, Repr

/-- What the DUT shows at the balls of the IN positions of an engine in one tester cycle (06 R180, R181): the levels before the
cycle's first marker (bit p is IN position p, 1 while the positive leg is above the negative leg), and the changes of level in
order of time, each a position with its instant in ticks. -/
structure Samples where
  level : Nat := 0
  chg : List (Nat × Nat) := []
  deriving DecidableEq, Repr

/-- Mesh request operations (11 R302). -/
inductive MeshOp where
  | read | write | orw
  deriving DecidableEq, Repr

/-- The block port a mesh request belongs to: SRC, SPORT and TAG of R302 in the model's own labels. -/
inductive Owner where
  | hdi (master : Nat) | dbg (master : Nat)
  | veLine (n line : Nat) | ringWrite (q line : Nat) | ringRead (q : Nat) | bitmap (n : Nat)
  | facet (f : Nat) | dspMove (n k : Nat) | dspNote (n k : Nat)
  | lane (n tag : Nat) | stream (n : Nat) | crypto | flp | reload | mesh (port tag : Nat)
  deriving DecidableEq, Repr

/-- A mesh request (11 R302): operation, owner, source node, service class, address, length in bytes, and the
write data or OR mask as a little-endian number. -/
structure MeshReq where
  op : MeshOp
  own : Owner
  src : Nat
  cls : Nat
  addr : Nat
  len : Nat
  data : Nat
  deriving DecidableEq, Repr

/-- What the check code finds in a word or burst that is read (09 R267, 10 R286): nothing, an error it corrects,
an error it cannot correct, or an error over two or more devices, of which R267 does not say whether it is found. -/
inductive Ecc where
  | clean | ce | ue | multi
  deriving DecidableEq, Repr

/-- What a router's check of a flit of a packet finds on its way (11 R308): a single error that the router of a node corrects,
or a double error at a node, which poisons the packet. A command lists what a packet meets. -/
inductive Flit where
  | corrected (node : Nat) | poisoned (node : Nat)
  deriving DecidableEq, Repr

/-- A packet of request req with what its flits meet on its way. -/
structure Arriving where
  req : MeshReq
  flits : List Flit := []
  deriving DecidableEq, Repr

/-- The answer to the read of a program line, with what its flits meet. -/
structure LineBack where
  line : Nat
  flits : List Flit := []
  deriving DecidableEq, Repr

/-- The answer to a transfer of a ring line: an error or not, with what its flits meet. -/
structure RingBack where
  err : Bool
  flits : List Flit := []
  deriving DecidableEq, Repr

/-- MOVE of DSP engine n, with what the check code will find in the scratch words it reads (10 R286). -/
structure DspMove where
  n : Nat
  ecc : List Ecc := []
  deriving DecidableEq, Repr

/-- A DIMM as its SPD hub describes it (09 R247, R252): whether the hub answers, whether type and width are of R247, the
highest rate in MT/s, device density (1 for 16 Gb, 2 for 32 Gb), ranks. -/
structure Dimm where
  answers : Bool
  fits : Bool
  rate : Nat
  density : Nat
  ranks : Nat
  deriving DecidableEq, Repr

/-- What the part finds around it as its supplies rise: the strap pins (15 R410), its grade (0 -C, 1 -E) and the DIMMs of
each channel. -/
structure Board where
  straps : Nat
  grade : Nat
  dimms : List (List Dimm)
  deriving DecidableEq, Repr

/-- The trims a focus measurement finds, and the linearity table of its group (07 R193, R199), as 16-bit two's-complement
words. -/
structure Trims where
  rise : Nat
  fall : Nat
  enon : Nat
  enoff : Nat
  inl : List Nat
  deriving DecidableEq, Repr

/-- Where an upset strikes (05 R151, 17 R447): an instruction register bit of a cell, a static bit of it (ISEL, CESEL, FSEL
from bit 2, A0 from bit 4, B0 from bit 20, Q0 from bit 36), a select bit of one of its eight inputs, a select bit of a track
multiplexer (by its number in the ROUTE frame), any other bit of the frame word, or the loupe's own registers or reference
table (17 R453). -/
inductive UpsetTarget where
  | ir (k bit : Nat) | fixed (bit : Nat) | sel (inp bit : Nat) | track (i bit : Nat) | other | own
  deriving DecidableEq, Repr

/-- An upset of one configuration bit: facet, frame type and index of R422, 64-bit word of the frame, local cell
column, and the bit it flips. -/
structure Upset where
  f : Nat
  type : Nat
  index : Nat
  word : Nat
  u : Nat
  target : UpsetTarget
  deriving DecidableEq, Repr

/-- The flash device a load reads, as discovery finds it (16 R413, R415, R416): present, SFDP and BFPT valid, whether they advertise
1-4-4, 4-4-4 and x8 in DDR with the table of the octal entry, log2 of the size, and its bytes (offset, value). -/
structure Flash where
  present : Bool
  sfdp : Bool
  x144 : Bool
  x444 : Bool
  x8 : Bool
  octal : Bool
  density : Nat
  bytes : List (Nat × Nat)
  deriving DecidableEq, Repr

/-- A facet manifest (16 R422). Its layout in a stream is not given, so the frame command carries it decoded:
FRAMES, the clamp constants of boundary outputs by port, the panes in QUEUE mode, and the panes that receive PANE frames. -/
structure Manifest where
  frames : Nat
  clamps : List (Nat × Nat)
  queueMask : Nat
  paneMask : Nat
  meshPort : Bool
  deriving DecidableEq, Repr

/-- The instruction registers and static fields of one word cell (05 R141, R142). -/
structure CellCfg where
  ir : List (BitVec 32)
  isel : Bool
  cesel : Bool
  fsel : Nat
  a0 : W16
  b0 : W16
  q0 : W16
  deriving DecidableEq, Repr

/-- The commands of the block, one constructor per row of the table of operations and events. -/
inductive Instr where
  /-- DICT_READ (R38). -/
  | dictRead (q : Req) (o : Nat) (m : Nat) (len : Nat) (v : Nat)
  /-- DICT_WRITE (R38). -/
  | dictWrite (q : Req) (o : Nat) (m : Nat) (len : Nat) (v : Nat)
  /-- FETCH (R45). -/
  | fetch (q : Req) (o : Nat) (m : Nat) (len : Nat) (v : Nat)
  /-- MREAD (R58). -/
  | mread (q : Req) (o : Nat) (m : MirrorMem)
  /-- MDROP (R58). -/
  | mdrop (q : Req) (o : Nat) (m : MirrorMem)
  /-- FETCH_COMPLETE (R45). -/
  | fetchComplete (master : Nat) (o : Nat) (m : Nat)
  /-- RESPONSE_READ (R43). -/
  | responseRead
  /-- I2C_TRANSFER (R35). -/
  | i2cTransfer (rd : Bool) (op : Nat) (tag : FrameTag) (o : Nat) (m : Nat) (len : Nat) (v : Nat)
  /-- ENEC (R33). -/
  | enec (dest : Option Nat) (events : Nat)
  /-- DISEC (R33). -/
  | disec (dest : Option Nat) (events : Nat)
  /-- RSTDAA (R35). -/
  | rstdaa
  /-- ENTDAA (R34). -/
  | entdaa (addr : Nat) (rivals : List Nat)
  /-- SETAASA (R33). -/
  | setaasa
  /-- SETDASA (R33). -/
  | setdasa (dest : Nat) (addr : Nat)
  /-- SETNEWDA (R33). -/
  | setnewda (dest : Nat) (addr : Nat)
  /-- SETMWL (R36). -/
  | setmwl (dest : Option Nat) (v : Nat)
  /-- SETMRL (R36). -/
  | setmrl (dest : Option Nat) (v : Nat)
  /-- GETMWL (R33). -/
  | getmwl (dest : Nat)
  /-- GETMRL (R33). -/
  | getmrl (dest : Nat)
  /-- GETPID (R34). -/
  | getpid (dest : Nat)
  /-- GETBCR (R32). -/
  | getbcr (dest : Nat)
  /-- GETDCR (R32). -/
  | getdcr (dest : Nat)
  /-- GETSTATUS (R33). -/
  | getstatus (dest : Nat)
  /-- ENTHDR0 (R32). -/
  | enthdr0
  /-- ENTHDR_UNSUPPORTED (R33). -/
  | enthdrUnsupported (k : Nat)
  /-- HDR_EXIT (R33). -/
  | hdrExit
  /-- RSTACT (R405). -/
  | rstact (dest : Option Nat) (b : Nat)
  /-- TARGET_RESET_PATTERN (R405). -/
  | targetResetPattern
  /-- UNSUPPORTED_CCC (R33). -/
  | unsupportedCcc (dest : Option Nat)
  /-- MGMT_SLOT_IDLE_TIMEOUT (R49). -/
  | mgmtSlotIdleTimeout (k : Nat)
  /-- DICT_WINDOW_ACCESS (R51). -/
  | dictWindowAccess (r : Arriving)
  /-- STATS_CLR (R53). -/
  | statsClr (q : Req) (v : Nat)
  /-- MESH_DATA_WRITE (R55). -/
  | meshDataWrite (q : Req) (len : Nat) (v : Nat)
  /-- MESH_DATA_FETCH (R55). -/
  | meshDataFetch (q : Req) (size : Nat)
  /-- MIRROR_LEASE_EXPIRY (R59). -/
  | mirrorLeaseExpiry
  /-- BATCH_CHECK (R62). -/
  | batchCheck (q : Req) (v : Nat)
  /-- BATCH_CHECK_END (R62). -/
  | batchCheckEnd
  /-- BATCH_DISCARD (R60). -/
  | batchDiscard (q : Req) (v : Nat)
  /-- APPLY_ARM (R64). -/
  | applyArm (q : Req) (v : Nat)
  /-- APPLY_CANCEL (R64). -/
  | applyCancel (q : Req) (v : Nat)
  /-- SYNCIN_CAPTURE (R66). -/
  | syncinCapture (level : Bool)
  /-- APPLY (R64). -/
  | apply
  /-- VE_ENABLE (R72). -/
  | veEnable (q : Req) (n : Nat)
  /-- VE_DISABLE (R72). -/
  | veDisable (q : Req) (n : Nat)
  /-- VE_START (R76). -/
  | veStart (q : Req) (n : Nat)
  /-- VE_START_AT (R76). -/
  | veStartAt (q : Req) (n : Nat)
  /-- VE_HALT (R102). -/
  | veHalt (q : Req) (n : Nat)
  /-- VE_RESUME (R103). -/
  | veResume (q : Req) (n : Nat)
  /-- VE_STOP (R102). -/
  | veStop (q : Req) (n : Nat)
  /-- VE_CLEAR_FAULT (R72). -/
  | veClearFault (q : Req) (n : Nat)
  /-- VE_SELFCHECK (R107). -/
  | veSelfcheck (q : Req) (n : Nat)
  /-- VE_SELFCHECK_END (R107). -/
  | veSelfcheckEnd (n : Nat) (pass : Bool)
  /-- VE_START_EDGE (R77). -/
  | veStartEdge (n : Nat)
  /-- VEC (R85). -/
  | vec (n : Nat) (smp : Samples)
  /-- RPT (R85). -/
  | rpt (n : Nat) (smp : Samples)
  /-- VE_LDC (R86). -/
  | veLdc (n : Nat) (smp : Samples)
  /-- LOOP (R86). -/
  | loop (n : Nat) (smp : Samples)
  /-- VE_JMP (R85). -/
  | veJmp (n : Nat) (smp : Samples)
  /-- CALL (R87). -/
  | call (n : Nat) (smp : Samples)
  /-- RET (R87). -/
  | ret (n : Nat) (smp : Samples)
  /-- JC (R93). -/
  | jc (n : Nat) (smp : Samples)
  /-- CLRF (R92). -/
  | clrf (n : Nat) (smp : Samples)
  /-- MBEG (R94). -/
  | mbeg (n : Nat) (smp : Samples)
  /-- MATCH (R94). -/
  | matchEnd (n : Nat) (smp : Samples)
  /-- BAR (R96). -/
  | bar (n : Nat) (smp : Samples)
  /-- VE_EVT (R85). -/
  | veEvt (n : Nat) (smp : Samples)
  /-- VE_HALT_WORD (R85). -/
  | veHaltWord (n : Nat) (smp : Samples)
  /-- BARRIER_RELEASE (R97). -/
  | barrierRelease (mask : Nat)
  /-- BARRIER_ERROR (R98). -/
  | barrierError (n : Nat)
  /-- VE_HALT_TAKES_EFFECT (R102). -/
  | veHaltTakesEffect (n : Nat)
  /-- VE_STOP_TAKES_EFFECT (R102). -/
  | veStopTakesEffect (n : Nat)
  /-- VE_RESUME_LANDS (R103). -/
  | veResumeLands (n : Nat)
  /-- APPLY_LANDS_RUNNING (R100). -/
  | applyLandsRunning (n : Nat)
  /-- PATTERN_TIMEOUT (R106). -/
  | patternTimeout (n : Nat)
  /-- LINE_READ_ISSUE (R120). -/
  | lineReadIssue (n : Nat)
  /-- LINE_READ_COMPLETE (R126). -/
  | lineReadComplete (n : Nat) (line : LineBack)
  /-- APG_TRANSFER (R130). -/
  | apgTransfer (n : Nat)
  /-- PASS (R144). -/
  | cellPass (col : Nat) (row : Nat)
  /-- ADD (R144). -/
  | cellAdd (col : Nat) (row : Nat)
  /-- SUB (R144). -/
  | cellSub (col : Nat) (row : Nat)
  /-- AND (R144). -/
  | cellAnd (col : Nat) (row : Nat)
  /-- CELL_OR (R144). -/
  | cellOr (col : Nat) (row : Nat)
  /-- XOR (R144). -/
  | cellXor (col : Nat) (row : Nat)
  /-- ANDN (R144). -/
  | cellAndn (col : Nat) (row : Nat)
  /-- NOT (R144). -/
  | cellNot (col : Nat) (row : Nat)
  /-- SHL1 (R144). -/
  | cellShl1 (col : Nat) (row : Nat)
  /-- SHL (R144). -/
  | cellShl (col : Nat) (row : Nat)
  /-- SHR (R144). -/
  | cellShr (col : Nat) (row : Nat)
  /-- ROL (R144). -/
  | cellRol (col : Nat) (row : Nat)
  /-- BREV (R144). -/
  | cellBrev (col : Nat) (row : Nat)
  /-- BSEL (R144). -/
  | cellBsel (col : Nat) (row : Nat)
  /-- EQ (R144). -/
  | cellEq (col : Nat) (row : Nat)
  /-- PAR (R144). -/
  | cellPar (col : Nat) (row : Nat)
  /-- CNTK (R144). -/
  | cellCntk (col : Nat) (row : Nat)
  /-- MIN (R144). -/
  | cellMin (col : Nat) (row : Nat)
  /-- MAX (R144). -/
  | cellMax (col : Nat) (row : Nat)
  /-- CELL_RESERVED_OP (R144). -/
  | cellReservedOp (col : Nat) (row : Nat)
  /-- CONFIG_UPSET (R151). -/
  | configUpset (u : Upset)
  /-- FACET_RELEASE (R157). -/
  | facetRelease (q : Req) (f : Nat)
  /-- FACET_HOLD (R157). -/
  | facetHold (q : Req) (f : Nat)
  /-- FACET_RELEASE_LANDS (R157). -/
  | facetReleaseLands (f : Nat)
  /-- FACET_HOLD_LANDS (R157). -/
  | facetHoldLands (f : Nat)
  /-- USER_IN_WRITE (R161). -/
  | userInWrite (q : Req) (f : Nat) (k : Nat) (v : Nat)
  /-- USER_REQ (R163). -/
  | userReq (f : Nat)
  /-- FACET_MESH_REQUEST (R159). -/
  | facetMeshRequest (f : Nat) (op : MeshOp) (addr : Nat) (len : Nat) (data : Nat)
  /-- FOCUS (R199). -/
  | focus (q : Req)
  /-- EDG_SELFCHECK (R203). -/
  | edgSelfcheck (q : Req)
  /-- FOCUS_ABORT (R201). -/
  | focusAbort (q : Req)
  /-- FOCUS_CHANNEL_END (R201). -/
  | focusChannelEnd (ch : Nat) (found : Option Trims)
  /-- SELFCHECK_CHANNEL_END (R203). -/
  | selfcheckChannelEnd (ch : Nat) (pass : Bool)
  /-- TEMP_TRACK_SAMPLE (R204). -/
  | tempTrackSample (g : Nat) (temp : Nat)
  /-- TRIM_COMMIT (R211). -/
  | trimCommit (q : Req)
  /-- TRIM_IMPORT (R211). -/
  | trimImport (q : Req)
  /-- TRIM_WRITE_END (R211). -/
  | trimWriteEnd
  /-- FAIL_CYCLE (R216). -/
  | failCycle (n : Nat)
  /-- RECORD_TO_TAIL (R222). -/
  | recordToTail (n : Nat)
  /-- RING_WRITE_ISSUE (R226). -/
  | ringWriteIssue (q : Nat)
  /-- RING_READ_ISSUE (R226). -/
  | ringReadIssue (q : Nat)
  /-- RING_WRITE_DONE (R226). -/
  | ringWriteDone (q : Nat) (line : Nat) (err : RingBack)
  /-- RING_READ_DONE (R226). -/
  | ringReadDone (q : Nat) (err : RingBack)
  /-- POP (R228). -/
  | pop (r : Req) (q : Nat)
  /-- POPREC (R229). -/
  | poprec (r : Req) (q : Nat)
  /-- QUEUE_ENABLE (R230). -/
  | queueEnable (r : Req) (q : Nat)
  /-- QUEUE_DISABLE (R230). -/
  | queueDisable (r : Req) (q : Nat)
  /-- FLUSH (R230). -/
  | flush (r : Req) (q : Nat)
  /-- PUSH (R232). -/
  | push (r : Req) (q : Nat) (v : Nat)
  /-- PUSH_END (R232). -/
  | pushEnd (r : Req) (q : Nat) (v : Nat)
  /-- FCOUNT_CLR (R238). -/
  | fcountClr (r : Req) (c : Nat) (v : Nat)
  /-- MERGE_TIMEOUT (R240). -/
  | mergeTimeout (n : Nat)
  /-- BITMAP_ISSUE (R241). -/
  | bitmapIssue (n : Nat)
  /-- DMC_TRAIN (R250). -/
  | dmcTrain (q : Req) (n : Nat)
  /-- DMC_RETRAIN (R253). -/
  | dmcRetrain (q : Req) (n : Nat)
  /-- AUTO_TRAIN_START (R251). -/
  | autoTrainStart
  /-- TRAINING_END (R252). -/
  | trainingEnd (n : Nat) (eye : Bool)
  /-- RETRAINING_END (R253). -/
  | retrainingEnd (n : Nat) (ok : Bool)
  /-- AUTO_RETRAIN (R253). -/
  | autoRetrain (n : Nat)
  /-- DIMM_TEMP_READ (R249). -/
  | dimmTempRead (n : Nat) (temp : Nat)
  /-- MAP_FORM (R254). -/
  | mapForm
  /-- EXCLUDE_WRITE (R254). -/
  | excludeWrite (q : Req) (v : Nat)
  /-- DMC_ACCEPT (R261). -/
  | dmcAccept (n : Nat)
  /-- DMC_ACCESS_ISSUE (R263). -/
  | dmcAccessIssue (n : Nat)
  /-- DMC_ACCESS_COMPLETE (R259). -/
  | dmcAccessComplete (n : Nat) (ecc : List Ecc)
  /-- AGE_PROMOTION (R263). -/
  | agePromotion (n : Nat)
  /-- THROTTLE_END (R271). -/
  | throttleEnd (n : Nat)
  /-- ROW_TABLE_CLEAR (R270). -/
  | rowTableClear (n : Nat)
  /-- REFRESH (R269). -/
  | refresh (n : Nat)
  /-- PATROL_SCRUB (R268). -/
  | patrolScrub (n : Nat) (ecc : Ecc)
  /-- RETAIN_WRITE (R272). -/
  | retainWrite (q : Req) (v : Nat)
  /-- PANE_FABRIC_ACCESS (R278). -/
  | paneFabricAccess (p : Nat) (bad : Bool)
  /-- STEAL_TIMEOUT (R284). -/
  | stealTimeout (r : MeshReq)
  /-- PANE_DETACH (R292). -/
  | paneDetach (q : Req) (p : Nat)
  /-- PANE_ATTACH (R292). -/
  | paneAttach (q : Req) (p : Nat)
  /-- PANE_DETACH_LANDS (R292). -/
  | paneDetachLands (p : Nat)
  /-- PANE_ATTACH_LANDS (R292). -/
  | paneAttachLands (p : Nat)
  /-- PANE_TEST (R292). -/
  | paneTest (q : Req) (p : Nat)
  /-- PANE_TEST_END (R293). -/
  | paneTestEnd (p : Nat) (bad : Nat)
  /-- PANE_MODE_WRITE (R292). -/
  | paneModeWrite (q : Req) (p : Nat) (v : Nat)
  /-- SCRATCH_OWNER_WRITE (R290). -/
  | scratchOwnerWrite (q : Req) (b : Nat) (port : Nat) (v : Nat)
  /-- HANDOVER_END (R290). -/
  | handoverEnd (b : Nat)
  /-- SCRATCH_TEST (R291). -/
  | scratchTest (q : Req) (b : Nat)
  /-- SCRATCH_TEST_END (R291). -/
  | scratchTestEnd (b : Nat) (bad : Nat)
  /-- CLEAR_END (R294). -/
  | clearEnd (d : Nat)
  /-- MESH_READ (R300). -/
  | meshRead (r : MeshReq) (flits : List Flit) (ecc : List Ecc)
  /-- MESH_WRITE (R300). -/
  | meshWrite (r : MeshReq) (flits : List Flit)
  /-- MESH_OR (R537). -/
  | meshOr (r : MeshReq) (flits : List Flit)
  /-- MESH_DATA_RESPONSE (R302). -/
  | meshDataResponse (r : MeshReq) (flits : List Flit)
  /-- MESH_ACK_RESPONSE (R302). -/
  | meshAckResponse (r : MeshReq) (flits : List Flit)
  /-- MESH_ERROR_RESPONSE (R302). -/
  | meshErrorResponse (r : Arriving)
  /-- DOMAIN_POWERED (R310). -/
  | domainPowered (d : Nat)
  /-- ROUTER_SELFCHECK (R311). -/
  | routerSelfcheck (q : Req) (n : Nat)
  /-- RCFG_WRITE (R311). -/
  | rcfgWrite (q : Req) (n : Nat) (v : Nat)
  /-- DRAIN_END (R311). -/
  | drainEnd (n : Nat) (pass : Bool)
  /-- PROBE_RUN (R315). -/
  | probeRun (q : Req) (p : Nat)
  /-- PROBE_STOP (R315). -/
  | probeStop (q : Req) (p : Nat)
  /-- PROBE_CLEAR (R315). -/
  | probeClear (q : Req) (p : Nat)
  /-- TCLEAR (R315). -/
  | tclear (q : Req) (v : Nat)
  /-- LANE_START (R324). -/
  | laneStart (q : Req) (n : Nat)
  /-- LANE_RESET (R324). -/
  | laneReset (q : Req) (n : Nat)
  /-- LANE_RETRAIN (R324). -/
  | laneRetrain (q : Req) (n : Nat)
  /-- ADAPT_END (R325). -/
  | adaptEnd (n : Nat)
  /-- LOCK_GAINED (R327). -/
  | lockGained (n : Nat)
  /-- QRATE_WRITE (R320). -/
  | qrateWrite (q : Req) (k : Nat) (v : Nat)
  /-- QPLL_LOCK (R320). -/
  | qpllLock (k : Nat)
  /-- LANE_MAP_WRITE (R341). -/
  | laneMapWrite (q : Req) (k : Nat) (v : Nat)
  /-- DATA_BLOCK (R330). -/
  | dataBlock (n : Nat) (v : Nat) (fix : Nat)
  /-- IDLE_BLOCK (R329). -/
  | idleBlock (n : Nat) (v : Nat) (fix : Nat)
  /-- START_BLOCK (R330). -/
  | startBlock (n : Nat) (v : Nat) (fix : Nat)
  /-- CREDIT_BLOCK (R331). -/
  | creditBlock (n : Nat) (v : Nat) (fix : Nat)
  /-- LINK_BLOCK (R333). -/
  | linkBlock (n : Nat) (v : Nat) (fix : Nat)
  /-- MESH_MESSAGE (R335). -/
  | meshMessage (n : Nat)
  /-- MGMT_MESSAGE (R334). -/
  | mgmtMessage (n : Nat)
  /-- TIME_MESSAGE (R337). -/
  | timeMessage (n : Nat)
  /-- STREAM_MESSAGE (R338). -/
  | streamMessage (n : Nat)
  /-- STREAM_WRITES_DONE (R338). -/
  | streamWritesDone (n : Nat) (err : Bool)
  /-- CREDIT_SEND_TIMER (R331). -/
  | creditSendTimer (n : Nat)
  /-- LINK_SEND_TIMER (R332). -/
  | linkSendTimer (n : Nat)
  /-- TMU_ROLE_WRITE (R347). -/
  | tmuRoleWrite (q : Req) (v : Nat)
  /-- INCR_WRITE (R346). -/
  | incrWrite (q : Req) (v : Nat)
  /-- TMU_STEP (R349). -/
  | tmuStep (q : Req) (v : Nat)
  /-- TMU_SET (R349). -/
  | tmuSet (q : Req) (v : Nat)
  /-- EXCHANGE_START (R357). -/
  | exchangeStart
  /-- SYNC (R357). -/
  | sync (n : Nat)
  /-- FOLLOW (R357). -/
  | follow (n : Nat)
  /-- DREQ (R357). -/
  | dreq (n : Nat)
  /-- DRESP (R358). -/
  | dresp (n : Nat)
  /-- EXCHANGE_TIMEOUT (R348). -/
  | exchangeTimeout
  /-- TXMSG (R353). -/
  | txmsg (q : Req) (n : Nat) (v : Nat)
  /-- TXTS (R353). -/
  | txts (q : Req) (n : Nat)
  /-- RXMSG (R353). -/
  | rxmsg (q : Req) (n : Nat)
  /-- APERTURE_ARM (R362). -/
  | apertureArm (q : Req) (a : Nat)
  /-- APERTURE_DISARM (R362). -/
  | apertureDisarm (q : Req) (a : Nat)
  /-- APERTURE_OPEN (R362). -/
  | apertureOpen (a : Nat)
  /-- APERTURE_CLOSE (R362). -/
  | apertureClose (a : Nat)
  /-- TRIGGER_ARM (R363). -/
  | triggerArm (q : Req) (t : Nat)
  /-- TRIGGER_DISARM (R363). -/
  | triggerDisarm (q : Req) (t : Nat)
  /-- TRIGGER_PULSE (R363). -/
  | triggerPulse (t : Nat)
  /-- CAPTURE_EDGE (R364). -/
  | captureEdge (t : Nat) (rising : Bool)
  /-- CAP_POP (R364). -/
  | capPop (q : Req) (t : Nat)
  /-- SCHEDULE_FIRE (R365). -/
  | scheduleFire
  /-- MPY (R372). -/
  | mpy (n : Nat) (ecc : List Ecc)
  /-- MAC (R372). -/
  | mac (n : Nat) (ecc : List Ecc)
  /-- MSU (R372). -/
  | msu (n : Nat) (ecc : List Ecc)
  /-- CLR (R374). -/
  | accClr (n : Nat)
  /-- LDA (R374). -/
  | accLda (n : Nat)
  /-- ADDA (R374). -/
  | accAdda (n : Nat)
  /-- SUML (R374). -/
  | accSuml (n : Nat)
  /-- STR (R375). -/
  | accStr (n : Nat)
  /-- SHRA (R374). -/
  | accShra (n : Nat)
  /-- MEM (R373). -/
  | mem (n : Nat) (ecc : List Ecc)
  /-- SETA (R372). -/
  | seta (n : Nat)
  /-- SETO (R372). -/
  | seto (n : Nat)
  /-- INCA (R371). -/
  | inca (n : Nat)
  /-- VMOV (R376). -/
  | vmov (n : Nat)
  /-- VADD (R376). -/
  | vadd (n : Nat)
  /-- VSUB (R376). -/
  | vsub (n : Nat)
  /-- VSHL (R376). -/
  | vshl (n : Nat)
  /-- VSHR (R376). -/
  | vshr (n : Nat)
  /-- NOP (R378). -/
  | dspNop (n : Nat)
  /-- DSP_JMP (R378). -/
  | dspJmp (n : Nat)
  /-- DJNZ (R378). -/
  | djnz (n : Nat)
  /-- DSP_LDC (R378). -/
  | dspLdc (n : Nat)
  /-- DSP_EVT (R378). -/
  | dspEvt (n : Nat)
  /-- DSP_HALT_INSN (R378). -/
  | dspHaltInsn (n : Nat)
  /-- WAITM (R378). -/
  | waitm (n : Nat)
  /-- BCLR (R377). -/
  | bclr (n : Nat)
  /-- BLK (R377). -/
  | blk (n : Nat)
  /-- DSP_RPT (R380). -/
  | dspRpt (n : Nat)
  /-- MOVE (R381). -/
  | move (n : DspMove)
  /-- MOVE_GATE_POLL (R381). -/
  | moveGatePoll (n : Nat)
  /-- MOVE_COMPLETE (R381). -/
  | moveComplete (n : Nat)
  /-- DSP_START (R384). -/
  | dspStart (q : Req) (n : Nat)
  /-- DSP_START_AT (R384). -/
  | dspStartAt (q : Req) (n : Nat)
  /-- DSP_STOP (R384). -/
  | dspStop (q : Req) (n : Nat)
  /-- DSP_HALT (R384). -/
  | dspHalt (q : Req) (n : Nat)
  /-- DSP_RESUME (R384). -/
  | dspResume (q : Req) (n : Nat)
  /-- DSP_SELFCHECK (R388). -/
  | dspSelfcheck (q : Req) (n : Nat)
  /-- DSP_SELFCHECK_END (R388). -/
  | dspSelfcheckEnd (n : Nat) (pass : Bool)
  /-- DSP_START_EDGE (R384). -/
  | dspStartEdge (n : Nat)
  /-- DSP_HALT_LANDS (R380). -/
  | dspHaltLands (n : Nat)
  /-- DSP_STOP_LANDS (R380). -/
  | dspStopLands (n : Nat)
  /-- DSP_WATCHDOG_EXPIRY (R385). -/
  | dspWatchdogExpiry (n : Nat)
  /-- REFIN_PRESENT (R393). -/
  | refinPresent
  /-- MPLL_LOCK (R394). -/
  | mpllLock
  /-- REFIN_LOSS (R393). -/
  | refinLoss
  /-- CLKOUT_CFG_WRITE (R398). -/
  | clkoutCfgWrite (q : Req) (v : Nat)
  /-- CLOCK_SWITCH_DONE (R397). -/
  | clockSwitchDone
  /-- CLOCK_SWITCH_TIMEOUT (R397). -/
  | clockSwitchTimeout
  /-- DDR_PLL_LOCK (R395). -/
  | ddrPllLock (n : Nat)
  /-- FM_START (R399). -/
  | fmStart (q : Req)
  /-- FM_DONE (R399). -/
  | fmDone (count : Nat)
  /-- GATE_CLOSE (R400). -/
  | gateClose (q : Req) (u : Nat)
  /-- GATE_OPEN (R401). -/
  | gateOpen (q : Req) (u : Nat)
  /-- GATE_CLOSED (R401). -/
  | gateClosed (u : Nat)
  /-- GATE_CLOSE_FORCE (R401). -/
  | gateCloseForce (u : Nat)
  /-- GATE_OPENED (R401). -/
  | gateOpened (u : Nat)
  /-- POWER_OFF (R404). -/
  | powerOff (q : Req) (d : Nat)
  /-- POWER_ON (R404). -/
  | powerOn (q : Req) (d : Nat)
  /-- POR (R405). -/
  | por (board : Board)
  /-- BROWNOUT (R405). -/
  | brownout
  /-- PIN_RESET (R405). -/
  | pinReset
  /-- NRESET_RISE (R407). -/
  | nresetRise (straps : Nat)
  /-- SOFT_RESET (R405). -/
  | softReset (q : Req)
  /-- THERMAL_TRIP (R408). -/
  | thermalTrip
  /-- RESET_END (R407). -/
  | resetEnd
  /-- SUP_READY (R407). -/
  | supReady
  /-- TEMP_SAMPLE (R408). -/
  | tempSample (temps : List Nat)
  /-- RAIL_SAMPLE (R409). -/
  | railSample (r : Nat) (mv : Nat)
  /-- AUTO_LOAD (R414). -/
  | autoLoad (flash : Flash)
  /-- LOAD_FULL (R432). -/
  | loadFull (q : Req) (flash : Flash)
  /-- LOAD_PARTIAL (R432). -/
  | loadPartial (q : Req) (flash : Flash)
  /-- LOAD_ABORT (R432). -/
  | loadAbort (q : Req)
  /-- STREAM_WRITE (R433). -/
  | streamWrite (q : Req) (len : Nat) (v : Nat)
  /-- STREAM_HEADER (R419). -/
  | streamHeader
  /-- CHUNK_CHECK (R420). -/
  | chunkCheck
  /-- MANIFEST_FRAME (R423). -/
  | manifestFrame (c : Manifest)
  /-- CELL_FRAME (R423). -/
  | cellFrame (c : List CellCfg)
  /-- ROUTE_FRAME (R423). -/
  | routeFrame (sels : List Nat)
  /-- PANE_FRAME (R423). -/
  | paneFrame
  /-- IO_FRAME (R423). -/
  | ioFrame
  /-- END_FRAME (R434). -/
  | endFrame
  /-- HOST_DATA_TIMEOUT (R425). -/
  | hostDataTimeout
  /-- FLP_START (R440). -/
  | flpStart (q : Req)
  /-- FLP_ABORT (R440). -/
  | flpAbort (q : Req)
  /-- WRITE_BBRAM (R429). -/
  | writeBbram (q : Req)
  /-- ZEROISE (R430). -/
  | zeroise (q : Req)
  /-- FUSE_KEY (R429). -/
  | fuseKey (q : Req)
  /-- FUSE_POLICY (R429). -/
  | fusePolicy (q : Req)
  /-- KEY_COMMAND_END (R429). -/
  | keyCommandEnd (ok : Bool)
  /-- TAMPER (R430). -/
  | tamper (cause : Nat)
  /-- LOUPE_FRAME_SCAN (R447). -/
  | loupeFrameScan
  /-- LOUPE_RELOAD (R450). -/
  | loupeReload
  /-- LOUPE_RELOAD_END (R451). -/
  | loupeReloadEnd (ok : Bool)
  /-- HEARTBEAT_CHECK (R454). -/
  | heartbeatCheck
  /-- LOUPE_EN_WRITE (R455). -/
  | loupeEnWrite (q : Req) (v : Nat)
  /-- SHA256 (R460). -/
  | cjSha256 (q : Req)
  /-- HMAC (R460). -/
  | cjHmac (q : Req)
  /-- CRYPTO_JOB_END (R461). -/
  | cryptoJobEnd
  /-- WDOG_WARN (R462). -/
  | wdogWarn
  /-- WDOG_EXPIRY (R462). -/
  | wdogExpiry
  /-- HOST_KICK (R464). -/
  | hostKick (q : Req) (v : Nat)
  /-- HOST_WD_EXPIRY (R464). -/
  | hostWdExpiry
  /-- EVENT_RAISE (R465). -/
  | eventRaise
  /-- FABRIC_EVENT_PULSE (R471). -/
  | fabricEventPulse (k : Nat)
  /-- LOG_POP (R468). -/
  | logPop (q : Req)
  /-- IBI_REQUEST (R469). -/
  | ibiRequest (ack : Bool)
  /-- LEDGER_CHECK (R507). -/
  | ledgerCheck
  /-- EXTEST (R478). -/
  | extest
  /-- SAMPLE_PRELOAD (R478). -/
  | samplePreload
  /-- IDCODE (R476). -/
  | idcode
  /-- CLAMP (R478). -/
  | clamp
  /-- HIGHZ (R478). -/
  | highz
  /-- EXTEST_PULSE (R477). -/
  | extestPulse
  /-- EXTEST_TRAIN (R477). -/
  | extestTrain
  /-- DBGFRAME (R479). -/
  | dbgframe (op : Nat) (tag : FrameTag) (o : Nat) (m : Nat) (len : Nat) (v : Nat)
  /-- BYPASS (R476). -/
  | bypass
  /-- TRST (R478). -/
  | trst
  /-- AUTH_CUSTOMER_L2 (R480). -/
  | authCustomerL2 (q : Req)
  /-- AUTH_CUSTOMER_L3 (R480). -/
  | authCustomerL3 (q : Req)
  /-- AUTH_VENDOR (R480). -/
  | authVendor (q : Req)
  /-- AUTH_DROP (R480). -/
  | authDrop (q : Req)
  /-- AUTH_RESP (R481). -/
  | authResp (q : Req) (v : Nat)
  /-- DBG_FUSE_KEY2 (R484). -/
  | dbgFuseKey2 (q : Req)
  /-- DBG_FUSE_KEY3 (R484). -/
  | dbgFuseKey3 (q : Req)
  /-- DBG_FUSE_POLICY (R484). -/
  | dbgFusePolicy (q : Req)
  /-- DBG_RESET (R484). -/
  | dbgReset (q : Req)
  /-- BRK_ALLOC (R485). -/
  | brkAlloc (q : Req)
  /-- BRK_CFG_WRITE (R486). -/
  | brkCfgWrite (q : Req) (u : Nat) (v : Nat)
  /-- BRK_REARM (R488). -/
  | brkRearm (q : Req) (u : Nat)
  /-- BRK_FREE (R485). -/
  | brkFree (q : Req) (u : Nat)
  /-- GROUP_HALT_LATCH (R489). -/
  | groupHaltLatch (g : Nat)
  /-- DBG_HALT (R490). -/
  | dbgHalt (q : Req) (t : Nat)
  /-- DBG_RESUME (R490). -/
  | dbgResume (q : Req) (t : Nat)
  /-- DBG_STEP (R491). -/
  | dbgStep (q : Req) (t : Nat)
  /-- MOLXO_HALT_LANDS (R493). -/
  | molxoHaltLands
  /-- DBG_REG_ACCESS (R495). -/
  | dbgRegAccess (q : Req) (t : Nat) (wr : Bool) (v : Nat)
  /-- MEM_DATA_WRITE (R497). -/
  | memDataWrite (q : Req) (len : Nat) (v : Nat)
  /-- MEM_DATA_FETCH (R497). -/
  | memDataFetch (q : Req) (size : Nat)
  /-- T_DTX_WRITE (R498). -/
  | tDtxWrite (q : Req) (t : Nat) (v : Nat)
  /-- DTX_READ (R498). -/
  | dtxRead (q : Req) (t : Nat)
  /-- DRX_WRITE (R498). -/
  | drxWrite (q : Req) (t : Nat) (v : Nat)
  /-- T_DRX_READ (R498). -/
  | tDrxRead (q : Req) (t : Nat)
  /-- RETIRE_WRITE (R512). -/
  | retireWrite (q : Req) (k : Nat) (v : Nat)
  /-- INVALID_HEADER (R327). -/
  | invalidHeader (n : Nat)
  /-- PRBS_CHECKER (R340). -/
  | prbsChecker (n : Nat) (syms : List Nat)
  /-- LREF_LOSS (R342). -/
  | lrefLoss (k : Nat)
  /-- TAIL_TO_HEAD_MOVE (R226). -/
  | tailToHeadMove (q : Nat)
  /-- DOMAIN_OFF (R404). -/
  | domainOff (d : Nat)
  /-- FLASH_TIMEOUT (R425). -/
  | flashTimeout
  /-- WDOG_RESTART (R462). -/
  | wdogRestart
  /-- LOUPE_HEARTBEAT_IDLE (R454). -/
  | loupeHeartbeatIdle
  /-- PULLSEL_CHANGE (R529). -/
  | pullselChange (b : Nat) (v : Nat)
  /-- VIO_RAIL_CHANGE (R529). -/
  | vioRailChange (b : Nat) (ok : Bool) (level : Nat)
  deriving DecidableEq, Repr

end Sys2Proof
end

