-- ==== Sys2Proof/Decode.lean ====
section
/-! DEFINITION. The decoder of table words. The opcode table gives no row of this block any bits (its commands arrive
through the block's own interfaces), so every word spells no command. -/
namespace Sys2Proof

/-- The command a word of nbits bits spells by the table's bits: none. -/
def decodeTableWord (_nbits _w : Nat) : Option Instr := none

end Sys2Proof
end

