-- ==== Sys2Proof/Config.lean ====
section
/-! DEFINITION. The free values: results the manual leaves open. None has a body, so a claim about one holds
whatever it is. -/
namespace Sys2Proof.Config

/-- Values the manual leaves unspecified, drawn by the state's counter freeCtr (log entry 9): the DFE taps, the
DIMM registers, the result of a race that a rule calls unspecified. -/
opaque free : Nat → Nat

/-- IDLE blocks a lane has sent between its last sending and an instant (12 R332; log entry 51). -/
opaque idles : (lane now : Nat) → Nat

/-- The symbol a lane received before the first one it checks in RUN (12 R322; log entry 51). -/
opaque rxBefore : (lane now : Nat) → Nat

/-- Where a lane's sequence generator begins after START or RETRAIN at an instant (12 R340; log entry 51). -/
opaque prbsStart : (lane began : Nat) → Nat

/-- The test edges of OUT channel c in a focus run: k = 0 adds to the least period, 1 sets the high time, 2 the phase (07 R200; log
entry 56). -/
opaque testWave : (c k : Nat) → Nat

/-- The pattern of a channel at instant t in a self-check, and what an IN channel held by a run sees of its injected pulses (07
R199, R203; log entry 56). -/
opaque testLevel : (c t : Nat) → Nat

/-- The brown-out level of core rail r in millivolts where the manual gives none (15 R405; log entry 54). -/
opaque brownLevel : (r : Nat) → Nat

/-- The vendor's authorisation key (19 R481), known to the vendor alone. -/
opaque vendorKey : Nat

/-- The 32-byte challenge drawn at the i-th authorisation flow (19 R481): a random number. -/
opaque challenge : Nat → Nat

end Sys2Proof.Config
end

