-- ==== Sys2Proof/Machine/Keys.lean ====
section
/-! DEFINITION. Keys of the dictionary members: object x 256 + member, under the names of the object tables
(02 R53, 03 R108, 04 R138, 05 R161, 06 R191, 07 R206, 08 R244, 09 R273, 10 R295 and R296, 11 R315, 12 R342, 13 R366,
14 R389, 15 R410, 16 R442, 17 R456, 18 R473, 19 R499, 20 R508 and R512). n is the unit, k the member within its run. -/
namespace Sys2Proof.Machine

/-- 02 R53. -/
abbrev HDI.IDENT (k : Nat) : Nat := 0x0 + k
/-- 02 R53. -/
abbrev HDI.STATUS : Nat := 0x100
/-- 02 R53. -/
abbrev HDI.LEVEL : Nat := 0x200
/-- 02 R53. -/
abbrev HDI.STATS (k : Nat) : Nat := 0x300 + k
/-- 02 R53. -/
abbrev HDI.STATS_CLR : Nat := 0x3FF
/-- 02 R53. -/
abbrev HDI.MIRROR_OWNER : Nat := 0x1000
/-- 02 R53. -/
abbrev HDI.MIRROR_LEASE : Nat := 0x1001
/-- 02 R53. -/
abbrev HDI.MIRROR_ENTRIES : Nat := 0x1002
/-- 02 R53. -/
abbrev HDI.MIRROR_BYTES : Nat := 0x1003
/-- 02 R53. -/
abbrev HDI.MIRROR_STATE : Nat := 0x1004
/-- 02 R53. -/
abbrev HDI.BATCH_CHECK : Nat := 0x1005
/-- 02 R53. -/
abbrev HDI.BATCH_DISCARD : Nat := 0x1006
/-- 02 R53. -/
abbrev HDI.BATCH_RESULT : Nat := 0x1007
/-- 02 R53. -/
abbrev HDI.BATCH_FAIL : Nat := 0x1008
/-- 02 R53. -/
abbrev HDI.APPLY_MODE : Nat := 0x1100
/-- 02 R53. -/
abbrev HDI.APPLY_TIME : Nat := 0x1101
/-- 02 R53. -/
abbrev HDI.APPLY_ARM : Nat := 0x1102
/-- 02 R53. -/
abbrev HDI.APPLY_CANCEL : Nat := 0x1103
/-- 02 R53. -/
abbrev HDI.APPLIED_AT : Nat := 0x1104
/-- 02 R53. -/
abbrev HDI.EDGE_PHASE : Nat := 0x1105
/-- 02 R53. -/
abbrev HDI.SYNC_DELAY : Nat := 0x1106
/-- 02 R53. -/
abbrev HDI.APPLY_OUTCOME : Nat := 0x1107
/-- 02 R53. -/
abbrev HDI.FETCH_PENDING : Nat := 0x1200
/-- 02 R53. -/
abbrev HDI.SLOT (k : Nat) : Nat := 0x2001 + k
/-- 02 R53. -/
abbrev HDI.MESH_ADDR : Nat := 0x3000
/-- 02 R53. -/
abbrev HDI.MESH_DATA : Nat := 0x3001
/-- 02 R53. -/
abbrev HDI.MESH_ERRORS : Nat := 0x3002
/-- 03 R108. -/
abbrev VEN.RUNNING : Nat := 0x700000
/-- 03 R108. -/
abbrev VEN.STATE (n : Nat) : Nat := (0x7100 + n) * 256 + 0
/-- 03 R108. -/
abbrev VEN.CTRL (n : Nat) : Nat := (0x7100 + n) * 256 + 1
/-- 03 R108. -/
abbrev VEN.SITE_TAG (n : Nat) : Nat := (0x7100 + n) * 256 + 2
/-- 03 R108. -/
abbrev VEN.PERIOD (n : Nat) : Nat := (0x7100 + n) * 256 + 3
/-- 03 R108. -/
abbrev VEN.PROG_BASE (n : Nat) : Nat := (0x7100 + n) * 256 + 4
/-- 03 R108. -/
abbrev VEN.ENTRY (n : Nat) : Nat := (0x7100 + n) * 256 + 5
/-- 03 R108. -/
abbrev VEN.START_ON_APPLY (n : Nat) : Nat := (0x7100 + n) * 256 + 6
/-- 03 R108. -/
abbrev VEN.START_AT (n : Nat) : Nat := (0x7100 + n) * 256 + 7
/-- 03 R108. -/
abbrev VEN.PTO (n : Nat) : Nat := (0x7100 + n) * 256 + 8
/-- 03 R108. -/
abbrev VEN.PTO_LEFT (n : Nat) : Nat := (0x7100 + n) * 256 + 9
/-- 03 R108. -/
abbrev VEN.PARK_TSET (n : Nat) : Nat := (0x7100 + n) * 256 + 10
/-- 03 R108. -/
abbrev VEN.PC (n : Nat) : Nat := (0x7100 + n) * 256 + 11
/-- 03 R108. -/
abbrev VEN.CYCLES (n : Nat) : Nat := (0x7100 + n) * 256 + 12
/-- 03 R108. -/
abbrev VEN.FLAGS (n : Nat) : Nat := (0x7100 + n) * 256 + 13
/-- 03 R108. -/
abbrev VEN.FAULT (n : Nat) : Nat := (0x7100 + n) * 256 + 14
/-- 03 R108. -/
abbrev VEN.FAULT_PC (n : Nat) : Nat := (0x7100 + n) * 256 + 15
/-- 03 R108. -/
abbrev VEN.DEPTH (n : Nat) : Nat := (0x7100 + n) * 256 + 16
/-- 03 R108. -/
abbrev VEN.EVENTS (n : Nat) : Nat := (0x7100 + n) * 256 + 17
/-- 03 R108. -/
abbrev VEN.LAND_CYCLE (n : Nat) : Nat := (0x7100 + n) * 256 + 18
/-- 03 R108. -/
abbrev VEN.T0 (n : Nat) : Nat := (0x7100 + n) * 256 + 19
/-- 03 R108. -/
abbrev VEN.SELFCHECK (n : Nat) : Nat := (0x7100 + n) * 256 + 20
/-- 03 R108. -/
abbrev VEN.OWNED (n : Nat) : Nat := (0x7100 + n) * 256 + 21
/-- 03 R108. -/
abbrev VEN.CTR (n k : Nat) : Nat := (0x7100 + n) * 256 + 32 + k
/-- 04 R138. -/
abbrev VEN.BUF_MODE (n : Nat) : Nat := (0x7100 + n) * 256 + 22
/-- 04 R138. -/
abbrev VEN.AHEAD (n : Nat) : Nat := (0x7100 + n) * 256 + 23
/-- 04 R138. -/
abbrev VEN.REFILL_ISSUED (n : Nat) : Nat := (0x7100 + n) * 256 + 24
/-- 04 R138. -/
abbrev VEN.REFILL_DONE (n : Nat) : Nat := (0x7100 + n) * 256 + 25
/-- 04 R138. -/
abbrev VEN.BUF_LINES (n : Nat) : Nat := (0x7100 + n) * 256 + 26
/-- 04 R138. -/
abbrev VEN.APG_BIND (n : Nat) : Nat := (0x7100 + n) * 256 + 27
/-- 04 R138. -/
abbrev VEN.APG_LEVEL (n : Nat) : Nat := (0x7100 + n) * 256 + 28
/-- 04 R138. -/
abbrev VEN.APG_TAKEN (n : Nat) : Nat := (0x7100 + n) * 256 + 29
/-- 04 R138. -/
abbrev VEN.APG_USED (n : Nat) : Nat := (0x7100 + n) * 256 + 30
/-- 04 R138. -/
abbrev VEN.APG_DISCARD (n : Nat) : Nat := (0x7100 + n) * 256 + 31
/-- 04 R138. -/
abbrev VEN.ACTION (n k : Nat) : Nat := (0x7200 + n) * 256 + 0 + k
/-- 04 R138. -/
abbrev VEN.CONST (n k : Nat) : Nat := (0x7300 + n) * 256 + 0 + k
/-- 04 R138. -/
abbrev VEN.APG_SEL (n k : Nat) : Nat := (0x7400 + n) * 256 + 0 + k
/-- 04 R138. -/
abbrev VEN.REFLECT (n k : Nat) : Nat := (0x7500 + n) * 256 + 0 + k
/-- 05 R161. -/
abbrev FAB.CELLS : Nat := 0x400000
/-- 05 R161. -/
abbrev FAB.FACETS : Nat := 0x400001
/-- 05 R161. -/
abbrev FAB.RELEASED : Nat := 0x400100
/-- 05 R161. -/
abbrev FAB.USER_REQ : Nat := 0x400101
/-- 05 R161. -/
abbrev FAB.IO_BANK (k : Nat) : Nat := 0x400200 + k
/-- 05 R161. -/
abbrev FAB.CTRL (n : Nat) : Nat := (0x4100 + n) * 256 + 0
/-- 05 R161. -/
abbrev FAB.STATUS (n : Nat) : Nat := (0x4100 + n) * 256 + 1
/-- 05 R161. -/
abbrev FAB.DESIGN_ID (n : Nat) : Nat := (0x4100 + n) * 256 + 2
/-- 05 R161. -/
abbrev FAB.MESH_ISSUED (n : Nat) : Nat := (0x4100 + n) * 256 + 3
/-- 05 R161. -/
abbrev FAB.MESH_DONE (n : Nat) : Nat := (0x4100 + n) * 256 + 4
/-- 05 R161. -/
abbrev FAB.MESH_DISCARD (n : Nat) : Nat := (0x4100 + n) * 256 + 5
/-- 05 R161. -/
abbrev FAB.USER_IN (n k : Nat) : Nat := (0x4200 + n) * 256 + 0 + k
/-- 05 R161. -/
abbrev FAB.USER_OUT (n k : Nat) : Nat := (0x4200 + n) * 256 + 16 + k
/-- 06 R191. -/
abbrev EDG.OUT_CHANNELS : Nat := 0x800000
/-- 06 R191. -/
abbrev EDG.IN_CHANNELS : Nat := 0x800001
/-- 06 R191. -/
abbrev EDG.DROP_GROUPS : Nat := 0x800100
/-- 06 R191. -/
abbrev EDG.OTSET (n k : Nat) : Nat := (0x8100 + n) * 256 + 0 + k
/-- 06 R191. -/
abbrev EDG.ITSET (n k : Nat) : Nat := (0x8200 + n) * 256 + 0 + k
/-- 06 R191. -/
abbrev EDG.OSTATE (n : Nat) : Nat := (0x8300 + n) * 256 + 0
/-- 06 R191. -/
abbrev EDG.ODESKEW (n : Nat) : Nat := (0x8300 + n) * 256 + 1
/-- 06 R191. -/
abbrev EDG.OPOL (n : Nat) : Nat := (0x8300 + n) * 256 + 2
/-- 06 R191. -/
abbrev EDG.OOWNER (n : Nat) : Nat := (0x8300 + n) * 256 + 3
/-- 06 R191. -/
abbrev EDG.EDGE_DROP (n : Nat) : Nat := (0x8300 + n) * 256 + 4
/-- 06 R191. -/
abbrev EDG.OLEVEL (n : Nat) : Nat := (0x8300 + n) * 256 + 5
/-- 06 R191. -/
abbrev EDG.ISTATE (n : Nat) : Nat := (0x8400 + n) * 256 + 0
/-- 06 R191. -/
abbrev EDG.IDESKEW (n : Nat) : Nat := (0x8400 + n) * 256 + 1
/-- 06 R191. -/
abbrev EDG.IPOL (n : Nat) : Nat := (0x8400 + n) * 256 + 2
/-- 06 R191. -/
abbrev EDG.IOWNER (n : Nat) : Nat := (0x8400 + n) * 256 + 3
/-- 06 R191. -/
abbrev EDG.STROBE_DROP (n : Nat) : Nat := (0x8400 + n) * 256 + 4
/-- 06 R191. -/
abbrev EDG.ILEVEL (n : Nat) : Nat := (0x8400 + n) * 256 + 5
/-- 06 R191. -/
abbrev EDG.OMAP (n k : Nat) : Nat := (0x8500 + n) * 256 + 0 + k
/-- 06 R191. -/
abbrev EDG.IMAP (n k : Nat) : Nat := (0x8600 + n) * 256 + 0 + k
/-- 07 R206. -/
abbrev EDG.OCAL (n k : Nat) : Nat := (0x8700 + n) * 256 + 0 + k
/-- 07 R206. -/
abbrev EDG.ICAL (n k : Nat) : Nat := (0x8800 + n) * 256 + 0 + k
/-- 07 R206. -/
abbrev EDG.GROUP (n : Nat) : Nat := (0x8900 + n) * 256 + 0
/-- 07 R206. -/
abbrev EDG.FOCUS_CTRL : Nat := 0x8F0000
/-- 07 R206. -/
abbrev EDG.FOCUS_STATE : Nat := 0x8F0001
/-- 07 R206. -/
abbrev EDG.TRACK : Nat := 0x8F0002
/-- 07 R206. -/
abbrev EDG.STALE_GROUPS : Nat := 0x8F0005
/-- 07 R206. -/
abbrev EDG.FOCUS_SEL (k : Nat) : Nat := 0x8F0100 + k
/-- 07 R213. -/
abbrev CFG.TRIM_SLOT : Nat := 0x360000
/-- 07 R213. -/
abbrev CFG.TRIM_GEN : Nat := 0x360001
/-- 07 R213. -/
abbrev CFG.TRIM_RESULT : Nat := 0x360002
/-- 07 R213. -/
abbrev CFG.TRIM_CTRL : Nat := 0x360003
/-- 07 R213. -/
abbrev CFG.TRIM_BUSY : Nat := 0x360004
/-- 07 R213. -/
abbrev CFG.TRIM_WEAR (k : Nat) : Nat := 0x360100 + k
/-- 07 R213. -/
abbrev CFG.TRIM_IMAGE (k : Nat) : Nat := 0x360200 + k
/-- 07 R213. -/
abbrev CFG.TRIM_STAGE (k : Nat) : Nat := 0x360300 + k
/-- 08 R244. -/
abbrev FCP.QUEUES : Nat := 0x900000
/-- 08 R244. -/
abbrev FCP.EV_QUEUES : Nat := 0x900100
/-- 08 R244. -/
abbrev FCP.MODE (n : Nat) : Nat := (0x9100 + n) * 256 + 0
/-- 08 R244. -/
abbrev FCP.POLICY (n : Nat) : Nat := (0x9100 + n) * 256 + 1
/-- 08 R244. -/
abbrev FCP.STOP_N (n : Nat) : Nat := (0x9100 + n) * 256 + 2
/-- 08 R244. -/
abbrev FCP.BM_BASE (n : Nat) : Nat := (0x9100 + n) * 256 + 3
/-- 08 R244. -/
abbrev FCP.BM_CFG (n : Nat) : Nat := (0x9100 + n) * 256 + 4
/-- 08 R244. -/
abbrev FCP.BM_AMASK (n : Nat) : Nat := (0x9100 + n) * 256 + 5
/-- 08 R244. -/
abbrev FCP.BM_PMASK (n : Nat) : Nat := (0x9100 + n) * 256 + 6
/-- 08 R244. -/
abbrev FCP.STOPPED_BY (n : Nat) : Nat := (0x9100 + n) * 256 + 7
/-- 08 R244. -/
abbrev FCP.RUN_FAILS (n : Nat) : Nat := (0x9100 + n) * 256 + 8
/-- 08 R244. -/
abbrev FCP.CNT_SAT (n : Nat) : Nat := (0x9100 + n) * 256 + 9
/-- 08 R244. -/
abbrev FCP.FAILCYC (n : Nat) : Nat := (0x9100 + n) * 256 + 16
/-- 08 R244. -/
abbrev FCP.REC_FORMED (n : Nat) : Nat := (0x9100 + n) * 256 + 17
/-- 08 R244. -/
abbrev FCP.REC_QUEUED (n : Nat) : Nat := (0x9100 + n) * 256 + 18
/-- 08 R244. -/
abbrev FCP.REC_DROP_CAP (n : Nat) : Nat := (0x9100 + n) * 256 + 19
/-- 08 R244. -/
abbrev FCP.REC_DROP_RING (n : Nat) : Nat := (0x9100 + n) * 256 + 20
/-- 08 R244. -/
abbrev FCP.REC_CAPPED (n : Nat) : Nat := (0x9100 + n) * 256 + 21
/-- 08 R244. -/
abbrev FCP.CAP_LEVEL (n : Nat) : Nat := (0x9100 + n) * 256 + 22
/-- 08 R244. -/
abbrev FCP.BM_FORMED (n : Nat) : Nat := (0x9100 + n) * 256 + 24
/-- 08 R244. -/
abbrev FCP.BM_LEVEL (n : Nat) : Nat := (0x9100 + n) * 256 + 25
/-- 08 R244. -/
abbrev FCP.BM_INFLIGHT (n : Nat) : Nat := (0x9100 + n) * 256 + 26
/-- 08 R244. -/
abbrev FCP.BM_DONE (n : Nat) : Nat := (0x9100 + n) * 256 + 27
/-- 08 R244. -/
abbrev FCP.BM_ERR (n : Nat) : Nat := (0x9100 + n) * 256 + 28
/-- 08 R244. -/
abbrev FCP.BM_DROP (n : Nat) : Nat := (0x9100 + n) * 256 + 29
/-- 08 R244. -/
abbrev FCP.BM_MERGED (n : Nat) : Nat := (0x9100 + n) * 256 + 30
/-- 08 R244. -/
abbrev FCP.FCOUNT (n : Nat) : Nat := (0x9200 + n) * 256 + 0
/-- 08 R244. -/
abbrev FCP.FCOUNT_CLR (n : Nat) : Nat := (0x9200 + n) * 256 + 1
/-- 08 R244. -/
abbrev FCP.Q_RING_BASE (n : Nat) : Nat := (0x9300 + n) * 256 + 0
/-- 08 R244. -/
abbrev FCP.Q_RING_LINES (n : Nat) : Nat := (0x9300 + n) * 256 + 1
/-- 08 R244. -/
abbrev FCP.Q_CTRL (n : Nat) : Nat := (0x9300 + n) * 256 + 2
/-- 08 R244. -/
abbrev FCP.Q_STATE (n : Nat) : Nat := (0x9300 + n) * 256 + 3
/-- 08 R244. -/
abbrev FCP.Q_PKTS (n : Nat) : Nat := (0x9300 + n) * 256 + 4
/-- 08 R244. -/
abbrev FCP.Q_WORDS (n : Nat) : Nat := (0x9300 + n) * 256 + 5
/-- 08 R244. -/
abbrev FCP.Q_IN (n : Nat) : Nat := (0x9300 + n) * 256 + 6
/-- 08 R244. -/
abbrev FCP.Q_OUT (n : Nat) : Nat := (0x9300 + n) * 256 + 7
/-- 08 R244. -/
abbrev FCP.Q_FLUSHED (n : Nat) : Nat := (0x9300 + n) * 256 + 8
/-- 08 R244. -/
abbrev FCP.Q_ERR_WORDS (n : Nat) : Nat := (0x9300 + n) * 256 + 9
/-- 08 R244. -/
abbrev FCP.Q_REFUSED (n : Nat) : Nat := (0x9300 + n) * 256 + 10
/-- 08 R244. -/
abbrev FCP.Q_LINES (n : Nat) : Nat := (0x9300 + n) * 256 + 11
/-- 08 R244. -/
abbrev FCP.Q_HWM (n : Nat) : Nat := (0x9300 + n) * 256 + 12
/-- 08 R244. -/
abbrev FCP.Q_THRESH (n : Nat) : Nat := (0x9300 + n) * 256 + 13
/-- 08 R244. -/
abbrev FCP.Q_EVFLAGS (n : Nat) : Nat := (0x9300 + n) * 256 + 14
/-- 08 R244. -/
abbrev FCP.PUSH (n : Nat) : Nat := (0x9300 + n) * 256 + 16
/-- 08 R244. -/
abbrev FCP.PUSH_END (n : Nat) : Nat := (0x9300 + n) * 256 + 17
/-- 08 R244. -/
abbrev FCP.POP (n : Nat) : Nat := (0x9300 + n) * 256 + 18
/-- 08 R244. -/
abbrev FCP.POP_MARK (n : Nat) : Nat := (0x9300 + n) * 256 + 19
/-- 08 R244. -/
abbrev FCP.POPREC (n : Nat) : Nat := (0x9300 + n) * 256 + 20
/-- 09 R273. -/
abbrev DMC.MAP_STATE : Nat := 0xB00000
/-- 09 R273. -/
abbrev DMC.INSTALLED : Nat := 0xB00001
/-- 09 R273. -/
abbrev DMC.WAYS : Nat := 0xB00002
/-- 09 R273. -/
abbrev DMC.SPEED : Nat := 0xB00003
/-- 09 R273. -/
abbrev DMC.EXCLUDE : Nat := 0xB00004
/-- 09 R273. -/
abbrev DMC.RETAIN : Nat := 0xB00005
/-- 09 R273. -/
abbrev DMC.RANK_BYTES : Nat := 0xB00006
/-- 09 R273. -/
abbrev DMC.CTRL (n : Nat) : Nat := (0xB100 + n) * 256 + 0
/-- 09 R273. -/
abbrev DMC.STATE (n : Nat) : Nat := (0xB100 + n) * 256 + 1
/-- 09 R273. -/
abbrev DMC.CONFIG (n : Nat) : Nat := (0xB100 + n) * 256 + 2
/-- 09 R273. -/
abbrev DMC.CAPACITY (n : Nat) : Nat := (0xB100 + n) * 256 + 3
/-- 09 R273. -/
abbrev DMC.TRAIN_RESULT (n : Nat) : Nat := (0xB100 + n) * 256 + 4
/-- 09 R273. -/
abbrev DMC.RETRAINS (n : Nat) : Nat := (0xB100 + n) * 256 + 5
/-- 09 R273. -/
abbrev DMC.AUTO_RETRAIN (n : Nat) : Nat := (0xB100 + n) * 256 + 6
/-- 09 R273. -/
abbrev DMC.DIMM_TEMP (n : Nat) : Nat := (0xB100 + n) * 256 + 7
/-- 09 R273. -/
abbrev DMC.AGE_LIMIT (n k : Nat) : Nat := (0xB100 + n) * 256 + 8 + k
/-- 09 R273. -/
abbrev DMC.RESERVE (n k : Nat) : Nat := (0xB100 + n) * 256 + 12 + k
/-- 09 R273. -/
abbrev DMC.ACCEPTED (n k : Nat) : Nat := (0xB100 + n) * 256 + 16 + k
/-- 09 R273. -/
abbrev DMC.DONE (n k : Nat) : Nat := (0xB100 + n) * 256 + 20 + k
/-- 09 R273. -/
abbrev DMC.ERRORS (n k : Nat) : Nat := (0xB100 + n) * 256 + 24 + k
/-- 09 R273. -/
abbrev DMC.INFLIGHT (n k : Nat) : Nat := (0xB100 + n) * 256 + 28 + k
/-- 09 R273. -/
abbrev DMC.PROMOTED (n : Nat) : Nat := (0xB100 + n) * 256 + 32
/-- 09 R273. -/
abbrev DMC.LATE (n : Nat) : Nat := (0xB100 + n) * 256 + 33
/-- 09 R273. -/
abbrev DMC.COMBINED (n : Nat) : Nat := (0xB100 + n) * 256 + 34
/-- 09 R273. -/
abbrev DMC.CE (n : Nat) : Nat := (0xB100 + n) * 256 + 35
/-- 09 R273. -/
abbrev DMC.UE (n : Nat) : Nat := (0xB100 + n) * 256 + 36
/-- 09 R273. -/
abbrev DMC.UE_ADDR (n : Nat) : Nat := (0xB100 + n) * 256 + 37
/-- 09 R273. -/
abbrev DMC.RH_THRESH (n : Nat) : Nat := (0xB100 + n) * 256 + 38
/-- 09 R273. -/
abbrev DMC.RH_GAP (n : Nat) : Nat := (0xB100 + n) * 256 + 39
/-- 09 R273. -/
abbrev DMC.RH_HOLD (n : Nat) : Nat := (0xB100 + n) * 256 + 40
/-- 09 R273. -/
abbrev DMC.RH_EVENTS (n : Nat) : Nat := (0xB100 + n) * 256 + 41
/-- 09 R273. -/
abbrev DMC.THROTTLED (n : Nat) : Nat := (0xB100 + n) * 256 + 42
/-- 09 R273. -/
abbrev DMC.RETAIN_TOUCH (n : Nat) : Nat := (0xB100 + n) * 256 + 43
/-- 09 R273. -/
abbrev DMC.PATROL (n : Nat) : Nat := (0xB100 + n) * 256 + 44
/-- 09 R273. -/
abbrev DMC.EVFLAGS (n : Nat) : Nat := (0xB100 + n) * 256 + 45
/-- 10 R295. -/
abbrev PAN.STEAL_LIMIT : Nat := 0x500000
/-- 10 R295. -/
abbrev PAN.EV_FACETS : Nat := 0x500001
/-- 10 R295. -/
abbrev PAN.MODE (n : Nat) : Nat := (0x5100 + n) * 256 + 0
/-- 10 R295. -/
abbrev PAN.CTRL (n : Nat) : Nat := (0x5100 + n) * 256 + 1
/-- 10 R295. -/
abbrev PAN.STATE (n : Nat) : Nat := (0x5100 + n) * 256 + 2
/-- 10 R295. -/
abbrev PAN.LEVEL (n : Nat) : Nat := (0x5100 + n) * 256 + 3
/-- 10 R295. -/
abbrev PAN.PUSHED (n : Nat) : Nat := (0x5100 + n) * 256 + 4
/-- 10 R295. -/
abbrev PAN.POPPED (n : Nat) : Nat := (0x5100 + n) * 256 + 5
/-- 10 R295. -/
abbrev PAN.DISCARD (n : Nat) : Nat := (0x5100 + n) * 256 + 6
/-- 10 R295. -/
abbrev PAN.REFUSED (n : Nat) : Nat := (0x5100 + n) * 256 + 7
/-- 10 R295. -/
abbrev PAN.PERR (n : Nat) : Nat := (0x5100 + n) * 256 + 8
/-- 10 R295. -/
abbrev PAN.STEAL_TIMEOUT (n : Nat) : Nat := (0x5100 + n) * 256 + 9
/-- 10 R295. -/
abbrev PAN.TEST_RESULT (n : Nat) : Nat := (0x5100 + n) * 256 + 10
/-- 10 R295. -/
abbrev PAN.REPAIR (n : Nat) : Nat := (0x5100 + n) * 256 + 11
/-- 10 R295. -/
abbrev PAN.EVFLAGS (n : Nat) : Nat := (0x5100 + n) * 256 + 12
/-- 10 R296. -/
abbrev SCR.STEAL_LIMIT : Nat := 0x600000
/-- 10 R296. -/
abbrev SCR.EV_BANKS : Nat := 0x600001
/-- 10 R296. -/
abbrev SCR.OWNER (n k : Nat) : Nat := (0x6100 + n) * 256 + 0 + k
/-- 10 R296. -/
abbrev SCR.CTRL (n : Nat) : Nat := (0x6100 + n) * 256 + 2
/-- 10 R296. -/
abbrev SCR.STATE (n : Nat) : Nat := (0x6100 + n) * 256 + 3
/-- 10 R296. -/
abbrev SCR.CE (n : Nat) : Nat := (0x6100 + n) * 256 + 4
/-- 10 R296. -/
abbrev SCR.UE (n : Nat) : Nat := (0x6100 + n) * 256 + 5
/-- 10 R296. -/
abbrev SCR.COLLIDE (n : Nat) : Nat := (0x6100 + n) * 256 + 6
/-- 10 R296. -/
abbrev SCR.STEAL_TIMEOUT (n : Nat) : Nat := (0x6100 + n) * 256 + 7
/-- 10 R296. -/
abbrev SCR.TEST_TOUCH (n : Nat) : Nat := (0x6100 + n) * 256 + 8
/-- 10 R296. -/
abbrev SCR.TEST_RESULT (n : Nat) : Nat := (0x6100 + n) * 256 + 9
/-- 10 R296. -/
abbrev SCR.REPAIR (n : Nat) : Nat := (0x6100 + n) * 256 + 10
/-- 10 R296. -/
abbrev SCR.EVFLAGS (n : Nat) : Nat := (0x6100 + n) * 256 + 11
/-- 11 R315. -/
abbrev MSH.NODES : Nat := 0xC00000
/-- 11 R315. -/
abbrev MSH.EVFLAGS : Nat := 0xC00001
/-- 11 R315. -/
abbrev MSH.RCTRL (n : Nat) : Nat := (0xC100 + n) * 256 + 0
/-- 11 R315. -/
abbrev MSH.RCFG (n : Nat) : Nat := (0xC100 + n) * 256 + 1
/-- 11 R315. -/
abbrev MSH.RSTATE (n : Nat) : Nat := (0xC100 + n) * 256 + 2
/-- 11 R315. -/
abbrev MSH.RCHECK (n : Nat) : Nat := (0xC100 + n) * 256 + 3
/-- 11 R315. -/
abbrev MSH.LINK_CE (n : Nat) : Nat := (0xC100 + n) * 256 + 4
/-- 11 R315. -/
abbrev MSH.LINK_UE (n : Nat) : Nat := (0xC100 + n) * 256 + 5
/-- 11 R315. -/
abbrev MSH.DRAINS (n : Nat) : Nat := (0xC100 + n) * 256 + 6
/-- 11 R315. -/
abbrev MSH.WAKES (n : Nat) : Nat := (0xC100 + n) * 256 + 7
/-- 11 R315. -/
abbrev MSH.PCTRL (n : Nat) : Nat := (0xC200 + n) * 256 + 0
/-- 11 R315. -/
abbrev MSH.PSEL (n : Nat) : Nat := (0xC200 + n) * 256 + 1
/-- 11 R315. -/
abbrev MSH.PADDR_LO (n : Nat) : Nat := (0xC200 + n) * 256 + 2
/-- 11 R315. -/
abbrev MSH.PADDR_HI (n : Nat) : Nat := (0xC200 + n) * 256 + 3
/-- 11 R315. -/
abbrev MSH.PPKTS (n : Nat) : Nat := (0xC200 + n) * 256 + 4
/-- 11 R315. -/
abbrev MSH.PFLITS (n : Nat) : Nat := (0xC200 + n) * 256 + 5
/-- 11 R315. -/
abbrev MSH.PSTATE (n : Nat) : Nat := (0xC200 + n) * 256 + 6
/-- 11 R315. -/
abbrev MSH.TMODE : Nat := 0xC30000
/-- 11 R315. -/
abbrev MSH.TCOUNT : Nat := 0xC30001
/-- 11 R315. -/
abbrev MSH.TLOST : Nat := 0xC30002
/-- 11 R315. -/
abbrev MSH.TCLEAR : Nat := 0xC30003
/-- 11 R315. -/
abbrev MSH.TRACE (k : Nat) : Nat := 0xC30100 + k
/-- 12 R342. -/
abbrev LNK.LANES : Nat := 0xD00000
/-- 12 R342. -/
abbrev LNK.CTRL (n : Nat) : Nat := (0xD100 + n) * 256 + 0
/-- 12 R342. -/
abbrev LNK.STATE (n : Nat) : Nat := (0xD100 + n) * 256 + 1
/-- 12 R342. -/
abbrev LNK.MODE (n : Nat) : Nat := (0xD100 + n) * 256 + 2
/-- 12 R342. -/
abbrev LNK.RATE (n : Nat) : Nat := (0xD100 + n) * 256 + 3
/-- 12 R342. -/
abbrev LNK.FEC (n : Nat) : Nat := (0xD100 + n) * 256 + 4
/-- 12 R342. -/
abbrev LNK.PRECODE (n : Nat) : Nat := (0xD100 + n) * 256 + 5
/-- 12 R342. -/
abbrev LNK.TXEQ (n : Nat) : Nat := (0xD100 + n) * 256 + 6
/-- 12 R342. -/
abbrev LNK.MESH_CLASS (n : Nat) : Nat := (0xD100 + n) * 256 + 7
/-- 12 R342. -/
abbrev LNK.RAW (n : Nat) : Nat := (0xD100 + n) * 256 + 8
/-- 12 R342. -/
abbrev LNK.PATTERN (n : Nat) : Nat := (0xD100 + n) * 256 + 9
/-- 12 R342. -/
abbrev LNK.PHYS (n : Nat) : Nat := (0xD100 + n) * 256 + 10
/-- 12 R342. -/
abbrev LNK.PEER (n : Nat) : Nat := (0xD100 + n) * 256 + 11
/-- 12 R342. -/
abbrev LNK.PEER_LANE (n : Nat) : Nat := (0xD100 + n) * 256 + 12
/-- 12 R342. -/
abbrev LNK.LOSSES (n : Nat) : Nat := (0xD100 + n) * 256 + 13
/-- 12 R342. -/
abbrev LNK.BAD_HDR (n : Nat) : Nat := (0xD100 + n) * 256 + 14
/-- 12 R342. -/
abbrev LNK.FEC_CORR (n : Nat) : Nat := (0xD100 + n) * 256 + 15
/-- 12 R342. -/
abbrev LNK.FEC_UNCORR (n : Nat) : Nat := (0xD100 + n) * 256 + 16
/-- 12 R342. -/
abbrev LNK.RX_CRC (n : Nat) : Nat := (0xD100 + n) * 256 + 17
/-- 12 R342. -/
abbrev LNK.RX_ABORT (n : Nat) : Nat := (0xD100 + n) * 256 + 18
/-- 12 R342. -/
abbrev LNK.RX_INVALID (n : Nat) : Nat := (0xD100 + n) * 256 + 19
/-- 12 R342. -/
abbrev LNK.RX_DISCARD (n : Nat) : Nat := (0xD100 + n) * 256 + 20
/-- 12 R342. -/
abbrev LNK.TX_DISCARD (n : Nat) : Nat := (0xD100 + n) * 256 + 21
/-- 12 R342. -/
abbrev LNK.MESH_IN (n : Nat) : Nat := (0xD100 + n) * 256 + 22
/-- 12 R342. -/
abbrev LNK.MESH_RESP (n : Nat) : Nat := (0xD100 + n) * 256 + 23
/-- 12 R342. -/
abbrev LNK.MESH_DISCARD (n : Nat) : Nat := (0xD100 + n) * 256 + 24
/-- 12 R342. -/
abbrev LNK.MESH_INFLIGHT (n : Nat) : Nat := (0xD100 + n) * 256 + 25
/-- 12 R342. -/
abbrev LNK.SRX_BASE (n : Nat) : Nat := (0xD100 + n) * 256 + 26
/-- 12 R342. -/
abbrev LNK.SRX_BYTES (n : Nat) : Nat := (0xD100 + n) * 256 + 27
/-- 12 R342. -/
abbrev LNK.SRX_WR (n : Nat) : Nat := (0xD100 + n) * 256 + 28
/-- 12 R342. -/
abbrev LNK.SRX_RD (n : Nat) : Nat := (0xD100 + n) * 256 + 29
/-- 12 R342. -/
abbrev LNK.SRX_MSGS (n : Nat) : Nat := (0xD100 + n) * 256 + 30
/-- 12 R342. -/
abbrev LNK.SRX_DONE (n : Nat) : Nat := (0xD100 + n) * 256 + 31
/-- 12 R342. -/
abbrev LNK.SRX_DROP (n : Nat) : Nat := (0xD100 + n) * 256 + 32
/-- 12 R342. -/
abbrev LNK.SRX_ERR (n : Nat) : Nat := (0xD100 + n) * 256 + 33
/-- 12 R342. -/
abbrev LNK.PRBS_BITS (n : Nat) : Nat := (0xD100 + n) * 256 + 34
/-- 12 R342. -/
abbrev LNK.PRBS_ERR (n : Nat) : Nat := (0xD100 + n) * 256 + 35
/-- 12 R342. -/
abbrev LNK.PRBS_RESYNC (n : Nat) : Nat := (0xD100 + n) * 256 + 36
/-- 12 R342. -/
abbrev LNK.DFE (n : Nat) : Nat := (0xD100 + n) * 256 + 37
/-- 12 R342. -/
abbrev LNK.EVFLAGS (n : Nat) : Nat := (0xD100 + n) * 256 + 38
/-- 12 R342. -/
abbrev LNK.QRATE (n : Nat) : Nat := (0xD200 + n) * 256 + 0
/-- 12 R342. -/
abbrev LNK.QPLL (n : Nat) : Nat := (0xD200 + n) * 256 + 1
/-- 12 R342. -/
abbrev LNK.MAP (n : Nat) : Nat := (0xD200 + n) * 256 + 2
/-- 13 R366. -/
abbrev TMU.ROLE : Nat := 0xE00000
/-- 13 R366. -/
abbrev TMU.NOW : Nat := 0xE00001
/-- 13 R366. -/
abbrev TMU.INCR : Nat := 0xE00002
/-- 13 R366. -/
abbrev TMU.STEP : Nat := 0xE00003
/-- 13 R366. -/
abbrev TMU.SET : Nat := 0xE00004
/-- 13 R366. -/
abbrev TMU.STEP_LIMIT : Nat := 0xE00005
/-- 13 R366. -/
abbrev TMU.STATUS : Nat := 0xE00006
/-- 13 R366. -/
abbrev TMU.EVFLAGS : Nat := 0xE00007
/-- 13 R366. -/
abbrev TMU.STEPS : Nat := 0xE00008
/-- 13 R366. -/
abbrev TMU.STEPS_REFUSED : Nat := 0xE00009
/-- 13 R366. -/
abbrev TMU.SRC_LANE : Nat := 0xE00100
/-- 13 R366. -/
abbrev TMU.SERVE : Nat := 0xE00101
/-- 13 R366. -/
abbrev TMU.HOST_LANES : Nat := 0xE00102
/-- 13 R366. -/
abbrev TMU.INTERVAL : Nat := 0xE00103
/-- 13 R366. -/
abbrev TMU.KP : Nat := 0xE00104
/-- 13 R366. -/
abbrev TMU.KI : Nat := 0xE00105
/-- 13 R366. -/
abbrev TMU.LOCK_LIMIT : Nat := 0xE00106
/-- 13 R366. -/
abbrev TMU.OFFSET : Nat := 0xE00107
/-- 13 R366. -/
abbrev TMU.DELAY : Nat := 0xE00108
/-- 13 R366. -/
abbrev TMU.GM_SERIAL : Nat := 0xE00109
/-- 13 R366. -/
abbrev TMU.HOPS : Nat := 0xE0010A
/-- 13 R366. -/
abbrev TMU.EXCHANGES : Nat := 0xE0010B
/-- 13 R366. -/
abbrev TMU.DOMAIN : Nat := 0xE0010C
/-- 13 R366. -/
abbrev TMU.SCHED_USED : Nat := 0xE0010D
/-- 13 R366. -/
abbrev TMU.ASYM (k : Nat) : Nat := 0xE00300 + k
/-- 13 R366. -/
abbrev TMU.TXTS (k : Nat) : Nat := 0xE00400 + k
/-- 13 R366. -/
abbrev TMU.TXMSG (k : Nat) : Nat := 0xE00500 + k
/-- 13 R366. -/
abbrev TMU.RXMSG (k : Nat) : Nat := 0xE00600 + k
/-- 13 R366. -/
abbrev TMU.LANE_FLAGS (k : Nat) : Nat := 0xE00700 + k
/-- 13 R366. -/
abbrev TMU.TXTS_MADE (k : Nat) : Nat := 0xE00800 + k
/-- 13 R366. -/
abbrev TMU.TXTS_READ (k : Nat) : Nat := 0xE00900 + k
/-- 13 R366. -/
abbrev TMU.TXTS_LOST (k : Nat) : Nat := 0xE00A00 + k
/-- 13 R366. -/
abbrev TMU.RX_LOST (k : Nat) : Nat := 0xE00B00 + k
/-- 13 R366. -/
abbrev TMU.AP_OPEN (n : Nat) : Nat := (0xE100 + n) * 256 + 0
/-- 13 R366. -/
abbrev TMU.AP_CLOSE (n : Nat) : Nat := (0xE100 + n) * 256 + 1
/-- 13 R366. -/
abbrev TMU.AP_PERIOD (n : Nat) : Nat := (0xE100 + n) * 256 + 2
/-- 13 R366. -/
abbrev TMU.AP_CTRL (n : Nat) : Nat := (0xE100 + n) * 256 + 3
/-- 13 R366. -/
abbrev TMU.AP_STATE (n : Nat) : Nat := (0xE100 + n) * 256 + 4
/-- 13 R366. -/
abbrev TMU.AP_OPENS (n : Nat) : Nat := (0xE100 + n) * 256 + 5
/-- 13 R366. -/
abbrev TMU.TRG_AT (n : Nat) : Nat := (0xE200 + n) * 256 + 0
/-- 13 R366. -/
abbrev TMU.TRG_WIDTH (n : Nat) : Nat := (0xE200 + n) * 256 + 1
/-- 13 R366. -/
abbrev TMU.TRG_PERIOD (n : Nat) : Nat := (0xE200 + n) * 256 + 2
/-- 13 R366. -/
abbrev TMU.TRG_COUNT (n : Nat) : Nat := (0xE200 + n) * 256 + 3
/-- 13 R366. -/
abbrev TMU.TRG_CFG (n : Nat) : Nat := (0xE200 + n) * 256 + 4
/-- 13 R366. -/
abbrev TMU.TRG_CTRL (n : Nat) : Nat := (0xE200 + n) * 256 + 5
/-- 13 R366. -/
abbrev TMU.TRG_STATE (n : Nat) : Nat := (0xE200 + n) * 256 + 6
/-- 13 R366. -/
abbrev TMU.TRG_FIRED (n : Nat) : Nat := (0xE200 + n) * 256 + 7
/-- 13 R366. -/
abbrev TMU.TRG_MISSED (n : Nat) : Nat := (0xE200 + n) * 256 + 8
/-- 13 R366. -/
abbrev TMU.CAP_CFG (n : Nat) : Nat := (0xE300 + n) * 256 + 0
/-- 13 R366. -/
abbrev TMU.CAP_POP (n : Nat) : Nat := (0xE300 + n) * 256 + 1
/-- 13 R366. -/
abbrev TMU.CAP_LEVEL (n : Nat) : Nat := (0xE300 + n) * 256 + 2
/-- 13 R366. -/
abbrev TMU.CAP_LOST (n : Nat) : Nat := (0xE300 + n) * 256 + 3
/-- 13 R366. -/
abbrev TMU.CAP_TAKEN (n : Nat) : Nat := (0xE300 + n) * 256 + 4
/-- 14 R389. -/
abbrev DSP.ENGINES : Nat := 0xA00000
/-- 14 R389. -/
abbrev DSP.RUNNING : Nat := 0xA00001
/-- 14 R389. -/
abbrev DSP.STATE (n : Nat) : Nat := (0xA100 + n) * 256 + 0
/-- 14 R389. -/
abbrev DSP.CTRL (n : Nat) : Nat := (0xA100 + n) * 256 + 1
/-- 14 R389. -/
abbrev DSP.ENTRY (n : Nat) : Nat := (0xA100 + n) * 256 + 2
/-- 14 R389. -/
abbrev DSP.START_AT (n : Nat) : Nat := (0xA100 + n) * 256 + 3
/-- 14 R389. -/
abbrev DSP.BANKS (n : Nat) : Nat := (0xA100 + n) * 256 + 4
/-- 14 R389. -/
abbrev DSP.MODE (n : Nat) : Nat := (0xA100 + n) * 256 + 5
/-- 14 R389. -/
abbrev DSP.WDOG (n : Nat) : Nat := (0xA100 + n) * 256 + 6
/-- 14 R389. -/
abbrev DSP.WDOG_LEFT (n : Nat) : Nat := (0xA100 + n) * 256 + 7
/-- 14 R389. -/
abbrev DSP.PC (n : Nat) : Nat := (0xA100 + n) * 256 + 8
/-- 14 R389. -/
abbrev DSP.FLAGS (n : Nat) : Nat := (0xA100 + n) * 256 + 9
/-- 14 R389. -/
abbrev DSP.FAULT (n : Nat) : Nat := (0xA100 + n) * 256 + 10
/-- 14 R389. -/
abbrev DSP.FAULT_PC (n : Nat) : Nat := (0xA100 + n) * 256 + 11
/-- 14 R389. -/
abbrev DSP.RPT_LEFT (n : Nat) : Nat := (0xA100 + n) * 256 + 12
/-- 14 R389. -/
abbrev DSP.BEXP (n : Nat) : Nat := (0xA100 + n) * 256 + 13
/-- 14 R389. -/
abbrev DSP.EXPACC (n : Nat) : Nat := (0xA100 + n) * 256 + 14
/-- 14 R389. -/
abbrev DSP.CYCLES (n : Nat) : Nat := (0xA100 + n) * 256 + 15
/-- 14 R389. -/
abbrev DSP.STALLS (n : Nat) : Nat := (0xA100 + n) * 256 + 16
/-- 14 R389. -/
abbrev DSP.EVENTS (n : Nat) : Nat := (0xA100 + n) * 256 + 17
/-- 14 R389. -/
abbrev DSP.SELFCHECK (n : Nat) : Nat := (0xA100 + n) * 256 + 18
/-- 14 R389. -/
abbrev DSP.MOVE_ISSUED (n : Nat) : Nat := (0xA100 + n) * 256 + 19
/-- 14 R389. -/
abbrev DSP.MOVE_DONE (n : Nat) : Nat := (0xA100 + n) * 256 + 20
/-- 14 R389. -/
abbrev DSP.MOVE_ERR (n : Nat) : Nat := (0xA100 + n) * 256 + 21
/-- 14 R389. -/
abbrev DSP.MOVE_INFLIGHT (n : Nat) : Nat := (0xA100 + n) * 256 + 22
/-- 14 R389. -/
abbrev DSP.MOVE_DROPPED (n : Nat) : Nat := (0xA100 + n) * 256 + 23
/-- 14 R389. -/
abbrev DSP.MBASE (n k : Nat) : Nat := (0xA200 + n) * 256 + 0 + k
/-- 14 R389. -/
abbrev DSP.MWRAP (n k : Nat) : Nat := (0xA200 + n) * 256 + 16 + k
/-- 14 R389. -/
abbrev DSP.MCOUNT (n k : Nat) : Nat := (0xA200 + n) * 256 + 32 + k
/-- 14 R389. -/
abbrev DSP.MNOTE (n k : Nat) : Nat := (0xA200 + n) * 256 + 48 + k
/-- 14 R389. -/
abbrev DSP.MGATE (n k : Nat) : Nat := (0xA200 + n) * 256 + 64 + k
/-- 15 R410. -/
abbrev CRH.RESET_CAUSE : Nat := 0x200000
/-- 15 R410. -/
abbrev CRH.RESET_COUNT : Nat := 0x200001
/-- 15 R410. -/
abbrev CRH.RESET : Nat := 0x200002
/-- 15 R410. -/
abbrev CRH.STRAPS : Nat := 0x200003
/-- 15 R410. -/
abbrev CRH.CLK_STATUS : Nat := 0x200100
/-- 15 R410. -/
abbrev CRH.MPLL_LOSSES : Nat := 0x200101
/-- 15 R410. -/
abbrev CRH.GATED_TOUCHES : Nat := 0x200200
/-- 15 R410. -/
abbrev CRH.GATE_EN (k : Nat) : Nat := 0x220000 + k
/-- 15 R410. -/
abbrev CRH.GATE_STATE (k : Nat) : Nat := 0x220100 + k
/-- 15 R410. -/
abbrev CRH.GATE_TOUCH (k : Nat) : Nat := 0x220200 + k
/-- 15 R410. -/
abbrev CRH.PWR (k : Nat) : Nat := 0x230000 + k
/-- 15 R410. -/
abbrev CRH.PWR_STATE (k : Nat) : Nat := 0x230100 + k
/-- 15 R410. -/
abbrev CRH.CLKOUT_CFG : Nat := 0x240000
/-- 15 R410. -/
abbrev CRH.FM_SEL : Nat := 0x250000
/-- 15 R410. -/
abbrev CRH.FM_GATE : Nat := 0x250001
/-- 15 R410. -/
abbrev CRH.FM_CTRL : Nat := 0x250002
/-- 15 R410. -/
abbrev CRH.FM_STATE : Nat := 0x250003
/-- 15 R410. -/
abbrev CRH.FM_COUNT : Nat := 0x250004
/-- 15 R410. -/
abbrev CRH.FM_HZ : Nat := 0x250005
/-- 15 R410. -/
abbrev CRH.TEMP (k : Nat) : Nat := 0x260000 + k
/-- 15 R410. -/
abbrev CRH.TEMP_MAX : Nat := 0x260100
/-- 15 R410. -/
abbrev CRH.TWARN : Nat := 0x260101
/-- 15 R410. -/
abbrev CRH.TTRIP : Nat := 0x260102
/-- 15 R410. -/
abbrev CRH.VOLT (k : Nat) : Nat := 0x270000 + k
/-- 15 R410. -/
abbrev CRH.VLOW (k : Nat) : Nat := 0x270100 + k
/-- 15 R410. -/
abbrev CRH.VHIGH (k : Nat) : Nat := 0x270200 + k
/-- 15 R410. -/
abbrev CRH.EVFLAGS : Nat := 0x280000
/-- 16 R442. -/
abbrev CFG.LOAD_CTRL : Nat := 0x300000
/-- 16 R442. -/
abbrev CFG.LOAD_SRC : Nat := 0x300001
/-- 16 R442. -/
abbrev CFG.FLASH_OFFSET : Nat := 0x300002
/-- 16 R442. -/
abbrev CFG.LOAD_STATE : Nat := 0x300003
/-- 16 R442. -/
abbrev CFG.LOAD_STATUS : Nat := 0x300004
/-- 16 R442. -/
abbrev CFG.LOAD_CAUSE : Nat := 0x300005
/-- 16 R442. -/
abbrev CFG.LOAD_REGION : Nat := 0x300006
/-- 16 R442. -/
abbrev CFG.LOAD_BYTES : Nat := 0x300007
/-- 16 R442. -/
abbrev CFG.LOAD_FAIL_AT : Nat := 0x300008
/-- 16 R442. -/
abbrev CFG.LOAD_TIME : Nat := 0x300009
/-- 16 R442. -/
abbrev CFG.STREAM : Nat := 0x30000A
/-- 16 R442. -/
abbrev CFG.FLASH_CLK : Nat := 0x30000B
/-- 16 R442. -/
abbrev CFG.FLASH_INFO : Nat := 0x300100
/-- 16 R442. -/
abbrev CFG.FLP_ADDR : Nat := 0x300200
/-- 16 R442. -/
abbrev CFG.FLP_LEN : Nat := 0x300201
/-- 16 R442. -/
abbrev CFG.FLP_CTRL : Nat := 0x300202
/-- 16 R442. -/
abbrev CFG.FACET_STATE (n : Nat) : Nat := (0x3100 + n) * 256 + 0
/-- 16 R442. -/
abbrev CFG.FACET_LOADS (n : Nat) : Nat := (0x3100 + n) * 256 + 1
/-- 16 R442. -/
abbrev CFG.KEY_CTRL : Nat := 0x320000
/-- 16 R442. -/
abbrev CFG.KEY_STAGE : Nat := 0x320001
/-- 16 R442. -/
abbrev CFG.KEY_STATUS : Nat := 0x320002
/-- 16 R442. -/
abbrev CFG.FUSE_KEY_ID : Nat := 0x320003
/-- 16 R442. -/
abbrev CFG.BBRAM_KEY_ID : Nat := 0x320004
/-- 16 R442. -/
abbrev CFG.POLICY : Nat := 0x320005
/-- 16 R442. -/
abbrev CFG.TAMPER_CAUSE : Nat := 0x320006
/-- 16 R442. -/
abbrev CFG.TAMPER_COUNT : Nat := 0x320007
/-- 17 R456. -/
abbrev CFG.LOUPE_EN : Nat := 0x340000
/-- 17 R456. -/
abbrev CFG.LOUPE_CFG : Nat := 0x340001
/-- 17 R456. -/
abbrev CFG.LOUPE_STATE : Nat := 0x340002
/-- 17 R456. -/
abbrev CFG.LOUPE_HEARTBEAT : Nat := 0x340003
/-- 17 R456. -/
abbrev CFG.LOUPE_PASSES : Nat := 0x340004
/-- 17 R456. -/
abbrev CFG.LOUPE_PASS_TIME : Nat := 0x340005
/-- 17 R456. -/
abbrev CFG.LOUPE_CE : Nat := 0x340006
/-- 17 R456. -/
abbrev CFG.LOUPE_SEL : Nat := 0x340007
/-- 17 R456. -/
abbrev CFG.LOUPE_UE : Nat := 0x340008
/-- 17 R456. -/
abbrev CFG.LOUPE_RELOADS : Nat := 0x340009
/-- 17 R456. -/
abbrev CFG.LOUPE_RELOAD_FAIL : Nat := 0x34000A
/-- 17 R456. -/
abbrev CFG.LOUPE_DEFERRED : Nat := 0x34000B
/-- 17 R456. -/
abbrev CFG.LOUPE_ABANDONED : Nat := 0x34000C
/-- 17 R456. -/
abbrev CFG.LOUPE_DAMAGED : Nat := 0x34000D
/-- 17 R456. -/
abbrev CFG.LOUPE_RESETS : Nat := 0x34000E
/-- 17 R456. -/
abbrev CFG.LOUPE_SELF_CE : Nat := 0x34000F
/-- 17 R456. -/
abbrev CFG.LOUPE_LAST : Nat := 0x340010
/-- 17 R456. -/
abbrev CFG.LOUPE_EVFLAGS : Nat := 0x340011
/-- 17 R456. -/
abbrev CFG.LOUPE_SRC_TYPE (n : Nat) : Nat := (0x3500 + n) * 256 + 0
/-- 17 R456. -/
abbrev CFG.LOUPE_SRC_ADDR (n : Nat) : Nat := (0x3500 + n) * 256 + 1
/-- 18 R473. -/
abbrev SUP.FW_VERSION : Nat := 0x100000
/-- 18 R473. -/
abbrev SUP.WDOG_TIMEOUT : Nat := 0x100100
/-- 18 R473. -/
abbrev SUP.WDOG_LEFT : Nat := 0x100101
/-- 18 R473. -/
abbrev SUP.HOST_WD : Nat := 0x100200
/-- 18 R473. -/
abbrev SUP.HOST_KICK : Nat := 0x100201
/-- 18 R473. -/
abbrev SUP.HOST_WD_TRIPS : Nat := 0x100202
/-- 18 R473. -/
abbrev SUP.CJ_CTRL : Nat := 0x100300
/-- 18 R473. -/
abbrev SUP.CJ_ADDR : Nat := 0x100301
/-- 18 R473. -/
abbrev SUP.CJ_LEN : Nat := 0x100302
/-- 18 R473. -/
abbrev SUP.CJ_KEY : Nat := 0x100303
/-- 18 R473. -/
abbrev SUP.CJ_STATE : Nat := 0x100304
/-- 18 R473. -/
abbrev SUP.CJ_RESULT : Nat := 0x100305
/-- 18 R473. -/
abbrev SUP.EVFLAGS : Nat := 0x101000
/-- 18 R473. -/
abbrev SUP.EV_PEND (k : Nat) : Nat := 0x110000 + k
/-- 18 R473. -/
abbrev SUP.EV_ROUTE (e : Nat) : Nat := 0x120000 + e
/-- 18 R473. -/
abbrev SUP.EV_COUNT (e : Nat) : Nat := 0x130000 + e
/-- 18 R473. -/
abbrev SUP.LOG_POP : Nat := 0x140000
/-- 18 R473. -/
abbrev SUP.LOG_LEVEL : Nat := 0x140001
/-- 18 R473. -/
abbrev SUP.LOG_MADE : Nat := 0x140002
/-- 18 R473. -/
abbrev SUP.LOG_READ : Nat := 0x140003
/-- 18 R473. -/
abbrev SUP.LOG_LOST : Nat := 0x140004
/-- 18 R473. -/
abbrev SUP.IBI_LEVEL : Nat := 0x140005
/-- 18 R473. -/
abbrev SUP.IBI_SENT : Nat := 0x140006
/-- 18 R473. -/
abbrev SUP.FEV_SEL (k : Nat) : Nat := 0x150000 + k
/-- 18 R473. -/
abbrev SUP.FEV_MERGED : Nat := 0x150008
/-- 19 R499. -/
abbrev DBG.STATUS : Nat := 0xF00000
/-- 19 R499. -/
abbrev DBG.POLICY : Nat := 0xF00001
/-- 19 R499. -/
abbrev DBG.CTRL : Nat := 0xF00002
/-- 19 R499. -/
abbrev DBG.KEY_STAGE : Nat := 0xF00003
/-- 19 R499. -/
abbrev DBG.BRK_ALLOC : Nat := 0xF00004
/-- 19 R499. -/
abbrev DBG.BRK_LAST : Nat := 0xF00005
/-- 19 R499. -/
abbrev DBG.AUTH_CTRL : Nat := 0xF00100
/-- 19 R499. -/
abbrev DBG.AUTH_CHAL : Nat := 0xF00101
/-- 19 R499. -/
abbrev DBG.AUTH_RESP : Nat := 0xF00102
/-- 19 R499. -/
abbrev DBG.AUTH_FAILS : Nat := 0xF00103
/-- 19 R499. -/
abbrev DBG.BRK_CFG (n : Nat) : Nat := (0xF100 + n) * 256 + 0
/-- 19 R499. -/
abbrev DBG.BRK_LO (n : Nat) : Nat := (0xF100 + n) * 256 + 1
/-- 19 R499. -/
abbrev DBG.BRK_HI (n : Nat) : Nat := (0xF100 + n) * 256 + 2
/-- 19 R499. -/
abbrev DBG.BRK_COUNT (n : Nat) : Nat := (0xF100 + n) * 256 + 3
/-- 19 R499. -/
abbrev DBG.BRK_HITS (n : Nat) : Nat := (0xF100 + n) * 256 + 4
/-- 19 R499. -/
abbrev DBG.BRK_STATE (n : Nat) : Nat := (0xF100 + n) * 256 + 5
/-- 19 R499. -/
abbrev DBG.BRK_CMD (n : Nat) : Nat := (0xF100 + n) * 256 + 6
/-- 19 R499. -/
abbrev DBG.HCTRL (n : Nat) : Nat := (0xF200 + n) * 256 + 0
/-- 19 R499. -/
abbrev DBG.STEP_N (n : Nat) : Nat := (0xF200 + n) * 256 + 1
/-- 19 R499. -/
abbrev DBG.TSTATE (n : Nat) : Nat := (0xF200 + n) * 256 + 2
/-- 19 R499. -/
abbrev DBG.REGSEL (n : Nat) : Nat := (0xF200 + n) * 256 + 3
/-- 19 R499. -/
abbrev DBG.REG (n : Nat) : Nat := (0xF200 + n) * 256 + 4
/-- 19 R499. -/
abbrev DBG.GROUP (k : Nat) : Nat := 0xF30000 + k
/-- 19 R499. -/
abbrev DBG.DTX (n : Nat) : Nat := (0xF400 + n) * 256 + 0
/-- 19 R499. -/
abbrev DBG.DRX (n : Nat) : Nat := (0xF400 + n) * 256 + 1
/-- 19 R499. -/
abbrev DBG.TSTAT (n : Nat) : Nat := (0xF400 + n) * 256 + 2
/-- 19 R499. -/
abbrev DBG.T_DTX (n : Nat) : Nat := (0xF400 + n) * 256 + 3
/-- 19 R499. -/
abbrev DBG.T_DRX (n : Nat) : Nat := (0xF400 + n) * 256 + 4
/-- 19 R499. -/
abbrev DBG.T_TXGATE (n : Nat) : Nat := (0xF400 + n) * 256 + 5
/-- 19 R499. -/
abbrev DBG.T_RXGATE (n : Nat) : Nat := (0xF400 + n) * 256 + 6
/-- 19 R499. -/
abbrev DBG.MEM_ADDR : Nat := 0xF50000
/-- 19 R499. -/
abbrev DBG.MEM_DATA : Nat := 0xF50001
/-- 19 R499. -/
abbrev DBG.MEM_STATUS : Nat := 0xF50002
/-- 19 R499. -/
abbrev DBG.EVFLAGS : Nat := 0xF60000
/-- 20 R508. -/
abbrev SUP.LEDGER_PERIOD : Nat := 0x160000
/-- 20 R508. -/
abbrev SUP.LEDGER_PASSES : Nat := 0x160001
/-- 20 R508. -/
abbrev SUP.LEDGER_IMBAL : Nat := 0x160002
/-- 20 R508. -/
abbrev SUP.LEDGER_FAIL : Nat := 0x160003
/-- 20 R512. -/
abbrev HDI.RETIRE_VE : Nat := 0x4000
/-- 20 R512. -/
abbrev HDI.RETIRE_DSP : Nat := 0x4001
/-- 20 R512. -/
abbrev HDI.RETIRE_EO (k : Nat) : Nat := 0x4002 + k
/-- 20 R512. -/
abbrev HDI.RETIRE_EI (k : Nat) : Nat := 0x4006 + k
/-- 20 R512. -/
abbrev HDI.RETIRE_SCR : Nat := 0x400A
/-- 20 R512. -/
abbrev HDI.RETIRE_FACET : Nat := 0x400B
/-- 20 R512. -/
abbrev HDI.RETIRE_LANE : Nat := 0x400C

end Sys2Proof.Machine
end

