-- ==== Sys2Proof/Machine/Dict.lean ====
section
/-! DEFINITION. The object dictionary as one table (00_scope.md R5 to R8, 21_object_index.md R514): type, width,
access code, default, range and access level of every member. -/
namespace Sys2Proof.Machine.Dict

/-- Value types (R6). -/
inductive Ty where
  | u8 | u16 | u32 | u64 | s16 | s32 | s64 | b1 | bits32 | bits64 | tick64 | time128 | str | blob | cmd
  deriving DecidableEq, Repr

/-- Access codes (R8). -/
inductive Acc where
  | ro | rw | wo | rws | w1c | rc | rd | cmd
  deriving DecidableEq, Repr

/-- One run of members: first object and number of objects, first and last member, type, width or greatest length in
bytes, access code, default, the values a write may carry (else 0x04), the level a write needs (R52), and whether the
member is cold (R20). -/
structure Row where
  obj : Nat
  cnt : Nat
  lo : Nat
  hi : Nat
  ty : Ty
  width : Nat
  acc : Acc
  dflt : Nat
  ok : Nat → Bool
  level : Nat
  cold : Bool

/-- Any value. -/
def anyOk (_ : Nat) : Bool := true
/-- A stated range. -/
def within (lo hi v : Nat) : Bool := decide (lo ≤ v) && decide (v ≤ hi)
/-- Zero, or a stated range. -/
def zeroOr (lo hi v : Nat) : Bool := decide (v = 0) || within lo hi v
/-- A multiple. -/
def multiple (k v : Nat) : Bool := decide (v % k = 0)
/-- Reserved bits written zero (R4). -/
def masked (m v : Nat) : Bool := decide (v &&& m = v)
/-- A two's-complement value of w bits from -lo to hi. -/
def signedWithin (w lo hi v : Nat) : Bool := decide (v ≤ hi) || (decide (2 ^ w - lo ≤ v) && decide (v < 2 ^ w))
/-- A TIME128 value (R7). -/
def timeOk (v : Nat) : Bool := decide (v / 2 ^ 32 % 2 ^ 32 ≤ 999999999)
/-- Bits [hi:lo] of a number. -/
def bitsOf (v hi lo : Nat) : Nat := v / 2 ^ lo % 2 ^ (hi + 1 - lo)

/-- Is an unused marker field zero? -/
def unusedZero (used : Bool) (v hi lo : Nat) : Bool := used || decide (bitsOf v hi lo = 0)
/-- An OUT timing set (06 R176, R178): offsets below 2^41, FORMAT a code of 06 R179, reserved bits and the markers the
format does not use zero. -/
def otsetOk (v : Nat) : Bool :=
  decide (bitsOf v 63 0 < 2 ^ 41) && decide (bitsOf v 127 64 < 2 ^ 41) && decide (bitsOf v 191 128 < 2 ^ 41)
    && decide (bitsOf v 255 192 < 2 ^ 41) && decide (bitsOf v 319 256 < 64) && decide (bitsOf v 259 256 ≤ 4)
    && unusedZero (decide (1 ≤ bitsOf v 259 256) && decide (bitsOf v 259 256 ≤ 3)) v 127 64
    && unusedZero (decide (bitsOf v 259 256 = 3)) v 191 128
/-- An IN timing set (06 R177, R178): offsets below 2^41, reserved bits and the markers the mode does not use zero. -/
def itsetOk (v : Nat) : Bool :=
  decide (bitsOf v 63 0 < 2 ^ 41) && decide (bitsOf v 127 64 < 2 ^ 41) && decide (bitsOf v 191 128 < 2 ^ 41)
    && decide (bitsOf v 255 192 < 2 ^ 41) && decide (bitsOf v 319 256 < 4)
    && unusedZero (decide (bitsOf v 257 256 ≠ 3)) v 63 0
    && unusedZero (decide (bitsOf v 257 256 = 1) || decide (bitsOf v 257 256 = 2)) v 127 64
    && unusedZero (decide (bitsOf v 257 256 = 3)) v 191 128 && unusedZero (decide (bitsOf v 257 256 = 3)) v 255 192
/-- A port owner: a DSP engine, or none (10 R290). -/
def ownerOk (v : Nat) : Bool := decide (v < 32) || decide (v = 0xFF)
/-- A channel number or 0xFFFF (06 R167). -/
def chanOk (v : Nat) : Bool := decide (v < 256) || decide (v = 0xFFFF)
/-- Action codes of 64 positions, four bits each: none reserved (04 R115). -/
def actionOk (v : Nat) : Bool := (List.range 64).all fun p => decide (bitsOf v (4 * p + 3) (4 * p) ≤ 5)
/-- FCP.BM_CFG (08 R245). -/
def bmCfgOk (v : Nat) : Bool := masked 0xFFF0F8 v && decide (bitsOf v 23 18 ≤ 47) && decide (bitsOf v 7 5 ≤ 6)
/-- DMC.SPEED (09 R273). -/
def speedOk (v : Nat) : Bool := decide (v = 0) || decide (v = 4800) || decide (v = 5600) || decide (v = 6400)
/-- MSH.PSEL (11 R316). -/
def pselOk (v : Nat) : Bool := masked 0xFFFFFFFFFFC000 v && decide (bitsOf v 49 47 ≤ 5)
/-- LNK.TXEQ (12 R343). -/
def txeqOk (v : Nat) : Bool :=
  decide (bitsOf v 31 24 = 0) && decide (bitsOf v 23 16 ≤ 15) && within 32 64 (bitsOf v 15 8) && decide (bitsOf v 7 0 ≤ 31)
    && decide (bitsOf v 23 16 + bitsOf v 15 8 + bitsOf v 7 0 ≤ 64)
/-- LNK.RAW (12 R343). -/
def rawOk (v : Nat) : Bool :=
  masked 0x773 v && decide (bitsOf v 10 8 ≤ 5) && (decide (bitsOf v 6 4 ≤ 3) || decide (bitsOf v 6 4 = 7))
/-- LNK.SRX_BYTES (12 R338). -/
def srxBytesOk (v : Nat) : Bool := multiple 256 v && within 4096 (2 ^ 32) v
/-- LNK.MAP: a permutation of 0 to 3 (12 R341). -/
def mapOk (v : Nat) : Bool :=
  (List.range 4).all fun p => bitsOf v 1 0 == p || bitsOf v 3 2 == p || bitsOf v 5 4 == p || bitsOf v 7 6 == p
/-- TMU.SRC_LANE (13 R355). -/
def srcLaneOk (v : Nat) : Bool := decide (v < 48) || decide (v = 0xFF)
/-- TMU.TRG_CFG (13 R367). -/
def trgCfgOk (v : Nat) : Bool := masked 0xF7 v && decide (bitsOf v 2 1 ≤ 1)
/-- A mesh address that is a multiple of 8 (14 R389). -/
def addr8Ok (v : Nat) : Bool := multiple 8 v && decide (v < 2 ^ 48)
/-- DSP.MWRAP (14 R389). -/
def wrapOk (v : Nat) : Bool := multiple 8 v && decide (v ≤ 2 ^ 48)
/-- SUP.FEV_SEL (18 R473). -/
def fevOk (v : Nat) : Bool := decide (v < 512) || decide (v = 0xFFFF)
/-- DBG.BRK_CFG: reserved bits zero, no reserved kind or action (19 R486, R487). -/
def brkCfgOk (v : Nat) : Bool := masked 0xFFFEFF83FFFF v && decide (bitsOf v 3 0 ≤ 7) && decide (bitsOf v 7 4 ≤ 3)

/-- Members of the objects of digit 0. -/
def rows0a : List Row := [
  ⟨0x0, 1, 0x00, 0x00, .str, 14, .ro, 2239890148905908938992633644868939, anyOk, 1, true⟩,
  ⟨0x0, 1, 0x01, 0x01, .str, 8, .ro, 3473461922731808847, anyOk, 1, true⟩,
  ⟨0x0, 1, 0x02, 0x02, .u16, 2, .ro, 0, anyOk, 1, true⟩,
  ⟨0x0, 1, 0x03, 0x03, .u16, 2, .ro, 0x7740, anyOk, 1, true⟩,
  ⟨0x0, 1, 0x04, 0x04, .u8, 1, .ro, 0, anyOk, 1, true⟩,
  ⟨0x0, 1, 0x05, 0x05, .u8, 1, .ro, 0, anyOk, 1, true⟩,
  ⟨0x0, 1, 0x06, 0x06, .u64, 8, .ro, 0, anyOk, 1, true⟩,
  ⟨0x0, 1, 0x07, 0x07, .u16, 2, .ro, 0x100, anyOk, 1, true⟩,
  ⟨0x1, 1, 0x00, 0x00, .bits32, 4, .ro, 0, anyOk, 1, true⟩,
  ⟨0x2, 1, 0x00, 0x00, .u8, 1, .ro, 1, anyOk, 1, true⟩,
  ⟨0x3, 1, 0x00, 0x0C, .u32, 4, .ro, 0, anyOk, 1, true⟩,
  ⟨0x3, 1, 0xFF, 0xFF, .cmd, 1, .cmd, 0, (within 1 1), 1, false⟩,
  ⟨0x10, 1, 0x00, 0x00, .u8, 1, .ro, 0xFF, anyOk, 1, false⟩,
  ⟨0x10, 1, 0x01, 0x01, .u32, 4, .rw, 1000, (within 10 60000), 1, false⟩,
  ⟨0x10, 1, 0x02, 0x02, .u16, 2, .ro, 0, anyOk, 1, false⟩,
  ⟨0x10, 1, 0x03, 0x03, .u32, 4, .ro, 0, anyOk, 1, false⟩,
  ⟨0x10, 1, 0x04, 0x04, .u8, 1, .ro, 0, anyOk, 1, false⟩,
  ⟨0x10, 1, 0x05, 0x05, .cmd, 1, .cmd, 0, (within 1 1), 1, false⟩,
  ⟨0x10, 1, 0x06, 0x06, .cmd, 1, .cmd, 0, (within 1 1), 1, false⟩,
  ⟨0x10, 1, 0x07, 0x07, .u8, 1, .ro, 0x0, anyOk, 1, false⟩,
  ⟨0x10, 1, 0x08, 0x08, .u32, 4, .ro, 0, anyOk, 1, false⟩,
  ⟨0x11, 1, 0x00, 0x00, .u8, 1, .rw, 1, (within 0 2), 1, false⟩,
  ⟨0x11, 1, 0x01, 0x01, .time128, 16, .rw, 0, timeOk, 1, false⟩,
  ⟨0x11, 1, 0x02, 0x02, .cmd, 1, .cmd, 0, (within 1 1), 1, false⟩,
  ⟨0x11, 1, 0x03, 0x03, .cmd, 1, .cmd, 0, (within 1 1), 1, false⟩,
  ⟨0x11, 1, 0x04, 0x04, .time128, 16, .ro, 0, timeOk, 1, false⟩,
  ⟨0x11, 1, 0x05, 0x05, .u32, 4, .ro, 0, anyOk, 1, false⟩,
  ⟨0x11, 1, 0x06, 0x06, .u16, 2, .rw, 64, (within 16 4095), 1, false⟩,
  ⟨0x11, 1, 0x07, 0x07, .u8, 1, .ro, 0, anyOk, 1, false⟩,
  ⟨0x12, 1, 0x00, 0x00, .u8, 1, .ro, 0, anyOk, 1, false⟩]

/-- Members of the objects of digit 0. -/
def rows0b : List Row := [
  ⟨0x20, 1, 0x01, 0x08, .u32, 4, .ro, 0, anyOk, 1, false⟩,
  ⟨0x30, 1, 0x00, 0x00, .u64, 8, .rw, 0, (masked 0xFFFFFFFFFFFF), 1, false⟩,
  ⟨0x30, 1, 0x01, 0x01, .blob, 2048, .rd, 0, anyOk, 1, false⟩,
  ⟨0x30, 1, 0x02, 0x02, .u32, 4, .ro, 0, anyOk, 1, false⟩,
  ⟨0x40, 1, 0x00, 0x00, .bits32, 4, .rw, 0, anyOk, 2, false⟩,
  ⟨0x40, 1, 0x01, 0x01, .bits32, 4, .rw, 0, anyOk, 2, false⟩,
  ⟨0x40, 1, 0x02, 0x05, .bits64, 8, .rw, 0, anyOk, 2, false⟩,
  ⟨0x40, 1, 0x06, 0x09, .bits64, 8, .rw, 0, anyOk, 2, false⟩,
  ⟨0x40, 1, 0x0A, 0x0A, .bits64, 8, .rw, 0, anyOk, 2, false⟩,
  ⟨0x40, 1, 0x0B, 0x0B, .bits32, 4, .rw, 0, anyOk, 2, false⟩,
  ⟨0x40, 1, 0x0C, 0x0C, .bits64, 8, .rw, 0, (masked 0xFFFFFFFFFFFF), 2, false⟩]

/-- Members of the objects of digit 0. -/
def rows0 : List Row := rows0a ++ rows0b

/-- Members of the objects of digit 1. -/
def rows1a : List Row := [
  ⟨0x1000, 1, 0x00, 0x00, .u32, 4, .ro, 0, anyOk, 1, false⟩,
  ⟨0x1001, 1, 0x00, 0x00, .u32, 4, .rw, 25000000, (within 1000000 250000000), 2, false⟩,
  ⟨0x1001, 1, 0x01, 0x01, .u32, 4, .ro, 0, anyOk, 1, false⟩,
  ⟨0x1002, 1, 0x00, 0x00, .u32, 4, .rw, 0, (zeroOr 10 60000), 1, false⟩,
  ⟨0x1002, 1, 0x01, 0x01, .cmd, 1, .cmd, 0, (within 1 1), 1, false⟩,
  ⟨0x1002, 1, 0x02, 0x02, .u32, 4, .ro, 0, anyOk, 1, false⟩,
  ⟨0x1003, 1, 0x00, 0x00, .cmd, 1, .cmd, 0, (within 1 2), 1, false⟩,
  ⟨0x1003, 1, 0x01, 0x01, .u64, 8, .rw, 0, (masked 0xFFFFFFFFFFFF), 1, false⟩,
  ⟨0x1003, 1, 0x02, 0x02, .u64, 8, .rw, 0, anyOk, 1, false⟩,
  ⟨0x1003, 1, 0x03, 0x03, .blob, 32, .wo, 0, anyOk, 1, false⟩,
  ⟨0x1003, 1, 0x04, 0x04, .u8, 1, .ro, 0, anyOk, 1, false⟩,
  ⟨0x1003, 1, 0x05, 0x05, .blob, 32, .ro, 0, anyOk, 1, false⟩,
  ⟨0x1010, 1, 0x00, 0x00, .bits32, 4, .w1c, 0, (masked 0x3F), 1, false⟩,
  ⟨0x1100, 1, 0x00, 0x07, .bits64, 8, .w1c, 0, anyOk, 1, false⟩,
  ⟨0x1200, 1, 0x00, 0xFF, .u8, 1, .rw, 0x4, (masked 7), 1, false⟩,
  ⟨0x1201, 1, 0x00, 0xFF, .u8, 1, .rw, 0x4, (masked 7), 1, false⟩,
  ⟨0x1300, 1, 0x00, 0xFF, .u32, 4, .ro, 0, anyOk, 1, false⟩,
  ⟨0x1301, 1, 0x00, 0xFF, .u32, 4, .ro, 0, anyOk, 1, false⟩,
  ⟨0x1400, 1, 0x00, 0x00, .blob, 24, .rc, 0, anyOk, 1, false⟩,
  ⟨0x1400, 1, 0x01, 0x01, .u16, 2, .ro, 0, anyOk, 1, false⟩,
  ⟨0x1400, 1, 0x02, 0x02, .u64, 8, .ro, 0, anyOk, 1, false⟩,
  ⟨0x1400, 1, 0x03, 0x03, .u64, 8, .ro, 0, anyOk, 1, false⟩,
  ⟨0x1400, 1, 0x04, 0x04, .u64, 8, .ro, 0, anyOk, 1, false⟩,
  ⟨0x1400, 1, 0x05, 0x05, .u16, 2, .ro, 0, anyOk, 1, false⟩,
  ⟨0x1400, 1, 0x06, 0x06, .u64, 8, .ro, 0, anyOk, 1, false⟩,
  ⟨0x1500, 1, 0x00, 0x07, .u16, 2, .rw, 0xFFFF, fevOk, 1, false⟩,
  ⟨0x1500, 1, 0x08, 0x08, .u64, 8, .ro, 0, anyOk, 1, false⟩,
  ⟨0x1600, 1, 0x00, 0x00, .u32, 4, .rw, 100, (zeroOr 10 10000), 1, false⟩,
  ⟨0x1600, 1, 0x01, 0x01, .u64, 8, .ro, 0, anyOk, 1, false⟩,
  ⟨0x1600, 1, 0x02, 0x02, .u64, 8, .ro, 0, anyOk, 1, false⟩]

/-- Members of the objects of digit 1. -/
def rows1b : List Row := [
  ⟨0x1600, 1, 0x03, 0x03, .bits32, 4, .ro, 0, anyOk, 1, false⟩]

/-- Members of the objects of digit 1. -/
def rows1 : List Row := rows1a ++ rows1b

/-- Members of the objects of digit 2. -/
def rows2 : List Row := [
  ⟨0x2000, 1, 0x00, 0x00, .bits32, 4, .w1c, 0, (masked 0x1FF), 1, true⟩,
  ⟨0x2000, 1, 0x01, 0x01, .u32, 4, .ro, 0, anyOk, 1, true⟩,
  ⟨0x2000, 1, 0x02, 0x02, .cmd, 1, .cmd, 0, (within 0xA5 0xA5), 1, false⟩,
  ⟨0x2000, 1, 0x03, 0x03, .u8, 1, .ro, 0, anyOk, 1, true⟩,
  ⟨0x2001, 1, 0x00, 0x00, .bits32, 4, .ro, 0x200000, anyOk, 1, true⟩,
  ⟨0x2001, 1, 0x01, 0x01, .u32, 4, .ro, 0, anyOk, 1, true⟩,
  ⟨0x2002, 1, 0x00, 0x00, .u64, 8, .ro, 0, anyOk, 1, false⟩,
  ⟨0x2200, 1, 0x00, 0xB1, .b1, 1, .rw, 1, (within 0 1), 1, false⟩,
  ⟨0x2201, 1, 0x00, 0xB1, .u8, 1, .ro, 1, anyOk, 1, false⟩,
  ⟨0x2202, 1, 0x00, 0xB1, .u32, 4, .ro, 0, anyOk, 1, false⟩,
  ⟨0x2300, 1, 0x00, 0x5F, .b1, 1, .rw, 1, (within 0 1), 1, false⟩,
  ⟨0x2301, 1, 0x00, 0x5F, .u8, 1, .ro, 3, anyOk, 1, false⟩,
  ⟨0x2400, 1, 0x00, 0x00, .bits32, 4, .rw, 0, (masked 0x0FF0FFFF), 1, false⟩,
  ⟨0x2500, 1, 0x00, 0x00, .u8, 1, .rw, 0, (within 0 93), 1, false⟩,
  ⟨0x2500, 1, 0x01, 0x01, .u32, 4, .rw, 1000, (within 1 1000000), 1, false⟩,
  ⟨0x2500, 1, 0x02, 0x02, .cmd, 1, .cmd, 0, (within 1 1), 1, false⟩,
  ⟨0x2500, 1, 0x03, 0x03, .u8, 1, .ro, 0, anyOk, 1, false⟩,
  ⟨0x2500, 1, 0x04, 0x04, .u64, 8, .ro, 0, anyOk, 1, false⟩,
  ⟨0x2500, 1, 0x05, 0x05, .u64, 8, .ro, 0, anyOk, 1, false⟩,
  ⟨0x2600, 1, 0x00, 0x0F, .s16, 2, .ro, 0, anyOk, 1, false⟩,
  ⟨0x2601, 1, 0x00, 0x00, .s16, 2, .ro, 0, anyOk, 1, false⟩,
  ⟨0x2601, 1, 0x01, 0x01, .s16, 2, .rw, 0, anyOk, 1, false⟩,
  ⟨0x2601, 1, 0x02, 0x02, .s16, 2, .rw, 0, anyOk, 1, false⟩,
  ⟨0x2700, 1, 0x00, 0x10, .u16, 2, .ro, 0, anyOk, 1, false⟩,
  ⟨0x2701, 1, 0x00, 0x10, .u16, 2, .rw, 0, (within 0 4000), 1, false⟩,
  ⟨0x2702, 1, 0x00, 0x10, .u16, 2, .rw, 0, (within 0 4000), 1, false⟩,
  ⟨0x2800, 1, 0x00, 0x00, .bits32, 4, .w1c, 0, (masked 0xFF), 1, false⟩]

/-- Members of the objects of digit 3. -/
def rows3a : List Row := [
  ⟨0x3600, 1, 0x00, 0x00, .u8, 1, .ro, 0, anyOk, 1, false⟩,
  ⟨0x3600, 1, 0x01, 0x01, .u64, 8, .ro, 0, anyOk, 1, false⟩,
  ⟨0x3600, 1, 0x02, 0x02, .u8, 1, .ro, 0x0, anyOk, 1, false⟩,
  ⟨0x3600, 1, 0x03, 0x03, .cmd, 1, .cmd, 0, (within 1 2), 1, false⟩,
  ⟨0x3600, 1, 0x04, 0x04, .b1, 1, .ro, 0, (within 0 1), 1, false⟩,
  ⟨0x3601, 1, 0x00, 0x0F, .u32, 4, .ro, 0, anyOk, 1, false⟩,
  ⟨0x3602, 1, 0x00, 0x07, .blob, 2048, .rd, 0, anyOk, 1, false⟩,
  ⟨0x3603, 1, 0x00, 0x07, .blob, 2048, .wo, 0, anyOk, 1, false⟩,
  ⟨0x3000, 1, 0x00, 0x00, .cmd, 1, .cmd, 0, (within 1 3), 1, false⟩,
  ⟨0x3000, 1, 0x01, 0x01, .u8, 1, .rw, 0, (within 0 1), 1, false⟩,
  ⟨0x3000, 1, 0x02, 0x02, .u32, 4, .rw, 0, (multiple 256), 1, false⟩,
  ⟨0x3000, 1, 0x03, 0x03, .u8, 1, .ro, 0, anyOk, 1, false⟩,
  ⟨0x3000, 1, 0x04, 0x04, .u8, 1, .ro, 0x0, anyOk, 1, false⟩,
  ⟨0x3000, 1, 0x05, 0x05, .u8, 1, .ro, 0x0, anyOk, 1, false⟩,
  ⟨0x3000, 1, 0x06, 0x06, .bits32, 4, .ro, 0, anyOk, 1, false⟩,
  ⟨0x3000, 1, 0x07, 0x07, .u64, 8, .ro, 0, anyOk, 1, false⟩,
  ⟨0x3000, 1, 0x08, 0x08, .u64, 8, .ro, 0, anyOk, 1, false⟩,
  ⟨0x3000, 1, 0x09, 0x09, .u32, 4, .ro, 0, anyOk, 1, false⟩,
  ⟨0x3000, 1, 0x0A, 0x0A, .blob, 2048, .wo, 0, anyOk, 1, false⟩,
  ⟨0x3000, 1, 0x0B, 0x0B, .u16, 2, .rw, 200, (within 25 200), 1, false⟩,
  ⟨0x3001, 1, 0x00, 0x00, .bits32, 4, .ro, 0, anyOk, 1, false⟩,
  ⟨0x3002, 1, 0x00, 0x00, .u64, 8, .rw, 0, (masked 0xFFFFFFFFFFFF), 1, false⟩,
  ⟨0x3002, 1, 0x01, 0x01, .u32, 4, .rw, 0, anyOk, 1, false⟩,
  ⟨0x3002, 1, 0x02, 0x02, .cmd, 1, .cmd, 0, (within 1 2), 1, false⟩,
  ⟨0x3100, 32, 0x00, 0x00, .u8, 1, .ro, 0, anyOk, 1, false⟩,
  ⟨0x3100, 32, 0x01, 0x01, .u32, 4, .ro, 0, anyOk, 1, false⟩,
  ⟨0x3200, 1, 0x00, 0x00, .cmd, 1, .cmd, 0, (within 1 4), 1, false⟩,
  ⟨0x3200, 1, 0x01, 0x01, .blob, 40, .wo, 0, anyOk, 2, false⟩,
  ⟨0x3200, 1, 0x02, 0x02, .bits32, 4, .ro, 0, anyOk, 1, false⟩,
  ⟨0x3200, 1, 0x03, 0x03, .u64, 8, .ro, 0, anyOk, 1, false⟩]

/-- Members of the objects of digit 3. -/
def rows3b : List Row := [
  ⟨0x3200, 1, 0x04, 0x04, .u64, 8, .ro, 0, anyOk, 1, false⟩,
  ⟨0x3200, 1, 0x05, 0x05, .bits32, 4, .ro, 0, anyOk, 1, false⟩,
  ⟨0x3200, 1, 0x06, 0x06, .bits32, 4, .w1c, 0, (masked 0x1F), 2, false⟩,
  ⟨0x3200, 1, 0x07, 0x07, .u32, 4, .ro, 0, anyOk, 1, false⟩,
  ⟨0x3400, 1, 0x00, 0x00, .b1, 1, .rw, 1, (within 0 1), 1, false⟩,
  ⟨0x3400, 1, 0x01, 0x01, .bits32, 4, .rw, 0, (masked 1), 1, false⟩,
  ⟨0x3400, 1, 0x02, 0x02, .u8, 1, .ro, 0, anyOk, 1, false⟩,
  ⟨0x3400, 1, 0x03, 0x03, .u32, 4, .ro, 0, anyOk, 1, false⟩,
  ⟨0x3400, 1, 0x04, 0x04, .u64, 8, .ro, 0, anyOk, 1, false⟩,
  ⟨0x3400, 1, 0x05, 0x05, .u32, 4, .ro, 0, anyOk, 1, false⟩,
  ⟨0x3400, 1, 0x06, 0x06, .u64, 8, .ro, 0, anyOk, 1, false⟩,
  ⟨0x3400, 1, 0x07, 0x07, .u64, 8, .ro, 0, anyOk, 1, false⟩,
  ⟨0x3400, 1, 0x08, 0x08, .u64, 8, .ro, 0, anyOk, 1, false⟩,
  ⟨0x3400, 1, 0x09, 0x09, .u64, 8, .ro, 0, anyOk, 1, false⟩,
  ⟨0x3400, 1, 0x0A, 0x0A, .u64, 8, .ro, 0, anyOk, 1, false⟩,
  ⟨0x3400, 1, 0x0B, 0x0B, .u64, 8, .ro, 0, anyOk, 1, false⟩,
  ⟨0x3400, 1, 0x0C, 0x0C, .u64, 8, .ro, 0, anyOk, 1, false⟩,
  ⟨0x3400, 1, 0x0D, 0x0D, .bits32, 4, .ro, 0, anyOk, 1, false⟩,
  ⟨0x3400, 1, 0x0E, 0x0E, .u32, 4, .ro, 0, anyOk, 1, false⟩,
  ⟨0x3400, 1, 0x0F, 0x0F, .u64, 8, .ro, 0, anyOk, 1, false⟩,
  ⟨0x3400, 1, 0x10, 0x10, .bits32, 4, .ro, 0, anyOk, 1, false⟩,
  ⟨0x3400, 1, 0x11, 0x11, .bits32, 4, .w1c, 0, (masked 0x7F), 1, false⟩,
  ⟨0x3500, 32, 0x00, 0x00, .u8, 1, .rw, 0, (within 0 2), 1, false⟩,
  ⟨0x3500, 32, 0x01, 0x01, .u64, 8, .rw, 0, (multiple 256), 1, false⟩]

/-- Members of the objects of digit 3. -/
def rows3 : List Row := rows3a ++ rows3b

/-- Members of the objects of digit 4. -/
def rows4 : List Row := [
  ⟨0x4000, 1, 0x00, 0x00, .u32, 4, .ro, 131072, anyOk, 1, false⟩,
  ⟨0x4000, 1, 0x01, 0x01, .u8, 1, .ro, 32, anyOk, 1, false⟩,
  ⟨0x4001, 1, 0x00, 0x00, .bits32, 4, .ro, 0, anyOk, 1, false⟩,
  ⟨0x4001, 1, 0x01, 0x01, .bits32, 4, .w1c, 0, anyOk, 1, false⟩,
  ⟨0x4002, 1, 0x00, 0x09, .u8, 1, .ro, 0, anyOk, 1, false⟩,
  ⟨0x4100, 32, 0x00, 0x00, .cmd, 1, .cmd, 0, (within 1 2), 1, false⟩,
  ⟨0x4100, 32, 0x01, 0x01, .bits32, 4, .ro, 0, anyOk, 1, false⟩,
  ⟨0x4100, 32, 0x02, 0x02, .u32, 4, .ro, 0, anyOk, 1, false⟩,
  ⟨0x4100, 32, 0x03, 0x03, .u64, 8, .ro, 0, anyOk, 1, false⟩,
  ⟨0x4100, 32, 0x04, 0x04, .u64, 8, .ro, 0, anyOk, 1, false⟩,
  ⟨0x4100, 32, 0x05, 0x05, .u64, 8, .ro, 0, anyOk, 1, false⟩,
  ⟨0x4200, 32, 0x00, 0x03, .u64, 8, .rw, 0, anyOk, 1, false⟩,
  ⟨0x4200, 32, 0x10, 0x13, .u64, 8, .ro, 0, anyOk, 1, false⟩]

/-- Members of the objects of digit 5. -/
def rows5 : List Row := [
  ⟨0x5000, 1, 0x00, 0x00, .u32, 4, .rw, 4096, (within 256 1048576), 1, false⟩,
  ⟨0x5000, 1, 0x01, 0x01, .bits32, 4, .ro, 0, anyOk, 1, false⟩,
  ⟨0x5100, 1536, 0x00, 0x00, .u8, 1, .rw, 0, (within 0 1), 1, false⟩,
  ⟨0x5100, 1536, 0x01, 0x01, .cmd, 1, .cmd, 0, (within 1 3), 1, false⟩,
  ⟨0x5100, 1536, 0x02, 0x02, .u8, 1, .ro, 0, anyOk, 1, false⟩,
  ⟨0x5100, 1536, 0x03, 0x03, .u16, 2, .ro, 0, anyOk, 1, false⟩,
  ⟨0x5100, 1536, 0x04, 0x04, .u64, 8, .ro, 0, anyOk, 1, false⟩,
  ⟨0x5100, 1536, 0x05, 0x05, .u64, 8, .ro, 0, anyOk, 1, false⟩,
  ⟨0x5100, 1536, 0x06, 0x06, .u64, 8, .ro, 0, anyOk, 1, false⟩,
  ⟨0x5100, 1536, 0x07, 0x07, .u64, 8, .ro, 0, anyOk, 1, false⟩,
  ⟨0x5100, 1536, 0x08, 0x08, .u64, 8, .ro, 0, anyOk, 1, false⟩,
  ⟨0x5100, 1536, 0x09, 0x09, .u64, 8, .ro, 0, anyOk, 1, false⟩,
  ⟨0x5100, 1536, 0x0A, 0x0A, .u8, 1, .ro, 0, anyOk, 1, false⟩,
  ⟨0x5100, 1536, 0x0B, 0x0B, .bits32, 4, .ro, 0, anyOk, 1, false⟩,
  ⟨0x5100, 1536, 0x0C, 0x0C, .bits32, 4, .w1c, 0, (masked 0x1F), 1, false⟩]

/-- Members of the objects of digit 6. -/
def rows6 : List Row := [
  ⟨0x6000, 1, 0x00, 0x00, .u32, 4, .rw, 4096, (within 256 1048576), 1, false⟩,
  ⟨0x6000, 1, 0x01, 0x01, .bits64, 8, .ro, 0, anyOk, 1, false⟩,
  ⟨0x6100, 64, 0x00, 0x00, .u8, 1, .rw, 0xFF, ownerOk, 1, false⟩,
  ⟨0x6100, 64, 0x01, 0x01, .u8, 1, .rw, 0xFF, ownerOk, 1, false⟩,
  ⟨0x6100, 64, 0x02, 0x02, .cmd, 1, .cmd, 0, (within 1 1), 1, false⟩,
  ⟨0x6100, 64, 0x03, 0x03, .u8, 1, .ro, 0, anyOk, 1, false⟩,
  ⟨0x6100, 64, 0x04, 0x04, .u64, 8, .ro, 0, anyOk, 1, false⟩,
  ⟨0x6100, 64, 0x05, 0x05, .u64, 8, .ro, 0, anyOk, 1, false⟩,
  ⟨0x6100, 64, 0x06, 0x06, .u64, 8, .ro, 0, anyOk, 1, false⟩,
  ⟨0x6100, 64, 0x07, 0x07, .u64, 8, .ro, 0, anyOk, 1, false⟩,
  ⟨0x6100, 64, 0x08, 0x08, .u64, 8, .ro, 0, anyOk, 1, false⟩,
  ⟨0x6100, 64, 0x09, 0x09, .u8, 1, .ro, 0, anyOk, 1, false⟩,
  ⟨0x6100, 64, 0x0A, 0x0A, .bits32, 4, .ro, 0, anyOk, 1, false⟩,
  ⟨0x6100, 64, 0x0B, 0x0B, .bits32, 4, .w1c, 0, (masked 0x1F), 1, false⟩]

/-- Members of the objects of digit 7. -/
def rows7a : List Row := [
  ⟨0x7000, 1, 0x00, 0x00, .bits32, 4, .ro, 0, anyOk, 1, false⟩,
  ⟨0x7100, 32, 0x00, 0x00, .u8, 1, .ro, 0, anyOk, 1, false⟩,
  ⟨0x7100, 32, 0x01, 0x01, .cmd, 1, .cmd, 0, (within 1 9), 1, false⟩,
  ⟨0x7100, 32, 0x02, 0x02, .u8, 1, .rws, 0, anyOk, 1, false⟩,
  ⟨0x7100, 32, 0x03, 0x03, .tick64, 8, .rws, 8192, (within 2048 1099511627776), 1, false⟩,
  ⟨0x7100, 32, 0x04, 0x04, .u64, 8, .rws, 0, (multiple 256), 1, false⟩,
  ⟨0x7100, 32, 0x05, 0x05, .u32, 4, .rws, 0, anyOk, 1, false⟩,
  ⟨0x7100, 32, 0x06, 0x06, .b1, 1, .rws, 0, (within 0 1), 1, false⟩,
  ⟨0x7100, 32, 0x07, 0x07, .time128, 16, .rw, 0, timeOk, 1, false⟩,
  ⟨0x7100, 32, 0x08, 0x08, .u64, 8, .rw, 0, anyOk, 1, false⟩,
  ⟨0x7100, 32, 0x09, 0x09, .u64, 8, .ro, 0, anyOk, 1, false⟩,
  ⟨0x7100, 32, 0x0A, 0x0A, .u8, 1, .rws, 0, (within 0 63), 1, false⟩,
  ⟨0x7100, 32, 0x0B, 0x0B, .u32, 4, .ro, 0, anyOk, 1, false⟩,
  ⟨0x7100, 32, 0x0C, 0x0C, .u64, 8, .ro, 0, anyOk, 1, false⟩,
  ⟨0x7100, 32, 0x0D, 0x0D, .bits32, 4, .ro, 0, anyOk, 1, false⟩,
  ⟨0x7100, 32, 0x0E, 0x0E, .u8, 1, .ro, 0, anyOk, 1, false⟩,
  ⟨0x7100, 32, 0x0F, 0x0F, .u32, 4, .ro, 0, anyOk, 1, false⟩,
  ⟨0x7100, 32, 0x10, 0x10, .u8, 1, .ro, 0, anyOk, 1, false⟩,
  ⟨0x7100, 32, 0x11, 0x11, .u32, 4, .ro, 0, anyOk, 1, false⟩,
  ⟨0x7100, 32, 0x12, 0x12, .u64, 8, .ro, 0, anyOk, 1, false⟩,
  ⟨0x7100, 32, 0x13, 0x13, .time128, 16, .ro, 0, timeOk, 1, false⟩,
  ⟨0x7100, 32, 0x14, 0x14, .u8, 1, .ro, 0, anyOk, 1, false⟩,
  ⟨0x7100, 32, 0x15, 0x15, .u16, 2, .ro, 0, anyOk, 1, false⟩,
  ⟨0x7100, 32, 0x20, 0x2F, .u32, 4, .ro, 0, anyOk, 1, false⟩,
  ⟨0x7100, 32, 0x16, 0x16, .u8, 1, .rws, 0, (within 0 2), 1, false⟩,
  ⟨0x7100, 32, 0x17, 0x17, .u16, 2, .rws, 448, (within 64 480), 1, false⟩,
  ⟨0x7100, 32, 0x18, 0x18, .u64, 8, .ro, 0, anyOk, 1, false⟩,
  ⟨0x7100, 32, 0x19, 0x19, .u64, 8, .ro, 0, anyOk, 1, false⟩,
  ⟨0x7100, 32, 0x1A, 0x1A, .u16, 2, .ro, 0, anyOk, 1, false⟩,
  ⟨0x7100, 32, 0x1B, 0x1B, .b1, 1, .rws, 0, (within 0 1), 1, false⟩]

/-- Members of the objects of digit 7. -/
def rows7b : List Row := [
  ⟨0x7100, 32, 0x1C, 0x1C, .u16, 2, .ro, 0, anyOk, 1, false⟩,
  ⟨0x7100, 32, 0x1D, 0x1D, .u64, 8, .ro, 0, anyOk, 1, false⟩,
  ⟨0x7100, 32, 0x1E, 0x1E, .u64, 8, .ro, 0, anyOk, 1, false⟩,
  ⟨0x7100, 32, 0x1F, 0x1F, .u64, 8, .ro, 0, anyOk, 1, false⟩,
  ⟨0x7200, 32, 0x00, 0x3F, .blob, 32, .rws, 0x3333333333333333333333333333333333333333333333333333333333333333, actionOk, 1, false⟩,
  ⟨0x7300, 32, 0x00, 0x3F, .u64, 8, .rws, 0, anyOk, 1, false⟩,
  ⟨0x7400, 32, 0x00, 0x3F, .u8, 1, .rws, 0, (within 0 127), 1, false⟩,
  ⟨0x7500, 32, 0x00, 0x3F, .u8, 1, .rws, 0, (masked 0xBF), 1, false⟩]

/-- Members of the objects of digit 7. -/
def rows7 : List Row := rows7a ++ rows7b

/-- Members of the objects of digit 8. -/
def rows8a : List Row := [
  ⟨0x8000, 1, 0x00, 0x00, .u16, 2, .ro, 256, anyOk, 1, false⟩,
  ⟨0x8000, 1, 0x01, 0x01, .u16, 2, .ro, 256, anyOk, 1, false⟩,
  ⟨0x8001, 1, 0x00, 0x00, .bits32, 4, .w1c, 0, anyOk, 1, false⟩,
  ⟨0x8100, 256, 0x00, 0x3F, .blob, 40, .rws, 0, otsetOk, 1, false⟩,
  ⟨0x8200, 256, 0x00, 0x3F, .blob, 40, .rws, 0, itsetOk, 1, false⟩,
  ⟨0x8300, 256, 0x00, 0x00, .u8, 1, .ro, 0, anyOk, 1, false⟩,
  ⟨0x8300, 256, 0x01, 0x01, .s32, 4, .rws, 0, (signedWithin 32 65536 65535), 1, false⟩,
  ⟨0x8300, 256, 0x02, 0x02, .b1, 1, .rws, 0, (within 0 1), 1, false⟩,
  ⟨0x8300, 256, 0x03, 0x03, .u8, 1, .ro, 0xFF, anyOk, 1, false⟩,
  ⟨0x8300, 256, 0x04, 0x04, .u64, 8, .ro, 0, anyOk, 1, false⟩,
  ⟨0x8300, 256, 0x05, 0x05, .u8, 1, .ro, 0, anyOk, 1, false⟩,
  ⟨0x8400, 256, 0x00, 0x00, .u8, 1, .ro, 0, anyOk, 1, false⟩,
  ⟨0x8400, 256, 0x01, 0x01, .s32, 4, .rws, 0, (signedWithin 32 65536 65535), 1, false⟩,
  ⟨0x8400, 256, 0x02, 0x02, .b1, 1, .rws, 0, (within 0 1), 1, false⟩,
  ⟨0x8400, 256, 0x03, 0x03, .u8, 1, .ro, 0xFF, anyOk, 1, false⟩,
  ⟨0x8400, 256, 0x04, 0x04, .u64, 8, .ro, 0, anyOk, 1, false⟩,
  ⟨0x8400, 256, 0x05, 0x05, .b1, 1, .ro, 0, (within 0 1), 1, false⟩,
  ⟨0x8500, 32, 0x00, 0x3F, .u16, 2, .rws, 0xFFFF, chanOk, 1, false⟩,
  ⟨0x8600, 32, 0x00, 0x3F, .u16, 2, .rws, 0xFFFF, chanOk, 1, false⟩,
  ⟨0x8700, 256, 0x00, 0x03, .s16, 2, .ro, 0, anyOk, 1, false⟩,
  ⟨0x8700, 256, 0x04, 0x04, .s16, 2, .ro, 0, anyOk, 1, false⟩,
  ⟨0x8700, 256, 0x05, 0x05, .s16, 2, .ro, 0, anyOk, 1, false⟩,
  ⟨0x8700, 256, 0x06, 0x06, .u8, 1, .ro, 0, anyOk, 1, false⟩,
  ⟨0x8700, 256, 0x07, 0x07, .u8, 1, .ro, 0, anyOk, 1, false⟩,
  ⟨0x8700, 256, 0x08, 0x08, .s16, 2, .ro, 0, anyOk, 1, false⟩,
  ⟨0x8800, 256, 0x00, 0x00, .s16, 2, .ro, 0, anyOk, 1, false⟩,
  ⟨0x8800, 256, 0x01, 0x01, .s16, 2, .ro, 0, anyOk, 1, false⟩,
  ⟨0x8800, 256, 0x02, 0x02, .s16, 2, .ro, 0, anyOk, 1, false⟩,
  ⟨0x8800, 256, 0x03, 0x03, .s16, 2, .ro, 0, anyOk, 1, false⟩,
  ⟨0x8800, 256, 0x04, 0x04, .s16, 2, .ro, 0, anyOk, 1, false⟩]

/-- Members of the objects of digit 8. -/
def rows8b : List Row := [
  ⟨0x8800, 256, 0x05, 0x05, .s16, 2, .ro, 0, anyOk, 1, false⟩,
  ⟨0x8800, 256, 0x06, 0x06, .u8, 1, .ro, 0, anyOk, 1, false⟩,
  ⟨0x8800, 256, 0x07, 0x07, .u8, 1, .ro, 0, anyOk, 1, false⟩,
  ⟨0x8800, 256, 0x08, 0x08, .s16, 2, .ro, 0, anyOk, 1, false⟩,
  ⟨0x8900, 32, 0x00, 0x00, .s16, 2, .ro, 0, anyOk, 1, false⟩,
  ⟨0x8F00, 1, 0x00, 0x00, .cmd, 1, .cmd, 0, (within 1 3), 1, false⟩,
  ⟨0x8F00, 1, 0x01, 0x01, .u8, 1, .ro, 0, anyOk, 1, false⟩,
  ⟨0x8F00, 1, 0x02, 0x02, .b1, 1, .rw, 1, (within 0 1), 1, false⟩,
  ⟨0x8F00, 1, 0x05, 0x05, .bits32, 4, .ro, 0, anyOk, 1, false⟩,
  ⟨0x8F01, 1, 0x00, 0x07, .bits64, 8, .rw, 0, anyOk, 1, false⟩]

/-- Members of the objects of digit 8. -/
def rows8 : List Row := rows8a ++ rows8b

/-- Members of the objects of digit 9. -/
def rows9a : List Row := [
  ⟨0x9000, 1, 0x00, 0x00, .u8, 1, .ro, 64, anyOk, 1, false⟩,
  ⟨0x9001, 1, 0x00, 0x00, .bits64, 8, .ro, 0, anyOk, 1, false⟩,
  ⟨0x9100, 32, 0x00, 0x00, .bits32, 4, .rws, 0x8, (masked 0xF), 1, false⟩,
  ⟨0x9100, 32, 0x01, 0x01, .bits32, 4, .rws, 0, (masked 7), 1, false⟩,
  ⟨0x9100, 32, 0x02, 0x02, .u64, 8, .rws, 1, (within 1 0xFFFFFFFFFFFFFFFF), 1, false⟩,
  ⟨0x9100, 32, 0x03, 0x03, .u64, 8, .rws, 0, (multiple 8), 1, false⟩,
  ⟨0x9100, 32, 0x04, 0x04, .bits64, 8, .rws, 0, bmCfgOk, 1, false⟩,
  ⟨0x9100, 32, 0x05, 0x05, .u64, 8, .rws, 0xFFFFFFFFFFFF, (masked 0xFFFFFFFFFFFF), 1, false⟩,
  ⟨0x9100, 32, 0x06, 0x06, .u64, 8, .rws, 0xFFFFFFFFFFFFFFFF, anyOk, 1, false⟩,
  ⟨0x9100, 32, 0x07, 0x07, .u8, 1, .ro, 0, anyOk, 1, false⟩,
  ⟨0x9100, 32, 0x08, 0x08, .u64, 8, .ro, 0, anyOk, 1, false⟩,
  ⟨0x9100, 32, 0x09, 0x09, .u64, 8, .ro, 0, anyOk, 1, false⟩,
  ⟨0x9100, 32, 0x10, 0x10, .u64, 8, .ro, 0, anyOk, 1, false⟩,
  ⟨0x9100, 32, 0x11, 0x11, .u64, 8, .ro, 0, anyOk, 1, false⟩,
  ⟨0x9100, 32, 0x12, 0x12, .u64, 8, .ro, 0, anyOk, 1, false⟩,
  ⟨0x9100, 32, 0x13, 0x13, .u64, 8, .ro, 0, anyOk, 1, false⟩,
  ⟨0x9100, 32, 0x14, 0x14, .u64, 8, .ro, 0, anyOk, 1, false⟩,
  ⟨0x9100, 32, 0x15, 0x15, .u64, 8, .ro, 0, anyOk, 1, false⟩,
  ⟨0x9100, 32, 0x16, 0x16, .u16, 2, .ro, 0, anyOk, 1, false⟩,
  ⟨0x9100, 32, 0x18, 0x18, .u64, 8, .ro, 0, anyOk, 1, false⟩,
  ⟨0x9100, 32, 0x19, 0x19, .u16, 2, .ro, 0, anyOk, 1, false⟩,
  ⟨0x9100, 32, 0x1A, 0x1A, .u16, 2, .ro, 0, anyOk, 1, false⟩,
  ⟨0x9100, 32, 0x1B, 0x1B, .u64, 8, .ro, 0, anyOk, 1, false⟩,
  ⟨0x9100, 32, 0x1C, 0x1C, .u64, 8, .ro, 0, anyOk, 1, false⟩,
  ⟨0x9100, 32, 0x1D, 0x1D, .u64, 8, .ro, 0, anyOk, 1, false⟩,
  ⟨0x9100, 32, 0x1E, 0x1E, .u64, 8, .ro, 0, anyOk, 1, false⟩,
  ⟨0x9200, 256, 0x00, 0x00, .u64, 8, .ro, 0, anyOk, 1, false⟩,
  ⟨0x9200, 256, 0x01, 0x01, .cmd, 1, .cmd, 0, (within 1 1), 1, false⟩,
  ⟨0x9300, 64, 0x00, 0x00, .u64, 8, .rw, 0, (multiple 256), 1, false⟩,
  ⟨0x9300, 64, 0x01, 0x01, .u32, 4, .rw, 16, (within 16 16777216), 1, false⟩]

/-- Members of the objects of digit 9. -/
def rows9b : List Row := [
  ⟨0x9300, 64, 0x02, 0x02, .cmd, 1, .cmd, 0, (within 1 3), 1, false⟩,
  ⟨0x9300, 64, 0x03, 0x03, .u8, 1, .ro, 0, anyOk, 1, false⟩,
  ⟨0x9300, 64, 0x04, 0x04, .u64, 8, .ro, 0, anyOk, 1, false⟩,
  ⟨0x9300, 64, 0x05, 0x05, .u64, 8, .ro, 0, anyOk, 1, false⟩,
  ⟨0x9300, 64, 0x06, 0x06, .u64, 8, .ro, 0, anyOk, 1, false⟩,
  ⟨0x9300, 64, 0x07, 0x07, .u64, 8, .ro, 0, anyOk, 1, false⟩,
  ⟨0x9300, 64, 0x08, 0x08, .u64, 8, .ro, 0, anyOk, 1, false⟩,
  ⟨0x9300, 64, 0x09, 0x09, .u64, 8, .ro, 0, anyOk, 1, false⟩,
  ⟨0x9300, 64, 0x0A, 0x0A, .u64, 8, .ro, 0, anyOk, 1, false⟩,
  ⟨0x9300, 64, 0x0B, 0x0B, .u32, 4, .ro, 0, anyOk, 1, false⟩,
  ⟨0x9300, 64, 0x0C, 0x0C, .u32, 4, .ro, 0, anyOk, 1, false⟩,
  ⟨0x9300, 64, 0x0D, 0x0D, .u64, 8, .rw, 1, anyOk, 1, false⟩,
  ⟨0x9300, 64, 0x0E, 0x0E, .bits32, 4, .w1c, 0, (masked 0x7F), 1, false⟩,
  ⟨0x9300, 64, 0x10, 0x10, .u64, 8, .wo, 0, anyOk, 1, false⟩,
  ⟨0x9300, 64, 0x11, 0x11, .u64, 8, .wo, 0, anyOk, 1, false⟩,
  ⟨0x9300, 64, 0x12, 0x12, .u64, 8, .rc, 0, anyOk, 1, false⟩,
  ⟨0x9300, 64, 0x13, 0x13, .b1, 1, .ro, 0, (within 0 1), 1, false⟩,
  ⟨0x9300, 64, 0x14, 0x14, .blob, 256, .rc, 0, anyOk, 1, false⟩]

/-- Members of the objects of digit 9. -/
def rows9 : List Row := rows9a ++ rows9b

/-- Members of the objects of digit A. -/
def rowsAa : List Row := [
  ⟨0xA000, 1, 0x00, 0x00, .u8, 1, .ro, 32, anyOk, 1, false⟩,
  ⟨0xA000, 1, 0x01, 0x01, .bits32, 4, .ro, 0, anyOk, 1, false⟩,
  ⟨0xA100, 32, 0x00, 0x00, .u8, 1, .ro, 0, anyOk, 1, false⟩,
  ⟨0xA100, 32, 0x01, 0x01, .cmd, 1, .cmd, 0, (within 1 6), 1, false⟩,
  ⟨0xA100, 32, 0x02, 0x02, .u16, 2, .rw, 0, (within 0 2047), 1, false⟩,
  ⟨0xA100, 32, 0x03, 0x03, .time128, 16, .rw, 0, timeOk, 1, false⟩,
  ⟨0xA100, 32, 0x04, 0x04, .bits64, 8, .rw, 0, anyOk, 1, false⟩,
  ⟨0xA100, 32, 0x05, 0x05, .bits32, 4, .rw, 0, (masked 3), 1, false⟩,
  ⟨0xA100, 32, 0x06, 0x06, .u64, 8, .rw, 0, anyOk, 1, false⟩,
  ⟨0xA100, 32, 0x07, 0x07, .u64, 8, .ro, 0, anyOk, 1, false⟩,
  ⟨0xA100, 32, 0x08, 0x08, .u16, 2, .ro, 0, anyOk, 1, false⟩,
  ⟨0xA100, 32, 0x09, 0x09, .bits32, 4, .ro, 0, anyOk, 1, false⟩,
  ⟨0xA100, 32, 0x0A, 0x0A, .u8, 1, .ro, 0, anyOk, 1, false⟩,
  ⟨0xA100, 32, 0x0B, 0x0B, .u16, 2, .ro, 0, anyOk, 1, false⟩,
  ⟨0xA100, 32, 0x0C, 0x0C, .u32, 4, .ro, 0, anyOk, 1, false⟩,
  ⟨0xA100, 32, 0x0D, 0x0D, .u8, 1, .ro, 23, anyOk, 1, false⟩,
  ⟨0xA100, 32, 0x0E, 0x0E, .s32, 4, .ro, 0, anyOk, 1, false⟩,
  ⟨0xA100, 32, 0x0F, 0x0F, .u64, 8, .ro, 0, anyOk, 1, false⟩,
  ⟨0xA100, 32, 0x10, 0x10, .u64, 8, .ro, 0, anyOk, 1, false⟩,
  ⟨0xA100, 32, 0x11, 0x11, .u32, 4, .ro, 0, anyOk, 1, false⟩,
  ⟨0xA100, 32, 0x12, 0x12, .u8, 1, .ro, 0, anyOk, 1, false⟩,
  ⟨0xA100, 32, 0x13, 0x13, .u64, 8, .ro, 0, anyOk, 1, false⟩,
  ⟨0xA100, 32, 0x14, 0x14, .u64, 8, .ro, 0, anyOk, 1, false⟩,
  ⟨0xA100, 32, 0x15, 0x15, .u64, 8, .ro, 0, anyOk, 1, false⟩,
  ⟨0xA100, 32, 0x16, 0x16, .u16, 2, .ro, 0, anyOk, 1, false⟩,
  ⟨0xA100, 32, 0x17, 0x17, .u64, 8, .ro, 0, anyOk, 1, false⟩,
  ⟨0xA200, 32, 0x00, 0x07, .u64, 8, .rw, 0, addr8Ok, 1, false⟩,
  ⟨0xA200, 32, 0x10, 0x17, .u64, 8, .rw, 0, wrapOk, 1, false⟩,
  ⟨0xA200, 32, 0x20, 0x27, .u64, 8, .rw, 0, anyOk, 1, false⟩,
  ⟨0xA200, 32, 0x30, 0x37, .u64, 8, .rw, 0, addr8Ok, 1, false⟩]

/-- Members of the objects of digit A. -/
def rowsAb : List Row := [
  ⟨0xA200, 32, 0x40, 0x47, .u64, 8, .rw, 0, addr8Ok, 1, false⟩]

/-- Members of the objects of digit A. -/
def rowsA : List Row := rowsAa ++ rowsAb

/-- Members of the objects of digit B. -/
def rowsBa : List Row := [
  ⟨0xB000, 1, 0x00, 0x00, .u8, 1, .ro, 0, anyOk, 1, false⟩,
  ⟨0xB000, 1, 0x01, 0x01, .u64, 8, .ro, 0, anyOk, 1, false⟩,
  ⟨0xB000, 1, 0x02, 0x02, .u8, 1, .ro, 0, anyOk, 1, false⟩,
  ⟨0xB000, 1, 0x03, 0x03, .u16, 2, .rw, 0, speedOk, 1, false⟩,
  ⟨0xB000, 1, 0x04, 0x04, .bits32, 4, .rw, 0, (masked 0xF), 1, false⟩,
  ⟨0xB000, 1, 0x05, 0x05, .bits32, 4, .rw, 0, (masked 0xF), 1, false⟩,
  ⟨0xB000, 1, 0x06, 0x06, .u64, 8, .ro, 0, anyOk, 1, false⟩,
  ⟨0xB100, 4, 0x00, 0x00, .cmd, 1, .cmd, 0, (within 1 2), 1, false⟩,
  ⟨0xB100, 4, 0x01, 0x01, .u8, 1, .ro, 0, anyOk, 1, false⟩,
  ⟨0xB100, 4, 0x02, 0x02, .bits32, 4, .ro, 0, anyOk, 1, false⟩,
  ⟨0xB100, 4, 0x03, 0x03, .u64, 8, .ro, 0, anyOk, 1, false⟩,
  ⟨0xB100, 4, 0x04, 0x04, .u8, 1, .ro, 0x0, anyOk, 1, false⟩,
  ⟨0xB100, 4, 0x05, 0x05, .u64, 8, .ro, 0, anyOk, 1, false⟩,
  ⟨0xB100, 4, 0x06, 0x06, .u16, 2, .rw, 0, (zeroOr 16 800), 1, false⟩,
  ⟨0xB100, 4, 0x07, 0x07, .s16, 2, .rd, 0, anyOk, 1, false⟩,
  ⟨0xB100, 4, 0x08, 0x0B, .u32, 4, .rw, 2000, (within 100 100000), 1, false⟩,
  ⟨0xB100, 4, 0x0C, 0x0C, .u16, 2, .rw, 256, anyOk, 1, false⟩,
  ⟨0xB100, 4, 0x0D, 0x0D, .u16, 2, .rw, 256, anyOk, 1, false⟩,
  ⟨0xB100, 4, 0x0E, 0x0E, .u16, 2, .rw, 0, anyOk, 1, false⟩,
  ⟨0xB100, 4, 0x0F, 0x0F, .u16, 2, .rw, 64, anyOk, 1, false⟩,
  ⟨0xB100, 4, 0x10, 0x13, .u64, 8, .ro, 0, anyOk, 1, false⟩,
  ⟨0xB100, 4, 0x14, 0x17, .u64, 8, .ro, 0, anyOk, 1, false⟩,
  ⟨0xB100, 4, 0x18, 0x1B, .u64, 8, .ro, 0, anyOk, 1, false⟩,
  ⟨0xB100, 4, 0x1C, 0x1F, .u16, 2, .ro, 0, anyOk, 1, false⟩,
  ⟨0xB100, 4, 0x20, 0x20, .u64, 8, .ro, 0, anyOk, 1, false⟩,
  ⟨0xB100, 4, 0x21, 0x21, .u64, 8, .ro, 0, anyOk, 1, false⟩,
  ⟨0xB100, 4, 0x22, 0x22, .u64, 8, .ro, 0, anyOk, 1, false⟩,
  ⟨0xB100, 4, 0x23, 0x23, .u64, 8, .ro, 0, anyOk, 1, false⟩,
  ⟨0xB100, 4, 0x24, 0x24, .u64, 8, .ro, 0, anyOk, 1, false⟩,
  ⟨0xB100, 4, 0x25, 0x25, .u64, 8, .ro, 0, anyOk, 1, false⟩]

/-- Members of the objects of digit B. -/
def rowsBb : List Row := [
  ⟨0xB100, 4, 0x26, 0x26, .u32, 4, .rw, 2048, (within 256 65535), 1, false⟩,
  ⟨0xB100, 4, 0x27, 0x27, .u16, 2, .rw, 200, (within 0 10000), 1, false⟩,
  ⟨0xB100, 4, 0x28, 0x28, .u32, 4, .rw, 10, (within 1 1000000), 1, false⟩,
  ⟨0xB100, 4, 0x29, 0x29, .u64, 8, .ro, 0, anyOk, 1, false⟩,
  ⟨0xB100, 4, 0x2A, 0x2A, .u8, 1, .ro, 0, anyOk, 1, false⟩,
  ⟨0xB100, 4, 0x2B, 0x2B, .u64, 8, .ro, 0, anyOk, 1, false⟩,
  ⟨0xB100, 4, 0x2C, 0x2C, .u32, 4, .rw, 86400, (zeroOr 3600 2592000), 1, false⟩,
  ⟨0xB100, 4, 0x2D, 0x2D, .bits32, 4, .w1c, 0, (masked 0xFF), 1, false⟩]

/-- Members of the objects of digit B. -/
def rowsB : List Row := rowsBa ++ rowsBb

/-- Members of the objects of digit C. -/
def rowsC : List Row := [
  ⟨0xC000, 1, 0x00, 0x00, .u8, 1, .ro, 64, anyOk, 1, false⟩,
  ⟨0xC000, 1, 0x01, 0x01, .bits32, 4, .w1c, 0, (masked 0x1F), 1, false⟩,
  ⟨0xC100, 64, 0x00, 0x00, .cmd, 1, .cmd, 0, (within 1 1), 1, false⟩,
  ⟨0xC100, 64, 0x01, 0x01, .bits32, 4, .rw, 64, (within 1 255), 1, false⟩,
  ⟨0xC100, 64, 0x02, 0x02, .u8, 1, .ro, 0, anyOk, 1, false⟩,
  ⟨0xC100, 64, 0x03, 0x03, .u8, 1, .ro, 0, anyOk, 1, false⟩,
  ⟨0xC100, 64, 0x04, 0x04, .u64, 8, .ro, 0, anyOk, 1, false⟩,
  ⟨0xC100, 64, 0x05, 0x05, .u64, 8, .ro, 0, anyOk, 1, false⟩,
  ⟨0xC100, 64, 0x06, 0x06, .u64, 8, .ro, 0, anyOk, 1, false⟩,
  ⟨0xC100, 64, 0x07, 0x07, .u64, 8, .ro, 0, anyOk, 1, false⟩,
  ⟨0xC200, 32, 0x00, 0x00, .cmd, 1, .cmd, 0, (within 1 3), 1, false⟩,
  ⟨0xC200, 32, 0x01, 0x01, .bits64, 8, .rw, 0, pselOk, 1, false⟩,
  ⟨0xC200, 32, 0x02, 0x02, .u64, 8, .rw, 0, (masked 0xFFFFFFFFFFFF), 1, false⟩,
  ⟨0xC200, 32, 0x03, 0x03, .u64, 8, .rw, 0, (masked 0xFFFFFFFFFFFF), 1, false⟩,
  ⟨0xC200, 32, 0x04, 0x04, .u64, 8, .ro, 0, anyOk, 1, false⟩,
  ⟨0xC200, 32, 0x05, 0x05, .u64, 8, .ro, 0, anyOk, 1, false⟩,
  ⟨0xC200, 32, 0x06, 0x06, .u8, 1, .ro, 0, anyOk, 1, false⟩,
  ⟨0xC300, 1, 0x00, 0x00, .u8, 1, .rw, 0, (within 0 1), 1, false⟩,
  ⟨0xC300, 1, 0x01, 0x01, .u16, 2, .ro, 0, anyOk, 1, false⟩,
  ⟨0xC300, 1, 0x02, 0x02, .u64, 8, .ro, 0, anyOk, 1, false⟩,
  ⟨0xC300, 1, 0x03, 0x03, .cmd, 1, .cmd, 0, (within 1 1), 1, false⟩,
  ⟨0xC301, 1, 0x00, 0x7F, .blob, 2048, .rd, 0, anyOk, 1, false⟩]

/-- Members of the objects of digit D. -/
def rowsDa : List Row := [
  ⟨0xD000, 1, 0x00, 0x00, .u8, 1, .ro, 48, anyOk, 1, false⟩,
  ⟨0xD100, 48, 0x00, 0x00, .cmd, 1, .cmd, 0, (within 1 3), 1, false⟩,
  ⟨0xD100, 48, 0x01, 0x01, .u8, 1, .ro, 0, anyOk, 1, false⟩,
  ⟨0xD100, 48, 0x02, 0x02, .u8, 1, .rw, 0, (within 0 1), 1, false⟩,
  ⟨0xD100, 48, 0x03, 0x03, .u8, 1, .rw, 0, (within 0 5), 1, false⟩,
  ⟨0xD100, 48, 0x04, 0x04, .b1, 1, .rw, 0, (within 0 1), 1, false⟩,
  ⟨0xD100, 48, 0x05, 0x05, .b1, 1, .rw, 0, (within 0 1), 1, false⟩,
  ⟨0xD100, 48, 0x06, 0x06, .bits32, 4, .rw, 0x43408, txeqOk, 1, false⟩,
  ⟨0xD100, 48, 0x07, 0x07, .u8, 1, .rw, 3, (within 0 3), 1, false⟩,
  ⟨0xD100, 48, 0x08, 0x08, .bits32, 4, .rw, 0x0, rawOk, 1, false⟩,
  ⟨0xD100, 48, 0x09, 0x09, .u64, 8, .rw, 0, anyOk, 1, false⟩,
  ⟨0xD100, 48, 0x0A, 0x0A, .u8, 1, .ro, 0, anyOk, 1, false⟩,
  ⟨0xD100, 48, 0x0B, 0x0B, .u64, 8, .ro, 0, anyOk, 1, false⟩,
  ⟨0xD100, 48, 0x0C, 0x0C, .u8, 1, .ro, 0xFF, anyOk, 1, false⟩,
  ⟨0xD100, 48, 0x0D, 0x0D, .u64, 8, .ro, 0, anyOk, 1, false⟩,
  ⟨0xD100, 48, 0x0E, 0x0E, .u64, 8, .ro, 0, anyOk, 1, false⟩,
  ⟨0xD100, 48, 0x0F, 0x0F, .u64, 8, .ro, 0, anyOk, 1, false⟩,
  ⟨0xD100, 48, 0x10, 0x10, .u64, 8, .ro, 0, anyOk, 1, false⟩,
  ⟨0xD100, 48, 0x11, 0x11, .u64, 8, .ro, 0, anyOk, 1, false⟩,
  ⟨0xD100, 48, 0x12, 0x12, .u64, 8, .ro, 0, anyOk, 1, false⟩,
  ⟨0xD100, 48, 0x13, 0x13, .u64, 8, .ro, 0, anyOk, 1, false⟩,
  ⟨0xD100, 48, 0x14, 0x14, .u64, 8, .ro, 0, anyOk, 1, false⟩,
  ⟨0xD100, 48, 0x15, 0x15, .u64, 8, .ro, 0, anyOk, 1, false⟩,
  ⟨0xD100, 48, 0x16, 0x16, .u64, 8, .ro, 0, anyOk, 1, false⟩,
  ⟨0xD100, 48, 0x17, 0x17, .u64, 8, .ro, 0, anyOk, 1, false⟩,
  ⟨0xD100, 48, 0x18, 0x18, .u64, 8, .ro, 0, anyOk, 1, false⟩,
  ⟨0xD100, 48, 0x19, 0x19, .u16, 2, .ro, 0, anyOk, 1, false⟩,
  ⟨0xD100, 48, 0x1A, 0x1A, .u64, 8, .rw, 0, (multiple 256), 1, false⟩,
  ⟨0xD100, 48, 0x1B, 0x1B, .u64, 8, .rw, 4096, srxBytesOk, 1, false⟩,
  ⟨0xD100, 48, 0x1C, 0x1C, .u64, 8, .ro, 0, anyOk, 1, false⟩]

/-- Members of the objects of digit D. -/
def rowsDb : List Row := [
  ⟨0xD100, 48, 0x1D, 0x1D, .u64, 8, .rw, 0, anyOk, 1, false⟩,
  ⟨0xD100, 48, 0x1E, 0x1E, .u64, 8, .ro, 0, anyOk, 1, false⟩,
  ⟨0xD100, 48, 0x1F, 0x1F, .u64, 8, .ro, 0, anyOk, 1, false⟩,
  ⟨0xD100, 48, 0x20, 0x20, .u64, 8, .ro, 0, anyOk, 1, false⟩,
  ⟨0xD100, 48, 0x21, 0x21, .u64, 8, .ro, 0, anyOk, 1, false⟩,
  ⟨0xD100, 48, 0x22, 0x22, .u64, 8, .ro, 0, anyOk, 1, false⟩,
  ⟨0xD100, 48, 0x23, 0x23, .u64, 8, .ro, 0, anyOk, 1, false⟩,
  ⟨0xD100, 48, 0x24, 0x24, .u64, 8, .ro, 0, anyOk, 1, false⟩,
  ⟨0xD100, 48, 0x25, 0x25, .blob, 24, .rd, 0, anyOk, 1, false⟩,
  ⟨0xD100, 48, 0x26, 0x26, .bits32, 4, .w1c, 0, (masked 0x7F), 1, false⟩,
  ⟨0xD200, 12, 0x00, 0x00, .u8, 1, .rw, 0, (within 0 4), 1, false⟩,
  ⟨0xD200, 12, 0x01, 0x01, .u8, 1, .ro, 0, anyOk, 1, false⟩,
  ⟨0xD200, 12, 0x02, 0x02, .u8, 1, .rw, 0xE4, mapOk, 1, false⟩]

/-- Members of the objects of digit D. -/
def rowsD : List Row := rowsDa ++ rowsDb

/-- Members of the objects of digit E. -/
def rowsEa : List Row := [
  ⟨0xE000, 1, 0x00, 0x00, .u8, 1, .rw, 0, (within 0 2), 1, false⟩,
  ⟨0xE000, 1, 0x01, 0x01, .time128, 16, .ro, 0, timeOk, 1, false⟩,
  ⟨0xE000, 1, 0x02, 0x02, .u64, 8, .rw, 0x100000000, (within 0xFFBE76C9 0x100418937), 1, false⟩,
  ⟨0xE000, 1, 0x03, 0x03, .s64, 8, .wo, 0, anyOk, 1, false⟩,
  ⟨0xE000, 1, 0x04, 0x04, .time128, 16, .wo, 0, timeOk, 1, false⟩,
  ⟨0xE000, 1, 0x05, 0x05, .u64, 8, .rw, 1000, (within 1 1000000000), 1, false⟩,
  ⟨0xE000, 1, 0x06, 0x06, .bits32, 4, .ro, 0, anyOk, 1, false⟩,
  ⟨0xE000, 1, 0x07, 0x07, .bits32, 4, .w1c, 0, (masked 0x1FFF), 1, false⟩,
  ⟨0xE000, 1, 0x08, 0x08, .u64, 8, .ro, 0, anyOk, 1, false⟩,
  ⟨0xE000, 1, 0x09, 0x09, .u64, 8, .ro, 0, anyOk, 1, false⟩,
  ⟨0xE001, 1, 0x00, 0x00, .u8, 1, .rw, 0xFF, srcLaneOk, 1, false⟩,
  ⟨0xE001, 1, 0x01, 0x01, .bits64, 8, .rw, 0, (masked 0xFFFFFFFFFFFF), 1, false⟩,
  ⟨0xE001, 1, 0x02, 0x02, .bits64, 8, .rw, 0, (masked 0xFFFFFFFFFFFF), 1, false⟩,
  ⟨0xE001, 1, 0x03, 0x03, .u32, 4, .rw, 1000, (within 100 1000000), 1, false⟩,
  ⟨0xE001, 1, 0x04, 0x04, .u8, 1, .rw, 2, (within 0 15), 1, false⟩,
  ⟨0xE001, 1, 0x05, 0x05, .u8, 1, .rw, 6, (within 0 15), 1, false⟩,
  ⟨0xE001, 1, 0x06, 0x06, .u32, 4, .rw, 100, (within 16 1000000), 1, false⟩,
  ⟨0xE001, 1, 0x07, 0x07, .s64, 8, .ro, 0, anyOk, 1, false⟩,
  ⟨0xE001, 1, 0x08, 0x08, .s64, 8, .ro, 0, anyOk, 1, false⟩,
  ⟨0xE001, 1, 0x09, 0x09, .u64, 8, .ro, 0, anyOk, 1, false⟩,
  ⟨0xE001, 1, 0x0A, 0x0A, .u8, 1, .ro, 0, anyOk, 1, false⟩,
  ⟨0xE001, 1, 0x0B, 0x0B, .u64, 8, .ro, 0, anyOk, 1, false⟩,
  ⟨0xE001, 1, 0x0C, 0x0C, .u8, 1, .rw, 0, anyOk, 1, false⟩,
  ⟨0xE001, 1, 0x0D, 0x0D, .u8, 1, .ro, 0, anyOk, 1, false⟩,
  ⟨0xE003, 1, 0x00, 0x2F, .s32, 4, .rw, 0, (signedWithin 32 1000000 1000000), 1, false⟩,
  ⟨0xE004, 1, 0x00, 0x2F, .blob, 24, .rc, 0, anyOk, 1, false⟩,
  ⟨0xE005, 1, 0x00, 0x2F, .blob, 32, .wo, 0, anyOk, 1, false⟩,
  ⟨0xE006, 1, 0x00, 0x2F, .blob, 48, .rc, 0, anyOk, 1, false⟩,
  ⟨0xE007, 1, 0x00, 0x2F, .bits32, 4, .w1c, 0, (masked 3), 1, false⟩,
  ⟨0xE008, 1, 0x00, 0x2F, .u64, 8, .ro, 0, anyOk, 1, false⟩]

/-- Members of the objects of digit E. -/
def rowsEb : List Row := [
  ⟨0xE009, 1, 0x00, 0x2F, .u64, 8, .ro, 0, anyOk, 1, false⟩,
  ⟨0xE00A, 1, 0x00, 0x2F, .u64, 8, .ro, 0, anyOk, 1, false⟩,
  ⟨0xE00B, 1, 0x00, 0x2F, .u64, 8, .ro, 0, anyOk, 1, false⟩,
  ⟨0xE100, 16, 0x00, 0x00, .time128, 16, .rw, 0, timeOk, 1, false⟩,
  ⟨0xE100, 16, 0x01, 0x01, .time128, 16, .rw, 0, timeOk, 1, false⟩,
  ⟨0xE100, 16, 0x02, 0x02, .tick64, 8, .rw, 0, anyOk, 1, false⟩,
  ⟨0xE100, 16, 0x03, 0x03, .cmd, 1, .cmd, 0, (within 1 2), 1, false⟩,
  ⟨0xE100, 16, 0x04, 0x04, .u8, 1, .ro, 0, anyOk, 1, false⟩,
  ⟨0xE100, 16, 0x05, 0x05, .u64, 8, .ro, 0, anyOk, 1, false⟩,
  ⟨0xE200, 16, 0x00, 0x00, .time128, 16, .rw, 0, timeOk, 1, false⟩,
  ⟨0xE200, 16, 0x01, 0x01, .tick64, 8, .rw, 16384, anyOk, 1, false⟩,
  ⟨0xE200, 16, 0x02, 0x02, .tick64, 8, .rw, 0, anyOk, 1, false⟩,
  ⟨0xE200, 16, 0x03, 0x03, .u32, 4, .rw, 1, anyOk, 1, false⟩,
  ⟨0xE200, 16, 0x04, 0x04, .bits32, 4, .rw, 0, trgCfgOk, 1, false⟩,
  ⟨0xE200, 16, 0x05, 0x05, .cmd, 1, .cmd, 0, (within 1 2), 1, false⟩,
  ⟨0xE200, 16, 0x06, 0x06, .u8, 1, .ro, 0, anyOk, 1, false⟩,
  ⟨0xE200, 16, 0x07, 0x07, .u64, 8, .ro, 0, anyOk, 1, false⟩,
  ⟨0xE200, 16, 0x08, 0x08, .u64, 8, .ro, 0, anyOk, 1, false⟩,
  ⟨0xE300, 16, 0x00, 0x00, .bits32, 4, .rw, 0, (masked 0xF7), 1, false⟩,
  ⟨0xE300, 16, 0x01, 0x01, .blob, 24, .rc, 0, anyOk, 1, false⟩,
  ⟨0xE300, 16, 0x02, 0x02, .u8, 1, .ro, 0, anyOk, 1, false⟩,
  ⟨0xE300, 16, 0x03, 0x03, .u64, 8, .ro, 0, anyOk, 1, false⟩,
  ⟨0xE300, 16, 0x04, 0x04, .u64, 8, .ro, 0, anyOk, 1, false⟩]

/-- Members of the objects of digit E. -/
def rowsE : List Row := rowsEa ++ rowsEb

/-- Members of the objects of digit F. -/
def rowsFa : List Row := [
  ⟨0xF000, 1, 0x00, 0x00, .bits32, 4, .ro, 0, anyOk, 1, false⟩,
  ⟨0xF000, 1, 0x01, 0x01, .bits32, 4, .ro, 0, anyOk, 1, false⟩,
  ⟨0xF000, 1, 0x02, 0x02, .cmd, 1, .cmd, 0, (within 1 4), 2, false⟩,
  ⟨0xF000, 1, 0x03, 0x03, .blob, 32, .wo, 0, anyOk, 2, false⟩,
  ⟨0xF000, 1, 0x04, 0x04, .cmd, 1, .cmd, 0, (within 1 1), 2, false⟩,
  ⟨0xF000, 1, 0x05, 0x05, .u8, 1, .ro, 0xFF, anyOk, 1, false⟩,
  ⟨0xF001, 1, 0x00, 0x00, .cmd, 1, .cmd, 0, (within 1 4), 1, false⟩,
  ⟨0xF001, 1, 0x01, 0x01, .blob, 32, .ro, 0, anyOk, 1, false⟩,
  ⟨0xF001, 1, 0x02, 0x02, .blob, 32, .wo, 0, anyOk, 1, false⟩,
  ⟨0xF001, 1, 0x03, 0x03, .u32, 4, .ro, 0, anyOk, 1, false⟩,
  ⟨0xF100, 64, 0x00, 0x00, .bits64, 8, .rw, 0, brkCfgOk, 2, false⟩,
  ⟨0xF100, 64, 0x01, 0x01, .u64, 8, .rw, 0, anyOk, 2, false⟩,
  ⟨0xF100, 64, 0x02, 0x02, .u64, 8, .rw, 0, anyOk, 2, false⟩,
  ⟨0xF100, 64, 0x03, 0x03, .u32, 4, .rw, 1, (within 1 0xFFFFFFFF), 2, false⟩,
  ⟨0xF100, 64, 0x04, 0x04, .u64, 8, .ro, 0, anyOk, 1, false⟩,
  ⟨0xF100, 64, 0x05, 0x05, .u8, 1, .ro, 0, anyOk, 1, false⟩,
  ⟨0xF100, 64, 0x06, 0x06, .cmd, 1, .cmd, 0, (within 2 3), 2, false⟩,
  ⟨0xF200, 65, 0x00, 0x00, .cmd, 1, .cmd, 0, (within 1 3), 2, false⟩,
  ⟨0xF200, 65, 0x01, 0x01, .u32, 4, .rw, 1, (within 1 0xFFFFFFFF), 1, false⟩,
  ⟨0xF200, 65, 0x02, 0x02, .u8, 1, .ro, 0, anyOk, 1, false⟩,
  ⟨0xF200, 65, 0x03, 0x03, .u16, 2, .rw, 0, anyOk, 1, false⟩,
  ⟨0xF200, 65, 0x04, 0x04, .u64, 8, .rw, 0, anyOk, 1, false⟩,
  ⟨0xF300, 1, 0x00, 0x03, .bits64, 8, .rw, 0, anyOk, 1, false⟩,
  ⟨0xF400, 65, 0x00, 0x00, .u32, 4, .rc, 0, anyOk, 1, false⟩,
  ⟨0xF400, 65, 0x01, 0x01, .u32, 4, .rw, 0, anyOk, 1, false⟩,
  ⟨0xF400, 65, 0x02, 0x02, .bits32, 4, .ro, 0, anyOk, 1, false⟩,
  ⟨0xF400, 65, 0x03, 0x03, .u32, 4, .wo, 0, anyOk, 1, false⟩,
  ⟨0xF400, 65, 0x04, 0x04, .u32, 4, .rc, 0, anyOk, 1, false⟩,
  ⟨0xF400, 65, 0x05, 0x05, .u64, 8, .ro, 8, anyOk, 1, false⟩,
  ⟨0xF400, 65, 0x06, 0x06, .u64, 8, .ro, 0, anyOk, 1, false⟩]

/-- Members of the objects of digit F. -/
def rowsFb : List Row := [
  ⟨0xF500, 1, 0x00, 0x00, .u64, 8, .rw, 0, (masked 0xFFFFFFFFFFFF), 1, false⟩,
  ⟨0xF500, 1, 0x01, 0x01, .blob, 2048, .rd, 0, anyOk, 2, false⟩,
  ⟨0xF500, 1, 0x02, 0x02, .bits32, 4, .ro, 0, anyOk, 1, false⟩,
  ⟨0xF600, 1, 0x00, 0x00, .bits32, 4, .w1c, 0, (masked 0xFF), 1, false⟩]

/-- Members of the objects of digit F. -/
def rowsF : List Row := rowsFa ++ rowsFb
/-- The rows of the subsystem that owns object o (R2). -/
def rowsOf (o : Nat) : List Row :=
  match o / 4096 with
  | 0 => rows0 | 1 => rows1 | 2 => rows2 | 3 => rows3 | 4 => rows4 | 5 => rows5 | 6 => rows6 | 7 => rows7
  | 8 => rows8 | 9 => rows9 | 10 => rowsA | 11 => rowsB | 12 => rowsC | 13 => rowsD | 14 => rowsE | 15 => rowsF
  | _ => []

/-- Does the row hold member m of object o? -/
def Row.holds (r : Row) (o m : Nat) : Bool :=
  Nat.ble r.obj o && Nat.blt o (r.obj + r.cnt) && Nat.ble r.lo m && Nat.ble m r.hi

/-- Member m of object o, or none (R5, R514). Ports of scratch banks 8 to 63 have no member 01 (10 R290). -/
def find (o m : Nat) : Option Row :=
  if Nat.ble 0x6108 o && Nat.blt o 0x6140 && Nat.beq m 1 then none else (rowsOf o).find? (·.holds o m)

/-- Defaults of the rails' windows (15 R409); VIO banks at the 1.8 V level (log entry 3). -/
def vLow (r : Nat) : Nat := [712, 712, 855, 1045, 807, 1140].getD r (if r = 16 then 1200 else 1710)
/-- As vLow, the upper bound. -/
def vHigh (r : Nat) : Nat := [788, 788, 945, 1155, 893, 1260].getD r (if r = 16 then 3600 else 1890)
/-- Nominal rail voltages (15 R409; log entry 3). -/
def vNom (r : Nat) : Nat := [750, 750, 900, 1100, 850, 1200].getD r (if r = 16 then 3000 else 1800)

/-- What a member reads at reset: the default of its table. Members without one read 0 (log entry 3), but for those
whose default is given by a rule: APG_SEL p (04 R138), PHYS n mod 4 (12 R342), the rails (15 R409) and the
temperature limits of grade -C (15 R408). -/
def dflt (k : Nat) : Nat :=
  let o := k / 256
  let m := k % 256
  if Nat.ble 0x7400 o && Nat.blt o 0x7420 && Nat.blt m 64 then m
  else if Nat.ble 0xD100 o && Nat.blt o 0xD130 && Nat.beq m 0x0A then (o - 0xD100) % 4
  else if Nat.beq o 0x2700 && Nat.ble m 16 then vNom m
  else if Nat.beq o 0x2701 && Nat.ble m 16 then vLow m
  else if Nat.beq o 0x2702 && Nat.ble m 16 then vHigh m
  else if Nat.beq k 0x260101 then 1600
  else if Nat.beq k 0x260102 then 1840
  else match find o m with
    | some r => r.dflt
    | none => 0

/-- Is the object one whose rule states the length of every write of its BLOBs (04 R138, 06 R191, 16 R429)? -/
def wholeBlob (o : Nat) : Bool := [0x32, 0x72, 0x81, 0x82].contains (o / 256)
/-- May a write of the member carry n data bytes (R40)? A fixed-width type takes its width, a BLOB any length up to its maximum
where its rule states none. -/
def lenOk (r : Row) (n : Nat) : Bool :=
  if r.ty = .blob && !(wholeBlob r.obj) then Nat.ble 1 n && Nat.ble n r.width else Nat.beq n r.width

/-- The gate unit of 15 R400 whose registers object o belongs to, if its block has a gate. -/
def gateUnit (o : Nat) : Option Nat :=
  let n := o % 256
  match o / 256 with
  | 0x41 | 0x42 => some n
  | 0x51 | 0x52 | 0x53 | 0x54 | 0x55 | 0x56 => some ((o - 0x5100) / 48)
  | 0x61 => some (0x60 + n)
  | 0x71 | 0x72 | 0x73 | 0x74 | 0x75 => some (0x20 + n)
  | 0x80 | 0x81 | 0x82 | 0x83 | 0x84 | 0x85 | 0x86 | 0x87 | 0x88 | 0x89 | 0x8F => some 0xB0
  | 0xA1 | 0xA2 => some (0x40 + n)
  | 0xB1 => some (0xA0 + n)
  | 0xD1 => some (0xA4 + n / 4)
  | 0xD2 => some (0xA4 + n)
  | 0xF0 => if o = 0xF001 then none else some 0xB1
  | 0xF1 | 0xF2 | 0xF3 | 0xF4 | 0xF5 | 0xF6 => some 0xB1
  | _ => none

end Sys2Proof.Machine.Dict
end

