-- ==== Sys2Proof/Machine/Crypto.lean ====
section
/-! DEFINITION. The functions that 16_configuration.md R420 and R426, 18_supervisor_events.md R460, 07_edge_calibration.md R208 and
19_debug.md R481 name and do not restate: SHA-256 (FIPS 180-4), HMAC (FIPS 198-1), AES-256 (FIPS 197) and GCM (NIST SP 800-38D).
PRESUMED from those standards (log entry 10). A string of bytes is a number, its first byte the lowest. -/
namespace Sys2Proof.Machine

/-- f of n. The case on n has the kernel evaluate n to a numeral before f takes it. -/
def forced (n : Nat) (f : Nat → Nat) : Nat :=
  match n with
  | 0 => f 0
  | k + 1 => f (k + 1)
theorem forced_eq (n : Nat) (f : Nat → Nat) : forced n f = f n := by cases n <;> rfl

/-- The n bytes of d in the opposite order, after those of acc. -/
def revBytes : (n d acc : Nat) → Nat
  | 0, _, acc => acc
  | n + 1, d, acc => revBytes n (d / 256) (acc * 256 + d % 256)

/-! SHA-256 (FIPS 180-4). -/

/-- The 64 constants of the rounds, the first lowest. -/
abbrev shaK : Nat := 0xc67178f2bef9a3f7a4506ceb90befffa8cc7020884c8781478a5636f748f82ee682e6ff35b9cca4f4ed8aa4a391c0cb334b0bcb52748774c1e376c0819a4c116106aa070f40e3585d6990624d192e819c76c51a3c24b8b70a81a664ba2bfe8a192722c8581c2c92e766a0abb650a735453380d134d2c6dfc2e1b213827b70a851429296706ca6351d5a79147c6e00bf3bf597fc7b00327c8a831c66d983e515276f988da5cb0a9dc4a7484aa2de92c6f240ca1cc0fc19dc6efbe4786e49b69c1c19bf1749bdc06a780deb1fe72be5d74550c7dc3243185be12835b01d807aa98ab1c5ed5923f82a459f111f13956c25be9b5dba5b5c0fbcf71374491428a2f98
/-- The initial hash value, its first word highest. -/
abbrev shaInit : Nat := 0x6a09e667bb67ae853c6ef372a54ff53a510e527f9b05688c1f83d9ab5be0cd19

/-- Word i of a number of 32-bit words, the lowest number 0. -/
def word32 (x i : Nat) : Nat := x >>> (32 * i) % 2 ^ 32
/-- A 32-bit word rotated right by n. -/
def rotr32 (x n : Nat) : Nat := x >>> n + x % 2 ^ n * 2 ^ (32 - n)
/-- The schedule: w holds words t to t + 15, and moves on by one. -/
def shaNext (w : Nat) : Nat :=
  let a := word32 w 1
  let b := word32 w 14
  let s0 := (rotr32 a 7 ^^^ rotr32 a 18) ^^^ a >>> 3
  let s1 := (rotr32 b 17 ^^^ rotr32 b 19) ^^^ b >>> 10
  w >>> 32 + (s1 + word32 w 9 + s0 + word32 w 0) % 2 ^ 32 * 2 ^ 480
/-- One round on the working variables h (lowest) to a, with its constant and word. -/
def shaRound (kw v : Nat) : Nat :=
  let a := word32 v 7
  let b := word32 v 6
  let c := word32 v 5
  let e := word32 v 3
  let t1 := word32 v 0 + ((rotr32 e 6 ^^^ rotr32 e 11) ^^^ rotr32 e 25) + ((e &&& word32 v 2) ^^^ ((2 ^ 32 - 1 - e) &&& word32 v 1)) + kw
  let t2 := ((rotr32 a 2 ^^^ rotr32 a 13) ^^^ rotr32 a 22) + ((((a &&& b) ^^^ (a &&& c)) ^^^ (b &&& c)))
  v >>> 160 * 2 ^ 128 + v >>> 32 % 2 ^ 96 + (t1 + t2) % 2 ^ 32 * 2 ^ 224 + (word32 v 4 + t1) % 2 ^ 32 * 2 ^ 96
/-- n rounds from the round whose constants lead k on. -/
def shaRounds : (n k w v : Nat) → Nat
  | 0, _, _, v => v
  | n + 1, k, w, v => forced (shaRound (k % 2 ^ 32 + w % 2 ^ 32) v) fun v' => forced (shaNext w) fun w' => shaRounds n (k >>> 32) w' v'
/-- The words of two hash values added. -/
def shaAdd : (n x y : Nat) → Nat
  | 0, _, _ => 0
  | n + 1, x, y => (x + y) % 2 ^ 32 + shaAdd n (x >>> 32) (y >>> 32) * 2 ^ 32
/-- The words of a block of 4 n bytes, each with its first byte highest. -/
def shaWords : (n d : Nat) → Nat
  | 0, _ => 0
  | n + 1, d => revBytes 4 d 0 + shaWords n (d >>> 32) * 2 ^ 32
/-- The hash value h after the n blocks of d. -/
def shaBlocks : (n d h : Nat) → Nat
  | 0, _, h => h
  | n + 1, d, h =>
    forced (shaWords 16 (d % 2 ^ 512)) fun w => forced (shaAdd 8 (shaRounds 64 shaK w h) h) fun h' =>
      forced (d >>> 512) fun d' => shaBlocks n d' h'
/-- SHA-256 of the n bytes of d. -/
@[irreducible] def sha256 (d n : Nat) : Nat :=
  let k := (n + 8) / 64 + 1
  revBytes 32 (shaBlocks k (d % 2 ^ (8 * n) + 0x80 * 2 ^ (8 * n) + revBytes 8 (8 * n) 0 * 2 ^ (512 * k - 64)) shaInit) 0

/-- The byte b at each of n places. -/
def fillBytes (n b : Nat) : Nat := (2 ^ (8 * n) - 1) / 255 * b
/-- HMAC-SHA-256 of the n bytes of d under a 32-byte key. -/
@[irreducible] def hmac256 (key d n : Nat) : Nat :=
  let k := key % 2 ^ 256
  sha256 ((k ^^^ fillBytes 64 0x5C) + sha256 ((k ^^^ fillBytes 64 0x36) + d % 2 ^ (8 * n) * 2 ^ 512) (64 + n) * 2 ^ 512) 96

/-! AES-256 (FIPS 197). -/

/-- The substitution of each byte, that of 0 lowest. -/
abbrev aesBox : Nat := 0x16bb54b00f2d99416842e6bf0d89a18cdf2855cee9871e9b948ed9691198f8e19e1dc186b95735610ef6034866b53e708a8bbd4b1f74dde8c6b4a61c2e2578ba08ae7a65eaf4566ca94ed58d6d37c8e779e4959162acd3c25c2406490a3a32e0db0b5ede14b8ee4688902a22dc4f816073195d643d7ea7c41744975fec130ccdd2f3ff1021dab6bcf5389d928f40a351a89f3c507f02f94585334d43fbaaefd0cf584c4a39becb6a5bb1fc20ed00d153842fe329b3d63b52a05a6e1b1a2c830975b227ebe28012079a059618c323c7041531d871f1e5a534ccf73f362693fdb7c072a49cafa2d4adf04759fa7dc982ca76abd7fe2b670130c56f6bf27b777c63
/-- Byte i of x. -/
def byteOf (x i : Nat) : Nat := x >>> (8 * i) % 256
/-- The substitution of a byte. -/
def subByte (b : Nat) : Nat := byteOf aesBox b
/-- The substitution of n bytes. -/
def subBytes : (n x : Nat) → Nat
  | 0, _ => 0
  | n + 1, x => subByte (x % 256) + subBytes n (x >>> 8) * 256
/-- A byte times x in the field of AES. -/
def xtime (b : Nat) : Nat := if 128 ≤ b then (2 * b % 256) ^^^ 0x1B else 2 * b
/-- The key words from number i on, n of them: w holds the last eight. -/
def aesWords : (n i rcon w : Nat) → Nat
  | 0, _, _, _ => 0
  | n + 1, i, rcon, w =>
    let t := word32 w 7
    let g := if i % 8 = 0 then subBytes 4 (t >>> 8 + t % 256 * 2 ^ 24) ^^^ rcon else if i % 8 = 4 then subBytes 4 t else t
    forced (word32 w 0 ^^^ g) fun x =>
      x + aesWords n (i + 1) (if i % 8 = 0 then xtime rcon else rcon) (w >>> 32 + x * 2 ^ 224) * 2 ^ 32
/-- The 15 round keys, the first lowest. -/
def aesKeys (key : Nat) : Nat := key + aesWords 52 8 1 key * 2 ^ 256
/-- The rows of the state rotated: n bytes from place i on. -/
def shiftRows (x : Nat) : (n i : Nat) → Nat
  | 0, _ => 0
  | n + 1, i => byteOf x (i % 4 + 4 * ((i / 4 + i % 4) % 4)) + shiftRows x n (i + 1) * 256
/-- The columns of the state mixed: n bytes from place i on. -/
def mixColumns (x : Nat) : (n i : Nat) → Nat
  | 0, _ => 0
  | n + 1, i =>
    let b := fun k => byteOf x (i / 4 * 4 + (i + k) % 4)
    (((xtime (b 0) ^^^ (xtime (b 1) ^^^ b 1)) ^^^ b 2) ^^^ b 3) + mixColumns x n (i + 1) * 256
/-- The rounds that remain: n with mixed columns, and the last. -/
def aesRounds : (n k x : Nat) → Nat
  | 0, k, x => shiftRows (subBytes 16 x) 16 0 ^^^ k % 2 ^ 128
  | n + 1, k, x =>
    forced (subBytes 16 x) fun a => forced (shiftRows a 16 0) fun b =>
      forced (mixColumns b 16 0 ^^^ k % 2 ^ 128) fun c => aesRounds n (k >>> 128) c
/-- AES-256 of a block under the round keys k. -/
def aesBlock (k x : Nat) : Nat := aesRounds 13 (k >>> 128) (x ^^^ k % 2 ^ 128)

/-! GCM (NIST SP 800-38D). A field element is a number, the first bit of its string highest. -/

/-- z plus the product of v and the n bits of y, the highest first. -/
def gcmMul : (n y v z : Nat) → Nat
  | 0, _, _, z => z
  | n + 1, y, v, z =>
    forced (if y.testBit n then z ^^^ v else z) fun z' =>
      forced (if v % 2 = 1 then v / 2 ^^^ 0xE1 * 2 ^ 120 else v / 2) fun v' => gcmMul n y v' z'
/-- GHASH with key h: y after the n blocks of d. -/
def gcmHash (h : Nat) : (n d y : Nat) → Nat
  | 0, _, y => y
  | n + 1, d, y => forced (gcmMul 128 (y ^^^ revBytes 16 d 0) h 0) fun y' => forced (d >>> 128) fun d' => gcmHash h n d' y'
/-- Blocks of n bytes. -/
def gcmBlocks (n : Nat) : Nat := (n + 15) / 16
/-- The counter block of number i with the 12 bytes of the nonce: a big-endian number. -/
def gcmCounter (nonce i : Nat) : Nat := revBytes 16 (nonce % 2 ^ 96 * 2 ^ 32 + i % 2 ^ 32) 0
/-- The key stream of n blocks from counter i on. -/
def gcmStream (k nonce : Nat) : (n i : Nat) → Nat
  | 0, _ => 0
  | n + 1, i => aesBlock k (gcmCounter nonce i) + gcmStream k nonce n (i + 1) * 2 ^ 128
/-- n bytes decrypted. -/
@[irreducible] def gcmPlain (key nonce d n : Nat) : Nat :=
  (d ^^^ gcmStream (aesKeys (key % 2 ^ 256)) nonce (gcmBlocks n) 2) % 2 ^ (8 * n)
/-- The tag of n bytes of ciphertext d with m bytes of additional data. -/
@[irreducible] def gcmTag (key nonce aad m d n : Nat) : Nat :=
  let k := aesKeys (key % 2 ^ 256)
  let h := revBytes 16 (aesBlock k 0) 0
  let y := gcmHash h (gcmBlocks n) d (gcmHash h (gcmBlocks m) aad 0)
  revBytes 16 (gcmMul 128 (y ^^^ (8 * m * 2 ^ 64 + 8 * n)) h 0) 0 ^^^ aesBlock k (gcmCounter nonce 1)

end Sys2Proof.Machine
end

