-- ==== Sys2Proof/Machine/Factory.lean ====
section
/-! DEFINITION. The image that the part leaves Keleno with in slot 0 of its trim store (07_focus.md R208 to R210). -/
namespace Sys2Proof.Machine

/-- A factory channel record: every trim 0 (log entry 3), TF 60 degC, WHEN 0, FLAGS bit 0 set. -/
def factoryChannel : Nat := 960 * 2 ^ 80 + 2 ^ 160

/-- Header (GEN 1, the first write of slot 0), group records, 512 channel records. -/
def factoryBody (serial : Nat) : Nat :=
  0x7740F0C5 + 2 ^ 32 * 0x100 + 2 ^ 64 + 2 ^ 128 * serial + 2 ^ 192
    + 2 ^ (8 * 2112) * (factoryChannel * ((2 ^ (192 * 512) - 1) / (2 ^ 192 - 1)))

/-- The factory image with its digest. -/
def factoryImage (serial : Nat) : Nat :=
  factoryBody serial + 2 ^ (8 * 16352) * (sha256 (factoryBody serial) 16352 % 2 ^ 256)

end Sys2Proof.Machine
end

