-- ==== Sys2Proof/Machine/Table.lean ====
section
/-! DEFINITION. Sparse tables by number: the one form in which the state holds registers, memory and units
(00_scope.md R5, R14). Keys rise strictly and no entry equals what an unlisted key reads as. -/
namespace Sys2Proof.Machine

/-- A sparse table: pairs of a key and a value. -/
abbrev Tab (α : Type) := List (Nat × α)

/-- The value at key k; an unlisted key reads as d k. -/
def Tab.get {α : Type} (d : Nat → α) : Tab α → Nat → α
  | [], k => d k
  | e :: t, k => if e.1 = k then e.2 else Tab.get d t k

/-- The table without key k. -/
def Tab.del {α : Type} (k : Nat) : Tab α → Tab α
  | [] => []
  | e :: t => if e.1 = k then Tab.del k t else e :: Tab.del k t

/-- The table with key k added in its place. -/
def Tab.ins {α : Type} (k : Nat) (v : α) : Tab α → Tab α
  | [] => [(k, v)]
  | e :: t => if k < e.1 then (k, v) :: e :: t else e :: Tab.ins k v t

/-- The table with v at key k. A value that an unlisted key reads as is not listed. -/
def Tab.set {α : Type} [DecidableEq α] (d : Nat → α) (t : Tab α) (k : Nat) (v : α) : Tab α :=
  if v = d k then Tab.del k t else Tab.ins k v (Tab.del k t)

/-- The canonical form: keys rise strictly, and no entry holds what an unlisted key reads as. -/
def Tab.wf {α : Type} [DecidableEq α] (d : Nat → α) : Tab α → Bool
  | [] => true
  | [e] => decide (e.2 ≠ d e.1)
  | e :: f :: t => decide (e.2 ≠ d e.1) && decide (e.1 < f.1) && Tab.wf d (f :: t)

/-- What an unlisted byte of memory reads as: zero (log entry 2). -/
def byteDefault (_ : Nat) : Byte := 0#8

/-- One byte of memory. -/
def memByte (m : Tab Byte) (a : Nat) : Byte := Tab.get byteDefault m a

/-- n bytes from address a as a little-endian number (R3). -/
def memRead (m : Tab Byte) (a : Nat) : Nat → Nat
  | 0 => 0
  | n + 1 => (memByte m a).toNat + 256 * memRead m (a + 1) n

/-- The n low bytes of v stored from address a on, the lowest first (R3). -/
def memWrite (m : Tab Byte) (a : Nat) : Nat → Nat → Tab Byte
  | 0, _ => m
  | n + 1, v => memWrite (Tab.set byteDefault m a (BitVec.ofNat 8 v)) (a + 1) n (v / 256)

/-- n bytes from address a on made zero. -/
def memClear (m : Tab Byte) (a n : Nat) : Tab Byte := m.filter fun e => Nat.blt e.1 a || Nat.ble (a + n) e.1

/-- The n bytes from address a ORed with the n low bytes of v. -/
def memOr (m : Tab Byte) (a : Nat) (n v : Nat) : Tab Byte := memWrite m a n (memRead m a n ||| v)

end Sys2Proof.Machine
end

