-- ==== Sys2Proof/Machine/State.lean ====
section
/-! DEFINITION. The state of the part as plain data: every dictionary member's value in effect, the memories of the mesh
address space, and what each subsystem holds beside its members; and the state right after reset. -/
namespace Sys2Proof.Machine

/-- Why a command ends without a next state. -/
inductive Fault where
  /-- Raised by a command whose operands name a unit the part does not have (an ill-formed command): safe, the block
  itself would never take such a command. -/
  | noSuchUnit
  deriving DecidableEq, Repr

/-- Commands without a meaning. -/
inductive Refusal where
  /-- Raised by the dispatch alone, for a command whose meaning is not written: safe. -/
  | notModelled (mnemonic : String)
  deriving DecidableEq, Repr

/-- A response frame (02 R39): status, OP and TAG of the request, member, LENGTH and DATA. -/
structure Resp where
  status : Nat := 1
  op : Nat := 0
  tag : Nat := 0
  obj : Nat := 0
  mem : Nat := 0
  len : Nat := 0
  data : Nat := 0
  deriving DecidableEq, Repr

/-- A fetched snapshot (02 R45), or the mark of a fetch that met an error (02 R55). -/
structure Snap where
  key : Nat
  len : Nat
  data : Nat
  good : Bool
  deriving DecidableEq, Repr

/-- A fetch under way (02 R45, R46): its member, whether a READ over the management channel started it (R50) and with which
TAG; for a fetch of mesh data the block, the read requests not yet answered, the bytes read, and whether one met an error;
whether the master has fetched the member again since; its number among the fetches of the master. -/
structure Pend where
  key : Nat
  implicit : Bool
  tag : Nat
  addr : Nat := 0
  len : Nat := 0
  parts : List MeshReq := []
  data : Nat := 0
  bad : Bool := false
  old : Bool := false
  seq : Nat := 0
  deriving DecidableEq, Repr

/-- One master of the dictionary (02 R37, R43, R45, R52; 19 R481, R485), with the fetches it has started, which number them. -/
structure MasterS where
  level : Nat := 1
  pend : List Pend := []
  snaps : List Snap := []
  resp : Resp := {}
  chal : Option Nat := none
  flow : Nat := 0
  chalAt : Nat := 0
  brkLast : Nat := 0xFF
  fetches : Nat := 0
  deriving DecidableEq, Repr

/-- A request of a management slot whose response has not left yet (02 R50), or the number of the fetch that it waits for. -/
structure SlotReq where
  tag : Nat
  key : Nat
  resp : Option Resp
  seq : Nat := 0
  deriving DecidableEq, Repr

/-- A management slot (02 R48 to R50). The lane and source it is bound to are in HDI.SLOT. -/
structure SlotS where
  bound : Bool := false
  last : Nat := 0
  reqs : List SlotReq := []
  deriving DecidableEq, Repr

/-- What the part last answered on the I3C bus (02 R33). -/
inductive BusOut where
  | none | nack | ack | data (len v : Nat)
  deriving DecidableEq, Repr

/-- The bus mode of the I3C target (02 R32, R33). -/
inductive BusMode where
  | sdr | ddr | ignore
  deriving DecidableEq, Repr

/-- The I3C front end (02 R32 to R36, 15 R405). -/
structure I3cS where
  dyn : Option Nat := none
  mwl : Nat := 2056
  mrl : Nat := 2056
  bus : BusMode := .sdr
  rstact : Option Nat := none
  enInt : Bool := true
  out : BusOut := .none
  deriving DecidableEq, Repr

/-- A staged member of the batch (02 R56, R57). -/
structure Staged where
  key : Nat
  len : Nat
  val : Nat
  deriving DecidableEq, Repr

/-- The mirror (02 R56 to R67) beside its members: the batch in ascending member order, the end of the lease, the apply edge
of a batch armed in modes 0 and 2 once it is known, the instant of its arm, and whether SYNCIN has been sampled low since. -/
structure MirrorS where
  batch : List Staged := []
  leaseEnd : Nat := 0
  edge : Option Nat := none
  armedAt : Nat := 0
  syncLow : Bool := false
  deriving DecidableEq, Repr

/-- The host and dictionary interface beside its members (02_control_dictionary.md). -/
structure HdiS where
  i3c : I3cS := {}
  masters : Tab MasterS := []
  slots : Tab SlotS := []
  mirror : MirrorS := {}
  deriving DecidableEq, Repr

/-- A compare an engine has issued and does not know yet (03 R90): time, cycle, failed, masked. -/
structure Cmp where
  ts : Nat
  cyc : Nat
  bad : Bool
  masked : Bool
  deriving DecidableEq, Repr

/-- An iteration of an open match loop (03 R94, R95): first cycle, cycle after its last once its MATCH has decided, and
whether a compare of it is known to have failed. -/
structure Iter where
  first : Nat
  stop : Option Nat
  bad : Bool
  deriving DecidableEq, Repr

/-- An open match loop (03 R94): c0, timeout T, address of the word after MBEG, iterations not known to have failed. -/
structure MLoop where
  c0 : Nat
  t : Nat
  body : Nat
  iters : List Iter
  deriving DecidableEq, Repr

/-- What the decision for the next cycle must resolve (03 R85): the next word, a transfer taken to a target, a JC, or a
MATCH. -/
inductive After where
  | seq | goto (target : Nat) | jc (cond target : Nat) | matchEnd
  deriving DecidableEq, Repr

/-- A line of a vector buffer (04 R120, R121): program line, slot, stamp of the last word decided from it, and whether
its read met an error. -/
structure BufLine where
  line : Nat
  slot : Nat
  used : Nat
  bad : Bool
  deriving DecidableEq, Repr

/-- A word of the APG FIFO with the fabric edge that took it (04 R130, R131). -/
structure ApgWord where
  edge : Nat
  w : Nat
  deriving DecidableEq, Repr

/-- What a vector engine holds beside its members (03_vector_engines.md, 04_vector_data_apg.md). A boundary still to come
is kept as the instant it must not precede. -/
structure VeRun where
  /-- Active timing set (03 R71). -/
  tset : Nat := 0
  /-- Address after the word of the last cycle, and what the next decision resolves (03 R85, R103). -/
  next : Nat := 0
  after : After := .seq
  /-- The word whose cycles go on, and the cycles an RPT has left (03 R85, R103). -/
  word : Nat := 0
  rptLeft : Nat := 0
  /-- Return addresses, oldest first (03 R87). -/
  stack : List Nat := []
  loop : Option MLoop := none
  /-- Compares in cycles before this one no longer set FAIL (03 R92). -/
  clrf : Nat := 0
  /-- State held before an arm or a self-check (03 R72). -/
  prior : Nat := 0
  /-- Arm instant, kind of the arm (0 START, 1 START_AT, 2 apply), start edge S once known (03 R76), and whether it came
  late (03 R80). -/
  armAt : Nat := 0
  armKind : Nat := 0
  start : Option Nat := none
  late : Bool := false
  /-- Boundary of cycle cyc0, and the index of the next cycle (03 R77, R100). -/
  base : Nat := 0
  cyc0 : Nat := 0
  cyc : Nat := 0
  /-- Pending HALT, STOP and RESUME, the changes of each apply still to land with the instant that its boundary must not
  precede (E + 64 ns), and barrier fault (03 R98 to R103). -/
  haltAt : Option Nat := none
  stopAt : Option Nat := none
  resumeAt : Option Nat := none
  lands : List (Nat × List Staged) := []
  barErr : Option Nat := none
  /-- Waiting barrier: mask, and the start of its first cycle (03 R96, R97). -/
  bar : Option (Nat × Nat) := none
  /-- Start of the cycle after the last taken transfer (03 R88). -/
  lastXfer : Option Nat := none
  /-- Compares not yet known (03 R90). -/
  cmps : List Cmp := []
  /-- End of the cycle of a HALT word under way (03 R85). -/
  endAt : Option Nat := none
  /-- Instant at which the pattern timeout runs out, and whether the run has one (03 R106). -/
  ptoEnd : Option Nat := none
  limited : Bool := false
  /-- Instant the boundary of a pattern-timeout fault must not precede, where the timeout ran out before a halt (03 R106). -/
  ptoErr : Option Nat := none
  /-- Ends of the cycles of EVT words, as far as VEN.EVENTS has not yet taken them over (03 R85). -/
  evts : List Nat := []
  /-- Instant at which the engine last left ARMED, RUNNING and HALTED (04 R129). -/
  offAt : Nat := 0
  /-- Instants of the last entry to RUNNING and of the last exit, of the last rise of FAIL and of its last fall, and of the last
  change of the site tag with the tag before it: what the APG port drove at a FAB edge that has passed (04 R129). -/
  runOn : Nat := 0
  runOff : Nat := 0
  failOn : Nat := 0
  failOff : Nat := 0
  siteAt : Nat := 0
  siteOld : Nat := 0
  /-- Edge of the last sample of the APG port (04 R129). -/
  apgAt : Nat := 0
  /-- Lines of the buffer, line reads in flight (line and address read), reads in flight whose data is discarded, end of the
  fill (04 R120 to R126). -/
  lines : List BufLine := []
  inflight : List (Nat × Nat) := []
  stale : List (Nat × Nat) := []
  fillEnd : Nat := 0
  /-- The APG FIFO, oldest first, the word of the last APG cycle, and words consumed by cycles with their decisions
  (04 R129 to R132). -/
  fifo : List ApgWord := []
  lastW : Nat := 0
  consumed : List Nat := []
  deriving DecidableEq, Repr

/-- The user registers of a word cell (05 R141). -/
structure Regs where
  a : W16 := 0#16
  b : W16 := 0#16
  q : W16 := 0#16
  f : Bool := false
  deriving DecidableEq, Repr

/-- A cell of a released facet: its registers, the FAB edge of their last update, what they held before it, and the
same once more, which a boundary port still shows (05 R145, R152). -/
structure CellS where
  cur : Regs
  edge : Nat
  old : Regs
  edge1 : Nat
  old2 : Regs
  deriving DecidableEq, Repr

/-- A facet beside its members (05 R153 to R159, 16 R422): manifest, edges of a pending release and
hold, edge of its release, landing of the last FAB.USER_IN write with the words before it, USER_REQ as last seen, mesh
requests whose responses are discarded, whether it has been released since the last full load,
the payload of its IO frame, and the instants at which its clock gate last closed and opened. -/
structure FacetS where
  man : Manifest := ⟨0, [], 0, 0, false⟩
  relAt : Option Nat := none
  holdAt : Option Nat := none
  since : Nat := 0
  userLand : Nat := 0
  userOld : List Nat := []
  reqLast : Bool := false
  drop : List MeshReq := []
  ever : Bool := false
  io : Nat := 0
  gateOff : Nat := 0
  gateOn : Nat := 0
  deriving DecidableEq, Repr

/-- What a pane drives onto the taps of its port cells (10 R277): RD or head, BUSY or EMPTY, LEVEL, PERR or FULL. -/
structure Taps where
  w0 : Nat := 0
  c0 : Bool := false
  w1 : Nat := 0
  c1 : Bool := false
  deriving DecidableEq, Repr

/-- An access through a port of a pane or of a scratch bank (10 R276, R283 to R288): clock edge, port, write, word or row, what
that held before, and who accesses: 0 the processor, 1 its block mover, 2 the mesh, 3 the mesh for debug. -/
structure PortUse where
  clk : Nat
  port : Nat
  write : Bool
  word : Nat
  old : Nat
  rank : Nat := 0
  deriving DecidableEq, Repr

/-- A pane beside its members (10 R276 to R292): queue words, oldest first, whether its queue has taken a word since the pane
entered QUEUE mode, taps with the FAB edge that set them and what they showed before, edges of a pending detach and
attach, and the FAB edges its ports have for mesh accesses (port 0 reads rows, port 1 writes them). -/
structure PaneS where
  q : List Nat := []
  used : Bool := false
  taps : Taps := {}
  edge : Nat := 0
  old : Taps := {}
  detachAt : Option Nat := none
  attachAt : Option Nat := none
  uses : List PortUse := []
  deriving DecidableEq, Repr

/-- A scratch bank beside its members (10 R288 to R294): the latest accesses of its ports, the port that yielded in the last
collision with its clock, the end of a hand-over, the port that a hand-over under way takes and its owner before, and the
instant at which BUSY of a clear last ended. -/
structure BankS where
  last : List PortUse := []
  yielded : Option (Nat × Nat) := none
  endAt : Nat := 0
  leaving : Option (Nat × Nat) := none
  freeAt : Nat := 0
  deriving DecidableEq, Repr

/-- The input pins, as the outside holds them (06 R191, 05 R160, 22 R527 to R529): GIO levels as a word of 160 bits,
SYNCIN, TRGI levels, the strap codes of PULLSEL (base 4 by bank), the banks whose VIO is below 90 % of nominal, the levels
at the balls of the 256 IN channels as the last cycle of their engine found them (06 R191), with its changes of level by channel,
and the GIO pins that the outside leaves undriven. -/
structure PinsS where
  gio : Nat := 0
  syncin : Bool := false
  trgi : Nat := 0
  pull : Nat := 0
  vioLow : Nat := 0
  ein : Nat := 0
  einChg : List (Nat × Nat) := []
  gioZ : Nat := 0
  deriving DecidableEq, Repr

/-- A change that an edge makes at the pin (06 R172, R173, R179). -/
inductive EdgeOp where
  | level (v : Bool) | toggle | drive (n : Bool)
  deriving DecidableEq, Repr

/-- An OUT channel beside its members (06 R172, R185, R186): L and N, the edges placed and not yet taken over into them, the
last marker placed in its data stream and in its enable stream, and the instants of dropped markers that its count does not
hold yet. -/
structure OutCh where
  l : Bool := false
  n : Bool := false
  edges : List (Nat × EdgeOp) := []
  lastData : Option Nat := none
  lastEn : Option Nat := none
  drops : List Nat := []
  deriving DecidableEq, Repr

/-- An IN channel beside its members (06 R185, R186): the last marker placed in its stream, and the instants of dropped markers
that its count does not hold yet. -/
structure InCh where
  last : Option Nat := none
  drops : List Nat := []
  deriving DecidableEq, Repr

/-- A focus or self-check run (07 R198 to R203): kind (0 none, 1 focus, 2 self-check), its channels not yet finished (OUT
channel c as c, IN channel c as 256 + c) with the instant their measurement or test ends, and whether one failed. -/
structure FocusS where
  kind : Nat := 0
  left : List (Nat × Nat) := []
  failed : Bool := false
  deriving DecidableEq, Repr


/-- The trim store and what the calibration table holds beside EDG.OCAL and EDG.ICAL (07 R193, R207 to R211): images by slot,
linearity by group x 32 + point, focus seconds and passed flag by channel (OUT c as c, IN c as 256 + c), the commit or import in
progress (status, slot, image), and the channels whose tracking target met the clamp at the last sample. -/
structure TrimS where
  slots : Tab Nat := []
  inl : Tab Nat := []
  whens : Tab Nat := []
  passed : Tab Nat := []
  job : Option (Nat × Nat × Nat) := none
  met : List Nat := []
  deriving DecidableEq, Repr
/-- An issued cycle that FCP has not processed (08 R215 to R217): index, instant its vector is complete, fail vector,
failing channels, marks, APG address, word address, timing set, site tag, the FCP settings in effect for it, and whether
it is the last before a boundary at which FCP settings change. -/
structure CycRec where
  cyc : Nat
  vec : Nat
  fv : Nat
  chans : List Nat
  mdrop : Bool
  apg : Bool
  addr : Nat
  pc : Nat
  tset : Nat
  site : Nat
  mode : Nat
  policy : Nat
  stopN : Nat
  bmBase : Nat
  bmCfg : Nat
  amask : Nat
  pmask : Nat
  closeAfter : Bool := false
  deriving DecidableEq, Repr

/-- An open fail record (08 R219), with the FCP.POLICY of its last cycle. -/
structure FailRec where
  cyc : Nat
  fv : Nat
  run : Nat
  addr : Nat
  astep : Nat
  site : Nat
  apg : Bool
  mdrop : Bool
  tset : Nat
  pc : Nat
  policy : Nat
  deriving DecidableEq, Repr

/-- A bitmap operation: DRAM byte address of its word, mask, instant it opened, and FCP.POLICY of its cycle (08 R239,
R240). -/
structure BmOp where
  addr : Nat
  mask : Nat
  opened : Nat
  policy : Nat
  deriving DecidableEq, Repr

/-- What FCP holds for an engine beside its members (08 R215 to R241). -/
structure FcpS where
  cycles : List CycRec := []
  /-- Engine clock edge of the last processed cycle, and cycles processed on it (08 R216). -/
  lastProc : Nat := 0
  onEdge : Nat := 0
  opn : Option FailRec := none
  /-- Capture FIFO: records as four words, oldest first (08 R221, R222), and the engine clock edge of the last move. -/
  cap : List (List Nat) := []
  lastMove : Nat := 0
  bmOpen : Option BmOp := none
  bmFifo : List BmOp := []
  /-- Engine clock edge from which the bitmap FIFO may next issue (08 R241). -/
  bmFrom : Nat := 0
  capped : Bool := false
  dropped : Bool := false
  /-- Edge of the FCP stop that FCP.STOPPED_BY shows (08 R237). -/
  stopEdge : Nat := 0
  deriving DecidableEq, Repr

/-- State of a ring line that is not free (08 R226, R230). -/
inductive LineSt where
  | writing | written | reading | writeFlushed | readFlushed
  deriving DecidableEq, Repr

/-- A spill queue beside its members (08 R224 to R233): tail and head words with their end marks, ring lines that are not
free (index and state) in ring order, next line, lines written since ENABLE, words of the open packet. -/
structure SqS where
  tail : List (Nat × Bool) := []
  head : List (Nat × Bool) := []
  ring : List (Nat × LineSt) := []
  /-- Words of a ring read answered before an older one: they enter the head after it (08 R227). -/
  early : List (Nat × Bool) := []
  wr : Nat := 0
  seq : Nat := 0
  pkt : Nat := 0
  /-- Engine clock edges from which the mover may next write a line and read one (08 R226). -/
  wrFrom : Nat := 0
  rdFrom : Nat := 0
  /-- Engine clock edge at which FCP last raised the queue's event: conditions of one edge raise one (08 R246). -/
  evAt : Option Nat := none
  deriving DecidableEq, Repr

/-- A response under way (11 R302): its request, kind (0 data, 1 acknowledgement, 2 error) and data. -/
structure MeshResp where
  req : MeshReq
  kind : Nat
  data : Nat
  deriving DecidableEq, Repr

/-- A request that waits at the port of its unit (10 R283, R284, 11 R310): what its check code finds, and from when it waits. -/
structure PortReq where
  req : MeshReq
  ecc : List Ecc
  at' : Nat
  deriving DecidableEq, Repr

/-- A request in the tracker of a controller (09 R258, R261 to R265): instant accepted, promoted, its accesses not yet
complete (one for each subchannel it touches, with the instant of its activate once issued), whether it is an OR-write
combined into the access of the request with number lead, and what its complete accesses gave: data read, and an
uncorrectable burst. -/
structure Trk where
  id : Nat
  req : MeshReq
  at' : Nat
  prom : Bool := false
  acts : List (Nat × Option Nat) := []
  lead : Option Nat := none
  data : Nat := 0
  bad : Bool := false
  deriving DecidableEq, Repr

/-- The burst the patrol scrubber reads and rewrites (09 R268): its channel burst, what the check code finds in it, the
instant from which it waits and the instant of its activate. -/
structure Patrol where
  burst : Nat
  ecc : Ecc
  at' : Nat
  act : Option Nat := none
  deriving DecidableEq, Repr

/-- A throttled requester (09 R271): source node, class, end of the throttle, instant of its last accepted request. -/
structure Throttle where
  src : Nat
  cls : Nat
  until' : Nat
  last : Nat
  deriving DecidableEq, Repr

/-- A memory controller beside its members (09_dram.md): the DIMMs of its channel, requests waiting at its port, tracker
in acceptance order, next number, position in the rotation C0, C0, C1, last issue of class C2 or C3, earliest next
activate of each bank, row counters of each bank, last clear of the tables, throttles, last same-bank refresh (bank, its
end), last RFMsb (bank and the instant it is issued), hottest sensor now and at the last training (none until it has been
read since), halved refresh, last automatic retraining, patrol position and the burst under patrol, data rate of the
training, and the rate the DDR PLL last locked at. -/
structure DmcS where
  dimms : List Dimm := []
  ingress : List MeshReq := []
  track : List Trk := []
  nextId : Nat := 0
  rot : Nat := 0
  lastLow : Option Nat := none
  bankFree : List (Nat × Nat) := []
  rows : List (Nat × List (Nat × Nat)) := []
  rowsAt : Nat := 0
  throttles : List Throttle := []
  refreshed : Nat := 0
  refreshEnd : Nat := 0
  rfm : Option (Nat × Nat) := none
  temp : Nat := 0
  trainTemp : Option Nat := none
  hot : Bool := false
  lastAuto : Option Nat := none
  patrol : Nat := 0
  scrub : Option Patrol := none
  rate : Nat := 0
  pllRate : Nat := 0
  deriving DecidableEq, Repr

/-- The router that drains (11 R311): its node, the new RCFG if one is to be loaded, and whether it checks itself. -/
structure Drain where
  node : Nat
  cfg : Option Nat
  check : Bool
  deriving DecidableEq, Repr

/-- The counter of network time (13 R345 to R349) in units of 2^-32 ns. It reads base at the engine clock edge at,
and old at the edges before it; each later edge adds TMU.INCR. step is true when a step landed at that edge. -/
structure ClockS where
  base : Nat := 0
  anchor : Nat := 0
  old : Nat := 0
  step : Bool := false
  deriving DecidableEq, Repr

/-- Who holds an entry of the start schedule (13 R365): engine VEn or DSP engine n, and its time. -/
structure Sched where
  dsp : Bool
  n : Nat
  time : Nat
  deriving DecidableEq, Repr

/-- An exchange the follower has open (13 R357): sequence number, t2, t1 once FOLLOW has come, t3 once DREQ has left. -/
structure Exch where
  seq : Nat
  t2 : Nat
  t1 : Option Nat := none
  t3 : Option Nat := none
  deriving DecidableEq, Repr

/-- A received built-in TIME message that waits for the servo helper (13 R356), with its stamp. -/
structure TimeIn where
  msg : Nat
  stamp : Nat
  deriving DecidableEq, Repr

/-- TMU for a lane (13 R352, R353): transmit timestamps (stamp, MSGID), received host messages with stamps, built-in
messages received, stamp of the last SYNC sent. -/
structure LaneTime where
  txts : List (Nat × Nat) := []
  rx : List (Nat × Nat) := []
  inbox : List TimeIn := []
  syncAt : Nat := 0
  deriving DecidableEq, Repr

/-- A trigger output beside its members (13 R363): next pulse, and the end of a pulse under way. -/
structure TrgS where
  k : Nat := 0
  high : Option Nat := none
  deriving DecidableEq, Repr

/-- A capture input beside its members (13 R364): entries (stamp, falling), the last edge, entries popped. -/
structure CapS where
  q : List (Nat × Bool) := []
  last : Option Nat := none
  popped : Nat := 0
  deriving DecidableEq, Repr

/-- TMU beside its members (13_time_unit.md): consecutive exchanges within the lock limit, servo integral, open exchange,
instant of the last completion and of the role write or loss before it, whether an exchange has completed since the role was written, next sequence number, last exchange started, units
by lane, next occurrence of each aperture, triggers, capture inputs. -/
structure TmuS where
  lock : Nat := 0
  integ : Int := 0
  xch : Option Exch := none
  lastAt : Nat := 0
  done : Bool := false
  seq : Nat := 0
  startAt : Nat := 0
  lanes : Tab LaneTime := []
  ap : Tab Nat := []
  trg : Tab TrgS := []
  cap : Tab CapS := []
  deriving DecidableEq, Repr

/-- A move of a DSP engine (14 R381): channel, inbound or outbound, address register, its element, bytes, gate passed,
last poll with one in flight, bytes issued, requests not answered with their byte offset, bytes answered, what the check code
finds in the scratch words an outbound move reads (10 R286), and whether its port was lost (10 R290). -/
structure Mv where
  k : Nat
  out : Bool
  areg : Nat
  elem : Nat
  len : Nat
  open' : Bool := false
  polling : Bool := false
  polled : Option Nat := none
  issued : Nat := 0
  wait : List (MeshReq × Nat) := []
  done : Nat := 0
  ecc : List Ecc := []
  lost : Bool := false
  deriving DecidableEq, Repr

/-- What a DSP engine holds beside its members (14_dsp.md): vector registers (4v + l), accumulators (4a + l), A, O, C
registers, next instruction, BSH, repeat (issues left), pending moves, error of a move, uncorrectable word of a move, instant of
the first of these, addresses of gate reads under way whose move is gone, instant the last move ended, instants
at which vector registers and accumulators are ready, next issue, watchdog end, start of the run in the clock count, state
before an arm, arm instant and kind, start edge, requested halt and stop. -/
structure DspRun where
  v : Tab Nat := []
  acc : Tab Nat := []
  a : Tab Nat := []
  o : Tab Nat := []
  c : Tab Nat := []
  pc : Nat := 0
  bsh : Nat := 0
  rpt : Option Nat := none
  moves : List Mv := []
  moveBad : Bool := false
  moveUe : Bool := false
  errAt : Nat := 0
  stale : List Nat := []
  freeAt : Nat := 0
  vReady : Tab Nat := []
  aReady : Tab Nat := []
  due : Nat := 0
  wdEnd : Option Nat := none
  runFrom : Nat := 0
  prior : Nat := 0
  armAt : Nat := 0
  timed : Bool := false
  start : Option Nat := none
  halt : Option Nat := none
  stop : Option Nat := none
  deriving DecidableEq, Repr

/-- A message on a lane (12 R329, R330): channel (0 MESH, 1 MGMT, 2 TIME, 3 STREAM), bytes, SRCID, MSGID, data, and the
instant its START block crossed the ball. -/
structure LaneMsg where
  chan : Nat
  len : Nat
  src : Nat
  id : Nat
  data : Nat
  stamp : Nat
  deriving DecidableEq, Repr

/-- The message a lane receives: CRC given, bytes received (12 R330). -/
structure OpenMsg where
  msg : LaneMsg
  crc : Nat
  got : Nat
  deriving DecidableEq, Repr

/-- A message that waits to be sent (12 R332): a built-in TIME message by type, a host TIME message, a MGMT response, or a
MESH response. A FOLLOW takes the stamp of its SYNC as it is sent (13 R357). -/
inductive TxMsg where
  | time (type seq t : Nat)
  | host (data : Nat)
  | mgmt (src len data : Nat)
  | mesh (len data : Nat)
  deriving DecidableEq, Repr

/-- A Llynkar block as it is sent (12 R326): a control or a data block, with its payload. -/
structure LineBlock where
  ctl : Bool
  data : Nat
  deriving DecidableEq, Repr

/-- What a lane's line coder keeps (12 R321, R322, R328): the last symbol sent, the bits of the unfinished codeword, the first
bit of an unfinished pair. -/
structure LineS where
  p : Nat := 0
  part : List Bool := []
  half : List Bool := []
  deriving DecidableEq, Repr

/-- The PRBS checker of a lane (12 R340): last bits received, newest first, in sync, bits that matched in a row, last 128
comparisons, newest first, a mismatch since it came into sync. -/
structure PrbsS where
  hist : List Bool := []
  sync : Bool := false
  run : Nat := 0
  recent : List Bool := []
  missed : Bool := false
  deriving DecidableEq, Repr

/-- A lane beside its members (12_lanes.md): the last 64 headers of LOCKED, newest first; valid headers in a row in HUNT;
the link is up; open message; received messages by arrival; FREED counts; credit received; blocks sent since lock; queued
messages by class; a CREDIT or LINK block is owed; mesh requests in flight and those discarded at a loss of lock; the
stream message being written (bytes, writes not answered, an error met) and whether lock was lost since it was taken; PRBS
checker; instants of the last CREDIT and LINK blocks; blocks of the last sending and the line coder before them; instant of
the last START or RETRAIN; symbol received last; STREAM messages among those LNK.RX_DISCARD counts; blocks received of the
codeword under way, and symbols corrected in it. -/
structure LaneS where
  heads : List Bool := []
  good : Nat := 0
  up : Bool := false
  opn : Option OpenMsg := none
  buf : List LaneMsg := []
  freed : List Nat := [0, 0, 0, 0]
  credit : List Nat := [0, 0, 0, 0]
  sent : List Nat := [0, 0, 0, 0]
  txTime : List TxMsg := []
  txMgmt : List TxMsg := []
  txMesh : List TxMsg := []
  oweCredit : Bool := false
  oweLink : Bool := false
  inMesh : List MeshReq := []
  drop : List MeshReq := []
  writing : Option (Nat × Nat × Bool) := none
  parts : List MeshReq := []
  prbs : PrbsS := {}
  creditAt : Nat := 0
  linkAt : Nat := 0
  out : List LineBlock := []
  line : LineS := {}
  began : Nat := 0
  rxP : Nat := 0
  relost : Bool := false
  gone : Nat := 0
  codeBlk : Nat := 0
  codeFix : Nat := 0
  deriving DecidableEq, Repr

/-- The cold domain, clocks, gates, power and resets beside the members (15_clocks_reset.md): grade, instant the last part
reset began and ended, its causes while it lasts, whether nRESET holds it and the part waits to cool, instant REFIN
rose, acknowledgements of gate changes under way with the gates that accept no new access, instants of domains turning
off and waking, the CLKOUT switch with its new value, what CLKOUT carries (sixteen times its source's kHz, DIV, its first rising
edge) and the instant it stops, the other PLLs that switch their rate (DMCn's as n, quad k's as 4 + k) with t0 of the switch, the
end of a frequency measurement; core rails below their brown-out level while a POR or BROWNOUT lasts; by closed gate unit, members
as they were when its gate closed; the readings of the 32 edge groups' sensors. -/
structure CrhS where
  grade : Nat := 0
  rstFrom : Nat := 0
  rstAt : Nat := 0
  inReset : Bool := false
  pinLow : Bool := false
  hot : Bool := false
  refinAt : Nat := 0
  gateAt : List (Nat × Nat) := []
  forced : List Nat := []
  offAt : List (Nat × Nat) := []
  wakeAt : List (Nat × Nat) := []
  switch : Option (Nat × Nat) := none
  out : Option (Nat × Nat × Nat) := none
  outEnd : Option Nat := none
  plls : List (Nat × Nat) := []
  fmEnd : Nat := 0
  low : Nat := 0
  shut : List (Nat × Tab Nat) := []
  groupT : Tab Nat := []
  deriving DecidableEq, Repr

/-- A frame of the configuration (16 R422): facet, type, index. -/
structure FrameId where
  f : Nat
  type : Nat
  index : Nat
  deriving DecidableEq, Repr

/-- What a header that has passed its checks says (16 R418, R426). -/
structure Header where
  oxf5 : Bool
  keysrc : Nat
  relcmd : Nat
  iv : Nat
  region : Nat
  bodyLen : Nat
  chunks : Nat
  design : Nat
  digest : Nat
  raw : Nat
  deriving DecidableEq, Repr

/-- A frame of the loupe's reference (17 R446): which it is, its offset in the stream, first byte and end in the stream of what a
reload of it reads (every chunk that holds a byte of it), and the CRC-32 of its payload. -/
structure FrameRef where
  id : FrameId
  off : Nat
  lo : Nat
  hi : Nat
  crc : Nat
  deriving DecidableEq, Repr

/-- The running load (16 R419 to R440): full, source (0 flash, 1 host, 2 mesh through the Facet Loading Port), the flash,
first address, length of an FLP stream; automatic with its attempt; bytes received, those kept with the stream position of
the first; header; next chunk; checked body bytes not yet used, their number and body offset; frames written, with what the loupe
records of each; OXF-5 frames as decoded with their length; the read of the
Facet Loading Port under way; instants of the header and of the start or the last data. -/
structure LoadS where
  full : Bool
  src : Nat
  flash : Flash
  addr : Nat
  len : Nat := 0
  auto : Bool := false
  second : Bool := false
  got : Nat := 0
  base : Nat := 0
  buf : Nat := 0
  hdr : Option Header := none
  chunk : Nat := 0
  body : Nat := 0
  bodyLen : Nat := 0
  bodyAt : Nat := 0
  seen : List FrameRef := []
  decoded : Nat := 0
  decodedLen : Nat := 0
  wait : Option MeshReq := none
  headAt : Nat := 0
  dataAt : Nat := 0
  deriving DecidableEq, Repr

/-- A loupe reload under way (17 R450): frame, source type, next mesh read, end of the chunks, the read in flight, whether one
failed; the source's address, the stream position of the first byte read, the bytes read so far. -/
structure Reload where
  frame : FrameId
  src : Nat
  next : Nat
  stop : Nat
  wait : Option MeshReq
  bad : Bool
  addr : Nat
  base : Nat
  buf : Nat
  deriving DecidableEq, Repr

/-- CFG and the loupe beside their members (16_configuration.md, 17_scrubbing.md): running load, the flash device as a load last found it, whether the last was
from the host, staged key bytes, the two keys, the running key command with its staged value, zeroisations whose EV036 waits for
SUP_READY, an automatic load that is due and the instant of SUP_READY, the instant to which FRST_N is low, the mode in which the
flash is read (0 none, 1 1-1-1, 2 1-4-4, 3 4-4-4, 4 8D-8D-8D), reads whose responses are discarded; reference of each loaded frame,
header of the stream each facet was loaded from, scan position, end of the last frame scanned, start of the pass, waiting frames,
running reload, heartbeat at the last sample of SUP and its instant, and the frames whose reload failed. -/
structure CfgS where
  load : Option LoadS := none
  flash : Flash := ⟨false, false, false, false, false, false, 0, []⟩
  lastHost : Bool := false
  stage : Nat := 0
  bbKey : Nat := 0
  fuseKey : Nat := 0
  job : Option (Nat × Nat) := none
  zeroised : Nat := 0
  autoDue : Bool := false
  autoAt : Nat := 0
  frstLow : Nat := 0
  flashMode : Nat := 0
  drop : List MeshReq := []
  refs : List FrameRef := []
  heads : List (Nat × Header) := []
  scan : Nat := 0
  scanAt : Nat := 0
  passAt : Nat := 0
  waiting : List FrameId := []
  reload : Option Reload := none
  beatLast : Nat := 0
  beatAt : Nat := 0
  damaged : List FrameId := []
  deriving DecidableEq, Repr

/-- A record of the event log (18 R468): STAMP in units of 2^-32 ns, event, TIME_VALID. -/
structure LogRec where
  stamp : Nat
  ev : Nat
  valid : Bool
  deriving DecidableEq, Repr

/-- A crypto job for the host (18 R460): the HMAC key (none for SHA-256), address, bytes, bytes read and their values, the read
under way, a read met an error. -/
structure CJob where
  key : Option Nat
  addr : Nat
  len : Nat
  got : Nat := 0
  buf : Nat := 0
  wait : Option MeshReq := none
  bad : Bool := false
  deriving DecidableEq, Repr

/-- SUP beside its members (18_supervisor_events.md): event log and IBI queue, oldest first; HMAC key; crypto job; expiry of
the host watchdog, and what was left of it when Molxo was held; supervisor watchdog: instant and count of its last start,
whether it has warned, and the count at which it is frozen; pulses due on fabric event lines (line, FAB edge); the SUPCLK edge
at which EV048 was last raised (05 R163); the instant of the last pass over the ledgers (20 R507). -/
structure SupS where
  log : List LogRec := []
  ibi : List Nat := []
  key : Option Nat := none
  job : Option CJob := none
  drop : List MeshReq := []
  hostEnd : Option Nat := none
  hostLeft : Option Nat := none
  wd : Option (Nat × Nat) := none
  wdFull : Nat := 0
  warned : Bool := false
  frozen : Option Nat := none
  due : List (Nat × Nat) := []
  userReqAt : Option Nat := none
  ledgerAt : Nat := 0
  deriving DecidableEq, Repr

/-- A break unit beside its members (19 R485, R488): allocated, matches since arming, and whether its LINK unit has fired since. -/
structure BrkS where
  on : Bool := false
  count : Nat := 0
  linked : Bool := false
  deriving DecidableEq, Repr

/-- A debug target beside its members (19 R475, R490, R498): held by debug, a debug halt pending, cycles or instructions
left of a STEP, words written to DTX and not read, and to DRX. -/
structure TgtS where
  held : Bool := false
  pend : Bool := false
  left : Option Nat := none
  dtxFull : Bool := false
  drxFull : Bool := false
  dtx : Nat := 0
  drx : Nat := 0
  dtxReads : Nat := 0
  drxWrites : Nat := 0
  deriving DecidableEq, Repr

/-- Cells of the boundary register (19 R477), by group of balls: levels and output enables of GIO and TRGO, levels of SYNCIN,
TRGI, EI, REFIN, LREF, CLKOUT and nALERT, level and output enable of EO; the cells of the other signal balls (host, straps, flash,
lanes, DDR) in one word, whose layout is the model's. -/
structure Boundary where
  gio : Nat := 0
  gioEn : Nat := 0
  syncin : Bool := false
  trgi : Nat := 0
  trgo : Nat := 0
  trgoEn : Nat := 0
  eo : Nat := 0
  eoEn : Nat := 0
  ei : Nat := 0
  refin : Bool := false
  lref : Nat := 0
  clkout : Bool := false
  nalert : Bool := false
  rest : Nat := 0
  deriving DecidableEq, Repr

/-- DBG beside its members (19 R476 to R484): instruction of the TAP (IDCODE after Test-Logic-Reset), boundary register as it
sampled the pins, its update stage, which PRELOAD fills and the pins follow in a test, what Capture-DR loaded for the last scan,
customer keys, staged key, the fuse command in progress with its staged value, end of the second after a failure, master of the
vendor session, a test-group instruction to be flagged at the end of the reset. -/
structure DbgS where
  insn : Nat := 2
  bound : Boundary := {}
  upd : Boundary := {}
  dr : Nat := 0
  key2 : Nat := 0
  key3 : Nat := 0
  stage : Nat := 0
  lockUntil : Nat := 0
  vendor : Option Nat := none
  test : Bool := false
  deriving DecidableEq, Repr

/-- The state of the part. -/
structure State where
  /-- Ticks since power-on (00 R17). -/
  now : Nat := 0
  /-- Dictionary members by key, where they differ from their default (00 R5). -/
  reg : Tab Nat := []
  /-- Bytes of the 48-bit mesh address space (00 R14). -/
  mem : List Host.Cell := []
  /-- Events raised and not yet registered by the event matrix, with the instants of their flag edges (18 R465, R467). -/
  evq : List (Nat × Nat) := []
  /-- Counter the free values are drawn with (log entry 9): the model's own field. -/
  freeCtr : Nat := 0
  /-- Commands waiting, first in first out: the model's own field. -/
  pending : List Instr := []
  hdi : HdiS := {}
  clk : ClockS := {}
  sched : List Sched := []
  ve : Tab VeRun := []
  outCh : Tab OutCh := []
  inCh : Tab InCh := []
  fcp : Tab FcpS := []
  sq : Tab SqS := []
  brk : Tab BrkS := []
  tgt : Tab TgtS := []
  groupAt : List (Nat × Nat) := []
  dsp : Tab DspRun := []
  focus : FocusS := {}
  trim : TrimS := {}
  /-- Mesh requests and responses under way (11 R300, R302). -/
  reqs : List MeshReq := []
  resps : List MeshResp := []
  /-- Requests held in the ingress buffer of a port whose unit's gate or power domain is opening (11 R310, 15 R401). -/
  held : List PortReq := []
  /-- Accepted requests to panes that wait for a port their fabric uses, in acceptance order (10 R283, R284). -/
  steal : List PortReq := []
  /-- Labels of the requests of the part's own blocks that are under way: what TAG holds of each (11 R302). -/
  labels : List (MeshReq × Nat) := []
  /-- Router drain, trace buffer of 32-byte records, oldest first (11 R311, R314). -/
  drain : Option Drain := none
  trace : List Nat := []
  dmc : Tab DmcS := []
  /-- Training is to start in every controller in RESET (09 R251). -/
  autoTrain : Bool := false
  crh : CrhS := {}
  cfg : CfgS := {}
  /-- Bits of W1C members set in the latest SUPCLK cycle that set any, with that cycle (05 R161, 08 R245, 09 R275): a clearing
  in the same cycle leaves them. -/
  fresh : List (Nat × Nat × Nat) := []
  /-- Bits cleared in the latest SUPCLK cycle that cleared any, as that cycle, member and mask: a setting in the same cycle finds
  them set and raises nothing (11 R316, R317). -/
  cleared : List (Nat × Nat × Nat) := []
  sup : SupS := {}
  dbg : DbgS := {}
  tmu : TmuS := {}
  lanes : Tab LaneS := []
  /-- Word cells by row x 256 + column: registers of cells that have left the values of reset, configuration, selects of
  cell inputs (cell x 8 + input) and of tracks; bits that upsets have flipped (05 R141 to R151). -/
  cells : Tab (Option CellS) := []
  cellCfg : Tab CellCfg := []
  sels : Tab Nat := []
  tracks : Tab Nat := []
  upsets : List Upset := []
  facets : Tab FacetS := []
  /-- Pulses on fabric event lines: line and FAB edge (18 R471). -/
  fev : List (Nat × Nat) := []
  panes : Tab PaneS := []
  banks : Tab BankS := []
  pins : PinsS := {}
  deriving DecidableEq, Repr

/-- The part right after power-on reset (15 R405): RESET_CAUSE holds the POR bit alone, every other member its default, no
memory byte listed, no command waiting; the trim store holds the factory image (07 R210). -/
def State.reset : State := { reg := [(CRH.RESET_CAUSE, 1)], trim := { slots := [(0, factoryImage 0)] } }

end Sys2Proof.Machine
end

