-- ==== Sys2Proof/Machine/Ops.lean ====
section
/-! DEFINITION. The named operations on the state: members, units, time, events, and the one operation through which
every dictionary access ends (02_control_dictionary.md R37 to R52, 00_scope.md R8 to R13). -/
namespace Sys2Proof.Machine

/-- A number with bit n set where the test holds, for n below k. -/
def bitSet (k : Nat) (f : Nat → Bool) : Nat := (List.range k).foldl (fun d n => if f n then d + 2 ^ n else d) 0
/-- One or zero. -/
def flagBit (b : Bool) : Nat := if b then 1 else 0

/-- The outcome of a command. -/
abbrev Out := Host.Outcome State Fault Refusal

namespace State

/-- The value of a member in effect. -/
def rd (s : State) (k : Nat) : Nat := Tab.get Dict.dflt s.reg k

/-- The state with value v in member k. -/
def wr (s : State) (k v : Nat) : State := { s with reg := Tab.set Dict.dflt s.reg k v }

/-- The counter member k, w bits wide, risen by d; it saturates (00 R536). -/
def addTo (s : State) (w k d : Nat) : State := s.wr k (min (s.rd k + d) (2 ^ w - 1))

/-- The counter member k risen by one. -/
def bump (s : State) (w k : Nat) : State := s.addTo w k 1

/-- Is bit b of member k set? -/
def bit (s : State) (k b : Nat) : Bool := (s.rd k).testBit b

/-- Event e raised with its flag edge at instant t; the event matrix registers it later. Before MPLL lock no event is
registered (18 R465, R467). -/
def raiseAt (s : State) (t e : Nat) : State := if s.bit HDI.STATUS 1 then { s with evq := s.evq ++ [(t, e)] } else s

/-- Event e raised now. -/
def raise (s : State) (e : Nat) : State := s.raiseAt s.now e

/-- Bit b of member k made v. -/
def setBit (s : State) (k b : Nat) (v : Bool) : State :=
  if v then s.wr k (s.rd k ||| 2 ^ b) else if s.bit k b then s.wr k (s.rd k - 2 ^ b) else s

/-- The SUPCLK cycle of instant t, by the edge that ends it. -/
def supCycle (t : Nat) : Nat := (t + 32767) / 32768

/-- Bit b of the W1C member k noted as set in this SUPCLK cycle. -/
def note (s : State) (k b : Nat) : State :=
  { s with fresh := (s.fresh.filter fun x => Nat.beq x.1 (supCycle s.now)) ++ [(supCycle s.now, k, b)] }

/-- Has bit b of the W1C member k been cleared in this SUPCLK cycle? A setting then leaves it set throughout (11 R316, R317). -/
def clearedNow (s : State) (k b : Nat) : Bool :=
  s.cleared.any fun x => Nat.beq x.1 (supCycle s.now) && Nat.beq x.2.1 k && x.2.2.testBit b
/-- Flag b of the W1C member k set; its event is raised when it goes from 0 to 1. -/
def flag (s : State) (k b e : Nat) : State :=
  let t := s.note k b
  if s.bit k b then t else if s.clearedNow k b then t.setBit k b true else (t.setBit k b true).raise e

/-- Bits of the W1C member k that were set in this SUPCLK cycle, of those of v: a clearing leaves them (05 R161, 08 R245, 09
R275, 10 R297, 11 R316; log entry 46). -/
def freshBits (s : State) (k v : Nat) : Nat :=
  (List.range 64).foldl (fun d b =>
    if v.testBit b && s.fresh.any (fun x => Nat.beq x.1 (supCycle s.now) && Nat.beq x.2.1 k && Nat.beq x.2.2 b) then d + 2 ^ b else d) 0

/-- The bits v of the W1C member k cleared, but for those set in this SUPCLK cycle. -/
def clearBits (s : State) (k v : Nat) : State :=
  let c := s.rd k &&& v
  { s.wr k (s.rd k - c + s.freshBits k c) with
    cleared := (s.cleared.filter fun x => Nat.beq x.1 (supCycle s.now)) ++ [(supCycle s.now, k, c - s.freshBits k c)] }

/-- Time advanced to instant t, if that lies ahead. -/
def upto (s : State) (t : Nat) : State := { s with now := max s.now t }

/-- The next free value (log entry 9), and the state that has drawn it. -/
def freeVal (s : State) : Nat := Config.free s.freeCtr
/-- The counter of the free values advanced. -/
def drawn (s : State) : State := { s with freeCtr := s.freeCtr + 1 }

/-- What VEn holds beside its members. -/
def veOf (s : State) (n : Nat) : VeRun := Tab.get (fun _ => {}) s.ve n
/-- VEn changed. -/
def modVe (s : State) (n : Nat) (f : VeRun → VeRun) : State := { s with ve := Tab.set (fun _ => {}) s.ve n (f (s.veOf n)) }
/-- Channel EOc beside its members. -/
def outOf (s : State) (c : Nat) : OutCh := Tab.get (fun _ => {}) s.outCh c
/-- Channel EOc changed. -/
def modOut (s : State) (c : Nat) (f : OutCh → OutCh) : State := { s with outCh := Tab.set (fun _ => {}) s.outCh c (f (s.outOf c)) }
/-- Channel EIc beside its members. -/
def inOf (s : State) (c : Nat) : InCh := Tab.get (fun _ => {}) s.inCh c
/-- Channel EIc changed. -/
def modIn (s : State) (c : Nat) (f : InCh → InCh) : State := { s with inCh := Tab.set (fun _ => {}) s.inCh c (f (s.inOf c)) }
/-- FCP of VEn beside its members. -/
def fcpOf (s : State) (n : Nat) : FcpS := Tab.get (fun _ => {}) s.fcp n
/-- FCP of VEn changed. -/
def modFcp (s : State) (n : Nat) (f : FcpS → FcpS) : State := { s with fcp := Tab.set (fun _ => {}) s.fcp n (f (s.fcpOf n)) }
/-- SQq beside its members. -/
def sqOf (s : State) (q : Nat) : SqS := Tab.get (fun _ => {}) s.sq q
/-- SQq changed. -/
def modSq (s : State) (q : Nat) (f : SqS → SqS) : State := { s with sq := Tab.set (fun _ => {}) s.sq q (f (s.sqOf q)) }
/-- Break unit u beside its members. -/
def brkOf (s : State) (u : Nat) : BrkS := Tab.get (fun _ => {}) s.brk u
/-- Break unit u changed. -/
def modBrk (s : State) (u : Nat) (f : BrkS → BrkS) : State := { s with brk := Tab.set (fun _ => {}) s.brk u (f (s.brkOf u)) }
/-- Debug target t beside its members. -/
def tgtOf (s : State) (t : Nat) : TgtS := Tab.get (fun _ => {}) s.tgt t
/-- Debug target t changed. -/
def modTgt (s : State) (t : Nat) (f : TgtS → TgtS) : State := { s with tgt := Tab.set (fun _ => {}) s.tgt t (f (s.tgtOf t)) }
/-- What DSP engine n holds beside its members. -/
def dspOf (s : State) (n : Nat) : DspRun := Tab.get (fun _ => {}) s.dsp n
/-- DSP engine n changed. -/
def modDsp (s : State) (n : Nat) (f : DspRun → DspRun) : State := { s with dsp := Tab.set (fun _ => {}) s.dsp n (f (s.dspOf n)) }
/-- Facet f beside its members. -/
def facetOf (s : State) (f : Nat) : FacetS := Tab.get (fun _ => {}) s.facets f
/-- Facet f changed. -/
def modFacet (s : State) (f : Nat) (g : FacetS → FacetS) : State := { s with facets := Tab.set (fun _ => {}) s.facets f (g (s.facetOf f)) }
/-- Pane p beside its members. -/
def paneOf (s : State) (p : Nat) : PaneS := Tab.get (fun _ => {}) s.panes p
/-- Pane p changed. -/
def modPane (s : State) (p : Nat) (g : PaneS → PaneS) : State := { s with panes := Tab.set (fun _ => {}) s.panes p (g (s.paneOf p)) }
/-- Scratch bank b beside its members. -/
def bankOf (s : State) (b : Nat) : BankS := Tab.get (fun _ => {}) s.banks b
/-- Scratch bank b changed. -/
def modBank (s : State) (b : Nat) (g : BankS → BankS) : State := { s with banks := Tab.set (fun _ => {}) s.banks b (g (s.bankOf b)) }
/-- DMCn beside its members. -/
def dmcOf (s : State) (n : Nat) : DmcS := Tab.get (fun _ => {}) s.dmc n
/-- DMCn changed. -/
def modDmc (s : State) (n : Nat) (g : DmcS → DmcS) : State := { s with dmc := Tab.set (fun _ => {}) s.dmc n (g (s.dmcOf n)) }
/-- Lane n beside its members. -/
def laneOf (s : State) (n : Nat) : LaneS := Tab.get (fun _ => {}) s.lanes n
/-- Lane n changed. -/
def modLane (s : State) (n : Nat) (g : LaneS → LaneS) : State := { s with lanes := Tab.set (fun _ => {}) s.lanes n (g (s.laneOf n)) }
/-- TMU changed. -/
def modTmu (s : State) (g : TmuS → TmuS) : State := { s with tmu := g s.tmu }
/-- TMU for lane n. -/
def laneTimeOf (s : State) (n : Nat) : LaneTime := Tab.get (fun _ => {}) s.tmu.lanes n
/-- TMU for lane n changed. -/
def modLaneTime (s : State) (n : Nat) (g : LaneTime → LaneTime) : State :=
  s.modTmu fun t => { t with lanes := Tab.set (fun _ => {}) t.lanes n (g (Tab.get (fun _ => {}) t.lanes n)) }
/-- Trigger output t beside its members. -/
def trgOf (s : State) (t : Nat) : TrgS := Tab.get (fun _ => {}) s.tmu.trg t
/-- Trigger output t changed. -/
def modTrg (s : State) (t : Nat) (g : TrgS → TrgS) : State :=
  s.modTmu fun x => { x with trg := Tab.set (fun _ => {}) x.trg t (g (Tab.get (fun _ => {}) x.trg t)) }
/-- Capture input t beside its members. -/
def capOf (s : State) (t : Nat) : CapS := Tab.get (fun _ => {}) s.tmu.cap t
/-- Capture input t changed. -/
def modCap (s : State) (t : Nat) (g : CapS → CapS) : State :=
  s.modTmu fun x => { x with cap := Tab.set (fun _ => {}) x.cap t (g (Tab.get (fun _ => {}) x.cap t)) }
/-- Bytes written to memory. -/
def store (s : State) (a n v : Nat) : State := { s with mem := memWrite s.mem a n v }
/-- Master m of the dictionary. -/
def masterOf (s : State) (m : Nat) : MasterS := Tab.get (fun _ => {}) s.hdi.masters m
/-- Master m changed. -/
def modMaster (s : State) (m : Nat) (f : MasterS → MasterS) : State :=
  { s with hdi := { s.hdi with masters := Tab.set (fun _ => {}) s.hdi.masters m (f (s.masterOf m)) } }
/-- Management slot k. -/
def slotOf (s : State) (k : Nat) : SlotS := Tab.get (fun _ => {}) s.hdi.slots k
/-- Management slot k changed. -/
def modSlot (s : State) (k : Nat) (f : SlotS → SlotS) : State :=
  { s with hdi := { s.hdi with slots := Tab.set (fun _ => {}) s.hdi.slots k (f (s.slotOf k)) } }
/-- The I3C front end changed. -/
def modI3c (s : State) (f : I3cS → I3cS) : State := { s with hdi := { s.hdi with i3c := f s.hdi.i3c } }
/-- The mirror changed. -/
def modMirror (s : State) (f : MirrorS → MirrorS) : State := { s with hdi := { s.hdi with mirror := f s.hdi.mirror } }

end State

/-! Clocks. Every derived clock starts on one alignment edge at a multiple of 163,840 ticks, so its edges are the
multiples of its period (01 R24, 15 R394; log entry 4). -/

/-- The first clock edge of period p at or after instant t. -/
def edgeAt (p t : Nat) : Nat := (t + p - 1) / p * p
/-- The first engine clock edge at or after t. -/
def engEdge (t : Nat) : Nat := edgeAt 8192 t
/-- The first engine clock edge after t. -/
def engAfter (t : Nat) : Nat := (t / 8192 + 1) * 8192
/-- The first FAB edge at or after t. -/
def fabEdge (t : Nat) : Nat := edgeAt 16384 t

/-- Instants of two latched stops or halts: the earlier stands. -/
def earlier (a : Option Nat) (t : Nat) : Option Nat :=
  match a with
  | some x => some (min x t)
  | none => some t

/-! Part status (02 R54). -/

/-- REFIN_OK. -/
def refinOk (s : State) : Bool := s.bit HDI.STATUS 0
/-- MPLL_LOCK. -/
def mpllLocked (s : State) : Bool := s.bit HDI.STATUS 1
/-- SUP_READY: SUP has opened the dictionary. -/
def supOpen (s : State) : Bool := s.bit HDI.STATUS 2
/-- CONFIG_DONE. -/
def configDone (s : State) : Bool := s.bit HDI.STATUS 3
/-- TIME_VALID. -/
def timeValid (s : State) : Bool := s.bit HDI.STATUS 4
/-- Is the whole dictionary open (01 R20)? -/
def dictOpen (s : State) : Bool := refinOk s && mpllLocked s && supOpen s

/-! Network time (13 R345), in units of 2^-32 ns. -/

/-- Units of one second. -/
abbrev unitsPerSec : Nat := 1000000000 * 2 ^ 32
/-- A TIME128 value in units (00 R7). -/
def ofTime128 (v : Nat) : Nat := v / 2 ^ 64 * unitsPerSec + v % 2 ^ 64
/-- A number of units as TIME128. -/
def toTime128 (u : Nat) : Nat := u / unitsPerSec % 2 ^ 64 * 2 ^ 64 + u % unitsPerSec

/-- Network time of the engine clock edge at or before instant t. -/
def netAt (s : State) (t : Nat) : Nat :=
  if mpllLocked s then
    if t < s.clk.anchor then s.clk.old else s.clk.base + s.rd TMU.INCR * ((t - s.clk.anchor) / 8192)
  else 0
/-- Network time now. -/
def netNow (s : State) : Nat := netAt s s.now

/-- The first engine clock edge at or after instant t whose network time is at or after target (13 R345). -/
def edgeOfTime (s : State) (t target : Nat) : Nat :=
  let e := max (engEdge t) s.clk.anchor
  let v := netAt s e
  if netAt s (engEdge t) ≥ target then engEdge t
  else if v ≥ target then e else e + (target - v + s.rd TMU.INCR - 1) / s.rd TMU.INCR * 8192

/-- Did a step carry the network time past target at edge e, no edge lying between the two (02 R67, 03 R80)? -/
def steppedOver (s : State) (e target : Nat) : Bool :=
  s.clk.step && decide (e = s.clk.anchor) && decide (s.clk.old + s.rd TMU.INCR < target) && decide (target < s.clk.base)

/-- OPEN of the occurrence that aperture a waits for or is in, in units (13 R362). -/
def apBegins (a : Nat) (s : State) : Nat :=
  ofTime128 (s.rd (TMU.AP_OPEN a)) + Tab.get (fun _ => 0) s.tmu.ap a * s.rd (TMU.AP_PERIOD a) * 2 ^ 19
/-- TMU.AP_STATE as it reads: an open aperture that a backward step carries before its opening is armed and not open (13 R350, R362). -/
def apState (a : Nat) (s : State) : Nat :=
  if s.rd (TMU.AP_STATE a) = 2 ∧ netNow s < apBegins a s then 1 else s.rd (TMU.AP_STATE a)

/-! The mesh (00 R14, 01 R25, 11 R300). -/

/-- The region of a mesh address: 0 DRAM below the installed capacity, 1 scratch, 2 panes, 3 vector buffers, 4 DSP
instruction memories, 5 dictionary window, 6 none (R300). -/
def regionOf (a : Nat) (s : State) : Nat :=
  if a < 0x10000000000 then (if s.rd DMC.MAP_STATE = 1 ∧ a < s.rd DMC.INSTALLED then 0 else 6)
  else if a < 0x10000400000 then 1
  else if 0x10100000000 ≤ a ∧ a < 0x10100C00000 then 2
  else if 0x10200000000 ≤ a ∧ a < 0x10200400000 then 3
  else if 0x10300000000 ≤ a ∧ a < 0x10300080000 then 4
  else if 0xF0000000000 ≤ a ∧ a < 0xF0008000000 then 5
  else 6

/-- A request sent: into the mesh, or answered with an error by the source's own router (R300). What TAG a block of the part
gives it is open; a lane's and an outside source's are their own (R302; log entry 9). -/
def meshSend (r : MeshReq) (s : State) : State :=
  if regionOf r.addr s = 6 then { s with resps := s.resps ++ [⟨r, 2, 0⟩] }
  else match r.own with
    | .mesh _ _ => { s with reqs := s.reqs ++ [r] }
    | .lane _ _ => { s with reqs := s.reqs ++ [r] }
    | _ => { s with reqs := s.reqs ++ [r], labels := s.labels ++ [(r, Config.free s.freeCtr % 65536)], freeCtr := s.freeCtr + 1 }

/-- A destination answers a request: kind 0 data, 1 acknowledgement, 2 error (11 R302). -/
def meshAnswer (r : MeshReq) (kind data : Nat) (s : State) : State := { s with resps := s.resps ++ [⟨r, kind, data⟩] }

/-- The first response to the owner, if one has come. -/
def respFor (o : Owner) (s : State) : Option MeshResp := s.resps.find? fun x => decide (x.req.own = o)

/-- A response taken: its request is under way no more. -/
def respTaken (x : MeshResp) (s : State) : State :=
  { s with resps := s.resps.erase x, labels := s.labels.eraseP fun e => decide (e.1 = x.req) }

/-- The node that hosts VEn, FACETn, the capture of VEn, SQn and SQ(32 + n) (11 R299). -/
def veNode (n : Nat) : Nat := 8 * (n % 32 / 4) + 2 + n % 4
/-- The node that hosts DSP engine n (11 R299). -/
def dspNode (n : Nat) : Nat := if n < 16 then 8 * (n / 2) + 1 else 8 * ((n - 16) / 2) + 6
/-- The node that hosts scratch bank b (11 R299). -/
def scrNode (b : Nat) : Nat := if b < 32 then 8 * (b / 4) + 1 else 8 * ((b - 32) / 4) + 6
/-- The node that hosts lane quad k (11 R299). -/
def quadNode (k : Nat) : Nat := [0, 16, 24, 32, 48, 56, 7, 23, 31, 39, 55, 63].getD k 0
/-- The node that hosts DMCn (11 R299). -/
def dmcNode (n : Nat) : Nat := [8, 40, 15, 47].getD n 8

/-! Dictionary accesses. -/

/-- A status byte by the order of R12: the first code of the order whose condition holds, else 0x00. -/
def firstOf (cs : List (Bool × Nat)) : Nat :=
  ([1, 2, 3, 0xC, 4, 0xA, 5, 7, 6, 8, 0xB, 9].find? fun c => cs.any fun p => p.1 && Nat.beq p.2 c).getD 0

/-- The access level of a master (R52, 19 R479): a mesh master has level 1. -/
def levelOf (s : State) (m : Nat) : Nat := if m < 16 then (s.masterOf m).level else 1

/-- Is the clock gate of the block that owns object o closed (15 R403)? -/
def gateShut (s : State) (o : Nat) : Bool :=
  match Dict.gateUnit o with
  | some u => Nat.beq (s.rd (CRH.GATE_STATE u)) 0
  | none => false

/-- The value of the member of key k as its unit's gate closed (15 R403); of a member that cannot change behind a closed gate, v. -/
def heldData (k v : Nat) (s : State) : Nat :=
  match s.crh.shut.find? fun e => Dict.gateUnit (k / 256) == some e.1 with
  | some e => ((e.2.find? fun x => Nat.beq x.1 k).map (·.2)).getD v
  | none => v

/-- Is a TAP instruction one of the five that hold the part in reset while the pins follow the boundary register (19 R478)? -/
def testInsn (c : Nat) : Bool := [0, 3, 4, 5, 6].contains c
/-- The boundary register's update stage, where the pins follow it (19 R478). -/
def pinTest (s : State) : Option Boundary := if testInsn s.dbg.insn then some s.dbg.upd else none

/-- Does the access code forbid operation op (00 R8)? Of the RD members only the mesh data windows are written. -/
def accForbids (r : Dict.Row) (op : Nat) : Bool :=
  match op with
  | 1 => decide (r.acc = .wo) || decide (r.acc = .cmd)
  | 2 => decide (r.acc = .ro) || decide (r.acc = .rc) ||
      (decide (r.acc = .rd) && !(Nat.beq r.obj 0x0030) && !(Nat.beq r.obj 0xF500))
  | _ => false

/-- Does a FETCH, and a READ over the management channel, carry a fetch size (R38)? -/
def sized (o m : Nat) : Bool := Nat.beq (o * 256 + m) HDI.MESH_DATA || Nat.beq (o * 256 + m) DBG.MEM_DATA

/-- Does the frame's LENGTH, or the kind of the member, not fit the operation (R38, R40)? -/
def formBad (q : Req) (r : Dict.Row) (op o m len : Nat) : Bool :=
  match op with
  | 1 => if sized o m && Nat.ble 1 q.master && Nat.ble q.master 8 then len != 2 else len != 0
  | 2 => !(Dict.lenOk r len)
  | 3 => decide (r.acc ≠ .rd) || (if sized o m then len != 2 else len != 0)
  | 4 => decide (r.acc ≠ .rws) || len != 0
  | 5 => decide (r.acc ≠ .rws) || len != 0
  | _ => true

/-- Is the frame of a request over the I3C bus longer than the maximum write length (R36)? -/
def frameLong (q : Req) (op len : Nat) (s : State) : Bool :=
  Nat.beq q.master 0 && Nat.blt s.hdi.i3c.mwl (8 + (if op = 2 || op = 3 then len else 0))

/-- Would a response of rlen bytes of data be longer than the maximum read length (R36)? -/
def responseLong (q : Req) (rlen : Nat) (s : State) : Bool := Nat.beq q.master 0 && Nat.blt s.hdi.i3c.mrl (8 + rlen)

/-- The conditions of the frame and of the member itself, of R20, R36, R38, R52, 15 R403 and 19 R493. A frame with another
operation code meets no rule of an operation. -/
def baseConds (q : Req) (op o m len v : Nat) (s : State) : List (Bool × Nat) :=
  match Dict.find o m with
  | none => [(true, 1)]
  | some r =>
    if q.op.isSome || Nat.beq op 0 || Nat.blt 5 op then [(true, 3)] else
    [ (q.wrong, 3),
      (decide (levelOf s q.master < if op = 1 then 0 else max 1 r.level), 2),
      (accForbids r op, 2),
      (formBad q r op o m len, 3),
      (frameLong q op len s, 3),
      (decide (op = 2) && !(r.ok v), 4),
      ((decide (op = 2) || decide (op = 3)) && gateShut s o, 0xA),
      (!r.cold && !(dictOpen s), 7),
      ((s.tgtOf 0).held && !(Nat.beq (o / 4096) 0) && !(Nat.beq (o / 4096) 2) && !(Nat.beq (o / 4096) 15), 7) ]

/-- The status of an access: the first of the conditions of the member and those of the rule that owns it. An access that
none of them refuses would answer rlen bytes of data; it is refused with 0x03 where that response is too long (R36). -/
def statusOf (q : Req) (op o m len v rlen : Nat) (extra : List (Bool × Nat)) (s : State) : Nat :=
  let st := firstOf (baseConds q op o m len v s ++ extra)
  if st = 0 ∧ responseLong q rlen s = true then 3 else st

/-- The lease restarts at an access of the owner to the mirror or to objects 0010 and 0011 (R59). -/
def restartLease (s : State) : State :=
  s.modMirror fun mi => { mi with leaseEnd := s.now + s.rd HDI.MIRROR_LEASE * 1000 * ticksPerUs }

/-- Is the access a debug read of an RC member (00 R10, 19 R496)? -/
def debugRead (q : Req) (op o m : Nat) : Bool :=
  Nat.beq q.master 9 && Nat.beq op 1 && match Dict.find o m with | some r => decide (r.acc = .rc) | none => false

/-- Does the part not hear the request: a part reset lasts (15 R407), the I3C target ignores the bus until the HDR exit
pattern (R33), or the debug port is closed by DBG.POLICY NO_DBGPORT (19 R479)? -/
def deaf (q : Req) (s : State) : Bool :=
  s.crh.inReset || (Nat.beq q.master 0 && decide (s.hdi.i3c.bus = .ignore)) || (Nat.beq q.master 9 && s.bit DBG.POLICY 1)

/-- The OP of a response: that which the frame came with (R39); for a debug read of an RC member plus 0x80 (19 R496). -/
def respOp (q : Req) (op o m : Nat) : Nat :=
  match q.op with
  | some c => c
  | none => if debugRead q op o m then 0x81 else op

/-- The response frame stored for the master, and the access counted in HDI.STATS (R39, R43, R47). For a mesh master the frame
stands for the answer of the dictionary window. -/
def respond (q : Req) (op o m st len data : Nat) (s : State) : State :=
  (s.bump 32 (HDI.STATS st)).modMaster q.master fun ms => { ms with resp := ⟨st, respOp q op o m, q.tag, o, m, len, data⟩ }

/-- Does an access that ended with 0x00 restart the lease? -/
def leases (q : Req) (op o : Nat) (m : Nat) (s : State) : Bool :=
  Nat.beq (s.rd HDI.MIRROR_OWNER) q.master &&
    (Nat.beq o 0x10 || Nat.beq o 0x11 || Nat.beq op 4 || Nat.beq op 5 ||
      (Nat.beq op 2 && match Dict.find o m with | some r => decide (r.acc = .rws) | none => false))

/-- An access that has passed its conditions with status st: refused, it changes nothing but its count (R13); done, it
takes its effect, answers its data, and restarts the lease where R59 says so. A request that is not heard does nothing. -/
def finish (q : Req) (op o m st len data : Nat) (eff : State → State) (s : State) : State :=
  if deaf q s then s
  else if st = 0 then
    let t := eff s
    respond q op o m 0 len data (if leases q op o m t then restartLease t else t)
  else respond q op o m st 0 0 s

/-- A command written to the CMD member of key k with the byte code, under the conditions extra beside those of the
member. -/
def command (q : Req) (k code : Nat) (extra : List (Bool × Nat)) (eff : State → State) (s : State) : State :=
  finish q 2 (k / 256) (k % 256) (statusOf q 2 (k / 256) (k % 256) 1 code 0 extra s) 0 0 eff s

/-- A value v of len bytes written to the member of key k. -/
def writeTo (q : Req) (k len v : Nat) (extra : List (Bool × Nat)) (eff : State → State) (s : State) : State :=
  finish q 2 (k / 256) (k % 256) (statusOf q 2 (k / 256) (k % 256) len v 0 extra s) 0 0 eff s

/-- A READ of the member of key k that answers len bytes of data under the conditions extra; the side effect eff of an RC
member is left out of a debug read (00 R10, 19 R496). Behind a closed gate the value held answers, without condition or side
effect (15 R403). -/
def readFrom (q : Req) (k len data : Nat) (extra : List (Bool × Nat)) (eff : State → State) (s : State) : State :=
  let shut := gateShut s (k / 256)
  finish q 1 (k / 256) (k % 256) (statusOf q 1 (k / 256) (k % 256) 0 0 len (if shut then [] else extra) s) len
    (if shut then heldData k data s else data) (if shut || debugRead q 1 (k / 256) (k % 256) then fun s => s else eff) s

/-- The condition that a command needs a higher level than its member (R52). -/
def needLevel (q : Req) (l : Nat) (s : State) : Bool × Nat := (decide (levelOf s q.master < l), 2)

/-- A command whose unit number is below its bound; another names no unit. -/
def unitCmd (n bound : Nat) (t : State) : Out := if n < bound then .next t else .fault .noSuchUnit

end Sys2Proof.Machine
end

