-- ==== Sys2Proof/Machine/Crc.lean ====
section
/-! DEFINITION. CRC-32 of IEEE 802.3, which lanes and configuration streams check with (12_lanes.md R329,
16_configuration.md R418). Bytes are taken from a little-endian number, the lowest first. -/
namespace Sys2Proof.Machine

/-- k steps of the reflected division by 0x04C11DB7. -/
def crcBits : Nat → Nat → Nat
  | 0, c => c
  | k + 1, c => crcBits k (if c % 2 = 1 then (c / 2) ^^^ 0xEDB88320 else c / 2)

/-- n bytes of d taken into the register c. -/
def crcBytes : (n d c : Nat) → Nat
  | 0, _, c => c
  | n + 1, d, c => crcBytes n (d / 256) (crcBits 8 (c ^^^ d % 256))

/-- CRC-32 of the n bytes of d. -/
def crc32 (d n : Nat) : Nat := crcBytes n d 0xFFFFFFFF ^^^ 0xFFFFFFFF

end Sys2Proof.Machine
end

