-- ==== Sys2Proof/Machine/Brk.lean ====
section
/-! DEFINITION. Break units and the latching of debug halts (19_debug.md R474, R485 to R494), which engines, FCP, the DSP
engines and the mesh call at each match. -/
namespace Sys2Proof.Machine

/-- Instant from which a boundary ends a run on a HALT or STOP latched at the engine clock edge at or after t (03 R102). -/
def stopFrom (t : Nat) : Nat := engEdge t + 20 * ticksPerNs

/-- A debug halt of target t latched at instant th (R474, R489, R490). A halt already pending stands (R491). -/
def latchDebugHalt (t th : Nat) (s : State) : State :=
  if t = 0 then s.modTgt 0 fun g => { g with pend := !g.held }
  else if t ≤ 32 then
    let n := t - 1
    if s.rd (VEN.STATE n) = 3 ∧ (s.veOf n).haltAt = none then
      (s.modVe n fun e => { e with haltAt := some (stopFrom th) }).modTgt t fun g => { g with pend := true }
    else s
  else
    let n := t - 33
    if s.rd (DSP.STATE n) = 2 ∧ (s.dspOf n).halt = none then
      (s.modDsp n fun e => { e with halt := some th }).modTgt t fun g => { g with pend := true }
    else s

/-- DBG.TSTATE (R475). -/
def tstate (t : Nat) (s : State) : Nat := if (s.tgtOf t).held then 2 else if (s.tgtOf t).pend then 1 else 0

/-- The units whose LINK is unit u see that it has fired (R488). -/
def linkFired (u : Nat) (s : State) : State :=
  (s.brk.map (·.1)).foldl (fun s w =>
    if s.bit (DBG.BRK_CFG w) 33 && decide (Dict.bitsOf (s.rd (DBG.BRK_CFG w)) 39 34 = u) && decide (w ≠ u) then
      s.modBrk w fun b => { b with linked := true }
    else s) s

/-- Unit u fires at instant th on target t (R488, R489). TARGET of a MESH unit is ignored (R486), so its ACTION 2 halts nothing (DESIGN
CHOICE, log entry 53). -/
def brkFire (u t th : Nat) (s : State) : State :=
  let cfg := s.rd (DBG.BRK_CFG u)
  let s := linkFired u ((s.wr (DBG.BRK_STATE u) 2).flag DBG.EVFLAGS 0 496)
  match Dict.bitsOf cfg 7 4 with
  | 2 => if Nat.beq (cfg % 16) 7 then s else latchDebugHalt t th s
  | 3 => { s with groupAt := s.groupAt ++ [(Dict.bitsOf cfg 17 16, engEdge (th + 16 * ticksPerNs))] }
  | _ => s

/-- A match of unit u counted (R488). A unit whose LINK names a free unit, or names itself, never counts. -/
def brkCount (u t th : Nat) (s : State) : State :=
  let cfg := s.rd (DBG.BRK_CFG u)
  let lk := Dict.bitsOf cfg 39 34
  if cfg.testBit 33 && (!(s.brkOf u).linked || Nat.beq lk u || !(s.brkOf lk).on) then s
  else
    let s := (s.bump 64 (DBG.BRK_HITS u)).modBrk u fun b => { b with count := b.count + 1 }
    if s.rd (DBG.BRK_STATE u) = 1 ∧ (s.brkOf u).count = s.rd (DBG.BRK_COUNT u) then brkFire u t th s else s

/-- Does unit u match value v of the kind on target t, in the context ctx (site tag for VE kinds, operation bit for
DSP_DATA and MESH) and class cls (R486, R487)? -/
def brkSees (u kind t v ctx cls : Nat) (s : State) : Bool :=
  let cfg := s.rd (DBG.BRK_CFG u)
  Nat.beq (Dict.bitsOf cfg 3 0) kind && (Nat.beq kind 7 || Nat.beq (Dict.bitsOf cfg 47 40) t)
    && Nat.ble (s.rd (DBG.BRK_LO u)) v && Nat.blt v (s.rd (DBG.BRK_HI u))
    && (match kind with
        | 1 | 2 | 3 => !(cfg.testBit 23) || Nat.beq (Dict.bitsOf cfg 31 24) ctx
        | 5 => (Dict.bitsOf cfg 11 8).testBit ctx
        | 7 => (Dict.bitsOf cfg 11 8).testBit ctx && (Dict.bitsOf cfg 15 12).testBit cls
        | _ => true)

/-- Every allocated unit sees value v of the kind on target t at instant th; behind a closed gate DBG stands still (15 R401). -/
def brkMatch (kind t v ctx cls th : Nat) (s : State) : State :=
  if gateShut s 0xF100 then s
  else (s.brk.map (·.1)).foldl (fun s u => if (s.brkOf u).on && brkSees u kind t v ctx cls s then brkCount u t th s else s) s

end Sys2Proof.Machine
end

