-- ==== Sys2Proof/Machine/Capture.lean ====
section
/-! DEFINITION. Forming fail records and bitmap operations, their drops, and the stops FCP latches
(08_fail_capture.md R219 to R223, R235 to R241). -/
namespace Sys2Proof.Machine

/-- The engine clock edge on which something that comes now is seen: conditions of one edge raise one event (R246). -/
def seenEdge (s : State) : Nat := engEdge s.now

/-- Flag b of FCP.Q_EVFLAGS of SQq set at engine clock edge th; the conditions of one edge raise one event (R246). -/
def qFlag (q b th : Nat) (s : State) : State :=
  let n := s.note (FCP.Q_EVFLAGS q) b
  if s.bit (FCP.Q_EVFLAGS q) b then n
  else
    let t := n.setBit (FCP.Q_EVFLAGS q) b true
    if (s.sqOf q).evAt = some th ∨ s.clearedNow (FCP.Q_EVFLAGS q) b = true then t else (t.modSq q fun x => { x with evAt := some th }).raise (192 + q)

/-- A STOP of VEn latched by FCP at edge th with the code of FCP.STOPPED_BY (R237). -/
def fcpStopOne (n code th : Nat) (s : State) : State :=
  let old := s.rd (FCP.STOPPED_BY n)
  let s := if old = 0 ∨ ((s.fcpOf n).stopEdge = th ∧ code < old) then
      (s.wr (FCP.STOPPED_BY n) code).modFcp n fun f => { f with stopEdge := th }
    else s
  let s := qFlag n 2 th s
  if s.rd (VEN.STATE n) = 3 ∨ s.rd (VEN.STATE n) = 4 then
    s.modVe n fun e => { e with stopAt := earlier e.stopAt (stopFrom th), resumeAt := none }
  else s

/-- A STOP latched under R235 or R236, and with SITE_WIDE for every other running or halted engine of the site (R237). -/
def fcpStop (n code policy th : Nat) (s : State) : State :=
  let s := fcpStopOne n code th s
  if policy.testBit 2 then
    (List.range 32).foldl (fun s m =>
      if m ≠ n ∧ (s.rd (VEN.STATE m) = 3 ∨ s.rd (VEN.STATE m) = 4) ∧ s.rd (VEN.SITE_TAG m) = s.rd (VEN.SITE_TAG n) then
        fcpStopOne m 3 th s
      else s) s
  else s

/-- A drop of a record or bitmap operation of VEn, counted in counter (R223, R236, R241). -/
def fcpDrop (n counter policy th : Nat) (s : State) : State :=
  let s := qFlag n 1 th (s.bump 64 counter)
  if policy.testBit 1 ∧ (s.fcpOf n).dropped = false then
    fcpStop n 2 policy th (s.modFcp n fun f => { f with dropped := true })
  else s.modFcp n fun f => { f with dropped := true }

/-- The four words of a record (R221). -/
def recordWords (n : Nat) (r : FailRec) : List Nat :=
  [r.cyc, r.fv, r.run * 2 ^ 48 + r.addr % 2 ^ 48,
   r.site * 2 ^ 56 + n * 2 ^ 51 + r.astep * 2 ^ 50 + (if r.apg then 2 ^ 49 else 0) + (if r.mdrop then 2 ^ 48 else 0)
     + r.tset * 2 ^ 42 + r.pc % 2 ^ 32]

/-- Has the ring of SQq no free line (R226)? -/
def ringFull (q : Nat) (s : State) : Bool := Nat.ble (s.rd (FCP.Q_RING_LINES q)) (s.sqOf q).ring.length

/-- A record formed at edge th enters the capture FIFO, is dropped, or is discarded after stop-on-N (R222, R223, R235). -/
def formRecord (n th : Nat) (r : FailRec) (s : State) : State :=
  let s := s.bump 64 (FCP.REC_FORMED n)
  if (s.fcpOf n).capped then s.bump 64 (FCP.REC_CAPPED n)
  else if (s.fcpOf n).cap.length < 256 then s.modFcp n fun f => { f with cap := f.cap ++ [recordWords n r] }
  else fcpDrop n (if ringFull n s then FCP.REC_DROP_RING n else FCP.REC_DROP_CAP n) r.policy th s

/-- The open record closed and formed (R220). -/
def closeRecord (n th : Nat) (s : State) : State :=
  match (s.fcpOf n).opn with
  | some r => formRecord n th r (s.modFcp n fun f => { f with opn := none })
  | none => s

/-- An operation leaves the merge stage at edge th: it is formed, and enters the bitmap FIFO or is dropped (R240, R241). -/
def formBitmap (n th : Nat) (op : BmOp) (s : State) : State :=
  let s := s.bump 64 (FCP.BM_FORMED n)
  if (s.fcpOf n).bmFifo.length < 512 then s.modFcp n fun f => { f with bmFifo := f.bmFifo ++ [op] }
  else fcpDrop n (FCP.BM_DROP n) op.policy th s

/-- The open bitmap operation leaves the merge stage (R240). -/
def closeBitmap (n th : Nat) (s : State) : State :=
  match (s.fcpOf n).bmOpen with
  | some op => formBitmap n th op (s.modFcp n fun f => { f with bmOpen := none })
  | none => s

/-- The last cycle before a boundary at which FCP settings change, or the last of a run: record and operation close when
it is processed; with every cycle processed, they close at edge th (R220, R240). -/
def closeMark (n th : Nat) (s : State) : State :=
  match (s.fcpOf n).cycles.reverse with
  | c :: rest => s.modFcp n fun f => { f with cycles := (rest.reverse ++ [{ c with closeAfter := true }]) }
  | [] => closeBitmap n th (closeRecord n th s)

end Sys2Proof.Machine
end

