-- ==== Sys2Proof/Machine/Chan.lean ====
section
/-! DEFINITION. Edge channels (06_edge_channels.md): channel maps, the placing of edges and strobes, park states, and
the compare of a cycle. -/
namespace Sys2Proof.Machine

/-- Channels named by the map that starts at object first, as pairs of position and channel (R167). -/
def mapOf (first n : Nat) (s : State) : List (Nat × Nat) :=
  (s.reg.filter fun e => Nat.beq (e.1 / 256) (first + n)).map fun e => (e.1 % 256, e.2)
/-- OUT positions of VEn. -/
def outMap (n : Nat) (s : State) : List (Nat × Nat) := mapOf 0x8500 n s
/-- IN positions of VEn. -/
def inMap (n : Nat) (s : State) : List (Nat × Nat) := mapOf 0x8600 n s

/-- The engine whose map names channel c, or 0xFF (R191). -/
def ownerIn (first c : Nat) (s : State) : Nat :=
  match s.reg.find? fun e => Nat.ble first (e.1 / 256) && Nat.blt (e.1 / 256) (first + 32) && Nat.beq e.2 c with
  | some e => e.1 / 256 - first
  | none => 0xFF
/-- EDG.OOWNER of EOc. -/
def outOwner (c : Nat) (s : State) : Nat := ownerIn 0x8500 c s
/-- EDG.IOWNER of EIc. -/
def inOwner (c : Nat) (s : State) : Nat := ownerIn 0x8600 c s

/-- Field f (eight bytes) of a timing set (R176, R177). -/
def tfield (v f : Nat) : Nat := v / 2 ^ (64 * f) % 2 ^ 64
/-- Drive format of an OUT set (R176). -/
def outFormat (v : Nat) : Nat := tfield v 4 % 16
/-- Park state of an OUT set (R176). -/
def outPark (v : Nat) : Nat := tfield v 4 / 16 % 4
/-- Mode of an IN set (R177). -/
def inMode (v : Nat) : Nat := tfield v 4 % 4

/-- What a change does to L and N of a channel (R172, R179). -/
def EdgeOp.app (op : EdgeOp) (ln : Bool × Bool) : Bool × Bool :=
  match op with
  | .level v => (v, ln.2)
  | .toggle => (!ln.1, ln.2)
  | .drive n => (ln.1, n)

/-- L and N of a channel at instant t (R172). -/
def OutCh.levels (ch : OutCh) (t : Nat) : Bool × Bool :=
  (ch.edges.filter fun e => Nat.ble e.1 t).foldl (fun ln e => e.2.app ln) (ch.l, ch.n)

/-- A channel whose edges up to instant t are taken over into L and N. -/
def OutCh.settle (ch : OutCh) (t : Nat) : OutCh :=
  let ln := ch.levels t
  { ch with l := ln.1, n := ln.2, edges := ch.edges.filter fun e => Nat.blt t e.1 }

/-! The pins (R165, R170). -/

/-- A signed deskew: instant t moved earlier by v ticks. -/
def deskewed (v t : Nat) : Nat := if v < 2 ^ 31 then t - v else t + (2 ^ 32 - v)
/-- The instant at which what lies at reference time t crosses the ball of EOc (R165). -/
def outBall (c t : Nat) (s : State) : Nat := deskewed (s.rd (EDG.ODESKEW c)) t
/-- The instant at which a strobe of EIc at reference time t samples its ball (R165). -/
def inBall (c t : Nat) (s : State) : Nat := deskewed (s.rd (EDG.IDESKEW c)) t

/-- What an OUT channel drives (R170): high is the positive leg above the negative one. -/
inductive Drive where
  | off | high | low
  deriving DecidableEq, Repr

/-- Is channel x (EOc as c, EIc as 256 + c) held by a focus or self-check run (07 R199)? -/
def focusHeld (x : Nat) (s : State) : Bool := s.focus.left.any fun e => Nat.beq e.1 x

/-- The level of the test edges of EOc at instant t: a square wave of at least 4 ns, whose period, high time and phase are not
given: free values (07 R200; log entry 56). -/
def testEdge (c t : Nat) : Bool :=
  let p := 4 * ticksPerNs + Config.testWave c 0
  Nat.ble ((t + Config.testWave c 2) % p) (Config.testWave c 1 % (p - 1))
/-- L and N as EOc drives its ball at reference time t. While a focus run holds it, it drives test edges between high and low,
and in a self-check a pattern of low, high and off, whose instants are free values (07 R200, R203; log entry 56). -/
def shownLevels (c t : Nat) (s : State) : Bool × Bool :=
  if focusHeld c s then
    if s.focus.kind = 1 then (testEdge c t, true) else (Nat.beq (Config.testLevel c t % 3) 1, Config.testLevel c t % 3 != 2)
  else (s.outOf c).levels t
/-- What the legs of EOc show for what holds at reference time t: EDG.OPOL swaps them, but for the off state (R170, R172). In a test
of the TAP its boundary cell drives them (19 R478). -/
def driveOf (c t : Nat) (s : State) : Drive :=
  match pinTest s with
  | some b => if b.eoEn.testBit c = false then .off else if b.eo.testBit c then .high else .low
  | none =>
    let ln := shownLevels c t s
    if ln.2 = false then .off else if xor ln.1 (decide (s.rd (EDG.OPOL c) = 1)) then .high else .low
/-- The edges of EOc that have not yet been taken over, with the instants at which they appear at the ball (R165). -/
def edgesAtBall (c : Nat) (s : State) : List (Nat × EdgeOp) := (s.outOf c).edges.map fun e => (outBall c e.1 s, e.2)

/-! Drops (R183, R186). A dropped marker counts at its own instant. -/

/-- The count of drops k with those of ds whose instant has come. -/
def dropsCount (k : Nat) (ds : List Nat) (s : State) : Nat :=
  min (s.rd k + (ds.filter fun t => Nat.ble t s.now).length) (2 ^ 64 - 1)
/-- Has an instant of ds come? -/
def dropsDue (ds : List Nat) (s : State) : Bool := ds.any fun t => Nat.ble t s.now
/-- Drops of EOc whose instant has come are taken over into its count and its group's bit. -/
def settleOut (c : Nat) (s : State) : State :=
  let ds := (s.outOf c).drops
  if dropsDue ds s then
    ((s.wr (EDG.EDGE_DROP c) (dropsCount (EDG.EDGE_DROP c) ds s)).setBit EDG.DROP_GROUPS (c / 8) true).modOut c fun ch =>
      { ch with drops := ds.filter fun t => Nat.blt s.now t }
  else s
/-- The same for EIc. -/
def settleIn (c : Nat) (s : State) : State :=
  let ds := (s.inOf c).drops
  if dropsDue ds s then
    ((s.wr (EDG.STROBE_DROP c) (dropsCount (EDG.STROBE_DROP c) ds s)).setBit EDG.DROP_GROUPS (c / 8) true).modIn c fun ch =>
      { ch with drops := ds.filter fun t => Nat.blt s.now t }
  else s
/-- The same for every channel. -/
def settleDrops (s : State) : State := (List.range 256).foldl (fun s c => settleIn c (settleOut c s)) s

/-- A marker of EOc at instant t dropped: its event, its count and its group's bit come at t (R186, R192). -/
def dropOut (c t : Nat) (s : State) : State :=
  ((settleOut c s).modOut c fun ch => { ch with drops := ch.drops ++ [t] }).raiseAt t (128 + 2 * (c / 8))
/-- A marker of EIc at instant t dropped. -/
def dropIn (c t : Nat) (s : State) : State :=
  ((settleIn c s).modIn c fun ch => { ch with drops := ch.drops ++ [t] }).raiseAt t (128 + 2 * (c / 8))

/-- Does a marker at instant t keep 1,024 ticks from the last one of its stream (R185)? -/
def spaced (last : Option Nat) (t : Nat) : Bool :=
  match last with
  | some l => Nat.ble (l + 1024) t
  | none => true

/-- A data edge of EOc at instant t, placed or dropped (R185, R186). None changes nothing but the stream. -/
def placeData (c t : Nat) (op : Option EdgeOp) (s : State) : State :=
  if spaced (s.outOf c).lastData t then
    s.modOut c fun ch => { ch with lastData := some t, edges := ch.edges ++ (match op with | some o => [(t, o)] | none => []) }
  else dropOut c t s

/-- An enable edge of EOc at instant t, placed or dropped (R173, R185, R186). -/
def placeEnable (c t : Nat) (n : Bool) (s : State) : State :=
  if spaced (s.outOf c).lastEn t then
    s.modOut c fun ch => { ch with lastEn := some t, edges := ch.edges ++ [(t, .drive n)] }
  else dropOut c t s

/-- A marker of EIc at instant t, placed or dropped (R185, R186). -/
def placeMark (c t : Nat) (s : State) : State :=
  if spaced (s.inOf c).last t then s.modIn c fun ch => { ch with last := some t }
  else dropIn c t s

/-- The data edges of the formats for data bit d in a cycle that begins at tc (R179). -/
def formatEdges (set tc : Nat) (d : Bool) : List (Nat × Option EdgeOp) :=
  let e := fun i => tc + tfield set i
  match outFormat set with
  | 0 => [(e 0, some (.level d))]
  | 1 => [(e 0, some (.level d)), (e 1, some (.level false))]
  | 2 => [(e 0, some (.level d)), (e 1, some (.level true))]
  | 3 => [(e 0, some (.level !d)), (e 1, some (.level d)), (e 2, some (.level !d))]
  | _ => [(e 0, if d then some .toggle else none)]

/-- Action code of position p in timing set t of VEn (04 R114). -/
def actionOf (n t p : Nat) (s : State) : Nat := s.rd (VEN.ACTION n t) / 16 ^ p % 16

/-- Magnitude of a negative IN deskew: how much later the compare time lies (R180). -/
def deskewLate (c : Nat) (s : State) : Nat :=
  let v := s.rd (EDG.IDESKEW c)
  if v < 2 ^ 31 then 0 else 2 ^ 32 - v

/-- The level at the ball of IN position p at instant u. -/
def smpLevel (smp : Samples) (p u : Nat) : Bool :=
  xor (smp.level.testBit p) (Nat.beq ((smp.chg.filter fun e => Nat.beq e.1 p && Nat.ble e.2 u).length % 2) 1)
/-- Does the input of position p change within 20 ps of instant u (R181)? -/
def smpNear (smp : Samples) (p u : Nat) : Bool :=
  smp.chg.any fun e => Nat.beq e.1 p && Nat.ble e.2 (u + 163) && Nat.ble u (e.2 + 163)
/-- The changes of position p within [u, v), in order of time. -/
def smpChanges (smp : Samples) (p u v : Nat) : List Nat :=
  (smp.chg.filter fun e => Nat.beq e.1 p && Nat.ble u e.2 && Nat.blt e.2 v).map (·.2)
/-- Do the changes make nothing but pulses shorter than 100 ps, which may go undetected (R181)? -/
def onlyPulses : List Nat → Bool
  | [] => true
  | [_] => false
  | a :: b :: ts => Nat.blt (b - a) 820 && onlyPulses ts

/-- A sample of EIc, IN position p, at reference time t: the level at the ball at t less the deskew, the legs swapped by
EDG.IPOL; an input change within 20 ps leaves it open, and bit b of a free value gives it (R165, R170, R180, R181; log entry
9). -/
def sampleBit (c p t b : Nat) (smp : Samples) (s : State) : Bool :=
  let u := inBall c t s
  if smpNear smp p u then s.freeVal.testBit b else xor (smpLevel smp p u) (decide (s.rd (EDG.IPOL c) = 1))

/-- Does the window [o, z) at the timing reference see a change (R180, R181)? Pulses shorter than 100 ps are seen or not: a free
value says so (log entry 9). -/
def windowChange (c p o z : Nat) (smp : Samples) (s : State) : Bool :=
  match smpChanges smp p (inBall c o s) (inBall c z s) with
  | [] => false
  | ts => !(onlyPulses ts) || s.freeVal.testBit 2

/-- What a compare or sample at IN position p of a cycle found. -/
structure Strobe where
  p : Nat
  c : Nat
  ts : Nat
  bad : Bool
  lost : Bool
  s0 : Option Bool
  compare : Bool

/-- Markers of the mode in a cycle of action act: in a SAMPLE cycle S0 alone (R180). -/
def inMarks (set act : Nat) : List Nat :=
  if act = 5 then [tfield set 0]
  else match inMode set with
    | 0 => [tfield set 0]
    | 1 | 2 => [tfield set 0, tfield set 1]
    | _ => [tfield set 2, tfield set 3]

/-- The markers of a cycle placed one after another, and whether one was dropped. -/
def placeMarks (c : Nat) : List Nat → State × Bool → State × Bool
  | [], r => r
  | t :: ts, (s, lost) => placeMarks c ts (placeMark c t s, lost || !(spaced (s.inOf c).last t))

/-- Does a compare of EIc with set against d fail in a cycle that begins at tc (R180)? -/
def cmpFails (set tc c p : Nat) (d : Bool) (smp : Samples) (s : State) : Bool :=
  let at' := fun i => tc + tfield set i
  match inMode set with
  | 0 => sampleBit c p (at' 0) 0 smp s != d
  | 1 => sampleBit c p (at' 0) 0 smp s != d || sampleBit c p (at' 1) 1 smp s != d
  | 2 => sampleBit c p (at' 0) 0 smp s != d || sampleBit c p (at' 1) 1 smp s != !d
  | _ => xor (smpLevel smp p (inBall c (at' 2) s)) (decide (s.rd (EDG.IPOL c) = 1)) != d || windowChange c p (at' 2) (at' 3) smp s

/-- The strobes of IN position p, channel c, in a cycle of timing set t that begins at tc with data bit d (R180, R186; 04
R115). -/
def strobeIn (n tset tc p c : Nat) (d : Bool) (smp : Samples) (s : State) : State × Option Strobe :=
  let act := actionOf n tset p s
  if act = 1 ∨ act = 2 ∨ act = 5 then
    let set := s.rd (EDG.ITSET c tset)
    let marks := inMarks set act
    let r := placeMarks c (marks.map (tc + ·)) (s, false)
    let s0lost := !(spaced (s.inOf c).last (tc + tfield set 0))
    let bad := act ≠ 5 && (r.2 || cmpFails set tc c p d smp s)
    (r.1.drawn,
     some ⟨p, c, tc + marks.getLastD 0 + deskewLate c s, bad, r.2,
       if (act ≠ 5 && Nat.beq (inMode set) 3) || s0lost then none else some (sampleBit c p (tc + tfield set 0) 0 smp s), act ≠ 5⟩)
  else (s, none)

/-- The levels at the balls of the IN channels at instant u (R191). -/
def inBalls (u : Nat) (s : State) : Nat :=
  (s.pins.einChg.filter fun e => Nat.ble e.2 u).foldl (fun w e => w ^^^ 2 ^ e.1) s.pins.ein
/-- What IN position p finds at the ball of EIc in a cycle: its changes follow, each at its instant, those still to come (R165,
R191). -/
def leaveLevel (c p : Nat) (smp : Samples) (s : State) : State :=
  let ahead := s.pins.einChg.filter fun e => Nat.beq e.1 c && Nat.blt (inBall c s.now s) e.2
  let others := s.pins.einChg.filter fun e => !(Nat.beq e.1 c)
  let on := xor (smp.level.testBit p) (Nat.beq (ahead.length % 2) 1)
  let rest := s.pins.ein - (if s.pins.ein.testBit c then 2 ^ c else 0)
  let new := (smp.chg.filter fun e => Nat.beq e.1 p).map fun e => (c, e.2)
  { s with pins := { s.pins with ein := if on then rest + 2 ^ c else rest, einChg := others ++ ahead ++ new } }
/-- EDG.ILEVEL of EIc: the level at the timing reference now, which lies at the ball earlier by the deskew (R165, R170, R191). A
focus or self-check run disconnects the ball and drives pulses of its own, at instants that are not given (07 R199, R200; log
entry 56). -/
def inLevel (c : Nat) (s : State) : Bool :=
  if focusHeld (256 + c) s then (Config.testLevel (256 + c) s.now).testBit 0
  else xor ((inBalls (inBall c s.now s) s).testBit c) (decide (s.rd (EDG.IPOL c) = 1))

/-- All IN positions of a cycle, with what each found. -/
def strobeAll (n tset tc d : Nat) (smp : Samples) : List (Nat × Nat) → State → State × List Strobe
  | [], s => (s, [])
  | (p, c) :: ps, s =>
    let r := strobeIn n tset tc p c (d.testBit p) smp (leaveLevel c p smp s)
    let r' := strobeAll n tset tc d smp ps r.1
    (r'.1, r.2.toList ++ r'.2)

/-- The reflected edge of OUT position p (04 R134, R135), if its S0 sample was taken: at the S0 compare time plus 20,480
ticks plus E0. -/
def reflectEdge (n tset tc p set : Nat) (found : List Strobe) (s : State) : Option (Nat × Bool) :=
  let cfg := s.rd (VEN.REFLECT n p)
  match found.find? fun x => Nat.beq x.p (cfg % 64) with
  | some x =>
    x.s0.map fun v => (tc + tfield (s.rd (EDG.ITSET x.c tset)) 0 + deskewLate x.c s + 20480 + tfield set 0, xor v (cfg.testBit 7))
  | none => none

/-- The edges of OUT position p, channel c, in a cycle (R173). -/
def driveOut (n tset tc p c : Nat) (d : Bool) (found : List Strobe) (s : State) : State :=
  let act := actionOf n tset p s
  let set := s.rd (EDG.OTSET c tset)
  let s := (settleOut c s).modOut c fun ch => ch.settle s.now
  let s := match act with
    | 0 | 2 => (formatEdges set tc d).foldl (fun s e => placeData c e.1 e.2 s) s
    | 4 =>
      match reflectEdge n tset tc p set found s with
      | some e => placeData c e.1 (some (.level e.2)) s
      | none => s
    | _ => s
  placeEnable c (tc + tfield set 3) (decide (act = 0 ∨ act = 2 ∨ act = 4)) s

/-- The park state of the set applied to EOc at instant t (R182). A channel in state 3 shows it from its exit on (07 R202). -/
def parkAt (c set t : Nat) (s : State) : State :=
  s.modOut c fun ch =>
    let ch := ch.settle s.now
    { ch with edges := ch.edges ++ match outPark set with
      | 0 => [(t, .drive false)]
      | 1 => [(t, .level false), (t, .drive true)]
      | 2 => [(t, .level true), (t, .drive true)]
      | _ => [] }

/-- The channels that VEn owns take the park state of its active timing set at instant t (R182). -/
def parkEngine (n t : Nat) (s : State) : State :=
  (outMap n s).foldl (fun s e => parkAt e.2 (s.rd (EDG.OTSET e.2 (s.veOf n).tset)) t s) s

/-- EOc goes to the off state at instant t (R169, R171): its level stays, its drive flag falls. A channel in state 3 shows it from
its exit on (07 R202). -/
def offAt (c t : Nat) (s : State) : State :=
  s.modOut c fun ch => { ch.settle s.now with edges := (ch.settle s.now).edges ++ [(t, .drive false)] }

/-- Drops of EOc at or after boundary h are none: neither count nor event records them (R183). -/
def undrop (c h : Nat) (s : State) : State :=
  ((s.outOf c).drops.filter fun t => Nat.ble h t).foldl (fun s t =>
    ({ s with evq := s.evq.erase (t, 128 + 2 * (c / 8)) } : State).modOut c fun ch => { ch with drops := ch.drops.erase t }) s

/-- No edge of an earlier cycle is placed at or after boundary h on the channels of VEn (R183). -/
def suppressFrom (n h : Nat) (s : State) : State :=
  (outMap n s).foldl (fun s e => (undrop e.2 h s).modOut e.2 fun ch =>
    { ch with edges := ch.edges.filter (fun x => Nat.blt x.1 h), lastData := none, lastEn := none }) s

end Sys2Proof.Machine
end

