-- ==== Sys2Proof/Machine/Mirror.lean ====
section
/-! DEFINITION. The batch of the mirror and what returns it to open (02_control_dictionary.md R56 to R67). -/
namespace Sys2Proof.Machine

/-- The mirror's state code (R60). -/
def mirrorState (s : State) : Nat := s.rd HDI.MIRROR_STATE

/-- VEN.STATE of VEn (R70). -/
def veState (n : Nat) (s : State) : Nat := s.rd (VEN.STATE n)

/-- Engines waiting at a barrier whose mask names VEn are to fault when it leaves the run (R98). -/
def barrierLeft (n at' : Nat) (s : State) : State :=
  (List.range 32).foldl (fun s m =>
    match (s.veOf m).bar with
    | some (mask, _) =>
      if veState m s = 3 ∧ mask.testBit n ∧ m ≠ n then
        s.modVe m fun e => { e with barErr := earlier e.barErr (at' + 20 * ticksPerNs) }
      else s
    | none => s) s

/-- The engines armed for the apply of the batch return to the state they held before (03 R72, R98), without an event (DESIGN
CHOICE, log entry 41). -/
def disarmStarts (s : State) : State :=
  (List.range 32).foldl (fun s n =>
    if (s.veOf n).armKind = 2 ∧ veState n s = 2 then
      let t := (s.wr (VEN.STATE n) (s.veOf n).prior).modVe n fun e => { e with start := none, offAt := s.now, stale := e.stale ++ e.inflight, inflight := [] }
      barrierLeft n s.now t
    else s) s

/-- An armed batch disarmed to state code c: the lease, restarted by the arm, runs from its full length (R59; 18 R464). -/
def disarmTo (c : Nat) (s : State) : State :=
  restartLease (((disarmStarts s).wr HDI.MIRROR_STATE c).modMirror fun mi => { mi with edge := none, syncLow := false })

/-- The batch returns to state 1; armed, its apply does not happen (R63). EV002. -/
def reopen (s : State) : State :=
  let s := if mirrorState s = 5 then (disarmTo 1 s).wr HDI.APPLY_OUTCOME 3 else s.wr HDI.MIRROR_STATE 1
  s.raise 2

/-- A passed or armed batch returns to open when what its check tested changes (R63). -/
def reopenIf (c : Bool) (s : State) : State :=
  if (mirrorState s = 3 ∨ mirrorState s = 5) ∧ c = true then reopen s else s

/-- The mirror emptied and without owner (R59, R64). -/
def releaseMirror (s : State) : State :=
  ((s.wr HDI.MIRROR_OWNER 0xFF).wr HDI.MIRROR_STATE 0).modMirror fun _ => {}

/-- The staged value of a member, else its value in effect. -/
def afterBatch (s : State) (k : Nat) : Nat :=
  match s.hdi.mirror.batch.find? fun e => Nat.beq e.key k with
  | some e => e.val
  | none => s.rd k

/-- Does the member of key k belong to VEn: its VEN, map and FCP members, or a channel that its maps name (R63)? -/
def keyOfEngine (n k : Nat) (s : State) : Bool :=
  let o := k / 256
  let owned := fun first => s.reg.any fun e => Nat.beq (e.1 / 256) (first + n) && Nat.beq e.2 (o % 256)
  if Nat.ble 0x7100 o && Nat.blt o 0x7600 then Nat.beq (o % 256) n
  else if Nat.beq (o / 256) 0x85 || Nat.beq (o / 256) 0x86 || Nat.beq (o / 256) 0x91 then Nat.beq (o % 256) n
  else if Nat.beq (o / 256) 0x81 || Nat.beq (o / 256) 0x83 then owned 0x8500
  else if Nat.beq (o / 256) 0x82 || Nat.beq (o / 256) 0x84 then owned 0x8600
  else false

/-- Does the batch name VEn or its channels? -/
def batchNames (n : Nat) (s : State) : Bool := s.hdi.mirror.batch.any fun e => keyOfEngine n e.key s

/-- The engines that the batch starts (03 R76). -/
def batchStarts (n : Nat) (s : State) : Bool :=
  s.hdi.mirror.batch.any fun e => Nat.beq e.key (VEN.START_ON_APPLY n) && Nat.beq e.val 1

/-- A change of the run state of VEn (R63). -/
def engineChanged (n : Nat) (s : State) : State := reopenIf (batchNames n s) s

end Sys2Proof.Machine
end

