-- ==== Sys2Proof/Machine/Ve.lean ====
section
/-! DEFINITION. Vector engines: states, starting, the issue of tester cycles, halts, stops, barriers and faults
(03_vector_engines.md), and pin data and the vector buffer (04_vector_data_apg.md). -/
namespace Sys2Proof.Machine

/-- Is VEn stopped: neither ARMED, RUNNING, HALTED nor CHECKING? -/
def veStopped (n : Nat) (s : State) : Bool := [0, 1, 5, 6].contains (veState n s)
/-- Is VEn ARMED, RUNNING or HALTED? -/
def veLive (n : Nat) (s : State) : Bool := [2, 3, 4].contains (veState n s)
/-- VEn enters the state with code c; a batch that names it reopens (02 R63). -/
def veEnter (n c : Nat) (s : State) : State := engineChanged n (s.wr (VEN.STATE n) c)

/-- Boundary at which the next cycle of VEn begins (R77, R100). -/
def veBoundary (n : Nat) (s : State) : Nat :=
  (s.veOf n).base + ((s.veOf n).cyc - (s.veOf n).cyc0) * s.rd (VEN.PERIOD n)
/-- The first boundary of the grid of VEn at or after instant t (R102, R103). -/
def veGridFrom (n t : Nat) (s : State) : Nat :=
  (s.veOf n).base + (t - (s.veOf n).base + s.rd (VEN.PERIOD n) - 1) / s.rd (VEN.PERIOD n) * s.rd (VEN.PERIOD n)

/-- Does any populated DMC not serve traffic (01 R21, 09 R250)? -/
def dramNotReady (s : State) : Bool :=
  (List.range 4).any fun d =>
    let st := s.rd (DMC.STATE d)
    st != 0 && st != 6 && !(s.bit DMC.EXCLUDE d) && st != 3

/-! Settings that rules of FCP ask for at a start (08 R243). -/

/-- Width w of FCP.BM_CFG (08 R245). -/
def bmWidth (cfg : Nat) : Nat := 2 ^ Dict.bitsOf cfg 7 5
/-- Would FCP of VEn refuse a start with these settings? -/
def fcpStartBad (n mode cfg : Nat) (s : State) : Bool :=
  (mode.testBit 0 && Nat.beq (s.rd (FCP.Q_STATE n)) 0)
    || (mode.testBit 2 && (Nat.blt 64 (Dict.bitsOf cfg 17 12 + bmWidth cfg) || (cfg.testBit 4 && bmWidth cfg != 1)))

/-- Is a unit's bit set in a word of a RETIRE object (20 R512)? -/
def retiredBit (key i : Nat) (s : State) : Bool := s.bit (key + i / 64) (i % 64)
/-- Is a channel of the maps of VEn retired (20 R513)? -/
def mapsRetired (n : Nat) (s : State) : Bool :=
  (outMap n s).any (fun e => retiredBit (HDI.RETIRE_EO 0) e.2 s) || (inMap n s).any fun e => retiredBit (HDI.RETIRE_EI 0) e.2 s

/-- Conditions that refuse a START, a START_AT and a batch that starts VEn (R78, R119, 01 R21, 07 R202, 08 R243, 20
R513), over what members read through get. -/
def startConds (n : Nat) (get : Nat → Nat) (s : State) : List (Bool × Nat) :=
  [ ((outMap n s).isEmpty && (inMap n s).isEmpty, 9),
    (get (VEN.BUF_MODE n) != 2 && dramNotReady s, 7),
    (Nat.beq (get (VEN.APG_BIND n)) 1 && !(s.bit FAB.RELEASED n), 7),
    ((outMap n s).any (fun e => focusHeld e.2 s) || (inMap n s).any (fun e => focusHeld (256 + e.2) s), 7),
    ((List.range 32).any fun m => m != n && (Nat.beq (veState m s) 3 || Nat.beq (veState m s) 4)
      && Nat.beq (s.rd (VEN.SITE_TAG m)) (get (VEN.SITE_TAG n)), 9),
    (get (VEN.BUF_MODE n) != 0 && Nat.ble 8192 (get (VEN.ENTRY n)), 9),
    (fcpStartBad n (get (FCP.MODE n)) (get (FCP.BM_CFG n)) s, 9),
    (s.bit HDI.RETIRE_VE n || mapsRetired n s, 9) ]

/-! Arming (R71, R81, 04 R124, R130). -/

/-- The FIFO emptied as APG_ARM rises; words left are counted, and the event is raised at that fabric clock edge if there
were any (04 R130). What a read sees within the FAB clock of the arm is what the edge leaves (log entry 42). -/
def apgEmpty (n : Nat) (s : State) : State :=
  let k := (s.veOf n).fifo.length
  let s := (s.addTo 64 (VEN.APG_DISCARD n) k).modVe n fun e => { e with fifo := [], lastW := 0, consumed := [] }
  if k = 0 then s else s.raiseAt (fabEdge s.now) (65 + 2 * n)

/-- VEn armed: kind 0 START, 1 START_AT, 2 apply start, with the park set and the buffer mode it will run with. -/
def veArm (n kind parkSet mode : Nat) (s : State) : State :=
  let s := (s.modVe n fun e =>
    { e with prior := veState n s, tset := parkSet, armAt := s.now, armKind := kind, start := none, late := false,
             haltAt := none, stopAt := none, resumeAt := none, endAt := none, barErr := none, ptoErr := none, bar := none,
             lands := [], stale := e.stale ++ e.inflight, inflight := [], lines := if mode = 2 then e.lines else [],
             fillEnd := s.now, after := .seq, rptLeft := 0 }).wr (VEN.STATE n) 2
  apgEmpty n (parkEngine n s.now s)

/-! Ending a run (R102, R105, R182, R183). -/

/-- Has the instant that a boundary must not precede come by boundary b? -/
def due (o : Option Nat) (b : Nat) : Bool :=
  match o with
  | some t => Nat.ble t b
  | none => false

/-- The changes that land at boundary b of VEn, in the order of their applies (R100). -/
def landsBy (n b : Nat) (s : State) : List Staged :=
  ((s.veOf n).lands.filter fun l => Nat.ble l.1 b).flatMap (·.2)
/-- Does an apply land at boundary b of VEn? -/
def landDue (n b : Nat) (s : State) : Bool := (s.veOf n).lands.any fun l => Nat.ble l.1 b

/-- Period and a boundary of the grid of VEn at instant t: that of a batch that lands there already counts (R98, R100). -/
def gridOf (n t : Nat) (s : State) : Nat × Nat :=
  let b := veBoundary n s
  let k := VEN.PERIOD n
  if landDue n b s && Nat.ble b t then
    (((landsBy n b s).reverse.find? fun e => Nat.beq e.key k).map (·.val) |>.getD (s.rd k), b)
  else (s.rd k, (s.veOf n).base)

/-- Do VEn and VEm share one cycle grid at instant t: the same period, boundaries that coincide (R98)? -/
def shareGrid (n m t : Nat) (s : State) : Bool :=
  let a := gridOf n t s
  let b := gridOf m t s
  Nat.beq a.1 b.1 && Nat.beq (a.2 % a.1) (b.2 % a.1)

/-- VEn faults with cause 0x06 at its first boundary at or after detection at instant t plus 20 ns (R98). -/
def barFail (n t : Nat) (s : State) : State :=
  s.modVe n fun e => { e with barErr := earlier e.barErr (t + 20 * ticksPerNs) }

/-- The mask VEn waits with, if it is RUNNING and waiting. -/
def waitMask (n : Nat) (s : State) : Option Nat :=
  if veState n s = 3 then (s.veOf n).bar.map (·.1) else none

/-- Every waiting engine whose mask names VEi or VEj is to fault, detected at t. -/
def failNaming (i j t : Nat) (s : State) : State :=
  (List.range 32).foldl (fun s m =>
    match waitMask m s with
    | some k => if k.testBit i || k.testBit j then barFail m t s else s
    | none => s) s

/-- VEn has another grid from instant t: waiting engines that no longer share it are to fault (R98). -/
def regrid (n t : Nat) (s : State) : State :=
  (List.range 32).foldl (fun s m =>
    if m = n then s
    else
      let w := (match waitMask m s with | some k => k.testBit n | none => false)
        || (match waitMask n s with | some k => k.testBit m && (Nat.beq (veState m s) 3 || Nat.beq (veState m s) 4) | none => false)
      if w && !(shareGrid n m t s) then failNaming n m t s else s) s

/-- The site tag of VEn changes at instant t to what it then reads (04 R129): v is the tag before. -/
def siteNoted (n t v : Nat) (s : State) : State :=
  if s.rd (VEN.SITE_TAG n) = v then s else s.modVe n fun e => { e with siteAt := t, siteOld := v }

/-- Do FCP settings of VEn change with what waits for a boundary at or before instant t (08 R217)? -/
def landsFcp (n t : Nat) (s : State) : Bool :=
  (landsBy n t s).any fun e => Nat.beq (e.key / 256) (0x9100 + n) && s.rd e.key != e.val
/-- The changes that wait for a boundary at or before instant t take effect at boundary b of VEn, whose next cycle they then
govern (R100, 06 R188, 08 R217). -/
def landTo (n t b : Nat) (s : State) : State :=
  if landDue n t s then
    let ch := landsBy n t s
    let s := if landsFcp n t s then closeMark n (engEdge b) s else s
    let s := s.modVe n fun e => { e with base := b, cyc0 := e.cyc, lands := e.lands.filter fun l => !(Nat.ble l.1 t) }
    let s := siteNoted n b (s.rd (VEN.SITE_TAG n)) (ch.foldl (fun s e => s.wr e.key e.val) s)
    regrid n b (s.wr (VEN.LAND_CYCLE n) (s.veOf n).cyc)
  else s

/-- Every change that waits takes effect at boundary h, at which the engine stops (R100). -/
def landAll (n h : Nat) (s : State) : State := landTo n ((s.veOf n).lands.foldl (fun t l => max t l.1) h) h s

/-- VEn stops issuing cycles at boundary b and enters the state with code c (R102, R105). -/
def veStopAt (n b c : Nat) (s : State) : State :=
  let s := s.upto b
  let s := match (s.veOf n).ptoEnd with
    | some e => (s.wr (VEN.PTO_LEFT n) ((e - b + 8191) / 8192)).modVe n fun v =>
        { v with ptoEnd := none, ptoErr := if e ≤ b then some (e + 20 * ticksPerNs) else v.ptoErr }
    | none => s
  let s := landAll n b s
  let s := parkEngine n b (suppressFrom n b s)
  let s := closeMark n (engEdge b) s
  let s := s.modVe n fun e => { e with haltAt := none, resumeAt := none, runOff := if veState n s = 3 then b else e.runOff }
  if c = 4 then veEnter n 4 s
  else
    let s := s.modVe n fun e =>
      { e with stopAt := none, endAt := none, bar := none, barErr := none, ptoErr := none, offAt := b,
               stale := e.stale ++ e.inflight, inflight := [] }
    let s := s.setBit (VEN.FLAGS n) 6 false
    barrierLeft n b (veEnter n c (s.modTgt (1 + n) fun g => { g with pend := false, held := false, left := none }))

/-- VEn faults at boundary b with the cause and the address of the faulting word (R105); of the address 0x1_0000_0000, which
R89 lets fault, the U32 member holds the low 32 bits (DESIGN CHOICE, log entry 40). -/
def veFault (n b cause addr : Nat) (s : State) : State :=
  ((veStopAt n b 6 ((s.wr (VEN.FAULT n) cause).wr (VEN.FAULT_PC n) (addr % 2 ^ 32))).raise (64 + 2 * n))

/-! Words (R82 to R85). -/

/-- OPC of a word. -/
def wOpc (w : Nat) : Nat := Dict.bitsOf w 127 122
/-- TSET of a word. -/
def wTset (w : Nat) : Nat := Dict.bitsOf w 121 116
/-- DSRC of a word. -/
def wDsrc (w : Nat) : Nat := Dict.bitsOf w 115 114
/-- MASKF of a word. -/
def wMaskf (w : Nat) : Bool := w.testBit 113
/-- SEL of a word. -/
def wSel (w : Nat) : Nat := Dict.bitsOf w 111 108
/-- OPERAND of a word. -/
def wOperand (w : Nat) : Nat := Dict.bitsOf w 95 64
/-- DATA of a word. -/
def wData (w : Nat) : Nat := w % 2 ^ 64

/-- Is a word invalid: a reserved OPC, DSRC or SEL code, or a reserved field not zero (R83, R93, 04 R113)? -/
def wInvalid (w : Nat) : Bool :=
  Nat.blt 13 (wOpc w) || Nat.beq (wDsrc w) 3 || w.testBit 112 || Dict.bitsOf w 107 96 != 0
    || (wDsrc w == 2 && wData w / 64 != 0)
    || (match wOpc w with
        | 2 | 3 => false
        | 7 => Nat.blt 5 (wSel w)
        | _ => wSel w != 0)

/-! What the engine knows of its compares (R90, R92, R95). -/

/-- A compare that becomes known: it sets FAIL and FAIL_RUN unless masked, and fails its iteration. -/
def learn (n : Nat) (c : Cmp) (s : State) : State :=
  let s := s.modVe n fun e => { e with loop := e.loop.map fun l =>
    { l with iters := l.iters.map fun i =>
      { i with bad := i.bad || (c.bad && Nat.ble i.first c.cyc && (match i.stop with | some z => Nat.blt c.cyc z | none => true)) } } }
  if c.bad && !c.masked then
    let s := s.setBit (VEN.FLAGS n) 2 true
    if Nat.ble (s.veOf n).clrf c.cyc then
      (if s.bit (VEN.FLAGS n) 1 then s else s.modVe n fun e => { e with failOn := c.ts + 6 * ticksPerNs }).setBit (VEN.FLAGS n) 1 true
    else s
  else s

/-- VEN.FLAGS: a compare's result reaches the engine 6 ns after ts, whether cycles go on or not (R92, R99). -/
def veFlags (n : Nat) (s : State) : Nat :=
  ((s.veOf n).cmps.filter fun c => c.bad && !c.masked && Nat.ble (c.ts + 6 * ticksPerNs) s.now).foldl
    (fun v c => v ||| (if (s.veOf n).clrf ≤ c.cyc then 6 else 4)) (s.rd (VEN.FLAGS n))

/-- Every compare with ts at most 24 ns before boundary b becomes known at the decision for it (R90). -/
def learnUpTo (n b : Nat) (s : State) : State :=
  let known := fun c : Cmp => Nat.ble (c.ts + 24 * ticksPerNs) b
  let s := ((s.veOf n).cmps.filter known).foldl (fun s c => learn n c s) s
  s.modVe n fun e => { e with cmps := e.cmps.filter fun c => !(known c) }

/-- Does the condition of a JC hold (R93)? -/
def condHolds (n c : Nat) (s : State) : Bool :=
  match c with
  | 0 => s.bit (VEN.FLAGS n) 1
  | 1 => !(s.bit (VEN.FLAGS n) 1)
  | 2 => s.bit (VEN.FLAGS n) 4
  | 3 => !(s.bit (VEN.FLAGS n) 4)
  | 4 => s.bit (VEN.FLAGS n) 3
  | _ => !(s.bit (VEN.FLAGS n) 3)

/-- A match loop closed; MTO says whether it timed out (R94). -/
def closeLoop (n : Nat) (mto : Bool) (s : State) : State :=
  ((s.modVe n fun e => { e with loop := none }).setBit (VEN.FLAGS n) 5 false).setBit (VEN.FLAGS n) 4 mto

/-- Has an iteration passed: all its compares known and none failed (R95)? -/
def iterPassed (cmps : List Cmp) (i : Iter) : Bool :=
  !i.bad && match i.stop with
    | some z => !(cmps.any fun c => Nat.ble i.first c.cyc && Nat.blt c.cyc z)
    | none => false

/-- The decision of a MATCH for cycle c (R94): the state after it, and the word it returns to, if any. -/
def decideMatch (n c : Nat) (s : State) : State × Option Nat :=
  match (s.veOf n).loop with
  | none => (s, none)
  | some l =>
    let iters := l.iters.map fun i => { i with stop := some (i.stop.getD c) }
    if iters.any (iterPassed (s.veOf n).cmps) then (closeLoop n false s, none)
    else if l.c0 + l.t ≤ c then (closeLoop n true s, none)
    else
      (s.modVe n fun e => { e with loop := some { l with iters := (iters.filter fun i => !i.bad) ++ [⟨c, none, false⟩] } },
       some l.body)

/-- The transfer that the decision for the next cycle resolves: the state, and the target if a transfer is taken. -/
def resolve (n : Nat) (s : State) : State × Option Nat :=
  match (s.veOf n).after with
  | .seq => (s, none)
  | .goto t => (s, some t)
  | .jc c t => (s, if condHolds n c s then some t else none)
  | .matchEnd => decideMatch n (s.veOf n).cyc s

/-! The vector buffer (04 R118 to R126). -/

/-- Address of the buffer of VEn (01 R25). -/
def bufAddr (n : Nat) : Nat := 0x10200000000 + n * 0x20000

/-- The line of the buffer that holds program line l. -/
def bufLine (n l : Nat) (s : State) : Option BufLine := (s.veOf n).lines.find? fun x => Nat.beq x.line l

/-- The word at address a of VEn, or the fault cause of R89 and 04 R119, R121. -/
def fetchWord (n a : Nat) (s : State) : Except Nat Nat :=
  let mode := s.rd (VEN.BUF_MODE n)
  if 2 ^ 32 ≤ a then .error 0xA
  else if mode = 2 then
    if 8192 ≤ a then .error 7 else .ok (memRead s.mem (bufAddr n + 16 * a) 16)
  else if mode = 1 ∧ 8192 ≤ a then .error 7
  else if s.rd DMC.INSTALLED ≤ s.rd (VEN.PROG_BASE n) + 16 * a then .error 0xA
  else
    match bufLine n (a / 16) s with
    | none => .error 7
    | some l => if l.bad then .error 0xB else .ok (memRead s.mem (bufAddr n + 256 * l.slot + 16 * (a % 16)) 16)

/-- The line of a decided word marked as used in cycle c (04 R120). -/
def markUsed (n a c : Nat) (s : State) : State :=
  s.modVe n fun e => { e with lines := e.lines.map fun l => if l.line = a / 16 then { l with used := c + 1 } else l }

/-! The decision for a cycle. -/

/-- What a decision finds: the word of the next cycle with its address and whether it is a new word, or a fault with its
address. -/
inductive Decided where
  | word (w a : Nat) (fresh : Bool)
  | fault (cause a : Nat)

/-- The APG word a cycle of the word would consume at boundary b: none needed, or one, or none usable (04 R127, R131). -/
def apgNeed (n b w : Nat) (s : State) : Option (Option ApgWord) :=
  if wDsrc w = 1 then
    if s.rd (VEN.APG_BIND n) = 1 then
      match (s.veOf n).fifo with
      | x :: _ => if x.edge + 24 * ticksPerNs ≤ b then some (some x) else some none
      | [] => some none
    else some none
  else none

/-- The fault that the word itself meets before its cycle begins (R83, R87, R95). -/
def wordFault (n w : Nat) (s : State) : Option Nat :=
  if wInvalid w then some 1
  else match wOpc w with
    | 5 => if 16 ≤ (s.veOf n).stack.length then some 2 else none
    | 6 => if (s.veOf n).stack.isEmpty then some 3 else none
    | 9 => if (s.veOf n).loop.isSome then some 9 else none
    | 10 => if (s.veOf n).loop.isNone then some 9 else none
    | _ => none

/-- The decision for the next cycle of VEn, with the state in which what it resolves is done (R85, R88, R99). While a BAR or
an RPT repeats, the next word that a fault of cause 0x04 or 0x06 records is the repeating word itself (DESIGN CHOICE, log
entry 40). -/
def decideNext (n : Nat) (s : State) : State × Decided :=
  let b := veBoundary n s
  let s := learnUpTo n b s
  let e := s.veOf n
  if e.rptLeft ≠ 0 ∨ e.bar.isSome then
    let a := s.rd (VEN.PC n)
    match apgNeed n b e.word s with
    | some none => (s, .fault 8 a)
    | _ => (s, .word e.word a false)
  else
    let r := resolve n s
    let s := r.1
    let a := r.2.getD e.next
    let tooSoon := r.2.isSome && (match e.lastXfer with | some x => Nat.blt b (x + ticksPerNs) | none => false)
    let s := s.modVe n fun v => { v with next := a, after := .seq, lastXfer := if r.2.isSome then some b else v.lastXfer }
    if tooSoon then (s, .fault 5 a)
    else match fetchWord n a s with
      | .error c => (s, .fault c a)
      | .ok w =>
        match wordFault n w s with
        | some c => (s, .fault c a)
        | none =>
          match apgNeed n b w s with
          | some none => (s, .fault 8 a)
          | _ => (s, .word w a true)

/-! Issuing a cycle. -/

/-- Is a fault of cause 0x04 or 0x06 due at boundary b (R98, R105, R106)? Of two faults on one boundary the model records
cause 0x06 before 0x04, and these before the next word's own (DESIGN CHOICE, log entry 40). A timeout that ran out before a
halt faults once the engine runs again (DEDUCED, log entry 47). -/
def timedFault (n b : Nat) (s : State) : Option Nat :=
  let e := s.veOf n
  if due e.barErr b then some 6
  else if due e.ptoErr b then some 4
  else match e.ptoEnd with
    | some t => if t + 20 * ticksPerNs ≤ b then some 4 else none
    | none => none

/-- Does every engine that the mask names wait at a BAR with that mask (R97)? -/
def barrierMet (mask : Nat) (s : State) : Bool :=
  mask != 0 && (List.range 32).all fun m => !(mask.testBit m) || waitMask m s == some mask

/-- The start of the first BAR cycle of the last engine to arrive (R97). -/
def lastArrival (mask : Nat) (s : State) : Nat :=
  (List.range 32).foldl (fun t m => if mask.testBit m then max t (((s.veOf m).bar.map (·.2)).getD 0) else t) 0

/-- Is VEn at the boundary at which its barrier releases (R97)? -/
def releaseDue (n b : Nat) (s : State) : Bool :=
  match (s.veOf n).bar with
  | some (mask, _) => barrierMet mask s && Nat.ble (lastArrival mask s + 32 * ticksPerNs) b
  | none => false

/-- Is VEn RUNNING, with no HALT word's cycle to end its run (R102)? -/
def issuing (n : Nat) (s : State) : Bool := Nat.beq (veState n s) 3 && (s.veOf n).endAt.isNone

/-- Must something else come at boundary b before a cycle begins there: an ending, or a landing? -/
def blocked (n b : Nat) (s : State) : Bool :=
  let e := s.veOf n
  due e.haltAt b || due e.stopAt b || landDue n b s || (timedFault n b s).isSome || releaseDue n b s

/-- The APG word of a cycle consumed (04 R131, R132). -/
def consume (n b : Nat) (s : State) : State :=
  match (s.veOf n).fifo with
  | x :: rest =>
    let d := b - 18 * ticksPerNs
    ((s.bump 64 (VEN.APG_USED n)).modVe n fun e =>
      { e with fifo := rest, lastW := x.w, consumed := (e.consumed.filter fun t => Nat.ble d (t + 4 * 16384)) ++ [d] }).setBit
        (VEN.FLAGS n) 3 (x.w.testBit 127)
  | [] => s

/-- Pin data value d of a cycle (04 R111, R112). -/
def pinData (n w : Nat) (s : State) : Nat :=
  match wDsrc w with
  | 0 => wData w
  | 1 => (List.range 64).foldl (fun d p =>
      if xor ((s.veOf n).lastW.testBit (s.rd (VEN.APG_SEL n p))) ((wData w).testBit p) then d + 2 ^ p else d) 0
  | _ => s.rd (VEN.CONST n (wData w))

/-- The record of an issued cycle for FCP (08 R215 to R217). -/
def cycleRecord (n b w a : Nat) (masked : Bool) (found : List Strobe) (s : State) : CycRec :=
  let cs := found.filter fun x => x.compare
  let bad := if masked then [] else cs.filter fun x => x.bad
  { cyc := (s.veOf n).cyc, vec := (cs.map (·.ts)).foldl max b + 6 * ticksPerNs,
    fv := bad.foldl (fun f x => f ||| 2 ^ x.p) 0, chans := bad.map (·.c), mdrop := bad.any fun x => x.lost,
    apg := decide (wDsrc w = 1), addr := if wDsrc w = 1 then (s.veOf n).lastW % 2 ^ 48 else a, pc := a, tset := wTset w,
    site := s.rd (VEN.SITE_TAG n), mode := s.rd (FCP.MODE n), policy := s.rd (FCP.POLICY n), stopN := s.rd (FCP.STOP_N n),
    bmBase := s.rd (FCP.BM_BASE n), bmCfg := s.rd (FCP.BM_CFG n), amask := s.rd (FCP.BM_AMASK n),
    pmask := s.rd (FCP.BM_PMASK n) }

/-- A debug step counts the cycle, and its last one latches the halt at the boundary that ends it (19 R491). -/
def stepCount (n next : Nat) (s : State) : State :=
  match (s.tgtOf (1 + n)).left with
  | some 1 => (s.modVe n fun e => { e with haltAt := some next }).modTgt (1 + n) fun g => { g with left := none, pend := true }
  | some k => s.modTgt (1 + n) fun g => { g with left := some (k - 1) }
  | none => s

/-- The cycle of word w at address a begins at boundary b: its edges, strobes, compares and record (R85, 06 R173, 08
R215). -/
def issueCycle (n b w a : Nat) (smp : Samples) (s : State) : State :=
  let t := wTset w
  let s := brkMatch 2 (1 + n) (s.veOf n).cyc (s.rd (VEN.SITE_TAG n)) 0 s.now
    (brkMatch 1 (1 + n) a (s.rd (VEN.SITE_TAG n)) 0 s.now s)
  let s := if wDsrc w = 1 then consume n b s else s
  let masked := wMaskf w || (wDsrc w == 1 && (s.veOf n).lastW.testBit 126)
  let d := pinData n w s
  let r := strobeAll n t b d smp (inMap n s) s
  let s := (outMap n s).foldl (fun s e => driveOut n t b e.1 e.2 (d.testBit e.1) r.2 s) r.1
  let rec_ := cycleRecord n b w a masked r.2 s
  let s := s.modFcp n fun f => { f with cycles := f.cycles ++ [rec_] }
  let cyc := (s.veOf n).cyc
  let s := s.modVe n fun e =>
    { e with tset := t, word := w, cyc := cyc + 1,
             cmps := e.cmps ++ (r.2.filter fun x => x.compare).map fun x => (⟨x.ts, cyc, x.bad, masked⟩ : Cmp) }
  let s := (s.wr (VEN.PC n) a).bump 64 (VEN.CYCLES n)
  stepCount n (veBoundary n s) (s.modTgt (1 + n) fun g => { g with held := false })

/-- A word command of OPC opc for VEn: the decision for the next cycle, which then begins at its boundary, or the fault
the decision finds, then what the opcode does (act, with the word, its address, its boundary, and whether the cycle is the
word's first). A command of another OPC than the word's does nothing; a word of reserved OPC faults under VEC. -/
def wordCommand (n opc : Nat) (smp : Samples) (act : Nat → Nat → Nat → Bool → State → State) (s : State) : Out :=
  unitCmd n 32 <|
    let b := veBoundary n s
    if issuing n s = false ∨ blocked n b s = true then s
    else
      let r := decideNext n (s.upto (b - 18 * ticksPerNs))
      match r.2 with
      | .fault cause a => veFault n b cause a r.1
      | .word w a fresh =>
        if wOpc w ≠ opc then s
        else
          let s := if opc = 8 ∧ fresh then
              (r.1.setBit (VEN.FLAGS n) 1 false).modVe n fun e =>
                { e with clrf := e.cyc, failOff := if r.1.bit (VEN.FLAGS n) 1 then r.1.now else e.failOff }
            else r.1
          let s := issueCycle n b w a smp (markUsed n a (s.veOf n).cyc s)
          act w a b fresh (if fresh then s.modVe n fun e => { e with next := a + 1 } else s)

/-- What follows the cycle of a word (R85). -/
def setAfter (n : Nat) (x : After) (s : State) : State := s.modVe n fun e => { e with after := x }

/-- VEC: one cycle, then the next word. -/
def execVec (n : Nat) (smp : Samples) (s : State) : Out := wordCommand n 0 smp (fun _ _ _ _ s => s) s

/-- RPT: the word occupies N cycles, N = 0 meaning 2^32. -/
def execRpt (n : Nat) (smp : Samples) (s : State) : Out :=
  wordCommand n 1 smp (fun w _ _ fresh s => s.modVe n fun e =>
    { e with rptLeft := if fresh then (if wOperand w = 0 then 2 ^ 32 else wOperand w) - 1 else e.rptLeft - 1 }) s

/-- LDC: CTR[k] := V. -/
def execVeLdc (n : Nat) (smp : Samples) (s : State) : Out :=
  wordCommand n 2 smp (fun w _ _ _ s => s.wr (VEN.CTR n (wSel w)) (wOperand w)) s

/-- LOOP: CTR[k] := (CTR[k] - 1) mod 2^32; if the result is not zero, go to the target. -/
def execLoop (n : Nat) (smp : Samples) (s : State) : Out :=
  wordCommand n 3 smp (fun w _ _ _ s =>
    let v := (s.rd (VEN.CTR n (wSel w)) + (2 ^ 32 - 1)) % 2 ^ 32
    setAfter n (if v = 0 then .seq else .goto (wOperand w)) (s.wr (VEN.CTR n (wSel w)) v)) s

/-- JMP: go to the target. -/
def execVeJmp (n : Nat) (smp : Samples) (s : State) : Out :=
  wordCommand n 4 smp (fun w _ _ _ s => setAfter n (.goto (wOperand w)) s) s

/-- CALL: push address + 1, then go to the target. -/
def execCall (n : Nat) (smp : Samples) (s : State) : Out :=
  wordCommand n 5 smp (fun w a _ _ s =>
    setAfter n (.goto (wOperand w)) (s.modVe n fun e => { e with stack := e.stack ++ [a + 1] })) s

/-- RET: pop an address and go to it. -/
def execRet (n : Nat) (smp : Samples) (s : State) : Out :=
  wordCommand n 6 smp (fun _ _ _ _ s =>
    setAfter n (.goto ((s.veOf n).stack.getLastD 0)) (s.modVe n fun e => { e with stack := e.stack.dropLast })) s

/-- JC: if the condition holds at the decision for the cycle after, go to the target. -/
def execJc (n : Nat) (smp : Samples) (s : State) : Out :=
  wordCommand n 7 smp (fun w _ _ _ s => setAfter n (.jc (wSel w) (wOperand w)) s) s

/-- CLRF: clears FAIL at the decision for its cycle (R92). -/
def execClrf (n : Nat) (smp : Samples) (s : State) : Out := wordCommand n 8 smp (fun _ _ _ _ s => s) s

/-- MBEG: opens a match loop (R94). -/
def execMbeg (n : Nat) (smp : Samples) (s : State) : Out :=
  wordCommand n 9 smp (fun w a _ _ s =>
    (s.modVe n fun e => { e with loop := some ⟨e.cyc, if wOperand w = 0 then 2 ^ 32 else wOperand w, a + 1,
      [⟨e.cyc, none, false⟩]⟩ }).setBit (VEN.FLAGS n) 5 true) s

/-- MATCH: ends an iteration; the decision for the cycle after closes the loop or returns to its body (R94). -/
def execMatchEnd (n : Nat) (smp : Samples) (s : State) : Out :=
  wordCommand n 10 smp (fun _ _ _ _ s => setAfter n .matchEnd s) s

/-! Barriers (R96 to R98). -/

/-- The arrival of VEn at a barrier at instant t: the conditions of R96 and R98. -/
def arrive (n mask t : Nat) (s : State) : State :=
  let s := if mask.testBit n then s else barFail n t s
  let gone := (List.range 32).filter fun m => mask.testBit m && [0, 1, 5, 6, 7].contains (veState m s)
  let s := gone.foldl (fun s m =>
    (List.range 32).foldl (fun s k =>
      match waitMask k s with
      | some km => if k = n ∨ km.testBit m then barFail k t s else s
      | none => s) s) s
  (List.range 32).foldl (fun s m =>
    if m = n then s
    else
      let s := if mask.testBit m && (Nat.beq (veState m s) 3 || Nat.beq (veState m s) 4) && !(shareGrid n m t s) then
          failNaming n m t s
        else s
      match waitMask m s with
      | some km =>
        if (mask.testBit m || km.testBit n) && (km != mask || (km.testBit n && !(shareGrid n m t s))) then failNaming n m t s
        else s
      | none => s) s

/-- BAR: waits at a barrier, repeating its cycle (R96); the first cycle is the arrival. -/
def execBar (n : Nat) (smp : Samples) (s : State) : Out :=
  wordCommand n 11 smp (fun w _ b fresh s =>
    if fresh then
      let mask := wOperand w
      arrive n mask b ((s.modVe n fun e => { e with bar := some (mask, b) }).setBit (VEN.FLAGS n) 6 true)
    else s) s

/-- EVT words of VEn whose cycle has ended and that VEN.EVENTS has not taken over (R85). -/
def evtsEnded (n : Nat) (s : State) : Nat := ((s.veOf n).evts.filter fun t => Nat.ble t s.now).length
/-- VEN.EVENTS with them. -/
def eventsNow (n : Nat) (s : State) : Nat := min (s.rd (VEN.EVENTS n) + evtsEnded n s) (2 ^ 32 - 1)
/-- EVT words whose cycle has ended taken over into VEN.EVENTS. -/
def settleEvts (n : Nat) (s : State) : State :=
  (s.wr (VEN.EVENTS n) (eventsNow n s)).modVe n fun e => { e with evts := e.evts.filter fun t => Nat.blt s.now t }

/-- EVT: at the end of its cycle it raises EV(065 + 2n) and counts in VEN.EVENTS (R85, R110). -/
def execVeEvt (n : Nat) (smp : Samples) (s : State) : Out :=
  wordCommand n 12 smp (fun _ _ _ _ s =>
    let t := veBoundary n s
    ((settleEvts n s).modVe n fun e => { e with evts := e.evts ++ [t] }).raiseAt t (65 + 2 * n)) s

/-- HALT: DONE at the end of its cycle, and EV(064 + 2n) (R85, R102). One command begins the word's cycle, the next ends
it. -/
def execVeHaltWord (n : Nat) (smp : Samples) (s : State) : Out :=
  match veState n s, (s.veOf n).endAt with
  | 3, some h => unitCmd n 32 ((veStopAt n h 5 s).raise (64 + 2 * n))
  | _, _ => wordCommand n 13 smp (fun _ _ _ _ s => s.modVe n fun e => { e with endAt := some (veBoundary n s) }) s

/-- BARRIER_RELEASE: every engine of the mask waits with it and has come to its first boundary at or after ta + 32 ns;
each begins its next word there (R97). -/
def execBarrierRelease (mask : Nat) (s : State) : Out :=
  .next <|
    if barrierMet mask s && (List.range 32).all fun m =>
        !(mask.testBit m) || Nat.ble (lastArrival mask s + 32 * ticksPerNs) (veBoundary m s) then
      (List.range 32).foldl (fun s m =>
        if mask.testBit m then (s.modVe m fun e => { e with bar := none }).setBit (VEN.FLAGS m) 6 false else s) s
    else s

/-! Endings, landings and halts. -/

/-- The fault that falls on boundary b of VEn: one of cause 0x04 or 0x06, at the next word's address, or the fault that
the next word meets (R102, R105). -/
def faultAt (n b : Nat) (s : State) : State × Option (Nat × Nat) :=
  let r := decideNext n (s.upto (b - 18 * ticksPerNs))
  match r.2 with
  | .fault c a => (r.1, some ((timedFault n b s).getD c, a))
  | .word _ a _ => (r.1, (timedFault n b s).map fun c => (c, a))

/-- Can VEn stop at its next boundary b: it issues cycles, and no barrier that it waits at releases there first (R97; DEDUCED,
log entry 47)? -/
def endsAt (n b : Nat) (s : State) : Bool := issuing n s && !(releaseDue n b s)

/-- BARRIER_ERROR: VEn, RUNNING, faults with cause 0x06 at its first boundary at or after detection + 20 ns (R98). -/
def execBarrierError (n : Nat) (s : State) : Out :=
  unitCmd n 32 <|
    let b := veBoundary n s
    if endsAt n b s = true ∧ due (s.veOf n).barErr b = true then
      let r := faultAt n b s
      veFault n b 6 ((r.2.map (·.2)).getD 0) r.1
    else s

/-- PATTERN_TIMEOUT: VEN.PTO_LEFT has reached zero; VEn faults with cause 0x04 (R106). -/
def execPatternTimeout (n : Nat) (s : State) : Out :=
  unitCmd n 32 <|
    let b := veBoundary n s
    if endsAt n b s = true ∧ timedFault n b s = some 4 then
      let r := faultAt n b s
      veFault n b 4 ((r.2.map (·.2)).getD 0) r.1
    else s

/-- VE_HALT_TAKES_EFFECT: at H the engine is HALTED, unless a fault or a STOP falls on the same boundary (R102). -/
def execVeHaltTakesEffect (n : Nat) (s : State) : Out :=
  unitCmd n 32 <|
    let b := veBoundary n s
    if endsAt n b s = true ∧ due (s.veOf n).haltAt b = true then
      match faultAt n b s with
      | (r, some (c, a)) => veFault n b c a r
      | (_, none) =>
        if due (s.veOf n).stopAt b then (veStopAt n b 5 s).raise (64 + 2 * n)
        else
          let dbg := (s.tgtOf (1 + n)).pend
          let s := (veStopAt n b 4 s).raise (65 + 2 * n)
          if dbg then (s.modTgt (1 + n) fun g => { g with pend := false, held := true }).flag DBG.EVFLAGS 1 497 else s
    else s

/-- VE_STOP_TAKES_EFFECT: at H the engine is DONE, unless a fault falls on the same boundary; a HALTED engine has issued
no further cycle (R72, R102). -/
def execVeStopTakesEffect (n : Nat) (s : State) : Out :=
  unitCmd n 32 <|
    match (s.veOf n).stopAt with
    | none => s
    | some th =>
      if issuing n s then
        let b := veBoundary n s
        if th ≤ b ∧ releaseDue n b s = false then
          match faultAt n b s with
          | (r, some (c, a)) => veFault n b c a r
          | (_, none) => (veStopAt n b 5 s).raise (64 + 2 * n)
        else s
      else if veState n s = 4 then (veStopAt n (veGridFrom n th s) 5 s).raise (64 + 2 * n)
      else s

/-- VE_RESUME_LANDS: the engine runs again from the first boundary of its unchanged grid at or after tr + 64 ns, and is RUNNING
there (R103; DEDUCED, log entry 47); a frozen pattern timeout of fewer than 65,536 clocks is first raised to that (R106). An engine that
was HALTED while it waited at a BAR arrives anew at the boundary of its resume: that boundary is its ta (R97, R98; DESIGN CHOICE, log
entry 47). -/
def execVeResumeLands (n : Nat) (s : State) : Out :=
  unitCmd n 32 <|
    match (s.veOf n).resumeAt with
    | some tr =>
      if veState n s = 4 then
        let b := veGridFrom n tr s
        let s := s.upto b
        let left := max (s.rd (VEN.PTO_LEFT n)) 65536
        let s := s.modVe n fun e =>
          { e with resumeAt := none, runOn := b, base := b, cyc0 := e.cyc, bar := e.bar.map fun x => (x.1, b),
                   ptoEnd := if e.limited then some ((b / 8192 + left) * 8192) else none }
        let s := veEnter n 3 s
        match (s.veOf n).bar with
        | some x => arrive n x.1 b s
        | none => s
      else s
    | none => s

/-- APPLY_LANDS_RUNNING: at B the changes of a batch to the running engine take effect (R100). -/
def execApplyLandsRunning (n : Nat) (s : State) : Out :=
  unitCmd n 32 <|
    let b := veBoundary n s
    if issuing n s = true ∧ landDue n b s = true then landTo n b b (s.upto (b - 18 * ticksPerNs)) else s

/-! Commands of VEN.CTRL (R72). -/

/-- The engine is in none of these states. -/
def notIn (l : List Nat) (n : Nat) (s : State) : Bool × Nat := (!(l.contains (veState n s)), 9)

/-- ENABLE: READY, with the park state of VEN.PARK_TSET (R71, R182), which the pins take at the acknowledgement (06 R171 gives
2 us; DESIGN CHOICE, log entry 44). -/
def veEnableEff (n : Nat) (s : State) : State :=
  veEnter n 1 (parkEngine n s.now (s.modVe n fun e => { e with tset := s.rd (VEN.PARK_TSET n) }))
/-- DISABLE: DISABLED, every owned channel off (06 R169, R171), at the acknowledgement (DESIGN CHOICE, log entry 44). -/
def veDisableEff (n : Nat) (s : State) : State :=
  barrierLeft n s.now (veEnter n 0 ((outMap n s).foldl (fun s e => offAt e.2 s.now s) s))
/-- The entry of the start schedule held by VEn freed (R79). -/
def schedFree (dsp : Bool) (n : Nat) (s : State) : State :=
  { s with sched := s.sched.filter fun e => !(e.dsp == dsp && e.n == n) }
/-- START. -/
def veStartConds (n : Nat) (s : State) : List (Bool × Nat) := notIn [1, 5] n s :: startConds n s.rd s
/-- START: ARMED. -/
def veStartEff (n : Nat) (s : State) : State :=
  engineChanged n (veArm n 0 (s.rd (VEN.PARK_TSET n)) (s.rd (VEN.BUF_MODE n)) s)
/-- START_AT (R78). -/
def veStartAtConds (n : Nat) (s : State) : List (Bool × Nat) :=
  veStartConds n s ++
    [ (!(timeValid s), 7), (decide (ofTime128 (s.rd (VEN.START_AT n)) < netNow s + 10000 * 2 ^ 32), 4),
      (Nat.ble 32 s.sched.length, 8) ]
/-- START_AT: ARMED, with an entry of the start schedule (R79). -/
def veStartAtEff (n : Nat) (s : State) : State :=
  let s := veArm n 1 (s.rd (VEN.PARK_TSET n)) (s.rd (VEN.BUF_MODE n)) s
  engineChanged n (({ s with sched := s.sched ++ [(⟨false, n, ofTime128 (s.rd (VEN.START_AT n))⟩ : Sched)] }).setBit (VEN.FLAGS n) 7 true)
/-- HALT latched at the engine clock edge of its acknowledgement (R102). -/
def veHaltEff (n : Nat) (s : State) : State := s.modVe n fun e => { e with haltAt := earlier e.haltAt (stopFrom s.now) }
/-- RESUME: refused while a STOP is pending (R72). -/
def veResumeConds (n : Nat) (s : State) : List (Bool × Nat) := [notIn [4] n s, ((s.veOf n).stopAt.isSome, 9)]
/-- A resume latched at the engine clock edge of its acknowledgement (R103). -/
def veGoOn (n : Nat) (s : State) : State :=
  s.modVe n fun e => { e with resumeAt := earlier e.resumeAt (engEdge s.now + 64 * ticksPerNs) }
/-- RESUME given through VEN.CTRL: it ends a hold by debug (19 R475). -/
def veResumeEff (n : Nat) (s : State) : State := (veGoOn n s).modTgt (1 + n) fun g => { g with left := none, held := false }
/-- STOP: from ARMED the state held before, else latched (R72, R102). A return to DONE or FAULT is no entering and raises no
event (DESIGN CHOICE, log entry 41). -/
def veStopEff (n : Nat) (s : State) : State :=
  if veState n s = 2 then
    let s := (schedFree false n s).setBit (VEN.FLAGS n) 7 false
    let p := (s.veOf n).prior
    barrierLeft n s.now (veEnter n p (s.modVe n fun e =>
      { e with start := none, offAt := s.now, stale := e.stale ++ e.inflight, inflight := [] }))
  else s.modVe n fun e => { e with stopAt := earlier e.stopAt (stopFrom s.now), resumeAt := none }
/-- CLEAR_FAULT: READY; the pins stay (R71, R182). -/
def veClearFaultEff (n : Nat) (s : State) : State := veEnter n 1 s
/-- SELFCHECK: CHECKING (R107). -/
def veSelfcheckEff (n : Nat) (s : State) : State := veEnter n 7 (s.modVe n fun e => { e with prior := veState n s })

/-- VE_ENABLE. -/
def execVeEnable (q : Req) (n : Nat) (s : State) : Out :=
  unitCmd n 32 (command q (VEN.CTRL n) 1 [notIn [0] n s] (veEnableEff n) s)
/-- VE_DISABLE. -/
def execVeDisable (q : Req) (n : Nat) (s : State) : Out :=
  unitCmd n 32 (command q (VEN.CTRL n) 2 [notIn [1, 5, 6] n s] (veDisableEff n) s)
/-- VE_START. -/
def execVeStart (q : Req) (n : Nat) (s : State) : Out :=
  unitCmd n 32 (command q (VEN.CTRL n) 3 (veStartConds n s) (veStartEff n) s)
/-- VE_START_AT. -/
def execVeStartAt (q : Req) (n : Nat) (s : State) : Out :=
  unitCmd n 32 (command q (VEN.CTRL n) 4 (veStartAtConds n s) (veStartAtEff n) s)
/-- VE_HALT. -/
def execVeHalt (q : Req) (n : Nat) (s : State) : Out :=
  unitCmd n 32 (command q (VEN.CTRL n) 5 [notIn [3] n s] (veHaltEff n) s)
/-- VE_RESUME. -/
def execVeResume (q : Req) (n : Nat) (s : State) : Out :=
  unitCmd n 32 (command q (VEN.CTRL n) 6 (veResumeConds n s) (veResumeEff n) s)
/-- VE_STOP. -/
def execVeStop (q : Req) (n : Nat) (s : State) : Out :=
  unitCmd n 32 (command q (VEN.CTRL n) 7 [notIn [2, 3, 4] n s] (veStopEff n) s)
/-- VE_CLEAR_FAULT. -/
def execVeClearFault (q : Req) (n : Nat) (s : State) : Out :=
  unitCmd n 32 (command q (VEN.CTRL n) 8 [notIn [6] n s] (veClearFaultEff n) s)
/-- VE_SELFCHECK. -/
def execVeSelfcheck (q : Req) (n : Nat) (s : State) : Out :=
  unitCmd n 32 (command q (VEN.CTRL n) 9 [notIn [1, 5, 6] n s] (veSelfcheckEff n) s)

/-- VE_SELFCHECK_END: the result, and the state held before (R107); the return to DONE or FAULT raises no event beside that of
the check's end (DESIGN CHOICE, log entry 41). -/
def execVeSelfcheckEnd (n : Nat) (pass : Bool) (s : State) : Out :=
  unitCmd n 32 <|
    if veState n s = 7 then
      (veEnter n (s.veOf n).prior (s.wr (VEN.SELFCHECK n) (if pass then 1 else 2))).raise (65 + 2 * n)
    else s

/-! The fill and the prefetcher (04 R120 to R126). -/

/-- Where the predicted path goes from word address a with the stack, and how many words of its line remain: a JMP or CALL
to its target, a RET to the top of the stack, else on (04 R120). With an empty stack the path goes on behind a RET, and a
17th push drops the oldest entry (DESIGN CHOICES, log entry 42). -/
def pathInLine (n slot : Nat) (s : State) : (left a : Nat) → List Nat → Nat × List Nat
  | 0, a, st => (a, st)
  | k + 1, a, st =>
    let w := memRead s.mem (bufAddr n + 256 * slot + 16 * (a % 16)) 16
    if wOpc w = 4 then (wOperand w, st)
    else if wOpc w = 5 then (wOperand w, (st ++ [a + 1]).drop (st.length + 1 - 16))
    else if wOpc w = 6 ∧ st ≠ [] then (st.getLastD 0, st.dropLast)
    else pathInLine n slot s k (a + 1) st

/-- The lines of the predicted path from address a on, at most k of them; a line whose read has not completed is taken to
hold no transfer (04 R120), and so is one whose read met an error (DESIGN CHOICE, log entry 42). -/
def pathLines (n : Nat) (s : State) : (k a : Nat) → List Nat → List Nat
  | 0, _, _ => []
  | k + 1, a, st =>
    let r := match bufLine n (a / 16) s with
      | some l => if l.bad then (a / 16 * 16 + 16, st) else pathInLine n l.slot s (16 - a % 16) a st
      | none => (a / 16 * 16 + 16, st)
    a / 16 :: pathLines n s k r.1 r.2

/-- A setting of the buffer of VEn as its run uses it: an apply start is armed with the staged values (R81). -/
def fillVal (n k : Nat) (s : State) : Nat := if veState n s = 2 ∧ (s.veOf n).armKind = 2 then afterBatch s k else s.rd k

/-- Where the predicted path goes on from the word most recently decided: to the target of a JMP, CALL or RET, else to the
next word (04 R120). -/
def pathAfter (n : Nat) (s : State) : Nat :=
  let e := s.veOf n
  match e.after with
  | .goto t => if wOpc e.word = 3 then s.rd (VEN.PC n) + 1 else t
  | _ => s.rd (VEN.PC n) + 1

/-- The line of the word most recently decided and the lines ahead of it that the engine wants (04 R120, R124): before
cycle 0, from VEN.ENTRY on with an empty shadow stack. -/
def wantedLines (n : Nat) (s : State) : List Nat :=
  let k := fillVal n (VEN.AHEAD n) s
  match fillVal n (VEN.BUF_MODE n) s with
  | 0 =>
    if veState n s = 2 ∨ (s.veOf n).cyc = 0 then pathLines n s (k + 1) (fillVal n (VEN.ENTRY n) s) []
    else
      let l := s.rd (VEN.PC n) / 16
      let p := pathLines n s (k + 1) (pathAfter n s) (s.veOf n).stack
      if p.head? = some l then p else l :: p.take k
  | 1 => if veLive n s then List.range 512 else []
  | _ => []

/-- The next line to read, if any: wanted, neither in the buffer nor in flight. -/
def nextLine (n : Nat) (s : State) : Option Nat :=
  (wantedLines n s).find? fun l => (bufLine n l s).isNone && !((s.veOf n).inflight.any fun x => Nat.beq x.1 l)

/-- LINE_READ_ISSUE: the next line of the predicted path is read in class C0, at most 32 in flight (04 R120, R122). -/
def execLineReadIssue (n : Nat) (s : State) : Out :=
  unitCmd n 32 <|
    if veLive n s ∧ (s.veOf n).inflight.length + (s.veOf n).stale.length < 32 then
      match nextLine n s with
      | some l =>
        let a := fillVal n (VEN.PROG_BASE n) s + 256 * l
        meshSend ⟨.read, .veLine n l, veNode n, 0, a, 256, 0⟩
          ((s.bump 64 (VEN.REFILL_ISSUED n)).modVe n fun e => { e with inflight := e.inflight ++ [(l, a)] })
      | none => s
    else s

/-- The slot a newly read line takes: a free one, else that of the line outside the ahead window from which the engine
least recently decided a word (04 R120). A line from which no word was decided counts as least recent, the earliest arrival
first; of free slots the lowest is taken (DESIGN CHOICE, log entry 42). -/
def slotFor (n line : Nat) (s : State) : Nat :=
  let e := s.veOf n
  if fillVal n (VEN.BUF_MODE n) s = 1 then line
  else match (List.range 512).find? fun k => !(e.lines.any fun l => Nat.beq l.slot k) with
    | some k => k
    | none =>
      let win := wantedLines n s
      let out := e.lines.filter fun l => !(win.contains l.line)
      match out with
      | [] => 0
      | l :: ls => (ls.foldl (fun m x => if x.used < m.used then x else m) l).slot

/-- A line read of VEn answered (04 R121, R126): its data enters the buffer, or is discarded when the run it was for has
ended. -/
def lineDone (n line : Nat) (x : MeshResp) (s : State) : State :=
  let s := (respTaken x s).bump 64 (VEN.REFILL_DONE n)
  if (s.veOf n).stale.contains (line, x.req.addr) then
    s.modVe n fun e => { e with stale := e.stale.erase (line, x.req.addr) }
  else
    let slot := slotFor n line s
    let s := if x.kind = 0 then { s with mem := memWrite s.mem (bufAddr n + 256 * slot) 256 x.data } else s
    let s := s.modVe n fun e =>
      { e with inflight := e.inflight.filter fun y => !(Nat.beq y.1 line),
               lines := (e.lines.filter fun l => !(Nat.beq l.slot slot)) ++ [(⟨line, slot, 0, x.kind != 0⟩ : BufLine)] }
    if veState n s = 2 then s.modVe n fun e => { e with fillEnd := s.now } else s

/-- Is the fill of an arm complete (04 R124)? -/
def fillDone (n : Nat) (s : State) : Bool := (nextLine n s).isNone && (s.veOf n).inflight.isEmpty

/-- The start edge of an ARMED engine, if known (R76). -/
def startEdge (n : Nat) (s : State) : Option Nat :=
  let e := s.veOf n
  if e.armKind = 0 then
    if fillDone n s then some (engEdge (max (e.armAt + ticksPerUs) e.fillEnd)) else none
  else e.start

/-- What starts at edge S of VEn (R77, R106, 08 R243). LATE speaks of the last START_AT: another start leaves it (R109). -/
def veBegin (n edge : Nat) (s : State) : State :=
  let s := s.upto edge
  let t0 := if timeValid s then toTime128 (netAt s edge + 64 * 2 ^ 32) else 0
  let late := if (s.veOf n).armKind = 1 then (s.veOf n).late else s.bit (VEN.FLAGS n) 8
  let failed := s.bit (VEN.FLAGS n) 1
  let s := ((((s.wr (VEN.T0 n) t0).wr (VEN.PTO_LEFT n) (s.rd (VEN.PTO n))).wr (VEN.CYCLES n) 0).wr (VEN.EVENTS n) 0).wr (VEN.FLAGS n)
    (if late then 2 ^ 8 else 0)
  let s := (List.range 16).foldl (fun s k => s.wr (VEN.CTR n k) 0) s
  let s := s.modVe n fun e =>
    { e with next := s.rd (VEN.ENTRY n), after := .seq, rptLeft := 0, stack := [], loop := none, clrf := 0,
             base := edge + 64 * ticksPerNs, cyc0 := 0, cyc := 0, lastXfer := none, cmps := [], bar := none,
             barErr := none, start := none, evts := [], runOn := edge,
             failOff := if failed then edge else e.failOff,
             limited := s.rd (VEN.PTO n) != 0,
             ptoEnd := if s.rd (VEN.PTO n) = 0 then none else some (edge + s.rd (VEN.PTO n) * 8192) }
  let s := ((s.wr (FCP.RUN_FAILS n) 0).wr (FCP.STOPPED_BY n) 0).modFcp n fun f => { f with capped := false, dropped := false }
  let s := s.wr (VEN.START_ON_APPLY n) 0
  (regrid n edge (veEnter n 3 s)).raise (65 + 2 * n)

/-- VE_START_EDGE: the ARMED engine starts at its edge S. -/
def execVeStartEdge (n : Nat) (s : State) : Out :=
  unitCmd n 32 <|
    if veState n s = 2 then
      match startEdge n s with
      | some e => veBegin n e s
      | none => s
    else s

end Sys2Proof.Machine
end

