-- ==== Sys2Proof/Machine/Fab.lean ====
section
/-! DEFINITION. The word-cell fabric: cells, routing, facets, APG ports (05_fabric.md R139 to R163, 04 R127 to R132). The
clock of a cell runs when a command updates it: the cell commands of one FAB edge all compute from what was held before
it (log entry 22). -/
namespace Sys2Proof.Machine

/-- One FAB clock period in ticks. -/
abbrev fabClk : Nat := 16384

/-- Facet of the cell at column c, row r (R140). -/
def facetAt (c r : Nat) : Nat := r / 64 * 4 + c / 64
/-- Is FACETf released? -/
def released (f : Nat) (s : State) : Bool := s.bit FAB.RELEASED f
/-- Key of a cell. -/
def cellKey (c r : Nat) : Nat := r * 256 + c
/-- Column of local column u of FACETf. -/
def colOf (f u : Nat) : Nat := f % 4 * 64 + u
/-- Row of local row v of FACETf. -/
def rowOf (f v : Nat) : Nat := f / 4 * 64 + v
/-- Configuration of a cell; an unlisted cell holds zeros. -/
def cfgOf (k : Nat) (s : State) : CellCfg := Tab.get (fun _ => ⟨[], false, false, 0, 0#16, 0#16, 0#16⟩) s.cellCfg k
/-- The registers of a held cell (R146). -/
def heldRegs (k : Nat) (s : State) : Regs := ⟨(cfgOf k s).a0, (cfgOf k s).b0, (cfgOf k s).q0, false⟩

/-- What a cell held just before instant e. -/
def regsBefore (k e : Nat) (s : State) : Regs :=
  match Tab.get (fun _ => none) s.cells k with
  | none => heldRegs k s
  | some c => if c.edge < e then c.cur else if c.edge1 < e then c.old else c.old2

/-- What a cell holds now. -/
def regsNow (k : Nat) (s : State) : Regs :=
  match Tab.get (fun _ => none) s.cells k with
  | none => heldRegs k s
  | some c => c.cur

/-- Does the clock of FACETf run: its gate is open, or closes and still waits (R155, 15 R401)? -/
def clocked (f : Nat) (s : State) : Bool := Nat.beq (s.rd (CRH.GATE_STATE f)) 1 || Nat.beq (s.rd (CRH.GATE_STATE f)) 2

/-- The bit that is set, if exactly one is (R149, R151). -/
def oneHot (w n : Nat) : Option Nat :=
  match (List.range n).filter fun i => w.testBit i with
  | [i] => some i
  | _ => none

/-- Is w a select that the loader accepts: exactly one bit set (R150)? -/
def selOk (w : Nat) : Bool := (oneHot w 32).isSome && decide (w < 2 ^ 32)

/-! The APG port of a facet towards it (04 R129, 05 R153). -/

/-- APG_ARM in the cycle that ends at edge e: from the first FAB edge at or after the arm to the first at or after DONE, FAULT
or READY. -/
def apgArm (n e : Nat) (s : State) : Bool :=
  Nat.ble (fabEdge (s.veOf n).armAt + fabClk) e
    && ([2, 3, 4].contains (s.rd (VEN.STATE n)) || (Nat.blt (s.veOf n).armAt (s.veOf n).offAt && Nat.ble e (fabEdge (s.veOf n).offAt)))
/-- APG_FREE at the start of the cycle that ends at edge e: words consumed within the cycle still count. -/
def apgFree (n e : Nat) (s : State) : Nat :=
  256 - (((s.veOf n).fifo.filter fun x => Nat.ble (x.edge + fabClk) e).length
    + ((s.veOf n).consumed.filter fun d => Nat.ble e (d + fabClk)).length)
/-- APG_CNT as the port samples it before edge e; 0 for a held or gated facet (R155, R158), a value above 8 counts as 8. -/
def apgCnt (f e : Nat) (s : State) : Nat :=
  if released f s && clocked f s then
    min 8 ((regsBefore (cellKey (colOf f 0) (rowOf f 1)) e s).q.toNat % 16)
  else 0
/-- APG_TAKEN in the cycle that ends at edge e. -/
def apgTaken (n e : Nat) (s : State) : Nat := if apgArm n e s then min (apgCnt n e s) (apgFree n e s) else 0
/-- APG_CONSUMED: words consumed by cycles decided in the FAB clock before the one that ends at edge e. -/
def apgConsumed (n e : Nat) (s : State) : Nat :=
  ((s.veOf n).consumed.filter fun d => Nat.ble e (d + 2 * fabClk) && Nat.blt (d + fabClk) e).length

/-- APG_RUN as the port drives it at instant t: the engine is RUNNING. -/
def apgRun (n t : Nat) (s : State) : Bool :=
  if Nat.beq (s.rd (VEN.STATE n)) 3 then Nat.ble (s.veOf n).runOn t else Nat.ble (s.veOf n).runOn t && Nat.blt t (s.veOf n).runOff
/-- APG_FAIL as the port drives it at instant t: FAIL, with the compares that have become known by then (03 R92). -/
def apgFail (n t : Nat) (s : State) : Bool :=
  let e := s.veOf n
  (e.cmps.any fun c => c.bad && !c.masked && Nat.ble e.clrf c.cyc && Nat.ble (c.ts + 6 * ticksPerNs) t)
    || (if s.bit (VEN.FLAGS n) 1 then Nat.ble e.failOn t || Nat.blt t e.failOff else Nat.ble e.failOn t && Nat.blt t e.failOff)
/-- APG_SITE as the port drives it at instant t. -/
def apgSite (n t : Nat) (s : State) : Nat := if t < (s.veOf n).siteAt then (s.veOf n).siteOld else s.rd (VEN.SITE_TAG n)

/-! Sources of a multiplexer (R149, R153). -/

/-- Broadcast word i of FACETf before edge e. -/
def bcastW (f i e : Nat) (s : State) : W16 :=
  BitVec.ofNat 16 (match i with
    | 0 => apgTaken f e s | 1 => apgFree f e s | 2 => apgConsumed f e s | _ => apgSite f (e - fabClk) s)
/-- Broadcast control i of FACETf before edge e. -/
def bcastC (f i e : Nat) (s : State) : Bool :=
  match i with
  | 0 => apgArm f e s
  | 1 => apgRun f (e - fabClk) s
  | 2 => apgFail f (e - fabClk) s
  | _ => Nat.blt (s.facetOf f).userLand e && Nat.ble e ((s.facetOf f).userLand + fabClk)

/-- The neighbouring facet on a side (0 north, 1 east, 2 south, 3 west), if there is one (R140). -/
def besideOf (f side : Nat) : Option Nat :=
  match side with
  | 0 => if f ≤ 27 then some (f + 4) else none
  | 1 => if f % 4 = 3 then none else some (f + 1)
  | 2 => if 4 ≤ f then some (f - 4) else none
  | _ => if f % 4 = 0 then none else some (f - 1)

/-- The boundary side whose port taps local cell (u, v), with the position along it: the manual does not place the ports.
Word ports are taken at positions 31 to 62 of each side, control ports at 3 to 62 to the east and west, outside local rows 0 to
2, and at 0 to 63 to the north and south (log entry 23). -/
def boundaryOf (word : Bool) (u v : Nat) : Option (Nat × Nat) :=
  let side := fun p => if word then Nat.ble 31 p && Nat.ble p 62 else Nat.ble 3 p && Nat.ble p 62
  let row := fun p => !word || (Nat.ble 31 p && Nat.ble p 62)
  if u = 63 ∧ side v then some (1, v)
  else if u = 0 ∧ side v then some (3, v)
  else if v = 63 ∧ row u then some (0, u)
  else if v = 0 ∧ row u then some (2, u)
  else none

/-- Key of the cell of FACETf that faces position p of a side of its neighbour, seen from the neighbour's side. -/
def facingKey (f side p : Nat) : Nat :=
  match side with
  | 0 => cellKey (colOf f p) (rowOf f 0)
  | 1 => cellKey (colOf f 0) (rowOf f p)
  | 2 => cellKey (colOf f p) (rowOf f 63)
  | _ => cellKey (colOf f 63) (rowOf f p)

/-- The clamp constant that the manifest of FACETf declares for a port (R158): side x 256 + position of a word port, 128
more for a control port; 1024 + k for GIO pin k of its bank, where 2 is high impedance. -/
def clampOf (f port : Nat) (s : State) : Nat :=
  match (s.facetOf f).man.clamps.find? fun e => Nat.beq e.1 port with
  | some e => e.2
  | none => 0

/-- The FAB edge at which the boundary outputs of FACETf that stand before edge e were registered: one clock earlier; while its
clock gate is closed they hold (R152, R155). -/
def boundaryEdge (f e : Nat) (s : State) : Nat :=
  let t := e - fabClk
  let last := (s.facetOf f).gateOff / fabClk * fabClk
  if last < t ∧ 0 < (s.facetOf f).gateOff ∧ ((s.facetOf f).gateOn < (s.facetOf f).gateOff ∨ t < fabEdge (s.facetOf f).gateOn) then last
  else t

/-- The word at a boundary port before edge e: what the facing cell held one FAB clock earlier, or the clamp of a held
facet (R152, R158). -/
def boundaryW (f side p e : Nat) (s : State) : W16 :=
  match besideOf f side with
  | none => 0#16
  | some g =>
    if released g s then (regsBefore (facingKey g side p) (boundaryEdge g e s) s).q
    else BitVec.ofNat 16 (clampOf g ((side + 2) % 4 * 256 + p) s)
/-- The same for a control port. -/
def boundaryC (f side p e : Nat) (s : State) : Bool :=
  match besideOf f side with
  | none => false
  | some g =>
    if released g s then (regsBefore (facingKey g side p) (boundaryEdge g e s) s).f
    else decide (clampOf g ((side + 2) % 4 * 256 + 128 + p) s = 1)

/-- FAB.USER_IN member m of FACETf before edge e (R161). -/
def userIn (f m e : Nat) (s : State) : Nat :=
  if (s.facetOf f).userLand < e then s.rd (FAB.USER_IN f m) else (s.facetOf f).userOld.getD m (s.rd (FAB.USER_IN f m))

/-- The pane of FACETf whose port cell is local cell (u, v), and which of K0, K1, K2 it is (10 R277). -/
def paneAt (f u v : Nat) : Option (Nat × Nat) :=
  if v % 8 = 4 ∧ 2 ≤ u ∧ (u - 2) % 10 < 3 ∧ (u - 2) / 10 < 6 then some (48 * f + 6 * (v / 8) + (u - 2) / 10, (u - 2) % 10)
  else none

/-- The taps of a pane before edge e; while it does not serve the fabric they show it busy, empty and full (10 R289,
R292). -/
def tapsBefore (p e : Nat) (s : State) : Taps :=
  if s.rd (PAN.STATE p) = 0 then (if (s.paneOf p).edge < e then (s.paneOf p).taps else (s.paneOf p).old)
  else ⟨0, true, 0, s.rd (PAN.MODE p) = 1⟩

/-- What the part drives on GIO pin k of the bank of FACETf before edge e: 0, 1, or 2 for high impedance. Output and
output-enable registers took Q[0] and Q[1] of local cell (62, 4k + 3) one FAB clock earlier; a held facet drives its clamp, and
before its first release after a full load nothing (R153, R158, R160). While VIO of the bank is below 90 % of nominal it drives
nothing (22 R529); in a test of the TAP the boundary cells drive (19 R478). -/
def gioDrive (f k e : Nat) (s : State) : Nat :=
  let i := 16 * (f - 22) + k
  if s.pins.vioLow.testBit (f - 22) then 2
  else if let some b := pinTest s then (if b.gioEn.testBit i then flagBit (b.gio.testBit i) else 2)
  else if (s.facetOf f).ever = false then 2
  else if released f s then
    let q := (regsBefore (cellKey (colOf f 62) (rowOf f (4 * k + 3))) (boundaryEdge f e s) s).q
    if q.getLsbD 1 then (if q.getLsbD 0 then 1 else 0) else 2
  else ((s.facetOf f).man.clamps.find? fun c => Nat.beq c.1 (1024 + k)).elim 2 (·.2)
/-- Weak pull on the pins of the bank of FACETf: the code of its PULLSEL strap, before the first release after a full load; none
while VIO of the bank is below 90 % of nominal (R160, 22 R529). -/
def gioPull (f : Nat) (s : State) : Option Nat :=
  if (s.facetOf f).ever || s.pins.vioLow.testBit (f - 22) then none else some (s.pins.pull / 4 ^ (f - 22) % 4)
/-- Level of GIO pin k of that bank before edge e: the driven one, else the one the outside drives, else that of the weak pull; a
bus keeper, and a pin that nothing drives, leave it as it was (R160, 22 R529). -/
def gioLevel (f k e : Nat) (s : State) : Bool :=
  let i := 16 * (f - 22) + k
  match gioDrive f k e s with
  | 0 => false
  | 1 => true
  | _ =>
    match s.pins.gioZ.testBit i, gioPull f s with
    | true, some 0 => false
    | true, some 1 => true
    | _, _ => s.pins.gio.testBit i

/-- Word tap P1 of local cell (u, v) before edge e: pane, USER_IN or GIO input register (R153, R160). -/
def tapP1w (f u v e : Nat) (s : State) : W16 :=
  match paneAt f u v with
  | some (p, k) => BitVec.ofNat 16 (match k with | 0 => (tapsBefore p e s).w0 | 1 => (tapsBefore p e s).w1 | _ => 0)
  | none =>
    if v = 1 ∧ u < 16 then BitVec.ofNat 16 (Dict.bitsOf (userIn f (u / 4) e s) (16 * (u % 4) + 15) (16 * (u % 4)))
    else if u = 62 ∧ v % 4 = 3 ∧ 22 ≤ f then
      BitVec.ofNat 16 (if gioLevel f (v / 4) (boundaryEdge f e s) s then 1 else 0)
    else 0#16
/-- Control tap P1. -/
def tapP1c (f u v e : Nat) (s : State) : Bool :=
  match paneAt f u v with
  | some (p, k) => (match k with | 0 => (tapsBefore p e s).c0 | 1 => (tapsBefore p e s).c1 | _ => false)
  | none => false
/-- Word tap P0: boundary ports. -/
def tapP0w (f u v e : Nat) (s : State) : W16 :=
  match boundaryOf true u v with
  | some (side, p) => boundaryW f side p e s
  | none => 0#16
/-- Control tap P0: fabric event lines and boundary ports. -/
def tapP0c (f u v e : Nat) (s : State) : Bool :=
  if v = 1 ∧ u < 8 then s.fev.any fun x => Nat.beq x.1 u && Nat.blt x.2 e && Nat.ble e (x.2 + fabClk)
  else match boundaryOf false u v with
    | some (side, p) => boundaryC f side p e s
    | none => false

/-- Key of a routing track: facet, kind (0, 1 short word and control tracks of a row, 2, 3 long ones, 4 to 7 the same of a
column), line, track and segment. The manual gives no layout (log entry 24). -/
def trackKey (f kind line t seg : Nat) : Nat := (((f * 8 + kind) * 64 + line) * 16 + t) * 17 + seg

/-- The cell a short track segment takes its value from, at position x along the line: the one-hot select names one of
the four cells of the segment (R149, log entry 24). -/
def shortFrom (f kind line t x : Nat) (s : State) : Option Nat :=
  let seg := (x + t % 4) / 4
  match oneHot (Tab.get (fun _ => 1) s.tracks (trackKey f kind line t seg)) 4 with
  | some i => if t % 4 ≤ 4 * seg + i ∧ 4 * seg + i - t % 4 < 64 then some (4 * seg + i - t % 4) else none
  | none => none

/-- The cell a long track takes its value from: any of the line (R149). -/
def longFrom (f kind line t : Nat) (s : State) : Option Nat :=
  oneHot (Tab.get (fun _ => 1) s.tracks (trackKey f kind line t 0)) 64

/-- The key of the cell that select bit b of an input of local cell (u, v) names, where it names a cell by a direct link or
a track (R149). Of the 16 short control tracks of a line, tracks 0 to 7 feed control inputs (DESIGN CHOICE, log entry 43). -/
def cellSource (word : Bool) (f u v b : Nat) (s : State) : Option Nat :=
  let at' := fun x y => cellKey (colOf f x) (rowOf f y)
  let w := if word then 0 else 1
  if b = 1 then some (at' u v)
  else if b = 2 then (if v = 63 then none else some (at' u (v + 1)))
  else if b = 3 then (if u = 63 then none else some (at' (u + 1) v))
  else if b = 4 then (if v = 0 then none else some (at' u (v - 1)))
  else if b = 5 then (if u = 0 then none else some (at' (u - 1) v))
  else if b ≤ 13 then (shortFrom f w v (b - 6) u s).map fun x => at' x v
  else if b ≤ 21 then (shortFrom f (4 + w) u (b - 14) v s).map fun y => at' u y
  else if b ≤ 23 then (longFrom f (2 + w) v (b - 22) s).map fun x => at' x v
  else (longFrom f (6 + w) u (b - 24) s).map fun y => at' u y

/-- Select of an input of a cell: 0 to 3 word inputs, 4 to 7 control inputs; an unlisted input selects ZERO. -/
def selOf (k i : Nat) (s : State) : Nat := Tab.get (fun _ => 1) s.sels (k * 8 + i)

/-- Word input i of local cell (u, v) before edge e; a select that is not one-hot drives 0 (R149, R151). -/
def wordIn (f u v i e : Nat) (s : State) : W16 :=
  match oneHot (selOf (cellKey (colOf f u) (rowOf f v)) i s) 32 with
  | none => 0#16
  | some b =>
    if b = 0 then 0#16
    else if b ≤ 25 then (match cellSource true f u v b s with | some k => (regsBefore k e s).q | none => 0#16)
    else if b ≤ 29 then bcastW f (29 - b) e s
    else if b = 30 then tapP0w f u v e s
    else tapP1w f u v e s

/-- Control input i of local cell (u, v) before edge e (R149, R151). -/
def ctlIn (f u v i e : Nat) (s : State) : Bool :=
  match oneHot (selOf (cellKey (colOf f u) (rowOf f v)) (4 + i) s) 32 with
  | none => false
  | some b =>
    if b = 0 then false
    else if b ≤ 25 then (match cellSource false f u v b s with | some k => (regsBefore k e s).f | none => false)
    else if b ≤ 29 then bcastC f (29 - b) e s
    else if b = 30 then tapP0c f u v e s
    else tapP1c f u v e s

/-! The cell (R143 to R145). -/

/-- Parity of a word. -/
def parity (x : W16) : Bool := (List.range 16).foldl (fun p i => xor p (x.getLsbD i)) false
/-- Bit i moved to bit 15 - i. -/
def bitReverse (x : W16) : W16 :=
  (List.range 16).foldl (fun r i => if x.getLsbD i then r ||| (1#16 <<< (15 - i)) else r) 0#16

/-- The operations (R144): R and CO of OP on X, Y, carry C and immediate K. -/
def cellOp (op : Nat) (x y : W16) (c : Bool) (k : W16) : W16 × Bool :=
  let n := fun b : Bool => if b then 1 else 0
  match op with
  | 0x00 => (y, false)
  | 0x01 => (x + y + BitVec.ofNat 16 (n c), decide (2 ^ 16 ≤ x.toNat + y.toNat + n c))
  | 0x02 => (x + ~~~y + BitVec.ofNat 16 (n c), decide (2 ^ 16 ≤ x.toNat + (~~~y).toNat + n c))
  | 0x03 => (x &&& y, false)
  | 0x04 => (x ||| y, false)
  | 0x05 => (x ^^^ y, false)
  | 0x06 => (x &&& ~~~y, false)
  | 0x07 => (~~~x, false)
  | 0x08 => ((x <<< 1) ||| BitVec.ofNat 16 (n c), x.getLsbD 15)
  | 0x09 => (x <<< (y.toNat % 16), false)
  | 0x0A => (x >>> (y.toNat % 16), false)
  | 0x0B => (x.rotateLeft (y.toNat % 16), false)
  | 0x0C => (bitReverse x, false)
  | 0x0D => ((x &&& k) ||| (y &&& ~~~k), false)
  | 0x0E => (x ^^^ y, c && decide (x = y))
  | 0x0F => (BitVec.ofNat 16 (n (parity x)), xor c (parity x))
  | 0x10 => (if c then (if x = k then 0#16 else x + 1#16) else x, c && decide (x = k))
  | 0x11 => (if x.toNat < y.toNat then x else y, decide (x.toNat < y.toNat))
  | 0x12 => (if y.toNat < x.toNat then x else y, decide (y.toNat < x.toNat))
  | _ => (0#16, false)

/-- The instruction that local cell (u, v) uses before edge e (R142, R145). -/
def cellInsn (f u v e : Nat) (s : State) : BitVec 32 :=
  let c := cfgOf (cellKey (colOf f u) (rowOf f v)) s
  let n := fun b : Bool => if b then 1 else 0
  let i := if c.isel then n (ctlIn f u v 0 e s) + 2 * n (ctlIn f u v 1 e s) + 4 * n (ctlIn f u v 2 e s) else 0
  c.ir.getD i 0#32

/-- Field of an instruction (R143). -/
def ifield (w : BitVec 32) (hi lo : Nat) : Nat := Dict.bitsOf w.toNat hi lo

/-- R and CO of a cell with carry in ci (R145). -/
def cellOut (f u v e : Nat) (ci : Bool) (s : State) : W16 × Bool :=
  let w := cellInsn f u v e s
  let r := regsBefore (cellKey (colOf f u) (rowOf f v)) e s
  let k := BitVec.ofNat 16 (ifield w 15 0)
  let x := match ifield w 26 25 with | 0 => r.a | 1 => r.b | 2 => wordIn f u v 0 e s | _ => r.q
  let y := match ifield w 24 23 with | 0 => r.b | 1 => wordIn f u v 1 e s | 2 => k | _ => r.q
  let c := match ifield w 22 21 with | 0 => false | 1 => true | 2 => ci | _ => ctlIn f u v 3 e s
  cellOp (ifield w 31 27) x y c k

/-- The carry into local cell (u, v): CO of its west neighbour in the facet, 0 in local column 0 (R147, R148). -/
def carryIn (f v e : Nat) (s : State) : Nat → Bool
  | 0 => false
  | u + 1 => (cellOut f u v e (carryIn f v e s u) s).2

/-- The registers of a cell after FAB edge e (R145). -/
def cellNext (f u v e : Nat) (s : State) : Regs :=
  let key := cellKey (colOf f u) (rowOf f v)
  let c := cfgOf key s
  let r := regsBefore key e s
  if c.cesel && !(ctlIn f u v 3 e s) then r
  else
    let w := cellInsn f u v e s
    let o := cellOut f u v e (carryIn f v e s u) s
    { a := match ifield w 20 19 with | 0 => r.a | 1 => o.1 | 2 => wordIn f u v 2 e s | _ => wordIn f u v 0 e s,
      b := match ifield w 18 17 with | 0 => r.b | 1 => o.1 | 2 => wordIn f u v 3 e s | _ => wordIn f u v 1 e s,
      q := if ifield w 16 16 = 1 then o.1 else r.q,
      f := match c.fsel with | 0 => o.2 | 1 => decide (o.1 = 0#16) | 2 => o.1.getLsbD 15 | _ => o.1.getLsbD 0 }

/-- The FAB edge at which a command updates a cell: the first at or after now at which it has not been updated. -/
def cellEdge (key : Nat) (s : State) : Nat :=
  match Tab.get (fun _ => none) s.cells key with
  | some c => if fabEdge s.now ≤ c.edge then c.edge + fabClk else fabEdge s.now
  | none => fabEdge s.now

/-- Is a frame that governs local row v of FACETf damaged: what its cells compute is then unspecified (17 R451)? -/
def rowDamaged (f v : Nat) (s : State) : Bool :=
  s.cfg.damaged.any fun d => Nat.beq d.f f && (Nat.beq d.type 2 || Nat.beq d.type 3) && Nat.beq d.index v

/-- Registers of free values (log entry 9). -/
def freeRegs (v : Nat) : Regs := ⟨BitVec.ofNat 16 v, BitVec.ofNat 16 (v / 2 ^ 16), BitVec.ofNat 16 (v / 2 ^ 32), v.testBit 48⟩

/-- A cell command: at the next FAB edge after the facet's release, with its gate open, the cell whose instruction has one
of the operations from lo to hi takes its next registers (R145, R146, R155); under a damaged frame they are free. -/
def cellCommand (col row lo hi : Nat) (s : State) : Out :=
  if col < 256 ∧ row < 512 then
    let key := cellKey col row
    let f := facetAt col row
    let e := cellEdge key s
    let op := ifield (cellInsn f (col % 64) (row % 64) e s) 31 27
    let damaged := rowDamaged f (row % 64) s
    if released f s = true ∧ (s.facetOf f).since < e ∧ clocked f s = true ∧ (damaged = true ∨ (lo ≤ op ∧ op ≤ hi)) then
      let c : CellS := (Tab.get (fun _ => none) s.cells key).getD ⟨heldRegs key s, 0, heldRegs key s, 0, heldRegs key s⟩
      let n := if damaged then freeRegs s.freeVal else cellNext f (col % 64) (row % 64) e s
      let s := if damaged then s.drawn else s
      .next { s.upto e with cells := Tab.set (fun _ => none) s.cells key (some ⟨n, e, c.cur, c.edge, c.old⟩) }
    else .next s
  else .fault .noSuchUnit

/-- PASS: R is Y. -/
def execCellPass (col row : Nat) (s : State) : Out := cellCommand col row 0x00 0x00 s
/-- ADD: X + Y + C. -/
def execCellAdd (col row : Nat) (s : State) : Out := cellCommand col row 0x01 0x01 s
/-- SUB: X + NOT Y + C. -/
def execCellSub (col row : Nat) (s : State) : Out := cellCommand col row 0x02 0x02 s
/-- AND. -/
def execCellAnd (col row : Nat) (s : State) : Out := cellCommand col row 0x03 0x03 s
/-- OR. -/
def execCellOr (col row : Nat) (s : State) : Out := cellCommand col row 0x04 0x04 s
/-- XOR. -/
def execCellXor (col row : Nat) (s : State) : Out := cellCommand col row 0x05 0x05 s
/-- ANDN: X AND NOT Y. -/
def execCellAndn (col row : Nat) (s : State) : Out := cellCommand col row 0x06 0x06 s
/-- NOT: NOT X. -/
def execCellNot (col row : Nat) (s : State) : Out := cellCommand col row 0x07 0x07 s
/-- SHL1: X shifted left by one, C in bit 0. -/
def execCellShl1 (col row : Nat) (s : State) : Out := cellCommand col row 0x08 0x08 s
/-- SHL: X shifted left by Y[3:0]. -/
def execCellShl (col row : Nat) (s : State) : Out := cellCommand col row 0x09 0x09 s
/-- SHR: X shifted right by Y[3:0]. -/
def execCellShr (col row : Nat) (s : State) : Out := cellCommand col row 0x0A 0x0A s
/-- ROL: X rotated left by Y[3:0]. -/
def execCellRol (col row : Nat) (s : State) : Out := cellCommand col row 0x0B 0x0B s
/-- BREV: the bits of X reversed. -/
def execCellBrev (col row : Nat) (s : State) : Out := cellCommand col row 0x0C 0x0C s
/-- BSEL: (X AND K) OR (Y AND NOT K). -/
def execCellBsel (col row : Nat) (s : State) : Out := cellCommand col row 0x0D 0x0D s
/-- EQ: X XOR Y, with CO from equality. -/
def execCellEq (col row : Nat) (s : State) : Out := cellCommand col row 0x0E 0x0E s
/-- PAR: parity of X. -/
def execCellPar (col row : Nat) (s : State) : Out := cellCommand col row 0x0F 0x0F s
/-- CNTK: count to K. -/
def execCellCntk (col row : Nat) (s : State) : Out := cellCommand col row 0x10 0x10 s
/-- MIN: unsigned minimum. -/
def execCellMin (col row : Nat) (s : State) : Out := cellCommand col row 0x11 0x11 s
/-- MAX: unsigned maximum. -/
def execCellMax (col row : Nat) (s : State) : Out := cellCommand col row 0x12 0x12 s
/-- A reserved OP: R and CO are 0. -/
def execCellReservedOp (col row : Nat) (s : State) : Out := cellCommand col row 0x13 0x1F s

/-! Upsets (R151, 17 R447). -/

/-- The selects of a ROUTE frame in the model's order (log entry 24): 512 cell inputs of 32 bits; short tracks of the row by
track and segment, word then control, 4 bits; its long tracks, 64 bits; then, for each column, the short tracks whose
segment begins at this row, and, at row 0, the long tracks. Width of select number i. -/
def selWidth (i : Nat) : Nat :=
  if i < 512 then 32 else if i < 920 then 4 else if i < 924 then 64 else if i < 2460 then 4 else 64
/-- Does the segment of a column's short track k begin at row v? -/
def segFirst (v k : Nat) : Bool := Nat.beq v 0 || Nat.beq ((v + k % 4) % 4) 0
/-- The track whose select is number i of the frame of row v of FACETf, if the frame holds one there. -/
def trackOf (f v i : Nat) : Option Nat :=
  if i < 512 then none
  else if i < 648 then some (trackKey f 0 v ((i - 512) / 17) ((i - 512) % 17))
  else if i < 920 then some (trackKey f 1 v ((i - 648) / 17) ((i - 648) % 17))
  else if i < 922 then some (trackKey f 2 v (i - 920) 0)
  else if i < 924 then some (trackKey f 3 v (i - 922) 0)
  else if i < 1436 then
    let k := (i - 924) % 8
    if segFirst v k then some (trackKey f 4 ((i - 924) / 8) k ((v + k % 4) / 4)) else none
  else if i < 2460 then
    let k := (i - 1436) % 16
    if segFirst v k then some (trackKey f 5 ((i - 1436) / 16) k ((v + k % 4) / 4)) else none
  else if i < 2588 then (if v = 0 then some (trackKey f 6 ((i - 2460) / 2) ((i - 2460) % 2) 0) else none)
  else if i < 2716 then (if v = 0 then some (trackKey f 7 ((i - 2588) / 2) ((i - 2588) % 2) 0) else none)
  else none

/-- Static bit b of a cell flipped (R142). -/
def flipFixed (b : Nat) (c : CellCfg) : CellCfg :=
  if b = 0 then { c with isel := !c.isel } else if b = 1 then { c with cesel := !c.cesel }
  else if b < 4 then { c with fsel := c.fsel ^^^ 2 ^ (b - 2) }
  else if b < 20 then { c with a0 := c.a0 ^^^ (1#16 <<< (b - 4)) }
  else if b < 36 then { c with b0 := c.b0 ^^^ (1#16 <<< (b - 20)) }
  else { c with q0 := c.q0 ^^^ (1#16 <<< ((b - 36) % 16)) }

/-- One configuration bit of a cell or of a multiplexer flipped. -/
def flipTarget (u : Upset) (s : State) : State :=
  let key := cellKey (colOf u.f (u.u % 64)) (rowOf u.f (u.index % 64))
  match u.target with
  | .ir k b =>
    let c := cfgOf key s
    let ir := (List.range 8).map fun i => if i = k then c.ir.getD i 0#32 ^^^ (1#32 <<< b) else c.ir.getD i 0#32
    { s with cellCfg := Tab.set (fun _ => ⟨[], false, false, 0, 0#16, 0#16, 0#16⟩) s.cellCfg key { c with ir := ir } }
  | .fixed b => { s with cellCfg := Tab.set (fun _ => ⟨[], false, false, 0, 0#16, 0#16, 0#16⟩) s.cellCfg key (flipFixed b (cfgOf key s)) }
  | .track i b =>
    match trackOf u.f (u.index % 64) i with
    | some k => { s with tracks := Tab.set (fun _ => 1) s.tracks k (Tab.get (fun _ => 1) s.tracks k ^^^ 2 ^ (b % selWidth i)) }
    | none => s
  | .sel i b => { s with sels := Tab.set (fun _ => 1) s.sels (key * 8 + i % 8) (selOf key (i % 8) s ^^^ 2 ^ (b % 32)) }
  | .other => s
  | .own => s

/-! Holding and releasing (R156 to R159). -/

/-- The registers of every cell of FACETf at their held values (R146). -/
def clearCells (f : Nat) (s : State) : State :=
  { s with cells := s.cells.filter fun e => !(Nat.beq (facetAt (e.1 % 256) (e.1 / 256)) f) }

/-- Requests of FACETf issued and not answered: in the mesh, held at a port, in a controller, or with the response under
way. -/
def facetReqs (f : Nat) (s : State) : List MeshReq :=
  ((s.reqs ++ s.held.map (·.req) ++ s.steal.map (·.req)) ++ ((s.dmc.flatMap fun e => e.2.ingress ++ e.2.track.map (·.req)) ++ s.resps.map (·.req))).filter fun r =>
    decide (r.own = .facet f)

/-- A change of facet state that a checked batch may rest on (02 R63). -/
def facetChanged (f : Nat) (s : State) : State :=
  reopenIf (batchStarts f s && Nat.beq (afterBatch s (VEN.APG_BIND f)) 1) s

/-- FACETf held from FAB edge e on: its user logic in reset, its outputs clamped, the responses of every request in flight, of
which a request dropped before is one, discarded (R146, R158, R159, 01 R22). -/
def holdFacet (f : Nat) (s : State) : State :=
  facetChanged f ((clearCells f (s.setBit FAB.RELEASED f false)).modFacet f fun x =>
    { x with relAt := none, holdAt := none, reqLast := false, drop := facetReqs f s })

/-- FACETf released at FAB edge e (R146, R156). -/
def releaseFacet (f e : Nat) (s : State) : State :=
  facetChanged f ((clearCells f (s.setBit FAB.RELEASED f true)).modFacet f fun x =>
    { x with relAt := none, holdAt := none, since := e, ever := true, reqLast := false })

/-- Conditions of RELEASE (R157, 20 R513). -/
def releaseConds (f : Nat) (s : State) : List (Bool × Nat) :=
  [ (!(released f s) && s.rd (CFG.FACET_STATE f) != 2, 7), (!(released f s) && s.bit HDI.RETIRE_FACET f, 9) ]
/-- RELEASE of a held facet lands on the first FAB edge at least 1 us after the first acknowledgement; of a released facet it
changes nothing (R157). -/
def releaseEff (f : Nat) (s : State) : State :=
  if released f s then s else s.modFacet f fun x => { x with relAt := earlier x.relAt (fabEdge (s.now + ticksPerUs)) }
/-- Conditions of HOLD (R157). -/
def holdConds (f : Nat) (s : State) : List (Bool × Nat) :=
  [(released f s && Nat.beq (s.rd (VEN.APG_BIND f)) 1 && veLive f s, 9)]
/-- HOLD of a released facet lands like RELEASE; of a held facet it changes nothing (R157). -/
def holdEff (f : Nat) (s : State) : State :=
  if released f s then s.modFacet f fun x => { x with holdAt := earlier x.holdAt (fabEdge (s.now + ticksPerUs)) } else s

/-- FACET_RELEASE. -/
def execFacetRelease (q : Req) (f : Nat) (s : State) : Out :=
  unitCmd f 32 (command q (FAB.CTRL f) 1 (releaseConds f s) (releaseEff f) s)
/-- FACET_HOLD. -/
def execFacetHold (q : Req) (f : Nat) (s : State) : Out :=
  unitCmd f 32 (command q (FAB.CTRL f) 2 (holdConds f s) (holdEff f) s)

/-- FACET_RELEASE_LANDS: EV049. A command overtaken by a load was dropped (R157). -/
def execFacetReleaseLands (f : Nat) (s : State) : Out :=
  unitCmd f 32 <|
    match (s.facetOf f).relAt with
    | some e => (releaseFacet f e (s.upto e)).raise 49
    | none => s

/-- FACET_HOLD_LANDS: EV049. -/
def execFacetHoldLands (f : Nat) (s : State) : Out :=
  unitCmd f 32 <|
    match (s.facetOf f).holdAt with
    | some e => (holdFacet f (s.upto e)).raise 49
    | none => s

/-- USER_IN_WRITE: the words land on one FAB edge, with USER_STB in the clock after it (R161). -/
def userInEff (f k v : Nat) (s : State) : State :=
  let land := fabEdge (s.now + 1)
  let old := if s.now < (s.facetOf f).userLand then (s.facetOf f).userOld else (List.range 4).map fun m => s.rd (FAB.USER_IN f m)
  (s.wr (FAB.USER_IN f k) v).modFacet f fun x => { x with userLand := land, userOld := old }
/-- USER_IN_WRITE. -/
def execUserInWrite (q : Req) (f k v : Nat) (s : State) : Out :=
  if f < 32 ∧ k < 4 then .next (writeTo q (FAB.USER_IN f k) 8 v [] (userInEff f k v) s) else .fault .noSuchUnit

/-- FAB.USER_OUT member m: four words as sampled on one FAB edge (R153, R161). -/
def userOut (f m : Nat) (s : State) : Nat :=
  (List.range 4).foldl (fun d i =>
    d + (regsNow (cellKey (colOf f (4 * m + i)) (rowOf f 2)) s).q.toNat * 2 ^ (16 * i)) 0

/-- Bit f of FAB.USER_REQ set; EV048 once for each SUPCLK edge on which bits rise (R163). -/
def userReqSet (f : Nat) (s : State) : State :=
  let t := (s.note FAB.USER_REQ f).setBit FAB.USER_REQ f true
  if s.bit FAB.USER_REQ f || s.clearedNow FAB.USER_REQ f || decide (s.sup.userReqAt = some (State.supCycle s.now)) then t
  else State.raise { t with sup := { t.sup with userReqAt := some (State.supCycle s.now) } } 48

/-- USER_REQ: F of local cell (0, 2) is sampled; a rise sets FAB.USER_REQ bit f and raises EV048 (R153, R163). -/
def execUserReq (f : Nat) (s : State) : Out :=
  unitCmd f 32 <|
    let now := released f s && (regsNow (cellKey (colOf f 0) (rowOf f 2)) s).f
    let s' := s.modFacet f fun x => { x with reqLast := now }
    if now && !((s.facetOf f).reqLast) then userReqSet f s' else s'

/-- FACET_MESH_REQUEST: a released facet whose manifest uses the mesh port issues a request in class C3, at most 32 in
flight (R159). The cells that form it and take the response's data are not given: the request is the command's operand, and the
data goes to no cell (DESIGN CHOICE, log entry 43). -/
def execFacetMeshRequest (f : Nat) (op : MeshOp) (addr len data : Nat) (s : State) : Out :=
  unitCmd f 32 <|
    if released f s = true ∧ (s.facetOf f).man.meshPort = true ∧ clocked f s = true
        ∧ s.rd (FAB.MESH_ISSUED f) - s.rd (FAB.MESH_DONE f) - s.rd (FAB.MESH_DISCARD f) < 32 then
      meshSend ⟨op, .facet f, veNode f, 3, addr, len, data⟩ (s.bump 64 (FAB.MESH_ISSUED f))
    else s

/-- A response to FACETf: delivered, or discarded if the facet has been held or reloaded since (R159). -/
def facetDone (f : Nat) (x : MeshResp) (s : State) : State :=
  let s := respTaken x s
  if (s.facetOf f).drop.contains x.req then
    (s.bump 64 (FAB.MESH_DISCARD f)).modFacet f fun y => { y with drop := y.drop.erase x.req }
  else s.bump 64 (FAB.MESH_DONE f)

/-! The APG port (04 R129 to R131). -/

/-- Word of slot i that FACETf presents before edge e (R153, 04 R128). -/
def apgSlot (f i e : Nat) (s : State) : Nat :=
  (List.range 8).foldl (fun d j =>
    d + (regsBefore (cellKey (colOf f (8 * i + j)) (rowOf f 0)) e s).q.toNat * 2 ^ (16 * j)) 0

/-- APG_TRANSFER: at the first FAB edge at or after now that the port has not sampled, it takes the words of slots 0 to
APG_TAKEN - 1 in order (04 R129, R130). -/
def execApgTransfer (n : Nat) (s : State) : Out :=
  unitCmd n 32 <|
    let e := if fabEdge s.now ≤ (s.veOf n).apgAt then (s.veOf n).apgAt + fabClk else fabEdge s.now
    let k := apgTaken n e s
    let s' := s.upto e
    if k = 0 then s'.modVe n fun v => { v with apgAt := e }
    else
      (s'.addTo 64 (VEN.APG_TAKEN n) k).modVe n fun v =>
        { v with apgAt := e, fifo := v.fifo ++ (List.range k).map fun i => ⟨e, apgSlot n i e s⟩ }

end Sys2Proof.Machine
end

