-- ==== Sys2Proof/Machine/PanScr.lean ====
section
/-! DEFINITION. Panes and the scratch array (10_panes_scratch.md R276 to R298). -/
namespace Sys2Proof.Machine

/-- Mesh address of pane p (01 R25). -/
def paneBase (p : Nat) : Nat := 0x10100000000 + p * 0x2000
/-- Mesh address of scratch bank b (01 R25). -/
def bankBase (b : Nat) : Nat := 0x10000000000 + b * 0x10000

/-- Flag b of PAN.EVFLAGS: 0 REFUSED, 1 PERR, 2 TIMEOUT, 3 TESTDONE, 4 DISCARD, with its event (R297, R298). -/
def panFlag (p b : Nat) (s : State) : State := s.flag (PAN.EVFLAGS p) b (if b = 4 then 59 else 50 + b)
/-- Flag b of SCR.EVFLAGS: 0 CE, 1 UE, 2 TIMEOUT, 3 TESTDONE, 4 HANDOVER (R297, R298). -/
def scrFlag (b k : Nat) (s : State) : State := s.flag (SCR.EVFLAGS b) k (54 + k)

/-- What a pane's taps show of the words it holds, in QUEUE mode (R277); in RAM mode nothing has been read. -/
def idleTaps (mode : Nat) (q : List Nat) : Taps :=
  if mode = 1 then ⟨q.headD 0, q.isEmpty, q.length, Nat.ble 4096 q.length⟩ else {}

/-- The words of a queue discarded and counted (R280). -/
def discardQueue (p : Nat) (s : State) : State :=
  let k := (s.paneOf p).q.length
  if k = 0 then s else panFlag p 4 ((s.addTo 64 (PAN.DISCARD p) k).modPane p fun x => { x with q := [] })

/-- The taps of a pane set as it begins to serve the fabric. -/
def resetTaps (p : Nat) (s : State) : State :=
  s.modPane p fun x => { x with taps := idleTaps (s.rd (PAN.MODE p)) x.q, old := idleTaps (s.rd (PAN.MODE p)) x.q }

/-- The FAB edge at which a command lets a pane access: the first at or after now at which it has not yet. -/
def paneEdge (p : Nat) (s : State) : Nat :=
  if fabEdge s.now ≤ (s.paneOf p).edge then (s.paneOf p).edge + fabClk else fabEdge s.now

/-- Key of port cell k of pane p (R277). -/
def portCell (p k : Nat) : Nat :=
  let f := p / 48
  let j := p % 48
  cellKey (colOf f (10 * (j % 6) + 2 + k)) (rowOf f (8 * (j / 6) + 4))

/-- The taps of a pane set at edge e. -/
def setTaps (p e : Nat) (t : Taps) (s : State) : State :=
  s.modPane p fun x => { x with old := x.taps, taps := t, edge := e }

/-! Clocks of the ports (R276, R283, R285, R288). -/

/-- The earliest recorded write of the word at clock c or later. -/
def firstWrite (l : List PortUse) (c word : Nat) : Option PortUse :=
  (l.filter fun e => e.write && Nat.beq e.word word && Nat.ble c e.clk).foldl
    (fun m e => match m with | some u => if e.clk < u.clk then some e else some u | none => some e) none
/-- The word as an access at clock c finds it, where memory holds m: the writes of that clock and of later ones are not yet in
it. -/
def seenAt (l : List PortUse) (c word m : Nat) : Nat :=
  match firstWrite l c word with
  | some u => u.old
  | none => m
/-- The first clock from c on, by the period, in which port p is idle. -/
def idleIn (period : Nat) (l : List PortUse) (p c : Nat) : Nat :=
  (((List.range (l.length + 1)).map fun i => c + period * i).find? fun c => !(l.any fun e => Nat.beq e.port p && Nat.beq e.clk c)).getD c
/-- An access takes its clock: those of lower rank that hold a clock of its port from then on keep their order and take the idle
clocks from their own on (R283; log entry 55). -/
def placeUse (period : Nat) (l : List PortUse) (u : PortUse) : List PortUse :=
  let after := fun e : PortUse => Nat.beq e.port u.port && Nat.blt u.rank (min e.rank 2) && Nat.ble u.clk e.clk
  (l.filter after).foldl (fun k e => k ++ [{ e with clk := idleIn period k e.port e.clk }]) (l.filter (fun e => !(after e)) ++ [u])
/-- A write of v at clock c: where a write of the word in a later clock is recorded, that one finds v, and memory keeps its value
(false). -/
def writeUnder (l : List PortUse) (c word v : Nat) : List PortUse × Bool :=
  match firstWrite l (c + 1) word with
  | some u => (l.map fun e => if e = u then { u with old := v } else e, false)
  | none => (l, true)

/-- Word w of a row. -/
def wordOfRow (row w : Nat) : Nat := row / 2 ^ (16 * (w % 4)) % 65536
/-- A pane in RAM mode at edge e: read-first, the processor always served (R278, R283). The read data is kept while RE is
0. bad: the word read fails its parity check. -/
def paneRam (p e : Nat) (bad : Bool) (s : State) : State :=
  let k0 := regsBefore (portCell p 0) e s
  let k1 := regsBefore (portCell p 1) e s
  let k2 := regsBefore (portCell p 2) e s
  let ra := k0.q.toNat % 4096
  let wa := k1.q.toNat % 4096
  let l := (s.paneOf p).uses.filter fun u => Nat.ble e u.clk
  let rowAt := fun w : Nat => seenAt l e (w / 4) (memRead s.mem (paneBase p + 8 * (w / 4)) 8)
  let t := (s.paneOf p).taps
  let t' : Taps := if k0.f then ⟨wordOfRow (rowAt ra) ra, false, 0, bad⟩ else { t with c0 := false }
  let l1 := if k0.f then placeUse fabClk l ⟨e, 0, false, ra / 4, 0, 0⟩ else l
  let old := wordOfRow (rowAt wa) wa
  let l2 := if k1.f then
      writeUnder (placeUse fabClk l1 ⟨e, 1, true, wa / 4, rowAt wa, 0⟩) e (wa / 4)
        (rowAt wa - old * 2 ^ (16 * (wa % 4)) + k2.q.toNat * 2 ^ (16 * (wa % 4)))
    else (l1, false)
  let s := (setTaps p e t' s).modPane p fun x => { x with uses := l2.1 }
  let s := if k0.f && bad then panFlag p 1 (s.bump 64 (PAN.PERR p)) else s
  if l2.2 then s.store (paneBase p + 2 * wa) 2 k2.q.toNat else s

/-- A pane in QUEUE mode at edge e: pop, then push, a push without room refused (R279). bad: a head word newly shown fails its
parity check (R286). -/
def paneQueue (p e : Nat) (bad : Bool) (s : State) : State :=
  let pop := (regsBefore (portCell p 0) e s).f && !((s.paneOf p).q.isEmpty)
  let push := (regsBefore (portCell p 1) e s).f
  let wd := (regsBefore (portCell p 2) e s).q.toNat
  let q := (s.paneOf p).q
  let q1 := if pop then q.drop 1 else q
  let room := Nat.blt q.length 4096 || pop
  let q2 := if push && room then q1 ++ [wd] else q1
  let s := setTaps p e (idleTaps 1 q2) (s.modPane p fun x => { x with q := q2, used := x.used || (push && room) })
  let s := if bad && (pop || q.isEmpty) && !q2.isEmpty then panFlag p 1 (s.bump 64 (PAN.PERR p)) else s
  let s := if pop then s.bump 64 (PAN.POPPED p) else s
  if push then
    if room then s.bump 64 (PAN.PUSHED p) else panFlag p 0 (s.bump 64 (PAN.REFUSED p))
  else s

/-! PAN.CTRL and PAN.MODE (R292). -/

/-- Conditions of a command accepted in one state alone. -/
def paneIn (p st : Nat) (s : State) : List (Bool × Nat) := [(s.rd (PAN.STATE p) != st, 9)]
/-- DETACH: at the first FAB edge at least 1 us on; one under way lands at its own edge. -/
def paneDetachEff (p : Nat) (s : State) : State :=
  s.modPane p fun x => { x with detachAt := some (x.detachAt.getD (fabEdge (s.now + ticksPerUs))) }
/-- ATTACH: likewise. -/
def paneAttachEff (p : Nat) (s : State) : State :=
  s.modPane p fun x => { x with attachAt := some (x.attachAt.getD (fabEdge (s.now + ticksPerUs))) }
/-- TEST. -/
def paneTestEff (p : Nat) (s : State) : State := (s.wr (PAN.STATE p) 2).modPane p fun x => { x with attachAt := none }
/-- A pane leaves QUEUE mode: where the controller kept the words it ran through the array is open, so that once a word has
been pushed the array holds free words (R276; log entry 9). -/
def queueLeft (p : Nat) (s : State) : State :=
  if (s.paneOf p).used then ((s.store (paneBase p) 0x2000 s.freeVal).drawn).modPane p fun x => { x with used := false } else s
/-- A change of PAN.MODE empties the queue (R292). -/
def paneModeEff (p v : Nat) (s : State) : State :=
  if v = s.rd (PAN.MODE p) then s else (queueLeft p (discardQueue p s)).wr (PAN.MODE p) v

/-- PANE_DETACH. -/
def execPaneDetach (q : Req) (p : Nat) (s : State) : Out :=
  unitCmd p 1536 (command q (PAN.CTRL p) 1 (paneIn p 0 s) (paneDetachEff p) s)
/-- PANE_ATTACH. -/
def execPaneAttach (q : Req) (p : Nat) (s : State) : Out :=
  unitCmd p 1536 (command q (PAN.CTRL p) 2 (paneIn p 1 s) (paneAttachEff p) s)
/-- PANE_TEST. -/
def execPaneTest (q : Req) (p : Nat) (s : State) : Out :=
  unitCmd p 1536 (command q (PAN.CTRL p) 3 (paneIn p 1 s) (paneTestEff p) s)
/-- PANE_MODE_WRITE: refused unless the pane is DETACHED. -/
def execPaneModeWrite (q : Req) (p v : Nat) (s : State) : Out :=
  unitCmd p 1536 (writeTo q (PAN.MODE p) 1 v (paneIn p 1 s) (paneModeEff p v) s)

/-- PANE_ATTACH_LANDS: ATTACHED. -/
def execPaneAttachLands (p : Nat) (s : State) : Out :=
  unitCmd p 1536 <|
    match (s.paneOf p).attachAt with
    | some e => resetTaps p (((s.upto e).wr (PAN.STATE p) 0).modPane p fun x => { x with attachAt := none })
    | none => s

/-- Result code of a self-test that finds bad failing columns with spares of them free, and the spares it maps (R293). -/
def repairResult (bad spares : Nat) : Nat × Nat :=
  if bad = 0 then (1, 0) else if bad ≤ spares then (2, bad) else (3, spares)

/-- A unit's test result and soft repairs recorded; after result 3 its n bytes at a are unspecified (log entry 9), else
zero (R291 to R293). -/
def testEnd (result repair a n bad spares : Nat) (s : State) : State :=
  let fused := s.rd repair % 256
  let r := repairResult bad (spares - fused)
  let s := (s.wr result r.1).wr repair (r.2 * 256 + fused)
  if r.1 = 3 then (s.store a n s.freeVal).drawn else { s with mem := memClear s.mem a n }

/-- The words of a queue after a self-test: zeros, or after result 3 free words (R292, R293; log entry 9); what the controller
wrote before is gone. -/
def testedQueue (p : Nat) (s : State) : State :=
  if s.rd (PAN.TEST_RESULT p) = 3 then
    (s.modPane p fun x => { x with q := x.q.zipIdx.map fun e => s.freeVal / 2 ^ (16 * e.2) % 65536, used := false }).drawn
  else s.modPane p fun x => { x with q := x.q.map fun _ => 0, used := false }

/-- PANE_TEST_END: within 50 us, DETACHED, zeros held; bad columns were found (R292, R293). -/
def execPaneTestEnd (p bad : Nat) (s : State) : Out :=
  unitCmd p 1536 <|
    if s.rd (PAN.STATE p) = 2 then
      panFlag p 3 (testedQueue p ((testEnd (PAN.TEST_RESULT p) (PAN.REPAIR p) (paneBase p) 0x2000 bad 2 s).wr (PAN.STATE p) 1))
    else s

/-! Scratch banks (R285 to R291). -/

/-- Is DSP engine n stopped (14 R383)? -/
def dspStopped (n : Nat) (s : State) : Bool := [0, 4, 5].contains (s.rd (DSP.STATE n))
/-- Is the engine number v of a port owner a stopped engine or none (R290)? -/
def ownerStopped (v : Nat) (s : State) : Bool := Nat.ble 32 v || dspStopped v s

/-- Conditions of a write of SCR.OWNER (R290, 20 R513). -/
def ownerConds (b port v : Nat) (s : State) : List (Bool × Nat) :=
  [ (!(ownerStopped (s.rd (SCR.OWNER b port)) s), 9), (!(ownerStopped v s), 9),
    ([1, 2, 3].contains (s.rd (SCR.STATE b)), 9), (s.bit HDI.RETIRE_SCR b && v != 0xFF, 9) ]
/-- The port goes to its new owner; the bank is in HANDOVER for at most 100 ns, in which what the old owner has in flight
completes (R290). -/
def ownerEff (b port v : Nat) (s : State) : State :=
  (((s.wr (SCR.OWNER b port) v).wr (SCR.STATE b) 1).modBank b fun x =>
    { x with endAt := s.now + 100 * ticksPerNs, leaving := some (port, s.rd (SCR.OWNER b port)) })

/-- SCRATCH_OWNER_WRITE: member 1 exists for banks 0 to 7 alone. -/
def execScratchOwnerWrite (q : Req) (b port v : Nat) (s : State) : Out :=
  if b < 64 ∧ port < 2 then .next (writeTo q (SCR.OWNER b port) 1 v (ownerConds b port v s) (ownerEff b port v) s)
  else .fault .noSuchUnit

/-- The state of bank b as its power domain has it: READY in a powered one, CLEARING, or OFF (R294). -/
def bankState (b : Nat) (s : State) : Nat :=
  match s.rd (CRH.PWR_STATE (32 + b)) with
  | 3 => 0
  | 2 => 3
  | _ => 4
/-- HANDOVER_END: READY, where the bank is powered. -/
def execHandoverEnd (b : Nat) (s : State) : Out :=
  unitCmd b 64 <|
    if s.rd (SCR.STATE b) = 1 ∨ (s.bankOf b).leaving.isSome = true then
      let t := (s.upto (s.bankOf b).endAt).modBank b fun x => { x with leaving := none }
      scrFlag b 4 (if s.rd (SCR.STATE b) = 1 then t.wr (SCR.STATE b) (bankState b s) else t)
    else s

/-- Conditions of TEST (R291). -/
def scrTestConds (b : Nat) (s : State) : List (Bool × Nat) :=
  [(s.rd (SCR.STATE b) != 0 || s.rd (SCR.OWNER b 0) != 0xFF || (Nat.blt b 8 && s.rd (SCR.OWNER b 1) != 0xFF), 9)]
/-- TEST. -/
def scrTestEff (b : Nat) (s : State) : State := s.wr (SCR.STATE b) 2
/-- SCRATCH_TEST. -/
def execScratchTest (q : Req) (b : Nat) (s : State) : Out :=
  unitCmd b 64 (command q (SCR.CTRL b) 1 (scrTestConds b s) (scrTestEff b) s)

/-- SCRATCH_TEST_END: READY, zeros held; bad columns were found (R291, R293). -/
def execScratchTestEnd (b bad : Nat) (s : State) : Out :=
  unitCmd b 64 <|
    if s.rd (SCR.STATE b) = 2 then
      scrFlag b 3 ((testEnd (SCR.TEST_RESULT b) (SCR.REPAIR b) (bankBase b) 0x10000 bad 8 s).wr (SCR.STATE b) 0)
    else s

/-- What a port of a bank found at its access (R288, R289): whether it waits a clock, whether memory takes its write (no later
write of the word stands), what a read returns, and whether the other port, which came first, yields to it. -/
structure PortTake where
  stall : Bool := false
  write : Bool := true
  seen : Nat := 0
  otherYields : Bool := false

/-- Mesh address of a word of bank b. -/
def wordAddr (b word : Nat) : Nat := bankBase b + 8 * word

/-- The port with priority in a write-write collision of bank b at clock c: port 0, but right after a collision the port that
yielded in it (R288). -/
def priority (b c : Nat) (s : State) : Nat :=
  match (s.bankOf b).yielded with
  | some (l, at') => if at' + 8192 = c then l else 0
  | none => 0

/-- An access of port p (0 or 1) of bank b to a word at clock c, with the value v of a write (R283, R288): it takes the clock from
accesses of lower rank. In a write-write collision the port without priority yields and its access falls in the next clock; a
debug access never has priority (19 R497). -/
def portTake (b p c rank : Nat) (wr : Bool) (word v : Nat) (s : State) : PortTake × State :=
  let x := s.bankOf b
  let m := memRead s.mem (wordAddr b word) 8
  let keep := x.last.filter fun e => Nat.blt c (e.clk + 64 * 8192)
  match keep.find? fun e => wr && Nat.beq e.port (1 - p) && Nat.beq e.clk c && e.write && Nat.beq e.word word with
  | none =>
    let l := placeUse 8192 keep ⟨c, p, wr, word, seenAt keep c word m, rank⟩
    let u := if wr then writeUnder l c word v else (l, false)
    ({ write := u.2, seen := seenAt keep c word m }, s.modBank b fun y => { y with last := u.1 })
  | some o =>
    let first := if rank = 3 then 1 - p else if o.rank = 3 then p else priority b c s
    let own := if first = p then c else c + 8192
    let keep := if first = p then keep.map fun e => if e = o then { o with clk := c + 8192 } else e else keep
    let u := writeUnder (placeUse 8192 keep ⟨own, p, true, word, seenAt keep own word m, rank⟩) own word v
    ({ write := u.2, stall := first != p, otherYields := Nat.beq first p, seen := m },
      (s.bump 64 (SCR.COLLIDE b)).modBank b fun y => { y with last := u.1, yielded := some (1 - first, c) })

/-- The engine that owns port p of bank b, which came first, waits a clock after all (R289). -/
def portStall (b p : Nat) (s : State) : State :=
  let n := s.rd (SCR.OWNER b p)
  if n < 32 then (s.addTo 64 (DSP.STALLS n) 1).modDsp n fun d => { d with due := d.due + 10240 } else s

/-- The port of bank b that the mesh uses (R287). -/
def meshPort (b : Nat) : Nat := if b < 8 then 1 else 0
/-- The first mesh clock edge from c on at which port p of bank b is idle (R283). -/
def idleClock (b p c : Nat) (s : State) : Nat := idleIn 8192 (s.bankOf b).last p c
/-- The first from c on that neither the slots nor the block mover of the engine use (14 R381). -/
def moverClock (b p c : Nat) (s : State) : Nat := idleIn 8192 ((s.bankOf b).last.filter fun e => Nat.blt e.rank 2) p c

/-- Bank of an address register value of a DSP engine (14 R371). -/
def bankIn (a : Nat) : Nat := a / 2 ^ 14 % 64
/-- Is BUSY on every local port of bank b (R289)? A bank that is OFF performs no access either. -/
def bankBusy (b : Nat) (s : State) : Bool := [2, 3, 4].contains (s.rd (SCR.STATE b))

/-! Power domains waking (R294). -/

/-- The domain's content lost and its queues empty, their words counted (R280, R294, 15 R404). -/
def loseDomain (d : Nat) (s : State) : State :=
  if d < 32 then
    { (List.range 48).foldl (fun s j => discardQueue (48 * d + j) s) s with mem := memClear s.mem (paneBase (48 * d)) (48 * 0x2000) }
  else { s with mem := memClear s.mem (bankBase (d - 32)) 0x10000 }

/-- Every unit of the domain gets a state code: a pane that was DETACHED becomes ATTACHED too (R294). -/
def domainUnits (d pan scr : Nat) (s : State) : State :=
  if d < 32 then
    (List.range 48).foldl (fun s j =>
      resetTaps (48 * d + j) ((s.wr (PAN.STATE (48 * d + j)) pan).modPane (48 * d + j) fun x =>
        { x with detachAt := none, attachAt := none, used := false })) s
  else (s.wr (SCR.STATE (d - 32)) scr).modBank (d - 32) fun x => { x with freeAt := s.now }

end Sys2Proof.Machine
end

