-- ==== Sys2Proof/Machine/Mesh.lean ====
section
/-! DEFINITION. The mesh network: arrival of requests and what their destinations do, power domains, router drains,
probes and traces (11_mesh.md R299 to R317, R537). Latencies are not modelled (log entry 7): a command says that a packet
arrives. -/
namespace Sys2Proof.Machine

/-! Places and paths (R299, R301). -/

/-- The controllers of the map, as ways 0 to k - 1 (09 R254). -/
def ways (s : State) : List Nat := (List.range 4).filter fun n => s.rd (DMC.STATE n) != 0 && s.rd (DMC.STATE n) != 6
/-- The controller of a DRAM address (09 R255). -/
def dmcFor (a : Nat) (s : State) : Nat := (ways s).getD (a / 256 % max 1 (s.rd DMC.WAYS)) 0

/-- The destination port of an address: region and unit (01 R25, R300). -/
def destOf (a : Nat) (s : State) : Nat × Nat :=
  match regionOf a s with
  | 0 => (0, dmcFor a s)
  | 1 => (1, a / 0x10000 % 64)
  | 2 => (2, (a - 0x10100000000) / 0x2000)
  | 3 => (3, a / 0x20000 % 32)
  | 4 => (4, a / 0x4000 % 32)
  | r => (r, 0)

/-- The node of a destination port (R299). -/
def destNode (d : Nat × Nat) : Nat :=
  match d.1 with
  | 0 => dmcNode d.2
  | 1 => scrNode d.2
  | 2 => veNode (d.2 / 48)
  | 3 => veNode d.2
  | 4 => dspNode d.2
  | _ => 0

/-- The gate unit of a destination port, if it has one (15 R400). -/
def gateOf (d : Nat × Nat) : Option Nat :=
  match d.1 with
  | 0 => some (0xA0 + d.2)
  | 1 => some (0x60 + d.2)
  | 2 => some (d.2 / 48)
  | 3 => some (0x20 + d.2)
  | 4 => some (0x40 + d.2)
  | _ => none

/-- The power domain of a destination port, if it has one (15 R404). -/
def domainOf (d : Nat × Nat) : Option Nat :=
  match d.1 with
  | 1 => some (32 + d.2)
  | 2 => some (d.2 / 48)
  | _ => none

/-- The numbers from a to b in order of travel, both included. -/
def walk (a b : Nat) : List Nat :=
  if a ≤ b then (List.range (b - a + 1)).map (a + ·) else (List.range (a - b + 1)).map (a - ·)
/-- The routers a packet passes: along its row, then along the column (R301). -/
def path (src dst : Nat) : List Nat :=
  ((walk (src % 8) (dst % 8)).map fun x => 8 * (src / 8) + x)
    ++ ((walk (src / 8) (dst / 8)).drop 1).map fun y => 8 * y + dst % 8

/-- The block port a request leaves from, beside its node (R301). -/
def portOf : Owner → Nat × Nat
  | .veLine n _ => (0, n)
  | .ringWrite q _ => (1, q)
  | .ringRead q => (1, q)
  | .bitmap n => (2, n)
  | .facet f => (3, f)
  | .dspMove n _ => (4, n)
  | .dspNote n _ => (4, n)
  | .lane n _ => (5, n)
  | .stream n => (5, n)
  | .hdi _ => (6, 0)
  | .dbg _ => (7, 0)
  | .crypto => (8, 0)
  | .flp => (9, 0)
  | .reload => (9, 1)
  | .mesh p _ => (10, p)

/-- Does an address lie in the dictionary window (01 R25)? -/
def inWindow (a : Nat) : Bool := Nat.ble 0xF0000000000 a && Nat.blt a 0xF0008000000
/-- Virtual channel of a request: that of the dictionary window is 1 whatever the class (R304). -/
def vcOf (r : MeshReq) : Nat := if inWindow r.addr = false ∧ r.cls < 2 then 0 else 1

/-- Virtual channel of the response to a request, by its class (R304). -/
def respVc (r : MeshReq) : Nat := if r.cls < 2 then 2 else 3
/-- Do the responses to two requests form one stream (R301)? -/
def sameReturn (a b : MeshReq) (s : State) : Bool :=
  decide (portOf a.own = portOf b.own) && Nat.beq a.src b.src && decide (destOf a.addr s = destOf b.addr s)
    && Nat.beq (respVc a) (respVc b)
/-- Are two requests of one stream: source port, destination port and virtual channel (R301)? -/
def sameStream (a b : MeshReq) (s : State) : Bool :=
  decide (portOf a.own = portOf b.own) && Nat.beq a.src b.src && decide (destOf a.addr s = destOf b.addr s) && Nat.beq (vcOf a) (vcOf b)

/-- Do two requests spend credits of one pool: destination port, source node and class (R306)? -/
def samePool (a b : MeshReq) (s : State) : Bool :=
  Nat.beq a.src b.src && Nat.beq a.cls b.cls && decide (destOf a.addr s = destOf b.addr s)

/-- Requests that keep an admission credit of the pool of r at its port (R306, R310). -/
def creditsUsed (r : MeshReq) (s : State) : Nat :=
  let d := destOf r.addr s
  let at' := (if d.1 = 0 then (s.dmcOf d.2).ingress else []) ++ (s.held ++ s.steal).map (·.req)
  (at'.filter fun x => samePool x r s).length

/-- Is a credit free for one more request of the pool of r (R306)? -/
def creditFree (r : MeshReq) (s : State) : Bool :=
  Nat.blt (creditsUsed r s + (s.reqs.filter fun x => samePool x r s).length) 4

/-- The requests issued before r. -/
def before (r : MeshReq) (s : State) : List MeshReq := s.reqs.takeWhile fun x => decide (x ≠ r)

/-- Has the source of r a credit for it, so that it has been sent into the mesh, or does it wait at its own node (R306)? -/
def sent (r : MeshReq) (s : State) : Bool :=
  Nat.blt (creditsUsed r s + ((before r s).filter fun x => samePool x r s).length) 4

/-- Does the draining router lie on the path (R311)? -/
def drains (p : List Nat) (s : State) : Bool := match s.drain with | some d => p.contains d.node | none => false

/-- Can the request arrive now: it is under way and sent, the first of its stream that is, and no router of its path drains
(R301, R306, R311)? A request of a source outside the model's blocks is under way when its command says so. -/
def canArrive (r : MeshReq) (s : State) : Bool :=
  (s.reqs.contains r || (match r.own with | .mesh _ _ => true | _ => false))
    && sent r s && !((before r s).any fun x => sameStream x r s && sent x s)
    && !(drains (path r.src (destNode (destOf r.addr s))) s)

/-- The routers a response passes: an error of the source's own router crosses no other (R300, R301). -/
def respPath (r : MeshReq) (s : State) : List Nat :=
  if regionOf r.addr s = 6 then [r.src] else path (destNode (destOf r.addr s)) r.src

/-- Does the data of a DSP engine's move wait for a bank that is BUSY (10 R289)? -/
def moverWaits (x : MeshResp) (s : State) : Bool :=
  match x.req.own with
  | .dspMove n _ => decide (x.kind = 0) && (s.dspOf n).moves.any fun m =>
      !m.out && (m.wait.any fun e => decide (e.1 = x.req)) && bankBusy (bankIn m.elem) s
  | _ => false
/-- Can the response reach its source now: it is the first of its stream, no router of its path drains, and its data does not wait
for a bank (R301, R311, 10 R289)? -/
def canReturn (x : MeshResp) (s : State) : Bool :=
  !((s.resps.takeWhile fun y => decide (y ≠ x)).any fun y => sameReturn y.req x.req s) && !(drains (respPath x.req s) s)
    && !(moverWaits x s)

/-! Probes and traces (R313, R314), break units of kind MESH (19 R487). -/

/-- A packet as a probe sees it: source, destination, operation code of R302, class, virtual channel, data flits. -/
structure Packet where
  src : Nat
  dst : Nat
  op : Nat
  cls : Nat
  vc : Nat
  flits : Nat
  req : MeshReq

/-- Operation code of a request (R302). -/
def opCode (op : MeshOp) : Nat := match op with | .read => 0 | .write => 1 | .orw => 2

/-- The request as a packet (R302). -/
def reqPacket (r : MeshReq) (s : State) : Packet :=
  ⟨r.src, destNode (destOf r.addr s), opCode r.op, r.cls, vcOf r, if r.op = .write then (r.len + 63) / 64 else 0, r⟩
/-- The response as a packet (R302, R304). -/
def respPacket (x : MeshResp) (s : State) : Packet :=
  ⟨destNode (destOf x.req.addr s), x.req.src, 8 + x.kind, x.req.cls, respVc x.req,
    if x.kind = 0 then (x.req.len + 63) / 64 else 0, x.req⟩

/-- Port by which a packet leaves a node of its path: 0 north, 1 east, 2 south, 3 west, 4 local (R316). -/
def outPort (node dst : Nat) : Nat :=
  if node % 8 < dst % 8 then 1 else if dst % 8 < node % 8 then 3
  else if node / 8 < dst / 8 then 0 else if dst / 8 < node / 8 then 2 else 4

/-- Does running probe p match the packet (R313, R316)? -/
def probeMatches (p : Nat) (k : Packet) (s : State) : Bool :=
  let c := s.rd (MSH.PSEL p)
  let node := Dict.bitsOf c 55 50
  let port := Dict.bitsOf c 49 47
  let resp := Nat.ble 8 k.op
  Nat.beq (s.rd (MSH.PSTATE p)) 1
    && (if port = 5 then Nat.beq node k.src else (path k.src k.dst).contains node && Nat.beq port (outPort node k.dst))
    && (Dict.bitsOf c 46 43).testBit k.vc && (Dict.bitsOf c 42 39).testBit k.cls
    && (Dict.bitsOf c 38 35).testBit (if resp then 3 else k.op)
    && (!(c.testBit 34) || Nat.beq (Dict.bitsOf c 33 28) k.src) && (!(c.testBit 27) || Nat.beq (Dict.bitsOf c 26 21) k.dst)
    && (!(c.testBit 20) || resp || (Nat.ble (s.rd (MSH.PADDR_LO p)) k.req.addr && Nat.blt k.req.addr (s.rd (MSH.PADDR_HI p))))
    && (!(c.testBit 19) || Nat.beq (apState (Dict.bitsOf c 18 15) s) 2)

/-- The label of a request, as its source gave it (R302). Of equal requests under way the oldest arrives first, and is answered
first: of a request that has just arrived it is the label before those of the ones still in the mesh. -/
def tagOf (r : MeshReq) (resp : Bool) (s : State) : Nat :=
  match r.own with
  | .mesh _ t => t % 65536
  | .lane _ t => t % 65536
  | _ =>
    let mine := s.labels.filter fun e => decide (e.1 = r)
    (mine.getD (if resp then 0 else mine.length - 1 - (s.reqs.filter fun x => decide (x = r)).length) (r, 0)).2

/-- A trace record of 32 bytes (R314). The MESH clock runs from the edge on which MPLL locked, which crh.rstAt is from then on. -/
def traceRecord (p : Nat) (k : Packet) (s : State) : Nat :=
  let w0 := (s.now - s.crh.rstAt) / 8192 % 2 ^ 64
  let w1 := (k.req.len / 8 - 1) % 32 * 2 ^ 59 + k.op * 2 ^ 55 + k.req.addr % 2 ^ 48
  let w2 := tagOf k.req (Nat.ble 8 k.op) s * 2 ^ 48 + k.src % 64 * 2 ^ 42 + k.dst % 64 * 2 ^ 36 + k.cls % 4 * 2 ^ 34 + k.vc % 4 * 2 ^ 32 + p % 32 * 2 ^ 27
  let w3 := if k.op = 2 then k.req.data % 2 ^ 64 else 0
  w0 + w1 * 2 ^ 64 + w2 * 2 ^ 128 + w3 * 2 ^ 192

/-- MSH.EVFLAGS bit b (R316, R317). -/
def mshFlag (b : Nat) (s : State) : State := s.flag MSH.EVFLAGS b (352 + b)

/-- The records with record w of probe p after them: before the records of the same clock that later probes wrote (R314). -/
def traceInsert (p w : Nat) (l : List Nat) : List Nat :=
  let later := l.reverse.takeWhile fun v => Nat.beq (v % 2 ^ 64) (w % 2 ^ 64) && Nat.blt p (v / 2 ^ 155 % 32)
  l.take (l.length - later.length) ++ w :: later.reverse
/-- A record written into the trace buffer (R314). -/
def traceWrite (p : Nat) (k : Packet) (s : State) : State :=
  let w := traceRecord p k s
  if s.trace.length < 8192 then { s with trace := traceInsert p w s.trace }
  else if s.rd MSH.TMODE = 1 then { s.bump 64 MSH.TLOST with trace := traceInsert p w (s.trace.drop 1) }
  else mshFlag 4 (s.bump 64 MSH.TLOST)

/-- Every probe sees the packet, in probe order (R313, R314). -/
def probesSee (k : Packet) (s : State) : State :=
  (List.range 32).foldl (fun s p =>
    if probeMatches p k s then
      let s := (s.bump 64 (MSH.PPKTS p)).addTo 64 (MSH.PFLITS p) (1 + k.flits)
      if (s.rd (MSH.PSEL p)).testBit 14 then traceWrite p k s else s
    else s) s

/-- The arrival of a request noticed by probes and break units. -/
def noteArrival (r : MeshReq) (s : State) : State :=
  brkMatch 7 0 r.addr (opCode r.op) r.cls s.now (probesSee (reqPacket r s) s)

/-- An error of a flit noticed by a router of the packet's path (R308). -/
def flitNoted (p : List Nat) (s : State) (f : Flit) : State :=
  match f with
  | .corrected n => if p.contains n then mshFlag 1 (s.bump 64 (MSH.LINK_CE n)) else s
  | .poisoned n => if p.contains n then mshFlag 2 (s.bump 64 (MSH.LINK_UE n)) else s
/-- The errors of a packet's flits noticed along its path. -/
def flitsNoted (p : List Nat) (fl : List Flit) (s : State) : State := fl.foldl (flitNoted p) s
/-- Is the packet poisoned on its path? -/
def isPoison (p : List Nat) (fl : List Flit) : Bool := fl.any fun f => match f with | .poisoned n => p.contains n | _ => false

/-! What destinations do (R537, 10 R281 to R286, 04 R125, 14 R387). -/

/-- A request within the limits of R537: not an OR-write, 8 to 256 bytes in a multiple of 8, aligned to its length
rounded up to a power of two, within one unit of the given stride. -/
def fits (r : MeshReq) (stride : Nat) : Bool :=
  let al := if r.len ≤ 8 then 8 else if r.len ≤ 16 then 16 else if r.len ≤ 32 then 32 else if r.len ≤ 64 then 64
    else if r.len ≤ 128 then 128 else 256
  decide (r.op ≠ .orw) && Nat.ble 8 r.len && Nat.ble r.len 256 && Nat.beq (r.len % 8) 0 && Nat.beq (r.addr % al) 0
    && Nat.ble (r.addr % stride + r.len) stride

/-- The read or write performed in memory and answered. -/
def performMem (r : MeshReq) (s : State) : State :=
  if r.op = .write then meshAnswer r 1 0 (s.store r.addr r.len r.data) else meshAnswer r 0 (memRead s.mem r.addr r.len) s

/-- Words of a read in which the check finds one of the errors. -/
def badWords (es : List Ecc) (r : MeshReq) (ecc : List Ecc) : Nat := ((ecc.take (r.len / 8)).filter fun e => es.contains e).length

/-- A mesh access to bank b that has waited for its port for SCR.STEAL_LIMIT clocks (10 R284). -/
def bankTimeout (b : Nat) (r : MeshReq) (s : State) : State := meshAnswer r 2 0 (scrFlag b 2 (s.bump 64 (SCR.STEAL_TIMEOUT b)))

/-- The rank of a mesh access at a port: a debug access never has priority (19 R497). -/
def portRank (r : MeshReq) : Nat := match r.own with | .dbg _ => 3 | _ => 2
/-- Word i of a mesh access to bank b, in an idle clock of the port the mesh uses: written, or read into the data (10 R283,
R287 to R289). Where the engine of port 0 yields, that engine waits. -/
def bankWord (b : Nat) (r : MeshReq) (x : Nat × State) (i : Nat) : Nat × State :=
  let s := x.2
  let word := r.addr % 0x10000 / 8 + i
  let v := r.data / 2 ^ (64 * i) % 2 ^ 64
  let c := idleClock b (meshPort b) (engEdge s.now + 8192 * i) s
  let pt := portTake b (meshPort b) c (portRank r) (decide (r.op = .write)) word v s
  let t := if pt.1.otherYields then portStall b (1 - meshPort b) pt.2 else pt.2
  if r.op = .write then (x.1, if pt.1.write then t.store (wordAddr b word) 8 v else t)
  else (x.1 + pt.1.seen * 2 ^ (64 * i), t)

/-- The words of a mesh access to bank b, and its answer. -/
def bankPerform (b : Nat) (r : MeshReq) (s : State) : State :=
  let x := (List.range (r.len / 8)).foldl (bankWord b r) (0, s)
  if r.op = .write then meshAnswer r 1 0 x.2 else meshAnswer r 0 x.1 x.2

/-- Does no engine own the port of bank b that the mesh uses, a port 1: the mesh never waits (10 R287)? -/
def meshFree (b : Nat) (s : State) : Bool := Nat.blt b 8 && Nat.ble 32 (s.rd (SCR.OWNER b 1))
/-- A request to scratch bank b (10 R283 to R287, R291), with what the check code finds in each of its words. -/
def serveBank (b : Nat) (ecc : List Ecc) (r : MeshReq) (s : State) : State :=
  if s.rd (SCR.STATE b) = 2 then meshAnswer r 2 0 (s.bump 64 (SCR.TEST_TOUCH b))
  else if meshFree b s = false ∧ engEdge s.now + s.rd SCR.STEAL_LIMIT * 8192 ≤ idleClock b (meshPort b) (engEdge s.now) s then
    bankTimeout b r s
  else if r.op = .write then bankPerform b r s
  else
    let ce := badWords [.ce] r ecc
    let ue := badWords [.ue, .multi] r ecc
    let s := if ce = 0 then s else scrFlag b 0 (s.addTo 64 (SCR.CE b) ce)
    if ue = 0 then bankPerform b r s else meshAnswer r 2 0 (scrFlag b 1 (s.addTo 64 (SCR.UE b) ue))

/-- Row i of a mesh access to pane p, at the next FAB edge at which its port is idle: written, or read into the data (10 R276,
R282, R283). -/
def paneRow (p : Nat) (r : MeshReq) (x : Nat × State) (i : Nat) : Nat × State :=
  let s := x.2
  let wr := decide (r.op = .write)
  let port := if wr then 1 else 0
  let l := (s.paneOf p).uses.filter fun u => Nat.ble (paneEdge p s) u.clk
  let m := memRead s.mem (r.addr + 8 * i) 8
  let t := s.modPane p fun x =>
    { x with uses := l ++ [⟨idleIn fabClk l port (paneEdge p s), port, wr, r.addr % 0x2000 / 8 + i, m, portRank r⟩] }
  if wr then (x.1, t.store (r.addr + 8 * i) 8 (r.data / 2 ^ (64 * i) % 2 ^ 64)) else (x.1 + m * 2 ^ (64 * i), t)

/-- A mesh access to pane p performed in idle clocks of its port, a row in each (10 R282, R286). -/
def panePerform (p : Nat) (ecc : List Ecc) (r : MeshReq) (s : State) : State :=
  let bad := if r.op = .read then badWords [.ce, .ue, .multi] r ecc else 0
  if bad = 0 then
    let x := (List.range (r.len / 8)).foldl (paneRow p r) (0, s)
    if r.op = .write then meshAnswer r 1 0 x.2 else meshAnswer r 0 x.1 x.2
  else meshAnswer r 2 0 (panFlag p 1 (s.addTo 64 (PAN.PERR p) bad))

/-- Does the fabric use the port of pane p that the operation needs at edge e: RE for the read port, WE for the write port
(10 R283)? -/
def paneBusy (p : Nat) (op : MeshOp) (e : Nat) (s : State) : Bool :=
  Nat.beq (s.rd (PAN.STATE p)) 0 && (regsBefore (portCell p (if op = .read then 0 else 1)) e s).f

/-- Does the access wait for the port of pane p that the operation needs? -/
def waitsFor (p : Nat) (op : MeshOp) (w : PortReq) (s : State) : Bool :=
  decide (destOf w.req.addr s = (2, p)) && decide (w.req.op = op)

/-- A request to pane p (10 R281 to R284, R286, R292): it waits behind others of its port, and while the fabric uses it. -/
def servePane (p : Nat) (ecc : List Ecc) (r : MeshReq) (s : State) : State :=
  if s.rd (PAN.STATE p) = 2 ∨ s.rd (PAN.MODE p) = 1 ∨ s.rd (CFG.FACET_STATE (p / 48)) = 1 then meshAnswer r 2 0 s
  else if paneBusy p r.op (paneEdge p s) s || s.steal.any fun w => waitsFor p r.op w s then
    { s with steal := s.steal ++ [⟨r, ecc, s.now⟩] }
  else panePerform p ecc r s

/-- The oldest access that waits for the port of pane p that the operation needs is performed. -/
def paneServe (p : Nat) (op : MeshOp) (s : State) : State :=
  match s.steal.find? fun w => waitsFor p op w s with
  | some w => panePerform p w.ecc w.req { s with steal := s.steal.erase w }
  | none => s

/-- Every access that waits for pane p is performed, in acceptance order: its ports are idle in every clock (10 R292). -/
def paneServeAll (p : Nat) (s : State) : State :=
  let mine := fun w : PortReq => decide (destOf w.req.addr s = (2, p))
  (s.steal.filter mine).foldl (fun s w => panePerform p w.ecc w.req s) { s with steal := s.steal.filter fun w => !(mine w) }

/-- Every access that waits for a pane of FACETf gets an error response: the facet begins to load (10 R281). -/
def failWaiting (f : Nat) (s : State) : State :=
  let mine := fun w : PortReq => Nat.beq (destOf w.req.addr s).1 2 && Nat.beq ((destOf w.req.addr s).2 / 48) f
  (s.steal.filter mine).foldl (fun s w => meshAnswer w.req 2 0 s) { s with steal := s.steal.filter fun w => !(mine w) }

/-- PANE_FABRIC_ACCESS: at the next FAB edge the pane performs what its port cells call for; while BUSY holds, a write or
push is not performed and is counted (10 R278, R279, R289). A port that the fabric leaves idle takes a mesh access that waits
(10 R283). -/
def execPaneFabricAccess (p : Nat) (bad : Bool) (s : State) : Out :=
  unitCmd p 1536 <|
    let e := paneEdge p s
    if clocked (p / 48) s = false then s
    else if s.rd (PAN.STATE p) = 0 then
      (if s.rd (PAN.MODE p) = 1 then paneQueue p e bad (s.upto e)
       else
         let t := s.upto e
         let t := if paneBusy p .read e s then t else paneServe p .read t
         paneRam p e bad (if paneBusy p .write e s then t else paneServe p .write t))
    else
      let s' := (s.upto e).modPane p fun x => { x with edge := e }
      if (regsBefore (portCell p 1) e s).f then panFlag p 0 (s'.bump 64 (PAN.REFUSED p)) else s'

/-- PANE_DETACH_LANDS: DETACHED; mesh accesses continue in every clock (10 R292). -/
def execPaneDetachLands (p : Nat) (s : State) : Out :=
  unitCmd p 1536 <|
    match (s.paneOf p).detachAt with
    | some e => paneServeAll p (((s.upto e).wr (PAN.STATE p) 1).modPane p fun x => { x with detachAt := none })
    | none => s

/-- A request that has entered the port of its unit is performed. -/
def serve (ecc : List Ecc) (r : MeshReq) (s : State) : State :=
  let d := destOf r.addr s
  match d.1 with
  | 0 => s.modDmc d.2 fun x => { x with ingress := x.ingress ++ [r] }
  | 1 => serveBank d.2 ecc r s
  | 2 => servePane d.2 ecc r s
  | 3 => if r.op = .write ∧ veStopped d.2 s = false then meshAnswer r 2 0 s else performMem r s
  | 4 => if r.op = .write ∧ dspStopped d.2 s = false then meshAnswer r 2 0 s else performMem r s
  | _ => s

/-- Does a request keep the limits of R537 at its destination port? -/
def wellPlaced (d : Nat × Nat) (r : MeshReq) : Bool :=
  match d.1 with
  | 1 => fits r 0x10000
  | 2 => fits r 0x2000
  | 3 => fits r 0x20000
  | 4 => fits r 0x4000
  | _ => true

/-- CRH.EVFLAGS bit b (15 R411, R412). -/
def crhFlag (b : Nat) (s : State) : State := s.flag CRH.EVFLAGS b (24 + b)

/-- A gated touch of unit u: zeros read, a write discarded, a normal response (R309, 15 R402). -/
def gatedTouch (u : Nat) (r : MeshReq) (s : State) : State :=
  meshAnswer r (if r.op = .read then 0 else 1) 0 (crhFlag 7 ((s.bump 64 CRH.GATED_TOUCHES).bump 32 (CRH.GATE_TOUCH u)))

/-- Does the port of unit u accept no access for now: its gate opens, or closes and no longer waits (15 R401)? -/
def gateWaits (u : Nat) (s : State) : Bool :=
  Nat.beq (s.rd (CRH.GATE_STATE u)) 3 || (Nat.beq (s.rd (CRH.GATE_STATE u)) 2 && s.crh.forced.contains u)

/-- A request held in the ingress buffer of its port. -/
def hold (ecc : List Ecc) (r : MeshReq) (s : State) : State := { s with held := s.held ++ [⟨r, ecc, s.now⟩] }

/-- A request wakes its domain d, which is off (R310, 15 R404). -/
def wakeDomain (d : Nat) (s : State) : State :=
  { s.wr (CRH.PWR_STATE d) 1 with crh := { s.crh with wakeAt := s.crh.wakeAt ++ [(d, s.now)] } }

/-- A request at the port of its unit: one that breaks the limits of R537 changes nothing; else first the gate, then the power
domain, then the unit (R309, R310, 15 R404). -/
def atPort (ecc : List Ecc) (r : MeshReq) (s : State) : State :=
  let d := destOf r.addr s
  let gate := match gateOf d with | some u => s.rd (CRH.GATE_STATE u) | none => 1
  let u := (gateOf d).getD 0
  if wellPlaced d r = false then meshAnswer r 2 0 s
  else if gate = 0 then gatedTouch u r s
  else if (gateOf d).isSome && gateWaits u s then hold ecc r s
  else match domainOf d with
    | some p =>
      if s.rd (CRH.PWR_STATE p) = 0 then
        mshFlag 3 (hold ecc r (wakeDomain p s) |>.bump 64 (MSH.WAKES (destNode d)))
      else if s.rd (CRH.PWR_STATE p) = 3 then serve ecc r s
      else hold ecc r s
    | none => serve ecc r s

/-- A request arrives at its destination port. To the dictionary window DICT_WINDOW_ACCESS brings it (02 R51). -/
def arrivePort (fl : List Flit) (ecc : List Ecc) (r : MeshReq) (s : State) : State :=
  let p := path r.src (destNode (destOf r.addr s))
  let s := flitsNoted p fl (noteArrival r { s with reqs := s.reqs.erase r })
  if isPoison p fl then meshAnswer r 2 0 s else atPort ecc r s

/-- A request command: the request arrives if it can, and it is of the operation and not for the window. A source outside the
model's blocks that names no destination is answered with an error (R300). -/
def arriveCommand (op : MeshOp) (r : MeshReq) (fl : List Flit) (ecc : List Ecc) (s : State) : State :=
  if r.op ≠ op then s
  else if regionOf r.addr s = 6 then meshAnswer r 2 0 { s with reqs := s.reqs.erase r }
  else if regionOf r.addr s ≠ 5 ∧ canArrive r s = true then arrivePort fl ecc r s
  else s

/-- MESH_READ. -/
def execMeshRead (r : MeshReq) (fl : List Flit) (ecc : List Ecc) (s : State) : Out := .next (arriveCommand .read r fl ecc s)
/-- MESH_WRITE. -/
def execMeshWrite (r : MeshReq) (fl : List Flit) (s : State) : Out := .next (arriveCommand .write r fl [] s)
/-- MESH_OR. -/
def execMeshOr (r : MeshReq) (fl : List Flit) (s : State) : Out := .next (arriveCommand .orw r fl [] s)

/-- The requests that wait at a port for which the test holds go on in arrival order (R310, 15 R401). -/
def performHeld (t : MeshReq → Bool) (s : State) : State :=
  let mine := fun w : PortReq => t w.req
  ((s.held ++ s.steal).filter mine).foldl (fun s w => atPort w.ecc w.req s)
    { s with held := s.held.filter fun w => !(mine w), steal := s.steal.filter fun w => !(mine w) }

/-- STEAL_TIMEOUT: a mesh access that has waited for a pane's port for PAN.STEAL_LIMIT fabric clocks gets an error response and
changes nothing (10 R284). For a scratch bank the access itself finds its port's idle clock (bankTimeout). -/
def execStealTimeout (r : MeshReq) (s : State) : Out :=
  .next <|
    match s.steal.find? fun w => decide (w.req = r) with
    | some w =>
      let p := (destOf r.addr s).2
      let t := s.upto (w.at' + s.rd PAN.STEAL_LIMIT * fabClk)
      meshAnswer r 2 0 (panFlag p 2 ({ t with steal := t.steal.erase w }.bump 64 (PAN.STEAL_TIMEOUT p)))
    | none => s

/-! Power domains (R310, 10 R294, 15 R404). -/

/-- DOMAIN_POWERED: within 20 us the waking domain is powered and begins to clear. -/
def execDomainPowered (d : Nat) (s : State) : Out :=
  unitCmd d 96 <|
    if s.rd (CRH.PWR_STATE d) = 1 then
      { domainUnits d 3 3 (s.wr (CRH.PWR_STATE d) 2) with
        crh := { s.crh with wakeAt := s.crh.wakeAt.filter fun e => !(Nat.beq e.1 d) } }
    else s

/-! Drain (R311, R312). -/

/-- Conditions of a self-check and of a write of MSH.RCFG (R312). -/
def drainConds (n : Nat) (s : State) : List (Bool × Nat) :=
  [ ((match s.drain with | some d => d.node != n | none => false), 9),
    ((List.range 32).any (fun v => veLive v s && Nat.beq (s.rd DMC.MAP_STATE) 1 && (ways s).any fun d =>
      (path (veNode v) (dmcNode d)).contains n || (path (dmcNode d) (veNode v)).contains n), 9),
    ((List.range 32).any (fun e => Nat.beq (dspNode e) n && !(dspStopped e s)), 9) ]
/-- The router drains, for new settings or for a self-check; what it already drains for stands beside it. -/
def drainEff (n : Nat) (cfg : Option Nat) (s : State) : State :=
  { s.wr (MSH.RSTATE n) 1 with
    drain := some ⟨n, cfg <|> s.drain.bind (·.cfg), cfg.isNone || (match s.drain with | some d => d.check | none => false)⟩ }

/-- ROUTER_SELFCHECK. -/
def execRouterSelfcheck (q : Req) (n : Nat) (s : State) : Out :=
  unitCmd n 64 (command q (MSH.RCTRL n) 1 (drainConds n s) (drainEff n none) s)
/-- RCFG_WRITE: the setting is loaded as the drain ends. -/
def execRcfgWrite (q : Req) (n v : Nat) (s : State) : Out :=
  unitCmd n 64 (writeTo q (MSH.RCFG n) 4 v (drainConds n s) (drainEff n (some v)) s)

/-- DRAIN_END: the router resumes within 2 us, with its self-check result or its new settings. -/
def execDrainEnd (n : Nat) (pass : Bool) (s : State) : Out :=
  unitCmd n 64 <|
    match s.drain with
    | some d =>
      if d.node = n then
        let t := { s.wr (MSH.RSTATE n) 0 with drain := none }
        let t := if d.check then t.wr (MSH.RCHECK n) (if pass then 1 else 2) else t
        mshFlag 0 ((match d.cfg with
          | some v => t.wr (MSH.RCFG n) v
          | none => t).bump 64 (MSH.DRAINS n))
      else s
    | none => s

/-! Probe commands (R313, R315). -/

/-- RUN. -/
def probeRunEff (p : Nat) (s : State) : State := s.wr (MSH.PSTATE p) 1
/-- STOP. -/
def probeStopEff (p : Nat) (s : State) : State := s.wr (MSH.PSTATE p) 0
/-- CLEAR. -/
def probeClearEff (p : Nat) (s : State) : State := (s.wr (MSH.PPKTS p) 0).wr (MSH.PFLITS p) 0
/-- TCLEAR: the buffer emptied. -/
def tclearEff (s : State) : State := { s with trace := [] }

/-- PROBE_RUN. -/
def execProbeRun (q : Req) (p : Nat) (s : State) : Out := unitCmd p 32 (command q (MSH.PCTRL p) 1 [] (probeRunEff p) s)
/-- PROBE_STOP. -/
def execProbeStop (q : Req) (p : Nat) (s : State) : Out := unitCmd p 32 (command q (MSH.PCTRL p) 2 [] (probeStopEff p) s)
/-- PROBE_CLEAR. -/
def execProbeClear (q : Req) (p : Nat) (s : State) : Out := unitCmd p 32 (command q (MSH.PCTRL p) 3 [] (probeClearEff p) s)
/-- TCLEAR. -/
def execTclear (q : Req) (v : Nat) (s : State) : Out := .next (command q MSH.TCLEAR v [] tclearEff s)

end Sys2Proof.Machine
end

