-- ==== Sys2Proof/Machine/Dmc.lean ====
section
/-! DEFINITION. DDR5 memory controllers (09_dram.md R247 to R275). -/
namespace Sys2Proof.Machine

/-- DMC.EVFLAGS bit b of DMCn (R274, R275): 0 STATE, 1 FAILED, 2 CE, 3 UE, 4 RH, 5 LATE, 6 THERMAL, 7 RETAIN. -/
def dmcFlag (n b : Nat) (s : State) : State := s.flag (DMC.EVFLAGS n) b (320 + 8 * n + b)

/-- DMC.STATE of DMCn (R250). -/
def dmcState (n : Nat) (s : State) : Nat := s.rd (DMC.STATE n)
/-- DMCn enters the state with code c. -/
def dmcEnter (n c : Nat) (s : State) : State := dmcFlag n 0 (s.wr (DMC.STATE n) c)
/-- Is DMCn populated (R250)? -/
def populated (n : Nat) (s : State) : Bool := dmcState n s != 0 && dmcState n s != 6 && !(s.bit DMC.EXCLUDE n)
/-- Is a full load in progress? -/
def fullLoad (s : State) : Bool := match s.cfg.load with | some l => l.full | none => false

/-! Training (R248, R251, R252). -/

/-- DIMMs of the channel whose hubs answer. -/
def answering (n : Nat) (s : State) : List Dimm := (s.dmcOf n).dimms.filter (·.answers)
/-- The data rate of a training: DMC.SPEED, or the highest of R247 that every DIMM of the part supports (R251). -/
def trainRate (s : State) : Nat :=
  if s.rd DMC.SPEED ≠ 0 then s.rd DMC.SPEED
  else ([6400, 5600, 4800].find? fun r => (List.range 4).all fun n => (answering n s).all fun d => Nat.ble r d.rate).getD 0

/-- Capacity of a DIMM in bytes: 16 data devices of x4 width per rank (R247). -/
def dimmBytes (d : Dimm) : Nat := d.ranks * d.density * 2 ^ 35

/-- A field of DMC.CONFIG from the SPD: a value that its map does not hold does not fill it (R274; DEDUCED, log entry 48). -/
def spdField (v : Nat) : Nat := if v ≤ 2 then v else 0
/-- The SPD read before a training: DMC.CONFIG and DMC.CAPACITY (R249, R274). -/
def spdRead (n : Nat) (s : State) : State :=
  let ds := answering n s
  let c := match ds with
    | d :: _ => spdField d.density * 16 + spdField d.ranks * 4 + spdField ds.length
    | [] => 0
  (s.wr (DMC.CONFIG n) c).wr (DMC.CAPACITY n) (ds.foldl (fun a d => a + dimmBytes d) 0)

/-- The lock flag of the DDR PLL of DMCn (15 R395). -/
def ddrLock (n : Nat) (v : Bool) (s : State) : State := s.setBit CRH.CLK_STATUS (5 + n) v

/-- Training starts (R251, R252, 15 R395). Where the DDR PLL has locked at another rate before, it switches (15 R397). -/
def trainStart (n : Nat) (s : State) : State :=
  let x := s.dmcOf n
  let t := ((ddrLock n false (spdRead n (dmcEnter n 2 s)))).modDmc n fun x => { x with rate := trainRate s }
  let rest := t.crh.plls.filter fun e => !(Nat.beq e.1 n)
  { t with crh := { t.crh with plls := if x.pllRate ≠ 0 ∧ x.pllRate ≠ trainRate s then rest ++ [(n, s.now)] else rest } }

/-- Conditions of TRAIN (R250). -/
def trainConds (n : Nat) (s : State) : List (Bool × Nat) :=
  [(dmcState n s != 1 && dmcState n s != 5, 9), (fullLoad s || !(mpllLocked s), 7)]
/-- DMC_TRAIN. -/
def execDmcTrain (q : Req) (n : Nat) (s : State) : Out :=
  unitCmd n 4 (command q (DMC.CTRL n) 1 (trainConds n s) (trainStart n) s)

/-- AUTO_TRAIN_START: every controller in RESET whose DMC.EXCLUDE bit is 0 starts training, at the end of a full load or
at SUP_READY with BOOTSEL 0b00 (R251). -/
def execAutoTrainStart (s : State) : Out :=
  .next <|
    if s.autoTrain then
      (List.range 4).foldl (fun s n => if dmcState n s = 1 ∧ s.bit DMC.EXCLUDE n = false then trainStart n s else s)
        { s with autoTrain := false }
    else s

/-- Is the module one of R247: type and device width, a density of 16 or 32 Gb, one or two ranks? -/
def dimmFits (d : Dimm) : Bool :=
  d.fits && (Nat.beq d.density 1 || Nat.beq d.density 2) && (Nat.beq d.ranks 1 || Nat.beq d.ranks 2)

/-- Result code of a training (R252), eye: a valid eye was found on every signal. A module outside R247 by its density or
rank count has code 3, as one of another type (log entry 48). -/
def trainResult (n : Nat) (eye : Bool) (s : State) : Nat :=
  let ds := (s.dmcOf n).dimms
  if ds.isEmpty then 2
  else if ds.any fun d => !d.answers then 7
  else if ds.any (fun d => !(dimmFits d)) || Nat.blt 2 ds.length then 3
  else if ds.any fun d => !(Nat.beq d.density (ds.headD ⟨true, true, 0, 0, 0⟩).density)
      || !(Nat.beq d.ranks (ds.headD ⟨true, true, 0, 0, 0⟩).ranks) || !(Nat.beq d.rate (ds.headD ⟨true, true, 0, 0, 0⟩).rate) then 5
  else if (s.dmcOf n).rate = 0 ∨ (ds.any fun d => Nat.blt d.rate (s.dmcOf n).rate) = true then 4
  else if !eye then 6
  else 1

/-- A change of a controller's readiness that a start in a checked batch may rest on (02 R63). -/
def dmcChanged (s : State) : State :=
  reopenIf ((List.range 32).any fun n => batchStarts n s && afterBatch s (VEN.BUF_MODE n) != 2) s

/-- A training or retraining ends in FAILED: DIMMs held in reset, the PLL stopped (R252, 15 R395). -/
def dmcFail (n : Nat) (s : State) : State :=
  dmcFlag n 1 (ddrLock n false (dmcEnter n 5 (s.wr (DMC.CONFIG n) (s.rd (DMC.CONFIG n) % 2 ^ 16))))

/-- TRAINING_END: within 250 ms READY or FAILED. -/
def execTrainingEnd (n : Nat) (eye : Bool) (s : State) : Out :=
  unitCmd n 4 <|
    if dmcState n s = 2 then
      let r := trainResult n eye s
      let t := s.wr (DMC.TRAIN_RESULT n) r
      if r = 1 then
        (dmcEnter n 3 (t.wr (DMC.CONFIG n) (t.rd (DMC.CONFIG n) % 2 ^ 16 + (s.dmcOf n).rate * 2 ^ 16))).modDmc n
          fun x => { x with trainTemp := none, bankFree := [], rows := [], rowsAt := s.now }
      else dmcFail n t
    else s

/-- DMC.CONFIG RATE of DMCn becomes v: 0 when not READY (R274). -/
def setRate (n v : Nat) (s : State) : State := s.wr (DMC.CONFIG n) (s.rd (DMC.CONFIG n) % 2 ^ 16 + v * 2 ^ 16)

/-- Retraining starts (R253). A batch that starts an engine from DRAM reopens (02 R63). -/
def retrainStart (n : Nat) (s : State) : State := dmcChanged (setRate n 0 (dmcEnter n 4 (s.bump 64 (DMC.RETRAINS n))))
/-- Conditions of RETRAIN. -/
def retrainConds (n : Nat) (s : State) : List (Bool × Nat) := [(dmcState n s != 3, 9)]
/-- DMC_RETRAIN. -/
def execDmcRetrain (q : Req) (n : Nat) (s : State) : Out :=
  unitCmd n 4 (command q (DMC.CTRL n) 2 (retrainConds n s) (retrainStart n) s)

/-- A signed 16-bit value as an integer. -/
def toS16 (v : Nat) : Int := if v % 65536 < 32768 then ((v % 65536 : Nat) : Int) else ((v % 65536 : Nat) : Int) - 65536

/-- How far the hottest sensor has moved since the last training, in 1/16 degC; nothing before it has been read since. -/
def sensorMoved (x : DmcS) : Nat :=
  match x.trainTemp with
  | some t => (toS16 x.temp - toS16 t).natAbs
  | none => 0

/-- AUTO_RETRAIN: the hottest sensor has moved by DMC.AUTO_RETRAIN since the last training; at most once in 100 ms. -/
def execAutoRetrain (n : Nat) (s : State) : Out :=
  unitCmd n 4 <|
    let x := s.dmcOf n
    let limit := s.rd (DMC.AUTO_RETRAIN n)
    if dmcState n s = 3 ∧ limit ≠ 0 ∧ limit ≤ sensorMoved x then
      let s := match x.lastAuto with
        | some t => s.upto (t + 100000 * ticksPerUs)
        | none => s
      retrainStart n (s.modDmc n fun y => { y with lastAuto := some s.now })
    else s

/-- RETRAINING_END: every accepted request completed, READY or FAILED (R253). -/
def execRetrainingEnd (n : Nat) (ok : Bool) (s : State) : Out :=
  unitCmd n 4 <|
    if dmcState n s = 4 ∧ (s.dmcOf n).track = [] ∧ (s.dmcOf n).scrub = none then
      (if ok then
        (setRate n (s.dmcOf n).rate (dmcEnter n 3 s)).modDmc n fun x => { x with trainTemp := x.trainTemp.map fun _ => x.temp }
      else dmcFail n s)
    else s

/-- DIMM_TEMP_READ: the hottest sensor reads temp in 1/16 degC; crossing 85 degC changes the refresh rate (R249, R269). -/
def execDimmTempRead (n temp : Nat) (s : State) : Out :=
  unitCmd n 4 <|
    if dmcState n s = 3 ∨ dmcState n s = 4 then
      let hot := decide (1360 < toS16 temp)
      let t := s.modDmc n fun x =>
        { x with temp := temp % 65536, hot := hot, trainTemp := some (x.trainTemp.getD (temp % 65536)) }
      if hot = (s.dmcOf n).hot then t else dmcFlag n 6 t
    else s

/-- DDR_PLL_LOCK: within 100 us of the start of a training (15 R395). A lock at another rate ends a switch (15 R397). -/
def execDdrPllLock (n : Nat) (s : State) : Out :=
  unitCmd n 4 <|
    if (dmcState n s = 2 ∨ dmcState n s = 3 ∨ dmcState n s = 4) ∧ s.bit CRH.CLK_STATUS (5 + n) = false then
      let x := s.dmcOf n
      let t := (ddrLock n true s).modDmc n fun y => { y with pllRate := x.rate }
      if t.crh.plls.any (fun e => Nat.beq e.1 n) then
        crhFlag 3 { t with crh := { t.crh with plls := t.crh.plls.filter fun e => !(Nat.beq e.1 n) } }
      else t
    else s

/-! The map (R254). -/

/-- Every controller that is not EMPTY and whose DMC.EXCLUDE bit is set enters EXCLUDED. -/
def excludeNamed (s : State) : State :=
  (List.range 4).foldl (fun s n =>
    if s.bit DMC.EXCLUDE n = true ∧ dmcState n s ≠ 0 ∧ dmcState n s ≠ 6 then
      let busy := dmcState n s = 2 ∨ dmcState n s = 4
      let t := ddrLock n false ((s.wr (DMC.STATE n) 6).wr (DMC.CONFIG n) (s.rd (DMC.CONFIG n) % 2 ^ 16))
      if busy then dmcFlag n 0 t else t
    else s) s

/-- The map formed; with no populated controller left it is not formed (R254). -/
def formMap (s : State) : State :=
  let s := excludeNamed s
  let m := (List.range 4).filter fun n => Nat.beq (dmcState n s) 3
  let k := m.length
  let h := m.headD 0
  let same := m.all fun n => Nat.beq (s.rd (DMC.CAPACITY n)) (s.rd (DMC.CAPACITY h))
    && Nat.beq (s.rd (DMC.CONFIG n) % 16) (s.rd (DMC.CONFIG h) % 16)
  if (k = 1 ∨ k = 2 ∨ k = 4) ∧ ((List.range 4).all fun n => !(populated n s) || Nat.beq (dmcState n s) 3) = true ∧ same = true then
    let ranks := s.rd (DMC.CONFIG h) % 4 * (s.rd (DMC.CONFIG h) / 4 % 4)
    (((s.wr DMC.MAP_STATE 1).wr DMC.WAYS k).wr DMC.INSTALLED (k * s.rd (DMC.CAPACITY h))).wr DMC.RANK_BYTES
      (k * s.rd (DMC.CAPACITY h) / max 1 ranks)
  else
    let st := if (List.range 4).any (fun n => populated n s) then 2 else 0
    (((s.wr DMC.MAP_STATE st).wr DMC.WAYS k).wr DMC.INSTALLED 0).wr DMC.RANK_BYTES 0

/-- Can the map form: some controller is populated, and no populated one is in RESET or TRAINING? -/
def mapReady (s : State) : Bool :=
  (List.range 4).any (fun n => populated n s)
    && (List.range 4).all fun n => !(populated n s) || (dmcState n s != 1 && dmcState n s != 2)

/-- MAP_FORM. -/
def execMapForm (s : State) : Out := .next (if s.rd DMC.MAP_STATE = 0 ∧ mapReady s = true then formMap s else s)

/-- Conditions of a write of DMC.EXCLUDE. -/
def excludeConds (s : State) : List (Bool × Nat) := [(Nat.beq (s.rd DMC.MAP_STATE) 1, 9)]
/-- A write of DMC.EXCLUDE: with a map error the map is formed again at once. A batch that starts an engine from DRAM
reopens, as DMC.EXCLUDE says which controllers are populated (R250, 02 R63). -/
def excludeEff (v : Nat) (s : State) : State :=
  let t := dmcChanged (s.wr DMC.EXCLUDE v)
  if s.rd DMC.MAP_STATE = 2 then formMap t else t
/-- EXCLUDE_WRITE. -/
def execExcludeWrite (q : Req) (v : Nat) (s : State) : Out :=
  .next (writeTo q DMC.EXCLUDE 4 v (excludeConds s) (excludeEff v) s)

/-- Conditions of a write of DMC.RETAIN: no bit for a rank index that the configuration lacks (R272). -/
def retainConds (v : Nat) (s : State) : List (Bool × Nat) :=
  let h := (ways s).headD 0
  let ranks := if s.rd DMC.MAP_STATE = 1 then s.rd (DMC.CONFIG h) % 4 * (s.rd (DMC.CONFIG h) / 4 % 4) else 0
  [(Nat.ble (2 ^ ranks) v, 4)]
/-- RETAIN_WRITE. -/
def execRetainWrite (q : Req) (v : Nat) (s : State) : Out :=
  .next (writeTo q DMC.RETAIN 4 v (retainConds v s) (fun s => s.wr DMC.RETAIN v) s)

/-! Timing (R258, R259). -/

/-- CAS latency in clocks. -/
def casOf (rate : Nat) : Nat := if rate = 4800 then 40 else if rate = 5600 then 46 else 52
/-- Ticks of k clocks of the data rate, to the nearest. -/
def clocks (rate k : Nat) : Nat := (k * 16384000 + rate / 2) / max 1 rate

/-- How the controller performs a request: a read, a write of whole bursts, or one that reads and merges (R258). -/
inductive AccKind where
  | read | whole | merge
  deriving DecidableEq, Repr

/-- Bursts of 64 bytes that a request touches. -/
def burstsOf (r : MeshReq) : List Nat := (List.range ((r.addr % 64 + r.len + 63) / 64)).map (r.addr / 64 + ·)
/-- Bursts that the request's accesses read and merge: the one only partly written (R258, R265). -/
def mergedOf (r : MeshReq) : List Nat :=
  match r.op with
  | .read => []
  | .write => if r.len % 64 = 0 then [] else [(r.addr + r.len - 1) / 64]
  | .orw => [r.addr / 64]

/-- The bursts of a list on subchannel c: the lowest bit of the burst (R256). -/
def onSub (c : Nat) (bs : List Nat) : List Nat := bs.filter fun b => Nat.beq (b % 2) c
/-- The kind of a request's access on subchannel c (R258). -/
def accKind (r : MeshReq) (c : Nat) : AccKind :=
  if r.op = .read then .read else if (onSub c (mergedOf r)).isEmpty then .whole else .merge
/-- Does the request's access on subchannel c have two bursts? -/
def twoBursts (r : MeshReq) (c : Nat) : Bool := Nat.blt 1 (onSub c (burstsOf r)).length

/-- Latency from acceptance to completion of an access on an idle bank, in ns (R259). -/
def latencyNs (rate : Nat) (k : AccKind) (two : Bool) : Nat :=
  let i := if rate = 4800 then 0 else if rate = 5600 then 1 else 2
  match k with
  | .read => if two then [59, 55, 51].getD i 51 else [56, 52, 48].getD i 48
  | .whole => [50, 47, 44].getD i 44
  | .merge => [80, 75, 70].getD i 70

/-- Row cycle of an access (R258). -/
def rowCycle (rate : Nat) (k : AccKind) (twoB : Bool) : Nat :=
  let cl := casOf rate
  let two := if twoB then 1 else 0
  match k with
  | .read => 32 * ticksPerNs + clocks rate cl
  | .whole => clocks rate (2 * cl + cl - 2 + 8 * (1 + two)) + 30 * ticksPerNs
  | .merge => clocks rate (3 * cl + cl - 2 + 8 * (2 + two)) + 35 * ticksPerNs

/-- Instant of the write command of burst b after an activate at t (R258). -/
def writeCommand (rate : Nat) (r : MeshReq) (b t : Nat) : Nat :=
  let second := if 2 ≤ b - r.addr / 64 then 1 else 0
  t + clocks rate (2 * casOf rate + 8 * (1 + second)) + 5 * ticksPerNs

/-! Places in DRAM (R255, R256). -/

/-- Channel address of a DRAM address. -/
def chanAddr (a : Nat) (s : State) : Nat := a % 256 + a / (256 * max 1 (s.rd DMC.WAYS)) * 256
/-- Row width of DMCn. -/
def rowBits (n : Nat) (s : State) : Nat := if s.rd (DMC.CONFIG n) / 16 % 4 = 2 then 17 else 16
/-- Rank index of a DRAM address on DMCn. -/
def rankOf (n a : Nat) (s : State) : Nat := chanAddr a s / 2 ^ (19 + rowBits n s)
/-- Row of a DRAM address on DMCn. -/
def dramRow (n a : Nat) (s : State) : Nat := chanAddr a s / 2 ^ 19 % 2 ^ rowBits n s
/-- Subchannels a request touches: it has one access on each (R258). -/
def subsOf (r : MeshReq) : List Nat := [0, 1].filter fun c => !((onSub c (burstsOf r)).isEmpty)
/-- The bank of a DRAM address on subchannel c. -/
def bankOf (n a c : Nat) (s : State) : Nat := (rankOf n a s * 32 + chanAddr a s / 256 % 32) * 2 + c

/-! Acceptance (R257, R261, R271, R272). -/

/-- Entries held by class c. -/
def heldBy (n c : Nat) (s : State) : Nat := ((s.dmcOf n).track.filter fun x => Nat.beq x.req.cls c).length
/-- Does the tracker, of 2,048 entries in all, admit a request of class c (R261)? -/
def admits (n c : Nat) (s : State) : Bool :=
  let res := fun c => s.rd (DMC.RESERVE n c)
  let total := res 0 + res 1 + res 2 + res 3
  let shared := (heldBy n 0 s - res 0) + (heldBy n 1 s - res 1) + (heldBy n 2 s - res 2) + (heldBy n 3 s - res 3)
  Nat.blt (heldBy n 0 s + heldBy n 1 s + heldBy n 2 s + heldBy n 3 s) 2048
    && (Nat.blt (heldBy n c s) (res c) || Nat.blt shared (2048 - total))

/-- The instant at which, after k others, an entry frees among those that end at the instants ts. -/
def freesAt : (k : Nat) → List Nat → Nat
  | _, [] => 0
  | 0, t :: ts => ts.foldl min t
  | k + 1, t :: ts => freesAt k ((t :: ts).erase (ts.foldl min t))
/-- The instant from which a throttled requester's next request is accepted (R271): from the 65th requester on credit is wholly
withheld until an entry frees (20 R509). -/
def acceptFrom (n : Nat) (r : MeshReq) (s : State) : Nat :=
  let live := (s.dmcOf n).throttles.filter fun t => Nat.blt s.now t.until'
  match live.zipIdx.find? fun e => Nat.beq e.1.src r.src && Nat.beq e.1.cls r.cls with
  | some (t, i) =>
    let gap := t.last + s.rd (DMC.RH_GAP n) * ticksPerNs
    min t.until' (if i < 64 then gap else max gap (freesAt (i - 64) ((live.take 64).map (·.until'))))
  | none => 0

/-- Is a request one that R257 allows? -/
def dramFits (r : MeshReq) : Bool :=
  if r.op = .orw then Nat.beq r.len 8 && Nat.beq (r.addr % 8) 0 else fits r 256

/-- The earliest pending access that an OR-write joins (R265). -/
def joins (n : Nat) (r : MeshReq) (s : State) : Option Trk :=
  if r.op = .orw then
    (s.dmcOf n).track.find? fun x =>
      x.lead.isNone && (mergedOf x.req).contains (r.addr / 64) &&
        (match x.acts.find? fun e => Nat.beq e.1 (r.addr / 64 % 2) with
         | some (_, none) => true
         | some (_, some t) => Nat.blt s.now (writeCommand (s.dmcOf n).rate x.req (r.addr / 64) t)
         | none => false)
  else none

/-- A request accepted, error requests answered at once (R257, R262, R272). -/
def acceptReq (n : Nat) (r : MeshReq) (s : State) : State :=
  let s := (s.bump 64 (DMC.ACCEPTED n r.cls)).modDmc n fun x =>
    { x with ingress := x.ingress.erase r,
             throttles := x.throttles.map fun t => if t.src = r.src ∧ t.cls = r.cls then { t with last := s.now } else t }
  if dramFits r = false then meshAnswer r 2 0 (s.bump 64 (DMC.ERRORS n r.cls))
  else if s.bit DMC.RETAIN (rankOf n r.addr s) then
    meshAnswer r 2 0 (dmcFlag n 7 ((s.bump 64 (DMC.ERRORS n r.cls)).bump 64 (DMC.RETAIN_TOUCH n)))
  else
    let j := joins n r s
    let s := if j.isSome then s.bump 64 (DMC.COMBINED n) else s
    s.modDmc n fun x =>
      { x with track := x.track ++ [{ id := x.nextId, req := r, at' := s.now, lead := j.map (·.id),
                                      acts := if j.isSome then [] else (subsOf r).map (·, none) }],
               nextId := x.nextId + 1 }

/-- DMC_ACCEPT: the first waiting request that the tracker and the throttles admit enters the tracker; where throttles
withhold every one, the one they admit earliest. -/
def execDmcAccept (n : Nat) (s : State) : Out :=
  unitCmd n 4 <|
    if dmcState n s = 3 then
      let ok := (s.dmcOf n).ingress.filter fun r => admits n r.cls s
      match ok.find? fun r => Nat.ble (acceptFrom n r s) s.now with
      | some r => acceptReq n r s
      | none =>
        match ok with
        | r :: rest =>
          let first := rest.foldl (fun m r => if acceptFrom n r s < acceptFrom n m s then r else m) r
          acceptReq n first (s.upto (acceptFrom n first s))
        | [] => s
    else s

/-! Scheduling (R260, R263). -/

/-- Earliest instant from instant a at which bank b can be activated. -/
def bankReady (n a b : Nat) (s : State) : Nat :=
  let t := match (s.dmcOf n).bankFree.find? fun e => Nat.beq e.1 b with
    | some e => max a e.2
    | none => a
  if b / 2 / 8 % 4 = (s.dmcOf n).refreshed then max t (s.dmcOf n).refreshEnd else t

/-- An access that waits for its activate: a tracked request and the subchannel. -/
abbrev Access := Trk × Nat

/-- Earliest instant at which the access can activate its bank: 10 ns after acceptance, as the table of the chapter's
example has it (log entry 25). -/
def readyAt (n : Nat) (x : Access) (s : State) : Nat :=
  bankReady n (x.1.at' + 10 * ticksPerNs) (bankOf n x.1.req.addr x.2 s) s

/-- Does request y wait for its activate on subchannel c? -/
def waitsOn (y : Trk) (c : Nat) : Bool := y.acts.contains (c, none)

/-- The requests that an access serves: its own, and the OR-writes combined into it (R265). -/
def servedBy (n : Nat) (y : Trk) (s : State) : List Trk := y :: (s.dmcOf n).track.filter fun z => decide (z.lead = some y.id)
/-- Is a request that the access serves promoted (R263)? -/
def promoted (n : Nat) (s : State) (y : Trk) : Bool := (servedBy n y s).any (·.prom)
/-- The class in which an access is scheduled: the first of those it serves (R263; DEDUCED, log entry 25). -/
def accClass (n : Nat) (s : State) (y : Trk) : Nat := (servedBy n y s).foldl (fun c z => min c z.req.cls) y.req.cls

/-- May the access be issued before everything accepted before it: the requests of one burst keep their order, and none
passes a promoted request on its bank (R260, R263)? -/
def mayIssue (n : Nat) (x : Access) (s : State) : Bool :=
  waitsOn x.1 x.2 &&
    !(((s.dmcOf n).track.takeWhile fun y => y.id != x.1.id).any fun y =>
      waitsOn y x.2 &&
        ((onSub x.2 (burstsOf y.req)).any (fun b => (burstsOf x.1.req).contains b)
          || (promoted n s y && Nat.beq (bankOf n y.req.addr x.2 s) (bankOf n x.1.req.addr x.2 s))))

/-- The accesses that may be issued, in acceptance order (R263). -/
def candidates (n : Nat) (s : State) : List Access :=
  ((s.dmcOf n).track.flatMap fun y => y.acts.map fun e => (y, e.1)).filter fun x => mayIssue n x s

/-- The choice of a command slot among candidates, oldest first (R263), and the rotation after it: cls and prom give class and
promotion of an access. -/
def choose (cls : Trk → Nat) (prom : Trk → Bool) (cs : List Access) (rot : Nat) (lastLow : Option Nat) (t : Nat) : Option Access × Nat :=
  let ofCls := fun c => cs.find? fun x => Nat.beq (cls x.1) c
  let low := cs.find? fun x => Nat.ble 2 (cls x.1) && prom x.1
  let due := match lastLow with
    | some l => Nat.ble (l + ticksPerUs) t
    | none => true
  if low.isSome && due then (low, rot)
  else match ofCls 0, ofCls 1 with
    | some a, some b => (some (if rot = 2 then b else a), (rot + 1) % 3)
    | some a, none => (some a, rot)
    | none, some b => (some b, rot)
    | none, none => (low <|> ofCls 2 <|> ofCls 3, rot)

/-! Row counters and throttles (R270, R271). -/

/-- The least entry of a full table. -/
def leastRow (t : List (Nat × Nat)) : Nat × Nat := t.foldl (fun m e => if e.2 < m.2 then e else m) (t.headD (0, 0))
/-- The counters of a bank after an activate of row, and the count it reaches. -/
def rowCount (t : List (Nat × Nat)) (row : Nat) : List (Nat × Nat) × Nat :=
  match t.find? fun e => Nat.beq e.1 row with
  | some e => (t.map fun x => if x.1 = row then (row, x.2 + 1) else x, e.2 + 1)
  | none =>
    if t.length < 64 then (t ++ [(row, 1)], 1)
    else
      let l := leastRow t
      (t.map fun x => if x = l then (row, l.2 + 1) else x, l.2 + 1)

/-- A requester throttled from instant t, or its throttle extended; one that has ended by then starts anew. -/
def throttle (n src cls t : Nat) (s : State) : State :=
  let e := t + s.rd (DMC.RH_HOLD n) * ticksPerUs
  let mine := fun x : Throttle => Nat.beq x.src src && Nat.beq x.cls cls
  if (s.dmcOf n).throttles.any fun x => mine x && Nat.blt t x.until' then
    s.modDmc n fun x => { x with throttles := x.throttles.map fun y => if mine y then { y with until' := e } else y }
  else dmcFlag n 4 (s.modDmc n fun x => { x with throttles := (x.throttles.filter fun y => !(mine y)) ++ [⟨src, cls, e, t⟩] })

/-- RFMsb issued to a bank once its row cycle has ended; it takes the bank a time the spec does not give, free within the
200 ns that a same-bank refresh may take (R259, R270; log entry 49). -/
def rfmIssue (n bank : Nat) (s : State) : State :=
  let t := match (s.dmcOf n).bankFree.find? fun e => Nat.beq e.1 bank with
    | some e => e.2
    | none => s.now
  let d := s.freeVal % (200 * ticksPerNs + 1)
  s.drawn.modDmc n fun x =>
    { x with rfm := some (bank, t), bankFree := (x.bankFree.filter fun e => !(Nat.beq e.1 bank)) ++ [(bank, t + d)] }

/-- One activate of a bank counted (R270): at the threshold RFMsb is issued to the bank, the counter is cleared, and the
requester whose request caused the activate is throttled; the patrol scrubber is no requester. -/
def countRow (n row t : Nat) (r : Option MeshReq) (bank : Nat) (s : State) : State :=
  let tab := ((s.dmcOf n).rows.find? fun e => Nat.beq e.1 bank).map (·.2) |>.getD []
  let c := rowCount tab row
  let hit := Nat.ble (s.rd (DMC.RH_THRESH n)) c.2
  let new := if hit then c.1.filter fun e => !(Nat.beq e.1 row) else c.1
  let s := s.modDmc n fun x => { x with rows := (x.rows.filter fun e => !(Nat.beq e.1 bank)) ++ [(bank, new)] }
  if hit then
    let u := rfmIssue n bank (s.bump 64 (DMC.RH_EVENTS n))
    match r with
    | some r => throttle n r.src r.cls t u
    | none => u
  else s

/-- Bank b of DMCn activated at instant t for a time, its activate counted (R258, R270). -/
def activate (n b row t cycle : Nat) (r : Option MeshReq) (s : State) : State :=
  countRow n row t r b (s.modDmc n fun d => { d with bankFree := (d.bankFree.filter fun e => !(Nat.beq e.1 b)) ++ [(b, t + cycle)] })

/-- The access issued at instant t. -/
def issueAccess (n : Nat) (x : Access) (t : Nat) (s : State) : State :=
  let r := x.1.req
  let s := s.modDmc n fun d =>
    { d with track := d.track.map fun y =>
               if y.id = x.1.id then { y with acts := y.acts.map fun e => if e.1 = x.2 then (e.1, some t) else e } else y,
             lastLow := if 2 ≤ r.cls then some t else d.lastLow }
  activate n (bankOf n r.addr x.2 s) (dramRow n r.addr s) t (rowCycle (s.dmcOf n).rate (accKind r x.2) (twoBursts r x.2)) (some r) s

/-- DRAM address of channel address c of DMCn: R255 turned round. -/
def dramAddr (n c : Nat) (s : State) : Nat :=
  let w := ((ways s).findIdx? fun m => Nat.beq m n).getD 0
  c % 256 + w * 256 + c / 256 * (256 * max 1 (s.rd DMC.WAYS))

/-- The burst under patrol that waits for its activate, and the instant from which its bank can be activated (R268). -/
def patrolReady (n : Nat) (s : State) : Option (Patrol × Nat) :=
  match (s.dmcOf n).scrub with
  | some p =>
    if p.act.isSome then none
    else
      let a := dramAddr n (64 * p.burst) s
      some (p, bankReady n p.at' (bankOf n a (p.burst % 2) s) s)
  | none => none

/-- The burst under patrol activates its bank at instant t: it is read and rewritten in one access (R268). -/
def issuePatrol (n : Nat) (p : Patrol) (t : Nat) (s : State) : State :=
  let a := dramAddr n (64 * p.burst) s
  activate n (bankOf n a (p.burst % 2) s) (dramRow n a s) t (rowCycle (s.dmcOf n).rate .merge false) none
    (s.modDmc n fun d => { d with scrub := some { p with act := some t } })

/-- Does the patrol scrubber, in class C3, take the slot before the scheduler's choice (R263, R268)? -/
def patrolFirst (n : Nat) (pick : Option Access) (p : Patrol) (s : State) : Bool :=
  match pick with
  | some x => Nat.beq (accClass n s x.1) 3 && !(promoted n s x.1) && Nat.blt p.at' x.1.at'
  | none => true

/-- DMC_ACCESS_ISSUE: at the next command slot with a candidate, the scheduler's choice activates its bank. -/
def execDmcAccessIssue (n : Nat) (s : State) : Out :=
  unitCmd n 4 <|
    if dmcState n s = 3 ∨ dmcState n s = 4 then
      let cs := candidates n s
      let at' := cs.map (fun x => readyAt n x s) ++ ((patrolReady n s).map (·.2)).toList
      match at' with
      | [] => s
      | a :: rest =>
        let t := max s.now (rest.foldl min a)
        let pick := choose (accClass n s) (promoted n s) (cs.filter fun x => Nat.ble (readyAt n x s) t) (s.dmcOf n).rot (s.dmcOf n).lastLow t
        match (patrolReady n s).filter fun p => Nat.ble p.2 t && patrolFirst n pick.1 p.1 s with
        | some p => issuePatrol n p.1 t (s.upto t)
        | none =>
          match pick.1 with
          | some x => issueAccess n x t ((s.upto t).modDmc n fun d => { d with rot := pick.2 })
          | none => s
    else s

/-! Completion (R259, R264 to R268). -/

/-- Instant at which an access of the kind activated at t completes. -/
def doneAt (rate : Nat) (k : AccKind) (two : Bool) (t : Nat) : Nat := t + (latencyNs rate k two - 10) * ticksPerNs

/-- The issued accesses with the instant at which each completes. -/
def doneList (n : Nat) (s : State) : List (Access × Nat) :=
  (s.dmcOf n).track.flatMap fun x => x.acts.filterMap fun e =>
    e.2.map fun t => ((x, e.1), doneAt (s.dmcOf n).rate (accKind x.req e.1) (twoBursts x.req e.1) t)

/-- The issued access that completes first, and when. -/
def nextDone (n : Nat) (s : State) : Option (Access × Nat) :=
  match doneList n s with
  | [] => none
  | c :: rest => some (rest.foldl (fun m x => if x.2 < m.2 then x else m) c)

/-- One request of an access completes, at now: counted, late or not, and answered (R262, R264). -/
def finishReq (n : Nat) (bad : Bool) (data : Nat) (s : State) (x : Trk) : State :=
  let late := Nat.ble x.req.cls 1 && Nat.blt (x.at' + ticksPerUs) s.now
  let s := s.bump 64 (if bad then DMC.ERRORS n x.req.cls else DMC.DONE n x.req.cls)
  let s := if late then dmcFlag n 5 (s.bump 64 (DMC.LATE n)) else s
  meshAnswer x.req (if bad then 2 else if x.req.op = .read then 0 else 1) (if x.req.op = .read then data else 0) s

/-- The part of a request that lies in burst b: its first address and its length. -/
def pieceOf (r : MeshReq) (b : Nat) : Nat × Nat :=
  let lo := max r.addr (64 * b)
  (lo, min (r.addr + r.len) (64 * b + 64) - lo)

/-- The part of a request in burst b performed in memory. -/
def applyBurst (r : MeshReq) (s : State) (b : Nat) : State :=
  let p := pieceOf r b
  match r.op with
  | .read => s
  | .write => s.store p.1 p.2 (r.data / 2 ^ (8 * (p.1 - r.addr)) % 2 ^ (8 * p.2))
  | .orw => { s with mem := memOr s.mem r.addr 8 r.data }

/-- The data of a read in the given bursts, each in its place. -/
def readBursts (r : MeshReq) (bs : List Nat) (s : State) : Nat :=
  bs.foldl (fun d b => d + memRead s.mem (pieceOf r b).1 (pieceOf r b).2 * 2 ^ (8 * ((pieceOf r b).1 - r.addr))) 0

/-- A burst that the controller corrected (R268). -/
def burstCorrected (n : Nat) (s : State) : State := dmcFlag n 2 (s.bump 64 (DMC.CE n))
/-- An uncorrectable burst at address a (R266, R268). -/
def burstLost (n a : Nat) (s : State) : State := dmcFlag n 3 ((s.bump 64 (DMC.UE n)).wr (DMC.UE_ADDR n) a)

/-- What the check code does with the burst at address a (R266 to R268): an error over two or more devices is detected
or miscorrected, which is unspecified, and a miscorrected burst holds unspecified data (log entry 9). The answer is
whether the burst is uncorrectable. -/
def checkBurst (n a : Nat) (e : Ecc) (s : State) : State × Bool :=
  match e with
  | .clean => (s, false)
  | .ce => (burstCorrected n s, false)
  | .ue => (burstLost n a s, true)
  | .multi =>
    if s.freeVal % 2 = 0 then (burstLost n a s.drawn, true)
    else (burstCorrected n (s.drawn.store a 64 s.drawn.freeVal).drawn, false)

/-- What the check code does with the bursts an access reads, in order; an error not given is none. -/
def checkBursts (n : Nat) : List Nat → List Ecc → State → State × Bool
  | b :: bs, e :: es, s =>
    let r := checkBurst n (64 * b) e s
    let q := checkBursts n bs es r.1
    (q.1, r.2 || q.2)
  | _, _, s => (s, false)

/-- The access completes with what its check code finds in the bursts it reads. An uncorrectable one performs nothing of
the access and makes every request combined in it end with an error (R266). A request ends with its last access. -/
def completeAccess (n : Nat) (x : Access) (e : List Ecc) (s : State) : State :=
  let r := x.1.req
  let joined := (s.dmcOf n).track.filter fun y => decide (y.lead = some x.1.id) && Nat.beq (y.req.addr / 64 % 2) x.2
  let mine := onSub x.2 (burstsOf r)
  let c := checkBursts n (if r.op = .read then mine else onSub x.2 (mergedOf r)) e s
  let t := if c.2 then c.1
    else joined.foldl (fun s y => applyBurst y.req s (y.req.addr / 64)) (mine.foldl (applyBurst r) c.1)
  let y := { x.1 with acts := x.1.acts.filter fun a => !(Nat.beq a.1 x.2), bad := x.1.bad || c.2,
                      data := x.1.data + if r.op = .read && !c.2 then readBursts r mine c.1 else 0 }
  let u := t.modDmc n fun d =>
    { d with track := (d.track.filter fun z => !(joined.contains z) && !(Nat.beq z.id y.id && y.acts.isEmpty)).map fun z =>
               if z.id = y.id then y else z }
  joined.foldl (finishReq n c.2 0) (if y.acts.isEmpty then finishReq n y.bad y.data u y else u)

/-- The patrol's access of DMCn, once issued, with the instant at which it completes. -/
def patrolDone (n : Nat) (s : State) : Option (Patrol × Nat) :=
  (s.dmcOf n).scrub.bind fun p => p.act.map fun t => (p, doneAt (s.dmcOf n).rate .merge false t)

/-- The burst under patrol has been read and rewritten, or left as it is (R268). -/
def completePatrol (n : Nat) (p : Patrol) (s : State) : State :=
  (checkBurst n (dramAddr n (64 * p.burst) s) p.ecc s).1.modDmc n fun d => { d with scrub := none }

/-- DMC_ACCESS_COMPLETE: the access that completes first, and the completion responses it leads to. -/
def execDmcAccessComplete (n : Nat) (ecc : List Ecc) (s : State) : Out :=
  unitCmd n 4 <|
    match nextDone n s, patrolDone n s with
    | some x, some p => if p.2 < x.2 then completePatrol n p.1 (s.upto p.2) else completeAccess n x.1 ecc (s.upto x.2)
    | some x, none => completeAccess n x.1 ecc (s.upto x.2)
    | none, some p => completePatrol n p.1 (s.upto p.2)
    | none, none => s

/-! Promotion, throttles, row tables, refresh, patrol. -/

/-- Has the access of request x not been issued yet: its own, or the one it is combined into (R263, R265)? -/
def unissued (n : Nat) (s : State) (x : Trk) : Bool :=
  match x.lead with
  | some k => (s.dmcOf n).track.any fun y => Nat.beq y.id k && waitsOn y (x.req.addr / 64 % 2)
  | none => waitsOn x 0 || waitsOn x 1
/-- AGE_PROMOTION: the request whose wait passes DMC.AGE_LIMIT of its class first is promoted (R263). -/
def execAgePromotion (n : Nat) (s : State) : Out :=
  unitCmd n 4 <|
    let lim := fun x : Trk => x.at' + s.rd (DMC.AGE_LIMIT n x.req.cls) * ticksPerNs
    let cs := (s.dmcOf n).track.filter fun x => unissued n s x && !x.prom
    match cs with
    | [] => s
    | c :: rest =>
      let x := rest.foldl (fun m y => if lim y < lim m then y else m) c
      ((s.upto (lim x + 1)).bump 64 (DMC.PROMOTED n)).modDmc n fun d =>
        { d with track := d.track.map fun y => if y.id = x.id then { y with prom := true } else y }

/-- THROTTLE_END: the throttle that ends first ends (R271). -/
def execThrottleEnd (n : Nat) (s : State) : Out :=
  unitCmd n 4 <|
    match (s.dmcOf n).throttles with
    | [] => s
    | c :: rest =>
      let x := rest.foldl (fun m y => if y.until' < m.until' then y else m) c
      (s.upto x.until').modDmc n fun d => { d with throttles := d.throttles.erase x }

/-- ROW_TABLE_CLEAR: every 32 ms all tables are cleared (R270). -/
def execRowTableClear (n : Nat) (s : State) : Out :=
  unitCmd n 4 ((s.upto ((s.dmcOf n).rowsAt + 32000 * ticksPerUs)).modDmc n fun d =>
    { d with rows := [], rowsAt := max s.now ((s.dmcOf n).rowsAt + 32000 * ticksPerUs) })

/-- REFRESH: a same-bank refresh of the next bank of every bank group takes 200 ns, the most it may add (R259, R269). -/
def execRefresh (n : Nat) (s : State) : Out :=
  unitCmd n 4 <|
    if dmcState n s = 3 then
      s.modDmc n fun d => { d with refreshed := (d.refreshed + 1) % 4, refreshEnd := s.now + 200 * ticksPerNs }
    else s

/-- The burst after p of the channel. -/
def nextBurst (n p : Nat) (s : State) : Nat := (p + 1) % max 1 (s.rd (DMC.CAPACITY n) / 64)

/-- PATROL_SCRUB: the next burst of the channel comes under patrol, to be read and rewritten in class C3 and corrected as
any other (R268). A burst of a rank held in self-refresh is unreachable and passed over (R272). -/
def execPatrolScrub (n : Nat) (ecc : Ecc) (s : State) : Out :=
  unitCmd n 4 <|
    let p := (s.dmcOf n).patrol
    if dmcState n s = 3 ∧ s.rd DMC.MAP_STATE = 1 ∧ s.rd (DMC.PATROL n) ≠ 0 ∧ (s.dmcOf n).scrub = none then
      let t := s.modDmc n fun d => { d with patrol := nextBurst n p s }
      if s.bit DMC.RETAIN (rankOf n (dramAddr n (64 * p) s) s) then t
      else t.modDmc n fun d => { d with scrub := some ⟨p, ecc, s.now, none⟩ }
    else s

end Sys2Proof.Machine
end

