-- ==== Sys2Proof/Machine/Time.lean ====
section
/-! DEFINITION. Movements of the network time and of its validity, which lanes, the servo and the clocks share
(13_time_unit.md R345 to R351, R360 to R363; 02 R67; 03 R80; 14 R384). -/
namespace Sys2Proof.Machine

/-- TMU.EVFLAGS bit b (R368). -/
def tmuFlag (b : Nat) (s : State) : State := s.flag TMU.EVFLAGS b (480 + b)

/-- A stamp: the network time at instant t, truncated to 1/64 ns (R351). -/
def stampAt (s : State) (t : Nat) : Nat := (netAt s t + s.rd TMU.INCR * (t % 8192) / 8192) / 2 ^ 26 * 2 ^ 26

/-- The counter reads base at the first engine clock edge after now (R346, R349). -/
def clockMove (base : Nat) (stepped : Bool) (s : State) : State :=
  let e := engAfter s.now
  { s with clk := { base := base, anchor := e, old := if s.clk.anchor = e then s.clk.old else netNow s,
                    step := stepped || (decide (s.clk.anchor = e) && s.clk.step) } }

/-- A new increment, used from the first engine clock edge after now (R346). -/
def setIncr (v : Nat) (s : State) : State :=
  (clockMove (netAt s (engAfter s.now) + v - s.rd TMU.INCR) false s).wr TMU.INCR v

/-- An accepted step that makes the counter base at that edge (R349). -/
def stepTo (base : Nat) (s : State) : State := tmuFlag 2 ((clockMove base true s).bump 64 TMU.STEPS)
/-- A step by d. -/
def stepBy (d : Int) (s : State) : State := stepTo ((netAt s (engAfter s.now) : Int) + d).toNat s
/-- A step refused for its amount (R349). -/
def stepRefused (s : State) : State := tmuFlag 3 (s.bump 64 TMU.STEPS_REFUSED)

/-- TIME_VALID, as HDI.STATUS and TMU.STATUS show it (R347). -/
def setValid (v : Bool) (s : State) : State := (s.setBit HDI.STATUS 4 v).setBit TMU.STATUS 0 v

/-- TIME_VALID rises (R347, R359). -/
def validRise (s : State) : State := if timeValid s then s else tmuFlag 0 (setValid true s)

/-- VEn ARMED under START_AT returns to the state before (03 R80). -/
def dropVeStart (n : Nat) (s : State) : State :=
  if veState n s = 2 ∧ (s.veOf n).armKind = 1 ∧ (s.veOf n).start = none then (veStopEff n s).raise (64 + 2 * n) else s
/-- DSP engine n ARMED under START_AT returns to the state before (14 R384). -/
def dropDspStart (n : Nat) (s : State) : State :=
  if s.rd (DSP.STATE n) = 1 ∧ (s.dspOf n).timed = true ∧ (s.dspOf n).start = none then
    (((schedFree true n s).wr (DSP.STATE n) (s.dspOf n).prior).modDsp n fun d => { d with timed := false }).raise (256 + 2 * n)
  else s
/-- Aperture a disarmed (R362). -/
def dropAperture (a : Nat) (s : State) : State :=
  if s.rd (TMU.AP_STATE a) = 1 ∨ s.rd (TMU.AP_STATE a) = 2 then s.wr (TMU.AP_STATE a) 0 else s
/-- TMU.TRG_STATE as it reads: the last pulse ends before the trigger does. -/
def trgState (t : Nat) (s : State) : Nat :=
  match s.rd (TMU.TRG_STATE t), (s.trgOf t).high with
  | 2, some e => if s.now < e then 1 else 2
  | v, _ => v
/-- Trigger t disarmed (R363). -/
def dropTrigger (t : Nat) (s : State) : State :=
  if trgState t s = 1 then tmuFlag 8 ((s.wr (TMU.TRG_STATE t) 3).modTrg t fun x => { x with high := none }) else s
/-- A batch armed in mode 1 disarmed, in state 3 (02 R67). -/
def dropTimedApply (s : State) : State :=
  if mirrorState s = 5 ∧ s.rd HDI.APPLY_MODE = 1 then ((disarmTo 3 s).wr HDI.APPLY_OUTCOME 3).raise 2 else s

/-- TIME_VALID falls, and all that acts at an agreed time is dropped (R347, R362, R363; 02 R67; 03 R80; 14 R384). -/
def validFall (s : State) : State :=
  if timeValid s then
    let s := dropTimedApply (tmuFlag 1 (setValid false s))
    let s := (List.range 32).foldl (fun s n => dropDspStart n (dropVeStart n s)) s
    (List.range 16).foldl (fun s n => dropTrigger n (dropAperture n s)) s
  else s

/-- A FOLLOWER loses validity under R348: it holds its increment. -/
def holdover (s : State) : State :=
  if s.rd TMU.ROLE = 2 ∧ timeValid s = true then
    (tmuFlag 12 ((validFall s).setBit TMU.STATUS 1 true)).modTmu fun t => { t with lock := 0, integ := 0, xch := none }
  else s

/-- The largest block of at most 256 bytes that begins at address a, is aligned to its length and has at most r bytes, of
those a mesh write may carry (00 R14). -/
def chunkLen (a r : Nat) : Nat :=
  ([256, 128, 64, 32, 16].find? fun c => Nat.beq (a % c) 0 && Nat.ble c r).getD 8

end Sys2Proof.Machine
end

