-- ==== Sys2Proof/Machine/Line.lean ====
section
/-! DEFINITION. What a lane puts on its line and reads from it: sent blocks, the order of bits, PAM4 symbols, precoding, the
codewords of FEC and the sequences of raw mode (12_lanes.md R321, R322, R326, R328, R329, R340). The field, the generator
polynomial and the symbol order of RS(544,514) are those of IEEE 802.3 Clause 91, which R328 names and does not restate;
PRESUMED, log entry 51. -/
namespace Sys2Proof.Machine

/-! Sent blocks (R329, R330). -/

/-- IDLE. -/
def idleBlock : LineBlock := ⟨true, 0⟩
/-- START of a message of len bytes. -/
def startBlock (chan len src id crc : Nat) : LineBlock :=
  ⟨true, 0x4B * 2 ^ 248 + chan % 4 * 2 ^ 246 + len % 65536 * 2 ^ 224 + src % 65536 * 2 ^ 208 + id % 65536 * 2 ^ 192
    + crc % 2 ^ 32 * 2 ^ 160⟩
/-- CREDIT with the four FREED fields. -/
def creditBlock (freed : List Nat) : LineBlock :=
  ⟨true, 0x5A * 2 ^ 248 + freed.getD 0 0 % 65536 * 2 ^ 224 + freed.getD 1 0 % 65536 * 2 ^ 208
    + freed.getD 2 0 % 65536 * 2 ^ 192 + freed.getD 3 0 % 65536 * 2 ^ 176⟩
/-- LINK of the sender's logical lane and serial number. -/
def linkBlock (lane serial : Nat) : LineBlock :=
  ⟨true, 0x66 * 2 ^ 248 + lane % 256 * 2 ^ 240 + serial % 2 ^ 64 * 2 ^ 176 + 1 * 2 ^ 168⟩
/-- k data blocks of the bytes of d. -/
def dataBlocks : (k d : Nat) → List LineBlock
  | 0, _ => []
  | k + 1, d => ⟨false, d % 2 ^ 256⟩ :: dataBlocks k (d / 2 ^ 256)
/-- The blocks of a message: bytes of the last block beyond its length are zero. -/
def messageBlocks (chan len src id d : Nat) : List LineBlock :=
  startBlock chan len src id (crc32 (d % 2 ^ (8 * len)) len) :: dataBlocks ((len + 31) / 32) (d % 2 ^ (8 * len))

/-! Codewords (R328). -/

/-- Product in GF(2^10) with x^10 + x^3 + 1, by k bits of b from the highest. -/
def gfMul (a b : Nat) : (k : Nat) → Nat
  | 0 => 0
  | k + 1 =>
    let r := 2 * gfMul a (b / 2) k
    let r := if r.testBit 10 then r ^^^ 0x409 else r
    if b.testBit 0 then r ^^^ a else r
/-- A polynomial, its highest coefficient first, times x + c. -/
def gfTimes (l : List Nat) (c : Nat) : List Nat :=
  List.zipWith (fun u v => u ^^^ v) (l ++ [0]) (0 :: l.map fun a => gfMul a c 10)
/-- The k-th power of the primitive element. -/
def gfPow : Nat → Nat
  | 0 => 1
  | k + 1 => gfMul (gfPow k) 2 10
/-- The generator polynomial with its 30 roots, without its leading 1. -/
def rsGen : List Nat := ((List.range 30).foldl (fun g j => gfTimes g (gfPow j)) [1]).drop 1
/-- The number whose bits are given, the lowest first. -/
def ofBits : List Bool → Nat
  | [] => 0
  | b :: t => b.toNat + 2 * ofBits t
/-- The 10-bit symbols of a row of bits, k at most. -/
def toTens : (k : Nat) → List Bool → List Nat
  | 0, _ => []
  | k + 1, l => ofBits (l.take 10) :: toTens k (l.drop 10)
/-- The remainder, its highest coefficient first, after one more message symbol. -/
def rsStep (g r : List Nat) (m : Nat) : List Nat :=
  let f := m ^^^ r.headD 0
  List.zipWith (fun u v => u ^^^ gfMul v f 10) (r.drop 1 ++ [0]) g
/-- The 300 parity bits of 5,140 message bits. -/
def rsParity (bits : List Bool) : List Bool :=
  ((toTens 514 bits).foldl (rsStep rsGen) (List.replicate 30 0)).flatMap fun v => (List.range 10).map v.testBit

/-! Bits and symbols (R321, R322). -/

/-- The bits of a block in the order of the line: the header as it is written, one bit of it with FEC, then the payload. -/
def blockBits (fec : Bool) (b : LineBlock) : List Bool :=
  (if fec then [b.ctl] else [b.ctl, !b.ctl]) ++ (List.range 256).map b.data.testBit
/-- The bits of blocks that follow the unfinished codeword, and what is unfinished after them. -/
def lineBits (fec : Bool) : (part : List Bool) → List LineBlock → List Bool × List Bool
  | part, [] => ([], part)
  | part, b :: bs =>
    let bits := blockBits fec b
    let whole := if fec then part ++ bits else []
    let full := Nat.ble 5140 whole.length
    let r := lineBits fec (if full then [] else whole) bs
    (bits ++ (if full then rsParity whole else []) ++ r.1, r.2)
/-- The Gray symbol of a pair of bits, the first the more significant. -/
def gray (a b : Bool) : Nat := if a then (if b then 2 else 3) else (if b then 1 else 0)
/-- The pair of bits of a Gray symbol. -/
def ungray (g : Nat) : List Bool := [Nat.ble 2 g, Nat.beq g 1 || Nat.beq g 2]
/-- The Gray symbols of a row of bits, and a bit left over. -/
def grayPairs : List Bool → List Nat × List Bool
  | a :: b :: t => let r := grayPairs t; (gray a b :: r.1, r.2)
  | l => ([], l)
/-- Symbols precoded after symbol p, and the last of them: P(j) = (G(j) - P(j-1)) mod 4. -/
def precode (p : Nat) : List Nat → List Nat × Nat
  | [] => ([], p)
  | g :: t =>
    let v := (g + 4 - p % 4) % 4
    let r := precode v t
    (v :: r.1, r.2)
/-- Symbols recovered after symbol p was received: G(j) = (P(j) + P(j-1)) mod 4. -/
def unprecode (p : Nat) : List Nat → List Nat
  | [] => []
  | v :: t => (v + p) % 4 :: unprecode v t
/-- Symbols of a row of bits on a PAM4 or an NRZ line after the coder's state, and the state after them. -/
def codeBits (pam pre : Bool) (x : LineS) (bits : List Bool) : List Nat × LineS :=
  if pam then
    let g := grayPairs (x.half ++ bits)
    let r := if pre then precode x.p g.1 else (g.1, x.p)
    (r.1, { x with p := r.2, half := g.2 })
  else (bits.map Bool.toNat, x)

/-! Lanes. -/

/-- Is a lane's line PAM4 (R319)? -/
def pam4 (n : Nat) (s : State) : Bool := Nat.ble 3 (s.rd (LNK.RATE n))
/-- FEC in effect (R319). -/
def fecOn (n : Nat) (s : State) : Bool := Nat.ble 4 (s.rd (LNK.RATE n)) || Nat.beq (s.rd (LNK.FEC n)) 1
/-- Precoding is on: an NRZ lane ignores it (R322). -/
def precodeOn (n : Nat) (s : State) : Bool := pam4 n s && Nat.beq (s.rd (LNK.PRECODE n)) 1

/-- Blocks of lane n as symbols after the coder's state, and the state after them. -/
def codeBlocks (n : Nat) (x : LineS) (bs : List LineBlock) (s : State) : List Nat × LineS :=
  let b := lineBits (fecOn n s) x.part bs
  codeBits (pam4 n s) (precodeOn n s) { x with part := b.2 } b.1

/-- The bits received symbols of lane n stand for. -/
def lineReceived (n : Nat) (syms : List Nat) (s : State) : List Bool :=
  if pam4 n s then (if precodeOn n s then unprecode (s.laneOf n).rxP syms else syms).flatMap ungray
  else syms.map fun v => Nat.beq (v % 2) 1

/-! Sequences of raw mode (R340). -/

/-- Length and tap of the polynomial of code c. -/
def prbsPoly (c : Nat) : Nat × Nat := [(7, 6), (15, 14), (23, 18), (31, 28)].getD c (7, 6)
/-- The bit that follows the bits of h, newest first; O.150 inverts PRBS15, 23 and 31. -/
def prbsNext (c : Nat) (h : List Bool) : Bool :=
  xor (xor (h.getD ((prbsPoly c).1 - 1) false) (h.getD ((prbsPoly c).2 - 1) false)) (decide (1 ≤ c))
/-- k bits of the sequence of code c after the bits of h. -/
def prbsBits (c : Nat) : (k : Nat) → List Bool → List Bool
  | 0, _ => []
  | k + 1, h => let b := prbsNext c h; b :: prbsBits c k ((b :: h).take 31)
/-- A generator's register as any number but one that would hold it still. -/
def prbsSeed (c v : Nat) : List Bool :=
  (List.range (prbsPoly c).1).map fun j => xor ((v % (2 ^ (prbsPoly c).1 - 1) + 1).testBit j) (decide (1 ≤ c))
/-- The first k bits lane n sends from its raw source after START or RETRAIN: where its generator begins is open (log entry
51). -/
def rawBits (n k : Nat) (s : State) : List Bool :=
  let c := Dict.bitsOf (s.rd (LNK.RAW n)) 10 8
  (if c < 4 then prbsBits c k (prbsSeed c (Config.prbsStart n (s.laneOf n).began))
    else if c = 4 then (List.range k).map fun j => (s.rd (LNK.PATTERN n)).testBit (j % 64)
    else List.replicate k false).map fun b => xor b (s.bit (LNK.RAW n) 0)

/-- What a transmitter puts on its line, by the state of its lane (R324). -/
inductive LineSource where
  | common | idle | blocks (l : List LineBlock) | raw
  deriving DecidableEq, Repr

/-- The transmitter of lane n: both legs at common mode in RESET; in service the blocks of the last sending. -/
def transmitter (n : Nat) (s : State) : LineSource :=
  match s.rd (LNK.STATE n) with
  | 0 => .common
  | 1 => if s.rd (LNK.MODE n) = 0 then .idle else .raw
  | 2 => .idle
  | 3 => .blocks (s.laneOf n).out
  | _ => .raw

/-- Symbols lane n puts on its line: those of its blocks, of one IDLE block, or of the first k bits of its raw source. -/
def lineSymbols (n k : Nat) (s : State) : List Nat :=
  match transmitter n s with
  | .common => []
  | .idle => (codeBlocks n (s.laneOf n).line [idleBlock] s).1
  | .blocks l => (codeBlocks n (s.laneOf n).line l s).1
  | .raw => (codeBits (pam4 n s) (precodeOn n s) {} (rawBits n k s)).1

/-- The coder of lane n moves past what was sent and the IDLE blocks since, whose number is open (log entry 51). -/
def lineSettled (n : Nat) (s : State) : LineS :=
  let x := s.laneOf n
  (codeBlocks n x.line (x.out ++ List.replicate (Config.idles n s.now) idleBlock) s).2

end Sys2Proof.Machine
end

