-- ==== Sys2Proof/Machine/Lnk.lean ====
section
/-! DEFINITION. Llynkar lanes: states, lane PLLs, blocks, messages, credit, streams and raw mode (12_lanes.md R318 to R344;
20 R513). -/
namespace Sys2Proof.Machine

/-! States (R320, R324, R341). -/

/-- LNK.STATE of lane n: 0 RESET, 1 ADAPT, 2 HUNT, 3 LOCKED, 4 RUN. -/
def laneState (n : Nat) (s : State) : Nat := s.rd (LNK.STATE n)
/-- LNK.EVFLAGS bit b with its event (R343, R344). -/
def lnkFlag (n b : Nat) (s : State) : State := s.flag (LNK.EVFLAGS n) b (if b < 2 then 384 + 2 * n else 385 + 2 * n)
/-- Symbol rate code of a line rate code (R319, R320). -/
def symCode (rate : Nat) : Nat := [0, 1, 3, 2, 3, 4].getD rate 0
/-- Physical lane of a logical lane. -/
def physLane (n : Nat) (s : State) : Nat := n / 4 * 4 + s.rd (LNK.PHYS n)
/-- Are all four lanes of quad k in RESET? -/
def quadReset (k : Nat) (s : State) : Bool := (List.range 4).all fun b => Nat.beq (laneState (4 * k + b) s) 0

/-- Blocks of a message of len bytes (R330). -/
def blocksOf (len : Nat) : Nat := 1 + (len + 31) / 32

/-- Element c of a list of four counts changed. -/
def at4 (l : List Nat) (c : Nat) (f : Nat → Nat) : List Nat := (List.range 4).map fun i => if i = c then f (l.getD i 0) else l.getD i 0
/-- Blocks of channel c freed; a CREDIT block is owed (R331). -/
def freeBlocks (n c k : Nat) (s : State) : State :=
  s.modLane n fun x => { x with freed := at4 x.freed c fun v => (v + k) % 65536, oweCredit := true }

/-! Sending (R331, R332, R335, R337, R352). -/

/-- Channel and length of a message that waits. -/
def txChan : TxMsg → Nat × Nat
  | .time _ _ _ => (2, 32)
  | .host _ => (2, 32)
  | .mgmt _ len _ => (1, len)
  | .mesh len _ => (0, len)

/-- Does lane n hold credit for every block of the message? -/
def creditFor (n : Nat) (m : TxMsg) (s : State) : Bool :=
  let x := s.laneOf n
  let c := (txChan m).1
  Nat.ble (blocksOf (txChan m).2) ((x.credit.getD c 0 + 65536 - x.sent.getD c 0 % 65536) % 65536)

/-- Bit b of TMU.LANE_FLAGS of lane n set; as it goes from 0 to 1, bit e of TMU.EVFLAGS is (13 R367). -/
def laneFlag (n b e : Nat) (s : State) : State :=
  let t := (s.note (TMU.LANE_FLAGS n) b).setBit (TMU.LANE_FLAGS n) b true
  if s.bit (TMU.LANE_FLAGS n) b || s.clearedNow (TMU.LANE_FLAGS n) b then t else tmuFlag e t

/-- A transmit timestamp of lane n: queued, or on a lane of the exchange read by the servo helper (R352). -/
def noteSent (n id stamp : Nat) (s : State) : State :=
  let s := s.bump 64 (TMU.TXTS_MADE n)
  if s.bit TMU.HOST_LANES n = true then
    if (s.laneTimeOf n).txts.length < 16 then s.modLaneTime n fun t => { t with txts := t.txts ++ [(stamp, id)] }
    else
      laneFlag n 0 5 (s.bump 64 (TMU.TXTS_LOST n))
  else s.bump 64 (TMU.TXTS_READ n)

/-- What sending a message does beside the line: stamps, and the count of responses. -/
def afterSend (n : Nat) (m : TxMsg) (s : State) : State :=
  let stamp := stampAt s s.now
  match m with
  | .time type seq _ =>
    let s := noteSent n seq stamp s
    if type = 1 then s.modLaneTime n fun t => { t with syncAt := stamp }
    else if type = 3 then s.modTmu fun t => { t with xch := t.xch.map fun e => { e with t3 := some stamp } }
    else s
  | .host d => noteSent n (d % 65536) stamp s
  | .mgmt _ _ _ => s
  | .mesh _ _ => s.bump 64 (LNK.MESH_RESP n)

/-- The 32 bytes of a built-in TIME message (13 R356). -/
def timeBytes (type seq t : Nat) (s : State) : Nat :=
  let master := Nat.beq (s.rd TMU.ROLE) 1
  seq + type * 2 ^ 16 + s.rd TMU.DOMAIN * 2 ^ 24 + (if master then 0 else (s.rd TMU.HOPS + 1) % 256) * 2 ^ 32
    + (if master then s.rd (HDI.IDENT 6) else s.rd TMU.GM_SERIAL) * 2 ^ 64
    + (if type = 2 ∨ type = 4 then toTime128 t else 0) * 2 ^ 128

/-- The blocks of a message: SRCID is that of a MGMT message, MSGID that of a TIME message (R329; 13 R353, R356). -/
def blocksFor (m : TxMsg) (s : State) : List LineBlock :=
  match m with
  | .time ty q t => messageBlocks 2 32 0 q (timeBytes ty q t s)
  | .host d => messageBlocks 2 32 0 (d % 65536) d
  | .mgmt src len d => messageBlocks 1 len src 0 d
  | .mesh len d => messageBlocks 0 len 0 0 d

/-- A message sent: a FOLLOW carries the stamp of its SYNC (13 R357). -/
def sendMsg (n : Nat) (m : TxMsg) (s : State) : State :=
  let m := match m with
    | .time 2 q _ => .time 2 q (s.laneTimeOf n).syncAt
    | m => m
  let c := txChan m
  afterSend n m (s.modLane n fun x =>
    { x with sent := at4 x.sent c.1 fun v => (v + blocksOf c.2) % 65536, out := x.out ++ blocksFor m s })

/-- Does lane n hold credit for the first of the messages? -/
def firstCredit (n : Nat) (l : List TxMsg) (s : State) : Bool :=
  match l with
  | m :: _ => creditFor n m s
  | [] => false

/-- The next message in the order of R332 for which the lane holds credit, and the lane without it. -/
def pickTx (n : Nat) (s : State) : Option (TxMsg × LaneS) :=
  let x := s.laneOf n
  if firstCredit n x.txTime s then some (x.txTime.headD (.host 0), { x with txTime := x.txTime.drop 1 })
  else if firstCredit n x.txMgmt s then some (x.txMgmt.headD (.host 0), { x with txMgmt := x.txMgmt.drop 1 })
  else if firstCredit n x.txMesh s then some (x.txMesh.headD (.host 0), { x with txMesh := x.txMesh.drop 1 })
  else none

/-- Up to k waiting messages sent. -/
def sendMsgs (n : Nat) : Nat → State → State
  | 0, s => s
  | k + 1, s =>
    match pickTx n s with
    | some (m, x) => sendMsgs n k (sendMsg n m (s.modLane n fun _ => x))
    | none => s

/-- A CREDIT block and a LINK block sent if owed, then what waits, then IDLE (R331, R332). -/
def trySend (n : Nat) (s : State) : State :=
  if laneState n s = 3 then
    let s := s.modLane n fun x => { x with line := lineSettled n s, out := [] }
    let s := if (s.laneOf n).oweCredit then
        s.modLane n fun x => { x with oweCredit := false, creditAt := s.now, out := x.out ++ [creditBlock x.freed] }
      else s
    let s := if (s.laneOf n).oweLink then
        s.modLane n fun x => { x with oweLink := false, linkAt := s.now, out := x.out ++ [linkBlock n (s.rd (HDI.IDENT 6))] }
      else s
    let x := s.laneOf n
    (sendMsgs n (x.txTime.length + x.txMgmt.length + x.txMesh.length) s).modLane n fun x => { x with out := x.out ++ [idleBlock] }
  else s

/-! Leaving LOCKED (R339; 02 R49). -/

/-- Management slot k released: an owner of a batch that is not armed loses it as at the end of its lease (02 R49, R59). -/
def releaseSlot (k : Nat) (s : State) : State :=
  let s := if s.rd HDI.MIRROR_OWNER = k ∧ mirrorState s ≠ 5 then (releaseMirror s).raise 4 else s
  let s := (s.wr (HDI.SLOT (k - 1)) 0).modSlot k fun _ => {}
  let s := if s.dbg.vendor = some k then { s with dbg := { s.dbg with vendor := none } }.setBit DBG.STATUS 2 false else s
  s.modMaster k fun _ => {}

/-- Slots bound to lane n. -/
def slotsOf (n : Nat) (s : State) : List Nat :=
  [1, 2, 3, 4, 5, 6, 7, 8].filter fun k => (s.slotOf k).bound && Nat.beq (s.rd (HDI.SLOT (k - 1)) / 65536) n

/-- What lane n discards as it leaves LOCKED. -/
def discardLane (n : Nat) (s : State) : State :=
  let x := s.laneOf n
  let mesh := (x.buf.filter fun m => Nat.beq m.chan 0).length + x.inMesh.length + x.txMesh.length
  let rest := (x.buf.filter fun m => m.chan != 0).length
  let tx := x.txTime.length + x.txMgmt.length + x.txMesh.length
  let s := if x.opn.isSome then s.bump 64 (LNK.RX_ABORT n) else s
  let s := ((s.addTo 64 (LNK.MESH_DISCARD n) mesh).addTo 64 (LNK.RX_DISCARD n) rest).addTo 64 (LNK.TX_DISCARD n) tx
  let s := s.modLane n fun x =>
    { x with heads := [], good := 0, up := false, opn := none, buf := [], txTime := [], txMgmt := [], txMesh := [], inMesh := [],
             drop := x.drop ++ x.inMesh, oweCredit := false, oweLink := false,
             relost := x.writing.isSome, gone := x.gone + (x.buf.filter fun m => Nat.beq m.chan 3).length }
  let s := (slotsOf n s).foldl (fun s k => releaseSlot k s) s
  let s := if mesh + rest + tx = 0 ∧ x.opn.isNone = true then s else lnkFlag n 4 s
  if s.rd TMU.SRC_LANE = n then holdover s else s

/-- Lane n enters the state with code c: its line begins anew but where HUNT goes on with IDLE blocks (R322, R324). -/
def laneEnter (n c : Nat) (s : State) : State :=
  let l := lineSettled n s
  let s := if laneState n s = 3 then lnkFlag n 0 (discardLane n s) else s
  (s.wr (LNK.STATE n) c).modLane n fun x =>
    { x with good := 0, codeBlk := 0, prbs := {}, out := [], line := if c = 2 then l else {}, began := if c = 1 then s.now else x.began,
             rxP := if c = 4 then Config.rxBefore n s.now % 4 else 0 }

/-! Commands (R320, R324, R341). -/

/-- Conditions of START: a retired physical lane keeps its lane in RESET (20 R513). -/
def laneStartConds (n : Nat) (s : State) : List (Bool × Nat) :=
  [ (laneState n s != 0, 9), (s.rd (LNK.QPLL (n / 4)) != 1, 7), (symCode (s.rd (LNK.RATE n)) != s.rd (LNK.QRATE (n / 4)), 9),
    (s.bit HDI.RETIRE_LANE (physLane n s), 9) ]
/-- START: in link mode the ring counts begin at 0 (R338). -/
def laneStartEff (n : Nat) (s : State) : State :=
  laneEnter n 1 (if s.rd (LNK.MODE n) = 0 then (s.wr (LNK.SRX_WR n) 0).wr (LNK.SRX_RD n) 0 else s)
/-- RETRAIN. -/
def laneRetrainConds (n : Nat) (s : State) : List (Bool × Nat) := [(Nat.beq (laneState n s) 0, 9)]

/-- LANE_START. -/
def execLaneStart (q : Req) (n : Nat) (s : State) : Out :=
  unitCmd n 48 (command q (LNK.CTRL n) 1 (laneStartConds n s) (laneStartEff n) s)
/-- LANE_RESET. -/
def execLaneReset (q : Req) (n : Nat) (s : State) : Out := unitCmd n 48 (command q (LNK.CTRL n) 2 [] (laneEnter n 0) s)
/-- LANE_RETRAIN. -/
def execLaneRetrain (q : Req) (n : Nat) (s : State) : Out :=
  unitCmd n 48 (command q (LNK.CTRL n) 3 (laneRetrainConds n s) (laneEnter n 1) s)

/-- ADAPT_END: HUNT in link mode, RUN in raw mode (R325). -/
def execAdaptEnd (n : Nat) (s : State) : Out :=
  unitCmd n 48 (if laneState n s = 1 then laneEnter n (if s.rd (LNK.MODE n) = 0 then 2 else 4) s else s)

/-- Conditions of a write of LNK.QRATE and of LNK.MAP: all four lanes in RESET; none while a switch goes on (15 R397). -/
def qrateConds (k : Nat) (s : State) : List (Bool × Nat) := [(!(quadReset k s), 9), (s.crh.plls.any (fun e => Nat.beq e.1 (4 + k)), 9)]
/-- The PLL relocks (R320; 15 R411). -/
def qrateEff (k v : Nat) (s : State) : State :=
  let sw := v != s.rd (LNK.QRATE k)
  let t := ((s.wr (LNK.QRATE k) v).wr (LNK.QPLL k) 0).setBit CRH.CLK_STATUS (9 + k) false
  if sw then { t with crh := { t.crh with plls := t.crh.plls ++ [(4 + k, s.now)] } } else t
/-- QRATE_WRITE. -/
def execQrateWrite (q : Req) (k v : Nat) (s : State) : Out :=
  unitCmd k 12 (writeTo q (LNK.QRATE k) 1 v (qrateConds k s) (qrateEff k v) s)

/-- QPLL_LOCK: the lane PLL of quad k has locked to its LREF; the end of a rate switch is flagged (15 R397). -/
def execQpllLock (k : Nat) (s : State) : Out :=
  unitCmd k 12 <|
    if s.rd (LNK.QPLL k) = 1 then s
    else
      let t := (s.wr (LNK.QPLL k) 1).setBit CRH.CLK_STATUS (9 + k) true
      if t.crh.plls.any (fun e => Nat.beq e.1 (4 + k)) then
        crhFlag 3 { t with crh := { t.crh with plls := t.crh.plls.filter fun e => !(Nat.beq e.1 (4 + k)) } }
      else t

/-- LREF_LOSS: LNK.QPLL reads 2 (R342). -/
def execLrefLoss (k : Nat) (s : State) : Out :=
  unitCmd k 12 ((s.wr (LNK.QPLL k) 2).setBit CRH.CLK_STATUS (9 + k) false)

/-- Logical lane b of a quad in a map. -/
def mapLane (v b : Nat) : Nat := v / 4 ^ b % 4
/-- Conditions of a write of LNK.MAP. -/
def laneMapConds (k : Nat) (s : State) : List (Bool × Nat) := [(!(quadReset k s), 9)]
/-- LNK.PHYS follows the map. -/
def laneMapEff (k v : Nat) (s : State) : State :=
  (List.range 4).foldl (fun s b => s.wr (LNK.PHYS (4 * k + b)) (mapLane v b)) (s.wr (LNK.MAP k) v)
/-- LANE_MAP_WRITE. -/
def execLaneMapWrite (q : Req) (k v : Nat) (s : State) : Out :=
  unitCmd k 12 (writeTo q (LNK.MAP k) 1 v (laneMapConds k s) (laneMapEff k v) s)

/-! Lock (R327, R328). -/

/-- A valid header received: counted towards lock in HUNT, one of the last 64 in LOCKED. -/
def goodHeader (n : Nat) (s : State) : State :=
  s.modLane n fun x => if laneState n s = 2 then { x with good := x.good + 1 } else { x with heads := (true :: x.heads).take 64 }

/-- An invalid header received: the count of HUNT begins again; in LOCKED the sixteenth of 64 ends lock. -/
def badHeader (n : Nat) (s : State) : State :=
  if laneState n s = 2 then s.modLane n fun x => { x with good := 0 }
  else if laneState n s = 3 then
    let h := (false :: (s.laneOf n).heads).take 64
    let s := (s.bump 64 (LNK.BAD_HDR n)).modLane n fun x => { x with heads := h }
    if 16 ≤ (h.filter (! ·)).length then laneEnter n 2 (s.bump 64 (LNK.LOSSES n)) else s
  else s

/-- INVALID_HEADER: a block with an invalid header; with FEC an uncorrectable codeword, whose 20 blocks are invalid. -/
def execInvalidHeader (n : Nat) (s : State) : Out :=
  unitCmd n 48 <|
    if fecOn n s then
      (List.range 20).foldl (fun s _ => badHeader n s)
        ((if laneState n s = 2 ∨ laneState n s = 3 then lnkFlag n 3 (s.bump 64 (LNK.FEC_UNCORR n)) else s).modLane n fun x => { x with codeBlk := 0 })
    else badHeader n s

/-- LOCK_GAINED: 64 valid headers in a row; sent counts 0, buffers empty, a CREDIT and a LINK block owed (R331, R332). -/
def execLockGained (n : Nat) (s : State) : Out :=
  unitCmd n 48 <|
    if laneState n s = 2 ∧ 64 ≤ (s.laneOf n).good then
      trySend n (lnkFlag n 0 ((s.wr (LNK.STATE n) 3).modLane n fun x =>
        { x with heads := [], good := 0, up := false, opn := none, buf := [], freed := [320, 1056, 64, 512], credit := [0, 0, 0, 0],
                 sent := [0, 0, 0, 0], oweCredit := true, oweLink := true }))
    else s

/-! Receiving (R329 to R331, R333). -/

/-- A message counted in LNK.RX_INVALID. -/
def rxInvalid (n : Nat) (s : State) : State := s.bump 64 (LNK.RX_INVALID n)

/-- A block of a received codeword with fix of its symbols corrected, those of the parity with its last block: 20 blocks make a
codeword, of which at most 15 symbols can be corrected (R328). -/
def codeIn (n fix : Nat) (s : State) : State :=
  let x := s.laneOf n
  let before := if x.codeBlk = 0 then 0 else x.codeFix
  let k := min fix (15 - before)
  (s.addTo 64 (LNK.FEC_CORR n) k).modLane n fun x => { x with codeBlk := (x.codeBlk + 1) % 20, codeFix := before + k }
/-- A block received in HUNT or LOCKED with the FEC symbols corrected in it (R328); in LOCKED it acts. -/
def blockIn (n fix : Nat) (act : State → State) (s : State) : Out :=
  unitCmd n 48 <|
    let t := if fecOn n s then codeIn n fix s else s
    if laneState n s = 2 then goodHeader n t
    else if laneState n s = 3 then trySend n (act (goodHeader n t))
    else s

/-- A control block whose CTYPE or reserved field is not as R329 says. -/
def ctlBad (v type : Nat) (fields : List (Nat × Nat)) : Bool :=
  Dict.bitsOf v 255 248 != type || fields.any fun f => Dict.bitsOf v f.1 f.2 != 0

/-- IDLE_BLOCK, or a control block of no listed type. -/
def execIdleBlock (n v fix : Nat) (s : State) : Out :=
  blockIn n fix (fun s => if ctlBad v 0 [(247, 0)] then rxInvalid n s else s) s

/-- CREDIT_BLOCK: the sender's credit. -/
def execCreditBlock (n v fix : Nat) (s : State) : Out :=
  blockIn n fix (fun s =>
    if ctlBad v 0x5A [(247, 240), (175, 0)] then rxInvalid n s
    else s.modLane n fun x =>
      { x with credit := [Dict.bitsOf v 239 224, Dict.bitsOf v 223 208, Dict.bitsOf v 207 192, Dict.bitsOf v 191 176] }) s

/-- LINK_BLOCK: with the first after lock the link is up and the peer known (R333). -/
def execLinkBlock (n v fix : Nat) (s : State) : Out :=
  blockIn n fix (fun s =>
    if ctlBad v 0x66 [(167, 0)] || Dict.bitsOf v 175 168 != 1 then rxInvalid n s
    else if (s.laneOf n).up then s
    else
      let s := (s.wr (LNK.PEER n) (Dict.bitsOf v 239 176)).wr (LNK.PEER_LANE n) (Dict.bitsOf v 247 240)
      lnkFlag n 1 (s.modLane n fun x => { x with up := true })) s

/-- Is LEN in range for its channel, and may the channel open (R330, R335, R338, 13 R354)? -/
def startOk (chan len : Nat) (up : Bool) : Bool :=
  match chan with
  | 0 => up && Nat.ble 64 len && Nat.ble len 320 && Nat.beq (len % 8) 0
  | 1 => up && Nat.ble 8 len && Nat.ble len 2056
  | 2 => Nat.beq len 32
  | _ => Nat.beq (len % 32) 0 && Nat.ble 32 len && Nat.ble len 2048

/-- An open message given up: its blocks are freed (R330). -/
def abortOpen (n : Nat) (s : State) : State :=
  match (s.laneOf n).opn with
  | some o => (freeBlocks n o.msg.chan (1 + o.got / 32) (s.bump 64 (LNK.RX_ABORT n))).modLane n fun x => { x with opn := none }
  | none => s

/-- START_BLOCK: a message begins; its instant is the medium boundary (R337). -/
def execStartBlock (n v fix : Nat) (s : State) : Out :=
  blockIn n fix (fun s =>
    if ctlBad v 0x4B [(245, 240), (159, 0)] then rxInvalid n s
    else
      let s := abortOpen n s
      let chan := Dict.bitsOf v 247 246
      let len := Dict.bitsOf v 239 224
      if startOk chan len (s.laneOf n).up then
        s.modLane n fun x =>
          { x with opn := some ⟨⟨chan, len, Dict.bitsOf v 223 208, Dict.bitsOf v 207 192, 0, stampAt s s.now⟩, Dict.bitsOf v 191 160, 0⟩ }
      else freeBlocks n chan 1 (rxInvalid n s)) s

/-- The mesh request of a MESH message, with the source label the lane gives it (R302, R335). -/
def meshOf (n : Nat) (m : LaneMsg) (s : State) : MeshReq :=
  let op := Dict.bitsOf m.data 117 114
  { op := if op = 0 then .read else if op = 1 then .write else .orw, own := .lane n (Dict.bitsOf m.data 143 128),
    src := quadNode (n / 4), cls := s.rd (LNK.MESH_CLASS n), addr := Dict.bitsOf m.data 191 144,
    len := 8 * (Dict.bitsOf m.data 122 118 + 1), data := if op = 1 then m.data / 2 ^ 512 else Dict.bitsOf m.data 255 192 }

/-- Is a complete MESH message a request whose LEN fits its header (R335)? -/
def meshMsgOk (m : LaneMsg) : Bool :=
  let op := Dict.bitsOf m.data 117 114
  Nat.ble op 2 && Nat.beq m.len (64 + if op = 1 then 8 * (Dict.bitsOf m.data 122 118 + 1) else 0)

/-- A message whose last byte has come (R330, R335, R336, R338). -/
def rxComplete (n crc : Nat) (m : LaneMsg) (s : State) : State :=
  if crc32 m.data m.len ≠ crc then lnkFlag n 2 (freeBlocks n m.chan (blocksOf m.len) (s.bump 64 (LNK.RX_CRC n)))
  else if m.chan = 0 ∧ meshMsgOk m = false then freeBlocks n 0 (blocksOf m.len) (rxInvalid n s)
  else
    let s := if m.chan = 0 then s.bump 64 (LNK.MESH_IN n) else if m.chan = 3 then s.bump 64 (LNK.SRX_MSGS n) else s
    s.modLane n fun x => { x with buf := x.buf ++ [m] }

/-- DATA_BLOCK: 32 bytes of the open message; bytes beyond LEN are not looked at. -/
def execDataBlock (n v fix : Nat) (s : State) : Out :=
  blockIn n fix (fun s =>
    match (s.laneOf n).opn with
    | none => rxInvalid n s
    | some o =>
      let m := { o.msg with data := (o.msg.data + v % 2 ^ 256 * 2 ^ (8 * o.got)) % 2 ^ (8 * o.msg.len) }
      if o.got + 32 < o.msg.len then s.modLane n fun x => { x with opn := some { o with msg := m, got := o.got + 32 } }
      else rxComplete n o.crc m (s.modLane n fun x => { x with opn := none })) s

/-- The oldest received message of channel c. -/
def oldest (n c : Nat) (s : State) : Option LaneMsg := (s.laneOf n).buf.find? fun m => Nat.beq m.chan c
/-- A received message taken from its buffer, its blocks freed. -/
def takeMsg (n : Nat) (m : LaneMsg) (s : State) : State :=
  freeBlocks n m.chan (blocksOf m.len) (s.modLane n fun x => { x with buf := x.buf.erase m })

/-- MESH_MESSAGE: the oldest request is injected at the quad's node, at most 32 in flight, those whose responses a loss of
lock discards among them (R335, R339). -/
def execMeshMessage (n : Nat) (s : State) : Out :=
  unitCmd n 48 <|
    match oldest n 0 s with
    | some m =>
      if (s.laneOf n).inMesh.length + (s.laneOf n).drop.length < 32 then
        let r := meshOf n m s
        trySend n (meshSend r ((takeMsg n m s).modLane n fun x => { x with inMesh := x.inMesh ++ [r] }))
      else s
    | none => s

/-- The header of a response (R302). SPORT and DPORT of the part are not given: they are free (log entry 9). -/
def respHeader (x : MeshResp) (s : State) : Nat :=
  let r := x.req
  let tag := match r.own with | .lane _ t => t | _ => 0
  r.addr % 2 ^ 48 * 2 ^ 144 + tag % 65536 * 2 ^ 128 + (r.len / 8 - 1) % 32 * 2 ^ 118 + (8 + x.kind) * 2 ^ 114 + r.cls % 4 * 2 ^ 112
    + (2 + vcOf r) * 2 ^ 110 + destNode (destOf r.addr s) % 64 * 2 ^ 104 + r.src % 64 * 2 ^ 98 + s.freeVal % 256 * 2 ^ 90

/-- A response to a lane's request goes back to the peer, or is discarded after a loss of lock (R335, R339). -/
def laneDone (n : Nat) (x : MeshResp) (s : State) : State :=
  if (s.laneOf n).drop.contains x.req then s.modLane n fun l => { l with drop := l.drop.erase x.req }
  else
    let len := 64 + if x.kind = 0 then x.req.len else 0
    let d := respHeader x s + if x.kind = 0 then x.data % 2 ^ (8 * x.req.len) * 2 ^ 512 else 0
    trySend n (s.drawn.modLane n fun l => { l with inMesh := l.inMesh.erase x.req, txMesh := l.txMesh ++ [.mesh len d] })

/-! Streams (R338). -/

/-- Writes of a stream message: the ring is cut at blocks a mesh write may carry. -/
def streamParts (n base size : Nat) : (fuel pos left data : Nat) → State → List MeshReq
  | 0, _, _, _, _ => []
  | k + 1, pos, left, data, s =>
    if left = 0 then []
    else
      let a := base + pos % size
      let c := chunkLen a left
      ⟨.write, .stream n, quadNode (n / 4), 3, a, c, data % 2 ^ (8 * c)⟩
        :: streamParts n base size k (pos + c) (left - c) (data / 2 ^ (8 * c)) s

/-- STREAM_MESSAGE: the oldest message is written into the ring, or dropped whole. -/
def execStreamMessage (n : Nat) (s : State) : Out :=
  unitCmd n 48 <|
    match oldest n 3 s, (s.laneOf n).writing with
    | some m, none =>
      if s.rd (LNK.SRX_BYTES n) < s.rd (LNK.SRX_WR n) - s.rd (LNK.SRX_RD n) + m.len then
        trySend n (lnkFlag n 4 ((takeMsg n m s).bump 64 (LNK.SRX_DROP n)))
      else
        let ps := streamParts n (s.rd (LNK.SRX_BASE n)) (s.rd (LNK.SRX_BYTES n)) 64 (s.rd (LNK.SRX_WR n)) m.len m.data s
        ps.foldl (fun s r => meshSend r s) (s.modLane n fun x =>
          { x with buf := x.buf.erase m, writing := some (m.len, ps.length, false), parts := ps })
    | _, _ => s

/-- A write of a stream message answered. -/
def streamDone (n : Nat) (x : MeshResp) (s : State) : State :=
  s.modLane n fun l =>
    { l with parts := l.parts.erase x.req,
             writing := l.writing.map fun w => (w.1, l.parts.length - 1, w.2.2 || decide (x.kind = 2)) }

/-- STREAM_WRITES_DONE: every write of the message is answered, err saying whether one met an error. Blocks a loss of lock took
from the count are not freed again (R331, R339). -/
def execStreamWritesDone (n : Nat) (err : Bool) (s : State) : Out :=
  unitCmd n 48 <|
    match (s.laneOf n).writing with
    | some (len, _, bad) =>
      if (s.laneOf n).parts = [] ∧ bad = err then
        let t := ((s.addTo 64 (LNK.SRX_WR n) len).bump 64 (LNK.SRX_DONE n)).modLane n fun l => { l with writing := none, relost := false }
        let t := if err then lnkFlag n 6 (t.bump 64 (LNK.SRX_ERR n)) else t
        trySend n (if (s.laneOf n).relost then t else freeBlocks n 3 (blocksOf len) t)
      else s
    | none => s

/-! Timers (R331, R332). -/

/-- CREDIT_SEND_TIMER: 10 us after the last CREDIT block. -/
def execCreditSendTimer (n : Nat) (s : State) : Out :=
  unitCmd n 48 <|
    if laneState n s = 3 then
      trySend n ((s.upto ((s.laneOf n).creditAt + 10 * ticksPerUs)).modLane n fun x => { x with oweCredit := true })
    else s
/-- LINK_SEND_TIMER: 1 ms after the last LINK block. -/
def execLinkSendTimer (n : Nat) (s : State) : Out :=
  unitCmd n 48 <|
    if laneState n s = 3 then
      trySend n ((s.upto ((s.laneOf n).linkAt + 1000 * ticksPerUs)).modLane n fun x => { x with oweLink := true })
    else s

/-! Raw mode (R340). -/

/-- One received bit at the checker: the bits counted and those wrong, and whether it left sync. -/
def prbsBit (c : Nat) (b : Bool) (x : PrbsS) : PrbsS × Nat × Nat × Nat :=
  let p := prbsNext c x.hist
  let full := Nat.ble (prbsPoly c).1 x.hist.length
  if x.sync then
    let recent := ((b != p) :: x.recent).take 128
    let e := if b = p then 0 else 1
    if 32 ≤ (recent.filter id).length then ({}, 1, e, 1)
    else (⟨(p :: x.hist).take 31, true, 64, recent, x.missed || b != p⟩, 1, e, 0)
  else
    let run := if full && b == p then x.run + 1 else 0
    (⟨(b :: x.hist).take 31, Nat.ble 64 run, run, [], false⟩, 0, 0, 0)

/-- A bit of lane n checked with the polynomial of code c: the first mismatch since the checker came into sync is flagged. -/
def checkBit (n c : Nat) (b : Bool) (s : State) : State :=
  let x := (s.laneOf n).prbs
  let r := prbsBit c b x
  let s := (((s.modLane n fun x => { x with prbs := r.1 }).addTo 64 (LNK.PRBS_BITS n) r.2.1).addTo 64 (LNK.PRBS_ERR n)
    r.2.2.1).addTo 64 (LNK.PRBS_RESYNC n) r.2.2.2
  if r.2.2.1 = 1 ∧ x.missed = false then lnkFlag n 5 s else s

/-- PRBS_CHECKER: symbols received in RUN, their bits after RXINV checked (R321, R322, R340). -/
def execPrbsChecker (n : Nat) (syms : List Nat) (s : State) : Out :=
  unitCmd n 48 <|
    if laneState n s = 4 then
      let c := Dict.bitsOf (s.rd (LNK.RAW n)) 6 4
      let t := s.modLane n fun x => { x with rxP := syms.getLastD x.rxP }
      if c < 4 then
        (lineReceived n syms s).foldl (fun s b => checkBit n c (xor b (s.bit (LNK.RAW n) 1)) s) t
      else t
    else s

/-- Conditions of a write of LNK.SRX_RD. -/
def srxRdConds (n v : Nat) (s : State) : List (Bool × Nat) :=
  [(Nat.blt v (s.rd (LNK.SRX_RD n)) || Nat.blt (s.rd (LNK.SRX_WR n)) v, 4)]

end Sys2Proof.Machine
end

