-- ==== Sys2Proof/Machine/Tmu.lean ====
section
/-! DEFINITION. The time unit: role, steps, the exchange and its servo, host lanes, apertures, triggers, captures and the start
schedule (13_time_unit.md R345 to R368). -/
namespace Sys2Proof.Machine

/-- A number of w bits as a signed integer. -/
def toSigned (w v : Nat) : Int := if v % 2 ^ w < 2 ^ (w - 1) then ((v % 2 ^ w : Nat) : Int) else ((v % 2 ^ w : Nat) : Int) - 2 ^ w
/-- A signed integer as a number of w bits. -/
def ofSigned (w : Nat) (i : Int) : Nat := (i % 2 ^ w).toNat
/-- TICK64 ticks as units of 2^-32 ns. -/
abbrev unitsPerTick : Nat := 2 ^ 19
/-- One nanosecond in units of 2^-32 ns. -/
abbrev unitsPerNs : Nat := 2 ^ 32

/-! Role, increment and steps (R346 to R349). -/

/-- A write of TMU.ROLE that changes the role: validity falls first. -/
def roleEff (v : Nat) (s : State) : State :=
  if v = s.rd TMU.ROLE then s
  else
    let s := (((validFall s).wr TMU.ROLE v).setBit TMU.STATUS 1 false).modTmu fun t =>
      { t with lock := 0, integ := 0, xch := none, lastAt := s.now, done := false }
    if v = 1 then validRise s else s
/-- TMU_ROLE_WRITE. -/
def execTmuRoleWrite (q : Req) (v : Nat) (s : State) : Out := .next (writeTo q TMU.ROLE 1 v [] (roleEff v) s)

/-- The servo owns the increment in FOLLOWER. -/
def incrConds (s : State) : List (Bool × Nat) := [(Nat.beq (s.rd TMU.ROLE) 2, 9)]
/-- INCR_WRITE. -/
def execIncrWrite (q : Req) (v : Nat) (s : State) : Out := .next (writeTo q TMU.INCR 8 v (incrConds s) (setIncr v) s)

/-- A step refused for its amount, by code 0x0B or 0x04. -/
def stepTooBig (d : Int) (s : State) : Bool := decide (s.rd TMU.STEP_LIMIT * unitsPerNs < d.natAbs)
/-- Would a step take the counter below zero? -/
def stepBelow (d : Int) (s : State) : Bool := decide (d < 0) && decide (netNow s < d.natAbs)
/-- Conditions of a write of TMU.STEP. -/
def stepConds (v : Nat) (s : State) : List (Bool × Nat) :=
  let d := toSigned 64 v
  [(Nat.beq (s.rd TMU.ROLE) 2, 9), (Nat.beq (s.rd TMU.ROLE) 1 && stepTooBig d s, 0xB), (stepBelow d s, 4)]
/-- A write of TMU.STEP; one refused for its amount is counted (R349). -/
def stepWrite (q : Req) (v : Nat) (s : State) : State :=
  let st := statusOf q 2 0xE000 3 8 v 0 (stepConds v s) s
  let t := writeTo q TMU.STEP 8 v (stepConds v s) (stepBy (toSigned 64 v)) s
  if (st = 0xB ∨ st = 4) ∧ deaf q s = false then stepRefused t else t
/-- TMU_STEP. -/
def execTmuStep (q : Req) (v : Nat) (s : State) : Out := .next (stepWrite q v s)

/-- TMU.SET is written in FREE alone. -/
def setConds (s : State) : List (Bool × Nat) := [(s.rd TMU.ROLE != 0, 9)]
/-- TMU_SET: the counter becomes the value. -/
def execTmuSet (q : Req) (v : Nat) (s : State) : Out :=
  .next (writeTo q TMU.SET 16 v (setConds s) (stepTo (ofTime128 v)) s)

/-! The exchange (R354 to R360). -/

/-- Does the part serve its TMU.SERVE lanes (R355)? The helpers of a held Molxo do not run (19 R493). -/
def serving (s : State) : Bool := (Nat.beq (s.rd TMU.ROLE) 1 || (Nat.beq (s.rd TMU.ROLE) 2 && timeValid s)) && !(s.tgtOf 0).held

/-- EXCHANGE_START: SYNC and FOLLOW on each serving lane that is LOCKED, once per TMU.INTERVAL (R357). -/
def execExchangeStart (s : State) : Out :=
  .next <|
    if serving s ∧ s.rd TMU.SERVE ≠ 0 then
      let s := if s.tmu.startAt = 0 then s else s.upto (s.tmu.startAt + s.rd TMU.INTERVAL * ticksPerUs)
      let seq := s.tmu.seq
      let s := s.modTmu fun t => { t with seq := (seq + 1) % 65536, startAt := s.now }
      (List.range 48).foldl (fun s n =>
        if s.bit TMU.SERVE n = true ∧ laneState n s = 3 then
          trySend n (s.modLane n fun x => { x with txTime := x.txTime ++ [.time 1 seq 0, .time 2 seq 0] })
        else s) s
    else s

/-- TIME_MESSAGE: the oldest TIME message goes to the host queue or to the servo helper, or is discarded (R353, R354). -/
def execTimeMessage (n : Nat) (s : State) : Out :=
  unitCmd n 48 <|
    match oldest n 2 s with
    | some m =>
      let s := takeMsg n m s
      let lost := s.bump 64 (TMU.RX_LOST n)
      let type := Dict.bitsOf m.data 23 16
      trySend n <|
        if s.bit TMU.HOST_LANES n then
          if (s.laneTimeOf n).rx.length < 16 then s.modLaneTime n fun t => { t with rx := t.rx ++ [(m.data, m.stamp)] }
          else laneFlag n 1 6 lost
        else if (s.rd TMU.SRC_LANE = n ∨ s.bit TMU.SERVE n = true) ∧ 1 ≤ type ∧ type ≤ 4 ∧ Dict.bitsOf m.data 31 24 = s.rd TMU.DOMAIN then
          s.modLaneTime n fun t => { t with inbox := t.inbox ++ [⟨m.data, m.stamp⟩] }
        else lost
    | none => s

/-- SEQ of a built-in message. -/
def msgSeq (m : TimeIn) : Nat := m.msg % 65536
/-- T of a built-in message, in units. -/
def msgTime (m : TimeIn) : Nat := ofTime128 (m.msg / 2 ^ 128)

/-- A built-in message of the type that waits on lane n is processed by the servo helper. -/
def helper (n type : Nat) (act : TimeIn → State → State) (s : State) : Out :=
  unitCmd n 48 <|
    if (s.tgtOf 0).held then s
    else match (s.laneTimeOf n).inbox.find? fun m => Nat.beq (Dict.bitsOf m.msg 23 16) type with
      | some m => act m (s.modLaneTime n fun t => { t with inbox := t.inbox.erase m })
      | none => s

/-- Is lane n the one towards the master of a FOLLOWER? -/
def isSource (n : Nat) (s : State) : Bool := Nat.beq (s.rd TMU.ROLE) 2 && Nat.beq (s.rd TMU.SRC_LANE) n

/-- SYNC: the follower opens an exchange with t2; an open one is abandoned (R357). -/
def execSync (n : Nat) (s : State) : Out :=
  helper n 1 (fun m s => if isSource n s then s.modTmu fun t => { t with xch := some { seq := msgSeq m, t2 := m.stamp } } else s) s

/-- FOLLOW: t1 comes, a new grandmaster is taken, and DREQ leaves (R357, R360). -/
def execFollow (n : Nat) (s : State) : Out :=
  helper n 2 (fun m s =>
    match s.tmu.xch with
    | some x =>
      if isSource n s ∧ x.seq = msgSeq m then
        let gm := Dict.bitsOf m.msg 127 64
        let s := if gm = s.rd TMU.GM_SERIAL then s
          else tmuFlag 4 ((s.wr TMU.GM_SERIAL gm).wr TMU.HOPS (Dict.bitsOf m.msg 39 32))
        let s := s.modTmu fun t => { t with xch := some { x with t1 := some (msgTime m) } }
        trySend n (s.modLane n fun l => { l with txTime := l.txTime ++ [.time 3 x.seq 0] })
      else s
    | none => s) s

/-- DREQ: a serving part answers with its receive stamp t4 (R357). -/
def execDreq (n : Nat) (s : State) : Out :=
  helper n 3 (fun m s =>
    if serving s ∧ s.bit TMU.SERVE n = true then
      trySend n (s.modLane n fun l => { l with txTime := l.txTime ++ [.time 4 (msgSeq m) m.stamp] })
    else s) s

/-- A value held between two bounds. -/
def clampInt (v lo hi : Int) : Int := if v < lo then lo else if hi < v then hi else v

/-- The servo slews (R358). -/
def slew (theta : Int) (s : State) : State :=
  let n : Int := s.rd TMU.INTERVAL * 1000
  let i := clampInt (s.tmu.integ - Int.tdiv theta (n * 2 ^ s.rd TMU.KI)) (-4294967) 4294967
  let incr := clampInt (2 ^ 32 + i - Int.tdiv theta (n * 2 ^ s.rd TMU.KP)) 0xFFBE76C9 0x100418937
  setIncr incr.toNat (s.modTmu fun t => { t with integ := i })

/-- The lock count after an exchange with offset theta; at 16 the follower is valid (R359). -/
def countLock (theta : Int) (s : State) : State :=
  if theta.natAbs * 1000 ≤ s.rd TMU.LOCK_LIMIT * unitsPerNs then
    let s := s.modTmu fun t => { t with lock := t.lock + 1 }
    if 16 ≤ s.tmu.lock then validRise (s.setBit TMU.STATUS 1 false) else s
  else s.modTmu fun t => { t with lock := 0 }

/-- The servo at a completed exchange (R358, R359). -/
def servo (theta : Int) (s : State) : State :=
  if 100 * unitsPerNs < theta.natAbs then
    if (timeValid s && stepTooBig theta s) || stepBelow (-theta) s then
      countLock theta (slew theta ((stepRefused s).modTmu fun t => { t with lock := 0 }))
    else stepBy (-theta) (s.modTmu fun t => { t with integ := 0, lock := 0 })
  else countLock theta (slew theta s)

/-- Follower's offset and path delay from the four stamps and the asymmetry in units (R358). -/
def offsetOf (t1 t2 t3 t4 : Nat) (a : Int) : Int := Int.tdiv (((t2 : Int) - t1) - ((t4 : Int) - t3) - a) 2
/-- As offsetOf, the mean path delay. -/
def delayOf (t1 t2 t3 t4 : Nat) : Int := Int.tdiv (((t2 : Int) - t1) + ((t4 : Int) - t3)) 2

/-- DRESP: the exchange completes, and the servo acts (R357, R358). -/
def execDresp (n : Nat) (s : State) : Out :=
  helper n 4 (fun m s =>
    match s.tmu.xch with
    | some ⟨seq, t2, some t1, some t3⟩ =>
      if isSource n s ∧ seq = msgSeq m then
        let a := Int.tdiv (toSigned 32 (s.rd (TMU.ASYM n)) * unitsPerNs) 1000
        let theta := offsetOf t1 t2 t3 (msgTime m) a
        let s := ((s.bump 64 TMU.EXCHANGES).wr TMU.OFFSET (ofSigned 64 theta)).wr TMU.DELAY
          (ofSigned 64 (delayOf t1 t2 t3 (msgTime m)))
        servo theta (s.modTmu fun t => { t with xch := none, lastAt := s.now, done := true })
      else s
    | _ => s) s

/-- EXCHANGE_TIMEOUT: no exchange for 4 x TMU.INTERVAL (R348). -/
def execExchangeTimeout (s : State) : Out :=
  .next <|
    if s.rd TMU.ROLE = 2 ∧ timeValid s = true then holdover (s.upto (s.tmu.lastAt + 4 * s.rd TMU.INTERVAL * ticksPerUs)) else s

/-- TMU.STATUS ACQUIRING: a FOLLOWER that is not valid, with exchanges completing: one in this role, the last less than 4 x
TMU.INTERVAL ago (R367). -/
def acquiring (s : State) : Bool :=
  Nat.beq (s.rd TMU.ROLE) 2 && !(timeValid s) && s.tmu.done
    && Nat.blt s.now (s.tmu.lastAt + 4 * s.rd TMU.INTERVAL * ticksPerUs)

/-- Conditions of writes of TMU.SRC_LANE, SERVE and HOST_LANES, given the three values after the write (R355). -/
def lanesConds (src serve host : Nat) : List (Bool × Nat) :=
  [((serve &&& host) != 0 || (Nat.blt src 48 && (serve.testBit src || host.testBit src)), 9)]
/-- As lanesConds, beside the role that a write of TMU.SRC_LANE asks for. -/
def srcConds (src : Nat) (s : State) : List (Bool × Nat) :=
  lanesConds src (s.rd TMU.SERVE) (s.rd TMU.HOST_LANES) ++ [(src != 0xFF && s.rd TMU.ROLE != 2, 9)]

/-! Host lanes (R353). -/

/-- The condition that lane n is a host lane. -/
def hostLane (n : Nat) (s : State) : Bool × Nat := (!(s.bit TMU.HOST_LANES n), 9)
/-- Conditions of a write of TMU.TXMSG. -/
def txmsgConds (n : Nat) (s : State) : List (Bool × Nat) :=
  let waits := (s.laneOf n).txTime.filter fun m => match m with | .host _ => true | _ => false
  [hostLane n s, (laneState n s != 3, 7), (Nat.ble 4 waits.length, 8)]
/-- A host TIME message queued. -/
def txmsgEff (n v : Nat) (s : State) : State := trySend n (s.modLane n fun x => { x with txTime := x.txTime ++ [.host v] })
/-- TXMSG. -/
def execTxmsg (q : Req) (n v : Nat) (s : State) : Out :=
  unitCmd n 48 (writeTo q (TMU.TXMSG n) 32 v (txmsgConds n s) (txmsgEff n v) s)

/-- The oldest transmit timestamp as it is read (R352). -/
def txtsData (n : Nat) (s : State) : Nat :=
  match (s.laneTimeOf n).txts with
  | e :: _ => toTime128 e.1 + e.2 * 2 ^ 128
  | [] => 0
/-- Conditions of a read of TMU.TXTS. -/
def txtsConds (n : Nat) (s : State) : List (Bool × Nat) := [hostLane n s, ((s.laneTimeOf n).txts.isEmpty, 7)]
/-- The oldest transmit timestamp removed. -/
def txtsEff (n : Nat) (s : State) : State := (s.bump 64 (TMU.TXTS_READ n)).modLaneTime n fun t => { t with txts := t.txts.drop 1 }
/-- TXTS. -/
def execTxts (q : Req) (n : Nat) (s : State) : Out :=
  unitCmd n 48 (readFrom q (TMU.TXTS n) 24 (txtsData n s) (txtsConds n s) (txtsEff n) s)

/-- The oldest received message as it is read. -/
def rxmsgData (n : Nat) (s : State) : Nat :=
  match (s.laneTimeOf n).rx with
  | e :: _ => e.1 % 2 ^ 256 + toTime128 e.2 * 2 ^ 256
  | [] => 0
/-- Conditions of a read of TMU.RXMSG. -/
def rxmsgConds (n : Nat) (s : State) : List (Bool × Nat) := [hostLane n s, ((s.laneTimeOf n).rx.isEmpty, 7)]
/-- The oldest received message removed. -/
def rxmsgEff (n : Nat) (s : State) : State := s.modLaneTime n fun t => { t with rx := t.rx.drop 1 }
/-- RXMSG. -/
def execRxmsg (q : Req) (n : Nat) (s : State) : Out :=
  unitCmd n 48 (readFrom q (TMU.RXMSG n) 48 (rxmsgData n s) (rxmsgConds n s) (rxmsgEff n) s)

/-! Apertures (R362). -/

/-- OPEN and CLOSE of occurrence k of aperture a, in units. -/
def apOpenAt (a k : Nat) (s : State) : Nat := ofTime128 (s.rd (TMU.AP_OPEN a)) + k * s.rd (TMU.AP_PERIOD a) * unitsPerTick
/-- As apOpenAt, the close. -/
def apCloseAt (a k : Nat) (s : State) : Nat := ofTime128 (s.rd (TMU.AP_CLOSE a)) + k * s.rd (TMU.AP_PERIOD a) * unitsPerTick
/-- The first occurrence from k on that closes after time u. -/
def apNext (a k u : Nat) (s : State) : Nat :=
  let p := s.rd (TMU.AP_PERIOD a) * unitsPerTick
  if p = 0 ∨ u < apCloseAt a k s then k else k + (u - apCloseAt a k s) / p + 1
/-- Occurrence an aperture waits for or is in. -/
def apK (a : Nat) (s : State) : Nat := Tab.get (fun _ => 0) s.tmu.ap a
/-- As apK, changed. -/
def setApK (a k : Nat) (s : State) : State := s.modTmu fun t => { t with ap := Tab.set (fun _ => 0) t.ap a k }
/-- Does time u lie in a window of armed aperture a? An occurrence that has closed does not open again (R350). -/
def apHolds (a u : Nat) (s : State) : Bool :=
  let p := s.rd (TMU.AP_PERIOD a) * unitsPerTick
  let o := apOpenAt a 0 s
  let k := if p = 0 then 0 else (u - o) / p
  (Nat.beq (s.rd (TMU.AP_STATE a)) 1 || Nat.beq (s.rd (TMU.AP_STATE a)) 2) && Nat.ble (apK a s) k
    && Nat.ble (apOpenAt a k s) u && Nat.blt u (apCloseAt a k s)

/-- Is aperture a armed? -/
def apArmed (a : Nat) (s : State) : Bool := Nat.beq (s.rd (TMU.AP_STATE a)) 1 || Nat.beq (s.rd (TMU.AP_STATE a)) 2
/-- Conditions of ARM. -/
def apArmConds (a : Nat) (s : State) : List (Bool × Nat) :=
  let p := s.rd (TMU.AP_PERIOD a) * unitsPerTick
  [(Nat.ble (apCloseAt a 0 s) (apOpenAt a 0 s) || (p != 0 && Nat.ble p (apCloseAt a 0 s - apOpenAt a 0 s)), 9), (!(timeValid s), 7)]
/-- ARM; an armed aperture stays as it is. -/
def apArmEff (a : Nat) (s : State) : State :=
  if apArmed a s then s else setApK a (apNext a 0 (netNow s) s) (s.wr (TMU.AP_STATE a) 1)
/-- APERTURE_ARM. -/
def execApertureArm (q : Req) (a : Nat) (s : State) : Out :=
  unitCmd a 16 (command q (TMU.AP_CTRL a) 1 (apArmConds a s) (apArmEff a) s)
/-- DISARM. -/
def apDisarmEff (a : Nat) (s : State) : State := s.wr (TMU.AP_STATE a) 0
/-- APERTURE_DISARM. -/
def execApertureDisarm (q : Req) (a : Nat) (s : State) : Out := unitCmd a 16 (command q (TMU.AP_CTRL a) 2 [] (apDisarmEff a) s)

/-- A pulse of every armed trigger that follows aperture a (R363). -/
def aperturePulses (a : Nat) (s : State) : State :=
  (List.range 16).foldl (fun s t =>
    if s.rd (TMU.TRG_STATE t) = 1 ∧ Dict.bitsOf (s.rd (TMU.TRG_CFG t)) 2 1 = 1 ∧ Dict.bitsOf (s.rd (TMU.TRG_CFG t)) 7 4 = a then
      s.bump 64 (TMU.TRG_FIRED t)
    else s) s

/-- APERTURE_OPEN: at the first engine clock edge in the window of its next occurrence; one that a step skips never opens
(R350, R362). One that a backward step carried before its opening opens again. -/
def execApertureOpen (a : Nat) (s : State) : Out :=
  unitCmd a 16 <|
    if apState a s = 1 then
      let k := apK a s
      let e := edgeOfTime s s.now (apOpenAt a k s)
      let s := s.upto e
      if netAt s e < apCloseAt a k s then
        aperturePulses a (tmuFlag 11 ((s.wr (TMU.AP_STATE a) 2).bump 64 (TMU.AP_OPENS a)))
      else if s.rd (TMU.AP_PERIOD a) = 0 then s.wr (TMU.AP_STATE a) 3
      else setApK a (apNext a k (netAt s e) s) s
    else s

/-- APERTURE_CLOSE: at the first engine clock edge at or after the close. -/
def execApertureClose (a : Nat) (s : State) : Out :=
  unitCmd a 16 <|
    if apState a s = 2 then
      let k := apK a s
      let e := edgeOfTime s s.now (apCloseAt a k s)
      let s := s.upto e
      if s.rd (TMU.AP_PERIOD a) = 0 then s.wr (TMU.AP_STATE a) 3
      else setApK a (apNext a k (netAt s e) s) (s.wr (TMU.AP_STATE a) 1)
    else s

/-! Trigger outputs (R363). -/

/-- Conditions of ARM. -/
def trgArmConds (t : Nat) (s : State) : List (Bool × Nat) :=
  let w := s.rd (TMU.TRG_WIDTH t)
  let p := s.rd (TMU.TRG_PERIOD t)
  [ (!(timeValid s), 7),
    (Nat.beq (Dict.bitsOf (s.rd (TMU.TRG_CFG t)) 2 1) 0 && decide (ofTime128 (s.rd (TMU.TRG_AT t)) < netNow s + 10000 * unitsPerNs), 4),
    (s.rd (TMU.TRG_AT t) % 2 ^ 26 != 0 || w % 128 != 0 || p % 128 != 0, 4),
    (Nat.blt w 16384 || (p != 0 && Nat.blt p (w + 16384)) || (Nat.beq p 0 && s.rd (TMU.TRG_COUNT t) != 1), 9) ]
/-- Does trigger t follow an aperture that is open now (R363)? -/
def trgInAperture (t : Nat) (s : State) : Bool :=
  let cfg := s.rd (TMU.TRG_CFG t)
  Nat.beq (Dict.bitsOf cfg 2 1) 1 && Nat.beq (apState (Dict.bitsOf cfg 7 4) s) 2
/-- ARM: with its aperture open a pulse begins at once. -/
def trgArmEff (t : Nat) (s : State) : State :=
  let s := if trgInAperture t s && s.rd (TMU.TRG_STATE t) != 1 then s.bump 64 (TMU.TRG_FIRED t) else s
  (s.wr (TMU.TRG_STATE t) 1).modTrg t fun _ => {}
/-- DISARM: idle at once. -/
def trgDisarmEff (t : Nat) (s : State) : State := (s.wr (TMU.TRG_STATE t) 0).modTrg t fun _ => {}
/-- TRIGGER_ARM. -/
def execTriggerArm (q : Req) (t : Nat) (s : State) : Out :=
  unitCmd t 16 (command q (TMU.TRG_CTRL t) 1 (trgArmConds t s) (trgArmEff t) s)
/-- TRIGGER_DISARM. -/
def execTriggerDisarm (q : Req) (t : Nat) (s : State) : Out :=
  unitCmd t 16 (command q (TMU.TRG_CTRL t) 2 [] (trgDisarmEff t) s)

/-- The instant of network time u, now or later: from an engine clock edge to the next, time runs on at TMU.INCR from the value of
the first; a step takes effect at its edge alone. -/
def instantOf (u : Nat) (s : State) : Nat :=
  let e := edgeOfTime s s.now u
  max s.now (min e (e - 8192 + (u - netAt s (e - 8192)) * 8192 / max 1 (s.rd TMU.INCR)))

/-- TRIGGER_PULSE: pulse k leaves idle at its time, or is missed when a step carries the time past it (R350, R363). -/
def execTriggerPulse (t : Nat) (s : State) : Out :=
  unitCmd t 16 <|
    if s.rd (TMU.TRG_STATE t) = 1 ∧ Dict.bitsOf (s.rd (TMU.TRG_CFG t)) 2 1 = 0 then
      let k := (s.trgOf t).k
      let u := ofTime128 (s.rd (TMU.TRG_AT t)) + k * s.rd (TMU.TRG_PERIOD t) * unitsPerTick
      let e := edgeOfTime s s.now u
      let last := s.rd (TMU.TRG_COUNT t) = k + 1
      if steppedOver s e u then
        let s := tmuFlag 7 ((s.upto e).bump 64 (TMU.TRG_MISSED t))
        (if last then s.wr (TMU.TRG_STATE t) 2 else s).modTrg t fun x => { x with k := k + 1 }
      else
        let at' := instantOf u s
        let s := (s.upto at').bump 64 (TMU.TRG_FIRED t)
        (if last then s.wr (TMU.TRG_STATE t) 2 else s).modTrg t fun _ => ⟨k + 1, some (at' + s.rd (TMU.TRG_WIDTH t))⟩
    else s

/-- The level TRGOt drives, 0 or 1, once the MPLL has locked (R363). -/
def trgLevel (t : Nat) (s : State) : Nat :=
  let cfg := s.rd (TMU.TRG_CFG t)
  let on := if Nat.beq (Dict.bitsOf cfg 2 1) 1 then
      Nat.beq (s.rd (TMU.TRG_STATE t)) 1 && Nat.beq (apState (Dict.bitsOf cfg 7 4) s) 2
    else match (s.trgOf t).high with | some e => Nat.blt s.now e | none => false
  if mpllLocked s && xor on (cfg.testBit 0) then 1 else 0
/-- What TRGOt drives: nothing, with a weak pull-down, before the MPLL locks (R363; 15 R406). In a test of the TAP its boundary cells
drive it (19 R478). -/
def trgDrive (t : Nat) (s : State) : Option Bool :=
  match pinTest s with
  | some b => if b.trgoEn.testBit t then some (b.trgo.testBit t) else none
  | none => if mpllLocked s then some (Nat.beq (trgLevel t s) 1) else none

/-! Capture inputs (R364). -/

/-- TRGIt is at level high from now on. -/
def setTrgi (t : Nat) (high : Bool) (s : State) : State :=
  let b := s.pins.trgi
  { s with pins := { s.pins with trgi := if high then b ||| 2 ^ t else b - (if b.testBit t then 2 ^ t else 0) } }

/-- An edge taken: its entry is queued, or lost with the queue full. -/
def takeCapture (t stamp : Nat) (rising : Bool) (s : State) : State :=
  let s := s.bump 64 (TMU.CAP_TAKEN t)
  if 16 ≤ (s.capOf t).q.length then tmuFlag 9 (s.bump 64 (TMU.CAP_LOST t))
  else
    let first := (s.capOf t).q.isEmpty
    let s := s.modCap t fun c => { c with q := c.q ++ [(stamp, !rising)] }
    if first then tmuFlag 10 s else s

/-- Does an edge of TRGIt now follow the last by less than 2 ns? -/
def closeEdge (t : Nat) (s : State) : Bool :=
  match (s.capOf t).last with
  | some l => Nat.blt s.now (l + 2 * ticksPerNs)
  | none => false

/-- CAPTURE_EDGE: TRGIt changes level now. An edge less than 2 ns after the last may or may not be taken (log entry 9). -/
def execCaptureEdge (t : Nat) (rising : Bool) (s : State) : Out :=
  unitCmd t 16 <|
    let cfg := s.rd (TMU.CAP_CFG t)
    let stamp := stampAt s s.now
    let close := closeEdge t s
    let take := cfg.testBit (if rising then 0 else 1) && (!(cfg.testBit 2) || apHolds (Dict.bitsOf cfg 7 4) stamp s)
      && !(close && Nat.beq (s.freeVal % 2) 0)
    let s := setTrgi t rising ((if close then s.drawn else s).modCap t fun c => { c with last := some s.now })
    if take then takeCapture t stamp rising s else s

/-- The oldest capture entry as it is read. -/
def capData (t : Nat) (s : State) : Nat :=
  match (s.capOf t).q with
  | e :: _ => toTime128 e.1 + (if e.2 then 2 ^ 128 else 0)
  | [] => 0
/-- Conditions of a read of TMU.CAP_POP. -/
def capConds (t : Nat) (s : State) : List (Bool × Nat) := [((s.capOf t).q.isEmpty, 7)]
/-- The oldest capture entry removed. -/
def capEff (t : Nat) (s : State) : State := s.modCap t fun c => { c with q := c.q.drop 1, popped := c.popped + 1 }
/-- CAP_POP. -/
def execCapPop (q : Req) (t : Nat) (s : State) : Out :=
  unitCmd t 16 (readFrom q (TMU.CAP_POP t) 24 (capData t s) (capConds t s) (capEff t) s)

/-! The start schedule (R365). -/

/-- An entry fires at edge e: its engine's start edge is known, late when a step carried the time past it (R350; 03 R80). -/
def schedStart (e : Nat) (x : Sched) (s : State) : State :=
  if x.dsp then s.modDsp x.n fun d => { d with start := some e }
  else s.modVe x.n fun v => { v with start := some e, late := steppedOver s e x.time }

/-- SCHEDULE_FIRE: the earliest entries fire at the first engine clock edge whose time is at or after theirs. -/
def execScheduleFire (s : State) : Out :=
  .next <|
    match s.sched with
    | [] => s
    | x :: rest =>
      let first := rest.foldl (fun m y => min m y.time) x.time
      let e := edgeOfTime s s.now first
      let s := s.upto e
      let fire := fun y : Sched => Nat.ble y.time (netAt s e)
      (s.sched.filter fire).foldl (fun s y => schedStart e y s) { s with sched := s.sched.filter fun y => !(fire y) }

end Sys2Proof.Machine
end

