-- ==== Sys2Proof/Machine/Dsp.lean ====
section
/-! DEFINITION. DSP engines: instructions, repeats, moves, states, starting and stopping (14_dsp.md R369 to R391). -/
namespace Sys2Proof.Machine

/-- One DSPCLK period in ticks (15 R394). -/
abbrev dspClk : Nat := 10240
/-- The first DSPCLK edge at or after t. -/
def dspEdge (t : Nat) : Nat := edgeAt dspClk t
/-- Mesh address of the instruction memory of engine n (01 R25, R387). -/
def imemBase (n : Nat) : Nat := 0x10300000000 + n * 0x4000
/-- A register of a table of registers. -/
def reg0 (t : Tab Nat) (i : Nat) : Nat := Tab.get (fun _ => 0) t i
/-- As reg0, changed. -/
def setReg (t : Tab Nat) (i v : Nat) : Tab Nat := Tab.set (fun _ => 0) t i v

/-! Validity of an instruction (R372). -/

/-- Bits of an instruction that its class and operation do not use, as fields. -/
def unusedBits (w : Nat) : List (Nat × Nat) :=
  let f := fun hi lo => Dict.bitsOf w hi lo
  let slot := fun hi lo : Nat => if f (hi - 1) (hi - 1) = 1 then [] else [(hi, lo)]
  match f 63 60 with
  | 0 => match f 59 56 with
    | 1 => [(55, 11)]
    | 2 => [(53, 11)]
    | 3 => [(53, 48), (31, 0)]
    | 8 => [(55, 53), (47, 0)]
    | _ => [(55, 0)]
  | 1 =>
    (if f 55 55 = 1 then [(52, 49)] else []) ++ (if f 54 53 = 1 then [(48, 45)] else [])
      ++ (if f 54 53 = 2 then [] else [(44, 43)]) ++ slot 42 31 ++ slot 30 19 ++ [(42, 42), (30, 30), (18, 0)]
  | 2 => match f 59 56 with
    | 1 => [(53, 52), (47, 0)]
    | 2 => [(51, 0)]
    | 4 => [(53, 52), (42, 0)]
    | 5 => [(53, 48), (42, 0)]
    | _ => [(53, 0)]
  | 3 => [(59, 43), (18, 0)] ++ slot 42 31 ++ slot 30 19
  | 4 => [(54, 20)]
  | 5 => match f 59 56 with
    | 0 => [(47, 0)]
    | 1 | 2 => [(43, 0)]
    | _ => if f 43 43 = 1 then [(47, 44), (42, 0)] else [(47, 44), (37, 0)]
  | 6 => [(59, 16)]
  | _ => [(52, 8)]

/-- Is an instruction invalid: a reserved code, or an unused field not zero? -/
def insnBad (w : Nat) : Bool :=
  let f := fun hi lo => Dict.bitsOf w hi lo
  (match f 63 60 with
   | 0 => Nat.ble 9 (f 59 56) || (Nat.beq (f 59 56) 8 && Nat.blt 23 (f 52 48))
   | 1 => Nat.beq (f 59 58) 3 || Nat.beq (f 54 53) 3
   | 2 => Nat.ble 6 (f 59 56)
   | 4 => Nat.beq (f 59 58) 3
   | 5 => Nat.ble 5 (f 59 56) || Nat.blt 23 (f 42 38)
   | c => Nat.ble 8 c)
    || (unusedBits w).any fun p => f p.1 p.2 != 0

/-- Class and operation of an instruction as one number. -/
def insnId (w : Nat) : Nat :=
  let c := Dict.bitsOf w 63 60
  c * 16 + (match c with
    | 1 | 4 => Dict.bitsOf w 59 58
    | 0 | 2 | 5 => Dict.bitsOf w 59 56
    | _ => 0)

/-! Slots (R373). -/

/-- Enabled slots of an instruction of class MAC or MEM: number and bits. -/
def slotsIn (w : Nat) : List (Nat × Nat) :=
  if Dict.bitsOf w 63 60 = 1 ∨ Dict.bitsOf w 63 60 = 3 then
    [(0, Dict.bitsOf w 42 31), (1, Dict.bitsOf w 30 19)].filter fun x => x.2.testBit 10
  else []
/-- Vector register, half, address register and post-modify of a slot. -/
def slotV (x : Nat) : Nat := Dict.bitsOf x 9 6
/-- As slotV. -/
def slotH (x : Nat) : Nat := Dict.bitsOf x 5 5
/-- As slotV. -/
def slotA (x : Nat) : Nat := Dict.bitsOf x 4 2
/-- As slotV. -/
def slotPM (x : Nat) : Nat := x % 4
/-- Mesh address of the word that holds element e of the bank of a. -/
def elemAddr (a : Nat) : Nat := bankBase (bankIn a) + a % 2 ^ 14 / 2 * 8

/-- The port of bank b that engine n uses for slot i, if it owns one. -/
def portFor (n b i : Nat) (s : State) : Option Nat :=
  let own0 := Nat.beq (s.rd (SCR.OWNER b 0)) n
  let own1 := Nat.blt b 8 && Nat.beq (s.rd (SCR.OWNER b 1)) n
  if own0 && own1 then some i else if own0 then some 0 else if own1 then some 1 else none
/-- Has every slot of w a port its engine owns? -/
def slotsOwned (n w : Nat) (s : State) : Bool :=
  (slotsIn w).all fun x => (portFor n (bankIn (reg0 (s.dspOf n).a (slotA x.2))) x.1 s).isSome

/-! Issue (R378 to R380, R385, R386). -/

/-- Instant at which what the instruction reads is ready: registers, and accumulators but for a MAC (R379). -/
def operandsReady (w : Nat) (d : DspRun) : Nat :=
  let f := fun hi lo => Dict.bitsOf w hi lo
  let vs := match f 63 60 with
    | 1 => (if f 55 55 = 0 then [f 52 49] else []) ++ (if f 54 53 = 1 then [] else [f 48 45])
    | 2 => if f 59 56 = 1 then [f 51 48] else []
    | 3 => ((slotsIn w).filter fun x : Nat × Nat => x.2.testBit 11).map fun x : Nat × Nat => slotV x.2
    | 5 => [f 51 48] ++ if f 59 56 = 1 ∨ f 59 56 = 2 then [f 47 44] else []
    | _ => []
  let as' := if f 63 60 = 2 then
      match f 59 56 with
      | 2 => [f 55 54, f 53 52]
      | 3 | 4 | 5 => [f 55 54]
      | _ => []
    else []
  let t := vs.foldl (fun t v => max t (reg0 d.vReady v)) 0
  let t := as'.foldl (fun t a => max t (reg0 d.aReady a)) t
  if (insnId w = 6 ∧ d.moves = []) ∨ insnId w = 112 then max t d.freeAt else t

/-- Does the instruction wait on moves: WAITM with one pending, a fifth MOVE (R378, R382)? -/
def waitsMove (w : Nat) (d : DspRun) : Bool :=
  (Nat.beq (insnId w) 6 && !d.moves.isEmpty) || (Nat.beq (insnId w) 112 && Nat.ble 4 d.moves.length)
/-- The banks that the slots of the instruction reach. -/
def slotBanks (w : Nat) (d : DspRun) : List Nat := (slotsIn w).map fun x => bankIn (reg0 d.a (slotA x.2))
/-- Does a slot of the instruction find its bank BUSY (10 R289)? -/
def slotBusy (w : Nat) (d : DspRun) (s : State) : Bool := (slotBanks w d).any fun b => bankBusy b s
/-- The instant at which engine n issues instruction w: no sooner than the instruction before it allows, than what it reads is
ready, and than BUSY of its banks has ended (R379, 10 R289). -/
def issueAt (n w : Nat) (s : State) : Nat :=
  let d := s.dspOf n
  max d.due (dspEdge ((slotBanks w d).foldl (fun t b => max t (s.bankOf b).freeAt) (operandsReady w d)))

/-- The next instruction of engine n. -/
def nextInsn (n : Nat) (s : State) : Nat := memRead s.mem (imemBase n + 8 * (s.dspOf n).pc) 8

/-- Does the engine wait at its next instruction boundary for moves? -/
def waitsNow (n : Nat) (s : State) : Bool :=
  Nat.blt (s.dspOf n).pc 2048 && !(insnBad (nextInsn n s)) && waitsMove (nextInsn n s) (s.dspOf n)

/-- Does a request or an expiry of instant th take effect at the boundary that comes next (R380)? -/
def landsNow (n : Nat) (th : Option Nat) (s : State) : Bool :=
  match th with
  | some t => (s.dspOf n).rpt.isNone && (Nat.ble t (s.dspOf n).due || waitsNow n s)
  | none => false

/-- DSPCLK clocks from instant t to the edge e (R385). -/
def clocksTo (e t : Nat) : Nat := (e - t + dspClk - 1) / dspClk
/-- The count of the watchdog and the clocks in RUNNING kept as the engine leaves RUNNING at t (R385). -/
def freezeDsp (n t : Nat) (s : State) : State :=
  let d := s.dspOf n
  let s := s.addTo 64 (DSP.CYCLES n) ((t - d.runFrom) / dspClk)
  match d.wdEnd with
  | some e => (s.wr (DSP.WDOG_LEFT n) (clocksTo e t)).modDsp n fun d => { d with wdEnd := none }
  | none => s

/-- Clocks the engine waited. -/
def stalled (n k : Nat) (s : State) : State := s.addTo 64 (DSP.STALLS n) k
/-- The clocks that the engine has waited at its boundary until t are counted. -/
def waited (n t : Nat) (s : State) : State := stalled n ((t - (s.dspOf n).due) / dspClk) s

/-- Engine n stops at instant t in state c: moves not yet issued are discarded, and the gate read under way of one opens no other
(R382, R384, R391). -/
def dspStopAt (n t c : Nat) (s : State) : State :=
  let s := s.upto t
  let s := if s.rd (DSP.STATE n) = 2 then freezeDsp n t s else s
  let lost := (s.dspOf n).moves.filter fun m => Nat.beq m.issued 0
  let gates := (lost.filter fun m => m.polling).map fun m => s.rd (DSP.MGATE n m.k)
  let s := (s.addTo 64 (DSP.MOVE_DROPPED n) lost.length).modDsp n fun d =>
    { d with moves := d.moves.filter fun m => m.issued != 0, stale := d.stale ++ gates, halt := none, stop := none, rpt := none }
  let s := (s.setBit (DSP.FLAGS n) 4 false).setBit (DSP.FLAGS n) 3 false
  ((s.wr (DSP.STATE n) c).modTgt (33 + n) fun g => { g with pend := false, held := false, left := none }).raise (256 + 2 * n)

/-- A fault (R386). -/
def dspFault (n t cause pc : Nat) (s : State) : State :=
  dspStopAt n t 5 ((s.wr (DSP.FAULT n) cause).wr (DSP.FAULT_PC n) pc)
/-- A fault at the boundary that an event of instant e takes effect at, with the clocks waited there (R380, R386). -/
def boundaryFault (n e cause : Nat) (s : State) : State :=
  let d := s.dspOf n
  let t := dspEdge (max d.due e)
  dspFault n t cause d.pc (waited n t s)

/-- A step of debug counts the instruction; its last one latches the halt (19 R491). -/
def dspStepCount (n at' : Nat) (s : State) : State :=
  match (s.tgtOf (33 + n)).left with
  | some 1 => (s.modDsp n fun d => { d with halt := some at' }).modTgt (33 + n) fun g => { g with left := none, pend := true }
  | some k => s.modTgt (33 + n) fun g => { g with left := some (k - 1) }
  | none => s

/-- The instruction issued at t has taken cost clocks; a repeated one is issued again while repetitions remain (R380). -/
def retire (n t cost next : Nat) (s : State) : State :=
  let at' := t + cost * dspClk
  let s := s.modDsp n fun d => { d with due := at' }
  match (s.dspOf n).rpt with
  | some k =>
    let s := s.wr (DSP.RPT_LEFT n) (k - 1)
    if 1 < k then s.modDsp n fun d => { d with rpt := some (k - 1) }
    else dspStepCount n at' ((s.modDsp n fun d => { d with rpt := none, pc := next }).setBit (DSP.FLAGS n) 3 false)
  | none => dspStepCount n at' (s.modDsp n fun d => { d with pc := next })

/-- The engine waits until now. -/
def stallOn (n : Nat) (s : State) : State :=
  let e := dspEdge s.now
  let d := (s.dspOf n).due
  if d < e then (stalled n ((e - d) / dspClk) s).modDsp n fun x => { x with due := e } else s

/-- An instruction command of class and operation id for engine n: the next instruction issues once what it reads is ready,
and act does what it does, given the instruction, its address and its issue; or it faults (R372, R378 to R382). An engine that
debug held is held no longer once it issues (19 R475). -/
def insnCommand (n id : Nat) (act : (w pc t : Nat) → State → State) (s : State) : Out :=
  unitCmd n 32 <|
    let d := s.dspOf n
    let w := nextInsn n s
    if s.rd (DSP.STATE n) ≠ 2 ∨ landsNow n d.halt s = true ∨ landsNow n d.stop s = true ∨ landsNow n d.wdEnd s = true then s
    else if d.moveUe ∧ landsNow n (some d.errAt) s = true then boundaryFault n d.errAt 4 s
    else if d.moveBad ∧ landsNow n (some d.errAt) s = true then boundaryFault n d.errAt 6 s
    else if 2048 ≤ d.pc then dspFault n d.due 7 d.pc s
    else if insnBad w then dspFault n d.due 1 d.pc s
    else if d.rpt.isSome ∧ [0, 6, 7].contains (Dict.bitsOf w 63 60) then dspFault n d.due 2 d.pc s
    else if insnId w ≠ id then s
    else if waitsMove w d ∨ (slotBusy w d s && slotsOwned n w s) = true then stallOn n s
    else
      let t := issueAt n w s
      let s := ((waited n t (s.upto t)).wr (DSP.PC n) d.pc).modTgt (33 + n) fun g => { g with held := false }
      act w d.pc t (brkMatch 4 (33 + n) d.pc 0 0 t s)

/-! Arithmetic (R370, R374 to R377). -/

/-- An element as a signed integer. -/
def elemOf (v : Nat) : Int := toSigned 24 v
/-- Lane l of vector register v of engine n. -/
def vreg (n v l : Nat) (s : State) : Int := elemOf (reg0 (s.dspOf n).v (4 * v + l))
/-- Lane l of accumulator a of engine n. -/
def areg (n a l : Nat) (s : State) : Int := toSigned 56 (reg0 (s.dspOf n).acc (4 * a + l))

/-- Redundant sign count of an element (R377). -/
def signCount (v : Nat) : Nat :=
  ((List.range 23).takeWhile fun i => v.testBit (22 - i) == v.testBit 23).length

/-- An element as r fits: saturated or wrapped under SAT; SOVF (R375). -/
def fitElem (n : Nat) (r : Int) (s : State) : Nat × State :=
  if -(2 ^ 23) ≤ r ∧ r < 2 ^ 23 then (ofSigned 24 r, s)
  else
    (if s.bit (DSP.MODE n) 0 then (if r < 0 then 0x800000 else 0x7FFFFF) else ofSigned 24 r, s.setBit (DSP.FLAGS n) 2 true)
/-- An accumulator value as r fits: clamped or wrapped under ASAT; AOVF (R375). -/
def fitAcc (n : Nat) (r : Int) (s : State) : Nat × State :=
  if -(2 ^ 55) ≤ r ∧ r < 2 ^ 55 then (ofSigned 56 r, s)
  else
    (if s.bit (DSP.MODE n) 1 then (if r < 0 then 2 ^ 55 else 2 ^ 55 - 1) else ofSigned 56 r, s.setBit (DSP.FLAGS n) 1 true)

/-- The four lanes. -/
abbrev lanes4 : List Nat := [0, 1, 2, 3]

/-- Vector register v written lane by lane with r l; block says that BEXP sees the elements (R376, R377). -/
def writeV (n v : Nat) (block : Bool) (r : Nat → Int) (s : State) : State :=
  lanes4.foldl (fun s l =>
    let x := fitElem n (r l) s
    let s := x.2.modDsp n fun d => { d with v := setReg d.v (4 * v + l) x.1 }
    if block then s.wr (DSP.BEXP n) (min (s.rd (DSP.BEXP n)) (signCount x.1)) else s) s

/-- Accumulator a written lane by lane with r l. -/
def writeA (n a : Nat) (r : Nat → Int) (s : State) : State :=
  lanes4.foldl (fun s l =>
    let x := fitAcc n (r l) s
    x.2.modDsp n fun d => { d with acc := setReg d.acc (4 * a + l) x.1 }) s

/-- x / 2^k rounded half up (R375). -/
def halfUp (x : Int) (k : Nat) : Int := if k = 0 then x else (x + 2 ^ (k - 1)) / 2 ^ k

/-! MAC and MEM (R372, R373, R379). -/

/-- What the slots of an instruction do: elements loaded by lane, instant the data arrives, clocks beyond the first, fault. -/
structure SlotRun where
  st : State
  got : List (Nat × Nat) := []
  arrive : Nat
  extra : Nat := 0
  fault : Nat := 0

/-- An element for a store: its sign fills bits [31:24] (R370). -/
def storeHalf (v : Nat) : Nat := ofSigned 32 (elemOf v)

/-- One slot performed at clock tc; ecc is what the check code finds in the word of a load (R373, 10 R286, R288). -/
def runSlot (n t : Nat) (ecc : Ecc) (d0 : DspRun) (x : Nat × Nat) (r : SlotRun) : SlotRun :=
  let a := reg0 d0.a (slotA x.2)
  let b := bankIn a
  let store := x.2.testBit 11
  let p := (portFor n b x.1 r.st).getD 0
  let tc := t + r.extra * dspClk
  let lo := 4 * slotV x.2 + 2 * slotH x.2
  let w := storeHalf (reg0 d0.v lo) + storeHalf (reg0 d0.v (lo + 1)) * 2 ^ 32
  let s := brkMatch 5 (33 + n) a (if store then 1 else 0) 0 t r.st
  let pt := portTake b p (engEdge tc) 0 store (a % 2 ^ 14 / 2) w s
  let mine := pt.1.otherYields && Nat.beq (pt.2.rd (SCR.OWNER b (1 - p))) n
  let extra := r.extra + if pt.1.stall || mine then 1 else 0
  let pt := (pt.1, if pt.1.otherYields && !mine then portStall b (1 - p) pt.2 else pt.2)
  if store then
    { r with st := if pt.1.write then pt.2.store (elemAddr a) 8 w else pt.2, extra := extra }
  else
    let s := match ecc with
      | .ce => scrFlag b 0 (pt.2.bump 64 (SCR.CE b))
      | .ue | .multi => scrFlag b 1 (pt.2.bump 64 (SCR.UE b))
      | .clean => pt.2
    if ecc = .ue ∨ ecc = .multi then { r with st := s, fault := 4, extra := extra }
    else
      let at' := tc + (if scrNode b = dspNode n then 5 else 12) * dspClk
      let e0 := pt.1.seen % 2 ^ 24
      let e1 := pt.1.seen / 2 ^ 32 % 2 ^ 24
      { r with st := s.modDsp n fun d =>
                 { d with v := setReg (setReg d.v lo e0) (lo + 1) e1,
                          vReady := setReg d.vReady (slotV x.2) (max (reg0 d.vReady (slotV x.2)) at') },
               got := r.got ++ [(2 * slotH x.2, e0), (2 * slotH x.2 + 1, e1)], arrive := max r.arrive at', extra := extra }

/-- Address register a after a post-modify (R371, R373). -/
def postModify (pm a o : Nat) : Nat :=
  let e := match pm with
    | 1 => a + 2
    | 2 => a + o
    | 3 => a + 2 ^ 20 - o
    | _ => a
  a / 2 ^ 14 * 2 ^ 14 + e % 2 ^ 14

/-- What the check code finds in the word that slot i loads. -/
def eccOf (ecc : List Ecc) (i : Nat) : Ecc := ecc.getD i .clean

/-- A register that a load of the instruction could not write keeps all it held (R386). -/
def keepReg (n : Nat) (d0 : DspRun) (x : Nat × Nat) (ecc : Ecc) (s : State) : State :=
  if x.2.testBit 11 = false ∧ (ecc = .ue ∨ ecc = .multi) then
    s.modDsp n fun d =>
      { d with v := lanes4.foldl (fun t l => setReg t (4 * slotV x.2 + l) (reg0 d0.v (4 * slotV x.2 + l))) d.v,
               vReady := setReg d.vReady (slotV x.2) (reg0 d0.vReady (slotV x.2)) }
  else s
/-- The slots of instruction w performed at issue t, then the post-modifies. Two loads of one lane of one register, and two
post-modifies of one address register, leave it free (log entry 9). -/
def runSlots (n t w : Nat) (ecc : List Ecc) (s : State) : SlotRun :=
  let d0 := s.dspOf n
  match slotsIn w with
  | [] => { st := s, arrive := t }
  | [x] =>
    let r := runSlot n t (eccOf ecc x.1) d0 x { st := s, arrive := t }
    { r with st := r.st.modDsp n fun d => { d with a := setReg d.a (slotA x.2) (postModify (slotPM x.2) (reg0 d0.a (slotA x.2)) (reg0 d0.o (slotA x.2))) } }
  | x :: y :: _ =>
    let bx := bankIn (reg0 d0.a (slotA x.2))
    let by' := bankIn (reg0 d0.a (slotA y.2))
    let same := Nat.beq bx by' && portFor n bx 0 s == portFor n by' 1 s
    let r := runSlot n t (eccOf ecc x.1) d0 x { st := s, arrive := t }
    let r := { r with extra := r.extra + if same then 1 else 0 }
    let r := runSlot n t (eccOf ecc y.1) d0 y r
    let pm := fun (z : Nat × Nat) (s : State) => s.modDsp n fun d =>
      { d with a := setReg d.a (slotA z.2) (postModify (slotPM z.2) (reg0 d0.a (slotA z.2)) (reg0 d0.o (slotA z.2))) }
    let s := pm y (pm x r.st)
    let s := if slotA x.2 = slotA y.2 then
        if slotPM y.2 = 0 then pm x s
        else if slotPM x.2 = 0 then s
        else
          let a := reg0 d0.a (slotA x.2)
          (s.modDsp n fun d => { d with a := setReg d.a (slotA x.2) (a / 2 ^ 14 * 2 ^ 14 + s.freeVal % 2 ^ 14) }).drawn
      else s
    if r.fault ≠ 0 then
      { r with st := keepReg n d0 y (eccOf ecc y.1) (keepReg n d0 x (eccOf ecc x.1) s) }
    else if !(x.2.testBit 11) && !(y.2.testBit 11) && Nat.beq (slotH x.2) (slotH y.2) then
      let lo := 4 * slotV x.2 + 2 * slotH x.2
      let f0 := Config.free s.freeCtr % 2 ^ 24
      let f1 := Config.free (s.freeCtr + 1) % 2 ^ 24
      let s' := if slotV x.2 = slotV y.2 then
          s.modDsp n fun d => { d with v := setReg (setReg d.v lo f0) (lo + 1) f1 }
        else s
      { r with st := s'.drawn.drawn, got := [(2 * slotH x.2, f0), (2 * slotH x.2 + 1, f1)] }
    else { r with st := s }

/-- Element l of the four that load slots return; one that none returns is free (log entry 9). -/
def gotLane (got : List (Nat × Nat)) (l : Nat) (s : State) : Nat :=
  match got.find? fun e => Nat.beq e.1 l with
  | some e => e.2
  | none => Config.free (s.freeCtr + l) % 2 ^ 24

/-- A MAC instruction: f of the accumulator and the product enters it (R372, R375, R379). -/
def macAct (n : Nat) (ecc : List Ecc) (f : Int → Int → Int) (w pc t : Nat) (s : State) : State :=
  if slotsOwned n w s = false then dspFault n t 3 pc s
  else
    let b := fun hi lo => Dict.bitsOf w hi lo
    let a := b 57 56
    let r := runSlots n t w ecc s
    if r.fault ≠ 0 then dspFault n t r.fault pc r.st
    else
      let x := fun l => if b 55 55 = 1 then elemOf (gotLane r.got l r.st) else vreg n (b 52 49) l s
      let y := fun l => match b 54 53 with
        | 1 => x l
        | 2 => vreg n (b 48 45) (b 44 43) s
        | _ => vreg n (b 48 45) l s
      let free := b 55 55 = 1 ∧ r.got.length < 4
      let st := writeA n a (fun l => f (areg n a l s) (x l * y l * 2)) r.st
      let st := if free then { st with freeCtr := st.freeCtr + 4 } else st
      let st := st.modDsp n fun d =>
        { d with aReady := setReg d.aReady a (max (reg0 d.aReady a) ((if b 55 55 = 1 then r.arrive else t) + 3 * dspClk)) }
      retire n t (1 + r.extra) (pc + 1) (stalled n r.extra st)

/-- MPY: ACC := x * y. -/
def execMpy (n : Nat) (ecc : List Ecc) (s : State) : Out := insnCommand n 0x10 (macAct n ecc fun _ p => p) s
/-- MAC: ACC := ACC + x * y. -/
def execMac (n : Nat) (ecc : List Ecc) (s : State) : Out := insnCommand n 0x11 (macAct n ecc fun a p => a + p) s
/-- MSU: ACC := ACC - x * y. -/
def execMsu (n : Nat) (ecc : List Ecc) (s : State) : Out := insnCommand n 0x12 (macAct n ecc fun a p => a - p) s

/-- MEM: its slots. -/
def execMem (n : Nat) (ecc : List Ecc) (s : State) : Out :=
  insnCommand n 0x30 (fun w pc t s =>
    if slotsOwned n w s = false then dspFault n t 3 pc s
    else
      let r := runSlots n t w ecc s
      if r.fault ≠ 0 then dspFault n t r.fault pc r.st
      else retire n t (1 + r.extra) (pc + 1) (stalled n r.extra r.st)) s

/-! ACC (R374). -/

/-- An ACC operation: what enters accumulator A of each lane. -/
def accAct (n : Nat) (f : (w : Nat) → (l : Nat) → State → Int) (w pc t : Nat) (s : State) : State :=
  let a := Dict.bitsOf w 55 54
  retire n t 1 (pc + 1) ((writeA n a (fun l => f w l s) s).modDsp n fun d => { d with aReady := setReg d.aReady a 0 })

/-- CLR. -/
def execAccClr (n : Nat) (s : State) : Out := insnCommand n 0x20 (accAct n fun _ _ _ => 0) s
/-- LDA. -/
def execAccLda (n : Nat) (s : State) : Out :=
  insnCommand n 0x21 (accAct n fun w l s => vreg n (Dict.bitsOf w 51 48) l s * 2 ^ 24) s
/-- ADDA. -/
def execAccAdda (n : Nat) (s : State) : Out :=
  insnCommand n 0x22 (accAct n fun w l s => areg n (Dict.bitsOf w 55 54) l s + areg n (Dict.bitsOf w 53 52) l s) s
/-- SUML. -/
def execAccSuml (n : Nat) (s : State) : Out :=
  insnCommand n 0x23 (accAct n fun w l s =>
    let a := Dict.bitsOf w 55 54
    if l = 0 then areg n a 0 s + areg n a 1 s + areg n a 2 s + areg n a 3 s else 0) s
/-- SHRA. -/
def execAccShra (n : Nat) (s : State) : Out :=
  insnCommand n 0x25 (accAct n fun w l s => halfUp (areg n (Dict.bitsOf w 55 54) l s) (Dict.bitsOf w 47 43)) s
/-- STR (R375). -/
def execAccStr (n : Nat) (s : State) : Out :=
  insnCommand n 0x24 (fun w pc t s =>
    let v := Dict.bitsOf w 51 48
    let s' := writeV n v true (fun l => halfUp (areg n (Dict.bitsOf w 55 54) l s) (24 + Dict.bitsOf w 47 43)) s
    retire n t 1 (pc + 1) (s'.modDsp n fun d => { d with vReady := setReg d.vReady v 0 })) s

/-! ADDR (R371, R372). -/

/-- An ADDR operation on register N with the immediate. -/
def addrAct (n : Nat) (f : (k imm : Nat) → DspRun → DspRun) (w pc t : Nat) (s : State) : State :=
  retire n t 1 (pc + 1) (s.modDsp n (f (Dict.bitsOf w 57 55) (w % 2 ^ 20)))
/-- SETA. -/
def execSeta (n : Nat) (s : State) : Out := insnCommand n 0x40 (addrAct n fun k imm d => { d with a := setReg d.a k imm }) s
/-- SETO. -/
def execSeto (n : Nat) (s : State) : Out := insnCommand n 0x41 (addrAct n fun k imm d => { d with o := setReg d.o k imm }) s
/-- INCA. -/
def execInca (n : Nat) (s : State) : Out :=
  insnCommand n 0x42 (addrAct n fun k imm d => { d with a := setReg d.a k (postModify 2 (reg0 d.a k) imm) }) s

/-! VEC (R376). -/

/-- A VEC operation; block says that BEXP sees its result. -/
def vecAct (n : Nat) (block : Bool) (f : (w l : Nat) → State → Int) (w pc t : Nat) (s : State) : State :=
  let v := Dict.bitsOf w 55 52
  retire n t 1 (pc + 1) ((writeV n v block (fun l => f w l s) s).modDsp n fun d => { d with vReady := setReg d.vReady v 0 })
/-- VA of lane l. -/
def vecA (n w l : Nat) (s : State) : Int := vreg n (Dict.bitsOf w 51 48) l s
/-- VB of lane l. -/
def vecB (n w l : Nat) (s : State) : Int := vreg n (Dict.bitsOf w 47 44) l s
/-- Shift count: field S or register BSH. -/
def vecShift (n w : Nat) (s : State) : Nat := if w.testBit 43 then (s.dspOf n).bsh else Dict.bitsOf w 42 38
/-- VMOV. -/
def execVmov (n : Nat) (s : State) : Out := insnCommand n 0x50 (vecAct n false fun w l s => vecA n w l s) s
/-- VADD. -/
def execVadd (n : Nat) (s : State) : Out := insnCommand n 0x51 (vecAct n true fun w l s => vecA n w l s + vecB n w l s) s
/-- VSUB. -/
def execVsub (n : Nat) (s : State) : Out := insnCommand n 0x52 (vecAct n true fun w l s => vecA n w l s - vecB n w l s) s
/-- VSHL. -/
def execVshl (n : Nat) (s : State) : Out := insnCommand n 0x53 (vecAct n true fun w l s => vecA n w l s * 2 ^ vecShift n w s) s
/-- VSHR. -/
def execVshr (n : Nat) (s : State) : Out := insnCommand n 0x54 (vecAct n true fun w l s => halfUp (vecA n w l s) (vecShift n w s)) s

/-! CTRL and RPT (R377, R378, R380). -/

/-- NOP. -/
def execDspNop (n : Nat) (s : State) : Out := insnCommand n 0 (fun _ pc t s => retire n t 1 (pc + 1) s) s
/-- JMP: 3 clocks. -/
def execDspJmp (n : Nat) (s : State) : Out := insnCommand n 1 (fun w _ t s => retire n t 3 (w % 2048) s) s
/-- DJNZ: 3 clocks if taken. -/
def execDjnz (n : Nat) (s : State) : Out :=
  insnCommand n 2 (fun w pc t s =>
    let k := Dict.bitsOf w 55 54
    let v := (reg0 (s.dspOf n).c k + 65535) % 65536
    let s := s.modDsp n fun d => { d with c := setReg d.c k v }
    if v = 0 then retire n t 1 (pc + 1) s else retire n t 3 (w % 2048) s) s
/-- LDC. -/
def execDspLdc (n : Nat) (s : State) : Out :=
  insnCommand n 3 (fun w pc t s =>
    retire n t 1 (pc + 1) (s.modDsp n fun d => { d with c := setReg d.c (Dict.bitsOf w 55 54) (Dict.bitsOf w 47 32) })) s
/-- EVT. -/
def execDspEvt (n : Nat) (s : State) : Out :=
  insnCommand n 4 (fun _ pc t s => retire n t 1 (pc + 1) ((s.bump 32 (DSP.EVENTS n)).raise (257 + 2 * n))) s
/-- HALT: DONE once what has issued completes. -/
def execDspHaltInsn (n : Nat) (s : State) : Out :=
  insnCommand n 5 (fun _ _ t s =>
    let d := s.dspOf n
    dspStopAt n ((d.vReady ++ d.aReady).foldl (fun m e => max m e.2) (t + dspClk)) 4 s) s
/-- WAITM: no move is pending. -/
def execWaitm (n : Nat) (s : State) : Out := insnCommand n 6 (fun _ pc t s => retire n t 1 (pc + 1) s) s
/-- BCLR. -/
def execBclr (n : Nat) (s : State) : Out := insnCommand n 7 (fun _ pc t s => retire n t 1 (pc + 1) (s.wr (DSP.BEXP n) 23)) s
/-- BLK: EXPACC, a count of 16 signed bits, saturates (00 R536). -/
def execBlk (n : Nat) (s : State) : Out :=
  insnCommand n 8 (fun w pc t s =>
    let b := s.rd (DSP.BEXP n) - Dict.bitsOf w 52 48
    let e := toSigned 32 (s.rd (DSP.EXPACC n)) + b
    let s := (s.wr (DSP.BEXP n) 23).modDsp n fun d => { d with bsh := b }
    retire n t 1 (pc + 1) (s.wr (DSP.EXPACC n) (ofSigned 32 (min e 32767)))) s
/-- RPT: the next instruction issues N + 1 times. -/
def execDspRpt (n : Nat) (s : State) : Out :=
  insnCommand n 0x60 (fun w pc t s =>
    ((s.wr (DSP.RPT_LEFT n) (w % 65536 + 1)).setBit (DSP.FLAGS n) 3 true).modDsp n fun d =>
      { d with rpt := some (w % 65536 + 1), pc := pc + 1, due := t + dspClk }) s

/-! Moves (R381, R382). -/

/-- A request of the block mover sent and counted. -/
def moveSend (n : Nat) (r : MeshReq) (s : State) : State :=
  meshSend r ((s.bump 64 (DSP.MOVE_ISSUED n)).bump 16 (DSP.MOVE_INFLIGHT n))

/-- The port of bank b that the moves of engine n use: in a hand-over that of the old owner too (10 R290). -/
def movePort (n b : Nat) (s : State) : Option Nat :=
  match (s.bankOf b).leaving with
  | some (p, v) => if v = n then some p else portFor n b 0 s
  | none => portFor n b 0 s
/-- The mover reads or writes word `word` of the move's bank in the next clock that the slots leave idle (R381, 10 R285, R288). -/
def moverTake (n b : Nat) (wr : Bool) (word v : Nat) (s : State) : PortTake × State :=
  let p := (movePort n b s).getD 0
  let pt := portTake b p (moverClock b p (engEdge s.now) s) 1 wr word v s
  (pt.1, if pt.1.otherYields then portStall b (1 - p) pt.2 else pt.2)

/-- The next request of a move that has issued m.issued bytes, without the data of an outbound one. -/
def moveReq (n : Nat) (m : Mv) (s : State) : MeshReq :=
  let wrap := s.rd (DSP.MWRAP n m.k)
  let pos := s.rd (DSP.MCOUNT n m.k) + m.issued
  let off := if wrap = 0 then pos else pos % wrap
  let a := s.rd (DSP.MBASE n m.k) + off
  let left := 8 * m.len - m.issued
  let c := chunkLen a (if wrap = 0 then left else min left (wrap - off))
  ⟨if m.out then .write else .read, .dspMove n m.k, dspNode n, 3, a, c, 0⟩

/-- The head move of an engine changed. -/
def modHead (n : Nat) (f : Mv → Mv) (s : State) : State :=
  s.modDsp n fun d => { d with moves := match d.moves with | m :: r => f m :: r | [] => [] }

/-- An error of a move, which faults the engine at its next boundary (R382, R386): its first instant counts. -/
def moveErr (n : Nat) (ue : Bool) (s : State) : State :=
  s.modDsp n fun d =>
    { d with errAt := if d.moveUe || d.moveBad then d.errAt else s.now, moveUe := d.moveUe || ue, moveBad := d.moveBad || !ue }
/-- The word of the bank where byte k of a move lies. -/
def moveWordNo (m : Mv) (k : Nat) : Nat := (m.elem % 2 ^ 14 / 2 + k / 8) % 8192
/-- Word i that an outbound move reads from scratch, as its check code leaves it: a word corrected is counted, one with an error
it cannot correct is free and faults the engine at its next boundary (10 R286, R386; log entry 50). -/
def moveWord (n : Nat) (m : Mv) (x : MeshReq × State) (i : Nat) : MeshReq × State :=
  let b := bankIn m.elem
  let pt := moverTake n b false (moveWordNo m (m.issued + 8 * i)) 0 x.2
  let put := fun v : Nat => { x.1 with data := x.1.data + v * 2 ^ (64 * i) }
  match m.ecc.getD (m.issued / 8 + i) .clean with
  | .clean => (put pt.1.seen, pt.2)
  | .ce => (put pt.1.seen, scrFlag b 0 (pt.2.bump 64 (SCR.CE b)))
  | _ => (put (pt.2.freeVal % 2 ^ 64), moveErr n true (scrFlag b 1 (pt.2.drawn.bump 64 (SCR.UE b))))
/-- The next request of the head move m, with what reading its words brings about. -/
def moveNext (n : Nat) (m : Mv) (s : State) : MeshReq × State :=
  let r := moveReq n m s
  if m.out then (List.range (r.len / 8)).foldl (moveWord n m) (r, s) else (r, s)

/-- A move whose port was lost ends without its count or address register rising, once nothing of it is under way. -/
def dropLost (n : Nat) (s : State) : State :=
  match (s.dspOf n).moves with
  | m :: rest => if m.lost && m.wait.isEmpty then s.modDsp n fun d => { d with moves := rest, freeAt := s.now } else s
  | [] => s
/-- The head move finds its port lost: its access is not performed, and the engine faults (10 R290, R386; log entry 50). -/
def moveLost (n : Nat) (s : State) : State :=
  match (s.dspOf n).moves with
  | m :: _ =>
    dropLost n (if m.lost then s else dspFault n s.now 3 (s.dspOf n).pc (modHead n (fun m => { m with lost := true }) s))
  | [] => s
/-- Has engine n no port to the bank of the move any more? -/
def portGone (n : Nat) (m : Mv) (s : State) : Bool := m.lost || (movePort n (bankIn m.elem) s).isNone

/-- Up to k requests of the head move issued, 16 in flight at most; an outbound one waits while BUSY holds (10 R289). -/
def moveIssue (n : Nat) : Nat → State → State
  | 0, s => s
  | k + 1, s =>
    match (s.dspOf n).moves with
    | m :: _ =>
      if m.issued < 8 * m.len ∧ s.rd (DSP.MOVE_INFLIGHT n) < 16 then
        if portGone n m s then moveLost n s
        else if m.out && bankBusy (bankIn m.elem) s then s
        else
          let r := moveNext n m s
          moveIssue n k (moveSend n r.1
            (modHead n (fun m => { m with issued := m.issued + r.1.len, wait := m.wait ++ [(r.1, m.issued)] }) r.2))
      else s
    | [] => s

/-- The head move goes on: it waits at its gate, or its requests issue; its element is that of its address register as its first
request issues. Once the engine has stopped only a move begun goes on. -/
def movePump (n : Nat) (s : State) : State :=
  match (s.dspOf n).moves with
  | m :: _ =>
    if !m.out && s.rd (DSP.MGATE n m.k) != 0 && !m.open' then s.setBit (DSP.FLAGS n) 4 true
    else
      let s := s.setBit (DSP.FLAGS n) 4 false
      if m.issued = 0 ∧ dspStopped n s = true then s
      else moveIssue n 16 (if m.issued = 0 then modHead n (fun m => { m with elem := reg0 (s.dspOf n).a m.areg }) s else s)
  | [] => s.setBit (DSP.FLAGS n) 4 false

/-- A move becomes pending, at most 4. A bank without an owned port faults (R386). ecc is what the check code will find in the scratch
words it reads. -/
def moveInsn (n : Nat) (ecc : List Ecc) (s : State) : Out :=
  insnCommand n 0x70 (fun w pc t s =>
    let a := reg0 (s.dspOf n).a (Dict.bitsOf w 55 53)
    if (portFor n (bankIn a) 0 s).isNone then dspFault n t 3 pc s
    else
      let m : Mv := { k := Dict.bitsOf w 58 56, out := w.testBit 59, areg := Dict.bitsOf w 55 53, elem := a, len := w % 256 + 1, ecc := ecc }
      let first := (s.dspOf n).moves.isEmpty
      let s := s.modDsp n fun d => { d with moves := d.moves ++ [m] }
      retire n t 1 (pc + 1) (if first then movePump n s else s)) s
/-- MOVE. -/
def execMove (x : DspMove) (s : State) : Out := moveInsn x.n x.ecc s

/-- MOVE_GATE_POLL: the value at MGATE is read, every 1 us. -/
def execMoveGatePoll (n : Nat) (s : State) : Out :=
  unitCmd n 32 <|
    match (s.dspOf n).moves with
    | m :: _ =>
      if m.out = false ∧ s.rd (DSP.MGATE n m.k) ≠ 0 ∧ m.open' = false ∧ m.polling = false ∧ s.rd (DSP.MOVE_INFLIGHT n) < 16 then
        let s := match m.polled with | some t => s.upto (t + ticksPerUs) | none => s
        moveSend n ⟨.read, .dspMove n 8, dspNode n, 3, s.rd (DSP.MGATE n m.k), 8, 0⟩
          (modHead n (fun m => { m with polling := true, polled := some s.now }) s)
      else s
    | [] => s

/-- A move request, gate read or note write answered: counted, an error faults the engine at its next boundary (R382). -/
def moveAnswered (n : Nat) (x : MeshResp) (s : State) : State :=
  let s := s.wr (DSP.MOVE_INFLIGHT n) (s.rd (DSP.MOVE_INFLIGHT n) - 1)
  if x.kind = 2 then moveErr n false (s.bump 64 (DSP.MOVE_ERR n)) else s.bump 64 (DSP.MOVE_DONE n)

/-- A gate read answered; one of a move discarded since is counted alone (R382). -/
def gateDone (n : Nat) (x : MeshResp) (s : State) : State :=
  let s := moveAnswered n x s
  match (s.dspOf n).moves with
  | m :: _ =>
    if (s.dspOf n).stale.contains x.req.addr then s.modDsp n fun d => { d with stale := d.stale.erase x.req.addr }
    else if m.polling = false then s
    else
    let pass := x.kind = 0 ∧ s.rd (DSP.MCOUNT n m.k) + 8 * m.len ≤ x.data
    let s := modHead n (fun m => { m with polling := false, open' := m.open' || decide pass }) s
    if pass then movePump n s else s
  | [] => s.modDsp n fun d => { d with stale := d.stale.erase x.req.addr }

/-- Word i of the data of an inbound move's request, whose bytes begin at byte k of the move, enters scratch. -/
def moveStore (n : Nat) (m : Mv) (k data : Nat) (s : State) (i : Nat) : State :=
  let b := bankIn m.elem
  let v := data / 2 ^ (64 * i) % 2 ^ 64
  let pt := moverTake n b true (moveWordNo m (k + 8 * i)) v s
  if pt.1.write then pt.2.store (wordAddr b (moveWordNo m (k + 8 * i))) 8 v else pt.2
/-- A move request answered: the data of a read enters the scratch bank, within which addresses wrap. -/
def moveDone (n : Nat) (x : MeshResp) (s : State) : State :=
  let s := moveAnswered n x s
  match (s.dspOf n).moves with
  | m :: _ =>
    match m.wait.find? fun e => decide (e.1 = x.req) with
    | some e =>
      let gone := !m.out && portGone n m s
      let s := if m.out ∨ x.kind ≠ 0 ∨ gone = true then s else (List.range (x.req.len / 8)).foldl (moveStore n m e.2 x.data) s
      let s := modHead n (fun m => { m with wait := m.wait.erase e, done := m.done + x.req.len }) s
      if gone then moveLost n s else movePump n s
    | none => s
  | [] => s

/-- MOVE_COMPLETE: every request of the head move is answered; the count and the address register rise, and the note is
posted (R381). -/
def execMoveComplete (n : Nat) (s : State) : Out :=
  unitCmd n 32 <|
    match (s.dspOf n).moves with
    | m :: rest =>
      if m.issued = 8 * m.len ∧ m.wait = [] ∧ m.lost = false then
        let c := min (s.rd (DSP.MCOUNT n m.k) + 8 * m.len) (2 ^ 64 - 1)
        let s := (s.wr (DSP.MCOUNT n m.k) c).modDsp n fun d =>
          { d with moves := rest, freeAt := s.now, a := setReg d.a m.areg (postModify 2 (reg0 d.a m.areg) (2 * m.len)) }
        let note := s.rd (DSP.MNOTE n m.k)
        movePump n (if note = 0 then s else moveSend n ⟨.write, .dspNote n m.k, dspNode n, 3, note, 8, c⟩ s)
      else s
    | [] => s

/-! Commands (R384, R385, R388). -/

/-- The engine is in none of these states. -/
def dspNotIn (l : List Nat) (n : Nat) (s : State) : Bool × Nat := (!(l.contains (s.rd (DSP.STATE n))), 9)
/-- Conditions of START. -/
def dspStartConds (n : Nat) (s : State) : List (Bool × Nat) :=
  [ dspNotIn [0, 4, 5] n s,
    ((List.range 64).any fun b => s.bit (DSP.BANKS n) b && (portFor n b 0 s).isNone, 7), (s.bit HDI.RETIRE_DSP n, 9) ]
/-- START: ARMED. -/
def dspStartEff (n : Nat) (s : State) : State :=
  (s.modDsp n fun d => { d with prior := s.rd (DSP.STATE n), armAt := s.now, timed := false, start := none, halt := none, stop := none }).wr
    (DSP.STATE n) 1
/-- Conditions of START_AT. -/
def dspStartAtConds (n : Nat) (s : State) : List (Bool × Nat) :=
  dspStartConds n s ++
    [ (!(timeValid s), 7), (decide (ofTime128 (s.rd (DSP.START_AT n)) < netNow s + 10000 * unitsPerNs), 4),
      (Nat.ble 32 s.sched.length, 8) ]
/-- START_AT: ARMED with an entry of the start schedule. -/
def dspStartAtEff (n : Nat) (s : State) : State :=
  let s := (dspStartEff n s).modDsp n fun d => { d with timed := true }
  { s with sched := s.sched ++ [⟨true, n, ofTime128 (s.rd (DSP.START_AT n))⟩] }
/-- STOP: from ARMED the state held before, else at the boundary. -/
def dspStopEff (n : Nat) (s : State) : State :=
  if s.rd (DSP.STATE n) = 1 then (schedFree true n s).wr (DSP.STATE n) (s.dspOf n).prior
  else s.modDsp n fun d => { d with stop := earlier d.stop s.now }
/-- HALT. -/
def dspHaltEff (n : Nat) (s : State) : State := s.modDsp n fun d => { d with halt := earlier d.halt s.now }
/-- The engine goes on from HALTED: the watchdog runs on from at least 65,536 clocks (R385). -/
def dspGoOn (n : Nat) (s : State) : State :=
  (s.wr (DSP.STATE n) 2).modDsp n fun d =>
    { d with due := max d.due (dspEdge s.now), runFrom := dspEdge s.now,
             wdEnd := if s.rd (DSP.WDOG n) = 0 then none else some (dspEdge s.now + max (s.rd (DSP.WDOG_LEFT n)) 65536 * dspClk) }
/-- RESUME. -/
def dspResumeEff (n : Nat) (s : State) : State := (dspGoOn n s).modTgt (33 + n) fun g => { g with held := false, left := none }
/-- SELFCHECK: CHECKING. -/
def dspSelfcheckEff (n : Nat) (s : State) : State :=
  (s.modDsp n fun d => { d with prior := s.rd (DSP.STATE n) }).wr (DSP.STATE n) 6

/-- DSP_START. -/
def execDspStart (q : Req) (n : Nat) (s : State) : Out :=
  unitCmd n 32 (command q (DSP.CTRL n) 1 (dspStartConds n s) (dspStartEff n) s)
/-- DSP_START_AT. -/
def execDspStartAt (q : Req) (n : Nat) (s : State) : Out :=
  unitCmd n 32 (command q (DSP.CTRL n) 2 (dspStartAtConds n s) (dspStartAtEff n) s)
/-- DSP_STOP. -/
def execDspStop (q : Req) (n : Nat) (s : State) : Out :=
  unitCmd n 32 (command q (DSP.CTRL n) 3 [dspNotIn [1, 2, 3] n s] (dspStopEff n) s)
/-- DSP_HALT. -/
def execDspHalt (q : Req) (n : Nat) (s : State) : Out :=
  unitCmd n 32 (command q (DSP.CTRL n) 4 [dspNotIn [2] n s] (dspHaltEff n) s)
/-- DSP_RESUME. -/
def execDspResume (q : Req) (n : Nat) (s : State) : Out :=
  unitCmd n 32 (command q (DSP.CTRL n) 5 [dspNotIn [3] n s] (dspResumeEff n) s)
/-- DSP_SELFCHECK. -/
def execDspSelfcheck (q : Req) (n : Nat) (s : State) : Out :=
  unitCmd n 32 (command q (DSP.CTRL n) 6 [dspNotIn [0, 4, 5] n s] (dspSelfcheckEff n) s)

/-- DSP_SELFCHECK_END: the result, vector registers and accumulators 0 (R388). -/
def execDspSelfcheckEnd (n : Nat) (pass : Bool) (s : State) : Out :=
  unitCmd n 32 <|
    if s.rd (DSP.STATE n) = 6 then
      (((s.wr (DSP.STATE n) (s.dspOf n).prior).wr (DSP.SELFCHECK n) (if pass then 1 else 2)).modDsp n fun d =>
        { d with v := [], acc := [], stop := none }).raise (257 + 2 * n)
    else s

/-- DSP_START_EDGE: the ARMED engine starts at S (R384, R385). -/
def execDspStartEdge (n : Nat) (s : State) : Out :=
  unitCmd n 32 <|
    let d := s.dspOf n
    if s.rd (DSP.STATE n) = 1 ∧ (d.timed = false ∨ d.start.isSome) then
      let e := if d.timed then d.start.getD 0 else engEdge (d.armAt + ticksPerUs)
      let s := s.upto e
      let s := (((((s.wr (DSP.FLAGS n) 0).wr (DSP.CYCLES n) 0).wr (DSP.RPT_LEFT n) 0).wr (DSP.EXPACC n) 0).wr (DSP.BEXP n) 23).wr
        (DSP.WDOG_LEFT n) (s.rd (DSP.WDOG n))
      ((s.modDsp n fun d =>
        { d with bsh := 0, c := [], pc := s.rd (DSP.ENTRY n), due := dspEdge (e + 20 * ticksPerNs), rpt := none, moveBad := false, moveUe := false,
                 runFrom := dspEdge e, start := none, timed := false, halt := none, stop := none,
                 wdEnd := if s.rd (DSP.WDOG n) = 0 then none else some (dspEdge e + s.rd (DSP.WDOG n) * dspClk) }).wr (DSP.STATE n) 2).raise
        (257 + 2 * n)
    else s

/-! Boundaries (R380, R385). -/

/-- What a request of instant th brings about at its boundary: a fault that falls on it comes first, then a STOP. -/
def dspLand (n th : Nat) (halt : Bool) (s : State) : State :=
  let d := s.dspOf n
  let t := dspEdge (max d.due th)
  let s := waited n t s
  if d.moveUe && Nat.ble d.errAt t then dspFault n t 4 d.pc s
  else if d.moveBad && Nat.ble d.errAt t then dspFault n t 6 d.pc s
  else if (match d.wdEnd with | some e => Nat.ble e t | none => false) then dspFault n t 5 d.pc s
  else if halt && !(match d.stop with | some x => Nat.ble x t | none => false) then
    let dbg := (s.tgtOf (33 + n)).pend
    let s := ((freezeDsp n t (s.upto t)).wr (DSP.STATE n) 3).modDsp n fun d => { d with halt := none, due := t }
    let s := s.raise (257 + 2 * n)
    if dbg then (s.modTgt (33 + n) fun g => { g with pend := false, held := true }).flag DBG.EVFLAGS 1 497 else s
  else dspStopAt n t 4 s

/-- DSP_HALT_LANDS: HALTED at the boundary of R380. -/
def execDspHaltLands (n : Nat) (s : State) : Out :=
  unitCmd n 32 <|
    if s.rd (DSP.STATE n) = 2 ∧ landsNow n (s.dspOf n).halt s = true then dspLand n ((s.dspOf n).halt.getD 0) true s else s

/-- DSP_STOP_LANDS: DONE at the boundary of R380; from HALTED at once. -/
def execDspStopLands (n : Nat) (s : State) : Out :=
  unitCmd n 32 <|
    if s.rd (DSP.STATE n) = 3 ∧ (s.dspOf n).stop.isSome = true then dspStopAt n s.now 4 s
    else if s.rd (DSP.STATE n) = 2 ∧ landsNow n (s.dspOf n).stop s = true then dspLand n ((s.dspOf n).stop.getD 0) false s
    else s

/-- DSP_WATCHDOG_EXPIRY: the count has reached zero; the engine faults at the boundary (R385). -/
def execDspWatchdogExpiry (n : Nat) (s : State) : Out :=
  unitCmd n 32 <|
    if s.rd (DSP.STATE n) = 2 ∧ landsNow n (s.dspOf n).wdEnd s = true then
      boundaryFault n ((s.dspOf n).wdEnd.getD 0) 5 s
    else s

/-- DSP.WDOG_LEFT as it reads: while it counts, the DSPCLK clocks left. -/
def wdogLeft (n : Nat) (s : State) : Nat :=
  match (s.dspOf n).wdEnd with
  | some e => clocksTo e (max s.now (s.dspOf n).runFrom)
  | none => s.rd (DSP.WDOG_LEFT n)
/-- DSP.CYCLES as it reads. -/
def dspCycles (n : Nat) (s : State) : Nat :=
  if s.rd (DSP.STATE n) = 2 then min (s.rd (DSP.CYCLES n) + (s.now - (s.dspOf n).runFrom) / dspClk) (2 ^ 64 - 1) else s.rd (DSP.CYCLES n)

end Sys2Proof.Machine
end

