-- ==== Sys2Proof/Machine/Crh.lean ====
section
/-! DEFINITION. Clocks, gates, power domains, resets, temperature and rails (15_clocks_reset.md R392 to R412). -/
namespace Sys2Proof.Machine

/-- The cold domain, clocks and resets changed. -/
def modCrh (f : CrhS → CrhS) (s : State) : State := { s with crh := f s.crh }

/-! Part resets (R405, R406). -/

/-- Members that a part reset leaves unchanged: reset causes and counts, straps, sensor and rail readings, the sensed levels of
the banks, identity and eFuses, the battery domain, the wear of the trim store. -/
def keptKey (k : Nat) : Bool :=
  let o := k / 256
  Nat.beq o 0x0000 || [CRH.RESET_CAUSE, CRH.RESET_COUNT, CRH.MPLL_LOSSES, CRH.STRAPS, CRH.TEMP_MAX, CFG.FUSE_KEY_ID, CFG.BBRAM_KEY_ID,
    CFG.POLICY, CFG.TAMPER_CAUSE, CFG.TAMPER_COUNT, DBG.POLICY].contains k
    || Nat.beq o 0x2600 || Nat.beq o 0x2700 || (Nat.ble 0x8900 o && Nat.blt o 0x8920) || Nat.beq o 0x4002 || Nat.beq o 0x3601
/-- Is the member a repair record, whose fused count stays (10 R293)? -/
def repairKey (k : Nat) : Bool :=
  (Nat.ble 0x5100 (k / 256) && Nat.blt (k / 256) 0x5700 && Nat.beq (k % 256) 11)
    || (Nat.ble 0x6100 (k / 256) && Nat.blt (k / 256) 0x6140 && decide (k = SCR.REPAIR (k / 256 - 0x6100)))
/-- Members after a part reset. -/
def resetReg (r : Tab Nat) : Tab Nat :=
  r.filterMap fun e =>
    if keptKey e.1 then some e else if repairKey e.1 && e.2 % 256 != 0 then some (e.1, e.2 % 256) else none

/-- TWARN, TTRIP and VIO windows at their defaults by grade and sensed level (R408, R409). -/
def graded (s : State) : State :=
  let s := if s.crh.grade = 1 then (s.wr CRH.TWARN 1680).wr CRH.TTRIP 1920 else s
  (List.range 10).foldl (fun s b =>
    if s.bit (FAB.IO_BANK b) 0 then (s.wr (CRH.VLOW (6 + b)) 3135).wr (CRH.VHIGH (6 + b)) 3465 else s) s

/-- The blocks cleared: what R406 keeps stays, and what the part finds outside it (pins, DIMMs). A slot of the trim store that
was being written fails its digest (07 R212): every byte of it reads 0 (DESIGN CHOICE, log entry 31). -/
def clearPart (s : State) : State :=
  let refin := s.bit CRH.CLK_STATUS 0
  let refsel := s.bit CRH.CLK_STATUS 2
  let t : State :=
    { now := s.now, reg := resetReg s.reg, freeCtr := s.freeCtr, pending := s.pending, pins := s.pins,
      dmc := s.dmc.map fun e => (e.1, { dimms := e.2.dimms }),
      crh := { grade := s.crh.grade, rstFrom := s.crh.rstFrom, rstAt := s.crh.rstAt, inReset := s.crh.inReset,
               pinLow := s.crh.pinLow, hot := s.crh.hot, low := s.crh.low,
               groupT := s.crh.groupT },
      cfg := { flash := s.cfg.flash, bbKey := s.cfg.bbKey, fuseKey := s.cfg.fuseKey, zeroised := s.cfg.zeroised },
      dbg := { insn := s.dbg.insn, bound := s.dbg.bound, upd := s.dbg.upd, dr := s.dbg.dr, key2 := s.dbg.key2, key3 := s.dbg.key3, test := s.dbg.test },
      trim := { slots := match s.trim.job with
                  | some (0, slot, _) => Tab.set (fun _ => 0) s.trim.slots slot 0
                  | _ => s.trim.slots } }
  let t := ((t.setBit CRH.CLK_STATUS 0 refin).setBit CRH.CLK_STATUS 2 refsel).setBit HDI.STATUS 0 refin
  let t := (t.setBit DBG.STATUS 0 (s.bit DBG.STATUS 0)).setBit DBG.STATUS 1 (s.bit DBG.STATUS 1)
  graded ((t.setBit CFG.KEY_STATUS 0 (s.bit CFG.KEY_STATUS 0)).setBit CFG.KEY_STATUS 1 (s.bit CFG.KEY_STATUS 1))

/-- A cause recorded. -/
def noteCause (b : Nat) (s : State) : State :=
  let s := s.setBit CRH.RESET_CAUSE b true
  if b = 3 then s.bump 32 CRH.MPLL_LOSSES else s

/-- The readings of the die sensors and the edge groups (R408). -/
def tempReadings (s : State) : List Int :=
  ((List.range 16).map fun i => toS16 (s.rd (CRH.TEMP i))) ++ (List.range 32).map fun g => toS16 (Tab.get (fun _ => 0) s.crh.groupT g)
/-- The highest reading. -/
def hottest (s : State) : Int := (tempReadings s).foldl max (-32768)
/-- TTRIP of the grade. -/
def tripDefault (s : State) : Int := if s.crh.grade = 1 then 1920 else 1840
/-- Has every sensor cooled to 15 degC below the default TTRIP? -/
def cooled (s : State) : Bool := decide (hottest s ≤ tripDefault s - 240)

/-- Does a reset last: its end t0 has not come, or nRESET, a hot sensor, a core rail or a test of the TAP holds the part (R405, R407,
R408; 19 R478; 22 R531)? -/
def resetLasts (s : State) : Bool :=
  s.crh.inReset && (s.crh.pinLow || (s.crh.hot && !(cooled s)) || s.crh.low != 0 || testInsn s.dbg.insn || Nat.blt s.now s.crh.rstAt)

/-- A part reset of cause b triggered now: one detected while a reset lasts, or within 1 us after its trigger, joins it (R405). -/
def partReset (b : Nat) (s : State) : State :=
  if resetLasts s = true ∨ ((s.crh.inReset = true ∨ 0 < s.crh.rstFrom) ∧ s.now ≤ s.crh.rstFrom + ticksPerUs) then noteCause b s
  else
    clearPart (modCrh (fun c => { c with rstFrom := s.now, rstAt := s.now + 10 * ticksPerUs, inReset := true })
      ((noteCause b s).bump 32 CRH.RESET_COUNT))

/-- POR or BROWNOUT, bit b: the cause register holds its bit alone, the counts read 0 (R405). nRESET and a hot sensor hold the part
as before (R407, R408). -/
def coldReset (b : Nat) (s : State) : State :=
  let s := clearPart (modCrh (fun c => { c with rstFrom := s.now, rstAt := s.now, inReset := true, low := 0 }) s)
  ((s.wr CRH.RESET_CAUSE (2 ^ b)).wr CRH.RESET_COUNT 0).wr CRH.MPLL_LOSSES 0

/-- REFIN edges no longer arrive. -/
def refinGone (s : State) : State := (s.setBit CRH.CLK_STATUS 0 false).setBit HDI.STATUS 0 false

/-- The straps sampled: BOOTSEL in bits 1 and 0, REFSEL in bit 2 (R407, R410, R411). -/
def sampleStraps (v : Nat) (s : State) : State := (s.wr CRH.STRAPS (v % 8)).setBit CRH.CLK_STATUS 2 (v.testBit 2)

/-- POR: the supplies have risen with this board around the part. -/
def execPor (board : Board) (s : State) : Out :=
  .next <|
    let s := refinGone (sampleStraps board.straps (coldReset 0 s))
    let s := graded (modCrh (fun c => { c with grade := board.grade }) s)
    (List.range 4).foldl (fun s n => s.modDmc n fun _ => { dimms := board.dimms.getD n [] }) s
/-- BROWNOUT. Its end samples the straps, as the outside then holds them: a free value (log entry 30). -/
def execBrownout (s : State) : Out := .next (sampleStraps s.freeVal (coldReset 1 s.drawn))
/-- PIN_RESET: nRESET low for 1 us; the reset lasts while it is low. -/
def execPinReset (s : State) : Out := .next (modCrh (fun c => { c with pinLow := true }) (partReset 2 s))
/-- NRESET_RISE: the straps are sampled, t0 of R407. -/
def execNresetRise (straps : Nat) (s : State) : Out :=
  .next <|
    if s.crh.pinLow then modCrh (fun c => { c with pinLow := false, rstAt := s.now }) (sampleStraps straps s) else s
/-- SOFT_RESET: accepted, then reset. -/
def softReset (q : Req) (s : State) : State :=
  let t := command q CRH.RESET 0xA5 [] (fun s => s) s
  if statusOf q 2 0x2000 2 1 0xA5 0 [] s = 0 ∧ deaf q s = false then partReset 5 t else t
/-- SOFT_RESET. -/
def execSoftReset (q : Req) (s : State) : Out := .next (softReset q s)

/-! Temperature (R408). -/

/-- THERMAL_TRIP: a sensor reads at or above CRH.TTRIP. -/
def execThermalTrip (s : State) : Out :=
  .next <|
    if toS16 (s.rd CRH.TTRIP) ≤ hottest s ∧ s.crh.hot = false then modCrh (fun c => { c with hot := true }) (partReset 8 s) else s

/-- Conditions of writes of CRH.TWARN and TTRIP. -/
def twarnConds (v : Nat) (s : State) : List (Bool × Nat) := [(decide (toS16 v < 0) || decide (toS16 (s.rd CRH.TTRIP) < toS16 v), 4)]
/-- As twarnConds. -/
def ttripConds (v : Nat) (s : State) : List (Bool × Nat) := [(decide (tripDefault s < toS16 v), 4)]

/-- RESET_END: 10 us after t0 the cold domain answers (R407). -/
def execResetEnd (s : State) : Out :=
  .next <|
    if s.crh.inReset = true ∧ s.crh.pinLow = false ∧ (s.crh.hot = false ∨ cooled s = true) ∧ s.crh.low = 0 ∧ testInsn s.dbg.insn = false then
      modCrh (fun c => { c with inReset := false, hot := false }) (s.upto (s.crh.rstAt + 10 * ticksPerUs))
    else s

/-! Clocks (R393, R394). -/

/-- REFIN_PRESENT: REFIN edges arrive. -/
def execRefinPresent (s : State) : Out :=
  .next <|
    if refinOk s then s
    else modCrh (fun c => { c with refinAt := s.now }) ((s.setBit CRH.CLK_STATUS 0 true).setBit HDI.STATUS 0 true)
/-- MPLL_LOCK: the derived clocks start on the next alignment edge; the network time reads 0 there (13 R345), and a
test-group instruction that held the part in reset is flagged (19 R500). -/
def execMpllLock (s : State) : Out :=
  .next <|
    if s.bit CRH.CLK_STATUS 0 = true ∧ s.crh.inReset = false ∧ mpllLocked s = false then
      let e := edgeAt 163840 s.now
      let s := ((s.upto e).setBit CRH.CLK_STATUS 1 true).setBit HDI.STATUS 1 true
      let s := modCrh (fun c => { c with rstAt := e }) { s with clk := { base := 0, anchor := e } }
      if s.dbg.test then { s with dbg := { s.dbg with test := false } }.flag DBG.EVFLAGS 7 503 else s
    else s
/-- The MPLL loses lock while REFIN stays: a part reset of cause CLKLOSS (R393). -/
def lockLost (s : State) : State := if mpllLocked s then partReset 3 s else s
/-- REFIN goes: likewise. -/
def refinLost (s : State) : State := if refinOk s then refinGone (partReset 3 s) else s
/-- REFIN_LOSS: REFIN goes, or the MPLL loses lock while REFIN stays; which of them is the outside's, a free value where both can
be (R393; log entry 30). -/
def execRefinLoss (s : State) : Out :=
  .next (if mpllLocked s = true ∧ s.freeVal.testBit 0 = true then lockLost s.drawn else refinLost s.drawn)

/-! CLKOUT (R397, R398). -/

/-- Sixteen times the frequency of a CLKOUT source in kHz; 0 for one that is off. -/
def clkoutSource (v : Nat) (s : State) : Nat :=
  let u := Dict.bitsOf v 27 24
  match Dict.bitsOf v 23 20 with
  | 1 => if s.bit CRH.CLK_STATUS 2 then 16 * 156250 else 16 * 100000
  | 2 => 16 * 1000000
  | 3 => 16 * 500000
  | 4 => 16 * 250000
  | 5 => 16 * 500 * (s.dmcOf u).rate
  | 6 => [10312500, 25781250, 26562500, 53125000, 56250000].getD (s.rd (LNK.QRATE u)) 0
  | _ => 0
/-- Conditions of a write of CRH.CLKOUT_CFG. -/
def clkoutConds (v : Nat) (s : State) : List (Bool × Nat) :=
  let src := Dict.bitsOf v 23 20
  [ (Nat.blt 6 src || Nat.beq (v % 65536) 0 || Nat.blt (16 * 250000 * 2 * (v % 65536)) (clkoutSource v s)
      || (Nat.beq src 5 && Nat.blt 3 (Dict.bitsOf v 27 24)) || (Nat.beq src 6 && Nat.blt 11 (Dict.bitsOf v 27 24)), 4),
    (s.crh.switch.isSome, 9) ]
/-- Half periods of an output of source f (sixteen times its kHz) divided by 2 x DIV that have begun k ticks after its first
rising edge. -/
def clkoutHalves (f div k : Nat) : Nat := k * f / (16 * div * 8192 * 1000000)
/-- The level of CLKOUT at instant t: 50 % duty cycle, low once it has stopped (R397, R398); in a test of the TAP that of its boundary
cell (19 R478). -/
def clkoutHigh (t : Nat) (s : State) : Bool :=
  if let some b := pinTest s then b.clkout
  else match s.crh.out with
  | some (f, div, at') =>
    Nat.ble at' t && (match s.crh.outEnd with | some e => Nat.blt t e | none => true) && Nat.beq (clkoutHalves f div (t - at') % 2) 0
  | none => false
/-- The next falling edge of CLKOUT, now if it is low. -/
def clkoutFall (s : State) : Nat :=
  match s.crh.out with
  | some (f, div, at') =>
    if clkoutHigh s.now s then at' + ((clkoutHalves f div (s.now - at') + 1) * (16 * div * 8192 * 1000000) + f - 1) / max 1 f else s.now
  | none => s.now
/-- The switch starts: READY falls, and the output stops at its next falling edge. -/
def clkoutEff (v : Nat) (s : State) : State :=
  modCrh (fun c => { c with switch := some (v, s.now), outEnd := earlier c.outEnd (clkoutFall s) })
    ((s.wr CRH.CLKOUT_CFG v).setBit CRH.CLK_STATUS 21 false)
/-- Does the source of a CLKOUT setting report that it is locked (R397, R411)? -/
def sourceLocked (v : Nat) (s : State) : Bool :=
  let u := Dict.bitsOf v 27 24
  match Dict.bitsOf v 23 20 with
  | 1 => s.bit CRH.CLK_STATUS 0
  | 2 | 3 | 4 => s.bit CRH.CLK_STATUS 1
  | 5 => s.bit CRH.CLK_STATUS (5 + u)
  | 6 => s.bit CRH.CLK_STATUS (9 + u)
  | _ => true
/-- What CLKOUT carries after a switch to v that ends now: from an alignment edge where its source is derived from the MPLL. -/
def clkoutStart (v : Nat) (s : State) : State :=
  let f := clkoutSource v s
  let e := if [2, 3, 4, 5].contains (Dict.bitsOf v 23 20) then edgeAt 163840 s.now else s.now
  modCrh (fun c => { c with out := if f = 0 then none else some (f, v % 65536, e), outEnd := none }) s
/-- CLKOUT_CFG_WRITE. -/
def execClkoutCfgWrite (q : Req) (v : Nat) (s : State) : Out :=
  .next (writeTo q CRH.CLKOUT_CFG 4 v (clkoutConds v s) (clkoutEff v) s)
/-- The first rising edge of CLKOUT, if it is still to come. -/
def clkoutFirst (s : State) : Nat := (s.crh.out.map fun x => x.2.2).getD s.now
/-- CLOCK_SWITCH_DONE: the new source has locked in time; the output has stayed low for at least 20 ns and starts, and READY rises
there. -/
def execClockSwitchDone (s : State) : Out :=
  .next <|
    match s.crh.switch with
    | some (v, t0) =>
      if s.now ≤ t0 + 1000 * ticksPerUs ∧ sourceLocked v s = true then
        let u := clkoutStart v (modCrh (fun c => { c with switch := none }) (s.upto (s.crh.outEnd.getD t0 + 20 * ticksPerNs)))
        crhFlag 3 (((u.upto (clkoutFirst u)).setBit CRH.CLK_STATUS 21 true).setBit CRH.CLK_STATUS 22 false)
      else s
    | none => s
/-- CLOCK_SWITCH_TIMEOUT: 1 ms without lock; CLKOUT stays low with ERR. With no CLKOUT switch it is that of the DDR or lane PLL
whose switch began first; these have no ERR flag in the map of R411. -/
def execClockSwitchTimeout (s : State) : Out :=
  .next <|
    match s.crh.switch, s.crh.plls with
    | some (_, t0), _ =>
      crhFlag 3 (modCrh (fun c => { c with switch := none }) ((s.upto (t0 + 1000 * ticksPerUs)).setBit CRH.CLK_STATUS 22 true))
    | none, x :: rest => crhFlag 3 (modCrh (fun c => { c with plls := rest }) (s.upto (x.2 + 1000 * ticksPerUs)))
    | none, [] => s

/-! Frequency meter (R399). -/

/-- Conditions of START. -/
def fmConds (s : State) : List (Bool × Nat) := [(Nat.beq (s.rd CRH.FM_STATE) 1, 9), (!(mpllLocked s), 7)]
/-- START. -/
def fmEff (s : State) : State :=
  modCrh (fun c => { c with fmEnd := engEdge s.now + s.rd CRH.FM_GATE * ticksPerUs }) (s.wr CRH.FM_STATE 1)
/-- FM_START. -/
def execFmStart (q : Req) (s : State) : Out := .next (command q CRH.FM_CTRL 1 (fmConds s) fmEff s)
/-- FM_DONE: count edges in the gate. -/
def execFmDone (count : Nat) (s : State) : Out :=
  .next <|
    if s.rd CRH.FM_STATE = 1 then
      let s := s.upto s.crh.fmEnd
      crhFlag 4 (((s.wr CRH.FM_COUNT (count % 2 ^ 64)).wr CRH.FM_HZ
        (count * 1000000000 / max 1 (s.rd CRH.FM_GATE) % 2 ^ 64)).wr CRH.FM_STATE 2)
    else s

/-! Clock gates (R400, R401). -/

/-- Is a close of gate u refused? -/
def closeRefused (u : Nat) (s : State) : Bool :=
  if u < 0x20 then (Nat.beq (s.rd (VEN.APG_BIND u)) 1 && veLive u s) || Nat.beq (s.rd (CFG.FACET_STATE u)) 1
  else if u < 0x40 then veState (u - 0x20) s != 0
  else if u < 0x60 then !(dspStopped (u - 0x40) s)
  else if u < 0xA0 then
    s.rd (SCR.OWNER (u - 0x60) 0) != 0xFF || (Nat.blt (u - 0x60) 8 && s.rd (SCR.OWNER (u - 0x60) 1) != 0xFF)
  else if u < 0xA4 then [2, 3, 4].contains (dmcState (u - 0xA0) s)
  else if u < 0xB0 then !(quadReset (u - 0xA4) s)
  else if u = 0xB0 then ((List.range 32).any fun n => veState n s != 0) || s.focus.kind != 0
  else (List.range 65).any fun t => (s.tgtOf t).held
/-- Period of the clock of unit u: FABCLK, DSPCLK, EDGE for EDG, SUPCLK for DBG, else one of 1 ns (01 R24). -/
def unitClk (u : Nat) : Nat :=
  if u < 0x20 then 16384 else if 0x40 ≤ u ∧ u < 0x60 then dspClk else if u = 0xB0 then 1024 else if u = 0xB1 then 32768 else 8192
/-- Conditions of a write of CRH.GATE_EN. -/
def gateConds (u v : Nat) (s : State) : List (Bool × Nat) :=
  let st := s.rd (CRH.GATE_STATE u)
  [(v != s.rd (CRH.GATE_EN u) && (Nat.beq st 2 || Nat.beq st 3 || (Nat.beq v 0 && closeRefused u s)), 9)]
/-- A write of CRH.GATE_EN; the close of a target block of a checked batch reopens it (02 R63). -/
def gateEff (u v : Nat) (s : State) : State :=
  if v = s.rd (CRH.GATE_EN u) then s
  else
    let t := modCrh (fun c => { c with gateAt := c.gateAt ++ [(u, s.now)] })
      ((s.wr (CRH.GATE_EN u) v).wr (CRH.GATE_STATE u) (if v = 0 then 2 else 3))
    if v = 0 then reopenIf (s.hdi.mirror.batch.any fun e => Dict.gateUnit (e.key / 256) == some u) t else t
/-- GATE_CLOSE. -/
def execGateClose (q : Req) (u : Nat) (s : State) : Out :=
  unitCmd u 178 (writeTo q (CRH.GATE_EN u) 1 0 (gateConds u 0 s) (gateEff u 0) s)
/-- GATE_OPEN. -/
def execGateOpen (q : Req) (u : Nat) (s : State) : Out :=
  unitCmd u 178 (writeTo q (CRH.GATE_EN u) 1 1 (gateConds u 1 s) (gateEff u 1) s)

/-- The instant a gate change of u was acknowledged. -/
def gateSince (u : Nat) (s : State) : Nat := ((s.crh.gateAt.find? fun e => Nat.beq e.1 u).map (·.2)).getD s.now
/-- Members of unit u that may change behind its closed gate, as the dictionary shows them, beside those that differ from their
default: states and counts of a facet and its panes, the state of a bank, the run state of the debug targets and DBG.EVFLAGS. -/
def shutMembers (u : Nat) (s : State) : Tab Nat :=
  let keys :=
    if u < 0x20 then FAB.MESH_DONE u :: FAB.MESH_DISCARD u :: FAB.USER_REQ :: (List.range 48).map fun i => PAN.STATE (48 * u + i)
    else if 0x60 ≤ u ∧ u < 0xA0 then [SCR.STATE (u - 0x60)]
    else if u = 0xB1 then [DBG.EVFLAGS] else []
  let own := fun k => Dict.gateUnit (k / 256) == some u
  (if u = 0xB1 then (List.range 65).map fun t => (DBG.TSTATE t, tstate t s) else [])
    ++ (keys.filter own).map (fun k => (k, s.rd k)) ++ s.reg.filter fun e => own e.1
/-- A gate change of u has ended: the requests that waited at its port go on. A unit that closes holds its members (R401, R403). -/
def gateEnds (u st : Nat) (s : State) : State :=
  let shut := s.crh.shut.filter fun e => !(Nat.beq e.1 u)
  let s := modCrh (fun c => { c with shut := if st = 0 then shut ++ [(u, shutMembers u s)] else shut }) s
  let s := if u < 32 then s.modFacet u fun x => if st = 0 then { x with gateOff := s.now } else { x with gateOn := s.now } else s
  let s := crhFlag 1 (s.wr (CRH.GATE_STATE u) st)
  performHeld (fun r => gateOf (destOf r.addr s) == some u)
    (modCrh (fun c => { c with gateAt := c.gateAt.filter fun e => !(Nat.beq e.1 u), forced := c.forced.filter fun x => !(Nat.beq x u) }) s)

/-- Is an access that a port of unit u has accepted still in progress (R401)? -/
def accessRuns (u : Nat) (s : State) : Bool := s.steal.any fun x => gateOf (destOf x.req.addr s) == some u
/-- GATE_CLOSED: a clock of the unit without an access. -/
def execGateClosed (u : Nat) (s : State) : Out :=
  unitCmd u 178 (if s.rd (CRH.GATE_STATE u) = 2 ∧ accessRuns u s = false then gateEnds u 0 s else s)
/-- GATE_CLOSE_FORCE: after 256 unit clocks the unit's ports accept no new access. -/
def execGateCloseForce (u : Nat) (s : State) : Out :=
  unitCmd u 178 <|
    if s.rd (CRH.GATE_STATE u) = 2 ∧ s.crh.forced.contains u = false then
      modCrh (fun c => { c with forced := c.forced ++ [u] }) (s.upto (gateSince u s + 256 * unitClk u))
    else s
/-- GATE_OPENED: at the first unit clock edge at least 100 ns on. -/
def execGateOpened (u : Nat) (s : State) : Out :=
  unitCmd u 178 <|
    if s.rd (CRH.GATE_STATE u) = 3 then gateEnds u 1 (s.upto (edgeAt (unitClk u) (gateSince u s + 100 * ticksPerNs))) else s

/-! Power domains (R404). -/

/-- Does domain d turn off? -/
def turnsOff (d : Nat) (s : State) : Bool := s.crh.offAt.any fun e => Nat.beq e.1 d
/-- Conditions of a write of CRH.PWR: one that turns a domain off is refused while a released facet or a bank's owner uses it. A
facet that loads is held (16 R419). -/
def pwrConds (d v : Nat) (s : State) : List (Bool × Nat) :=
  [ (Nat.beq v 0 && s.rd (CRH.PWR_STATE d) != 0 && !(turnsOff d s) &&
      (if d < 32 then released d s
       else s.rd (SCR.OWNER (d - 32) 0) != 0xFF || (Nat.blt (d - 32) 8 && s.rd (SCR.OWNER (d - 32) 1) != 0xFF)), 9) ]
/-- A write of CRH.PWR: the domain turns off, also one that a mesh access woke while CRH.PWR read 0, or wakes if it is off. -/
def pwrEff (d v : Nat) (s : State) : State :=
  let t := s.wr (CRH.PWR d) v
  if v = 0 then
    if s.rd (CRH.PWR_STATE d) = 0 ∨ turnsOff d s = true then t else modCrh (fun c => { c with offAt := c.offAt ++ [(d, s.now)] }) t
  else
    let t := modCrh (fun c => { c with offAt := c.offAt.filter fun e => !(Nat.beq e.1 d) }) t
    if s.rd (CRH.PWR_STATE d) = 0 then wakeDomain d t else t
/-- POWER_OFF. -/
def execPowerOff (q : Req) (d : Nat) (s : State) : Out :=
  unitCmd d 96 (writeTo q (CRH.PWR d) 1 0 (pwrConds d 0 s) (pwrEff d 0) s)
/-- POWER_ON. -/
def execPowerOn (q : Req) (d : Nat) (s : State) : Out :=
  unitCmd d 96 (writeTo q (CRH.PWR d) 1 1 (pwrConds d 1 s) (pwrEff d 1) s)
/-- DOMAIN_OFF: within 1 us the domain is off and its content lost. -/
def execDomainOff (d : Nat) (s : State) : Out :=
  unitCmd d 96 <|
    if turnsOff d s then
      domainUnits d 4 4 (loseDomain d ((modCrh (fun c =>
        { c with offAt := c.offAt.filter fun e => !(Nat.beq e.1 d), wakeAt := c.wakeAt.filter fun e => !(Nat.beq e.1 d) }) s).wr
          (CRH.PWR_STATE d) 0))
    else s

/-- The moves of the DSP engines at scratch bank b, no longer BUSY, go on (10 R289). -/
def pumpBank (b : Nat) (s : State) : State :=
  (List.range 32).foldl (fun s n =>
    match (s.dspOf n).moves with
    | m :: _ => if m.out && Nat.beq (bankIn m.elem) b then movePump n s else s
    | [] => s) s
/-- CLEAR_END: zeros everywhere, ATTACHED or READY, and the held requests performed in arrival order (10 R294, 11 R310). -/
def execClearEnd (d : Nat) (s : State) : Out :=
  unitCmd d 96 <|
    if s.rd (CRH.PWR_STATE d) = 2 then
      let t := crhFlag 2 (domainUnits d 0 0 (s.wr (CRH.PWR_STATE d) 3))
      let t := performHeld (fun r => decide (domainOf (destOf r.addr s) = some d)) t
      if d < 32 then t else pumpBank (d - 32) t
    else s

/-! Rails (R409). -/

/-- Is core rail r above its brown-out level: 650 mV for VCORE and VFAB, not given for the others (R405; log entry 54)? -/
def railUp (r mv : Nat) : Bool := Nat.ble (if r < 2 then 650 else Config.brownLevel r) mv
/-- During a POR the six core rails, and during a BROWNOUT VCORE and VFAB, hold the part while one is below its level; 1 ms after the
last has risen a POR ends, a BROWNOUT at once (R405, R407; 22 R531). -/
def railHolds (r mv : Nat) (s : State) : State :=
  let por := s.bit CRH.RESET_CAUSE 0
  if s.crh.inReset && Nat.blt r (if por then 6 else if s.bit CRH.RESET_CAUSE 1 then 2 else 0) then
    let low := if s.crh.low.testBit r then s.crh.low - 2 ^ r else s.crh.low
    if railUp r mv then
      modCrh (fun c => { c with low := low, rstAt := if s.crh.low.testBit r then s.now + (if por then 1000 * ticksPerUs else 0) else c.rstAt }) s
    else modCrh (fun c => { c with low := low + 2 ^ r }) s
  else s
/-- RAIL_SAMPLE: rail r reads mv millivolts. -/
def execRailSample (r mv : Nat) (s : State) : Out :=
  unitCmd r 17 <|
    let s := railHolds r (mv % 65536) s
    let inside := fun v => Nat.ble (s.rd (CRH.VLOW r)) v && Nat.ble v (s.rd (CRH.VHIGH r))
    let t := s.wr (CRH.VOLT r) (mv % 65536)
    if inside (s.rd (CRH.VOLT r)) && !(inside (mv % 65536)) && !s.crh.inReset then crhFlag 6 t else t

/-! Sensed levels of the GIO banks (22 R529, R409). -/

/-- A bound of the window of a VIO rail follows the sensed level where it holds its default. -/
def followLevel (k old new : Nat) (s : State) : State := if s.rd k = old then s.wr k new else s

/-- Is VIOb within 90 % of nominal? -/
def vioOk (b : Nat) (s : State) : Bool := !(s.pins.vioLow.testBit b)
/-- FAB.IO_BANK of bank b: level and strap as sensed. -/
def senseBank (b level : Nat) (s : State) : State := s.wr (FAB.IO_BANK b) (level % 2 + s.pins.pull / 4 ^ b % 4 * 2)

/-- PULLSEL_CHANGE: the strap of bank b shows code v; it is sensed while VIOb is within 90 %. -/
def execPullselChange (b v : Nat) (s : State) : Out :=
  unitCmd b 10 <|
    if v < 3 then
      let s := { s with pins := { s.pins with pull := s.pins.pull - s.pins.pull / 4 ^ b % 4 * 4 ^ b + v * 4 ^ b } }
      if vioOk b s then senseBank b (s.rd (FAB.IO_BANK b)) s else s
    else s

/-- VIO_RAIL_CHANGE: rail VIOb is within 90 % of nominal (ok), at 1.8 V (level 0) or 3.3 V, or it is not; the defaults of its
window follow the level. -/
def execVioRailChange (b : Nat) (ok : Bool) (level : Nat) (s : State) : Out :=
  unitCmd b 10 <|
    let low := s.pins.vioLow - (if s.pins.vioLow.testBit b then 2 ^ b else 0)
    if ok then
      let o := s.rd (FAB.IO_BANK b) % 2
      let s := senseBank b level { s with pins := { s.pins with vioLow := low } }
      let lo := fun l => if l = 1 then 3135 else 1710
      let hi := fun l => if l = 1 then 3465 else 1890
      followLevel (CRH.VHIGH (6 + b)) (hi o) (hi (level % 2)) (followLevel (CRH.VLOW (6 + b)) (lo o) (lo (level % 2)) s)
    else { s with pins := { s.pins with vioLow := low + 2 ^ b } }

end Sys2Proof.Machine
end

