-- ==== Sys2Proof/Machine/Cfg.lean ====
section
/-! DEFINITION. Configuration loads and keys (16_configuration.md R413 to R444). The layouts of manifests and of CELL and
ROUTE payloads are not in the manual (R422): frame commands carry them decoded. -/
namespace Sys2Proof.Machine

/-- CFG changed. -/
def modCfg (f : CfgS → CfgS) (s : State) : State := { s with cfg := f s.cfg }

/-! The bytes of a stream (R413 to R418). -/

/-- n bytes of a flash from offset a on; an offset without an entry is erased and reads 0xFF. -/
def flashBytes (f : Flash) : (a n : Nat) → Nat
  | _, 0 => 0
  | a, n + 1 => ((f.bytes.find? fun e => Nat.beq e.1 a).map (·.2)).getD 255 % 256 + 256 * flashBytes f (a + 1) n

/-- n bytes of the stream of a load from position pos on. -/
def streamBytes (l : LoadS) (pos n : Nat) : Nat :=
  if l.src = 0 then flashBytes l.flash (l.addr + pos) n else l.buf / 2 ^ (8 * (pos - l.base)) % 2 ^ (8 * n)
/-- Have the first n bytes of the stream come? -/
def streamHas (l : LoadS) (n : Nat) : Bool := Nat.beq l.src 0 || Nat.ble n l.got

/-- BOOTSEL (R413). -/
def bootsel (s : State) : Nat := s.rd CRH.STRAPS % 4
/-- Mode used on a flash, as CfgS.flashMode numbers it: x8 needs the table of the octal entry; of the two x4 modes 1-4-4, which
needs no entry, goes first (R413, R415; log entry 20). -/
def modeOf (f : Flash) (s : State) : Nat :=
  let m4 := if f.x144 then 2 else if f.x444 then 3 else 1
  match bootsel s with
  | 1 => if f.x8 && f.octal then 4 else m4
  | 3 => m4
  | _ => 1
/-- Data width of a flash (R413, R415). -/
def flashWidth (f : Flash) (s : State) : Nat := [0, 1, 4, 4, 8].getD (modeOf f s) 0
/-- Level of pin FRST_N (R415, R416). -/
def frstN (s : State) : Bool := Nat.ble s.cfg.frstLow s.now
/-- CFG.FLASH_INFO after discovery (R416, R443). -/
def flashInfo (f : Flash) (s : State) : Nat :=
  let w := flashWidth f s
  f.density % 256 * 256 + (if 24 < f.density then 32 else 0) + (if w = 8 then 16 else 0) + w
/-- Ticks that n bytes take from a flash: one bit per wire and clock of CFG.FLASH_CLK, in octal mode two at half that clock
(R415, R436). -/
def flashTicks (f : Flash) (n : Nat) (s : State) : Nat := n * 8 * ticksPerUs / (flashWidth f s * max 1 (s.rd CFG.FLASH_CLK))

/-- Bytes lo to lo + n - 1 of a header. -/
def field (h lo n : Nat) : Nat := h / 2 ^ (8 * lo) % 2 ^ (8 * n)
/-- Is the stream in the OXF-5 format (R426)? -/
def isOxf5 (l : LoadS) : Bool := Nat.beq (streamBytes l 0 4) 0x05F5A55A
/-- Bytes of the header. -/
def headerLen (l : LoadS) : Nat := if isOxf5 l then 128 else 256

/-- Body bytes of a chunk, and bytes of a chunk with its tag (R417). -/
abbrev chunkBody : Nat := 65520
/-- As chunkBody. -/
abbrev chunkSize : Nat := 65536
/-- Body bytes of chunk c. -/
def chunkLen' (h : Header) (c : Nat) : Nat := min chunkBody (h.bodyLen - c * chunkBody)
/-- Bytes of the stream. -/
def streamLen (h : Header) : Nat := if h.oxf5 then 128 + h.bodyLen else 256 + h.bodyLen + 16 * h.chunks

/-- Do both chunk buffers hold unchecked bytes (R433)? -/
def buffersFull (l : LoadS) : Bool :=
  match l.hdr with
  | none => Nat.blt (256 + chunkSize) l.got
  | some h =>
    if h.oxf5 then Nat.blt (128 + l.bodyAt + chunkSize) l.got
    else Nat.blt l.chunk h.chunks && Nat.blt (256 + (l.chunk + 1) * chunkSize) l.got

/-! Ends of a load (R424, R425, R434, R449). -/

/-- The status of a cause (R425). -/
def causeStatus (c : Nat) : Nat :=
  if c ≤ 1 then 0 else if c = 2 ∨ c = 0xC then 7 else if c = 4 then 0xC else if c = 0xE then 0xA else 9

/-- Facets of a mask. -/
def facetsIn (region : Nat) : List Nat := (List.range 32).filter fun f => region.testBit f

/-- Frames of FACETf received. -/
def framesOf (l : LoadS) (f : Nat) : Nat := (l.seen.filter fun x => Nat.beq x.id.f f).length

/-- Has FACETf received its manifest and exactly its FRAMES (R423, R424)? -/
def facetComplete (l : LoadS) (f : Nat) (s : State) : Bool :=
  (l.seen.any fun x => decide (x.id = ⟨f, 1, 0⟩)) && Nat.beq (framesOf l f) (s.facetOf f).man.frames

/-- A facet has been loaded: CFG.FACET_STATE 2, its frames the loupe's reference (R438, R442; 17 R446). -/
def facetLoaded (l : LoadS) (h : Header) (f : Nat) (s : State) : State :=
  let s := ((s.wr (CFG.FACET_STATE f) 2).bump 32 (CFG.FACET_LOADS f)).wr (FAB.DESIGN_ID f) h.design
  modCfg (fun x => { x with
    refs := x.refs.filter (fun r => !(Nat.beq r.id.f f)) ++ l.seen.filter (fun r => Nat.beq r.id.f f && r.id.type != 4),
    heads := x.heads.filter (fun e => !(Nat.beq e.1 f)) ++ [(f, h)] }) s

/-- The facets still loading become torn; those that an OXF-5 partial load has completed are loaded and stay held (R424, R427). -/
def tearFacets (l : LoadS) (h : Header) (s : State) : State :=
  (facetsIn h.region).foldl (fun s f =>
    if s.rd (CFG.FACET_STATE f) = 1 then
      (if (h.oxf5 && !l.full && facetComplete l f s) = true then facetLoaded l h f s else s.wr (CFG.FACET_STATE f) 3)
    else s) s

/-- The reload source of the facets that a load has brought to state 2 (17 R449). -/
def setSources (l : LoadS) (region : Nat) (s : State) : State :=
  (facetsIn region).foldl (fun s f =>
    if s.rd (CFG.FACET_STATE f) = 2 then
      (s.wr (CFG.LOUPE_SRC_TYPE f) (match l.src with | 0 => 1 | 2 => 2 | _ => 0)).wr (CFG.LOUPE_SRC_ADDR f)
        (if l.src = 1 then 0 else l.addr)
    else s) s

/-- A load ends with cause c; at is the body offset of a failing frame or chunk (R424, R425, R434, R444). -/
def loadEnd (c at' : Nat) (s : State) : State :=
  match s.cfg.load with
  | none => s
  | some l =>
    let s := ((s.wr CFG.LOAD_CAUSE c).wr CFG.LOAD_STATUS (causeStatus c)).wr CFG.LOAD_STATE (if c = 1 then 4 else 5)
    let s := match l.hdr with
      | none => s
      | some h =>
        setSources l h.region (if c = 1 then s.wr CFG.LOAD_TIME (min ((s.now - l.headAt) / ticksPerUs) (2 ^ 32 - 1))
          else tearFacets l h (s.wr CFG.LOAD_FAIL_AT at'))
    let s := modCfg (fun x => { x with load := none, lastHost := Nat.beq l.src 1 && c != 1, drop := x.drop ++ l.wait.toList }) s
    { s with autoTrain := s.autoTrain || l.full }.raise (if l.full then 32 else 33)

/-- A load fails; the automatic load that fails at its header tries offset 0x0200_0000 once (R414). -/
def loadFail (c at' : Nat) (s : State) : State :=
  match s.cfg.load with
  | none => s
  | some l =>
    if l.auto && !l.second && l.hdr.isNone && c != 0xA && l.flash.present && l.flash.sfdp && Nat.ble 26 l.flash.density then
      modCfg (fun x => { x with load := some { l with addr := 0x2000000, second := true, got := 0 } })
        ((s.wr CFG.LOAD_STATE 2).wr CFG.LOAD_BYTES 0)
    else loadEnd c at' s

/-! Starting a load (R432, R440). -/

/-- Does any load run? An automatic load that is due counts as running. -/
def loadRuns (s : State) : Bool := s.cfg.load.isSome || s.cfg.autoDue

/-- Pending loupe work dropped (17 R452, R454, R455). -/
def abandon (gone : FrameId → Nat → Bool) (s : State) : State :=
  let w := s.cfg.waiting.filter fun x => gone x 0
  let r := s.cfg.reload.filter fun x => gone x.frame x.src
  (modCfg (fun x => { x with
    waiting := x.waiting.filter (fun y => !(gone y 0)),
    reload := if r.isSome then none else x.reload,
    drop := x.drop ++ (r.bind (·.wait)).toList }) s).addTo 64 CFG.LOUPE_ABANDONED (w.length + r.toList.length)

/-- A load starts, the automatic one as of SUP_READY. A flash load ends a reload that reads flash (17 R452), and its discovery
begins with FRST_N low for 10 us (R416, R435). -/
def loadStart (l : LoadS) (s : State) : State :=
  let s := if l.src = 0 then abandon (fun _ src => Nat.beq src 1) s else s
  let at' := if l.auto then s.cfg.autoAt else s.now
  modCfg (fun x => { x with
    load := some { l with dataAt := at' }, lastHost := false, autoDue := false,
    frstLow := if l.src = 0 then at' + 10 * ticksPerUs else x.frstLow })
    ((((s.wr CFG.LOAD_STATE (if l.src = 0 then 1 else 2)).wr CFG.LOAD_CAUSE 0).wr CFG.LOAD_STATUS 0).wr CFG.LOAD_BYTES 0)

/-- Conditions of FULL and PARTIAL alike (R432). -/
def loadConds (s : State) : List (Bool × Nat) :=
  let src := s.rd CFG.LOAD_SRC
  [ (!(mpllLocked s) || (Nat.beq src 0 && Nat.beq (bootsel s) 0), 7), (loadRuns s, 8),
    (Nat.beq src 1 && s.bit CFG.POLICY 3, 9) ]
/-- Conditions of FULL. -/
def fullConds (s : State) : List (Bool × Nat) :=
  ((List.range 32).any fun n => s.rd (VEN.STATE n) != 0, 9) :: loadConds s
/-- Conditions of PARTIAL. -/
def partialConds (s : State) : List (Bool × Nat) := (!(configDone s), 7) :: loadConds s
/-- FULL and PARTIAL: the source is that of CFG.LOAD_SRC at acknowledgement. -/
def loadEff (full : Bool) (flash : Flash) (s : State) : State :=
  loadStart { full := full, src := s.rd CFG.LOAD_SRC, flash := flash, addr := s.rd CFG.FLASH_OFFSET }
    (modCfg (fun c => { c with flash := flash }) s)
/-- ABORT: every command leaves the load at a frame boundary (R432). -/
def abortEff (s : State) : State :=
  match s.cfg.load with
  | some l => loadEnd 0xA l.bodyAt s
  | none => s

/-- AUTO_LOAD: the full load from flash offset 0 (R414, R435). -/
def execAutoLoad (flash : Flash) (s : State) : Out :=
  .next <|
    let s := modCfg (fun c => { c with flash := flash }) s
    if s.cfg.autoDue then loadStart { full := true, src := 0, flash := flash, addr := 0, auto := true } s else s
/-- LOAD_FULL. -/
def execLoadFull (q : Req) (flash : Flash) (s : State) : Out :=
  .next (command q CFG.LOAD_CTRL 1 (fullConds s) (loadEff true flash) s)
/-- LOAD_PARTIAL. -/
def execLoadPartial (q : Req) (flash : Flash) (s : State) : Out :=
  .next (command q CFG.LOAD_CTRL 2 (partialConds s) (loadEff false flash) s)
/-- LOAD_ABORT. -/
def execLoadAbort (q : Req) (s : State) : Out := .next (command q CFG.LOAD_CTRL 3 [] abortEff s)

/-! Data coming in (R433, R440). -/

/-- n bytes of the stream received. -/
def received (n v : Nat) (s : State) : State :=
  match s.cfg.load with
  | some l =>
    (modCfg (fun x => { x with load := some { l with
      buf := l.buf + v % 2 ^ (8 * n) * 2 ^ (8 * (l.got - l.base)), got := l.got + n, dataAt := s.now } }) s).wr CFG.LOAD_BYTES (l.got + n)
  | none => s

/-- Conditions of a write of CFG.STREAM (R433): after a failed host load its status. -/
def streamConds (s : State) : List (Bool × Nat) :=
  match s.cfg.load with
  | some l => if l.src = 1 then [(buffersFull l, 8)] else [(true, 7)]
  | none => if s.cfg.lastHost then [(true, s.rd CFG.LOAD_STATUS)] else [(true, 7)]
/-- STREAM_WRITE. -/
def execStreamWrite (q : Req) (len v : Nat) (s : State) : Out :=
  .next (writeTo q CFG.STREAM len v (streamConds s) (received len v) s)

/-- HOST_DATA_TIMEOUT: no host data for 1 s (R425). -/
def execHostDataTimeout (s : State) : Out :=
  .next <|
    match s.cfg.load with
    | some l => if l.src = 1 then loadFail 0xC l.bodyAt (s.upto (l.dataAt + 1000000 * ticksPerUs)) else s
    | none => s
/-- FLASH_TIMEOUT: a flash read does not answer (R425). -/
def execFlashTimeout (s : State) : Out :=
  .next <|
    match s.cfg.load with
    | some l => if l.src = 0 then loadFail 0xC l.bodyAt s else s
    | none => s

/-- The next 256-byte C3 read of the Facet Loading Port, while there is room for its data; one is under way at a time (R440). -/
def flpNext (s : State) : State :=
  match s.cfg.load with
  | some l =>
    if l.src = 2 ∧ l.wait = none ∧ l.got < l.len ∧ buffersFull l = false then
      let r : MeshReq := ⟨.read, .flp, 0, 3, l.addr + l.got, 256, 0⟩
      meshSend r (modCfg (fun x => { x with load := some { l with wait := some r } }) s)
    else s
  | none => s
/-- A response to the Facet Loading Port: its bytes of the stream, or cause 0x0C; that of a load that has ended is discarded. -/
def flpDone (x : MeshResp) (s : State) : State :=
  let s := respTaken x s
  if s.cfg.drop.contains x.req then modCfg (fun c => { c with drop := c.drop.erase x.req }) s
  else match s.cfg.load with
    | some l =>
      let s := modCfg (fun c => { c with load := some { l with wait := none } }) s
      if x.kind = 2 then loadFail 0xC l.bodyAt s else flpNext (received (min 256 (l.len - l.got)) x.data s)
    | none => s

/-- Conditions of START of the Facet Loading Port. -/
def flpConds (s : State) : List (Bool × Nat) :=
  [(s.rd CFG.FLP_ADDR % 256 != 0 || Nat.blt (s.rd CFG.FLP_LEN) 272, 4), (!(configDone s), 7), (loadRuns s, 8)]
/-- START. -/
def flpEff (s : State) : State :=
  flpNext (loadStart { full := false, src := 2, flash := ⟨false, false, false, false, false, false, 0, []⟩, addr := s.rd CFG.FLP_ADDR, len := s.rd CFG.FLP_LEN } s)
/-- FLP_START. -/
def execFlpStart (q : Req) (s : State) : Out := .next (command q CFG.FLP_CTRL 1 (flpConds s) flpEff s)
/-- FLP_ABORT. -/
def execFlpAbort (q : Req) (s : State) : Out := .next (command q CFG.FLP_CTRL 2 [] abortEff s)

/-! The header (R418, R419, R426). -/

/-- Is a facet of the region bound to an engine that is not stopped? -/
def regionBound (region : Nat) (s : State) : Bool :=
  (facetsIn region).any fun f => Nat.beq (s.rd (VEN.APG_BIND f)) 1 && veLive f s
/-- Checks 6 and 7 of a partial load. -/
def partialCause (region : Nat) (s : State) : Nat :=
  if regionBound region s then 0xD
  else if (facetsIn region).any fun f => Nat.beq (s.rd (CRH.GATE_STATE f)) 0 then 0xE else 0
/-- Does a KIND, with its REGION, not suit the command? -/
def kindBad (l : LoadS) (kind region all : Nat) : Bool :=
  if l.full then kind != 0 || region != all else kind != 1 || Nat.beq region 0
/-- Has a mask exactly one bit set? -/
def oneBit (m : Nat) : Bool := Nat.beq (facetsIn m).length 1

/-- The cause with which a native header fails; 0 if it passes (R419). -/
def nativeCause (l : LoadS) (h : Nat) (s : State) : Nat :=
  let src := field h 11 1
  if crc32 (field h 0 252) 252 ≠ field h 252 4 ∨ field h 0 4 ≠ 0x77405E0A ∨ field h 4 2 ≠ 0x0100 ∨ field h 64 188 ≠ 0
      ∨ 4 ≤ field h 9 1 then 3
  else if field h 6 2 ≠ s.rd (HDI.IDENT 3) ∨ s.rd (HDI.IDENT 4) < field h 8 1 ∨ (field h 9 1).testBit s.crh.grade = false
      ∨ (field h 16 8 ≠ 0 ∧ field h 16 8 ≠ s.rd (HDI.IDENT 6)) then 4
  else if kindBad l (field h 10 1) (field h 44 4) (2 ^ 32 - 1) = true ∨ field h 48 8 = 0
      ∨ field h 56 4 ≠ (field h 48 8 + chunkBody - 1) / chunkBody ∨ (l.src = 2 ∧ oneBit (field h 44 4) = false) then 7
  else if (src = 0 ∧ s.bit CFG.POLICY 0 = true) ∨ (src = 2 ∧ s.bit CFG.POLICY 1 = true) then 0xB
  else if (match src with
      | 0 => field h 24 8 != 0
      | 1 => !(s.bit CFG.KEY_STATUS 0) || Nat.beq (field h 24 8) 0 || s.rd CFG.FUSE_KEY_ID != field h 24 8
      | 2 => !(s.bit CFG.KEY_STATUS 1) || Nat.beq (field h 24 8) 0 || s.rd CFG.BBRAM_KEY_ID != field h 24 8
      | _ => true) = true then 5
  else if l.full then 0 else partialCause (field h 44 4) s

/-- The cause with which an OXF-5 header fails; the Facet Loading Port reads native streams alone (R426, R440). -/
def oxf5Cause (l : LoadS) (h : Nat) (s : State) : Nat :=
  if field h 7 1 ≠ 0 ∨ field h 10 6 ≠ 0 ∨ field h 28 68 ≠ 0 ∨ l.src = 2 then 3
  else if field h 4 2 < 0x5000 ∨ 0x5FFF < field h 4 2 then 4
  else if kindBad l (field h 6 1) (field h 8 2) 0xFFFF then 7
  else if s.bit CFG.POLICY 0 = true ∨ s.bit CFG.POLICY 2 = true then 0xB
  else if l.full then 0 else partialCause (field h 8 2) s

/-- A header that has passed. -/
def headerOf (l : LoadS) (h : Nat) : Header :=
  if isOxf5 l then ⟨true, 0, 0, 0, field h 8 2, field h 16 8, 0, field h 24 4, field h 96 32, h⟩
  else ⟨false, field h 11 1, field h 12 4, field h 32 12, field h 44 4, field h 48 8, field h 56 4, field h 60 4, 0, h⟩

/-- A facet of the region begins to load: held, CFG.FACET_STATE 1, no frames for the loupe, its panes' queues emptied
(R419, R434, R441; 10 R281; 17 R451, R452). -/
def facetBegins (full : Bool) (s : State) (f : Nat) : State :=
  let s := (((holdFacet f s).wr (CFG.FACET_STATE f) 1).setBit CFG.LOUPE_DAMAGED f false).modFacet f fun x =>
    { x with ever := x.ever && !full }
  let s := modCfg (fun x => { x with refs := x.refs.filter (fun r => !(Nat.beq r.id.f f)),
                                     damaged := x.damaged.filter (fun d => !(Nat.beq d.f f)) }) s
  failWaiting f ((List.range 48).foldl (fun s j => discardQueue (48 * f + j) s) s)

/-! The order of a pass of the loupe (17 R445). -/

/-- The frame at a scan position: for each facet MANIFEST, CELL rows, ROUTE rows, IO. -/
def frameAtPos (p : Nat) : FrameId :=
  let i := p % 130
  if i = 0 then ⟨p / 130, 1, 0⟩ else if i ≤ 64 then ⟨p / 130, 2, i - 1⟩ else if i ≤ 128 then ⟨p / 130, 3, i - 65⟩ else ⟨p / 130, 5, 0⟩
/-- Does the pass take the frame at a position: its facet is in state 2, and has an IO frame if it is one (R438)? -/
def scanned (s : State) (p : Nat) : Bool :=
  Nat.beq (s.rd (CFG.FACET_STATE (p / 130))) 2
    && (p % 130 != 129 || s.cfg.refs.any fun r => decide (r.id = ⟨p / 130, 5, 0⟩))
/-- The first position of the pass from p on. -/
def scanFrom (p : Nat) (s : State) : Option Nat := ((List.range (4160 - p)).map (p + ·)).find? (scanned s)
/-- Is the loupe enabled (17 R455)? -/
def loupeOn (s : State) : Bool := s.bit CFG.LOUPE_EN 0
/-- A pass that began at from' ends now: counted, with its length in microseconds. -/
def passEnds (from' : Nat) (s : State) : State :=
  modCfg (fun c => { c with scan := 0, passAt := s.now })
    ((s.bump 64 CFG.LOUPE_PASSES).wr CFG.LOUPE_PASS_TIME (min ((s.now - from') / ticksPerUs) (2 ^ 32 - 1)))
/-- A pass of which no frame is left ends. -/
def passCheck (s : State) : State :=
  if (s.cfg.scan != 0 && loupeOn s && (scanFrom s.cfg.scan s).isNone) = true then passEnds s.cfg.passAt s else s

/-- The panes at the start of a full load: zeros, and the words no queue has pushed since (10 R281). -/
def paneClear (s : State) : State :=
  s.panes.foldl (fun t e => t.modPane e.1 fun x => { x with used := false })
    { s with mem := memClear s.mem (paneBase 0) (1536 * 0x2000) }

/-- The header has passed (R419, R426, R434). -/
def headerPasses (l : LoadS) (h : Header) (s : State) : State :=
  let s := s.upto (fabEdge (s.now + 1))
  let fs := if l.full then List.range 32 else facetsIn h.region
  let s := abandon (fun x _ => fs.contains x.f) s
  let s := fs.foldl (facetBegins l.full) (if l.full then s.setBit HDI.STATUS 3 false else s)
  let s := if l.full then paneClear s else s
  let s := (fs.filter fun f => !(h.region.testBit f)).foldl (fun s f =>
    (s.wr (CFG.FACET_STATE f) 0).modFacet f fun x => { x with man := ⟨0, [], 0, 0, false⟩ }) s
  let s := passCheck s
  modCfg (fun x => { x with load := some { l with hdr := some h, headAt := s.now } })
    ((s.wr CFG.LOAD_REGION h.region).wr CFG.LOAD_STATE 3)

/-- STREAM_HEADER: flash discovery where the source is flash, then the header's checks (R416, R419, R426, R435). -/
def execStreamHeader (s : State) : Out :=
  .next <|
    match s.cfg.load with
    | none => s
    | some l =>
      if l.hdr.isSome then s
      else
        let s := if l.src = 0 then s.upto (l.dataAt + 110 * ticksPerUs) else s
        let s := if l.src = 0 then modCfg (fun x => { x with flashMode := if l.flash.present && l.flash.sfdp then modeOf l.flash s else 0 }) s else s
        if l.src = 0 ∧ (l.flash.present && l.flash.sfdp) = false then loadFail 2 0 (s.wr CFG.FLASH_INFO 0)
        else if streamHas l 4 = false ∨ streamHas l (headerLen l) = false then s
        else
          let h := streamBytes l 0 (headerLen l)
          let s := if l.src = 0 then (s.wr CFG.FLASH_INFO (flashInfo l.flash s)).wr CFG.LOAD_BYTES (headerLen l) else s
          let c := if isOxf5 l then oxf5Cause l h s else nativeCause l h s
          if c = 0 then headerPasses (if l.src = 0 then { l with got := headerLen l } else l) (headerOf l h) s else loadFail c 0 s

/-! Chunks (R420, R421). -/

/-- The key that KEYSRC names. -/
def keyOf (h : Header) (s : State) : Nat := if h.keysrc = 1 then s.cfg.fuseKey else s.cfg.bbKey
/-- The nonce of chunk c. -/
def nonceOf (h : Header) (c : Nat) : Nat := h.iv / 2 ^ 32 * 2 ^ 32 + (h.iv + c) % 2 ^ 32
/-- The tag that chunk c of n body bytes must carry. -/
def tagFor (h : Header) (c body n : Nat) (s : State) : Nat :=
  let aad := h.raw + c % 2 ^ 32 * 2 ^ 2048
  if h.keysrc = 0 then sha256 (aad + body * 2 ^ 2080) (260 + n) % 2 ^ 128
  else gcmTag (keyOf h s) (nonceOf h c) aad 260 body n % 2 ^ 128
/-- Its body bytes, decrypted. -/
def plainOf (h : Header) (c body n : Nat) (s : State) : Nat :=
  if h.keysrc = 0 then body else gcmPlain (keyOf h s) (nonceOf h c) body n % 2 ^ (8 * n)

/-- A received chunk used up: the host's and the port's bytes leave their buffer. -/
def dropTo (pos : Nat) (l : LoadS) : LoadS :=
  if l.src = 0 then l else { l with buf := l.buf / 2 ^ (8 * (pos - l.base)), base := pos }

/-- CHUNK_CHECK: the next chunk, once its last byte has come. -/
def execChunkCheck (s : State) : Out :=
  .next <|
    match s.cfg.load with
    | none => s
    | some l =>
      match l.hdr with
      | none => s
      | some h =>
        let n := chunkLen' h l.chunk
        let pos := 256 + l.chunk * chunkSize
        if h.oxf5 = true ∨ h.chunks ≤ l.chunk ∨ streamHas l (pos + n + 16) = false then s
        else
          let s := if l.src = 0 then
              (s.upto (l.headAt + flashTicks l.flash (pos + n + 16 - 256) s)).wr CFG.LOAD_BYTES (pos + n + 16)
            else s
          let body := streamBytes l pos n
          if streamBytes l (pos + n) 16 ≠ tagFor h l.chunk body n s then loadFail 6 (l.chunk * chunkBody) s
          else
            flpNext (modCfg (fun x => { x with load := some (dropTo (pos + n + 16) { l with
              got := max l.got (pos + n + 16), chunk := l.chunk + 1,
              body := l.body + plainOf h l.chunk body n s * 2 ^ (8 * l.bodyLen), bodyLen := l.bodyLen + n }) }) s)

/-! Frames (R422, R423, R427). -/

/-- n body bytes from the next frame on have passed their checks. -/
def bodyHas (l : LoadS) (h : Header) (n : Nat) : Bool :=
  if h.oxf5 then streamHas l (128 + l.bodyAt + n) else Nat.ble n l.bodyLen
/-- Those bytes. -/
def bodyBytes (l : LoadS) (h : Header) (off n : Nat) : Nat :=
  if h.oxf5 then streamBytes l (128 + l.bodyAt + off) n else l.body / 2 ^ (8 * off) % 2 ^ (8 * n)

/-- Payload bytes of a frame type; 0 names none (R422). -/
def payloadLen (t : Nat) : Nat := if t = 15 then 8 else [0, 1024, 2560, 3584, 8192, 256].getD t 0
/-- Is TYPE one that the stream's format has (R422, R427)? -/
def typeOk (oxf5 : Bool) (t : Nat) : Bool := if oxf5 then [1, 2, 3, 15].contains t else payloadLen t != 0
/-- Do FACET and INDEX name a frame of the type inside the region? -/
def frameInside (region t f i : Nat) : Bool :=
  if t = 15 then Nat.beq f 0 && Nat.beq i 0
  else Nat.blt f 32 && region.testBit f && Nat.blt i ([0, 1, 64, 64, 48, 1].getD t 0) && (t != 5 || Nat.ble 22 f)
/-- The cause with which checks 1 to 3 of a frame header w end the load; 0 if they pass. A frame that would run past the
body does not have its length. -/
def frameCause (l : LoadS) (h : Header) (w : Nat) (s : State) : Nat :=
  let t := field w 0 1
  let f := field w 1 1
  let id : FrameId := ⟨f, t, field w 2 2⟩
  let len := field w 4 4
  if typeOk h.oxf5 t = false ∨ field w 8 8 ≠ 0 then 7
  else if frameInside h.region t f (field w 2 2) = false then 8
  else if (h.oxf5 = false ∧ len ≠ payloadLen t) ∨ h.bodyLen < l.bodyAt + 16 + len then 7
  else if t = 15 then 0
  else if (t ≠ 1 ∧ (l.seen.any fun x => decide (x.id = ⟨f, 1, 0⟩)) = false) ∨ (l.seen.any fun x => decide (x.id = id)) = true
      ∨ (t ≠ 1 ∧ (s.facetOf f).man.frames ≤ framesOf l f) then 7
  else 0

/-- n stored bytes of tokens expanded to exactly k bytes (R427). -/
def expand : (fuel n v k : Nat) → Option Nat
  | 0, _, _, _ => none
  | fuel + 1, n, v, k =>
    if n = 0 then (if k = 0 then some 0 else none)
    else
      let t := v % 256
      if t < 128 then
        if n < t + 2 ∨ k < t + 1 then none
        else (expand fuel (n - (t + 2)) (v / 2 ^ (8 * (t + 2))) (k - (t + 1))).map fun r =>
          v / 256 % 2 ^ (8 * (t + 1)) + r * 2 ^ (8 * (t + 1))
      else
        let z := (t - 127) * 4
        if k < z then none else (expand fuel (n - 1) (v / 256) (k - z)).map fun r => r * 2 ^ (8 * z)

/-- What a reload of the next frame would read of the stream: the bytes of every chunk that holds a byte of it, or, in
the OXF-5 format, its own (17 R446, R450). -/
def refSpan (l : LoadS) (h : Header) (size : Nat) : Nat × Nat :=
  if h.oxf5 then (128 + l.bodyAt, 128 + l.bodyAt + size)
  else (256 + l.bodyAt / chunkBody * chunkSize, min (256 + ((l.bodyAt + size - 1) / chunkBody + 1) * chunkSize) (streamLen h))

/-- Position in the stream of body byte b (17 R446). -/
def streamPos (h : Header) (b : Nat) : Nat :=
  if h.oxf5 then 128 + b else 256 + b / chunkBody * chunkSize + b % chunkBody

/-- The frame of the given size is used up; a facet of a native load in hold mode that is complete with it is released on
the next FAB edge (R439; 05 R156). -/
def frameDone (l : LoadS) (h : Header) (id : FrameId) (size payload : Nat) (s : State) : State :=
  let sp := refSpan l h size
  let l' := { l with
    bodyAt := l.bodyAt + size,
    body := l.body / 2 ^ (8 * size), bodyLen := l.bodyLen - size,
    seen := l.seen ++ [⟨id, streamPos h l.bodyAt, sp.1, sp.2, crc32 payload (payloadLen id.type)⟩],
    decoded := if h.oxf5 then l.decoded + (bodyBytes l h 0 16 + payload * 2 ^ 128) * 2 ^ (8 * l.decodedLen) else 0,
    decodedLen := if h.oxf5 then l.decodedLen + 16 + payloadLen id.type else 0 }
  let l' := if h.oxf5 then dropTo (128 + l'.bodyAt) l' else l'
  let s := modCfg (fun x => { x with load := some l' })
    { s with upsets := s.upsets.filter fun u => !(decide ((⟨u.f, u.type, u.index⟩ : FrameId) = id)) }
  if l.full = false ∧ l.src ≠ 2 ∧ h.oxf5 = false ∧ framesOf l' id.f = (s.facetOf id.f).man.frames then
    let e := fabEdge (s.now + 1)
    releaseFacet id.f e (facetLoaded l' h id.f (s.upto e))
  else s

/-- n body bytes from the next frame on have been read: those of an OXF-5 stream in flash count as they are (R436, R442). -/
def frameRead (l : LoadS) (h : Header) (n : Nat) (s : State) : State :=
  if h.oxf5 = true ∧ l.src = 0 then
    (s.upto (l.headAt + flashTicks l.flash (l.bodyAt + n) s)).wr CFG.LOAD_BYTES (128 + l.bodyAt + n)
  else s

/-- A frame row of type t: the next frame, once it has come and if it is of that type or of none. bad: a select field is
not one-hot; ready: the frame can be written now; put writes its payload to a facet and index. -/
def frameRow (t : Nat) (bad : Bool) (ready : Nat → State → Bool) (put : (f i payload : Nat) → State → State) (s : State) : State :=
  match s.cfg.load with
  | none => s
  | some l =>
    match l.hdr with
    | none => s
    | some h =>
      if h.bodyLen < l.bodyAt + 16 then loadFail 7 l.bodyAt s
      else if bodyHas l h 16 = false then s
      else
        let w := bodyBytes l h 0 16
        let len := field w 4 4
        let c := frameCause l h w s
        if field w 0 1 ≠ t ∧ typeOk h.oxf5 (field w 0 1) = true then s
        else if c ≠ 0 then
          let s := frameRead l h 16 s
          loadFail c l.bodyAt (if c = 8 then s.raise 34 else s)
        else if bodyHas l h (16 + len) = false ∨ ready (field w 1 1) s = false then s
        else
          let s := frameRead l h (16 + len) s
          let p := bodyBytes l h 16 len
          match (if h.oxf5 then expand (len + 1) len p (payloadLen t) else some p) with
          | none => loadFail 7 l.bodyAt s
          | some p =>
            if bad then loadFail 9 l.bodyAt (s.raise 35)
            else frameDone l h ⟨field w 1 1, t, field w 2 2⟩ (16 + len) p (put (field w 1 1) (field w 2 2) p s)

/-- No wait before a frame is written. -/
def always (_ : Nat) (_ : State) : Bool := true

/-- MANIFEST_FRAME: the manifest is taken, and sets PAN.MODE of each pane (10 R281). -/
def putManifest (c : Manifest) (f _i _p : Nat) (s : State) : State :=
  (List.range 48).foldl (fun s j => resetTaps (48 * f + j) (paneModeEff (48 * f + j) (if c.queueMask.testBit j then 1 else 0) s))
    (s.modFacet f fun x => { x with man := c })
/-- MANIFEST_FRAME. -/
def execManifestFrame (c : Manifest) (s : State) : Out := .next (frameRow 1 false always (putManifest c) s)

/-- Configuration of a cell written. -/
def putCell (k : Nat) (c : CellCfg) (s : State) : State :=
  { s with cellCfg := Tab.set (fun _ => ⟨[], false, false, 0, 0#16, 0#16, 0#16⟩) s.cellCfg k c }
/-- The cells of a row written. -/
def putCells (c : List CellCfg) (f v _p : Nat) (s : State) : State :=
  (List.range 64).foldl (fun s u => putCell (cellKey (colOf f u) (rowOf f v)) (c.getD u ⟨[], false, false, 0, 0#16, 0#16, 0#16⟩) s) s
/-- CELL_FRAME. -/
def execCellFrame (c : List CellCfg) (s : State) : Out := .next (frameRow 2 false always (putCells c) s)

/-- Select of a track set. -/
def setTrack (k v : Nat) (s : State) : State := { s with tracks := Tab.set (fun _ => 1) s.tracks k v }
/-- Select number i of the frame of row v of FACETf written. -/
def putSelect (f v i w : Nat) (s : State) : State :=
  if i < 512 then { s with sels := Tab.set (fun _ => 1) s.sels (cellKey (colOf f (i / 8)) (rowOf f v) * 8 + i % 8) w }
  else match trackOf f v i with
    | some k => setTrack k w s
    | none => s
/-- Selects from number i on written. -/
def putSelects (f v : Nat) : Nat → List Nat → State → State
  | _, [], s => s
  | i, w :: ws, s => putSelects f v (i + 1) ws (putSelect f v i w s)
/-- Is a select not one-hot (05 R150)? -/
def selsBad : Nat → List Nat → Bool
  | _, [] => false
  | i, w :: ws => (oneHot w (selWidth i)).isNone || Nat.ble (2 ^ selWidth i) w || selsBad (i + 1) ws
/-- Places of selects in the frame of a row. -/
abbrev rowSelects : Nat := 2716
/-- The selects of a whole row: those beyond the list select source 0 (log entry 20). -/
def wholeRow (sels : List Nat) : List Nat := sels ++ List.replicate (rowSelects - sels.length) 1
/-- ROUTE_FRAME. -/
def execRouteFrame (sels : List Nat) (s : State) : Out :=
  .next (frameRow 3 (selsBad 0 sels) always (fun f v _ s => putSelects f v 0 (wholeRow sels) s) s)

/-- Initial content of pane j of FACETf; of a pane for which the manifest declares none it stays (10 R281; log entry 20). -/
def putPane (f j p : Nat) (s : State) : State :=
  if (s.facetOf f).man.paneMask.testBit j then s.store (paneBase (48 * f + j)) 0x2000 p else s
/-- PANE_FRAME: initial content of a pane for which the manifest declares it (10 R281); a domain that is off wakes, and the frame
waits for the end of its clear (R441). -/
def execPaneFrame (s : State) : Out :=
  .next <|
    let t := frameRow 4 false (fun f s => Nat.beq (s.rd (CRH.PWR_STATE f)) 3) (putPane) s
    match s.cfg.load with
    | some l =>
      match l.hdr with
      | some h =>
        let w := bodyBytes l h 0 16
        if bodyHas l h 16 = true ∧ field w 0 1 = 4 ∧ frameCause l h w s = 0 ∧ s.rd (CRH.PWR_STATE (field w 1 1)) = 0 then
          wakeDomain (field w 1 1) s
        else t
      | none => t
    | none => t

/-- IO_FRAME: settings of a GIO bank. -/
def execIoFrame (s : State) : Out :=
  .next (frameRow 5 false always (fun f _ p s => s.modFacet f (fun x => { x with io := p })) s)

/-! END (R423, R427, R434, R440). -/

/-- Has every facet of the region received exactly its FRAMES? -/
def allComplete (l : LoadS) (h : Header) (s : State) : Bool :=
  (facetsIn h.region).all fun f => facetComplete l f s

/-- The load has completed: facets not yet in state 2 reach it, and those to be released are, on one FAB edge. -/
def loadCompletes (l : LoadS) (h : Header) (s : State) : State :=
  let e := fabEdge (s.now + 1)
  let fs := (facetsIn h.region).filter fun f => Nat.beq (s.rd (CFG.FACET_STATE f)) 1
  let s := fs.foldl (fun s f => facetLoaded l h f s) (s.upto e)
  let s := (fs.filter fun f => l.src != 2 && !(l.full && h.relcmd.testBit f)).foldl (fun s f => releaseFacet f e s) s
  loadEnd 1 0 (if l.full then s.setBit HDI.STATUS 3 true else s)

/-- END_FRAME. -/
def execEndFrame (s : State) : Out :=
  .next <|
    match s.cfg.load with
    | none => s
    | some l =>
      match l.hdr with
      | none => s
      | some h =>
        if h.bodyLen < l.bodyAt + 16 then loadFail 7 l.bodyAt s
        else if bodyHas l h 16 = false then s
        else
          let w := bodyBytes l h 0 16
          let len := field w 4 4
          let c := frameCause l h w s
          if field w 0 1 ≠ 15 ∧ typeOk h.oxf5 (field w 0 1) = true then s
          else if c ≠ 0 then
            let s := frameRead l h 16 s
            loadFail c l.bodyAt (if c = 8 then s.raise 34 else s)
          else if bodyHas l h (16 + len) = false then s
          else
            let s := frameRead l h (16 + len) s
            let p := bodyBytes l h 16 len
            match (if h.oxf5 then expand (len + 1) len p 8 else some p) with
            | none => loadFail 7 l.bodyAt s
            | some p =>
              if l.bodyAt + 16 + len ≠ h.bodyLen ∨ p ≠ l.seen.length + 1 ∨ allComplete l h s = false then loadFail 7 l.bodyAt s
              else if h.oxf5 = true ∧ sha256 (l.decoded + (w + p * 2 ^ 128) * 2 ^ (8 * l.decodedLen)) (l.decodedLen + 24) ≠ h.digest then
                loadFail 6 l.bodyAt s
              else
                loadCompletes l h (if l.src = 0 then
                  (s.upto (l.headAt + flashTicks l.flash (streamLen h - headerLen l) s)).wr CFG.LOAD_BYTES (streamLen h) else s)

/-! Keys (R428 to R431). -/

/-- Conditions of KEY_CTRL command code; a code that is not listed asks for no level of its own. -/
def keyConds (q : Req) (code : Nat) (s : State) : List (Bool × Nat) :=
  let noId := Nat.beq (s.cfg.stage / 2 ^ 256 % 2 ^ 64) 0
  needLevel q (if code = 1 ∨ code = 2 then 2 else if code = 3 ∨ code = 4 then 3 else 1) s :: (s.bit CFG.KEY_STATUS 3, 8) ::
    match code with
    | 1 => [(noId, 4), (Nat.blt (s.rd (CRH.VOLT 16)) 1200, 7), (s.bit CFG.POLICY 1, 9)]
    | 3 => [(noId, 4), (s.bit CFG.KEY_STATUS 0, 9)]
    | _ => []

/-- The battery-backed key zeroised, for the reason of bit b of CFG.TAMPER_CAUSE (R430). -/
def zeroiseKey (b : Nat) (s : State) : State :=
  let s := (((s.wr CFG.BBRAM_KEY_ID 0).setBit CFG.KEY_STATUS 1 false).setBit CFG.TAMPER_CAUSE b true).note CFG.TAMPER_CAUSE b
  let s := (modCfg (fun c => { c with bbKey := 0 }) s).bump 32 CFG.TAMPER_COUNT
  if mpllLocked s then s.raise 36 else modCfg (fun c => { c with zeroised := c.zeroised + 1 }) s

/-- A key command taken; all but ZEROISE take their value from CFG.KEY_STAGE and clear it. -/
def keyEff (code : Nat) (s : State) : State :=
  let s := s.setBit CFG.KEY_STATUS 3 true
  if code = 2 then modCfg (fun c => { c with job := some (2, 0) }) (zeroiseKey 1 s)
  else modCfg (fun c => { c with job := some (code, c.stage), stage := 0 }) s
/-- WRITE_BBRAM. -/
def execWriteBbram (q : Req) (s : State) : Out := .next (command q CFG.KEY_CTRL 1 (keyConds q 1 s) (keyEff 1) s)
/-- ZEROISE. -/
def execZeroise (q : Req) (s : State) : Out := .next (command q CFG.KEY_CTRL 2 (keyConds q 2 s) (keyEff 2) s)
/-- FUSE_KEY. -/
def execFuseKey (q : Req) (s : State) : Out := .next (command q CFG.KEY_CTRL 3 (keyConds q 3 s) (keyEff 3) s)
/-- FUSE_POLICY. -/
def execFusePolicy (q : Req) (s : State) : Out := .next (command q CFG.KEY_CTRL 4 (keyConds q 4 s) (keyEff 4) s)

/-- What a key command leaves; ok: its readback agrees. After one that does not, what the fuses hold is not given (log
entry 9). -/
def keyEnds (code v : Nat) (ok : Bool) (s : State) : State :=
  match code with
  | 1 =>
    modCfg (fun c => { c with bbKey := v % 2 ^ 256 }) ((s.wr CFG.BBRAM_KEY_ID (v / 2 ^ 256 % 2 ^ 64)).setBit CFG.KEY_STATUS 1 true)
  | 3 =>
    let w := if ok then v else s.freeVal
    (modCfg (fun c => { c with fuseKey := w % 2 ^ 256 })
      ((s.wr CFG.FUSE_KEY_ID (w / 2 ^ 256 % 2 ^ 64)).setBit CFG.KEY_STATUS 0 true)).drawn
  | 4 => (s.wr CFG.POLICY (s.rd CFG.POLICY ||| v % 16 &&& (if ok then 15 else s.freeVal))).drawn
  | _ => s

/-- KEY_COMMAND_END: EV037. -/
def execKeyCommandEnd (ok : Bool) (s : State) : Out :=
  .next <|
    match s.cfg.job with
    | some (code, v) =>
      ((modCfg (fun c => { c with job := none }) (keyEnds code v ok s)).setBit CFG.KEY_STATUS 3 false
        |>.setBit CFG.KEY_STATUS 2 (!ok && Nat.ble 3 code)).raise 37
    | none => s

/-- TAMPER: 0 TAMPER_N, 2 VBAT, 3 the battery domain's temperature; 4 the domain loses its content altogether, so that the
rest of its two registers is open (R430, log entry 9). -/
def execTamper (cause : Nat) (s : State) : Out :=
  match cause with
  | 0 => .next (zeroiseKey 0 s)
  | 2 => .next (zeroiseKey 2 s)
  | 3 => .next (zeroiseKey 3 s)
  | 4 =>
    let t := (((s.wr CFG.BBRAM_KEY_ID 0).setBit CFG.KEY_STATUS 1 false).wr CFG.TAMPER_CAUSE (16 + s.freeVal % 16)).wr CFG.TAMPER_COUNT
      (s.freeVal / 16 % 2 ^ 32)
    .next ((List.range 5).foldl (fun t b => t.note CFG.TAMPER_CAUSE b) (modCfg (fun c => { c with bbKey := 0 }) t).drawn)
  | _ => .fault .noSuchUnit

end Sys2Proof.Machine
end

