-- ==== Sys2Proof/Machine/Loupe.lean ====
section
/-! DEFINITION. The loupe: scan, correction, reload and heartbeat (17_scrubbing.md R445 to R458). -/
namespace Sys2Proof.Machine

/-- Flag b of CFG.LOUPE_EVFLAGS with its event: 0 CE, 1 SEL, 2 UE, 3 RELOADED, 4 DAMAGED, 5 SELF (R457, R458). -/
def loupeFlag (b : Nat) (s : State) : State := s.flag CFG.LOUPE_EVFLAGS b (if b < 2 then 41 + b else 42 + b)
/-- CFG.LOUPE_LAST: KIND 1 corrected, 2 select, 3 uncorrectable. -/
def loupeLast (kind : Nat) (x : FrameId) (s : State) : State :=
  s.wr CFG.LOUPE_LAST (kind * 2 ^ 24 + x.type * 2 ^ 16 + x.f * 2 ^ 8 + x.index)
/-- CONFIG_UPSET: a configuration bit flips until the loupe corrects its frame; the same bit struck again flips back. One in
the loupe itself is voted out or corrected as it comes, and counted (R453; log entry 20). -/
def execConfigUpset (u : Upset) (s : State) : Out :=
  if u.f < 32 then
    .next <|
      if u.target = .own then loupeFlag 5 (s.bump 64 CFG.LOUPE_SELF_CE)
      else { flipTarget u s with upsets := if s.upsets.contains u then s.upsets.erase u else s.upsets ++ [u] }
  else .fault .noSuchUnit

/-! Scanning (R445). -/

/-- Ticks of a frame: 4 bytes per SUPCLK, and 16 SUPCLK for the change. -/
def scanTicks (x : FrameId) : Nat := (payloadLen x.type + 64) * ticksPerNs

/-! Finding and correcting (R447, R448, R450). -/

/-- Is the upset one of the frame? -/
def upsetOf (x : FrameId) (u : Upset) : Bool := Nat.beq u.f x.f && Nat.beq u.type x.type && Nat.beq u.index x.index
/-- Does the upset's select field hold a value that is not one-hot? -/
def selBroken (s : State) (u : Upset) : Bool :=
  match u.target with
  | .sel i _ => Nat.beq u.type 3 && !(selOk (selOf (cellKey (colOf u.f (u.u % 64)) (rowOf u.f (u.index % 64))) (i % 8) s))
  | .track i _ =>
    match trackOf u.f (u.index % 64) i with
    | some k => Nat.beq u.type 3 && (oneHot (Tab.get (fun _ => 1) s.tracks k) (selWidth i)).isNone
    | none => false
  | _ => false
/-- The upsets undone. -/
def undo (us : List Upset) (s : State) : State :=
  us.foldl (fun s u => { flipTarget u s with upsets := s.upsets.erase u }) s

/-- One word of the frame, with the upsets us in it: one is corrected in place, on the next FAB edge; a select that is not one-hot
is counted. -/
def scanWord (x : FrameId) (us : List Upset) (s : State) : State :=
  let sel := us.any (selBroken s)
  let s := match us with
    | [u] => loupeLast 1 x (loupeFlag 0 ((undo [u] (s.upto (fabEdge (s.now + 1)))).bump 64 CFG.LOUPE_CE))
    | _ => s
  if sel then loupeLast 2 x (loupeFlag 1 (s.bump 64 CFG.LOUPE_SEL)) else s

/-- Must a frame wait: its facet reloads from flash while a load reads flash (R452)? -/
def reloadWaits (s : State) (x : FrameId) : Bool :=
  Nat.beq (s.rd (CFG.LOUPE_SRC_TYPE x.f)) 1 && (match s.cfg.load with | some l => Nat.beq l.src 0 | none => false)

/-- Frames that may wait: 8, beside one that reloads or can begin to at once (R450). -/
def waitRoom (x : FrameId) (s : State) : Nat :=
  if s.cfg.reload.isSome || (s.cfg.waiting ++ [x]).all (reloadWaits s) then 8 else 9

/-- An uncorrectable frame found: it waits for its reload, or is counted where there is no room (R450). -/
def uncorrectable (x : FrameId) (s : State) : State :=
  let s := loupeLast 3 x (loupeFlag 2 (s.bump 64 CFG.LOUPE_UE))
  if s.cfg.waiting.contains x || (s.cfg.reload.any fun r => decide (r.frame = x)) then s
  else if s.cfg.waiting.length < waitRoom x s then modCfg (fun c => { c with waiting := c.waiting ++ [x] }) s
  else s.bump 64 CFG.LOUPE_DEFERRED

/-- A number put into a rising list, once. -/
def putNum (w : Nat) : List Nat → List Nat
  | [] => [w]
  | x :: xs => if w < x then w :: x :: xs else if w = x then x :: xs else x :: putNum w xs
/-- The words of a frame that upsets have struck, in order, each once. -/
def struckWords (us : List Upset) : List Nat := us.foldr (fun u l => putNum u.word l) []
/-- The instant at which word w of a frame begun at that instant has been read: 4 bytes per SUPCLK (R445). -/
def wordRead (begun w : Nat) : Nat := begun + (w + 1) * 8 * ticksPerNs

/-- Does the CRC of the frame agree with its reference? It does where no bit of the frame differs from what the load wrote (R447;
log entry 20). -/
def crcAgrees (x : FrameId) (s : State) : Bool := (s.upsets.filter (upsetOf x)).isEmpty

/-- The words of a frame begun at that instant in turn, then its CRC. -/
def scanFrame (x : FrameId) (begun : Nat) (s : State) : State :=
  let us := s.upsets.filter (upsetOf x)
  let s := (struckWords us).foldl (fun s w => scanWord x (us.filter fun u => Nat.beq u.word w) (s.upto (wordRead begun w))) s
  if crcAgrees x s then s else uncorrectable x s

/-- The heartbeat rises by one; it wraps (R454). -/
def heartbeat (s : State) : State := s.wr CFG.LOUPE_HEARTBEAT ((s.rd CFG.LOUPE_HEARTBEAT + 1) % 2 ^ 32)

/-- LOUPE_FRAME_SCAN: the next frame of the pass, of a new one if the last has ended. -/
def execLoupeFrameScan (s : State) : Out :=
  .next <|
    if loupeOn s then
      match (scanFrom s.cfg.scan s).or (scanFrom 0 s) with
      | none => s
      | some p =>
        let x := frameAtPos p
        let t0 := max s.now s.cfg.scanAt
        let from' := if s.cfg.scan = 0 then t0 else s.cfg.passAt
        let s := heartbeat ((scanFrame x t0 s).upto (t0 + scanTicks x))
        match scanFrom (p + 1) s with
        | some p' => modCfg (fun c => { c with scan := p', scanAt := s.now, passAt := from' }) s
        | none => modCfg (fun c => { c with scanAt := s.now }) (passEnds from' s)
    else s

/-! Reloading (R450, R451). -/

/-- The next 256-byte C3 read of a reload from the mesh; one is under way at a time. -/
def reloadNext (s : State) : State :=
  match s.cfg.reload with
  | some r =>
    if r.src = 2 ∧ r.wait = none ∧ r.next < r.stop ∧ r.bad = false then
      let q : MeshReq := ⟨.read, .reload, 0, 3, r.addr + r.next, 256, 0⟩
      meshSend q (modCfg (fun c => { c with reload := some { r with wait := some q, next := r.next + 256 } }) s)
    else s
  | none => s

/-- LOUPE_RELOAD: the first waiting frame that may starts its reload. -/
def execLoupeReload (s : State) : Out :=
  .next <|
    if loupeOn s = true ∧ s.cfg.reload = none then
      match s.cfg.waiting.find? fun x => !(reloadWaits s x) with
      | some x =>
        let span := ((s.cfg.refs.find? fun r => decide (r.id = x)).map fun r => (r.lo, r.hi)).getD (0, 0)
        let a := span.1 / 256 * 256
        reloadNext (modCfg (fun c => { c with
          waiting := c.waiting.erase x,
          reload := some ⟨x, s.rd (CFG.LOUPE_SRC_TYPE x.f), a, span.2, none, false, s.rd (CFG.LOUPE_SRC_ADDR x.f), a, 0⟩ }) s)
      | none => s
    else s

/-- A response to the reload, or to one that has been dropped. -/
def reloadDone (x : MeshResp) (s : State) : State :=
  let s := respTaken x s
  if s.cfg.drop.contains x.req then modCfg (fun c => { c with drop := c.drop.erase x.req }) s
  else reloadNext (modCfg (fun c => { c with reload := c.reload.map fun r =>
    { r with wait := none, bad := r.bad || Nat.beq x.kind 2, buf := r.buf + x.data % 2 ^ 2048 * 2 ^ (8 * (r.next - 256 - r.base)) } }) s)

/-- A reload has failed: the facet is damaged, and stopped with its engine if CFG.LOUPE_CFG says so. -/
def reloadFailed (x : FrameId) (s : State) : State :=
  let s := loupeFlag 4 ((s.bump 64 CFG.LOUPE_RELOAD_FAIL).setBit CFG.LOUPE_DAMAGED x.f true)
  let s := modCfg (fun c => { c with damaged := if c.damaged.contains x then c.damaged else c.damaged ++ [x] }) s
  if s.bit CFG.LOUPE_CFG 0 && Nat.beq (s.rd (VEN.APG_BIND x.f)) 1 && veLive x.f s then veStopEff x.f s else s

/-- n bytes of the stream from position pos on, as the reload has read them: from flash, or by its mesh reads. -/
def reloadBytes (r : Reload) (s : State) (pos n : Nat) : Nat :=
  if r.src = 1 then flashBytes s.cfg.flash (r.addr + pos) n else r.buf / 2 ^ (8 * (pos - r.base)) % 2 ^ (8 * n)

/-- The body bytes of k chunks from chunk c on, decrypted, if the tag of each agrees (R450; 16 R420). -/
def reloadChunks (r : Reload) (h : Header) (s : State) : (k c : Nat) → Option Nat
  | 0, _ => some 0
  | k + 1, c =>
    let n := chunkLen' h c
    let pos := 256 + c * chunkSize
    let body := reloadBytes r s pos n
    if reloadBytes r s (pos + n) 16 = tagFor h c body n s then
      (reloadChunks r h s k (c + 1)).map fun rest => plainOf h c body n s + rest * 2 ^ (8 * n)
    else none

/-- The payload of the frame of a reference as its source holds it: out of its chunks, or, from an OXF-5 stream, decoded at its
offset (R450). -/
def reloadPayload (r : Reload) (e : FrameRef) (h : Header) (s : State) : Option Nat :=
  if h.oxf5 then
    let len := field (reloadBytes r s e.off 16) 4 4
    expand (len + 1) len (reloadBytes r s (e.off + 16) len) (payloadLen e.id.type)
  else
    let c := (e.lo - 256) / chunkSize
    (reloadChunks r h s ((e.hi - e.lo + chunkSize - 1) / chunkSize) c).map fun d => field d ((e.off - e.lo) + 16) (payloadLen e.id.type)

/-- Does the source give back the frame that was loaded: the tags agree, and the CRC is that of the reference (R450, R451)? -/
def reloadGood (r : Reload) (s : State) : Bool :=
  match s.cfg.refs.find? fun e => decide (e.id = r.frame), s.cfg.heads.find? fun e => Nat.beq e.1 r.frame.f with
  | some e, some h =>
    match reloadPayload r e h.2 s with
    | some p => Nat.beq (crc32 p (payloadLen e.id.type)) e.crc
    | none => false
  | _, _ => false

/-- LOUPE_RELOAD_END: all reads have been answered; ok: none from flash has failed. The frame is written whole on one FAB edge, with
fresh check bits, or the reload fails. -/
def execLoupeReloadEnd (ok : Bool) (s : State) : Out :=
  .next <|
    match s.cfg.reload with
    | some r =>
      if r.wait.isSome || (Nat.beq r.src 2 && !r.bad && Nat.blt r.next r.stop) then s
      else
        let s := modCfg (fun c => { c with reload := none }) s
        if ok && r.src != 0 && !r.bad && reloadGood r s then
          let s := s.upto (fabEdge (s.now + 1))
          let s := undo (s.upsets.filter (upsetOf r.frame)) s
          loupeFlag 3 ((modCfg (fun c => { c with damaged := c.damaged.erase r.frame }) s).bump 64 CFG.LOUPE_RELOADS)
        else reloadFailed r.frame s
    | none => s

/-! Heartbeat and enable (R454, R455). -/

/-- LOUPE_HEARTBEAT_IDLE: the heartbeat while the loupe is idle or waits on a reload. -/
def execLoupeHeartbeatIdle (s : State) : Out :=
  .next (if loupeOn s = true ∧ (scanFrom 0 s = none ∨ s.cfg.reload.isSome = true) then heartbeat s else s)

/-- HEARTBEAT_CHECK: every 1 ms SUP samples the heartbeat and resets a loupe that has not changed it; not while Molxo is
held (19 R493). -/
def execHeartbeatCheck (s : State) : Out :=
  .next <|
    if loupeOn s = true ∧ (s.tgtOf 0).held = false then
      let s := s.upto (s.cfg.beatAt + 1000 * ticksPerUs)
      let beat := s.rd CFG.LOUPE_HEARTBEAT
      let t := modCfg (fun c => { c with beatLast := beat, beatAt := s.now }) s
      if beat = s.cfg.beatLast then
        modCfg (fun c => { c with scan := 0 })
          (((((abandon (fun _ _ => true) t).bump 32 CFG.LOUPE_RESETS).setBit CFG.LOUPE_EVFLAGS 6 true).note CFG.LOUPE_EVFLAGS 6).raise 40)
      else t
    else s

/-- A write of CFG.LOUPE_EN: 0 drops pending work, 1 starts a new pass. -/
def loupeEnEff (v : Nat) (s : State) : State :=
  let s := s.wr CFG.LOUPE_EN v
  if v = 0 then abandon (fun _ _ => true) s
  else modCfg (fun c => { c with scan := 0, beatLast := s.rd CFG.LOUPE_HEARTBEAT, beatAt := s.now }) s
/-- LOUPE_EN_WRITE. -/
def execLoupeEnWrite (q : Req) (v : Nat) (s : State) : Out := .next (writeTo q CFG.LOUPE_EN 1 v [] (loupeEnEff v) s)

end Sys2Proof.Machine
end

