-- ==== Sys2Proof/Machine/Focus.lean ====
section
/-! DEFINITION. Focus calibration, temperature tracking and the trim store (07_edge_calibration.md R193 to R214). Channel x
is EOx for x below 256, else EI(x - 256). -/
namespace Sys2Proof.Machine

/-- The calibration run changed. -/
def modFocus (f : FocusS → FocusS) (s : State) : State := { s with focus := f s.focus }
/-- The trim store and table changed. -/
def modTrim (f : TrimS → TrimS) (s : State) : State := { s with trim := f s.trim }

/-- Edge group of channel x. -/
def groupOf (x : Nat) : Nat := x % 256 / 8
/-- EDG.OCAL or EDG.ICAL member k of channel x. -/
def calKey (x k : Nat) : Nat := if x < 256 then EDG.OCAL x k else EDG.ICAL (x - 256) k
/-- The engine that owns channel x, or 0xFF. -/
def channelOwner (x : Nat) (s : State) : Nat := if x < 256 then outOwner x s else inOwner (x - 256) s

/-! Runs (R198 to R203). -/

/-- The channels of EDG.FOCUS_SEL, OUT before IN. -/
def focusSel (s : State) : List Nat := (List.range 512).filter fun x => s.bit (EDG.FOCUS_SEL (x / 64)) (x % 64)
/-- The channels of x's group that come before it. -/
def focusBefore (sel : List Nat) (x : Nat) : List Nat := sel.filter fun y => Nat.blt y x && Nat.beq (groupOf y) (groupOf x)
/-- Ticks from acknowledgement to the end of channel x: in a focus 5 ms of reference, 2.5 ms for an OUT and 1.5 ms for an IN
channel (R199); in a self-check 200 us each (R203). -/
def focusTicks (kind : Nat) (sel : List Nat) (x : Nat) : Nat :=
  let ys := focusBefore sel x ++ [x]
  ticksPerUs * (if kind = 1 then ys.foldl (fun t y => t + if y < 256 then 2500 else 1500) 5000 else 200 * ys.length)

/-- Channels of group g. -/
def groupChannels (g : Nat) : List Nat := (List.range 8).map (8 * g + ·) ++ (List.range 8).map (256 + 8 * g + ·)
/-- EDG.STALE_GROUPS bit g at group temperature t: an owned channel more than 10 degC from its TF. -/
def stale (g : Nat) (t : Int) (s : State) : Bool :=
  (groupChannels g).any fun x => Nat.blt (channelOwner x s) 32 && decide (160 < (t - toS16 (s.rd (calKey x 5))).natAbs)

/-- EDG.STALE_GROUPS brought up to date for group g; EV(129 + 2g) when its bit goes from 0 to 1, whatever made it do so (R205). -/
def settleStale (g : Nat) (s : State) : State :=
  let v := stale g (toS16 (s.rd (EDG.GROUP g))) s
  (if v && !(s.bit EDG.STALE_GROUPS g) then s.raise (129 + 2 * g) else s).setBit EDG.STALE_GROUPS g v
/-- The same for every group. -/
def settleStales (s : State) : State := (List.range 32).foldl (fun s g => settleStale g s) s

/-- Conditions of FOCUS and SELFCHECK. -/
def focusConds (s : State) : List (Bool × Nat) :=
  [ ((focusSel s).isEmpty, 4),
    ((focusSel s).any fun x => Nat.blt (channelOwner x s) 32 && [2, 3, 4, 7].contains (s.rd (VEN.STATE (channelOwner x s))), 7),
    (s.focus.kind != 0, 8) ]
/-- A run of the kind starts: its channels enter state 3. -/
def focusEff (kind : Nat) (s : State) : State :=
  let sel := focusSel s
  modFocus (fun _ => ⟨kind, sel.map fun x => (x, s.now + focusTicks kind sel x), false⟩) (s.wr EDG.FOCUS_STATE 1)

/-- Channel x leaves state 3: it shows the state it would hold under 06 R169 and R182, which every effect deferred until then has
brought up to date (R202); its correction becomes 0 (R204). -/
def focusExit (x : Nat) (s : State) : State :=
  (modFocus (fun f => { f with left := f.left.filter fun e => !(Nat.beq e.1 x) }) s).wr (calKey x 8) 0

/-- ABORT (R201). The abort of a self-check leaves FRESULT as it was: R201 speaks of trims, which a self-check does not change (DESIGN
CHOICE, log entry 31). -/
def focusAbortEff (s : State) : State :=
  if s.focus.kind = 0 then s
  else
    let k := s.focus.kind
    let s := s.focus.left.foldl (fun s e => focusExit e.1 (if k = 1 then s.wr (calKey e.1 6) 3 else s)) s
    modFocus (fun _ => {}) (s.wr EDG.FOCUS_STATE 4)

/-- FOCUS. -/
def execFocus (q : Req) (s : State) : Out := .next (command q EDG.FOCUS_CTRL 1 (focusConds s) (focusEff 1) s)
/-- EDG_SELFCHECK. -/
def execEdgSelfcheck (q : Req) (s : State) : Out := .next (command q EDG.FOCUS_CTRL 2 (focusConds s) (focusEff 2) s)
/-- FOCUS_ABORT. -/
def execFocusAbort (q : Req) (s : State) : Out := .next (command q EDG.FOCUS_CTRL 3 [] focusAbortEff s)

/-- The end of channel x in a run of the kind, if the unit of its group has reached it: res writes its result; a group's last
channel raises its event, the run's last ends it. -/
def channelEnd (kind x : Nat) (pass : Bool) (res : State → State) (s : State) : State :=
  match s.focus.left.find? fun e => Nat.beq (groupOf e.1) (groupOf x) with
  | some (y, t) =>
    if s.focus.kind = kind ∧ y = x then
      let s := settleStale (groupOf x) (focusExit x (res (s.upto t)))
      let s := modFocus (fun f => { f with failed := f.failed || !pass }) s
      let s := if s.focus.left.any fun e => Nat.beq (groupOf e.1) (groupOf x) then s else s.raise (129 + 2 * groupOf x)
      if s.focus.left.isEmpty then modFocus (fun _ => {}) (s.wr EDG.FOCUS_STATE (if s.focus.failed then 3 else 2)) else s
    else s
  | none => s

/-- TF of channel x set to the group temperature, and WHEN to the network seconds, at the end of its measurement (R199 step
5). -/
def stampFocus (x : Nat) (s : State) : State :=
  let when' := if timeValid s then netNow s / unitsPerSec % 2 ^ 64 else 0
  modTrim (fun m => { m with whens := Tab.set (fun _ => 0) m.whens x when' })
    (s.wr (calKey x 5) (s.rd (EDG.GROUP (groupOf x)) % 65536))
/-- The trims a focus has found, in effect (R193, R199, R201). TCO is none of them. The linearity table that the run measured for the
group takes effect with each of its channels that passes (DESIGN CHOICE: R201 gives the condition alone; log entry 31). -/
def takeTrims (x : Nat) (t : Trims) (s : State) : State :=
  let out := decide (x < 256)
  let w := fun k v s => State.wr s (calKey x k) (v % 65536)
  let s := (w 3 (if out then t.enoff else 0) (w 2 (if out then t.enon else 0) (w 1 t.fall (w 0 t.rise s)))).wr (calKey x 6) 1
  modTrim (fun m => { m with
    passed := Tab.set (fun _ => 0) m.passed x 1,
    inl := (List.range 32).foldl (fun l i => Tab.set (fun _ => 0) l (groupOf x * 32 + i) (t.inl.getD i 0 % 65536)) m.inl }) (stampFocus x s)

/-- FOCUS_CHANNEL_END: found holds what the search found, none if it failed. A focus that fails keeps bit 0 of the channel's FLAGS as
an earlier one left it (DESIGN CHOICE, log entry 31). -/
def execFocusChannelEnd (ch : Nat) (found : Option Trims) (s : State) : Out :=
  unitCmd ch 512 (channelEnd 1 ch found.isSome
    (fun s => match found with | some t => takeTrims ch t s | none => (stampFocus ch s).wr (calKey ch 6) 2) s)
/-- SELFCHECK_CHANNEL_END. -/
def execSelfcheckChannelEnd (ch : Nat) (pass : Bool) (s : State) : Out :=
  unitCmd ch 512 (channelEnd 2 ch pass (fun s => s.wr (calKey ch 7) (if pass then 1 else 2)) s)

/-! Temperature tracking (R204, R205). -/

/-- Target correction of channel x at group temperature t, before the clamp. -/
def trackTarget (x : Nat) (t : Int) (s : State) : Int :=
  (toS16 (s.rd (calKey x 4)) * (t - toS16 (s.rd (calKey x 5))) + 2048) / 4096
/-- Does the target meet the clamp? -/
def clamped (x : Nat) (t : Int) (s : State) : Bool := decide (256 ≤ (trackTarget x t s).natAbs)
/-- The correction of channel x moved by at most one tick towards its clamped target. -/
def trackStep (x : Nat) (t : Int) (s : State) : State :=
  let goal := max (-256) (min 256 (trackTarget x t s))
  let c := toS16 (s.rd (calKey x 8))
  s.wr (calKey x 8) (ofSigned 16 (if c < goal then c + 1 else if goal < c then c - 1 else c))
/-- A sensor reading: of a group behind the closed gate of EDG it leaves EDG.GROUP as it is held (15 R401). -/
def putTemp (i temp : Nat) (s : State) : State :=
  if i < 16 then s.wr (CRH.TEMP i) (temp % 65536)
  else
    let t := modCrh (fun c => { c with groupT := Tab.set (fun _ => 0) c.groupT (i - 16) (temp % 65536) }) s
    if gateShut s 0x8900 then t else t.wr (EDG.GROUP (i - 16)) (temp % 65536)
/-- CRH.TEMP_MAX becomes the highest of the 48 readings; TWARN is flagged as it rises from below the limit (15 R408). -/
def tempTaken (s : State) : State :=
  let was := toS16 (s.rd CRH.TEMP_MAX)
  let t := s.wr CRH.TEMP_MAX (ofSigned 16 (hottest s))
  let limit := toS16 (s.rd CRH.TWARN)
  if was < limit ∧ limit ≤ hottest s ∧ s.crh.inReset = false then crhFlag 5 t else t

/-- TEMP_TRACK_SAMPLE: the sensor of group g reads temp. EV(129 + 2g) when a channel's target comes to the clamp (R205). -/
def execTempTrackSample (g temp : Nat) (s : State) : Out :=
  unitCmd g 32 <|
    let new := toS16 temp
    let s := tempTaken (putTemp (16 + g) temp s)
    let xs := (groupChannels g).filter fun x => !(focusHeld x s)
    let others := s.trim.met.filter fun x => !(Nat.beq (groupOf x) g)
    let met := if s.bit EDG.TRACK 0 then xs.filter fun x => clamped x new s else []
    let new' := met.any fun x => !(s.trim.met.contains x)
    let s := if s.bit EDG.TRACK 0 then xs.foldl (fun s x => trackStep x new s) s else s
    let s := modTrim (fun t => { t with met := others ++ met }) (if new' then s.raise (129 + 2 * g) else s)
    settleStale g s

/-- TEMP_SAMPLE: readings of the 16 die sensors and the 32 edge groups (15 R408); the groups' stale bits follow (R205). -/
def execTempSample (temps : List Nat) (s : State) : Out :=
  .next <|
    let t := (List.range (min temps.length 48)).foldl (fun s i => putTemp i (temps.getD i 0) s) s
    settleStales (tempTaken t)

/-! The trim store (R207 to R214). Images are numbers, byte 0 lowest. -/

/-- Image of slot m. -/
def slotImage (m : Nat) (s : State) : Nat := Tab.get (fun _ => 0) s.trim.slots m
/-- Can the header be read: MAGIC and VERSION match? -/
def headerReads (im : Nat) : Bool := Nat.beq (field im 0 4) 0x7740F0C5 && Nat.beq (field im 4 4) 0x100
/-- Is the digest of an image correct? -/
def digestOk (im : Nat) : Bool := Nat.beq (field im 16352 32) (sha256 (field im 0 16352) 16352 % 2 ^ 256)
/-- Does the image qualify (R210)? -/
def qualifies (im : Nat) (s : State) : Bool := headerReads im && Nat.beq (field im 16 8) (s.rd (HDI.IDENT 6)) && digestOk im
/-- The slot of the highest GEN among those that qualify. -/
def bestSlot (s : State) : Option Nat :=
  (List.range 16).foldl (fun b m =>
    if qualifies (slotImage m s) s then
      match b with
      | some k => if field (slotImage k s) 8 8 < field (slotImage m s) 8 8 then some m else b
      | none => some m
    else b) none

/-- The highest WEAR among the slots whose header can be read. -/
def topWear (s : State) : Nat :=
  (List.range 16).foldl (fun w m => if headerReads (slotImage m s) then max w (field (slotImage m s) 24 4) else w) 0
/-- CFG.TRIM_WEAR of slot m (R212). -/
def slotWear (m : Nat) (s : State) : Nat := if headerReads (slotImage m s) then field (slotImage m s) 24 4 else topWear s
/-- Is slot m retired (R212)? -/
def slotRetired (m : Nat) (s : State) : Bool := Nat.ble 100000000 (slotWear m s)

/-- The slot the next image goes into (R211); with no image that qualifies the count begins at slot 0. -/
def nextSlot (s : State) : Option Nat :=
  let from' := match bestSlot s with | some k => k + 1 | none => 0
  ((List.range 16).map fun i => (from' + i) % 16).find? fun m => !(slotRetired m s)
/-- The GEN of the next image. -/
def nextGen (s : State) : Nat := match bestSlot s with | some k => field (slotImage k s) 8 8 + 1 | none => 1

/-- Numbers of w bytes each, the first lowest. -/
def packed (w : Nat) : List Nat → Nat
  | [] => 0
  | v :: vs => v % 2 ^ (8 * w) + 2 ^ (8 * w) * packed w vs

/-- Group record g of the table (R209). -/
def groupRecord (s : State) (g : Nat) : Nat := packed 2 ((List.range 32).map fun i => Tab.get (fun _ => 0) s.trim.inl (g * 32 + i))
/-- Channel record x of the table (R209). -/
def channelRecord (s : State) (x : Nat) : Nat :=
  packed 2 ((List.range 6).map fun k => s.rd (calKey x k)) + Tab.get (fun _ => 0) s.trim.whens x % 2 ^ 64 * 2 ^ 96
    + Tab.get (fun _ => 0) s.trim.passed x % 2 * 2 ^ 160
/-- Bytes 64 to 16,351 of an image of the table in effect. -/
def tableBytes (s : State) : Nat :=
  packed 64 ((List.range 32).map (groupRecord s)) + 2 ^ (8 * 2048) * packed 24 ((List.range 512).map (channelRecord s))

/-- An image that the part writes to slot m: its own header, the bytes of body from byte 64 on, its digest (R211). -/
def makeImage (m body : Nat) (s : State) : Nat :=
  let head := 0x7740F0C5 + 2 ^ 32 * 0x100 + 2 ^ 64 * (nextGen s % 2 ^ 64) + 2 ^ 128 * s.rd (HDI.IDENT 6)
    + 2 ^ 192 * (slotWear m s + 1) + 2 ^ 224 * m
  let im := head + 2 ^ 512 * (body % 2 ^ (8 * 16288))
  im + 2 ^ (8 * 16352) * (sha256 im 16352 % 2 ^ 256)

/-- The image in CFG.TRIM_STAGE. -/
def stagedImage (s : State) : Nat := packed 2048 ((List.range 8).map fun k => s.rd (CFG.TRIM_STAGE k))
/-- The status of an import's checks (R211). -/
def importStatus (s : State) : Nat :=
  let im := stagedImage s
  if headerReads im = false then 3 else if field im 16 8 ≠ s.rd (HDI.IDENT 6) then 0xC else if digestOk im then 0 else 9

/-- Conditions of COMMIT and IMPORT. -/
def trimConds (q : Req) (level : Nat) (s : State) : List (Bool × Nat) :=
  [needLevel q level s, (s.trim.job.isSome || (nextSlot s).isNone, 8)]
/-- A commit (status 0) or an import with the given status of its checks starts. -/
def trimEff (st body : Nat) (s : State) : State :=
  match nextSlot s with
  | some m => modTrim (fun t => { t with job := some (st, m, if st = 0 then makeImage m body s else 0) }) (s.wr CFG.TRIM_BUSY 1)
  | none => s
/-- COMMIT. -/
def commitEff (s : State) : State := trimEff 0 (tableBytes s) s
/-- IMPORT. -/
def importEff (s : State) : State := trimEff (importStatus s) (stagedImage s / 2 ^ 512) s
/-- TRIM_COMMIT. -/
def execTrimCommit (q : Req) (s : State) : Out := .next (command q CFG.TRIM_CTRL 1 (trimConds q 1 s) commitEff s)
/-- TRIM_IMPORT. -/
def execTrimImport (q : Req) (s : State) : Out := .next (command q CFG.TRIM_CTRL 2 (trimConds q 2 s) importEff s)

/-- TRIM_WRITE_END: the image is written, or the import ends with nothing written; EV043 (R211, R214). -/
def execTrimWriteEnd (s : State) : Out :=
  .next <|
    match s.trim.job with
    | some (st, m, im) =>
      ((modTrim (fun t => { t with job := none, slots := if st = 0 then Tab.set (fun _ => 0) t.slots m im else t.slots }) s).wr
        CFG.TRIM_BUSY 0 |>.wr CFG.TRIM_RESULT st).raise 43
    | none => s

/-- The calibration table loaded from an image (R210); ENON and ENOFF of an IN channel read 0 (R206). -/
def loadTable (im : Nat) (s : State) : State :=
  let rec' := fun x => field im (2112 + 24 * x) 24
  let s := (List.range 512).foldl (fun s x =>
    (List.range 6).foldl (fun s k =>
      s.wr (calKey x k) (if 256 ≤ x ∧ (k = 2 ∨ k = 3) then 0 else field (rec' x) (2 * k) 2)) s) s
  modTrim (fun t => { t with
    inl := (List.range 1024).foldl (fun l i => Tab.set (fun _ => 0) l i (field im (64 + 2 * i) 2)) [],
    whens := (List.range 512).foldl (fun l x => Tab.set (fun _ => 0) l x (field (rec' x) 12 8)) [],
    passed := (List.range 512).foldl (fun l x => Tab.set (fun _ => 0) l x (field (rec' x) 20 1 % 2)) [] }) s

/-- The image of the highest GEN loaded before SUP_READY; with none, every entry is 0 (R210), and CFG.TRIM_GEN reads 0 (DESIGN
CHOICE, log entry 45). -/
def trimLoad (s : State) : State :=
  match bestSlot s with
  | some m => loadTable (slotImage m s) ((s.wr CFG.TRIM_SLOT m).wr CFG.TRIM_GEN (field (slotImage m s) 8 8))
  | none => ((loadTable 0 s).wr CFG.TRIM_SLOT 0xFF).raise 43

end Sys2Proof.Machine
end

