-- ==== Sys2Proof/Machine/Sup.lean ====
section
/-! DEFINITION. The supervisor: start, crypto jobs, watchdogs, event matrix, log and in-band interrupts
(18_supervisor_events.md R459 to R473, 15 R407). -/
namespace Sys2Proof.Machine

/-- SUP changed. -/
def modSup (f : SupS → SupS) (s : State) : State := { s with sup := f s.sup }
/-- Bit b of SUP.EVFLAGS with its event (R472). -/
def supFlag (b : Nat) (s : State) : State := s.flag SUP.EVFLAGS b (8 + b)
/-- Ticks of a SUPCLK clock. -/
abbrev supClk : Nat := 32768
/-- Is Molxo held by debug (19 R493)? -/
def molxoHeld (s : State) : Bool := (s.tgtOf 0).held

/-! The supervisor watchdog (R462, R463). -/

/-- Clocks left at instant t. -/
def supWdLeft (s : State) (t : Nat) : Nat :=
  match s.sup.frozen with
  | some k => k
  | none => match s.sup.wd with
    | some (from', k) => k - (t - from') / supClk
    | none => s.rd SUP.WDOG_TIMEOUT
/-- The watchdog started with SUP.WDOG_TIMEOUT clocks. -/
def wdStart (s : State) : State :=
  modSup (fun u => { u with wd := some (s.now, s.rd SUP.WDOG_TIMEOUT), wdFull := s.rd SUP.WDOG_TIMEOUT, warned := false }) s

/-- WDOG_RESTART: the firmware's main loop restarts it; not while Molxo is held. -/
def execWdogRestart (s : State) : Out := .next (if supOpen s = true ∧ molxoHeld s = false then wdStart s else s)
/-- WDOG_WARN: fewer than half of its clocks remain. -/
def execWdogWarn (s : State) : Out :=
  .next <|
    match s.sup.wd with
    | some (from', k) =>
      if s.sup.warned then s
      else modSup (fun u => { u with warned := true }) (supFlag 0 (s.upto (from' + (k - (s.sup.wdFull - 1) / 2) * supClk)))
    | none => s
/-- WDOG_EXPIRY: a part reset of cause WDOG. -/
def execWdogExpiry (s : State) : Out :=
  .next <|
    match s.sup.wd with
    | some (from', k) => partReset 4 (s.upto (from' + k * supClk))
    | none => s

/-! Start (15 R407). -/

/-- SUP_READY: the trim image is loaded, the channels are read, SUP opens the dictionary; configuration proceeds as BOOTSEL
selects. -/
def execSupReady (s : State) : Out :=
  .next <|
    if mpllLocked s = true ∧ s.crh.inReset = false ∧ supOpen s = false then
      let s := trimLoad (s.upto (s.crh.rstAt + 2 * ticksPerUs))
      let s := (List.range 4).foldl (fun s n => if (answering n s).isEmpty then s else s.wr (DMC.STATE n) 1) s
      let s := wdStart (crhFlag 0 (s.setBit HDI.STATUS 2 true))
      let s := (List.range s.cfg.zeroised).foldl (fun t _ => t.raise 36) (modCfg (fun c => { c with zeroised := 0 }) s)
      let s := modCfg (fun c => { c with beatAt := s.now, autoDue := bootsel s != 0, autoAt := s.now }) s
      if bootsel s = 0 then { s with autoTrain := true } else s
    else s

/-! Crypto jobs (R460, R461). -/

/-- Conditions of a job. -/
def cryptoConds (hmac : Bool) (s : State) : List (Bool × Nat) :=
  [ (Nat.beq (s.rd SUP.CJ_STATE) 1, 8),
    (Nat.beq (s.rd SUP.CJ_LEN) 0 || Nat.blt (2 ^ 48) (s.rd SUP.CJ_ADDR + s.rd SUP.CJ_LEN), 4),
    (hmac && s.sup.key.isNone, 9) ]
/-- Has the loader or the loupe taken the crypto helper, so that a host job pauses (R461)? -/
def helperTaken (s : State) : Bool := s.cfg.load.isSome || s.cfg.reload.isSome
/-- The next C3 read of the job, unless it pauses; one is under way at a time. -/
def cryptoNext (s : State) : State :=
  match s.sup.job with
  | some j =>
    if j.wait = none ∧ j.got < j.len ∧ j.bad = false ∧ helperTaken s = false then
      let a := (j.addr + j.got) / 8 * 8
      let r : MeshReq := ⟨.read, .crypto, 0, 3, a, chunkLen a (j.addr + j.len - a), 0⟩
      meshSend r (modSup (fun u => { u with job := some { j with wait := some r } }) s)
    else s
  | none => s
/-- A job starts. -/
def cryptoEff (hmac : Bool) (s : State) : State :=
  cryptoNext (modSup (fun u => { u with job := some { key := if hmac then u.key else none, addr := s.rd SUP.CJ_ADDR, len := s.rd SUP.CJ_LEN } })
    (s.wr SUP.CJ_STATE 1))
/-- CJ SHA256. -/
def execCjSha256 (q : Req) (s : State) : Out := .next (command q SUP.CJ_CTRL 1 (cryptoConds false s) (cryptoEff false) s)
/-- CJ HMAC. -/
def execCjHmac (q : Req) (s : State) : Out := .next (command q SUP.CJ_CTRL 2 (cryptoConds true s) (cryptoEff true) s)

/-- A response to the job. -/
def cryptoDone (x : MeshResp) (s : State) : State :=
  let s := respTaken x s
  match s.sup.job with
  | some j =>
    let skip := j.addr + j.got - x.req.addr
    let n := min (x.req.len - skip) (j.len - j.got)
    if x.kind = 2 then modSup (fun u => { u with job := some { j with wait := none, bad := true } }) s
    else
      cryptoNext (modSup (fun u => { u with job := some { j with
        wait := none, got := j.got + n, buf := j.buf + x.data / 2 ^ (8 * skip) % 2 ^ (8 * n) * 2 ^ (8 * j.got) } }) s)
  | none => s

/-- CRYPTO_JOB_END: the digest, or zero after an error response; a job that has paused reads on, and one that pauses waits. -/
def execCryptoJobEnd (s : State) : Out :=
  .next <|
    match s.sup.job with
    | some j =>
      if helperTaken s then s else
      let s' := modSup (fun u => { u with job := none }) s
      if j.bad then supFlag 3 ((s'.wr SUP.CJ_STATE 3).wr SUP.CJ_RESULT 0)
      else if j.got = j.len then
        supFlag 2 ((s'.wr SUP.CJ_STATE 2).wr SUP.CJ_RESULT
          ((match j.key with | some k => hmac256 k j.buf j.len | none => sha256 j.buf j.len) % 2 ^ 256))
      else cryptoNext s
    | none => s

/-! The host watchdog (R464). -/

/-- The timer started, or off while SUP.HOST_WD is 0. -/
def hostRestart (s : State) : State :=
  modSup (fun u => { u with
    hostEnd := if s.rd SUP.HOST_WD = 0 ∨ molxoHeld s = true then none else some (s.now + s.rd SUP.HOST_WD * 1000 * ticksPerUs),
    hostLeft := if s.rd SUP.HOST_WD ≠ 0 ∧ molxoHeld s = true then some (s.rd SUP.HOST_WD * 1000 * ticksPerUs) else none }) s
/-- A kick: nothing while the watchdog is off. -/
def hostKickEff (s : State) : State := if s.rd SUP.HOST_WD = 0 then s else hostRestart s
/-- HOST_KICK. -/
def execHostKick (q : Req) (v : Nat) (s : State) : Out := .next (command q SUP.HOST_KICK v [] hostKickEff s)

/-- Every vector engine in a run or armed is stopped, and every DSP engine that is not (14 R383). -/
def stopAll (s : State) : State :=
  (List.range 32).foldl (fun s n =>
    let s := if veLive n s then veStopEff n s else s
    if dspStopped n s then s else dspStopEff n s) s
/-- An armed batch disarmed by SUP. -/
def dropArmed (s : State) : State :=
  if mirrorState s = 5 then ((disarmTo 3 s).wr HDI.APPLY_OUTCOME 3).raise 2 else s
/-- HOST_WD_EXPIRY. -/
def execHostWdExpiry (s : State) : Out :=
  .next <|
    match s.sup.hostEnd with
    | some e =>
      let s := stopAll (dropArmed (s.upto (edgeAt supClk e)))
      supFlag 5 ((modSup (fun u => { u with hostEnd := none }) s).bump 32 SUP.HOST_WD_TRIPS)
    | none => s

/-! The event matrix (R465 to R471). -/

/-- Is an event number reserved (21 R516)? -/
def evReserved (e : Nat) : Bool :=
  [(7, 7), (14, 23), (38, 39), (60, 63), (357, 383), (493, 495), (504, 511)].any fun r => Nat.ble r.1 e && Nat.ble e r.2
/-- SUPCLK edge at which a raising with its flag edge at t is registered (R467). -/
def registerEdge (t : Nat) : Nat := edgeAt supClk (t + 16 * ticksPerNs)
/-- The raising registered next: the earliest edge, on it the lowest event. -/
def nextRaising : List (Nat × Nat) → Option (Nat × Nat)
  | [] => none
  | x :: xs =>
    match nextRaising xs with
    | none => some x
    | some y =>
      if registerEdge y.1 < registerEdge x.1 ∨ (registerEdge y.1 = registerEdge x.1 ∧ y.2 < x.2) then some y else some x

/-- A log record, unless 256 are unread (R468). -/
def logRecord (e : Nat) (s : State) : State :=
  let s := s.bump 64 SUP.LOG_MADE
  if 256 ≤ s.sup.log.length then supFlag 1 (s.bump 64 SUP.LOG_LOST)
  else modSup (fun u => { u with log := u.log ++ [⟨netAt s s.now, e, timeValid s⟩] }) s

/-- The lines that select event e, raised at t, pulse at one FAB edge; a line that pulses there already merges it (R471). -/
def linePulses (e t : Nat) (s : State) : State :=
  let edge := fabEdge (t + 32 * ticksPerNs)
  (List.range 8).foldl (fun s k =>
    if s.rd (SUP.FEV_SEL k) = e then
      if s.sup.due.contains (k, edge) || s.fev.contains (k, edge) then s.bump 64 SUP.FEV_MERGED
      else modSup (fun u => { u with due := u.due ++ [(k, edge)] }) s
    else s) s

/-- Event e, raised at t, registered (R465). The queue of in-band interrupts takes at most 512 (R469; log entry 41). -/
def register (e t : Nat) (s : State) : State :=
  let route := s.rd (SUP.EV_ROUTE e)
  let was := s.bit (SUP.EV_PEND (e / 64)) (e % 64)
  let s := ((s.bump 32 (SUP.EV_COUNT e)).setBit (SUP.EV_PEND (e / 64)) (e % 64) true).note (SUP.EV_PEND (e / 64)) (e % 64)
  let s := if route.testBit 2 then logRecord e s else s
  let s := if route.testBit 0 && !was && Nat.blt s.sup.ibi.length 512 then modSup (fun u => { u with ibi := u.ibi ++ [e] }) s else s
  linePulses e t s

/-- EVENT_RAISE: the next raising is registered. -/
def execEventRaise (s : State) : Out :=
  .next <|
    match nextRaising s.evq with
    | some (t, e) => register e t ({ s with evq := s.evq.erase (t, e) }.upto (registerEdge t))
    | none => s

/-- FABRIC_EVENT_PULSE: line k is 1 for one fabric clock (R471). -/
def execFabricEventPulse (k : Nat) (s : State) : Out :=
  unitCmd k 8 <|
    match s.sup.due.find? fun x => Nat.beq x.1 k with
    | some x =>
      let s := modSup (fun u => { u with due := u.due.erase x }) (s.upto x.2)
      { s with fev := s.fev.filter (fun y => !(Nat.beq y.1 k)) ++ [x] }
    | none => s

/-- Is nALERT driven low (R470)? In a test of the TAP its boundary cell drives it (19 R478). -/
def nAlert (s : State) : Bool :=
  if let some b := pinTest s then !b.nalert
  else (List.range 512).any fun e => s.bit (SUP.EV_ROUTE e) 1 && s.bit (SUP.EV_PEND (e / 64)) (e % 64)

/-- The 24 bytes of a log record. -/
def logBytes (r : LogRec) : Nat := toTime128 r.stamp + r.ev * 2 ^ 128 + (if r.valid then 2 ^ 144 else 0)
/-- The oldest record removed and counted. -/
def logPopEff (s : State) : State := (modSup (fun u => { u with log := u.log.drop 1 }) s).bump 64 SUP.LOG_READ
/-- LOG_POP. -/
def execLogPop (q : Req) (s : State) : Out :=
  .next (readFrom q SUP.LOG_POP 24 ((s.sup.log.head?.map logBytes).getD 0) [(s.sup.log.isEmpty, 7)] logPopEff s)

/-- IBI_REQUEST: the part requests an interrupt; ack: the controller acknowledges it (R469). -/
def execIbiRequest (ack : Bool) (s : State) : Out :=
  .next <|
    match s.sup.ibi with
    | e :: rest =>
      if s.hdi.i3c.dyn.isSome && s.hdi.i3c.enInt && decide (s.hdi.i3c.bus = .sdr) && ack then
        ((modSup (fun u => { u with ibi := rest }) s).bump 64 SUP.IBI_SENT).modI3c fun i =>
          { i with out := .data 5 (0x1E + e % 65536 * 2 ^ 8 + rest.length % 65536 * 2 ^ 24) }
      else s
    | [] => s

end Sys2Proof.Machine
end

