-- ==== Sys2Proof/Machine/Dbg.lean ====
section
/-! DEFINITION. Debug: authorisation, break units, run control, registers, terminals and the test access port
(19_debug.md R474 to R501). -/
namespace Sys2Proof.Machine

/-- DBG changed. -/
def modDbg (f : DbgS → DbgS) (s : State) : State := { s with dbg := f s.dbg }
/-- Bit b of DBG.EVFLAGS with its event (R501). -/
def dbgFlag (b : Nat) (s : State) : State := s.flag DBG.EVFLAGS b (496 + b)
/-- Does the master hold the vendor session (R480)? -/
def hasVendor (q : Req) (s : State) : Bool := decide (s.dbg.vendor = some q.master)

/-! Access levels (R480 to R483). -/

/-- Is authorisation refused for now (R482)? -/
def authLocked (s : State) : Bool := decide (s.now < s.dbg.lockUntil) || Nat.ble 16 (s.rd DBG.AUTH_FAILS)
/-- Conditions of AUTH_CTRL command code. -/
def authConds (q : Req) (code : Nat) (s : State) : List (Bool × Nat) :=
  (Nat.ble 16 q.master, 2) :: (authLocked s, 8) ::
    if code = 3 then [(s.bit DBG.POLICY 0, 9), (s.dbg.vendor.isSome, 8)] else []

/-- The vendor session of master m ends. -/
def vendorEnds (m : Nat) (s : State) : State :=
  if s.dbg.vendor = some m then (modDbg (fun d => { d with vendor := none }) s).setBit DBG.STATUS 2 false else s
/-- Level l granted to master m. -/
def grant (m l : Nat) (s : State) : State := s.modMaster m fun x => { x with level := max x.level l, chal := none }
/-- A challenge for byte L: the serial number and 24 random bytes (R481). -/
def challengeFor (m l : Nat) (s : State) : State :=
  (s.modMaster m fun x => { x with
    chal := some (s.rd (HDI.IDENT 6) % 2 ^ 64 + Config.challenge s.freeCtr % 2 ^ 192 * 2 ^ 64), flow := l, chalAt := s.now }).drawn
/-- The flow of AUTH_CTRL command code. -/
def authEff (q : Req) (code : Nat) (s : State) : State :=
  match code with
  | 1 => if s.bit DBG.STATUS 0 then challengeFor q.master 2 s else grant q.master 2 s
  | 2 => if s.bit DBG.STATUS 1 then challengeFor q.master 3 s else grant q.master 3 s
  | 3 => challengeFor q.master 0x83 s
  | _ => vendorEnds q.master (s.modMaster q.master fun x => { x with level := 1, chal := none })
/-- AUTH_CUSTOMER_L2. -/
def execAuthCustomerL2 (q : Req) (s : State) : Out := .next (command q DBG.AUTH_CTRL 1 (authConds q 1 s) (authEff q 1) s)
/-- AUTH_CUSTOMER_L3. -/
def execAuthCustomerL3 (q : Req) (s : State) : Out := .next (command q DBG.AUTH_CTRL 2 (authConds q 2 s) (authEff q 2) s)
/-- AUTH_VENDOR. -/
def execAuthVendor (q : Req) (s : State) : Out := .next (command q DBG.AUTH_CTRL 3 (authConds q 3 s) (authEff q 3) s)
/-- AUTH_DROP. -/
def execAuthDrop (q : Req) (s : State) : Out := .next (command q DBG.AUTH_CTRL 4 (authConds q 4 s) (authEff q 4) s)

/-- The key of flow L. -/
def authKey (l : Nat) (s : State) : Nat := if l = 2 then s.dbg.key2 else if l = 3 then s.dbg.key3 else Config.vendorKey
/-- Is response v correct and in time (R481)? -/
def authOk (m v : Nat) (s : State) : Bool :=
  let x := s.masterOf m
  match x.chal with
  | some c =>
    Nat.beq v (hmac256 (authKey x.flow s) (c + x.flow * 2 ^ 256) 33 % 2 ^ 256)
      && Nat.ble s.now (x.chalAt + 10000000 * ticksPerUs)
  | none => false
/-- Conditions of a write of len bytes to AUTH_RESP: a response of fewer than 32 bytes is a wrong one (DESIGN CHOICE, log entry 52). -/
def respConds (q : Req) (len v : Nat) (s : State) : List (Bool × Nat) :=
  [(Nat.ble 16 q.master, 2), ((s.masterOf q.master).chal.isNone, 7), (!(Nat.beq len 32 && authOk q.master v s), 9)]
/-- A correct response: the level is granted. -/
def respGrants (q : Req) (s : State) : State :=
  let l := (s.masterOf q.master).flow
  let s := dbgFlag 2 (grant q.master (if l = 2 then 2 else 3) s)
  if l = 0x83 then (modDbg (fun d => { d with vendor := some q.master }) s).setBit DBG.STATUS 2 true else s
/-- A wrong or late one: counted, and a second without authorisation; the 16th locks it until the next part reset (R482). -/
def respFails (q : Req) (s : State) : State :=
  let s := (s.bump 32 DBG.AUTH_FAILS).modMaster q.master fun x => { x with chal := none }
  let s := dbgFlag 3 (modDbg (fun d => { d with lockUntil := s.now + 1000000 * ticksPerUs }) s)
  if 16 ≤ s.rd DBG.AUTH_FAILS then s.setBit DBG.STATUS 3 true else s
/-- A write of len bytes to AUTH_RESP. -/
def authResp (q : Req) (len v : Nat) (s : State) : State :=
  let t := writeTo q DBG.AUTH_RESP len v (respConds q len v s) (respGrants q) s
  if statusOf q 2 0xF001 2 len v 0 (respConds q len v s) s = 9 ∧ deaf q s = false then respFails q t else t
/-- AUTH_RESP. -/
def execAuthResp (q : Req) (v : Nat) (s : State) : Out := .next (authResp q 32 v s)

/-! DBG.CTRL (R484). -/

/-- Conditions of DBG.CTRL command code. -/
def dbgCtrlConds (q : Req) (code : Nat) (s : State) : List (Bool × Nat) :=
  needLevel q (if code = 2 ∨ code = 3 then 3 else 2) s ::
    match code with
    | 1 => [(s.bit DBG.STATUS 0, 9)]
    | 2 => [(s.bit DBG.STATUS 1, 9)]
    | _ => []
/-- The fuse commands; each takes DBG.KEY_STAGE and clears it. -/
def fuseEff (code : Nat) (s : State) : State :=
  let v := s.dbg.stage
  let s := modDbg (fun d => { d with stage := 0 }) s
  match code with
  | 1 => (modDbg (fun d => { d with key2 := v }) s).setBit DBG.STATUS 0 true
  | 2 => (modDbg (fun d => { d with key3 := v }) s).setBit DBG.STATUS 1 true
  | _ => s.wr DBG.POLICY (s.rd DBG.POLICY ||| v % 4)
/-- DBG_FUSE_KEY2. -/
def execDbgFuseKey2 (q : Req) (s : State) : Out := .next (command q DBG.CTRL 1 (dbgCtrlConds q 1 s) (fuseEff 1) s)
/-- DBG_FUSE_KEY3. -/
def execDbgFuseKey3 (q : Req) (s : State) : Out := .next (command q DBG.CTRL 2 (dbgCtrlConds q 2 s) (fuseEff 2) s)
/-- DBG_FUSE_POLICY. -/
def execDbgFusePolicy (q : Req) (s : State) : Out := .next (command q DBG.CTRL 3 (dbgCtrlConds q 3 s) (fuseEff 3) s)
/-- RESET: accepted, then a part reset of cause DEBUG. -/
def dbgReset (q : Req) (s : State) : State :=
  let t := command q DBG.CTRL 4 (dbgCtrlConds q 4 s) (fun s => s) s
  if statusOf q 2 0xF000 2 1 4 0 (dbgCtrlConds q 4 s) s = 0 ∧ deaf q s = false then partReset 7 t else t
/-- DBG_RESET. -/
def execDbgReset (q : Req) (s : State) : Out := .next (dbgReset q s)

/-! Break and watch units (R485 to R489). -/

/-- The lowest free unit. -/
def freeUnit (s : State) : Option Nat := (List.range 64).find? fun u => !(s.brkOf u).on
/-- BRK_ALLOC: armed under its present configuration. -/
def brkAllocEff (q : Req) (s : State) : State :=
  match freeUnit s with
  | some u => ((s.modBrk u fun _ => { on := true }).wr (DBG.BRK_STATE u) 1).modMaster q.master fun x => { x with brkLast := u }
  | none => s
/-- BRK_ALLOC. -/
def execBrkAlloc (q : Req) (s : State) : Out :=
  .next (command q DBG.BRK_ALLOC 1 [((freeUnit s).isNone, 8)] (brkAllocEff q) s)

/-- The kind of a configuration. -/
def brkKind (v : Nat) : Nat := v % 16
/-- Does a kind suit a target's core (R487)? -/
def kindSuits (kind target : Nat) : Bool :=
  match kind with
  | 1 | 2 | 3 => Nat.ble 1 target && Nat.ble target 32
  | 4 | 5 => Nat.ble 33 target && Nat.ble target 64
  | 6 => Nat.beq target 0
  | _ => true
/-- Conditions of a write of BRK_CFG. -/
def brkCfgConds (q : Req) (u v : Nat) (s : State) : List (Bool × Nat) :=
  [ (!((s.brkOf u).on) || !(kindSuits (brkKind v) (Dict.bitsOf v 47 40)), 9), (Nat.beq (brkKind v) 6 && !(hasVendor q s), 2) ]
/-- The unit armed anew. -/
def rearm (u : Nat) (s : State) : State := (s.modBrk u fun _ => { on := true }).wr (DBG.BRK_STATE u) 1
/-- A write of BRK_CFG. -/
def brkCfgEff (u v : Nat) (s : State) : State := rearm u (s.wr (DBG.BRK_CFG u) v)
/-- BRK_CFG_WRITE. -/
def execBrkCfgWrite (q : Req) (u v : Nat) (s : State) : Out :=
  unitCmd u 64 (writeTo q (DBG.BRK_CFG u) 8 v (brkCfgConds q u v s) (brkCfgEff u v) s)
/-- Conditions of BRK_CMD. -/
def brkCmdConds (q : Req) (u : Nat) (s : State) : List (Bool × Nat) :=
  [(!((s.brkOf u).on), 9), (Nat.beq (brkKind (s.rd (DBG.BRK_CFG u))) 6 && !(hasVendor q s), 2)]
/-- FREE. -/
def brkFreeEff (u : Nat) (s : State) : State := (s.modBrk u fun _ => {}).wr (DBG.BRK_STATE u) 0
/-- BRK_REARM. -/
def execBrkRearm (q : Req) (u : Nat) (s : State) : Out :=
  unitCmd u 64 (command q (DBG.BRK_CMD u) 2 (brkCmdConds q u s) (rearm u) s)
/-- BRK_FREE. -/
def execBrkFree (q : Req) (u : Nat) (s : State) : Out :=
  unitCmd u 64 (command q (DBG.BRK_CMD u) 3 (brkCmdConds q u s) (brkFreeEff u) s)

/-- GROUP_HALT_LATCH: the halt of group g lands on every member (R489, R494). -/
def execGroupHaltLatch (g : Nat) (s : State) : Out :=
  unitCmd g 4 <|
    match s.groupAt.find? fun x => Nat.beq x.1 g with
    | some x =>
      let s := { s with groupAt := s.groupAt.erase x }.upto x.2
      (List.range 64).foldl (fun s i => if s.bit (DBG.GROUP g) i then latchDebugHalt (1 + i) x.2 s else s) s
    | none => s

/-! Run control (R490 to R493). -/

/-- Conditions of HALT. -/
def haltConds (q : Req) (t : Nat) (s : State) : List (Bool × Nat) :=
  if t = 0 then [(!(hasVendor q s), 2), (tstate 0 s != 0 || s.cfg.load.isSome, 9)]
  else if t ≤ 32 then [(s.rd (VEN.STATE (t - 1)) != 3, 9)]
  else [(s.rd (DSP.STATE (t - 33)) != 2, 9)]
/-- DBG_HALT. -/
def execDbgHalt (q : Req) (t : Nat) (s : State) : Out :=
  unitCmd t 65 (command q (DBG.HCTRL t) 1 (haltConds q t s) (fun s => latchDebugHalt t s.now s) s)

/-- Molxo issues an instruction: its address and the instants of its instructions are not given, so a SUP_PC unit sees a free value
(R487; log entries 9 and 53). -/
def molxoIssue (s : State) : State := brkMatch 6 0 (s.freeVal % 2 ^ 64) 0 0 s.now s.drawn
/-- Molxo goes on: its watchdog from the frozen count, at least 65,536 (R463), the host watchdog and the heartbeat check
too; it issues its next instruction at once (DESIGN CHOICE, log entry 53). -/
def molxoGo (s : State) : State :=
  let k := max 65536 (s.sup.frozen.getD 65536)
  let s := modSup (fun u => { u with
    wd := if u.frozen.isSome then some (s.now, k) else u.wd, frozen := none,
    hostEnd := match u.hostLeft with | some l => some (s.now + l) | none => u.hostEnd, hostLeft := none }) s
  molxoIssue (modCfg (fun c => { c with beatAt := s.now }) (s.modTgt 0 fun g => { g with held := false, pend := false, left := none }))
/-- Conditions of RESUME and STEP. -/
def resumeConds (q : Req) (t : Nat) (s : State) : List (Bool × Nat) :=
  if t = 0 then [(!(hasVendor q s), 2), (!(molxoHeld s), 9)]
  else if t ≤ 32 then veResumeConds (t - 1) s
  else [(s.rd (DSP.STATE (t - 33)) != 3, 9)]
/-- The target goes on; an engine stays held until it next issues a cycle or an instruction (R475). -/
def goOn (t : Nat) (s : State) : State :=
  if t = 0 then molxoGo s else if t ≤ 32 then veGoOn (t - 1) s else dspGoOn (t - 33) s
/-- RESUME. -/
def resumeEff (t : Nat) (s : State) : State := (goOn t s).modTgt t fun g => { g with left := none }
/-- STEP: DBG.STEP_N steps, then a halt again. -/
def stepEff (t : Nat) (s : State) : State :=
  let k := s.rd (DBG.STEP_N t)
  (goOn t s).modTgt t fun g => { g with left := some k }
/-- DBG_RESUME. -/
def execDbgResume (q : Req) (t : Nat) (s : State) : Out :=
  unitCmd t 65 (command q (DBG.HCTRL t) 2 (resumeConds q t s) (resumeEff t) s)
/-- DBG_STEP. -/
def execDbgStep (q : Req) (t : Nat) (s : State) : Out :=
  unitCmd t 65 (command q (DBG.HCTRL t) 3 (resumeConds q t s) (stepEff t) s)

/-- Molxo is held, its watchdog frozen, the host watchdog paused (R463, R493). -/
def molxoHold (s : State) : State :=
  let s := dbgFlag 1 (s.modTgt 0 fun g => { g with pend := false, held := true, left := none })
  modSup (fun u => { u with
    frozen := if u.wd.isSome then some (supWdLeft s s.now) else u.frozen, wd := none,
    hostLeft := match u.hostEnd with | some e => some (e - s.now) | none => u.hostLeft, hostEnd := none }) s
/-- MOLXO_HALT_LANDS: an instruction boundary of Molxo outside a locked sequence. A pending halt lands there, and the last step of a
STEP ends there; else a step is counted, and Molxo issues its next instruction (R474, R490, R493; log entry 53). -/
def execMolxoHaltLands (s : State) : Out :=
  .next <|
    if (s.tgtOf 0).pend then molxoHold s
    else if (s.tgtOf 0).held || !(supOpen s) then s
    else match (s.tgtOf 0).left with
      | some (k + 2) => molxoIssue (s.modTgt 0 fun g => { g with left := some (k + 1) })
      | some _ => molxoHold s
      | none => molxoIssue s

/-! DBG.REG (R495). -/

/-- Width in bits of the register that a selector names in target t; 0 if it names none. -/
def regWidth (t sel : Nat) : Nat :=
  if t = 0 then 64
  else if t ≤ 32 then (if sel ≤ 0x22 then 32 else 0)
  else if sel < 0x100 then 0
  else if sel < 0x140 then 24
  else if sel < 0x150 then 56
  else if sel < 0x160 then 0
  else if sel < 0x170 then 20
  else if sel < 0x174 then 16
  else [5, 5, 16, 11].getD (sel - 0x174) 0

/-- Its value. Molxo's registers are not given (log entry 9). The next word of a vector engine is the one its next decision would take
with the compares known by now (03 R85, R90, R95). -/
def regValue (t sel : Nat) (s : State) : Nat :=
  if t = 0 then s.freeVal % 2 ^ 64
  else if t ≤ 32 then
    let n := t - 1
    let e := s.veOf n
    if sel < 0x10 then s.rd (VEN.CTR n sel)
    else if sel < 0x20 then e.stack.getD (sel - 0x10) 0
    else if sel = 0x20 then
      (resolve n (learnUpTo n (s.now + 18 * ticksPerNs) s)).2.getD e.next
    else if sel = 0x21 then e.rptLeft
    else veFlags n s
  else
    let n := t - 33
    let d := s.dspOf n
    if sel < 0x140 then reg0 d.v (sel - 0x100)
    else if sel < 0x150 then reg0 d.acc (sel - 0x140)
    else if sel < 0x168 then reg0 d.a (sel - 0x160)
    else if sel < 0x170 then reg0 d.o (sel - 0x168)
    else if sel < 0x174 then reg0 d.c (sel - 0x170)
    else [s.rd (DSP.BEXP n), d.bsh, s.rd (DSP.EXPACC n) % 2 ^ 16, d.pc].getD (sel - 0x174) 0

/-- The register written. -/
def regWrite (t sel v : Nat) (s : State) : State :=
  if t = 0 then s
  else if t ≤ 32 then
    let n := t - 1
    if sel < 0x10 then s.wr (VEN.CTR n sel) v
    else if sel < 0x20 then s.modVe n fun e => { e with stack := e.stack.set (sel - 0x10) v }
    else if sel = 0x20 then s.modVe n fun e => { e with next := v, after := .seq }
    else s.modVe n fun e => { e with rptLeft := v }
  else
    let n := t - 33
    if sel < 0x140 then s.modDsp n fun d => { d with v := setReg d.v (sel - 0x100) v }
    else if sel < 0x150 then s.modDsp n fun d => { d with acc := setReg d.acc (sel - 0x140) v }
    else if sel < 0x168 then s.modDsp n fun d => { d with a := setReg d.a (sel - 0x160) v }
    else if sel < 0x170 then s.modDsp n fun d => { d with o := setReg d.o (sel - 0x168) v }
    else if sel < 0x174 then s.modDsp n fun d => { d with c := setReg d.c (sel - 0x170) v }
    else match sel with
      | 0x174 => s.wr (DSP.BEXP n) v
      | 0x175 => s.modDsp n fun d => { d with bsh := v }
      | 0x176 => s.wr (DSP.EXPACC n) (if v < 2 ^ 15 then v else v + 2 ^ 32 - 2 ^ 16)
      | _ => s.modDsp n fun d => { d with pc := v }

/-- Conditions of an access to DBG.REG. The flags are read only; a selector that names no register is out of range. -/
def regConds (q : Req) (t : Nat) (wr : Bool) (v : Nat) (s : State) : List (Bool × Nat) :=
  let sel := s.rd (DBG.REGSEL t)
  [ (Nat.beq t 0 && !(hasVendor q s), 2), (wr && Nat.ble 1 t && Nat.ble t 32 && Nat.beq sel 0x22, 2),
    (!((s.tgtOf t).held), 7), (Nat.beq (regWidth t sel) 0 || (wr && Nat.ble (2 ^ regWidth t sel) v), 4) ]
/-- A write of DBG.REG. -/
def regWriteEff (t v : Nat) (s : State) : State := regWrite t (s.rd (DBG.REGSEL t)) v s
/-- DBG_REG_ACCESS: a READ, or a WRITE of v. -/
def execDbgRegAccess (q : Req) (t : Nat) (wr : Bool) (v : Nat) (s : State) : Out :=
  unitCmd t 65 <|
    if wr then writeTo q (DBG.REG t) 8 v (regConds q t true v s) (regWriteEff t v) s
    else
      readFrom q (DBG.REG t) 8 (regValue t (s.rd (DBG.REGSEL t)) s) (regConds q t false 0 s)
        (if t = 0 then State.drawn else fun s => s) s

/-! Terminal registers (R498). -/

/-- Conditions of a write to the target's side of DTX. -/
def tdtxConds (t : Nat) (s : State) : List (Bool × Nat) := [((s.tgtOf t).dtxFull, 8)]
/-- The target writes DTX. -/
def tdtxEff (t v : Nat) (s : State) : State := dbgFlag 4 (s.modTgt t fun g => { g with dtx := v, dtxFull := true })
/-- T_DTX_WRITE. -/
def execTDtxWrite (q : Req) (t v : Nat) (s : State) : Out :=
  unitCmd t 65 (writeTo q (DBG.T_DTX t) 4 v (tdtxConds t s) (tdtxEff t v) s)
/-- The host reads DTX. -/
def dtxEff (t : Nat) (s : State) : State := s.modTgt t fun g => { g with dtxFull := false, dtxReads := g.dtxReads + 1 }
/-- DTX_READ. -/
def execDtxRead (q : Req) (t : Nat) (s : State) : Out :=
  unitCmd t 65 (readFrom q (DBG.DTX t) 4 (s.tgtOf t).dtx [(!((s.tgtOf t).dtxFull), 7)] (dtxEff t) s)
/-- Conditions of a write of DRX. -/
def drxConds (t : Nat) (s : State) : List (Bool × Nat) := [((s.tgtOf t).drxFull, 8)]
/-- The host writes DRX. -/
def drxEff (t v : Nat) (s : State) : State :=
  s.modTgt t fun g => { g with drx := v, drxFull := true, drxWrites := g.drxWrites + 1 }
/-- DRX_WRITE. -/
def execDrxWrite (q : Req) (t v : Nat) (s : State) : Out :=
  unitCmd t 65 (writeTo q (DBG.DRX t) 4 v (drxConds t s) (drxEff t v) s)
/-- The target reads DRX. -/
def tdrxEff (t : Nat) (s : State) : State := dbgFlag 5 (s.modTgt t fun g => { g with drxFull := false })
/-- T_DRX_READ. -/
def execTDrxRead (q : Req) (t : Nat) (s : State) : Out :=
  unitCmd t 65 (readFrom q (DBG.T_DRX t) 4 (s.tgtOf t).drx [(!((s.tgtOf t).drxFull), 7)] (tdrxEff t) s)

/-! The test access port (R476 to R478). -/

/-- The data of IDCODE. -/
def idcode (s : State) : Nat :=
  s.rd (HDI.IDENT 4) % 16 * 2 ^ 28 + 0x7740 * 2 ^ 12 + s.rd (HDI.IDENT 2) % 2 ^ 11 * 2 + 1

/-- The cells of the boundary register that v spells: a free value gives them all (log entry 53). -/
def freeCells (v : Nat) : Boundary :=
  { gio := v % 2 ^ 160, gioEn := v / 2 ^ 160 % 2 ^ 160, syncin := v.testBit 320, trgi := v / 2 ^ 321 % 2 ^ 16,
    trgo := v / 2 ^ 337 % 2 ^ 16, trgoEn := v / 2 ^ 353 % 2 ^ 16, eo := v / 2 ^ 369 % 2 ^ 256, eoEn := v / 2 ^ 625 % 2 ^ 256,
    ei := v / 2 ^ 881 % 2 ^ 256, refin := v.testBit 1137, lref := v / 2 ^ 1138 % 2 ^ 12, clkout := v.testBit 1150,
    nalert := v.testBit 1151, rest := v / 2 ^ 1152 }
/-- What the boundary register samples at the pins (R477, R478). The levels of REFIN, LREF and the balls that the state does not hold
are a free value (log entry 53). -/
def pinCells (s : State) : Boundary :=
  let e := fabEdge (s.now + 1)
  let free := freeCells s.freeVal
  { gio := bitSet 160 fun i => gioLevel (22 + i / 16) (i % 16) e s,
    gioEn := bitSet 160 fun i => gioDrive (22 + i / 16) (i % 16) e s != 2,
    syncin := s.pins.syncin, trgi := s.pins.trgi,
    trgo := bitSet 16 fun t => trgDrive t s == some true, trgoEn := bitSet 16 fun t => (trgDrive t s).isSome,
    eo := bitSet 256 fun c => decide (driveOf c s.now s = .high), eoEn := bitSet 256 fun c => decide (driveOf c s.now s ≠ .off),
    ei := inBalls s.now s, refin := free.refin, lref := free.lref, clkout := clkoutHigh s.now s, nalert := !(nAlert s), rest := free.rest }

/-- What Capture-DR loads under instruction c (R476): the identification, the bypass register's 0, or the boundary register, the order
of whose cells is not in the manual: a free value. -/
def captured (c : Nat) (s : State) : Nat :=
  if c = 2 then idcode s else if [0, 1, 5, 6].contains c then s.freeVal else 0

/-- Update-IR loads instruction c: one of the five of R478 starts a part reset of cause DEBUG, and another one ends it. -/
def loadInsn (c : Nat) (s : State) : State :=
  let was := testInsn s.dbg.insn
  let s := (modDbg (fun d => { d with insn := c, dr := captured c s }) s).drawn
  if testInsn c then partReset 7 (modDbg (fun d => { d with test := true }) s)
  else if was then modCrh (fun x => { x with rstAt := max x.rstAt s.now }) s else s
/-- EXTEST. -/
def execExtest (s : State) : Out := .next (loadInsn 0x00 s)
/-- SAMPLE/PRELOAD: the boundary register samples the pins, and its update stage takes what is shifted in, which the command does not
carry: a free value (R478; log entries 28 and 53). -/
def execSamplePreload (s : State) : Out :=
  .next <|
    let t := loadInsn 0x01 s
    let u := t.drawn
    (modDbg (fun d => { d with bound := pinCells t, upd := freeCells u.freeVal }) u).drawn
/-- IDCODE. -/
def execIdcode (s : State) : Out := .next (loadInsn 0x02 s)
/-- CLAMP. -/
def execClamp (s : State) : Out := .next (loadInsn 0x03 s)
/-- HIGHZ. -/
def execHighz (s : State) : Out := .next (loadInsn 0x04 s)
/-- EXTEST_PULSE. -/
def execExtestPulse (s : State) : Out := .next (loadInsn 0x05 s)
/-- EXTEST_TRAIN. -/
def execExtestTrain (s : State) : Out := .next (loadInsn 0x06 s)
/-- BYPASS, which every code that R476 does not list acts as. -/
def execBypass (s : State) : Out := .next (loadInsn 0xFF s)
/-- TRST: the TAP controller and the debug port's level alone (R478, R483). Test-Logic-Reset reached through TMS does the same. -/
def execTrst (s : State) : Out :=
  .next (vendorEnds 9 ((loadInsn 0x02 s).modMaster 9 fun x => { x with level := 1, chal := none }))

end Sys2Proof.Machine
end

