-- ==== Sys2Proof/Machine/Fcp.lean ====
section
/-! DEFINITION. Fail capture and spill queues (08_fail_capture.md R215 to R246). -/
namespace Sys2Proof.Machine

/-! Processing of cycles (R216 to R220, R235, R238 to R240). -/

/-- The engine clock edge at which FCP processes the oldest waiting cycle of VEn: at or after its vector is complete and
the cycle before it is processed, at most four per clock (R216). -/
def procEdge (f : FcpS) (c : CycRec) : Nat :=
  let e := max (engEdge c.vec) f.lastProc
  if e = f.lastProc ∧ 4 ≤ f.onEdge then e + 8192 else e

/-- A record opened by a fail cycle. -/
def openRecord (c : CycRec) : FailRec :=
  ⟨c.cyc, c.fv, 0, c.addr, 0, c.site, c.apg, c.mdrop, c.tset, c.pc, c.policy⟩

/-- The open record extended by the cycle, if it extends it (R219). -/
def extendRecord (r : FailRec) (c : CycRec) : Option FailRec :=
  if c.mode.testBit 3 && Nat.beq c.cyc (r.cyc + r.run + 1) && Nat.beq c.fv r.fv && Nat.beq c.pc r.pc && Nat.beq c.tset r.tset
      && Nat.beq c.site r.site && c.apg == r.apg && c.mdrop == r.mdrop && Nat.blt r.run 65535 then
    if r.run = 0 then
      if c.addr = r.addr then some { r with run := 1, astep := 0, policy := c.policy }
      else if c.addr = (r.addr + 1) % 2 ^ 48 then some { r with run := 1, astep := 1, policy := c.policy }
      else none
    else if c.addr = (r.addr + (r.run + 1) * r.astep) % 2 ^ 48 then some { r with run := r.run + 1, policy := c.policy }
    else none
  else none

/-- RECORD mode: the cycle extends the open record, or closes it, and a fail cycle then opens one (R219, R220). -/
def recordCycle (n th : Nat) (c : CycRec) (s : State) : State :=
  let fail := c.fv != 0 && c.mode.testBit 0
  match (if fail then ((s.fcpOf n).opn.bind fun r => extendRecord r c) else none) with
  | some r => s.modFcp n fun f => { f with opn := some r }
  | none =>
    let s := closeRecord n th s
    if fail then s.modFcp n fun f => { f with opn := some (openRecord c) } else s

/-- COUNT mode: one increment of 48 bits per failing channel; one lost to saturation is counted (R238). -/
def countCycle (n : Nat) (c : CycRec) (s : State) : State :=
  if c.mode.testBit 1 then
    c.chans.foldl (fun s ch =>
      if s.rd (FCP.FCOUNT ch) = 2 ^ 48 - 1 then s.bump 64 (FCP.CNT_SAT n) else s.bump 48 (FCP.FCOUNT ch)) s
  else s

/-- The field F and index i of a fail cycle as a bitmap operation (R239), if F is not zero. -/
def bitmapOf (th : Nat) (c : CycRec) : Option BmOp :=
  let w := bmWidth c.bmCfg
  let f := if c.bmCfg.testBit 4 then (if c.fv &&& c.pmask = 0 then 0 else 1) else c.fv / 2 ^ Dict.bitsOf c.bmCfg 17 12 % 2 ^ w
  let i := (c.addr / 2 ^ Dict.bitsOf c.bmCfg 23 18) &&& c.amask
  if f = 0 then none else some ⟨c.bmBase + 8 * (i * w / 64), f * 2 ^ (i * w % 64), th, c.policy⟩

/-- BITMAP mode: the operation merges into the open one, or replaces it, or leaves at once (R239, R240). -/
def bitmapCycle (n th : Nat) (c : CycRec) (s : State) : State :=
  if c.fv != 0 && c.mode.testBit 2 then
    match bitmapOf th c with
    | none => s
    | some op =>
      if c.bmCfg.testBit 3 then
        match (s.fcpOf n).bmOpen with
        | some o =>
          if o.addr = op.addr then
            (s.modFcp n fun f => { f with bmOpen := some { o with mask := o.mask ||| op.mask } }).bump 64 (FCP.BM_MERGED n)
          else (closeBitmap n th s).modFcp n fun f => { f with bmOpen := some op }
        | none => s.modFcp n fun f => { f with bmOpen := some op }
      else formBitmap n th op (closeBitmap n th s)
  else s

/-- Stop-on-N: the fail cycle that brings FCP.RUN_FAILS to FCP.STOP_N closes the record and latches a STOP (R235). It
does so with every mode off too: R235 names no mode, and R218 speaks of what FCP does with the cycle (DESIGN CHOICE, log entry 57). -/
def stopOnN (n th : Nat) (c : CycRec) (s : State) : State :=
  if c.fv != 0 && c.policy.testBit 0 && Nat.beq (s.rd (FCP.RUN_FAILS n)) c.stopN then
    let s := if c.mode.testBit 0 then closeRecord n th s else s
    fcpStop n 1 c.policy th (s.modFcp n fun f => { f with capped := true })
  else s

/-- An open operation 32 engine clocks old by instant t leaves the merge stage (R240). -/
def mergeExpire (n t : Nat) (s : State) : State :=
  match (s.fcpOf n).bmOpen with
  | some o => if o.opened + 32 * 8192 ≤ t then closeBitmap n (o.opened + 32 * 8192) s else s
  | none => s

/-- Is the latest cycle of VEn the last before a boundary at which FCP settings change (R220, R240)? -/
def lastBefore (n : Nat) (s : State) : Bool :=
  issuing n s && landDue n (veBoundary n s) s && landsFcp n (veBoundary n s) s
/-- Is it the last of its run: a HALT word ends the run after it, or a request or a fault at the boundary that follows (R240)? -/
def lastOfRun (n : Nat) (s : State) : Bool :=
  Nat.beq (veState n s) 3 && ((s.veOf n).endAt.isSome || due (s.veOf n).haltAt (veBoundary n s) || due (s.veOf n).stopAt (veBoundary n s)
    || (timedFault n (veBoundary n s) s).isSome)
/-- The waiting cycle c of VEn processed at edge th: record and operation close after the last cycle before a change of FCP settings,
the operation after the last of a run; the record then closes as the engine enters its state (closeMark). -/
def processCycle (n th : Nat) (c : CycRec) (s : State) : State :=
  let s := mergeExpire n th (s.modFcp n fun f =>
    { f with cycles := f.cycles.drop 1, lastProc := th, onEdge := if f.lastProc = th then f.onEdge + 1 else 1 })
  let s := if c.fv = 0 then s
    else brkMatch 3 (1 + n) c.cyc c.site 0 th ((s.bump 64 (FCP.FAILCYC n)).bump 64 (FCP.RUN_FAILS n))
  let s := stopOnN n th c (bitmapCycle n th c (countCycle n c (recordCycle n th c s)))
  let last := (s.fcpOf n).cycles.isEmpty
  if c.closeAfter || (last && lastBefore n s) then closeBitmap n th (closeRecord n th s)
  else if last && lastOfRun n s then closeBitmap n th s else s

/-- FAIL_CYCLE: FCP processes the oldest cycle of VEn that it has not processed. -/
def execFailCycle (n : Nat) (s : State) : Out :=
  unitCmd n 32 <|
    match (s.fcpOf n).cycles with
    | c :: _ =>
      let th := procEdge (s.fcpOf n) c
      processCycle n th c (s.upto th)
    | [] => s

/-- MERGE_TIMEOUT: 32 engine clocks after it opened, the open operation leaves the merge stage (R240). -/
def execMergeTimeout (n : Nat) (s : State) : Out :=
  unitCmd n 32 <|
    match (s.fcpOf n).bmOpen with
    | some o => closeBitmap n (o.opened + 32 * 8192) (s.upto (o.opened + 32 * 8192))
    | none => s

/-- An OR-write of VEn answered (R241). -/
def bitmapDone (n : Nat) (x : MeshResp) (s : State) : State :=
  let s := (respTaken x s).wr (FCP.BM_INFLIGHT n) (s.rd (FCP.BM_INFLIGHT n) - 1)
  if x.kind = 2 then qFlag n 3 (seenEdge s) (s.bump 64 (FCP.BM_ERR n)) else s.bump 64 (FCP.BM_DONE n)

/-! Spill queues (R224 to R233). -/

/-- FCP.Q_WORDS: words in the tail, the ring, the head and ring transfers in flight (R227). -/
def qWords (q : Nat) (s : State) : Nat :=
  (s.sqOf q).tail.length + (s.sqOf q).head.length + (s.sqOf q).early.length + 31 * (s.sqOf q).ring.length

/-- FCP.Q_PKTS becomes v: in DAMAGED its value is unspecified (R231; log entry 9). Rising to the threshold sets THRESH. -/
def setPkts (q v : Nat) (s : State) : State :=
  let old := s.rd (FCP.Q_PKTS q)
  let new := if s.rd (FCP.Q_STATE q) = 2 then s.freeVal % 2 ^ 64 else v
  let s := (if s.rd (FCP.Q_STATE q) = 2 then s.drawn else s).wr (FCP.Q_PKTS q) new
  let t := s.rd (FCP.Q_THRESH q)
  if t ≠ 0 ∧ old < t ∧ t ≤ new then qFlag q 0 (seenEdge s) s else s

/-- Words entering the tail of SQq (R224, R227). -/
def enterTail (q : Nat) (ws : List (Nat × Bool)) (s : State) : State :=
  let marks := (ws.filter (·.2)).length
  let s := (s.modSq q fun x => { x with tail := x.tail ++ ws }).addTo 64 (FCP.Q_IN q) ws.length
  if marks = 0 then s else setPkts q (s.rd (FCP.Q_PKTS q) + marks) s

/-- Words leaving the head of SQq to a consumer (R227). -/
def leaveHead (q k : Nat) (s : State) : State :=
  let ws := (s.sqOf q).head.take k
  let marks := (ws.filter (·.2)).length
  let s := (s.modSq q fun x => { x with head := x.head.drop k }).addTo 64 (FCP.Q_OUT q) k
  if marks = 0 then s else setPkts q (s.rd (FCP.Q_PKTS q) - marks) s

/-- RECORD_TO_TAIL: the oldest record of the capture FIFO enters the tail of SQn, when it has four free words; one per
engine clock (R222). -/
def execRecordToTail (n : Nat) (s : State) : Out :=
  unitCmd n 32 <|
    match (s.fcpOf n).cap with
    | ws :: rest =>
      if s.rd (FCP.Q_STATE n) ≠ 0 ∧ (s.sqOf n).tail.length + 4 ≤ 64 then
        let e := max (engEdge s.now) ((s.fcpOf n).lastMove + 8192)
        let s := (s.upto e).modFcp n fun f => { f with cap := rest, lastMove := e }
        enterTail n (ws.take 3 |>.map (·, false) |>.append ((ws.drop 3).map (·, true))) (s.bump 64 (FCP.REC_QUEUED n))
      else s
    | [] => s

/-- Ring reads of SQq in flight. -/
def readsOf (q : Nat) (s : State) : Nat :=
  ((s.sqOf q).ring.filter fun e => decide (e.2 = .reading) || decide (e.2 = .readFlushed)).length
/-- Ring writes of SQq in flight. -/
def writesOf (q : Nat) (s : State) : Nat :=
  ((s.sqOf q).ring.filter fun e => decide (e.2 = .writing) || decide (e.2 = .writeFlushed)).length
/-- Free words of the head, net of those held for ring reads (R226) and of words that wait for an older read (R227). -/
def headRoom (q : Nat) (s : State) : Nat := 64 - (s.sqOf q).head.length - (s.sqOf q).early.length - 31 * readsOf q s

/-- Does the mover of SQq move words straight from tail to head: an enabled queue whose ring holds nothing, with room in
the head (R226)? With no room in the head the words go to the ring (log entry 21). -/
def movesDirect (q : Nat) (s : State) : Bool := (s.sqOf q).ring.isEmpty && Nat.blt 0 (headRoom q s)

/-- TAIL_TO_HEAD_MOVE: up to eight oldest words, as the head has room (R226). -/
def execTailToHeadMove (q : Nat) (s : State) : Out :=
  unitCmd q 64 <|
    if s.rd (FCP.Q_STATE q) ≠ 0 ∧ movesDirect q s = true ∧ (s.sqOf q).tail ≠ [] then
      let k := min 8 (headRoom q s)
      let e := engAfter s.now
      (s.upto e).modSq q fun x =>
        { x with head := x.head ++ x.tail.take k, tail := x.tail.drop k, wrFrom := e + 8192, rdFrom := e + 8192 }
    else s

/-- A ring line as a 256-byte block: 31 words and the mark word (R225). -/
def lineBlock (seq : Nat) (ws : List (Nat × Bool)) : Nat :=
  let d := ws.zipIdx.foldl (fun d e => d + e.1.1 % 2 ^ 64 * 2 ^ (64 * e.2)) 0
  let m := ws.zipIdx.foldl (fun m e => if e.1.2 then m + 2 ^ e.2 else m) 0
  d + (seq % 2 ^ 32 * 2 ^ 32 + m) * 2 ^ (64 * 31)

/-- The words of a ring line (R225). -/
def blockWords (d : Nat) : List (Nat × Bool) :=
  (List.range 31).map fun i => (d / 2 ^ (64 * i) % 2 ^ 64, (d / 2 ^ (64 * 31)).testBit i)

/-- The next line: the first free one in ring order, wrapping after the last (R226; log entry 21). A line freed out of
order, by an error or a FLUSH, is passed over no more than one still in use is written. -/
def ringLine (q : Nat) (s : State) : Nat :=
  let x := s.sqOf q
  let n := s.rd (FCP.Q_RING_LINES q)
  (((List.range (x.ring.length + 1)).map fun i => (x.wr + i) % n).find? fun l => !(x.ring.any fun e => Nat.beq e.1 l)).getD x.wr

/-- RING_WRITE_ISSUE: the 31 oldest tail words are written as the next line, in class C1, one line at an engine clock
edge (R225, R226). -/
def execRingWriteIssue (q : Nat) (s : State) : Out :=
  unitCmd q 64 <|
    let x := s.sqOf q
    if s.rd (FCP.Q_STATE q) ≠ 0 ∧ movesDirect q s = false ∧ 31 ≤ x.tail.length ∧ ringFull q s = false ∧ writesOf q s < 32 then
      let data := lineBlock x.seq (x.tail.take 31)
      let line := ringLine q s
      let e := max (engEdge s.now) x.wrFrom
      let s := (s.upto e).modSq q fun x =>
        { x with tail := x.tail.drop 31, ring := x.ring ++ [(line, .writing)], seq := x.seq + 1,
                 wr := (line + 1) % s.rd (FCP.Q_RING_LINES q), wrFrom := e + 8192 }
      let s := s.wr (FCP.Q_HWM q) (max (s.rd (FCP.Q_HWM q)) (s.sqOf q).ring.length)
      meshSend ⟨.write, .ringWrite q line, veNode q, 1, s.rd (FCP.Q_RING_BASE q) + 256 * line, 256, data⟩ s
    else s

/-- The oldest line whose read has not been issued, if its write has completed (R226). -/
def nextRead (q : Nat) (s : State) : Option Nat :=
  match (s.sqOf q).ring.find? fun e => decide (e.2 ≠ .reading) && decide (e.2 ≠ .readFlushed) && decide (e.2 ≠ .writeFlushed) with
  | some (l, .written) => some l
  | _ => none

/-- RING_READ_ISSUE: the oldest written line is read, in class C1, one line at an engine clock edge (R226). -/
def execRingReadIssue (q : Nat) (s : State) : Out :=
  unitCmd q 64 <|
    if s.rd (FCP.Q_STATE q) ≠ 0 ∧ 31 ≤ headRoom q s ∧ readsOf q s < 2 then
      match nextRead q s with
      | some l =>
        let e := max (engEdge s.now) (s.sqOf q).rdFrom
        let s := (s.upto e).modSq q fun x =>
          { x with ring := x.ring.map fun e => if e.1 = l then (l, .reading) else e, rdFrom := e + 8192 }
        meshSend ⟨.read, .ringRead q, veNode q, 1, s.rd (FCP.Q_RING_BASE q) + 256 * l, 256, 0⟩ s
      | none => s
    else s

/-- A line leaves the ring. -/
def dropLine (q l : Nat) (s : State) : State := s.modSq q fun x => { x with ring := x.ring.filter fun e => !(Nat.beq e.1 l) }

/-- The 31 words of a line discarded at an error: the queue is DAMAGED, and FCP.Q_PKTS takes a free value (R231). -/
def damage (q : Nat) (s : State) : State :=
  let s := (s.addTo 64 (FCP.Q_ERR_WORDS q) 31).wr (FCP.Q_STATE q) 2
  qFlag q 5 (seenEdge s) (setPkts q 0 s)

/-- The words of a transfer in flight at a FLUSH discarded as it completes (R230). One that completes with an error is counted as
flushed too, and the queue stays ENABLED (DESIGN CHOICE between R230 and R231, log entry 57). -/
def flushedLine (q l : Nat) (s : State) : State :=
  qFlag q 6 (seenEdge s) ((dropLine q l s).addTo 64 (FCP.Q_FLUSHED q) 31)

/-- The words of the oldest ring read enter the head, and with them those that a younger one brought early (R227). -/
def intoHead (q : Nat) (ws : List (Nat × Bool)) (s : State) : State :=
  s.modSq q fun x => { x with head := x.head ++ ws ++ x.early, early := [] }

/-- Is a line that is older than line l in the ring still being read, for the head? -/
def olderRead (q l : Nat) (s : State) : Bool :=
  ((s.sqOf q).ring.takeWhile fun e => !(Nat.beq e.1 l)).any fun e => decide (e.2 = .reading)

/-- The words of line l, whose read is answered, enter the head, or wait for those of an older line (R227). -/
def readWords (q : Nat) (older : Bool) (ws : List (Nat × Bool)) (s : State) : State :=
  if older then s.modSq q fun x => { x with early := x.early ++ ws } else intoHead q ws s

/-- A ring line write answered (R226, R230, R231). -/
def ringWriteDone (q line : Nat) (x : MeshResp) (s : State) : State :=
  let s := respTaken x s
  match (s.sqOf q).ring.find? fun e => Nat.beq e.1 line with
  | some (_, .writing) =>
    if x.kind = 2 then damage q (dropLine q line s)
    else s.modSq q fun x => { x with ring := x.ring.map fun e => if e.1 = line then (line, .written) else e }
  | some (_, .writeFlushed) => flushedLine q line s
  | _ => s

/-- A ring line read answered: its words enter the head, or are discarded (R226, R230, R231). -/
def ringReadDone (q l : Nat) (x : MeshResp) (s : State) : State :=
  let s := respTaken x s
  match (s.sqOf q).ring.find? fun e => Nat.beq e.1 l with
  | some (_, .reading) =>
    let older := olderRead q l s
    if x.kind = 2 then damage q (readWords q older [] (dropLine q l s))
    else readWords q older (blockWords x.data) (dropLine q l s)
  | some (_, .readFlushed) => flushedLine q l s
  | _ => s

/-- POP of one word (R228). -/
def popEff (q : Nat) (s : State) : State :=
  match (s.sqOf q).head with
  | w :: _ => leaveHead q 1 (s.wr (FCP.POP_MARK q) (if w.2 then 1 else 0))
  | [] => s

/-- POP: refused with 0x07 at an empty head. -/
def execPop (r : Req) (q : Nat) (s : State) : Out :=
  unitCmd q 64 (readFrom r (FCP.POP q) 8 (((s.sqOf q).head.headD (0, false)).1) [((s.sqOf q).head.isEmpty, 7)] (popEff q) s)

/-- Words of the first packet in the head, if it holds an end mark (R229). -/
def packetLen (q : Nat) (s : State) : Option Nat := ((s.sqOf q).head.findIdx? (·.2)).map (· + 1)

/-- POPREC of k words. -/
def poprecEff (q k : Nat) (s : State) : State := leaveHead q k (s.wr (FCP.POP_MARK q) 1)

/-- The bytes of words, as a little-endian number. -/
def wordsData (ws : List Nat) : Nat := ws.foldr (fun w d => w % 2 ^ 64 + d * 2 ^ 64) 0

/-- POPREC: one packet, refused with 0x07 if the head holds no end mark. -/
def execPoprec (r : Req) (q : Nat) (s : State) : Out :=
  unitCmd q 64 <|
    let k := (packetLen q s).getD 0
    readFrom r (FCP.POPREC q) (8 * k) (wordsData (((s.sqOf q).head.take k).map (·.1))) [((packetLen q s).isNone, 7)]
      (poprecEff q k) s

/-- Is VEq of a fail queue live, or FCP still holding records of it (R230)? -/
def feederLive (q : Nat) (s : State) : Bool := Nat.blt q 32 && veLive q s

/-- Is a populated DMC untrained (R230, 09 R250)? -/
def dramUntrained (s : State) : Bool :=
  (List.range 4).any fun d => [1, 2, 5].contains (s.rd (DMC.STATE d)) && !(s.bit DMC.EXCLUDE d)

/-- A change of the queue's state that a checked batch may rest on (R243, 02 R63). -/
def queueChanged (q : Nat) (s : State) : State :=
  reopenIf (Nat.blt q 32 && (s.hdi.mirror.batch.any fun e => Nat.beq e.key (FCP.MODE q) || Nat.beq e.key (VEN.START_ON_APPLY q))) s

/-- Conditions of ENABLE (R230). -/
def queueEnableConds (q : Nat) (s : State) : List (Bool × Nat) :=
  [ (s.rd (FCP.Q_STATE q) != 0, 9),
    (Nat.blt (s.rd DMC.INSTALLED) (s.rd (FCP.Q_RING_BASE q) + 256 * s.rd (FCP.Q_RING_LINES q)), 4), (dramUntrained s, 7) ]
/-- ENABLE: ENABLED, empty, SEQ from 0 (R230). -/
def queueEnableEff (q : Nat) (s : State) : State :=
  queueChanged q ((((s.modSq q fun x => { evAt := x.evAt, wrFrom := x.wrFrom, rdFrom := x.rdFrom }).wr (FCP.Q_STATE q) 1).wr
    (FCP.Q_HWM q) 0).wr (FCP.Q_PKTS q) 0)
/-- Conditions of DISABLE (R230). -/
def queueDisableConds (q : Nat) (s : State) : List (Bool × Nat) :=
  [ (Nat.beq (s.rd (FCP.Q_STATE q)) 0, 9), (qWords q s != 0, 9),
    (Nat.blt q 32 && (veLive q s || !((s.fcpOf q).cap.isEmpty)), 9) ]
/-- DISABLE. -/
def queueDisableEff (q : Nat) (s : State) : State := queueChanged q (s.wr (FCP.Q_STATE q) 0)
/-- Conditions of FLUSH (R230). -/
def flushConds (q : Nat) (s : State) : List (Bool × Nat) := [(Nat.beq (s.rd (FCP.Q_STATE q)) 0, 9), (feederLive q s, 9)]
/-- FLUSH: the words of tail, head and ring are discarded; transfers in flight later (R230). -/
def flushEff (q : Nat) (s : State) : State :=
  let x := s.sqOf q
  let k := x.tail.length + x.head.length + x.early.length + 31 * (x.ring.filter fun e => decide (e.2 = .written)).length
  let s := ((s.wr (FCP.Q_STATE q) 1).wr (FCP.Q_PKTS q) 0).modSq q fun x =>
    { x with tail := [], head := [], early := [], pkt := 0,
             ring := (x.ring.filter fun e => decide (e.2 ≠ .written)).map fun e =>
               (e.1, match e.2 with | .writing => .writeFlushed | .reading => .readFlushed | y => y) }
  if k = 0 then s else qFlag q 6 (seenEdge s) (s.addTo 64 (FCP.Q_FLUSHED q) k)

/-- QUEUE_ENABLE. -/
def execQueueEnable (r : Req) (q : Nat) (s : State) : Out :=
  unitCmd q 64 (command r (FCP.Q_CTRL q) 1 (queueEnableConds q s) (queueEnableEff q) s)
/-- QUEUE_DISABLE. -/
def execQueueDisable (r : Req) (q : Nat) (s : State) : Out :=
  unitCmd q 64 (command r (FCP.Q_CTRL q) 2 (queueDisableConds q s) (queueDisableEff q) s)
/-- FLUSH. -/
def execFlush (r : Req) (q : Nat) (s : State) : Out :=
  unitCmd q 64 (command r (FCP.Q_CTRL q) 3 (flushConds q s) (flushEff q) s)

/-- Conditions of a push (R232, R233). The room of R233 is asked for in SQ0 to SQ31 too, whose refusal with 0x08 then precedes the one
with 0x09 (DESIGN CHOICE, log entry 57). -/
def pushConds (q : Nat) (mark : Bool) (s : State) : List (Bool × Nat) :=
  let x := s.sqOf q
  [ (Nat.blt q 32, 9), (Nat.beq (s.rd (FCP.Q_STATE q)) 0, 7), (!mark && Nat.ble 31 x.pkt, 4),
    (if x.pkt = 0 then !(Nat.ble (x.tail.length + 32) 64 || (Nat.blt x.tail.length 64 && !(ringFull q s))) else Nat.ble 64 x.tail.length, 8) ]
/-- A word pushed, with or without an end mark (R232). -/
def pushEff (q v : Nat) (mark : Bool) (s : State) : State :=
  enterTail q [(v % 2 ^ 64, mark)] (s.modSq q fun x => { x with pkt := if mark then 0 else x.pkt + 1 })
/-- A push through the member of key k; one refused with 0x08 is counted (R233). -/
def pushWord (r : Req) (k q v : Nat) (mark : Bool) (s : State) : State :=
  let st := statusOf r 2 (k / 256) (k % 256) 8 v 0 (pushConds q mark s) s
  let t := finish r 2 (k / 256) (k % 256) st 0 0 (pushEff q v mark) s
  if st = 8 ∧ deaf r s = false then qFlag q 4 (seenEdge s) (t.bump 64 (FCP.Q_REFUSED q)) else t

/-- PUSH. -/
def execPush (r : Req) (q v : Nat) (s : State) : Out := unitCmd q 64 (pushWord r (FCP.PUSH q) q v false s)
/-- PUSH_END. -/
def execPushEnd (r : Req) (q v : Nat) (s : State) : Out := unitCmd q 64 (pushWord r (FCP.PUSH_END q) q v true s)

/-- FCOUNT_CLR is refused while the channel's owner is live (R238). -/
def fcountConds (c : Nat) (s : State) : List (Bool × Nat) := [(Nat.blt (inOwner c s) 32 && veLive (inOwner c s) s, 9)]
/-- FCOUNT_CLR: the counter cleared. -/
def fcountEff (c : Nat) (s : State) : State := s.wr (FCP.FCOUNT c) 0
/-- FCOUNT_CLR. -/
def execFcountClr (r : Req) (c v : Nat) (s : State) : Out :=
  unitCmd c 256 (command r (FCP.FCOUNT_CLR c) v (fcountConds c s) (fcountEff c) s)

end Sys2Proof.Machine
end

