-- ==== Sys2Proof/Machine/Look.lean ====
section
/-! DEFINITION. What a READ returns: members whose value follows from the rest of the state, the snapshots of RD members, and
the ledgers SUP checks (02 R44, R45, 20 R505 to R508). -/
namespace Sys2Proof.Machine

/-- EDG.OSTATE and EDG.ISTATE of channel x (OUT c as c, IN c as 256 + c): held, without owner, running, or owned (06 R191). -/
def channelState (x : Nat) (s : State) : Nat :=
  let n := channelOwner x s
  if focusHeld x s then 3 else if !(Nat.blt n 32) || Nat.beq (veState n s) 0 then 0 else if Nat.beq (veState n s) 3 then 2 else 1

/-- VEN.OWNED (03 R108). -/
def ownedBy (n : Nat) (s : State) : Nat :=
  ((outMap n s).filter fun e => Nat.blt e.2 256).length + 256 * ((inMap n s).filter fun e => Nat.blt e.2 256).length

/-- VEN.PTO_LEFT (03 R106). -/
def ptoLeft (n : Nat) (s : State) : Nat :=
  match (s.veOf n).ptoEnd with
  | some e => (e - s.now + 8191) / 8192
  | none => s.rd (VEN.PTO_LEFT n)

/-- LNK.MESH_INFLIGHT: requests buffered or in the mesh, and responses that wait to be sent (12 R336). -/
def laneInflight (n : Nat) (s : State) : Nat :=
  let x := s.laneOf n
  (x.buf.filter fun m => Nat.beq m.chan 0).length + x.inMesh.length + x.txMesh.length

/-- DMC.INFLIGHT of class c (09 R262). -/
def dmcInflight (n c : Nat) (s : State) : Nat := ((s.dmcOf n).track.filter fun t => Nat.beq t.req.cls c).length

/-- CFG.LOUPE_STATE (17 R456). -/
def loupeState (s : State) : Nat :=
  if !(loupeOn s) then 0 else if (List.range 32).any (fun f => Nat.beq (s.rd (CFG.FACET_STATE f)) 2) then 2 else 1

/-- Network time of the last engine clock edge (13 R345). -/
def tmuNow (s : State) : Nat := toTime128 (netNow s)

/-- Members of digits 0 to 3 that follow from the state, for the reading master a. -/
def lookLow (a o m : Nat) (s : State) : Option Nat :=
  match o with
  | 0x0000 => if m = 5 then some s.crh.grade else none
  | 0x0001 =>
    some (s.rd HDI.STATUS + 32 * flagBit (s.rd HDI.MIRROR_OWNER != 0xFF) + 64 * flagBit (Nat.beq (mirrorState s) 5))
  | 0x0002 => some (levelOf s a)
  | 0x0010 =>
    if m = 2 then some s.hdi.mirror.batch.length
    else if m = 3 then some (s.hdi.mirror.batch.map (·.len)).sum else none
  | 0x0011 => if m = 5 then some (netNow s % 2 ^ 32) else none
  | 0x0012 => some (s.masterOf a).pend.length
  | 0x1001 => if m = 1 then some (supWdLeft s s.now) else none
  | 0x1400 => if m = 1 then some s.sup.log.length else if m = 5 then some s.sup.ibi.length else none
  | 0x3400 => if m = 2 then some (loupeState s) else none
  | 0x3601 => some (slotWear m s)
  | _ => none

/-- Members of digits 4 to 9 that follow from the state. -/
def lookMid (o m : Nat) (s : State) : Option Nat :=
  let n := o % 256
  match o / 256 with
  | 0x41 =>
    if m = 1 then
      some (flagBit (released n s) + 2 * flagBit (Nat.beq (s.rd (VEN.APG_BIND n)) 1) + 4 * flagBit (Nat.beq (s.rd (CRH.GATE_STATE n)) 0))
    else none
  | 0x42 => if 0x10 ≤ m then some (userOut n (m - 0x10) s) else none
  | 0x50 =>
    if m = 1 then some (bitSet 32 fun f => (List.range 48).any fun i => s.rd (PAN.EVFLAGS (48 * f + i)) != 0) else none
  | 0x51 | 0x52 | 0x53 | 0x54 | 0x55 | 0x56 => if m = 3 then some (s.paneOf (o - 0x5100)).q.length else none
  | 0x60 => if m = 1 then some (bitSet 64 fun b => s.rd (SCR.EVFLAGS b) != 0) else none
  | 0x70 => some (bitSet 32 fun n => Nat.beq (veState n s) 3 || Nat.beq (veState n s) 4)
  | 0x71 =>
    match m with
    | 0x09 => some (ptoLeft n s)
    | 0x0D => some (veFlags n s)
    | 0x10 => some (s.veOf n).stack.length
    | 0x11 => some (eventsNow n s)
    | 0x15 => some (ownedBy n s)
    | 0x1A => some (if s.rd (VEN.BUF_MODE n) = 2 then 512 else (s.veOf n).lines.length)
    | 0x1C => some (s.veOf n).fifo.length
    | _ => none
  | 0x80 =>
    if n = 1 then
      some (s.rd EDG.DROP_GROUPS ||| bitSet 32 fun g => (List.range 8).any fun i =>
        dropsDue (s.outOf (8 * g + i)).drops s || dropsDue (s.inOf (8 * g + i)).drops s)
    else none
  | 0x83 =>
    match m with
    | 0 => some (channelState n s)
    | 3 => some (outOwner n s)
    | 4 => some (dropsCount (EDG.EDGE_DROP n) (s.outOf n).drops s)
    | 5 => some (flagBit (shownLevels n s.now s).1 + 2 * flagBit (shownLevels n s.now s).2)
    | _ => none
  | 0x84 =>
    match m with
    | 0 => some (channelState (256 + n) s)
    | 3 => some (inOwner n s)
    | 4 => some (dropsCount (EDG.STROBE_DROP n) (s.inOf n).drops s)
    | 5 => some (flagBit (inLevel n s))
    | _ => none
  | 0x8F =>
    if n = 0 ∧ m = 5 then some (bitSet 32 fun g => stale g (toS16 (s.rd (EDG.GROUP g))) s) else none
  | 0x90 => if n = 1 then some (bitSet 64 fun q => s.rd (FCP.Q_EVFLAGS q) != 0) else none
  | 0x91 => if m = 0x16 then some (s.fcpOf n).cap.length else if m = 0x19 then some (s.fcpOf n).bmFifo.length else none
  | 0x93 => if m = 5 then some (qWords n s) else if m = 0x0B then some (s.sqOf n).ring.length else none
  | _ => none

/-- Members of digits A to F that follow from the state, for the reading master a. -/
def lookHigh (a o m : Nat) (s : State) : Option Nat :=
  let n := o % 256
  match o / 256 with
  | 0xA0 => if m = 1 then some (bitSet 32 fun n => Nat.beq (s.rd (DSP.STATE n)) 2 || Nat.beq (s.rd (DSP.STATE n)) 3) else none
  | 0xA1 => if m = 7 then some (wdogLeft n s) else if m = 0x0F then some (dspCycles n s) else none
  | 0xB1 =>
    if 0x1C ≤ m ∧ m ≤ 0x1F then some (dmcInflight n (m - 0x1C) s)
    else if m = 0x2A then some (min 64 ((s.dmcOf n).throttles.filter fun t => Nat.blt s.now t.until').length) else none
  | 0xC3 => if n = 0 ∧ m = 1 then some s.trace.length else none
  | 0xD1 =>
    if m = 4 ∧ 4 ≤ s.rd (LNK.RATE n) then some 1 else if m = 0x19 then some (laneInflight n s) else none
  | 0xE0 =>
    match n, m with
    | 0, 1 => some (tmuNow s)
    | 0, 6 => some (s.rd TMU.STATUS + 4 * flagBit (acquiring s))
    | 1, 0x0D => some s.sched.length
    | 7, _ => some (s.rd (TMU.LANE_FLAGS m) + 256 * (s.laneTimeOf m).txts.length + 65536 * (s.laneTimeOf m).rx.length)
    | _, _ => none
  | 0xE1 => if o * 256 + m = TMU.AP_STATE n then some (apState n s) else none
  | 0xE2 => if m = 6 then some (trgState n s) else none
  | 0xE3 => if m = 2 then some (s.capOf n).q.length else none
  | 0xF0 =>
    match n, m with
    | 0, 5 => some (s.masterOf a).brkLast
    | 1, 1 => some ((s.masterOf a).chal.getD 0)
    | _, _ => none
  | 0xF2 => if m = 2 then some (tstate n s) else none
  | 0xF4 =>
    let t := s.tgtOf n
    match m with
    | 1 => some t.drx
    | 2 => some (flagBit t.dtxFull + 2 * flagBit t.drxFull)
    | 5 => some (min (8 * (t.dtxReads + 1)) (2 ^ 64 - 1))
    | 6 => some (min (8 * t.drxWrites) (2 ^ 64 - 1))
    | _ => none
  | _ => none

/-- The value in effect of member m of object o, as master a reads it (02 R38, R44). -/
def look (a o m : Nat) (s : State) : Nat :=
  let low := if o < 0x4000 then lookLow a o m s else if o < 0xA000 then lookMid o m s else lookHigh a o m s
  low.getD (s.rd (o * 256 + m))

/-! Snapshots of RD members (02 R45). -/

/-- Chunk k of 2,048 bytes of the trace buffer, oldest record first (11 R314, R315). -/
def traceChunk (k : Nat) (s : State) : Nat := packed 32 ((s.trace.drop (64 * k)).take 64)
/-- Chunk k of the trim image in effect; without one its bytes are free (07 R209). Once the slot that CFG.TRIM_SLOT names has been written
again, its newer image is read (DESIGN CHOICE, log entry 45). -/
def trimChunk (k : Nat) (s : State) : Nat :=
  if s.rd CFG.TRIM_SLOT = 0xFF then s.freeVal % 2 ^ 16384 else field (slotImage (s.rd CFG.TRIM_SLOT) s) (2048 * k) 2048
/-- Bytes of the snapshot of an RD member and their value, mesh data apart. The DFE taps are free (12 R323; log entry 9). -/
def snapshot (o m : Nat) (s : State) : Nat × Nat :=
  match o / 256 with
  | 0x36 => (2048, trimChunk m s)
  | 0xB1 => (2, (s.dmcOf (o % 256)).temp)
  | 0xC3 => (2048, traceChunk m s)
  | _ => (24, s.freeVal % 2 ^ 192)

/-! Ledgers (R505 to R507). -/

/-- The requests of the mesh and of its ports. -/
def withCredits (s : State) : List MeshReq :=
  s.reqs ++ (s.held ++ s.steal).map (·.req) ++ s.dmc.flatMap fun e => e.2.ingress
/-- Requests of the pool of r in the mesh or in the port's ingress buffer, each with a credit (11 R306). -/
def creditsOut (r : MeshReq) (s : State) : Nat := creditsUsed r s + (s.reqs.filter fun x => samePool x r s && sent x s).length
/-- Credits of the pool of r that its source holds. -/
def creditsHeld (r : MeshReq) (s : State) : Nat := 4 - creditsOut r s

/-- Instances of ledger code c as (unit, sub, does the equality hold). -/
def ledger (c : Nat) (s : State) : List (Nat × Nat × Bool) :=
  let unitsOf := fun k (f : Nat → Bool) => (List.range k).map fun n => (n, 0, f n)
  match c with
  | 1 => unitsOf 32 fun n =>
      Nat.beq (s.rd (VEN.REFILL_ISSUED n)) (s.rd (VEN.REFILL_DONE n) + (s.veOf n).inflight.length + (s.veOf n).stale.length)
  | 2 => unitsOf 32 fun n =>
      Nat.beq (s.rd (VEN.APG_TAKEN n)) (s.rd (VEN.APG_USED n) + s.rd (VEN.APG_DISCARD n) + (s.veOf n).fifo.length)
  | 3 => unitsOf 32 fun n =>
      Nat.beq (s.rd (FAB.MESH_ISSUED n)) (s.rd (FAB.MESH_DONE n) + s.rd (FAB.MESH_DISCARD n) + (facetReqs n s).length)
  | 4 => unitsOf 1536 fun n =>
      Nat.beq (s.rd (PAN.PUSHED n)) (s.rd (PAN.POPPED n) + (s.paneOf n).q.length + s.rd (PAN.DISCARD n))
  | 5 => unitsOf 32 fun n =>
      Nat.beq (s.rd (FCP.REC_FORMED n)) (s.rd (FCP.REC_QUEUED n) + s.rd (FCP.REC_DROP_CAP n) + s.rd (FCP.REC_DROP_RING n)
        + s.rd (FCP.REC_CAPPED n) + (s.fcpOf n).cap.length)
  | 6 => unitsOf 64 fun n =>
      Nat.beq (s.rd (FCP.Q_IN n)) (s.rd (FCP.Q_OUT n) + qWords n s + s.rd (FCP.Q_FLUSHED n) + s.rd (FCP.Q_ERR_WORDS n))
  | 7 => unitsOf 32 fun n => Nat.beq (s.rd (FCP.Q_IN n)) (4 * s.rd (FCP.REC_QUEUED n))
  | 8 => unitsOf 32 fun n =>
      Nat.beq (s.rd (FCP.BM_FORMED n)) (s.rd (FCP.BM_DONE n) + s.rd (FCP.BM_ERR n) + s.rd (FCP.BM_DROP n)
        + (s.fcpOf n).bmFifo.length + s.rd (FCP.BM_INFLIGHT n))
  | 9 => (List.range 16).map fun i =>
      (i / 4, i % 4, Nat.beq (s.rd (DMC.ACCEPTED (i / 4) (i % 4)))
        (s.rd (DMC.DONE (i / 4) (i % 4)) + s.rd (DMC.ERRORS (i / 4) (i % 4)) + dmcInflight (i / 4) (i % 4) s))
  | 10 => unitsOf 48 fun n => Nat.beq (s.rd (LNK.MESH_IN n)) (s.rd (LNK.MESH_RESP n) + s.rd (LNK.MESH_DISCARD n) + laneInflight n s)
  | 11 => unitsOf 48 fun n =>
      Nat.beq (s.rd (LNK.SRX_MSGS n)) (s.rd (LNK.SRX_DONE n) + s.rd (LNK.SRX_DROP n) + (s.laneOf n).gone
        + ((s.laneOf n).buf.filter fun m => Nat.beq m.chan 3).length + flagBit (s.laneOf n).writing.isSome)
  | 12 => unitsOf 48 fun n =>
      Nat.beq (s.rd (TMU.TXTS_MADE n)) (s.rd (TMU.TXTS_READ n) + s.rd (TMU.TXTS_LOST n) + (s.laneTimeOf n).txts.length)
  | 13 => unitsOf 16 fun n =>
      Nat.beq (s.rd (TMU.CAP_TAKEN n)) ((s.capOf n).popped + s.rd (TMU.CAP_LOST n) + (s.capOf n).q.length)
  | 14 => unitsOf 1 fun _ => Nat.beq (s.rd SUP.LOG_MADE) (s.rd SUP.LOG_READ + s.rd SUP.LOG_LOST + s.sup.log.length)
  | 15 => unitsOf 32 fun n =>
      Nat.beq (s.rd (DSP.MOVE_ISSUED n)) (s.rd (DSP.MOVE_DONE n) + s.rd (DSP.MOVE_ERR n) + s.rd (DSP.MOVE_INFLIGHT n))
  | 16 => (List.range 4096).map fun i =>
      (i / 64, i % 64, (withCredits s).all fun r =>
        !(Nat.beq (destNode (destOf r.addr s)) (i / 64) && Nat.beq r.src (i % 64)) || Nat.beq (creditsHeld r s + creditsOut r s) 4)
  | _ => []

/-- The instances out of balance, as SUP.LEDGER_FAIL records each. -/
def ledgerFails (s : State) : List Nat :=
  (List.range 17).flatMap fun c => ((ledger c s).filter fun x => !x.2.2).map fun x => c * 2 ^ 24 + x.1 * 2 ^ 8 + x.2.1

/-- A pass over the ledgers. -/
def ledgerPass (s : State) : State :=
  let bad := ledgerFails s
  let s := s.bump 64 SUP.LEDGER_PASSES
  match bad.getLast? with
  | none => s
  | some x => supFlag 4 ((s.addTo 64 SUP.LEDGER_IMBAL bad.length).wr SUP.LEDGER_FAIL x)

/-- The state at the next pass over the ledgers: SUP.LEDGER_PERIOD after the last one (R507). -/
def ledgerDue (s : State) : State :=
  let u := s.upto (s.sup.ledgerAt + s.rd SUP.LEDGER_PERIOD * 1000 * ticksPerUs)
  { u with sup := { u.sup with ledgerAt := u.now } }

/-- LEDGER_CHECK: one pass every SUP.LEDGER_PERIOD, none while Molxo is held or the period is 0. -/
def execLedgerCheck (s : State) : Out :=
  .next (if supOpen s = false ∨ molxoHeld s = true ∨ s.rd SUP.LEDGER_PERIOD = 0 then s else ledgerPass (ledgerDue s))

end Sys2Proof.Machine
end

