-- ==== Sys2Proof/Machine/Batch.lean ====
section
/-! DEFINITION. Checking, arming and applying the batch of the mirror (02_control_dictionary.md R56 to R68; the
consistency rules of 03 R74, R78, R101, 04 R119, R136, R137, 06 R168, R184, R190, 08 R243 and 20 R513). -/
namespace Sys2Proof.Machine

/-! Staging (R56 to R58). -/

/-- A staged value placed in ascending member order. -/
def insertStaged (e : Staged) : List Staged → List Staged
  | [] => [e]
  | x :: xs => if e.key < x.key then e :: x :: xs else if x.key < e.key then x :: insertStaged e xs else e :: xs

/-- Bytes staged (R57). -/
def stagedBytes (b : List Staged) : Nat := (b.map (·.len)).sum
/-- The staged entry of a member. -/
def stagedAt (k : Nat) (s : State) : Option Staged := s.hdi.mirror.batch.find? fun e => Nat.beq e.key k

/-- Another master owns the mirror (R56, R61). -/
def foreign (q : Req) (s : State) : Bool := s.rd HDI.MIRROR_OWNER != 0xFF && s.rd HDI.MIRROR_OWNER != q.master
/-- Conditions of an access to the batch: no other owner (R56). -/
def ownerCond (q : Req) (s : State) : Bool × Nat := (foreign q s, 5)
/-- The batch is being checked or is armed (R60). -/
def batchBusy (s : State) : Bool := Nat.beq (mirrorState s) 2 || Nat.beq (mirrorState s) 5

/-- Conditions of a staged WRITE of len bytes (R56, R57, R60). The debug port and a mesh master have no place as owner
(R53, 19 R479): the debug port is refused with 0x05. -/
def stageConds (q : Req) (k len : Nat) (s : State) : List (Bool × Nat) :=
  let old := stagedAt k s
  [ ownerCond q s, (batchBusy s, 5), (Nat.ble 9 q.master, 5),
    (old.isNone && Nat.ble 1024 s.hdi.mirror.batch.length, 8),
    (Nat.blt 262144 (stagedBytes s.hdi.mirror.batch - (match old with | some e => e.len | none => 0) + len), 5) ]

/-- A change of the batch: in states 3 and 4 it returns to open, EV002 (R60). -/
def batchEdited (s : State) : State :=
  if mirrorState s = 3 ∨ mirrorState s = 4 then (s.wr HDI.MIRROR_STATE 1).raise 2 else s
/-- A staged WRITE: the first one takes the mirror (R56). -/
def stageEff (q : Req) (k len v : Nat) (s : State) : State :=
  let s := if s.rd HDI.MIRROR_OWNER = 0xFF then (s.wr HDI.MIRROR_OWNER q.master).wr HDI.MIRROR_STATE 1 else s
  (batchEdited s).modMirror fun mi => { mi with batch := insertStaged ⟨k, len, v⟩ mi.batch }
/-- MDROP: a member that is not staged changes nothing (R58). -/
def dropEff (k : Nat) (s : State) : State :=
  if (stagedAt k s).isNone then s
  else (batchEdited s).modMirror fun mi => { mi with batch := mi.batch.filter fun e => !(Nat.beq e.key k) }

/-- An MREAD request with LENGTH len: the staged value, or LENGTH 0. The debug port and mesh masters are refused as for a
staged WRITE (19 R479, R51). -/
def mread (q : Req) (o m len : Nat) (s : State) : State :=
  let r := match stagedAt (o * 256 + m) s with
    | some e => (e.len, e.val)
    | none => (0, 0)
  finish q 4 o m (statusOf q 4 o m len 0 r.1 [ownerCond q s, (Nat.ble 9 q.master, 5)] s) r.1 r.2 (fun s => s) s
/-- MREAD. -/
def execMread (q : Req) (o : Nat) (m : MirrorMem) (s : State) : Out := .next (mread q o m.mem m.len s)
/-- Conditions of MDROP. -/
def mdropConds (q : Req) (s : State) : List (Bool × Nat) :=
  [ownerCond q s, (Nat.ble 9 q.master, 5), (s.rd HDI.MIRROR_OWNER != 0xFF && batchBusy s, 5)]
/-- An MDROP request with LENGTH len. -/
def mdrop (q : Req) (o m len : Nat) (s : State) : State :=
  finish q 5 o m (statusOf q 5 o m len 0 0 (mdropConds q s) s) 0 0 (dropEff (o * 256 + m)) s
/-- MDROP. -/
def execMdrop (q : Req) (o : Nat) (m : MirrorMem) (s : State) : Out := .next (mdrop q o m.mem m.len s)

/-! The consistency rules. s is the state now, a the same with every staged value in effect (R62). -/

/-- The changes of earlier applies that still wait for their boundary, in the order in which they were applied engine by
engine (03 R100). -/
def waiting (s : State) : List Staged := (s.ve.flatMap fun e => e.2.lands).flatMap (·.2)
/-- The state once the changes that wait have landed. -/
def landedState (s : State) : State := (waiting s).foldl (fun s e => s.wr e.key e.val) s
/-- The state the part will hold after the batch takes effect. -/
def afterState (s : State) : State := s.hdi.mirror.batch.foldl (fun s e => s.wr e.key e.val) (landedState s)

/-- An OUT set that R184 refuses under period p. -/
def outSetBad (set p : Nat) : Bool :=
  let used := match outFormat set with
    | 0 | 4 => 1
    | 3 => 3
    | _ => 2
  let e := fun i => tfield set i
  (List.range used).any (fun i => Nat.ble (2 * p) (e i)) || Nat.ble (2 * p) (e 3)
    || (List.range (used - 1)).any (fun i => Nat.blt (e (i + 1)) (e i + 1024))
    || Nat.blt (e 0 + p) (e (used - 1) + 1024)
/-- An IN set that R184 refuses under period p. -/
def inSetBad (set p : Nat) : Bool :=
  let ms := inMarks set 0
  let first := ms.headD 0
  let last := ms.getLastD 0
  ms.any (fun x => Nat.ble (2 * p) x) || (Nat.blt 1 ms.length && Nat.blt last (first + 1024)) || Nat.blt (first + p) (last + 1024)

/-- Does position p of VEn in timing set t hold a REFLECT that R136 refuses? -/
def reflectBad (n t p : Nat) (a : State) : Bool :=
  let c := a.rd (EDG.OMAP n p)
  let src := a.rd (VEN.REFLECT n p) % 64
  let ci := a.rd (EDG.IMAP n src)
  let per := a.rd (VEN.PERIOD n)
  let act := actionOf n t src a
  let iset := a.rd (EDG.ITSET ci t)
  let d := tfield (a.rd (EDG.OTSET c t)) 0
  let desk := a.rd (EDG.ODESKEW c)
  Nat.beq (actionOf n t p a) 4 && Nat.blt c 256
    && (Nat.blt per 32768 || !(Nat.blt ci 256) || !([1, 2, 5].contains act) || Nat.beq (inMode iset) 3
      || Nat.ble per (tfield iset 0 + deskewLate ci a + 20480 + d) || (Nat.blt desk (2 ^ 31) && Nat.blt (d + 8192) desk))
/-- Timing sets in which position p of VEn reflects and R136 refuses it, of those listed. -/
def reflectAny (n : Nat) (ts ps : List Nat) (a : State) : Bool := ts.any fun t => ps.any fun p => reflectBad n t p a
/-- All 64 sets or positions. -/
def all64 : List Nat := List.range 64
/-- OUT positions of VEn that reflect IN position src. -/
def reflecting (n src : Nat) (a : State) : List Nat := all64.filter fun p => Nat.beq (a.rd (VEN.REFLECT n p) % 64) src

/-- Do sets ts of EOc fail R184, when an engine owns it? -/
def outSetsBad (c : Nat) (ts : List Nat) (a : State) : Bool :=
  let n := outOwner c a
  Nat.blt n 32 && ts.any fun t => outSetBad (a.rd (EDG.OTSET c t)) (a.rd (VEN.PERIOD n))
/-- Do sets ts of EIc fail R184, when an engine owns it? -/
def inSetsBad (c : Nat) (ts : List Nat) (a : State) : Bool :=
  let n := inOwner c a
  Nat.blt n 32 && ts.any fun t => inSetBad (a.rd (EDG.ITSET c t)) (a.rd (VEN.PERIOD n))

/-- Positions at which the maps that start at object first name channel c: engine and position. -/
def namings (first c : Nat) (a : State) : Nat :=
  (a.reg.filter fun e => Nat.ble first (e.1 / 256) && Nat.blt (e.1 / 256) (first + 32) && Nat.beq e.2 c).length

/-- Is VEn ARMED or HALTED? -/
def veFrozen (n : Nat) (s : State) : Bool := [2, 4].contains (veState n s)
/-- Does the engine that owns a channel (n, or none) stand in the given states? -/
def ownerIs (n : Nat) (f : Nat → Bool) : Bool := Nat.blt n 32 && f n

/-- Does a staged VEN member of 71nn fail a rule? -/
def venRule (n m : Nat) (ch : Bool) (v : Nat) (s a : State) : Bool :=
  (ch && (veFrozen n s || (veLive n s && [4, 5, 6, 0x16, 0x17, 0x1B].contains m)))
    || (Nat.beq m 6 && Nat.beq v 1
        && (!([1, 5].contains (veState n s)) || (startConds n a.rd a).any (·.1)))
    || (Nat.beq m 3 && ((outMap n a).any (fun e => outSetsBad e.2 all64 a) || (inMap n a).any (fun e => inSetsBad e.2 all64 a)
        || reflectAny n all64 all64 a))
    || (Nat.beq m 0x1B && Nat.beq v 1 && s.bit HDI.RETIRE_FACET n)

/-- Does a staged OUT or IN map entry that names channel v fail a rule? -/
def mapRule (out : Bool) (n p : Nat) (ch : Bool) (v : Nat) (s a : State) : Bool :=
  (ch && veLive n s)
    || (Nat.blt v 256
        && (Nat.blt 1 (namings (if out then 0x8500 else 0x8600) v a)
          || retiredBit (if out then HDI.RETIRE_EO 0 else HDI.RETIRE_EI 0) v s
          || (if out then outSetsBad v all64 a else inSetsBad v all64 a)))
    || reflectAny n all64 (if out then [p] else reflecting n p a) a

/-- Does a staged setting of EOc or EIc fail a rule? -/
def chanRule (out : Bool) (sets : Bool) (c t : Nat) (ch : Bool) (s a : State) : Bool :=
  let own := if out then outOwner c s else inOwner c s
  let n := if out then outOwner c a else inOwner c a
  let ts := if sets then [t] else all64
  let at' := ((if out then outMap n a else inMap n a).filter fun e => Nat.beq e.2 c).map (·.1)
  (ch && ownerIs own fun k => if sets then veFrozen k s else veLive k s)
    || (sets && (if out then outSetsBad c ts a else inSetsBad c ts a))
    || (Nat.blt n 32 && reflectAny n ts (if out then at' else at'.flatMap fun p => reflecting n p a) a)

/-- Does a staged member fail a consistency rule of the chapter that owns it? Where a rule names several members, each of
them that is staged fails. -/
def ruleFails (e : Staged) (s a : State) : Bool :=
  let n := e.key / 256 % 256
  let m := e.key % 256
  let ch := s.rd e.key != e.val || (waiting s).any fun x => Nat.beq x.key e.key && x.val != e.val
  match e.key / 65536 with
  | 0x71 => venRule n m ch e.val s a
  | 0x72 => (ch && veFrozen n s) || reflectAny n [m] all64 a
  | 0x73 | 0x74 => ch && veFrozen n s
  | 0x75 => (ch && veFrozen n s) || reflectAny n all64 [m] a
  | 0x81 => chanRule true true n m ch s a
  | 0x82 => chanRule false true n m ch s a
  | 0x83 => chanRule true false n m ch s a
  | 0x84 => chanRule false false n m ch s a
  | 0x85 => mapRule true n m ch e.val s a
  | 0x86 => mapRule false n m ch e.val s a
  | 0x91 => ch && (Nat.beq m 0 || Nat.beq m 4) && veLive n s && fcpStartBad n (a.rd (FCP.MODE n)) (a.rd (FCP.BM_CFG n)) s
  | _ => false

/-- Is the gate of the target block open (15 R400)? -/
def gateOpen (o : Nat) (s : State) : Bool :=
  match Dict.gateUnit o with
  | some u => Nat.beq (s.rd (CRH.GATE_STATE u)) 1
  | none => true

/-- The status of a staged member in the check. -/
def memberStatus (s a : State) (e : Staged) : Nat := firstOf [(!(gateOpen (e.key / 256) s), 0xA), (ruleFails e s a, 9)]

/-- Does a map of an engine name a retired channel (20 R513)? -/
def retiredNamed (s a : State) : Bool :=
  a.reg.any fun e =>
    (Nat.ble 0x8500 (e.1 / 256) && Nat.blt (e.1 / 256) 0x8520 && Nat.blt e.2 256 && retiredBit (HDI.RETIRE_EO 0) e.2 s)
      || (Nat.ble 0x8600 (e.1 / 256) && Nat.blt (e.1 / 256) 0x8620 && Nat.blt e.2 256 && retiredBit (HDI.RETIRE_EI 0) e.2 s)
/-- The first failing member in ascending order with its status (R62). A batch none of whose members fails, but after which a map
names a retired channel, fails with its first member (20 R513; DEDUCED, log entry 19). -/
def firstFailing (s : State) : Option (Nat × Nat) :=
  let a := afterState s
  ((s.hdi.mirror.batch.map fun e => (e.key, memberStatus s a e)).find? fun x => x.2 != 0)
    <|> (if retiredNamed s a then s.hdi.mirror.batch.head?.map fun e => (e.key, 9) else none)

/-! Commands on the batch (R60 to R66). -/

/-- A level 3 master may cancel and discard a batch it does not own (R61). -/
def rescue (q : Req) (s : State) : Bool := Nat.ble 3 (levelOf s q.master)
/-- No batch exists (R61). -/
def noBatch (s : State) : Bool := Nat.beq (s.rd HDI.MIRROR_OWNER) 0xFF

/-- Conditions of BATCH_CHECK (R60, R61); it is refused while Molxo is held (19 R493). -/
def checkConds (q : Req) (s : State) : List (Bool × Nat) := [(noBatch s, 9), ownerCond q s, (batchBusy s, 5), (molxoHeld s, 7)]
/-- BATCH_CHECK: checking. -/
def checkEff (s : State) : State := s.wr HDI.MIRROR_STATE 2
/-- BATCH_CHECK. -/
def execBatchCheck (q : Req) (v : Nat) (s : State) : Out := .next (command q HDI.BATCH_CHECK v (checkConds q s) checkEff s)

/-- BATCH_CHECK_END: the result, EV003 (R62). -/
def execBatchCheckEnd (s : State) : Out :=
  .next <|
    if mirrorState s = 2 then
      (match firstFailing s with
        | none => (s.wr HDI.BATCH_RESULT 0).wr HDI.MIRROR_STATE 3
        | some x => ((s.wr HDI.BATCH_RESULT x.2).wr HDI.BATCH_FAIL x.1).wr HDI.MIRROR_STATE 4).raise 3
    else s

/-- Conditions of BATCH_DISCARD (R60, R61): without an owner it ends with 0x00. A batch being checked is discarded. -/
def discardConds (q : Req) (s : State) : List (Bool × Nat) := [(foreign q s && !(rescue q s), 5), (Nat.beq (mirrorState s) 5, 5)]
/-- BATCH_DISCARD: the mirror released. -/
def discardEff (s : State) : State := if noBatch s then s else releaseMirror s
/-- BATCH_DISCARD. -/
def execBatchDiscard (q : Req) (v : Nat) (s : State) : Out := .next (command q HDI.BATCH_DISCARD v (discardConds q s) discardEff s)

/-- Does the batch start an engine one of whose channels a focus or self-check run holds (07 R202)? -/
def startHeld (s : State) : Bool :=
  let a := afterState s
  (List.range 32).any fun n => batchStarts n s
    && ((outMap n a).any (fun e => focusHeld e.2 s) || (inMap n a).any fun e => focusHeld (256 + e.2) s)

/-- Conditions of APPLY_ARM (R61, R64, R66, 07 R202). -/
def armConds (q : Req) (s : State) : List (Bool × Nat) :=
  let timed := Nat.beq (s.rd HDI.APPLY_MODE) 1
  [ (noBatch s, 9), ownerCond q s, (mirrorState s != 3, 9), (timed && !(timeValid s), 7), (startHeld s, 7),
    (timed && decide (ofTime128 (s.rd HDI.APPLY_TIME) < netNow s + 10000 * 2 ^ 32), 4) ]
/-- APPLY_ARM: state 5; the engines that the batch starts are armed and begin to fill from the staged values (03 R71, R81); in
mode 0 the apply edge is known. -/
def armEff (s : State) : State :=
  let at' := if s.rd HDI.APPLY_MODE = 0 then some (engEdge (s.now + ticksPerUs)) else none
  let s := (List.range 32).foldl (fun s n =>
    if batchStarts n s then veArm n 2 (s.rd (VEN.PARK_TSET n)) (afterBatch s (VEN.BUF_MODE n)) s else s) s
  (s.wr HDI.MIRROR_STATE 5).modMirror fun mi => { mi with edge := at', syncLow := false, armedAt := s.now }
/-- APPLY_ARM. -/
def execApplyArm (q : Req) (v : Nat) (s : State) : Out := .next (command q HDI.APPLY_ARM v (armConds q s) armEff s)

/-- Conditions of APPLY_CANCEL (R61). -/
def cancelConds (q : Req) (s : State) : List (Bool × Nat) := [(noBatch s, 9), (foreign q s && !(rescue q s), 5)]
/-- APPLY_CANCEL: an armed batch is passed again (R64). -/
def cancelEff (s : State) : State := if mirrorState s = 5 then disarmTo 3 s else s
/-- APPLY_CANCEL. -/
def execApplyCancel (q : Req) (v : Nat) (s : State) : Out := .next (command q HDI.APPLY_CANCEL v (cancelConds q s) cancelEff s)

/-- Conditions of writes of APPLY_MODE, APPLY_TIME and SYNC_DELAY (R61). -/
def applyWriteConds (q : Req) (s : State) : List (Bool × Nat) := [ownerCond q s, (Nat.beq (mirrorState s) 5, 9)]

/-- MIRROR_LEASE_EXPIRY: unless the batch is armed, it is discarded and the mirror released, EV004 (R59). -/
def execMirrorLeaseExpiry (s : State) : Out :=
  .next <|
    if noBatch s = true ∨ mirrorState s = 5 then s
    else (releaseMirror (s.upto s.hdi.mirror.leaseEnd)).raise 4

/-! The apply (R64 to R67; 03 R71, R100, R101; 06 R171, R182, R188, R189). -/

/-- SYNCIN_CAPTURE: SYNCIN has this level at the next engine clock edge; the edges since the arm before it sampled the level of before
(22 R527); the first high sample after a low one since the arm places E
HDI.SYNC_DELAY clocks later (R66). -/
def execSyncinCapture (level : Bool) (s : State) : Out :=
  .next <|
    let e := engAfter s.now
    let low := s.hdi.mirror.syncLow || (!s.pins.syncin && Nat.blt (engAfter s.hdi.mirror.armedAt) e)
    let s : State := { s.upto e with pins := { s.pins with syncin := level } }
    let mi := s.hdi.mirror
    if mirrorState s = 5 ∧ s.rd HDI.APPLY_MODE = 2 ∧ mi.edge = none then
      if level = false then s.modMirror fun x => { x with syncLow := true }
      else if low then s.modMirror fun x => { x with edge := some (e + s.rd HDI.SYNC_DELAY * ticksPerNs) }
      else s
    else s

/-- The apply edge, if it is known, and whether it comes late (R66, R67). An APPLY_TIME within 250 ps of the edge phase lets
the part take either of two adjacent edges: a free value chooses (R68; log entry 9). -/
def applyEdge (s : State) : Option (Nat × Bool) :=
  if s.rd HDI.APPLY_MODE = 1 then
    let target := ofTime128 (s.rd HDI.APPLY_TIME)
    let e := edgeOfTime s s.now target
    let d := (netAt s e - target) % 2 ^ 32
    if steppedOver s e target then some (e, true)
    else if d < 2 ^ 30 then some (if s.freeVal % 2 = 1 then e + 8192 else e, false)
    else if 3 * 2 ^ 30 < d then some (if s.freeVal % 2 = 1 ∧ s.now ≤ e - 8192 then e - 8192 else e, false)
    else some (e, false)
  else s.hdi.mirror.edge.map fun e => (e, false)

/-- The staged members that wait for the landing boundary of VEn: those of its own objects and channels whose value differs from
the one in effect, or from one that an earlier apply has waiting (03 R100, 04 R137, 06 R188, 08 R217). -/
def landsLater (n : Nat) (s : State) : List Staged :=
  s.hdi.mirror.batch.filter fun e =>
    keyOfEngine n e.key s && (s.rd e.key != e.val || (s.veOf n).lands.any fun l => l.2.any fun x => Nat.beq x.key e.key)
/-- The RUNNING engines. -/
def running (s : State) : List Nat := (List.range 32).filter fun n => Nat.beq (veState n s) 3

/-- Does a channel of a map take a park state at E: its engine holds park states, and it is newly mapped, or the park state of
the active set has changed, or the park set itself (R182)? -/
def parksAtE (b a : State) (n c : Nat) : Bool :=
  let t := (a.veOf n).tset
  [1, 2, 5, 6].contains (veState n a)
    && (outOwner c b != n || outPark (b.rd (EDG.OTSET c t)) != outPark (a.rd (EDG.OTSET c t))
      || (Nat.beq (veState n a) 1 && b.rd (VEN.PARK_TSET n) != a.rd (VEN.PARK_TSET n)))

/-- What the pins do at edge e as state b becomes a (R171, R182, R189). -/
def pinsAtE (e : Nat) (b a : State) : State :=
  (List.range 256).foldl (fun s c =>
    let n := outOwner c a
    let gone := Nat.blt (outOwner c b) 32 && outOwner c b != n
    let s := if gone then offAt c e s else s
    if Nat.blt n 32 && parksAtE b a n c then parkAt c (a.rd (EDG.OTSET c (a.veOf n).tset)) e s else s) a

/-- The batch takes effect at edge e. -/
def applyAt (e : Nat) (late : Bool) (s : State) : State :=
  let b := s.upto e
  let later := (running b).map fun n => (n, landsLater n b)
  let waits := later.flatMap fun x => x.2.map (·.key)
  let a := (b.hdi.mirror.batch.filter fun x => !(waits.contains x.key)).foldl (fun s x => s.wr x.key x.val) b
  let a := later.foldl (fun s x =>
    if x.2.isEmpty then s
    else s.modVe x.1 fun v => { v with lands := v.lands ++ [(e + 64 * ticksPerNs, x.2)] }) a
  let a := (List.range 32).foldl (fun s n =>
    if veState n s = 1 ∧ b.rd (VEN.PARK_TSET n) ≠ s.rd (VEN.PARK_TSET n) then
      s.modVe n fun v => { v with tset := s.rd (VEN.PARK_TSET n) }
    else s) a
  let a := (List.range 32).foldl (fun s n =>
    if veState n s = 2 ∧ (s.veOf n).armKind = 2 ∧ batchStarts n b = true then s.modVe n fun v => { v with start := some e } else s) a
  let s := settleStales (pinsAtE e b a)
  let s := (s.wr HDI.APPLIED_AT (toTime128 (netAt s e))).wr HDI.APPLY_OUTCOME (if late then 2 else 1)
  let s := (releaseMirror s).raise 0
  if late then s.raise 1 else s

/-- APPLY: at the apply edge of an armed batch every staged member takes effect. -/
def execApply (s : State) : Out :=
  .next <|
    if mirrorState s = 5 then
      match applyEdge s with
      | some (e, late) => applyAt e late s.drawn
      | none => s
    else s

end Sys2Proof.Machine
end

