-- ==== Sys2Proof/Machine/Access.lean ====
section
/-! DEFINITION. The conditions and the effect of an access to each member, from which the general requests of the dictionary
are served (02 R38, R51, R53; 20 R512, and the object tables of every chapter). -/
namespace Sys2Proof.Machine

/-- Conditions beside those of every member, and the effect. -/
abbrev Rule := List (Bool × Nat) × (State → State)

/-! Retirement (20 R512). -/

/-- The logical lanes of the physical lane i. -/
def lanesOn (i : Nat) (s : State) : List Nat := (List.range 4).map (4 * (i / 4) + ·) |>.filter fun n => Nat.beq (physLane n s) i
/-- Is the unit of bit i of a RETIRE member in use? -/
def retireInUse (k i : Nat) (s : State) : Bool :=
  let busy := fun n => Nat.blt n 32 && !(veStopped n s)
  match k with
  | 0x4000 => busy i
  | 0x4001 => !(dspStopped i s)
  | 0x4002 | 0x4003 | 0x4004 | 0x4005 => busy (outOwner (64 * (k - 0x4002) + i) s)
  | 0x4006 | 0x4007 | 0x4008 | 0x4009 => busy (inOwner (64 * (k - 0x4006) + i) s)
  | 0x400A => s.rd (SCR.OWNER i 0) != 0xFF || (Nat.blt i 8 && s.rd (SCR.OWNER i 1) != 0xFF)
  | 0x400B => released i s
  | _ => (lanesOn i s).any fun n => laneState n s != 0
/-- Bits of a RETIRE member. -/
def retireBits (k : Nat) : Nat := if k = 0x4000 ∨ k = 0x4001 ∨ k = 0x400B then 32 else if k = 0x400C then 48 else 64
/-- Conditions of a write of a RETIRE member: no set bit is cleared, and no unit in use retired. -/
def retireConds (k v : Nat) (s : State) : List (Bool × Nat) :=
  [ ((s.rd k &&& v) != s.rd k, 9),
    ((List.range (retireBits k)).any fun i => v.testBit i && !(s.bit k i) && retireInUse k i s, 9) ]
/-- Does a rule of the batch's check name the RETIRE member (R63, 20 R513)? -/
def retireNamed (k : Nat) (s : State) : Bool :=
  let starts := (List.range 32).any fun n => batchStarts n s
  let stages := fun first => s.hdi.mirror.batch.any fun e => Nat.beq (e.key / 65536) first
  if k = 0x4000 then starts
  else if 0x4002 ≤ k ∧ k ≤ 0x4009 then starts || stages (if k < 0x4006 then 0x85 else 0x86)
  else k = 0x400B && s.hdi.mirror.batch.any fun e => Nat.beq (e.key / 65536) 0x71 && Nat.beq (e.key % 256) 0x1B
/-- The units retired. -/
def retireEff (k v : Nat) (s : State) : State := reopenIf (retireNamed k s) (s.wr k v)
/-- RETIRE_WRITE: member 0x00 to 0x0C of object 0040. -/
def execRetireWrite (q : Req) (k v : Nat) (s : State) : Out :=
  unitCmd k 13 (writeTo q (HDI.RETIRE_VE + k) (if retireBits (0x4000 + k) = 32 then 4 else 8) v (retireConds (0x4000 + k) v s)
    (retireEff (0x4000 + k) v) s)

/-- Every HDI.STATS member cleared (R53). -/
def statsClear (s : State) : State := (List.range 13).foldl (fun s k => s.wr (HDI.STATS k) 0) s
/-- STATS_CLR; its own access is counted after it. -/
def execStatsClr (q : Req) (v : Nat) (s : State) : Out := .next (command q HDI.STATS_CLR v [] statsClear s)

/-! CMD members. Codes outside a member's list have been refused by its row. -/

/-- Commands of the objects of digits 0 to 3. -/
def ctrlLow (q : Req) (k code : Nat) (s : State) : Rule :=
  match k with
  | 0x3FF => ([], statsClear)
  | 0x1005 => (checkConds q s, checkEff)
  | 0x1006 => (discardConds q s, discardEff)
  | 0x1102 => (armConds q s, armEff)
  | 0x1103 => (cancelConds q s, cancelEff)
  | 0x100201 => ([], hostKickEff)
  | 0x100300 => (cryptoConds (code == 2) s, cryptoEff (code == 2))
  | 0x250002 => (fmConds s, fmEff)
  | 0x300000 =>
    match code with
    | 1 => (fullConds s, loadEff true s.cfg.flash)
    | 2 => (partialConds s, loadEff false s.cfg.flash)
    | _ => ([], abortEff)
  | 0x300202 => if code = 1 then (flpConds s, flpEff) else ([], abortEff)
  | 0x320000 => (keyConds q code s, keyEff code)
  | 0x360003 => if code = 1 then (trimConds q 1 s, commitEff) else (trimConds q 2 s, importEff)
  | _ => ([], fun s => s)

/-- Commands of the objects of digits 4 to 9, unit n. -/
def ctrlMid (o n code : Nat) (s : State) : Rule :=
  match o / 256 with
  | 0x41 => if code = 1 then (releaseConds n s, releaseEff n) else (holdConds n s, holdEff n)
  | 0x51 | 0x52 | 0x53 | 0x54 | 0x55 | 0x56 =>
    let p := o - 0x5100
    match code with
    | 1 => (paneIn p 0 s, paneDetachEff p)
    | 2 => (paneIn p 1 s, paneAttachEff p)
    | _ => (paneIn p 1 s, paneTestEff p)
  | 0x61 => (scrTestConds n s, scrTestEff n)
  | 0x71 =>
    match code with
    | 1 => ([notIn [0] n s], veEnableEff n)
    | 2 => ([notIn [1, 5, 6] n s], veDisableEff n)
    | 3 => (veStartConds n s, veStartEff n)
    | 4 => (veStartAtConds n s, veStartAtEff n)
    | 5 => ([notIn [3] n s], veHaltEff n)
    | 6 => (veResumeConds n s, veResumeEff n)
    | 7 => ([notIn [2, 3, 4] n s], veStopEff n)
    | 8 => ([notIn [6] n s], veClearFaultEff n)
    | _ => ([notIn [1, 5, 6] n s], veSelfcheckEff n)
  | 0x8F => if code = 3 then ([], focusAbortEff) else (focusConds s, focusEff code)
  | 0x92 => (fcountConds n s, fcountEff n)
  | 0x93 =>
    match code with
    | 1 => (queueEnableConds n s, queueEnableEff n)
    | 2 => (queueDisableConds n s, queueDisableEff n)
    | _ => (flushConds n s, flushEff n)
  | _ => ([], fun s => s)

/-- Commands of the objects of digits A to E, unit n. -/
def ctrlHigh (o n code : Nat) (s : State) : Rule :=
  match o / 256 with
  | 0xA1 =>
    match code with
    | 1 => (dspStartConds n s, dspStartEff n)
    | 2 => (dspStartAtConds n s, dspStartAtEff n)
    | 3 => ([dspNotIn [1, 2, 3] n s], dspStopEff n)
    | 4 => ([dspNotIn [2] n s], dspHaltEff n)
    | 5 => ([dspNotIn [3] n s], dspResumeEff n)
    | _ => ([dspNotIn [0, 4, 5] n s], dspSelfcheckEff n)
  | 0xB1 => if code = 1 then (trainConds n s, trainStart n) else (retrainConds n s, retrainStart n)
  | 0xC1 => (drainConds n s, drainEff n none)
  | 0xC2 => ([], match code with | 1 => probeRunEff n | 2 => probeStopEff n | _ => probeClearEff n)
  | 0xC3 => ([], tclearEff)
  | 0xD1 =>
    match code with
    | 1 => (laneStartConds n s, laneStartEff n)
    | 2 => ([], laneEnter n 0)
    | _ => (laneRetrainConds n s, laneEnter n 1)
  | 0xE1 => if code = 1 then (apArmConds n s, apArmEff n) else ([], apDisarmEff n)
  | 0xE2 => if code = 1 then (trgArmConds n s, trgArmEff n) else ([], trgDisarmEff n)
  | _ => ([], fun s => s)

/-- Commands of the objects of digit F. -/
def ctrlDbg (q : Req) (o m code : Nat) (s : State) : Rule :=
  let n := o % 256
  match o / 256 with
  | 0xF0 =>
    if n = 1 then (authConds q code s, authEff q code)
    else if m = 4 then ([((freeUnit s).isNone, 8)], brkAllocEff q)
    else (dbgCtrlConds q code s, fuseEff code)
  | 0xF1 => (brkCmdConds q n s, if code = 2 then rearm n else brkFreeEff n)
  | 0xF2 =>
    match code with
    | 1 => (haltConds q n s, fun s => latchDebugHalt n s.now s)
    | 2 => (resumeConds q n s, resumeEff n)
    | _ => (resumeConds q n s, stepEff n)
  | _ => ([], fun s => s)

/-- The command code of a CMD member. -/
def ctrlRule (q : Req) (o m code : Nat) (s : State) : Rule :=
  if o < 0x4000 then ctrlLow q (o * 256 + m) code s
  else if o < 0xA000 then ctrlMid o (o % 256) code s
  else if o < 0xF000 then ctrlHigh o (o % 256) code s
  else ctrlDbg q o m code s

/-! RW and WO members. -/

/-- The value of a BLOB of w bytes after a write of its first len bytes: the bytes that the write does not carry are open (R40;
log entry 52). -/
def blobValue (w len v : Nat) (s : State) : Nat :=
  if len = w then v else v % 2 ^ (8 * len) + s.freeVal % 2 ^ (8 * (w - len)) * 2 ^ (8 * len)
/-- A write of len bytes to a BLOB of w bytes, whose value eff takes. -/
def blobWrite (w len v : Nat) (eff : Nat → State → State) (s : State) : State := eff (blobValue w len v s) (if len = w then s else s.drawn)
/-- A member that a write simply sets. -/
def plain (k v : Nat) : Rule := ([], fun s => s.wr k v)
/-- One that it sets unless the test refuses it with 0x09. -/
def plainUnless (c : Bool) (k v : Nat) : Rule := ([(c, 9)], fun s => s.wr k v)

/-- Members of the objects of digits 0 to 3. -/
def writeLow (q : Req) (o m len v : Nat) (s : State) : Rule :=
  let k := o * 256 + m
  match o with
  | 0x0011 => (applyWriteConds q s, fun s => s.wr k v)
  | 0x0040 => (retireConds k v s, retireEff k v)
  | 0x1002 => ([], fun s => hostRestart (s.wr k v))
  | 0x1200 | 0x1201 => if evReserved ((o - 0x1200) * 256 + m) then ([], fun s => s) else plain k v
  | 0x1003 => if m = 3 then ([], blobWrite 32 len v fun v => modSup fun u => { u with key := some v }) else plain k v
  | 0x2200 => (gateConds m v s, gateEff m v)
  | 0x2300 => (pwrConds m v s, pwrEff m v)
  | 0x2400 => (clkoutConds v s, clkoutEff v)
  | 0x2601 => (if m = 1 then twarnConds v s else ttripConds v s, fun s => s.wr k v)
  | 0x3000 => if m = 0x0A then (streamConds s, received len v) else plainUnless (loadRuns s) k v
  | 0x3002 => plainUnless (loadRuns s) k v
  | 0x3200 => ([], modCfg fun c => { c with stage := v })
  | 0x3400 => if m = 0 then ([], loupeEnEff v) else plain k v
  | 0x3603 => ([], blobWrite 2048 len v fun v s => s.wr k v)
  | _ => plain k v

/-- Members of the objects of digits 4 to 9. -/
def writeMid (o m v : Nat) (s : State) : Rule :=
  let k := o * 256 + m
  let n := o % 256
  match o / 256 with
  | 0x42 => ([], userInEff n m v)
  | 0x51 | 0x52 | 0x53 | 0x54 | 0x55 | 0x56 => (paneIn (o - 0x5100) 1 s, paneModeEff (o - 0x5100) v)
  | 0x61 => (ownerConds n m v s, ownerEff n m v)
  | 0x93 => if m ≤ 1 then plainUnless (s.rd (FCP.Q_STATE n) != 0) k v else plain k v
  | _ => plain k v

/-- Members of the objects of digits A to D. -/
def writeHigh (o m v : Nat) (s : State) : Rule :=
  let k := o * 256 + m
  let n := o % 256
  match o / 256 with
  | 0xA1 | 0xA2 => plainUnless (!(dspStopped n s)) k v
  | 0xB0 => match m with
    | 4 => (excludeConds s, excludeEff v)
    | 5 => (retainConds v s, fun s => s.wr k v)
    | _ => plain k v
  | 0xB1 =>
    if 0x0C ≤ m ∧ m ≤ 0x0F then
      plainUnless (Nat.blt 1024 (((List.range 4).map fun c => s.rd (DMC.RESERVE n c)).sum - s.rd k + v)) k v
    else plain k v
  | 0xC1 => (drainConds n s, drainEff n (some v))
  | 0xC2 => if m = 1 then plainUnless (Nat.beq (s.rd (MSH.PSTATE n)) 1) k v else plain k v
  | 0xD1 =>
    if (2 ≤ m ∧ m ≤ 5) ∨ m = 0x1A ∨ m = 0x1B then plainUnless (laneState n s != 0) k v
    else if m = 0x1D then (srxRdConds n v s, fun s => s.wr k v)
    else plain k v
  | 0xD2 => if m = 0 then (qrateConds n s, qrateEff n v) else (laneMapConds n s, laneMapEff n v)
  | _ => plain k v

/-- Members of the objects of digit E. -/
def writeTmu (o m len v : Nat) (s : State) : Rule :=
  let k := o * 256 + m
  let n := o % 256
  match o / 256 with
  | 0xE0 =>
    match n, m with
    | 0, 0 => ([], roleEff v)
    | 0, 2 => (incrConds s, setIncr v)
    | 0, 4 => (setConds s, stepTo (ofTime128 v))
    | 1, 0 => (srcConds v s, fun s => s.wr k v)
    | 1, 1 => (lanesConds (s.rd TMU.SRC_LANE) v (s.rd TMU.HOST_LANES), fun s => s.wr k v)
    | 1, 2 => (lanesConds (s.rd TMU.SRC_LANE) (s.rd TMU.SERVE) v, fun s => s.wr k v)
    | 5, n => (txmsgConds n s, blobWrite 32 len v (txmsgEff n))
    | _, _ => plain k v
  | 0xE1 => plainUnless (apArmed n s) k v
  | 0xE2 => plainUnless (Nat.beq (trgState n s) 1) k v
  | _ => plain k v

/-- Members of the objects of digit F. -/
def writeDbg (q : Req) (o m len v : Nat) (s : State) : Rule :=
  let k := o * 256 + m
  let n := o % 256
  match o / 256 with
  | 0xF0 => ([], blobWrite 32 len v fun v => modDbg fun d => { d with stage := v })
  | 0xF1 =>
    if m = 0 then (brkCfgConds q n v s, brkCfgEff n v)
    else ([(!((s.brkOf n).on), 9), (Nat.beq (brkKind (s.rd (DBG.BRK_CFG n))) 6 && !(hasVendor q s), 2)], fun s => s.wr k v)
  | 0xF2 => if m = 4 then (regConds q n true v s, regWriteEff n v) else plain k v
  | 0xF4 => if m = 1 then (drxConds n s, drxEff n v) else (tdtxConds n s, tdtxEff n v)
  | _ => plain k v

/-- A write of an RW or WO member. -/
def writeRule (q : Req) (o m len v : Nat) (s : State) : Rule :=
  if o < 0x4000 then writeLow q o m len v s
  else if o < 0xA000 then writeMid o m v s
  else if o < 0xE000 then writeHigh o m v s
  else if o < 0xF000 then writeTmu o m len v s
  else writeDbg q o m len v s

/-! Reads. -/

/-- What a READ answers: bytes, value, conditions beside those of every member, and side effect. -/
structure ReadRule where
  len : Nat
  data : Nat
  conds : List (Bool × Nat)
  eff : State → State

/-- A READ of a member that is not RD, of the width its row gives, with the gate of its unit open. -/
def openRule (q : Req) (o m width : Nat) (s : State) : ReadRule :=
  let n := o % 256
  match o / 256, m with
  | 0x14, 0 => ⟨24, (s.sup.log.head?.map logBytes).getD 0, [(s.sup.log.isEmpty, 7)], logPopEff⟩
  | 0x93, 0x12 => ⟨8, ((s.sqOf n).head.headD (0, false)).1, [((s.sqOf n).head.isEmpty, 7)], popEff n⟩
  | 0x93, 0x14 =>
    let k := (packetLen n s).getD 0
    ⟨8 * k, wordsData (((s.sqOf n).head.take k).map (·.1)), [((packetLen n s).isNone, 7)], poprecEff n k⟩
  | 0xE3, 1 => ⟨24, capData n s, capConds n s, capEff n⟩
  | 0xF2, 4 => ⟨8, regValue n (s.rd (DBG.REGSEL n)) s, regConds q n false 0 s, if n = 0 then State.drawn else fun s => s⟩
  | 0xF4, 0 => ⟨4, (s.tgtOf n).dtx, [(!((s.tgtOf n).dtxFull), 7)], dtxEff n⟩
  | 0xF4, 4 => ⟨4, (s.tgtOf n).drx, [(!((s.tgtOf n).drxFull), 7)], tdrxEff n⟩
  | 0xE0, _ =>
    match n with
    | 4 => ⟨24, txtsData m s, txtsConds m s, txtsEff m⟩
    | 6 => ⟨48, rxmsgData m s, rxmsgConds m s, rxmsgEff m⟩
    | _ => ⟨width, look q.master o m s, [], fun s => s⟩
  | _, _ => ⟨width, look q.master o m s, [], fun s => s⟩

/-- A READ of a member that is not RD. Behind a closed gate it returns the value held, without condition or side effect (15 R403). -/
def readRule (q : Req) (o m width : Nat) (s : State) : ReadRule :=
  let r := openRule q o m width s
  if gateShut s o then ⟨r.len, heldData (o * 256 + m) r.data s, [], fun s => s⟩ else r

end Sys2Proof.Machine
end

