-- ==== Sys2Proof/Machine/Hdi.lean ====
section
/-! DEFINITION. The dictionary engine: requests of every kind, fetches, mesh data, the window on the mesh and the I3C target
(02_control_dictionary.md R31 to R55, 00_scope.md R4, R15, R16, 15 R405, 19 R479, R496, R497). -/
namespace Sys2Proof.Machine

/-! Mesh data (R55, 19 R497). -/

/-- The owner of mesh data that master q moves through HDI or DBG. -/
def meshOwner (dbg : Bool) (q : Nat) : Owner := if dbg then .dbg q else .hdi q
/-- The address register. -/
def addrKey (dbg : Bool) : Nat := if dbg then DBG.MEM_ADDR else HDI.MESH_ADDR
/-- Is the member the debug one? -/
def isDbg (o : Nat) : Bool := Nat.beq o 0xF500

/-- The requests of a block of n bytes at address a, with offsets; at most k of them. In the dictionary window each is one word. -/
def cutBlock : Nat → Nat → Nat → List (Nat × Nat)
  | 0, _, _ => []
  | k + 1, a, n =>
    if n = 0 then []
    else
      let c := if 0xF0000000000 ≤ a ∧ a < 0xF0008000000 then 8 else chunkLen a n
      (a, c) :: cutBlock k (a + c) (n - c)

/-- Requests for the n bytes at a: reads, or writes of the bytes of v. -/
def blockReqs (dbg : Bool) (q : Nat) (op : MeshOp) (a n v : Nat) : List MeshReq :=
  (cutBlock 256 a n).map fun x =>
    ⟨op, meshOwner dbg q, if dbg then 63 else 0, 3, x.1, x.2, v / 2 ^ (8 * (x.1 - a)) % 2 ^ (8 * x.2)⟩

/-- The address register advanced. Past the end of the 48-bit address space it goes on from 0 (DESIGN CHOICE, log entry 52). -/
def advance (dbg : Bool) (n : Nat) (s : State) : State := s.wr (addrKey dbg) ((s.rd (addrKey dbg) + n) % 2 ^ 48)

/-- Conditions of a WRITE of n bytes of mesh data. -/
def meshWriteConds (dbg : Bool) (n : Nat) (s : State) : List (Bool × Nat) :=
  [(n % 8 != 0, 3), (s.rd (addrKey dbg) % 8 != 0, 4)]
/-- A posted write. -/
def meshWriteEff (dbg : Bool) (q n v : Nat) (s : State) : State :=
  (blockReqs dbg q .write (s.rd (addrKey dbg)) n v).foldl (fun s r => meshSend r s) (advance dbg n s)
/-- A WRITE of mesh data. -/
def meshWrite (q : Req) (dbg : Bool) (len v : Nat) (s : State) : State :=
  writeTo q (if dbg then DBG.MEM_DATA else HDI.MESH_DATA) len v (meshWriteConds dbg len s) (meshWriteEff dbg q.master len v) s
/-- MESH_DATA_WRITE. -/
def execMeshDataWrite (q : Req) (len v : Nat) (s : State) : Out := .next (meshWrite q false len v s)
/-- MEM_DATA_WRITE. -/
def execMemDataWrite (q : Req) (len v : Nat) (s : State) : Out := .next (meshWrite q true len v s)

/-! Fetches (R45, R46, R50). -/

/-- Is the member DMC.DIMM_TEMP of a controller that is neither READY nor RETRAINING (09 R273)? -/
def coldDimms (o m : Nat) (s : State) : Bool :=
  Nat.beq (o / 256) 0xB1 && Nat.beq m 7 && !([3, 4].contains (dmcState (o % 256) s))
/-- Conditions of a fetch that carries the size n where the member takes one. -/
def fetchConds (q : Req) (o m n : Nat) (s : State) : List (Bool × Nat) :=
  (coldDimms o m s, 7) :: (Nat.ble 8 (s.masterOf q.master).pend.length, 8) ::
    if sized o m then [(!(Nat.ble 8 n && Nat.ble n 2048 && Nat.beq (n % 8) 0), 4), (s.rd (addrKey (isDbg o)) % 8 != 0, 4)] else []
/-- The snapshots of the pending fetches of a member that a later fetch of it supersedes (R45). -/
def giveUp (implicit : Bool) (k : Nat) (ps : List Pend) : List Pend :=
  if implicit then ps else ps.map fun p => if Nat.beq p.key k && !p.implicit then { p with old := true } else p
/-- The fetch starts: the old snapshot, and that of an earlier fetch still pending, are given up; the reads of mesh data are
sent. -/
def fetchEff (q : Req) (implicit : Bool) (o m n : Nat) (s : State) : State :=
  let k := o * 256 + m
  let dbg := isDbg o
  let a := s.rd (addrKey dbg)
  let rs := if sized o m then blockReqs dbg q.master .read a n 0 else []
  let p : Pend :=
    { key := k, implicit := implicit, tag := q.tag, addr := a, len := if sized o m then n else 0, parts := rs,
      seq := (s.masterOf q.master).fetches }
  let s := s.modMaster q.master fun x =>
    { x with pend := giveUp implicit k x.pend ++ [p], fetches := x.fetches + 1,
             snaps := if implicit then x.snaps else x.snaps.filter fun y => !(Nat.beq y.key k) }
  rs.foldl (fun s r => meshSend r s) (if sized o m then advance dbg n s else s)

/-- A mesh master stages and fetches nothing, and reaches no member that R16 keeps for the transfer format (R51). -/
def meshForm (q : Req) (op o m : Nat) : Bool × Nat :=
  (Nat.ble 16 q.master &&
    match Dict.find o m with
    | some r => Nat.ble 3 op || (Nat.beq op 2 && decide (r.acc = .rws)) || decide (r.acc = .rd) || Nat.blt 8 r.width
        || decide (r.ty = .str) || decide (r.ty = .blob) || decide (r.ty = .time128)
    | none => false, 3)

/-- A FETCH request. -/
def fetchReq (q : Req) (o m len v : Nat) (s : State) : State :=
  finish q 3 o m (statusOf q 3 o m len v 0 (meshForm q 3 o m :: fetchConds q o m v s) s) 0 0 (fetchEff q false o m v) s

/-- The snapshot that a READ returns. -/
def snapFor (q : Req) (k : Nat) (s : State) : Option Snap := (s.masterOf q.master).snaps.find? fun x => Nat.beq x.key k
/-- A READ of an RD member from a master that fetches it first. -/
def snapRead (q : Req) (o m len : Nat) (s : State) : State :=
  let k := o * 256 + m
  let waits := (s.masterOf q.master).pend.any fun p => Nat.beq p.key k && !p.implicit && !p.old
  let x := snapFor q k s
  let n := match x with | some y => if y.good then y.len else 0 | none => 0
  let conds := [ (waits || x.isNone, 6), (!waits && (match x with | some y => !y.good | none => false), 4) ]
  finish q 1 o m (statusOf q 1 o m len 0 n (meshForm q 1 o m :: conds) s) n ((x.map (·.data)).getD 0) (fun s => s) s

/-- A READ of an RD member over the management channel: a fetch, answered when the snapshot arrives, or at once if refused. -/
def slotRead (q : Req) (o m len v : Nat) (s : State) : State :=
  let low := match Dict.find o m with | some r => Nat.blt (levelOf s q.master) (max 1 r.level) | none => false
  let st := statusOf q 1 o m len 0 0 ((gateShut s o, 0xA) :: (low, 2) :: fetchConds q o m v s) s
  if deaf q s then s
  else if st = 0 then fetchEff q true o m v s
  else respond q 1 o m st 0 0 s

/-! Requests (R37 to R42). -/

/-- A READ of a member that is not RD. -/
def plainRead (q : Req) (o m len width : Nat) (s : State) : State :=
  let r := readRule q o m width s
  finish q 1 o m (statusOf q 1 o m len 0 r.len (meshForm q 1 o m :: r.conds) s) r.len r.data
    (if debugRead q 1 o m then fun s => s else r.eff) s

/-- A WRITE request for a member of no special kind. -/
def ruleWrite (q : Req) (o m len v : Nat) (r : Rule) (s : State) : State :=
  finish q 2 o m (statusOf q 2 o m len v 0 (meshForm q 2 o m :: r.1) s) 0 0 r.2 s

/-- A WRITE request. The commands and writes whose refusal is counted, or whose
acceptance resets the part, have their own operation when nothing is wrong with the frame. -/
def writeReq (q : Req) (o m len v : Nat) (r : Dict.Row) (s : State) : State :=
  let k := o * 256 + m
  let fine := Dict.lenOk r len && !q.wrong
  if fine && Nat.beq k CRH.RESET && Nat.beq v 0xA5 then softReset q s
  else if fine && Nat.beq k DBG.CTRL && Nat.beq v 4 then dbgReset q s
  else if fine && Nat.beq k DBG.AUTH_RESP then authResp q len v s
  else if fine && Nat.beq k TMU.STEP then stepWrite q v s
  else if fine && Nat.beq (o / 256) 0x93 && (Nat.beq m 0x10 || Nat.beq m 0x11) then pushWord q k (o % 256) v (Nat.beq m 0x11) s
  else
    match r.acc with
    | .rws => ruleWrite q o m len v (stageConds q k len s, stageEff q k len v) s
    | .w1c => ruleWrite q o m len v ([], fun s => (if Nat.beq k EDG.DROP_GROUPS then settleDrops s else s).clearBits k v) s
    | .cmd => ruleWrite q o m len v (ctrlRule q o m v s) s
    | .rd =>
      ruleWrite q o m len v
        (if sized o m then (meshWriteConds (isDbg o) len s, meshWriteEff (isDbg o) q.master len v) else ([], fun s => s)) s
    | _ => ruleWrite q o m len v (writeRule q o m len v s) s

/-- A READ request. -/
def readReq (q : Req) (o m len v : Nat) (r : Dict.Row) (s : State) : State :=
  if r.acc = .rd then
    if 1 ≤ q.master ∧ q.master ≤ 8 then slotRead q o m len v s else snapRead q o m len s
  else plainRead q o m len r.width s

/-- A request frame: operation, member, LENGTH and data (R38). -/
def request (q : Req) (op o m len v : Nat) (s : State) : State :=
  match Dict.find o m with
  | none => finish q op o m (statusOf q op o m len v 0 [] s) 0 0 (fun s => s) s
  | some r =>
    match op with
    | 1 => readReq q o m len v r s
    | 2 => writeReq q o m len v r s
    | 3 => fetchReq q o m len v s
    | 4 => mread q o m len s
    | 5 => mdrop q o m len s
    | _ => finish q op o m (statusOf q op o m len v 0 [] s) 0 0 (fun s => s) s

/-- The operation of a frame sent as d: d, or the code of none that stands in its place (R38). -/
def opOf (q : Req) (d : Nat) : Nat :=
  match q.op with
  | some c => if 1 ≤ c ∧ c ≤ 5 then d else c
  | none => d

/-- DICT_READ. -/
def execDictRead (q : Req) (o m len v : Nat) (s : State) : Out := .next (request q (opOf q 1) o m len v s)
/-- DICT_WRITE. -/
def execDictWrite (q : Req) (o m len v : Nat) (s : State) : Out := .next (request q (opOf q 2) o m len v s)
/-- FETCH. -/
def execFetch (q : Req) (o m len v : Nat) (s : State) : Out := .next (request q (opOf q 3) o m len v s)
/-- MESH_DATA_FETCH. -/
def execMeshDataFetch (q : Req) (size : Nat) (s : State) : Out := .next (fetchReq q 0x0030 1 2 size s)
/-- MEM_DATA_FETCH. -/
def execMemDataFetch (q : Req) (size : Nat) (s : State) : Out := .next (fetchReq q 0xF500 1 2 size s)

/-! Snapshots (R45, R50, R55). -/

/-- The responses of slot k at the head of its order, sent over its lane (R50, 12 R334). -/
def flushSlot (k : Nat) : Nat → State → State
  | 0, s => s
  | j + 1, s =>
    match (s.slotOf k).reqs with
    | ⟨_, _, some r, _⟩ :: rest =>
      let slot := s.rd (HDI.SLOT (k - 1))
      let n := slot / 65536 % 256
      let bytes := r.status + r.tag * 2 ^ 8 + r.obj * 2 ^ 16 + r.mem * 2 ^ 32 + r.op * 2 ^ 40 + r.len * 2 ^ 48 + r.data * 2 ^ 64
      let s := (s.modSlot k fun x => { x with reqs := rest }).modLane n fun x =>
        { x with txMgmt := x.txMgmt ++ [.mgmt (slot % 65536) (8 + r.len) bytes] }
      flushSlot k j (trySend n s)
    | _ => s

/-- The request of a slot that waits for its master's fetch of number seq gets the response r. -/
def fillReq (seq : Nat) (r : Resp) : List SlotReq → List SlotReq
  | [] => []
  | x :: xs => if x.seq = seq ∧ x.resp = none then { x with resp := some r } :: xs else x :: fillReq seq r xs

/-- The snapshot of a fetch arrives at its master, or the mark of an error: EV005. -/
def fetchDone (master : Nat) (p : Pend) (s : State) : State :=
  let o := p.key / 256
  let m := p.key % 256
  let v := if sized o m then (p.len, p.data) else snapshot o m s
  let s := ((s.modMaster master fun x => { x with pend := x.pend.erase p }).raise 5).drawn
  let s := if p.bad && !(isDbg o) then s.bump 32 HDI.MESH_ERRORS else s
  if p.implicit then
    let q := Req.of master p.tag
    let s := if p.bad then respond q 1 o m 4 0 0 s else respond q 1 o m 0 v.1 v.2 s
    flushSlot master 16 (s.modSlot master fun x => { x with reqs := fillReq p.seq (s.masterOf master).resp x.reqs })
  else if p.old then s
  else s.modMaster master fun x => { x with snaps := x.snaps ++ [⟨p.key, v.1, v.2, !p.bad⟩] }

/-- FETCH_COMPLETE: the oldest pending fetch of the member whose reads have all been answered. -/
def execFetchComplete (master o m : Nat) (s : State) : Out :=
  .next <|
    match (s.masterOf master).pend.find? fun p => Nat.beq p.key (o * 256 + m) && p.parts.isEmpty with
    | some p => fetchDone master p s
    | none => s

/-- An error response to the debug port (19 R497). -/
def memError (s : State) : State := dbgFlag 6 (s.setBit DBG.MEM_STATUS 0 true)
/-- A response to a request of mesh data: bytes of a fetch, or the end of a posted write (R55). -/
def meshDataDone (dbg : Bool) (master : Nat) (r : MeshReq) (kind data : Nat) (s : State) : State :=
  if r.op = .read then
    match (s.masterOf master).pend.find? fun p => p.parts.contains r with
    | some p =>
      let p' := { p with parts := p.parts.erase r, bad := p.bad || Nat.beq kind 2,
                         data := p.data + data % 2 ^ (8 * r.len) * 2 ^ (8 * (r.addr - p.addr)) }
      let s := s.modMaster master fun x => { x with pend := x.pend.map fun y => if y = p then p' else y }
      if dbg && Nat.beq kind 2 then memError s else s
    | none => s
  else if kind = 2 then (if dbg then memError s else s.bump 32 HDI.MESH_ERRORS)
  else s

/-! The dictionary window (R51; 00 R4, R15, R16). -/

/-- The fields of a BITS member that a mesh write reaches, all others reserved (00 R4). -/
def fieldsOf (o m : Nat) : Nat :=
  let all := 2 ^ 64 - 1
  match o / 256, m with
  | 0x10, _ => if o = 0x1010 then 0x3F else all
  | 0x12, _ => 7
  | 0x20, 0 => if o = 0x2000 then 0x1FF else all
  | 0x24, _ => 0x0FF0FFFF
  | 0x28, _ => 0xFF
  | 0x32, 6 => 0x1F
  | 0x34, 1 => 1
  | 0x34, 0x11 => 0x7F
  | 0x51, 0x0C | 0x52, 0x0C | 0x53, 0x0C | 0x54, 0x0C | 0x55, 0x0C | 0x56, 0x0C => 0x1F
  | 0x61, 0x0B => 0x1F
  | 0x93, 0x0E => 0x7F
  | 0xA1, 5 => 3
  | 0xB0, 4 | 0xB0, 5 => 0xF
  | 0xB1, 0x2D => 0xFF
  | 0xC0, 1 => 0x1F
  | 0xC1, 1 => 0xFF
  | 0xC2, 1 => 0xFFFFFFFFFFC000
  | 0xD1, 6 => 0xFFFFFF
  | 0xD1, 8 => 0x773
  | 0xD1, 0x26 => 0x7F
  | 0xE0, 7 => if o = 0xE000 then 0x1FFF else if o = 0xE007 then 3 else all
  | 0xE0, _ => if o = 0xE007 then 3 else if o = 0xE001 ∧ (m = 1 ∨ m = 2) then 0xFFFFFFFFFFFF else all
  | 0xE2, 4 => 0xF7
  | 0xE3, 0 => 0xF7
  | 0xF6, 0 => 0xFF
  | _, _ => all

/-- The master number of a mesh request: its source node and port. -/
def windowMaster (r : MeshReq) : Nat :=
  16 + 16 * r.src + (match portOf r.own with | (10, p) => p % 16 | (k, _) => k)

/-- A mesh read through DBG.MEM_DATA is a debug read: an RC member keeps its side effect, and the mark is set (19 R496). -/
def windowDebug (r : MeshReq) (o m : Nat) : Bool :=
  (match r.own with | .dbg _ => true | _ => false) && debugRead (Req.of 9 0) 1 o m

/-- The object that an address of the dictionary window stands for. -/
def windowObj (r : MeshReq) : Nat := (r.addr - 0xF0000000000) / 2048
/-- The member. -/
def windowMem (r : MeshReq) : Nat := (r.addr - 0xF0000000000) % 2048 / 8

/-- The bytes of the word that the member uses, at most. -/
def windowWidth (r : MeshReq) : Nat := match Dict.find (windowObj r) (windowMem r) with | some x => x.width | none => 8

/-- The access that a request of one word makes, and its answer. -/
def windowServe (r : MeshReq) (s : State) : State :=
  let o := windowObj r
  let m := windowMem r
  let q := Req.of (windowMaster r) 0
  let w := windowWidth r
  if r.op = .read then
    let rule := readRule q o m w s
    let st := statusOf q 1 o m 0 0 rule.len (meshForm q 1 o m :: rule.conds) s
    let dbg := windowDebug r o m
    let t := finish q 1 o m st rule.len rule.data (if dbg then fun s => s else rule.eff) s
    if s.crh.inReset then s
    else if st = 0 then meshAnswer r 0 (rule.data % 2 ^ (8 * w)) (if dbg then t.setBit DBG.MEM_STATUS 1 true else t)
    else meshAnswer r 2 0 t
  else
    let v := r.data % 2 ^ (8 * w)
    let t := request q 2 o m w (v &&& fieldsOf o m) s
    if s.crh.inReset then s
    else meshAnswer r (if (t.masterOf q.master).resp.status = 0 ∨ t.crh.inReset = true then 1 else 2) 0 t

/-- A request to the dictionary window, with what its flits meet: one whole aligned word is read or written; every other form is
counted under 0x03 and refused. -/
def windowAccess (r : MeshReq) (fl : List Flit) (s : State) : State :=
  if regionOf r.addr s = 5 ∧ canArrive r s = true then
    let p := path r.src 0
    let s := flitsNoted p fl (noteArrival r { s with reqs := s.reqs.erase r })
    if isPoison p fl then meshAnswer r 2 0 s
    else if r.op = .orw ∨ r.len ≠ 8 ∨ r.addr % 8 ≠ 0 then meshAnswer r 2 0 (s.bump 32 (HDI.STATS 3)) else windowServe r s
  else s
/-- DICT_WINDOW_ACCESS. -/
def execDictWindowAccess (r : Arriving) (s : State) : Out := .next (windowAccess r.req r.flits s)

/-! The I3C target (R32 to R36, R43; 15 R405). -/

/-- Does the target follow the bus? -/
def busUp (s : State) : Bool := !s.crh.inReset && decide (s.hdi.i3c.bus = .sdr)
/-- What the part shows on the bus. -/
def show' (b : BusOut) (s : State) : State := s.modI3c fun i => { i with out := b }
/-- A direct command code to address dest: answered at the dynamic address; without one, only SETDASA is answered at the
static address (R33). -/
def direct (dest : Nat) (f : State → State) (s : State) : State :=
  if busUp s then
    match s.hdi.i3c.dyn with
    | some a => if dest = a then f s else show' .none s
    | none => if dest = 0x3A then show' .nack s else show' .none s
  else s
/-- A broadcast command code. -/
def broadcast (f : State → State) (s : State) : State := if busUp s then f s else s
/-- A command code that has both forms. -/
def either (dest : Option Nat) (f : State → State) (s : State) : State :=
  match dest with
  | some d => direct d f s
  | none => broadcast f s
/-- The front end changed and the code acknowledged. -/
def takeCcc (f : I3cS → I3cS) (s : State) : State := s.modI3c fun i => { f i with out := .ack }
/-- A dynamic address taken. -/
def takeAddr (a : Nat) (s : State) : State := takeCcc (fun i => { i with dyn := some a }) s

/-- ENEC: event bit 0 enables in-band interrupts. -/
def execEnec (dest : Option Nat) (events : Nat) (s : State) : Out :=
  .next (either dest (takeCcc fun i => { i with enInt := i.enInt || events.testBit 0 }) s)
/-- DISEC. -/
def execDisec (dest : Option Nat) (events : Nat) (s : State) : Out :=
  .next (either dest (takeCcc fun i => { i with enInt := i.enInt && !(events.testBit 0) }) s)
/-- RSTDAA: the part has no dynamic address. -/
def execRstdaa (s : State) : Out := .next (broadcast (takeCcc fun i => { i with dyn := none }) s)

/-- The provisional ID (R34). -/
def provisionalId (s : State) : Nat := s.rd (HDI.IDENT 2) % 2 ^ 15 * 2 ^ 33 + 2 ^ 32 + s.rd (HDI.IDENT 6) % 2 ^ 32
/-- ENTDAA: a part without an address takes it if its ID wins the arbitration, the lowest ID. -/
def execEntdaa (addr : Nat) (rivals : List Nat) (s : State) : Out :=
  .next <|
    broadcast (fun s =>
      if s.hdi.i3c.dyn.isNone && rivals.all (fun x => Nat.blt (provisionalId s) x) then takeAddr addr s else s) s
/-- SETAASA: a part without an address takes its static one. -/
def execSetaasa (s : State) : Out := .next (broadcast (fun s => if s.hdi.i3c.dyn.isNone then takeAddr 0x3A s else s) s)
/-- SETDASA: answered at the static address by a part without a dynamic one, else NACKed. -/
def execSetdasa (dest addr : Nat) (s : State) : Out :=
  .next <|
    if busUp s then
      match s.hdi.i3c.dyn with
      | none => if dest = 0x3A then takeAddr addr s else show' .none s
      | some a => if dest = a ∨ dest = 0x3A then show' .nack s else show' .none s
    else s
/-- SETNEWDA. -/
def execSetnewda (dest addr : Nat) (s : State) : Out := .next (direct dest (takeAddr addr) s)
/-- A transfer length that SETMWL and SETMRL accept (R36). -/
def newLimit (v old : Nat) : Nat := if 8 ≤ v ∧ v ≤ 2056 then v else old
/-- SETMWL. -/
def execSetmwl (dest : Option Nat) (v : Nat) (s : State) : Out :=
  .next (either dest (takeCcc fun i => { i with mwl := newLimit v i.mwl }) s)
/-- SETMRL. -/
def execSetmrl (dest : Option Nat) (v : Nat) (s : State) : Out :=
  .next (either dest (takeCcc fun i => { i with mrl := newLimit v i.mrl }) s)
/-- GETMWL. -/
def execGetmwl (dest : Nat) (s : State) : Out := .next (direct dest (fun s => show' (.data 2 s.hdi.i3c.mwl) s) s)
/-- GETMRL. -/
def execGetmrl (dest : Nat) (s : State) : Out := .next (direct dest (fun s => show' (.data 2 s.hdi.i3c.mrl) s) s)
/-- GETPID. -/
def execGetpid (dest : Nat) (s : State) : Out := .next (direct dest (fun s => show' (.data 6 (provisionalId s)) s) s)
/-- GETBCR. -/
def execGetbcr (dest : Nat) (s : State) : Out := .next (direct dest (show' (.data 1 0x26)) s)
/-- GETDCR. -/
def execGetdcr (dest : Nat) (s : State) : Out := .next (direct dest (show' (.data 1 0)) s)
/-- GETSTATUS: two bytes whose values the manual does not give (log entry 9). -/
def execGetstatus (dest : Nat) (s : State) : Out :=
  .next (direct dest (fun s => (show' (.data 2 (s.freeVal % 2 ^ 16)) s).drawn) s)
/-- ENTHDR0: HDR-DDR. -/
def execEnthdr0 (s : State) : Out := .next (broadcast (takeCcc fun i => { i with bus := .ddr }) s)
/-- ENTHDR1 to ENTHDR3: all traffic is ignored until the exit pattern. -/
def execEnthdrUnsupported (k : Nat) (s : State) : Out :=
  if 1 ≤ k ∧ k ≤ 3 then .next (broadcast (fun s => s.modI3c fun i => { i with bus := .ignore }) s) else .fault .noSuchUnit
/-- HDR_EXIT. -/
def execHdrExit (s : State) : Out := .next (if s.crh.inReset then s else s.modI3c fun i => { i with bus := .sdr })
/-- RSTACT. -/
def execRstact (dest : Option Nat) (b : Nat) (s : State) : Out :=
  .next (either dest (takeCcc fun i => { i with rstact := some b }) s)
/-- The I3C front end reset: the response buffer empty, the dynamic address kept, the rest as after a part reset. -/
def frontReset (s : State) : State :=
  (s.modI3c fun i => { dyn := i.dyn }).modMaster 0 fun x => { x with resp := {} }
/-- TARGET_RESET_PATTERN (15 R405). -/
def execTargetResetPattern (s : State) : Out :=
  .next <|
    if s.crh.inReset then s
    else match s.hdi.i3c.rstact with
      | some 0 => s.modI3c fun i => { i with rstact := none }
      | some 2 => partReset 6 s
      | _ => frontReset s
/-- UNSUPPORTED_CCC: NACKed where it is directed at the part, ignored as a broadcast. -/
def execUnsupportedCcc (dest : Option Nat) (s : State) : Out :=
  .next (match dest with | some d => direct d (show' .nack) s | none => s)

/-- The bytes of a response frame (R39). -/
def respBytes (r : Resp) : Nat :=
  r.status + r.tag * 2 ^ 8 + r.obj * 2 ^ 16 + r.mem * 2 ^ 32 + r.op * 2 ^ 40 + r.len * 2 ^ 48 + r.data * 2 ^ 64
/-- The response buffer read. -/
def readBuffer (s : State) : State :=
  let r := (s.masterOf 0).resp
  show' (.data (8 + r.len) (respBytes r)) s
/-- RESPONSE_READ. -/
def execResponseRead (s : State) : Out := .next (if s.crh.inReset ∨ s.hdi.i3c.bus = .ignore then s else readBuffer s)
/-- I2C_TRANSFER: served until the part has a dynamic address (R35). -/
def execI2cTransfer (rd : Bool) (op : Nat) (tag : FrameTag) (o m len v : Nat) (s : State) : Out :=
  .next <|
    if s.crh.inReset ∨ s.hdi.i3c.bus = .ignore then s
    else if s.hdi.i3c.dyn.isSome then show' .none s
    else if rd then readBuffer s
    else show' .ack (request ⟨0, tag.tag, tag.rsv, tag.got, none⟩ op o m len v s)

/-- What Capture-DR loads under DBGFRAME: READY, and behind it the response to the last request; READY is 0 while the part resets
and before the first request. With NO_DBGPORT it is the bypass register's 0 (19 R479). -/
def frameCaptured (s : State) : Nat :=
  let r := (s.masterOf 9).resp
  if s.bit DBG.POLICY 1 || s.crh.inReset || decide (r = {}) then 0 else 1 + 2 * respBytes r
/-- DBGFRAME: Capture-DR loads the last response, and Update-DR takes one request of the debug port; with NO_DBGPORT it acts as BYPASS
(19 R479). -/
def execDbgframe (op : Nat) (tag : FrameTag) (o m len v : Nat) (s : State) : Out :=
  .next (request ⟨9, tag.tag, tag.rsv, tag.got, none⟩ op o m len v
    (modDbg (fun d => { d with dr := frameCaptured s }) (loadInsn 0x10 s)))

end Sys2Proof.Machine
end

