-- ==== Sys2Proof/Machine/Mgmt.lean ====
section
/-! DEFINITION. The management channel: slots and their requests (02_control_dictionary.md R48 to R50, 12_lanes.md R334). -/
namespace Sys2Proof.Machine

/-- The slot bound to lane n and source src. -/
def slotBound (n src : Nat) (s : State) : Option Nat := (slotsOf n s).find? fun k => Nat.beq (s.rd (HDI.SLOT (k - 1)) % 65536) src
/-- The slot that a new pair takes: the lowest free one (DESIGN CHOICE, log entry 52). -/
def slotFree (s : State) : Option Nat := [1, 2, 3, 4, 5, 6, 7, 8].find? fun k => !((s.slotOf k).bound)
/-- Slot k bound to lane n and source src. -/
def bindSlot (k n src : Nat) (s : State) : State :=
  (s.wr (HDI.SLOT (k - 1)) (n * 65536 + src)).modSlot k fun _ => { bound := true, last := s.now }

/-- Byte i of a request frame of n bytes; a byte that has not come reads 0. -/
def frameByte (f i : Nat) : Nat := f / 2 ^ (8 * i) % 256

/-- The request of slot k: its frame is processed, and its response leaves in the order of requests. A read that waits for its
snapshot is answered later (R50). -/
def slotRequest (k len f : Nat) (s : State) : State :=
  let o := f / 2 ^ 16 % 65536
  let m := frameByte f 4
  let n := f / 2 ^ 48 % 65536
  let q : Req := ⟨k, frameByte f 1, frameByte f 5, if n + 8 = len then none else some (len - 8), none⟩
  let s := s.modSlot k fun x => { x with last := s.now }
  let waiting := (s.masterOf k).pend.length
  let t := request q (frameByte f 0) o m n (f / 2 ^ 64) s
  if t.crh.inReset = true ∨ (t.slotOf k).bound = false then t
  else
    let later := frameByte f 0 = 1 ∧ waiting < (t.masterOf k).pend.length
    let r := if later then none else some (t.masterOf k).resp
    flushSlot k 16 (t.modSlot k fun x => { x with reqs := x.reqs ++ [⟨q.tag, o * 256 + m, r, (s.masterOf k).fetches⟩] })

/-- A request without a slot: answered with 0x08, EV006 (R48). -/
def noSlot (n src f : Nat) (s : State) : State :=
  let bytes := 8 + frameByte f 1 * 2 ^ 8 + f / 2 ^ 16 % 65536 * 2 ^ 16 + frameByte f 4 * 2 ^ 32 + frameByte f 0 * 2 ^ 40
  trySend n (((s.bump 32 (HDI.STATS 8)).modLane n fun x => { x with txMgmt := x.txMgmt ++ [.mgmt src 8 bytes] }).raise 6)

/-- Requests of slot k, bound to lane n and source src, whose responses the peer has not been sent (R50). -/
def outstanding (k n src : Nat) (s : State) : Nat :=
  (s.slotOf k).reqs.length + ((s.laneOf n).txMgmt.filter fun x => match x with | .mgmt a _ _ => Nat.beq a src | _ => false).length

/-- MGMT_MESSAGE: the oldest management message of lane n is taken for processing; one beyond the 16th outstanding request of
its slot stays in the buffer. -/
def execMgmtMessage (n : Nat) (s : State) : Out :=
  unitCmd n 48 <|
    match oldest n 1 s with
    | some x =>
      match slotBound n x.src s with
      | some k =>
        if outstanding k n x.src s < 16 then trySend n (slotRequest k x.len x.data (takeMsg n x s)) else s
      | none =>
        match slotFree s with
        | some k => trySend n (slotRequest k x.len x.data (bindSlot k n x.src (takeMsg n x s)))
        | none => noSlot n x.src x.data (takeMsg n x s)
    | none => s

/-- MGMT_SLOT_IDLE_TIMEOUT: 1 s after the last request of slot k, unless it owns the mirror. -/
def execMgmtSlotIdleTimeout (k : Nat) (s : State) : Out :=
  if 1 ≤ k ∧ k ≤ 8 then
    .next <|
      if (s.slotOf k).bound = true ∧ s.rd HDI.MIRROR_OWNER ≠ k then
        releaseSlot k (s.upto ((s.slotOf k).last + 1000000 * ticksPerUs))
      else s
  else .fault .noSuchUnit

end Sys2Proof.Machine
end

