-- ==== Sys2Proof/Machine/Deliver.lean ====
section
/-! DEFINITION. Responses that reach their source, whatever block it is (11_mesh.md R301, R302, R308, R311), and the bitmap FIFO's
issue under mesh credit (08_fail_capture.md R241). -/
namespace Sys2Proof.Machine

/-- The answer to a ring read reaches SQq: the line is the one that the address names (08 R226). -/
def ringAnswered (q : Nat) (x : MeshResp) (s : State) : State :=
  ringReadDone q ((x.req.addr - s.rd (FCP.Q_RING_BASE q)) / 256) x s

/-- A response reaches the block that sent its request. -/
def respDone (x : MeshResp) (s : State) : State :=
  match x.req.own with
  | .hdi m => meshDataDone false m x.req x.kind x.data (respTaken x s)
  | .dbg m => meshDataDone true m x.req x.kind x.data (respTaken x s)
  | .veLine n line => lineDone n line x s
  | .ringWrite q line => ringWriteDone q line x s
  | .ringRead q => ringAnswered q x s
  | .bitmap n => bitmapDone n x s
  | .facet f => facetDone f x s
  | .dspMove n k => if k = 8 then gateDone n x (respTaken x s) else moveDone n x (respTaken x s)
  | .dspNote n _ => moveAnswered n x (respTaken x s)
  | .lane n _ => laneDone n x (respTaken x s)
  | .stream n => streamDone n x (respTaken x s)
  | .crypto => cryptoDone x s
  | .flp => flpDone x s
  | .reload => reloadDone x s
  | .mesh _ _ => respTaken x s

/-- A response as it reaches its source: one poisoned on its way is an error response (R308). -/
def arrived (fl : List Flit) (x : MeshResp) (s : State) : MeshResp :=
  if isPoison (respPath x.req s) fl then { x with kind := 2, data := 0 } else x

/-- The way of a response: probes see it and routers note the errors of its flits; an error response of the source's own router
is no packet (R300, R308, R313). -/
def noteReturn (fl : List Flit) (x : MeshResp) (s : State) : State :=
  let t := { s with resps := arrived fl x s :: s.resps.erase x }
  flitsNoted (respPath x.req s) fl (if regionOf x.req.addr s = 6 then t else probesSee (respPacket x s) t)

/-- The response x reaches its source, if it can now; done is what the source does with it. -/
def returnBy (done : MeshResp → State → State) (fl : List Flit) (x : MeshResp) (s : State) : State :=
  if canReturn x s then done (arrived fl x s) (noteReturn fl x s) else s

/-- The first response of the kind to request r arrives. -/
def deliver (kind : Nat) (r : MeshReq) (fl : List Flit) (s : State) : State :=
  match s.resps.find? fun x => decide (x.req = r) && Nat.beq x.kind kind with
  | some x => returnBy respDone fl x s
  | none => s

/-- MESH_DATA_RESPONSE. -/
def execMeshDataResponse (r : MeshReq) (fl : List Flit) (s : State) : Out := .next (deliver 0 r fl s)
/-- MESH_ACK_RESPONSE. -/
def execMeshAckResponse (r : MeshReq) (fl : List Flit) (s : State) : Out := .next (deliver 1 r fl s)
/-- MESH_ERROR_RESPONSE. -/
def execMeshErrorResponse (r : Arriving) (s : State) : Out := .next (deliver 2 r.req r.flits s)

/-- LINE_READ_COMPLETE: the answer to the line's read arrives (04 R121). -/
def execLineReadComplete (n : Nat) (line : LineBack) (s : State) : Out :=
  unitCmd n 32 <|
    match respFor (.veLine n line.line) s with
    | some x => returnBy (lineDone n line.line) line.flits x s
    | none => s

/-- RING_WRITE_DONE: the answer to the write of the line arrives, an error or not (08 R226, R231). -/
def execRingWriteDone (q line : Nat) (err : RingBack) (s : State) : Out :=
  unitCmd q 64 <|
    match respFor (.ringWrite q line) s with
    | some x => if err.err = Nat.beq (arrived err.flits x s).kind 2 then returnBy (ringWriteDone q line) err.flits x s else s
    | none => s

/-- RING_READ_DONE: the answer to a ring read arrives, an error or not (08 R226, R231). -/
def execRingReadDone (q : Nat) (err : RingBack) (s : State) : Out :=
  unitCmd q 64 <|
    match respFor (.ringRead q) s with
    | some x => if err.err = Nat.beq (arrived err.flits x s).kind 2 then returnBy (ringAnswered q) err.flits x s else s
    | none => s

/-- The OR-write of a formed operation of VEn (08 R241). -/
def bitmapReq (n : Nat) (op : BmOp) : MeshReq := ⟨.orw, .bitmap n, veNode n, 2, op.addr, 8, op.mask⟩

/-- BITMAP_ISSUE: the oldest formed operation leaves the FIFO as a C2 OR-write, one per engine clock, when the controller gives
mesh credit; one with no destination needs none (08 R241, R300, R306). -/
def execBitmapIssue (n : Nat) (s : State) : Out :=
  unitCmd n 32 <|
    match (s.fcpOf n).bmFifo with
    | op :: rest =>
      if regionOf op.addr s = 6 ∨ creditFree (bitmapReq n op) s = true then
        let e := max (engEdge s.now) (s.fcpOf n).bmFrom
        meshSend (bitmapReq n op)
          (((s.upto e).modFcp n fun f => { f with bmFifo := rest, bmFrom := e + 8192 }).bump 16 (FCP.BM_INFLIGHT n))
      else s
    | [] => s

end Sys2Proof.Machine
end

