-- ==== Sys2Proof/Machine/Dispatch.lean ====
section
/-! DEFINITION. The dispatch: one arm per command of the opcode table, each a direct call of its meaning. -/
namespace Sys2Proof.Machine

def exec (i : Instr) (s : State) : Host.Outcome State Fault Refusal :=
  match i with
  | .dictRead q o m len v => Sys2Proof.Machine.execDictRead q o m len v s
  | .dictWrite q o m len v => Sys2Proof.Machine.execDictWrite q o m len v s
  | .fetch q o m len v => Sys2Proof.Machine.execFetch q o m len v s
  | .mread q o m => Sys2Proof.Machine.execMread q o m s
  | .mdrop q o m => Sys2Proof.Machine.execMdrop q o m s
  | .fetchComplete master o m => Sys2Proof.Machine.execFetchComplete master o m s
  | .responseRead => Sys2Proof.Machine.execResponseRead s
  | .i2cTransfer rd op tag o m len v => Sys2Proof.Machine.execI2cTransfer rd op tag o m len v s
  | .enec dest events => Sys2Proof.Machine.execEnec dest events s
  | .disec dest events => Sys2Proof.Machine.execDisec dest events s
  | .rstdaa => Sys2Proof.Machine.execRstdaa s
  | .entdaa addr rivals => Sys2Proof.Machine.execEntdaa addr rivals s
  | .setaasa => Sys2Proof.Machine.execSetaasa s
  | .setdasa dest addr => Sys2Proof.Machine.execSetdasa dest addr s
  | .setnewda dest addr => Sys2Proof.Machine.execSetnewda dest addr s
  | .setmwl dest v => Sys2Proof.Machine.execSetmwl dest v s
  | .setmrl dest v => Sys2Proof.Machine.execSetmrl dest v s
  | .getmwl dest => Sys2Proof.Machine.execGetmwl dest s
  | .getmrl dest => Sys2Proof.Machine.execGetmrl dest s
  | .getpid dest => Sys2Proof.Machine.execGetpid dest s
  | .getbcr dest => Sys2Proof.Machine.execGetbcr dest s
  | .getdcr dest => Sys2Proof.Machine.execGetdcr dest s
  | .getstatus dest => Sys2Proof.Machine.execGetstatus dest s
  | .enthdr0 => Sys2Proof.Machine.execEnthdr0 s
  | .enthdrUnsupported k => Sys2Proof.Machine.execEnthdrUnsupported k s
  | .hdrExit => Sys2Proof.Machine.execHdrExit s
  | .rstact dest b => Sys2Proof.Machine.execRstact dest b s
  | .targetResetPattern => Sys2Proof.Machine.execTargetResetPattern s
  | .unsupportedCcc dest => Sys2Proof.Machine.execUnsupportedCcc dest s
  | .mgmtSlotIdleTimeout k => Sys2Proof.Machine.execMgmtSlotIdleTimeout k s
  | .dictWindowAccess r => Sys2Proof.Machine.execDictWindowAccess r s
  | .statsClr q v => Sys2Proof.Machine.execStatsClr q v s
  | .meshDataWrite q len v => Sys2Proof.Machine.execMeshDataWrite q len v s
  | .meshDataFetch q size => Sys2Proof.Machine.execMeshDataFetch q size s
  | .mirrorLeaseExpiry => Sys2Proof.Machine.execMirrorLeaseExpiry s
  | .batchCheck q v => Sys2Proof.Machine.execBatchCheck q v s
  | .batchCheckEnd => Sys2Proof.Machine.execBatchCheckEnd s
  | .batchDiscard q v => Sys2Proof.Machine.execBatchDiscard q v s
  | .applyArm q v => Sys2Proof.Machine.execApplyArm q v s
  | .applyCancel q v => Sys2Proof.Machine.execApplyCancel q v s
  | .syncinCapture level => Sys2Proof.Machine.execSyncinCapture level s
  | .apply => Sys2Proof.Machine.execApply s
  | .veEnable q n => Sys2Proof.Machine.execVeEnable q n s
  | .veDisable q n => Sys2Proof.Machine.execVeDisable q n s
  | .veStart q n => Sys2Proof.Machine.execVeStart q n s
  | .veStartAt q n => Sys2Proof.Machine.execVeStartAt q n s
  | .veHalt q n => Sys2Proof.Machine.execVeHalt q n s
  | .veResume q n => Sys2Proof.Machine.execVeResume q n s
  | .veStop q n => Sys2Proof.Machine.execVeStop q n s
  | .veClearFault q n => Sys2Proof.Machine.execVeClearFault q n s
  | .veSelfcheck q n => Sys2Proof.Machine.execVeSelfcheck q n s
  | .veSelfcheckEnd n pass => Sys2Proof.Machine.execVeSelfcheckEnd n pass s
  | .veStartEdge n => Sys2Proof.Machine.execVeStartEdge n s
  | .vec n smp => Sys2Proof.Machine.execVec n smp s
  | .rpt n smp => Sys2Proof.Machine.execRpt n smp s
  | .veLdc n smp => Sys2Proof.Machine.execVeLdc n smp s
  | .loop n smp => Sys2Proof.Machine.execLoop n smp s
  | .veJmp n smp => Sys2Proof.Machine.execVeJmp n smp s
  | .call n smp => Sys2Proof.Machine.execCall n smp s
  | .ret n smp => Sys2Proof.Machine.execRet n smp s
  | .jc n smp => Sys2Proof.Machine.execJc n smp s
  | .clrf n smp => Sys2Proof.Machine.execClrf n smp s
  | .mbeg n smp => Sys2Proof.Machine.execMbeg n smp s
  | .matchEnd n smp => Sys2Proof.Machine.execMatchEnd n smp s
  | .bar n smp => Sys2Proof.Machine.execBar n smp s
  | .veEvt n smp => Sys2Proof.Machine.execVeEvt n smp s
  | .veHaltWord n smp => Sys2Proof.Machine.execVeHaltWord n smp s
  | .barrierRelease mask => Sys2Proof.Machine.execBarrierRelease mask s
  | .barrierError n => Sys2Proof.Machine.execBarrierError n s
  | .veHaltTakesEffect n => Sys2Proof.Machine.execVeHaltTakesEffect n s
  | .veStopTakesEffect n => Sys2Proof.Machine.execVeStopTakesEffect n s
  | .veResumeLands n => Sys2Proof.Machine.execVeResumeLands n s
  | .applyLandsRunning n => Sys2Proof.Machine.execApplyLandsRunning n s
  | .patternTimeout n => Sys2Proof.Machine.execPatternTimeout n s
  | .lineReadIssue n => Sys2Proof.Machine.execLineReadIssue n s
  | .lineReadComplete n line => Sys2Proof.Machine.execLineReadComplete n line s
  | .apgTransfer n => Sys2Proof.Machine.execApgTransfer n s
  | .cellPass col row => Sys2Proof.Machine.execCellPass col row s
  | .cellAdd col row => Sys2Proof.Machine.execCellAdd col row s
  | .cellSub col row => Sys2Proof.Machine.execCellSub col row s
  | .cellAnd col row => Sys2Proof.Machine.execCellAnd col row s
  | .cellOr col row => Sys2Proof.Machine.execCellOr col row s
  | .cellXor col row => Sys2Proof.Machine.execCellXor col row s
  | .cellAndn col row => Sys2Proof.Machine.execCellAndn col row s
  | .cellNot col row => Sys2Proof.Machine.execCellNot col row s
  | .cellShl1 col row => Sys2Proof.Machine.execCellShl1 col row s
  | .cellShl col row => Sys2Proof.Machine.execCellShl col row s
  | .cellShr col row => Sys2Proof.Machine.execCellShr col row s
  | .cellRol col row => Sys2Proof.Machine.execCellRol col row s
  | .cellBrev col row => Sys2Proof.Machine.execCellBrev col row s
  | .cellBsel col row => Sys2Proof.Machine.execCellBsel col row s
  | .cellEq col row => Sys2Proof.Machine.execCellEq col row s
  | .cellPar col row => Sys2Proof.Machine.execCellPar col row s
  | .cellCntk col row => Sys2Proof.Machine.execCellCntk col row s
  | .cellMin col row => Sys2Proof.Machine.execCellMin col row s
  | .cellMax col row => Sys2Proof.Machine.execCellMax col row s
  | .cellReservedOp col row => Sys2Proof.Machine.execCellReservedOp col row s
  | .configUpset u => Sys2Proof.Machine.execConfigUpset u s
  | .facetRelease q f => Sys2Proof.Machine.execFacetRelease q f s
  | .facetHold q f => Sys2Proof.Machine.execFacetHold q f s
  | .facetReleaseLands f => Sys2Proof.Machine.execFacetReleaseLands f s
  | .facetHoldLands f => Sys2Proof.Machine.execFacetHoldLands f s
  | .userInWrite q f k v => Sys2Proof.Machine.execUserInWrite q f k v s
  | .userReq f => Sys2Proof.Machine.execUserReq f s
  | .facetMeshRequest f op addr len data => Sys2Proof.Machine.execFacetMeshRequest f op addr len data s
  | .focus q => Sys2Proof.Machine.execFocus q s
  | .edgSelfcheck q => Sys2Proof.Machine.execEdgSelfcheck q s
  | .focusAbort q => Sys2Proof.Machine.execFocusAbort q s
  | .focusChannelEnd ch found => Sys2Proof.Machine.execFocusChannelEnd ch found s
  | .selfcheckChannelEnd ch pass => Sys2Proof.Machine.execSelfcheckChannelEnd ch pass s
  | .tempTrackSample g temp => Sys2Proof.Machine.execTempTrackSample g temp s
  | .trimCommit q => Sys2Proof.Machine.execTrimCommit q s
  | .trimImport q => Sys2Proof.Machine.execTrimImport q s
  | .trimWriteEnd => Sys2Proof.Machine.execTrimWriteEnd s
  | .failCycle n => Sys2Proof.Machine.execFailCycle n s
  | .recordToTail n => Sys2Proof.Machine.execRecordToTail n s
  | .ringWriteIssue q => Sys2Proof.Machine.execRingWriteIssue q s
  | .ringReadIssue q => Sys2Proof.Machine.execRingReadIssue q s
  | .ringWriteDone q line err => Sys2Proof.Machine.execRingWriteDone q line err s
  | .ringReadDone q err => Sys2Proof.Machine.execRingReadDone q err s
  | .pop r q => Sys2Proof.Machine.execPop r q s
  | .poprec r q => Sys2Proof.Machine.execPoprec r q s
  | .queueEnable r q => Sys2Proof.Machine.execQueueEnable r q s
  | .queueDisable r q => Sys2Proof.Machine.execQueueDisable r q s
  | .flush r q => Sys2Proof.Machine.execFlush r q s
  | .push r q v => Sys2Proof.Machine.execPush r q v s
  | .pushEnd r q v => Sys2Proof.Machine.execPushEnd r q v s
  | .fcountClr r c v => Sys2Proof.Machine.execFcountClr r c v s
  | .mergeTimeout n => Sys2Proof.Machine.execMergeTimeout n s
  | .bitmapIssue n => Sys2Proof.Machine.execBitmapIssue n s
  | .dmcTrain q n => Sys2Proof.Machine.execDmcTrain q n s
  | .dmcRetrain q n => Sys2Proof.Machine.execDmcRetrain q n s
  | .autoTrainStart => Sys2Proof.Machine.execAutoTrainStart s
  | .trainingEnd n eye => Sys2Proof.Machine.execTrainingEnd n eye s
  | .retrainingEnd n ok => Sys2Proof.Machine.execRetrainingEnd n ok s
  | .autoRetrain n => Sys2Proof.Machine.execAutoRetrain n s
  | .dimmTempRead n temp => Sys2Proof.Machine.execDimmTempRead n temp s
  | .mapForm => Sys2Proof.Machine.execMapForm s
  | .excludeWrite q v => Sys2Proof.Machine.execExcludeWrite q v s
  | .dmcAccept n => Sys2Proof.Machine.execDmcAccept n s
  | .dmcAccessIssue n => Sys2Proof.Machine.execDmcAccessIssue n s
  | .dmcAccessComplete n ecc => Sys2Proof.Machine.execDmcAccessComplete n ecc s
  | .agePromotion n => Sys2Proof.Machine.execAgePromotion n s
  | .throttleEnd n => Sys2Proof.Machine.execThrottleEnd n s
  | .rowTableClear n => Sys2Proof.Machine.execRowTableClear n s
  | .refresh n => Sys2Proof.Machine.execRefresh n s
  | .patrolScrub n ecc => Sys2Proof.Machine.execPatrolScrub n ecc s
  | .retainWrite q v => Sys2Proof.Machine.execRetainWrite q v s
  | .paneFabricAccess p bad => Sys2Proof.Machine.execPaneFabricAccess p bad s
  | .stealTimeout r => Sys2Proof.Machine.execStealTimeout r s
  | .paneDetach q p => Sys2Proof.Machine.execPaneDetach q p s
  | .paneAttach q p => Sys2Proof.Machine.execPaneAttach q p s
  | .paneDetachLands p => Sys2Proof.Machine.execPaneDetachLands p s
  | .paneAttachLands p => Sys2Proof.Machine.execPaneAttachLands p s
  | .paneTest q p => Sys2Proof.Machine.execPaneTest q p s
  | .paneTestEnd p bad => Sys2Proof.Machine.execPaneTestEnd p bad s
  | .paneModeWrite q p v => Sys2Proof.Machine.execPaneModeWrite q p v s
  | .scratchOwnerWrite q b port v => Sys2Proof.Machine.execScratchOwnerWrite q b port v s
  | .handoverEnd b => Sys2Proof.Machine.execHandoverEnd b s
  | .scratchTest q b => Sys2Proof.Machine.execScratchTest q b s
  | .scratchTestEnd b bad => Sys2Proof.Machine.execScratchTestEnd b bad s
  | .clearEnd d => Sys2Proof.Machine.execClearEnd d s
  | .meshRead r flit ecc => Sys2Proof.Machine.execMeshRead r flit ecc s
  | .meshWrite r flit => Sys2Proof.Machine.execMeshWrite r flit s
  | .meshOr r flit => Sys2Proof.Machine.execMeshOr r flit s
  | .meshDataResponse r flit => Sys2Proof.Machine.execMeshDataResponse r flit s
  | .meshAckResponse r flit => Sys2Proof.Machine.execMeshAckResponse r flit s
  | .meshErrorResponse r => Sys2Proof.Machine.execMeshErrorResponse r s
  | .domainPowered d => Sys2Proof.Machine.execDomainPowered d s
  | .routerSelfcheck q n => Sys2Proof.Machine.execRouterSelfcheck q n s
  | .rcfgWrite q n v => Sys2Proof.Machine.execRcfgWrite q n v s
  | .drainEnd n pass => Sys2Proof.Machine.execDrainEnd n pass s
  | .probeRun q p => Sys2Proof.Machine.execProbeRun q p s
  | .probeStop q p => Sys2Proof.Machine.execProbeStop q p s
  | .probeClear q p => Sys2Proof.Machine.execProbeClear q p s
  | .tclear q v => Sys2Proof.Machine.execTclear q v s
  | .laneStart q n => Sys2Proof.Machine.execLaneStart q n s
  | .laneReset q n => Sys2Proof.Machine.execLaneReset q n s
  | .laneRetrain q n => Sys2Proof.Machine.execLaneRetrain q n s
  | .adaptEnd n => Sys2Proof.Machine.execAdaptEnd n s
  | .lockGained n => Sys2Proof.Machine.execLockGained n s
  | .qrateWrite q k v => Sys2Proof.Machine.execQrateWrite q k v s
  | .qpllLock k => Sys2Proof.Machine.execQpllLock k s
  | .laneMapWrite q k v => Sys2Proof.Machine.execLaneMapWrite q k v s
  | .dataBlock n v fix => Sys2Proof.Machine.execDataBlock n v fix s
  | .idleBlock n v fix => Sys2Proof.Machine.execIdleBlock n v fix s
  | .startBlock n v fix => Sys2Proof.Machine.execStartBlock n v fix s
  | .creditBlock n v fix => Sys2Proof.Machine.execCreditBlock n v fix s
  | .linkBlock n v fix => Sys2Proof.Machine.execLinkBlock n v fix s
  | .meshMessage n => Sys2Proof.Machine.execMeshMessage n s
  | .mgmtMessage n => Sys2Proof.Machine.execMgmtMessage n s
  | .timeMessage n => Sys2Proof.Machine.execTimeMessage n s
  | .streamMessage n => Sys2Proof.Machine.execStreamMessage n s
  | .streamWritesDone n err => Sys2Proof.Machine.execStreamWritesDone n err s
  | .creditSendTimer n => Sys2Proof.Machine.execCreditSendTimer n s
  | .linkSendTimer n => Sys2Proof.Machine.execLinkSendTimer n s
  | .tmuRoleWrite q v => Sys2Proof.Machine.execTmuRoleWrite q v s
  | .incrWrite q v => Sys2Proof.Machine.execIncrWrite q v s
  | .tmuStep q v => Sys2Proof.Machine.execTmuStep q v s
  | .tmuSet q v => Sys2Proof.Machine.execTmuSet q v s
  | .exchangeStart => Sys2Proof.Machine.execExchangeStart s
  | .sync n => Sys2Proof.Machine.execSync n s
  | .follow n => Sys2Proof.Machine.execFollow n s
  | .dreq n => Sys2Proof.Machine.execDreq n s
  | .dresp n => Sys2Proof.Machine.execDresp n s
  | .exchangeTimeout => Sys2Proof.Machine.execExchangeTimeout s
  | .txmsg q n v => Sys2Proof.Machine.execTxmsg q n v s
  | .txts q n => Sys2Proof.Machine.execTxts q n s
  | .rxmsg q n => Sys2Proof.Machine.execRxmsg q n s
  | .apertureArm q a => Sys2Proof.Machine.execApertureArm q a s
  | .apertureDisarm q a => Sys2Proof.Machine.execApertureDisarm q a s
  | .apertureOpen a => Sys2Proof.Machine.execApertureOpen a s
  | .apertureClose a => Sys2Proof.Machine.execApertureClose a s
  | .triggerArm q t => Sys2Proof.Machine.execTriggerArm q t s
  | .triggerDisarm q t => Sys2Proof.Machine.execTriggerDisarm q t s
  | .triggerPulse t => Sys2Proof.Machine.execTriggerPulse t s
  | .captureEdge t rising => Sys2Proof.Machine.execCaptureEdge t rising s
  | .capPop q t => Sys2Proof.Machine.execCapPop q t s
  | .scheduleFire => Sys2Proof.Machine.execScheduleFire s
  | .mpy n ecc => Sys2Proof.Machine.execMpy n ecc s
  | .mac n ecc => Sys2Proof.Machine.execMac n ecc s
  | .msu n ecc => Sys2Proof.Machine.execMsu n ecc s
  | .accClr n => Sys2Proof.Machine.execAccClr n s
  | .accLda n => Sys2Proof.Machine.execAccLda n s
  | .accAdda n => Sys2Proof.Machine.execAccAdda n s
  | .accSuml n => Sys2Proof.Machine.execAccSuml n s
  | .accStr n => Sys2Proof.Machine.execAccStr n s
  | .accShra n => Sys2Proof.Machine.execAccShra n s
  | .mem n ecc => Sys2Proof.Machine.execMem n ecc s
  | .seta n => Sys2Proof.Machine.execSeta n s
  | .seto n => Sys2Proof.Machine.execSeto n s
  | .inca n => Sys2Proof.Machine.execInca n s
  | .vmov n => Sys2Proof.Machine.execVmov n s
  | .vadd n => Sys2Proof.Machine.execVadd n s
  | .vsub n => Sys2Proof.Machine.execVsub n s
  | .vshl n => Sys2Proof.Machine.execVshl n s
  | .vshr n => Sys2Proof.Machine.execVshr n s
  | .dspNop n => Sys2Proof.Machine.execDspNop n s
  | .dspJmp n => Sys2Proof.Machine.execDspJmp n s
  | .djnz n => Sys2Proof.Machine.execDjnz n s
  | .dspLdc n => Sys2Proof.Machine.execDspLdc n s
  | .dspEvt n => Sys2Proof.Machine.execDspEvt n s
  | .dspHaltInsn n => Sys2Proof.Machine.execDspHaltInsn n s
  | .waitm n => Sys2Proof.Machine.execWaitm n s
  | .bclr n => Sys2Proof.Machine.execBclr n s
  | .blk n => Sys2Proof.Machine.execBlk n s
  | .dspRpt n => Sys2Proof.Machine.execDspRpt n s
  | .move n => Sys2Proof.Machine.execMove n s
  | .moveGatePoll n => Sys2Proof.Machine.execMoveGatePoll n s
  | .moveComplete n => Sys2Proof.Machine.execMoveComplete n s
  | .dspStart q n => Sys2Proof.Machine.execDspStart q n s
  | .dspStartAt q n => Sys2Proof.Machine.execDspStartAt q n s
  | .dspStop q n => Sys2Proof.Machine.execDspStop q n s
  | .dspHalt q n => Sys2Proof.Machine.execDspHalt q n s
  | .dspResume q n => Sys2Proof.Machine.execDspResume q n s
  | .dspSelfcheck q n => Sys2Proof.Machine.execDspSelfcheck q n s
  | .dspSelfcheckEnd n pass => Sys2Proof.Machine.execDspSelfcheckEnd n pass s
  | .dspStartEdge n => Sys2Proof.Machine.execDspStartEdge n s
  | .dspHaltLands n => Sys2Proof.Machine.execDspHaltLands n s
  | .dspStopLands n => Sys2Proof.Machine.execDspStopLands n s
  | .dspWatchdogExpiry n => Sys2Proof.Machine.execDspWatchdogExpiry n s
  | .refinPresent => Sys2Proof.Machine.execRefinPresent s
  | .mpllLock => Sys2Proof.Machine.execMpllLock s
  | .refinLoss => Sys2Proof.Machine.execRefinLoss s
  | .clkoutCfgWrite q v => Sys2Proof.Machine.execClkoutCfgWrite q v s
  | .clockSwitchDone => Sys2Proof.Machine.execClockSwitchDone s
  | .clockSwitchTimeout => Sys2Proof.Machine.execClockSwitchTimeout s
  | .ddrPllLock n => Sys2Proof.Machine.execDdrPllLock n s
  | .fmStart q => Sys2Proof.Machine.execFmStart q s
  | .fmDone count => Sys2Proof.Machine.execFmDone count s
  | .gateClose q u => Sys2Proof.Machine.execGateClose q u s
  | .gateOpen q u => Sys2Proof.Machine.execGateOpen q u s
  | .gateClosed u => Sys2Proof.Machine.execGateClosed u s
  | .gateCloseForce u => Sys2Proof.Machine.execGateCloseForce u s
  | .gateOpened u => Sys2Proof.Machine.execGateOpened u s
  | .powerOff q d => Sys2Proof.Machine.execPowerOff q d s
  | .powerOn q d => Sys2Proof.Machine.execPowerOn q d s
  | .por board => Sys2Proof.Machine.execPor board s
  | .brownout => Sys2Proof.Machine.execBrownout s
  | .pinReset => Sys2Proof.Machine.execPinReset s
  | .nresetRise straps => Sys2Proof.Machine.execNresetRise straps s
  | .softReset q => Sys2Proof.Machine.execSoftReset q s
  | .thermalTrip => Sys2Proof.Machine.execThermalTrip s
  | .resetEnd => Sys2Proof.Machine.execResetEnd s
  | .supReady => Sys2Proof.Machine.execSupReady s
  | .tempSample temps => Sys2Proof.Machine.execTempSample temps s
  | .railSample r mv => Sys2Proof.Machine.execRailSample r mv s
  | .autoLoad flash => Sys2Proof.Machine.execAutoLoad flash s
  | .loadFull q flash => Sys2Proof.Machine.execLoadFull q flash s
  | .loadPartial q flash => Sys2Proof.Machine.execLoadPartial q flash s
  | .loadAbort q => Sys2Proof.Machine.execLoadAbort q s
  | .streamWrite q len v => Sys2Proof.Machine.execStreamWrite q len v s
  | .streamHeader => Sys2Proof.Machine.execStreamHeader s
  | .chunkCheck => Sys2Proof.Machine.execChunkCheck s
  | .manifestFrame c => Sys2Proof.Machine.execManifestFrame c s
  | .cellFrame c => Sys2Proof.Machine.execCellFrame c s
  | .routeFrame sels => Sys2Proof.Machine.execRouteFrame sels s
  | .paneFrame => Sys2Proof.Machine.execPaneFrame s
  | .ioFrame => Sys2Proof.Machine.execIoFrame s
  | .endFrame => Sys2Proof.Machine.execEndFrame s
  | .hostDataTimeout => Sys2Proof.Machine.execHostDataTimeout s
  | .flpStart q => Sys2Proof.Machine.execFlpStart q s
  | .flpAbort q => Sys2Proof.Machine.execFlpAbort q s
  | .writeBbram q => Sys2Proof.Machine.execWriteBbram q s
  | .zeroise q => Sys2Proof.Machine.execZeroise q s
  | .fuseKey q => Sys2Proof.Machine.execFuseKey q s
  | .fusePolicy q => Sys2Proof.Machine.execFusePolicy q s
  | .keyCommandEnd ok => Sys2Proof.Machine.execKeyCommandEnd ok s
  | .tamper cause => Sys2Proof.Machine.execTamper cause s
  | .loupeFrameScan => Sys2Proof.Machine.execLoupeFrameScan s
  | .loupeReload => Sys2Proof.Machine.execLoupeReload s
  | .loupeReloadEnd ok => Sys2Proof.Machine.execLoupeReloadEnd ok s
  | .heartbeatCheck => Sys2Proof.Machine.execHeartbeatCheck s
  | .loupeEnWrite q v => Sys2Proof.Machine.execLoupeEnWrite q v s
  | .cjSha256 q => Sys2Proof.Machine.execCjSha256 q s
  | .cjHmac q => Sys2Proof.Machine.execCjHmac q s
  | .cryptoJobEnd => Sys2Proof.Machine.execCryptoJobEnd s
  | .wdogWarn => Sys2Proof.Machine.execWdogWarn s
  | .wdogExpiry => Sys2Proof.Machine.execWdogExpiry s
  | .hostKick q v => Sys2Proof.Machine.execHostKick q v s
  | .hostWdExpiry => Sys2Proof.Machine.execHostWdExpiry s
  | .eventRaise => Sys2Proof.Machine.execEventRaise s
  | .fabricEventPulse k => Sys2Proof.Machine.execFabricEventPulse k s
  | .logPop q => Sys2Proof.Machine.execLogPop q s
  | .ibiRequest ack => Sys2Proof.Machine.execIbiRequest ack s
  | .ledgerCheck => Sys2Proof.Machine.execLedgerCheck s
  | .extest => Sys2Proof.Machine.execExtest s
  | .samplePreload => Sys2Proof.Machine.execSamplePreload s
  | .idcode => Sys2Proof.Machine.execIdcode s
  | .clamp => Sys2Proof.Machine.execClamp s
  | .highz => Sys2Proof.Machine.execHighz s
  | .extestPulse => Sys2Proof.Machine.execExtestPulse s
  | .extestTrain => Sys2Proof.Machine.execExtestTrain s
  | .dbgframe op tag o m len v => Sys2Proof.Machine.execDbgframe op tag o m len v s
  | .bypass => Sys2Proof.Machine.execBypass s
  | .trst => Sys2Proof.Machine.execTrst s
  | .authCustomerL2 q => Sys2Proof.Machine.execAuthCustomerL2 q s
  | .authCustomerL3 q => Sys2Proof.Machine.execAuthCustomerL3 q s
  | .authVendor q => Sys2Proof.Machine.execAuthVendor q s
  | .authDrop q => Sys2Proof.Machine.execAuthDrop q s
  | .authResp q v => Sys2Proof.Machine.execAuthResp q v s
  | .dbgFuseKey2 q => Sys2Proof.Machine.execDbgFuseKey2 q s
  | .dbgFuseKey3 q => Sys2Proof.Machine.execDbgFuseKey3 q s
  | .dbgFusePolicy q => Sys2Proof.Machine.execDbgFusePolicy q s
  | .dbgReset q => Sys2Proof.Machine.execDbgReset q s
  | .brkAlloc q => Sys2Proof.Machine.execBrkAlloc q s
  | .brkCfgWrite q u v => Sys2Proof.Machine.execBrkCfgWrite q u v s
  | .brkRearm q u => Sys2Proof.Machine.execBrkRearm q u s
  | .brkFree q u => Sys2Proof.Machine.execBrkFree q u s
  | .groupHaltLatch g => Sys2Proof.Machine.execGroupHaltLatch g s
  | .dbgHalt q t => Sys2Proof.Machine.execDbgHalt q t s
  | .dbgResume q t => Sys2Proof.Machine.execDbgResume q t s
  | .dbgStep q t => Sys2Proof.Machine.execDbgStep q t s
  | .molxoHaltLands => Sys2Proof.Machine.execMolxoHaltLands s
  | .dbgRegAccess q t wr v => Sys2Proof.Machine.execDbgRegAccess q t wr v s
  | .memDataWrite q len v => Sys2Proof.Machine.execMemDataWrite q len v s
  | .memDataFetch q size => Sys2Proof.Machine.execMemDataFetch q size s
  | .tDtxWrite q t v => Sys2Proof.Machine.execTDtxWrite q t v s
  | .dtxRead q t => Sys2Proof.Machine.execDtxRead q t s
  | .drxWrite q t v => Sys2Proof.Machine.execDrxWrite q t v s
  | .tDrxRead q t => Sys2Proof.Machine.execTDrxRead q t s
  | .retireWrite q k v => Sys2Proof.Machine.execRetireWrite q k v s
  | .invalidHeader n => Sys2Proof.Machine.execInvalidHeader n s
  | .prbsChecker n syms => Sys2Proof.Machine.execPrbsChecker n syms s
  | .lrefLoss k => Sys2Proof.Machine.execLrefLoss k s
  | .tailToHeadMove q => Sys2Proof.Machine.execTailToHeadMove q s
  | .domainOff d => Sys2Proof.Machine.execDomainOff d s
  | .flashTimeout => Sys2Proof.Machine.execFlashTimeout s
  | .wdogRestart => Sys2Proof.Machine.execWdogRestart s
  | .loupeHeartbeatIdle => Sys2Proof.Machine.execLoupeHeartbeatIdle s
  | .pullselChange b v => Sys2Proof.Machine.execPullselChange b v s
  | .vioRailChange b ok level => Sys2Proof.Machine.execVioRailChange b ok level s

end Sys2Proof.Machine
end

