-- ==== Sys2Proof/Machine/Step.lean ====
section
/-! DEFINITION. One step of the block: it takes the command at the front of its queue. -/
namespace Sys2Proof.Machine

/-- What the block does with no command waiting: one engine clock passes (00 R17; log entry 4). -/
def idle (s : State) : State := { s with now := s.now + ticksPerNs }

/-- A step: the command at the front of the queue acts on the state with the queue's rest; on an empty queue the block
idles for one engine clock. -/
def step (s : State) : Host.Outcome State Fault Refusal :=
  match s.pending with
  | [] => .next (idle s)
  | c :: rest => exec c { s with pending := rest }

/-- The opcode table gives no row any bits, so no word spells a command and the queue stays as it is. -/
def State.withFetchWord (s : State) (nbits w : Nat) : State :=
  match decodeTableWord nbits w with
  | some c => { s with pending := c :: s.pending }
  | none => s

end Sys2Proof.Machine
end

