-- ==== Sys2Proof/Changes.lean ====
section
/-! DEFINITION. What a command may change: the members, each alone, one per unit, or one per unit and index, and whether the
memory. Claims say that it changes nothing else. The accesses of any member, the words of a vector engine, the landing of a
batch and the resets have their own claims. Then the bytes that it may change; last, whose access of the dictionary a command is. -/
namespace Sys2Proof.Machine

/-- The members that a command may change, and whether it may change the memory. -/
structure Change where
  ones : List Nat := []
  runs : List (Nat → Nat) := []
  pairs : List (Nat → Nat → Nat) := []
  mem : Bool := false

/-- Is the member of key k among those of the change? -/
def Change.has (c : Change) (k : Nat) : Prop :=
  k ∈ c.ones ∨ (∃ f ∈ c.runs, ∃ u, k = f u) ∨ ∃ f ∈ c.pairs, ∃ u v, k = f u v

/-- Commands of the dictionary, the mirror, the management channel, the supervisor, debug, and clocks and resets. -/
def changesControl : Instr → Option Change
  | .mread _ _ _ | .statsClr _ _ | .hostKick _ _ | .dbgHalt _ _ | .dtxRead _ _ | .drxWrite _ _ _ =>
    some { runs := [HDI.STATS] }
  | .mdrop _ _ _ | .batchCheck _ _ =>
    some { ones := [HDI.MIRROR_STATE], runs := [HDI.STATS] }
  | .fetchComplete _ _ _ =>
    some {
      ones := [HDI.MESH_ERRORS, HDI.STATS 0, HDI.STATS 4, TMU.EVFLAGS]
      runs := [LNK.MESH_RESP, TMU.LANE_FLAGS, TMU.TXTS_LOST, TMU.TXTS_MADE, TMU.TXTS_READ] }
  | .responseRead | .enec _ _ | .disec _ _ | .rstdaa | .entdaa _ _ | .setaasa | .setdasa _ _ | .setnewda _ _ |
    .setmwl _ _ | .setmrl _ _ | .getmwl _ | .getmrl _ | .getpid _ | .getbcr _ | .getdcr _ | .getstatus _ | .enthdr0 |
    .enthdrUnsupported _ | .hdrExit | .rstact _ _ | .unsupportedCcc _ | .syncinCapture _ | .gateCloseForce _ |
    .resetEnd | .fabricEventPulse _ | .groupHaltLatch _ | .wdogRestart =>
    some {}
  | .mgmtSlotIdleTimeout k =>
    some { ones := [DBG.STATUS, HDI.MIRROR_OWNER, HDI.MIRROR_STATE, HDI.SLOT (k - 1)] }
  | .meshDataWrite _ _ _ | .meshDataFetch _ _ | .memDataWrite _ _ _ | .memDataFetch _ _ | .fetch _ _ _ _ _ =>
    some { ones := [DBG.MEM_ADDR, HDI.MESH_ADDR], runs := [HDI.STATS] }
  | .mirrorLeaseExpiry =>
    some { ones := [HDI.MIRROR_OWNER, HDI.MIRROR_STATE] }
  | .batchCheckEnd =>
    some { ones := [HDI.BATCH_FAIL, HDI.BATCH_RESULT, HDI.MIRROR_STATE] }
  | .batchDiscard _ _ =>
    some { ones := [HDI.MIRROR_OWNER, HDI.MIRROR_STATE], runs := [HDI.STATS] }
  | .applyArm _ _ =>
    some { ones := [HDI.MIRROR_STATE], runs := [HDI.STATS, VEN.APG_DISCARD, VEN.STATE] }
  | .applyCancel _ _ =>
    some { ones := [HDI.MIRROR_STATE], runs := [HDI.STATS, VEN.STATE] }
  | .meshDataResponse _ _ | .meshAckResponse _ _ | .meshErrorResponse _ =>
    some {
      ones := [CFG.LOAD_BYTES, CFG.LOAD_CAUSE, CFG.LOAD_FAIL_AT, CFG.LOAD_STATE, CFG.LOAD_STATUS, CFG.LOAD_TIME,
        DBG.EVFLAGS, DBG.MEM_STATUS, HDI.MESH_ERRORS, MSH.EVFLAGS, MSH.TLOST, TMU.EVFLAGS]
      runs := [CFG.FACET_LOADS, CFG.FACET_STATE, CFG.LOUPE_SRC_ADDR, CFG.LOUPE_SRC_TYPE, DSP.CYCLES, DSP.FAULT,
        DSP.FAULT_PC, DSP.FLAGS, DSP.MOVE_DONE, DSP.MOVE_DROPPED, DSP.MOVE_ERR, DSP.MOVE_INFLIGHT, DSP.MOVE_ISSUED,
        DSP.STALLS, DSP.STATE, DSP.WDOG_LEFT, FAB.DESIGN_ID, FAB.MESH_DISCARD, FAB.MESH_DONE, FCP.BM_DONE,
        FCP.BM_ERR, FCP.BM_INFLIGHT, FCP.Q_ERR_WORDS, FCP.Q_EVFLAGS, FCP.Q_FLUSHED, FCP.Q_PKTS, FCP.Q_STATE,
        LNK.MESH_RESP, MSH.LINK_CE, MSH.LINK_UE, MSH.PFLITS, MSH.PPKTS, SCR.CE, SCR.COLLIDE, SCR.EVFLAGS, SCR.UE,
        TMU.LANE_FLAGS, TMU.TXTS_LOST, TMU.TXTS_MADE, TMU.TXTS_READ, VEN.REFILL_DONE]
      mem := true }
  | .refinPresent =>
    some { ones := [CRH.CLK_STATUS, HDI.STATUS] }
  | .mpllLock =>
    some { ones := [CRH.CLK_STATUS, DBG.EVFLAGS, HDI.STATUS] }
  | .clkoutCfgWrite _ _ =>
    some { ones := [CRH.CLKOUT_CFG, CRH.CLK_STATUS], runs := [HDI.STATS] }
  | .clockSwitchDone | .clockSwitchTimeout =>
    some { ones := [CRH.CLK_STATUS, CRH.EVFLAGS] }
  | .fmStart _ =>
    some { ones := [CRH.FM_STATE], runs := [HDI.STATS] }
  | .fmDone _ =>
    some { ones := [CRH.EVFLAGS, CRH.FM_COUNT, CRH.FM_HZ, CRH.FM_STATE] }
  | .gateClose _ u | .gateOpen _ u =>
    some {
      ones := [CRH.GATE_EN u, CRH.GATE_STATE u, HDI.APPLY_OUTCOME, HDI.MIRROR_STATE]
      runs := [HDI.STATS, VEN.STATE] }
  | .gateClosed u | .gateOpened u =>
    some {
      ones := [CRH.EVFLAGS, CRH.GATED_TOUCHES, CRH.GATE_STATE u, MSH.EVFLAGS]
      runs := [CRH.GATE_TOUCH, CRH.PWR_STATE, DSP.STALLS, MSH.WAKES, PAN.EVFLAGS, PAN.PERR, SCR.CE, SCR.COLLIDE,
        SCR.EVFLAGS, SCR.STEAL_TIMEOUT, SCR.TEST_TOUCH, SCR.UE]
      mem := true }
  | .powerOff _ d | .powerOn _ d =>
    some { ones := [CRH.PWR d, CRH.PWR_STATE d], runs := [HDI.STATS] }
  | .nresetRise _ =>
    some { ones := [CRH.CLK_STATUS, CRH.STRAPS] }
  | .supReady =>
    some { ones := [CFG.TRIM_GEN, CFG.TRIM_SLOT, CRH.EVFLAGS, HDI.STATUS], runs := [DMC.STATE], pairs := [calKey] }
  | .tempSample _ =>
    some { ones := [CRH.EVFLAGS, CRH.TEMP_MAX, EDG.STALE_GROUPS], runs := [CRH.TEMP, EDG.GROUP] }
  | .railSample r _ =>
    some { ones := [CRH.EVFLAGS, CRH.VOLT r] }
  | .cjSha256 _ | .cjHmac _ =>
    some { ones := [SUP.CJ_STATE], runs := [HDI.STATS] }
  | .cryptoJobEnd =>
    some { ones := [SUP.CJ_RESULT, SUP.CJ_STATE, SUP.EVFLAGS] }
  | .wdogWarn =>
    some { ones := [SUP.EVFLAGS] }
  | .hostWdExpiry =>
    some {
      ones := [HDI.APPLY_OUTCOME, HDI.MIRROR_STATE, SUP.EVFLAGS, SUP.HOST_WD_TRIPS]
      runs := [DSP.STATE, VEN.FLAGS, VEN.STATE] }
  | .eventRaise =>
    some { ones := [SUP.EVFLAGS, SUP.FEV_MERGED, SUP.LOG_LOST, SUP.LOG_MADE], runs := [SUP.EV_COUNT, SUP.EV_PEND] }
  | .logPop _ =>
    some { ones := [SUP.LOG_READ], runs := [HDI.STATS] }
  | .ibiRequest _ =>
    some { ones := [SUP.IBI_SENT] }
  | .ledgerCheck =>
    some { ones := [SUP.EVFLAGS, SUP.LEDGER_FAIL, SUP.LEDGER_IMBAL, SUP.LEDGER_PASSES] }
  | .authCustomerL2 _ | .authCustomerL3 _ | .authVendor _ | .authDrop _ =>
    some { ones := [DBG.STATUS], runs := [HDI.STATS] }
  | .authResp _ _ =>
    some { ones := [DBG.AUTH_FAILS, DBG.EVFLAGS, DBG.STATUS], runs := [HDI.STATS] }
  | .dbgFuseKey2 _ | .dbgFuseKey3 _ | .dbgFusePolicy _ =>
    some { ones := [DBG.POLICY, DBG.STATUS], runs := [HDI.STATS] }
  | .brkAlloc _ =>
    some { runs := [DBG.BRK_STATE, HDI.STATS] }
  | .brkCfgWrite _ u _ =>
    some { ones := [DBG.BRK_CFG u, DBG.BRK_STATE u], runs := [HDI.STATS] }
  | .brkRearm _ u | .brkFree _ u =>
    some { ones := [DBG.BRK_STATE u], runs := [HDI.STATS] }
  | .dbgResume _ _ | .dbgStep _ _ =>
    some { ones := [DBG.EVFLAGS], runs := [DBG.BRK_HITS, DBG.BRK_STATE, DSP.STATE, HDI.STATS] }
  | .molxoHaltLands =>
    some { ones := [DBG.EVFLAGS], runs := [DBG.BRK_HITS, DBG.BRK_STATE] }
  | .dbgRegAccess _ _ _ _ =>
    some { runs := [DSP.BEXP, DSP.EXPACC, HDI.STATS], pairs := [VEN.CTR] }
  | .tDtxWrite _ _ _ | .tDrxRead _ _ =>
    some { ones := [DBG.EVFLAGS], runs := [HDI.STATS] }
  | .domainOff d =>
    some {
      ones := [CRH.PWR_STATE d, SCR.STATE (d - 32)]
      runs := [PAN.DISCARD, PAN.EVFLAGS, PAN.STATE]
      mem := true }
  | .pullselChange b _ =>
    some { ones := [FAB.IO_BANK b] }
  | .vioRailChange b _ _ =>
    some { ones := [CRH.VHIGH (6 + b), CRH.VLOW (6 + b), FAB.IO_BANK b] }
  | .retireWrite _ k _ =>
    some { ones := [HDI.APPLY_OUTCOME, HDI.MIRROR_STATE, HDI.RETIRE_VE + k], runs := [HDI.STATS, VEN.STATE] }
  | _ => none

/-- Commands of the vector engines, fail capture, calibration, the fabric and the DSP engines. -/
def changesEngines : Instr → Option Change
  | .veEnable _ _ | .veDisable _ _ | .veClearFault _ _ | .veSelfcheck _ _ =>
    some { ones := [HDI.APPLY_OUTCOME, HDI.MIRROR_STATE], runs := [HDI.STATS, VEN.STATE] }
  | .veStart _ n =>
    some { ones := [HDI.APPLY_OUTCOME, HDI.MIRROR_STATE, VEN.APG_DISCARD n], runs := [HDI.STATS, VEN.STATE] }
  | .veStartAt _ n =>
    some {
      ones := [HDI.APPLY_OUTCOME, HDI.MIRROR_STATE, VEN.APG_DISCARD n, VEN.FLAGS n]
      runs := [HDI.STATS, VEN.STATE] }
  | .veHalt _ _ | .veResume _ _ | .facetRelease _ _ | .facetHold _ _ | .dspHalt _ _ =>
    some { runs := [HDI.STATS] }
  | .veStop _ n =>
    some { ones := [HDI.APPLY_OUTCOME, HDI.MIRROR_STATE, VEN.FLAGS n], runs := [HDI.STATS, VEN.STATE] }
  | .veSelfcheckEnd n _ =>
    some { ones := [HDI.APPLY_OUTCOME, HDI.MIRROR_STATE, VEN.SELFCHECK n], runs := [VEN.STATE] }
  | .veStartEdge n =>
    some {
      ones := [FCP.RUN_FAILS n, FCP.STOPPED_BY n, HDI.APPLY_OUTCOME, HDI.MIRROR_STATE, VEN.CYCLES n, VEN.EVENTS n,
        VEN.FLAGS n, VEN.PTO_LEFT n, VEN.START_ON_APPLY n, VEN.T0 n]
      runs := [VEN.CTR n, VEN.STATE] }
  | .barrierRelease _ =>
    some { runs := [VEN.FLAGS] }
  | .veResumeLands _ =>
    some { ones := [HDI.APPLY_OUTCOME, HDI.MIRROR_STATE], runs := [VEN.STATE] }
  | .lineReadIssue n =>
    some { ones := [VEN.REFILL_ISSUED n] }
  | .lineReadComplete n _ =>
    some {
      ones := [MSH.EVFLAGS, MSH.TLOST, VEN.REFILL_DONE n]
      runs := [MSH.LINK_CE, MSH.LINK_UE, MSH.PFLITS, MSH.PPKTS]
      mem := true }
  | .apgTransfer n =>
    some { ones := [VEN.APG_TAKEN n] }
  | .cellPass _ _ | .cellAdd _ _ | .cellSub _ _ | .cellAnd _ _ | .cellOr _ _ | .cellXor _ _ | .cellAndn _ _ |
    .cellNot _ _ | .cellShl1 _ _ | .cellShl _ _ | .cellShr _ _ | .cellRol _ _ | .cellBrev _ _ | .cellBsel _ _ |
    .cellEq _ _ | .cellPar _ _ | .cellCntk _ _ | .cellMin _ _ | .cellMax _ _ | .cellReservedOp _ _ |
    .ringReadIssue _ | .tailToHeadMove _ =>
    some {}
  | .configUpset _ =>
    some { ones := [CFG.LOUPE_EVFLAGS, CFG.LOUPE_SELF_CE] }
  | .facetReleaseLands _ | .facetHoldLands _ =>
    some { ones := [FAB.RELEASED, HDI.APPLY_OUTCOME, HDI.MIRROR_STATE], runs := [VEN.STATE] }
  | .userInWrite _ f k _ =>
    some { ones := [FAB.USER_IN f k], runs := [HDI.STATS] }
  | .userReq _ =>
    some { ones := [FAB.USER_REQ] }
  | .facetMeshRequest f _ _ _ _ =>
    some { ones := [FAB.MESH_ISSUED f] }
  | .focus _ | .edgSelfcheck _ =>
    some { ones := [EDG.FOCUS_STATE], runs := [HDI.STATS] }
  | .focusAbort _ =>
    some { ones := [EDG.FOCUS_STATE], runs := [HDI.STATS, fun u0 => calKey u0 6, fun u0 => calKey u0 8] }
  | .focusChannelEnd ch _ =>
    some { ones := [EDG.FOCUS_STATE, EDG.STALE_GROUPS], runs := [calKey ch] }
  | .selfcheckChannelEnd ch _ =>
    some { ones := [EDG.FOCUS_STATE, EDG.STALE_GROUPS, calKey ch 7, calKey ch 8] }
  | .tempTrackSample _ _ =>
    some {
      ones := [CRH.EVFLAGS, CRH.TEMP_MAX, EDG.STALE_GROUPS]
      runs := [CRH.TEMP, EDG.GROUP, fun u0 => calKey u0 8] }
  | .trimCommit _ | .trimImport _ =>
    some { ones := [CFG.TRIM_BUSY], runs := [HDI.STATS] }
  | .trimWriteEnd =>
    some { ones := [CFG.TRIM_BUSY, CFG.TRIM_RESULT] }
  | .failCycle n =>
    some {
      ones := [DBG.EVFLAGS, FCP.BM_DROP n, FCP.BM_FORMED n, FCP.BM_MERGED n, FCP.CNT_SAT n, FCP.FAILCYC n,
        FCP.REC_CAPPED n, FCP.REC_DROP_CAP n, FCP.REC_DROP_RING n, FCP.REC_FORMED n, FCP.RUN_FAILS n]
      runs := [DBG.BRK_HITS, DBG.BRK_STATE, FCP.FCOUNT, FCP.Q_EVFLAGS, FCP.STOPPED_BY] }
  | .recordToTail n =>
    some { ones := [FCP.Q_EVFLAGS n, FCP.Q_IN n, FCP.Q_PKTS n, FCP.REC_QUEUED n] }
  | .ringWriteIssue q =>
    some { ones := [FCP.Q_HWM q] }
  | .ringWriteDone q _ _ | .ringReadDone q _ =>
    some {
      ones := [FCP.Q_ERR_WORDS q, FCP.Q_EVFLAGS q, FCP.Q_FLUSHED q, FCP.Q_PKTS q, FCP.Q_STATE q, MSH.EVFLAGS,
        MSH.TLOST]
      runs := [MSH.LINK_CE, MSH.LINK_UE, MSH.PFLITS, MSH.PPKTS] }
  | .pop _ q | .poprec _ q =>
    some { ones := [FCP.POP_MARK q, FCP.Q_EVFLAGS q, FCP.Q_OUT q, FCP.Q_PKTS q], runs := [HDI.STATS] }
  | .queueEnable _ q =>
    some {
      ones := [FCP.Q_HWM q, FCP.Q_PKTS q, FCP.Q_STATE q, HDI.APPLY_OUTCOME, HDI.MIRROR_STATE]
      runs := [HDI.STATS, VEN.STATE] }
  | .queueDisable _ q =>
    some { ones := [FCP.Q_STATE q, HDI.APPLY_OUTCOME, HDI.MIRROR_STATE], runs := [HDI.STATS, VEN.STATE] }
  | .flush _ q =>
    some { ones := [FCP.Q_EVFLAGS q, FCP.Q_FLUSHED q, FCP.Q_PKTS q, FCP.Q_STATE q], runs := [HDI.STATS] }
  | .push _ q _ | .pushEnd _ q _ =>
    some { ones := [FCP.Q_EVFLAGS q, FCP.Q_IN q, FCP.Q_PKTS q, FCP.Q_REFUSED q], runs := [HDI.STATS] }
  | .fcountClr _ c _ =>
    some { ones := [FCP.FCOUNT c], runs := [HDI.STATS] }
  | .mergeTimeout n =>
    some { ones := [FCP.BM_DROP n, FCP.BM_FORMED n], runs := [FCP.Q_EVFLAGS, FCP.STOPPED_BY] }
  | .bitmapIssue n =>
    some { ones := [FCP.BM_INFLIGHT n] }
  | .mpy n _ | .mac n _ | .msu n _ | .mem n _ =>
    some {
      ones := [DBG.EVFLAGS, DSP.CYCLES n, DSP.FAULT n, DSP.FAULT_PC n, DSP.FLAGS n, DSP.MOVE_DROPPED n, DSP.PC n,
        DSP.RPT_LEFT n, DSP.STATE n, DSP.WDOG_LEFT n]
      runs := [DBG.BRK_HITS, DBG.BRK_STATE, DSP.STALLS, SCR.CE, SCR.COLLIDE, SCR.EVFLAGS, SCR.UE]
      mem := true }
  | .accClr n | .accLda n | .accAdda n | .accSuml n | .accShra n | .seta n | .seto n | .inca n | .dspNop n |
    .dspJmp n | .djnz n | .dspLdc n | .waitm n | .dspRpt n =>
    some {
      ones := [DBG.EVFLAGS, DSP.CYCLES n, DSP.FAULT n, DSP.FAULT_PC n, DSP.FLAGS n, DSP.MOVE_DROPPED n, DSP.PC n,
        DSP.RPT_LEFT n, DSP.STALLS n, DSP.STATE n, DSP.WDOG_LEFT n]
      runs := [DBG.BRK_HITS, DBG.BRK_STATE] }
  | .accStr n | .vmov n | .vadd n | .vsub n | .vshl n | .vshr n | .bclr n =>
    some {
      ones := [DBG.EVFLAGS, DSP.BEXP n, DSP.CYCLES n, DSP.FAULT n, DSP.FAULT_PC n, DSP.FLAGS n, DSP.MOVE_DROPPED n,
        DSP.PC n, DSP.RPT_LEFT n, DSP.STALLS n, DSP.STATE n, DSP.WDOG_LEFT n]
      runs := [DBG.BRK_HITS, DBG.BRK_STATE] }
  | .dspEvt n =>
    some {
      ones := [DBG.EVFLAGS, DSP.CYCLES n, DSP.EVENTS n, DSP.FAULT n, DSP.FAULT_PC n, DSP.FLAGS n, DSP.MOVE_DROPPED n,
        DSP.PC n, DSP.RPT_LEFT n, DSP.STALLS n, DSP.STATE n, DSP.WDOG_LEFT n]
      runs := [DBG.BRK_HITS, DBG.BRK_STATE] }
  | .dspHaltInsn n =>
    some {
      ones := [DBG.EVFLAGS, DSP.CYCLES n, DSP.FAULT n, DSP.FAULT_PC n, DSP.FLAGS n, DSP.MOVE_DROPPED n, DSP.PC n,
        DSP.STALLS n, DSP.STATE n, DSP.WDOG_LEFT n]
      runs := [DBG.BRK_HITS, DBG.BRK_STATE] }
  | .blk n =>
    some {
      ones := [DBG.EVFLAGS, DSP.BEXP n, DSP.CYCLES n, DSP.EXPACC n, DSP.FAULT n, DSP.FAULT_PC n, DSP.FLAGS n,
        DSP.MOVE_DROPPED n, DSP.PC n, DSP.RPT_LEFT n, DSP.STALLS n, DSP.STATE n, DSP.WDOG_LEFT n]
      runs := [DBG.BRK_HITS, DBG.BRK_STATE] }
  | .move ⟨n, _⟩ =>
    some {
      ones := [DBG.EVFLAGS, DSP.CYCLES n, DSP.FAULT n, DSP.FAULT_PC n, DSP.FLAGS n, DSP.MOVE_DROPPED n,
        DSP.PC n, DSP.RPT_LEFT n, DSP.STATE n, DSP.WDOG_LEFT n]
      runs := [DBG.BRK_HITS, DBG.BRK_STATE, DSP.MOVE_INFLIGHT, DSP.MOVE_ISSUED, DSP.STALLS, SCR.CE, SCR.COLLIDE,
        SCR.EVFLAGS, SCR.UE] }
  | .moveGatePoll n =>
    some { ones := [DSP.MOVE_INFLIGHT n, DSP.MOVE_ISSUED n] }
  | .moveComplete n =>
    some {
      ones := [DSP.CYCLES n, DSP.FAULT n, DSP.FAULT_PC n, DSP.FLAGS n, DSP.MOVE_DROPPED n, DSP.STATE n,
        DSP.WDOG_LEFT n]
      runs := [DSP.MCOUNT n, DSP.MOVE_INFLIGHT, DSP.MOVE_ISSUED, DSP.STALLS, SCR.CE, SCR.COLLIDE, SCR.EVFLAGS,
        SCR.UE] }
  | .dspStart _ n | .dspStartAt _ n | .dspStop _ n | .dspResume _ n | .dspSelfcheck _ n =>
    some { ones := [DSP.STATE n], runs := [HDI.STATS] }
  | .dspSelfcheckEnd n _ =>
    some { ones := [DSP.SELFCHECK n, DSP.STATE n] }
  | .dspStartEdge n =>
    some {
      ones := [DSP.BEXP n, DSP.CYCLES n, DSP.EXPACC n, DSP.FLAGS n, DSP.RPT_LEFT n, DSP.STATE n, DSP.WDOG_LEFT n] }
  | .dspHaltLands n | .dspStopLands n =>
    some {
      ones := [DBG.EVFLAGS, DSP.CYCLES n, DSP.FAULT n, DSP.FAULT_PC n, DSP.FLAGS n, DSP.MOVE_DROPPED n, DSP.STALLS n,
        DSP.STATE n, DSP.WDOG_LEFT n] }
  | .dspWatchdogExpiry n =>
    some {
      ones := [DSP.CYCLES n, DSP.FAULT n, DSP.FAULT_PC n, DSP.FLAGS n, DSP.MOVE_DROPPED n, DSP.STALLS n, DSP.STATE n,
        DSP.WDOG_LEFT n] }
  | _ => none

/-- Commands of the mesh, panes and scratch, the memory controllers, the lanes, the network time and configuration. -/
def changesData : Instr → Option Change
  | .dmcTrain _ n =>
    some { ones := [CRH.CLK_STATUS, DMC.CAPACITY n, DMC.CONFIG n, DMC.EVFLAGS n, DMC.STATE n], runs := [HDI.STATS] }
  | .dmcRetrain _ n =>
    some {
      ones := [DMC.CONFIG n, DMC.EVFLAGS n, DMC.RETRAINS n, DMC.STATE n, HDI.APPLY_OUTCOME, HDI.MIRROR_STATE]
      runs := [HDI.STATS, VEN.STATE] }
  | .autoTrainStart =>
    some { ones := [CRH.CLK_STATUS], runs := [DMC.CAPACITY, DMC.CONFIG, DMC.EVFLAGS, DMC.STATE] }
  | .trainingEnd n _ =>
    some { ones := [CRH.CLK_STATUS, DMC.CONFIG n, DMC.EVFLAGS n, DMC.STATE n, DMC.TRAIN_RESULT n] }
  | .retrainingEnd n _ =>
    some { ones := [CRH.CLK_STATUS, DMC.CONFIG n, DMC.EVFLAGS n, DMC.STATE n] }
  | .autoRetrain n =>
    some {
      ones := [DMC.CONFIG n, DMC.EVFLAGS n, DMC.RETRAINS n, DMC.STATE n, HDI.APPLY_OUTCOME, HDI.MIRROR_STATE]
      runs := [VEN.STATE] }
  | .dimmTempRead n _ =>
    some { ones := [DMC.EVFLAGS n] }
  | .mapForm =>
    some {
      ones := [CRH.CLK_STATUS, DMC.INSTALLED, DMC.MAP_STATE, DMC.RANK_BYTES, DMC.WAYS]
      runs := [DMC.CONFIG, DMC.EVFLAGS, DMC.STATE] }
  | .excludeWrite _ _ =>
    some {
      ones := [CRH.CLK_STATUS, DMC.EXCLUDE, DMC.INSTALLED, DMC.MAP_STATE, DMC.RANK_BYTES, DMC.WAYS,
        HDI.APPLY_OUTCOME, HDI.MIRROR_STATE]
      runs := [DMC.CONFIG, DMC.EVFLAGS, DMC.STATE, HDI.STATS, VEN.STATE] }
  | .dmcAccept n =>
    some { ones := [DMC.COMBINED n, DMC.EVFLAGS n, DMC.RETAIN_TOUCH n], runs := [DMC.ACCEPTED n, DMC.ERRORS n] }
  | .dmcAccessIssue n =>
    some { ones := [DMC.EVFLAGS n, DMC.RH_EVENTS n] }
  | .dmcAccessComplete n _ =>
    some {
      ones := [DMC.LATE n]
      runs := [DMC.CE, DMC.DONE n, DMC.ERRORS n, DMC.EVFLAGS, DMC.UE, DMC.UE_ADDR]
      mem := true }
  | .agePromotion n =>
    some { ones := [DMC.PROMOTED n] }
  | .throttleEnd _ | .rowTableClear _ | .refresh _ | .sync _ | .scheduleFire | .loupeReload =>
    some {}
  | .patrolScrub n _ =>
    some { ones := [DMC.CE n, DMC.EVFLAGS n, DMC.UE n, DMC.UE_ADDR n], mem := true }
  | .retainWrite _ _ =>
    some { ones := [DMC.RETAIN], runs := [HDI.STATS] }
  | .paneFabricAccess p _ =>
    some { ones := [PAN.EVFLAGS p, PAN.PERR p, PAN.POPPED p, PAN.PUSHED p, PAN.REFUSED p], mem := true }
  | .stealTimeout _ =>
    some {
      ones := [DBG.EVFLAGS, MSH.EVFLAGS, MSH.TLOST]
      runs := [DBG.BRK_HITS, DBG.BRK_STATE, MSH.PFLITS, MSH.PPKTS, PAN.EVFLAGS, PAN.STEAL_TIMEOUT, SCR.EVFLAGS,
        SCR.STEAL_TIMEOUT] }
  | .paneDetach _ _ | .paneAttach _ _ | .tclear _ _ | .rxmsg _ _ | .capPop _ _ =>
    some { runs := [HDI.STATS] }
  | .paneDetachLands p =>
    some { ones := [PAN.EVFLAGS p, PAN.PERR p, PAN.STATE p], mem := true }
  | .paneAttachLands p =>
    some { ones := [PAN.STATE p] }
  | .paneTest _ p =>
    some { ones := [PAN.STATE p], runs := [HDI.STATS] }
  | .paneTestEnd p _ =>
    some { ones := [PAN.EVFLAGS p, PAN.REPAIR p, PAN.STATE p, PAN.TEST_RESULT p], mem := true }
  | .paneModeWrite _ p _ =>
    some { ones := [PAN.DISCARD p, PAN.EVFLAGS p, PAN.MODE p], runs := [HDI.STATS], mem := true }
  | .scratchOwnerWrite _ b port _ =>
    some { ones := [SCR.OWNER b port, SCR.STATE b], runs := [HDI.STATS] }
  | .handoverEnd b =>
    some { ones := [SCR.EVFLAGS b, SCR.STATE b] }
  | .scratchTest _ b =>
    some { ones := [SCR.STATE b], runs := [HDI.STATS] }
  | .scratchTestEnd b _ =>
    some { ones := [SCR.EVFLAGS b, SCR.REPAIR b, SCR.STATE b, SCR.TEST_RESULT b], mem := true }
  | .clearEnd d =>
    some {
      ones := [CRH.EVFLAGS, CRH.GATED_TOUCHES, MSH.EVFLAGS, SCR.STATE (d - 32)]
      runs := [CRH.GATE_TOUCH, CRH.PWR_STATE, DSP.CYCLES, DSP.FAULT, DSP.FAULT_PC, DSP.FLAGS, DSP.MOVE_DROPPED,
        DSP.MOVE_INFLIGHT, DSP.MOVE_ISSUED, DSP.STALLS, DSP.STATE, DSP.WDOG_LEFT, MSH.WAKES, PAN.EVFLAGS, PAN.PERR,
        PAN.STATE, SCR.CE, SCR.COLLIDE, SCR.EVFLAGS, SCR.STEAL_TIMEOUT, SCR.TEST_TOUCH, SCR.UE]
      mem := true }
  | .meshRead _ _ _ | .meshWrite _ _ | .meshOr _ _ =>
    some {
      ones := [CRH.EVFLAGS, CRH.GATED_TOUCHES, DBG.EVFLAGS, MSH.EVFLAGS, MSH.TLOST]
      runs := [CRH.GATE_TOUCH, CRH.PWR_STATE, DBG.BRK_HITS, DBG.BRK_STATE, DSP.STALLS, MSH.LINK_CE, MSH.LINK_UE,
        MSH.PFLITS, MSH.PPKTS, MSH.WAKES, PAN.EVFLAGS, PAN.PERR, SCR.CE, SCR.COLLIDE, SCR.EVFLAGS, SCR.STEAL_TIMEOUT,
        SCR.TEST_TOUCH, SCR.UE]
      mem := true }
  | .domainPowered d =>
    some { ones := [CRH.PWR_STATE d, SCR.STATE (d - 32)], runs := [PAN.STATE] }
  | .routerSelfcheck _ n | .rcfgWrite _ n _ =>
    some { ones := [MSH.RSTATE n], runs := [HDI.STATS] }
  | .drainEnd n _ =>
    some { ones := [MSH.DRAINS n, MSH.EVFLAGS, MSH.RCFG n, MSH.RCHECK n, MSH.RSTATE n] }
  | .probeRun _ p | .probeStop _ p =>
    some { ones := [MSH.PSTATE p], runs := [HDI.STATS] }
  | .probeClear _ p =>
    some { ones := [MSH.PFLITS p, MSH.PPKTS p], runs := [HDI.STATS] }
  | .laneStart _ n =>
    some {
      ones := [DBG.STATUS, HDI.APPLY_OUTCOME, HDI.MIRROR_OWNER, HDI.MIRROR_STATE, HDI.STATUS, LNK.EVFLAGS n,
        LNK.MESH_DISCARD n, LNK.RX_ABORT n, LNK.RX_DISCARD n, LNK.SRX_RD n, LNK.SRX_WR n, LNK.STATE n,
        LNK.TX_DISCARD n, TMU.EVFLAGS, TMU.STATUS]
      runs := [DSP.STATE, HDI.SLOT, HDI.STATS, TMU.AP_STATE, TMU.TRG_STATE, VEN.FLAGS, VEN.STATE] }
  | .laneReset _ n | .laneRetrain _ n =>
    some {
      ones := [DBG.STATUS, HDI.APPLY_OUTCOME, HDI.MIRROR_OWNER, HDI.MIRROR_STATE, HDI.STATUS, LNK.EVFLAGS n,
        LNK.MESH_DISCARD n, LNK.RX_ABORT n, LNK.RX_DISCARD n, LNK.STATE n, LNK.TX_DISCARD n, TMU.EVFLAGS, TMU.STATUS]
      runs := [DSP.STATE, HDI.SLOT, HDI.STATS, TMU.AP_STATE, TMU.TRG_STATE, VEN.FLAGS, VEN.STATE] }
  | .adaptEnd n =>
    some {
      ones := [DBG.STATUS, HDI.APPLY_OUTCOME, HDI.MIRROR_OWNER, HDI.MIRROR_STATE, HDI.STATUS, LNK.EVFLAGS n,
        LNK.MESH_DISCARD n, LNK.RX_ABORT n, LNK.RX_DISCARD n, LNK.STATE n, LNK.TX_DISCARD n, TMU.EVFLAGS, TMU.STATUS]
      runs := [DSP.STATE, HDI.SLOT, TMU.AP_STATE, TMU.TRG_STATE, VEN.FLAGS, VEN.STATE] }
  | .lockGained n =>
    some {
      ones := [LNK.EVFLAGS n, LNK.STATE n, TMU.EVFLAGS]
      runs := [LNK.MESH_RESP, TMU.LANE_FLAGS, TMU.TXTS_LOST, TMU.TXTS_MADE, TMU.TXTS_READ] }
  | .qrateWrite _ k _ =>
    some { ones := [CRH.CLK_STATUS, LNK.QPLL k, LNK.QRATE k], runs := [HDI.STATS] }
  | .qpllLock k =>
    some { ones := [CRH.CLK_STATUS, CRH.EVFLAGS, LNK.QPLL k] }
  | .laneMapWrite _ k _ =>
    some { ones := [LNK.MAP k], runs := [HDI.STATS, LNK.PHYS] }
  | .dataBlock _ _ _ =>
    some {
      ones := [TMU.EVFLAGS]
      runs := [LNK.EVFLAGS, LNK.FEC_CORR, LNK.MESH_IN, LNK.MESH_RESP, LNK.RX_CRC, LNK.RX_INVALID, LNK.SRX_MSGS,
        TMU.LANE_FLAGS, TMU.TXTS_LOST, TMU.TXTS_MADE, TMU.TXTS_READ] }
  | .idleBlock n _ _ | .creditBlock n _ _ =>
    some {
      ones := [LNK.FEC_CORR n, LNK.RX_INVALID n, TMU.EVFLAGS]
      runs := [LNK.MESH_RESP, TMU.LANE_FLAGS, TMU.TXTS_LOST, TMU.TXTS_MADE, TMU.TXTS_READ] }
  | .startBlock n _ _ =>
    some {
      ones := [LNK.FEC_CORR n, LNK.RX_ABORT n, LNK.RX_INVALID n, TMU.EVFLAGS]
      runs := [LNK.MESH_RESP, TMU.LANE_FLAGS, TMU.TXTS_LOST, TMU.TXTS_MADE, TMU.TXTS_READ] }
  | .linkBlock n _ _ =>
    some {
      ones := [LNK.EVFLAGS n, LNK.FEC_CORR n, LNK.PEER n, LNK.PEER_LANE n, LNK.RX_INVALID n, TMU.EVFLAGS]
      runs := [LNK.MESH_RESP, TMU.LANE_FLAGS, TMU.TXTS_LOST, TMU.TXTS_MADE, TMU.TXTS_READ] }
  | .meshMessage _ | .creditSendTimer _ | .linkSendTimer _ | .exchangeStart | .dreq _ =>
    some {
      ones := [TMU.EVFLAGS]
      runs := [LNK.MESH_RESP, TMU.LANE_FLAGS, TMU.TXTS_LOST, TMU.TXTS_MADE, TMU.TXTS_READ] }
  | .timeMessage n =>
    some {
      ones := [TMU.EVFLAGS, TMU.RX_LOST n]
      runs := [LNK.MESH_RESP, TMU.LANE_FLAGS, TMU.TXTS_LOST, TMU.TXTS_MADE, TMU.TXTS_READ] }
  | .streamMessage n =>
    some {
      ones := [LNK.EVFLAGS n, LNK.SRX_DROP n, TMU.EVFLAGS]
      runs := [LNK.MESH_RESP, TMU.LANE_FLAGS, TMU.TXTS_LOST, TMU.TXTS_MADE, TMU.TXTS_READ] }
  | .streamWritesDone n _ =>
    some {
      ones := [LNK.EVFLAGS n, LNK.SRX_DONE n, LNK.SRX_ERR n, LNK.SRX_WR n, TMU.EVFLAGS]
      runs := [LNK.MESH_RESP, TMU.LANE_FLAGS, TMU.TXTS_LOST, TMU.TXTS_MADE, TMU.TXTS_READ] }
  | .tmuRoleWrite _ _ =>
    some {
      ones := [HDI.APPLY_OUTCOME, HDI.MIRROR_STATE, HDI.STATUS, TMU.EVFLAGS, TMU.ROLE, TMU.STATUS]
      runs := [DSP.STATE, HDI.STATS, TMU.AP_STATE, TMU.TRG_STATE, VEN.FLAGS, VEN.STATE] }
  | .incrWrite _ _ =>
    some { ones := [TMU.INCR], runs := [HDI.STATS] }
  | .tmuStep _ _ =>
    some { ones := [TMU.EVFLAGS, TMU.STEPS, TMU.STEPS_REFUSED], runs := [HDI.STATS] }
  | .tmuSet _ _ =>
    some { ones := [TMU.EVFLAGS, TMU.STEPS], runs := [HDI.STATS] }
  | .follow _ =>
    some {
      ones := [TMU.EVFLAGS, TMU.GM_SERIAL, TMU.HOPS]
      runs := [LNK.MESH_RESP, TMU.LANE_FLAGS, TMU.TXTS_LOST, TMU.TXTS_MADE, TMU.TXTS_READ] }
  | .dresp _ =>
    some {
      ones := [HDI.STATUS, TMU.DELAY, TMU.EVFLAGS, TMU.EXCHANGES, TMU.INCR, TMU.OFFSET, TMU.STATUS, TMU.STEPS,
        TMU.STEPS_REFUSED] }
  | .exchangeTimeout =>
    some {
      ones := [HDI.APPLY_OUTCOME, HDI.MIRROR_STATE, HDI.STATUS, TMU.EVFLAGS, TMU.STATUS]
      runs := [DSP.STATE, TMU.AP_STATE, TMU.TRG_STATE, VEN.FLAGS, VEN.STATE] }
  | .txmsg _ _ _ =>
    some {
      ones := [TMU.EVFLAGS]
      runs := [HDI.STATS, LNK.MESH_RESP, TMU.LANE_FLAGS, TMU.TXTS_LOST, TMU.TXTS_MADE, TMU.TXTS_READ] }
  | .txts _ n =>
    some { ones := [TMU.TXTS_READ n], runs := [HDI.STATS] }
  | .apertureArm _ a | .apertureDisarm _ a =>
    some { ones := [TMU.AP_STATE a], runs := [HDI.STATS] }
  | .apertureOpen a =>
    some { ones := [TMU.AP_OPENS a, TMU.AP_STATE a, TMU.EVFLAGS], runs := [TMU.TRG_FIRED] }
  | .apertureClose a =>
    some { ones := [TMU.AP_STATE a] }
  | .triggerArm _ t =>
    some { ones := [TMU.TRG_FIRED t, TMU.TRG_STATE t], runs := [HDI.STATS] }
  | .triggerDisarm _ t =>
    some { ones := [TMU.TRG_STATE t], runs := [HDI.STATS] }
  | .triggerPulse t =>
    some { ones := [TMU.EVFLAGS, TMU.TRG_FIRED t, TMU.TRG_MISSED t, TMU.TRG_STATE t] }
  | .captureEdge t _ =>
    some { ones := [TMU.CAP_LOST t, TMU.CAP_TAKEN t, TMU.EVFLAGS] }
  | .ddrPllLock _ =>
    some { ones := [CRH.CLK_STATUS, CRH.EVFLAGS] }
  | .autoLoad _ =>
    some { ones := [CFG.LOAD_BYTES, CFG.LOAD_CAUSE, CFG.LOAD_STATE, CFG.LOAD_STATUS, CFG.LOUPE_ABANDONED] }
  | .loadFull _ _ | .loadPartial _ _ | .flpStart _ =>
    some {
      ones := [CFG.LOAD_BYTES, CFG.LOAD_CAUSE, CFG.LOAD_STATE, CFG.LOAD_STATUS, CFG.LOUPE_ABANDONED]
      runs := [HDI.STATS] }
  | .loadAbort _ | .flpAbort _ =>
    some {
      ones := [CFG.LOAD_CAUSE, CFG.LOAD_FAIL_AT, CFG.LOAD_STATE, CFG.LOAD_STATUS, CFG.LOAD_TIME]
      runs := [CFG.FACET_LOADS, CFG.FACET_STATE, CFG.LOUPE_SRC_ADDR, CFG.LOUPE_SRC_TYPE, FAB.DESIGN_ID, HDI.STATS] }
  | .streamWrite _ _ _ =>
    some { ones := [CFG.LOAD_BYTES], runs := [HDI.STATS] }
  | .streamHeader =>
    some {
      ones := [CFG.FLASH_INFO, CFG.LOAD_BYTES, CFG.LOAD_CAUSE, CFG.LOAD_FAIL_AT, CFG.LOAD_REGION, CFG.LOAD_STATE,
        CFG.LOAD_STATUS, CFG.LOAD_TIME, CFG.LOUPE_ABANDONED, CFG.LOUPE_DAMAGED, CFG.LOUPE_PASSES,
        CFG.LOUPE_PASS_TIME, FAB.RELEASED, HDI.APPLY_OUTCOME, HDI.MIRROR_STATE, HDI.STATUS]
      runs := [CFG.FACET_LOADS, CFG.FACET_STATE, CFG.LOUPE_SRC_ADDR, CFG.LOUPE_SRC_TYPE, FAB.DESIGN_ID, PAN.DISCARD,
        PAN.EVFLAGS, VEN.STATE]
      mem := true }
  | .chunkCheck | .hostDataTimeout | .flashTimeout =>
    some {
      ones := [CFG.LOAD_BYTES, CFG.LOAD_CAUSE, CFG.LOAD_FAIL_AT, CFG.LOAD_STATE, CFG.LOAD_STATUS, CFG.LOAD_TIME]
      runs := [CFG.FACET_LOADS, CFG.FACET_STATE, CFG.LOUPE_SRC_ADDR, CFG.LOUPE_SRC_TYPE, FAB.DESIGN_ID] }
  | .manifestFrame _ =>
    some {
      ones := [CFG.LOAD_BYTES, CFG.LOAD_CAUSE, CFG.LOAD_FAIL_AT, CFG.LOAD_STATE, CFG.LOAD_STATUS, CFG.LOAD_TIME,
        FAB.RELEASED, HDI.APPLY_OUTCOME, HDI.MIRROR_STATE]
      runs := [CFG.FACET_LOADS, CFG.FACET_STATE, CFG.LOUPE_SRC_ADDR, CFG.LOUPE_SRC_TYPE, FAB.DESIGN_ID, PAN.DISCARD,
        PAN.EVFLAGS, PAN.MODE, VEN.STATE]
      mem := true }
  | .cellFrame _ | .routeFrame _ | .ioFrame =>
    some {
      ones := [CFG.LOAD_BYTES, CFG.LOAD_CAUSE, CFG.LOAD_FAIL_AT, CFG.LOAD_STATE, CFG.LOAD_STATUS, CFG.LOAD_TIME,
        FAB.RELEASED, HDI.APPLY_OUTCOME, HDI.MIRROR_STATE]
      runs := [CFG.FACET_LOADS, CFG.FACET_STATE, CFG.LOUPE_SRC_ADDR, CFG.LOUPE_SRC_TYPE, FAB.DESIGN_ID, VEN.STATE] }
  | .paneFrame =>
    some {
      ones := [CFG.LOAD_BYTES, CFG.LOAD_CAUSE, CFG.LOAD_FAIL_AT, CFG.LOAD_STATE, CFG.LOAD_STATUS, CFG.LOAD_TIME,
        FAB.RELEASED, HDI.APPLY_OUTCOME, HDI.MIRROR_STATE]
      runs := [CFG.FACET_LOADS, CFG.FACET_STATE, CFG.LOUPE_SRC_ADDR, CFG.LOUPE_SRC_TYPE, CRH.PWR_STATE,
        FAB.DESIGN_ID, VEN.STATE]
      mem := true }
  | .endFrame =>
    some {
      ones := [CFG.LOAD_BYTES, CFG.LOAD_CAUSE, CFG.LOAD_FAIL_AT, CFG.LOAD_STATE, CFG.LOAD_STATUS, CFG.LOAD_TIME,
        FAB.RELEASED, HDI.APPLY_OUTCOME, HDI.MIRROR_STATE, HDI.STATUS]
      runs := [CFG.FACET_LOADS, CFG.FACET_STATE, CFG.LOUPE_SRC_ADDR, CFG.LOUPE_SRC_TYPE, FAB.DESIGN_ID, VEN.STATE] }
  | .writeBbram _ | .zeroise _ | .fuseKey _ | .fusePolicy _ =>
    some { ones := [CFG.BBRAM_KEY_ID, CFG.KEY_STATUS, CFG.TAMPER_CAUSE, CFG.TAMPER_COUNT], runs := [HDI.STATS] }
  | .keyCommandEnd _ =>
    some { ones := [CFG.BBRAM_KEY_ID, CFG.FUSE_KEY_ID, CFG.KEY_STATUS, CFG.POLICY] }
  | .tamper _ =>
    some { ones := [CFG.BBRAM_KEY_ID, CFG.KEY_STATUS, CFG.TAMPER_CAUSE, CFG.TAMPER_COUNT] }
  | .loupeFrameScan =>
    some {
      ones := [CFG.LOUPE_CE, CFG.LOUPE_DEFERRED, CFG.LOUPE_EVFLAGS, CFG.LOUPE_HEARTBEAT, CFG.LOUPE_LAST,
        CFG.LOUPE_PASSES, CFG.LOUPE_PASS_TIME, CFG.LOUPE_SEL, CFG.LOUPE_UE] }
  | .loupeReloadEnd _ =>
    some {
      ones := [CFG.LOUPE_DAMAGED, CFG.LOUPE_EVFLAGS, CFG.LOUPE_RELOADS, CFG.LOUPE_RELOAD_FAIL, HDI.APPLY_OUTCOME,
        HDI.MIRROR_STATE]
      runs := [VEN.FLAGS, VEN.STATE] }
  | .heartbeatCheck =>
    some { ones := [CFG.LOUPE_ABANDONED, CFG.LOUPE_EVFLAGS, CFG.LOUPE_RESETS] }
  | .loupeEnWrite _ _ =>
    some { ones := [CFG.LOUPE_ABANDONED, CFG.LOUPE_EN], runs := [HDI.STATS] }
  | .invalidHeader n =>
    some {
      ones := [DBG.STATUS, HDI.APPLY_OUTCOME, HDI.MIRROR_OWNER, HDI.MIRROR_STATE, HDI.STATUS, LNK.BAD_HDR n,
        LNK.EVFLAGS n, LNK.FEC_UNCORR n, LNK.LOSSES n, LNK.MESH_DISCARD n, LNK.RX_ABORT n, LNK.RX_DISCARD n,
        LNK.STATE n, LNK.TX_DISCARD n, TMU.EVFLAGS, TMU.STATUS]
      runs := [DSP.STATE, HDI.SLOT, TMU.AP_STATE, TMU.TRG_STATE, VEN.FLAGS, VEN.STATE] }
  | .prbsChecker n _ =>
    some { ones := [LNK.EVFLAGS n, LNK.PRBS_BITS n, LNK.PRBS_ERR n, LNK.PRBS_RESYNC n] }
  | .lrefLoss k =>
    some { ones := [CRH.CLK_STATUS, LNK.QPLL k] }
  | .loupeHeartbeatIdle =>
    some { ones := [CFG.LOUPE_HEARTBEAT] }
  | _ => none

/-! The memory. -/

/-- Is byte b one of the n bytes from a on? -/
def InSpan (a n b : Nat) : Prop := a ≤ b ∧ b < a + n

/-- Does a write among the waiting requests cover byte b? -/
def WrittenBy (rs : List PortReq) (b : Nat) : Prop := ∃ w ∈ rs, w.req.op = .write ∧ InSpan w.req.addr w.req.len b

/-- The bytes to which the source of a request stores the data of its response: the place of a line in the buffer of its vector
engine (04 R121), or the words of scratch into which a move reads (14 R381). -/
def storedBack (x : MeshResp) (s : State) (b : Nat) : Prop :=
  x.kind = 0 ∧
  match x.req.own with
  | .veLine n line => InSpan (bufAddr n + 256 * slotFor n line ((respTaken x s).bump 64 (VEN.REFILL_DONE n))) 256 b
  | .dspMove n k => k ≠ 8 ∧
    ∃ m rest e i, ((moveAnswered n x (respTaken x s)).dspOf n).moves = m :: rest ∧
      m.wait.find? (fun e => decide (e.1 = x.req)) = some e ∧ i < x.req.len / 8 ∧
      InSpan (wordAddr (bankIn m.elem) (moveWordNo m (e.2 + 8 * i))) 8 b
  | _ => False

/-- The bytes that a command may change, for the commands whose bytes no claim of their own names. The unit's waiting accesses
(11 R310, 15 R401), the data of a response, a pane whose mode changes (10 R292), what a domain loses (10 R294), and the panes that a
load clears or configures (10 R281). -/
def stored : Instr → State → Option (Nat → Prop)
  | .meshDataResponse r fl, s => some fun b =>
    ∃ x, s.resps.find? (fun x => decide (x.req = r) && Nat.beq x.kind 0) = some x ∧ storedBack (arrived fl x s) (noteReturn fl x s) b
  | .meshAckResponse _ _, _ | .meshErrorResponse _, _ => some fun _ => False
  | .lineReadComplete n y, s => some fun b =>
    ∃ x, respFor (.veLine n y.line) s = some x ∧ storedBack (arrived y.flits x s) (noteReturn y.flits x s) b
  | .gateClosed u, s | .gateOpened u, s => some <|
    WrittenBy ((s.held ++ s.steal).filter fun w => gateOf (destOf w.req.addr s) == some u)
  | .clearEnd d, s => some <| WrittenBy ((s.held ++ s.steal).filter fun w => decide (domainOf (destOf w.req.addr s) = some d))
  | .paneDetachLands p, s => some <| WrittenBy (s.steal.filter fun w => decide (destOf w.req.addr s = (2, p)))
  | .domainOff d, _ => some <| if d < 32 then InSpan (paneBase (48 * d)) (48 * 0x2000) else InSpan (bankBase (d - 32)) 0x10000
  | .paneModeWrite _ p _, _ => some <| InSpan (paneBase p) 0x2000
  | .streamHeader, _ => some <| InSpan (paneBase 0) (1536 * 0x2000)
  | .manifestFrame _, s => some fun b =>
    ∃ l h, s.cfg.load = some l ∧ l.hdr = some h ∧ InSpan (paneBase (48 * field (bodyBytes l h 0 16) 1 1)) (48 * 0x2000) b
  | _, _ => none

/-- The request of the master that sends the command, for the commands that are accesses of the dictionary. -/
def requestOf : Instr → Option Req
  | .dictRead q _ _ _ _ | .dictWrite q _ _ _ _ | .fetch q _ _ _ _ | .mread q _ _ | .mdrop q _ _ | .statsClr q _ |
    .meshDataWrite q _ _ | .meshDataFetch q _ | .batchCheck q _ | .batchDiscard q _ | .applyArm q _ | .applyCancel q _ |
    .veEnable q _ | .veDisable q _ | .veStart q _ | .veStartAt q _ | .veHalt q _ | .veResume q _ | .veStop q _ |
    .veClearFault q _ | .veSelfcheck q _ | .facetRelease q _ | .facetHold q _ | .userInWrite q _ _ _ | .focus q |
    .edgSelfcheck q | .focusAbort q | .trimCommit q | .trimImport q | .pop q _ | .poprec q _ | .queueEnable q _ |
    .queueDisable q _ | .flush q _ | .push q _ _ | .pushEnd q _ _ | .fcountClr q _ _ | .dmcTrain q _ | .dmcRetrain q _ |
    .excludeWrite q _ | .retainWrite q _ | .paneDetach q _ | .paneAttach q _ | .paneTest q _ | .paneModeWrite q _ _ |
    .scratchOwnerWrite q _ _ _ | .scratchTest q _ | .routerSelfcheck q _ | .rcfgWrite q _ _ | .probeRun q _ |
    .probeStop q _ | .probeClear q _ | .tclear q _ | .laneStart q _ | .laneReset q _ | .laneRetrain q _ |
    .qrateWrite q _ _ | .laneMapWrite q _ _ | .tmuRoleWrite q _ | .incrWrite q _ | .tmuStep q _ | .tmuSet q _ |
    .txmsg q _ _ | .txts q _ | .rxmsg q _ | .apertureArm q _ | .apertureDisarm q _ | .triggerArm q _ |
    .triggerDisarm q _ | .capPop q _ | .dspStart q _ | .dspStartAt q _ | .dspStop q _ | .dspHalt q _ | .dspResume q _ |
    .dspSelfcheck q _ | .clkoutCfgWrite q _ | .fmStart q | .gateClose q _ | .gateOpen q _ | .powerOff q _ |
    .powerOn q _ | .softReset q | .loadFull q _ | .loadPartial q _ | .loadAbort q | .streamWrite q _ _ | .flpStart q |
    .flpAbort q | .writeBbram q | .zeroise q | .fuseKey q | .fusePolicy q | .loupeEnWrite q _ | .cjSha256 q |
    .cjHmac q | .hostKick q _ | .logPop q | .authCustomerL2 q | .authCustomerL3 q | .authVendor q | .authDrop q |
    .authResp q _ | .dbgFuseKey2 q | .dbgFuseKey3 q | .dbgFusePolicy q | .dbgReset q | .brkAlloc q |
    .brkCfgWrite q _ _ | .brkRearm q _ | .brkFree q _ | .dbgHalt q _ | .dbgResume q _ | .dbgStep q _ |
    .dbgRegAccess q _ _ _ | .memDataWrite q _ _ | .memDataFetch q _ | .tDtxWrite q _ _ | .dtxRead q _ |
    .drxWrite q _ _ | .tDrxRead q _ | .retireWrite q _ _ => some q
  | _ => none

/-- Has a WRITE of the RW member m of object o an effect of its own, beside the value that the member takes? -/
def writeActs (o m : Nat) : Bool :=
  [0x0040, 0x1002, 0x2200, 0x2300, 0x2400, 0x3603].contains o ||
  [0x42, 0x51, 0x52, 0x53, 0x54, 0x55, 0x56, 0x61, 0xC1, 0xD2, 0xF4].contains (o / 256) ||
  [0x100303, 0x30000A, 0x340000, 0xB00004, 0xE00000, 0xE00002].contains (o * 256 + m) || Nat.beq o 0x3200 ||
  (Nat.beq (o / 256) 0xF1 && Nat.beq m 0) || (Nat.beq (o / 256) 0xF2 && Nat.beq m 4) ||
  (Nat.beq (o / 256) 0x12 && Nat.blt (o % 256) 2 && evReserved (o % 256 * 256 + m))

/-- The key of the member that a write is of, among the writes that can end in a refusal that the spec counts (00 R13). -/
def countedWrite : Instr → Option Nat
  | .authResp _ _ => some DBG.AUTH_RESP
  | .tmuStep _ _ => some TMU.STEP
  | .push _ n _ => some (FCP.PUSH n)
  | .pushEnd _ n _ => some (FCP.PUSH_END n)
  | .dictWrite _ o m _ _ => some (o * 256 + m)
  | _ => none

end Sys2Proof.Machine
end

