-- ==== Sys2Proof/Safety.lean ====
section
/-! DEFINITION. What counts as a sound state and a safe run, in the terms claims use. -/
namespace Sys2Proof.Machine

/-- The memory lists its bytes in the canonical form: addresses strictly rising, no entry equal to what an unlisted
address reads as. -/
abbrev Memory.wf (m : List Host.Cell) : Prop := Tab.wf byteDefault m = true

/-- The members are listed in the canonical form: keys strictly rising, none at its default. -/
abbrev Members.wf (r : Tab Nat) : Prop := Tab.wf Dict.dflt r = true

/-- Memory and members are in their canonical form. -/
def Canon (s : State) : Prop := Memory.wf s.mem ∧ Members.wf s.reg

/-- A command completes: it gives a next state. -/
def Completes (i : Instr) (s : State) : Prop := ∃ t, exec i s = .next t

/-- A command completes with a next state of which P holds. -/
def Gives (i : Instr) (s : State) (P : State → Prop) : Prop := ∃ t, exec i s = .next t ∧ P t

/-- The part hears the request for operation op on the member of key k, with len bytes of value v, and neither the member
nor the master's level, the frame or the state of the part refuses it (02 R12, R20, R36, R52; 15 R403; 19 R479, R493). -/
def Served (q : Req) (op k len v : Nat) (s : State) : Prop :=
  deaf q s = false ∧ firstOf (baseConds q op (k / 256) (k % 256) len v s) = 0

/-- A write of len bytes of value v to the member of key k is heard, and the part does not refuse it. -/
def Writes (q : Req) (k len v : Nat) (s : State) : Prop := Served q 2 k len v s ∧ responseLong q 0 s = false

/-- A READ of the member of key k is heard, the part does not refuse it, and its response of len bytes is not too long. -/
def Reads (q : Req) (k len : Nat) (s : State) : Prop := Served q 1 k 0 0 s ∧ responseLong q len s = false

/-- A READ of an RC member of key k, the clock gate of its unit open, takes what it returns: behind a closed gate it takes nothing
(15 R403). -/
def Takes (q : Req) (k len : Nat) (s : State) : Prop := Reads q k len s ∧ gateShut s (k / 256) = false

/-- The response that the master holds has status st. -/
def Answered (q : Req) (st : Nat) (t : State) : Prop := (t.masterOf q.master).resp.status = st

/-- The response that the master holds answers len bytes of data. -/
def AnsweredWith (q : Req) (len data : Nat) (t : State) : Prop :=
  (t.masterOf q.master).resp.status = 0 ∧ (t.masterOf q.master).resp.len = len ∧ (t.masterOf q.master).resp.data = data

/-- From s to t the memory is unchanged, and every member but those of V reads as before. -/
def Only (V : Nat → Prop) (s t : State) : Prop := t.mem = s.mem ∧ ∀ k, ¬V k → t.rd k = s.rd k

/-- From s to t every member but those of V reads as before. -/
def OnlyMembers (V : Nat → Prop) (s t : State) : Prop := ∀ k, ¬V k → t.rd k = s.rd k

/-- VEn is RUNNING, nothing else comes at its next boundary, and the decision for its next cycle gives word w at address a;
fresh where the word begins with this cycle (03 R85, R88, R99). -/
def VeDecides (n w a : Nat) (fresh : Bool) (s : State) : Prop :=
  n < 32 ∧ issuing n s = true ∧ blocked n (veBoundary n s) s = false ∧
    ∃ u, decideNext n (s.upto (veBoundary n s - 18 * ticksPerNs)) = (u, .word w a fresh)

/-- The cycle of the word at address a has begun on VEn: it is counted, and VEN.PC holds the address (03 R85). -/
def VeIssued (n a : Nat) (s t : State) : Prop :=
  t.rd (VEN.PC n) = a ∧ t.rd (VEN.CYCLES n) = min (s.rd (VEN.CYCLES n) + 1) (2 ^ 64 - 1)

/-- Every marker at the instants ts keeps 1,024 ticks from the one before it in its stream, the first from last (06 R185). -/
def allSpaced : Option Nat → List Nat → Bool
  | _, [] => true
  | last, t :: ts => spaced last t && allSpaced (some t) ts

/-- VEn decides the word of its next cycle with no repetition, no barrier and no landing before it (03 R85). -/
def VeChooses (n : Nat) (s : State) : Prop :=
  n < 32 ∧ issuing n s = true ∧ blocked n (veBoundary n s) s = false ∧ (s.veOf n).lands = [] ∧ (s.veOf n).rptLeft = 0 ∧
    (s.veOf n).bar = none

/-- The state in which VEn decides its next cycle: every compare with ts at most 24 ns before its boundary is known (03 R90). -/
def veKnows (n : Nat) (s : State) : State := learnUpTo n (veBoundary n s) (s.upto (veBoundary n s - 18 * ticksPerNs))

/-- The word at address a of VEn is w: a valid VEC word that takes no APG word (03 R83, R85; 04 R111). -/
def VecAt (n a w : Nat) (s : State) : Prop := fetchWord n a s = .ok w ∧ wInvalid w = false ∧ wOpc w = 0 ∧ wDsrc w ≠ 1

/-- VEn is FAULTED with the cause and the address (03 R105). -/
def VeFaulted (n cause a : Nat) (t : State) : Prop :=
  veState n t = 6 ∧ t.rd (VEN.FAULT n) = cause ∧ t.rd (VEN.FAULT_PC n) = a % 2 ^ 32

/-- The OUT channels of VEn, in s, have parked at boundary b in t: an edge that is left lies before b or is one of the park state,
and L and N at b are those of the park state of the active timing set (06 R176, R182, R183). -/
def Parked (n b : Nat) (s t : State) : Prop := ∀ p c, (p, c) ∈ outMap n s →
  let park := outPark (s.rd (EDG.OTSET c (s.veOf n).tset))
  let before := { s.outOf c with edges := (s.outOf c).edges.filter fun e => Nat.blt e.1 b }
  (∀ e ∈ (t.outOf c).edges, e.1 ≤ b) ∧
    (t.outOf c).levels b = match park with
      | 0 => ((before.levels b).1, false)
      | 1 => (false, true)
      | 2 => (true, true)
      | _ => before.levels b

/-- X, Y, C and K of the operation of local cell (u, v) of FACETf at FAB edge e, with carry in ci (05 R143, R145). -/
def cellArgs (f u v e : Nat) (ci : Bool) (s : State) : W16 × W16 × Bool × W16 :=
  let w := cellInsn f u v e s
  let r := regsBefore (cellKey (colOf f u) (rowOf f v)) e s
  let k := BitVec.ofNat 16 (ifield w 15 0)
  (match ifield w 26 25 with | 0 => r.a | 1 => r.b | 2 => wordIn f u v 0 e s | _ => r.q,
   match ifield w 24 23 with | 0 => r.b | 1 => wordIn f u v 1 e s | 2 => k | _ => r.q,
   match ifield w 22 21 with | 0 => false | 1 => true | 2 => ci | _ => ctlIn f u v 3 e s, k)

/-- The cell at column col, row row runs operation op at its next FAB edge: its facet is released and its gate open, no
damaged frame governs it, and op is the OP of its instruction (05 R143, R146, R155; 17 R451). -/
def CellRuns (col row op : Nat) (s : State) : Prop :=
  col < 256 ∧ row < 512 ∧ released (facetAt col row) s = true ∧
    (s.facetOf (facetAt col row)).since < cellEdge (cellKey col row) s ∧ clocked (facetAt col row) s = true ∧
    rowDamaged (facetAt col row) (row % 64) s = false ∧
    ifield (cellInsn (facetAt col row) (col % 64) (row % 64) (cellEdge (cellKey col row) s) s) 31 27 = op

/-- The registers of local cell (u, v) of FACETf after FAB edge e, where its operation gave R and CO (05 R143, R145): with CESEL
set and CT3 at 0 they hold. -/
def cellAfter (f u v e : Nat) (o : W16 × Bool) (s : State) : Regs :=
  let key := cellKey (colOf f u) (rowOf f v)
  let w := cellInsn f u v e s
  let r := regsBefore key e s
  if (cfgOf key s).cesel = true ∧ ctlIn f u v 3 e s = false then r
  else
    { a := match ifield w 20 19 with | 0 => r.a | 1 => o.1 | 2 => wordIn f u v 2 e s | _ => wordIn f u v 0 e s,
      b := match ifield w 18 17 with | 0 => r.b | 1 => o.1 | 2 => wordIn f u v 3 e s | _ => wordIn f u v 1 e s,
      q := if ifield w 16 16 = 1 then o.1 else r.q,
      f := match (cfgOf key s).fsel with | 0 => o.2 | 1 => decide (o.1 = 0#16) | 2 => o.1.getLsbD 15 | _ => o.1.getLsbD 0 }

/-- From s to t the cell has taken the registers that R and CO give it, with R and CO as g gives them from X, Y, C and K; no
member, no byte of memory and no other cell has changed (05 R144, R145). -/
def CellGives (col row : Nat) (g : W16 → W16 → Bool → W16 → W16 × Bool) (s t : State) : Prop :=
  let f := facetAt col row
  let e := cellEdge (cellKey col row) s
  let ci := carryIn f (row % 64) e s (col % 64)
  let x := cellArgs f (col % 64) (row % 64) e ci s
  regsNow (cellKey col row) t = cellAfter f (col % 64) (row % 64) e (g x.1 x.2.1 x.2.2.1 x.2.2.2) s ∧
    t.reg = s.reg ∧ t.mem = s.mem ∧ ∀ k, k ≠ cellKey col row → regsNow k t = regsNow k s

/-- C as a word. -/
def carryWord (c : Bool) : W16 := if c then 1#16 else 0#16

/-- Channel x has been stamped at instant e, as its measurement ended: TF holds the temperature of its group, WHEN the network
seconds, 0 where the time is not valid (07 R199). -/
def Stamped (x e : Nat) (s t : State) : Prop :=
  t.rd (calKey x 5) = s.rd (EDG.GROUP (groupOf x)) % 65536 ∧
    Tab.get (fun _ => 0) t.trim.whens x = if timeValid s = true then netNow (s.upto e) / unitsPerSec % 2 ^ 64 else 0

/-! DSP engines. -/

/-- DSPn issues instruction w, of class and operation id: it is RUNNING, no request, expiry or fault falls on its boundary, and
the instruction waits for no move and no bank (14 R372, R378 to R382, R386). -/
def DspIssues (n id w : Nat) (s : State) : Prop :=
  let d := s.dspOf n
  n < 32 ∧ s.rd (DSP.STATE n) = 2 ∧ landsNow n d.halt s = false ∧ landsNow n d.stop s = false ∧ landsNow n d.wdEnd s = false ∧
    ¬(d.moveUe = true ∧ landsNow n (some d.errAt) s = true) ∧ ¬(d.moveBad = true ∧ landsNow n (some d.errAt) s = true) ∧
    d.pc < 2048 ∧ w = nextInsn n s ∧ insnBad w = false ∧
    ¬(d.rpt.isSome = true ∧ [0, 6, 7].contains (Dict.bitsOf w 63 60) = true) ∧ insnId w = id ∧ waitsMove w d = false ∧
    (slotBusy w d s && slotsOwned n w s) = false

/-- The instant at which DSPn issues its next instruction (14 R378, R379). -/
def dspIssueAt (n : Nat) (s : State) : Nat := issueAt n (nextInsn n s) s

/-- The state in which the next instruction of DSPn acts: its stalls counted, DSP.PC at its address, held by debug no longer,
breakpoints matched. -/
def dspAt (n : Nat) (s : State) : State :=
  let d := s.dspOf n
  let t := dspIssueAt n s
  brkMatch 4 (33 + n) d.pc 0 0 t
    (((waited n t (s.upto t)).wr (DSP.PC n) d.pc).modTgt (33 + n) fun g => { g with held := false })

/-- The instruction has issued: DSP.PC holds its address, and the next one is at next once its repetitions end (14 R380). -/
def DspIssued (n next : Nat) (s t : State) : Prop :=
  t.rd (DSP.PC n) = (s.dspOf n).pc ∧
    (t.dspOf n).pc = match (s.dspOf n).rpt with
      | some k => if 1 < k then (s.dspOf n).pc else next
      | none => next

/-- Lane l of operand X of a MAC instruction w whose slots ran as r (14 R372). -/
def macX (n w : Nat) (r : SlotRun) (s : State) (l : Nat) : Int :=
  if Dict.bitsOf w 55 55 = 1 then elemOf (gotLane r.got l r.st) else vreg n (Dict.bitsOf w 52 49) l s

/-- Lane l of operand Y of a MAC instruction w whose slots ran as r (14 R372). -/
def macY (n w : Nat) (r : SlotRun) (s : State) (l : Nat) : Int :=
  match Dict.bitsOf w 54 53 with
  | 1 => macX n w r s l
  | 2 => vreg n (Dict.bitsOf w 48 45) (Dict.bitsOf w 44 43) s
  | _ => vreg n (Dict.bitsOf w 48 45) l s

/-- Every lane of accumulator a of DSPn holds in t what fits of r (14 R375). -/
def AccHolds (n a : Nat) (r : Nat → Int) (s t : State) : Prop := ∀ l, l < 4 → reg0 (t.dspOf n).acc (4 * a + l) = (fitAcc n (r l) s).1

/-- Every lane of vector register v of DSPn holds in t what fits of r (14 R375). -/
def VecHolds (n v : Nat) (r : Nat → Int) (s t : State) : Prop := ∀ l, l < 4 → reg0 (t.dspOf n).v (4 * v + l) = (fitElem n (r l) s).1

/-! Mesh. -/

/-- A request of operation op is under way, names a unit, can arrive, and finds the gate and the power domain of its unit
open (11 R301, R306, R309, R310). -/
def Arrives (op : MeshOp) (r : MeshReq) (s : State) : Prop :=
  r.op = op ∧ regionOf r.addr s < 5 ∧ canArrive r s = true ∧
    (∀ u, gateOf (destOf r.addr s) = some u → s.rd (CRH.GATE_STATE u) = 1) ∧
    ∀ p, domainOf (destOf r.addr s) = some p → s.rd (CRH.PWR_STATE p) = 3

/-- No flit of the request's packet, which meets the errors fl on its way, is poisoned (11 R308). -/
def Unpoisoned (fl : List Flit) (r : MeshReq) (s : State) : Prop :=
  isPoison (path r.src (destNode (destOf r.addr s))) fl = false

/-- The unit that a request names, other than a memory controller, performs it at once: it is in a state to, and its port is
idle (10 R283, R284, R286, R291, R292; 04 R125; 14 R387). -/
def UnitServes (r : MeshReq) (s : State) : Prop :=
  match destOf r.addr s with
  | (1, b) => s.rd (SCR.STATE b) ≠ 2 ∧ fits r 0x10000 = true ∧ 0 < s.rd SCR.STEAL_LIMIT ∧
      ∀ u ∈ (s.bankOf b).last, u.clk < engEdge s.now
  | (2, p) => s.rd (PAN.STATE p) ≠ 2 ∧ s.rd (PAN.MODE p) ≠ 1 ∧ s.rd (CFG.FACET_STATE (p / 48)) ≠ 1 ∧ fits r 0x2000 = true ∧
      paneBusy p r.op (paneEdge p s) s = false ∧ ∀ w ∈ s.steal, waitsFor p r.op w s = false
  | (3, n) => fits r 0x20000 = true ∧ (r.op = .write → veStopped n s = true)
  | (4, n) => fits r 0x4000 = true ∧ (r.op = .write → dspStopped n s = true)
  | _ => False

/-! Configuration. -/

/-- The next frame of the running load l, whose header h has passed, is of type t, for facet f with index i, and has len
stored payload bytes, which stand for payload p; all of it has come, and it passes its checks (16 R422, R423, R427). -/
def FrameIs (l : LoadS) (h : Header) (t f i len p : Nat) (s : State) : Prop :=
  let w := bodyBytes l h 0 16
  s.cfg.load = some l ∧ l.hdr = some h ∧ l.bodyAt + 16 ≤ h.bodyLen ∧ bodyHas l h 16 = true ∧ bodyHas l h (16 + len) = true ∧
    field w 0 1 = t ∧ field w 1 1 = f ∧ field w 2 2 = i ∧ field w 4 4 = len ∧ frameCause l h w s = 0 ∧
    (if h.oxf5 then expand (len + 1) len (bodyBytes l h 16 len) (payloadLen t) else some (bodyBytes l h 16 len)) = some p

/-- Frame id of len stored payload bytes has been used up: the load l goes on behind it. -/
def FrameUsed (l : LoadS) (id : FrameId) (len : Nat) (t : State) : Prop :=
  ∃ l', t.cfg.load = some l' ∧ l'.bodyAt = l.bodyAt + (16 + len) ∧ l'.seen.map (·.id) = l.seen.map (·.id) ++ [id]

/-- The running load has ended with cause c and status st; CFG.LOAD_STATE is n (16 R424, R425). -/
def LoadEnded (c st n : Nat) (t : State) : Prop :=
  t.cfg.load = none ∧ t.rd CFG.LOAD_CAUSE = c ∧ t.rd CFG.LOAD_STATUS = st ∧ t.rd CFG.LOAD_STATE = n

/-! The I3C target and the mesh data of HDI and DBG. -/

/-- The command code or pattern has changed the front end as f says, and no member, byte of memory or master (02 R33). -/
def BusGives (s : State) (f : I3cS → I3cS) (t : State) : Prop :=
  t.hdi.i3c = f s.hdi.i3c ∧ t.reg = s.reg ∧ t.mem = s.mem ∧ t.hdi.masters = s.hdi.masters

/-- The address register has advanced by n, and the requests rs have been sent: those whose address lies in no region are
answered with an error by the router, the others are under way (02 R55, 11 R300, 19 R497). -/
def BlockSent (dbg : Bool) (n : Nat) (rs : List MeshReq) (s t : State) : Prop :=
  t.rd (addrKey dbg) = (s.rd (addrKey dbg) + n) % 2 ^ 48 ∧ t.reqs = s.reqs ++ rs.filter (fun r => regionOf r.addr s != 6) ∧
    t.resps = s.resps ++ (rs.filter fun r => regionOf r.addr s == 6).map fun r => ⟨r, 2, 0⟩

/-! Resets. -/

/-- t is s after a part reset of cause b: the cause marked and the reset counted; clocks, memory, engines, lanes and requests
under way gone; what R406 keeps, kept (15 R405, R406). -/
def PartReset (s : State) (b : Nat) (t : State) : Prop :=
  t.bit CRH.RESET_CAUSE b = true ∧ t.rd CRH.RESET_COUNT = min (s.rd CRH.RESET_COUNT + 1) (2 ^ 32 - 1) ∧
    t.crh.inReset = true ∧ mpllLocked t = false ∧ t.mem = [] ∧ t.ve = [] ∧ t.lanes = [] ∧ t.reqs = [] ∧
    ∀ k ∈ [CRH.STRAPS, CRH.TEMP_MAX, CFG.POLICY, CFG.TAMPER_CAUSE, CFG.TAMPER_COUNT, DBG.POLICY], t.rd k = s.rd k

end Sys2Proof.Machine
end

