-- ==== Sys2Proof/WellFormed.lean ====
section
/-! DEFINITION. Well-formed commands: operands within what the interfaces of the part can carry. An ill-formed command is none
that the part could be given. -/
namespace Sys2Proof

/-- A number of k bits. -/
def bits (k v : Nat) : Bool := Nat.blt v (2 ^ k)
/-- The reserved byte of a frame and the number of data bytes received, at most what a bus transfer holds (02 R36, R37). -/
def formOk (rsv : Nat) (got : Option Nat) : Bool := bits 8 rsv && match got with | some n => bits 16 n | none => true
/-- A request of a master: the I3C port, a slot, the debug port, or one of 16 ports of a node; a TAG of one byte; an operation
code that is none of the row's (02 R37, R38, R41). A mesh master sends no frame. -/
def reqOk (q : Req) : Bool :=
  (Nat.ble q.master 9 || (Nat.ble 16 q.master && Nat.blt q.master 1040 && !q.wrong)) && bits 8 q.tag && formOk q.rsv q.got
    && match q.op with | some c => bits 8 c && !(Nat.ble 1 c && Nat.ble c 5) | none => true
/-- A member, a LENGTH and that many bytes (02 R37). -/
def frameOk (o m len v : Nat) : Bool := bits 16 o && bits 8 m && Nat.ble len 2048 && bits (8 * len) v
/-- A 7-bit address of the I3C bus (02 R32). -/
def addrOk (a : Nat) : Bool := bits 7 a
/-- The address of a direct command code, or a broadcast (02 R33). -/
def destOk (d : Option Nat) : Bool := match d with | some a => addrOk a | none => true
/-- A mesh length: 8 to 256 bytes in a multiple of 8 (11 R302). -/
def lengthOk (len : Nat) : Bool := Nat.ble 8 len && Nat.ble len 256 && Nat.beq (len % 8) 0
/-- A mesh request (11 R302). -/
def meshOk (r : MeshReq) : Bool := bits 6 r.src && bits 2 r.cls && bits 48 r.addr && lengthOk r.len && bits (8 * r.len) r.data
/-- What a router finds, at one of the 64 nodes. -/
def flitOk (f : Flit) : Bool := match f with | .corrected n => bits 6 n | .poisoned n => bits 6 n
/-- Are the instants in order of time? -/
def inOrder : List (Nat × Nat) → Bool
  | a :: b :: xs => Nat.ble a.2 b.2 && inOrder (b :: xs)
  | _ => true
/-- Samples of 64 positions (06 R180). -/
def samplesOk (x : Samples) : Bool := bits 64 x.level && (x.chg.all fun e => Nat.blt e.1 64) && inOrder x.chg
/-- Trims of 16 bits (07 R193). -/
def trimsOk (t : Trims) : Bool :=
  bits 16 t.rise && bits 16 t.fall && bits 16 t.enon && bits 16 t.enoff && t.inl.all fun x => bits 16 x
/-- Straps, grade, and four channels of at most two DIMMs (09 R247, 15 R410). -/
def boardOk (b : Board) : Bool :=
  bits 3 b.straps && bits 1 b.grade && Nat.beq b.dimms.length 4 && b.dimms.all fun d => Nat.ble d.length 2
/-- A flash device of at most 2^32 bytes (16 R416). -/
def flashOk (f : Flash) : Bool := Nat.ble f.density 32 && f.bytes.all fun b => bits 32 b.1 && bits 8 b.2
/-- An upset in a frame of R422: facet, type, index, word and cell column. -/
def upsetOk (u : Upset) : Bool := bits 5 u.f && Nat.ble u.type 5 && bits 16 u.index && bits 16 u.word && bits 6 u.u
/-- A manifest: masks of 48 panes, clamp bits (16 R422). -/
def manifestOk (c : Manifest) : Bool := bits 48 c.queueMask && bits 48 c.paneMask && c.clamps.all fun x => bits 16 x.2
/-- A word cell: 8 instruction registers (05 R142). -/
def cellOk (c : CellCfg) : Bool := Nat.beq c.ir.length 8 && bits 2 c.fsel

/-- Is the command well formed? -/
def Instr.wf : Instr → Bool
  | .dictRead q o m len v => reqOk q && frameOk o m len v
  | .dictWrite q o m len v => reqOk q && frameOk o m len v
  | .fetch q o m len v => reqOk q && frameOk o m len v
  | .mread q o m => reqOk q && frameOk o m.mem m.len 0
  | .mdrop q o m => reqOk q && frameOk o m.mem m.len 0
  | .fetchComplete master o m => Nat.blt master 10 && frameOk o m 0 0
  | .responseRead => true
  | .i2cTransfer _ op tag o m len v => Nat.blt op 256 && Nat.blt tag.tag 256 && formOk tag.rsv tag.got && frameOk o m len v
  | .enec dest events => destOk dest && Nat.blt events 256
  | .disec dest events => destOk dest && Nat.blt events 256
  | .rstdaa => true
  | .entdaa addr rivals => addrOk addr && rivals.all (fun x => Nat.blt x (2 ^ 48))
  | .setaasa => true
  | .setdasa dest addr => addrOk dest && addrOk addr
  | .setnewda dest addr => addrOk dest && addrOk addr
  | .setmwl dest v => destOk dest && bits 16 v
  | .setmrl dest v => destOk dest && bits 16 v
  | .getmwl dest => addrOk dest
  | .getmrl dest => addrOk dest
  | .getpid dest => addrOk dest
  | .getbcr dest => addrOk dest
  | .getdcr dest => addrOk dest
  | .getstatus dest => addrOk dest
  | .enthdr0 => true
  | .enthdrUnsupported k => Nat.ble 1 k && Nat.ble k 3
  | .hdrExit => true
  | .rstact dest b => destOk dest && Nat.blt b 256
  | .targetResetPattern => true
  | .unsupportedCcc dest => destOk dest
  | .mgmtSlotIdleTimeout k => Nat.ble 1 k && Nat.ble k 8
  | .dictWindowAccess r => meshOk r.req && r.flits.all flitOk
  | .statsClr q v => reqOk q && bits 8 v
  | .meshDataWrite q len v => reqOk q && Nat.ble len 2048 && bits (8 * len) v
  | .meshDataFetch q size => reqOk q && bits 16 size
  | .mirrorLeaseExpiry => true
  | .batchCheck q v => reqOk q && bits 8 v
  | .batchCheckEnd => true
  | .batchDiscard q v => reqOk q && bits 8 v
  | .applyArm q v => reqOk q && bits 8 v
  | .applyCancel q v => reqOk q && bits 8 v
  | .syncinCapture _ => true
  | .apply => true
  | .veEnable q n => reqOk q && Nat.blt n 32
  | .veDisable q n => reqOk q && Nat.blt n 32
  | .veStart q n => reqOk q && Nat.blt n 32
  | .veStartAt q n => reqOk q && Nat.blt n 32
  | .veHalt q n => reqOk q && Nat.blt n 32
  | .veResume q n => reqOk q && Nat.blt n 32
  | .veStop q n => reqOk q && Nat.blt n 32
  | .veClearFault q n => reqOk q && Nat.blt n 32
  | .veSelfcheck q n => reqOk q && Nat.blt n 32
  | .veSelfcheckEnd n _ => Nat.blt n 32
  | .veStartEdge n => Nat.blt n 32
  | .vec n smp => Nat.blt n 32 && samplesOk smp
  | .rpt n smp => Nat.blt n 32 && samplesOk smp
  | .veLdc n smp => Nat.blt n 32 && samplesOk smp
  | .loop n smp => Nat.blt n 32 && samplesOk smp
  | .veJmp n smp => Nat.blt n 32 && samplesOk smp
  | .call n smp => Nat.blt n 32 && samplesOk smp
  | .ret n smp => Nat.blt n 32 && samplesOk smp
  | .jc n smp => Nat.blt n 32 && samplesOk smp
  | .clrf n smp => Nat.blt n 32 && samplesOk smp
  | .mbeg n smp => Nat.blt n 32 && samplesOk smp
  | .matchEnd n smp => Nat.blt n 32 && samplesOk smp
  | .bar n smp => Nat.blt n 32 && samplesOk smp
  | .veEvt n smp => Nat.blt n 32 && samplesOk smp
  | .veHaltWord n smp => Nat.blt n 32 && samplesOk smp
  | .barrierRelease mask => bits 32 mask
  | .barrierError n => Nat.blt n 32
  | .veHaltTakesEffect n => Nat.blt n 32
  | .veStopTakesEffect n => Nat.blt n 32
  | .veResumeLands n => Nat.blt n 32
  | .applyLandsRunning n => Nat.blt n 32
  | .patternTimeout n => Nat.blt n 32
  | .lineReadIssue n => Nat.blt n 32
  | .lineReadComplete n x => Nat.blt n 32 && x.flits.all flitOk
  | .apgTransfer n => Nat.blt n 32
  | .cellPass col row => Nat.blt col 256 && Nat.blt row 512
  | .cellAdd col row => Nat.blt col 256 && Nat.blt row 512
  | .cellSub col row => Nat.blt col 256 && Nat.blt row 512
  | .cellAnd col row => Nat.blt col 256 && Nat.blt row 512
  | .cellOr col row => Nat.blt col 256 && Nat.blt row 512
  | .cellXor col row => Nat.blt col 256 && Nat.blt row 512
  | .cellAndn col row => Nat.blt col 256 && Nat.blt row 512
  | .cellNot col row => Nat.blt col 256 && Nat.blt row 512
  | .cellShl1 col row => Nat.blt col 256 && Nat.blt row 512
  | .cellShl col row => Nat.blt col 256 && Nat.blt row 512
  | .cellShr col row => Nat.blt col 256 && Nat.blt row 512
  | .cellRol col row => Nat.blt col 256 && Nat.blt row 512
  | .cellBrev col row => Nat.blt col 256 && Nat.blt row 512
  | .cellBsel col row => Nat.blt col 256 && Nat.blt row 512
  | .cellEq col row => Nat.blt col 256 && Nat.blt row 512
  | .cellPar col row => Nat.blt col 256 && Nat.blt row 512
  | .cellCntk col row => Nat.blt col 256 && Nat.blt row 512
  | .cellMin col row => Nat.blt col 256 && Nat.blt row 512
  | .cellMax col row => Nat.blt col 256 && Nat.blt row 512
  | .cellReservedOp col row => Nat.blt col 256 && Nat.blt row 512
  | .configUpset u => upsetOk u
  | .facetRelease q f => reqOk q && Nat.blt f 32
  | .facetHold q f => reqOk q && Nat.blt f 32
  | .facetReleaseLands f => Nat.blt f 32
  | .facetHoldLands f => Nat.blt f 32
  | .userInWrite q f k v => reqOk q && Nat.blt f 32 && Nat.blt k 4 && bits 64 v
  | .userReq f => Nat.blt f 32
  | .facetMeshRequest f _ addr len data => Nat.blt f 32 && bits 48 addr && lengthOk len && bits (8 * len) data
  | .focus q => reqOk q
  | .edgSelfcheck q => reqOk q
  | .focusAbort q => reqOk q
  | .focusChannelEnd ch found => Nat.blt ch 512 && (match found with | some t => trimsOk t | none => true)
  | .selfcheckChannelEnd ch _ => Nat.blt ch 512
  | .tempTrackSample g temp => Nat.blt g 32 && bits 16 temp
  | .trimCommit q => reqOk q
  | .trimImport q => reqOk q
  | .trimWriteEnd => true
  | .failCycle n => Nat.blt n 32
  | .recordToTail n => Nat.blt n 32
  | .ringWriteIssue q => Nat.blt q 64
  | .ringReadIssue q => Nat.blt q 64
  | .ringWriteDone q _ x => Nat.blt q 64 && x.flits.all flitOk
  | .ringReadDone q x => Nat.blt q 64 && x.flits.all flitOk
  | .pop r q => reqOk r && Nat.blt q 64
  | .poprec r q => reqOk r && Nat.blt q 64
  | .queueEnable r q => reqOk r && Nat.blt q 64
  | .queueDisable r q => reqOk r && Nat.blt q 64
  | .flush r q => reqOk r && Nat.blt q 64
  | .push r q v => reqOk r && Nat.blt q 64 && bits 64 v
  | .pushEnd r q v => reqOk r && Nat.blt q 64 && bits 64 v
  | .fcountClr r c v => reqOk r && Nat.blt c 256 && bits 8 v
  | .mergeTimeout n => Nat.blt n 32
  | .bitmapIssue n => Nat.blt n 32
  | .dmcTrain q n => reqOk q && Nat.blt n 4
  | .dmcRetrain q n => reqOk q && Nat.blt n 4
  | .autoTrainStart => true
  | .trainingEnd n _ => Nat.blt n 4
  | .retrainingEnd n _ => Nat.blt n 4
  | .autoRetrain n => Nat.blt n 4
  | .dimmTempRead n temp => Nat.blt n 4 && bits 16 temp
  | .mapForm => true
  | .excludeWrite q v => reqOk q && bits 32 v
  | .dmcAccept n => Nat.blt n 4
  | .dmcAccessIssue n => Nat.blt n 4
  | .dmcAccessComplete n _ => Nat.blt n 4
  | .agePromotion n => Nat.blt n 4
  | .throttleEnd n => Nat.blt n 4
  | .rowTableClear n => Nat.blt n 4
  | .refresh n => Nat.blt n 4
  | .patrolScrub n _ => Nat.blt n 4
  | .retainWrite q v => reqOk q && bits 32 v
  | .paneFabricAccess p _ => Nat.blt p 1536
  | .stealTimeout r => meshOk r
  | .paneDetach q p => reqOk q && Nat.blt p 1536
  | .paneAttach q p => reqOk q && Nat.blt p 1536
  | .paneDetachLands p => Nat.blt p 1536
  | .paneAttachLands p => Nat.blt p 1536
  | .paneTest q p => reqOk q && Nat.blt p 1536
  | .paneTestEnd p _ => Nat.blt p 1536
  | .paneModeWrite q p v => reqOk q && Nat.blt p 1536 && bits 8 v
  | .scratchOwnerWrite q b port v => reqOk q && Nat.blt b 64 && Nat.blt port 2 && bits 8 v
  | .handoverEnd b => Nat.blt b 64
  | .scratchTest q b => reqOk q && Nat.blt b 64
  | .scratchTestEnd b _ => Nat.blt b 64
  | .clearEnd d => Nat.blt d 96
  | .meshRead r fl _ => meshOk r && fl.all flitOk
  | .meshWrite r fl => meshOk r && fl.all flitOk
  | .meshOr r fl => meshOk r && fl.all flitOk
  | .meshDataResponse r fl => meshOk r && fl.all flitOk
  | .meshAckResponse r fl => meshOk r && fl.all flitOk
  | .meshErrorResponse r => meshOk r.req && r.flits.all flitOk
  | .domainPowered d => Nat.blt d 96
  | .routerSelfcheck q n => reqOk q && Nat.blt n 64
  | .rcfgWrite q n v => reqOk q && Nat.blt n 64 && bits 32 v
  | .drainEnd n _ => Nat.blt n 64
  | .probeRun q p => reqOk q && Nat.blt p 32
  | .probeStop q p => reqOk q && Nat.blt p 32
  | .probeClear q p => reqOk q && Nat.blt p 32
  | .tclear q v => reqOk q && bits 8 v
  | .laneStart q n => reqOk q && Nat.blt n 48
  | .laneReset q n => reqOk q && Nat.blt n 48
  | .laneRetrain q n => reqOk q && Nat.blt n 48
  | .adaptEnd n => Nat.blt n 48
  | .lockGained n => Nat.blt n 48
  | .qrateWrite q k v => reqOk q && Nat.blt k 12 && bits 8 v
  | .qpllLock k => Nat.blt k 12
  | .laneMapWrite q k v => reqOk q && Nat.blt k 12 && bits 8 v
  | .dataBlock n v fix => Nat.blt n 48 && bits 256 v && Nat.ble fix 15
  | .idleBlock n v fix => Nat.blt n 48 && bits 256 v && Nat.ble fix 15
  | .startBlock n v fix => Nat.blt n 48 && bits 256 v && Nat.ble fix 15
  | .creditBlock n v fix => Nat.blt n 48 && bits 256 v && Nat.ble fix 15
  | .linkBlock n v fix => Nat.blt n 48 && bits 256 v && Nat.ble fix 15
  | .meshMessage n => Nat.blt n 48
  | .mgmtMessage n => Nat.blt n 48
  | .timeMessage n => Nat.blt n 48
  | .streamMessage n => Nat.blt n 48
  | .streamWritesDone n _ => Nat.blt n 48
  | .creditSendTimer n => Nat.blt n 48
  | .linkSendTimer n => Nat.blt n 48
  | .tmuRoleWrite q v => reqOk q && bits 8 v
  | .incrWrite q v => reqOk q && bits 64 v
  | .tmuStep q v => reqOk q && bits 64 v
  | .tmuSet q v => reqOk q && bits 128 v
  | .exchangeStart => true
  | .sync n => Nat.blt n 48
  | .follow n => Nat.blt n 48
  | .dreq n => Nat.blt n 48
  | .dresp n => Nat.blt n 48
  | .exchangeTimeout => true
  | .txmsg q n v => reqOk q && Nat.blt n 48 && bits 256 v
  | .txts q n => reqOk q && Nat.blt n 48
  | .rxmsg q n => reqOk q && Nat.blt n 48
  | .apertureArm q a => reqOk q && Nat.blt a 16
  | .apertureDisarm q a => reqOk q && Nat.blt a 16
  | .apertureOpen a => Nat.blt a 16
  | .apertureClose a => Nat.blt a 16
  | .triggerArm q t => reqOk q && Nat.blt t 16
  | .triggerDisarm q t => reqOk q && Nat.blt t 16
  | .triggerPulse t => Nat.blt t 16
  | .captureEdge t _ => Nat.blt t 16
  | .capPop q t => reqOk q && Nat.blt t 16
  | .scheduleFire => true
  | .mpy n _ => Nat.blt n 32
  | .mac n _ => Nat.blt n 32
  | .msu n _ => Nat.blt n 32
  | .accClr n => Nat.blt n 32
  | .accLda n => Nat.blt n 32
  | .accAdda n => Nat.blt n 32
  | .accSuml n => Nat.blt n 32
  | .accStr n => Nat.blt n 32
  | .accShra n => Nat.blt n 32
  | .mem n _ => Nat.blt n 32
  | .seta n => Nat.blt n 32
  | .seto n => Nat.blt n 32
  | .inca n => Nat.blt n 32
  | .vmov n => Nat.blt n 32
  | .vadd n => Nat.blt n 32
  | .vsub n => Nat.blt n 32
  | .vshl n => Nat.blt n 32
  | .vshr n => Nat.blt n 32
  | .dspNop n => Nat.blt n 32
  | .dspJmp n => Nat.blt n 32
  | .djnz n => Nat.blt n 32
  | .dspLdc n => Nat.blt n 32
  | .dspEvt n => Nat.blt n 32
  | .dspHaltInsn n => Nat.blt n 32
  | .waitm n => Nat.blt n 32
  | .bclr n => Nat.blt n 32
  | .blk n => Nat.blt n 32
  | .dspRpt n => Nat.blt n 32
  | .move n => Nat.blt n.n 32
  | .moveGatePoll n => Nat.blt n 32
  | .moveComplete n => Nat.blt n 32
  | .dspStart q n => reqOk q && Nat.blt n 32
  | .dspStartAt q n => reqOk q && Nat.blt n 32
  | .dspStop q n => reqOk q && Nat.blt n 32
  | .dspHalt q n => reqOk q && Nat.blt n 32
  | .dspResume q n => reqOk q && Nat.blt n 32
  | .dspSelfcheck q n => reqOk q && Nat.blt n 32
  | .dspSelfcheckEnd n _ => Nat.blt n 32
  | .dspStartEdge n => Nat.blt n 32
  | .dspHaltLands n => Nat.blt n 32
  | .dspStopLands n => Nat.blt n 32
  | .dspWatchdogExpiry n => Nat.blt n 32
  | .refinPresent => true
  | .mpllLock => true
  | .refinLoss => true
  | .clkoutCfgWrite q v => reqOk q && bits 32 v
  | .clockSwitchDone => true
  | .clockSwitchTimeout => true
  | .ddrPllLock n => Nat.blt n 4
  | .fmStart q => reqOk q
  | .fmDone count => bits 64 count
  | .gateClose q u => reqOk q && Nat.blt u 178
  | .gateOpen q u => reqOk q && Nat.blt u 178
  | .gateClosed u => Nat.blt u 178
  | .gateCloseForce u => Nat.blt u 178
  | .gateOpened u => Nat.blt u 178
  | .powerOff q d => reqOk q && Nat.blt d 96
  | .powerOn q d => reqOk q && Nat.blt d 96
  | .por board => boardOk board
  | .brownout => true
  | .pinReset => true
  | .nresetRise straps => Nat.blt straps 8
  | .softReset q => reqOk q
  | .thermalTrip => true
  | .resetEnd => true
  | .supReady => true
  | .tempSample temps => Nat.beq temps.length 48 && temps.all (fun t => bits 16 t)
  | .railSample r mv => Nat.blt r 17 && bits 16 mv
  | .autoLoad flash => flashOk flash
  | .loadFull q flash => reqOk q && flashOk flash
  | .loadPartial q flash => reqOk q && flashOk flash
  | .loadAbort q => reqOk q
  | .streamWrite q len v => reqOk q && Nat.ble len 2048 && bits (8 * len) v
  | .streamHeader => true
  | .chunkCheck => true
  | .manifestFrame c => manifestOk c
  | .cellFrame c => c.all cellOk
  | .routeFrame sels => Nat.ble sels.length 2716 && sels.all (fun x => bits 64 x)
  | .paneFrame => true
  | .ioFrame => true
  | .endFrame => true
  | .hostDataTimeout => true
  | .flpStart q => reqOk q
  | .flpAbort q => reqOk q
  | .writeBbram q => reqOk q
  | .zeroise q => reqOk q
  | .fuseKey q => reqOk q
  | .fusePolicy q => reqOk q
  | .keyCommandEnd _ => true
  | .tamper cause => Nat.blt cause 5 && cause != 1
  | .loupeFrameScan => true
  | .loupeReload => true
  | .loupeReloadEnd _ => true
  | .heartbeatCheck => true
  | .loupeEnWrite q v => reqOk q && bits 8 v
  | .cjSha256 q => reqOk q
  | .cjHmac q => reqOk q
  | .cryptoJobEnd => true
  | .wdogWarn => true
  | .wdogExpiry => true
  | .hostKick q v => reqOk q && bits 8 v
  | .hostWdExpiry => true
  | .eventRaise => true
  | .fabricEventPulse k => Nat.blt k 8
  | .logPop q => reqOk q
  | .ibiRequest _ => true
  | .ledgerCheck => true
  | .extest => true
  | .samplePreload => true
  | .idcode => true
  | .clamp => true
  | .highz => true
  | .extestPulse => true
  | .extestTrain => true
  | .dbgframe op tag o m len v => Nat.blt op 256 && Nat.blt tag.tag 256 && formOk tag.rsv tag.got && frameOk o m len v
  | .bypass => true
  | .trst => true
  | .authCustomerL2 q => reqOk q
  | .authCustomerL3 q => reqOk q
  | .authVendor q => reqOk q
  | .authDrop q => reqOk q
  | .authResp q v => reqOk q && bits 256 v
  | .dbgFuseKey2 q => reqOk q
  | .dbgFuseKey3 q => reqOk q
  | .dbgFusePolicy q => reqOk q
  | .dbgReset q => reqOk q
  | .brkAlloc q => reqOk q
  | .brkCfgWrite q u v => reqOk q && Nat.blt u 64 && bits 64 v
  | .brkRearm q u => reqOk q && Nat.blt u 64
  | .brkFree q u => reqOk q && Nat.blt u 64
  | .groupHaltLatch g => Nat.blt g 4
  | .dbgHalt q t => reqOk q && Nat.blt t 65
  | .dbgResume q t => reqOk q && Nat.blt t 65
  | .dbgStep q t => reqOk q && Nat.blt t 65
  | .molxoHaltLands => true
  | .dbgRegAccess q t _ v => reqOk q && Nat.blt t 65 && bits 64 v
  | .memDataWrite q len v => reqOk q && Nat.ble len 2048 && bits (8 * len) v
  | .memDataFetch q size => reqOk q && bits 16 size
  | .tDtxWrite q t v => reqOk q && Nat.blt t 65 && bits 32 v
  | .dtxRead q t => reqOk q && Nat.blt t 65
  | .drxWrite q t v => reqOk q && Nat.blt t 65 && bits 32 v
  | .tDrxRead q t => reqOk q && Nat.blt t 65
  | .retireWrite q k v => reqOk q && Nat.blt k 13 && bits 64 v
  | .invalidHeader n => Nat.blt n 48
  | .prbsChecker n syms => Nat.blt n 48 && syms.all fun v => Nat.blt v 4
  | .lrefLoss k => Nat.blt k 12
  | .tailToHeadMove q => Nat.blt q 64
  | .domainOff d => Nat.blt d 96
  | .flashTimeout => true
  | .wdogRestart => true
  | .loupeHeartbeatIdle => true
  | .pullselChange b v => Nat.blt b 10 && Nat.blt v 3
  | .vioRailChange b _ level => Nat.blt b 10 && Nat.blt level 2

end Sys2Proof
end

