-- ==== Sys2Proof/Certificates/Slice0/Obligations.lean ====
section
/-! DEFINITION. The statements for the provers. A statement is over every state and operand that meets its hypotheses; each
docstring names the rules of spec/ that it takes its content from, and the log entries (notes/assumptions) of the readings and
choices of the model that it rests on: these are the model's and no rule of the spec. -/
open Sys2Proof Sys2Proof.Machine

/-- A step takes the command at the front of the queue and is that command on the state with the queue's rest; on an empty
queue one engine clock passes, which is the model's choice (log entry 4). -/
def Obligations.StepRunsFrontCommand : Prop := (∀ c rest s, s.pending = c :: rest → step s = exec c { s with pending := rest }) ∧
    ∀ s, s.pending = [] → step s = .next { s with now := s.now + 8192 }

/-- What reset leaves, as far as the spec gives it: the cause POR alone (15 R405), ledgers at 0, no mirror owner and an empty
batch (02 R60), message lengths 2,056 (02 R36), in-band interrupts enabled (18 R469), every gate open and every domain on (15
R400, R404), nominal increment and loop gains (13 R346, R359), channel selects (04 R138), L and N at 0 (06 R172), and the
registers of DSP engines at 0 (14 R382). Choices and readings of the model: log entries 2, 3. -/
def Obligations.ResetLeaves : Prop := let s := State.reset
  s.rd CRH.RESET_CAUSE = 1 ∧ s.rd CRH.RESET_COUNT = 0 ∧ s.rd CRH.MPLL_LOSSES = 0 ∧ s.rd HDI.MIRROR_OWNER = 0xFF ∧
    s.rd HDI.MIRROR_STATE = 0 ∧ s.hdi.mirror.batch = [] ∧ (∀ st, st < 13 → s.rd (HDI.STATS st) = 0) ∧ s.hdi.i3c.dyn = none ∧
    s.hdi.i3c.mwl = 2056 ∧ s.hdi.i3c.mrl = 2056 ∧ s.hdi.i3c.enInt = true ∧ (∀ n, n < 32 → s.rd (VEN.STATE n) = 0) ∧
    (∀ n, n < 32 → s.rd (DSP.STATE n) = 0) ∧ s.rd TMU.INCR = 0x100000000 ∧ s.rd TMU.KP = 2 ∧ s.rd TMU.KI = 6 ∧
    (∀ u, u < 0xB2 → s.rd (CRH.GATE_STATE u) = 1) ∧ (∀ d, d < 0x60 → s.rd (CRH.PWR_STATE d) = 3) ∧
    (∀ n p, n < 32 → p < 64 → s.rd (VEN.APG_SEL n p) = p) ∧ (∀ c, (s.outOf c).l = false ∧ (s.outOf c).n = false) ∧
    (∀ n r, reg0 (s.dspOf n).v r = 0 ∧ reg0 (s.dspOf n).acc r = 0) ∧ s.pending = [] ∧ s.mem = []

/-- Memory and members are in their canonical form at reset. -/
def Obligations.ResetCanonical : Prop := Canon State.reset

/-- Every step keeps memory and members in their canonical form, so that equal contents are equal data. Choices and readings
of the model: log entry 2. -/
def Obligations.StepKeepsCanonical : Prop := ∀ s t, Canon s → step s = .next t → Canon t

/-- A command leaves the queue to the step, and time does not run backwards. -/
def Obligations.TimeAndQueue : Prop := ∀ i s t, Canon s → exec i s = .next t →
  s.now ≤ t.now ∧ t.pending = s.pending

/-- Every well-formed command completes in every state; no command is refused, and the one fault names a unit that the part
does not have. Choices and readings of the model: log entries 5, 37. -/
def Obligations.EveryCommandCompletes : Prop := (∀ i s, i.wf = true → Completes i s) ∧ (∀ i s f, exec i s = .fault f → f = .noSuchUnit ∧ i.wf = false) ∧
    ∀ i s r, exec i s ≠ .refused r

/-- Commands of the dictionary, the mirror, the management channel, the supervisor, debug, and clocks and resets change the
members that changesControl names, and no others; the memory they leave as it is unless it says otherwise, and every byte outside
those that stored names. -/
def Obligations.ControlFrames : Prop := ∀ i c s t, changesControl i = some c → exec i s = .next t →
  OnlyMembers c.has s t ∧ (c.mem = false → t.mem = s.mem) ∧
    ∀ P, stored i s = some P → ∀ b, ¬P b → memByte t.mem b = memByte s.mem b

/-- Commands of vector engines, fail capture, calibration, the fabric and the DSP engines change the members that changesEngines
names, and no others; the memory they leave as it is unless it says otherwise, and every byte outside those that stored names. -/
def Obligations.EngineFrames : Prop := ∀ i c s t, changesEngines i = some c → exec i s = .next t →
  OnlyMembers c.has s t ∧ (c.mem = false → t.mem = s.mem) ∧
    ∀ P, stored i s = some P → ∀ b, ¬P b → memByte t.mem b = memByte s.mem b

/-- Commands of the mesh, panes and scratch, the memory controllers, the lanes, the network time and configuration change the
members that changesData names, and no others; the memory they leave as it is unless it says otherwise, and every byte outside
those that stored names. -/
def Obligations.DataFrames : Prop := ∀ i c s t, changesData i = some c → exec i s = .next t →
  OnlyMembers c.has s t ∧ (c.mem = false → t.mem = s.mem) ∧
    ∀ P, stored i s = some P → ∀ b, ¬P b → memByte t.mem b = memByte s.mem b

/-- What a word of a program leaves alone (03 R85): of the members only the engine's FLAGS, CYCLES, PC and APG_USED, the counts of
dropped edges and strobes, and the match of a break unit change, and CTR by LDC and LOOP, EVENTS by EVT; no byte of memory; the
stack by CALL and RET alone. What the end of a run, a halt, and the landing of changes leave alone (03 R76, R98, R100, R102, R105,
R106): of the members only the engine's state, fault, flags and time left, the records of its channels that close, a batch that
names the engine, and the changes of a batch that wait for it; no byte of memory. What the apply of a batch leaves alone (02 R66):
every member that is not staged, but the outcome, the time, the owner and the state of the mirror; and the memory. Choices and
readings of the model: log entries 11, 12. -/
def Obligations.EngineRunFrames : Prop :=
  (∀ (n w a : Nat) (fresh : Bool) (smp : Samples) (i : Instr) (s t : State),
  VeDecides n w a fresh s →
  i ∈ [.vec n smp, .rpt n smp, .veLdc n smp, .loop n smp, .veJmp n smp, .call n smp, .ret n smp, .jc n smp, .clrf n smp,
    .mbeg n smp, .matchEnd n smp, .bar n smp, .veEvt n smp] →
  exec i s = .next t →
  t.mem = s.mem ∧
    OnlyMembers (fun k => k ∈ [VEN.FLAGS n, VEN.CYCLES n, VEN.PC n, VEN.APG_USED n, EDG.DROP_GROUPS, DBG.EVFLAGS] ∨
      (∃ u, k = EDG.EDGE_DROP u ∨ k = EDG.STROBE_DROP u ∨ k = DBG.BRK_HITS u ∨ k = DBG.BRK_STATE u) ∨
      ((i = .veLdc n smp ∨ i = .loop n smp) ∧ k = VEN.CTR n (wSel w)) ∨ (i = .veEvt n smp ∧ k = VEN.EVENTS n)) s t ∧
    (i ≠ .call n smp → i ≠ .ret n smp → (t.veOf n).stack = (s.veOf n).stack)) ∧
  (∀ (n : Nat) (smp : Samples) (i : Instr) (s t : State), n < 32 →
  (i ∈ [.barrierError n, .patternTimeout n, .veHaltTakesEffect n, .veStopTakesEffect n, .applyLandsRunning n] ∨
    (i = .veHaltWord n smp ∧ veState n s = 3 ∧ (s.veOf n).endAt.isSome)) →
  exec i s = .next t →
  t.mem = s.mem ∧
    OnlyMembers (fun k => k ∈ [VEN.PTO_LEFT n, VEN.FLAGS n, VEN.FAULT n, VEN.FAULT_PC n, VEN.LAND_CYCLE n, HDI.MIRROR_STATE,
        HDI.APPLY_OUTCOME, DBG.EVFLAGS, FCP.BM_DROP n, FCP.BM_FORMED n, FCP.REC_CAPPED n, FCP.REC_DROP_CAP n,
        FCP.REC_DROP_RING n, FCP.REC_FORMED n] ∨
      (∃ u, k = VEN.STATE u ∨ k = FCP.Q_EVFLAGS u ∨ k = FCP.STOPPED_BY u) ∨ ∃ l ∈ (s.veOf n).lands, ∃ e ∈ l.2, k = e.key) s t) ∧
  (∀ s t, exec .apply s = .next t →
  t.mem = s.mem ∧ OnlyMembers (fun k => k ∈ [HDI.APPLIED_AT, HDI.APPLY_OUTCOME, HDI.MIRROR_OWNER, HDI.MIRROR_STATE] ∨
    ∃ e ∈ s.hdi.mirror.batch, k = e.key) s t)

/-- What an instruction of a DSP engine leaves of the registers (14 R371 to R382): no register of another engine changes, and
of its own only the loop counter, the address or offset register, the accumulator or the vector register that the instruction
names as its destination; MAC and MEM also post-modify address registers, and load vector registers. Choices and readings of
the model: log entries 9, 13. -/
def Obligations.DspRegisterFrames : Prop := ∀ (n : Nat) (ecc : List Ecc) (s : State),
  let regs := fun d : DspRun => (d.v, d.acc, d.a, d.o, d.c)
  let w := nextInsn n s
  let keeps := fun (is : List Instr) (P : DspRun → DspRun → Prop) => ∀ i ∈ is, ∀ t, exec i s = .next t →
    P (s.dspOf n) (t.dspOf n) ∧ ∀ m, m ≠ n → regs (t.dspOf m) = regs (s.dspOf m)
  keeps [.dspNop n, .dspJmp n, .dspEvt n, .dspHaltInsn n, .waitm n, .bclr n, .blk n, .dspRpt n, .move ⟨n, ecc⟩]
    (fun d e => regs e = regs d) ∧
  keeps [.djnz n, .dspLdc n] (fun d e => e.v = d.v ∧ e.acc = d.acc ∧ e.a = d.a ∧ e.o = d.o ∧
    ∀ k, k ≠ Dict.bitsOf w 55 54 → reg0 e.c k = reg0 d.c k) ∧
  keeps [.seta n, .inca n] (fun d e => e.v = d.v ∧ e.acc = d.acc ∧ e.o = d.o ∧ e.c = d.c ∧
    ∀ k, k ≠ Dict.bitsOf w 57 55 → reg0 e.a k = reg0 d.a k) ∧
  keeps [.seto n] (fun d e => e.v = d.v ∧ e.acc = d.acc ∧ e.a = d.a ∧ e.c = d.c ∧
    ∀ k, k ≠ Dict.bitsOf w 57 55 → reg0 e.o k = reg0 d.o k) ∧
  keeps [.accClr n, .accLda n, .accAdda n, .accSuml n, .accShra n] (fun d e => e.v = d.v ∧ e.a = d.a ∧ e.o = d.o ∧
    e.c = d.c ∧ ∀ k, k / 4 ≠ Dict.bitsOf w 55 54 → reg0 e.acc k = reg0 d.acc k) ∧
  keeps [.accStr n] (fun d e => e.acc = d.acc ∧ e.a = d.a ∧ e.o = d.o ∧ e.c = d.c ∧
    ∀ k, k / 4 ≠ Dict.bitsOf w 51 48 → reg0 e.v k = reg0 d.v k) ∧
  keeps [.vmov n, .vadd n, .vsub n, .vshl n, .vshr n] (fun d e => e.acc = d.acc ∧ e.a = d.a ∧ e.o = d.o ∧ e.c = d.c ∧
    ∀ k, k / 4 ≠ Dict.bitsOf w 55 52 → reg0 e.v k = reg0 d.v k) ∧
  keeps [.mpy n ecc, .mac n ecc, .msu n ecc] (fun d e => e.o = d.o ∧ e.c = d.c ∧
    ∀ k, k / 4 ≠ Dict.bitsOf w 57 56 → reg0 e.acc k = reg0 d.acc k) ∧
  keeps [.mem n ecc] (fun d e => e.acc = d.acc ∧ e.o = d.o ∧ e.c = d.c)

/-- The order in which conditions are reported (00 R12): the status of an access is the first in R12's order of those that
apply, and 0x00 where none does. The length of the response is judged on the response that an access makes which nothing else
refuses (02 R36). Choices and readings of the model: log entry 15. -/
def Obligations.FirstStatusInOrder : Prop := let order := [1, 2, 3, 0xC, 4, 0xA, 5, 7, 6, 8, 0xB, 9]
  ∀ (q : Req) (op o m len v rlen : Nat) (extra : List (Bool × Nat)) (s : State), (∀ c ∈ extra, c.2 ∈ order) →
    let cs := baseConds q op o m len v s ++ extra
    let st := statusOf q op o m len v rlen extra s
    (st = 0 ↔ (∀ c ∈ cs, c.1 = false) ∧ responseLong q rlen s = false) ∧
      (∀ c ∈ cs, c.1 = true → order.idxOf st ≤ order.idxOf c.2) ∧
      (st ≠ 0 → (true, st) ∈ cs ∨ (st = 3 ∧ responseLong q rlen s = true))

/-- A refused access changes nothing (00 R13) but the response of its master and the count of its status. Beside these the
refusals that R13 says are also counted are counted: a wrong answer to a challenge (19 R482), a push into a full ring (08 R233)
and a step of the time that is too large or would make it negative (13 R349). A READ that a slot makes of a deferred member
answers only when its fetch is over (02 R46). A request that the part does not hear changes nothing at all. Choices and readings
of the model: log entry 35. -/
def Obligations.RefusedAccessChangesNothing : Prop :=
  (∀ i q s t, requestOf i = some q → exec i s = .next t →
  (deaf q s = true → t = s) ∧
    (deaf q s = false → t.crh.inReset = false → (t.masterOf q.master).resp.status ≠ 0 →
      (∃ op o m st, st ≠ 0 ∧ t = respond q op o m st 0 0 s) ∨
      (countedWrite i = some DBG.AUTH_RESP ∧ t = respFails q (respond q 2 0xF001 2 9 0 0 s)) ∨
      (countedWrite i = some TMU.STEP ∧ ∃ st, (st = 4 ∨ st = 0xB) ∧ t = stepRefused (respond q 2 0xE000 3 st 0 0 s)) ∨
      (∃ n k, n < 256 ∧ (k = FCP.PUSH n ∨ k = FCP.PUSH_END n) ∧ countedWrite i = some k ∧
        t = qFlag n 4 (engEdge s.now) ((respond q 2 (k / 256) (k % 256) 8 0 0 s).bump 64 (FCP.Q_REFUSED n))) ∨
      ∃ o m len v, i = .dictRead q o m len v ∧ 1 ≤ q.master ∧ q.master ≤ 8 ∧ t = fetchEff q true o m v s)) ∧
  (∀ (q : Req) (s : State), deaf q s = false →
  (∀ v, statusOf q 2 0xF001 2 32 v 0 (respConds q 32 v s) s = 9 → Gives (.authResp q v) s fun t =>
    Answered q 9 t ∧ (t.masterOf q.master).chal = none ∧ t.dbg.lockUntil = s.now + 1000000 * ticksPerUs ∧
    t.rd DBG.AUTH_FAILS = min (s.rd DBG.AUTH_FAILS + 1) (2 ^ 32 - 1) ∧ t.bit DBG.EVFLAGS 3 = true ∧
    t.bit DBG.STATUS 3 = (s.bit DBG.STATUS 3 || decide (16 ≤ t.rd DBG.AUTH_FAILS))) ∧
  (∀ v st, st = 4 ∨ st = 0xB → statusOf q 2 0xE000 3 8 v 0 (stepConds v s) s = st → Gives (.tmuStep q v) s fun t =>
    Answered q st t ∧ t.tmu = s.tmu ∧ t.rd TMU.STEPS_REFUSED = min (s.rd TMU.STEPS_REFUSED + 1) (2 ^ 64 - 1) ∧ t.bit TMU.EVFLAGS 3 = true) ∧
  (∀ n k v (mark : Bool), n < 64 → k = (if mark then FCP.PUSH_END n else FCP.PUSH n) →
    statusOf q 2 (k / 256) (k % 256) 8 v 0 (pushConds n mark s) s = 8 →
    Gives (if mark then .pushEnd q n v else .push q n v) s fun t => Answered q 8 t ∧ (t.sqOf n).tail = (s.sqOf n).tail ∧
      t.rd (FCP.Q_REFUSED n) = min (s.rd (FCP.Q_REFUSED n) + 1) (2 ^ 64 - 1) ∧ t.bit (FCP.Q_EVFLAGS n) 4 = true))

/-- MREAD and MDROP (02 R58): the staged value, or LENGTH 0; the member removed with its entry and its bytes, or nothing
changed. -/
def Obligations.StagedReadAndDrop : Prop := ∀ (q : Req) (k : Nat) (s : State), q.master < 9 → (ownerCond q s).1 = false →
  (∀ e, stagedAt k s = some e → Served q 4 k 0 0 s → responseLong q e.len s = false →
    Gives (.mread q (k / 256) ⟨k % 256, 0⟩) s (AnsweredWith q e.len e.val)) ∧
  (stagedAt k s = none → Served q 4 k 0 0 s → responseLong q 0 s = false →
    Gives (.mread q (k / 256) ⟨k % 256, 0⟩) s (AnsweredWith q 0 0)) ∧
  (∀ e, stagedAt k s = some e → Served q 5 k 0 0 s → responseLong q 0 s = false → (∀ c ∈ mdropConds q s, c.1 = false) →
    Gives (.mdrop q (k / 256) ⟨k % 256, 0⟩) s fun t => Answered q 0 t ∧ stagedAt k t = none ∧
      (∀ j, j ≠ k → stagedAt j t = stagedAt j s) ∧ t.hdi.mirror.batch.length < s.hdi.mirror.batch.length ∧
      stagedBytes t.hdi.mirror.batch + e.len ≤ stagedBytes s.hdi.mirror.batch) ∧
  (stagedAt k s = none → Served q 5 k 0 0 s → responseLong q 0 s = false → (∀ c ∈ mdropConds q s, c.1 = false) →
    Gives (.mdrop q (k / 256) ⟨k % 256, 0⟩) s fun t => Answered q 0 t ∧ t.hdi.mirror.batch = s.hdi.mirror.batch ∧
      Only (fun j => j = HDI.STATS 0) s t)

/-- The instruction memory of a DSP engine (14 R387): its place in the mesh and that of its instructions; a read is answered
whatever the engine does, a write while it is not stopped gets an error response and changes nothing. -/
def Obligations.DspMemoryAccess : Prop := ∀ (n : Nat) (s : State), n < 32 →
  (∀ a, 0x10300000000 + 0x4000 * n ≤ a → a < 0x10300000000 + 0x4000 * (n + 1) → destOf a s = (4, n)) ∧
  nextInsn n s = memRead s.mem (0x10300000000 + 0x4000 * n + 8 * (s.dspOf n).pc) 8 ∧
  (∀ (r : MeshReq) (fl : List Flit) (ecc : List Ecc), Arrives .read r s → Unpoisoned fl r s → destOf r.addr s = (4, n) →
    fits r 0x4000 = true → Gives (.meshRead r fl ecc) s fun t => t.resps = s.resps ++ [⟨r, 0, memRead s.mem r.addr r.len⟩]) ∧
  ∀ (r : MeshReq) (fl : List Flit), Arrives .write r s → Unpoisoned fl r s → destOf r.addr s = (4, n) → fits r 0x4000 = true →
    (dspStopped n s = true → Gives (.meshWrite r fl) s fun t => t.resps = s.resps ++ [⟨r, 1, 0⟩] ∧
      t.mem = memWrite s.mem r.addr r.len r.data) ∧
    (dspStopped n s = false → Gives (.meshWrite r fl) s fun t => t.resps = s.resps ++ [⟨r, 2, 0⟩] ∧ t.mem = s.mem ∧
      ∀ k, 0xA10000 ≤ k → k < 0xA30000 → t.rd k = s.rd k)

/-- Gated touches (15 R402): a mesh access that reaches a unit whose gate is closed reads zeros or is discarded, with a normal
response, and is counted; TOUCH is set. A request that breaks the limits of its port gets an error response and touches nothing
(11 R537). -/
def Obligations.GatedTouches : Prop := ∀ (r : MeshReq) (f : List Flit) (ecc : List Ecc) (u : Nat) (s : State),
  Unpoisoned f r s → regionOf r.addr s < 5 → canArrive r s = true → gateOf (destOf r.addr s) = some u →
  s.rd (CRH.GATE_STATE u) = 0 →
  let touched := fun kind (t : State) => t.resps = s.resps ++ [⟨r, kind, 0⟩] ∧ t.reqs = s.reqs.erase r ∧ t.mem = s.mem ∧
    t.rd CRH.GATED_TOUCHES = min (s.rd CRH.GATED_TOUCHES + 1) (2 ^ 64 - 1) ∧
    t.rd (CRH.GATE_TOUCH u) = min (s.rd (CRH.GATE_TOUCH u) + 1) (2 ^ 32 - 1) ∧ t.bit CRH.EVFLAGS 7 = true
  let refused := fun (t : State) => t.resps = s.resps ++ [⟨r, 2, 0⟩] ∧ t.reqs = s.reqs.erase r ∧ t.mem = s.mem ∧
    t.rd CRH.GATED_TOUCHES = s.rd CRH.GATED_TOUCHES ∧ t.rd (CRH.GATE_TOUCH u) = s.rd (CRH.GATE_TOUCH u)
  let fine := wellPlaced (destOf r.addr s) r = true
  (r.op = .read → fine → Gives (.meshRead r f ecc) s (touched 0)) ∧
    (r.op = .write → fine → Gives (.meshWrite r f) s (touched 1)) ∧ (r.op = .orw → fine → Gives (.meshOr r f) s (touched 1)) ∧
    (r.op = .read → ¬fine → Gives (.meshRead r f ecc) s refused) ∧ (r.op = .write → ¬fine → Gives (.meshWrite r f) s refused) ∧
    (r.op = .orw → ¬fine → Gives (.meshOr r f) s refused)

/-- DRAM addresses (09 R255): with k = 2 ^ j ways, address a goes to way a[8 + j - 1:8] at channel address a[7:0] + ((a >> (8
+ j)) << 8). So a granule of 256 bytes lies whole in one channel, consecutive granules rotate over the ways, and the way and
the channel address give the address back. -/
def Obligations.GranulesRotate : Prop := ∀ (j a : Nat) (s : State), j ≤ 2 → s.rd DMC.WAYS = 2 ^ j → (ways s).length = 2 ^ j →
  regionOf a s = 0 →
  destOf a s = (0, (ways s).getD ((a >>> 8) % 2 ^ j) 0) ∧ chanAddr a s = a % 256 + ((a >>> (8 + j)) <<< 8) ∧
    (∀ b, regionOf b s = 0 → b >>> 8 = a >>> 8 → destOf b s = destOf a s) ∧
    (∀ i, regionOf (a + 256 * i) s = 0 → destOf (a + 256 * i) s = (0, (ways s).getD (((a >>> 8) % 2 ^ j + i) % 2 ^ j) 0)) ∧
    dramAddr (dmcFor a s) (chanAddr a s) s = a

/-- Bytes written read back, and no other byte changes: memory of every kind is little-endian (00 R3). -/
def Obligations.MemoryReadsBack : Prop := ∀ (m : List Host.Cell) (a n v : Nat),
  memRead (memWrite m a n v) a n = v % 256 ^ n ∧ (∀ b, b < a ∨ a + n ≤ b → memByte (memWrite m a n v) b = memByte m b) ∧
    (Memory.wf m → Memory.wf (memWrite m a n v)) ∧ memRead (memClear m a n) a n = 0 ∧
    (∀ b, b < a ∨ a + n ≤ b → memByte (memClear m a n) b = memByte m b) ∧
    memRead (memOr m a n v) a n = (memRead m a n ||| v) % 256 ^ n

/-- A READ from the debug port of a member that a READ empties returns the oldest entry, the word, the packet, the message with
its stamp, the captured edge, the log entry or the mailbox word, and leaves the part as it is: no mark, level or ledger changes
but the count of accesses, and byte 5 of the response holds OP plus 0x80 where the frame names no other OP (00 R10, 02 R39, 19
R496). Choices and readings of the model: log entry 36. -/
def Obligations.DebugReadsChangeNothing : Prop := ∀ (q : Req) (s : State), q.master = 9 → deaf q s = false →
  let silent := fun i => ∀ t, exec i s = .next t → (t.masterOf 9).resp.op = q.op.getD 0x81 ∧
    ∃ o m st len data, t = respond q 1 o m st len data s
  (∀ o m len v x, Dict.find o m = some x → x.acc = .rc → silent (.dictRead q o m len v)) ∧
  silent (.logPop q) ∧
  (∀ n, silent (.rxmsg q n) ∧ silent (.txts q n) ∧ silent (.capPop q n) ∧ silent (.dtxRead q n) ∧ silent (.tDrxRead q n) ∧
    silent (.pop q n) ∧ silent (.poprec q n)) ∧
  let both := fun (i : Instr) (k len data : Nat) => Takes q k len s →
    Gives i s (AnsweredWith q len data) ∧ Gives (.dictRead q (k / 256) (k % 256) 0 0) s (AnsweredWith q len data)
  (∀ r rest, s.sup.log = r :: rest → both (.logPop q) SUP.LOG_POP 24 (logBytes r)) ∧
  ∀ n, (∀ w rest, n < 64 → (s.sqOf n).head = w :: rest → both (.pop q n) (FCP.POP n) 8 w.1) ∧
    (∀ k, n < 64 → packetLen n s = some k →
      both (.poprec q n) (FCP.POPREC n) (8 * k) (wordsData (((s.sqOf n).head.take k).map (·.1)))) ∧
    (∀ e rest, n < 48 → s.bit TMU.HOST_LANES n = true → (s.laneTimeOf n).txts = e :: rest →
      both (.txts q n) (TMU.TXTS n) 24 (toTime128 e.1 + e.2 * 2 ^ 128)) ∧
    (∀ e rest, n < 48 → s.bit TMU.HOST_LANES n = true → (s.laneTimeOf n).rx = e :: rest →
      both (.rxmsg q n) (TMU.RXMSG n) 48 (e.1 % 2 ^ 256 + toTime128 e.2 * 2 ^ 256)) ∧
    (∀ e rest, n < 16 → (s.capOf n).q = e :: rest →
      both (.capPop q n) (TMU.CAP_POP n) 24 (toTime128 e.1 + (if e.2 then 2 ^ 128 else 0))) ∧
    (n < 65 → (s.tgtOf n).dtxFull = true → both (.dtxRead q n) (DBG.DTX n) 4 (s.tgtOf n).dtx) ∧
    (n < 65 → (s.tgtOf n).drxFull = true → both (.tDrxRead q n) (DBG.T_DRX n) 4 (s.tgtOf n).drx)

/-- Commands of VEN.CTRL: in the states that take them they are acknowledged and have their effect (03 R71, R72, R78, R102,
R103, R107). Choices and readings of the model: log entries 6, 12. -/
def Obligations.VeCommandsComplete : Prop := ∀ (q : Req) (n : Nat) (s : State), n < 32 →
  (Writes q (VEN.CTRL n) 1 1 s → veState n s = 0 →
    Gives (.veEnable q n) s fun t => Answered q 0 t ∧ veState n t = 1) ∧
  (Writes q (VEN.CTRL n) 1 2 s → veState n s = 1 ∨ veState n s = 5 ∨ veState n s = 6 →
    Gives (.veDisable q n) s fun t => Answered q 0 t ∧ veState n t = 0) ∧
  (Writes q (VEN.CTRL n) 1 3 s → (∀ c ∈ veStartConds n s, c.1 = false) →
    Gives (.veStart q n) s fun t => Answered q 0 t ∧ veState n t = 2 ∧ (t.veOf n).prior = veState n s) ∧
  (Writes q (VEN.CTRL n) 1 4 s → (∀ c ∈ veStartAtConds n s, c.1 = false) →
    Gives (.veStartAt q n) s fun t => Answered q 0 t ∧ veState n t = 2 ∧ t.bit (VEN.FLAGS n) 7 = true ∧
      t.sched = s.sched ++ [⟨false, n, ofTime128 (s.rd (VEN.START_AT n))⟩]) ∧
  (Writes q (VEN.CTRL n) 1 5 s → veState n s = 3 →
    Gives (.veHalt q n) s fun t => Answered q 0 t ∧ veState n t = 3 ∧
      (t.veOf n).haltAt = earlier (s.veOf n).haltAt (stopFrom s.now)) ∧
  (Writes q (VEN.CTRL n) 1 6 s → veState n s = 4 → (s.veOf n).stopAt = none →
    Gives (.veResume q n) s fun t => Answered q 0 t ∧ veState n t = 4 ∧
      (t.veOf n).resumeAt = earlier (s.veOf n).resumeAt (engEdge s.now + 64 * ticksPerNs)) ∧
  (Writes q (VEN.CTRL n) 1 7 s → veState n s = 3 ∨ veState n s = 4 →
    Gives (.veStop q n) s fun t => Answered q 0 t ∧ veState n t = veState n s ∧
      (t.veOf n).stopAt = earlier (s.veOf n).stopAt (stopFrom s.now)) ∧
  (Writes q (VEN.CTRL n) 1 7 s → veState n s = 2 → (s.veOf n).prior ≠ 2 →
    Gives (.veStop q n) s fun t => Answered q 0 t ∧ veState n t = (s.veOf n).prior) ∧
  (Writes q (VEN.CTRL n) 1 8 s → veState n s = 6 →
    Gives (.veClearFault q n) s fun t => Answered q 0 t ∧ veState n t = 1) ∧
  (Writes q (VEN.CTRL n) 1 9 s → veState n s = 1 ∨ veState n s = 5 ∨ veState n s = 6 →
    Gives (.veSelfcheck q n) s fun t => Answered q 0 t ∧ veState n t = 7 ∧ (t.veOf n).prior = veState n s)

/-- Words of a program: the cycle begins, is counted, and the word has its effect (03 R85 to R97); that of EVT comes as its cycle
ends. The pins of an issued cycle: an OUT position that drives places the data edges of the format of its timing set and sets N
with its enable edge, one that does not clears N with it, and after them L is the data bit of a format that does not return (06
R172, R173, R176, R179; 04 R114). An IN position that compares a steady input samples it at its strobes, and fails where one
disagrees with its data bit; the result waits for the decisions, unless the word masks it in FAIL, and goes to fail capture with
the cycle's timing set, address and site (06 R180; 04 R115; 03 R92; 08 R215, R216). Choices and readings of the
model: log entries 9, 11, 12. -/
def Obligations.VeWordsComplete : Prop := (∀ (n w a : Nat) (fresh : Bool) (smp : Samples) (s : State), VeDecides n w a fresh s →
  (wOpc w = 0 → Gives (.vec n smp) s (VeIssued n a s)) ∧
  (wOpc w = 1 → Gives (.rpt n smp) s fun t => VeIssued n a s t ∧ (t.veOf n).rptLeft =
    if fresh then (if wOperand w = 0 then 2 ^ 32 else wOperand w) - 1 else (s.veOf n).rptLeft - 1) ∧
  (wOpc w = 2 → Gives (.veLdc n smp) s fun t => VeIssued n a s t ∧ t.rd (VEN.CTR n (wSel w)) = wOperand w) ∧
  (wOpc w = 3 → Gives (.loop n smp) s fun t => VeIssued n a s t ∧
    t.rd (VEN.CTR n (wSel w)) = (s.rd (VEN.CTR n (wSel w)) + (2 ^ 32 - 1)) % 2 ^ 32 ∧
    (t.veOf n).after = if t.rd (VEN.CTR n (wSel w)) = 0 then .seq else .goto (wOperand w)) ∧
  (wOpc w = 4 → Gives (.veJmp n smp) s fun t => VeIssued n a s t ∧ (t.veOf n).after = .goto (wOperand w)) ∧
  (wOpc w = 5 → Gives (.call n smp) s fun t => VeIssued n a s t ∧ (t.veOf n).after = .goto (wOperand w) ∧
    (t.veOf n).stack = (s.veOf n).stack ++ [a + 1]) ∧
  (wOpc w = 6 → Gives (.ret n smp) s fun t => VeIssued n a s t ∧
    (t.veOf n).after = .goto ((s.veOf n).stack.getLastD 0) ∧ (t.veOf n).stack = (s.veOf n).stack.dropLast) ∧
  (wOpc w = 7 → Gives (.jc n smp) s fun t => VeIssued n a s t ∧ (t.veOf n).after = .jc (wSel w) (wOperand w)) ∧
  (wOpc w = 8 → fresh = true → Gives (.clrf n smp) s fun t => VeIssued n a s t ∧ t.bit (VEN.FLAGS n) 1 = false) ∧
  (wOpc w = 9 → Gives (.mbeg n smp) s fun t => VeIssued n a s t ∧ t.bit (VEN.FLAGS n) 5 = true ∧
    ∃ l, (t.veOf n).loop = some l ∧ l.body = a + 1 ∧ l.t = if wOperand w = 0 then 2 ^ 32 else wOperand w) ∧
  (wOpc w = 10 → Gives (.matchEnd n smp) s fun t => VeIssued n a s t ∧ (t.veOf n).after = .matchEnd) ∧
  (wOpc w = 11 → fresh = true → Gives (.bar n smp) s fun t => VeIssued n a s t ∧ t.bit (VEN.FLAGS n) 6 = true ∧
    (t.veOf n).bar = some (wOperand w, veBoundary n s)) ∧
  (wOpc w = 12 → Gives (.veEvt n smp) s fun t => VeIssued n a s t ∧
    let e := veBoundary n t
    eventsNow n (t.upto e) = min (eventsNow n (s.upto e) + 1) (2 ^ 32 - 1) ∧
    (s.bit HDI.STATUS 1 = true → (e, 65 + 2 * n) ∈ t.evq)) ∧
  (wOpc w = 13 → Gives (.veHaltWord n smp) s fun t => VeIssued n a s t ∧ (t.veOf n).endAt ≠ none)) ∧
  (∀ (n w a : Nat) (fresh : Bool) (smp : Samples) (s : State), VeDecides n w a fresh s → wOpc w = 0 → wDsrc w = 0 →
  ((outMap n s).map (·.2)).Nodup → ((inMap n s).map (·.1)).Nodup → ((inMap n s).map (·.2)).Nodup →
  (∀ e ∈ outMap n s ++ inMap n s, e.2 < 256) →
  let b := veBoundary n s
  let k := wTset w
  Gives (.vec n smp) s fun t =>
    (∀ p c, (p, c) ∈ outMap n s →
      let set := s.rd (EDG.OTSET c k)
      let act := actionOf n k p s
      let es := formatEdges set b ((wData w).testBit p)
      let en := b + tfield set 3
      let old := ((s.outOf c).settle (max s.now (b - 18 * ticksPerNs))).edges
      spaced (s.outOf c).lastEn en = true →
      (act = 0 ∨ act = 2 → allSpaced (s.outOf c).lastData (es.map (·.1)) = true →
        (t.outOf c).edges = old ++ es.filterMap (fun e => e.2.map fun o => (e.1, o)) ++ [(en, .drive true)] ∧
        (outFormat set = 0 → ∀ u, (∀ e ∈ (t.outOf c).edges, e.1 ≤ u) → (t.outOf c).levels u = ((wData w).testBit p, true))) ∧
      (act ≠ 0 → act ≠ 2 → act ≠ 4 → (t.outOf c).edges = old ++ [(en, .drive false)] ∧
        ∀ u, (∀ e ∈ (t.outOf c).edges, e.1 ≤ u) → ((t.outOf c).levels u).2 = false)) ∧
    ∃ r, (t.fcpOf n).cycles = (s.fcpOf n).cycles ++ [r] ∧ r.cyc = (s.veOf n).cyc ∧ r.pc = a ∧ r.addr = a ∧ r.tset = k ∧
      r.site = s.rd (VEN.SITE_TAG n) ∧ r.mode = s.rd (FCP.MODE n) ∧
      (smp.chg = [] → ∀ p c, (p, c) ∈ inMap n s → actionOf n k p s = 1 ∨ actionOf n k p s = 2 →
        let set := s.rd (EDG.ITSET c k)
        let d := (wData w).testBit p
        let v := xor (smp.level.testBit p) (decide (s.rd (EDG.IPOL c) = 1))
        let marks := inMarks set (actionOf n k p s)
        let bad := if inMode set = 2 then true else v != d
        allSpaced (s.inOf c).last (marks.map (b + ·)) = true →
        ⟨b + marks.getLastD 0 + deskewLate c s, (s.veOf n).cyc, bad, wMaskf w⟩ ∈ (t.veOf n).cmps ∧
          r.fv.testBit p = (bad && !(wMaskf w))))

/-- What ends, starts and lands on VEn at an instant of its own: with the condition of the row met, the effect of the row (03 R72,
R76, R77, R97, R98, R100, R102, R103, R106, R107). A stop parks the pins: from its boundary on no edge of an earlier cycle is
placed, and L and N take the park state of the active timing set (06 R176, R182, R183). Choices and readings of the model: log
entries 5, 12, 19, 40, 41, 47. -/
def Obligations.VeEventsComplete : Prop := ∀ (n : Nat) (s : State), n < 32 →
  (∀ e, veState n s = 2 → startEdge n s = some e →
    Gives (.veStartEdge n) s fun t => veState n t = 3 ∧ t.rd (VEN.CYCLES n) = 0 ∧ t.rd (VEN.PTO_LEFT n) = s.rd (VEN.PTO n)) ∧
  (∀ pass, veState n s = 7 → (s.veOf n).prior ≠ 2 →
    Gives (.veSelfcheckEnd n pass) s fun t => veState n t = (s.veOf n).prior ∧ t.rd (VEN.SELFCHECK n) = if pass then 1 else 2) ∧
  (endsAt n (veBoundary n s) s = true → due (s.veOf n).barErr (veBoundary n s) = true → (s.veOf n).lands = [] →
    Gives (.barrierError n) s fun t => veState n t = 6 ∧ t.rd (VEN.FAULT n) = 6) ∧
  (endsAt n (veBoundary n s) s = true → timedFault n (veBoundary n s) s = some 4 → (s.veOf n).lands = [] →
    Gives (.patternTimeout n) s fun t => veState n t = 6 ∧ t.rd (VEN.FAULT n) = 4) ∧
  (endsAt n (veBoundary n s) s = true → due (s.veOf n).haltAt (veBoundary n s) = true →
    (faultAt n (veBoundary n s) s).2 = none → due (s.veOf n).stopAt (veBoundary n s) = false → (s.veOf n).lands = [] →
    Gives (.veHaltTakesEffect n) s fun t => veState n t = 4 ∧ (((outMap n s).map (·.2)).Nodup → Parked n (veBoundary n s) s t)) ∧
  (∀ h, endsAt n (veBoundary n s) s = true → (s.veOf n).stopAt = some h → h ≤ veBoundary n s →
    (faultAt n (veBoundary n s) s).2 = none → (s.veOf n).lands = [] → Gives (.veStopTakesEffect n) s fun t => veState n t = 5 ∧
      (((outMap n s).map (·.2)).Nodup → Parked n (veBoundary n s) s t)) ∧
  (∀ h, veState n s = 4 → (s.veOf n).stopAt = some h → (s.veOf n).lands = [] →
    Gives (.veStopTakesEffect n) s fun t => veState n t = 5) ∧
  (∀ h smp, veState n s = 3 → (s.veOf n).endAt = some h → (s.veOf n).lands = [] →
    Gives (.veHaltWord n smp) s fun t => veState n t = 5) ∧
  (∀ h, veState n s = 4 → (s.veOf n).resumeAt = some h → Gives (.veResumeLands n) s fun t => veState n t = 3) ∧
  (∀ l e, issuing n s = true → landDue n (veBoundary n s) s = true → landsBy n (veBoundary n s) s = l ++ [e] →
    e.key ≠ VEN.LAND_CYCLE n →
    Gives (.applyLandsRunning n) s fun t => t.rd e.key = e.val ∧ t.rd (VEN.LAND_CYCLE n) = (s.veOf n).cyc ∧
      ∀ x ∈ (t.veOf n).lands, veBoundary n s < x.1)

/-- A fault that the decision for the next cycle of VEn finds ends the run: FAULTED, with the cause and the address of the
faulting word, whichever word the command names (03 R105). The decision itself: a failed compare that it knows sets FAIL and
FAIL_RUN unless masked, JC goes by its condition, MATCH leaves its loop on a pass with MTO clear and at its timeout with MTO set,
and else goes back to the body; a second taken transfer within 1 ns, a word that is invalid, a push to a full stack, a pop of an
empty one, MBEG within a loop and MATCH outside one fault with their causes (03 R83, R87, R88, R90, R92 to R95). A met barrier
whose engines have all come to their boundary releases them: none of them waits any more, and AT_BAR reads 0 (03 R97). The vector
buffer's reads: a wanted line is requested and counted; its answer is counted, its data stored in the slot of the line, and no
other byte of memory changes; the answer of a read for a run that has ended is counted and its data discarded (04 R120 to R122,
R126). Which address and which of two faults are recorded where the spec leaves it open, how the path is predicted there, and
which line makes room are the model's choices: log entries 5, 7, 40, 42. -/
def Obligations.VeFaultsBarriersLines : Prop :=
  (∀ (n cause a : Nat) (u s : State) (smp : Samples), n < 32 → issuing n s = true →
  blocked n (veBoundary n s) s = false → (s.veOf n).lands = [] →
  decideNext n (s.upto (veBoundary n s - 18 * ticksPerNs)) = (u, .fault cause a) →
  ∀ i ∈ [.vec n smp, .rpt n smp, .veLdc n smp, .loop n smp, .veJmp n smp, .call n smp, .ret n smp, .jc n smp, .clrf n smp,
    .mbeg n smp, .matchEnd n smp, .bar n smp, .veEvt n smp, .veHaltWord n smp],
  Gives i s (VeFaulted n cause a)) ∧
  (∀ (n : Nat) (smp : Samples) (s : State), VeChooses n s →
  let b := veBoundary n s
  let e := s.veOf n
  let u := veKnows n s
  let flag := fun k (t : State) => t.bit (VEN.FLAGS n) k
  let fails := fun (x : Cmp) => x.bad && !x.masked && decide (x.ts + 24 * ticksPerNs ≤ b)
  let far := ∀ x, e.lastXfer = some x → x + ticksPerNs ≤ b
  let near := ∃ x, e.lastXfer = some x ∧ b < x + ticksPerNs
  let goes := fun a (P : State → Prop) => ∀ w, VecAt n a w s → Gives (.vec n smp) s fun t => VeIssued n a s t ∧ P t
  let same := fun t => flag 1 t = flag 1 u ∧ flag 2 t = flag 2 u
  (flag 1 u = (flag 1 s || e.cmps.any fun x => fails x && decide (e.clrf ≤ x.cyc)) ∧ flag 2 u = (flag 2 s || e.cmps.any fails) ∧
    flag 3 u = flag 3 s ∧ flag 4 u = flag 4 s) ∧
  (e.after = .seq → goes e.next same) ∧
  (∀ d, e.after = .goto d → (far → goes d same) ∧ (near → Gives (.vec n smp) s (VeFaulted n 5 d))) ∧
  (∀ c d, e.after = .jc c d → c < 6 →
    let holds := [flag 1 u, !(flag 1 u), flag 4 u, !(flag 4 u), flag 3 u, !(flag 3 u)].getD c false
    (holds = true → far → goes d same) ∧ (holds = true → near → Gives (.vec n smp) s (VeFaulted n 5 d)) ∧
      (holds = false → goes e.next same)) ∧
  (∀ l, e.after = .matchEnd → (u.veOf n).loop = some l →
    let iters := l.iters.map fun i => { i with stop := some (i.stop.getD e.cyc) }
    let passed := iters.any (iterPassed (u.veOf n).cmps)
    (passed = true → goes e.next fun t => (t.veOf n).loop = none ∧ flag 5 t = false ∧ flag 4 t = false) ∧
    (passed = false → l.c0 + l.t ≤ e.cyc → goes e.next fun t => (t.veOf n).loop = none ∧ flag 5 t = false ∧ flag 4 t = true) ∧
    (passed = false → e.cyc < l.c0 + l.t → far → goes l.body fun t => flag 4 t = flag 4 s ∧
      (t.veOf n).loop = some { l with iters := (iters.filter fun i => !i.bad) ++ [⟨e.cyc, none, false⟩] })) ∧
  (∀ c, e.after = .seq → fetchWord n e.next s = .error c → Gives (.vec n smp) s (VeFaulted n c e.next)) ∧
  ∀ w, e.after = .seq → fetchWord n e.next s = .ok w →
    (wInvalid w = true → Gives (.vec n smp) s (VeFaulted n 1 e.next)) ∧
    (wInvalid w = false → (wOpc w = 5 → 16 ≤ e.stack.length → Gives (.vec n smp) s (VeFaulted n 2 e.next)) ∧
      (wOpc w = 6 → e.stack = [] → Gives (.vec n smp) s (VeFaulted n 3 e.next)) ∧
      (wOpc w = 9 → e.loop ≠ none → Gives (.vec n smp) s (VeFaulted n 9 e.next)) ∧
      (wOpc w = 10 → e.loop = none → Gives (.vec n smp) s (VeFaulted n 9 e.next)))) ∧
  (∀ (mask n : Nat) (s : State), n < 32 → mask.testBit n = true →
  barrierMet mask s = true → (∀ m < 32, mask.testBit m = true → lastArrival mask s + 32 * ticksPerNs ≤ veBoundary m s) →
  Gives (.barrierRelease mask) s fun t => (t.veOf n).bar = none ∧ t.bit (VEN.FLAGS n) 6 = false) ∧
  (∀ (n : Nat) (s : State), n < 32 →
  (∀ l, veLive n s = true → (s.veOf n).inflight.length + (s.veOf n).stale.length < 32 → nextLine n s = some l →
    let a := fillVal n (VEN.PROG_BASE n) s + 256 * l
    Gives (.lineReadIssue n) s fun t => t.rd (VEN.REFILL_ISSUED n) = min (s.rd (VEN.REFILL_ISSUED n) + 1) (2 ^ 64 - 1) ∧
      (t.veOf n).inflight = (s.veOf n).inflight ++ [(l, a)] ∧
      (regionOf a s ≠ 6 → t.reqs = s.reqs ++ [⟨.read, .veLine n l, veNode n, 0, a, 256, 0⟩])) ∧
  (∀ line fl x y u, respFor (.veLine n line) s = some x → canReturn x s = true → y = arrived fl x s →
    u = (respTaken y (noteReturn fl x s)).bump 64 (VEN.REFILL_DONE n) →
    ((line, x.req.addr) ∉ (s.veOf n).stale →
      Gives (.lineReadComplete n ⟨line, fl⟩) s fun t =>
        t.rd (VEN.REFILL_DONE n) = min (s.rd (VEN.REFILL_DONE n) + 1) (2 ^ 64 - 1) ∧
        (t.veOf n).lines = ((s.veOf n).lines.filter fun l => !(Nat.beq l.slot (slotFor n line u))) ++
          [⟨line, slotFor n line u, 0, y.kind != 0⟩] ∧
        t.mem = if y.kind = 0 then memWrite s.mem (bufAddr n + 256 * slotFor n line u) 256 y.data else s.mem) ∧
    ((line, x.req.addr) ∈ (s.veOf n).stale →
      Gives (.lineReadComplete n ⟨line, fl⟩) s fun t =>
        t.rd (VEN.REFILL_DONE n) = min (s.rd (VEN.REFILL_DONE n) + 1) (2 ^ 64 - 1) ∧ (t.veOf n).lines = (s.veOf n).lines ∧
        (t.veOf n).stale = (s.veOf n).stale.erase (line, x.req.addr) ∧ t.mem = s.mem)))

/-- Fail capture: a waiting cycle is processed and counted, the merge stage empties at its timeout, a formed operation is sent,
and a record moves into the tail of its queue (08 R216, R222, R238, R240, R241). The mover and the ring of a spill queue: words go
straight to the head while the ring is empty and the head has room, else in lines of 31 words; each transfer changes the line's
state, and an answered read fills the head, behind the words of older reads (08 R224 to R227). Words that a ring write or a ring
read loses to an error are counted, its line is free again, nothing of it enters the head, and the queue is DAMAGED with its flag
(08 R231). Choices and readings of the model: log entries 5, 21, 57. -/
def Obligations.FailCaptureCompletes : Prop :=
  (∀ (n : Nat) (s : State), n < 32 →
  (∀ c rest, (s.fcpOf n).cycles = c :: rest →
    Gives (.failCycle n) s fun t => (t.fcpOf n).cycles = rest ∧
      t.rd (FCP.FAILCYC n) = if c.fv = 0 then s.rd (FCP.FAILCYC n) else min (s.rd (FCP.FAILCYC n) + 1) (2 ^ 64 - 1)) ∧
  (∀ o, (s.fcpOf n).bmOpen = some o →
    Gives (.mergeTimeout n) s fun t => (t.fcpOf n).bmOpen = none ∧
      t.rd (FCP.BM_FORMED n) = min (s.rd (FCP.BM_FORMED n) + 1) (2 ^ 64 - 1)) ∧
  (∀ op rest, (s.fcpOf n).bmFifo = op :: rest → regionOf op.addr s = 6 ∨ creditFree (bitmapReq n op) s = true →
    Gives (.bitmapIssue n) s fun t => (t.fcpOf n).bmFifo = rest ∧
      t.rd (FCP.BM_INFLIGHT n) = min (s.rd (FCP.BM_INFLIGHT n) + 1) (2 ^ 16 - 1)) ∧
  (∀ ws rest, (s.fcpOf n).cap = ws :: rest → s.rd (FCP.Q_STATE n) ≠ 0 → (s.sqOf n).tail.length + 4 ≤ 64 →
    Gives (.recordToTail n) s fun t => (t.fcpOf n).cap = rest ∧
      (t.sqOf n).tail = (s.sqOf n).tail ++ (ws.take 3).map (·, false) ++ (ws.drop 3).map (·, true) ∧
      t.rd (FCP.REC_QUEUED n) = min (s.rd (FCP.REC_QUEUED n) + 1) (2 ^ 64 - 1))) ∧
  (∀ (q : Nat) (s : State), q < 64 →
  (s.rd (FCP.Q_STATE q) ≠ 0 → movesDirect q s = true → (s.sqOf q).tail ≠ [] →
    Gives (.tailToHeadMove q) s fun t =>
      (t.sqOf q).head = (s.sqOf q).head ++ (s.sqOf q).tail.take (min 8 (headRoom q s)) ∧
      (t.sqOf q).tail = (s.sqOf q).tail.drop (min 8 (headRoom q s))) ∧
  (s.rd (FCP.Q_STATE q) ≠ 0 → movesDirect q s = false → 31 ≤ (s.sqOf q).tail.length → ringFull q s = false → writesOf q s < 32 →
    Gives (.ringWriteIssue q) s fun t => (t.sqOf q).tail = (s.sqOf q).tail.drop 31 ∧
      (t.sqOf q).ring = (s.sqOf q).ring ++ [(ringLine q s, .writing)] ∧ (t.sqOf q).seq = (s.sqOf q).seq + 1) ∧
  (∀ l, s.rd (FCP.Q_STATE q) ≠ 0 → 31 ≤ headRoom q s → readsOf q s < 2 → nextRead q s = some l →
    Gives (.ringReadIssue q) s fun t => (t.sqOf q).head = (s.sqOf q).head ∧
      (t.sqOf q).ring = (s.sqOf q).ring.map fun e => if e.1 = l then (l, .reading) else e) ∧
  (∀ line fl x i, respFor (.ringWrite q line) s = some x → canReturn x s = true → (arrived fl x s).kind ≠ 2 →
    (s.sqOf q).ring.find? (fun e => Nat.beq e.1 line) = some (i, .writing) →
    Gives (.ringWriteDone q line ⟨false, fl⟩) s fun t => t.rd (FCP.Q_STATE q) = s.rd (FCP.Q_STATE q) ∧
      (t.sqOf q).ring = (s.sqOf q).ring.map fun e => if e.1 = line then (line, .written) else e) ∧
  (∀ l fl x i, respFor (.ringRead q) s = some x → canReturn x s = true → (arrived fl x s).kind ≠ 2 →
    l = (x.req.addr - s.rd (FCP.Q_RING_BASE q)) / 256 →
    (s.sqOf q).ring.find? (fun e => Nat.beq e.1 l) = some (i, .reading) →
    Gives (.ringReadDone q ⟨false, fl⟩) s fun t => (t.sqOf q).ring = ((s.sqOf q).ring.filter fun e => !(Nat.beq e.1 l)) ∧
      (olderRead q l s = false → (t.sqOf q).early = [] ∧
        (t.sqOf q).head = (s.sqOf q).head ++ blockWords (arrived fl x s).data ++ (s.sqOf q).early) ∧
      (olderRead q l s = true → (t.sqOf q).head = (s.sqOf q).head ∧
        (t.sqOf q).early = (s.sqOf q).early ++ blockWords (arrived fl x s).data))) ∧
  (∀ (q line i : Nat) (fl : List Flit) (x : MeshResp) (s : State), q < 64 →
  respFor (.ringWrite q line) s = some x → canReturn x s = true → (arrived fl x s).kind = 2 →
  (s.sqOf q).ring.find? (fun e => Nat.beq e.1 line) = some (i, .writing) →
  Gives (.ringWriteDone q line ⟨true, fl⟩) s fun t => t.rd (FCP.Q_STATE q) = 2 ∧
    t.rd (FCP.Q_ERR_WORDS q) = min (s.rd (FCP.Q_ERR_WORDS q) + 31) (2 ^ 64 - 1) ∧ t.bit (FCP.Q_EVFLAGS q) 5 = true ∧
    (t.sqOf q).ring = (s.sqOf q).ring.filter fun e => !(Nat.beq e.1 line)) ∧
  (∀ (q l i : Nat) (fl : List Flit) (x : MeshResp) (s : State), q < 64 →
  respFor (.ringRead q) s = some x → canReturn x s = true → (arrived fl x s).kind = 2 →
  l = (x.req.addr - s.rd (FCP.Q_RING_BASE q)) / 256 →
  (s.sqOf q).ring.find? (fun e => Nat.beq e.1 l) = some (i, .reading) →
  Gives (.ringReadDone q ⟨true, fl⟩) s fun t => t.rd (FCP.Q_STATE q) = 2 ∧
    t.rd (FCP.Q_ERR_WORDS q) = min (s.rd (FCP.Q_ERR_WORDS q) + 31) (2 ^ 64 - 1) ∧ t.bit (FCP.Q_EVFLAGS q) 5 = true ∧
    (t.sqOf q).ring = ((s.sqOf q).ring.filter fun e => !(Nat.beq e.1 l)) ∧
    t.rd (FCP.Q_OUT q) = s.rd (FCP.Q_OUT q) ∧ t.rd (FCP.Q_IN q) = s.rd (FCP.Q_IN q) ∧
    (olderRead q l s = false → (t.sqOf q).head = (s.sqOf q).head ++ (s.sqOf q).early ∧ (t.sqOf q).early = []) ∧
    (olderRead q l s = true → (t.sqOf q).head = (s.sqOf q).head ∧ (t.sqOf q).early = (s.sqOf q).early))

/-- The accesses to a spill queue and to the fail counters (08 R228 to R233, R238). Choices and readings of the model: log entries
6, 9, 57. -/
def Obligations.QueueAccessesComplete : Prop := ∀ (r : Req) (q : Nat) (s : State), q < 64 →
  (∀ w rest, Takes r (FCP.POP q) 8 s → r.master ≠ 9 → (s.sqOf q).head = w :: rest →
    Gives (.pop r q) s fun t => AnsweredWith r 8 w.1 t ∧ (t.sqOf q).head = rest ∧
      t.rd (FCP.Q_OUT q) = min (s.rd (FCP.Q_OUT q) + 1) (2 ^ 64 - 1)) ∧
  (∀ k, packetLen q s = some k → Takes r (FCP.POPREC q) (8 * k) s → r.master ≠ 9 →
    Gives (.poprec r q) s fun t => AnsweredWith r (8 * k) (wordsData (((s.sqOf q).head.take k).map (·.1))) t ∧
      (t.sqOf q).head = (s.sqOf q).head.drop k ∧ t.rd (FCP.Q_OUT q) = min (s.rd (FCP.Q_OUT q) + k) (2 ^ 64 - 1)) ∧
  (Writes r (FCP.Q_CTRL q) 1 1 s → (∀ c ∈ queueEnableConds q s, c.1 = false) →
    Gives (.queueEnable r q) s fun t => Answered r 0 t ∧ t.rd (FCP.Q_STATE q) = 1 ∧ qWords q t = 0 ∧ (t.sqOf q).seq = 0) ∧
  (Writes r (FCP.Q_CTRL q) 1 2 s → (∀ c ∈ queueDisableConds q s, c.1 = false) →
    Gives (.queueDisable r q) s fun t => Answered r 0 t ∧ t.rd (FCP.Q_STATE q) = 0) ∧
  (Writes r (FCP.Q_CTRL q) 1 3 s → (∀ c ∈ flushConds q s, c.1 = false) →
    Gives (.flush r q) s fun t => Answered r 0 t ∧ t.rd (FCP.Q_STATE q) = 1 ∧ t.rd (FCP.Q_PKTS q) = 0 ∧
      (t.sqOf q).tail = [] ∧ (t.sqOf q).head = []) ∧
  (∀ v, Writes r (FCP.PUSH q) 8 v s → (∀ c ∈ pushConds q false s, c.1 = false) →
    Gives (.push r q v) s fun t => Answered r 0 t ∧ (t.sqOf q).tail = (s.sqOf q).tail ++ [(v % 2 ^ 64, false)] ∧
      t.rd (FCP.Q_IN q) = min (s.rd (FCP.Q_IN q) + 1) (2 ^ 64 - 1)) ∧
  (∀ v, Writes r (FCP.PUSH_END q) 8 v s → (∀ c ∈ pushConds q true s, c.1 = false) →
    Gives (.pushEnd r q v) s fun t => Answered r 0 t ∧ (t.sqOf q).tail = (s.sqOf q).tail ++ [(v % 2 ^ 64, true)] ∧
      (t.sqOf q).pkt = 0 ∧ t.rd (FCP.Q_IN q) = min (s.rd (FCP.Q_IN q) + 1) (2 ^ 64 - 1)) ∧
  (∀ c v, c < 256 → Writes r (FCP.FCOUNT_CLR c) 1 v s → (∀ x ∈ fcountConds c s, x.1 = false) →
    Gives (.fcountClr r c v) s fun t => Answered r 0 t ∧ t.rd (FCP.FCOUNT c) = 0)

/-- The operations of a cell: R and CO of each OP, on the X, Y, C and K that the instruction selects (05 R144, R145). Choices
and readings of the model: log entries 22, 23, 24. -/
def Obligations.CellOperationsComplete : Prop := ∀ (col row : Nat) (s : State),
  (CellRuns col row 0x00 s → Gives (.cellPass col row) s (CellGives col row (fun _ y _ _ => (y, false)) s)) ∧
  (CellRuns col row 0x01 s → Gives (.cellAdd col row) s (CellGives col row
    (fun x y c _ => (x + y + carryWord c, decide (2 ^ 16 ≤ x.toNat + y.toNat + (carryWord c).toNat))) s)) ∧
  (CellRuns col row 0x02 s → Gives (.cellSub col row) s (CellGives col row
    (fun x y c _ => (x + ~~~y + carryWord c, decide (2 ^ 16 ≤ x.toNat + (~~~y).toNat + (carryWord c).toNat))) s)) ∧
  (CellRuns col row 0x03 s → Gives (.cellAnd col row) s (CellGives col row (fun x y _ _ => (x &&& y, false)) s)) ∧
  (CellRuns col row 0x04 s → Gives (.cellOr col row) s (CellGives col row (fun x y _ _ => (x ||| y, false)) s)) ∧
  (CellRuns col row 0x05 s → Gives (.cellXor col row) s (CellGives col row (fun x y _ _ => (x ^^^ y, false)) s)) ∧
  (CellRuns col row 0x06 s → Gives (.cellAndn col row) s (CellGives col row (fun x y _ _ => (x &&& ~~~y, false)) s)) ∧
  (CellRuns col row 0x07 s → Gives (.cellNot col row) s (CellGives col row (fun x _ _ _ => (~~~x, false)) s)) ∧
  (CellRuns col row 0x08 s → Gives (.cellShl1 col row) s (CellGives col row
    (fun x _ c _ => (x <<< 1 ||| carryWord c, x.getLsbD 15)) s)) ∧
  (CellRuns col row 0x09 s → Gives (.cellShl col row) s (CellGives col row (fun x y _ _ => (x <<< (y.toNat % 16), false)) s)) ∧
  (CellRuns col row 0x0A s → Gives (.cellShr col row) s (CellGives col row (fun x y _ _ => (x >>> (y.toNat % 16), false)) s)) ∧
  (CellRuns col row 0x0B s → Gives (.cellRol col row) s (CellGives col row
    (fun x y _ _ => (x.rotateLeft (y.toNat % 16), false)) s)) ∧
  (CellRuns col row 0x0C s → Gives (.cellBrev col row) s (CellGives col row (fun x _ _ _ => (x.reverse, false)) s)) ∧
  (CellRuns col row 0x0D s → Gives (.cellBsel col row) s (CellGives col row
    (fun x y _ k => (x &&& k ||| y &&& ~~~k, false)) s)) ∧
  (CellRuns col row 0x0E s → Gives (.cellEq col row) s (CellGives col row (fun x y c _ => (x ^^^ y, c && decide (x = y))) s)) ∧
  (CellRuns col row 0x0F s → Gives (.cellPar col row) s (CellGives col row
    (fun x _ c _ => (carryWord (parity x), xor c (parity x))) s)) ∧
  (CellRuns col row 0x10 s → Gives (.cellCntk col row) s (CellGives col row
    (fun x _ c k => (if c then (if x = k then 0#16 else x + 1#16) else x, c && decide (x = k))) s)) ∧
  (CellRuns col row 0x11 s → Gives (.cellMin col row) s (CellGives col row
    (fun x y _ _ => (if x.toNat < y.toNat then x else y, decide (x.toNat < y.toNat))) s)) ∧
  (CellRuns col row 0x12 s → Gives (.cellMax col row) s (CellGives col row
    (fun x y _ _ => (if y.toNat < x.toNat then x else y, decide (y.toNat < x.toNat))) s)) ∧
  (∀ op, 0x13 ≤ op → op ≤ 0x1F → CellRuns col row op s →
    Gives (.cellReservedOp col row) s (CellGives col row (fun _ _ _ _ => (0#16, false)) s))

/-- Facets: releasing and holding latch at acknowledgement and land on their FAB edge; the user words, the user request, the
mesh port, the APG port and an upset have their effect (05 R146, R151, R156, R157, R159, R161, R163; 04 R129, R130; 17 R447, R453).
Choices and readings of the model: log entries 6, 7, 20, 23, 24, 43. -/
def Obligations.FacetsComplete : Prop := ∀ (q : Req) (f : Nat) (s : State), f < 32 →
  (Writes q (FAB.CTRL f) 1 1 s → (∀ c ∈ releaseConds f s, c.1 = false) → released f s = false →
    Gives (.facetRelease q f) s fun t => Answered q 0 t ∧
      (t.facetOf f).relAt = earlier (s.facetOf f).relAt (fabEdge (s.now + ticksPerUs))) ∧
  (Writes q (FAB.CTRL f) 1 1 s → (∀ c ∈ releaseConds f s, c.1 = false) → released f s = true →
    Gives (.facetRelease q f) s fun t => Answered q 0 t ∧ t.facetOf f = s.facetOf f) ∧
  (Writes q (FAB.CTRL f) 1 2 s → (∀ c ∈ holdConds f s, c.1 = false) → released f s = true →
    Gives (.facetHold q f) s fun t => Answered q 0 t ∧
      (t.facetOf f).holdAt = earlier (s.facetOf f).holdAt (fabEdge (s.now + ticksPerUs))) ∧
  (Writes q (FAB.CTRL f) 1 2 s → (∀ c ∈ holdConds f s, c.1 = false) → released f s = false →
    Gives (.facetHold q f) s fun t => Answered q 0 t ∧ t.facetOf f = s.facetOf f) ∧
  (∀ e, (s.facetOf f).relAt = some e →
    Gives (.facetReleaseLands f) s fun t => released f t = true ∧ (t.facetOf f).relAt = none ∧ (t.facetOf f).since = e) ∧
  (∀ e, (s.facetOf f).holdAt = some e →
    Gives (.facetHoldLands f) s fun t => released f t = false ∧ (t.facetOf f).holdAt = none) ∧
  (∀ k v, k < 4 → Writes q (FAB.USER_IN f k) 8 v s →
    Gives (.userInWrite q f k v) s fun t => Answered q 0 t ∧ t.rd (FAB.USER_IN f k) = v ∧
      (t.facetOf f).userLand = fabEdge (s.now + 1)) ∧
  (released f s = true → (regsNow (cellKey (colOf f 0) (rowOf f 2)) s).f = true → (s.facetOf f).reqLast = false →
    Gives (.userReq f) s fun t => t.bit FAB.USER_REQ f = true ∧ (t.facetOf f).reqLast = true ∧
      (s.bit HDI.STATUS 1 = true → t.evq = if s.bit FAB.USER_REQ f = true ∨ s.sup.userReqAt = some (State.supCycle s.now)
        then s.evq else s.evq ++ [(s.now, 48)])) ∧
  (∀ op addr len data, released f s = true → (s.facetOf f).man.meshPort = true → clocked f s = true →
    s.rd (FAB.MESH_ISSUED f) - s.rd (FAB.MESH_DONE f) - s.rd (FAB.MESH_DISCARD f) < 32 →
    Gives (.facetMeshRequest f op addr len data) s fun t =>
      t.rd (FAB.MESH_ISSUED f) = min (s.rd (FAB.MESH_ISSUED f) + 1) (2 ^ 64 - 1) ∧
      (regionOf addr s ≠ 6 → t.reqs = s.reqs ++ [⟨op, .facet f, veNode f, 3, addr, len, data⟩])) ∧
  (∀ e k, e = (if fabEdge s.now ≤ (s.veOf f).apgAt then (s.veOf f).apgAt + fabClk else fabEdge s.now) → k = apgTaken f e s →
    0 < k → Gives (.apgTransfer f) s fun t => t.rd (VEN.APG_TAKEN f) = min (s.rd (VEN.APG_TAKEN f) + k) (2 ^ 64 - 1) ∧
      (t.veOf f).fifo = (s.veOf f).fifo ++ (List.range k).map fun i => ⟨e, apgSlot f i e s⟩) ∧
  (∀ u : Upset, u.f = f → u.target ≠ .own → Gives (.configUpset u) s fun t =>
    t.upsets = (if s.upsets.contains u then s.upsets.erase u else s.upsets ++ [u]) ∧
    (∀ i b key, u.target = .sel i b → key = cellKey (colOf f (u.u % 64)) (rowOf f (u.index % 64)) →
      selOf key (i % 8) t = selOf key (i % 8) s ^^^ 2 ^ (b % 32)) ∧
    ∀ i b k, u.target = .track i b → trackOf f (u.index % 64) i = some k →
      Tab.get (fun _ => 1) t.tracks k = Tab.get (fun _ => 1) s.tracks k ^^^ 2 ^ (b % selWidth i)) ∧
  (∀ u : Upset, u.f = f → u.target = .own → Gives (.configUpset u) s fun t => t.upsets = s.upsets ∧
    t.rd CFG.LOUPE_SELF_CE = min (s.rd CFG.LOUPE_SELF_CE + 1) (2 ^ 64 - 1) ∧ t.bit CFG.LOUPE_EVFLAGS 5 = true)

/-- Instructions of classes CTRL, RPT and ADDR: each issues, and has its effect (14 R371, R372, R377, R378, R380, R384).
Choices and readings of the model: log entries 9, 11. -/
def Obligations.DspControlComplete : Prop := ∀ (n w : Nat) (s : State),
  (DspIssues n 0 w s → Gives (.dspNop n) s (DspIssued n ((s.dspOf n).pc + 1) s)) ∧
  (DspIssues n 1 w s → Gives (.dspJmp n) s (DspIssued n (w % 2048) s)) ∧
  (DspIssues n 2 w s → Gives (.djnz n) s fun t =>
    let v := (reg0 (s.dspOf n).c (Dict.bitsOf w 55 54) + 65535) % 65536
    reg0 (t.dspOf n).c (Dict.bitsOf w 55 54) = v ∧ DspIssued n (if v = 0 then (s.dspOf n).pc + 1 else w % 2048) s t) ∧
  (DspIssues n 3 w s → Gives (.dspLdc n) s fun t => DspIssued n ((s.dspOf n).pc + 1) s t ∧
    reg0 (t.dspOf n).c (Dict.bitsOf w 55 54) = Dict.bitsOf w 47 32) ∧
  (DspIssues n 4 w s → Gives (.dspEvt n) s fun t => DspIssued n ((s.dspOf n).pc + 1) s t ∧
    t.rd (DSP.EVENTS n) = min (s.rd (DSP.EVENTS n) + 1) (2 ^ 32 - 1)) ∧
  (DspIssues n 5 w s → Gives (.dspHaltInsn n) s fun t => t.rd (DSP.PC n) = (s.dspOf n).pc ∧ t.rd (DSP.STATE n) = 4) ∧
  (DspIssues n 6 w s → Gives (.waitm n) s fun t => DspIssued n ((s.dspOf n).pc + 1) s t ∧ (t.dspOf n).moves = []) ∧
  (DspIssues n 7 w s → Gives (.bclr n) s fun t => DspIssued n ((s.dspOf n).pc + 1) s t ∧ t.rd (DSP.BEXP n) = 23) ∧
  (DspIssues n 8 w s → Gives (.blk n) s fun t => DspIssued n ((s.dspOf n).pc + 1) s t ∧ t.rd (DSP.BEXP n) = 23 ∧
    (t.dspOf n).bsh = s.rd (DSP.BEXP n) - Dict.bitsOf w 52 48 ∧
    t.rd (DSP.EXPACC n) = ofSigned 32 (min (toSigned 32 (s.rd (DSP.EXPACC n)) + ((t.dspOf n).bsh : Int)) 32767)) ∧
  (DspIssues n 0x60 w s → Gives (.dspRpt n) s fun t => t.rd (DSP.PC n) = (s.dspOf n).pc ∧ (t.dspOf n).pc = (s.dspOf n).pc + 1 ∧
    (t.dspOf n).rpt = some (w % 65536 + 1) ∧ t.rd (DSP.RPT_LEFT n) = w % 65536 + 1 ∧ t.bit (DSP.FLAGS n) 3 = true) ∧
  (DspIssues n 0x40 w s → Gives (.seta n) s fun t => DspIssued n ((s.dspOf n).pc + 1) s t ∧
    reg0 (t.dspOf n).a (Dict.bitsOf w 57 55) = w % 2 ^ 20) ∧
  (DspIssues n 0x41 w s → Gives (.seto n) s fun t => DspIssued n ((s.dspOf n).pc + 1) s t ∧
    reg0 (t.dspOf n).o (Dict.bitsOf w 57 55) = w % 2 ^ 20) ∧
  (DspIssues n 0x42 w s → Gives (.inca n) s fun t => DspIssued n ((s.dspOf n).pc + 1) s t ∧
    let a := reg0 (s.dspOf n).a (Dict.bitsOf w 57 55)
    reg0 (t.dspOf n).a (Dict.bitsOf w 57 55) = a / 2 ^ 14 * 2 ^ 14 + (a + w % 2 ^ 20) % 2 ^ 14)

/-- Instructions of classes ACC and VEC: the lanes of the destination hold the result, limited to their width (14 R374 to
R376). Choices and readings of the model: log entry 11. -/
def Obligations.DspVectorComplete : Prop := ∀ (n w : Nat) (s : State),
  let a := Dict.bitsOf w 55 54
  let next := (s.dspOf n).pc + 1
  let va := vreg n (Dict.bitsOf w 51 48)
  let vb := vreg n (Dict.bitsOf w 47 44)
  let k := if w.testBit 43 then (s.dspOf n).bsh else Dict.bitsOf w 42 38
  (DspIssues n 0x20 w s → Gives (.accClr n) s fun t => DspIssued n next s t ∧ AccHolds n a (fun _ => 0) s t) ∧
  (DspIssues n 0x21 w s → Gives (.accLda n) s fun t => DspIssued n next s t ∧ AccHolds n a (fun l => va l s * 2 ^ 24) s t) ∧
  (DspIssues n 0x22 w s → Gives (.accAdda n) s fun t => DspIssued n next s t ∧
    AccHolds n a (fun l => areg n a l s + areg n (Dict.bitsOf w 53 52) l s) s t) ∧
  (DspIssues n 0x23 w s → Gives (.accSuml n) s fun t => DspIssued n next s t ∧
    AccHolds n a (fun l => if l = 0 then areg n a 0 s + areg n a 1 s + areg n a 2 s + areg n a 3 s else 0) s t) ∧
  (DspIssues n 0x24 w s → Gives (.accStr n) s fun t => DspIssued n next s t ∧
    VecHolds n (Dict.bitsOf w 51 48) (fun l => halfUp (areg n a l s) (24 + Dict.bitsOf w 47 43)) s t) ∧
  (DspIssues n 0x25 w s → Gives (.accShra n) s fun t => DspIssued n next s t ∧
    AccHolds n a (fun l => halfUp (areg n a l s) (Dict.bitsOf w 47 43)) s t) ∧
  (DspIssues n 0x50 w s → Gives (.vmov n) s fun t => DspIssued n next s t ∧ VecHolds n (Dict.bitsOf w 55 52) (fun l => va l s) s t) ∧
  (DspIssues n 0x51 w s → Gives (.vadd n) s fun t => DspIssued n next s t ∧
    VecHolds n (Dict.bitsOf w 55 52) (fun l => va l s + vb l s) s t) ∧
  (DspIssues n 0x52 w s → Gives (.vsub n) s fun t => DspIssued n next s t ∧
    VecHolds n (Dict.bitsOf w 55 52) (fun l => va l s - vb l s) s t) ∧
  (DspIssues n 0x53 w s → Gives (.vshl n) s fun t => DspIssued n next s t ∧
    VecHolds n (Dict.bitsOf w 55 52) (fun l => va l s * 2 ^ k) s t) ∧
  (DspIssues n 0x54 w s → Gives (.vshr n) s fun t => DspIssued n next s t ∧
    VecHolds n (Dict.bitsOf w 55 52) (fun l => halfUp (va l s) k) s t)

/-- Instructions of classes MAC and MEM: the slots load and store, and the product enters the accumulator (14 R372 to R375).
Moves: MOVE makes one pending, the value at its gate is read, and its end adds its length to the count and to the address
register; both counts saturate (14 R381, R382, R389). Choices and readings of the model: log entries 9, 13, 14, 50. -/
def Obligations.DspMemoryAndMovesComplete : Prop :=
  (∀ (n w : Nat) (ecc : List Ecc) (s : State),
  let a := Dict.bitsOf w 57 56
  let next := (s.dspOf n).pc + 1
  let r := runSlots n (dspIssueAt n s) w ecc (dspAt n s)
  slotsOwned n w (dspAt n s) = true → r.fault = 0 →
  (DspIssues n 0x10 w s → Gives (.mpy n ecc) s fun t => DspIssued n next s t ∧ t.mem = r.st.mem ∧
    AccHolds n a (fun l => macX n w r s l * macY n w r s l * 2) s t) ∧
  (DspIssues n 0x11 w s → Gives (.mac n ecc) s fun t => DspIssued n next s t ∧ t.mem = r.st.mem ∧
    AccHolds n a (fun l => areg n a l s + macX n w r s l * macY n w r s l * 2) s t) ∧
  (DspIssues n 0x12 w s → Gives (.msu n ecc) s fun t => DspIssued n next s t ∧ t.mem = r.st.mem ∧
    AccHolds n a (fun l => areg n a l s - macX n w r s l * macY n w r s l * 2) s t) ∧
  (DspIssues n 0x30 w s → Gives (.mem n ecc) s fun t => DspIssued n next s t ∧ t.mem = r.st.mem ∧
    (t.dspOf n).v = (r.st.dspOf n).v ∧ (t.dspOf n).a = (r.st.dspOf n).a)) ∧
  (∀ (n w : Nat) (ecc : List Ecc) (s : State),
  (DspIssues n 0x70 w s → portFor n (bankIn (reg0 (s.dspOf n).a (Dict.bitsOf w 55 53))) 0 s ≠ none →
    Gives (.move ⟨n, ecc⟩) s fun t => DspIssued n ((s.dspOf n).pc + 1) s t ∧ ∃ m, (t.dspOf n).moves = (s.dspOf n).moves ++ [m] ∧
      m.k = Dict.bitsOf w 58 56 ∧ m.out = w.testBit 59 ∧ m.areg = Dict.bitsOf w 55 53 ∧ m.len = w % 256 + 1) ∧
  (∀ m rest, n < 32 → (s.dspOf n).moves = m :: rest → m.out = false → s.rd (DSP.MGATE n m.k) ≠ 0 → m.open' = false →
    m.polling = false → s.rd (DSP.MOVE_INFLIGHT n) < 16 →
    Gives (.moveGatePoll n) s fun t => (∃ m', (t.dspOf n).moves = m' :: rest ∧ m'.polling = true ∧ m'.polled = some t.now) ∧
      t.rd (DSP.MOVE_INFLIGHT n) = s.rd (DSP.MOVE_INFLIGHT n) + 1) ∧
  (∀ m rest, n < 32 → (s.dspOf n).moves = m :: rest → m.issued = 8 * m.len → m.wait = [] → m.lost = false → m.k < 16 →
    Gives (.moveComplete n) s fun t => (rest = [] → (t.dspOf n).moves = []) ∧
      t.rd (DSP.MCOUNT n m.k) = min (s.rd (DSP.MCOUNT n m.k) + 8 * m.len) (2 ^ 64 - 1) ∧
      reg0 (t.dspOf n).a m.areg = postModify 2 (reg0 (s.dspOf n).a m.areg) (2 * m.len)))

/-- Commands of DSP.CTRL (14 R384, R385, R388). Events of a DSP engine: the edge at which it starts, the boundary at which a
request takes effect, the expiry of its watchdog and the end of its self-check (14 R380, R384, R385, R388). Choices and
readings of the model: log entries 6, 13. -/
def Obligations.DspRunsComplete : Prop :=
  (∀ (q : Req) (n : Nat) (s : State), n < 32 →
  (Writes q (DSP.CTRL n) 1 1 s → (∀ c ∈ dspStartConds n s, c.1 = false) →
    Gives (.dspStart q n) s fun t => Answered q 0 t ∧ t.rd (DSP.STATE n) = 1 ∧ (t.dspOf n).prior = s.rd (DSP.STATE n) ∧
      (t.dspOf n).armAt = s.now) ∧
  (Writes q (DSP.CTRL n) 1 2 s → (∀ c ∈ dspStartAtConds n s, c.1 = false) →
    Gives (.dspStartAt q n) s fun t => Answered q 0 t ∧ t.rd (DSP.STATE n) = 1 ∧
      t.sched = s.sched ++ [⟨true, n, ofTime128 (s.rd (DSP.START_AT n))⟩]) ∧
  (Writes q (DSP.CTRL n) 1 3 s → s.rd (DSP.STATE n) = 1 →
    Gives (.dspStop q n) s fun t => Answered q 0 t ∧ t.rd (DSP.STATE n) = (s.dspOf n).prior) ∧
  (Writes q (DSP.CTRL n) 1 3 s → s.rd (DSP.STATE n) = 2 ∨ s.rd (DSP.STATE n) = 3 →
    Gives (.dspStop q n) s fun t => Answered q 0 t ∧ (t.dspOf n).stop = earlier (s.dspOf n).stop s.now) ∧
  (Writes q (DSP.CTRL n) 1 4 s → s.rd (DSP.STATE n) = 2 →
    Gives (.dspHalt q n) s fun t => Answered q 0 t ∧ (t.dspOf n).halt = earlier (s.dspOf n).halt s.now) ∧
  (Writes q (DSP.CTRL n) 1 5 s → s.rd (DSP.STATE n) = 3 →
    Gives (.dspResume q n) s fun t => Answered q 0 t ∧ t.rd (DSP.STATE n) = 2 ∧ (t.dspOf n).wdEnd =
      if s.rd (DSP.WDOG n) = 0 then none else some (dspEdge s.now + max (s.rd (DSP.WDOG_LEFT n)) 65536 * dspClk)) ∧
  (Writes q (DSP.CTRL n) 1 6 s → s.rd (DSP.STATE n) = 0 ∨ s.rd (DSP.STATE n) = 4 ∨ s.rd (DSP.STATE n) = 5 →
    Gives (.dspSelfcheck q n) s fun t => Answered q 0 t ∧ t.rd (DSP.STATE n) = 6 ∧ (t.dspOf n).prior = s.rd (DSP.STATE n))) ∧
  (∀ (n : Nat) (s : State), n < 32 →
  (s.rd (DSP.STATE n) = 1 → (s.dspOf n).timed = false →
    Gives (.dspStartEdge n) s fun t => t.rd (DSP.STATE n) = 2 ∧ (t.dspOf n).pc = s.rd (DSP.ENTRY n) ∧
      (t.dspOf n).due = dspEdge (engEdge ((s.dspOf n).armAt + ticksPerUs) + 20 * ticksPerNs) ∧
      t.rd (DSP.FLAGS n) = 0 ∧ t.rd (DSP.CYCLES n) = 0 ∧ t.rd (DSP.EXPACC n) = 0 ∧ t.rd (DSP.BEXP n) = 23) ∧
  (∀ e, s.rd (DSP.STATE n) = 1 → (s.dspOf n).timed = true → (s.dspOf n).start = some e →
    Gives (.dspStartEdge n) s fun t => t.rd (DSP.STATE n) = 2 ∧ (t.dspOf n).pc = s.rd (DSP.ENTRY n) ∧
      (t.dspOf n).due = dspEdge (e + 20 * ticksPerNs)) ∧
  (∀ th, s.rd (DSP.STATE n) = 2 → (s.dspOf n).halt = some th → landsNow n (some th) s = true → (s.dspOf n).moveBad = false → (s.dspOf n).moveUe = false →
    (∀ e, (s.dspOf n).wdEnd = some e → dspEdge (max (s.dspOf n).due th) < e) →
    (∀ e, (s.dspOf n).stop = some e → dspEdge (max (s.dspOf n).due th) < e) →
    Gives (.dspHaltLands n) s fun t => t.rd (DSP.STATE n) = 3 ∧ (t.dspOf n).pc = (s.dspOf n).pc) ∧
  (∀ th, s.rd (DSP.STATE n) = 2 → (s.dspOf n).stop = some th → landsNow n (some th) s = true → (s.dspOf n).moveBad = false → (s.dspOf n).moveUe = false →
    (∀ e, (s.dspOf n).wdEnd = some e → dspEdge (max (s.dspOf n).due th) < e) → Gives (.dspStopLands n) s fun t => t.rd (DSP.STATE n) = 4) ∧
  (s.rd (DSP.STATE n) = 3 → (s.dspOf n).stop ≠ none → Gives (.dspStopLands n) s fun t => t.rd (DSP.STATE n) = 4) ∧
  (landsNow n (s.dspOf n).wdEnd s = true → s.rd (DSP.STATE n) = 2 →
    Gives (.dspWatchdogExpiry n) s fun t => t.rd (DSP.STATE n) = 5 ∧ t.rd (DSP.FAULT n) = 5 ∧ t.rd (DSP.FAULT_PC n) = (s.dspOf n).pc) ∧
  (∀ pass, s.rd (DSP.STATE n) = 6 →
    Gives (.dspSelfcheckEnd n pass) s fun t => t.rd (DSP.STATE n) = (s.dspOf n).prior ∧
      t.rd (DSP.SELFCHECK n) = (if pass then 1 else 2) ∧ (t.dspOf n).v = [] ∧ (t.dspOf n).acc = []))

/-- Runs of the calibration: FOCUS and SELFCHECK start one over the selected channels, ABORT ends it, and the end of a channel
records its result; trims are found without TCO, and TF and WHEN are set whether the search found them or failed (07 R198 to
R204). A temperature sample enters EDG.GROUP, moves the correction of each channel that tracks by at most a tick, and renews the
group's bit of EDG.STALE_GROUPS (07 R204, R205). The trim store: COMMIT and IMPORT start a job on the next slot, and its end
writes the image and sets TRIM_RESULT (07 R211, R214). Choices and readings of the model: log entries 5, 31, 56. -/
def Obligations.CalibrationCompletes : Prop :=
  (∀ (q : Req) (s : State),
  (Writes q EDG.FOCUS_CTRL 1 1 s → (∀ c ∈ focusConds s, c.1 = false) →
    Gives (.focus q) s fun t => Answered q 0 t ∧ t.rd EDG.FOCUS_STATE = 1 ∧ t.focus.kind = 1 ∧
      t.focus.left = (focusSel s).map fun x => (x, s.now + focusTicks 1 (focusSel s) x)) ∧
  (Writes q EDG.FOCUS_CTRL 1 2 s → (∀ c ∈ focusConds s, c.1 = false) →
    Gives (.edgSelfcheck q) s fun t => Answered q 0 t ∧ t.rd EDG.FOCUS_STATE = 1 ∧ t.focus.kind = 2 ∧
      t.focus.left = (focusSel s).map fun x => (x, s.now + focusTicks 2 (focusSel s) x)) ∧
  (Writes q EDG.FOCUS_CTRL 1 3 s → s.focus.kind ≠ 0 →
    Gives (.focusAbort q) s fun t => Answered q 0 t ∧ t.rd EDG.FOCUS_STATE = 4 ∧ t.focus = {}) ∧
  (∀ x e v, x < 512 → s.focus.kind = 1 → s.focus.left.find? (fun e => Nat.beq (groupOf e.1) (groupOf x)) = some (x, e) →
    Gives (.focusChannelEnd x (some v)) s fun t => focusHeld x t = false ∧ t.rd (calKey x 6) = 1 ∧
      t.rd (calKey x 0) = v.rise % 65536 ∧ t.rd (calKey x 1) = v.fall % 65536 ∧ t.rd (calKey x 4) = s.rd (calKey x 4) ∧
      t.rd (calKey x 8) = 0 ∧ Stamped x e s t) ∧
  (∀ x e, x < 512 → s.focus.kind = 1 → s.focus.left.find? (fun e => Nat.beq (groupOf e.1) (groupOf x)) = some (x, e) →
    Gives (.focusChannelEnd x none) s fun t => focusHeld x t = false ∧ t.rd (calKey x 6) = 2 ∧ t.rd (calKey x 0) = s.rd (calKey x 0) ∧
      Stamped x e s t) ∧
  (∀ x e pass, x < 512 → s.focus.kind = 2 → s.focus.left.find? (fun e => Nat.beq (groupOf e.1) (groupOf x)) = some (x, e) →
    Gives (.selfcheckChannelEnd x pass) s fun t => focusHeld x t = false ∧ t.rd (calKey x 7) = (if pass then 1 else 2) ∧
      t.rd (calKey x 6) = s.rd (calKey x 6) ∧ t.rd (calKey x 0) = s.rd (calKey x 0))) ∧
  (∀ (g temp : Nat) (s : State), g < 32 →
  Gives (.tempTrackSample g temp) s fun t =>
    t.rd (EDG.GROUP g) = (if gateShut s 0x8900 = true then s.rd (EDG.GROUP g) else temp % 65536) ∧ t.rd CRH.TEMP_MAX = ofSigned 16 (hottest t) ∧
    t.bit EDG.STALE_GROUPS g = stale g (toS16 temp) s ∧
    ∀ x ∈ groupChannels g, t.rd (calKey x 8) =
      if s.bit EDG.TRACK 0 = true ∧ focusHeld x s = false then (trackStep x (toS16 temp) s).rd (calKey x 8) else s.rd (calKey x 8)) ∧
  (∀ (q : Req) (s : State),
  (∀ m, Writes q CFG.TRIM_CTRL 1 1 s → (∀ c ∈ trimConds q 1 s, c.1 = false) → nextSlot s = some m →
    Gives (.trimCommit q) s fun t => Answered q 0 t ∧ t.rd CFG.TRIM_BUSY = 1 ∧ t.trim.job = some (0, m, makeImage m (tableBytes s) s)) ∧
  (∀ m, Writes q CFG.TRIM_CTRL 1 2 s → (∀ c ∈ trimConds q 2 s, c.1 = false) → nextSlot s = some m →
    Gives (.trimImport q) s fun t => Answered q 0 t ∧ t.rd CFG.TRIM_BUSY = 1 ∧ t.trim.job = some (importStatus s, m,
      if importStatus s = 0 then makeImage m (stagedImage s / 2 ^ 512) s else 0)) ∧
  (∀ st m im, s.trim.job = some (st, m, im) →
    Gives .trimWriteEnd s fun t => t.trim.job = none ∧ t.rd CFG.TRIM_BUSY = 0 ∧ t.rd CFG.TRIM_RESULT = st ∧
      slotImage m t = if st = 0 then im else slotImage m s))

/-- Panes: their commands, the edges at which a detach and an attach take effect, and the end of a self-test (10 R280, R292,
R293). The access of a pane at a FAB edge: in RAM mode the word is read before the write, in QUEUE mode the pop comes before the
push, and away from the fabric a write is counted; a mesh access that waits takes the port that the fabric leaves idle (10 R278,
R279, R283, R289). Scratch banks: the hand-over of a port and the self-test (10 R290, R291, R293). Choices and readings of the
model: log entries 6, 9, 27, 55. -/
def Obligations.PanesComplete : Prop :=
  (∀ (q : Req) (p : Nat) (s : State), p < 1536 →
  (Writes q (PAN.CTRL p) 1 1 s → s.rd (PAN.STATE p) = 0 →
    Gives (.paneDetach q p) s fun t => Answered q 0 t ∧
      (t.paneOf p).detachAt = some ((s.paneOf p).detachAt.getD (fabEdge (s.now + ticksPerUs)))) ∧
  (Writes q (PAN.CTRL p) 1 2 s → s.rd (PAN.STATE p) = 1 →
    Gives (.paneAttach q p) s fun t => Answered q 0 t ∧
      (t.paneOf p).attachAt = some ((s.paneOf p).attachAt.getD (fabEdge (s.now + ticksPerUs)))) ∧
  (Writes q (PAN.CTRL p) 1 3 s → s.rd (PAN.STATE p) = 1 →
    Gives (.paneTest q p) s fun t => Answered q 0 t ∧ t.rd (PAN.STATE p) = 2) ∧
  (∀ v, Writes q (PAN.MODE p) 1 v s → s.rd (PAN.STATE p) = 1 →
    Gives (.paneModeWrite q p v) s fun t => Answered q 0 t ∧ t.rd (PAN.MODE p) = v ∧
      (v ≠ s.rd (PAN.MODE p) → (t.paneOf p).q = [] ∧
        t.rd (PAN.DISCARD p) = if (s.paneOf p).q = [] then s.rd (PAN.DISCARD p)
          else min (s.rd (PAN.DISCARD p) + (s.paneOf p).q.length) (2 ^ 64 - 1))) ∧
  (∀ e, (s.paneOf p).detachAt = some e → Gives (.paneDetachLands p) s fun t => t.rd (PAN.STATE p) = 1 ∧ (t.paneOf p).detachAt = none) ∧
  (∀ e, (s.paneOf p).attachAt = some e → Gives (.paneAttachLands p) s fun t => t.rd (PAN.STATE p) = 0 ∧ (t.paneOf p).attachAt = none) ∧
  (∀ bad, s.rd (PAN.STATE p) = 2 → Gives (.paneTestEnd p bad) s fun t => t.rd (PAN.STATE p) = 1 ∧
    t.rd (PAN.TEST_RESULT p) = (repairResult bad (2 - s.rd (PAN.REPAIR p) % 256)).1 ∧
    (t.rd (PAN.TEST_RESULT p) ≠ 3 → t.mem = memClear s.mem (paneBase p) 0x2000))) ∧
  (∀ (p : Nat) (bad : Bool) (s : State), p < 1536 → clocked (p / 48) s = true →
  let e := paneEdge p s
  let k0 := regsBefore (portCell p 0) e (s.upto e)
  let k1 := regsBefore (portCell p 1) e (s.upto e)
  let k2 := regsBefore (portCell p 2) e (s.upto e)
  (s.rd (PAN.STATE p) = 0 → s.rd (PAN.MODE p) ≠ 1 → (∀ w ∈ s.steal, destOf w.req.addr s ≠ (2, p)) →
    (∀ u ∈ (s.paneOf p).uses, u.clk < e) → Gives (.paneFabricAccess p bad) s fun t =>
      t.mem = (if k1.f then memWrite s.mem (paneBase p + 2 * (k1.q.toNat % 4096)) 2 k2.q.toNat else s.mem) ∧
      (k0.f = true → (t.paneOf p).taps.w0 = memRead s.mem (paneBase p + 2 * (k0.q.toNat % 4096)) 2)) ∧
  (∀ w, s.rd (PAN.STATE p) = 0 → s.rd (PAN.MODE p) ≠ 1 → (s.steal.find? fun x => waitsFor p .write x s) = some w → k1.f = false →
    (∀ x ∈ s.steal, waitsFor p .read x s = false) → (∀ u ∈ (s.paneOf p).uses, u.clk < e) →
    Gives (.paneFabricAccess p bad) s fun t => t.steal = s.steal.erase w ∧ t.resps = s.resps ++ [⟨w.req, 1, 0⟩] ∧
      t.mem = memWrite s.mem w.req.addr w.req.len w.req.data) ∧
  (s.rd (PAN.STATE p) = 0 → s.rd (PAN.MODE p) = 1 →
    let q := (s.paneOf p).q
    let pop := k0.f && !(q.isEmpty)
    let room := Nat.blt q.length 4096 || pop
    Gives (.paneFabricAccess p bad) s fun t =>
      (t.paneOf p).q = (if pop then q.drop 1 else q) ++ (if k1.f && room then [k2.q.toNat] else []) ∧
      t.rd (PAN.POPPED p) = (if pop then min (s.rd (PAN.POPPED p) + 1) (2 ^ 64 - 1) else s.rd (PAN.POPPED p)) ∧
      t.rd (PAN.PUSHED p) = (if k1.f && room then min (s.rd (PAN.PUSHED p) + 1) (2 ^ 64 - 1) else s.rd (PAN.PUSHED p)) ∧
      t.rd (PAN.REFUSED p) = (if k1.f && !room then min (s.rd (PAN.REFUSED p) + 1) (2 ^ 64 - 1) else s.rd (PAN.REFUSED p))) ∧
  (s.rd (PAN.STATE p) ≠ 0 → Gives (.paneFabricAccess p bad) s fun t => t.mem = s.mem ∧ (t.paneOf p).q = (s.paneOf p).q ∧
    t.rd (PAN.REFUSED p) = if k1.f then min (s.rd (PAN.REFUSED p) + 1) (2 ^ 64 - 1) else s.rd (PAN.REFUSED p))) ∧
  (∀ (q : Req) (b : Nat) (s : State), b < 64 →
  (∀ port v, port < 2 → Writes q (SCR.OWNER b port) 1 v s → (∀ c ∈ ownerConds b port v s, c.1 = false) →
    Gives (.scratchOwnerWrite q b port v) s fun t => Answered q 0 t ∧ t.rd (SCR.OWNER b port) = v ∧ t.rd (SCR.STATE b) = 1) ∧
  (s.rd (SCR.STATE b) = 1 → Gives (.handoverEnd b) s fun t =>
    t.rd (SCR.STATE b) = (match s.rd (CRH.PWR_STATE (32 + b)) with | 3 => 0 | 2 => 3 | _ => 4) ∧
      (t.bankOf b).leaving = none) ∧
  (Writes q (SCR.CTRL b) 1 1 s → (∀ c ∈ scrTestConds b s, c.1 = false) →
    Gives (.scratchTest q b) s fun t => Answered q 0 t ∧ t.rd (SCR.STATE b) = 2) ∧
  (∀ bad, s.rd (SCR.STATE b) = 2 → Gives (.scratchTestEnd b bad) s fun t => t.rd (SCR.STATE b) = 0 ∧
    t.rd (SCR.TEST_RESULT b) = (repairResult bad (8 - s.rd (SCR.REPAIR b) % 256)).1 ∧
    (t.rd (SCR.TEST_RESULT b) ≠ 3 → t.mem = memClear s.mem (bankBase b) 0x10000)))

/-- A request that arrives at its unit is performed and answered; one for a memory controller enters its ingress buffer (11
R300, R301; 10 R286; 09 R256). An access to a pane whose
port the fabric uses waits; one that waits too long is answered with an error and counted; a power domain that a
request woke is powered, cleared and serves again (10 R284, R294; 11 R310; 15 R404). Choices and readings of the model: log
entries 7, 14. -/
def Obligations.MeshDeliveryCompletes : Prop :=
  (∀ (r : MeshReq) (fl : List Flit) (ecc : List Ecc) (s : State), Unpoisoned fl r s → (∀ e ∈ ecc, e = .clean) →
  (Arrives .read r s → UnitServes r s →
    Gives (.meshRead r fl ecc) s fun t => t.resps = s.resps ++ [⟨r, 0, memRead s.mem r.addr r.len⟩] ∧ t.reqs = s.reqs.erase r ∧
      t.mem = s.mem) ∧
  (Arrives .write r s → UnitServes r s →
    Gives (.meshWrite r fl) s fun t => t.resps = s.resps ++ [⟨r, 1, 0⟩] ∧ t.reqs = s.reqs.erase r ∧
      t.mem = memWrite s.mem r.addr r.len r.data) ∧
  (Arrives .read r s → (destOf r.addr s).1 = 0 →
    Gives (.meshRead r fl ecc) s fun t => (t.dmcOf (destOf r.addr s).2).ingress = (s.dmcOf (destOf r.addr s).2).ingress ++ [r]) ∧
  (Arrives .write r s → (destOf r.addr s).1 = 0 →
    Gives (.meshWrite r fl) s fun t => (t.dmcOf (destOf r.addr s).2).ingress = (s.dmcOf (destOf r.addr s).2).ingress ++ [r]) ∧
  (Arrives .orw r s → (destOf r.addr s).1 = 0 →
    Gives (.meshOr r fl) s fun t => (t.dmcOf (destOf r.addr s).2).ingress = (s.dmcOf (destOf r.addr s).2).ingress ++ [r]) ∧
  (∀ p, Arrives .read r s → destOf r.addr s = (2, p) → s.rd (PAN.STATE p) ≠ 2 → s.rd (PAN.MODE p) ≠ 1 →
    s.rd (CFG.FACET_STATE (p / 48)) ≠ 1 → fits r 0x2000 = true → paneBusy p .read (paneEdge p s) s = true →
    Gives (.meshRead r fl ecc) s fun t => t.steal = s.steal ++ [⟨r, ecc, s.now⟩] ∧ t.resps = s.resps ∧ t.mem = s.mem) ∧
  (∀ b, Arrives .read r s → destOf r.addr s = (1, b) → s.rd (SCR.STATE b) ≠ 2 → fits r 0x10000 = true →
    meshFree b s = false → engEdge s.now + s.rd SCR.STEAL_LIMIT * 8192 ≤ idleClock b (meshPort b) (engEdge s.now) s →
    Gives (.meshRead r fl ecc) s fun t => t.resps = s.resps ++ [⟨r, 2, 0⟩] ∧ t.mem = s.mem ∧
      t.rd (SCR.STEAL_TIMEOUT b) = min (s.rd (SCR.STEAL_TIMEOUT b) + 1) (2 ^ 64 - 1))) ∧
  (∀ (s : State),
  (∀ r w p, (s.steal.find? fun w => decide (w.req = r)) = some w → destOf r.addr s = (2, p) → p < 1536 →
    Gives (.stealTimeout r) s fun t => t.resps = s.resps ++ [⟨r, 2, 0⟩] ∧ t.steal = s.steal.erase w ∧ t.mem = s.mem ∧
      t.rd (PAN.STEAL_TIMEOUT p) = min (s.rd (PAN.STEAL_TIMEOUT p) + 1) (2 ^ 64 - 1)) ∧
  (∀ d, d < 96 → s.rd (CRH.PWR_STATE d) = 1 → Gives (.domainPowered d) s fun t => t.rd (CRH.PWR_STATE d) = 2 ∧
    (32 ≤ d → t.rd (SCR.STATE (d - 32)) = 3) ∧ ∀ j, d < 32 → j < 48 → t.rd (PAN.STATE (48 * d + j)) = 3) ∧
  (∀ d, d < 96 → s.rd (CRH.PWR_STATE d) = 2 → Gives (.clearEnd d) s fun t => t.rd (CRH.PWR_STATE d) = 3))

/-- Routers, probes and the trace buffer (11 R311 to R315). Choices and readings of the model: log entries 6, 34. -/
def Obligations.RouterCommandsComplete : Prop := ∀ (q : Req) (s : State),
  (∀ n, n < 64 → Writes q (MSH.RCTRL n) 1 1 s → (∀ c ∈ drainConds n s, c.1 = false) →
    Gives (.routerSelfcheck q n) s fun t => Answered q 0 t ∧ t.rd (MSH.RSTATE n) = 1 ∧ t.drain = some ⟨n, s.drain.bind (·.cfg), true⟩) ∧
  (∀ n v, n < 64 → Writes q (MSH.RCFG n) 4 v s → (∀ c ∈ drainConds n s, c.1 = false) →
    Gives (.rcfgWrite q n v) s fun t => Answered q 0 t ∧ t.rd (MSH.RSTATE n) = 1 ∧ t.drain = some ⟨n, some v, s.drain.any (·.check)⟩ ∧
      t.rd (MSH.RCFG n) = s.rd (MSH.RCFG n)) ∧
  (∀ n cfg check pass, n < 64 → s.drain = some ⟨n, cfg, check⟩ →
    Gives (.drainEnd n pass) s fun t => t.rd (MSH.RSTATE n) = 0 ∧ t.drain = none ∧
      (check = true → t.rd (MSH.RCHECK n) = if pass then 1 else 2) ∧ ∀ v, cfg = some v → t.rd (MSH.RCFG n) = v) ∧
  (∀ p, p < 32 → Writes q (MSH.PCTRL p) 1 1 s → Gives (.probeRun q p) s fun t => Answered q 0 t ∧ t.rd (MSH.PSTATE p) = 1) ∧
  (∀ p, p < 32 → Writes q (MSH.PCTRL p) 1 2 s → Gives (.probeStop q p) s fun t => Answered q 0 t ∧ t.rd (MSH.PSTATE p) = 0) ∧
  (∀ p, p < 32 → Writes q (MSH.PCTRL p) 1 3 s →
    Gives (.probeClear q p) s fun t => Answered q 0 t ∧ t.rd (MSH.PPKTS p) = 0 ∧ t.rd (MSH.PFLITS p) = 0) ∧
  (∀ v, Writes q MSH.TCLEAR 1 v s → Gives (.tclear q v) s fun t => Answered q 0 t ∧ t.trace = [])

/-- Commands of a memory controller and the writes of DMC.EXCLUDE and DMC.RETAIN (09 R250 to R254, R272). Training: its
automatic start, its end, the retraining that a change of temperature calls for, and the map (09 R249 to R254, R269; 15 R395).
Choices and readings of the model: log entries 5, 6, 34, 48. -/
def Obligations.DmcControlCompletes : Prop :=
  (∀ (q : Req) (s : State),
  (∀ n, n < 4 → Writes q (DMC.CTRL n) 1 1 s → (∀ c ∈ trainConds n s, c.1 = false) →
    Gives (.dmcTrain q n) s fun t => Answered q 0 t ∧ dmcState n t = 2 ∧ (t.dmcOf n).rate = trainRate s ∧
      t.rd (DMC.CAPACITY n) = (answering n s).foldl (fun a d => a + dimmBytes d) 0) ∧
  (∀ n, n < 4 → Writes q (DMC.CTRL n) 1 2 s → dmcState n s = 3 →
    Gives (.dmcRetrain q n) s fun t => Answered q 0 t ∧ dmcState n t = 4 ∧ t.rd (DMC.CONFIG n) / 2 ^ 16 = 0 ∧
      t.rd (DMC.RETRAINS n) = min (s.rd (DMC.RETRAINS n) + 1) (2 ^ 64 - 1)) ∧
  (∀ v, Writes q DMC.EXCLUDE 4 v s → s.rd DMC.MAP_STATE ≠ 1 →
    Gives (.excludeWrite q v) s fun t => Answered q 0 t ∧ t.rd DMC.EXCLUDE = v ∧
      (s.rd DMC.MAP_STATE = 2 → (∀ n, n < 4 → populated n t = false) → t.rd DMC.MAP_STATE = 0)) ∧
  (∀ v, Writes q DMC.RETAIN 4 v s → (∀ c ∈ retainConds v s, c.1 = false) →
    Gives (.retainWrite q v) s fun t => Answered q 0 t ∧ t.rd DMC.RETAIN = v)) ∧
  (∀ (s : State),
  (s.autoTrain = true → Gives .autoTrainStart s fun t => t.autoTrain = false ∧
    ∀ n, n < 4 → dmcState n s = 1 → s.bit DMC.EXCLUDE n = false → dmcState n t = 2) ∧
  (∀ n eye, n < 4 → dmcState n s = 2 → Gives (.trainingEnd n eye) s fun t =>
    t.rd (DMC.TRAIN_RESULT n) = trainResult n eye s ∧ dmcState n t = if trainResult n eye s = 1 then 3 else 5) ∧
  (∀ n tt, n < 4 → dmcState n s = 3 → s.rd (DMC.AUTO_RETRAIN n) ≠ 0 → (s.dmcOf n).trainTemp = some tt →
    s.rd (DMC.AUTO_RETRAIN n) ≤ (toS16 (s.dmcOf n).temp - toS16 tt).natAbs →
    Gives (.autoRetrain n) s fun t => dmcState n t = 4 ∧ t.rd (DMC.RETRAINS n) = min (s.rd (DMC.RETRAINS n) + 1) (2 ^ 64 - 1)) ∧
  (∀ n ok, n < 4 → dmcState n s = 4 → (s.dmcOf n).track = [] → (s.dmcOf n).scrub = none →
    Gives (.retrainingEnd n ok) s fun t => dmcState n t = (if ok then 3 else 5) ∧
      (ok = true → t.rd (DMC.CONFIG n) / 2 ^ 16 = (s.dmcOf n).rate)) ∧
  (∀ n temp, n < 4 → dmcState n s = 3 ∨ dmcState n s = 4 → Gives (.dimmTempRead n temp) s fun t =>
    (t.dmcOf n).temp = temp % 65536 ∧ (t.dmcOf n).hot = decide (1360 < toS16 temp)) ∧
  (∀ n, n < 4 → dmcState n s = 2 ∨ dmcState n s = 3 ∨ dmcState n s = 4 → s.bit CRH.CLK_STATUS (5 + n) = false →
    Gives (.ddrPllLock n) s fun t => t.bit CRH.CLK_STATUS (5 + n) = true ∧ (t.dmcOf n).pllRate = (s.dmcOf n).rate) ∧
  (s.rd DMC.MAP_STATE = 0 → mapReady s = true → s.rd DMC.EXCLUDE = 0 →
    let m := (List.range 4).filter fun n => Nat.beq (dmcState n s) 3
    let cap := s.rd (DMC.CAPACITY (m.headD 0))
    let forms := m.length ∈ [1, 2, 4] ∧ (∀ n, n < 4 → populated n s = true → dmcState n s = 3) ∧
      ∀ n ∈ m, s.rd (DMC.CAPACITY n) = cap ∧ s.rd (DMC.CONFIG n) % 16 = s.rd (DMC.CONFIG (m.headD 0)) % 16
    (forms → Gives .mapForm s fun t => t.rd DMC.MAP_STATE = 1 ∧ t.rd DMC.WAYS = m.length ∧ t.rd DMC.INSTALLED = m.length * cap) ∧
    (¬forms → Gives .mapForm s fun t => t.rd DMC.MAP_STATE = 2 ∧ t.rd DMC.INSTALLED = 0)))

/-- Requests at a memory controller: the tracker takes one, with an access on each subchannel that it touches; each is issued, and
its completion performs its bursts; the last one answers (09 R257 to R266). Events of a memory controller: promotion by age, the
end of a throttle, the clearing of the row tables, refresh, and the patrol, whose burst is read as an access of its own (09 R263,
R266, R268 to R272). Choices and readings of the model: log entries 7, 14, 25, 49. -/
def Obligations.DmcTrafficCompletes : Prop :=
  (∀ (n : Nat) (s : State), n < 4 →
  (∀ r rest, dmcState n s = 3 → (s.dmcOf n).ingress = r :: rest → r.cls < 4 → admits n r.cls s = true → acceptFrom n r s ≤ s.now →
    (dramFits r = true → s.bit DMC.RETAIN (rankOf n r.addr s) = false → Gives (.dmcAccept n) s fun t =>
      (t.dmcOf n).ingress = rest ∧ t.rd (DMC.ACCEPTED n r.cls) = min (s.rd (DMC.ACCEPTED n r.cls) + 1) (2 ^ 64 - 1) ∧
      (t.dmcOf n).track = (s.dmcOf n).track ++
        [{ id := (s.dmcOf n).nextId, req := r, at' := s.now, lead := (joins n r s).map (·.id),
           acts := if (joins n r s).isSome then [] else (subsOf r).map (·, none) }]) ∧
    (dramFits r = false → Gives (.dmcAccept n) s fun t => (t.dmcOf n).ingress = rest ∧ t.resps = s.resps ++ [⟨r, 2, 0⟩] ∧
      t.rd (DMC.ERRORS n r.cls) = min (s.rd (DMC.ERRORS n r.cls) + 1) (2 ^ 64 - 1))) ∧
  (∀ c rest x rot, dmcState n s = 3 ∨ dmcState n s = 4 → candidates n s = c :: rest → patrolReady n s = none →
    let at' := max s.now (rest.foldl (fun m x => min m (readyAt n x s)) (readyAt n c s))
    choose (accClass n s) (promoted n s) ((c :: rest).filter fun x => Nat.ble (readyAt n x s) at') (s.dmcOf n).rot (s.dmcOf n).lastLow at' = (some x, rot) →
    Gives (.dmcAccessIssue n) s fun t => (t.dmcOf n).rot = rot ∧ (t.dmcOf n).track = (s.dmcOf n).track.map fun y =>
      if y.id = x.1.id then { y with acts := y.acts.map fun e => if e.1 = x.2 then (e.1, some at') else e } else y) ∧
  (∀ p e, dmcState n s = 3 ∨ dmcState n s = 4 → candidates n s = [] → patrolReady n s = some (p, e) →
    Gives (.dmcAccessIssue n) s fun t => (t.dmcOf n).scrub = some { p with act := some (max s.now e) } ∧
      (t.dmcOf n).track = (s.dmcOf n).track) ∧
  (∀ x e, nextDone n s = some (x, e) → patrolDone n s = none →
    let r := x.1.req
    let joined := (s.dmcOf n).track.filter fun y => decide (y.lead = some x.1.id) && Nat.beq (y.req.addr / 64 % 2) x.2
    let mine := onSub x.2 (burstsOf r)
    let last := (x.1.acts.filter fun a => !(Nat.beq a.1 x.2)) = []
    Gives (.dmcAccessComplete n []) s fun t =>
      t.mem = (joined.foldl (fun s y => applyBurst y.req s (y.req.addr / 64)) (mine.foldl (applyBurst r) s)).mem ∧
      t.resps = s.resps ++ (if last then [⟨r, if x.1.bad then 2 else if r.op = .read then 0 else 1,
        if r.op = .read then x.1.data + readBursts r mine s else 0⟩] else []) ++
        joined.map fun y => ⟨y.req, if y.req.op = .read then 0 else 1, 0⟩) ∧
  (∀ p e ecc, nextDone n s = none → patrolDone n s = some (p, e) →
    (p.ecc = .clean → Gives (.dmcAccessComplete n ecc) s fun t => (t.dmcOf n).scrub = none ∧ t.mem = s.mem ∧
      t.rd (DMC.CE n) = s.rd (DMC.CE n)) ∧
    (p.ecc = .ce → Gives (.dmcAccessComplete n ecc) s fun t => (t.dmcOf n).scrub = none ∧ t.mem = s.mem ∧
      t.rd (DMC.CE n) = min (s.rd (DMC.CE n) + 1) (2 ^ 64 - 1)) ∧
    (p.ecc = .ue → Gives (.dmcAccessComplete n ecc) s fun t => (t.dmcOf n).scrub = none ∧
      t.rd (DMC.UE n) = min (s.rd (DMC.UE n) + 1) (2 ^ 64 - 1) ∧ t.rd (DMC.UE_ADDR n) = dramAddr n (64 * p.burst) s))) ∧
  (∀ (n : Nat) (s : State), n < 4 →
  (∀ c rest, (s.dmcOf n).track.filter (fun x => unissued n s x && !x.prom) = c :: rest →
    let lim := fun x : Trk => x.at' + s.rd (DMC.AGE_LIMIT n x.req.cls) * ticksPerNs
    let x := rest.foldl (fun m y => if lim y < lim m then y else m) c
    Gives (.agePromotion n) s fun t => t.rd (DMC.PROMOTED n) = min (s.rd (DMC.PROMOTED n) + 1) (2 ^ 64 - 1) ∧
      (t.dmcOf n).track = (s.dmcOf n).track.map fun y => if y.id = x.id then { y with prom := true } else y) ∧
  (∀ c rest, (s.dmcOf n).throttles = c :: rest →
    Gives (.throttleEnd n) s fun t => (t.dmcOf n).throttles =
      (s.dmcOf n).throttles.erase (rest.foldl (fun m y => if y.until' < m.until' then y else m) c)) ∧
  Gives (.rowTableClear n) s (fun t => (t.dmcOf n).rows = []) ∧
  (dmcState n s = 3 → Gives (.refresh n) s fun t => (t.dmcOf n).refreshed = ((s.dmcOf n).refreshed + 1) % 4 ∧
    (t.dmcOf n).refreshEnd = s.now + 200 * ticksPerNs) ∧
  (∀ ecc, dmcState n s = 3 → s.rd DMC.MAP_STATE = 1 → s.rd (DMC.PATROL n) ≠ 0 → (s.dmcOf n).scrub = none →
    let p := (s.dmcOf n).patrol
    let held := s.bit DMC.RETAIN (rankOf n (dramAddr n (64 * p) s) s)
    Gives (.patrolScrub n ecc) s fun t => (t.dmcOf n).patrol = (p + 1) % max 1 (s.rd (DMC.CAPACITY n) / 64) ∧ t.mem = s.mem ∧
      (t.dmcOf n).scrub = if held then none else some ⟨p, ecc, s.now, none⟩))

/-- Commands of a lane and of a quad, the end of an adaptation, and the lane PLLs (12 R320, R324, R325, R338, R341, R342).
Choices and readings of the model: log entries 6, 29. -/
def Obligations.LaneCommandsComplete : Prop := ∀ (q : Req) (n : Nat) (s : State),
  (n < 48 → Writes q (LNK.CTRL n) 1 1 s → (∀ c ∈ laneStartConds n s, c.1 = false) → Gives (.laneStart q n) s fun t =>
    Answered q 0 t ∧ laneState n t = 1 ∧ (s.rd (LNK.MODE n) = 0 → t.rd (LNK.SRX_WR n) = 0 ∧ t.rd (LNK.SRX_RD n) = 0)) ∧
  (n < 48 → Writes q (LNK.CTRL n) 1 2 s → Gives (.laneReset q n) s fun t => Answered q 0 t ∧ laneState n t = 0 ∧
    (laneState n s = 3 → t.bit (LNK.EVFLAGS n) 0 = true ∧ (t.laneOf n).buf = [] ∧ (t.laneOf n).txMgmt = [] ∧
      (t.laneOf n).up = false)) ∧
  (n < 48 → Writes q (LNK.CTRL n) 1 3 s → laneState n s ≠ 0 →
    Gives (.laneRetrain q n) s fun t => Answered q 0 t ∧ laneState n t = 1) ∧
  (n < 48 → laneState n s = 1 → Gives (.adaptEnd n) s fun t => laneState n t = if s.rd (LNK.MODE n) = 0 then 2 else 4) ∧
  (∀ v, n < 12 → Writes q (LNK.QRATE n) 1 v s → (∀ c ∈ qrateConds n s, c.1 = false) → Gives (.qrateWrite q n v) s fun t =>
    Answered q 0 t ∧ t.rd (LNK.QRATE n) = v ∧ t.rd (LNK.QPLL n) = 0 ∧ t.bit CRH.CLK_STATUS (9 + n) = false) ∧
  (∀ v, n < 12 → Writes q (LNK.MAP n) 1 v s → quadReset n s = true → Gives (.laneMapWrite q n v) s fun t =>
    Answered q 0 t ∧ t.rd (LNK.MAP n) = v ∧ ∀ b, b < 4 → t.rd (LNK.PHYS (4 * n + b)) = mapLane v b) ∧
  (n < 12 → s.rd (LNK.QPLL n) ≠ 1 → Gives (.qpllLock n) s fun t => t.rd (LNK.QPLL n) = 1 ∧ t.bit CRH.CLK_STATUS (9 + n) = true ∧
    ((s.crh.plls.any fun e => Nat.beq e.1 (4 + n)) = true → t.bit CRH.EVFLAGS 3 = true)) ∧
  (n < 12 → Gives (.lrefLoss n) s fun t => t.rd (LNK.QPLL n) = 2 ∧ t.bit CRH.CLK_STATUS (9 + n) = false)

/-- Lock and the blocks that a lane receives (12 R327 to R333). Choices and readings of the model: log entries 29, 51. -/
def Obligations.LaneBlocksComplete : Prop := ∀ (n v fix : Nat) (s : State), n < 48 →
  (laneState n s = 2 → fecOn n s = false → Gives (.invalidHeader n) s fun t => laneState n t = 2 ∧ (t.laneOf n).good = 0) ∧
  (laneState n s = 3 → fecOn n s = false → Gives (.invalidHeader n) s fun t =>
    t.rd (LNK.BAD_HDR n) = min (s.rd (LNK.BAD_HDR n) + 1) (2 ^ 64 - 1) ∧
    laneState n t = if 16 ≤ (((false :: (s.laneOf n).heads).take 64).filter (! ·)).length then 2 else 3) ∧
  (laneState n s = 2 ∨ laneState n s = 3 → fecOn n s = true → Gives (.invalidHeader n) s fun t => laneState n t = 2 ∧
    t.rd (LNK.FEC_UNCORR n) = min (s.rd (LNK.FEC_UNCORR n) + 1) (2 ^ 64 - 1) ∧ t.bit (LNK.EVFLAGS n) 3 = true) ∧
  (laneState n s = 2 → 64 ≤ (s.laneOf n).good → Gives (.lockGained n) s fun t => laneState n t = 3 ∧
    t.bit (LNK.EVFLAGS n) 0 = true ∧ (t.laneOf n).freed = [320, 1056, 64, 512] ∧ (t.laneOf n).buf = [] ∧ (t.laneOf n).up = false) ∧
  (laneState n s = 2 → ∀ i ∈ [Instr.idleBlock n v fix, .creditBlock n v fix, .linkBlock n v fix, .startBlock n v fix,
    .dataBlock n v fix], Gives i s fun t => laneState n t = 2 ∧ (t.laneOf n).good = (s.laneOf n).good + 1 ∧
      t.rd (LNK.FEC_CORR n) = if fecOn n s = true
        then min (s.rd (LNK.FEC_CORR n) + min fix (15 - if (s.laneOf n).codeBlk = 0 then 0 else (s.laneOf n).codeFix)) (2 ^ 64 - 1)
        else s.rd (LNK.FEC_CORR n)) ∧
  (laneState n s = 3 →
    (ctlBad v 0 [(247, 0)] = true → Gives (.idleBlock n v fix) s fun t =>
      t.rd (LNK.RX_INVALID n) = min (s.rd (LNK.RX_INVALID n) + 1) (2 ^ 64 - 1)) ∧
    (ctlBad v 0 [(247, 0)] = false → Gives (.idleBlock n v fix) s fun t => laneState n t = 3 ∧
      t.rd (LNK.RX_INVALID n) = s.rd (LNK.RX_INVALID n) ∧ (t.laneOf n).heads = (true :: (s.laneOf n).heads).take 64) ∧
    (ctlBad v 0x5A [(247, 240), (175, 0)] = false → Gives (.creditBlock n v fix) s fun t => (t.laneOf n).credit =
      [Dict.bitsOf v 239 224, Dict.bitsOf v 223 208, Dict.bitsOf v 207 192, Dict.bitsOf v 191 176]) ∧
    (ctlBad v 0x66 [(167, 0)] = false → Dict.bitsOf v 175 168 = 1 → Gives (.linkBlock n v fix) s fun t =>
      (t.laneOf n).up = true ∧
      ((s.laneOf n).up = false → t.rd (LNK.PEER n) = Dict.bitsOf v 239 176 ∧
        t.rd (LNK.PEER_LANE n) = Dict.bitsOf v 247 240 ∧ t.bit (LNK.EVFLAGS n) 1 = true) ∧
      ((s.laneOf n).up = true → t.rd (LNK.PEER n) = s.rd (LNK.PEER n) ∧ t.rd (LNK.PEER_LANE n) = s.rd (LNK.PEER_LANE n))) ∧
    (ctlBad v 0x4B [(245, 240), (159, 0)] = false → startOk (Dict.bitsOf v 247 246) (Dict.bitsOf v 239 224) (s.laneOf n).up = true →
      Gives (.startBlock n v fix) s fun t => (t.laneOf n).opn = some ⟨⟨Dict.bitsOf v 247 246, Dict.bitsOf v 239 224,
        Dict.bitsOf v 223 208, Dict.bitsOf v 207 192, 0, stampAt s s.now⟩, Dict.bitsOf v 191 160, 0⟩ ∧
        ((s.laneOf n).opn.isSome = true → t.rd (LNK.RX_ABORT n) = min (s.rd (LNK.RX_ABORT n) + 1) (2 ^ 64 - 1))) ∧
    (∀ o, (s.laneOf n).opn = some o →
      let m := { o.msg with data := (o.msg.data + v % 2 ^ 256 * 2 ^ (8 * o.got)) % 2 ^ (8 * o.msg.len) }
      (o.got + 32 < o.msg.len → Gives (.dataBlock n v fix) s fun t =>
        (t.laneOf n).opn = some { o with msg := m, got := o.got + 32 }) ∧
      (o.msg.len ≤ o.got + 32 → crc32 m.data m.len = o.crc → (m.chan = 0 → meshMsgOk m = true) →
        Gives (.dataBlock n v fix) s fun t => (t.laneOf n).opn = none ∧ (t.laneOf n).buf = (s.laneOf n).buf ++ [m]) ∧
      (o.msg.len ≤ o.got + 32 → crc32 m.data m.len ≠ o.crc → Gives (.dataBlock n v fix) s fun t =>
        (t.laneOf n).opn = none ∧ (t.laneOf n).buf = (s.laneOf n).buf ∧ t.bit (LNK.EVFLAGS n) 2 = true ∧
        t.rd (LNK.RX_CRC n) = min (s.rd (LNK.RX_CRC n) + 1) (2 ^ 64 - 1))))

/-- Received mesh and stream messages, the timers of a lane, and a symbol at the PRBS checker (12 R321, R322, R331, R332, R335,
R338, R340). Choices and readings of the model: log entries 16, 29, 51. -/
def Obligations.LaneEventsComplete : Prop := ∀ (n : Nat) (s : State), n < 48 →
  (∀ m, oldest n 0 s = some m → (s.laneOf n).inMesh.length + (s.laneOf n).drop.length < 32 → regionOf (meshOf n m s).addr s ≠ 6 →
    Gives (.meshMessage n) s fun t => t.reqs = s.reqs ++ [meshOf n m s] ∧ (t.laneOf n).buf = (s.laneOf n).buf.erase m ∧
      (t.laneOf n).inMesh = (s.laneOf n).inMesh ++ [meshOf n m s]) ∧
  (∀ m, oldest n 3 s = some m → (s.laneOf n).writing = none →
    (s.rd (LNK.SRX_BYTES n) < s.rd (LNK.SRX_WR n) - s.rd (LNK.SRX_RD n) + m.len → Gives (.streamMessage n) s fun t =>
      (t.laneOf n).buf = (s.laneOf n).buf.erase m ∧ t.rd (LNK.SRX_DROP n) = min (s.rd (LNK.SRX_DROP n) + 1) (2 ^ 64 - 1) ∧
      t.bit (LNK.EVFLAGS n) 4 = true) ∧
    (s.rd (LNK.SRX_WR n) - s.rd (LNK.SRX_RD n) + m.len ≤ s.rd (LNK.SRX_BYTES n) → Gives (.streamMessage n) s fun t =>
      let ps := streamParts n (s.rd (LNK.SRX_BASE n)) (s.rd (LNK.SRX_BYTES n)) 64 (s.rd (LNK.SRX_WR n)) m.len m.data s
      (t.laneOf n).buf = (s.laneOf n).buf.erase m ∧ (t.laneOf n).writing = some (m.len, ps.length, false) ∧
      (t.laneOf n).parts = ps)) ∧
  (∀ len k err, (s.laneOf n).writing = some (len, k, err) → (s.laneOf n).parts = [] →
    Gives (.streamWritesDone n err) s fun t => (t.laneOf n).writing = none ∧ (t.laneOf n).relost = false ∧
      (t.laneOf n).freed = (if (s.laneOf n).relost = true then (s.laneOf n).freed
        else at4 (s.laneOf n).freed 3 fun v => (v + blocksOf len) % 65536) ∧
      t.rd (LNK.SRX_WR n) = min (s.rd (LNK.SRX_WR n) + len) (2 ^ 64 - 1) ∧
      t.rd (LNK.SRX_DONE n) = min (s.rd (LNK.SRX_DONE n) + 1) (2 ^ 64 - 1) ∧
      (err = true → t.rd (LNK.SRX_ERR n) = min (s.rd (LNK.SRX_ERR n) + 1) (2 ^ 64 - 1) ∧ t.bit (LNK.EVFLAGS n) 6 = true)) ∧
  (laneState n s = 3 → Gives (.creditSendTimer n) s fun t =>
    (t.laneOf n).oweCredit = false ∧ (t.laneOf n).creditAt = max s.now ((s.laneOf n).creditAt + 10 * ticksPerUs)) ∧
  (laneState n s = 3 → Gives (.linkSendTimer n) s fun t =>
    (t.laneOf n).oweLink = false ∧ (t.laneOf n).linkAt = max s.now ((s.laneOf n).linkAt + 1000 * ticksPerUs)) ∧
  (∀ v b, laneState n s = 4 → lineReceived n [v] s = [b] →
    let c := Dict.bitsOf (s.rd (LNK.RAW n)) 6 4
    let r := prbsBit c (xor b (s.bit (LNK.RAW n) 1)) (s.laneOf n).prbs
    c < 4 → Gives (.prbsChecker n [v]) s fun t => (t.laneOf n).prbs = r.1 ∧ (t.laneOf n).rxP = v ∧
      (r.2.2.1 = 1 → (s.laneOf n).prbs.missed = false → t.bit (LNK.EVFLAGS n) 5 = true) ∧
      t.rd (LNK.PRBS_BITS n) = min (s.rd (LNK.PRBS_BITS n) + r.2.1) (2 ^ 64 - 1) ∧
      t.rd (LNK.PRBS_ERR n) = min (s.rd (LNK.PRBS_ERR n) + r.2.2.1) (2 ^ 64 - 1) ∧
      t.rd (LNK.PRBS_RESYNC n) = min (s.rd (LNK.PRBS_RESYNC n) + r.2.2.2) (2 ^ 64 - 1))

/-- The role, the increment and the steps of the network time, and the message queues of a host lane (13 R346 to R349, R352,
R353). Choices and readings of the model: log entries 6, 18. -/
def Obligations.TimeControlCompletes : Prop := ∀ (q : Req) (v : Nat) (s : State),
  (Writes q TMU.ROLE 1 v s → Gives (.tmuRoleWrite q v) s fun t => Answered q 0 t ∧ t.rd TMU.ROLE = v ∧
    (v = 1 → s.rd TMU.ROLE ≠ 1 → timeValid t = true) ∧ (v ≠ 1 → s.rd TMU.ROLE ≠ v → timeValid t = false)) ∧
  (Writes q TMU.INCR 8 v s → s.rd TMU.ROLE ≠ 2 → Gives (.incrWrite q v) s fun t => Answered q 0 t ∧ t.rd TMU.INCR = v ∧
    (mpllLocked s = true → ∀ j, netAt t (engAfter s.now + 8192 * j) = netAt s (engAfter s.now) + v - s.rd TMU.INCR + v * j)) ∧
  (Writes q TMU.STEP 8 v s → (∀ c ∈ stepConds v s, c.1 = false) → Gives (.tmuStep q v) s fun t => Answered q 0 t ∧
    t.rd TMU.STEPS = min (s.rd TMU.STEPS + 1) (2 ^ 64 - 1) ∧ t.bit TMU.EVFLAGS 2 = true ∧
    (mpllLocked s = true → netAt t (engAfter s.now) = ((netAt s (engAfter s.now) : Int) + toSigned 64 v).toNat)) ∧
  (Writes q TMU.SET 16 v s → s.rd TMU.ROLE = 0 → Gives (.tmuSet q v) s fun t => Answered q 0 t ∧
    t.rd TMU.STEPS = min (s.rd TMU.STEPS + 1) (2 ^ 64 - 1) ∧ (mpllLocked s = true → netAt t (engAfter s.now) = ofTime128 v)) ∧
  (∀ n, n < 48 → Writes q (TMU.TXMSG n) 32 v s → (∀ c ∈ txmsgConds n s, c.1 = false) →
    Gives (.txmsg q n v) s fun t => Answered q 0 t ∧
      ((s.laneOf n).txTime = [] → creditFor n (.host v) s = false → (t.laneOf n).txTime = [.host v]) ∧
      ((s.laneOf n).txTime = [] → (s.laneOf n).txMgmt = [] → (s.laneOf n).txMesh = [] → creditFor n (.host v) s = true →
        (∃ l, (t.laneOf n).out = l ++ blocksFor (.host v) s ++ [idleBlock]) ∧ (t.laneOf n).txTime = [] ∧
        t.rd (TMU.TXTS_MADE n) = min (s.rd (TMU.TXTS_MADE n) + 1) (2 ^ 64 - 1))) ∧
  (∀ n e rest, n < 48 → q.master ≠ 9 → Takes q (TMU.TXTS n) 24 s → s.bit TMU.HOST_LANES n = true →
    (s.laneTimeOf n).txts = e :: rest → Gives (.txts q n) s fun t =>
      AnsweredWith q 24 (toTime128 e.1 + e.2 * 2 ^ 128) t ∧ (t.laneTimeOf n).txts = rest ∧
      t.rd (TMU.TXTS_READ n) = min (s.rd (TMU.TXTS_READ n) + 1) (2 ^ 64 - 1)) ∧
  (∀ n e rest, n < 48 → q.master ≠ 9 → Takes q (TMU.RXMSG n) 48 s → s.bit TMU.HOST_LANES n = true →
    (s.laneTimeOf n).rx = e :: rest → Gives (.rxmsg q n) s fun t =>
      AnsweredWith q 48 (e.1 % 2 ^ 256 + toTime128 e.2 * 2 ^ 256) t ∧ (t.laneTimeOf n).rx = rest)

/-- The exchange of time with a master and with followers (13 R348, R353 to R360). Choices and readings of the model: log
entries 5, 26. -/
def Obligations.TimeExchangeCompletes : Prop := ∀ (n : Nat) (s : State), n < 48 →
  (serving s = true → s.rd TMU.SERVE ≠ 0 → Gives .exchangeStart s fun t => t.tmu.seq = (s.tmu.seq + 1) % 65536 ∧
    t.tmu.startAt = if s.tmu.startAt = 0 then s.now else max s.now (s.tmu.startAt + s.rd TMU.INTERVAL * ticksPerUs)) ∧
  (∀ m, oldest n 2 s = some m → s.bit TMU.HOST_LANES n = true → (s.laneTimeOf n).rx.length < 16 →
    Gives (.timeMessage n) s fun t => (t.laneOf n).buf = (s.laneOf n).buf.erase m ∧
      (t.laneTimeOf n).rx = (s.laneTimeOf n).rx ++ [(m.data, m.stamp)]) ∧
  (∀ m, oldest n 2 s = some m → s.bit TMU.HOST_LANES n = false → s.rd TMU.SRC_LANE = n ∨ s.bit TMU.SERVE n = true →
    1 ≤ Dict.bitsOf m.data 23 16 → Dict.bitsOf m.data 23 16 ≤ 4 → Dict.bitsOf m.data 31 24 = s.rd TMU.DOMAIN →
    Gives (.timeMessage n) s fun t => (t.laneOf n).buf = (s.laneOf n).buf.erase m ∧
      (t.laneTimeOf n).inbox = (s.laneTimeOf n).inbox ++ [⟨m.data, m.stamp⟩]) ∧
  (∀ m type, (s.tgtOf 0).held = false → (s.laneTimeOf n).inbox.find? (fun m => Nat.beq (Dict.bitsOf m.msg 23 16) type) = some m →
    (type = 1 → isSource n s = true → Gives (.sync n) s fun t => t.tmu.xch = some { seq := msgSeq m, t2 := m.stamp } ∧
      (t.laneTimeOf n).inbox = (s.laneTimeOf n).inbox.erase m) ∧
    (∀ x, type = 2 → isSource n s = true → s.tmu.xch = some x → x.seq = msgSeq m → Gives (.follow n) s fun t =>
      t.rd TMU.GM_SERIAL = Dict.bitsOf m.msg 127 64 ∧ (t.laneTimeOf n).inbox = (s.laneTimeOf n).inbox.erase m ∧
      ∃ y, t.tmu.xch = some y ∧ y.seq = x.seq ∧ y.t2 = x.t2 ∧ y.t1 = some (msgTime m)) ∧
    (type = 3 → serving s = true → s.bit TMU.SERVE n = true → Gives (.dreq n) s fun t =>
      (t.laneTimeOf n).inbox = (s.laneTimeOf n).inbox.erase m ∧
      ((s.laneOf n).txTime = [] → creditFor n (.time 4 (msgSeq m) m.stamp) s = false →
        (t.laneOf n).txTime = [.time 4 (msgSeq m) m.stamp])) ∧
    (∀ t2 t1 t3, type = 4 → isSource n s = true → s.tmu.xch = some ⟨msgSeq m, t2, some t1, some t3⟩ →
      let theta := offsetOf t1 t2 t3 (msgTime m) (Int.tdiv (toSigned 32 (s.rd (TMU.ASYM n)) * unitsPerNs) 1000)
      Gives (.dresp n) s fun t => t.rd TMU.EXCHANGES = min (s.rd TMU.EXCHANGES + 1) (2 ^ 64 - 1) ∧
        t.rd TMU.OFFSET = ofSigned 64 theta ∧ t.rd TMU.DELAY = ofSigned 64 (delayOf t1 t2 t3 (msgTime m)) ∧ t.tmu.xch = none ∧
        (theta.natAbs ≤ 100 * unitsPerNs → 0xFFBE76C9 ≤ t.rd TMU.INCR ∧ t.rd TMU.INCR ≤ 0x100418937))) ∧
  (s.rd TMU.ROLE = 2 → timeValid s = true → Gives .exchangeTimeout s fun t => timeValid t = false ∧
    t.bit TMU.STATUS 1 = true ∧ t.bit TMU.EVFLAGS 12 = true ∧ t.rd TMU.INCR = s.rd TMU.INCR)

/-- Apertures, triggers, captures and the start schedule (13 R350, R362 to R365). Choices and readings of the model: log
entries 5, 18, 26. -/
def Obligations.TimedUnitsComplete : Prop := ∀ (q : Req) (n : Nat) (s : State), n < 16 →
  (Writes q (TMU.AP_CTRL n) 1 1 s → (∀ c ∈ apArmConds n s, c.1 = false) → apArmed n s = false →
    Gives (.apertureArm q n) s fun t => Answered q 0 t ∧ t.rd (TMU.AP_STATE n) = 1) ∧
  (Writes q (TMU.AP_CTRL n) 1 2 s → Gives (.apertureDisarm q n) s fun t => Answered q 0 t ∧ t.rd (TMU.AP_STATE n) = 0) ∧
  (apState n s = 1 → let e := edgeOfTime s s.now (apOpenAt n (apK n s) s)
    netAt s e < apCloseAt n (apK n s) s → Gives (.apertureOpen n) s fun t => t.rd (TMU.AP_STATE n) = 2 ∧
      t.rd (TMU.AP_OPENS n) = min (s.rd (TMU.AP_OPENS n) + 1) (2 ^ 64 - 1) ∧ t.bit TMU.EVFLAGS 11 = true ∧ t.now = max s.now e) ∧
  (apState n s = 2 → Gives (.apertureClose n) s fun t =>
    t.rd (TMU.AP_STATE n) = (if s.rd (TMU.AP_PERIOD n) = 0 then 3 else 1) ∧
    t.now = max s.now (edgeOfTime s s.now (apCloseAt n (apK n s) s))) ∧
  (Writes q (TMU.TRG_CTRL n) 1 1 s → (∀ c ∈ trgArmConds n s, c.1 = false) →
    Gives (.triggerArm q n) s fun t => Answered q 0 t ∧ t.rd (TMU.TRG_STATE n) = 1 ∧ (t.trgOf n).k = 0 ∧
      t.rd (TMU.TRG_FIRED n) = if trgInAperture n s = true ∧ s.rd (TMU.TRG_STATE n) ≠ 1
        then min (s.rd (TMU.TRG_FIRED n) + 1) (2 ^ 64 - 1) else s.rd (TMU.TRG_FIRED n)) ∧
  (Writes q (TMU.TRG_CTRL n) 1 2 s → Gives (.triggerDisarm q n) s fun t => Answered q 0 t ∧ t.rd (TMU.TRG_STATE n) = 0 ∧
    (t.trgOf n).high = none) ∧
  (s.rd (TMU.TRG_STATE n) = 1 → Dict.bitsOf (s.rd (TMU.TRG_CFG n)) 2 1 = 0 →
    let u := ofTime128 (s.rd (TMU.TRG_AT n)) + (s.trgOf n).k * s.rd (TMU.TRG_PERIOD n) * unitsPerTick
    let past := steppedOver s (edgeOfTime s s.now u) u
    Gives (.triggerPulse n) s fun t => (t.trgOf n).k = (s.trgOf n).k + 1 ∧
      t.rd (TMU.TRG_STATE n) = (if s.rd (TMU.TRG_COUNT n) = (s.trgOf n).k + 1 then 2 else 1) ∧
      t.rd (TMU.TRG_FIRED n) = (if past then s.rd (TMU.TRG_FIRED n) else min (s.rd (TMU.TRG_FIRED n) + 1) (2 ^ 64 - 1)) ∧
      t.rd (TMU.TRG_MISSED n) = (if past then min (s.rd (TMU.TRG_MISSED n) + 1) (2 ^ 64 - 1) else s.rd (TMU.TRG_MISSED n)) ∧
      (past = false → (t.trgOf n).high = some (instantOf u s + s.rd (TMU.TRG_WIDTH n)))) ∧
  (∀ rising, (s.rd (TMU.CAP_CFG n)).testBit (if rising then 0 else 1) = true → (s.rd (TMU.CAP_CFG n)).testBit 2 = false →
    (∀ l, (s.capOf n).last = some l → l + 2 * ticksPerNs ≤ s.now) → Gives (.captureEdge n rising) s fun t =>
      t.pins.trgi.testBit n = rising ∧ t.rd (TMU.CAP_TAKEN n) = min (s.rd (TMU.CAP_TAKEN n) + 1) (2 ^ 64 - 1) ∧
      (if (s.capOf n).q.length < 16 then (t.capOf n).q = (s.capOf n).q ++ [(stampAt s s.now, !rising)]
        else (t.capOf n).q = (s.capOf n).q ∧ t.rd (TMU.CAP_LOST n) = min (s.rd (TMU.CAP_LOST n) + 1) (2 ^ 64 - 1))) ∧
  (∀ e rest, q.master ≠ 9 → Takes q (TMU.CAP_POP n) 24 s → (s.capOf n).q = e :: rest → Gives (.capPop q n) s fun t =>
    AnsweredWith q 24 (toTime128 e.1 + (if e.2 then 2 ^ 128 else 0)) t ∧ (t.capOf n).q = rest) ∧
  (∀ x rest, s.sched = x :: rest → let e := edgeOfTime s s.now (rest.foldl (fun m y => min m y.time) x.time)
    Gives .scheduleFire s fun t => t.now = max s.now e ∧
      t.sched = s.sched.filter (fun y => !(Nat.ble y.time (netAt s e))) ∧
      ∀ y ∈ s.sched, y.time ≤ netAt s e → if y.dsp then (t.dspOf y.n).start = some e else (t.veOf y.n).start = some e)

/-- Resets of the part and the start and loss of its clocks (15 R393, R394, R405 to R408; 13 R345). Choices and readings of the
model: log entries 5, 9, 30, 54. -/
def Obligations.ResetsComplete : Prop := ∀ (s : State),
  (∀ board, Gives (.por board) s fun t => t.rd CRH.RESET_CAUSE = 1 ∧ t.rd CRH.RESET_COUNT = 0 ∧ t.rd CRH.MPLL_LOSSES = 0 ∧
    t.rd CRH.STRAPS = board.straps % 8 ∧ refinOk t = false ∧ mpllLocked t = false ∧ t.crh.inReset = true ∧
    t.crh.grade = board.grade ∧ t.mem = [] ∧ t.ve = [] ∧ ∀ n, n < 4 → (t.dmcOf n).dimms = board.dimms.getD n []) ∧
  (Gives .brownout s fun t => t.rd CRH.RESET_CAUSE = 2 ∧ t.rd CRH.RESET_COUNT = 0 ∧
    t.rd CRH.MPLL_LOSSES = 0 ∧ t.rd CRH.STRAPS = s.freeVal % 8 ∧ t.crh.inReset = true ∧ t.mem = [] ∧ t.ve = []) ∧
  (s.crh.inReset = false → s.crh.rstFrom + ticksPerUs < s.now →
    (Gives .pinReset s fun t => PartReset s 2 t ∧ t.crh.pinLow = true) ∧
    (∀ q, Writes q CRH.RESET 1 0xA5 s → Gives (.softReset q) s fun t => PartReset s 5 t) ∧
    (toS16 (s.rd CRH.TTRIP) ≤ hottest s → s.crh.hot = false → Gives .thermalTrip s fun t => PartReset s 8 t ∧ t.crh.hot = true) ∧
    (refinOk s = true → Gives .refinLoss s fun t => PartReset s 3 t ∧ refinOk t = (mpllLocked s && s.freeVal.testBit 0) ∧
      t.rd CRH.MPLL_LOSSES = min (s.rd CRH.MPLL_LOSSES + 1) (2 ^ 32 - 1))) ∧
  (resetLasts s = true → Gives .pinReset s fun t => t.bit CRH.RESET_CAUSE 2 = true ∧ t.crh.pinLow = true ∧
    t.rd CRH.RESET_COUNT = s.rd CRH.RESET_COUNT) ∧
  (∀ straps, s.crh.pinLow = true → Gives (.nresetRise straps) s fun t => t.crh.pinLow = false ∧
    t.rd CRH.STRAPS = straps % 8 ∧ t.bit CRH.CLK_STATUS 2 = straps.testBit 2 ∧ t.crh.rstAt = s.now) ∧
  (s.crh.inReset = true → s.crh.pinLow = false → s.crh.hot = false ∨ cooled s = true → s.crh.low = 0 → testInsn s.dbg.insn = false →
    Gives .resetEnd s fun t => t.crh.inReset = false ∧ t.crh.hot = false ∧ t.now = max s.now (s.crh.rstAt + 10 * ticksPerUs)) ∧
  (refinOk s = false → Gives .refinPresent s fun t => refinOk t = true ∧ t.bit CRH.CLK_STATUS 0 = true ∧ t.crh.refinAt = s.now) ∧
  (s.bit CRH.CLK_STATUS 0 = true → s.crh.inReset = false → mpllLocked s = false → Gives .mpllLock s fun t =>
    mpllLocked t = true ∧ t.bit CRH.CLK_STATUS 1 = true ∧ t.now = edgeAt 163840 s.now ∧ netNow t = 0)

/-- CLKOUT, the frequency meter, the sensors of temperature and supply, and the sensed levels of the GIO banks (15 R397 to R399,
R408, R409; 22 R529). Choices and readings of the model: log entries 5, 6, 30, 54. -/
def Obligations.ClocksAndSensorsComplete : Prop := ∀ (s : State),
  (∀ q v, Writes q CRH.CLKOUT_CFG 4 v s → (∀ c ∈ clkoutConds v s, c.1 = false) → Gives (.clkoutCfgWrite q v) s fun t =>
    Answered q 0 t ∧ t.rd CRH.CLKOUT_CFG = v ∧ t.bit CRH.CLK_STATUS 21 = false ∧ t.crh.switch = some (v, s.now) ∧
    t.crh.outEnd = earlier s.crh.outEnd (clkoutFall s)) ∧
  (∀ v t0, s.crh.switch = some (v, t0) →
    (s.now ≤ t0 + 1000 * ticksPerUs → sourceLocked v s = true → Gives .clockSwitchDone s fun t => t.crh.switch = none ∧
      t.bit CRH.CLK_STATUS 21 = true ∧ t.bit CRH.CLK_STATUS 22 = false ∧ t.bit CRH.EVFLAGS 3 = true ∧
      s.crh.outEnd.getD t0 + 20 * ticksPerNs ≤ t.now ∧ ∀ x, t.crh.out = some x → x.2.2 ≤ t.now) ∧
    (Gives .clockSwitchTimeout s fun t => t.crh.switch = none ∧ t.bit CRH.CLK_STATUS 22 = true ∧ t.bit CRH.EVFLAGS 3 = true ∧
      t.bit CRH.CLK_STATUS 21 = s.bit CRH.CLK_STATUS 21 ∧ t.now = max s.now (t0 + 1000 * ticksPerUs))) ∧
  (∀ q, Writes q CRH.FM_CTRL 1 1 s → (∀ c ∈ fmConds s, c.1 = false) → Gives (.fmStart q) s fun t =>
    Answered q 0 t ∧ t.rd CRH.FM_STATE = 1 ∧ t.crh.fmEnd = engEdge s.now + s.rd CRH.FM_GATE * ticksPerUs) ∧
  (∀ count, s.rd CRH.FM_STATE = 1 → Gives (.fmDone count) s fun t => t.rd CRH.FM_STATE = 2 ∧
    t.rd CRH.FM_COUNT = count % 2 ^ 64 ∧ t.rd CRH.FM_HZ = count * 1000000000 / max 1 (s.rd CRH.FM_GATE) % 2 ^ 64 ∧
    t.bit CRH.EVFLAGS 4 = true ∧ t.now = max s.now s.crh.fmEnd) ∧
  (∀ temps, temps.length = 48 → Gives (.tempSample temps) s fun t =>
    (∀ i, i < 16 → t.rd (CRH.TEMP i) = temps.getD i 0 % 65536) ∧
    (∀ g, g < 32 → t.rd (EDG.GROUP g) = if gateShut s 0x8900 = true then s.rd (EDG.GROUP g) else temps.getD (16 + g) 0 % 65536) ∧ t.rd CRH.TEMP_MAX = ofSigned 16 (hottest t)) ∧
  (∀ r mv, r < 17 → Gives (.railSample r mv) s fun t => t.rd (CRH.VOLT r) = mv % 65536 ∧
    (s.rd (CRH.VLOW r) ≤ s.rd (CRH.VOLT r) → s.rd (CRH.VOLT r) ≤ s.rd (CRH.VHIGH r) →
      mv % 65536 < s.rd (CRH.VLOW r) ∨ s.rd (CRH.VHIGH r) < mv % 65536 → s.crh.inReset = false →
      t.bit CRH.EVFLAGS 6 = true)) ∧
  (∀ b v, b < 10 → v < 3 → Gives (.pullselChange b v) s fun t => t.pins.pull / 4 ^ b % 4 = v ∧
    (vioOk b s = true → t.rd (FAB.IO_BANK b) = s.rd (FAB.IO_BANK b) % 2 + 2 * v)) ∧
  (∀ b level, b < 10 → Gives (.vioRailChange b true level) s fun t => vioOk b t = true ∧
    t.rd (FAB.IO_BANK b) = level % 2 + s.pins.pull / 4 ^ b % 4 * 2) ∧
  (∀ b level, b < 10 → Gives (.vioRailChange b false level) s fun t => vioOk b t = false ∧
    t.rd (FAB.IO_BANK b) = s.rd (FAB.IO_BANK b))

/-- Clock gates and power domains (15 R400, R401, R404). Choices and readings of the model: log entries 6, 30. -/
def Obligations.GatesAndDomainsComplete : Prop := ∀ (q : Req) (s : State),
  (∀ u, u < 178 → Writes q (CRH.GATE_EN u) 1 0 s → (∀ c ∈ gateConds u 0 s, c.1 = false) → Gives (.gateClose q u) s fun t =>
    Answered q 0 t ∧ t.rd (CRH.GATE_EN u) = 0 ∧
    t.rd (CRH.GATE_STATE u) = if s.rd (CRH.GATE_EN u) = 0 then s.rd (CRH.GATE_STATE u) else 2) ∧
  (∀ u, u < 178 → Writes q (CRH.GATE_EN u) 1 1 s → (∀ c ∈ gateConds u 1 s, c.1 = false) → Gives (.gateOpen q u) s fun t =>
    Answered q 0 t ∧ t.rd (CRH.GATE_EN u) = 1 ∧
    t.rd (CRH.GATE_STATE u) = if s.rd (CRH.GATE_EN u) = 1 then s.rd (CRH.GATE_STATE u) else 3) ∧
  (∀ u, u < 178 → s.rd (CRH.GATE_STATE u) = 2 → accessRuns u s = false → Gives (.gateClosed u) s fun t => t.rd (CRH.GATE_STATE u) = 0) ∧
  (∀ u, u < 178 → s.rd (CRH.GATE_STATE u) = 2 → s.crh.forced.contains u = false → Gives (.gateCloseForce u) s fun t =>
    t.rd (CRH.GATE_STATE u) = 2 ∧ t.crh.forced = s.crh.forced ++ [u] ∧ t.now = max s.now (gateSince u s + 256 * unitClk u)) ∧
  (∀ u, u < 178 → s.rd (CRH.GATE_STATE u) = 3 → Gives (.gateOpened u) s fun t => t.rd (CRH.GATE_STATE u) = 1) ∧
  (∀ d, d < 96 → Writes q (CRH.PWR d) 1 0 s → (∀ c ∈ pwrConds d 0 s, c.1 = false) → Gives (.powerOff q d) s fun t =>
    Answered q 0 t ∧ t.rd (CRH.PWR d) = 0 ∧ (s.rd (CRH.PWR_STATE d) ≠ 0 → turnsOff d s = false → t.crh.offAt = s.crh.offAt ++ [(d, s.now)])) ∧
  (∀ d, d < 96 → Writes q (CRH.PWR d) 1 1 s → (∀ c ∈ pwrConds d 1 s, c.1 = false) → Gives (.powerOn q d) s fun t =>
    Answered q 0 t ∧ t.rd (CRH.PWR d) = 1 ∧ t.crh.offAt = s.crh.offAt.filter (fun e => !(Nat.beq e.1 d)) ∧
    (s.rd (CRH.PWR_STATE d) = 0 → t.rd (CRH.PWR_STATE d) = 1)) ∧
  (∀ d, d < 96 → (s.crh.offAt.any fun e => Nat.beq e.1 d) = true → Gives (.domainOff d) s fun t =>
    t.rd (CRH.PWR_STATE d) = 0 ∧ (t.crh.offAt.any fun e => Nat.beq e.1 d) = false ∧
    (32 ≤ d → t.rd (SCR.STATE (d - 32)) = 4 ∧ t.mem = memClear s.mem (bankBase (d - 32)) 0x10000))

/-- Loads: their start, their data, their header and chunks, and their end by command or for want of data (16 R414 to R421,
R424, R425, R432, R433, R440). Choices and readings of the model: log entries 6, 10, 20. -/
def Obligations.LoadsComplete : Prop := ∀ (q : Req) (s : State),
  (∀ flash, s.cfg.autoDue = true → Gives (.autoLoad flash) s fun t => t.cfg.autoDue = false ∧ t.rd CFG.LOAD_STATE = 1 ∧
    t.rd CFG.LOAD_BYTES = 0 ∧
    t.cfg.load = some { full := true, src := 0, flash := flash, addr := 0, auto := true, dataAt := s.cfg.autoAt }) ∧
  (∀ flash, Writes q CFG.LOAD_CTRL 1 1 s → (∀ c ∈ fullConds s, c.1 = false) → Gives (.loadFull q flash) s fun t =>
    Answered q 0 t ∧ t.rd CFG.LOAD_STATE = (if s.rd CFG.LOAD_SRC = 0 then 1 else 2) ∧ t.rd CFG.LOAD_CAUSE = 0 ∧
    t.cfg.load = some { full := true, src := s.rd CFG.LOAD_SRC, flash := flash, addr := s.rd CFG.FLASH_OFFSET, dataAt := s.now }) ∧
  (∀ flash, Writes q CFG.LOAD_CTRL 1 2 s → (∀ c ∈ partialConds s, c.1 = false) → Gives (.loadPartial q flash) s fun t =>
    Answered q 0 t ∧ t.rd CFG.LOAD_STATE = (if s.rd CFG.LOAD_SRC = 0 then 1 else 2) ∧ t.rd CFG.LOAD_CAUSE = 0 ∧
    t.cfg.load = some { full := false, src := s.rd CFG.LOAD_SRC, flash := flash, addr := s.rd CFG.FLASH_OFFSET, dataAt := s.now }) ∧
  (Writes q CFG.FLP_CTRL 1 1 s → (∀ c ∈ flpConds s, c.1 = false) → Gives (.flpStart q) s fun t => Answered q 0 t ∧
    t.rd CFG.LOAD_STATE = 2 ∧ ∃ l, t.cfg.load = some l ∧ l.full = false ∧ l.src = 2 ∧ l.addr = s.rd CFG.FLP_ADDR ∧
      l.len = s.rd CFG.FLP_LEN ∧ l.wait = some ⟨.read, .flp, 0, 3, s.rd CFG.FLP_ADDR, 256, 0⟩) ∧
  (Writes q CFG.LOAD_CTRL 1 3 s → Gives (.loadAbort q) s fun t => Answered q 0 t ∧
    (s.cfg.load.isSome = true → LoadEnded 0xA 9 5 t)) ∧
  (Writes q CFG.FLP_CTRL 1 2 s → Gives (.flpAbort q) s fun t => Answered q 0 t ∧
    (s.cfg.load.isSome = true → LoadEnded 0xA 9 5 t)) ∧
  (∀ l, s.cfg.load = some l →
    (∀ len v, Writes q CFG.STREAM len v s → l.src = 1 → buffersFull l = false → Gives (.streamWrite q len v) s fun t =>
      Answered q 0 t ∧ t.rd CFG.LOAD_BYTES = l.got + len ∧
      t.cfg.load = some { l with buf := l.buf + v % 2 ^ (8 * len) * 2 ^ (8 * (l.got - l.base)), got := l.got + len, dataAt := s.now }) ∧
    (l.src = 1 → l.auto = false → Gives .hostDataTimeout s fun t => LoadEnded 0xC 7 5 t ∧
      t.now = max s.now (l.dataAt + 1000000 * ticksPerUs)) ∧
    (l.src = 0 → l.auto = false → Gives .flashTimeout s fun t => LoadEnded 0xC 7 5 t) ∧
    (l.src = 0 → l.auto = true → l.second = false → l.hdr = none → l.flash.present = true → l.flash.sfdp = true →
      26 ≤ l.flash.density → Gives .flashTimeout s fun t => t.rd CFG.LOAD_STATE = 2 ∧
        t.cfg.load = some { l with addr := 0x2000000, second := true, got := 0 }) ∧
    (l.hdr = none → l.src = 0 → l.flash.present = false ∨ l.flash.sfdp = false → Gives .streamHeader s fun t =>
      LoadEnded 2 7 5 t ∧ t.rd CFG.FLASH_INFO = 0) ∧
    (l.hdr = none → l.src ≠ 0 → l.auto = false → streamHas l 4 = true → streamHas l (headerLen l) = true →
      let x := streamBytes l 0 (headerLen l)
      let c := if isOxf5 l then oxf5Cause l x s else nativeCause l x s
      (c = 0 → Gives .streamHeader s fun t => t.rd CFG.LOAD_STATE = 3 ∧ t.rd CFG.LOAD_REGION = (headerOf l x).region ∧
        (∃ l', t.cfg.load = some l' ∧ l'.hdr = some (headerOf l x)) ∧
        ∀ f, f < 32 → (headerOf l x).region.testBit f = true → t.rd (CFG.FACET_STATE f) = 1) ∧
      (c ≠ 0 → Gives .streamHeader s fun t => LoadEnded c (causeStatus c) (if c = 1 then 4 else 5) t)) ∧
    (∀ h, l.hdr = some h → h.oxf5 = false → l.chunk < h.chunks →
      let n := chunkLen' h l.chunk
      let pos := 256 + l.chunk * chunkSize
      let body := streamBytes l pos n
      streamHas l (pos + n + 16) = true →
      (streamBytes l (pos + n) 16 = tagFor h l.chunk body n s → Gives .chunkCheck s fun t => ∃ l', t.cfg.load = some l' ∧
        l'.chunk = l.chunk + 1 ∧ l'.bodyLen = l.bodyLen + n ∧
        l'.body = l.body + plainOf h l.chunk body n s * 2 ^ (8 * l.bodyLen)) ∧
      (streamBytes l (pos + n) 16 ≠ tagFor h l.chunk body n s → Gives .chunkCheck s fun t => LoadEnded 6 9 5 t ∧
        t.rd CFG.LOAD_FAIL_AT = l.chunk * chunkBody)))

/-- Frames: what each type writes, and the end of a load (16 R422 to R424, R427, R434, R441; 10 R281). Choices and readings of
the model: log entries 20, 24. -/
def Obligations.FramesComplete : Prop := ∀ (l : LoadS) (h : Header) (f i len p : Nat) (s : State),
  (∀ c, FrameIs l h 1 f i len p s → Gives (.manifestFrame c) s fun t => FrameUsed l ⟨f, 1, i⟩ len t ∧ (t.facetOf f).man = c ∧
    ∀ j, j < 48 → t.rd (PAN.MODE (48 * f + j)) = if c.queueMask.testBit j then 1 else 0) ∧
  (∀ c, FrameIs l h 2 f i len p s → Gives (.cellFrame c) s fun t => FrameUsed l ⟨f, 2, i⟩ len t ∧
    ∀ u, u < 64 → Tab.get (fun _ => ⟨[], false, false, 0, 0#16, 0#16, 0#16⟩) t.cellCfg (cellKey (colOf f u) (rowOf f i)) =
      c.getD u ⟨[], false, false, 0, 0#16, 0#16, 0#16⟩) ∧
  (∀ sels, FrameIs l h 3 f i len p s → selsBad 0 sels = false → Gives (.routeFrame sels) s fun t =>
    FrameUsed l ⟨f, 3, i⟩ len t ∧ ∀ u k, u < 64 → k < 8 → 8 * u + k < sels.length →
      selOf (cellKey (colOf f u) (rowOf f i)) k t = sels.getD (8 * u + k) 0) ∧
  (∀ sels, FrameIs l h 3 f i len p s → selsBad 0 sels = false → Gives (.routeFrame sels) s fun t =>
    FrameUsed l ⟨f, 3, i⟩ len t ∧ ∀ u k, u < 64 → k < 8 → sels.length ≤ 8 * u + k → selOf (cellKey (colOf f u) (rowOf f i)) k t = 1) ∧
  (∀ sels, FrameIs l h 3 f i len p s → selsBad 0 sels = true → Gives (.routeFrame sels) s fun t => LoadEnded 9 9 5 t) ∧
  (FrameIs l h 4 f i len p s → s.rd (CRH.PWR_STATE f) = 3 → Gives .paneFrame s fun t => FrameUsed l ⟨f, 4, i⟩ len t ∧
    t.mem = if (s.facetOf f).man.paneMask.testBit i = true then memWrite s.mem (paneBase (48 * f + i)) 0x2000 p else s.mem) ∧
  (FrameIs l h 4 f i len p s → s.rd (CRH.PWR_STATE f) = 0 → Gives .paneFrame s fun t => t.rd (CRH.PWR_STATE f) = 1 ∧
    t.cfg.load = some l) ∧
  (FrameIs l h 5 f i len p s → Gives .ioFrame s fun t => FrameUsed l ⟨f, 5, i⟩ len t ∧ (t.facetOf f).io = p) ∧
  (FrameIs l h 15 f i len p s → h.oxf5 = false →
    (l.bodyAt + 16 + len = h.bodyLen → p = l.seen.length + 1 → allComplete l h s = true → Gives .endFrame s fun t =>
      LoadEnded 1 0 4 t ∧ (l.full = true → configDone t = true) ∧
      ∀ g, g < 32 → h.region.testBit g = true → s.rd (CFG.FACET_STATE g) = 1 → t.rd (CFG.FACET_STATE g) = 2) ∧
    (p ≠ l.seen.length + 1 → Gives .endFrame s fun t => LoadEnded 7 9 5 t))

/-- Keys: their commands, the ends of these, and tampering (16 R428 to R431). Choices and readings of the model: log entries
9, 20. -/
def Obligations.KeysComplete : Prop := ∀ (q : Req) (s : State),
  (Writes q CFG.KEY_CTRL 1 1 s → (∀ c ∈ keyConds q 1 s, c.1 = false) → Gives (.writeBbram q) s fun t => Answered q 0 t ∧
    t.bit CFG.KEY_STATUS 3 = true ∧ t.cfg.job = some (1, s.cfg.stage) ∧ t.cfg.stage = 0) ∧
  (Writes q CFG.KEY_CTRL 1 2 s → (∀ c ∈ keyConds q 2 s, c.1 = false) → Gives (.zeroise q) s fun t => Answered q 0 t ∧
    t.cfg.bbKey = 0 ∧ t.rd CFG.BBRAM_KEY_ID = 0 ∧ t.bit CFG.KEY_STATUS 1 = false ∧ t.bit CFG.TAMPER_CAUSE 1 = true ∧
    t.cfg.job = some (2, 0)) ∧
  (Writes q CFG.KEY_CTRL 1 3 s → (∀ c ∈ keyConds q 3 s, c.1 = false) → Gives (.fuseKey q) s fun t => Answered q 0 t ∧
    t.bit CFG.KEY_STATUS 3 = true ∧ t.cfg.job = some (3, s.cfg.stage) ∧ t.cfg.stage = 0) ∧
  (Writes q CFG.KEY_CTRL 1 4 s → (∀ c ∈ keyConds q 4 s, c.1 = false) → Gives (.fusePolicy q) s fun t => Answered q 0 t ∧
    t.bit CFG.KEY_STATUS 3 = true ∧ t.cfg.job = some (4, s.cfg.stage) ∧ t.cfg.stage = 0) ∧
  (∀ code v, s.cfg.job = some (code, v) →
    (∀ ok, Gives (.keyCommandEnd ok) s fun t => t.cfg.job = none ∧ t.bit CFG.KEY_STATUS 3 = false ∧
      (code = 1 → t.cfg.bbKey = v % 2 ^ 256 ∧ t.rd CFG.BBRAM_KEY_ID = v / 2 ^ 256 % 2 ^ 64 ∧ t.bit CFG.KEY_STATUS 1 = true)) ∧
    Gives (.keyCommandEnd true) s fun t => t.bit CFG.KEY_STATUS 2 = false ∧
      (code = 3 → t.cfg.fuseKey = v % 2 ^ 256 ∧ t.rd CFG.FUSE_KEY_ID = v / 2 ^ 256 % 2 ^ 64 ∧ t.bit CFG.KEY_STATUS 0 = true) ∧
      (code = 4 → t.rd CFG.POLICY = s.rd CFG.POLICY ||| v % 16)) ∧
  (∀ b ∈ [0, 2, 3], Gives (.tamper b) s fun t => t.cfg.bbKey = 0 ∧ t.rd CFG.BBRAM_KEY_ID = 0 ∧ t.bit CFG.KEY_STATUS 1 = false ∧
    t.bit CFG.TAMPER_CAUSE b = true ∧ t.rd CFG.TAMPER_COUNT = min (s.rd CFG.TAMPER_COUNT + 1) (2 ^ 32 - 1)) ∧
  (Gives (.tamper 4) s fun t => t.cfg.bbKey = 0 ∧ t.rd CFG.BBRAM_KEY_ID = 0 ∧ t.bit CFG.KEY_STATUS 1 = false ∧
    t.bit CFG.TAMPER_CAUSE 4 = true)

/-- The loupe: a frame scanned, corrected or found uncorrectable, its reload, the heartbeat and its check, and the enable (17
R445 to R455). Choices and readings of the model: log entries 5, 20. -/
def Obligations.LoupeCompletes : Prop := ∀ (s : State),
  (∀ p, loupeOn s = true → (scanFrom s.cfg.scan s).or (scanFrom 0 s) = some p →
    let x := frameAtPos p
    (s.upsets.filter (upsetOf x) = [] → Gives .loupeFrameScan s fun t => t.upsets = s.upsets ∧
      t.rd CFG.LOUPE_HEARTBEAT = (s.rd CFG.LOUPE_HEARTBEAT + 1) % 2 ^ 32 ∧ t.rd CFG.LOUPE_CE = s.rd CFG.LOUPE_CE ∧
      t.rd CFG.LOUPE_UE = s.rd CFG.LOUPE_UE ∧ t.now = max s.now s.cfg.scanAt + scanTicks x) ∧
    (∀ u, s.upsets.filter (upsetOf x) = [u] → Gives .loupeFrameScan s fun t => t.upsets = s.upsets.erase u ∧
      t.rd CFG.LOUPE_HEARTBEAT = (s.rd CFG.LOUPE_HEARTBEAT + 1) % 2 ^ 32 ∧
      t.rd CFG.LOUPE_CE = min (s.rd CFG.LOUPE_CE + 1) (2 ^ 64 - 1) ∧ t.rd CFG.LOUPE_UE = s.rd CFG.LOUPE_UE) ∧
    (∀ u v, s.upsets.filter (upsetOf x) = [u, v] → u.word = v.word → Gives .loupeFrameScan s fun t => t.upsets = s.upsets ∧
      t.rd CFG.LOUPE_HEARTBEAT = (s.rd CFG.LOUPE_HEARTBEAT + 1) % 2 ^ 32 ∧
      t.rd CFG.LOUPE_UE = min (s.rd CFG.LOUPE_UE + 1) (2 ^ 64 - 1) ∧ t.rd CFG.LOUPE_CE = s.rd CFG.LOUPE_CE ∧
      (s.cfg.waiting.contains x = false → (∀ r, s.cfg.reload = some r → r.frame ≠ x) → s.cfg.waiting.length < waitRoom x s → t.cfg.waiting = s.cfg.waiting ++ [x]))) ∧
  (∀ x, loupeOn s = true → s.cfg.reload = none → s.cfg.waiting.find? (fun x => !(reloadWaits s x)) = some x →
    Gives .loupeReload s fun t => t.cfg.waiting = s.cfg.waiting.erase x ∧
      ∃ r, t.cfg.reload = some r ∧ r.frame = x ∧ r.src = s.rd (CFG.LOUPE_SRC_TYPE x.f)) ∧
  (∀ r, s.cfg.reload = some r → r.wait = none → (r.src = 2 → r.bad = true ∨ r.stop ≤ r.next) →
    (r.src ≠ 0 → r.bad = false → reloadGood r s = true → Gives (.loupeReloadEnd true) s fun t => t.cfg.reload = none ∧
      t.rd CFG.LOUPE_RELOADS = min (s.rd CFG.LOUPE_RELOADS + 1) (2 ^ 64 - 1) ∧ t.bit CFG.LOUPE_EVFLAGS 3 = true) ∧
    (Gives (.loupeReloadEnd false) s fun t => t.cfg.reload = none ∧ t.bit CFG.LOUPE_DAMAGED r.frame.f = true ∧
      t.rd CFG.LOUPE_RELOAD_FAIL = min (s.rd CFG.LOUPE_RELOAD_FAIL + 1) (2 ^ 64 - 1))) ∧
  (loupeOn s = true → scanFrom 0 s = none ∨ s.cfg.reload.isSome = true → Gives .loupeHeartbeatIdle s fun t =>
    t.rd CFG.LOUPE_HEARTBEAT = (s.rd CFG.LOUPE_HEARTBEAT + 1) % 2 ^ 32) ∧
  (loupeOn s = true → (s.tgtOf 0).held = false →
    (s.rd CFG.LOUPE_HEARTBEAT = s.cfg.beatLast → Gives .heartbeatCheck s fun t =>
      t.rd CFG.LOUPE_RESETS = min (s.rd CFG.LOUPE_RESETS + 1) (2 ^ 32 - 1) ∧ t.cfg.scan = 0 ∧ t.cfg.waiting = [] ∧
      t.cfg.reload = none ∧ t.bit CFG.LOUPE_EVFLAGS 6 = true) ∧
    (s.rd CFG.LOUPE_HEARTBEAT ≠ s.cfg.beatLast → Gives .heartbeatCheck s fun t =>
      t.rd CFG.LOUPE_RESETS = s.rd CFG.LOUPE_RESETS ∧ t.cfg.beatLast = s.rd CFG.LOUPE_HEARTBEAT)) ∧
  (∀ q v, Writes q CFG.LOUPE_EN 1 v s → Gives (.loupeEnWrite q v) s fun t => Answered q 0 t ∧ t.rd CFG.LOUPE_EN = v ∧
    (v = 0 → t.cfg.waiting = [] ∧ t.cfg.reload = none) ∧ (v ≠ 0 → t.cfg.scan = 0))

/-- The supervisor: its start, its watchdog, crypto jobs and the host watchdog (18 R460 to R464; 15 R407). The event matrix: the
next raising registered, a line's pulse, the log and the in-band interrupts (18 R465 to R471). Choices and readings of the model:
log entries 10, 32, 41. -/
def Obligations.SupervisorAndEventsComplete : Prop :=
  (∀ (q : Req) (s : State),
  (mpllLocked s = true → s.crh.inReset = false → supOpen s = false → Gives .supReady s fun t => supOpen t = true ∧
    t.sup.wd = some (t.now, t.rd SUP.WDOG_TIMEOUT) ∧ t.cfg.autoDue = (bootsel t != 0) ∧ (bootsel t = 0 → t.autoTrain = true)) ∧
  (supOpen s = true → molxoHeld s = false → Gives .wdogRestart s fun t =>
    t.sup.wd = some (s.now, s.rd SUP.WDOG_TIMEOUT) ∧ t.sup.warned = false) ∧
  (∀ a k, s.sup.wd = some (a, k) →
    (s.sup.warned = false → Gives .wdogWarn s fun t => t.sup.warned = true ∧ t.bit SUP.EVFLAGS 0 = true ∧
      t.now = max s.now (a + (k - (s.sup.wdFull - 1) / 2) * supClk)) ∧
    (s.crh.inReset = false → s.crh.rstFrom + ticksPerUs < max s.now (a + k * supClk) →
      Gives .wdogExpiry s (PartReset s 4))) ∧
  (Writes q SUP.CJ_CTRL 1 1 s → (∀ c ∈ cryptoConds false s, c.1 = false) → Gives (.cjSha256 q) s fun t => Answered q 0 t ∧
    t.rd SUP.CJ_STATE = 1 ∧ ∃ j, t.sup.job = some j ∧ j.key = none ∧ j.addr = s.rd SUP.CJ_ADDR ∧ j.len = s.rd SUP.CJ_LEN) ∧
  (Writes q SUP.CJ_CTRL 1 2 s → (∀ c ∈ cryptoConds true s, c.1 = false) → Gives (.cjHmac q) s fun t => Answered q 0 t ∧
    t.rd SUP.CJ_STATE = 1 ∧ ∃ j, t.sup.job = some j ∧ j.key = s.sup.key ∧ j.addr = s.rd SUP.CJ_ADDR ∧ j.len = s.rd SUP.CJ_LEN) ∧
  (∀ j, s.sup.job = some j →
    (helperTaken s = true → Gives .cryptoJobEnd s fun t => t = s) ∧
    (helperTaken s = false → j.bad = true → Gives .cryptoJobEnd s fun t => t.sup.job = none ∧ t.rd SUP.CJ_STATE = 3 ∧ t.rd SUP.CJ_RESULT = 0 ∧
      t.bit SUP.EVFLAGS 3 = true) ∧
    (helperTaken s = false → j.bad = false → j.got = j.len → Gives .cryptoJobEnd s fun t => t.sup.job = none ∧ t.rd SUP.CJ_STATE = 2 ∧
      t.bit SUP.EVFLAGS 2 = true ∧
      (j.key = none → t.rd SUP.CJ_RESULT = sha256 j.buf j.len % 2 ^ 256) ∧
      ∀ k, j.key = some k → t.rd SUP.CJ_RESULT = hmac256 k j.buf j.len % 2 ^ 256)) ∧
  (∀ v, Writes q SUP.HOST_KICK 1 v s → Gives (.hostKick q v) s fun t => Answered q 0 t ∧
    (s.rd SUP.HOST_WD ≠ 0 → molxoHeld s = false → t.sup.hostEnd = some (s.now + s.rd SUP.HOST_WD * 1000 * ticksPerUs)) ∧
    (s.rd SUP.HOST_WD = 0 → t.sup = s.sup)) ∧
  (∀ e, s.sup.hostEnd = some e → Gives .hostWdExpiry s fun t => t.sup.hostEnd = none ∧ t.bit SUP.EVFLAGS 5 = true ∧
    t.rd SUP.HOST_WD_TRIPS = min (s.rd SUP.HOST_WD_TRIPS + 1) (2 ^ 32 - 1) ∧
    (mirrorState s = 5 → t.rd HDI.APPLY_OUTCOME = 3) ∧
    (∀ n, n < 32 → veState n s = 3 ∨ veState n s = 4 → (t.veOf n).stopAt.isSome = true) ∧
    ∀ n, n < 32 → s.rd (DSP.STATE n) = 2 ∨ s.rd (DSP.STATE n) = 3 ∨ s.rd (DSP.STATE n) = 6 → (t.dspOf n).stop.isSome = true)) ∧
  (∀ (s : State),
  (∀ a e, e < 512 → nextRaising s.evq = some (a, e) → Gives .eventRaise s fun t =>
    ((s.rd (SUP.EV_ROUTE e)).testBit 2 = false ∨ s.sup.log.length < 256 → t.evq = s.evq.erase (a, e)) ∧ t.now = max s.now (registerEdge a) ∧
    t.rd (SUP.EV_COUNT e) = min (s.rd (SUP.EV_COUNT e) + 1) (2 ^ 32 - 1) ∧ t.bit (SUP.EV_PEND (e / 64)) (e % 64) = true ∧
    ((s.rd (SUP.EV_ROUTE e)).testBit 2 = true → t.rd SUP.LOG_MADE = min (s.rd SUP.LOG_MADE + 1) (2 ^ 64 - 1) ∧
      (s.sup.log.length < 256 → t.sup.log = s.sup.log ++ [⟨netAt s t.now, e, timeValid s⟩]) ∧
      (256 ≤ s.sup.log.length → t.sup.log = s.sup.log ∧ t.rd SUP.LOG_LOST = min (s.rd SUP.LOG_LOST + 1) (2 ^ 64 - 1) ∧
        t.bit SUP.EVFLAGS 1 = true)) ∧
    ((s.rd (SUP.EV_ROUTE e)).testBit 2 = false → t.sup.log = s.sup.log ∧ t.rd SUP.LOG_MADE = s.rd SUP.LOG_MADE) ∧
    t.sup.ibi = s.sup.ibi ++ (if (s.rd (SUP.EV_ROUTE e)).testBit 0 = true ∧ s.bit (SUP.EV_PEND (e / 64)) (e % 64) = false ∧ s.sup.ibi.length < 512
      then [e] else []) ∧
    ∀ k, k < 8 → s.rd (SUP.FEV_SEL k) = e → (k, fabEdge (a + 32 * ticksPerNs)) ∉ s.fev →
      (k, fabEdge (a + 32 * ticksPerNs)) ∈ t.sup.due) ∧
  (∀ k x, k < 8 → (s.sup.due.find? fun x => Nat.beq x.1 k) = some x → Gives (.fabricEventPulse k) s fun t =>
    t.sup.due = s.sup.due.erase x ∧ t.now = max s.now x.2 ∧ x ∈ t.fev ∧ t.reg = s.reg) ∧
  (∀ q r rest, q.master ≠ 9 → Takes q SUP.LOG_POP 24 s → s.sup.log = r :: rest → Gives (.logPop q) s fun t =>
    AnsweredWith q 24 (logBytes r) t ∧ t.sup.log = rest ∧ t.rd SUP.LOG_READ = min (s.rd SUP.LOG_READ + 1) (2 ^ 64 - 1)) ∧
  (∀ e rest, s.sup.ibi = e :: rest →
    (s.hdi.i3c.dyn.isSome = true → s.hdi.i3c.enInt = true → s.hdi.i3c.bus = .sdr → Gives (.ibiRequest true) s fun t =>
      t.sup.ibi = rest ∧ t.rd SUP.IBI_SENT = min (s.rd SUP.IBI_SENT + 1) (2 ^ 64 - 1) ∧
      t.hdi.i3c.out = .data 5 (0x1E + e % 65536 * 2 ^ 8 + rest.length % 65536 * 2 ^ 24)) ∧
    Gives (.ibiRequest false) s fun t => t = s))

/-- Authorisation, the debug fuses, DBG.CTRL RESET and the instructions of the test access port (19 R478, R480 to R484). Choices
and readings of the model: log entries 10, 28, 33, 52, 53. -/
def Obligations.AuthorisationCompletes : Prop := ∀ (q : Req) (s : State),
  let level := fun (t : State) => (t.masterOf q.master).level
  let challenged := fun (l : Nat) (t : State) => (t.masterOf q.master).chal.isSome = true ∧ (t.masterOf q.master).flow = l ∧
    (t.masterOf q.master).chalAt = s.now
  (Writes q DBG.AUTH_CTRL 1 1 s → (∀ c ∈ authConds q 1 s, c.1 = false) → Gives (.authCustomerL2 q) s fun t => Answered q 0 t ∧
    (s.bit DBG.STATUS 0 = false → level t = max (level s) 2) ∧ (s.bit DBG.STATUS 0 = true → challenged 2 t ∧ level t = level s)) ∧
  (Writes q DBG.AUTH_CTRL 1 2 s → (∀ c ∈ authConds q 2 s, c.1 = false) → Gives (.authCustomerL3 q) s fun t => Answered q 0 t ∧
    (s.bit DBG.STATUS 1 = false → level t = max (level s) 3) ∧ (s.bit DBG.STATUS 1 = true → challenged 3 t ∧ level t = level s)) ∧
  (Writes q DBG.AUTH_CTRL 1 3 s → (∀ c ∈ authConds q 3 s, c.1 = false) → Gives (.authVendor q) s fun t => Answered q 0 t ∧
    challenged 0x83 t ∧ level t = level s) ∧
  (Writes q DBG.AUTH_CTRL 1 4 s → (∀ c ∈ authConds q 4 s, c.1 = false) → Gives (.authDrop q) s fun t => Answered q 0 t ∧
    level t = 1 ∧ t.dbg.vendor ≠ some q.master) ∧
  (∀ v, Writes q DBG.AUTH_RESP 32 v s → q.master < 16 →
    (authOk q.master v s = true → Gives (.authResp q v) s fun t => Answered q 0 t ∧ t.bit DBG.EVFLAGS 2 = true ∧
      level t = max (level s) (if (s.masterOf q.master).flow = 2 then 2 else 3) ∧ (t.masterOf q.master).chal = none ∧
      ((s.masterOf q.master).flow = 0x83 → t.dbg.vendor = some q.master ∧ t.bit DBG.STATUS 2 = true)) ∧
    ((s.masterOf q.master).chal.isSome = true → authOk q.master v s = false → Gives (.authResp q v) s fun t =>
      Answered q 9 t ∧ level t = level s ∧ (t.masterOf q.master).chal = none ∧ t.bit DBG.EVFLAGS 3 = true ∧
      t.rd DBG.AUTH_FAILS = min (s.rd DBG.AUTH_FAILS + 1) (2 ^ 32 - 1) ∧ t.dbg.lockUntil = s.now + 1000000 * ticksPerUs ∧
      (15 ≤ s.rd DBG.AUTH_FAILS → t.bit DBG.STATUS 3 = true))) ∧
  (Writes q DBG.CTRL 1 1 s → (∀ c ∈ dbgCtrlConds q 1 s, c.1 = false) → Gives (.dbgFuseKey2 q) s fun t => Answered q 0 t ∧
    t.dbg.key2 = s.dbg.stage ∧ t.bit DBG.STATUS 0 = true ∧ t.dbg.stage = 0) ∧
  (Writes q DBG.CTRL 1 2 s → (∀ c ∈ dbgCtrlConds q 2 s, c.1 = false) → Gives (.dbgFuseKey3 q) s fun t => Answered q 0 t ∧
    t.dbg.key3 = s.dbg.stage ∧ t.bit DBG.STATUS 1 = true ∧ t.dbg.stage = 0) ∧
  (Writes q DBG.CTRL 1 3 s → (∀ c ∈ dbgCtrlConds q 3 s, c.1 = false) → Gives (.dbgFusePolicy q) s fun t => Answered q 0 t ∧
    t.rd DBG.POLICY = s.rd DBG.POLICY ||| s.dbg.stage % 4 ∧ t.dbg.stage = 0) ∧
  (Writes q DBG.CTRL 1 4 s → (∀ c ∈ dbgCtrlConds q 4 s, c.1 = false) → s.crh.rstFrom + ticksPerUs < s.now →
    Gives (.dbgReset q) s (PartReset s 7)) ∧
  (∀ x ∈ [(Instr.extest, 0x00), (.clamp, 0x03), (.highz, 0x04), (.extestPulse, 0x05), (.extestTrain, 0x06)],
    Gives x.1 s fun t => t.dbg.insn = x.2 ∧ t.dbg.test = true ∧ t.bit CRH.RESET_CAUSE 7 = true ∧
      (s.crh.inReset = false → s.crh.rstFrom + ticksPerUs < s.now → PartReset s 7 t)) ∧
  (∀ x ∈ [(Instr.samplePreload, 0x01), (.idcode, 0x02), (.bypass, 0xFF), (.trst, 0x02)], Gives x.1 s fun t =>
    t.dbg.insn = x.2 ∧ t.mem = s.mem ∧ (∀ k, k ≠ DBG.STATUS → t.rd k = s.rd k) ∧
    (testInsn s.dbg.insn = true → t.crh.rstAt = max s.crh.rstAt s.now) ∧ (testInsn s.dbg.insn = false → t.crh = s.crh)) ∧
  (Gives .samplePreload s fun t => t.dbg.bound.syncin = s.pins.syncin ∧ t.dbg.bound.trgi = s.pins.trgi ∧
    t.dbg.bound = pinCells (loadInsn 0x01 s)) ∧
  (Gives .idcode s fun t => t.dbg.dr = idcode s) ∧ (Gives .bypass s fun t => t.dbg.dr = 0) ∧
  Gives .trst s fun t => (t.masterOf 9).level = 1 ∧ (t.masterOf 9).chal = none ∧ t.dbg.vendor ≠ some 9 ∧
    ∀ m, m ≠ 9 → t.masterOf m = s.masterOf m

/-- Break units: allocated, configured, armed anew, freed; and the halt of a group (19 R485, R488, R489). Run control of every
target, its registers and its terminal (19 R490 to R493, R495, R498). Choices and readings of the model: log entries 33, 53. -/
def Obligations.DebugControlCompletes : Prop :=
  (∀ (q : Req) (u : Nat) (s : State),
  (Writes q DBG.BRK_ALLOC 1 1 s → freeUnit s = some u → Gives (.brkAlloc q) s fun t => Answered q 0 t ∧ u < 64 ∧
    (s.brkOf u).on = false ∧ (t.brkOf u).on = true ∧ (t.brkOf u).count = 0 ∧ t.rd (DBG.BRK_STATE u) = 1 ∧
    (t.masterOf q.master).brkLast = u) ∧
  (∀ v, u < 64 → Writes q (DBG.BRK_CFG u) 8 v s → (∀ c ∈ brkCfgConds q u v s, c.1 = false) → Gives (.brkCfgWrite q u v) s fun t =>
    Answered q 0 t ∧ t.rd (DBG.BRK_CFG u) = v ∧ t.rd (DBG.BRK_STATE u) = 1 ∧ t.brkOf u = { on := true }) ∧
  (u < 64 → Writes q (DBG.BRK_CMD u) 1 2 s → (∀ c ∈ brkCmdConds q u s, c.1 = false) → Gives (.brkRearm q u) s fun t =>
    Answered q 0 t ∧ t.rd (DBG.BRK_STATE u) = 1 ∧ t.brkOf u = { on := true }) ∧
  (u < 64 → Writes q (DBG.BRK_CMD u) 1 3 s → (∀ c ∈ brkCmdConds q u s, c.1 = false) → Gives (.brkFree q u) s fun t =>
    Answered q 0 t ∧ t.rd (DBG.BRK_STATE u) = 0 ∧ t.brkOf u = {}) ∧
  (∀ g x, g < 4 → (s.groupAt.find? fun x => Nat.beq x.1 g) = some x → Gives (.groupHaltLatch g) s fun t =>
    t.groupAt = s.groupAt.erase x ∧ t.now = max s.now x.2 ∧ ∀ i, i < 32 →
      (s.bit (DBG.GROUP g) i = true → veState i s = 3 → (s.veOf i).haltAt = none →
        (t.veOf i).haltAt = some (stopFrom x.2) ∧ (t.tgtOf (1 + i)).pend = true) ∧
      (s.bit (DBG.GROUP g) (32 + i) = true → s.rd (DSP.STATE i) = 2 → (s.dspOf i).halt = none →
        (t.dspOf i).halt = some x.2 ∧ (t.tgtOf (33 + i)).pend = true))) ∧
  (∀ (q : Req) (n : Nat) (s : State), n < 65 →
  (Writes q (DBG.HCTRL n) 1 1 s → (∀ c ∈ haltConds q n s, c.1 = false) → Gives (.dbgHalt q n) s fun t => Answered q 0 t ∧
    (n = 0 → (t.tgtOf 0).pend = true) ∧
    (1 ≤ n → n ≤ 32 → (s.veOf (n - 1)).haltAt = none → (t.veOf (n - 1)).haltAt = some (stopFrom s.now) ∧ (t.tgtOf n).pend = true) ∧
    (33 ≤ n → (s.dspOf (n - 33)).halt = none → (t.dspOf (n - 33)).halt = some s.now ∧ (t.tgtOf n).pend = true)) ∧
  (Writes q (DBG.HCTRL n) 1 2 s → (∀ c ∈ resumeConds q n s, c.1 = false) → Gives (.dbgResume q n) s fun t => Answered q 0 t ∧
    (t.tgtOf n).left = none ∧ (n = 0 → (t.tgtOf n).held = false) ∧ (1 ≤ n → (t.tgtOf n).held = (s.tgtOf n).held) ∧
    (1 ≤ n → n ≤ 32 → (t.veOf (n - 1)).resumeAt = earlier (s.veOf (n - 1)).resumeAt (engEdge s.now + 64 * ticksPerNs)) ∧
    (33 ≤ n → t.rd (DSP.STATE (n - 33)) = 2)) ∧
  (Writes q (DBG.HCTRL n) 1 3 s → (∀ c ∈ resumeConds q n s, c.1 = false) → Gives (.dbgStep q n) s fun t => Answered q 0 t ∧
    (t.tgtOf n).left = some (s.rd (DBG.STEP_N n)) ∧ (n = 0 → (t.tgtOf n).held = false) ∧
    (1 ≤ n → (t.tgtOf n).held = (s.tgtOf n).held) ∧
    (1 ≤ n → n ≤ 32 → (t.veOf (n - 1)).resumeAt = earlier (s.veOf (n - 1)).resumeAt (engEdge s.now + 64 * ticksPerNs)) ∧
    (33 ≤ n → t.rd (DSP.STATE (n - 33)) = 2)) ∧
  ((s.tgtOf 0).pend = true → Gives .molxoHaltLands s fun t => (t.tgtOf 0).held = true ∧ (t.tgtOf 0).pend = false ∧
    t.bit DBG.EVFLAGS 1 = true ∧ t.sup.wd = none ∧ t.sup.hostEnd = none ∧
    (s.sup.frozen = none → s.sup.wd.isSome = true → t.sup.frozen = some (supWdLeft s s.now)) ∧
    ∀ e, s.sup.hostEnd = some e → t.sup.hostLeft = some (e - s.now)) ∧
  ((s.tgtOf 0).pend = false → molxoHeld s = false → supOpen s = true →
    ((s.tgtOf 0).left = some 1 → Gives .molxoHaltLands s fun t => (t.tgtOf 0).held = true ∧ (t.tgtOf 0).left = none) ∧
    ∀ k, (s.tgtOf 0).left = some (k + 2) → Gives .molxoHaltLands s fun t => (t.tgtOf 0).held = false ∧ (t.tgtOf 0).left = some (k + 1)) ∧
  (∀ v, Takes q (DBG.REG n) 8 s → (∀ c ∈ regConds q n false 0 s, c.1 = false) → Gives (.dbgRegAccess q n false v) s
    (AnsweredWith q 8 (regValue n (s.rd (DBG.REGSEL n)) s))) ∧
  (∀ v, Writes q (DBG.REG n) 8 v s → (∀ c ∈ regConds q n true v s, c.1 = false) → Gives (.dbgRegAccess q n true v) s fun t =>
    Answered q 0 t ∧ (1 ≤ n → (n ≤ 32 → 0x10 ≤ s.rd (DBG.REGSEL n) → s.rd (DBG.REGSEL n) < 0x20 →
      s.rd (DBG.REGSEL n) < 0x10 + (s.veOf (n - 1)).stack.length) → regValue n (s.rd (DBG.REGSEL n)) t = v)) ∧
  (∀ v, Writes q (DBG.T_DTX n) 4 v s → (s.tgtOf n).dtxFull = false → Gives (.tDtxWrite q n v) s fun t => Answered q 0 t ∧
    (t.tgtOf n).dtx = v ∧ (t.tgtOf n).dtxFull = true ∧ t.bit DBG.EVFLAGS 4 = true) ∧
  (Takes q (DBG.DTX n) 4 s → (s.tgtOf n).dtxFull = true → Gives (.dtxRead q n) s fun t => AnsweredWith q 4 (s.tgtOf n).dtx t ∧
    (q.master ≠ 9 → (t.tgtOf n).dtxFull = false ∧ (t.tgtOf n).dtxReads = (s.tgtOf n).dtxReads + 1) ∧
    (q.master = 9 → t.tgtOf n = s.tgtOf n)) ∧
  (∀ v, Writes q (DBG.DRX n) 4 v s → (s.tgtOf n).drxFull = false → Gives (.drxWrite q n v) s fun t => Answered q 0 t ∧
    (t.tgtOf n).drx = v ∧ (t.tgtOf n).drxFull = true ∧ (t.tgtOf n).drxWrites = (s.tgtOf n).drxWrites + 1) ∧
  (Takes q (DBG.T_DRX n) 4 s → (s.tgtOf n).drxFull = true → Gives (.tDrxRead q n) s fun t => AnsweredWith q 4 (s.tgtOf n).drx t ∧
    (q.master ≠ 9 → (t.tgtOf n).drxFull = false ∧ t.bit DBG.EVFLAGS 5 = true)))

/-- The I3C target: common command codes, the target reset pattern and the response buffer (02 R32 to R36, R39, R43; 15 R405,
R406). Choices and readings of the model: log entries 9, 17. -/
def Obligations.BusCodesComplete : Prop := ∀ (s : State),
  (busUp s = true →
    (∀ a, s.hdi.i3c.dyn = some a →
      (∀ d ∈ [none, some a],
        (∀ e, Gives (.enec d e) s (BusGives s fun i => { i with enInt := i.enInt || e.testBit 0, out := .ack })) ∧
        (∀ e, Gives (.disec d e) s (BusGives s fun i => { i with enInt := i.enInt && !(e.testBit 0), out := .ack })) ∧
        (∀ v, Gives (.setmwl d v) s (BusGives s fun i => { i with mwl := if 8 ≤ v ∧ v ≤ 2056 then v else i.mwl, out := .ack })) ∧
        (∀ v, Gives (.setmrl d v) s (BusGives s fun i => { i with mrl := if 8 ≤ v ∧ v ≤ 2056 then v else i.mrl, out := .ack })) ∧
        (∀ b, Gives (.rstact d b) s (BusGives s fun i => { i with rstact := some b, out := .ack }))) ∧
      Gives .rstdaa s (BusGives s fun i => { i with dyn := none, out := .ack }) ∧
      (∀ x, Gives (.setnewda a x) s (BusGives s fun i => { i with dyn := some x, out := .ack })) ∧
      Gives (.getmwl a) s (BusGives s fun i => { i with out := .data 2 i.mwl }) ∧
      Gives (.getmrl a) s (BusGives s fun i => { i with out := .data 2 i.mrl }) ∧
      Gives (.getpid a) s (BusGives s fun i =>
        { i with out := .data 6 (s.rd (HDI.IDENT 2) % 2 ^ 15 * 2 ^ 33 + 2 ^ 32 + s.rd (HDI.IDENT 6) % 2 ^ 32) }) ∧
      Gives (.getbcr a) s (BusGives s fun i => { i with out := .data 1 0x26 }) ∧
      Gives (.getdcr a) s (BusGives s fun i => { i with out := .data 1 0 }) ∧
      Gives (.getstatus a) s (fun t => ∃ v, v < 2 ^ 16 ∧ BusGives s (fun i => { i with out := .data 2 v }) t) ∧
      Gives (.unsupportedCcc (some a)) s (BusGives s fun i => { i with out := .nack }) ∧
      ∀ x, Gives (.setdasa a x) s (BusGives s fun i => { i with out := .nack })) ∧
    (s.hdi.i3c.dyn = none →
      (∀ x rivals, (∀ r ∈ rivals, provisionalId s < r) →
        Gives (.entdaa x rivals) s (BusGives s fun i => { i with dyn := some x, out := .ack })) ∧
      Gives .setaasa s (BusGives s fun i => { i with dyn := some 0x3A, out := .ack }) ∧
      (∀ x, Gives (.setdasa 0x3A x) s (BusGives s fun i => { i with dyn := some x, out := .ack })) ∧
      ∀ c ∈ [Instr.getmwl 0x3A, .getmrl 0x3A, .getpid 0x3A, .getbcr 0x3A, .getdcr 0x3A, .getstatus 0x3A, .unsupportedCcc (some 0x3A)],
        Gives c s (BusGives s fun i => { i with out := .nack })) ∧
    Gives .enthdr0 s (BusGives s fun i => { i with bus := .ddr, out := .ack }) ∧
    (∀ k, 1 ≤ k → k ≤ 3 → Gives (.enthdrUnsupported k) s (BusGives s fun i => { i with bus := .ignore })) ∧
    Gives (.unsupportedCcc none) s (BusGives s fun i => i)) ∧
  (s.crh.inReset = false →
    Gives .hdrExit s (BusGives s fun i => { i with bus := .sdr }) ∧
    (s.hdi.i3c.rstact = some 0 → Gives .targetResetPattern s (BusGives s fun i => { i with rstact := none })) ∧
    (s.hdi.i3c.rstact = some 2 → s.crh.rstFrom + ticksPerUs < s.now → Gives .targetResetPattern s (PartReset s 6)) ∧
    (s.hdi.i3c.rstact ≠ some 0 → s.hdi.i3c.rstact ≠ some 2 → Gives .targetResetPattern s fun t =>
      t.hdi.i3c = { dyn := s.hdi.i3c.dyn } ∧ (t.masterOf 0).resp = {} ∧ t.reg = s.reg ∧ t.mem = s.mem) ∧
    (s.hdi.i3c.bus ≠ .ignore →
      let r := (s.masterOf 0).resp
      Gives .responseRead s (BusGives s fun i => { i with out := .data (8 + r.len) (respBytes r) }) ∧
      ∀ op tag rsv got o m len v,
        (s.hdi.i3c.dyn = none → Gives (.i2cTransfer true op ⟨tag, rsv, got⟩ o m len v) s
          (BusGives s fun i => { i with out := .data (8 + r.len) (respBytes r) })) ∧
        (s.hdi.i3c.dyn = none → ∀ c ∈ [(1, Instr.dictRead ⟨0, tag, rsv, got, none⟩ o m len v),
          (2, .dictWrite ⟨0, tag, rsv, got, none⟩ o m len v), (3, .fetch ⟨0, tag, rsv, got, none⟩ o m len v)], c.1 = op →
          Gives (.i2cTransfer false op ⟨tag, rsv, got⟩ o m len v) s fun t =>
            ∃ u, exec c.2 s = .next u ∧ t = { u with hdi := { u.hdi with i3c := { u.hdi.i3c with out := .ack } } }) ∧
        (∀ rd, s.hdi.i3c.dyn ≠ none → Gives (.i2cTransfer rd op ⟨tag, rsv, got⟩ o m len v) s (BusGives s fun i => { i with out := .none }))))

/-- Requests of every master: READs, WRITEs, fetches and their snapshots, and the frames of the debug port (02 R37 to R47, R51,
R53, R56, R57; 00 R8; 19 R479). A READ that empties nothing changes the count of accesses alone. A WRITE of an RW member that
simply sets it leaves the value there, and changes nothing else but that count; that of one whose write also acts counts the
access and then acts. Choices and readings of the model: log entries 6, 15, 36, 46, 52. -/
def Obligations.RequestsComplete : Prop := ∀ (q : Req) (k : Nat) (r : Dict.Row) (s : State),
  let o := k / 256
  let m := k % 256
  Dict.find o m = some r → (16 ≤ q.master → r.ty ≠ .str ∧ r.ty ≠ .blob ∧ r.ty ≠ .time128 ∧ r.width ≤ 8) →
  (r.acc ≠ .rd → (∀ c ∈ (readRule q o m r.width s).conds, c.1 = false) → Reads q k (readRule q o m r.width s).len s →
    Gives (.dictRead q o m 0 0) s fun t =>
      AnsweredWith q (readRule q o m r.width s).len (readRule q o m r.width s).data t ∧
        (r.acc ≠ .rc → Only (fun j => j = HDI.STATS 0) s t)) ∧
  (∀ x, r.acc = .rd → q.master = 0 ∨ q.master = 9 → snapFor q k s = some x → x.good = true →
    (∀ p ∈ (s.masterOf q.master).pend, p.key = k → p.implicit = true ∨ p.old = true) → Reads q k x.len s →
    Gives (.dictRead q o m 0 0) s fun t => AnsweredWith q x.len x.data t ∧ Only (fun j => j = HDI.STATS 0) s t) ∧
  (∀ len v, r.acc = .w1c → k ≠ EDG.DROP_GROUPS → Writes q k len v s → Gives (.dictWrite q o m len v) s fun t => Answered q 0 t ∧
    t.rd k = s.rd k - (s.rd k &&& v) + s.freshBits k (s.rd k &&& v) ∧ Only (fun j => j = k ∨ j = HDI.STATS 0) s t) ∧
  (∀ len v, k = EDG.DROP_GROUPS → Writes q k len v s → Gives (.dictWrite q o m len v) s fun t => Answered q 0 t ∧
    let u := settleDrops s
    t.rd k = u.rd k - (u.rd k &&& v) + u.freshBits k (u.rd k &&& v)) ∧
  (∀ len v, r.acc = .rws → q.master < 9 → (∀ c ∈ stageConds q k len s, c.1 = false) → Writes q k len v s →
    Gives (.dictWrite q o m len v) s fun t => Answered q 0 t ∧ t.hdi.mirror.batch = insertStaged ⟨k, len, v⟩ s.hdi.mirror.batch ∧
      t.rd HDI.MIRROR_OWNER = q.master ∧
      Only (fun j => j = HDI.STATS 0 ∨ j = HDI.MIRROR_OWNER ∨ j = HDI.MIRROR_STATE) s t) ∧
  (∀ len v, r.acc = .rw → writeActs o m = false → Writes q k len v s → (∀ c ∈ (writeRule q o m len v s).1, c.1 = false) →
    Gives (.dictWrite q o m len v) s fun t => Answered q 0 t ∧ t.rd k = v ∧ Only (fun j => j = k ∨ j = HDI.STATS 0) s t) ∧
  (∀ len v, k ∈ [HDI.MIRROR_LEASE, HDI.MESH_ADDR, SUP.LEDGER_PERIOD, PAN.STEAL_LIMIT, SCR.STEAL_LIMIT, MSH.TMODE, CRH.FM_SEL, TMU.STEP_LIMIT,
      DBG.GROUP 0, DBG.MEM_ADDR] →
    Writes q k len v s → Gives (.dictWrite q o m len v) s fun t => Answered q 0 t ∧ t.rd k = v ∧
      Only (fun j => j = k ∨ j = HDI.STATS 0) s t) ∧
  (∀ len v, r.acc = .rw → Writes q k len v s → (∀ c ∈ (writeRule q o m len v s).1, c.1 = false) →
    Gives (.dictWrite q o m len v) s fun t => Answered q 0 t ∧
      Only (fun j => j = HDI.STATS 0) ((writeRule q o m len v s).2 s) t) ∧
  (∀ len v, r.acc = .rd → q.master < 16 → Served q 3 k len v s → (∀ c ∈ fetchConds q o m v s, c.1 = false) →
    responseLong q 0 s = false → Gives (.fetch q o m len v) s fun t => Answered q 0 t ∧
      (∃ p, (t.masterOf q.master).pend = giveUp false k (s.masterOf q.master).pend ++ [p] ∧ p.key = k ∧ p.implicit = false ∧
        p.old = false ∧ p.tag = q.tag ∧ (sized o m = false → p.parts = [])) ∧
      (t.masterOf q.master).snaps = (s.masterOf q.master).snaps.filter fun y => !(Nat.beq y.key k)) ∧
  (∀ p, ((s.masterOf q.master).pend.find? fun p => Nat.beq p.key (o * 256 + m) && p.parts.isEmpty) = some p →
    Gives (.fetchComplete q.master o m) s fun t => p.key = k ∧
      (p.implicit = false → (t.masterOf q.master).pend = (s.masterOf q.master).pend.erase p ∧
        (t.masterOf q.master).snaps = (s.masterOf q.master).snaps ++ (if p.old = true then [] else
          [⟨k, if sized o m then p.len else (snapshot o m s).1, if sized o m then p.data else (snapshot o m s).2, !p.bad⟩]))) ∧
  (∀ tag rsv got len v, ∀ c ∈ [(1, Instr.dictRead ⟨9, tag, rsv, got, none⟩ o m len v),
    (2, .dictWrite ⟨9, tag, rsv, got, none⟩ o m len v), (3, .fetch ⟨9, tag, rsv, got, none⟩ o m len v)],
    ∃ u, exec c.2 (loadInsn 0x10 s) = .next u ∧ exec (.dbgframe c.1 ⟨tag, rsv, got⟩ o m len v) s = .next u)

/-- Mesh data through HDI and through DBG, and the dictionary window (02 R51, R55; 11 R308; 19 R497; 00 R4). Choices and readings
of the model: log entries 6, 7, 36, 52. -/
def Obligations.MeshDataComplete : Prop := ∀ (q : Req) (s : State),
  (∀ len v, Writes q HDI.MESH_DATA len v s → q.master < 16 → len % 8 = 0 → s.rd HDI.MESH_ADDR % 8 = 0 →
    Gives (.meshDataWrite q len v) s fun t => Answered q 0 t ∧
      BlockSent false len (blockReqs false q.master .write (s.rd HDI.MESH_ADDR) len v) s t) ∧
  (∀ len v, Writes q DBG.MEM_DATA len v s → q.master < 16 → len % 8 = 0 → s.rd DBG.MEM_ADDR % 8 = 0 →
    Gives (.memDataWrite q len v) s fun t => Answered q 0 t ∧
      BlockSent true len (blockReqs true q.master .write (s.rd DBG.MEM_ADDR) len v) s t) ∧
  (∀ size, Served q 3 HDI.MESH_DATA 2 size s → q.master < 16 → responseLong q 0 s = false →
    (∀ c ∈ fetchConds q 0x0030 1 size s, c.1 = false) → Gives (.meshDataFetch q size) s fun t => Answered q 0 t ∧
      (t.masterOf q.master).pend = giveUp false HDI.MESH_DATA (s.masterOf q.master).pend ++ [{
        key := HDI.MESH_DATA, implicit := false, tag := q.tag
        seq := (s.masterOf q.master).fetches, addr := s.rd HDI.MESH_ADDR, len := size, parts := blockReqs false q.master .read (s.rd HDI.MESH_ADDR) size 0 }] ∧
      BlockSent false size (blockReqs false q.master .read (s.rd HDI.MESH_ADDR) size 0) s t) ∧
  (∀ size, Served q 3 DBG.MEM_DATA 2 size s → q.master < 16 → responseLong q 0 s = false →
    (∀ c ∈ fetchConds q 0xF500 1 size s, c.1 = false) → Gives (.memDataFetch q size) s fun t => Answered q 0 t ∧
      (t.masterOf q.master).pend = giveUp false DBG.MEM_DATA (s.masterOf q.master).pend ++ [{
        key := DBG.MEM_DATA, implicit := false, tag := q.tag
        seq := (s.masterOf q.master).fetches, addr := s.rd DBG.MEM_ADDR, len := size, parts := blockReqs true q.master .read (s.rd DBG.MEM_ADDR) size 0 }] ∧
      BlockSent true size (blockReqs true q.master .read (s.rd DBG.MEM_ADDR) size 0) s t) ∧
  (∀ r fl, regionOf r.addr s = 5 → canArrive r s = true → s.crh.inReset = false →
    let u := flitsNoted (path r.src 0) fl (noteArrival r { s with reqs := s.reqs.erase r })
    let o := windowObj r
    let m := windowMem r
    let p := Req.of (windowMaster r) 0
    let bad := isPoison (path r.src 0) fl
    (bad = true → Gives (.dictWindowAccess ⟨r, fl⟩) s fun t => t.resps = u.resps ++ [⟨r, 2, 0⟩] ∧ t.reg = u.reg ∧ t.mem = u.mem) ∧
    (bad = false → r.op ≠ .orw → r.len = 8 → r.addr % 8 = 0 →
      (r.op = .read → statusOf p 1 o m 0 0 (readRule p o m (windowWidth r) u).len (meshForm p 1 o m :: (readRule p o m (windowWidth r) u).conds) u = 0 →
        Gives (.dictWindowAccess ⟨r, fl⟩) s fun t => (p.master ≠ 9 → AnsweredWith p (readRule p o m (windowWidth r) u).len (readRule p o m (windowWidth r) u).data t) ∧
          ∃ l, t.resps = l ++ [⟨r, 0, (readRule p o m (windowWidth r) u).data % 2 ^ (8 * windowWidth r)⟩]) ∧
      (r.op = .write → ∀ w, exec (.dictWrite p o m (windowWidth r) (r.data % 2 ^ (8 * windowWidth r) &&& fieldsOf o m)) u = .next w →
        Gives (.dictWindowAccess ⟨r, fl⟩) s fun t =>
          t = { w with resps := w.resps ++ [⟨r, if (w.masterOf p.master).resp.status = 0 ∨ w.crh.inReset = true then 1 else 2, 0⟩] })) ∧
    (bad = false → (r.op = .orw ∨ r.len ≠ 8 ∨ r.addr % 8 ≠ 0) → Gives (.dictWindowAccess ⟨r, fl⟩) s fun t =>
      t.resps = u.resps ++ [⟨r, 2, 0⟩] ∧ t.rd (HDI.STATS 3) = min (u.rd (HDI.STATS 3) + 1) (2 ^ 32 - 1)))

/-- The batch of the mirror: its reads, drops, check, arm and cancel, the end of its lease, SYNCIN, and the apply (02 R56 to
R67; 03 R71, R76, R100). Choices and readings of the model: log entries 9, 19. -/
def Obligations.BatchesComplete : Prop := ∀ (q : Req) (s : State),
  (∀ k, Served q 4 k 0 0 s → (ownerCond q s).1 = false → q.master < 9 →
    (stagedAt k s = none → responseLong q 0 s = false → Gives (.mread q (k / 256) ⟨k % 256, 0⟩) s (AnsweredWith q 0 0)) ∧
    ∀ e, stagedAt k s = some e → responseLong q e.len s = false → Gives (.mread q (k / 256) ⟨k % 256, 0⟩) s (AnsweredWith q e.len e.val)) ∧
  (∀ k, Served q 5 k 0 0 s → responseLong q 0 s = false → (∀ c ∈ mdropConds q s, c.1 = false) →
    Gives (.mdrop q (k / 256) ⟨k % 256, 0⟩) s fun t => Answered q 0 t ∧
      t.hdi.mirror.batch = (s.hdi.mirror.batch.filter fun e => !(Nat.beq e.key k)) ∧
      Only (fun j => j = HDI.STATS 0 ∨ j = HDI.MIRROR_STATE) s t) ∧
  (s.rd HDI.MIRROR_OWNER ≠ 0xFF → mirrorState s ≠ 5 → Gives .mirrorLeaseExpiry s fun t =>
    t.rd HDI.MIRROR_OWNER = 0xFF ∧ t.rd HDI.MIRROR_STATE = 0 ∧ t.hdi.mirror = {} ∧ t.now = max s.now s.hdi.mirror.leaseEnd) ∧
  (∀ v, Writes q HDI.BATCH_CHECK 1 v s → (∀ c ∈ checkConds q s, c.1 = false) → Gives (.batchCheck q v) s fun t =>
    Answered q 0 t ∧ t.rd HDI.MIRROR_STATE = 2 ∧ t.hdi.mirror.batch = s.hdi.mirror.batch) ∧
  (mirrorState s = 2 →
    (firstFailing s = none → Gives .batchCheckEnd s fun t => t.rd HDI.BATCH_RESULT = 0 ∧ t.rd HDI.MIRROR_STATE = 3) ∧
    ∀ x, firstFailing s = some x → Gives .batchCheckEnd s fun t =>
      t.rd HDI.BATCH_RESULT = x.2 ∧ t.rd HDI.BATCH_FAIL = x.1 ∧ t.rd HDI.MIRROR_STATE = 4) ∧
  (∀ v, Writes q HDI.BATCH_DISCARD 1 v s → (∀ c ∈ discardConds q s, c.1 = false) → s.rd HDI.MIRROR_OWNER ≠ 0xFF →
    Gives (.batchDiscard q v) s fun t => Answered q 0 t ∧ t.rd HDI.MIRROR_OWNER = 0xFF ∧ t.rd HDI.MIRROR_STATE = 0 ∧
      t.hdi.mirror.batch = []) ∧
  (∀ v, Writes q HDI.APPLY_ARM 1 v s → (∀ c ∈ armConds q s, c.1 = false) → Gives (.applyArm q v) s fun t => Answered q 0 t ∧
    t.rd HDI.MIRROR_STATE = 5 ∧ t.hdi.mirror.batch = s.hdi.mirror.batch ∧ t.hdi.mirror.syncLow = false ∧
    t.hdi.mirror.edge = (if s.rd HDI.APPLY_MODE = 0 then some (engEdge (s.now + ticksPerUs)) else none) ∧
    ∀ n, n < 32 → batchStarts n s = true → veState n t = 2) ∧
  (∀ v, Writes q HDI.APPLY_CANCEL 1 v s → (∀ c ∈ cancelConds q s, c.1 = false) → Gives (.applyCancel q v) s fun t =>
    Answered q 0 t ∧ (mirrorState s = 5 → t.rd HDI.MIRROR_STATE = 3 ∧ t.hdi.mirror.edge = none ∧
      t.hdi.mirror.batch = s.hdi.mirror.batch)) ∧
  (∀ level, Gives (.syncinCapture level) s fun t => t.pins.syncin = level ∧ t.now = max s.now (engAfter s.now) ∧
    (mirrorState s = 5 → s.rd HDI.APPLY_MODE = 2 → s.hdi.mirror.edge = none →
      (level = false → t.hdi.mirror.syncLow = true ∧ t.hdi.mirror.edge = none) ∧
      (level = true → t.hdi.mirror.edge =
        if s.hdi.mirror.syncLow = true ∨ (s.pins.syncin = false ∧ engAfter s.hdi.mirror.armedAt < engAfter s.now) then some (engAfter s.now + s.rd HDI.SYNC_DELAY * ticksPerNs) else none))) ∧
  (∀ e late, mirrorState s = 5 → applyEdge s = some (e, late) → (s.hdi.mirror.batch.map (·.key)).Nodup →
    (∀ x ∈ s.hdi.mirror.batch, (Dict.find (x.key / 256) (x.key % 256)).map (·.acc) = some .rws) → Gives .apply s fun t =>
    t.rd HDI.APPLY_OUTCOME = (if late then 2 else 1) ∧ t.rd HDI.APPLIED_AT = toTime128 (netAt s e) ∧
    t.rd HDI.MIRROR_OWNER = 0xFF ∧ t.rd HDI.MIRROR_STATE = 0 ∧ t.hdi.mirror.batch = [] ∧
    ∀ x ∈ s.hdi.mirror.batch,
      ((∀ n, n < 32 → veState n s = 3 → keyOfEngine n x.key s = false) → t.rd x.key = x.val) ∧
      ∀ n, n < 32 → veState n s = 3 → keyOfEngine n x.key s = true → s.rd x.key ≠ x.val →
        t.rd x.key = s.rd x.key ∧ (e + 64 * ticksPerNs, landsLater n (s.upto e)) ∈ (t.veOf n).lands ∧ x ∈ landsLater n (s.upto e))

/-- The management slots, the cleared counts of HDI.STATS, retirement and the pass over the ledgers (02 R48 to R50, R53; 20 R506,
R512; 12 R334). Choices and readings of the model: log entries 6, 38, 52. -/
def Obligations.ManagementCompletes : Prop := ∀ (s : State),
  (∀ n x, n < 48 → oldest n 1 s = some x →
    (∀ k, slotBound n x.src s = some k → outstanding k n x.src s < 16 → Gives (.mgmtMessage n) s fun t =>
      ∃ u, u = (takeMsg n x s).modSlot k (fun y => { y with last := s.now }) ∧ ∀ j, j ≠ TMU.EVFLAGS →
        (∀ l, j ∉ [LNK.MESH_RESP l, TMU.LANE_FLAGS l, TMU.TXTS_LOST l, TMU.TXTS_MADE l, TMU.TXTS_READ l]) → t.rd j = (request ⟨k, frameByte x.data 1, frameByte x.data 5,
          if x.data / 2 ^ 48 % 65536 + 8 = x.len then none else some (x.len - 8), none⟩ (frameByte x.data 0)
          (x.data / 2 ^ 16 % 65536) (frameByte x.data 4) (x.data / 2 ^ 48 % 65536) (x.data / 2 ^ 64) u).rd j) ∧
    (slotBound n x.src s = none → slotFree s = none → Gives (.mgmtMessage n) s fun t =>
      t.rd (HDI.STATS 8) = min (s.rd (HDI.STATS 8) + 1) (2 ^ 32 - 1)) ∧
    (∀ k, slotBound n x.src s = none → slotFree s = some k → Gives (.mgmtMessage n) s fun t =>
      ∃ u, (u.slotOf k).bound = true ∧ u.rd (HDI.SLOT (k - 1)) = n * 65536 + x.src ∧ t = trySend n (slotRequest k x.len x.data u))) ∧
  (∀ k, 1 ≤ k → k ≤ 8 → (s.slotOf k).bound = true → s.rd HDI.MIRROR_OWNER ≠ k → Gives (.mgmtSlotIdleTimeout k) s fun t =>
    t.slotOf k = {} ∧ t.masterOf k = {} ∧ t.rd (HDI.SLOT (k - 1)) = 0 ∧
    t.now = max s.now ((s.slotOf k).last + 1000000 * ticksPerUs) ∧ ∀ j, j ≠ k → t.slotOf j = s.slotOf j ∧ t.masterOf j = s.masterOf j) ∧
  (∀ q v, Writes q HDI.STATS_CLR 1 v s → Gives (.statsClr q v) s fun t => Answered q 0 t ∧ t.rd (HDI.STATS 0) = 1 ∧
    ∀ k, 1 ≤ k → k < 13 → t.rd (HDI.STATS k) = 0) ∧
  (∀ q k v, k < 13 → Writes q (HDI.RETIRE_VE + k) (if retireBits (0x4000 + k) = 32 then 4 else 8) v s →
    (∀ c ∈ retireConds (0x4000 + k) v s, c.1 = false) → Gives (.retireWrite q k v) s fun t => Answered q 0 t ∧
      t.rd (HDI.RETIRE_VE + k) = v) ∧
  (supOpen s = true → molxoHeld s = false → s.rd SUP.LEDGER_PERIOD ≠ 0 → Gives .ledgerCheck s fun t =>
    let u := ledgerDue s
    t.now = u.now ∧ t.rd SUP.LEDGER_PASSES = min (s.rd SUP.LEDGER_PASSES + 1) (2 ^ 64 - 1) ∧
    (ledgerFails u = [] → t.rd SUP.LEDGER_IMBAL = s.rd SUP.LEDGER_IMBAL) ∧
    ∀ x, (ledgerFails u).getLast? = some x → t.rd SUP.LEDGER_FAIL = x ∧ t.bit SUP.EVFLAGS 4 = true ∧
      t.rd SUP.LEDGER_IMBAL = min (s.rd SUP.LEDGER_IMBAL + (ledgerFails u).length) (2 ^ 64 - 1))

/-- Responses of the mesh: taken by the source, their bytes put into the fetch they belong to, errors counted (11 R302, R308;
02 R55; 19 R497). Choices and readings of the model: log entry 7. -/
def Obligations.ResponsesComplete : Prop := ∀ (r : MeshReq) (fl : List Flit) (x : MeshResp) (kind : Nat) (i : Instr) (s : State),
  (kind, i) ∈ [(0, Instr.meshDataResponse r fl), (1, .meshAckResponse r fl), (2, .meshErrorResponse ⟨r, fl⟩)] →
  (s.resps.find? fun x => decide (x.req = r) && Nat.beq x.kind kind) = some x →
  canReturn x s = true →
  let kind := (arrived fl x s).kind
  (∀ a b, r.own = .mesh a b → Gives i s fun t => t.resps = s.resps.erase x) ∧
  (∀ m p, r.own = .hdi m → r.op = .read → ((s.masterOf m).pend.find? fun p => p.parts.contains r) = some p →
    Gives i s fun t => t.resps = s.resps.erase x ∧ (t.masterOf m).pend = (s.masterOf m).pend.map fun y => if y = p then
      { p with
        parts := p.parts.erase r
        bad := p.bad || Nat.beq kind 2
        data := p.data + (arrived fl x s).data % 2 ^ (8 * r.len) * 2 ^ (8 * (r.addr - p.addr)) } else y) ∧
  (∀ m, r.own = .hdi m → r.op ≠ .read → Gives i s fun t => t.resps = s.resps.erase x ∧
    t.rd HDI.MESH_ERRORS = if kind = 2 then min (s.rd HDI.MESH_ERRORS + 1) (2 ^ 32 - 1) else s.rd HDI.MESH_ERRORS) ∧
  (∀ m, r.own = .dbg m → r.op ≠ .read → kind = 2 → Gives i s fun t => t.resps = s.resps.erase x ∧
    t.bit DBG.MEM_STATUS 0 = true ∧ t.bit DBG.EVFLAGS 6 = true)

/-- What a lane puts on its line reads back at a lane with the same settings: the bits of PAM4 symbols, precoded or not, and of an
NRZ line, whatever LNK.PRECODE is; each precoded symbol is the Gray symbol less the one before it, modulo 4, and START begins at 0
(12 R321, R322). Choices and readings of the model: log entry 51. -/
def Obligations.LineReadsBack : Prop :=
  (∀ (n : Nat) (bits : List Bool) (s : State), (s.laneOf n).rxP < 4 →
    (pam4 n s = true → bits.length % 2 = 0 →
      lineReceived n (codeBits true (precodeOn n s) { p := (s.laneOf n).rxP } bits).1 s = bits) ∧
    (pam4 n s = false → precodeOn n s = false ∧ lineReceived n (codeBits false (precodeOn n s) {} bits).1 s = bits) ∧
    ∀ q, n < 48 → Writes q (LNK.CTRL n) 1 1 s → (∀ c ∈ laneStartConds n s, c.1 = false) →
      Gives (.laneStart q n) s fun t => (t.laneOf n).line.p = 0 ∧ (t.laneOf n).rxP = 0) ∧
  (∀ (p : Nat) (gs : List Nat) (j : Nat), (∀ g ∈ gs, g < 4) → j < gs.length →
    let ps := (precode p gs).1
    ps.getD j 0 = (gs.getD j 0 + 4 - (if j = 0 then p else ps.getD (j - 1) 0) % 4) % 4 ∧
      (unprecode p ps).getD j 0 = gs.getD j 0)
end

