-- ==== Sys2Proof/Laws/Table.lean ====
section
/-! SUPPORT. The laws of sparse tables and of memory: the canonical form is kept by every operation, and a read after a write
gives what was written (00_scope.md R3, R14). -/
namespace Sys2Proof.Laws
open Sys2Proof Sys2Proof.Machine
variable {α : Type} [DecidableEq α] {d : Nat → α}


/-- Every key of the table is above k. -/
def above (k : Nat) : Tab α → Prop
  | [] => True
  | e :: _ => k < e.1

theorem tab_wf_cons (e : Nat × α) (t : Tab α) : Tab.wf d (e :: t) = true ↔ e.2 ≠ d e.1 ∧ above e.1 t ∧ Tab.wf d t = true := by
  cases t with
  | nil => simp [Tab.wf, above]
  | cons f t => simp [Tab.wf, above, and_assoc]

theorem above_del {k j : Nat} : ∀ {t : Tab α}, above k t → Tab.wf d t = true → above k (Tab.del j t)
  | [], _, _ => trivial
  | e :: t, ha, hw => by
    rw [tab_wf_cons] at hw
    simp only [Tab.del]
    split
    · apply above_del _ hw.2.2
      cases t with
      | nil => trivial
      | cons f t => exact Nat.lt_trans ha hw.2.1
    · exact ha

theorem tab_wf_del {j : Nat} : ∀ {t : Tab α}, Tab.wf d t = true → Tab.wf d (Tab.del j t) = true
  | [], _ => rfl
  | e :: t, hw => by
    rw [tab_wf_cons] at hw
    simp only [Tab.del]
    split
    · exact tab_wf_del hw.2.2
    · rw [tab_wf_cons]
      exact ⟨hw.1, above_del hw.2.1 hw.2.2, tab_wf_del hw.2.2⟩

/-- Key k is not listed. -/
def absent (k : Nat) (t : Tab α) : Prop := ∀ e ∈ t, e.1 ≠ k

omit [DecidableEq α] in
theorem absent_del (k : Nat) : ∀ t : Tab α, absent k (Tab.del k t)
  | [] => by simp [absent, Tab.del]
  | e :: t => by
    simp only [Tab.del]
    split
    · exact absent_del k t
    · intro x hx
      rcases List.mem_cons.1 hx with rfl | hx
      · assumption
      · exact absent_del k t x hx

theorem tab_wf_ins {k : Nat} {v : α} (hv : v ≠ d k) : ∀ {t : Tab α}, Tab.wf d t = true → absent k t → Tab.wf d (Tab.ins k v t) = true
  | [], _, _ => by simp [Tab.ins, Tab.wf, hv]
  | e :: t, hw, ha => by
    have hw' := hw
    rw [tab_wf_cons] at hw
    simp only [Tab.ins]
    split
    · rw [tab_wf_cons]
      exact ⟨hv, by assumption, hw'⟩
    · rw [tab_wf_cons]
      have hne := ha e (List.mem_cons_self)
      refine ⟨hw.1, ?_, tab_wf_ins hv hw.2.2 fun x hx => ha x (List.mem_cons_of_mem _ hx)⟩
      cases t with
      | nil => simp only [Tab.ins, above]; omega
      | cons f t =>
        simp only [Tab.ins]
        split
        · simp only [above]; omega
        · exact hw.2.1

theorem tab_wf_set {t : Tab α} (h : Tab.wf d t = true) (k : Nat) (v : α) : Tab.wf d (Tab.set d t k v) = true := by
  unfold Tab.set
  split
  · exact tab_wf_del h
  · exact tab_wf_ins (by assumption) (tab_wf_del h) (absent_del k t)

theorem above_filter {k : Nat} {f : Nat × α → Bool} : ∀ {t : Tab α}, above k t → Tab.wf d t = true → above k (t.filter f)
  | [], _, _ => trivial
  | e :: t, ha, hw => by
    rw [tab_wf_cons] at hw
    simp only [List.filter]
    split
    · exact ha
    · apply above_filter _ hw.2.2
      cases t with
      | nil => trivial
      | cons f t => exact Nat.lt_trans ha hw.2.1

theorem tab_wf_filter {f : Nat × α → Bool} : ∀ {t : Tab α}, Tab.wf d t = true → Tab.wf d (t.filter f) = true
  | [], _ => rfl
  | e :: t, hw => by
    rw [tab_wf_cons] at hw
    simp only [List.filter]
    split
    · rw [tab_wf_cons]
      exact ⟨hw.1, above_filter hw.2.1 hw.2.2, tab_wf_filter hw.2.2⟩
    · exact tab_wf_filter hw.2.2

/-! Reading what was written. -/
omit [DecidableEq α] in
theorem get_del_same (k : Nat) : ∀ t : Tab α, Tab.get d (Tab.del k t) k = d k
  | [] => rfl
  | e :: t => by
    simp only [Tab.del]
    split
    · exact get_del_same k t
    · simp only [Tab.get]; rw [if_neg (by assumption)]; exact get_del_same k t
omit [DecidableEq α] in
theorem get_del_other {k j : Nat} (h : j ≠ k) : ∀ t : Tab α, Tab.get d (Tab.del k t) j = Tab.get d t j
  | [] => rfl
  | e :: t => by
    simp only [Tab.del, Tab.get]
    split
    · rename_i he
      rw [get_del_other h t, if_neg (by omega)]
    · simp only [Tab.get]; rw [get_del_other h t]
omit [DecidableEq α] in
theorem get_ins_same (k : Nat) (v : α) : ∀ t : Tab α, absent k t → Tab.get d (Tab.ins k v t) k = v
  | [], _ => by simp [Tab.ins, Tab.get]
  | e :: t, ha => by
    simp only [Tab.ins]
    split
    · simp [Tab.get]
    · simp only [Tab.get]
      rw [if_neg (ha e List.mem_cons_self)]
      exact get_ins_same k v t fun x hx => ha x (List.mem_cons_of_mem _ hx)
omit [DecidableEq α] in
theorem get_ins_other {k j : Nat} (h : j ≠ k) (v : α) : ∀ t : Tab α, Tab.get d (Tab.ins k v t) j = Tab.get d t j
  | [] => by simp [Tab.ins, Tab.get, h.symm]
  | e :: t => by
    simp only [Tab.ins]
    split
    · simp [Tab.get, h.symm]
    · simp only [Tab.get]; rw [get_ins_other h v t]

theorem get_set_same (t : Tab α) (k : Nat) (v : α) : Tab.get d (Tab.set d t k v) k = v := by
  unfold Tab.set
  split
  · rw [get_del_same]; exact (by assumption : v = d k).symm
  · exact get_ins_same k v _ (absent_del k t)

theorem get_set_other (t : Tab α) {k j : Nat} (h : j ≠ k) (v : α) : Tab.get d (Tab.set d t k v) j = Tab.get d t j := by
  unfold Tab.set
  split
  · exact get_del_other h t
  · rw [get_ins_other h, get_del_other h]

theorem get_set (t : Tab α) (k j : Nat) (v : α) : Tab.get d (Tab.set d t k v) j = if j = k then v else Tab.get d t j := by
  split
  · rename_i h; subst h; exact get_set_same t j v
  · exact get_set_other t (by assumption) v

/-! Memory. -/

theorem mem_wf_write : ∀ {m : Tab Byte} {a n v : Nat}, Tab.wf byteDefault m = true → Tab.wf byteDefault (memWrite m a n v) = true
  | _, _, 0, _, h => h
  | _, _, _ + 1, _, h => by
    unfold memWrite
    exact mem_wf_write (tab_wf_set h _ _)

theorem mem_wf_clear {m : Tab Byte} {a n : Nat} (h : Tab.wf byteDefault m = true) : Tab.wf byteDefault (memClear m a n) = true :=
  tab_wf_filter h

theorem mem_wf_or {m : Tab Byte} {a n v : Nat} (h : Tab.wf byteDefault m = true) : Tab.wf byteDefault (memOr m a n v) = true :=
  mem_wf_write h

/-- A byte after a write: inside the bytes stored, the byte of the value; elsewhere what it was. -/
theorem memByte_write : ∀ (m : Tab Byte) (a n v x : Nat),
    memByte (memWrite m a n v) x = if a ≤ x ∧ x < a + n then BitVec.ofNat 8 (v / 256 ^ (x - a)) else memByte m x
  | m, a, 0, v, x => by
    rw [if_neg (by omega)]
    rfl
  | m, a, n + 1, v, x => by
    simp only [memWrite]
    rw [memByte_write]
    by_cases h : x = a
    · subst h
      rw [if_neg (by omega), if_pos (by omega)]
      simp [memByte, get_set_same]
    · by_cases h1 : a + 1 ≤ x ∧ x < a + 1 + n
      · rw [if_pos h1, if_pos (by omega)]
        have : x - a = (x - (a + 1)) + 1 := by omega
        rw [this, Nat.pow_succ, Nat.mul_comm, Nat.div_div_eq_div_mul]
      · rw [if_neg h1, if_neg (by omega)]
        exact get_set_other _ h _

theorem memByte_write_outside {m : Tab Byte} {a n v x : Nat} (h : x < a ∨ a + n ≤ x) :
    memByte (memWrite m a n v) x = memByte m x := by
  rw [memByte_write, if_neg (by omega)]

omit [DecidableEq α] in
theorem get_filter (f : Nat → Bool) (k : Nat) : ∀ t : Tab α,
    Tab.get d (t.filter fun e => f e.1) k = if f k then Tab.get d t k else d k
  | [] => by simp [Tab.get]
  | e :: t => by
    simp only [List.filter]
    cases hf : f e.1
    · simp only [Tab.get]
      rw [get_filter f k t]
      by_cases h : e.1 = k
      · subst h; simp [hf]
      · simp [h]
    · simp only [Tab.get]
      rw [get_filter f k t]
      by_cases h : e.1 = k
      · subst h; simp [hf]
      · simp [h]

set_option Elab.async false in
/-- A byte after a range has been made zero. -/
theorem memByte_clear (m : Tab Byte) (a n x : Nat) :
    memByte (memClear m a n) x = if a ≤ x ∧ x < a + n then 0#8 else memByte m x := by
  unfold memByte memClear
  rw [get_filter (fun y => Nat.blt y a || Nat.ble (a + n) y)]
  by_cases h : a ≤ x ∧ x < a + n
  · have h1 : (Nat.blt x a || Nat.ble (a + n) x) = false := by
      rw [Bool.eq_false_iff]
      simp only [ne_eq, Bool.or_eq_true, Nat.blt_eq, Nat.ble_eq]; omega
    rw [if_pos h, h1]
    rfl
  · have h1 : (Nat.blt x a || Nat.ble (a + n) x) = true := by
      simp only [Bool.or_eq_true, Nat.blt_eq, Nat.ble_eq]; omega
    rw [if_neg h, if_pos h1]

end Sys2Proof.Laws
end

