-- ==== Sys2Proof/Laws/State.lean ====
section
/-! SUPPORT. One lemma per field and update of the state, what a member and a unit read after an update, and what the
shared operations of an access can do. -/
namespace Sys2Proof.Laws
open Sys2Proof Sys2Proof.Machine

variable (s : State)

/-! Fields that an update leaves. -/

@[simp] theorem wr_now (k v : Nat) : (s.wr k v).now = s.now := rfl
@[simp] theorem wr_mem (k v : Nat) : (s.wr k v).mem = s.mem := rfl
@[simp] theorem wr_evq (k v : Nat) : (s.wr k v).evq = s.evq := rfl
@[simp] theorem wr_freeCtr (k v : Nat) : (s.wr k v).freeCtr = s.freeCtr := rfl
@[simp] theorem wr_pending (k v : Nat) : (s.wr k v).pending = s.pending := rfl
@[simp] theorem wr_hdi (k v : Nat) : (s.wr k v).hdi = s.hdi := rfl
@[simp] theorem wr_clk (k v : Nat) : (s.wr k v).clk = s.clk := rfl
@[simp] theorem wr_sched (k v : Nat) : (s.wr k v).sched = s.sched := rfl
@[simp] theorem wr_ve (k v : Nat) : (s.wr k v).ve = s.ve := rfl
@[simp] theorem wr_outCh (k v : Nat) : (s.wr k v).outCh = s.outCh := rfl
@[simp] theorem wr_inCh (k v : Nat) : (s.wr k v).inCh = s.inCh := rfl
@[simp] theorem wr_fcp (k v : Nat) : (s.wr k v).fcp = s.fcp := rfl
@[simp] theorem wr_sq (k v : Nat) : (s.wr k v).sq = s.sq := rfl
@[simp] theorem wr_brk (k v : Nat) : (s.wr k v).brk = s.brk := rfl
@[simp] theorem wr_tgt (k v : Nat) : (s.wr k v).tgt = s.tgt := rfl
@[simp] theorem wr_groupAt (k v : Nat) : (s.wr k v).groupAt = s.groupAt := rfl
@[simp] theorem wr_dsp (k v : Nat) : (s.wr k v).dsp = s.dsp := rfl
@[simp] theorem wr_focus (k v : Nat) : (s.wr k v).focus = s.focus := rfl
@[simp] theorem wr_trim (k v : Nat) : (s.wr k v).trim = s.trim := rfl
@[simp] theorem wr_reqs (k v : Nat) : (s.wr k v).reqs = s.reqs := rfl
@[simp] theorem wr_resps (k v : Nat) : (s.wr k v).resps = s.resps := rfl
@[simp] theorem wr_held (k v : Nat) : (s.wr k v).held = s.held := rfl
@[simp] theorem wr_steal (k v : Nat) : (s.wr k v).steal = s.steal := rfl
@[simp] theorem wr_labels (k v : Nat) : (s.wr k v).labels = s.labels := rfl
@[simp] theorem wr_fresh (k v : Nat) : (s.wr k v).fresh = s.fresh := rfl
@[simp] theorem wr_cleared (k v : Nat) : (s.wr k v).cleared = s.cleared := rfl
@[simp] theorem wr_drain (k v : Nat) : (s.wr k v).drain = s.drain := rfl
@[simp] theorem wr_trace (k v : Nat) : (s.wr k v).trace = s.trace := rfl
@[simp] theorem wr_dmc (k v : Nat) : (s.wr k v).dmc = s.dmc := rfl
@[simp] theorem wr_autoTrain (k v : Nat) : (s.wr k v).autoTrain = s.autoTrain := rfl
@[simp] theorem wr_crh (k v : Nat) : (s.wr k v).crh = s.crh := rfl
@[simp] theorem wr_cfg (k v : Nat) : (s.wr k v).cfg = s.cfg := rfl
@[simp] theorem wr_sup (k v : Nat) : (s.wr k v).sup = s.sup := rfl
@[simp] theorem wr_dbg (k v : Nat) : (s.wr k v).dbg = s.dbg := rfl
@[simp] theorem wr_tmu (k v : Nat) : (s.wr k v).tmu = s.tmu := rfl
@[simp] theorem wr_lanes (k v : Nat) : (s.wr k v).lanes = s.lanes := rfl
@[simp] theorem wr_cells (k v : Nat) : (s.wr k v).cells = s.cells := rfl
@[simp] theorem wr_cellCfg (k v : Nat) : (s.wr k v).cellCfg = s.cellCfg := rfl
@[simp] theorem wr_sels (k v : Nat) : (s.wr k v).sels = s.sels := rfl
@[simp] theorem wr_tracks (k v : Nat) : (s.wr k v).tracks = s.tracks := rfl
@[simp] theorem wr_upsets (k v : Nat) : (s.wr k v).upsets = s.upsets := rfl
@[simp] theorem wr_facets (k v : Nat) : (s.wr k v).facets = s.facets := rfl
@[simp] theorem wr_fev (k v : Nat) : (s.wr k v).fev = s.fev := rfl
@[simp] theorem wr_panes (k v : Nat) : (s.wr k v).panes = s.panes := rfl
@[simp] theorem wr_banks (k v : Nat) : (s.wr k v).banks = s.banks := rfl
@[simp] theorem wr_pins (k v : Nat) : (s.wr k v).pins = s.pins := rfl
@[simp] theorem addTo_now (w k d : Nat) : (s.addTo w k d).now = s.now := rfl
@[simp] theorem addTo_mem (w k d : Nat) : (s.addTo w k d).mem = s.mem := rfl
@[simp] theorem addTo_evq (w k d : Nat) : (s.addTo w k d).evq = s.evq := rfl
@[simp] theorem addTo_freeCtr (w k d : Nat) : (s.addTo w k d).freeCtr = s.freeCtr := rfl
@[simp] theorem addTo_pending (w k d : Nat) : (s.addTo w k d).pending = s.pending := rfl
@[simp] theorem addTo_hdi (w k d : Nat) : (s.addTo w k d).hdi = s.hdi := rfl
@[simp] theorem addTo_clk (w k d : Nat) : (s.addTo w k d).clk = s.clk := rfl
@[simp] theorem addTo_sched (w k d : Nat) : (s.addTo w k d).sched = s.sched := rfl
@[simp] theorem addTo_ve (w k d : Nat) : (s.addTo w k d).ve = s.ve := rfl
@[simp] theorem addTo_outCh (w k d : Nat) : (s.addTo w k d).outCh = s.outCh := rfl
@[simp] theorem addTo_inCh (w k d : Nat) : (s.addTo w k d).inCh = s.inCh := rfl
@[simp] theorem addTo_fcp (w k d : Nat) : (s.addTo w k d).fcp = s.fcp := rfl
@[simp] theorem addTo_sq (w k d : Nat) : (s.addTo w k d).sq = s.sq := rfl
@[simp] theorem addTo_brk (w k d : Nat) : (s.addTo w k d).brk = s.brk := rfl
@[simp] theorem addTo_tgt (w k d : Nat) : (s.addTo w k d).tgt = s.tgt := rfl
@[simp] theorem addTo_groupAt (w k d : Nat) : (s.addTo w k d).groupAt = s.groupAt := rfl
@[simp] theorem addTo_dsp (w k d : Nat) : (s.addTo w k d).dsp = s.dsp := rfl
@[simp] theorem addTo_focus (w k d : Nat) : (s.addTo w k d).focus = s.focus := rfl
@[simp] theorem addTo_trim (w k d : Nat) : (s.addTo w k d).trim = s.trim := rfl
@[simp] theorem addTo_reqs (w k d : Nat) : (s.addTo w k d).reqs = s.reqs := rfl
@[simp] theorem addTo_resps (w k d : Nat) : (s.addTo w k d).resps = s.resps := rfl
@[simp] theorem addTo_held (w k d : Nat) : (s.addTo w k d).held = s.held := rfl
@[simp] theorem addTo_steal (w k d : Nat) : (s.addTo w k d).steal = s.steal := rfl
@[simp] theorem addTo_labels (w k d : Nat) : (s.addTo w k d).labels = s.labels := rfl
@[simp] theorem addTo_fresh (w k d : Nat) : (s.addTo w k d).fresh = s.fresh := rfl
@[simp] theorem addTo_cleared (w k d : Nat) : (s.addTo w k d).cleared = s.cleared := rfl
@[simp] theorem addTo_drain (w k d : Nat) : (s.addTo w k d).drain = s.drain := rfl
@[simp] theorem addTo_trace (w k d : Nat) : (s.addTo w k d).trace = s.trace := rfl
@[simp] theorem addTo_dmc (w k d : Nat) : (s.addTo w k d).dmc = s.dmc := rfl
@[simp] theorem addTo_autoTrain (w k d : Nat) : (s.addTo w k d).autoTrain = s.autoTrain := rfl
@[simp] theorem addTo_crh (w k d : Nat) : (s.addTo w k d).crh = s.crh := rfl
@[simp] theorem addTo_cfg (w k d : Nat) : (s.addTo w k d).cfg = s.cfg := rfl
@[simp] theorem addTo_sup (w k d : Nat) : (s.addTo w k d).sup = s.sup := rfl
@[simp] theorem addTo_dbg (w k d : Nat) : (s.addTo w k d).dbg = s.dbg := rfl
@[simp] theorem addTo_tmu (w k d : Nat) : (s.addTo w k d).tmu = s.tmu := rfl
@[simp] theorem addTo_lanes (w k d : Nat) : (s.addTo w k d).lanes = s.lanes := rfl
@[simp] theorem addTo_cells (w k d : Nat) : (s.addTo w k d).cells = s.cells := rfl
@[simp] theorem addTo_cellCfg (w k d : Nat) : (s.addTo w k d).cellCfg = s.cellCfg := rfl
@[simp] theorem addTo_sels (w k d : Nat) : (s.addTo w k d).sels = s.sels := rfl
@[simp] theorem addTo_tracks (w k d : Nat) : (s.addTo w k d).tracks = s.tracks := rfl
@[simp] theorem addTo_upsets (w k d : Nat) : (s.addTo w k d).upsets = s.upsets := rfl
@[simp] theorem addTo_facets (w k d : Nat) : (s.addTo w k d).facets = s.facets := rfl
@[simp] theorem addTo_fev (w k d : Nat) : (s.addTo w k d).fev = s.fev := rfl
@[simp] theorem addTo_panes (w k d : Nat) : (s.addTo w k d).panes = s.panes := rfl
@[simp] theorem addTo_banks (w k d : Nat) : (s.addTo w k d).banks = s.banks := rfl
@[simp] theorem addTo_pins (w k d : Nat) : (s.addTo w k d).pins = s.pins := rfl
@[simp] theorem bump_now (w k : Nat) : (s.bump w k).now = s.now := rfl
@[simp] theorem bump_mem (w k : Nat) : (s.bump w k).mem = s.mem := rfl
@[simp] theorem bump_evq (w k : Nat) : (s.bump w k).evq = s.evq := rfl
@[simp] theorem bump_freeCtr (w k : Nat) : (s.bump w k).freeCtr = s.freeCtr := rfl
@[simp] theorem bump_pending (w k : Nat) : (s.bump w k).pending = s.pending := rfl
@[simp] theorem bump_hdi (w k : Nat) : (s.bump w k).hdi = s.hdi := rfl
@[simp] theorem bump_clk (w k : Nat) : (s.bump w k).clk = s.clk := rfl
@[simp] theorem bump_sched (w k : Nat) : (s.bump w k).sched = s.sched := rfl
@[simp] theorem bump_ve (w k : Nat) : (s.bump w k).ve = s.ve := rfl
@[simp] theorem bump_outCh (w k : Nat) : (s.bump w k).outCh = s.outCh := rfl
@[simp] theorem bump_inCh (w k : Nat) : (s.bump w k).inCh = s.inCh := rfl
@[simp] theorem bump_fcp (w k : Nat) : (s.bump w k).fcp = s.fcp := rfl
@[simp] theorem bump_sq (w k : Nat) : (s.bump w k).sq = s.sq := rfl
@[simp] theorem bump_brk (w k : Nat) : (s.bump w k).brk = s.brk := rfl
@[simp] theorem bump_tgt (w k : Nat) : (s.bump w k).tgt = s.tgt := rfl
@[simp] theorem bump_groupAt (w k : Nat) : (s.bump w k).groupAt = s.groupAt := rfl
@[simp] theorem bump_dsp (w k : Nat) : (s.bump w k).dsp = s.dsp := rfl
@[simp] theorem bump_focus (w k : Nat) : (s.bump w k).focus = s.focus := rfl
@[simp] theorem bump_trim (w k : Nat) : (s.bump w k).trim = s.trim := rfl
@[simp] theorem bump_reqs (w k : Nat) : (s.bump w k).reqs = s.reqs := rfl
@[simp] theorem bump_resps (w k : Nat) : (s.bump w k).resps = s.resps := rfl
@[simp] theorem bump_held (w k : Nat) : (s.bump w k).held = s.held := rfl
@[simp] theorem bump_steal (w k : Nat) : (s.bump w k).steal = s.steal := rfl
@[simp] theorem bump_labels (w k : Nat) : (s.bump w k).labels = s.labels := rfl
@[simp] theorem bump_fresh (w k : Nat) : (s.bump w k).fresh = s.fresh := rfl
@[simp] theorem bump_cleared (w k : Nat) : (s.bump w k).cleared = s.cleared := rfl
@[simp] theorem bump_drain (w k : Nat) : (s.bump w k).drain = s.drain := rfl
@[simp] theorem bump_trace (w k : Nat) : (s.bump w k).trace = s.trace := rfl
@[simp] theorem bump_dmc (w k : Nat) : (s.bump w k).dmc = s.dmc := rfl
@[simp] theorem bump_autoTrain (w k : Nat) : (s.bump w k).autoTrain = s.autoTrain := rfl
@[simp] theorem bump_crh (w k : Nat) : (s.bump w k).crh = s.crh := rfl
@[simp] theorem bump_cfg (w k : Nat) : (s.bump w k).cfg = s.cfg := rfl
@[simp] theorem bump_sup (w k : Nat) : (s.bump w k).sup = s.sup := rfl
@[simp] theorem bump_dbg (w k : Nat) : (s.bump w k).dbg = s.dbg := rfl
@[simp] theorem bump_tmu (w k : Nat) : (s.bump w k).tmu = s.tmu := rfl
@[simp] theorem bump_lanes (w k : Nat) : (s.bump w k).lanes = s.lanes := rfl
@[simp] theorem bump_cells (w k : Nat) : (s.bump w k).cells = s.cells := rfl
@[simp] theorem bump_cellCfg (w k : Nat) : (s.bump w k).cellCfg = s.cellCfg := rfl
@[simp] theorem bump_sels (w k : Nat) : (s.bump w k).sels = s.sels := rfl
@[simp] theorem bump_tracks (w k : Nat) : (s.bump w k).tracks = s.tracks := rfl
@[simp] theorem bump_upsets (w k : Nat) : (s.bump w k).upsets = s.upsets := rfl
@[simp] theorem bump_facets (w k : Nat) : (s.bump w k).facets = s.facets := rfl
@[simp] theorem bump_fev (w k : Nat) : (s.bump w k).fev = s.fev := rfl
@[simp] theorem bump_panes (w k : Nat) : (s.bump w k).panes = s.panes := rfl
@[simp] theorem bump_banks (w k : Nat) : (s.bump w k).banks = s.banks := rfl
@[simp] theorem bump_pins (w k : Nat) : (s.bump w k).pins = s.pins := rfl
@[simp] theorem upto_reg (t : Nat) : (s.upto t).reg = s.reg := rfl
@[simp] theorem upto_mem (t : Nat) : (s.upto t).mem = s.mem := rfl
@[simp] theorem upto_evq (t : Nat) : (s.upto t).evq = s.evq := rfl
@[simp] theorem upto_freeCtr (t : Nat) : (s.upto t).freeCtr = s.freeCtr := rfl
@[simp] theorem upto_pending (t : Nat) : (s.upto t).pending = s.pending := rfl
@[simp] theorem upto_hdi (t : Nat) : (s.upto t).hdi = s.hdi := rfl
@[simp] theorem upto_clk (t : Nat) : (s.upto t).clk = s.clk := rfl
@[simp] theorem upto_sched (t : Nat) : (s.upto t).sched = s.sched := rfl
@[simp] theorem upto_ve (t : Nat) : (s.upto t).ve = s.ve := rfl
@[simp] theorem upto_outCh (t : Nat) : (s.upto t).outCh = s.outCh := rfl
@[simp] theorem upto_inCh (t : Nat) : (s.upto t).inCh = s.inCh := rfl
@[simp] theorem upto_fcp (t : Nat) : (s.upto t).fcp = s.fcp := rfl
@[simp] theorem upto_sq (t : Nat) : (s.upto t).sq = s.sq := rfl
@[simp] theorem upto_brk (t : Nat) : (s.upto t).brk = s.brk := rfl
@[simp] theorem upto_tgt (t : Nat) : (s.upto t).tgt = s.tgt := rfl
@[simp] theorem upto_groupAt (t : Nat) : (s.upto t).groupAt = s.groupAt := rfl
@[simp] theorem upto_dsp (t : Nat) : (s.upto t).dsp = s.dsp := rfl
@[simp] theorem upto_focus (t : Nat) : (s.upto t).focus = s.focus := rfl
@[simp] theorem upto_trim (t : Nat) : (s.upto t).trim = s.trim := rfl
@[simp] theorem upto_reqs (t : Nat) : (s.upto t).reqs = s.reqs := rfl
@[simp] theorem upto_resps (t : Nat) : (s.upto t).resps = s.resps := rfl
@[simp] theorem upto_held (t : Nat) : (s.upto t).held = s.held := rfl
@[simp] theorem upto_steal (t : Nat) : (s.upto t).steal = s.steal := rfl
@[simp] theorem upto_labels (t : Nat) : (s.upto t).labels = s.labels := rfl
@[simp] theorem upto_fresh (t : Nat) : (s.upto t).fresh = s.fresh := rfl
@[simp] theorem upto_cleared (t : Nat) : (s.upto t).cleared = s.cleared := rfl
@[simp] theorem upto_drain (t : Nat) : (s.upto t).drain = s.drain := rfl
@[simp] theorem upto_trace (t : Nat) : (s.upto t).trace = s.trace := rfl
@[simp] theorem upto_dmc (t : Nat) : (s.upto t).dmc = s.dmc := rfl
@[simp] theorem upto_autoTrain (t : Nat) : (s.upto t).autoTrain = s.autoTrain := rfl
@[simp] theorem upto_crh (t : Nat) : (s.upto t).crh = s.crh := rfl
@[simp] theorem upto_cfg (t : Nat) : (s.upto t).cfg = s.cfg := rfl
@[simp] theorem upto_sup (t : Nat) : (s.upto t).sup = s.sup := rfl
@[simp] theorem upto_dbg (t : Nat) : (s.upto t).dbg = s.dbg := rfl
@[simp] theorem upto_tmu (t : Nat) : (s.upto t).tmu = s.tmu := rfl
@[simp] theorem upto_lanes (t : Nat) : (s.upto t).lanes = s.lanes := rfl
@[simp] theorem upto_cells (t : Nat) : (s.upto t).cells = s.cells := rfl
@[simp] theorem upto_cellCfg (t : Nat) : (s.upto t).cellCfg = s.cellCfg := rfl
@[simp] theorem upto_sels (t : Nat) : (s.upto t).sels = s.sels := rfl
@[simp] theorem upto_tracks (t : Nat) : (s.upto t).tracks = s.tracks := rfl
@[simp] theorem upto_upsets (t : Nat) : (s.upto t).upsets = s.upsets := rfl
@[simp] theorem upto_facets (t : Nat) : (s.upto t).facets = s.facets := rfl
@[simp] theorem upto_fev (t : Nat) : (s.upto t).fev = s.fev := rfl
@[simp] theorem upto_panes (t : Nat) : (s.upto t).panes = s.panes := rfl
@[simp] theorem upto_banks (t : Nat) : (s.upto t).banks = s.banks := rfl
@[simp] theorem upto_pins (t : Nat) : (s.upto t).pins = s.pins := rfl
@[simp] theorem drawn_now : (s.drawn).now = s.now := rfl
@[simp] theorem drawn_reg : (s.drawn).reg = s.reg := rfl
@[simp] theorem drawn_mem : (s.drawn).mem = s.mem := rfl
@[simp] theorem drawn_evq : (s.drawn).evq = s.evq := rfl
@[simp] theorem drawn_pending : (s.drawn).pending = s.pending := rfl
@[simp] theorem drawn_hdi : (s.drawn).hdi = s.hdi := rfl
@[simp] theorem drawn_clk : (s.drawn).clk = s.clk := rfl
@[simp] theorem drawn_sched : (s.drawn).sched = s.sched := rfl
@[simp] theorem drawn_ve : (s.drawn).ve = s.ve := rfl
@[simp] theorem drawn_outCh : (s.drawn).outCh = s.outCh := rfl
@[simp] theorem drawn_inCh : (s.drawn).inCh = s.inCh := rfl
@[simp] theorem drawn_fcp : (s.drawn).fcp = s.fcp := rfl
@[simp] theorem drawn_sq : (s.drawn).sq = s.sq := rfl
@[simp] theorem drawn_brk : (s.drawn).brk = s.brk := rfl
@[simp] theorem drawn_tgt : (s.drawn).tgt = s.tgt := rfl
@[simp] theorem drawn_groupAt : (s.drawn).groupAt = s.groupAt := rfl
@[simp] theorem drawn_dsp : (s.drawn).dsp = s.dsp := rfl
@[simp] theorem drawn_focus : (s.drawn).focus = s.focus := rfl
@[simp] theorem drawn_trim : (s.drawn).trim = s.trim := rfl
@[simp] theorem drawn_reqs : (s.drawn).reqs = s.reqs := rfl
@[simp] theorem drawn_resps : (s.drawn).resps = s.resps := rfl
@[simp] theorem drawn_held : (s.drawn).held = s.held := rfl
@[simp] theorem drawn_steal : (s.drawn).steal = s.steal := rfl
@[simp] theorem drawn_labels : (s.drawn).labels = s.labels := rfl
@[simp] theorem drawn_fresh : (s.drawn).fresh = s.fresh := rfl
@[simp] theorem drawn_cleared : (s.drawn).cleared = s.cleared := rfl
@[simp] theorem drawn_drain : (s.drawn).drain = s.drain := rfl
@[simp] theorem drawn_trace : (s.drawn).trace = s.trace := rfl
@[simp] theorem drawn_dmc : (s.drawn).dmc = s.dmc := rfl
@[simp] theorem drawn_autoTrain : (s.drawn).autoTrain = s.autoTrain := rfl
@[simp] theorem drawn_crh : (s.drawn).crh = s.crh := rfl
@[simp] theorem drawn_cfg : (s.drawn).cfg = s.cfg := rfl
@[simp] theorem drawn_sup : (s.drawn).sup = s.sup := rfl
@[simp] theorem drawn_dbg : (s.drawn).dbg = s.dbg := rfl
@[simp] theorem drawn_tmu : (s.drawn).tmu = s.tmu := rfl
@[simp] theorem drawn_lanes : (s.drawn).lanes = s.lanes := rfl
@[simp] theorem drawn_cells : (s.drawn).cells = s.cells := rfl
@[simp] theorem drawn_cellCfg : (s.drawn).cellCfg = s.cellCfg := rfl
@[simp] theorem drawn_sels : (s.drawn).sels = s.sels := rfl
@[simp] theorem drawn_tracks : (s.drawn).tracks = s.tracks := rfl
@[simp] theorem drawn_upsets : (s.drawn).upsets = s.upsets := rfl
@[simp] theorem drawn_facets : (s.drawn).facets = s.facets := rfl
@[simp] theorem drawn_fev : (s.drawn).fev = s.fev := rfl
@[simp] theorem drawn_panes : (s.drawn).panes = s.panes := rfl
@[simp] theorem drawn_banks : (s.drawn).banks = s.banks := rfl
@[simp] theorem drawn_pins : (s.drawn).pins = s.pins := rfl
@[simp] theorem store_now (a n v : Nat) : (s.store a n v).now = s.now := rfl
@[simp] theorem store_reg (a n v : Nat) : (s.store a n v).reg = s.reg := rfl
@[simp] theorem store_evq (a n v : Nat) : (s.store a n v).evq = s.evq := rfl
@[simp] theorem store_freeCtr (a n v : Nat) : (s.store a n v).freeCtr = s.freeCtr := rfl
@[simp] theorem store_pending (a n v : Nat) : (s.store a n v).pending = s.pending := rfl
@[simp] theorem store_hdi (a n v : Nat) : (s.store a n v).hdi = s.hdi := rfl
@[simp] theorem store_clk (a n v : Nat) : (s.store a n v).clk = s.clk := rfl
@[simp] theorem store_sched (a n v : Nat) : (s.store a n v).sched = s.sched := rfl
@[simp] theorem store_ve (a n v : Nat) : (s.store a n v).ve = s.ve := rfl
@[simp] theorem store_outCh (a n v : Nat) : (s.store a n v).outCh = s.outCh := rfl
@[simp] theorem store_inCh (a n v : Nat) : (s.store a n v).inCh = s.inCh := rfl
@[simp] theorem store_fcp (a n v : Nat) : (s.store a n v).fcp = s.fcp := rfl
@[simp] theorem store_sq (a n v : Nat) : (s.store a n v).sq = s.sq := rfl
@[simp] theorem store_brk (a n v : Nat) : (s.store a n v).brk = s.brk := rfl
@[simp] theorem store_tgt (a n v : Nat) : (s.store a n v).tgt = s.tgt := rfl
@[simp] theorem store_groupAt (a n v : Nat) : (s.store a n v).groupAt = s.groupAt := rfl
@[simp] theorem store_dsp (a n v : Nat) : (s.store a n v).dsp = s.dsp := rfl
@[simp] theorem store_focus (a n v : Nat) : (s.store a n v).focus = s.focus := rfl
@[simp] theorem store_trim (a n v : Nat) : (s.store a n v).trim = s.trim := rfl
@[simp] theorem store_reqs (a n v : Nat) : (s.store a n v).reqs = s.reqs := rfl
@[simp] theorem store_resps (a n v : Nat) : (s.store a n v).resps = s.resps := rfl
@[simp] theorem store_held (a n v : Nat) : (s.store a n v).held = s.held := rfl
@[simp] theorem store_steal (a n v : Nat) : (s.store a n v).steal = s.steal := rfl
@[simp] theorem store_labels (a n v : Nat) : (s.store a n v).labels = s.labels := rfl
@[simp] theorem store_fresh (a n v : Nat) : (s.store a n v).fresh = s.fresh := rfl
@[simp] theorem store_cleared (a n v : Nat) : (s.store a n v).cleared = s.cleared := rfl
@[simp] theorem store_drain (a n v : Nat) : (s.store a n v).drain = s.drain := rfl
@[simp] theorem store_trace (a n v : Nat) : (s.store a n v).trace = s.trace := rfl
@[simp] theorem store_dmc (a n v : Nat) : (s.store a n v).dmc = s.dmc := rfl
@[simp] theorem store_autoTrain (a n v : Nat) : (s.store a n v).autoTrain = s.autoTrain := rfl
@[simp] theorem store_crh (a n v : Nat) : (s.store a n v).crh = s.crh := rfl
@[simp] theorem store_cfg (a n v : Nat) : (s.store a n v).cfg = s.cfg := rfl
@[simp] theorem store_sup (a n v : Nat) : (s.store a n v).sup = s.sup := rfl
@[simp] theorem store_dbg (a n v : Nat) : (s.store a n v).dbg = s.dbg := rfl
@[simp] theorem store_tmu (a n v : Nat) : (s.store a n v).tmu = s.tmu := rfl
@[simp] theorem store_lanes (a n v : Nat) : (s.store a n v).lanes = s.lanes := rfl
@[simp] theorem store_cells (a n v : Nat) : (s.store a n v).cells = s.cells := rfl
@[simp] theorem store_cellCfg (a n v : Nat) : (s.store a n v).cellCfg = s.cellCfg := rfl
@[simp] theorem store_sels (a n v : Nat) : (s.store a n v).sels = s.sels := rfl
@[simp] theorem store_tracks (a n v : Nat) : (s.store a n v).tracks = s.tracks := rfl
@[simp] theorem store_upsets (a n v : Nat) : (s.store a n v).upsets = s.upsets := rfl
@[simp] theorem store_facets (a n v : Nat) : (s.store a n v).facets = s.facets := rfl
@[simp] theorem store_fev (a n v : Nat) : (s.store a n v).fev = s.fev := rfl
@[simp] theorem store_panes (a n v : Nat) : (s.store a n v).panes = s.panes := rfl
@[simp] theorem store_banks (a n v : Nat) : (s.store a n v).banks = s.banks := rfl
@[simp] theorem store_pins (a n v : Nat) : (s.store a n v).pins = s.pins := rfl
@[simp] theorem modVe_now (n : Nat) (f : VeRun → VeRun) : (s.modVe n f).now = s.now := rfl
@[simp] theorem modVe_reg (n : Nat) (f : VeRun → VeRun) : (s.modVe n f).reg = s.reg := rfl
@[simp] theorem modVe_mem (n : Nat) (f : VeRun → VeRun) : (s.modVe n f).mem = s.mem := rfl
@[simp] theorem modVe_evq (n : Nat) (f : VeRun → VeRun) : (s.modVe n f).evq = s.evq := rfl
@[simp] theorem modVe_freeCtr (n : Nat) (f : VeRun → VeRun) : (s.modVe n f).freeCtr = s.freeCtr := rfl
@[simp] theorem modVe_pending (n : Nat) (f : VeRun → VeRun) : (s.modVe n f).pending = s.pending := rfl
@[simp] theorem modVe_hdi (n : Nat) (f : VeRun → VeRun) : (s.modVe n f).hdi = s.hdi := rfl
@[simp] theorem modVe_clk (n : Nat) (f : VeRun → VeRun) : (s.modVe n f).clk = s.clk := rfl
@[simp] theorem modVe_sched (n : Nat) (f : VeRun → VeRun) : (s.modVe n f).sched = s.sched := rfl
@[simp] theorem modVe_outCh (n : Nat) (f : VeRun → VeRun) : (s.modVe n f).outCh = s.outCh := rfl
@[simp] theorem modVe_inCh (n : Nat) (f : VeRun → VeRun) : (s.modVe n f).inCh = s.inCh := rfl
@[simp] theorem modVe_fcp (n : Nat) (f : VeRun → VeRun) : (s.modVe n f).fcp = s.fcp := rfl
@[simp] theorem modVe_sq (n : Nat) (f : VeRun → VeRun) : (s.modVe n f).sq = s.sq := rfl
@[simp] theorem modVe_brk (n : Nat) (f : VeRun → VeRun) : (s.modVe n f).brk = s.brk := rfl
@[simp] theorem modVe_tgt (n : Nat) (f : VeRun → VeRun) : (s.modVe n f).tgt = s.tgt := rfl
@[simp] theorem modVe_groupAt (n : Nat) (f : VeRun → VeRun) : (s.modVe n f).groupAt = s.groupAt := rfl
@[simp] theorem modVe_dsp (n : Nat) (f : VeRun → VeRun) : (s.modVe n f).dsp = s.dsp := rfl
@[simp] theorem modVe_focus (n : Nat) (f : VeRun → VeRun) : (s.modVe n f).focus = s.focus := rfl
@[simp] theorem modVe_trim (n : Nat) (f : VeRun → VeRun) : (s.modVe n f).trim = s.trim := rfl
@[simp] theorem modVe_reqs (n : Nat) (f : VeRun → VeRun) : (s.modVe n f).reqs = s.reqs := rfl
@[simp] theorem modVe_resps (n : Nat) (f : VeRun → VeRun) : (s.modVe n f).resps = s.resps := rfl
@[simp] theorem modVe_held (n : Nat) (f : VeRun → VeRun) : (s.modVe n f).held = s.held := rfl
@[simp] theorem modVe_steal (n : Nat) (f : VeRun → VeRun) : (s.modVe n f).steal = s.steal := rfl
@[simp] theorem modVe_labels (n : Nat) (f : VeRun → VeRun) : (s.modVe n f).labels = s.labels := rfl
@[simp] theorem modVe_fresh (n : Nat) (f : VeRun → VeRun) : (s.modVe n f).fresh = s.fresh := rfl
@[simp] theorem modVe_cleared (n : Nat) (f : VeRun → VeRun) : (s.modVe n f).cleared = s.cleared := rfl
@[simp] theorem modVe_drain (n : Nat) (f : VeRun → VeRun) : (s.modVe n f).drain = s.drain := rfl
@[simp] theorem modVe_trace (n : Nat) (f : VeRun → VeRun) : (s.modVe n f).trace = s.trace := rfl
@[simp] theorem modVe_dmc (n : Nat) (f : VeRun → VeRun) : (s.modVe n f).dmc = s.dmc := rfl
@[simp] theorem modVe_autoTrain (n : Nat) (f : VeRun → VeRun) : (s.modVe n f).autoTrain = s.autoTrain := rfl
@[simp] theorem modVe_crh (n : Nat) (f : VeRun → VeRun) : (s.modVe n f).crh = s.crh := rfl
@[simp] theorem modVe_cfg (n : Nat) (f : VeRun → VeRun) : (s.modVe n f).cfg = s.cfg := rfl
@[simp] theorem modVe_sup (n : Nat) (f : VeRun → VeRun) : (s.modVe n f).sup = s.sup := rfl
@[simp] theorem modVe_dbg (n : Nat) (f : VeRun → VeRun) : (s.modVe n f).dbg = s.dbg := rfl
@[simp] theorem modVe_tmu (n : Nat) (f : VeRun → VeRun) : (s.modVe n f).tmu = s.tmu := rfl
@[simp] theorem modVe_lanes (n : Nat) (f : VeRun → VeRun) : (s.modVe n f).lanes = s.lanes := rfl
@[simp] theorem modVe_cells (n : Nat) (f : VeRun → VeRun) : (s.modVe n f).cells = s.cells := rfl
@[simp] theorem modVe_cellCfg (n : Nat) (f : VeRun → VeRun) : (s.modVe n f).cellCfg = s.cellCfg := rfl
@[simp] theorem modVe_sels (n : Nat) (f : VeRun → VeRun) : (s.modVe n f).sels = s.sels := rfl
@[simp] theorem modVe_tracks (n : Nat) (f : VeRun → VeRun) : (s.modVe n f).tracks = s.tracks := rfl
@[simp] theorem modVe_upsets (n : Nat) (f : VeRun → VeRun) : (s.modVe n f).upsets = s.upsets := rfl
@[simp] theorem modVe_facets (n : Nat) (f : VeRun → VeRun) : (s.modVe n f).facets = s.facets := rfl
@[simp] theorem modVe_fev (n : Nat) (f : VeRun → VeRun) : (s.modVe n f).fev = s.fev := rfl
@[simp] theorem modVe_panes (n : Nat) (f : VeRun → VeRun) : (s.modVe n f).panes = s.panes := rfl
@[simp] theorem modVe_banks (n : Nat) (f : VeRun → VeRun) : (s.modVe n f).banks = s.banks := rfl
@[simp] theorem modVe_pins (n : Nat) (f : VeRun → VeRun) : (s.modVe n f).pins = s.pins := rfl
@[simp] theorem modOut_now (n : Nat) (f : OutCh → OutCh) : (s.modOut n f).now = s.now := rfl
@[simp] theorem modOut_reg (n : Nat) (f : OutCh → OutCh) : (s.modOut n f).reg = s.reg := rfl
@[simp] theorem modOut_mem (n : Nat) (f : OutCh → OutCh) : (s.modOut n f).mem = s.mem := rfl
@[simp] theorem modOut_evq (n : Nat) (f : OutCh → OutCh) : (s.modOut n f).evq = s.evq := rfl
@[simp] theorem modOut_freeCtr (n : Nat) (f : OutCh → OutCh) : (s.modOut n f).freeCtr = s.freeCtr := rfl
@[simp] theorem modOut_pending (n : Nat) (f : OutCh → OutCh) : (s.modOut n f).pending = s.pending := rfl
@[simp] theorem modOut_hdi (n : Nat) (f : OutCh → OutCh) : (s.modOut n f).hdi = s.hdi := rfl
@[simp] theorem modOut_clk (n : Nat) (f : OutCh → OutCh) : (s.modOut n f).clk = s.clk := rfl
@[simp] theorem modOut_sched (n : Nat) (f : OutCh → OutCh) : (s.modOut n f).sched = s.sched := rfl
@[simp] theorem modOut_ve (n : Nat) (f : OutCh → OutCh) : (s.modOut n f).ve = s.ve := rfl
@[simp] theorem modOut_inCh (n : Nat) (f : OutCh → OutCh) : (s.modOut n f).inCh = s.inCh := rfl
@[simp] theorem modOut_fcp (n : Nat) (f : OutCh → OutCh) : (s.modOut n f).fcp = s.fcp := rfl
@[simp] theorem modOut_sq (n : Nat) (f : OutCh → OutCh) : (s.modOut n f).sq = s.sq := rfl
@[simp] theorem modOut_brk (n : Nat) (f : OutCh → OutCh) : (s.modOut n f).brk = s.brk := rfl
@[simp] theorem modOut_tgt (n : Nat) (f : OutCh → OutCh) : (s.modOut n f).tgt = s.tgt := rfl
@[simp] theorem modOut_groupAt (n : Nat) (f : OutCh → OutCh) : (s.modOut n f).groupAt = s.groupAt := rfl
@[simp] theorem modOut_dsp (n : Nat) (f : OutCh → OutCh) : (s.modOut n f).dsp = s.dsp := rfl
@[simp] theorem modOut_focus (n : Nat) (f : OutCh → OutCh) : (s.modOut n f).focus = s.focus := rfl
@[simp] theorem modOut_trim (n : Nat) (f : OutCh → OutCh) : (s.modOut n f).trim = s.trim := rfl
@[simp] theorem modOut_reqs (n : Nat) (f : OutCh → OutCh) : (s.modOut n f).reqs = s.reqs := rfl
@[simp] theorem modOut_resps (n : Nat) (f : OutCh → OutCh) : (s.modOut n f).resps = s.resps := rfl
@[simp] theorem modOut_held (n : Nat) (f : OutCh → OutCh) : (s.modOut n f).held = s.held := rfl
@[simp] theorem modOut_steal (n : Nat) (f : OutCh → OutCh) : (s.modOut n f).steal = s.steal := rfl
@[simp] theorem modOut_labels (n : Nat) (f : OutCh → OutCh) : (s.modOut n f).labels = s.labels := rfl
@[simp] theorem modOut_fresh (n : Nat) (f : OutCh → OutCh) : (s.modOut n f).fresh = s.fresh := rfl
@[simp] theorem modOut_cleared (n : Nat) (f : OutCh → OutCh) : (s.modOut n f).cleared = s.cleared := rfl
@[simp] theorem modOut_drain (n : Nat) (f : OutCh → OutCh) : (s.modOut n f).drain = s.drain := rfl
@[simp] theorem modOut_trace (n : Nat) (f : OutCh → OutCh) : (s.modOut n f).trace = s.trace := rfl
@[simp] theorem modOut_dmc (n : Nat) (f : OutCh → OutCh) : (s.modOut n f).dmc = s.dmc := rfl
@[simp] theorem modOut_autoTrain (n : Nat) (f : OutCh → OutCh) : (s.modOut n f).autoTrain = s.autoTrain := rfl
@[simp] theorem modOut_crh (n : Nat) (f : OutCh → OutCh) : (s.modOut n f).crh = s.crh := rfl
@[simp] theorem modOut_cfg (n : Nat) (f : OutCh → OutCh) : (s.modOut n f).cfg = s.cfg := rfl
@[simp] theorem modOut_sup (n : Nat) (f : OutCh → OutCh) : (s.modOut n f).sup = s.sup := rfl
@[simp] theorem modOut_dbg (n : Nat) (f : OutCh → OutCh) : (s.modOut n f).dbg = s.dbg := rfl
@[simp] theorem modOut_tmu (n : Nat) (f : OutCh → OutCh) : (s.modOut n f).tmu = s.tmu := rfl
@[simp] theorem modOut_lanes (n : Nat) (f : OutCh → OutCh) : (s.modOut n f).lanes = s.lanes := rfl
@[simp] theorem modOut_cells (n : Nat) (f : OutCh → OutCh) : (s.modOut n f).cells = s.cells := rfl
@[simp] theorem modOut_cellCfg (n : Nat) (f : OutCh → OutCh) : (s.modOut n f).cellCfg = s.cellCfg := rfl
@[simp] theorem modOut_sels (n : Nat) (f : OutCh → OutCh) : (s.modOut n f).sels = s.sels := rfl
@[simp] theorem modOut_tracks (n : Nat) (f : OutCh → OutCh) : (s.modOut n f).tracks = s.tracks := rfl
@[simp] theorem modOut_upsets (n : Nat) (f : OutCh → OutCh) : (s.modOut n f).upsets = s.upsets := rfl
@[simp] theorem modOut_facets (n : Nat) (f : OutCh → OutCh) : (s.modOut n f).facets = s.facets := rfl
@[simp] theorem modOut_fev (n : Nat) (f : OutCh → OutCh) : (s.modOut n f).fev = s.fev := rfl
@[simp] theorem modOut_panes (n : Nat) (f : OutCh → OutCh) : (s.modOut n f).panes = s.panes := rfl
@[simp] theorem modOut_banks (n : Nat) (f : OutCh → OutCh) : (s.modOut n f).banks = s.banks := rfl
@[simp] theorem modOut_pins (n : Nat) (f : OutCh → OutCh) : (s.modOut n f).pins = s.pins := rfl
@[simp] theorem modIn_now (n : Nat) (f : InCh → InCh) : (s.modIn n f).now = s.now := rfl
@[simp] theorem modIn_reg (n : Nat) (f : InCh → InCh) : (s.modIn n f).reg = s.reg := rfl
@[simp] theorem modIn_mem (n : Nat) (f : InCh → InCh) : (s.modIn n f).mem = s.mem := rfl
@[simp] theorem modIn_evq (n : Nat) (f : InCh → InCh) : (s.modIn n f).evq = s.evq := rfl
@[simp] theorem modIn_freeCtr (n : Nat) (f : InCh → InCh) : (s.modIn n f).freeCtr = s.freeCtr := rfl
@[simp] theorem modIn_pending (n : Nat) (f : InCh → InCh) : (s.modIn n f).pending = s.pending := rfl
@[simp] theorem modIn_hdi (n : Nat) (f : InCh → InCh) : (s.modIn n f).hdi = s.hdi := rfl
@[simp] theorem modIn_clk (n : Nat) (f : InCh → InCh) : (s.modIn n f).clk = s.clk := rfl
@[simp] theorem modIn_sched (n : Nat) (f : InCh → InCh) : (s.modIn n f).sched = s.sched := rfl
@[simp] theorem modIn_ve (n : Nat) (f : InCh → InCh) : (s.modIn n f).ve = s.ve := rfl
@[simp] theorem modIn_outCh (n : Nat) (f : InCh → InCh) : (s.modIn n f).outCh = s.outCh := rfl
@[simp] theorem modIn_fcp (n : Nat) (f : InCh → InCh) : (s.modIn n f).fcp = s.fcp := rfl
@[simp] theorem modIn_sq (n : Nat) (f : InCh → InCh) : (s.modIn n f).sq = s.sq := rfl
@[simp] theorem modIn_brk (n : Nat) (f : InCh → InCh) : (s.modIn n f).brk = s.brk := rfl
@[simp] theorem modIn_tgt (n : Nat) (f : InCh → InCh) : (s.modIn n f).tgt = s.tgt := rfl
@[simp] theorem modIn_groupAt (n : Nat) (f : InCh → InCh) : (s.modIn n f).groupAt = s.groupAt := rfl
@[simp] theorem modIn_dsp (n : Nat) (f : InCh → InCh) : (s.modIn n f).dsp = s.dsp := rfl
@[simp] theorem modIn_focus (n : Nat) (f : InCh → InCh) : (s.modIn n f).focus = s.focus := rfl
@[simp] theorem modIn_trim (n : Nat) (f : InCh → InCh) : (s.modIn n f).trim = s.trim := rfl
@[simp] theorem modIn_reqs (n : Nat) (f : InCh → InCh) : (s.modIn n f).reqs = s.reqs := rfl
@[simp] theorem modIn_resps (n : Nat) (f : InCh → InCh) : (s.modIn n f).resps = s.resps := rfl
@[simp] theorem modIn_held (n : Nat) (f : InCh → InCh) : (s.modIn n f).held = s.held := rfl
@[simp] theorem modIn_steal (n : Nat) (f : InCh → InCh) : (s.modIn n f).steal = s.steal := rfl
@[simp] theorem modIn_labels (n : Nat) (f : InCh → InCh) : (s.modIn n f).labels = s.labels := rfl
@[simp] theorem modIn_fresh (n : Nat) (f : InCh → InCh) : (s.modIn n f).fresh = s.fresh := rfl
@[simp] theorem modIn_cleared (n : Nat) (f : InCh → InCh) : (s.modIn n f).cleared = s.cleared := rfl
@[simp] theorem modIn_drain (n : Nat) (f : InCh → InCh) : (s.modIn n f).drain = s.drain := rfl
@[simp] theorem modIn_trace (n : Nat) (f : InCh → InCh) : (s.modIn n f).trace = s.trace := rfl
@[simp] theorem modIn_dmc (n : Nat) (f : InCh → InCh) : (s.modIn n f).dmc = s.dmc := rfl
@[simp] theorem modIn_autoTrain (n : Nat) (f : InCh → InCh) : (s.modIn n f).autoTrain = s.autoTrain := rfl
@[simp] theorem modIn_crh (n : Nat) (f : InCh → InCh) : (s.modIn n f).crh = s.crh := rfl
@[simp] theorem modIn_cfg (n : Nat) (f : InCh → InCh) : (s.modIn n f).cfg = s.cfg := rfl
@[simp] theorem modIn_sup (n : Nat) (f : InCh → InCh) : (s.modIn n f).sup = s.sup := rfl
@[simp] theorem modIn_dbg (n : Nat) (f : InCh → InCh) : (s.modIn n f).dbg = s.dbg := rfl
@[simp] theorem modIn_tmu (n : Nat) (f : InCh → InCh) : (s.modIn n f).tmu = s.tmu := rfl
@[simp] theorem modIn_lanes (n : Nat) (f : InCh → InCh) : (s.modIn n f).lanes = s.lanes := rfl
@[simp] theorem modIn_cells (n : Nat) (f : InCh → InCh) : (s.modIn n f).cells = s.cells := rfl
@[simp] theorem modIn_cellCfg (n : Nat) (f : InCh → InCh) : (s.modIn n f).cellCfg = s.cellCfg := rfl
@[simp] theorem modIn_sels (n : Nat) (f : InCh → InCh) : (s.modIn n f).sels = s.sels := rfl
@[simp] theorem modIn_tracks (n : Nat) (f : InCh → InCh) : (s.modIn n f).tracks = s.tracks := rfl
@[simp] theorem modIn_upsets (n : Nat) (f : InCh → InCh) : (s.modIn n f).upsets = s.upsets := rfl
@[simp] theorem modIn_facets (n : Nat) (f : InCh → InCh) : (s.modIn n f).facets = s.facets := rfl
@[simp] theorem modIn_fev (n : Nat) (f : InCh → InCh) : (s.modIn n f).fev = s.fev := rfl
@[simp] theorem modIn_panes (n : Nat) (f : InCh → InCh) : (s.modIn n f).panes = s.panes := rfl
@[simp] theorem modIn_banks (n : Nat) (f : InCh → InCh) : (s.modIn n f).banks = s.banks := rfl
@[simp] theorem modIn_pins (n : Nat) (f : InCh → InCh) : (s.modIn n f).pins = s.pins := rfl
@[simp] theorem modFcp_now (n : Nat) (f : FcpS → FcpS) : (s.modFcp n f).now = s.now := rfl
@[simp] theorem modFcp_reg (n : Nat) (f : FcpS → FcpS) : (s.modFcp n f).reg = s.reg := rfl
@[simp] theorem modFcp_mem (n : Nat) (f : FcpS → FcpS) : (s.modFcp n f).mem = s.mem := rfl
@[simp] theorem modFcp_evq (n : Nat) (f : FcpS → FcpS) : (s.modFcp n f).evq = s.evq := rfl
@[simp] theorem modFcp_freeCtr (n : Nat) (f : FcpS → FcpS) : (s.modFcp n f).freeCtr = s.freeCtr := rfl
@[simp] theorem modFcp_pending (n : Nat) (f : FcpS → FcpS) : (s.modFcp n f).pending = s.pending := rfl
@[simp] theorem modFcp_hdi (n : Nat) (f : FcpS → FcpS) : (s.modFcp n f).hdi = s.hdi := rfl
@[simp] theorem modFcp_clk (n : Nat) (f : FcpS → FcpS) : (s.modFcp n f).clk = s.clk := rfl
@[simp] theorem modFcp_sched (n : Nat) (f : FcpS → FcpS) : (s.modFcp n f).sched = s.sched := rfl
@[simp] theorem modFcp_ve (n : Nat) (f : FcpS → FcpS) : (s.modFcp n f).ve = s.ve := rfl
@[simp] theorem modFcp_outCh (n : Nat) (f : FcpS → FcpS) : (s.modFcp n f).outCh = s.outCh := rfl
@[simp] theorem modFcp_inCh (n : Nat) (f : FcpS → FcpS) : (s.modFcp n f).inCh = s.inCh := rfl
@[simp] theorem modFcp_sq (n : Nat) (f : FcpS → FcpS) : (s.modFcp n f).sq = s.sq := rfl
@[simp] theorem modFcp_brk (n : Nat) (f : FcpS → FcpS) : (s.modFcp n f).brk = s.brk := rfl
@[simp] theorem modFcp_tgt (n : Nat) (f : FcpS → FcpS) : (s.modFcp n f).tgt = s.tgt := rfl
@[simp] theorem modFcp_groupAt (n : Nat) (f : FcpS → FcpS) : (s.modFcp n f).groupAt = s.groupAt := rfl
@[simp] theorem modFcp_dsp (n : Nat) (f : FcpS → FcpS) : (s.modFcp n f).dsp = s.dsp := rfl
@[simp] theorem modFcp_focus (n : Nat) (f : FcpS → FcpS) : (s.modFcp n f).focus = s.focus := rfl
@[simp] theorem modFcp_trim (n : Nat) (f : FcpS → FcpS) : (s.modFcp n f).trim = s.trim := rfl
@[simp] theorem modFcp_reqs (n : Nat) (f : FcpS → FcpS) : (s.modFcp n f).reqs = s.reqs := rfl
@[simp] theorem modFcp_resps (n : Nat) (f : FcpS → FcpS) : (s.modFcp n f).resps = s.resps := rfl
@[simp] theorem modFcp_held (n : Nat) (f : FcpS → FcpS) : (s.modFcp n f).held = s.held := rfl
@[simp] theorem modFcp_steal (n : Nat) (f : FcpS → FcpS) : (s.modFcp n f).steal = s.steal := rfl
@[simp] theorem modFcp_labels (n : Nat) (f : FcpS → FcpS) : (s.modFcp n f).labels = s.labels := rfl
@[simp] theorem modFcp_fresh (n : Nat) (f : FcpS → FcpS) : (s.modFcp n f).fresh = s.fresh := rfl
@[simp] theorem modFcp_cleared (n : Nat) (f : FcpS → FcpS) : (s.modFcp n f).cleared = s.cleared := rfl
@[simp] theorem modFcp_drain (n : Nat) (f : FcpS → FcpS) : (s.modFcp n f).drain = s.drain := rfl
@[simp] theorem modFcp_trace (n : Nat) (f : FcpS → FcpS) : (s.modFcp n f).trace = s.trace := rfl
@[simp] theorem modFcp_dmc (n : Nat) (f : FcpS → FcpS) : (s.modFcp n f).dmc = s.dmc := rfl
@[simp] theorem modFcp_autoTrain (n : Nat) (f : FcpS → FcpS) : (s.modFcp n f).autoTrain = s.autoTrain := rfl
@[simp] theorem modFcp_crh (n : Nat) (f : FcpS → FcpS) : (s.modFcp n f).crh = s.crh := rfl
@[simp] theorem modFcp_cfg (n : Nat) (f : FcpS → FcpS) : (s.modFcp n f).cfg = s.cfg := rfl
@[simp] theorem modFcp_sup (n : Nat) (f : FcpS → FcpS) : (s.modFcp n f).sup = s.sup := rfl
@[simp] theorem modFcp_dbg (n : Nat) (f : FcpS → FcpS) : (s.modFcp n f).dbg = s.dbg := rfl
@[simp] theorem modFcp_tmu (n : Nat) (f : FcpS → FcpS) : (s.modFcp n f).tmu = s.tmu := rfl
@[simp] theorem modFcp_lanes (n : Nat) (f : FcpS → FcpS) : (s.modFcp n f).lanes = s.lanes := rfl
@[simp] theorem modFcp_cells (n : Nat) (f : FcpS → FcpS) : (s.modFcp n f).cells = s.cells := rfl
@[simp] theorem modFcp_cellCfg (n : Nat) (f : FcpS → FcpS) : (s.modFcp n f).cellCfg = s.cellCfg := rfl
@[simp] theorem modFcp_sels (n : Nat) (f : FcpS → FcpS) : (s.modFcp n f).sels = s.sels := rfl
@[simp] theorem modFcp_tracks (n : Nat) (f : FcpS → FcpS) : (s.modFcp n f).tracks = s.tracks := rfl
@[simp] theorem modFcp_upsets (n : Nat) (f : FcpS → FcpS) : (s.modFcp n f).upsets = s.upsets := rfl
@[simp] theorem modFcp_facets (n : Nat) (f : FcpS → FcpS) : (s.modFcp n f).facets = s.facets := rfl
@[simp] theorem modFcp_fev (n : Nat) (f : FcpS → FcpS) : (s.modFcp n f).fev = s.fev := rfl
@[simp] theorem modFcp_panes (n : Nat) (f : FcpS → FcpS) : (s.modFcp n f).panes = s.panes := rfl
@[simp] theorem modFcp_banks (n : Nat) (f : FcpS → FcpS) : (s.modFcp n f).banks = s.banks := rfl
@[simp] theorem modFcp_pins (n : Nat) (f : FcpS → FcpS) : (s.modFcp n f).pins = s.pins := rfl
@[simp] theorem modSq_now (n : Nat) (f : SqS → SqS) : (s.modSq n f).now = s.now := rfl
@[simp] theorem modSq_reg (n : Nat) (f : SqS → SqS) : (s.modSq n f).reg = s.reg := rfl
@[simp] theorem modSq_mem (n : Nat) (f : SqS → SqS) : (s.modSq n f).mem = s.mem := rfl
@[simp] theorem modSq_evq (n : Nat) (f : SqS → SqS) : (s.modSq n f).evq = s.evq := rfl
@[simp] theorem modSq_freeCtr (n : Nat) (f : SqS → SqS) : (s.modSq n f).freeCtr = s.freeCtr := rfl
@[simp] theorem modSq_pending (n : Nat) (f : SqS → SqS) : (s.modSq n f).pending = s.pending := rfl
@[simp] theorem modSq_hdi (n : Nat) (f : SqS → SqS) : (s.modSq n f).hdi = s.hdi := rfl
@[simp] theorem modSq_clk (n : Nat) (f : SqS → SqS) : (s.modSq n f).clk = s.clk := rfl
@[simp] theorem modSq_sched (n : Nat) (f : SqS → SqS) : (s.modSq n f).sched = s.sched := rfl
@[simp] theorem modSq_ve (n : Nat) (f : SqS → SqS) : (s.modSq n f).ve = s.ve := rfl
@[simp] theorem modSq_outCh (n : Nat) (f : SqS → SqS) : (s.modSq n f).outCh = s.outCh := rfl
@[simp] theorem modSq_inCh (n : Nat) (f : SqS → SqS) : (s.modSq n f).inCh = s.inCh := rfl
@[simp] theorem modSq_fcp (n : Nat) (f : SqS → SqS) : (s.modSq n f).fcp = s.fcp := rfl
@[simp] theorem modSq_brk (n : Nat) (f : SqS → SqS) : (s.modSq n f).brk = s.brk := rfl
@[simp] theorem modSq_tgt (n : Nat) (f : SqS → SqS) : (s.modSq n f).tgt = s.tgt := rfl
@[simp] theorem modSq_groupAt (n : Nat) (f : SqS → SqS) : (s.modSq n f).groupAt = s.groupAt := rfl
@[simp] theorem modSq_dsp (n : Nat) (f : SqS → SqS) : (s.modSq n f).dsp = s.dsp := rfl
@[simp] theorem modSq_focus (n : Nat) (f : SqS → SqS) : (s.modSq n f).focus = s.focus := rfl
@[simp] theorem modSq_trim (n : Nat) (f : SqS → SqS) : (s.modSq n f).trim = s.trim := rfl
@[simp] theorem modSq_reqs (n : Nat) (f : SqS → SqS) : (s.modSq n f).reqs = s.reqs := rfl
@[simp] theorem modSq_resps (n : Nat) (f : SqS → SqS) : (s.modSq n f).resps = s.resps := rfl
@[simp] theorem modSq_held (n : Nat) (f : SqS → SqS) : (s.modSq n f).held = s.held := rfl
@[simp] theorem modSq_steal (n : Nat) (f : SqS → SqS) : (s.modSq n f).steal = s.steal := rfl
@[simp] theorem modSq_labels (n : Nat) (f : SqS → SqS) : (s.modSq n f).labels = s.labels := rfl
@[simp] theorem modSq_fresh (n : Nat) (f : SqS → SqS) : (s.modSq n f).fresh = s.fresh := rfl
@[simp] theorem modSq_cleared (n : Nat) (f : SqS → SqS) : (s.modSq n f).cleared = s.cleared := rfl
@[simp] theorem modSq_drain (n : Nat) (f : SqS → SqS) : (s.modSq n f).drain = s.drain := rfl
@[simp] theorem modSq_trace (n : Nat) (f : SqS → SqS) : (s.modSq n f).trace = s.trace := rfl
@[simp] theorem modSq_dmc (n : Nat) (f : SqS → SqS) : (s.modSq n f).dmc = s.dmc := rfl
@[simp] theorem modSq_autoTrain (n : Nat) (f : SqS → SqS) : (s.modSq n f).autoTrain = s.autoTrain := rfl
@[simp] theorem modSq_crh (n : Nat) (f : SqS → SqS) : (s.modSq n f).crh = s.crh := rfl
@[simp] theorem modSq_cfg (n : Nat) (f : SqS → SqS) : (s.modSq n f).cfg = s.cfg := rfl
@[simp] theorem modSq_sup (n : Nat) (f : SqS → SqS) : (s.modSq n f).sup = s.sup := rfl
@[simp] theorem modSq_dbg (n : Nat) (f : SqS → SqS) : (s.modSq n f).dbg = s.dbg := rfl
@[simp] theorem modSq_tmu (n : Nat) (f : SqS → SqS) : (s.modSq n f).tmu = s.tmu := rfl
@[simp] theorem modSq_lanes (n : Nat) (f : SqS → SqS) : (s.modSq n f).lanes = s.lanes := rfl
@[simp] theorem modSq_cells (n : Nat) (f : SqS → SqS) : (s.modSq n f).cells = s.cells := rfl
@[simp] theorem modSq_cellCfg (n : Nat) (f : SqS → SqS) : (s.modSq n f).cellCfg = s.cellCfg := rfl
@[simp] theorem modSq_sels (n : Nat) (f : SqS → SqS) : (s.modSq n f).sels = s.sels := rfl
@[simp] theorem modSq_tracks (n : Nat) (f : SqS → SqS) : (s.modSq n f).tracks = s.tracks := rfl
@[simp] theorem modSq_upsets (n : Nat) (f : SqS → SqS) : (s.modSq n f).upsets = s.upsets := rfl
@[simp] theorem modSq_facets (n : Nat) (f : SqS → SqS) : (s.modSq n f).facets = s.facets := rfl
@[simp] theorem modSq_fev (n : Nat) (f : SqS → SqS) : (s.modSq n f).fev = s.fev := rfl
@[simp] theorem modSq_panes (n : Nat) (f : SqS → SqS) : (s.modSq n f).panes = s.panes := rfl
@[simp] theorem modSq_banks (n : Nat) (f : SqS → SqS) : (s.modSq n f).banks = s.banks := rfl
@[simp] theorem modSq_pins (n : Nat) (f : SqS → SqS) : (s.modSq n f).pins = s.pins := rfl
@[simp] theorem modBrk_now (n : Nat) (f : BrkS → BrkS) : (s.modBrk n f).now = s.now := rfl
@[simp] theorem modBrk_reg (n : Nat) (f : BrkS → BrkS) : (s.modBrk n f).reg = s.reg := rfl
@[simp] theorem modBrk_mem (n : Nat) (f : BrkS → BrkS) : (s.modBrk n f).mem = s.mem := rfl
@[simp] theorem modBrk_evq (n : Nat) (f : BrkS → BrkS) : (s.modBrk n f).evq = s.evq := rfl
@[simp] theorem modBrk_freeCtr (n : Nat) (f : BrkS → BrkS) : (s.modBrk n f).freeCtr = s.freeCtr := rfl
@[simp] theorem modBrk_pending (n : Nat) (f : BrkS → BrkS) : (s.modBrk n f).pending = s.pending := rfl
@[simp] theorem modBrk_hdi (n : Nat) (f : BrkS → BrkS) : (s.modBrk n f).hdi = s.hdi := rfl
@[simp] theorem modBrk_clk (n : Nat) (f : BrkS → BrkS) : (s.modBrk n f).clk = s.clk := rfl
@[simp] theorem modBrk_sched (n : Nat) (f : BrkS → BrkS) : (s.modBrk n f).sched = s.sched := rfl
@[simp] theorem modBrk_ve (n : Nat) (f : BrkS → BrkS) : (s.modBrk n f).ve = s.ve := rfl
@[simp] theorem modBrk_outCh (n : Nat) (f : BrkS → BrkS) : (s.modBrk n f).outCh = s.outCh := rfl
@[simp] theorem modBrk_inCh (n : Nat) (f : BrkS → BrkS) : (s.modBrk n f).inCh = s.inCh := rfl
@[simp] theorem modBrk_fcp (n : Nat) (f : BrkS → BrkS) : (s.modBrk n f).fcp = s.fcp := rfl
@[simp] theorem modBrk_sq (n : Nat) (f : BrkS → BrkS) : (s.modBrk n f).sq = s.sq := rfl
@[simp] theorem modBrk_tgt (n : Nat) (f : BrkS → BrkS) : (s.modBrk n f).tgt = s.tgt := rfl
@[simp] theorem modBrk_groupAt (n : Nat) (f : BrkS → BrkS) : (s.modBrk n f).groupAt = s.groupAt := rfl
@[simp] theorem modBrk_dsp (n : Nat) (f : BrkS → BrkS) : (s.modBrk n f).dsp = s.dsp := rfl
@[simp] theorem modBrk_focus (n : Nat) (f : BrkS → BrkS) : (s.modBrk n f).focus = s.focus := rfl
@[simp] theorem modBrk_trim (n : Nat) (f : BrkS → BrkS) : (s.modBrk n f).trim = s.trim := rfl
@[simp] theorem modBrk_reqs (n : Nat) (f : BrkS → BrkS) : (s.modBrk n f).reqs = s.reqs := rfl
@[simp] theorem modBrk_resps (n : Nat) (f : BrkS → BrkS) : (s.modBrk n f).resps = s.resps := rfl
@[simp] theorem modBrk_held (n : Nat) (f : BrkS → BrkS) : (s.modBrk n f).held = s.held := rfl
@[simp] theorem modBrk_steal (n : Nat) (f : BrkS → BrkS) : (s.modBrk n f).steal = s.steal := rfl
@[simp] theorem modBrk_labels (n : Nat) (f : BrkS → BrkS) : (s.modBrk n f).labels = s.labels := rfl
@[simp] theorem modBrk_fresh (n : Nat) (f : BrkS → BrkS) : (s.modBrk n f).fresh = s.fresh := rfl
@[simp] theorem modBrk_cleared (n : Nat) (f : BrkS → BrkS) : (s.modBrk n f).cleared = s.cleared := rfl
@[simp] theorem modBrk_drain (n : Nat) (f : BrkS → BrkS) : (s.modBrk n f).drain = s.drain := rfl
@[simp] theorem modBrk_trace (n : Nat) (f : BrkS → BrkS) : (s.modBrk n f).trace = s.trace := rfl
@[simp] theorem modBrk_dmc (n : Nat) (f : BrkS → BrkS) : (s.modBrk n f).dmc = s.dmc := rfl
@[simp] theorem modBrk_autoTrain (n : Nat) (f : BrkS → BrkS) : (s.modBrk n f).autoTrain = s.autoTrain := rfl
@[simp] theorem modBrk_crh (n : Nat) (f : BrkS → BrkS) : (s.modBrk n f).crh = s.crh := rfl
@[simp] theorem modBrk_cfg (n : Nat) (f : BrkS → BrkS) : (s.modBrk n f).cfg = s.cfg := rfl
@[simp] theorem modBrk_sup (n : Nat) (f : BrkS → BrkS) : (s.modBrk n f).sup = s.sup := rfl
@[simp] theorem modBrk_dbg (n : Nat) (f : BrkS → BrkS) : (s.modBrk n f).dbg = s.dbg := rfl
@[simp] theorem modBrk_tmu (n : Nat) (f : BrkS → BrkS) : (s.modBrk n f).tmu = s.tmu := rfl
@[simp] theorem modBrk_lanes (n : Nat) (f : BrkS → BrkS) : (s.modBrk n f).lanes = s.lanes := rfl
@[simp] theorem modBrk_cells (n : Nat) (f : BrkS → BrkS) : (s.modBrk n f).cells = s.cells := rfl
@[simp] theorem modBrk_cellCfg (n : Nat) (f : BrkS → BrkS) : (s.modBrk n f).cellCfg = s.cellCfg := rfl
@[simp] theorem modBrk_sels (n : Nat) (f : BrkS → BrkS) : (s.modBrk n f).sels = s.sels := rfl
@[simp] theorem modBrk_tracks (n : Nat) (f : BrkS → BrkS) : (s.modBrk n f).tracks = s.tracks := rfl
@[simp] theorem modBrk_upsets (n : Nat) (f : BrkS → BrkS) : (s.modBrk n f).upsets = s.upsets := rfl
@[simp] theorem modBrk_facets (n : Nat) (f : BrkS → BrkS) : (s.modBrk n f).facets = s.facets := rfl
@[simp] theorem modBrk_fev (n : Nat) (f : BrkS → BrkS) : (s.modBrk n f).fev = s.fev := rfl
@[simp] theorem modBrk_panes (n : Nat) (f : BrkS → BrkS) : (s.modBrk n f).panes = s.panes := rfl
@[simp] theorem modBrk_banks (n : Nat) (f : BrkS → BrkS) : (s.modBrk n f).banks = s.banks := rfl
@[simp] theorem modBrk_pins (n : Nat) (f : BrkS → BrkS) : (s.modBrk n f).pins = s.pins := rfl
@[simp] theorem modTgt_now (n : Nat) (f : TgtS → TgtS) : (s.modTgt n f).now = s.now := rfl
@[simp] theorem modTgt_reg (n : Nat) (f : TgtS → TgtS) : (s.modTgt n f).reg = s.reg := rfl
@[simp] theorem modTgt_mem (n : Nat) (f : TgtS → TgtS) : (s.modTgt n f).mem = s.mem := rfl
@[simp] theorem modTgt_evq (n : Nat) (f : TgtS → TgtS) : (s.modTgt n f).evq = s.evq := rfl
@[simp] theorem modTgt_freeCtr (n : Nat) (f : TgtS → TgtS) : (s.modTgt n f).freeCtr = s.freeCtr := rfl
@[simp] theorem modTgt_pending (n : Nat) (f : TgtS → TgtS) : (s.modTgt n f).pending = s.pending := rfl
@[simp] theorem modTgt_hdi (n : Nat) (f : TgtS → TgtS) : (s.modTgt n f).hdi = s.hdi := rfl
@[simp] theorem modTgt_clk (n : Nat) (f : TgtS → TgtS) : (s.modTgt n f).clk = s.clk := rfl
@[simp] theorem modTgt_sched (n : Nat) (f : TgtS → TgtS) : (s.modTgt n f).sched = s.sched := rfl
@[simp] theorem modTgt_ve (n : Nat) (f : TgtS → TgtS) : (s.modTgt n f).ve = s.ve := rfl
@[simp] theorem modTgt_outCh (n : Nat) (f : TgtS → TgtS) : (s.modTgt n f).outCh = s.outCh := rfl
@[simp] theorem modTgt_inCh (n : Nat) (f : TgtS → TgtS) : (s.modTgt n f).inCh = s.inCh := rfl
@[simp] theorem modTgt_fcp (n : Nat) (f : TgtS → TgtS) : (s.modTgt n f).fcp = s.fcp := rfl
@[simp] theorem modTgt_sq (n : Nat) (f : TgtS → TgtS) : (s.modTgt n f).sq = s.sq := rfl
@[simp] theorem modTgt_brk (n : Nat) (f : TgtS → TgtS) : (s.modTgt n f).brk = s.brk := rfl
@[simp] theorem modTgt_groupAt (n : Nat) (f : TgtS → TgtS) : (s.modTgt n f).groupAt = s.groupAt := rfl
@[simp] theorem modTgt_dsp (n : Nat) (f : TgtS → TgtS) : (s.modTgt n f).dsp = s.dsp := rfl
@[simp] theorem modTgt_focus (n : Nat) (f : TgtS → TgtS) : (s.modTgt n f).focus = s.focus := rfl
@[simp] theorem modTgt_trim (n : Nat) (f : TgtS → TgtS) : (s.modTgt n f).trim = s.trim := rfl
@[simp] theorem modTgt_reqs (n : Nat) (f : TgtS → TgtS) : (s.modTgt n f).reqs = s.reqs := rfl
@[simp] theorem modTgt_resps (n : Nat) (f : TgtS → TgtS) : (s.modTgt n f).resps = s.resps := rfl
@[simp] theorem modTgt_held (n : Nat) (f : TgtS → TgtS) : (s.modTgt n f).held = s.held := rfl
@[simp] theorem modTgt_steal (n : Nat) (f : TgtS → TgtS) : (s.modTgt n f).steal = s.steal := rfl
@[simp] theorem modTgt_labels (n : Nat) (f : TgtS → TgtS) : (s.modTgt n f).labels = s.labels := rfl
@[simp] theorem modTgt_fresh (n : Nat) (f : TgtS → TgtS) : (s.modTgt n f).fresh = s.fresh := rfl
@[simp] theorem modTgt_cleared (n : Nat) (f : TgtS → TgtS) : (s.modTgt n f).cleared = s.cleared := rfl
@[simp] theorem modTgt_drain (n : Nat) (f : TgtS → TgtS) : (s.modTgt n f).drain = s.drain := rfl
@[simp] theorem modTgt_trace (n : Nat) (f : TgtS → TgtS) : (s.modTgt n f).trace = s.trace := rfl
@[simp] theorem modTgt_dmc (n : Nat) (f : TgtS → TgtS) : (s.modTgt n f).dmc = s.dmc := rfl
@[simp] theorem modTgt_autoTrain (n : Nat) (f : TgtS → TgtS) : (s.modTgt n f).autoTrain = s.autoTrain := rfl
@[simp] theorem modTgt_crh (n : Nat) (f : TgtS → TgtS) : (s.modTgt n f).crh = s.crh := rfl
@[simp] theorem modTgt_cfg (n : Nat) (f : TgtS → TgtS) : (s.modTgt n f).cfg = s.cfg := rfl
@[simp] theorem modTgt_sup (n : Nat) (f : TgtS → TgtS) : (s.modTgt n f).sup = s.sup := rfl
@[simp] theorem modTgt_dbg (n : Nat) (f : TgtS → TgtS) : (s.modTgt n f).dbg = s.dbg := rfl
@[simp] theorem modTgt_tmu (n : Nat) (f : TgtS → TgtS) : (s.modTgt n f).tmu = s.tmu := rfl
@[simp] theorem modTgt_lanes (n : Nat) (f : TgtS → TgtS) : (s.modTgt n f).lanes = s.lanes := rfl
@[simp] theorem modTgt_cells (n : Nat) (f : TgtS → TgtS) : (s.modTgt n f).cells = s.cells := rfl
@[simp] theorem modTgt_cellCfg (n : Nat) (f : TgtS → TgtS) : (s.modTgt n f).cellCfg = s.cellCfg := rfl
@[simp] theorem modTgt_sels (n : Nat) (f : TgtS → TgtS) : (s.modTgt n f).sels = s.sels := rfl
@[simp] theorem modTgt_tracks (n : Nat) (f : TgtS → TgtS) : (s.modTgt n f).tracks = s.tracks := rfl
@[simp] theorem modTgt_upsets (n : Nat) (f : TgtS → TgtS) : (s.modTgt n f).upsets = s.upsets := rfl
@[simp] theorem modTgt_facets (n : Nat) (f : TgtS → TgtS) : (s.modTgt n f).facets = s.facets := rfl
@[simp] theorem modTgt_fev (n : Nat) (f : TgtS → TgtS) : (s.modTgt n f).fev = s.fev := rfl
@[simp] theorem modTgt_panes (n : Nat) (f : TgtS → TgtS) : (s.modTgt n f).panes = s.panes := rfl
@[simp] theorem modTgt_banks (n : Nat) (f : TgtS → TgtS) : (s.modTgt n f).banks = s.banks := rfl
@[simp] theorem modTgt_pins (n : Nat) (f : TgtS → TgtS) : (s.modTgt n f).pins = s.pins := rfl
@[simp] theorem modDsp_now (n : Nat) (f : DspRun → DspRun) : (s.modDsp n f).now = s.now := rfl
@[simp] theorem modDsp_reg (n : Nat) (f : DspRun → DspRun) : (s.modDsp n f).reg = s.reg := rfl
@[simp] theorem modDsp_mem (n : Nat) (f : DspRun → DspRun) : (s.modDsp n f).mem = s.mem := rfl
@[simp] theorem modDsp_evq (n : Nat) (f : DspRun → DspRun) : (s.modDsp n f).evq = s.evq := rfl
@[simp] theorem modDsp_freeCtr (n : Nat) (f : DspRun → DspRun) : (s.modDsp n f).freeCtr = s.freeCtr := rfl
@[simp] theorem modDsp_pending (n : Nat) (f : DspRun → DspRun) : (s.modDsp n f).pending = s.pending := rfl
@[simp] theorem modDsp_hdi (n : Nat) (f : DspRun → DspRun) : (s.modDsp n f).hdi = s.hdi := rfl
@[simp] theorem modDsp_clk (n : Nat) (f : DspRun → DspRun) : (s.modDsp n f).clk = s.clk := rfl
@[simp] theorem modDsp_sched (n : Nat) (f : DspRun → DspRun) : (s.modDsp n f).sched = s.sched := rfl
@[simp] theorem modDsp_ve (n : Nat) (f : DspRun → DspRun) : (s.modDsp n f).ve = s.ve := rfl
@[simp] theorem modDsp_outCh (n : Nat) (f : DspRun → DspRun) : (s.modDsp n f).outCh = s.outCh := rfl
@[simp] theorem modDsp_inCh (n : Nat) (f : DspRun → DspRun) : (s.modDsp n f).inCh = s.inCh := rfl
@[simp] theorem modDsp_fcp (n : Nat) (f : DspRun → DspRun) : (s.modDsp n f).fcp = s.fcp := rfl
@[simp] theorem modDsp_sq (n : Nat) (f : DspRun → DspRun) : (s.modDsp n f).sq = s.sq := rfl
@[simp] theorem modDsp_brk (n : Nat) (f : DspRun → DspRun) : (s.modDsp n f).brk = s.brk := rfl
@[simp] theorem modDsp_tgt (n : Nat) (f : DspRun → DspRun) : (s.modDsp n f).tgt = s.tgt := rfl
@[simp] theorem modDsp_groupAt (n : Nat) (f : DspRun → DspRun) : (s.modDsp n f).groupAt = s.groupAt := rfl
@[simp] theorem modDsp_focus (n : Nat) (f : DspRun → DspRun) : (s.modDsp n f).focus = s.focus := rfl
@[simp] theorem modDsp_trim (n : Nat) (f : DspRun → DspRun) : (s.modDsp n f).trim = s.trim := rfl
@[simp] theorem modDsp_reqs (n : Nat) (f : DspRun → DspRun) : (s.modDsp n f).reqs = s.reqs := rfl
@[simp] theorem modDsp_resps (n : Nat) (f : DspRun → DspRun) : (s.modDsp n f).resps = s.resps := rfl
@[simp] theorem modDsp_held (n : Nat) (f : DspRun → DspRun) : (s.modDsp n f).held = s.held := rfl
@[simp] theorem modDsp_steal (n : Nat) (f : DspRun → DspRun) : (s.modDsp n f).steal = s.steal := rfl
@[simp] theorem modDsp_labels (n : Nat) (f : DspRun → DspRun) : (s.modDsp n f).labels = s.labels := rfl
@[simp] theorem modDsp_fresh (n : Nat) (f : DspRun → DspRun) : (s.modDsp n f).fresh = s.fresh := rfl
@[simp] theorem modDsp_cleared (n : Nat) (f : DspRun → DspRun) : (s.modDsp n f).cleared = s.cleared := rfl
@[simp] theorem modDsp_drain (n : Nat) (f : DspRun → DspRun) : (s.modDsp n f).drain = s.drain := rfl
@[simp] theorem modDsp_trace (n : Nat) (f : DspRun → DspRun) : (s.modDsp n f).trace = s.trace := rfl
@[simp] theorem modDsp_dmc (n : Nat) (f : DspRun → DspRun) : (s.modDsp n f).dmc = s.dmc := rfl
@[simp] theorem modDsp_autoTrain (n : Nat) (f : DspRun → DspRun) : (s.modDsp n f).autoTrain = s.autoTrain := rfl
@[simp] theorem modDsp_crh (n : Nat) (f : DspRun → DspRun) : (s.modDsp n f).crh = s.crh := rfl
@[simp] theorem modDsp_cfg (n : Nat) (f : DspRun → DspRun) : (s.modDsp n f).cfg = s.cfg := rfl
@[simp] theorem modDsp_sup (n : Nat) (f : DspRun → DspRun) : (s.modDsp n f).sup = s.sup := rfl
@[simp] theorem modDsp_dbg (n : Nat) (f : DspRun → DspRun) : (s.modDsp n f).dbg = s.dbg := rfl
@[simp] theorem modDsp_tmu (n : Nat) (f : DspRun → DspRun) : (s.modDsp n f).tmu = s.tmu := rfl
@[simp] theorem modDsp_lanes (n : Nat) (f : DspRun → DspRun) : (s.modDsp n f).lanes = s.lanes := rfl
@[simp] theorem modDsp_cells (n : Nat) (f : DspRun → DspRun) : (s.modDsp n f).cells = s.cells := rfl
@[simp] theorem modDsp_cellCfg (n : Nat) (f : DspRun → DspRun) : (s.modDsp n f).cellCfg = s.cellCfg := rfl
@[simp] theorem modDsp_sels (n : Nat) (f : DspRun → DspRun) : (s.modDsp n f).sels = s.sels := rfl
@[simp] theorem modDsp_tracks (n : Nat) (f : DspRun → DspRun) : (s.modDsp n f).tracks = s.tracks := rfl
@[simp] theorem modDsp_upsets (n : Nat) (f : DspRun → DspRun) : (s.modDsp n f).upsets = s.upsets := rfl
@[simp] theorem modDsp_facets (n : Nat) (f : DspRun → DspRun) : (s.modDsp n f).facets = s.facets := rfl
@[simp] theorem modDsp_fev (n : Nat) (f : DspRun → DspRun) : (s.modDsp n f).fev = s.fev := rfl
@[simp] theorem modDsp_panes (n : Nat) (f : DspRun → DspRun) : (s.modDsp n f).panes = s.panes := rfl
@[simp] theorem modDsp_banks (n : Nat) (f : DspRun → DspRun) : (s.modDsp n f).banks = s.banks := rfl
@[simp] theorem modDsp_pins (n : Nat) (f : DspRun → DspRun) : (s.modDsp n f).pins = s.pins := rfl
@[simp] theorem modFacet_now (n : Nat) (f : FacetS → FacetS) : (s.modFacet n f).now = s.now := rfl
@[simp] theorem modFacet_reg (n : Nat) (f : FacetS → FacetS) : (s.modFacet n f).reg = s.reg := rfl
@[simp] theorem modFacet_mem (n : Nat) (f : FacetS → FacetS) : (s.modFacet n f).mem = s.mem := rfl
@[simp] theorem modFacet_evq (n : Nat) (f : FacetS → FacetS) : (s.modFacet n f).evq = s.evq := rfl
@[simp] theorem modFacet_freeCtr (n : Nat) (f : FacetS → FacetS) : (s.modFacet n f).freeCtr = s.freeCtr := rfl
@[simp] theorem modFacet_pending (n : Nat) (f : FacetS → FacetS) : (s.modFacet n f).pending = s.pending := rfl
@[simp] theorem modFacet_hdi (n : Nat) (f : FacetS → FacetS) : (s.modFacet n f).hdi = s.hdi := rfl
@[simp] theorem modFacet_clk (n : Nat) (f : FacetS → FacetS) : (s.modFacet n f).clk = s.clk := rfl
@[simp] theorem modFacet_sched (n : Nat) (f : FacetS → FacetS) : (s.modFacet n f).sched = s.sched := rfl
@[simp] theorem modFacet_ve (n : Nat) (f : FacetS → FacetS) : (s.modFacet n f).ve = s.ve := rfl
@[simp] theorem modFacet_outCh (n : Nat) (f : FacetS → FacetS) : (s.modFacet n f).outCh = s.outCh := rfl
@[simp] theorem modFacet_inCh (n : Nat) (f : FacetS → FacetS) : (s.modFacet n f).inCh = s.inCh := rfl
@[simp] theorem modFacet_fcp (n : Nat) (f : FacetS → FacetS) : (s.modFacet n f).fcp = s.fcp := rfl
@[simp] theorem modFacet_sq (n : Nat) (f : FacetS → FacetS) : (s.modFacet n f).sq = s.sq := rfl
@[simp] theorem modFacet_brk (n : Nat) (f : FacetS → FacetS) : (s.modFacet n f).brk = s.brk := rfl
@[simp] theorem modFacet_tgt (n : Nat) (f : FacetS → FacetS) : (s.modFacet n f).tgt = s.tgt := rfl
@[simp] theorem modFacet_groupAt (n : Nat) (f : FacetS → FacetS) : (s.modFacet n f).groupAt = s.groupAt := rfl
@[simp] theorem modFacet_dsp (n : Nat) (f : FacetS → FacetS) : (s.modFacet n f).dsp = s.dsp := rfl
@[simp] theorem modFacet_focus (n : Nat) (f : FacetS → FacetS) : (s.modFacet n f).focus = s.focus := rfl
@[simp] theorem modFacet_trim (n : Nat) (f : FacetS → FacetS) : (s.modFacet n f).trim = s.trim := rfl
@[simp] theorem modFacet_reqs (n : Nat) (f : FacetS → FacetS) : (s.modFacet n f).reqs = s.reqs := rfl
@[simp] theorem modFacet_resps (n : Nat) (f : FacetS → FacetS) : (s.modFacet n f).resps = s.resps := rfl
@[simp] theorem modFacet_held (n : Nat) (f : FacetS → FacetS) : (s.modFacet n f).held = s.held := rfl
@[simp] theorem modFacet_steal (n : Nat) (f : FacetS → FacetS) : (s.modFacet n f).steal = s.steal := rfl
@[simp] theorem modFacet_labels (n : Nat) (f : FacetS → FacetS) : (s.modFacet n f).labels = s.labels := rfl
@[simp] theorem modFacet_fresh (n : Nat) (f : FacetS → FacetS) : (s.modFacet n f).fresh = s.fresh := rfl
@[simp] theorem modFacet_cleared (n : Nat) (f : FacetS → FacetS) : (s.modFacet n f).cleared = s.cleared := rfl
@[simp] theorem modFacet_drain (n : Nat) (f : FacetS → FacetS) : (s.modFacet n f).drain = s.drain := rfl
@[simp] theorem modFacet_trace (n : Nat) (f : FacetS → FacetS) : (s.modFacet n f).trace = s.trace := rfl
@[simp] theorem modFacet_dmc (n : Nat) (f : FacetS → FacetS) : (s.modFacet n f).dmc = s.dmc := rfl
@[simp] theorem modFacet_autoTrain (n : Nat) (f : FacetS → FacetS) : (s.modFacet n f).autoTrain = s.autoTrain := rfl
@[simp] theorem modFacet_crh (n : Nat) (f : FacetS → FacetS) : (s.modFacet n f).crh = s.crh := rfl
@[simp] theorem modFacet_cfg (n : Nat) (f : FacetS → FacetS) : (s.modFacet n f).cfg = s.cfg := rfl
@[simp] theorem modFacet_sup (n : Nat) (f : FacetS → FacetS) : (s.modFacet n f).sup = s.sup := rfl
@[simp] theorem modFacet_dbg (n : Nat) (f : FacetS → FacetS) : (s.modFacet n f).dbg = s.dbg := rfl
@[simp] theorem modFacet_tmu (n : Nat) (f : FacetS → FacetS) : (s.modFacet n f).tmu = s.tmu := rfl
@[simp] theorem modFacet_lanes (n : Nat) (f : FacetS → FacetS) : (s.modFacet n f).lanes = s.lanes := rfl
@[simp] theorem modFacet_cells (n : Nat) (f : FacetS → FacetS) : (s.modFacet n f).cells = s.cells := rfl
@[simp] theorem modFacet_cellCfg (n : Nat) (f : FacetS → FacetS) : (s.modFacet n f).cellCfg = s.cellCfg := rfl
@[simp] theorem modFacet_sels (n : Nat) (f : FacetS → FacetS) : (s.modFacet n f).sels = s.sels := rfl
@[simp] theorem modFacet_tracks (n : Nat) (f : FacetS → FacetS) : (s.modFacet n f).tracks = s.tracks := rfl
@[simp] theorem modFacet_upsets (n : Nat) (f : FacetS → FacetS) : (s.modFacet n f).upsets = s.upsets := rfl
@[simp] theorem modFacet_fev (n : Nat) (f : FacetS → FacetS) : (s.modFacet n f).fev = s.fev := rfl
@[simp] theorem modFacet_panes (n : Nat) (f : FacetS → FacetS) : (s.modFacet n f).panes = s.panes := rfl
@[simp] theorem modFacet_banks (n : Nat) (f : FacetS → FacetS) : (s.modFacet n f).banks = s.banks := rfl
@[simp] theorem modFacet_pins (n : Nat) (f : FacetS → FacetS) : (s.modFacet n f).pins = s.pins := rfl
@[simp] theorem modPane_now (n : Nat) (f : PaneS → PaneS) : (s.modPane n f).now = s.now := rfl
@[simp] theorem modPane_reg (n : Nat) (f : PaneS → PaneS) : (s.modPane n f).reg = s.reg := rfl
@[simp] theorem modPane_mem (n : Nat) (f : PaneS → PaneS) : (s.modPane n f).mem = s.mem := rfl
@[simp] theorem modPane_evq (n : Nat) (f : PaneS → PaneS) : (s.modPane n f).evq = s.evq := rfl
@[simp] theorem modPane_freeCtr (n : Nat) (f : PaneS → PaneS) : (s.modPane n f).freeCtr = s.freeCtr := rfl
@[simp] theorem modPane_pending (n : Nat) (f : PaneS → PaneS) : (s.modPane n f).pending = s.pending := rfl
@[simp] theorem modPane_hdi (n : Nat) (f : PaneS → PaneS) : (s.modPane n f).hdi = s.hdi := rfl
@[simp] theorem modPane_clk (n : Nat) (f : PaneS → PaneS) : (s.modPane n f).clk = s.clk := rfl
@[simp] theorem modPane_sched (n : Nat) (f : PaneS → PaneS) : (s.modPane n f).sched = s.sched := rfl
@[simp] theorem modPane_ve (n : Nat) (f : PaneS → PaneS) : (s.modPane n f).ve = s.ve := rfl
@[simp] theorem modPane_outCh (n : Nat) (f : PaneS → PaneS) : (s.modPane n f).outCh = s.outCh := rfl
@[simp] theorem modPane_inCh (n : Nat) (f : PaneS → PaneS) : (s.modPane n f).inCh = s.inCh := rfl
@[simp] theorem modPane_fcp (n : Nat) (f : PaneS → PaneS) : (s.modPane n f).fcp = s.fcp := rfl
@[simp] theorem modPane_sq (n : Nat) (f : PaneS → PaneS) : (s.modPane n f).sq = s.sq := rfl
@[simp] theorem modPane_brk (n : Nat) (f : PaneS → PaneS) : (s.modPane n f).brk = s.brk := rfl
@[simp] theorem modPane_tgt (n : Nat) (f : PaneS → PaneS) : (s.modPane n f).tgt = s.tgt := rfl
@[simp] theorem modPane_groupAt (n : Nat) (f : PaneS → PaneS) : (s.modPane n f).groupAt = s.groupAt := rfl
@[simp] theorem modPane_dsp (n : Nat) (f : PaneS → PaneS) : (s.modPane n f).dsp = s.dsp := rfl
@[simp] theorem modPane_focus (n : Nat) (f : PaneS → PaneS) : (s.modPane n f).focus = s.focus := rfl
@[simp] theorem modPane_trim (n : Nat) (f : PaneS → PaneS) : (s.modPane n f).trim = s.trim := rfl
@[simp] theorem modPane_reqs (n : Nat) (f : PaneS → PaneS) : (s.modPane n f).reqs = s.reqs := rfl
@[simp] theorem modPane_resps (n : Nat) (f : PaneS → PaneS) : (s.modPane n f).resps = s.resps := rfl
@[simp] theorem modPane_held (n : Nat) (f : PaneS → PaneS) : (s.modPane n f).held = s.held := rfl
@[simp] theorem modPane_steal (n : Nat) (f : PaneS → PaneS) : (s.modPane n f).steal = s.steal := rfl
@[simp] theorem modPane_labels (n : Nat) (f : PaneS → PaneS) : (s.modPane n f).labels = s.labels := rfl
@[simp] theorem modPane_fresh (n : Nat) (f : PaneS → PaneS) : (s.modPane n f).fresh = s.fresh := rfl
@[simp] theorem modPane_cleared (n : Nat) (f : PaneS → PaneS) : (s.modPane n f).cleared = s.cleared := rfl
@[simp] theorem modPane_drain (n : Nat) (f : PaneS → PaneS) : (s.modPane n f).drain = s.drain := rfl
@[simp] theorem modPane_trace (n : Nat) (f : PaneS → PaneS) : (s.modPane n f).trace = s.trace := rfl
@[simp] theorem modPane_dmc (n : Nat) (f : PaneS → PaneS) : (s.modPane n f).dmc = s.dmc := rfl
@[simp] theorem modPane_autoTrain (n : Nat) (f : PaneS → PaneS) : (s.modPane n f).autoTrain = s.autoTrain := rfl
@[simp] theorem modPane_crh (n : Nat) (f : PaneS → PaneS) : (s.modPane n f).crh = s.crh := rfl
@[simp] theorem modPane_cfg (n : Nat) (f : PaneS → PaneS) : (s.modPane n f).cfg = s.cfg := rfl
@[simp] theorem modPane_sup (n : Nat) (f : PaneS → PaneS) : (s.modPane n f).sup = s.sup := rfl
@[simp] theorem modPane_dbg (n : Nat) (f : PaneS → PaneS) : (s.modPane n f).dbg = s.dbg := rfl
@[simp] theorem modPane_tmu (n : Nat) (f : PaneS → PaneS) : (s.modPane n f).tmu = s.tmu := rfl
@[simp] theorem modPane_lanes (n : Nat) (f : PaneS → PaneS) : (s.modPane n f).lanes = s.lanes := rfl
@[simp] theorem modPane_cells (n : Nat) (f : PaneS → PaneS) : (s.modPane n f).cells = s.cells := rfl
@[simp] theorem modPane_cellCfg (n : Nat) (f : PaneS → PaneS) : (s.modPane n f).cellCfg = s.cellCfg := rfl
@[simp] theorem modPane_sels (n : Nat) (f : PaneS → PaneS) : (s.modPane n f).sels = s.sels := rfl
@[simp] theorem modPane_tracks (n : Nat) (f : PaneS → PaneS) : (s.modPane n f).tracks = s.tracks := rfl
@[simp] theorem modPane_upsets (n : Nat) (f : PaneS → PaneS) : (s.modPane n f).upsets = s.upsets := rfl
@[simp] theorem modPane_facets (n : Nat) (f : PaneS → PaneS) : (s.modPane n f).facets = s.facets := rfl
@[simp] theorem modPane_fev (n : Nat) (f : PaneS → PaneS) : (s.modPane n f).fev = s.fev := rfl
@[simp] theorem modPane_banks (n : Nat) (f : PaneS → PaneS) : (s.modPane n f).banks = s.banks := rfl
@[simp] theorem modPane_pins (n : Nat) (f : PaneS → PaneS) : (s.modPane n f).pins = s.pins := rfl
@[simp] theorem modBank_now (n : Nat) (f : BankS → BankS) : (s.modBank n f).now = s.now := rfl
@[simp] theorem modBank_reg (n : Nat) (f : BankS → BankS) : (s.modBank n f).reg = s.reg := rfl
@[simp] theorem modBank_mem (n : Nat) (f : BankS → BankS) : (s.modBank n f).mem = s.mem := rfl
@[simp] theorem modBank_evq (n : Nat) (f : BankS → BankS) : (s.modBank n f).evq = s.evq := rfl
@[simp] theorem modBank_freeCtr (n : Nat) (f : BankS → BankS) : (s.modBank n f).freeCtr = s.freeCtr := rfl
@[simp] theorem modBank_pending (n : Nat) (f : BankS → BankS) : (s.modBank n f).pending = s.pending := rfl
@[simp] theorem modBank_hdi (n : Nat) (f : BankS → BankS) : (s.modBank n f).hdi = s.hdi := rfl
@[simp] theorem modBank_clk (n : Nat) (f : BankS → BankS) : (s.modBank n f).clk = s.clk := rfl
@[simp] theorem modBank_sched (n : Nat) (f : BankS → BankS) : (s.modBank n f).sched = s.sched := rfl
@[simp] theorem modBank_ve (n : Nat) (f : BankS → BankS) : (s.modBank n f).ve = s.ve := rfl
@[simp] theorem modBank_outCh (n : Nat) (f : BankS → BankS) : (s.modBank n f).outCh = s.outCh := rfl
@[simp] theorem modBank_inCh (n : Nat) (f : BankS → BankS) : (s.modBank n f).inCh = s.inCh := rfl
@[simp] theorem modBank_fcp (n : Nat) (f : BankS → BankS) : (s.modBank n f).fcp = s.fcp := rfl
@[simp] theorem modBank_sq (n : Nat) (f : BankS → BankS) : (s.modBank n f).sq = s.sq := rfl
@[simp] theorem modBank_brk (n : Nat) (f : BankS → BankS) : (s.modBank n f).brk = s.brk := rfl
@[simp] theorem modBank_tgt (n : Nat) (f : BankS → BankS) : (s.modBank n f).tgt = s.tgt := rfl
@[simp] theorem modBank_groupAt (n : Nat) (f : BankS → BankS) : (s.modBank n f).groupAt = s.groupAt := rfl
@[simp] theorem modBank_dsp (n : Nat) (f : BankS → BankS) : (s.modBank n f).dsp = s.dsp := rfl
@[simp] theorem modBank_focus (n : Nat) (f : BankS → BankS) : (s.modBank n f).focus = s.focus := rfl
@[simp] theorem modBank_trim (n : Nat) (f : BankS → BankS) : (s.modBank n f).trim = s.trim := rfl
@[simp] theorem modBank_reqs (n : Nat) (f : BankS → BankS) : (s.modBank n f).reqs = s.reqs := rfl
@[simp] theorem modBank_resps (n : Nat) (f : BankS → BankS) : (s.modBank n f).resps = s.resps := rfl
@[simp] theorem modBank_held (n : Nat) (f : BankS → BankS) : (s.modBank n f).held = s.held := rfl
@[simp] theorem modBank_steal (n : Nat) (f : BankS → BankS) : (s.modBank n f).steal = s.steal := rfl
@[simp] theorem modBank_labels (n : Nat) (f : BankS → BankS) : (s.modBank n f).labels = s.labels := rfl
@[simp] theorem modBank_fresh (n : Nat) (f : BankS → BankS) : (s.modBank n f).fresh = s.fresh := rfl
@[simp] theorem modBank_cleared (n : Nat) (f : BankS → BankS) : (s.modBank n f).cleared = s.cleared := rfl
@[simp] theorem modBank_drain (n : Nat) (f : BankS → BankS) : (s.modBank n f).drain = s.drain := rfl
@[simp] theorem modBank_trace (n : Nat) (f : BankS → BankS) : (s.modBank n f).trace = s.trace := rfl
@[simp] theorem modBank_dmc (n : Nat) (f : BankS → BankS) : (s.modBank n f).dmc = s.dmc := rfl
@[simp] theorem modBank_autoTrain (n : Nat) (f : BankS → BankS) : (s.modBank n f).autoTrain = s.autoTrain := rfl
@[simp] theorem modBank_crh (n : Nat) (f : BankS → BankS) : (s.modBank n f).crh = s.crh := rfl
@[simp] theorem modBank_cfg (n : Nat) (f : BankS → BankS) : (s.modBank n f).cfg = s.cfg := rfl
@[simp] theorem modBank_sup (n : Nat) (f : BankS → BankS) : (s.modBank n f).sup = s.sup := rfl
@[simp] theorem modBank_dbg (n : Nat) (f : BankS → BankS) : (s.modBank n f).dbg = s.dbg := rfl
@[simp] theorem modBank_tmu (n : Nat) (f : BankS → BankS) : (s.modBank n f).tmu = s.tmu := rfl
@[simp] theorem modBank_lanes (n : Nat) (f : BankS → BankS) : (s.modBank n f).lanes = s.lanes := rfl
@[simp] theorem modBank_cells (n : Nat) (f : BankS → BankS) : (s.modBank n f).cells = s.cells := rfl
@[simp] theorem modBank_cellCfg (n : Nat) (f : BankS → BankS) : (s.modBank n f).cellCfg = s.cellCfg := rfl
@[simp] theorem modBank_sels (n : Nat) (f : BankS → BankS) : (s.modBank n f).sels = s.sels := rfl
@[simp] theorem modBank_tracks (n : Nat) (f : BankS → BankS) : (s.modBank n f).tracks = s.tracks := rfl
@[simp] theorem modBank_upsets (n : Nat) (f : BankS → BankS) : (s.modBank n f).upsets = s.upsets := rfl
@[simp] theorem modBank_facets (n : Nat) (f : BankS → BankS) : (s.modBank n f).facets = s.facets := rfl
@[simp] theorem modBank_fev (n : Nat) (f : BankS → BankS) : (s.modBank n f).fev = s.fev := rfl
@[simp] theorem modBank_panes (n : Nat) (f : BankS → BankS) : (s.modBank n f).panes = s.panes := rfl
@[simp] theorem modBank_pins (n : Nat) (f : BankS → BankS) : (s.modBank n f).pins = s.pins := rfl
@[simp] theorem modDmc_now (n : Nat) (f : DmcS → DmcS) : (s.modDmc n f).now = s.now := rfl
@[simp] theorem modDmc_reg (n : Nat) (f : DmcS → DmcS) : (s.modDmc n f).reg = s.reg := rfl
@[simp] theorem modDmc_mem (n : Nat) (f : DmcS → DmcS) : (s.modDmc n f).mem = s.mem := rfl
@[simp] theorem modDmc_evq (n : Nat) (f : DmcS → DmcS) : (s.modDmc n f).evq = s.evq := rfl
@[simp] theorem modDmc_freeCtr (n : Nat) (f : DmcS → DmcS) : (s.modDmc n f).freeCtr = s.freeCtr := rfl
@[simp] theorem modDmc_pending (n : Nat) (f : DmcS → DmcS) : (s.modDmc n f).pending = s.pending := rfl
@[simp] theorem modDmc_hdi (n : Nat) (f : DmcS → DmcS) : (s.modDmc n f).hdi = s.hdi := rfl
@[simp] theorem modDmc_clk (n : Nat) (f : DmcS → DmcS) : (s.modDmc n f).clk = s.clk := rfl
@[simp] theorem modDmc_sched (n : Nat) (f : DmcS → DmcS) : (s.modDmc n f).sched = s.sched := rfl
@[simp] theorem modDmc_ve (n : Nat) (f : DmcS → DmcS) : (s.modDmc n f).ve = s.ve := rfl
@[simp] theorem modDmc_outCh (n : Nat) (f : DmcS → DmcS) : (s.modDmc n f).outCh = s.outCh := rfl
@[simp] theorem modDmc_inCh (n : Nat) (f : DmcS → DmcS) : (s.modDmc n f).inCh = s.inCh := rfl
@[simp] theorem modDmc_fcp (n : Nat) (f : DmcS → DmcS) : (s.modDmc n f).fcp = s.fcp := rfl
@[simp] theorem modDmc_sq (n : Nat) (f : DmcS → DmcS) : (s.modDmc n f).sq = s.sq := rfl
@[simp] theorem modDmc_brk (n : Nat) (f : DmcS → DmcS) : (s.modDmc n f).brk = s.brk := rfl
@[simp] theorem modDmc_tgt (n : Nat) (f : DmcS → DmcS) : (s.modDmc n f).tgt = s.tgt := rfl
@[simp] theorem modDmc_groupAt (n : Nat) (f : DmcS → DmcS) : (s.modDmc n f).groupAt = s.groupAt := rfl
@[simp] theorem modDmc_dsp (n : Nat) (f : DmcS → DmcS) : (s.modDmc n f).dsp = s.dsp := rfl
@[simp] theorem modDmc_focus (n : Nat) (f : DmcS → DmcS) : (s.modDmc n f).focus = s.focus := rfl
@[simp] theorem modDmc_trim (n : Nat) (f : DmcS → DmcS) : (s.modDmc n f).trim = s.trim := rfl
@[simp] theorem modDmc_reqs (n : Nat) (f : DmcS → DmcS) : (s.modDmc n f).reqs = s.reqs := rfl
@[simp] theorem modDmc_resps (n : Nat) (f : DmcS → DmcS) : (s.modDmc n f).resps = s.resps := rfl
@[simp] theorem modDmc_held (n : Nat) (f : DmcS → DmcS) : (s.modDmc n f).held = s.held := rfl
@[simp] theorem modDmc_steal (n : Nat) (f : DmcS → DmcS) : (s.modDmc n f).steal = s.steal := rfl
@[simp] theorem modDmc_labels (n : Nat) (f : DmcS → DmcS) : (s.modDmc n f).labels = s.labels := rfl
@[simp] theorem modDmc_fresh (n : Nat) (f : DmcS → DmcS) : (s.modDmc n f).fresh = s.fresh := rfl
@[simp] theorem modDmc_cleared (n : Nat) (f : DmcS → DmcS) : (s.modDmc n f).cleared = s.cleared := rfl
@[simp] theorem modDmc_drain (n : Nat) (f : DmcS → DmcS) : (s.modDmc n f).drain = s.drain := rfl
@[simp] theorem modDmc_trace (n : Nat) (f : DmcS → DmcS) : (s.modDmc n f).trace = s.trace := rfl
@[simp] theorem modDmc_autoTrain (n : Nat) (f : DmcS → DmcS) : (s.modDmc n f).autoTrain = s.autoTrain := rfl
@[simp] theorem modDmc_crh (n : Nat) (f : DmcS → DmcS) : (s.modDmc n f).crh = s.crh := rfl
@[simp] theorem modDmc_cfg (n : Nat) (f : DmcS → DmcS) : (s.modDmc n f).cfg = s.cfg := rfl
@[simp] theorem modDmc_sup (n : Nat) (f : DmcS → DmcS) : (s.modDmc n f).sup = s.sup := rfl
@[simp] theorem modDmc_dbg (n : Nat) (f : DmcS → DmcS) : (s.modDmc n f).dbg = s.dbg := rfl
@[simp] theorem modDmc_tmu (n : Nat) (f : DmcS → DmcS) : (s.modDmc n f).tmu = s.tmu := rfl
@[simp] theorem modDmc_lanes (n : Nat) (f : DmcS → DmcS) : (s.modDmc n f).lanes = s.lanes := rfl
@[simp] theorem modDmc_cells (n : Nat) (f : DmcS → DmcS) : (s.modDmc n f).cells = s.cells := rfl
@[simp] theorem modDmc_cellCfg (n : Nat) (f : DmcS → DmcS) : (s.modDmc n f).cellCfg = s.cellCfg := rfl
@[simp] theorem modDmc_sels (n : Nat) (f : DmcS → DmcS) : (s.modDmc n f).sels = s.sels := rfl
@[simp] theorem modDmc_tracks (n : Nat) (f : DmcS → DmcS) : (s.modDmc n f).tracks = s.tracks := rfl
@[simp] theorem modDmc_upsets (n : Nat) (f : DmcS → DmcS) : (s.modDmc n f).upsets = s.upsets := rfl
@[simp] theorem modDmc_facets (n : Nat) (f : DmcS → DmcS) : (s.modDmc n f).facets = s.facets := rfl
@[simp] theorem modDmc_fev (n : Nat) (f : DmcS → DmcS) : (s.modDmc n f).fev = s.fev := rfl
@[simp] theorem modDmc_panes (n : Nat) (f : DmcS → DmcS) : (s.modDmc n f).panes = s.panes := rfl
@[simp] theorem modDmc_banks (n : Nat) (f : DmcS → DmcS) : (s.modDmc n f).banks = s.banks := rfl
@[simp] theorem modDmc_pins (n : Nat) (f : DmcS → DmcS) : (s.modDmc n f).pins = s.pins := rfl
@[simp] theorem modLane_now (n : Nat) (f : LaneS → LaneS) : (s.modLane n f).now = s.now := rfl
@[simp] theorem modLane_reg (n : Nat) (f : LaneS → LaneS) : (s.modLane n f).reg = s.reg := rfl
@[simp] theorem modLane_mem (n : Nat) (f : LaneS → LaneS) : (s.modLane n f).mem = s.mem := rfl
@[simp] theorem modLane_evq (n : Nat) (f : LaneS → LaneS) : (s.modLane n f).evq = s.evq := rfl
@[simp] theorem modLane_freeCtr (n : Nat) (f : LaneS → LaneS) : (s.modLane n f).freeCtr = s.freeCtr := rfl
@[simp] theorem modLane_pending (n : Nat) (f : LaneS → LaneS) : (s.modLane n f).pending = s.pending := rfl
@[simp] theorem modLane_hdi (n : Nat) (f : LaneS → LaneS) : (s.modLane n f).hdi = s.hdi := rfl
@[simp] theorem modLane_clk (n : Nat) (f : LaneS → LaneS) : (s.modLane n f).clk = s.clk := rfl
@[simp] theorem modLane_sched (n : Nat) (f : LaneS → LaneS) : (s.modLane n f).sched = s.sched := rfl
@[simp] theorem modLane_ve (n : Nat) (f : LaneS → LaneS) : (s.modLane n f).ve = s.ve := rfl
@[simp] theorem modLane_outCh (n : Nat) (f : LaneS → LaneS) : (s.modLane n f).outCh = s.outCh := rfl
@[simp] theorem modLane_inCh (n : Nat) (f : LaneS → LaneS) : (s.modLane n f).inCh = s.inCh := rfl
@[simp] theorem modLane_fcp (n : Nat) (f : LaneS → LaneS) : (s.modLane n f).fcp = s.fcp := rfl
@[simp] theorem modLane_sq (n : Nat) (f : LaneS → LaneS) : (s.modLane n f).sq = s.sq := rfl
@[simp] theorem modLane_brk (n : Nat) (f : LaneS → LaneS) : (s.modLane n f).brk = s.brk := rfl
@[simp] theorem modLane_tgt (n : Nat) (f : LaneS → LaneS) : (s.modLane n f).tgt = s.tgt := rfl
@[simp] theorem modLane_groupAt (n : Nat) (f : LaneS → LaneS) : (s.modLane n f).groupAt = s.groupAt := rfl
@[simp] theorem modLane_dsp (n : Nat) (f : LaneS → LaneS) : (s.modLane n f).dsp = s.dsp := rfl
@[simp] theorem modLane_focus (n : Nat) (f : LaneS → LaneS) : (s.modLane n f).focus = s.focus := rfl
@[simp] theorem modLane_trim (n : Nat) (f : LaneS → LaneS) : (s.modLane n f).trim = s.trim := rfl
@[simp] theorem modLane_reqs (n : Nat) (f : LaneS → LaneS) : (s.modLane n f).reqs = s.reqs := rfl
@[simp] theorem modLane_resps (n : Nat) (f : LaneS → LaneS) : (s.modLane n f).resps = s.resps := rfl
@[simp] theorem modLane_held (n : Nat) (f : LaneS → LaneS) : (s.modLane n f).held = s.held := rfl
@[simp] theorem modLane_steal (n : Nat) (f : LaneS → LaneS) : (s.modLane n f).steal = s.steal := rfl
@[simp] theorem modLane_labels (n : Nat) (f : LaneS → LaneS) : (s.modLane n f).labels = s.labels := rfl
@[simp] theorem modLane_fresh (n : Nat) (f : LaneS → LaneS) : (s.modLane n f).fresh = s.fresh := rfl
@[simp] theorem modLane_cleared (n : Nat) (f : LaneS → LaneS) : (s.modLane n f).cleared = s.cleared := rfl
@[simp] theorem modLane_drain (n : Nat) (f : LaneS → LaneS) : (s.modLane n f).drain = s.drain := rfl
@[simp] theorem modLane_trace (n : Nat) (f : LaneS → LaneS) : (s.modLane n f).trace = s.trace := rfl
@[simp] theorem modLane_dmc (n : Nat) (f : LaneS → LaneS) : (s.modLane n f).dmc = s.dmc := rfl
@[simp] theorem modLane_autoTrain (n : Nat) (f : LaneS → LaneS) : (s.modLane n f).autoTrain = s.autoTrain := rfl
@[simp] theorem modLane_crh (n : Nat) (f : LaneS → LaneS) : (s.modLane n f).crh = s.crh := rfl
@[simp] theorem modLane_cfg (n : Nat) (f : LaneS → LaneS) : (s.modLane n f).cfg = s.cfg := rfl
@[simp] theorem modLane_sup (n : Nat) (f : LaneS → LaneS) : (s.modLane n f).sup = s.sup := rfl
@[simp] theorem modLane_dbg (n : Nat) (f : LaneS → LaneS) : (s.modLane n f).dbg = s.dbg := rfl
@[simp] theorem modLane_tmu (n : Nat) (f : LaneS → LaneS) : (s.modLane n f).tmu = s.tmu := rfl
@[simp] theorem modLane_cells (n : Nat) (f : LaneS → LaneS) : (s.modLane n f).cells = s.cells := rfl
@[simp] theorem modLane_cellCfg (n : Nat) (f : LaneS → LaneS) : (s.modLane n f).cellCfg = s.cellCfg := rfl
@[simp] theorem modLane_sels (n : Nat) (f : LaneS → LaneS) : (s.modLane n f).sels = s.sels := rfl
@[simp] theorem modLane_tracks (n : Nat) (f : LaneS → LaneS) : (s.modLane n f).tracks = s.tracks := rfl
@[simp] theorem modLane_upsets (n : Nat) (f : LaneS → LaneS) : (s.modLane n f).upsets = s.upsets := rfl
@[simp] theorem modLane_facets (n : Nat) (f : LaneS → LaneS) : (s.modLane n f).facets = s.facets := rfl
@[simp] theorem modLane_fev (n : Nat) (f : LaneS → LaneS) : (s.modLane n f).fev = s.fev := rfl
@[simp] theorem modLane_panes (n : Nat) (f : LaneS → LaneS) : (s.modLane n f).panes = s.panes := rfl
@[simp] theorem modLane_banks (n : Nat) (f : LaneS → LaneS) : (s.modLane n f).banks = s.banks := rfl
@[simp] theorem modLane_pins (n : Nat) (f : LaneS → LaneS) : (s.modLane n f).pins = s.pins := rfl
@[simp] theorem modTmu_now (f : TmuS → TmuS) : (s.modTmu f).now = s.now := rfl
@[simp] theorem modTmu_reg (f : TmuS → TmuS) : (s.modTmu f).reg = s.reg := rfl
@[simp] theorem modTmu_mem (f : TmuS → TmuS) : (s.modTmu f).mem = s.mem := rfl
@[simp] theorem modTmu_evq (f : TmuS → TmuS) : (s.modTmu f).evq = s.evq := rfl
@[simp] theorem modTmu_freeCtr (f : TmuS → TmuS) : (s.modTmu f).freeCtr = s.freeCtr := rfl
@[simp] theorem modTmu_pending (f : TmuS → TmuS) : (s.modTmu f).pending = s.pending := rfl
@[simp] theorem modTmu_hdi (f : TmuS → TmuS) : (s.modTmu f).hdi = s.hdi := rfl
@[simp] theorem modTmu_clk (f : TmuS → TmuS) : (s.modTmu f).clk = s.clk := rfl
@[simp] theorem modTmu_sched (f : TmuS → TmuS) : (s.modTmu f).sched = s.sched := rfl
@[simp] theorem modTmu_ve (f : TmuS → TmuS) : (s.modTmu f).ve = s.ve := rfl
@[simp] theorem modTmu_outCh (f : TmuS → TmuS) : (s.modTmu f).outCh = s.outCh := rfl
@[simp] theorem modTmu_inCh (f : TmuS → TmuS) : (s.modTmu f).inCh = s.inCh := rfl
@[simp] theorem modTmu_fcp (f : TmuS → TmuS) : (s.modTmu f).fcp = s.fcp := rfl
@[simp] theorem modTmu_sq (f : TmuS → TmuS) : (s.modTmu f).sq = s.sq := rfl
@[simp] theorem modTmu_brk (f : TmuS → TmuS) : (s.modTmu f).brk = s.brk := rfl
@[simp] theorem modTmu_tgt (f : TmuS → TmuS) : (s.modTmu f).tgt = s.tgt := rfl
@[simp] theorem modTmu_groupAt (f : TmuS → TmuS) : (s.modTmu f).groupAt = s.groupAt := rfl
@[simp] theorem modTmu_dsp (f : TmuS → TmuS) : (s.modTmu f).dsp = s.dsp := rfl
@[simp] theorem modTmu_focus (f : TmuS → TmuS) : (s.modTmu f).focus = s.focus := rfl
@[simp] theorem modTmu_trim (f : TmuS → TmuS) : (s.modTmu f).trim = s.trim := rfl
@[simp] theorem modTmu_reqs (f : TmuS → TmuS) : (s.modTmu f).reqs = s.reqs := rfl
@[simp] theorem modTmu_resps (f : TmuS → TmuS) : (s.modTmu f).resps = s.resps := rfl
@[simp] theorem modTmu_held (f : TmuS → TmuS) : (s.modTmu f).held = s.held := rfl
@[simp] theorem modTmu_steal (f : TmuS → TmuS) : (s.modTmu f).steal = s.steal := rfl
@[simp] theorem modTmu_labels (f : TmuS → TmuS) : (s.modTmu f).labels = s.labels := rfl
@[simp] theorem modTmu_fresh (f : TmuS → TmuS) : (s.modTmu f).fresh = s.fresh := rfl
@[simp] theorem modTmu_cleared (f : TmuS → TmuS) : (s.modTmu f).cleared = s.cleared := rfl
@[simp] theorem modTmu_drain (f : TmuS → TmuS) : (s.modTmu f).drain = s.drain := rfl
@[simp] theorem modTmu_trace (f : TmuS → TmuS) : (s.modTmu f).trace = s.trace := rfl
@[simp] theorem modTmu_dmc (f : TmuS → TmuS) : (s.modTmu f).dmc = s.dmc := rfl
@[simp] theorem modTmu_autoTrain (f : TmuS → TmuS) : (s.modTmu f).autoTrain = s.autoTrain := rfl
@[simp] theorem modTmu_crh (f : TmuS → TmuS) : (s.modTmu f).crh = s.crh := rfl
@[simp] theorem modTmu_cfg (f : TmuS → TmuS) : (s.modTmu f).cfg = s.cfg := rfl
@[simp] theorem modTmu_sup (f : TmuS → TmuS) : (s.modTmu f).sup = s.sup := rfl
@[simp] theorem modTmu_dbg (f : TmuS → TmuS) : (s.modTmu f).dbg = s.dbg := rfl
@[simp] theorem modTmu_lanes (f : TmuS → TmuS) : (s.modTmu f).lanes = s.lanes := rfl
@[simp] theorem modTmu_cells (f : TmuS → TmuS) : (s.modTmu f).cells = s.cells := rfl
@[simp] theorem modTmu_cellCfg (f : TmuS → TmuS) : (s.modTmu f).cellCfg = s.cellCfg := rfl
@[simp] theorem modTmu_sels (f : TmuS → TmuS) : (s.modTmu f).sels = s.sels := rfl
@[simp] theorem modTmu_tracks (f : TmuS → TmuS) : (s.modTmu f).tracks = s.tracks := rfl
@[simp] theorem modTmu_upsets (f : TmuS → TmuS) : (s.modTmu f).upsets = s.upsets := rfl
@[simp] theorem modTmu_facets (f : TmuS → TmuS) : (s.modTmu f).facets = s.facets := rfl
@[simp] theorem modTmu_fev (f : TmuS → TmuS) : (s.modTmu f).fev = s.fev := rfl
@[simp] theorem modTmu_panes (f : TmuS → TmuS) : (s.modTmu f).panes = s.panes := rfl
@[simp] theorem modTmu_banks (f : TmuS → TmuS) : (s.modTmu f).banks = s.banks := rfl
@[simp] theorem modTmu_pins (f : TmuS → TmuS) : (s.modTmu f).pins = s.pins := rfl
@[simp] theorem modLaneTime_now (n : Nat) (f : LaneTime → LaneTime) : (s.modLaneTime n f).now = s.now := rfl
@[simp] theorem modLaneTime_reg (n : Nat) (f : LaneTime → LaneTime) : (s.modLaneTime n f).reg = s.reg := rfl
@[simp] theorem modLaneTime_mem (n : Nat) (f : LaneTime → LaneTime) : (s.modLaneTime n f).mem = s.mem := rfl
@[simp] theorem modLaneTime_evq (n : Nat) (f : LaneTime → LaneTime) : (s.modLaneTime n f).evq = s.evq := rfl
@[simp] theorem modLaneTime_freeCtr (n : Nat) (f : LaneTime → LaneTime) : (s.modLaneTime n f).freeCtr = s.freeCtr := rfl
@[simp] theorem modLaneTime_pending (n : Nat) (f : LaneTime → LaneTime) : (s.modLaneTime n f).pending = s.pending := rfl
@[simp] theorem modLaneTime_hdi (n : Nat) (f : LaneTime → LaneTime) : (s.modLaneTime n f).hdi = s.hdi := rfl
@[simp] theorem modLaneTime_clk (n : Nat) (f : LaneTime → LaneTime) : (s.modLaneTime n f).clk = s.clk := rfl
@[simp] theorem modLaneTime_sched (n : Nat) (f : LaneTime → LaneTime) : (s.modLaneTime n f).sched = s.sched := rfl
@[simp] theorem modLaneTime_ve (n : Nat) (f : LaneTime → LaneTime) : (s.modLaneTime n f).ve = s.ve := rfl
@[simp] theorem modLaneTime_outCh (n : Nat) (f : LaneTime → LaneTime) : (s.modLaneTime n f).outCh = s.outCh := rfl
@[simp] theorem modLaneTime_inCh (n : Nat) (f : LaneTime → LaneTime) : (s.modLaneTime n f).inCh = s.inCh := rfl
@[simp] theorem modLaneTime_fcp (n : Nat) (f : LaneTime → LaneTime) : (s.modLaneTime n f).fcp = s.fcp := rfl
@[simp] theorem modLaneTime_sq (n : Nat) (f : LaneTime → LaneTime) : (s.modLaneTime n f).sq = s.sq := rfl
@[simp] theorem modLaneTime_brk (n : Nat) (f : LaneTime → LaneTime) : (s.modLaneTime n f).brk = s.brk := rfl
@[simp] theorem modLaneTime_tgt (n : Nat) (f : LaneTime → LaneTime) : (s.modLaneTime n f).tgt = s.tgt := rfl
@[simp] theorem modLaneTime_groupAt (n : Nat) (f : LaneTime → LaneTime) : (s.modLaneTime n f).groupAt = s.groupAt := rfl
@[simp] theorem modLaneTime_dsp (n : Nat) (f : LaneTime → LaneTime) : (s.modLaneTime n f).dsp = s.dsp := rfl
@[simp] theorem modLaneTime_focus (n : Nat) (f : LaneTime → LaneTime) : (s.modLaneTime n f).focus = s.focus := rfl
@[simp] theorem modLaneTime_trim (n : Nat) (f : LaneTime → LaneTime) : (s.modLaneTime n f).trim = s.trim := rfl
@[simp] theorem modLaneTime_reqs (n : Nat) (f : LaneTime → LaneTime) : (s.modLaneTime n f).reqs = s.reqs := rfl
@[simp] theorem modLaneTime_resps (n : Nat) (f : LaneTime → LaneTime) : (s.modLaneTime n f).resps = s.resps := rfl
@[simp] theorem modLaneTime_held (n : Nat) (f : LaneTime → LaneTime) : (s.modLaneTime n f).held = s.held := rfl
@[simp] theorem modLaneTime_steal (n : Nat) (f : LaneTime → LaneTime) : (s.modLaneTime n f).steal = s.steal := rfl
@[simp] theorem modLaneTime_labels (n : Nat) (f : LaneTime → LaneTime) : (s.modLaneTime n f).labels = s.labels := rfl
@[simp] theorem modLaneTime_fresh (n : Nat) (f : LaneTime → LaneTime) : (s.modLaneTime n f).fresh = s.fresh := rfl
@[simp] theorem modLaneTime_cleared (n : Nat) (f : LaneTime → LaneTime) : (s.modLaneTime n f).cleared = s.cleared := rfl
@[simp] theorem modLaneTime_drain (n : Nat) (f : LaneTime → LaneTime) : (s.modLaneTime n f).drain = s.drain := rfl
@[simp] theorem modLaneTime_trace (n : Nat) (f : LaneTime → LaneTime) : (s.modLaneTime n f).trace = s.trace := rfl
@[simp] theorem modLaneTime_dmc (n : Nat) (f : LaneTime → LaneTime) : (s.modLaneTime n f).dmc = s.dmc := rfl
@[simp] theorem modLaneTime_autoTrain (n : Nat) (f : LaneTime → LaneTime) : (s.modLaneTime n f).autoTrain = s.autoTrain := rfl
@[simp] theorem modLaneTime_crh (n : Nat) (f : LaneTime → LaneTime) : (s.modLaneTime n f).crh = s.crh := rfl
@[simp] theorem modLaneTime_cfg (n : Nat) (f : LaneTime → LaneTime) : (s.modLaneTime n f).cfg = s.cfg := rfl
@[simp] theorem modLaneTime_sup (n : Nat) (f : LaneTime → LaneTime) : (s.modLaneTime n f).sup = s.sup := rfl
@[simp] theorem modLaneTime_dbg (n : Nat) (f : LaneTime → LaneTime) : (s.modLaneTime n f).dbg = s.dbg := rfl
@[simp] theorem modLaneTime_lanes (n : Nat) (f : LaneTime → LaneTime) : (s.modLaneTime n f).lanes = s.lanes := rfl
@[simp] theorem modLaneTime_cells (n : Nat) (f : LaneTime → LaneTime) : (s.modLaneTime n f).cells = s.cells := rfl
@[simp] theorem modLaneTime_cellCfg (n : Nat) (f : LaneTime → LaneTime) : (s.modLaneTime n f).cellCfg = s.cellCfg := rfl
@[simp] theorem modLaneTime_sels (n : Nat) (f : LaneTime → LaneTime) : (s.modLaneTime n f).sels = s.sels := rfl
@[simp] theorem modLaneTime_tracks (n : Nat) (f : LaneTime → LaneTime) : (s.modLaneTime n f).tracks = s.tracks := rfl
@[simp] theorem modLaneTime_upsets (n : Nat) (f : LaneTime → LaneTime) : (s.modLaneTime n f).upsets = s.upsets := rfl
@[simp] theorem modLaneTime_facets (n : Nat) (f : LaneTime → LaneTime) : (s.modLaneTime n f).facets = s.facets := rfl
@[simp] theorem modLaneTime_fev (n : Nat) (f : LaneTime → LaneTime) : (s.modLaneTime n f).fev = s.fev := rfl
@[simp] theorem modLaneTime_panes (n : Nat) (f : LaneTime → LaneTime) : (s.modLaneTime n f).panes = s.panes := rfl
@[simp] theorem modLaneTime_banks (n : Nat) (f : LaneTime → LaneTime) : (s.modLaneTime n f).banks = s.banks := rfl
@[simp] theorem modLaneTime_pins (n : Nat) (f : LaneTime → LaneTime) : (s.modLaneTime n f).pins = s.pins := rfl
@[simp] theorem modTrg_now (n : Nat) (f : TrgS → TrgS) : (s.modTrg n f).now = s.now := rfl
@[simp] theorem modTrg_reg (n : Nat) (f : TrgS → TrgS) : (s.modTrg n f).reg = s.reg := rfl
@[simp] theorem modTrg_mem (n : Nat) (f : TrgS → TrgS) : (s.modTrg n f).mem = s.mem := rfl
@[simp] theorem modTrg_evq (n : Nat) (f : TrgS → TrgS) : (s.modTrg n f).evq = s.evq := rfl
@[simp] theorem modTrg_freeCtr (n : Nat) (f : TrgS → TrgS) : (s.modTrg n f).freeCtr = s.freeCtr := rfl
@[simp] theorem modTrg_pending (n : Nat) (f : TrgS → TrgS) : (s.modTrg n f).pending = s.pending := rfl
@[simp] theorem modTrg_hdi (n : Nat) (f : TrgS → TrgS) : (s.modTrg n f).hdi = s.hdi := rfl
@[simp] theorem modTrg_clk (n : Nat) (f : TrgS → TrgS) : (s.modTrg n f).clk = s.clk := rfl
@[simp] theorem modTrg_sched (n : Nat) (f : TrgS → TrgS) : (s.modTrg n f).sched = s.sched := rfl
@[simp] theorem modTrg_ve (n : Nat) (f : TrgS → TrgS) : (s.modTrg n f).ve = s.ve := rfl
@[simp] theorem modTrg_outCh (n : Nat) (f : TrgS → TrgS) : (s.modTrg n f).outCh = s.outCh := rfl
@[simp] theorem modTrg_inCh (n : Nat) (f : TrgS → TrgS) : (s.modTrg n f).inCh = s.inCh := rfl
@[simp] theorem modTrg_fcp (n : Nat) (f : TrgS → TrgS) : (s.modTrg n f).fcp = s.fcp := rfl
@[simp] theorem modTrg_sq (n : Nat) (f : TrgS → TrgS) : (s.modTrg n f).sq = s.sq := rfl
@[simp] theorem modTrg_brk (n : Nat) (f : TrgS → TrgS) : (s.modTrg n f).brk = s.brk := rfl
@[simp] theorem modTrg_tgt (n : Nat) (f : TrgS → TrgS) : (s.modTrg n f).tgt = s.tgt := rfl
@[simp] theorem modTrg_groupAt (n : Nat) (f : TrgS → TrgS) : (s.modTrg n f).groupAt = s.groupAt := rfl
@[simp] theorem modTrg_dsp (n : Nat) (f : TrgS → TrgS) : (s.modTrg n f).dsp = s.dsp := rfl
@[simp] theorem modTrg_focus (n : Nat) (f : TrgS → TrgS) : (s.modTrg n f).focus = s.focus := rfl
@[simp] theorem modTrg_trim (n : Nat) (f : TrgS → TrgS) : (s.modTrg n f).trim = s.trim := rfl
@[simp] theorem modTrg_reqs (n : Nat) (f : TrgS → TrgS) : (s.modTrg n f).reqs = s.reqs := rfl
@[simp] theorem modTrg_resps (n : Nat) (f : TrgS → TrgS) : (s.modTrg n f).resps = s.resps := rfl
@[simp] theorem modTrg_held (n : Nat) (f : TrgS → TrgS) : (s.modTrg n f).held = s.held := rfl
@[simp] theorem modTrg_steal (n : Nat) (f : TrgS → TrgS) : (s.modTrg n f).steal = s.steal := rfl
@[simp] theorem modTrg_labels (n : Nat) (f : TrgS → TrgS) : (s.modTrg n f).labels = s.labels := rfl
@[simp] theorem modTrg_fresh (n : Nat) (f : TrgS → TrgS) : (s.modTrg n f).fresh = s.fresh := rfl
@[simp] theorem modTrg_cleared (n : Nat) (f : TrgS → TrgS) : (s.modTrg n f).cleared = s.cleared := rfl
@[simp] theorem modTrg_drain (n : Nat) (f : TrgS → TrgS) : (s.modTrg n f).drain = s.drain := rfl
@[simp] theorem modTrg_trace (n : Nat) (f : TrgS → TrgS) : (s.modTrg n f).trace = s.trace := rfl
@[simp] theorem modTrg_dmc (n : Nat) (f : TrgS → TrgS) : (s.modTrg n f).dmc = s.dmc := rfl
@[simp] theorem modTrg_autoTrain (n : Nat) (f : TrgS → TrgS) : (s.modTrg n f).autoTrain = s.autoTrain := rfl
@[simp] theorem modTrg_crh (n : Nat) (f : TrgS → TrgS) : (s.modTrg n f).crh = s.crh := rfl
@[simp] theorem modTrg_cfg (n : Nat) (f : TrgS → TrgS) : (s.modTrg n f).cfg = s.cfg := rfl
@[simp] theorem modTrg_sup (n : Nat) (f : TrgS → TrgS) : (s.modTrg n f).sup = s.sup := rfl
@[simp] theorem modTrg_dbg (n : Nat) (f : TrgS → TrgS) : (s.modTrg n f).dbg = s.dbg := rfl
@[simp] theorem modTrg_lanes (n : Nat) (f : TrgS → TrgS) : (s.modTrg n f).lanes = s.lanes := rfl
@[simp] theorem modTrg_cells (n : Nat) (f : TrgS → TrgS) : (s.modTrg n f).cells = s.cells := rfl
@[simp] theorem modTrg_cellCfg (n : Nat) (f : TrgS → TrgS) : (s.modTrg n f).cellCfg = s.cellCfg := rfl
@[simp] theorem modTrg_sels (n : Nat) (f : TrgS → TrgS) : (s.modTrg n f).sels = s.sels := rfl
@[simp] theorem modTrg_tracks (n : Nat) (f : TrgS → TrgS) : (s.modTrg n f).tracks = s.tracks := rfl
@[simp] theorem modTrg_upsets (n : Nat) (f : TrgS → TrgS) : (s.modTrg n f).upsets = s.upsets := rfl
@[simp] theorem modTrg_facets (n : Nat) (f : TrgS → TrgS) : (s.modTrg n f).facets = s.facets := rfl
@[simp] theorem modTrg_fev (n : Nat) (f : TrgS → TrgS) : (s.modTrg n f).fev = s.fev := rfl
@[simp] theorem modTrg_panes (n : Nat) (f : TrgS → TrgS) : (s.modTrg n f).panes = s.panes := rfl
@[simp] theorem modTrg_banks (n : Nat) (f : TrgS → TrgS) : (s.modTrg n f).banks = s.banks := rfl
@[simp] theorem modTrg_pins (n : Nat) (f : TrgS → TrgS) : (s.modTrg n f).pins = s.pins := rfl
@[simp] theorem modCap_now (n : Nat) (f : CapS → CapS) : (s.modCap n f).now = s.now := rfl
@[simp] theorem modCap_reg (n : Nat) (f : CapS → CapS) : (s.modCap n f).reg = s.reg := rfl
@[simp] theorem modCap_mem (n : Nat) (f : CapS → CapS) : (s.modCap n f).mem = s.mem := rfl
@[simp] theorem modCap_evq (n : Nat) (f : CapS → CapS) : (s.modCap n f).evq = s.evq := rfl
@[simp] theorem modCap_freeCtr (n : Nat) (f : CapS → CapS) : (s.modCap n f).freeCtr = s.freeCtr := rfl
@[simp] theorem modCap_pending (n : Nat) (f : CapS → CapS) : (s.modCap n f).pending = s.pending := rfl
@[simp] theorem modCap_hdi (n : Nat) (f : CapS → CapS) : (s.modCap n f).hdi = s.hdi := rfl
@[simp] theorem modCap_clk (n : Nat) (f : CapS → CapS) : (s.modCap n f).clk = s.clk := rfl
@[simp] theorem modCap_sched (n : Nat) (f : CapS → CapS) : (s.modCap n f).sched = s.sched := rfl
@[simp] theorem modCap_ve (n : Nat) (f : CapS → CapS) : (s.modCap n f).ve = s.ve := rfl
@[simp] theorem modCap_outCh (n : Nat) (f : CapS → CapS) : (s.modCap n f).outCh = s.outCh := rfl
@[simp] theorem modCap_inCh (n : Nat) (f : CapS → CapS) : (s.modCap n f).inCh = s.inCh := rfl
@[simp] theorem modCap_fcp (n : Nat) (f : CapS → CapS) : (s.modCap n f).fcp = s.fcp := rfl
@[simp] theorem modCap_sq (n : Nat) (f : CapS → CapS) : (s.modCap n f).sq = s.sq := rfl
@[simp] theorem modCap_brk (n : Nat) (f : CapS → CapS) : (s.modCap n f).brk = s.brk := rfl
@[simp] theorem modCap_tgt (n : Nat) (f : CapS → CapS) : (s.modCap n f).tgt = s.tgt := rfl
@[simp] theorem modCap_groupAt (n : Nat) (f : CapS → CapS) : (s.modCap n f).groupAt = s.groupAt := rfl
@[simp] theorem modCap_dsp (n : Nat) (f : CapS → CapS) : (s.modCap n f).dsp = s.dsp := rfl
@[simp] theorem modCap_focus (n : Nat) (f : CapS → CapS) : (s.modCap n f).focus = s.focus := rfl
@[simp] theorem modCap_trim (n : Nat) (f : CapS → CapS) : (s.modCap n f).trim = s.trim := rfl
@[simp] theorem modCap_reqs (n : Nat) (f : CapS → CapS) : (s.modCap n f).reqs = s.reqs := rfl
@[simp] theorem modCap_resps (n : Nat) (f : CapS → CapS) : (s.modCap n f).resps = s.resps := rfl
@[simp] theorem modCap_held (n : Nat) (f : CapS → CapS) : (s.modCap n f).held = s.held := rfl
@[simp] theorem modCap_steal (n : Nat) (f : CapS → CapS) : (s.modCap n f).steal = s.steal := rfl
@[simp] theorem modCap_labels (n : Nat) (f : CapS → CapS) : (s.modCap n f).labels = s.labels := rfl
@[simp] theorem modCap_fresh (n : Nat) (f : CapS → CapS) : (s.modCap n f).fresh = s.fresh := rfl
@[simp] theorem modCap_cleared (n : Nat) (f : CapS → CapS) : (s.modCap n f).cleared = s.cleared := rfl
@[simp] theorem modCap_drain (n : Nat) (f : CapS → CapS) : (s.modCap n f).drain = s.drain := rfl
@[simp] theorem modCap_trace (n : Nat) (f : CapS → CapS) : (s.modCap n f).trace = s.trace := rfl
@[simp] theorem modCap_dmc (n : Nat) (f : CapS → CapS) : (s.modCap n f).dmc = s.dmc := rfl
@[simp] theorem modCap_autoTrain (n : Nat) (f : CapS → CapS) : (s.modCap n f).autoTrain = s.autoTrain := rfl
@[simp] theorem modCap_crh (n : Nat) (f : CapS → CapS) : (s.modCap n f).crh = s.crh := rfl
@[simp] theorem modCap_cfg (n : Nat) (f : CapS → CapS) : (s.modCap n f).cfg = s.cfg := rfl
@[simp] theorem modCap_sup (n : Nat) (f : CapS → CapS) : (s.modCap n f).sup = s.sup := rfl
@[simp] theorem modCap_dbg (n : Nat) (f : CapS → CapS) : (s.modCap n f).dbg = s.dbg := rfl
@[simp] theorem modCap_lanes (n : Nat) (f : CapS → CapS) : (s.modCap n f).lanes = s.lanes := rfl
@[simp] theorem modCap_cells (n : Nat) (f : CapS → CapS) : (s.modCap n f).cells = s.cells := rfl
@[simp] theorem modCap_cellCfg (n : Nat) (f : CapS → CapS) : (s.modCap n f).cellCfg = s.cellCfg := rfl
@[simp] theorem modCap_sels (n : Nat) (f : CapS → CapS) : (s.modCap n f).sels = s.sels := rfl
@[simp] theorem modCap_tracks (n : Nat) (f : CapS → CapS) : (s.modCap n f).tracks = s.tracks := rfl
@[simp] theorem modCap_upsets (n : Nat) (f : CapS → CapS) : (s.modCap n f).upsets = s.upsets := rfl
@[simp] theorem modCap_facets (n : Nat) (f : CapS → CapS) : (s.modCap n f).facets = s.facets := rfl
@[simp] theorem modCap_fev (n : Nat) (f : CapS → CapS) : (s.modCap n f).fev = s.fev := rfl
@[simp] theorem modCap_panes (n : Nat) (f : CapS → CapS) : (s.modCap n f).panes = s.panes := rfl
@[simp] theorem modCap_banks (n : Nat) (f : CapS → CapS) : (s.modCap n f).banks = s.banks := rfl
@[simp] theorem modCap_pins (n : Nat) (f : CapS → CapS) : (s.modCap n f).pins = s.pins := rfl
@[simp] theorem modMaster_now (n : Nat) (f : MasterS → MasterS) : (s.modMaster n f).now = s.now := rfl
@[simp] theorem modMaster_reg (n : Nat) (f : MasterS → MasterS) : (s.modMaster n f).reg = s.reg := rfl
@[simp] theorem modMaster_mem (n : Nat) (f : MasterS → MasterS) : (s.modMaster n f).mem = s.mem := rfl
@[simp] theorem modMaster_evq (n : Nat) (f : MasterS → MasterS) : (s.modMaster n f).evq = s.evq := rfl
@[simp] theorem modMaster_freeCtr (n : Nat) (f : MasterS → MasterS) : (s.modMaster n f).freeCtr = s.freeCtr := rfl
@[simp] theorem modMaster_pending (n : Nat) (f : MasterS → MasterS) : (s.modMaster n f).pending = s.pending := rfl
@[simp] theorem modMaster_clk (n : Nat) (f : MasterS → MasterS) : (s.modMaster n f).clk = s.clk := rfl
@[simp] theorem modMaster_sched (n : Nat) (f : MasterS → MasterS) : (s.modMaster n f).sched = s.sched := rfl
@[simp] theorem modMaster_ve (n : Nat) (f : MasterS → MasterS) : (s.modMaster n f).ve = s.ve := rfl
@[simp] theorem modMaster_outCh (n : Nat) (f : MasterS → MasterS) : (s.modMaster n f).outCh = s.outCh := rfl
@[simp] theorem modMaster_inCh (n : Nat) (f : MasterS → MasterS) : (s.modMaster n f).inCh = s.inCh := rfl
@[simp] theorem modMaster_fcp (n : Nat) (f : MasterS → MasterS) : (s.modMaster n f).fcp = s.fcp := rfl
@[simp] theorem modMaster_sq (n : Nat) (f : MasterS → MasterS) : (s.modMaster n f).sq = s.sq := rfl
@[simp] theorem modMaster_brk (n : Nat) (f : MasterS → MasterS) : (s.modMaster n f).brk = s.brk := rfl
@[simp] theorem modMaster_tgt (n : Nat) (f : MasterS → MasterS) : (s.modMaster n f).tgt = s.tgt := rfl
@[simp] theorem modMaster_groupAt (n : Nat) (f : MasterS → MasterS) : (s.modMaster n f).groupAt = s.groupAt := rfl
@[simp] theorem modMaster_dsp (n : Nat) (f : MasterS → MasterS) : (s.modMaster n f).dsp = s.dsp := rfl
@[simp] theorem modMaster_focus (n : Nat) (f : MasterS → MasterS) : (s.modMaster n f).focus = s.focus := rfl
@[simp] theorem modMaster_trim (n : Nat) (f : MasterS → MasterS) : (s.modMaster n f).trim = s.trim := rfl
@[simp] theorem modMaster_reqs (n : Nat) (f : MasterS → MasterS) : (s.modMaster n f).reqs = s.reqs := rfl
@[simp] theorem modMaster_resps (n : Nat) (f : MasterS → MasterS) : (s.modMaster n f).resps = s.resps := rfl
@[simp] theorem modMaster_held (n : Nat) (f : MasterS → MasterS) : (s.modMaster n f).held = s.held := rfl
@[simp] theorem modMaster_steal (n : Nat) (f : MasterS → MasterS) : (s.modMaster n f).steal = s.steal := rfl
@[simp] theorem modMaster_labels (n : Nat) (f : MasterS → MasterS) : (s.modMaster n f).labels = s.labels := rfl
@[simp] theorem modMaster_fresh (n : Nat) (f : MasterS → MasterS) : (s.modMaster n f).fresh = s.fresh := rfl
@[simp] theorem modMaster_cleared (n : Nat) (f : MasterS → MasterS) : (s.modMaster n f).cleared = s.cleared := rfl
@[simp] theorem modMaster_drain (n : Nat) (f : MasterS → MasterS) : (s.modMaster n f).drain = s.drain := rfl
@[simp] theorem modMaster_trace (n : Nat) (f : MasterS → MasterS) : (s.modMaster n f).trace = s.trace := rfl
@[simp] theorem modMaster_dmc (n : Nat) (f : MasterS → MasterS) : (s.modMaster n f).dmc = s.dmc := rfl
@[simp] theorem modMaster_autoTrain (n : Nat) (f : MasterS → MasterS) : (s.modMaster n f).autoTrain = s.autoTrain := rfl
@[simp] theorem modMaster_crh (n : Nat) (f : MasterS → MasterS) : (s.modMaster n f).crh = s.crh := rfl
@[simp] theorem modMaster_cfg (n : Nat) (f : MasterS → MasterS) : (s.modMaster n f).cfg = s.cfg := rfl
@[simp] theorem modMaster_sup (n : Nat) (f : MasterS → MasterS) : (s.modMaster n f).sup = s.sup := rfl
@[simp] theorem modMaster_dbg (n : Nat) (f : MasterS → MasterS) : (s.modMaster n f).dbg = s.dbg := rfl
@[simp] theorem modMaster_tmu (n : Nat) (f : MasterS → MasterS) : (s.modMaster n f).tmu = s.tmu := rfl
@[simp] theorem modMaster_lanes (n : Nat) (f : MasterS → MasterS) : (s.modMaster n f).lanes = s.lanes := rfl
@[simp] theorem modMaster_cells (n : Nat) (f : MasterS → MasterS) : (s.modMaster n f).cells = s.cells := rfl
@[simp] theorem modMaster_cellCfg (n : Nat) (f : MasterS → MasterS) : (s.modMaster n f).cellCfg = s.cellCfg := rfl
@[simp] theorem modMaster_sels (n : Nat) (f : MasterS → MasterS) : (s.modMaster n f).sels = s.sels := rfl
@[simp] theorem modMaster_tracks (n : Nat) (f : MasterS → MasterS) : (s.modMaster n f).tracks = s.tracks := rfl
@[simp] theorem modMaster_upsets (n : Nat) (f : MasterS → MasterS) : (s.modMaster n f).upsets = s.upsets := rfl
@[simp] theorem modMaster_facets (n : Nat) (f : MasterS → MasterS) : (s.modMaster n f).facets = s.facets := rfl
@[simp] theorem modMaster_fev (n : Nat) (f : MasterS → MasterS) : (s.modMaster n f).fev = s.fev := rfl
@[simp] theorem modMaster_panes (n : Nat) (f : MasterS → MasterS) : (s.modMaster n f).panes = s.panes := rfl
@[simp] theorem modMaster_banks (n : Nat) (f : MasterS → MasterS) : (s.modMaster n f).banks = s.banks := rfl
@[simp] theorem modMaster_pins (n : Nat) (f : MasterS → MasterS) : (s.modMaster n f).pins = s.pins := rfl
@[simp] theorem modSlot_now (n : Nat) (f : SlotS → SlotS) : (s.modSlot n f).now = s.now := rfl
@[simp] theorem modSlot_reg (n : Nat) (f : SlotS → SlotS) : (s.modSlot n f).reg = s.reg := rfl
@[simp] theorem modSlot_mem (n : Nat) (f : SlotS → SlotS) : (s.modSlot n f).mem = s.mem := rfl
@[simp] theorem modSlot_evq (n : Nat) (f : SlotS → SlotS) : (s.modSlot n f).evq = s.evq := rfl
@[simp] theorem modSlot_freeCtr (n : Nat) (f : SlotS → SlotS) : (s.modSlot n f).freeCtr = s.freeCtr := rfl
@[simp] theorem modSlot_pending (n : Nat) (f : SlotS → SlotS) : (s.modSlot n f).pending = s.pending := rfl
@[simp] theorem modSlot_clk (n : Nat) (f : SlotS → SlotS) : (s.modSlot n f).clk = s.clk := rfl
@[simp] theorem modSlot_sched (n : Nat) (f : SlotS → SlotS) : (s.modSlot n f).sched = s.sched := rfl
@[simp] theorem modSlot_ve (n : Nat) (f : SlotS → SlotS) : (s.modSlot n f).ve = s.ve := rfl
@[simp] theorem modSlot_outCh (n : Nat) (f : SlotS → SlotS) : (s.modSlot n f).outCh = s.outCh := rfl
@[simp] theorem modSlot_inCh (n : Nat) (f : SlotS → SlotS) : (s.modSlot n f).inCh = s.inCh := rfl
@[simp] theorem modSlot_fcp (n : Nat) (f : SlotS → SlotS) : (s.modSlot n f).fcp = s.fcp := rfl
@[simp] theorem modSlot_sq (n : Nat) (f : SlotS → SlotS) : (s.modSlot n f).sq = s.sq := rfl
@[simp] theorem modSlot_brk (n : Nat) (f : SlotS → SlotS) : (s.modSlot n f).brk = s.brk := rfl
@[simp] theorem modSlot_tgt (n : Nat) (f : SlotS → SlotS) : (s.modSlot n f).tgt = s.tgt := rfl
@[simp] theorem modSlot_groupAt (n : Nat) (f : SlotS → SlotS) : (s.modSlot n f).groupAt = s.groupAt := rfl
@[simp] theorem modSlot_dsp (n : Nat) (f : SlotS → SlotS) : (s.modSlot n f).dsp = s.dsp := rfl
@[simp] theorem modSlot_focus (n : Nat) (f : SlotS → SlotS) : (s.modSlot n f).focus = s.focus := rfl
@[simp] theorem modSlot_trim (n : Nat) (f : SlotS → SlotS) : (s.modSlot n f).trim = s.trim := rfl
@[simp] theorem modSlot_reqs (n : Nat) (f : SlotS → SlotS) : (s.modSlot n f).reqs = s.reqs := rfl
@[simp] theorem modSlot_resps (n : Nat) (f : SlotS → SlotS) : (s.modSlot n f).resps = s.resps := rfl
@[simp] theorem modSlot_held (n : Nat) (f : SlotS → SlotS) : (s.modSlot n f).held = s.held := rfl
@[simp] theorem modSlot_steal (n : Nat) (f : SlotS → SlotS) : (s.modSlot n f).steal = s.steal := rfl
@[simp] theorem modSlot_labels (n : Nat) (f : SlotS → SlotS) : (s.modSlot n f).labels = s.labels := rfl
@[simp] theorem modSlot_fresh (n : Nat) (f : SlotS → SlotS) : (s.modSlot n f).fresh = s.fresh := rfl
@[simp] theorem modSlot_cleared (n : Nat) (f : SlotS → SlotS) : (s.modSlot n f).cleared = s.cleared := rfl
@[simp] theorem modSlot_drain (n : Nat) (f : SlotS → SlotS) : (s.modSlot n f).drain = s.drain := rfl
@[simp] theorem modSlot_trace (n : Nat) (f : SlotS → SlotS) : (s.modSlot n f).trace = s.trace := rfl
@[simp] theorem modSlot_dmc (n : Nat) (f : SlotS → SlotS) : (s.modSlot n f).dmc = s.dmc := rfl
@[simp] theorem modSlot_autoTrain (n : Nat) (f : SlotS → SlotS) : (s.modSlot n f).autoTrain = s.autoTrain := rfl
@[simp] theorem modSlot_crh (n : Nat) (f : SlotS → SlotS) : (s.modSlot n f).crh = s.crh := rfl
@[simp] theorem modSlot_cfg (n : Nat) (f : SlotS → SlotS) : (s.modSlot n f).cfg = s.cfg := rfl
@[simp] theorem modSlot_sup (n : Nat) (f : SlotS → SlotS) : (s.modSlot n f).sup = s.sup := rfl
@[simp] theorem modSlot_dbg (n : Nat) (f : SlotS → SlotS) : (s.modSlot n f).dbg = s.dbg := rfl
@[simp] theorem modSlot_tmu (n : Nat) (f : SlotS → SlotS) : (s.modSlot n f).tmu = s.tmu := rfl
@[simp] theorem modSlot_lanes (n : Nat) (f : SlotS → SlotS) : (s.modSlot n f).lanes = s.lanes := rfl
@[simp] theorem modSlot_cells (n : Nat) (f : SlotS → SlotS) : (s.modSlot n f).cells = s.cells := rfl
@[simp] theorem modSlot_cellCfg (n : Nat) (f : SlotS → SlotS) : (s.modSlot n f).cellCfg = s.cellCfg := rfl
@[simp] theorem modSlot_sels (n : Nat) (f : SlotS → SlotS) : (s.modSlot n f).sels = s.sels := rfl
@[simp] theorem modSlot_tracks (n : Nat) (f : SlotS → SlotS) : (s.modSlot n f).tracks = s.tracks := rfl
@[simp] theorem modSlot_upsets (n : Nat) (f : SlotS → SlotS) : (s.modSlot n f).upsets = s.upsets := rfl
@[simp] theorem modSlot_facets (n : Nat) (f : SlotS → SlotS) : (s.modSlot n f).facets = s.facets := rfl
@[simp] theorem modSlot_fev (n : Nat) (f : SlotS → SlotS) : (s.modSlot n f).fev = s.fev := rfl
@[simp] theorem modSlot_panes (n : Nat) (f : SlotS → SlotS) : (s.modSlot n f).panes = s.panes := rfl
@[simp] theorem modSlot_banks (n : Nat) (f : SlotS → SlotS) : (s.modSlot n f).banks = s.banks := rfl
@[simp] theorem modSlot_pins (n : Nat) (f : SlotS → SlotS) : (s.modSlot n f).pins = s.pins := rfl
@[simp] theorem modI3c_now (f : I3cS → I3cS) : (s.modI3c f).now = s.now := rfl
@[simp] theorem modI3c_reg (f : I3cS → I3cS) : (s.modI3c f).reg = s.reg := rfl
@[simp] theorem modI3c_mem (f : I3cS → I3cS) : (s.modI3c f).mem = s.mem := rfl
@[simp] theorem modI3c_evq (f : I3cS → I3cS) : (s.modI3c f).evq = s.evq := rfl
@[simp] theorem modI3c_freeCtr (f : I3cS → I3cS) : (s.modI3c f).freeCtr = s.freeCtr := rfl
@[simp] theorem modI3c_pending (f : I3cS → I3cS) : (s.modI3c f).pending = s.pending := rfl
@[simp] theorem modI3c_clk (f : I3cS → I3cS) : (s.modI3c f).clk = s.clk := rfl
@[simp] theorem modI3c_sched (f : I3cS → I3cS) : (s.modI3c f).sched = s.sched := rfl
@[simp] theorem modI3c_ve (f : I3cS → I3cS) : (s.modI3c f).ve = s.ve := rfl
@[simp] theorem modI3c_outCh (f : I3cS → I3cS) : (s.modI3c f).outCh = s.outCh := rfl
@[simp] theorem modI3c_inCh (f : I3cS → I3cS) : (s.modI3c f).inCh = s.inCh := rfl
@[simp] theorem modI3c_fcp (f : I3cS → I3cS) : (s.modI3c f).fcp = s.fcp := rfl
@[simp] theorem modI3c_sq (f : I3cS → I3cS) : (s.modI3c f).sq = s.sq := rfl
@[simp] theorem modI3c_brk (f : I3cS → I3cS) : (s.modI3c f).brk = s.brk := rfl
@[simp] theorem modI3c_tgt (f : I3cS → I3cS) : (s.modI3c f).tgt = s.tgt := rfl
@[simp] theorem modI3c_groupAt (f : I3cS → I3cS) : (s.modI3c f).groupAt = s.groupAt := rfl
@[simp] theorem modI3c_dsp (f : I3cS → I3cS) : (s.modI3c f).dsp = s.dsp := rfl
@[simp] theorem modI3c_focus (f : I3cS → I3cS) : (s.modI3c f).focus = s.focus := rfl
@[simp] theorem modI3c_trim (f : I3cS → I3cS) : (s.modI3c f).trim = s.trim := rfl
@[simp] theorem modI3c_reqs (f : I3cS → I3cS) : (s.modI3c f).reqs = s.reqs := rfl
@[simp] theorem modI3c_resps (f : I3cS → I3cS) : (s.modI3c f).resps = s.resps := rfl
@[simp] theorem modI3c_held (f : I3cS → I3cS) : (s.modI3c f).held = s.held := rfl
@[simp] theorem modI3c_steal (f : I3cS → I3cS) : (s.modI3c f).steal = s.steal := rfl
@[simp] theorem modI3c_labels (f : I3cS → I3cS) : (s.modI3c f).labels = s.labels := rfl
@[simp] theorem modI3c_fresh (f : I3cS → I3cS) : (s.modI3c f).fresh = s.fresh := rfl
@[simp] theorem modI3c_cleared (f : I3cS → I3cS) : (s.modI3c f).cleared = s.cleared := rfl
@[simp] theorem modI3c_drain (f : I3cS → I3cS) : (s.modI3c f).drain = s.drain := rfl
@[simp] theorem modI3c_trace (f : I3cS → I3cS) : (s.modI3c f).trace = s.trace := rfl
@[simp] theorem modI3c_dmc (f : I3cS → I3cS) : (s.modI3c f).dmc = s.dmc := rfl
@[simp] theorem modI3c_autoTrain (f : I3cS → I3cS) : (s.modI3c f).autoTrain = s.autoTrain := rfl
@[simp] theorem modI3c_crh (f : I3cS → I3cS) : (s.modI3c f).crh = s.crh := rfl
@[simp] theorem modI3c_cfg (f : I3cS → I3cS) : (s.modI3c f).cfg = s.cfg := rfl
@[simp] theorem modI3c_sup (f : I3cS → I3cS) : (s.modI3c f).sup = s.sup := rfl
@[simp] theorem modI3c_dbg (f : I3cS → I3cS) : (s.modI3c f).dbg = s.dbg := rfl
@[simp] theorem modI3c_tmu (f : I3cS → I3cS) : (s.modI3c f).tmu = s.tmu := rfl
@[simp] theorem modI3c_lanes (f : I3cS → I3cS) : (s.modI3c f).lanes = s.lanes := rfl
@[simp] theorem modI3c_cells (f : I3cS → I3cS) : (s.modI3c f).cells = s.cells := rfl
@[simp] theorem modI3c_cellCfg (f : I3cS → I3cS) : (s.modI3c f).cellCfg = s.cellCfg := rfl
@[simp] theorem modI3c_sels (f : I3cS → I3cS) : (s.modI3c f).sels = s.sels := rfl
@[simp] theorem modI3c_tracks (f : I3cS → I3cS) : (s.modI3c f).tracks = s.tracks := rfl
@[simp] theorem modI3c_upsets (f : I3cS → I3cS) : (s.modI3c f).upsets = s.upsets := rfl
@[simp] theorem modI3c_facets (f : I3cS → I3cS) : (s.modI3c f).facets = s.facets := rfl
@[simp] theorem modI3c_fev (f : I3cS → I3cS) : (s.modI3c f).fev = s.fev := rfl
@[simp] theorem modI3c_panes (f : I3cS → I3cS) : (s.modI3c f).panes = s.panes := rfl
@[simp] theorem modI3c_banks (f : I3cS → I3cS) : (s.modI3c f).banks = s.banks := rfl
@[simp] theorem modI3c_pins (f : I3cS → I3cS) : (s.modI3c f).pins = s.pins := rfl
@[simp] theorem modMirror_now (f : MirrorS → MirrorS) : (s.modMirror f).now = s.now := rfl
@[simp] theorem modMirror_reg (f : MirrorS → MirrorS) : (s.modMirror f).reg = s.reg := rfl
@[simp] theorem modMirror_mem (f : MirrorS → MirrorS) : (s.modMirror f).mem = s.mem := rfl
@[simp] theorem modMirror_evq (f : MirrorS → MirrorS) : (s.modMirror f).evq = s.evq := rfl
@[simp] theorem modMirror_freeCtr (f : MirrorS → MirrorS) : (s.modMirror f).freeCtr = s.freeCtr := rfl
@[simp] theorem modMirror_pending (f : MirrorS → MirrorS) : (s.modMirror f).pending = s.pending := rfl
@[simp] theorem modMirror_clk (f : MirrorS → MirrorS) : (s.modMirror f).clk = s.clk := rfl
@[simp] theorem modMirror_sched (f : MirrorS → MirrorS) : (s.modMirror f).sched = s.sched := rfl
@[simp] theorem modMirror_ve (f : MirrorS → MirrorS) : (s.modMirror f).ve = s.ve := rfl
@[simp] theorem modMirror_outCh (f : MirrorS → MirrorS) : (s.modMirror f).outCh = s.outCh := rfl
@[simp] theorem modMirror_inCh (f : MirrorS → MirrorS) : (s.modMirror f).inCh = s.inCh := rfl
@[simp] theorem modMirror_fcp (f : MirrorS → MirrorS) : (s.modMirror f).fcp = s.fcp := rfl
@[simp] theorem modMirror_sq (f : MirrorS → MirrorS) : (s.modMirror f).sq = s.sq := rfl
@[simp] theorem modMirror_brk (f : MirrorS → MirrorS) : (s.modMirror f).brk = s.brk := rfl
@[simp] theorem modMirror_tgt (f : MirrorS → MirrorS) : (s.modMirror f).tgt = s.tgt := rfl
@[simp] theorem modMirror_groupAt (f : MirrorS → MirrorS) : (s.modMirror f).groupAt = s.groupAt := rfl
@[simp] theorem modMirror_dsp (f : MirrorS → MirrorS) : (s.modMirror f).dsp = s.dsp := rfl
@[simp] theorem modMirror_focus (f : MirrorS → MirrorS) : (s.modMirror f).focus = s.focus := rfl
@[simp] theorem modMirror_trim (f : MirrorS → MirrorS) : (s.modMirror f).trim = s.trim := rfl
@[simp] theorem modMirror_reqs (f : MirrorS → MirrorS) : (s.modMirror f).reqs = s.reqs := rfl
@[simp] theorem modMirror_resps (f : MirrorS → MirrorS) : (s.modMirror f).resps = s.resps := rfl
@[simp] theorem modMirror_held (f : MirrorS → MirrorS) : (s.modMirror f).held = s.held := rfl
@[simp] theorem modMirror_steal (f : MirrorS → MirrorS) : (s.modMirror f).steal = s.steal := rfl
@[simp] theorem modMirror_labels (f : MirrorS → MirrorS) : (s.modMirror f).labels = s.labels := rfl
@[simp] theorem modMirror_fresh (f : MirrorS → MirrorS) : (s.modMirror f).fresh = s.fresh := rfl
@[simp] theorem modMirror_cleared (f : MirrorS → MirrorS) : (s.modMirror f).cleared = s.cleared := rfl
@[simp] theorem modMirror_drain (f : MirrorS → MirrorS) : (s.modMirror f).drain = s.drain := rfl
@[simp] theorem modMirror_trace (f : MirrorS → MirrorS) : (s.modMirror f).trace = s.trace := rfl
@[simp] theorem modMirror_dmc (f : MirrorS → MirrorS) : (s.modMirror f).dmc = s.dmc := rfl
@[simp] theorem modMirror_autoTrain (f : MirrorS → MirrorS) : (s.modMirror f).autoTrain = s.autoTrain := rfl
@[simp] theorem modMirror_crh (f : MirrorS → MirrorS) : (s.modMirror f).crh = s.crh := rfl
@[simp] theorem modMirror_cfg (f : MirrorS → MirrorS) : (s.modMirror f).cfg = s.cfg := rfl
@[simp] theorem modMirror_sup (f : MirrorS → MirrorS) : (s.modMirror f).sup = s.sup := rfl
@[simp] theorem modMirror_dbg (f : MirrorS → MirrorS) : (s.modMirror f).dbg = s.dbg := rfl
@[simp] theorem modMirror_tmu (f : MirrorS → MirrorS) : (s.modMirror f).tmu = s.tmu := rfl
@[simp] theorem modMirror_lanes (f : MirrorS → MirrorS) : (s.modMirror f).lanes = s.lanes := rfl
@[simp] theorem modMirror_cells (f : MirrorS → MirrorS) : (s.modMirror f).cells = s.cells := rfl
@[simp] theorem modMirror_cellCfg (f : MirrorS → MirrorS) : (s.modMirror f).cellCfg = s.cellCfg := rfl
@[simp] theorem modMirror_sels (f : MirrorS → MirrorS) : (s.modMirror f).sels = s.sels := rfl
@[simp] theorem modMirror_tracks (f : MirrorS → MirrorS) : (s.modMirror f).tracks = s.tracks := rfl
@[simp] theorem modMirror_upsets (f : MirrorS → MirrorS) : (s.modMirror f).upsets = s.upsets := rfl
@[simp] theorem modMirror_facets (f : MirrorS → MirrorS) : (s.modMirror f).facets = s.facets := rfl
@[simp] theorem modMirror_fev (f : MirrorS → MirrorS) : (s.modMirror f).fev = s.fev := rfl
@[simp] theorem modMirror_panes (f : MirrorS → MirrorS) : (s.modMirror f).panes = s.panes := rfl
@[simp] theorem modMirror_banks (f : MirrorS → MirrorS) : (s.modMirror f).banks = s.banks := rfl
@[simp] theorem modMirror_pins (f : MirrorS → MirrorS) : (s.modMirror f).pins = s.pins := rfl
@[simp] theorem raiseAt_now (t e : Nat) : (s.raiseAt t e).now = s.now := by unfold State.raiseAt; split <;> rfl
@[simp] theorem raise_now (e : Nat) : (s.raise e).now = s.now := raiseAt_now s s.now e
@[simp] theorem raiseAt_reg (t e : Nat) : (s.raiseAt t e).reg = s.reg := by unfold State.raiseAt; split <;> rfl
@[simp] theorem raise_reg (e : Nat) : (s.raise e).reg = s.reg := raiseAt_reg s s.now e
@[simp] theorem raiseAt_mem (t e : Nat) : (s.raiseAt t e).mem = s.mem := by unfold State.raiseAt; split <;> rfl
@[simp] theorem raise_mem (e : Nat) : (s.raise e).mem = s.mem := raiseAt_mem s s.now e
@[simp] theorem raiseAt_freeCtr (t e : Nat) : (s.raiseAt t e).freeCtr = s.freeCtr := by unfold State.raiseAt; split <;> rfl
@[simp] theorem raise_freeCtr (e : Nat) : (s.raise e).freeCtr = s.freeCtr := raiseAt_freeCtr s s.now e
@[simp] theorem raiseAt_pending (t e : Nat) : (s.raiseAt t e).pending = s.pending := by unfold State.raiseAt; split <;> rfl
@[simp] theorem raise_pending (e : Nat) : (s.raise e).pending = s.pending := raiseAt_pending s s.now e
@[simp] theorem raiseAt_hdi (t e : Nat) : (s.raiseAt t e).hdi = s.hdi := by unfold State.raiseAt; split <;> rfl
@[simp] theorem raise_hdi (e : Nat) : (s.raise e).hdi = s.hdi := raiseAt_hdi s s.now e
@[simp] theorem raiseAt_clk (t e : Nat) : (s.raiseAt t e).clk = s.clk := by unfold State.raiseAt; split <;> rfl
@[simp] theorem raise_clk (e : Nat) : (s.raise e).clk = s.clk := raiseAt_clk s s.now e
@[simp] theorem raiseAt_sched (t e : Nat) : (s.raiseAt t e).sched = s.sched := by unfold State.raiseAt; split <;> rfl
@[simp] theorem raise_sched (e : Nat) : (s.raise e).sched = s.sched := raiseAt_sched s s.now e
@[simp] theorem raiseAt_ve (t e : Nat) : (s.raiseAt t e).ve = s.ve := by unfold State.raiseAt; split <;> rfl
@[simp] theorem raise_ve (e : Nat) : (s.raise e).ve = s.ve := raiseAt_ve s s.now e
@[simp] theorem raiseAt_outCh (t e : Nat) : (s.raiseAt t e).outCh = s.outCh := by unfold State.raiseAt; split <;> rfl
@[simp] theorem raise_outCh (e : Nat) : (s.raise e).outCh = s.outCh := raiseAt_outCh s s.now e
@[simp] theorem raiseAt_inCh (t e : Nat) : (s.raiseAt t e).inCh = s.inCh := by unfold State.raiseAt; split <;> rfl
@[simp] theorem raise_inCh (e : Nat) : (s.raise e).inCh = s.inCh := raiseAt_inCh s s.now e
@[simp] theorem raiseAt_fcp (t e : Nat) : (s.raiseAt t e).fcp = s.fcp := by unfold State.raiseAt; split <;> rfl
@[simp] theorem raise_fcp (e : Nat) : (s.raise e).fcp = s.fcp := raiseAt_fcp s s.now e
@[simp] theorem raiseAt_sq (t e : Nat) : (s.raiseAt t e).sq = s.sq := by unfold State.raiseAt; split <;> rfl
@[simp] theorem raise_sq (e : Nat) : (s.raise e).sq = s.sq := raiseAt_sq s s.now e
@[simp] theorem raiseAt_brk (t e : Nat) : (s.raiseAt t e).brk = s.brk := by unfold State.raiseAt; split <;> rfl
@[simp] theorem raise_brk (e : Nat) : (s.raise e).brk = s.brk := raiseAt_brk s s.now e
@[simp] theorem raiseAt_tgt (t e : Nat) : (s.raiseAt t e).tgt = s.tgt := by unfold State.raiseAt; split <;> rfl
@[simp] theorem raise_tgt (e : Nat) : (s.raise e).tgt = s.tgt := raiseAt_tgt s s.now e
@[simp] theorem raiseAt_groupAt (t e : Nat) : (s.raiseAt t e).groupAt = s.groupAt := by unfold State.raiseAt; split <;> rfl
@[simp] theorem raise_groupAt (e : Nat) : (s.raise e).groupAt = s.groupAt := raiseAt_groupAt s s.now e
@[simp] theorem raiseAt_dsp (t e : Nat) : (s.raiseAt t e).dsp = s.dsp := by unfold State.raiseAt; split <;> rfl
@[simp] theorem raise_dsp (e : Nat) : (s.raise e).dsp = s.dsp := raiseAt_dsp s s.now e
@[simp] theorem raiseAt_focus (t e : Nat) : (s.raiseAt t e).focus = s.focus := by unfold State.raiseAt; split <;> rfl
@[simp] theorem raise_focus (e : Nat) : (s.raise e).focus = s.focus := raiseAt_focus s s.now e
@[simp] theorem raiseAt_trim (t e : Nat) : (s.raiseAt t e).trim = s.trim := by unfold State.raiseAt; split <;> rfl
@[simp] theorem raise_trim (e : Nat) : (s.raise e).trim = s.trim := raiseAt_trim s s.now e
@[simp] theorem raiseAt_reqs (t e : Nat) : (s.raiseAt t e).reqs = s.reqs := by unfold State.raiseAt; split <;> rfl
@[simp] theorem raise_reqs (e : Nat) : (s.raise e).reqs = s.reqs := raiseAt_reqs s s.now e
@[simp] theorem raiseAt_resps (t e : Nat) : (s.raiseAt t e).resps = s.resps := by unfold State.raiseAt; split <;> rfl
@[simp] theorem raise_resps (e : Nat) : (s.raise e).resps = s.resps := raiseAt_resps s s.now e
@[simp] theorem raiseAt_held (t e : Nat) : (s.raiseAt t e).held = s.held := by unfold State.raiseAt; split <;> rfl
@[simp] theorem raise_held (e : Nat) : (s.raise e).held = s.held := raiseAt_held s s.now e
@[simp] theorem raiseAt_steal (t e : Nat) : (s.raiseAt t e).steal = s.steal := by unfold State.raiseAt; split <;> rfl
@[simp] theorem raiseAt_labels (t e : Nat) : (s.raiseAt t e).labels = s.labels := by unfold State.raiseAt; split <;> rfl
@[simp] theorem raiseAt_fresh (t e : Nat) : (s.raiseAt t e).fresh = s.fresh := by unfold State.raiseAt; split <;> rfl
@[simp] theorem raiseAt_cleared (t e : Nat) : (s.raiseAt t e).cleared = s.cleared := by unfold State.raiseAt; split <;> rfl
@[simp] theorem raise_steal (e : Nat) : (s.raise e).steal = s.steal := raiseAt_steal s s.now e
@[simp] theorem raise_labels (e : Nat) : (s.raise e).labels = s.labels := raiseAt_labels s s.now e
@[simp] theorem raise_fresh (e : Nat) : (s.raise e).fresh = s.fresh := raiseAt_fresh s s.now e
@[simp] theorem raise_cleared (e : Nat) : (s.raise e).cleared = s.cleared := raiseAt_cleared s s.now e
@[simp] theorem raiseAt_drain (t e : Nat) : (s.raiseAt t e).drain = s.drain := by unfold State.raiseAt; split <;> rfl
@[simp] theorem raise_drain (e : Nat) : (s.raise e).drain = s.drain := raiseAt_drain s s.now e
@[simp] theorem raiseAt_trace (t e : Nat) : (s.raiseAt t e).trace = s.trace := by unfold State.raiseAt; split <;> rfl
@[simp] theorem raise_trace (e : Nat) : (s.raise e).trace = s.trace := raiseAt_trace s s.now e
@[simp] theorem raiseAt_dmc (t e : Nat) : (s.raiseAt t e).dmc = s.dmc := by unfold State.raiseAt; split <;> rfl
@[simp] theorem raise_dmc (e : Nat) : (s.raise e).dmc = s.dmc := raiseAt_dmc s s.now e
@[simp] theorem raiseAt_autoTrain (t e : Nat) : (s.raiseAt t e).autoTrain = s.autoTrain := by unfold State.raiseAt; split <;> rfl
@[simp] theorem raise_autoTrain (e : Nat) : (s.raise e).autoTrain = s.autoTrain := raiseAt_autoTrain s s.now e
@[simp] theorem raiseAt_crh (t e : Nat) : (s.raiseAt t e).crh = s.crh := by unfold State.raiseAt; split <;> rfl
@[simp] theorem raise_crh (e : Nat) : (s.raise e).crh = s.crh := raiseAt_crh s s.now e
@[simp] theorem raiseAt_cfg (t e : Nat) : (s.raiseAt t e).cfg = s.cfg := by unfold State.raiseAt; split <;> rfl
@[simp] theorem raise_cfg (e : Nat) : (s.raise e).cfg = s.cfg := raiseAt_cfg s s.now e
@[simp] theorem raiseAt_sup (t e : Nat) : (s.raiseAt t e).sup = s.sup := by unfold State.raiseAt; split <;> rfl
@[simp] theorem raise_sup (e : Nat) : (s.raise e).sup = s.sup := raiseAt_sup s s.now e
@[simp] theorem raiseAt_dbg (t e : Nat) : (s.raiseAt t e).dbg = s.dbg := by unfold State.raiseAt; split <;> rfl
@[simp] theorem raise_dbg (e : Nat) : (s.raise e).dbg = s.dbg := raiseAt_dbg s s.now e
@[simp] theorem raiseAt_tmu (t e : Nat) : (s.raiseAt t e).tmu = s.tmu := by unfold State.raiseAt; split <;> rfl
@[simp] theorem raise_tmu (e : Nat) : (s.raise e).tmu = s.tmu := raiseAt_tmu s s.now e
@[simp] theorem raiseAt_lanes (t e : Nat) : (s.raiseAt t e).lanes = s.lanes := by unfold State.raiseAt; split <;> rfl
@[simp] theorem raise_lanes (e : Nat) : (s.raise e).lanes = s.lanes := raiseAt_lanes s s.now e
@[simp] theorem raiseAt_cells (t e : Nat) : (s.raiseAt t e).cells = s.cells := by unfold State.raiseAt; split <;> rfl
@[simp] theorem raise_cells (e : Nat) : (s.raise e).cells = s.cells := raiseAt_cells s s.now e
@[simp] theorem raiseAt_cellCfg (t e : Nat) : (s.raiseAt t e).cellCfg = s.cellCfg := by unfold State.raiseAt; split <;> rfl
@[simp] theorem raise_cellCfg (e : Nat) : (s.raise e).cellCfg = s.cellCfg := raiseAt_cellCfg s s.now e
@[simp] theorem raiseAt_sels (t e : Nat) : (s.raiseAt t e).sels = s.sels := by unfold State.raiseAt; split <;> rfl
@[simp] theorem raise_sels (e : Nat) : (s.raise e).sels = s.sels := raiseAt_sels s s.now e
@[simp] theorem raiseAt_tracks (t e : Nat) : (s.raiseAt t e).tracks = s.tracks := by unfold State.raiseAt; split <;> rfl
@[simp] theorem raise_tracks (e : Nat) : (s.raise e).tracks = s.tracks := raiseAt_tracks s s.now e
@[simp] theorem raiseAt_upsets (t e : Nat) : (s.raiseAt t e).upsets = s.upsets := by unfold State.raiseAt; split <;> rfl
@[simp] theorem raise_upsets (e : Nat) : (s.raise e).upsets = s.upsets := raiseAt_upsets s s.now e
@[simp] theorem raiseAt_facets (t e : Nat) : (s.raiseAt t e).facets = s.facets := by unfold State.raiseAt; split <;> rfl
@[simp] theorem raise_facets (e : Nat) : (s.raise e).facets = s.facets := raiseAt_facets s s.now e
@[simp] theorem raiseAt_fev (t e : Nat) : (s.raiseAt t e).fev = s.fev := by unfold State.raiseAt; split <;> rfl
@[simp] theorem raise_fev (e : Nat) : (s.raise e).fev = s.fev := raiseAt_fev s s.now e
@[simp] theorem raiseAt_panes (t e : Nat) : (s.raiseAt t e).panes = s.panes := by unfold State.raiseAt; split <;> rfl
@[simp] theorem raise_panes (e : Nat) : (s.raise e).panes = s.panes := raiseAt_panes s s.now e
@[simp] theorem raiseAt_banks (t e : Nat) : (s.raiseAt t e).banks = s.banks := by unfold State.raiseAt; split <;> rfl
@[simp] theorem raise_banks (e : Nat) : (s.raise e).banks = s.banks := raiseAt_banks s s.now e
@[simp] theorem raiseAt_pins (t e : Nat) : (s.raiseAt t e).pins = s.pins := by unfold State.raiseAt; split <;> rfl
@[simp] theorem raise_pins (e : Nat) : (s.raise e).pins = s.pins := raiseAt_pins s s.now e
@[simp] theorem setBit_now (k b : Nat) (v : Bool) : (s.setBit k b v).now = s.now := by unfold State.setBit; split <;> first | rfl | (split <;> rfl)
@[simp] theorem setBit_mem (k b : Nat) (v : Bool) : (s.setBit k b v).mem = s.mem := by unfold State.setBit; split <;> first | rfl | (split <;> rfl)
@[simp] theorem setBit_evq (k b : Nat) (v : Bool) : (s.setBit k b v).evq = s.evq := by unfold State.setBit; split <;> first | rfl | (split <;> rfl)
@[simp] theorem setBit_freeCtr (k b : Nat) (v : Bool) : (s.setBit k b v).freeCtr = s.freeCtr := by unfold State.setBit; split <;> first | rfl | (split <;> rfl)
@[simp] theorem setBit_pending (k b : Nat) (v : Bool) : (s.setBit k b v).pending = s.pending := by unfold State.setBit; split <;> first | rfl | (split <;> rfl)
@[simp] theorem setBit_hdi (k b : Nat) (v : Bool) : (s.setBit k b v).hdi = s.hdi := by unfold State.setBit; split <;> first | rfl | (split <;> rfl)
@[simp] theorem setBit_clk (k b : Nat) (v : Bool) : (s.setBit k b v).clk = s.clk := by unfold State.setBit; split <;> first | rfl | (split <;> rfl)
@[simp] theorem setBit_sched (k b : Nat) (v : Bool) : (s.setBit k b v).sched = s.sched := by unfold State.setBit; split <;> first | rfl | (split <;> rfl)
@[simp] theorem setBit_ve (k b : Nat) (v : Bool) : (s.setBit k b v).ve = s.ve := by unfold State.setBit; split <;> first | rfl | (split <;> rfl)
@[simp] theorem setBit_outCh (k b : Nat) (v : Bool) : (s.setBit k b v).outCh = s.outCh := by unfold State.setBit; split <;> first | rfl | (split <;> rfl)
@[simp] theorem setBit_inCh (k b : Nat) (v : Bool) : (s.setBit k b v).inCh = s.inCh := by unfold State.setBit; split <;> first | rfl | (split <;> rfl)
@[simp] theorem setBit_fcp (k b : Nat) (v : Bool) : (s.setBit k b v).fcp = s.fcp := by unfold State.setBit; split <;> first | rfl | (split <;> rfl)
@[simp] theorem setBit_sq (k b : Nat) (v : Bool) : (s.setBit k b v).sq = s.sq := by unfold State.setBit; split <;> first | rfl | (split <;> rfl)
@[simp] theorem setBit_brk (k b : Nat) (v : Bool) : (s.setBit k b v).brk = s.brk := by unfold State.setBit; split <;> first | rfl | (split <;> rfl)
@[simp] theorem setBit_tgt (k b : Nat) (v : Bool) : (s.setBit k b v).tgt = s.tgt := by unfold State.setBit; split <;> first | rfl | (split <;> rfl)
@[simp] theorem setBit_groupAt (k b : Nat) (v : Bool) : (s.setBit k b v).groupAt = s.groupAt := by unfold State.setBit; split <;> first | rfl | (split <;> rfl)
@[simp] theorem setBit_dsp (k b : Nat) (v : Bool) : (s.setBit k b v).dsp = s.dsp := by unfold State.setBit; split <;> first | rfl | (split <;> rfl)
@[simp] theorem setBit_focus (k b : Nat) (v : Bool) : (s.setBit k b v).focus = s.focus := by unfold State.setBit; split <;> first | rfl | (split <;> rfl)
@[simp] theorem setBit_trim (k b : Nat) (v : Bool) : (s.setBit k b v).trim = s.trim := by unfold State.setBit; split <;> first | rfl | (split <;> rfl)
@[simp] theorem setBit_reqs (k b : Nat) (v : Bool) : (s.setBit k b v).reqs = s.reqs := by unfold State.setBit; split <;> first | rfl | (split <;> rfl)
@[simp] theorem setBit_resps (k b : Nat) (v : Bool) : (s.setBit k b v).resps = s.resps := by unfold State.setBit; split <;> first | rfl | (split <;> rfl)
@[simp] theorem setBit_held (k b : Nat) (v : Bool) : (s.setBit k b v).held = s.held := by unfold State.setBit; split <;> first | rfl | (split <;> rfl)
@[simp] theorem setBit_steal (k b : Nat) (v : Bool) : (s.setBit k b v).steal = s.steal := by unfold State.setBit; split <;> first | rfl | (split <;> rfl)
@[simp] theorem setBit_labels (k b : Nat) (v : Bool) : (s.setBit k b v).labels = s.labels := by unfold State.setBit; split <;> first | rfl | (split <;> rfl)
@[simp] theorem setBit_fresh (k b : Nat) (v : Bool) : (s.setBit k b v).fresh = s.fresh := by unfold State.setBit; split <;> first | rfl | (split <;> rfl)
@[simp] theorem setBit_cleared (k b : Nat) (v : Bool) : (s.setBit k b v).cleared = s.cleared := by unfold State.setBit; split <;> first | rfl | (split <;> rfl)
@[simp] theorem setBit_drain (k b : Nat) (v : Bool) : (s.setBit k b v).drain = s.drain := by unfold State.setBit; split <;> first | rfl | (split <;> rfl)
@[simp] theorem setBit_trace (k b : Nat) (v : Bool) : (s.setBit k b v).trace = s.trace := by unfold State.setBit; split <;> first | rfl | (split <;> rfl)
@[simp] theorem setBit_dmc (k b : Nat) (v : Bool) : (s.setBit k b v).dmc = s.dmc := by unfold State.setBit; split <;> first | rfl | (split <;> rfl)
@[simp] theorem setBit_autoTrain (k b : Nat) (v : Bool) : (s.setBit k b v).autoTrain = s.autoTrain := by unfold State.setBit; split <;> first | rfl | (split <;> rfl)
@[simp] theorem setBit_crh (k b : Nat) (v : Bool) : (s.setBit k b v).crh = s.crh := by unfold State.setBit; split <;> first | rfl | (split <;> rfl)
@[simp] theorem setBit_cfg (k b : Nat) (v : Bool) : (s.setBit k b v).cfg = s.cfg := by unfold State.setBit; split <;> first | rfl | (split <;> rfl)
@[simp] theorem setBit_sup (k b : Nat) (v : Bool) : (s.setBit k b v).sup = s.sup := by unfold State.setBit; split <;> first | rfl | (split <;> rfl)
@[simp] theorem setBit_dbg (k b : Nat) (v : Bool) : (s.setBit k b v).dbg = s.dbg := by unfold State.setBit; split <;> first | rfl | (split <;> rfl)
@[simp] theorem setBit_tmu (k b : Nat) (v : Bool) : (s.setBit k b v).tmu = s.tmu := by unfold State.setBit; split <;> first | rfl | (split <;> rfl)
@[simp] theorem setBit_lanes (k b : Nat) (v : Bool) : (s.setBit k b v).lanes = s.lanes := by unfold State.setBit; split <;> first | rfl | (split <;> rfl)
@[simp] theorem setBit_cells (k b : Nat) (v : Bool) : (s.setBit k b v).cells = s.cells := by unfold State.setBit; split <;> first | rfl | (split <;> rfl)
@[simp] theorem setBit_cellCfg (k b : Nat) (v : Bool) : (s.setBit k b v).cellCfg = s.cellCfg := by unfold State.setBit; split <;> first | rfl | (split <;> rfl)
@[simp] theorem setBit_sels (k b : Nat) (v : Bool) : (s.setBit k b v).sels = s.sels := by unfold State.setBit; split <;> first | rfl | (split <;> rfl)
@[simp] theorem setBit_tracks (k b : Nat) (v : Bool) : (s.setBit k b v).tracks = s.tracks := by unfold State.setBit; split <;> first | rfl | (split <;> rfl)
@[simp] theorem setBit_upsets (k b : Nat) (v : Bool) : (s.setBit k b v).upsets = s.upsets := by unfold State.setBit; split <;> first | rfl | (split <;> rfl)
@[simp] theorem setBit_facets (k b : Nat) (v : Bool) : (s.setBit k b v).facets = s.facets := by unfold State.setBit; split <;> first | rfl | (split <;> rfl)
@[simp] theorem setBit_fev (k b : Nat) (v : Bool) : (s.setBit k b v).fev = s.fev := by unfold State.setBit; split <;> first | rfl | (split <;> rfl)
@[simp] theorem setBit_panes (k b : Nat) (v : Bool) : (s.setBit k b v).panes = s.panes := by unfold State.setBit; split <;> first | rfl | (split <;> rfl)
@[simp] theorem setBit_banks (k b : Nat) (v : Bool) : (s.setBit k b v).banks = s.banks := by unfold State.setBit; split <;> first | rfl | (split <;> rfl)
@[simp] theorem setBit_pins (k b : Nat) (v : Bool) : (s.setBit k b v).pins = s.pins := by unfold State.setBit; split <;> first | rfl | (split <;> rfl)
@[simp] theorem note_now (k b : Nat) : (s.note k b).now = s.now := rfl
@[simp] theorem note_mem (k b : Nat) : (s.note k b).mem = s.mem := rfl
@[simp] theorem note_evq (k b : Nat) : (s.note k b).evq = s.evq := rfl
@[simp] theorem note_freeCtr (k b : Nat) : (s.note k b).freeCtr = s.freeCtr := rfl
@[simp] theorem note_pending (k b : Nat) : (s.note k b).pending = s.pending := rfl
@[simp] theorem note_hdi (k b : Nat) : (s.note k b).hdi = s.hdi := rfl
@[simp] theorem note_clk (k b : Nat) : (s.note k b).clk = s.clk := rfl
@[simp] theorem note_sched (k b : Nat) : (s.note k b).sched = s.sched := rfl
@[simp] theorem note_ve (k b : Nat) : (s.note k b).ve = s.ve := rfl
@[simp] theorem note_outCh (k b : Nat) : (s.note k b).outCh = s.outCh := rfl
@[simp] theorem note_inCh (k b : Nat) : (s.note k b).inCh = s.inCh := rfl
@[simp] theorem note_fcp (k b : Nat) : (s.note k b).fcp = s.fcp := rfl
@[simp] theorem note_sq (k b : Nat) : (s.note k b).sq = s.sq := rfl
@[simp] theorem note_brk (k b : Nat) : (s.note k b).brk = s.brk := rfl
@[simp] theorem note_tgt (k b : Nat) : (s.note k b).tgt = s.tgt := rfl
@[simp] theorem note_groupAt (k b : Nat) : (s.note k b).groupAt = s.groupAt := rfl
@[simp] theorem note_dsp (k b : Nat) : (s.note k b).dsp = s.dsp := rfl
@[simp] theorem note_focus (k b : Nat) : (s.note k b).focus = s.focus := rfl
@[simp] theorem note_trim (k b : Nat) : (s.note k b).trim = s.trim := rfl
@[simp] theorem note_reqs (k b : Nat) : (s.note k b).reqs = s.reqs := rfl
@[simp] theorem note_resps (k b : Nat) : (s.note k b).resps = s.resps := rfl
@[simp] theorem note_held (k b : Nat) : (s.note k b).held = s.held := rfl
@[simp] theorem note_steal (k b : Nat) : (s.note k b).steal = s.steal := rfl
@[simp] theorem note_labels (k b : Nat) : (s.note k b).labels = s.labels := rfl
@[simp] theorem note_drain (k b : Nat) : (s.note k b).drain = s.drain := rfl
@[simp] theorem note_trace (k b : Nat) : (s.note k b).trace = s.trace := rfl
@[simp] theorem note_dmc (k b : Nat) : (s.note k b).dmc = s.dmc := rfl
@[simp] theorem note_autoTrain (k b : Nat) : (s.note k b).autoTrain = s.autoTrain := rfl
@[simp] theorem note_crh (k b : Nat) : (s.note k b).crh = s.crh := rfl
@[simp] theorem note_cfg (k b : Nat) : (s.note k b).cfg = s.cfg := rfl
@[simp] theorem note_sup (k b : Nat) : (s.note k b).sup = s.sup := rfl
@[simp] theorem note_dbg (k b : Nat) : (s.note k b).dbg = s.dbg := rfl
@[simp] theorem note_tmu (k b : Nat) : (s.note k b).tmu = s.tmu := rfl
@[simp] theorem note_lanes (k b : Nat) : (s.note k b).lanes = s.lanes := rfl
@[simp] theorem note_cells (k b : Nat) : (s.note k b).cells = s.cells := rfl
@[simp] theorem note_cellCfg (k b : Nat) : (s.note k b).cellCfg = s.cellCfg := rfl
@[simp] theorem note_sels (k b : Nat) : (s.note k b).sels = s.sels := rfl
@[simp] theorem note_tracks (k b : Nat) : (s.note k b).tracks = s.tracks := rfl
@[simp] theorem note_upsets (k b : Nat) : (s.note k b).upsets = s.upsets := rfl
@[simp] theorem note_facets (k b : Nat) : (s.note k b).facets = s.facets := rfl
@[simp] theorem note_fev (k b : Nat) : (s.note k b).fev = s.fev := rfl
@[simp] theorem note_cleared (k b : Nat) : (s.note k b).cleared = s.cleared := rfl
@[simp] theorem note_panes (k b : Nat) : (s.note k b).panes = s.panes := rfl
@[simp] theorem note_banks (k b : Nat) : (s.note k b).banks = s.banks := rfl
@[simp] theorem note_pins (k b : Nat) : (s.note k b).pins = s.pins := rfl
@[simp] theorem note_reg (k b : Nat) : (s.note k b).reg = s.reg := rfl
@[simp] theorem flag_now (k b e : Nat) : (s.flag k b e).now = s.now := by unfold State.flag; dsimp only; (repeat' split) <;> simp
@[simp] theorem flag_mem (k b e : Nat) : (s.flag k b e).mem = s.mem := by unfold State.flag; dsimp only; (repeat' split) <;> simp
@[simp] theorem flag_freeCtr (k b e : Nat) : (s.flag k b e).freeCtr = s.freeCtr := by unfold State.flag; dsimp only; (repeat' split) <;> simp
@[simp] theorem flag_pending (k b e : Nat) : (s.flag k b e).pending = s.pending := by unfold State.flag; dsimp only; (repeat' split) <;> simp
@[simp] theorem flag_hdi (k b e : Nat) : (s.flag k b e).hdi = s.hdi := by unfold State.flag; dsimp only; (repeat' split) <;> simp
@[simp] theorem flag_clk (k b e : Nat) : (s.flag k b e).clk = s.clk := by unfold State.flag; dsimp only; (repeat' split) <;> simp
@[simp] theorem flag_sched (k b e : Nat) : (s.flag k b e).sched = s.sched := by unfold State.flag; dsimp only; (repeat' split) <;> simp
@[simp] theorem flag_ve (k b e : Nat) : (s.flag k b e).ve = s.ve := by unfold State.flag; dsimp only; (repeat' split) <;> simp
@[simp] theorem flag_outCh (k b e : Nat) : (s.flag k b e).outCh = s.outCh := by unfold State.flag; dsimp only; (repeat' split) <;> simp
@[simp] theorem flag_inCh (k b e : Nat) : (s.flag k b e).inCh = s.inCh := by unfold State.flag; dsimp only; (repeat' split) <;> simp
@[simp] theorem flag_fcp (k b e : Nat) : (s.flag k b e).fcp = s.fcp := by unfold State.flag; dsimp only; (repeat' split) <;> simp
@[simp] theorem flag_sq (k b e : Nat) : (s.flag k b e).sq = s.sq := by unfold State.flag; dsimp only; (repeat' split) <;> simp
@[simp] theorem flag_brk (k b e : Nat) : (s.flag k b e).brk = s.brk := by unfold State.flag; dsimp only; (repeat' split) <;> simp
@[simp] theorem flag_tgt (k b e : Nat) : (s.flag k b e).tgt = s.tgt := by unfold State.flag; dsimp only; (repeat' split) <;> simp
@[simp] theorem flag_groupAt (k b e : Nat) : (s.flag k b e).groupAt = s.groupAt := by unfold State.flag; dsimp only; (repeat' split) <;> simp
@[simp] theorem flag_dsp (k b e : Nat) : (s.flag k b e).dsp = s.dsp := by unfold State.flag; dsimp only; (repeat' split) <;> simp
@[simp] theorem flag_focus (k b e : Nat) : (s.flag k b e).focus = s.focus := by unfold State.flag; dsimp only; (repeat' split) <;> simp
@[simp] theorem flag_trim (k b e : Nat) : (s.flag k b e).trim = s.trim := by unfold State.flag; dsimp only; (repeat' split) <;> simp
@[simp] theorem flag_reqs (k b e : Nat) : (s.flag k b e).reqs = s.reqs := by unfold State.flag; dsimp only; (repeat' split) <;> simp
@[simp] theorem flag_resps (k b e : Nat) : (s.flag k b e).resps = s.resps := by unfold State.flag; dsimp only; (repeat' split) <;> simp
@[simp] theorem flag_held (k b e : Nat) : (s.flag k b e).held = s.held := by unfold State.flag; dsimp only; (repeat' split) <;> simp
@[simp] theorem flag_steal (k b e : Nat) : (s.flag k b e).steal = s.steal := by unfold State.flag; dsimp only; (repeat' split) <;> simp
@[simp] theorem flag_labels (k b e : Nat) : (s.flag k b e).labels = s.labels := by unfold State.flag; dsimp only; (repeat' split) <;> simp
@[simp] theorem flag_drain (k b e : Nat) : (s.flag k b e).drain = s.drain := by unfold State.flag; dsimp only; (repeat' split) <;> simp
@[simp] theorem flag_trace (k b e : Nat) : (s.flag k b e).trace = s.trace := by unfold State.flag; dsimp only; (repeat' split) <;> simp
@[simp] theorem flag_dmc (k b e : Nat) : (s.flag k b e).dmc = s.dmc := by unfold State.flag; dsimp only; (repeat' split) <;> simp
@[simp] theorem flag_autoTrain (k b e : Nat) : (s.flag k b e).autoTrain = s.autoTrain := by unfold State.flag; dsimp only; (repeat' split) <;> simp
@[simp] theorem flag_crh (k b e : Nat) : (s.flag k b e).crh = s.crh := by unfold State.flag; dsimp only; (repeat' split) <;> simp
@[simp] theorem flag_cfg (k b e : Nat) : (s.flag k b e).cfg = s.cfg := by unfold State.flag; dsimp only; (repeat' split) <;> simp
@[simp] theorem flag_sup (k b e : Nat) : (s.flag k b e).sup = s.sup := by unfold State.flag; dsimp only; (repeat' split) <;> simp
@[simp] theorem flag_dbg (k b e : Nat) : (s.flag k b e).dbg = s.dbg := by unfold State.flag; dsimp only; (repeat' split) <;> simp
@[simp] theorem flag_tmu (k b e : Nat) : (s.flag k b e).tmu = s.tmu := by unfold State.flag; dsimp only; (repeat' split) <;> simp
@[simp] theorem flag_lanes (k b e : Nat) : (s.flag k b e).lanes = s.lanes := by unfold State.flag; dsimp only; (repeat' split) <;> simp
@[simp] theorem flag_cells (k b e : Nat) : (s.flag k b e).cells = s.cells := by unfold State.flag; dsimp only; (repeat' split) <;> simp
@[simp] theorem flag_cellCfg (k b e : Nat) : (s.flag k b e).cellCfg = s.cellCfg := by unfold State.flag; dsimp only; (repeat' split) <;> simp
@[simp] theorem flag_sels (k b e : Nat) : (s.flag k b e).sels = s.sels := by unfold State.flag; dsimp only; (repeat' split) <;> simp
@[simp] theorem flag_tracks (k b e : Nat) : (s.flag k b e).tracks = s.tracks := by unfold State.flag; dsimp only; (repeat' split) <;> simp
@[simp] theorem flag_upsets (k b e : Nat) : (s.flag k b e).upsets = s.upsets := by unfold State.flag; dsimp only; (repeat' split) <;> simp
@[simp] theorem flag_facets (k b e : Nat) : (s.flag k b e).facets = s.facets := by unfold State.flag; dsimp only; (repeat' split) <;> simp
@[simp] theorem flag_fev (k b e : Nat) : (s.flag k b e).fev = s.fev := by unfold State.flag; dsimp only; (repeat' split) <;> simp
@[simp] theorem flag_cleared (k b e : Nat) : (s.flag k b e).cleared = s.cleared := by unfold State.flag; dsimp only; (repeat' split) <;> simp
@[simp] theorem flag_panes (k b e : Nat) : (s.flag k b e).panes = s.panes := by unfold State.flag; dsimp only; (repeat' split) <;> simp
@[simp] theorem flag_banks (k b e : Nat) : (s.flag k b e).banks = s.banks := by unfold State.flag; dsimp only; (repeat' split) <;> simp
@[simp] theorem flag_pins (k b e : Nat) : (s.flag k b e).pins = s.pins := by unfold State.flag; dsimp only; (repeat' split) <;> simp

/-! Members. -/

theorem rd_wr (k v j : Nat) : (s.wr k v).rd j = if j = k then v else s.rd j := get_set _ _ _ _
@[simp] theorem rd_wr_same (k v : Nat) : (s.wr k v).rd k = v := get_set_same _ _ _
theorem rd_wr_other {k j : Nat} (h : j ≠ k) (v : Nat) : (s.wr k v).rd j = s.rd j := get_set_other _ h _
theorem rd_addTo (w k d j : Nat) : (s.addTo w k d).rd j = if j = k then min (s.rd k + d) (2 ^ w - 1) else s.rd j := by
  unfold State.addTo; exact rd_wr _ _ _ _
theorem rd_bump (w k j : Nat) : (s.bump w k).rd j = if j = k then min (s.rd k + 1) (2 ^ w - 1) else s.rd j := by
  unfold State.bump; exact rd_addTo _ _ _ _ _
theorem rd_of_reg {s t : State} (h : t.reg = s.reg) (k : Nat) : t.rd k = s.rd k := by unfold State.rd; rw [h]
theorem rd_setBit_other {k j : Nat} (h : j ≠ k) (b : Nat) (v : Bool) : (s.setBit k b v).rd j = s.rd j := by
  unfold State.setBit
  split
  · exact rd_wr_other s h _
  · split
    · exact rd_wr_other s h _
    · rfl
theorem rd_flag_other {k j : Nat} (h : j ≠ k) (b e : Nat) : (s.flag k b e).rd j = s.rd j := by
  unfold State.flag
  dsimp only
  split
  · rfl
  · split
    · exact rd_setBit_other (s.note k b) h _ _
    · rw [rd_of_reg (raise_reg _ _)]
      exact rd_setBit_other (s.note k b) h _ _
theorem bit_setBit_true (k b : Nat) : (s.setBit k b true).bit k b = true := by
  unfold State.setBit State.bit
  rw [if_pos rfl, rd_wr_same, Nat.testBit_or, Nat.testBit_two_pow_self, Bool.or_true]
/-- Bit b taken from a number that has it. -/
theorem sub_bit (x b c : Nat) (h : x.testBit b = true) : (x - 2^b).testBit c = (x.testBit c && !decide (b = c)) := by
  have hx : x = x / 2 ^ (b+1) * 2 ^ (b+1) + 2^b + x % 2^b := by
    have h1 := Nat.div_add_mod x (2^(b+1))
    have h2 : x % 2^(b+1) = 2^b + x % 2^b := by
      have hd : x / 2^b % 2 = 1 := by
        have := h
        rw [Nat.testBit_eq_decide_div_mod_eq] at this
        simpa using this
      rw [Nat.pow_succ, Nat.mod_mul, hd]; omega
    rw [h2] at h1
    nlinarith [h1]
  have hl : x % 2^b < 2^b := Nat.mod_lt _ (by positivity)
  generalize x % 2^b = l at *
  generalize x / 2^(b+1) = u at *
  subst hx
  have e : u * 2 ^ (b+1) + 2^b + l - 2^b = 2^(b+1) * u + l := by rw [Nat.mul_comm]; omega
  have e' : u * 2 ^ (b+1) + 2^b + l = 2^(b+1) * u + (2^b + l) := by rw [Nat.mul_comm]; omega
  rw [e, e', Nat.testBit_two_pow_mul_add _ (by rw [Nat.pow_succ]; omega), Nat.testBit_two_pow_mul_add _ (by rw [Nat.pow_succ]; omega)]
  split
  · by_cases hc : c = b
    · subst hc; simp [Nat.testBit_lt_two_pow hl]
    · have : c < b := by omega
      rw [Nat.testBit_two_pow_add_gt this]
      simp [Ne.symm hc]
  · have : b ≠ c := by omega
    simp [this]
theorem bit_setBit_other {k b c : Nat} (h : b ≠ c) (v : Bool) : (s.setBit k b v).bit k c = s.bit k c := by
  unfold State.setBit
  split
  · unfold State.bit
    rw [rd_wr_same, Nat.testBit_or, Nat.testBit_two_pow]
    simp [h]
  · split
    · rename_i hb
      unfold State.bit at hb ⊢
      rw [rd_wr_same, sub_bit _ _ _ hb]
      simp [h]
    · rfl
theorem bit_setBit_false (k b : Nat) : (s.setBit k b false).bit k b = false := by
  unfold State.setBit
  simp only [Bool.false_eq_true, if_false]
  split
  · rename_i hb
    unfold State.bit at hb ⊢
    rw [rd_wr_same, sub_bit _ _ _ hb]
    simp
  · rename_i hb; simpa using hb
theorem bit_flag (k b e : Nat) : (s.flag k b e).bit k b = true := by
  unfold State.flag
  dsimp only
  split
  · assumption
  · have h := bit_setBit_true (s.note k b) k b
    unfold State.bit at *
    split
    · exact h
    · rw [rd_of_reg (raise_reg _ _)]
      exact h
@[simp] theorem rd_upto (t : Nat) (k : Nat) : (s.upto t).rd k = s.rd k := rfl
@[simp] theorem rd_drawn (k : Nat) : (s.drawn).rd k = s.rd k := rfl
@[simp] theorem rd_store (a n v : Nat) (k : Nat) : (s.store a n v).rd k = s.rd k := rfl
@[simp] theorem rd_modVe (n : Nat) (f : VeRun → VeRun) (k : Nat) : (s.modVe n f).rd k = s.rd k := rfl
@[simp] theorem rd_modOut (n : Nat) (f : OutCh → OutCh) (k : Nat) : (s.modOut n f).rd k = s.rd k := rfl
@[simp] theorem rd_modIn (n : Nat) (f : InCh → InCh) (k : Nat) : (s.modIn n f).rd k = s.rd k := rfl
@[simp] theorem rd_modFcp (n : Nat) (f : FcpS → FcpS) (k : Nat) : (s.modFcp n f).rd k = s.rd k := rfl
@[simp] theorem rd_modSq (n : Nat) (f : SqS → SqS) (k : Nat) : (s.modSq n f).rd k = s.rd k := rfl
@[simp] theorem rd_modBrk (n : Nat) (f : BrkS → BrkS) (k : Nat) : (s.modBrk n f).rd k = s.rd k := rfl
@[simp] theorem rd_modTgt (n : Nat) (f : TgtS → TgtS) (k : Nat) : (s.modTgt n f).rd k = s.rd k := rfl
@[simp] theorem rd_modDsp (n : Nat) (f : DspRun → DspRun) (k : Nat) : (s.modDsp n f).rd k = s.rd k := rfl
@[simp] theorem rd_modFacet (n : Nat) (f : FacetS → FacetS) (k : Nat) : (s.modFacet n f).rd k = s.rd k := rfl
@[simp] theorem rd_modPane (n : Nat) (f : PaneS → PaneS) (k : Nat) : (s.modPane n f).rd k = s.rd k := rfl
@[simp] theorem rd_modBank (n : Nat) (f : BankS → BankS) (k : Nat) : (s.modBank n f).rd k = s.rd k := rfl
@[simp] theorem rd_modDmc (n : Nat) (f : DmcS → DmcS) (k : Nat) : (s.modDmc n f).rd k = s.rd k := rfl
@[simp] theorem rd_modLane (n : Nat) (f : LaneS → LaneS) (k : Nat) : (s.modLane n f).rd k = s.rd k := rfl
@[simp] theorem rd_modTmu (f : TmuS → TmuS) (k : Nat) : (s.modTmu f).rd k = s.rd k := rfl
@[simp] theorem rd_modLaneTime (n : Nat) (f : LaneTime → LaneTime) (k : Nat) : (s.modLaneTime n f).rd k = s.rd k := rfl
@[simp] theorem rd_modTrg (n : Nat) (f : TrgS → TrgS) (k : Nat) : (s.modTrg n f).rd k = s.rd k := rfl
@[simp] theorem rd_modCap (n : Nat) (f : CapS → CapS) (k : Nat) : (s.modCap n f).rd k = s.rd k := rfl
@[simp] theorem rd_modMaster (n : Nat) (f : MasterS → MasterS) (k : Nat) : (s.modMaster n f).rd k = s.rd k := rfl
@[simp] theorem rd_modSlot (n : Nat) (f : SlotS → SlotS) (k : Nat) : (s.modSlot n f).rd k = s.rd k := rfl
@[simp] theorem rd_modI3c (f : I3cS → I3cS) (k : Nat) : (s.modI3c f).rd k = s.rd k := rfl
@[simp] theorem rd_modMirror (f : MirrorS → MirrorS) (k : Nat) : (s.modMirror f).rd k = s.rd k := rfl
@[simp] theorem rd_note (j b k : Nat) : (s.note j b).rd k = s.rd k := rfl
@[simp] theorem rd_raiseAt (t e k : Nat) : (s.raiseAt t e).rd k = s.rd k := rd_of_reg (raiseAt_reg s t e) k
@[simp] theorem rd_raise (e k : Nat) : (s.raise e).rd k = s.rd k := rd_of_reg (raise_reg s e) k

/-! Units. -/

@[simp] theorem veOf_modVe (n : Nat) (f : VeRun → VeRun) : (s.modVe n f).veOf n = f (s.veOf n) := get_set_same _ _ _
theorem veOf_modVe_other {n j : Nat} (h : j ≠ n) (f : VeRun → VeRun) : (s.modVe n f).veOf j = s.veOf j := get_set_other _ h _
@[simp] theorem outOf_modOut (n : Nat) (f : OutCh → OutCh) : (s.modOut n f).outOf n = f (s.outOf n) := get_set_same _ _ _
theorem outOf_modOut_other {n j : Nat} (h : j ≠ n) (f : OutCh → OutCh) : (s.modOut n f).outOf j = s.outOf j := get_set_other _ h _
@[simp] theorem inOf_modIn (n : Nat) (f : InCh → InCh) : (s.modIn n f).inOf n = f (s.inOf n) := get_set_same _ _ _
theorem inOf_modIn_other {n j : Nat} (h : j ≠ n) (f : InCh → InCh) : (s.modIn n f).inOf j = s.inOf j := get_set_other _ h _
@[simp] theorem fcpOf_modFcp (n : Nat) (f : FcpS → FcpS) : (s.modFcp n f).fcpOf n = f (s.fcpOf n) := get_set_same _ _ _
theorem fcpOf_modFcp_other {n j : Nat} (h : j ≠ n) (f : FcpS → FcpS) : (s.modFcp n f).fcpOf j = s.fcpOf j := get_set_other _ h _
@[simp] theorem sqOf_modSq (n : Nat) (f : SqS → SqS) : (s.modSq n f).sqOf n = f (s.sqOf n) := get_set_same _ _ _
theorem sqOf_modSq_other {n j : Nat} (h : j ≠ n) (f : SqS → SqS) : (s.modSq n f).sqOf j = s.sqOf j := get_set_other _ h _
@[simp] theorem brkOf_modBrk (n : Nat) (f : BrkS → BrkS) : (s.modBrk n f).brkOf n = f (s.brkOf n) := get_set_same _ _ _
theorem brkOf_modBrk_other {n j : Nat} (h : j ≠ n) (f : BrkS → BrkS) : (s.modBrk n f).brkOf j = s.brkOf j := get_set_other _ h _
@[simp] theorem tgtOf_modTgt (n : Nat) (f : TgtS → TgtS) : (s.modTgt n f).tgtOf n = f (s.tgtOf n) := get_set_same _ _ _
theorem tgtOf_modTgt_other {n j : Nat} (h : j ≠ n) (f : TgtS → TgtS) : (s.modTgt n f).tgtOf j = s.tgtOf j := get_set_other _ h _
@[simp] theorem dspOf_modDsp (n : Nat) (f : DspRun → DspRun) : (s.modDsp n f).dspOf n = f (s.dspOf n) := get_set_same _ _ _
theorem dspOf_modDsp_other {n j : Nat} (h : j ≠ n) (f : DspRun → DspRun) : (s.modDsp n f).dspOf j = s.dspOf j := get_set_other _ h _
@[simp] theorem facetOf_modFacet (n : Nat) (f : FacetS → FacetS) : (s.modFacet n f).facetOf n = f (s.facetOf n) := get_set_same _ _ _
theorem facetOf_modFacet_other {n j : Nat} (h : j ≠ n) (f : FacetS → FacetS) : (s.modFacet n f).facetOf j = s.facetOf j := get_set_other _ h _
@[simp] theorem paneOf_modPane (n : Nat) (f : PaneS → PaneS) : (s.modPane n f).paneOf n = f (s.paneOf n) := get_set_same _ _ _
theorem paneOf_modPane_other {n j : Nat} (h : j ≠ n) (f : PaneS → PaneS) : (s.modPane n f).paneOf j = s.paneOf j := get_set_other _ h _
@[simp] theorem bankOf_modBank (n : Nat) (f : BankS → BankS) : (s.modBank n f).bankOf n = f (s.bankOf n) := get_set_same _ _ _
theorem bankOf_modBank_other {n j : Nat} (h : j ≠ n) (f : BankS → BankS) : (s.modBank n f).bankOf j = s.bankOf j := get_set_other _ h _
@[simp] theorem dmcOf_modDmc (n : Nat) (f : DmcS → DmcS) : (s.modDmc n f).dmcOf n = f (s.dmcOf n) := get_set_same _ _ _
theorem dmcOf_modDmc_other {n j : Nat} (h : j ≠ n) (f : DmcS → DmcS) : (s.modDmc n f).dmcOf j = s.dmcOf j := get_set_other _ h _
@[simp] theorem laneOf_modLane (n : Nat) (f : LaneS → LaneS) : (s.modLane n f).laneOf n = f (s.laneOf n) := get_set_same _ _ _
theorem laneOf_modLane_other {n j : Nat} (h : j ≠ n) (f : LaneS → LaneS) : (s.modLane n f).laneOf j = s.laneOf j := get_set_other _ h _
@[simp] theorem laneTimeOf_modLaneTime (n : Nat) (f : LaneTime → LaneTime) : (s.modLaneTime n f).laneTimeOf n = f (s.laneTimeOf n) := get_set_same _ _ _
theorem laneTimeOf_modLaneTime_other {n j : Nat} (h : j ≠ n) (f : LaneTime → LaneTime) : (s.modLaneTime n f).laneTimeOf j = s.laneTimeOf j := get_set_other _ h _
@[simp] theorem trgOf_modTrg (n : Nat) (f : TrgS → TrgS) : (s.modTrg n f).trgOf n = f (s.trgOf n) := get_set_same _ _ _
theorem trgOf_modTrg_other {n j : Nat} (h : j ≠ n) (f : TrgS → TrgS) : (s.modTrg n f).trgOf j = s.trgOf j := get_set_other _ h _
@[simp] theorem capOf_modCap (n : Nat) (f : CapS → CapS) : (s.modCap n f).capOf n = f (s.capOf n) := get_set_same _ _ _
theorem capOf_modCap_other {n j : Nat} (h : j ≠ n) (f : CapS → CapS) : (s.modCap n f).capOf j = s.capOf j := get_set_other _ h _
@[simp] theorem masterOf_modMaster (n : Nat) (f : MasterS → MasterS) : (s.modMaster n f).masterOf n = f (s.masterOf n) := get_set_same _ _ _
theorem masterOf_modMaster_other {n j : Nat} (h : j ≠ n) (f : MasterS → MasterS) : (s.modMaster n f).masterOf j = s.masterOf j := get_set_other _ h _
@[simp] theorem slotOf_modSlot (n : Nat) (f : SlotS → SlotS) : (s.modSlot n f).slotOf n = f (s.slotOf n) := get_set_same _ _ _
theorem slotOf_modSlot_other {n j : Nat} (h : j ≠ n) (f : SlotS → SlotS) : (s.modSlot n f).slotOf j = s.slotOf j := get_set_other _ h _

/-! Memory. -/

/-! Units that an update leaves. -/

@[simp] theorem veOf_wr (k v : Nat) (j : Nat) : (s.wr k v).veOf j = s.veOf j := rfl
@[simp] theorem veOf_addTo (w k d : Nat) (j : Nat) : (s.addTo w k d).veOf j = s.veOf j := rfl
@[simp] theorem veOf_bump (w k : Nat) (j : Nat) : (s.bump w k).veOf j = s.veOf j := rfl
@[simp] theorem veOf_upto (t : Nat) (j : Nat) : (s.upto t).veOf j = s.veOf j := rfl
@[simp] theorem veOf_drawn (j : Nat) : (s.drawn).veOf j = s.veOf j := rfl
@[simp] theorem veOf_store (a n v : Nat) (j : Nat) : (s.store a n v).veOf j = s.veOf j := rfl
@[simp] theorem veOf_modOut (n : Nat) (f : OutCh → OutCh) (j : Nat) : (s.modOut n f).veOf j = s.veOf j := rfl
@[simp] theorem veOf_modIn (n : Nat) (f : InCh → InCh) (j : Nat) : (s.modIn n f).veOf j = s.veOf j := rfl
@[simp] theorem veOf_modFcp (n : Nat) (f : FcpS → FcpS) (j : Nat) : (s.modFcp n f).veOf j = s.veOf j := rfl
@[simp] theorem veOf_modSq (n : Nat) (f : SqS → SqS) (j : Nat) : (s.modSq n f).veOf j = s.veOf j := rfl
@[simp] theorem veOf_modBrk (n : Nat) (f : BrkS → BrkS) (j : Nat) : (s.modBrk n f).veOf j = s.veOf j := rfl
@[simp] theorem veOf_modTgt (n : Nat) (f : TgtS → TgtS) (j : Nat) : (s.modTgt n f).veOf j = s.veOf j := rfl
@[simp] theorem veOf_modDsp (n : Nat) (f : DspRun → DspRun) (j : Nat) : (s.modDsp n f).veOf j = s.veOf j := rfl
@[simp] theorem veOf_modFacet (n : Nat) (f : FacetS → FacetS) (j : Nat) : (s.modFacet n f).veOf j = s.veOf j := rfl
@[simp] theorem veOf_modPane (n : Nat) (f : PaneS → PaneS) (j : Nat) : (s.modPane n f).veOf j = s.veOf j := rfl
@[simp] theorem veOf_modBank (n : Nat) (f : BankS → BankS) (j : Nat) : (s.modBank n f).veOf j = s.veOf j := rfl
@[simp] theorem veOf_modDmc (n : Nat) (f : DmcS → DmcS) (j : Nat) : (s.modDmc n f).veOf j = s.veOf j := rfl
@[simp] theorem veOf_modLane (n : Nat) (f : LaneS → LaneS) (j : Nat) : (s.modLane n f).veOf j = s.veOf j := rfl
@[simp] theorem veOf_modTmu (f : TmuS → TmuS) (j : Nat) : (s.modTmu f).veOf j = s.veOf j := rfl
@[simp] theorem veOf_modLaneTime (n : Nat) (f : LaneTime → LaneTime) (j : Nat) : (s.modLaneTime n f).veOf j = s.veOf j := rfl
@[simp] theorem veOf_modTrg (n : Nat) (f : TrgS → TrgS) (j : Nat) : (s.modTrg n f).veOf j = s.veOf j := rfl
@[simp] theorem veOf_modCap (n : Nat) (f : CapS → CapS) (j : Nat) : (s.modCap n f).veOf j = s.veOf j := rfl
@[simp] theorem veOf_modMaster (n : Nat) (f : MasterS → MasterS) (j : Nat) : (s.modMaster n f).veOf j = s.veOf j := rfl
@[simp] theorem veOf_modSlot (n : Nat) (f : SlotS → SlotS) (j : Nat) : (s.modSlot n f).veOf j = s.veOf j := rfl
@[simp] theorem veOf_modI3c (f : I3cS → I3cS) (j : Nat) : (s.modI3c f).veOf j = s.veOf j := rfl
@[simp] theorem veOf_modMirror (f : MirrorS → MirrorS) (j : Nat) : (s.modMirror f).veOf j = s.veOf j := rfl
@[simp] theorem veOf_raise (e : Nat) (j : Nat) : (s.raise e).veOf j = s.veOf j := by unfold State.veOf; rw [raise_ve]
@[simp] theorem veOf_raiseAt (t e : Nat) (j : Nat) : (s.raiseAt t e).veOf j = s.veOf j := by unfold State.veOf; rw [raiseAt_ve]
@[simp] theorem veOf_note (k b : Nat) (j : Nat) : (s.note k b).veOf j = s.veOf j := rfl
@[simp] theorem veOf_setBit (k b : Nat) (v : Bool) (j : Nat) : (s.setBit k b v).veOf j = s.veOf j := by unfold State.veOf; rw [setBit_ve]
@[simp] theorem veOf_flag (k b e : Nat) (j : Nat) : (s.flag k b e).veOf j = s.veOf j := by unfold State.veOf; rw [flag_ve]
@[simp] theorem outOf_wr (k v : Nat) (j : Nat) : (s.wr k v).outOf j = s.outOf j := rfl
@[simp] theorem outOf_addTo (w k d : Nat) (j : Nat) : (s.addTo w k d).outOf j = s.outOf j := rfl
@[simp] theorem outOf_bump (w k : Nat) (j : Nat) : (s.bump w k).outOf j = s.outOf j := rfl
@[simp] theorem outOf_upto (t : Nat) (j : Nat) : (s.upto t).outOf j = s.outOf j := rfl
@[simp] theorem outOf_drawn (j : Nat) : (s.drawn).outOf j = s.outOf j := rfl
@[simp] theorem outOf_store (a n v : Nat) (j : Nat) : (s.store a n v).outOf j = s.outOf j := rfl
@[simp] theorem outOf_modVe (n : Nat) (f : VeRun → VeRun) (j : Nat) : (s.modVe n f).outOf j = s.outOf j := rfl
@[simp] theorem outOf_modIn (n : Nat) (f : InCh → InCh) (j : Nat) : (s.modIn n f).outOf j = s.outOf j := rfl
@[simp] theorem outOf_modFcp (n : Nat) (f : FcpS → FcpS) (j : Nat) : (s.modFcp n f).outOf j = s.outOf j := rfl
@[simp] theorem outOf_modSq (n : Nat) (f : SqS → SqS) (j : Nat) : (s.modSq n f).outOf j = s.outOf j := rfl
@[simp] theorem outOf_modBrk (n : Nat) (f : BrkS → BrkS) (j : Nat) : (s.modBrk n f).outOf j = s.outOf j := rfl
@[simp] theorem outOf_modTgt (n : Nat) (f : TgtS → TgtS) (j : Nat) : (s.modTgt n f).outOf j = s.outOf j := rfl
@[simp] theorem outOf_modDsp (n : Nat) (f : DspRun → DspRun) (j : Nat) : (s.modDsp n f).outOf j = s.outOf j := rfl
@[simp] theorem outOf_modFacet (n : Nat) (f : FacetS → FacetS) (j : Nat) : (s.modFacet n f).outOf j = s.outOf j := rfl
@[simp] theorem outOf_modPane (n : Nat) (f : PaneS → PaneS) (j : Nat) : (s.modPane n f).outOf j = s.outOf j := rfl
@[simp] theorem outOf_modBank (n : Nat) (f : BankS → BankS) (j : Nat) : (s.modBank n f).outOf j = s.outOf j := rfl
@[simp] theorem outOf_modDmc (n : Nat) (f : DmcS → DmcS) (j : Nat) : (s.modDmc n f).outOf j = s.outOf j := rfl
@[simp] theorem outOf_modLane (n : Nat) (f : LaneS → LaneS) (j : Nat) : (s.modLane n f).outOf j = s.outOf j := rfl
@[simp] theorem outOf_modTmu (f : TmuS → TmuS) (j : Nat) : (s.modTmu f).outOf j = s.outOf j := rfl
@[simp] theorem outOf_modLaneTime (n : Nat) (f : LaneTime → LaneTime) (j : Nat) : (s.modLaneTime n f).outOf j = s.outOf j := rfl
@[simp] theorem outOf_modTrg (n : Nat) (f : TrgS → TrgS) (j : Nat) : (s.modTrg n f).outOf j = s.outOf j := rfl
@[simp] theorem outOf_modCap (n : Nat) (f : CapS → CapS) (j : Nat) : (s.modCap n f).outOf j = s.outOf j := rfl
@[simp] theorem outOf_modMaster (n : Nat) (f : MasterS → MasterS) (j : Nat) : (s.modMaster n f).outOf j = s.outOf j := rfl
@[simp] theorem outOf_modSlot (n : Nat) (f : SlotS → SlotS) (j : Nat) : (s.modSlot n f).outOf j = s.outOf j := rfl
@[simp] theorem outOf_modI3c (f : I3cS → I3cS) (j : Nat) : (s.modI3c f).outOf j = s.outOf j := rfl
@[simp] theorem outOf_modMirror (f : MirrorS → MirrorS) (j : Nat) : (s.modMirror f).outOf j = s.outOf j := rfl
@[simp] theorem outOf_raise (e : Nat) (j : Nat) : (s.raise e).outOf j = s.outOf j := by unfold State.outOf; rw [raise_outCh]
@[simp] theorem outOf_raiseAt (t e : Nat) (j : Nat) : (s.raiseAt t e).outOf j = s.outOf j := by unfold State.outOf; rw [raiseAt_outCh]
@[simp] theorem outOf_note (k b : Nat) (j : Nat) : (s.note k b).outOf j = s.outOf j := rfl
@[simp] theorem outOf_setBit (k b : Nat) (v : Bool) (j : Nat) : (s.setBit k b v).outOf j = s.outOf j := by unfold State.outOf; rw [setBit_outCh]
@[simp] theorem outOf_flag (k b e : Nat) (j : Nat) : (s.flag k b e).outOf j = s.outOf j := by unfold State.outOf; rw [flag_outCh]
@[simp] theorem inOf_wr (k v : Nat) (j : Nat) : (s.wr k v).inOf j = s.inOf j := rfl
@[simp] theorem inOf_addTo (w k d : Nat) (j : Nat) : (s.addTo w k d).inOf j = s.inOf j := rfl
@[simp] theorem inOf_bump (w k : Nat) (j : Nat) : (s.bump w k).inOf j = s.inOf j := rfl
@[simp] theorem inOf_upto (t : Nat) (j : Nat) : (s.upto t).inOf j = s.inOf j := rfl
@[simp] theorem inOf_drawn (j : Nat) : (s.drawn).inOf j = s.inOf j := rfl
@[simp] theorem inOf_store (a n v : Nat) (j : Nat) : (s.store a n v).inOf j = s.inOf j := rfl
@[simp] theorem inOf_modVe (n : Nat) (f : VeRun → VeRun) (j : Nat) : (s.modVe n f).inOf j = s.inOf j := rfl
@[simp] theorem inOf_modOut (n : Nat) (f : OutCh → OutCh) (j : Nat) : (s.modOut n f).inOf j = s.inOf j := rfl
@[simp] theorem inOf_modFcp (n : Nat) (f : FcpS → FcpS) (j : Nat) : (s.modFcp n f).inOf j = s.inOf j := rfl
@[simp] theorem inOf_modSq (n : Nat) (f : SqS → SqS) (j : Nat) : (s.modSq n f).inOf j = s.inOf j := rfl
@[simp] theorem inOf_modBrk (n : Nat) (f : BrkS → BrkS) (j : Nat) : (s.modBrk n f).inOf j = s.inOf j := rfl
@[simp] theorem inOf_modTgt (n : Nat) (f : TgtS → TgtS) (j : Nat) : (s.modTgt n f).inOf j = s.inOf j := rfl
@[simp] theorem inOf_modDsp (n : Nat) (f : DspRun → DspRun) (j : Nat) : (s.modDsp n f).inOf j = s.inOf j := rfl
@[simp] theorem inOf_modFacet (n : Nat) (f : FacetS → FacetS) (j : Nat) : (s.modFacet n f).inOf j = s.inOf j := rfl
@[simp] theorem inOf_modPane (n : Nat) (f : PaneS → PaneS) (j : Nat) : (s.modPane n f).inOf j = s.inOf j := rfl
@[simp] theorem inOf_modBank (n : Nat) (f : BankS → BankS) (j : Nat) : (s.modBank n f).inOf j = s.inOf j := rfl
@[simp] theorem inOf_modDmc (n : Nat) (f : DmcS → DmcS) (j : Nat) : (s.modDmc n f).inOf j = s.inOf j := rfl
@[simp] theorem inOf_modLane (n : Nat) (f : LaneS → LaneS) (j : Nat) : (s.modLane n f).inOf j = s.inOf j := rfl
@[simp] theorem inOf_modTmu (f : TmuS → TmuS) (j : Nat) : (s.modTmu f).inOf j = s.inOf j := rfl
@[simp] theorem inOf_modLaneTime (n : Nat) (f : LaneTime → LaneTime) (j : Nat) : (s.modLaneTime n f).inOf j = s.inOf j := rfl
@[simp] theorem inOf_modTrg (n : Nat) (f : TrgS → TrgS) (j : Nat) : (s.modTrg n f).inOf j = s.inOf j := rfl
@[simp] theorem inOf_modCap (n : Nat) (f : CapS → CapS) (j : Nat) : (s.modCap n f).inOf j = s.inOf j := rfl
@[simp] theorem inOf_modMaster (n : Nat) (f : MasterS → MasterS) (j : Nat) : (s.modMaster n f).inOf j = s.inOf j := rfl
@[simp] theorem inOf_modSlot (n : Nat) (f : SlotS → SlotS) (j : Nat) : (s.modSlot n f).inOf j = s.inOf j := rfl
@[simp] theorem inOf_modI3c (f : I3cS → I3cS) (j : Nat) : (s.modI3c f).inOf j = s.inOf j := rfl
@[simp] theorem inOf_modMirror (f : MirrorS → MirrorS) (j : Nat) : (s.modMirror f).inOf j = s.inOf j := rfl
@[simp] theorem inOf_raise (e : Nat) (j : Nat) : (s.raise e).inOf j = s.inOf j := by unfold State.inOf; rw [raise_inCh]
@[simp] theorem inOf_raiseAt (t e : Nat) (j : Nat) : (s.raiseAt t e).inOf j = s.inOf j := by unfold State.inOf; rw [raiseAt_inCh]
@[simp] theorem inOf_note (k b : Nat) (j : Nat) : (s.note k b).inOf j = s.inOf j := rfl
@[simp] theorem inOf_setBit (k b : Nat) (v : Bool) (j : Nat) : (s.setBit k b v).inOf j = s.inOf j := by unfold State.inOf; rw [setBit_inCh]
@[simp] theorem inOf_flag (k b e : Nat) (j : Nat) : (s.flag k b e).inOf j = s.inOf j := by unfold State.inOf; rw [flag_inCh]
@[simp] theorem fcpOf_wr (k v : Nat) (j : Nat) : (s.wr k v).fcpOf j = s.fcpOf j := rfl
@[simp] theorem fcpOf_addTo (w k d : Nat) (j : Nat) : (s.addTo w k d).fcpOf j = s.fcpOf j := rfl
@[simp] theorem fcpOf_bump (w k : Nat) (j : Nat) : (s.bump w k).fcpOf j = s.fcpOf j := rfl
@[simp] theorem fcpOf_upto (t : Nat) (j : Nat) : (s.upto t).fcpOf j = s.fcpOf j := rfl
@[simp] theorem fcpOf_drawn (j : Nat) : (s.drawn).fcpOf j = s.fcpOf j := rfl
@[simp] theorem fcpOf_store (a n v : Nat) (j : Nat) : (s.store a n v).fcpOf j = s.fcpOf j := rfl
@[simp] theorem fcpOf_modVe (n : Nat) (f : VeRun → VeRun) (j : Nat) : (s.modVe n f).fcpOf j = s.fcpOf j := rfl
@[simp] theorem fcpOf_modOut (n : Nat) (f : OutCh → OutCh) (j : Nat) : (s.modOut n f).fcpOf j = s.fcpOf j := rfl
@[simp] theorem fcpOf_modIn (n : Nat) (f : InCh → InCh) (j : Nat) : (s.modIn n f).fcpOf j = s.fcpOf j := rfl
@[simp] theorem fcpOf_modSq (n : Nat) (f : SqS → SqS) (j : Nat) : (s.modSq n f).fcpOf j = s.fcpOf j := rfl
@[simp] theorem fcpOf_modBrk (n : Nat) (f : BrkS → BrkS) (j : Nat) : (s.modBrk n f).fcpOf j = s.fcpOf j := rfl
@[simp] theorem fcpOf_modTgt (n : Nat) (f : TgtS → TgtS) (j : Nat) : (s.modTgt n f).fcpOf j = s.fcpOf j := rfl
@[simp] theorem fcpOf_modDsp (n : Nat) (f : DspRun → DspRun) (j : Nat) : (s.modDsp n f).fcpOf j = s.fcpOf j := rfl
@[simp] theorem fcpOf_modFacet (n : Nat) (f : FacetS → FacetS) (j : Nat) : (s.modFacet n f).fcpOf j = s.fcpOf j := rfl
@[simp] theorem fcpOf_modPane (n : Nat) (f : PaneS → PaneS) (j : Nat) : (s.modPane n f).fcpOf j = s.fcpOf j := rfl
@[simp] theorem fcpOf_modBank (n : Nat) (f : BankS → BankS) (j : Nat) : (s.modBank n f).fcpOf j = s.fcpOf j := rfl
@[simp] theorem fcpOf_modDmc (n : Nat) (f : DmcS → DmcS) (j : Nat) : (s.modDmc n f).fcpOf j = s.fcpOf j := rfl
@[simp] theorem fcpOf_modLane (n : Nat) (f : LaneS → LaneS) (j : Nat) : (s.modLane n f).fcpOf j = s.fcpOf j := rfl
@[simp] theorem fcpOf_modTmu (f : TmuS → TmuS) (j : Nat) : (s.modTmu f).fcpOf j = s.fcpOf j := rfl
@[simp] theorem fcpOf_modLaneTime (n : Nat) (f : LaneTime → LaneTime) (j : Nat) : (s.modLaneTime n f).fcpOf j = s.fcpOf j := rfl
@[simp] theorem fcpOf_modTrg (n : Nat) (f : TrgS → TrgS) (j : Nat) : (s.modTrg n f).fcpOf j = s.fcpOf j := rfl
@[simp] theorem fcpOf_modCap (n : Nat) (f : CapS → CapS) (j : Nat) : (s.modCap n f).fcpOf j = s.fcpOf j := rfl
@[simp] theorem fcpOf_modMaster (n : Nat) (f : MasterS → MasterS) (j : Nat) : (s.modMaster n f).fcpOf j = s.fcpOf j := rfl
@[simp] theorem fcpOf_modSlot (n : Nat) (f : SlotS → SlotS) (j : Nat) : (s.modSlot n f).fcpOf j = s.fcpOf j := rfl
@[simp] theorem fcpOf_modI3c (f : I3cS → I3cS) (j : Nat) : (s.modI3c f).fcpOf j = s.fcpOf j := rfl
@[simp] theorem fcpOf_modMirror (f : MirrorS → MirrorS) (j : Nat) : (s.modMirror f).fcpOf j = s.fcpOf j := rfl
@[simp] theorem fcpOf_raise (e : Nat) (j : Nat) : (s.raise e).fcpOf j = s.fcpOf j := by unfold State.fcpOf; rw [raise_fcp]
@[simp] theorem fcpOf_raiseAt (t e : Nat) (j : Nat) : (s.raiseAt t e).fcpOf j = s.fcpOf j := by unfold State.fcpOf; rw [raiseAt_fcp]
@[simp] theorem fcpOf_note (k b : Nat) (j : Nat) : (s.note k b).fcpOf j = s.fcpOf j := rfl
@[simp] theorem fcpOf_setBit (k b : Nat) (v : Bool) (j : Nat) : (s.setBit k b v).fcpOf j = s.fcpOf j := by unfold State.fcpOf; rw [setBit_fcp]
@[simp] theorem fcpOf_flag (k b e : Nat) (j : Nat) : (s.flag k b e).fcpOf j = s.fcpOf j := by unfold State.fcpOf; rw [flag_fcp]
@[simp] theorem sqOf_wr (k v : Nat) (j : Nat) : (s.wr k v).sqOf j = s.sqOf j := rfl
@[simp] theorem sqOf_addTo (w k d : Nat) (j : Nat) : (s.addTo w k d).sqOf j = s.sqOf j := rfl
@[simp] theorem sqOf_bump (w k : Nat) (j : Nat) : (s.bump w k).sqOf j = s.sqOf j := rfl
@[simp] theorem sqOf_upto (t : Nat) (j : Nat) : (s.upto t).sqOf j = s.sqOf j := rfl
@[simp] theorem sqOf_drawn (j : Nat) : (s.drawn).sqOf j = s.sqOf j := rfl
@[simp] theorem sqOf_store (a n v : Nat) (j : Nat) : (s.store a n v).sqOf j = s.sqOf j := rfl
@[simp] theorem sqOf_modVe (n : Nat) (f : VeRun → VeRun) (j : Nat) : (s.modVe n f).sqOf j = s.sqOf j := rfl
@[simp] theorem sqOf_modOut (n : Nat) (f : OutCh → OutCh) (j : Nat) : (s.modOut n f).sqOf j = s.sqOf j := rfl
@[simp] theorem sqOf_modIn (n : Nat) (f : InCh → InCh) (j : Nat) : (s.modIn n f).sqOf j = s.sqOf j := rfl
@[simp] theorem sqOf_modFcp (n : Nat) (f : FcpS → FcpS) (j : Nat) : (s.modFcp n f).sqOf j = s.sqOf j := rfl
@[simp] theorem sqOf_modBrk (n : Nat) (f : BrkS → BrkS) (j : Nat) : (s.modBrk n f).sqOf j = s.sqOf j := rfl
@[simp] theorem sqOf_modTgt (n : Nat) (f : TgtS → TgtS) (j : Nat) : (s.modTgt n f).sqOf j = s.sqOf j := rfl
@[simp] theorem sqOf_modDsp (n : Nat) (f : DspRun → DspRun) (j : Nat) : (s.modDsp n f).sqOf j = s.sqOf j := rfl
@[simp] theorem sqOf_modFacet (n : Nat) (f : FacetS → FacetS) (j : Nat) : (s.modFacet n f).sqOf j = s.sqOf j := rfl
@[simp] theorem sqOf_modPane (n : Nat) (f : PaneS → PaneS) (j : Nat) : (s.modPane n f).sqOf j = s.sqOf j := rfl
@[simp] theorem sqOf_modBank (n : Nat) (f : BankS → BankS) (j : Nat) : (s.modBank n f).sqOf j = s.sqOf j := rfl
@[simp] theorem sqOf_modDmc (n : Nat) (f : DmcS → DmcS) (j : Nat) : (s.modDmc n f).sqOf j = s.sqOf j := rfl
@[simp] theorem sqOf_modLane (n : Nat) (f : LaneS → LaneS) (j : Nat) : (s.modLane n f).sqOf j = s.sqOf j := rfl
@[simp] theorem sqOf_modTmu (f : TmuS → TmuS) (j : Nat) : (s.modTmu f).sqOf j = s.sqOf j := rfl
@[simp] theorem sqOf_modLaneTime (n : Nat) (f : LaneTime → LaneTime) (j : Nat) : (s.modLaneTime n f).sqOf j = s.sqOf j := rfl
@[simp] theorem sqOf_modTrg (n : Nat) (f : TrgS → TrgS) (j : Nat) : (s.modTrg n f).sqOf j = s.sqOf j := rfl
@[simp] theorem sqOf_modCap (n : Nat) (f : CapS → CapS) (j : Nat) : (s.modCap n f).sqOf j = s.sqOf j := rfl
@[simp] theorem sqOf_modMaster (n : Nat) (f : MasterS → MasterS) (j : Nat) : (s.modMaster n f).sqOf j = s.sqOf j := rfl
@[simp] theorem sqOf_modSlot (n : Nat) (f : SlotS → SlotS) (j : Nat) : (s.modSlot n f).sqOf j = s.sqOf j := rfl
@[simp] theorem sqOf_modI3c (f : I3cS → I3cS) (j : Nat) : (s.modI3c f).sqOf j = s.sqOf j := rfl
@[simp] theorem sqOf_modMirror (f : MirrorS → MirrorS) (j : Nat) : (s.modMirror f).sqOf j = s.sqOf j := rfl
@[simp] theorem sqOf_raise (e : Nat) (j : Nat) : (s.raise e).sqOf j = s.sqOf j := by unfold State.sqOf; rw [raise_sq]
@[simp] theorem sqOf_raiseAt (t e : Nat) (j : Nat) : (s.raiseAt t e).sqOf j = s.sqOf j := by unfold State.sqOf; rw [raiseAt_sq]
@[simp] theorem sqOf_note (k b : Nat) (j : Nat) : (s.note k b).sqOf j = s.sqOf j := rfl
@[simp] theorem sqOf_setBit (k b : Nat) (v : Bool) (j : Nat) : (s.setBit k b v).sqOf j = s.sqOf j := by unfold State.sqOf; rw [setBit_sq]
@[simp] theorem sqOf_flag (k b e : Nat) (j : Nat) : (s.flag k b e).sqOf j = s.sqOf j := by unfold State.sqOf; rw [flag_sq]
@[simp] theorem brkOf_wr (k v : Nat) (j : Nat) : (s.wr k v).brkOf j = s.brkOf j := rfl
@[simp] theorem brkOf_addTo (w k d : Nat) (j : Nat) : (s.addTo w k d).brkOf j = s.brkOf j := rfl
@[simp] theorem brkOf_bump (w k : Nat) (j : Nat) : (s.bump w k).brkOf j = s.brkOf j := rfl
@[simp] theorem brkOf_upto (t : Nat) (j : Nat) : (s.upto t).brkOf j = s.brkOf j := rfl
@[simp] theorem brkOf_drawn (j : Nat) : (s.drawn).brkOf j = s.brkOf j := rfl
@[simp] theorem brkOf_store (a n v : Nat) (j : Nat) : (s.store a n v).brkOf j = s.brkOf j := rfl
@[simp] theorem brkOf_modVe (n : Nat) (f : VeRun → VeRun) (j : Nat) : (s.modVe n f).brkOf j = s.brkOf j := rfl
@[simp] theorem brkOf_modOut (n : Nat) (f : OutCh → OutCh) (j : Nat) : (s.modOut n f).brkOf j = s.brkOf j := rfl
@[simp] theorem brkOf_modIn (n : Nat) (f : InCh → InCh) (j : Nat) : (s.modIn n f).brkOf j = s.brkOf j := rfl
@[simp] theorem brkOf_modFcp (n : Nat) (f : FcpS → FcpS) (j : Nat) : (s.modFcp n f).brkOf j = s.brkOf j := rfl
@[simp] theorem brkOf_modSq (n : Nat) (f : SqS → SqS) (j : Nat) : (s.modSq n f).brkOf j = s.brkOf j := rfl
@[simp] theorem brkOf_modTgt (n : Nat) (f : TgtS → TgtS) (j : Nat) : (s.modTgt n f).brkOf j = s.brkOf j := rfl
@[simp] theorem brkOf_modDsp (n : Nat) (f : DspRun → DspRun) (j : Nat) : (s.modDsp n f).brkOf j = s.brkOf j := rfl
@[simp] theorem brkOf_modFacet (n : Nat) (f : FacetS → FacetS) (j : Nat) : (s.modFacet n f).brkOf j = s.brkOf j := rfl
@[simp] theorem brkOf_modPane (n : Nat) (f : PaneS → PaneS) (j : Nat) : (s.modPane n f).brkOf j = s.brkOf j := rfl
@[simp] theorem brkOf_modBank (n : Nat) (f : BankS → BankS) (j : Nat) : (s.modBank n f).brkOf j = s.brkOf j := rfl
@[simp] theorem brkOf_modDmc (n : Nat) (f : DmcS → DmcS) (j : Nat) : (s.modDmc n f).brkOf j = s.brkOf j := rfl
@[simp] theorem brkOf_modLane (n : Nat) (f : LaneS → LaneS) (j : Nat) : (s.modLane n f).brkOf j = s.brkOf j := rfl
@[simp] theorem brkOf_modTmu (f : TmuS → TmuS) (j : Nat) : (s.modTmu f).brkOf j = s.brkOf j := rfl
@[simp] theorem brkOf_modLaneTime (n : Nat) (f : LaneTime → LaneTime) (j : Nat) : (s.modLaneTime n f).brkOf j = s.brkOf j := rfl
@[simp] theorem brkOf_modTrg (n : Nat) (f : TrgS → TrgS) (j : Nat) : (s.modTrg n f).brkOf j = s.brkOf j := rfl
@[simp] theorem brkOf_modCap (n : Nat) (f : CapS → CapS) (j : Nat) : (s.modCap n f).brkOf j = s.brkOf j := rfl
@[simp] theorem brkOf_modMaster (n : Nat) (f : MasterS → MasterS) (j : Nat) : (s.modMaster n f).brkOf j = s.brkOf j := rfl
@[simp] theorem brkOf_modSlot (n : Nat) (f : SlotS → SlotS) (j : Nat) : (s.modSlot n f).brkOf j = s.brkOf j := rfl
@[simp] theorem brkOf_modI3c (f : I3cS → I3cS) (j : Nat) : (s.modI3c f).brkOf j = s.brkOf j := rfl
@[simp] theorem brkOf_modMirror (f : MirrorS → MirrorS) (j : Nat) : (s.modMirror f).brkOf j = s.brkOf j := rfl
@[simp] theorem brkOf_raise (e : Nat) (j : Nat) : (s.raise e).brkOf j = s.brkOf j := by unfold State.brkOf; rw [raise_brk]
@[simp] theorem brkOf_raiseAt (t e : Nat) (j : Nat) : (s.raiseAt t e).brkOf j = s.brkOf j := by unfold State.brkOf; rw [raiseAt_brk]
@[simp] theorem brkOf_note (k b : Nat) (j : Nat) : (s.note k b).brkOf j = s.brkOf j := rfl
@[simp] theorem brkOf_setBit (k b : Nat) (v : Bool) (j : Nat) : (s.setBit k b v).brkOf j = s.brkOf j := by unfold State.brkOf; rw [setBit_brk]
@[simp] theorem brkOf_flag (k b e : Nat) (j : Nat) : (s.flag k b e).brkOf j = s.brkOf j := by unfold State.brkOf; rw [flag_brk]
@[simp] theorem tgtOf_wr (k v : Nat) (j : Nat) : (s.wr k v).tgtOf j = s.tgtOf j := rfl
@[simp] theorem tgtOf_addTo (w k d : Nat) (j : Nat) : (s.addTo w k d).tgtOf j = s.tgtOf j := rfl
@[simp] theorem tgtOf_bump (w k : Nat) (j : Nat) : (s.bump w k).tgtOf j = s.tgtOf j := rfl
@[simp] theorem tgtOf_upto (t : Nat) (j : Nat) : (s.upto t).tgtOf j = s.tgtOf j := rfl
@[simp] theorem tgtOf_drawn (j : Nat) : (s.drawn).tgtOf j = s.tgtOf j := rfl
@[simp] theorem tgtOf_store (a n v : Nat) (j : Nat) : (s.store a n v).tgtOf j = s.tgtOf j := rfl
@[simp] theorem tgtOf_modVe (n : Nat) (f : VeRun → VeRun) (j : Nat) : (s.modVe n f).tgtOf j = s.tgtOf j := rfl
@[simp] theorem tgtOf_modOut (n : Nat) (f : OutCh → OutCh) (j : Nat) : (s.modOut n f).tgtOf j = s.tgtOf j := rfl
@[simp] theorem tgtOf_modIn (n : Nat) (f : InCh → InCh) (j : Nat) : (s.modIn n f).tgtOf j = s.tgtOf j := rfl
@[simp] theorem tgtOf_modFcp (n : Nat) (f : FcpS → FcpS) (j : Nat) : (s.modFcp n f).tgtOf j = s.tgtOf j := rfl
@[simp] theorem tgtOf_modSq (n : Nat) (f : SqS → SqS) (j : Nat) : (s.modSq n f).tgtOf j = s.tgtOf j := rfl
@[simp] theorem tgtOf_modBrk (n : Nat) (f : BrkS → BrkS) (j : Nat) : (s.modBrk n f).tgtOf j = s.tgtOf j := rfl
@[simp] theorem tgtOf_modDsp (n : Nat) (f : DspRun → DspRun) (j : Nat) : (s.modDsp n f).tgtOf j = s.tgtOf j := rfl
@[simp] theorem tgtOf_modFacet (n : Nat) (f : FacetS → FacetS) (j : Nat) : (s.modFacet n f).tgtOf j = s.tgtOf j := rfl
@[simp] theorem tgtOf_modPane (n : Nat) (f : PaneS → PaneS) (j : Nat) : (s.modPane n f).tgtOf j = s.tgtOf j := rfl
@[simp] theorem tgtOf_modBank (n : Nat) (f : BankS → BankS) (j : Nat) : (s.modBank n f).tgtOf j = s.tgtOf j := rfl
@[simp] theorem tgtOf_modDmc (n : Nat) (f : DmcS → DmcS) (j : Nat) : (s.modDmc n f).tgtOf j = s.tgtOf j := rfl
@[simp] theorem tgtOf_modLane (n : Nat) (f : LaneS → LaneS) (j : Nat) : (s.modLane n f).tgtOf j = s.tgtOf j := rfl
@[simp] theorem tgtOf_modTmu (f : TmuS → TmuS) (j : Nat) : (s.modTmu f).tgtOf j = s.tgtOf j := rfl
@[simp] theorem tgtOf_modLaneTime (n : Nat) (f : LaneTime → LaneTime) (j : Nat) : (s.modLaneTime n f).tgtOf j = s.tgtOf j := rfl
@[simp] theorem tgtOf_modTrg (n : Nat) (f : TrgS → TrgS) (j : Nat) : (s.modTrg n f).tgtOf j = s.tgtOf j := rfl
@[simp] theorem tgtOf_modCap (n : Nat) (f : CapS → CapS) (j : Nat) : (s.modCap n f).tgtOf j = s.tgtOf j := rfl
@[simp] theorem tgtOf_modMaster (n : Nat) (f : MasterS → MasterS) (j : Nat) : (s.modMaster n f).tgtOf j = s.tgtOf j := rfl
@[simp] theorem tgtOf_modSlot (n : Nat) (f : SlotS → SlotS) (j : Nat) : (s.modSlot n f).tgtOf j = s.tgtOf j := rfl
@[simp] theorem tgtOf_modI3c (f : I3cS → I3cS) (j : Nat) : (s.modI3c f).tgtOf j = s.tgtOf j := rfl
@[simp] theorem tgtOf_modMirror (f : MirrorS → MirrorS) (j : Nat) : (s.modMirror f).tgtOf j = s.tgtOf j := rfl
@[simp] theorem tgtOf_raise (e : Nat) (j : Nat) : (s.raise e).tgtOf j = s.tgtOf j := by unfold State.tgtOf; rw [raise_tgt]
@[simp] theorem tgtOf_raiseAt (t e : Nat) (j : Nat) : (s.raiseAt t e).tgtOf j = s.tgtOf j := by unfold State.tgtOf; rw [raiseAt_tgt]
@[simp] theorem tgtOf_note (k b : Nat) (j : Nat) : (s.note k b).tgtOf j = s.tgtOf j := rfl
@[simp] theorem tgtOf_setBit (k b : Nat) (v : Bool) (j : Nat) : (s.setBit k b v).tgtOf j = s.tgtOf j := by unfold State.tgtOf; rw [setBit_tgt]
@[simp] theorem tgtOf_flag (k b e : Nat) (j : Nat) : (s.flag k b e).tgtOf j = s.tgtOf j := by unfold State.tgtOf; rw [flag_tgt]
@[simp] theorem dspOf_wr (k v : Nat) (j : Nat) : (s.wr k v).dspOf j = s.dspOf j := rfl
@[simp] theorem dspOf_addTo (w k d : Nat) (j : Nat) : (s.addTo w k d).dspOf j = s.dspOf j := rfl
@[simp] theorem dspOf_bump (w k : Nat) (j : Nat) : (s.bump w k).dspOf j = s.dspOf j := rfl
@[simp] theorem dspOf_upto (t : Nat) (j : Nat) : (s.upto t).dspOf j = s.dspOf j := rfl
@[simp] theorem dspOf_drawn (j : Nat) : (s.drawn).dspOf j = s.dspOf j := rfl
@[simp] theorem dspOf_store (a n v : Nat) (j : Nat) : (s.store a n v).dspOf j = s.dspOf j := rfl
@[simp] theorem dspOf_modVe (n : Nat) (f : VeRun → VeRun) (j : Nat) : (s.modVe n f).dspOf j = s.dspOf j := rfl
@[simp] theorem dspOf_modOut (n : Nat) (f : OutCh → OutCh) (j : Nat) : (s.modOut n f).dspOf j = s.dspOf j := rfl
@[simp] theorem dspOf_modIn (n : Nat) (f : InCh → InCh) (j : Nat) : (s.modIn n f).dspOf j = s.dspOf j := rfl
@[simp] theorem dspOf_modFcp (n : Nat) (f : FcpS → FcpS) (j : Nat) : (s.modFcp n f).dspOf j = s.dspOf j := rfl
@[simp] theorem dspOf_modSq (n : Nat) (f : SqS → SqS) (j : Nat) : (s.modSq n f).dspOf j = s.dspOf j := rfl
@[simp] theorem dspOf_modBrk (n : Nat) (f : BrkS → BrkS) (j : Nat) : (s.modBrk n f).dspOf j = s.dspOf j := rfl
@[simp] theorem dspOf_modTgt (n : Nat) (f : TgtS → TgtS) (j : Nat) : (s.modTgt n f).dspOf j = s.dspOf j := rfl
@[simp] theorem dspOf_modFacet (n : Nat) (f : FacetS → FacetS) (j : Nat) : (s.modFacet n f).dspOf j = s.dspOf j := rfl
@[simp] theorem dspOf_modPane (n : Nat) (f : PaneS → PaneS) (j : Nat) : (s.modPane n f).dspOf j = s.dspOf j := rfl
@[simp] theorem dspOf_modBank (n : Nat) (f : BankS → BankS) (j : Nat) : (s.modBank n f).dspOf j = s.dspOf j := rfl
@[simp] theorem dspOf_modDmc (n : Nat) (f : DmcS → DmcS) (j : Nat) : (s.modDmc n f).dspOf j = s.dspOf j := rfl
@[simp] theorem dspOf_modLane (n : Nat) (f : LaneS → LaneS) (j : Nat) : (s.modLane n f).dspOf j = s.dspOf j := rfl
@[simp] theorem dspOf_modTmu (f : TmuS → TmuS) (j : Nat) : (s.modTmu f).dspOf j = s.dspOf j := rfl
@[simp] theorem dspOf_modLaneTime (n : Nat) (f : LaneTime → LaneTime) (j : Nat) : (s.modLaneTime n f).dspOf j = s.dspOf j := rfl
@[simp] theorem dspOf_modTrg (n : Nat) (f : TrgS → TrgS) (j : Nat) : (s.modTrg n f).dspOf j = s.dspOf j := rfl
@[simp] theorem dspOf_modCap (n : Nat) (f : CapS → CapS) (j : Nat) : (s.modCap n f).dspOf j = s.dspOf j := rfl
@[simp] theorem dspOf_modMaster (n : Nat) (f : MasterS → MasterS) (j : Nat) : (s.modMaster n f).dspOf j = s.dspOf j := rfl
@[simp] theorem dspOf_modSlot (n : Nat) (f : SlotS → SlotS) (j : Nat) : (s.modSlot n f).dspOf j = s.dspOf j := rfl
@[simp] theorem dspOf_modI3c (f : I3cS → I3cS) (j : Nat) : (s.modI3c f).dspOf j = s.dspOf j := rfl
@[simp] theorem dspOf_modMirror (f : MirrorS → MirrorS) (j : Nat) : (s.modMirror f).dspOf j = s.dspOf j := rfl
@[simp] theorem dspOf_raise (e : Nat) (j : Nat) : (s.raise e).dspOf j = s.dspOf j := by unfold State.dspOf; rw [raise_dsp]
@[simp] theorem dspOf_raiseAt (t e : Nat) (j : Nat) : (s.raiseAt t e).dspOf j = s.dspOf j := by unfold State.dspOf; rw [raiseAt_dsp]
@[simp] theorem dspOf_note (k b : Nat) (j : Nat) : (s.note k b).dspOf j = s.dspOf j := rfl
@[simp] theorem dspOf_setBit (k b : Nat) (v : Bool) (j : Nat) : (s.setBit k b v).dspOf j = s.dspOf j := by unfold State.dspOf; rw [setBit_dsp]
@[simp] theorem dspOf_flag (k b e : Nat) (j : Nat) : (s.flag k b e).dspOf j = s.dspOf j := by unfold State.dspOf; rw [flag_dsp]
@[simp] theorem facetOf_wr (k v : Nat) (j : Nat) : (s.wr k v).facetOf j = s.facetOf j := rfl
@[simp] theorem facetOf_addTo (w k d : Nat) (j : Nat) : (s.addTo w k d).facetOf j = s.facetOf j := rfl
@[simp] theorem facetOf_bump (w k : Nat) (j : Nat) : (s.bump w k).facetOf j = s.facetOf j := rfl
@[simp] theorem facetOf_upto (t : Nat) (j : Nat) : (s.upto t).facetOf j = s.facetOf j := rfl
@[simp] theorem facetOf_drawn (j : Nat) : (s.drawn).facetOf j = s.facetOf j := rfl
@[simp] theorem facetOf_store (a n v : Nat) (j : Nat) : (s.store a n v).facetOf j = s.facetOf j := rfl
@[simp] theorem facetOf_modVe (n : Nat) (f : VeRun → VeRun) (j : Nat) : (s.modVe n f).facetOf j = s.facetOf j := rfl
@[simp] theorem facetOf_modOut (n : Nat) (f : OutCh → OutCh) (j : Nat) : (s.modOut n f).facetOf j = s.facetOf j := rfl
@[simp] theorem facetOf_modIn (n : Nat) (f : InCh → InCh) (j : Nat) : (s.modIn n f).facetOf j = s.facetOf j := rfl
@[simp] theorem facetOf_modFcp (n : Nat) (f : FcpS → FcpS) (j : Nat) : (s.modFcp n f).facetOf j = s.facetOf j := rfl
@[simp] theorem facetOf_modSq (n : Nat) (f : SqS → SqS) (j : Nat) : (s.modSq n f).facetOf j = s.facetOf j := rfl
@[simp] theorem facetOf_modBrk (n : Nat) (f : BrkS → BrkS) (j : Nat) : (s.modBrk n f).facetOf j = s.facetOf j := rfl
@[simp] theorem facetOf_modTgt (n : Nat) (f : TgtS → TgtS) (j : Nat) : (s.modTgt n f).facetOf j = s.facetOf j := rfl
@[simp] theorem facetOf_modDsp (n : Nat) (f : DspRun → DspRun) (j : Nat) : (s.modDsp n f).facetOf j = s.facetOf j := rfl
@[simp] theorem facetOf_modPane (n : Nat) (f : PaneS → PaneS) (j : Nat) : (s.modPane n f).facetOf j = s.facetOf j := rfl
@[simp] theorem facetOf_modBank (n : Nat) (f : BankS → BankS) (j : Nat) : (s.modBank n f).facetOf j = s.facetOf j := rfl
@[simp] theorem facetOf_modDmc (n : Nat) (f : DmcS → DmcS) (j : Nat) : (s.modDmc n f).facetOf j = s.facetOf j := rfl
@[simp] theorem facetOf_modLane (n : Nat) (f : LaneS → LaneS) (j : Nat) : (s.modLane n f).facetOf j = s.facetOf j := rfl
@[simp] theorem facetOf_modTmu (f : TmuS → TmuS) (j : Nat) : (s.modTmu f).facetOf j = s.facetOf j := rfl
@[simp] theorem facetOf_modLaneTime (n : Nat) (f : LaneTime → LaneTime) (j : Nat) : (s.modLaneTime n f).facetOf j = s.facetOf j := rfl
@[simp] theorem facetOf_modTrg (n : Nat) (f : TrgS → TrgS) (j : Nat) : (s.modTrg n f).facetOf j = s.facetOf j := rfl
@[simp] theorem facetOf_modCap (n : Nat) (f : CapS → CapS) (j : Nat) : (s.modCap n f).facetOf j = s.facetOf j := rfl
@[simp] theorem facetOf_modMaster (n : Nat) (f : MasterS → MasterS) (j : Nat) : (s.modMaster n f).facetOf j = s.facetOf j := rfl
@[simp] theorem facetOf_modSlot (n : Nat) (f : SlotS → SlotS) (j : Nat) : (s.modSlot n f).facetOf j = s.facetOf j := rfl
@[simp] theorem facetOf_modI3c (f : I3cS → I3cS) (j : Nat) : (s.modI3c f).facetOf j = s.facetOf j := rfl
@[simp] theorem facetOf_modMirror (f : MirrorS → MirrorS) (j : Nat) : (s.modMirror f).facetOf j = s.facetOf j := rfl
@[simp] theorem facetOf_raise (e : Nat) (j : Nat) : (s.raise e).facetOf j = s.facetOf j := by unfold State.facetOf; rw [raise_facets]
@[simp] theorem facetOf_raiseAt (t e : Nat) (j : Nat) : (s.raiseAt t e).facetOf j = s.facetOf j := by unfold State.facetOf; rw [raiseAt_facets]
@[simp] theorem facetOf_note (k b : Nat) (j : Nat) : (s.note k b).facetOf j = s.facetOf j := rfl
@[simp] theorem facetOf_setBit (k b : Nat) (v : Bool) (j : Nat) : (s.setBit k b v).facetOf j = s.facetOf j := by unfold State.facetOf; rw [setBit_facets]
@[simp] theorem facetOf_flag (k b e : Nat) (j : Nat) : (s.flag k b e).facetOf j = s.facetOf j := by unfold State.facetOf; rw [flag_facets]
@[simp] theorem paneOf_wr (k v : Nat) (j : Nat) : (s.wr k v).paneOf j = s.paneOf j := rfl
@[simp] theorem paneOf_addTo (w k d : Nat) (j : Nat) : (s.addTo w k d).paneOf j = s.paneOf j := rfl
@[simp] theorem paneOf_bump (w k : Nat) (j : Nat) : (s.bump w k).paneOf j = s.paneOf j := rfl
@[simp] theorem paneOf_upto (t : Nat) (j : Nat) : (s.upto t).paneOf j = s.paneOf j := rfl
@[simp] theorem paneOf_drawn (j : Nat) : (s.drawn).paneOf j = s.paneOf j := rfl
@[simp] theorem paneOf_store (a n v : Nat) (j : Nat) : (s.store a n v).paneOf j = s.paneOf j := rfl
@[simp] theorem paneOf_modVe (n : Nat) (f : VeRun → VeRun) (j : Nat) : (s.modVe n f).paneOf j = s.paneOf j := rfl
@[simp] theorem paneOf_modOut (n : Nat) (f : OutCh → OutCh) (j : Nat) : (s.modOut n f).paneOf j = s.paneOf j := rfl
@[simp] theorem paneOf_modIn (n : Nat) (f : InCh → InCh) (j : Nat) : (s.modIn n f).paneOf j = s.paneOf j := rfl
@[simp] theorem paneOf_modFcp (n : Nat) (f : FcpS → FcpS) (j : Nat) : (s.modFcp n f).paneOf j = s.paneOf j := rfl
@[simp] theorem paneOf_modSq (n : Nat) (f : SqS → SqS) (j : Nat) : (s.modSq n f).paneOf j = s.paneOf j := rfl
@[simp] theorem paneOf_modBrk (n : Nat) (f : BrkS → BrkS) (j : Nat) : (s.modBrk n f).paneOf j = s.paneOf j := rfl
@[simp] theorem paneOf_modTgt (n : Nat) (f : TgtS → TgtS) (j : Nat) : (s.modTgt n f).paneOf j = s.paneOf j := rfl
@[simp] theorem paneOf_modDsp (n : Nat) (f : DspRun → DspRun) (j : Nat) : (s.modDsp n f).paneOf j = s.paneOf j := rfl
@[simp] theorem paneOf_modFacet (n : Nat) (f : FacetS → FacetS) (j : Nat) : (s.modFacet n f).paneOf j = s.paneOf j := rfl
@[simp] theorem paneOf_modBank (n : Nat) (f : BankS → BankS) (j : Nat) : (s.modBank n f).paneOf j = s.paneOf j := rfl
@[simp] theorem paneOf_modDmc (n : Nat) (f : DmcS → DmcS) (j : Nat) : (s.modDmc n f).paneOf j = s.paneOf j := rfl
@[simp] theorem paneOf_modLane (n : Nat) (f : LaneS → LaneS) (j : Nat) : (s.modLane n f).paneOf j = s.paneOf j := rfl
@[simp] theorem paneOf_modTmu (f : TmuS → TmuS) (j : Nat) : (s.modTmu f).paneOf j = s.paneOf j := rfl
@[simp] theorem paneOf_modLaneTime (n : Nat) (f : LaneTime → LaneTime) (j : Nat) : (s.modLaneTime n f).paneOf j = s.paneOf j := rfl
@[simp] theorem paneOf_modTrg (n : Nat) (f : TrgS → TrgS) (j : Nat) : (s.modTrg n f).paneOf j = s.paneOf j := rfl
@[simp] theorem paneOf_modCap (n : Nat) (f : CapS → CapS) (j : Nat) : (s.modCap n f).paneOf j = s.paneOf j := rfl
@[simp] theorem paneOf_modMaster (n : Nat) (f : MasterS → MasterS) (j : Nat) : (s.modMaster n f).paneOf j = s.paneOf j := rfl
@[simp] theorem paneOf_modSlot (n : Nat) (f : SlotS → SlotS) (j : Nat) : (s.modSlot n f).paneOf j = s.paneOf j := rfl
@[simp] theorem paneOf_modI3c (f : I3cS → I3cS) (j : Nat) : (s.modI3c f).paneOf j = s.paneOf j := rfl
@[simp] theorem paneOf_modMirror (f : MirrorS → MirrorS) (j : Nat) : (s.modMirror f).paneOf j = s.paneOf j := rfl
@[simp] theorem paneOf_raise (e : Nat) (j : Nat) : (s.raise e).paneOf j = s.paneOf j := by unfold State.paneOf; rw [raise_panes]
@[simp] theorem paneOf_raiseAt (t e : Nat) (j : Nat) : (s.raiseAt t e).paneOf j = s.paneOf j := by unfold State.paneOf; rw [raiseAt_panes]
@[simp] theorem paneOf_note (k b : Nat) (j : Nat) : (s.note k b).paneOf j = s.paneOf j := rfl
@[simp] theorem paneOf_setBit (k b : Nat) (v : Bool) (j : Nat) : (s.setBit k b v).paneOf j = s.paneOf j := by unfold State.paneOf; rw [setBit_panes]
@[simp] theorem paneOf_flag (k b e : Nat) (j : Nat) : (s.flag k b e).paneOf j = s.paneOf j := by unfold State.paneOf; rw [flag_panes]
@[simp] theorem bankOf_wr (k v : Nat) (j : Nat) : (s.wr k v).bankOf j = s.bankOf j := rfl
@[simp] theorem bankOf_addTo (w k d : Nat) (j : Nat) : (s.addTo w k d).bankOf j = s.bankOf j := rfl
@[simp] theorem bankOf_bump (w k : Nat) (j : Nat) : (s.bump w k).bankOf j = s.bankOf j := rfl
@[simp] theorem bankOf_upto (t : Nat) (j : Nat) : (s.upto t).bankOf j = s.bankOf j := rfl
@[simp] theorem bankOf_drawn (j : Nat) : (s.drawn).bankOf j = s.bankOf j := rfl
@[simp] theorem bankOf_store (a n v : Nat) (j : Nat) : (s.store a n v).bankOf j = s.bankOf j := rfl
@[simp] theorem bankOf_modVe (n : Nat) (f : VeRun → VeRun) (j : Nat) : (s.modVe n f).bankOf j = s.bankOf j := rfl
@[simp] theorem bankOf_modOut (n : Nat) (f : OutCh → OutCh) (j : Nat) : (s.modOut n f).bankOf j = s.bankOf j := rfl
@[simp] theorem bankOf_modIn (n : Nat) (f : InCh → InCh) (j : Nat) : (s.modIn n f).bankOf j = s.bankOf j := rfl
@[simp] theorem bankOf_modFcp (n : Nat) (f : FcpS → FcpS) (j : Nat) : (s.modFcp n f).bankOf j = s.bankOf j := rfl
@[simp] theorem bankOf_modSq (n : Nat) (f : SqS → SqS) (j : Nat) : (s.modSq n f).bankOf j = s.bankOf j := rfl
@[simp] theorem bankOf_modBrk (n : Nat) (f : BrkS → BrkS) (j : Nat) : (s.modBrk n f).bankOf j = s.bankOf j := rfl
@[simp] theorem bankOf_modTgt (n : Nat) (f : TgtS → TgtS) (j : Nat) : (s.modTgt n f).bankOf j = s.bankOf j := rfl
@[simp] theorem bankOf_modDsp (n : Nat) (f : DspRun → DspRun) (j : Nat) : (s.modDsp n f).bankOf j = s.bankOf j := rfl
@[simp] theorem bankOf_modFacet (n : Nat) (f : FacetS → FacetS) (j : Nat) : (s.modFacet n f).bankOf j = s.bankOf j := rfl
@[simp] theorem bankOf_modPane (n : Nat) (f : PaneS → PaneS) (j : Nat) : (s.modPane n f).bankOf j = s.bankOf j := rfl
@[simp] theorem bankOf_modDmc (n : Nat) (f : DmcS → DmcS) (j : Nat) : (s.modDmc n f).bankOf j = s.bankOf j := rfl
@[simp] theorem bankOf_modLane (n : Nat) (f : LaneS → LaneS) (j : Nat) : (s.modLane n f).bankOf j = s.bankOf j := rfl
@[simp] theorem bankOf_modTmu (f : TmuS → TmuS) (j : Nat) : (s.modTmu f).bankOf j = s.bankOf j := rfl
@[simp] theorem bankOf_modLaneTime (n : Nat) (f : LaneTime → LaneTime) (j : Nat) : (s.modLaneTime n f).bankOf j = s.bankOf j := rfl
@[simp] theorem bankOf_modTrg (n : Nat) (f : TrgS → TrgS) (j : Nat) : (s.modTrg n f).bankOf j = s.bankOf j := rfl
@[simp] theorem bankOf_modCap (n : Nat) (f : CapS → CapS) (j : Nat) : (s.modCap n f).bankOf j = s.bankOf j := rfl
@[simp] theorem bankOf_modMaster (n : Nat) (f : MasterS → MasterS) (j : Nat) : (s.modMaster n f).bankOf j = s.bankOf j := rfl
@[simp] theorem bankOf_modSlot (n : Nat) (f : SlotS → SlotS) (j : Nat) : (s.modSlot n f).bankOf j = s.bankOf j := rfl
@[simp] theorem bankOf_modI3c (f : I3cS → I3cS) (j : Nat) : (s.modI3c f).bankOf j = s.bankOf j := rfl
@[simp] theorem bankOf_modMirror (f : MirrorS → MirrorS) (j : Nat) : (s.modMirror f).bankOf j = s.bankOf j := rfl
@[simp] theorem bankOf_raise (e : Nat) (j : Nat) : (s.raise e).bankOf j = s.bankOf j := by unfold State.bankOf; rw [raise_banks]
@[simp] theorem bankOf_raiseAt (t e : Nat) (j : Nat) : (s.raiseAt t e).bankOf j = s.bankOf j := by unfold State.bankOf; rw [raiseAt_banks]
@[simp] theorem bankOf_note (k b : Nat) (j : Nat) : (s.note k b).bankOf j = s.bankOf j := rfl
@[simp] theorem bankOf_setBit (k b : Nat) (v : Bool) (j : Nat) : (s.setBit k b v).bankOf j = s.bankOf j := by unfold State.bankOf; rw [setBit_banks]
@[simp] theorem bankOf_flag (k b e : Nat) (j : Nat) : (s.flag k b e).bankOf j = s.bankOf j := by unfold State.bankOf; rw [flag_banks]
@[simp] theorem dmcOf_wr (k v : Nat) (j : Nat) : (s.wr k v).dmcOf j = s.dmcOf j := rfl
@[simp] theorem dmcOf_addTo (w k d : Nat) (j : Nat) : (s.addTo w k d).dmcOf j = s.dmcOf j := rfl
@[simp] theorem dmcOf_bump (w k : Nat) (j : Nat) : (s.bump w k).dmcOf j = s.dmcOf j := rfl
@[simp] theorem dmcOf_upto (t : Nat) (j : Nat) : (s.upto t).dmcOf j = s.dmcOf j := rfl
@[simp] theorem dmcOf_drawn (j : Nat) : (s.drawn).dmcOf j = s.dmcOf j := rfl
@[simp] theorem dmcOf_store (a n v : Nat) (j : Nat) : (s.store a n v).dmcOf j = s.dmcOf j := rfl
@[simp] theorem dmcOf_modVe (n : Nat) (f : VeRun → VeRun) (j : Nat) : (s.modVe n f).dmcOf j = s.dmcOf j := rfl
@[simp] theorem dmcOf_modOut (n : Nat) (f : OutCh → OutCh) (j : Nat) : (s.modOut n f).dmcOf j = s.dmcOf j := rfl
@[simp] theorem dmcOf_modIn (n : Nat) (f : InCh → InCh) (j : Nat) : (s.modIn n f).dmcOf j = s.dmcOf j := rfl
@[simp] theorem dmcOf_modFcp (n : Nat) (f : FcpS → FcpS) (j : Nat) : (s.modFcp n f).dmcOf j = s.dmcOf j := rfl
@[simp] theorem dmcOf_modSq (n : Nat) (f : SqS → SqS) (j : Nat) : (s.modSq n f).dmcOf j = s.dmcOf j := rfl
@[simp] theorem dmcOf_modBrk (n : Nat) (f : BrkS → BrkS) (j : Nat) : (s.modBrk n f).dmcOf j = s.dmcOf j := rfl
@[simp] theorem dmcOf_modTgt (n : Nat) (f : TgtS → TgtS) (j : Nat) : (s.modTgt n f).dmcOf j = s.dmcOf j := rfl
@[simp] theorem dmcOf_modDsp (n : Nat) (f : DspRun → DspRun) (j : Nat) : (s.modDsp n f).dmcOf j = s.dmcOf j := rfl
@[simp] theorem dmcOf_modFacet (n : Nat) (f : FacetS → FacetS) (j : Nat) : (s.modFacet n f).dmcOf j = s.dmcOf j := rfl
@[simp] theorem dmcOf_modPane (n : Nat) (f : PaneS → PaneS) (j : Nat) : (s.modPane n f).dmcOf j = s.dmcOf j := rfl
@[simp] theorem dmcOf_modBank (n : Nat) (f : BankS → BankS) (j : Nat) : (s.modBank n f).dmcOf j = s.dmcOf j := rfl
@[simp] theorem dmcOf_modLane (n : Nat) (f : LaneS → LaneS) (j : Nat) : (s.modLane n f).dmcOf j = s.dmcOf j := rfl
@[simp] theorem dmcOf_modTmu (f : TmuS → TmuS) (j : Nat) : (s.modTmu f).dmcOf j = s.dmcOf j := rfl
@[simp] theorem dmcOf_modLaneTime (n : Nat) (f : LaneTime → LaneTime) (j : Nat) : (s.modLaneTime n f).dmcOf j = s.dmcOf j := rfl
@[simp] theorem dmcOf_modTrg (n : Nat) (f : TrgS → TrgS) (j : Nat) : (s.modTrg n f).dmcOf j = s.dmcOf j := rfl
@[simp] theorem dmcOf_modCap (n : Nat) (f : CapS → CapS) (j : Nat) : (s.modCap n f).dmcOf j = s.dmcOf j := rfl
@[simp] theorem dmcOf_modMaster (n : Nat) (f : MasterS → MasterS) (j : Nat) : (s.modMaster n f).dmcOf j = s.dmcOf j := rfl
@[simp] theorem dmcOf_modSlot (n : Nat) (f : SlotS → SlotS) (j : Nat) : (s.modSlot n f).dmcOf j = s.dmcOf j := rfl
@[simp] theorem dmcOf_modI3c (f : I3cS → I3cS) (j : Nat) : (s.modI3c f).dmcOf j = s.dmcOf j := rfl
@[simp] theorem dmcOf_modMirror (f : MirrorS → MirrorS) (j : Nat) : (s.modMirror f).dmcOf j = s.dmcOf j := rfl
@[simp] theorem dmcOf_raise (e : Nat) (j : Nat) : (s.raise e).dmcOf j = s.dmcOf j := by unfold State.dmcOf; rw [raise_dmc]
@[simp] theorem dmcOf_raiseAt (t e : Nat) (j : Nat) : (s.raiseAt t e).dmcOf j = s.dmcOf j := by unfold State.dmcOf; rw [raiseAt_dmc]
@[simp] theorem dmcOf_note (k b : Nat) (j : Nat) : (s.note k b).dmcOf j = s.dmcOf j := rfl
@[simp] theorem dmcOf_setBit (k b : Nat) (v : Bool) (j : Nat) : (s.setBit k b v).dmcOf j = s.dmcOf j := by unfold State.dmcOf; rw [setBit_dmc]
@[simp] theorem dmcOf_flag (k b e : Nat) (j : Nat) : (s.flag k b e).dmcOf j = s.dmcOf j := by unfold State.dmcOf; rw [flag_dmc]
@[simp] theorem laneOf_wr (k v : Nat) (j : Nat) : (s.wr k v).laneOf j = s.laneOf j := rfl
@[simp] theorem laneOf_addTo (w k d : Nat) (j : Nat) : (s.addTo w k d).laneOf j = s.laneOf j := rfl
@[simp] theorem laneOf_bump (w k : Nat) (j : Nat) : (s.bump w k).laneOf j = s.laneOf j := rfl
@[simp] theorem laneOf_upto (t : Nat) (j : Nat) : (s.upto t).laneOf j = s.laneOf j := rfl
@[simp] theorem laneOf_drawn (j : Nat) : (s.drawn).laneOf j = s.laneOf j := rfl
@[simp] theorem laneOf_store (a n v : Nat) (j : Nat) : (s.store a n v).laneOf j = s.laneOf j := rfl
@[simp] theorem laneOf_modVe (n : Nat) (f : VeRun → VeRun) (j : Nat) : (s.modVe n f).laneOf j = s.laneOf j := rfl
@[simp] theorem laneOf_modOut (n : Nat) (f : OutCh → OutCh) (j : Nat) : (s.modOut n f).laneOf j = s.laneOf j := rfl
@[simp] theorem laneOf_modIn (n : Nat) (f : InCh → InCh) (j : Nat) : (s.modIn n f).laneOf j = s.laneOf j := rfl
@[simp] theorem laneOf_modFcp (n : Nat) (f : FcpS → FcpS) (j : Nat) : (s.modFcp n f).laneOf j = s.laneOf j := rfl
@[simp] theorem laneOf_modSq (n : Nat) (f : SqS → SqS) (j : Nat) : (s.modSq n f).laneOf j = s.laneOf j := rfl
@[simp] theorem laneOf_modBrk (n : Nat) (f : BrkS → BrkS) (j : Nat) : (s.modBrk n f).laneOf j = s.laneOf j := rfl
@[simp] theorem laneOf_modTgt (n : Nat) (f : TgtS → TgtS) (j : Nat) : (s.modTgt n f).laneOf j = s.laneOf j := rfl
@[simp] theorem laneOf_modDsp (n : Nat) (f : DspRun → DspRun) (j : Nat) : (s.modDsp n f).laneOf j = s.laneOf j := rfl
@[simp] theorem laneOf_modFacet (n : Nat) (f : FacetS → FacetS) (j : Nat) : (s.modFacet n f).laneOf j = s.laneOf j := rfl
@[simp] theorem laneOf_modPane (n : Nat) (f : PaneS → PaneS) (j : Nat) : (s.modPane n f).laneOf j = s.laneOf j := rfl
@[simp] theorem laneOf_modBank (n : Nat) (f : BankS → BankS) (j : Nat) : (s.modBank n f).laneOf j = s.laneOf j := rfl
@[simp] theorem laneOf_modDmc (n : Nat) (f : DmcS → DmcS) (j : Nat) : (s.modDmc n f).laneOf j = s.laneOf j := rfl
@[simp] theorem laneOf_modTmu (f : TmuS → TmuS) (j : Nat) : (s.modTmu f).laneOf j = s.laneOf j := rfl
@[simp] theorem laneOf_modLaneTime (n : Nat) (f : LaneTime → LaneTime) (j : Nat) : (s.modLaneTime n f).laneOf j = s.laneOf j := rfl
@[simp] theorem laneOf_modTrg (n : Nat) (f : TrgS → TrgS) (j : Nat) : (s.modTrg n f).laneOf j = s.laneOf j := rfl
@[simp] theorem laneOf_modCap (n : Nat) (f : CapS → CapS) (j : Nat) : (s.modCap n f).laneOf j = s.laneOf j := rfl
@[simp] theorem laneOf_modMaster (n : Nat) (f : MasterS → MasterS) (j : Nat) : (s.modMaster n f).laneOf j = s.laneOf j := rfl
@[simp] theorem laneOf_modSlot (n : Nat) (f : SlotS → SlotS) (j : Nat) : (s.modSlot n f).laneOf j = s.laneOf j := rfl
@[simp] theorem laneOf_modI3c (f : I3cS → I3cS) (j : Nat) : (s.modI3c f).laneOf j = s.laneOf j := rfl
@[simp] theorem laneOf_modMirror (f : MirrorS → MirrorS) (j : Nat) : (s.modMirror f).laneOf j = s.laneOf j := rfl
@[simp] theorem laneOf_raise (e : Nat) (j : Nat) : (s.raise e).laneOf j = s.laneOf j := by unfold State.laneOf; rw [raise_lanes]
@[simp] theorem laneOf_raiseAt (t e : Nat) (j : Nat) : (s.raiseAt t e).laneOf j = s.laneOf j := by unfold State.laneOf; rw [raiseAt_lanes]
@[simp] theorem laneOf_note (k b : Nat) (j : Nat) : (s.note k b).laneOf j = s.laneOf j := rfl
@[simp] theorem laneOf_setBit (k b : Nat) (v : Bool) (j : Nat) : (s.setBit k b v).laneOf j = s.laneOf j := by unfold State.laneOf; rw [setBit_lanes]
@[simp] theorem laneOf_flag (k b e : Nat) (j : Nat) : (s.flag k b e).laneOf j = s.laneOf j := by unfold State.laneOf; rw [flag_lanes]
@[simp] theorem laneTimeOf_wr (k v : Nat) (j : Nat) : (s.wr k v).laneTimeOf j = s.laneTimeOf j := rfl
@[simp] theorem laneTimeOf_addTo (w k d : Nat) (j : Nat) : (s.addTo w k d).laneTimeOf j = s.laneTimeOf j := rfl
@[simp] theorem laneTimeOf_bump (w k : Nat) (j : Nat) : (s.bump w k).laneTimeOf j = s.laneTimeOf j := rfl
@[simp] theorem laneTimeOf_upto (t : Nat) (j : Nat) : (s.upto t).laneTimeOf j = s.laneTimeOf j := rfl
@[simp] theorem laneTimeOf_drawn (j : Nat) : (s.drawn).laneTimeOf j = s.laneTimeOf j := rfl
@[simp] theorem laneTimeOf_store (a n v : Nat) (j : Nat) : (s.store a n v).laneTimeOf j = s.laneTimeOf j := rfl
@[simp] theorem laneTimeOf_modVe (n : Nat) (f : VeRun → VeRun) (j : Nat) : (s.modVe n f).laneTimeOf j = s.laneTimeOf j := rfl
@[simp] theorem laneTimeOf_modOut (n : Nat) (f : OutCh → OutCh) (j : Nat) : (s.modOut n f).laneTimeOf j = s.laneTimeOf j := rfl
@[simp] theorem laneTimeOf_modIn (n : Nat) (f : InCh → InCh) (j : Nat) : (s.modIn n f).laneTimeOf j = s.laneTimeOf j := rfl
@[simp] theorem laneTimeOf_modFcp (n : Nat) (f : FcpS → FcpS) (j : Nat) : (s.modFcp n f).laneTimeOf j = s.laneTimeOf j := rfl
@[simp] theorem laneTimeOf_modSq (n : Nat) (f : SqS → SqS) (j : Nat) : (s.modSq n f).laneTimeOf j = s.laneTimeOf j := rfl
@[simp] theorem laneTimeOf_modBrk (n : Nat) (f : BrkS → BrkS) (j : Nat) : (s.modBrk n f).laneTimeOf j = s.laneTimeOf j := rfl
@[simp] theorem laneTimeOf_modTgt (n : Nat) (f : TgtS → TgtS) (j : Nat) : (s.modTgt n f).laneTimeOf j = s.laneTimeOf j := rfl
@[simp] theorem laneTimeOf_modDsp (n : Nat) (f : DspRun → DspRun) (j : Nat) : (s.modDsp n f).laneTimeOf j = s.laneTimeOf j := rfl
@[simp] theorem laneTimeOf_modFacet (n : Nat) (f : FacetS → FacetS) (j : Nat) : (s.modFacet n f).laneTimeOf j = s.laneTimeOf j := rfl
@[simp] theorem laneTimeOf_modPane (n : Nat) (f : PaneS → PaneS) (j : Nat) : (s.modPane n f).laneTimeOf j = s.laneTimeOf j := rfl
@[simp] theorem laneTimeOf_modBank (n : Nat) (f : BankS → BankS) (j : Nat) : (s.modBank n f).laneTimeOf j = s.laneTimeOf j := rfl
@[simp] theorem laneTimeOf_modDmc (n : Nat) (f : DmcS → DmcS) (j : Nat) : (s.modDmc n f).laneTimeOf j = s.laneTimeOf j := rfl
@[simp] theorem laneTimeOf_modLane (n : Nat) (f : LaneS → LaneS) (j : Nat) : (s.modLane n f).laneTimeOf j = s.laneTimeOf j := rfl
@[simp] theorem laneTimeOf_modMaster (n : Nat) (f : MasterS → MasterS) (j : Nat) : (s.modMaster n f).laneTimeOf j = s.laneTimeOf j := rfl
@[simp] theorem laneTimeOf_modSlot (n : Nat) (f : SlotS → SlotS) (j : Nat) : (s.modSlot n f).laneTimeOf j = s.laneTimeOf j := rfl
@[simp] theorem laneTimeOf_modI3c (f : I3cS → I3cS) (j : Nat) : (s.modI3c f).laneTimeOf j = s.laneTimeOf j := rfl
@[simp] theorem laneTimeOf_modMirror (f : MirrorS → MirrorS) (j : Nat) : (s.modMirror f).laneTimeOf j = s.laneTimeOf j := rfl
@[simp] theorem laneTimeOf_raise (e : Nat) (j : Nat) : (s.raise e).laneTimeOf j = s.laneTimeOf j := by unfold State.laneTimeOf; rw [raise_tmu]
@[simp] theorem laneTimeOf_raiseAt (t e : Nat) (j : Nat) : (s.raiseAt t e).laneTimeOf j = s.laneTimeOf j := by unfold State.laneTimeOf; rw [raiseAt_tmu]
@[simp] theorem laneTimeOf_note (k b : Nat) (j : Nat) : (s.note k b).laneTimeOf j = s.laneTimeOf j := rfl
@[simp] theorem laneTimeOf_setBit (k b : Nat) (v : Bool) (j : Nat) : (s.setBit k b v).laneTimeOf j = s.laneTimeOf j := by unfold State.laneTimeOf; rw [setBit_tmu]
@[simp] theorem laneTimeOf_flag (k b e : Nat) (j : Nat) : (s.flag k b e).laneTimeOf j = s.laneTimeOf j := by unfold State.laneTimeOf; rw [flag_tmu]
@[simp] theorem trgOf_wr (k v : Nat) (j : Nat) : (s.wr k v).trgOf j = s.trgOf j := rfl
@[simp] theorem trgOf_addTo (w k d : Nat) (j : Nat) : (s.addTo w k d).trgOf j = s.trgOf j := rfl
@[simp] theorem trgOf_bump (w k : Nat) (j : Nat) : (s.bump w k).trgOf j = s.trgOf j := rfl
@[simp] theorem trgOf_upto (t : Nat) (j : Nat) : (s.upto t).trgOf j = s.trgOf j := rfl
@[simp] theorem trgOf_drawn (j : Nat) : (s.drawn).trgOf j = s.trgOf j := rfl
@[simp] theorem trgOf_store (a n v : Nat) (j : Nat) : (s.store a n v).trgOf j = s.trgOf j := rfl
@[simp] theorem trgOf_modVe (n : Nat) (f : VeRun → VeRun) (j : Nat) : (s.modVe n f).trgOf j = s.trgOf j := rfl
@[simp] theorem trgOf_modOut (n : Nat) (f : OutCh → OutCh) (j : Nat) : (s.modOut n f).trgOf j = s.trgOf j := rfl
@[simp] theorem trgOf_modIn (n : Nat) (f : InCh → InCh) (j : Nat) : (s.modIn n f).trgOf j = s.trgOf j := rfl
@[simp] theorem trgOf_modFcp (n : Nat) (f : FcpS → FcpS) (j : Nat) : (s.modFcp n f).trgOf j = s.trgOf j := rfl
@[simp] theorem trgOf_modSq (n : Nat) (f : SqS → SqS) (j : Nat) : (s.modSq n f).trgOf j = s.trgOf j := rfl
@[simp] theorem trgOf_modBrk (n : Nat) (f : BrkS → BrkS) (j : Nat) : (s.modBrk n f).trgOf j = s.trgOf j := rfl
@[simp] theorem trgOf_modTgt (n : Nat) (f : TgtS → TgtS) (j : Nat) : (s.modTgt n f).trgOf j = s.trgOf j := rfl
@[simp] theorem trgOf_modDsp (n : Nat) (f : DspRun → DspRun) (j : Nat) : (s.modDsp n f).trgOf j = s.trgOf j := rfl
@[simp] theorem trgOf_modFacet (n : Nat) (f : FacetS → FacetS) (j : Nat) : (s.modFacet n f).trgOf j = s.trgOf j := rfl
@[simp] theorem trgOf_modPane (n : Nat) (f : PaneS → PaneS) (j : Nat) : (s.modPane n f).trgOf j = s.trgOf j := rfl
@[simp] theorem trgOf_modBank (n : Nat) (f : BankS → BankS) (j : Nat) : (s.modBank n f).trgOf j = s.trgOf j := rfl
@[simp] theorem trgOf_modDmc (n : Nat) (f : DmcS → DmcS) (j : Nat) : (s.modDmc n f).trgOf j = s.trgOf j := rfl
@[simp] theorem trgOf_modLane (n : Nat) (f : LaneS → LaneS) (j : Nat) : (s.modLane n f).trgOf j = s.trgOf j := rfl
@[simp] theorem trgOf_modMaster (n : Nat) (f : MasterS → MasterS) (j : Nat) : (s.modMaster n f).trgOf j = s.trgOf j := rfl
@[simp] theorem trgOf_modSlot (n : Nat) (f : SlotS → SlotS) (j : Nat) : (s.modSlot n f).trgOf j = s.trgOf j := rfl
@[simp] theorem trgOf_modI3c (f : I3cS → I3cS) (j : Nat) : (s.modI3c f).trgOf j = s.trgOf j := rfl
@[simp] theorem trgOf_modMirror (f : MirrorS → MirrorS) (j : Nat) : (s.modMirror f).trgOf j = s.trgOf j := rfl
@[simp] theorem trgOf_raise (e : Nat) (j : Nat) : (s.raise e).trgOf j = s.trgOf j := by unfold State.trgOf; rw [raise_tmu]
@[simp] theorem trgOf_raiseAt (t e : Nat) (j : Nat) : (s.raiseAt t e).trgOf j = s.trgOf j := by unfold State.trgOf; rw [raiseAt_tmu]
@[simp] theorem trgOf_note (k b : Nat) (j : Nat) : (s.note k b).trgOf j = s.trgOf j := rfl
@[simp] theorem trgOf_setBit (k b : Nat) (v : Bool) (j : Nat) : (s.setBit k b v).trgOf j = s.trgOf j := by unfold State.trgOf; rw [setBit_tmu]
@[simp] theorem trgOf_flag (k b e : Nat) (j : Nat) : (s.flag k b e).trgOf j = s.trgOf j := by unfold State.trgOf; rw [flag_tmu]
@[simp] theorem capOf_wr (k v : Nat) (j : Nat) : (s.wr k v).capOf j = s.capOf j := rfl
@[simp] theorem capOf_addTo (w k d : Nat) (j : Nat) : (s.addTo w k d).capOf j = s.capOf j := rfl
@[simp] theorem capOf_bump (w k : Nat) (j : Nat) : (s.bump w k).capOf j = s.capOf j := rfl
@[simp] theorem capOf_upto (t : Nat) (j : Nat) : (s.upto t).capOf j = s.capOf j := rfl
@[simp] theorem capOf_drawn (j : Nat) : (s.drawn).capOf j = s.capOf j := rfl
@[simp] theorem capOf_store (a n v : Nat) (j : Nat) : (s.store a n v).capOf j = s.capOf j := rfl
@[simp] theorem capOf_modVe (n : Nat) (f : VeRun → VeRun) (j : Nat) : (s.modVe n f).capOf j = s.capOf j := rfl
@[simp] theorem capOf_modOut (n : Nat) (f : OutCh → OutCh) (j : Nat) : (s.modOut n f).capOf j = s.capOf j := rfl
@[simp] theorem capOf_modIn (n : Nat) (f : InCh → InCh) (j : Nat) : (s.modIn n f).capOf j = s.capOf j := rfl
@[simp] theorem capOf_modFcp (n : Nat) (f : FcpS → FcpS) (j : Nat) : (s.modFcp n f).capOf j = s.capOf j := rfl
@[simp] theorem capOf_modSq (n : Nat) (f : SqS → SqS) (j : Nat) : (s.modSq n f).capOf j = s.capOf j := rfl
@[simp] theorem capOf_modBrk (n : Nat) (f : BrkS → BrkS) (j : Nat) : (s.modBrk n f).capOf j = s.capOf j := rfl
@[simp] theorem capOf_modTgt (n : Nat) (f : TgtS → TgtS) (j : Nat) : (s.modTgt n f).capOf j = s.capOf j := rfl
@[simp] theorem capOf_modDsp (n : Nat) (f : DspRun → DspRun) (j : Nat) : (s.modDsp n f).capOf j = s.capOf j := rfl
@[simp] theorem capOf_modFacet (n : Nat) (f : FacetS → FacetS) (j : Nat) : (s.modFacet n f).capOf j = s.capOf j := rfl
@[simp] theorem capOf_modPane (n : Nat) (f : PaneS → PaneS) (j : Nat) : (s.modPane n f).capOf j = s.capOf j := rfl
@[simp] theorem capOf_modBank (n : Nat) (f : BankS → BankS) (j : Nat) : (s.modBank n f).capOf j = s.capOf j := rfl
@[simp] theorem capOf_modDmc (n : Nat) (f : DmcS → DmcS) (j : Nat) : (s.modDmc n f).capOf j = s.capOf j := rfl
@[simp] theorem capOf_modLane (n : Nat) (f : LaneS → LaneS) (j : Nat) : (s.modLane n f).capOf j = s.capOf j := rfl
@[simp] theorem capOf_modMaster (n : Nat) (f : MasterS → MasterS) (j : Nat) : (s.modMaster n f).capOf j = s.capOf j := rfl
@[simp] theorem capOf_modSlot (n : Nat) (f : SlotS → SlotS) (j : Nat) : (s.modSlot n f).capOf j = s.capOf j := rfl
@[simp] theorem capOf_modI3c (f : I3cS → I3cS) (j : Nat) : (s.modI3c f).capOf j = s.capOf j := rfl
@[simp] theorem capOf_modMirror (f : MirrorS → MirrorS) (j : Nat) : (s.modMirror f).capOf j = s.capOf j := rfl
@[simp] theorem capOf_raise (e : Nat) (j : Nat) : (s.raise e).capOf j = s.capOf j := by unfold State.capOf; rw [raise_tmu]
@[simp] theorem capOf_raiseAt (t e : Nat) (j : Nat) : (s.raiseAt t e).capOf j = s.capOf j := by unfold State.capOf; rw [raiseAt_tmu]
@[simp] theorem capOf_note (k b : Nat) (j : Nat) : (s.note k b).capOf j = s.capOf j := rfl
@[simp] theorem capOf_setBit (k b : Nat) (v : Bool) (j : Nat) : (s.setBit k b v).capOf j = s.capOf j := by unfold State.capOf; rw [setBit_tmu]
@[simp] theorem capOf_flag (k b e : Nat) (j : Nat) : (s.flag k b e).capOf j = s.capOf j := by unfold State.capOf; rw [flag_tmu]
@[simp] theorem masterOf_wr (k v : Nat) (j : Nat) : (s.wr k v).masterOf j = s.masterOf j := rfl
@[simp] theorem masterOf_addTo (w k d : Nat) (j : Nat) : (s.addTo w k d).masterOf j = s.masterOf j := rfl
@[simp] theorem masterOf_bump (w k : Nat) (j : Nat) : (s.bump w k).masterOf j = s.masterOf j := rfl
@[simp] theorem masterOf_upto (t : Nat) (j : Nat) : (s.upto t).masterOf j = s.masterOf j := rfl
@[simp] theorem masterOf_drawn (j : Nat) : (s.drawn).masterOf j = s.masterOf j := rfl
@[simp] theorem masterOf_store (a n v : Nat) (j : Nat) : (s.store a n v).masterOf j = s.masterOf j := rfl
@[simp] theorem masterOf_modVe (n : Nat) (f : VeRun → VeRun) (j : Nat) : (s.modVe n f).masterOf j = s.masterOf j := rfl
@[simp] theorem masterOf_modOut (n : Nat) (f : OutCh → OutCh) (j : Nat) : (s.modOut n f).masterOf j = s.masterOf j := rfl
@[simp] theorem masterOf_modIn (n : Nat) (f : InCh → InCh) (j : Nat) : (s.modIn n f).masterOf j = s.masterOf j := rfl
@[simp] theorem masterOf_modFcp (n : Nat) (f : FcpS → FcpS) (j : Nat) : (s.modFcp n f).masterOf j = s.masterOf j := rfl
@[simp] theorem masterOf_modSq (n : Nat) (f : SqS → SqS) (j : Nat) : (s.modSq n f).masterOf j = s.masterOf j := rfl
@[simp] theorem masterOf_modBrk (n : Nat) (f : BrkS → BrkS) (j : Nat) : (s.modBrk n f).masterOf j = s.masterOf j := rfl
@[simp] theorem masterOf_modTgt (n : Nat) (f : TgtS → TgtS) (j : Nat) : (s.modTgt n f).masterOf j = s.masterOf j := rfl
@[simp] theorem masterOf_modDsp (n : Nat) (f : DspRun → DspRun) (j : Nat) : (s.modDsp n f).masterOf j = s.masterOf j := rfl
@[simp] theorem masterOf_modFacet (n : Nat) (f : FacetS → FacetS) (j : Nat) : (s.modFacet n f).masterOf j = s.masterOf j := rfl
@[simp] theorem masterOf_modPane (n : Nat) (f : PaneS → PaneS) (j : Nat) : (s.modPane n f).masterOf j = s.masterOf j := rfl
@[simp] theorem masterOf_modBank (n : Nat) (f : BankS → BankS) (j : Nat) : (s.modBank n f).masterOf j = s.masterOf j := rfl
@[simp] theorem masterOf_modDmc (n : Nat) (f : DmcS → DmcS) (j : Nat) : (s.modDmc n f).masterOf j = s.masterOf j := rfl
@[simp] theorem masterOf_modLane (n : Nat) (f : LaneS → LaneS) (j : Nat) : (s.modLane n f).masterOf j = s.masterOf j := rfl
@[simp] theorem masterOf_modTmu (f : TmuS → TmuS) (j : Nat) : (s.modTmu f).masterOf j = s.masterOf j := rfl
@[simp] theorem masterOf_modLaneTime (n : Nat) (f : LaneTime → LaneTime) (j : Nat) : (s.modLaneTime n f).masterOf j = s.masterOf j := rfl
@[simp] theorem masterOf_modTrg (n : Nat) (f : TrgS → TrgS) (j : Nat) : (s.modTrg n f).masterOf j = s.masterOf j := rfl
@[simp] theorem masterOf_modCap (n : Nat) (f : CapS → CapS) (j : Nat) : (s.modCap n f).masterOf j = s.masterOf j := rfl
@[simp] theorem masterOf_raise (e : Nat) (j : Nat) : (s.raise e).masterOf j = s.masterOf j := by unfold State.masterOf; rw [raise_hdi]
@[simp] theorem masterOf_raiseAt (t e : Nat) (j : Nat) : (s.raiseAt t e).masterOf j = s.masterOf j := by unfold State.masterOf; rw [raiseAt_hdi]
@[simp] theorem masterOf_note (k b : Nat) (j : Nat) : (s.note k b).masterOf j = s.masterOf j := rfl
@[simp] theorem masterOf_setBit (k b : Nat) (v : Bool) (j : Nat) : (s.setBit k b v).masterOf j = s.masterOf j := by unfold State.masterOf; rw [setBit_hdi]
@[simp] theorem masterOf_flag (k b e : Nat) (j : Nat) : (s.flag k b e).masterOf j = s.masterOf j := by unfold State.masterOf; rw [flag_hdi]
@[simp] theorem slotOf_wr (k v : Nat) (j : Nat) : (s.wr k v).slotOf j = s.slotOf j := rfl
@[simp] theorem slotOf_addTo (w k d : Nat) (j : Nat) : (s.addTo w k d).slotOf j = s.slotOf j := rfl
@[simp] theorem slotOf_bump (w k : Nat) (j : Nat) : (s.bump w k).slotOf j = s.slotOf j := rfl
@[simp] theorem slotOf_upto (t : Nat) (j : Nat) : (s.upto t).slotOf j = s.slotOf j := rfl
@[simp] theorem slotOf_drawn (j : Nat) : (s.drawn).slotOf j = s.slotOf j := rfl
@[simp] theorem slotOf_store (a n v : Nat) (j : Nat) : (s.store a n v).slotOf j = s.slotOf j := rfl
@[simp] theorem slotOf_modVe (n : Nat) (f : VeRun → VeRun) (j : Nat) : (s.modVe n f).slotOf j = s.slotOf j := rfl
@[simp] theorem slotOf_modOut (n : Nat) (f : OutCh → OutCh) (j : Nat) : (s.modOut n f).slotOf j = s.slotOf j := rfl
@[simp] theorem slotOf_modIn (n : Nat) (f : InCh → InCh) (j : Nat) : (s.modIn n f).slotOf j = s.slotOf j := rfl
@[simp] theorem slotOf_modFcp (n : Nat) (f : FcpS → FcpS) (j : Nat) : (s.modFcp n f).slotOf j = s.slotOf j := rfl
@[simp] theorem slotOf_modSq (n : Nat) (f : SqS → SqS) (j : Nat) : (s.modSq n f).slotOf j = s.slotOf j := rfl
@[simp] theorem slotOf_modBrk (n : Nat) (f : BrkS → BrkS) (j : Nat) : (s.modBrk n f).slotOf j = s.slotOf j := rfl
@[simp] theorem slotOf_modTgt (n : Nat) (f : TgtS → TgtS) (j : Nat) : (s.modTgt n f).slotOf j = s.slotOf j := rfl
@[simp] theorem slotOf_modDsp (n : Nat) (f : DspRun → DspRun) (j : Nat) : (s.modDsp n f).slotOf j = s.slotOf j := rfl
@[simp] theorem slotOf_modFacet (n : Nat) (f : FacetS → FacetS) (j : Nat) : (s.modFacet n f).slotOf j = s.slotOf j := rfl
@[simp] theorem slotOf_modPane (n : Nat) (f : PaneS → PaneS) (j : Nat) : (s.modPane n f).slotOf j = s.slotOf j := rfl
@[simp] theorem slotOf_modBank (n : Nat) (f : BankS → BankS) (j : Nat) : (s.modBank n f).slotOf j = s.slotOf j := rfl
@[simp] theorem slotOf_modDmc (n : Nat) (f : DmcS → DmcS) (j : Nat) : (s.modDmc n f).slotOf j = s.slotOf j := rfl
@[simp] theorem slotOf_modLane (n : Nat) (f : LaneS → LaneS) (j : Nat) : (s.modLane n f).slotOf j = s.slotOf j := rfl
@[simp] theorem slotOf_modTmu (f : TmuS → TmuS) (j : Nat) : (s.modTmu f).slotOf j = s.slotOf j := rfl
@[simp] theorem slotOf_modLaneTime (n : Nat) (f : LaneTime → LaneTime) (j : Nat) : (s.modLaneTime n f).slotOf j = s.slotOf j := rfl
@[simp] theorem slotOf_modTrg (n : Nat) (f : TrgS → TrgS) (j : Nat) : (s.modTrg n f).slotOf j = s.slotOf j := rfl
@[simp] theorem slotOf_modCap (n : Nat) (f : CapS → CapS) (j : Nat) : (s.modCap n f).slotOf j = s.slotOf j := rfl
@[simp] theorem slotOf_raise (e : Nat) (j : Nat) : (s.raise e).slotOf j = s.slotOf j := by unfold State.slotOf; rw [raise_hdi]
@[simp] theorem slotOf_raiseAt (t e : Nat) (j : Nat) : (s.raiseAt t e).slotOf j = s.slotOf j := by unfold State.slotOf; rw [raiseAt_hdi]
@[simp] theorem slotOf_note (k b : Nat) (j : Nat) : (s.note k b).slotOf j = s.slotOf j := rfl
@[simp] theorem slotOf_setBit (k b : Nat) (v : Bool) (j : Nat) : (s.setBit k b v).slotOf j = s.slotOf j := by unfold State.slotOf; rw [setBit_hdi]
@[simp] theorem slotOf_flag (k b e : Nat) (j : Nat) : (s.flag k b e).slotOf j = s.slotOf j := by unfold State.slotOf; rw [flag_hdi]

theorem byte_store (a n v x : Nat) :
    memByte (s.store a n v).mem x = if a ≤ x ∧ x < a + n then BitVec.ofNat 8 (v / 256 ^ (x - a)) else memByte s.mem x :=
  memByte_write _ _ _ _ _

/-! The one operation through which every access ends. -/

theorem finish_deaf {q : Req} {op o m st len data : Nat} {eff : State → State} {s : State} (h : deaf q s = true) :
    finish q op o m st len data eff s = s := by unfold finish; rw [if_pos h]
theorem finish_refused {q : Req} {op o m st len data : Nat} {eff : State → State} {s : State} (h : deaf q s = false) (hs : st ≠ 0) :
    finish q op o m st len data eff s = respond q op o m st 0 0 s := by
  unfold finish; rw [if_neg (by simp [h]), if_neg hs]
theorem finish_ok {q : Req} {op o m len data : Nat} {eff : State → State} {s : State} (h : deaf q s = false) :
    finish q op o m 0 len data eff s =
      respond q op o m 0 len data (if leases q op o m (eff s) then restartLease (eff s) else eff s) := by
  unfold finish; rw [if_neg (by simp [h]), if_pos rfl]

theorem rd_respond (q : Req) (op o m st len data k : Nat) (s : State) :
    (respond q op o m st len data s).rd k = if k = HDI.STATS st then min (s.rd (HDI.STATS st) + 1) (2 ^ 32 - 1) else s.rd k := by
  unfold respond
  rw [rd_modMaster]
  exact rd_bump _ _ _ _
theorem respond_mem (q : Req) (op o m st len data : Nat) (s : State) : (respond q op o m st len data s).mem = s.mem := rfl
theorem respond_resp (q : Req) (op o m st len data : Nat) (s : State) :
    ((respond q op o m st len data s).masterOf q.master).resp =
      ⟨st, respOp q op o m, q.tag, o, m, len, data⟩ := by
  unfold respond
  rw [masterOf_modMaster]

set_option Elab.async false in
theorem firstOf_clear {cs : List (Bool × Nat)} (h : ∀ c ∈ cs, c.1 = false) : firstOf cs = 0 := by
  unfold firstOf
  have : ∀ c, (cs.any fun p => p.1 && Nat.beq p.2 c) = false := by
    intro c
    rw [List.any_eq_false]
    intro p hp
    simp [h p hp]
  simp [List.find?, this]

end Sys2Proof.Laws
end

