-- ==== Sys2Proof/Laws/Frame.lean ====
section
/-! SUPPORT. The relation that says what an operation of the machine leaves alone: no member but those of V changes, and
the memory changes only where M allows it. One lemma per operation follows in the files Laws/Frame*.lean. -/
namespace Sys2Proof.Laws
open Sys2Proof Sys2Proof.Machine

/-- Beside the members of V, s reads as s0; unless M holds, so does the memory. -/
def Fr (V : Nat → Prop) (M : Prop) (s0 s : State) : Prop := (∀ k, ¬V k → s.rd k = s0.rd k) ∧ (¬M → s.mem = s0.mem)

/-- The same of an outcome: it holds of a next state. -/
def FrOut (V : Nat → Prop) (M : Prop) (s0 : State) (o : Out) : Prop := ∀ t, o = .next t → Fr V M s0 t
/-- The same of the effect of a rule. -/
def FrRule (V : Nat → Prop) (M : Prop) (s0 : State) (r : Rule) : Prop := ∀ s, Fr V M s0 s → Fr V M s0 (r.2 s)

variable {V : Nat → Prop} {M : Prop} {s0 : State}

theorem fr_refl (s : State) : Fr V M s s := ⟨fun _ _ => rfl, fun _ => rfl⟩

theorem fr_of {s t : State} (h : Fr V M s0 s) (h1 : t.reg = s.reg) (h2 : t.mem = s.mem) : Fr V M s0 t :=
  ⟨fun k hk => by rw [← h.1 k hk]; unfold State.rd; rw [h1], fun hm => h2.trans (h.2 hm)⟩

theorem fr_mem {s t : State} (hm : M) (h : Fr V M s0 s) (h1 : t.reg = s.reg) : Fr V M s0 t :=
  ⟨fun k hk => by rw [← h.1 k hk]; unfold State.rd; rw [h1], fun h => absurd hm h⟩

theorem fr_cut {s : State} {g : Prop} (h : Fr V M s0 s) (f : Fr V M s0 s → g) : g := f h

theorem fr_ite {c : Prop} [Decidable c] {x y : State} (hx : Fr V M s0 x) (hy : Fr V M s0 y) :
    Fr V M s0 (if c then x else y) := by split <;> assumption

theorem fr_foldl {α : Type} {f : State → α → State} (hf : ∀ s x, Fr V M s0 s → Fr V M s0 (f s x)) :
    ∀ {l : List α} {s : State}, Fr V M s0 s → Fr V M s0 (l.foldl f s)
  | [], _, h => h
  | x :: l, s, h => fr_foldl (l := l) hf (hf s x h)

theorem fr_foldl_snd {α β : Type} {f : α × State → β → α × State} (hf : ∀ p x, Fr V M s0 p.2 → Fr V M s0 (f p x).2) :
    ∀ {l : List β} {p : α × State}, Fr V M s0 p.2 → Fr V M s0 (l.foldl f p).2
  | [], _, h => h
  | x :: l, p, h => fr_foldl_snd (l := l) hf (hf p x h)

theorem frOut_next {s : State} (h : Fr V M s0 s) : FrOut V M s0 (.next s) := fun _ e => by cases e; exact h
theorem frOut_fault (f : Fault) : FrOut V M s0 (.fault f) := fun _ e => by cases e
theorem frOut_ite {c : Prop} [Decidable c] {x y : Out} (hx : FrOut V M s0 x) (hy : FrOut V M s0 y) :
    FrOut V M s0 (if c then x else y) := by split <;> assumption
theorem unitCmd_fr {n k : Nat} {t : State} (h : Fr V M s0 t) : FrOut V M s0 (unitCmd n k t) := by
  unfold unitCmd
  exact frOut_ite (frOut_next h) (frOut_fault _)

theorem wr_fr {s : State} (h : Fr V M s0 s) (k v : Nat) (hk : V k := by first | assumption | simp only [*]) :
    Fr V M s0 (s.wr k v) := by
  refine ⟨fun j hj => ?_, h.2⟩
  have e : j ≠ k := fun e => hj (e ▸ hk)
  rw [rd_wr_other s e]
  exact h.1 j hj

theorem frRule_mk {c : List (Bool × Nat)} {f : State → State} (h : ∀ s, Fr V M s0 s → Fr V M s0 (f s)) : FrRule V M s0 (c, f) := h
theorem frRule_ite {c : Prop} [Decidable c] {x y : Rule} (hx : FrRule V M s0 x) (hy : FrRule V M s0 y) :
    FrRule V M s0 (if c then x else y) := by split <;> assumption

set_option Elab.async false in
/-- A change of fields other than queue, time, memory and members. -/
theorem fr_mk_iff {s : State} {x_evq : List (Nat × Nat)} {x_freeCtr : Nat} {x_hdi : HdiS} {x_clk : ClockS} {x_sched : List Sched} {x_ve : Tab VeRun} {x_outCh : Tab OutCh} {x_inCh : Tab InCh} {x_fcp : Tab FcpS} {x_sq : Tab SqS} {x_brk : Tab BrkS} {x_tgt : Tab TgtS} {x_groupAt : List (Nat × Nat)} {x_dsp : Tab DspRun} {x_focus : FocusS} {x_trim : TrimS} {x_reqs : List MeshReq} {x_resps : List MeshResp} {x_held : List PortReq} {x_steal : List PortReq} {x_labels : List (MeshReq × Nat)} {x_drain : Option Drain} {x_trace : List Nat} {x_dmc : Tab DmcS} {x_autoTrain : Bool} {x_crh : CrhS} {x_cfg : CfgS} {x_fresh : List (Nat × Nat × Nat)} {x_cleared : List (Nat × Nat × Nat)} {x_sup : SupS} {x_dbg : DbgS} {x_tmu : TmuS} {x_lanes : Tab LaneS} {x_cells : Tab (Option CellS)} {x_cellCfg : Tab CellCfg} {x_sels : Tab Nat} {x_tracks : Tab Nat} {x_upsets : List Upset} {x_facets : Tab FacetS} {x_fev : List (Nat × Nat)} {x_panes : Tab PaneS} {x_banks : Tab BankS} {x_pins : PinsS} :
    Fr V M s0 ⟨s.now, s.reg, s.mem, x_evq, x_freeCtr, s.pending, x_hdi, x_clk, x_sched, x_ve, x_outCh, x_inCh, x_fcp, x_sq, x_brk, x_tgt, x_groupAt, x_dsp, x_focus, x_trim, x_reqs, x_resps, x_held, x_steal, x_labels, x_drain, x_trace, x_dmc, x_autoTrain, x_crh, x_cfg, x_fresh, x_cleared, x_sup, x_dbg, x_tmu, x_lanes, x_cells, x_cellCfg, x_sels, x_tracks, x_upsets, x_facets, x_fev, x_panes, x_banks, x_pins⟩ ↔ Fr V M s0 s := ⟨fun h => ⟨h.1, h.2⟩, fun h => ⟨h.1, h.2⟩⟩

end Sys2Proof.Laws
end

