-- ==== Sys2Proof/Laws/Effects.lean ====
section
/-! SUPPORT. What an access that nothing refuses leaves beside its count and its response. -/
namespace Sys2Proof.Laws
open Sys2Proof Sys2Proof.Machine

/-- t is u but for the count of the accesses that ended with 0x00, the responses of the masters and the mirror's lease. -/
structure Like (u t : State) : Prop where
  rd : ∀ k, k ≠ HDI.STATS 0 → t.rd k = u.rd k
  now : t.now = u.now
  mem : t.mem = u.mem
  evq : t.evq = u.evq
  freeCtr : t.freeCtr = u.freeCtr
  pending : t.pending = u.pending
  clk : t.clk = u.clk
  sched : t.sched = u.sched
  ve : t.ve = u.ve
  outCh : t.outCh = u.outCh
  inCh : t.inCh = u.inCh
  fcp : t.fcp = u.fcp
  sq : t.sq = u.sq
  brk : t.brk = u.brk
  tgt : t.tgt = u.tgt
  groupAt : t.groupAt = u.groupAt
  dsp : t.dsp = u.dsp
  focus : t.focus = u.focus
  trim : t.trim = u.trim
  reqs : t.reqs = u.reqs
  resps : t.resps = u.resps
  held : t.held = u.held
  drain : t.drain = u.drain
  trace : t.trace = u.trace
  dmc : t.dmc = u.dmc
  autoTrain : t.autoTrain = u.autoTrain
  crh : t.crh = u.crh
  cfg : t.cfg = u.cfg
  sup : t.sup = u.sup
  dbg : t.dbg = u.dbg
  tmu : t.tmu = u.tmu
  lanes : t.lanes = u.lanes
  cells : t.cells = u.cells
  cellCfg : t.cellCfg = u.cellCfg
  sels : t.sels = u.sels
  tracks : t.tracks = u.tracks
  upsets : t.upsets = u.upsets
  facets : t.facets = u.facets
  fev : t.fev = u.fev
  panes : t.panes = u.panes
  banks : t.banks = u.banks
  pins : t.pins = u.pins
  i3c : t.hdi.i3c = u.hdi.i3c
  slots : t.hdi.slots = u.hdi.slots
  mirror_batch : t.hdi.mirror.batch = u.hdi.mirror.batch
  mirror_edge : t.hdi.mirror.edge = u.hdi.mirror.edge
  mirror_syncLow : t.hdi.mirror.syncLow = u.hdi.mirror.syncLow
  master : ∀ m, ∃ r, t.masterOf m = { u.masterOf m with resp := r }

theorem like_refl (u : State) : Like u u := by constructor <;> intros <;> first | rfl | exact ⟨_, rfl⟩
theorem like_lease (u : State) (x : Nat) : Like u (u.modMirror fun mi => { mi with leaseEnd := x }) := by
  constructor
  · intro k _
    exact rd_modMirror u _ k
  all_goals first | rfl | exact fun m => ⟨_, rfl⟩
theorem like_restart (u : State) : Like u (restartLease u) := by
  unfold restartLease
  exact like_lease u _
theorem like_respond {u w : State} (h : Like u w) {q : Req} {op o m len data : Nat} :
    Like u (respond q op o m 0 len data w) := by
  constructor
  · intro k hk
    rw [rd_respond, if_neg hk]
    exact h.rd k hk
  · exact h.now
  · exact h.mem
  · exact h.evq
  · exact h.freeCtr
  · exact h.pending
  · exact h.clk
  · exact h.sched
  · exact h.ve
  · exact h.outCh
  · exact h.inCh
  · exact h.fcp
  · exact h.sq
  · exact h.brk
  · exact h.tgt
  · exact h.groupAt
  · exact h.dsp
  · exact h.focus
  · exact h.trim
  · exact h.reqs
  · exact h.resps
  · exact h.held
  · exact h.drain
  · exact h.trace
  · exact h.dmc
  · exact h.autoTrain
  · exact h.crh
  · exact h.cfg
  · exact h.sup
  · exact h.dbg
  · exact h.tmu
  · exact h.lanes
  · exact h.cells
  · exact h.cellCfg
  · exact h.sels
  · exact h.tracks
  · exact h.upsets
  · exact h.facets
  · exact h.fev
  · exact h.panes
  · exact h.banks
  · exact h.pins
  · exact h.i3c
  · exact h.slots
  · exact h.mirror_batch
  · exact h.mirror_edge
  · exact h.mirror_syncLow
  · intro x
    obtain ⟨r, hr⟩ := h.master x
    unfold respond
    by_cases e : x = q.master
    · subst e
      rw [masterOf_modMaster]
      refine ⟨⟨0, respOp q op o m, q.tag, o, m, len, data⟩, ?_⟩
      show ({ w.masterOf q.master with resp := ⟨0, respOp q op o m, q.tag, o, m, len, data⟩ } : MasterS) = _
      rw [hr]
    · rw [masterOf_modMaster_other _ e]
      exact ⟨r, hr⟩

theorem like_finish {q : Req} {op o m len data : Nat} {eff : State → State} {s : State} (h : deaf q s = false) :
    Like (eff s) (finish q op o m 0 len data eff s) := by
  rw [finish_ok h]
  have hl : Like (eff s) (if leases q op o m (eff s) then restartLease (eff s) else eff s) := by
    split
    · exact like_restart _
    · exact like_refl _
  generalize (if leases q op o m (eff s) then restartLease (eff s) else eff s) = u at hl ⊢
  exact like_respond hl

theorem resp_finish {q : Req} {op o m len data : Nat} {eff : State → State} {s : State} (h : deaf q s = false) :
    AnsweredWith q len data (finish q op o m 0 len data eff s) := by
  rw [finish_ok h]
  unfold AnsweredWith
  rw [respond_resp]
  exact ⟨rfl, rfl, rfl⟩

theorem firstOf_eq_zero {cs : List (Bool × Nat)} (h : firstOf cs = 0) (c : Bool × Nat) (hc : c ∈ cs)
    (hk : c.2 ∈ [1, 2, 3, 0xC, 4, 0xA, 5, 7, 6, 8, 0xB, 9]) : c.1 = false := by
  by_contra hne
  have ht : c.1 = true := by simpa using hne
  have hp : (fun k => cs.any fun p => p.1 && Nat.beq p.2 k) c.2 = true := by
    rw [List.any_eq_true]
    exact ⟨c, hc, by simp [ht]⟩
  unfold firstOf at h
  cases hf : [1, 2, 3, 0xC, 4, 0xA, 5, 7, 6, 8, 0xB, 9].find? (fun k => cs.any fun p => p.1 && Nat.beq p.2 k) with
  | none => exact (List.find?_eq_none.1 hf c.2 hk) hp
  | some x =>
    rw [hf] at h
    have hx := List.mem_of_find?_eq_some hf
    have h0 : x = 0 := h
    subst h0
    revert hx
    decide

theorem firstOf_append {a b : List (Bool × Nat)} (ha : firstOf a = 0) (hb : ∀ c ∈ b, c.1 = false) : firstOf (a ++ b) = 0 := by
  have hany : ∀ k, ((a ++ b).any fun p => p.1 && Nat.beq p.2 k) = a.any fun p => p.1 && Nat.beq p.2 k := by
    intro k
    rw [List.any_append]
    have : (b.any fun p => p.1 && Nat.beq p.2 k) = false := by
      rw [List.any_eq_false]
      intro p hp
      simp [hb p hp]
    rw [this, Bool.or_false]
  unfold firstOf at ha ⊢
  simp only [hany]
  exact ha

theorem statusOf_zero {q : Req} {op o m len v rlen : Nat} {extra : List (Bool × Nat)} {s : State}
    (h : firstOf (baseConds q op o m len v s) = 0) (hl : responseLong q rlen s = false) (hx : ∀ c ∈ extra, c.1 = false) :
    statusOf q op o m len v rlen extra s = 0 := by
  unfold statusOf
  simp only [firstOf_append h hx, hl]
  rfl

/-- What a write that nothing refuses does. -/
theorem writeTo_done {q : Req} {k len v : Nat} {extra : List (Bool × Nat)} {eff : State → State} {s : State}
    (h : Writes q k len v s) (hx : ∀ c ∈ extra, c.1 = false) :
    Answered q 0 (writeTo q k len v extra eff s) ∧ Like (eff s) (writeTo q k len v extra eff s) := by
  unfold writeTo
  rw [statusOf_zero h.1.2 h.2 hx]
  exact ⟨(resp_finish h.1.1).1, like_finish h.1.1⟩

/-- What a command that nothing refuses does. -/
theorem command_done {q : Req} {k code : Nat} {extra : List (Bool × Nat)} {eff : State → State} {s : State}
    (h : Writes q k 1 code s) (hx : ∀ c ∈ extra, c.1 = false) :
    Answered q 0 (command q k code extra eff s) ∧ Like (eff s) (command q k code extra eff s) := writeTo_done h hx

/-- What a READ that nothing refuses does, by a master other than the debug port. -/
theorem readFrom_done {q : Req} {k len data : Nat} {extra : List (Bool × Nat)} {eff : State → State} {s : State}
    (h : Takes q k len s) (hq : q.master ≠ 9) (hx : ∀ c ∈ extra, c.1 = false) :
    AnsweredWith q len data (readFrom q k len data extra eff s) ∧ Like (eff s) (readFrom q k len data extra eff s) := by
  have hd : debugRead q 1 (k / 256) (k % 256) = false := by
    unfold debugRead
    have : Nat.beq q.master 9 = false := by
      rw [Bool.eq_false_iff]
      intro e
      exact hq (Nat.eq_of_beq_eq_true e)
    rw [this]
    rfl
  unfold readFrom
  simp only [h.2, hd, Bool.false_eq_true, Bool.or_self, if_false]
  rw [statusOf_zero h.1.1.2 h.1.2 hx]
  exact ⟨resp_finish h.1.1.1, like_finish h.1.1.1⟩

/-- What a READ that nothing refuses does, by any master: a debug read of an RC member leaves its side effect out. -/
theorem readFrom_any {q : Req} {k len data : Nat} {extra : List (Bool × Nat)} {eff : State → State} {s : State}
    (h : Takes q k len s) (hx : ∀ c ∈ extra, c.1 = false) :
    AnsweredWith q len data (readFrom q k len data extra eff s) ∧
      Like ((if debugRead q 1 (k / 256) (k % 256) then fun s => s else eff) s) (readFrom q k len data extra eff s) := by
  unfold readFrom
  simp only [h.2, Bool.false_or, Bool.false_eq_true, if_false]
  rw [statusOf_zero h.1.1.2 h.1.2 hx]
  exact ⟨resp_finish h.1.1.1, like_finish h.1.1.1⟩

theorem only_of_fr {V : Nat → Prop} {s t : State} (h : Fr V False s t) : Only V s t := ⟨h.2 not_false, h.1⟩
set_option Elab.async false in
theorem only_of_frOut {V : Nat → Prop} {s t : State} {o : Out} (h : FrOut V False s o) (e : o = .next t) : Only V s t :=
  only_of_fr (h t e)

end Sys2Proof.Laws
end

