-- ==== Sys2Proof/Laws/FrameOps.lean ====
section
/-! SUPPORT. Which members every operation of Machine/Ops.lean can change, and whether it can change the memory. -/
namespace Sys2Proof.Laws
open Sys2Proof Sys2Proof.Machine
set_option linter.unusedVariables false
set_option linter.unusedTactic false
set_option linter.unreachableTactic false

variable {V : Nat → Prop} {M : Prop} {s0 : State}

theorem addTo_fr (s : State) (w k d : Nat) (hs : Fr V M s0 s) (key0 : V k) :
    Fr V M s0 (State.addTo s w k d) := by
  unfold State.addTo
  repeat' first
    | with_reducible intro _
    | with_reducible assumption
    | with_reducible apply wr_fr

theorem bump_fr (s : State) (w k : Nat) (hs : Fr V M s0 s) (key0 : V k := by first | assumption | simp only [*]) :
    Fr V M s0 (State.bump s w k) := by
  unfold State.bump
  repeat' first
    | with_reducible intro _
    | with_reducible assumption
    | with_reducible apply addTo_fr

theorem raiseAt_fr (s : State) (t e : Nat) (hs : Fr V M s0 s) :
    Fr V M s0 (State.raiseAt s t e) := by
  unfold State.raiseAt
  repeat' first
    | with_reducible intro _
    | with_reducible assumption
    | simp only [↓fr_mk_iff]
    | with_reducible apply fr_ite
    | (extract_lets x; first | (with_reducible refine fr_cut (s := x) ?_ ?_; (on_goal 2 => clear_value x); (on_goal 1 => unfold x)) | (subst x))
    | split

theorem raise_fr (s : State) (e : Nat) (hs : Fr V M s0 s) :
    Fr V M s0 (State.raise s e) := by
  unfold State.raise
  repeat' first
    | with_reducible intro _
    | with_reducible assumption
    | with_reducible apply raiseAt_fr
    | simp only [↓fr_mk_iff]
    | with_reducible apply fr_ite
    | (extract_lets x; first | (with_reducible refine fr_cut (s := x) ?_ ?_; (on_goal 2 => clear_value x); (on_goal 1 => unfold x)) | (subst x))
    | split

theorem setBit_fr (s : State) (k b : Nat) (v : Bool) (hs : Fr V M s0 s) (key0 : V k := by first | assumption | simp only [*]) :
    Fr V M s0 (State.setBit s k b v) := by
  unfold State.setBit
  repeat' first
    | with_reducible intro _
    | with_reducible assumption
    | with_reducible apply wr_fr
    | with_reducible apply fr_ite
    | split

theorem note_fr (s : State) (k b : Nat) (hs : Fr V M s0 s) :
    Fr V M s0 (State.note s k b) := by
  unfold State.note
  repeat' first
    | with_reducible intro _
    | with_reducible assumption
    | simp only [↓fr_mk_iff]
    | with_reducible apply fr_ite
    | (extract_lets x; first | (with_reducible refine fr_cut (s := x) ?_ ?_; (on_goal 2 => clear_value x); (on_goal 1 => unfold x)) | (subst x))
    | split

theorem flag_fr (s : State) (k b e : Nat) (hs : Fr V M s0 s) (key0 : V k) :
    Fr V M s0 (State.flag s k b e) := by
  unfold State.flag
  repeat' first
    | with_reducible intro _
    | with_reducible assumption
    | with_reducible apply key0
    | with_reducible apply note_fr
    | with_reducible apply setBit_fr
    | with_reducible apply raise_fr
    | simp only [↓fr_mk_iff]
    | with_reducible apply fr_ite
    | (extract_lets x; first | (with_reducible refine fr_cut (s := x) ?_ ?_; (on_goal 2 => clear_value x); (on_goal 1 => unfold x)) | (subst x))
    | split

theorem clearBits_fr (s : State) (k v : Nat) (hs : Fr V M s0 s) (key0 : V k) :
    Fr V M s0 (State.clearBits s k v) := by
  unfold State.clearBits
  repeat' first
    | with_reducible intro _
    | with_reducible assumption
    | with_reducible apply key0
    | with_reducible apply wr_fr
    | simp only [↓fr_mk_iff]
    | with_reducible apply fr_ite
    | (extract_lets x; first | (with_reducible refine fr_cut (s := x) ?_ ?_; (on_goal 2 => clear_value x); (on_goal 1 => unfold x)) | (subst x))
    | split

theorem upto_fr (s : State) (t : Nat) (hs : Fr V M s0 s) : Fr V M s0 (State.upto s t) :=
  (fr_of hs rfl rfl)

theorem drawn_fr (s : State) (hs : Fr V M s0 s) :
    Fr V M s0 (State.drawn s) := by
  unfold State.drawn
  repeat' first
    | with_reducible intro _
    | with_reducible assumption
    | simp only [↓fr_mk_iff]

theorem modVe_fr (s : State) (n : Nat) (f : VeRun → VeRun) (hs : Fr V M s0 s) :
    Fr V M s0 (State.modVe s n f) := by
  unfold State.modVe
  repeat' first
    | with_reducible intro _
    | with_reducible assumption
    | simp only [↓fr_mk_iff]

theorem modOut_fr (s : State) (c : Nat) (f : OutCh → OutCh) (hs : Fr V M s0 s) :
    Fr V M s0 (State.modOut s c f) := by
  unfold State.modOut
  repeat' first
    | with_reducible intro _
    | with_reducible assumption
    | simp only [↓fr_mk_iff]

theorem modIn_fr (s : State) (c : Nat) (f : InCh → InCh) (hs : Fr V M s0 s) :
    Fr V M s0 (State.modIn s c f) := by
  unfold State.modIn
  repeat' first
    | with_reducible intro _
    | with_reducible assumption
    | simp only [↓fr_mk_iff]

theorem modFcp_fr (s : State) (n : Nat) (f : FcpS → FcpS) (hs : Fr V M s0 s) :
    Fr V M s0 (State.modFcp s n f) := by
  unfold State.modFcp
  repeat' first
    | with_reducible intro _
    | with_reducible assumption
    | simp only [↓fr_mk_iff]

theorem modSq_fr (s : State) (q : Nat) (f : SqS → SqS) (hs : Fr V M s0 s) :
    Fr V M s0 (State.modSq s q f) := by
  unfold State.modSq
  repeat' first
    | with_reducible intro _
    | with_reducible assumption
    | simp only [↓fr_mk_iff]

theorem modBrk_fr (s : State) (u : Nat) (f : BrkS → BrkS) (hs : Fr V M s0 s) :
    Fr V M s0 (State.modBrk s u f) := by
  unfold State.modBrk
  repeat' first
    | with_reducible intro _
    | with_reducible assumption
    | simp only [↓fr_mk_iff]

theorem modTgt_fr (s : State) (t : Nat) (f : TgtS → TgtS) (hs : Fr V M s0 s) :
    Fr V M s0 (State.modTgt s t f) := by
  unfold State.modTgt
  repeat' first
    | with_reducible intro _
    | with_reducible assumption
    | simp only [↓fr_mk_iff]

theorem modDsp_fr (s : State) (n : Nat) (f : DspRun → DspRun) (hs : Fr V M s0 s) :
    Fr V M s0 (State.modDsp s n f) := by
  unfold State.modDsp
  repeat' first
    | with_reducible intro _
    | with_reducible assumption
    | simp only [↓fr_mk_iff]

theorem modFacet_fr (s : State) (f : Nat) (g : FacetS → FacetS) (hs : Fr V M s0 s) :
    Fr V M s0 (State.modFacet s f g) := by
  unfold State.modFacet
  repeat' first
    | with_reducible intro _
    | with_reducible assumption
    | simp only [↓fr_mk_iff]

theorem modPane_fr (s : State) (p : Nat) (g : PaneS → PaneS) (hs : Fr V M s0 s) :
    Fr V M s0 (State.modPane s p g) := by
  unfold State.modPane
  repeat' first
    | with_reducible intro _
    | with_reducible assumption
    | simp only [↓fr_mk_iff]

theorem modBank_fr (s : State) (b : Nat) (g : BankS → BankS) (hs : Fr V M s0 s) :
    Fr V M s0 (State.modBank s b g) := by
  unfold State.modBank
  repeat' first
    | with_reducible intro _
    | with_reducible assumption
    | simp only [↓fr_mk_iff]

theorem modDmc_fr (s : State) (n : Nat) (g : DmcS → DmcS) (hs : Fr V M s0 s) :
    Fr V M s0 (State.modDmc s n g) := by
  unfold State.modDmc
  repeat' first
    | with_reducible intro _
    | with_reducible assumption
    | simp only [↓fr_mk_iff]

theorem modLane_fr (s : State) (n : Nat) (g : LaneS → LaneS) (hs : Fr V M s0 s) :
    Fr V M s0 (State.modLane s n g) := by
  unfold State.modLane
  repeat' first
    | with_reducible intro _
    | with_reducible assumption
    | simp only [↓fr_mk_iff]

theorem modTmu_fr (s : State) (g : TmuS → TmuS) (hs : Fr V M s0 s) :
    Fr V M s0 (State.modTmu s g) := by
  unfold State.modTmu
  repeat' first
    | with_reducible intro _
    | with_reducible assumption
    | simp only [↓fr_mk_iff]

theorem modLaneTime_fr (s : State) (n : Nat) (g : LaneTime → LaneTime) (hs : Fr V M s0 s) :
    Fr V M s0 (State.modLaneTime s n g) := by
  unfold State.modLaneTime
  repeat' first
    | with_reducible intro _
    | with_reducible assumption
    | with_reducible apply modTmu_fr
    | simp only [↓fr_mk_iff]

theorem modTrg_fr (s : State) (t : Nat) (g : TrgS → TrgS) (hs : Fr V M s0 s) :
    Fr V M s0 (State.modTrg s t g) := by
  unfold State.modTrg
  repeat' first
    | with_reducible intro _
    | with_reducible assumption
    | with_reducible apply modTmu_fr
    | simp only [↓fr_mk_iff]

theorem modCap_fr (s : State) (t : Nat) (g : CapS → CapS) (hs : Fr V M s0 s) :
    Fr V M s0 (State.modCap s t g) := by
  unfold State.modCap
  repeat' first
    | with_reducible intro _
    | with_reducible assumption
    | with_reducible apply modTmu_fr
    | simp only [↓fr_mk_iff]

theorem store_fr (s : State) (a n v : Nat) (hs : Fr V M s0 s) (key0 : M := by first | assumption | simp only [*]) : Fr V M s0 (State.store s a n v) :=
  (fr_mem (by assumption) hs rfl)

theorem modMaster_fr (s : State) (m : Nat) (f : MasterS → MasterS) (hs : Fr V M s0 s) :
    Fr V M s0 (State.modMaster s m f) := by
  unfold State.modMaster
  repeat' first
    | with_reducible intro _
    | with_reducible assumption
    | simp only [↓fr_mk_iff]

theorem modSlot_fr (s : State) (k : Nat) (f : SlotS → SlotS) (hs : Fr V M s0 s) :
    Fr V M s0 (State.modSlot s k f) := by
  unfold State.modSlot
  repeat' first
    | with_reducible intro _
    | with_reducible assumption
    | simp only [↓fr_mk_iff]

theorem modI3c_fr (s : State) (f : I3cS → I3cS) (hs : Fr V M s0 s) :
    Fr V M s0 (State.modI3c s f) := by
  unfold State.modI3c
  repeat' first
    | with_reducible intro _
    | with_reducible assumption
    | simp only [↓fr_mk_iff]

theorem modMirror_fr (s : State) (f : MirrorS → MirrorS) (hs : Fr V M s0 s) :
    Fr V M s0 (State.modMirror s f) := by
  unfold State.modMirror
  repeat' first
    | with_reducible intro _
    | with_reducible assumption
    | simp only [↓fr_mk_iff]

theorem meshSend_fr (r : MeshReq) (s : State) (hs : Fr V M s0 s) :
    Fr V M s0 (meshSend r s) := by
  unfold meshSend
  repeat' first
    | with_reducible intro _
    | with_reducible assumption
    | simp only [↓fr_mk_iff]
    | with_reducible apply fr_ite
    | (extract_lets x; first | (with_reducible refine fr_cut (s := x) ?_ ?_; (on_goal 2 => clear_value x); (on_goal 1 => unfold x)) | (subst x))
    | split

theorem meshAnswer_fr (r : MeshReq) (kind data : Nat) (s : State) (hs : Fr V M s0 s) :
    Fr V M s0 (meshAnswer r kind data s) := by
  unfold meshAnswer
  repeat' first
    | with_reducible intro _
    | with_reducible assumption
    | simp only [↓fr_mk_iff]

theorem respTaken_fr (x : MeshResp) (s : State) (hs : Fr V M s0 s) :
    Fr V M s0 (respTaken x s) := by
  unfold respTaken
  repeat' first
    | with_reducible intro _
    | with_reducible assumption
    | simp only [↓fr_mk_iff]
    | with_reducible apply fr_ite
    | (extract_lets x; first | (with_reducible refine fr_cut (s := x) ?_ ?_; (on_goal 2 => clear_value x); (on_goal 1 => unfold x)) | (subst x))
    | split

theorem restartLease_fr (s : State) (hs : Fr V M s0 s) :
    Fr V M s0 (restartLease s) := by
  unfold restartLease
  repeat' first
    | with_reducible intro _
    | with_reducible assumption
    | with_reducible apply modMirror_fr
    | simp only [↓fr_mk_iff]

theorem respond_fr (q : Req) (op o m st len data : Nat) (s : State) (hs : Fr V M s0 s) (key0 : V (HDI.STATS st)) :
    Fr V M s0 (respond q op o m st len data s) := by
  unfold respond
  repeat' first
    | with_reducible intro _
    | with_reducible assumption
    | with_reducible apply key0
    | with_reducible apply modMaster_fr
    | with_reducible apply bump_fr
    | simp only [↓fr_mk_iff]
    | with_reducible apply fr_ite
    | (extract_lets x; first | (with_reducible refine fr_cut (s := x) ?_ ?_; (on_goal 2 => clear_value x); (on_goal 1 => unfold x)) | (subst x))
    | split

theorem finish_fr (q : Req) (op o m st len data : Nat) (eff : State → State) (s : State) (heff : ∀ (y0 : State), Fr V M s0 y0 → Fr V M s0 (eff y0)) (hs : Fr V M s0 s) (key0 : V (HDI.STATS 0) := by first | assumption | simp only [*]) (key1 : V (HDI.STATS st) := by first | assumption | simp only [*]) :
    Fr V M s0 (finish q op o m st len data eff s) := by
  unfold finish
  repeat' first
    | with_reducible intro _
    | with_reducible assumption
    | with_reducible apply heff
    | with_reducible apply respond_fr
    | with_reducible apply restartLease_fr
    | with_reducible apply fr_ite
    | (extract_lets x; first | (with_reducible refine fr_cut (s := x) ?_ ?_; (on_goal 2 => clear_value x); (on_goal 1 => unfold x)) | (subst x))
    | split

theorem command_fr (q : Req) (k code : Nat) (extra : List (Bool × Nat)) (eff : State → State) (s : State) (heff : ∀ (y0 : State), Fr V M s0 y0 → Fr V M s0 (eff y0)) (hs : Fr V M s0 s) (key0 : ∀ u0, V (HDI.STATS u0)) :
    Fr V M s0 (command q k code extra eff s) := by
  unfold command
  repeat' first
    | with_reducible intro _
    | with_reducible assumption
    | with_reducible apply key0
    | with_reducible apply heff
    | with_reducible apply finish_fr

theorem writeTo_fr (q : Req) (k len v : Nat) (extra : List (Bool × Nat)) (eff : State → State) (s : State) (heff : ∀ (y0 : State), Fr V M s0 y0 → Fr V M s0 (eff y0)) (hs : Fr V M s0 s) (key0 : ∀ u0, V (HDI.STATS u0)) :
    Fr V M s0 (writeTo q k len v extra eff s) := by
  unfold writeTo
  repeat' first
    | with_reducible intro _
    | with_reducible assumption
    | with_reducible apply key0
    | with_reducible apply heff
    | with_reducible apply finish_fr

set_option Elab.async false in
theorem readFrom_fr (q : Req) (k len data : Nat) (extra : List (Bool × Nat)) (eff : State → State) (s : State) (hs : Fr V M s0 s) (heff : ∀ (y0 : State), Fr V M s0 y0 → Fr V M s0 (eff y0)) (key0 : ∀ u0, V (HDI.STATS u0)) :
    Fr V M s0 (readFrom q k len data extra eff s) := by
  unfold readFrom
  repeat' first
    | with_reducible intro _
    | with_reducible assumption
    | with_reducible apply heff
    | with_reducible apply key0
    | with_reducible apply finish_fr
    | simp only [↓fr_mk_iff]
    | with_reducible apply fr_ite
    | (extract_lets x; first | (with_reducible refine fr_cut (s := x) ?_ ?_; (on_goal 2 => clear_value x); (on_goal 1 => unfold x)) | (subst x))
    | split

end Sys2Proof.Laws
end

