-- ==== Sys2Proof/Laws/FrameBrk.lean ====
section
/-! SUPPORT. Which members every operation of Machine/Brk.lean can change, and whether it can change the memory. -/
namespace Sys2Proof.Laws
open Sys2Proof Sys2Proof.Machine
set_option linter.unusedVariables false
set_option linter.unusedTactic false
set_option linter.unreachableTactic false

variable {V : Nat → Prop} {M : Prop} {s0 : State}

theorem latchDebugHalt_fr (t th : Nat) (s : State) (hs : Fr V M s0 s) :
    Fr V M s0 (latchDebugHalt t th s) := by
  unfold latchDebugHalt
  repeat' first
    | with_reducible intro _
    | with_reducible assumption
    | with_reducible apply modTgt_fr
    | with_reducible apply modVe_fr
    | with_reducible apply modDsp_fr
    | simp only [↓fr_mk_iff]
    | with_reducible apply fr_ite
    | (extract_lets x; first | (with_reducible refine fr_cut (s := x) ?_ ?_; (on_goal 2 => clear_value x); (on_goal 1 => unfold x)) | (subst x))
    | split

theorem linkFired_fr (u : Nat) (s : State) (hs : Fr V M s0 s) :
    Fr V M s0 (linkFired u s) := by
  unfold linkFired
  repeat' first
    | with_reducible intro _
    | with_reducible assumption
    | with_reducible apply modBrk_fr
    | simp only [↓fr_mk_iff]
    | with_reducible apply fr_ite
    | with_reducible apply fr_foldl
    | split

theorem brkFire_fr (u t th : Nat) (s : State) (hs : Fr V M s0 s) (key0 : V (DBG.BRK_STATE u)) (key1 : V (DBG.EVFLAGS)) :
    Fr V M s0 (brkFire u t th s) := by
  unfold brkFire
  repeat' first
    | with_reducible intro _
    | with_reducible assumption
    | with_reducible apply key0
    | with_reducible apply key1
    | with_reducible apply linkFired_fr
    | with_reducible apply latchDebugHalt_fr
    | with_reducible apply flag_fr
    | with_reducible apply wr_fr
    | simp only [↓fr_mk_iff]
    | with_reducible apply fr_ite
    | (extract_lets x; first | (with_reducible refine fr_cut (s := x) ?_ ?_; (on_goal 2 => clear_value x); (on_goal 1 => unfold x)) | (subst x))
    | split

theorem brkCount_fr (u t th : Nat) (s : State) (hs : Fr V M s0 s) (key0 : V (DBG.BRK_HITS u)) (key1 : V (DBG.BRK_STATE u)) (key2 : V (DBG.EVFLAGS)) :
    Fr V M s0 (brkCount u t th s) := by
  unfold brkCount
  repeat' first
    | with_reducible intro _
    | with_reducible assumption
    | with_reducible apply bump_fr
    | with_reducible apply modBrk_fr
    | with_reducible apply brkFire_fr
    | simp only [↓fr_mk_iff]
    | with_reducible apply fr_ite
    | (extract_lets x; first | (with_reducible refine fr_cut (s := x) ?_ ?_; (on_goal 2 => clear_value x); (on_goal 1 => unfold x)) | (subst x))
    | split

set_option Elab.async false in
theorem brkMatch_fr (kind t v ctx cls th : Nat) (s : State) (hs : Fr V M s0 s) (key0 : ∀ u0, V (DBG.BRK_HITS u0) := by first | assumption | simp only [*]) (key1 : ∀ u0, V (DBG.BRK_STATE u0) := by first | assumption | simp only [*]) (key2 : V (DBG.EVFLAGS) := by first | assumption | simp only [*]) :
    Fr V M s0 (brkMatch kind t v ctx cls th s) := by
  unfold brkMatch
  repeat' first
    | with_reducible intro _
    | with_reducible assumption
    | with_reducible apply key0
    | with_reducible apply key1
    | with_reducible apply key2
    | with_reducible apply brkCount_fr
    | simp only [↓fr_mk_iff]
    | with_reducible apply fr_foldl
    | with_reducible apply fr_foldl_snd
    | with_reducible apply fr_ite
    | (extract_lets x; first | (with_reducible refine fr_cut (s := x) ?_ ?_; (on_goal 2 => clear_value x); (on_goal 1 => unfold x)) | (subst x))
    | split

end Sys2Proof.Laws
end

