-- ==== Sys2Proof/Laws/FrameCapture.lean ====
section
/-! SUPPORT. Which members every operation of Machine/Capture.lean can change, and whether it can change the memory. -/
namespace Sys2Proof.Laws
open Sys2Proof Sys2Proof.Machine
set_option linter.unusedVariables false
set_option linter.unusedTactic false
set_option linter.unreachableTactic false

variable {V : Nat → Prop} {M : Prop} {s0 : State}

theorem qFlag_fr (q b th : Nat) (s : State) (hs : Fr V M s0 s) (key0 : V (FCP.Q_EVFLAGS q)) :
    Fr V M s0 (qFlag q b th s) := by
  unfold qFlag
  repeat' first
    | with_reducible intro _
    | with_reducible assumption
    | with_reducible apply key0
    | with_reducible apply modSq_fr
    | with_reducible apply note_fr
    | with_reducible apply setBit_fr
    | with_reducible apply raise_fr
    | simp only [↓fr_mk_iff]
    | with_reducible apply fr_ite
    | (extract_lets x; first | (with_reducible refine fr_cut (s := x) ?_ ?_; (on_goal 2 => clear_value x); (on_goal 1 => unfold x)) | (subst x))
    | split

theorem fcpStopOne_fr (n code th : Nat) (s : State) (hs : Fr V M s0 s) (key0 : V (FCP.Q_EVFLAGS n)) (key1 : V (FCP.STOPPED_BY n)) :
    Fr V M s0 (fcpStopOne n code th s) := by
  unfold fcpStopOne
  repeat' first
    | with_reducible intro _
    | with_reducible assumption
    | with_reducible apply wr_fr
    | with_reducible apply modFcp_fr
    | with_reducible apply qFlag_fr
    | with_reducible apply modVe_fr
    | simp only [↓fr_mk_iff]
    | with_reducible apply fr_ite
    | (extract_lets x; first | (with_reducible refine fr_cut (s := x) ?_ ?_; (on_goal 2 => clear_value x); (on_goal 1 => unfold x)) | (subst x))
    | split

theorem fcpStop_fr (n code policy th : Nat) (s : State) (hs : Fr V M s0 s) (key0 : ∀ u0, V (FCP.Q_EVFLAGS u0)) (key1 : ∀ u0, V (FCP.STOPPED_BY u0)) :
    Fr V M s0 (fcpStop n code policy th s) := by
  unfold fcpStop
  repeat' first
    | with_reducible intro _
    | with_reducible assumption
    | with_reducible apply key0
    | with_reducible apply key1
    | with_reducible apply fcpStopOne_fr
    | with_reducible apply fr_ite
    | with_reducible apply fr_foldl
    | (extract_lets x; first | (with_reducible refine fr_cut (s := x) ?_ ?_; (on_goal 2 => clear_value x); (on_goal 1 => unfold x)) | (subst x))
    | split

theorem fcpDrop_fr (n counter policy th : Nat) (s : State) (hs : Fr V M s0 s) (key0 : V counter) (key1 : ∀ u0, V (FCP.Q_EVFLAGS u0)) (key2 : ∀ u0, V (FCP.STOPPED_BY u0)) :
    Fr V M s0 (fcpDrop n counter policy th s) := by
  unfold fcpDrop
  repeat' first
    | with_reducible intro _
    | with_reducible assumption
    | with_reducible apply key1
    | with_reducible apply key2
    | with_reducible apply qFlag_fr
    | with_reducible apply bump_fr
    | with_reducible apply fcpStop_fr
    | with_reducible apply modFcp_fr
    | simp only [↓fr_mk_iff]
    | with_reducible apply fr_ite
    | (extract_lets x; first | (with_reducible refine fr_cut (s := x) ?_ ?_; (on_goal 2 => clear_value x); (on_goal 1 => unfold x)) | (subst x))
    | split

theorem formRecord_fr (n th : Nat) (r : FailRec) (s : State) (hs : Fr V M s0 s) (key0 : ∀ u0, V (FCP.Q_EVFLAGS u0)) (key1 : V (FCP.REC_CAPPED n)) (key2 : V (FCP.REC_DROP_CAP n)) (key3 : V (FCP.REC_DROP_RING n)) (key4 : V (FCP.REC_FORMED n)) (key5 : ∀ u0, V (FCP.STOPPED_BY u0)) :
    Fr V M s0 (formRecord n th r s) := by
  unfold formRecord
  repeat' first
    | with_reducible intro _
    | with_reducible assumption
    | with_reducible apply key0
    | with_reducible apply key5
    | with_reducible apply bump_fr
    | with_reducible apply modFcp_fr
    | with_reducible apply fcpDrop_fr
    | simp only [↓fr_mk_iff]
    | with_reducible apply fr_ite
    | (extract_lets x; first | (with_reducible refine fr_cut (s := x) ?_ ?_; (on_goal 2 => clear_value x); (on_goal 1 => unfold x)) | (subst x))
    | split

theorem closeRecord_fr (n th : Nat) (s : State) (hs : Fr V M s0 s) (key0 : ∀ u0, V (FCP.Q_EVFLAGS u0)) (key1 : V (FCP.REC_CAPPED n)) (key2 : V (FCP.REC_DROP_CAP n)) (key3 : V (FCP.REC_DROP_RING n)) (key4 : V (FCP.REC_FORMED n)) (key5 : ∀ u0, V (FCP.STOPPED_BY u0)) :
    Fr V M s0 (closeRecord n th s) := by
  unfold closeRecord
  repeat' first
    | with_reducible intro _
    | with_reducible assumption
    | with_reducible apply key0
    | with_reducible apply key5
    | with_reducible apply formRecord_fr
    | with_reducible apply modFcp_fr
    | simp only [↓fr_mk_iff]
    | split

theorem formBitmap_fr (n th : Nat) (op : BmOp) (s : State) (hs : Fr V M s0 s) (key0 : V (FCP.BM_DROP n)) (key1 : V (FCP.BM_FORMED n)) (key2 : ∀ u0, V (FCP.Q_EVFLAGS u0)) (key3 : ∀ u0, V (FCP.STOPPED_BY u0)) :
    Fr V M s0 (formBitmap n th op s) := by
  unfold formBitmap
  repeat' first
    | with_reducible intro _
    | with_reducible assumption
    | with_reducible apply key2
    | with_reducible apply key3
    | with_reducible apply bump_fr
    | with_reducible apply modFcp_fr
    | with_reducible apply fcpDrop_fr
    | simp only [↓fr_mk_iff]
    | with_reducible apply fr_ite
    | (extract_lets x; first | (with_reducible refine fr_cut (s := x) ?_ ?_; (on_goal 2 => clear_value x); (on_goal 1 => unfold x)) | (subst x))
    | split

theorem closeBitmap_fr (n th : Nat) (s : State) (hs : Fr V M s0 s) (key0 : V (FCP.BM_DROP n)) (key1 : V (FCP.BM_FORMED n)) (key2 : ∀ u0, V (FCP.Q_EVFLAGS u0)) (key3 : ∀ u0, V (FCP.STOPPED_BY u0)) :
    Fr V M s0 (closeBitmap n th s) := by
  unfold closeBitmap
  repeat' first
    | with_reducible intro _
    | with_reducible assumption
    | with_reducible apply key2
    | with_reducible apply key3
    | with_reducible apply formBitmap_fr
    | with_reducible apply modFcp_fr
    | simp only [↓fr_mk_iff]
    | split

set_option Elab.async false in
theorem closeMark_fr (n th : Nat) (s : State) (hs : Fr V M s0 s) (key0 : V (FCP.BM_DROP n)) (key1 : V (FCP.BM_FORMED n)) (key2 : ∀ u0, V (FCP.Q_EVFLAGS u0)) (key3 : V (FCP.REC_CAPPED n)) (key4 : V (FCP.REC_DROP_CAP n)) (key5 : V (FCP.REC_DROP_RING n)) (key6 : V (FCP.REC_FORMED n)) (key7 : ∀ u0, V (FCP.STOPPED_BY u0)) :
    Fr V M s0 (closeMark n th s) := by
  unfold closeMark
  repeat' first
    | with_reducible intro _
    | with_reducible assumption
    | with_reducible apply key2
    | with_reducible apply key7
    | with_reducible apply modFcp_fr
    | with_reducible apply closeBitmap_fr
    | with_reducible apply closeRecord_fr
    | simp only [↓fr_mk_iff]
    | split

end Sys2Proof.Laws
end

