-- ==== Sys2Proof/Laws/FrameChan.lean ====
section
/-! SUPPORT. Which members every operation of Machine/Chan.lean can change, and whether it can change the memory. -/
namespace Sys2Proof.Laws
open Sys2Proof Sys2Proof.Machine
set_option linter.unusedVariables false
set_option linter.unusedTactic false
set_option linter.unreachableTactic false

variable {V : Nat → Prop} {M : Prop} {s0 : State}

theorem settleOut_fr (c : Nat) (s : State) (hs : Fr V M s0 s) (key0 : V (EDG.EDGE_DROP c)) (key1 : V (EDG.DROP_GROUPS)) :
    Fr V M s0 (settleOut c s) := by
  unfold settleOut
  repeat' first
    | with_reducible intro _
    | with_reducible assumption
    | with_reducible apply key0
    | with_reducible apply key1
    | with_reducible apply modOut_fr
    | with_reducible apply setBit_fr
    | with_reducible apply wr_fr
    | simp only [↓fr_mk_iff]
    | with_reducible apply fr_ite
    | (extract_lets x; first | (with_reducible refine fr_cut (s := x) ?_ ?_; (on_goal 2 => clear_value x); (on_goal 1 => unfold x)) | (subst x))
    | split

theorem settleIn_fr (c : Nat) (s : State) (hs : Fr V M s0 s) (key0 : V (EDG.STROBE_DROP c)) (key1 : V (EDG.DROP_GROUPS)) :
    Fr V M s0 (settleIn c s) := by
  unfold settleIn
  repeat' first
    | with_reducible intro _
    | with_reducible assumption
    | with_reducible apply key0
    | with_reducible apply key1
    | with_reducible apply modIn_fr
    | with_reducible apply setBit_fr
    | with_reducible apply wr_fr
    | simp only [↓fr_mk_iff]
    | with_reducible apply fr_ite
    | (extract_lets x; first | (with_reducible refine fr_cut (s := x) ?_ ?_; (on_goal 2 => clear_value x); (on_goal 1 => unfold x)) | (subst x))
    | split

theorem settleDrops_fr (s : State) (hs : Fr V M s0 s) (key0 : ∀ u0, V (EDG.EDGE_DROP u0)) (key1 : V (EDG.DROP_GROUPS)) (key2 : ∀ u0, V (EDG.STROBE_DROP u0)) :
    Fr V M s0 (settleDrops s) := by
  unfold settleDrops
  repeat' first
    | with_reducible intro _
    | with_reducible assumption
    | with_reducible apply key0
    | with_reducible apply key1
    | with_reducible apply key2
    | with_reducible apply settleIn_fr
    | with_reducible apply settleOut_fr
    | simp only [↓fr_mk_iff]
    | with_reducible apply fr_foldl
    | with_reducible apply fr_foldl_snd
    | with_reducible apply fr_ite
    | (extract_lets x; first | (with_reducible refine fr_cut (s := x) ?_ ?_; (on_goal 2 => clear_value x); (on_goal 1 => unfold x)) | (subst x))
    | split

theorem dropOut_fr (c t : Nat) (s : State) (hs : Fr V M s0 s) (key0 : V (EDG.EDGE_DROP c)) (key1 : V (EDG.DROP_GROUPS)) :
    Fr V M s0 (dropOut c t s) := by
  unfold dropOut
  repeat' first
    | with_reducible intro _
    | with_reducible assumption
    | with_reducible apply key0
    | with_reducible apply key1
    | with_reducible apply settleOut_fr
    | with_reducible apply modOut_fr
    | with_reducible apply raiseAt_fr
    | simp only [↓fr_mk_iff]
    | with_reducible apply fr_ite
    | (extract_lets x; first | (with_reducible refine fr_cut (s := x) ?_ ?_; (on_goal 2 => clear_value x); (on_goal 1 => unfold x)) | (subst x))
    | split

theorem dropIn_fr (c t : Nat) (s : State) (hs : Fr V M s0 s) (key0 : V (EDG.STROBE_DROP c)) (key1 : V (EDG.DROP_GROUPS)) :
    Fr V M s0 (dropIn c t s) := by
  unfold dropIn
  repeat' first
    | with_reducible intro _
    | with_reducible assumption
    | with_reducible apply key0
    | with_reducible apply key1
    | with_reducible apply settleIn_fr
    | with_reducible apply modIn_fr
    | with_reducible apply raiseAt_fr
    | simp only [↓fr_mk_iff]
    | with_reducible apply fr_ite
    | (extract_lets x; first | (with_reducible refine fr_cut (s := x) ?_ ?_; (on_goal 2 => clear_value x); (on_goal 1 => unfold x)) | (subst x))
    | split

theorem placeData_fr (c t : Nat) (op : Option EdgeOp) (s : State) (hs : Fr V M s0 s) (key0 : V (EDG.DROP_GROUPS)) (key1 : V (EDG.EDGE_DROP c)) :
    Fr V M s0 (placeData c t op s) := by
  unfold placeData
  repeat' first
    | with_reducible intro _
    | with_reducible assumption
    | with_reducible apply key0
    | with_reducible apply key1
    | with_reducible apply dropOut_fr
    | with_reducible apply modOut_fr
    | simp only [↓fr_mk_iff]
    | with_reducible apply fr_ite
    | (extract_lets x; first | (with_reducible refine fr_cut (s := x) ?_ ?_; (on_goal 2 => clear_value x); (on_goal 1 => unfold x)) | (subst x))
    | split

theorem placeEnable_fr (c t : Nat) (n : Bool) (s : State) (hs : Fr V M s0 s) (key0 : V (EDG.DROP_GROUPS)) (key1 : V (EDG.EDGE_DROP c)) :
    Fr V M s0 (placeEnable c t n s) := by
  unfold placeEnable
  repeat' first
    | with_reducible intro _
    | with_reducible assumption
    | with_reducible apply key0
    | with_reducible apply key1
    | with_reducible apply dropOut_fr
    | with_reducible apply modOut_fr
    | simp only [↓fr_mk_iff]
    | with_reducible apply fr_ite
    | (extract_lets x; first | (with_reducible refine fr_cut (s := x) ?_ ?_; (on_goal 2 => clear_value x); (on_goal 1 => unfold x)) | (subst x))
    | split

theorem placeMark_fr (c t : Nat) (s : State) (hs : Fr V M s0 s) (key0 : V (EDG.DROP_GROUPS) := by first | assumption | simp only [*]) (key1 : V (EDG.STROBE_DROP c) := by first | assumption | simp only [*]) :
    Fr V M s0 (placeMark c t s) := by
  unfold placeMark
  repeat' first
    | with_reducible intro _
    | with_reducible assumption
    | with_reducible apply key0
    | with_reducible apply key1
    | with_reducible apply dropIn_fr
    | with_reducible apply modIn_fr
    | simp only [↓fr_mk_iff]
    | with_reducible apply fr_ite
    | (extract_lets x; first | (with_reducible refine fr_cut (s := x) ?_ ?_; (on_goal 2 => clear_value x); (on_goal 1 => unfold x)) | (subst x))
    | split

theorem placeMarks_fr (key0 : V (EDG.DROP_GROUPS)) (key1 : ∀ u0, V (EDG.STROBE_DROP u0)) (c : Nat) : ∀ (z0 : List Nat) (z1 : State × Bool), Fr V M s0 z1.1 → Fr V M s0 (placeMarks c z0 z1).1
  | [], _, h => h
  | t :: ts, (s, lost), h => by
    unfold placeMarks
    exact placeMarks_fr key0 key1 c ts _ (placeMark_fr c t s h key0 (key1 _))

theorem strobeIn_fr (n tset tc p c : Nat) (d : Bool) (smp : Samples) (s : State) (hs : Fr V M s0 s) (key0 : V (EDG.DROP_GROUPS) := by first | assumption | simp only [*]) (key1 : ∀ u0, V (EDG.STROBE_DROP u0) := by first | assumption | simp only [*]) :
    Fr V M s0 (strobeIn n tset tc p c d smp s).1 := by
  unfold strobeIn
  repeat' first
    | with_reducible intro _
    | with_reducible assumption
    | with_reducible apply key0
    | with_reducible apply key1
    | with_reducible apply placeMarks_fr
    | with_reducible apply drawn_fr
    | simp only [↓fr_mk_iff]
    | with_reducible apply fr_ite
    | (extract_lets x; first | (with_reducible refine fr_cut (s := x) ?_ ?_; (on_goal 2 => clear_value x); (on_goal 1 => unfold x)) | (subst x))
    | split

theorem leaveLevel_fr (c p : Nat) (smp : Samples) (s : State) (hs : Fr V M s0 s) :
    Fr V M s0 (leaveLevel c p smp s) := by
  unfold leaveLevel
  repeat' first
    | with_reducible intro _
    | with_reducible assumption
    | simp only [↓fr_mk_iff]
    | with_reducible apply fr_ite
    | (extract_lets x; first | (with_reducible refine fr_cut (s := x) ?_ ?_; (on_goal 2 => clear_value x); (on_goal 1 => unfold x)) | (subst x))
    | split

theorem strobeAll_fr (key0 : V (EDG.DROP_GROUPS)) (key1 : ∀ u0, V (EDG.STROBE_DROP u0)) (n tset tc d : Nat) (smp : Samples) : ∀ (z0 : List (Nat × Nat)) (z1 : State), Fr V M s0 z1 →
    Fr V M s0 (strobeAll n tset tc d smp z0 z1).1
  | [], _, h => h
  | (p, c) :: ps, s, h => by
    unfold strobeAll
    exact strobeAll_fr key0 key1 n tset tc d smp ps _ (strobeIn_fr n tset tc p c _ smp _ (leaveLevel_fr c p smp s h) key0 key1)

theorem driveOut_fr (n tset tc p c : Nat) (d : Bool) (found : List Strobe) (s : State) (hs : Fr V M s0 s) (key0 : V (EDG.DROP_GROUPS)) (key1 : V (EDG.EDGE_DROP c)) :
    Fr V M s0 (driveOut n tset tc p c d found s) := by
  unfold driveOut
  repeat' first
    | with_reducible intro _
    | with_reducible assumption
    | with_reducible apply key0
    | with_reducible apply key1
    | with_reducible apply placeEnable_fr
    | with_reducible apply placeData_fr
    | with_reducible apply settleOut_fr
    | with_reducible apply modOut_fr
    | simp only [↓fr_mk_iff]
    | with_reducible apply fr_foldl
    | with_reducible apply fr_foldl_snd
    | with_reducible apply fr_ite
    | (extract_lets x; first | (with_reducible refine fr_cut (s := x) ?_ ?_; (on_goal 2 => clear_value x); (on_goal 1 => unfold x)) | (subst x))
    | split

theorem parkAt_fr (c set t : Nat) (s : State) (hs : Fr V M s0 s) :
    Fr V M s0 (parkAt c set t s) := by
  unfold parkAt
  repeat' first
    | with_reducible intro _
    | with_reducible assumption
    | with_reducible apply modOut_fr
    | simp only [↓fr_mk_iff]
    | with_reducible apply fr_ite
    | (extract_lets x; first | (with_reducible refine fr_cut (s := x) ?_ ?_; (on_goal 2 => clear_value x); (on_goal 1 => unfold x)) | (subst x))
    | split

theorem parkEngine_fr (n t : Nat) (s : State) (hs : Fr V M s0 s) :
    Fr V M s0 (parkEngine n t s) := by
  unfold parkEngine
  repeat' first
    | with_reducible intro _
    | with_reducible assumption
    | with_reducible apply parkAt_fr
    | with_reducible apply fr_foldl

theorem offAt_fr (c t : Nat) (s : State) (hs : Fr V M s0 s) :
    Fr V M s0 (offAt c t s) := by
  unfold offAt
  repeat' first
    | with_reducible intro _
    | with_reducible assumption
    | with_reducible apply modOut_fr
    | simp only [↓fr_mk_iff]
    | with_reducible apply fr_ite
    | (extract_lets x; first | (with_reducible refine fr_cut (s := x) ?_ ?_; (on_goal 2 => clear_value x); (on_goal 1 => unfold x)) | (subst x))
    | split

theorem undrop_fr (c h : Nat) (s : State) (hs : Fr V M s0 s) :
    Fr V M s0 (undrop c h s) := by
  unfold undrop
  repeat' first
    | with_reducible intro _
    | with_reducible assumption
    | with_reducible apply modOut_fr
    | simp only [↓fr_mk_iff]
    | with_reducible apply fr_foldl
    | with_reducible apply fr_foldl_snd
    | with_reducible apply fr_ite
    | (extract_lets x; first | (with_reducible refine fr_cut (s := x) ?_ ?_; (on_goal 2 => clear_value x); (on_goal 1 => unfold x)) | (subst x))
    | split

set_option Elab.async false in
theorem suppressFrom_fr (n h : Nat) (s : State) (hs : Fr V M s0 s) :
    Fr V M s0 (suppressFrom n h s) := by
  unfold suppressFrom
  repeat' first
    | with_reducible intro _
    | with_reducible assumption
    | with_reducible apply undrop_fr
    | with_reducible apply modOut_fr
    | simp only [↓fr_mk_iff]
    | with_reducible apply fr_foldl
    | with_reducible apply fr_foldl_snd
    | with_reducible apply fr_ite
    | (extract_lets x; first | (with_reducible refine fr_cut (s := x) ?_ ?_; (on_goal 2 => clear_value x); (on_goal 1 => unfold x)) | (subst x))
    | split

end Sys2Proof.Laws
end

