-- ==== Sys2Proof/Laws/FrameMirror.lean ====
section
/-! SUPPORT. Which members every operation of Machine/Mirror.lean can change, and whether it can change the memory. -/
namespace Sys2Proof.Laws
open Sys2Proof Sys2Proof.Machine
set_option linter.unusedVariables false
set_option linter.unusedTactic false
set_option linter.unreachableTactic false

variable {V : Nat → Prop} {M : Prop} {s0 : State}

theorem barrierLeft_fr (n at' : Nat) (s : State) (hs : Fr V M s0 s) :
    Fr V M s0 (barrierLeft n at' s) := by
  unfold barrierLeft
  repeat' first
    | with_reducible intro _
    | with_reducible assumption
    | with_reducible apply modVe_fr
    | simp only [↓fr_mk_iff]
    | with_reducible apply fr_ite
    | with_reducible apply fr_foldl
    | split

theorem disarmStarts_fr (s : State) (hs : Fr V M s0 s) (key0 : ∀ u0, V (VEN.STATE u0)) :
    Fr V M s0 (disarmStarts s) := by
  unfold disarmStarts
  repeat' first
    | with_reducible intro _
    | with_reducible assumption
    | with_reducible apply key0
    | with_reducible apply barrierLeft_fr
    | with_reducible apply modVe_fr
    | with_reducible apply wr_fr
    | simp only [↓fr_mk_iff]
    | with_reducible apply fr_foldl
    | with_reducible apply fr_foldl_snd
    | with_reducible apply fr_ite
    | (extract_lets x; first | (with_reducible refine fr_cut (s := x) ?_ ?_; (on_goal 2 => clear_value x); (on_goal 1 => unfold x)) | (subst x))
    | split

theorem disarmTo_fr (c : Nat) (s : State) (hs : Fr V M s0 s) (key0 : V (HDI.MIRROR_STATE)) (key1 : ∀ u0, V (VEN.STATE u0)) :
    Fr V M s0 (disarmTo c s) := by
  unfold disarmTo
  repeat' first
    | with_reducible intro _
    | with_reducible assumption
    | with_reducible apply key1
    | with_reducible apply restartLease_fr
    | with_reducible apply disarmStarts_fr
    | with_reducible apply wr_fr
    | with_reducible apply modMirror_fr
    | simp only [↓fr_mk_iff]

theorem reopen_fr (s : State) (hs : Fr V M s0 s) (key0 : V (HDI.APPLY_OUTCOME)) (key1 : V (HDI.MIRROR_STATE)) (key2 : ∀ u0, V (VEN.STATE u0)) :
    Fr V M s0 (reopen s) := by
  unfold reopen
  repeat' first
    | with_reducible intro _
    | with_reducible assumption
    | with_reducible apply key2
    | with_reducible apply disarmTo_fr
    | with_reducible apply wr_fr
    | with_reducible apply raise_fr
    | with_reducible apply fr_ite
    | (extract_lets x; first | (with_reducible refine fr_cut (s := x) ?_ ?_; (on_goal 2 => clear_value x); (on_goal 1 => unfold x)) | (subst x))
    | split

theorem reopenIf_fr (c : Bool) (s : State) (hs : Fr V M s0 s) (key0 : V (HDI.APPLY_OUTCOME)) (key1 : V (HDI.MIRROR_STATE)) (key2 : ∀ u0, V (VEN.STATE u0)) :
    Fr V M s0 (reopenIf c s) := by
  unfold reopenIf
  repeat' first
    | with_reducible intro _
    | with_reducible assumption
    | with_reducible apply key2
    | with_reducible apply reopen_fr
    | with_reducible apply fr_ite
    | split

theorem releaseMirror_fr (s : State) (hs : Fr V M s0 s) (key0 : V (HDI.MIRROR_OWNER)) (key1 : V (HDI.MIRROR_STATE)) :
    Fr V M s0 (releaseMirror s) := by
  unfold releaseMirror
  repeat' first
    | with_reducible intro _
    | with_reducible assumption
    | with_reducible apply wr_fr
    | with_reducible apply modMirror_fr

set_option Elab.async false in
theorem engineChanged_fr (n : Nat) (s : State) (hs : Fr V M s0 s) (key0 : V (HDI.APPLY_OUTCOME)) (key1 : V (HDI.MIRROR_STATE)) (key2 : ∀ u0, V (VEN.STATE u0)) :
    Fr V M s0 (engineChanged n s) := by
  unfold engineChanged
  repeat' first
    | with_reducible intro _
    | with_reducible assumption
    | with_reducible apply key2
    | with_reducible apply reopenIf_fr

end Sys2Proof.Laws
end

