-- ==== Sys2Proof/Laws/FrameVe.lean ====
section
/-! SUPPORT. Which members every operation of Machine/Ve.lean can change, and whether it can change the memory. -/
namespace Sys2Proof.Laws
open Sys2Proof Sys2Proof.Machine
set_option linter.unusedVariables false
set_option linter.unusedTactic false
set_option linter.unreachableTactic false

variable {V : Nat → Prop} {M : Prop} {s0 : State}

theorem veEnter_fr (n c : Nat) (s : State) (hs : Fr V M s0 s) (key0 : V (HDI.APPLY_OUTCOME)) (key1 : V (HDI.MIRROR_STATE)) (key2 : ∀ u0, V (VEN.STATE u0)) :
    Fr V M s0 (veEnter n c s) := by
  unfold veEnter
  repeat' first
    | with_reducible intro _
    | with_reducible assumption
    | with_reducible apply key2
    | with_reducible apply engineChanged_fr
    | with_reducible apply wr_fr

theorem apgEmpty_fr (n : Nat) (s : State) (hs : Fr V M s0 s) (key0 : V (VEN.APG_DISCARD n)) :
    Fr V M s0 (apgEmpty n s) := by
  unfold apgEmpty
  repeat' first
    | with_reducible intro _
    | with_reducible assumption
    | with_reducible apply key0
    | with_reducible apply modVe_fr
    | with_reducible apply raiseAt_fr
    | with_reducible apply addTo_fr
    | simp only [↓fr_mk_iff]
    | with_reducible apply fr_ite
    | (extract_lets x; first | (with_reducible refine fr_cut (s := x) ?_ ?_; (on_goal 2 => clear_value x); (on_goal 1 => unfold x)) | (subst x))
    | split

theorem veArm_fr (n kind parkSet mode : Nat) (s : State) (hs : Fr V M s0 s) (key0 : V (VEN.APG_DISCARD n)) (key1 : V (VEN.STATE n)) :
    Fr V M s0 (veArm n kind parkSet mode s) := by
  unfold veArm
  repeat' first
    | with_reducible intro _
    | with_reducible assumption
    | with_reducible apply key0
    | with_reducible apply key1
    | with_reducible apply apgEmpty_fr
    | with_reducible apply parkEngine_fr
    | with_reducible apply modVe_fr
    | with_reducible apply wr_fr
    | simp only [↓fr_mk_iff]
    | with_reducible apply fr_ite
    | (extract_lets x; first | (with_reducible refine fr_cut (s := x) ?_ ?_; (on_goal 2 => clear_value x); (on_goal 1 => unfold x)) | (subst x))
    | split

theorem barFail_fr (n t : Nat) (s : State) (hs : Fr V M s0 s) :
    Fr V M s0 (barFail n t s) := by
  unfold barFail
  repeat' first
    | with_reducible intro _
    | with_reducible assumption
    | with_reducible apply modVe_fr
    | simp only [↓fr_mk_iff]

theorem failNaming_fr (i j t : Nat) (s : State) (hs : Fr V M s0 s) :
    Fr V M s0 (failNaming i j t s) := by
  unfold failNaming
  repeat' first
    | with_reducible intro _
    | with_reducible assumption
    | with_reducible apply barFail_fr
    | with_reducible apply fr_ite
    | with_reducible apply fr_foldl
    | split

theorem regrid_fr (n t : Nat) (s : State) (hs : Fr V M s0 s) :
    Fr V M s0 (regrid n t s) := by
  unfold regrid
  repeat' first
    | with_reducible intro _
    | with_reducible assumption
    | with_reducible apply failNaming_fr
    | simp only [↓fr_mk_iff]
    | with_reducible apply fr_ite
    | with_reducible apply fr_foldl
    | (extract_lets x; first | (with_reducible refine fr_cut (s := x) ?_ ?_; (on_goal 2 => clear_value x); (on_goal 1 => unfold x)) | (subst x))
    | split

theorem siteNoted_fr (n t v : Nat) (s : State) (hs : Fr V M s0 s) :
    Fr V M s0 (siteNoted n t v s) := by
  unfold siteNoted
  repeat' first
    | with_reducible intro _
    | with_reducible assumption
    | with_reducible apply modVe_fr
    | simp only [↓fr_mk_iff]
    | with_reducible apply fr_ite
    | (extract_lets x; first | (with_reducible refine fr_cut (s := x) ?_ ?_; (on_goal 2 => clear_value x); (on_goal 1 => unfold x)) | (subst x))
    | split

theorem learn_fr (n : Nat) (c : Cmp) (s : State) (hs : Fr V M s0 s) (key0 : V (VEN.FLAGS n)) :
    Fr V M s0 (learn n c s) := by
  unfold learn
  repeat' first
    | with_reducible intro _
    | with_reducible assumption
    | with_reducible apply key0
    | with_reducible apply modVe_fr
    | with_reducible apply setBit_fr
    | simp only [↓fr_mk_iff]
    | with_reducible apply fr_ite
    | (extract_lets x; first | (with_reducible refine fr_cut (s := x) ?_ ?_; (on_goal 2 => clear_value x); (on_goal 1 => unfold x)) | (subst x))
    | split

theorem learnUpTo_fr (n b : Nat) (s : State) (hs : Fr V M s0 s) (key0 : V (VEN.FLAGS n)) :
    Fr V M s0 (learnUpTo n b s) := by
  unfold learnUpTo
  repeat' first
    | with_reducible intro _
    | with_reducible assumption
    | with_reducible apply learn_fr
    | with_reducible apply modVe_fr
    | simp only [↓fr_mk_iff]
    | with_reducible apply fr_foldl
    | (extract_lets x; first | (with_reducible refine fr_cut (s := x) ?_ ?_; (on_goal 2 => clear_value x); (on_goal 1 => unfold x)) | (subst x))

theorem closeLoop_fr (n : Nat) (mto : Bool) (s : State) (hs : Fr V M s0 s) (key0 : V (VEN.FLAGS n)) :
    Fr V M s0 (closeLoop n mto s) := by
  unfold closeLoop
  repeat' first
    | with_reducible intro _
    | with_reducible assumption
    | with_reducible apply modVe_fr
    | with_reducible apply setBit_fr
    | simp only [↓fr_mk_iff]

theorem decideMatch_fr (n c : Nat) (s : State) (hs : Fr V M s0 s) (key0 : V (VEN.FLAGS n)) :
    Fr V M s0 (decideMatch n c s).1 := by
  unfold decideMatch
  repeat' first
    | with_reducible intro _
    | with_reducible assumption
    | with_reducible apply closeLoop_fr
    | with_reducible apply modVe_fr
    | simp only [↓fr_mk_iff]
    | with_reducible apply fr_ite
    | (extract_lets x; first | (with_reducible refine fr_cut (s := x) ?_ ?_; (on_goal 2 => clear_value x); (on_goal 1 => unfold x)) | (subst x))
    | split

theorem resolve_fr (n : Nat) (s : State) (hs : Fr V M s0 s) (key0 : V (VEN.FLAGS n)) :
    Fr V M s0 (resolve n s).1 := by
  unfold resolve
  repeat' first
    | with_reducible intro _
    | with_reducible assumption
    | with_reducible apply decideMatch_fr
    | with_reducible apply fr_ite
    | split

theorem markUsed_fr (n a c : Nat) (s : State) (hs : Fr V M s0 s) :
    Fr V M s0 (markUsed n a c s) := by
  unfold markUsed
  repeat' first
    | with_reducible intro _
    | with_reducible assumption
    | with_reducible apply modVe_fr
    | simp only [↓fr_mk_iff]
    | with_reducible apply fr_ite
    | split

theorem decideNext_fr (n : Nat) (s : State) (hs : Fr V M s0 s) (key0 : V (VEN.FLAGS n)) :
    Fr V M s0 (decideNext n s).1 := by
  unfold decideNext
  repeat' first
    | with_reducible intro _
    | with_reducible assumption
    | with_reducible apply learnUpTo_fr
    | with_reducible apply resolve_fr
    | with_reducible apply modVe_fr
    | simp only [↓fr_mk_iff]
    | with_reducible apply fr_ite
    | (extract_lets x; first | (with_reducible refine fr_cut (s := x) ?_ ?_; (on_goal 2 => clear_value x); (on_goal 1 => unfold x)) | (subst x))
    | split

theorem consume_fr (n b : Nat) (s : State) (hs : Fr V M s0 s) (key0 : V (VEN.APG_USED n)) (key1 : V (VEN.FLAGS n)) :
    Fr V M s0 (consume n b s) := by
  unfold consume
  repeat' first
    | with_reducible intro _
    | with_reducible assumption
    | with_reducible apply bump_fr
    | with_reducible apply modVe_fr
    | with_reducible apply setBit_fr
    | simp only [↓fr_mk_iff]
    | (extract_lets x; first | (with_reducible refine fr_cut (s := x) ?_ ?_; (on_goal 2 => clear_value x); (on_goal 1 => unfold x)) | (subst x))
    | split

theorem stepCount_fr (n next : Nat) (s : State) (hs : Fr V M s0 s) :
    Fr V M s0 (stepCount n next s) := by
  unfold stepCount
  repeat' first
    | with_reducible intro _
    | with_reducible assumption
    | with_reducible apply modVe_fr
    | with_reducible apply modTgt_fr
    | simp only [↓fr_mk_iff]
    | split

theorem issueCycle_fr (n b w a : Nat) (smp : Samples) (s : State) (hs : Fr V M s0 s) (key0 : ∀ u0, V (DBG.BRK_HITS u0)) (key1 : ∀ u0, V (DBG.BRK_STATE u0)) (key2 : V (DBG.EVFLAGS)) (key3 : V (EDG.DROP_GROUPS)) (key4 : ∀ u0, V (EDG.EDGE_DROP u0)) (key5 : ∀ u0, V (EDG.STROBE_DROP u0)) (key6 : V (VEN.APG_USED n)) (key7 : V (VEN.CYCLES n)) (key8 : V (VEN.FLAGS n)) (key9 : V (VEN.PC n)) :
    Fr V M s0 (issueCycle n b w a smp s) := by
  unfold issueCycle
  repeat' first
    | with_reducible intro _
    | with_reducible assumption
    | with_reducible apply key0
    | with_reducible apply key1
    | with_reducible apply key4
    | with_reducible apply key5
    | with_reducible apply brkMatch_fr
    | with_reducible apply consume_fr
    | with_reducible apply strobeAll_fr
    | with_reducible apply driveOut_fr
    | with_reducible apply modFcp_fr
    | with_reducible apply modVe_fr
    | with_reducible apply wr_fr
    | with_reducible apply bump_fr
    | with_reducible apply stepCount_fr
    | with_reducible apply modTgt_fr
    | simp only [↓fr_mk_iff]
    | with_reducible apply fr_ite
    | with_reducible apply fr_foldl
    | (extract_lets x; first | (with_reducible refine fr_cut (s := x) ?_ ?_; (on_goal 2 => clear_value x); (on_goal 1 => unfold x)) | (subst x))
    | split

theorem setAfter_fr (n : Nat) (x : After) (s : State) (hs : Fr V M s0 s) :
    Fr V M s0 (setAfter n x s) := by
  unfold setAfter
  repeat' first
    | with_reducible intro _
    | with_reducible assumption
    | with_reducible apply modVe_fr
    | simp only [↓fr_mk_iff]

theorem arrive_fr (n mask t : Nat) (s : State) (hs : Fr V M s0 s) :
    Fr V M s0 (arrive n mask t s) := by
  unfold arrive
  repeat' first
    | with_reducible intro _
    | with_reducible assumption
    | with_reducible apply failNaming_fr
    | with_reducible apply barFail_fr
    | simp only [↓fr_mk_iff]
    | with_reducible apply fr_foldl
    | with_reducible apply fr_foldl_snd
    | with_reducible apply fr_ite
    | (extract_lets x; first | (with_reducible refine fr_cut (s := x) ?_ ?_; (on_goal 2 => clear_value x); (on_goal 1 => unfold x)) | (subst x))
    | split

theorem settleEvts_fr (n : Nat) (s : State) (hs : Fr V M s0 s) (key0 : V (VEN.EVENTS n)) :
    Fr V M s0 (settleEvts n s) := by
  unfold settleEvts
  repeat' first
    | with_reducible intro _
    | with_reducible assumption
    | with_reducible apply key0
    | with_reducible apply modVe_fr
    | with_reducible apply wr_fr
    | simp only [↓fr_mk_iff]
    | with_reducible apply fr_ite
    | (extract_lets x; first | (with_reducible refine fr_cut (s := x) ?_ ?_; (on_goal 2 => clear_value x); (on_goal 1 => unfold x)) | (subst x))
    | split

theorem execBarrierRelease_fr (mask : Nat) (s : State) (hs : Fr V M s0 s) (key0 : ∀ u0, V (VEN.FLAGS u0)) :
    FrOut V M s0 (execBarrierRelease mask s) := by
  unfold execBarrierRelease
  repeat' first
    | with_reducible intro _
    | with_reducible assumption
    | with_reducible apply key0
    | with_reducible apply modVe_fr
    | with_reducible apply setBit_fr
    | with_reducible apply frOut_next
    | with_reducible apply frOut_fault
    | with_reducible apply frOut_ite
    | simp only [↓fr_mk_iff]
    | with_reducible apply fr_ite
    | with_reducible apply fr_foldl
    | split

theorem faultAt_fr (n b : Nat) (s : State) (hs : Fr V M s0 s) (key0 : V (VEN.FLAGS n) := by first | assumption | simp only [*]) :
    Fr V M s0 (faultAt n b s).1 := by
  unfold faultAt
  repeat' first
    | with_reducible intro _
    | with_reducible assumption
    | with_reducible apply decideNext_fr
    | with_reducible apply upto_fr
    | (extract_lets x; first | (with_reducible refine fr_cut (s := x) ?_ ?_; (on_goal 2 => clear_value x); (on_goal 1 => unfold x)) | (subst x))
    | split

theorem execVeResumeLands_fr (n : Nat) (s : State) (hs : Fr V M s0 s) (key0 : V (HDI.APPLY_OUTCOME)) (key1 : V (HDI.MIRROR_STATE)) (key2 : ∀ u0, V (VEN.STATE u0)) :
    FrOut V M s0 (execVeResumeLands n s) := by
  unfold execVeResumeLands
  repeat' first
    | with_reducible intro _
    | with_reducible assumption
    | with_reducible apply key0
    | with_reducible apply key1
    | with_reducible apply key2
    | with_reducible apply arrive_fr
    | with_reducible apply veEnter_fr
    | with_reducible apply modVe_fr
    | with_reducible apply upto_fr
    | simp only [↓fr_mk_iff]
    | with_reducible apply fr_ite
    | with_reducible apply frOut_next
    | with_reducible apply frOut_fault
    | with_reducible apply frOut_ite
    | with_reducible apply unitCmd_fr
    | (extract_lets x; first | (with_reducible refine fr_cut (s := x) ?_ ?_; (on_goal 2 => clear_value x); (on_goal 1 => unfold x)) | (subst x))
    | split

theorem veEnableEff_fr (n : Nat) (s : State) (hs : Fr V M s0 s) (key0 : V (HDI.APPLY_OUTCOME)) (key1 : V (HDI.MIRROR_STATE)) (key2 : ∀ u0, V (VEN.STATE u0)) :
    Fr V M s0 (veEnableEff n s) := by
  unfold veEnableEff
  repeat' first
    | with_reducible intro _
    | with_reducible assumption
    | with_reducible apply key2
    | with_reducible apply veEnter_fr
    | with_reducible apply parkEngine_fr
    | with_reducible apply modVe_fr
    | simp only [↓fr_mk_iff]

theorem veDisableEff_fr (n : Nat) (s : State) (hs : Fr V M s0 s) (key0 : V (HDI.APPLY_OUTCOME)) (key1 : V (HDI.MIRROR_STATE)) (key2 : ∀ u0, V (VEN.STATE u0)) :
    Fr V M s0 (veDisableEff n s) := by
  unfold veDisableEff
  repeat' first
    | with_reducible intro _
    | with_reducible assumption
    | with_reducible apply key2
    | with_reducible apply barrierLeft_fr
    | with_reducible apply veEnter_fr
    | with_reducible apply offAt_fr
    | with_reducible apply fr_foldl

theorem schedFree_fr (dsp : Bool) (n : Nat) (s : State) (hs : Fr V M s0 s) :
    Fr V M s0 (schedFree dsp n s) := by
  unfold schedFree
  repeat' first
    | with_reducible intro _
    | with_reducible assumption
    | simp only [↓fr_mk_iff]

theorem veStartEff_fr (n : Nat) (s : State) (hs : Fr V M s0 s) (key0 : V (HDI.APPLY_OUTCOME)) (key1 : V (HDI.MIRROR_STATE)) (key2 : V (VEN.APG_DISCARD n)) (key3 : ∀ u0, V (VEN.STATE u0)) :
    Fr V M s0 (veStartEff n s) := by
  unfold veStartEff
  repeat' first
    | with_reducible intro _
    | with_reducible assumption
    | with_reducible apply key3
    | with_reducible apply engineChanged_fr
    | with_reducible apply veArm_fr

theorem veStartAtEff_fr (n : Nat) (s : State) (hs : Fr V M s0 s) (key0 : V (HDI.APPLY_OUTCOME)) (key1 : V (HDI.MIRROR_STATE)) (key2 : V (VEN.APG_DISCARD n)) (key3 : V (VEN.FLAGS n)) (key4 : ∀ u0, V (VEN.STATE u0)) :
    Fr V M s0 (veStartAtEff n s) := by
  unfold veStartAtEff
  repeat' first
    | with_reducible intro _
    | with_reducible assumption
    | with_reducible apply key4
    | with_reducible apply veArm_fr
    | with_reducible apply engineChanged_fr
    | with_reducible apply setBit_fr
    | simp only [↓fr_mk_iff]
    | (extract_lets x; first | (with_reducible refine fr_cut (s := x) ?_ ?_; (on_goal 2 => clear_value x); (on_goal 1 => unfold x)) | (subst x))

theorem veHaltEff_fr (n : Nat) (s : State) (hs : Fr V M s0 s) :
    Fr V M s0 (veHaltEff n s) := by
  unfold veHaltEff
  repeat' first
    | with_reducible intro _
    | with_reducible assumption
    | with_reducible apply modVe_fr
    | simp only [↓fr_mk_iff]

theorem veGoOn_fr (n : Nat) (s : State) (hs : Fr V M s0 s) :
    Fr V M s0 (veGoOn n s) := by
  unfold veGoOn
  repeat' first
    | with_reducible intro _
    | with_reducible assumption
    | with_reducible apply modVe_fr
    | simp only [↓fr_mk_iff]
    | with_reducible apply fr_ite
    | (extract_lets x; first | (with_reducible refine fr_cut (s := x) ?_ ?_; (on_goal 2 => clear_value x); (on_goal 1 => unfold x)) | (subst x))
    | split

theorem veResumeEff_fr (n : Nat) (s : State) (hs : Fr V M s0 s) :
    Fr V M s0 (veResumeEff n s) := by
  unfold veResumeEff
  repeat' first
    | with_reducible intro _
    | with_reducible assumption
    | with_reducible apply veGoOn_fr
    | with_reducible apply modTgt_fr
    | simp only [↓fr_mk_iff]
    | with_reducible apply fr_ite
    | (extract_lets x; first | (with_reducible refine fr_cut (s := x) ?_ ?_; (on_goal 2 => clear_value x); (on_goal 1 => unfold x)) | (subst x))
    | split

theorem veStopEff_fr (n : Nat) (s : State) (hs : Fr V M s0 s) (key0 : V (HDI.APPLY_OUTCOME)) (key1 : V (HDI.MIRROR_STATE)) (key2 : V (VEN.FLAGS n)) (key3 : ∀ u0, V (VEN.STATE u0)) :
    Fr V M s0 (veStopEff n s) := by
  unfold veStopEff
  repeat' first
    | with_reducible intro _
    | with_reducible assumption
    | with_reducible apply key0
    | with_reducible apply key1
    | with_reducible apply key2
    | with_reducible apply key3
    | with_reducible apply schedFree_fr
    | with_reducible apply veEnter_fr
    | with_reducible apply offAt_fr
    | with_reducible apply barrierLeft_fr
    | with_reducible apply modVe_fr
    | with_reducible apply setBit_fr
    | simp only [↓fr_mk_iff]
    | with_reducible apply fr_ite
    | (extract_lets x; first | (with_reducible refine fr_cut (s := x) ?_ ?_; (on_goal 2 => clear_value x); (on_goal 1 => unfold x)) | (subst x))
    | split

theorem veClearFaultEff_fr (n : Nat) (s : State) (hs : Fr V M s0 s) (key0 : V (HDI.APPLY_OUTCOME)) (key1 : V (HDI.MIRROR_STATE)) (key2 : ∀ u0, V (VEN.STATE u0)) :
    Fr V M s0 (veClearFaultEff n s) := by
  unfold veClearFaultEff
  repeat' first
    | with_reducible intro _
    | with_reducible assumption
    | with_reducible apply key2
    | with_reducible apply veEnter_fr

theorem veSelfcheckEff_fr (n : Nat) (s : State) (hs : Fr V M s0 s) (key0 : V (HDI.APPLY_OUTCOME)) (key1 : V (HDI.MIRROR_STATE)) (key2 : ∀ u0, V (VEN.STATE u0)) :
    Fr V M s0 (veSelfcheckEff n s) := by
  unfold veSelfcheckEff
  repeat' first
    | with_reducible intro _
    | with_reducible assumption
    | with_reducible apply key2
    | with_reducible apply veEnter_fr
    | with_reducible apply modVe_fr
    | simp only [↓fr_mk_iff]

theorem execVeEnable_fr (q : Req) (n : Nat) (s : State) (hs : Fr V M s0 s) (key0 : V (HDI.APPLY_OUTCOME)) (key1 : V (HDI.MIRROR_STATE)) (key2 : ∀ u0, V (HDI.STATS u0)) (key3 : ∀ u0, V (VEN.STATE u0)) :
    FrOut V M s0 (execVeEnable q n s) := by
  unfold execVeEnable
  repeat' first
    | with_reducible intro _
    | with_reducible assumption
    | with_reducible apply key2
    | with_reducible apply key3
    | with_reducible apply unitCmd_fr
    | with_reducible apply command_fr
    | with_reducible apply veEnableEff_fr
    | with_reducible apply frOut_next
    | with_reducible apply frOut_fault

theorem execVeDisable_fr (q : Req) (n : Nat) (s : State) (hs : Fr V M s0 s) (key0 : V (HDI.APPLY_OUTCOME)) (key1 : V (HDI.MIRROR_STATE)) (key2 : ∀ u0, V (HDI.STATS u0)) (key3 : ∀ u0, V (VEN.STATE u0)) :
    FrOut V M s0 (execVeDisable q n s) := by
  unfold execVeDisable
  repeat' first
    | with_reducible intro _
    | with_reducible assumption
    | with_reducible apply key2
    | with_reducible apply key3
    | with_reducible apply unitCmd_fr
    | with_reducible apply command_fr
    | with_reducible apply veDisableEff_fr
    | with_reducible apply frOut_next
    | with_reducible apply frOut_fault

theorem execVeStart_fr (q : Req) (n : Nat) (s : State) (hs : Fr V M s0 s) (key0 : V (HDI.APPLY_OUTCOME)) (key1 : V (HDI.MIRROR_STATE)) (key2 : ∀ u0, V (HDI.STATS u0)) (key3 : V (VEN.APG_DISCARD n)) (key4 : ∀ u0, V (VEN.STATE u0)) :
    FrOut V M s0 (execVeStart q n s) := by
  unfold execVeStart
  repeat' first
    | with_reducible intro _
    | with_reducible assumption
    | with_reducible apply key2
    | with_reducible apply key4
    | with_reducible apply unitCmd_fr
    | with_reducible apply command_fr
    | with_reducible apply veStartEff_fr
    | with_reducible apply frOut_next
    | with_reducible apply frOut_fault

theorem execVeStartAt_fr (q : Req) (n : Nat) (s : State) (hs : Fr V M s0 s) (key0 : V (HDI.APPLY_OUTCOME)) (key1 : V (HDI.MIRROR_STATE)) (key2 : ∀ u0, V (HDI.STATS u0)) (key3 : V (VEN.APG_DISCARD n)) (key4 : V (VEN.FLAGS n)) (key5 : ∀ u0, V (VEN.STATE u0)) :
    FrOut V M s0 (execVeStartAt q n s) := by
  unfold execVeStartAt
  repeat' first
    | with_reducible intro _
    | with_reducible assumption
    | with_reducible apply key2
    | with_reducible apply key5
    | with_reducible apply unitCmd_fr
    | with_reducible apply command_fr
    | with_reducible apply veStartAtEff_fr
    | with_reducible apply frOut_next
    | with_reducible apply frOut_fault

theorem execVeHalt_fr (q : Req) (n : Nat) (s : State) (hs : Fr V M s0 s) (key0 : ∀ u0, V (HDI.STATS u0)) :
    FrOut V M s0 (execVeHalt q n s) := by
  unfold execVeHalt
  repeat' first
    | with_reducible intro _
    | with_reducible assumption
    | with_reducible apply key0
    | with_reducible apply unitCmd_fr
    | with_reducible apply command_fr
    | with_reducible apply veHaltEff_fr
    | with_reducible apply frOut_next
    | with_reducible apply frOut_fault

theorem execVeResume_fr (q : Req) (n : Nat) (s : State) (hs : Fr V M s0 s) (key0 : ∀ u0, V (HDI.STATS u0)) :
    FrOut V M s0 (execVeResume q n s) := by
  unfold execVeResume
  repeat' first
    | with_reducible intro _
    | with_reducible assumption
    | with_reducible apply key0
    | with_reducible apply unitCmd_fr
    | with_reducible apply command_fr
    | with_reducible apply veResumeEff_fr
    | with_reducible apply frOut_next
    | with_reducible apply frOut_fault

theorem execVeStop_fr (q : Req) (n : Nat) (s : State) (hs : Fr V M s0 s) (key0 : V (HDI.APPLY_OUTCOME)) (key1 : V (HDI.MIRROR_STATE)) (key2 : ∀ u0, V (HDI.STATS u0)) (key3 : V (VEN.FLAGS n)) (key4 : ∀ u0, V (VEN.STATE u0)) :
    FrOut V M s0 (execVeStop q n s) := by
  unfold execVeStop
  repeat' first
    | with_reducible intro _
    | with_reducible assumption
    | with_reducible apply key2
    | with_reducible apply key4
    | with_reducible apply unitCmd_fr
    | with_reducible apply command_fr
    | with_reducible apply veStopEff_fr
    | with_reducible apply frOut_next
    | with_reducible apply frOut_fault

theorem execVeClearFault_fr (q : Req) (n : Nat) (s : State) (hs : Fr V M s0 s) (key0 : V (HDI.APPLY_OUTCOME)) (key1 : V (HDI.MIRROR_STATE)) (key2 : ∀ u0, V (HDI.STATS u0)) (key3 : ∀ u0, V (VEN.STATE u0)) :
    FrOut V M s0 (execVeClearFault q n s) := by
  unfold execVeClearFault
  repeat' first
    | with_reducible intro _
    | with_reducible assumption
    | with_reducible apply key2
    | with_reducible apply key3
    | with_reducible apply unitCmd_fr
    | with_reducible apply command_fr
    | with_reducible apply veClearFaultEff_fr
    | with_reducible apply frOut_next
    | with_reducible apply frOut_fault

theorem execVeSelfcheck_fr (q : Req) (n : Nat) (s : State) (hs : Fr V M s0 s) (key0 : V (HDI.APPLY_OUTCOME)) (key1 : V (HDI.MIRROR_STATE)) (key2 : ∀ u0, V (HDI.STATS u0)) (key3 : ∀ u0, V (VEN.STATE u0)) :
    FrOut V M s0 (execVeSelfcheck q n s) := by
  unfold execVeSelfcheck
  repeat' first
    | with_reducible intro _
    | with_reducible assumption
    | with_reducible apply key2
    | with_reducible apply key3
    | with_reducible apply unitCmd_fr
    | with_reducible apply command_fr
    | with_reducible apply veSelfcheckEff_fr
    | with_reducible apply frOut_next
    | with_reducible apply frOut_fault

theorem execVeSelfcheckEnd_fr (n : Nat) (pass : Bool) (s : State) (hs : Fr V M s0 s) (key0 : V (HDI.APPLY_OUTCOME)) (key1 : V (HDI.MIRROR_STATE)) (key2 : V (VEN.SELFCHECK n)) (key3 : ∀ u0, V (VEN.STATE u0)) :
    FrOut V M s0 (execVeSelfcheckEnd n pass s) := by
  unfold execVeSelfcheckEnd
  repeat' first
    | with_reducible intro _
    | with_reducible assumption
    | with_reducible apply key3
    | with_reducible apply unitCmd_fr
    | with_reducible apply veEnter_fr
    | with_reducible apply wr_fr
    | with_reducible apply raise_fr
    | with_reducible apply frOut_next
    | with_reducible apply frOut_fault
    | with_reducible apply frOut_ite
    | with_reducible apply fr_ite
    | split

theorem execLineReadIssue_fr (n : Nat) (s : State) (hs : Fr V M s0 s) (key0 : V (VEN.REFILL_ISSUED n)) :
    FrOut V M s0 (execLineReadIssue n s) := by
  unfold execLineReadIssue
  repeat' first
    | with_reducible intro _
    | with_reducible assumption
    | with_reducible apply key0
    | with_reducible apply meshSend_fr
    | with_reducible apply modVe_fr
    | with_reducible apply bump_fr
    | simp only [↓fr_mk_iff]
    | with_reducible apply fr_ite
    | with_reducible apply frOut_next
    | with_reducible apply frOut_fault
    | with_reducible apply frOut_ite
    | with_reducible apply unitCmd_fr
    | (extract_lets x; first | (with_reducible refine fr_cut (s := x) ?_ ?_; (on_goal 2 => clear_value x); (on_goal 1 => unfold x)) | (subst x))
    | split

theorem lineDone_fr (n line : Nat) (x : MeshResp) (s : State) (hs : Fr V M s0 s) (key0 : M := by first | assumption | simp only [*]) (key1 : V (VEN.REFILL_DONE n) := by first | assumption | simp only [*]) : Fr V M s0 (lineDone n line x s) := by
  unfold lineDone
  extract_lets u slot v w
  have hu : Fr V M s0 u := bump_fr _ _ _ (respTaken_fr x s hs) key1
  have hm : Fr V M s0 (u.store (bufAddr n + 256 * slot) 256 x.data) := store_fr _ _ _ _ hu
  have hv : Fr V M s0 v := by
    show Fr V M s0 (if x.kind = 0 then u.store (bufAddr n + 256 * slot) 256 x.data else u)
    exact fr_ite hm hu
  have hw : Fr V M s0 w := modVe_fr _ _ _ hv
  exact fr_ite (modVe_fr _ _ _ hu) (fr_ite (modVe_fr _ _ _ hw) hw)

theorem veBegin_fr (n edge : Nat) (s : State) (hs : Fr V M s0 s) (key0 : V (FCP.RUN_FAILS n)) (key1 : V (FCP.STOPPED_BY n)) (key2 : V (HDI.APPLY_OUTCOME)) (key3 : V (HDI.MIRROR_STATE)) (key4 : ∀ u1, V (VEN.CTR n u1)) (key5 : V (VEN.CYCLES n)) (key6 : V (VEN.EVENTS n)) (key7 : V (VEN.FLAGS n)) (key8 : V (VEN.PTO_LEFT n)) (key9 : V (VEN.START_ON_APPLY n)) (key10 : ∀ u0, V (VEN.STATE u0)) (key11 : V (VEN.T0 n)) :
    Fr V M s0 (veBegin n edge s) := by
  unfold veBegin
  repeat' first
    | with_reducible intro _
    | with_reducible assumption
    | with_reducible apply key0
    | with_reducible apply key1
    | with_reducible apply key2
    | with_reducible apply key3
    | with_reducible apply key4
    | with_reducible apply key5
    | with_reducible apply key6
    | with_reducible apply key7
    | with_reducible apply key8
    | with_reducible apply key9
    | with_reducible apply key10
    | with_reducible apply key11
    | with_reducible apply regrid_fr
    | with_reducible apply veEnter_fr
    | with_reducible apply modFcp_fr
    | with_reducible apply modVe_fr
    | with_reducible apply upto_fr
    | with_reducible apply raise_fr
    | with_reducible apply wr_fr
    | simp only [↓fr_mk_iff]
    | with_reducible apply fr_foldl
    | with_reducible apply fr_foldl_snd
    | with_reducible apply fr_ite
    | (extract_lets x; first | (with_reducible refine fr_cut (s := x) ?_ ?_; (on_goal 2 => clear_value x); (on_goal 1 => unfold x)) | (subst x))
    | split

set_option Elab.async false in
theorem execVeStartEdge_fr (n : Nat) (s : State) (hs : Fr V M s0 s) (key0 : V (FCP.RUN_FAILS n)) (key1 : V (FCP.STOPPED_BY n)) (key2 : V (HDI.APPLY_OUTCOME)) (key3 : V (HDI.MIRROR_STATE)) (key4 : ∀ u1, V (VEN.CTR n u1)) (key5 : V (VEN.CYCLES n)) (key6 : V (VEN.EVENTS n)) (key7 : V (VEN.FLAGS n)) (key8 : V (VEN.PTO_LEFT n)) (key9 : V (VEN.START_ON_APPLY n)) (key10 : ∀ u0, V (VEN.STATE u0)) (key11 : V (VEN.T0 n)) :
    FrOut V M s0 (execVeStartEdge n s) := by
  unfold execVeStartEdge
  repeat' first
    | with_reducible intro _
    | with_reducible assumption
    | with_reducible apply key4
    | with_reducible apply key10
    | with_reducible apply unitCmd_fr
    | with_reducible apply veBegin_fr
    | with_reducible apply frOut_next
    | with_reducible apply frOut_fault
    | with_reducible apply frOut_ite
    | with_reducible apply fr_ite
    | split

end Sys2Proof.Laws
end

