-- ==== Sys2Proof/Laws/FrameFab.lean ====
section
/-! SUPPORT. Which members every operation of Machine/Fab.lean can change, and whether it can change the memory. -/
namespace Sys2Proof.Laws
open Sys2Proof Sys2Proof.Machine
set_option linter.unusedVariables false
set_option linter.unusedTactic false
set_option linter.unreachableTactic false

variable {V : Nat → Prop} {M : Prop} {s0 : State}

theorem cellCommand_fr (col row lo hi : Nat) (s : State) (hs : Fr V M s0 s) :
    FrOut V M s0 (cellCommand col row lo hi s) := by
  unfold cellCommand
  repeat' first
    | with_reducible intro _
    | with_reducible assumption
    | with_reducible apply drawn_fr
    | with_reducible apply upto_fr
    | simp only [↓fr_mk_iff]
    | with_reducible apply fr_ite
    | with_reducible apply frOut_next
    | with_reducible apply frOut_fault
    | with_reducible apply frOut_ite
    | with_reducible apply unitCmd_fr
    | (extract_lets x; first | (with_reducible refine fr_cut (s := x) ?_ ?_; (on_goal 2 => clear_value x); (on_goal 1 => unfold x)) | (subst x))
    | split

theorem execCellPass_fr (col row : Nat) (s : State) (hs : Fr V M s0 s) :
    FrOut V M s0 (execCellPass col row s) := by
  unfold execCellPass
  repeat' first
    | with_reducible intro _
    | with_reducible assumption
    | with_reducible apply cellCommand_fr
    | with_reducible apply frOut_next
    | with_reducible apply frOut_fault

theorem execCellAdd_fr (col row : Nat) (s : State) (hs : Fr V M s0 s) :
    FrOut V M s0 (execCellAdd col row s) := by
  unfold execCellAdd
  repeat' first
    | with_reducible intro _
    | with_reducible assumption
    | with_reducible apply cellCommand_fr
    | with_reducible apply frOut_next
    | with_reducible apply frOut_fault

theorem execCellSub_fr (col row : Nat) (s : State) (hs : Fr V M s0 s) :
    FrOut V M s0 (execCellSub col row s) := by
  unfold execCellSub
  repeat' first
    | with_reducible intro _
    | with_reducible assumption
    | with_reducible apply cellCommand_fr
    | with_reducible apply frOut_next
    | with_reducible apply frOut_fault

theorem execCellAnd_fr (col row : Nat) (s : State) (hs : Fr V M s0 s) :
    FrOut V M s0 (execCellAnd col row s) := by
  unfold execCellAnd
  repeat' first
    | with_reducible intro _
    | with_reducible assumption
    | with_reducible apply cellCommand_fr
    | with_reducible apply frOut_next
    | with_reducible apply frOut_fault

theorem execCellOr_fr (col row : Nat) (s : State) (hs : Fr V M s0 s) :
    FrOut V M s0 (execCellOr col row s) := by
  unfold execCellOr
  repeat' first
    | with_reducible intro _
    | with_reducible assumption
    | with_reducible apply cellCommand_fr
    | with_reducible apply frOut_next
    | with_reducible apply frOut_fault

theorem execCellXor_fr (col row : Nat) (s : State) (hs : Fr V M s0 s) :
    FrOut V M s0 (execCellXor col row s) := by
  unfold execCellXor
  repeat' first
    | with_reducible intro _
    | with_reducible assumption
    | with_reducible apply cellCommand_fr
    | with_reducible apply frOut_next
    | with_reducible apply frOut_fault

theorem execCellAndn_fr (col row : Nat) (s : State) (hs : Fr V M s0 s) :
    FrOut V M s0 (execCellAndn col row s) := by
  unfold execCellAndn
  repeat' first
    | with_reducible intro _
    | with_reducible assumption
    | with_reducible apply cellCommand_fr
    | with_reducible apply frOut_next
    | with_reducible apply frOut_fault

theorem execCellNot_fr (col row : Nat) (s : State) (hs : Fr V M s0 s) :
    FrOut V M s0 (execCellNot col row s) := by
  unfold execCellNot
  repeat' first
    | with_reducible intro _
    | with_reducible assumption
    | with_reducible apply cellCommand_fr
    | with_reducible apply frOut_next
    | with_reducible apply frOut_fault

theorem execCellShl1_fr (col row : Nat) (s : State) (hs : Fr V M s0 s) :
    FrOut V M s0 (execCellShl1 col row s) := by
  unfold execCellShl1
  repeat' first
    | with_reducible intro _
    | with_reducible assumption
    | with_reducible apply cellCommand_fr
    | with_reducible apply frOut_next
    | with_reducible apply frOut_fault

theorem execCellShl_fr (col row : Nat) (s : State) (hs : Fr V M s0 s) :
    FrOut V M s0 (execCellShl col row s) := by
  unfold execCellShl
  repeat' first
    | with_reducible intro _
    | with_reducible assumption
    | with_reducible apply cellCommand_fr
    | with_reducible apply frOut_next
    | with_reducible apply frOut_fault

theorem execCellShr_fr (col row : Nat) (s : State) (hs : Fr V M s0 s) :
    FrOut V M s0 (execCellShr col row s) := by
  unfold execCellShr
  repeat' first
    | with_reducible intro _
    | with_reducible assumption
    | with_reducible apply cellCommand_fr
    | with_reducible apply frOut_next
    | with_reducible apply frOut_fault

theorem execCellRol_fr (col row : Nat) (s : State) (hs : Fr V M s0 s) :
    FrOut V M s0 (execCellRol col row s) := by
  unfold execCellRol
  repeat' first
    | with_reducible intro _
    | with_reducible assumption
    | with_reducible apply cellCommand_fr
    | with_reducible apply frOut_next
    | with_reducible apply frOut_fault

theorem execCellBrev_fr (col row : Nat) (s : State) (hs : Fr V M s0 s) :
    FrOut V M s0 (execCellBrev col row s) := by
  unfold execCellBrev
  repeat' first
    | with_reducible intro _
    | with_reducible assumption
    | with_reducible apply cellCommand_fr
    | with_reducible apply frOut_next
    | with_reducible apply frOut_fault

theorem execCellBsel_fr (col row : Nat) (s : State) (hs : Fr V M s0 s) :
    FrOut V M s0 (execCellBsel col row s) := by
  unfold execCellBsel
  repeat' first
    | with_reducible intro _
    | with_reducible assumption
    | with_reducible apply cellCommand_fr
    | with_reducible apply frOut_next
    | with_reducible apply frOut_fault

theorem execCellEq_fr (col row : Nat) (s : State) (hs : Fr V M s0 s) :
    FrOut V M s0 (execCellEq col row s) := by
  unfold execCellEq
  repeat' first
    | with_reducible intro _
    | with_reducible assumption
    | with_reducible apply cellCommand_fr
    | with_reducible apply frOut_next
    | with_reducible apply frOut_fault

theorem execCellPar_fr (col row : Nat) (s : State) (hs : Fr V M s0 s) :
    FrOut V M s0 (execCellPar col row s) := by
  unfold execCellPar
  repeat' first
    | with_reducible intro _
    | with_reducible assumption
    | with_reducible apply cellCommand_fr
    | with_reducible apply frOut_next
    | with_reducible apply frOut_fault

theorem execCellCntk_fr (col row : Nat) (s : State) (hs : Fr V M s0 s) :
    FrOut V M s0 (execCellCntk col row s) := by
  unfold execCellCntk
  repeat' first
    | with_reducible intro _
    | with_reducible assumption
    | with_reducible apply cellCommand_fr
    | with_reducible apply frOut_next
    | with_reducible apply frOut_fault

theorem execCellMin_fr (col row : Nat) (s : State) (hs : Fr V M s0 s) :
    FrOut V M s0 (execCellMin col row s) := by
  unfold execCellMin
  repeat' first
    | with_reducible intro _
    | with_reducible assumption
    | with_reducible apply cellCommand_fr
    | with_reducible apply frOut_next
    | with_reducible apply frOut_fault

theorem execCellMax_fr (col row : Nat) (s : State) (hs : Fr V M s0 s) :
    FrOut V M s0 (execCellMax col row s) := by
  unfold execCellMax
  repeat' first
    | with_reducible intro _
    | with_reducible assumption
    | with_reducible apply cellCommand_fr
    | with_reducible apply frOut_next
    | with_reducible apply frOut_fault

theorem execCellReservedOp_fr (col row : Nat) (s : State) (hs : Fr V M s0 s) :
    FrOut V M s0 (execCellReservedOp col row s) := by
  unfold execCellReservedOp
  repeat' first
    | with_reducible intro _
    | with_reducible assumption
    | with_reducible apply cellCommand_fr
    | with_reducible apply frOut_next
    | with_reducible apply frOut_fault

theorem flipTarget_fr (u : Upset) (s : State) (hs : Fr V M s0 s) :
    Fr V M s0 (flipTarget u s) := by
  unfold flipTarget
  repeat' first
    | with_reducible intro _
    | with_reducible assumption
    | simp only [↓fr_mk_iff]
    | with_reducible apply fr_ite
    | (extract_lets x; first | (with_reducible refine fr_cut (s := x) ?_ ?_; (on_goal 2 => clear_value x); (on_goal 1 => unfold x)) | (subst x))
    | split

theorem clearCells_fr (f : Nat) (s : State) (hs : Fr V M s0 s) :
    Fr V M s0 (clearCells f s) := by
  unfold clearCells
  repeat' first
    | with_reducible intro _
    | with_reducible assumption
    | simp only [↓fr_mk_iff]

theorem facetChanged_fr (f : Nat) (s : State) (hs : Fr V M s0 s) (key0 : V (HDI.APPLY_OUTCOME)) (key1 : V (HDI.MIRROR_STATE)) (key2 : ∀ u0, V (VEN.STATE u0)) :
    Fr V M s0 (facetChanged f s) := by
  unfold facetChanged
  repeat' first
    | with_reducible intro _
    | with_reducible assumption
    | with_reducible apply key2
    | with_reducible apply reopenIf_fr

theorem holdFacet_fr (f : Nat) (s : State) (hs : Fr V M s0 s) (key0 : V (FAB.RELEASED)) (key1 : V (HDI.APPLY_OUTCOME)) (key2 : V (HDI.MIRROR_STATE)) (key3 : ∀ u0, V (VEN.STATE u0)) :
    Fr V M s0 (holdFacet f s) := by
  unfold holdFacet
  repeat' first
    | with_reducible intro _
    | with_reducible assumption
    | with_reducible apply key0
    | with_reducible apply key1
    | with_reducible apply key2
    | with_reducible apply key3
    | with_reducible apply facetChanged_fr
    | with_reducible apply clearCells_fr
    | with_reducible apply modFacet_fr
    | with_reducible apply setBit_fr
    | simp only [↓fr_mk_iff]
    | with_reducible apply fr_ite
    | (extract_lets x; first | (with_reducible refine fr_cut (s := x) ?_ ?_; (on_goal 2 => clear_value x); (on_goal 1 => unfold x)) | (subst x))
    | split

theorem releaseFacet_fr (f e : Nat) (s : State) (hs : Fr V M s0 s) (key0 : V (FAB.RELEASED)) (key1 : V (HDI.APPLY_OUTCOME)) (key2 : V (HDI.MIRROR_STATE)) (key3 : ∀ u0, V (VEN.STATE u0)) :
    Fr V M s0 (releaseFacet f e s) := by
  unfold releaseFacet
  repeat' first
    | with_reducible intro _
    | with_reducible assumption
    | with_reducible apply key3
    | with_reducible apply facetChanged_fr
    | with_reducible apply clearCells_fr
    | with_reducible apply setBit_fr
    | with_reducible apply modFacet_fr
    | simp only [↓fr_mk_iff]

theorem releaseEff_fr (f : Nat) (s : State) (hs : Fr V M s0 s) :
    Fr V M s0 (releaseEff f s) := by
  unfold releaseEff
  repeat' first
    | with_reducible intro _
    | with_reducible assumption
    | with_reducible apply modFacet_fr
    | simp only [↓fr_mk_iff]
    | with_reducible apply fr_ite
    | (extract_lets x; first | (with_reducible refine fr_cut (s := x) ?_ ?_; (on_goal 2 => clear_value x); (on_goal 1 => unfold x)) | (subst x))
    | split

theorem holdEff_fr (f : Nat) (s : State) (hs : Fr V M s0 s) :
    Fr V M s0 (holdEff f s) := by
  unfold holdEff
  repeat' first
    | with_reducible intro _
    | with_reducible assumption
    | with_reducible apply modFacet_fr
    | simp only [↓fr_mk_iff]
    | with_reducible apply fr_ite
    | (extract_lets x; first | (with_reducible refine fr_cut (s := x) ?_ ?_; (on_goal 2 => clear_value x); (on_goal 1 => unfold x)) | (subst x))
    | split

theorem execFacetRelease_fr (q : Req) (f : Nat) (s : State) (hs : Fr V M s0 s) (key0 : ∀ u0, V (HDI.STATS u0)) :
    FrOut V M s0 (execFacetRelease q f s) := by
  unfold execFacetRelease
  repeat' first
    | with_reducible intro _
    | with_reducible assumption
    | with_reducible apply key0
    | with_reducible apply unitCmd_fr
    | with_reducible apply command_fr
    | with_reducible apply releaseEff_fr
    | with_reducible apply frOut_next
    | with_reducible apply frOut_fault

theorem execFacetHold_fr (q : Req) (f : Nat) (s : State) (hs : Fr V M s0 s) (key0 : ∀ u0, V (HDI.STATS u0)) :
    FrOut V M s0 (execFacetHold q f s) := by
  unfold execFacetHold
  repeat' first
    | with_reducible intro _
    | with_reducible assumption
    | with_reducible apply key0
    | with_reducible apply unitCmd_fr
    | with_reducible apply command_fr
    | with_reducible apply holdEff_fr
    | with_reducible apply frOut_next
    | with_reducible apply frOut_fault

theorem execFacetReleaseLands_fr (f : Nat) (s : State) (hs : Fr V M s0 s) (key0 : V (FAB.RELEASED)) (key1 : V (HDI.APPLY_OUTCOME)) (key2 : V (HDI.MIRROR_STATE)) (key3 : ∀ u0, V (VEN.STATE u0)) :
    FrOut V M s0 (execFacetReleaseLands f s) := by
  unfold execFacetReleaseLands
  repeat' first
    | with_reducible intro _
    | with_reducible assumption
    | with_reducible apply key3
    | with_reducible apply unitCmd_fr
    | with_reducible apply releaseFacet_fr
    | with_reducible apply upto_fr
    | with_reducible apply raise_fr
    | with_reducible apply frOut_next
    | with_reducible apply frOut_fault
    | split

theorem execFacetHoldLands_fr (f : Nat) (s : State) (hs : Fr V M s0 s) (key0 : V (FAB.RELEASED)) (key1 : V (HDI.APPLY_OUTCOME)) (key2 : V (HDI.MIRROR_STATE)) (key3 : ∀ u0, V (VEN.STATE u0)) :
    FrOut V M s0 (execFacetHoldLands f s) := by
  unfold execFacetHoldLands
  repeat' first
    | with_reducible intro _
    | with_reducible assumption
    | with_reducible apply key3
    | with_reducible apply unitCmd_fr
    | with_reducible apply holdFacet_fr
    | with_reducible apply upto_fr
    | with_reducible apply raise_fr
    | with_reducible apply frOut_next
    | with_reducible apply frOut_fault
    | split

theorem userInEff_fr (f k v : Nat) (s : State) (hs : Fr V M s0 s) (key0 : V (FAB.USER_IN f k)) :
    Fr V M s0 (userInEff f k v s) := by
  unfold userInEff
  repeat' first
    | with_reducible intro _
    | with_reducible assumption
    | with_reducible apply wr_fr
    | with_reducible apply modFacet_fr
    | simp only [↓fr_mk_iff]
    | with_reducible apply fr_ite
    | (extract_lets x; first | (with_reducible refine fr_cut (s := x) ?_ ?_; (on_goal 2 => clear_value x); (on_goal 1 => unfold x)) | (subst x))
    | split

theorem execUserInWrite_fr (q : Req) (f k v : Nat) (s : State) (hs : Fr V M s0 s) (key0 : V (FAB.USER_IN f k)) (key1 : ∀ u0, V (HDI.STATS u0)) :
    FrOut V M s0 (execUserInWrite q f k v s) := by
  unfold execUserInWrite
  repeat' first
    | with_reducible intro _
    | with_reducible assumption
    | with_reducible apply key1
    | with_reducible apply writeTo_fr
    | with_reducible apply userInEff_fr
    | with_reducible apply frOut_next
    | with_reducible apply frOut_fault
    | with_reducible apply frOut_ite
    | with_reducible apply fr_ite
    | split

theorem userReqSet_fr (f : Nat) (s : State) (hs : Fr V M s0 s) (key0 : V (FAB.USER_REQ)) :
    Fr V M s0 (userReqSet f s) := by
  unfold userReqSet
  repeat' first
    | with_reducible intro _
    | with_reducible assumption
    | with_reducible apply key0
    | with_reducible apply note_fr
    | with_reducible apply setBit_fr
    | with_reducible apply raise_fr
    | simp only [↓fr_mk_iff]
    | with_reducible apply fr_ite
    | (extract_lets x; first | (with_reducible refine fr_cut (s := x) ?_ ?_; (on_goal 2 => clear_value x); (on_goal 1 => unfold x)) | (subst x))
    | split

theorem execUserReq_fr (f : Nat) (s : State) (hs : Fr V M s0 s) (key0 : V (FAB.USER_REQ)) :
    FrOut V M s0 (execUserReq f s) := by
  unfold execUserReq
  repeat' first
    | with_reducible intro _
    | with_reducible assumption
    | with_reducible apply key0
    | with_reducible apply userReqSet_fr
    | with_reducible apply modFacet_fr
    | simp only [↓fr_mk_iff]
    | with_reducible apply fr_ite
    | with_reducible apply frOut_next
    | with_reducible apply frOut_fault
    | with_reducible apply frOut_ite
    | with_reducible apply unitCmd_fr
    | (extract_lets x; first | (with_reducible refine fr_cut (s := x) ?_ ?_; (on_goal 2 => clear_value x); (on_goal 1 => unfold x)) | (subst x))
    | split

theorem execFacetMeshRequest_fr (f : Nat) (op : MeshOp) (addr len data : Nat) (s : State) (hs : Fr V M s0 s) (key0 : V (FAB.MESH_ISSUED f)) :
    FrOut V M s0 (execFacetMeshRequest f op addr len data s) := by
  unfold execFacetMeshRequest
  repeat' first
    | with_reducible intro _
    | with_reducible assumption
    | with_reducible apply key0
    | with_reducible apply meshSend_fr
    | with_reducible apply bump_fr
    | simp only [↓fr_mk_iff]
    | with_reducible apply fr_ite
    | with_reducible apply frOut_next
    | with_reducible apply frOut_fault
    | with_reducible apply frOut_ite
    | with_reducible apply unitCmd_fr
    | (extract_lets x; first | (with_reducible refine fr_cut (s := x) ?_ ?_; (on_goal 2 => clear_value x); (on_goal 1 => unfold x)) | (subst x))
    | split

theorem facetDone_fr (f : Nat) (x : MeshResp) (s : State) (hs : Fr V M s0 s) (key0 : V (FAB.MESH_DISCARD f)) (key1 : V (FAB.MESH_DONE f)) :
    Fr V M s0 (facetDone f x s) := by
  unfold facetDone
  repeat' first
    | with_reducible intro _
    | with_reducible assumption
    | with_reducible apply respTaken_fr
    | with_reducible apply bump_fr
    | with_reducible apply modFacet_fr
    | simp only [↓fr_mk_iff]
    | with_reducible apply fr_ite
    | (extract_lets x; first | (with_reducible refine fr_cut (s := x) ?_ ?_; (on_goal 2 => clear_value x); (on_goal 1 => unfold x)) | (subst x))
    | split

set_option Elab.async false in
theorem execApgTransfer_fr (n : Nat) (s : State) (hs : Fr V M s0 s) (key0 : V (VEN.APG_TAKEN n)) :
    FrOut V M s0 (execApgTransfer n s) := by
  unfold execApgTransfer
  repeat' first
    | with_reducible intro _
    | with_reducible assumption
    | with_reducible apply unitCmd_fr
    | with_reducible apply upto_fr
    | with_reducible apply modVe_fr
    | with_reducible apply addTo_fr
    | with_reducible apply frOut_next
    | with_reducible apply frOut_fault
    | with_reducible apply frOut_ite
    | simp only [↓fr_mk_iff]
    | with_reducible apply fr_ite
    | (extract_lets x; first | (with_reducible refine fr_cut (s := x) ?_ ?_; (on_goal 2 => clear_value x); (on_goal 1 => unfold x)) | (subst x))
    | split

end Sys2Proof.Laws
end

