-- ==== Sys2Proof/Laws/FramePanScr.lean ====
section
/-! SUPPORT. Which members every operation of Machine/PanScr.lean can change, and whether it can change the memory. -/
namespace Sys2Proof.Laws
open Sys2Proof Sys2Proof.Machine
set_option linter.unusedVariables false
set_option linter.unusedTactic false
set_option linter.unreachableTactic false

variable {V : Nat → Prop} {M : Prop} {s0 : State}

theorem panFlag_fr (p b : Nat) (s : State) (hs : Fr V M s0 s) (key0 : V (PAN.EVFLAGS p)) :
    Fr V M s0 (panFlag p b s) := by
  unfold panFlag
  repeat' first
    | with_reducible intro _
    | with_reducible assumption
    | with_reducible apply flag_fr
    | with_reducible apply fr_ite
    | split

theorem scrFlag_fr (b k : Nat) (s : State) (hs : Fr V M s0 s) (key0 : V (SCR.EVFLAGS b) := by first | assumption | simp only [*]) :
    Fr V M s0 (scrFlag b k s) := by
  unfold scrFlag
  repeat' first
    | with_reducible intro _
    | with_reducible assumption
    | with_reducible apply flag_fr

theorem discardQueue_fr (p : Nat) (s : State) (hs : Fr V M s0 s) (key0 : V (PAN.DISCARD p) := by first | assumption | simp only [*]) (key1 : V (PAN.EVFLAGS p) := by first | assumption | simp only [*]) :
    Fr V M s0 (discardQueue p s) := by
  unfold discardQueue
  repeat' first
    | with_reducible intro _
    | with_reducible assumption
    | with_reducible apply panFlag_fr
    | with_reducible apply addTo_fr
    | with_reducible apply modPane_fr
    | simp only [↓fr_mk_iff]
    | with_reducible apply fr_ite
    | (extract_lets x; first | (with_reducible refine fr_cut (s := x) ?_ ?_; (on_goal 2 => clear_value x); (on_goal 1 => unfold x)) | (subst x))
    | split

theorem resetTaps_fr (p : Nat) (s : State) (hs : Fr V M s0 s) :
    Fr V M s0 (resetTaps p s) := by
  unfold resetTaps
  repeat' first
    | with_reducible intro _
    | with_reducible assumption
    | with_reducible apply modPane_fr
    | simp only [↓fr_mk_iff]

theorem setTaps_fr (p e : Nat) (t : Taps) (s : State) (hs : Fr V M s0 s) :
    Fr V M s0 (setTaps p e t s) := by
  unfold setTaps
  repeat' first
    | with_reducible intro _
    | with_reducible assumption
    | with_reducible apply modPane_fr
    | simp only [↓fr_mk_iff]

theorem paneRam_fr (p e : Nat) (bad : Bool) (s : State) (hs : Fr V M s0 s) (key0 : M) (key1 : V (PAN.EVFLAGS p)) (key2 : V (PAN.PERR p)) :
    Fr V M s0 (paneRam p e bad s) := by
  unfold paneRam
  repeat' first
    | with_reducible intro _
    | with_reducible assumption
    | with_reducible apply key0
    | with_reducible apply key1
    | with_reducible apply key2
    | with_reducible apply setTaps_fr
    | with_reducible apply panFlag_fr
    | with_reducible apply store_fr
    | with_reducible apply modPane_fr
    | with_reducible apply bump_fr
    | simp only [↓fr_mk_iff]
    | with_reducible apply fr_ite
    | (extract_lets x; first | (with_reducible refine fr_cut (s := x) ?_ ?_; (on_goal 2 => clear_value x); (on_goal 1 => unfold x)) | (subst x))
    | split

theorem paneQueue_fr (p e : Nat) (bad : Bool) (s : State) (hs : Fr V M s0 s) (key0 : V (PAN.EVFLAGS p)) (key1 : V (PAN.POPPED p)) (key2 : V (PAN.PUSHED p)) (key3 : V (PAN.REFUSED p)) (key4 : V (PAN.PERR p)) :
    Fr V M s0 (paneQueue p e bad s) := by
  unfold paneQueue
  repeat' first
    | with_reducible intro _
    | with_reducible assumption
    | with_reducible apply key0
    | with_reducible apply key1
    | with_reducible apply key2
    | with_reducible apply key3
    | with_reducible apply key4
    | with_reducible apply setTaps_fr
    | with_reducible apply panFlag_fr
    | with_reducible apply modPane_fr
    | with_reducible apply bump_fr
    | simp only [↓fr_mk_iff]
    | with_reducible apply fr_ite
    | (extract_lets x; first | (with_reducible refine fr_cut (s := x) ?_ ?_; (on_goal 2 => clear_value x); (on_goal 1 => unfold x)) | (subst x))
    | split

theorem paneDetachEff_fr (p : Nat) (s : State) (hs : Fr V M s0 s) :
    Fr V M s0 (paneDetachEff p s) := by
  unfold paneDetachEff
  repeat' first
    | with_reducible intro _
    | with_reducible assumption
    | with_reducible apply modPane_fr
    | simp only [↓fr_mk_iff]
    | with_reducible apply fr_ite
    | (extract_lets x; first | (with_reducible refine fr_cut (s := x) ?_ ?_; (on_goal 2 => clear_value x); (on_goal 1 => unfold x)) | (subst x))
    | split

theorem paneAttachEff_fr (p : Nat) (s : State) (hs : Fr V M s0 s) :
    Fr V M s0 (paneAttachEff p s) := by
  unfold paneAttachEff
  repeat' first
    | with_reducible intro _
    | with_reducible assumption
    | with_reducible apply modPane_fr
    | simp only [↓fr_mk_iff]
    | with_reducible apply fr_ite
    | (extract_lets x; first | (with_reducible refine fr_cut (s := x) ?_ ?_; (on_goal 2 => clear_value x); (on_goal 1 => unfold x)) | (subst x))
    | split

theorem paneTestEff_fr (p : Nat) (s : State) (hs : Fr V M s0 s) (key0 : V (PAN.STATE p)) :
    Fr V M s0 (paneTestEff p s) := by
  unfold paneTestEff
  repeat' first
    | with_reducible intro _
    | with_reducible assumption
    | with_reducible apply wr_fr
    | with_reducible apply modPane_fr
    | simp only [↓fr_mk_iff]

theorem queueLeft_fr (p : Nat) (s : State) (hs : Fr V M s0 s) (key0 : M) :
    Fr V M s0 (queueLeft p s) := by
  unfold queueLeft
  repeat' first
    | with_reducible intro _
    | with_reducible assumption
    | with_reducible apply key0
    | with_reducible apply store_fr
    | with_reducible apply modPane_fr
    | with_reducible apply drawn_fr
    | simp only [↓fr_mk_iff]
    | with_reducible apply fr_ite
    | (extract_lets x; first | (with_reducible refine fr_cut (s := x) ?_ ?_; (on_goal 2 => clear_value x); (on_goal 1 => unfold x)) | (subst x))
    | split

theorem paneModeEff_fr (p v : Nat) (s : State) (hs : Fr V M s0 s) (key0 : V (PAN.DISCARD p)) (key1 : V (PAN.EVFLAGS p)) (key2 : V (PAN.MODE p)) (key3 : M) :
    Fr V M s0 (paneModeEff p v s) := by
  unfold paneModeEff
  repeat' first
    | with_reducible intro _
    | with_reducible assumption
    | with_reducible apply key0
    | with_reducible apply key1
    | with_reducible apply key2
    | with_reducible apply key3
    | with_reducible apply queueLeft_fr
    | with_reducible apply discardQueue_fr
    | with_reducible apply wr_fr
    | simp only [↓fr_mk_iff]
    | with_reducible apply fr_ite
    | (extract_lets x; first | (with_reducible refine fr_cut (s := x) ?_ ?_; (on_goal 2 => clear_value x); (on_goal 1 => unfold x)) | (subst x))
    | split

theorem execPaneDetach_fr (q : Req) (p : Nat) (s : State) (hs : Fr V M s0 s) (key0 : ∀ u0, V (HDI.STATS u0)) :
    FrOut V M s0 (execPaneDetach q p s) := by
  unfold execPaneDetach
  repeat' first
    | with_reducible intro _
    | with_reducible assumption
    | with_reducible apply key0
    | with_reducible apply unitCmd_fr
    | with_reducible apply command_fr
    | with_reducible apply paneDetachEff_fr
    | with_reducible apply frOut_next
    | with_reducible apply frOut_fault

theorem execPaneAttach_fr (q : Req) (p : Nat) (s : State) (hs : Fr V M s0 s) (key0 : ∀ u0, V (HDI.STATS u0)) :
    FrOut V M s0 (execPaneAttach q p s) := by
  unfold execPaneAttach
  repeat' first
    | with_reducible intro _
    | with_reducible assumption
    | with_reducible apply key0
    | with_reducible apply unitCmd_fr
    | with_reducible apply command_fr
    | with_reducible apply paneAttachEff_fr
    | with_reducible apply frOut_next
    | with_reducible apply frOut_fault

theorem execPaneTest_fr (q : Req) (p : Nat) (s : State) (hs : Fr V M s0 s) (key0 : ∀ u0, V (HDI.STATS u0)) (key1 : V (PAN.STATE p)) :
    FrOut V M s0 (execPaneTest q p s) := by
  unfold execPaneTest
  repeat' first
    | with_reducible intro _
    | with_reducible assumption
    | with_reducible apply key0
    | with_reducible apply unitCmd_fr
    | with_reducible apply command_fr
    | with_reducible apply paneTestEff_fr
    | with_reducible apply frOut_next
    | with_reducible apply frOut_fault

theorem execPaneModeWrite_fr (q : Req) (p v : Nat) (s : State) (hs : Fr V M s0 s) (key0 : ∀ u0, V (HDI.STATS u0)) (key1 : V (PAN.DISCARD p)) (key2 : V (PAN.EVFLAGS p)) (key3 : V (PAN.MODE p)) (key4 : M) :
    FrOut V M s0 (execPaneModeWrite q p v s) := by
  unfold execPaneModeWrite
  repeat' first
    | with_reducible intro _
    | with_reducible assumption
    | with_reducible apply key0
    | with_reducible apply key1
    | with_reducible apply key2
    | with_reducible apply key3
    | with_reducible apply key4
    | with_reducible apply paneModeEff_fr
    | with_reducible apply writeTo_fr
    | simp only [↓fr_mk_iff]
    | with_reducible apply fr_ite
    | with_reducible apply frOut_next
    | with_reducible apply frOut_fault
    | with_reducible apply frOut_ite
    | with_reducible apply unitCmd_fr
    | (extract_lets x; first | (with_reducible refine fr_cut (s := x) ?_ ?_; (on_goal 2 => clear_value x); (on_goal 1 => unfold x)) | (subst x))
    | split

theorem execPaneAttachLands_fr (p : Nat) (s : State) (hs : Fr V M s0 s) (key0 : V (PAN.STATE p)) :
    FrOut V M s0 (execPaneAttachLands p s) := by
  unfold execPaneAttachLands
  repeat' first
    | with_reducible intro _
    | with_reducible assumption
    | with_reducible apply unitCmd_fr
    | with_reducible apply resetTaps_fr
    | with_reducible apply upto_fr
    | with_reducible apply wr_fr
    | with_reducible apply modPane_fr
    | with_reducible apply frOut_next
    | with_reducible apply frOut_fault
    | simp only [↓fr_mk_iff]
    | split

theorem testEnd_fr (result repair a n bad spares : Nat) (s : State) (hs : Fr V M s0 s) (key0 : V repair := by first | assumption | simp only [*]) (key1 : V result := by first | assumption | simp only [*]) (key2 : M := by first | assumption | simp only [*]) :
    Fr V M s0 (testEnd result repair a n bad spares s) := by
  unfold testEnd
  extract_lets fused r u
  have hu : Fr V M s0 u := wr_fr (wr_fr hs _ _) _ _
  exact fr_ite (drawn_fr _ (store_fr _ _ _ _ hu)) (fr_mem (by assumption) hu rfl)

theorem testedQueue_fr (p : Nat) (s : State) (hs : Fr V M s0 s) :
    Fr V M s0 (testedQueue p s) := by
  unfold testedQueue
  repeat' first
    | with_reducible intro _
    | with_reducible assumption
    | with_reducible apply modPane_fr
    | with_reducible apply drawn_fr
    | simp only [↓fr_mk_iff]
    | with_reducible apply fr_ite
    | (extract_lets x; first | (with_reducible refine fr_cut (s := x) ?_ ?_; (on_goal 2 => clear_value x); (on_goal 1 => unfold x)) | (subst x))
    | split

theorem execPaneTestEnd_fr (p bad : Nat) (s : State) (hs : Fr V M s0 s) (key0 : M) (key1 : V (PAN.EVFLAGS p)) (key2 : V (PAN.REPAIR p)) (key3 : V (PAN.STATE p)) (key4 : V (PAN.TEST_RESULT p)) :
    FrOut V M s0 (execPaneTestEnd p bad s) := by
  unfold execPaneTestEnd
  repeat' first
    | with_reducible intro _
    | with_reducible assumption
    | with_reducible apply key0
    | with_reducible apply key1
    | with_reducible apply key2
    | with_reducible apply key3
    | with_reducible apply key4
    | with_reducible apply testedQueue_fr
    | with_reducible apply testEnd_fr
    | with_reducible apply panFlag_fr
    | with_reducible apply wr_fr
    | simp only [↓fr_mk_iff]
    | with_reducible apply fr_ite
    | with_reducible apply frOut_next
    | with_reducible apply frOut_fault
    | with_reducible apply frOut_ite
    | with_reducible apply unitCmd_fr
    | (extract_lets x; first | (with_reducible refine fr_cut (s := x) ?_ ?_; (on_goal 2 => clear_value x); (on_goal 1 => unfold x)) | (subst x))
    | split

theorem ownerEff_fr (b port v : Nat) (s : State) (hs : Fr V M s0 s) (key0 : V (SCR.OWNER b port)) (key1 : V (SCR.STATE b)) :
    Fr V M s0 (ownerEff b port v s) := by
  unfold ownerEff
  repeat' first
    | with_reducible intro _
    | with_reducible assumption
    | with_reducible apply key0
    | with_reducible apply key1
    | with_reducible apply modBank_fr
    | with_reducible apply wr_fr
    | simp only [↓fr_mk_iff]
    | with_reducible apply fr_ite
    | (extract_lets x; first | (with_reducible refine fr_cut (s := x) ?_ ?_; (on_goal 2 => clear_value x); (on_goal 1 => unfold x)) | (subst x))
    | split

theorem execScratchOwnerWrite_fr (q : Req) (b port v : Nat) (s : State) (hs : Fr V M s0 s) (key0 : ∀ u0, V (HDI.STATS u0)) (key1 : V (SCR.OWNER b port)) (key2 : V (SCR.STATE b)) :
    FrOut V M s0 (execScratchOwnerWrite q b port v s) := by
  unfold execScratchOwnerWrite
  repeat' first
    | with_reducible intro _
    | with_reducible assumption
    | with_reducible apply key0
    | with_reducible apply writeTo_fr
    | with_reducible apply ownerEff_fr
    | with_reducible apply frOut_next
    | with_reducible apply frOut_fault
    | with_reducible apply frOut_ite
    | with_reducible apply fr_ite
    | split

theorem execHandoverEnd_fr (b : Nat) (s : State) (hs : Fr V M s0 s) (key0 : V (SCR.EVFLAGS b)) (key1 : V (SCR.STATE b)) :
    FrOut V M s0 (execHandoverEnd b s) := by
  unfold execHandoverEnd
  repeat' first
    | with_reducible intro _
    | with_reducible assumption
    | with_reducible apply key0
    | with_reducible apply key1
    | with_reducible apply scrFlag_fr
    | with_reducible apply modBank_fr
    | with_reducible apply upto_fr
    | with_reducible apply wr_fr
    | simp only [↓fr_mk_iff]
    | with_reducible apply fr_ite
    | with_reducible apply frOut_next
    | with_reducible apply frOut_fault
    | with_reducible apply frOut_ite
    | with_reducible apply unitCmd_fr
    | (extract_lets x; first | (with_reducible refine fr_cut (s := x) ?_ ?_; (on_goal 2 => clear_value x); (on_goal 1 => unfold x)) | (subst x))
    | split

theorem scrTestEff_fr (b : Nat) (s : State) (hs : Fr V M s0 s) (key0 : V (SCR.STATE b)) :
    Fr V M s0 (scrTestEff b s) := by
  unfold scrTestEff
  repeat' first
    | with_reducible intro _
    | with_reducible assumption
    | with_reducible apply wr_fr

theorem execScratchTest_fr (q : Req) (b : Nat) (s : State) (hs : Fr V M s0 s) (key0 : ∀ u0, V (HDI.STATS u0)) (key1 : V (SCR.STATE b)) :
    FrOut V M s0 (execScratchTest q b s) := by
  unfold execScratchTest
  repeat' first
    | with_reducible intro _
    | with_reducible assumption
    | with_reducible apply key0
    | with_reducible apply unitCmd_fr
    | with_reducible apply command_fr
    | with_reducible apply scrTestEff_fr
    | with_reducible apply frOut_next
    | with_reducible apply frOut_fault

theorem execScratchTestEnd_fr (b bad : Nat) (s : State) (hs : Fr V M s0 s) (key0 : M) (key1 : V (SCR.EVFLAGS b)) (key2 : V (SCR.REPAIR b)) (key3 : V (SCR.STATE b)) (key4 : V (SCR.TEST_RESULT b)) :
    FrOut V M s0 (execScratchTestEnd b bad s) := by
  unfold execScratchTestEnd
  repeat' first
    | with_reducible intro _
    | with_reducible assumption
    | with_reducible apply unitCmd_fr
    | with_reducible apply scrFlag_fr
    | with_reducible apply testEnd_fr
    | with_reducible apply wr_fr
    | with_reducible apply frOut_next
    | with_reducible apply frOut_fault
    | with_reducible apply frOut_ite
    | with_reducible apply fr_ite
    | split

theorem portTake_fr (b p c rank : Nat) (wr : Bool) (word v : Nat) (s : State) (hs : Fr V M s0 s) (key0 : V (SCR.COLLIDE b) := by first | assumption | simp only [*]) :
    Fr V M s0 (portTake b p c rank wr word v s).2 := by
  unfold portTake
  repeat' first
    | with_reducible intro _
    | with_reducible assumption
    | with_reducible apply key0
    | with_reducible apply modBank_fr
    | with_reducible apply bump_fr
    | with_reducible apply wr_fr
    | simp only [↓fr_mk_iff]
    | with_reducible apply fr_ite
    | (extract_lets x; first | (with_reducible refine fr_cut (s := x) ?_ ?_; (on_goal 2 => clear_value x); (on_goal 1 => unfold x)) | (subst x))
    | split

theorem portStall_fr (b p : Nat) (s : State) (hs : Fr V M s0 s) (key0 : ∀ u0, V (DSP.STALLS u0)) :
    Fr V M s0 (portStall b p s) := by
  unfold portStall
  repeat' first
    | with_reducible intro _
    | with_reducible assumption
    | with_reducible apply key0
    | with_reducible apply modDsp_fr
    | with_reducible apply addTo_fr
    | simp only [↓fr_mk_iff]
    | with_reducible apply fr_ite
    | (extract_lets x; first | (with_reducible refine fr_cut (s := x) ?_ ?_; (on_goal 2 => clear_value x); (on_goal 1 => unfold x)) | (subst x))
    | split

theorem loseDomain_fr (d : Nat) (s : State) (hs : Fr V M s0 s) (key0 : M := by first | assumption | simp only [*]) (key1 : ∀ u0, V (PAN.DISCARD u0) := by first | assumption | simp only [*]) (key2 : ∀ u0, V (PAN.EVFLAGS u0) := by first | assumption | simp only [*]) : Fr V M s0 (loseDomain d s) := by
  unfold loseDomain
  have hu : Fr V M s0 ((List.range 48).foldl (fun s j => discardQueue (48 * d + j) s) s) :=
    fr_foldl (fun s j h => discardQueue_fr _ s h) hs
  generalize (List.range 48).foldl (fun s j => discardQueue (48 * d + j) s) s = u at hu ⊢
  split
  · exact (fr_mem (by assumption) hu rfl)
  · exact (fr_mem (by assumption) hs rfl)

set_option Elab.async false in
theorem domainUnits_fr (d pan scr : Nat) (s : State) (hs : Fr V M s0 s) (key0 : ∀ u0, V (PAN.STATE u0)) (key1 : V (SCR.STATE (d - 32))) :
    Fr V M s0 (domainUnits d pan scr s) := by
  unfold domainUnits
  repeat' first
    | with_reducible intro _
    | with_reducible assumption
    | with_reducible apply key0
    | with_reducible apply key1
    | with_reducible apply resetTaps_fr
    | with_reducible apply modBank_fr
    | with_reducible apply modPane_fr
    | with_reducible apply wr_fr
    | simp only [↓fr_mk_iff]
    | with_reducible apply fr_foldl
    | with_reducible apply fr_foldl_snd
    | with_reducible apply fr_ite
    | (extract_lets x; first | (with_reducible refine fr_cut (s := x) ?_ ?_; (on_goal 2 => clear_value x); (on_goal 1 => unfold x)) | (subst x))
    | split

end Sys2Proof.Laws
end

