-- ==== Sys2Proof/Laws/FrameMesh.lean ====
section
/-! SUPPORT. Which members every operation of Machine/Mesh.lean can change, and whether it can change the memory. -/
namespace Sys2Proof.Laws
open Sys2Proof Sys2Proof.Machine
set_option linter.unusedVariables false
set_option linter.unusedTactic false
set_option linter.unreachableTactic false

variable {V : Nat → Prop} {M : Prop} {s0 : State}

theorem mshFlag_fr (b : Nat) (s : State) (hs : Fr V M s0 s) (key0 : V (MSH.EVFLAGS)) :
    Fr V M s0 (mshFlag b s) := by
  unfold mshFlag
  repeat' first
    | with_reducible intro _
    | with_reducible assumption
    | with_reducible apply flag_fr

theorem traceWrite_fr (p : Nat) (k : Packet) (s : State) (hs : Fr V M s0 s) (key0 : V (MSH.EVFLAGS)) (key1 : V (MSH.TLOST)) :
    Fr V M s0 (traceWrite p k s) := by
  unfold traceWrite
  repeat' first
    | with_reducible intro _
    | with_reducible assumption
    | with_reducible apply key0
    | with_reducible apply key1
    | with_reducible apply mshFlag_fr
    | with_reducible apply bump_fr
    | simp only [↓fr_mk_iff]
    | with_reducible apply fr_ite
    | (extract_lets x; first | (with_reducible refine fr_cut (s := x) ?_ ?_; (on_goal 2 => clear_value x); (on_goal 1 => unfold x)) | (subst x))
    | split

theorem probesSee_fr (k : Packet) (s : State) (hs : Fr V M s0 s) (key0 : V (MSH.EVFLAGS)) (key1 : ∀ u0, V (MSH.PFLITS u0)) (key2 : ∀ u0, V (MSH.PPKTS u0)) (key3 : V (MSH.TLOST)) :
    Fr V M s0 (probesSee k s) := by
  unfold probesSee
  repeat' first
    | with_reducible intro _
    | with_reducible assumption
    | with_reducible apply key1
    | with_reducible apply key2
    | with_reducible apply bump_fr
    | with_reducible apply addTo_fr
    | with_reducible apply traceWrite_fr
    | with_reducible apply fr_ite
    | with_reducible apply fr_foldl
    | (extract_lets x; first | (with_reducible refine fr_cut (s := x) ?_ ?_; (on_goal 2 => clear_value x); (on_goal 1 => unfold x)) | (subst x))
    | split

theorem noteArrival_fr (r : MeshReq) (s : State) (hs : Fr V M s0 s) (key0 : ∀ u0, V (DBG.BRK_HITS u0)) (key1 : ∀ u0, V (DBG.BRK_STATE u0)) (key2 : V (DBG.EVFLAGS)) (key3 : V (MSH.EVFLAGS)) (key4 : ∀ u0, V (MSH.PFLITS u0)) (key5 : ∀ u0, V (MSH.PPKTS u0)) (key6 : V (MSH.TLOST)) :
    Fr V M s0 (noteArrival r s) := by
  unfold noteArrival
  repeat' first
    | with_reducible intro _
    | with_reducible assumption
    | with_reducible apply key0
    | with_reducible apply key1
    | with_reducible apply key4
    | with_reducible apply key5
    | with_reducible apply brkMatch_fr
    | with_reducible apply probesSee_fr

theorem flitNoted_fr (p : List Nat) (s : State) (f : Flit) (hs : Fr V M s0 s) (key0 : V (MSH.EVFLAGS)) (key1 : ∀ u0, V (MSH.LINK_CE u0)) (key2 : ∀ u0, V (MSH.LINK_UE u0)) :
    Fr V M s0 (flitNoted p s f) := by
  unfold flitNoted
  repeat' first
    | with_reducible intro _
    | with_reducible assumption
    | with_reducible apply key0
    | with_reducible apply key1
    | with_reducible apply key2
    | with_reducible apply mshFlag_fr
    | with_reducible apply bump_fr
    | simp only [↓fr_mk_iff]
    | with_reducible apply fr_ite
    | (extract_lets x; first | (with_reducible refine fr_cut (s := x) ?_ ?_; (on_goal 2 => clear_value x); (on_goal 1 => unfold x)) | (subst x))
    | split

theorem flitsNoted_fr (p : List Nat) (fl : List Flit) (s : State) (hs : Fr V M s0 s) (key0 : V (MSH.EVFLAGS)) (key1 : ∀ u0, V (MSH.LINK_CE u0)) (key2 : ∀ u0, V (MSH.LINK_UE u0)) :
    Fr V M s0 (flitsNoted p fl s) := by
  unfold flitsNoted
  repeat' first
    | with_reducible intro _
    | with_reducible assumption
    | with_reducible apply key0
    | with_reducible apply key1
    | with_reducible apply key2
    | with_reducible apply flitNoted_fr
    | simp only [↓fr_mk_iff]
    | with_reducible apply fr_foldl
    | with_reducible apply fr_foldl_snd
    | with_reducible apply fr_ite
    | (extract_lets x; first | (with_reducible refine fr_cut (s := x) ?_ ?_; (on_goal 2 => clear_value x); (on_goal 1 => unfold x)) | (subst x))
    | split

theorem performMem_fr (r : MeshReq) (s : State) (hs : Fr V M s0 s) (key0 : M) :
    Fr V M s0 (performMem r s) := by
  unfold performMem
  repeat' first
    | with_reducible intro _
    | with_reducible assumption
    | with_reducible apply meshAnswer_fr
    | with_reducible apply store_fr
    | with_reducible apply fr_ite
    | split

theorem bankTimeout_fr (b : Nat) (r : MeshReq) (s : State) (hs : Fr V M s0 s) (key0 : V (SCR.STEAL_TIMEOUT b)) (key1 : V (SCR.EVFLAGS b)) :
    Fr V M s0 (bankTimeout b r s) := by
  unfold bankTimeout
  repeat' first
    | with_reducible intro _
    | with_reducible assumption
    | with_reducible apply key0
    | with_reducible apply key1
    | with_reducible apply scrFlag_fr
    | with_reducible apply meshAnswer_fr
    | with_reducible apply bump_fr
    | simp only [↓fr_mk_iff]
    | with_reducible apply fr_ite
    | (extract_lets x; first | (with_reducible refine fr_cut (s := x) ?_ ?_; (on_goal 2 => clear_value x); (on_goal 1 => unfold x)) | (subst x))
    | split

theorem bankWord_fr (b : Nat) (r : MeshReq) (x : Nat × State) (i : Nat) (hs : Fr V M s0 x.2) (key0 : V (SCR.COLLIDE b)) (key1 : M) (key2 : ∀ u0, V (DSP.STALLS u0)) : Fr V M s0 (bankWord b r x i).2 := by
  unfold bankWord
  extract_lets s word v c pt t
  have hp : Fr V M s0 pt.2 := portTake_fr _ _ _ _ _ _ _ _ hs key0
  have ht : Fr V M s0 t := fr_ite (portStall_fr _ _ _ hp key2) hp
  split
  · exact fr_ite (store_fr _ _ _ _ ht) ht
  · exact ht

theorem bankPerform_fr (b : Nat) (r : MeshReq) (s : State) (hs : Fr V M s0 s) (key0 : V (SCR.COLLIDE b)) (key1 : M) (key2 : ∀ u0, V (DSP.STALLS u0)) :
    Fr V M s0 (bankPerform b r s) := by
  unfold bankPerform
  repeat' first
    | with_reducible intro _
    | with_reducible assumption
    | with_reducible apply key0
    | with_reducible apply key1
    | with_reducible apply key2
    | with_reducible apply bankWord_fr
    | with_reducible apply meshAnswer_fr
    | simp only [↓fr_mk_iff]
    | with_reducible apply fr_foldl
    | with_reducible apply fr_foldl_snd
    | with_reducible apply fr_ite
    | (extract_lets x; first | (with_reducible refine fr_cut (s := x) ?_ ?_; (on_goal 2 => clear_value x); (on_goal 1 => unfold x)) | (subst x))
    | split

theorem serveBank_fr (b : Nat) (ecc : List Ecc) (r : MeshReq) (s : State) (hs : Fr V M s0 s) (key0 : M) (key1 : V (SCR.CE b)) (key2 : V (SCR.EVFLAGS b)) (key3 : V (SCR.TEST_TOUCH b)) (key4 : V (SCR.UE b)) (key5 : V (SCR.STEAL_TIMEOUT b)) (key6 : V (SCR.COLLIDE b)) (key7 : ∀ u0, V (DSP.STALLS u0)) :
    Fr V M s0 (serveBank b ecc r s) := by
  unfold serveBank
  repeat' first
    | with_reducible intro _
    | with_reducible assumption
    | with_reducible apply key0
    | with_reducible apply key1
    | with_reducible apply key2
    | with_reducible apply key3
    | with_reducible apply key4
    | with_reducible apply key5
    | with_reducible apply key6
    | with_reducible apply key7
    | with_reducible apply bankPerform_fr
    | with_reducible apply bankTimeout_fr
    | with_reducible apply scrFlag_fr
    | with_reducible apply meshAnswer_fr
    | with_reducible apply bump_fr
    | with_reducible apply addTo_fr
    | simp only [↓fr_mk_iff]
    | with_reducible apply fr_ite
    | (extract_lets x; first | (with_reducible refine fr_cut (s := x) ?_ ?_; (on_goal 2 => clear_value x); (on_goal 1 => unfold x)) | (subst x))
    | split

theorem paneRow_fr (p : Nat) (r : MeshReq) (x : Nat × State) (i : Nat) (hs : Fr V M s0 x.2) (key0 : M) : Fr V M s0 (paneRow p r x i).2 := by
  unfold paneRow
  extract_lets s wr port l m t
  have ht : Fr V M s0 t := modPane_fr _ _ _ hs
  split
  · exact store_fr _ _ _ _ ht
  · exact ht

theorem panePerform_fr (p : Nat) (ecc : List Ecc) (r : MeshReq) (s : State) (hs : Fr V M s0 s) (key0 : M := by first | assumption | simp only [*]) (key1 : V (PAN.PERR p) := by first | assumption | simp only [*]) (key2 : V (PAN.EVFLAGS p) := by first | assumption | simp only [*]) :
    Fr V M s0 (panePerform p ecc r s) := by
  unfold panePerform
  extract_lets bad x
  have hx : Fr V M s0 x.2 := fr_foldl_snd (fun y i h => paneRow_fr p r y i h key0) hs
  exact fr_ite (fr_ite (meshAnswer_fr _ _ _ _ hx) (meshAnswer_fr _ _ _ _ hx)) (meshAnswer_fr _ _ _ _ (panFlag_fr _ _ _ (addTo_fr _ _ _ _ hs key1) key2))

theorem servePane_fr (p : Nat) (ecc : List Ecc) (r : MeshReq) (s : State) (hs : Fr V M s0 s) (key0 : M) (key1 : V (PAN.EVFLAGS p)) (key2 : V (PAN.PERR p)) :
    Fr V M s0 (servePane p ecc r s) := by
  unfold servePane
  repeat' first
    | with_reducible intro _
    | with_reducible assumption
    | with_reducible apply key0
    | with_reducible apply key1
    | with_reducible apply key2
    | with_reducible apply panePerform_fr
    | with_reducible apply meshAnswer_fr
    | simp only [↓fr_mk_iff]
    | with_reducible apply fr_ite
    | (extract_lets x; first | (with_reducible refine fr_cut (s := x) ?_ ?_; (on_goal 2 => clear_value x); (on_goal 1 => unfold x)) | (subst x))
    | split

theorem paneServe_fr (p : Nat) (op : MeshOp) (s : State) (hs : Fr V M s0 s) (key0 : M) (key1 : V (PAN.PERR p)) (key2 : V (PAN.EVFLAGS p)) :
    Fr V M s0 (paneServe p op s) := by
  unfold paneServe
  repeat' first
    | with_reducible intro _
    | with_reducible assumption
    | with_reducible apply key0
    | with_reducible apply key1
    | with_reducible apply key2
    | with_reducible apply panePerform_fr
    | simp only [↓fr_mk_iff]
    | with_reducible apply fr_ite
    | (extract_lets x; first | (with_reducible refine fr_cut (s := x) ?_ ?_; (on_goal 2 => clear_value x); (on_goal 1 => unfold x)) | (subst x))
    | split

theorem paneServeAll_fr (p : Nat) (s : State) (hs : Fr V M s0 s) (key0 : M) (key1 : V (PAN.PERR p)) (key2 : V (PAN.EVFLAGS p)) :
    Fr V M s0 (paneServeAll p s) := by
  unfold paneServeAll
  repeat' first
    | with_reducible intro _
    | with_reducible assumption
    | with_reducible apply key0
    | with_reducible apply key1
    | with_reducible apply key2
    | with_reducible apply panePerform_fr
    | simp only [↓fr_mk_iff]
    | with_reducible apply fr_foldl
    | with_reducible apply fr_foldl_snd
    | with_reducible apply fr_ite
    | (extract_lets x; first | (with_reducible refine fr_cut (s := x) ?_ ?_; (on_goal 2 => clear_value x); (on_goal 1 => unfold x)) | (subst x))
    | split

theorem failWaiting_fr (f : Nat) (s : State) (hs : Fr V M s0 s) :
    Fr V M s0 (failWaiting f s) := by
  unfold failWaiting
  repeat' first
    | with_reducible intro _
    | with_reducible assumption
    | with_reducible apply meshAnswer_fr
    | simp only [↓fr_mk_iff]
    | with_reducible apply fr_foldl
    | with_reducible apply fr_foldl_snd
    | with_reducible apply fr_ite
    | (extract_lets x; first | (with_reducible refine fr_cut (s := x) ?_ ?_; (on_goal 2 => clear_value x); (on_goal 1 => unfold x)) | (subst x))
    | split

theorem execPaneFabricAccess_fr (p : Nat) (bad : Bool) (s : State) (hs : Fr V M s0 s) (key0 : M) (key1 : V (PAN.EVFLAGS p)) (key2 : V (PAN.PERR p)) (key3 : V (PAN.POPPED p)) (key4 : V (PAN.PUSHED p)) (key5 : V (PAN.REFUSED p)) :
    FrOut V M s0 (execPaneFabricAccess p bad s) := by
  unfold execPaneFabricAccess
  repeat' first
    | with_reducible intro _
    | with_reducible assumption
    | with_reducible apply key0
    | with_reducible apply key1
    | with_reducible apply key2
    | with_reducible apply key3
    | with_reducible apply key4
    | with_reducible apply key5
    | with_reducible apply paneServe_fr
    | with_reducible apply paneQueue_fr
    | with_reducible apply paneRam_fr
    | with_reducible apply panFlag_fr
    | with_reducible apply modPane_fr
    | with_reducible apply upto_fr
    | with_reducible apply bump_fr
    | simp only [↓fr_mk_iff]
    | with_reducible apply fr_ite
    | with_reducible apply frOut_next
    | with_reducible apply frOut_fault
    | with_reducible apply frOut_ite
    | with_reducible apply unitCmd_fr
    | (extract_lets x; first | (with_reducible refine fr_cut (s := x) ?_ ?_; (on_goal 2 => clear_value x); (on_goal 1 => unfold x)) | (subst x))
    | split

theorem execPaneDetachLands_fr (p : Nat) (s : State) (hs : Fr V M s0 s) (key0 : V (PAN.STATE p)) (key1 : M) (key2 : V (PAN.PERR p)) (key3 : V (PAN.EVFLAGS p)) :
    FrOut V M s0 (execPaneDetachLands p s) := by
  unfold execPaneDetachLands
  repeat' first
    | with_reducible intro _
    | with_reducible assumption
    | with_reducible apply key0
    | with_reducible apply key1
    | with_reducible apply key2
    | with_reducible apply key3
    | with_reducible apply paneServeAll_fr
    | with_reducible apply modPane_fr
    | with_reducible apply upto_fr
    | with_reducible apply wr_fr
    | simp only [↓fr_mk_iff]
    | with_reducible apply fr_ite
    | with_reducible apply frOut_next
    | with_reducible apply frOut_fault
    | with_reducible apply frOut_ite
    | with_reducible apply unitCmd_fr
    | (extract_lets x; first | (with_reducible refine fr_cut (s := x) ?_ ?_; (on_goal 2 => clear_value x); (on_goal 1 => unfold x)) | (subst x))
    | split

theorem serve_fr (ecc : List Ecc) (r : MeshReq) (s : State) (hs : Fr V M s0 s) (key0 : M) (key1 : ∀ u0, V (PAN.EVFLAGS u0)) (key2 : ∀ u0, V (PAN.PERR u0)) (key3 : ∀ u0, V (SCR.CE u0)) (key4 : ∀ u0, V (SCR.EVFLAGS u0)) (key5 : ∀ u0, V (SCR.TEST_TOUCH u0)) (key6 : ∀ u0, V (SCR.UE u0)) (key7 : ∀ u0, V (SCR.STEAL_TIMEOUT u0)) (key8 : ∀ u0, V (SCR.COLLIDE u0)) (key9 : ∀ u0, V (DSP.STALLS u0)) :
    Fr V M s0 (serve ecc r s) := by
  unfold serve
  repeat' first
    | with_reducible intro _
    | with_reducible assumption
    | with_reducible apply key0
    | with_reducible apply key1
    | with_reducible apply key2
    | with_reducible apply key3
    | with_reducible apply key4
    | with_reducible apply key5
    | with_reducible apply key6
    | with_reducible apply key7
    | with_reducible apply key8
    | with_reducible apply key9
    | with_reducible apply servePane_fr
    | with_reducible apply serveBank_fr
    | with_reducible apply performMem_fr
    | with_reducible apply meshAnswer_fr
    | with_reducible apply modDmc_fr
    | simp only [↓fr_mk_iff]
    | with_reducible apply fr_ite
    | (extract_lets x; first | (with_reducible refine fr_cut (s := x) ?_ ?_; (on_goal 2 => clear_value x); (on_goal 1 => unfold x)) | (subst x))
    | split

theorem crhFlag_fr (b : Nat) (s : State) (hs : Fr V M s0 s) (key0 : V (CRH.EVFLAGS)) :
    Fr V M s0 (crhFlag b s) := by
  unfold crhFlag
  repeat' first
    | with_reducible intro _
    | with_reducible assumption
    | with_reducible apply flag_fr

theorem gatedTouch_fr (u : Nat) (r : MeshReq) (s : State) (hs : Fr V M s0 s) (key0 : V (CRH.EVFLAGS)) (key1 : V (CRH.GATED_TOUCHES)) (key2 : V (CRH.GATE_TOUCH u)) :
    Fr V M s0 (gatedTouch u r s) := by
  unfold gatedTouch
  repeat' first
    | with_reducible intro _
    | with_reducible assumption
    | with_reducible apply meshAnswer_fr
    | with_reducible apply crhFlag_fr
    | with_reducible apply bump_fr
    | with_reducible apply fr_ite
    | split

theorem hold_fr (ecc : List Ecc) (r : MeshReq) (s : State) (hs : Fr V M s0 s) :
    Fr V M s0 (hold ecc r s) := by
  unfold hold
  repeat' first
    | with_reducible intro _
    | with_reducible assumption
    | simp only [↓fr_mk_iff]
    | with_reducible apply fr_ite
    | (extract_lets x; first | (with_reducible refine fr_cut (s := x) ?_ ?_; (on_goal 2 => clear_value x); (on_goal 1 => unfold x)) | (subst x))
    | split

theorem wakeDomain_fr (d : Nat) (s : State) (hs : Fr V M s0 s) (key0 : V (CRH.PWR_STATE d)) :
    Fr V M s0 (wakeDomain d s) := by
  unfold wakeDomain
  repeat' first
    | with_reducible intro _
    | with_reducible assumption
    | with_reducible apply wr_fr
    | simp only [↓fr_mk_iff]

theorem atPort_fr (ecc : List Ecc) (r : MeshReq) (s : State) (hs : Fr V M s0 s) (key0 : V (CRH.EVFLAGS)) (key1 : V (CRH.GATED_TOUCHES)) (key2 : ∀ u0, V (CRH.GATE_TOUCH u0)) (key3 : ∀ u0, V (CRH.PWR_STATE u0)) (key4 : M) (key5 : V (MSH.EVFLAGS)) (key6 : ∀ u0, V (MSH.WAKES u0)) (key7 : ∀ u0, V (PAN.EVFLAGS u0)) (key8 : ∀ u0, V (PAN.PERR u0)) (key9 : ∀ u0, V (SCR.CE u0)) (key10 : ∀ u0, V (SCR.EVFLAGS u0)) (key11 : ∀ u0, V (SCR.TEST_TOUCH u0)) (key12 : ∀ u0, V (SCR.UE u0)) (key13 : ∀ u0, V (SCR.STEAL_TIMEOUT u0)) (key14 : ∀ u0, V (SCR.COLLIDE u0)) (key15 : ∀ u0, V (DSP.STALLS u0)) :
    Fr V M s0 (atPort ecc r s) := by
  unfold atPort
  repeat' first
    | with_reducible intro _
    | with_reducible assumption
    | with_reducible apply key0
    | with_reducible apply key1
    | with_reducible apply key2
    | with_reducible apply key3
    | with_reducible apply key4
    | with_reducible apply key5
    | with_reducible apply key6
    | with_reducible apply key7
    | with_reducible apply key8
    | with_reducible apply key9
    | with_reducible apply key10
    | with_reducible apply key11
    | with_reducible apply key12
    | with_reducible apply key13
    | with_reducible apply key14
    | with_reducible apply key15
    | with_reducible apply wakeDomain_fr
    | with_reducible apply hold_fr
    | with_reducible apply gatedTouch_fr
    | with_reducible apply serve_fr
    | with_reducible apply mshFlag_fr
    | with_reducible apply meshAnswer_fr
    | with_reducible apply bump_fr
    | simp only [↓fr_mk_iff]
    | with_reducible apply fr_ite
    | (extract_lets x; first | (with_reducible refine fr_cut (s := x) ?_ ?_; (on_goal 2 => clear_value x); (on_goal 1 => unfold x)) | (subst x))
    | split

theorem arrivePort_fr (fl : List Flit) (ecc : List Ecc) (r : MeshReq) (s : State) (hs : Fr V M s0 s) (key0 : V (CRH.EVFLAGS)) (key1 : V (CRH.GATED_TOUCHES)) (key2 : ∀ u0, V (CRH.GATE_TOUCH u0)) (key3 : ∀ u0, V (CRH.PWR_STATE u0)) (key4 : ∀ u0, V (DBG.BRK_HITS u0)) (key5 : ∀ u0, V (DBG.BRK_STATE u0)) (key6 : V (DBG.EVFLAGS)) (key7 : M) (key8 : V (MSH.EVFLAGS)) (key9 : ∀ u0, V (MSH.LINK_CE u0)) (key10 : ∀ u0, V (MSH.LINK_UE u0)) (key11 : ∀ u0, V (MSH.PFLITS u0)) (key12 : ∀ u0, V (MSH.PPKTS u0)) (key13 : V (MSH.TLOST)) (key14 : ∀ u0, V (MSH.WAKES u0)) (key15 : ∀ u0, V (PAN.EVFLAGS u0)) (key16 : ∀ u0, V (PAN.PERR u0)) (key17 : ∀ u0, V (SCR.CE u0)) (key18 : ∀ u0, V (SCR.EVFLAGS u0)) (key19 : ∀ u0, V (SCR.TEST_TOUCH u0)) (key20 : ∀ u0, V (SCR.UE u0)) (key21 : ∀ u0, V (SCR.STEAL_TIMEOUT u0)) (key22 : ∀ u0, V (SCR.COLLIDE u0)) (key23 : ∀ u0, V (DSP.STALLS u0)) :
    Fr V M s0 (arrivePort fl ecc r s) := by
  unfold arrivePort
  repeat' first
    | with_reducible intro _
    | with_reducible assumption
    | with_reducible apply key0
    | with_reducible apply key1
    | with_reducible apply key2
    | with_reducible apply key3
    | with_reducible apply key4
    | with_reducible apply key5
    | with_reducible apply key6
    | with_reducible apply key7
    | with_reducible apply key8
    | with_reducible apply key9
    | with_reducible apply key10
    | with_reducible apply key11
    | with_reducible apply key12
    | with_reducible apply key13
    | with_reducible apply key14
    | with_reducible apply key15
    | with_reducible apply key16
    | with_reducible apply key17
    | with_reducible apply key18
    | with_reducible apply key19
    | with_reducible apply key20
    | with_reducible apply key21
    | with_reducible apply key22
    | with_reducible apply key23
    | with_reducible apply atPort_fr
    | with_reducible apply flitsNoted_fr
    | with_reducible apply noteArrival_fr
    | with_reducible apply meshAnswer_fr
    | simp only [↓fr_mk_iff]
    | with_reducible apply fr_ite
    | (extract_lets x; first | (with_reducible refine fr_cut (s := x) ?_ ?_; (on_goal 2 => clear_value x); (on_goal 1 => unfold x)) | (subst x))
    | split

theorem arriveCommand_fr (op : MeshOp) (r : MeshReq) (fl : List Flit) (ecc : List Ecc) (s : State) (hs : Fr V M s0 s) (key0 : V (CRH.EVFLAGS)) (key1 : V (CRH.GATED_TOUCHES)) (key2 : ∀ u0, V (CRH.GATE_TOUCH u0)) (key3 : ∀ u0, V (CRH.PWR_STATE u0)) (key4 : ∀ u0, V (DBG.BRK_HITS u0)) (key5 : ∀ u0, V (DBG.BRK_STATE u0)) (key6 : V (DBG.EVFLAGS)) (key7 : M) (key8 : V (MSH.EVFLAGS)) (key9 : ∀ u0, V (MSH.LINK_CE u0)) (key10 : ∀ u0, V (MSH.LINK_UE u0)) (key11 : ∀ u0, V (MSH.PFLITS u0)) (key12 : ∀ u0, V (MSH.PPKTS u0)) (key13 : V (MSH.TLOST)) (key14 : ∀ u0, V (MSH.WAKES u0)) (key15 : ∀ u0, V (PAN.EVFLAGS u0)) (key16 : ∀ u0, V (PAN.PERR u0)) (key17 : ∀ u0, V (SCR.CE u0)) (key18 : ∀ u0, V (SCR.EVFLAGS u0)) (key19 : ∀ u0, V (SCR.TEST_TOUCH u0)) (key20 : ∀ u0, V (SCR.UE u0)) (key21 : ∀ u0, V (SCR.STEAL_TIMEOUT u0)) (key22 : ∀ u0, V (SCR.COLLIDE u0)) (key23 : ∀ u0, V (DSP.STALLS u0)) :
    Fr V M s0 (arriveCommand op r fl ecc s) := by
  unfold arriveCommand
  repeat' first
    | with_reducible intro _
    | with_reducible assumption
    | with_reducible apply key0
    | with_reducible apply key1
    | with_reducible apply key2
    | with_reducible apply key3
    | with_reducible apply key4
    | with_reducible apply key5
    | with_reducible apply key6
    | with_reducible apply key7
    | with_reducible apply key8
    | with_reducible apply key9
    | with_reducible apply key10
    | with_reducible apply key11
    | with_reducible apply key12
    | with_reducible apply key13
    | with_reducible apply key14
    | with_reducible apply key15
    | with_reducible apply key16
    | with_reducible apply key17
    | with_reducible apply key18
    | with_reducible apply key19
    | with_reducible apply key20
    | with_reducible apply key21
    | with_reducible apply key22
    | with_reducible apply key23
    | with_reducible apply arrivePort_fr
    | with_reducible apply meshAnswer_fr
    | simp only [↓fr_mk_iff]
    | with_reducible apply fr_ite
    | (extract_lets x; first | (with_reducible refine fr_cut (s := x) ?_ ?_; (on_goal 2 => clear_value x); (on_goal 1 => unfold x)) | (subst x))
    | split

theorem execMeshRead_fr (r : MeshReq) (fl : List Flit) (ecc : List Ecc) (s : State) (hs : Fr V M s0 s) (key0 : V (CRH.EVFLAGS)) (key1 : V (CRH.GATED_TOUCHES)) (key2 : ∀ u0, V (CRH.GATE_TOUCH u0)) (key3 : ∀ u0, V (CRH.PWR_STATE u0)) (key4 : ∀ u0, V (DBG.BRK_HITS u0)) (key5 : ∀ u0, V (DBG.BRK_STATE u0)) (key6 : V (DBG.EVFLAGS)) (key7 : M) (key8 : V (MSH.EVFLAGS)) (key9 : ∀ u0, V (MSH.LINK_CE u0)) (key10 : ∀ u0, V (MSH.LINK_UE u0)) (key11 : ∀ u0, V (MSH.PFLITS u0)) (key12 : ∀ u0, V (MSH.PPKTS u0)) (key13 : V (MSH.TLOST)) (key14 : ∀ u0, V (MSH.WAKES u0)) (key15 : ∀ u0, V (PAN.EVFLAGS u0)) (key16 : ∀ u0, V (PAN.PERR u0)) (key17 : ∀ u0, V (SCR.CE u0)) (key18 : ∀ u0, V (SCR.EVFLAGS u0)) (key19 : ∀ u0, V (SCR.TEST_TOUCH u0)) (key20 : ∀ u0, V (SCR.UE u0)) (key21 : ∀ u0, V (SCR.STEAL_TIMEOUT u0)) (key22 : ∀ u0, V (SCR.COLLIDE u0)) (key23 : ∀ u0, V (DSP.STALLS u0)) :
    FrOut V M s0 (execMeshRead r fl ecc s) := by
  unfold execMeshRead
  repeat' first
    | with_reducible intro _
    | with_reducible assumption
    | with_reducible apply key0
    | with_reducible apply key1
    | with_reducible apply key2
    | with_reducible apply key3
    | with_reducible apply key4
    | with_reducible apply key5
    | with_reducible apply key6
    | with_reducible apply key7
    | with_reducible apply key8
    | with_reducible apply key9
    | with_reducible apply key10
    | with_reducible apply key11
    | with_reducible apply key12
    | with_reducible apply key13
    | with_reducible apply key14
    | with_reducible apply key15
    | with_reducible apply key16
    | with_reducible apply key17
    | with_reducible apply key18
    | with_reducible apply key19
    | with_reducible apply key20
    | with_reducible apply key21
    | with_reducible apply key22
    | with_reducible apply key23
    | with_reducible apply arriveCommand_fr
    | simp only [↓fr_mk_iff]
    | with_reducible apply fr_ite
    | with_reducible apply frOut_next
    | with_reducible apply frOut_fault
    | with_reducible apply frOut_ite
    | with_reducible apply unitCmd_fr
    | (extract_lets x; first | (with_reducible refine fr_cut (s := x) ?_ ?_; (on_goal 2 => clear_value x); (on_goal 1 => unfold x)) | (subst x))
    | split

theorem execMeshWrite_fr (r : MeshReq) (fl : List Flit) (s : State) (hs : Fr V M s0 s) (key0 : V (CRH.EVFLAGS)) (key1 : V (CRH.GATED_TOUCHES)) (key2 : ∀ u0, V (CRH.GATE_TOUCH u0)) (key3 : ∀ u0, V (CRH.PWR_STATE u0)) (key4 : ∀ u0, V (DBG.BRK_HITS u0)) (key5 : ∀ u0, V (DBG.BRK_STATE u0)) (key6 : V (DBG.EVFLAGS)) (key7 : M) (key8 : V (MSH.EVFLAGS)) (key9 : ∀ u0, V (MSH.LINK_CE u0)) (key10 : ∀ u0, V (MSH.LINK_UE u0)) (key11 : ∀ u0, V (MSH.PFLITS u0)) (key12 : ∀ u0, V (MSH.PPKTS u0)) (key13 : V (MSH.TLOST)) (key14 : ∀ u0, V (MSH.WAKES u0)) (key15 : ∀ u0, V (PAN.EVFLAGS u0)) (key16 : ∀ u0, V (PAN.PERR u0)) (key17 : ∀ u0, V (SCR.CE u0)) (key18 : ∀ u0, V (SCR.EVFLAGS u0)) (key19 : ∀ u0, V (SCR.TEST_TOUCH u0)) (key20 : ∀ u0, V (SCR.UE u0)) (key21 : ∀ u0, V (SCR.STEAL_TIMEOUT u0)) (key22 : ∀ u0, V (SCR.COLLIDE u0)) (key23 : ∀ u0, V (DSP.STALLS u0)) :
    FrOut V M s0 (execMeshWrite r fl s) := by
  unfold execMeshWrite
  repeat' first
    | with_reducible intro _
    | with_reducible assumption
    | with_reducible apply key0
    | with_reducible apply key1
    | with_reducible apply key2
    | with_reducible apply key3
    | with_reducible apply key4
    | with_reducible apply key5
    | with_reducible apply key6
    | with_reducible apply key7
    | with_reducible apply key8
    | with_reducible apply key9
    | with_reducible apply key10
    | with_reducible apply key11
    | with_reducible apply key12
    | with_reducible apply key13
    | with_reducible apply key14
    | with_reducible apply key15
    | with_reducible apply key16
    | with_reducible apply key17
    | with_reducible apply key18
    | with_reducible apply key19
    | with_reducible apply key20
    | with_reducible apply key21
    | with_reducible apply key22
    | with_reducible apply key23
    | with_reducible apply arriveCommand_fr
    | simp only [↓fr_mk_iff]
    | with_reducible apply fr_ite
    | with_reducible apply frOut_next
    | with_reducible apply frOut_fault
    | with_reducible apply frOut_ite
    | with_reducible apply unitCmd_fr
    | (extract_lets x; first | (with_reducible refine fr_cut (s := x) ?_ ?_; (on_goal 2 => clear_value x); (on_goal 1 => unfold x)) | (subst x))
    | split

theorem execMeshOr_fr (r : MeshReq) (fl : List Flit) (s : State) (hs : Fr V M s0 s) (key0 : V (CRH.EVFLAGS)) (key1 : V (CRH.GATED_TOUCHES)) (key2 : ∀ u0, V (CRH.GATE_TOUCH u0)) (key3 : ∀ u0, V (CRH.PWR_STATE u0)) (key4 : ∀ u0, V (DBG.BRK_HITS u0)) (key5 : ∀ u0, V (DBG.BRK_STATE u0)) (key6 : V (DBG.EVFLAGS)) (key7 : M) (key8 : V (MSH.EVFLAGS)) (key9 : ∀ u0, V (MSH.LINK_CE u0)) (key10 : ∀ u0, V (MSH.LINK_UE u0)) (key11 : ∀ u0, V (MSH.PFLITS u0)) (key12 : ∀ u0, V (MSH.PPKTS u0)) (key13 : V (MSH.TLOST)) (key14 : ∀ u0, V (MSH.WAKES u0)) (key15 : ∀ u0, V (PAN.EVFLAGS u0)) (key16 : ∀ u0, V (PAN.PERR u0)) (key17 : ∀ u0, V (SCR.CE u0)) (key18 : ∀ u0, V (SCR.EVFLAGS u0)) (key19 : ∀ u0, V (SCR.TEST_TOUCH u0)) (key20 : ∀ u0, V (SCR.UE u0)) (key21 : ∀ u0, V (SCR.STEAL_TIMEOUT u0)) (key22 : ∀ u0, V (SCR.COLLIDE u0)) (key23 : ∀ u0, V (DSP.STALLS u0)) :
    FrOut V M s0 (execMeshOr r fl s) := by
  unfold execMeshOr
  repeat' first
    | with_reducible intro _
    | with_reducible assumption
    | with_reducible apply key0
    | with_reducible apply key1
    | with_reducible apply key2
    | with_reducible apply key3
    | with_reducible apply key4
    | with_reducible apply key5
    | with_reducible apply key6
    | with_reducible apply key7
    | with_reducible apply key8
    | with_reducible apply key9
    | with_reducible apply key10
    | with_reducible apply key11
    | with_reducible apply key12
    | with_reducible apply key13
    | with_reducible apply key14
    | with_reducible apply key15
    | with_reducible apply key16
    | with_reducible apply key17
    | with_reducible apply key18
    | with_reducible apply key19
    | with_reducible apply key20
    | with_reducible apply key21
    | with_reducible apply key22
    | with_reducible apply key23
    | with_reducible apply arriveCommand_fr
    | simp only [↓fr_mk_iff]
    | with_reducible apply fr_ite
    | with_reducible apply frOut_next
    | with_reducible apply frOut_fault
    | with_reducible apply frOut_ite
    | with_reducible apply unitCmd_fr
    | (extract_lets x; first | (with_reducible refine fr_cut (s := x) ?_ ?_; (on_goal 2 => clear_value x); (on_goal 1 => unfold x)) | (subst x))
    | split

theorem performHeld_fr (t : MeshReq → Bool) (s : State) (hs : Fr V M s0 s) (key0 : V (CRH.EVFLAGS)) (key1 : V (CRH.GATED_TOUCHES)) (key2 : ∀ u0, V (CRH.GATE_TOUCH u0)) (key3 : ∀ u0, V (CRH.PWR_STATE u0)) (key4 : M) (key5 : V (MSH.EVFLAGS)) (key6 : ∀ u0, V (MSH.WAKES u0)) (key7 : ∀ u0, V (PAN.EVFLAGS u0)) (key8 : ∀ u0, V (PAN.PERR u0)) (key9 : ∀ u0, V (SCR.CE u0)) (key10 : ∀ u0, V (SCR.EVFLAGS u0)) (key11 : ∀ u0, V (SCR.TEST_TOUCH u0)) (key12 : ∀ u0, V (SCR.UE u0)) (key13 : ∀ u0, V (SCR.STEAL_TIMEOUT u0)) (key14 : ∀ u0, V (SCR.COLLIDE u0)) (key15 : ∀ u0, V (DSP.STALLS u0)) :
    Fr V M s0 (performHeld t s) := by
  unfold performHeld
  repeat' first
    | with_reducible intro _
    | with_reducible assumption
    | with_reducible apply key0
    | with_reducible apply key1
    | with_reducible apply key2
    | with_reducible apply key3
    | with_reducible apply key4
    | with_reducible apply key5
    | with_reducible apply key6
    | with_reducible apply key7
    | with_reducible apply key8
    | with_reducible apply key9
    | with_reducible apply key10
    | with_reducible apply key11
    | with_reducible apply key12
    | with_reducible apply key13
    | with_reducible apply key14
    | with_reducible apply key15
    | with_reducible apply atPort_fr
    | simp only [↓fr_mk_iff]
    | with_reducible apply fr_foldl
    | with_reducible apply fr_foldl_snd
    | with_reducible apply fr_ite
    | (extract_lets x; first | (with_reducible refine fr_cut (s := x) ?_ ?_; (on_goal 2 => clear_value x); (on_goal 1 => unfold x)) | (subst x))
    | split

theorem execStealTimeout_fr (r : MeshReq) (s : State) (hs : Fr V M s0 s) (key0 : ∀ u0, V (DBG.BRK_HITS u0)) (key1 : ∀ u0, V (DBG.BRK_STATE u0)) (key2 : V (DBG.EVFLAGS)) (key3 : V (MSH.EVFLAGS)) (key4 : ∀ u0, V (MSH.PFLITS u0)) (key5 : ∀ u0, V (MSH.PPKTS u0)) (key6 : V (MSH.TLOST)) (key7 : ∀ u0, V (PAN.EVFLAGS u0)) (key8 : ∀ u0, V (PAN.STEAL_TIMEOUT u0)) (key9 : ∀ u0, V (SCR.EVFLAGS u0)) (key10 : ∀ u0, V (SCR.STEAL_TIMEOUT u0)) :
    FrOut V M s0 (execStealTimeout r s) := by
  unfold execStealTimeout
  repeat' first
    | with_reducible intro _
    | with_reducible assumption
    | with_reducible apply key0
    | with_reducible apply key1
    | with_reducible apply key2
    | with_reducible apply key3
    | with_reducible apply key4
    | with_reducible apply key5
    | with_reducible apply key6
    | with_reducible apply key7
    | with_reducible apply key8
    | with_reducible apply key9
    | with_reducible apply key10
    | with_reducible apply panFlag_fr
    | with_reducible apply meshAnswer_fr
    | with_reducible apply upto_fr
    | with_reducible apply bump_fr
    | simp only [↓fr_mk_iff]
    | with_reducible apply fr_ite
    | with_reducible apply frOut_next
    | with_reducible apply frOut_fault
    | with_reducible apply frOut_ite
    | with_reducible apply unitCmd_fr
    | (extract_lets x; first | (with_reducible refine fr_cut (s := x) ?_ ?_; (on_goal 2 => clear_value x); (on_goal 1 => unfold x)) | (subst x))
    | split

theorem execDomainPowered_fr (d : Nat) (s : State) (hs : Fr V M s0 s) (key0 : V (CRH.PWR_STATE d)) (key1 : ∀ u0, V (PAN.STATE u0)) (key2 : V (SCR.STATE (d - 32))) :
    FrOut V M s0 (execDomainPowered d s) := by
  unfold execDomainPowered
  repeat' first
    | with_reducible intro _
    | with_reducible assumption
    | with_reducible apply key1
    | with_reducible apply unitCmd_fr
    | with_reducible apply domainUnits_fr
    | with_reducible apply wr_fr
    | with_reducible apply frOut_next
    | with_reducible apply frOut_fault
    | with_reducible apply frOut_ite
    | simp only [↓fr_mk_iff]
    | with_reducible apply fr_ite
    | split

theorem drainEff_fr (n : Nat) (cfg : Option Nat) (s : State) (hs : Fr V M s0 s) (key0 : V (MSH.RSTATE n)) :
    Fr V M s0 (drainEff n cfg s) := by
  unfold drainEff
  repeat' first
    | with_reducible intro _
    | with_reducible assumption
    | with_reducible apply key0
    | with_reducible apply wr_fr
    | simp only [↓fr_mk_iff]
    | with_reducible apply fr_ite
    | (extract_lets x; first | (with_reducible refine fr_cut (s := x) ?_ ?_; (on_goal 2 => clear_value x); (on_goal 1 => unfold x)) | (subst x))
    | split

theorem execRouterSelfcheck_fr (q : Req) (n : Nat) (s : State) (hs : Fr V M s0 s) (key0 : ∀ u0, V (HDI.STATS u0)) (key1 : V (MSH.RSTATE n)) :
    FrOut V M s0 (execRouterSelfcheck q n s) := by
  unfold execRouterSelfcheck
  repeat' first
    | with_reducible intro _
    | with_reducible assumption
    | with_reducible apply key0
    | with_reducible apply unitCmd_fr
    | with_reducible apply command_fr
    | with_reducible apply drainEff_fr
    | with_reducible apply frOut_next
    | with_reducible apply frOut_fault

theorem execRcfgWrite_fr (q : Req) (n v : Nat) (s : State) (hs : Fr V M s0 s) (key0 : ∀ u0, V (HDI.STATS u0)) (key1 : V (MSH.RSTATE n)) :
    FrOut V M s0 (execRcfgWrite q n v s) := by
  unfold execRcfgWrite
  repeat' first
    | with_reducible intro _
    | with_reducible assumption
    | with_reducible apply key0
    | with_reducible apply unitCmd_fr
    | with_reducible apply writeTo_fr
    | with_reducible apply drainEff_fr
    | with_reducible apply frOut_next
    | with_reducible apply frOut_fault

theorem execDrainEnd_fr (n : Nat) (pass : Bool) (s : State) (hs : Fr V M s0 s) (key0 : V (MSH.DRAINS n)) (key1 : V (MSH.EVFLAGS)) (key2 : V (MSH.RCFG n)) (key3 : V (MSH.RCHECK n)) (key4 : V (MSH.RSTATE n)) :
    FrOut V M s0 (execDrainEnd n pass s) := by
  unfold execDrainEnd
  repeat' first
    | with_reducible intro _
    | with_reducible assumption
    | with_reducible apply key0
    | with_reducible apply key1
    | with_reducible apply key2
    | with_reducible apply key3
    | with_reducible apply key4
    | with_reducible apply mshFlag_fr
    | with_reducible apply bump_fr
    | with_reducible apply wr_fr
    | simp only [↓fr_mk_iff]
    | with_reducible apply fr_ite
    | with_reducible apply frOut_next
    | with_reducible apply frOut_fault
    | with_reducible apply frOut_ite
    | with_reducible apply unitCmd_fr
    | (extract_lets x; first | (with_reducible refine fr_cut (s := x) ?_ ?_; (on_goal 2 => clear_value x); (on_goal 1 => unfold x)) | (subst x))
    | split

theorem probeRunEff_fr (p : Nat) (s : State) (hs : Fr V M s0 s) (key0 : V (MSH.PSTATE p)) :
    Fr V M s0 (probeRunEff p s) := by
  unfold probeRunEff
  repeat' first
    | with_reducible intro _
    | with_reducible assumption
    | with_reducible apply wr_fr

theorem probeStopEff_fr (p : Nat) (s : State) (hs : Fr V M s0 s) (key0 : V (MSH.PSTATE p)) :
    Fr V M s0 (probeStopEff p s) := by
  unfold probeStopEff
  repeat' first
    | with_reducible intro _
    | with_reducible assumption
    | with_reducible apply wr_fr

theorem probeClearEff_fr (p : Nat) (s : State) (hs : Fr V M s0 s) (key0 : V (MSH.PFLITS p)) (key1 : V (MSH.PPKTS p)) :
    Fr V M s0 (probeClearEff p s) := by
  unfold probeClearEff
  repeat' first
    | with_reducible intro _
    | with_reducible assumption
    | with_reducible apply wr_fr

theorem tclearEff_fr (s : State) (hs : Fr V M s0 s) :
    Fr V M s0 (tclearEff s) := by
  unfold tclearEff
  repeat' first
    | with_reducible intro _
    | with_reducible assumption
    | simp only [↓fr_mk_iff]

theorem execProbeRun_fr (q : Req) (p : Nat) (s : State) (hs : Fr V M s0 s) (key0 : ∀ u0, V (HDI.STATS u0)) (key1 : V (MSH.PSTATE p)) :
    FrOut V M s0 (execProbeRun q p s) := by
  unfold execProbeRun
  repeat' first
    | with_reducible intro _
    | with_reducible assumption
    | with_reducible apply key0
    | with_reducible apply unitCmd_fr
    | with_reducible apply command_fr
    | with_reducible apply probeRunEff_fr
    | with_reducible apply frOut_next
    | with_reducible apply frOut_fault

theorem execProbeStop_fr (q : Req) (p : Nat) (s : State) (hs : Fr V M s0 s) (key0 : ∀ u0, V (HDI.STATS u0)) (key1 : V (MSH.PSTATE p)) :
    FrOut V M s0 (execProbeStop q p s) := by
  unfold execProbeStop
  repeat' first
    | with_reducible intro _
    | with_reducible assumption
    | with_reducible apply key0
    | with_reducible apply unitCmd_fr
    | with_reducible apply command_fr
    | with_reducible apply probeStopEff_fr
    | with_reducible apply frOut_next
    | with_reducible apply frOut_fault

theorem execProbeClear_fr (q : Req) (p : Nat) (s : State) (hs : Fr V M s0 s) (key0 : ∀ u0, V (HDI.STATS u0)) (key1 : V (MSH.PFLITS p)) (key2 : V (MSH.PPKTS p)) :
    FrOut V M s0 (execProbeClear q p s) := by
  unfold execProbeClear
  repeat' first
    | with_reducible intro _
    | with_reducible assumption
    | with_reducible apply key0
    | with_reducible apply unitCmd_fr
    | with_reducible apply command_fr
    | with_reducible apply probeClearEff_fr
    | with_reducible apply frOut_next
    | with_reducible apply frOut_fault

set_option Elab.async false in
theorem execTclear_fr (q : Req) (v : Nat) (s : State) (hs : Fr V M s0 s) (key0 : ∀ u0, V (HDI.STATS u0)) :
    FrOut V M s0 (execTclear q v s) := by
  unfold execTclear
  repeat' first
    | with_reducible intro _
    | with_reducible assumption
    | with_reducible apply key0
    | with_reducible apply command_fr
    | with_reducible apply tclearEff_fr
    | with_reducible apply frOut_next
    | with_reducible apply frOut_fault

end Sys2Proof.Laws
end

