-- ==== Sys2Proof/Laws/FrameDmc.lean ====
section
/-! SUPPORT. Which members every operation of Machine/Dmc.lean can change, and whether it can change the memory. -/
namespace Sys2Proof.Laws
open Sys2Proof Sys2Proof.Machine
set_option linter.unusedVariables false
set_option linter.unusedTactic false
set_option linter.unreachableTactic false

variable {V : Nat → Prop} {M : Prop} {s0 : State}

theorem dmcFlag_fr (n b : Nat) (s : State) (hs : Fr V M s0 s) (key0 : V (DMC.EVFLAGS n)) :
    Fr V M s0 (dmcFlag n b s) := by
  unfold dmcFlag
  repeat' first
    | with_reducible intro _
    | with_reducible assumption
    | with_reducible apply flag_fr

theorem dmcEnter_fr (n c : Nat) (s : State) (hs : Fr V M s0 s) (key0 : V (DMC.EVFLAGS n)) (key1 : V (DMC.STATE n)) :
    Fr V M s0 (dmcEnter n c s) := by
  unfold dmcEnter
  repeat' first
    | with_reducible intro _
    | with_reducible assumption
    | with_reducible apply dmcFlag_fr
    | with_reducible apply wr_fr

theorem spdRead_fr (n : Nat) (s : State) (hs : Fr V M s0 s) (key0 : V (DMC.CAPACITY n)) (key1 : V (DMC.CONFIG n)) :
    Fr V M s0 (spdRead n s) := by
  unfold spdRead
  repeat' first
    | with_reducible intro _
    | with_reducible assumption
    | with_reducible apply key0
    | with_reducible apply key1
    | with_reducible apply wr_fr
    | simp only [↓fr_mk_iff]
    | with_reducible apply fr_foldl
    | with_reducible apply fr_foldl_snd
    | with_reducible apply fr_ite
    | (extract_lets x; first | (with_reducible refine fr_cut (s := x) ?_ ?_; (on_goal 2 => clear_value x); (on_goal 1 => unfold x)) | (subst x))
    | split

theorem ddrLock_fr (n : Nat) (v : Bool) (s : State) (hs : Fr V M s0 s) (key0 : V (CRH.CLK_STATUS)) :
    Fr V M s0 (ddrLock n v s) := by
  unfold ddrLock
  repeat' first
    | with_reducible intro _
    | with_reducible assumption
    | with_reducible apply setBit_fr

theorem trainStart_fr (n : Nat) (s : State) (hs : Fr V M s0 s) (key0 : V (CRH.CLK_STATUS)) (key1 : V (DMC.CAPACITY n)) (key2 : V (DMC.CONFIG n)) (key3 : V (DMC.EVFLAGS n)) (key4 : V (DMC.STATE n)) :
    Fr V M s0 (trainStart n s) := by
  unfold trainStart
  repeat' first
    | with_reducible intro _
    | with_reducible assumption
    | with_reducible apply key0
    | with_reducible apply key1
    | with_reducible apply key2
    | with_reducible apply key3
    | with_reducible apply key4
    | with_reducible apply ddrLock_fr
    | with_reducible apply spdRead_fr
    | with_reducible apply dmcEnter_fr
    | with_reducible apply modDmc_fr
    | simp only [↓fr_mk_iff]
    | with_reducible apply fr_ite
    | (extract_lets x; first | (with_reducible refine fr_cut (s := x) ?_ ?_; (on_goal 2 => clear_value x); (on_goal 1 => unfold x)) | (subst x))
    | split

theorem execDmcTrain_fr (q : Req) (n : Nat) (s : State) (hs : Fr V M s0 s) (key0 : V (CRH.CLK_STATUS)) (key1 : V (DMC.CAPACITY n)) (key2 : V (DMC.CONFIG n)) (key3 : V (DMC.EVFLAGS n)) (key4 : V (DMC.STATE n)) (key5 : ∀ u0, V (HDI.STATS u0)) :
    FrOut V M s0 (execDmcTrain q n s) := by
  unfold execDmcTrain
  repeat' first
    | with_reducible intro _
    | with_reducible assumption
    | with_reducible apply key5
    | with_reducible apply unitCmd_fr
    | with_reducible apply command_fr
    | with_reducible apply trainStart_fr
    | with_reducible apply frOut_next
    | with_reducible apply frOut_fault

theorem execAutoTrainStart_fr (s : State) (hs : Fr V M s0 s) (key0 : V (CRH.CLK_STATUS)) (key1 : ∀ u0, V (DMC.CAPACITY u0)) (key2 : ∀ u0, V (DMC.CONFIG u0)) (key3 : ∀ u0, V (DMC.EVFLAGS u0)) (key4 : ∀ u0, V (DMC.STATE u0)) :
    FrOut V M s0 (execAutoTrainStart s) := by
  unfold execAutoTrainStart
  repeat' first
    | with_reducible intro _
    | with_reducible assumption
    | with_reducible apply key1
    | with_reducible apply key2
    | with_reducible apply key3
    | with_reducible apply key4
    | with_reducible apply trainStart_fr
    | with_reducible apply frOut_next
    | with_reducible apply frOut_fault
    | with_reducible apply frOut_ite
    | simp only [↓fr_mk_iff]
    | with_reducible apply fr_ite
    | with_reducible apply fr_foldl
    | split

theorem dmcChanged_fr (s : State) (hs : Fr V M s0 s) (key0 : V (HDI.APPLY_OUTCOME)) (key1 : V (HDI.MIRROR_STATE)) (key2 : ∀ u0, V (VEN.STATE u0)) :
    Fr V M s0 (dmcChanged s) := by
  unfold dmcChanged
  repeat' first
    | with_reducible intro _
    | with_reducible assumption
    | with_reducible apply key2
    | with_reducible apply reopenIf_fr

theorem dmcFail_fr (n : Nat) (s : State) (hs : Fr V M s0 s) (key0 : V (CRH.CLK_STATUS)) (key1 : V (DMC.CONFIG n)) (key2 : V (DMC.EVFLAGS n)) (key3 : V (DMC.STATE n)) :
    Fr V M s0 (dmcFail n s) := by
  unfold dmcFail
  repeat' first
    | with_reducible intro _
    | with_reducible assumption
    | with_reducible apply dmcFlag_fr
    | with_reducible apply ddrLock_fr
    | with_reducible apply dmcEnter_fr
    | with_reducible apply wr_fr

theorem execTrainingEnd_fr (n : Nat) (eye : Bool) (s : State) (hs : Fr V M s0 s) (key0 : V (CRH.CLK_STATUS)) (key1 : V (DMC.CONFIG n)) (key2 : V (DMC.EVFLAGS n)) (key3 : V (DMC.STATE n)) (key4 : V (DMC.TRAIN_RESULT n)) :
    FrOut V M s0 (execTrainingEnd n eye s) := by
  unfold execTrainingEnd
  repeat' first
    | with_reducible intro _
    | with_reducible assumption
    | with_reducible apply key0
    | with_reducible apply key1
    | with_reducible apply key2
    | with_reducible apply key3
    | with_reducible apply key4
    | with_reducible apply dmcFail_fr
    | with_reducible apply dmcEnter_fr
    | with_reducible apply modDmc_fr
    | with_reducible apply wr_fr
    | simp only [↓fr_mk_iff]
    | with_reducible apply fr_ite
    | with_reducible apply frOut_next
    | with_reducible apply frOut_fault
    | with_reducible apply frOut_ite
    | with_reducible apply unitCmd_fr
    | (extract_lets x; first | (with_reducible refine fr_cut (s := x) ?_ ?_; (on_goal 2 => clear_value x); (on_goal 1 => unfold x)) | (subst x))
    | split

theorem setRate_fr (n v : Nat) (s : State) (hs : Fr V M s0 s) (key0 : V (DMC.CONFIG n)) :
    Fr V M s0 (setRate n v s) := by
  unfold setRate
  repeat' first
    | with_reducible intro _
    | with_reducible assumption
    | with_reducible apply key0
    | with_reducible apply wr_fr
    | simp only [↓fr_mk_iff]
    | with_reducible apply fr_ite
    | (extract_lets x; first | (with_reducible refine fr_cut (s := x) ?_ ?_; (on_goal 2 => clear_value x); (on_goal 1 => unfold x)) | (subst x))
    | split

theorem retrainStart_fr (n : Nat) (s : State) (hs : Fr V M s0 s) (key0 : V (DMC.EVFLAGS n)) (key1 : V (DMC.RETRAINS n)) (key2 : V (DMC.STATE n)) (key3 : V (HDI.APPLY_OUTCOME)) (key4 : V (HDI.MIRROR_STATE)) (key5 : ∀ u0, V (VEN.STATE u0)) (key6 : V (DMC.CONFIG n)) :
    Fr V M s0 (retrainStart n s) := by
  unfold retrainStart
  repeat' first
    | with_reducible intro _
    | with_reducible assumption
    | with_reducible apply key0
    | with_reducible apply key1
    | with_reducible apply key2
    | with_reducible apply key3
    | with_reducible apply key4
    | with_reducible apply key5
    | with_reducible apply key6
    | with_reducible apply setRate_fr
    | with_reducible apply dmcChanged_fr
    | with_reducible apply dmcEnter_fr
    | with_reducible apply bump_fr
    | simp only [↓fr_mk_iff]
    | with_reducible apply fr_ite
    | (extract_lets x; first | (with_reducible refine fr_cut (s := x) ?_ ?_; (on_goal 2 => clear_value x); (on_goal 1 => unfold x)) | (subst x))
    | split

theorem execDmcRetrain_fr (q : Req) (n : Nat) (s : State) (hs : Fr V M s0 s) (key0 : V (DMC.EVFLAGS n)) (key1 : V (DMC.RETRAINS n)) (key2 : V (DMC.STATE n)) (key3 : V (HDI.APPLY_OUTCOME)) (key4 : V (HDI.MIRROR_STATE)) (key5 : ∀ u0, V (HDI.STATS u0)) (key6 : ∀ u0, V (VEN.STATE u0)) (key7 : V (DMC.CONFIG n)) :
    FrOut V M s0 (execDmcRetrain q n s) := by
  unfold execDmcRetrain
  repeat' first
    | with_reducible intro _
    | with_reducible assumption
    | with_reducible apply key0
    | with_reducible apply key1
    | with_reducible apply key2
    | with_reducible apply key3
    | with_reducible apply key4
    | with_reducible apply key5
    | with_reducible apply key6
    | with_reducible apply key7
    | with_reducible apply retrainStart_fr
    | with_reducible apply command_fr
    | simp only [↓fr_mk_iff]
    | with_reducible apply fr_ite
    | with_reducible apply frOut_next
    | with_reducible apply frOut_fault
    | with_reducible apply frOut_ite
    | with_reducible apply unitCmd_fr
    | (extract_lets x; first | (with_reducible refine fr_cut (s := x) ?_ ?_; (on_goal 2 => clear_value x); (on_goal 1 => unfold x)) | (subst x))
    | split

theorem execAutoRetrain_fr (n : Nat) (s : State) (hs : Fr V M s0 s) (key0 : V (DMC.EVFLAGS n)) (key1 : V (DMC.RETRAINS n)) (key2 : V (DMC.STATE n)) (key3 : V (HDI.APPLY_OUTCOME)) (key4 : V (HDI.MIRROR_STATE)) (key5 : ∀ u0, V (VEN.STATE u0)) (key6 : V (DMC.CONFIG n)) :
    FrOut V M s0 (execAutoRetrain n s) := by
  unfold execAutoRetrain
  repeat' first
    | with_reducible intro _
    | with_reducible assumption
    | with_reducible apply key0
    | with_reducible apply key1
    | with_reducible apply key2
    | with_reducible apply key3
    | with_reducible apply key4
    | with_reducible apply key5
    | with_reducible apply key6
    | with_reducible apply retrainStart_fr
    | with_reducible apply modDmc_fr
    | with_reducible apply upto_fr
    | simp only [↓fr_mk_iff]
    | with_reducible apply fr_ite
    | with_reducible apply frOut_next
    | with_reducible apply frOut_fault
    | with_reducible apply frOut_ite
    | with_reducible apply unitCmd_fr
    | (extract_lets x; first | (with_reducible refine fr_cut (s := x) ?_ ?_; (on_goal 2 => clear_value x); (on_goal 1 => unfold x)) | (subst x))
    | split

theorem execRetrainingEnd_fr (n : Nat) (ok : Bool) (s : State) (hs : Fr V M s0 s) (key0 : V (CRH.CLK_STATUS)) (key1 : V (DMC.CONFIG n)) (key2 : V (DMC.EVFLAGS n)) (key3 : V (DMC.STATE n)) :
    FrOut V M s0 (execRetrainingEnd n ok s) := by
  unfold execRetrainingEnd
  repeat' first
    | with_reducible intro _
    | with_reducible assumption
    | with_reducible apply key0
    | with_reducible apply key1
    | with_reducible apply key2
    | with_reducible apply key3
    | with_reducible apply setRate_fr
    | with_reducible apply dmcFail_fr
    | with_reducible apply dmcEnter_fr
    | with_reducible apply modDmc_fr
    | simp only [↓fr_mk_iff]
    | with_reducible apply fr_ite
    | with_reducible apply frOut_next
    | with_reducible apply frOut_fault
    | with_reducible apply frOut_ite
    | with_reducible apply unitCmd_fr
    | (extract_lets x; first | (with_reducible refine fr_cut (s := x) ?_ ?_; (on_goal 2 => clear_value x); (on_goal 1 => unfold x)) | (subst x))
    | split

theorem execDimmTempRead_fr (n temp : Nat) (s : State) (hs : Fr V M s0 s) (key0 : V (DMC.EVFLAGS n)) :
    FrOut V M s0 (execDimmTempRead n temp s) := by
  unfold execDimmTempRead
  repeat' first
    | with_reducible intro _
    | with_reducible assumption
    | with_reducible apply key0
    | with_reducible apply dmcFlag_fr
    | with_reducible apply modDmc_fr
    | simp only [↓fr_mk_iff]
    | with_reducible apply fr_ite
    | with_reducible apply frOut_next
    | with_reducible apply frOut_fault
    | with_reducible apply frOut_ite
    | with_reducible apply unitCmd_fr
    | (extract_lets x; first | (with_reducible refine fr_cut (s := x) ?_ ?_; (on_goal 2 => clear_value x); (on_goal 1 => unfold x)) | (subst x))
    | split

theorem execDdrPllLock_fr (n : Nat) (s : State) (hs : Fr V M s0 s) (key0 : V (CRH.CLK_STATUS)) (key1 : V (CRH.EVFLAGS)) :
    FrOut V M s0 (execDdrPllLock n s) := by
  unfold execDdrPllLock
  repeat' first
    | with_reducible intro _
    | with_reducible assumption
    | with_reducible apply key0
    | with_reducible apply key1
    | with_reducible apply ddrLock_fr
    | with_reducible apply crhFlag_fr
    | with_reducible apply modDmc_fr
    | simp only [↓fr_mk_iff]
    | with_reducible apply fr_ite
    | with_reducible apply frOut_next
    | with_reducible apply frOut_fault
    | with_reducible apply frOut_ite
    | with_reducible apply unitCmd_fr
    | (extract_lets x; first | (with_reducible refine fr_cut (s := x) ?_ ?_; (on_goal 2 => clear_value x); (on_goal 1 => unfold x)) | (subst x))
    | split

theorem excludeNamed_fr (s : State) (hs : Fr V M s0 s) (key0 : V (CRH.CLK_STATUS)) (key1 : ∀ u0, V (DMC.CONFIG u0)) (key2 : ∀ u0, V (DMC.EVFLAGS u0)) (key3 : ∀ u0, V (DMC.STATE u0)) :
    Fr V M s0 (excludeNamed s) := by
  unfold excludeNamed
  repeat' first
    | with_reducible intro _
    | with_reducible assumption
    | with_reducible apply key1
    | with_reducible apply key2
    | with_reducible apply key3
    | with_reducible apply ddrLock_fr
    | with_reducible apply wr_fr
    | with_reducible apply dmcFlag_fr
    | with_reducible apply fr_ite
    | with_reducible apply fr_foldl
    | (extract_lets x; first | (with_reducible refine fr_cut (s := x) ?_ ?_; (on_goal 2 => clear_value x); (on_goal 1 => unfold x)) | (subst x))
    | split

theorem formMap_fr (s : State) (hs : Fr V M s0 s) (key0 : V (CRH.CLK_STATUS)) (key1 : ∀ u0, V (DMC.CONFIG u0)) (key2 : ∀ u0, V (DMC.EVFLAGS u0)) (key3 : V (DMC.INSTALLED)) (key4 : V (DMC.MAP_STATE)) (key5 : V (DMC.RANK_BYTES)) (key6 : ∀ u0, V (DMC.STATE u0)) (key7 : V (DMC.WAYS)) :
    Fr V M s0 (formMap s) := by
  unfold formMap
  repeat' first
    | with_reducible intro _
    | with_reducible assumption
    | with_reducible apply key0
    | with_reducible apply key1
    | with_reducible apply key2
    | with_reducible apply key3
    | with_reducible apply key4
    | with_reducible apply key5
    | with_reducible apply key6
    | with_reducible apply key7
    | with_reducible apply excludeNamed_fr
    | with_reducible apply wr_fr
    | simp only [↓fr_mk_iff]
    | with_reducible apply fr_ite
    | (extract_lets x; first | (with_reducible refine fr_cut (s := x) ?_ ?_; (on_goal 2 => clear_value x); (on_goal 1 => unfold x)) | (subst x))
    | split

theorem execMapForm_fr (s : State) (hs : Fr V M s0 s) (key0 : V (CRH.CLK_STATUS)) (key1 : ∀ u0, V (DMC.CONFIG u0)) (key2 : ∀ u0, V (DMC.EVFLAGS u0)) (key3 : V (DMC.INSTALLED)) (key4 : V (DMC.MAP_STATE)) (key5 : V (DMC.RANK_BYTES)) (key6 : ∀ u0, V (DMC.STATE u0)) (key7 : V (DMC.WAYS)) :
    FrOut V M s0 (execMapForm s) := by
  unfold execMapForm
  repeat' first
    | with_reducible intro _
    | with_reducible assumption
    | with_reducible apply key1
    | with_reducible apply key2
    | with_reducible apply key6
    | with_reducible apply formMap_fr
    | with_reducible apply frOut_next
    | with_reducible apply frOut_fault
    | with_reducible apply frOut_ite
    | with_reducible apply fr_ite
    | split

theorem excludeEff_fr (v : Nat) (s : State) (hs : Fr V M s0 s) (key0 : V (CRH.CLK_STATUS)) (key1 : ∀ u0, V (DMC.CONFIG u0)) (key2 : ∀ u0, V (DMC.EVFLAGS u0)) (key3 : V (DMC.EXCLUDE)) (key4 : V (DMC.INSTALLED)) (key5 : V (DMC.MAP_STATE)) (key6 : V (DMC.RANK_BYTES)) (key7 : ∀ u0, V (DMC.STATE u0)) (key8 : V (DMC.WAYS)) (key9 : V (HDI.APPLY_OUTCOME)) (key10 : V (HDI.MIRROR_STATE)) (key11 : ∀ u0, V (VEN.STATE u0)) :
    Fr V M s0 (excludeEff v s) := by
  unfold excludeEff
  repeat' first
    | with_reducible intro _
    | with_reducible assumption
    | with_reducible apply key0
    | with_reducible apply key1
    | with_reducible apply key2
    | with_reducible apply key3
    | with_reducible apply key4
    | with_reducible apply key5
    | with_reducible apply key6
    | with_reducible apply key7
    | with_reducible apply key8
    | with_reducible apply key9
    | with_reducible apply key10
    | with_reducible apply key11
    | with_reducible apply formMap_fr
    | with_reducible apply dmcChanged_fr
    | with_reducible apply wr_fr
    | simp only [↓fr_mk_iff]
    | with_reducible apply fr_ite
    | (extract_lets x; first | (with_reducible refine fr_cut (s := x) ?_ ?_; (on_goal 2 => clear_value x); (on_goal 1 => unfold x)) | (subst x))
    | split

theorem execExcludeWrite_fr (q : Req) (v : Nat) (s : State) (hs : Fr V M s0 s) (key0 : V (CRH.CLK_STATUS)) (key1 : ∀ u0, V (DMC.CONFIG u0)) (key2 : ∀ u0, V (DMC.EVFLAGS u0)) (key3 : V (DMC.EXCLUDE)) (key4 : V (DMC.INSTALLED)) (key5 : V (DMC.MAP_STATE)) (key6 : V (DMC.RANK_BYTES)) (key7 : ∀ u0, V (DMC.STATE u0)) (key8 : V (DMC.WAYS)) (key9 : ∀ u0, V (HDI.STATS u0)) (key10 : V (HDI.APPLY_OUTCOME)) (key11 : V (HDI.MIRROR_STATE)) (key12 : ∀ u0, V (VEN.STATE u0)) :
    FrOut V M s0 (execExcludeWrite q v s) := by
  unfold execExcludeWrite
  repeat' first
    | with_reducible intro _
    | with_reducible assumption
    | with_reducible apply key0
    | with_reducible apply key1
    | with_reducible apply key2
    | with_reducible apply key3
    | with_reducible apply key4
    | with_reducible apply key5
    | with_reducible apply key6
    | with_reducible apply key7
    | with_reducible apply key8
    | with_reducible apply key9
    | with_reducible apply key10
    | with_reducible apply key11
    | with_reducible apply key12
    | with_reducible apply excludeEff_fr
    | with_reducible apply writeTo_fr
    | simp only [↓fr_mk_iff]
    | with_reducible apply fr_ite
    | with_reducible apply frOut_next
    | with_reducible apply frOut_fault
    | with_reducible apply frOut_ite
    | with_reducible apply unitCmd_fr
    | (extract_lets x; first | (with_reducible refine fr_cut (s := x) ?_ ?_; (on_goal 2 => clear_value x); (on_goal 1 => unfold x)) | (subst x))
    | split

theorem execRetainWrite_fr (q : Req) (v : Nat) (s : State) (hs : Fr V M s0 s) (key0 : V (DMC.RETAIN)) (key1 : ∀ u0, V (HDI.STATS u0)) :
    FrOut V M s0 (execRetainWrite q v s) := by
  unfold execRetainWrite
  repeat' first
    | with_reducible intro _
    | with_reducible assumption
    | with_reducible apply key1
    | with_reducible apply writeTo_fr
    | with_reducible apply wr_fr
    | with_reducible apply frOut_next
    | with_reducible apply frOut_fault

theorem acceptReq_fr (n : Nat) (r : MeshReq) (s : State) (hs : Fr V M s0 s) (key0 : V (DMC.ACCEPTED n r.cls)) (key1 : V (DMC.COMBINED n)) (key2 : V (DMC.ERRORS n r.cls)) (key3 : V (DMC.EVFLAGS n)) (key4 : V (DMC.RETAIN_TOUCH n)) :
    Fr V M s0 (acceptReq n r s) := by
  unfold acceptReq
  repeat' first
    | with_reducible intro _
    | with_reducible assumption
    | with_reducible apply key0
    | with_reducible apply key1
    | with_reducible apply key2
    | with_reducible apply key3
    | with_reducible apply key4
    | with_reducible apply dmcFlag_fr
    | with_reducible apply meshAnswer_fr
    | with_reducible apply modDmc_fr
    | with_reducible apply bump_fr
    | simp only [↓fr_mk_iff]
    | with_reducible apply fr_ite
    | (extract_lets x; first | (with_reducible refine fr_cut (s := x) ?_ ?_; (on_goal 2 => clear_value x); (on_goal 1 => unfold x)) | (subst x))
    | split

theorem execDmcAccept_fr (n : Nat) (s : State) (hs : Fr V M s0 s) (key0 : ∀ u1, V (DMC.ACCEPTED n u1)) (key1 : V (DMC.COMBINED n)) (key2 : ∀ u1, V (DMC.ERRORS n u1)) (key3 : V (DMC.EVFLAGS n)) (key4 : V (DMC.RETAIN_TOUCH n)) :
    FrOut V M s0 (execDmcAccept n s) := by
  unfold execDmcAccept
  repeat' first
    | with_reducible intro _
    | with_reducible assumption
    | with_reducible apply key0
    | with_reducible apply key1
    | with_reducible apply key2
    | with_reducible apply key3
    | with_reducible apply key4
    | with_reducible apply acceptReq_fr
    | with_reducible apply upto_fr
    | simp only [↓fr_mk_iff]
    | with_reducible apply fr_foldl
    | with_reducible apply fr_foldl_snd
    | with_reducible apply fr_ite
    | with_reducible apply frOut_next
    | with_reducible apply frOut_fault
    | with_reducible apply frOut_ite
    | with_reducible apply unitCmd_fr
    | (extract_lets x; first | (with_reducible refine fr_cut (s := x) ?_ ?_; (on_goal 2 => clear_value x); (on_goal 1 => unfold x)) | (subst x))
    | split

theorem throttle_fr (n src cls t : Nat) (s : State) (hs : Fr V M s0 s) (key0 : V (DMC.EVFLAGS n)) :
    Fr V M s0 (throttle n src cls t s) := by
  unfold throttle
  repeat' first
    | with_reducible intro _
    | with_reducible assumption
    | with_reducible apply key0
    | with_reducible apply dmcFlag_fr
    | with_reducible apply modDmc_fr
    | simp only [↓fr_mk_iff]
    | with_reducible apply fr_ite
    | (extract_lets x; first | (with_reducible refine fr_cut (s := x) ?_ ?_; (on_goal 2 => clear_value x); (on_goal 1 => unfold x)) | (subst x))
    | split

theorem rfmIssue_fr (n bank : Nat) (s : State) (hs : Fr V M s0 s) :
    Fr V M s0 (rfmIssue n bank s) := by
  unfold rfmIssue
  repeat' first
    | with_reducible intro _
    | with_reducible assumption
    | with_reducible apply modDmc_fr
    | with_reducible apply drawn_fr
    | simp only [↓fr_mk_iff]
    | with_reducible apply fr_ite
    | (extract_lets x; first | (with_reducible refine fr_cut (s := x) ?_ ?_; (on_goal 2 => clear_value x); (on_goal 1 => unfold x)) | (subst x))
    | split

theorem countRow_fr (n row t : Nat) (r : Option MeshReq) (bank : Nat) (s : State) (hs : Fr V M s0 s) (key0 : V (DMC.EVFLAGS n)) (key1 : V (DMC.RH_EVENTS n)) :
    Fr V M s0 (countRow n row t r bank s) := by
  unfold countRow
  repeat' first
    | with_reducible intro _
    | with_reducible assumption
    | with_reducible apply key0
    | with_reducible apply key1
    | with_reducible apply rfmIssue_fr
    | with_reducible apply throttle_fr
    | with_reducible apply modDmc_fr
    | with_reducible apply bump_fr
    | simp only [↓fr_mk_iff]
    | with_reducible apply fr_ite
    | (extract_lets x; first | (with_reducible refine fr_cut (s := x) ?_ ?_; (on_goal 2 => clear_value x); (on_goal 1 => unfold x)) | (subst x))
    | split

theorem activate_fr (n b row t cycle : Nat) (r : Option MeshReq) (s : State) (hs : Fr V M s0 s) (key0 : V (DMC.EVFLAGS n)) (key1 : V (DMC.RH_EVENTS n)) :
    Fr V M s0 (activate n b row t cycle r s) := by
  unfold activate
  repeat' first
    | with_reducible intro _
    | with_reducible assumption
    | with_reducible apply key0
    | with_reducible apply key1
    | with_reducible apply countRow_fr
    | with_reducible apply modDmc_fr
    | simp only [↓fr_mk_iff]
    | with_reducible apply fr_ite
    | (extract_lets x; first | (with_reducible refine fr_cut (s := x) ?_ ?_; (on_goal 2 => clear_value x); (on_goal 1 => unfold x)) | (subst x))
    | split

theorem issueAccess_fr (n : Nat) (x : Access) (t : Nat) (s : State) (hs : Fr V M s0 s) (key0 : V (DMC.EVFLAGS n)) (key1 : V (DMC.RH_EVENTS n)) :
    Fr V M s0 (issueAccess n x t s) := by
  unfold issueAccess
  repeat' first
    | with_reducible intro _
    | with_reducible assumption
    | with_reducible apply key0
    | with_reducible apply key1
    | with_reducible apply activate_fr
    | with_reducible apply modDmc_fr
    | simp only [↓fr_mk_iff]
    | with_reducible apply fr_ite
    | (extract_lets x; first | (with_reducible refine fr_cut (s := x) ?_ ?_; (on_goal 2 => clear_value x); (on_goal 1 => unfold x)) | (subst x))
    | split

theorem issuePatrol_fr (n : Nat) (p : Patrol) (t : Nat) (s : State) (hs : Fr V M s0 s) (key0 : V (DMC.EVFLAGS n)) (key1 : V (DMC.RH_EVENTS n)) :
    Fr V M s0 (issuePatrol n p t s) := by
  unfold issuePatrol
  repeat' first
    | with_reducible intro _
    | with_reducible assumption
    | with_reducible apply key0
    | with_reducible apply key1
    | with_reducible apply activate_fr
    | with_reducible apply modDmc_fr
    | simp only [↓fr_mk_iff]
    | with_reducible apply fr_ite
    | (extract_lets x; first | (with_reducible refine fr_cut (s := x) ?_ ?_; (on_goal 2 => clear_value x); (on_goal 1 => unfold x)) | (subst x))
    | split

theorem execDmcAccessIssue_fr (n : Nat) (s : State) (hs : Fr V M s0 s) (key0 : V (DMC.EVFLAGS n)) (key1 : V (DMC.RH_EVENTS n)) :
    FrOut V M s0 (execDmcAccessIssue n s) := by
  unfold execDmcAccessIssue
  repeat' first
    | with_reducible intro _
    | with_reducible assumption
    | with_reducible apply key0
    | with_reducible apply key1
    | with_reducible apply issuePatrol_fr
    | with_reducible apply issueAccess_fr
    | with_reducible apply modDmc_fr
    | with_reducible apply upto_fr
    | simp only [↓fr_mk_iff]
    | with_reducible apply fr_foldl
    | with_reducible apply fr_foldl_snd
    | with_reducible apply fr_ite
    | with_reducible apply frOut_next
    | with_reducible apply frOut_fault
    | with_reducible apply frOut_ite
    | with_reducible apply unitCmd_fr
    | (extract_lets x; first | (with_reducible refine fr_cut (s := x) ?_ ?_; (on_goal 2 => clear_value x); (on_goal 1 => unfold x)) | (subst x))
    | split

theorem finishReq_fr (n : Nat) (bad : Bool) (data : Nat) (s : State) (x : Trk) (hs : Fr V M s0 s) (key0 : ∀ u1, V (DMC.DONE n u1)) (key1 : ∀ u1, V (DMC.ERRORS n u1)) (key2 : V (DMC.EVFLAGS n)) (key3 : V (DMC.LATE n)) :
    Fr V M s0 (finishReq n bad data s x) := by
  unfold finishReq
  repeat' first
    | with_reducible intro _
    | with_reducible assumption
    | with_reducible apply key0
    | with_reducible apply key1
    | with_reducible apply bump_fr
    | with_reducible apply dmcFlag_fr
    | with_reducible apply meshAnswer_fr
    | with_reducible apply fr_ite
    | (extract_lets x; first | (with_reducible refine fr_cut (s := x) ?_ ?_; (on_goal 2 => clear_value x); (on_goal 1 => unfold x)) | (subst x))
    | split

theorem applyBurst_fr (r : MeshReq) (s : State) (b : Nat) (hs : Fr V M s0 s) (key0 : M) : Fr V M s0 (applyBurst r s b) := by
  unfold applyBurst
  dsimp only
  split
  · exact hs
  · exact store_fr _ _ _ _ hs
  · exact fr_mem (by assumption) hs rfl

theorem burstCorrected_fr (n : Nat) (s : State) (hs : Fr V M s0 s) (key0 : V (DMC.CE n)) (key1 : V (DMC.EVFLAGS n)) :
    Fr V M s0 (burstCorrected n s) := by
  unfold burstCorrected
  repeat' first
    | with_reducible intro _
    | with_reducible assumption
    | with_reducible apply dmcFlag_fr
    | with_reducible apply bump_fr

theorem burstLost_fr (n a : Nat) (s : State) (hs : Fr V M s0 s) (key0 : V (DMC.EVFLAGS n)) (key1 : V (DMC.UE n)) (key2 : V (DMC.UE_ADDR n)) :
    Fr V M s0 (burstLost n a s) := by
  unfold burstLost
  repeat' first
    | with_reducible intro _
    | with_reducible assumption
    | with_reducible apply dmcFlag_fr
    | with_reducible apply bump_fr
    | with_reducible apply wr_fr

theorem checkBurst_fr (n a : Nat) (e : Ecc) (s : State) (hs : Fr V M s0 s) (key0 : V (DMC.CE n) := by first | assumption | simp only [*]) (key1 : V (DMC.EVFLAGS n) := by first | assumption | simp only [*]) (key2 : V (DMC.UE n) := by first | assumption | simp only [*]) (key3 : V (DMC.UE_ADDR n) := by first | assumption | simp only [*]) (key4 : M := by first | assumption | simp only [*]) :
    Fr V M s0 (checkBurst n a e s).1 := by
  unfold checkBurst
  repeat' first
    | with_reducible intro _
    | with_reducible assumption
    | with_reducible apply burstCorrected_fr
    | with_reducible apply burstLost_fr
    | with_reducible apply drawn_fr
    | with_reducible apply store_fr
    | with_reducible apply fr_ite
    | split

theorem checkBursts_fr (key0 : ∀ u0, V (DMC.CE u0)) (key1 : ∀ u0, V (DMC.EVFLAGS u0)) (key2 : ∀ u0, V (DMC.UE u0)) (key3 : ∀ u0, V (DMC.UE_ADDR u0)) (key4 : M) (n : Nat) : ∀ (z0 : List Nat) (z1 : List Ecc) (z2 : State), Fr V M s0 z2 →
    Fr V M s0 (checkBursts n z0 z1 z2).1
  | b :: bs, e :: es, s, h => by
    unfold checkBursts
    exact checkBursts_fr key0 key1 key2 key3 key4 n bs es _ (checkBurst_fr n _ e s h)
  | [], _, _, h => by unfold checkBursts; exact h
  | _ :: _, [], _, h => by unfold checkBursts; exact h

theorem completeAccess_fr (n : Nat) (x : Access) (e : List Ecc) (s : State) (hs : Fr V M s0 s) (key0 : ∀ u0, V (DMC.CE u0)) (key1 : ∀ u1, V (DMC.DONE n u1)) (key2 : ∀ u1, V (DMC.ERRORS n u1)) (key3 : ∀ u0, V (DMC.EVFLAGS u0)) (key4 : V (DMC.LATE n)) (key5 : ∀ u0, V (DMC.UE u0)) (key6 : ∀ u0, V (DMC.UE_ADDR u0)) (key7 : M) :
    Fr V M s0 (completeAccess n x e s) := by
  unfold completeAccess
  repeat' first
    | with_reducible intro _
    | with_reducible assumption
    | with_reducible apply key0
    | with_reducible apply key1
    | with_reducible apply key2
    | with_reducible apply key3
    | with_reducible apply key4
    | with_reducible apply key5
    | with_reducible apply key6
    | with_reducible apply key7
    | with_reducible apply checkBursts_fr
    | with_reducible apply applyBurst_fr
    | with_reducible apply finishReq_fr
    | with_reducible apply modDmc_fr
    | simp only [↓fr_mk_iff]
    | with_reducible apply fr_foldl
    | with_reducible apply fr_foldl_snd
    | with_reducible apply fr_ite
    | (extract_lets x; first | (with_reducible refine fr_cut (s := x) ?_ ?_; (on_goal 2 => clear_value x); (on_goal 1 => unfold x)) | (subst x))
    | split

theorem completePatrol_fr (n : Nat) (p : Patrol) (s : State) (hs : Fr V M s0 s) (key0 : V (DMC.CE n)) (key1 : V (DMC.EVFLAGS n)) (key2 : V (DMC.UE n)) (key3 : V (DMC.UE_ADDR n)) (key4 : M) :
    Fr V M s0 (completePatrol n p s) := by
  unfold completePatrol
  repeat' first
    | with_reducible intro _
    | with_reducible assumption
    | with_reducible apply key0
    | with_reducible apply key1
    | with_reducible apply key2
    | with_reducible apply key3
    | with_reducible apply key4
    | with_reducible apply checkBurst_fr
    | with_reducible apply modDmc_fr
    | simp only [↓fr_mk_iff]
    | with_reducible apply fr_ite
    | (extract_lets x; first | (with_reducible refine fr_cut (s := x) ?_ ?_; (on_goal 2 => clear_value x); (on_goal 1 => unfold x)) | (subst x))
    | split

theorem execDmcAccessComplete_fr (n : Nat) (ecc : List Ecc) (s : State) (hs : Fr V M s0 s) (key0 : ∀ u0, V (DMC.CE u0)) (key1 : ∀ u1, V (DMC.DONE n u1)) (key2 : ∀ u1, V (DMC.ERRORS n u1)) (key3 : ∀ u0, V (DMC.EVFLAGS u0)) (key4 : V (DMC.LATE n)) (key5 : ∀ u0, V (DMC.UE u0)) (key6 : ∀ u0, V (DMC.UE_ADDR u0)) (key7 : M) :
    FrOut V M s0 (execDmcAccessComplete n ecc s) := by
  unfold execDmcAccessComplete
  repeat' first
    | with_reducible intro _
    | with_reducible assumption
    | with_reducible apply key0
    | with_reducible apply key1
    | with_reducible apply key2
    | with_reducible apply key3
    | with_reducible apply key4
    | with_reducible apply key5
    | with_reducible apply key6
    | with_reducible apply key7
    | with_reducible apply completePatrol_fr
    | with_reducible apply completeAccess_fr
    | with_reducible apply upto_fr
    | simp only [↓fr_mk_iff]
    | with_reducible apply fr_ite
    | with_reducible apply frOut_next
    | with_reducible apply frOut_fault
    | with_reducible apply frOut_ite
    | with_reducible apply unitCmd_fr
    | (extract_lets x; first | (with_reducible refine fr_cut (s := x) ?_ ?_; (on_goal 2 => clear_value x); (on_goal 1 => unfold x)) | (subst x))
    | split

theorem execAgePromotion_fr (n : Nat) (s : State) (hs : Fr V M s0 s) (key0 : V (DMC.PROMOTED n)) :
    FrOut V M s0 (execAgePromotion n s) := by
  unfold execAgePromotion
  repeat' first
    | with_reducible intro _
    | with_reducible assumption
    | with_reducible apply key0
    | with_reducible apply modDmc_fr
    | with_reducible apply upto_fr
    | with_reducible apply bump_fr
    | simp only [↓fr_mk_iff]
    | with_reducible apply fr_foldl
    | with_reducible apply fr_foldl_snd
    | with_reducible apply fr_ite
    | with_reducible apply frOut_next
    | with_reducible apply frOut_fault
    | with_reducible apply frOut_ite
    | with_reducible apply unitCmd_fr
    | (extract_lets x; first | (with_reducible refine fr_cut (s := x) ?_ ?_; (on_goal 2 => clear_value x); (on_goal 1 => unfold x)) | (subst x))
    | split

theorem execThrottleEnd_fr (n : Nat) (s : State) (hs : Fr V M s0 s) :
    FrOut V M s0 (execThrottleEnd n s) := by
  unfold execThrottleEnd
  repeat' first
    | with_reducible intro _
    | with_reducible assumption
    | with_reducible apply unitCmd_fr
    | with_reducible apply upto_fr
    | with_reducible apply modDmc_fr
    | with_reducible apply frOut_next
    | with_reducible apply frOut_fault
    | with_reducible apply frOut_ite
    | simp only [↓fr_mk_iff]
    | with_reducible apply fr_ite
    | with_reducible apply fr_foldl
    | (extract_lets x; first | (with_reducible refine fr_cut (s := x) ?_ ?_; (on_goal 2 => clear_value x); (on_goal 1 => unfold x)) | (subst x))
    | split

theorem execRowTableClear_fr (n : Nat) (s : State) (hs : Fr V M s0 s) :
    FrOut V M s0 (execRowTableClear n s) := by
  unfold execRowTableClear
  repeat' first
    | with_reducible intro _
    | with_reducible assumption
    | with_reducible apply unitCmd_fr
    | with_reducible apply upto_fr
    | with_reducible apply modDmc_fr
    | with_reducible apply frOut_next
    | with_reducible apply frOut_fault
    | simp only [↓fr_mk_iff]

theorem execRefresh_fr (n : Nat) (s : State) (hs : Fr V M s0 s) :
    FrOut V M s0 (execRefresh n s) := by
  unfold execRefresh
  repeat' first
    | with_reducible intro _
    | with_reducible assumption
    | with_reducible apply unitCmd_fr
    | with_reducible apply modDmc_fr
    | with_reducible apply frOut_next
    | with_reducible apply frOut_fault
    | with_reducible apply frOut_ite
    | simp only [↓fr_mk_iff]
    | with_reducible apply fr_ite
    | split

set_option Elab.async false in
theorem execPatrolScrub_fr (n : Nat) (ecc : Ecc) (s : State) (hs : Fr V M s0 s) (key0 : V (DMC.CE n)) (key1 : V (DMC.EVFLAGS n)) (key2 : V (DMC.UE n)) (key3 : V (DMC.UE_ADDR n)) (key4 : M) :
    FrOut V M s0 (execPatrolScrub n ecc s) := by
  unfold execPatrolScrub
  repeat' first
    | with_reducible intro _
    | with_reducible assumption
    | with_reducible apply key0
    | with_reducible apply key1
    | with_reducible apply key2
    | with_reducible apply key3
    | with_reducible apply key4
    | with_reducible apply modDmc_fr
    | simp only [↓fr_mk_iff]
    | with_reducible apply fr_ite
    | with_reducible apply frOut_next
    | with_reducible apply frOut_fault
    | with_reducible apply frOut_ite
    | with_reducible apply unitCmd_fr
    | (extract_lets x; first | (with_reducible refine fr_cut (s := x) ?_ ?_; (on_goal 2 => clear_value x); (on_goal 1 => unfold x)) | (subst x))
    | split

end Sys2Proof.Laws
end

