-- ==== Sys2Proof/Laws/FrameTime.lean ====
section
/-! SUPPORT. Which members every operation of Machine/Time.lean can change, and whether it can change the memory. -/
namespace Sys2Proof.Laws
open Sys2Proof Sys2Proof.Machine
set_option linter.unusedVariables false
set_option linter.unusedTactic false
set_option linter.unreachableTactic false

variable {V : Nat → Prop} {M : Prop} {s0 : State}

theorem tmuFlag_fr (b : Nat) (s : State) (hs : Fr V M s0 s) (key0 : V (TMU.EVFLAGS)) :
    Fr V M s0 (tmuFlag b s) := by
  unfold tmuFlag
  repeat' first
    | with_reducible intro _
    | with_reducible assumption
    | with_reducible apply flag_fr

theorem clockMove_fr (base : Nat) (stepped : Bool) (s : State) (hs : Fr V M s0 s) :
    Fr V M s0 (clockMove base stepped s) := by
  unfold clockMove
  repeat' first
    | with_reducible intro _
    | with_reducible assumption
    | simp only [↓fr_mk_iff]
    | with_reducible apply fr_ite
    | (extract_lets x; first | (with_reducible refine fr_cut (s := x) ?_ ?_; (on_goal 2 => clear_value x); (on_goal 1 => unfold x)) | (subst x))
    | split

theorem setIncr_fr (v : Nat) (s : State) (hs : Fr V M s0 s) (key0 : V (TMU.INCR) := by first | assumption | simp only [*]) :
    Fr V M s0 (setIncr v s) := by
  unfold setIncr
  repeat' first
    | with_reducible intro _
    | with_reducible assumption
    | with_reducible apply clockMove_fr
    | with_reducible apply wr_fr

theorem stepTo_fr (base : Nat) (s : State) (hs : Fr V M s0 s) (key0 : V (TMU.EVFLAGS) := by first | assumption | simp only [*]) (key1 : V (TMU.STEPS) := by first | assumption | simp only [*]) :
    Fr V M s0 (stepTo base s) := by
  unfold stepTo
  repeat' first
    | with_reducible intro _
    | with_reducible assumption
    | with_reducible apply tmuFlag_fr
    | with_reducible apply clockMove_fr
    | with_reducible apply bump_fr

theorem stepBy_fr (d : Int) (s : State) (hs : Fr V M s0 s) (key0 : V (TMU.EVFLAGS)) (key1 : V (TMU.STEPS)) :
    Fr V M s0 (stepBy d s) := by
  unfold stepBy
  repeat' first
    | with_reducible intro _
    | with_reducible assumption
    | with_reducible apply stepTo_fr

theorem stepRefused_fr (s : State) (hs : Fr V M s0 s) (key0 : V (TMU.EVFLAGS)) (key1 : V (TMU.STEPS_REFUSED)) :
    Fr V M s0 (stepRefused s) := by
  unfold stepRefused
  repeat' first
    | with_reducible intro _
    | with_reducible assumption
    | with_reducible apply tmuFlag_fr
    | with_reducible apply bump_fr

theorem setValid_fr (v : Bool) (s : State) (hs : Fr V M s0 s) (key0 : V (HDI.STATUS)) (key1 : V (TMU.STATUS)) :
    Fr V M s0 (setValid v s) := by
  unfold setValid
  repeat' first
    | with_reducible intro _
    | with_reducible assumption
    | with_reducible apply setBit_fr

theorem validRise_fr (s : State) (hs : Fr V M s0 s) (key0 : V (HDI.STATUS)) (key1 : V (TMU.EVFLAGS)) (key2 : V (TMU.STATUS)) :
    Fr V M s0 (validRise s) := by
  unfold validRise
  repeat' first
    | with_reducible intro _
    | with_reducible assumption
    | with_reducible apply tmuFlag_fr
    | with_reducible apply setValid_fr
    | with_reducible apply fr_ite
    | split

theorem dropVeStart_fr (n : Nat) (s : State) (hs : Fr V M s0 s) (key0 : V (HDI.APPLY_OUTCOME)) (key1 : V (HDI.MIRROR_STATE)) (key2 : V (VEN.FLAGS n)) (key3 : ∀ u0, V (VEN.STATE u0)) :
    Fr V M s0 (dropVeStart n s) := by
  unfold dropVeStart
  repeat' first
    | with_reducible intro _
    | with_reducible assumption
    | with_reducible apply key3
    | with_reducible apply veStopEff_fr
    | with_reducible apply raise_fr
    | with_reducible apply fr_ite
    | split

theorem dropDspStart_fr (n : Nat) (s : State) (hs : Fr V M s0 s) (key0 : V (DSP.STATE n)) :
    Fr V M s0 (dropDspStart n s) := by
  unfold dropDspStart
  repeat' first
    | with_reducible intro _
    | with_reducible assumption
    | with_reducible apply schedFree_fr
    | with_reducible apply wr_fr
    | with_reducible apply modDsp_fr
    | with_reducible apply raise_fr
    | simp only [↓fr_mk_iff]
    | with_reducible apply fr_ite
    | split

theorem dropAperture_fr (a : Nat) (s : State) (hs : Fr V M s0 s) (key0 : V (TMU.AP_STATE a)) :
    Fr V M s0 (dropAperture a s) := by
  unfold dropAperture
  repeat' first
    | with_reducible intro _
    | with_reducible assumption
    | with_reducible apply wr_fr
    | with_reducible apply fr_ite
    | split

theorem dropTrigger_fr (t : Nat) (s : State) (hs : Fr V M s0 s) (key0 : V (TMU.EVFLAGS)) (key1 : V (TMU.TRG_STATE t)) :
    Fr V M s0 (dropTrigger t s) := by
  unfold dropTrigger
  repeat' first
    | with_reducible intro _
    | with_reducible assumption
    | with_reducible apply key0
    | with_reducible apply key1
    | with_reducible apply tmuFlag_fr
    | with_reducible apply modTrg_fr
    | with_reducible apply wr_fr
    | simp only [↓fr_mk_iff]
    | with_reducible apply fr_ite
    | (extract_lets x; first | (with_reducible refine fr_cut (s := x) ?_ ?_; (on_goal 2 => clear_value x); (on_goal 1 => unfold x)) | (subst x))
    | split

theorem dropTimedApply_fr (s : State) (hs : Fr V M s0 s) (key0 : V (HDI.APPLY_OUTCOME)) (key1 : V (HDI.MIRROR_STATE)) (key2 : ∀ u0, V (VEN.STATE u0)) :
    Fr V M s0 (dropTimedApply s) := by
  unfold dropTimedApply
  repeat' first
    | with_reducible intro _
    | with_reducible assumption
    | with_reducible apply key2
    | with_reducible apply disarmTo_fr
    | with_reducible apply wr_fr
    | with_reducible apply raise_fr
    | with_reducible apply fr_ite
    | split

theorem validFall_fr (s : State) (hs : Fr V M s0 s) (key0 : ∀ u0, V (DSP.STATE u0)) (key1 : V (HDI.APPLY_OUTCOME)) (key2 : V (HDI.MIRROR_STATE)) (key3 : V (HDI.STATUS)) (key4 : ∀ u0, V (TMU.AP_STATE u0)) (key5 : V (TMU.EVFLAGS)) (key6 : V (TMU.STATUS)) (key7 : ∀ u0, V (TMU.TRG_STATE u0)) (key8 : ∀ u0, V (VEN.FLAGS u0)) (key9 : ∀ u0, V (VEN.STATE u0)) :
    Fr V M s0 (validFall s) := by
  unfold validFall
  repeat' first
    | with_reducible intro _
    | with_reducible assumption
    | with_reducible apply key0
    | with_reducible apply key4
    | with_reducible apply key7
    | with_reducible apply key8
    | with_reducible apply key9
    | with_reducible apply dropTimedApply_fr
    | with_reducible apply tmuFlag_fr
    | with_reducible apply setValid_fr
    | with_reducible apply dropDspStart_fr
    | with_reducible apply dropVeStart_fr
    | with_reducible apply dropTrigger_fr
    | with_reducible apply dropAperture_fr
    | with_reducible apply fr_ite
    | with_reducible apply fr_foldl
    | (extract_lets x; first | (with_reducible refine fr_cut (s := x) ?_ ?_; (on_goal 2 => clear_value x); (on_goal 1 => unfold x)) | (subst x))
    | split

set_option Elab.async false in
theorem holdover_fr (s : State) (hs : Fr V M s0 s) (key0 : ∀ u0, V (DSP.STATE u0)) (key1 : V (HDI.APPLY_OUTCOME)) (key2 : V (HDI.MIRROR_STATE)) (key3 : V (HDI.STATUS)) (key4 : ∀ u0, V (TMU.AP_STATE u0)) (key5 : V (TMU.EVFLAGS)) (key6 : V (TMU.STATUS)) (key7 : ∀ u0, V (TMU.TRG_STATE u0)) (key8 : ∀ u0, V (VEN.FLAGS u0)) (key9 : ∀ u0, V (VEN.STATE u0)) :
    Fr V M s0 (holdover s) := by
  unfold holdover
  repeat' first
    | with_reducible intro _
    | with_reducible assumption
    | with_reducible apply key0
    | with_reducible apply key4
    | with_reducible apply key7
    | with_reducible apply key8
    | with_reducible apply key9
    | with_reducible apply tmuFlag_fr
    | with_reducible apply validFall_fr
    | with_reducible apply setBit_fr
    | with_reducible apply modTmu_fr
    | simp only [↓fr_mk_iff]
    | with_reducible apply fr_ite
    | split

end Sys2Proof.Laws
end

