-- ==== Sys2Proof/Laws/FrameLnk.lean ====
section
/-! SUPPORT. Which members every operation of Machine/Lnk.lean can change, and whether it can change the memory. -/
namespace Sys2Proof.Laws
open Sys2Proof Sys2Proof.Machine
set_option linter.unusedVariables false
set_option linter.unusedTactic false
set_option linter.unreachableTactic false

variable {V : Nat → Prop} {M : Prop} {s0 : State}

theorem lnkFlag_fr (n b : Nat) (s : State) (hs : Fr V M s0 s) (key0 : V (LNK.EVFLAGS n)) :
    Fr V M s0 (lnkFlag n b s) := by
  unfold lnkFlag
  repeat' first
    | with_reducible intro _
    | with_reducible assumption
    | with_reducible apply flag_fr
    | with_reducible apply fr_ite
    | split

theorem freeBlocks_fr (n c k : Nat) (s : State) (hs : Fr V M s0 s) :
    Fr V M s0 (freeBlocks n c k s) := by
  unfold freeBlocks
  repeat' first
    | with_reducible intro _
    | with_reducible assumption
    | with_reducible apply modLane_fr
    | simp only [↓fr_mk_iff]

theorem laneFlag_fr (n b e : Nat) (s : State) (hs : Fr V M s0 s) (key0 : V (TMU.LANE_FLAGS n)) (key1 : V (TMU.EVFLAGS)) :
    Fr V M s0 (laneFlag n b e s) := by
  unfold laneFlag
  repeat' first
    | with_reducible intro _
    | with_reducible assumption
    | with_reducible apply key0
    | with_reducible apply key1
    | with_reducible apply tmuFlag_fr
    | with_reducible apply note_fr
    | with_reducible apply setBit_fr
    | simp only [↓fr_mk_iff]
    | with_reducible apply fr_ite
    | (extract_lets x; first | (with_reducible refine fr_cut (s := x) ?_ ?_; (on_goal 2 => clear_value x); (on_goal 1 => unfold x)) | (subst x))
    | split

theorem noteSent_fr (n id stamp : Nat) (s : State) (hs : Fr V M s0 s) (key0 : V (TMU.EVFLAGS)) (key1 : V (TMU.LANE_FLAGS n)) (key2 : V (TMU.TXTS_LOST n)) (key3 : V (TMU.TXTS_MADE n)) (key4 : V (TMU.TXTS_READ n)) :
    Fr V M s0 (noteSent n id stamp s) := by
  unfold noteSent
  repeat' first
    | with_reducible intro _
    | with_reducible assumption
    | with_reducible apply key0
    | with_reducible apply key1
    | with_reducible apply key2
    | with_reducible apply key3
    | with_reducible apply key4
    | with_reducible apply laneFlag_fr
    | with_reducible apply modLaneTime_fr
    | with_reducible apply bump_fr
    | simp only [↓fr_mk_iff]
    | with_reducible apply fr_ite
    | (extract_lets x; first | (with_reducible refine fr_cut (s := x) ?_ ?_; (on_goal 2 => clear_value x); (on_goal 1 => unfold x)) | (subst x))
    | split

theorem afterSend_fr (n : Nat) (m : TxMsg) (s : State) (hs : Fr V M s0 s) (key0 : V (LNK.MESH_RESP n)) (key1 : V (TMU.EVFLAGS)) (key2 : V (TMU.LANE_FLAGS n)) (key3 : V (TMU.TXTS_LOST n)) (key4 : V (TMU.TXTS_MADE n)) (key5 : V (TMU.TXTS_READ n)) :
    Fr V M s0 (afterSend n m s) := by
  unfold afterSend
  repeat' first
    | with_reducible intro _
    | with_reducible assumption
    | with_reducible apply noteSent_fr
    | with_reducible apply modLaneTime_fr
    | with_reducible apply modTmu_fr
    | with_reducible apply bump_fr
    | simp only [↓fr_mk_iff]
    | with_reducible apply fr_ite
    | (extract_lets x; first | (with_reducible refine fr_cut (s := x) ?_ ?_; (on_goal 2 => clear_value x); (on_goal 1 => unfold x)) | (subst x))
    | split

theorem sendMsg_fr (n : Nat) (m : TxMsg) (s : State) (hs : Fr V M s0 s) (key0 : V (LNK.MESH_RESP n) := by first | assumption | simp only [*]) (key1 : V (TMU.EVFLAGS) := by first | assumption | simp only [*]) (key2 : V (TMU.LANE_FLAGS n) := by first | assumption | simp only [*]) (key3 : V (TMU.TXTS_LOST n) := by first | assumption | simp only [*]) (key4 : V (TMU.TXTS_MADE n) := by first | assumption | simp only [*]) (key5 : V (TMU.TXTS_READ n) := by first | assumption | simp only [*]) :
    Fr V M s0 (sendMsg n m s) := by
  unfold sendMsg
  repeat' first
    | with_reducible intro _
    | with_reducible assumption
    | with_reducible apply key0
    | with_reducible apply key1
    | with_reducible apply key2
    | with_reducible apply key3
    | with_reducible apply key4
    | with_reducible apply key5
    | with_reducible apply afterSend_fr
    | with_reducible apply modLane_fr
    | simp only [↓fr_mk_iff]
    | with_reducible apply fr_ite
    | (extract_lets x; first | (with_reducible refine fr_cut (s := x) ?_ ?_; (on_goal 2 => clear_value x); (on_goal 1 => unfold x)) | (subst x))
    | split

theorem sendMsgs_fr (key0 : ∀ u0, V (LNK.MESH_RESP u0)) (key1 : V (TMU.EVFLAGS)) (key2 : ∀ u0, V (TMU.LANE_FLAGS u0)) (key3 : ∀ u0, V (TMU.TXTS_LOST u0)) (key4 : ∀ u0, V (TMU.TXTS_MADE u0)) (key5 : ∀ u0, V (TMU.TXTS_READ u0)) (n : Nat) : ∀ (z0 : Nat) (z1 : State), Fr V M s0 z1 → Fr V M s0 (sendMsgs n z0 z1)
  | 0, _, h => h
  | k + 1, s, h => by
    unfold sendMsgs
    split
    · exact sendMsgs_fr key0 key1 key2 key3 key4 key5 n k _ (sendMsg_fr n _ _ (modLane_fr _ _ _ h))
    · exact h

theorem trySend_fr (n : Nat) (s : State) (hs : Fr V M s0 s) (key0 : ∀ u0, V (LNK.MESH_RESP u0) := by first | assumption | simp only [*]) (key1 : V (TMU.EVFLAGS) := by first | assumption | simp only [*]) (key2 : ∀ u0, V (TMU.LANE_FLAGS u0) := by first | assumption | simp only [*]) (key3 : ∀ u0, V (TMU.TXTS_LOST u0) := by first | assumption | simp only [*]) (key4 : ∀ u0, V (TMU.TXTS_MADE u0) := by first | assumption | simp only [*]) (key5 : ∀ u0, V (TMU.TXTS_READ u0) := by first | assumption | simp only [*]) :
    Fr V M s0 (trySend n s) := by
  unfold trySend
  repeat' first
    | with_reducible intro _
    | with_reducible assumption
    | with_reducible apply key0
    | with_reducible apply key1
    | with_reducible apply key2
    | with_reducible apply key3
    | with_reducible apply key4
    | with_reducible apply key5
    | with_reducible apply sendMsgs_fr
    | with_reducible apply modLane_fr
    | simp only [↓fr_mk_iff]
    | with_reducible apply fr_ite
    | (extract_lets x; first | (with_reducible refine fr_cut (s := x) ?_ ?_; (on_goal 2 => clear_value x); (on_goal 1 => unfold x)) | (subst x))
    | split

theorem releaseSlot_fr (k : Nat) (s : State) (hs : Fr V M s0 s) (key0 : V (DBG.STATUS)) (key1 : V (HDI.MIRROR_OWNER)) (key2 : V (HDI.MIRROR_STATE)) (key3 : V (HDI.SLOT (k - 1))) :
    Fr V M s0 (releaseSlot k s) := by
  unfold releaseSlot
  repeat' first
    | with_reducible intro _
    | with_reducible assumption
    | with_reducible apply releaseMirror_fr
    | with_reducible apply raise_fr
    | with_reducible apply wr_fr
    | with_reducible apply modSlot_fr
    | with_reducible apply setBit_fr
    | with_reducible apply modMaster_fr
    | simp only [↓fr_mk_iff]
    | with_reducible apply fr_ite
    | (extract_lets x; first | (with_reducible refine fr_cut (s := x) ?_ ?_; (on_goal 2 => clear_value x); (on_goal 1 => unfold x)) | (subst x))
    | split

theorem discardLane_fr (n : Nat) (s : State) (hs : Fr V M s0 s) (key0 : V (DBG.STATUS)) (key1 : ∀ u0, V (DSP.STATE u0)) (key2 : V (HDI.APPLY_OUTCOME)) (key3 : V (HDI.MIRROR_OWNER)) (key4 : V (HDI.MIRROR_STATE)) (key5 : ∀ u0, V (HDI.SLOT u0)) (key6 : V (HDI.STATUS)) (key7 : V (LNK.EVFLAGS n)) (key8 : V (LNK.MESH_DISCARD n)) (key9 : V (LNK.RX_ABORT n)) (key10 : V (LNK.RX_DISCARD n)) (key11 : V (LNK.TX_DISCARD n)) (key12 : ∀ u0, V (TMU.AP_STATE u0)) (key13 : V (TMU.EVFLAGS)) (key14 : V (TMU.STATUS)) (key15 : ∀ u0, V (TMU.TRG_STATE u0)) (key16 : ∀ u0, V (VEN.FLAGS u0)) (key17 : ∀ u0, V (VEN.STATE u0)) :
    Fr V M s0 (discardLane n s) := by
  unfold discardLane
  repeat' first
    | with_reducible intro _
    | with_reducible assumption
    | with_reducible apply key0
    | with_reducible apply key1
    | with_reducible apply key2
    | with_reducible apply key3
    | with_reducible apply key4
    | with_reducible apply key5
    | with_reducible apply key6
    | with_reducible apply key7
    | with_reducible apply key8
    | with_reducible apply key9
    | with_reducible apply key10
    | with_reducible apply key11
    | with_reducible apply key12
    | with_reducible apply key13
    | with_reducible apply key14
    | with_reducible apply key15
    | with_reducible apply key16
    | with_reducible apply key17
    | with_reducible apply releaseSlot_fr
    | with_reducible apply lnkFlag_fr
    | with_reducible apply holdover_fr
    | with_reducible apply modLane_fr
    | with_reducible apply bump_fr
    | with_reducible apply addTo_fr
    | simp only [↓fr_mk_iff]
    | with_reducible apply fr_foldl
    | with_reducible apply fr_foldl_snd
    | with_reducible apply fr_ite
    | (extract_lets x; first | (with_reducible refine fr_cut (s := x) ?_ ?_; (on_goal 2 => clear_value x); (on_goal 1 => unfold x)) | (subst x))
    | split

theorem laneEnter_fr (n c : Nat) (s : State) (hs : Fr V M s0 s) (key0 : V (DBG.STATUS)) (key1 : ∀ u0, V (DSP.STATE u0)) (key2 : V (HDI.APPLY_OUTCOME)) (key3 : V (HDI.MIRROR_OWNER)) (key4 : V (HDI.MIRROR_STATE)) (key5 : ∀ u0, V (HDI.SLOT u0)) (key6 : V (HDI.STATUS)) (key7 : V (LNK.EVFLAGS n)) (key8 : V (LNK.MESH_DISCARD n)) (key9 : V (LNK.RX_ABORT n)) (key10 : V (LNK.RX_DISCARD n)) (key11 : V (LNK.STATE n)) (key12 : V (LNK.TX_DISCARD n)) (key13 : ∀ u0, V (TMU.AP_STATE u0)) (key14 : V (TMU.EVFLAGS)) (key15 : V (TMU.STATUS)) (key16 : ∀ u0, V (TMU.TRG_STATE u0)) (key17 : ∀ u0, V (VEN.FLAGS u0)) (key18 : ∀ u0, V (VEN.STATE u0)) :
    Fr V M s0 (laneEnter n c s) := by
  unfold laneEnter
  repeat' first
    | with_reducible intro _
    | with_reducible assumption
    | with_reducible apply key0
    | with_reducible apply key1
    | with_reducible apply key2
    | with_reducible apply key3
    | with_reducible apply key4
    | with_reducible apply key5
    | with_reducible apply key6
    | with_reducible apply key7
    | with_reducible apply key8
    | with_reducible apply key9
    | with_reducible apply key10
    | with_reducible apply key11
    | with_reducible apply key12
    | with_reducible apply key13
    | with_reducible apply key14
    | with_reducible apply key15
    | with_reducible apply key16
    | with_reducible apply key17
    | with_reducible apply key18
    | with_reducible apply discardLane_fr
    | with_reducible apply lnkFlag_fr
    | with_reducible apply modLane_fr
    | with_reducible apply wr_fr
    | simp only [↓fr_mk_iff]
    | with_reducible apply fr_ite
    | (extract_lets x; first | (with_reducible refine fr_cut (s := x) ?_ ?_; (on_goal 2 => clear_value x); (on_goal 1 => unfold x)) | (subst x))
    | split

theorem laneStartEff_fr (n : Nat) (s : State) (hs : Fr V M s0 s) (key0 : V (DBG.STATUS)) (key1 : ∀ u0, V (DSP.STATE u0)) (key2 : V (HDI.APPLY_OUTCOME)) (key3 : V (HDI.MIRROR_OWNER)) (key4 : V (HDI.MIRROR_STATE)) (key5 : ∀ u0, V (HDI.SLOT u0)) (key6 : V (HDI.STATUS)) (key7 : V (LNK.EVFLAGS n)) (key8 : V (LNK.MESH_DISCARD n)) (key9 : V (LNK.RX_ABORT n)) (key10 : V (LNK.RX_DISCARD n)) (key11 : V (LNK.SRX_RD n)) (key12 : V (LNK.SRX_WR n)) (key13 : V (LNK.STATE n)) (key14 : V (LNK.TX_DISCARD n)) (key15 : ∀ u0, V (TMU.AP_STATE u0)) (key16 : V (TMU.EVFLAGS)) (key17 : V (TMU.STATUS)) (key18 : ∀ u0, V (TMU.TRG_STATE u0)) (key19 : ∀ u0, V (VEN.FLAGS u0)) (key20 : ∀ u0, V (VEN.STATE u0)) :
    Fr V M s0 (laneStartEff n s) := by
  unfold laneStartEff
  repeat' first
    | with_reducible intro _
    | with_reducible assumption
    | with_reducible apply key1
    | with_reducible apply key5
    | with_reducible apply key15
    | with_reducible apply key18
    | with_reducible apply key19
    | with_reducible apply key20
    | with_reducible apply laneEnter_fr
    | with_reducible apply wr_fr
    | with_reducible apply fr_ite
    | split

theorem execLaneStart_fr (q : Req) (n : Nat) (s : State) (hs : Fr V M s0 s) (key0 : V (DBG.STATUS)) (key1 : ∀ u0, V (DSP.STATE u0)) (key2 : V (HDI.APPLY_OUTCOME)) (key3 : V (HDI.MIRROR_OWNER)) (key4 : V (HDI.MIRROR_STATE)) (key5 : ∀ u0, V (HDI.SLOT u0)) (key6 : ∀ u0, V (HDI.STATS u0)) (key7 : V (HDI.STATUS)) (key8 : V (LNK.EVFLAGS n)) (key9 : V (LNK.MESH_DISCARD n)) (key10 : V (LNK.RX_ABORT n)) (key11 : V (LNK.RX_DISCARD n)) (key12 : V (LNK.SRX_RD n)) (key13 : V (LNK.SRX_WR n)) (key14 : V (LNK.STATE n)) (key15 : V (LNK.TX_DISCARD n)) (key16 : ∀ u0, V (TMU.AP_STATE u0)) (key17 : V (TMU.EVFLAGS)) (key18 : V (TMU.STATUS)) (key19 : ∀ u0, V (TMU.TRG_STATE u0)) (key20 : ∀ u0, V (VEN.FLAGS u0)) (key21 : ∀ u0, V (VEN.STATE u0)) :
    FrOut V M s0 (execLaneStart q n s) := by
  unfold execLaneStart
  repeat' first
    | with_reducible intro _
    | with_reducible assumption
    | with_reducible apply key1
    | with_reducible apply key5
    | with_reducible apply key6
    | with_reducible apply key16
    | with_reducible apply key19
    | with_reducible apply key20
    | with_reducible apply key21
    | with_reducible apply unitCmd_fr
    | with_reducible apply command_fr
    | with_reducible apply laneStartEff_fr
    | with_reducible apply frOut_next
    | with_reducible apply frOut_fault

theorem execLaneReset_fr (q : Req) (n : Nat) (s : State) (hs : Fr V M s0 s) (key0 : V (DBG.STATUS)) (key1 : ∀ u0, V (DSP.STATE u0)) (key2 : V (HDI.APPLY_OUTCOME)) (key3 : V (HDI.MIRROR_OWNER)) (key4 : V (HDI.MIRROR_STATE)) (key5 : ∀ u0, V (HDI.SLOT u0)) (key6 : ∀ u0, V (HDI.STATS u0)) (key7 : V (HDI.STATUS)) (key8 : V (LNK.EVFLAGS n)) (key9 : V (LNK.MESH_DISCARD n)) (key10 : V (LNK.RX_ABORT n)) (key11 : V (LNK.RX_DISCARD n)) (key12 : V (LNK.STATE n)) (key13 : V (LNK.TX_DISCARD n)) (key14 : ∀ u0, V (TMU.AP_STATE u0)) (key15 : V (TMU.EVFLAGS)) (key16 : V (TMU.STATUS)) (key17 : ∀ u0, V (TMU.TRG_STATE u0)) (key18 : ∀ u0, V (VEN.FLAGS u0)) (key19 : ∀ u0, V (VEN.STATE u0)) :
    FrOut V M s0 (execLaneReset q n s) := by
  unfold execLaneReset
  repeat' first
    | with_reducible intro _
    | with_reducible assumption
    | with_reducible apply key1
    | with_reducible apply key5
    | with_reducible apply key6
    | with_reducible apply key14
    | with_reducible apply key17
    | with_reducible apply key18
    | with_reducible apply key19
    | with_reducible apply unitCmd_fr
    | with_reducible apply command_fr
    | with_reducible apply laneEnter_fr
    | with_reducible apply frOut_next
    | with_reducible apply frOut_fault

theorem execLaneRetrain_fr (q : Req) (n : Nat) (s : State) (hs : Fr V M s0 s) (key0 : V (DBG.STATUS)) (key1 : ∀ u0, V (DSP.STATE u0)) (key2 : V (HDI.APPLY_OUTCOME)) (key3 : V (HDI.MIRROR_OWNER)) (key4 : V (HDI.MIRROR_STATE)) (key5 : ∀ u0, V (HDI.SLOT u0)) (key6 : ∀ u0, V (HDI.STATS u0)) (key7 : V (HDI.STATUS)) (key8 : V (LNK.EVFLAGS n)) (key9 : V (LNK.MESH_DISCARD n)) (key10 : V (LNK.RX_ABORT n)) (key11 : V (LNK.RX_DISCARD n)) (key12 : V (LNK.STATE n)) (key13 : V (LNK.TX_DISCARD n)) (key14 : ∀ u0, V (TMU.AP_STATE u0)) (key15 : V (TMU.EVFLAGS)) (key16 : V (TMU.STATUS)) (key17 : ∀ u0, V (TMU.TRG_STATE u0)) (key18 : ∀ u0, V (VEN.FLAGS u0)) (key19 : ∀ u0, V (VEN.STATE u0)) :
    FrOut V M s0 (execLaneRetrain q n s) := by
  unfold execLaneRetrain
  repeat' first
    | with_reducible intro _
    | with_reducible assumption
    | with_reducible apply key1
    | with_reducible apply key5
    | with_reducible apply key6
    | with_reducible apply key14
    | with_reducible apply key17
    | with_reducible apply key18
    | with_reducible apply key19
    | with_reducible apply unitCmd_fr
    | with_reducible apply command_fr
    | with_reducible apply laneEnter_fr
    | with_reducible apply frOut_next
    | with_reducible apply frOut_fault

theorem execAdaptEnd_fr (n : Nat) (s : State) (hs : Fr V M s0 s) (key0 : V (DBG.STATUS)) (key1 : ∀ u0, V (DSP.STATE u0)) (key2 : V (HDI.APPLY_OUTCOME)) (key3 : V (HDI.MIRROR_OWNER)) (key4 : V (HDI.MIRROR_STATE)) (key5 : ∀ u0, V (HDI.SLOT u0)) (key6 : V (HDI.STATUS)) (key7 : V (LNK.EVFLAGS n)) (key8 : V (LNK.MESH_DISCARD n)) (key9 : V (LNK.RX_ABORT n)) (key10 : V (LNK.RX_DISCARD n)) (key11 : V (LNK.STATE n)) (key12 : V (LNK.TX_DISCARD n)) (key13 : ∀ u0, V (TMU.AP_STATE u0)) (key14 : V (TMU.EVFLAGS)) (key15 : V (TMU.STATUS)) (key16 : ∀ u0, V (TMU.TRG_STATE u0)) (key17 : ∀ u0, V (VEN.FLAGS u0)) (key18 : ∀ u0, V (VEN.STATE u0)) :
    FrOut V M s0 (execAdaptEnd n s) := by
  unfold execAdaptEnd
  repeat' first
    | with_reducible intro _
    | with_reducible assumption
    | with_reducible apply key1
    | with_reducible apply key5
    | with_reducible apply key13
    | with_reducible apply key16
    | with_reducible apply key17
    | with_reducible apply key18
    | with_reducible apply unitCmd_fr
    | with_reducible apply laneEnter_fr
    | with_reducible apply frOut_next
    | with_reducible apply frOut_fault
    | with_reducible apply frOut_ite
    | with_reducible apply fr_ite
    | split

theorem qrateEff_fr (k v : Nat) (s : State) (hs : Fr V M s0 s) (key0 : V (CRH.CLK_STATUS)) (key1 : V (LNK.QPLL k)) (key2 : V (LNK.QRATE k)) :
    Fr V M s0 (qrateEff k v s) := by
  unfold qrateEff
  repeat' first
    | with_reducible intro _
    | with_reducible assumption
    | with_reducible apply key0
    | with_reducible apply key1
    | with_reducible apply key2
    | with_reducible apply setBit_fr
    | with_reducible apply wr_fr
    | simp only [↓fr_mk_iff]
    | with_reducible apply fr_ite
    | (extract_lets x; first | (with_reducible refine fr_cut (s := x) ?_ ?_; (on_goal 2 => clear_value x); (on_goal 1 => unfold x)) | (subst x))
    | split

theorem execQrateWrite_fr (q : Req) (k v : Nat) (s : State) (hs : Fr V M s0 s) (key0 : V (CRH.CLK_STATUS)) (key1 : ∀ u0, V (HDI.STATS u0)) (key2 : V (LNK.QPLL k)) (key3 : V (LNK.QRATE k)) :
    FrOut V M s0 (execQrateWrite q k v s) := by
  unfold execQrateWrite
  repeat' first
    | with_reducible intro _
    | with_reducible assumption
    | with_reducible apply key1
    | with_reducible apply unitCmd_fr
    | with_reducible apply writeTo_fr
    | with_reducible apply qrateEff_fr
    | with_reducible apply frOut_next
    | with_reducible apply frOut_fault

theorem execQpllLock_fr (k : Nat) (s : State) (hs : Fr V M s0 s) (key0 : V (CRH.CLK_STATUS)) (key1 : V (CRH.EVFLAGS)) (key2 : V (LNK.QPLL k)) :
    FrOut V M s0 (execQpllLock k s) := by
  unfold execQpllLock
  repeat' first
    | with_reducible intro _
    | with_reducible assumption
    | with_reducible apply key0
    | with_reducible apply key1
    | with_reducible apply key2
    | with_reducible apply crhFlag_fr
    | with_reducible apply setBit_fr
    | with_reducible apply wr_fr
    | simp only [↓fr_mk_iff]
    | with_reducible apply fr_ite
    | with_reducible apply frOut_next
    | with_reducible apply frOut_fault
    | with_reducible apply frOut_ite
    | with_reducible apply unitCmd_fr
    | (extract_lets x; first | (with_reducible refine fr_cut (s := x) ?_ ?_; (on_goal 2 => clear_value x); (on_goal 1 => unfold x)) | (subst x))
    | split

theorem execLrefLoss_fr (k : Nat) (s : State) (hs : Fr V M s0 s) (key0 : V (CRH.CLK_STATUS)) (key1 : V (LNK.QPLL k)) :
    FrOut V M s0 (execLrefLoss k s) := by
  unfold execLrefLoss
  repeat' first
    | with_reducible intro _
    | with_reducible assumption
    | with_reducible apply unitCmd_fr
    | with_reducible apply wr_fr
    | with_reducible apply setBit_fr
    | with_reducible apply frOut_next
    | with_reducible apply frOut_fault

theorem laneMapEff_fr (k v : Nat) (s : State) (hs : Fr V M s0 s) (key0 : V (LNK.MAP k)) (key1 : ∀ u0, V (LNK.PHYS u0)) :
    Fr V M s0 (laneMapEff k v s) := by
  unfold laneMapEff
  repeat' first
    | with_reducible intro _
    | with_reducible assumption
    | with_reducible apply key1
    | with_reducible apply wr_fr
    | with_reducible apply fr_foldl

theorem execLaneMapWrite_fr (q : Req) (k v : Nat) (s : State) (hs : Fr V M s0 s) (key0 : ∀ u0, V (HDI.STATS u0)) (key1 : V (LNK.MAP k)) (key2 : ∀ u0, V (LNK.PHYS u0)) :
    FrOut V M s0 (execLaneMapWrite q k v s) := by
  unfold execLaneMapWrite
  repeat' first
    | with_reducible intro _
    | with_reducible assumption
    | with_reducible apply key0
    | with_reducible apply key2
    | with_reducible apply unitCmd_fr
    | with_reducible apply writeTo_fr
    | with_reducible apply laneMapEff_fr
    | with_reducible apply frOut_next
    | with_reducible apply frOut_fault

theorem goodHeader_fr (n : Nat) (s : State) (hs : Fr V M s0 s) :
    Fr V M s0 (goodHeader n s) := by
  unfold goodHeader
  repeat' first
    | with_reducible intro _
    | with_reducible assumption
    | with_reducible apply modLane_fr
    | simp only [↓fr_mk_iff]
    | with_reducible apply fr_ite
    | split

theorem badHeader_fr (n : Nat) (s : State) (hs : Fr V M s0 s) (key0 : V (DBG.STATUS)) (key1 : ∀ u0, V (DSP.STATE u0)) (key2 : V (HDI.APPLY_OUTCOME)) (key3 : V (HDI.MIRROR_OWNER)) (key4 : V (HDI.MIRROR_STATE)) (key5 : ∀ u0, V (HDI.SLOT u0)) (key6 : V (HDI.STATUS)) (key7 : V (LNK.BAD_HDR n)) (key8 : V (LNK.EVFLAGS n)) (key9 : V (LNK.LOSSES n)) (key10 : V (LNK.MESH_DISCARD n)) (key11 : V (LNK.RX_ABORT n)) (key12 : V (LNK.RX_DISCARD n)) (key13 : V (LNK.STATE n)) (key14 : V (LNK.TX_DISCARD n)) (key15 : ∀ u0, V (TMU.AP_STATE u0)) (key16 : V (TMU.EVFLAGS)) (key17 : V (TMU.STATUS)) (key18 : ∀ u0, V (TMU.TRG_STATE u0)) (key19 : ∀ u0, V (VEN.FLAGS u0)) (key20 : ∀ u0, V (VEN.STATE u0)) :
    Fr V M s0 (badHeader n s) := by
  unfold badHeader
  repeat' first
    | with_reducible intro _
    | with_reducible assumption
    | with_reducible apply key1
    | with_reducible apply key5
    | with_reducible apply key15
    | with_reducible apply key18
    | with_reducible apply key19
    | with_reducible apply key20
    | with_reducible apply modLane_fr
    | with_reducible apply bump_fr
    | with_reducible apply laneEnter_fr
    | simp only [↓fr_mk_iff]
    | with_reducible apply fr_ite
    | (extract_lets x; first | (with_reducible refine fr_cut (s := x) ?_ ?_; (on_goal 2 => clear_value x); (on_goal 1 => unfold x)) | (subst x))
    | split

theorem execInvalidHeader_fr (n : Nat) (s : State) (hs : Fr V M s0 s) (key0 : V (DBG.STATUS)) (key1 : ∀ u0, V (DSP.STATE u0)) (key2 : V (HDI.APPLY_OUTCOME)) (key3 : V (HDI.MIRROR_OWNER)) (key4 : V (HDI.MIRROR_STATE)) (key5 : ∀ u0, V (HDI.SLOT u0)) (key6 : V (HDI.STATUS)) (key7 : V (LNK.BAD_HDR n)) (key8 : V (LNK.EVFLAGS n)) (key9 : V (LNK.FEC_UNCORR n)) (key10 : V (LNK.LOSSES n)) (key11 : V (LNK.MESH_DISCARD n)) (key12 : V (LNK.RX_ABORT n)) (key13 : V (LNK.RX_DISCARD n)) (key14 : V (LNK.STATE n)) (key15 : V (LNK.TX_DISCARD n)) (key16 : ∀ u0, V (TMU.AP_STATE u0)) (key17 : V (TMU.EVFLAGS)) (key18 : V (TMU.STATUS)) (key19 : ∀ u0, V (TMU.TRG_STATE u0)) (key20 : ∀ u0, V (VEN.FLAGS u0)) (key21 : ∀ u0, V (VEN.STATE u0)) :
    FrOut V M s0 (execInvalidHeader n s) := by
  unfold execInvalidHeader
  repeat' first
    | with_reducible intro _
    | with_reducible assumption
    | with_reducible apply key0
    | with_reducible apply key1
    | with_reducible apply key2
    | with_reducible apply key3
    | with_reducible apply key4
    | with_reducible apply key5
    | with_reducible apply key6
    | with_reducible apply key7
    | with_reducible apply key8
    | with_reducible apply key9
    | with_reducible apply key10
    | with_reducible apply key11
    | with_reducible apply key12
    | with_reducible apply key13
    | with_reducible apply key14
    | with_reducible apply key15
    | with_reducible apply key16
    | with_reducible apply key17
    | with_reducible apply key18
    | with_reducible apply key19
    | with_reducible apply key20
    | with_reducible apply key21
    | with_reducible apply badHeader_fr
    | with_reducible apply lnkFlag_fr
    | with_reducible apply modLane_fr
    | with_reducible apply bump_fr
    | simp only [↓fr_mk_iff]
    | with_reducible apply fr_foldl
    | with_reducible apply fr_foldl_snd
    | with_reducible apply fr_ite
    | with_reducible apply frOut_next
    | with_reducible apply frOut_fault
    | with_reducible apply frOut_ite
    | with_reducible apply unitCmd_fr
    | (extract_lets x; first | (with_reducible refine fr_cut (s := x) ?_ ?_; (on_goal 2 => clear_value x); (on_goal 1 => unfold x)) | (subst x))
    | split

theorem execLockGained_fr (n : Nat) (s : State) (hs : Fr V M s0 s) (key0 : V (LNK.EVFLAGS n)) (key1 : ∀ u0, V (LNK.MESH_RESP u0)) (key2 : V (LNK.STATE n)) (key3 : V (TMU.EVFLAGS)) (key4 : ∀ u0, V (TMU.LANE_FLAGS u0)) (key5 : ∀ u0, V (TMU.TXTS_LOST u0)) (key6 : ∀ u0, V (TMU.TXTS_MADE u0)) (key7 : ∀ u0, V (TMU.TXTS_READ u0)) :
    FrOut V M s0 (execLockGained n s) := by
  unfold execLockGained
  repeat' first
    | with_reducible intro _
    | with_reducible assumption
    | with_reducible apply key1
    | with_reducible apply key4
    | with_reducible apply key5
    | with_reducible apply key6
    | with_reducible apply key7
    | with_reducible apply unitCmd_fr
    | with_reducible apply trySend_fr
    | with_reducible apply lnkFlag_fr
    | with_reducible apply wr_fr
    | with_reducible apply modLane_fr
    | with_reducible apply frOut_next
    | with_reducible apply frOut_fault
    | with_reducible apply frOut_ite
    | simp only [↓fr_mk_iff]
    | with_reducible apply fr_ite
    | split

theorem rxInvalid_fr (n : Nat) (s : State) (hs : Fr V M s0 s) (key0 : V (LNK.RX_INVALID n)) :
    Fr V M s0 (rxInvalid n s) := by
  unfold rxInvalid
  repeat' first
    | with_reducible intro _
    | with_reducible assumption
    | with_reducible apply bump_fr

theorem codeIn_fr (n fix : Nat) (s : State) (hs : Fr V M s0 s) (key0 : V (LNK.FEC_CORR n)) :
    Fr V M s0 (codeIn n fix s) := by
  unfold codeIn
  repeat' first
    | with_reducible intro _
    | with_reducible assumption
    | with_reducible apply key0
    | with_reducible apply modLane_fr
    | with_reducible apply addTo_fr
    | simp only [↓fr_mk_iff]
    | with_reducible apply fr_ite
    | (extract_lets x; first | (with_reducible refine fr_cut (s := x) ?_ ?_; (on_goal 2 => clear_value x); (on_goal 1 => unfold x)) | (subst x))
    | split

theorem blockIn_fr (n fix : Nat) (act : State → State) (s : State) (hs : Fr V M s0 s) (heff_act : ∀ s, Fr V M s0 s → Fr V M s0 (act s)) (key0 : V (LNK.FEC_CORR n)) (key1 : ∀ u0, V (LNK.MESH_RESP u0)) (key2 : V (TMU.EVFLAGS)) (key3 : ∀ u0, V (TMU.LANE_FLAGS u0)) (key4 : ∀ u0, V (TMU.TXTS_LOST u0)) (key5 : ∀ u0, V (TMU.TXTS_MADE u0)) (key6 : ∀ u0, V (TMU.TXTS_READ u0)) :
    FrOut V M s0 (blockIn n fix act s) := by
  unfold blockIn
  repeat' first
    | with_reducible intro _
    | with_reducible assumption
    | with_reducible apply heff_act
    | with_reducible apply key0
    | with_reducible apply key1
    | with_reducible apply key2
    | with_reducible apply key3
    | with_reducible apply key4
    | with_reducible apply key5
    | with_reducible apply key6
    | with_reducible apply codeIn_fr
    | with_reducible apply goodHeader_fr
    | with_reducible apply trySend_fr
    | simp only [↓fr_mk_iff]
    | with_reducible apply fr_ite
    | with_reducible apply frOut_next
    | with_reducible apply frOut_fault
    | with_reducible apply frOut_ite
    | with_reducible apply unitCmd_fr
    | (extract_lets x; first | (with_reducible refine fr_cut (s := x) ?_ ?_; (on_goal 2 => clear_value x); (on_goal 1 => unfold x)) | (subst x))
    | split

theorem execIdleBlock_fr (n v fix : Nat) (s : State) (hs : Fr V M s0 s) (key0 : V (LNK.FEC_CORR n)) (key1 : ∀ u0, V (LNK.MESH_RESP u0)) (key2 : V (LNK.RX_INVALID n)) (key3 : V (TMU.EVFLAGS)) (key4 : ∀ u0, V (TMU.LANE_FLAGS u0)) (key5 : ∀ u0, V (TMU.TXTS_LOST u0)) (key6 : ∀ u0, V (TMU.TXTS_MADE u0)) (key7 : ∀ u0, V (TMU.TXTS_READ u0)) :
    FrOut V M s0 (execIdleBlock n v fix s) := by
  unfold execIdleBlock
  repeat' first
    | with_reducible intro _
    | with_reducible assumption
    | with_reducible apply key1
    | with_reducible apply key4
    | with_reducible apply key5
    | with_reducible apply key6
    | with_reducible apply key7
    | with_reducible apply blockIn_fr
    | with_reducible apply rxInvalid_fr
    | with_reducible apply frOut_next
    | with_reducible apply frOut_fault
    | with_reducible apply frOut_ite
    | with_reducible apply fr_ite
    | split

theorem execCreditBlock_fr (n v fix : Nat) (s : State) (hs : Fr V M s0 s) (key0 : V (LNK.FEC_CORR n)) (key1 : ∀ u0, V (LNK.MESH_RESP u0)) (key2 : V (LNK.RX_INVALID n)) (key3 : V (TMU.EVFLAGS)) (key4 : ∀ u0, V (TMU.LANE_FLAGS u0)) (key5 : ∀ u0, V (TMU.TXTS_LOST u0)) (key6 : ∀ u0, V (TMU.TXTS_MADE u0)) (key7 : ∀ u0, V (TMU.TXTS_READ u0)) :
    FrOut V M s0 (execCreditBlock n v fix s) := by
  unfold execCreditBlock
  repeat' first
    | with_reducible intro _
    | with_reducible assumption
    | with_reducible apply key1
    | with_reducible apply key4
    | with_reducible apply key5
    | with_reducible apply key6
    | with_reducible apply key7
    | with_reducible apply blockIn_fr
    | with_reducible apply rxInvalid_fr
    | with_reducible apply modLane_fr
    | with_reducible apply frOut_next
    | with_reducible apply frOut_fault
    | with_reducible apply frOut_ite
    | simp only [↓fr_mk_iff]
    | with_reducible apply fr_ite
    | split

theorem execLinkBlock_fr (n v fix : Nat) (s : State) (hs : Fr V M s0 s) (key0 : V (LNK.EVFLAGS n)) (key1 : V (LNK.FEC_CORR n)) (key2 : ∀ u0, V (LNK.MESH_RESP u0)) (key3 : V (LNK.PEER n)) (key4 : V (LNK.PEER_LANE n)) (key5 : V (LNK.RX_INVALID n)) (key6 : V (TMU.EVFLAGS)) (key7 : ∀ u0, V (TMU.LANE_FLAGS u0)) (key8 : ∀ u0, V (TMU.TXTS_LOST u0)) (key9 : ∀ u0, V (TMU.TXTS_MADE u0)) (key10 : ∀ u0, V (TMU.TXTS_READ u0)) :
    FrOut V M s0 (execLinkBlock n v fix s) := by
  unfold execLinkBlock
  repeat' first
    | with_reducible intro _
    | with_reducible assumption
    | with_reducible apply key0
    | with_reducible apply key1
    | with_reducible apply key2
    | with_reducible apply key3
    | with_reducible apply key4
    | with_reducible apply key5
    | with_reducible apply key6
    | with_reducible apply key7
    | with_reducible apply key8
    | with_reducible apply key9
    | with_reducible apply key10
    | with_reducible apply blockIn_fr
    | with_reducible apply rxInvalid_fr
    | with_reducible apply lnkFlag_fr
    | with_reducible apply modLane_fr
    | with_reducible apply wr_fr
    | simp only [↓fr_mk_iff]
    | with_reducible apply fr_ite
    | with_reducible apply frOut_next
    | with_reducible apply frOut_fault
    | with_reducible apply frOut_ite
    | with_reducible apply unitCmd_fr
    | (extract_lets x; first | (with_reducible refine fr_cut (s := x) ?_ ?_; (on_goal 2 => clear_value x); (on_goal 1 => unfold x)) | (subst x))
    | split

theorem abortOpen_fr (n : Nat) (s : State) (hs : Fr V M s0 s) (key0 : V (LNK.RX_ABORT n)) :
    Fr V M s0 (abortOpen n s) := by
  unfold abortOpen
  repeat' first
    | with_reducible intro _
    | with_reducible assumption
    | with_reducible apply freeBlocks_fr
    | with_reducible apply bump_fr
    | with_reducible apply modLane_fr
    | simp only [↓fr_mk_iff]
    | split

theorem execStartBlock_fr (n v fix : Nat) (s : State) (hs : Fr V M s0 s) (key0 : V (LNK.FEC_CORR n)) (key1 : ∀ u0, V (LNK.MESH_RESP u0)) (key2 : V (LNK.RX_ABORT n)) (key3 : V (LNK.RX_INVALID n)) (key4 : V (TMU.EVFLAGS)) (key5 : ∀ u0, V (TMU.LANE_FLAGS u0)) (key6 : ∀ u0, V (TMU.TXTS_LOST u0)) (key7 : ∀ u0, V (TMU.TXTS_MADE u0)) (key8 : ∀ u0, V (TMU.TXTS_READ u0)) :
    FrOut V M s0 (execStartBlock n v fix s) := by
  unfold execStartBlock
  repeat' first
    | with_reducible intro _
    | with_reducible assumption
    | with_reducible apply key1
    | with_reducible apply key5
    | with_reducible apply key6
    | with_reducible apply key7
    | with_reducible apply key8
    | with_reducible apply blockIn_fr
    | with_reducible apply rxInvalid_fr
    | with_reducible apply abortOpen_fr
    | with_reducible apply modLane_fr
    | with_reducible apply freeBlocks_fr
    | with_reducible apply frOut_next
    | with_reducible apply frOut_fault
    | with_reducible apply frOut_ite
    | simp only [↓fr_mk_iff]
    | with_reducible apply fr_ite
    | (extract_lets x; first | (with_reducible refine fr_cut (s := x) ?_ ?_; (on_goal 2 => clear_value x); (on_goal 1 => unfold x)) | (subst x))
    | split

theorem rxComplete_fr (n crc : Nat) (m : LaneMsg) (s : State) (hs : Fr V M s0 s) (key0 : V (LNK.EVFLAGS n)) (key1 : V (LNK.MESH_IN n)) (key2 : V (LNK.RX_CRC n)) (key3 : V (LNK.RX_INVALID n)) (key4 : V (LNK.SRX_MSGS n)) :
    Fr V M s0 (rxComplete n crc m s) := by
  unfold rxComplete
  repeat' first
    | with_reducible intro _
    | with_reducible assumption
    | with_reducible apply lnkFlag_fr
    | with_reducible apply freeBlocks_fr
    | with_reducible apply bump_fr
    | with_reducible apply rxInvalid_fr
    | with_reducible apply modLane_fr
    | simp only [↓fr_mk_iff]
    | with_reducible apply fr_ite
    | (extract_lets x; first | (with_reducible refine fr_cut (s := x) ?_ ?_; (on_goal 2 => clear_value x); (on_goal 1 => unfold x)) | (subst x))
    | split

theorem execDataBlock_fr (n v fix : Nat) (s : State) (hs : Fr V M s0 s) (key0 : ∀ u0, V (LNK.EVFLAGS u0)) (key1 : ∀ u0, V (LNK.FEC_CORR u0)) (key2 : ∀ u0, V (LNK.MESH_IN u0)) (key3 : ∀ u0, V (LNK.MESH_RESP u0)) (key4 : ∀ u0, V (LNK.RX_CRC u0)) (key5 : ∀ u0, V (LNK.RX_INVALID u0)) (key6 : ∀ u0, V (LNK.SRX_MSGS u0)) (key7 : V (TMU.EVFLAGS)) (key8 : ∀ u0, V (TMU.LANE_FLAGS u0)) (key9 : ∀ u0, V (TMU.TXTS_LOST u0)) (key10 : ∀ u0, V (TMU.TXTS_MADE u0)) (key11 : ∀ u0, V (TMU.TXTS_READ u0)) :
    FrOut V M s0 (execDataBlock n v fix s) := by
  unfold execDataBlock
  repeat' first
    | with_reducible intro _
    | with_reducible assumption
    | with_reducible apply key0
    | with_reducible apply key1
    | with_reducible apply key2
    | with_reducible apply key3
    | with_reducible apply key4
    | with_reducible apply key5
    | with_reducible apply key6
    | with_reducible apply key8
    | with_reducible apply key9
    | with_reducible apply key10
    | with_reducible apply key11
    | with_reducible apply blockIn_fr
    | with_reducible apply rxInvalid_fr
    | with_reducible apply modLane_fr
    | with_reducible apply rxComplete_fr
    | with_reducible apply frOut_next
    | with_reducible apply frOut_fault
    | with_reducible apply frOut_ite
    | simp only [↓fr_mk_iff]
    | with_reducible apply fr_ite
    | (extract_lets x; first | (with_reducible refine fr_cut (s := x) ?_ ?_; (on_goal 2 => clear_value x); (on_goal 1 => unfold x)) | (subst x))
    | split

theorem takeMsg_fr (n : Nat) (m : LaneMsg) (s : State) (hs : Fr V M s0 s) :
    Fr V M s0 (takeMsg n m s) := by
  unfold takeMsg
  repeat' first
    | with_reducible intro _
    | with_reducible assumption
    | with_reducible apply freeBlocks_fr
    | with_reducible apply modLane_fr
    | simp only [↓fr_mk_iff]

theorem execMeshMessage_fr (n : Nat) (s : State) (hs : Fr V M s0 s) (key0 : ∀ u0, V (LNK.MESH_RESP u0)) (key1 : V (TMU.EVFLAGS)) (key2 : ∀ u0, V (TMU.LANE_FLAGS u0)) (key3 : ∀ u0, V (TMU.TXTS_LOST u0)) (key4 : ∀ u0, V (TMU.TXTS_MADE u0)) (key5 : ∀ u0, V (TMU.TXTS_READ u0)) :
    FrOut V M s0 (execMeshMessage n s) := by
  unfold execMeshMessage
  repeat' first
    | with_reducible intro _
    | with_reducible assumption
    | with_reducible apply key0
    | with_reducible apply key1
    | with_reducible apply key2
    | with_reducible apply key3
    | with_reducible apply key4
    | with_reducible apply key5
    | with_reducible apply takeMsg_fr
    | with_reducible apply trySend_fr
    | with_reducible apply meshSend_fr
    | with_reducible apply modLane_fr
    | simp only [↓fr_mk_iff]
    | with_reducible apply fr_ite
    | with_reducible apply frOut_next
    | with_reducible apply frOut_fault
    | with_reducible apply frOut_ite
    | with_reducible apply unitCmd_fr
    | (extract_lets x; first | (with_reducible refine fr_cut (s := x) ?_ ?_; (on_goal 2 => clear_value x); (on_goal 1 => unfold x)) | (subst x))
    | split

theorem laneDone_fr (n : Nat) (x : MeshResp) (s : State) (hs : Fr V M s0 s) (key0 : ∀ u0, V (LNK.MESH_RESP u0)) (key1 : V (TMU.EVFLAGS)) (key2 : ∀ u0, V (TMU.LANE_FLAGS u0)) (key3 : ∀ u0, V (TMU.TXTS_LOST u0)) (key4 : ∀ u0, V (TMU.TXTS_MADE u0)) (key5 : ∀ u0, V (TMU.TXTS_READ u0)) :
    Fr V M s0 (laneDone n x s) := by
  unfold laneDone
  repeat' first
    | with_reducible intro _
    | with_reducible assumption
    | with_reducible apply key0
    | with_reducible apply key2
    | with_reducible apply key3
    | with_reducible apply key4
    | with_reducible apply key5
    | with_reducible apply modLane_fr
    | with_reducible apply trySend_fr
    | with_reducible apply drawn_fr
    | simp only [↓fr_mk_iff]
    | with_reducible apply fr_ite
    | (extract_lets x; first | (with_reducible refine fr_cut (s := x) ?_ ?_; (on_goal 2 => clear_value x); (on_goal 1 => unfold x)) | (subst x))
    | split

theorem execStreamMessage_fr (n : Nat) (s : State) (hs : Fr V M s0 s) (key0 : V (LNK.EVFLAGS n)) (key1 : ∀ u0, V (LNK.MESH_RESP u0)) (key2 : V (LNK.SRX_DROP n)) (key3 : V (TMU.EVFLAGS)) (key4 : ∀ u0, V (TMU.LANE_FLAGS u0)) (key5 : ∀ u0, V (TMU.TXTS_LOST u0)) (key6 : ∀ u0, V (TMU.TXTS_MADE u0)) (key7 : ∀ u0, V (TMU.TXTS_READ u0)) :
    FrOut V M s0 (execStreamMessage n s) := by
  unfold execStreamMessage
  repeat' first
    | with_reducible intro _
    | with_reducible assumption
    | with_reducible apply key1
    | with_reducible apply key4
    | with_reducible apply key5
    | with_reducible apply key6
    | with_reducible apply key7
    | with_reducible apply unitCmd_fr
    | with_reducible apply trySend_fr
    | with_reducible apply lnkFlag_fr
    | with_reducible apply takeMsg_fr
    | with_reducible apply bump_fr
    | with_reducible apply meshSend_fr
    | with_reducible apply modLane_fr
    | with_reducible apply frOut_next
    | with_reducible apply frOut_fault
    | with_reducible apply frOut_ite
    | simp only [↓fr_mk_iff]
    | with_reducible apply fr_ite
    | with_reducible apply fr_foldl
    | (extract_lets x; first | (with_reducible refine fr_cut (s := x) ?_ ?_; (on_goal 2 => clear_value x); (on_goal 1 => unfold x)) | (subst x))
    | split

theorem streamDone_fr (n : Nat) (x : MeshResp) (s : State) (hs : Fr V M s0 s) :
    Fr V M s0 (streamDone n x s) := by
  unfold streamDone
  repeat' first
    | with_reducible intro _
    | with_reducible assumption
    | with_reducible apply modLane_fr
    | simp only [↓fr_mk_iff]

theorem execStreamWritesDone_fr (n : Nat) (err : Bool) (s : State) (hs : Fr V M s0 s) (key0 : V (LNK.EVFLAGS n)) (key1 : ∀ u0, V (LNK.MESH_RESP u0)) (key2 : V (LNK.SRX_DONE n)) (key3 : V (LNK.SRX_ERR n)) (key4 : V (LNK.SRX_WR n)) (key5 : V (TMU.EVFLAGS)) (key6 : ∀ u0, V (TMU.LANE_FLAGS u0)) (key7 : ∀ u0, V (TMU.TXTS_LOST u0)) (key8 : ∀ u0, V (TMU.TXTS_MADE u0)) (key9 : ∀ u0, V (TMU.TXTS_READ u0)) :
    FrOut V M s0 (execStreamWritesDone n err s) := by
  unfold execStreamWritesDone
  repeat' first
    | with_reducible intro _
    | with_reducible assumption
    | with_reducible apply key0
    | with_reducible apply key1
    | with_reducible apply key2
    | with_reducible apply key3
    | with_reducible apply key4
    | with_reducible apply key5
    | with_reducible apply key6
    | with_reducible apply key7
    | with_reducible apply key8
    | with_reducible apply key9
    | with_reducible apply trySend_fr
    | with_reducible apply freeBlocks_fr
    | with_reducible apply lnkFlag_fr
    | with_reducible apply modLane_fr
    | with_reducible apply bump_fr
    | with_reducible apply addTo_fr
    | simp only [↓fr_mk_iff]
    | with_reducible apply fr_ite
    | with_reducible apply frOut_next
    | with_reducible apply frOut_fault
    | with_reducible apply frOut_ite
    | with_reducible apply unitCmd_fr
    | (extract_lets x; first | (with_reducible refine fr_cut (s := x) ?_ ?_; (on_goal 2 => clear_value x); (on_goal 1 => unfold x)) | (subst x))
    | split

theorem execCreditSendTimer_fr (n : Nat) (s : State) (hs : Fr V M s0 s) (key0 : ∀ u0, V (LNK.MESH_RESP u0)) (key1 : V (TMU.EVFLAGS)) (key2 : ∀ u0, V (TMU.LANE_FLAGS u0)) (key3 : ∀ u0, V (TMU.TXTS_LOST u0)) (key4 : ∀ u0, V (TMU.TXTS_MADE u0)) (key5 : ∀ u0, V (TMU.TXTS_READ u0)) :
    FrOut V M s0 (execCreditSendTimer n s) := by
  unfold execCreditSendTimer
  repeat' first
    | with_reducible intro _
    | with_reducible assumption
    | with_reducible apply key0
    | with_reducible apply key2
    | with_reducible apply key3
    | with_reducible apply key4
    | with_reducible apply key5
    | with_reducible apply unitCmd_fr
    | with_reducible apply trySend_fr
    | with_reducible apply upto_fr
    | with_reducible apply modLane_fr
    | with_reducible apply frOut_next
    | with_reducible apply frOut_fault
    | with_reducible apply frOut_ite
    | simp only [↓fr_mk_iff]
    | with_reducible apply fr_ite
    | split

theorem execLinkSendTimer_fr (n : Nat) (s : State) (hs : Fr V M s0 s) (key0 : ∀ u0, V (LNK.MESH_RESP u0)) (key1 : V (TMU.EVFLAGS)) (key2 : ∀ u0, V (TMU.LANE_FLAGS u0)) (key3 : ∀ u0, V (TMU.TXTS_LOST u0)) (key4 : ∀ u0, V (TMU.TXTS_MADE u0)) (key5 : ∀ u0, V (TMU.TXTS_READ u0)) :
    FrOut V M s0 (execLinkSendTimer n s) := by
  unfold execLinkSendTimer
  repeat' first
    | with_reducible intro _
    | with_reducible assumption
    | with_reducible apply key0
    | with_reducible apply key2
    | with_reducible apply key3
    | with_reducible apply key4
    | with_reducible apply key5
    | with_reducible apply unitCmd_fr
    | with_reducible apply trySend_fr
    | with_reducible apply upto_fr
    | with_reducible apply modLane_fr
    | with_reducible apply frOut_next
    | with_reducible apply frOut_fault
    | with_reducible apply frOut_ite
    | simp only [↓fr_mk_iff]
    | with_reducible apply fr_ite
    | split

theorem checkBit_fr (n c : Nat) (b : Bool) (s : State) (hs : Fr V M s0 s) (key0 : V (LNK.PRBS_BITS n)) (key1 : V (LNK.PRBS_ERR n)) (key2 : V (LNK.PRBS_RESYNC n)) (key3 : V (LNK.EVFLAGS n)) :
    Fr V M s0 (checkBit n c b s) := by
  unfold checkBit
  repeat' first
    | with_reducible intro _
    | with_reducible assumption
    | with_reducible apply key0
    | with_reducible apply key1
    | with_reducible apply key2
    | with_reducible apply key3
    | with_reducible apply lnkFlag_fr
    | with_reducible apply modLane_fr
    | with_reducible apply addTo_fr
    | simp only [↓fr_mk_iff]
    | with_reducible apply fr_ite
    | (extract_lets x; first | (with_reducible refine fr_cut (s := x) ?_ ?_; (on_goal 2 => clear_value x); (on_goal 1 => unfold x)) | (subst x))
    | split

set_option Elab.async false in
theorem execPrbsChecker_fr (n : Nat) (syms : List Nat) (s : State) (hs : Fr V M s0 s) (key0 : V (LNK.EVFLAGS n)) (key1 : V (LNK.PRBS_BITS n)) (key2 : V (LNK.PRBS_ERR n)) (key3 : V (LNK.PRBS_RESYNC n)) :
    FrOut V M s0 (execPrbsChecker n syms s) := by
  unfold execPrbsChecker
  repeat' first
    | with_reducible intro _
    | with_reducible assumption
    | with_reducible apply key0
    | with_reducible apply key1
    | with_reducible apply key2
    | with_reducible apply key3
    | with_reducible apply checkBit_fr
    | with_reducible apply modLane_fr
    | simp only [↓fr_mk_iff]
    | with_reducible apply fr_foldl
    | with_reducible apply fr_foldl_snd
    | with_reducible apply fr_ite
    | with_reducible apply frOut_next
    | with_reducible apply frOut_fault
    | with_reducible apply frOut_ite
    | with_reducible apply unitCmd_fr
    | (extract_lets x; first | (with_reducible refine fr_cut (s := x) ?_ ?_; (on_goal 2 => clear_value x); (on_goal 1 => unfold x)) | (subst x))
    | split

end Sys2Proof.Laws
end

