-- ==== Sys2Proof/Laws/FrameTmu.lean ====
section
/-! SUPPORT. Which members every operation of Machine/Tmu.lean can change, and whether it can change the memory. -/
namespace Sys2Proof.Laws
open Sys2Proof Sys2Proof.Machine
set_option linter.unusedVariables false
set_option linter.unusedTactic false
set_option linter.unreachableTactic false

variable {V : Nat → Prop} {M : Prop} {s0 : State}

theorem roleEff_fr (v : Nat) (s : State) (hs : Fr V M s0 s) (key0 : ∀ u0, V (DSP.STATE u0) := by first | assumption | simp only [*]) (key1 : V (HDI.APPLY_OUTCOME) := by first | assumption | simp only [*]) (key2 : V (HDI.MIRROR_STATE) := by first | assumption | simp only [*]) (key3 : V (HDI.STATUS) := by first | assumption | simp only [*]) (key4 : ∀ u0, V (TMU.AP_STATE u0) := by first | assumption | simp only [*]) (key5 : V (TMU.EVFLAGS) := by first | assumption | simp only [*]) (key6 : V (TMU.ROLE) := by first | assumption | simp only [*]) (key7 : V (TMU.STATUS) := by first | assumption | simp only [*]) (key8 : ∀ u0, V (TMU.TRG_STATE u0) := by first | assumption | simp only [*]) (key9 : ∀ u0, V (VEN.FLAGS u0) := by first | assumption | simp only [*]) (key10 : ∀ u0, V (VEN.STATE u0) := by first | assumption | simp only [*]) :
    Fr V M s0 (roleEff v s) := by
  unfold roleEff
  repeat' first
    | with_reducible intro _
    | with_reducible assumption
    | with_reducible apply key0
    | with_reducible apply key1
    | with_reducible apply key2
    | with_reducible apply key3
    | with_reducible apply key4
    | with_reducible apply key5
    | with_reducible apply key6
    | with_reducible apply key7
    | with_reducible apply key8
    | with_reducible apply key9
    | with_reducible apply key10
    | with_reducible apply validFall_fr
    | with_reducible apply validRise_fr
    | with_reducible apply modTmu_fr
    | with_reducible apply setBit_fr
    | with_reducible apply wr_fr
    | simp only [↓fr_mk_iff]
    | with_reducible apply fr_ite
    | (extract_lets x; first | (with_reducible refine fr_cut (s := x) ?_ ?_; (on_goal 2 => clear_value x); (on_goal 1 => unfold x)) | (subst x))
    | split

theorem execTmuRoleWrite_fr (q : Req) (v : Nat) (s : State) (hs : Fr V M s0 s) (key0 : ∀ u0, V (DSP.STATE u0)) (key1 : V (HDI.APPLY_OUTCOME)) (key2 : V (HDI.MIRROR_STATE)) (key3 : ∀ u0, V (HDI.STATS u0)) (key4 : V (HDI.STATUS)) (key5 : ∀ u0, V (TMU.AP_STATE u0)) (key6 : V (TMU.EVFLAGS)) (key7 : V (TMU.ROLE)) (key8 : V (TMU.STATUS)) (key9 : ∀ u0, V (TMU.TRG_STATE u0)) (key10 : ∀ u0, V (VEN.FLAGS u0)) (key11 : ∀ u0, V (VEN.STATE u0)) :
    FrOut V M s0 (execTmuRoleWrite q v s) := by
  unfold execTmuRoleWrite
  repeat' first
    | with_reducible intro _
    | with_reducible assumption
    | with_reducible apply key0
    | with_reducible apply key3
    | with_reducible apply key5
    | with_reducible apply key9
    | with_reducible apply key10
    | with_reducible apply key11
    | with_reducible apply writeTo_fr
    | with_reducible apply roleEff_fr
    | with_reducible apply frOut_next
    | with_reducible apply frOut_fault

theorem execIncrWrite_fr (q : Req) (v : Nat) (s : State) (hs : Fr V M s0 s) (key0 : ∀ u0, V (HDI.STATS u0)) (key1 : V (TMU.INCR)) :
    FrOut V M s0 (execIncrWrite q v s) := by
  unfold execIncrWrite
  repeat' first
    | with_reducible intro _
    | with_reducible assumption
    | with_reducible apply key0
    | with_reducible apply writeTo_fr
    | with_reducible apply setIncr_fr
    | with_reducible apply frOut_next
    | with_reducible apply frOut_fault

theorem stepWrite_fr (q : Req) (v : Nat) (s : State) (hs : Fr V M s0 s) (key0 : ∀ u0, V (HDI.STATS u0)) (key1 : V (TMU.EVFLAGS)) (key2 : V (TMU.STEPS)) (key3 : V (TMU.STEPS_REFUSED)) :
    Fr V M s0 (stepWrite q v s) := by
  unfold stepWrite
  repeat' first
    | with_reducible intro _
    | with_reducible assumption
    | with_reducible apply key0
    | with_reducible apply writeTo_fr
    | with_reducible apply stepBy_fr
    | with_reducible apply stepRefused_fr
    | with_reducible apply fr_ite
    | (extract_lets x; first | (with_reducible refine fr_cut (s := x) ?_ ?_; (on_goal 2 => clear_value x); (on_goal 1 => unfold x)) | (subst x))
    | split

theorem execTmuStep_fr (q : Req) (v : Nat) (s : State) (hs : Fr V M s0 s) (key0 : ∀ u0, V (HDI.STATS u0)) (key1 : V (TMU.EVFLAGS)) (key2 : V (TMU.STEPS)) (key3 : V (TMU.STEPS_REFUSED)) :
    FrOut V M s0 (execTmuStep q v s) := by
  unfold execTmuStep
  repeat' first
    | with_reducible intro _
    | with_reducible assumption
    | with_reducible apply key0
    | with_reducible apply stepWrite_fr
    | with_reducible apply frOut_next
    | with_reducible apply frOut_fault

theorem execTmuSet_fr (q : Req) (v : Nat) (s : State) (hs : Fr V M s0 s) (key0 : ∀ u0, V (HDI.STATS u0)) (key1 : V (TMU.EVFLAGS)) (key2 : V (TMU.STEPS)) :
    FrOut V M s0 (execTmuSet q v s) := by
  unfold execTmuSet
  repeat' first
    | with_reducible intro _
    | with_reducible assumption
    | with_reducible apply key0
    | with_reducible apply writeTo_fr
    | with_reducible apply stepTo_fr
    | with_reducible apply frOut_next
    | with_reducible apply frOut_fault

theorem execExchangeStart_fr (s : State) (hs : Fr V M s0 s) (key0 : ∀ u0, V (LNK.MESH_RESP u0)) (key1 : V (TMU.EVFLAGS)) (key2 : ∀ u0, V (TMU.LANE_FLAGS u0)) (key3 : ∀ u0, V (TMU.TXTS_LOST u0)) (key4 : ∀ u0, V (TMU.TXTS_MADE u0)) (key5 : ∀ u0, V (TMU.TXTS_READ u0)) :
    FrOut V M s0 (execExchangeStart s) := by
  unfold execExchangeStart
  repeat' first
    | with_reducible intro _
    | with_reducible assumption
    | with_reducible apply key0
    | with_reducible apply key2
    | with_reducible apply key3
    | with_reducible apply key4
    | with_reducible apply key5
    | with_reducible apply upto_fr
    | with_reducible apply modTmu_fr
    | with_reducible apply trySend_fr
    | with_reducible apply modLane_fr
    | with_reducible apply frOut_next
    | with_reducible apply frOut_fault
    | with_reducible apply frOut_ite
    | simp only [↓fr_mk_iff]
    | with_reducible apply fr_ite
    | with_reducible apply fr_foldl
    | (extract_lets x; first | (with_reducible refine fr_cut (s := x) ?_ ?_; (on_goal 2 => clear_value x); (on_goal 1 => unfold x)) | (subst x))
    | split

theorem execTimeMessage_fr (n : Nat) (s : State) (hs : Fr V M s0 s) (key0 : ∀ u0, V (LNK.MESH_RESP u0)) (key1 : V (TMU.EVFLAGS)) (key2 : ∀ u0, V (TMU.LANE_FLAGS u0)) (key3 : V (TMU.RX_LOST n)) (key4 : ∀ u0, V (TMU.TXTS_LOST u0)) (key5 : ∀ u0, V (TMU.TXTS_MADE u0)) (key6 : ∀ u0, V (TMU.TXTS_READ u0)) :
    FrOut V M s0 (execTimeMessage n s) := by
  unfold execTimeMessage
  repeat' first
    | with_reducible intro _
    | with_reducible assumption
    | with_reducible apply key0
    | with_reducible apply key1
    | with_reducible apply key2
    | with_reducible apply key3
    | with_reducible apply key4
    | with_reducible apply key5
    | with_reducible apply key6
    | with_reducible apply takeMsg_fr
    | with_reducible apply trySend_fr
    | with_reducible apply laneFlag_fr
    | with_reducible apply modLaneTime_fr
    | with_reducible apply bump_fr
    | simp only [↓fr_mk_iff]
    | with_reducible apply fr_ite
    | with_reducible apply frOut_next
    | with_reducible apply frOut_fault
    | with_reducible apply frOut_ite
    | with_reducible apply unitCmd_fr
    | (extract_lets x; first | (with_reducible refine fr_cut (s := x) ?_ ?_; (on_goal 2 => clear_value x); (on_goal 1 => unfold x)) | (subst x))
    | split

theorem helper_fr (n type : Nat) (act : TimeIn → State → State) (s : State) (hact : ∀ (y0 : TimeIn) (y1 : State), Fr V M s0 y1 → Fr V M s0 (act y0 y1)) (hs : Fr V M s0 s) :
    FrOut V M s0 (helper n type act s) := by
  unfold helper
  repeat' first
    | with_reducible intro _
    | with_reducible assumption
    | with_reducible apply hact
    | with_reducible apply unitCmd_fr
    | with_reducible apply modLaneTime_fr
    | with_reducible apply frOut_next
    | with_reducible apply frOut_fault
    | with_reducible apply frOut_ite
    | simp only [↓fr_mk_iff]
    | with_reducible apply fr_ite
    | split

theorem execSync_fr (n : Nat) (s : State) (hs : Fr V M s0 s) :
    FrOut V M s0 (execSync n s) := by
  unfold execSync
  repeat' first
    | with_reducible intro _
    | with_reducible assumption
    | with_reducible apply helper_fr
    | with_reducible apply modTmu_fr
    | with_reducible apply frOut_next
    | with_reducible apply frOut_fault
    | with_reducible apply frOut_ite
    | simp only [↓fr_mk_iff]
    | with_reducible apply fr_ite
    | split

theorem execFollow_fr (n : Nat) (s : State) (hs : Fr V M s0 s) (key0 : ∀ u0, V (LNK.MESH_RESP u0)) (key1 : V (TMU.EVFLAGS)) (key2 : V (TMU.GM_SERIAL)) (key3 : V (TMU.HOPS)) (key4 : ∀ u0, V (TMU.LANE_FLAGS u0)) (key5 : ∀ u0, V (TMU.TXTS_LOST u0)) (key6 : ∀ u0, V (TMU.TXTS_MADE u0)) (key7 : ∀ u0, V (TMU.TXTS_READ u0)) :
    FrOut V M s0 (execFollow n s) := by
  unfold execFollow
  repeat' first
    | with_reducible intro _
    | with_reducible assumption
    | with_reducible apply key0
    | with_reducible apply key4
    | with_reducible apply key5
    | with_reducible apply key6
    | with_reducible apply key7
    | with_reducible apply helper_fr
    | with_reducible apply tmuFlag_fr
    | with_reducible apply wr_fr
    | with_reducible apply modTmu_fr
    | with_reducible apply trySend_fr
    | with_reducible apply modLane_fr
    | with_reducible apply frOut_next
    | with_reducible apply frOut_fault
    | with_reducible apply frOut_ite
    | simp only [↓fr_mk_iff]
    | with_reducible apply fr_ite
    | (extract_lets x; first | (with_reducible refine fr_cut (s := x) ?_ ?_; (on_goal 2 => clear_value x); (on_goal 1 => unfold x)) | (subst x))
    | split

theorem execDreq_fr (n : Nat) (s : State) (hs : Fr V M s0 s) (key0 : ∀ u0, V (LNK.MESH_RESP u0)) (key1 : V (TMU.EVFLAGS)) (key2 : ∀ u0, V (TMU.LANE_FLAGS u0)) (key3 : ∀ u0, V (TMU.TXTS_LOST u0)) (key4 : ∀ u0, V (TMU.TXTS_MADE u0)) (key5 : ∀ u0, V (TMU.TXTS_READ u0)) :
    FrOut V M s0 (execDreq n s) := by
  unfold execDreq
  repeat' first
    | with_reducible intro _
    | with_reducible assumption
    | with_reducible apply key0
    | with_reducible apply key2
    | with_reducible apply key3
    | with_reducible apply key4
    | with_reducible apply key5
    | with_reducible apply helper_fr
    | with_reducible apply trySend_fr
    | with_reducible apply modLane_fr
    | with_reducible apply frOut_next
    | with_reducible apply frOut_fault
    | with_reducible apply frOut_ite
    | simp only [↓fr_mk_iff]
    | with_reducible apply fr_ite
    | split

theorem slew_fr (theta : Int) (s : State) (hs : Fr V M s0 s) (key0 : V (TMU.INCR)) :
    Fr V M s0 (slew theta s) := by
  unfold slew
  repeat' first
    | with_reducible intro _
    | with_reducible assumption
    | with_reducible apply setIncr_fr
    | with_reducible apply modTmu_fr
    | simp only [↓fr_mk_iff]
    | (extract_lets x; first | (with_reducible refine fr_cut (s := x) ?_ ?_; (on_goal 2 => clear_value x); (on_goal 1 => unfold x)) | (subst x))

theorem countLock_fr (theta : Int) (s : State) (hs : Fr V M s0 s) (key0 : V (HDI.STATUS)) (key1 : V (TMU.EVFLAGS)) (key2 : V (TMU.STATUS)) :
    Fr V M s0 (countLock theta s) := by
  unfold countLock
  repeat' first
    | with_reducible intro _
    | with_reducible assumption
    | with_reducible apply modTmu_fr
    | with_reducible apply validRise_fr
    | with_reducible apply setBit_fr
    | simp only [↓fr_mk_iff]
    | with_reducible apply fr_ite
    | (extract_lets x; first | (with_reducible refine fr_cut (s := x) ?_ ?_; (on_goal 2 => clear_value x); (on_goal 1 => unfold x)) | (subst x))
    | split

theorem servo_fr (theta : Int) (s : State) (hs : Fr V M s0 s) (key0 : V (HDI.STATUS)) (key1 : V (TMU.EVFLAGS)) (key2 : V (TMU.INCR)) (key3 : V (TMU.STATUS)) (key4 : V (TMU.STEPS)) (key5 : V (TMU.STEPS_REFUSED)) :
    Fr V M s0 (servo theta s) := by
  unfold servo
  repeat' first
    | with_reducible intro _
    | with_reducible assumption
    | with_reducible apply countLock_fr
    | with_reducible apply slew_fr
    | with_reducible apply stepRefused_fr
    | with_reducible apply modTmu_fr
    | with_reducible apply stepBy_fr
    | simp only [↓fr_mk_iff]
    | with_reducible apply fr_ite
    | split

theorem execDresp_fr (n : Nat) (s : State) (hs : Fr V M s0 s) (key0 : V (HDI.STATUS)) (key1 : V (TMU.DELAY)) (key2 : V (TMU.EVFLAGS)) (key3 : V (TMU.EXCHANGES)) (key4 : V (TMU.INCR)) (key5 : V (TMU.OFFSET)) (key6 : V (TMU.STATUS)) (key7 : V (TMU.STEPS)) (key8 : V (TMU.STEPS_REFUSED)) :
    FrOut V M s0 (execDresp n s) := by
  unfold execDresp
  repeat' first
    | with_reducible intro _
    | with_reducible assumption
    | with_reducible apply key0
    | with_reducible apply key1
    | with_reducible apply key2
    | with_reducible apply key3
    | with_reducible apply key4
    | with_reducible apply key5
    | with_reducible apply key6
    | with_reducible apply key7
    | with_reducible apply key8
    | with_reducible apply servo_fr
    | with_reducible apply helper_fr
    | with_reducible apply modTmu_fr
    | with_reducible apply bump_fr
    | with_reducible apply wr_fr
    | simp only [↓fr_mk_iff]
    | with_reducible apply fr_ite
    | with_reducible apply frOut_next
    | with_reducible apply frOut_fault
    | with_reducible apply frOut_ite
    | with_reducible apply unitCmd_fr
    | (extract_lets x; first | (with_reducible refine fr_cut (s := x) ?_ ?_; (on_goal 2 => clear_value x); (on_goal 1 => unfold x)) | (subst x))
    | split

theorem execExchangeTimeout_fr (s : State) (hs : Fr V M s0 s) (key0 : ∀ u0, V (DSP.STATE u0)) (key1 : V (HDI.APPLY_OUTCOME)) (key2 : V (HDI.MIRROR_STATE)) (key3 : V (HDI.STATUS)) (key4 : ∀ u0, V (TMU.AP_STATE u0)) (key5 : V (TMU.EVFLAGS)) (key6 : V (TMU.STATUS)) (key7 : ∀ u0, V (TMU.TRG_STATE u0)) (key8 : ∀ u0, V (VEN.FLAGS u0)) (key9 : ∀ u0, V (VEN.STATE u0)) :
    FrOut V M s0 (execExchangeTimeout s) := by
  unfold execExchangeTimeout
  repeat' first
    | with_reducible intro _
    | with_reducible assumption
    | with_reducible apply key0
    | with_reducible apply key4
    | with_reducible apply key7
    | with_reducible apply key8
    | with_reducible apply key9
    | with_reducible apply holdover_fr
    | with_reducible apply upto_fr
    | with_reducible apply frOut_next
    | with_reducible apply frOut_fault
    | with_reducible apply frOut_ite
    | with_reducible apply fr_ite
    | split

theorem txmsgEff_fr (n v : Nat) (s : State) (hs : Fr V M s0 s) (key0 : ∀ u0, V (LNK.MESH_RESP u0) := by first | assumption | simp only [*]) (key1 : V (TMU.EVFLAGS) := by first | assumption | simp only [*]) (key2 : ∀ u0, V (TMU.LANE_FLAGS u0) := by first | assumption | simp only [*]) (key3 : ∀ u0, V (TMU.TXTS_LOST u0) := by first | assumption | simp only [*]) (key4 : ∀ u0, V (TMU.TXTS_MADE u0) := by first | assumption | simp only [*]) (key5 : ∀ u0, V (TMU.TXTS_READ u0) := by first | assumption | simp only [*]) :
    Fr V M s0 (txmsgEff n v s) := by
  unfold txmsgEff
  repeat' first
    | with_reducible intro _
    | with_reducible assumption
    | with_reducible apply key0
    | with_reducible apply key2
    | with_reducible apply key3
    | with_reducible apply key4
    | with_reducible apply key5
    | with_reducible apply trySend_fr
    | with_reducible apply modLane_fr
    | simp only [↓fr_mk_iff]

theorem execTxmsg_fr (q : Req) (n v : Nat) (s : State) (hs : Fr V M s0 s) (key0 : ∀ u0, V (HDI.STATS u0)) (key1 : ∀ u0, V (LNK.MESH_RESP u0)) (key2 : V (TMU.EVFLAGS)) (key3 : ∀ u0, V (TMU.LANE_FLAGS u0)) (key4 : ∀ u0, V (TMU.TXTS_LOST u0)) (key5 : ∀ u0, V (TMU.TXTS_MADE u0)) (key6 : ∀ u0, V (TMU.TXTS_READ u0)) :
    FrOut V M s0 (execTxmsg q n v s) := by
  unfold execTxmsg
  repeat' first
    | with_reducible intro _
    | with_reducible assumption
    | with_reducible apply key0
    | with_reducible apply key1
    | with_reducible apply key3
    | with_reducible apply key4
    | with_reducible apply key5
    | with_reducible apply key6
    | with_reducible apply unitCmd_fr
    | with_reducible apply writeTo_fr
    | with_reducible apply txmsgEff_fr
    | with_reducible apply frOut_next
    | with_reducible apply frOut_fault

theorem txtsEff_fr (n : Nat) (s : State) (hs : Fr V M s0 s) (key0 : V (TMU.TXTS_READ n) := by first | assumption | simp only [*]) :
    Fr V M s0 (txtsEff n s) := by
  unfold txtsEff
  repeat' first
    | with_reducible intro _
    | with_reducible assumption
    | with_reducible apply bump_fr
    | with_reducible apply modLaneTime_fr
    | simp only [↓fr_mk_iff]

theorem execTxts_fr (q : Req) (n : Nat) (s : State) (hs : Fr V M s0 s) (key0 : ∀ u0, V (HDI.STATS u0)) (key1 : V (TMU.TXTS_READ n)) :
    FrOut V M s0 (execTxts q n s) := by
  unfold execTxts
  repeat' first
    | with_reducible intro _
    | with_reducible assumption
    | with_reducible apply key0
    | with_reducible apply unitCmd_fr
    | with_reducible apply readFrom_fr
    | with_reducible apply txtsEff_fr
    | with_reducible apply frOut_next
    | with_reducible apply frOut_fault

theorem rxmsgEff_fr (n : Nat) (s : State) (hs : Fr V M s0 s) :
    Fr V M s0 (rxmsgEff n s) := by
  unfold rxmsgEff
  repeat' first
    | with_reducible intro _
    | with_reducible assumption
    | with_reducible apply modLaneTime_fr
    | simp only [↓fr_mk_iff]

theorem execRxmsg_fr (q : Req) (n : Nat) (s : State) (hs : Fr V M s0 s) (key0 : ∀ u0, V (HDI.STATS u0)) :
    FrOut V M s0 (execRxmsg q n s) := by
  unfold execRxmsg
  repeat' first
    | with_reducible intro _
    | with_reducible assumption
    | with_reducible apply key0
    | with_reducible apply unitCmd_fr
    | with_reducible apply readFrom_fr
    | with_reducible apply rxmsgEff_fr
    | with_reducible apply frOut_next
    | with_reducible apply frOut_fault

theorem setApK_fr (a k : Nat) (s : State) (hs : Fr V M s0 s) :
    Fr V M s0 (setApK a k s) := by
  unfold setApK
  repeat' first
    | with_reducible intro _
    | with_reducible assumption
    | with_reducible apply modTmu_fr
    | simp only [↓fr_mk_iff]

theorem apArmEff_fr (a : Nat) (s : State) (hs : Fr V M s0 s) (key0 : V (TMU.AP_STATE a)) :
    Fr V M s0 (apArmEff a s) := by
  unfold apArmEff
  repeat' first
    | with_reducible intro _
    | with_reducible assumption
    | with_reducible apply setApK_fr
    | with_reducible apply wr_fr
    | with_reducible apply fr_ite
    | split

theorem execApertureArm_fr (q : Req) (a : Nat) (s : State) (hs : Fr V M s0 s) (key0 : ∀ u0, V (HDI.STATS u0)) (key1 : V (TMU.AP_STATE a)) :
    FrOut V M s0 (execApertureArm q a s) := by
  unfold execApertureArm
  repeat' first
    | with_reducible intro _
    | with_reducible assumption
    | with_reducible apply key0
    | with_reducible apply unitCmd_fr
    | with_reducible apply command_fr
    | with_reducible apply apArmEff_fr
    | with_reducible apply frOut_next
    | with_reducible apply frOut_fault

theorem apDisarmEff_fr (a : Nat) (s : State) (hs : Fr V M s0 s) (key0 : V (TMU.AP_STATE a)) :
    Fr V M s0 (apDisarmEff a s) := by
  unfold apDisarmEff
  repeat' first
    | with_reducible intro _
    | with_reducible assumption
    | with_reducible apply wr_fr

theorem execApertureDisarm_fr (q : Req) (a : Nat) (s : State) (hs : Fr V M s0 s) (key0 : ∀ u0, V (HDI.STATS u0)) (key1 : V (TMU.AP_STATE a)) :
    FrOut V M s0 (execApertureDisarm q a s) := by
  unfold execApertureDisarm
  repeat' first
    | with_reducible intro _
    | with_reducible assumption
    | with_reducible apply key0
    | with_reducible apply unitCmd_fr
    | with_reducible apply command_fr
    | with_reducible apply apDisarmEff_fr
    | with_reducible apply frOut_next
    | with_reducible apply frOut_fault

theorem aperturePulses_fr (a : Nat) (s : State) (hs : Fr V M s0 s) (key0 : ∀ u0, V (TMU.TRG_FIRED u0)) :
    Fr V M s0 (aperturePulses a s) := by
  unfold aperturePulses
  repeat' first
    | with_reducible intro _
    | with_reducible assumption
    | with_reducible apply key0
    | with_reducible apply bump_fr
    | with_reducible apply fr_ite
    | with_reducible apply fr_foldl
    | split

theorem execApertureOpen_fr (a : Nat) (s : State) (hs : Fr V M s0 s) (key0 : V (TMU.AP_OPENS a)) (key1 : V (TMU.AP_STATE a)) (key2 : V (TMU.EVFLAGS)) (key3 : ∀ u0, V (TMU.TRG_FIRED u0)) :
    FrOut V M s0 (execApertureOpen a s) := by
  unfold execApertureOpen
  repeat' first
    | with_reducible intro _
    | with_reducible assumption
    | with_reducible apply key0
    | with_reducible apply key1
    | with_reducible apply key2
    | with_reducible apply key3
    | with_reducible apply aperturePulses_fr
    | with_reducible apply setApK_fr
    | with_reducible apply tmuFlag_fr
    | with_reducible apply upto_fr
    | with_reducible apply bump_fr
    | with_reducible apply wr_fr
    | simp only [↓fr_mk_iff]
    | with_reducible apply fr_ite
    | with_reducible apply frOut_next
    | with_reducible apply frOut_fault
    | with_reducible apply frOut_ite
    | with_reducible apply unitCmd_fr
    | (extract_lets x; first | (with_reducible refine fr_cut (s := x) ?_ ?_; (on_goal 2 => clear_value x); (on_goal 1 => unfold x)) | (subst x))
    | split

theorem execApertureClose_fr (a : Nat) (s : State) (hs : Fr V M s0 s) (key0 : V (TMU.AP_STATE a)) :
    FrOut V M s0 (execApertureClose a s) := by
  unfold execApertureClose
  repeat' first
    | with_reducible intro _
    | with_reducible assumption
    | with_reducible apply key0
    | with_reducible apply setApK_fr
    | with_reducible apply upto_fr
    | with_reducible apply wr_fr
    | simp only [↓fr_mk_iff]
    | with_reducible apply fr_ite
    | with_reducible apply frOut_next
    | with_reducible apply frOut_fault
    | with_reducible apply frOut_ite
    | with_reducible apply unitCmd_fr
    | (extract_lets x; first | (with_reducible refine fr_cut (s := x) ?_ ?_; (on_goal 2 => clear_value x); (on_goal 1 => unfold x)) | (subst x))
    | split

theorem trgArmEff_fr (t : Nat) (s : State) (hs : Fr V M s0 s) (key0 : V (TMU.TRG_STATE t)) (key1 : V (TMU.TRG_FIRED t)) :
    Fr V M s0 (trgArmEff t s) := by
  unfold trgArmEff
  repeat' first
    | with_reducible intro _
    | with_reducible assumption
    | with_reducible apply key0
    | with_reducible apply key1
    | with_reducible apply modTrg_fr
    | with_reducible apply bump_fr
    | with_reducible apply wr_fr
    | simp only [↓fr_mk_iff]
    | with_reducible apply fr_ite
    | (extract_lets x; first | (with_reducible refine fr_cut (s := x) ?_ ?_; (on_goal 2 => clear_value x); (on_goal 1 => unfold x)) | (subst x))
    | split

theorem trgDisarmEff_fr (t : Nat) (s : State) (hs : Fr V M s0 s) (key0 : V (TMU.TRG_STATE t)) :
    Fr V M s0 (trgDisarmEff t s) := by
  unfold trgDisarmEff
  repeat' first
    | with_reducible intro _
    | with_reducible assumption
    | with_reducible apply wr_fr
    | with_reducible apply modTrg_fr

theorem execTriggerArm_fr (q : Req) (t : Nat) (s : State) (hs : Fr V M s0 s) (key0 : ∀ u0, V (HDI.STATS u0)) (key1 : V (TMU.TRG_STATE t)) (key2 : V (TMU.TRG_FIRED t)) :
    FrOut V M s0 (execTriggerArm q t s) := by
  unfold execTriggerArm
  repeat' first
    | with_reducible intro _
    | with_reducible assumption
    | with_reducible apply key0
    | with_reducible apply key1
    | with_reducible apply key2
    | with_reducible apply trgArmEff_fr
    | with_reducible apply command_fr
    | simp only [↓fr_mk_iff]
    | with_reducible apply fr_ite
    | with_reducible apply frOut_next
    | with_reducible apply frOut_fault
    | with_reducible apply frOut_ite
    | with_reducible apply unitCmd_fr
    | (extract_lets x; first | (with_reducible refine fr_cut (s := x) ?_ ?_; (on_goal 2 => clear_value x); (on_goal 1 => unfold x)) | (subst x))
    | split

theorem execTriggerDisarm_fr (q : Req) (t : Nat) (s : State) (hs : Fr V M s0 s) (key0 : ∀ u0, V (HDI.STATS u0)) (key1 : V (TMU.TRG_STATE t)) :
    FrOut V M s0 (execTriggerDisarm q t s) := by
  unfold execTriggerDisarm
  repeat' first
    | with_reducible intro _
    | with_reducible assumption
    | with_reducible apply key0
    | with_reducible apply unitCmd_fr
    | with_reducible apply command_fr
    | with_reducible apply trgDisarmEff_fr
    | with_reducible apply frOut_next
    | with_reducible apply frOut_fault

theorem execTriggerPulse_fr (t : Nat) (s : State) (hs : Fr V M s0 s) (key0 : V (TMU.EVFLAGS)) (key1 : V (TMU.TRG_FIRED t)) (key2 : V (TMU.TRG_MISSED t)) (key3 : V (TMU.TRG_STATE t)) :
    FrOut V M s0 (execTriggerPulse t s) := by
  unfold execTriggerPulse
  repeat' first
    | with_reducible intro _
    | with_reducible assumption
    | with_reducible apply unitCmd_fr
    | with_reducible apply tmuFlag_fr
    | with_reducible apply upto_fr
    | with_reducible apply bump_fr
    | with_reducible apply wr_fr
    | with_reducible apply modTrg_fr
    | with_reducible apply frOut_next
    | with_reducible apply frOut_fault
    | with_reducible apply frOut_ite
    | simp only [↓fr_mk_iff]
    | with_reducible apply fr_ite
    | (extract_lets x; first | (with_reducible refine fr_cut (s := x) ?_ ?_; (on_goal 2 => clear_value x); (on_goal 1 => unfold x)) | (subst x))
    | split

theorem setTrgi_fr (t : Nat) (high : Bool) (s : State) (hs : Fr V M s0 s) :
    Fr V M s0 (setTrgi t high s) := by
  unfold setTrgi
  repeat' first
    | with_reducible intro _
    | with_reducible assumption
    | simp only [↓fr_mk_iff]
    | with_reducible apply fr_ite
    | (extract_lets x; first | (with_reducible refine fr_cut (s := x) ?_ ?_; (on_goal 2 => clear_value x); (on_goal 1 => unfold x)) | (subst x))
    | split

theorem takeCapture_fr (t stamp : Nat) (rising : Bool) (s : State) (hs : Fr V M s0 s) (key0 : V (TMU.CAP_LOST t)) (key1 : V (TMU.CAP_TAKEN t)) (key2 : V (TMU.EVFLAGS)) :
    Fr V M s0 (takeCapture t stamp rising s) := by
  unfold takeCapture
  repeat' first
    | with_reducible intro _
    | with_reducible assumption
    | with_reducible apply bump_fr
    | with_reducible apply tmuFlag_fr
    | with_reducible apply modCap_fr
    | simp only [↓fr_mk_iff]
    | with_reducible apply fr_ite
    | (extract_lets x; first | (with_reducible refine fr_cut (s := x) ?_ ?_; (on_goal 2 => clear_value x); (on_goal 1 => unfold x)) | (subst x))
    | split

theorem execCaptureEdge_fr (t : Nat) (rising : Bool) (s : State) (hs : Fr V M s0 s) (key0 : V (TMU.CAP_LOST t)) (key1 : V (TMU.CAP_TAKEN t)) (key2 : V (TMU.EVFLAGS)) :
    FrOut V M s0 (execCaptureEdge t rising s) := by
  unfold execCaptureEdge
  repeat' first
    | with_reducible intro _
    | with_reducible assumption
    | with_reducible apply unitCmd_fr
    | with_reducible apply setTrgi_fr
    | with_reducible apply drawn_fr
    | with_reducible apply modCap_fr
    | with_reducible apply takeCapture_fr
    | with_reducible apply frOut_next
    | with_reducible apply frOut_fault
    | with_reducible apply frOut_ite
    | simp only [↓fr_mk_iff]
    | with_reducible apply fr_ite
    | (extract_lets x; first | (with_reducible refine fr_cut (s := x) ?_ ?_; (on_goal 2 => clear_value x); (on_goal 1 => unfold x)) | (subst x))
    | split

theorem capEff_fr (t : Nat) (s : State) (hs : Fr V M s0 s) :
    Fr V M s0 (capEff t s) := by
  unfold capEff
  repeat' first
    | with_reducible intro _
    | with_reducible assumption
    | with_reducible apply modCap_fr
    | simp only [↓fr_mk_iff]

theorem execCapPop_fr (q : Req) (t : Nat) (s : State) (hs : Fr V M s0 s) (key0 : ∀ u0, V (HDI.STATS u0)) :
    FrOut V M s0 (execCapPop q t s) := by
  unfold execCapPop
  repeat' first
    | with_reducible intro _
    | with_reducible assumption
    | with_reducible apply key0
    | with_reducible apply unitCmd_fr
    | with_reducible apply readFrom_fr
    | with_reducible apply capEff_fr
    | with_reducible apply frOut_next
    | with_reducible apply frOut_fault

theorem schedStart_fr (e : Nat) (x : Sched) (s : State) (hs : Fr V M s0 s) :
    Fr V M s0 (schedStart e x s) := by
  unfold schedStart
  repeat' first
    | with_reducible intro _
    | with_reducible assumption
    | with_reducible apply modDsp_fr
    | with_reducible apply modVe_fr
    | simp only [↓fr_mk_iff]
    | with_reducible apply fr_ite
    | split

set_option Elab.async false in
theorem execScheduleFire_fr (s : State) (hs : Fr V M s0 s) :
    FrOut V M s0 (execScheduleFire s) := by
  unfold execScheduleFire
  repeat' first
    | with_reducible intro _
    | with_reducible assumption
    | with_reducible apply upto_fr
    | with_reducible apply schedStart_fr
    | with_reducible apply frOut_next
    | with_reducible apply frOut_fault
    | simp only [↓fr_mk_iff]
    | with_reducible apply fr_foldl
    | (extract_lets x; first | (with_reducible refine fr_cut (s := x) ?_ ?_; (on_goal 2 => clear_value x); (on_goal 1 => unfold x)) | (subst x))
    | split

end Sys2Proof.Laws
end

