-- ==== Sys2Proof/Laws/FrameDsp.lean ====
section
/-! SUPPORT. Which members every operation of Machine/Dsp.lean can change, and whether it can change the memory. -/
namespace Sys2Proof.Laws
open Sys2Proof Sys2Proof.Machine
set_option linter.unusedVariables false
set_option linter.unusedTactic false
set_option linter.unreachableTactic false

variable {V : Nat → Prop} {M : Prop} {s0 : State}

theorem freezeDsp_fr (n t : Nat) (s : State) (hs : Fr V M s0 s) (key0 : V (DSP.CYCLES n)) (key1 : V (DSP.WDOG_LEFT n)) :
    Fr V M s0 (freezeDsp n t s) := by
  unfold freezeDsp
  repeat' first
    | with_reducible intro _
    | with_reducible assumption
    | with_reducible apply key0
    | with_reducible apply key1
    | with_reducible apply modDsp_fr
    | with_reducible apply addTo_fr
    | with_reducible apply wr_fr
    | simp only [↓fr_mk_iff]
    | with_reducible apply fr_ite
    | (extract_lets x; first | (with_reducible refine fr_cut (s := x) ?_ ?_; (on_goal 2 => clear_value x); (on_goal 1 => unfold x)) | (subst x))
    | split

theorem stalled_fr (n k : Nat) (s : State) (hs : Fr V M s0 s) (key0 : V (DSP.STALLS n)) :
    Fr V M s0 (stalled n k s) := by
  unfold stalled
  repeat' first
    | with_reducible intro _
    | with_reducible assumption
    | with_reducible apply addTo_fr

theorem waited_fr (n t : Nat) (s : State) (hs : Fr V M s0 s) (key0 : V (DSP.STALLS n)) :
    Fr V M s0 (waited n t s) := by
  unfold waited
  repeat' first
    | with_reducible intro _
    | with_reducible assumption
    | with_reducible apply key0
    | with_reducible apply stalled_fr
    | simp only [↓fr_mk_iff]
    | with_reducible apply fr_ite
    | (extract_lets x; first | (with_reducible refine fr_cut (s := x) ?_ ?_; (on_goal 2 => clear_value x); (on_goal 1 => unfold x)) | (subst x))
    | split

theorem dspStopAt_fr (n t c : Nat) (s : State) (hs : Fr V M s0 s) (key0 : V (DSP.CYCLES n)) (key1 : V (DSP.FLAGS n)) (key2 : V (DSP.MOVE_DROPPED n)) (key3 : V (DSP.STATE n)) (key4 : V (DSP.WDOG_LEFT n)) :
    Fr V M s0 (dspStopAt n t c s) := by
  unfold dspStopAt
  repeat' first
    | with_reducible intro _
    | with_reducible assumption
    | with_reducible apply key0
    | with_reducible apply key1
    | with_reducible apply key2
    | with_reducible apply key3
    | with_reducible apply key4
    | with_reducible apply freezeDsp_fr
    | with_reducible apply modDsp_fr
    | with_reducible apply modTgt_fr
    | with_reducible apply upto_fr
    | with_reducible apply setBit_fr
    | with_reducible apply raise_fr
    | with_reducible apply addTo_fr
    | with_reducible apply wr_fr
    | simp only [↓fr_mk_iff]
    | with_reducible apply fr_ite
    | (extract_lets x; first | (with_reducible refine fr_cut (s := x) ?_ ?_; (on_goal 2 => clear_value x); (on_goal 1 => unfold x)) | (subst x))
    | split

theorem dspFault_fr (n t cause pc : Nat) (s : State) (hs : Fr V M s0 s) (key0 : V (DSP.CYCLES n)) (key1 : V (DSP.FAULT n)) (key2 : V (DSP.FAULT_PC n)) (key3 : V (DSP.FLAGS n)) (key4 : V (DSP.MOVE_DROPPED n)) (key5 : V (DSP.STATE n)) (key6 : V (DSP.WDOG_LEFT n)) :
    Fr V M s0 (dspFault n t cause pc s) := by
  unfold dspFault
  repeat' first
    | with_reducible intro _
    | with_reducible assumption
    | with_reducible apply dspStopAt_fr
    | with_reducible apply wr_fr

theorem boundaryFault_fr (n e cause : Nat) (s : State) (hs : Fr V M s0 s) (key0 : V (DSP.CYCLES n)) (key1 : V (DSP.FAULT n)) (key2 : V (DSP.FAULT_PC n)) (key3 : V (DSP.FLAGS n)) (key4 : V (DSP.MOVE_DROPPED n)) (key5 : V (DSP.STATE n)) (key6 : V (DSP.WDOG_LEFT n)) (key7 : V (DSP.STALLS n)) :
    Fr V M s0 (boundaryFault n e cause s) := by
  unfold boundaryFault
  repeat' first
    | with_reducible intro _
    | with_reducible assumption
    | with_reducible apply key0
    | with_reducible apply key1
    | with_reducible apply key2
    | with_reducible apply key3
    | with_reducible apply key4
    | with_reducible apply key5
    | with_reducible apply key6
    | with_reducible apply key7
    | with_reducible apply dspFault_fr
    | with_reducible apply waited_fr
    | simp only [↓fr_mk_iff]
    | with_reducible apply fr_ite
    | (extract_lets x; first | (with_reducible refine fr_cut (s := x) ?_ ?_; (on_goal 2 => clear_value x); (on_goal 1 => unfold x)) | (subst x))
    | split

theorem dspStepCount_fr (n at' : Nat) (s : State) (hs : Fr V M s0 s) :
    Fr V M s0 (dspStepCount n at' s) := by
  unfold dspStepCount
  repeat' first
    | with_reducible intro _
    | with_reducible assumption
    | with_reducible apply modDsp_fr
    | with_reducible apply modTgt_fr
    | simp only [↓fr_mk_iff]
    | split

theorem retire_fr (n t cost next : Nat) (s : State) (hs : Fr V M s0 s) (key0 : V (DSP.FLAGS n)) (key1 : V (DSP.RPT_LEFT n)) :
    Fr V M s0 (retire n t cost next s) := by
  unfold retire
  repeat' first
    | with_reducible intro _
    | with_reducible assumption
    | with_reducible apply modDsp_fr
    | with_reducible apply wr_fr
    | with_reducible apply dspStepCount_fr
    | with_reducible apply setBit_fr
    | simp only [↓fr_mk_iff]
    | with_reducible apply fr_ite
    | (extract_lets x; first | (with_reducible refine fr_cut (s := x) ?_ ?_; (on_goal 2 => clear_value x); (on_goal 1 => unfold x)) | (subst x))
    | split

theorem stallOn_fr (n : Nat) (s : State) (hs : Fr V M s0 s) (key0 : V (DSP.STALLS n)) :
    Fr V M s0 (stallOn n s) := by
  unfold stallOn
  repeat' first
    | with_reducible intro _
    | with_reducible assumption
    | with_reducible apply stalled_fr
    | with_reducible apply modDsp_fr
    | simp only [↓fr_mk_iff]
    | with_reducible apply fr_ite
    | (extract_lets x; first | (with_reducible refine fr_cut (s := x) ?_ ?_; (on_goal 2 => clear_value x); (on_goal 1 => unfold x)) | (subst x))
    | split

theorem insnCommand_fr (n id : Nat) (act : (w pc t : Nat) → State → State) (s : State) (hs : Fr V M s0 s) (hact : ∀ (y0 : Nat) (y1 : Nat) (y2 : Nat) (y3 : State), Fr V M s0 y3 → Fr V M s0 (act y0 y1 y2 y3)) (key0 : ∀ u0, V (DBG.BRK_HITS u0)) (key1 : ∀ u0, V (DBG.BRK_STATE u0)) (key2 : V (DBG.EVFLAGS)) (key3 : V (DSP.CYCLES n)) (key4 : V (DSP.FAULT n)) (key5 : V (DSP.FAULT_PC n)) (key6 : V (DSP.FLAGS n)) (key7 : V (DSP.MOVE_DROPPED n)) (key8 : V (DSP.PC n)) (key9 : V (DSP.STALLS n)) (key10 : V (DSP.STATE n)) (key11 : V (DSP.WDOG_LEFT n)) :
    FrOut V M s0 (insnCommand n id act s) := by
  unfold insnCommand
  repeat' first
    | with_reducible intro _
    | with_reducible assumption
    | with_reducible apply hact
    | with_reducible apply key0
    | with_reducible apply key1
    | with_reducible apply key2
    | with_reducible apply key3
    | with_reducible apply key4
    | with_reducible apply key5
    | with_reducible apply key6
    | with_reducible apply key7
    | with_reducible apply key8
    | with_reducible apply key9
    | with_reducible apply key10
    | with_reducible apply key11
    | with_reducible apply stallOn_fr
    | with_reducible apply boundaryFault_fr
    | with_reducible apply dspFault_fr
    | with_reducible apply waited_fr
    | with_reducible apply brkMatch_fr
    | with_reducible apply modTgt_fr
    | with_reducible apply upto_fr
    | with_reducible apply wr_fr
    | simp only [↓fr_mk_iff]
    | with_reducible apply fr_ite
    | with_reducible apply frOut_next
    | with_reducible apply frOut_fault
    | with_reducible apply frOut_ite
    | with_reducible apply unitCmd_fr
    | (extract_lets x; first | (with_reducible refine fr_cut (s := x) ?_ ?_; (on_goal 2 => clear_value x); (on_goal 1 => unfold x)) | (subst x))
    | split

theorem fitElem_fr (n : Nat) (r : Int) (s : State) (hs : Fr V M s0 s) (key0 : V (DSP.FLAGS n)) :
    Fr V M s0 (fitElem n r s).2 := by
  unfold fitElem
  repeat' first
    | with_reducible intro _
    | with_reducible assumption
    | with_reducible apply setBit_fr
    | with_reducible apply fr_ite
    | split

theorem fitAcc_fr (n : Nat) (r : Int) (s : State) (hs : Fr V M s0 s) (key0 : V (DSP.FLAGS n)) :
    Fr V M s0 (fitAcc n r s).2 := by
  unfold fitAcc
  repeat' first
    | with_reducible intro _
    | with_reducible assumption
    | with_reducible apply setBit_fr
    | with_reducible apply fr_ite
    | split

theorem writeV_fr (n v : Nat) (block : Bool) (r : Nat → Int) (s : State) (hs : Fr V M s0 s) (key0 : V (DSP.BEXP n)) (key1 : V (DSP.FLAGS n)) :
    Fr V M s0 (writeV n v block r s) := by
  unfold writeV
  repeat' first
    | with_reducible intro _
    | with_reducible assumption
    | with_reducible apply fitElem_fr
    | with_reducible apply modDsp_fr
    | with_reducible apply wr_fr
    | simp only [↓fr_mk_iff]
    | with_reducible apply fr_ite
    | with_reducible apply fr_foldl
    | (extract_lets x; first | (with_reducible refine fr_cut (s := x) ?_ ?_; (on_goal 2 => clear_value x); (on_goal 1 => unfold x)) | (subst x))
    | split

theorem writeA_fr (n a : Nat) (r : Nat → Int) (s : State) (hs : Fr V M s0 s) (key0 : V (DSP.FLAGS n)) :
    Fr V M s0 (writeA n a r s) := by
  unfold writeA
  repeat' first
    | with_reducible intro _
    | with_reducible assumption
    | with_reducible apply fitAcc_fr
    | with_reducible apply modDsp_fr
    | simp only [↓fr_mk_iff]
    | with_reducible apply fr_foldl
    | (extract_lets x; first | (with_reducible refine fr_cut (s := x) ?_ ?_; (on_goal 2 => clear_value x); (on_goal 1 => unfold x)) | (subst x))

theorem runSlot_fr (n t : Nat) (ecc : Ecc) (d0 : DspRun) (x : Nat × Nat) (r : SlotRun) (hr : Fr V M s0 r.st) (key0 : ∀ u0, V (DBG.BRK_HITS u0) := by first | assumption | simp only [*]) (key1 : ∀ u0, V (DBG.BRK_STATE u0) := by first | assumption | simp only [*]) (key2 : V DBG.EVFLAGS := by first | assumption | simp only [*]) (key3 : ∀ u0, V (SCR.CE u0) := by first | assumption | simp only [*]) (key4 : ∀ u0, V (SCR.UE u0) := by first | assumption | simp only [*]) (key5 : ∀ u0, V (SCR.EVFLAGS u0) := by first | assumption | simp only [*]) (key6 : ∀ u0, V (SCR.COLLIDE u0) := by first | assumption | simp only [*]) (key7 : M := by first | assumption | simp only [*]) (key8 : ∀ u0, V (DSP.STALLS u0) := by first | assumption | simp only [*]) :
    Fr V M s0 (runSlot n t ecc d0 x r).st := by
  unfold runSlot
  extract_lets a b store p tc lo w s1 pt mine extra pt1 s2 at' e0 e1
  have h1 : Fr V M s0 s1 := brkMatch_fr _ _ _ _ _ _ _ hr key0 key1 key2
  have h0 : Fr V M s0 pt.2 := portTake_fr _ _ _ _ _ _ _ _ h1 (key6 _)
  have h2 : Fr V M s0 pt1.2 := fr_ite (portStall_fr _ _ _ h0 key8) h0
  have h3 : Fr V M s0 s2 := by
    show Fr V M s0 (match ecc with
      | .ce => scrFlag b 0 (pt1.2.bump 64 (SCR.CE b))
      | .ue | .multi => scrFlag b 1 (pt1.2.bump 64 (SCR.UE b))
      | .clean => pt1.2)
    cases ecc
    · exact h2
    · exact scrFlag_fr _ _ _ (bump_fr _ _ _ h2)
    · exact scrFlag_fr _ _ _ (bump_fr _ _ _ h2)
    · exact scrFlag_fr _ _ _ (bump_fr _ _ _ h2)
  split
  · exact fr_ite (store_fr _ _ _ _ h2) h2
  · split
    · exact h3
    · dsimp only
      exact modDsp_fr _ _ _ h3

theorem keepReg_fr (n : Nat) (d0 : DspRun) (x : Nat × Nat) (ecc : Ecc) (s : State) (hs : Fr V M s0 s) :
    Fr V M s0 (keepReg n d0 x ecc s) := by
  unfold keepReg
  repeat' first
    | with_reducible intro _
    | with_reducible assumption
    | with_reducible apply modDsp_fr
    | simp only [↓fr_mk_iff]
    | with_reducible apply fr_foldl
    | with_reducible apply fr_foldl_snd
    | with_reducible apply fr_ite
    | (extract_lets x; first | (with_reducible refine fr_cut (s := x) ?_ ?_; (on_goal 2 => clear_value x); (on_goal 1 => unfold x)) | (subst x))
    | split

theorem runSlots_fr (n t w : Nat) (ecc : List Ecc) (s : State) (hs : Fr V M s0 s) (key0 : ∀ u0, V (DBG.BRK_HITS u0) := by first | assumption | simp only [*]) (key1 : ∀ u0, V (DBG.BRK_STATE u0) := by first | assumption | simp only [*]) (key2 : V DBG.EVFLAGS := by first | assumption | simp only [*]) (key3 : ∀ u0, V (SCR.CE u0) := by first | assumption | simp only [*]) (key4 : ∀ u0, V (SCR.UE u0) := by first | assumption | simp only [*]) (key5 : ∀ u0, V (SCR.EVFLAGS u0) := by first | assumption | simp only [*]) (key6 : ∀ u0, V (SCR.COLLIDE u0) := by first | assumption | simp only [*]) (key7 : M := by first | assumption | simp only [*]) (key8 : ∀ u0, V (DSP.STALLS u0) := by first | assumption | simp only [*]) : Fr V M s0 (runSlots n t w ecc s).st := by
  unfold runSlots
  extract_lets d0 pm
  split
  · exact hs
  · dsimp only
    exact modDsp_fr _ _ _ (runSlot_fr n t _ d0 _ { st := s, arrive := t } hs key0 key1 key2 key3 key4 key5 key6 key7 key8)
  · rename_i x y _ _
    extract_lets bx by' same r1 r2 r3 s1 a s2
    have h1 : Fr V M s0 r1.st := runSlot_fr n t _ d0 _ { st := s, arrive := t } hs key0 key1 key2 key3 key4 key5 key6 key7 key8
    have h3 : Fr V M s0 r3.st := runSlot_fr n t _ d0 _ r2 h1 key0 key1 key2 key3 key4 key5 key6 key7 key8
    have hp : ∀ z u, Fr V M s0 u → Fr V M s0 (pm z u) := fun z u h => modDsp_fr _ _ _ h
    have hs1 : Fr V M s0 s1 := hp _ _ (hp _ _ h3)
    have hs2 : Fr V M s0 s2 := fr_ite (fr_ite (hp _ _ hs1) (fr_ite hs1 (drawn_fr _ (modDsp_fr _ _ _ hs1)))) hs1
    split
    · exact keepReg_fr n d0 y (eccOf ecc y.1) _ (keepReg_fr n d0 x (eccOf ecc x.1) s2 hs2)
    · split
      · exact drawn_fr _ (drawn_fr _ (fr_ite (modDsp_fr _ _ _ hs2) hs2))
      · exact hs2

theorem macAct_fr (n : Nat) (ecc : List Ecc) (f : Int → Int → Int) (w pc t : Nat) (s : State) (hs : Fr V M s0 s) (key0 : ∀ u0, V (DBG.BRK_HITS u0)) (key1 : ∀ u0, V (DBG.BRK_STATE u0)) (key2 : V (DBG.EVFLAGS)) (key3 : V (DSP.CYCLES n)) (key4 : V (DSP.FAULT n)) (key5 : V (DSP.FAULT_PC n)) (key6 : V (DSP.FLAGS n)) (key7 : V (DSP.MOVE_DROPPED n)) (key8 : V (DSP.RPT_LEFT n)) (key9 : V (DSP.STATE n)) (key10 : V (DSP.WDOG_LEFT n)) (key11 : M) (key12 : ∀ u0, V (SCR.CE u0)) (key13 : ∀ u0, V (SCR.COLLIDE u0)) (key14 : ∀ u0, V (SCR.EVFLAGS u0)) (key15 : ∀ u0, V (SCR.UE u0)) (key16 : ∀ u0, V (DSP.STALLS u0)) :
    Fr V M s0 (macAct n ecc f w pc t s) := by
  unfold macAct
  repeat' first
    | with_reducible intro _
    | with_reducible assumption
    | with_reducible apply key0
    | with_reducible apply key1
    | with_reducible apply key2
    | with_reducible apply key3
    | with_reducible apply key4
    | with_reducible apply key5
    | with_reducible apply key6
    | with_reducible apply key7
    | with_reducible apply key8
    | with_reducible apply key9
    | with_reducible apply key10
    | with_reducible apply key11
    | with_reducible apply key12
    | with_reducible apply key13
    | with_reducible apply key14
    | with_reducible apply key15
    | with_reducible apply key16
    | with_reducible apply runSlots_fr
    | with_reducible apply writeA_fr
    | with_reducible apply stalled_fr
    | with_reducible apply retire_fr
    | with_reducible apply dspFault_fr
    | with_reducible apply arrive_fr
    | with_reducible apply modDsp_fr
    | simp only [↓fr_mk_iff]
    | with_reducible apply fr_ite
    | (extract_lets x; first | (with_reducible refine fr_cut (s := x) ?_ ?_; (on_goal 2 => clear_value x); (on_goal 1 => unfold x)) | (subst x))
    | split

theorem execMpy_fr (n : Nat) (ecc : List Ecc) (s : State) (hs : Fr V M s0 s) (key0 : ∀ u0, V (DBG.BRK_HITS u0)) (key1 : ∀ u0, V (DBG.BRK_STATE u0)) (key2 : V (DBG.EVFLAGS)) (key3 : V (DSP.CYCLES n)) (key4 : V (DSP.FAULT n)) (key5 : V (DSP.FAULT_PC n)) (key6 : V (DSP.FLAGS n)) (key7 : V (DSP.MOVE_DROPPED n)) (key8 : V (DSP.PC n)) (key9 : V (DSP.RPT_LEFT n)) (key10 : V (DSP.STATE n)) (key11 : V (DSP.WDOG_LEFT n)) (key12 : M) (key13 : ∀ u0, V (SCR.CE u0)) (key14 : ∀ u0, V (SCR.COLLIDE u0)) (key15 : ∀ u0, V (SCR.EVFLAGS u0)) (key16 : ∀ u0, V (SCR.UE u0)) (key17 : ∀ u0, V (DSP.STALLS u0)) :
    FrOut V M s0 (execMpy n ecc s) := by
  unfold execMpy
  repeat' first
    | with_reducible intro _
    | with_reducible assumption
    | with_reducible apply key0
    | with_reducible apply key1
    | with_reducible apply key2
    | with_reducible apply key3
    | with_reducible apply key4
    | with_reducible apply key5
    | with_reducible apply key6
    | with_reducible apply key7
    | with_reducible apply key8
    | with_reducible apply key9
    | with_reducible apply key10
    | with_reducible apply key11
    | with_reducible apply key12
    | with_reducible apply key13
    | with_reducible apply key14
    | with_reducible apply key15
    | with_reducible apply key16
    | with_reducible apply key17
    | with_reducible apply macAct_fr
    | with_reducible apply insnCommand_fr
    | simp only [↓fr_mk_iff]
    | with_reducible apply fr_ite
    | with_reducible apply frOut_next
    | with_reducible apply frOut_fault
    | with_reducible apply frOut_ite
    | with_reducible apply unitCmd_fr
    | (extract_lets x; first | (with_reducible refine fr_cut (s := x) ?_ ?_; (on_goal 2 => clear_value x); (on_goal 1 => unfold x)) | (subst x))
    | split

theorem execMac_fr (n : Nat) (ecc : List Ecc) (s : State) (hs : Fr V M s0 s) (key0 : ∀ u0, V (DBG.BRK_HITS u0)) (key1 : ∀ u0, V (DBG.BRK_STATE u0)) (key2 : V (DBG.EVFLAGS)) (key3 : V (DSP.CYCLES n)) (key4 : V (DSP.FAULT n)) (key5 : V (DSP.FAULT_PC n)) (key6 : V (DSP.FLAGS n)) (key7 : V (DSP.MOVE_DROPPED n)) (key8 : V (DSP.PC n)) (key9 : V (DSP.RPT_LEFT n)) (key10 : V (DSP.STATE n)) (key11 : V (DSP.WDOG_LEFT n)) (key12 : M) (key13 : ∀ u0, V (SCR.CE u0)) (key14 : ∀ u0, V (SCR.COLLIDE u0)) (key15 : ∀ u0, V (SCR.EVFLAGS u0)) (key16 : ∀ u0, V (SCR.UE u0)) (key17 : ∀ u0, V (DSP.STALLS u0)) :
    FrOut V M s0 (execMac n ecc s) := by
  unfold execMac
  repeat' first
    | with_reducible intro _
    | with_reducible assumption
    | with_reducible apply key0
    | with_reducible apply key1
    | with_reducible apply key2
    | with_reducible apply key3
    | with_reducible apply key4
    | with_reducible apply key5
    | with_reducible apply key6
    | with_reducible apply key7
    | with_reducible apply key8
    | with_reducible apply key9
    | with_reducible apply key10
    | with_reducible apply key11
    | with_reducible apply key12
    | with_reducible apply key13
    | with_reducible apply key14
    | with_reducible apply key15
    | with_reducible apply key16
    | with_reducible apply key17
    | with_reducible apply macAct_fr
    | with_reducible apply insnCommand_fr
    | simp only [↓fr_mk_iff]
    | with_reducible apply fr_ite
    | with_reducible apply frOut_next
    | with_reducible apply frOut_fault
    | with_reducible apply frOut_ite
    | with_reducible apply unitCmd_fr
    | (extract_lets x; first | (with_reducible refine fr_cut (s := x) ?_ ?_; (on_goal 2 => clear_value x); (on_goal 1 => unfold x)) | (subst x))
    | split

theorem execMsu_fr (n : Nat) (ecc : List Ecc) (s : State) (hs : Fr V M s0 s) (key0 : ∀ u0, V (DBG.BRK_HITS u0)) (key1 : ∀ u0, V (DBG.BRK_STATE u0)) (key2 : V (DBG.EVFLAGS)) (key3 : V (DSP.CYCLES n)) (key4 : V (DSP.FAULT n)) (key5 : V (DSP.FAULT_PC n)) (key6 : V (DSP.FLAGS n)) (key7 : V (DSP.MOVE_DROPPED n)) (key8 : V (DSP.PC n)) (key9 : V (DSP.RPT_LEFT n)) (key10 : V (DSP.STATE n)) (key11 : V (DSP.WDOG_LEFT n)) (key12 : M) (key13 : ∀ u0, V (SCR.CE u0)) (key14 : ∀ u0, V (SCR.COLLIDE u0)) (key15 : ∀ u0, V (SCR.EVFLAGS u0)) (key16 : ∀ u0, V (SCR.UE u0)) (key17 : ∀ u0, V (DSP.STALLS u0)) :
    FrOut V M s0 (execMsu n ecc s) := by
  unfold execMsu
  repeat' first
    | with_reducible intro _
    | with_reducible assumption
    | with_reducible apply key0
    | with_reducible apply key1
    | with_reducible apply key2
    | with_reducible apply key3
    | with_reducible apply key4
    | with_reducible apply key5
    | with_reducible apply key6
    | with_reducible apply key7
    | with_reducible apply key8
    | with_reducible apply key9
    | with_reducible apply key10
    | with_reducible apply key11
    | with_reducible apply key12
    | with_reducible apply key13
    | with_reducible apply key14
    | with_reducible apply key15
    | with_reducible apply key16
    | with_reducible apply key17
    | with_reducible apply macAct_fr
    | with_reducible apply insnCommand_fr
    | simp only [↓fr_mk_iff]
    | with_reducible apply fr_ite
    | with_reducible apply frOut_next
    | with_reducible apply frOut_fault
    | with_reducible apply frOut_ite
    | with_reducible apply unitCmd_fr
    | (extract_lets x; first | (with_reducible refine fr_cut (s := x) ?_ ?_; (on_goal 2 => clear_value x); (on_goal 1 => unfold x)) | (subst x))
    | split

theorem execMem_fr (n : Nat) (ecc : List Ecc) (s : State) (hs : Fr V M s0 s) (key0 : ∀ u0, V (DBG.BRK_HITS u0)) (key1 : ∀ u0, V (DBG.BRK_STATE u0)) (key2 : V (DBG.EVFLAGS)) (key3 : V (DSP.CYCLES n)) (key4 : V (DSP.FAULT n)) (key5 : V (DSP.FAULT_PC n)) (key6 : V (DSP.FLAGS n)) (key7 : V (DSP.MOVE_DROPPED n)) (key8 : V (DSP.PC n)) (key9 : V (DSP.RPT_LEFT n)) (key10 : V (DSP.STATE n)) (key11 : V (DSP.WDOG_LEFT n)) (key12 : M) (key13 : ∀ u0, V (SCR.CE u0)) (key14 : ∀ u0, V (SCR.COLLIDE u0)) (key15 : ∀ u0, V (SCR.EVFLAGS u0)) (key16 : ∀ u0, V (SCR.UE u0)) (key17 : ∀ u0, V (DSP.STALLS u0)) :
    FrOut V M s0 (execMem n ecc s) := by
  unfold execMem
  repeat' first
    | with_reducible intro _
    | with_reducible assumption
    | with_reducible apply key0
    | with_reducible apply key1
    | with_reducible apply key2
    | with_reducible apply key3
    | with_reducible apply key4
    | with_reducible apply key5
    | with_reducible apply key6
    | with_reducible apply key7
    | with_reducible apply key8
    | with_reducible apply key9
    | with_reducible apply key10
    | with_reducible apply key11
    | with_reducible apply key12
    | with_reducible apply key13
    | with_reducible apply key14
    | with_reducible apply key15
    | with_reducible apply key16
    | with_reducible apply key17
    | with_reducible apply runSlots_fr
    | with_reducible apply insnCommand_fr
    | with_reducible apply stalled_fr
    | with_reducible apply retire_fr
    | with_reducible apply dspFault_fr
    | simp only [↓fr_mk_iff]
    | with_reducible apply fr_ite
    | with_reducible apply frOut_next
    | with_reducible apply frOut_fault
    | with_reducible apply frOut_ite
    | with_reducible apply unitCmd_fr
    | (extract_lets x; first | (with_reducible refine fr_cut (s := x) ?_ ?_; (on_goal 2 => clear_value x); (on_goal 1 => unfold x)) | (subst x))
    | split

theorem accAct_fr (n : Nat) (f : (w : Nat) → (l : Nat) → State → Int) (w pc t : Nat) (s : State) (hs : Fr V M s0 s) (key0 : V (DSP.FLAGS n)) (key1 : V (DSP.RPT_LEFT n)) :
    Fr V M s0 (accAct n f w pc t s) := by
  unfold accAct
  repeat' first
    | with_reducible intro _
    | with_reducible assumption
    | with_reducible apply retire_fr
    | with_reducible apply writeA_fr
    | with_reducible apply modDsp_fr
    | simp only [↓fr_mk_iff]
    | (extract_lets x; first | (with_reducible refine fr_cut (s := x) ?_ ?_; (on_goal 2 => clear_value x); (on_goal 1 => unfold x)) | (subst x))

theorem execAccClr_fr (n : Nat) (s : State) (hs : Fr V M s0 s) (key0 : ∀ u0, V (DBG.BRK_HITS u0)) (key1 : ∀ u0, V (DBG.BRK_STATE u0)) (key2 : V (DBG.EVFLAGS)) (key3 : V (DSP.CYCLES n)) (key4 : V (DSP.FAULT n)) (key5 : V (DSP.FAULT_PC n)) (key6 : V (DSP.FLAGS n)) (key7 : V (DSP.MOVE_DROPPED n)) (key8 : V (DSP.PC n)) (key9 : V (DSP.RPT_LEFT n)) (key10 : V (DSP.STALLS n)) (key11 : V (DSP.STATE n)) (key12 : V (DSP.WDOG_LEFT n)) :
    FrOut V M s0 (execAccClr n s) := by
  unfold execAccClr
  repeat' first
    | with_reducible intro _
    | with_reducible assumption
    | with_reducible apply key0
    | with_reducible apply key1
    | with_reducible apply insnCommand_fr
    | with_reducible apply accAct_fr
    | with_reducible apply frOut_next
    | with_reducible apply frOut_fault

theorem execAccLda_fr (n : Nat) (s : State) (hs : Fr V M s0 s) (key0 : ∀ u0, V (DBG.BRK_HITS u0)) (key1 : ∀ u0, V (DBG.BRK_STATE u0)) (key2 : V (DBG.EVFLAGS)) (key3 : V (DSP.CYCLES n)) (key4 : V (DSP.FAULT n)) (key5 : V (DSP.FAULT_PC n)) (key6 : V (DSP.FLAGS n)) (key7 : V (DSP.MOVE_DROPPED n)) (key8 : V (DSP.PC n)) (key9 : V (DSP.RPT_LEFT n)) (key10 : V (DSP.STALLS n)) (key11 : V (DSP.STATE n)) (key12 : V (DSP.WDOG_LEFT n)) :
    FrOut V M s0 (execAccLda n s) := by
  unfold execAccLda
  repeat' first
    | with_reducible intro _
    | with_reducible assumption
    | with_reducible apply key0
    | with_reducible apply key1
    | with_reducible apply insnCommand_fr
    | with_reducible apply accAct_fr
    | with_reducible apply frOut_next
    | with_reducible apply frOut_fault

theorem execAccAdda_fr (n : Nat) (s : State) (hs : Fr V M s0 s) (key0 : ∀ u0, V (DBG.BRK_HITS u0)) (key1 : ∀ u0, V (DBG.BRK_STATE u0)) (key2 : V (DBG.EVFLAGS)) (key3 : V (DSP.CYCLES n)) (key4 : V (DSP.FAULT n)) (key5 : V (DSP.FAULT_PC n)) (key6 : V (DSP.FLAGS n)) (key7 : V (DSP.MOVE_DROPPED n)) (key8 : V (DSP.PC n)) (key9 : V (DSP.RPT_LEFT n)) (key10 : V (DSP.STALLS n)) (key11 : V (DSP.STATE n)) (key12 : V (DSP.WDOG_LEFT n)) :
    FrOut V M s0 (execAccAdda n s) := by
  unfold execAccAdda
  repeat' first
    | with_reducible intro _
    | with_reducible assumption
    | with_reducible apply key0
    | with_reducible apply key1
    | with_reducible apply insnCommand_fr
    | with_reducible apply accAct_fr
    | with_reducible apply frOut_next
    | with_reducible apply frOut_fault

theorem execAccSuml_fr (n : Nat) (s : State) (hs : Fr V M s0 s) (key0 : ∀ u0, V (DBG.BRK_HITS u0)) (key1 : ∀ u0, V (DBG.BRK_STATE u0)) (key2 : V (DBG.EVFLAGS)) (key3 : V (DSP.CYCLES n)) (key4 : V (DSP.FAULT n)) (key5 : V (DSP.FAULT_PC n)) (key6 : V (DSP.FLAGS n)) (key7 : V (DSP.MOVE_DROPPED n)) (key8 : V (DSP.PC n)) (key9 : V (DSP.RPT_LEFT n)) (key10 : V (DSP.STALLS n)) (key11 : V (DSP.STATE n)) (key12 : V (DSP.WDOG_LEFT n)) :
    FrOut V M s0 (execAccSuml n s) := by
  unfold execAccSuml
  repeat' first
    | with_reducible intro _
    | with_reducible assumption
    | with_reducible apply key0
    | with_reducible apply key1
    | with_reducible apply insnCommand_fr
    | with_reducible apply accAct_fr
    | with_reducible apply frOut_next
    | with_reducible apply frOut_fault
    | with_reducible apply frOut_ite
    | with_reducible apply fr_ite
    | (extract_lets x; first | (with_reducible refine fr_cut (s := x) ?_ ?_; (on_goal 2 => clear_value x); (on_goal 1 => unfold x)) | (subst x))
    | split

theorem execAccShra_fr (n : Nat) (s : State) (hs : Fr V M s0 s) (key0 : ∀ u0, V (DBG.BRK_HITS u0)) (key1 : ∀ u0, V (DBG.BRK_STATE u0)) (key2 : V (DBG.EVFLAGS)) (key3 : V (DSP.CYCLES n)) (key4 : V (DSP.FAULT n)) (key5 : V (DSP.FAULT_PC n)) (key6 : V (DSP.FLAGS n)) (key7 : V (DSP.MOVE_DROPPED n)) (key8 : V (DSP.PC n)) (key9 : V (DSP.RPT_LEFT n)) (key10 : V (DSP.STALLS n)) (key11 : V (DSP.STATE n)) (key12 : V (DSP.WDOG_LEFT n)) :
    FrOut V M s0 (execAccShra n s) := by
  unfold execAccShra
  repeat' first
    | with_reducible intro _
    | with_reducible assumption
    | with_reducible apply key0
    | with_reducible apply key1
    | with_reducible apply insnCommand_fr
    | with_reducible apply accAct_fr
    | with_reducible apply frOut_next
    | with_reducible apply frOut_fault

theorem execAccStr_fr (n : Nat) (s : State) (hs : Fr V M s0 s) (key0 : ∀ u0, V (DBG.BRK_HITS u0)) (key1 : ∀ u0, V (DBG.BRK_STATE u0)) (key2 : V (DBG.EVFLAGS)) (key3 : V (DSP.BEXP n)) (key4 : V (DSP.CYCLES n)) (key5 : V (DSP.FAULT n)) (key6 : V (DSP.FAULT_PC n)) (key7 : V (DSP.FLAGS n)) (key8 : V (DSP.MOVE_DROPPED n)) (key9 : V (DSP.PC n)) (key10 : V (DSP.RPT_LEFT n)) (key11 : V (DSP.STALLS n)) (key12 : V (DSP.STATE n)) (key13 : V (DSP.WDOG_LEFT n)) :
    FrOut V M s0 (execAccStr n s) := by
  unfold execAccStr
  repeat' first
    | with_reducible intro _
    | with_reducible assumption
    | with_reducible apply key0
    | with_reducible apply key1
    | with_reducible apply insnCommand_fr
    | with_reducible apply writeV_fr
    | with_reducible apply retire_fr
    | with_reducible apply modDsp_fr
    | with_reducible apply frOut_next
    | with_reducible apply frOut_fault
    | simp only [↓fr_mk_iff]
    | (extract_lets x; first | (with_reducible refine fr_cut (s := x) ?_ ?_; (on_goal 2 => clear_value x); (on_goal 1 => unfold x)) | (subst x))

theorem addrAct_fr (n : Nat) (f : (k imm : Nat) → DspRun → DspRun) (w pc t : Nat) (s : State) (hs : Fr V M s0 s) (key0 : V (DSP.FLAGS n)) (key1 : V (DSP.RPT_LEFT n)) :
    Fr V M s0 (addrAct n f w pc t s) := by
  unfold addrAct
  repeat' first
    | with_reducible intro _
    | with_reducible assumption
    | with_reducible apply retire_fr
    | with_reducible apply modDsp_fr

theorem execSeta_fr (n : Nat) (s : State) (hs : Fr V M s0 s) (key0 : ∀ u0, V (DBG.BRK_HITS u0)) (key1 : ∀ u0, V (DBG.BRK_STATE u0)) (key2 : V (DBG.EVFLAGS)) (key3 : V (DSP.CYCLES n)) (key4 : V (DSP.FAULT n)) (key5 : V (DSP.FAULT_PC n)) (key6 : V (DSP.FLAGS n)) (key7 : V (DSP.MOVE_DROPPED n)) (key8 : V (DSP.PC n)) (key9 : V (DSP.RPT_LEFT n)) (key10 : V (DSP.STALLS n)) (key11 : V (DSP.STATE n)) (key12 : V (DSP.WDOG_LEFT n)) :
    FrOut V M s0 (execSeta n s) := by
  unfold execSeta
  repeat' first
    | with_reducible intro _
    | with_reducible assumption
    | with_reducible apply key0
    | with_reducible apply key1
    | with_reducible apply insnCommand_fr
    | with_reducible apply addrAct_fr
    | with_reducible apply frOut_next
    | with_reducible apply frOut_fault
    | simp only [↓fr_mk_iff]

theorem execSeto_fr (n : Nat) (s : State) (hs : Fr V M s0 s) (key0 : ∀ u0, V (DBG.BRK_HITS u0)) (key1 : ∀ u0, V (DBG.BRK_STATE u0)) (key2 : V (DBG.EVFLAGS)) (key3 : V (DSP.CYCLES n)) (key4 : V (DSP.FAULT n)) (key5 : V (DSP.FAULT_PC n)) (key6 : V (DSP.FLAGS n)) (key7 : V (DSP.MOVE_DROPPED n)) (key8 : V (DSP.PC n)) (key9 : V (DSP.RPT_LEFT n)) (key10 : V (DSP.STALLS n)) (key11 : V (DSP.STATE n)) (key12 : V (DSP.WDOG_LEFT n)) :
    FrOut V M s0 (execSeto n s) := by
  unfold execSeto
  repeat' first
    | with_reducible intro _
    | with_reducible assumption
    | with_reducible apply key0
    | with_reducible apply key1
    | with_reducible apply insnCommand_fr
    | with_reducible apply addrAct_fr
    | with_reducible apply frOut_next
    | with_reducible apply frOut_fault
    | simp only [↓fr_mk_iff]

theorem execInca_fr (n : Nat) (s : State) (hs : Fr V M s0 s) (key0 : ∀ u0, V (DBG.BRK_HITS u0)) (key1 : ∀ u0, V (DBG.BRK_STATE u0)) (key2 : V (DBG.EVFLAGS)) (key3 : V (DSP.CYCLES n)) (key4 : V (DSP.FAULT n)) (key5 : V (DSP.FAULT_PC n)) (key6 : V (DSP.FLAGS n)) (key7 : V (DSP.MOVE_DROPPED n)) (key8 : V (DSP.PC n)) (key9 : V (DSP.RPT_LEFT n)) (key10 : V (DSP.STALLS n)) (key11 : V (DSP.STATE n)) (key12 : V (DSP.WDOG_LEFT n)) :
    FrOut V M s0 (execInca n s) := by
  unfold execInca
  repeat' first
    | with_reducible intro _
    | with_reducible assumption
    | with_reducible apply key0
    | with_reducible apply key1
    | with_reducible apply insnCommand_fr
    | with_reducible apply addrAct_fr
    | with_reducible apply frOut_next
    | with_reducible apply frOut_fault
    | simp only [↓fr_mk_iff]

theorem vecAct_fr (n : Nat) (block : Bool) (f : (w l : Nat) → State → Int) (w pc t : Nat) (s : State) (hs : Fr V M s0 s) (key0 : V (DSP.BEXP n)) (key1 : V (DSP.FLAGS n)) (key2 : V (DSP.RPT_LEFT n)) :
    Fr V M s0 (vecAct n block f w pc t s) := by
  unfold vecAct
  repeat' first
    | with_reducible intro _
    | with_reducible assumption
    | with_reducible apply retire_fr
    | with_reducible apply writeV_fr
    | with_reducible apply modDsp_fr
    | simp only [↓fr_mk_iff]
    | (extract_lets x; first | (with_reducible refine fr_cut (s := x) ?_ ?_; (on_goal 2 => clear_value x); (on_goal 1 => unfold x)) | (subst x))

theorem execVmov_fr (n : Nat) (s : State) (hs : Fr V M s0 s) (key0 : ∀ u0, V (DBG.BRK_HITS u0)) (key1 : ∀ u0, V (DBG.BRK_STATE u0)) (key2 : V (DBG.EVFLAGS)) (key3 : V (DSP.BEXP n)) (key4 : V (DSP.CYCLES n)) (key5 : V (DSP.FAULT n)) (key6 : V (DSP.FAULT_PC n)) (key7 : V (DSP.FLAGS n)) (key8 : V (DSP.MOVE_DROPPED n)) (key9 : V (DSP.PC n)) (key10 : V (DSP.RPT_LEFT n)) (key11 : V (DSP.STALLS n)) (key12 : V (DSP.STATE n)) (key13 : V (DSP.WDOG_LEFT n)) :
    FrOut V M s0 (execVmov n s) := by
  unfold execVmov
  repeat' first
    | with_reducible intro _
    | with_reducible assumption
    | with_reducible apply key0
    | with_reducible apply key1
    | with_reducible apply insnCommand_fr
    | with_reducible apply vecAct_fr
    | with_reducible apply frOut_next
    | with_reducible apply frOut_fault

theorem execVadd_fr (n : Nat) (s : State) (hs : Fr V M s0 s) (key0 : ∀ u0, V (DBG.BRK_HITS u0)) (key1 : ∀ u0, V (DBG.BRK_STATE u0)) (key2 : V (DBG.EVFLAGS)) (key3 : V (DSP.BEXP n)) (key4 : V (DSP.CYCLES n)) (key5 : V (DSP.FAULT n)) (key6 : V (DSP.FAULT_PC n)) (key7 : V (DSP.FLAGS n)) (key8 : V (DSP.MOVE_DROPPED n)) (key9 : V (DSP.PC n)) (key10 : V (DSP.RPT_LEFT n)) (key11 : V (DSP.STALLS n)) (key12 : V (DSP.STATE n)) (key13 : V (DSP.WDOG_LEFT n)) :
    FrOut V M s0 (execVadd n s) := by
  unfold execVadd
  repeat' first
    | with_reducible intro _
    | with_reducible assumption
    | with_reducible apply key0
    | with_reducible apply key1
    | with_reducible apply insnCommand_fr
    | with_reducible apply vecAct_fr
    | with_reducible apply frOut_next
    | with_reducible apply frOut_fault

theorem execVsub_fr (n : Nat) (s : State) (hs : Fr V M s0 s) (key0 : ∀ u0, V (DBG.BRK_HITS u0)) (key1 : ∀ u0, V (DBG.BRK_STATE u0)) (key2 : V (DBG.EVFLAGS)) (key3 : V (DSP.BEXP n)) (key4 : V (DSP.CYCLES n)) (key5 : V (DSP.FAULT n)) (key6 : V (DSP.FAULT_PC n)) (key7 : V (DSP.FLAGS n)) (key8 : V (DSP.MOVE_DROPPED n)) (key9 : V (DSP.PC n)) (key10 : V (DSP.RPT_LEFT n)) (key11 : V (DSP.STALLS n)) (key12 : V (DSP.STATE n)) (key13 : V (DSP.WDOG_LEFT n)) :
    FrOut V M s0 (execVsub n s) := by
  unfold execVsub
  repeat' first
    | with_reducible intro _
    | with_reducible assumption
    | with_reducible apply key0
    | with_reducible apply key1
    | with_reducible apply insnCommand_fr
    | with_reducible apply vecAct_fr
    | with_reducible apply frOut_next
    | with_reducible apply frOut_fault

theorem execVshl_fr (n : Nat) (s : State) (hs : Fr V M s0 s) (key0 : ∀ u0, V (DBG.BRK_HITS u0)) (key1 : ∀ u0, V (DBG.BRK_STATE u0)) (key2 : V (DBG.EVFLAGS)) (key3 : V (DSP.BEXP n)) (key4 : V (DSP.CYCLES n)) (key5 : V (DSP.FAULT n)) (key6 : V (DSP.FAULT_PC n)) (key7 : V (DSP.FLAGS n)) (key8 : V (DSP.MOVE_DROPPED n)) (key9 : V (DSP.PC n)) (key10 : V (DSP.RPT_LEFT n)) (key11 : V (DSP.STALLS n)) (key12 : V (DSP.STATE n)) (key13 : V (DSP.WDOG_LEFT n)) :
    FrOut V M s0 (execVshl n s) := by
  unfold execVshl
  repeat' first
    | with_reducible intro _
    | with_reducible assumption
    | with_reducible apply key0
    | with_reducible apply key1
    | with_reducible apply insnCommand_fr
    | with_reducible apply vecAct_fr
    | with_reducible apply frOut_next
    | with_reducible apply frOut_fault

theorem execVshr_fr (n : Nat) (s : State) (hs : Fr V M s0 s) (key0 : ∀ u0, V (DBG.BRK_HITS u0)) (key1 : ∀ u0, V (DBG.BRK_STATE u0)) (key2 : V (DBG.EVFLAGS)) (key3 : V (DSP.BEXP n)) (key4 : V (DSP.CYCLES n)) (key5 : V (DSP.FAULT n)) (key6 : V (DSP.FAULT_PC n)) (key7 : V (DSP.FLAGS n)) (key8 : V (DSP.MOVE_DROPPED n)) (key9 : V (DSP.PC n)) (key10 : V (DSP.RPT_LEFT n)) (key11 : V (DSP.STALLS n)) (key12 : V (DSP.STATE n)) (key13 : V (DSP.WDOG_LEFT n)) :
    FrOut V M s0 (execVshr n s) := by
  unfold execVshr
  repeat' first
    | with_reducible intro _
    | with_reducible assumption
    | with_reducible apply key0
    | with_reducible apply key1
    | with_reducible apply insnCommand_fr
    | with_reducible apply vecAct_fr
    | with_reducible apply frOut_next
    | with_reducible apply frOut_fault

theorem execDspNop_fr (n : Nat) (s : State) (hs : Fr V M s0 s) (key0 : ∀ u0, V (DBG.BRK_HITS u0)) (key1 : ∀ u0, V (DBG.BRK_STATE u0)) (key2 : V (DBG.EVFLAGS)) (key3 : V (DSP.CYCLES n)) (key4 : V (DSP.FAULT n)) (key5 : V (DSP.FAULT_PC n)) (key6 : V (DSP.FLAGS n)) (key7 : V (DSP.MOVE_DROPPED n)) (key8 : V (DSP.PC n)) (key9 : V (DSP.RPT_LEFT n)) (key10 : V (DSP.STALLS n)) (key11 : V (DSP.STATE n)) (key12 : V (DSP.WDOG_LEFT n)) :
    FrOut V M s0 (execDspNop n s) := by
  unfold execDspNop
  repeat' first
    | with_reducible intro _
    | with_reducible assumption
    | with_reducible apply key0
    | with_reducible apply key1
    | with_reducible apply insnCommand_fr
    | with_reducible apply retire_fr
    | with_reducible apply frOut_next
    | with_reducible apply frOut_fault

theorem execDspJmp_fr (n : Nat) (s : State) (hs : Fr V M s0 s) (key0 : ∀ u0, V (DBG.BRK_HITS u0)) (key1 : ∀ u0, V (DBG.BRK_STATE u0)) (key2 : V (DBG.EVFLAGS)) (key3 : V (DSP.CYCLES n)) (key4 : V (DSP.FAULT n)) (key5 : V (DSP.FAULT_PC n)) (key6 : V (DSP.FLAGS n)) (key7 : V (DSP.MOVE_DROPPED n)) (key8 : V (DSP.PC n)) (key9 : V (DSP.RPT_LEFT n)) (key10 : V (DSP.STALLS n)) (key11 : V (DSP.STATE n)) (key12 : V (DSP.WDOG_LEFT n)) :
    FrOut V M s0 (execDspJmp n s) := by
  unfold execDspJmp
  repeat' first
    | with_reducible intro _
    | with_reducible assumption
    | with_reducible apply key0
    | with_reducible apply key1
    | with_reducible apply insnCommand_fr
    | with_reducible apply retire_fr
    | with_reducible apply frOut_next
    | with_reducible apply frOut_fault

theorem execDjnz_fr (n : Nat) (s : State) (hs : Fr V M s0 s) (key0 : ∀ u0, V (DBG.BRK_HITS u0)) (key1 : ∀ u0, V (DBG.BRK_STATE u0)) (key2 : V (DBG.EVFLAGS)) (key3 : V (DSP.CYCLES n)) (key4 : V (DSP.FAULT n)) (key5 : V (DSP.FAULT_PC n)) (key6 : V (DSP.FLAGS n)) (key7 : V (DSP.MOVE_DROPPED n)) (key8 : V (DSP.PC n)) (key9 : V (DSP.RPT_LEFT n)) (key10 : V (DSP.STALLS n)) (key11 : V (DSP.STATE n)) (key12 : V (DSP.WDOG_LEFT n)) :
    FrOut V M s0 (execDjnz n s) := by
  unfold execDjnz
  repeat' first
    | with_reducible intro _
    | with_reducible assumption
    | with_reducible apply key0
    | with_reducible apply key1
    | with_reducible apply insnCommand_fr
    | with_reducible apply modDsp_fr
    | with_reducible apply retire_fr
    | with_reducible apply frOut_next
    | with_reducible apply frOut_fault
    | with_reducible apply frOut_ite
    | simp only [↓fr_mk_iff]
    | with_reducible apply fr_ite
    | (extract_lets x; first | (with_reducible refine fr_cut (s := x) ?_ ?_; (on_goal 2 => clear_value x); (on_goal 1 => unfold x)) | (subst x))
    | split

theorem execDspLdc_fr (n : Nat) (s : State) (hs : Fr V M s0 s) (key0 : ∀ u0, V (DBG.BRK_HITS u0)) (key1 : ∀ u0, V (DBG.BRK_STATE u0)) (key2 : V (DBG.EVFLAGS)) (key3 : V (DSP.CYCLES n)) (key4 : V (DSP.FAULT n)) (key5 : V (DSP.FAULT_PC n)) (key6 : V (DSP.FLAGS n)) (key7 : V (DSP.MOVE_DROPPED n)) (key8 : V (DSP.PC n)) (key9 : V (DSP.RPT_LEFT n)) (key10 : V (DSP.STALLS n)) (key11 : V (DSP.STATE n)) (key12 : V (DSP.WDOG_LEFT n)) :
    FrOut V M s0 (execDspLdc n s) := by
  unfold execDspLdc
  repeat' first
    | with_reducible intro _
    | with_reducible assumption
    | with_reducible apply key0
    | with_reducible apply key1
    | with_reducible apply insnCommand_fr
    | with_reducible apply retire_fr
    | with_reducible apply modDsp_fr
    | with_reducible apply frOut_next
    | with_reducible apply frOut_fault
    | simp only [↓fr_mk_iff]

theorem execDspEvt_fr (n : Nat) (s : State) (hs : Fr V M s0 s) (key0 : ∀ u0, V (DBG.BRK_HITS u0)) (key1 : ∀ u0, V (DBG.BRK_STATE u0)) (key2 : V (DBG.EVFLAGS)) (key3 : V (DSP.CYCLES n)) (key4 : V (DSP.EVENTS n)) (key5 : V (DSP.FAULT n)) (key6 : V (DSP.FAULT_PC n)) (key7 : V (DSP.FLAGS n)) (key8 : V (DSP.MOVE_DROPPED n)) (key9 : V (DSP.PC n)) (key10 : V (DSP.RPT_LEFT n)) (key11 : V (DSP.STALLS n)) (key12 : V (DSP.STATE n)) (key13 : V (DSP.WDOG_LEFT n)) :
    FrOut V M s0 (execDspEvt n s) := by
  unfold execDspEvt
  repeat' first
    | with_reducible intro _
    | with_reducible assumption
    | with_reducible apply key0
    | with_reducible apply key1
    | with_reducible apply insnCommand_fr
    | with_reducible apply retire_fr
    | with_reducible apply bump_fr
    | with_reducible apply raise_fr
    | with_reducible apply frOut_next
    | with_reducible apply frOut_fault

theorem execDspHaltInsn_fr (n : Nat) (s : State) (hs : Fr V M s0 s) (key0 : ∀ u0, V (DBG.BRK_HITS u0)) (key1 : ∀ u0, V (DBG.BRK_STATE u0)) (key2 : V (DBG.EVFLAGS)) (key3 : V (DSP.CYCLES n)) (key4 : V (DSP.FAULT n)) (key5 : V (DSP.FAULT_PC n)) (key6 : V (DSP.FLAGS n)) (key7 : V (DSP.MOVE_DROPPED n)) (key8 : V (DSP.PC n)) (key9 : V (DSP.STALLS n)) (key10 : V (DSP.STATE n)) (key11 : V (DSP.WDOG_LEFT n)) :
    FrOut V M s0 (execDspHaltInsn n s) := by
  unfold execDspHaltInsn
  repeat' first
    | with_reducible intro _
    | with_reducible assumption
    | with_reducible apply key0
    | with_reducible apply key1
    | with_reducible apply insnCommand_fr
    | with_reducible apply dspStopAt_fr
    | with_reducible apply frOut_next
    | with_reducible apply frOut_fault
    | with_reducible apply fr_foldl
    | (extract_lets x; first | (with_reducible refine fr_cut (s := x) ?_ ?_; (on_goal 2 => clear_value x); (on_goal 1 => unfold x)) | (subst x))

theorem execWaitm_fr (n : Nat) (s : State) (hs : Fr V M s0 s) (key0 : ∀ u0, V (DBG.BRK_HITS u0)) (key1 : ∀ u0, V (DBG.BRK_STATE u0)) (key2 : V (DBG.EVFLAGS)) (key3 : V (DSP.CYCLES n)) (key4 : V (DSP.FAULT n)) (key5 : V (DSP.FAULT_PC n)) (key6 : V (DSP.FLAGS n)) (key7 : V (DSP.MOVE_DROPPED n)) (key8 : V (DSP.PC n)) (key9 : V (DSP.RPT_LEFT n)) (key10 : V (DSP.STALLS n)) (key11 : V (DSP.STATE n)) (key12 : V (DSP.WDOG_LEFT n)) :
    FrOut V M s0 (execWaitm n s) := by
  unfold execWaitm
  repeat' first
    | with_reducible intro _
    | with_reducible assumption
    | with_reducible apply key0
    | with_reducible apply key1
    | with_reducible apply insnCommand_fr
    | with_reducible apply retire_fr
    | with_reducible apply frOut_next
    | with_reducible apply frOut_fault

theorem execBclr_fr (n : Nat) (s : State) (hs : Fr V M s0 s) (key0 : ∀ u0, V (DBG.BRK_HITS u0)) (key1 : ∀ u0, V (DBG.BRK_STATE u0)) (key2 : V (DBG.EVFLAGS)) (key3 : V (DSP.BEXP n)) (key4 : V (DSP.CYCLES n)) (key5 : V (DSP.FAULT n)) (key6 : V (DSP.FAULT_PC n)) (key7 : V (DSP.FLAGS n)) (key8 : V (DSP.MOVE_DROPPED n)) (key9 : V (DSP.PC n)) (key10 : V (DSP.RPT_LEFT n)) (key11 : V (DSP.STALLS n)) (key12 : V (DSP.STATE n)) (key13 : V (DSP.WDOG_LEFT n)) :
    FrOut V M s0 (execBclr n s) := by
  unfold execBclr
  repeat' first
    | with_reducible intro _
    | with_reducible assumption
    | with_reducible apply key0
    | with_reducible apply key1
    | with_reducible apply insnCommand_fr
    | with_reducible apply retire_fr
    | with_reducible apply wr_fr
    | with_reducible apply frOut_next
    | with_reducible apply frOut_fault

theorem execBlk_fr (n : Nat) (s : State) (hs : Fr V M s0 s) (key0 : ∀ u0, V (DBG.BRK_HITS u0)) (key1 : ∀ u0, V (DBG.BRK_STATE u0)) (key2 : V (DBG.EVFLAGS)) (key3 : V (DSP.BEXP n)) (key4 : V (DSP.CYCLES n)) (key5 : V (DSP.EXPACC n)) (key6 : V (DSP.FAULT n)) (key7 : V (DSP.FAULT_PC n)) (key8 : V (DSP.FLAGS n)) (key9 : V (DSP.MOVE_DROPPED n)) (key10 : V (DSP.PC n)) (key11 : V (DSP.RPT_LEFT n)) (key12 : V (DSP.STALLS n)) (key13 : V (DSP.STATE n)) (key14 : V (DSP.WDOG_LEFT n)) :
    FrOut V M s0 (execBlk n s) := by
  unfold execBlk
  repeat' first
    | with_reducible intro _
    | with_reducible assumption
    | with_reducible apply key0
    | with_reducible apply key1
    | with_reducible apply key2
    | with_reducible apply key3
    | with_reducible apply key4
    | with_reducible apply key5
    | with_reducible apply key6
    | with_reducible apply key7
    | with_reducible apply key8
    | with_reducible apply key9
    | with_reducible apply key10
    | with_reducible apply key11
    | with_reducible apply key12
    | with_reducible apply key13
    | with_reducible apply key14
    | with_reducible apply insnCommand_fr
    | with_reducible apply retire_fr
    | with_reducible apply modDsp_fr
    | with_reducible apply wr_fr
    | simp only [↓fr_mk_iff]
    | with_reducible apply fr_ite
    | with_reducible apply frOut_next
    | with_reducible apply frOut_fault
    | with_reducible apply frOut_ite
    | with_reducible apply unitCmd_fr
    | (extract_lets x; first | (with_reducible refine fr_cut (s := x) ?_ ?_; (on_goal 2 => clear_value x); (on_goal 1 => unfold x)) | (subst x))
    | split

theorem execDspRpt_fr (n : Nat) (s : State) (hs : Fr V M s0 s) (key0 : ∀ u0, V (DBG.BRK_HITS u0)) (key1 : ∀ u0, V (DBG.BRK_STATE u0)) (key2 : V (DBG.EVFLAGS)) (key3 : V (DSP.CYCLES n)) (key4 : V (DSP.FAULT n)) (key5 : V (DSP.FAULT_PC n)) (key6 : V (DSP.FLAGS n)) (key7 : V (DSP.MOVE_DROPPED n)) (key8 : V (DSP.PC n)) (key9 : V (DSP.RPT_LEFT n)) (key10 : V (DSP.STALLS n)) (key11 : V (DSP.STATE n)) (key12 : V (DSP.WDOG_LEFT n)) :
    FrOut V M s0 (execDspRpt n s) := by
  unfold execDspRpt
  repeat' first
    | with_reducible intro _
    | with_reducible assumption
    | with_reducible apply key0
    | with_reducible apply key1
    | with_reducible apply insnCommand_fr
    | with_reducible apply wr_fr
    | with_reducible apply setBit_fr
    | with_reducible apply modDsp_fr
    | with_reducible apply frOut_next
    | with_reducible apply frOut_fault
    | simp only [↓fr_mk_iff]

theorem moveSend_fr (n : Nat) (r : MeshReq) (s : State) (hs : Fr V M s0 s) (key0 : V (DSP.MOVE_INFLIGHT n) := by first | assumption | simp only [*]) (key1 : V (DSP.MOVE_ISSUED n) := by first | assumption | simp only [*]) :
    Fr V M s0 (moveSend n r s) := by
  unfold moveSend
  repeat' first
    | with_reducible intro _
    | with_reducible assumption
    | with_reducible apply meshSend_fr
    | with_reducible apply bump_fr

theorem moverTake_fr (n b : Nat) (wr : Bool) (word v : Nat) (s : State) (hs : Fr V M s0 s) (key0 : V (SCR.COLLIDE b)) (key1 : ∀ u0, V (DSP.STALLS u0)) :
    Fr V M s0 (moverTake n b wr word v s).2 := by
  unfold moverTake
  repeat' first
    | with_reducible intro _
    | with_reducible assumption
    | with_reducible apply key0
    | with_reducible apply key1
    | with_reducible apply portStall_fr
    | with_reducible apply portTake_fr
    | with_reducible apply wr_fr
    | simp only [↓fr_mk_iff]
    | with_reducible apply fr_ite
    | (extract_lets x; first | (with_reducible refine fr_cut (s := x) ?_ ?_; (on_goal 2 => clear_value x); (on_goal 1 => unfold x)) | (subst x))
    | split

theorem modHead_fr (n : Nat) (f : Mv → Mv) (s : State) (hs : Fr V M s0 s) :
    Fr V M s0 (modHead n f s) := by
  unfold modHead
  repeat' first
    | with_reducible intro _
    | with_reducible assumption
    | with_reducible apply modDsp_fr
    | simp only [↓fr_mk_iff]
    | split

theorem moveErr_fr (n : Nat) (ue : Bool) (s : State) (hs : Fr V M s0 s) :
    Fr V M s0 (moveErr n ue s) := by
  unfold moveErr
  repeat' first
    | with_reducible intro _
    | with_reducible assumption
    | with_reducible apply modDsp_fr
    | simp only [↓fr_mk_iff]
    | with_reducible apply fr_ite
    | (extract_lets x; first | (with_reducible refine fr_cut (s := x) ?_ ?_; (on_goal 2 => clear_value x); (on_goal 1 => unfold x)) | (subst x))
    | split

theorem moveWord_fr (n : Nat) (m : Mv) (x : MeshReq × State) (i : Nat) (hs : Fr V M s0 x.2) (key0 : ∀ u0, V (SCR.CE u0)) (key1 : ∀ u0, V (SCR.EVFLAGS u0)) (key2 : ∀ u0, V (SCR.UE u0)) (key3 : ∀ u0, V (SCR.COLLIDE u0)) (key4 : ∀ u0, V (DSP.STALLS u0)) : Fr V M s0 (moveWord n m x i).2 := by
  unfold moveWord
  extract_lets b pt put
  have hp : Fr V M s0 pt.2 := moverTake_fr n b false _ 0 x.2 hs (key3 _) key4
  split
  · exact hp
  · exact scrFlag_fr _ _ _ (bump_fr _ _ _ hp (key0 _)) (key1 _)
  · exact moveErr_fr n true _ (scrFlag_fr _ _ _ (bump_fr _ _ _ (drawn_fr _ hp) (key2 _)) (key1 _))

theorem moveNext_fr (n : Nat) (m : Mv) (s : State) (hs : Fr V M s0 s) (key0 : ∀ u0, V (SCR.CE u0)) (key1 : ∀ u0, V (SCR.EVFLAGS u0)) (key2 : ∀ u0, V (SCR.UE u0)) (key3 : ∀ u0, V (SCR.COLLIDE u0)) (key4 : ∀ u0, V (DSP.STALLS u0)) : Fr V M s0 (moveNext n m s).2 := by
  unfold moveNext
  extract_lets r
  split
  · exact fr_foldl_snd (fun y i h => moveWord_fr n m y i h key0 key1 key2 key3 key4) hs
  · exact hs

theorem dropLost_fr (n : Nat) (s : State) (hs : Fr V M s0 s) :
    Fr V M s0 (dropLost n s) := by
  unfold dropLost
  repeat' first
    | with_reducible intro _
    | with_reducible assumption
    | with_reducible apply modDsp_fr
    | simp only [↓fr_mk_iff]
    | with_reducible apply fr_ite
    | (extract_lets x; first | (with_reducible refine fr_cut (s := x) ?_ ?_; (on_goal 2 => clear_value x); (on_goal 1 => unfold x)) | (subst x))
    | split

theorem moveLost_fr (n : Nat) (s : State) (hs : Fr V M s0 s) (key0 : V (DSP.CYCLES n)) (key1 : V (DSP.FAULT n)) (key2 : V (DSP.FAULT_PC n)) (key3 : V (DSP.FLAGS n)) (key4 : V (DSP.MOVE_DROPPED n)) (key5 : V (DSP.STATE n)) (key6 : V (DSP.WDOG_LEFT n)) :
    Fr V M s0 (moveLost n s) := by
  unfold moveLost
  repeat' first
    | with_reducible intro _
    | with_reducible assumption
    | with_reducible apply key0
    | with_reducible apply key1
    | with_reducible apply key2
    | with_reducible apply key3
    | with_reducible apply key4
    | with_reducible apply key5
    | with_reducible apply key6
    | with_reducible apply dropLost_fr
    | with_reducible apply modHead_fr
    | with_reducible apply dspFault_fr
    | simp only [↓fr_mk_iff]
    | with_reducible apply fr_ite
    | (extract_lets x; first | (with_reducible refine fr_cut (s := x) ?_ ?_; (on_goal 2 => clear_value x); (on_goal 1 => unfold x)) | (subst x))
    | split

theorem moveIssue_fr (n : Nat) (key0 : ∀ u0, V (DSP.MOVE_INFLIGHT u0)) (key1 : ∀ u0, V (DSP.MOVE_ISSUED u0)) (key2 : V (DSP.CYCLES n)) (key3 : V (DSP.FAULT n)) (key4 : V (DSP.FAULT_PC n)) (key5 : V (DSP.FLAGS n)) (key6 : V (DSP.MOVE_DROPPED n)) (key7 : V (DSP.STATE n)) (key8 : V (DSP.WDOG_LEFT n)) (key9 : ∀ u0, V (SCR.CE u0)) (key10 : ∀ u0, V (SCR.EVFLAGS u0)) (key11 : ∀ u0, V (SCR.UE u0)) (key12 : ∀ u0, V (SCR.COLLIDE u0)) (key13 : ∀ u0, V (DSP.STALLS u0)) : ∀ (z0 : Nat) (z1 : State), Fr V M s0 z1 → Fr V M s0 (moveIssue n z0 z1)
  | 0, _, h => h
  | k + 1, s, h => by
    unfold moveIssue
    split
    · split
      · refine fr_ite (moveLost_fr n s h key2 key3 key4 key5 key6 key7 key8) (fr_ite h ?_)
        exact moveIssue_fr n key0 key1 key2 key3 key4 key5 key6 key7 key8 key9 key10 key11 key12 key13 k _ (moveSend_fr n _ _ (modHead_fr n _ _ (moveNext_fr n _ s h key9 key10 key11 key12 key13)) (key0 _) (key1 _))
      · exact h
    · exact h

theorem movePump_fr (n : Nat) (s : State) (hs : Fr V M s0 s) (key0 : V (DSP.FLAGS n)) (key1 : ∀ u0, V (DSP.MOVE_INFLIGHT u0)) (key2 : ∀ u0, V (DSP.MOVE_ISSUED u0)) (key3 : V (DSP.CYCLES n)) (key4 : V (DSP.FAULT n)) (key5 : V (DSP.FAULT_PC n)) (key6 : V (DSP.MOVE_DROPPED n)) (key7 : V (DSP.STATE n)) (key8 : V (DSP.WDOG_LEFT n)) (key9 : ∀ u0, V (SCR.CE u0)) (key10 : ∀ u0, V (SCR.EVFLAGS u0)) (key11 : ∀ u0, V (SCR.UE u0)) (key12 : ∀ u0, V (SCR.COLLIDE u0)) (key13 : ∀ u0, V (DSP.STALLS u0)) :
    Fr V M s0 (movePump n s) := by
  unfold movePump
  repeat' first
    | with_reducible intro _
    | with_reducible assumption
    | with_reducible apply key0
    | with_reducible apply key1
    | with_reducible apply key2
    | with_reducible apply key3
    | with_reducible apply key4
    | with_reducible apply key5
    | with_reducible apply key6
    | with_reducible apply key7
    | with_reducible apply key8
    | with_reducible apply key9
    | with_reducible apply key10
    | with_reducible apply key11
    | with_reducible apply key12
    | with_reducible apply key13
    | with_reducible apply moveIssue_fr
    | with_reducible apply modHead_fr
    | with_reducible apply setBit_fr
    | simp only [↓fr_mk_iff]
    | with_reducible apply fr_ite
    | (extract_lets x; first | (with_reducible refine fr_cut (s := x) ?_ ?_; (on_goal 2 => clear_value x); (on_goal 1 => unfold x)) | (subst x))
    | split

theorem execMove_fr (x : DspMove) (s : State) (hs : Fr V M s0 s) (key0 : ∀ u0, V (DBG.BRK_HITS u0)) (key1 : ∀ u0, V (DBG.BRK_STATE u0)) (key2 : V (DBG.EVFLAGS)) (key3 : V (DSP.CYCLES x.n)) (key4 : V (DSP.FAULT x.n)) (key5 : V (DSP.FAULT_PC x.n)) (key6 : V (DSP.FLAGS x.n)) (key7 : V (DSP.MOVE_DROPPED x.n)) (key8 : ∀ u0, V (DSP.MOVE_INFLIGHT u0)) (key9 : ∀ u0, V (DSP.MOVE_ISSUED u0)) (key10 : V (DSP.PC x.n)) (key11 : V (DSP.RPT_LEFT x.n)) (key12 : ∀ u0, V (DSP.STALLS u0)) (key13 : V (DSP.STATE x.n)) (key14 : V (DSP.WDOG_LEFT x.n)) (key15 : ∀ u0, V (SCR.CE u0)) (key16 : ∀ u0, V (SCR.EVFLAGS u0)) (key17 : ∀ u0, V (SCR.UE u0)) (key18 : ∀ u0, V (SCR.COLLIDE u0)) :
    FrOut V M s0 (execMove x s) := by
  unfold execMove moveInsn
  repeat' first
    | with_reducible intro _
    | with_reducible assumption
    | with_reducible apply key0
    | with_reducible apply key1
    | with_reducible apply key2
    | with_reducible apply key3
    | with_reducible apply key4
    | with_reducible apply key5
    | with_reducible apply key6
    | with_reducible apply key7
    | with_reducible apply key8
    | with_reducible apply key9
    | with_reducible apply key10
    | with_reducible apply key11
    | with_reducible apply key12
    | with_reducible apply key13
    | with_reducible apply key14
    | with_reducible apply key15
    | with_reducible apply key16
    | with_reducible apply key17
    | with_reducible apply key18
    | with_reducible apply movePump_fr
    | with_reducible apply insnCommand_fr
    | with_reducible apply retire_fr
    | with_reducible apply dspFault_fr
    | with_reducible apply modDsp_fr
    | simp only [↓fr_mk_iff]
    | with_reducible apply fr_ite
    | with_reducible apply frOut_next
    | with_reducible apply frOut_fault
    | with_reducible apply frOut_ite
    | with_reducible apply unitCmd_fr
    | (extract_lets x; first | (with_reducible refine fr_cut (s := x) ?_ ?_; (on_goal 2 => clear_value x); (on_goal 1 => unfold x)) | (subst x))
    | split

theorem execMoveGatePoll_fr (n : Nat) (s : State) (hs : Fr V M s0 s) (key0 : V (DSP.MOVE_INFLIGHT n)) (key1 : V (DSP.MOVE_ISSUED n)) :
    FrOut V M s0 (execMoveGatePoll n s) := by
  unfold execMoveGatePoll
  repeat' first
    | with_reducible intro _
    | with_reducible assumption
    | with_reducible apply unitCmd_fr
    | with_reducible apply upto_fr
    | with_reducible apply moveSend_fr
    | with_reducible apply modHead_fr
    | with_reducible apply frOut_next
    | with_reducible apply frOut_fault
    | with_reducible apply frOut_ite
    | simp only [↓fr_mk_iff]
    | with_reducible apply fr_ite
    | (extract_lets x; first | (with_reducible refine fr_cut (s := x) ?_ ?_; (on_goal 2 => clear_value x); (on_goal 1 => unfold x)) | (subst x))
    | split

theorem moveAnswered_fr (n : Nat) (x : MeshResp) (s : State) (hs : Fr V M s0 s) (key0 : V (DSP.MOVE_DONE n)) (key1 : V (DSP.MOVE_ERR n)) (key2 : V (DSP.MOVE_INFLIGHT n)) :
    Fr V M s0 (moveAnswered n x s) := by
  unfold moveAnswered
  repeat' first
    | with_reducible intro _
    | with_reducible assumption
    | with_reducible apply key0
    | with_reducible apply key1
    | with_reducible apply key2
    | with_reducible apply moveErr_fr
    | with_reducible apply bump_fr
    | with_reducible apply wr_fr
    | simp only [↓fr_mk_iff]
    | with_reducible apply fr_ite
    | (extract_lets x; first | (with_reducible refine fr_cut (s := x) ?_ ?_; (on_goal 2 => clear_value x); (on_goal 1 => unfold x)) | (subst x))
    | split

theorem gateDone_fr (n : Nat) (x : MeshResp) (s : State) (hs : Fr V M s0 s) (key0 : V (DSP.FLAGS n)) (key1 : V (DSP.MOVE_DONE n)) (key2 : V (DSP.MOVE_ERR n)) (key3 : ∀ u0, V (DSP.MOVE_INFLIGHT u0)) (key4 : ∀ u0, V (DSP.MOVE_ISSUED u0)) (key5 : V (DSP.CYCLES n)) (key6 : V (DSP.FAULT n)) (key7 : V (DSP.FAULT_PC n)) (key8 : V (DSP.MOVE_DROPPED n)) (key9 : V (DSP.STATE n)) (key10 : V (DSP.WDOG_LEFT n)) (key11 : ∀ u0, V (SCR.CE u0)) (key12 : ∀ u0, V (SCR.EVFLAGS u0)) (key13 : ∀ u0, V (SCR.UE u0)) (key14 : ∀ u0, V (SCR.COLLIDE u0)) (key15 : ∀ u0, V (DSP.STALLS u0)) :
    Fr V M s0 (gateDone n x s) := by
  unfold gateDone
  repeat' first
    | with_reducible intro _
    | with_reducible assumption
    | with_reducible apply key0
    | with_reducible apply key1
    | with_reducible apply key2
    | with_reducible apply key3
    | with_reducible apply key4
    | with_reducible apply key5
    | with_reducible apply key6
    | with_reducible apply key7
    | with_reducible apply key8
    | with_reducible apply key9
    | with_reducible apply key10
    | with_reducible apply key11
    | with_reducible apply key12
    | with_reducible apply key13
    | with_reducible apply key14
    | with_reducible apply key15
    | with_reducible apply moveAnswered_fr
    | with_reducible apply movePump_fr
    | with_reducible apply modHead_fr
    | with_reducible apply modDsp_fr
    | simp only [↓fr_mk_iff]
    | with_reducible apply fr_ite
    | (extract_lets x; first | (with_reducible refine fr_cut (s := x) ?_ ?_; (on_goal 2 => clear_value x); (on_goal 1 => unfold x)) | (subst x))
    | split

theorem moveStore_fr (n : Nat) (m : Mv) (k data : Nat) (s : State) (i : Nat) (hs : Fr V M s0 s) (key0 : M) (key1 : ∀ u0, V (SCR.COLLIDE u0)) (key2 : ∀ u0, V (DSP.STALLS u0)) :
    Fr V M s0 (moveStore n m k data s i) := by
  unfold moveStore
  repeat' first
    | with_reducible intro _
    | with_reducible assumption
    | with_reducible apply key0
    | with_reducible apply key1
    | with_reducible apply key2
    | with_reducible apply moverTake_fr
    | with_reducible apply store_fr
    | simp only [↓fr_mk_iff]
    | with_reducible apply fr_ite
    | (extract_lets x; first | (with_reducible refine fr_cut (s := x) ?_ ?_; (on_goal 2 => clear_value x); (on_goal 1 => unfold x)) | (subst x))
    | split

theorem moveDone_fr (n : Nat) (x : MeshResp) (s : State) (hs : Fr V M s0 s) (key0 : V (DSP.FLAGS n)) (key1 : V (DSP.MOVE_DONE n)) (key2 : V (DSP.MOVE_ERR n)) (key3 : ∀ u0, V (DSP.MOVE_INFLIGHT u0)) (key4 : ∀ u0, V (DSP.MOVE_ISSUED u0)) (key5 : M) (key6 : V (DSP.CYCLES n)) (key7 : V (DSP.FAULT n)) (key8 : V (DSP.FAULT_PC n)) (key9 : V (DSP.MOVE_DROPPED n)) (key10 : V (DSP.STATE n)) (key11 : V (DSP.WDOG_LEFT n)) (key12 : ∀ u0, V (SCR.CE u0)) (key13 : ∀ u0, V (SCR.EVFLAGS u0)) (key14 : ∀ u0, V (SCR.UE u0)) (key15 : ∀ u0, V (SCR.COLLIDE u0)) (key16 : ∀ u0, V (DSP.STALLS u0)) :
    Fr V M s0 (moveDone n x s) := by
  unfold moveDone
  repeat' first
    | with_reducible intro _
    | with_reducible assumption
    | with_reducible apply key0
    | with_reducible apply key1
    | with_reducible apply key2
    | with_reducible apply key3
    | with_reducible apply key4
    | with_reducible apply key5
    | with_reducible apply key6
    | with_reducible apply key7
    | with_reducible apply key8
    | with_reducible apply key9
    | with_reducible apply key10
    | with_reducible apply key11
    | with_reducible apply key12
    | with_reducible apply key13
    | with_reducible apply key14
    | with_reducible apply key15
    | with_reducible apply key16
    | with_reducible apply moveStore_fr
    | with_reducible apply moveAnswered_fr
    | with_reducible apply movePump_fr
    | with_reducible apply moveLost_fr
    | with_reducible apply modHead_fr
    | simp only [↓fr_mk_iff]
    | with_reducible apply fr_foldl
    | with_reducible apply fr_foldl_snd
    | with_reducible apply fr_ite
    | (extract_lets x; first | (with_reducible refine fr_cut (s := x) ?_ ?_; (on_goal 2 => clear_value x); (on_goal 1 => unfold x)) | (subst x))
    | split

theorem execMoveComplete_fr (n : Nat) (s : State) (hs : Fr V M s0 s) (key0 : V (DSP.FLAGS n)) (key1 : ∀ u1, V (DSP.MCOUNT n u1)) (key2 : ∀ u0, V (DSP.MOVE_INFLIGHT u0)) (key3 : ∀ u0, V (DSP.MOVE_ISSUED u0)) (key4 : V (DSP.CYCLES n)) (key5 : V (DSP.FAULT n)) (key6 : V (DSP.FAULT_PC n)) (key7 : V (DSP.MOVE_DROPPED n)) (key8 : V (DSP.STATE n)) (key9 : V (DSP.WDOG_LEFT n)) (key10 : ∀ u0, V (SCR.CE u0)) (key11 : ∀ u0, V (SCR.EVFLAGS u0)) (key12 : ∀ u0, V (SCR.UE u0)) (key13 : ∀ u0, V (SCR.COLLIDE u0)) (key14 : ∀ u0, V (DSP.STALLS u0)) :
    FrOut V M s0 (execMoveComplete n s) := by
  unfold execMoveComplete
  repeat' first
    | with_reducible intro _
    | with_reducible assumption
    | with_reducible apply key0
    | with_reducible apply key1
    | with_reducible apply key2
    | with_reducible apply key3
    | with_reducible apply key4
    | with_reducible apply key5
    | with_reducible apply key6
    | with_reducible apply key7
    | with_reducible apply key8
    | with_reducible apply key9
    | with_reducible apply key10
    | with_reducible apply key11
    | with_reducible apply key12
    | with_reducible apply key13
    | with_reducible apply key14
    | with_reducible apply movePump_fr
    | with_reducible apply moveSend_fr
    | with_reducible apply modDsp_fr
    | with_reducible apply note_fr
    | with_reducible apply wr_fr
    | simp only [↓fr_mk_iff]
    | with_reducible apply fr_ite
    | with_reducible apply frOut_next
    | with_reducible apply frOut_fault
    | with_reducible apply frOut_ite
    | with_reducible apply unitCmd_fr
    | (extract_lets x; first | (with_reducible refine fr_cut (s := x) ?_ ?_; (on_goal 2 => clear_value x); (on_goal 1 => unfold x)) | (subst x))
    | split

theorem dspStartEff_fr (n : Nat) (s : State) (hs : Fr V M s0 s) (key0 : V (DSP.STATE n)) :
    Fr V M s0 (dspStartEff n s) := by
  unfold dspStartEff
  repeat' first
    | with_reducible intro _
    | with_reducible assumption
    | with_reducible apply modDsp_fr
    | with_reducible apply wr_fr
    | simp only [↓fr_mk_iff]

theorem dspStartAtEff_fr (n : Nat) (s : State) (hs : Fr V M s0 s) (key0 : V (DSP.STATE n)) :
    Fr V M s0 (dspStartAtEff n s) := by
  unfold dspStartAtEff
  repeat' first
    | with_reducible intro _
    | with_reducible assumption
    | with_reducible apply dspStartEff_fr
    | with_reducible apply modDsp_fr
    | simp only [↓fr_mk_iff]
    | (extract_lets x; first | (with_reducible refine fr_cut (s := x) ?_ ?_; (on_goal 2 => clear_value x); (on_goal 1 => unfold x)) | (subst x))

theorem dspStopEff_fr (n : Nat) (s : State) (hs : Fr V M s0 s) (key0 : V (DSP.STATE n)) :
    Fr V M s0 (dspStopEff n s) := by
  unfold dspStopEff
  repeat' first
    | with_reducible intro _
    | with_reducible assumption
    | with_reducible apply schedFree_fr
    | with_reducible apply wr_fr
    | with_reducible apply modDsp_fr
    | simp only [↓fr_mk_iff]
    | with_reducible apply fr_ite
    | split

theorem dspHaltEff_fr (n : Nat) (s : State) (hs : Fr V M s0 s) :
    Fr V M s0 (dspHaltEff n s) := by
  unfold dspHaltEff
  repeat' first
    | with_reducible intro _
    | with_reducible assumption
    | with_reducible apply modDsp_fr
    | simp only [↓fr_mk_iff]

theorem dspGoOn_fr (n : Nat) (s : State) (hs : Fr V M s0 s) (key0 : V (DSP.STATE n)) :
    Fr V M s0 (dspGoOn n s) := by
  unfold dspGoOn
  repeat' first
    | with_reducible intro _
    | with_reducible assumption
    | with_reducible apply key0
    | with_reducible apply modDsp_fr
    | with_reducible apply wr_fr
    | simp only [↓fr_mk_iff]
    | with_reducible apply fr_ite
    | (extract_lets x; first | (with_reducible refine fr_cut (s := x) ?_ ?_; (on_goal 2 => clear_value x); (on_goal 1 => unfold x)) | (subst x))
    | split

theorem dspResumeEff_fr (n : Nat) (s : State) (hs : Fr V M s0 s) (key0 : V (DSP.STATE n)) :
    Fr V M s0 (dspResumeEff n s) := by
  unfold dspResumeEff
  repeat' first
    | with_reducible intro _
    | with_reducible assumption
    | with_reducible apply key0
    | with_reducible apply dspGoOn_fr
    | with_reducible apply modTgt_fr
    | simp only [↓fr_mk_iff]
    | with_reducible apply fr_ite
    | (extract_lets x; first | (with_reducible refine fr_cut (s := x) ?_ ?_; (on_goal 2 => clear_value x); (on_goal 1 => unfold x)) | (subst x))
    | split

theorem dspSelfcheckEff_fr (n : Nat) (s : State) (hs : Fr V M s0 s) (key0 : V (DSP.STATE n)) :
    Fr V M s0 (dspSelfcheckEff n s) := by
  unfold dspSelfcheckEff
  repeat' first
    | with_reducible intro _
    | with_reducible assumption
    | with_reducible apply modDsp_fr
    | with_reducible apply wr_fr
    | simp only [↓fr_mk_iff]

theorem execDspStart_fr (q : Req) (n : Nat) (s : State) (hs : Fr V M s0 s) (key0 : V (DSP.STATE n)) (key1 : ∀ u0, V (HDI.STATS u0)) :
    FrOut V M s0 (execDspStart q n s) := by
  unfold execDspStart
  repeat' first
    | with_reducible intro _
    | with_reducible assumption
    | with_reducible apply key1
    | with_reducible apply unitCmd_fr
    | with_reducible apply command_fr
    | with_reducible apply dspStartEff_fr
    | with_reducible apply frOut_next
    | with_reducible apply frOut_fault

theorem execDspStartAt_fr (q : Req) (n : Nat) (s : State) (hs : Fr V M s0 s) (key0 : V (DSP.STATE n)) (key1 : ∀ u0, V (HDI.STATS u0)) :
    FrOut V M s0 (execDspStartAt q n s) := by
  unfold execDspStartAt
  repeat' first
    | with_reducible intro _
    | with_reducible assumption
    | with_reducible apply key1
    | with_reducible apply unitCmd_fr
    | with_reducible apply command_fr
    | with_reducible apply dspStartAtEff_fr
    | with_reducible apply frOut_next
    | with_reducible apply frOut_fault

theorem execDspStop_fr (q : Req) (n : Nat) (s : State) (hs : Fr V M s0 s) (key0 : V (DSP.STATE n)) (key1 : ∀ u0, V (HDI.STATS u0)) :
    FrOut V M s0 (execDspStop q n s) := by
  unfold execDspStop
  repeat' first
    | with_reducible intro _
    | with_reducible assumption
    | with_reducible apply key1
    | with_reducible apply unitCmd_fr
    | with_reducible apply command_fr
    | with_reducible apply dspStopEff_fr
    | with_reducible apply frOut_next
    | with_reducible apply frOut_fault

theorem execDspHalt_fr (q : Req) (n : Nat) (s : State) (hs : Fr V M s0 s) (key0 : ∀ u0, V (HDI.STATS u0)) :
    FrOut V M s0 (execDspHalt q n s) := by
  unfold execDspHalt
  repeat' first
    | with_reducible intro _
    | with_reducible assumption
    | with_reducible apply key0
    | with_reducible apply unitCmd_fr
    | with_reducible apply command_fr
    | with_reducible apply dspHaltEff_fr
    | with_reducible apply frOut_next
    | with_reducible apply frOut_fault

theorem execDspResume_fr (q : Req) (n : Nat) (s : State) (hs : Fr V M s0 s) (key0 : V (DSP.STATE n)) (key1 : ∀ u0, V (HDI.STATS u0)) :
    FrOut V M s0 (execDspResume q n s) := by
  unfold execDspResume
  repeat' first
    | with_reducible intro _
    | with_reducible assumption
    | with_reducible apply key1
    | with_reducible apply unitCmd_fr
    | with_reducible apply command_fr
    | with_reducible apply dspResumeEff_fr
    | with_reducible apply frOut_next
    | with_reducible apply frOut_fault

theorem execDspSelfcheck_fr (q : Req) (n : Nat) (s : State) (hs : Fr V M s0 s) (key0 : V (DSP.STATE n)) (key1 : ∀ u0, V (HDI.STATS u0)) :
    FrOut V M s0 (execDspSelfcheck q n s) := by
  unfold execDspSelfcheck
  repeat' first
    | with_reducible intro _
    | with_reducible assumption
    | with_reducible apply key1
    | with_reducible apply unitCmd_fr
    | with_reducible apply command_fr
    | with_reducible apply dspSelfcheckEff_fr
    | with_reducible apply frOut_next
    | with_reducible apply frOut_fault

theorem execDspSelfcheckEnd_fr (n : Nat) (pass : Bool) (s : State) (hs : Fr V M s0 s) (key0 : V (DSP.SELFCHECK n)) (key1 : V (DSP.STATE n)) :
    FrOut V M s0 (execDspSelfcheckEnd n pass s) := by
  unfold execDspSelfcheckEnd
  repeat' first
    | with_reducible intro _
    | with_reducible assumption
    | with_reducible apply key0
    | with_reducible apply key1
    | with_reducible apply modDsp_fr
    | with_reducible apply raise_fr
    | with_reducible apply wr_fr
    | simp only [↓fr_mk_iff]
    | with_reducible apply fr_ite
    | with_reducible apply frOut_next
    | with_reducible apply frOut_fault
    | with_reducible apply frOut_ite
    | with_reducible apply unitCmd_fr
    | (extract_lets x; first | (with_reducible refine fr_cut (s := x) ?_ ?_; (on_goal 2 => clear_value x); (on_goal 1 => unfold x)) | (subst x))
    | split

theorem execDspStartEdge_fr (n : Nat) (s : State) (hs : Fr V M s0 s) (key0 : V (DSP.BEXP n)) (key1 : V (DSP.CYCLES n)) (key2 : V (DSP.EXPACC n)) (key3 : V (DSP.FLAGS n)) (key4 : V (DSP.RPT_LEFT n)) (key5 : V (DSP.STATE n)) (key6 : V (DSP.WDOG_LEFT n)) :
    FrOut V M s0 (execDspStartEdge n s) := by
  unfold execDspStartEdge
  repeat' first
    | with_reducible intro _
    | with_reducible assumption
    | with_reducible apply key0
    | with_reducible apply key1
    | with_reducible apply key2
    | with_reducible apply key3
    | with_reducible apply key4
    | with_reducible apply key5
    | with_reducible apply key6
    | with_reducible apply modDsp_fr
    | with_reducible apply upto_fr
    | with_reducible apply raise_fr
    | with_reducible apply wr_fr
    | simp only [↓fr_mk_iff]
    | with_reducible apply fr_ite
    | with_reducible apply frOut_next
    | with_reducible apply frOut_fault
    | with_reducible apply frOut_ite
    | with_reducible apply unitCmd_fr
    | (extract_lets x; first | (with_reducible refine fr_cut (s := x) ?_ ?_; (on_goal 2 => clear_value x); (on_goal 1 => unfold x)) | (subst x))
    | split

theorem dspLand_fr (n th : Nat) (halt : Bool) (s : State) (hs : Fr V M s0 s) (key0 : V (DBG.EVFLAGS)) (key1 : V (DSP.CYCLES n)) (key2 : V (DSP.FAULT n)) (key3 : V (DSP.FAULT_PC n)) (key4 : V (DSP.FLAGS n)) (key5 : V (DSP.MOVE_DROPPED n)) (key6 : V (DSP.STATE n)) (key7 : V (DSP.WDOG_LEFT n)) (key8 : V (DSP.STALLS n)) :
    Fr V M s0 (dspLand n th halt s) := by
  unfold dspLand
  repeat' first
    | with_reducible intro _
    | with_reducible assumption
    | with_reducible apply key0
    | with_reducible apply key1
    | with_reducible apply key2
    | with_reducible apply key3
    | with_reducible apply key4
    | with_reducible apply key5
    | with_reducible apply key6
    | with_reducible apply key7
    | with_reducible apply key8
    | with_reducible apply dspFault_fr
    | with_reducible apply dspStopAt_fr
    | with_reducible apply waited_fr
    | with_reducible apply freezeDsp_fr
    | with_reducible apply modDsp_fr
    | with_reducible apply modTgt_fr
    | with_reducible apply upto_fr
    | with_reducible apply flag_fr
    | with_reducible apply raise_fr
    | with_reducible apply wr_fr
    | simp only [↓fr_mk_iff]
    | with_reducible apply fr_ite
    | (extract_lets x; first | (with_reducible refine fr_cut (s := x) ?_ ?_; (on_goal 2 => clear_value x); (on_goal 1 => unfold x)) | (subst x))
    | split

theorem execDspHaltLands_fr (n : Nat) (s : State) (hs : Fr V M s0 s) (key0 : V (DBG.EVFLAGS)) (key1 : V (DSP.CYCLES n)) (key2 : V (DSP.FAULT n)) (key3 : V (DSP.FAULT_PC n)) (key4 : V (DSP.FLAGS n)) (key5 : V (DSP.MOVE_DROPPED n)) (key6 : V (DSP.STATE n)) (key7 : V (DSP.WDOG_LEFT n)) (key8 : V (DSP.STALLS n)) :
    FrOut V M s0 (execDspHaltLands n s) := by
  unfold execDspHaltLands
  repeat' first
    | with_reducible intro _
    | with_reducible assumption
    | with_reducible apply key0
    | with_reducible apply key1
    | with_reducible apply key2
    | with_reducible apply key3
    | with_reducible apply key4
    | with_reducible apply key5
    | with_reducible apply key6
    | with_reducible apply key7
    | with_reducible apply key8
    | with_reducible apply dspLand_fr
    | simp only [↓fr_mk_iff]
    | with_reducible apply fr_ite
    | with_reducible apply frOut_next
    | with_reducible apply frOut_fault
    | with_reducible apply frOut_ite
    | with_reducible apply unitCmd_fr
    | (extract_lets x; first | (with_reducible refine fr_cut (s := x) ?_ ?_; (on_goal 2 => clear_value x); (on_goal 1 => unfold x)) | (subst x))
    | split

theorem execDspStopLands_fr (n : Nat) (s : State) (hs : Fr V M s0 s) (key0 : V (DBG.EVFLAGS)) (key1 : V (DSP.CYCLES n)) (key2 : V (DSP.FAULT n)) (key3 : V (DSP.FAULT_PC n)) (key4 : V (DSP.FLAGS n)) (key5 : V (DSP.MOVE_DROPPED n)) (key6 : V (DSP.STATE n)) (key7 : V (DSP.WDOG_LEFT n)) (key8 : V (DSP.STALLS n)) :
    FrOut V M s0 (execDspStopLands n s) := by
  unfold execDspStopLands
  repeat' first
    | with_reducible intro _
    | with_reducible assumption
    | with_reducible apply key0
    | with_reducible apply key1
    | with_reducible apply key2
    | with_reducible apply key3
    | with_reducible apply key4
    | with_reducible apply key5
    | with_reducible apply key6
    | with_reducible apply key7
    | with_reducible apply key8
    | with_reducible apply dspLand_fr
    | with_reducible apply dspStopAt_fr
    | simp only [↓fr_mk_iff]
    | with_reducible apply fr_ite
    | with_reducible apply frOut_next
    | with_reducible apply frOut_fault
    | with_reducible apply frOut_ite
    | with_reducible apply unitCmd_fr
    | (extract_lets x; first | (with_reducible refine fr_cut (s := x) ?_ ?_; (on_goal 2 => clear_value x); (on_goal 1 => unfold x)) | (subst x))
    | split

set_option Elab.async false in
theorem execDspWatchdogExpiry_fr (n : Nat) (s : State) (hs : Fr V M s0 s) (key0 : V (DSP.CYCLES n)) (key1 : V (DSP.FAULT n)) (key2 : V (DSP.FAULT_PC n)) (key3 : V (DSP.FLAGS n)) (key4 : V (DSP.MOVE_DROPPED n)) (key5 : V (DSP.STATE n)) (key6 : V (DSP.WDOG_LEFT n)) (key7 : V (DSP.STALLS n)) :
    FrOut V M s0 (execDspWatchdogExpiry n s) := by
  unfold execDspWatchdogExpiry
  repeat' first
    | with_reducible intro _
    | with_reducible assumption
    | with_reducible apply key0
    | with_reducible apply key1
    | with_reducible apply key2
    | with_reducible apply key3
    | with_reducible apply key4
    | with_reducible apply key5
    | with_reducible apply key6
    | with_reducible apply key7
    | with_reducible apply boundaryFault_fr
    | simp only [↓fr_mk_iff]
    | with_reducible apply fr_ite
    | with_reducible apply frOut_next
    | with_reducible apply frOut_fault
    | with_reducible apply frOut_ite
    | with_reducible apply unitCmd_fr
    | (extract_lets x; first | (with_reducible refine fr_cut (s := x) ?_ ?_; (on_goal 2 => clear_value x); (on_goal 1 => unfold x)) | (subst x))
    | split

end Sys2Proof.Laws
end

