-- ==== Sys2Proof/Laws/FrameCrh.lean ====
section
/-! SUPPORT. Which members every operation of Machine/Crh.lean can change, and whether it can change the memory. -/
namespace Sys2Proof.Laws
open Sys2Proof Sys2Proof.Machine
set_option linter.unusedVariables false
set_option linter.unusedTactic false
set_option linter.unreachableTactic false

variable {V : Nat → Prop} {M : Prop} {s0 : State}

theorem modCrh_fr (f : CrhS → CrhS) (s : State) (hs : Fr V M s0 s) :
    Fr V M s0 (modCrh f s) := by
  unfold modCrh
  repeat' first
    | with_reducible intro _
    | with_reducible assumption
    | simp only [↓fr_mk_iff]

theorem graded_fr (s : State) (hs : Fr V M s0 s) (key0 : V (CRH.TTRIP) := by first | assumption | simp only [*]) (key1 : V (CRH.TWARN) := by first | assumption | simp only [*]) (key2 : ∀ u0, V (CRH.VHIGH u0) := by first | assumption | simp only [*]) (key3 : ∀ u0, V (CRH.VLOW u0) := by first | assumption | simp only [*]) :
    Fr V M s0 (graded s) := by
  unfold graded
  repeat' first
    | with_reducible intro _
    | with_reducible assumption
    | with_reducible apply key2
    | with_reducible apply key3
    | with_reducible apply wr_fr
    | with_reducible apply fr_ite
    | with_reducible apply fr_foldl
    | (extract_lets x; first | (with_reducible refine fr_cut (s := x) ?_ ?_; (on_goal 2 => clear_value x); (on_goal 1 => unfold x)) | (subst x))
    | split

theorem noteCause_fr (b : Nat) (s : State) (hs : Fr V M s0 s) (key0 : V (CRH.MPLL_LOSSES)) (key1 : V (CRH.RESET_CAUSE)) :
    Fr V M s0 (noteCause b s) := by
  unfold noteCause
  repeat' first
    | with_reducible intro _
    | with_reducible assumption
    | with_reducible apply setBit_fr
    | with_reducible apply bump_fr
    | with_reducible apply fr_ite
    | (extract_lets x; first | (with_reducible refine fr_cut (s := x) ?_ ?_; (on_goal 2 => clear_value x); (on_goal 1 => unfold x)) | (subst x))
    | split

theorem refinGone_fr (s : State) (hs : Fr V M s0 s) (key0 : V (CRH.CLK_STATUS)) (key1 : V (HDI.STATUS)) :
    Fr V M s0 (refinGone s) := by
  unfold refinGone
  repeat' first
    | with_reducible intro _
    | with_reducible assumption
    | with_reducible apply setBit_fr

theorem sampleStraps_fr (v : Nat) (s : State) (hs : Fr V M s0 s) (key0 : V (CRH.CLK_STATUS)) (key1 : V (CRH.STRAPS)) :
    Fr V M s0 (sampleStraps v s) := by
  unfold sampleStraps
  repeat' first
    | with_reducible intro _
    | with_reducible assumption
    | with_reducible apply wr_fr
    | with_reducible apply setBit_fr

theorem execNresetRise_fr (straps : Nat) (s : State) (hs : Fr V M s0 s) (key0 : V (CRH.CLK_STATUS)) (key1 : V (CRH.STRAPS)) :
    FrOut V M s0 (execNresetRise straps s) := by
  unfold execNresetRise
  repeat' first
    | with_reducible intro _
    | with_reducible assumption
    | with_reducible apply modCrh_fr
    | with_reducible apply sampleStraps_fr
    | with_reducible apply frOut_next
    | with_reducible apply frOut_fault
    | with_reducible apply frOut_ite
    | simp only [↓fr_mk_iff]
    | with_reducible apply fr_ite
    | split

theorem execResetEnd_fr (s : State) (hs : Fr V M s0 s) :
    FrOut V M s0 (execResetEnd s) := by
  unfold execResetEnd
  repeat' first
    | with_reducible intro _
    | with_reducible assumption
    | with_reducible apply modCrh_fr
    | with_reducible apply upto_fr
    | simp only [↓fr_mk_iff]
    | with_reducible apply fr_ite
    | with_reducible apply frOut_next
    | with_reducible apply frOut_fault
    | with_reducible apply frOut_ite
    | with_reducible apply unitCmd_fr
    | (extract_lets x; first | (with_reducible refine fr_cut (s := x) ?_ ?_; (on_goal 2 => clear_value x); (on_goal 1 => unfold x)) | (subst x))
    | split

theorem execRefinPresent_fr (s : State) (hs : Fr V M s0 s) (key0 : V (CRH.CLK_STATUS)) (key1 : V (HDI.STATUS)) :
    FrOut V M s0 (execRefinPresent s) := by
  unfold execRefinPresent
  repeat' first
    | with_reducible intro _
    | with_reducible assumption
    | with_reducible apply modCrh_fr
    | with_reducible apply setBit_fr
    | with_reducible apply frOut_next
    | with_reducible apply frOut_fault
    | with_reducible apply frOut_ite
    | simp only [↓fr_mk_iff]
    | with_reducible apply fr_ite
    | split

theorem execMpllLock_fr (s : State) (hs : Fr V M s0 s) (key0 : V (CRH.CLK_STATUS)) (key1 : V (DBG.EVFLAGS)) (key2 : V (HDI.STATUS)) :
    FrOut V M s0 (execMpllLock s) := by
  unfold execMpllLock
  repeat' first
    | with_reducible intro _
    | with_reducible assumption
    | with_reducible apply upto_fr
    | with_reducible apply setBit_fr
    | with_reducible apply modCrh_fr
    | with_reducible apply flag_fr
    | with_reducible apply frOut_next
    | with_reducible apply frOut_fault
    | with_reducible apply frOut_ite
    | simp only [↓fr_mk_iff]
    | with_reducible apply fr_ite
    | (extract_lets x; first | (with_reducible refine fr_cut (s := x) ?_ ?_; (on_goal 2 => clear_value x); (on_goal 1 => unfold x)) | (subst x))
    | split

theorem clkoutEff_fr (v : Nat) (s : State) (hs : Fr V M s0 s) (key0 : V (CRH.CLKOUT_CFG)) (key1 : V (CRH.CLK_STATUS)) :
    Fr V M s0 (clkoutEff v s) := by
  unfold clkoutEff
  repeat' first
    | with_reducible intro _
    | with_reducible assumption
    | with_reducible apply key0
    | with_reducible apply key1
    | with_reducible apply modCrh_fr
    | with_reducible apply setBit_fr
    | with_reducible apply wr_fr
    | simp only [↓fr_mk_iff]
    | with_reducible apply fr_ite
    | (extract_lets x; first | (with_reducible refine fr_cut (s := x) ?_ ?_; (on_goal 2 => clear_value x); (on_goal 1 => unfold x)) | (subst x))
    | split

theorem clkoutStart_fr (v : Nat) (s : State) (hs : Fr V M s0 s) :
    Fr V M s0 (clkoutStart v s) := by
  unfold clkoutStart
  repeat' first
    | with_reducible intro _
    | with_reducible assumption
    | with_reducible apply modCrh_fr
    | simp only [↓fr_mk_iff]
    | with_reducible apply fr_ite
    | (extract_lets x; first | (with_reducible refine fr_cut (s := x) ?_ ?_; (on_goal 2 => clear_value x); (on_goal 1 => unfold x)) | (subst x))
    | split

theorem execClkoutCfgWrite_fr (q : Req) (v : Nat) (s : State) (hs : Fr V M s0 s) (key0 : V (CRH.CLKOUT_CFG)) (key1 : V (CRH.CLK_STATUS)) (key2 : ∀ u0, V (HDI.STATS u0)) :
    FrOut V M s0 (execClkoutCfgWrite q v s) := by
  unfold execClkoutCfgWrite
  repeat' first
    | with_reducible intro _
    | with_reducible assumption
    | with_reducible apply key2
    | with_reducible apply writeTo_fr
    | with_reducible apply clkoutEff_fr
    | with_reducible apply frOut_next
    | with_reducible apply frOut_fault

theorem execClockSwitchDone_fr (s : State) (hs : Fr V M s0 s) (key0 : V (CRH.CLK_STATUS)) (key1 : V (CRH.EVFLAGS)) :
    FrOut V M s0 (execClockSwitchDone s) := by
  unfold execClockSwitchDone
  repeat' first
    | with_reducible intro _
    | with_reducible assumption
    | with_reducible apply key0
    | with_reducible apply key1
    | with_reducible apply clkoutStart_fr
    | with_reducible apply modCrh_fr
    | with_reducible apply crhFlag_fr
    | with_reducible apply upto_fr
    | with_reducible apply setBit_fr
    | simp only [↓fr_mk_iff]
    | with_reducible apply fr_ite
    | with_reducible apply frOut_next
    | with_reducible apply frOut_fault
    | with_reducible apply frOut_ite
    | with_reducible apply unitCmd_fr
    | (extract_lets x; first | (with_reducible refine fr_cut (s := x) ?_ ?_; (on_goal 2 => clear_value x); (on_goal 1 => unfold x)) | (subst x))
    | split

theorem execClockSwitchTimeout_fr (s : State) (hs : Fr V M s0 s) (key0 : V (CRH.CLK_STATUS)) (key1 : V (CRH.EVFLAGS)) :
    FrOut V M s0 (execClockSwitchTimeout s) := by
  unfold execClockSwitchTimeout
  repeat' first
    | with_reducible intro _
    | with_reducible assumption
    | with_reducible apply key0
    | with_reducible apply key1
    | with_reducible apply modCrh_fr
    | with_reducible apply crhFlag_fr
    | with_reducible apply upto_fr
    | with_reducible apply setBit_fr
    | simp only [↓fr_mk_iff]
    | with_reducible apply fr_ite
    | with_reducible apply frOut_next
    | with_reducible apply frOut_fault
    | with_reducible apply frOut_ite
    | with_reducible apply unitCmd_fr
    | (extract_lets x; first | (with_reducible refine fr_cut (s := x) ?_ ?_; (on_goal 2 => clear_value x); (on_goal 1 => unfold x)) | (subst x))
    | split

theorem fmEff_fr (s : State) (hs : Fr V M s0 s) (key0 : V (CRH.FM_STATE)) :
    Fr V M s0 (fmEff s) := by
  unfold fmEff
  repeat' first
    | with_reducible intro _
    | with_reducible assumption
    | with_reducible apply modCrh_fr
    | with_reducible apply wr_fr
    | simp only [↓fr_mk_iff]

theorem execFmStart_fr (q : Req) (s : State) (hs : Fr V M s0 s) (key0 : V (CRH.FM_STATE)) (key1 : ∀ u0, V (HDI.STATS u0)) :
    FrOut V M s0 (execFmStart q s) := by
  unfold execFmStart
  repeat' first
    | with_reducible intro _
    | with_reducible assumption
    | with_reducible apply key1
    | with_reducible apply command_fr
    | with_reducible apply fmEff_fr
    | with_reducible apply frOut_next
    | with_reducible apply frOut_fault

theorem execFmDone_fr (count : Nat) (s : State) (hs : Fr V M s0 s) (key0 : V (CRH.EVFLAGS)) (key1 : V (CRH.FM_COUNT)) (key2 : V (CRH.FM_HZ)) (key3 : V (CRH.FM_STATE)) :
    FrOut V M s0 (execFmDone count s) := by
  unfold execFmDone
  repeat' first
    | with_reducible intro _
    | with_reducible assumption
    | with_reducible apply upto_fr
    | with_reducible apply crhFlag_fr
    | with_reducible apply wr_fr
    | with_reducible apply frOut_next
    | with_reducible apply frOut_fault
    | with_reducible apply frOut_ite
    | with_reducible apply fr_ite
    | (extract_lets x; first | (with_reducible refine fr_cut (s := x) ?_ ?_; (on_goal 2 => clear_value x); (on_goal 1 => unfold x)) | (subst x))
    | split

theorem gateEff_fr (u v : Nat) (s : State) (hs : Fr V M s0 s) (key0 : V (CRH.GATE_EN u)) (key1 : V (CRH.GATE_STATE u)) (key2 : V (HDI.APPLY_OUTCOME)) (key3 : V (HDI.MIRROR_STATE)) (key4 : ∀ u0, V (VEN.STATE u0)) :
    Fr V M s0 (gateEff u v s) := by
  unfold gateEff
  repeat' first
    | with_reducible intro _
    | with_reducible assumption
    | with_reducible apply key4
    | with_reducible apply modCrh_fr
    | with_reducible apply wr_fr
    | with_reducible apply reopenIf_fr
    | simp only [↓fr_mk_iff]
    | with_reducible apply fr_ite
    | (extract_lets x; first | (with_reducible refine fr_cut (s := x) ?_ ?_; (on_goal 2 => clear_value x); (on_goal 1 => unfold x)) | (subst x))
    | split

theorem execGateClose_fr (q : Req) (u : Nat) (s : State) (hs : Fr V M s0 s) (key0 : V (CRH.GATE_EN u)) (key1 : V (CRH.GATE_STATE u)) (key2 : V (HDI.APPLY_OUTCOME)) (key3 : V (HDI.MIRROR_STATE)) (key4 : ∀ u0, V (HDI.STATS u0)) (key5 : ∀ u0, V (VEN.STATE u0)) :
    FrOut V M s0 (execGateClose q u s) := by
  unfold execGateClose
  repeat' first
    | with_reducible intro _
    | with_reducible assumption
    | with_reducible apply key4
    | with_reducible apply key5
    | with_reducible apply unitCmd_fr
    | with_reducible apply writeTo_fr
    | with_reducible apply gateEff_fr
    | with_reducible apply frOut_next
    | with_reducible apply frOut_fault

theorem execGateOpen_fr (q : Req) (u : Nat) (s : State) (hs : Fr V M s0 s) (key0 : V (CRH.GATE_EN u)) (key1 : V (CRH.GATE_STATE u)) (key2 : V (HDI.APPLY_OUTCOME)) (key3 : V (HDI.MIRROR_STATE)) (key4 : ∀ u0, V (HDI.STATS u0)) (key5 : ∀ u0, V (VEN.STATE u0)) :
    FrOut V M s0 (execGateOpen q u s) := by
  unfold execGateOpen
  repeat' first
    | with_reducible intro _
    | with_reducible assumption
    | with_reducible apply key4
    | with_reducible apply key5
    | with_reducible apply unitCmd_fr
    | with_reducible apply writeTo_fr
    | with_reducible apply gateEff_fr
    | with_reducible apply frOut_next
    | with_reducible apply frOut_fault

theorem gateEnds_fr (u st : Nat) (s : State) (hs : Fr V M s0 s) (key0 : V (CRH.EVFLAGS)) (key1 : V (CRH.GATED_TOUCHES)) (key2 : V (CRH.GATE_STATE u)) (key3 : ∀ u0, V (CRH.GATE_TOUCH u0)) (key4 : ∀ u0, V (CRH.PWR_STATE u0)) (key5 : M) (key6 : V (MSH.EVFLAGS)) (key7 : ∀ u0, V (MSH.WAKES u0)) (key8 : ∀ u0, V (PAN.EVFLAGS u0)) (key9 : ∀ u0, V (PAN.PERR u0)) (key10 : ∀ u0, V (SCR.CE u0)) (key11 : ∀ u0, V (SCR.EVFLAGS u0)) (key12 : ∀ u0, V (SCR.TEST_TOUCH u0)) (key13 : ∀ u0, V (SCR.UE u0)) (key14 : ∀ u0, V (SCR.STEAL_TIMEOUT u0)) (key15 : ∀ u0, V (SCR.COLLIDE u0)) (key16 : ∀ u0, V (DSP.STALLS u0)) :
    Fr V M s0 (gateEnds u st s) := by
  unfold gateEnds
  repeat' first
    | with_reducible intro _
    | with_reducible assumption
    | with_reducible apply key0
    | with_reducible apply key1
    | with_reducible apply key2
    | with_reducible apply key3
    | with_reducible apply key4
    | with_reducible apply key5
    | with_reducible apply key6
    | with_reducible apply key7
    | with_reducible apply key8
    | with_reducible apply key9
    | with_reducible apply key10
    | with_reducible apply key11
    | with_reducible apply key12
    | with_reducible apply key13
    | with_reducible apply key14
    | with_reducible apply key15
    | with_reducible apply key16
    | with_reducible apply modCrh_fr
    | with_reducible apply performHeld_fr
    | with_reducible apply crhFlag_fr
    | with_reducible apply modFacet_fr
    | with_reducible apply wr_fr
    | simp only [↓fr_mk_iff]
    | with_reducible apply fr_ite
    | (extract_lets x; first | (with_reducible refine fr_cut (s := x) ?_ ?_; (on_goal 2 => clear_value x); (on_goal 1 => unfold x)) | (subst x))
    | split

theorem execGateClosed_fr (u : Nat) (s : State) (hs : Fr V M s0 s) (key0 : V (CRH.EVFLAGS)) (key1 : V (CRH.GATED_TOUCHES)) (key2 : V (CRH.GATE_STATE u)) (key3 : ∀ u0, V (CRH.GATE_TOUCH u0)) (key4 : ∀ u0, V (CRH.PWR_STATE u0)) (key5 : M) (key6 : V (MSH.EVFLAGS)) (key7 : ∀ u0, V (MSH.WAKES u0)) (key8 : ∀ u0, V (PAN.EVFLAGS u0)) (key9 : ∀ u0, V (PAN.PERR u0)) (key10 : ∀ u0, V (SCR.CE u0)) (key11 : ∀ u0, V (SCR.EVFLAGS u0)) (key12 : ∀ u0, V (SCR.TEST_TOUCH u0)) (key13 : ∀ u0, V (SCR.UE u0)) (key14 : ∀ u0, V (SCR.STEAL_TIMEOUT u0)) (key15 : ∀ u0, V (SCR.COLLIDE u0)) (key16 : ∀ u0, V (DSP.STALLS u0)) :
    FrOut V M s0 (execGateClosed u s) := by
  unfold execGateClosed
  repeat' first
    | with_reducible intro _
    | with_reducible assumption
    | with_reducible apply key0
    | with_reducible apply key1
    | with_reducible apply key2
    | with_reducible apply key3
    | with_reducible apply key4
    | with_reducible apply key5
    | with_reducible apply key6
    | with_reducible apply key7
    | with_reducible apply key8
    | with_reducible apply key9
    | with_reducible apply key10
    | with_reducible apply key11
    | with_reducible apply key12
    | with_reducible apply key13
    | with_reducible apply key14
    | with_reducible apply key15
    | with_reducible apply key16
    | with_reducible apply gateEnds_fr
    | simp only [↓fr_mk_iff]
    | with_reducible apply fr_ite
    | with_reducible apply frOut_next
    | with_reducible apply frOut_fault
    | with_reducible apply frOut_ite
    | with_reducible apply unitCmd_fr
    | (extract_lets x; first | (with_reducible refine fr_cut (s := x) ?_ ?_; (on_goal 2 => clear_value x); (on_goal 1 => unfold x)) | (subst x))
    | split

theorem execGateCloseForce_fr (u : Nat) (s : State) (hs : Fr V M s0 s) :
    FrOut V M s0 (execGateCloseForce u s) := by
  unfold execGateCloseForce
  repeat' first
    | with_reducible intro _
    | with_reducible assumption
    | with_reducible apply unitCmd_fr
    | with_reducible apply modCrh_fr
    | with_reducible apply upto_fr
    | with_reducible apply frOut_next
    | with_reducible apply frOut_fault
    | with_reducible apply frOut_ite
    | simp only [↓fr_mk_iff]
    | with_reducible apply fr_ite
    | split

theorem execGateOpened_fr (u : Nat) (s : State) (hs : Fr V M s0 s) (key0 : V (CRH.EVFLAGS)) (key1 : V (CRH.GATED_TOUCHES)) (key2 : V (CRH.GATE_STATE u)) (key3 : ∀ u0, V (CRH.GATE_TOUCH u0)) (key4 : ∀ u0, V (CRH.PWR_STATE u0)) (key5 : M) (key6 : V (MSH.EVFLAGS)) (key7 : ∀ u0, V (MSH.WAKES u0)) (key8 : ∀ u0, V (PAN.EVFLAGS u0)) (key9 : ∀ u0, V (PAN.PERR u0)) (key10 : ∀ u0, V (SCR.CE u0)) (key11 : ∀ u0, V (SCR.EVFLAGS u0)) (key12 : ∀ u0, V (SCR.TEST_TOUCH u0)) (key13 : ∀ u0, V (SCR.UE u0)) (key14 : ∀ u0, V (SCR.STEAL_TIMEOUT u0)) (key15 : ∀ u0, V (SCR.COLLIDE u0)) (key16 : ∀ u0, V (DSP.STALLS u0)) :
    FrOut V M s0 (execGateOpened u s) := by
  unfold execGateOpened
  repeat' first
    | with_reducible intro _
    | with_reducible assumption
    | with_reducible apply key0
    | with_reducible apply key1
    | with_reducible apply key2
    | with_reducible apply key3
    | with_reducible apply key4
    | with_reducible apply key5
    | with_reducible apply key6
    | with_reducible apply key7
    | with_reducible apply key8
    | with_reducible apply key9
    | with_reducible apply key10
    | with_reducible apply key11
    | with_reducible apply key12
    | with_reducible apply key13
    | with_reducible apply key14
    | with_reducible apply key15
    | with_reducible apply key16
    | with_reducible apply gateEnds_fr
    | with_reducible apply upto_fr
    | simp only [↓fr_mk_iff]
    | with_reducible apply fr_ite
    | with_reducible apply frOut_next
    | with_reducible apply frOut_fault
    | with_reducible apply frOut_ite
    | with_reducible apply unitCmd_fr
    | (extract_lets x; first | (with_reducible refine fr_cut (s := x) ?_ ?_; (on_goal 2 => clear_value x); (on_goal 1 => unfold x)) | (subst x))
    | split

theorem pwrEff_fr (d v : Nat) (s : State) (hs : Fr V M s0 s) (key0 : V (CRH.PWR d)) (key1 : V (CRH.PWR_STATE d)) :
    Fr V M s0 (pwrEff d v s) := by
  unfold pwrEff
  repeat' first
    | with_reducible intro _
    | with_reducible assumption
    | with_reducible apply key0
    | with_reducible apply key1
    | with_reducible apply modCrh_fr
    | with_reducible apply wakeDomain_fr
    | with_reducible apply offAt_fr
    | with_reducible apply wr_fr
    | simp only [↓fr_mk_iff]
    | with_reducible apply fr_ite
    | (extract_lets x; first | (with_reducible refine fr_cut (s := x) ?_ ?_; (on_goal 2 => clear_value x); (on_goal 1 => unfold x)) | (subst x))
    | split

theorem execPowerOff_fr (q : Req) (d : Nat) (s : State) (hs : Fr V M s0 s) (key0 : V (CRH.PWR d)) (key1 : V (CRH.PWR_STATE d)) (key2 : ∀ u0, V (HDI.STATS u0)) :
    FrOut V M s0 (execPowerOff q d s) := by
  unfold execPowerOff
  repeat' first
    | with_reducible intro _
    | with_reducible assumption
    | with_reducible apply key2
    | with_reducible apply unitCmd_fr
    | with_reducible apply writeTo_fr
    | with_reducible apply pwrEff_fr
    | with_reducible apply frOut_next
    | with_reducible apply frOut_fault

theorem execPowerOn_fr (q : Req) (d : Nat) (s : State) (hs : Fr V M s0 s) (key0 : V (CRH.PWR d)) (key1 : V (CRH.PWR_STATE d)) (key2 : ∀ u0, V (HDI.STATS u0)) :
    FrOut V M s0 (execPowerOn q d s) := by
  unfold execPowerOn
  repeat' first
    | with_reducible intro _
    | with_reducible assumption
    | with_reducible apply key2
    | with_reducible apply unitCmd_fr
    | with_reducible apply writeTo_fr
    | with_reducible apply pwrEff_fr
    | with_reducible apply frOut_next
    | with_reducible apply frOut_fault

theorem execDomainOff_fr (d : Nat) (s : State) (hs : Fr V M s0 s) (key0 : V (CRH.PWR_STATE d)) (key1 : M) (key2 : ∀ u0, V (PAN.DISCARD u0)) (key3 : ∀ u0, V (PAN.EVFLAGS u0)) (key4 : ∀ u0, V (PAN.STATE u0)) (key5 : V (SCR.STATE (d - 32))) :
    FrOut V M s0 (execDomainOff d s) := by
  unfold execDomainOff
  repeat' first
    | with_reducible intro _
    | with_reducible assumption
    | with_reducible apply key0
    | with_reducible apply key1
    | with_reducible apply key2
    | with_reducible apply key3
    | with_reducible apply key4
    | with_reducible apply key5
    | with_reducible apply modCrh_fr
    | with_reducible apply domainUnits_fr
    | with_reducible apply loseDomain_fr
    | with_reducible apply offAt_fr
    | with_reducible apply wr_fr
    | simp only [↓fr_mk_iff]
    | with_reducible apply fr_ite
    | with_reducible apply frOut_next
    | with_reducible apply frOut_fault
    | with_reducible apply frOut_ite
    | with_reducible apply unitCmd_fr
    | (extract_lets x; first | (with_reducible refine fr_cut (s := x) ?_ ?_; (on_goal 2 => clear_value x); (on_goal 1 => unfold x)) | (subst x))
    | split

theorem pumpBank_fr (b : Nat) (s : State) (hs : Fr V M s0 s) (key0 : ∀ u0, V (DSP.FLAGS u0)) (key1 : ∀ u0, V (DSP.MOVE_INFLIGHT u0)) (key2 : ∀ u0, V (DSP.MOVE_ISSUED u0)) (key3 : ∀ u0, V (DSP.CYCLES u0)) (key4 : ∀ u0, V (DSP.FAULT u0)) (key5 : ∀ u0, V (DSP.FAULT_PC u0)) (key6 : ∀ u0, V (DSP.MOVE_DROPPED u0)) (key7 : ∀ u0, V (DSP.STATE u0)) (key8 : ∀ u0, V (DSP.WDOG_LEFT u0)) (key9 : ∀ u0, V (SCR.CE u0)) (key10 : ∀ u0, V (SCR.EVFLAGS u0)) (key11 : ∀ u0, V (SCR.UE u0)) (key12 : ∀ u0, V (SCR.COLLIDE u0)) (key13 : ∀ u0, V (DSP.STALLS u0)) :
    Fr V M s0 (pumpBank b s) := by
  unfold pumpBank
  repeat' first
    | with_reducible intro _
    | with_reducible assumption
    | with_reducible apply key0
    | with_reducible apply key1
    | with_reducible apply key2
    | with_reducible apply key3
    | with_reducible apply key4
    | with_reducible apply key5
    | with_reducible apply key6
    | with_reducible apply key7
    | with_reducible apply key8
    | with_reducible apply key9
    | with_reducible apply key10
    | with_reducible apply key11
    | with_reducible apply key12
    | with_reducible apply key13
    | with_reducible apply movePump_fr
    | simp only [↓fr_mk_iff]
    | with_reducible apply fr_foldl
    | with_reducible apply fr_foldl_snd
    | with_reducible apply fr_ite
    | (extract_lets x; first | (with_reducible refine fr_cut (s := x) ?_ ?_; (on_goal 2 => clear_value x); (on_goal 1 => unfold x)) | (subst x))
    | split

theorem execClearEnd_fr (d : Nat) (s : State) (hs : Fr V M s0 s) (key0 : V (CRH.EVFLAGS)) (key1 : V (CRH.GATED_TOUCHES)) (key2 : ∀ u0, V (CRH.GATE_TOUCH u0)) (key3 : ∀ u0, V (CRH.PWR_STATE u0)) (key4 : M) (key5 : V (MSH.EVFLAGS)) (key6 : ∀ u0, V (MSH.WAKES u0)) (key7 : ∀ u0, V (PAN.EVFLAGS u0)) (key8 : ∀ u0, V (PAN.PERR u0)) (key9 : ∀ u0, V (PAN.STATE u0)) (key10 : ∀ u0, V (SCR.CE u0)) (key11 : ∀ u0, V (SCR.EVFLAGS u0)) (key12 : V (SCR.STATE (d - 32))) (key13 : ∀ u0, V (SCR.TEST_TOUCH u0)) (key14 : ∀ u0, V (SCR.UE u0)) (key15 : ∀ u0, V (SCR.STEAL_TIMEOUT u0)) (key16 : ∀ u0, V (SCR.COLLIDE u0)) (key17 : ∀ u0, V (DSP.STALLS u0)) (key18 : ∀ u0, V (DSP.FLAGS u0)) (key19 : ∀ u0, V (DSP.MOVE_INFLIGHT u0)) (key20 : ∀ u0, V (DSP.MOVE_ISSUED u0)) (key21 : ∀ u0, V (DSP.CYCLES u0)) (key22 : ∀ u0, V (DSP.FAULT u0)) (key23 : ∀ u0, V (DSP.FAULT_PC u0)) (key24 : ∀ u0, V (DSP.MOVE_DROPPED u0)) (key25 : ∀ u0, V (DSP.STATE u0)) (key26 : ∀ u0, V (DSP.WDOG_LEFT u0)) :
    FrOut V M s0 (execClearEnd d s) := by
  unfold execClearEnd
  repeat' first
    | with_reducible intro _
    | with_reducible assumption
    | with_reducible apply key0
    | with_reducible apply key1
    | with_reducible apply key2
    | with_reducible apply key3
    | with_reducible apply key4
    | with_reducible apply key5
    | with_reducible apply key6
    | with_reducible apply key7
    | with_reducible apply key8
    | with_reducible apply key9
    | with_reducible apply key10
    | with_reducible apply key11
    | with_reducible apply key12
    | with_reducible apply key13
    | with_reducible apply key14
    | with_reducible apply key15
    | with_reducible apply key16
    | with_reducible apply key17
    | with_reducible apply key18
    | with_reducible apply key19
    | with_reducible apply key20
    | with_reducible apply key21
    | with_reducible apply key22
    | with_reducible apply key23
    | with_reducible apply key24
    | with_reducible apply key25
    | with_reducible apply key26
    | with_reducible apply pumpBank_fr
    | with_reducible apply performHeld_fr
    | with_reducible apply crhFlag_fr
    | with_reducible apply domainUnits_fr
    | with_reducible apply wr_fr
    | simp only [↓fr_mk_iff]
    | with_reducible apply fr_ite
    | with_reducible apply frOut_next
    | with_reducible apply frOut_fault
    | with_reducible apply frOut_ite
    | with_reducible apply unitCmd_fr
    | (extract_lets x; first | (with_reducible refine fr_cut (s := x) ?_ ?_; (on_goal 2 => clear_value x); (on_goal 1 => unfold x)) | (subst x))
    | split

theorem railHolds_fr (r mv : Nat) (s : State) (hs : Fr V M s0 s) :
    Fr V M s0 (railHolds r mv s) := by
  unfold railHolds
  repeat' first
    | with_reducible intro _
    | with_reducible assumption
    | with_reducible apply modCrh_fr
    | simp only [↓fr_mk_iff]
    | with_reducible apply fr_ite
    | (extract_lets x; first | (with_reducible refine fr_cut (s := x) ?_ ?_; (on_goal 2 => clear_value x); (on_goal 1 => unfold x)) | (subst x))
    | split

theorem execRailSample_fr (r mv : Nat) (s : State) (hs : Fr V M s0 s) (key0 : V (CRH.EVFLAGS)) (key1 : V (CRH.VOLT r)) :
    FrOut V M s0 (execRailSample r mv s) := by
  unfold execRailSample
  repeat' first
    | with_reducible intro _
    | with_reducible assumption
    | with_reducible apply key0
    | with_reducible apply key1
    | with_reducible apply railHolds_fr
    | with_reducible apply crhFlag_fr
    | with_reducible apply wr_fr
    | simp only [↓fr_mk_iff]
    | with_reducible apply fr_ite
    | with_reducible apply frOut_next
    | with_reducible apply frOut_fault
    | with_reducible apply frOut_ite
    | with_reducible apply unitCmd_fr
    | (extract_lets x; first | (with_reducible refine fr_cut (s := x) ?_ ?_; (on_goal 2 => clear_value x); (on_goal 1 => unfold x)) | (subst x))
    | split

theorem followLevel_fr (k old new : Nat) (s : State) (hs : Fr V M s0 s) (key0 : V k) :
    Fr V M s0 (followLevel k old new s) := by
  unfold followLevel
  repeat' first
    | with_reducible intro _
    | with_reducible assumption
    | with_reducible apply wr_fr
    | with_reducible apply fr_ite
    | split

theorem senseBank_fr (b level : Nat) (s : State) (hs : Fr V M s0 s) (key0 : V (FAB.IO_BANK b)) :
    Fr V M s0 (senseBank b level s) := by
  unfold senseBank
  repeat' first
    | with_reducible intro _
    | with_reducible assumption
    | with_reducible apply wr_fr

theorem execPullselChange_fr (b v : Nat) (s : State) (hs : Fr V M s0 s) (key0 : V (FAB.IO_BANK b)) :
    FrOut V M s0 (execPullselChange b v s) := by
  unfold execPullselChange
  repeat' first
    | with_reducible intro _
    | with_reducible assumption
    | with_reducible apply unitCmd_fr
    | with_reducible apply senseBank_fr
    | with_reducible apply frOut_next
    | with_reducible apply frOut_fault
    | with_reducible apply frOut_ite
    | simp only [↓fr_mk_iff]
    | with_reducible apply fr_ite
    | (extract_lets x; first | (with_reducible refine fr_cut (s := x) ?_ ?_; (on_goal 2 => clear_value x); (on_goal 1 => unfold x)) | (subst x))
    | split

set_option Elab.async false in
theorem execVioRailChange_fr (b : Nat) (ok : Bool) (level : Nat) (s : State) (hs : Fr V M s0 s) (key0 : V (CRH.VHIGH (6 + b))) (key1 : V (CRH.VLOW (6 + b))) (key2 : V (FAB.IO_BANK b)) :
    FrOut V M s0 (execVioRailChange b ok level s) := by
  unfold execVioRailChange
  repeat' first
    | with_reducible intro _
    | with_reducible assumption
    | with_reducible apply unitCmd_fr
    | with_reducible apply senseBank_fr
    | with_reducible apply followLevel_fr
    | with_reducible apply frOut_next
    | with_reducible apply frOut_fault
    | with_reducible apply frOut_ite
    | simp only [↓fr_mk_iff]
    | with_reducible apply fr_ite
    | (extract_lets x; first | (with_reducible refine fr_cut (s := x) ?_ ?_; (on_goal 2 => clear_value x); (on_goal 1 => unfold x)) | (subst x))
    | split

end Sys2Proof.Laws
end

