-- ==== Sys2Proof/Laws/FrameCfg.lean ====
section
/-! SUPPORT. Which members every operation of Machine/Cfg.lean can change, and whether it can change the memory. -/
namespace Sys2Proof.Laws
open Sys2Proof Sys2Proof.Machine
set_option linter.unusedVariables false
set_option linter.unusedTactic false
set_option linter.unreachableTactic false

variable {V : Nat → Prop} {M : Prop} {s0 : State}

theorem modCfg_fr (f : CfgS → CfgS) (s : State) (hs : Fr V M s0 s) :
    Fr V M s0 (modCfg f s) := by
  unfold modCfg
  repeat' first
    | with_reducible intro _
    | with_reducible assumption
    | simp only [↓fr_mk_iff]

theorem facetLoaded_fr (l : LoadS) (h : Header) (f : Nat) (s : State) (hs : Fr V M s0 s) (key0 : V (CFG.FACET_LOADS f)) (key1 : V (CFG.FACET_STATE f)) (key2 : V (FAB.DESIGN_ID f)) :
    Fr V M s0 (facetLoaded l h f s) := by
  unfold facetLoaded
  repeat' first
    | with_reducible intro _
    | with_reducible assumption
    | with_reducible apply key0
    | with_reducible apply key1
    | with_reducible apply key2
    | with_reducible apply modCfg_fr
    | with_reducible apply bump_fr
    | with_reducible apply wr_fr
    | simp only [↓fr_mk_iff]
    | with_reducible apply fr_ite
    | (extract_lets x; first | (with_reducible refine fr_cut (s := x) ?_ ?_; (on_goal 2 => clear_value x); (on_goal 1 => unfold x)) | (subst x))
    | split

theorem tearFacets_fr (l : LoadS) (h : Header) (s : State) (hs : Fr V M s0 s) (key0 : ∀ u0, V (CFG.FACET_STATE u0)) (key1 : ∀ u0, V (CFG.FACET_LOADS u0)) (key2 : ∀ u0, V (FAB.DESIGN_ID u0)) :
    Fr V M s0 (tearFacets l h s) := by
  unfold tearFacets
  repeat' first
    | with_reducible intro _
    | with_reducible assumption
    | with_reducible apply key0
    | with_reducible apply key1
    | with_reducible apply key2
    | with_reducible apply facetLoaded_fr
    | with_reducible apply wr_fr
    | simp only [↓fr_mk_iff]
    | with_reducible apply fr_foldl
    | with_reducible apply fr_foldl_snd
    | with_reducible apply fr_ite
    | (extract_lets x; first | (with_reducible refine fr_cut (s := x) ?_ ?_; (on_goal 2 => clear_value x); (on_goal 1 => unfold x)) | (subst x))
    | split

theorem setSources_fr (l : LoadS) (region : Nat) (s : State) (hs : Fr V M s0 s) (key0 : ∀ u0, V (CFG.LOUPE_SRC_ADDR u0)) (key1 : ∀ u0, V (CFG.LOUPE_SRC_TYPE u0)) :
    Fr V M s0 (setSources l region s) := by
  unfold setSources
  repeat' first
    | with_reducible intro _
    | with_reducible assumption
    | with_reducible apply key0
    | with_reducible apply key1
    | with_reducible apply wr_fr
    | simp only [↓fr_mk_iff]
    | with_reducible apply fr_ite
    | with_reducible apply fr_foldl
    | split

theorem loadEnd_fr (c at' : Nat) (s : State) (hs : Fr V M s0 s) (key0 : ∀ u0, V (CFG.FACET_STATE u0)) (key1 : V (CFG.LOAD_CAUSE)) (key2 : V (CFG.LOAD_FAIL_AT)) (key3 : V (CFG.LOAD_STATE)) (key4 : V (CFG.LOAD_STATUS)) (key5 : V (CFG.LOAD_TIME)) (key6 : ∀ u0, V (CFG.LOUPE_SRC_ADDR u0)) (key7 : ∀ u0, V (CFG.LOUPE_SRC_TYPE u0)) (key8 : ∀ u0, V (CFG.FACET_LOADS u0)) (key9 : ∀ u0, V (FAB.DESIGN_ID u0)) :
    Fr V M s0 (loadEnd c at' s) := by
  unfold loadEnd
  repeat' first
    | with_reducible intro _
    | with_reducible assumption
    | with_reducible apply key0
    | with_reducible apply key1
    | with_reducible apply key2
    | with_reducible apply key3
    | with_reducible apply key4
    | with_reducible apply key5
    | with_reducible apply key6
    | with_reducible apply key7
    | with_reducible apply key8
    | with_reducible apply key9
    | with_reducible apply setSources_fr
    | with_reducible apply tearFacets_fr
    | with_reducible apply modCfg_fr
    | with_reducible apply raise_fr
    | with_reducible apply wr_fr
    | simp only [↓fr_mk_iff]
    | with_reducible apply fr_ite
    | (extract_lets x; first | (with_reducible refine fr_cut (s := x) ?_ ?_; (on_goal 2 => clear_value x); (on_goal 1 => unfold x)) | (subst x))
    | split

theorem loadFail_fr (c at' : Nat) (s : State) (hs : Fr V M s0 s) (key0 : ∀ u0, V (CFG.FACET_STATE u0)) (key1 : V (CFG.LOAD_BYTES)) (key2 : V (CFG.LOAD_CAUSE)) (key3 : V (CFG.LOAD_FAIL_AT)) (key4 : V (CFG.LOAD_STATE)) (key5 : V (CFG.LOAD_STATUS)) (key6 : V (CFG.LOAD_TIME)) (key7 : ∀ u0, V (CFG.LOUPE_SRC_ADDR u0)) (key8 : ∀ u0, V (CFG.LOUPE_SRC_TYPE u0)) (key9 : ∀ u0, V (CFG.FACET_LOADS u0)) (key10 : ∀ u0, V (FAB.DESIGN_ID u0)) :
    Fr V M s0 (loadFail c at' s) := by
  unfold loadFail
  repeat' first
    | with_reducible intro _
    | with_reducible assumption
    | with_reducible apply key0
    | with_reducible apply key1
    | with_reducible apply key2
    | with_reducible apply key3
    | with_reducible apply key4
    | with_reducible apply key5
    | with_reducible apply key6
    | with_reducible apply key7
    | with_reducible apply key8
    | with_reducible apply key9
    | with_reducible apply key10
    | with_reducible apply loadEnd_fr
    | with_reducible apply modCfg_fr
    | with_reducible apply wr_fr
    | simp only [↓fr_mk_iff]
    | with_reducible apply fr_ite
    | (extract_lets x; first | (with_reducible refine fr_cut (s := x) ?_ ?_; (on_goal 2 => clear_value x); (on_goal 1 => unfold x)) | (subst x))
    | split

theorem abandon_fr (gone : FrameId → Nat → Bool) (s : State) (hs : Fr V M s0 s) (key0 : V (CFG.LOUPE_ABANDONED) := by first | assumption | simp only [*]) :
    Fr V M s0 (abandon gone s) := by
  unfold abandon
  repeat' first
    | with_reducible intro _
    | with_reducible assumption
    | with_reducible apply modCfg_fr
    | with_reducible apply addTo_fr
    | with_reducible apply fr_ite
    | (extract_lets x; first | (with_reducible refine fr_cut (s := x) ?_ ?_; (on_goal 2 => clear_value x); (on_goal 1 => unfold x)) | (subst x))
    | split

theorem loadStart_fr (l : LoadS) (s : State) (hs : Fr V M s0 s) (key0 : V (CFG.LOAD_BYTES)) (key1 : V (CFG.LOAD_CAUSE)) (key2 : V (CFG.LOAD_STATE)) (key3 : V (CFG.LOAD_STATUS)) (key4 : V (CFG.LOUPE_ABANDONED)) :
    Fr V M s0 (loadStart l s) := by
  unfold loadStart
  repeat' first
    | with_reducible intro _
    | with_reducible assumption
    | with_reducible apply key0
    | with_reducible apply key1
    | with_reducible apply key2
    | with_reducible apply key3
    | with_reducible apply key4
    | with_reducible apply abandon_fr
    | with_reducible apply modCfg_fr
    | with_reducible apply wr_fr
    | simp only [↓fr_mk_iff]
    | with_reducible apply fr_ite
    | (extract_lets x; first | (with_reducible refine fr_cut (s := x) ?_ ?_; (on_goal 2 => clear_value x); (on_goal 1 => unfold x)) | (subst x))
    | split

theorem loadEff_fr (full : Bool) (flash : Flash) (s : State) (hs : Fr V M s0 s) (key0 : V (CFG.LOAD_BYTES)) (key1 : V (CFG.LOAD_CAUSE)) (key2 : V (CFG.LOAD_STATE)) (key3 : V (CFG.LOAD_STATUS)) (key4 : V (CFG.LOUPE_ABANDONED)) :
    Fr V M s0 (loadEff full flash s) := by
  unfold loadEff
  repeat' first
    | with_reducible intro _
    | with_reducible assumption
    | with_reducible apply loadStart_fr
    | with_reducible apply modCfg_fr
    | simp only [↓fr_mk_iff]

theorem abortEff_fr (s : State) (hs : Fr V M s0 s) (key0 : ∀ u0, V (CFG.FACET_STATE u0)) (key1 : V (CFG.LOAD_CAUSE)) (key2 : V (CFG.LOAD_FAIL_AT)) (key3 : V (CFG.LOAD_STATE)) (key4 : V (CFG.LOAD_STATUS)) (key5 : V (CFG.LOAD_TIME)) (key6 : ∀ u0, V (CFG.LOUPE_SRC_ADDR u0)) (key7 : ∀ u0, V (CFG.LOUPE_SRC_TYPE u0)) (key8 : ∀ u0, V (CFG.FACET_LOADS u0)) (key9 : ∀ u0, V (FAB.DESIGN_ID u0)) :
    Fr V M s0 (abortEff s) := by
  unfold abortEff
  repeat' first
    | with_reducible intro _
    | with_reducible assumption
    | with_reducible apply key0
    | with_reducible apply key1
    | with_reducible apply key2
    | with_reducible apply key3
    | with_reducible apply key4
    | with_reducible apply key5
    | with_reducible apply key6
    | with_reducible apply key7
    | with_reducible apply key8
    | with_reducible apply key9
    | with_reducible apply loadEnd_fr
    | simp only [↓fr_mk_iff]
    | with_reducible apply fr_ite
    | (extract_lets x; first | (with_reducible refine fr_cut (s := x) ?_ ?_; (on_goal 2 => clear_value x); (on_goal 1 => unfold x)) | (subst x))
    | split

theorem execAutoLoad_fr (flash : Flash) (s : State) (hs : Fr V M s0 s) (key0 : V (CFG.LOAD_BYTES)) (key1 : V (CFG.LOAD_CAUSE)) (key2 : V (CFG.LOAD_STATE)) (key3 : V (CFG.LOAD_STATUS)) (key4 : V (CFG.LOUPE_ABANDONED)) :
    FrOut V M s0 (execAutoLoad flash s) := by
  unfold execAutoLoad
  repeat' first
    | with_reducible intro _
    | with_reducible assumption
    | with_reducible apply modCfg_fr
    | with_reducible apply loadStart_fr
    | with_reducible apply frOut_next
    | with_reducible apply frOut_fault
    | with_reducible apply frOut_ite
    | simp only [↓fr_mk_iff]
    | with_reducible apply fr_ite
    | (extract_lets x; first | (with_reducible refine fr_cut (s := x) ?_ ?_; (on_goal 2 => clear_value x); (on_goal 1 => unfold x)) | (subst x))
    | split

theorem execLoadFull_fr (q : Req) (flash : Flash) (s : State) (hs : Fr V M s0 s) (key0 : V (CFG.LOAD_BYTES)) (key1 : V (CFG.LOAD_CAUSE)) (key2 : V (CFG.LOAD_STATE)) (key3 : V (CFG.LOAD_STATUS)) (key4 : V (CFG.LOUPE_ABANDONED)) (key5 : ∀ u0, V (HDI.STATS u0)) :
    FrOut V M s0 (execLoadFull q flash s) := by
  unfold execLoadFull
  repeat' first
    | with_reducible intro _
    | with_reducible assumption
    | with_reducible apply key5
    | with_reducible apply command_fr
    | with_reducible apply loadEff_fr
    | with_reducible apply frOut_next
    | with_reducible apply frOut_fault

theorem execLoadPartial_fr (q : Req) (flash : Flash) (s : State) (hs : Fr V M s0 s) (key0 : V (CFG.LOAD_BYTES)) (key1 : V (CFG.LOAD_CAUSE)) (key2 : V (CFG.LOAD_STATE)) (key3 : V (CFG.LOAD_STATUS)) (key4 : V (CFG.LOUPE_ABANDONED)) (key5 : ∀ u0, V (HDI.STATS u0)) :
    FrOut V M s0 (execLoadPartial q flash s) := by
  unfold execLoadPartial
  repeat' first
    | with_reducible intro _
    | with_reducible assumption
    | with_reducible apply key5
    | with_reducible apply command_fr
    | with_reducible apply loadEff_fr
    | with_reducible apply frOut_next
    | with_reducible apply frOut_fault

theorem execLoadAbort_fr (q : Req) (s : State) (hs : Fr V M s0 s) (key0 : ∀ u0, V (CFG.FACET_STATE u0)) (key1 : V (CFG.LOAD_CAUSE)) (key2 : V (CFG.LOAD_FAIL_AT)) (key3 : V (CFG.LOAD_STATE)) (key4 : V (CFG.LOAD_STATUS)) (key5 : V (CFG.LOAD_TIME)) (key6 : ∀ u0, V (CFG.LOUPE_SRC_ADDR u0)) (key7 : ∀ u0, V (CFG.LOUPE_SRC_TYPE u0)) (key8 : ∀ u0, V (HDI.STATS u0)) (key9 : ∀ u0, V (CFG.FACET_LOADS u0)) (key10 : ∀ u0, V (FAB.DESIGN_ID u0)) :
    FrOut V M s0 (execLoadAbort q s) := by
  unfold execLoadAbort
  repeat' first
    | with_reducible intro _
    | with_reducible assumption
    | with_reducible apply key0
    | with_reducible apply key1
    | with_reducible apply key2
    | with_reducible apply key3
    | with_reducible apply key4
    | with_reducible apply key5
    | with_reducible apply key6
    | with_reducible apply key7
    | with_reducible apply key8
    | with_reducible apply key9
    | with_reducible apply key10
    | with_reducible apply abortEff_fr
    | with_reducible apply command_fr
    | simp only [↓fr_mk_iff]
    | with_reducible apply fr_ite
    | with_reducible apply frOut_next
    | with_reducible apply frOut_fault
    | with_reducible apply frOut_ite
    | with_reducible apply unitCmd_fr
    | (extract_lets x; first | (with_reducible refine fr_cut (s := x) ?_ ?_; (on_goal 2 => clear_value x); (on_goal 1 => unfold x)) | (subst x))
    | split

theorem received_fr (n v : Nat) (s : State) (hs : Fr V M s0 s) (key0 : V (CFG.LOAD_BYTES)) :
    Fr V M s0 (received n v s) := by
  unfold received
  repeat' first
    | with_reducible intro _
    | with_reducible assumption
    | with_reducible apply modCfg_fr
    | with_reducible apply wr_fr
    | simp only [↓fr_mk_iff]
    | split

theorem execStreamWrite_fr (q : Req) (len v : Nat) (s : State) (hs : Fr V M s0 s) (key0 : V (CFG.LOAD_BYTES)) (key1 : ∀ u0, V (HDI.STATS u0)) :
    FrOut V M s0 (execStreamWrite q len v s) := by
  unfold execStreamWrite
  repeat' first
    | with_reducible intro _
    | with_reducible assumption
    | with_reducible apply key1
    | with_reducible apply writeTo_fr
    | with_reducible apply received_fr
    | with_reducible apply frOut_next
    | with_reducible apply frOut_fault

theorem execHostDataTimeout_fr (s : State) (hs : Fr V M s0 s) (key0 : ∀ u0, V (CFG.FACET_STATE u0)) (key1 : V (CFG.LOAD_BYTES)) (key2 : V (CFG.LOAD_CAUSE)) (key3 : V (CFG.LOAD_FAIL_AT)) (key4 : V (CFG.LOAD_STATE)) (key5 : V (CFG.LOAD_STATUS)) (key6 : V (CFG.LOAD_TIME)) (key7 : ∀ u0, V (CFG.LOUPE_SRC_ADDR u0)) (key8 : ∀ u0, V (CFG.LOUPE_SRC_TYPE u0)) (key9 : ∀ u0, V (CFG.FACET_LOADS u0)) (key10 : ∀ u0, V (FAB.DESIGN_ID u0)) :
    FrOut V M s0 (execHostDataTimeout s) := by
  unfold execHostDataTimeout
  repeat' first
    | with_reducible intro _
    | with_reducible assumption
    | with_reducible apply key0
    | with_reducible apply key1
    | with_reducible apply key2
    | with_reducible apply key3
    | with_reducible apply key4
    | with_reducible apply key5
    | with_reducible apply key6
    | with_reducible apply key7
    | with_reducible apply key8
    | with_reducible apply key9
    | with_reducible apply key10
    | with_reducible apply loadFail_fr
    | with_reducible apply upto_fr
    | simp only [↓fr_mk_iff]
    | with_reducible apply fr_ite
    | with_reducible apply frOut_next
    | with_reducible apply frOut_fault
    | with_reducible apply frOut_ite
    | with_reducible apply unitCmd_fr
    | (extract_lets x; first | (with_reducible refine fr_cut (s := x) ?_ ?_; (on_goal 2 => clear_value x); (on_goal 1 => unfold x)) | (subst x))
    | split

theorem execFlashTimeout_fr (s : State) (hs : Fr V M s0 s) (key0 : ∀ u0, V (CFG.FACET_STATE u0)) (key1 : V (CFG.LOAD_BYTES)) (key2 : V (CFG.LOAD_CAUSE)) (key3 : V (CFG.LOAD_FAIL_AT)) (key4 : V (CFG.LOAD_STATE)) (key5 : V (CFG.LOAD_STATUS)) (key6 : V (CFG.LOAD_TIME)) (key7 : ∀ u0, V (CFG.LOUPE_SRC_ADDR u0)) (key8 : ∀ u0, V (CFG.LOUPE_SRC_TYPE u0)) (key9 : ∀ u0, V (CFG.FACET_LOADS u0)) (key10 : ∀ u0, V (FAB.DESIGN_ID u0)) :
    FrOut V M s0 (execFlashTimeout s) := by
  unfold execFlashTimeout
  repeat' first
    | with_reducible intro _
    | with_reducible assumption
    | with_reducible apply key0
    | with_reducible apply key1
    | with_reducible apply key2
    | with_reducible apply key3
    | with_reducible apply key4
    | with_reducible apply key5
    | with_reducible apply key6
    | with_reducible apply key7
    | with_reducible apply key8
    | with_reducible apply key9
    | with_reducible apply key10
    | with_reducible apply loadFail_fr
    | simp only [↓fr_mk_iff]
    | with_reducible apply fr_ite
    | with_reducible apply frOut_next
    | with_reducible apply frOut_fault
    | with_reducible apply frOut_ite
    | with_reducible apply unitCmd_fr
    | (extract_lets x; first | (with_reducible refine fr_cut (s := x) ?_ ?_; (on_goal 2 => clear_value x); (on_goal 1 => unfold x)) | (subst x))
    | split

theorem flpNext_fr (s : State) (hs : Fr V M s0 s) :
    Fr V M s0 (flpNext s) := by
  unfold flpNext
  repeat' first
    | with_reducible intro _
    | with_reducible assumption
    | with_reducible apply meshSend_fr
    | with_reducible apply modCfg_fr
    | simp only [↓fr_mk_iff]
    | with_reducible apply fr_ite
    | (extract_lets x; first | (with_reducible refine fr_cut (s := x) ?_ ?_; (on_goal 2 => clear_value x); (on_goal 1 => unfold x)) | (subst x))
    | split

theorem flpDone_fr (x : MeshResp) (s : State) (hs : Fr V M s0 s) (key0 : ∀ u0, V (CFG.FACET_STATE u0)) (key1 : V (CFG.LOAD_BYTES)) (key2 : V (CFG.LOAD_CAUSE)) (key3 : V (CFG.LOAD_FAIL_AT)) (key4 : V (CFG.LOAD_STATE)) (key5 : V (CFG.LOAD_STATUS)) (key6 : V (CFG.LOAD_TIME)) (key7 : ∀ u0, V (CFG.LOUPE_SRC_ADDR u0)) (key8 : ∀ u0, V (CFG.LOUPE_SRC_TYPE u0)) (key9 : ∀ u0, V (CFG.FACET_LOADS u0)) (key10 : ∀ u0, V (FAB.DESIGN_ID u0)) :
    Fr V M s0 (flpDone x s) := by
  unfold flpDone
  repeat' first
    | with_reducible intro _
    | with_reducible assumption
    | with_reducible apply key0
    | with_reducible apply key1
    | with_reducible apply key2
    | with_reducible apply key3
    | with_reducible apply key4
    | with_reducible apply key5
    | with_reducible apply key6
    | with_reducible apply key7
    | with_reducible apply key8
    | with_reducible apply key9
    | with_reducible apply key10
    | with_reducible apply flpNext_fr
    | with_reducible apply received_fr
    | with_reducible apply loadFail_fr
    | with_reducible apply modCfg_fr
    | with_reducible apply respTaken_fr
    | simp only [↓fr_mk_iff]
    | with_reducible apply fr_ite
    | (extract_lets x; first | (with_reducible refine fr_cut (s := x) ?_ ?_; (on_goal 2 => clear_value x); (on_goal 1 => unfold x)) | (subst x))
    | split

theorem flpEff_fr (s : State) (hs : Fr V M s0 s) (key0 : V (CFG.LOAD_BYTES)) (key1 : V (CFG.LOAD_CAUSE)) (key2 : V (CFG.LOAD_STATE)) (key3 : V (CFG.LOAD_STATUS)) (key4 : V (CFG.LOUPE_ABANDONED)) :
    Fr V M s0 (flpEff s) := by
  unfold flpEff
  repeat' first
    | with_reducible intro _
    | with_reducible assumption
    | with_reducible apply key0
    | with_reducible apply key1
    | with_reducible apply key2
    | with_reducible apply key3
    | with_reducible apply key4
    | with_reducible apply flpNext_fr
    | with_reducible apply loadStart_fr
    | simp only [↓fr_mk_iff]
    | with_reducible apply fr_ite
    | (extract_lets x; first | (with_reducible refine fr_cut (s := x) ?_ ?_; (on_goal 2 => clear_value x); (on_goal 1 => unfold x)) | (subst x))
    | split

theorem execFlpStart_fr (q : Req) (s : State) (hs : Fr V M s0 s) (key0 : V (CFG.LOAD_BYTES)) (key1 : V (CFG.LOAD_CAUSE)) (key2 : V (CFG.LOAD_STATE)) (key3 : V (CFG.LOAD_STATUS)) (key4 : V (CFG.LOUPE_ABANDONED)) (key5 : ∀ u0, V (HDI.STATS u0)) :
    FrOut V M s0 (execFlpStart q s) := by
  unfold execFlpStart
  repeat' first
    | with_reducible intro _
    | with_reducible assumption
    | with_reducible apply key5
    | with_reducible apply command_fr
    | with_reducible apply flpEff_fr
    | with_reducible apply frOut_next
    | with_reducible apply frOut_fault

theorem execFlpAbort_fr (q : Req) (s : State) (hs : Fr V M s0 s) (key0 : ∀ u0, V (CFG.FACET_STATE u0)) (key1 : V (CFG.LOAD_CAUSE)) (key2 : V (CFG.LOAD_FAIL_AT)) (key3 : V (CFG.LOAD_STATE)) (key4 : V (CFG.LOAD_STATUS)) (key5 : V (CFG.LOAD_TIME)) (key6 : ∀ u0, V (CFG.LOUPE_SRC_ADDR u0)) (key7 : ∀ u0, V (CFG.LOUPE_SRC_TYPE u0)) (key8 : ∀ u0, V (HDI.STATS u0)) (key9 : ∀ u0, V (CFG.FACET_LOADS u0)) (key10 : ∀ u0, V (FAB.DESIGN_ID u0)) :
    FrOut V M s0 (execFlpAbort q s) := by
  unfold execFlpAbort
  repeat' first
    | with_reducible intro _
    | with_reducible assumption
    | with_reducible apply key0
    | with_reducible apply key1
    | with_reducible apply key2
    | with_reducible apply key3
    | with_reducible apply key4
    | with_reducible apply key5
    | with_reducible apply key6
    | with_reducible apply key7
    | with_reducible apply key8
    | with_reducible apply key9
    | with_reducible apply key10
    | with_reducible apply abortEff_fr
    | with_reducible apply command_fr
    | simp only [↓fr_mk_iff]
    | with_reducible apply fr_ite
    | with_reducible apply frOut_next
    | with_reducible apply frOut_fault
    | with_reducible apply frOut_ite
    | with_reducible apply unitCmd_fr
    | (extract_lets x; first | (with_reducible refine fr_cut (s := x) ?_ ?_; (on_goal 2 => clear_value x); (on_goal 1 => unfold x)) | (subst x))
    | split

theorem facetBegins_fr (full : Bool) (s : State) (f : Nat) (hs : Fr V M s0 s) (key0 : V (CFG.FACET_STATE f) := by first | assumption | simp only [*]) (key1 : V (CFG.LOUPE_DAMAGED) := by first | assumption | simp only [*]) (key2 : V (FAB.RELEASED) := by first | assumption | simp only [*]) (key3 : V (HDI.APPLY_OUTCOME) := by first | assumption | simp only [*]) (key4 : V (HDI.MIRROR_STATE) := by first | assumption | simp only [*]) (key5 : ∀ u0, V (PAN.DISCARD u0) := by first | assumption | simp only [*]) (key6 : ∀ u0, V (PAN.EVFLAGS u0) := by first | assumption | simp only [*]) (key7 : ∀ u0, V (VEN.STATE u0) := by first | assumption | simp only [*]) :
    Fr V M s0 (facetBegins full s f) := by
  unfold facetBegins
  repeat' first
    | with_reducible intro _
    | with_reducible assumption
    | with_reducible apply key0
    | with_reducible apply key1
    | with_reducible apply key2
    | with_reducible apply key3
    | with_reducible apply key4
    | with_reducible apply key5
    | with_reducible apply key6
    | with_reducible apply key7
    | with_reducible apply modCfg_fr
    | with_reducible apply failWaiting_fr
    | with_reducible apply discardQueue_fr
    | with_reducible apply holdFacet_fr
    | with_reducible apply modFacet_fr
    | with_reducible apply setBit_fr
    | with_reducible apply wr_fr
    | simp only [↓fr_mk_iff]
    | with_reducible apply fr_foldl
    | with_reducible apply fr_foldl_snd
    | with_reducible apply fr_ite
    | (extract_lets x; first | (with_reducible refine fr_cut (s := x) ?_ ?_; (on_goal 2 => clear_value x); (on_goal 1 => unfold x)) | (subst x))
    | split

theorem passEnds_fr (from' : Nat) (s : State) (hs : Fr V M s0 s) (key0 : V (CFG.LOUPE_PASSES)) (key1 : V (CFG.LOUPE_PASS_TIME)) :
    Fr V M s0 (passEnds from' s) := by
  unfold passEnds
  repeat' first
    | with_reducible intro _
    | with_reducible assumption
    | with_reducible apply key0
    | with_reducible apply key1
    | with_reducible apply modCfg_fr
    | with_reducible apply bump_fr
    | with_reducible apply wr_fr
    | simp only [↓fr_mk_iff]
    | with_reducible apply fr_ite
    | (extract_lets x; first | (with_reducible refine fr_cut (s := x) ?_ ?_; (on_goal 2 => clear_value x); (on_goal 1 => unfold x)) | (subst x))
    | split

theorem passCheck_fr (s : State) (hs : Fr V M s0 s) (key0 : V (CFG.LOUPE_PASSES)) (key1 : V (CFG.LOUPE_PASS_TIME)) :
    Fr V M s0 (passCheck s) := by
  unfold passCheck
  repeat' first
    | with_reducible intro _
    | with_reducible assumption
    | with_reducible apply key0
    | with_reducible apply key1
    | with_reducible apply passEnds_fr
    | simp only [↓fr_mk_iff]
    | with_reducible apply fr_ite
    | (extract_lets x; first | (with_reducible refine fr_cut (s := x) ?_ ?_; (on_goal 2 => clear_value x); (on_goal 1 => unfold x)) | (subst x))
    | split

theorem paneClear_fr (s : State) (hs : Fr V M s0 s) (key0 : M) :
    Fr V M s0 (paneClear s) := by
  unfold paneClear
  repeat' first
    | with_reducible intro _
    | with_reducible assumption
    | with_reducible apply key0
    | with_reducible apply modPane_fr
    | simp only [↓fr_mk_iff]
    | with_reducible apply fr_foldl
    | with_reducible apply fr_foldl_snd
    | exact fr_mem (by assumption) hs rfl
    | with_reducible apply fr_ite
    | (extract_lets x; first | (with_reducible refine fr_cut (s := x) ?_ ?_; (on_goal 2 => clear_value x); (on_goal 1 => unfold x)) | (subst x))
    | split

theorem headerPasses_fr (l : LoadS) (h : Header) (s : State) (hs : Fr V M s0 s) (key0 : ∀ u0, V (CFG.FACET_STATE u0) := by first | assumption | simp only [*]) (key1 : V (CFG.LOAD_REGION) := by first | assumption | simp only [*]) (key2 : V (CFG.LOAD_STATE) := by first | assumption | simp only [*]) (key3 : V (CFG.LOUPE_ABANDONED) := by first | assumption | simp only [*]) (key4 : V (CFG.LOUPE_DAMAGED) := by first | assumption | simp only [*]) (key5 : V (FAB.RELEASED) := by first | assumption | simp only [*]) (key6 : V (HDI.APPLY_OUTCOME) := by first | assumption | simp only [*]) (key7 : V (HDI.MIRROR_STATE) := by first | assumption | simp only [*]) (key8 : V (HDI.STATUS) := by first | assumption | simp only [*]) (key9 : M := by first | assumption | simp only [*]) (key10 : ∀ u0, V (PAN.DISCARD u0) := by first | assumption | simp only [*]) (key11 : ∀ u0, V (PAN.EVFLAGS u0) := by first | assumption | simp only [*]) (key12 : ∀ u0, V (VEN.STATE u0) := by first | assumption | simp only [*]) (key13 : V (CFG.LOUPE_PASSES) := by first | assumption | simp only [*]) (key14 : V (CFG.LOUPE_PASS_TIME) := by first | assumption | simp only [*]) :
    Fr V M s0 (headerPasses l h s) := by
  unfold headerPasses
  repeat' first
    | with_reducible intro _
    | with_reducible assumption
    | with_reducible apply key0
    | with_reducible apply key1
    | with_reducible apply key2
    | with_reducible apply key3
    | with_reducible apply key4
    | with_reducible apply key5
    | with_reducible apply key6
    | with_reducible apply key7
    | with_reducible apply key8
    | with_reducible apply key9
    | with_reducible apply key10
    | with_reducible apply key11
    | with_reducible apply key12
    | with_reducible apply key13
    | with_reducible apply key14
    | with_reducible apply paneClear_fr
    | with_reducible apply passCheck_fr
    | with_reducible apply facetBegins_fr
    | with_reducible apply abandon_fr
    | with_reducible apply modCfg_fr
    | with_reducible apply modFacet_fr
    | with_reducible apply upto_fr
    | with_reducible apply setBit_fr
    | with_reducible apply wr_fr
    | simp only [↓fr_mk_iff]
    | with_reducible apply fr_foldl
    | with_reducible apply fr_foldl_snd
    | with_reducible apply fr_ite
    | (extract_lets x; first | (with_reducible refine fr_cut (s := x) ?_ ?_; (on_goal 2 => clear_value x); (on_goal 1 => unfold x)) | (subst x))
    | split

theorem execStreamHeader_fr (s : State) (hs : Fr V M s0 s) (key0 : ∀ u0, V (CFG.FACET_STATE u0)) (key1 : V (CFG.FLASH_INFO)) (key2 : V (CFG.LOAD_BYTES)) (key3 : V (CFG.LOAD_CAUSE)) (key4 : V (CFG.LOAD_FAIL_AT)) (key5 : V (CFG.LOAD_REGION)) (key6 : V (CFG.LOAD_STATE)) (key7 : V (CFG.LOAD_STATUS)) (key8 : V (CFG.LOAD_TIME)) (key9 : V (CFG.LOUPE_ABANDONED)) (key10 : V (CFG.LOUPE_DAMAGED)) (key11 : ∀ u0, V (CFG.LOUPE_SRC_ADDR u0)) (key12 : ∀ u0, V (CFG.LOUPE_SRC_TYPE u0)) (key13 : V (FAB.RELEASED)) (key14 : V (HDI.APPLY_OUTCOME)) (key15 : V (HDI.MIRROR_STATE)) (key16 : V (HDI.STATUS)) (key17 : M) (key18 : ∀ u0, V (PAN.DISCARD u0)) (key19 : ∀ u0, V (PAN.EVFLAGS u0)) (key20 : ∀ u0, V (VEN.STATE u0)) (key21 : V (CFG.LOUPE_PASSES)) (key22 : V (CFG.LOUPE_PASS_TIME)) (key23 : ∀ u0, V (CFG.FACET_LOADS u0)) (key24 : ∀ u0, V (FAB.DESIGN_ID u0)) :
    FrOut V M s0 (execStreamHeader s) := by
  unfold execStreamHeader
  repeat' first
    | with_reducible intro _
    | with_reducible assumption
    | with_reducible apply key0
    | with_reducible apply key1
    | with_reducible apply key2
    | with_reducible apply key3
    | with_reducible apply key4
    | with_reducible apply key5
    | with_reducible apply key6
    | with_reducible apply key7
    | with_reducible apply key8
    | with_reducible apply key9
    | with_reducible apply key10
    | with_reducible apply key11
    | with_reducible apply key12
    | with_reducible apply key13
    | with_reducible apply key14
    | with_reducible apply key15
    | with_reducible apply key16
    | with_reducible apply key17
    | with_reducible apply key18
    | with_reducible apply key19
    | with_reducible apply key20
    | with_reducible apply key21
    | with_reducible apply key22
    | with_reducible apply key23
    | with_reducible apply key24
    | with_reducible apply headerPasses_fr
    | with_reducible apply loadFail_fr
    | with_reducible apply modCfg_fr
    | with_reducible apply upto_fr
    | with_reducible apply wr_fr
    | simp only [↓fr_mk_iff]
    | with_reducible apply fr_ite
    | with_reducible apply frOut_next
    | with_reducible apply frOut_fault
    | with_reducible apply frOut_ite
    | with_reducible apply unitCmd_fr
    | (extract_lets x; first | (with_reducible refine fr_cut (s := x) ?_ ?_; (on_goal 2 => clear_value x); (on_goal 1 => unfold x)) | (subst x))
    | split

theorem execChunkCheck_fr (s : State) (hs : Fr V M s0 s) (key0 : ∀ u0, V (CFG.FACET_STATE u0)) (key1 : V (CFG.LOAD_BYTES)) (key2 : V (CFG.LOAD_CAUSE)) (key3 : V (CFG.LOAD_FAIL_AT)) (key4 : V (CFG.LOAD_STATE)) (key5 : V (CFG.LOAD_STATUS)) (key6 : V (CFG.LOAD_TIME)) (key7 : ∀ u0, V (CFG.LOUPE_SRC_ADDR u0)) (key8 : ∀ u0, V (CFG.LOUPE_SRC_TYPE u0)) (key9 : ∀ u0, V (CFG.FACET_LOADS u0)) (key10 : ∀ u0, V (FAB.DESIGN_ID u0)) :
    FrOut V M s0 (execChunkCheck s) := by
  unfold execChunkCheck
  repeat' first
    | with_reducible intro _
    | with_reducible assumption
    | with_reducible apply key0
    | with_reducible apply key1
    | with_reducible apply key2
    | with_reducible apply key3
    | with_reducible apply key4
    | with_reducible apply key5
    | with_reducible apply key6
    | with_reducible apply key7
    | with_reducible apply key8
    | with_reducible apply key9
    | with_reducible apply key10
    | with_reducible apply flpNext_fr
    | with_reducible apply loadFail_fr
    | with_reducible apply modCfg_fr
    | with_reducible apply upto_fr
    | with_reducible apply wr_fr
    | simp only [↓fr_mk_iff]
    | with_reducible apply fr_ite
    | with_reducible apply frOut_next
    | with_reducible apply frOut_fault
    | with_reducible apply frOut_ite
    | with_reducible apply unitCmd_fr
    | (extract_lets x; first | (with_reducible refine fr_cut (s := x) ?_ ?_; (on_goal 2 => clear_value x); (on_goal 1 => unfold x)) | (subst x))
    | split

theorem frameDone_fr (l : LoadS) (h : Header) (id : FrameId) (size payload : Nat) (s : State) (hs : Fr V M s0 s) (key0 : V (CFG.FACET_LOADS id.f)) (key1 : V (CFG.FACET_STATE id.f)) (key2 : V (FAB.DESIGN_ID id.f)) (key3 : V (FAB.RELEASED)) (key4 : V (HDI.APPLY_OUTCOME)) (key5 : V (HDI.MIRROR_STATE)) (key6 : ∀ u0, V (VEN.STATE u0)) :
    Fr V M s0 (frameDone l h id size payload s) := by
  unfold frameDone
  repeat' first
    | with_reducible intro _
    | with_reducible assumption
    | with_reducible apply key0
    | with_reducible apply key1
    | with_reducible apply key2
    | with_reducible apply key3
    | with_reducible apply key4
    | with_reducible apply key5
    | with_reducible apply key6
    | with_reducible apply facetLoaded_fr
    | with_reducible apply modCfg_fr
    | with_reducible apply releaseFacet_fr
    | with_reducible apply upto_fr
    | simp only [↓fr_mk_iff]
    | with_reducible apply fr_ite
    | (extract_lets x; first | (with_reducible refine fr_cut (s := x) ?_ ?_; (on_goal 2 => clear_value x); (on_goal 1 => unfold x)) | (subst x))
    | split

theorem frameRead_fr (l : LoadS) (h : Header) (n : Nat) (s : State) (hs : Fr V M s0 s) (key0 : V (CFG.LOAD_BYTES)) :
    Fr V M s0 (frameRead l h n s) := by
  unfold frameRead
  repeat' first
    | with_reducible intro _
    | with_reducible assumption
    | with_reducible apply key0
    | with_reducible apply upto_fr
    | with_reducible apply wr_fr
    | simp only [↓fr_mk_iff]
    | with_reducible apply fr_ite
    | (extract_lets x; first | (with_reducible refine fr_cut (s := x) ?_ ?_; (on_goal 2 => clear_value x); (on_goal 1 => unfold x)) | (subst x))
    | split

theorem frameRow_fr (t : Nat) (bad : Bool) (ready : Nat → State → Bool) (put : (f i payload : Nat) → State → State) (s : State) (hs : Fr V M s0 s) (hput : ∀ (y0 : Nat) (y1 : Nat) (y2 : Nat) (y3 : State), Fr V M s0 y3 → Fr V M s0 (put y0 y1 y2 y3)) (key0 : ∀ u0, V (CFG.FACET_LOADS u0)) (key1 : ∀ u0, V (CFG.FACET_STATE u0)) (key2 : V (CFG.LOAD_BYTES)) (key3 : V (CFG.LOAD_CAUSE)) (key4 : V (CFG.LOAD_FAIL_AT)) (key5 : V (CFG.LOAD_STATE)) (key6 : V (CFG.LOAD_STATUS)) (key7 : V (CFG.LOAD_TIME)) (key8 : ∀ u0, V (CFG.LOUPE_SRC_ADDR u0)) (key9 : ∀ u0, V (CFG.LOUPE_SRC_TYPE u0)) (key10 : ∀ u0, V (FAB.DESIGN_ID u0)) (key11 : V (FAB.RELEASED)) (key12 : V (HDI.APPLY_OUTCOME)) (key13 : V (HDI.MIRROR_STATE)) (key14 : ∀ u0, V (VEN.STATE u0)) :
    Fr V M s0 (frameRow t bad ready put s) := by
  unfold frameRow
  repeat' first
    | with_reducible intro _
    | with_reducible assumption
    | with_reducible apply hput
    | with_reducible apply key0
    | with_reducible apply key1
    | with_reducible apply key2
    | with_reducible apply key3
    | with_reducible apply key4
    | with_reducible apply key5
    | with_reducible apply key6
    | with_reducible apply key7
    | with_reducible apply key8
    | with_reducible apply key9
    | with_reducible apply key10
    | with_reducible apply key11
    | with_reducible apply key12
    | with_reducible apply key13
    | with_reducible apply key14
    | with_reducible apply frameRead_fr
    | with_reducible apply frameDone_fr
    | with_reducible apply loadFail_fr
    | with_reducible apply raise_fr
    | simp only [↓fr_mk_iff]
    | with_reducible apply fr_ite
    | (extract_lets x; first | (with_reducible refine fr_cut (s := x) ?_ ?_; (on_goal 2 => clear_value x); (on_goal 1 => unfold x)) | (subst x))
    | split

theorem putManifest_fr (c : Manifest) (f _i _p : Nat) (s : State) (hs : Fr V M s0 s) (key0 : ∀ u0, V (PAN.MODE u0)) (key1 : ∀ u0, V (PAN.DISCARD u0)) (key2 : ∀ u0, V (PAN.EVFLAGS u0)) (key3 : M) :
    Fr V M s0 (putManifest c f _i _p s) := by
  unfold putManifest
  repeat' first
    | with_reducible intro _
    | with_reducible assumption
    | with_reducible apply key0
    | with_reducible apply key1
    | with_reducible apply key2
    | with_reducible apply key3
    | with_reducible apply paneModeEff_fr
    | with_reducible apply resetTaps_fr
    | with_reducible apply modFacet_fr
    | simp only [↓fr_mk_iff]
    | with_reducible apply fr_foldl
    | with_reducible apply fr_foldl_snd
    | with_reducible apply fr_ite
    | (extract_lets x; first | (with_reducible refine fr_cut (s := x) ?_ ?_; (on_goal 2 => clear_value x); (on_goal 1 => unfold x)) | (subst x))
    | split

theorem execManifestFrame_fr (c : Manifest) (s : State) (hs : Fr V M s0 s) (key0 : ∀ u0, V (CFG.FACET_LOADS u0)) (key1 : ∀ u0, V (CFG.FACET_STATE u0)) (key2 : V (CFG.LOAD_BYTES)) (key3 : V (CFG.LOAD_CAUSE)) (key4 : V (CFG.LOAD_FAIL_AT)) (key5 : V (CFG.LOAD_STATE)) (key6 : V (CFG.LOAD_STATUS)) (key7 : V (CFG.LOAD_TIME)) (key8 : ∀ u0, V (CFG.LOUPE_SRC_ADDR u0)) (key9 : ∀ u0, V (CFG.LOUPE_SRC_TYPE u0)) (key10 : ∀ u0, V (FAB.DESIGN_ID u0)) (key11 : V (FAB.RELEASED)) (key12 : V (HDI.APPLY_OUTCOME)) (key13 : V (HDI.MIRROR_STATE)) (key14 : ∀ u0, V (PAN.MODE u0)) (key15 : ∀ u0, V (VEN.STATE u0)) (key16 : ∀ u0, V (PAN.DISCARD u0)) (key17 : ∀ u0, V (PAN.EVFLAGS u0)) (key18 : M) :
    FrOut V M s0 (execManifestFrame c s) := by
  unfold execManifestFrame
  repeat' first
    | with_reducible intro _
    | with_reducible assumption
    | with_reducible apply key0
    | with_reducible apply key1
    | with_reducible apply key2
    | with_reducible apply key3
    | with_reducible apply key4
    | with_reducible apply key5
    | with_reducible apply key6
    | with_reducible apply key7
    | with_reducible apply key8
    | with_reducible apply key9
    | with_reducible apply key10
    | with_reducible apply key11
    | with_reducible apply key12
    | with_reducible apply key13
    | with_reducible apply key14
    | with_reducible apply key15
    | with_reducible apply key16
    | with_reducible apply key17
    | with_reducible apply key18
    | with_reducible apply putManifest_fr
    | with_reducible apply frameRow_fr
    | simp only [↓fr_mk_iff]
    | with_reducible apply fr_ite
    | with_reducible apply frOut_next
    | with_reducible apply frOut_fault
    | with_reducible apply frOut_ite
    | with_reducible apply unitCmd_fr
    | (extract_lets x; first | (with_reducible refine fr_cut (s := x) ?_ ?_; (on_goal 2 => clear_value x); (on_goal 1 => unfold x)) | (subst x))
    | split

theorem putCell_fr (k : Nat) (c : CellCfg) (s : State) (hs : Fr V M s0 s) :
    Fr V M s0 (putCell k c s) := by
  unfold putCell
  repeat' first
    | with_reducible intro _
    | with_reducible assumption
    | simp only [↓fr_mk_iff]

theorem putCells_fr (c : List CellCfg) (f v _p : Nat) (s : State) (hs : Fr V M s0 s) :
    Fr V M s0 (putCells c f v _p s) := by
  unfold putCells
  repeat' first
    | with_reducible intro _
    | with_reducible assumption
    | with_reducible apply putCell_fr
    | with_reducible apply fr_foldl

theorem execCellFrame_fr (c : List CellCfg) (s : State) (hs : Fr V M s0 s) (key0 : ∀ u0, V (CFG.FACET_LOADS u0)) (key1 : ∀ u0, V (CFG.FACET_STATE u0)) (key2 : V (CFG.LOAD_BYTES)) (key3 : V (CFG.LOAD_CAUSE)) (key4 : V (CFG.LOAD_FAIL_AT)) (key5 : V (CFG.LOAD_STATE)) (key6 : V (CFG.LOAD_STATUS)) (key7 : V (CFG.LOAD_TIME)) (key8 : ∀ u0, V (CFG.LOUPE_SRC_ADDR u0)) (key9 : ∀ u0, V (CFG.LOUPE_SRC_TYPE u0)) (key10 : ∀ u0, V (FAB.DESIGN_ID u0)) (key11 : V (FAB.RELEASED)) (key12 : V (HDI.APPLY_OUTCOME)) (key13 : V (HDI.MIRROR_STATE)) (key14 : ∀ u0, V (VEN.STATE u0)) :
    FrOut V M s0 (execCellFrame c s) := by
  unfold execCellFrame
  repeat' first
    | with_reducible intro _
    | with_reducible assumption
    | with_reducible apply key0
    | with_reducible apply key1
    | with_reducible apply key8
    | with_reducible apply key9
    | with_reducible apply key10
    | with_reducible apply key14
    | with_reducible apply frameRow_fr
    | with_reducible apply putCells_fr
    | with_reducible apply frOut_next
    | with_reducible apply frOut_fault

theorem setTrack_fr (k v : Nat) (s : State) (hs : Fr V M s0 s) :
    Fr V M s0 (setTrack k v s) := by
  unfold setTrack
  repeat' first
    | with_reducible intro _
    | with_reducible assumption
    | simp only [↓fr_mk_iff]

theorem putSelect_fr (f v i w : Nat) (s : State) (hs : Fr V M s0 s) :
    Fr V M s0 (putSelect f v i w s) := by
  unfold putSelect
  repeat' first
    | with_reducible intro _
    | with_reducible assumption
    | with_reducible apply setTrack_fr
    | simp only [↓fr_mk_iff]
    | with_reducible apply fr_ite
    | (extract_lets x; first | (with_reducible refine fr_cut (s := x) ?_ ?_; (on_goal 2 => clear_value x); (on_goal 1 => unfold x)) | (subst x))
    | split

theorem putSelects_fr (f v : Nat) : ∀ (z0 : Nat) (z1 : List Nat) (z2 : State), Fr V M s0 z2 →
    Fr V M s0 (putSelects f v z0 z1 z2)
  | _, [], _, h => h
  | i, w :: ws, s, h => by
    unfold putSelects
    exact putSelects_fr f v (i + 1) ws _ (putSelect_fr f v i w s h)

theorem execRouteFrame_fr (sels : List Nat) (s : State) (hs : Fr V M s0 s) (key0 : ∀ u0, V (CFG.FACET_LOADS u0)) (key1 : ∀ u0, V (CFG.FACET_STATE u0)) (key2 : V (CFG.LOAD_BYTES)) (key3 : V (CFG.LOAD_CAUSE)) (key4 : V (CFG.LOAD_FAIL_AT)) (key5 : V (CFG.LOAD_STATE)) (key6 : V (CFG.LOAD_STATUS)) (key7 : V (CFG.LOAD_TIME)) (key8 : ∀ u0, V (CFG.LOUPE_SRC_ADDR u0)) (key9 : ∀ u0, V (CFG.LOUPE_SRC_TYPE u0)) (key10 : ∀ u0, V (FAB.DESIGN_ID u0)) (key11 : V (FAB.RELEASED)) (key12 : V (HDI.APPLY_OUTCOME)) (key13 : V (HDI.MIRROR_STATE)) (key14 : ∀ u0, V (VEN.STATE u0)) :
    FrOut V M s0 (execRouteFrame sels s) := by
  unfold execRouteFrame
  repeat' first
    | with_reducible intro _
    | with_reducible assumption
    | with_reducible apply key0
    | with_reducible apply key1
    | with_reducible apply key2
    | with_reducible apply key3
    | with_reducible apply key4
    | with_reducible apply key5
    | with_reducible apply key6
    | with_reducible apply key7
    | with_reducible apply key8
    | with_reducible apply key9
    | with_reducible apply key10
    | with_reducible apply key11
    | with_reducible apply key12
    | with_reducible apply key13
    | with_reducible apply key14
    | with_reducible apply putSelects_fr
    | with_reducible apply frameRow_fr
    | simp only [↓fr_mk_iff]
    | with_reducible apply fr_ite
    | with_reducible apply frOut_next
    | with_reducible apply frOut_fault
    | with_reducible apply frOut_ite
    | with_reducible apply unitCmd_fr
    | (extract_lets x; first | (with_reducible refine fr_cut (s := x) ?_ ?_; (on_goal 2 => clear_value x); (on_goal 1 => unfold x)) | (subst x))
    | split

theorem putPane_fr (f j p : Nat) (s : State) (hs : Fr V M s0 s) (key0 : M) :
    Fr V M s0 (putPane f j p s) := by
  unfold putPane
  repeat' first
    | with_reducible intro _
    | with_reducible assumption
    | with_reducible apply key0
    | with_reducible apply store_fr
    | simp only [↓fr_mk_iff]
    | with_reducible apply fr_ite
    | (extract_lets x; first | (with_reducible refine fr_cut (s := x) ?_ ?_; (on_goal 2 => clear_value x); (on_goal 1 => unfold x)) | (subst x))
    | split

theorem execPaneFrame_fr (s : State) (hs : Fr V M s0 s) (key0 : ∀ u0, V (CFG.FACET_LOADS u0)) (key1 : ∀ u0, V (CFG.FACET_STATE u0)) (key2 : V (CFG.LOAD_BYTES)) (key3 : V (CFG.LOAD_CAUSE)) (key4 : V (CFG.LOAD_FAIL_AT)) (key5 : V (CFG.LOAD_STATE)) (key6 : V (CFG.LOAD_STATUS)) (key7 : V (CFG.LOAD_TIME)) (key8 : ∀ u0, V (CFG.LOUPE_SRC_ADDR u0)) (key9 : ∀ u0, V (CFG.LOUPE_SRC_TYPE u0)) (key10 : ∀ u0, V (CRH.PWR_STATE u0)) (key11 : ∀ u0, V (FAB.DESIGN_ID u0)) (key12 : V (FAB.RELEASED)) (key13 : V (HDI.APPLY_OUTCOME)) (key14 : V (HDI.MIRROR_STATE)) (key15 : M) (key16 : ∀ u0, V (VEN.STATE u0)) :
    FrOut V M s0 (execPaneFrame s) := by
  unfold execPaneFrame
  repeat' first
    | with_reducible intro _
    | with_reducible assumption
    | with_reducible apply key0
    | with_reducible apply key1
    | with_reducible apply key2
    | with_reducible apply key3
    | with_reducible apply key4
    | with_reducible apply key5
    | with_reducible apply key6
    | with_reducible apply key7
    | with_reducible apply key8
    | with_reducible apply key9
    | with_reducible apply key10
    | with_reducible apply key11
    | with_reducible apply key12
    | with_reducible apply key13
    | with_reducible apply key14
    | with_reducible apply key15
    | with_reducible apply key16
    | with_reducible apply putPane_fr
    | with_reducible apply frameRow_fr
    | with_reducible apply wakeDomain_fr
    | simp only [↓fr_mk_iff]
    | with_reducible apply fr_ite
    | with_reducible apply frOut_next
    | with_reducible apply frOut_fault
    | with_reducible apply frOut_ite
    | with_reducible apply unitCmd_fr
    | (extract_lets x; first | (with_reducible refine fr_cut (s := x) ?_ ?_; (on_goal 2 => clear_value x); (on_goal 1 => unfold x)) | (subst x))
    | split

theorem execIoFrame_fr (s : State) (hs : Fr V M s0 s) (key0 : ∀ u0, V (CFG.FACET_LOADS u0)) (key1 : ∀ u0, V (CFG.FACET_STATE u0)) (key2 : V (CFG.LOAD_BYTES)) (key3 : V (CFG.LOAD_CAUSE)) (key4 : V (CFG.LOAD_FAIL_AT)) (key5 : V (CFG.LOAD_STATE)) (key6 : V (CFG.LOAD_STATUS)) (key7 : V (CFG.LOAD_TIME)) (key8 : ∀ u0, V (CFG.LOUPE_SRC_ADDR u0)) (key9 : ∀ u0, V (CFG.LOUPE_SRC_TYPE u0)) (key10 : ∀ u0, V (FAB.DESIGN_ID u0)) (key11 : V (FAB.RELEASED)) (key12 : V (HDI.APPLY_OUTCOME)) (key13 : V (HDI.MIRROR_STATE)) (key14 : ∀ u0, V (VEN.STATE u0)) :
    FrOut V M s0 (execIoFrame s) := by
  unfold execIoFrame
  repeat' first
    | with_reducible intro _
    | with_reducible assumption
    | with_reducible apply key0
    | with_reducible apply key1
    | with_reducible apply key8
    | with_reducible apply key9
    | with_reducible apply key10
    | with_reducible apply key14
    | with_reducible apply frameRow_fr
    | with_reducible apply modFacet_fr
    | with_reducible apply frOut_next
    | with_reducible apply frOut_fault
    | simp only [↓fr_mk_iff]

theorem loadCompletes_fr (l : LoadS) (h : Header) (s : State) (hs : Fr V M s0 s) (key0 : ∀ u0, V (CFG.FACET_LOADS u0)) (key1 : ∀ u0, V (CFG.FACET_STATE u0)) (key2 : V (CFG.LOAD_CAUSE)) (key3 : V (CFG.LOAD_FAIL_AT)) (key4 : V (CFG.LOAD_STATE)) (key5 : V (CFG.LOAD_STATUS)) (key6 : V (CFG.LOAD_TIME)) (key7 : ∀ u0, V (CFG.LOUPE_SRC_ADDR u0)) (key8 : ∀ u0, V (CFG.LOUPE_SRC_TYPE u0)) (key9 : ∀ u0, V (FAB.DESIGN_ID u0)) (key10 : V (FAB.RELEASED)) (key11 : V (HDI.APPLY_OUTCOME)) (key12 : V (HDI.MIRROR_STATE)) (key13 : V (HDI.STATUS)) (key14 : ∀ u0, V (VEN.STATE u0)) :
    Fr V M s0 (loadCompletes l h s) := by
  unfold loadCompletes
  repeat' first
    | with_reducible intro _
    | with_reducible assumption
    | with_reducible apply key0
    | with_reducible apply key1
    | with_reducible apply key7
    | with_reducible apply key8
    | with_reducible apply key9
    | with_reducible apply key14
    | with_reducible apply facetLoaded_fr
    | with_reducible apply upto_fr
    | with_reducible apply releaseFacet_fr
    | with_reducible apply loadEnd_fr
    | with_reducible apply setBit_fr
    | with_reducible apply fr_ite
    | with_reducible apply fr_foldl
    | (extract_lets x; first | (with_reducible refine fr_cut (s := x) ?_ ?_; (on_goal 2 => clear_value x); (on_goal 1 => unfold x)) | (subst x))
    | split

theorem execEndFrame_fr (s : State) (hs : Fr V M s0 s) (key0 : ∀ u0, V (CFG.FACET_LOADS u0)) (key1 : ∀ u0, V (CFG.FACET_STATE u0)) (key2 : V (CFG.LOAD_BYTES)) (key3 : V (CFG.LOAD_CAUSE)) (key4 : V (CFG.LOAD_FAIL_AT)) (key5 : V (CFG.LOAD_STATE)) (key6 : V (CFG.LOAD_STATUS)) (key7 : V (CFG.LOAD_TIME)) (key8 : ∀ u0, V (CFG.LOUPE_SRC_ADDR u0)) (key9 : ∀ u0, V (CFG.LOUPE_SRC_TYPE u0)) (key10 : ∀ u0, V (FAB.DESIGN_ID u0)) (key11 : V (FAB.RELEASED)) (key12 : V (HDI.APPLY_OUTCOME)) (key13 : V (HDI.MIRROR_STATE)) (key14 : V (HDI.STATUS)) (key15 : ∀ u0, V (VEN.STATE u0)) :
    FrOut V M s0 (execEndFrame s) := by
  unfold execEndFrame
  repeat' first
    | with_reducible intro _
    | with_reducible assumption
    | with_reducible apply key0
    | with_reducible apply key1
    | with_reducible apply key2
    | with_reducible apply key3
    | with_reducible apply key4
    | with_reducible apply key5
    | with_reducible apply key6
    | with_reducible apply key7
    | with_reducible apply key8
    | with_reducible apply key9
    | with_reducible apply key10
    | with_reducible apply key11
    | with_reducible apply key12
    | with_reducible apply key13
    | with_reducible apply key14
    | with_reducible apply key15
    | with_reducible apply loadCompletes_fr
    | with_reducible apply frameRead_fr
    | with_reducible apply loadFail_fr
    | with_reducible apply upto_fr
    | with_reducible apply raise_fr
    | with_reducible apply wr_fr
    | simp only [↓fr_mk_iff]
    | with_reducible apply fr_ite
    | with_reducible apply frOut_next
    | with_reducible apply frOut_fault
    | with_reducible apply frOut_ite
    | with_reducible apply unitCmd_fr
    | (extract_lets x; first | (with_reducible refine fr_cut (s := x) ?_ ?_; (on_goal 2 => clear_value x); (on_goal 1 => unfold x)) | (subst x))
    | split

theorem zeroiseKey_fr (b : Nat) (s : State) (hs : Fr V M s0 s) (key0 : V (CFG.BBRAM_KEY_ID)) (key1 : V (CFG.KEY_STATUS)) (key2 : V (CFG.TAMPER_CAUSE)) (key3 : V (CFG.TAMPER_COUNT)) :
    Fr V M s0 (zeroiseKey b s) := by
  unfold zeroiseKey
  repeat' first
    | with_reducible intro _
    | with_reducible assumption
    | with_reducible apply key0
    | with_reducible apply key1
    | with_reducible apply key2
    | with_reducible apply key3
    | with_reducible apply modCfg_fr
    | with_reducible apply note_fr
    | with_reducible apply setBit_fr
    | with_reducible apply raise_fr
    | with_reducible apply bump_fr
    | with_reducible apply wr_fr
    | simp only [↓fr_mk_iff]
    | with_reducible apply fr_ite
    | (extract_lets x; first | (with_reducible refine fr_cut (s := x) ?_ ?_; (on_goal 2 => clear_value x); (on_goal 1 => unfold x)) | (subst x))
    | split

theorem keyEff_fr (code : Nat) (s : State) (hs : Fr V M s0 s) (key0 : V (CFG.BBRAM_KEY_ID)) (key1 : V (CFG.KEY_STATUS)) (key2 : V (CFG.TAMPER_CAUSE)) (key3 : V (CFG.TAMPER_COUNT)) :
    Fr V M s0 (keyEff code s) := by
  unfold keyEff
  repeat' first
    | with_reducible intro _
    | with_reducible assumption
    | with_reducible apply setBit_fr
    | with_reducible apply modCfg_fr
    | with_reducible apply zeroiseKey_fr
    | simp only [↓fr_mk_iff]
    | with_reducible apply fr_ite
    | (extract_lets x; first | (with_reducible refine fr_cut (s := x) ?_ ?_; (on_goal 2 => clear_value x); (on_goal 1 => unfold x)) | (subst x))
    | split

theorem execWriteBbram_fr (q : Req) (s : State) (hs : Fr V M s0 s) (key0 : V (CFG.BBRAM_KEY_ID)) (key1 : V (CFG.KEY_STATUS)) (key2 : V (CFG.TAMPER_CAUSE)) (key3 : V (CFG.TAMPER_COUNT)) (key4 : ∀ u0, V (HDI.STATS u0)) :
    FrOut V M s0 (execWriteBbram q s) := by
  unfold execWriteBbram
  repeat' first
    | with_reducible intro _
    | with_reducible assumption
    | with_reducible apply key4
    | with_reducible apply command_fr
    | with_reducible apply keyEff_fr
    | with_reducible apply frOut_next
    | with_reducible apply frOut_fault

theorem execZeroise_fr (q : Req) (s : State) (hs : Fr V M s0 s) (key0 : V (CFG.BBRAM_KEY_ID)) (key1 : V (CFG.KEY_STATUS)) (key2 : V (CFG.TAMPER_CAUSE)) (key3 : V (CFG.TAMPER_COUNT)) (key4 : ∀ u0, V (HDI.STATS u0)) :
    FrOut V M s0 (execZeroise q s) := by
  unfold execZeroise
  repeat' first
    | with_reducible intro _
    | with_reducible assumption
    | with_reducible apply key4
    | with_reducible apply command_fr
    | with_reducible apply keyEff_fr
    | with_reducible apply frOut_next
    | with_reducible apply frOut_fault

theorem execFuseKey_fr (q : Req) (s : State) (hs : Fr V M s0 s) (key0 : V (CFG.BBRAM_KEY_ID)) (key1 : V (CFG.KEY_STATUS)) (key2 : V (CFG.TAMPER_CAUSE)) (key3 : V (CFG.TAMPER_COUNT)) (key4 : ∀ u0, V (HDI.STATS u0)) :
    FrOut V M s0 (execFuseKey q s) := by
  unfold execFuseKey
  repeat' first
    | with_reducible intro _
    | with_reducible assumption
    | with_reducible apply key4
    | with_reducible apply command_fr
    | with_reducible apply keyEff_fr
    | with_reducible apply frOut_next
    | with_reducible apply frOut_fault

theorem execFusePolicy_fr (q : Req) (s : State) (hs : Fr V M s0 s) (key0 : V (CFG.BBRAM_KEY_ID)) (key1 : V (CFG.KEY_STATUS)) (key2 : V (CFG.TAMPER_CAUSE)) (key3 : V (CFG.TAMPER_COUNT)) (key4 : ∀ u0, V (HDI.STATS u0)) :
    FrOut V M s0 (execFusePolicy q s) := by
  unfold execFusePolicy
  repeat' first
    | with_reducible intro _
    | with_reducible assumption
    | with_reducible apply key4
    | with_reducible apply command_fr
    | with_reducible apply keyEff_fr
    | with_reducible apply frOut_next
    | with_reducible apply frOut_fault

theorem keyEnds_fr (code v : Nat) (ok : Bool) (s : State) (hs : Fr V M s0 s) (key0 : V (CFG.BBRAM_KEY_ID)) (key1 : V (CFG.FUSE_KEY_ID)) (key2 : V (CFG.KEY_STATUS)) (key3 : V (CFG.POLICY)) :
    Fr V M s0 (keyEnds code v ok s) := by
  unfold keyEnds
  repeat' first
    | with_reducible intro _
    | with_reducible assumption
    | with_reducible apply modCfg_fr
    | with_reducible apply wr_fr
    | with_reducible apply setBit_fr
    | with_reducible apply drawn_fr
    | simp only [↓fr_mk_iff]
    | with_reducible apply fr_ite
    | (extract_lets x; first | (with_reducible refine fr_cut (s := x) ?_ ?_; (on_goal 2 => clear_value x); (on_goal 1 => unfold x)) | (subst x))
    | split

theorem execKeyCommandEnd_fr (ok : Bool) (s : State) (hs : Fr V M s0 s) (key0 : V (CFG.BBRAM_KEY_ID)) (key1 : V (CFG.FUSE_KEY_ID)) (key2 : V (CFG.KEY_STATUS)) (key3 : V (CFG.POLICY)) :
    FrOut V M s0 (execKeyCommandEnd ok s) := by
  unfold execKeyCommandEnd
  repeat' first
    | with_reducible intro _
    | with_reducible assumption
    | with_reducible apply modCfg_fr
    | with_reducible apply keyEnds_fr
    | with_reducible apply setBit_fr
    | with_reducible apply raise_fr
    | with_reducible apply frOut_next
    | with_reducible apply frOut_fault
    | simp only [↓fr_mk_iff]
    | split

set_option Elab.async false in
theorem execTamper_fr (cause : Nat) (s : State) (hs : Fr V M s0 s) (key0 : V (CFG.BBRAM_KEY_ID)) (key1 : V (CFG.KEY_STATUS)) (key2 : V (CFG.TAMPER_CAUSE)) (key3 : V (CFG.TAMPER_COUNT)) :
    FrOut V M s0 (execTamper cause s) := by
  unfold execTamper
  repeat' first
    | with_reducible intro _
    | with_reducible assumption
    | with_reducible apply key0
    | with_reducible apply key1
    | with_reducible apply key2
    | with_reducible apply key3
    | with_reducible apply zeroiseKey_fr
    | with_reducible apply modCfg_fr
    | with_reducible apply drawn_fr
    | with_reducible apply note_fr
    | with_reducible apply setBit_fr
    | with_reducible apply wr_fr
    | simp only [↓fr_mk_iff]
    | with_reducible apply fr_foldl
    | with_reducible apply fr_foldl_snd
    | with_reducible apply fr_ite
    | with_reducible apply frOut_next
    | with_reducible apply frOut_fault
    | with_reducible apply frOut_ite
    | with_reducible apply unitCmd_fr
    | (extract_lets x; first | (with_reducible refine fr_cut (s := x) ?_ ?_; (on_goal 2 => clear_value x); (on_goal 1 => unfold x)) | (subst x))
    | split

end Sys2Proof.Laws
end

