-- ==== Sys2Proof/Laws/FrameLoupe.lean ====
section
/-! SUPPORT. Which members every operation of Machine/Loupe.lean can change, and whether it can change the memory. -/
namespace Sys2Proof.Laws
open Sys2Proof Sys2Proof.Machine
set_option linter.unusedVariables false
set_option linter.unusedTactic false
set_option linter.unreachableTactic false

variable {V : Nat → Prop} {M : Prop} {s0 : State}

theorem loupeFlag_fr (b : Nat) (s : State) (hs : Fr V M s0 s) (key0 : V (CFG.LOUPE_EVFLAGS)) :
    Fr V M s0 (loupeFlag b s) := by
  unfold loupeFlag
  repeat' first
    | with_reducible intro _
    | with_reducible assumption
    | with_reducible apply flag_fr
    | with_reducible apply fr_ite
    | split

theorem loupeLast_fr (kind : Nat) (x : FrameId) (s : State) (hs : Fr V M s0 s) (key0 : V (CFG.LOUPE_LAST)) :
    Fr V M s0 (loupeLast kind x s) := by
  unfold loupeLast
  repeat' first
    | with_reducible intro _
    | with_reducible assumption
    | with_reducible apply wr_fr

theorem execConfigUpset_fr (u : Upset) (s : State) (hs : Fr V M s0 s) (key0 : V (CFG.LOUPE_SELF_CE)) (key1 : V (CFG.LOUPE_EVFLAGS)) :
    FrOut V M s0 (execConfigUpset u s) := by
  unfold execConfigUpset
  repeat' first
    | with_reducible intro _
    | with_reducible assumption
    | with_reducible apply key0
    | with_reducible apply key1
    | with_reducible apply loupeFlag_fr
    | with_reducible apply flipTarget_fr
    | with_reducible apply bump_fr
    | simp only [↓fr_mk_iff]
    | with_reducible apply fr_ite
    | with_reducible apply frOut_next
    | with_reducible apply frOut_fault
    | with_reducible apply frOut_ite
    | with_reducible apply unitCmd_fr
    | (extract_lets x; first | (with_reducible refine fr_cut (s := x) ?_ ?_; (on_goal 2 => clear_value x); (on_goal 1 => unfold x)) | (subst x))
    | split

theorem undo_fr (us : List Upset) (s : State) (hs : Fr V M s0 s) :
    Fr V M s0 (undo us s) := by
  unfold undo
  repeat' first
    | with_reducible intro _
    | with_reducible assumption
    | with_reducible apply flipTarget_fr
    | simp only [↓fr_mk_iff]
    | with_reducible apply fr_foldl

theorem scanWord_fr (x : FrameId) (us : List Upset) (s : State) (hs : Fr V M s0 s) (key0 : V (CFG.LOUPE_CE)) (key1 : V (CFG.LOUPE_EVFLAGS)) (key2 : V (CFG.LOUPE_LAST)) (key3 : V (CFG.LOUPE_SEL)) :
    Fr V M s0 (scanWord x us s) := by
  unfold scanWord
  repeat' first
    | with_reducible intro _
    | with_reducible assumption
    | with_reducible apply key0
    | with_reducible apply key1
    | with_reducible apply key2
    | with_reducible apply key3
    | with_reducible apply undo_fr
    | with_reducible apply loupeLast_fr
    | with_reducible apply loupeFlag_fr
    | with_reducible apply upto_fr
    | with_reducible apply bump_fr
    | simp only [↓fr_mk_iff]
    | with_reducible apply fr_ite
    | (extract_lets x; first | (with_reducible refine fr_cut (s := x) ?_ ?_; (on_goal 2 => clear_value x); (on_goal 1 => unfold x)) | (subst x))
    | split

theorem uncorrectable_fr (x : FrameId) (s : State) (hs : Fr V M s0 s) (key0 : V (CFG.LOUPE_DEFERRED)) (key1 : V (CFG.LOUPE_EVFLAGS)) (key2 : V (CFG.LOUPE_LAST)) (key3 : V (CFG.LOUPE_UE)) :
    Fr V M s0 (uncorrectable x s) := by
  unfold uncorrectable
  repeat' first
    | with_reducible intro _
    | with_reducible assumption
    | with_reducible apply key0
    | with_reducible apply key1
    | with_reducible apply key2
    | with_reducible apply key3
    | with_reducible apply loupeLast_fr
    | with_reducible apply loupeFlag_fr
    | with_reducible apply modCfg_fr
    | with_reducible apply bump_fr
    | simp only [↓fr_mk_iff]
    | with_reducible apply fr_ite
    | (extract_lets x; first | (with_reducible refine fr_cut (s := x) ?_ ?_; (on_goal 2 => clear_value x); (on_goal 1 => unfold x)) | (subst x))
    | split

theorem scanFrame_fr (x : FrameId) (begun : Nat) (s : State) (hs : Fr V M s0 s) (key0 : V (CFG.LOUPE_CE)) (key1 : V (CFG.LOUPE_DEFERRED)) (key2 : V (CFG.LOUPE_EVFLAGS)) (key3 : V (CFG.LOUPE_LAST)) (key4 : V (CFG.LOUPE_SEL)) (key5 : V (CFG.LOUPE_UE)) :
    Fr V M s0 (scanFrame x begun s) := by
  unfold scanFrame
  repeat' first
    | with_reducible intro _
    | with_reducible assumption
    | with_reducible apply key0
    | with_reducible apply key1
    | with_reducible apply key2
    | with_reducible apply key3
    | with_reducible apply key4
    | with_reducible apply key5
    | with_reducible apply uncorrectable_fr
    | with_reducible apply scanWord_fr
    | with_reducible apply upto_fr
    | simp only [↓fr_mk_iff]
    | with_reducible apply fr_foldl
    | with_reducible apply fr_foldl_snd
    | with_reducible apply fr_ite
    | (extract_lets x; first | (with_reducible refine fr_cut (s := x) ?_ ?_; (on_goal 2 => clear_value x); (on_goal 1 => unfold x)) | (subst x))
    | split

theorem heartbeat_fr (s : State) (hs : Fr V M s0 s) (key0 : V (CFG.LOUPE_HEARTBEAT)) :
    Fr V M s0 (heartbeat s) := by
  unfold heartbeat
  repeat' first
    | with_reducible intro _
    | with_reducible assumption
    | with_reducible apply wr_fr

theorem execLoupeFrameScan_fr (s : State) (hs : Fr V M s0 s) (key0 : V (CFG.LOUPE_CE)) (key1 : V (CFG.LOUPE_DEFERRED)) (key2 : V (CFG.LOUPE_EVFLAGS)) (key3 : V (CFG.LOUPE_HEARTBEAT)) (key4 : V (CFG.LOUPE_LAST)) (key5 : V (CFG.LOUPE_PASSES)) (key6 : V (CFG.LOUPE_PASS_TIME)) (key7 : V (CFG.LOUPE_SEL)) (key8 : V (CFG.LOUPE_UE)) :
    FrOut V M s0 (execLoupeFrameScan s) := by
  unfold execLoupeFrameScan
  repeat' first
    | with_reducible intro _
    | with_reducible assumption
    | with_reducible apply key0
    | with_reducible apply key1
    | with_reducible apply key2
    | with_reducible apply key3
    | with_reducible apply key4
    | with_reducible apply key5
    | with_reducible apply key6
    | with_reducible apply key7
    | with_reducible apply key8
    | with_reducible apply heartbeat_fr
    | with_reducible apply scanFrame_fr
    | with_reducible apply passEnds_fr
    | with_reducible apply modCfg_fr
    | with_reducible apply upto_fr
    | simp only [↓fr_mk_iff]
    | with_reducible apply fr_ite
    | with_reducible apply frOut_next
    | with_reducible apply frOut_fault
    | with_reducible apply frOut_ite
    | with_reducible apply unitCmd_fr
    | (extract_lets x; first | (with_reducible refine fr_cut (s := x) ?_ ?_; (on_goal 2 => clear_value x); (on_goal 1 => unfold x)) | (subst x))
    | split

theorem reloadNext_fr (s : State) (hs : Fr V M s0 s) :
    Fr V M s0 (reloadNext s) := by
  unfold reloadNext
  repeat' first
    | with_reducible intro _
    | with_reducible assumption
    | with_reducible apply modCfg_fr
    | with_reducible apply meshSend_fr
    | simp only [↓fr_mk_iff]
    | with_reducible apply fr_ite
    | (extract_lets x; first | (with_reducible refine fr_cut (s := x) ?_ ?_; (on_goal 2 => clear_value x); (on_goal 1 => unfold x)) | (subst x))
    | split

theorem execLoupeReload_fr (s : State) (hs : Fr V M s0 s) :
    FrOut V M s0 (execLoupeReload s) := by
  unfold execLoupeReload
  repeat' first
    | with_reducible intro _
    | with_reducible assumption
    | with_reducible apply reloadNext_fr
    | with_reducible apply modCfg_fr
    | simp only [↓fr_mk_iff]
    | with_reducible apply fr_ite
    | with_reducible apply frOut_next
    | with_reducible apply frOut_fault
    | with_reducible apply frOut_ite
    | with_reducible apply unitCmd_fr
    | (extract_lets x; first | (with_reducible refine fr_cut (s := x) ?_ ?_; (on_goal 2 => clear_value x); (on_goal 1 => unfold x)) | (subst x))
    | split

theorem reloadDone_fr (x : MeshResp) (s : State) (hs : Fr V M s0 s) :
    Fr V M s0 (reloadDone x s) := by
  unfold reloadDone
  repeat' first
    | with_reducible intro _
    | with_reducible assumption
    | with_reducible apply reloadNext_fr
    | with_reducible apply modCfg_fr
    | with_reducible apply respTaken_fr
    | simp only [↓fr_mk_iff]
    | with_reducible apply fr_ite
    | (extract_lets x; first | (with_reducible refine fr_cut (s := x) ?_ ?_; (on_goal 2 => clear_value x); (on_goal 1 => unfold x)) | (subst x))
    | split

theorem reloadFailed_fr (x : FrameId) (s : State) (hs : Fr V M s0 s) (key0 : V (CFG.LOUPE_DAMAGED)) (key1 : V (CFG.LOUPE_EVFLAGS)) (key2 : V (CFG.LOUPE_RELOAD_FAIL)) (key3 : V (HDI.APPLY_OUTCOME)) (key4 : V (HDI.MIRROR_STATE)) (key5 : V (VEN.FLAGS x.f)) (key6 : ∀ u0, V (VEN.STATE u0)) :
    Fr V M s0 (reloadFailed x s) := by
  unfold reloadFailed
  repeat' first
    | with_reducible intro _
    | with_reducible assumption
    | with_reducible apply key6
    | with_reducible apply loupeFlag_fr
    | with_reducible apply bump_fr
    | with_reducible apply setBit_fr
    | with_reducible apply modCfg_fr
    | with_reducible apply veStopEff_fr
    | simp only [↓fr_mk_iff]
    | with_reducible apply fr_ite
    | (extract_lets x; first | (with_reducible refine fr_cut (s := x) ?_ ?_; (on_goal 2 => clear_value x); (on_goal 1 => unfold x)) | (subst x))
    | split

theorem execLoupeReloadEnd_fr (ok : Bool) (s : State) (hs : Fr V M s0 s) (key0 : V (CFG.LOUPE_DAMAGED)) (key1 : V (CFG.LOUPE_EVFLAGS)) (key2 : V (CFG.LOUPE_RELOADS)) (key3 : V (CFG.LOUPE_RELOAD_FAIL)) (key4 : V (HDI.APPLY_OUTCOME)) (key5 : V (HDI.MIRROR_STATE)) (key6 : ∀ u0, V (VEN.FLAGS u0)) (key7 : ∀ u0, V (VEN.STATE u0)) :
    FrOut V M s0 (execLoupeReloadEnd ok s) := by
  unfold execLoupeReloadEnd
  repeat' first
    | with_reducible intro _
    | with_reducible assumption
    | with_reducible apply key0
    | with_reducible apply key1
    | with_reducible apply key2
    | with_reducible apply key3
    | with_reducible apply key4
    | with_reducible apply key5
    | with_reducible apply key6
    | with_reducible apply key7
    | with_reducible apply reloadFailed_fr
    | with_reducible apply undo_fr
    | with_reducible apply loupeFlag_fr
    | with_reducible apply modCfg_fr
    | with_reducible apply upto_fr
    | with_reducible apply bump_fr
    | simp only [↓fr_mk_iff]
    | with_reducible apply fr_ite
    | with_reducible apply frOut_next
    | with_reducible apply frOut_fault
    | with_reducible apply frOut_ite
    | with_reducible apply unitCmd_fr
    | (extract_lets x; first | (with_reducible refine fr_cut (s := x) ?_ ?_; (on_goal 2 => clear_value x); (on_goal 1 => unfold x)) | (subst x))
    | split

theorem execLoupeHeartbeatIdle_fr (s : State) (hs : Fr V M s0 s) (key0 : V (CFG.LOUPE_HEARTBEAT)) :
    FrOut V M s0 (execLoupeHeartbeatIdle s) := by
  unfold execLoupeHeartbeatIdle
  repeat' first
    | with_reducible intro _
    | with_reducible assumption
    | with_reducible apply heartbeat_fr
    | with_reducible apply frOut_next
    | with_reducible apply frOut_fault
    | with_reducible apply frOut_ite
    | with_reducible apply fr_ite
    | split

theorem execHeartbeatCheck_fr (s : State) (hs : Fr V M s0 s) (key0 : V (CFG.LOUPE_ABANDONED)) (key1 : V (CFG.LOUPE_EVFLAGS)) (key2 : V (CFG.LOUPE_RESETS)) :
    FrOut V M s0 (execHeartbeatCheck s) := by
  unfold execHeartbeatCheck
  repeat' first
    | with_reducible intro _
    | with_reducible assumption
    | with_reducible apply key0
    | with_reducible apply key1
    | with_reducible apply key2
    | with_reducible apply abandon_fr
    | with_reducible apply modCfg_fr
    | with_reducible apply upto_fr
    | with_reducible apply note_fr
    | with_reducible apply setBit_fr
    | with_reducible apply raise_fr
    | with_reducible apply bump_fr
    | simp only [↓fr_mk_iff]
    | with_reducible apply fr_ite
    | with_reducible apply frOut_next
    | with_reducible apply frOut_fault
    | with_reducible apply frOut_ite
    | with_reducible apply unitCmd_fr
    | (extract_lets x; first | (with_reducible refine fr_cut (s := x) ?_ ?_; (on_goal 2 => clear_value x); (on_goal 1 => unfold x)) | (subst x))
    | split

theorem loupeEnEff_fr (v : Nat) (s : State) (hs : Fr V M s0 s) (key0 : V (CFG.LOUPE_ABANDONED)) (key1 : V (CFG.LOUPE_EN)) :
    Fr V M s0 (loupeEnEff v s) := by
  unfold loupeEnEff
  repeat' first
    | with_reducible intro _
    | with_reducible assumption
    | with_reducible apply wr_fr
    | with_reducible apply abandon_fr
    | with_reducible apply modCfg_fr
    | simp only [↓fr_mk_iff]
    | with_reducible apply fr_ite
    | (extract_lets x; first | (with_reducible refine fr_cut (s := x) ?_ ?_; (on_goal 2 => clear_value x); (on_goal 1 => unfold x)) | (subst x))
    | split

set_option Elab.async false in
theorem execLoupeEnWrite_fr (q : Req) (v : Nat) (s : State) (hs : Fr V M s0 s) (key0 : V (CFG.LOUPE_ABANDONED)) (key1 : V (CFG.LOUPE_EN)) (key2 : ∀ u0, V (HDI.STATS u0)) :
    FrOut V M s0 (execLoupeEnWrite q v s) := by
  unfold execLoupeEnWrite
  repeat' first
    | with_reducible intro _
    | with_reducible assumption
    | with_reducible apply key2
    | with_reducible apply writeTo_fr
    | with_reducible apply loupeEnEff_fr
    | with_reducible apply frOut_next
    | with_reducible apply frOut_fault

end Sys2Proof.Laws
end

