-- ==== Sys2Proof/Laws/FrameFocus.lean ====
section
/-! SUPPORT. Which members every operation of Machine/Focus.lean can change, and whether it can change the memory. -/
namespace Sys2Proof.Laws
open Sys2Proof Sys2Proof.Machine
set_option linter.unusedVariables false
set_option linter.unusedTactic false
set_option linter.unreachableTactic false

variable {V : Nat → Prop} {M : Prop} {s0 : State}

theorem modFocus_fr (f : FocusS → FocusS) (s : State) (hs : Fr V M s0 s) :
    Fr V M s0 (modFocus f s) := by
  unfold modFocus
  repeat' first
    | with_reducible intro _
    | with_reducible assumption
    | simp only [↓fr_mk_iff]

theorem modTrim_fr (f : TrimS → TrimS) (s : State) (hs : Fr V M s0 s) :
    Fr V M s0 (modTrim f s) := by
  unfold modTrim
  repeat' first
    | with_reducible intro _
    | with_reducible assumption
    | simp only [↓fr_mk_iff]

theorem settleStale_fr (g : Nat) (s : State) (hs : Fr V M s0 s) (key0 : V (EDG.STALE_GROUPS)) :
    Fr V M s0 (settleStale g s) := by
  unfold settleStale
  repeat' first
    | with_reducible intro _
    | with_reducible assumption
    | with_reducible apply key0
    | with_reducible apply setBit_fr
    | with_reducible apply raise_fr
    | simp only [↓fr_mk_iff]
    | with_reducible apply fr_ite
    | (extract_lets x; first | (with_reducible refine fr_cut (s := x) ?_ ?_; (on_goal 2 => clear_value x); (on_goal 1 => unfold x)) | (subst x))
    | split

theorem settleStales_fr (s : State) (hs : Fr V M s0 s) (key0 : V (EDG.STALE_GROUPS)) :
    Fr V M s0 (settleStales s) := by
  unfold settleStales
  repeat' first
    | with_reducible intro _
    | with_reducible assumption
    | with_reducible apply key0
    | with_reducible apply settleStale_fr
    | simp only [↓fr_mk_iff]
    | with_reducible apply fr_foldl
    | with_reducible apply fr_foldl_snd
    | with_reducible apply fr_ite
    | (extract_lets x; first | (with_reducible refine fr_cut (s := x) ?_ ?_; (on_goal 2 => clear_value x); (on_goal 1 => unfold x)) | (subst x))
    | split

theorem focusEff_fr (kind : Nat) (s : State) (hs : Fr V M s0 s) (key0 : V (EDG.FOCUS_STATE)) :
    Fr V M s0 (focusEff kind s) := by
  unfold focusEff
  repeat' first
    | with_reducible intro _
    | with_reducible assumption
    | with_reducible apply modFocus_fr
    | with_reducible apply wr_fr
    | (extract_lets x; first | (with_reducible refine fr_cut (s := x) ?_ ?_; (on_goal 2 => clear_value x); (on_goal 1 => unfold x)) | (subst x))

theorem focusExit_fr (x : Nat) (s : State) (hs : Fr V M s0 s) (key0 : V (calKey x 8)) :
    Fr V M s0 (focusExit x s) := by
  unfold focusExit
  repeat' first
    | with_reducible intro _
    | with_reducible assumption
    | with_reducible apply key0
    | with_reducible apply modFocus_fr
    | with_reducible apply wr_fr
    | simp only [↓fr_mk_iff]
    | with_reducible apply fr_ite
    | (extract_lets x; first | (with_reducible refine fr_cut (s := x) ?_ ?_; (on_goal 2 => clear_value x); (on_goal 1 => unfold x)) | (subst x))
    | split

theorem focusAbortEff_fr (s : State) (hs : Fr V M s0 s) (key0 : V (EDG.FOCUS_STATE)) (key1 : ∀ u0, V (calKey u0 6)) (key2 : ∀ u0, V (calKey u0 8)) :
    Fr V M s0 (focusAbortEff s) := by
  unfold focusAbortEff
  repeat' first
    | with_reducible intro _
    | with_reducible assumption
    | with_reducible apply key0
    | with_reducible apply key1
    | with_reducible apply key2
    | with_reducible apply focusExit_fr
    | with_reducible apply modFocus_fr
    | with_reducible apply wr_fr
    | simp only [↓fr_mk_iff]
    | with_reducible apply fr_foldl
    | with_reducible apply fr_foldl_snd
    | with_reducible apply fr_ite
    | (extract_lets x; first | (with_reducible refine fr_cut (s := x) ?_ ?_; (on_goal 2 => clear_value x); (on_goal 1 => unfold x)) | (subst x))
    | split

theorem execFocus_fr (q : Req) (s : State) (hs : Fr V M s0 s) (key0 : V (EDG.FOCUS_STATE)) (key1 : ∀ u0, V (HDI.STATS u0)) :
    FrOut V M s0 (execFocus q s) := by
  unfold execFocus
  repeat' first
    | with_reducible intro _
    | with_reducible assumption
    | with_reducible apply key1
    | with_reducible apply command_fr
    | with_reducible apply focusEff_fr
    | with_reducible apply frOut_next
    | with_reducible apply frOut_fault

theorem execEdgSelfcheck_fr (q : Req) (s : State) (hs : Fr V M s0 s) (key0 : V (EDG.FOCUS_STATE)) (key1 : ∀ u0, V (HDI.STATS u0)) :
    FrOut V M s0 (execEdgSelfcheck q s) := by
  unfold execEdgSelfcheck
  repeat' first
    | with_reducible intro _
    | with_reducible assumption
    | with_reducible apply key1
    | with_reducible apply command_fr
    | with_reducible apply focusEff_fr
    | with_reducible apply frOut_next
    | with_reducible apply frOut_fault

theorem execFocusAbort_fr (q : Req) (s : State) (hs : Fr V M s0 s) (key0 : V (EDG.FOCUS_STATE)) (key1 : ∀ u0, V (HDI.STATS u0)) (key2 : ∀ u0, V (calKey u0 6)) (key3 : ∀ u0, V (calKey u0 8)) :
    FrOut V M s0 (execFocusAbort q s) := by
  unfold execFocusAbort
  repeat' first
    | with_reducible intro _
    | with_reducible assumption
    | with_reducible apply key1
    | with_reducible apply key2
    | with_reducible apply key3
    | with_reducible apply command_fr
    | with_reducible apply focusAbortEff_fr
    | with_reducible apply frOut_next
    | with_reducible apply frOut_fault

theorem channelEnd_fr (kind x : Nat) (pass : Bool) (res : State → State) (s : State) (hs : Fr V M s0 s) (hres : ∀ (y0 : State), Fr V M s0 y0 → Fr V M s0 (res y0)) (key0 : V (EDG.FOCUS_STATE)) (key1 : V (calKey x 8)) (key2 : V (EDG.STALE_GROUPS)) :
    Fr V M s0 (channelEnd kind x pass res s) := by
  unfold channelEnd
  repeat' first
    | with_reducible intro _
    | with_reducible assumption
    | with_reducible apply hres
    | with_reducible apply key0
    | with_reducible apply key1
    | with_reducible apply key2
    | with_reducible apply focusExit_fr
    | with_reducible apply settleStale_fr
    | with_reducible apply modFocus_fr
    | with_reducible apply upto_fr
    | with_reducible apply raise_fr
    | with_reducible apply wr_fr
    | simp only [↓fr_mk_iff]
    | with_reducible apply fr_ite
    | (extract_lets x; first | (with_reducible refine fr_cut (s := x) ?_ ?_; (on_goal 2 => clear_value x); (on_goal 1 => unfold x)) | (subst x))
    | split

theorem stampFocus_fr (x : Nat) (s : State) (hs : Fr V M s0 s) (key0 : V (calKey x 5)) :
    Fr V M s0 (stampFocus x s) := by
  unfold stampFocus
  repeat' first
    | with_reducible intro _
    | with_reducible assumption
    | with_reducible apply key0
    | with_reducible apply modTrim_fr
    | with_reducible apply wr_fr
    | simp only [↓fr_mk_iff]
    | with_reducible apply fr_ite
    | (extract_lets x; first | (with_reducible refine fr_cut (s := x) ?_ ?_; (on_goal 2 => clear_value x); (on_goal 1 => unfold x)) | (subst x))
    | split

theorem takeTrims_fr (x : Nat) (t : Trims) (s : State) (hs : Fr V M s0 s) (key0 : ∀ u1, V (calKey x u1)) :
    Fr V M s0 (takeTrims x t s) := by
  unfold takeTrims
  repeat' first
    | with_reducible intro _
    | with_reducible assumption
    | with_reducible apply key0
    | with_reducible apply stampFocus_fr
    | with_reducible apply modTrim_fr
    | with_reducible apply wr_fr
    | simp only [↓fr_mk_iff]
    | with_reducible apply fr_foldl
    | with_reducible apply fr_foldl_snd
    | with_reducible apply fr_ite
    | (extract_lets x; first | (with_reducible refine fr_cut (s := x) ?_ ?_; (on_goal 2 => clear_value x); (on_goal 1 => unfold x)) | (subst x))
    | split

theorem execFocusChannelEnd_fr (ch : Nat) (found : Option Trims) (s : State) (hs : Fr V M s0 s) (key0 : V (EDG.FOCUS_STATE)) (key1 : ∀ u1, V (calKey ch u1)) (key2 : V (EDG.STALE_GROUPS)) :
    FrOut V M s0 (execFocusChannelEnd ch found s) := by
  unfold execFocusChannelEnd
  repeat' first
    | with_reducible intro _
    | with_reducible assumption
    | with_reducible apply key0
    | with_reducible apply key1
    | with_reducible apply key2
    | with_reducible apply takeTrims_fr
    | with_reducible apply stampFocus_fr
    | with_reducible apply channelEnd_fr
    | with_reducible apply wr_fr
    | simp only [↓fr_mk_iff]
    | with_reducible apply fr_ite
    | with_reducible apply frOut_next
    | with_reducible apply frOut_fault
    | with_reducible apply frOut_ite
    | with_reducible apply unitCmd_fr
    | (extract_lets x; first | (with_reducible refine fr_cut (s := x) ?_ ?_; (on_goal 2 => clear_value x); (on_goal 1 => unfold x)) | (subst x))
    | split

theorem execSelfcheckChannelEnd_fr (ch : Nat) (pass : Bool) (s : State) (hs : Fr V M s0 s) (key0 : V (EDG.FOCUS_STATE)) (key1 : V (calKey ch 7)) (key2 : V (calKey ch 8)) (key3 : V (EDG.STALE_GROUPS)) :
    FrOut V M s0 (execSelfcheckChannelEnd ch pass s) := by
  unfold execSelfcheckChannelEnd
  repeat' first
    | with_reducible intro _
    | with_reducible assumption
    | with_reducible apply key0
    | with_reducible apply key1
    | with_reducible apply key2
    | with_reducible apply key3
    | with_reducible apply channelEnd_fr
    | with_reducible apply wr_fr
    | simp only [↓fr_mk_iff]
    | with_reducible apply fr_ite
    | with_reducible apply frOut_next
    | with_reducible apply frOut_fault
    | with_reducible apply frOut_ite
    | with_reducible apply unitCmd_fr
    | (extract_lets x; first | (with_reducible refine fr_cut (s := x) ?_ ?_; (on_goal 2 => clear_value x); (on_goal 1 => unfold x)) | (subst x))
    | split

theorem trackStep_fr (x : Nat) (t : Int) (s : State) (hs : Fr V M s0 s) (key0 : V (calKey x 8)) :
    Fr V M s0 (trackStep x t s) := by
  unfold trackStep
  repeat' first
    | with_reducible intro _
    | with_reducible assumption
    | with_reducible apply wr_fr
    | with_reducible apply fr_ite
    | (extract_lets x; first | (with_reducible refine fr_cut (s := x) ?_ ?_; (on_goal 2 => clear_value x); (on_goal 1 => unfold x)) | (subst x))
    | split

theorem putTemp_fr (i temp : Nat) (s : State) (hs : Fr V M s0 s) (key0 : V (CRH.TEMP i)) (key1 : ∀ u0, V (EDG.GROUP u0)) :
    Fr V M s0 (putTemp i temp s) := by
  unfold putTemp
  repeat' first
    | with_reducible intro _
    | with_reducible assumption
    | with_reducible apply key0
    | with_reducible apply key1
    | with_reducible apply modCrh_fr
    | with_reducible apply wr_fr
    | simp only [↓fr_mk_iff]
    | with_reducible apply fr_ite
    | (extract_lets x; first | (with_reducible refine fr_cut (s := x) ?_ ?_; (on_goal 2 => clear_value x); (on_goal 1 => unfold x)) | (subst x))
    | split

theorem tempTaken_fr (s : State) (hs : Fr V M s0 s) (key0 : V (CRH.TEMP_MAX)) (key1 : V (CRH.EVFLAGS)) :
    Fr V M s0 (tempTaken s) := by
  unfold tempTaken
  repeat' first
    | with_reducible intro _
    | with_reducible assumption
    | with_reducible apply key0
    | with_reducible apply key1
    | with_reducible apply crhFlag_fr
    | with_reducible apply wr_fr
    | simp only [↓fr_mk_iff]
    | with_reducible apply fr_ite
    | (extract_lets x; first | (with_reducible refine fr_cut (s := x) ?_ ?_; (on_goal 2 => clear_value x); (on_goal 1 => unfold x)) | (subst x))
    | split

theorem execTempTrackSample_fr (g temp : Nat) (s : State) (hs : Fr V M s0 s) (key0 : V (EDG.STALE_GROUPS)) (key1 : ∀ u0, V (calKey u0 8)) (key2 : ∀ u0, V (CRH.TEMP u0)) (key3 : ∀ u0, V (EDG.GROUP u0)) (key4 : V (CRH.TEMP_MAX)) (key5 : V (CRH.EVFLAGS)) :
    FrOut V M s0 (execTempTrackSample g temp s) := by
  unfold execTempTrackSample
  repeat' first
    | with_reducible intro _
    | with_reducible assumption
    | with_reducible apply key0
    | with_reducible apply key1
    | with_reducible apply key2
    | with_reducible apply key3
    | with_reducible apply key4
    | with_reducible apply key5
    | with_reducible apply tempTaken_fr
    | with_reducible apply putTemp_fr
    | with_reducible apply trackStep_fr
    | with_reducible apply settleStale_fr
    | with_reducible apply modTrim_fr
    | with_reducible apply raise_fr
    | simp only [↓fr_mk_iff]
    | with_reducible apply fr_foldl
    | with_reducible apply fr_foldl_snd
    | with_reducible apply fr_ite
    | with_reducible apply frOut_next
    | with_reducible apply frOut_fault
    | with_reducible apply frOut_ite
    | with_reducible apply unitCmd_fr
    | (extract_lets x; first | (with_reducible refine fr_cut (s := x) ?_ ?_; (on_goal 2 => clear_value x); (on_goal 1 => unfold x)) | (subst x))
    | split

theorem execTempSample_fr (temps : List Nat) (s : State) (hs : Fr V M s0 s) (key0 : V (CRH.EVFLAGS)) (key1 : ∀ u0, V (CRH.TEMP u0)) (key2 : V (CRH.TEMP_MAX)) (key3 : ∀ u0, V (EDG.GROUP u0)) (key4 : V (EDG.STALE_GROUPS)) :
    FrOut V M s0 (execTempSample temps s) := by
  unfold execTempSample
  repeat' first
    | with_reducible intro _
    | with_reducible assumption
    | with_reducible apply key0
    | with_reducible apply key1
    | with_reducible apply key2
    | with_reducible apply key3
    | with_reducible apply key4
    | with_reducible apply tempTaken_fr
    | with_reducible apply putTemp_fr
    | with_reducible apply settleStales_fr
    | simp only [↓fr_mk_iff]
    | with_reducible apply fr_foldl
    | with_reducible apply fr_foldl_snd
    | with_reducible apply fr_ite
    | with_reducible apply frOut_next
    | with_reducible apply frOut_fault
    | with_reducible apply frOut_ite
    | with_reducible apply unitCmd_fr
    | (extract_lets x; first | (with_reducible refine fr_cut (s := x) ?_ ?_; (on_goal 2 => clear_value x); (on_goal 1 => unfold x)) | (subst x))
    | split

theorem trimEff_fr (st body : Nat) (s : State) (hs : Fr V M s0 s) (key0 : V (CFG.TRIM_BUSY)) :
    Fr V M s0 (trimEff st body s) := by
  unfold trimEff
  repeat' first
    | with_reducible intro _
    | with_reducible assumption
    | with_reducible apply modTrim_fr
    | with_reducible apply wr_fr
    | simp only [↓fr_mk_iff]
    | with_reducible apply fr_ite
    | split

theorem commitEff_fr (s : State) (hs : Fr V M s0 s) (key0 : V (CFG.TRIM_BUSY)) :
    Fr V M s0 (commitEff s) := by
  unfold commitEff
  repeat' first
    | with_reducible intro _
    | with_reducible assumption
    | with_reducible apply trimEff_fr

theorem importEff_fr (s : State) (hs : Fr V M s0 s) (key0 : V (CFG.TRIM_BUSY)) :
    Fr V M s0 (importEff s) := by
  unfold importEff
  repeat' first
    | with_reducible intro _
    | with_reducible assumption
    | with_reducible apply trimEff_fr

theorem execTrimCommit_fr (q : Req) (s : State) (hs : Fr V M s0 s) (key0 : V (CFG.TRIM_BUSY)) (key1 : ∀ u0, V (HDI.STATS u0)) :
    FrOut V M s0 (execTrimCommit q s) := by
  unfold execTrimCommit
  repeat' first
    | with_reducible intro _
    | with_reducible assumption
    | with_reducible apply key1
    | with_reducible apply command_fr
    | with_reducible apply commitEff_fr
    | with_reducible apply frOut_next
    | with_reducible apply frOut_fault

theorem execTrimImport_fr (q : Req) (s : State) (hs : Fr V M s0 s) (key0 : V (CFG.TRIM_BUSY)) (key1 : ∀ u0, V (HDI.STATS u0)) :
    FrOut V M s0 (execTrimImport q s) := by
  unfold execTrimImport
  repeat' first
    | with_reducible intro _
    | with_reducible assumption
    | with_reducible apply key1
    | with_reducible apply command_fr
    | with_reducible apply importEff_fr
    | with_reducible apply frOut_next
    | with_reducible apply frOut_fault

theorem execTrimWriteEnd_fr (s : State) (hs : Fr V M s0 s) (key0 : V (CFG.TRIM_BUSY)) (key1 : V (CFG.TRIM_RESULT)) :
    FrOut V M s0 (execTrimWriteEnd s) := by
  unfold execTrimWriteEnd
  repeat' first
    | with_reducible intro _
    | with_reducible assumption
    | with_reducible apply modTrim_fr
    | with_reducible apply wr_fr
    | with_reducible apply raise_fr
    | with_reducible apply frOut_next
    | with_reducible apply frOut_fault
    | with_reducible apply frOut_ite
    | simp only [↓fr_mk_iff]
    | with_reducible apply fr_ite
    | split

theorem loadTable_fr (im : Nat) (s : State) (hs : Fr V M s0 s) (key0 : ∀ u0 u1, V (calKey u0 u1)) :
    Fr V M s0 (loadTable im s) := by
  unfold loadTable
  repeat' first
    | with_reducible intro _
    | with_reducible assumption
    | with_reducible apply key0
    | with_reducible apply modTrim_fr
    | with_reducible apply wr_fr
    | simp only [↓fr_mk_iff]
    | with_reducible apply fr_foldl
    | with_reducible apply fr_foldl_snd
    | with_reducible apply fr_ite
    | (extract_lets x; first | (with_reducible refine fr_cut (s := x) ?_ ?_; (on_goal 2 => clear_value x); (on_goal 1 => unfold x)) | (subst x))
    | split

set_option Elab.async false in
theorem trimLoad_fr (s : State) (hs : Fr V M s0 s) (key0 : V (CFG.TRIM_GEN)) (key1 : V (CFG.TRIM_SLOT)) (key2 : ∀ u0 u1, V (calKey u0 u1)) :
    Fr V M s0 (trimLoad s) := by
  unfold trimLoad
  repeat' first
    | with_reducible intro _
    | with_reducible assumption
    | with_reducible apply key2
    | with_reducible apply loadTable_fr
    | with_reducible apply wr_fr
    | with_reducible apply raise_fr
    | split

end Sys2Proof.Laws
end

