-- ==== Sys2Proof/Laws/FrameSup.lean ====
section
/-! SUPPORT. Which members every operation of Machine/Sup.lean can change, and whether it can change the memory. -/
namespace Sys2Proof.Laws
open Sys2Proof Sys2Proof.Machine
set_option linter.unusedVariables false
set_option linter.unusedTactic false
set_option linter.unreachableTactic false

variable {V : Nat → Prop} {M : Prop} {s0 : State}

theorem modSup_fr (f : SupS → SupS) (s : State) (hs : Fr V M s0 s) :
    Fr V M s0 (modSup f s) := by
  unfold modSup
  repeat' first
    | with_reducible intro _
    | with_reducible assumption
    | simp only [↓fr_mk_iff]

theorem supFlag_fr (b : Nat) (s : State) (hs : Fr V M s0 s) (key0 : V (SUP.EVFLAGS)) :
    Fr V M s0 (supFlag b s) := by
  unfold supFlag
  repeat' first
    | with_reducible intro _
    | with_reducible assumption
    | with_reducible apply flag_fr

theorem wdStart_fr (s : State) (hs : Fr V M s0 s) :
    Fr V M s0 (wdStart s) := by
  unfold wdStart
  repeat' first
    | with_reducible intro _
    | with_reducible assumption
    | with_reducible apply modSup_fr
    | simp only [↓fr_mk_iff]

theorem execWdogRestart_fr (s : State) (hs : Fr V M s0 s) :
    FrOut V M s0 (execWdogRestart s) := by
  unfold execWdogRestart
  repeat' first
    | with_reducible intro _
    | with_reducible assumption
    | with_reducible apply wdStart_fr
    | with_reducible apply frOut_next
    | with_reducible apply frOut_fault
    | with_reducible apply frOut_ite
    | with_reducible apply fr_ite
    | split

theorem execWdogWarn_fr (s : State) (hs : Fr V M s0 s) (key0 : V (SUP.EVFLAGS)) :
    FrOut V M s0 (execWdogWarn s) := by
  unfold execWdogWarn
  repeat' first
    | with_reducible intro _
    | with_reducible assumption
    | with_reducible apply modSup_fr
    | with_reducible apply supFlag_fr
    | with_reducible apply upto_fr
    | with_reducible apply frOut_next
    | with_reducible apply frOut_fault
    | with_reducible apply frOut_ite
    | simp only [↓fr_mk_iff]
    | with_reducible apply fr_ite
    | split

theorem execSupReady_fr (s : State) (hs : Fr V M s0 s) (key0 : V (CFG.TRIM_GEN)) (key1 : V (CFG.TRIM_SLOT)) (key2 : V (CRH.EVFLAGS)) (key3 : ∀ u0, V (DMC.STATE u0)) (key4 : V (HDI.STATUS)) (key5 : ∀ u0 u1, V (calKey u0 u1)) :
    FrOut V M s0 (execSupReady s) := by
  unfold execSupReady
  repeat' first
    | with_reducible intro _
    | with_reducible assumption
    | with_reducible apply key0
    | with_reducible apply key1
    | with_reducible apply key2
    | with_reducible apply key3
    | with_reducible apply key4
    | with_reducible apply key5
    | with_reducible apply wdStart_fr
    | with_reducible apply trimLoad_fr
    | with_reducible apply modCfg_fr
    | with_reducible apply crhFlag_fr
    | with_reducible apply upto_fr
    | with_reducible apply setBit_fr
    | with_reducible apply raise_fr
    | with_reducible apply wr_fr
    | simp only [↓fr_mk_iff]
    | with_reducible apply fr_foldl
    | with_reducible apply fr_foldl_snd
    | with_reducible apply fr_ite
    | with_reducible apply frOut_next
    | with_reducible apply frOut_fault
    | with_reducible apply frOut_ite
    | with_reducible apply unitCmd_fr
    | (extract_lets x; first | (with_reducible refine fr_cut (s := x) ?_ ?_; (on_goal 2 => clear_value x); (on_goal 1 => unfold x)) | (subst x))
    | split

theorem cryptoNext_fr (s : State) (hs : Fr V M s0 s) :
    Fr V M s0 (cryptoNext s) := by
  unfold cryptoNext
  repeat' first
    | with_reducible intro _
    | with_reducible assumption
    | with_reducible apply modSup_fr
    | with_reducible apply meshSend_fr
    | simp only [↓fr_mk_iff]
    | with_reducible apply fr_ite
    | (extract_lets x; first | (with_reducible refine fr_cut (s := x) ?_ ?_; (on_goal 2 => clear_value x); (on_goal 1 => unfold x)) | (subst x))
    | split

theorem cryptoEff_fr (hmac : Bool) (s : State) (hs : Fr V M s0 s) (key0 : V (SUP.CJ_STATE)) :
    Fr V M s0 (cryptoEff hmac s) := by
  unfold cryptoEff
  repeat' first
    | with_reducible intro _
    | with_reducible assumption
    | with_reducible apply cryptoNext_fr
    | with_reducible apply modSup_fr
    | with_reducible apply wr_fr
    | simp only [↓fr_mk_iff]
    | with_reducible apply fr_ite
    | split

theorem execCjSha256_fr (q : Req) (s : State) (hs : Fr V M s0 s) (key0 : ∀ u0, V (HDI.STATS u0)) (key1 : V (SUP.CJ_STATE)) :
    FrOut V M s0 (execCjSha256 q s) := by
  unfold execCjSha256
  repeat' first
    | with_reducible intro _
    | with_reducible assumption
    | with_reducible apply key0
    | with_reducible apply command_fr
    | with_reducible apply cryptoEff_fr
    | with_reducible apply frOut_next
    | with_reducible apply frOut_fault

theorem execCjHmac_fr (q : Req) (s : State) (hs : Fr V M s0 s) (key0 : ∀ u0, V (HDI.STATS u0)) (key1 : V (SUP.CJ_STATE)) :
    FrOut V M s0 (execCjHmac q s) := by
  unfold execCjHmac
  repeat' first
    | with_reducible intro _
    | with_reducible assumption
    | with_reducible apply key0
    | with_reducible apply command_fr
    | with_reducible apply cryptoEff_fr
    | with_reducible apply frOut_next
    | with_reducible apply frOut_fault

theorem cryptoDone_fr (x : MeshResp) (s : State) (hs : Fr V M s0 s) :
    Fr V M s0 (cryptoDone x s) := by
  unfold cryptoDone
  repeat' first
    | with_reducible intro _
    | with_reducible assumption
    | with_reducible apply respTaken_fr
    | with_reducible apply modSup_fr
    | with_reducible apply cryptoNext_fr
    | simp only [↓fr_mk_iff]
    | with_reducible apply fr_ite
    | (extract_lets x; first | (with_reducible refine fr_cut (s := x) ?_ ?_; (on_goal 2 => clear_value x); (on_goal 1 => unfold x)) | (subst x))
    | split

theorem execCryptoJobEnd_fr (s : State) (hs : Fr V M s0 s) (key0 : V (SUP.CJ_RESULT)) (key1 : V (SUP.CJ_STATE)) (key2 : V (SUP.EVFLAGS)) :
    FrOut V M s0 (execCryptoJobEnd s) := by
  unfold execCryptoJobEnd
  repeat' first
    | with_reducible intro _
    | with_reducible assumption
    | with_reducible apply key0
    | with_reducible apply key1
    | with_reducible apply key2
    | with_reducible apply cryptoNext_fr
    | with_reducible apply supFlag_fr
    | with_reducible apply modSup_fr
    | with_reducible apply wr_fr
    | simp only [↓fr_mk_iff]
    | with_reducible apply fr_ite
    | with_reducible apply frOut_next
    | with_reducible apply frOut_fault
    | with_reducible apply frOut_ite
    | with_reducible apply unitCmd_fr
    | (extract_lets x; first | (with_reducible refine fr_cut (s := x) ?_ ?_; (on_goal 2 => clear_value x); (on_goal 1 => unfold x)) | (subst x))
    | split

theorem hostRestart_fr (s : State) (hs : Fr V M s0 s) :
    Fr V M s0 (hostRestart s) := by
  unfold hostRestart
  repeat' first
    | with_reducible intro _
    | with_reducible assumption
    | with_reducible apply modSup_fr
    | with_reducible apply fr_ite
    | split

theorem hostKickEff_fr (s : State) (hs : Fr V M s0 s) :
    Fr V M s0 (hostKickEff s) := by
  unfold hostKickEff
  repeat' first
    | with_reducible intro _
    | with_reducible assumption
    | with_reducible apply hostRestart_fr
    | with_reducible apply fr_ite
    | split

theorem execHostKick_fr (q : Req) (v : Nat) (s : State) (hs : Fr V M s0 s) (key0 : ∀ u0, V (HDI.STATS u0)) :
    FrOut V M s0 (execHostKick q v s) := by
  unfold execHostKick
  repeat' first
    | with_reducible intro _
    | with_reducible assumption
    | with_reducible apply key0
    | with_reducible apply command_fr
    | with_reducible apply hostKickEff_fr
    | with_reducible apply frOut_next
    | with_reducible apply frOut_fault

theorem stopAll_fr (s : State) (hs : Fr V M s0 s) (key0 : ∀ u0, V (DSP.STATE u0)) (key1 : V (HDI.APPLY_OUTCOME)) (key2 : V (HDI.MIRROR_STATE)) (key3 : ∀ u0, V (VEN.FLAGS u0)) (key4 : ∀ u0, V (VEN.STATE u0)) :
    Fr V M s0 (stopAll s) := by
  unfold stopAll
  repeat' first
    | with_reducible intro _
    | with_reducible assumption
    | with_reducible apply key0
    | with_reducible apply key1
    | with_reducible apply key2
    | with_reducible apply key3
    | with_reducible apply key4
    | with_reducible apply dspStopEff_fr
    | with_reducible apply veStopEff_fr
    | simp only [↓fr_mk_iff]
    | with_reducible apply fr_foldl
    | with_reducible apply fr_foldl_snd
    | with_reducible apply fr_ite
    | (extract_lets x; first | (with_reducible refine fr_cut (s := x) ?_ ?_; (on_goal 2 => clear_value x); (on_goal 1 => unfold x)) | (subst x))
    | split

theorem dropArmed_fr (s : State) (hs : Fr V M s0 s) (key0 : V (HDI.APPLY_OUTCOME)) (key1 : V (HDI.MIRROR_STATE)) (key2 : ∀ u0, V (VEN.STATE u0)) :
    Fr V M s0 (dropArmed s) := by
  unfold dropArmed
  repeat' first
    | with_reducible intro _
    | with_reducible assumption
    | with_reducible apply key2
    | with_reducible apply disarmTo_fr
    | with_reducible apply wr_fr
    | with_reducible apply raise_fr
    | with_reducible apply fr_ite
    | split

theorem execHostWdExpiry_fr (s : State) (hs : Fr V M s0 s) (key0 : ∀ u0, V (DSP.STATE u0)) (key1 : V (HDI.APPLY_OUTCOME)) (key2 : V (HDI.MIRROR_STATE)) (key3 : V (SUP.EVFLAGS)) (key4 : V (SUP.HOST_WD_TRIPS)) (key5 : ∀ u0, V (VEN.FLAGS u0)) (key6 : ∀ u0, V (VEN.STATE u0)) :
    FrOut V M s0 (execHostWdExpiry s) := by
  unfold execHostWdExpiry
  repeat' first
    | with_reducible intro _
    | with_reducible assumption
    | with_reducible apply key0
    | with_reducible apply key5
    | with_reducible apply key6
    | with_reducible apply stopAll_fr
    | with_reducible apply dropArmed_fr
    | with_reducible apply upto_fr
    | with_reducible apply supFlag_fr
    | with_reducible apply modSup_fr
    | with_reducible apply bump_fr
    | with_reducible apply frOut_next
    | with_reducible apply frOut_fault
    | simp only [↓fr_mk_iff]
    | (extract_lets x; first | (with_reducible refine fr_cut (s := x) ?_ ?_; (on_goal 2 => clear_value x); (on_goal 1 => unfold x)) | (subst x))
    | split

theorem logRecord_fr (e : Nat) (s : State) (hs : Fr V M s0 s) (key0 : V (SUP.EVFLAGS)) (key1 : V (SUP.LOG_LOST)) (key2 : V (SUP.LOG_MADE)) :
    Fr V M s0 (logRecord e s) := by
  unfold logRecord
  repeat' first
    | with_reducible intro _
    | with_reducible assumption
    | with_reducible apply bump_fr
    | with_reducible apply supFlag_fr
    | with_reducible apply modSup_fr
    | simp only [↓fr_mk_iff]
    | with_reducible apply fr_ite
    | (extract_lets x; first | (with_reducible refine fr_cut (s := x) ?_ ?_; (on_goal 2 => clear_value x); (on_goal 1 => unfold x)) | (subst x))
    | split

theorem linePulses_fr (e t : Nat) (s : State) (hs : Fr V M s0 s) (key0 : V (SUP.FEV_MERGED)) :
    Fr V M s0 (linePulses e t s) := by
  unfold linePulses
  repeat' first
    | with_reducible intro _
    | with_reducible assumption
    | with_reducible apply bump_fr
    | with_reducible apply modSup_fr
    | simp only [↓fr_mk_iff]
    | with_reducible apply fr_ite
    | with_reducible apply fr_foldl
    | (extract_lets x; first | (with_reducible refine fr_cut (s := x) ?_ ?_; (on_goal 2 => clear_value x); (on_goal 1 => unfold x)) | (subst x))
    | split

theorem register_fr (e t : Nat) (s : State) (hs : Fr V M s0 s) (key0 : V (SUP.EVFLAGS)) (key1 : V (SUP.EV_COUNT e)) (key2 : V (SUP.EV_PEND (e / 64))) (key3 : V (SUP.FEV_MERGED)) (key4 : V (SUP.LOG_LOST)) (key5 : V (SUP.LOG_MADE)) :
    Fr V M s0 (register e t s) := by
  unfold register
  repeat' first
    | with_reducible intro _
    | with_reducible assumption
    | with_reducible apply key0
    | with_reducible apply key1
    | with_reducible apply key2
    | with_reducible apply key3
    | with_reducible apply key4
    | with_reducible apply key5
    | with_reducible apply linePulses_fr
    | with_reducible apply logRecord_fr
    | with_reducible apply modSup_fr
    | with_reducible apply note_fr
    | with_reducible apply setBit_fr
    | with_reducible apply bump_fr
    | simp only [↓fr_mk_iff]
    | with_reducible apply fr_ite
    | (extract_lets x; first | (with_reducible refine fr_cut (s := x) ?_ ?_; (on_goal 2 => clear_value x); (on_goal 1 => unfold x)) | (subst x))
    | split

theorem execEventRaise_fr (s : State) (hs : Fr V M s0 s) (key0 : V (SUP.EVFLAGS)) (key1 : ∀ u0, V (SUP.EV_COUNT u0)) (key2 : ∀ u0, V (SUP.EV_PEND u0)) (key3 : V (SUP.FEV_MERGED)) (key4 : V (SUP.LOG_LOST)) (key5 : V (SUP.LOG_MADE)) :
    FrOut V M s0 (execEventRaise s) := by
  unfold execEventRaise
  repeat' first
    | with_reducible intro _
    | with_reducible assumption
    | with_reducible apply key1
    | with_reducible apply key2
    | with_reducible apply register_fr
    | with_reducible apply upto_fr
    | with_reducible apply frOut_next
    | with_reducible apply frOut_fault
    | simp only [↓fr_mk_iff]
    | split

theorem execFabricEventPulse_fr (k : Nat) (s : State) (hs : Fr V M s0 s) :
    FrOut V M s0 (execFabricEventPulse k s) := by
  unfold execFabricEventPulse
  repeat' first
    | with_reducible intro _
    | with_reducible assumption
    | with_reducible apply unitCmd_fr
    | with_reducible apply modSup_fr
    | with_reducible apply upto_fr
    | with_reducible apply frOut_next
    | with_reducible apply frOut_fault
    | simp only [↓fr_mk_iff]
    | (extract_lets x; first | (with_reducible refine fr_cut (s := x) ?_ ?_; (on_goal 2 => clear_value x); (on_goal 1 => unfold x)) | (subst x))
    | split

theorem logPopEff_fr (s : State) (hs : Fr V M s0 s) (key0 : V (SUP.LOG_READ) := by first | assumption | simp only [*]) :
    Fr V M s0 (logPopEff s) := by
  unfold logPopEff
  repeat' first
    | with_reducible intro _
    | with_reducible assumption
    | with_reducible apply modSup_fr
    | with_reducible apply bump_fr
    | simp only [↓fr_mk_iff]

theorem execLogPop_fr (q : Req) (s : State) (hs : Fr V M s0 s) (key0 : ∀ u0, V (HDI.STATS u0)) (key1 : V (SUP.LOG_READ)) :
    FrOut V M s0 (execLogPop q s) := by
  unfold execLogPop
  repeat' first
    | with_reducible intro _
    | with_reducible assumption
    | with_reducible apply key0
    | with_reducible apply readFrom_fr
    | with_reducible apply logPopEff_fr
    | with_reducible apply frOut_next
    | with_reducible apply frOut_fault

set_option Elab.async false in
theorem execIbiRequest_fr (ack : Bool) (s : State) (hs : Fr V M s0 s) (key0 : V (SUP.IBI_SENT)) :
    FrOut V M s0 (execIbiRequest ack s) := by
  unfold execIbiRequest
  repeat' first
    | with_reducible intro _
    | with_reducible assumption
    | with_reducible apply modSup_fr
    | with_reducible apply bump_fr
    | with_reducible apply modI3c_fr
    | with_reducible apply frOut_next
    | with_reducible apply frOut_fault
    | with_reducible apply frOut_ite
    | simp only [↓fr_mk_iff]
    | with_reducible apply fr_ite
    | split

end Sys2Proof.Laws
end

