-- ==== Sys2Proof/Laws/FrameDbg.lean ====
section
/-! SUPPORT. Which members every operation of Machine/Dbg.lean can change, and whether it can change the memory. -/
namespace Sys2Proof.Laws
open Sys2Proof Sys2Proof.Machine
set_option linter.unusedVariables false
set_option linter.unusedTactic false
set_option linter.unreachableTactic false

variable {V : Nat → Prop} {M : Prop} {s0 : State}

theorem modDbg_fr (f : DbgS → DbgS) (s : State) (hs : Fr V M s0 s) :
    Fr V M s0 (modDbg f s) := by
  unfold modDbg
  repeat' first
    | with_reducible intro _
    | with_reducible assumption
    | simp only [↓fr_mk_iff]

theorem dbgFlag_fr (b : Nat) (s : State) (hs : Fr V M s0 s) (key0 : V (DBG.EVFLAGS)) :
    Fr V M s0 (dbgFlag b s) := by
  unfold dbgFlag
  repeat' first
    | with_reducible intro _
    | with_reducible assumption
    | with_reducible apply flag_fr

theorem vendorEnds_fr (m : Nat) (s : State) (hs : Fr V M s0 s) (key0 : V (DBG.STATUS)) :
    Fr V M s0 (vendorEnds m s) := by
  unfold vendorEnds
  repeat' first
    | with_reducible intro _
    | with_reducible assumption
    | with_reducible apply modDbg_fr
    | with_reducible apply setBit_fr
    | simp only [↓fr_mk_iff]
    | with_reducible apply fr_ite
    | split

theorem grant_fr (m l : Nat) (s : State) (hs : Fr V M s0 s) :
    Fr V M s0 (grant m l s) := by
  unfold grant
  repeat' first
    | with_reducible intro _
    | with_reducible assumption
    | with_reducible apply modMaster_fr
    | simp only [↓fr_mk_iff]

theorem challengeFor_fr (m l : Nat) (s : State) (hs : Fr V M s0 s) :
    Fr V M s0 (challengeFor m l s) := by
  unfold challengeFor
  repeat' first
    | with_reducible intro _
    | with_reducible assumption
    | with_reducible apply modMaster_fr
    | with_reducible apply drawn_fr

theorem authEff_fr (q : Req) (code : Nat) (s : State) (hs : Fr V M s0 s) (key0 : V (DBG.STATUS)) :
    Fr V M s0 (authEff q code s) := by
  unfold authEff
  repeat' first
    | with_reducible intro _
    | with_reducible assumption
    | with_reducible apply challengeFor_fr
    | with_reducible apply grant_fr
    | with_reducible apply vendorEnds_fr
    | with_reducible apply modMaster_fr
    | simp only [↓fr_mk_iff]
    | with_reducible apply fr_ite
    | split

theorem execAuthCustomerL2_fr (q : Req) (s : State) (hs : Fr V M s0 s) (key0 : V (DBG.STATUS)) (key1 : ∀ u0, V (HDI.STATS u0)) :
    FrOut V M s0 (execAuthCustomerL2 q s) := by
  unfold execAuthCustomerL2
  repeat' first
    | with_reducible intro _
    | with_reducible assumption
    | with_reducible apply key1
    | with_reducible apply command_fr
    | with_reducible apply authEff_fr
    | with_reducible apply frOut_next
    | with_reducible apply frOut_fault

theorem execAuthCustomerL3_fr (q : Req) (s : State) (hs : Fr V M s0 s) (key0 : V (DBG.STATUS)) (key1 : ∀ u0, V (HDI.STATS u0)) :
    FrOut V M s0 (execAuthCustomerL3 q s) := by
  unfold execAuthCustomerL3
  repeat' first
    | with_reducible intro _
    | with_reducible assumption
    | with_reducible apply key1
    | with_reducible apply command_fr
    | with_reducible apply authEff_fr
    | with_reducible apply frOut_next
    | with_reducible apply frOut_fault

theorem execAuthVendor_fr (q : Req) (s : State) (hs : Fr V M s0 s) (key0 : V (DBG.STATUS)) (key1 : ∀ u0, V (HDI.STATS u0)) :
    FrOut V M s0 (execAuthVendor q s) := by
  unfold execAuthVendor
  repeat' first
    | with_reducible intro _
    | with_reducible assumption
    | with_reducible apply key1
    | with_reducible apply command_fr
    | with_reducible apply authEff_fr
    | with_reducible apply frOut_next
    | with_reducible apply frOut_fault

theorem execAuthDrop_fr (q : Req) (s : State) (hs : Fr V M s0 s) (key0 : V (DBG.STATUS)) (key1 : ∀ u0, V (HDI.STATS u0)) :
    FrOut V M s0 (execAuthDrop q s) := by
  unfold execAuthDrop
  repeat' first
    | with_reducible intro _
    | with_reducible assumption
    | with_reducible apply key1
    | with_reducible apply command_fr
    | with_reducible apply authEff_fr
    | with_reducible apply frOut_next
    | with_reducible apply frOut_fault

theorem respGrants_fr (q : Req) (s : State) (hs : Fr V M s0 s) (key0 : V (DBG.EVFLAGS)) (key1 : V (DBG.STATUS)) :
    Fr V M s0 (respGrants q s) := by
  unfold respGrants
  repeat' first
    | with_reducible intro _
    | with_reducible assumption
    | with_reducible apply dbgFlag_fr
    | with_reducible apply grant_fr
    | with_reducible apply modDbg_fr
    | with_reducible apply setBit_fr
    | simp only [↓fr_mk_iff]
    | with_reducible apply fr_ite
    | (extract_lets x; first | (with_reducible refine fr_cut (s := x) ?_ ?_; (on_goal 2 => clear_value x); (on_goal 1 => unfold x)) | (subst x))
    | split

theorem respFails_fr (q : Req) (s : State) (hs : Fr V M s0 s) (key0 : V (DBG.AUTH_FAILS)) (key1 : V (DBG.EVFLAGS)) (key2 : V (DBG.STATUS)) :
    Fr V M s0 (respFails q s) := by
  unfold respFails
  repeat' first
    | with_reducible intro _
    | with_reducible assumption
    | with_reducible apply bump_fr
    | with_reducible apply modMaster_fr
    | with_reducible apply dbgFlag_fr
    | with_reducible apply modDbg_fr
    | with_reducible apply setBit_fr
    | simp only [↓fr_mk_iff]
    | with_reducible apply fr_ite
    | (extract_lets x; first | (with_reducible refine fr_cut (s := x) ?_ ?_; (on_goal 2 => clear_value x); (on_goal 1 => unfold x)) | (subst x))
    | split

theorem authResp_fr (q : Req) (len v : Nat) (s : State) (hs : Fr V M s0 s) (key0 : V (DBG.AUTH_FAILS)) (key1 : V (DBG.EVFLAGS)) (key2 : V (DBG.STATUS)) (key3 : ∀ u0, V (HDI.STATS u0)) :
    Fr V M s0 (authResp q len v s) := by
  unfold authResp
  repeat' first
    | with_reducible intro _
    | with_reducible assumption
    | with_reducible apply key0
    | with_reducible apply key1
    | with_reducible apply key2
    | with_reducible apply key3
    | with_reducible apply respFails_fr
    | with_reducible apply respGrants_fr
    | with_reducible apply writeTo_fr
    | simp only [↓fr_mk_iff]
    | with_reducible apply fr_ite
    | (extract_lets x; first | (with_reducible refine fr_cut (s := x) ?_ ?_; (on_goal 2 => clear_value x); (on_goal 1 => unfold x)) | (subst x))
    | split

theorem execAuthResp_fr (q : Req) (v : Nat) (s : State) (hs : Fr V M s0 s) (key0 : V (DBG.AUTH_FAILS)) (key1 : V (DBG.EVFLAGS)) (key2 : V (DBG.STATUS)) (key3 : ∀ u0, V (HDI.STATS u0)) :
    FrOut V M s0 (execAuthResp q v s) := by
  unfold execAuthResp
  repeat' first
    | with_reducible intro _
    | with_reducible assumption
    | with_reducible apply key0
    | with_reducible apply key1
    | with_reducible apply key2
    | with_reducible apply key3
    | with_reducible apply authResp_fr
    | simp only [↓fr_mk_iff]
    | with_reducible apply fr_ite
    | with_reducible apply frOut_next
    | with_reducible apply frOut_fault
    | with_reducible apply frOut_ite
    | with_reducible apply unitCmd_fr
    | (extract_lets x; first | (with_reducible refine fr_cut (s := x) ?_ ?_; (on_goal 2 => clear_value x); (on_goal 1 => unfold x)) | (subst x))
    | split

theorem fuseEff_fr (code : Nat) (s : State) (hs : Fr V M s0 s) (key0 : V (DBG.POLICY)) (key1 : V (DBG.STATUS)) :
    Fr V M s0 (fuseEff code s) := by
  unfold fuseEff
  repeat' first
    | with_reducible intro _
    | with_reducible assumption
    | with_reducible apply modDbg_fr
    | with_reducible apply setBit_fr
    | with_reducible apply wr_fr
    | simp only [↓fr_mk_iff]
    | (extract_lets x; first | (with_reducible refine fr_cut (s := x) ?_ ?_; (on_goal 2 => clear_value x); (on_goal 1 => unfold x)) | (subst x))
    | split

theorem execDbgFuseKey2_fr (q : Req) (s : State) (hs : Fr V M s0 s) (key0 : V (DBG.POLICY)) (key1 : V (DBG.STATUS)) (key2 : ∀ u0, V (HDI.STATS u0)) :
    FrOut V M s0 (execDbgFuseKey2 q s) := by
  unfold execDbgFuseKey2
  repeat' first
    | with_reducible intro _
    | with_reducible assumption
    | with_reducible apply key2
    | with_reducible apply command_fr
    | with_reducible apply fuseEff_fr
    | with_reducible apply frOut_next
    | with_reducible apply frOut_fault

theorem execDbgFuseKey3_fr (q : Req) (s : State) (hs : Fr V M s0 s) (key0 : V (DBG.POLICY)) (key1 : V (DBG.STATUS)) (key2 : ∀ u0, V (HDI.STATS u0)) :
    FrOut V M s0 (execDbgFuseKey3 q s) := by
  unfold execDbgFuseKey3
  repeat' first
    | with_reducible intro _
    | with_reducible assumption
    | with_reducible apply key2
    | with_reducible apply command_fr
    | with_reducible apply fuseEff_fr
    | with_reducible apply frOut_next
    | with_reducible apply frOut_fault

theorem execDbgFusePolicy_fr (q : Req) (s : State) (hs : Fr V M s0 s) (key0 : V (DBG.POLICY)) (key1 : V (DBG.STATUS)) (key2 : ∀ u0, V (HDI.STATS u0)) :
    FrOut V M s0 (execDbgFusePolicy q s) := by
  unfold execDbgFusePolicy
  repeat' first
    | with_reducible intro _
    | with_reducible assumption
    | with_reducible apply key2
    | with_reducible apply command_fr
    | with_reducible apply fuseEff_fr
    | with_reducible apply frOut_next
    | with_reducible apply frOut_fault

theorem brkAllocEff_fr (q : Req) (s : State) (hs : Fr V M s0 s) (key0 : ∀ u0, V (DBG.BRK_STATE u0)) :
    Fr V M s0 (brkAllocEff q s) := by
  unfold brkAllocEff
  repeat' first
    | with_reducible intro _
    | with_reducible assumption
    | with_reducible apply key0
    | with_reducible apply modBrk_fr
    | with_reducible apply wr_fr
    | with_reducible apply modMaster_fr
    | simp only [↓fr_mk_iff]
    | split

theorem execBrkAlloc_fr (q : Req) (s : State) (hs : Fr V M s0 s) (key0 : ∀ u0, V (DBG.BRK_STATE u0)) (key1 : ∀ u0, V (HDI.STATS u0)) :
    FrOut V M s0 (execBrkAlloc q s) := by
  unfold execBrkAlloc
  repeat' first
    | with_reducible intro _
    | with_reducible assumption
    | with_reducible apply key0
    | with_reducible apply key1
    | with_reducible apply command_fr
    | with_reducible apply brkAllocEff_fr
    | with_reducible apply frOut_next
    | with_reducible apply frOut_fault

theorem rearm_fr (u : Nat) (s : State) (hs : Fr V M s0 s) (key0 : V (DBG.BRK_STATE u)) :
    Fr V M s0 (rearm u s) := by
  unfold rearm
  repeat' first
    | with_reducible intro _
    | with_reducible assumption
    | with_reducible apply modBrk_fr
    | with_reducible apply wr_fr

theorem brkCfgEff_fr (u v : Nat) (s : State) (hs : Fr V M s0 s) (key0 : V (DBG.BRK_CFG u)) (key1 : V (DBG.BRK_STATE u)) :
    Fr V M s0 (brkCfgEff u v s) := by
  unfold brkCfgEff
  repeat' first
    | with_reducible intro _
    | with_reducible assumption
    | with_reducible apply rearm_fr
    | with_reducible apply wr_fr

theorem execBrkCfgWrite_fr (q : Req) (u v : Nat) (s : State) (hs : Fr V M s0 s) (key0 : V (DBG.BRK_CFG u)) (key1 : V (DBG.BRK_STATE u)) (key2 : ∀ u0, V (HDI.STATS u0)) :
    FrOut V M s0 (execBrkCfgWrite q u v s) := by
  unfold execBrkCfgWrite
  repeat' first
    | with_reducible intro _
    | with_reducible assumption
    | with_reducible apply key2
    | with_reducible apply unitCmd_fr
    | with_reducible apply writeTo_fr
    | with_reducible apply brkCfgEff_fr
    | with_reducible apply frOut_next
    | with_reducible apply frOut_fault

theorem brkFreeEff_fr (u : Nat) (s : State) (hs : Fr V M s0 s) (key0 : V (DBG.BRK_STATE u)) :
    Fr V M s0 (brkFreeEff u s) := by
  unfold brkFreeEff
  repeat' first
    | with_reducible intro _
    | with_reducible assumption
    | with_reducible apply modBrk_fr
    | with_reducible apply wr_fr

theorem execBrkRearm_fr (q : Req) (u : Nat) (s : State) (hs : Fr V M s0 s) (key0 : V (DBG.BRK_STATE u)) (key1 : ∀ u0, V (HDI.STATS u0)) :
    FrOut V M s0 (execBrkRearm q u s) := by
  unfold execBrkRearm
  repeat' first
    | with_reducible intro _
    | with_reducible assumption
    | with_reducible apply key1
    | with_reducible apply unitCmd_fr
    | with_reducible apply command_fr
    | with_reducible apply rearm_fr
    | with_reducible apply frOut_next
    | with_reducible apply frOut_fault

theorem execBrkFree_fr (q : Req) (u : Nat) (s : State) (hs : Fr V M s0 s) (key0 : V (DBG.BRK_STATE u)) (key1 : ∀ u0, V (HDI.STATS u0)) :
    FrOut V M s0 (execBrkFree q u s) := by
  unfold execBrkFree
  repeat' first
    | with_reducible intro _
    | with_reducible assumption
    | with_reducible apply key1
    | with_reducible apply unitCmd_fr
    | with_reducible apply command_fr
    | with_reducible apply brkFreeEff_fr
    | with_reducible apply frOut_next
    | with_reducible apply frOut_fault

theorem execGroupHaltLatch_fr (g : Nat) (s : State) (hs : Fr V M s0 s) :
    FrOut V M s0 (execGroupHaltLatch g s) := by
  unfold execGroupHaltLatch
  repeat' first
    | with_reducible intro _
    | with_reducible assumption
    | with_reducible apply unitCmd_fr
    | with_reducible apply upto_fr
    | with_reducible apply latchDebugHalt_fr
    | with_reducible apply frOut_next
    | with_reducible apply frOut_fault
    | with_reducible apply frOut_ite
    | simp only [↓fr_mk_iff]
    | with_reducible apply fr_ite
    | with_reducible apply fr_foldl
    | (extract_lets x; first | (with_reducible refine fr_cut (s := x) ?_ ?_; (on_goal 2 => clear_value x); (on_goal 1 => unfold x)) | (subst x))
    | split

theorem execDbgHalt_fr (q : Req) (t : Nat) (s : State) (hs : Fr V M s0 s) (key0 : ∀ u0, V (HDI.STATS u0)) :
    FrOut V M s0 (execDbgHalt q t s) := by
  unfold execDbgHalt
  repeat' first
    | with_reducible intro _
    | with_reducible assumption
    | with_reducible apply key0
    | with_reducible apply unitCmd_fr
    | with_reducible apply command_fr
    | with_reducible apply latchDebugHalt_fr
    | with_reducible apply frOut_next
    | with_reducible apply frOut_fault

theorem molxoIssue_fr (s : State) (hs : Fr V M s0 s) (key0 : ∀ u0, V (DBG.BRK_HITS u0)) (key1 : ∀ u0, V (DBG.BRK_STATE u0)) (key2 : V (DBG.EVFLAGS)) :
    Fr V M s0 (molxoIssue s) := by
  unfold molxoIssue
  repeat' first
    | with_reducible intro _
    | with_reducible assumption
    | with_reducible apply key0
    | with_reducible apply key1
    | with_reducible apply key2
    | with_reducible apply brkMatch_fr
    | with_reducible apply drawn_fr
    | simp only [↓fr_mk_iff]
    | with_reducible apply fr_ite
    | (extract_lets x; first | (with_reducible refine fr_cut (s := x) ?_ ?_; (on_goal 2 => clear_value x); (on_goal 1 => unfold x)) | (subst x))
    | split

theorem molxoGo_fr (s : State) (hs : Fr V M s0 s) (key0 : ∀ u0, V (DBG.BRK_HITS u0)) (key1 : ∀ u0, V (DBG.BRK_STATE u0)) (key2 : V (DBG.EVFLAGS)) :
    Fr V M s0 (molxoGo s) := by
  unfold molxoGo
  repeat' first
    | with_reducible intro _
    | with_reducible assumption
    | with_reducible apply key0
    | with_reducible apply key1
    | with_reducible apply key2
    | with_reducible apply molxoIssue_fr
    | with_reducible apply modSup_fr
    | with_reducible apply modCfg_fr
    | with_reducible apply modTgt_fr
    | simp only [↓fr_mk_iff]
    | with_reducible apply fr_ite
    | (extract_lets x; first | (with_reducible refine fr_cut (s := x) ?_ ?_; (on_goal 2 => clear_value x); (on_goal 1 => unfold x)) | (subst x))
    | split

theorem goOn_fr (t : Nat) (s : State) (hs : Fr V M s0 s) (key0 : ∀ u0, V (DSP.STATE u0)) (key1 : ∀ u0, V (DBG.BRK_HITS u0)) (key2 : ∀ u0, V (DBG.BRK_STATE u0)) (key3 : V (DBG.EVFLAGS)) :
    Fr V M s0 (goOn t s) := by
  unfold goOn
  repeat' first
    | with_reducible intro _
    | with_reducible assumption
    | with_reducible apply key0
    | with_reducible apply key1
    | with_reducible apply key2
    | with_reducible apply key3
    | with_reducible apply molxoGo_fr
    | with_reducible apply dspGoOn_fr
    | with_reducible apply veGoOn_fr
    | simp only [↓fr_mk_iff]
    | with_reducible apply fr_ite
    | (extract_lets x; first | (with_reducible refine fr_cut (s := x) ?_ ?_; (on_goal 2 => clear_value x); (on_goal 1 => unfold x)) | (subst x))
    | split

theorem resumeEff_fr (t : Nat) (s : State) (hs : Fr V M s0 s) (key0 : ∀ u0, V (DSP.STATE u0)) (key1 : ∀ u0, V (DBG.BRK_HITS u0)) (key2 : ∀ u0, V (DBG.BRK_STATE u0)) (key3 : V (DBG.EVFLAGS)) :
    Fr V M s0 (resumeEff t s) := by
  unfold resumeEff
  repeat' first
    | with_reducible intro _
    | with_reducible assumption
    | with_reducible apply key0
    | with_reducible apply key1
    | with_reducible apply key2
    | with_reducible apply key3
    | with_reducible apply goOn_fr
    | with_reducible apply modTgt_fr
    | simp only [↓fr_mk_iff]
    | with_reducible apply fr_ite
    | (extract_lets x; first | (with_reducible refine fr_cut (s := x) ?_ ?_; (on_goal 2 => clear_value x); (on_goal 1 => unfold x)) | (subst x))
    | split

theorem stepEff_fr (t : Nat) (s : State) (hs : Fr V M s0 s) (key0 : ∀ u0, V (DSP.STATE u0)) (key1 : ∀ u0, V (DBG.BRK_HITS u0)) (key2 : ∀ u0, V (DBG.BRK_STATE u0)) (key3 : V (DBG.EVFLAGS)) :
    Fr V M s0 (stepEff t s) := by
  unfold stepEff
  repeat' first
    | with_reducible intro _
    | with_reducible assumption
    | with_reducible apply key0
    | with_reducible apply key1
    | with_reducible apply key2
    | with_reducible apply key3
    | with_reducible apply goOn_fr
    | with_reducible apply modTgt_fr
    | simp only [↓fr_mk_iff]
    | with_reducible apply fr_ite
    | (extract_lets x; first | (with_reducible refine fr_cut (s := x) ?_ ?_; (on_goal 2 => clear_value x); (on_goal 1 => unfold x)) | (subst x))
    | split

theorem execDbgResume_fr (q : Req) (t : Nat) (s : State) (hs : Fr V M s0 s) (key0 : ∀ u0, V (HDI.STATS u0)) (key1 : ∀ u0, V (DSP.STATE u0)) (key2 : ∀ u0, V (DBG.BRK_HITS u0)) (key3 : ∀ u0, V (DBG.BRK_STATE u0)) (key4 : V (DBG.EVFLAGS)) :
    FrOut V M s0 (execDbgResume q t s) := by
  unfold execDbgResume
  repeat' first
    | with_reducible intro _
    | with_reducible assumption
    | with_reducible apply key0
    | with_reducible apply key1
    | with_reducible apply key2
    | with_reducible apply key3
    | with_reducible apply key4
    | with_reducible apply resumeEff_fr
    | with_reducible apply command_fr
    | simp only [↓fr_mk_iff]
    | with_reducible apply fr_ite
    | with_reducible apply frOut_next
    | with_reducible apply frOut_fault
    | with_reducible apply frOut_ite
    | with_reducible apply unitCmd_fr
    | (extract_lets x; first | (with_reducible refine fr_cut (s := x) ?_ ?_; (on_goal 2 => clear_value x); (on_goal 1 => unfold x)) | (subst x))
    | split

theorem execDbgStep_fr (q : Req) (t : Nat) (s : State) (hs : Fr V M s0 s) (key0 : ∀ u0, V (HDI.STATS u0)) (key1 : ∀ u0, V (DSP.STATE u0)) (key2 : ∀ u0, V (DBG.BRK_HITS u0)) (key3 : ∀ u0, V (DBG.BRK_STATE u0)) (key4 : V (DBG.EVFLAGS)) :
    FrOut V M s0 (execDbgStep q t s) := by
  unfold execDbgStep
  repeat' first
    | with_reducible intro _
    | with_reducible assumption
    | with_reducible apply key0
    | with_reducible apply key1
    | with_reducible apply key2
    | with_reducible apply key3
    | with_reducible apply key4
    | with_reducible apply stepEff_fr
    | with_reducible apply command_fr
    | simp only [↓fr_mk_iff]
    | with_reducible apply fr_ite
    | with_reducible apply frOut_next
    | with_reducible apply frOut_fault
    | with_reducible apply frOut_ite
    | with_reducible apply unitCmd_fr
    | (extract_lets x; first | (with_reducible refine fr_cut (s := x) ?_ ?_; (on_goal 2 => clear_value x); (on_goal 1 => unfold x)) | (subst x))
    | split

theorem molxoHold_fr (s : State) (hs : Fr V M s0 s) (key0 : V (DBG.EVFLAGS)) :
    Fr V M s0 (molxoHold s) := by
  unfold molxoHold
  repeat' first
    | with_reducible intro _
    | with_reducible assumption
    | with_reducible apply key0
    | with_reducible apply dbgFlag_fr
    | with_reducible apply modSup_fr
    | with_reducible apply modTgt_fr
    | simp only [↓fr_mk_iff]
    | with_reducible apply fr_ite
    | (extract_lets x; first | (with_reducible refine fr_cut (s := x) ?_ ?_; (on_goal 2 => clear_value x); (on_goal 1 => unfold x)) | (subst x))
    | split

theorem execMolxoHaltLands_fr (s : State) (hs : Fr V M s0 s) (key0 : V (DBG.EVFLAGS)) (key1 : ∀ u0, V (DBG.BRK_HITS u0)) (key2 : ∀ u0, V (DBG.BRK_STATE u0)) :
    FrOut V M s0 (execMolxoHaltLands s) := by
  unfold execMolxoHaltLands
  repeat' first
    | with_reducible intro _
    | with_reducible assumption
    | with_reducible apply key0
    | with_reducible apply key1
    | with_reducible apply key2
    | with_reducible apply molxoHold_fr
    | with_reducible apply molxoIssue_fr
    | with_reducible apply modTgt_fr
    | simp only [↓fr_mk_iff]
    | with_reducible apply fr_ite
    | with_reducible apply frOut_next
    | with_reducible apply frOut_fault
    | with_reducible apply frOut_ite
    | with_reducible apply unitCmd_fr
    | (extract_lets x; first | (with_reducible refine fr_cut (s := x) ?_ ?_; (on_goal 2 => clear_value x); (on_goal 1 => unfold x)) | (subst x))
    | split

theorem regWrite_fr (t sel v : Nat) (s : State) (hs : Fr V M s0 s) (key0 : ∀ u0, V (DSP.BEXP u0)) (key1 : ∀ u0, V (DSP.EXPACC u0)) (key2 : ∀ u0, V (VEN.CTR u0 sel)) :
    Fr V M s0 (regWrite t sel v s) := by
  unfold regWrite
  repeat' first
    | with_reducible intro _
    | with_reducible assumption
    | with_reducible apply key0
    | with_reducible apply key1
    | with_reducible apply key2
    | with_reducible apply wr_fr
    | with_reducible apply modVe_fr
    | with_reducible apply modDsp_fr
    | simp only [↓fr_mk_iff]
    | with_reducible apply fr_ite
    | (extract_lets x; first | (with_reducible refine fr_cut (s := x) ?_ ?_; (on_goal 2 => clear_value x); (on_goal 1 => unfold x)) | (subst x))
    | split

theorem regWriteEff_fr (t v : Nat) (s : State) (hs : Fr V M s0 s) (key0 : ∀ u0, V (DSP.BEXP u0)) (key1 : ∀ u0, V (DSP.EXPACC u0)) (key2 : ∀ u0 u1, V (VEN.CTR u0 u1)) :
    Fr V M s0 (regWriteEff t v s) := by
  unfold regWriteEff
  repeat' first
    | with_reducible intro _
    | with_reducible assumption
    | with_reducible apply key0
    | with_reducible apply key1
    | with_reducible apply key2
    | with_reducible apply regWrite_fr

theorem execDbgRegAccess_fr (q : Req) (t : Nat) (wr : Bool) (v : Nat) (s : State) (hs : Fr V M s0 s) (key0 : ∀ u0, V (DSP.BEXP u0)) (key1 : ∀ u0, V (DSP.EXPACC u0)) (key2 : ∀ u0, V (HDI.STATS u0)) (key3 : ∀ u0 u1, V (VEN.CTR u0 u1)) :
    FrOut V M s0 (execDbgRegAccess q t wr v s) := by
  unfold execDbgRegAccess
  repeat' first
    | with_reducible intro _
    | with_reducible assumption
    | with_reducible apply key0
    | with_reducible apply key1
    | with_reducible apply key2
    | with_reducible apply key3
    | with_reducible apply unitCmd_fr
    | with_reducible apply wr_fr
    | with_reducible apply writeTo_fr
    | with_reducible apply regWriteEff_fr
    | with_reducible apply readFrom_fr
    | with_reducible apply drawn_fr
    | with_reducible apply frOut_next
    | with_reducible apply frOut_fault
    | with_reducible apply frOut_ite
    | with_reducible apply fr_ite
    | split

theorem tdtxEff_fr (t v : Nat) (s : State) (hs : Fr V M s0 s) (key0 : V (DBG.EVFLAGS)) :
    Fr V M s0 (tdtxEff t v s) := by
  unfold tdtxEff
  repeat' first
    | with_reducible intro _
    | with_reducible assumption
    | with_reducible apply dbgFlag_fr
    | with_reducible apply modTgt_fr
    | simp only [↓fr_mk_iff]

theorem execTDtxWrite_fr (q : Req) (t v : Nat) (s : State) (hs : Fr V M s0 s) (key0 : V (DBG.EVFLAGS)) (key1 : ∀ u0, V (HDI.STATS u0)) :
    FrOut V M s0 (execTDtxWrite q t v s) := by
  unfold execTDtxWrite
  repeat' first
    | with_reducible intro _
    | with_reducible assumption
    | with_reducible apply key1
    | with_reducible apply unitCmd_fr
    | with_reducible apply writeTo_fr
    | with_reducible apply tdtxEff_fr
    | with_reducible apply frOut_next
    | with_reducible apply frOut_fault

theorem dtxEff_fr (t : Nat) (s : State) (hs : Fr V M s0 s) :
    Fr V M s0 (dtxEff t s) := by
  unfold dtxEff
  repeat' first
    | with_reducible intro _
    | with_reducible assumption
    | with_reducible apply modTgt_fr
    | simp only [↓fr_mk_iff]

theorem execDtxRead_fr (q : Req) (t : Nat) (s : State) (hs : Fr V M s0 s) (key0 : ∀ u0, V (HDI.STATS u0)) :
    FrOut V M s0 (execDtxRead q t s) := by
  unfold execDtxRead
  repeat' first
    | with_reducible intro _
    | with_reducible assumption
    | with_reducible apply key0
    | with_reducible apply unitCmd_fr
    | with_reducible apply readFrom_fr
    | with_reducible apply dtxEff_fr
    | with_reducible apply frOut_next
    | with_reducible apply frOut_fault

theorem drxEff_fr (t v : Nat) (s : State) (hs : Fr V M s0 s) :
    Fr V M s0 (drxEff t v s) := by
  unfold drxEff
  repeat' first
    | with_reducible intro _
    | with_reducible assumption
    | with_reducible apply modTgt_fr
    | simp only [↓fr_mk_iff]

theorem execDrxWrite_fr (q : Req) (t v : Nat) (s : State) (hs : Fr V M s0 s) (key0 : ∀ u0, V (HDI.STATS u0)) :
    FrOut V M s0 (execDrxWrite q t v s) := by
  unfold execDrxWrite
  repeat' first
    | with_reducible intro _
    | with_reducible assumption
    | with_reducible apply key0
    | with_reducible apply unitCmd_fr
    | with_reducible apply writeTo_fr
    | with_reducible apply drxEff_fr
    | with_reducible apply frOut_next
    | with_reducible apply frOut_fault

theorem tdrxEff_fr (t : Nat) (s : State) (hs : Fr V M s0 s) (key0 : V (DBG.EVFLAGS) := by first | assumption | simp only [*]) :
    Fr V M s0 (tdrxEff t s) := by
  unfold tdrxEff
  repeat' first
    | with_reducible intro _
    | with_reducible assumption
    | with_reducible apply dbgFlag_fr
    | with_reducible apply modTgt_fr
    | simp only [↓fr_mk_iff]

set_option Elab.async false in
theorem execTDrxRead_fr (q : Req) (t : Nat) (s : State) (hs : Fr V M s0 s) (key0 : V (DBG.EVFLAGS)) (key1 : ∀ u0, V (HDI.STATS u0)) :
    FrOut V M s0 (execTDrxRead q t s) := by
  unfold execTDrxRead
  repeat' first
    | with_reducible intro _
    | with_reducible assumption
    | with_reducible apply key1
    | with_reducible apply unitCmd_fr
    | with_reducible apply readFrom_fr
    | with_reducible apply tdrxEff_fr
    | with_reducible apply frOut_next
    | with_reducible apply frOut_fault

end Sys2Proof.Laws
end

