-- ==== Sys2Proof/Laws/FrameFcp.lean ====
section
/-! SUPPORT. Which members every operation of Machine/Fcp.lean can change, and whether it can change the memory. -/
namespace Sys2Proof.Laws
open Sys2Proof Sys2Proof.Machine
set_option linter.unusedVariables false
set_option linter.unusedTactic false
set_option linter.unreachableTactic false

variable {V : Nat → Prop} {M : Prop} {s0 : State}

theorem recordCycle_fr (n th : Nat) (c : CycRec) (s : State) (hs : Fr V M s0 s) (key0 : ∀ u0, V (FCP.Q_EVFLAGS u0)) (key1 : V (FCP.REC_CAPPED n)) (key2 : V (FCP.REC_DROP_CAP n)) (key3 : V (FCP.REC_DROP_RING n)) (key4 : V (FCP.REC_FORMED n)) (key5 : ∀ u0, V (FCP.STOPPED_BY u0)) :
    Fr V M s0 (recordCycle n th c s) := by
  unfold recordCycle
  repeat' first
    | with_reducible intro _
    | with_reducible assumption
    | with_reducible apply key0
    | with_reducible apply key5
    | with_reducible apply modFcp_fr
    | with_reducible apply closeRecord_fr
    | simp only [↓fr_mk_iff]
    | with_reducible apply fr_ite
    | (extract_lets x; first | (with_reducible refine fr_cut (s := x) ?_ ?_; (on_goal 2 => clear_value x); (on_goal 1 => unfold x)) | (subst x))
    | split

theorem countCycle_fr (n : Nat) (c : CycRec) (s : State) (hs : Fr V M s0 s) (key0 : V (FCP.CNT_SAT n)) (key1 : ∀ u0, V (FCP.FCOUNT u0)) :
    Fr V M s0 (countCycle n c s) := by
  unfold countCycle
  repeat' first
    | with_reducible intro _
    | with_reducible assumption
    | with_reducible apply key1
    | with_reducible apply bump_fr
    | with_reducible apply fr_ite
    | with_reducible apply fr_foldl
    | split

theorem bitmapCycle_fr (n th : Nat) (c : CycRec) (s : State) (hs : Fr V M s0 s) (key0 : V (FCP.BM_DROP n)) (key1 : V (FCP.BM_FORMED n)) (key2 : V (FCP.BM_MERGED n)) (key3 : ∀ u0, V (FCP.Q_EVFLAGS u0)) (key4 : ∀ u0, V (FCP.STOPPED_BY u0)) :
    Fr V M s0 (bitmapCycle n th c s) := by
  unfold bitmapCycle
  repeat' first
    | with_reducible intro _
    | with_reducible assumption
    | with_reducible apply key3
    | with_reducible apply key4
    | with_reducible apply modFcp_fr
    | with_reducible apply bump_fr
    | with_reducible apply closeBitmap_fr
    | with_reducible apply formBitmap_fr
    | simp only [↓fr_mk_iff]
    | with_reducible apply fr_ite
    | split

theorem stopOnN_fr (n th : Nat) (c : CycRec) (s : State) (hs : Fr V M s0 s) (key0 : ∀ u0, V (FCP.Q_EVFLAGS u0)) (key1 : V (FCP.REC_CAPPED n)) (key2 : V (FCP.REC_DROP_CAP n)) (key3 : V (FCP.REC_DROP_RING n)) (key4 : V (FCP.REC_FORMED n)) (key5 : ∀ u0, V (FCP.STOPPED_BY u0)) :
    Fr V M s0 (stopOnN n th c s) := by
  unfold stopOnN
  repeat' first
    | with_reducible intro _
    | with_reducible assumption
    | with_reducible apply key0
    | with_reducible apply key5
    | with_reducible apply closeRecord_fr
    | with_reducible apply fcpStop_fr
    | with_reducible apply modFcp_fr
    | simp only [↓fr_mk_iff]
    | with_reducible apply fr_ite
    | (extract_lets x; first | (with_reducible refine fr_cut (s := x) ?_ ?_; (on_goal 2 => clear_value x); (on_goal 1 => unfold x)) | (subst x))
    | split

theorem mergeExpire_fr (n t : Nat) (s : State) (hs : Fr V M s0 s) (key0 : V (FCP.BM_DROP n)) (key1 : V (FCP.BM_FORMED n)) (key2 : ∀ u0, V (FCP.Q_EVFLAGS u0)) (key3 : ∀ u0, V (FCP.STOPPED_BY u0)) :
    Fr V M s0 (mergeExpire n t s) := by
  unfold mergeExpire
  repeat' first
    | with_reducible intro _
    | with_reducible assumption
    | with_reducible apply key2
    | with_reducible apply key3
    | with_reducible apply closeBitmap_fr
    | with_reducible apply fr_ite
    | split

theorem processCycle_fr (n th : Nat) (c : CycRec) (s : State) (hs : Fr V M s0 s) (key0 : ∀ u0, V (DBG.BRK_HITS u0)) (key1 : ∀ u0, V (DBG.BRK_STATE u0)) (key2 : V (DBG.EVFLAGS)) (key3 : V (FCP.BM_DROP n)) (key4 : V (FCP.BM_FORMED n)) (key5 : V (FCP.BM_MERGED n)) (key6 : V (FCP.CNT_SAT n)) (key7 : V (FCP.FAILCYC n)) (key8 : ∀ u0, V (FCP.FCOUNT u0)) (key9 : ∀ u0, V (FCP.Q_EVFLAGS u0)) (key10 : V (FCP.REC_CAPPED n)) (key11 : V (FCP.REC_DROP_CAP n)) (key12 : V (FCP.REC_DROP_RING n)) (key13 : V (FCP.REC_FORMED n)) (key14 : V (FCP.RUN_FAILS n)) (key15 : ∀ u0, V (FCP.STOPPED_BY u0)) :
    Fr V M s0 (processCycle n th c s) := by
  unfold processCycle
  repeat' first
    | with_reducible intro _
    | with_reducible assumption
    | with_reducible apply key0
    | with_reducible apply key1
    | with_reducible apply key2
    | with_reducible apply key3
    | with_reducible apply key4
    | with_reducible apply key5
    | with_reducible apply key6
    | with_reducible apply key7
    | with_reducible apply key8
    | with_reducible apply key9
    | with_reducible apply key10
    | with_reducible apply key11
    | with_reducible apply key12
    | with_reducible apply key13
    | with_reducible apply key14
    | with_reducible apply key15
    | with_reducible apply mergeExpire_fr
    | with_reducible apply stopOnN_fr
    | with_reducible apply bitmapCycle_fr
    | with_reducible apply countCycle_fr
    | with_reducible apply recordCycle_fr
    | with_reducible apply closeBitmap_fr
    | with_reducible apply closeRecord_fr
    | with_reducible apply brkMatch_fr
    | with_reducible apply modFcp_fr
    | with_reducible apply bump_fr
    | simp only [↓fr_mk_iff]
    | with_reducible apply fr_ite
    | (extract_lets x; first | (with_reducible refine fr_cut (s := x) ?_ ?_; (on_goal 2 => clear_value x); (on_goal 1 => unfold x)) | (subst x))
    | split

theorem execFailCycle_fr (n : Nat) (s : State) (hs : Fr V M s0 s) (key0 : ∀ u0, V (DBG.BRK_HITS u0)) (key1 : ∀ u0, V (DBG.BRK_STATE u0)) (key2 : V (DBG.EVFLAGS)) (key3 : V (FCP.BM_DROP n)) (key4 : V (FCP.BM_FORMED n)) (key5 : V (FCP.BM_MERGED n)) (key6 : V (FCP.CNT_SAT n)) (key7 : V (FCP.FAILCYC n)) (key8 : ∀ u0, V (FCP.FCOUNT u0)) (key9 : ∀ u0, V (FCP.Q_EVFLAGS u0)) (key10 : V (FCP.REC_CAPPED n)) (key11 : V (FCP.REC_DROP_CAP n)) (key12 : V (FCP.REC_DROP_RING n)) (key13 : V (FCP.REC_FORMED n)) (key14 : V (FCP.RUN_FAILS n)) (key15 : ∀ u0, V (FCP.STOPPED_BY u0)) :
    FrOut V M s0 (execFailCycle n s) := by
  unfold execFailCycle
  repeat' first
    | with_reducible intro _
    | with_reducible assumption
    | with_reducible apply key0
    | with_reducible apply key1
    | with_reducible apply key8
    | with_reducible apply key9
    | with_reducible apply key15
    | with_reducible apply unitCmd_fr
    | with_reducible apply processCycle_fr
    | with_reducible apply upto_fr
    | with_reducible apply frOut_next
    | with_reducible apply frOut_fault
    | (extract_lets x; first | (with_reducible refine fr_cut (s := x) ?_ ?_; (on_goal 2 => clear_value x); (on_goal 1 => unfold x)) | (subst x))
    | split

theorem execMergeTimeout_fr (n : Nat) (s : State) (hs : Fr V M s0 s) (key0 : V (FCP.BM_DROP n)) (key1 : V (FCP.BM_FORMED n)) (key2 : ∀ u0, V (FCP.Q_EVFLAGS u0)) (key3 : ∀ u0, V (FCP.STOPPED_BY u0)) :
    FrOut V M s0 (execMergeTimeout n s) := by
  unfold execMergeTimeout
  repeat' first
    | with_reducible intro _
    | with_reducible assumption
    | with_reducible apply key2
    | with_reducible apply key3
    | with_reducible apply unitCmd_fr
    | with_reducible apply closeBitmap_fr
    | with_reducible apply upto_fr
    | with_reducible apply frOut_next
    | with_reducible apply frOut_fault
    | split

theorem bitmapDone_fr (n : Nat) (x : MeshResp) (s : State) (hs : Fr V M s0 s) (key0 : V (FCP.BM_DONE n)) (key1 : V (FCP.BM_ERR n)) (key2 : V (FCP.BM_INFLIGHT n)) (key3 : V (FCP.Q_EVFLAGS n)) :
    Fr V M s0 (bitmapDone n x s) := by
  unfold bitmapDone
  repeat' first
    | with_reducible intro _
    | with_reducible assumption
    | with_reducible apply key0
    | with_reducible apply key1
    | with_reducible apply key2
    | with_reducible apply key3
    | with_reducible apply qFlag_fr
    | with_reducible apply respTaken_fr
    | with_reducible apply bump_fr
    | with_reducible apply wr_fr
    | simp only [↓fr_mk_iff]
    | with_reducible apply fr_ite
    | (extract_lets x; first | (with_reducible refine fr_cut (s := x) ?_ ?_; (on_goal 2 => clear_value x); (on_goal 1 => unfold x)) | (subst x))
    | split

theorem setPkts_fr (q v : Nat) (s : State) (hs : Fr V M s0 s) (key0 : V (FCP.Q_EVFLAGS q)) (key1 : V (FCP.Q_PKTS q)) :
    Fr V M s0 (setPkts q v s) := by
  unfold setPkts
  repeat' first
    | with_reducible intro _
    | with_reducible assumption
    | with_reducible apply key0
    | with_reducible apply key1
    | with_reducible apply qFlag_fr
    | with_reducible apply drawn_fr
    | with_reducible apply wr_fr
    | simp only [↓fr_mk_iff]
    | with_reducible apply fr_ite
    | (extract_lets x; first | (with_reducible refine fr_cut (s := x) ?_ ?_; (on_goal 2 => clear_value x); (on_goal 1 => unfold x)) | (subst x))
    | split

theorem enterTail_fr (q : Nat) (ws : List (Nat × Bool)) (s : State) (hs : Fr V M s0 s) (key0 : V (FCP.Q_EVFLAGS q)) (key1 : V (FCP.Q_IN q)) (key2 : V (FCP.Q_PKTS q)) :
    Fr V M s0 (enterTail q ws s) := by
  unfold enterTail
  repeat' first
    | with_reducible intro _
    | with_reducible assumption
    | with_reducible apply modSq_fr
    | with_reducible apply addTo_fr
    | with_reducible apply setPkts_fr
    | simp only [↓fr_mk_iff]
    | with_reducible apply fr_ite
    | (extract_lets x; first | (with_reducible refine fr_cut (s := x) ?_ ?_; (on_goal 2 => clear_value x); (on_goal 1 => unfold x)) | (subst x))
    | split

theorem leaveHead_fr (q k : Nat) (s : State) (hs : Fr V M s0 s) (key0 : V (FCP.Q_EVFLAGS q)) (key1 : V (FCP.Q_OUT q)) (key2 : V (FCP.Q_PKTS q)) :
    Fr V M s0 (leaveHead q k s) := by
  unfold leaveHead
  repeat' first
    | with_reducible intro _
    | with_reducible assumption
    | with_reducible apply modSq_fr
    | with_reducible apply addTo_fr
    | with_reducible apply setPkts_fr
    | simp only [↓fr_mk_iff]
    | with_reducible apply fr_ite
    | (extract_lets x; first | (with_reducible refine fr_cut (s := x) ?_ ?_; (on_goal 2 => clear_value x); (on_goal 1 => unfold x)) | (subst x))
    | split

theorem execRecordToTail_fr (n : Nat) (s : State) (hs : Fr V M s0 s) (key0 : V (FCP.Q_EVFLAGS n)) (key1 : V (FCP.Q_IN n)) (key2 : V (FCP.Q_PKTS n)) (key3 : V (FCP.REC_QUEUED n)) :
    FrOut V M s0 (execRecordToTail n s) := by
  unfold execRecordToTail
  repeat' first
    | with_reducible intro _
    | with_reducible assumption
    | with_reducible apply unitCmd_fr
    | with_reducible apply upto_fr
    | with_reducible apply modFcp_fr
    | with_reducible apply enterTail_fr
    | with_reducible apply bump_fr
    | with_reducible apply frOut_next
    | with_reducible apply frOut_fault
    | with_reducible apply frOut_ite
    | simp only [↓fr_mk_iff]
    | with_reducible apply fr_ite
    | (extract_lets x; first | (with_reducible refine fr_cut (s := x) ?_ ?_; (on_goal 2 => clear_value x); (on_goal 1 => unfold x)) | (subst x))
    | split

theorem execTailToHeadMove_fr (q : Nat) (s : State) (hs : Fr V M s0 s) :
    FrOut V M s0 (execTailToHeadMove q s) := by
  unfold execTailToHeadMove
  repeat' first
    | with_reducible intro _
    | with_reducible assumption
    | with_reducible apply modSq_fr
    | with_reducible apply upto_fr
    | simp only [↓fr_mk_iff]
    | with_reducible apply fr_ite
    | with_reducible apply frOut_next
    | with_reducible apply frOut_fault
    | with_reducible apply frOut_ite
    | with_reducible apply unitCmd_fr
    | (extract_lets x; first | (with_reducible refine fr_cut (s := x) ?_ ?_; (on_goal 2 => clear_value x); (on_goal 1 => unfold x)) | (subst x))
    | split

theorem execRingWriteIssue_fr (q : Nat) (s : State) (hs : Fr V M s0 s) (key0 : V (FCP.Q_HWM q)) :
    FrOut V M s0 (execRingWriteIssue q s) := by
  unfold execRingWriteIssue
  repeat' first
    | with_reducible intro _
    | with_reducible assumption
    | with_reducible apply key0
    | with_reducible apply meshSend_fr
    | with_reducible apply modSq_fr
    | with_reducible apply upto_fr
    | with_reducible apply wr_fr
    | simp only [↓fr_mk_iff]
    | with_reducible apply fr_ite
    | with_reducible apply frOut_next
    | with_reducible apply frOut_fault
    | with_reducible apply frOut_ite
    | with_reducible apply unitCmd_fr
    | (extract_lets x; first | (with_reducible refine fr_cut (s := x) ?_ ?_; (on_goal 2 => clear_value x); (on_goal 1 => unfold x)) | (subst x))
    | split

theorem execRingReadIssue_fr (q : Nat) (s : State) (hs : Fr V M s0 s) :
    FrOut V M s0 (execRingReadIssue q s) := by
  unfold execRingReadIssue
  repeat' first
    | with_reducible intro _
    | with_reducible assumption
    | with_reducible apply meshSend_fr
    | with_reducible apply modSq_fr
    | with_reducible apply upto_fr
    | simp only [↓fr_mk_iff]
    | with_reducible apply fr_ite
    | with_reducible apply frOut_next
    | with_reducible apply frOut_fault
    | with_reducible apply frOut_ite
    | with_reducible apply unitCmd_fr
    | (extract_lets x; first | (with_reducible refine fr_cut (s := x) ?_ ?_; (on_goal 2 => clear_value x); (on_goal 1 => unfold x)) | (subst x))
    | split

theorem dropLine_fr (q l : Nat) (s : State) (hs : Fr V M s0 s) :
    Fr V M s0 (dropLine q l s) := by
  unfold dropLine
  repeat' first
    | with_reducible intro _
    | with_reducible assumption
    | with_reducible apply modSq_fr
    | simp only [↓fr_mk_iff]

theorem damage_fr (q : Nat) (s : State) (hs : Fr V M s0 s) (key0 : V (FCP.Q_ERR_WORDS q)) (key1 : V (FCP.Q_EVFLAGS q)) (key2 : V (FCP.Q_STATE q)) (key3 : V (FCP.Q_PKTS q)) :
    Fr V M s0 (damage q s) := by
  unfold damage
  repeat' first
    | with_reducible intro _
    | with_reducible assumption
    | with_reducible apply key0
    | with_reducible apply key1
    | with_reducible apply key2
    | with_reducible apply key3
    | with_reducible apply setPkts_fr
    | with_reducible apply qFlag_fr
    | with_reducible apply addTo_fr
    | with_reducible apply wr_fr
    | simp only [↓fr_mk_iff]
    | with_reducible apply fr_ite
    | (extract_lets x; first | (with_reducible refine fr_cut (s := x) ?_ ?_; (on_goal 2 => clear_value x); (on_goal 1 => unfold x)) | (subst x))
    | split

theorem flushedLine_fr (q l : Nat) (s : State) (hs : Fr V M s0 s) (key0 : V (FCP.Q_EVFLAGS q)) (key1 : V (FCP.Q_FLUSHED q)) :
    Fr V M s0 (flushedLine q l s) := by
  unfold flushedLine
  repeat' first
    | with_reducible intro _
    | with_reducible assumption
    | with_reducible apply key0
    | with_reducible apply key1
    | with_reducible apply dropLine_fr
    | with_reducible apply qFlag_fr
    | with_reducible apply addTo_fr
    | simp only [↓fr_mk_iff]
    | with_reducible apply fr_ite
    | (extract_lets x; first | (with_reducible refine fr_cut (s := x) ?_ ?_; (on_goal 2 => clear_value x); (on_goal 1 => unfold x)) | (subst x))
    | split

theorem intoHead_fr (q : Nat) (ws : List (Nat × Bool)) (s : State) (hs : Fr V M s0 s) :
    Fr V M s0 (intoHead q ws s) := by
  unfold intoHead
  repeat' first
    | with_reducible intro _
    | with_reducible assumption
    | with_reducible apply modSq_fr
    | simp only [↓fr_mk_iff]
    | with_reducible apply fr_ite
    | (extract_lets x; first | (with_reducible refine fr_cut (s := x) ?_ ?_; (on_goal 2 => clear_value x); (on_goal 1 => unfold x)) | (subst x))
    | split

theorem readWords_fr (q : Nat) (older : Bool) (ws : List (Nat × Bool)) (s : State) (hs : Fr V M s0 s) :
    Fr V M s0 (readWords q older ws s) := by
  unfold readWords
  repeat' first
    | with_reducible intro _
    | with_reducible assumption
    | with_reducible apply intoHead_fr
    | with_reducible apply modSq_fr
    | simp only [↓fr_mk_iff]
    | with_reducible apply fr_ite
    | (extract_lets x; first | (with_reducible refine fr_cut (s := x) ?_ ?_; (on_goal 2 => clear_value x); (on_goal 1 => unfold x)) | (subst x))
    | split

theorem ringWriteDone_fr (q line : Nat) (x : MeshResp) (s : State) (hs : Fr V M s0 s) (key0 : V (FCP.Q_ERR_WORDS q)) (key1 : V (FCP.Q_EVFLAGS q)) (key2 : V (FCP.Q_FLUSHED q)) (key3 : V (FCP.Q_STATE q)) (key4 : V (FCP.Q_PKTS q)) :
    Fr V M s0 (ringWriteDone q line x s) := by
  unfold ringWriteDone
  repeat' first
    | with_reducible intro _
    | with_reducible assumption
    | with_reducible apply key0
    | with_reducible apply key1
    | with_reducible apply key2
    | with_reducible apply key3
    | with_reducible apply key4
    | with_reducible apply flushedLine_fr
    | with_reducible apply damage_fr
    | with_reducible apply dropLine_fr
    | with_reducible apply respTaken_fr
    | with_reducible apply modSq_fr
    | simp only [↓fr_mk_iff]
    | with_reducible apply fr_ite
    | (extract_lets x; first | (with_reducible refine fr_cut (s := x) ?_ ?_; (on_goal 2 => clear_value x); (on_goal 1 => unfold x)) | (subst x))
    | split

theorem ringReadDone_fr (q l : Nat) (x : MeshResp) (s : State) (hs : Fr V M s0 s) (key0 : V (FCP.Q_ERR_WORDS q)) (key1 : V (FCP.Q_EVFLAGS q)) (key2 : V (FCP.Q_FLUSHED q)) (key3 : V (FCP.Q_STATE q)) (key4 : V (FCP.Q_PKTS q)) :
    Fr V M s0 (ringReadDone q l x s) := by
  unfold ringReadDone
  repeat' first
    | with_reducible intro _
    | with_reducible assumption
    | with_reducible apply key0
    | with_reducible apply key1
    | with_reducible apply key2
    | with_reducible apply key3
    | with_reducible apply key4
    | with_reducible apply readWords_fr
    | with_reducible apply flushedLine_fr
    | with_reducible apply damage_fr
    | with_reducible apply dropLine_fr
    | with_reducible apply respTaken_fr
    | simp only [↓fr_mk_iff]
    | with_reducible apply fr_ite
    | (extract_lets x; first | (with_reducible refine fr_cut (s := x) ?_ ?_; (on_goal 2 => clear_value x); (on_goal 1 => unfold x)) | (subst x))
    | split

theorem popEff_fr (q : Nat) (s : State) (hs : Fr V M s0 s) (key0 : V (FCP.POP_MARK q) := by first | assumption | simp only [*]) (key1 : V (FCP.Q_EVFLAGS q) := by first | assumption | simp only [*]) (key2 : V (FCP.Q_OUT q) := by first | assumption | simp only [*]) (key3 : V (FCP.Q_PKTS q) := by first | assumption | simp only [*]) :
    Fr V M s0 (popEff q s) := by
  unfold popEff
  repeat' first
    | with_reducible intro _
    | with_reducible assumption
    | with_reducible apply leaveHead_fr
    | with_reducible apply wr_fr
    | with_reducible apply fr_ite
    | split

theorem execPop_fr (r : Req) (q : Nat) (s : State) (hs : Fr V M s0 s) (key0 : V (FCP.POP_MARK q)) (key1 : V (FCP.Q_EVFLAGS q)) (key2 : V (FCP.Q_OUT q)) (key3 : V (FCP.Q_PKTS q)) (key4 : ∀ u0, V (HDI.STATS u0)) :
    FrOut V M s0 (execPop r q s) := by
  unfold execPop
  repeat' first
    | with_reducible intro _
    | with_reducible assumption
    | with_reducible apply key4
    | with_reducible apply unitCmd_fr
    | with_reducible apply readFrom_fr
    | with_reducible apply popEff_fr
    | with_reducible apply frOut_next
    | with_reducible apply frOut_fault

theorem poprecEff_fr (q k : Nat) (s : State) (hs : Fr V M s0 s) (key0 : V (FCP.POP_MARK q) := by first | assumption | simp only [*]) (key1 : V (FCP.Q_EVFLAGS q) := by first | assumption | simp only [*]) (key2 : V (FCP.Q_OUT q) := by first | assumption | simp only [*]) (key3 : V (FCP.Q_PKTS q) := by first | assumption | simp only [*]) :
    Fr V M s0 (poprecEff q k s) := by
  unfold poprecEff
  repeat' first
    | with_reducible intro _
    | with_reducible assumption
    | with_reducible apply leaveHead_fr
    | with_reducible apply wr_fr

theorem execPoprec_fr (r : Req) (q : Nat) (s : State) (hs : Fr V M s0 s) (key0 : V (FCP.POP_MARK q)) (key1 : V (FCP.Q_EVFLAGS q)) (key2 : V (FCP.Q_OUT q)) (key3 : V (FCP.Q_PKTS q)) (key4 : ∀ u0, V (HDI.STATS u0)) :
    FrOut V M s0 (execPoprec r q s) := by
  unfold execPoprec
  repeat' first
    | with_reducible intro _
    | with_reducible assumption
    | with_reducible apply key4
    | with_reducible apply unitCmd_fr
    | with_reducible apply readFrom_fr
    | with_reducible apply poprecEff_fr
    | with_reducible apply frOut_next
    | with_reducible apply frOut_fault
    | (extract_lets x; first | (with_reducible refine fr_cut (s := x) ?_ ?_; (on_goal 2 => clear_value x); (on_goal 1 => unfold x)) | (subst x))

theorem queueChanged_fr (q : Nat) (s : State) (hs : Fr V M s0 s) (key0 : V (HDI.APPLY_OUTCOME)) (key1 : V (HDI.MIRROR_STATE)) (key2 : ∀ u0, V (VEN.STATE u0)) :
    Fr V M s0 (queueChanged q s) := by
  unfold queueChanged
  repeat' first
    | with_reducible intro _
    | with_reducible assumption
    | with_reducible apply key2
    | with_reducible apply reopenIf_fr

theorem queueEnableEff_fr (q : Nat) (s : State) (hs : Fr V M s0 s) (key0 : V (FCP.Q_HWM q)) (key1 : V (FCP.Q_STATE q)) (key2 : V (HDI.APPLY_OUTCOME)) (key3 : V (HDI.MIRROR_STATE)) (key4 : ∀ u0, V (VEN.STATE u0)) (key5 : V (FCP.Q_PKTS q)) :
    Fr V M s0 (queueEnableEff q s) := by
  unfold queueEnableEff
  repeat' first
    | with_reducible intro _
    | with_reducible assumption
    | with_reducible apply key0
    | with_reducible apply key1
    | with_reducible apply key2
    | with_reducible apply key3
    | with_reducible apply key4
    | with_reducible apply key5
    | with_reducible apply queueChanged_fr
    | with_reducible apply modSq_fr
    | with_reducible apply wr_fr
    | simp only [↓fr_mk_iff]
    | with_reducible apply fr_ite
    | (extract_lets x; first | (with_reducible refine fr_cut (s := x) ?_ ?_; (on_goal 2 => clear_value x); (on_goal 1 => unfold x)) | (subst x))
    | split

theorem queueDisableEff_fr (q : Nat) (s : State) (hs : Fr V M s0 s) (key0 : V (FCP.Q_STATE q)) (key1 : V (HDI.APPLY_OUTCOME)) (key2 : V (HDI.MIRROR_STATE)) (key3 : ∀ u0, V (VEN.STATE u0)) :
    Fr V M s0 (queueDisableEff q s) := by
  unfold queueDisableEff
  repeat' first
    | with_reducible intro _
    | with_reducible assumption
    | with_reducible apply key3
    | with_reducible apply queueChanged_fr
    | with_reducible apply wr_fr

theorem flushEff_fr (q : Nat) (s : State) (hs : Fr V M s0 s) (key0 : V (FCP.Q_EVFLAGS q)) (key1 : V (FCP.Q_FLUSHED q)) (key2 : V (FCP.Q_PKTS q)) (key3 : V (FCP.Q_STATE q)) :
    Fr V M s0 (flushEff q s) := by
  unfold flushEff
  repeat' first
    | with_reducible intro _
    | with_reducible assumption
    | with_reducible apply key0
    | with_reducible apply key1
    | with_reducible apply key2
    | with_reducible apply key3
    | with_reducible apply qFlag_fr
    | with_reducible apply modSq_fr
    | with_reducible apply addTo_fr
    | with_reducible apply wr_fr
    | simp only [↓fr_mk_iff]
    | with_reducible apply fr_ite
    | (extract_lets x; first | (with_reducible refine fr_cut (s := x) ?_ ?_; (on_goal 2 => clear_value x); (on_goal 1 => unfold x)) | (subst x))
    | split

theorem execQueueEnable_fr (r : Req) (q : Nat) (s : State) (hs : Fr V M s0 s) (key0 : V (FCP.Q_HWM q)) (key1 : V (FCP.Q_STATE q)) (key2 : V (HDI.APPLY_OUTCOME)) (key3 : V (HDI.MIRROR_STATE)) (key4 : ∀ u0, V (HDI.STATS u0)) (key5 : ∀ u0, V (VEN.STATE u0)) (key6 : V (FCP.Q_PKTS q)) :
    FrOut V M s0 (execQueueEnable r q s) := by
  unfold execQueueEnable
  repeat' first
    | with_reducible intro _
    | with_reducible assumption
    | with_reducible apply key0
    | with_reducible apply key1
    | with_reducible apply key2
    | with_reducible apply key3
    | with_reducible apply key4
    | with_reducible apply key5
    | with_reducible apply key6
    | with_reducible apply queueEnableEff_fr
    | with_reducible apply command_fr
    | simp only [↓fr_mk_iff]
    | with_reducible apply fr_ite
    | with_reducible apply frOut_next
    | with_reducible apply frOut_fault
    | with_reducible apply frOut_ite
    | with_reducible apply unitCmd_fr
    | (extract_lets x; first | (with_reducible refine fr_cut (s := x) ?_ ?_; (on_goal 2 => clear_value x); (on_goal 1 => unfold x)) | (subst x))
    | split

theorem execQueueDisable_fr (r : Req) (q : Nat) (s : State) (hs : Fr V M s0 s) (key0 : V (FCP.Q_STATE q)) (key1 : V (HDI.APPLY_OUTCOME)) (key2 : V (HDI.MIRROR_STATE)) (key3 : ∀ u0, V (HDI.STATS u0)) (key4 : ∀ u0, V (VEN.STATE u0)) :
    FrOut V M s0 (execQueueDisable r q s) := by
  unfold execQueueDisable
  repeat' first
    | with_reducible intro _
    | with_reducible assumption
    | with_reducible apply key3
    | with_reducible apply key4
    | with_reducible apply unitCmd_fr
    | with_reducible apply command_fr
    | with_reducible apply queueDisableEff_fr
    | with_reducible apply frOut_next
    | with_reducible apply frOut_fault

theorem execFlush_fr (r : Req) (q : Nat) (s : State) (hs : Fr V M s0 s) (key0 : V (FCP.Q_EVFLAGS q)) (key1 : V (FCP.Q_FLUSHED q)) (key2 : V (FCP.Q_PKTS q)) (key3 : V (FCP.Q_STATE q)) (key4 : ∀ u0, V (HDI.STATS u0)) :
    FrOut V M s0 (execFlush r q s) := by
  unfold execFlush
  repeat' first
    | with_reducible intro _
    | with_reducible assumption
    | with_reducible apply key4
    | with_reducible apply unitCmd_fr
    | with_reducible apply command_fr
    | with_reducible apply flushEff_fr
    | with_reducible apply frOut_next
    | with_reducible apply frOut_fault

theorem pushEff_fr (q v : Nat) (mark : Bool) (s : State) (hs : Fr V M s0 s) (key0 : V (FCP.Q_EVFLAGS q)) (key1 : V (FCP.Q_IN q)) (key2 : V (FCP.Q_PKTS q)) :
    Fr V M s0 (pushEff q v mark s) := by
  unfold pushEff
  repeat' first
    | with_reducible intro _
    | with_reducible assumption
    | with_reducible apply enterTail_fr
    | with_reducible apply modSq_fr
    | simp only [↓fr_mk_iff]
    | with_reducible apply fr_ite
    | split

theorem pushWord_fr (r : Req) (k q v : Nat) (mark : Bool) (s : State) (hs : Fr V M s0 s) (key0 : V (FCP.Q_EVFLAGS q)) (key1 : V (FCP.Q_IN q)) (key2 : V (FCP.Q_PKTS q)) (key3 : V (FCP.Q_REFUSED q)) (key4 : ∀ u0, V (HDI.STATS u0)) :
    Fr V M s0 (pushWord r k q v mark s) := by
  unfold pushWord
  repeat' first
    | with_reducible intro _
    | with_reducible assumption
    | with_reducible apply key0
    | with_reducible apply key1
    | with_reducible apply key2
    | with_reducible apply key3
    | with_reducible apply key4
    | with_reducible apply pushEff_fr
    | with_reducible apply qFlag_fr
    | with_reducible apply finish_fr
    | with_reducible apply bump_fr
    | simp only [↓fr_mk_iff]
    | with_reducible apply fr_ite
    | (extract_lets x; first | (with_reducible refine fr_cut (s := x) ?_ ?_; (on_goal 2 => clear_value x); (on_goal 1 => unfold x)) | (subst x))
    | split

theorem execPush_fr (r : Req) (q v : Nat) (s : State) (hs : Fr V M s0 s) (key0 : V (FCP.Q_EVFLAGS q)) (key1 : V (FCP.Q_IN q)) (key2 : V (FCP.Q_PKTS q)) (key3 : V (FCP.Q_REFUSED q)) (key4 : ∀ u0, V (HDI.STATS u0)) :
    FrOut V M s0 (execPush r q v s) := by
  unfold execPush
  repeat' first
    | with_reducible intro _
    | with_reducible assumption
    | with_reducible apply key4
    | with_reducible apply unitCmd_fr
    | with_reducible apply pushWord_fr
    | with_reducible apply frOut_next
    | with_reducible apply frOut_fault

theorem execPushEnd_fr (r : Req) (q v : Nat) (s : State) (hs : Fr V M s0 s) (key0 : V (FCP.Q_EVFLAGS q)) (key1 : V (FCP.Q_IN q)) (key2 : V (FCP.Q_PKTS q)) (key3 : V (FCP.Q_REFUSED q)) (key4 : ∀ u0, V (HDI.STATS u0)) :
    FrOut V M s0 (execPushEnd r q v s) := by
  unfold execPushEnd
  repeat' first
    | with_reducible intro _
    | with_reducible assumption
    | with_reducible apply key4
    | with_reducible apply unitCmd_fr
    | with_reducible apply pushWord_fr
    | with_reducible apply frOut_next
    | with_reducible apply frOut_fault

theorem fcountEff_fr (c : Nat) (s : State) (hs : Fr V M s0 s) (key0 : V (FCP.FCOUNT c)) :
    Fr V M s0 (fcountEff c s) := by
  unfold fcountEff
  repeat' first
    | with_reducible intro _
    | with_reducible assumption
    | with_reducible apply wr_fr

set_option Elab.async false in
theorem execFcountClr_fr (r : Req) (c v : Nat) (s : State) (hs : Fr V M s0 s) (key0 : V (FCP.FCOUNT c)) (key1 : ∀ u0, V (HDI.STATS u0)) :
    FrOut V M s0 (execFcountClr r c v s) := by
  unfold execFcountClr
  repeat' first
    | with_reducible intro _
    | with_reducible assumption
    | with_reducible apply key1
    | with_reducible apply unitCmd_fr
    | with_reducible apply command_fr
    | with_reducible apply fcountEff_fr
    | with_reducible apply frOut_next
    | with_reducible apply frOut_fault

end Sys2Proof.Laws
end

