-- ==== Sys2Proof/Laws/FrameLook.lean ====
section
/-! SUPPORT. Which members every operation of Machine/Look.lean can change, and whether it can change the memory. -/
namespace Sys2Proof.Laws
open Sys2Proof Sys2Proof.Machine
set_option linter.unusedVariables false
set_option linter.unusedTactic false
set_option linter.unreachableTactic false

variable {V : Nat → Prop} {M : Prop} {s0 : State}

theorem ledgerPass_fr (s : State) (hs : Fr V M s0 s) (key0 : V (SUP.EVFLAGS)) (key1 : V (SUP.LEDGER_FAIL)) (key2 : V (SUP.LEDGER_IMBAL)) (key3 : V (SUP.LEDGER_PASSES)) :
    Fr V M s0 (ledgerPass s) := by
  unfold ledgerPass
  repeat' first
    | with_reducible intro _
    | with_reducible assumption
    | with_reducible apply bump_fr
    | with_reducible apply supFlag_fr
    | with_reducible apply addTo_fr
    | with_reducible apply wr_fr
    | (extract_lets x; first | (with_reducible refine fr_cut (s := x) ?_ ?_; (on_goal 2 => clear_value x); (on_goal 1 => unfold x)) | (subst x))
    | split

theorem ledgerDue_fr (s : State) (hs : Fr V M s0 s) :
    Fr V M s0 (ledgerDue s) := by
  unfold ledgerDue
  repeat' first
    | with_reducible intro _
    | with_reducible assumption
    | with_reducible apply upto_fr
    | simp only [↓fr_mk_iff]
    | with_reducible apply fr_ite
    | (extract_lets x; first | (with_reducible refine fr_cut (s := x) ?_ ?_; (on_goal 2 => clear_value x); (on_goal 1 => unfold x)) | (subst x))
    | split

set_option Elab.async false in
theorem execLedgerCheck_fr (s : State) (hs : Fr V M s0 s) (key0 : V (SUP.EVFLAGS)) (key1 : V (SUP.LEDGER_FAIL)) (key2 : V (SUP.LEDGER_IMBAL)) (key3 : V (SUP.LEDGER_PASSES)) :
    FrOut V M s0 (execLedgerCheck s) := by
  unfold execLedgerCheck
  repeat' first
    | with_reducible intro _
    | with_reducible assumption
    | with_reducible apply key0
    | with_reducible apply key1
    | with_reducible apply key2
    | with_reducible apply key3
    | with_reducible apply ledgerDue_fr
    | with_reducible apply ledgerPass_fr
    | simp only [↓fr_mk_iff]
    | with_reducible apply fr_ite
    | with_reducible apply frOut_next
    | with_reducible apply frOut_fault
    | with_reducible apply frOut_ite
    | with_reducible apply unitCmd_fr
    | (extract_lets x; first | (with_reducible refine fr_cut (s := x) ?_ ?_; (on_goal 2 => clear_value x); (on_goal 1 => unfold x)) | (subst x))
    | split

end Sys2Proof.Laws
end

