-- ==== Sys2Proof/Laws/FrameBatch.lean ====
section
/-! SUPPORT. Which members every operation of Machine/Batch.lean can change, and whether it can change the memory. -/
namespace Sys2Proof.Laws
open Sys2Proof Sys2Proof.Machine
set_option linter.unusedVariables false
set_option linter.unusedTactic false
set_option linter.unreachableTactic false

variable {V : Nat → Prop} {M : Prop} {s0 : State}

theorem batchEdited_fr (s : State) (hs : Fr V M s0 s) (key0 : V (HDI.MIRROR_STATE)) :
    Fr V M s0 (batchEdited s) := by
  unfold batchEdited
  repeat' first
    | with_reducible intro _
    | with_reducible assumption
    | with_reducible apply wr_fr
    | with_reducible apply raise_fr
    | with_reducible apply fr_ite
    | split

theorem stageEff_fr (q : Req) (k len v : Nat) (s : State) (hs : Fr V M s0 s) (key0 : V (HDI.MIRROR_OWNER)) (key1 : V (HDI.MIRROR_STATE)) :
    Fr V M s0 (stageEff q k len v s) := by
  unfold stageEff
  repeat' first
    | with_reducible intro _
    | with_reducible assumption
    | with_reducible apply wr_fr
    | with_reducible apply batchEdited_fr
    | with_reducible apply modMirror_fr
    | simp only [↓fr_mk_iff]
    | with_reducible apply fr_ite
    | (extract_lets x; first | (with_reducible refine fr_cut (s := x) ?_ ?_; (on_goal 2 => clear_value x); (on_goal 1 => unfold x)) | (subst x))
    | split

theorem dropEff_fr (k : Nat) (s : State) (hs : Fr V M s0 s) (key0 : V (HDI.MIRROR_STATE)) :
    Fr V M s0 (dropEff k s) := by
  unfold dropEff
  repeat' first
    | with_reducible intro _
    | with_reducible assumption
    | with_reducible apply batchEdited_fr
    | with_reducible apply modMirror_fr
    | simp only [↓fr_mk_iff]
    | with_reducible apply fr_ite
    | split

theorem mread_fr (q : Req) (o m len : Nat) (s : State) (hs : Fr V M s0 s) (key0 : ∀ u0, V (HDI.STATS u0)) :
    Fr V M s0 (mread q o m len s) := by
  unfold mread
  repeat' first
    | with_reducible intro _
    | with_reducible assumption
    | with_reducible apply key0
    | with_reducible apply finish_fr
    | (extract_lets x; first | (with_reducible refine fr_cut (s := x) ?_ ?_; (on_goal 2 => clear_value x); (on_goal 1 => unfold x)) | (subst x))
    | split

theorem execMread_fr (q : Req) (o : Nat) (m : MirrorMem) (s : State) (hs : Fr V M s0 s) (key0 : ∀ u0, V (HDI.STATS u0)) :
    FrOut V M s0 (execMread q o m s) := by
  unfold execMread
  repeat' first
    | with_reducible intro _
    | with_reducible assumption
    | with_reducible apply key0
    | with_reducible apply mread_fr
    | simp only [↓fr_mk_iff]
    | with_reducible apply fr_ite
    | with_reducible apply frOut_next
    | with_reducible apply frOut_fault
    | with_reducible apply frOut_ite
    | with_reducible apply unitCmd_fr
    | (extract_lets x; first | (with_reducible refine fr_cut (s := x) ?_ ?_; (on_goal 2 => clear_value x); (on_goal 1 => unfold x)) | (subst x))
    | split

theorem mdrop_fr (q : Req) (o m len : Nat) (s : State) (hs : Fr V M s0 s) (key0 : V (HDI.MIRROR_STATE)) (key1 : ∀ u0, V (HDI.STATS u0)) :
    Fr V M s0 (mdrop q o m len s) := by
  unfold mdrop
  repeat' first
    | with_reducible intro _
    | with_reducible assumption
    | with_reducible apply key1
    | with_reducible apply finish_fr
    | with_reducible apply dropEff_fr

theorem execMdrop_fr (q : Req) (o : Nat) (m : MirrorMem) (s : State) (hs : Fr V M s0 s) (key0 : V (HDI.MIRROR_STATE)) (key1 : ∀ u0, V (HDI.STATS u0)) :
    FrOut V M s0 (execMdrop q o m s) := by
  unfold execMdrop
  repeat' first
    | with_reducible intro _
    | with_reducible assumption
    | with_reducible apply key0
    | with_reducible apply key1
    | with_reducible apply mdrop_fr
    | simp only [↓fr_mk_iff]
    | with_reducible apply fr_ite
    | with_reducible apply frOut_next
    | with_reducible apply frOut_fault
    | with_reducible apply frOut_ite
    | with_reducible apply unitCmd_fr
    | (extract_lets x; first | (with_reducible refine fr_cut (s := x) ?_ ?_; (on_goal 2 => clear_value x); (on_goal 1 => unfold x)) | (subst x))
    | split

theorem checkEff_fr (s : State) (hs : Fr V M s0 s) (key0 : V (HDI.MIRROR_STATE)) :
    Fr V M s0 (checkEff s) := by
  unfold checkEff
  repeat' first
    | with_reducible intro _
    | with_reducible assumption
    | with_reducible apply wr_fr

theorem execBatchCheck_fr (q : Req) (v : Nat) (s : State) (hs : Fr V M s0 s) (key0 : V (HDI.MIRROR_STATE)) (key1 : ∀ u0, V (HDI.STATS u0)) :
    FrOut V M s0 (execBatchCheck q v s) := by
  unfold execBatchCheck
  repeat' first
    | with_reducible intro _
    | with_reducible assumption
    | with_reducible apply key1
    | with_reducible apply command_fr
    | with_reducible apply checkEff_fr
    | with_reducible apply frOut_next
    | with_reducible apply frOut_fault

theorem execBatchCheckEnd_fr (s : State) (hs : Fr V M s0 s) (key0 : V (HDI.BATCH_FAIL)) (key1 : V (HDI.BATCH_RESULT)) (key2 : V (HDI.MIRROR_STATE)) :
    FrOut V M s0 (execBatchCheckEnd s) := by
  unfold execBatchCheckEnd
  repeat' first
    | with_reducible intro _
    | with_reducible assumption
    | with_reducible apply wr_fr
    | with_reducible apply raise_fr
    | with_reducible apply frOut_next
    | with_reducible apply frOut_fault
    | with_reducible apply frOut_ite
    | with_reducible apply fr_ite
    | split

theorem discardEff_fr (s : State) (hs : Fr V M s0 s) (key0 : V (HDI.MIRROR_OWNER)) (key1 : V (HDI.MIRROR_STATE)) :
    Fr V M s0 (discardEff s) := by
  unfold discardEff
  repeat' first
    | with_reducible intro _
    | with_reducible assumption
    | with_reducible apply releaseMirror_fr
    | with_reducible apply fr_ite
    | split

theorem execBatchDiscard_fr (q : Req) (v : Nat) (s : State) (hs : Fr V M s0 s) (key0 : V (HDI.MIRROR_OWNER)) (key1 : V (HDI.MIRROR_STATE)) (key2 : ∀ u0, V (HDI.STATS u0)) :
    FrOut V M s0 (execBatchDiscard q v s) := by
  unfold execBatchDiscard
  repeat' first
    | with_reducible intro _
    | with_reducible assumption
    | with_reducible apply key2
    | with_reducible apply command_fr
    | with_reducible apply discardEff_fr
    | with_reducible apply frOut_next
    | with_reducible apply frOut_fault

theorem armEff_fr (s : State) (hs : Fr V M s0 s) (key0 : V (HDI.MIRROR_STATE)) (key1 : ∀ u0, V (VEN.APG_DISCARD u0)) (key2 : ∀ u0, V (VEN.STATE u0)) :
    Fr V M s0 (armEff s) := by
  unfold armEff
  repeat' first
    | with_reducible intro _
    | with_reducible assumption
    | with_reducible apply key0
    | with_reducible apply key1
    | with_reducible apply key2
    | with_reducible apply veArm_fr
    | with_reducible apply modMirror_fr
    | with_reducible apply wr_fr
    | simp only [↓fr_mk_iff]
    | with_reducible apply fr_foldl
    | with_reducible apply fr_foldl_snd
    | with_reducible apply fr_ite
    | (extract_lets x; first | (with_reducible refine fr_cut (s := x) ?_ ?_; (on_goal 2 => clear_value x); (on_goal 1 => unfold x)) | (subst x))
    | split

theorem execApplyArm_fr (q : Req) (v : Nat) (s : State) (hs : Fr V M s0 s) (key0 : V (HDI.MIRROR_STATE)) (key1 : ∀ u0, V (HDI.STATS u0)) (key2 : ∀ u0, V (VEN.APG_DISCARD u0)) (key3 : ∀ u0, V (VEN.STATE u0)) :
    FrOut V M s0 (execApplyArm q v s) := by
  unfold execApplyArm
  repeat' first
    | with_reducible intro _
    | with_reducible assumption
    | with_reducible apply key1
    | with_reducible apply key2
    | with_reducible apply key3
    | with_reducible apply command_fr
    | with_reducible apply armEff_fr
    | with_reducible apply frOut_next
    | with_reducible apply frOut_fault

theorem cancelEff_fr (s : State) (hs : Fr V M s0 s) (key0 : V (HDI.MIRROR_STATE)) (key1 : ∀ u0, V (VEN.STATE u0)) :
    Fr V M s0 (cancelEff s) := by
  unfold cancelEff
  repeat' first
    | with_reducible intro _
    | with_reducible assumption
    | with_reducible apply key1
    | with_reducible apply disarmTo_fr
    | with_reducible apply fr_ite
    | split

theorem execApplyCancel_fr (q : Req) (v : Nat) (s : State) (hs : Fr V M s0 s) (key0 : V (HDI.MIRROR_STATE)) (key1 : ∀ u0, V (HDI.STATS u0)) (key2 : ∀ u0, V (VEN.STATE u0)) :
    FrOut V M s0 (execApplyCancel q v s) := by
  unfold execApplyCancel
  repeat' first
    | with_reducible intro _
    | with_reducible assumption
    | with_reducible apply key1
    | with_reducible apply key2
    | with_reducible apply command_fr
    | with_reducible apply cancelEff_fr
    | with_reducible apply frOut_next
    | with_reducible apply frOut_fault

theorem execMirrorLeaseExpiry_fr (s : State) (hs : Fr V M s0 s) (key0 : V (HDI.MIRROR_OWNER)) (key1 : V (HDI.MIRROR_STATE)) :
    FrOut V M s0 (execMirrorLeaseExpiry s) := by
  unfold execMirrorLeaseExpiry
  repeat' first
    | with_reducible intro _
    | with_reducible assumption
    | with_reducible apply releaseMirror_fr
    | with_reducible apply upto_fr
    | with_reducible apply raise_fr
    | with_reducible apply frOut_next
    | with_reducible apply frOut_fault
    | with_reducible apply frOut_ite
    | with_reducible apply fr_ite
    | split

theorem execSyncinCapture_fr (level : Bool) (s : State) (hs : Fr V M s0 s) :
    FrOut V M s0 (execSyncinCapture level s) := by
  unfold execSyncinCapture
  repeat' first
    | with_reducible intro _
    | with_reducible assumption
    | with_reducible apply modMirror_fr
    | with_reducible apply upto_fr
    | simp only [↓fr_mk_iff]
    | with_reducible apply fr_ite
    | with_reducible apply frOut_next
    | with_reducible apply frOut_fault
    | with_reducible apply frOut_ite
    | with_reducible apply unitCmd_fr
    | (extract_lets x; first | (with_reducible refine fr_cut (s := x) ?_ ?_; (on_goal 2 => clear_value x); (on_goal 1 => unfold x)) | (subst x))
    | split

set_option Elab.async false in
theorem pinsAtE_fr (e : Nat) (b a : State) (hb : Fr V M s0 b) (ha : Fr V M s0 a) :
    Fr V M s0 (pinsAtE e b a) := by
  unfold pinsAtE
  repeat' first
    | with_reducible intro _
    | with_reducible assumption
    | with_reducible apply offAt_fr
    | with_reducible apply parkAt_fr
    | with_reducible apply fr_ite
    | with_reducible apply fr_foldl
    | (extract_lets x; first | (with_reducible refine fr_cut (s := x) ?_ ?_; (on_goal 2 => clear_value x); (on_goal 1 => unfold x)) | (subst x))
    | split

end Sys2Proof.Laws
end

