-- ==== Sys2Proof/Laws/FrameAccess.lean ====
section
/-! SUPPORT. Which members every operation of Machine/Access.lean can change, and whether it can change the memory. -/
namespace Sys2Proof.Laws
open Sys2Proof Sys2Proof.Machine
set_option linter.unusedVariables false
set_option linter.unusedTactic false
set_option linter.unreachableTactic false

variable {V : Nat → Prop} {M : Prop} {s0 : State}

theorem retireEff_fr (k v : Nat) (s : State) (hs : Fr V M s0 s) (key0 : V k) (key1 : V (HDI.APPLY_OUTCOME)) (key2 : V (HDI.MIRROR_STATE)) (key3 : ∀ u0, V (VEN.STATE u0)) :
    Fr V M s0 (retireEff k v s) := by
  unfold retireEff
  repeat' first
    | with_reducible intro _
    | with_reducible assumption
    | with_reducible apply key3
    | with_reducible apply reopenIf_fr
    | with_reducible apply wr_fr

theorem statsClear_fr (s : State) (hs : Fr V M s0 s) (key0 : ∀ u0, V (HDI.STATS u0)) :
    Fr V M s0 (statsClear s) := by
  unfold statsClear
  repeat' first
    | with_reducible intro _
    | with_reducible assumption
    | with_reducible apply key0
    | with_reducible apply wr_fr
    | with_reducible apply fr_foldl

theorem execStatsClr_fr (q : Req) (v : Nat) (s : State) (hs : Fr V M s0 s) (key0 : ∀ u0, V (HDI.STATS u0)) :
    FrOut V M s0 (execStatsClr q v s) := by
  unfold execStatsClr
  repeat' first
    | with_reducible intro _
    | with_reducible assumption
    | with_reducible apply key0
    | with_reducible apply command_fr
    | with_reducible apply statsClear_fr
    | with_reducible apply frOut_next
    | with_reducible apply frOut_fault

theorem ctrlLow_fr (q : Req) (k code : Nat) (s : State) (key0 : V (CFG.BBRAM_KEY_ID)) (key1 : ∀ u0, V (CFG.FACET_STATE u0)) (key2 : V (CFG.KEY_STATUS)) (key3 : V (CFG.LOAD_BYTES)) (key4 : V (CFG.LOAD_CAUSE)) (key5 : V (CFG.LOAD_FAIL_AT)) (key6 : V (CFG.LOAD_STATE)) (key7 : V (CFG.LOAD_STATUS)) (key8 : V (CFG.LOAD_TIME)) (key9 : V (CFG.LOUPE_ABANDONED)) (key10 : ∀ u0, V (CFG.LOUPE_SRC_ADDR u0)) (key11 : ∀ u0, V (CFG.LOUPE_SRC_TYPE u0)) (key12 : V (CFG.TAMPER_CAUSE)) (key13 : V (CFG.TAMPER_COUNT)) (key14 : V (CFG.TRIM_BUSY)) (key15 : V (CRH.FM_STATE)) (key16 : V (HDI.MIRROR_OWNER)) (key17 : V (HDI.MIRROR_STATE)) (key18 : ∀ u0, V (HDI.STATS u0)) (key19 : V (SUP.CJ_STATE)) (key20 : ∀ u0, V (VEN.APG_DISCARD u0)) (key21 : ∀ u0, V (VEN.STATE u0)) (key22 : ∀ u0, V (CFG.FACET_LOADS u0)) (key23 : ∀ u0, V (FAB.DESIGN_ID u0)) :
    FrRule V M s0 (ctrlLow q k code s) := by
  unfold ctrlLow
  repeat' first
    | with_reducible intro _
    | with_reducible assumption
    | with_reducible apply key0
    | with_reducible apply key1
    | with_reducible apply key2
    | with_reducible apply key3
    | with_reducible apply key4
    | with_reducible apply key5
    | with_reducible apply key6
    | with_reducible apply key7
    | with_reducible apply key8
    | with_reducible apply key9
    | with_reducible apply key10
    | with_reducible apply key11
    | with_reducible apply key12
    | with_reducible apply key13
    | with_reducible apply key14
    | with_reducible apply key15
    | with_reducible apply key16
    | with_reducible apply key17
    | with_reducible apply key18
    | with_reducible apply key19
    | with_reducible apply key20
    | with_reducible apply key21
    | with_reducible apply key22
    | with_reducible apply key23
    | with_reducible apply statsClear_fr
    | with_reducible apply cancelEff_fr
    | with_reducible apply armEff_fr
    | with_reducible apply discardEff_fr
    | with_reducible apply checkEff_fr
    | with_reducible apply hostKickEff_fr
    | with_reducible apply cryptoEff_fr
    | with_reducible apply importEff_fr
    | with_reducible apply commitEff_fr
    | with_reducible apply keyEff_fr
    | with_reducible apply flpEff_fr
    | with_reducible apply abortEff_fr
    | with_reducible apply loadEff_fr
    | with_reducible apply fmEff_fr
    | simp only [↓fr_mk_iff]
    | with_reducible apply fr_ite
    | with_reducible apply frRule_mk
    | with_reducible apply frRule_ite
    | (extract_lets x; first | (with_reducible refine fr_cut (s := x) ?_ ?_; (on_goal 2 => clear_value x); (on_goal 1 => unfold x)) | (subst x))
    | split

theorem ctrlMid_fr (o n code : Nat) (s : State) (hs : Fr V M s0 s) (key0 : V (EDG.FOCUS_STATE)) (key1 : V (FCP.FCOUNT n)) (key2 : V (FCP.Q_EVFLAGS n)) (key3 : V (FCP.Q_FLUSHED n)) (key4 : V (FCP.Q_HWM n)) (key5 : V (FCP.Q_PKTS n)) (key6 : V (FCP.Q_STATE n)) (key7 : V (HDI.APPLY_OUTCOME)) (key8 : V (HDI.MIRROR_STATE)) (key9 : ∀ u0, V (PAN.STATE u0)) (key10 : V (SCR.STATE n)) (key11 : V (VEN.APG_DISCARD n)) (key12 : V (VEN.FLAGS n)) (key13 : ∀ u0, V (VEN.STATE u0)) (key14 : ∀ u0, V (calKey u0 6)) (key15 : ∀ u0, V (calKey u0 8)) :
    FrRule V M s0 (ctrlMid o n code s) := by
  unfold ctrlMid
  repeat' first
    | with_reducible intro _
    | with_reducible assumption
    | with_reducible apply key9
    | with_reducible apply key13
    | with_reducible apply key14
    | with_reducible apply key15
    | with_reducible apply releaseEff_fr
    | with_reducible apply holdEff_fr
    | with_reducible apply paneDetachEff_fr
    | with_reducible apply paneAttachEff_fr
    | with_reducible apply paneTestEff_fr
    | with_reducible apply scrTestEff_fr
    | with_reducible apply veEnableEff_fr
    | with_reducible apply veDisableEff_fr
    | with_reducible apply veStartEff_fr
    | with_reducible apply veStartAtEff_fr
    | with_reducible apply veHaltEff_fr
    | with_reducible apply veResumeEff_fr
    | with_reducible apply veStopEff_fr
    | with_reducible apply veClearFaultEff_fr
    | with_reducible apply veSelfcheckEff_fr
    | with_reducible apply focusAbortEff_fr
    | with_reducible apply focusEff_fr
    | with_reducible apply fcountEff_fr
    | with_reducible apply queueEnableEff_fr
    | with_reducible apply queueDisableEff_fr
    | with_reducible apply flushEff_fr
    | with_reducible apply frRule_ite
    | with_reducible apply fr_ite
    | (extract_lets x; first | (with_reducible refine fr_cut (s := x) ?_ ?_; (on_goal 2 => clear_value x); (on_goal 1 => unfold x)) | (subst x))
    | split
    | with_reducible apply frRule_mk

theorem ctrlHigh_fr (o n code : Nat) (s : State) (key0 : V (CRH.CLK_STATUS)) (key1 : V (DBG.STATUS)) (key2 : V (DMC.CAPACITY n)) (key3 : V (DMC.CONFIG n)) (key4 : V (DMC.EVFLAGS n)) (key5 : V (DMC.RETRAINS n)) (key6 : V (DMC.STATE n)) (key7 : ∀ u0, V (DSP.STATE u0)) (key8 : V (HDI.APPLY_OUTCOME)) (key9 : V (HDI.MIRROR_OWNER)) (key10 : V (HDI.MIRROR_STATE)) (key11 : ∀ u0, V (HDI.SLOT u0)) (key12 : V (HDI.STATUS)) (key13 : V (LNK.EVFLAGS n)) (key14 : V (LNK.MESH_DISCARD n)) (key15 : V (LNK.RX_ABORT n)) (key16 : V (LNK.RX_DISCARD n)) (key17 : V (LNK.SRX_RD n)) (key18 : V (LNK.SRX_WR n)) (key19 : V (LNK.STATE n)) (key20 : V (LNK.TX_DISCARD n)) (key21 : V (MSH.PFLITS n)) (key22 : V (MSH.PPKTS n)) (key23 : V (MSH.PSTATE n)) (key24 : V (MSH.RSTATE n)) (key25 : ∀ u0, V (TMU.AP_STATE u0)) (key26 : V (TMU.EVFLAGS)) (key27 : V (TMU.STATUS)) (key28 : ∀ u0, V (TMU.TRG_STATE u0)) (key29 : ∀ u0, V (VEN.FLAGS u0)) (key30 : ∀ u0, V (VEN.STATE u0)) (key31 : V (TMU.TRG_FIRED n)) :
    FrRule V M s0 (ctrlHigh o n code s) := by
  unfold ctrlHigh
  repeat' first
    | with_reducible intro _
    | with_reducible assumption
    | with_reducible apply key0
    | with_reducible apply key1
    | with_reducible apply key2
    | with_reducible apply key3
    | with_reducible apply key4
    | with_reducible apply key5
    | with_reducible apply key6
    | with_reducible apply key7
    | with_reducible apply key8
    | with_reducible apply key9
    | with_reducible apply key10
    | with_reducible apply key11
    | with_reducible apply key12
    | with_reducible apply key13
    | with_reducible apply key14
    | with_reducible apply key15
    | with_reducible apply key16
    | with_reducible apply key17
    | with_reducible apply key18
    | with_reducible apply key19
    | with_reducible apply key20
    | with_reducible apply key21
    | with_reducible apply key22
    | with_reducible apply key23
    | with_reducible apply key24
    | with_reducible apply key25
    | with_reducible apply key26
    | with_reducible apply key27
    | with_reducible apply key28
    | with_reducible apply key29
    | with_reducible apply key30
    | with_reducible apply key31
    | with_reducible apply dspSelfcheckEff_fr
    | with_reducible apply dspResumeEff_fr
    | with_reducible apply dspHaltEff_fr
    | with_reducible apply dspStopEff_fr
    | with_reducible apply dspStartAtEff_fr
    | with_reducible apply dspStartEff_fr
    | with_reducible apply trgDisarmEff_fr
    | with_reducible apply trgArmEff_fr
    | with_reducible apply apDisarmEff_fr
    | with_reducible apply apArmEff_fr
    | with_reducible apply laneStartEff_fr
    | with_reducible apply laneEnter_fr
    | with_reducible apply retrainStart_fr
    | with_reducible apply trainStart_fr
    | with_reducible apply tclearEff_fr
    | with_reducible apply probeClearEff_fr
    | with_reducible apply probeStopEff_fr
    | with_reducible apply probeRunEff_fr
    | with_reducible apply drainEff_fr
    | simp only [↓fr_mk_iff]
    | with_reducible apply fr_ite
    | with_reducible apply frRule_mk
    | with_reducible apply frRule_ite
    | (extract_lets x; first | (with_reducible refine fr_cut (s := x) ?_ ?_; (on_goal 2 => clear_value x); (on_goal 1 => unfold x)) | (subst x))
    | split

theorem ctrlDbg_fr (q : Req) (o m code : Nat) (s : State) (key0 : ∀ u0, V (DBG.BRK_STATE u0)) (key1 : V (DBG.POLICY)) (key2 : V (DBG.STATUS)) (key3 : ∀ u0, V (DSP.STATE u0)) (key4 : ∀ u0, V (DBG.BRK_HITS u0)) (key5 : V (DBG.EVFLAGS)) :
    FrRule V M s0 (ctrlDbg q o m code s) := by
  unfold ctrlDbg
  repeat' first
    | with_reducible intro _
    | with_reducible assumption
    | with_reducible apply key0
    | with_reducible apply key1
    | with_reducible apply key2
    | with_reducible apply key3
    | with_reducible apply key4
    | with_reducible apply key5
    | with_reducible apply stepEff_fr
    | with_reducible apply resumeEff_fr
    | with_reducible apply brkFreeEff_fr
    | with_reducible apply rearm_fr
    | with_reducible apply brkAllocEff_fr
    | with_reducible apply fuseEff_fr
    | with_reducible apply authEff_fr
    | with_reducible apply latchDebugHalt_fr
    | simp only [↓fr_mk_iff]
    | with_reducible apply fr_ite
    | with_reducible apply frRule_mk
    | with_reducible apply frRule_ite
    | (extract_lets x; first | (with_reducible refine fr_cut (s := x) ?_ ?_; (on_goal 2 => clear_value x); (on_goal 1 => unfold x)) | (subst x))
    | split

theorem ctrlRule_fr (q : Req) (o m code : Nat) (s : State) (hs : Fr V M s0 s) (key0 : V (CFG.BBRAM_KEY_ID)) (key1 : ∀ u0, V (CFG.FACET_STATE u0)) (key2 : V (CFG.KEY_STATUS)) (key3 : V (CFG.LOAD_BYTES)) (key4 : V (CFG.LOAD_CAUSE)) (key5 : V (CFG.LOAD_FAIL_AT)) (key6 : V (CFG.LOAD_STATE)) (key7 : V (CFG.LOAD_STATUS)) (key8 : V (CFG.LOAD_TIME)) (key9 : V (CFG.LOUPE_ABANDONED)) (key10 : ∀ u0, V (CFG.LOUPE_SRC_ADDR u0)) (key11 : ∀ u0, V (CFG.LOUPE_SRC_TYPE u0)) (key12 : V (CFG.TAMPER_CAUSE)) (key13 : V (CFG.TAMPER_COUNT)) (key14 : V (CFG.TRIM_BUSY)) (key15 : V (CRH.FM_STATE)) (key16 : V (HDI.MIRROR_OWNER)) (key17 : V (HDI.MIRROR_STATE)) (key18 : ∀ u0, V (HDI.STATS u0)) (key19 : V (SUP.CJ_STATE)) (key20 : ∀ u0, V (VEN.APG_DISCARD u0)) (key21 : ∀ u0, V (VEN.STATE u0)) (key22 : V (EDG.FOCUS_STATE)) (key23 : ∀ u0, V (FCP.FCOUNT u0)) (key24 : ∀ u0, V (FCP.Q_EVFLAGS u0)) (key25 : ∀ u0, V (FCP.Q_FLUSHED u0)) (key26 : ∀ u0, V (FCP.Q_HWM u0)) (key27 : ∀ u0, V (FCP.Q_PKTS u0)) (key28 : ∀ u0, V (FCP.Q_STATE u0)) (key29 : V (HDI.APPLY_OUTCOME)) (key30 : ∀ u0, V (PAN.STATE u0)) (key31 : ∀ u0, V (SCR.STATE u0)) (key32 : ∀ u0, V (VEN.FLAGS u0)) (key33 : ∀ u0, V (calKey u0 6)) (key34 : ∀ u0, V (calKey u0 8)) (key35 : V (CRH.CLK_STATUS)) (key36 : V (DBG.STATUS)) (key37 : ∀ u0, V (DMC.CAPACITY u0)) (key38 : ∀ u0, V (DMC.CONFIG u0)) (key39 : ∀ u0, V (DMC.EVFLAGS u0)) (key40 : ∀ u0, V (DMC.RETRAINS u0)) (key41 : ∀ u0, V (DMC.STATE u0)) (key42 : ∀ u0, V (DSP.STATE u0)) (key43 : ∀ u0, V (HDI.SLOT u0)) (key44 : V (HDI.STATUS)) (key45 : ∀ u0, V (LNK.EVFLAGS u0)) (key46 : ∀ u0, V (LNK.MESH_DISCARD u0)) (key47 : ∀ u0, V (LNK.RX_ABORT u0)) (key48 : ∀ u0, V (LNK.RX_DISCARD u0)) (key49 : ∀ u0, V (LNK.SRX_RD u0)) (key50 : ∀ u0, V (LNK.SRX_WR u0)) (key51 : ∀ u0, V (LNK.STATE u0)) (key52 : ∀ u0, V (LNK.TX_DISCARD u0)) (key53 : ∀ u0, V (MSH.PFLITS u0)) (key54 : ∀ u0, V (MSH.PPKTS u0)) (key55 : ∀ u0, V (MSH.PSTATE u0)) (key56 : ∀ u0, V (MSH.RSTATE u0)) (key57 : ∀ u0, V (TMU.AP_STATE u0)) (key58 : V (TMU.EVFLAGS)) (key59 : V (TMU.STATUS)) (key60 : ∀ u0, V (TMU.TRG_STATE u0)) (key61 : ∀ u0, V (TMU.TRG_FIRED u0)) (key62 : ∀ u0, V (DBG.BRK_STATE u0)) (key63 : V (DBG.POLICY)) (key64 : ∀ u0, V (CFG.FACET_LOADS u0)) (key65 : ∀ u0, V (FAB.DESIGN_ID u0)) (key66 : ∀ u0, V (DBG.BRK_HITS u0)) (key67 : V (DBG.EVFLAGS)) :
    FrRule V M s0 (ctrlRule q o m code s) := by
  unfold ctrlRule
  refine frRule_ite ?_ (frRule_ite ?_ (frRule_ite ?_ ?_))
  · exact ctrlLow_fr _ _ _ _ key0 key1 key2 key3 key4 key5 key6 key7 key8 key9 key10 key11 key12 key13 key14 key15 key16 key17 key18 key19 key20 key21 key64 key65
  · exact ctrlMid_fr _ _ _ _ hs key22 (key23 _) (key24 _) (key25 _) (key26 _) (key27 _) (key28 _) key29 key17 key30 (key31 _) (key20 _) (key32 _) key21 key33 key34
  · exact ctrlHigh_fr _ _ _ _ key35 key36 (key37 _) (key38 _) (key39 _) (key40 _) (key41 _) key42 key29 key16 key17 key43 key44 (key45 _) (key46 _) (key47 _) (key48 _) (key49 _) (key50 _) (key51 _) (key52 _) (key53 _) (key54 _) (key55 _) (key56 _) key57 key58 key59 key60 key32 key21 (key61 _)
  · exact ctrlDbg_fr _ _ _ _ _ key62 key63 key36 key42 key66 key67

theorem blobWrite_fr (w len v : Nat) (eff : Nat → State → State) (s : State) (heff : ∀ x s, Fr V M s0 s → Fr V M s0 (eff x s)) (hs : Fr V M s0 s) :
    Fr V M s0 (blobWrite w len v eff s) := heff _ _ (fr_ite hs (drawn_fr _ hs))

theorem plain_fr (k v : Nat)  (key0 : V k := by first | assumption | simp only [*]) :
    FrRule V M s0 (plain k v) := by
  unfold plain
  repeat' first
    | with_reducible intro _
    | with_reducible assumption
    | with_reducible apply wr_fr
    | with_reducible apply frRule_ite
    | with_reducible apply frRule_mk

theorem plainUnless_fr (c : Bool) (k v : Nat)  (key0 : V k := by first | assumption | simp only [*]) :
    FrRule V M s0 (plainUnless c k v) := by
  unfold plainUnless
  repeat' first
    | with_reducible intro _
    | with_reducible assumption
    | with_reducible apply wr_fr
    | with_reducible apply frRule_ite
    | with_reducible apply frRule_mk

theorem openRule_fr (q : Req) (o m width : Nat) (u : State) (s : State) (hs : Fr V M s0 s) (key0 : V (DBG.EVFLAGS)) (key1 : ∀ u0, V (FCP.POP_MARK u0)) (key2 : ∀ u0, V (FCP.Q_EVFLAGS u0)) (key3 : ∀ u0, V (FCP.Q_OUT u0)) (key4 : ∀ u0, V (FCP.Q_PKTS u0)) (key5 : ∀ u0, V (HDI.STATS u0)) (key6 : V (SUP.LOG_READ)) (key7 : ∀ u0, V (TMU.TXTS_READ u0)) :
    Fr V M s0 ((openRule q o m width u).eff s) := by
  unfold openRule
  dsimp only
  split
  · exact logPopEff_fr s hs
  · exact popEff_fr _ s hs
  · exact poprecEff_fr _ _ s hs
  · exact capEff_fr _ s hs
  · dsimp only
    split
    · exact drawn_fr s hs
    · exact hs
  · exact dtxEff_fr _ s hs
  · exact tdrxEff_fr _ s hs
  · split
    · exact txtsEff_fr _ s hs
    · exact rxmsgEff_fr _ s hs
    · exact hs
  · exact hs

set_option Elab.async false in
theorem readRule_fr (q : Req) (o m width : Nat) (u : State) (s : State) (hs : Fr V M s0 s) (key0 : V (DBG.EVFLAGS)) (key1 : ∀ u0, V (FCP.POP_MARK u0)) (key2 : ∀ u0, V (FCP.Q_EVFLAGS u0)) (key3 : ∀ u0, V (FCP.Q_OUT u0)) (key4 : ∀ u0, V (FCP.Q_PKTS u0)) (key5 : ∀ u0, V (HDI.STATS u0)) (key6 : V (SUP.LOG_READ)) (key7 : ∀ u0, V (TMU.TXTS_READ u0)) :
    Fr V M s0 ((readRule q o m width u).eff s) := by
  unfold readRule
  extract_lets r
  split
  · exact hs
  · exact openRule_fr q o m width u s hs key0 key1 key2 key3 key4 key5 key6 key7

end Sys2Proof.Laws
end

