-- ==== Sys2Proof/Laws/FrameHdi.lean ====
section
/-! SUPPORT. Which members every operation of Machine/Hdi.lean can change, and whether it can change the memory. -/
namespace Sys2Proof.Laws
open Sys2Proof Sys2Proof.Machine
set_option linter.unusedVariables false
set_option linter.unusedTactic false
set_option linter.unreachableTactic false

variable {V : Nat → Prop} {M : Prop} {s0 : State}

theorem advance_fr (dbg : Bool) (n : Nat) (s : State) (hs : Fr V M s0 s) (key0 : V (addrKey dbg)) :
    Fr V M s0 (advance dbg n s) := by
  unfold advance
  repeat' first
    | with_reducible intro _
    | with_reducible assumption
    | with_reducible apply wr_fr

theorem meshWriteEff_fr (dbg : Bool) (q n v : Nat) (s : State) (hs : Fr V M s0 s) (key0 : V (addrKey dbg)) :
    Fr V M s0 (meshWriteEff dbg q n v s) := by
  unfold meshWriteEff
  repeat' first
    | with_reducible intro _
    | with_reducible assumption
    | with_reducible apply meshSend_fr
    | with_reducible apply advance_fr
    | with_reducible apply fr_foldl

theorem meshWrite_fr (q : Req) (dbg : Bool) (len v : Nat) (s : State) (hs : Fr V M s0 s) (key0 : ∀ u0, V (HDI.STATS u0)) (key1 : V (addrKey dbg)) :
    Fr V M s0 (meshWrite q dbg len v s) := by
  unfold meshWrite
  repeat' first
    | with_reducible intro _
    | with_reducible assumption
    | with_reducible apply key0
    | with_reducible apply writeTo_fr
    | with_reducible apply meshWriteEff_fr
    | with_reducible apply fr_ite
    | split

theorem execMeshDataWrite_fr (q : Req) (len v : Nat) (s : State) (hs : Fr V M s0 s) (key0 : ∀ u0, V (HDI.STATS u0)) (key1 : ∀ u0, V (addrKey u0)) :
    FrOut V M s0 (execMeshDataWrite q len v s) := by
  unfold execMeshDataWrite
  repeat' first
    | with_reducible intro _
    | with_reducible assumption
    | with_reducible apply key0
    | with_reducible apply key1
    | with_reducible apply meshWrite_fr
    | with_reducible apply frOut_next
    | with_reducible apply frOut_fault

theorem execMemDataWrite_fr (q : Req) (len v : Nat) (s : State) (hs : Fr V M s0 s) (key0 : ∀ u0, V (HDI.STATS u0)) (key1 : ∀ u0, V (addrKey u0)) :
    FrOut V M s0 (execMemDataWrite q len v s) := by
  unfold execMemDataWrite
  repeat' first
    | with_reducible intro _
    | with_reducible assumption
    | with_reducible apply key0
    | with_reducible apply key1
    | with_reducible apply meshWrite_fr
    | with_reducible apply frOut_next
    | with_reducible apply frOut_fault

theorem fetchEff_fr (q : Req) (implicit : Bool) (o m n : Nat) (s : State) (hs : Fr V M s0 s) (key0 : ∀ u0, V (addrKey u0)) :
    Fr V M s0 (fetchEff q implicit o m n s) := by
  unfold fetchEff
  repeat' first
    | with_reducible intro _
    | with_reducible assumption
    | with_reducible apply key0
    | with_reducible apply advance_fr
    | with_reducible apply meshSend_fr
    | with_reducible apply modMaster_fr
    | simp only [↓fr_mk_iff]
    | with_reducible apply fr_foldl
    | with_reducible apply fr_foldl_snd
    | with_reducible apply fr_ite
    | (extract_lets x; first | (with_reducible refine fr_cut (s := x) ?_ ?_; (on_goal 2 => clear_value x); (on_goal 1 => unfold x)) | (subst x))
    | split

theorem fetchReq_fr (q : Req) (o m len v : Nat) (s : State) (hs : Fr V M s0 s) (key0 : ∀ u0, V (HDI.STATS u0)) (key1 : ∀ u0, V (addrKey u0)) :
    Fr V M s0 (fetchReq q o m len v s) := by
  unfold fetchReq
  repeat' first
    | with_reducible intro _
    | with_reducible assumption
    | with_reducible apply key0
    | with_reducible apply key1
    | with_reducible apply fetchEff_fr
    | with_reducible apply finish_fr
    | simp only [↓fr_mk_iff]
    | with_reducible apply fr_ite
    | (extract_lets x; first | (with_reducible refine fr_cut (s := x) ?_ ?_; (on_goal 2 => clear_value x); (on_goal 1 => unfold x)) | (subst x))
    | split

theorem snapRead_fr (q : Req) (o m len : Nat) (s : State) (hs : Fr V M s0 s) (key0 : ∀ u0, V (HDI.STATS u0)) :
    Fr V M s0 (snapRead q o m len s) := by
  unfold snapRead
  repeat' first
    | with_reducible intro _
    | with_reducible assumption
    | with_reducible apply key0
    | with_reducible apply finish_fr
    | simp only [↓fr_mk_iff]
    | with_reducible apply fr_ite
    | (extract_lets x; first | (with_reducible refine fr_cut (s := x) ?_ ?_; (on_goal 2 => clear_value x); (on_goal 1 => unfold x)) | (subst x))
    | split

theorem slotRead_fr (q : Req) (o m len v : Nat) (s : State) (hs : Fr V M s0 s) (key0 : ∀ u0, V (HDI.STATS u0)) (key1 : ∀ u0, V (addrKey u0)) :
    Fr V M s0 (slotRead q o m len v s) := by
  unfold slotRead
  repeat' first
    | with_reducible intro _
    | with_reducible assumption
    | with_reducible apply key0
    | with_reducible apply key1
    | with_reducible apply fetchEff_fr
    | with_reducible apply respond_fr
    | simp only [↓fr_mk_iff]
    | with_reducible apply fr_ite
    | (extract_lets x; first | (with_reducible refine fr_cut (s := x) ?_ ?_; (on_goal 2 => clear_value x); (on_goal 1 => unfold x)) | (subst x))
    | split

theorem plainRead_fr (q : Req) (o m len width : Nat) (s : State) (hs : Fr V M s0 s) (key0 : V (DBG.EVFLAGS)) (key1 : ∀ u0, V (FCP.POP_MARK u0)) (key2 : ∀ u0, V (FCP.Q_EVFLAGS u0)) (key3 : ∀ u0, V (FCP.Q_OUT u0)) (key4 : ∀ u0, V (FCP.Q_PKTS u0)) (key5 : ∀ u0, V (HDI.STATS u0)) (key6 : V (SUP.LOG_READ)) (key7 : ∀ u0, V (TMU.TXTS_READ u0)) :
    Fr V M s0 (plainRead q o m len width s) := by
  unfold plainRead
  repeat' first
    | with_reducible intro _
    | with_reducible assumption
    | with_reducible apply key0
    | with_reducible apply key1
    | with_reducible apply key2
    | with_reducible apply key3
    | with_reducible apply key4
    | with_reducible apply key5
    | with_reducible apply key6
    | with_reducible apply key7
    | with_reducible apply readRule_fr
    | with_reducible apply finish_fr
    | simp only [↓fr_mk_iff]
    | with_reducible apply fr_ite
    | (extract_lets x; first | (with_reducible refine fr_cut (s := x) ?_ ?_; (on_goal 2 => clear_value x); (on_goal 1 => unfold x)) | (subst x))
    | split

theorem ruleWrite_fr (q : Req) (o m len v : Nat) (r : Rule) (s : State)
    (hr : FrRule V M s0 r) (hs : Fr V M s0 s) (key0 : ∀ u0, V (HDI.STATS u0) := by first | assumption | simp only [*]) : Fr V M s0 (ruleWrite q o m len v r s) :=
  finish_fr _ _ _ _ _ _ _ _ _ hr hs

theorem readReq_fr (q : Req) (o m len v : Nat) (r : Dict.Row) (s : State) (hs : Fr V M s0 s) (key0 : V (DBG.EVFLAGS)) (key1 : ∀ u0, V (FCP.POP_MARK u0)) (key2 : ∀ u0, V (FCP.Q_EVFLAGS u0)) (key3 : ∀ u0, V (FCP.Q_OUT u0)) (key4 : ∀ u0, V (FCP.Q_PKTS u0)) (key5 : ∀ u0, V (HDI.STATS u0)) (key6 : V (SUP.LOG_READ)) (key7 : ∀ u0, V (TMU.TXTS_READ u0)) (key8 : ∀ u0, V (addrKey u0)) :
    Fr V M s0 (readReq q o m len v r s) := by
  unfold readReq
  repeat' first
    | with_reducible intro _
    | with_reducible assumption
    | with_reducible apply key0
    | with_reducible apply key1
    | with_reducible apply key2
    | with_reducible apply key3
    | with_reducible apply key4
    | with_reducible apply key5
    | with_reducible apply key6
    | with_reducible apply key7
    | with_reducible apply key8
    | with_reducible apply plainRead_fr
    | with_reducible apply slotRead_fr
    | with_reducible apply snapRead_fr
    | simp only [↓fr_mk_iff]
    | with_reducible apply fr_ite
    | (extract_lets x; first | (with_reducible refine fr_cut (s := x) ?_ ?_; (on_goal 2 => clear_value x); (on_goal 1 => unfold x)) | (subst x))
    | split

theorem execMeshDataFetch_fr (q : Req) (size : Nat) (s : State) (hs : Fr V M s0 s) (key0 : ∀ u0, V (HDI.STATS u0)) (key1 : ∀ u0, V (addrKey u0)) :
    FrOut V M s0 (execMeshDataFetch q size s) := by
  unfold execMeshDataFetch
  repeat' first
    | with_reducible intro _
    | with_reducible assumption
    | with_reducible apply key0
    | with_reducible apply key1
    | with_reducible apply fetchReq_fr
    | simp only [↓fr_mk_iff]
    | with_reducible apply fr_ite
    | with_reducible apply frOut_next
    | with_reducible apply frOut_fault
    | with_reducible apply frOut_ite
    | with_reducible apply unitCmd_fr
    | (extract_lets x; first | (with_reducible refine fr_cut (s := x) ?_ ?_; (on_goal 2 => clear_value x); (on_goal 1 => unfold x)) | (subst x))
    | split

theorem execMemDataFetch_fr (q : Req) (size : Nat) (s : State) (hs : Fr V M s0 s) (key0 : ∀ u0, V (HDI.STATS u0)) (key1 : ∀ u0, V (addrKey u0)) :
    FrOut V M s0 (execMemDataFetch q size s) := by
  unfold execMemDataFetch
  repeat' first
    | with_reducible intro _
    | with_reducible assumption
    | with_reducible apply key0
    | with_reducible apply key1
    | with_reducible apply fetchReq_fr
    | simp only [↓fr_mk_iff]
    | with_reducible apply fr_ite
    | with_reducible apply frOut_next
    | with_reducible apply frOut_fault
    | with_reducible apply frOut_ite
    | with_reducible apply unitCmd_fr
    | (extract_lets x; first | (with_reducible refine fr_cut (s := x) ?_ ?_; (on_goal 2 => clear_value x); (on_goal 1 => unfold x)) | (subst x))
    | split

theorem flushSlot_fr (key0 : ∀ u0, V (LNK.MESH_RESP u0)) (key1 : V (TMU.EVFLAGS)) (key2 : ∀ u0, V (TMU.LANE_FLAGS u0)) (key3 : ∀ u0, V (TMU.TXTS_LOST u0)) (key4 : ∀ u0, V (TMU.TXTS_MADE u0)) (key5 : ∀ u0, V (TMU.TXTS_READ u0)) (k : Nat) : ∀ (z0 : Nat) (z1 : State), Fr V M s0 z1 → Fr V M s0 (flushSlot k z0 z1)
  | 0, _, h => h
  | j + 1, s, h => by
    unfold flushSlot
    split
    · exact flushSlot_fr key0 key1 key2 key3 key4 key5 k j _ (trySend_fr _ _ (modLane_fr _ _ _ (modSlot_fr _ _ _ h)))
    · exact h

theorem fetchDone_fr (master : Nat) (p : Pend) (s : State) (hs : Fr V M s0 s) (key0 : V (HDI.MESH_ERRORS)) (key1 : V (HDI.STATS 0)) (key2 : V (HDI.STATS 4)) (key3 : ∀ u0, V (LNK.MESH_RESP u0)) (key4 : V (TMU.EVFLAGS)) (key5 : ∀ u0, V (TMU.LANE_FLAGS u0)) (key6 : ∀ u0, V (TMU.TXTS_LOST u0)) (key7 : ∀ u0, V (TMU.TXTS_MADE u0)) (key8 : ∀ u0, V (TMU.TXTS_READ u0)) :
    Fr V M s0 (fetchDone master p s) := by
  unfold fetchDone
  repeat' first
    | with_reducible intro _
    | with_reducible assumption
    | with_reducible apply key0
    | with_reducible apply key1
    | with_reducible apply key2
    | with_reducible apply key3
    | with_reducible apply key4
    | with_reducible apply key5
    | with_reducible apply key6
    | with_reducible apply key7
    | with_reducible apply key8
    | with_reducible apply flushSlot_fr
    | with_reducible apply respond_fr
    | with_reducible apply modSlot_fr
    | with_reducible apply modMaster_fr
    | with_reducible apply drawn_fr
    | with_reducible apply raise_fr
    | with_reducible apply bump_fr
    | simp only [↓fr_mk_iff]
    | with_reducible apply fr_ite
    | (extract_lets x; first | (with_reducible refine fr_cut (s := x) ?_ ?_; (on_goal 2 => clear_value x); (on_goal 1 => unfold x)) | (subst x))
    | split

theorem execFetchComplete_fr (master o m : Nat) (s : State) (hs : Fr V M s0 s) (key0 : V (HDI.MESH_ERRORS)) (key1 : V (HDI.STATS 0)) (key2 : V (HDI.STATS 4)) (key3 : ∀ u0, V (LNK.MESH_RESP u0)) (key4 : V (TMU.EVFLAGS)) (key5 : ∀ u0, V (TMU.LANE_FLAGS u0)) (key6 : ∀ u0, V (TMU.TXTS_LOST u0)) (key7 : ∀ u0, V (TMU.TXTS_MADE u0)) (key8 : ∀ u0, V (TMU.TXTS_READ u0)) :
    FrOut V M s0 (execFetchComplete master o m s) := by
  unfold execFetchComplete
  repeat' first
    | with_reducible intro _
    | with_reducible assumption
    | with_reducible apply key3
    | with_reducible apply key5
    | with_reducible apply key6
    | with_reducible apply key7
    | with_reducible apply key8
    | with_reducible apply fetchDone_fr
    | with_reducible apply frOut_next
    | with_reducible apply frOut_fault
    | split

theorem memError_fr (s : State) (hs : Fr V M s0 s) (key0 : V (DBG.EVFLAGS)) (key1 : V (DBG.MEM_STATUS)) :
    Fr V M s0 (memError s) := by
  unfold memError
  repeat' first
    | with_reducible intro _
    | with_reducible assumption
    | with_reducible apply dbgFlag_fr
    | with_reducible apply setBit_fr

theorem meshDataDone_fr (dbg : Bool) (master : Nat) (r : MeshReq) (kind data : Nat) (s : State) (hs : Fr V M s0 s) (key0 : V (DBG.EVFLAGS)) (key1 : V (DBG.MEM_STATUS)) (key2 : V (HDI.MESH_ERRORS)) :
    Fr V M s0 (meshDataDone dbg master r kind data s) := by
  unfold meshDataDone
  repeat' first
    | with_reducible intro _
    | with_reducible assumption
    | with_reducible apply modMaster_fr
    | with_reducible apply memError_fr
    | with_reducible apply bump_fr
    | simp only [↓fr_mk_iff]
    | with_reducible apply fr_ite
    | (extract_lets x; first | (with_reducible refine fr_cut (s := x) ?_ ?_; (on_goal 2 => clear_value x); (on_goal 1 => unfold x)) | (subst x))
    | split

theorem show'_fr (b : BusOut) (s : State) (hs : Fr V M s0 s) :
    Fr V M s0 (show' b s) := by
  unfold show'
  repeat' first
    | with_reducible intro _
    | with_reducible assumption
    | with_reducible apply modI3c_fr
    | simp only [↓fr_mk_iff]

theorem direct_fr (dest : Nat) (f : State → State) (s : State) (hf : ∀ (y0 : State), Fr V M s0 y0 → Fr V M s0 (f y0)) (hs : Fr V M s0 s) :
    Fr V M s0 (direct dest f s) := by
  unfold direct
  repeat' first
    | with_reducible intro _
    | with_reducible assumption
    | with_reducible apply hf
    | with_reducible apply show'_fr
    | with_reducible apply fr_ite
    | split

theorem broadcast_fr (f : State → State) (s : State) (hf : ∀ (y0 : State), Fr V M s0 y0 → Fr V M s0 (f y0)) (hs : Fr V M s0 s) :
    Fr V M s0 (broadcast f s) := by
  unfold broadcast
  repeat' first
    | with_reducible intro _
    | with_reducible assumption
    | with_reducible apply hf
    | with_reducible apply fr_ite
    | split

theorem either_fr (dest : Option Nat) (f : State → State) (s : State) (hf : ∀ (y0 : State), Fr V M s0 y0 → Fr V M s0 (f y0)) (hs : Fr V M s0 s) :
    Fr V M s0 (either dest f s) := by
  unfold either
  repeat' first
    | with_reducible intro _
    | with_reducible assumption
    | with_reducible apply hf
    | with_reducible apply direct_fr
    | with_reducible apply broadcast_fr
    | split

theorem takeCcc_fr (f : I3cS → I3cS) (s : State) (hs : Fr V M s0 s) :
    Fr V M s0 (takeCcc f s) := by
  unfold takeCcc
  repeat' first
    | with_reducible intro _
    | with_reducible assumption
    | with_reducible apply modI3c_fr
    | simp only [↓fr_mk_iff]

theorem takeAddr_fr (a : Nat) (s : State) (hs : Fr V M s0 s) :
    Fr V M s0 (takeAddr a s) := by
  unfold takeAddr
  repeat' first
    | with_reducible intro _
    | with_reducible assumption
    | with_reducible apply takeCcc_fr
    | simp only [↓fr_mk_iff]

theorem execEnec_fr (dest : Option Nat) (events : Nat) (s : State) (hs : Fr V M s0 s) :
    FrOut V M s0 (execEnec dest events s) := by
  unfold execEnec
  repeat' first
    | with_reducible intro _
    | with_reducible assumption
    | with_reducible apply either_fr
    | with_reducible apply takeCcc_fr
    | with_reducible apply frOut_next
    | with_reducible apply frOut_fault
    | simp only [↓fr_mk_iff]

theorem execDisec_fr (dest : Option Nat) (events : Nat) (s : State) (hs : Fr V M s0 s) :
    FrOut V M s0 (execDisec dest events s) := by
  unfold execDisec
  repeat' first
    | with_reducible intro _
    | with_reducible assumption
    | with_reducible apply either_fr
    | with_reducible apply takeCcc_fr
    | with_reducible apply frOut_next
    | with_reducible apply frOut_fault
    | simp only [↓fr_mk_iff]

theorem execRstdaa_fr (s : State) (hs : Fr V M s0 s) :
    FrOut V M s0 (execRstdaa s) := by
  unfold execRstdaa
  repeat' first
    | with_reducible intro _
    | with_reducible assumption
    | with_reducible apply broadcast_fr
    | with_reducible apply takeCcc_fr
    | with_reducible apply frOut_next
    | with_reducible apply frOut_fault
    | simp only [↓fr_mk_iff]

theorem execEntdaa_fr (addr : Nat) (rivals : List Nat) (s : State) (hs : Fr V M s0 s) :
    FrOut V M s0 (execEntdaa addr rivals s) := by
  unfold execEntdaa
  repeat' first
    | with_reducible intro _
    | with_reducible assumption
    | with_reducible apply broadcast_fr
    | with_reducible apply takeAddr_fr
    | with_reducible apply frOut_next
    | with_reducible apply frOut_fault
    | with_reducible apply frOut_ite
    | with_reducible apply fr_ite
    | split

theorem execSetaasa_fr (s : State) (hs : Fr V M s0 s) :
    FrOut V M s0 (execSetaasa s) := by
  unfold execSetaasa
  repeat' first
    | with_reducible intro _
    | with_reducible assumption
    | with_reducible apply broadcast_fr
    | with_reducible apply takeAddr_fr
    | with_reducible apply frOut_next
    | with_reducible apply frOut_fault
    | with_reducible apply frOut_ite
    | with_reducible apply fr_ite
    | split

theorem execSetdasa_fr (dest addr : Nat) (s : State) (hs : Fr V M s0 s) :
    FrOut V M s0 (execSetdasa dest addr s) := by
  unfold execSetdasa
  repeat' first
    | with_reducible intro _
    | with_reducible assumption
    | with_reducible apply takeAddr_fr
    | with_reducible apply show'_fr
    | with_reducible apply frOut_next
    | with_reducible apply frOut_fault
    | with_reducible apply frOut_ite
    | with_reducible apply fr_ite
    | split

theorem execSetnewda_fr (dest addr : Nat) (s : State) (hs : Fr V M s0 s) :
    FrOut V M s0 (execSetnewda dest addr s) := by
  unfold execSetnewda
  repeat' first
    | with_reducible intro _
    | with_reducible assumption
    | with_reducible apply direct_fr
    | with_reducible apply takeAddr_fr
    | with_reducible apply frOut_next
    | with_reducible apply frOut_fault

theorem execSetmwl_fr (dest : Option Nat) (v : Nat) (s : State) (hs : Fr V M s0 s) :
    FrOut V M s0 (execSetmwl dest v s) := by
  unfold execSetmwl
  repeat' first
    | with_reducible intro _
    | with_reducible assumption
    | with_reducible apply either_fr
    | with_reducible apply takeCcc_fr
    | with_reducible apply frOut_next
    | with_reducible apply frOut_fault
    | simp only [↓fr_mk_iff]

theorem execSetmrl_fr (dest : Option Nat) (v : Nat) (s : State) (hs : Fr V M s0 s) :
    FrOut V M s0 (execSetmrl dest v s) := by
  unfold execSetmrl
  repeat' first
    | with_reducible intro _
    | with_reducible assumption
    | with_reducible apply either_fr
    | with_reducible apply takeCcc_fr
    | with_reducible apply frOut_next
    | with_reducible apply frOut_fault
    | simp only [↓fr_mk_iff]

theorem execGetmwl_fr (dest : Nat) (s : State) (hs : Fr V M s0 s) :
    FrOut V M s0 (execGetmwl dest s) := by
  unfold execGetmwl
  repeat' first
    | with_reducible intro _
    | with_reducible assumption
    | with_reducible apply direct_fr
    | with_reducible apply show'_fr
    | with_reducible apply frOut_next
    | with_reducible apply frOut_fault

theorem execGetmrl_fr (dest : Nat) (s : State) (hs : Fr V M s0 s) :
    FrOut V M s0 (execGetmrl dest s) := by
  unfold execGetmrl
  repeat' first
    | with_reducible intro _
    | with_reducible assumption
    | with_reducible apply direct_fr
    | with_reducible apply show'_fr
    | with_reducible apply frOut_next
    | with_reducible apply frOut_fault

theorem execGetpid_fr (dest : Nat) (s : State) (hs : Fr V M s0 s) :
    FrOut V M s0 (execGetpid dest s) := by
  unfold execGetpid
  repeat' first
    | with_reducible intro _
    | with_reducible assumption
    | with_reducible apply direct_fr
    | with_reducible apply show'_fr
    | with_reducible apply frOut_next
    | with_reducible apply frOut_fault

theorem execGetbcr_fr (dest : Nat) (s : State) (hs : Fr V M s0 s) :
    FrOut V M s0 (execGetbcr dest s) := by
  unfold execGetbcr
  repeat' first
    | with_reducible intro _
    | with_reducible assumption
    | with_reducible apply direct_fr
    | with_reducible apply show'_fr
    | with_reducible apply frOut_next
    | with_reducible apply frOut_fault

theorem execGetdcr_fr (dest : Nat) (s : State) (hs : Fr V M s0 s) :
    FrOut V M s0 (execGetdcr dest s) := by
  unfold execGetdcr
  repeat' first
    | with_reducible intro _
    | with_reducible assumption
    | with_reducible apply direct_fr
    | with_reducible apply show'_fr
    | with_reducible apply frOut_next
    | with_reducible apply frOut_fault

theorem execGetstatus_fr (dest : Nat) (s : State) (hs : Fr V M s0 s) :
    FrOut V M s0 (execGetstatus dest s) := by
  unfold execGetstatus
  repeat' first
    | with_reducible intro _
    | with_reducible assumption
    | with_reducible apply direct_fr
    | with_reducible apply show'_fr
    | with_reducible apply drawn_fr
    | with_reducible apply frOut_next
    | with_reducible apply frOut_fault

theorem execEnthdr0_fr (s : State) (hs : Fr V M s0 s) :
    FrOut V M s0 (execEnthdr0 s) := by
  unfold execEnthdr0
  repeat' first
    | with_reducible intro _
    | with_reducible assumption
    | with_reducible apply broadcast_fr
    | with_reducible apply takeCcc_fr
    | with_reducible apply frOut_next
    | with_reducible apply frOut_fault
    | simp only [↓fr_mk_iff]

theorem execEnthdrUnsupported_fr (k : Nat) (s : State) (hs : Fr V M s0 s) :
    FrOut V M s0 (execEnthdrUnsupported k s) := by
  unfold execEnthdrUnsupported
  repeat' first
    | with_reducible intro _
    | with_reducible assumption
    | with_reducible apply broadcast_fr
    | with_reducible apply modI3c_fr
    | with_reducible apply frOut_next
    | with_reducible apply frOut_fault
    | with_reducible apply frOut_ite
    | simp only [↓fr_mk_iff]
    | with_reducible apply fr_ite
    | split

theorem execHdrExit_fr (s : State) (hs : Fr V M s0 s) :
    FrOut V M s0 (execHdrExit s) := by
  unfold execHdrExit
  repeat' first
    | with_reducible intro _
    | with_reducible assumption
    | with_reducible apply modI3c_fr
    | with_reducible apply frOut_next
    | with_reducible apply frOut_fault
    | with_reducible apply frOut_ite
    | simp only [↓fr_mk_iff]
    | with_reducible apply fr_ite
    | split

theorem execRstact_fr (dest : Option Nat) (b : Nat) (s : State) (hs : Fr V M s0 s) :
    FrOut V M s0 (execRstact dest b s) := by
  unfold execRstact
  repeat' first
    | with_reducible intro _
    | with_reducible assumption
    | with_reducible apply either_fr
    | with_reducible apply takeCcc_fr
    | with_reducible apply frOut_next
    | with_reducible apply frOut_fault
    | simp only [↓fr_mk_iff]

theorem frontReset_fr (s : State) (hs : Fr V M s0 s) :
    Fr V M s0 (frontReset s) := by
  unfold frontReset
  repeat' first
    | with_reducible intro _
    | with_reducible assumption
    | with_reducible apply modI3c_fr
    | with_reducible apply modMaster_fr
    | simp only [↓fr_mk_iff]

theorem execUnsupportedCcc_fr (dest : Option Nat) (s : State) (hs : Fr V M s0 s) :
    FrOut V M s0 (execUnsupportedCcc dest s) := by
  unfold execUnsupportedCcc
  repeat' first
    | with_reducible intro _
    | with_reducible assumption
    | with_reducible apply direct_fr
    | with_reducible apply show'_fr
    | with_reducible apply frOut_next
    | with_reducible apply frOut_fault
    | simp only [↓fr_mk_iff]
    | split

theorem readBuffer_fr (s : State) (hs : Fr V M s0 s) :
    Fr V M s0 (readBuffer s) := by
  unfold readBuffer
  repeat' first
    | with_reducible intro _
    | with_reducible assumption
    | with_reducible apply show'_fr
    | (extract_lets x; first | (with_reducible refine fr_cut (s := x) ?_ ?_; (on_goal 2 => clear_value x); (on_goal 1 => unfold x)) | (subst x))

set_option Elab.async false in
theorem execResponseRead_fr (s : State) (hs : Fr V M s0 s) :
    FrOut V M s0 (execResponseRead s) := by
  unfold execResponseRead
  repeat' first
    | with_reducible intro _
    | with_reducible assumption
    | with_reducible apply readBuffer_fr
    | with_reducible apply frOut_next
    | with_reducible apply frOut_fault
    | with_reducible apply frOut_ite
    | with_reducible apply fr_ite
    | split

end Sys2Proof.Laws
end

