-- ==== Sys2Proof/Laws/FrameMgmt.lean ====
section
/-! SUPPORT. Which members every operation of Machine/Mgmt.lean can change, and whether it can change the memory. -/
namespace Sys2Proof.Laws
open Sys2Proof Sys2Proof.Machine
set_option linter.unusedVariables false
set_option linter.unusedTactic false
set_option linter.unreachableTactic false

variable {V : Nat → Prop} {M : Prop} {s0 : State}

theorem bindSlot_fr (k n src : Nat) (s : State) (hs : Fr V M s0 s) (key0 : V (HDI.SLOT (k - 1))) :
    Fr V M s0 (bindSlot k n src s) := by
  unfold bindSlot
  repeat' first
    | with_reducible intro _
    | with_reducible assumption
    | with_reducible apply wr_fr
    | with_reducible apply modSlot_fr

theorem noSlot_fr (n src f : Nat) (s : State) (hs : Fr V M s0 s) (key0 : V (HDI.STATS 8)) (key1 : ∀ u0, V (LNK.MESH_RESP u0)) (key2 : V (TMU.EVFLAGS)) (key3 : ∀ u0, V (TMU.LANE_FLAGS u0)) (key4 : ∀ u0, V (TMU.TXTS_LOST u0)) (key5 : ∀ u0, V (TMU.TXTS_MADE u0)) (key6 : ∀ u0, V (TMU.TXTS_READ u0)) :
    Fr V M s0 (noSlot n src f s) := by
  unfold noSlot
  repeat' first
    | with_reducible intro _
    | with_reducible assumption
    | with_reducible apply key1
    | with_reducible apply key3
    | with_reducible apply key4
    | with_reducible apply key5
    | with_reducible apply key6
    | with_reducible apply trySend_fr
    | with_reducible apply bump_fr
    | with_reducible apply modLane_fr
    | with_reducible apply raise_fr
    | simp only [↓fr_mk_iff]
    | (extract_lets x; first | (with_reducible refine fr_cut (s := x) ?_ ?_; (on_goal 2 => clear_value x); (on_goal 1 => unfold x)) | (subst x))

set_option Elab.async false in
theorem execMgmtSlotIdleTimeout_fr (k : Nat) (s : State) (hs : Fr V M s0 s) (key0 : V (DBG.STATUS)) (key1 : V (HDI.MIRROR_OWNER)) (key2 : V (HDI.MIRROR_STATE)) (key3 : V (HDI.SLOT (k - 1))) :
    FrOut V M s0 (execMgmtSlotIdleTimeout k s) := by
  unfold execMgmtSlotIdleTimeout
  repeat' first
    | with_reducible intro _
    | with_reducible assumption
    | with_reducible apply releaseSlot_fr
    | with_reducible apply upto_fr
    | with_reducible apply frOut_next
    | with_reducible apply frOut_fault
    | with_reducible apply frOut_ite
    | with_reducible apply fr_ite
    | split

end Sys2Proof.Laws
end

