-- ==== Sys2Proof/Laws/FrameDeliver.lean ====
section
/-! SUPPORT. Which members every operation of Machine/Deliver.lean can change, and whether it can change the memory. -/
namespace Sys2Proof.Laws
open Sys2Proof Sys2Proof.Machine
set_option linter.unusedVariables false
set_option linter.unusedTactic false
set_option linter.unreachableTactic false

variable {V : Nat → Prop} {M : Prop} {s0 : State}

theorem ringAnswered_fr (q : Nat) (x : MeshResp) (s : State) (hs : Fr V M s0 s) (key0 : V (FCP.Q_ERR_WORDS q)) (key1 : V (FCP.Q_EVFLAGS q)) (key2 : V (FCP.Q_FLUSHED q)) (key3 : V (FCP.Q_STATE q)) (key4 : V (FCP.Q_PKTS q)) :
    Fr V M s0 (ringAnswered q x s) := by
  unfold ringAnswered
  repeat' first
    | with_reducible intro _
    | with_reducible assumption
    | with_reducible apply key0
    | with_reducible apply key1
    | with_reducible apply key2
    | with_reducible apply key3
    | with_reducible apply key4
    | with_reducible apply ringReadDone_fr
    | simp only [↓fr_mk_iff]
    | with_reducible apply fr_ite
    | (extract_lets x; first | (with_reducible refine fr_cut (s := x) ?_ ?_; (on_goal 2 => clear_value x); (on_goal 1 => unfold x)) | (subst x))
    | split

theorem respDone_fr (x : MeshResp) (s : State) (hs : Fr V M s0 s) (key0 : ∀ u0, V (CFG.FACET_STATE u0)) (key1 : V (CFG.LOAD_BYTES)) (key2 : V (CFG.LOAD_CAUSE)) (key3 : V (CFG.LOAD_FAIL_AT)) (key4 : V (CFG.LOAD_STATE)) (key5 : V (CFG.LOAD_STATUS)) (key6 : V (CFG.LOAD_TIME)) (key7 : ∀ u0, V (CFG.LOUPE_SRC_ADDR u0)) (key8 : ∀ u0, V (CFG.LOUPE_SRC_TYPE u0)) (key9 : V (DBG.EVFLAGS)) (key10 : V (DBG.MEM_STATUS)) (key11 : ∀ u0, V (DSP.FLAGS u0)) (key12 : ∀ u0, V (DSP.MOVE_DONE u0)) (key13 : ∀ u0, V (DSP.MOVE_ERR u0)) (key14 : ∀ u0, V (DSP.MOVE_INFLIGHT u0)) (key15 : ∀ u0, V (DSP.MOVE_ISSUED u0)) (key16 : ∀ u0, V (FAB.MESH_DISCARD u0)) (key17 : ∀ u0, V (FAB.MESH_DONE u0)) (key18 : ∀ u0, V (FCP.BM_DONE u0)) (key19 : ∀ u0, V (FCP.BM_ERR u0)) (key20 : ∀ u0, V (FCP.BM_INFLIGHT u0)) (key21 : ∀ u0, V (FCP.Q_ERR_WORDS u0)) (key22 : ∀ u0, V (FCP.Q_EVFLAGS u0)) (key23 : ∀ u0, V (FCP.Q_FLUSHED u0)) (key24 : ∀ u0, V (FCP.Q_STATE u0)) (key25 : V (HDI.MESH_ERRORS)) (key26 : ∀ u0, V (LNK.MESH_RESP u0)) (key27 : M) (key28 : V (TMU.EVFLAGS)) (key29 : ∀ u0, V (TMU.LANE_FLAGS u0)) (key30 : ∀ u0, V (TMU.TXTS_LOST u0)) (key31 : ∀ u0, V (TMU.TXTS_MADE u0)) (key32 : ∀ u0, V (TMU.TXTS_READ u0)) (key33 : ∀ u0, V (VEN.REFILL_DONE u0)) (key34 : ∀ u0, V (FCP.Q_PKTS u0)) (key35 : ∀ u0, V (DSP.CYCLES u0)) (key36 : ∀ u0, V (DSP.FAULT u0)) (key37 : ∀ u0, V (DSP.FAULT_PC u0)) (key38 : ∀ u0, V (DSP.MOVE_DROPPED u0)) (key39 : ∀ u0, V (DSP.STATE u0)) (key40 : ∀ u0, V (DSP.WDOG_LEFT u0)) (key41 : ∀ u0, V (SCR.CE u0)) (key42 : ∀ u0, V (SCR.EVFLAGS u0)) (key43 : ∀ u0, V (SCR.UE u0)) (key44 : ∀ u0, V (SCR.COLLIDE u0)) (key45 : ∀ u0, V (DSP.STALLS u0)) (key46 : ∀ u0, V (CFG.FACET_LOADS u0)) (key47 : ∀ u0, V (FAB.DESIGN_ID u0)) :
    Fr V M s0 (respDone x s) := by
  unfold respDone
  repeat' first
    | with_reducible intro _
    | with_reducible assumption
    | with_reducible apply key0
    | with_reducible apply key1
    | with_reducible apply key2
    | with_reducible apply key3
    | with_reducible apply key4
    | with_reducible apply key5
    | with_reducible apply key6
    | with_reducible apply key7
    | with_reducible apply key8
    | with_reducible apply key9
    | with_reducible apply key10
    | with_reducible apply key11
    | with_reducible apply key12
    | with_reducible apply key13
    | with_reducible apply key14
    | with_reducible apply key15
    | with_reducible apply key16
    | with_reducible apply key17
    | with_reducible apply key18
    | with_reducible apply key19
    | with_reducible apply key20
    | with_reducible apply key21
    | with_reducible apply key22
    | with_reducible apply key23
    | with_reducible apply key24
    | with_reducible apply key25
    | with_reducible apply key26
    | with_reducible apply key27
    | with_reducible apply key28
    | with_reducible apply key29
    | with_reducible apply key30
    | with_reducible apply key31
    | with_reducible apply key32
    | with_reducible apply key33
    | with_reducible apply key34
    | with_reducible apply key35
    | with_reducible apply key36
    | with_reducible apply key37
    | with_reducible apply key38
    | with_reducible apply key39
    | with_reducible apply key40
    | with_reducible apply key41
    | with_reducible apply key42
    | with_reducible apply key43
    | with_reducible apply key44
    | with_reducible apply key45
    | with_reducible apply key46
    | with_reducible apply key47
    | with_reducible apply ringAnswered_fr
    | with_reducible apply meshDataDone_fr
    | with_reducible apply ringWriteDone_fr
    | with_reducible apply bitmapDone_fr
    | with_reducible apply cryptoDone_fr
    | with_reducible apply reloadDone_fr
    | with_reducible apply flpDone_fr
    | with_reducible apply moveDone_fr
    | with_reducible apply gateDone_fr
    | with_reducible apply moveAnswered_fr
    | with_reducible apply streamDone_fr
    | with_reducible apply laneDone_fr
    | with_reducible apply facetDone_fr
    | with_reducible apply lineDone_fr
    | with_reducible apply respTaken_fr
    | simp only [↓fr_mk_iff]
    | with_reducible apply fr_ite
    | (extract_lets x; first | (with_reducible refine fr_cut (s := x) ?_ ?_; (on_goal 2 => clear_value x); (on_goal 1 => unfold x)) | (subst x))
    | split

theorem noteReturn_fr (fl : List Flit) (x : MeshResp) (s : State) (hs : Fr V M s0 s) (key0 : V (MSH.EVFLAGS)) (key1 : ∀ u0, V (MSH.PFLITS u0)) (key2 : ∀ u0, V (MSH.PPKTS u0)) (key3 : V (MSH.TLOST)) (key4 : ∀ u0, V (MSH.LINK_CE u0)) (key5 : ∀ u0, V (MSH.LINK_UE u0)) :
    Fr V M s0 (noteReturn fl x s) := by
  unfold noteReturn
  repeat' first
    | with_reducible intro _
    | with_reducible assumption
    | with_reducible apply key0
    | with_reducible apply key1
    | with_reducible apply key2
    | with_reducible apply key3
    | with_reducible apply key4
    | with_reducible apply key5
    | with_reducible apply flitsNoted_fr
    | with_reducible apply probesSee_fr
    | simp only [↓fr_mk_iff]
    | with_reducible apply fr_ite
    | (extract_lets x; first | (with_reducible refine fr_cut (s := x) ?_ ?_; (on_goal 2 => clear_value x); (on_goal 1 => unfold x)) | (subst x))
    | split

theorem returnBy_fr (done : MeshResp → State → State) (fl : List Flit) (x : MeshResp) (s : State)
    (hd : ∀ y t, Fr V M s0 t → Fr V M s0 (done y t)) (hs : Fr V M s0 s) (key0 : V (MSH.EVFLAGS)) (key1 : ∀ u0, V (MSH.PFLITS u0)) (key2 : ∀ u0, V (MSH.PPKTS u0)) (key3 : V (MSH.TLOST)) (key4 : ∀ u0, V (MSH.LINK_CE u0)) (key5 : ∀ u0, V (MSH.LINK_UE u0)) :
    Fr V M s0 (returnBy done fl x s) := by
  unfold returnBy
  refine fr_ite (hd _ _ ?_) hs
  exact noteReturn_fr _ _ _ hs key0 key1 key2 key3 key4 key5

theorem deliver_fr (kind : Nat) (r : MeshReq) (fl : List Flit) (s : State) (hs : Fr V M s0 s) (key0 : ∀ u0, V (CFG.FACET_STATE u0)) (key1 : V (CFG.LOAD_BYTES)) (key2 : V (CFG.LOAD_CAUSE)) (key3 : V (CFG.LOAD_FAIL_AT)) (key4 : V (CFG.LOAD_STATE)) (key5 : V (CFG.LOAD_STATUS)) (key6 : V (CFG.LOAD_TIME)) (key7 : ∀ u0, V (CFG.LOUPE_SRC_ADDR u0)) (key8 : ∀ u0, V (CFG.LOUPE_SRC_TYPE u0)) (key9 : V (DBG.EVFLAGS)) (key10 : V (DBG.MEM_STATUS)) (key11 : ∀ u0, V (DSP.FLAGS u0)) (key12 : ∀ u0, V (DSP.MOVE_DONE u0)) (key13 : ∀ u0, V (DSP.MOVE_ERR u0)) (key14 : ∀ u0, V (DSP.MOVE_INFLIGHT u0)) (key15 : ∀ u0, V (DSP.MOVE_ISSUED u0)) (key16 : ∀ u0, V (FAB.MESH_DISCARD u0)) (key17 : ∀ u0, V (FAB.MESH_DONE u0)) (key18 : ∀ u0, V (FCP.BM_DONE u0)) (key19 : ∀ u0, V (FCP.BM_ERR u0)) (key20 : ∀ u0, V (FCP.BM_INFLIGHT u0)) (key21 : ∀ u0, V (FCP.Q_ERR_WORDS u0)) (key22 : ∀ u0, V (FCP.Q_EVFLAGS u0)) (key23 : ∀ u0, V (FCP.Q_FLUSHED u0)) (key24 : ∀ u0, V (FCP.Q_STATE u0)) (key25 : V (HDI.MESH_ERRORS)) (key26 : ∀ u0, V (LNK.MESH_RESP u0)) (key27 : M) (key28 : V (MSH.EVFLAGS)) (key29 : ∀ u0, V (MSH.LINK_CE u0)) (key30 : ∀ u0, V (MSH.LINK_UE u0)) (key31 : ∀ u0, V (MSH.PFLITS u0)) (key32 : ∀ u0, V (MSH.PPKTS u0)) (key33 : V (MSH.TLOST)) (key34 : V (TMU.EVFLAGS)) (key35 : ∀ u0, V (TMU.LANE_FLAGS u0)) (key36 : ∀ u0, V (TMU.TXTS_LOST u0)) (key37 : ∀ u0, V (TMU.TXTS_MADE u0)) (key38 : ∀ u0, V (TMU.TXTS_READ u0)) (key39 : ∀ u0, V (VEN.REFILL_DONE u0)) (key40 : ∀ u0, V (FCP.Q_PKTS u0)) (key41 : ∀ u0, V (DSP.CYCLES u0)) (key42 : ∀ u0, V (DSP.FAULT u0)) (key43 : ∀ u0, V (DSP.FAULT_PC u0)) (key44 : ∀ u0, V (DSP.MOVE_DROPPED u0)) (key45 : ∀ u0, V (DSP.STATE u0)) (key46 : ∀ u0, V (DSP.WDOG_LEFT u0)) (key47 : ∀ u0, V (SCR.CE u0)) (key48 : ∀ u0, V (SCR.EVFLAGS u0)) (key49 : ∀ u0, V (SCR.UE u0)) (key50 : ∀ u0, V (SCR.COLLIDE u0)) (key51 : ∀ u0, V (DSP.STALLS u0)) (key52 : ∀ u0, V (CFG.FACET_LOADS u0)) (key53 : ∀ u0, V (FAB.DESIGN_ID u0)) :
    Fr V M s0 (deliver kind r fl s) := by
  unfold deliver
  repeat' first
    | with_reducible intro _
    | with_reducible assumption
    | with_reducible apply key0
    | with_reducible apply key1
    | with_reducible apply key2
    | with_reducible apply key3
    | with_reducible apply key4
    | with_reducible apply key5
    | with_reducible apply key6
    | with_reducible apply key7
    | with_reducible apply key8
    | with_reducible apply key9
    | with_reducible apply key10
    | with_reducible apply key11
    | with_reducible apply key12
    | with_reducible apply key13
    | with_reducible apply key14
    | with_reducible apply key15
    | with_reducible apply key16
    | with_reducible apply key17
    | with_reducible apply key18
    | with_reducible apply key19
    | with_reducible apply key20
    | with_reducible apply key21
    | with_reducible apply key22
    | with_reducible apply key23
    | with_reducible apply key24
    | with_reducible apply key25
    | with_reducible apply key26
    | with_reducible apply key27
    | with_reducible apply key28
    | with_reducible apply key29
    | with_reducible apply key30
    | with_reducible apply key31
    | with_reducible apply key32
    | with_reducible apply key33
    | with_reducible apply key34
    | with_reducible apply key35
    | with_reducible apply key36
    | with_reducible apply key37
    | with_reducible apply key38
    | with_reducible apply key39
    | with_reducible apply key40
    | with_reducible apply key41
    | with_reducible apply key42
    | with_reducible apply key43
    | with_reducible apply key44
    | with_reducible apply key45
    | with_reducible apply key46
    | with_reducible apply key47
    | with_reducible apply key48
    | with_reducible apply key49
    | with_reducible apply key50
    | with_reducible apply key51
    | with_reducible apply key52
    | with_reducible apply key53
    | with_reducible apply returnBy_fr
    | with_reducible apply respDone_fr
    | simp only [↓fr_mk_iff]
    | with_reducible apply fr_ite
    | (extract_lets x; first | (with_reducible refine fr_cut (s := x) ?_ ?_; (on_goal 2 => clear_value x); (on_goal 1 => unfold x)) | (subst x))
    | split

theorem execMeshDataResponse_fr (r : MeshReq) (fl : List Flit) (s : State) (hs : Fr V M s0 s) (key0 : ∀ u0, V (CFG.FACET_STATE u0)) (key1 : V (CFG.LOAD_BYTES)) (key2 : V (CFG.LOAD_CAUSE)) (key3 : V (CFG.LOAD_FAIL_AT)) (key4 : V (CFG.LOAD_STATE)) (key5 : V (CFG.LOAD_STATUS)) (key6 : V (CFG.LOAD_TIME)) (key7 : ∀ u0, V (CFG.LOUPE_SRC_ADDR u0)) (key8 : ∀ u0, V (CFG.LOUPE_SRC_TYPE u0)) (key9 : V (DBG.EVFLAGS)) (key10 : V (DBG.MEM_STATUS)) (key11 : ∀ u0, V (DSP.FLAGS u0)) (key12 : ∀ u0, V (DSP.MOVE_DONE u0)) (key13 : ∀ u0, V (DSP.MOVE_ERR u0)) (key14 : ∀ u0, V (DSP.MOVE_INFLIGHT u0)) (key15 : ∀ u0, V (DSP.MOVE_ISSUED u0)) (key16 : ∀ u0, V (FAB.MESH_DISCARD u0)) (key17 : ∀ u0, V (FAB.MESH_DONE u0)) (key18 : ∀ u0, V (FCP.BM_DONE u0)) (key19 : ∀ u0, V (FCP.BM_ERR u0)) (key20 : ∀ u0, V (FCP.BM_INFLIGHT u0)) (key21 : ∀ u0, V (FCP.Q_ERR_WORDS u0)) (key22 : ∀ u0, V (FCP.Q_EVFLAGS u0)) (key23 : ∀ u0, V (FCP.Q_FLUSHED u0)) (key24 : ∀ u0, V (FCP.Q_STATE u0)) (key25 : V (HDI.MESH_ERRORS)) (key26 : ∀ u0, V (LNK.MESH_RESP u0)) (key27 : M) (key28 : V (MSH.EVFLAGS)) (key29 : ∀ u0, V (MSH.LINK_CE u0)) (key30 : ∀ u0, V (MSH.LINK_UE u0)) (key31 : ∀ u0, V (MSH.PFLITS u0)) (key32 : ∀ u0, V (MSH.PPKTS u0)) (key33 : V (MSH.TLOST)) (key34 : V (TMU.EVFLAGS)) (key35 : ∀ u0, V (TMU.LANE_FLAGS u0)) (key36 : ∀ u0, V (TMU.TXTS_LOST u0)) (key37 : ∀ u0, V (TMU.TXTS_MADE u0)) (key38 : ∀ u0, V (TMU.TXTS_READ u0)) (key39 : ∀ u0, V (VEN.REFILL_DONE u0)) (key40 : ∀ u0, V (FCP.Q_PKTS u0)) (key41 : ∀ u0, V (DSP.CYCLES u0)) (key42 : ∀ u0, V (DSP.FAULT u0)) (key43 : ∀ u0, V (DSP.FAULT_PC u0)) (key44 : ∀ u0, V (DSP.MOVE_DROPPED u0)) (key45 : ∀ u0, V (DSP.STATE u0)) (key46 : ∀ u0, V (DSP.WDOG_LEFT u0)) (key47 : ∀ u0, V (SCR.CE u0)) (key48 : ∀ u0, V (SCR.EVFLAGS u0)) (key49 : ∀ u0, V (SCR.UE u0)) (key50 : ∀ u0, V (SCR.COLLIDE u0)) (key51 : ∀ u0, V (DSP.STALLS u0)) (key52 : ∀ u0, V (CFG.FACET_LOADS u0)) (key53 : ∀ u0, V (FAB.DESIGN_ID u0)) :
    FrOut V M s0 (execMeshDataResponse r fl s) := by
  unfold execMeshDataResponse
  repeat' first
    | with_reducible intro _
    | with_reducible assumption
    | with_reducible apply key0
    | with_reducible apply key1
    | with_reducible apply key2
    | with_reducible apply key3
    | with_reducible apply key4
    | with_reducible apply key5
    | with_reducible apply key6
    | with_reducible apply key7
    | with_reducible apply key8
    | with_reducible apply key9
    | with_reducible apply key10
    | with_reducible apply key11
    | with_reducible apply key12
    | with_reducible apply key13
    | with_reducible apply key14
    | with_reducible apply key15
    | with_reducible apply key16
    | with_reducible apply key17
    | with_reducible apply key18
    | with_reducible apply key19
    | with_reducible apply key20
    | with_reducible apply key21
    | with_reducible apply key22
    | with_reducible apply key23
    | with_reducible apply key24
    | with_reducible apply key25
    | with_reducible apply key26
    | with_reducible apply key27
    | with_reducible apply key28
    | with_reducible apply key29
    | with_reducible apply key30
    | with_reducible apply key31
    | with_reducible apply key32
    | with_reducible apply key33
    | with_reducible apply key34
    | with_reducible apply key35
    | with_reducible apply key36
    | with_reducible apply key37
    | with_reducible apply key38
    | with_reducible apply key39
    | with_reducible apply key40
    | with_reducible apply key41
    | with_reducible apply key42
    | with_reducible apply key43
    | with_reducible apply key44
    | with_reducible apply key45
    | with_reducible apply key46
    | with_reducible apply key47
    | with_reducible apply key48
    | with_reducible apply key49
    | with_reducible apply key50
    | with_reducible apply key51
    | with_reducible apply key52
    | with_reducible apply key53
    | with_reducible apply deliver_fr
    | simp only [↓fr_mk_iff]
    | with_reducible apply fr_ite
    | with_reducible apply frOut_next
    | with_reducible apply frOut_fault
    | with_reducible apply frOut_ite
    | with_reducible apply unitCmd_fr
    | (extract_lets x; first | (with_reducible refine fr_cut (s := x) ?_ ?_; (on_goal 2 => clear_value x); (on_goal 1 => unfold x)) | (subst x))
    | split

theorem execMeshAckResponse_fr (r : MeshReq) (fl : List Flit) (s : State) (hs : Fr V M s0 s) (key0 : ∀ u0, V (CFG.FACET_STATE u0)) (key1 : V (CFG.LOAD_BYTES)) (key2 : V (CFG.LOAD_CAUSE)) (key3 : V (CFG.LOAD_FAIL_AT)) (key4 : V (CFG.LOAD_STATE)) (key5 : V (CFG.LOAD_STATUS)) (key6 : V (CFG.LOAD_TIME)) (key7 : ∀ u0, V (CFG.LOUPE_SRC_ADDR u0)) (key8 : ∀ u0, V (CFG.LOUPE_SRC_TYPE u0)) (key9 : V (DBG.EVFLAGS)) (key10 : V (DBG.MEM_STATUS)) (key11 : ∀ u0, V (DSP.FLAGS u0)) (key12 : ∀ u0, V (DSP.MOVE_DONE u0)) (key13 : ∀ u0, V (DSP.MOVE_ERR u0)) (key14 : ∀ u0, V (DSP.MOVE_INFLIGHT u0)) (key15 : ∀ u0, V (DSP.MOVE_ISSUED u0)) (key16 : ∀ u0, V (FAB.MESH_DISCARD u0)) (key17 : ∀ u0, V (FAB.MESH_DONE u0)) (key18 : ∀ u0, V (FCP.BM_DONE u0)) (key19 : ∀ u0, V (FCP.BM_ERR u0)) (key20 : ∀ u0, V (FCP.BM_INFLIGHT u0)) (key21 : ∀ u0, V (FCP.Q_ERR_WORDS u0)) (key22 : ∀ u0, V (FCP.Q_EVFLAGS u0)) (key23 : ∀ u0, V (FCP.Q_FLUSHED u0)) (key24 : ∀ u0, V (FCP.Q_STATE u0)) (key25 : V (HDI.MESH_ERRORS)) (key26 : ∀ u0, V (LNK.MESH_RESP u0)) (key27 : M) (key28 : V (MSH.EVFLAGS)) (key29 : ∀ u0, V (MSH.LINK_CE u0)) (key30 : ∀ u0, V (MSH.LINK_UE u0)) (key31 : ∀ u0, V (MSH.PFLITS u0)) (key32 : ∀ u0, V (MSH.PPKTS u0)) (key33 : V (MSH.TLOST)) (key34 : V (TMU.EVFLAGS)) (key35 : ∀ u0, V (TMU.LANE_FLAGS u0)) (key36 : ∀ u0, V (TMU.TXTS_LOST u0)) (key37 : ∀ u0, V (TMU.TXTS_MADE u0)) (key38 : ∀ u0, V (TMU.TXTS_READ u0)) (key39 : ∀ u0, V (VEN.REFILL_DONE u0)) (key40 : ∀ u0, V (FCP.Q_PKTS u0)) (key41 : ∀ u0, V (DSP.CYCLES u0)) (key42 : ∀ u0, V (DSP.FAULT u0)) (key43 : ∀ u0, V (DSP.FAULT_PC u0)) (key44 : ∀ u0, V (DSP.MOVE_DROPPED u0)) (key45 : ∀ u0, V (DSP.STATE u0)) (key46 : ∀ u0, V (DSP.WDOG_LEFT u0)) (key47 : ∀ u0, V (SCR.CE u0)) (key48 : ∀ u0, V (SCR.EVFLAGS u0)) (key49 : ∀ u0, V (SCR.UE u0)) (key50 : ∀ u0, V (SCR.COLLIDE u0)) (key51 : ∀ u0, V (DSP.STALLS u0)) (key52 : ∀ u0, V (CFG.FACET_LOADS u0)) (key53 : ∀ u0, V (FAB.DESIGN_ID u0)) :
    FrOut V M s0 (execMeshAckResponse r fl s) := by
  unfold execMeshAckResponse
  repeat' first
    | with_reducible intro _
    | with_reducible assumption
    | with_reducible apply key0
    | with_reducible apply key1
    | with_reducible apply key2
    | with_reducible apply key3
    | with_reducible apply key4
    | with_reducible apply key5
    | with_reducible apply key6
    | with_reducible apply key7
    | with_reducible apply key8
    | with_reducible apply key9
    | with_reducible apply key10
    | with_reducible apply key11
    | with_reducible apply key12
    | with_reducible apply key13
    | with_reducible apply key14
    | with_reducible apply key15
    | with_reducible apply key16
    | with_reducible apply key17
    | with_reducible apply key18
    | with_reducible apply key19
    | with_reducible apply key20
    | with_reducible apply key21
    | with_reducible apply key22
    | with_reducible apply key23
    | with_reducible apply key24
    | with_reducible apply key25
    | with_reducible apply key26
    | with_reducible apply key27
    | with_reducible apply key28
    | with_reducible apply key29
    | with_reducible apply key30
    | with_reducible apply key31
    | with_reducible apply key32
    | with_reducible apply key33
    | with_reducible apply key34
    | with_reducible apply key35
    | with_reducible apply key36
    | with_reducible apply key37
    | with_reducible apply key38
    | with_reducible apply key39
    | with_reducible apply key40
    | with_reducible apply key41
    | with_reducible apply key42
    | with_reducible apply key43
    | with_reducible apply key44
    | with_reducible apply key45
    | with_reducible apply key46
    | with_reducible apply key47
    | with_reducible apply key48
    | with_reducible apply key49
    | with_reducible apply key50
    | with_reducible apply key51
    | with_reducible apply key52
    | with_reducible apply key53
    | with_reducible apply deliver_fr
    | simp only [↓fr_mk_iff]
    | with_reducible apply fr_ite
    | with_reducible apply frOut_next
    | with_reducible apply frOut_fault
    | with_reducible apply frOut_ite
    | with_reducible apply unitCmd_fr
    | (extract_lets x; first | (with_reducible refine fr_cut (s := x) ?_ ?_; (on_goal 2 => clear_value x); (on_goal 1 => unfold x)) | (subst x))
    | split

theorem execMeshErrorResponse_fr (r : Arriving) (s : State) (hs : Fr V M s0 s) (key0 : ∀ u0, V (CFG.FACET_STATE u0)) (key1 : V (CFG.LOAD_BYTES)) (key2 : V (CFG.LOAD_CAUSE)) (key3 : V (CFG.LOAD_FAIL_AT)) (key4 : V (CFG.LOAD_STATE)) (key5 : V (CFG.LOAD_STATUS)) (key6 : V (CFG.LOAD_TIME)) (key7 : ∀ u0, V (CFG.LOUPE_SRC_ADDR u0)) (key8 : ∀ u0, V (CFG.LOUPE_SRC_TYPE u0)) (key9 : V (DBG.EVFLAGS)) (key10 : V (DBG.MEM_STATUS)) (key11 : ∀ u0, V (DSP.FLAGS u0)) (key12 : ∀ u0, V (DSP.MOVE_DONE u0)) (key13 : ∀ u0, V (DSP.MOVE_ERR u0)) (key14 : ∀ u0, V (DSP.MOVE_INFLIGHT u0)) (key15 : ∀ u0, V (DSP.MOVE_ISSUED u0)) (key16 : ∀ u0, V (FAB.MESH_DISCARD u0)) (key17 : ∀ u0, V (FAB.MESH_DONE u0)) (key18 : ∀ u0, V (FCP.BM_DONE u0)) (key19 : ∀ u0, V (FCP.BM_ERR u0)) (key20 : ∀ u0, V (FCP.BM_INFLIGHT u0)) (key21 : ∀ u0, V (FCP.Q_ERR_WORDS u0)) (key22 : ∀ u0, V (FCP.Q_EVFLAGS u0)) (key23 : ∀ u0, V (FCP.Q_FLUSHED u0)) (key24 : ∀ u0, V (FCP.Q_STATE u0)) (key25 : V (HDI.MESH_ERRORS)) (key26 : ∀ u0, V (LNK.MESH_RESP u0)) (key27 : M) (key28 : V (MSH.EVFLAGS)) (key29 : ∀ u0, V (MSH.LINK_CE u0)) (key30 : ∀ u0, V (MSH.LINK_UE u0)) (key31 : ∀ u0, V (MSH.PFLITS u0)) (key32 : ∀ u0, V (MSH.PPKTS u0)) (key33 : V (MSH.TLOST)) (key34 : V (TMU.EVFLAGS)) (key35 : ∀ u0, V (TMU.LANE_FLAGS u0)) (key36 : ∀ u0, V (TMU.TXTS_LOST u0)) (key37 : ∀ u0, V (TMU.TXTS_MADE u0)) (key38 : ∀ u0, V (TMU.TXTS_READ u0)) (key39 : ∀ u0, V (VEN.REFILL_DONE u0)) (key40 : ∀ u0, V (FCP.Q_PKTS u0)) (key41 : ∀ u0, V (DSP.CYCLES u0)) (key42 : ∀ u0, V (DSP.FAULT u0)) (key43 : ∀ u0, V (DSP.FAULT_PC u0)) (key44 : ∀ u0, V (DSP.MOVE_DROPPED u0)) (key45 : ∀ u0, V (DSP.STATE u0)) (key46 : ∀ u0, V (DSP.WDOG_LEFT u0)) (key47 : ∀ u0, V (SCR.CE u0)) (key48 : ∀ u0, V (SCR.EVFLAGS u0)) (key49 : ∀ u0, V (SCR.UE u0)) (key50 : ∀ u0, V (SCR.COLLIDE u0)) (key51 : ∀ u0, V (DSP.STALLS u0)) (key52 : ∀ u0, V (CFG.FACET_LOADS u0)) (key53 : ∀ u0, V (FAB.DESIGN_ID u0)) :
    FrOut V M s0 (execMeshErrorResponse r s) := by
  unfold execMeshErrorResponse
  repeat' first
    | with_reducible intro _
    | with_reducible assumption
    | with_reducible apply key0
    | with_reducible apply key1
    | with_reducible apply key2
    | with_reducible apply key3
    | with_reducible apply key4
    | with_reducible apply key5
    | with_reducible apply key6
    | with_reducible apply key7
    | with_reducible apply key8
    | with_reducible apply key9
    | with_reducible apply key10
    | with_reducible apply key11
    | with_reducible apply key12
    | with_reducible apply key13
    | with_reducible apply key14
    | with_reducible apply key15
    | with_reducible apply key16
    | with_reducible apply key17
    | with_reducible apply key18
    | with_reducible apply key19
    | with_reducible apply key20
    | with_reducible apply key21
    | with_reducible apply key22
    | with_reducible apply key23
    | with_reducible apply key24
    | with_reducible apply key25
    | with_reducible apply key26
    | with_reducible apply key27
    | with_reducible apply key28
    | with_reducible apply key29
    | with_reducible apply key30
    | with_reducible apply key31
    | with_reducible apply key32
    | with_reducible apply key33
    | with_reducible apply key34
    | with_reducible apply key35
    | with_reducible apply key36
    | with_reducible apply key37
    | with_reducible apply key38
    | with_reducible apply key39
    | with_reducible apply key40
    | with_reducible apply key41
    | with_reducible apply key42
    | with_reducible apply key43
    | with_reducible apply key44
    | with_reducible apply key45
    | with_reducible apply key46
    | with_reducible apply key47
    | with_reducible apply key48
    | with_reducible apply key49
    | with_reducible apply key50
    | with_reducible apply key51
    | with_reducible apply key52
    | with_reducible apply key53
    | with_reducible apply deliver_fr
    | simp only [↓fr_mk_iff]
    | with_reducible apply fr_ite
    | with_reducible apply frOut_next
    | with_reducible apply frOut_fault
    | with_reducible apply frOut_ite
    | with_reducible apply unitCmd_fr
    | (extract_lets x; first | (with_reducible refine fr_cut (s := x) ?_ ?_; (on_goal 2 => clear_value x); (on_goal 1 => unfold x)) | (subst x))
    | split

theorem execLineReadComplete_fr (n : Nat) (line : LineBack) (s : State) (hs : Fr V M s0 s) (key0 : M) (key1 : V (VEN.REFILL_DONE n)) (key2 : V (MSH.EVFLAGS)) (key3 : ∀ u0, V (MSH.PFLITS u0)) (key4 : ∀ u0, V (MSH.PPKTS u0)) (key5 : V (MSH.TLOST)) (key6 : ∀ u0, V (MSH.LINK_CE u0)) (key7 : ∀ u0, V (MSH.LINK_UE u0)) :
    FrOut V M s0 (execLineReadComplete n line s) := by
  unfold execLineReadComplete
  repeat' first
    | with_reducible intro _
    | with_reducible assumption
    | with_reducible apply key0
    | with_reducible apply key1
    | with_reducible apply key2
    | with_reducible apply key3
    | with_reducible apply key4
    | with_reducible apply key5
    | with_reducible apply key6
    | with_reducible apply key7
    | with_reducible apply returnBy_fr
    | with_reducible apply lineDone_fr
    | simp only [↓fr_mk_iff]
    | with_reducible apply fr_ite
    | with_reducible apply frOut_next
    | with_reducible apply frOut_fault
    | with_reducible apply frOut_ite
    | with_reducible apply unitCmd_fr
    | (extract_lets x; first | (with_reducible refine fr_cut (s := x) ?_ ?_; (on_goal 2 => clear_value x); (on_goal 1 => unfold x)) | (subst x))
    | split

theorem execRingWriteDone_fr (q line : Nat) (err : RingBack) (s : State) (hs : Fr V M s0 s) (key0 : V (FCP.Q_ERR_WORDS q)) (key1 : V (FCP.Q_EVFLAGS q)) (key2 : V (FCP.Q_FLUSHED q)) (key3 : V (FCP.Q_STATE q)) (key4 : V (FCP.Q_PKTS q)) (key5 : V (MSH.EVFLAGS)) (key6 : ∀ u0, V (MSH.PFLITS u0)) (key7 : ∀ u0, V (MSH.PPKTS u0)) (key8 : V (MSH.TLOST)) (key9 : ∀ u0, V (MSH.LINK_CE u0)) (key10 : ∀ u0, V (MSH.LINK_UE u0)) :
    FrOut V M s0 (execRingWriteDone q line err s) := by
  unfold execRingWriteDone
  repeat' first
    | with_reducible intro _
    | with_reducible assumption
    | with_reducible apply key0
    | with_reducible apply key1
    | with_reducible apply key2
    | with_reducible apply key3
    | with_reducible apply key4
    | with_reducible apply key5
    | with_reducible apply key6
    | with_reducible apply key7
    | with_reducible apply key8
    | with_reducible apply key9
    | with_reducible apply key10
    | with_reducible apply returnBy_fr
    | with_reducible apply ringWriteDone_fr
    | simp only [↓fr_mk_iff]
    | with_reducible apply fr_ite
    | with_reducible apply frOut_next
    | with_reducible apply frOut_fault
    | with_reducible apply frOut_ite
    | with_reducible apply unitCmd_fr
    | (extract_lets x; first | (with_reducible refine fr_cut (s := x) ?_ ?_; (on_goal 2 => clear_value x); (on_goal 1 => unfold x)) | (subst x))
    | split

theorem execRingReadDone_fr (q : Nat) (err : RingBack) (s : State) (hs : Fr V M s0 s) (key0 : V (FCP.Q_ERR_WORDS q)) (key1 : V (FCP.Q_EVFLAGS q)) (key2 : V (FCP.Q_FLUSHED q)) (key3 : V (FCP.Q_STATE q)) (key4 : V (MSH.EVFLAGS)) (key5 : ∀ u0, V (MSH.PFLITS u0)) (key6 : ∀ u0, V (MSH.PPKTS u0)) (key7 : V (MSH.TLOST)) (key8 : ∀ u0, V (MSH.LINK_CE u0)) (key9 : ∀ u0, V (MSH.LINK_UE u0)) (key10 : V (FCP.Q_PKTS q)) :
    FrOut V M s0 (execRingReadDone q err s) := by
  unfold execRingReadDone
  repeat' first
    | with_reducible intro _
    | with_reducible assumption
    | with_reducible apply key0
    | with_reducible apply key1
    | with_reducible apply key2
    | with_reducible apply key3
    | with_reducible apply key4
    | with_reducible apply key5
    | with_reducible apply key6
    | with_reducible apply key7
    | with_reducible apply key8
    | with_reducible apply key9
    | with_reducible apply key10
    | with_reducible apply returnBy_fr
    | with_reducible apply ringAnswered_fr
    | simp only [↓fr_mk_iff]
    | with_reducible apply fr_ite
    | with_reducible apply frOut_next
    | with_reducible apply frOut_fault
    | with_reducible apply frOut_ite
    | with_reducible apply unitCmd_fr
    | (extract_lets x; first | (with_reducible refine fr_cut (s := x) ?_ ?_; (on_goal 2 => clear_value x); (on_goal 1 => unfold x)) | (subst x))
    | split

set_option Elab.async false in
theorem execBitmapIssue_fr (n : Nat) (s : State) (hs : Fr V M s0 s) (key0 : V (FCP.BM_INFLIGHT n)) :
    FrOut V M s0 (execBitmapIssue n s) := by
  unfold execBitmapIssue
  repeat' first
    | with_reducible intro _
    | with_reducible assumption
    | with_reducible apply key0
    | with_reducible apply meshSend_fr
    | with_reducible apply modFcp_fr
    | with_reducible apply upto_fr
    | with_reducible apply bump_fr
    | simp only [↓fr_mk_iff]
    | with_reducible apply fr_ite
    | with_reducible apply frOut_next
    | with_reducible apply frOut_fault
    | with_reducible apply frOut_ite
    | with_reducible apply unitCmd_fr
    | (extract_lets x; first | (with_reducible refine fr_cut (s := x) ?_ ?_; (on_goal 2 => clear_value x); (on_goal 1 => unfold x)) | (subst x))
    | split

end Sys2Proof.Laws
end

