-- ==== Sys2Proof/Laws/Common.lean ====
section
/-! SUPPORT. How a command that is served completes, and what single updates leave of members: the start of every completion proof. -/
namespace Sys2Proof.Laws
open Sys2Proof.Machine
namespace Common
theorem unitNext {n k : Nat} {t : State} (h : n < k) : unitCmd n k t = .next t := by unfold unitCmd; rw [if_pos h]
theorem givesU {n k : Nat} {t : State} {P : State → Prop} (hn : n < k) (h : P t) : ∃ u, unitCmd n k t = .next u ∧ P u := ⟨t, unitNext hn, h⟩
theorem givesN {t : State} {P : State → Prop} (h : P t) : ∃ u, (Host.Outcome.next t : Out) = .next u ∧ P u := ⟨t, rfl, h⟩
theorem noC : ∀ c ∈ ([] : List (Bool × Nat)), c.1 = false := by simp
theorem givesCmd {i : Instr} {q : Req} {n b k code : Nat} {extra : List (Bool × Nat)} {eff : State → State} {s : State} {P : State → Prop}
    (he : exec i s = unitCmd n b (command q k code extra eff s)) (hn : n < b) (h : Writes q k 1 code s)
    (hx : ∀ c ∈ extra, c.1 = false) (hp : ∀ t, Like (eff s) t → P t) : Gives i s fun t => Answered q 0 t ∧ P t := by
  have d := command_done (eff := eff) h hx
  exact ⟨_, by rw [he, unitNext hn], d.1, hp _ d.2⟩
theorem givesCmd' {i : Instr} {q : Req} {k code : Nat} {extra : List (Bool × Nat)} {eff : State → State} {s : State} {P : State → Prop}
    (he : exec i s = .next (command q k code extra eff s)) (h : Writes q k 1 code s)
    (hx : ∀ c ∈ extra, c.1 = false) (hp : ∀ t, Like (eff s) t → P t) : Gives i s fun t => Answered q 0 t ∧ P t := by
  have d := command_done (eff := eff) h hx
  exact ⟨_, he, d.1, hp _ d.2⟩
theorem givesWr {i : Instr} {q : Req} {n b k len v : Nat} {extra : List (Bool × Nat)} {eff : State → State} {s : State} {P : State → Prop}
    (he : exec i s = unitCmd n b (writeTo q k len v extra eff s)) (hn : n < b) (h : Writes q k len v s)
    (hx : ∀ c ∈ extra, c.1 = false) (hp : ∀ t, Like (eff s) t → P t) : Gives i s fun t => Answered q 0 t ∧ P t := by
  have d := writeTo_done (eff := eff) h hx
  exact ⟨_, by rw [he, unitNext hn], d.1, hp _ d.2⟩
theorem givesWr' {i : Instr} {q : Req} {k len v : Nat} {extra : List (Bool × Nat)} {eff : State → State} {s : State} {P : State → Prop}
    (he : exec i s = .next (writeTo q k len v extra eff s)) (h : Writes q k len v s)
    (hx : ∀ c ∈ extra, c.1 = false) (hp : ∀ t, Like (eff s) t → P t) : Gives i s fun t => Answered q 0 t ∧ P t := by
  have d := writeTo_done (eff := eff) h hx
  exact ⟨_, he, d.1, hp _ d.2⟩
theorem frq {f : State → State} {k : Nat} {s : State} (h : Fr (· ≠ k) True s (f s)) : (f s).rd k = s.rd k := h.1 k (by simp)
theorem barrierLeft_rd (n t : Nat) (s : State) (k : Nat) : (barrierLeft n t s).rd k = s.rd k :=
  (barrierLeft_fr (V := fun _ => False) (M := True) n t s (fr_refl s)).1 k not_false
theorem disarm_state (n : Nat) (s : State) (h : ¬((s.veOf n).armKind = 2 ∧ veState n s = 2)) :
    veState n (disarmStarts s) = veState n s := by
  unfold disarmStarts
  suffices H : ∀ (l : List Nat) (u : State), ¬((u.veOf n).armKind = 2 ∧ veState n u = 2) →
      (fun v : State => ¬((v.veOf n).armKind = 2 ∧ veState n v = 2) ∧ veState n v = veState n u)
        (l.foldl (fun s n => if (s.veOf n).armKind = 2 ∧ veState n s = 2 then
      let t := (s.wr (VEN.STATE n) (s.veOf n).prior).modVe n fun e => { e with start := none, offAt := s.now, stale := e.stale ++ e.inflight, inflight := [] }
      barrierLeft n s.now t
    else s) u) from (H _ s h).2
  intro l
  induction l with
  | nil => intro u hu; exact ⟨hu, rfl⟩
  | cons m l ih =>
    intro u hu
    rw [List.foldl_cons]
    split
    · rename_i hc
      have hne : n ≠ m := by rintro rfl; exact hu hc
      have hk : ∀ v : State, veState n (barrierLeft m u.now v) = veState n v := fun v => barrierLeft_rd _ _ _ _
      have hv : ∀ v : State, ((barrierLeft m u.now v).veOf n).armKind = (v.veOf n).armKind := by
        intro v
        unfold barrierLeft
        suffices H : ∀ (l : List Nat) (w : State), (((l.foldl (fun s m_1 =>
      match (s.veOf m_1).bar with
      | some (mask, _) =>
        if veState m_1 s = 3 ∧ mask.testBit m ∧ m_1 ≠ m then
          s.modVe m_1 fun e => { e with barErr := earlier e.barErr (u.now + 20 * ticksPerNs) }
        else s
      | none => s) w).veOf n).armKind = (w.veOf n).armKind) from H _ _
        intro l
        induction l with
        | nil => intro w; rfl
        | cons a l ih =>
          intro w
          rw [List.foldl_cons, ih]
          split
          · split
            · by_cases e : n = a
              · subst e; rw [veOf_modVe]
              · rw [veOf_modVe_other _ e]
            · rfl
          · rfl
      have e1 : veState n ((u.wr (VEN.STATE m) (u.veOf m).prior).modVe m fun e => { e with start := none, offAt := u.now, stale := e.stale ++ e.inflight, inflight := [] }) = veState n u := by
        unfold veState
        rw [rd_modVe]
        exact rd_wr_other _ (by show (0x7100 + n) * 256 + 0 ≠ (0x7100 + m) * 256 + 0; omega) _
      have e2 : (((u.wr (VEN.STATE m) (u.veOf m).prior).modVe m fun e => { e with start := none, offAt := u.now, stale := e.stale ++ e.inflight, inflight := [] }).veOf n) = u.veOf n := by
        rw [veOf_modVe_other _ hne]; rfl
      have := ih (barrierLeft m u.now ((u.wr (VEN.STATE m) (u.veOf m).prior).modVe m fun e => { e with start := none, offAt := u.now, stale := e.stale ++ e.inflight, inflight := [] }))
        (by rw [hv, hk, e1, e2]; exact hu)
      rw [hk, e1] at this
      exact this
    · exact ih u hu
theorem reopen_state (n : Nat) (c : Bool) (s : State) (h : ¬((s.veOf n).armKind = 2 ∧ veState n s = 2)) :
    veState n (reopenIf c s) = veState n s := by
  unfold reopenIf
  split
  · unfold reopen
    dsimp only
    unfold veState
    rw [rd_raise]
    split
    · rw [rd_wr_other _ (by show (0x7100 + n) * 256 + 0 ≠ 0x1107; omega)]
      unfold disarmTo
      have e : ∀ u : State, (restartLease u).rd (VEN.STATE n) = u.rd (VEN.STATE n) := fun u => rd_modMirror _ _ _
      rw [e, rd_modMirror, rd_wr_other _ (by show (0x7100 + n) * 256 + 0 ≠ 0x1004; omega)]
      exact disarm_state n s h
    · rw [rd_wr_other _ (by show (0x7100 + n) * 256 + 0 ≠ 0x1004; omega)]
  · rfl
theorem changed_state (n m : Nat) (s : State) (h : ¬((s.veOf n).armKind = 2 ∧ veState n s = 2)) :
    veState n (engineChanged m s) = veState n s := reopen_state n _ s h
theorem enter_state (n c : Nat) (s : State) (h : ¬((s.veOf n).armKind = 2 ∧ c = 2)) : veState n (veEnter n c s) = c := by
  have e : veState n (s.wr (VEN.STATE n) c) = c := rd_wr_same _ _ _
  unfold veEnter
  rw [changed_state]
  · exact e
  · rw [e]; exact h
theorem neKey {a b : Nat} (h : a = b → False) : a ≠ b := h
theorem foldl_wr {f : Nat → Nat} {v k : Nat} : ∀ (l : List Nat) (s : State), (∀ j ∈ l, k ≠ f j) → (l.foldl (fun s j => s.wr (f j) v) s).rd k = s.rd k
  | [], _, _ => rfl
  | j :: l, s, h => by
    rw [List.foldl_cons, foldl_wr l _ (fun i hi => h i (List.mem_cons_of_mem _ hi))]
    exact rd_wr_other _ (h j (by simp)) _
end Common
namespace Common
theorem bit_setBit_eq (s : State) (k b : Nat) (v : Bool) : (s.setBit k b v).bit k b = v := by
  cases v
  · exact bit_setBit_false _ _ _
  · exact bit_setBit_true _ _ _
theorem like_k {u t : State} (h : Like u t) {k : Nat} (hk : 0x400 ≤ k) : t.rd k = u.rd k := h.rd _ (by show k ≠ 0x300 + 0; omega)
theorem bump_ne {w k j : Nat} {s : State} (h : j ≠ k) : (s.bump w k).rd j = s.rd j := by rw [rd_bump, if_neg h]
theorem bump_eq (w k : Nat) (s : State) : (s.bump w k).rd k = min (s.rd k + 1) (2 ^ w - 1) := by rw [rd_bump, if_pos rfl]
theorem addTo_ne {w k j d : Nat} {s : State} (h : j ≠ k) : (s.addTo w k d).rd j = s.rd j := by rw [rd_addTo, if_neg h]
theorem addTo_eq (w k d : Nat) (s : State) : (s.addTo w k d).rd k = min (s.rd k + d) (2 ^ w - 1) := by rw [rd_addTo, if_pos rfl]
set_option Elab.async false in
theorem bit_of_rd {s t : State} {k b : Nat} (h : t.rd k = s.rd k) : t.bit k b = s.bit k b := by unfold State.bit; rw [h]
end Common
end Sys2Proof.Laws
end

