-- ==== Sys2Proof/Laws/AccessStatus.lean ====
section
/-! SUPPORT. The status of an access: facts that proofs about their commands cite. -/
namespace Sys2Proof.Laws.AccessStatus
open Sys2Proof.Machine Common
theorem find_first {p : Nat → Bool} : ∀ {l : List Nat} {c : Nat}, l.find? p = some c → p c = true ∧ c ∈ l ∧ ∀ d ∈ l, p d = true → l.idxOf c ≤ l.idxOf d
  | [], _, h => by cases h
  | a :: l, c, h => by
    rw [List.find?_cons] at h
    split at h
    · rename_i ha
      cases h
      exact ⟨ha, by simp, fun d _ _ => by simp⟩
    · rename_i ha
      obtain ⟨h1, h2, h3⟩ := find_first h
      refine ⟨h1, by simp [h2], fun d hd hp => ?_⟩
      have ne : ∀ x, p x = true → ¬(a == x) = true := fun x hx e => by rw [beq_iff_eq] at e; subst e; rw [ha] at hx; cases hx
      rw [List.idxOf_cons, List.idxOf_cons]
      have e1 := ne c h1
      have e2 := ne d hp
      simp only [Bool.not_eq_true] at e1 e2
      rw [e1, e2]
      simp only [Bool.false_eq_true, cond_false, Nat.succ_le_succ_iff]
      rcases List.mem_cons.1 hd with rfl | hd
      · rw [ha] at hp; cases hp
      · exact h3 d hd hp
theorem base_order (q : Req) (op o m len v : Nat) (s : State) : ∀ c ∈ baseConds q op o m len v s, c.2 ∈ [1, 2, 3, 0xC, 4, 0xA, 5, 7, 6, 8, 0xB, 9] := by
  intro c hc
  unfold baseConds at hc
  split at hc
  · simp at hc; rw [hc]; decide
  split at hc <;> simp at hc
  · rw [hc]; decide
  · rcases hc with rfl | rfl | rfl | rfl | rfl | rfl | rfl | rfl | rfl <;> simp
theorem mof_modMaster (s : State) (m : Nat) (f : MasterS → MasterS) : (s.modMaster m f).masterOf m = f (s.masterOf m) := by
  unfold State.modMaster State.masterOf
  exact get_set_same _ _ _
theorem respond_status (q : Req) (op o m st len data : Nat) (s : State) : ((respond q op o m st len data s).masterOf q.master).resp.status = st := by
  unfold respond
  rw [mof_modMaster]
def Kept (q : Req) (s t : State) : Prop := ∃ op o m st, st ≠ 0 ∧ t = respond q op o m st 0 0 s
def Ref (q : Req) (s t : State) (P : Prop) : Prop := (deaf q s = true → t = s) ∧
    (deaf q s = false → t.crh.inReset = false → (t.masterOf q.master).resp.status ≠ 0 → Kept q s t ∨ P)
theorem ref_finish {q : Req} {op o m st len data : Nat} {eff : State → State} {s : State} {P : Prop} : Ref q s (finish q op o m st len data eff s) P := by
  unfold finish
  refine ⟨fun h => by rw [if_pos h], fun h _ hs => ?_⟩
  rw [h] at hs ⊢
  simp only [Bool.false_eq_true, if_false] at hs ⊢
  by_cases e : st = 0
  · rw [if_pos e] at hs
    exact absurd (respond_status _ _ _ _ _ _ _ _) hs
  · rw [if_neg e]
    exact .inl ⟨_, _, _, _, e, rfl⟩
theorem finish_ref {q : Req} {op o m st len data : Nat} {eff : State → State} {s : State} (hd : deaf q s = false) (h : st ≠ 0) :
    finish q op o m st len data eff s = respond q op o m st 0 0 s := by
  unfold finish
  rw [hd, if_neg (by simp), if_neg h]
theorem ref_auth {q : Req} {len v : Nat} {s : State} {P : Prop}
    (hp : authResp q len v s = respFails q (respond q 2 0xF001 2 9 0 0 s) → P) : Ref q s (authResp q len v s) P := by
  unfold authResp at hp ⊢
  dsimp only at hp ⊢
  split
  · rename_i h
    refine ⟨fun e => Bool.noConfusion (h.2.symm.trans e), fun hd _ _ => .inr (hp ?_)⟩
    rw [if_pos h]
    congr 1
    have e : statusOf q 2 (DBG.AUTH_RESP / 256) (DBG.AUTH_RESP % 256) len v 0 (respConds q len v s) s = 9 := h.1
    exact (finish_ref hd (by rw [e]; decide)).trans (by rw [e]; rfl)
  · exact ref_finish
theorem ref_step {q : Req} {v : Nat} {s : State} {P : Prop}
    (hp : ∀ st, st = 4 ∨ st = 0xB → stepWrite q v s = stepRefused (respond q 2 0xE000 3 st 0 0 s) → P) : Ref q s (stepWrite q v s) P := by
  unfold stepWrite at hp ⊢
  dsimp only at hp ⊢
  split
  · rename_i h
    refine ⟨fun e => Bool.noConfusion (h.2.symm.trans e), fun hd _ _ => .inr (hp _ h.1.symm ?_)⟩
    rw [if_pos h]
    have hn : statusOf q 2 0xE000 3 8 v 0 (stepConds v s) s ≠ 0 := by rcases h.1 with e | e <;> rw [e] <;> decide
    congr 1
    exact finish_ref hd hn
  · exact ref_finish
theorem ref_push {q : Req} {k n v : Nat} {mark : Bool} {s : State} {P : Prop}
    (hp : pushWord q k n v mark s = qFlag n 4 (engEdge s.now) ((respond q 2 (k / 256) (k % 256) 8 0 0 s).bump 64 (FCP.Q_REFUSED n)) → P) :
    Ref q s (pushWord q k n v mark s) P := by
  unfold pushWord at hp ⊢
  dsimp only at hp ⊢
  split
  · rename_i h
    refine ⟨fun e => Bool.noConfusion (h.2.symm.trans e), fun hd _ _ => .inr (hp ?_)⟩
    rw [if_pos h]
    have e : finish q 2 (k / 256) (k % 256) (statusOf q 2 (k / 256) (k % 256) 8 v 0 (pushConds n mark s) s) 0 0 (pushEff n v mark) s =
        respond q 2 (k / 256) (k % 256) 8 0 0 s := (finish_ref hd (by rw [h.1]; decide)).trans (by rw [h.1])
    rw [e]; rfl
  · exact ref_finish
def R (s t : State) : Prop := ∃ r, t = { s with reg := r }
theorem R_refl (s : State) : R s s := ⟨s.reg, rfl⟩
theorem R_trans {a b c : State} (h : R a b) (g : R b c) : R a c := by obtain ⟨r, rfl⟩ := h; obtain ⟨r', rfl⟩ := g; exact ⟨r', rfl⟩
theorem R_wr (s : State) (k v : Nat) : R s (s.wr k v) := ⟨_, rfl⟩
theorem R_bump (s : State) (w k : Nat) : R s (s.bump w k) := ⟨_, rfl⟩
theorem R_setBit (s : State) (k b : Nat) (v : Bool) : R s (s.setBit k b v) := by
  unfold State.setBit; split <;> first | exact R_refl _ | (split <;> first | exact R_refl _ | exact R_wr _ _ _) | exact R_wr _ _ _
theorem R_fold {α : Type} {f : State → α → State} (hf : ∀ s x, R s (f s x)) : ∀ (l : List α) (s : State), R s (l.foldl f s)
  | [], s => R_refl s
  | a :: l, s => R_trans (hf s a) (R_fold hf l _)
theorem R_graded (s : State) : R s (graded s) := by
  unfold graded
  refine R_trans ?_ (R_fold ?_ _ _)
  · split
    · exact R_trans (R_wr _ _ _) (R_wr _ _ _)
    · exact R_refl _
  · intro s x; split
    · exact R_trans (R_wr _ _ _) (R_wr _ _ _)
    · exact R_refl _
def clr (s : State) : State :=
    { now := s.now, reg := resetReg s.reg, freeCtr := s.freeCtr, pending := s.pending, pins := s.pins,
      dmc := s.dmc.map fun e => (e.1, { dimms := e.2.dimms }),
      crh := { grade := s.crh.grade, rstFrom := s.crh.rstFrom, rstAt := s.crh.rstAt, inReset := s.crh.inReset,
               pinLow := s.crh.pinLow, hot := s.crh.hot, low := s.crh.low, groupT := s.crh.groupT },
      cfg := { flash := s.cfg.flash, bbKey := s.cfg.bbKey, fuseKey := s.cfg.fuseKey, zeroised := s.cfg.zeroised },
      dbg := { insn := s.dbg.insn, bound := s.dbg.bound, upd := s.dbg.upd, dr := s.dbg.dr, key2 := s.dbg.key2, key3 := s.dbg.key3, test := s.dbg.test },
      trim := { slots := match s.trim.job with
                  | some (0, slot, _) => Tab.set (fun _ => 0) s.trim.slots slot 0
                  | _ => s.trim.slots } }
theorem R_clear (s : State) : R (clr s) (clearPart s) := by
  unfold clearPart
  dsimp only
  refine R_trans ?_ (R_graded _)
  refine R_trans ?_ (R_setBit _ _ _ _)
  refine R_trans ?_ (R_setBit _ _ _ _)
  refine R_trans ?_ (R_setBit _ _ _ _)
  refine R_trans ?_ (R_setBit _ _ _ _)
  refine R_trans ?_ (R_setBit _ _ _ _)
  refine R_trans ?_ (R_setBit _ _ _ _)
  exact R_trans (R_refl _) (R_setBit _ _ _ _)
theorem R_cause (b : Nat) (s : State) : R s (noteCause b s) := by
  unfold noteCause; dsimp only
  split
  · exact R_trans (R_setBit _ _ _ _) (R_bump _ _ _)
  · exact R_setBit _ _ _ _
theorem R_inReset {a b : State} (h : R a b) : b.crh.inReset = a.crh.inReset := by obtain ⟨r, rfl⟩ := h; rfl
theorem R_mof {a b : State} (h : R a b) (m : Nat) : b.masterOf m = a.masterOf m := by obtain ⟨r, rfl⟩ := h; rfl
theorem clr_in (u : State) : (clr u).crh.inReset = u.crh.inReset := rfl
theorem partReset_in (b : Nat) (s : State) : (partReset b s).crh.inReset = true ∨ R s (partReset b s) := by
  unfold partReset
  split
  · exact .inr (R_cause b s)
  · refine .inl ?_
    rw [R_inReset (R_clear _), clr_in]; rfl
theorem finish_ok {q : Req} {op o m len data : Nat} {eff : State → State} {s : State} (hd : deaf q s = false) :
    ((finish q op o m 0 len data eff s).masterOf q.master).resp.status = 0 := by
  unfold finish
  rw [hd, if_neg (by simp), if_pos rfl]
  exact respond_status _ _ _ _ _ _ _ _
theorem ref_reset {q : Req} {b op o m st : Nat} {s : State} {P : Prop} (h : st = 0 ∧ deaf q s = false) : Ref q s (partReset b (finish q op o m st 0 0 (fun s => s) s)) P := by
  refine ⟨fun e => Bool.noConfusion (h.2.symm.trans e), fun _ hr hs => ?_⟩
  rcases partReset_in b (finish q op o m st 0 0 (fun s => s) s) with e | e
  · rw [e] at hr; cases hr
  · rw [R_mof e, h.1, finish_ok h.2] at hs; exact absurd rfl hs
theorem ref_soft {q : Req} {s : State} {P : Prop} : Ref q s (softReset q s) P := by
  unfold softReset
  dsimp only
  split
  · rename_i h
    exact ref_reset h
  · exact ref_finish
theorem ref_dbgReset {q : Req} {s : State} {P : Prop} : Ref q s (dbgReset q s) P := by
  unfold dbgReset
  dsimp only
  split
  · rename_i h
    exact ref_reset h
  · exact ref_finish
theorem ref_slot_gen {q : Req} {o m st : Nat} {s u : State} {P : Prop} (hp : deaf q s = false → st = 0 → P) :
    Ref q s (if deaf q s = true then s else if st = 0 then u else respond q 1 o m st 0 0 s) P := by
  refine ⟨fun h => by rw [if_pos h], fun h _ hs => ?_⟩
  by_cases e : st = 0
  · exact .inr (hp h e)
  · rw [h, if_neg (by simp), if_neg e]
    exact .inl ⟨_, _, _, _, e, rfl⟩
theorem ref_slot {q : Req} {o m len v : Nat} {s : State} {P : Prop} (hp : slotRead q o m len v s = fetchEff q true o m v s → P) : Ref q s (slotRead q o m len v s) P := by
  unfold slotRead at hp ⊢
  dsimp only at hp ⊢
  refine ref_slot_gen fun hd h => ?_
  apply hp
  rw [if_neg (by simp [hd]), if_pos h]
/-- The refusals that are counted, of a write of the member of key k: a wrong answer, a step out of range, a push without room. -/
def Counted (q : Req) (k : Nat) (s t : State) : Prop :=
  (k = DBG.AUTH_RESP ∧ t = respFails q (respond q 2 0xF001 2 9 0 0 s)) ∨
    (k = TMU.STEP ∧ ∃ st, (st = 4 ∨ st = 0xB) ∧ t = stepRefused (respond q 2 0xE000 3 st 0 0 s)) ∨
    ∃ n, n < 256 ∧ (k = FCP.PUSH n ∨ k = FCP.PUSH_END n) ∧
      t = qFlag n 4 (engEdge s.now) ((respond q 2 (k / 256) (k % 256) 8 0 0 s).bump 64 (FCP.Q_REFUSED n))
theorem ref_write {q : Req} {o m len v : Nat} {r : Dict.Row} {s : State} {P : Prop}
    (hp : Counted q (o * 256 + m) s (writeReq q o m len v r s) → P) : Ref q s (writeReq q o m len v r s) P := by
  unfold writeReq at hp ⊢
  dsimp only at hp ⊢
  split
  · exact ref_soft
  rename_i h1
  rw [if_neg h1] at hp
  split
  · exact ref_dbgReset
  rename_i h2
  rw [if_neg h2] at hp
  split
  · rename_i h
    rw [if_pos h] at hp
    exact ref_auth fun e => hp (.inl ⟨by simp at h; exact h.2, e⟩)
  rename_i h3
  rw [if_neg h3] at hp
  split
  · rename_i h
    rw [if_pos h] at hp
    exact ref_step fun st hs e => hp (.inr (.inl ⟨by simp at h; exact h.2, st, hs, e⟩))
  rename_i h4
  rw [if_neg h4] at hp
  split
  · rename_i h
    rw [if_pos h] at hp
    refine ref_push fun e => hp (.inr (.inr ⟨o % 256, Nat.mod_lt _ (by decide), ?_, e⟩))
    simp only [Bool.and_eq_true, Bool.or_eq_true, Nat.beq_eq] at h
    unfold FCP.PUSH FCP.PUSH_END
    omega
  split <;> exact ref_finish
theorem ref_request {q : Req} {op o m len v : Nat} {s : State} {P : Prop} (hp : op = 1 → 1 ≤ q.master → q.master ≤ 8 → request q op o m len v s = fetchEff q true o m v s → P)
    (hw : op = 2 → Counted q (o * 256 + m) s (request q op o m len v s) → P) : Ref q s (request q op o m len v s) P := by
  unfold request at hp hw ⊢
  split
  · exact ref_finish
  · rename_i r hr
    rw [hr] at hp hw
    dsimp only at hp hw
    split
    · unfold readReq at hp ⊢
      split
      · rename_i ha
        rw [if_pos ha] at hp
        split
        · rename_i hm
          rw [if_pos hm] at hp
          exact ref_slot (hp rfl hm.1 hm.2)
        · unfold snapRead
          exact ref_finish
      · exact ref_finish
    · exact ref_write (hw rfl)
    · exact ref_finish
    · unfold mread
      exact ref_finish
    · unfold mdrop
      exact ref_finish
    · exact ref_finish
theorem ref_unit {q : Req} {n k : Nat} {s t u : State} {P : Prop} (he : unitCmd n k u = .next t) (h : Ref q s u P) : Ref q s t P := by
  unfold unitCmd at he
  split at he <;> cases he
  exact h
set_option Elab.async false in
theorem ref_if {q : Req} {c : Prop} [Decidable c] {s t u : State} {P : Prop} (he : (if c then .next u else .fault .noSuchUnit : Out) = .next t) (h : Ref q s u P) : Ref q s t P := by
  split at he <;> cases he
  exact h
end Sys2Proof.Laws.AccessStatus
end

