-- ==== Sys2Proof/Laws/KeepsCellCfg.lean ====
section
/-! SUPPORT. State.cellCfg: what the operations it lists leave unchanged. -/
set_option linter.unreachableTactic false
set_option linter.unusedSimpArgs false
set_option linter.unusedTactic false
namespace Sys2Proof.Laws
open Sys2Proof.Machine
section
variable {s0 : State}
def KeepsCellCfg (s0 s : State) : Prop := s.cellCfg = s0.cellCfg
theorem keepsCellCfg_ite {c : Prop} [Decidable c] {x y : State} (hx : KeepsCellCfg s0 x) (hy : KeepsCellCfg s0 y) : KeepsCellCfg s0 (if c then x else y) := by split <;> assumption
theorem keepsCellCfg_foldl {β : Type} {f : State → β → State} (hf : ∀ s x, KeepsCellCfg s0 s → KeepsCellCfg s0 (f s x)) :
    ∀ {l : List β} {s : State}, KeepsCellCfg s0 s → KeepsCellCfg s0 (l.foldl f s)
  | [], _, h => h
  | x :: l, s, h => keepsCellCfg_foldl (l := l) hf (hf s x h)
theorem keepsCellCfg_cut {s : State} {p : Prop} (h : KeepsCellCfg s0 s) (f : KeepsCellCfg s0 s → p) : p := f h
theorem wr_keepsCellCfg (k v : Nat) (s : State) (h : KeepsCellCfg s0 s) : KeepsCellCfg s0 (s.wr k v) := h
theorem keepsCellCfg_mk_iff {s : State} {x_now : Nat} {x_reg : Tab Nat} {x_mem : List Host.Cell} {x_evq : List (Nat × Nat)} {x_freeCtr : Nat} {x_pending : List Instr} {x_hdi : HdiS} {x_clk : ClockS} {x_sched : List Sched} {x_ve : Tab VeRun} {x_outCh : Tab OutCh} {x_inCh : Tab InCh} {x_fcp : Tab FcpS} {x_sq : Tab SqS} {x_brk : Tab BrkS} {x_tgt : Tab TgtS} {x_groupAt : List (Nat × Nat)} {x_dsp : Tab DspRun} {x_focus : FocusS} {x_trim : TrimS} {x_reqs : List MeshReq} {x_resps : List MeshResp} {x_held : List PortReq} {x_steal : List PortReq} {x_labels : List (MeshReq × Nat)} {x_drain : Option Drain} {x_trace : List Nat} {x_dmc : Tab DmcS} {x_autoTrain : Bool} {x_crh : CrhS} {x_cfg : CfgS} {x_fresh : List (Nat × Nat × Nat)} {x_cleared : List (Nat × Nat × Nat)} {x_sup : SupS} {x_dbg : DbgS} {x_tmu : TmuS} {x_lanes : Tab LaneS} {x_cells : Tab (Option CellS)} {x_sels : Tab Nat} {x_tracks : Tab Nat} {x_upsets : List Upset} {x_facets : Tab FacetS} {x_fev : List (Nat × Nat)} {x_panes : Tab PaneS} {x_banks : Tab BankS} {x_pins : PinsS} :
    KeepsCellCfg s0 ⟨x_now, x_reg, x_mem, x_evq, x_freeCtr, x_pending, x_hdi, x_clk, x_sched, x_ve, x_outCh, x_inCh, x_fcp, x_sq, x_brk, x_tgt, x_groupAt, x_dsp, x_focus, x_trim, x_reqs, x_resps, x_held, x_steal, x_labels, x_drain, x_trace, x_dmc, x_autoTrain, x_crh, x_cfg, x_fresh, x_cleared, x_sup, x_dbg, x_tmu, x_lanes, x_cells, s.cellCfg, x_sels, x_tracks, x_upsets, x_facets, x_fev, x_panes, x_banks, x_pins⟩ ↔ KeepsCellCfg s0 s := Iff.rfl
theorem addTo_keepsCellCfg (s : State) (w k d : Nat) (hs : KeepsCellCfg s0 s) :
    KeepsCellCfg s0 (State.addTo s w k d) := by
  unfold State.addTo
  repeat' first
    | with_reducible intro _
    | with_reducible assumption
    | with_reducible apply wr_keepsCellCfg

theorem bump_keepsCellCfg (s : State) (w k : Nat) (hs : KeepsCellCfg s0 s) :
    KeepsCellCfg s0 (State.bump s w k) := by
  unfold State.bump
  repeat' first
    | with_reducible intro _
    | with_reducible assumption
    | with_reducible apply addTo_keepsCellCfg

theorem raiseAt_keepsCellCfg (s : State) (t e : Nat) (hs : KeepsCellCfg s0 s) :
    KeepsCellCfg s0 (State.raiseAt s t e) := by
  unfold State.raiseAt
  repeat' first
    | with_reducible intro _
    | with_reducible assumption
    | simp only [↓keepsCellCfg_mk_iff]
    | with_reducible apply keepsCellCfg_ite
    | (extract_lets x; first | (with_reducible refine keepsCellCfg_cut (s := x) ?_ ?_; (on_goal 2 => clear_value x); (on_goal 1 => unfold x)) | (subst x))
    | split

theorem raise_keepsCellCfg (s : State) (e : Nat) (hs : KeepsCellCfg s0 s) :
    KeepsCellCfg s0 (State.raise s e) := by
  unfold State.raise
  repeat' first
    | with_reducible intro _
    | with_reducible assumption
    | with_reducible apply raiseAt_keepsCellCfg
    | simp only [↓keepsCellCfg_mk_iff]
    | with_reducible apply keepsCellCfg_ite
    | (extract_lets x; first | (with_reducible refine keepsCellCfg_cut (s := x) ?_ ?_; (on_goal 2 => clear_value x); (on_goal 1 => unfold x)) | (subst x))
    | split

theorem setBit_keepsCellCfg (s : State) (k b : Nat) (v : Bool) (hs : KeepsCellCfg s0 s) :
    KeepsCellCfg s0 (State.setBit s k b v) := by
  unfold State.setBit
  repeat' first
    | with_reducible intro _
    | with_reducible assumption
    | with_reducible apply wr_keepsCellCfg
    | with_reducible apply keepsCellCfg_ite
    | split

theorem upto_keepsCellCfg (s : State) (t : Nat) (hs : KeepsCellCfg s0 s) : KeepsCellCfg s0 (State.upto s t) :=
  hs

theorem modVe_keepsCellCfg (s : State) (n : Nat) (f : VeRun → VeRun) (hs : KeepsCellCfg s0 s) :
    KeepsCellCfg s0 (State.modVe s n f) := by
  unfold State.modVe
  repeat' first
    | with_reducible intro _
    | with_reducible assumption
    | simp only [↓keepsCellCfg_mk_iff]

theorem modFacet_keepsCellCfg (s : State) (f : Nat) (g : FacetS → FacetS) (hs : KeepsCellCfg s0 s) :
    KeepsCellCfg s0 (State.modFacet s f g) := by
  unfold State.modFacet
  repeat' first
    | with_reducible intro _
    | with_reducible assumption
    | simp only [↓keepsCellCfg_mk_iff]

theorem modMirror_keepsCellCfg (s : State) (f : MirrorS → MirrorS) (hs : KeepsCellCfg s0 s) :
    KeepsCellCfg s0 (State.modMirror s f) := by
  unfold State.modMirror
  repeat' first
    | with_reducible intro _
    | with_reducible assumption
    | simp only [↓keepsCellCfg_mk_iff]

theorem restartLease_keepsCellCfg (s : State) (hs : KeepsCellCfg s0 s) :
    KeepsCellCfg s0 (restartLease s) := by
  unfold restartLease
  repeat' first
    | with_reducible intro _
    | with_reducible assumption
    | with_reducible apply modMirror_keepsCellCfg
    | simp only [↓keepsCellCfg_mk_iff]

theorem barrierLeft_keepsCellCfg (n at' : Nat) (s : State) (hs : KeepsCellCfg s0 s) :
    KeepsCellCfg s0 (barrierLeft n at' s) := by
  unfold barrierLeft
  repeat' first
    | with_reducible intro _
    | with_reducible assumption
    | with_reducible apply modVe_keepsCellCfg
    | simp only [↓keepsCellCfg_mk_iff]
    | with_reducible apply keepsCellCfg_ite
    | with_reducible apply keepsCellCfg_foldl
    | split

theorem disarmStarts_keepsCellCfg (s : State) (hs : KeepsCellCfg s0 s) :
    KeepsCellCfg s0 (disarmStarts s) := by
  unfold disarmStarts
  repeat' first
    | with_reducible intro _
    | with_reducible assumption
    | with_reducible apply wr_keepsCellCfg
    | with_reducible apply modVe_keepsCellCfg
    | with_reducible apply barrierLeft_keepsCellCfg
    | simp only [↓keepsCellCfg_mk_iff]
    | with_reducible apply keepsCellCfg_ite
    | with_reducible apply keepsCellCfg_foldl
    | (extract_lets x; first | (with_reducible refine keepsCellCfg_cut (s := x) ?_ ?_; (on_goal 2 => clear_value x); (on_goal 1 => unfold x)) | (subst x))
    | split

theorem disarmTo_keepsCellCfg (c : Nat) (s : State) (hs : KeepsCellCfg s0 s) :
    KeepsCellCfg s0 (disarmTo c s) := by
  unfold disarmTo
  repeat' first
    | with_reducible intro _
    | with_reducible assumption
    | with_reducible apply restartLease_keepsCellCfg
    | with_reducible apply disarmStarts_keepsCellCfg
    | with_reducible apply wr_keepsCellCfg
    | with_reducible apply modMirror_keepsCellCfg
    | simp only [↓keepsCellCfg_mk_iff]

theorem reopen_keepsCellCfg (s : State) (hs : KeepsCellCfg s0 s) :
    KeepsCellCfg s0 (reopen s) := by
  unfold reopen
  repeat' first
    | with_reducible intro _
    | with_reducible assumption
    | with_reducible apply disarmTo_keepsCellCfg
    | with_reducible apply wr_keepsCellCfg
    | with_reducible apply raise_keepsCellCfg
    | with_reducible apply keepsCellCfg_ite
    | (extract_lets x; first | (with_reducible refine keepsCellCfg_cut (s := x) ?_ ?_; (on_goal 2 => clear_value x); (on_goal 1 => unfold x)) | (subst x))
    | split

theorem reopenIf_keepsCellCfg (c : Bool) (s : State) (hs : KeepsCellCfg s0 s) :
    KeepsCellCfg s0 (reopenIf c s) := by
  unfold reopenIf
  repeat' first
    | with_reducible intro _
    | with_reducible assumption
    | with_reducible apply reopen_keepsCellCfg
    | with_reducible apply keepsCellCfg_ite
    | split

theorem clearCells_keepsCellCfg (f : Nat) (s : State) (hs : KeepsCellCfg s0 s) :
    KeepsCellCfg s0 (clearCells f s) := by
  unfold clearCells
  repeat' first
    | with_reducible intro _
    | with_reducible assumption
    | simp only [↓keepsCellCfg_mk_iff]

theorem facetChanged_keepsCellCfg (f : Nat) (s : State) (hs : KeepsCellCfg s0 s) :
    KeepsCellCfg s0 (facetChanged f s) := by
  unfold facetChanged
  repeat' first
    | with_reducible intro _
    | with_reducible assumption
    | with_reducible apply reopenIf_keepsCellCfg

theorem releaseFacet_keepsCellCfg (f e : Nat) (s : State) (hs : KeepsCellCfg s0 s) :
    KeepsCellCfg s0 (releaseFacet f e s) := by
  unfold releaseFacet
  repeat' first
    | with_reducible intro _
    | with_reducible assumption
    | with_reducible apply facetChanged_keepsCellCfg
    | with_reducible apply clearCells_keepsCellCfg
    | with_reducible apply setBit_keepsCellCfg
    | with_reducible apply modFacet_keepsCellCfg
    | simp only [↓keepsCellCfg_mk_iff]

theorem modCfg_keepsCellCfg (f : CfgS → CfgS) (s : State) (hs : KeepsCellCfg s0 s) :
    KeepsCellCfg s0 (modCfg f s) := by
  unfold modCfg
  repeat' first
    | with_reducible intro _
    | with_reducible assumption
    | simp only [↓keepsCellCfg_mk_iff]

theorem facetLoaded_keepsCellCfg (l : LoadS) (h : Header) (f : Nat) (s : State) (hs : KeepsCellCfg s0 s) :
    KeepsCellCfg s0 (facetLoaded l h f s) := by
  unfold facetLoaded
  repeat' first
    | with_reducible intro _
    | with_reducible assumption
    | with_reducible apply wr_keepsCellCfg
    | with_reducible apply bump_keepsCellCfg
    | with_reducible apply modCfg_keepsCellCfg
    | simp only [↓keepsCellCfg_mk_iff]
    | (extract_lets x; first | (with_reducible refine keepsCellCfg_cut (s := x) ?_ ?_; (on_goal 2 => clear_value x); (on_goal 1 => unfold x)) | (subst x))

set_option Elab.async false in
theorem frameDone_keepsCellCfg (l : LoadS) (h : Header) (id : FrameId) (size payload : Nat) (s : State) (hs : KeepsCellCfg s0 s) :
    KeepsCellCfg s0 (frameDone l h id size payload s) := by
  unfold frameDone
  repeat' first
    | with_reducible intro _
    | with_reducible assumption
    | with_reducible apply modCfg_keepsCellCfg
    | with_reducible apply releaseFacet_keepsCellCfg
    | with_reducible apply facetLoaded_keepsCellCfg
    | with_reducible apply upto_keepsCellCfg
    | simp only [↓keepsCellCfg_mk_iff]
    | with_reducible apply keepsCellCfg_ite
    | (extract_lets x; first | (with_reducible refine keepsCellCfg_cut (s := x) ?_ ?_; (on_goal 2 => clear_value x); (on_goal 1 => unfold x)) | (subst x))
    | split
end

end Sys2Proof.Laws
end

