-- ==== Sys2Proof/Laws/KeepsCfg.lean ====
section
/-! SUPPORT. State.cfg: what the operations it lists leave unchanged. -/
set_option linter.unreachableTactic false
set_option linter.unusedSimpArgs false
set_option linter.unusedTactic false
namespace Sys2Proof.Laws
open Sys2Proof.Machine
section
variable {s0 : State}
def KeepsCfg (s0 s : State) : Prop := s.cfg = s0.cfg
theorem keepsCfg_ite {c : Prop} [Decidable c] {x y : State} (hx : KeepsCfg s0 x) (hy : KeepsCfg s0 y) : KeepsCfg s0 (if c then x else y) := by split <;> assumption
theorem keepsCfg_foldl {β : Type} {f : State → β → State} (hf : ∀ s x, KeepsCfg s0 s → KeepsCfg s0 (f s x)) :
    ∀ {l : List β} {s : State}, KeepsCfg s0 s → KeepsCfg s0 (l.foldl f s)
  | [], _, h => h
  | x :: l, s, h => keepsCfg_foldl (l := l) hf (hf s x h)
theorem keepsCfg_cut {s : State} {p : Prop} (h : KeepsCfg s0 s) (f : KeepsCfg s0 s → p) : p := f h
theorem wr_keepsCfg (k v : Nat) (s : State) (h : KeepsCfg s0 s) : KeepsCfg s0 (s.wr k v) := h
theorem keepsCfg_mk_iff {s : State} {x_now : Nat} {x_reg : Tab Nat} {x_mem : List Host.Cell} {x_evq : List (Nat × Nat)} {x_freeCtr : Nat} {x_pending : List Instr} {x_hdi : HdiS} {x_clk : ClockS} {x_sched : List Sched} {x_ve : Tab VeRun} {x_outCh : Tab OutCh} {x_inCh : Tab InCh} {x_fcp : Tab FcpS} {x_sq : Tab SqS} {x_brk : Tab BrkS} {x_tgt : Tab TgtS} {x_groupAt : List (Nat × Nat)} {x_dsp : Tab DspRun} {x_focus : FocusS} {x_trim : TrimS} {x_reqs : List MeshReq} {x_resps : List MeshResp} {x_held : List PortReq} {x_steal : List PortReq} {x_labels : List (MeshReq × Nat)} {x_drain : Option Drain} {x_trace : List Nat} {x_dmc : Tab DmcS} {x_autoTrain : Bool} {x_crh : CrhS} {x_fresh : List (Nat × Nat × Nat)} {x_cleared : List (Nat × Nat × Nat)} {x_sup : SupS} {x_dbg : DbgS} {x_tmu : TmuS} {x_lanes : Tab LaneS} {x_cells : Tab (Option CellS)} {x_cellCfg : Tab CellCfg} {x_sels : Tab Nat} {x_tracks : Tab Nat} {x_upsets : List Upset} {x_facets : Tab FacetS} {x_fev : List (Nat × Nat)} {x_panes : Tab PaneS} {x_banks : Tab BankS} {x_pins : PinsS} :
    KeepsCfg s0 ⟨x_now, x_reg, x_mem, x_evq, x_freeCtr, x_pending, x_hdi, x_clk, x_sched, x_ve, x_outCh, x_inCh, x_fcp, x_sq, x_brk, x_tgt, x_groupAt, x_dsp, x_focus, x_trim, x_reqs, x_resps, x_held, x_steal, x_labels, x_drain, x_trace, x_dmc, x_autoTrain, x_crh, s.cfg, x_fresh, x_cleared, x_sup, x_dbg, x_tmu, x_lanes, x_cells, x_cellCfg, x_sels, x_tracks, x_upsets, x_facets, x_fev, x_panes, x_banks, x_pins⟩ ↔ KeepsCfg s0 s := Iff.rfl
theorem raiseAt_keepsCfg (s : State) (t e : Nat) (hs : KeepsCfg s0 s) :
    KeepsCfg s0 (State.raiseAt s t e) := by
  unfold State.raiseAt
  repeat' first
    | with_reducible intro _
    | with_reducible assumption
    | simp only [↓keepsCfg_mk_iff]
    | with_reducible apply keepsCfg_ite
    | (extract_lets x; first | (with_reducible refine keepsCfg_cut (s := x) ?_ ?_; (on_goal 2 => clear_value x); (on_goal 1 => unfold x)) | (subst x))
    | split

theorem raise_keepsCfg (s : State) (e : Nat) (hs : KeepsCfg s0 s) :
    KeepsCfg s0 (State.raise s e) := by
  unfold State.raise
  repeat' first
    | with_reducible intro _
    | with_reducible assumption
    | with_reducible apply raiseAt_keepsCfg
    | simp only [↓keepsCfg_mk_iff]
    | with_reducible apply keepsCfg_ite
    | (extract_lets x; first | (with_reducible refine keepsCfg_cut (s := x) ?_ ?_; (on_goal 2 => clear_value x); (on_goal 1 => unfold x)) | (subst x))
    | split

theorem setBit_keepsCfg (s : State) (k b : Nat) (v : Bool) (hs : KeepsCfg s0 s) :
    KeepsCfg s0 (State.setBit s k b v) := by
  unfold State.setBit
  repeat' first
    | with_reducible intro _
    | with_reducible assumption
    | with_reducible apply wr_keepsCfg
    | with_reducible apply keepsCfg_ite
    | split

theorem modVe_keepsCfg (s : State) (n : Nat) (f : VeRun → VeRun) (hs : KeepsCfg s0 s) :
    KeepsCfg s0 (State.modVe s n f) := by
  unfold State.modVe
  repeat' first
    | with_reducible intro _
    | with_reducible assumption
    | simp only [↓keepsCfg_mk_iff]

theorem modFacet_keepsCfg (s : State) (f : Nat) (g : FacetS → FacetS) (hs : KeepsCfg s0 s) :
    KeepsCfg s0 (State.modFacet s f g) := by
  unfold State.modFacet
  repeat' first
    | with_reducible intro _
    | with_reducible assumption
    | simp only [↓keepsCfg_mk_iff]

theorem modMirror_keepsCfg (s : State) (f : MirrorS → MirrorS) (hs : KeepsCfg s0 s) :
    KeepsCfg s0 (State.modMirror s f) := by
  unfold State.modMirror
  repeat' first
    | with_reducible intro _
    | with_reducible assumption
    | simp only [↓keepsCfg_mk_iff]

theorem restartLease_keepsCfg (s : State) (hs : KeepsCfg s0 s) :
    KeepsCfg s0 (restartLease s) := by
  unfold restartLease
  repeat' first
    | with_reducible intro _
    | with_reducible assumption
    | with_reducible apply modMirror_keepsCfg
    | simp only [↓keepsCfg_mk_iff]

theorem barrierLeft_keepsCfg (n at' : Nat) (s : State) (hs : KeepsCfg s0 s) :
    KeepsCfg s0 (barrierLeft n at' s) := by
  unfold barrierLeft
  repeat' first
    | with_reducible intro _
    | with_reducible assumption
    | with_reducible apply modVe_keepsCfg
    | simp only [↓keepsCfg_mk_iff]
    | with_reducible apply keepsCfg_ite
    | with_reducible apply keepsCfg_foldl
    | split

theorem disarmStarts_keepsCfg (s : State) (hs : KeepsCfg s0 s) :
    KeepsCfg s0 (disarmStarts s) := by
  unfold disarmStarts
  repeat' first
    | with_reducible intro _
    | with_reducible assumption
    | with_reducible apply wr_keepsCfg
    | with_reducible apply modVe_keepsCfg
    | with_reducible apply barrierLeft_keepsCfg
    | simp only [↓keepsCfg_mk_iff]
    | with_reducible apply keepsCfg_ite
    | with_reducible apply keepsCfg_foldl
    | (extract_lets x; first | (with_reducible refine keepsCfg_cut (s := x) ?_ ?_; (on_goal 2 => clear_value x); (on_goal 1 => unfold x)) | (subst x))
    | split

theorem disarmTo_keepsCfg (c : Nat) (s : State) (hs : KeepsCfg s0 s) :
    KeepsCfg s0 (disarmTo c s) := by
  unfold disarmTo
  repeat' first
    | with_reducible intro _
    | with_reducible assumption
    | with_reducible apply restartLease_keepsCfg
    | with_reducible apply disarmStarts_keepsCfg
    | with_reducible apply wr_keepsCfg
    | with_reducible apply modMirror_keepsCfg
    | simp only [↓keepsCfg_mk_iff]

theorem reopen_keepsCfg (s : State) (hs : KeepsCfg s0 s) :
    KeepsCfg s0 (reopen s) := by
  unfold reopen
  repeat' first
    | with_reducible intro _
    | with_reducible assumption
    | with_reducible apply disarmTo_keepsCfg
    | with_reducible apply wr_keepsCfg
    | with_reducible apply raise_keepsCfg
    | with_reducible apply keepsCfg_ite
    | (extract_lets x; first | (with_reducible refine keepsCfg_cut (s := x) ?_ ?_; (on_goal 2 => clear_value x); (on_goal 1 => unfold x)) | (subst x))
    | split

theorem reopenIf_keepsCfg (c : Bool) (s : State) (hs : KeepsCfg s0 s) :
    KeepsCfg s0 (reopenIf c s) := by
  unfold reopenIf
  repeat' first
    | with_reducible intro _
    | with_reducible assumption
    | with_reducible apply reopen_keepsCfg
    | with_reducible apply keepsCfg_ite
    | split

theorem clearCells_keepsCfg (f : Nat) (s : State) (hs : KeepsCfg s0 s) :
    KeepsCfg s0 (clearCells f s) := by
  unfold clearCells
  repeat' first
    | with_reducible intro _
    | with_reducible assumption
    | simp only [↓keepsCfg_mk_iff]

theorem facetChanged_keepsCfg (f : Nat) (s : State) (hs : KeepsCfg s0 s) :
    KeepsCfg s0 (facetChanged f s) := by
  unfold facetChanged
  repeat' first
    | with_reducible intro _
    | with_reducible assumption
    | with_reducible apply reopenIf_keepsCfg

set_option Elab.async false in
theorem releaseFacet_keepsCfg (f e : Nat) (s : State) (hs : KeepsCfg s0 s) :
    KeepsCfg s0 (releaseFacet f e s) := by
  unfold releaseFacet
  repeat' first
    | with_reducible intro _
    | with_reducible assumption
    | with_reducible apply facetChanged_keepsCfg
    | with_reducible apply clearCells_keepsCfg
    | with_reducible apply setBit_keepsCfg
    | with_reducible apply modFacet_keepsCfg
    | simp only [↓keepsCfg_mk_iff]
end

end Sys2Proof.Laws
end

