-- ==== Sys2Proof/Laws/KeepsCfgLoupe.lean ====
section
/-! SUPPORT. State.cfg: what the operations it lists leave unchanged. -/
set_option linter.unreachableTactic false
set_option linter.unusedSimpArgs false
set_option linter.unusedTactic false
namespace Sys2Proof.Laws
open Sys2Proof.Machine
section
variable {s0 : State}
def KeepsCfgLoupe (s0 s : State) : Prop := s.cfg = s0.cfg
theorem keepsCfgLoupe_ite {c : Prop} [Decidable c] {x y : State} (hx : KeepsCfgLoupe s0 x) (hy : KeepsCfgLoupe s0 y) : KeepsCfgLoupe s0 (if c then x else y) := by split <;> assumption
theorem keepsCfgLoupe_foldl {β : Type} {f : State → β → State} (hf : ∀ s x, KeepsCfgLoupe s0 s → KeepsCfgLoupe s0 (f s x)) :
    ∀ {l : List β} {s : State}, KeepsCfgLoupe s0 s → KeepsCfgLoupe s0 (l.foldl f s)
  | [], _, h => h
  | x :: l, s, h => keepsCfgLoupe_foldl (l := l) hf (hf s x h)
theorem keepsCfgLoupe_cut {s : State} {p : Prop} (h : KeepsCfgLoupe s0 s) (f : KeepsCfgLoupe s0 s → p) : p := f h
theorem wr_keepsCfgLoupe (k v : Nat) (s : State) (h : KeepsCfgLoupe s0 s) : KeepsCfgLoupe s0 (s.wr k v) := h
theorem keepsCfgLoupe_mk_iff {s : State} {x_now : Nat} {x_reg : Tab Nat} {x_mem : List Host.Cell} {x_evq : List (Nat × Nat)} {x_freeCtr : Nat} {x_pending : List Instr} {x_hdi : HdiS} {x_clk : ClockS} {x_sched : List Sched} {x_ve : Tab VeRun} {x_outCh : Tab OutCh} {x_inCh : Tab InCh} {x_fcp : Tab FcpS} {x_sq : Tab SqS} {x_brk : Tab BrkS} {x_tgt : Tab TgtS} {x_groupAt : List (Nat × Nat)} {x_dsp : Tab DspRun} {x_focus : FocusS} {x_trim : TrimS} {x_reqs : List MeshReq} {x_resps : List MeshResp} {x_held : List PortReq} {x_steal : List PortReq} {x_labels : List (MeshReq × Nat)} {x_drain : Option Drain} {x_trace : List Nat} {x_dmc : Tab DmcS} {x_autoTrain : Bool} {x_crh : CrhS} {x_fresh : List (Nat × Nat × Nat)} {x_cleared : List (Nat × Nat × Nat)} {x_sup : SupS} {x_dbg : DbgS} {x_tmu : TmuS} {x_lanes : Tab LaneS} {x_cells : Tab (Option CellS)} {x_cellCfg : Tab CellCfg} {x_sels : Tab Nat} {x_tracks : Tab Nat} {x_upsets : List Upset} {x_facets : Tab FacetS} {x_fev : List (Nat × Nat)} {x_panes : Tab PaneS} {x_banks : Tab BankS} {x_pins : PinsS} :
    KeepsCfgLoupe s0 ⟨x_now, x_reg, x_mem, x_evq, x_freeCtr, x_pending, x_hdi, x_clk, x_sched, x_ve, x_outCh, x_inCh, x_fcp, x_sq, x_brk, x_tgt, x_groupAt, x_dsp, x_focus, x_trim, x_reqs, x_resps, x_held, x_steal, x_labels, x_drain, x_trace, x_dmc, x_autoTrain, x_crh, s.cfg, x_fresh, x_cleared, x_sup, x_dbg, x_tmu, x_lanes, x_cells, x_cellCfg, x_sels, x_tracks, x_upsets, x_facets, x_fev, x_panes, x_banks, x_pins⟩ ↔ KeepsCfgLoupe s0 s := Iff.rfl
theorem addTo_keepsCfgLoupe (s : State) (w k d : Nat) (hs : KeepsCfgLoupe s0 s) :
    KeepsCfgLoupe s0 (State.addTo s w k d) := by
  unfold State.addTo
  repeat' first
    | with_reducible intro _
    | with_reducible assumption
    | with_reducible apply wr_keepsCfgLoupe

theorem bump_keepsCfgLoupe (s : State) (w k : Nat) (hs : KeepsCfgLoupe s0 s) :
    KeepsCfgLoupe s0 (State.bump s w k) := by
  unfold State.bump
  repeat' first
    | with_reducible intro _
    | with_reducible assumption
    | with_reducible apply addTo_keepsCfgLoupe

theorem raiseAt_keepsCfgLoupe (s : State) (t e : Nat) (hs : KeepsCfgLoupe s0 s) :
    KeepsCfgLoupe s0 (State.raiseAt s t e) := by
  unfold State.raiseAt
  repeat' first
    | with_reducible intro _
    | with_reducible assumption
    | simp only [↓keepsCfgLoupe_mk_iff]
    | with_reducible apply keepsCfgLoupe_ite
    | (extract_lets x; first | (with_reducible refine keepsCfgLoupe_cut (s := x) ?_ ?_; (on_goal 2 => clear_value x); (on_goal 1 => unfold x)) | (subst x))
    | split

theorem raise_keepsCfgLoupe (s : State) (e : Nat) (hs : KeepsCfgLoupe s0 s) :
    KeepsCfgLoupe s0 (State.raise s e) := by
  unfold State.raise
  repeat' first
    | with_reducible intro _
    | with_reducible assumption
    | with_reducible apply raiseAt_keepsCfgLoupe
    | simp only [↓keepsCfgLoupe_mk_iff]
    | with_reducible apply keepsCfgLoupe_ite
    | (extract_lets x; first | (with_reducible refine keepsCfgLoupe_cut (s := x) ?_ ?_; (on_goal 2 => clear_value x); (on_goal 1 => unfold x)) | (subst x))
    | split

theorem setBit_keepsCfgLoupe (s : State) (k b : Nat) (v : Bool) (hs : KeepsCfgLoupe s0 s) :
    KeepsCfgLoupe s0 (State.setBit s k b v) := by
  unfold State.setBit
  repeat' first
    | with_reducible intro _
    | with_reducible assumption
    | with_reducible apply wr_keepsCfgLoupe
    | with_reducible apply keepsCfgLoupe_ite
    | split

theorem note_keepsCfgLoupe (s : State) (k b : Nat) (hs : KeepsCfgLoupe s0 s) :
    KeepsCfgLoupe s0 (State.note s k b) := by
  unfold State.note
  repeat' first
    | with_reducible intro _
    | with_reducible assumption
    | simp only [↓keepsCfgLoupe_mk_iff]
    | with_reducible apply keepsCfgLoupe_ite
    | (extract_lets x; first | (with_reducible refine keepsCfgLoupe_cut (s := x) ?_ ?_; (on_goal 2 => clear_value x); (on_goal 1 => unfold x)) | (subst x))
    | split

theorem flag_keepsCfgLoupe (s : State) (k b e : Nat) (hs : KeepsCfgLoupe s0 s) :
    KeepsCfgLoupe s0 (State.flag s k b e) := by
  unfold State.flag
  repeat' first
    | with_reducible intro _
    | with_reducible assumption
    | with_reducible apply note_keepsCfgLoupe
    | with_reducible apply setBit_keepsCfgLoupe
    | with_reducible apply raise_keepsCfgLoupe
    | simp only [↓keepsCfgLoupe_mk_iff]
    | with_reducible apply keepsCfgLoupe_ite
    | (extract_lets x; first | (with_reducible refine keepsCfgLoupe_cut (s := x) ?_ ?_; (on_goal 2 => clear_value x); (on_goal 1 => unfold x)) | (subst x))
    | split

theorem upto_keepsCfgLoupe (s : State) (t : Nat) (hs : KeepsCfgLoupe s0 s) :
    KeepsCfgLoupe s0 (State.upto s t) := by
  unfold State.upto
  repeat' first
    | with_reducible intro _
    | with_reducible assumption
    | simp only [↓keepsCfgLoupe_mk_iff]
    | with_reducible apply keepsCfgLoupe_ite
    | (extract_lets x; first | (with_reducible refine keepsCfgLoupe_cut (s := x) ?_ ?_; (on_goal 2 => clear_value x); (on_goal 1 => unfold x)) | (subst x))
    | split

theorem modVe_keepsCfgLoupe (s : State) (n : Nat) (f : VeRun → VeRun) (hs : KeepsCfgLoupe s0 s) :
    KeepsCfgLoupe s0 (State.modVe s n f) := by
  unfold State.modVe
  repeat' first
    | with_reducible intro _
    | with_reducible assumption
    | simp only [↓keepsCfgLoupe_mk_iff]

theorem modMirror_keepsCfgLoupe (s : State) (f : MirrorS → MirrorS) (hs : KeepsCfgLoupe s0 s) :
    KeepsCfgLoupe s0 (State.modMirror s f) := by
  unfold State.modMirror
  repeat' first
    | with_reducible intro _
    | with_reducible assumption
    | simp only [↓keepsCfgLoupe_mk_iff]

theorem restartLease_keepsCfgLoupe (s : State) (hs : KeepsCfgLoupe s0 s) :
    KeepsCfgLoupe s0 (restartLease s) := by
  unfold restartLease
  repeat' first
    | with_reducible intro _
    | with_reducible assumption
    | with_reducible apply modMirror_keepsCfgLoupe
    | simp only [↓keepsCfgLoupe_mk_iff]

theorem barrierLeft_keepsCfgLoupe (n at' : Nat) (s : State) (hs : KeepsCfgLoupe s0 s) :
    KeepsCfgLoupe s0 (barrierLeft n at' s) := by
  unfold barrierLeft
  repeat' first
    | with_reducible intro _
    | with_reducible assumption
    | with_reducible apply modVe_keepsCfgLoupe
    | simp only [↓keepsCfgLoupe_mk_iff]
    | with_reducible apply keepsCfgLoupe_ite
    | with_reducible apply keepsCfgLoupe_foldl
    | split

theorem disarmStarts_keepsCfgLoupe (s : State) (hs : KeepsCfgLoupe s0 s) :
    KeepsCfgLoupe s0 (disarmStarts s) := by
  unfold disarmStarts
  repeat' first
    | with_reducible intro _
    | with_reducible assumption
    | with_reducible apply wr_keepsCfgLoupe
    | with_reducible apply modVe_keepsCfgLoupe
    | with_reducible apply barrierLeft_keepsCfgLoupe
    | simp only [↓keepsCfgLoupe_mk_iff]
    | with_reducible apply keepsCfgLoupe_ite
    | with_reducible apply keepsCfgLoupe_foldl
    | (extract_lets x; first | (with_reducible refine keepsCfgLoupe_cut (s := x) ?_ ?_; (on_goal 2 => clear_value x); (on_goal 1 => unfold x)) | (subst x))
    | split

theorem disarmTo_keepsCfgLoupe (c : Nat) (s : State) (hs : KeepsCfgLoupe s0 s) :
    KeepsCfgLoupe s0 (disarmTo c s) := by
  unfold disarmTo
  repeat' first
    | with_reducible intro _
    | with_reducible assumption
    | with_reducible apply restartLease_keepsCfgLoupe
    | with_reducible apply disarmStarts_keepsCfgLoupe
    | with_reducible apply wr_keepsCfgLoupe
    | with_reducible apply modMirror_keepsCfgLoupe
    | simp only [↓keepsCfgLoupe_mk_iff]

theorem reopen_keepsCfgLoupe (s : State) (hs : KeepsCfgLoupe s0 s) :
    KeepsCfgLoupe s0 (reopen s) := by
  unfold reopen
  repeat' first
    | with_reducible intro _
    | with_reducible assumption
    | with_reducible apply disarmTo_keepsCfgLoupe
    | with_reducible apply wr_keepsCfgLoupe
    | with_reducible apply raise_keepsCfgLoupe
    | with_reducible apply keepsCfgLoupe_ite
    | (extract_lets x; first | (with_reducible refine keepsCfgLoupe_cut (s := x) ?_ ?_; (on_goal 2 => clear_value x); (on_goal 1 => unfold x)) | (subst x))
    | split

theorem reopenIf_keepsCfgLoupe (c : Bool) (s : State) (hs : KeepsCfgLoupe s0 s) :
    KeepsCfgLoupe s0 (reopenIf c s) := by
  unfold reopenIf
  repeat' first
    | with_reducible intro _
    | with_reducible assumption
    | with_reducible apply reopen_keepsCfgLoupe
    | with_reducible apply keepsCfgLoupe_ite
    | split

theorem engineChanged_keepsCfgLoupe (n : Nat) (s : State) (hs : KeepsCfgLoupe s0 s) :
    KeepsCfgLoupe s0 (engineChanged n s) := by
  unfold engineChanged
  repeat' first
    | with_reducible intro _
    | with_reducible assumption
    | with_reducible apply reopenIf_keepsCfgLoupe

theorem veEnter_keepsCfgLoupe (n c : Nat) (s : State) (hs : KeepsCfgLoupe s0 s) :
    KeepsCfgLoupe s0 (veEnter n c s) := by
  unfold veEnter
  repeat' first
    | with_reducible intro _
    | with_reducible assumption
    | with_reducible apply engineChanged_keepsCfgLoupe
    | with_reducible apply wr_keepsCfgLoupe

theorem schedFree_keepsCfgLoupe (dsp : Bool) (n : Nat) (s : State) (hs : KeepsCfgLoupe s0 s) :
    KeepsCfgLoupe s0 (schedFree dsp n s) := by
  unfold schedFree
  repeat' first
    | with_reducible intro _
    | with_reducible assumption
    | simp only [↓keepsCfgLoupe_mk_iff]

theorem veStopEff_keepsCfgLoupe (n : Nat) (s : State) (hs : KeepsCfgLoupe s0 s) :
    KeepsCfgLoupe s0 (veStopEff n s) := by
  unfold veStopEff
  repeat' first
    | with_reducible intro _
    | with_reducible assumption
    | with_reducible apply schedFree_keepsCfgLoupe
    | with_reducible apply setBit_keepsCfgLoupe
    | with_reducible apply barrierLeft_keepsCfgLoupe
    | with_reducible apply veEnter_keepsCfgLoupe
    | with_reducible apply modVe_keepsCfgLoupe
    | simp only [↓keepsCfgLoupe_mk_iff]
    | with_reducible apply keepsCfgLoupe_ite
    | (extract_lets x; first | (with_reducible refine keepsCfgLoupe_cut (s := x) ?_ ?_; (on_goal 2 => clear_value x); (on_goal 1 => unfold x)) | (subst x))
    | split
end

theorem flipTarget_keepsCfgLoupe (u : Upset) (s : State) (hs : KeepsCfgLoupe s0 s) :
    KeepsCfgLoupe s0 (flipTarget u s) := by
  unfold flipTarget
  repeat' first
    | with_reducible intro _
    | with_reducible assumption
    | simp only [↓keepsCfgLoupe_mk_iff]
    | with_reducible apply keepsCfgLoupe_ite
    | (extract_lets x; first | (with_reducible refine keepsCfgLoupe_cut (s := x) ?_ ?_; (on_goal 2 => clear_value x); (on_goal 1 => unfold x)) | (subst x))
    | split

theorem loupeFlag_keepsCfgLoupe (b : Nat) (s : State) (hs : KeepsCfgLoupe s0 s) :
    KeepsCfgLoupe s0 (loupeFlag b s) := by
  unfold loupeFlag
  repeat' first
    | with_reducible intro _
    | with_reducible assumption
    | with_reducible apply flag_keepsCfgLoupe
    | with_reducible apply keepsCfgLoupe_ite
    | split

theorem loupeLast_keepsCfgLoupe (kind : Nat) (x : FrameId) (s : State) (hs : KeepsCfgLoupe s0 s) :
    KeepsCfgLoupe s0 (loupeLast kind x s) := by
  unfold loupeLast
  repeat' first
    | with_reducible intro _
    | with_reducible assumption
    | with_reducible apply wr_keepsCfgLoupe

theorem undo_keepsCfgLoupe (us : List Upset) (s : State) (hs : KeepsCfgLoupe s0 s) :
    KeepsCfgLoupe s0 (undo us s) := by
  unfold undo
  repeat' first
    | with_reducible intro _
    | with_reducible assumption
    | with_reducible apply flipTarget_keepsCfgLoupe
    | simp only [↓keepsCfgLoupe_mk_iff]
    | with_reducible apply keepsCfgLoupe_foldl

set_option Elab.async false in
theorem scanWord_keepsCfgLoupe (x : FrameId) (us : List Upset) (s : State) (hs : KeepsCfgLoupe s0 s) :
    KeepsCfgLoupe s0 (scanWord x us s) := by
  unfold scanWord
  repeat' first
    | with_reducible intro _
    | with_reducible assumption
    | with_reducible apply undo_keepsCfgLoupe
    | with_reducible apply loupeLast_keepsCfgLoupe
    | with_reducible apply loupeFlag_keepsCfgLoupe
    | with_reducible apply upto_keepsCfgLoupe
    | with_reducible apply bump_keepsCfgLoupe
    | simp only [↓keepsCfgLoupe_mk_iff]
    | with_reducible apply keepsCfgLoupe_ite
    | (extract_lets x; first | (with_reducible refine keepsCfgLoupe_cut (s := x) ?_ ?_; (on_goal 2 => clear_value x); (on_goal 1 => unfold x)) | (subst x))
    | split

end Sys2Proof.Laws
end

