-- ==== Sys2Proof/Laws/KeepsFacetIo.lean ====
section
/-! SUPPORT. Functions g of one value of State.facetOf: what the operations it lists leave unchanged. -/
set_option linter.unreachableTactic false
set_option linter.unusedSimpArgs false
set_option linter.unusedTactic false
namespace Sys2Proof.Laws
open Sys2Proof.Machine
section
variable {α : Type} {g : FacetS → α} {nn : Nat} {s0 : State}
def KeepsFacetIo (g : FacetS → α) (nn : Nat) (s0 s : State) : Prop := g (s.facetOf nn) = g (s0.facetOf nn)
theorem keepsFacetIo_ite {c : Prop} [Decidable c] {x y : State} (hx : KeepsFacetIo g nn s0 x) (hy : KeepsFacetIo g nn s0 y) : KeepsFacetIo g nn s0 (if c then x else y) := by split <;> assumption
theorem keepsFacetIo_foldl {β : Type} {f : State → β → State} (hf : ∀ s x, KeepsFacetIo g nn s0 s → KeepsFacetIo g nn s0 (f s x)) :
    ∀ {l : List β} {s : State}, KeepsFacetIo g nn s0 s → KeepsFacetIo g nn s0 (l.foldl f s)
  | [], _, h => h
  | x :: l, s, h => keepsFacetIo_foldl (l := l) hf (hf s x h)
theorem keepsFacetIo_cut {s : State} {p : Prop} (h : KeepsFacetIo g nn s0 s) (f : KeepsFacetIo g nn s0 s → p) : p := f h
theorem modFacet_keepsFacetIo (m : Nat) (f : FacetS → FacetS) (s : State) (h : KeepsFacetIo g nn s0 s) (hf : ∀ e, g (f e) = g e) : KeepsFacetIo g nn s0 (s.modFacet m f) := by
  unfold KeepsFacetIo at *
  by_cases e : nn = m
  · subst e; rw [facetOf_modFacet, hf, h]
  · rw [facetOf_modFacet_other s e, h]
theorem wr_keepsFacetIo (k v : Nat) (s : State) (h : KeepsFacetIo g nn s0 s) : KeepsFacetIo g nn s0 (s.wr k v) := h
theorem keepsFacetIo_mk_iff {s : State} {x_now : Nat} {x_reg : Tab Nat} {x_mem : List Host.Cell} {x_evq : List (Nat × Nat)} {x_freeCtr : Nat} {x_pending : List Instr} {x_hdi : HdiS} {x_clk : ClockS} {x_sched : List Sched} {x_ve : Tab VeRun} {x_outCh : Tab OutCh} {x_inCh : Tab InCh} {x_fcp : Tab FcpS} {x_sq : Tab SqS} {x_brk : Tab BrkS} {x_tgt : Tab TgtS} {x_groupAt : List (Nat × Nat)} {x_dsp : Tab DspRun} {x_focus : FocusS} {x_trim : TrimS} {x_reqs : List MeshReq} {x_resps : List MeshResp} {x_held : List PortReq} {x_steal : List PortReq} {x_labels : List (MeshReq × Nat)} {x_drain : Option Drain} {x_trace : List Nat} {x_dmc : Tab DmcS} {x_autoTrain : Bool} {x_crh : CrhS} {x_cfg : CfgS} {x_fresh : List (Nat × Nat × Nat)} {x_cleared : List (Nat × Nat × Nat)} {x_sup : SupS} {x_dbg : DbgS} {x_tmu : TmuS} {x_lanes : Tab LaneS} {x_cells : Tab (Option CellS)} {x_cellCfg : Tab CellCfg} {x_sels : Tab Nat} {x_tracks : Tab Nat} {x_upsets : List Upset} {x_fev : List (Nat × Nat)} {x_panes : Tab PaneS} {x_banks : Tab BankS} {x_pins : PinsS} :
    KeepsFacetIo g nn s0 ⟨x_now, x_reg, x_mem, x_evq, x_freeCtr, x_pending, x_hdi, x_clk, x_sched, x_ve, x_outCh, x_inCh, x_fcp, x_sq, x_brk, x_tgt, x_groupAt, x_dsp, x_focus, x_trim, x_reqs, x_resps, x_held, x_steal, x_labels, x_drain, x_trace, x_dmc, x_autoTrain, x_crh, x_cfg, x_fresh, x_cleared, x_sup, x_dbg, x_tmu, x_lanes, x_cells, x_cellCfg, x_sels, x_tracks, x_upsets, s.facets, x_fev, x_panes, x_banks, x_pins⟩ ↔ KeepsFacetIo g nn s0 s := Iff.rfl
theorem addTo_keepsFacetIo (s : State) (w k d : Nat) (hs : KeepsFacetIo (fun e : FacetS => e.io) nn s0 s) :
    KeepsFacetIo (fun e : FacetS => e.io) nn s0 (State.addTo s w k d) := by
  unfold State.addTo
  repeat' first
    | with_reducible intro _
    | with_reducible assumption
    | with_reducible apply wr_keepsFacetIo

theorem bump_keepsFacetIo (s : State) (w k : Nat) (hs : KeepsFacetIo (fun e : FacetS => e.io) nn s0 s) :
    KeepsFacetIo (fun e : FacetS => e.io) nn s0 (State.bump s w k) := by
  unfold State.bump
  repeat' first
    | with_reducible intro _
    | with_reducible assumption
    | with_reducible apply addTo_keepsFacetIo

theorem raiseAt_keepsFacetIo (s : State) (t e : Nat) (hs : KeepsFacetIo (fun e : FacetS => e.io) nn s0 s) :
    KeepsFacetIo (fun e : FacetS => e.io) nn s0 (State.raiseAt s t e) := by
  unfold State.raiseAt
  repeat' first
    | with_reducible intro _
    | with_reducible assumption
    | simp only [↓keepsFacetIo_mk_iff]
    | with_reducible apply keepsFacetIo_ite
    | (extract_lets x; first | (with_reducible refine keepsFacetIo_cut (s := x) ?_ ?_; (on_goal 2 => clear_value x); (on_goal 1 => unfold x)) | (subst x))
    | split

theorem raise_keepsFacetIo (s : State) (e : Nat) (hs : KeepsFacetIo (fun e : FacetS => e.io) nn s0 s) :
    KeepsFacetIo (fun e : FacetS => e.io) nn s0 (State.raise s e) := by
  unfold State.raise
  repeat' first
    | with_reducible intro _
    | with_reducible assumption
    | with_reducible apply raiseAt_keepsFacetIo
    | simp only [↓keepsFacetIo_mk_iff]
    | with_reducible apply keepsFacetIo_ite
    | (extract_lets x; first | (with_reducible refine keepsFacetIo_cut (s := x) ?_ ?_; (on_goal 2 => clear_value x); (on_goal 1 => unfold x)) | (subst x))
    | split

theorem setBit_keepsFacetIo (s : State) (k b : Nat) (v : Bool) (hs : KeepsFacetIo (fun e : FacetS => e.io) nn s0 s) :
    KeepsFacetIo (fun e : FacetS => e.io) nn s0 (State.setBit s k b v) := by
  unfold State.setBit
  repeat' first
    | with_reducible intro _
    | with_reducible assumption
    | with_reducible apply wr_keepsFacetIo
    | with_reducible apply keepsFacetIo_ite
    | split

theorem upto_keepsFacetIo (s : State) (t : Nat) (hs : KeepsFacetIo (fun e : FacetS => e.io) nn s0 s) : KeepsFacetIo (fun e : FacetS => e.io) nn s0 (State.upto s t) :=
  hs

theorem modVe_keepsFacetIo (s : State) (n : Nat) (f : VeRun → VeRun) (hs : KeepsFacetIo (fun e : FacetS => e.io) nn s0 s) :
    KeepsFacetIo (fun e : FacetS => e.io) nn s0 (State.modVe s n f) := by
  unfold State.modVe
  repeat' first
    | with_reducible intro _
    | with_reducible assumption
    | simp only [↓keepsFacetIo_mk_iff]

theorem modMirror_keepsFacetIo (s : State) (f : MirrorS → MirrorS) (hs : KeepsFacetIo (fun e : FacetS => e.io) nn s0 s) :
    KeepsFacetIo (fun e : FacetS => e.io) nn s0 (State.modMirror s f) := by
  unfold State.modMirror
  repeat' first
    | with_reducible intro _
    | with_reducible assumption
    | simp only [↓keepsFacetIo_mk_iff]

theorem restartLease_keepsFacetIo (s : State) (hs : KeepsFacetIo (fun e : FacetS => e.io) nn s0 s) :
    KeepsFacetIo (fun e : FacetS => e.io) nn s0 (restartLease s) := by
  unfold restartLease
  repeat' first
    | with_reducible intro _
    | with_reducible assumption
    | with_reducible apply modMirror_keepsFacetIo
    | simp only [↓keepsFacetIo_mk_iff]

theorem barrierLeft_keepsFacetIo (n at' : Nat) (s : State) (hs : KeepsFacetIo (fun e : FacetS => e.io) nn s0 s) :
    KeepsFacetIo (fun e : FacetS => e.io) nn s0 (barrierLeft n at' s) := by
  unfold barrierLeft
  repeat' first
    | with_reducible intro _
    | with_reducible assumption
    | with_reducible apply modVe_keepsFacetIo
    | simp only [↓keepsFacetIo_mk_iff]
    | with_reducible apply keepsFacetIo_ite
    | with_reducible apply keepsFacetIo_foldl
    | split

theorem disarmStarts_keepsFacetIo (s : State) (hs : KeepsFacetIo (fun e : FacetS => e.io) nn s0 s) :
    KeepsFacetIo (fun e : FacetS => e.io) nn s0 (disarmStarts s) := by
  unfold disarmStarts
  repeat' first
    | with_reducible intro _
    | with_reducible assumption
    | with_reducible apply wr_keepsFacetIo
    | with_reducible apply modVe_keepsFacetIo
    | with_reducible apply barrierLeft_keepsFacetIo
    | simp only [↓keepsFacetIo_mk_iff]
    | with_reducible apply keepsFacetIo_ite
    | with_reducible apply keepsFacetIo_foldl
    | (extract_lets x; first | (with_reducible refine keepsFacetIo_cut (s := x) ?_ ?_; (on_goal 2 => clear_value x); (on_goal 1 => unfold x)) | (subst x))
    | split

theorem disarmTo_keepsFacetIo (c : Nat) (s : State) (hs : KeepsFacetIo (fun e : FacetS => e.io) nn s0 s) :
    KeepsFacetIo (fun e : FacetS => e.io) nn s0 (disarmTo c s) := by
  unfold disarmTo
  repeat' first
    | with_reducible intro _
    | with_reducible assumption
    | with_reducible apply restartLease_keepsFacetIo
    | with_reducible apply disarmStarts_keepsFacetIo
    | with_reducible apply wr_keepsFacetIo
    | with_reducible apply modMirror_keepsFacetIo
    | simp only [↓keepsFacetIo_mk_iff]

theorem reopen_keepsFacetIo (s : State) (hs : KeepsFacetIo (fun e : FacetS => e.io) nn s0 s) :
    KeepsFacetIo (fun e : FacetS => e.io) nn s0 (reopen s) := by
  unfold reopen
  repeat' first
    | with_reducible intro _
    | with_reducible assumption
    | with_reducible apply disarmTo_keepsFacetIo
    | with_reducible apply wr_keepsFacetIo
    | with_reducible apply raise_keepsFacetIo
    | with_reducible apply keepsFacetIo_ite
    | (extract_lets x; first | (with_reducible refine keepsFacetIo_cut (s := x) ?_ ?_; (on_goal 2 => clear_value x); (on_goal 1 => unfold x)) | (subst x))
    | split

theorem reopenIf_keepsFacetIo (c : Bool) (s : State) (hs : KeepsFacetIo (fun e : FacetS => e.io) nn s0 s) :
    KeepsFacetIo (fun e : FacetS => e.io) nn s0 (reopenIf c s) := by
  unfold reopenIf
  repeat' first
    | with_reducible intro _
    | with_reducible assumption
    | with_reducible apply reopen_keepsFacetIo
    | with_reducible apply keepsFacetIo_ite
    | split

theorem clearCells_keepsFacetIo (f : Nat) (s : State) (hs : KeepsFacetIo (fun e : FacetS => e.io) nn s0 s) :
    KeepsFacetIo (fun e : FacetS => e.io) nn s0 (clearCells f s) := by
  unfold clearCells
  repeat' first
    | with_reducible intro _
    | with_reducible assumption
    | simp only [↓keepsFacetIo_mk_iff]

theorem facetChanged_keepsFacetIo (f : Nat) (s : State) (hs : KeepsFacetIo (fun e : FacetS => e.io) nn s0 s) :
    KeepsFacetIo (fun e : FacetS => e.io) nn s0 (facetChanged f s) := by
  unfold facetChanged
  repeat' first
    | with_reducible intro _
    | with_reducible assumption
    | with_reducible apply reopenIf_keepsFacetIo

theorem releaseFacet_keepsFacetIo (f e : Nat) (s : State) (hs : KeepsFacetIo (fun e : FacetS => e.io) nn s0 s) :
    KeepsFacetIo (fun e : FacetS => e.io) nn s0 (releaseFacet f e s) := by
  unfold releaseFacet
  repeat' first
    | with_reducible intro _
    | with_reducible assumption
    | with_reducible apply facetChanged_keepsFacetIo
    | with_reducible apply clearCells_keepsFacetIo
    | with_reducible apply setBit_keepsFacetIo
    | (with_reducible refine modFacet_keepsFacetIo _ _ _ ?_ ?_; (on_goal 2 => (intro e; rfl)))
    | simp only [↓keepsFacetIo_mk_iff]

theorem modCfg_keepsFacetIo (f : CfgS → CfgS) (s : State) (hs : KeepsFacetIo (fun e : FacetS => e.io) nn s0 s) :
    KeepsFacetIo (fun e : FacetS => e.io) nn s0 (modCfg f s) := by
  unfold modCfg
  repeat' first
    | with_reducible intro _
    | with_reducible assumption
    | simp only [↓keepsFacetIo_mk_iff]

theorem facetLoaded_keepsFacetIo (l : LoadS) (h : Header) (f : Nat) (s : State) (hs : KeepsFacetIo (fun e : FacetS => e.io) nn s0 s) :
    KeepsFacetIo (fun e : FacetS => e.io) nn s0 (facetLoaded l h f s) := by
  unfold facetLoaded
  repeat' first
    | with_reducible intro _
    | with_reducible assumption
    | with_reducible apply wr_keepsFacetIo
    | with_reducible apply bump_keepsFacetIo
    | with_reducible apply modCfg_keepsFacetIo
    | simp only [↓keepsFacetIo_mk_iff]
    | (extract_lets x; first | (with_reducible refine keepsFacetIo_cut (s := x) ?_ ?_; (on_goal 2 => clear_value x); (on_goal 1 => unfold x)) | (subst x))

set_option Elab.async false in
theorem frameDone_keepsFacetIo (l : LoadS) (h : Header) (id : FrameId) (size payload : Nat) (s : State) (hs : KeepsFacetIo (fun e : FacetS => e.io) nn s0 s) :
    KeepsFacetIo (fun e : FacetS => e.io) nn s0 (frameDone l h id size payload s) := by
  unfold frameDone
  repeat' first
    | with_reducible intro _
    | with_reducible assumption
    | with_reducible apply modCfg_keepsFacetIo
    | with_reducible apply releaseFacet_keepsFacetIo
    | with_reducible apply facetLoaded_keepsFacetIo
    | with_reducible apply upto_keepsFacetIo
    | simp only [↓keepsFacetIo_mk_iff]
    | with_reducible apply keepsFacetIo_ite
    | (extract_lets x; first | (with_reducible refine keepsFacetIo_cut (s := x) ?_ ?_; (on_goal 2 => clear_value x); (on_goal 1 => unfold x)) | (subst x))
    | split
end

end Sys2Proof.Laws
end

