-- ==== Sys2Proof/Laws/KeepsSels.lean ====
section
/-! SUPPORT. State.sels: what the operations it lists leave unchanged. -/
set_option linter.unreachableTactic false
set_option linter.unusedSimpArgs false
set_option linter.unusedTactic false
namespace Sys2Proof.Laws
open Sys2Proof.Machine
section
variable {s0 : State}
def KeepsSels (s0 s : State) : Prop := s.sels = s0.sels
theorem keepsSels_ite {c : Prop} [Decidable c] {x y : State} (hx : KeepsSels s0 x) (hy : KeepsSels s0 y) : KeepsSels s0 (if c then x else y) := by split <;> assumption
theorem keepsSels_foldl {β : Type} {f : State → β → State} (hf : ∀ s x, KeepsSels s0 s → KeepsSels s0 (f s x)) :
    ∀ {l : List β} {s : State}, KeepsSels s0 s → KeepsSels s0 (l.foldl f s)
  | [], _, h => h
  | x :: l, s, h => keepsSels_foldl (l := l) hf (hf s x h)
theorem keepsSels_cut {s : State} {p : Prop} (h : KeepsSels s0 s) (f : KeepsSels s0 s → p) : p := f h
theorem wr_keepsSels (k v : Nat) (s : State) (h : KeepsSels s0 s) : KeepsSels s0 (s.wr k v) := h
theorem keepsSels_mk_iff {s : State} {x_now : Nat} {x_reg : Tab Nat} {x_mem : List Host.Cell} {x_evq : List (Nat × Nat)} {x_freeCtr : Nat} {x_pending : List Instr} {x_hdi : HdiS} {x_clk : ClockS} {x_sched : List Sched} {x_ve : Tab VeRun} {x_outCh : Tab OutCh} {x_inCh : Tab InCh} {x_fcp : Tab FcpS} {x_sq : Tab SqS} {x_brk : Tab BrkS} {x_tgt : Tab TgtS} {x_groupAt : List (Nat × Nat)} {x_dsp : Tab DspRun} {x_focus : FocusS} {x_trim : TrimS} {x_reqs : List MeshReq} {x_resps : List MeshResp} {x_held : List PortReq} {x_steal : List PortReq} {x_labels : List (MeshReq × Nat)} {x_drain : Option Drain} {x_trace : List Nat} {x_dmc : Tab DmcS} {x_autoTrain : Bool} {x_crh : CrhS} {x_cfg : CfgS} {x_fresh : List (Nat × Nat × Nat)} {x_cleared : List (Nat × Nat × Nat)} {x_sup : SupS} {x_dbg : DbgS} {x_tmu : TmuS} {x_lanes : Tab LaneS} {x_cells : Tab (Option CellS)} {x_cellCfg : Tab CellCfg} {x_tracks : Tab Nat} {x_upsets : List Upset} {x_facets : Tab FacetS} {x_fev : List (Nat × Nat)} {x_panes : Tab PaneS} {x_banks : Tab BankS} {x_pins : PinsS} :
    KeepsSels s0 ⟨x_now, x_reg, x_mem, x_evq, x_freeCtr, x_pending, x_hdi, x_clk, x_sched, x_ve, x_outCh, x_inCh, x_fcp, x_sq, x_brk, x_tgt, x_groupAt, x_dsp, x_focus, x_trim, x_reqs, x_resps, x_held, x_steal, x_labels, x_drain, x_trace, x_dmc, x_autoTrain, x_crh, x_cfg, x_fresh, x_cleared, x_sup, x_dbg, x_tmu, x_lanes, x_cells, x_cellCfg, s.sels, x_tracks, x_upsets, x_facets, x_fev, x_panes, x_banks, x_pins⟩ ↔ KeepsSels s0 s := Iff.rfl
theorem addTo_keepsSels (s : State) (w k d : Nat) (hs : KeepsSels s0 s) :
    KeepsSels s0 (State.addTo s w k d) := by
  unfold State.addTo
  repeat' first
    | with_reducible intro _
    | with_reducible assumption
    | with_reducible apply wr_keepsSels

theorem bump_keepsSels (s : State) (w k : Nat) (hs : KeepsSels s0 s) :
    KeepsSels s0 (State.bump s w k) := by
  unfold State.bump
  repeat' first
    | with_reducible intro _
    | with_reducible assumption
    | with_reducible apply addTo_keepsSels

theorem raiseAt_keepsSels (s : State) (t e : Nat) (hs : KeepsSels s0 s) :
    KeepsSels s0 (State.raiseAt s t e) := by
  unfold State.raiseAt
  repeat' first
    | with_reducible intro _
    | with_reducible assumption
    | simp only [↓keepsSels_mk_iff]
    | with_reducible apply keepsSels_ite
    | (extract_lets x; first | (with_reducible refine keepsSels_cut (s := x) ?_ ?_; (on_goal 2 => clear_value x); (on_goal 1 => unfold x)) | (subst x))
    | split

theorem raise_keepsSels (s : State) (e : Nat) (hs : KeepsSels s0 s) :
    KeepsSels s0 (State.raise s e) := by
  unfold State.raise
  repeat' first
    | with_reducible intro _
    | with_reducible assumption
    | with_reducible apply raiseAt_keepsSels
    | simp only [↓keepsSels_mk_iff]
    | with_reducible apply keepsSels_ite
    | (extract_lets x; first | (with_reducible refine keepsSels_cut (s := x) ?_ ?_; (on_goal 2 => clear_value x); (on_goal 1 => unfold x)) | (subst x))
    | split

theorem setBit_keepsSels (s : State) (k b : Nat) (v : Bool) (hs : KeepsSels s0 s) :
    KeepsSels s0 (State.setBit s k b v) := by
  unfold State.setBit
  repeat' first
    | with_reducible intro _
    | with_reducible assumption
    | with_reducible apply wr_keepsSels
    | with_reducible apply keepsSels_ite
    | split

theorem upto_keepsSels (s : State) (t : Nat) (hs : KeepsSels s0 s) : KeepsSels s0 (State.upto s t) :=
  hs

theorem modVe_keepsSels (s : State) (n : Nat) (f : VeRun → VeRun) (hs : KeepsSels s0 s) :
    KeepsSels s0 (State.modVe s n f) := by
  unfold State.modVe
  repeat' first
    | with_reducible intro _
    | with_reducible assumption
    | simp only [↓keepsSels_mk_iff]

theorem modFacet_keepsSels (s : State) (f : Nat) (g : FacetS → FacetS) (hs : KeepsSels s0 s) :
    KeepsSels s0 (State.modFacet s f g) := by
  unfold State.modFacet
  repeat' first
    | with_reducible intro _
    | with_reducible assumption
    | simp only [↓keepsSels_mk_iff]

theorem modMirror_keepsSels (s : State) (f : MirrorS → MirrorS) (hs : KeepsSels s0 s) :
    KeepsSels s0 (State.modMirror s f) := by
  unfold State.modMirror
  repeat' first
    | with_reducible intro _
    | with_reducible assumption
    | simp only [↓keepsSels_mk_iff]

theorem restartLease_keepsSels (s : State) (hs : KeepsSels s0 s) :
    KeepsSels s0 (restartLease s) := by
  unfold restartLease
  repeat' first
    | with_reducible intro _
    | with_reducible assumption
    | with_reducible apply modMirror_keepsSels
    | simp only [↓keepsSels_mk_iff]

theorem barrierLeft_keepsSels (n at' : Nat) (s : State) (hs : KeepsSels s0 s) :
    KeepsSels s0 (barrierLeft n at' s) := by
  unfold barrierLeft
  repeat' first
    | with_reducible intro _
    | with_reducible assumption
    | with_reducible apply modVe_keepsSels
    | simp only [↓keepsSels_mk_iff]
    | with_reducible apply keepsSels_ite
    | with_reducible apply keepsSels_foldl
    | split

theorem disarmStarts_keepsSels (s : State) (hs : KeepsSels s0 s) :
    KeepsSels s0 (disarmStarts s) := by
  unfold disarmStarts
  repeat' first
    | with_reducible intro _
    | with_reducible assumption
    | with_reducible apply wr_keepsSels
    | with_reducible apply modVe_keepsSels
    | with_reducible apply barrierLeft_keepsSels
    | simp only [↓keepsSels_mk_iff]
    | with_reducible apply keepsSels_ite
    | with_reducible apply keepsSels_foldl
    | (extract_lets x; first | (with_reducible refine keepsSels_cut (s := x) ?_ ?_; (on_goal 2 => clear_value x); (on_goal 1 => unfold x)) | (subst x))
    | split

theorem disarmTo_keepsSels (c : Nat) (s : State) (hs : KeepsSels s0 s) :
    KeepsSels s0 (disarmTo c s) := by
  unfold disarmTo
  repeat' first
    | with_reducible intro _
    | with_reducible assumption
    | with_reducible apply restartLease_keepsSels
    | with_reducible apply disarmStarts_keepsSels
    | with_reducible apply wr_keepsSels
    | with_reducible apply modMirror_keepsSels
    | simp only [↓keepsSels_mk_iff]

theorem reopen_keepsSels (s : State) (hs : KeepsSels s0 s) :
    KeepsSels s0 (reopen s) := by
  unfold reopen
  repeat' first
    | with_reducible intro _
    | with_reducible assumption
    | with_reducible apply disarmTo_keepsSels
    | with_reducible apply wr_keepsSels
    | with_reducible apply raise_keepsSels
    | with_reducible apply keepsSels_ite
    | (extract_lets x; first | (with_reducible refine keepsSels_cut (s := x) ?_ ?_; (on_goal 2 => clear_value x); (on_goal 1 => unfold x)) | (subst x))
    | split

theorem reopenIf_keepsSels (c : Bool) (s : State) (hs : KeepsSels s0 s) :
    KeepsSels s0 (reopenIf c s) := by
  unfold reopenIf
  repeat' first
    | with_reducible intro _
    | with_reducible assumption
    | with_reducible apply reopen_keepsSels
    | with_reducible apply keepsSels_ite
    | split

theorem clearCells_keepsSels (f : Nat) (s : State) (hs : KeepsSels s0 s) :
    KeepsSels s0 (clearCells f s) := by
  unfold clearCells
  repeat' first
    | with_reducible intro _
    | with_reducible assumption
    | simp only [↓keepsSels_mk_iff]

theorem facetChanged_keepsSels (f : Nat) (s : State) (hs : KeepsSels s0 s) :
    KeepsSels s0 (facetChanged f s) := by
  unfold facetChanged
  repeat' first
    | with_reducible intro _
    | with_reducible assumption
    | with_reducible apply reopenIf_keepsSels

theorem releaseFacet_keepsSels (f e : Nat) (s : State) (hs : KeepsSels s0 s) :
    KeepsSels s0 (releaseFacet f e s) := by
  unfold releaseFacet
  repeat' first
    | with_reducible intro _
    | with_reducible assumption
    | with_reducible apply facetChanged_keepsSels
    | with_reducible apply clearCells_keepsSels
    | with_reducible apply setBit_keepsSels
    | with_reducible apply modFacet_keepsSels
    | simp only [↓keepsSels_mk_iff]

theorem modCfg_keepsSels (f : CfgS → CfgS) (s : State) (hs : KeepsSels s0 s) :
    KeepsSels s0 (modCfg f s) := by
  unfold modCfg
  repeat' first
    | with_reducible intro _
    | with_reducible assumption
    | simp only [↓keepsSels_mk_iff]

theorem facetLoaded_keepsSels (l : LoadS) (h : Header) (f : Nat) (s : State) (hs : KeepsSels s0 s) :
    KeepsSels s0 (facetLoaded l h f s) := by
  unfold facetLoaded
  repeat' first
    | with_reducible intro _
    | with_reducible assumption
    | with_reducible apply wr_keepsSels
    | with_reducible apply bump_keepsSels
    | with_reducible apply modCfg_keepsSels
    | simp only [↓keepsSels_mk_iff]
    | (extract_lets x; first | (with_reducible refine keepsSels_cut (s := x) ?_ ?_; (on_goal 2 => clear_value x); (on_goal 1 => unfold x)) | (subst x))

set_option Elab.async false in
theorem frameDone_keepsSels (l : LoadS) (h : Header) (id : FrameId) (size payload : Nat) (s : State) (hs : KeepsSels s0 s) :
    KeepsSels s0 (frameDone l h id size payload s) := by
  unfold frameDone
  repeat' first
    | with_reducible intro _
    | with_reducible assumption
    | with_reducible apply modCfg_keepsSels
    | with_reducible apply releaseFacet_keepsSels
    | with_reducible apply facetLoaded_keepsSels
    | with_reducible apply upto_keepsSels
    | simp only [↓keepsSels_mk_iff]
    | with_reducible apply keepsSels_ite
    | (extract_lets x; first | (with_reducible refine keepsSels_cut (s := x) ?_ ?_; (on_goal 2 => clear_value x); (on_goal 1 => unfold x)) | (subst x))
    | split
end

end Sys2Proof.Laws
end

