-- ==== Sys2Proof/Laws/CompleteCfg.lean ====
section
/-! SUPPORT. Configuration and the loupe: facts that proofs about their commands cite. -/
set_option linter.unreachableTactic false
set_option linter.unusedSimpArgs false
set_option linter.unusedTactic false
set_option linter.unusedVariables false
namespace Sys2Proof.Laws.CompleteCfg
open Sys2Proof.Machine Common
namespace LoadFacts
theorem wr_raise_rd (e k : Nat) (s : State) : (s.raise e).rd k = s.rd k := rd_raise _ _ _
theorem raise_cfg' (e : Nat) (s : State) : (s.raise e).cfg = s.cfg := raise_cfg _ _
def R (s t : State) : Prop := ∃ r, t = { s with reg := r }
theorem R_refl (s : State) : R s s := ⟨s.reg, rfl⟩
theorem R_trans {a b c : State} (h : R a b) (g : R b c) : R a c := by obtain ⟨r, rfl⟩ := h; obtain ⟨r', rfl⟩ := g; exact ⟨r', rfl⟩
theorem R_wr (s : State) (k v : Nat) : R s (s.wr k v) := ⟨_, rfl⟩
theorem R_fold {α : Type} {f : State → α → State} (hf : ∀ s x, R s (f s x)) : ∀ (l : List α) (s : State), R s (l.foldl f s)
  | [], s => R_refl s
  | a :: l, s => R_trans (hf s a) (R_fold hf l _)
theorem fold_rd {α : Type} {f : State → α → State} {k : Nat} {p : α → Prop} (hf : ∀ s x, p x → (f s x).rd k = s.rd k) : ∀ (l : List α) (s : State), (∀ x ∈ l, p x) → (l.foldl f s).rd k = s.rd k
  | [], _, _ => rfl
  | a :: l, s, h => by rw [List.foldl_cons, fold_rd hf l _ (fun x hx => h x (List.mem_cons_of_mem _ hx)), hf _ _ (h a (by simp))]
theorem in_lt {r f : Nat} (h : f ∈ facetsIn r) : f < 32 ∧ r.testBit f = true := by
  unfold facetsIn at h; rw [List.mem_filter, List.mem_range] at h; exact h
theorem R_src (l : LoadS) (r : Nat) (s : State) : R s (setSources l r s) := R_fold (fun s f => by split; exact R_trans (R_wr _ _ _) (R_wr _ _ _); exact R_refl _) _ _
/-- The members of a facet that the end of a load may write. -/
def FacetEnds (k : Nat) : Prop := ∃ f, f < 32 ∧ (k = CFG.FACET_STATE f ∨ k = CFG.FACET_LOADS f ∨ k = FAB.DESIGN_ID f ∨ k = CFG.LOUPE_SRC_TYPE f ∨ k = CFG.LOUPE_SRC_ADDR f)
theorem loaded_rd {l : LoadS} {h : Header} {f k : Nat} {s : State} (hf : f < 32) (hk : ¬ FacetEnds k) : (facetLoaded l h f s).rd k = s.rd k := by
  have n : ∀ j, (j = CFG.FACET_STATE f ∨ j = CFG.FACET_LOADS f ∨ j = FAB.DESIGN_ID f ∨ j = CFG.LOUPE_SRC_TYPE f ∨ j = CFG.LOUPE_SRC_ADDR f) → k ≠ j :=
    fun j hj e => hk ⟨f, hf, by rw [e]; exact hj⟩
  show ((((s.wr (CFG.FACET_STATE f) 2).bump 32 (CFG.FACET_LOADS f)).wr (FAB.DESIGN_ID f) h.design)).rd k = _
  rw [rd_wr_other _ (n _ (by simp)), bump_ne (n _ (by simp)), rd_wr_other _ (n _ (by simp))]
theorem tear_rd {l : LoadS} {h : Header} {k : Nat} {s : State} (hk : ¬ FacetEnds k) : (tearFacets l h s).rd k = s.rd k :=
  fold_rd (p := fun f => f < 32) (fun s f hf => by
    split
    · split
      · exact loaded_rd hf hk
      · exact rd_wr_other _ (fun e => hk ⟨f, hf, .inl e⟩) _
    · rfl) _ _ fun x hx => (in_lt hx).1
theorem src_rd {l : LoadS} {r k : Nat} {s : State} (h : ∀ f, f < 32 → k ≠ CFG.LOUPE_SRC_TYPE f ∧ k ≠ CFG.LOUPE_SRC_ADDR f) : (setSources l r s).rd k = s.rd k :=
  fold_rd (p := fun f => f < 32) (fun s f hf => by split; rw [rd_wr_other _ (h f hf).2, rd_wr_other _ (h f hf).1]; rfl) _ _ fun x hx => (in_lt hx).1
theorem at_rd {k e : Nat} {s : State} {b : Bool} : (({ s with autoTrain := b } : State).raise e).rd k = s.rd k := (rd_raise _ _ _).trans rfl
theorem end_rd {c a k : Nat} {s : State} {l : LoadS} (hl : s.cfg.load = some l) (hk : ¬ FacetEnds k)
    (h1 : k ≠ CFG.LOAD_TIME) (h2 : k ≠ CFG.LOAD_FAIL_AT) : (loadEnd c a s).rd k = (((s.wr CFG.LOAD_CAUSE c).wr CFG.LOAD_STATUS (causeStatus c)).wr CFG.LOAD_STATE (if c = 1 then 4 else 5)).rd k := by
  unfold loadEnd
  rw [hl]
  dsimp only
  rw [at_rd]
  show (match l.hdr with | none => _ | some h => _ : State).rd k = _
  cases l.hdr with
  | none => rfl
  | some h =>
    dsimp only
    rw [src_rd (fun f hf => ⟨fun e => hk ⟨f, hf, by simp [e]⟩, fun e => hk ⟨f, hf, by simp [e]⟩⟩)]
    split
    · rw [rd_wr_other _ h1]
    · rw [tear_rd hk, rd_wr_other _ h2]
theorem end_load {c a : Nat} {s : State} {l : LoadS} (hl : s.cfg.load = some l) : (loadEnd c a s).cfg.load = none := by
  unfold loadEnd
  rw [hl]
  dsimp only
  rw [raise_cfg']
  rfl
theorem ended {c a : Nat} {s : State} {l : LoadS} (hl : s.cfg.load = some l) : LoadEnded c (causeStatus c) (if c = 1 then 4 else 5) (loadEnd c a s) := by
  refine ⟨end_load hl, ?_, ?_, ?_⟩
  · rw [end_rd hl (by rintro ⟨f, hf, h⟩; simp only [CFG.LOAD_STATE, CFG.LOAD_STATUS, CFG.LOAD_CAUSE, CFG.LOAD_REGION, CFG.LOAD_BYTES, CFG.LOAD_FAIL_AT, CFG.LOAD_TIME, CFG.FLASH_INFO, CFG.FACET_STATE, CFG.FACET_LOADS, CFG.KEY_STATUS, CFG.FUSE_KEY_ID, CFG.BBRAM_KEY_ID, CFG.POLICY, CFG.TAMPER_CAUSE, CFG.TAMPER_COUNT, CFG.LOUPE_EN, CFG.LOUPE_HEARTBEAT, CFG.LOUPE_PASSES, CFG.LOUPE_PASS_TIME, CFG.LOUPE_CE, CFG.LOUPE_SEL, CFG.LOUPE_UE, CFG.LOUPE_RELOADS, CFG.LOUPE_RELOAD_FAIL, CFG.LOUPE_DEFERRED, CFG.LOUPE_ABANDONED, CFG.LOUPE_DAMAGED, CFG.LOUPE_RESETS, CFG.LOUPE_LAST, CFG.LOUPE_EVFLAGS, CFG.LOUPE_SRC_TYPE, CFG.LOUPE_SRC_ADDR, FAB.DESIGN_ID, HDI.STATUS, PAN.MODE, PAN.DISCARD, PAN.EVFLAGS, CRH.PWR_STATE, CRH.GATE_STATE, ne_eq] at h; omega) (by decide) (by decide), rd_wr_other _ (by decide), rd_wr_other _ (by decide), rd_wr_same]
  · rw [end_rd hl (by rintro ⟨f, hf, h⟩; simp only [CFG.LOAD_STATE, CFG.LOAD_STATUS, CFG.LOAD_CAUSE, CFG.LOAD_REGION, CFG.LOAD_BYTES, CFG.LOAD_FAIL_AT, CFG.LOAD_TIME, CFG.FLASH_INFO, CFG.FACET_STATE, CFG.FACET_LOADS, CFG.KEY_STATUS, CFG.FUSE_KEY_ID, CFG.BBRAM_KEY_ID, CFG.POLICY, CFG.TAMPER_CAUSE, CFG.TAMPER_COUNT, CFG.LOUPE_EN, CFG.LOUPE_HEARTBEAT, CFG.LOUPE_PASSES, CFG.LOUPE_PASS_TIME, CFG.LOUPE_CE, CFG.LOUPE_SEL, CFG.LOUPE_UE, CFG.LOUPE_RELOADS, CFG.LOUPE_RELOAD_FAIL, CFG.LOUPE_DEFERRED, CFG.LOUPE_ABANDONED, CFG.LOUPE_DAMAGED, CFG.LOUPE_RESETS, CFG.LOUPE_LAST, CFG.LOUPE_EVFLAGS, CFG.LOUPE_SRC_TYPE, CFG.LOUPE_SRC_ADDR, FAB.DESIGN_ID, HDI.STATUS, PAN.MODE, PAN.DISCARD, PAN.EVFLAGS, CRH.PWR_STATE, CRH.GATE_STATE, ne_eq] at h; omega) (by decide) (by decide), rd_wr_other _ (by decide), rd_wr_same]
  · rw [end_rd hl (by rintro ⟨f, hf, h⟩; simp only [CFG.LOAD_STATE, CFG.LOAD_STATUS, CFG.LOAD_CAUSE, CFG.LOAD_REGION, CFG.LOAD_BYTES, CFG.LOAD_FAIL_AT, CFG.LOAD_TIME, CFG.FLASH_INFO, CFG.FACET_STATE, CFG.FACET_LOADS, CFG.KEY_STATUS, CFG.FUSE_KEY_ID, CFG.BBRAM_KEY_ID, CFG.POLICY, CFG.TAMPER_CAUSE, CFG.TAMPER_COUNT, CFG.LOUPE_EN, CFG.LOUPE_HEARTBEAT, CFG.LOUPE_PASSES, CFG.LOUPE_PASS_TIME, CFG.LOUPE_CE, CFG.LOUPE_SEL, CFG.LOUPE_UE, CFG.LOUPE_RELOADS, CFG.LOUPE_RELOAD_FAIL, CFG.LOUPE_DEFERRED, CFG.LOUPE_ABANDONED, CFG.LOUPE_DAMAGED, CFG.LOUPE_RESETS, CFG.LOUPE_LAST, CFG.LOUPE_EVFLAGS, CFG.LOUPE_SRC_TYPE, CFG.LOUPE_SRC_ADDR, FAB.DESIGN_ID, HDI.STATUS, PAN.MODE, PAN.DISCARD, PAN.EVFLAGS, CRH.PWR_STATE, CRH.GATE_STATE, ne_eq] at h; omega) (by decide) (by decide), rd_wr_same]
theorem fail_end {c a : Nat} {s : State} {l : LoadS} (hl : s.cfg.load = some l) (h : l.auto = false ∨ l.hdr.isSome = true ∨ c = 0xA) : loadFail c a s = loadEnd c a s := by
  unfold loadFail
  rw [hl]
  dsimp only
  rw [if_neg]
  intro hh
  simp only [Bool.and_eq_true, bne_iff_ne, ne_eq, Option.isNone_iff_eq_none] at hh
  rcases h with h | h | h
  · rw [h] at hh; simp at hh
  · rw [hh.1.1.1.1.2] at h; cases h
  · exact hh.1.1.1.2 h
theorem failed {c a : Nat} {s : State} {l : LoadS} (hl : s.cfg.load = some l) (h : l.auto = false ∨ l.hdr.isSome = true ∨ c = 0xA) : LoadEnded c (causeStatus c) (if c = 1 then 4 else 5) (loadFail c a s) := by
  rw [fail_end hl h]; exact ended hl
theorem Ended_like {c a b : Nat} {s t : State} (h : LoadEnded c a b s) (hl : Like s t) : LoadEnded c a b t := by
  refine ⟨?_, ?_, ?_, ?_⟩
  · rw [hl.cfg]; exact h.1
  · rw [like_k hl (by decide)]; exact h.2.1
  · rw [like_k hl (by decide)]; exact h.2.2.1
  · rw [like_k hl (by decide)]; exact h.2.2.2
theorem abandon_rd {g : FrameId → Nat → Bool} {k : Nat} {s : State} (h : k ≠ CFG.LOUPE_ABANDONED) : (abandon g s).rd k = s.rd k := by
  unfold abandon; dsimp only; rw [addTo_ne h]; rfl
theorem abandon_facts (g : FrameId → Nat → Bool) (s : State) : (abandon g s).cfg.load = s.cfg.load ∧ (abandon g s).cfg.autoDue = s.cfg.autoDue ∧ (abandon g s).now = s.now ∧
    (abandon g s).reqs = s.reqs ∧ (abandon g s).resps = s.resps := ⟨rfl, rfl, rfl, rfl, rfl⟩
theorem start_facts (l : LoadS) (s : State) : (loadStart l s).rd CFG.LOAD_STATE = (if l.src = 0 then 1 else 2) ∧ (loadStart l s).rd CFG.LOAD_CAUSE = 0 ∧
    (loadStart l s).rd CFG.LOAD_BYTES = 0 ∧ (loadStart l s).cfg.load = some { l with dataAt := if l.auto = true then s.cfg.autoAt else s.now } ∧ (loadStart l s).cfg.autoDue = false ∧ (∀ k, k ∉ [CFG.LOAD_STATE, CFG.LOAD_CAUSE, CFG.LOAD_STATUS, CFG.LOAD_BYTES, CFG.LOUPE_ABANDONED] → (loadStart l s).rd k = s.rd k) := by
  unfold loadStart
  dsimp only
  have hn : (if l.src = 0 then abandon (fun _ src => Nat.beq src 1) s else s).now = s.now ∧
      (if l.src = 0 then abandon (fun _ src => Nat.beq src 1) s else s).cfg.autoAt = s.cfg.autoAt := by split <;> exact ⟨rfl, rfl⟩
  have hr : ∀ k, k ≠ CFG.LOUPE_ABANDONED → (if l.src = 0 then abandon (fun _ src => Nat.beq src 1) s else s).rd k = s.rd k := by
    intro k hk; split
    · exact abandon_rd hk
    · rfl
  generalize (if l.src = 0 then abandon (fun _ src => Nat.beq src 1) s else s) = u at hn hr
  refine ⟨?_, ?_, ?_, ?_, rfl, fun k hk => ?_⟩
  · show ((((u.wr CFG.LOAD_STATE _).wr CFG.LOAD_CAUSE 0).wr CFG.LOAD_STATUS 0).wr CFG.LOAD_BYTES 0).rd _ = _
    rw [rd_wr_other _ (by decide), rd_wr_other _ (by decide), rd_wr_other _ (by decide), rd_wr_same]
  · show ((((u.wr CFG.LOAD_STATE _).wr CFG.LOAD_CAUSE 0).wr CFG.LOAD_STATUS 0).wr CFG.LOAD_BYTES 0).rd _ = _
    rw [rd_wr_other _ (by decide), rd_wr_other _ (by decide), rd_wr_same]
  · show ((((u.wr CFG.LOAD_STATE _).wr CFG.LOAD_CAUSE 0).wr CFG.LOAD_STATUS 0).wr CFG.LOAD_BYTES 0).rd _ = _
    rw [rd_wr_same]
  · show some { l with dataAt := if l.auto = true then u.cfg.autoAt else u.now } = _; rw [hn.1, hn.2]
  · simp only [List.mem_cons, List.not_mem_nil, or_false, not_or] at hk
    show ((((u.wr CFG.LOAD_STATE _).wr CFG.LOAD_CAUSE 0).wr CFG.LOAD_STATUS 0).wr CFG.LOAD_BYTES 0).rd _ = _
    rw [rd_wr_other _ hk.2.2.2.1, rd_wr_other _ hk.2.2.1, rd_wr_other _ hk.2.1, rd_wr_other _ hk.1, hr _ hk.2.2.2.2]
theorem abort_ended {s : State} {l : LoadS} (h : s.cfg.load = some l) : LoadEnded 0xA 9 5 (abortEff s) := by
  unfold abortEff; rw [h]; exact ended h
theorem fail_end2 {c a : Nat} {s : State} {l : LoadS} (hl : s.cfg.load = some l) (h : (l.flash.present && l.flash.sfdp) = false) : loadFail c a s = loadEnd c a s := by
  unfold loadFail
  rw [hl]
  dsimp only
  rw [if_neg]
  intro hh
  simp only [Bool.and_eq_true] at hh
  rw [hh.1.1.2, hh.1.2] at h; cases h
theorem begins_other (full : Bool) (s : State) (g f : Nat) (h : g ≠ f) (hg : g < 32) : (facetBegins full s f).rd (CFG.FACET_STATE g) = s.rd (CFG.FACET_STATE g) := by
  refine (Laws.facetBegins_fr (V := fun k => k ≠ CFG.FACET_STATE g) (M := True) full s f (fr_refl s) ?_ ?_ ?_ ?_ ?_ ?_ ?_ ?_).1 _ (by simp)
  all_goals first | (intros; (simp only [CFG.LOAD_STATE, CFG.LOAD_STATUS, CFG.LOAD_CAUSE, CFG.LOAD_REGION, CFG.LOAD_BYTES, CFG.LOAD_FAIL_AT, CFG.LOAD_TIME, CFG.FLASH_INFO, CFG.FACET_STATE, CFG.FACET_LOADS, CFG.KEY_STATUS, CFG.FUSE_KEY_ID, CFG.BBRAM_KEY_ID, CFG.POLICY, CFG.TAMPER_CAUSE, CFG.TAMPER_COUNT, CFG.LOUPE_EN, CFG.LOUPE_HEARTBEAT, CFG.LOUPE_PASSES, CFG.LOUPE_PASS_TIME, CFG.LOUPE_CE, CFG.LOUPE_SEL, CFG.LOUPE_UE, CFG.LOUPE_RELOADS, CFG.LOUPE_RELOAD_FAIL, CFG.LOUPE_DEFERRED, CFG.LOUPE_ABANDONED, CFG.LOUPE_DAMAGED, CFG.LOUPE_RESETS, CFG.LOUPE_LAST, CFG.LOUPE_EVFLAGS, CFG.LOUPE_SRC_TYPE, CFG.LOUPE_SRC_ADDR, FAB.DESIGN_ID, HDI.STATUS, PAN.MODE, PAN.DISCARD, PAN.EVFLAGS, CRH.PWR_STATE, CRH.GATE_STATE, ne_eq]; omega)) | (simp only [FAB.RELEASED, HDI.APPLY_OUTCOME, HDI.MIRROR_STATE, CFG.FACET_STATE, VEN.STATE]; omega) | (intros; simp only [FAB.RELEASED, HDI.APPLY_OUTCOME, HDI.MIRROR_STATE, CFG.FACET_STATE, VEN.STATE]; omega)
theorem fail_rd (f k : Nat) (s : State) : (failWaiting f s).rd k = s.rd k :=
  (Laws.failWaiting_fr (V := fun _ => False) (M := True) f s (fr_refl s)).1 k (by simp)
theorem begins_own (full : Bool) (s : State) (f : Nat) (hf : f < 32) : (facetBegins full s f).rd (CFG.FACET_STATE f) = 1 := by
  unfold facetBegins
  dsimp only
  rw [fail_rd, fold_rd (p := fun _ => True) (fun s j _ => by
    refine (Laws.discardQueue_fr (V := fun k => k ≠ CFG.FACET_STATE f) (M := True) (48 * f + j) s (fr_refl s) ?_ ?_).1 _ (by simp)
    all_goals (simp only [PAN.DISCARD, PAN.EVFLAGS, CFG.FACET_STATE]; omega)) _ _ (fun _ _ => trivial)]
  show ((((holdFacet f s).wr (CFG.FACET_STATE f) 1).setBit CFG.LOUPE_DAMAGED f false).modFacet f (fun x => { x with ever := x.ever && !full })).rd _ = _
  rw [rd_modFacet, rd_setBit_other _ (by (simp only [CFG.LOAD_STATE, CFG.LOAD_STATUS, CFG.LOAD_CAUSE, CFG.LOAD_REGION, CFG.LOAD_BYTES, CFG.LOAD_FAIL_AT, CFG.LOAD_TIME, CFG.FLASH_INFO, CFG.FACET_STATE, CFG.FACET_LOADS, CFG.KEY_STATUS, CFG.FUSE_KEY_ID, CFG.BBRAM_KEY_ID, CFG.POLICY, CFG.TAMPER_CAUSE, CFG.TAMPER_COUNT, CFG.LOUPE_EN, CFG.LOUPE_HEARTBEAT, CFG.LOUPE_PASSES, CFG.LOUPE_PASS_TIME, CFG.LOUPE_CE, CFG.LOUPE_SEL, CFG.LOUPE_UE, CFG.LOUPE_RELOADS, CFG.LOUPE_RELOAD_FAIL, CFG.LOUPE_DEFERRED, CFG.LOUPE_ABANDONED, CFG.LOUPE_DAMAGED, CFG.LOUPE_RESETS, CFG.LOUPE_LAST, CFG.LOUPE_EVFLAGS, CFG.LOUPE_SRC_TYPE, CFG.LOUPE_SRC_ADDR, FAB.DESIGN_ID, HDI.STATUS, PAN.MODE, PAN.DISCARD, PAN.EVFLAGS, CRH.PWR_STATE, CRH.GATE_STATE, ne_eq]; omega)), rd_wr_same]
theorem begins_fold (full : Bool) (g : Nat) : ∀ (l : List Nat) (s : State), (g < 32) → (∀ x ∈ l, x < 32) → (g ∈ l ∨ s.rd (CFG.FACET_STATE g) = 1) → (l.foldl (facetBegins full) s).rd (CFG.FACET_STATE g) = 1
  | [], s, _, _, h => by rcases h with h | h; cases h; exact h
  | a :: l, s, hg, ha, h => by
    rw [List.foldl_cons]
    refine begins_fold full g l _ hg (fun x hx => ha x (List.mem_cons_of_mem _ hx)) ?_
    by_cases e : g = a
    · subst e; exact Or.inr (begins_own _ _ _ hg)
    · rcases h with h | h
      · rcases List.mem_cons.1 h with h | h
        · exact absurd h e
        · exact Or.inl h
      · exact Or.inr ((begins_other _ _ _ _ e hg).trans h)
theorem header_facts (l : LoadS) (h : Header) (s : State) : (headerPasses l h s).rd CFG.LOAD_STATE = 3 ∧ (headerPasses l h s).rd CFG.LOAD_REGION = h.region ∧
    (∃ l', (headerPasses l h s).cfg.load = some l' ∧ l'.hdr = some h) ∧ ∀ f, f < 32 → h.region.testBit f = true → (headerPasses l h s).rd (CFG.FACET_STATE f) = 1 := by
  unfold headerPasses
  extract_lets s1 fs s2 s3 s4 s5 s6
  refine ⟨?_, ?_, ⟨_, rfl, rfl⟩, fun f hf hb => ?_⟩
  · show ((s6.wr CFG.LOAD_REGION h.region).wr CFG.LOAD_STATE 3).rd _ = _; rw [rd_wr_same]
  · show ((s6.wr CFG.LOAD_REGION h.region).wr CFG.LOAD_STATE 3).rd _ = _; rw [rd_wr_other _ (by decide), rd_wr_same]
  · show ((s6.wr CFG.LOAD_REGION h.region).wr CFG.LOAD_STATE 3).rd _ = _; rw [rd_wr_other _ (by (simp only [CFG.LOAD_STATE, CFG.LOAD_STATUS, CFG.LOAD_CAUSE, CFG.LOAD_REGION, CFG.LOAD_BYTES, CFG.LOAD_FAIL_AT, CFG.LOAD_TIME, CFG.FLASH_INFO, CFG.FACET_STATE, CFG.FACET_LOADS, CFG.KEY_STATUS, CFG.FUSE_KEY_ID, CFG.BBRAM_KEY_ID, CFG.POLICY, CFG.TAMPER_CAUSE, CFG.TAMPER_COUNT, CFG.LOUPE_EN, CFG.LOUPE_HEARTBEAT, CFG.LOUPE_PASSES, CFG.LOUPE_PASS_TIME, CFG.LOUPE_CE, CFG.LOUPE_SEL, CFG.LOUPE_UE, CFG.LOUPE_RELOADS, CFG.LOUPE_RELOAD_FAIL, CFG.LOUPE_DEFERRED, CFG.LOUPE_ABANDONED, CFG.LOUPE_DAMAGED, CFG.LOUPE_RESETS, CFG.LOUPE_LAST, CFG.LOUPE_EVFLAGS, CFG.LOUPE_SRC_TYPE, CFG.LOUPE_SRC_ADDR, FAB.DESIGN_ID, HDI.STATUS, PAN.MODE, PAN.DISCARD, PAN.EVFLAGS, CRH.PWR_STATE, CRH.GATE_STATE, ne_eq]; omega)), rd_wr_other _ (by (simp only [CFG.LOAD_STATE, CFG.LOAD_STATUS, CFG.LOAD_CAUSE, CFG.LOAD_REGION, CFG.LOAD_BYTES, CFG.LOAD_FAIL_AT, CFG.LOAD_TIME, CFG.FLASH_INFO, CFG.FACET_STATE, CFG.FACET_LOADS, CFG.KEY_STATUS, CFG.FUSE_KEY_ID, CFG.BBRAM_KEY_ID, CFG.POLICY, CFG.TAMPER_CAUSE, CFG.TAMPER_COUNT, CFG.LOUPE_EN, CFG.LOUPE_HEARTBEAT, CFG.LOUPE_PASSES, CFG.LOUPE_PASS_TIME, CFG.LOUPE_CE, CFG.LOUPE_SEL, CFG.LOUPE_UE, CFG.LOUPE_RELOADS, CFG.LOUPE_RELOAD_FAIL, CFG.LOUPE_DEFERRED, CFG.LOUPE_ABANDONED, CFG.LOUPE_DAMAGED, CFG.LOUPE_RESETS, CFG.LOUPE_LAST, CFG.LOUPE_EVFLAGS, CFG.LOUPE_SRC_TYPE, CFG.LOUPE_SRC_ADDR, FAB.DESIGN_ID, HDI.STATUS, PAN.MODE, PAN.DISCARD, PAN.EVFLAGS, CRH.PWR_STATE, CRH.GATE_STATE, ne_eq]; omega))]
    have hm : f ∈ fs := by
      show f ∈ (if l.full then List.range 32 else facetsIn h.region)
      split
      · exact List.mem_range.2 hf
      · unfold facetsIn; rw [List.mem_filter]; exact ⟨List.mem_range.2 hf, hb⟩
    have e3 : s3.rd (CFG.FACET_STATE f) = 1 := begins_fold _ _ _ _ hf (fun x hx => by
      have hx : x ∈ (if l.full then List.range 32 else facetsIn h.region) := hx
      split at hx
      · exact List.mem_range.1 hx
      · exact (in_lt hx).1) (Or.inl hm)
    have e4 : s4.rd (CFG.FACET_STATE f) = 1 := by
      refine Eq.trans ?_ e3
      show (if l.full then _ else _ : State).rd _ = _
      split
      · exact (Laws.paneClear_fr (V := fun _ => False) (M := True) s3 (fr_refl s3) trivial).1 _ (by simp)
      · rfl
    have e6 : s6.rd (CFG.FACET_STATE f) = s5.rd (CFG.FACET_STATE f) :=
      (Laws.passCheck_fr (V := fun k => k ≠ CFG.FACET_STATE f) (M := True) s5 (fr_refl s5) (by (simp only [CFG.LOAD_STATE, CFG.LOAD_STATUS, CFG.LOAD_CAUSE, CFG.LOAD_REGION, CFG.LOAD_BYTES, CFG.LOAD_FAIL_AT, CFG.LOAD_TIME, CFG.FLASH_INFO, CFG.FACET_STATE, CFG.FACET_LOADS, CFG.KEY_STATUS, CFG.FUSE_KEY_ID, CFG.BBRAM_KEY_ID, CFG.POLICY, CFG.TAMPER_CAUSE, CFG.TAMPER_COUNT, CFG.LOUPE_EN, CFG.LOUPE_HEARTBEAT, CFG.LOUPE_PASSES, CFG.LOUPE_PASS_TIME, CFG.LOUPE_CE, CFG.LOUPE_SEL, CFG.LOUPE_UE, CFG.LOUPE_RELOADS, CFG.LOUPE_RELOAD_FAIL, CFG.LOUPE_DEFERRED, CFG.LOUPE_ABANDONED, CFG.LOUPE_DAMAGED, CFG.LOUPE_RESETS, CFG.LOUPE_LAST, CFG.LOUPE_EVFLAGS, CFG.LOUPE_SRC_TYPE, CFG.LOUPE_SRC_ADDR, FAB.DESIGN_ID, HDI.STATUS, PAN.MODE, PAN.DISCARD, PAN.EVFLAGS, CRH.PWR_STATE, CRH.GATE_STATE, ne_eq]; omega)) (by (simp only [CFG.LOAD_STATE, CFG.LOAD_STATUS, CFG.LOAD_CAUSE, CFG.LOAD_REGION, CFG.LOAD_BYTES, CFG.LOAD_FAIL_AT, CFG.LOAD_TIME, CFG.FLASH_INFO, CFG.FACET_STATE, CFG.FACET_LOADS, CFG.KEY_STATUS, CFG.FUSE_KEY_ID, CFG.BBRAM_KEY_ID, CFG.POLICY, CFG.TAMPER_CAUSE, CFG.TAMPER_COUNT, CFG.LOUPE_EN, CFG.LOUPE_HEARTBEAT, CFG.LOUPE_PASSES, CFG.LOUPE_PASS_TIME, CFG.LOUPE_CE, CFG.LOUPE_SEL, CFG.LOUPE_UE, CFG.LOUPE_RELOADS, CFG.LOUPE_RELOAD_FAIL, CFG.LOUPE_DEFERRED, CFG.LOUPE_ABANDONED, CFG.LOUPE_DAMAGED, CFG.LOUPE_RESETS, CFG.LOUPE_LAST, CFG.LOUPE_EVFLAGS, CFG.LOUPE_SRC_TYPE, CFG.LOUPE_SRC_ADDR, FAB.DESIGN_ID, HDI.STATUS, PAN.MODE, PAN.DISCARD, PAN.EVFLAGS, CRH.PWR_STATE, CRH.GATE_STATE, ne_eq]; omega))).1 _ (by simp)
    refine e6.trans (Eq.trans ?_ e4)
    refine fold_rd (p := fun g => h.region.testBit g = false) (fun s g hg => ?_) _ _ fun x hx => ?_
    · rw [rd_modFacet, rd_wr_other]
      intro e
      have : f = g := by simp only [CFG.FACET_STATE] at e; omega
      subst this; rw [hb] at hg; cases hg
    · simpa using (List.mem_filter.1 hx).2
theorem flp_keeps {s : State} {l : LoadS} (h : s.cfg.load = some l) : ∃ l', (flpNext s).cfg.load = some l' ∧ l'.chunk = l.chunk ∧ l'.bodyLen = l.bodyLen ∧ l'.body = l.body := by
  unfold flpNext
  rw [h]
  dsimp only
  split
  · have es : ∀ r w, (meshSend r w).cfg = w.cfg := by intro r w; unfold meshSend; repeat' (first | rfl | split)
    rw [es]
    exact ⟨_, rfl, rfl, rfl, rfl⟩
  · exact ⟨_, h, rfl, rfl, rfl⟩
theorem drop_keeps (p : Nat) (l : LoadS) : (dropTo p l).chunk = l.chunk ∧ (dropTo p l).bodyLen = l.bodyLen ∧ (dropTo p l).body = l.body := by
  unfold dropTo; split <;> exact ⟨rfl, rfl, rfl⟩
theorem fail_at {c a : Nat} {s : State} {l : LoadS} {h : Header} (hl : s.cfg.load = some l) (hh : l.hdr = some h) (hc : c ≠ 1) : (loadFail c a s).rd CFG.LOAD_FAIL_AT = a := by
  rw [fail_end hl (Or.inr (Or.inl (by rw [hh]; rfl)))]
  unfold loadEnd
  rw [hl]
  dsimp only
  rw [at_rd]
  show (match l.hdr with | none => _ | some h => _ : State).rd _ = _
  rw [hh]
  dsimp only
  rw [src_rd (fun f hf => by constructor <;> (simp only [CFG.LOAD_STATE, CFG.LOAD_STATUS, CFG.LOAD_CAUSE, CFG.LOAD_REGION, CFG.LOAD_BYTES, CFG.LOAD_FAIL_AT, CFG.LOAD_TIME, CFG.FLASH_INFO, CFG.FACET_STATE, CFG.FACET_LOADS, CFG.KEY_STATUS, CFG.FUSE_KEY_ID, CFG.BBRAM_KEY_ID, CFG.POLICY, CFG.TAMPER_CAUSE, CFG.TAMPER_COUNT, CFG.LOUPE_EN, CFG.LOUPE_HEARTBEAT, CFG.LOUPE_PASSES, CFG.LOUPE_PASS_TIME, CFG.LOUPE_CE, CFG.LOUPE_SEL, CFG.LOUPE_UE, CFG.LOUPE_RELOADS, CFG.LOUPE_RELOAD_FAIL, CFG.LOUPE_DEFERRED, CFG.LOUPE_ABANDONED, CFG.LOUPE_DAMAGED, CFG.LOUPE_RESETS, CFG.LOUPE_LAST, CFG.LOUPE_EVFLAGS, CFG.LOUPE_SRC_TYPE, CFG.LOUPE_SRC_ADDR, FAB.DESIGN_ID, HDI.STATUS, PAN.MODE, PAN.DISCARD, PAN.EVFLAGS, CRH.PWR_STATE, CRH.GATE_STATE, ne_eq]; omega)), if_neg hc, tear_rd (by rintro ⟨f, hf, h⟩; simp only [CFG.LOAD_STATE, CFG.LOAD_STATUS, CFG.LOAD_CAUSE, CFG.LOAD_REGION, CFG.LOAD_BYTES, CFG.LOAD_FAIL_AT, CFG.LOAD_TIME, CFG.FLASH_INFO, CFG.FACET_STATE, CFG.FACET_LOADS, CFG.KEY_STATUS, CFG.FUSE_KEY_ID, CFG.BBRAM_KEY_ID, CFG.POLICY, CFG.TAMPER_CAUSE, CFG.TAMPER_COUNT, CFG.LOUPE_EN, CFG.LOUPE_HEARTBEAT, CFG.LOUPE_PASSES, CFG.LOUPE_PASS_TIME, CFG.LOUPE_CE, CFG.LOUPE_SEL, CFG.LOUPE_UE, CFG.LOUPE_RELOADS, CFG.LOUPE_RELOAD_FAIL, CFG.LOUPE_DEFERRED, CFG.LOUPE_ABANDONED, CFG.LOUPE_DAMAGED, CFG.LOUPE_RESETS, CFG.LOUPE_LAST, CFG.LOUPE_EVFLAGS, CFG.LOUPE_SRC_TYPE, CFG.LOUPE_SRC_ADDR, FAB.DESIGN_ID, HDI.STATUS, PAN.MODE, PAN.DISCARD, PAN.EVFLAGS, CRH.PWR_STATE, CRH.GATE_STATE, ne_eq] at h; omega), rd_wr_same]
end LoadFacts
open LoadFacts
namespace LoadFacts
/-- Reading frame bytes changes the time and CFG.LOAD_BYTES at most. -/
theorem read_facts (l : LoadS) (h : Header) (n : Nat) (s : State) : ∃ v r, frameRead l h n s = { s with now := v, reg := r } ∧
    (frameRead l h n s).cfg = s.cfg ∧ ∀ k, k ≠ CFG.LOAD_BYTES → (frameRead l h n s).rd k = s.rd k := by
  unfold frameRead
  split
  · exact ⟨_, _, rfl, rfl, fun k hk => rd_wr_other _ hk _⟩
  · exact ⟨s.now, s.reg, rfl, rfl, fun _ _ => rfl⟩
theorem frame_row {l : LoadS} {h : Header} {ty f i len p : Nat} {s : State} (F : FrameIs l h ty f i len p s) (bad : Bool) {ready : Nat → State → Bool} (hr : ready f s = true) (put : (f i payload : Nat) → State → State) :
    frameRow ty bad ready put s = (let u := frameRead l h (16 + len) s
      if bad then loadFail 9 l.bodyAt (u.raise 35) else frameDone l h ⟨f, ty, i⟩ (16 + len) p (put f i p u)) := by
  obtain ⟨a1, a2, a3, a4, a5, a6, a7, a8, a9, a10, a11⟩ := F
  unfold frameRow
  rw [a1]; dsimp only; rw [a2]; dsimp only
  rw [if_neg (by omega), if_neg (by rw [a4]; simp), if_neg (by rw [a6]; simp), if_neg (by rw [a10]; simp)]
  simp only [a6, a7, a8, a9]
  rw [if_neg (by rw [a5, hr]; simp)]
  simp only [a11]
theorem inside_lt {l : LoadS} {h : Header} {ty f i len p : Nat} {s : State} (F : FrameIs l h ty f i len p s) (ht : ty ≠ 15) : f < 32 := by
  obtain ⟨a1, a2, a3, a4, a5, a6, a7, a8, a9, a10, a11⟩ := F
  unfold frameCause at a10
  dsimp only at a10
  split at a10
  · cases a10
  · split at a10
    · cases a10
    · rename_i hh
      unfold frameInside at hh
      rw [a6, a7, if_neg ht] at hh
      simp only [Bool.not_eq_false, Bool.and_eq_true] at hh
      exact Nat.le_of_ble_eq_true hh.1.1.1
theorem done_used (l : LoadS) (h : Header) (id : FrameId) (len p : Nat) (s : State) : FrameUsed l id len (frameDone l h id (16 + len) p s) := by
  unfold frameDone
  extract_lets sp l1 l2 s1
  have e1 : l2.bodyAt = l.bodyAt + (16 + len) ∧ ∃ e : FrameRef, e.id = id ∧ l2.seen = l.seen ++ [e] := by
    show (if h.oxf5 then dropTo (128 + l1.bodyAt) l1 else l1).bodyAt = _ ∧ ∃ e : FrameRef, e.id = id ∧ (if h.oxf5 then dropTo (128 + l1.bodyAt) l1 else l1).seen = l.seen ++ [e]
    split
    · unfold dropTo; split <;> exact ⟨rfl, _, rfl, rfl⟩
    · exact ⟨rfl, _, rfl, rfl⟩
  have : ∀ t : State, t.cfg.load = some l2 → FrameUsed l id len t := by
    intro t ht
    refine ⟨l2, ht, e1.1, ?_⟩
    obtain ⟨e, he, h2⟩ := e1.2
    rw [h2, List.map_append, List.map_singleton, he]
  split
  · refine this _ ?_
    have := Laws.releaseFacet_keepsCfg (s0 := facetLoaded l2 h id.f (s1.upto (fabEdge (s1.now + 1)))) id.f (fabEdge (s1.now + 1)) (facetLoaded l2 h id.f (s1.upto (fabEdge (s1.now + 1)))) rfl
    exact (congrArg CfgS.load this).trans rfl
  · exact this _ rfl
theorem done_rd (l : LoadS) (h : Header) (id : FrameId) (n p k : Nat) (s : State) (hk : k / 256 = 0x7300 + 0 ∨ True) (h1 : k ≠ CFG.FACET_LOADS id.f) (h2 : k ≠ CFG.FACET_STATE id.f) (h3 : k ≠ FAB.DESIGN_ID id.f) (h4 : k ≠ FAB.RELEASED)
    (h5 : k ≠ HDI.APPLY_OUTCOME) (h6 : k ≠ HDI.MIRROR_STATE) (h7 : ∀ u, k ≠ VEN.STATE u) : (frameDone l h id n p s).rd k = s.rd k :=
  (Laws.frameDone_fr (V := fun j => j ≠ k) (M := True) l h id n p s (fr_refl s) h1.symm h2.symm h3.symm h4.symm h5.symm h6.symm (fun u => (h7 u).symm)).1 k (by simp)
theorem done_mem (l : LoadS) (h : Header) (id : FrameId) (n p : Nat) (s : State) : (frameDone l h id n p s).mem = s.mem :=
  (Laws.frameDone_fr (V := fun _ => True) (M := False) l h id n p s (fr_refl s) trivial trivial trivial trivial trivial trivial (fun _ => trivial)).2 not_false
theorem cells_get (c : List CellCfg) (g r : Nat) (u : Nat) : ∀ (n : Nat) (s : State), u < n → n ≤ 64 →
    Tab.get (fun _ => ⟨[], false, false, 0, 0#16, 0#16, 0#16⟩) ((List.range n).foldl (fun s u => putCell (cellKey (colOf g u) (rowOf g r)) (c.getD u ⟨[], false, false, 0, 0#16, 0#16, 0#16⟩) s) s).cellCfg (cellKey (colOf g u) (rowOf g r)) =
      c.getD u ⟨[], false, false, 0, 0#16, 0#16, 0#16⟩
  | 0, _, h, _ => by omega
  | n + 1, s, h, hn => by
    rw [List.range_succ, List.foldl_append, List.foldl_cons, List.foldl_nil]
    unfold putCell
    dsimp only
    rw [Laws.get_set]
    by_cases e : u = n
    · subst e; rw [if_pos rfl]
    · rw [if_neg (by unfold cellKey colOf; omega)]
      exact cells_get c g r u n s (by omega) (by omega)
theorem sel_one (f v i w k : Nat) (s : State) : Tab.get (fun _ => 1) (putSelect f v i w s).sels k =
    if i < 512 ∧ k = cellKey (colOf f (i / 8)) (rowOf f v) * 8 + i % 8 then w else Tab.get (fun _ => 1) s.sels k := by
  by_cases hi : i < 512
  · unfold putSelect
    rw [if_pos hi]
    dsimp only
    rw [Laws.get_set]
    simp only [hi, true_and]
  · have e : (putSelect f v i w s).sels = s.sels := by
      unfold putSelect setTrack
      rw [if_neg hi]
      have ki : ∀ (c : Prop) [Decidable c] (a b : State), a.sels = s.sels → b.sels = s.sels → (if c then a else b).sels = s.sels := by intro c _ a b ha hb; split <;> assumption
      split <;> repeat' (first | rfl | apply ki)
    rw [e, if_neg (by tauto)]
theorem sel_key {f v i m : Nat} (hm : m < 512) (hi : i < 512) (h : cellKey (colOf f (m / 8)) (rowOf f v) * 8 + m % 8 = cellKey (colOf f (i / 8)) (rowOf f v) * 8 + i % 8) : m = i := by
  unfold cellKey colOf at h; omega
theorem sels_get (f v m : Nat) (hm : m < 512) : ∀ (l : List Nat) (i : Nat) (s : State),
    (i ≤ m → m < i + l.length → Tab.get (fun _ => 1) (putSelects f v i l s).sels (cellKey (colOf f (m / 8)) (rowOf f v) * 8 + m % 8) = l.getD (m - i) 0) ∧
    (m < i → Tab.get (fun _ => 1) (putSelects f v i l s).sels (cellKey (colOf f (m / 8)) (rowOf f v) * 8 + m % 8) = Tab.get (fun _ => 1) s.sels (cellKey (colOf f (m / 8)) (rowOf f v) * 8 + m % 8))
  | [], i, s => ⟨fun h1 h2 => by simp at h2; omega, fun _ => rfl⟩
  | w :: ws, i, s => by
    have ih := sels_get f v m hm ws (i + 1) (putSelect f v i w s)
    have e : putSelects f v i (w :: ws) s = putSelects f v (i + 1) ws (putSelect f v i w s) := rfl
    rw [e]
    refine ⟨fun h1 h2 => ?_, fun h => ?_⟩
    · by_cases hh : m = i
      · subst hh
        rw [ih.2 (by omega), sel_one, if_pos ⟨hm, rfl⟩, Nat.sub_self]; rfl
      · rw [ih.1 (by omega) (by simp at h2; omega)]
        have : m - i = (m - (i + 1)) + 1 := by omega
        rw [this]; rfl
    · rw [ih.2 (by omega), sel_one, if_neg]
      rintro ⟨a, b⟩
      have := sel_key hm a b
      omega
theorem man_rd (g : Nat) (q : Nat → Nat) (j : Nat) : ∀ (n : Nat) (s : State), j < n →
    ((List.range n).foldl (fun s j => resetTaps (48 * g + j) (s.wr (PAN.MODE (48 * g + j)) (q j))) s).rd (PAN.MODE (48 * g + j)) = q j
  | 0, _, h => by omega
  | n + 1, s, h => by
    rw [List.range_succ, List.foldl_append, List.foldl_cons, List.foldl_nil]
    have er : ∀ (p : Nat) (u : State) (k : Nat), (resetTaps p u).rd k = u.rd k := fun p u k => (Laws.resetTaps_fr (V := fun _ => False) (M := True) p u (fr_refl u)).1 k not_false
    rw [er]
    by_cases e : j = n
    · subst e; exact rd_wr_same _ _ _
    · rw [rd_wr_other _ (by (simp only [CFG.LOAD_STATE, CFG.LOAD_STATUS, CFG.LOAD_CAUSE, CFG.LOAD_REGION, CFG.LOAD_BYTES, CFG.LOAD_FAIL_AT, CFG.LOAD_TIME, CFG.FLASH_INFO, CFG.FACET_STATE, CFG.FACET_LOADS, CFG.KEY_STATUS, CFG.FUSE_KEY_ID, CFG.BBRAM_KEY_ID, CFG.POLICY, CFG.TAMPER_CAUSE, CFG.TAMPER_COUNT, CFG.LOUPE_EN, CFG.LOUPE_HEARTBEAT, CFG.LOUPE_PASSES, CFG.LOUPE_PASS_TIME, CFG.LOUPE_CE, CFG.LOUPE_SEL, CFG.LOUPE_UE, CFG.LOUPE_RELOADS, CFG.LOUPE_RELOAD_FAIL, CFG.LOUPE_DEFERRED, CFG.LOUPE_ABANDONED, CFG.LOUPE_DAMAGED, CFG.LOUPE_RESETS, CFG.LOUPE_LAST, CFG.LOUPE_EVFLAGS, CFG.LOUPE_SRC_TYPE, CFG.LOUPE_SRC_ADDR, FAB.DESIGN_ID, HDI.STATUS, PAN.MODE, PAN.DISCARD, PAN.EVFLAGS, CRH.PWR_STATE, CRH.GATE_STATE, ne_eq]; omega))]; exact man_rd g q j n s (by omega)
theorem man_man (c : Manifest) (g f : Nat) (s : State) : ∀ (n : Nat), (((List.range n).foldl (fun s j => resetTaps (48 * g + j) (s.wr (PAN.MODE (48 * g + j)) (if c.queueMask.testBit j then 1 else 0))) s).facetOf f) = s.facetOf f
  | 0 => rfl
  | n + 1 => by
    rw [List.range_succ, List.foldl_append, List.foldl_cons, List.foldl_nil]
    exact Eq.trans rfl (man_man c g f s n)
theorem end1_rd {a k : Nat} {s : State} {l : LoadS} (hl : s.cfg.load = some l) (hk : ∀ f, f < 32 → k ≠ CFG.LOUPE_SRC_TYPE f ∧ k ≠ CFG.LOUPE_SRC_ADDR f)
    (h1 : k ≠ CFG.LOAD_TIME) (h2 : k ≠ CFG.LOAD_CAUSE) (h3 : k ≠ CFG.LOAD_STATUS) (h4 : k ≠ CFG.LOAD_STATE) : (loadEnd 1 a s).rd k = s.rd k := by
  unfold loadEnd
  rw [hl]
  dsimp only
  rw [at_rd]
  show (match l.hdr with | none => _ | some h => _ : State).rd k = _
  cases l.hdr with
  | none => dsimp only; rw [rd_wr_other _ h4, rd_wr_other _ h3, rd_wr_other _ h2]
  | some h =>
    dsimp only
    rw [src_rd hk, if_pos rfl, rd_wr_other _ h1, rd_wr_other _ h4, rd_wr_other _ h3, rd_wr_other _ h2]
theorem loaded_own (l : LoadS) (h : Header) (f : Nat) (s : State) : (facetLoaded l h f s).rd (CFG.FACET_STATE f) = 2 := by
  unfold facetLoaded
  show (((s.wr (CFG.FACET_STATE f) 2).bump 32 (CFG.FACET_LOADS f)).wr (FAB.DESIGN_ID f) h.design).rd _ = _
  rw [rd_wr_other _ (by (simp only [CFG.LOAD_STATE, CFG.LOAD_STATUS, CFG.LOAD_CAUSE, CFG.LOAD_REGION, CFG.LOAD_BYTES, CFG.LOAD_FAIL_AT, CFG.LOAD_TIME, CFG.FLASH_INFO, CFG.FACET_STATE, CFG.FACET_LOADS, CFG.KEY_STATUS, CFG.FUSE_KEY_ID, CFG.BBRAM_KEY_ID, CFG.POLICY, CFG.TAMPER_CAUSE, CFG.TAMPER_COUNT, CFG.LOUPE_EN, CFG.LOUPE_HEARTBEAT, CFG.LOUPE_PASSES, CFG.LOUPE_PASS_TIME, CFG.LOUPE_CE, CFG.LOUPE_SEL, CFG.LOUPE_UE, CFG.LOUPE_RELOADS, CFG.LOUPE_RELOAD_FAIL, CFG.LOUPE_DEFERRED, CFG.LOUPE_ABANDONED, CFG.LOUPE_DAMAGED, CFG.LOUPE_RESETS, CFG.LOUPE_LAST, CFG.LOUPE_EVFLAGS, CFG.LOUPE_SRC_TYPE, CFG.LOUPE_SRC_ADDR, FAB.DESIGN_ID, HDI.STATUS, PAN.MODE, PAN.DISCARD, PAN.EVFLAGS, CRH.PWR_STATE, CRH.GATE_STATE, ne_eq]; omega)), bump_ne (by (simp only [CFG.LOAD_STATE, CFG.LOAD_STATUS, CFG.LOAD_CAUSE, CFG.LOAD_REGION, CFG.LOAD_BYTES, CFG.LOAD_FAIL_AT, CFG.LOAD_TIME, CFG.FLASH_INFO, CFG.FACET_STATE, CFG.FACET_LOADS, CFG.KEY_STATUS, CFG.FUSE_KEY_ID, CFG.BBRAM_KEY_ID, CFG.POLICY, CFG.TAMPER_CAUSE, CFG.TAMPER_COUNT, CFG.LOUPE_EN, CFG.LOUPE_HEARTBEAT, CFG.LOUPE_PASSES, CFG.LOUPE_PASS_TIME, CFG.LOUPE_CE, CFG.LOUPE_SEL, CFG.LOUPE_UE, CFG.LOUPE_RELOADS, CFG.LOUPE_RELOAD_FAIL, CFG.LOUPE_DEFERRED, CFG.LOUPE_ABANDONED, CFG.LOUPE_DAMAGED, CFG.LOUPE_RESETS, CFG.LOUPE_LAST, CFG.LOUPE_EVFLAGS, CFG.LOUPE_SRC_TYPE, CFG.LOUPE_SRC_ADDR, FAB.DESIGN_ID, HDI.STATUS, PAN.MODE, PAN.DISCARD, PAN.EVFLAGS, CRH.PWR_STATE, CRH.GATE_STATE, ne_eq]; omega)), rd_wr_same]
theorem loaded_other (l : LoadS) (h : Header) (f k : Nat) (s : State) (h1 : k ≠ CFG.FACET_STATE f) (h2 : k ≠ CFG.FACET_LOADS f) (h3 : k ≠ FAB.DESIGN_ID f) : (facetLoaded l h f s).rd k = s.rd k := by
  unfold facetLoaded
  show (((s.wr (CFG.FACET_STATE f) 2).bump 32 (CFG.FACET_LOADS f)).wr (FAB.DESIGN_ID f) h.design).rd _ = _
  rw [rd_wr_other _ h3, bump_ne h2, rd_wr_other _ h1]
theorem loaded_fold (L : LoadS) (h : Header) (g : Nat) (hg : g < 32) : ∀ (l : List Nat) (s : State), (∀ x ∈ l, x < 32) → (g ∈ l ∨ s.rd (CFG.FACET_STATE g) = 2) → (l.foldl (fun s f => facetLoaded L h f s) s).rd (CFG.FACET_STATE g) = 2
  | [], s, _, h => by rcases h with h | h; cases h; exact h
  | a :: l, s, ha, hh => by
    rw [List.foldl_cons]
    refine loaded_fold L h g hg l _ (fun x hx => ha x (List.mem_cons_of_mem _ hx)) ?_
    have := ha a (by simp)
    by_cases e : g = a
    · subst e; exact Or.inr (loaded_own _ _ _ _)
    · rcases hh with hh | hh
      · rcases List.mem_cons.1 hh with hh | hh
        · exact absurd hh e
        · exact Or.inl hh
      · exact Or.inr ((loaded_other _ _ _ _ _ (by (simp only [CFG.LOAD_STATE, CFG.LOAD_STATUS, CFG.LOAD_CAUSE, CFG.LOAD_REGION, CFG.LOAD_BYTES, CFG.LOAD_FAIL_AT, CFG.LOAD_TIME, CFG.FLASH_INFO, CFG.FACET_STATE, CFG.FACET_LOADS, CFG.KEY_STATUS, CFG.FUSE_KEY_ID, CFG.BBRAM_KEY_ID, CFG.POLICY, CFG.TAMPER_CAUSE, CFG.TAMPER_COUNT, CFG.LOUPE_EN, CFG.LOUPE_HEARTBEAT, CFG.LOUPE_PASSES, CFG.LOUPE_PASS_TIME, CFG.LOUPE_CE, CFG.LOUPE_SEL, CFG.LOUPE_UE, CFG.LOUPE_RELOADS, CFG.LOUPE_RELOAD_FAIL, CFG.LOUPE_DEFERRED, CFG.LOUPE_ABANDONED, CFG.LOUPE_DAMAGED, CFG.LOUPE_RESETS, CFG.LOUPE_LAST, CFG.LOUPE_EVFLAGS, CFG.LOUPE_SRC_TYPE, CFG.LOUPE_SRC_ADDR, FAB.DESIGN_ID, HDI.STATUS, PAN.MODE, PAN.DISCARD, PAN.EVFLAGS, CRH.PWR_STATE, CRH.GATE_STATE, ne_eq]; omega)) (by (simp only [CFG.LOAD_STATE, CFG.LOAD_STATUS, CFG.LOAD_CAUSE, CFG.LOAD_REGION, CFG.LOAD_BYTES, CFG.LOAD_FAIL_AT, CFG.LOAD_TIME, CFG.FLASH_INFO, CFG.FACET_STATE, CFG.FACET_LOADS, CFG.KEY_STATUS, CFG.FUSE_KEY_ID, CFG.BBRAM_KEY_ID, CFG.POLICY, CFG.TAMPER_CAUSE, CFG.TAMPER_COUNT, CFG.LOUPE_EN, CFG.LOUPE_HEARTBEAT, CFG.LOUPE_PASSES, CFG.LOUPE_PASS_TIME, CFG.LOUPE_CE, CFG.LOUPE_SEL, CFG.LOUPE_UE, CFG.LOUPE_RELOADS, CFG.LOUPE_RELOAD_FAIL, CFG.LOUPE_DEFERRED, CFG.LOUPE_ABANDONED, CFG.LOUPE_DAMAGED, CFG.LOUPE_RESETS, CFG.LOUPE_LAST, CFG.LOUPE_EVFLAGS, CFG.LOUPE_SRC_TYPE, CFG.LOUPE_SRC_ADDR, FAB.DESIGN_ID, HDI.STATUS, PAN.MODE, PAN.DISCARD, PAN.EVFLAGS, CRH.PWR_STATE, CRH.GATE_STATE, ne_eq]; omega)) (by (simp only [CFG.LOAD_STATE, CFG.LOAD_STATUS, CFG.LOAD_CAUSE, CFG.LOAD_REGION, CFG.LOAD_BYTES, CFG.LOAD_FAIL_AT, CFG.LOAD_TIME, CFG.FLASH_INFO, CFG.FACET_STATE, CFG.FACET_LOADS, CFG.KEY_STATUS, CFG.FUSE_KEY_ID, CFG.BBRAM_KEY_ID, CFG.POLICY, CFG.TAMPER_CAUSE, CFG.TAMPER_COUNT, CFG.LOUPE_EN, CFG.LOUPE_HEARTBEAT, CFG.LOUPE_PASSES, CFG.LOUPE_PASS_TIME, CFG.LOUPE_CE, CFG.LOUPE_SEL, CFG.LOUPE_UE, CFG.LOUPE_RELOADS, CFG.LOUPE_RELOAD_FAIL, CFG.LOUPE_DEFERRED, CFG.LOUPE_ABANDONED, CFG.LOUPE_DAMAGED, CFG.LOUPE_RESETS, CFG.LOUPE_LAST, CFG.LOUPE_EVFLAGS, CFG.LOUPE_SRC_TYPE, CFG.LOUPE_SRC_ADDR, FAB.DESIGN_ID, HDI.STATUS, PAN.MODE, PAN.DISCARD, PAN.EVFLAGS, CRH.PWR_STATE, CRH.GATE_STATE, ne_eq]; omega))).trans hh)
theorem release_rd (f e k : Nat) (s : State) (h4 : k ≠ FAB.RELEASED)
    (h5 : k ≠ HDI.APPLY_OUTCOME) (h6 : k ≠ HDI.MIRROR_STATE) (h7 : ∀ u, k ≠ VEN.STATE u) : (releaseFacet f e s).rd k = s.rd k :=
  (Laws.releaseFacet_fr (V := fun j => j ≠ k) (M := True) f e s (fr_refl s) h4.symm h5.symm h6.symm (fun u => (h7 u).symm)).1 k (by simp)
theorem release_fold (e k : Nat) (h4 : k ≠ FAB.RELEASED)
    (h5 : k ≠ HDI.APPLY_OUTCOME) (h6 : k ≠ HDI.MIRROR_STATE) (h7 : ∀ u, k ≠ VEN.STATE u) : ∀ (l : List Nat) (s : State), (l.foldl (fun s f => releaseFacet f e s) s).rd k = s.rd k ∧ (l.foldl (fun s f => releaseFacet f e s) s).cfg.load = s.cfg.load
  | [], s => ⟨rfl, rfl⟩
  | a :: l, s => by
    rw [List.foldl_cons]
    have := release_fold e k h4 h5 h6 h7 l (releaseFacet a e s)
    exact ⟨this.1.trans (release_rd _ _ _ _ h4 h5 h6 h7), this.2.trans (congrArg CfgS.load (Laws.releaseFacet_keepsCfg (s0 := s) a e s rfl))⟩
theorem loaded_load (L : LoadS) (h : Header) : ∀ (l : List Nat) (s : State), (l.foldl (fun s f => facetLoaded L h f s) s).cfg.load = s.cfg.load
  | [], s => rfl
  | a :: l, s => by rw [List.foldl_cons, loaded_load L h l]; rfl
theorem completes_facts {l : LoadS} {h : Header} {s : State} (hl : s.cfg.load = some l) : LoadEnded 1 0 4 (loadCompletes l h s) ∧ (l.full = true → configDone (loadCompletes l h s) = true) ∧
      ∀ g, g < 32 → h.region.testBit g = true → s.rd (CFG.FACET_STATE g) = 1 → (loadCompletes l h s).rd (CFG.FACET_STATE g) = 2 := by
  unfold loadCompletes
  extract_lets e fs s1 s2
  have l2 : s2.cfg.load = some l := by
    have := (release_fold e CFG.LOAD_STATE (by decide) (by decide) (by decide) (by intro u; simp only [VEN.STATE, CFG.LOAD_STATE]; omega) (fs.filter fun f => l.src != 2 && !(l.full && h.relcmd.testBit f)) s1).2
    refine Eq.trans this ?_
    exact (loaded_load l h fs (s.upto e)).trans hl
  have l3 : (if l.full then s2.setBit HDI.STATUS 3 true else s2).cfg.load = some l := by split <;> exact l2
  refine ⟨ended l3, fun hf => ?_, fun g hg hb h1 => ?_⟩
  · unfold configDone State.bit
    rw [end1_rd l3 (fun f hf => by constructor <;> (simp only [CFG.LOAD_STATE, CFG.LOAD_STATUS, CFG.LOAD_CAUSE, CFG.LOAD_REGION, CFG.LOAD_BYTES, CFG.LOAD_FAIL_AT, CFG.LOAD_TIME, CFG.FLASH_INFO, CFG.FACET_STATE, CFG.FACET_LOADS, CFG.KEY_STATUS, CFG.FUSE_KEY_ID, CFG.BBRAM_KEY_ID, CFG.POLICY, CFG.TAMPER_CAUSE, CFG.TAMPER_COUNT, CFG.LOUPE_EN, CFG.LOUPE_HEARTBEAT, CFG.LOUPE_PASSES, CFG.LOUPE_PASS_TIME, CFG.LOUPE_CE, CFG.LOUPE_SEL, CFG.LOUPE_UE, CFG.LOUPE_RELOADS, CFG.LOUPE_RELOAD_FAIL, CFG.LOUPE_DEFERRED, CFG.LOUPE_ABANDONED, CFG.LOUPE_DAMAGED, CFG.LOUPE_RESETS, CFG.LOUPE_LAST, CFG.LOUPE_EVFLAGS, CFG.LOUPE_SRC_TYPE, CFG.LOUPE_SRC_ADDR, FAB.DESIGN_ID, HDI.STATUS, PAN.MODE, PAN.DISCARD, PAN.EVFLAGS, CRH.PWR_STATE, CRH.GATE_STATE, ne_eq]; omega)) (by decide) (by decide) (by decide) (by decide), if_pos hf]
    exact bit_setBit_eq _ _ _ _
  · rw [end1_rd l3 (fun f hf => by constructor <;> (simp only [CFG.LOAD_STATE, CFG.LOAD_STATUS, CFG.LOAD_CAUSE, CFG.LOAD_REGION, CFG.LOAD_BYTES, CFG.LOAD_FAIL_AT, CFG.LOAD_TIME, CFG.FLASH_INFO, CFG.FACET_STATE, CFG.FACET_LOADS, CFG.KEY_STATUS, CFG.FUSE_KEY_ID, CFG.BBRAM_KEY_ID, CFG.POLICY, CFG.TAMPER_CAUSE, CFG.TAMPER_COUNT, CFG.LOUPE_EN, CFG.LOUPE_HEARTBEAT, CFG.LOUPE_PASSES, CFG.LOUPE_PASS_TIME, CFG.LOUPE_CE, CFG.LOUPE_SEL, CFG.LOUPE_UE, CFG.LOUPE_RELOADS, CFG.LOUPE_RELOAD_FAIL, CFG.LOUPE_DEFERRED, CFG.LOUPE_ABANDONED, CFG.LOUPE_DAMAGED, CFG.LOUPE_RESETS, CFG.LOUPE_LAST, CFG.LOUPE_EVFLAGS, CFG.LOUPE_SRC_TYPE, CFG.LOUPE_SRC_ADDR, FAB.DESIGN_ID, HDI.STATUS, PAN.MODE, PAN.DISCARD, PAN.EVFLAGS, CRH.PWR_STATE, CRH.GATE_STATE, ne_eq]; omega)) (by (simp only [CFG.LOAD_STATE, CFG.LOAD_STATUS, CFG.LOAD_CAUSE, CFG.LOAD_REGION, CFG.LOAD_BYTES, CFG.LOAD_FAIL_AT, CFG.LOAD_TIME, CFG.FLASH_INFO, CFG.FACET_STATE, CFG.FACET_LOADS, CFG.KEY_STATUS, CFG.FUSE_KEY_ID, CFG.BBRAM_KEY_ID, CFG.POLICY, CFG.TAMPER_CAUSE, CFG.TAMPER_COUNT, CFG.LOUPE_EN, CFG.LOUPE_HEARTBEAT, CFG.LOUPE_PASSES, CFG.LOUPE_PASS_TIME, CFG.LOUPE_CE, CFG.LOUPE_SEL, CFG.LOUPE_UE, CFG.LOUPE_RELOADS, CFG.LOUPE_RELOAD_FAIL, CFG.LOUPE_DEFERRED, CFG.LOUPE_ABANDONED, CFG.LOUPE_DAMAGED, CFG.LOUPE_RESETS, CFG.LOUPE_LAST, CFG.LOUPE_EVFLAGS, CFG.LOUPE_SRC_TYPE, CFG.LOUPE_SRC_ADDR, FAB.DESIGN_ID, HDI.STATUS, PAN.MODE, PAN.DISCARD, PAN.EVFLAGS, CRH.PWR_STATE, CRH.GATE_STATE, ne_eq]; omega)) (by (simp only [CFG.LOAD_STATE, CFG.LOAD_STATUS, CFG.LOAD_CAUSE, CFG.LOAD_REGION, CFG.LOAD_BYTES, CFG.LOAD_FAIL_AT, CFG.LOAD_TIME, CFG.FLASH_INFO, CFG.FACET_STATE, CFG.FACET_LOADS, CFG.KEY_STATUS, CFG.FUSE_KEY_ID, CFG.BBRAM_KEY_ID, CFG.POLICY, CFG.TAMPER_CAUSE, CFG.TAMPER_COUNT, CFG.LOUPE_EN, CFG.LOUPE_HEARTBEAT, CFG.LOUPE_PASSES, CFG.LOUPE_PASS_TIME, CFG.LOUPE_CE, CFG.LOUPE_SEL, CFG.LOUPE_UE, CFG.LOUPE_RELOADS, CFG.LOUPE_RELOAD_FAIL, CFG.LOUPE_DEFERRED, CFG.LOUPE_ABANDONED, CFG.LOUPE_DAMAGED, CFG.LOUPE_RESETS, CFG.LOUPE_LAST, CFG.LOUPE_EVFLAGS, CFG.LOUPE_SRC_TYPE, CFG.LOUPE_SRC_ADDR, FAB.DESIGN_ID, HDI.STATUS, PAN.MODE, PAN.DISCARD, PAN.EVFLAGS, CRH.PWR_STATE, CRH.GATE_STATE, ne_eq]; omega)) (by (simp only [CFG.LOAD_STATE, CFG.LOAD_STATUS, CFG.LOAD_CAUSE, CFG.LOAD_REGION, CFG.LOAD_BYTES, CFG.LOAD_FAIL_AT, CFG.LOAD_TIME, CFG.FLASH_INFO, CFG.FACET_STATE, CFG.FACET_LOADS, CFG.KEY_STATUS, CFG.FUSE_KEY_ID, CFG.BBRAM_KEY_ID, CFG.POLICY, CFG.TAMPER_CAUSE, CFG.TAMPER_COUNT, CFG.LOUPE_EN, CFG.LOUPE_HEARTBEAT, CFG.LOUPE_PASSES, CFG.LOUPE_PASS_TIME, CFG.LOUPE_CE, CFG.LOUPE_SEL, CFG.LOUPE_UE, CFG.LOUPE_RELOADS, CFG.LOUPE_RELOAD_FAIL, CFG.LOUPE_DEFERRED, CFG.LOUPE_ABANDONED, CFG.LOUPE_DAMAGED, CFG.LOUPE_RESETS, CFG.LOUPE_LAST, CFG.LOUPE_EVFLAGS, CFG.LOUPE_SRC_TYPE, CFG.LOUPE_SRC_ADDR, FAB.DESIGN_ID, HDI.STATUS, PAN.MODE, PAN.DISCARD, PAN.EVFLAGS, CRH.PWR_STATE, CRH.GATE_STATE, ne_eq]; omega)) (by (simp only [CFG.LOAD_STATE, CFG.LOAD_STATUS, CFG.LOAD_CAUSE, CFG.LOAD_REGION, CFG.LOAD_BYTES, CFG.LOAD_FAIL_AT, CFG.LOAD_TIME, CFG.FLASH_INFO, CFG.FACET_STATE, CFG.FACET_LOADS, CFG.KEY_STATUS, CFG.FUSE_KEY_ID, CFG.BBRAM_KEY_ID, CFG.POLICY, CFG.TAMPER_CAUSE, CFG.TAMPER_COUNT, CFG.LOUPE_EN, CFG.LOUPE_HEARTBEAT, CFG.LOUPE_PASSES, CFG.LOUPE_PASS_TIME, CFG.LOUPE_CE, CFG.LOUPE_SEL, CFG.LOUPE_UE, CFG.LOUPE_RELOADS, CFG.LOUPE_RELOAD_FAIL, CFG.LOUPE_DEFERRED, CFG.LOUPE_ABANDONED, CFG.LOUPE_DAMAGED, CFG.LOUPE_RESETS, CFG.LOUPE_LAST, CFG.LOUPE_EVFLAGS, CFG.LOUPE_SRC_TYPE, CFG.LOUPE_SRC_ADDR, FAB.DESIGN_ID, HDI.STATUS, PAN.MODE, PAN.DISCARD, PAN.EVFLAGS, CRH.PWR_STATE, CRH.GATE_STATE, ne_eq]; omega))]
    have a : s1.rd (CFG.FACET_STATE g) = 2 := by
      refine loaded_fold l h g hg fs _ (fun x hx => (in_lt (List.mem_filter.1 hx).1).1) (Or.inl ?_)
      show g ∈ (facetsIn h.region).filter _
      rw [List.mem_filter]
      refine ⟨by unfold facetsIn; rw [List.mem_filter]; exact ⟨List.mem_range.2 hg, hb⟩, ?_⟩
      rw [h1]; rfl
    have b : s2.rd (CFG.FACET_STATE g) = 2 := by
      have := (release_fold e (CFG.FACET_STATE g) (by simp only [FAB.RELEASED, CFG.FACET_STATE]; omega) (by simp only [HDI.APPLY_OUTCOME, CFG.FACET_STATE]; omega) (by simp only [HDI.MIRROR_STATE, CFG.FACET_STATE]; omega) (by intro u; simp only [VEN.STATE, CFG.FACET_STATE]; omega) (fs.filter fun f => l.src != 2 && !(l.full && h.relcmd.testBit f)) s1).1
      exact this.trans a
    split
    · rw [rd_setBit_other _ (by (simp only [CFG.LOAD_STATE, CFG.LOAD_STATUS, CFG.LOAD_CAUSE, CFG.LOAD_REGION, CFG.LOAD_BYTES, CFG.LOAD_FAIL_AT, CFG.LOAD_TIME, CFG.FLASH_INFO, CFG.FACET_STATE, CFG.FACET_LOADS, CFG.KEY_STATUS, CFG.FUSE_KEY_ID, CFG.BBRAM_KEY_ID, CFG.POLICY, CFG.TAMPER_CAUSE, CFG.TAMPER_COUNT, CFG.LOUPE_EN, CFG.LOUPE_HEARTBEAT, CFG.LOUPE_PASSES, CFG.LOUPE_PASS_TIME, CFG.LOUPE_CE, CFG.LOUPE_SEL, CFG.LOUPE_UE, CFG.LOUPE_RELOADS, CFG.LOUPE_RELOAD_FAIL, CFG.LOUPE_DEFERRED, CFG.LOUPE_ABANDONED, CFG.LOUPE_DAMAGED, CFG.LOUPE_RESETS, CFG.LOUPE_LAST, CFG.LOUPE_EVFLAGS, CFG.LOUPE_SRC_TYPE, CFG.LOUPE_SRC_ADDR, FAB.DESIGN_ID, HDI.STATUS, PAN.MODE, PAN.DISCARD, PAN.EVFLAGS, CRH.PWR_STATE, CRH.GATE_STATE, ne_eq]; omega))]; exact b
    · exact b
theorem zero_facts (b : Nat) (s : State) : (zeroiseKey b s).cfg.bbKey = 0 ∧ (zeroiseKey b s).rd CFG.BBRAM_KEY_ID = 0 ∧ (zeroiseKey b s).bit CFG.KEY_STATUS 1 = false ∧ (zeroiseKey b s).bit CFG.TAMPER_CAUSE b = true ∧
    (zeroiseKey b s).rd CFG.TAMPER_COUNT = min (s.rd CFG.TAMPER_COUNT + 1) (2 ^ 32 - 1) := by
  unfold zeroiseKey
  extract_lets s1 s2
  have hc : s2.cfg.bbKey = 0 := rfl
  have h1 : s2.rd CFG.BBRAM_KEY_ID = 0 := by
    show (s1.bump 32 CFG.TAMPER_COUNT).rd _ = _
    rw [bump_ne (by decide)]
    show (((s.wr CFG.BBRAM_KEY_ID 0).setBit CFG.KEY_STATUS 1 false).setBit CFG.TAMPER_CAUSE b true).rd _ = _
    rw [rd_setBit_other _ (by decide), rd_setBit_other _ (by decide), rd_wr_same]
  have h2 : s2.bit CFG.KEY_STATUS 1 = false := by
    have : s2.rd CFG.KEY_STATUS = ((s.wr CFG.BBRAM_KEY_ID 0).setBit CFG.KEY_STATUS 1 false).rd CFG.KEY_STATUS := by
      show (s1.bump 32 CFG.TAMPER_COUNT).rd _ = _
      rw [bump_ne (by decide)]
      show (((s.wr CFG.BBRAM_KEY_ID 0).setBit CFG.KEY_STATUS 1 false).setBit CFG.TAMPER_CAUSE b true).rd _ = _
      rw [rd_setBit_other _ (by decide)]
    rw [bit_of_rd this, bit_setBit_eq]
  have h3 : s2.bit CFG.TAMPER_CAUSE b = true := by
    have : s2.rd CFG.TAMPER_CAUSE = s1.rd CFG.TAMPER_CAUSE := by
      show (s1.bump 32 CFG.TAMPER_COUNT).rd _ = _
      rw [bump_ne (by decide)]
    rw [bit_of_rd this]; exact bit_setBit_eq _ _ _ _
  have h4 : s2.rd CFG.TAMPER_COUNT = min (s.rd CFG.TAMPER_COUNT + 1) (2 ^ 32 - 1) := by
    show (s1.bump 32 CFG.TAMPER_COUNT).rd _ = _
    rw [bump_eq]
    show min ((((s.wr CFG.BBRAM_KEY_ID 0).setBit CFG.KEY_STATUS 1 false).setBit CFG.TAMPER_CAUSE b true).rd _ + 1) _ = _
    rw [rd_setBit_other _ (by decide), rd_setBit_other _ (by decide), rd_wr_other _ (by decide)]
  split
  · refine ⟨?_, ?_, ?_, ?_, ?_⟩
    · rw [raise_cfg]; exact hc
    · rw [rd_raise]; exact h1
    · rw [bit_of_rd (rd_raise _ _ _)]; exact h2
    · rw [bit_of_rd (rd_raise _ _ _)]; exact h3
    · rw [rd_raise]; exact h4
  · exact ⟨hc, h1, h2, h3, h4⟩
theorem key_facts (code : Nat) (s : State) (h : code ≠ 2) : (keyEff code s).bit CFG.KEY_STATUS 3 = true ∧ (keyEff code s).cfg.job = some (code, s.cfg.stage) ∧ (keyEff code s).cfg.stage = 0 := by
  unfold keyEff
  rw [if_neg h]
  exact ⟨bit_setBit_eq _ _ _ _, rfl, rfl⟩
theorem keyCmd {i : Instr} {q : Req} {s : State} (code : Nat) (he : exec i s = .next (command q CFG.KEY_CTRL code (keyConds q code s) (keyEff code) s)) (hw : Writes q CFG.KEY_CTRL 1 code s) (hc : ∀ c ∈ keyConds q code s, c.1 = false) (h : code ≠ 2) :
    Gives i s fun t => Answered q 0 t ∧ t.bit CFG.KEY_STATUS 3 = true ∧ t.cfg.job = some (code, s.cfg.stage) ∧ t.cfg.stage = 0 := by
  refine givesCmd' he hw hc ?_
  intro t hl
  have f := key_facts code s h
  exact ⟨(bit_of_rd (like_k hl (by decide))).trans f.1, (congrArg CfgS.job hl.cfg).trans f.2.1, (congrArg CfgS.stage hl.cfg).trans f.2.2⟩
theorem tamper_gives (b : Nat) (s : State) : ∃ t, (Host.Outcome.next (zeroiseKey b s) : Out) = .next t ∧ t.cfg.bbKey = 0 ∧ t.rd CFG.BBRAM_KEY_ID = 0 ∧ t.bit CFG.KEY_STATUS 1 = false ∧
    t.bit CFG.TAMPER_CAUSE b = true ∧ t.rd CFG.TAMPER_COUNT = min (s.rd CFG.TAMPER_COUNT + 1) (2 ^ 32 - 1) := ⟨_, rfl, zero_facts b s⟩
theorem job_end (code v : Nat) (ok : Bool) (s : State) (k : Nat) (hk : k ≠ CFG.KEY_STATUS) : (((modCfg (fun c => { c with job := none }) (keyEnds code v ok s)).setBit CFG.KEY_STATUS 3 false
        |>.setBit CFG.KEY_STATUS 2 (!ok && Nat.ble 3 code)).raise 37).rd k = (keyEnds code v ok s).rd k := by
  rw [rd_raise, rd_setBit_other _ hk, rd_setBit_other _ hk]; rfl
theorem job_bit (code v : Nat) (ok : Bool) (s : State) : let t := (((modCfg (fun c => { c with job := none }) (keyEnds code v ok s)).setBit CFG.KEY_STATUS 3 false
        |>.setBit CFG.KEY_STATUS 2 (!ok && Nat.ble 3 code)).raise 37)
    t.bit CFG.KEY_STATUS 3 = false ∧ t.bit CFG.KEY_STATUS 2 = (!ok && Nat.ble 3 code) ∧ t.bit CFG.KEY_STATUS 1 = (keyEnds code v ok s).bit CFG.KEY_STATUS 1 ∧ t.bit CFG.KEY_STATUS 0 = (keyEnds code v ok s).bit CFG.KEY_STATUS 0 := by
  dsimp only
  refine ⟨?_, ?_, ?_, ?_⟩
  · rw [bit_of_rd (rd_raise _ _ _), bit_setBit_other _ (by decide), bit_setBit_eq]
  · rw [bit_of_rd (rd_raise _ _ _), bit_setBit_eq]
  · rw [bit_of_rd (rd_raise _ _ _), bit_setBit_other _ (by decide), bit_setBit_other _ (by decide)]; rfl
  · rw [bit_of_rd (rd_raise _ _ _), bit_setBit_other _ (by decide), bit_setBit_other _ (by decide)]; rfl
theorem scan_tail {p from' : Nat} (w : State) (P : State → Prop)
    (h : ∀ t : State, t.upsets = w.upsets → t.now = w.now → t.cfg.waiting = w.cfg.waiting → (∀ k, k ≠ CFG.LOUPE_HEARTBEAT → k ≠ CFG.LOUPE_PASSES → k ≠ CFG.LOUPE_PASS_TIME → t.rd k = w.rd k) →
      t.rd CFG.LOUPE_HEARTBEAT = (w.rd CFG.LOUPE_HEARTBEAT + 1) % 2 ^ 32 → P t) :
    P (match scanFrom (p + 1) (heartbeat w) with
        | some p' => modCfg (fun c => { c with scan := p', scanAt := (heartbeat w).now, passAt := from' }) (heartbeat w)
        | none => modCfg (fun c => { c with scanAt := (heartbeat w).now }) (passEnds from' (heartbeat w))) := by
  have hh : (heartbeat w).rd CFG.LOUPE_HEARTBEAT = (w.rd CFG.LOUPE_HEARTBEAT + 1) % 2 ^ 32 := rd_wr_same _ _ _
  have hk : ∀ k, k ≠ CFG.LOUPE_HEARTBEAT → (heartbeat w).rd k = w.rd k := fun k hk => rd_wr_other _ hk _
  have hu : (heartbeat w).upsets = w.upsets := rfl
  have hn : (heartbeat w).now = w.now := rfl
  have hw : (heartbeat w).cfg.waiting = w.cfg.waiting := rfl
  generalize heartbeat w = y at *
  have e1 : ∀ k, k ≠ CFG.LOUPE_PASSES → k ≠ CFG.LOUPE_PASS_TIME → (modCfg (fun c => { c with scanAt := y.now }) (passEnds from' y)).rd k = y.rd k := by
    intro k h2 h3
    show ((y.bump 64 CFG.LOUPE_PASSES).wr CFG.LOUPE_PASS_TIME _).rd k = _
    rw [rd_wr_other _ h3, bump_ne h2]
  cases scanFrom (p + 1) y with
  | some p' => exact h _ hu hn hw (fun k h1 _ _ => hk k h1) hh
  | none => exact h _ hu hn hw (fun k h1 h2 h3 => (e1 k h2 h3).trans (hk k h1)) ((e1 _ (by decide) (by decide)).trans hh)
theorem scan_gives {s : State} {p : Nat} (hon : loupeOn s = true) (hp : (scanFrom s.cfg.scan s).or (scanFrom 0 s) = some p) (P : State → Prop)
    (h : ∀ t : State, let x := frameAtPos p; let t0 := max s.now s.cfg.scanAt; let w := scanFrame x t0 s
      t.upsets = w.upsets → t.now = max w.now (t0 + scanTicks x) → t.cfg.waiting = w.cfg.waiting →
      (∀ k, k ≠ CFG.LOUPE_HEARTBEAT → k ≠ CFG.LOUPE_PASSES → k ≠ CFG.LOUPE_PASS_TIME → t.rd k = w.rd k) →
      t.rd CFG.LOUPE_HEARTBEAT = (s.rd CFG.LOUPE_HEARTBEAT + 1) % 2 ^ 32 → P t) : Gives .loupeFrameScan s P := by
  show ∃ t, execLoupeFrameScan s = .next t ∧ _
  unfold execLoupeFrameScan
  refine givesN ?_
  rw [if_pos hon, hp]
  dsimp only at h ⊢
  refine scan_tail _ P ?_
  intro t a b c d e
  refine h t a b c d ?_
  rw [e]
  have : (scanFrame (frameAtPos p) (max s.now s.cfg.scanAt) s).rd CFG.LOUPE_HEARTBEAT = s.rd CFG.LOUPE_HEARTBEAT :=
    (Laws.scanFrame_fr (V := fun k => k ≠ CFG.LOUPE_HEARTBEAT) (M := True) (frameAtPos p) (max s.now s.cfg.scanAt) s (fr_refl _) (by decide) (by decide) (by decide) (by decide) (by decide) (by decide)).1 CFG.LOUPE_HEARTBEAT (by simp)
  show ((scanFrame _ _ s).rd _ + 1) % _ = _
  rw [this]
theorem erase1 (u : Upset) (x : FrameId) (us : List Upset) (h : us.filter (upsetOf x) = [u]) : upsetOf x u = true := by
  have : u ∈ us.filter (upsetOf x) := by rw [h]; simp
  exact (List.mem_filter.1 this).2
theorem rd_if {c : Prop} [Decidable c] {a b : State} {k v : Nat} (ha : a.rd k = v) (hb : b.rd k = v) : (if c then a else b).rd k = v := by split <;> assumption
theorem flag_set (s : State) (k b e : Nat) : (s.flag k b e).bit k b = true := by
  unfold State.flag
  split
  · assumption
  · split
    · exact bit_setBit_eq _ _ _ _
    · rw [bit_of_rd (rd_raise _ _ _)]; exact bit_setBit_eq _ _ _ _
theorem abandon_all (u : State) : (abandon (fun _ _ => true) u).cfg.waiting = [] ∧ (abandon (fun _ _ => true) u).cfg.reload = none := by
  unfold abandon
  dsimp only
  rw [addTo_cfg]
  constructor
  · show u.cfg.waiting.filter (fun y => !true) = []
    simp
  · show (if (u.cfg.reload.filter fun x => true).isSome then none else u.cfg.reload) = none
    cases u.cfg.reload <;> simp [Option.filter]
theorem reload_next {r : Reload} {s : State} (h : s.cfg.reload = some r) : (reloadNext s).cfg.waiting = s.cfg.waiting ∧ ∃ r', (reloadNext s).cfg.reload = some r' ∧ r'.frame = r.frame ∧ r'.src = r.src := by
  unfold reloadNext
  rw [h]
  dsimp only
  split
  · have es : ∀ r w, (meshSend r w).cfg = w.cfg := by intro r w; unfold meshSend; repeat' (first | rfl | split)
    rw [es]
    exact ⟨rfl, _, rfl, rfl, rfl⟩
  · exact ⟨rfl, _, h, rfl, rfl⟩
theorem reload_failed (x : FrameId) (u : State) {s : State} (hu : u = modCfg (fun c => { c with reload := none }) s) : (reloadFailed x u).cfg.reload = none ∧ (reloadFailed x u).bit CFG.LOUPE_DAMAGED x.f = true ∧
      (reloadFailed x u).rd CFG.LOUPE_RELOAD_FAIL = min (s.rd CFG.LOUPE_RELOAD_FAIL + 1) (2 ^ 64 - 1) := by
  have h1 : (loupeFlag 4 ((u.bump 64 CFG.LOUPE_RELOAD_FAIL).setBit CFG.LOUPE_DAMAGED x.f true)).cfg.reload = none := by
    unfold loupeFlag; rw [flag_cfg, setBit_cfg, bump_cfg, hu]; rfl
  have h2 : (loupeFlag 4 ((u.bump 64 CFG.LOUPE_RELOAD_FAIL).setBit CFG.LOUPE_DAMAGED x.f true)).bit CFG.LOUPE_DAMAGED x.f = true := by
    unfold loupeFlag; rw [bit_of_rd (rd_flag_other _ (by decide) _ _), bit_setBit_eq]
  have h3 : (loupeFlag 4 ((u.bump 64 CFG.LOUPE_RELOAD_FAIL).setBit CFG.LOUPE_DAMAGED x.f true)).rd CFG.LOUPE_RELOAD_FAIL = min (s.rd CFG.LOUPE_RELOAD_FAIL + 1) (2 ^ 64 - 1) := by
    unfold loupeFlag; rw [rd_flag_other _ (by decide), rd_setBit_other _ (by decide), bump_eq, hu]; rfl
  unfold reloadFailed
  dsimp only
  generalize loupeFlag 4 ((u.bump 64 CFG.LOUPE_RELOAD_FAIL).setBit CFG.LOUPE_DAMAGED x.f true) = w at h1 h2 h3
  have g1 : (modCfg (fun c => { c with damaged := if c.damaged.contains x then c.damaged else c.damaged ++ [x] }) w).cfg.reload = none := h1
  have g2 : (modCfg (fun c => { c with damaged := if c.damaged.contains x then c.damaged else c.damaged ++ [x] }) w).bit CFG.LOUPE_DAMAGED x.f = true := h2
  have g3 : (modCfg (fun c => { c with damaged := if c.damaged.contains x then c.damaged else c.damaged ++ [x] }) w).rd CFG.LOUPE_RELOAD_FAIL = min (s.rd CFG.LOUPE_RELOAD_FAIL + 1) (2 ^ 64 - 1) := h3
  generalize modCfg (fun c => { c with damaged := if c.damaged.contains x then c.damaged else c.damaged ++ [x] }) w = y at g1 g2 g3
  have st : ∀ k, k = CFG.LOUPE_DAMAGED ∨ k = CFG.LOUPE_RELOAD_FAIL → (veStopEff x.f y).rd k = y.rd k := by
    intro k hk
    refine (Laws.veStopEff_fr (V := fun j => j ≠ k) (M := True) x.f y (fr_refl y) ?_ ?_ ?_ ?_).1 k (by simp)
    on_goal 4 => intro u
    all_goals (rcases hk with rfl | rfl <;> simp only [HDI.APPLY_OUTCOME, HDI.MIRROR_STATE, VEN.FLAGS, VEN.STATE, CFG.LOUPE_DAMAGED, CFG.LOUPE_RELOAD_FAIL] <;> omega)
  split
  · refine ⟨?_, ?_, ?_⟩
    · have := Laws.veStopEff_keepsCfgLoupe (s0 := y) x.f y rfl
      exact (congrArg CfgS.reload this).trans g1
    · rw [bit_of_rd (st _ (Or.inl rfl))]; exact g2
    · rw [st _ (Or.inr rfl)]; exact g3
  · exact ⟨g1, g2, g3⟩
theorem no_up {x : FrameId} {b : Nat} {s : State} (h : s.upsets.filter (upsetOf x) = []) : scanFrame x b s = s := by
  unfold scanFrame crcAgrees
  rw [h]
  dsimp only
  show (if (s.upsets.filter (upsetOf x)).isEmpty = true then s else _) = s
  rw [h]; rfl
theorem last_rd {c b k : Nat} {x : FrameId} {z : State} (h1 : k ≠ CFG.LOUPE_EVFLAGS) (h2 : k ≠ CFG.LOUPE_LAST) : (loupeLast c x (loupeFlag b z)).rd k = z.rd k := by
  unfold loupeLast loupeFlag; rw [rd_wr_other _ h2, rd_flag_other _ h1]
theorem last_rest (c b : Nat) (x : FrameId) (z : State) : (loupeLast c x (loupeFlag b z)).upsets = z.upsets ∧ (loupeLast c x (loupeFlag b z)).now = z.now ∧ (loupeLast c x (loupeFlag b z)).cfg = z.cfg := by
  unfold loupeLast loupeFlag; rw [wr_upsets, flag_upsets, wr_now, flag_now, wr_cfg, flag_cfg]; exact ⟨rfl, rfl, rfl⟩
theorem flip_now (u : Upset) (s : State) : (undo [u] s).now = s.now := by
  show (flipTarget u s).now = s.now
  unfold flipTarget
  dsimp only
  split
  all_goals first | rfl | (split <;> rfl)
/-- A word with one upset: it is corrected on the first FAB edge after it has been read. -/
theorem word_one (x : FrameId) (u : Upset) (s : State) : (scanWord x [u] s).upsets = s.upsets.erase u ∧
    (scanWord x [u] s).now = max s.now (fabEdge (s.now + 1)) ∧
    (scanWord x [u] s).rd CFG.LOUPE_CE = min (s.rd CFG.LOUPE_CE + 1) (2 ^ 64 - 1) ∧ (scanWord x [u] s).rd CFG.LOUPE_UE = s.rd CFG.LOUPE_UE := by
  unfold scanWord
  dsimp only
  have ef : (undo [u] (s.upto (fabEdge (s.now + 1)))).upsets = s.upsets.erase u ∧ (undo [u] (s.upto (fabEdge (s.now + 1)))).now = max s.now (fabEdge (s.now + 1)) ∧
      ∀ k, (undo [u] (s.upto (fabEdge (s.now + 1)))).rd k = s.rd k :=
    ⟨rfl, flip_now _ _, fun k => (Laws.undo_fr (V := fun _ => False) (M := True) [u] _ (fr_refl _)).1 k not_false⟩
  generalize undo [u] (s.upto (fabEdge (s.now + 1))) = z at ef
  have b1 : (z.bump 64 CFG.LOUPE_CE).rd CFG.LOUPE_CE = min (s.rd CFG.LOUPE_CE + 1) (2 ^ 64 - 1) := by rw [bump_eq, ef.2.2]
  have b2 : (z.bump 64 CFG.LOUPE_CE).rd CFG.LOUPE_UE = s.rd CFG.LOUPE_UE := by rw [bump_ne (by decide), ef.2.2]
  have b3 : (z.bump 64 CFG.LOUPE_CE).upsets = s.upsets.erase u := by rw [bump_upsets, ef.1]
  have b4 : (z.bump 64 CFG.LOUPE_CE).now = max s.now (fabEdge (s.now + 1)) := by rw [bump_now, ef.2.1]
  generalize z.bump 64 CFG.LOUPE_CE = y at b1 b2 b3 b4
  have c1 := (last_rd (c := 1) (b := 0) (x := x) (z := y) (k := CFG.LOUPE_CE) (by decide) (by decide)).trans b1
  have c2 := (last_rd (c := 1) (b := 0) (x := x) (z := y) (k := CFG.LOUPE_UE) (by decide) (by decide)).trans b2
  have c3 := last_rest 1 0 x y
  rw [b3, b4] at c3
  generalize loupeLast 1 x (loupeFlag 0 y) = q at c1 c2 c3
  split
  · have d := last_rest 2 1 x (q.bump 64 CFG.LOUPE_SEL)
    refine ⟨?_, ?_, ?_, ?_⟩
    · rw [d.1, bump_upsets, c3.1]
    · rw [d.2.1, bump_now, c3.2.1]
    · rw [last_rd (by decide) (by decide), bump_ne (by decide), c1]
    · rw [last_rd (by decide) (by decide), bump_ne (by decide), c2]
  · exact ⟨c3.1, c3.2.1, c1, c2⟩
theorem one_up {x : FrameId} {u : Upset} {b : Nat} {s : State} (h : s.upsets.filter (upsetOf x) = [u]) : let w := scanFrame x b s
    w.upsets = s.upsets.erase u ∧ w.now = max (max s.now (wordRead b u.word)) (fabEdge (max s.now (wordRead b u.word) + 1)) ∧
    w.rd CFG.LOUPE_CE = min (s.rd CFG.LOUPE_CE + 1) (2 ^ 64 - 1) ∧ w.rd CFG.LOUPE_UE = s.rd CFG.LOUPE_UE := by
  have k := word_one x u (s.upto (wordRead b u.word))
  have e : scanFrame x b s = scanWord x [u] (s.upto (wordRead b u.word)) := by
    unfold scanFrame
    rw [h]
    dsimp only
    have hf : (([u] : List Upset).filter fun v => Nat.beq v.word u.word) = [u] := by simp
    show (if crcAgrees x (scanWord x (([u] : List Upset).filter fun v => Nat.beq v.word u.word) (s.upto (wordRead b u.word))) = true then _ else _) = _
    rw [hf]
    have : crcAgrees x (scanWord x [u] (s.upto (wordRead b u.word))) = true := by
      unfold crcAgrees
      rw [k.1]
      show ((s.upsets.erase u).filter (upsetOf x)).isEmpty = true
      rw [← List.erase_filter, h]; simp
    rw [if_pos this]
    show scanWord x (([u] : List Upset).filter fun v => Nat.beq v.word u.word) (s.upto (wordRead b u.word)) = _
    rw [hf]
  dsimp only
  rw [e]
  exact k
set_option Elab.async false in
theorem two_up {x : FrameId} {u v : Upset} {b : Nat} {s : State} (h : s.upsets.filter (upsetOf x) = [u, v]) (hw : u.word = v.word) : let w := scanFrame x b s
    w.upsets = s.upsets ∧ w.now = max s.now (wordRead b u.word) ∧ w.rd CFG.LOUPE_UE = min (s.rd CFG.LOUPE_UE + 1) (2 ^ 64 - 1) ∧ w.rd CFG.LOUPE_CE = s.rd CFG.LOUPE_CE ∧
    (s.cfg.waiting.contains x = false → s.cfg.reload = none → s.cfg.waiting.length < waitRoom x s → w.cfg.waiting = s.cfg.waiting ++ [x]) := by
  have hs : struckWords [u, v] = [u.word] := by
    show putNum u.word [v.word] = _
    unfold putNum
    rw [hw, if_neg (by omega), if_pos rfl]
  have hf : (([u, v] : List Upset).filter fun y => Nat.beq y.word u.word) = [u, v] := by simp [hw]
  dsimp only
  have a : (scanWord x [u, v] (s.upto (wordRead b u.word))).upsets = s.upsets ∧ (scanWord x [u, v] (s.upto (wordRead b u.word))).now = max s.now (wordRead b u.word) ∧
      (scanWord x [u, v] (s.upto (wordRead b u.word))).cfg = s.cfg ∧
      (∀ k, k ≠ CFG.LOUPE_EVFLAGS → k ≠ CFG.LOUPE_LAST → k ≠ CFG.LOUPE_SEL → (scanWord x [u, v] (s.upto (wordRead b u.word))).rd k = s.rd k) := by
    unfold scanWord
    dsimp only
    split
    · have d := last_rest 2 1 x ((s.upto (wordRead b u.word)).bump 64 CFG.LOUPE_SEL)
      exact ⟨d.1, d.2.1, d.2.2, fun k h1 h2 h3 => by rw [last_rd h1 h2, bump_ne h3]; rfl⟩
    · exact ⟨rfl, rfl, rfl, fun _ _ _ _ => rfl⟩
  have e : scanFrame x b s = uncorrectable x (scanWord x [u, v] (s.upto (wordRead b u.word))) := by
    unfold scanFrame
    rw [h]
    dsimp only
    rw [hs]
    show (if crcAgrees x (scanWord x (([u, v] : List Upset).filter fun y => Nat.beq y.word u.word) (s.upto (wordRead b u.word))) = true then _ else
      uncorrectable x (scanWord x (([u, v] : List Upset).filter fun y => Nat.beq y.word u.word) (s.upto (wordRead b u.word)))) = _
    rw [hf, if_neg]
    unfold crcAgrees
    rw [a.1, h]; simp
  rw [e]
  generalize scanWord x [u, v] (s.upto (wordRead b u.word)) = z at a
  have y1 : (loupeLast 3 x (loupeFlag 2 (z.bump 64 CFG.LOUPE_UE))).rd CFG.LOUPE_UE = min (s.rd CFG.LOUPE_UE + 1) (2 ^ 64 - 1) := by
    rw [last_rd (by decide) (by decide), bump_eq, a.2.2.2 _ (by decide) (by decide) (by decide)]
  have y2 : ∀ k, k ≠ CFG.LOUPE_EVFLAGS → k ≠ CFG.LOUPE_LAST → k ≠ CFG.LOUPE_SEL → k ≠ CFG.LOUPE_UE → (loupeLast 3 x (loupeFlag 2 (z.bump 64 CFG.LOUPE_UE))).rd k = s.rd k := by
    intro k h1 h2 h3 h4; rw [last_rd h1 h2, bump_ne h4, a.2.2.2 _ h1 h2 h3]
  have y3 := last_rest 3 2 x (z.bump 64 CFG.LOUPE_UE)
  rw [show (z.bump 64 CFG.LOUPE_UE).upsets = s.upsets from a.1, show (z.bump 64 CFG.LOUPE_UE).now = _ from a.2.1, show (z.bump 64 CFG.LOUPE_UE).cfg = s.cfg from a.2.2.1] at y3
  unfold uncorrectable
  dsimp only
  generalize loupeLast 3 x (loupeFlag 2 (z.bump 64 CFG.LOUPE_UE)) = y at y1 y2 y3
  have ki : ∀ {β : Type} (g : State → β) {c : Prop} [Decidable c] {p q : State} {r : β}, g p = r → g q = r → g (if c then p else q) = r := by
    intro β g c _ p q r h1 h2; split <;> assumption
  refine ⟨ki State.upsets y3.1 (ki State.upsets y3.1 y3.1), ki State.now y3.2.1 (ki State.now y3.2.1 y3.2.1), ?_, ?_, fun g1 g2 g3 => ?_⟩
  · exact rd_if y1 (rd_if y1 ((bump_ne (by decide)).trans y1))
  · have := y2 CFG.LOUPE_CE (by decide) (by decide) (by decide) (by decide)
    exact rd_if this (rd_if this ((bump_ne (by decide)).trans this))
  · have b1 : (y.cfg.waiting.contains x || (y.cfg.reload.any fun r => decide (r.frame = x))) = false := by rw [y3.2.2, g2, g1]; rfl
    have b2 : waitRoom x y = waitRoom x s := by
      unfold waitRoom reloadWaits
      rw [y3.2.2]
      have : ∀ f, y.rd (CFG.LOUPE_SRC_TYPE f) = s.rd (CFG.LOUPE_SRC_TYPE f) := fun f =>
        y2 _ (by simp only [CFG.LOUPE_SRC_TYPE, CFG.LOUPE_EVFLAGS, CFG.LOUPE_LAST, CFG.LOUPE_SEL, CFG.LOUPE_UE, ne_eq]; omega) (by simp only [CFG.LOUPE_SRC_TYPE, CFG.LOUPE_EVFLAGS, CFG.LOUPE_LAST, CFG.LOUPE_SEL, CFG.LOUPE_UE, ne_eq]; omega) (by simp only [CFG.LOUPE_SRC_TYPE, CFG.LOUPE_EVFLAGS, CFG.LOUPE_LAST, CFG.LOUPE_SEL, CFG.LOUPE_UE, ne_eq]; omega) (by simp only [CFG.LOUPE_SRC_TYPE, CFG.LOUPE_EVFLAGS, CFG.LOUPE_LAST, CFG.LOUPE_SEL, CFG.LOUPE_UE, ne_eq]; omega)
      simp only [this]
    rw [b1, if_neg (by simp), b2, y3.2.2, if_pos g3]
    show y.cfg.waiting ++ [x] = _; rw [y3.2.2]
end LoadFacts
end Sys2Proof.Laws.CompleteCfg
end

