-- ==== Sys2Proof/Laws/KeepsSched.lean ====
section
/-! SUPPORT. State.sched: what the operations it lists leave unchanged. -/
set_option linter.unreachableTactic false
set_option linter.unusedSimpArgs false
set_option linter.unusedTactic false
namespace Sys2Proof.Laws
open Sys2Proof.Machine
section
variable {s0 : State}
def KeepsSched (s0 s : State) : Prop := s.sched = s0.sched
theorem keepsSched_ite {c : Prop} [Decidable c] {x y : State} (hx : KeepsSched s0 x) (hy : KeepsSched s0 y) : KeepsSched s0 (if c then x else y) := by split <;> assumption
theorem keepsSched_foldl {β : Type} {f : State → β → State} (hf : ∀ s x, KeepsSched s0 s → KeepsSched s0 (f s x)) :
    ∀ {l : List β} {s : State}, KeepsSched s0 s → KeepsSched s0 (l.foldl f s)
  | [], _, h => h
  | x :: l, s, h => keepsSched_foldl (l := l) hf (hf s x h)
theorem keepsSched_cut {s : State} {p : Prop} (h : KeepsSched s0 s) (f : KeepsSched s0 s → p) : p := f h
theorem wr_keepsSched (k v : Nat) (s : State) (h : KeepsSched s0 s) : KeepsSched s0 (s.wr k v) := h
theorem keepsSched_mk_iff {s : State} {x_now : Nat} {x_reg : Tab Nat} {x_mem : List Host.Cell} {x_evq : List (Nat × Nat)} {x_freeCtr : Nat} {x_pending : List Instr} {x_hdi : HdiS} {x_clk : ClockS} {x_ve : Tab VeRun} {x_outCh : Tab OutCh} {x_inCh : Tab InCh} {x_fcp : Tab FcpS} {x_sq : Tab SqS} {x_brk : Tab BrkS} {x_tgt : Tab TgtS} {x_groupAt : List (Nat × Nat)} {x_dsp : Tab DspRun} {x_focus : FocusS} {x_trim : TrimS} {x_reqs : List MeshReq} {x_resps : List MeshResp} {x_held : List PortReq} {x_steal : List PortReq} {x_labels : List (MeshReq × Nat)} {x_drain : Option Drain} {x_trace : List Nat} {x_dmc : Tab DmcS} {x_autoTrain : Bool} {x_crh : CrhS} {x_cfg : CfgS} {x_fresh : List (Nat × Nat × Nat)} {x_cleared : List (Nat × Nat × Nat)} {x_sup : SupS} {x_dbg : DbgS} {x_tmu : TmuS} {x_lanes : Tab LaneS} {x_cells : Tab (Option CellS)} {x_cellCfg : Tab CellCfg} {x_sels : Tab Nat} {x_tracks : Tab Nat} {x_upsets : List Upset} {x_facets : Tab FacetS} {x_fev : List (Nat × Nat)} {x_panes : Tab PaneS} {x_banks : Tab BankS} {x_pins : PinsS} :
    KeepsSched s0 ⟨x_now, x_reg, x_mem, x_evq, x_freeCtr, x_pending, x_hdi, x_clk, s.sched, x_ve, x_outCh, x_inCh, x_fcp, x_sq, x_brk, x_tgt, x_groupAt, x_dsp, x_focus, x_trim, x_reqs, x_resps, x_held, x_steal, x_labels, x_drain, x_trace, x_dmc, x_autoTrain, x_crh, x_cfg, x_fresh, x_cleared, x_sup, x_dbg, x_tmu, x_lanes, x_cells, x_cellCfg, x_sels, x_tracks, x_upsets, x_facets, x_fev, x_panes, x_banks, x_pins⟩ ↔ KeepsSched s0 s := Iff.rfl
theorem addTo_keepsSched (s : State) (w k d : Nat) (hs : KeepsSched s0 s) :
    KeepsSched s0 (State.addTo s w k d) := by
  unfold State.addTo
  repeat' first
    | with_reducible intro _
    | with_reducible assumption
    | with_reducible apply wr_keepsSched

theorem raiseAt_keepsSched (s : State) (t e : Nat) (hs : KeepsSched s0 s) :
    KeepsSched s0 (State.raiseAt s t e) := by
  unfold State.raiseAt
  repeat' first
    | with_reducible intro _
    | with_reducible assumption
    | simp only [↓keepsSched_mk_iff]
    | with_reducible apply keepsSched_ite
    | (extract_lets x; first | (with_reducible refine keepsSched_cut (s := x) ?_ ?_; (on_goal 2 => clear_value x); (on_goal 1 => unfold x)) | (subst x))
    | split

theorem raise_keepsSched (s : State) (e : Nat) (hs : KeepsSched s0 s) :
    KeepsSched s0 (State.raise s e) := by
  unfold State.raise
  repeat' first
    | with_reducible intro _
    | with_reducible assumption
    | with_reducible apply raiseAt_keepsSched
    | simp only [↓keepsSched_mk_iff]
    | with_reducible apply keepsSched_ite
    | (extract_lets x; first | (with_reducible refine keepsSched_cut (s := x) ?_ ?_; (on_goal 2 => clear_value x); (on_goal 1 => unfold x)) | (subst x))
    | split

theorem modVe_keepsSched (s : State) (n : Nat) (f : VeRun → VeRun) (hs : KeepsSched s0 s) :
    KeepsSched s0 (State.modVe s n f) := by
  unfold State.modVe
  repeat' first
    | with_reducible intro _
    | with_reducible assumption
    | simp only [↓keepsSched_mk_iff]

theorem modOut_keepsSched (s : State) (c : Nat) (f : OutCh → OutCh) (hs : KeepsSched s0 s) :
    KeepsSched s0 (State.modOut s c f) := by
  unfold State.modOut
  repeat' first
    | with_reducible intro _
    | with_reducible assumption
    | simp only [↓keepsSched_mk_iff]

theorem modMirror_keepsSched (s : State) (f : MirrorS → MirrorS) (hs : KeepsSched s0 s) :
    KeepsSched s0 (State.modMirror s f) := by
  unfold State.modMirror
  repeat' first
    | with_reducible intro _
    | with_reducible assumption
    | simp only [↓keepsSched_mk_iff]

theorem restartLease_keepsSched (s : State) (hs : KeepsSched s0 s) :
    KeepsSched s0 (restartLease s) := by
  unfold restartLease
  repeat' first
    | with_reducible intro _
    | with_reducible assumption
    | with_reducible apply modMirror_keepsSched
    | simp only [↓keepsSched_mk_iff]

theorem barrierLeft_keepsSched (n at' : Nat) (s : State) (hs : KeepsSched s0 s) :
    KeepsSched s0 (barrierLeft n at' s) := by
  unfold barrierLeft
  repeat' first
    | with_reducible intro _
    | with_reducible assumption
    | with_reducible apply modVe_keepsSched
    | simp only [↓keepsSched_mk_iff]
    | with_reducible apply keepsSched_ite
    | with_reducible apply keepsSched_foldl
    | split

theorem disarmStarts_keepsSched (s : State) (hs : KeepsSched s0 s) :
    KeepsSched s0 (disarmStarts s) := by
  unfold disarmStarts
  repeat' first
    | with_reducible intro _
    | with_reducible assumption
    | with_reducible apply wr_keepsSched
    | with_reducible apply modVe_keepsSched
    | with_reducible apply barrierLeft_keepsSched
    | simp only [↓keepsSched_mk_iff]
    | with_reducible apply keepsSched_ite
    | with_reducible apply keepsSched_foldl
    | (extract_lets x; first | (with_reducible refine keepsSched_cut (s := x) ?_ ?_; (on_goal 2 => clear_value x); (on_goal 1 => unfold x)) | (subst x))
    | split

theorem disarmTo_keepsSched (c : Nat) (s : State) (hs : KeepsSched s0 s) :
    KeepsSched s0 (disarmTo c s) := by
  unfold disarmTo
  repeat' first
    | with_reducible intro _
    | with_reducible assumption
    | with_reducible apply restartLease_keepsSched
    | with_reducible apply disarmStarts_keepsSched
    | with_reducible apply wr_keepsSched
    | with_reducible apply modMirror_keepsSched
    | simp only [↓keepsSched_mk_iff]

theorem reopen_keepsSched (s : State) (hs : KeepsSched s0 s) :
    KeepsSched s0 (reopen s) := by
  unfold reopen
  repeat' first
    | with_reducible intro _
    | with_reducible assumption
    | with_reducible apply disarmTo_keepsSched
    | with_reducible apply wr_keepsSched
    | with_reducible apply raise_keepsSched
    | with_reducible apply keepsSched_ite
    | (extract_lets x; first | (with_reducible refine keepsSched_cut (s := x) ?_ ?_; (on_goal 2 => clear_value x); (on_goal 1 => unfold x)) | (subst x))
    | split

theorem reopenIf_keepsSched (c : Bool) (s : State) (hs : KeepsSched s0 s) :
    KeepsSched s0 (reopenIf c s) := by
  unfold reopenIf
  repeat' first
    | with_reducible intro _
    | with_reducible assumption
    | with_reducible apply reopen_keepsSched
    | with_reducible apply keepsSched_ite
    | split

theorem engineChanged_keepsSched (n : Nat) (s : State) (hs : KeepsSched s0 s) :
    KeepsSched s0 (engineChanged n s) := by
  unfold engineChanged
  repeat' first
    | with_reducible intro _
    | with_reducible assumption
    | with_reducible apply reopenIf_keepsSched

theorem parkAt_keepsSched (c set t : Nat) (s : State) (hs : KeepsSched s0 s) :
    KeepsSched s0 (parkAt c set t s) := by
  unfold parkAt
  repeat' first
    | with_reducible intro _
    | with_reducible assumption
    | with_reducible apply modOut_keepsSched
    | simp only [↓keepsSched_mk_iff]
    | with_reducible apply keepsSched_ite
    | (extract_lets x; first | (with_reducible refine keepsSched_cut (s := x) ?_ ?_; (on_goal 2 => clear_value x); (on_goal 1 => unfold x)) | (subst x))
    | split

theorem parkEngine_keepsSched (n t : Nat) (s : State) (hs : KeepsSched s0 s) :
    KeepsSched s0 (parkEngine n t s) := by
  unfold parkEngine
  repeat' first
    | with_reducible intro _
    | with_reducible assumption
    | with_reducible apply parkAt_keepsSched
    | with_reducible apply keepsSched_foldl

theorem apgEmpty_keepsSched (n : Nat) (s : State) (hs : KeepsSched s0 s) :
    KeepsSched s0 (apgEmpty n s) := by
  unfold apgEmpty
  repeat' first
    | with_reducible intro _
    | with_reducible assumption
    | with_reducible apply modVe_keepsSched
    | with_reducible apply raiseAt_keepsSched
    | with_reducible apply addTo_keepsSched
    | simp only [↓keepsSched_mk_iff]
    | with_reducible apply keepsSched_ite
    | (extract_lets x; first | (with_reducible refine keepsSched_cut (s := x) ?_ ?_; (on_goal 2 => clear_value x); (on_goal 1 => unfold x)) | (subst x))
    | split

set_option Elab.async false in
theorem veArm_keepsSched (n kind parkSet mode : Nat) (s : State) (hs : KeepsSched s0 s) :
    KeepsSched s0 (veArm n kind parkSet mode s) := by
  unfold veArm
  repeat' first
    | with_reducible intro _
    | with_reducible assumption
    | with_reducible apply modVe_keepsSched
    | with_reducible apply wr_keepsSched
    | with_reducible apply apgEmpty_keepsSched
    | with_reducible apply parkEngine_keepsSched
    | simp only [↓keepsSched_mk_iff]
    | with_reducible apply keepsSched_ite
    | (extract_lets x; first | (with_reducible refine keepsSched_cut (s := x) ?_ ?_; (on_goal 2 => clear_value x); (on_goal 1 => unfold x)) | (subst x))
    | split
end

end Sys2Proof.Laws
end

