-- ==== Sys2Proof/Laws/KeepsVeArmed.lean ====
section
/-! SUPPORT. Functions g of one value of State.veOf: what the operations it lists leave unchanged. -/
set_option linter.unreachableTactic false
set_option linter.unusedSimpArgs false
set_option linter.unusedTactic false
namespace Sys2Proof.Laws
open Sys2Proof.Machine
section
variable {α : Type} {g : VeRun → α} {nn : Nat} {s0 : State}
def KeepsVeArmed (g : VeRun → α) (nn : Nat) (s0 s : State) : Prop := g (s.veOf nn) = g (s0.veOf nn)
theorem keepsVeArmed_ite {c : Prop} [Decidable c] {x y : State} (hx : KeepsVeArmed g nn s0 x) (hy : KeepsVeArmed g nn s0 y) : KeepsVeArmed g nn s0 (if c then x else y) := by split <;> assumption
theorem keepsVeArmed_foldl {β : Type} {f : State → β → State} (hf : ∀ s x, KeepsVeArmed g nn s0 s → KeepsVeArmed g nn s0 (f s x)) :
    ∀ {l : List β} {s : State}, KeepsVeArmed g nn s0 s → KeepsVeArmed g nn s0 (l.foldl f s)
  | [], _, h => h
  | x :: l, s, h => keepsVeArmed_foldl (l := l) hf (hf s x h)
theorem keepsVeArmed_cut {s : State} {p : Prop} (h : KeepsVeArmed g nn s0 s) (f : KeepsVeArmed g nn s0 s → p) : p := f h
theorem modVe_keepsVeArmed (m : Nat) (f : VeRun → VeRun) (s : State) (h : KeepsVeArmed g nn s0 s) (hf : ∀ e, g (f e) = g e) : KeepsVeArmed g nn s0 (s.modVe m f) := by
  unfold KeepsVeArmed at *
  by_cases e : nn = m
  · subst e; rw [veOf_modVe, hf, h]
  · rw [veOf_modVe_other s e, h]
theorem wr_keepsVeArmed (k v : Nat) (s : State) (h : KeepsVeArmed g nn s0 s) : KeepsVeArmed g nn s0 (s.wr k v) := h
theorem keepsVeArmed_mk_iff {s : State} {x_now : Nat} {x_reg : Tab Nat} {x_mem : List Host.Cell} {x_evq : List (Nat × Nat)} {x_freeCtr : Nat} {x_pending : List Instr} {x_hdi : HdiS} {x_clk : ClockS} {x_sched : List Sched} {x_outCh : Tab OutCh} {x_inCh : Tab InCh} {x_fcp : Tab FcpS} {x_sq : Tab SqS} {x_brk : Tab BrkS} {x_tgt : Tab TgtS} {x_groupAt : List (Nat × Nat)} {x_dsp : Tab DspRun} {x_focus : FocusS} {x_trim : TrimS} {x_reqs : List MeshReq} {x_resps : List MeshResp} {x_held : List PortReq} {x_steal : List PortReq} {x_labels : List (MeshReq × Nat)} {x_drain : Option Drain} {x_trace : List Nat} {x_dmc : Tab DmcS} {x_autoTrain : Bool} {x_crh : CrhS} {x_cfg : CfgS} {x_fresh : List (Nat × Nat × Nat)} {x_cleared : List (Nat × Nat × Nat)} {x_sup : SupS} {x_dbg : DbgS} {x_tmu : TmuS} {x_lanes : Tab LaneS} {x_cells : Tab (Option CellS)} {x_cellCfg : Tab CellCfg} {x_sels : Tab Nat} {x_tracks : Tab Nat} {x_upsets : List Upset} {x_facets : Tab FacetS} {x_fev : List (Nat × Nat)} {x_panes : Tab PaneS} {x_banks : Tab BankS} {x_pins : PinsS} :
    KeepsVeArmed g nn s0 ⟨x_now, x_reg, x_mem, x_evq, x_freeCtr, x_pending, x_hdi, x_clk, x_sched, s.ve, x_outCh, x_inCh, x_fcp, x_sq, x_brk, x_tgt, x_groupAt, x_dsp, x_focus, x_trim, x_reqs, x_resps, x_held, x_steal, x_labels, x_drain, x_trace, x_dmc, x_autoTrain, x_crh, x_cfg, x_fresh, x_cleared, x_sup, x_dbg, x_tmu, x_lanes, x_cells, x_cellCfg, x_sels, x_tracks, x_upsets, x_facets, x_fev, x_panes, x_banks, x_pins⟩ ↔ KeepsVeArmed g nn s0 s := Iff.rfl
theorem addTo_keepsVeArmed (s : State) (w k d : Nat) (hs : KeepsVeArmed (fun e : VeRun => (e.prior, e.armKind, e.haltAt, e.stopAt, e.resumeAt, e.bar, e.lands, e.stack, e.rptLeft, e.clrf)) nn s0 s) :
    KeepsVeArmed (fun e : VeRun => (e.prior, e.armKind, e.haltAt, e.stopAt, e.resumeAt, e.bar, e.lands, e.stack, e.rptLeft, e.clrf)) nn s0 (State.addTo s w k d) := by
  unfold State.addTo
  repeat' first
    | with_reducible intro _
    | with_reducible assumption
    | with_reducible apply wr_keepsVeArmed

theorem raiseAt_keepsVeArmed (s : State) (t e : Nat) (hs : KeepsVeArmed (fun e : VeRun => (e.prior, e.armKind, e.haltAt, e.stopAt, e.resumeAt, e.bar, e.lands, e.stack, e.rptLeft, e.clrf)) nn s0 s) :
    KeepsVeArmed (fun e : VeRun => (e.prior, e.armKind, e.haltAt, e.stopAt, e.resumeAt, e.bar, e.lands, e.stack, e.rptLeft, e.clrf)) nn s0 (State.raiseAt s t e) := by
  unfold State.raiseAt
  repeat' first
    | with_reducible intro _
    | with_reducible assumption
    | simp only [↓keepsVeArmed_mk_iff]
    | with_reducible apply keepsVeArmed_ite
    | (extract_lets x; first | (with_reducible refine keepsVeArmed_cut (s := x) ?_ ?_; (on_goal 2 => clear_value x); (on_goal 1 => unfold x)) | (subst x))
    | split

theorem raise_keepsVeArmed (s : State) (e : Nat) (hs : KeepsVeArmed (fun e : VeRun => (e.prior, e.armKind, e.haltAt, e.stopAt, e.resumeAt, e.bar, e.lands, e.stack, e.rptLeft, e.clrf)) nn s0 s) :
    KeepsVeArmed (fun e : VeRun => (e.prior, e.armKind, e.haltAt, e.stopAt, e.resumeAt, e.bar, e.lands, e.stack, e.rptLeft, e.clrf)) nn s0 (State.raise s e) := by
  unfold State.raise
  repeat' first
    | with_reducible intro _
    | with_reducible assumption
    | with_reducible apply raiseAt_keepsVeArmed
    | simp only [↓keepsVeArmed_mk_iff]
    | with_reducible apply keepsVeArmed_ite
    | (extract_lets x; first | (with_reducible refine keepsVeArmed_cut (s := x) ?_ ?_; (on_goal 2 => clear_value x); (on_goal 1 => unfold x)) | (subst x))
    | split

theorem modOut_keepsVeArmed (s : State) (c : Nat) (f : OutCh → OutCh) (hs : KeepsVeArmed (fun e : VeRun => (e.prior, e.armKind, e.haltAt, e.stopAt, e.resumeAt, e.bar, e.lands, e.stack, e.rptLeft, e.clrf)) nn s0 s) :
    KeepsVeArmed (fun e : VeRun => (e.prior, e.armKind, e.haltAt, e.stopAt, e.resumeAt, e.bar, e.lands, e.stack, e.rptLeft, e.clrf)) nn s0 (State.modOut s c f) := by
  unfold State.modOut
  repeat' first
    | with_reducible intro _
    | with_reducible assumption
    | simp only [↓keepsVeArmed_mk_iff]

theorem modMirror_keepsVeArmed (s : State) (f : MirrorS → MirrorS) (hs : KeepsVeArmed (fun e : VeRun => (e.prior, e.armKind, e.haltAt, e.stopAt, e.resumeAt, e.bar, e.lands, e.stack, e.rptLeft, e.clrf)) nn s0 s) :
    KeepsVeArmed (fun e : VeRun => (e.prior, e.armKind, e.haltAt, e.stopAt, e.resumeAt, e.bar, e.lands, e.stack, e.rptLeft, e.clrf)) nn s0 (State.modMirror s f) := by
  unfold State.modMirror
  repeat' first
    | with_reducible intro _
    | with_reducible assumption
    | simp only [↓keepsVeArmed_mk_iff]

theorem restartLease_keepsVeArmed (s : State) (hs : KeepsVeArmed (fun e : VeRun => (e.prior, e.armKind, e.haltAt, e.stopAt, e.resumeAt, e.bar, e.lands, e.stack, e.rptLeft, e.clrf)) nn s0 s) :
    KeepsVeArmed (fun e : VeRun => (e.prior, e.armKind, e.haltAt, e.stopAt, e.resumeAt, e.bar, e.lands, e.stack, e.rptLeft, e.clrf)) nn s0 (restartLease s) := by
  unfold restartLease
  repeat' first
    | with_reducible intro _
    | with_reducible assumption
    | with_reducible apply modMirror_keepsVeArmed
    | simp only [↓keepsVeArmed_mk_iff]

theorem barrierLeft_keepsVeArmed (n at' : Nat) (s : State) (hs : KeepsVeArmed (fun e : VeRun => (e.prior, e.armKind, e.haltAt, e.stopAt, e.resumeAt, e.bar, e.lands, e.stack, e.rptLeft, e.clrf)) nn s0 s) :
    KeepsVeArmed (fun e : VeRun => (e.prior, e.armKind, e.haltAt, e.stopAt, e.resumeAt, e.bar, e.lands, e.stack, e.rptLeft, e.clrf)) nn s0 (barrierLeft n at' s) := by
  unfold barrierLeft
  repeat' first
    | with_reducible intro _
    | with_reducible assumption
    | (with_reducible refine modVe_keepsVeArmed _ _ _ ?_ ?_; (on_goal 2 => (intro e; rfl)))
    | simp only [↓keepsVeArmed_mk_iff]
    | with_reducible apply keepsVeArmed_ite
    | with_reducible apply keepsVeArmed_foldl
    | split

theorem disarmStarts_keepsVeArmed (s : State) (hs : KeepsVeArmed (fun e : VeRun => (e.prior, e.armKind, e.haltAt, e.stopAt, e.resumeAt, e.bar, e.lands, e.stack, e.rptLeft, e.clrf)) nn s0 s) :
    KeepsVeArmed (fun e : VeRun => (e.prior, e.armKind, e.haltAt, e.stopAt, e.resumeAt, e.bar, e.lands, e.stack, e.rptLeft, e.clrf)) nn s0 (disarmStarts s) := by
  unfold disarmStarts
  repeat' first
    | with_reducible intro _
    | with_reducible assumption
    | with_reducible apply wr_keepsVeArmed
    | (with_reducible refine modVe_keepsVeArmed _ _ _ ?_ ?_; (on_goal 2 => (intro e; rfl)))
    | with_reducible apply barrierLeft_keepsVeArmed
    | simp only [↓keepsVeArmed_mk_iff]
    | with_reducible apply keepsVeArmed_ite
    | with_reducible apply keepsVeArmed_foldl
    | (extract_lets x; first | (with_reducible refine keepsVeArmed_cut (s := x) ?_ ?_; (on_goal 2 => clear_value x); (on_goal 1 => unfold x)) | (subst x))
    | split

theorem disarmTo_keepsVeArmed (c : Nat) (s : State) (hs : KeepsVeArmed (fun e : VeRun => (e.prior, e.armKind, e.haltAt, e.stopAt, e.resumeAt, e.bar, e.lands, e.stack, e.rptLeft, e.clrf)) nn s0 s) :
    KeepsVeArmed (fun e : VeRun => (e.prior, e.armKind, e.haltAt, e.stopAt, e.resumeAt, e.bar, e.lands, e.stack, e.rptLeft, e.clrf)) nn s0 (disarmTo c s) := by
  unfold disarmTo
  repeat' first
    | with_reducible intro _
    | with_reducible assumption
    | with_reducible apply restartLease_keepsVeArmed
    | with_reducible apply disarmStarts_keepsVeArmed
    | with_reducible apply wr_keepsVeArmed
    | with_reducible apply modMirror_keepsVeArmed
    | simp only [↓keepsVeArmed_mk_iff]

theorem reopen_keepsVeArmed (s : State) (hs : KeepsVeArmed (fun e : VeRun => (e.prior, e.armKind, e.haltAt, e.stopAt, e.resumeAt, e.bar, e.lands, e.stack, e.rptLeft, e.clrf)) nn s0 s) :
    KeepsVeArmed (fun e : VeRun => (e.prior, e.armKind, e.haltAt, e.stopAt, e.resumeAt, e.bar, e.lands, e.stack, e.rptLeft, e.clrf)) nn s0 (reopen s) := by
  unfold reopen
  repeat' first
    | with_reducible intro _
    | with_reducible assumption
    | with_reducible apply disarmTo_keepsVeArmed
    | with_reducible apply wr_keepsVeArmed
    | with_reducible apply raise_keepsVeArmed
    | with_reducible apply keepsVeArmed_ite
    | (extract_lets x; first | (with_reducible refine keepsVeArmed_cut (s := x) ?_ ?_; (on_goal 2 => clear_value x); (on_goal 1 => unfold x)) | (subst x))
    | split

theorem reopenIf_keepsVeArmed (c : Bool) (s : State) (hs : KeepsVeArmed (fun e : VeRun => (e.prior, e.armKind, e.haltAt, e.stopAt, e.resumeAt, e.bar, e.lands, e.stack, e.rptLeft, e.clrf)) nn s0 s) :
    KeepsVeArmed (fun e : VeRun => (e.prior, e.armKind, e.haltAt, e.stopAt, e.resumeAt, e.bar, e.lands, e.stack, e.rptLeft, e.clrf)) nn s0 (reopenIf c s) := by
  unfold reopenIf
  repeat' first
    | with_reducible intro _
    | with_reducible assumption
    | with_reducible apply reopen_keepsVeArmed
    | with_reducible apply keepsVeArmed_ite
    | split

theorem engineChanged_keepsVeArmed (n : Nat) (s : State) (hs : KeepsVeArmed (fun e : VeRun => (e.prior, e.armKind, e.haltAt, e.stopAt, e.resumeAt, e.bar, e.lands, e.stack, e.rptLeft, e.clrf)) nn s0 s) :
    KeepsVeArmed (fun e : VeRun => (e.prior, e.armKind, e.haltAt, e.stopAt, e.resumeAt, e.bar, e.lands, e.stack, e.rptLeft, e.clrf)) nn s0 (engineChanged n s) := by
  unfold engineChanged
  repeat' first
    | with_reducible intro _
    | with_reducible assumption
    | with_reducible apply reopenIf_keepsVeArmed

theorem parkAt_keepsVeArmed (c set t : Nat) (s : State) (hs : KeepsVeArmed (fun e : VeRun => (e.prior, e.armKind, e.haltAt, e.stopAt, e.resumeAt, e.bar, e.lands, e.stack, e.rptLeft, e.clrf)) nn s0 s) :
    KeepsVeArmed (fun e : VeRun => (e.prior, e.armKind, e.haltAt, e.stopAt, e.resumeAt, e.bar, e.lands, e.stack, e.rptLeft, e.clrf)) nn s0 (parkAt c set t s) := by
  unfold parkAt
  repeat' first
    | with_reducible intro _
    | with_reducible assumption
    | with_reducible apply modOut_keepsVeArmed
    | simp only [↓keepsVeArmed_mk_iff]
    | with_reducible apply keepsVeArmed_ite
    | (extract_lets x; first | (with_reducible refine keepsVeArmed_cut (s := x) ?_ ?_; (on_goal 2 => clear_value x); (on_goal 1 => unfold x)) | (subst x))
    | split

theorem parkEngine_keepsVeArmed (n t : Nat) (s : State) (hs : KeepsVeArmed (fun e : VeRun => (e.prior, e.armKind, e.haltAt, e.stopAt, e.resumeAt, e.bar, e.lands, e.stack, e.rptLeft, e.clrf)) nn s0 s) :
    KeepsVeArmed (fun e : VeRun => (e.prior, e.armKind, e.haltAt, e.stopAt, e.resumeAt, e.bar, e.lands, e.stack, e.rptLeft, e.clrf)) nn s0 (parkEngine n t s) := by
  unfold parkEngine
  repeat' first
    | with_reducible intro _
    | with_reducible assumption
    | with_reducible apply parkAt_keepsVeArmed
    | with_reducible apply keepsVeArmed_foldl

theorem offAt_keepsVeArmed (c t : Nat) (s : State) (hs : KeepsVeArmed (fun e : VeRun => (e.prior, e.armKind, e.haltAt, e.stopAt, e.resumeAt, e.bar, e.lands, e.stack, e.rptLeft, e.clrf)) nn s0 s) :
    KeepsVeArmed (fun e : VeRun => (e.prior, e.armKind, e.haltAt, e.stopAt, e.resumeAt, e.bar, e.lands, e.stack, e.rptLeft, e.clrf)) nn s0 (offAt c t s) := by
  unfold offAt
  repeat' first
    | with_reducible intro _
    | with_reducible assumption
    | with_reducible apply modOut_keepsVeArmed
    | simp only [↓keepsVeArmed_mk_iff]
    | with_reducible apply keepsVeArmed_ite
    | split

theorem veEnter_keepsVeArmed (n c : Nat) (s : State) (hs : KeepsVeArmed (fun e : VeRun => (e.prior, e.armKind, e.haltAt, e.stopAt, e.resumeAt, e.bar, e.lands, e.stack, e.rptLeft, e.clrf)) nn s0 s) :
    KeepsVeArmed (fun e : VeRun => (e.prior, e.armKind, e.haltAt, e.stopAt, e.resumeAt, e.bar, e.lands, e.stack, e.rptLeft, e.clrf)) nn s0 (veEnter n c s) := by
  unfold veEnter
  repeat' first
    | with_reducible intro _
    | with_reducible assumption
    | with_reducible apply engineChanged_keepsVeArmed
    | with_reducible apply wr_keepsVeArmed

theorem apgEmpty_keepsVeArmed (n : Nat) (s : State) (hs : KeepsVeArmed (fun e : VeRun => (e.prior, e.armKind, e.haltAt, e.stopAt, e.resumeAt, e.bar, e.lands, e.stack, e.rptLeft, e.clrf)) nn s0 s) :
    KeepsVeArmed (fun e : VeRun => (e.prior, e.armKind, e.haltAt, e.stopAt, e.resumeAt, e.bar, e.lands, e.stack, e.rptLeft, e.clrf)) nn s0 (apgEmpty n s) := by
  unfold apgEmpty
  repeat' first
    | with_reducible intro _
    | with_reducible assumption
    | with_reducible apply raiseAt_keepsVeArmed
    | with_reducible apply addTo_keepsVeArmed
    | (with_reducible refine modVe_keepsVeArmed _ _ _ ?_ ?_; (on_goal 2 => (intro e; rfl)))
    | simp only [↓keepsVeArmed_mk_iff]
    | with_reducible apply keepsVeArmed_ite
    | (extract_lets x; first | (with_reducible refine keepsVeArmed_cut (s := x) ?_ ?_; (on_goal 2 => clear_value x); (on_goal 1 => unfold x)) | (subst x))
    | split

set_option Elab.async false in
theorem schedFree_keepsVeArmed (dsp : Bool) (n : Nat) (s : State) (hs : KeepsVeArmed (fun e : VeRun => (e.prior, e.armKind, e.haltAt, e.stopAt, e.resumeAt, e.bar, e.lands, e.stack, e.rptLeft, e.clrf)) nn s0 s) :
    KeepsVeArmed (fun e : VeRun => (e.prior, e.armKind, e.haltAt, e.stopAt, e.resumeAt, e.bar, e.lands, e.stack, e.rptLeft, e.clrf)) nn s0 (schedFree dsp n s) := by
  unfold schedFree
  repeat' first
    | with_reducible intro _
    | with_reducible assumption
    | simp only [↓keepsVeArmed_mk_iff]
end

end Sys2Proof.Laws
end

