-- ==== Sys2Proof/Laws/KeepsVeStack.lean ====
section
/-! SUPPORT. Functions g of one value of State.veOf: what the operations it lists leave unchanged. -/
namespace Sys2Proof.Laws
open Sys2Proof.Machine
section
variable {α : Type} {g : VeRun → α} {nn : Nat} {s0 : State}
def KeepsVeStack (g : VeRun → α) (nn : Nat) (s0 s : State) : Prop := g (s.veOf nn) = g (s0.veOf nn)
theorem keepsVeStack_ite {c : Prop} [Decidable c] {x y : State} (hx : KeepsVeStack g nn s0 x) (hy : KeepsVeStack g nn s0 y) : KeepsVeStack g nn s0 (if c then x else y) := by split <;> assumption
theorem keepsVeStack_foldl {β : Type} {f : State → β → State} (hf : ∀ s x, KeepsVeStack g nn s0 s → KeepsVeStack g nn s0 (f s x)) :
    ∀ {l : List β} {s : State}, KeepsVeStack g nn s0 s → KeepsVeStack g nn s0 (l.foldl f s)
  | [], _, h => h
  | x :: l, s, h => keepsVeStack_foldl (l := l) hf (hf s x h)
theorem keepsVeStack_cut {s : State} {p : Prop} (h : KeepsVeStack g nn s0 s) (f : KeepsVeStack g nn s0 s → p) : p := f h
theorem modVe_keepsVeStack (m : Nat) (f : VeRun → VeRun) (s : State) (h : KeepsVeStack g nn s0 s) (hf : ∀ e, g (f e) = g e) : KeepsVeStack g nn s0 (s.modVe m f) := by
  unfold KeepsVeStack at *
  by_cases e : nn = m
  · subst e; rw [veOf_modVe, hf, h]
  · rw [veOf_modVe_other s e, h]
theorem wr_keepsVeStack (k v : Nat) (s : State) (h : KeepsVeStack g nn s0 s) : KeepsVeStack g nn s0 (s.wr k v) := h
theorem keepsVeStack_mk_iff {s : State} {x_now : Nat} {x_reg : Tab Nat} {x_mem : List Host.Cell} {x_evq : List (Nat × Nat)} {x_freeCtr : Nat} {x_pending : List Instr} {x_hdi : HdiS} {x_clk : ClockS} {x_sched : List Sched} {x_outCh : Tab OutCh} {x_inCh : Tab InCh} {x_fcp : Tab FcpS} {x_sq : Tab SqS} {x_brk : Tab BrkS} {x_tgt : Tab TgtS} {x_groupAt : List (Nat × Nat)} {x_dsp : Tab DspRun} {x_focus : FocusS} {x_trim : TrimS} {x_reqs : List MeshReq} {x_resps : List MeshResp} {x_held : List PortReq} {x_steal : List PortReq} {x_labels : List (MeshReq × Nat)} {x_drain : Option Drain} {x_trace : List Nat} {x_dmc : Tab DmcS} {x_autoTrain : Bool} {x_crh : CrhS} {x_cfg : CfgS} {x_fresh : List (Nat × Nat × Nat)} {x_cleared : List (Nat × Nat × Nat)} {x_sup : SupS} {x_dbg : DbgS} {x_tmu : TmuS} {x_lanes : Tab LaneS} {x_cells : Tab (Option CellS)} {x_cellCfg : Tab CellCfg} {x_sels : Tab Nat} {x_tracks : Tab Nat} {x_upsets : List Upset} {x_facets : Tab FacetS} {x_fev : List (Nat × Nat)} {x_panes : Tab PaneS} {x_banks : Tab BankS} {x_pins : PinsS} :
    KeepsVeStack g nn s0 ⟨x_now, x_reg, x_mem, x_evq, x_freeCtr, x_pending, x_hdi, x_clk, x_sched, s.ve, x_outCh, x_inCh, x_fcp, x_sq, x_brk, x_tgt, x_groupAt, x_dsp, x_focus, x_trim, x_reqs, x_resps, x_held, x_steal, x_labels, x_drain, x_trace, x_dmc, x_autoTrain, x_crh, x_cfg, x_fresh, x_cleared, x_sup, x_dbg, x_tmu, x_lanes, x_cells, x_cellCfg, x_sels, x_tracks, x_upsets, x_facets, x_fev, x_panes, x_banks, x_pins⟩ ↔ KeepsVeStack g nn s0 s := Iff.rfl
theorem barFail_keepsVeStack (n t : Nat) (s : State) (hs : KeepsVeStack (fun e : VeRun => e.bar) nn s0 s) :
    KeepsVeStack (fun e : VeRun => e.bar) nn s0 (barFail n t s) := by
  unfold barFail
  repeat' first
    | with_reducible intro _
    | with_reducible assumption
    | (with_reducible refine modVe_keepsVeStack _ _ _ ?_ ?_; (on_goal 2 => (intro e; rfl)))
    | simp only [↓keepsVeStack_mk_iff]

theorem failNaming_keepsVeStack (i j t : Nat) (s : State) (hs : KeepsVeStack (fun e : VeRun => e.bar) nn s0 s) :
    KeepsVeStack (fun e : VeRun => e.bar) nn s0 (failNaming i j t s) := by
  unfold failNaming
  repeat' first
    | with_reducible intro _
    | with_reducible assumption
    | with_reducible apply barFail_keepsVeStack
    | with_reducible apply keepsVeStack_ite
    | with_reducible apply keepsVeStack_foldl
    | split

set_option Elab.async false in
theorem arrive_keepsVeStack (n mask t : Nat) (s : State) (hs : KeepsVeStack (fun e : VeRun => e.bar) nn s0 s) :
    KeepsVeStack (fun e : VeRun => e.bar) nn s0 (arrive n mask t s) := by
  unfold arrive
  repeat' first
    | with_reducible intro _
    | with_reducible assumption
    | with_reducible apply barFail_keepsVeStack
    | with_reducible apply failNaming_keepsVeStack
    | with_reducible apply keepsVeStack_ite
    | with_reducible apply keepsVeStack_foldl
    | (extract_lets x; first | (with_reducible refine keepsVeStack_cut (s := x) ?_ ?_; (on_goal 2 => clear_value x); (on_goal 1 => unfold x)) | (subst x))
    | split
end

end Sys2Proof.Laws
end

