-- ==== Sys2Proof/Laws/CompleteVe.lean ====
section
/-! SUPPORT. Commands and words of vector engines: facts that proofs about their commands cite. -/
namespace Sys2Proof.Laws.CompleteVe
open Sys2Proof.Machine Common
theorem like_veState {u t : State} (h : Like u t) (n : Nat) : veState n t = veState n u := h.rd _ (by show (0x7100 + n) * 256 + 0 ≠ 0x300 + 0; omega)
theorem like_veOf {u t : State} (h : Like u t) (n : Nat) : t.veOf n = u.veOf n := by unfold State.veOf; rw [h.ve]
theorem notInF {l : List Nat} {n : Nat} {s : State} (h : veState n s ∈ l) : (notIn l n s).1 = false := by
  unfold notIn; simp [h]
theorem veArm_facts (n kind p m : Nat) (s : State) : veState n (veArm n kind p m s) = 2 ∧ ((veArm n kind p m s).veOf n).prior = veState n s ∧
    ((veArm n kind p m s).veOf n).armKind = kind := by
  unfold veArm
  dsimp only
  generalize hu : ((s.modVe n _).wr (VEN.STATE n) 2) = u
  have h1 : veState n u = 2 := by subst hu; exact rd_wr_same _ _ _
  have h2 : (u.veOf n).prior = veState n s ∧ (u.veOf n).armKind = kind := by
    subst hu
    have : ∀ (w : State) k v, (w.wr k v).veOf n = w.veOf n := fun w k v => rfl
    rw [this, veOf_modVe]
    exact ⟨rfl, rfl⟩
  have e := apgEmpty_keepsVeArmed (nn := n) (s0 := u) n _ (parkEngine_keepsVeArmed (nn := n) (s0 := u) n u.now u rfl)
  have e1 := congrArg (·.1) e
  have e2 := congrArg (·.2.1) e
  refine ⟨?_, e1.trans h2.1, e2.trans h2.2⟩
  rw [← h1]
  refine (apgEmpty_fr (V := fun k => k = VEN.APG_DISCARD n) (M := True) n _ (parkEngine_fr n _ u (fr_refl u)) rfl).1 _ ?_
  show ¬ ((0x7100 + n) * 256 + 0 = VEN.APG_DISCARD n)
  intro h
  have : (0x7100 + n) * 256 + 0 = (0x7100 + n) * 256 + _ := h
  omega
theorem stepCount_rd (n next k : Nat) (s : State) : (stepCount n next s).rd k = s.rd k :=
  (stepCount_fr (V := fun _ => False) (M := True) n next s (fr_refl s)).1 k not_false
theorem issue_facts (n b w a : Nat) (smp : Samples) (s : State) : (issueCycle n b w a smp s).rd (VEN.PC n) = a ∧
    (issueCycle n b w a smp s).rd (VEN.CYCLES n) = min (s.rd (VEN.CYCLES n) + 1) (2 ^ 64 - 1) ∧
    (issueCycle n b w a smp s).bit (VEN.FLAGS n) 1 = s.bit (VEN.FLAGS n) 1 := by
  unfold issueCycle
  extract_lets t s1 s2 masked d r s3 rec_ s4 cyc s5 s6
  have k1 : ∀ {u v : State}, (Fr (fun k => k ≠ VEN.CYCLES n ∧ k ≠ VEN.FLAGS n) True u v) → v.rd (VEN.CYCLES n) = u.rd (VEN.CYCLES n) ∧ v.rd (VEN.FLAGS n) = u.rd (VEN.FLAGS n) :=
    fun h => ⟨h.1 _ (by simp), h.1 _ (by simp)⟩
  have h1 := k1 (u := s) (v := s1) (by
    refine brkMatch_fr _ _ _ _ _ _ _ (brkMatch_fr _ _ _ _ _ _ s (fr_refl s) ?_ ?_ ?_) ?_ ?_ ?_ <;>
      (try intro x) <;> (simp only [DBG.BRK_HITS, DBG.BRK_STATE, DBG.EVFLAGS, VEN.CYCLES, VEN.FLAGS]; omega))
  have h2 : s2.rd (VEN.CYCLES n) = s1.rd (VEN.CYCLES n) ∧ s2.bit (VEN.FLAGS n) 1 = s1.bit (VEN.FLAGS n) 1 := by
    show (if wDsrc w = 1 then consume n b s1 else s1).rd _ = _ ∧ (if wDsrc w = 1 then consume n b s1 else s1).bit _ _ = _
    split
    · unfold consume
      split
      · dsimp only
        refine ⟨?_, ?_⟩
        · rw [rd_setBit_other _ (by simp only [VEN.CYCLES, VEN.FLAGS]; omega), rd_modVe, rd_bump, if_neg (by simp only [VEN.CYCLES, VEN.APG_USED]; omega)]
        · rw [bit_setBit_other _ (by decide)]
          unfold State.bit
          rw [rd_modVe, rd_bump, if_neg (by simp only [VEN.FLAGS, VEN.APG_USED]; omega)]
      · exact ⟨rfl, rfl⟩
    · exact ⟨rfl, rfl⟩
  have h3 := k1 (u := s2) (v := r.1) (by
    refine strobeAll_fr ?_ ?_ _ _ _ _ _ _ _ (fr_refl _) <;>
      (try intro x) <;> (simp only [EDG.DROP_GROUPS, EDG.STROBE_DROP, VEN.CYCLES, VEN.FLAGS]; omega))
  have h4 := k1 (u := r.1) (v := s3) (by
    refine fr_foldl (fun s x h => driveOut_fr _ _ _ _ _ _ _ _ h ?_ ?_) (fr_refl _) <;>
      (try intro x) <;> (simp only [EDG.DROP_GROUPS, EDG.EDGE_DROP, VEN.CYCLES, VEN.FLAGS]; omega))
  have h5 : s5.rd (VEN.CYCLES n) = s.rd (VEN.CYCLES n) ∧ s5.bit (VEN.FLAGS n) 1 = s.bit (VEN.FLAGS n) 1 := by
    have e : ∀ k, s5.rd k = s3.rd k := fun k => by
      show (State.modVe _ _ _).rd k = _
      rw [rd_modVe]; exact rd_modFcp _ _ _ _
    refine ⟨?_, ?_⟩
    · rw [e, h4.1, h3.1, h2.1, h1.1]
    · unfold State.bit at h2 ⊢
      rw [e, h4.2, h3.2, h2.2, h1.2]
  unfold State.bit at h5 ⊢
  refine ⟨?_, ?_, ?_⟩
  all_goals rw [stepCount_rd, rd_modTgt]
  · show (State.bump (State.wr s5 _ _) _ _).rd _ = _
    rw [rd_bump, if_neg (by simp only [VEN.PC, VEN.CYCLES]; omega)]; exact rd_wr_same _ _ _
  · show (State.bump (State.wr s5 _ _) _ _).rd _ = _
    rw [rd_bump, if_pos rfl, rd_wr_other _ (by simp only [VEN.PC, VEN.CYCLES]; omega), h5.1]
  · show Nat.testBit ((State.bump (State.wr s5 _ _) _ _).rd _) _ = _
    rw [rd_bump, if_neg (by simp only [VEN.FLAGS, VEN.CYCLES]; omega), rd_wr_other _ (by simp only [VEN.PC, VEN.FLAGS]; omega), h5.2]
theorem decide_facts (n : Nat) (s : State) (k : Nat) (h : k ≠ VEN.FLAGS n) : (decideNext n s).1.rd k = s.rd k :=
  (decideNext_fr (V := fun k => k = VEN.FLAGS n) (M := True) n s (fr_refl s) rfl).1 k h
theorem word_facts {n w a : Nat} {fresh : Bool} {smp : Samples} {s : State} (h : VeDecides n w a fresh s) (opc : Nat) (ho : wOpc w = opc) :
    ∃ y, (∀ act, wordCommand n opc smp act s = .next (act w a (veBoundary n s) fresh y)) ∧ VeIssued n a s y ∧
      (∀ k, k < 16 → y.rd (VEN.CTR n k) = s.rd (VEN.CTR n k)) ∧ y.rd (VEN.EVENTS n) = s.rd (VEN.EVENTS n) ∧
      (y.veOf n).stack = (s.veOf n).stack ∧ (y.veOf n).rptLeft = (s.veOf n).rptLeft ∧ (opc = 8 → fresh = true → y.bit (VEN.FLAGS n) 1 = false) := by
  obtain ⟨hn, hi, hb, u, hu⟩ := h
  have key : ∀ v, v = (if opc = 8 ∧ fresh = true then (u.setBit (VEN.FLAGS n) 1 false).modVe n fun e => { e with clrf := e.cyc, failOff := if u.bit (VEN.FLAGS n) 1 then u.now else e.failOff } else u) →
      ∀ z, z = issueCycle n (veBoundary n s) w a smp (markUsed n a (v.veOf n).cyc v) →
      ∀ act, wordCommand n opc smp act s = .next (act w a (veBoundary n s) fresh (if fresh then z.modVe n fun e => { e with next := a + 1 } else z)) := by
    intro v hv z hz act
    subst hv; subst hz
    unfold wordCommand
    rw [unitNext hn]
    dsimp only
    rw [if_neg (by simp [hi, hb]), hu]
    dsimp only
    rw [if_neg (by simp [ho])]
  refine ⟨_, key _ rfl _ rfl, ?_⟩
  · have hd : ∀ k, k ≠ VEN.FLAGS n → u.rd k = s.rd k := fun k hk => by
      have := decide_facts n (s.upto (veBoundary n s - 18 * ticksPerNs)) k hk
      rw [hu] at this; exact this
    have hk : KeepsVeRun (fun e : VeRun => (e.stack, e.rptLeft, e.lands, e.bar)) n s u := by
      have := decideNext_keepsVeRun (nn := n) (s0 := s) n (s.upto (veBoundary n s - 18 * ticksPerNs)) rfl
      rw [hu] at this; exact this
    generalize hv : (if opc = 8 ∧ fresh = true then (u.setBit (VEN.FLAGS n) 1 false).modVe n fun e => { e with clrf := e.cyc, failOff := if u.bit (VEN.FLAGS n) 1 then u.now else e.failOff } else u) = v
    have vk : KeepsVeRun (fun e : VeRun => (e.stack, e.rptLeft, e.lands, e.bar)) n s v := by
      subst hv
      refine keepsVeRun_ite (modVe_keepsVeRun _ _ _ (setBit_keepsVeRun _ _ _ _ hk) (fun e => rfl)) hk
    have vr : ∀ k, k ≠ VEN.FLAGS n → v.rd k = s.rd k := by
      intro k hk; subst hv; split
      · rw [rd_modVe, rd_setBit_other _ hk, hd k hk]
      · exact hd k hk
    have vf : opc = 8 → fresh = true → v.bit (VEN.FLAGS n) 1 = false := by
      intro h8 hf; subst hv; rw [if_pos ⟨h8, hf⟩]
      unfold State.bit; rw [rd_modVe]; exact bit_setBit_false _ _ _
    generalize hm : markUsed n a (v.veOf n).cyc v = m
    have mk : KeepsVeRun (fun e : VeRun => (e.stack, e.rptLeft, e.lands, e.bar)) n s m := by subst hm; exact markUsed_keepsVeRun _ _ _ _ vk
    have mr : ∀ k, m.rd k = v.rd k := fun k => by subst hm; exact (markUsed_fr (V := fun _ => False) (M := True) n a _ v (fr_refl v)).1 k not_false
    have ik := issueCycle_keepsVeRun (nn := n) (s0 := s) n (veBoundary n s) w a smp m mk
    have i1 := issue_facts n (veBoundary n s) w a smp m
    have ir : ∀ k, (k / 256 = 0x7100 + n ∧ k % 256 ≠ (VEN.FLAGS n) % 256 ∧ k % 256 ≠ VEN.PC n % 256 ∧ k % 256 ≠ VEN.CYCLES n % 256 ∧ k % 256 ≠ VEN.APG_USED n % 256) → (issueCycle n (veBoundary n s) w a smp m).rd k = m.rd k := by
      intro k hk
      refine (issueCycle_fr (V := fun j => ¬ (j / 256 = 0x7100 + n ∧ j % 256 ≠ (VEN.FLAGS n) % 256 ∧ j % 256 ≠ VEN.PC n % 256 ∧ j % 256 ≠ VEN.CYCLES n % 256 ∧ j % 256 ≠ VEN.APG_USED n % 256)) (M := True) n (veBoundary n s) w a smp m (fr_refl m) ?_ ?_ ?_ ?_ ?_ ?_ ?_ ?_ ?_ ?_).1 k (by simpa using hk) <;>
      (intros; simp only [EDG.DROP_GROUPS, EDG.EDGE_DROP, EDG.STROBE_DROP, VEN.CYCLES, VEN.FLAGS, VEN.PC, VEN.APG_USED, DBG.BRK_HITS, DBG.BRK_STATE, DBG.EVFLAGS] at *; omega)
    generalize issueCycle n (veBoundary n s) w a smp m = z at ik i1 ir
    have yr : ∀ k, (if fresh then z.modVe n fun e => { e with next := a + 1 } else z).rd k = z.rd k := by
      intro k; split
      · rw [rd_modVe]
      · rfl
    have yk : KeepsVeRun (fun e : VeRun => (e.stack, e.rptLeft, e.lands, e.bar)) n s (if fresh then z.modVe n fun e => { e with next := a + 1 } else z) :=
      keepsVeRun_ite (modVe_keepsVeRun _ _ _ ik (fun e => rfl)) ik
    generalize (if fresh then z.modVe n fun e => { e with next := a + 1 } else z) = y at yr yk
    refine ⟨⟨?_, ?_⟩, ?_, ?_, congrArg (·.1) yk, congrArg (·.2.1) yk, ?_⟩
    · rw [yr, i1.1]
    · rw [yr, i1.2.1, mr, vr _ (by simp only [VEN.CYCLES, VEN.FLAGS]; omega)]
    · intro k hk
      rw [yr, ir _ (by simp only [VEN.CTR, VEN.FLAGS, VEN.PC, VEN.CYCLES, VEN.APG_USED]; omega), mr, vr _ (by simp only [VEN.CTR, VEN.FLAGS]; omega)]
    · rw [yr, ir _ (by simp only [VEN.EVENTS, VEN.FLAGS, VEN.PC, VEN.CYCLES, VEN.APG_USED]; omega), mr, vr _ (by simp only [VEN.EVENTS, VEN.FLAGS]; omega)]
    · intro h8 hf
      have : y.bit (VEN.FLAGS n) 1 = m.bit (VEN.FLAGS n) 1 := by unfold State.bit at i1 ⊢; rw [yr, i1.2.2]
      rw [this]; unfold State.bit at vf ⊢; rw [mr]; exact vf h8 hf

theorem issued_of {n a : Nat} {s y t : State} (h : VeIssued n a s y) (h1 : t.rd (VEN.PC n) = y.rd (VEN.PC n)) (h2 : t.rd (VEN.CYCLES n) = y.rd (VEN.CYCLES n)) : VeIssued n a s t :=
  ⟨h1.trans h.1, h2.trans h.2⟩
theorem wSel_lt (w : Nat) : wSel w < 16 := by unfold wSel Dict.bitsOf; simp; omega
theorem stop_facts (n b c : Nat) (s : State) (hn : n < 32) (h : (s.veOf n).lands = []) (hc : c ≠ 4) (hc2 : c ≠ 2) :
    veState n (veStopAt n b c s) = c ∧ (veStopAt n b c s).rd (VEN.FAULT n) = s.rd (VEN.FAULT n) ∧
      (veStopAt n b c s).rd (VEN.FAULT_PC n) = s.rd (VEN.FAULT_PC n) := by
  unfold veStopAt
  extract_lets s1 s2 s3 s4 s5 s6 s7 s8
  rw [if_neg hc]
  have hl2 : (s2.veOf n).lands = [] := by
    show ((match (s1.veOf n).ptoEnd with
    | some e => (s1.wr (VEN.PTO_LEFT n) ((e - b + 8191) / 8192)).modVe n fun v => { v with ptoEnd := none, ptoErr := if e ≤ b then some (e + 20 * ticksPerNs) else v.ptoErr }
    | none => s1 : State).veOf n).lands = []
    split
    · rw [veOf_modVe]; exact h
    · exact h
  have e3 : s3 = s2 := by
    show landAll n b s2 = s2
    unfold landAll landTo landDue; rw [hl2]; rfl
  have V : Nat → Prop := fun k => k ≠ VEN.FAULT n ∧ k ≠ VEN.FAULT_PC n
  have kk : ∀ {u v : State}, Fr (fun k => k ≠ VEN.FAULT n ∧ k ≠ VEN.FAULT_PC n) True u v → v.rd (VEN.FAULT n) = u.rd (VEN.FAULT n) ∧ v.rd (VEN.FAULT_PC n) = u.rd (VEN.FAULT_PC n) :=
    fun h => ⟨h.1 _ (by simp), h.1 _ (by simp)⟩
  have h2 := kk (u := s) (v := s2) (by
    show Fr _ _ s (match (s1.veOf n).ptoEnd with
    | some e => (s1.wr (VEN.PTO_LEFT n) ((e - b + 8191) / 8192)).modVe n fun v => { v with ptoEnd := none, ptoErr := if e ≤ b then some (e + 20 * ticksPerNs) else v.ptoErr }
    | none => s1 : State)
    split
    · refine modVe_fr _ _ _ (wr_fr (upto_fr _ _ (fr_refl s)) _ _ ?_); simp only [VEN.PTO_LEFT, VEN.FAULT, VEN.FAULT_PC]; omega
    · exact upto_fr _ _ (fr_refl s))
  have h5 := kk (u := s3) (v := s5) (by
    refine closeMark_fr _ _ _ (parkEngine_fr _ _ _ (suppressFrom_fr _ _ _ (fr_refl _))) ?_ ?_ ?_ ?_ ?_ ?_ ?_ ?_ <;>
      (intros; simp only [VEN.FAULT, VEN.FAULT_PC, FCP.Q_EVFLAGS, FCP.STOPPED_BY, FCP.BM_DROP, FCP.BM_FORMED, FCP.REC_DROP_RING, FCP.REC_DROP_CAP, FCP.REC_CAPPED, FCP.REC_FORMED]; omega))
  have h8 := kk (u := s5) (v := s8) (by
    refine setBit_fr _ _ _ _ (modVe_fr _ _ _ (modVe_fr _ _ _ (fr_refl _))) ?_
    simp only [VEN.FAULT, VEN.FAULT_PC, VEN.FLAGS]; omega)
  have h9 := kk (u := s8) (v := barrierLeft n b (veEnter n c (s8.modTgt (1 + n) fun g => { g with pend := false, held := false, left := none }))) (by
    refine barrierLeft_fr _ _ _ (veEnter_fr _ _ _ (modTgt_fr _ _ _ (fr_refl _)) ?_ ?_ ?_) <;>
    (intros; simp only [VEN.FAULT, VEN.FAULT_PC, VEN.STATE, HDI.APPLY_OUTCOME, HDI.MIRROR_STATE]; omega))
  refine ⟨?_, ?_, ?_⟩
  · show (barrierLeft _ _ _).rd _ = _
    rw [barrierLeft_rd]; exact enter_state _ _ _ (by intro h; exact hc2 h.2)
  · rw [h9.1, h8.1, h5.1, e3, h2.1]
  · rw [h9.2, h8.2, h5.2, e3, h2.2]
set_option Elab.async false in
theorem fault_facts (n b c a : Nat) (s : State) (hn : n < 32) (h : (s.veOf n).lands = []) :
    veState n (veFault n b c a s) = 6 ∧ (veFault n b c a s).rd (VEN.FAULT n) = c ∧ (veFault n b c a s).rd (VEN.FAULT_PC n) = a % 2 ^ 32 := by
  have f := stop_facts n b 6 ((s.wr (VEN.FAULT n) c).wr (VEN.FAULT_PC n) (a % 2 ^ 32)) hn h (by simp) (by simp)
  unfold veFault
  refine ⟨?_, ?_, ?_⟩
  · unfold veState at *; rw [rd_raise]; exact f.1
  · rw [rd_raise, f.2.1, rd_wr_other _ (by simp only [VEN.FAULT, VEN.FAULT_PC]; omega)]; exact rd_wr_same _ _ _
  · rw [rd_raise, f.2.2]; exact rd_wr_same _ _ _
end Sys2Proof.Laws.CompleteVe
end

