-- ==== Sys2Proof/Laws/CompletePins.lean ====
section
/-! SUPPORT. The pins of a vector engine's cycles: facts that proofs about its words cite. -/
namespace Sys2Proof.Laws.CompletePins
open Sys2Proof.Machine Common CompleteVe

/-- Is k the key of an entry of a channel map? -/
def mapKey (k : Nat) : Bool := Nat.ble 0x8500 (k / 256) && Nat.blt (k / 256) 0x8700
theorem del_filter (k : Nat) (h : mapKey k = false) : ∀ t : Tab Nat, (Tab.del k t).filter (fun e => mapKey e.1) = t.filter (fun e => mapKey e.1)
  | [] => rfl
  | e :: t => by
    unfold Tab.del
    split
    · rename_i he; rw [List.filter_cons, he, h]; exact del_filter k h t
    · rw [List.filter_cons, List.filter_cons, del_filter k h t]
theorem ins_filter (k v : Nat) (h : mapKey k = false) : ∀ t : Tab Nat, (Tab.ins k v t).filter (fun e => mapKey e.1) = t.filter (fun e => mapKey e.1)
  | [] => by simp [Tab.ins, h]
  | e :: t => by
    unfold Tab.ins
    split
    · rw [List.filter_cons]; simp [h]
    · rw [List.filter_cons, List.filter_cons, ins_filter k v h t]
theorem set_filter {k v : Nat} (h : mapKey k = false) (t : Tab Nat) : (Tab.set Dict.dflt t k v).filter (fun e => mapKey e.1) = t.filter (fun e => mapKey e.1) := by
  unfold Tab.set
  split
  · exact del_filter k h t
  · rw [ins_filter k v h, del_filter k h]

/-- The channels, fail capture, the time and the channel maps are those of s0. -/
def PK (s0 s : State) : Prop := s.outCh = s0.outCh ∧ s.inCh = s0.inCh ∧ s.fcp = s0.fcp ∧ s.now = s0.now ∧
  s.reg.filter (fun e => mapKey e.1) = s0.reg.filter (fun e => mapKey e.1)
theorem pk_refl (s : State) : PK s s := ⟨rfl, rfl, rfl, rfl, rfl⟩
theorem PK.trans {a b c : State} (h : PK a b) (g : PK b c) : PK a c :=
  ⟨g.1.trans h.1, g.2.1.trans h.2.1, g.2.2.1.trans h.2.2.1, g.2.2.2.1.trans h.2.2.2.1, g.2.2.2.2.trans h.2.2.2.2⟩
theorem pk_wr (s : State) {k v : Nat} (h : mapKey k = false) : PK s (s.wr k v) := ⟨rfl, rfl, rfl, rfl, set_filter h _⟩
theorem pk_ite {s a b : State} {c : Prop} [Decidable c] (h : PK s a) (g : PK s b) : PK s (if c then a else b) := by split <;> assumption
theorem pk_setBit (s : State) {k b : Nat} {v : Bool} (h : mapKey k = false) : PK s (s.setBit k b v) := by
  unfold State.setBit
  repeat' split
  all_goals first | exact pk_refl s | exact pk_wr s h
theorem pk_modVe (s : State) (n : Nat) (f : VeRun → VeRun) : PK s (s.modVe n f) := ⟨rfl, rfl, rfl, rfl, rfl⟩
theorem pk_fold {α : Type} {f : State → α → State} (hf : ∀ s x, PK s (f s x)) : ∀ (l : List α) (s : State), PK s (l.foldl f s)
  | [], s => pk_refl s
  | x :: l, s => (hf s x).trans (pk_fold hf l _)
theorem pk_map {s t : State} (h : PK s t) {n : Nat} (hn : n < 32) : outMap n t = outMap n s ∧ inMap n t = inMap n s := by
  have key : ∀ (p : Nat × Nat → Bool), (∀ e, p e = true → mapKey e.1 = true) → t.reg.filter p = s.reg.filter p := by
    intro p hp
    have e : ∀ l : List (Nat × Nat), (l.filter fun e => mapKey e.1).filter p = l.filter p := by
      intro l
      rw [List.filter_filter]
      refine List.filter_congr fun x _ => ?_
      cases hx : p x
      · rfl
      · rw [hp x hx]; rfl
    rw [← e, h.2.2.2.2, e]
  unfold outMap inMap mapOf
  refine ⟨?_, ?_⟩ <;>
  · rw [key]
    intro e he
    unfold mapKey
    simp only [Nat.beq_eq] at he
    simp only [he, Bool.and_eq_true, Nat.ble_eq, Nat.blt_eq]
    omega
theorem flags_map {n : Nat} (hn : n < 32) : mapKey (VEN.FLAGS n) = false := by
  by_contra h
  simp only [mapKey, VEN.FLAGS, Bool.not_eq_false, Bool.and_eq_true, Nat.ble_eq, Nat.blt_eq] at h
  omega
theorem pk_learn {n : Nat} (hn : n < 32) (c : Cmp) (s : State) : PK s (learn n c s) := by
  unfold learn
  extract_lets s1 s2
  have h1 : PK s s1 := pk_modVe s n _
  refine pk_ite (h1.trans ?_) h1
  have h2 : PK s1 s2 := pk_setBit s1 (flags_map hn)
  refine pk_ite (h2.trans ?_) h2
  refine PK.trans ?_ (pk_setBit _ (flags_map hn))
  exact pk_ite (pk_refl _) (pk_modVe _ _ _)
theorem pk_learnUpTo {n : Nat} (hn : n < 32) (b : Nat) (s : State) : PK s (learnUpTo n b s) := by
  unfold learnUpTo
  exact (pk_fold (fun s c => pk_learn hn c s) _ _).trans (pk_modVe _ _ _)
theorem pk_closeLoop {n : Nat} (hn : n < 32) (m : Bool) (s : State) : PK s (closeLoop n m s) := by
  unfold closeLoop
  exact ((pk_modVe _ _ _).trans (pk_setBit _ (flags_map hn))).trans (pk_setBit _ (flags_map hn))
theorem pk_match {n : Nat} (hn : n < 32) (c : Nat) (s : State) : PK s (decideMatch n c s).1 := by
  unfold decideMatch
  generalize (s.veOf n).loop = o
  cases o with
  | none => exact pk_refl s
  | some l =>
    dsimp only
    generalize (List.any _ _) = p
    cases p with
    | true => rw [if_pos rfl]; exact pk_closeLoop hn false s
    | false =>
      rw [if_neg (by decide)]
      by_cases h : l.c0 + l.t ≤ c
      · rw [if_pos h]; exact pk_closeLoop hn true s
      · rw [if_neg h]; exact pk_modVe s n _
theorem pk_resolve {n : Nat} (hn : n < 32) (s : State) : PK s (resolve n s).1 := by
  unfold resolve
  split
  · exact pk_refl s
  · exact pk_refl s
  · exact pk_refl s
  · exact pk_match hn _ _
theorem pk_decide {n : Nat} (hn : n < 32) (s : State) : PK s (decideNext n s).1 := by
  unfold decideNext
  extract_lets b s1 e pc r s2 a too s3
  have h1 : PK s s1 := pk_learnUpTo hn b s
  split
  · split <;> exact h1
  · have h3 : PK s s3 := (h1.trans (pk_resolve hn s1)).trans (pk_modVe _ _ _)
    split
    · exact h3
    · split
      · exact h3
      · split
        · exact h3
        · split <;> exact h3
theorem pk_brk {n : Nat} (k v ctx cls th : Nat) (s : State) : PK s (brkMatch k n v ctx cls th s) := by
  have bk : ∀ (u j : Nat), j < 256 → mapKey ((0xF100 + u) * 256 + j) = false := by
    intro u j hj
    by_contra h
    simp only [mapKey, Bool.not_eq_false, Bool.and_eq_true, Nat.ble_eq, Nat.blt_eq] at h
    omega
  unfold brkMatch
  refine pk_ite (pk_refl s) (pk_fold (fun s u => pk_ite ?_ (pk_refl s)) _ _)
  unfold brkCount
  extract_lets cfg lk s1
  refine pk_ite (pk_refl s) ?_
  have h1 : PK s s1 := pk_wr s (v := min (s.rd (DBG.BRK_HITS u) + 1) (2 ^ 64 - 1)) (bk u 4 (by decide))
  refine pk_ite (h1.trans ?_) h1
  unfold brkFire
  extract_lets cfg2 s2
  have hf : ∀ s : State, PK s (s.flag DBG.EVFLAGS 0 496) := by
    intro s
    unfold State.flag
    have e : mapKey DBG.EVFLAGS = false := by decide
    dsimp only
    split
    · exact ⟨rfl, rfl, rfl, rfl, rfl⟩
    · split
      · exact PK.trans (b := s.note DBG.EVFLAGS 0) ⟨rfl, rfl, rfl, rfl, rfl⟩ (pk_setBit _ e)
      · refine PK.trans (b := (s.note DBG.EVFLAGS 0).setBit DBG.EVFLAGS 0 true) (PK.trans (b := s.note DBG.EVFLAGS 0) ⟨rfl, rfl, rfl, rfl, rfl⟩ (pk_setBit _ e)) ?_
        exact ⟨by simp, by simp, by simp, by simp, by simp⟩
  have h2 : PK s1 s2 := by
    show PK s1 (linkFired u ((s1.wr (DBG.BRK_STATE u) 2).flag DBG.EVFLAGS 0 496))
    refine (pk_wr s1 (v := 2) (bk u 5 (by decide))).trans ((hf _).trans ?_)
    unfold linkFired
    refine pk_fold (fun s w => ?_) _ _
    split
    · exact ⟨rfl, rfl, rfl, rfl, rfl⟩
    · exact pk_refl s
  split
  · refine pk_ite h2 (h2.trans ?_)
    unfold latchDebugHalt
    refine pk_ite ⟨rfl, rfl, rfl, rfl, rfl⟩ (pk_ite (pk_ite ⟨rfl, rfl, rfl, rfl, rfl⟩ (pk_refl _)) (pk_ite ⟨rfl, rfl, rfl, rfl, rfl⟩ (pk_refl _)))
  · exact h2.trans ⟨rfl, rfl, rfl, rfl, rfl⟩
  · exact h2
/-! What a decision leaves of the engine. -/

/-- What knowing compares and resolving transfers leave. -/
def gV (e : VeRun) := (e.cyc, e.rptLeft, e.bar, e.after, e.next, e.lastXfer, e.stack, e.lines, e.lands, e.clrf, e.fifo)
theorem modVe_g {α : Type} {g : VeRun → α} {n m : Nat} {f : VeRun → VeRun} {s : State} (h : ∀ e, g (f e) = g e) :
    g ((s.modVe n f).veOf m) = g (s.veOf m) := by
  by_cases e : m = n
  · subst e; rw [veOf_modVe, h]
  · rw [veOf_modVe_other _ e]
theorem setBit_g {α : Type} {g : VeRun → α} {m k b : Nat} {v : Bool} {s : State} : g ((s.setBit k b v).veOf m) = g (s.veOf m) := by
  rw [veOf_setBit]
theorem learn_gV (n m : Nat) (c : Cmp) (s : State) : gV ((learn n c s).veOf m) = gV (s.veOf m) := by
  unfold learn
  extract_lets s1 s2
  have h1 : gV (s1.veOf m) = gV (s.veOf m) := modVe_g (g := gV) (by intro e; rfl)
  have h2 : gV (s2.veOf m) = gV (s.veOf m) := setBit_g.trans h1
  split
  · split
    · refine setBit_g.trans ?_
      split
      · exact h2
      · exact (modVe_g (g := gV) (by intro e; rfl)).trans h2
    · exact h2
  · exact h1
theorem fold_g {α β : Type} {g : VeRun → α} {m : Nat} {f : State → β → State} (hf : ∀ s x, g ((f s x).veOf m) = g (s.veOf m)) :
    ∀ (l : List β) (s : State), g ((l.foldl f s).veOf m) = g (s.veOf m)
  | [], _ => rfl
  | x :: l, s => (fold_g hf l _).trans (hf s x)
theorem learnUpTo_gV (n m b : Nat) (s : State) : gV ((learnUpTo n b s).veOf m) = gV (s.veOf m) := by
  unfold learnUpTo
  dsimp only
  exact (modVe_g (g := gV) (by intro e; rfl)).trans (fold_g (fun s c => learn_gV n m c s) _ _)
theorem closeLoop_gV (n m : Nat) (x : Bool) (s : State) : gV ((closeLoop n x s).veOf m) = gV (s.veOf m) := by
  unfold closeLoop
  exact setBit_g.trans (setBit_g.trans (modVe_g (g := gV) (by intro e; rfl)))
theorem match_gV (n m c : Nat) (s : State) : gV (((decideMatch n c s).1).veOf m) = gV (s.veOf m) := by
  unfold decideMatch
  generalize (s.veOf n).loop = o
  cases o with
  | none => rfl
  | some l =>
    dsimp only
    generalize (List.any _ _) = p
    cases p with
    | true => rw [if_pos rfl]; exact closeLoop_gV n m false s
    | false =>
      rw [if_neg (by decide)]
      by_cases h : l.c0 + l.t ≤ c
      · rw [if_pos h]; exact closeLoop_gV n m true s
      · rw [if_neg h]
        exact modVe_g (g := gV) (n := n) (m := m) (s := s) (fun _ => rfl)
theorem resolve_gV (n m : Nat) (s : State) : gV (((resolve n s).1).veOf m) = gV (s.veOf m) := by
  unfold resolve
  split
  · rfl
  · rfl
  · rfl
  · exact match_gV n m _ s
/-- What a decision leaves. -/
def gD (e : VeRun) := (e.cyc, e.rptLeft, e.bar, e.stack, e.lines, e.lands, e.clrf, e.fifo)
theorem gD_of {a b : VeRun} (h : gV a = gV b) : gD a = gD b := by
  unfold gV at h
  unfold gD
  simp only [Prod.mk.injEq] at h ⊢
  exact ⟨h.1, h.2.1, h.2.2.1, h.2.2.2.2.2.2.1, h.2.2.2.2.2.2.2.1, h.2.2.2.2.2.2.2.2.1, h.2.2.2.2.2.2.2.2.2.1, h.2.2.2.2.2.2.2.2.2.2⟩
theorem decide_gD (n m : Nat) (s : State) : gD (((decideNext n s).1).veOf m) = gD (s.veOf m) := by
  unfold decideNext
  extract_lets b s1 e pc r s2 a too s3
  have h1 : gD (s1.veOf m) = gD (s.veOf m) := gD_of (learnUpTo_gV _ _ _ _)
  have h3 : gD (s3.veOf m) = gD (s.veOf m) := (modVe_g (g := gD) (by intro e; rfl)).trans ((gD_of (resolve_gV _ _ _)).trans h1)
  split
  · split <;> exact h1
  · split
    · exact h3
    · split
      · exact h3
      · split
        · exact h3
        · split <;> exact h3

/-- What a known compare does to the flags. -/
theorem learn_bits (n : Nat) (c : Cmp) (s : State) :
    (∀ k, (learn n c s).bit (VEN.FLAGS n) k = (s.bit (VEN.FLAGS n) k || (c.bad && !c.masked && (decide (k = 2) ||
      (decide (k = 1) && decide ((s.veOf n).clrf ≤ c.cyc)))))) ∧ (∀ k, k ≠ VEN.FLAGS n → (learn n c s).rd k = s.rd k) ∧ (learn n c s).mem = s.mem := by
  have b0 : ∀ (x : State) (b k : Nat), (x.setBit (VEN.FLAGS n) b true).bit (VEN.FLAGS n) k = (x.bit (VEN.FLAGS n) k || decide (k = b)) := by
    intro x b k
    by_cases h : k = b
    · subst h; rw [bit_setBit_eq]; simp
    · rw [bit_setBit_other _ (Ne.symm h)]; simp [h]
  unfold learn
  extract_lets s1 s2
  have r1 : ∀ k, s1.bit (VEN.FLAGS n) k = s.bit (VEN.FLAGS n) k := fun k => rfl
  have c1 : (s2.veOf n).clrf = (s.veOf n).clrf :=
    (setBit_g (g := fun e => e.clrf)).trans (modVe_g (g := fun e => e.clrf) (by intro e; rfl))
  have r2 : ∀ k, s2.bit (VEN.FLAGS n) k = (s.bit (VEN.FLAGS n) k || decide (k = 2)) := fun k => (b0 s1 2 k).trans (by rw [r1])
  have q2 : ∀ k, k ≠ VEN.FLAGS n → s2.rd k = s.rd k := fun k hk => (rd_setBit_other s1 hk _ _).trans rfl
  have m2 : s2.mem = s.mem := by show (s1.setBit _ _ _).mem = _; simp [s1]
  cases hb : (c.bad && !c.masked) with
  | false => rw [if_neg (by simp)]; exact ⟨fun k => by rw [r1]; simp, fun k _ => rfl, rfl⟩
  | true =>
    rw [if_pos rfl, c1]
    by_cases hc : (s.veOf n).clrf ≤ c.cyc
    · rw [if_pos (by rw [Nat.ble_eq]; exact hc)]
      generalize hz : (if s2.bit (VEN.FLAGS n) 1 = true then s2 else s2.modVe n fun e => { e with failOn := c.ts + 6 * ticksPerNs }) = z
      have hzr : z.reg = s2.reg ∧ z.mem = s2.mem := by subst hz; split <;> exact ⟨rfl, rfl⟩
      refine ⟨fun k => ?_, fun k hk => ?_, ?_⟩
      · rw [b0]
        have : z.bit (VEN.FLAGS n) k = s2.bit (VEN.FLAGS n) k := by unfold State.bit State.rd; rw [hzr.1]
        rw [this, r2, decide_eq_true hc, Bool.or_assoc, Bool.and_true, Bool.true_and]
      · rw [rd_setBit_other _ hk, ← q2 k hk]; unfold State.rd; rw [hzr.1]
      · rw [setBit_mem, hzr.2, m2]
    · rw [if_neg (by rw [Nat.ble_eq]; exact hc)]
      refine ⟨fun k => ?_, q2, m2⟩
      rw [r2, decide_eq_false hc, Bool.and_false, Bool.or_false, Bool.true_and]
theorem learns_bits (n : Nat) : ∀ (l : List Cmp) (s : State),
    (∀ k, (l.foldl (fun s c => learn n c s) s).bit (VEN.FLAGS n) k = (s.bit (VEN.FLAGS n) k || l.any fun c => c.bad && !c.masked && (decide (k = 2) ||
      (decide (k = 1) && decide ((s.veOf n).clrf ≤ c.cyc))))) ∧ (∀ k, k ≠ VEN.FLAGS n → (l.foldl (fun s c => learn n c s) s).rd k = s.rd k) ∧
      (l.foldl (fun s c => learn n c s) s).mem = s.mem
  | [], s => ⟨fun k => by simp, fun _ _ => rfl, rfl⟩
  | c :: l, s => by
    have h := learn_bits n c s
    have g := learns_bits n l (learn n c s)
    have e : ((learn n c s).veOf n).clrf = (s.veOf n).clrf := congrArg (·.2.2.2.2.2.2.2.2.2.1) (learn_gV n n c s)
    rw [List.foldl_cons]
    refine ⟨fun k => ?_, fun k hk => (g.2.1 k hk).trans (h.2.1 k hk), g.2.2.trans h.2.2⟩
    rw [g.1, h.1, e, List.any_cons, Bool.or_assoc]
/-- What an engine knows at its decision. -/
theorem knows_facts (n : Nat) (s : State) :
    (∀ k, (veKnows n s).bit (VEN.FLAGS n) k = (s.bit (VEN.FLAGS n) k || (s.veOf n).cmps.any fun c => c.bad && !c.masked &&
      decide (c.ts + 24 * ticksPerNs ≤ veBoundary n s) && (decide (k = 2) || (decide (k = 1) && decide ((s.veOf n).clrf ≤ c.cyc))))) ∧
    (∀ k, k ≠ VEN.FLAGS n → (veKnows n s).rd k = s.rd k) ∧ (veKnows n s).mem = s.mem ∧ gV ((veKnows n s).veOf n) = gV (s.veOf n) ∧
    (((veKnows n s).veOf n).loop = none ↔ (s.veOf n).loop = none) := by
  have g := learns_bits n (((s.upto (veBoundary n s - 18 * ticksPerNs)).veOf n).cmps.filter fun c => Nat.ble (c.ts + 24 * ticksPerNs) (veBoundary n s))
    (s.upto (veBoundary n s - 18 * ticksPerNs))
  have lp : ∀ (l : List Cmp) (x : State), ((l.foldl (fun s c => learn n c s) x).veOf n).loop.isNone = (x.veOf n).loop.isNone := by
    intro l
    induction l with
    | nil => intro x; rfl
    | cons c l ih =>
      intro x
      rw [List.foldl_cons, ih]
      unfold learn
      extract_lets s1 s2
      have h1 : (s1.veOf n).loop.isNone = (x.veOf n).loop.isNone := by
        show ((x.modVe n _).veOf n).loop.isNone = _
        rw [veOf_modVe]; exact Option.isNone_map
      have h2 : (s2.veOf n).loop.isNone = (x.veOf n).loop.isNone := (setBit_g (g := fun e => e.loop.isNone)).trans h1
      split
      · split
        · refine (setBit_g (g := fun e => e.loop.isNone)).trans ?_
          split
          · exact h2
          · exact (modVe_g (g := fun e => e.loop.isNone) (by intro e; rfl)).trans h2
        · exact h2
      · exact h1
  refine ⟨fun k => ?_, fun k hk => g.2.1 k hk, g.2.2, learnUpTo_gV _ _ _ _, ?_⟩
  · refine (g.1 k).trans ?_
    rw [List.any_filter]
    refine congrArg₂ or rfl (congrArg (List.any _) (funext fun c => ?_))
    show (Nat.ble _ _ && _) = _
    have e : Nat.ble (c.ts + 24 * ticksPerNs) (veBoundary n s) = decide (c.ts + 24 * ticksPerNs ≤ veBoundary n s) := by
      rw [Bool.eq_iff_iff, Nat.ble_eq, decide_eq_true_iff]
    rw [e]
    cases c.bad <;> cases c.masked <;> cases decide (c.ts + 24 * ticksPerNs ≤ veBoundary n s) <;> simp <;> rfl
  · rw [← Option.isNone_iff_eq_none, ← Option.isNone_iff_eq_none]
    have : (((veKnows n s).veOf n).loop.isNone) = (s.veOf n).loop.isNone := by
      unfold veKnows learnUpTo
      dsimp only
      exact (modVe_g (g := fun e => e.loop.isNone) (by intro e; rfl)).trans (lp _ _)
    rw [this]

/-! Strobes. -/

/-- Only IN channels, pins, events and members of drops differ from s0. -/
def SK (s0 s : State) : Prop := s.outCh = s0.outCh ∧ s.fcp = s0.fcp ∧ s.now = s0.now ∧ s.ve = s0.ve ∧
  s.reg.filter (fun e => mapKey e.1) = s0.reg.filter (fun e => mapKey e.1) ∧
  ∀ k, (∀ c, c < 256 → k ≠ EDG.STROBE_DROP c) → k ≠ EDG.DROP_GROUPS → s.rd k = s0.rd k
theorem sk_refl (s : State) : SK s s := ⟨rfl, rfl, rfl, rfl, rfl, fun _ _ _ => rfl⟩
theorem SK.trans {a b c : State} (h : SK a b) (g : SK b c) : SK a c :=
  ⟨g.1.trans h.1, g.2.1.trans h.2.1, g.2.2.1.trans h.2.2.1, g.2.2.2.1.trans h.2.2.2.1, g.2.2.2.2.1.trans h.2.2.2.2.1,
    fun k h1 h2 => (g.2.2.2.2.2 k h1 h2).trans (h.2.2.2.2.2 k h1 h2)⟩
theorem drop_map {c : Nat} (hc : c < 256) : mapKey (EDG.STROBE_DROP c) = false ∧ mapKey (EDG.EDGE_DROP c) = false := by
  refine ⟨?_, ?_⟩ <;>
  · by_contra h
    simp only [mapKey, EDG.STROBE_DROP, EDG.EDGE_DROP, Bool.not_eq_false, Bool.and_eq_true, Nat.ble_eq, Nat.blt_eq] at h
    omega
theorem groups_map : mapKey EDG.DROP_GROUPS = false := by decide
theorem setBit_filter (s : State) {k b : Nat} {v : Bool} (h : mapKey k = false) :
    (s.setBit k b v).reg.filter (fun e => mapKey e.1) = s.reg.filter (fun e => mapKey e.1) := (pk_setBit s h).2.2.2.2
theorem sk_settleIn {c : Nat} (hc : c < 256) (s : State) : SK s (settleIn c s) := by
  unfold settleIn
  dsimp only
  split
  · refine ⟨by simp, by simp, by simp, by simp, ?_, fun k h1 h2 => ?_⟩
    · show (State.setBit _ _ _ _).reg.filter _ = _
      rw [setBit_filter _ groups_map]; exact set_filter (drop_map hc).1 _
    · rw [rd_modIn, rd_setBit_other _ h2, rd_wr_other _ (h1 c hc)]
  · exact sk_refl s
theorem sk_mark {c : Nat} (hc : c < 256) (t : Nat) (s : State) : SK s (placeMark c t s) := by
  unfold placeMark
  split
  · exact ⟨rfl, rfl, rfl, rfl, rfl, fun _ _ _ => rfl⟩
  · unfold dropIn
    refine (sk_settleIn hc s).trans ⟨by simp, by simp, by simp, by simp, by simp, fun k _ _ => by simp⟩
theorem mark_other {c d t : Nat} (h : d ≠ c) (s : State) : (placeMark c t s).inOf d = s.inOf d := by
  unfold placeMark
  split
  · exact inOf_modIn_other _ h _
  · unfold dropIn
    have e : (settleIn c s).inOf d = s.inOf d := by
      unfold settleIn
      dsimp only
      split
      · rw [inOf_modIn_other _ h]; simp
      · rfl
    show State.inOf (State.raiseAt _ _ _) d = _
    unfold State.inOf at e ⊢
    rw [raiseAt_inCh]
    exact (inOf_modIn_other _ h _).trans e
theorem marks_facts {c : Nat} (hc : c < 256) : ∀ (ts : List Nat) (r : State × Bool),
    SK r.1 (placeMarks c ts r).1 ∧ ∀ d, d ≠ c → (placeMarks c ts r).1.inOf d = r.1.inOf d
  | [], r => ⟨sk_refl _, fun _ _ => rfl⟩
  | t :: ts, (s, l) => by
    have g := marks_facts hc ts (placeMark c t s, l || !(spaced (s.inOf c).last t))
    exact ⟨(sk_mark hc t s).trans g.1, fun d hd => (g.2 d hd).trans (mark_other hd s)⟩
theorem marks_kept (c : Nat) : ∀ (ts : List Nat) (s : State) (l : Bool), allSpaced (s.inOf c).last ts = true →
    (placeMarks c ts (s, l)).2 = l
  | [], s, l, _ => rfl
  | t :: ts, s, l, h => by
    unfold allSpaced at h
    rw [Bool.and_eq_true] at h
    show (placeMarks c ts (placeMark c t s, l || !(spaced (s.inOf c).last t))).2 = l
    rw [h.1]
    have e : placeMark c t s = s.modIn c fun ch => { ch with last := some t } := by unfold placeMark; rw [if_pos h.1]
    rw [marks_kept c ts _ _ (by rw [e, inOf_modIn]; exact h.2)]
    simp
theorem sk_leave (c p : Nat) (smp : Samples) (s : State) : SK s (leaveLevel c p smp s) := ⟨rfl, rfl, rfl, rfl, rfl, fun _ _ _ => rfl⟩
theorem strobe_facts {n t tc p c : Nat} {d : Bool} {smp : Samples} (hc : c < 256) (s : State) :
    SK s (strobeIn n t tc p c d smp s).1 ∧ (∀ e, e ≠ c → (strobeIn n t tc p c d smp s).1.inOf e = s.inOf e) ∧
    ∀ x, (strobeIn n t tc p c d smp s).2 = some x → x.p = p ∧ x.c = c := by
  unfold strobeIn
  dsimp only
  split
  · have g := marks_facts hc ((inMarks (s.rd (EDG.ITSET c t)) (actionOf n t p s)).map (tc + ·)) (s, false)
    refine ⟨g.1, g.2, ?_⟩
    intro x h
    cases h
    exact ⟨rfl, rfl⟩
  · exact ⟨sk_refl s, fun _ _ => rfl, fun x h => by cases h⟩
/-- What a state shares with s0 as position p, channel c is strobed. -/
def At (s0 s : State) (c : Nat) : Prop := SK s0 s ∧ s.inOf c = s0.inOf c
theorem all_facts {n t tc d : Nat} {smp : Samples} : ∀ (ps : List (Nat × Nat)) (s : State), (ps.map (·.2)).Nodup → (∀ e ∈ ps, e.2 < 256) →
    SK s (strobeAll n t tc d smp ps s).1 ∧
    (∀ x ∈ (strobeAll n t tc d smp ps s).2, ∃ p c s', (p, c) ∈ ps ∧ At s s' c ∧ (strobeIn n t tc p c (d.testBit p) smp s').2 = some x) ∧
    ∀ p c, (p, c) ∈ ps → ∃ s', At s s' c ∧ ∀ x, (strobeIn n t tc p c (d.testBit p) smp s').2 = some x → x ∈ (strobeAll n t tc d smp ps s).2
  | [], s, _, _ => ⟨sk_refl s, fun x h => by simp [strobeAll] at h, fun p c h => by simp at h⟩
  | (p, c) :: ps, s, hn, hb => by
    rw [List.map_cons, List.nodup_cons] at hn
    have hc : c < 256 := hb (p, c) (by simp)
    have l1 : SK s (leaveLevel c p smp s) := sk_leave c p smp s
    have l2 : ∀ e, (leaveLevel c p smp s).inOf e = s.inOf e := fun e => rfl
    have f := strobe_facts (n := n) (t := t) (tc := tc) (p := p) (d := d.testBit p) (smp := smp) hc (leaveLevel c p smp s)
    have g := all_facts (n := n) (t := t) (tc := tc) (d := d) (smp := smp) ps (strobeIn n t tc p c (d.testBit p) smp (leaveLevel c p smp s)).1
      hn.2 (fun e he => hb e (by simp [he]))
    have ne : ∀ q e, (q, e) ∈ ps → e ≠ c := fun q e he h => hn.1 (by subst h; exact List.mem_map.mpr ⟨_, he, rfl⟩)
    have up : ∀ s' e, e ≠ c → At (strobeIn n t tc p c (d.testBit p) smp (leaveLevel c p smp s)).1 s' e → At s s' e :=
      fun s' e he h => ⟨(l1.trans f.1).trans h.1, h.2.trans ((f.2.1 e he).trans (l2 e))⟩
    unfold strobeAll
    dsimp only
    refine ⟨(l1.trans f.1).trans g.1, ?_, ?_⟩
    · intro x hx
      rw [List.mem_append] at hx
      rcases hx with hx | hx
      · exact ⟨p, c, leaveLevel c p smp s, by simp, ⟨l1, l2 c⟩, by simpa using hx⟩
      · obtain ⟨q, e, s', h1, h2, h3⟩ := g.2.1 x hx
        exact ⟨q, e, s', by simp [h1], up s' e (ne q e h1) h2, h3⟩
    · intro q e he
      rw [List.mem_cons] at he
      rcases he with he | he
      · cases he
        exact ⟨leaveLevel c p smp s, ⟨l1, l2 c⟩, fun x hx => by simp [hx]⟩
      · obtain ⟨s', h1, h2⟩ := g.2.2 q e he
        exact ⟨s', up s' e (ne q e he) h1, fun x hx => by rw [List.mem_append]; exact .inr (h2 x hx)⟩
theorem sample_steady {c p t b : Nat} {smp : Samples} (s : State) (h : smp.chg = []) :
    sampleBit c p t b smp s = xor (smp.level.testBit p) (decide (s.rd (EDG.IPOL c) = 1)) := by
  have e : Nat.beq 0 1 = false := rfl
  unfold sampleBit smpNear smpLevel
  simp [h, e]
theorem xor_not (v d : Bool) : (v != d || v != !d) = true := by cases v <;> cases d <;> rfl
/-- What a compare of a steady input finds. -/
theorem strobe_val {n t tc p c : Nat} {d : Bool} {smp : Samples} {s s' : State} (hn : n < 32) (ht : t < 64) (hc : c < 256) (hs : At s s' c)
    (h : smp.chg = []) (ha : actionOf n t p s = 1 ∨ actionOf n t p s = 2)
    (hm : allSpaced (s.inOf c).last ((inMarks (s.rd (EDG.ITSET c t)) (actionOf n t p s)).map (tc + ·)) = true) :
    ∃ s0, (strobeIn n t tc p c d smp s').2 = some ⟨p, c, tc + (inMarks (s.rd (EDG.ITSET c t)) (actionOf n t p s)).getLastD 0 + deskewLate c s,
      if inMode (s.rd (EDG.ITSET c t)) = 2 then true else xor (smp.level.testBit p) (decide (s.rd (EDG.IPOL c) = 1)) != d, false, s0, true⟩ := by
  have e1 : s'.rd (VEN.ACTION n t) = s.rd (VEN.ACTION n t) := hs.1.2.2.2.2.2 _ (by intro c _; unfold VEN.ACTION EDG.STROBE_DROP; omega) (by unfold VEN.ACTION EDG.DROP_GROUPS; omega)
  have e2 : s'.rd (EDG.ITSET c t) = s.rd (EDG.ITSET c t) := hs.1.2.2.2.2.2 _ (by intro e _; unfold EDG.ITSET EDG.STROBE_DROP; omega) (by unfold EDG.ITSET EDG.DROP_GROUPS; omega)
  have e3 : s'.rd (EDG.IPOL c) = s.rd (EDG.IPOL c) := hs.1.2.2.2.2.2 _ (by intro e _; unfold EDG.IPOL EDG.STROBE_DROP; omega) (by unfold EDG.IPOL EDG.DROP_GROUPS; omega)
  have e4 : s'.rd (EDG.IDESKEW c) = s.rd (EDG.IDESKEW c) := hs.1.2.2.2.2.2 _ (by intro e _; unfold EDG.IDESKEW EDG.STROBE_DROP; omega) (by unfold EDG.IDESKEW EDG.DROP_GROUPS; omega)
  have e5 : actionOf n t p s' = actionOf n t p s := by unfold actionOf; rw [e1]
  have e6 : deskewLate c s' = deskewLate c s := by unfold deskewLate; rw [e4]
  have a5 : actionOf n t p s ≠ 5 := by rcases ha with h | h <;> rw [h] <;> decide
  have k := marks_kept c ((inMarks (s.rd (EDG.ITSET c t)) (actionOf n t p s)).map (tc + ·)) s' false (by rw [hs.2]; exact hm)
  have kb : cmpFails (s.rd (EDG.ITSET c t)) tc c p d smp s' =
      if inMode (s.rd (EDG.ITSET c t)) = 2 then true else xor (smp.level.testBit p) (decide (s.rd (EDG.IPOL c) = 1)) != d := by
    unfold cmpFails
    dsimp only
    have hw : ∀ o z, windowChange c p o z smp s' = false := by intro o z; unfold windowChange smpChanges; simp [h]
    have hl : ∀ u, smpLevel smp p u = smp.level.testBit p := by
      have e : Nat.beq 0 1 = false := rfl
      intro u; unfold smpLevel; simp [h, e]
    split
    · rename_i hi; rw [sample_steady _ h, e3, hi, if_neg (by decide)]
    · rename_i hi; rw [sample_steady _ h, sample_steady _ h, e3, hi, if_neg (by decide), Bool.or_self]
    · rename_i hi; rw [sample_steady _ h, sample_steady _ h, e3, hi, if_pos rfl, xor_not]
    · rename_i h0 h1 h2; rw [hw, hl, e3, if_neg (fun q => h2 q), Bool.or_false]
  unfold strobeIn
  dsimp only
  rw [e5, e2, if_pos (by rcases ha with h | h <;> simp [h]), k, kb, e6]
  simp only [a5, ne_eq, not_false_eq_true, decide_true, Bool.true_and, Bool.false_or]
  exact ⟨_, rfl⟩

/-! Drive edges. -/

/-- Only OUT channels, events and members of drops differ from s0. -/
def OK (s0 s : State) : Prop := s.now = s0.now ∧ s.ve = s0.ve ∧ s.fcp = s0.fcp ∧ s.inCh = s0.inCh ∧
  ∀ k, (∀ c, c < 256 → k ≠ EDG.EDGE_DROP c) → k ≠ EDG.DROP_GROUPS → s.rd k = s0.rd k
theorem ok_refl (s : State) : OK s s := ⟨rfl, rfl, rfl, rfl, fun _ _ _ => rfl⟩
theorem OK.trans {a b c : State} (h : OK a b) (g : OK b c) : OK a c :=
  ⟨g.1.trans h.1, g.2.1.trans h.2.1, g.2.2.1.trans h.2.2.1, g.2.2.2.1.trans h.2.2.2.1, fun k h1 h2 => (g.2.2.2.2 k h1 h2).trans (h.2.2.2.2 k h1 h2)⟩
theorem ok_modOut (c : Nat) (f : OutCh → OutCh) (s : State) : OK s (s.modOut c f) := ⟨rfl, rfl, rfl, rfl, fun _ _ _ => rfl⟩
theorem settleOut_facts {c : Nat} (hc : c < 256) (s : State) : OK s (settleOut c s) ∧ (∀ d, d ≠ c → (settleOut c s).outOf d = s.outOf d) ∧
    ∃ ds, (settleOut c s).outOf c = { s.outOf c with drops := ds } := by
  unfold settleOut
  dsimp only
  split
  · refine ⟨⟨by simp, by simp, by simp, by simp, fun k h1 h2 => ?_⟩, fun d hd => ?_, (s.outOf c).drops.filter fun t => Nat.blt s.now t, ?_⟩
    · show (State.setBit _ _ _ _).rd k = _
      rw [rd_setBit_other _ h2, rd_wr_other _ (h1 c hc)]
    · rw [outOf_modOut_other _ hd]; simp
    · rw [outOf_modOut]; simp only [outOf_setBit, outOf_wr]
  · exact ⟨ok_refl s, fun _ _ => rfl, (s.outOf c).drops, rfl⟩
theorem dropOut_facts {c : Nat} (hc : c < 256) (t : Nat) (s : State) : OK s (dropOut c t s) ∧ ∀ d, d ≠ c → (dropOut c t s).outOf d = s.outOf d := by
  unfold dropOut
  have g := settleOut_facts hc s
  refine ⟨g.1.trans ⟨by simp, by simp, by simp, by simp, fun k _ _ => by simp⟩, fun d hd => ?_⟩
  rw [outOf_raiseAt, outOf_modOut_other _ hd]; exact g.2.1 d hd
theorem data_facts {c : Nat} (hc : c < 256) (t : Nat) (op : Option EdgeOp) (s : State) : OK s (placeData c t op s) ∧
    ∀ d, d ≠ c → (placeData c t op s).outOf d = s.outOf d := by
  unfold placeData
  split
  · exact ⟨ok_modOut _ _ _, fun d hd => outOf_modOut_other _ hd _⟩
  · exact dropOut_facts hc t s
theorem enable_facts {c : Nat} (hc : c < 256) (t : Nat) (v : Bool) (s : State) : OK s (placeEnable c t v s) ∧
    ∀ d, d ≠ c → (placeEnable c t v s).outOf d = s.outOf d := by
  unfold placeEnable
  split
  · exact ⟨ok_modOut _ _ _, fun d hd => outOf_modOut_other _ hd _⟩
  · exact dropOut_facts hc t s
theorem datas_facts {c : Nat} (hc : c < 256) : ∀ (es : List (Nat × Option EdgeOp)) (s : State),
    OK s (es.foldl (fun s e => placeData c e.1 e.2 s) s) ∧ ∀ d, d ≠ c → (es.foldl (fun s e => placeData c e.1 e.2 s) s).outOf d = s.outOf d
  | [], s => ⟨ok_refl s, fun _ _ => rfl⟩
  | e :: es, s => by
    have g := data_facts hc e.1 e.2 s
    have h := datas_facts hc es (placeData c e.1 e.2 s)
    exact ⟨g.1.trans h.1, fun d hd => (h.2 d hd).trans (g.2 d hd)⟩
theorem datas_placed (c : Nat) : ∀ (es : List (Nat × Option EdgeOp)) (s : State), allSpaced (s.outOf c).lastData (es.map (·.1)) = true →
    ∃ ld, (es.foldl (fun s e => placeData c e.1 e.2 s) s).outOf c =
      { s.outOf c with lastData := ld, edges := (s.outOf c).edges ++ es.filterMap fun e => e.2.map fun o => (e.1, o) }
  | [], s, _ => ⟨(s.outOf c).lastData, by simp⟩
  | e :: es, s, h => by
    rw [List.map_cons, allSpaced, Bool.and_eq_true] at h
    have p : placeData c e.1 e.2 s = s.modOut c fun ch => { ch with lastData := some e.1, edges := ch.edges ++ (match e.2 with | some o => [(e.1, o)] | none => []) } := by
      unfold placeData; rewrite [if_pos h.1]; cases e.2 <;> rfl
    obtain ⟨ld, g⟩ := datas_placed c es (placeData c e.1 e.2 s) (by rw [p, outOf_modOut]; exact h.2)
    refine ⟨ld, ?_⟩
    rw [List.foldl_cons, g, p, outOf_modOut]
    cases ho : e.2 <;> simp [ho]
/-- The data edges of a cycle of action act placed. -/
def acted (act set n t tc p c : Nat) (d : Bool) (found : List Strobe) (s : State) : State :=
  match act with
  | 0 | 2 => (formatEdges set tc d).foldl (fun s e => placeData c e.1 e.2 s) s
  | 4 =>
    match reflectEdge n t tc p set found s with
    | some e => placeData c e.1 (some (.level e.2)) s
    | none => s
  | _ => s
theorem acted_drive {act set n t tc p c : Nat} {d : Bool} {found : List Strobe} {s : State} (h : act = 0 ∨ act = 2) :
    acted act set n t tc p c d found s = (formatEdges set tc d).foldl (fun s e => placeData c e.1 e.2 s) s := by
  rcases h with rfl | rfl <;> rfl
theorem acted_other {act set n t tc p c : Nat} {d : Bool} {found : List Strobe} {s : State} (h0 : act ≠ 0) (h2 : act ≠ 2) (h4 : act ≠ 4) :
    acted act set n t tc p c d found s = s := by
  unfold acted
  split <;> first | contradiction | rfl
theorem acted_facts {act set n t tc p c : Nat} {d : Bool} {found : List Strobe} (hc : c < 256) (s : State) :
    OK s (acted act set n t tc p c d found s) ∧ ∀ e, e ≠ c → (acted act set n t tc p c d found s).outOf e = s.outOf e := by
  by_cases h : act = 0 ∨ act = 2
  · rw [acted_drive h]; exact datas_facts hc _ _
  by_cases h4 : act = 4
  · subst h4
    show OK s (match reflectEdge n t tc p set found s with
        | some e => placeData c e.1 (some (.level e.2)) s
        | none => s) ∧ ∀ e, e ≠ c → (match reflectEdge n t tc p set found s with
        | some e => placeData c e.1 (some (.level e.2)) s
        | none => s : State).outOf e = s.outOf e
    split
    · exact data_facts hc _ _ _
    · exact ⟨ok_refl s, fun _ _ => rfl⟩
  · rw [acted_other (fun e => h (.inl e)) (fun e => h (.inr e)) h4]; exact ⟨ok_refl s, fun _ _ => rfl⟩
theorem drive_eq (n t tc p c : Nat) (d : Bool) (found : List Strobe) (s : State) : driveOut n t tc p c d found s =
    placeEnable c (tc + tfield (s.rd (EDG.OTSET c t)) 3) (decide (actionOf n t p s = 0 ∨ actionOf n t p s = 2 ∨ actionOf n t p s = 4))
      (acted (actionOf n t p s) (s.rd (EDG.OTSET c t)) n t tc p c d found
        ((settleOut c s).modOut c fun ch => ch.settle s.now)) := by
  unfold driveOut acted
  rfl
theorem drive_facts {n t tc p c : Nat} {d : Bool} {found : List Strobe} (hc : c < 256) (s : State) :
    OK s (driveOut n t tc p c d found s) ∧ ∀ e, e ≠ c → (driveOut n t tc p c d found s).outOf e = s.outOf e := by
  rw [drive_eq]
  have g := settleOut_facts hc s
  have g0 := ok_modOut c (fun ch => ch.settle s.now) (settleOut c s)
  have g1 := acted_facts (act := actionOf n t p s) (set := s.rd (EDG.OTSET c t)) (n := n) (t := t) (tc := tc) (p := p) (d := d) (found := found) hc
    ((settleOut c s).modOut c fun ch => ch.settle s.now)
  have g2 := enable_facts hc (tc + tfield (s.rd (EDG.OTSET c t)) 3) (decide (actionOf n t p s = 0 ∨ actionOf n t p s = 2 ∨ actionOf n t p s = 4))
    (acted (actionOf n t p s) (s.rd (EDG.OTSET c t)) n t tc p c d found ((settleOut c s).modOut c fun ch => ch.settle s.now))
  refine ⟨((g.1.trans g0).trans g1.1).trans g2.1, fun e he => ?_⟩
  rw [g2.2 e he, g1.2 e he, outOf_modOut_other _ he, g.2.1 e he]
theorem drives_facts {n t tc d : Nat} {found : List Strobe} : ∀ (ps : List (Nat × Nat)) (s : State), (ps.map (·.2)).Nodup → (∀ e ∈ ps, e.2 < 256) →
    OK s (ps.foldl (fun s e => driveOut n t tc e.1 e.2 (d.testBit e.1) found s) s) ∧
    (∀ c, c ∉ ps.map (·.2) → (ps.foldl (fun s e => driveOut n t tc e.1 e.2 (d.testBit e.1) found s) s).outOf c = s.outOf c) ∧
    ∀ p c, (p, c) ∈ ps → ∃ s', OK s s' ∧ s'.outOf c = s.outOf c ∧
      (ps.foldl (fun s e => driveOut n t tc e.1 e.2 (d.testBit e.1) found s) s).outOf c = (driveOut n t tc p c (d.testBit p) found s').outOf c
  | [], s, _, _ => ⟨ok_refl s, fun _ _ => rfl, fun p c h => by simp at h⟩
  | (p, c) :: ps, s, hn, hb => by
    rw [List.map_cons, List.nodup_cons] at hn
    have f := drive_facts (n := n) (t := t) (tc := tc) (p := p) (d := d.testBit p) (found := found) (hb (p, c) (by simp)) s
    have g := drives_facts (n := n) (t := t) (tc := tc) (d := d) (found := found) ps (driveOut n t tc p c (d.testBit p) found s) hn.2
      (fun e he => hb e (by simp [he]))
    rw [List.foldl_cons]
    refine ⟨f.1.trans g.1, fun e he => ?_, fun q e he => ?_⟩
    · rw [List.map_cons, List.mem_cons, not_or] at he
      exact (g.2.1 e he.2).trans (f.2 e he.1)
    · rw [List.mem_cons] at he
      rcases he with he | he
      · cases he
        exact ⟨s, ok_refl s, rfl, g.2.1 c hn.1⟩
      · obtain ⟨s', h1, h2, h3⟩ := g.2.2 q e he
        have ne : e ≠ c := fun h => hn.1 (by subst h; exact List.mem_map.mpr ⟨_, he, rfl⟩)
        exact ⟨s', f.1.trans h1, h2.trans (f.2 e ne), h3⟩
/-- Where an OUT position drives with its edges spaced, they are placed. -/
theorem drive_val {n t tc p c : Nat} {d : Bool} {found : List Strobe} {s s' : State} (hs : s'.now = s.now)
    (ho : s'.outOf c = s.outOf c) (hc : c < 256) (e1 : s'.rd (VEN.ACTION n t) = s.rd (VEN.ACTION n t))
    (e2 : s'.rd (EDG.OTSET c t) = s.rd (EDG.OTSET c t)) (he : spaced (s.outOf c).lastEn (tc + tfield (s.rd (EDG.OTSET c t)) 3) = true) :
    (actionOf n t p s = 0 ∨ actionOf n t p s = 2 → allSpaced (s.outOf c).lastData ((formatEdges (s.rd (EDG.OTSET c t)) tc d).map (·.1)) = true →
      ((driveOut n t tc p c d found s').outOf c).edges = ((s.outOf c).settle s.now).edges ++
        (formatEdges (s.rd (EDG.OTSET c t)) tc d).filterMap (fun e => e.2.map fun o => (e.1, o)) ++ [(tc + tfield (s.rd (EDG.OTSET c t)) 3, .drive true)]) ∧
    (actionOf n t p s ≠ 0 → actionOf n t p s ≠ 2 → actionOf n t p s ≠ 4 →
      ((driveOut n t tc p c d found s').outOf c).edges = ((s.outOf c).settle s.now).edges ++ [(tc + tfield (s.rd (EDG.OTSET c t)) 3, .drive false)]) := by
  have e5 : actionOf n t p s' = actionOf n t p s := by unfold actionOf; rw [e1]
  obtain ⟨g1, _, ds, g3⟩ := settleOut_facts hc s'
  rw [drive_eq, e5, e2]
  generalize hs1 : (settleOut c s').modOut c (fun ch => ch.settle s'.now) = s1
  have h1 : s1.outOf c = { (s.outOf c).settle s.now with drops := ds } := by
    subst hs1
    rw [outOf_modOut, g3, ho, hs]
    rfl
  refine ⟨fun ha hd => ?_, fun h0 h2 h4 => ?_⟩
  · obtain ⟨ld, g⟩ := datas_placed c (formatEdges (s.rd (EDG.OTSET c t)) tc d) s1 (by rw [h1]; exact hd)
    have hdec : decide (actionOf n t p s = 0 ∨ actionOf n t p s = 2 ∨ actionOf n t p s = 4) = true := by
      rcases ha with h | h <;> rw [h] <;> rfl
    rw [acted_drive ha, hdec]
    unfold placeEnable
    rw [if_pos (by rw [g, h1]; exact he), outOf_modOut, g, h1]
  · have hdec : decide (actionOf n t p s = 0 ∨ actionOf n t p s = 2 ∨ actionOf n t p s = 4) = false := by
      refine decide_eq_false ?_
      rintro (h | h | h)
      exacts [h0 h, h2 h, h4 h]
    rw [acted_other h0 h2 h4, hdec]
    unfold placeEnable
    rw [if_pos (by rw [h1]; exact he), outOf_modOut, h1]
/-- L and N once every edge of the channel has come: the last operations say. -/
theorem levels_end {ch : OutCh} {u : Nat} {es fs : List (Nat × EdgeOp)} (h : ch.edges = es ++ fs) (hu : ∀ e ∈ ch.edges, e.1 ≤ u) :
    ch.levels u = fs.foldl (fun ln e => e.2.app ln) (es.foldl (fun ln e => e.2.app ln) (ch.l, ch.n)) := by
  unfold OutCh.levels
  have e : (ch.edges.filter fun e => Nat.ble e.1 u) = ch.edges := by
    rw [List.filter_eq_self]; intro x hx; rw [Nat.ble_eq]; exact hu x hx
  rw [e, h, List.foldl_append]
/-! An issued cycle. -/

theorem or_fold (p : Nat) : ∀ (l : List Strobe) (f : Nat), (l.foldl (fun f x => f ||| 2 ^ x.p) f).testBit p = (f.testBit p || l.any fun x => Nat.beq x.p p)
  | [], f => by simp
  | x :: l, f => by
    rw [List.foldl_cons, or_fold p l, Nat.testBit_or, Nat.testBit_two_pow, List.any_cons, Bool.or_assoc]
    congr 2
    rw [Bool.eq_iff_iff, decide_eq_true_iff, Nat.beq_eq]
theorem tset_lt (w : Nat) : wTset w < 64 := by unfold wTset Dict.bitsOf; simp; omega
theorem stepCount_pk (n x : Nat) (s : State) : (stepCount n x s).outCh = s.outCh ∧ (stepCount n x s).fcp = s.fcp ∧
    ((stepCount n x s).veOf n).cmps = (s.veOf n).cmps := by
  unfold stepCount
  split
  · refine ⟨rfl, rfl, ?_⟩
    rw [veOf_modTgt, veOf_modVe]
  · exact ⟨rfl, rfl, rfl⟩
  · exact ⟨rfl, rfl, rfl⟩
/-- A match changes of an engine only its pending halt. -/
theorem brk_g {α : Type} {g : VeRun → α} (hg : ∀ e x, g { e with haltAt := x } = g e) (n k y v ctx cls th : Nat) (s : State) :
    g ((brkMatch k y v ctx cls th s).veOf n) = g (s.veOf n) := by
  have latch : ∀ s : State, g ((latchDebugHalt y th s).veOf n) = g (s.veOf n) := by
    intro s
    unfold latchDebugHalt
    split
    · rfl
    · split
      · dsimp only
        split
        · rw [veOf_modTgt]; exact modVe_g (g := g) (by intro e; exact hg e _)
        · rfl
      · dsimp only
        split <;> rfl
  have link : ∀ (u : Nat) (s : State), (linkFired u s).ve = s.ve := by
    intro u s
    unfold linkFired
    generalize (List.map _ _) = m
    induction m generalizing s with
    | nil => rfl
    | cons w m ih => rw [List.foldl_cons, ih]; split <;> rfl
  have fire : ∀ (u : Nat) (s : State), g ((brkFire u y th s).veOf n) = g (s.veOf n) := by
    intro u s
    unfold brkFire
    extract_lets cfg s2
    have h2 : g (s2.veOf n) = g (s.veOf n) := by
      unfold State.veOf
      rw [show s2.ve = s.ve from (link _ _).trans (by simp)]
    split
    · split
      · exact h2
      · exact (latch _).trans h2
    · exact h2
    · exact h2
  unfold brkMatch
  split
  · rfl
  · refine fold_g (g := g) (m := n) (fun s u => ?_) _ _
    split
    · unfold brkCount
      extract_lets cfg lk s1
      split
      · rfl
      · split
        · exact fire _ _
        · rfl
    · rfl
theorem brk_cyc (n k y v ctx cls th : Nat) (s : State) : ((brkMatch k y v ctx cls th s).veOf n).cyc = (s.veOf n).cyc :=
  brk_g (g := fun e => e.cyc) (fun _ _ => rfl) n k y v ctx cls th s
theorem brk_keep {k y v ctx cls th : Nat} (s : State) (j : Nat) (h1 : j ≠ DBG.EVFLAGS) (h2 : j < 0xF10000) :
    (brkMatch k y v ctx cls th s).rd j = s.rd j := by
  refine (brkMatch_fr (V := fun x => x ≠ j) (M := True) k y v ctx cls th s (fr_refl s) ?_ ?_ (Ne.symm h1)).1 j (by simp) <;>
    (intro u; show _ ≠ j; simp only [DBG.BRK_HITS, DBG.BRK_STATE]; omega)
theorem mark_ve (c t : Nat) (s : State) : (placeMark c t s).ve = s.ve := by
  unfold placeMark
  split
  · rfl
  · unfold dropIn settleIn
    dsimp only
    split <;> simp
theorem marks_ve (c : Nat) : ∀ (ts : List Nat) (r : State × Bool), (placeMarks c ts r).1.ve = r.1.ve
  | [], _ => rfl
  | t :: ts, (s, l) => (marks_ve c ts _).trans (mark_ve c t s)
theorem strobes_ve (n t tc d : Nat) (smp : Samples) : ∀ (ps : List (Nat × Nat)) (s : State), (strobeAll n t tc d smp ps s).1.ve = s.ve
  | [], _ => rfl
  | (p, c) :: ps, s => by
    refine (strobes_ve n t tc d smp ps _).trans ?_
    unfold strobeIn
    dsimp only
    split
    · exact marks_ve c _ _
    · rfl
theorem dropOut_ve (c t : Nat) (s : State) : (dropOut c t s).ve = s.ve := by
  unfold dropOut settleOut
  dsimp only
  split <;> simp
theorem data_ve (c t : Nat) (op : Option EdgeOp) (s : State) : (placeData c t op s).ve = s.ve := by
  unfold placeData
  split
  · rfl
  · exact dropOut_ve c t s
theorem fold_ve {α : Type} {f : State → α → State} (hf : ∀ s x, (f s x).ve = s.ve) : ∀ (l : List α) (s : State), (l.foldl f s).ve = s.ve
  | [], _ => rfl
  | a :: l, s => by rw [List.foldl_cons, fold_ve hf l, hf]
theorem drive_ve (n t tc p c : Nat) (d : Bool) (found : List Strobe) (s : State) : (driveOut n t tc p c d found s).ve = s.ve := by
  have h0 : ((settleOut c s).modOut c fun ch => ch.settle s.now).ve = s.ve := by
    show (settleOut c s).ve = s.ve
    unfold settleOut
    dsimp only
    split <;> simp
  have h1 : ∀ (act set : Nat) (x : State), (acted act set n t tc p c d found x).ve = x.ve := by
    intro act set x
    by_cases h : act = 0 ∨ act = 2
    · rw [acted_drive h]; exact fold_ve (fun s (e : Nat × Option EdgeOp) => data_ve c e.1 e.2 s) _ _
    by_cases h4 : act = 4
    · subst h4
      show (match reflectEdge n t tc p set found x with
        | some e => placeData c e.1 (some (.level e.2)) x
        | none => x : State).ve = x.ve
      split
      · exact data_ve _ _ _ _
      · rfl
    · rw [acted_other (fun e => h (.inl e)) (fun e => h (.inr e)) h4]
  rw [drive_eq]
  unfold placeEnable
  split
  · exact (h1 _ _ _).trans h0
  · exact (dropOut_ve _ _ _).trans ((h1 _ _ _).trans h0)
/-- A cycle that takes no APG word leaves the flags and the match loop of its engine. -/
theorem issue_loop {n b w a : Nat} {smp : Samples} {s : State} (hd : wDsrc w ≠ 1) :
    (issueCycle n b w a smp s).rd (VEN.FLAGS n) = s.rd (VEN.FLAGS n) ∧ ((issueCycle n b w a smp s).veOf n).loop = (s.veOf n).loop := by
  unfold issueCycle
  extract_lets t s1 s2 masked d r s3 rec_ s4 cyc s5 s6
  have e2 : s2 = s1 := by show (if wDsrc w = 1 then consume n b s1 else s1) = s1; rw [if_neg hd]
  have k1 : ∀ {u v : State}, (Fr (fun k => k ≠ VEN.FLAGS n) True u v) → v.rd (VEN.FLAGS n) = u.rd (VEN.FLAGS n) :=
    fun h => h.1 _ (by simp)
  have f1 : s1.rd (VEN.FLAGS n) = s.rd (VEN.FLAGS n) := k1 (by
    refine brkMatch_fr _ _ _ _ _ _ _ (brkMatch_fr _ _ _ _ _ _ s (fr_refl s) ?_ ?_ ?_) ?_ ?_ ?_ <;>
      first | (intro u h; simp only [DBG.BRK_HITS, DBG.BRK_STATE, DBG.EVFLAGS, EDG.DROP_GROUPS, EDG.STROBE_DROP, EDG.EDGE_DROP, VEN.FLAGS] at h; omega) | (intro h; simp only [DBG.BRK_HITS, DBG.BRK_STATE, DBG.EVFLAGS, EDG.DROP_GROUPS, EDG.STROBE_DROP, EDG.EDGE_DROP, VEN.FLAGS] at h; omega))
  have f2 : r.1.rd (VEN.FLAGS n) = s2.rd (VEN.FLAGS n) := k1 (by
    refine strobeAll_fr ?_ ?_ _ _ _ _ _ _ _ (fr_refl _) <;>
      first | (intro u h; simp only [DBG.BRK_HITS, DBG.BRK_STATE, DBG.EVFLAGS, EDG.DROP_GROUPS, EDG.STROBE_DROP, EDG.EDGE_DROP, VEN.FLAGS] at h; omega) | (intro h; simp only [DBG.BRK_HITS, DBG.BRK_STATE, DBG.EVFLAGS, EDG.DROP_GROUPS, EDG.STROBE_DROP, EDG.EDGE_DROP, VEN.FLAGS] at h; omega))
  have f3 : s3.rd (VEN.FLAGS n) = r.1.rd (VEN.FLAGS n) := k1 (by
    refine fr_foldl (fun s x h => driveOut_fr _ _ _ _ _ _ _ _ h ?_ ?_) (fr_refl _) <;>
      first | (intro u h; simp only [DBG.BRK_HITS, DBG.BRK_STATE, DBG.EVFLAGS, EDG.DROP_GROUPS, EDG.STROBE_DROP, EDG.EDGE_DROP, VEN.FLAGS] at h; omega) | (intro h; simp only [DBG.BRK_HITS, DBG.BRK_STATE, DBG.EVFLAGS, EDG.DROP_GROUPS, EDG.STROBE_DROP, EDG.EDGE_DROP, VEN.FLAGS] at h; omega))
  have g1 : (s1.veOf n).loop = (s.veOf n).loop := by
    refine (brk_g (g := fun e => e.loop) (fun _ _ => rfl) n 2 _ _ _ _ _ _).trans ?_
    exact brk_g (g := fun e => e.loop) (fun _ _ => rfl) n 1 _ _ _ _ _ _
  have g3 : s3.ve = s1.ve := by
    refine (fold_ve (fun s e => drive_ve _ _ _ _ _ _ _ s) _ _).trans ?_
    rw [← e2]; exact strobes_ve _ _ _ _ _ _ _
  refine ⟨?_, ?_⟩
  · rw [stepCount_rd, rd_modTgt]
    show (State.bump (State.wr s5 _ _) _ _).rd _ = _
    rw [rd_bump, if_neg (by simp only [VEN.FLAGS, VEN.CYCLES]; omega), rd_wr_other _ (by simp only [VEN.PC, VEN.FLAGS]; omega)]
    show s3.rd _ = _
    rw [f3, f2, e2, f1]
  · have h6 : ((s6.modTgt (1 + n) fun g => { g with held := false }).veOf n).loop = (s3.veOf n).loop := by
      show (s5.veOf n).loop = _
      exact (modVe_g (g := fun e => e.loop) (n := n) (m := n) (s := s4) (by intro e; rfl))
    have hst : ∀ x (y : State), ((stepCount n x y).veOf n).loop = (y.veOf n).loop := by
      intro x y
      unfold stepCount
      split
      · rw [veOf_modTgt]; exact modVe_g (g := fun e => e.loop) (by intro e; rfl)
      · rfl
      · rfl
    rw [hst, h6, ← g1]
    unfold State.veOf
    rw [g3]
/-- The pins and the record of a cycle whose data comes from the word. -/
theorem issue_pins {n b w a : Nat} {smp : Samples} {s : State} (hn : n < 32) (hd : wDsrc w = 0) (ho : ((outMap n s).map (·.2)).Nodup)
    (hi : ((inMap n s).map (·.2)).Nodup) (hp : ((inMap n s).map (·.1)).Nodup) (hb : ∀ e ∈ outMap n s ++ inMap n s, e.2 < 256) :
    (∀ p c, (p, c) ∈ outMap n s → ∃ s' found, s'.now = s.now ∧ s'.outOf c = s.outOf c ∧
      s'.rd (VEN.ACTION n (wTset w)) = s.rd (VEN.ACTION n (wTset w)) ∧ s'.rd (EDG.OTSET c (wTset w)) = s.rd (EDG.OTSET c (wTset w)) ∧
      (issueCycle n b w a smp s).outOf c = (driveOut n (wTset w) b p c ((wData w).testBit p) found s').outOf c) ∧
    ∃ r, ((issueCycle n b w a smp s).fcpOf n).cycles = (s.fcpOf n).cycles ++ [r] ∧ r.cyc = (s.veOf n).cyc ∧ r.pc = a ∧ r.addr = a ∧ r.tset = wTset w ∧
      r.site = s.rd (VEN.SITE_TAG n) ∧ r.mode = s.rd (FCP.MODE n) ∧
      (smp.chg = [] → ∀ p c, (p, c) ∈ inMap n s → actionOf n (wTset w) p s = 1 ∨ actionOf n (wTset w) p s = 2 →
        let set := s.rd (EDG.ITSET c (wTset w))
        let bad := if inMode set = 2 then true else xor (smp.level.testBit p) (decide (s.rd (EDG.IPOL c) = 1)) != (wData w).testBit p
        allSpaced (s.inOf c).last ((inMarks set (actionOf n (wTset w) p s)).map (b + ·)) = true →
        ⟨b + (inMarks set (actionOf n (wTset w) p s)).getLastD 0 + deskewLate c s, (s.veOf n).cyc, bad, wMaskf w⟩ ∈
            ((issueCycle n b w a smp s).veOf n).cmps ∧
          r.fv.testBit p = (bad && !(wMaskf w))) := by
  have ht := tset_lt w
  unfold issueCycle
  extract_lets t s1 s2 masked d r s3 rec_ s4 cyc s5 s6
  have k1 : PK s s1 := (pk_brk _ _ _ _ _ _).trans (pk_brk _ _ _ _ _ _)
  have c1 : (s1.veOf n).cyc = (s.veOf n).cyc := by
    show ((brkMatch 2 _ _ _ _ _ _).veOf n).cyc = _
    rw [brk_cyc, brk_cyc]
  have r1 : ∀ j, j < 0xF10000 → s1.rd j = s.rd j := by
    intro j hj
    have e : j ≠ DBG.EVFLAGS := by unfold DBG.EVFLAGS; omega
    show (brkMatch 2 _ _ _ _ _ _).rd j = _
    rw [brk_keep _ j e hj, brk_keep _ j e hj]
  have e2 : s2 = s1 := by show (if wDsrc w = 1 then consume n b s1 else s1) = s1; rw [if_neg (by rw [hd]; decide)]
  have em : masked = wMaskf w := by
    show (wMaskf w || (wDsrc w == 1 && (s2.veOf n).lastW.testBit 126)) = _
    rw [hd]; exact Bool.or_false _
  have ed : d = wData w := by show pinData n w s2 = _; unfold pinData; rw [hd]; rfl
  have m1 := pk_map k1 hn
  have hr : r = strobeAll n t b d smp (inMap n s) s1 := by show strobeAll n t b d smp (inMap n s2) s2 = _; rw [e2, m1.2]
  have ga := all_facts (n := n) (t := t) (tc := b) (d := d) (smp := smp) (inMap n s) s1 hi (fun e he => hb e (by simp [he]))
  rw [← hr] at ga
  have e3 : s3 = (outMap n s).foldl (fun s e => driveOut n t b e.1 e.2 (d.testBit e.1) r.2 s) r.1 := by
    show (outMap n s2).foldl _ r.1 = _; rw [e2, m1.1]
  have gd := drives_facts (n := n) (t := t) (tc := b) (d := d) (found := r.2) (outMap n s) r.1 ho (fun e he => hb e (by simp [he]))
  rw [← e3] at gd
  have ro : r.1.outCh = s.outCh := ga.1.1.trans k1.1
  have rn : r.1.now = s.now := ga.1.2.2.1.trans k1.2.2.2.1
  have rv : r.1.ve = s1.ve := ga.1.2.2.2.1
  have rr : ∀ j, j < 0xF10000 → (∀ c, c < 256 → j ≠ EDG.STROBE_DROP c) → j ≠ EDG.DROP_GROUPS → r.1.rd j = s.rd j :=
    fun j h1 h2 h3 => (ga.1.2.2.2.2.2 j h2 h3).trans (r1 j h1)
  have hfin := stepCount_pk n (veBoundary n s6) (s6.modTgt (1 + n) fun g => { g with held := false })
  have so : ∀ c, (stepCount n (veBoundary n s6) (s6.modTgt (1 + n) fun g => { g with held := false })).outOf c = s3.outOf c := by
    intro c; unfold State.outOf; rw [hfin.1]; rfl
  have r3 : ∀ j, j < 0xF10000 → (∀ c, c < 256 → j ≠ EDG.STROBE_DROP c) → (∀ c, c < 256 → j ≠ EDG.EDGE_DROP c) → j ≠ EDG.DROP_GROUPS →
      s3.rd j = s.rd j := fun j h1 h2 h3 h4 => (gd.1.2.2.2.2 j h3 h4).trans (rr j h1 h2 h4)
  have ve3 : s3.ve = s1.ve := gd.1.2.1.trans rv
  have cyc3 : (s3.veOf n).cyc = (s.veOf n).cyc := by rw [← c1]; unfold State.veOf; rw [ve3]
  refine ⟨fun p c hpc => ?_, rec_, ?_, cyc3, rfl, ?_, rfl, ?_, ?_, fun hg p c hpc ha => ?_⟩
  · obtain ⟨s', h1, h2, h3⟩ := gd.2.2 p c hpc
    have hc : c < 256 := hb (p, c) (by simp [hpc])
    refine ⟨s', r.2, h1.1.trans rn, ?_, ?_, ?_, ?_⟩
    · rw [h2]; unfold State.outOf; rw [ro]
    · exact (h1.2.2.2.2 _ (by intro c _; unfold VEN.ACTION EDG.EDGE_DROP; omega) (by unfold VEN.ACTION EDG.DROP_GROUPS; omega)).trans
        (rr _ (by unfold VEN.ACTION; omega) (by intro c _; unfold VEN.ACTION EDG.STROBE_DROP; omega) (by unfold VEN.ACTION EDG.DROP_GROUPS; omega))
    · exact (h1.2.2.2.2 _ (by intro e _; unfold EDG.OTSET EDG.EDGE_DROP; omega) (by unfold EDG.OTSET EDG.DROP_GROUPS; omega)).trans
        (rr _ (by unfold EDG.OTSET; omega) (by intro e _; unfold EDG.OTSET EDG.STROBE_DROP; omega) (by unfold EDG.OTSET EDG.DROP_GROUPS; omega))
    · rw [so, h3, ed]
  · have ef : (stepCount n (veBoundary n s6) (s6.modTgt (1 + n) fun g => { g with held := false })).fcpOf n = s4.fcpOf n := by
      unfold State.fcpOf; rw [hfin.2.1]; rfl
    rw [ef]
    show ((s3.modFcp n _).fcpOf n).cycles = _
    rw [fcpOf_modFcp]
    have : s3.fcpOf n = s.fcpOf n := by unfold State.fcpOf; rw [gd.1.2.2.1, ga.1.2.1, k1.2.2.1]
    rw [this]
  · show (if wDsrc w = 1 then _ else a) = a
    rw [if_neg (by rw [hd]; decide)]
  · exact r3 _ (by unfold VEN.SITE_TAG; omega) (by intro c _; unfold VEN.SITE_TAG EDG.STROBE_DROP; omega)
      (by intro c _; unfold VEN.SITE_TAG EDG.EDGE_DROP; omega) (by unfold VEN.SITE_TAG EDG.DROP_GROUPS; omega)
  · exact r3 _ (by unfold FCP.MODE; omega) (by intro c _; unfold FCP.MODE EDG.STROBE_DROP; omega)
      (by intro c _; unfold FCP.MODE EDG.EDGE_DROP; omega) (by unfold FCP.MODE EDG.DROP_GROUPS; omega)
  · intro set bad hm
    have hc : c < 256 := hb (p, c) (by simp [hpc])
    obtain ⟨s', h1, h2⟩ := ga.2.2 p c hpc
    have tr : At s s' c → True := fun _ => trivial
    have e1 : s1.rd (VEN.ACTION n t) = s.rd (VEN.ACTION n t) := r1 _ (by unfold VEN.ACTION; omega)
    have e2' : s1.rd (EDG.ITSET c t) = s.rd (EDG.ITSET c t) := r1 _ (by unfold EDG.ITSET; omega)
    have e3' : s1.rd (EDG.IPOL c) = s.rd (EDG.IPOL c) := r1 _ (by unfold EDG.IPOL; omega)
    have e4 : s1.rd (EDG.IDESKEW c) = s.rd (EDG.IDESKEW c) := r1 _ (by unfold EDG.IDESKEW; omega)
    have e5 : ∀ p, actionOf n t p s1 = actionOf n t p s := by intro p; unfold actionOf; rw [e1]
    have e6 : deskewLate c s1 = deskewLate c s := by unfold deskewLate; rw [e4]
    have e7 : s1.inOf c = s.inOf c := by unfold State.inOf; rw [k1.2.1]
    obtain ⟨q, hv⟩ := strobe_val (n := n) (t := t) (tc := b) (p := p) (d := d.testBit p) hn ht hc h1 hg (by rw [e5]; exact ha) (by rw [e7, e2', e5]; exact hm)
    have hx := h2 _ hv
    rw [e2', e5, e6, e3', ed] at hx
    refine ⟨?_, ?_⟩
    · rw [hfin.2.2, veOf_modTgt]
      have e5v : (s5.veOf n).cmps = (s4.veOf n).cmps ++ (r.2.filter fun x => x.compare).map fun x => (⟨x.ts, cyc, x.bad, masked⟩ : Cmp) := by
        show ((State.modVe s4 n _).veOf n).cmps = _
        rw [veOf_modVe]
      show _ ∈ (s5.veOf n).cmps
      rw [e5v]
      refine List.mem_append.mpr (.inr (List.mem_map.mpr ⟨_, List.mem_filter.mpr ⟨hx, rfl⟩, ?_⟩))
      rw [em]
      show (⟨_, cyc, _, _⟩ : Cmp) = ⟨_, (s.veOf n).cyc, _, _⟩
      rw [show cyc = (s.veOf n).cyc from cyc3]
    · show ((if masked then [] else (r.2.filter fun x : Strobe => x.compare).filter fun x : Strobe => x.bad).foldl (fun f x => f ||| 2 ^ (Strobe.p x)) 0).testBit p = _
      rw [or_fold, em]
      cases hmk : wMaskf w with
      | true => simp
      | false =>
        simp only [Nat.zero_testBit, Bool.false_or, Bool.not_false, Bool.and_true]
        rw [if_neg (by simp)]
        cases hbad : bad with
        | true =>
          rw [List.any_eq_true]
          refine ⟨_, List.mem_filter.mpr ⟨List.mem_filter.mpr ⟨hx, rfl⟩, ?_⟩, ?_⟩
          · exact hbad
          · simp
        | false =>
          rw [List.any_eq_false]
          intro x hxm
          rw [List.mem_filter, List.mem_filter] at hxm
          intro hpx
          rw [Nat.beq_eq] at hpx
          obtain ⟨p', c', s'', hm1, hm2, hm3⟩ := ga.2.1 x hxm.1.1
          have hc' : c' < 256 := hb (p', c') (by simp [hm1])
          have hpc' := (strobe_facts (n := n) (t := t) (tc := b) (p := p') (d := d.testBit p') (smp := smp) hc' s'').2.2 x hm3
          have hpp : p' = p := hpc'.1.symm.trans hpx
          subst hpp
          have hcc : c' = c := by
            have := List.inj_on_of_nodup_map hp hm1 hpc rfl
            exact congrArg (·.2) this
          subst hcc
          obtain ⟨q', hv'⟩ := strobe_val (n := n) (t := t) (tc := b) (p := p') (d := d.testBit p') hn ht hc hm2 hg (by rw [e5]; exact ha) (by rw [e7, e2', e5]; exact hm)
          rw [hm3, e2', e3', ed] at hv'
          cases hv'
          have : bad = true := hxm.2
          rw [hbad] at this; cases this
end Sys2Proof.Laws.CompletePins
end

