-- ==== Sys2Proof/Laws/CompleteChoose.lean ====
section
/-! SUPPORT. The decision of a vector engine: the word or the fault that decideNext answers in a state with nothing else due
(03 R85 to R99), and the cycle of the VEC word it decides. -/
namespace Sys2Proof.Laws.CompleteChoose
open Sys2Proof Sys2Proof.Machine Sys2Proof.Laws Sys2Proof.Laws.Common Sys2Proof.Laws.CompleteVe Sys2Proof.Laws.CompletePins
theorem fetch_same {n a : Nat} {s t : State} (h : ∀ k, k ≠ VEN.FLAGS n → t.rd k = s.rd k) (hm : t.mem = s.mem)
    (hl : (t.veOf n).lines = (s.veOf n).lines) : fetchWord n a t = fetchWord n a s := by
  unfold fetchWord bufLine
  rw [h _ (by unfold VEN.BUF_MODE VEN.FLAGS; omega), h DMC.INSTALLED (by unfold DMC.INSTALLED VEN.FLAGS; omega), h _ (by unfold VEN.PROG_BASE VEN.FLAGS; omega), hm, hl]


theorem rd_flag_modVe (n : Nat) (f : VeRun → VeRun) (s : State) (k : Nat) : (s.modVe n f).rd k = s.rd k := rd_modVe _ _ _ _

/-- What the resolution of the last word's transfer answers, and what it leaves. -/
structure Res (n : Nat) (s r : State) (o : Option Nat) : Prop where
  eq : resolve n (veKnows n s) = (r, o)
  rd : ∀ k, k ≠ VEN.FLAGS n → r.rd k = s.rd k
  mem : r.mem = s.mem
  g : gV (r.veOf n) = gV (s.veOf n)

theorem res_of (n : Nat) (s : State) : Res n s (resolve n (veKnows n s)).1 (resolve n (veKnows n s)).2 := by
  have k := knows_facts n s
  have hr : ∀ k', k' ≠ VEN.FLAGS n → (resolve n (veKnows n s)).1.rd k' = (veKnows n s).rd k' ∧ (resolve n (veKnows n s)).1.mem = (veKnows n s).mem := by
    intro j hj
    generalize veKnows n s = u
    unfold resolve
    split
    · exact ⟨rfl, rfl⟩
    · exact ⟨rfl, rfl⟩
    · exact ⟨rfl, rfl⟩
    · unfold decideMatch
      split
      · exact ⟨rfl, rfl⟩
      · dsimp only
        split
        · unfold closeLoop; refine ⟨?_, ?_⟩
          · rw [rd_setBit_other _ hj, rd_setBit_other _ hj, rd_modVe]
          · simp
        · split
          · unfold closeLoop; refine ⟨?_, ?_⟩
            · rw [rd_setBit_other _ hj, rd_setBit_other _ hj, rd_modVe]
            · simp
          · exact ⟨rd_modVe _ _ _ _, rfl⟩
  exact ⟨rfl, fun j hj => (hr j hj).1.trans (k.2.1 j hj), (hr 0 (by unfold VEN.FLAGS; omega)).2.trans k.2.2.1,
    (resolve_gV _ _ _).trans k.2.2.2.1⟩

/-- The state in which the word at the decided address a is fetched, after the transfer o. -/
def goTo (n b : Nat) (r : State) (o : Option Nat) (a : Nat) : State :=
  r.modVe n fun v => { v with next := a, after := .seq, lastXfer := if o.isSome then some b else v.lastXfer }

theorem choose_eq {n : Nat} {s r : State} {o : Option Nat} (h : VeChooses n s) (hr : Res n s r o) :
    decideNext n (s.upto (veBoundary n s - 18 * ticksPerNs)) =
      (let a := o.getD (s.veOf n).next
       let z := goTo n (veBoundary n s) r o a
       if (o.isSome && (match (s.veOf n).lastXfer with | some x => Nat.blt (veBoundary n s) (x + ticksPerNs) | none => false)) = true then (z, .fault 5 a)
       else match fetchWord n a s with
        | .error c => (z, .fault c a)
        | .ok w => match wordFault n w z with
          | some c => (z, .fault c a)
          | none => match apgNeed n (veBoundary n s) w z with
            | some none => (z, .fault 8 a)
            | _ => (z, .word w a true)) := by
  obtain ⟨_, _, _, _, h5, h6⟩ := h
  have k := (knows_facts n s).2.2.2.1
  have e1 : ((veKnows n s).veOf n).rptLeft = (s.veOf n).rptLeft := congrArg (fun g => g.2.1) k
  have e2 : ((veKnows n s).veOf n).bar = (s.veOf n).bar := congrArg (fun g => g.2.2.1) k
  have e3 : ((veKnows n s).veOf n).next = (s.veOf n).next := congrArg (fun g => g.2.2.2.2.1) k
  have e4 : ((veKnows n s).veOf n).lastXfer = (s.veOf n).lastXfer := congrArg (fun g => g.2.2.2.2.2.1) k
  unfold decideNext
  dsimp only
  have b : veBoundary n (s.upto (veBoundary n s - 18 * ticksPerNs)) = veBoundary n s := rfl
  rw [b]
  rw [show learnUpTo n (veBoundary n s) (s.upto (veBoundary n s - 18 * ticksPerNs)) = veKnows n s from rfl]
  rw [if_neg (by rw [e1, e2, h5, h6]; simp), hr.eq, e4, e3]
  dsimp only
  have l : ∀ a, fetchWord n a (goTo n (veBoundary n s) r o a) = fetchWord n a s := fun a =>
    fetch_same (fun k hk => (rd_modVe _ _ _ _).trans (hr.rd k hk)) hr.mem
      ((modVe_g (g := fun e => e.lines) (by intro e; rfl)).trans (congrArg (fun g => g.2.2.2.2.2.2.2.1) hr.g))
  have l' := l (o.getD (s.veOf n).next)
  unfold goTo at l' ⊢
  rewrite [← l']
  generalize (r.modVe n _) = z
  refine ite_congr rfl (fun _ => rfl) fun _ => ?_
  generalize fetchWord n _ z = f
  cases f with
  | error c => rfl
  | ok w =>
    first
    | (dsimp only; done)
    | (dsimp only
       generalize wordFault n w z = g
       cases g with
       | some c => rfl
       | none => first | (dsimp only; done) | (dsimp only; generalize apgNeed n _ w z = q; rcases q with _ | _ | _ <;> rfl))

theorem vec_goes {n w a : Nat} {smp : Samples} {s r : State} {o : Option Nat} (h : VeChooses n s) (hr : Res n s r o)
    (ha : o.getD (s.veOf n).next = a) (hf : o.isSome = true → ∀ x, (s.veOf n).lastXfer = some x → x + ticksPerNs ≤ veBoundary n s)
    (hw : VecAt n a w s) :
    Gives (.vec n smp) s fun t => VeIssued n a s t ∧ t.rd (VEN.FLAGS n) = r.rd (VEN.FLAGS n) ∧ (t.veOf n).loop = (r.veOf n).loop := by
  have c := choose_eq h hr
  dsimp only at c
  rw [ha, hw.1] at c
  have sp : (o.isSome && (match (s.veOf n).lastXfer with | some x => Nat.blt (veBoundary n s) (x + ticksPerNs) | none => false)) = false := by
    cases ho : o.isSome with
    | false => rfl
    | true =>
      cases hx : (s.veOf n).lastXfer with
      | none => rfl
      | some x => have := hf ho x hx; simp only [Bool.true_and]; rw [← Bool.not_eq_true, Nat.blt_eq]; omega
  rw [sp] at c
  simp only [Bool.false_eq_true, if_false] at c
  have wf : wordFault n w (goTo n (veBoundary n s) r o a) = none := by
    unfold wordFault; rw [hw.2.1, hw.2.2.1]; simp
  have an : apgNeed n (veBoundary n s) w (goTo n (veBoundary n s) r o a) = none := by unfold apgNeed; rw [if_neg hw.2.2.2]
  rw [wf, an] at c
  dsimp only at c
  have hdec : VeDecides n w a true s := ⟨h.1, h.2.1, h.2.2.1, _, c⟩
  obtain ⟨y, hy, hi, _⟩ := word_facts (smp := smp) hdec 0 hw.2.2.1
  have hy' := hy (fun _ _ _ _ s => s)
  refine ⟨y, ?_, hi, ?_⟩
  · show execVec n smp s = _
    unfold execVec
    exact hy'
  unfold wordCommand at hy'
  rw [unitNext h.1] at hy'
  dsimp only at hy'
  rw [if_neg (by simp [h.2.1, h.2.2.1]), c] at hy'
  dsimp only at hy'
  rw [if_neg (by simp [hw.2.2.1])] at hy'
  rw [if_neg (show ¬((0:Nat) = 8 ∧ (true:Bool) = true) from by decide)] at hy'
  rw [if_pos rfl] at hy'
  have il := issue_loop (n := n) (b := veBoundary n s) (w := w) (a := a) (smp := smp) (s := markUsed n a ((goTo n (veBoundary n s) r o a).veOf n).cyc (goTo n (veBoundary n s) r o a)) hw.2.2.2
  have hy' := Host.Outcome.next.inj hy'
  rw [← hy']
  refine ⟨?_, ?_⟩
  · rw [rd_modVe, il.1]; rfl
  · refine (modVe_g (g := fun e => e.loop) (by intro e; rfl)).trans (il.2.trans ?_)
    exact (modVe_g (g := fun e => e.loop) (by intro e; rfl)).trans (modVe_g (g := fun e => e.loop) (by intro e; rfl))
end Sys2Proof.Laws.CompleteChoose
end

