-- ==== Sys2Proof/Laws/KeepsCrh.lean ====
section
/-! SUPPORT. State.crh: what the operations it lists leave unchanged. -/
namespace Sys2Proof.Laws
open Sys2Proof.Machine
section
variable {s0 : State}
def KeepsCrh (s0 s : State) : Prop := s.crh = s0.crh
theorem keepsCrh_ite {c : Prop} [Decidable c] {x y : State} (hx : KeepsCrh s0 x) (hy : KeepsCrh s0 y) : KeepsCrh s0 (if c then x else y) := by split <;> assumption
theorem keepsCrh_foldl {β : Type} {f : State → β → State} (hf : ∀ s x, KeepsCrh s0 s → KeepsCrh s0 (f s x)) :
    ∀ {l : List β} {s : State}, KeepsCrh s0 s → KeepsCrh s0 (l.foldl f s)
  | [], _, h => h
  | x :: l, s, h => keepsCrh_foldl (l := l) hf (hf s x h)
theorem keepsCrh_cut {s : State} {p : Prop} (h : KeepsCrh s0 s) (f : KeepsCrh s0 s → p) : p := f h
theorem wr_keepsCrh (k v : Nat) (s : State) (h : KeepsCrh s0 s) : KeepsCrh s0 (s.wr k v) := h
theorem keepsCrh_mk_iff {s : State} {x_now : Nat} {x_reg : Tab Nat} {x_mem : List Host.Cell} {x_evq : List (Nat × Nat)} {x_freeCtr : Nat} {x_pending : List Instr} {x_hdi : HdiS} {x_clk : ClockS} {x_sched : List Sched} {x_ve : Tab VeRun} {x_outCh : Tab OutCh} {x_inCh : Tab InCh} {x_fcp : Tab FcpS} {x_sq : Tab SqS} {x_brk : Tab BrkS} {x_tgt : Tab TgtS} {x_groupAt : List (Nat × Nat)} {x_dsp : Tab DspRun} {x_focus : FocusS} {x_trim : TrimS} {x_reqs : List MeshReq} {x_resps : List MeshResp} {x_held : List PortReq} {x_steal : List PortReq} {x_labels : List (MeshReq × Nat)} {x_drain : Option Drain} {x_trace : List Nat} {x_dmc : Tab DmcS} {x_autoTrain : Bool} {x_cfg : CfgS} {x_fresh : List (Nat × Nat × Nat)} {x_cleared : List (Nat × Nat × Nat)} {x_sup : SupS} {x_dbg : DbgS} {x_tmu : TmuS} {x_lanes : Tab LaneS} {x_cells : Tab (Option CellS)} {x_cellCfg : Tab CellCfg} {x_sels : Tab Nat} {x_tracks : Tab Nat} {x_upsets : List Upset} {x_facets : Tab FacetS} {x_fev : List (Nat × Nat)} {x_panes : Tab PaneS} {x_banks : Tab BankS} {x_pins : PinsS} :
    KeepsCrh s0 ⟨x_now, x_reg, x_mem, x_evq, x_freeCtr, x_pending, x_hdi, x_clk, x_sched, x_ve, x_outCh, x_inCh, x_fcp, x_sq, x_brk, x_tgt, x_groupAt, x_dsp, x_focus, x_trim, x_reqs, x_resps, x_held, x_steal, x_labels, x_drain, x_trace, x_dmc, x_autoTrain, s.crh, x_cfg, x_fresh, x_cleared, x_sup, x_dbg, x_tmu, x_lanes, x_cells, x_cellCfg, x_sels, x_tracks, x_upsets, x_facets, x_fev, x_panes, x_banks, x_pins⟩ ↔ KeepsCrh s0 s := Iff.rfl
theorem addTo_keepsCrh (s : State) (w k d : Nat) (hs : KeepsCrh s0 s) :
    KeepsCrh s0 (State.addTo s w k d) := by
  unfold State.addTo
  repeat' first
    | with_reducible intro _
    | with_reducible assumption
    | with_reducible apply wr_keepsCrh

theorem raiseAt_keepsCrh (s : State) (t e : Nat) (hs : KeepsCrh s0 s) :
    KeepsCrh s0 (State.raiseAt s t e) := by
  unfold State.raiseAt
  repeat' first
    | with_reducible intro _
    | with_reducible assumption
    | simp only [↓keepsCrh_mk_iff]
    | with_reducible apply keepsCrh_ite
    | (extract_lets x; first | (with_reducible refine keepsCrh_cut (s := x) ?_ ?_; (on_goal 2 => clear_value x); (on_goal 1 => unfold x)) | (subst x))
    | split

theorem raise_keepsCrh (s : State) (e : Nat) (hs : KeepsCrh s0 s) :
    KeepsCrh s0 (State.raise s e) := by
  unfold State.raise
  repeat' first
    | with_reducible intro _
    | with_reducible assumption
    | with_reducible apply raiseAt_keepsCrh
    | simp only [↓keepsCrh_mk_iff]
    | with_reducible apply keepsCrh_ite
    | (extract_lets x; first | (with_reducible refine keepsCrh_cut (s := x) ?_ ?_; (on_goal 2 => clear_value x); (on_goal 1 => unfold x)) | (subst x))
    | split

theorem setBit_keepsCrh (s : State) (k b : Nat) (v : Bool) (hs : KeepsCrh s0 s) :
    KeepsCrh s0 (State.setBit s k b v) := by
  unfold State.setBit
  repeat' first
    | with_reducible intro _
    | with_reducible assumption
    | with_reducible apply wr_keepsCrh
    | with_reducible apply keepsCrh_ite
    | split

theorem note_keepsCrh (s : State) (k b : Nat) (hs : KeepsCrh s0 s) :
    KeepsCrh s0 (State.note s k b) := by
  unfold State.note
  repeat' first
    | with_reducible intro _
    | with_reducible assumption
    | simp only [↓keepsCrh_mk_iff]
    | with_reducible apply keepsCrh_ite
    | (extract_lets x; first | (with_reducible refine keepsCrh_cut (s := x) ?_ ?_; (on_goal 2 => clear_value x); (on_goal 1 => unfold x)) | (subst x))
    | split

theorem flag_keepsCrh (s : State) (k b e : Nat) (hs : KeepsCrh s0 s) :
    KeepsCrh s0 (State.flag s k b e) := by
  unfold State.flag
  repeat' first
    | with_reducible intro _
    | with_reducible assumption
    | with_reducible apply note_keepsCrh
    | with_reducible apply setBit_keepsCrh
    | with_reducible apply raise_keepsCrh
    | simp only [↓keepsCrh_mk_iff]
    | with_reducible apply keepsCrh_ite
    | (extract_lets x; first | (with_reducible refine keepsCrh_cut (s := x) ?_ ?_; (on_goal 2 => clear_value x); (on_goal 1 => unfold x)) | (subst x))
    | split

theorem modPane_keepsCrh (s : State) (p : Nat) (g : PaneS → PaneS) (hs : KeepsCrh s0 s) :
    KeepsCrh s0 (State.modPane s p g) := by
  unfold State.modPane
  repeat' first
    | with_reducible intro _
    | with_reducible assumption
    | simp only [↓keepsCrh_mk_iff]

theorem modBank_keepsCrh (s : State) (b : Nat) (g : BankS → BankS) (hs : KeepsCrh s0 s) :
    KeepsCrh s0 (State.modBank s b g) := by
  unfold State.modBank
  repeat' first
    | with_reducible intro _
    | with_reducible assumption
    | simp only [↓keepsCrh_mk_iff]
    | with_reducible apply keepsCrh_ite
    | (extract_lets x; first | (with_reducible refine keepsCrh_cut (s := x) ?_ ?_; (on_goal 2 => clear_value x); (on_goal 1 => unfold x)) | (subst x))
    | split

theorem panFlag_keepsCrh (p b : Nat) (s : State) (hs : KeepsCrh s0 s) :
    KeepsCrh s0 (panFlag p b s) := by
  unfold panFlag
  repeat' first
    | with_reducible intro _
    | with_reducible assumption
    | with_reducible apply flag_keepsCrh
    | with_reducible apply keepsCrh_ite
    | split

theorem discardQueue_keepsCrh (p : Nat) (s : State) (hs : KeepsCrh s0 s) :
    KeepsCrh s0 (discardQueue p s) := by
  unfold discardQueue
  repeat' first
    | with_reducible intro _
    | with_reducible assumption
    | with_reducible apply panFlag_keepsCrh
    | with_reducible apply addTo_keepsCrh
    | with_reducible apply modPane_keepsCrh
    | simp only [↓keepsCrh_mk_iff]
    | with_reducible apply keepsCrh_ite
    | (extract_lets x; first | (with_reducible refine keepsCrh_cut (s := x) ?_ ?_; (on_goal 2 => clear_value x); (on_goal 1 => unfold x)) | (subst x))
    | split
end

theorem resetTaps_keepsCrh (p : Nat) (s : State) (hs : KeepsCrh s0 s) :
    KeepsCrh s0 (resetTaps p s) := by
  unfold resetTaps
  repeat' first
    | with_reducible intro _
    | with_reducible assumption
    | with_reducible apply modPane_keepsCrh
    | simp only [↓keepsCrh_mk_iff]

set_option Elab.async false in
theorem domainUnits_keepsCrh (d pan scr : Nat) (s : State) (hs : KeepsCrh s0 s) :
    KeepsCrh s0 (domainUnits d pan scr s) := by
  unfold domainUnits
  repeat' first
    | with_reducible intro _
    | with_reducible assumption
    | with_reducible apply resetTaps_keepsCrh
    | with_reducible apply modBank_keepsCrh
    | with_reducible apply modPane_keepsCrh
    | with_reducible apply wr_keepsCrh
    | simp only [↓keepsCrh_mk_iff]
    | with_reducible apply keepsCrh_foldl
    | with_reducible apply keepsCrh_ite
    | (extract_lets x; first | (with_reducible refine keepsCrh_cut (s := x) ?_ ?_; (on_goal 2 => clear_value x); (on_goal 1 => unfold x)) | (subst x))
    | split

end Sys2Proof.Laws
end

