-- ==== Sys2Proof/Laws/KeepsMem.lean ====
section
/-! SUPPORT. State.mem: what the operations it lists leave unchanged. -/
namespace Sys2Proof.Laws
open Sys2Proof.Machine
section
variable {s0 : State}
def KeepsMem (s0 s : State) : Prop := s.mem = s0.mem
theorem keepsMem_ite {c : Prop} [Decidable c] {x y : State} (hx : KeepsMem s0 x) (hy : KeepsMem s0 y) : KeepsMem s0 (if c then x else y) := by split <;> assumption
theorem keepsMem_foldl {β : Type} {f : State → β → State} (hf : ∀ s x, KeepsMem s0 s → KeepsMem s0 (f s x)) :
    ∀ {l : List β} {s : State}, KeepsMem s0 s → KeepsMem s0 (l.foldl f s)
  | [], _, h => h
  | x :: l, s, h => keepsMem_foldl (l := l) hf (hf s x h)
theorem keepsMem_cut {s : State} {p : Prop} (h : KeepsMem s0 s) (f : KeepsMem s0 s → p) : p := f h
theorem wr_keepsMem (k v : Nat) (s : State) (h : KeepsMem s0 s) : KeepsMem s0 (s.wr k v) := h
theorem keepsMem_mk_iff {s : State} {x_now : Nat} {x_reg : Tab Nat} {x_evq : List (Nat × Nat)} {x_freeCtr : Nat} {x_pending : List Instr} {x_hdi : HdiS} {x_clk : ClockS} {x_sched : List Sched} {x_ve : Tab VeRun} {x_outCh : Tab OutCh} {x_inCh : Tab InCh} {x_fcp : Tab FcpS} {x_sq : Tab SqS} {x_brk : Tab BrkS} {x_tgt : Tab TgtS} {x_groupAt : List (Nat × Nat)} {x_dsp : Tab DspRun} {x_focus : FocusS} {x_trim : TrimS} {x_reqs : List MeshReq} {x_resps : List MeshResp} {x_held : List PortReq} {x_steal : List PortReq} {x_labels : List (MeshReq × Nat)} {x_drain : Option Drain} {x_trace : List Nat} {x_dmc : Tab DmcS} {x_autoTrain : Bool} {x_crh : CrhS} {x_cfg : CfgS} {x_fresh : List (Nat × Nat × Nat)} {x_cleared : List (Nat × Nat × Nat)} {x_sup : SupS} {x_dbg : DbgS} {x_tmu : TmuS} {x_lanes : Tab LaneS} {x_cells : Tab (Option CellS)} {x_cellCfg : Tab CellCfg} {x_sels : Tab Nat} {x_tracks : Tab Nat} {x_upsets : List Upset} {x_facets : Tab FacetS} {x_fev : List (Nat × Nat)} {x_panes : Tab PaneS} {x_banks : Tab BankS} {x_pins : PinsS} :
    KeepsMem s0 ⟨x_now, x_reg, s.mem, x_evq, x_freeCtr, x_pending, x_hdi, x_clk, x_sched, x_ve, x_outCh, x_inCh, x_fcp, x_sq, x_brk, x_tgt, x_groupAt, x_dsp, x_focus, x_trim, x_reqs, x_resps, x_held, x_steal, x_labels, x_drain, x_trace, x_dmc, x_autoTrain, x_crh, x_cfg, x_fresh, x_cleared, x_sup, x_dbg, x_tmu, x_lanes, x_cells, x_cellCfg, x_sels, x_tracks, x_upsets, x_facets, x_fev, x_panes, x_banks, x_pins⟩ ↔ KeepsMem s0 s := Iff.rfl
theorem modPane_keepsMem (s : State) (p : Nat) (g : PaneS → PaneS) (hs : KeepsMem s0 s) :
    KeepsMem s0 (State.modPane s p g) := by
  unfold State.modPane
  repeat' first
    | with_reducible intro _
    | with_reducible assumption
    | simp only [↓keepsMem_mk_iff]

theorem modBank_keepsMem (s : State) (b : Nat) (g : BankS → BankS) (hs : KeepsMem s0 s) :
    KeepsMem s0 (State.modBank s b g) := by
  unfold State.modBank
  repeat' first
    | with_reducible intro _
    | with_reducible assumption
    | simp only [↓keepsMem_mk_iff]
    | with_reducible apply keepsMem_ite
    | (extract_lets x; first | (with_reducible refine keepsMem_cut (s := x) ?_ ?_; (on_goal 2 => clear_value x); (on_goal 1 => unfold x)) | (subst x))
    | split

theorem resetTaps_keepsMem (p : Nat) (s : State) (hs : KeepsMem s0 s) :
    KeepsMem s0 (resetTaps p s) := by
  unfold resetTaps
  repeat' first
    | with_reducible intro _
    | with_reducible assumption
    | with_reducible apply modPane_keepsMem
    | simp only [↓keepsMem_mk_iff]

set_option Elab.async false in
theorem domainUnits_keepsMem (d pan scr : Nat) (s : State) (hs : KeepsMem s0 s) :
    KeepsMem s0 (domainUnits d pan scr s) := by
  unfold domainUnits
  repeat' first
    | with_reducible intro _
    | with_reducible assumption
    | with_reducible apply resetTaps_keepsMem
    | with_reducible apply modBank_keepsMem
    | with_reducible apply modPane_keepsMem
    | with_reducible apply wr_keepsMem
    | simp only [↓keepsMem_mk_iff]
    | with_reducible apply keepsMem_foldl
    | with_reducible apply keepsMem_ite
    | (extract_lets x; first | (with_reducible refine keepsMem_cut (s := x) ?_ ?_; (on_goal 2 => clear_value x); (on_goal 1 => unfold x)) | (subst x))
    | split

end
end Sys2Proof.Laws
end

