-- ==== Sys2Proof/Laws/CompleteCrh.lean ====
section
/-! SUPPORT. Clocks, gates and resets: facts that proofs about their commands cite. -/
set_option linter.unreachableTactic false
set_option linter.unusedSimpArgs false
set_option linter.unusedTactic false
set_option linter.unusedVariables false
namespace Sys2Proof.Laws.CompleteCrh
open Sys2Proof.Machine Common
namespace ClockFacts
theorem pin_bit (b n : Nat) (r : Bool) : (if r = true then b ||| 2 ^ n else b - (if b.testBit n then 2 ^ n else 0)).testBit n = r := by
  cases r
  · simp only [Bool.false_eq_true, if_false]
    by_cases h : b.testBit n = true
    · rw [if_pos h, sub_bit _ _ _ h, h]; simp
    · rw [if_neg h, Nat.sub_zero]; simpa using h
  · simp
def R (s t : State) : Prop := ∃ r, t = { s with reg := r }
theorem R_refl (s : State) : R s s := ⟨s.reg, rfl⟩
theorem R_trans {a b c : State} (h : R a b) (g : R b c) : R a c := by obtain ⟨r, rfl⟩ := h; obtain ⟨r', rfl⟩ := g; exact ⟨r', rfl⟩
theorem R_wr (s : State) (k v : Nat) : R s (s.wr k v) := ⟨_, rfl⟩
theorem R_bump (s : State) (w k : Nat) : R s (s.bump w k) := ⟨_, rfl⟩
theorem R_setBit (s : State) (k b : Nat) (v : Bool) : R s (s.setBit k b v) := by
  unfold State.setBit; split <;> first | exact R_refl _ | (split <;> first | exact R_refl _ | exact R_wr _ _ _) | exact R_wr _ _ _
theorem R_fold {α : Type} {f : State → α → State} (hf : ∀ s x, R s (f s x)) : ∀ (l : List α) (s : State), R s (l.foldl f s)
  | [], s => R_refl s
  | a :: l, s => R_trans (hf s a) (R_fold hf l _)
theorem R_graded (s : State) : R s (graded s) := by
  unfold graded
  refine R_trans ?_ (R_fold ?_ _ _)
  · split
    · exact R_trans (R_wr _ _ _) (R_wr _ _ _)
    · exact R_refl _
  · intro s x; split
    · exact R_trans (R_wr _ _ _) (R_wr _ _ _)
    · exact R_refl _
theorem graded_rd {k : Nat} {s : State} (h1 : k ≠ CRH.TWARN) (h2 : k ≠ CRH.TTRIP) (h3 : k < 0x270100 ∨ 0x270300 ≤ k) : (graded s).rd k = s.rd k := by
  unfold graded
  have e : ∀ (l : List Nat) (u : State), (∀ b ∈ l, b < 10) → (l.foldl (fun s b => if s.bit (FAB.IO_BANK b) 0 then (s.wr (CRH.VLOW (6 + b)) 3135).wr (CRH.VHIGH (6 + b)) 3465 else s) u).rd k = u.rd k := by
    intro l; induction l with
    | nil => intro u _; rfl
    | cons a l ih =>
      intro u hl; rw [List.foldl_cons, ih _ (fun b hb => hl b (List.mem_cons_of_mem _ hb))]
      have := hl a (by simp)
      split
      · rw [rd_wr_other _ (by (simp only [CRH.RESET_CAUSE, CRH.RESET_COUNT, CRH.STRAPS, CRH.CLK_STATUS, CRH.MPLL_LOSSES, CRH.GATE_EN, CRH.GATE_STATE, CRH.GATE_TOUCH, CRH.GATED_TOUCHES, CRH.PWR, CRH.PWR_STATE, CRH.CLKOUT_CFG, CRH.FM_STATE, CRH.FM_COUNT, CRH.FM_HZ, CRH.TEMP, CRH.TEMP_MAX, CRH.TWARN, CRH.TTRIP, CRH.VOLT, CRH.VLOW, CRH.VHIGH, CRH.EVFLAGS, CFG.POLICY, CFG.TAMPER_CAUSE, CFG.TAMPER_COUNT, CFG.KEY_STATUS, DBG.POLICY, DBG.STATUS, DBG.EVFLAGS, HDI.STATUS, EDG.GROUP, FAB.IO_BANK, SCR.STATE, PAN.STATE, MSH.EVFLAGS, MSH.WAKES, PAN.EVFLAGS, PAN.PERR, PAN.DISCARD, SCR.CE, SCR.UE, SCR.EVFLAGS, SCR.TEST_TOUCH, ne_eq]; omega)), rd_wr_other _ (by (simp only [CRH.RESET_CAUSE, CRH.RESET_COUNT, CRH.STRAPS, CRH.CLK_STATUS, CRH.MPLL_LOSSES, CRH.GATE_EN, CRH.GATE_STATE, CRH.GATE_TOUCH, CRH.GATED_TOUCHES, CRH.PWR, CRH.PWR_STATE, CRH.CLKOUT_CFG, CRH.FM_STATE, CRH.FM_COUNT, CRH.FM_HZ, CRH.TEMP, CRH.TEMP_MAX, CRH.TWARN, CRH.TTRIP, CRH.VOLT, CRH.VLOW, CRH.VHIGH, CRH.EVFLAGS, CFG.POLICY, CFG.TAMPER_CAUSE, CFG.TAMPER_COUNT, CFG.KEY_STATUS, DBG.POLICY, DBG.STATUS, DBG.EVFLAGS, HDI.STATUS, EDG.GROUP, FAB.IO_BANK, SCR.STATE, PAN.STATE, MSH.EVFLAGS, MSH.WAKES, PAN.EVFLAGS, PAN.PERR, PAN.DISCARD, SCR.CE, SCR.UE, SCR.EVFLAGS, SCR.TEST_TOUCH, ne_eq]; omega))]
      · rfl
  rw [e _ _ (fun b hb => List.mem_range.1 hb)]
  split
  · rw [rd_wr_other _ h2, rd_wr_other _ h1]
  · rfl
theorem get_reset {k : Nat} (hk : keptKey k = true) : ∀ r : Tab Nat, Tab.get Dict.dflt (resetReg r) k = Tab.get Dict.dflt r k
  | [] => rfl
  | e :: t => by
    have ih := get_reset hk t
    unfold resetReg at ih ⊢
    rw [List.filterMap_cons]
    by_cases he : e.1 = k
    · rw [he, hk]
      simp only [if_true, Tab.get, he]
    · have : Tab.get Dict.dflt (e :: t) k = Tab.get Dict.dflt t k := by simp [Tab.get, he]
      rw [this, ← ih]
      by_cases h1 : keptKey e.1 = true
      · rw [if_pos h1]; simp [Tab.get, he]
      · rw [if_neg h1]
        by_cases h2 : (repairKey e.1 && e.2 % 256 != 0) = true
        · rw [if_pos h2]; simp [Tab.get, he]
        · rw [if_neg h2]
def clr (s : State) : State :=
    { now := s.now, reg := resetReg s.reg, freeCtr := s.freeCtr, pending := s.pending, pins := s.pins,
      dmc := s.dmc.map fun e => (e.1, { dimms := e.2.dimms }),
      crh := { grade := s.crh.grade, rstFrom := s.crh.rstFrom, rstAt := s.crh.rstAt, inReset := s.crh.inReset,
               pinLow := s.crh.pinLow, hot := s.crh.hot, low := s.crh.low, groupT := s.crh.groupT },
      cfg := { flash := s.cfg.flash, bbKey := s.cfg.bbKey, fuseKey := s.cfg.fuseKey, zeroised := s.cfg.zeroised },
      dbg := { insn := s.dbg.insn, bound := s.dbg.bound, upd := s.dbg.upd, dr := s.dbg.dr, key2 := s.dbg.key2, key3 := s.dbg.key3, test := s.dbg.test },
      trim := { slots := match s.trim.job with
                  | some (0, slot, _) => Tab.set (fun _ => 0) s.trim.slots slot 0
                  | _ => s.trim.slots } }
theorem R_clear (s : State) : R (clr s) (clearPart s) := by
  unfold clearPart
  dsimp only
  refine R_trans ?_ (R_graded _)
  refine R_trans ?_ (R_setBit _ _ _ _)
  refine R_trans ?_ (R_setBit _ _ _ _)
  refine R_trans ?_ (R_setBit _ _ _ _)
  refine R_trans ?_ (R_setBit _ _ _ _)
  refine R_trans ?_ (R_setBit _ _ _ _)
  refine R_trans ?_ (R_setBit _ _ _ _)
  exact R_trans (R_refl _) (R_setBit _ _ _ _)
theorem clear_rd {k : Nat} {s : State} (hk : keptKey k = true) (h1 : k ≠ CRH.TWARN) (h2 : k ≠ CRH.TTRIP) (h3 : k < 0x270100 ∨ 0x270300 ≤ k) (h4 : k ≠ CRH.CLK_STATUS) (h5 : k ≠ HDI.STATUS) (h6 : k ≠ DBG.STATUS) (h7 : k ≠ CFG.KEY_STATUS) : (clearPart s).rd k = s.rd k := by
  unfold clearPart
  dsimp only
  rw [graded_rd h1 h2 h3, rd_setBit_other _ h7, rd_setBit_other _ h7, rd_setBit_other _ h6, rd_setBit_other _ h6, rd_setBit_other _ h5, rd_setBit_other _ h4, rd_setBit_other _ h4]
  exact get_reset hk _
theorem get_reset0 {k : Nat} (hk : keptKey k = false) (hr : repairKey k = false) : ∀ r : Tab Nat, Tab.get Dict.dflt (resetReg r) k = Dict.dflt k
  | [] => rfl
  | e :: t => by
    have ih := get_reset0 hk hr t
    unfold resetReg at ih ⊢
    rw [List.filterMap_cons]
    by_cases h1 : keptKey e.1 = true
    · rw [if_pos h1]
      have : e.1 ≠ k := by rintro rfl; rw [hk] at h1; cases h1
      simp only [Tab.get, this, if_false]; exact ih
    · rw [if_neg h1]
      by_cases h2 : (repairKey e.1 && e.2 % 256 != 0) = true
      · rw [if_pos h2]
        have : e.1 ≠ k := by rintro rfl; rw [hr] at h2; cases h2
        simp only [Tab.get, this, if_false]; exact ih
      · rw [if_neg h2]; exact ih
theorem clear_locked (s : State) : mpllLocked (clearPart s) = false := by
  unfold clearPart mpllLocked
  dsimp only
  rw [bit_of_rd (graded_rd (by decide) (by decide) (by decide)), bit_of_rd (rd_setBit_other _ (by decide) _ _), bit_of_rd (rd_setBit_other _ (by decide) _ _),
    bit_of_rd (rd_setBit_other _ (by decide) _ _), bit_of_rd (rd_setBit_other _ (by decide) _ _), bit_setBit_other _ (by decide), bit_of_rd (rd_setBit_other _ (by decide) _ _), bit_of_rd (rd_setBit_other _ (by decide) _ _)]
  have : (clr s).rd HDI.STATUS = Dict.dflt HDI.STATUS := get_reset0 (by decide) (by decide) _
  show (clr s).bit HDI.STATUS 1 = false
  unfold State.bit; rw [this]; decide
def CF (s t : State) : Prop := t.mem = [] ∧ t.ve = [] ∧ t.lanes = [] ∧ t.reqs = [] ∧ t.crh.inReset = s.crh.inReset ∧ t.crh.pinLow = s.crh.pinLow ∧ t.crh.hot = s.crh.hot ∧ t.crh.grade = s.crh.grade
theorem CF_R {s a b : State} (h : CF s a) (g : R a b) : CF s b := by obtain ⟨r, rfl⟩ := g; exact h
theorem CF_clear (s : State) : CF s (clearPart s) := CF_R (a := clr s) ⟨rfl, rfl, rfl, rfl, rfl, rfl, rfl, rfl⟩ (R_clear s)
theorem R_locked {a b : State} (g : b.rd HDI.STATUS = a.rd HDI.STATUS) : mpllLocked b = mpllLocked a := bit_of_rd g
theorem gone_refin (s : State) : refinOk (refinGone s) = false := bit_setBit_eq _ _ _ _
theorem gone_rd {k : Nat} {s : State} (h1 : k ≠ CRH.CLK_STATUS) (h2 : k ≠ HDI.STATUS) : (refinGone s).rd k = s.rd k := by
  unfold refinGone; rw [rd_setBit_other _ h2, rd_setBit_other _ h1]
theorem gone_R (s : State) : R s (refinGone s) := R_trans (R_setBit _ _ _ _) (R_setBit _ _ _ _)
theorem gone_locked {s : State} : mpllLocked (refinGone s) = mpllLocked s := by
  unfold refinGone mpllLocked; rw [bit_setBit_other _ (by decide), bit_of_rd (rd_setBit_other _ (by decide) _ _)]
theorem straps_rd {v k : Nat} {s : State} (h1 : k ≠ CRH.STRAPS) (h2 : k ≠ CRH.CLK_STATUS) : (sampleStraps v s).rd k = s.rd k := by
  unfold sampleStraps; rw [rd_setBit_other _ h2, rd_wr_other _ h1]
theorem cause_facts (b : Nat) (s : State) (hb : b < 9) : (noteCause b s).bit CRH.RESET_CAUSE b = true ∧ (noteCause b s).rd CRH.RESET_COUNT = s.rd CRH.RESET_COUNT ∧
    (∀ k ∈ [CRH.STRAPS, CRH.TEMP_MAX, CFG.POLICY, CFG.TAMPER_CAUSE, CFG.TAMPER_COUNT, DBG.POLICY], (noteCause b s).rd k = s.rd k) ∧
    (b = 3 → (noteCause b s).rd CRH.MPLL_LOSSES = min (s.rd CRH.MPLL_LOSSES + 1) (2 ^ 32 - 1)) ∧ R s (noteCause b s) := by
  unfold noteCause
  dsimp only
  have e : ∀ k, k ≠ CRH.MPLL_LOSSES → k ≠ CRH.RESET_CAUSE → (if b = 3 then (s.setBit CRH.RESET_CAUSE b true).bump 32 CRH.MPLL_LOSSES else s.setBit CRH.RESET_CAUSE b true).rd k = s.rd k := by
    intro k h1 h2; split
    · rw [bump_ne h1, rd_setBit_other _ h2]
    · rw [rd_setBit_other _ h2]
  refine ⟨?_, e _ (by decide) (by decide), fun k hk => ?_, fun h => ?_, ?_⟩
  · split
    · rw [bit_of_rd (bump_ne (by decide))]; exact bit_setBit_eq _ _ _ _
    · exact bit_setBit_eq _ _ _ _
  · simp only [List.mem_cons, List.not_mem_nil, or_false] at hk
    rcases hk with rfl | rfl | rfl | rfl | rfl | rfl <;> exact e _ (by decide) (by decide)
  · rw [if_pos h, bump_eq, rd_setBit_other _ (by decide)]
  · split
    · exact R_trans (R_setBit _ _ _ _) (R_bump _ _ _)
    · exact R_setBit _ _ _ _
abbrev Part := PartReset
theorem part_facts {s : State} {b : Nat} (hb : b < 9) (h1 : s.crh.inReset = false) (h2 : s.crh.rstFrom + ticksPerUs < s.now) : Part s b (partReset b s) ∧
    (b = 3 → (partReset b s).rd CRH.MPLL_LOSSES = min (s.rd CRH.MPLL_LOSSES + 1) (2 ^ 32 - 1)) := by
  unfold partReset
  rw [if_neg (by unfold resetLasts; rw [h1, Bool.false_and]; rintro (h | h); cases h; omega)]
  have c := cause_facts b s hb
  generalize hu : modCrh (fun c => { c with rstFrom := s.now, rstAt := s.now + 10 * ticksPerUs, inReset := true }) ((noteCause b s).bump 32 CRH.RESET_COUNT) = u
  have ur : ∀ k, u.rd k = ((noteCause b s).bump 32 CRH.RESET_COUNT).rd k := by intro k; subst hu; rfl
  have ui : u.crh.inReset = true := by subst hu; rfl
  have f := CF_clear u
  have kr : ∀ k ∈ [CRH.RESET_CAUSE, CRH.RESET_COUNT, CRH.MPLL_LOSSES, CRH.STRAPS, CRH.TEMP_MAX, CFG.POLICY, CFG.TAMPER_CAUSE, CFG.TAMPER_COUNT, DBG.POLICY], (clearPart u).rd k = u.rd k := by
    intro k hk; simp only [List.mem_cons, List.not_mem_nil, or_false] at hk
    rcases hk with rfl | rfl | rfl | rfl | rfl | rfl | rfl | rfl | rfl <;> exact clear_rd (by decide) (by decide) (by decide) (by decide) (by decide) (by decide) (by decide) (by decide)
  refine ⟨⟨?_, ?_, f.2.2.2.2.1.trans ui, clear_locked u, f.1, f.2.1, f.2.2.1, f.2.2.2.1, fun k hk => ?_⟩, fun h => ?_⟩
  · rw [bit_of_rd (kr _ (by simp)), bit_of_rd (ur _), bit_of_rd (bump_ne (by decide))]; exact c.1
  · rw [kr _ (by simp), ur, bump_eq, c.2.1]
  · have hk' : k ∈ [CRH.RESET_CAUSE, CRH.RESET_COUNT, CRH.MPLL_LOSSES, CRH.STRAPS, CRH.TEMP_MAX, CFG.POLICY, CFG.TAMPER_CAUSE, CFG.TAMPER_COUNT, DBG.POLICY] :=
      List.mem_cons_of_mem _ (List.mem_cons_of_mem _ (List.mem_cons_of_mem _ hk))
    rw [kr _ hk', ur, ← c.2.2.1 _ hk]
    refine bump_ne ?_
    simp only [List.mem_cons, List.not_mem_nil, or_false] at hk
    rcases hk with rfl | rfl | rfl | rfl | rfl | rfl <;> decide
  · rw [kr _ (by simp), ur, bump_ne (by decide), c.2.2.2.1 h]
theorem Part_like {s s' : State} {b : Nat} {t : State} (h : Part s' b t) (h1 : ∀ k, k ≠ HDI.STATS 0 → s'.rd k = s.rd k) : Part s b t := by
  refine ⟨h.1, ?_, h.2.2.1, h.2.2.2.1, h.2.2.2.2.1, h.2.2.2.2.2.1, h.2.2.2.2.2.2.1, h.2.2.2.2.2.2.2.1, fun k hk => ?_⟩
  · rw [h.2.1, h1 _ (by decide)]
  · rw [h.2.2.2.2.2.2.2.2 _ hk]; apply h1
    simp only [List.mem_cons, List.not_mem_nil, or_false] at hk
    rcases hk with rfl | rfl | rfl | rfl | rfl | rfl <;> decide
theorem cold_facts (b : Nat) (s : State) : (coldReset b s).rd CRH.RESET_CAUSE = 2 ^ b ∧ (coldReset b s).rd CRH.RESET_COUNT = 0 ∧ (coldReset b s).rd CRH.MPLL_LOSSES = 0 ∧
    (coldReset b s).crh.inReset = true ∧ (coldReset b s).mem = [] ∧ (coldReset b s).ve = [] ∧ mpllLocked (coldReset b s) = false := by
  unfold coldReset
  dsimp only
  have f := CF_clear (modCrh (fun c => { c with rstFrom := s.now, rstAt := s.now, inReset := true, low := 0 }) s)
  have l := clear_locked (modCrh (fun c => { c with rstFrom := s.now, rstAt := s.now, inReset := true, low := 0 }) s)
  generalize clearPart (modCrh (fun c => { c with rstFrom := s.now, rstAt := s.now, inReset := true, low := 0 }) s) = u at f l
  refine ⟨?_, ?_, ?_, f.2.2.2.2.1, f.1, f.2.1, ?_⟩
  · rw [rd_wr_other _ (by decide), rd_wr_other _ (by decide), rd_wr_same]
  · rw [rd_wr_other _ (by decide), rd_wr_same]
  · rw [rd_wr_same]
  · rw [R_locked (a := u)]; exact l
    rw [rd_wr_other _ (by decide), rd_wr_other _ (by decide), rd_wr_other _ (by decide)]
end ClockFacts
open ClockFacts
namespace ClockFacts
theorem crhFlag_rd {b k : Nat} {s : State} (h : k ≠ CRH.EVFLAGS) : (crhFlag b s).rd k = s.rd k := by unfold crhFlag; exact rd_flag_other _ h _ _
theorem crhFlag_crh (b : Nat) (s : State) : (crhFlag b s).crh = s.crh := by unfold crhFlag; exact flag_crh _ _ _ _
theorem crhFlag_now (b : Nat) (s : State) : (crhFlag b s).now = s.now := by unfold crhFlag; exact flag_now _ _ _ _
theorem follow_rd {k o n j : Nat} {s : State} (h : j ≠ k) : (followLevel k o n s).rd j = s.rd j := by unfold followLevel; split; exact rd_wr_other _ h _; rfl
theorem follow_pins (k o n : Nat) (s : State) : (followLevel k o n s).pins = s.pins := by unfold followLevel; split <;> rfl
set_option Elab.async false in
theorem pull_set (p b v : Nat) (hv : v < 4) : (p - p / 4 ^ b % 4 * 4 ^ b + v * 4 ^ b) / 4 ^ b % 4 = v := by
  have hp : 0 < 4 ^ b := Nat.pos_of_ne_zero (by positivity)
  have h1 := Nat.div_add_mod p (4 ^ b)
  generalize hq : p / 4 ^ b = q at h1 ⊢
  generalize hr : p % 4 ^ b = r at h1
  have hr' : r < 4 ^ b := by rw [← hr]; exact Nat.mod_lt _ hp
  have h2 := Nat.div_add_mod q 4
  have e : p - q % 4 * 4 ^ b + v * 4 ^ b = (4 * (q / 4) + v) * 4 ^ b + r := by
    have : p = (4 * (q / 4) + q % 4) * 4 ^ b + r := by rw [h2]; linarith
    have h3 : (4 * (q / 4) + q % 4) * 4 ^ b = 4 * (q / 4) * 4 ^ b + q % 4 * 4 ^ b := by ring
    have h4 : (4 * (q / 4) + v) * 4 ^ b = 4 * (q / 4) * 4 ^ b + v * 4 ^ b := by ring
    omega
  rw [e, Nat.mul_comm _ (4 ^ b), Nat.mul_add_div hp, Nat.div_eq_of_lt hr']
  omega
end ClockFacts
end Sys2Proof.Laws.CompleteCrh
end

