-- ==== Sys2Proof/Laws/CompleteDbg.lean ====
section
/-! SUPPORT. Debug: facts that proofs about their commands cite. -/
namespace Sys2Proof.Laws.CompleteDbg
open Sys2Proof.Machine Common CompleteCrh.ClockFacts
namespace DebugFacts
theorem firstOf_any {cs : List (Bool × Nat)} (h : firstOf cs = 0) {k : Nat} (hk : k ∈ [1, 2, 3, 0xC, 4, 0xA, 5, 7, 6, 8, 0xB, 9]) : (cs.any fun p => p.1 && Nat.beq p.2 k) = false := by
  by_contra hne
  have ht : (cs.any fun p => p.1 && Nat.beq p.2 k) = true := by simpa using hne
  obtain ⟨c, hc, hp⟩ := List.any_eq_true.1 ht
  have h2 : c.1 = true ∧ Nat.beq c.2 k = true := by simpa using hp
  have e : c.2 = k := Nat.eq_of_beq_eq_true h2.2
  have := firstOf_eq_zero h c hc (by rw [e]; exact hk)
  rw [this] at h2; cases h2.1
theorem firstOf_nine {a b : List (Bool × Nat)} (ha : firstOf a = 0) (hb : ∀ c ∈ b, c.1 = true → c.2 = 9) (hx : ∃ c ∈ b, c.1 = true) : firstOf (a ++ b) = 9 := by
  have hany : ∀ k ∈ [1, 2, 3, 0xC, 4, 0xA, 5, 7, 6, 8, 0xB], ((a ++ b).any fun p => p.1 && Nat.beq p.2 k) = false := by
    intro k hk
    rw [List.any_append, firstOf_any ha (by revert k; decide), Bool.false_or, List.any_eq_false]
    intro c hc hp
    have h2 : c.1 = true ∧ Nat.beq c.2 k = true := by simpa using hp
    have e := Nat.eq_of_beq_eq_true h2.2
    rw [hb c hc h2.1] at e
    subst e; revert hk; decide
  have h9 : ((a ++ b).any fun p => p.1 && Nat.beq p.2 9) = true := by
    obtain ⟨c, hc, ht⟩ := hx
    rw [List.any_append, Bool.or_eq_true]
    right
    rw [List.any_eq_true]
    exact ⟨c, hc, by rw [ht, hb c hc ht]; rfl⟩
  unfold firstOf
  simp only [List.find?, hany 1 (by decide), hany 2 (by decide), hany 3 (by decide), hany 0xC (by decide), hany 4 (by decide), hany 0xA (by decide), hany 5 (by decide), hany 7 (by decide), hany 6 (by decide), hany 8 (by decide), hany 0xB (by decide), h9]
  rfl
theorem mo {a b : State} (h : a.hdi = b.hdi) {m : Nat} : a.masterOf m = b.masterOf m := by unfold State.masterOf; rw [h]
theorem dbg_rd {b k : Nat} {s : State} (h : k ≠ DBG.EVFLAGS) : (dbgFlag b s).rd k = s.rd k := rd_flag_other _ h _ _
theorem lk {u t : State} (h : Like u t) (m : Nat) : (t.masterOf m).level = (u.masterOf m).level ∧ (t.masterOf m).chal = (u.masterOf m).chal ∧ (t.masterOf m).flow = (u.masterOf m).flow ∧ (t.masterOf m).chalAt = (u.masterOf m).chalAt ∧ (t.masterOf m).brkLast = (u.masterOf m).brkLast := by
  obtain ⟨r, hr⟩ := h.master m
  rw [hr]; exact ⟨rfl, rfl, rfl, rfl, rfl⟩
theorem chal_facts (m l : Nat) (s : State) : ((challengeFor m l s).masterOf m).chal.isSome = true ∧ ((challengeFor m l s).masterOf m).flow = l ∧ ((challengeFor m l s).masterOf m).chalAt = s.now ∧
    ((challengeFor m l s).masterOf m).level = (s.masterOf m).level := by
  unfold challengeFor
  have e : ∀ u : State, u.drawn.masterOf m = u.masterOf m := fun u => rfl
  rw [e, masterOf_modMaster]
  exact ⟨rfl, rfl, rfl, rfl⟩
theorem vendor_ends (m : Nat) (s : State) : (vendorEnds m s).dbg.vendor ≠ some m ∧ (∀ x, (vendorEnds m s).masterOf x = s.masterOf x) ∧ (∀ k, k ≠ DBG.STATUS → (vendorEnds m s).rd k = s.rd k) ∧
    (vendorEnds m s).mem = s.mem ∧ (vendorEnds m s).crh = s.crh ∧ (vendorEnds m s).dbg.insn = s.dbg.insn := by
  unfold vendorEnds
  split
  · have e : ((modDbg (fun d => { d with vendor := none }) s).setBit DBG.STATUS 2 false).dbg = { s.dbg with vendor := none } := by rw [setBit_dbg]; rfl
    have h : ((modDbg (fun d => { d with vendor := none }) s).setBit DBG.STATUS 2 false).hdi = s.hdi := by rw [setBit_hdi]; rfl
    refine ⟨by rw [e]; simp, fun x => by unfold State.masterOf; rw [h], fun k hk => by rw [rd_setBit_other _ hk]; rfl, by rw [setBit_mem]; rfl, by rw [setBit_crh]; rfl, by rw [e]⟩
  · exact ⟨by assumption, fun _ => rfl, fun _ _ => rfl, rfl, rfl, rfl⟩
theorem notTest {c : Nat} (h : c ∈ [0x01, 0x02, 0xFF]) : testInsn c = false := by revert c; decide
theorem load_plain {c : Nat} (h : testInsn c = false) (s : State) : (loadInsn c s).dbg = { s.dbg with insn := c, dr := captured c s } ∧ (loadInsn c s).mem = s.mem ∧ (∀ k, (loadInsn c s).rd k = s.rd k) ∧ (loadInsn c s).hdi = s.hdi ∧ (loadInsn c s).pins = s.pins ∧
    (testInsn s.dbg.insn = true → (loadInsn c s).crh.rstAt = max s.crh.rstAt s.now) ∧ (testInsn s.dbg.insn = false → (loadInsn c s).crh = s.crh) := by
  unfold loadInsn
  generalize captured c s = d
  dsimp only
  rw [h, if_neg (by simp)]
  by_cases h2 : testInsn s.dbg.insn = true
  · rw [if_pos h2]
    exact ⟨rfl, rfl, fun _ => rfl, rfl, rfl, fun _ => rfl, fun h' => by rw [h2] at h'; cases h'⟩
  · rw [if_neg h2]
    exact ⟨rfl, rfl, fun _ => rfl, rfl, rfl, fun h' => absurd h' h2, fun _ => rfl⟩
theorem part_dbg (b : Nat) (s : State) : (partReset b s).dbg.insn = s.dbg.insn ∧ (partReset b s).dbg.test = s.dbg.test := by
  unfold partReset
  split
  · unfold noteCause
    dsimp only
    split
    · rw [bump_dbg, setBit_dbg]; exact ⟨rfl, rfl⟩
    · rw [setBit_dbg]; exact ⟨rfl, rfl⟩
  · obtain ⟨r, hr⟩ := R_clear (modCrh (fun c => { c with rstFrom := s.now, rstAt := s.now + 10 * ticksPerUs, inReset := true }) ((noteCause b s).bump 32 CRH.RESET_COUNT))
    rw [hr]
    have e : (modCrh (fun c => { c with rstFrom := s.now, rstAt := s.now + 10 * ticksPerUs, inReset := true }) ((noteCause b s).bump 32 CRH.RESET_COUNT)).dbg = s.dbg := by
      show (noteCause b s).dbg = _
      unfold noteCause
      dsimp only
      split
      · rw [bump_dbg, setBit_dbg]
      · rw [setBit_dbg]
    show (clr _).dbg.insn = _ ∧ (clr _).dbg.test = _
    unfold clr
    dsimp only
    rw [e]; exact ⟨rfl, rfl⟩
theorem part_cause (b : Nat) (hb : b < 9) (hb3 : b ≠ 3) (s : State) : (partReset b s).bit CRH.RESET_CAUSE b = true := by
  unfold partReset
  split
  · exact (cause_facts b s hb).1
  · have c := cause_facts b s hb
    rw [bit_of_rd (clear_rd (by decide) (by decide) (by decide) (by decide) (by decide) (by decide) (by decide) (by decide))]
    show ((noteCause b s).bump 32 CRH.RESET_COUNT).bit _ _ = true
    rw [bit_of_rd (bump_ne (by decide))]; exact c.1
theorem load_test {c : Nat} (h : testInsn c = true) (s : State) : (loadInsn c s).dbg.insn = c ∧ (loadInsn c s).dbg.test = true ∧ (loadInsn c s).bit CRH.RESET_CAUSE 7 = true ∧
      (s.crh.inReset = false → s.crh.rstFrom + ticksPerUs < s.now → PartReset s 7 (loadInsn c s)) := by
  unfold loadInsn
  generalize captured c s = d
  dsimp only
  rw [h, if_pos rfl]
  generalize hu : modDbg (fun d => { d with test := true }) (modDbg (fun x => { x with insn := c, dr := d }) s).drawn = u
  have ui : u.dbg.insn = c ∧ u.dbg.test = true ∧ u.crh = s.crh ∧ u.now = s.now ∧ u.reg = s.reg := by subst hu; exact ⟨rfl, rfl, rfl, rfl, rfl⟩
  have p := part_dbg 7 u
  refine ⟨p.1.trans ui.1, p.2.trans ui.2.1, part_cause 7 (by decide) (by decide) _, fun h1 h2 => ?_⟩
  have f := (part_facts (s := u) (b := 7) (by decide) (by rw [ui.2.2.1]; exact h1) (by rw [ui.2.2.1, ui.2.2.2.1]; exact h2)).1
  exact Part_like f fun k _ => by unfold State.rd; rw [ui.2.2.2.2]
end DebugFacts
open DebugFacts
namespace DebugFacts
theorem brk_like {u t : State} (h : Like u t) (w : Nat) : t.brkOf w = u.brkOf w := by unfold State.brkOf; rw [h.brk]
theorem tgt_like {u t : State} (h : Like u t) (w : Nat) : t.tgtOf w = u.tgtOf w := by unfold State.tgtOf; rw [h.tgt]
theorem ve_like {u t : State} (h : Like u t) (w : Nat) : t.veOf w = u.veOf w := by unfold State.veOf; rw [h.ve]
theorem dsp_like {u t : State} (h : Like u t) (w : Nat) : t.dspOf w = u.dspOf w := by unfold State.dspOf; rw [h.dsp]
theorem free_unit {s : State} {u : Nat} (h : freeUnit s = some u) : u < 64 ∧ (s.brkOf u).on = false := by
  unfold freeUnit at h
  have a := List.mem_of_find?_eq_some h
  have b := List.find?_some h
  exact ⟨List.mem_range.1 a, by simpa using b⟩
theorem rearm_facts (u : Nat) (s : State) : (rearm u s).rd (DBG.BRK_STATE u) = 1 ∧ (rearm u s).brkOf u = { on := true } ∧ ∀ k, k ≠ DBG.BRK_STATE u → (rearm u s).rd k = s.rd k := by
  unfold rearm
  refine ⟨rd_wr_same _ _ _, ?_, fun k hk => ?_⟩
  · show (s.modBrk u fun _ => { on := true }).brkOf u = _
    rw [brkOf_modBrk]
  · rw [rd_wr_other _ hk]; rfl
theorem vt (u : State) (m : Nat) (f : TgtS → TgtS) (i : Nat) : (u.modTgt m f).veOf i = u.veOf i := rfl
theorem dt (u : State) (m : Nat) (f : TgtS → TgtS) (i : Nat) : (u.modTgt m f).dspOf i = u.dspOf i := rfl
theorem latch_rd (t th k : Nat) (s : State) : (latchDebugHalt t th s).rd k = s.rd k := by
  unfold latchDebugHalt
  split
  · rfl
  · split
    · dsimp only; split <;> rfl
    · dsimp only; split <;> rfl
theorem latch_rest (t th : Nat) (s : State) : (latchDebugHalt t th s).groupAt = s.groupAt ∧ (latchDebugHalt t th s).now = s.now := by
  unfold latchDebugHalt
  split
  · exact ⟨rfl, rfl⟩
  · split
    · dsimp only; split <;> exact ⟨rfl, rfl⟩
    · dsimp only; split <;> exact ⟨rfl, rfl⟩
theorem latch_ve_own {i th : Nat} {s : State} (hi : i < 32) (h1 : s.rd (VEN.STATE i) = 3) (h2 : (s.veOf i).haltAt = none) : ((latchDebugHalt (1 + i) th s).veOf i).haltAt = some (stopFrom th) ∧ ((latchDebugHalt (1 + i) th s).tgtOf (1 + i)).pend = true := by
  unfold latchDebugHalt
  rw [if_neg (by omega), if_pos (by omega)]
  dsimp only
  rw [show 1 + i - 1 = i by omega, if_pos ⟨h1, h2⟩]
  refine ⟨?_, ?_⟩
  · show ((s.modVe i fun e => { e with haltAt := some (stopFrom th) }).veOf i).haltAt = _
    rw [veOf_modVe]
  · rw [tgtOf_modTgt]
theorem latch_dsp_own {i th : Nat} {s : State} (hi : i < 32) (h1 : s.rd (DSP.STATE i) = 2) (h2 : (s.dspOf i).halt = none) : ((latchDebugHalt (33 + i) th s).dspOf i).halt = some th ∧ ((latchDebugHalt (33 + i) th s).tgtOf (33 + i)).pend = true := by
  unfold latchDebugHalt
  rw [if_neg (by omega), if_neg (by omega)]
  dsimp only
  rw [show 33 + i - 33 = i by omega, if_pos ⟨h1, h2⟩]
  refine ⟨?_, ?_⟩
  · show ((s.modDsp i fun e => { e with halt := some th }).dspOf i).halt = _
    rw [dspOf_modDsp]
  · rw [tgtOf_modTgt]
theorem latch_ve_other {t i th : Nat} {s : State} (h : t ≠ 1 + i) : ((latchDebugHalt t th s).veOf i) = s.veOf i ∧ ((latchDebugHalt t th s).tgtOf (1 + i)) = s.tgtOf (1 + i) := by
  unfold latchDebugHalt
  split
  · rename_i h0; subst h0
    refine ⟨rfl, ?_⟩
    rw [tgtOf_modTgt_other _ (by omega)]
  · split
    · dsimp only
      split
      · refine ⟨?_, ?_⟩
        · rw [vt, veOf_modVe_other _ (by omega)]
        · rw [tgtOf_modTgt_other _ (by omega)]; rfl
      · exact ⟨rfl, rfl⟩
    · dsimp only
      split
      · refine ⟨rfl, ?_⟩
        rw [tgtOf_modTgt_other _ (by omega)]; rfl
      · exact ⟨rfl, rfl⟩
theorem latch_dsp_other {t i th : Nat} {s : State} (h : t ≠ 33 + i) : ((latchDebugHalt t th s).dspOf i) = s.dspOf i ∧ ((latchDebugHalt t th s).tgtOf (33 + i)) = s.tgtOf (33 + i) := by
  unfold latchDebugHalt
  split
  · rename_i h0; subst h0
    refine ⟨rfl, ?_⟩
    rw [tgtOf_modTgt_other _ (by omega)]
  · split
    · dsimp only
      split
      · refine ⟨rfl, ?_⟩
        rw [tgtOf_modTgt_other _ (by omega)]; rfl
      · exact ⟨rfl, rfl⟩
    · dsimp only
      split
      · refine ⟨?_, ?_⟩
        · rw [dt, dspOf_modDsp_other _ (by omega)]
        · rw [tgtOf_modTgt_other _ (by omega)]; rfl
      · exact ⟨rfl, rfl⟩
def gstep (g th : Nat) (s : State) (i : Nat) : State := if s.bit (DBG.GROUP g) i then latchDebugHalt (1 + i) th s else s
theorem gstep_rd (g th k i : Nat) (s : State) : (gstep g th s i).rd k = s.rd k := by unfold gstep; split; exact latch_rd _ _ _ _; rfl
theorem gfold_rest (g th : Nat) : ∀ (l : List Nat) (s : State), (l.foldl (gstep g th) s).groupAt = s.groupAt ∧ (l.foldl (gstep g th) s).now = s.now
  | [], s => ⟨rfl, rfl⟩
  | a :: l, s => by
    rw [List.foldl_cons]
    have := gfold_rest g th l (gstep g th s a)
    have e : (gstep g th s a).groupAt = s.groupAt ∧ (gstep g th s a).now = s.now := by
      unfold gstep; split; exact latch_rest _ _ _; exact ⟨rfl, rfl⟩
    exact ⟨this.1.trans e.1, this.2.trans e.2⟩
theorem gfold_keep (g th i : Nat) : ∀ (l : List Nat) (s : State), (i ∉ l → (l.foldl (gstep g th) s).veOf i = s.veOf i ∧ (l.foldl (gstep g th) s).tgtOf (1 + i) = s.tgtOf (1 + i)) ∧
    (32 + i ∉ l → (l.foldl (gstep g th) s).dspOf i = s.dspOf i ∧ (l.foldl (gstep g th) s).tgtOf (33 + i) = s.tgtOf (33 + i))
  | [], s => ⟨fun _ => ⟨rfl, rfl⟩, fun _ => ⟨rfl, rfl⟩⟩
  | a :: l, s => by
    rw [List.foldl_cons]
    have ih := gfold_keep g th i l (gstep g th s a)
    refine ⟨fun h => ?_, fun h => ?_⟩
    · simp only [List.mem_cons, not_or] at h
      have := ih.1 h.2
      have e : (gstep g th s a).veOf i = s.veOf i ∧ (gstep g th s a).tgtOf (1 + i) = s.tgtOf (1 + i) := by
        unfold gstep; split; exact latch_ve_other (by omega); exact ⟨rfl, rfl⟩
      exact ⟨this.1.trans e.1, this.2.trans e.2⟩
    · simp only [List.mem_cons, not_or] at h
      have := ih.2 h.2
      have e : (gstep g th s a).dspOf i = s.dspOf i ∧ (gstep g th s a).tgtOf (33 + i) = s.tgtOf (33 + i) := by
        unfold gstep; split; exact latch_dsp_other (by omega); exact ⟨rfl, rfl⟩
      exact ⟨this.1.trans e.1, this.2.trans e.2⟩
theorem gfold_ve {g th i : Nat} (hi : i < 32) : ∀ (l : List Nat) (s : State), l.Nodup → i ∈ l → s.bit (DBG.GROUP g) i = true → s.rd (VEN.STATE i) = 3 → (s.veOf i).haltAt = none →
    ((l.foldl (gstep g th) s).veOf i).haltAt = some (stopFrom th) ∧ ((l.foldl (gstep g th) s).tgtOf (1 + i)).pend = true
  | [], s, _, h, _, _, _ => by cases h
  | a :: l, s, hn, h, hb, h1, h2 => by
    rw [List.foldl_cons]
    have hn' := List.nodup_cons.1 hn
    by_cases e : i = a
    · subst e
      have k := (gfold_keep g th i l (gstep g th s i)).1 hn'.1
      rw [k.1, k.2]
      unfold gstep
      rw [if_pos hb]
      exact latch_ve_own hi h1 h2
    · have k : (gstep g th s a).veOf i = s.veOf i ∧ (gstep g th s a).tgtOf (1 + i) = s.tgtOf (1 + i) := by
        unfold gstep; split; exact latch_ve_other (by omega); exact ⟨rfl, rfl⟩
      refine gfold_ve hi l _ hn'.2 ((List.mem_cons.1 h).resolve_left e) ?_ ?_ ?_
      · rw [bit_of_rd (gstep_rd _ _ _ _ _)]; exact hb
      · rw [gstep_rd]; exact h1
      · rw [k.1]; exact h2
theorem gfold_dsp {g th i : Nat} (hi : i < 32) : ∀ (l : List Nat) (s : State), l.Nodup → 32 + i ∈ l → s.bit (DBG.GROUP g) (32 + i) = true → s.rd (DSP.STATE i) = 2 → (s.dspOf i).halt = none →
    ((l.foldl (gstep g th) s).dspOf i).halt = some th ∧ ((l.foldl (gstep g th) s).tgtOf (33 + i)).pend = true
  | [], s, _, h, _, _, _ => by cases h
  | a :: l, s, hn, h, hb, h1, h2 => by
    rw [List.foldl_cons]
    have hn' := List.nodup_cons.1 hn
    by_cases e : 32 + i = a
    · subst e
      have k := (gfold_keep g th i l (gstep g th s (32 + i))).2 hn'.1
      rw [k.1, k.2]
      unfold gstep
      rw [if_pos hb, show 1 + (32 + i) = 33 + i by omega]
      exact latch_dsp_own hi h1 h2
    · have k : (gstep g th s a).dspOf i = s.dspOf i ∧ (gstep g th s a).tgtOf (33 + i) = s.tgtOf (33 + i) := by
        unfold gstep; split; exact latch_dsp_other (by omega); exact ⟨rfl, rfl⟩
      refine gfold_dsp hi l _ hn'.2 ((List.mem_cons.1 h).resolve_left e) ?_ ?_ ?_
      · rw [bit_of_rd (gstep_rd _ _ _ _ _)]; exact hb
      · rw [gstep_rd]; exact h1
      · rw [k.1]; exact h2
/-- What a halt by debug is left with: the hold and the steps to go. -/
def Holds (x : Nat) (s t : State) : Prop := (t.tgtOf x).held = (s.tgtOf x).held ∧ (t.tgtOf x).left = (s.tgtOf x).left
theorem Holds.of {x : Nat} {s t u : State} (h : Holds x s t) (e : u.tgt = t.tgt) : Holds x s u := by
  unfold Holds State.tgtOf at *; rw [e]; exact h
theorem Holds.fold {x : Nat} {s : State} {α : Type} {f : State → α → State} (hf : ∀ u a, Holds x s u → Holds x s (f u a)) :
    ∀ (l : List α) (u : State), Holds x s u → Holds x s (l.foldl f u)
  | [], _, h => h
  | a :: l, u, h => Holds.fold hf l _ (hf u a h)
theorem Holds.pend {x y : Nat} {s t : State} {p : TgtS → Bool} (h : Holds x s t) : Holds x s (t.modTgt y fun g => { g with pend := p g }) := by
  unfold Holds
  have e : ∀ f : TgtS → TgtS, (t.modTgt y f).tgtOf x = if x = y then f (t.tgtOf x) else t.tgtOf x := by
    intro f
    unfold State.modTgt State.tgtOf
    by_cases e : x = y
    · subst e; rw [if_pos rfl]; exact get_set_same _ _ _
    · rw [if_neg e]; exact (get_set _ _ _ _).trans (if_neg e)
  rw [e]
  split <;> exact h
theorem latch_holds {x y th : Nat} {s t : State} (h : Holds x s t) : Holds x s (latchDebugHalt y th t) := by
  unfold latchDebugHalt
  dsimp only
  repeat' (first | exact h | exact h.pend | exact Holds.pend (Holds.of h rfl) | split)
theorem brk_holds (kind y v ctx cls th x : Nat) (s : State) : Holds x s (brkMatch kind y v ctx cls th s) := by
  unfold brkMatch
  split
  · exact ⟨rfl, rfl⟩
  refine Holds.fold (fun u a h => ?_) _ _ ⟨rfl, rfl⟩
  split
  · unfold brkCount
    dsimp only
    have hb : ∀ w : State, Holds x s w → Holds x s (brkFire a y th w) := by
      intro w hw
      unfold brkFire
      have hl : Holds x s (linkFired a ((w.wr (DBG.BRK_STATE a) 2).flag DBG.EVFLAGS 0 496)) := by
        unfold linkFired
        refine Holds.fold (fun u b h => ?_) _ _ (hw.of (by rw [flag_tgt]; rfl))
        split
        · exact h.of rfl
        · exact h
      extract_lets cfg u'
      split
      · split
        · exact hl
        · exact latch_holds hl
      · exact hl.of rfl
      · exact hl
    split
    · exact h
    · split
      · exact hb _ (h.of rfl)
      · exact h.of rfl
  · exact h
theorem go_tgt (s : State) : ((molxoGo s).tgtOf 0).held = false ∧ ((molxoGo s).tgtOf 0).left = none := by
  unfold molxoGo molxoIssue
  dsimp only
  generalize hu : modCfg (fun c => { c with beatAt := _ }) _ = u
  have h : (u.tgtOf 0).held = false ∧ (u.tgtOf 0).left = none := by
    subst hu
    rw [show ∀ (f : CfgS → CfgS) (w : State), (modCfg f w).tgtOf 0 = w.tgtOf 0 from fun _ _ => rfl, tgtOf_modTgt]
    exact ⟨rfl, rfl⟩
  have b := brk_holds 6 0 (u.freeVal % 2 ^ 64) 0 0 u.now 0 u.drawn
  exact ⟨b.1.trans h.1, b.2.trans h.2⟩
theorem goOn_engine {n : Nat} (h0 : n ≠ 0) (s : State) : (goOn n s).tgtOf n = s.tgtOf n ∧
    (n ≤ 32 → ((goOn n s).veOf (n - 1)).resumeAt = earlier (s.veOf (n - 1)).resumeAt (engEdge s.now + 64 * ticksPerNs)) ∧
    (33 ≤ n → (goOn n s).rd (DSP.STATE (n - 33)) = 2) := by
  unfold goOn
  rw [if_neg h0]
  by_cases h1 : n ≤ 32
  · rw [if_pos h1]
    unfold veGoOn
    exact ⟨rfl, fun _ => by rw [veOf_modVe], fun h => by omega⟩
  · rw [if_neg h1]
    unfold dspGoOn
    exact ⟨rfl, fun h => absurd h h1, fun _ => by rw [rd_modDsp]; exact rd_wr_same _ _ _⟩
theorem resume_facts (n : Nat) (s : State) : ((resumeEff n s).tgtOf n).left = none ∧ (n = 0 → ((resumeEff n s).tgtOf n).held = false) ∧
    (1 ≤ n → (resumeEff n s).tgtOf n = { s.tgtOf n with left := none }) ∧
    (1 ≤ n → n ≤ 32 → ((resumeEff n s).veOf (n - 1)).resumeAt = earlier (s.veOf (n - 1)).resumeAt (engEdge s.now + 64 * ticksPerNs)) ∧
    (33 ≤ n → (resumeEff n s).rd (DSP.STATE (n - 33)) = 2) := by
  unfold resumeEff
  have e : ∀ (f : TgtS → TgtS) (u : State), (u.modTgt n f).ve = u.ve ∧ ∀ k, (u.modTgt n f).rd k = u.rd k := fun _ _ => ⟨rfl, fun _ => rfl⟩
  refine ⟨by rw [tgtOf_modTgt], fun h0 => ?_, fun h0 => ?_, fun h1 h2 => ?_, fun h => ?_⟩
  · subst h0; rw [tgtOf_modTgt]; exact (go_tgt s).1
  · rw [tgtOf_modTgt, (goOn_engine (by omega) s).1]
  · unfold State.veOf; rw [(e _ _).1]; exact (goOn_engine (by omega) s).2.1 h2
  · rw [(e _ _).2]; exact (goOn_engine (by omega) s).2.2 h
set_option Elab.async false in
theorem get_set0 (t : Tab Nat) (i v : Nat) : reg0 (setReg t i v) i = v := Laws.get_set_same _ _ _
end DebugFacts
end Sys2Proof.Laws.CompleteDbg
end

