-- ==== Sys2Proof/Laws/KeepsDmcOf.lean ====
section
/-! SUPPORT. Functions g of one value of State.dmcOf: what the operations it lists leave unchanged. -/
set_option linter.unreachableTactic false
set_option linter.unusedSimpArgs false
set_option linter.unusedTactic false
namespace Sys2Proof.Laws
open Sys2Proof.Machine
section
variable {α : Type} {g : DmcS → α} {nn : Nat} {s0 : State}
def KeepsDmcOf (g : DmcS → α) (nn : Nat) (s0 s : State) : Prop := g (s.dmcOf nn) = g (s0.dmcOf nn)
theorem keepsDmcOf_ite {c : Prop} [Decidable c] {x y : State} (hx : KeepsDmcOf g nn s0 x) (hy : KeepsDmcOf g nn s0 y) : KeepsDmcOf g nn s0 (if c then x else y) := by split <;> assumption
theorem keepsDmcOf_foldl {β : Type} {f : State → β → State} (hf : ∀ s x, KeepsDmcOf g nn s0 s → KeepsDmcOf g nn s0 (f s x)) :
    ∀ {l : List β} {s : State}, KeepsDmcOf g nn s0 s → KeepsDmcOf g nn s0 (l.foldl f s)
  | [], _, h => h
  | x :: l, s, h => keepsDmcOf_foldl (l := l) hf (hf s x h)
theorem keepsDmcOf_cut {s : State} {p : Prop} (h : KeepsDmcOf g nn s0 s) (f : KeepsDmcOf g nn s0 s → p) : p := f h
theorem modDmc_keepsDmcOf (m : Nat) (f : DmcS → DmcS) (s : State) (h : KeepsDmcOf g nn s0 s) (hf : ∀ e, g (f e) = g e) : KeepsDmcOf g nn s0 (s.modDmc m f) := by
  unfold KeepsDmcOf at *
  by_cases e : nn = m
  · subst e; rw [dmcOf_modDmc, hf, h]
  · rw [dmcOf_modDmc_other s e, h]
theorem wr_keepsDmcOf (k v : Nat) (s : State) (h : KeepsDmcOf g nn s0 s) : KeepsDmcOf g nn s0 (s.wr k v) := h
theorem keepsDmcOf_mk_iff {s : State} {x_now : Nat} {x_reg : Tab Nat} {x_mem : List Host.Cell} {x_evq : List (Nat × Nat)} {x_freeCtr : Nat} {x_pending : List Instr} {x_hdi : HdiS} {x_clk : ClockS} {x_sched : List Sched} {x_ve : Tab VeRun} {x_outCh : Tab OutCh} {x_inCh : Tab InCh} {x_fcp : Tab FcpS} {x_sq : Tab SqS} {x_brk : Tab BrkS} {x_tgt : Tab TgtS} {x_groupAt : List (Nat × Nat)} {x_dsp : Tab DspRun} {x_focus : FocusS} {x_trim : TrimS} {x_reqs : List MeshReq} {x_resps : List MeshResp} {x_held : List PortReq} {x_steal : List PortReq} {x_labels : List (MeshReq × Nat)} {x_drain : Option Drain} {x_trace : List Nat} {x_autoTrain : Bool} {x_crh : CrhS} {x_cfg : CfgS} {x_fresh : List (Nat × Nat × Nat)} {x_cleared : List (Nat × Nat × Nat)} {x_sup : SupS} {x_dbg : DbgS} {x_tmu : TmuS} {x_lanes : Tab LaneS} {x_cells : Tab (Option CellS)} {x_cellCfg : Tab CellCfg} {x_sels : Tab Nat} {x_tracks : Tab Nat} {x_upsets : List Upset} {x_facets : Tab FacetS} {x_fev : List (Nat × Nat)} {x_panes : Tab PaneS} {x_banks : Tab BankS} {x_pins : PinsS} :
    KeepsDmcOf g nn s0 ⟨x_now, x_reg, x_mem, x_evq, x_freeCtr, x_pending, x_hdi, x_clk, x_sched, x_ve, x_outCh, x_inCh, x_fcp, x_sq, x_brk, x_tgt, x_groupAt, x_dsp, x_focus, x_trim, x_reqs, x_resps, x_held, x_steal, x_labels, x_drain, x_trace, s.dmc, x_autoTrain, x_crh, x_cfg, x_fresh, x_cleared, x_sup, x_dbg, x_tmu, x_lanes, x_cells, x_cellCfg, x_sels, x_tracks, x_upsets, x_facets, x_fev, x_panes, x_banks, x_pins⟩ ↔ KeepsDmcOf g nn s0 s := Iff.rfl
theorem addTo_keepsDmcOf (s : State) (w k d : Nat) (hs : KeepsDmcOf (fun e : DmcS => (e.ingress, e.track, e.nextId, e.rot, e.temp, e.hot, e.rate, e.patrol)) nn s0 s) :
    KeepsDmcOf (fun e : DmcS => (e.ingress, e.track, e.nextId, e.rot, e.temp, e.hot, e.rate, e.patrol)) nn s0 (State.addTo s w k d) := by
  unfold State.addTo
  repeat' first
    | with_reducible intro _
    | with_reducible assumption
    | with_reducible apply wr_keepsDmcOf

theorem bump_keepsDmcOf (s : State) (w k : Nat) (hs : KeepsDmcOf (fun e : DmcS => (e.ingress, e.track, e.nextId, e.rot, e.temp, e.hot, e.rate, e.patrol)) nn s0 s) :
    KeepsDmcOf (fun e : DmcS => (e.ingress, e.track, e.nextId, e.rot, e.temp, e.hot, e.rate, e.patrol)) nn s0 (State.bump s w k) := by
  unfold State.bump
  repeat' first
    | with_reducible intro _
    | with_reducible assumption
    | with_reducible apply addTo_keepsDmcOf

theorem raiseAt_keepsDmcOf (s : State) (t e : Nat) (hs : KeepsDmcOf (fun e : DmcS => (e.ingress, e.track, e.nextId, e.rot, e.temp, e.hot, e.rate, e.patrol)) nn s0 s) :
    KeepsDmcOf (fun e : DmcS => (e.ingress, e.track, e.nextId, e.rot, e.temp, e.hot, e.rate, e.patrol)) nn s0 (State.raiseAt s t e) := by
  unfold State.raiseAt
  repeat' first
    | with_reducible intro _
    | with_reducible assumption
    | simp only [↓keepsDmcOf_mk_iff]
    | with_reducible apply keepsDmcOf_ite
    | (extract_lets x; first | (with_reducible refine keepsDmcOf_cut (s := x) ?_ ?_; (on_goal 2 => clear_value x); (on_goal 1 => unfold x)) | (subst x))
    | split

theorem raise_keepsDmcOf (s : State) (e : Nat) (hs : KeepsDmcOf (fun e : DmcS => (e.ingress, e.track, e.nextId, e.rot, e.temp, e.hot, e.rate, e.patrol)) nn s0 s) :
    KeepsDmcOf (fun e : DmcS => (e.ingress, e.track, e.nextId, e.rot, e.temp, e.hot, e.rate, e.patrol)) nn s0 (State.raise s e) := by
  unfold State.raise
  repeat' first
    | with_reducible intro _
    | with_reducible assumption
    | with_reducible apply raiseAt_keepsDmcOf
    | simp only [↓keepsDmcOf_mk_iff]
    | with_reducible apply keepsDmcOf_ite
    | (extract_lets x; first | (with_reducible refine keepsDmcOf_cut (s := x) ?_ ?_; (on_goal 2 => clear_value x); (on_goal 1 => unfold x)) | (subst x))
    | split

theorem setBit_keepsDmcOf (s : State) (k b : Nat) (v : Bool) (hs : KeepsDmcOf (fun e : DmcS => (e.ingress, e.track, e.nextId, e.rot, e.temp, e.hot, e.rate, e.patrol)) nn s0 s) :
    KeepsDmcOf (fun e : DmcS => (e.ingress, e.track, e.nextId, e.rot, e.temp, e.hot, e.rate, e.patrol)) nn s0 (State.setBit s k b v) := by
  unfold State.setBit
  repeat' first
    | with_reducible intro _
    | with_reducible assumption
    | with_reducible apply wr_keepsDmcOf
    | with_reducible apply keepsDmcOf_ite
    | split

theorem note_keepsDmcOf (s : State) (k b : Nat) (hs : KeepsDmcOf (fun e : DmcS => (e.ingress, e.track, e.nextId, e.rot, e.temp, e.hot, e.rate, e.patrol)) nn s0 s) :
    KeepsDmcOf (fun e : DmcS => (e.ingress, e.track, e.nextId, e.rot, e.temp, e.hot, e.rate, e.patrol)) nn s0 (State.note s k b) := by
  unfold State.note
  repeat' first
    | with_reducible intro _
    | with_reducible assumption
    | simp only [↓keepsDmcOf_mk_iff]
    | with_reducible apply keepsDmcOf_ite
    | (extract_lets x; first | (with_reducible refine keepsDmcOf_cut (s := x) ?_ ?_; (on_goal 2 => clear_value x); (on_goal 1 => unfold x)) | (subst x))
    | split

theorem flag_keepsDmcOf (s : State) (k b e : Nat) (hs : KeepsDmcOf (fun e : DmcS => (e.ingress, e.track, e.nextId, e.rot, e.temp, e.hot, e.rate, e.patrol)) nn s0 s) :
    KeepsDmcOf (fun e : DmcS => (e.ingress, e.track, e.nextId, e.rot, e.temp, e.hot, e.rate, e.patrol)) nn s0 (State.flag s k b e) := by
  unfold State.flag
  repeat' first
    | with_reducible intro _
    | with_reducible assumption
    | with_reducible apply note_keepsDmcOf
    | with_reducible apply setBit_keepsDmcOf
    | with_reducible apply raise_keepsDmcOf
    | simp only [↓keepsDmcOf_mk_iff]
    | with_reducible apply keepsDmcOf_ite
    | (extract_lets x; first | (with_reducible refine keepsDmcOf_cut (s := x) ?_ ?_; (on_goal 2 => clear_value x); (on_goal 1 => unfold x)) | (subst x))
    | split

theorem drawn_keepsDmcOf (s : State) (hs : KeepsDmcOf (fun e : DmcS => (e.ingress, e.track, e.nextId, e.rot, e.temp, e.hot, e.rate, e.patrol)) nn s0 s) :
    KeepsDmcOf (fun e : DmcS => (e.ingress, e.track, e.nextId, e.rot, e.temp, e.hot, e.rate, e.patrol)) nn s0 (State.drawn s) := by
  unfold State.drawn
  repeat' first
    | with_reducible intro _
    | with_reducible assumption
    | simp only [↓keepsDmcOf_mk_iff]
    | with_reducible apply keepsDmcOf_ite
    | (extract_lets x; first | (with_reducible refine keepsDmcOf_cut (s := x) ?_ ?_; (on_goal 2 => clear_value x); (on_goal 1 => unfold x)) | (subst x))
    | split

theorem modVe_keepsDmcOf (s : State) (n : Nat) (f : VeRun → VeRun) (hs : KeepsDmcOf (fun e : DmcS => (e.ingress, e.track, e.nextId, e.rot, e.temp, e.hot, e.rate, e.patrol)) nn s0 s) :
    KeepsDmcOf (fun e : DmcS => (e.ingress, e.track, e.nextId, e.rot, e.temp, e.hot, e.rate, e.patrol)) nn s0 (State.modVe s n f) := by
  unfold State.modVe
  repeat' first
    | with_reducible intro _
    | with_reducible assumption
    | simp only [↓keepsDmcOf_mk_iff]

theorem modMirror_keepsDmcOf (s : State) (f : MirrorS → MirrorS) (hs : KeepsDmcOf (fun e : DmcS => (e.ingress, e.track, e.nextId, e.rot, e.temp, e.hot, e.rate, e.patrol)) nn s0 s) :
    KeepsDmcOf (fun e : DmcS => (e.ingress, e.track, e.nextId, e.rot, e.temp, e.hot, e.rate, e.patrol)) nn s0 (State.modMirror s f) := by
  unfold State.modMirror
  repeat' first
    | with_reducible intro _
    | with_reducible assumption
    | simp only [↓keepsDmcOf_mk_iff]

theorem meshAnswer_keepsDmcOf (r : MeshReq) (kind data : Nat) (s : State) (hs : KeepsDmcOf (fun e : DmcS => (e.ingress, e.track, e.nextId, e.rot, e.temp, e.hot, e.rate, e.patrol)) nn s0 s) :
    KeepsDmcOf (fun e : DmcS => (e.ingress, e.track, e.nextId, e.rot, e.temp, e.hot, e.rate, e.patrol)) nn s0 (meshAnswer r kind data s) := by
  unfold meshAnswer
  repeat' first
    | with_reducible intro _
    | with_reducible assumption
    | simp only [↓keepsDmcOf_mk_iff]

theorem restartLease_keepsDmcOf (s : State) (hs : KeepsDmcOf (fun e : DmcS => (e.ingress, e.track, e.nextId, e.rot, e.temp, e.hot, e.rate, e.patrol)) nn s0 s) :
    KeepsDmcOf (fun e : DmcS => (e.ingress, e.track, e.nextId, e.rot, e.temp, e.hot, e.rate, e.patrol)) nn s0 (restartLease s) := by
  unfold restartLease
  repeat' first
    | with_reducible intro _
    | with_reducible assumption
    | with_reducible apply modMirror_keepsDmcOf
    | simp only [↓keepsDmcOf_mk_iff]

theorem barrierLeft_keepsDmcOf (n at' : Nat) (s : State) (hs : KeepsDmcOf (fun e : DmcS => (e.ingress, e.track, e.nextId, e.rot, e.temp, e.hot, e.rate, e.patrol)) nn s0 s) :
    KeepsDmcOf (fun e : DmcS => (e.ingress, e.track, e.nextId, e.rot, e.temp, e.hot, e.rate, e.patrol)) nn s0 (barrierLeft n at' s) := by
  unfold barrierLeft
  repeat' first
    | with_reducible intro _
    | with_reducible assumption
    | with_reducible apply modVe_keepsDmcOf
    | simp only [↓keepsDmcOf_mk_iff]
    | with_reducible apply keepsDmcOf_ite
    | with_reducible apply keepsDmcOf_foldl
    | split

theorem disarmStarts_keepsDmcOf (s : State) (hs : KeepsDmcOf (fun e : DmcS => (e.ingress, e.track, e.nextId, e.rot, e.temp, e.hot, e.rate, e.patrol)) nn s0 s) :
    KeepsDmcOf (fun e : DmcS => (e.ingress, e.track, e.nextId, e.rot, e.temp, e.hot, e.rate, e.patrol)) nn s0 (disarmStarts s) := by
  unfold disarmStarts
  repeat' first
    | with_reducible intro _
    | with_reducible assumption
    | with_reducible apply wr_keepsDmcOf
    | with_reducible apply modVe_keepsDmcOf
    | with_reducible apply barrierLeft_keepsDmcOf
    | simp only [↓keepsDmcOf_mk_iff]
    | with_reducible apply keepsDmcOf_ite
    | with_reducible apply keepsDmcOf_foldl
    | (extract_lets x; first | (with_reducible refine keepsDmcOf_cut (s := x) ?_ ?_; (on_goal 2 => clear_value x); (on_goal 1 => unfold x)) | (subst x))
    | split

theorem disarmTo_keepsDmcOf (c : Nat) (s : State) (hs : KeepsDmcOf (fun e : DmcS => (e.ingress, e.track, e.nextId, e.rot, e.temp, e.hot, e.rate, e.patrol)) nn s0 s) :
    KeepsDmcOf (fun e : DmcS => (e.ingress, e.track, e.nextId, e.rot, e.temp, e.hot, e.rate, e.patrol)) nn s0 (disarmTo c s) := by
  unfold disarmTo
  repeat' first
    | with_reducible intro _
    | with_reducible assumption
    | with_reducible apply restartLease_keepsDmcOf
    | with_reducible apply disarmStarts_keepsDmcOf
    | with_reducible apply wr_keepsDmcOf
    | with_reducible apply modMirror_keepsDmcOf
    | simp only [↓keepsDmcOf_mk_iff]

theorem reopen_keepsDmcOf (s : State) (hs : KeepsDmcOf (fun e : DmcS => (e.ingress, e.track, e.nextId, e.rot, e.temp, e.hot, e.rate, e.patrol)) nn s0 s) :
    KeepsDmcOf (fun e : DmcS => (e.ingress, e.track, e.nextId, e.rot, e.temp, e.hot, e.rate, e.patrol)) nn s0 (reopen s) := by
  unfold reopen
  repeat' first
    | with_reducible intro _
    | with_reducible assumption
    | with_reducible apply disarmTo_keepsDmcOf
    | with_reducible apply wr_keepsDmcOf
    | with_reducible apply raise_keepsDmcOf
    | with_reducible apply keepsDmcOf_ite
    | (extract_lets x; first | (with_reducible refine keepsDmcOf_cut (s := x) ?_ ?_; (on_goal 2 => clear_value x); (on_goal 1 => unfold x)) | (subst x))
    | split

theorem reopenIf_keepsDmcOf (c : Bool) (s : State) (hs : KeepsDmcOf (fun e : DmcS => (e.ingress, e.track, e.nextId, e.rot, e.temp, e.hot, e.rate, e.patrol)) nn s0 s) :
    KeepsDmcOf (fun e : DmcS => (e.ingress, e.track, e.nextId, e.rot, e.temp, e.hot, e.rate, e.patrol)) nn s0 (reopenIf c s) := by
  unfold reopenIf
  repeat' first
    | with_reducible intro _
    | with_reducible assumption
    | with_reducible apply reopen_keepsDmcOf
    | with_reducible apply keepsDmcOf_ite
    | split

theorem dmcFlag_keepsDmcOf (n b : Nat) (s : State) (hs : KeepsDmcOf (fun e : DmcS => (e.ingress, e.track, e.nextId, e.rot, e.temp, e.hot, e.rate, e.patrol)) nn s0 s) :
    KeepsDmcOf (fun e : DmcS => (e.ingress, e.track, e.nextId, e.rot, e.temp, e.hot, e.rate, e.patrol)) nn s0 (dmcFlag n b s) := by
  unfold dmcFlag
  repeat' first
    | with_reducible intro _
    | with_reducible assumption
    | with_reducible apply flag_keepsDmcOf

theorem dmcEnter_keepsDmcOf (n c : Nat) (s : State) (hs : KeepsDmcOf (fun e : DmcS => (e.ingress, e.track, e.nextId, e.rot, e.temp, e.hot, e.rate, e.patrol)) nn s0 s) :
    KeepsDmcOf (fun e : DmcS => (e.ingress, e.track, e.nextId, e.rot, e.temp, e.hot, e.rate, e.patrol)) nn s0 (dmcEnter n c s) := by
  unfold dmcEnter
  repeat' first
    | with_reducible intro _
    | with_reducible assumption
    | with_reducible apply dmcFlag_keepsDmcOf
    | with_reducible apply wr_keepsDmcOf

theorem ddrLock_keepsDmcOf (n : Nat) (v : Bool) (s : State) (hs : KeepsDmcOf (fun e : DmcS => (e.ingress, e.track, e.nextId, e.rot, e.temp, e.hot, e.rate, e.patrol)) nn s0 s) :
    KeepsDmcOf (fun e : DmcS => (e.ingress, e.track, e.nextId, e.rot, e.temp, e.hot, e.rate, e.patrol)) nn s0 (ddrLock n v s) := by
  unfold ddrLock
  repeat' first
    | with_reducible intro _
    | with_reducible assumption
    | with_reducible apply setBit_keepsDmcOf

theorem dmcChanged_keepsDmcOf (s : State) (hs : KeepsDmcOf (fun e : DmcS => (e.ingress, e.track, e.nextId, e.rot, e.temp, e.hot, e.rate, e.patrol)) nn s0 s) :
    KeepsDmcOf (fun e : DmcS => (e.ingress, e.track, e.nextId, e.rot, e.temp, e.hot, e.rate, e.patrol)) nn s0 (dmcChanged s) := by
  unfold dmcChanged
  repeat' first
    | with_reducible intro _
    | with_reducible assumption
    | with_reducible apply reopenIf_keepsDmcOf

theorem dmcFail_keepsDmcOf (n : Nat) (s : State) (hs : KeepsDmcOf (fun e : DmcS => (e.ingress, e.track, e.nextId, e.rot, e.temp, e.hot, e.rate, e.patrol)) nn s0 s) :
    KeepsDmcOf (fun e : DmcS => (e.ingress, e.track, e.nextId, e.rot, e.temp, e.hot, e.rate, e.patrol)) nn s0 (dmcFail n s) := by
  unfold dmcFail
  repeat' first
    | with_reducible intro _
    | with_reducible assumption
    | with_reducible apply dmcFlag_keepsDmcOf
    | with_reducible apply ddrLock_keepsDmcOf
    | with_reducible apply dmcEnter_keepsDmcOf
    | with_reducible apply wr_keepsDmcOf

theorem excludeNamed_keepsDmcOf (s : State) (hs : KeepsDmcOf (fun e : DmcS => (e.ingress, e.track, e.nextId, e.rot, e.temp, e.hot, e.rate, e.patrol)) nn s0 s) :
    KeepsDmcOf (fun e : DmcS => (e.ingress, e.track, e.nextId, e.rot, e.temp, e.hot, e.rate, e.patrol)) nn s0 (excludeNamed s) := by
  unfold excludeNamed
  repeat' first
    | with_reducible intro _
    | with_reducible assumption
    | with_reducible apply ddrLock_keepsDmcOf
    | with_reducible apply wr_keepsDmcOf
    | with_reducible apply dmcFlag_keepsDmcOf
    | with_reducible apply keepsDmcOf_ite
    | with_reducible apply keepsDmcOf_foldl
    | (extract_lets x; first | (with_reducible refine keepsDmcOf_cut (s := x) ?_ ?_; (on_goal 2 => clear_value x); (on_goal 1 => unfold x)) | (subst x))
    | split

theorem throttle_keepsDmcOf (n src cls t : Nat) (s : State) (hs : KeepsDmcOf (fun e : DmcS => (e.ingress, e.track, e.nextId, e.rot, e.temp, e.hot, e.rate, e.patrol)) nn s0 s) :
    KeepsDmcOf (fun e : DmcS => (e.ingress, e.track, e.nextId, e.rot, e.temp, e.hot, e.rate, e.patrol)) nn s0 (throttle n src cls t s) := by
  unfold throttle
  repeat' first
    | with_reducible intro _
    | with_reducible assumption
    | (with_reducible refine modDmc_keepsDmcOf _ _ _ ?_ ?_; (on_goal 2 => (intro e; rfl)))
    | with_reducible apply dmcFlag_keepsDmcOf
    | simp only [↓keepsDmcOf_mk_iff]
    | with_reducible apply keepsDmcOf_ite
    | (extract_lets x; first | (with_reducible refine keepsDmcOf_cut (s := x) ?_ ?_; (on_goal 2 => clear_value x); (on_goal 1 => unfold x)) | (subst x))
    | split

theorem rfmIssue_keepsDmcOf (n bank : Nat) (s : State) (hs : KeepsDmcOf (fun e : DmcS => (e.ingress, e.track, e.nextId, e.rot, e.temp, e.hot, e.rate, e.patrol)) nn s0 s) :
    KeepsDmcOf (fun e : DmcS => (e.ingress, e.track, e.nextId, e.rot, e.temp, e.hot, e.rate, e.patrol)) nn s0 (rfmIssue n bank s) := by
  unfold rfmIssue
  repeat' first
    | with_reducible intro _
    | with_reducible assumption
    | with_reducible apply drawn_keepsDmcOf
    | (with_reducible refine modDmc_keepsDmcOf _ _ _ ?_ ?_; (on_goal 2 => (intro e; rfl)))
    | simp only [↓keepsDmcOf_mk_iff]
    | with_reducible apply keepsDmcOf_ite
    | (extract_lets x; first | (with_reducible refine keepsDmcOf_cut (s := x) ?_ ?_; (on_goal 2 => clear_value x); (on_goal 1 => unfold x)) | (subst x))
    | split

theorem countRow_keepsDmcOf (n row t : Nat) (r : Option MeshReq) (bank : Nat) (s : State) (hs : KeepsDmcOf (fun e : DmcS => (e.ingress, e.track, e.nextId, e.rot, e.temp, e.hot, e.rate, e.patrol)) nn s0 s) :
    KeepsDmcOf (fun e : DmcS => (e.ingress, e.track, e.nextId, e.rot, e.temp, e.hot, e.rate, e.patrol)) nn s0 (countRow n row t r bank s) := by
  unfold countRow
  repeat' first
    | with_reducible intro _
    | with_reducible assumption
    | with_reducible apply rfmIssue_keepsDmcOf
    | with_reducible apply throttle_keepsDmcOf
    | with_reducible apply bump_keepsDmcOf
    | (with_reducible refine modDmc_keepsDmcOf _ _ _ ?_ ?_; (on_goal 2 => (intro e; rfl)))
    | simp only [↓keepsDmcOf_mk_iff]
    | with_reducible apply keepsDmcOf_ite
    | (extract_lets x; first | (with_reducible refine keepsDmcOf_cut (s := x) ?_ ?_; (on_goal 2 => clear_value x); (on_goal 1 => unfold x)) | (subst x))
    | split

set_option Elab.async false in
theorem finishReq_keepsDmcOf (n : Nat) (bad : Bool) (data : Nat) (s : State) (x : Trk) (hs : KeepsDmcOf (fun e : DmcS => (e.ingress, e.track, e.nextId, e.rot, e.temp, e.hot, e.rate, e.patrol)) nn s0 s) :
    KeepsDmcOf (fun e : DmcS => (e.ingress, e.track, e.nextId, e.rot, e.temp, e.hot, e.rate, e.patrol)) nn s0 (finishReq n bad data s x) := by
  unfold finishReq
  repeat' first
    | with_reducible intro _
    | with_reducible assumption
    | with_reducible apply bump_keepsDmcOf
    | with_reducible apply dmcFlag_keepsDmcOf
    | with_reducible apply meshAnswer_keepsDmcOf
    | with_reducible apply keepsDmcOf_ite
    | (extract_lets x; first | (with_reducible refine keepsDmcOf_cut (s := x) ?_ ?_; (on_goal 2 => clear_value x); (on_goal 1 => unfold x)) | (subst x))
    | split
end

end Sys2Proof.Laws
end

