-- ==== Sys2Proof/Laws/KeepsRespsDmc.lean ====
section
/-! SUPPORT. State.resps: what the operations it lists leave unchanged. -/
namespace Sys2Proof.Laws
open Sys2Proof.Machine
section
variable {s0 : State}
def KeepsRespsDmc (s0 s : State) : Prop := s.resps = s0.resps
theorem keepsRespsDmc_ite {c : Prop} [Decidable c] {x y : State} (hx : KeepsRespsDmc s0 x) (hy : KeepsRespsDmc s0 y) : KeepsRespsDmc s0 (if c then x else y) := by split <;> assumption
theorem keepsRespsDmc_foldl {β : Type} {f : State → β → State} (hf : ∀ s x, KeepsRespsDmc s0 s → KeepsRespsDmc s0 (f s x)) :
    ∀ {l : List β} {s : State}, KeepsRespsDmc s0 s → KeepsRespsDmc s0 (l.foldl f s)
  | [], _, h => h
  | x :: l, s, h => keepsRespsDmc_foldl (l := l) hf (hf s x h)
theorem keepsRespsDmc_cut {s : State} {p : Prop} (h : KeepsRespsDmc s0 s) (f : KeepsRespsDmc s0 s → p) : p := f h
theorem wr_keepsRespsDmc (k v : Nat) (s : State) (h : KeepsRespsDmc s0 s) : KeepsRespsDmc s0 (s.wr k v) := h
theorem keepsRespsDmc_mk_iff {s : State} {x_now : Nat} {x_reg : Tab Nat} {x_mem : List Host.Cell} {x_evq : List (Nat × Nat)} {x_freeCtr : Nat} {x_pending : List Instr} {x_hdi : HdiS} {x_clk : ClockS} {x_sched : List Sched} {x_ve : Tab VeRun} {x_outCh : Tab OutCh} {x_inCh : Tab InCh} {x_fcp : Tab FcpS} {x_sq : Tab SqS} {x_brk : Tab BrkS} {x_tgt : Tab TgtS} {x_groupAt : List (Nat × Nat)} {x_dsp : Tab DspRun} {x_focus : FocusS} {x_trim : TrimS} {x_reqs : List MeshReq} {x_held : List PortReq} {x_steal : List PortReq} {x_labels : List (MeshReq × Nat)} {x_drain : Option Drain} {x_trace : List Nat} {x_dmc : Tab DmcS} {x_autoTrain : Bool} {x_crh : CrhS} {x_cfg : CfgS} {x_fresh : List (Nat × Nat × Nat)} {x_cleared : List (Nat × Nat × Nat)} {x_sup : SupS} {x_dbg : DbgS} {x_tmu : TmuS} {x_lanes : Tab LaneS} {x_cells : Tab (Option CellS)} {x_cellCfg : Tab CellCfg} {x_sels : Tab Nat} {x_tracks : Tab Nat} {x_upsets : List Upset} {x_facets : Tab FacetS} {x_fev : List (Nat × Nat)} {x_panes : Tab PaneS} {x_banks : Tab BankS} {x_pins : PinsS} :
    KeepsRespsDmc s0 ⟨x_now, x_reg, x_mem, x_evq, x_freeCtr, x_pending, x_hdi, x_clk, x_sched, x_ve, x_outCh, x_inCh, x_fcp, x_sq, x_brk, x_tgt, x_groupAt, x_dsp, x_focus, x_trim, x_reqs, s.resps, x_held, x_steal, x_labels, x_drain, x_trace, x_dmc, x_autoTrain, x_crh, x_cfg, x_fresh, x_cleared, x_sup, x_dbg, x_tmu, x_lanes, x_cells, x_cellCfg, x_sels, x_tracks, x_upsets, x_facets, x_fev, x_panes, x_banks, x_pins⟩ ↔ KeepsRespsDmc s0 s := Iff.rfl
theorem addTo_keepsRespsDmc (s : State) (w k d : Nat) (hs : KeepsRespsDmc s0 s) :
    KeepsRespsDmc s0 (State.addTo s w k d) := by
  unfold State.addTo
  repeat' first
    | with_reducible intro _
    | with_reducible assumption
    | with_reducible apply wr_keepsRespsDmc

theorem bump_keepsRespsDmc (s : State) (w k : Nat) (hs : KeepsRespsDmc s0 s) :
    KeepsRespsDmc s0 (State.bump s w k) := by
  unfold State.bump
  repeat' first
    | with_reducible intro _
    | with_reducible assumption
    | with_reducible apply addTo_keepsRespsDmc

theorem raiseAt_keepsRespsDmc (s : State) (t e : Nat) (hs : KeepsRespsDmc s0 s) :
    KeepsRespsDmc s0 (State.raiseAt s t e) := by
  unfold State.raiseAt
  repeat' first
    | with_reducible intro _
    | with_reducible assumption
    | simp only [↓keepsRespsDmc_mk_iff]
    | with_reducible apply keepsRespsDmc_ite
    | (extract_lets x; first | (with_reducible refine keepsRespsDmc_cut (s := x) ?_ ?_; (on_goal 2 => clear_value x); (on_goal 1 => unfold x)) | (subst x))
    | split

theorem raise_keepsRespsDmc (s : State) (e : Nat) (hs : KeepsRespsDmc s0 s) :
    KeepsRespsDmc s0 (State.raise s e) := by
  unfold State.raise
  repeat' first
    | with_reducible intro _
    | with_reducible assumption
    | with_reducible apply raiseAt_keepsRespsDmc
    | simp only [↓keepsRespsDmc_mk_iff]
    | with_reducible apply keepsRespsDmc_ite
    | (extract_lets x; first | (with_reducible refine keepsRespsDmc_cut (s := x) ?_ ?_; (on_goal 2 => clear_value x); (on_goal 1 => unfold x)) | (subst x))
    | split

theorem setBit_keepsRespsDmc (s : State) (k b : Nat) (v : Bool) (hs : KeepsRespsDmc s0 s) :
    KeepsRespsDmc s0 (State.setBit s k b v) := by
  unfold State.setBit
  repeat' first
    | with_reducible intro _
    | with_reducible assumption
    | with_reducible apply wr_keepsRespsDmc
    | with_reducible apply keepsRespsDmc_ite
    | split

theorem note_keepsRespsDmc (s : State) (k b : Nat) (hs : KeepsRespsDmc s0 s) :
    KeepsRespsDmc s0 (State.note s k b) := by
  unfold State.note
  repeat' first
    | with_reducible intro _
    | with_reducible assumption
    | simp only [↓keepsRespsDmc_mk_iff]
    | with_reducible apply keepsRespsDmc_ite
    | (extract_lets x; first | (with_reducible refine keepsRespsDmc_cut (s := x) ?_ ?_; (on_goal 2 => clear_value x); (on_goal 1 => unfold x)) | (subst x))
    | split

theorem flag_keepsRespsDmc (s : State) (k b e : Nat) (hs : KeepsRespsDmc s0 s) :
    KeepsRespsDmc s0 (State.flag s k b e) := by
  unfold State.flag
  repeat' first
    | with_reducible intro _
    | with_reducible assumption
    | with_reducible apply note_keepsRespsDmc
    | with_reducible apply setBit_keepsRespsDmc
    | with_reducible apply raise_keepsRespsDmc
    | simp only [↓keepsRespsDmc_mk_iff]
    | with_reducible apply keepsRespsDmc_ite
    | (extract_lets x; first | (with_reducible refine keepsRespsDmc_cut (s := x) ?_ ?_; (on_goal 2 => clear_value x); (on_goal 1 => unfold x)) | (subst x))
    | split

theorem drawn_keepsRespsDmc (s : State) (hs : KeepsRespsDmc s0 s) :
    KeepsRespsDmc s0 (State.drawn s) := by
  unfold State.drawn
  repeat' first
    | with_reducible intro _
    | with_reducible assumption
    | simp only [↓keepsRespsDmc_mk_iff]
    | with_reducible apply keepsRespsDmc_ite
    | (extract_lets x; first | (with_reducible refine keepsRespsDmc_cut (s := x) ?_ ?_; (on_goal 2 => clear_value x); (on_goal 1 => unfold x)) | (subst x))
    | split

theorem modDmc_keepsRespsDmc (s : State) (n : Nat) (g : DmcS → DmcS) (hs : KeepsRespsDmc s0 s) :
    KeepsRespsDmc s0 (State.modDmc s n g) := by
  unfold State.modDmc
  repeat' first
    | with_reducible intro _
    | with_reducible assumption
    | simp only [↓keepsRespsDmc_mk_iff]

theorem dmcFlag_keepsRespsDmc (n b : Nat) (s : State) (hs : KeepsRespsDmc s0 s) :
    KeepsRespsDmc s0 (dmcFlag n b s) := by
  unfold dmcFlag
  repeat' first
    | with_reducible intro _
    | with_reducible assumption
    | with_reducible apply flag_keepsRespsDmc

theorem throttle_keepsRespsDmc (n src cls t : Nat) (s : State) (hs : KeepsRespsDmc s0 s) :
    KeepsRespsDmc s0 (throttle n src cls t s) := by
  unfold throttle
  repeat' first
    | with_reducible intro _
    | with_reducible assumption
    | with_reducible apply modDmc_keepsRespsDmc
    | with_reducible apply dmcFlag_keepsRespsDmc
    | simp only [↓keepsRespsDmc_mk_iff]
    | with_reducible apply keepsRespsDmc_ite
    | (extract_lets x; first | (with_reducible refine keepsRespsDmc_cut (s := x) ?_ ?_; (on_goal 2 => clear_value x); (on_goal 1 => unfold x)) | (subst x))
    | split

theorem rfmIssue_keepsRespsDmc (n bank : Nat) (s : State) (hs : KeepsRespsDmc s0 s) :
    KeepsRespsDmc s0 (rfmIssue n bank s) := by
  unfold rfmIssue
  repeat' first
    | with_reducible intro _
    | with_reducible assumption
    | with_reducible apply modDmc_keepsRespsDmc
    | with_reducible apply drawn_keepsRespsDmc
    | simp only [↓keepsRespsDmc_mk_iff]
    | with_reducible apply keepsRespsDmc_ite
    | (extract_lets x; first | (with_reducible refine keepsRespsDmc_cut (s := x) ?_ ?_; (on_goal 2 => clear_value x); (on_goal 1 => unfold x)) | (subst x))
    | split

theorem countRow_keepsRespsDmc (n row t : Nat) (r : Option MeshReq) (bank : Nat) (s : State) (hs : KeepsRespsDmc s0 s) :
    KeepsRespsDmc s0 (countRow n row t r bank s) := by
  unfold countRow
  repeat' first
    | with_reducible intro _
    | with_reducible assumption
    | with_reducible apply rfmIssue_keepsRespsDmc
    | with_reducible apply throttle_keepsRespsDmc
    | with_reducible apply modDmc_keepsRespsDmc
    | with_reducible apply bump_keepsRespsDmc
    | simp only [↓keepsRespsDmc_mk_iff]
    | with_reducible apply keepsRespsDmc_ite
    | (extract_lets x; first | (with_reducible refine keepsRespsDmc_cut (s := x) ?_ ?_; (on_goal 2 => clear_value x); (on_goal 1 => unfold x)) | (subst x))
    | split

theorem burstCorrected_keepsRespsDmc (n : Nat) (s : State) (hs : KeepsRespsDmc s0 s) :
    KeepsRespsDmc s0 (burstCorrected n s) := by
  unfold burstCorrected
  repeat' first
    | with_reducible intro _
    | with_reducible assumption
    | with_reducible apply dmcFlag_keepsRespsDmc
    | with_reducible apply bump_keepsRespsDmc
end

set_option Elab.async false in
theorem burstLost_keepsRespsDmc (n a : Nat) (s : State) (hs : KeepsRespsDmc s0 s) :
    KeepsRespsDmc s0 (burstLost n a s) := by
  unfold burstLost
  repeat' first
    | with_reducible intro _
    | with_reducible assumption
    | with_reducible apply dmcFlag_keepsRespsDmc
    | with_reducible apply bump_keepsRespsDmc
    | with_reducible apply wr_keepsRespsDmc

end Sys2Proof.Laws
end

