-- ==== Sys2Proof/Laws/CompleteDmc.lean ====
section
/-! SUPPORT. Memory controllers: facts that proofs about their commands cite. -/
namespace Sys2Proof.Laws.CompleteDmc
open Sys2Proof.Machine Common
theorem like_dmc {u t : State} (h : Like u t) (n : Nat) : t.dmcOf n = u.dmcOf n := by unfold State.dmcOf; rw [h.dmc]
theorem one {c : Bool × Nat} (h : c.1 = false) : ∀ x ∈ [c], x.1 = false := by intro x hx; rw [List.mem_singleton] at hx; rw [hx]; exact h
theorem df {n b k : Nat} {s : State} (h : k ≠ DMC.EVFLAGS n) : (dmcFlag n b s).rd k = s.rd k :=
  (dmcFlag_fr (V := fun k => k = DMC.EVFLAGS n) (M := True) n b s (fr_refl s) rfl).1 k h
theorem dl {n : Nat} {v : Bool} {k : Nat} {s : State} (h : k ≠ CRH.CLK_STATUS) : (ddrLock n v s).rd k = s.rd k :=
  (ddrLock_fr (V := fun k => k = CRH.CLK_STATUS) (M := True) n v s (fr_refl s) rfl).1 k h
theorem dchg {k : Nat} {s : State} (h : 0x800000 ≤ k) (h1 : k % 256 ≠ 0) : (dmcChanged s).rd k = s.rd k :=
  (dmcChanged_fr (V := fun k => k < 0x800000 ∨ k % 256 = 0) (M := True) s (fr_refl s) (by simp only [HDI.APPLY_OUTCOME]; omega) (by simp only [HDI.MIRROR_STATE]; omega) (fun u => by simp only [VEN.STATE]; omega)).1 k (by omega)
theorem df_dmc (n b m : Nat) (s : State) : (dmcFlag n b s).dmcOf m = s.dmcOf m := by unfold dmcFlag; rw [dmcOf_flag]
theorem dl_dmc (n m : Nat) (v : Bool) (s : State) : (ddrLock n v s).dmcOf m = s.dmcOf m := by unfold ddrLock; rw [dmcOf_setBit]
theorem enter_rd {n c k : Nat} {s : State} (h : k ≠ DMC.EVFLAGS n) (h' : k ≠ DMC.STATE n) : (dmcEnter n c s).rd k = s.rd k := by
  unfold dmcEnter; rw [df h]; exact rd_wr_other _ h' _
theorem dmcEnter_state (n c : Nat) (s : State) : (dmcEnter n c s).rd (DMC.STATE n) = c := by
  unfold dmcEnter; rw [df (by simp)]; exact rd_wr_same _ _ _
theorem cs (n : Nat) (i : Nat) : (0xB100 + n) * 256 + i ≠ CRH.CLK_STATUS := by simp only [CRH.CLK_STATUS]; omega
theorem train_facts (n : Nat) (s : State) : dmcState n (trainStart n s) = 2 ∧ ((trainStart n s).dmcOf n).rate = trainRate s ∧
   (trainStart n s).rd (DMC.CAPACITY n) = (answering n s).foldl (fun a d => a + dimmBytes d) 0 := by
  unfold trainStart
  dsimp only
  refine ⟨?_, ?_, ?_⟩
  · show ((ddrLock n false (spdRead n (dmcEnter n 2 s))).modDmc n fun x => { x with rate := trainRate s }).rd (DMC.STATE n) = 2; rw [rd_modDmc, dl (cs _ _)]; unfold spdRead; dsimp only
    rw [rd_wr_other _ (by simp), rd_wr_other _ (by simp)]; exact dmcEnter_state _ _ _
  · show (((ddrLock n false (spdRead n (dmcEnter n 2 s))).modDmc n fun x => { x with rate := trainRate s }).dmcOf n).rate = _; rw [dmcOf_modDmc]
  · show ((ddrLock n false (spdRead n (dmcEnter n 2 s))).modDmc n fun x => { x with rate := trainRate s }).rd (DMC.CAPACITY n) = _; rw [rd_modDmc, dl (cs _ _)]; unfold spdRead; dsimp only
    refine (rd_wr_same _ _ _).trans ?_
    unfold answering dmcEnter; rw [df_dmc]; rfl
theorem train_other {n m : Nat} {s : State} (h : n ≠ m) : dmcState n (trainStart m s) = dmcState n s := by
  refine (trainStart_fr (V := fun k => k = CRH.CLK_STATUS ∨ k = DMC.CAPACITY m ∨ k = DMC.CONFIG m ∨ k = DMC.EVFLAGS m ∨ k = DMC.STATE m) (M := True) m s (fr_refl s) (by simp) (by simp) (by simp) (by simp) (by simp)).1 _ ?_
  simp only [CRH.CLK_STATUS, DMC.CAPACITY, DMC.CONFIG, DMC.EVFLAGS, DMC.STATE]; omega
theorem train_excl {m : Nat} {s : State} : (trainStart m s).rd DMC.EXCLUDE = s.rd DMC.EXCLUDE := by
  refine (trainStart_fr (V := fun k => k = CRH.CLK_STATUS ∨ k = DMC.CAPACITY m ∨ k = DMC.CONFIG m ∨ k = DMC.EVFLAGS m ∨ k = DMC.STATE m) (M := True) m s (fr_refl s) (by simp) (by simp) (by simp) (by simp) (by simp)).1 _ ?_
  simp only [CRH.CLK_STATUS, DMC.CAPACITY, DMC.CONFIG, DMC.EVFLAGS, DMC.STATE, DMC.EXCLUDE]; omega
theorem retrain_facts (n : Nat) (s : State) : dmcState n (retrainStart n s) = 4 ∧ (retrainStart n s).rd (DMC.RETRAINS n) = min (s.rd (DMC.RETRAINS n) + 1) (2 ^ 64 - 1) := by
  unfold retrainStart
  refine ⟨?_, ?_⟩
  · unfold dmcState; rw [dchg (by simp only [DMC.STATE]; omega) (by simp only [DMC.STATE]; omega)]; unfold setRate; rw [rd_wr_other _ (by simp)]; exact dmcEnter_state _ _ _
  · rw [dchg (by simp only [DMC.RETRAINS]; omega) (by simp only [DMC.RETRAINS]; omega)]; unfold setRate; rw [rd_wr_other _ (by simp), enter_rd (by simp) (by simp), bump_eq]
theorem form_excl (s : State) : (formMap s).rd DMC.EXCLUDE = s.rd DMC.EXCLUDE := by
  refine (formMap_fr (V := fun k => k ≠ DMC.EXCLUDE) (M := True) s (fr_refl s) (by decide) (fun u => ?_) (fun u => ?_) (by decide) (by decide) (by decide) (fun u => ?_) (by decide)).1 _ (by simp)
  all_goals show _ ≠ _
  all_goals simp only [DMC.CONFIG, DMC.EVFLAGS, DMC.STATE, DMC.EXCLUDE]; omega
theorem auto_fold : ∀ (l : List Nat) (s : State), l.Nodup → ∀ n, (n ∈ l → dmcState n s = 1 → s.bit DMC.EXCLUDE n = false →
    dmcState n (l.foldl (fun s n => if dmcState n s = 1 ∧ s.bit DMC.EXCLUDE n = false then trainStart n s else s) s) = 2) ∧
    (n ∉ l → dmcState n (l.foldl (fun s n => if dmcState n s = 1 ∧ s.bit DMC.EXCLUDE n = false then trainStart n s else s) s) = dmcState n s)
  | [], s, _, n => ⟨fun h => absurd h (by simp), fun _ => rfl⟩
  | m :: l, s, hd, n => by
    rw [List.foldl_cons]
    have ih := auto_fold l (if dmcState m s = 1 ∧ s.bit DMC.EXCLUDE m = false then trainStart m s else s) hd.of_cons n
    have hm := (List.nodup_cons.1 hd).1
    have e1 : n ≠ m → dmcState n (if dmcState m s = 1 ∧ s.bit DMC.EXCLUDE m = false then trainStart m s else s) = dmcState n s := by
      intro h; split
      · exact train_other h
      · rfl
    have e2 : (if dmcState m s = 1 ∧ s.bit DMC.EXCLUDE m = false then trainStart m s else s).bit DMC.EXCLUDE n = s.bit DMC.EXCLUDE n := by
      unfold State.bit
      split
      · rw [train_excl]
      · rfl
    refine ⟨fun h h1 h2 => ?_, fun h => ?_⟩
    · by_cases e : n = m
      · subst e
        rw [ih.2 hm, if_pos ⟨h1, h2⟩]; exact (train_facts n s).1
      · exact ih.1 ((List.mem_cons.1 h).resolve_left e) (by rw [e1 e]; exact h1) (by rw [e2]; exact h2)
    · rw [ih.2 (fun h' => h (List.mem_cons_of_mem _ h')), e1 (fun e => h (by rw [e]; simp))]
theorem dmcFail_state (n : Nat) (s : State) : dmcState n (dmcFail n s) = 5 := by
  unfold dmcFail dmcState
  rw [df (by simp), dl (cs _ _)]; exact dmcEnter_state _ _ _
theorem dmcFail_tr (n : Nat) (s : State) : (dmcFail n s).rd (DMC.TRAIN_RESULT n) = s.rd (DMC.TRAIN_RESULT n) := by
  unfold dmcFail
  rw [df (by simp), dl (cs _ _), enter_rd (by simp) (by simp), rd_wr_other _ (by simp)]
theorem pop4 {s : State} : ((List.range 4).all fun n => !(populated n s) || Nat.beq (dmcState n s) 3) = true ↔ ∀ n, n < 4 → populated n s = true → dmcState n s = 3 := by
  rw [List.all_eq_true]
  constructor
  · intro h n hn hp
    have := h n (by simpa using hn)
    rw [hp] at this
    exact Nat.eq_of_beq_eq_true (by simpa using this)
  · intro h n hn
    have hn' : n < 4 := by simpa using hn
    by_cases hp : populated n s = true
    · rw [hp, h n hn' hp]; rfl
    · rw [Bool.not_eq_true] at hp; rw [hp]; rfl
theorem exclNone {s : State} (h : s.rd DMC.EXCLUDE = 0) : excludeNamed s = s := by
  unfold excludeNamed
  have e : ∀ n, s.bit DMC.EXCLUDE n = false := by intro n; unfold State.bit; rw [h]; exact Nat.zero_testBit n
  have : ∀ l : List Nat, l.foldl (fun s n =>
    if s.bit DMC.EXCLUDE n = true ∧ dmcState n s ≠ 0 ∧ dmcState n s ≠ 6 then
      let busy := dmcState n s = 2 ∨ dmcState n s = 4
      let t := ddrLock n false ((s.wr (DMC.STATE n) 6).wr (DMC.CONFIG n) (s.rd (DMC.CONFIG n) % 2 ^ 16))
      if busy then dmcFlag n 0 t else t
    else s) s = s := by
    intro l
    induction l with
    | nil => rfl
    | cons a l ih => rw [List.foldl_cons, if_neg (by rw [e a]; simp)]; exact ih
  exact this _
theorem same_iff {s : State} {m : List Nat} {h : Nat} : (m.all fun n => Nat.beq (s.rd (DMC.CAPACITY n)) (s.rd (DMC.CAPACITY h))
    && Nat.beq (s.rd (DMC.CONFIG n) % 16) (s.rd (DMC.CONFIG h) % 16)) = true ↔ ∀ n ∈ m, s.rd (DMC.CAPACITY n) = s.rd (DMC.CAPACITY h) ∧ s.rd (DMC.CONFIG n) % 16 = s.rd (DMC.CONFIG h) % 16 := by
  rw [List.all_eq_true]
  constructor
  · intro g n hn
    have := g n hn
    rw [Bool.and_eq_true] at this
    exact ⟨Nat.eq_of_beq_eq_true this.1, Nat.eq_of_beq_eq_true this.2⟩
  · intro g n hn
    rw [(g n hn).1, (g n hn).2]
    rw [Bool.and_eq_true]; exact ⟨Nat.beq_refl _, Nat.beq_refl _⟩
theorem rank_eq {n a : Nat} {s u : State} (h : u.rd (DMC.CONFIG n) = s.rd (DMC.CONFIG n)) (h' : u.rd DMC.WAYS = s.rd DMC.WAYS) : rankOf n a u = rankOf n a s := by
  unfold rankOf chanAddr rowBits; rw [h, h']
theorem joins_eq {n : Nat} {r : MeshReq} {s u : State} (h : (u.dmcOf n).track = (s.dmcOf n).track) (h1 : (u.dmcOf n).rate = (s.dmcOf n).rate) (h2 : u.now = s.now) : joins n r u = joins n r s := by
  unfold joins; rw [h, h1, h2]
theorem df_resps (n b : Nat) (s : State) : (dmcFlag n b s).resps = s.resps := by unfold dmcFlag; rw [flag_resps]
theorem df_mem (n b : Nat) (s : State) : (dmcFlag n b s).mem = s.mem := by unfold dmcFlag; rw [flag_mem]
theorem finish_facts (n : Nat) (data : Nat) (s : State) (x : Trk) : (finishReq n false data s x).mem = s.mem ∧ (finishReq n false data s x).dmcOf n = s.dmcOf n ∧
   (finishReq n false data s x).resps = s.resps ++ [⟨x.req, if x.req.op = .read then 0 else 1, if x.req.op = .read then data else 0⟩] := by
  unfold finishReq
  dsimp only
  generalize (x.req.cls.ble 1 && (x.at' + ticksPerUs).blt s.now) = late
  have e : ∀ u : State, (meshAnswer x.req (if (false : Bool) = true then 2 else if x.req.op = .read then 0 else 1) (if x.req.op = .read then data else 0) u).mem = u.mem ∧ (meshAnswer x.req (if (false : Bool) = true then 2 else if x.req.op = .read then 0 else 1) (if x.req.op = .read then data else 0) u).dmcOf n = u.dmcOf n ∧ (meshAnswer x.req (if (false : Bool) = true then 2 else if x.req.op = .read then 0 else 1) (if x.req.op = .read then data else 0) u).resps = u.resps ++ [⟨x.req, if x.req.op = .read then 0 else 1, if x.req.op = .read then data else 0⟩] := fun u => ⟨rfl, rfl, rfl⟩
  cases late
  · exact e _
  · have := e (dmcFlag n 5 ((s.bump 64 (if (false : Bool) = true then DMC.ERRORS n x.req.cls else DMC.DONE n x.req.cls)).bump 64 (DMC.LATE n)))
    refine ⟨this.1.trans (by rw [df_mem]; rfl), this.2.1.trans (by rw [df_dmc]; rfl), this.2.2.trans (by rw [df_resps]; rfl)⟩
theorem fold_finish (n data : Nat) : ∀ (l : List Trk) (s : State), (l.foldl (finishReq n false data) s).mem = s.mem ∧ (l.foldl (finishReq n false data) s).dmcOf n = s.dmcOf n ∧
   (l.foldl (finishReq n false data) s).resps = s.resps ++ l.map fun y => ⟨y.req, if y.req.op = .read then 0 else 1, if y.req.op = .read then data else 0⟩
  | [], s => ⟨rfl, rfl, by simp⟩
  | x :: l, s => by
    have f := finish_facts n data s x
    have ih := fold_finish n data l (finishReq n false data s x)
    rw [List.foldl_cons]
    refine ⟨ih.1.trans f.1, ih.2.1.trans f.2.1, ih.2.2.trans ?_⟩
    rw [f.2.2, List.append_assoc]; rfl
theorem apply_facts (r : MeshReq) (b : Nat) (s u : State) (h : u.mem = s.mem) : (applyBurst r u b).mem = (applyBurst r s b).mem ∧ (applyBurst r u b).dmc = u.dmc ∧ (applyBurst r u b).resps = u.resps := by
  unfold applyBurst
  dsimp only
  split
  · exact ⟨h, rfl, rfl⟩
  · exact ⟨by show memWrite u.mem _ _ _ = memWrite s.mem _ _ _; rw [h], rfl, rfl⟩
  · exact ⟨by show memOr u.mem _ _ _ = memOr s.mem _ _ _; rw [h], rfl, rfl⟩
/-- What performing bursts leaves: the memory depends on the memory alone, and controllers and responses stay. -/
theorem fold_apply {α : Type} (f : α → MeshReq × Nat) : ∀ (l : List α) (s u : State), u.mem = s.mem →
    (l.foldl (fun s y => applyBurst (f y).1 s (f y).2) u).mem = (l.foldl (fun s y => applyBurst (f y).1 s (f y).2) s).mem ∧
    (l.foldl (fun s y => applyBurst (f y).1 s (f y).2) u).dmc = u.dmc ∧ (l.foldl (fun s y => applyBurst (f y).1 s (f y).2) u).resps = u.resps
  | [], s, u, h => ⟨h, rfl, rfl⟩
  | x :: l, s, u, h => by
    have g := apply_facts (f x).1 (f x).2 s u h
    have ih := fold_apply f l (applyBurst (f x).1 s (f x).2) (applyBurst (f x).1 u (f x).2) g.1
    rw [List.foldl_cons, List.foldl_cons]
    exact ⟨ih.1, ih.2.1.trans g.2.1, ih.2.2.trans g.2.2⟩
set_option Elab.async false in
/-- Counting an activate keeps what the controller holds beside its row tables, throttles and bank times. -/
theorem countRow_g (n row t : Nat) (r : Option MeshReq) (b : Nat) (s : State) : (fun e : DmcS => (e.ingress, e.track, e.nextId, e.rot, e.temp, e.hot, e.rate, e.patrol)) ((countRow n row t r b s).dmcOf n) = (fun e : DmcS => (e.ingress, e.track, e.nextId, e.rot, e.temp, e.hot, e.rate, e.patrol)) (s.dmcOf n) :=
  countRow_keepsDmcOf (nn := n) (s0 := s) n row t r b s rfl
end Sys2Proof.Laws.CompleteDmc
end

