-- ==== Sys2Proof/Laws/KeepsDspIssue.lean ====
section
/-! SUPPORT. Functions g of one value of State.dspOf: what the operations it lists leave unchanged. -/
set_option linter.unreachableTactic false
set_option linter.unusedSimpArgs false
set_option linter.unusedTactic false
namespace Sys2Proof.Laws
open Sys2Proof.Machine
section
variable {α : Type} {g : DspRun → α} {nn : Nat} {s0 : State}
def KeepsDspIssue (g : DspRun → α) (nn : Nat) (s0 s : State) : Prop := g (s.dspOf nn) = g (s0.dspOf nn)
theorem keepsDspIssue_ite {c : Prop} [Decidable c] {x y : State} (hx : KeepsDspIssue g nn s0 x) (hy : KeepsDspIssue g nn s0 y) : KeepsDspIssue g nn s0 (if c then x else y) := by split <;> assumption
theorem keepsDspIssue_foldl {β : Type} {f : State → β → State} (hf : ∀ s x, KeepsDspIssue g nn s0 s → KeepsDspIssue g nn s0 (f s x)) :
    ∀ {l : List β} {s : State}, KeepsDspIssue g nn s0 s → KeepsDspIssue g nn s0 (l.foldl f s)
  | [], _, h => h
  | x :: l, s, h => keepsDspIssue_foldl (l := l) hf (hf s x h)
theorem keepsDspIssue_cut {s : State} {p : Prop} (h : KeepsDspIssue g nn s0 s) (f : KeepsDspIssue g nn s0 s → p) : p := f h
theorem modDsp_keepsDspIssue (m : Nat) (f : DspRun → DspRun) (s : State) (h : KeepsDspIssue g nn s0 s) (hf : ∀ e, g (f e) = g e) : KeepsDspIssue g nn s0 (s.modDsp m f) := by
  unfold KeepsDspIssue at *
  by_cases e : nn = m
  · subst e; rw [dspOf_modDsp, hf, h]
  · rw [dspOf_modDsp_other s e, h]
theorem wr_keepsDspIssue (k v : Nat) (s : State) (h : KeepsDspIssue g nn s0 s) : KeepsDspIssue g nn s0 (s.wr k v) := h
theorem keepsDspIssue_mk_iff {s : State} {x_now : Nat} {x_reg : Tab Nat} {x_mem : List Host.Cell} {x_evq : List (Nat × Nat)} {x_freeCtr : Nat} {x_pending : List Instr} {x_hdi : HdiS} {x_clk : ClockS} {x_sched : List Sched} {x_ve : Tab VeRun} {x_outCh : Tab OutCh} {x_inCh : Tab InCh} {x_fcp : Tab FcpS} {x_sq : Tab SqS} {x_brk : Tab BrkS} {x_tgt : Tab TgtS} {x_groupAt : List (Nat × Nat)} {x_focus : FocusS} {x_trim : TrimS} {x_reqs : List MeshReq} {x_resps : List MeshResp} {x_held : List PortReq} {x_steal : List PortReq} {x_labels : List (MeshReq × Nat)} {x_drain : Option Drain} {x_trace : List Nat} {x_dmc : Tab DmcS} {x_autoTrain : Bool} {x_crh : CrhS} {x_cfg : CfgS} {x_fresh : List (Nat × Nat × Nat)} {x_cleared : List (Nat × Nat × Nat)} {x_sup : SupS} {x_dbg : DbgS} {x_tmu : TmuS} {x_lanes : Tab LaneS} {x_cells : Tab (Option CellS)} {x_cellCfg : Tab CellCfg} {x_sels : Tab Nat} {x_tracks : Tab Nat} {x_upsets : List Upset} {x_facets : Tab FacetS} {x_fev : List (Nat × Nat)} {x_panes : Tab PaneS} {x_banks : Tab BankS} {x_pins : PinsS} :
    KeepsDspIssue g nn s0 ⟨x_now, x_reg, x_mem, x_evq, x_freeCtr, x_pending, x_hdi, x_clk, x_sched, x_ve, x_outCh, x_inCh, x_fcp, x_sq, x_brk, x_tgt, x_groupAt, s.dsp, x_focus, x_trim, x_reqs, x_resps, x_held, x_steal, x_labels, x_drain, x_trace, x_dmc, x_autoTrain, x_crh, x_cfg, x_fresh, x_cleared, x_sup, x_dbg, x_tmu, x_lanes, x_cells, x_cellCfg, x_sels, x_tracks, x_upsets, x_facets, x_fev, x_panes, x_banks, x_pins⟩ ↔ KeepsDspIssue g nn s0 s := Iff.rfl
theorem addTo_keepsDspIssue (s : State) (w k d : Nat) (hs : KeepsDspIssue (fun e : DspRun => (e.v, e.acc, e.a, e.o, e.c, e.bsh, e.pc, e.rpt, e.moves, e.prior, e.armAt, e.due, e.wdEnd)) nn s0 s) :
    KeepsDspIssue (fun e : DspRun => (e.v, e.acc, e.a, e.o, e.c, e.bsh, e.pc, e.rpt, e.moves, e.prior, e.armAt, e.due, e.wdEnd)) nn s0 (State.addTo s w k d) := by
  unfold State.addTo
  repeat' first
    | with_reducible intro _
    | with_reducible assumption
    | with_reducible apply wr_keepsDspIssue

theorem bump_keepsDspIssue (s : State) (w k : Nat) (hs : KeepsDspIssue (fun e : DspRun => (e.v, e.acc, e.a, e.o, e.c, e.bsh, e.pc, e.rpt, e.moves, e.prior, e.armAt, e.due, e.wdEnd)) nn s0 s) :
    KeepsDspIssue (fun e : DspRun => (e.v, e.acc, e.a, e.o, e.c, e.bsh, e.pc, e.rpt, e.moves, e.prior, e.armAt, e.due, e.wdEnd)) nn s0 (State.bump s w k) := by
  unfold State.bump
  repeat' first
    | with_reducible intro _
    | with_reducible assumption
    | with_reducible apply addTo_keepsDspIssue

theorem raiseAt_keepsDspIssue (s : State) (t e : Nat) (hs : KeepsDspIssue (fun e : DspRun => (e.v, e.acc, e.a, e.o, e.c, e.bsh, e.pc, e.rpt, e.moves, e.prior, e.armAt, e.due, e.wdEnd)) nn s0 s) :
    KeepsDspIssue (fun e : DspRun => (e.v, e.acc, e.a, e.o, e.c, e.bsh, e.pc, e.rpt, e.moves, e.prior, e.armAt, e.due, e.wdEnd)) nn s0 (State.raiseAt s t e) := by
  unfold State.raiseAt
  repeat' first
    | with_reducible intro _
    | with_reducible assumption
    | simp only [↓keepsDspIssue_mk_iff]
    | with_reducible apply keepsDspIssue_ite
    | (extract_lets x; first | (with_reducible refine keepsDspIssue_cut (s := x) ?_ ?_; (on_goal 2 => clear_value x); (on_goal 1 => unfold x)) | (subst x))
    | split

theorem raise_keepsDspIssue (s : State) (e : Nat) (hs : KeepsDspIssue (fun e : DspRun => (e.v, e.acc, e.a, e.o, e.c, e.bsh, e.pc, e.rpt, e.moves, e.prior, e.armAt, e.due, e.wdEnd)) nn s0 s) :
    KeepsDspIssue (fun e : DspRun => (e.v, e.acc, e.a, e.o, e.c, e.bsh, e.pc, e.rpt, e.moves, e.prior, e.armAt, e.due, e.wdEnd)) nn s0 (State.raise s e) := by
  unfold State.raise
  repeat' first
    | with_reducible intro _
    | with_reducible assumption
    | with_reducible apply raiseAt_keepsDspIssue
    | simp only [↓keepsDspIssue_mk_iff]
    | with_reducible apply keepsDspIssue_ite
    | (extract_lets x; first | (with_reducible refine keepsDspIssue_cut (s := x) ?_ ?_; (on_goal 2 => clear_value x); (on_goal 1 => unfold x)) | (subst x))
    | split

theorem setBit_keepsDspIssue (s : State) (k b : Nat) (v : Bool) (hs : KeepsDspIssue (fun e : DspRun => (e.v, e.acc, e.a, e.o, e.c, e.bsh, e.pc, e.rpt, e.moves, e.prior, e.armAt, e.due, e.wdEnd)) nn s0 s) :
    KeepsDspIssue (fun e : DspRun => (e.v, e.acc, e.a, e.o, e.c, e.bsh, e.pc, e.rpt, e.moves, e.prior, e.armAt, e.due, e.wdEnd)) nn s0 (State.setBit s k b v) := by
  unfold State.setBit
  repeat' first
    | with_reducible intro _
    | with_reducible assumption
    | with_reducible apply wr_keepsDspIssue
    | with_reducible apply keepsDspIssue_ite
    | split

theorem note_keepsDspIssue (s : State) (k b : Nat) (hs : KeepsDspIssue (fun e : DspRun => (e.v, e.acc, e.a, e.o, e.c, e.bsh, e.pc, e.rpt, e.moves, e.prior, e.armAt, e.due, e.wdEnd)) nn s0 s) :
    KeepsDspIssue (fun e : DspRun => (e.v, e.acc, e.a, e.o, e.c, e.bsh, e.pc, e.rpt, e.moves, e.prior, e.armAt, e.due, e.wdEnd)) nn s0 (State.note s k b) := by
  unfold State.note
  repeat' first
    | with_reducible intro _
    | with_reducible assumption
    | simp only [↓keepsDspIssue_mk_iff]
    | with_reducible apply keepsDspIssue_ite
    | (extract_lets x; first | (with_reducible refine keepsDspIssue_cut (s := x) ?_ ?_; (on_goal 2 => clear_value x); (on_goal 1 => unfold x)) | (subst x))
    | split

theorem flag_keepsDspIssue (s : State) (k b e : Nat) (hs : KeepsDspIssue (fun e : DspRun => (e.v, e.acc, e.a, e.o, e.c, e.bsh, e.pc, e.rpt, e.moves, e.prior, e.armAt, e.due, e.wdEnd)) nn s0 s) :
    KeepsDspIssue (fun e : DspRun => (e.v, e.acc, e.a, e.o, e.c, e.bsh, e.pc, e.rpt, e.moves, e.prior, e.armAt, e.due, e.wdEnd)) nn s0 (State.flag s k b e) := by
  unfold State.flag
  repeat' first
    | with_reducible intro _
    | with_reducible assumption
    | with_reducible apply note_keepsDspIssue
    | with_reducible apply setBit_keepsDspIssue
    | with_reducible apply raise_keepsDspIssue
    | simp only [↓keepsDspIssue_mk_iff]
    | with_reducible apply keepsDspIssue_ite
    | (extract_lets x; first | (with_reducible refine keepsDspIssue_cut (s := x) ?_ ?_; (on_goal 2 => clear_value x); (on_goal 1 => unfold x)) | (subst x))
    | split

theorem modVe_keepsDspIssue (s : State) (n : Nat) (f : VeRun → VeRun) (hs : KeepsDspIssue (fun e : DspRun => (e.v, e.acc, e.a, e.o, e.c, e.bsh, e.pc, e.rpt, e.moves, e.prior, e.armAt, e.due, e.wdEnd)) nn s0 s) :
    KeepsDspIssue (fun e : DspRun => (e.v, e.acc, e.a, e.o, e.c, e.bsh, e.pc, e.rpt, e.moves, e.prior, e.armAt, e.due, e.wdEnd)) nn s0 (State.modVe s n f) := by
  unfold State.modVe
  repeat' first
    | with_reducible intro _
    | with_reducible assumption
    | simp only [↓keepsDspIssue_mk_iff]

theorem modBrk_keepsDspIssue (s : State) (u : Nat) (f : BrkS → BrkS) (hs : KeepsDspIssue (fun e : DspRun => (e.v, e.acc, e.a, e.o, e.c, e.bsh, e.pc, e.rpt, e.moves, e.prior, e.armAt, e.due, e.wdEnd)) nn s0 s) :
    KeepsDspIssue (fun e : DspRun => (e.v, e.acc, e.a, e.o, e.c, e.bsh, e.pc, e.rpt, e.moves, e.prior, e.armAt, e.due, e.wdEnd)) nn s0 (State.modBrk s u f) := by
  unfold State.modBrk
  repeat' first
    | with_reducible intro _
    | with_reducible assumption
    | simp only [↓keepsDspIssue_mk_iff]

theorem modTgt_keepsDspIssue (s : State) (t : Nat) (f : TgtS → TgtS) (hs : KeepsDspIssue (fun e : DspRun => (e.v, e.acc, e.a, e.o, e.c, e.bsh, e.pc, e.rpt, e.moves, e.prior, e.armAt, e.due, e.wdEnd)) nn s0 s) :
    KeepsDspIssue (fun e : DspRun => (e.v, e.acc, e.a, e.o, e.c, e.bsh, e.pc, e.rpt, e.moves, e.prior, e.armAt, e.due, e.wdEnd)) nn s0 (State.modTgt s t f) := by
  unfold State.modTgt
  repeat' first
    | with_reducible intro _
    | with_reducible assumption
    | simp only [↓keepsDspIssue_mk_iff]

theorem modBank_keepsDspIssue (s : State) (b : Nat) (g : BankS → BankS) (hs : KeepsDspIssue (fun e : DspRun => (e.v, e.acc, e.a, e.o, e.c, e.bsh, e.pc, e.rpt, e.moves, e.prior, e.armAt, e.due, e.wdEnd)) nn s0 s) :
    KeepsDspIssue (fun e : DspRun => (e.v, e.acc, e.a, e.o, e.c, e.bsh, e.pc, e.rpt, e.moves, e.prior, e.armAt, e.due, e.wdEnd)) nn s0 (State.modBank s b g) := by
  unfold State.modBank
  repeat' first
    | with_reducible intro _
    | with_reducible assumption
    | simp only [↓keepsDspIssue_mk_iff]

theorem meshSend_keepsDspIssue (r : MeshReq) (s : State) (hs : KeepsDspIssue (fun e : DspRun => (e.v, e.acc, e.a, e.o, e.c, e.bsh, e.pc, e.rpt, e.moves, e.prior, e.armAt, e.due, e.wdEnd)) nn s0 s) :
    KeepsDspIssue (fun e : DspRun => (e.v, e.acc, e.a, e.o, e.c, e.bsh, e.pc, e.rpt, e.moves, e.prior, e.armAt, e.due, e.wdEnd)) nn s0 (meshSend r s) := by
  unfold meshSend
  repeat' first
    | with_reducible intro _
    | with_reducible assumption
    | simp only [↓keepsDspIssue_mk_iff]
    | with_reducible apply keepsDspIssue_ite
    | split

theorem latchDebugHalt_keepsDspIssue (t th : Nat) (s : State) (hs : KeepsDspIssue (fun e : DspRun => (e.v, e.acc, e.a, e.o, e.c, e.bsh, e.pc, e.rpt, e.moves, e.prior, e.armAt, e.due, e.wdEnd)) nn s0 s) :
    KeepsDspIssue (fun e : DspRun => (e.v, e.acc, e.a, e.o, e.c, e.bsh, e.pc, e.rpt, e.moves, e.prior, e.armAt, e.due, e.wdEnd)) nn s0 (latchDebugHalt t th s) := by
  unfold latchDebugHalt
  repeat' first
    | with_reducible intro _
    | with_reducible assumption
    | with_reducible apply modTgt_keepsDspIssue
    | with_reducible apply modVe_keepsDspIssue
    | (with_reducible refine modDsp_keepsDspIssue _ _ _ ?_ ?_; (on_goal 2 => (intro e; rfl)))
    | simp only [↓keepsDspIssue_mk_iff]
    | with_reducible apply keepsDspIssue_ite
    | (extract_lets x; first | (with_reducible refine keepsDspIssue_cut (s := x) ?_ ?_; (on_goal 2 => clear_value x); (on_goal 1 => unfold x)) | (subst x))
    | split

theorem linkFired_keepsDspIssue (u : Nat) (s : State) (hs : KeepsDspIssue (fun e : DspRun => (e.v, e.acc, e.a, e.o, e.c, e.bsh, e.pc, e.rpt, e.moves, e.prior, e.armAt, e.due, e.wdEnd)) nn s0 s) :
    KeepsDspIssue (fun e : DspRun => (e.v, e.acc, e.a, e.o, e.c, e.bsh, e.pc, e.rpt, e.moves, e.prior, e.armAt, e.due, e.wdEnd)) nn s0 (linkFired u s) := by
  unfold linkFired
  repeat' first
    | with_reducible intro _
    | with_reducible assumption
    | with_reducible apply modBrk_keepsDspIssue
    | simp only [↓keepsDspIssue_mk_iff]
    | with_reducible apply keepsDspIssue_ite
    | with_reducible apply keepsDspIssue_foldl
    | split

theorem brkFire_keepsDspIssue (u t th : Nat) (s : State) (hs : KeepsDspIssue (fun e : DspRun => (e.v, e.acc, e.a, e.o, e.c, e.bsh, e.pc, e.rpt, e.moves, e.prior, e.armAt, e.due, e.wdEnd)) nn s0 s) :
    KeepsDspIssue (fun e : DspRun => (e.v, e.acc, e.a, e.o, e.c, e.bsh, e.pc, e.rpt, e.moves, e.prior, e.armAt, e.due, e.wdEnd)) nn s0 (brkFire u t th s) := by
  unfold brkFire
  repeat' first
    | with_reducible intro _
    | with_reducible assumption
    | with_reducible apply linkFired_keepsDspIssue
    | with_reducible apply wr_keepsDspIssue
    | with_reducible apply flag_keepsDspIssue
    | with_reducible apply latchDebugHalt_keepsDspIssue
    | simp only [↓keepsDspIssue_mk_iff]
    | (extract_lets x; first | (with_reducible refine keepsDspIssue_cut (s := x) ?_ ?_; (on_goal 2 => clear_value x); (on_goal 1 => unfold x)) | (subst x))
    | split

theorem brkCount_keepsDspIssue (u t th : Nat) (s : State) (hs : KeepsDspIssue (fun e : DspRun => (e.v, e.acc, e.a, e.o, e.c, e.bsh, e.pc, e.rpt, e.moves, e.prior, e.armAt, e.due, e.wdEnd)) nn s0 s) :
    KeepsDspIssue (fun e : DspRun => (e.v, e.acc, e.a, e.o, e.c, e.bsh, e.pc, e.rpt, e.moves, e.prior, e.armAt, e.due, e.wdEnd)) nn s0 (brkCount u t th s) := by
  unfold brkCount
  repeat' first
    | with_reducible intro _
    | with_reducible assumption
    | with_reducible apply bump_keepsDspIssue
    | with_reducible apply modBrk_keepsDspIssue
    | with_reducible apply brkFire_keepsDspIssue
    | simp only [↓keepsDspIssue_mk_iff]
    | with_reducible apply keepsDspIssue_ite
    | (extract_lets x; first | (with_reducible refine keepsDspIssue_cut (s := x) ?_ ?_; (on_goal 2 => clear_value x); (on_goal 1 => unfold x)) | (subst x))
    | split

theorem brkMatch_keepsDspIssue (kind t v ctx cls th : Nat) (s : State) (hs : KeepsDspIssue (fun e : DspRun => (e.v, e.acc, e.a, e.o, e.c, e.bsh, e.pc, e.rpt, e.moves, e.prior, e.armAt, e.due, e.wdEnd)) nn s0 s) :
    KeepsDspIssue (fun e : DspRun => (e.v, e.acc, e.a, e.o, e.c, e.bsh, e.pc, e.rpt, e.moves, e.prior, e.armAt, e.due, e.wdEnd)) nn s0 (brkMatch kind t v ctx cls th s) := by
  unfold brkMatch
  repeat' first
    | with_reducible intro _
    | with_reducible assumption
    | with_reducible apply brkCount_keepsDspIssue
    | with_reducible apply keepsDspIssue_ite
    | with_reducible apply keepsDspIssue_foldl
    | split

theorem schedFree_keepsDspIssue (dsp : Bool) (n : Nat) (s : State) (hs : KeepsDspIssue (fun e : DspRun => (e.v, e.acc, e.a, e.o, e.c, e.bsh, e.pc, e.rpt, e.moves, e.prior, e.armAt, e.due, e.wdEnd)) nn s0 s) :
    KeepsDspIssue (fun e : DspRun => (e.v, e.acc, e.a, e.o, e.c, e.bsh, e.pc, e.rpt, e.moves, e.prior, e.armAt, e.due, e.wdEnd)) nn s0 (schedFree dsp n s) := by
  unfold schedFree
  repeat' first
    | with_reducible intro _
    | with_reducible assumption
    | simp only [↓keepsDspIssue_mk_iff]

theorem scrFlag_keepsDspIssue (b k : Nat) (s : State) (hs : KeepsDspIssue (fun e : DspRun => (e.v, e.acc, e.a, e.o, e.c, e.bsh, e.pc, e.rpt, e.moves, e.prior, e.armAt, e.due, e.wdEnd)) nn s0 s) :
    KeepsDspIssue (fun e : DspRun => (e.v, e.acc, e.a, e.o, e.c, e.bsh, e.pc, e.rpt, e.moves, e.prior, e.armAt, e.due, e.wdEnd)) nn s0 (scrFlag b k s) := by
  unfold scrFlag
  repeat' first
    | with_reducible intro _
    | with_reducible assumption
    | with_reducible apply flag_keepsDspIssue

theorem portTake_keepsDspIssue (b p c rank : Nat) (wr : Bool) (word v : Nat) (s : State) (hs : KeepsDspIssue (fun e : DspRun => (e.v, e.acc, e.a, e.o, e.c, e.bsh, e.pc, e.rpt, e.moves, e.prior, e.armAt, e.due, e.wdEnd)) nn s0 s) :
    KeepsDspIssue (fun e : DspRun => (e.v, e.acc, e.a, e.o, e.c, e.bsh, e.pc, e.rpt, e.moves, e.prior, e.armAt, e.due, e.wdEnd)) nn s0 (portTake b p c rank wr word v s).2 := by
  unfold portTake
  repeat' first
    | with_reducible intro _
    | with_reducible assumption
    | with_reducible apply modBank_keepsDspIssue
    | with_reducible apply wr_keepsDspIssue
    | with_reducible apply bump_keepsDspIssue
    | simp only [↓keepsDspIssue_mk_iff]
    | with_reducible apply keepsDspIssue_ite
    | (extract_lets x; first | (with_reducible refine keepsDspIssue_cut (s := x) ?_ ?_; (on_goal 2 => clear_value x); (on_goal 1 => unfold x)) | (subst x))
    | split

theorem stalled_keepsDspIssue (n k : Nat) (s : State) (hs : KeepsDspIssue (fun e : DspRun => (e.v, e.acc, e.a, e.o, e.c, e.bsh, e.pc, e.rpt, e.moves, e.prior, e.armAt, e.due, e.wdEnd)) nn s0 s) :
    KeepsDspIssue (fun e : DspRun => (e.v, e.acc, e.a, e.o, e.c, e.bsh, e.pc, e.rpt, e.moves, e.prior, e.armAt, e.due, e.wdEnd)) nn s0 (stalled n k s) := by
  unfold stalled
  repeat' first
    | with_reducible intro _
    | with_reducible assumption
    | with_reducible apply addTo_keepsDspIssue
end

set_option Elab.async false in
theorem moveSend_keepsDspIssue (n : Nat) (r : MeshReq) (s : State) (hs : KeepsDspIssue (fun e : DspRun => (e.v, e.acc, e.a, e.o, e.c, e.bsh, e.pc, e.rpt, e.moves, e.prior, e.armAt, e.due, e.wdEnd)) nn s0 s) :
    KeepsDspIssue (fun e : DspRun => (e.v, e.acc, e.a, e.o, e.c, e.bsh, e.pc, e.rpt, e.moves, e.prior, e.armAt, e.due, e.wdEnd)) nn s0 (moveSend n r s) := by
  unfold moveSend
  repeat' first
    | with_reducible intro _
    | with_reducible assumption
    | with_reducible apply meshSend_keepsDspIssue
    | with_reducible apply bump_keepsDspIssue

end Sys2Proof.Laws
end

