-- ==== Sys2Proof/Laws/KeepsDspMoves.lean ====
section
/-! SUPPORT. Functions g of one value of State.dspOf: what the operations it lists leave unchanged. -/
namespace Sys2Proof.Laws
open Sys2Proof.Machine
section
variable {α : Type} {g : DspRun → α} {nn : Nat} {s0 : State}
def KeepsDspMoves (g : DspRun → α) (nn : Nat) (s0 s : State) : Prop := g (s.dspOf nn) = g (s0.dspOf nn)
theorem keepsDspMoves_ite {c : Prop} [Decidable c] {x y : State} (hx : KeepsDspMoves g nn s0 x) (hy : KeepsDspMoves g nn s0 y) : KeepsDspMoves g nn s0 (if c then x else y) := by split <;> assumption
theorem keepsDspMoves_foldl {β : Type} {f : State → β → State} (hf : ∀ s x, KeepsDspMoves g nn s0 s → KeepsDspMoves g nn s0 (f s x)) :
    ∀ {l : List β} {s : State}, KeepsDspMoves g nn s0 s → KeepsDspMoves g nn s0 (l.foldl f s)
  | [], _, h => h
  | x :: l, s, h => keepsDspMoves_foldl (l := l) hf (hf s x h)
theorem keepsDspMoves_cut {s : State} {p : Prop} (h : KeepsDspMoves g nn s0 s) (f : KeepsDspMoves g nn s0 s → p) : p := f h
theorem modDsp_keepsDspMoves (m : Nat) (f : DspRun → DspRun) (s : State) (h : KeepsDspMoves g nn s0 s) (hf : ∀ e, g (f e) = g e) : KeepsDspMoves g nn s0 (s.modDsp m f) := by
  unfold KeepsDspMoves at *
  by_cases e : nn = m
  · subst e; rw [dspOf_modDsp, hf, h]
  · rw [dspOf_modDsp_other s e, h]
theorem wr_keepsDspMoves (k v : Nat) (s : State) (h : KeepsDspMoves g nn s0 s) : KeepsDspMoves g nn s0 (s.wr k v) := h
theorem keepsDspMoves_mk_iff {s : State} {x_now : Nat} {x_reg : Tab Nat} {x_mem : List Host.Cell} {x_evq : List (Nat × Nat)} {x_freeCtr : Nat} {x_pending : List Instr} {x_hdi : HdiS} {x_clk : ClockS} {x_sched : List Sched} {x_ve : Tab VeRun} {x_outCh : Tab OutCh} {x_inCh : Tab InCh} {x_fcp : Tab FcpS} {x_sq : Tab SqS} {x_brk : Tab BrkS} {x_tgt : Tab TgtS} {x_groupAt : List (Nat × Nat)} {x_focus : FocusS} {x_trim : TrimS} {x_reqs : List MeshReq} {x_resps : List MeshResp} {x_held : List PortReq} {x_steal : List PortReq} {x_labels : List (MeshReq × Nat)} {x_drain : Option Drain} {x_trace : List Nat} {x_dmc : Tab DmcS} {x_autoTrain : Bool} {x_crh : CrhS} {x_cfg : CfgS} {x_fresh : List (Nat × Nat × Nat)} {x_cleared : List (Nat × Nat × Nat)} {x_sup : SupS} {x_dbg : DbgS} {x_tmu : TmuS} {x_lanes : Tab LaneS} {x_cells : Tab (Option CellS)} {x_cellCfg : Tab CellCfg} {x_sels : Tab Nat} {x_tracks : Tab Nat} {x_upsets : List Upset} {x_facets : Tab FacetS} {x_fev : List (Nat × Nat)} {x_panes : Tab PaneS} {x_banks : Tab BankS} {x_pins : PinsS} :
    KeepsDspMoves g nn s0 ⟨x_now, x_reg, x_mem, x_evq, x_freeCtr, x_pending, x_hdi, x_clk, x_sched, x_ve, x_outCh, x_inCh, x_fcp, x_sq, x_brk, x_tgt, x_groupAt, s.dsp, x_focus, x_trim, x_reqs, x_resps, x_held, x_steal, x_labels, x_drain, x_trace, x_dmc, x_autoTrain, x_crh, x_cfg, x_fresh, x_cleared, x_sup, x_dbg, x_tmu, x_lanes, x_cells, x_cellCfg, x_sels, x_tracks, x_upsets, x_facets, x_fev, x_panes, x_banks, x_pins⟩ ↔ KeepsDspMoves g nn s0 s := Iff.rfl
theorem keepsDspMoves_foldl_snd {A B : Type} {f : A × State → B → A × State} (hf : ∀ x i, KeepsDspMoves g nn s0 x.2 → KeepsDspMoves g nn s0 (f x i).2) :
    ∀ {l : List B} {x : A × State}, KeepsDspMoves g nn s0 x.2 → KeepsDspMoves g nn s0 (l.foldl f x).2
  | [], _, h => h
  | i :: l, x, h => keepsDspMoves_foldl_snd (l := l) hf (hf x i h)
theorem addTo_keepsDspMoves (s : State) (w k d : Nat) (hs : KeepsDspMoves (fun e : DspRun => (e.v, e.acc, e.a, e.o, e.c, e.bsh, e.pc)) nn s0 s) :
    KeepsDspMoves (fun e : DspRun => (e.v, e.acc, e.a, e.o, e.c, e.bsh, e.pc)) nn s0 (State.addTo s w k d) := by
  unfold State.addTo
  repeat' first
    | with_reducible intro _
    | with_reducible assumption
    | with_reducible apply wr_keepsDspMoves

theorem bump_keepsDspMoves (s : State) (w k : Nat) (hs : KeepsDspMoves (fun e : DspRun => (e.v, e.acc, e.a, e.o, e.c, e.bsh, e.pc)) nn s0 s) :
    KeepsDspMoves (fun e : DspRun => (e.v, e.acc, e.a, e.o, e.c, e.bsh, e.pc)) nn s0 (State.bump s w k) := by
  unfold State.bump
  repeat' first
    | with_reducible intro _
    | with_reducible assumption
    | with_reducible apply addTo_keepsDspMoves

theorem raiseAt_keepsDspMoves (s : State) (t e : Nat) (hs : KeepsDspMoves (fun e : DspRun => (e.v, e.acc, e.a, e.o, e.c, e.bsh, e.pc)) nn s0 s) :
    KeepsDspMoves (fun e : DspRun => (e.v, e.acc, e.a, e.o, e.c, e.bsh, e.pc)) nn s0 (State.raiseAt s t e) := by
  unfold State.raiseAt
  repeat' first
    | with_reducible intro _
    | with_reducible assumption
    | simp only [↓keepsDspMoves_mk_iff]
    | with_reducible apply keepsDspMoves_ite
    | (extract_lets x; first | (with_reducible refine keepsDspMoves_cut (s := x) ?_ ?_; (on_goal 2 => clear_value x); (on_goal 1 => unfold x)) | (subst x))
    | split

theorem raise_keepsDspMoves (s : State) (e : Nat) (hs : KeepsDspMoves (fun e : DspRun => (e.v, e.acc, e.a, e.o, e.c, e.bsh, e.pc)) nn s0 s) :
    KeepsDspMoves (fun e : DspRun => (e.v, e.acc, e.a, e.o, e.c, e.bsh, e.pc)) nn s0 (State.raise s e) := by
  unfold State.raise
  repeat' first
    | with_reducible intro _
    | with_reducible assumption
    | with_reducible apply raiseAt_keepsDspMoves
    | simp only [↓keepsDspMoves_mk_iff]
    | with_reducible apply keepsDspMoves_ite
    | (extract_lets x; first | (with_reducible refine keepsDspMoves_cut (s := x) ?_ ?_; (on_goal 2 => clear_value x); (on_goal 1 => unfold x)) | (subst x))
    | split

theorem setBit_keepsDspMoves (s : State) (k b : Nat) (v : Bool) (hs : KeepsDspMoves (fun e : DspRun => (e.v, e.acc, e.a, e.o, e.c, e.bsh, e.pc)) nn s0 s) :
    KeepsDspMoves (fun e : DspRun => (e.v, e.acc, e.a, e.o, e.c, e.bsh, e.pc)) nn s0 (State.setBit s k b v) := by
  unfold State.setBit
  repeat' first
    | with_reducible intro _
    | with_reducible assumption
    | with_reducible apply wr_keepsDspMoves
    | with_reducible apply keepsDspMoves_ite
    | split

theorem note_keepsDspMoves (s : State) (k b : Nat) (hs : KeepsDspMoves (fun e : DspRun => (e.v, e.acc, e.a, e.o, e.c, e.bsh, e.pc)) nn s0 s) :
    KeepsDspMoves (fun e : DspRun => (e.v, e.acc, e.a, e.o, e.c, e.bsh, e.pc)) nn s0 (State.note s k b) := by
  unfold State.note
  repeat' first
    | with_reducible intro _
    | with_reducible assumption
    | simp only [↓keepsDspMoves_mk_iff]
    | with_reducible apply keepsDspMoves_ite
    | (extract_lets x; first | (with_reducible refine keepsDspMoves_cut (s := x) ?_ ?_; (on_goal 2 => clear_value x); (on_goal 1 => unfold x)) | (subst x))
    | split

theorem flag_keepsDspMoves (s : State) (k b e : Nat) (hs : KeepsDspMoves (fun e : DspRun => (e.v, e.acc, e.a, e.o, e.c, e.bsh, e.pc)) nn s0 s) :
    KeepsDspMoves (fun e : DspRun => (e.v, e.acc, e.a, e.o, e.c, e.bsh, e.pc)) nn s0 (State.flag s k b e) := by
  unfold State.flag
  repeat' first
    | with_reducible intro _
    | with_reducible assumption
    | with_reducible apply note_keepsDspMoves
    | with_reducible apply setBit_keepsDspMoves
    | with_reducible apply raise_keepsDspMoves
    | simp only [↓keepsDspMoves_mk_iff]
    | with_reducible apply keepsDspMoves_ite
    | (extract_lets x; first | (with_reducible refine keepsDspMoves_cut (s := x) ?_ ?_; (on_goal 2 => clear_value x); (on_goal 1 => unfold x)) | (subst x))
    | split

theorem upto_keepsDspMoves (s : State) (t : Nat) (hs : KeepsDspMoves (fun e : DspRun => (e.v, e.acc, e.a, e.o, e.c, e.bsh, e.pc)) nn s0 s) :
    KeepsDspMoves (fun e : DspRun => (e.v, e.acc, e.a, e.o, e.c, e.bsh, e.pc)) nn s0 (State.upto s t) := by
  unfold State.upto
  repeat' first
    | with_reducible intro _
    | with_reducible assumption
    | simp only [↓keepsDspMoves_mk_iff]
    | with_reducible apply keepsDspMoves_ite
    | (extract_lets x; first | (with_reducible refine keepsDspMoves_cut (s := x) ?_ ?_; (on_goal 2 => clear_value x); (on_goal 1 => unfold x)) | (subst x))
    | split

theorem drawn_keepsDspMoves (s : State) (hs : KeepsDspMoves (fun e : DspRun => (e.v, e.acc, e.a, e.o, e.c, e.bsh, e.pc)) nn s0 s) :
    KeepsDspMoves (fun e : DspRun => (e.v, e.acc, e.a, e.o, e.c, e.bsh, e.pc)) nn s0 (State.drawn s) := by
  unfold State.drawn
  repeat' first
    | with_reducible intro _
    | with_reducible assumption
    | simp only [↓keepsDspMoves_mk_iff]
    | with_reducible apply keepsDspMoves_ite
    | (extract_lets x; first | (with_reducible refine keepsDspMoves_cut (s := x) ?_ ?_; (on_goal 2 => clear_value x); (on_goal 1 => unfold x)) | (subst x))
    | split

theorem modTgt_keepsDspMoves (s : State) (t : Nat) (f : TgtS → TgtS) (hs : KeepsDspMoves (fun e : DspRun => (e.v, e.acc, e.a, e.o, e.c, e.bsh, e.pc)) nn s0 s) :
    KeepsDspMoves (fun e : DspRun => (e.v, e.acc, e.a, e.o, e.c, e.bsh, e.pc)) nn s0 (State.modTgt s t f) := by
  unfold State.modTgt
  repeat' first
    | with_reducible intro _
    | with_reducible assumption
    | simp only [↓keepsDspMoves_mk_iff]
    | with_reducible apply keepsDspMoves_ite
    | (extract_lets x; first | (with_reducible refine keepsDspMoves_cut (s := x) ?_ ?_; (on_goal 2 => clear_value x); (on_goal 1 => unfold x)) | (subst x))
    | split

theorem meshSend_keepsDspMoves (r : MeshReq) (s : State) (hs : KeepsDspMoves (fun e : DspRun => (e.v, e.acc, e.a, e.o, e.c, e.bsh, e.pc)) nn s0 s) :
    KeepsDspMoves (fun e : DspRun => (e.v, e.acc, e.a, e.o, e.c, e.bsh, e.pc)) nn s0 (meshSend r s) := by
  unfold meshSend
  repeat' first
    | with_reducible intro _
    | with_reducible assumption
    | simp only [↓keepsDspMoves_mk_iff]
    | with_reducible apply keepsDspMoves_ite
    | split

theorem scrFlag_keepsDspMoves (b k : Nat) (s : State) (hs : KeepsDspMoves (fun e : DspRun => (e.v, e.acc, e.a, e.o, e.c, e.bsh, e.pc)) nn s0 s) :
    KeepsDspMoves (fun e : DspRun => (e.v, e.acc, e.a, e.o, e.c, e.bsh, e.pc)) nn s0 (scrFlag b k s) := by
  unfold scrFlag
  repeat' first
    | with_reducible intro _
    | with_reducible assumption
    | with_reducible apply flag_keepsDspMoves
    | simp only [↓keepsDspMoves_mk_iff]
    | with_reducible apply keepsDspMoves_ite
    | (extract_lets x; first | (with_reducible refine keepsDspMoves_cut (s := x) ?_ ?_; (on_goal 2 => clear_value x); (on_goal 1 => unfold x)) | (subst x))
    | split

theorem freezeDsp_keepsDspMoves (n t : Nat) (s : State) (hs : KeepsDspMoves (fun e : DspRun => (e.v, e.acc, e.a, e.o, e.c, e.bsh, e.pc)) nn s0 s) :
    KeepsDspMoves (fun e : DspRun => (e.v, e.acc, e.a, e.o, e.c, e.bsh, e.pc)) nn s0 (freezeDsp n t s) := by
  unfold freezeDsp
  repeat' first
    | with_reducible intro _
    | with_reducible assumption
    | with_reducible apply addTo_keepsDspMoves
    | (with_reducible refine modDsp_keepsDspMoves _ _ _ ?_ ?_; (on_goal 2 => (intro e; rfl)))
    | with_reducible apply wr_keepsDspMoves
    | simp only [↓keepsDspMoves_mk_iff]
    | with_reducible apply keepsDspMoves_ite
    | (extract_lets x; first | (with_reducible refine keepsDspMoves_cut (s := x) ?_ ?_; (on_goal 2 => clear_value x); (on_goal 1 => unfold x)) | (subst x))
    | split

theorem dspStopAt_keepsDspMoves (n t c : Nat) (s : State) (hs : KeepsDspMoves (fun e : DspRun => (e.v, e.acc, e.a, e.o, e.c, e.bsh, e.pc)) nn s0 s) :
    KeepsDspMoves (fun e : DspRun => (e.v, e.acc, e.a, e.o, e.c, e.bsh, e.pc)) nn s0 (dspStopAt n t c s) := by
  unfold dspStopAt
  repeat' first
    | with_reducible intro _
    | with_reducible assumption
    | with_reducible apply freezeDsp_keepsDspMoves
    | with_reducible apply modTgt_keepsDspMoves
    | with_reducible apply upto_keepsDspMoves
    | with_reducible apply setBit_keepsDspMoves
    | with_reducible apply raise_keepsDspMoves
    | with_reducible apply addTo_keepsDspMoves
    | (with_reducible refine modDsp_keepsDspMoves _ _ _ ?_ ?_; (on_goal 2 => (intro e; rfl)))
    | with_reducible apply wr_keepsDspMoves
    | simp only [↓keepsDspMoves_mk_iff]
    | with_reducible apply keepsDspMoves_ite
    | (extract_lets x; first | (with_reducible refine keepsDspMoves_cut (s := x) ?_ ?_; (on_goal 2 => clear_value x); (on_goal 1 => unfold x)) | (subst x))
    | split

theorem dspFault_keepsDspMoves (n t cause pc : Nat) (s : State) (hs : KeepsDspMoves (fun e : DspRun => (e.v, e.acc, e.a, e.o, e.c, e.bsh, e.pc)) nn s0 s) :
    KeepsDspMoves (fun e : DspRun => (e.v, e.acc, e.a, e.o, e.c, e.bsh, e.pc)) nn s0 (dspFault n t cause pc s) := by
  unfold dspFault
  repeat' first
    | with_reducible intro _
    | with_reducible assumption
    | with_reducible apply dspStopAt_keepsDspMoves
    | with_reducible apply wr_keepsDspMoves
    | simp only [↓keepsDspMoves_mk_iff]
    | with_reducible apply keepsDspMoves_ite
    | (extract_lets x; first | (with_reducible refine keepsDspMoves_cut (s := x) ?_ ?_; (on_goal 2 => clear_value x); (on_goal 1 => unfold x)) | (subst x))
    | split

theorem moveSend_keepsDspMoves (n : Nat) (r : MeshReq) (s : State) (hs : KeepsDspMoves (fun e : DspRun => (e.v, e.acc, e.a, e.o, e.c, e.bsh, e.pc)) nn s0 s) :
    KeepsDspMoves (fun e : DspRun => (e.v, e.acc, e.a, e.o, e.c, e.bsh, e.pc)) nn s0 (moveSend n r s) := by
  unfold moveSend
  repeat' first
    | with_reducible intro _
    | with_reducible assumption
    | with_reducible apply meshSend_keepsDspMoves
    | with_reducible apply bump_keepsDspMoves

theorem modHead_keepsDspMoves (n : Nat) (f : Mv → Mv) (s : State) (hs : KeepsDspMoves (fun e : DspRun => (e.v, e.acc, e.a, e.o, e.c, e.bsh, e.pc)) nn s0 s) :
    KeepsDspMoves (fun e : DspRun => (e.v, e.acc, e.a, e.o, e.c, e.bsh, e.pc)) nn s0 (modHead n f s) := by
  unfold modHead
  repeat' first
    | with_reducible intro _
    | with_reducible assumption
    | (with_reducible refine modDsp_keepsDspMoves _ _ _ ?_ ?_; (on_goal 2 => (intro e; rfl)))
    | simp only [↓keepsDspMoves_mk_iff]
    | split

theorem modBank_keepsDspMoves (s : State) (b : Nat) (g : BankS → BankS) (hs : KeepsDspMoves (fun e : DspRun => (e.v, e.acc, e.a, e.o, e.c, e.bsh, e.pc)) nn s0 s) :
    KeepsDspMoves (fun e : DspRun => (e.v, e.acc, e.a, e.o, e.c, e.bsh, e.pc)) nn s0 (State.modBank s b g) := by
  unfold State.modBank
  repeat' first
    | with_reducible intro _
    | with_reducible assumption
    | simp only [↓keepsDspMoves_mk_iff]

theorem portTake_keepsDspMoves (b p c rank : Nat) (wr : Bool) (word v : Nat) (s : State) (hs : KeepsDspMoves (fun e : DspRun => (e.v, e.acc, e.a, e.o, e.c, e.bsh, e.pc)) nn s0 s) :
    KeepsDspMoves (fun e : DspRun => (e.v, e.acc, e.a, e.o, e.c, e.bsh, e.pc)) nn s0 (portTake b p c rank wr word v s).2 := by
  unfold portTake
  repeat' first
    | with_reducible intro _
    | with_reducible assumption
    | with_reducible apply modBank_keepsDspMoves
    | with_reducible apply wr_keepsDspMoves
    | with_reducible apply bump_keepsDspMoves
    | simp only [↓keepsDspMoves_mk_iff]
    | with_reducible apply keepsDspMoves_ite
    | (extract_lets x; first | (with_reducible refine keepsDspMoves_cut (s := x) ?_ ?_; (on_goal 2 => clear_value x); (on_goal 1 => unfold x)) | (subst x))
    | split

theorem portStall_keepsDspMoves (b p : Nat) (s : State) (hs : KeepsDspMoves (fun e : DspRun => (e.v, e.acc, e.a, e.o, e.c, e.bsh, e.pc)) nn s0 s) :
    KeepsDspMoves (fun e : DspRun => (e.v, e.acc, e.a, e.o, e.c, e.bsh, e.pc)) nn s0 (portStall b p s) := by
  unfold portStall
  repeat' first
    | with_reducible intro _
    | with_reducible assumption
    | with_reducible apply stalled_keepsDspMoves
    | with_reducible apply bump_keepsDspMoves
    | with_reducible apply wr_keepsDspMoves
    | with_reducible apply addTo_keepsDspMoves
    | (with_reducible refine modDsp_keepsDspMoves _ _ _ ?_ ?_; (on_goal 2 => (intro e; rfl)))
    | simp only [↓keepsDspMoves_mk_iff]
    | with_reducible apply keepsDspMoves_ite
    | (extract_lets x; first | (with_reducible refine keepsDspMoves_cut (s := x) ?_ ?_; (on_goal 2 => clear_value x); (on_goal 1 => unfold x)) | (subst x))
    | split

theorem moverTake_keepsDspMoves (n b : Nat) (wr : Bool) (word v : Nat) (s : State) (hs : KeepsDspMoves (fun e : DspRun => (e.v, e.acc, e.a, e.o, e.c, e.bsh, e.pc)) nn s0 s) :
    KeepsDspMoves (fun e : DspRun => (e.v, e.acc, e.a, e.o, e.c, e.bsh, e.pc)) nn s0 (moverTake n b wr word v s).2 := by
  unfold moverTake
  extract_lets p pt
  have hp : KeepsDspMoves (fun e : DspRun => (e.v, e.acc, e.a, e.o, e.c, e.bsh, e.pc)) nn s0 pt.2 := portTake_keepsDspMoves _ _ _ _ _ _ _ _ hs
  exact keepsDspMoves_ite (portStall_keepsDspMoves _ _ _ hp) hp

theorem moveWord_keepsDspMoves (n : Nat) (m : Mv) (s : MeshReq × State) (i : Nat) (hs : KeepsDspMoves (fun e : DspRun => (e.v, e.acc, e.a, e.o, e.c, e.bsh, e.pc)) nn s0 s.2) :
    KeepsDspMoves (fun e : DspRun => (e.v, e.acc, e.a, e.o, e.c, e.bsh, e.pc)) nn s0 (moveWord n m s i).2 := by
  unfold moveWord
  extract_lets b pt put
  have hp : KeepsDspMoves (fun e : DspRun => (e.v, e.acc, e.a, e.o, e.c, e.bsh, e.pc)) nn s0 pt.2 := moverTake_keepsDspMoves n b false _ 0 s.2 hs
  split
  · exact hp
  · exact scrFlag_keepsDspMoves _ _ _ (bump_keepsDspMoves _ _ _ hp)
  · exact modDsp_keepsDspMoves _ _ _ (scrFlag_keepsDspMoves _ _ _ (bump_keepsDspMoves _ _ _ (drawn_keepsDspMoves _ hp))) (fun _ => rfl)

theorem moveNext_keepsDspMoves (n : Nat) (m : Mv) (s : State) (hs : KeepsDspMoves (fun e : DspRun => (e.v, e.acc, e.a, e.o, e.c, e.bsh, e.pc)) nn s0 s) :
    KeepsDspMoves (fun e : DspRun => (e.v, e.acc, e.a, e.o, e.c, e.bsh, e.pc)) nn s0 (moveNext n m s).2 := by
  unfold moveNext
  dsimp only
  split
  · exact keepsDspMoves_foldl_snd (moveWord_keepsDspMoves n m) hs
  · exact hs

theorem dropLost_keepsDspMoves (n : Nat) (s : State) (hs : KeepsDspMoves (fun e : DspRun => (e.v, e.acc, e.a, e.o, e.c, e.bsh, e.pc)) nn s0 s) :
    KeepsDspMoves (fun e : DspRun => (e.v, e.acc, e.a, e.o, e.c, e.bsh, e.pc)) nn s0 (dropLost n s) := by
  unfold dropLost
  repeat' first
    | with_reducible intro _
    | with_reducible assumption
    | (with_reducible refine modDsp_keepsDspMoves _ _ _ ?_ ?_; (on_goal 2 => (intro e; rfl)))
    | simp only [↓keepsDspMoves_mk_iff]
    | with_reducible apply keepsDspMoves_ite
    | (extract_lets x; first | (with_reducible refine keepsDspMoves_cut (s := x) ?_ ?_; (on_goal 2 => clear_value x); (on_goal 1 => unfold x)) | (subst x))
    | split

theorem moveLost_keepsDspMoves (n : Nat) (s : State) (hs : KeepsDspMoves (fun e : DspRun => (e.v, e.acc, e.a, e.o, e.c, e.bsh, e.pc)) nn s0 s) :
    KeepsDspMoves (fun e : DspRun => (e.v, e.acc, e.a, e.o, e.c, e.bsh, e.pc)) nn s0 (moveLost n s) := by
  unfold moveLost
  repeat' first
    | with_reducible intro _
    | with_reducible assumption
    | with_reducible apply dropLost_keepsDspMoves
    | with_reducible apply modHead_keepsDspMoves
    | with_reducible apply dspFault_keepsDspMoves
    | simp only [↓keepsDspMoves_mk_iff]
    | with_reducible apply keepsDspMoves_ite
    | (extract_lets x; first | (with_reducible refine keepsDspMoves_cut (s := x) ?_ ?_; (on_goal 2 => clear_value x); (on_goal 1 => unfold x)) | (subst x))
    | split

theorem moveIssue_keepsDspMoves (n : Nat) : ∀ (z0 : Nat) (z1 : State), KeepsDspMoves (fun e : DspRun => (e.v, e.acc, e.a, e.o, e.c, e.bsh, e.pc)) nn s0 z1 → KeepsDspMoves (fun e : DspRun => (e.v, e.acc, e.a, e.o, e.c, e.bsh, e.pc)) nn s0 (moveIssue n z0 z1)
  | 0, _, h => h
  | k + 1, s, h => by
    unfold moveIssue
    split
    · split
      · refine keepsDspMoves_ite (moveLost_keepsDspMoves n s h) (keepsDspMoves_ite h ?_)
        exact moveIssue_keepsDspMoves n k _ (moveSend_keepsDspMoves n _ _ (modHead_keepsDspMoves n _ _ (moveNext_keepsDspMoves n _ s h)))
      · exact h
    · exact h

set_option Elab.async false in
theorem movePump_keepsDspMoves (n : Nat) (s : State) (hs : KeepsDspMoves (fun e : DspRun => (e.v, e.acc, e.a, e.o, e.c, e.bsh, e.pc)) nn s0 s) :
    KeepsDspMoves (fun e : DspRun => (e.v, e.acc, e.a, e.o, e.c, e.bsh, e.pc)) nn s0 (movePump n s) := by
  unfold movePump
  repeat' first
    | with_reducible intro _
    | with_reducible assumption
    | with_reducible apply setBit_keepsDspMoves
    | with_reducible apply moveIssue_keepsDspMoves
    | with_reducible apply modHead_keepsDspMoves
    | simp only [↓keepsDspMoves_mk_iff]
    | with_reducible apply keepsDspMoves_ite
    | (extract_lets x; first | (with_reducible refine keepsDspMoves_cut (s := x) ?_ ?_; (on_goal 2 => clear_value x); (on_goal 1 => unfold x)) | (subst x))
    | split

end
end Sys2Proof.Laws
end

