-- ==== Sys2Proof/Laws/KeepsDspSlots.lean ====
section
/-! SUPPORT. Functions g of one value of State.dspOf: what the operations it lists leave unchanged. -/
namespace Sys2Proof.Laws
open Sys2Proof.Machine
section
variable {α : Type} {g : DspRun → α} {nn : Nat} {s0 : State}
def KeepsDspSlots (g : DspRun → α) (nn : Nat) (s0 s : State) : Prop := g (s.dspOf nn) = g (s0.dspOf nn)
theorem keepsDspSlots_ite {c : Prop} [Decidable c] {x y : State} (hx : KeepsDspSlots g nn s0 x) (hy : KeepsDspSlots g nn s0 y) : KeepsDspSlots g nn s0 (if c then x else y) := by split <;> assumption
theorem keepsDspSlots_foldl {β : Type} {f : State → β → State} (hf : ∀ s x, KeepsDspSlots g nn s0 s → KeepsDspSlots g nn s0 (f s x)) :
    ∀ {l : List β} {s : State}, KeepsDspSlots g nn s0 s → KeepsDspSlots g nn s0 (l.foldl f s)
  | [], _, h => h
  | x :: l, s, h => keepsDspSlots_foldl (l := l) hf (hf s x h)
theorem keepsDspSlots_cut {s : State} {p : Prop} (h : KeepsDspSlots g nn s0 s) (f : KeepsDspSlots g nn s0 s → p) : p := f h
theorem modDsp_keepsDspSlots (m : Nat) (f : DspRun → DspRun) (s : State) (h : KeepsDspSlots g nn s0 s) (hf : ∀ e, g (f e) = g e) : KeepsDspSlots g nn s0 (s.modDsp m f) := by
  unfold KeepsDspSlots at *
  by_cases e : nn = m
  · subst e; rw [dspOf_modDsp, hf, h]
  · rw [dspOf_modDsp_other s e, h]
theorem wr_keepsDspSlots (k v : Nat) (s : State) (h : KeepsDspSlots g nn s0 s) : KeepsDspSlots g nn s0 (s.wr k v) := h
theorem keepsDspSlots_mk_iff {s : State} {x_now : Nat} {x_reg : Tab Nat} {x_mem : List Host.Cell} {x_evq : List (Nat × Nat)} {x_freeCtr : Nat} {x_pending : List Instr} {x_hdi : HdiS} {x_clk : ClockS} {x_sched : List Sched} {x_ve : Tab VeRun} {x_outCh : Tab OutCh} {x_inCh : Tab InCh} {x_fcp : Tab FcpS} {x_sq : Tab SqS} {x_brk : Tab BrkS} {x_tgt : Tab TgtS} {x_groupAt : List (Nat × Nat)} {x_focus : FocusS} {x_trim : TrimS} {x_reqs : List MeshReq} {x_resps : List MeshResp} {x_held : List PortReq} {x_steal : List PortReq} {x_labels : List (MeshReq × Nat)} {x_drain : Option Drain} {x_trace : List Nat} {x_dmc : Tab DmcS} {x_autoTrain : Bool} {x_crh : CrhS} {x_cfg : CfgS} {x_fresh : List (Nat × Nat × Nat)} {x_cleared : List (Nat × Nat × Nat)} {x_sup : SupS} {x_dbg : DbgS} {x_tmu : TmuS} {x_lanes : Tab LaneS} {x_cells : Tab (Option CellS)} {x_cellCfg : Tab CellCfg} {x_sels : Tab Nat} {x_tracks : Tab Nat} {x_upsets : List Upset} {x_facets : Tab FacetS} {x_fev : List (Nat × Nat)} {x_panes : Tab PaneS} {x_banks : Tab BankS} {x_pins : PinsS} :
    KeepsDspSlots g nn s0 ⟨x_now, x_reg, x_mem, x_evq, x_freeCtr, x_pending, x_hdi, x_clk, x_sched, x_ve, x_outCh, x_inCh, x_fcp, x_sq, x_brk, x_tgt, x_groupAt, s.dsp, x_focus, x_trim, x_reqs, x_resps, x_held, x_steal, x_labels, x_drain, x_trace, x_dmc, x_autoTrain, x_crh, x_cfg, x_fresh, x_cleared, x_sup, x_dbg, x_tmu, x_lanes, x_cells, x_cellCfg, x_sels, x_tracks, x_upsets, x_facets, x_fev, x_panes, x_banks, x_pins⟩ ↔ KeepsDspSlots g nn s0 s := Iff.rfl
theorem setBit_keepsDspSlots (s : State) (k b : Nat) (v : Bool) (hs : KeepsDspSlots (fun e : DspRun => (e.v, e.acc, e.a, e.o, e.c, e.bsh, e.moves)) nn s0 s) :
    KeepsDspSlots (fun e : DspRun => (e.v, e.acc, e.a, e.o, e.c, e.bsh, e.moves)) nn s0 (State.setBit s k b v) := by
  unfold State.setBit
  repeat' first
    | with_reducible intro _
    | with_reducible assumption
    | with_reducible apply wr_keepsDspSlots
    | with_reducible apply keepsDspSlots_ite
    | split

theorem modTgt_keepsDspSlots (s : State) (t : Nat) (f : TgtS → TgtS) (hs : KeepsDspSlots (fun e : DspRun => (e.v, e.acc, e.a, e.o, e.c, e.bsh, e.moves)) nn s0 s) :
    KeepsDspSlots (fun e : DspRun => (e.v, e.acc, e.a, e.o, e.c, e.bsh, e.moves)) nn s0 (State.modTgt s t f) := by
  unfold State.modTgt
  repeat' first
    | with_reducible intro _
    | with_reducible assumption
    | simp only [↓keepsDspSlots_mk_iff]

theorem dspStepCount_keepsDspSlots (n at' : Nat) (s : State) (hs : KeepsDspSlots (fun e : DspRun => (e.v, e.acc, e.a, e.o, e.c, e.bsh, e.moves)) nn s0 s) :
    KeepsDspSlots (fun e : DspRun => (e.v, e.acc, e.a, e.o, e.c, e.bsh, e.moves)) nn s0 (dspStepCount n at' s) := by
  unfold dspStepCount
  repeat' first
    | with_reducible intro _
    | with_reducible assumption
    | (with_reducible refine modDsp_keepsDspSlots _ _ _ ?_ ?_; (on_goal 2 => (intro e; rfl)))
    | with_reducible apply modTgt_keepsDspSlots
    | simp only [↓keepsDspSlots_mk_iff]
    | split

set_option Elab.async false in
theorem retire_keepsDspSlots (n t cost next : Nat) (s : State) (hs : KeepsDspSlots (fun e : DspRun => (e.v, e.acc, e.a, e.o, e.c, e.bsh, e.moves)) nn s0 s) :
    KeepsDspSlots (fun e : DspRun => (e.v, e.acc, e.a, e.o, e.c, e.bsh, e.moves)) nn s0 (retire n t cost next s) := by
  unfold retire
  repeat' first
    | with_reducible intro _
    | with_reducible assumption
    | (with_reducible refine modDsp_keepsDspSlots _ _ _ ?_ ?_; (on_goal 2 => (intro e; rfl)))
    | with_reducible apply wr_keepsDspSlots
    | with_reducible apply dspStepCount_keepsDspSlots
    | with_reducible apply setBit_keepsDspSlots
    | simp only [↓keepsDspSlots_mk_iff]
    | with_reducible apply keepsDspSlots_ite
    | (extract_lets x; first | (with_reducible refine keepsDspSlots_cut (s := x) ?_ ?_; (on_goal 2 => clear_value x); (on_goal 1 => unfold x)) | (subst x))
    | split
end

end Sys2Proof.Laws
end

