-- ==== Sys2Proof/Laws/CompleteDsp.lean ====
section
/-! SUPPORT. DSP engines: facts that proofs about their commands cite. -/
namespace Sys2Proof.Laws.CompleteDsp
open Sys2Proof.Machine Common
theorem setReg_same (t : Tab Nat) (i v : Nat) : reg0 (setReg t i v) i = v := get_set_same _ _ _
theorem setReg_other (t : Tab Nat) {i j : Nat} (h : j ≠ i) (v : Nat) : reg0 (setReg t i v) j = reg0 t j := get_set_other _ h _
def KD (n : Nat) (s t : State) : Prop := (t.dspOf n).acc = (s.dspOf n).acc ∧ (t.dspOf n).o = (s.dspOf n).o ∧ (t.dspOf n).c = (s.dspOf n).c ∧
  (t.dspOf n).bsh = (s.dspOf n).bsh ∧ (t.dspOf n).pc = (s.dspOf n).pc ∧ (t.dspOf n).rpt = (s.dspOf n).rpt
theorem KD.trans {n : Nat} {a b c : State} (h : KD n a b) (g : KD n b c) : KD n a c :=
  ⟨g.1.trans h.1, g.2.1.trans h.2.1, g.2.2.1.trans h.2.2.1, g.2.2.2.1.trans h.2.2.2.1, g.2.2.2.2.1.trans h.2.2.2.2.1, g.2.2.2.2.2.trans h.2.2.2.2.2⟩
theorem kd_refl (n : Nat) (s : State) : KD n s s := ⟨rfl, rfl, rfl, rfl, rfl, rfl⟩
theorem kd_mod {n : Nat} {s : State} {f : DspRun → DspRun} (h : ∀ e : DspRun, (f e).acc = e.acc ∧ (f e).o = e.o ∧ (f e).c = e.c ∧ (f e).bsh = e.bsh ∧ (f e).pc = e.pc ∧ (f e).rpt = e.rpt) : KD n s (s.modDsp n f) := by
  unfold KD; rw [dspOf_modDsp]; exact h _
theorem kd_dsp {n : Nat} {s t : State} (h : t.dsp = s.dsp) : KD n s t := by
  have : t.dspOf n = s.dspOf n := by unfold State.dspOf; rw [h]
  unfold KD; rw [this]; exact ⟨rfl, rfl, rfl, rfl, rfl, rfl⟩
def gD (e : DspRun) := (e.v, e.acc, e.a, e.o, e.c, e.bsh, e.pc, e.rpt, e.moves, e.prior, e.armAt, e.due, e.wdEnd)
theorem brk_g {n : Nat} (k t v ctx cls th : Nat) (s : State) : gD ((brkMatch k t v ctx cls th s).dspOf n) = gD (s.dspOf n) :=
  brkMatch_keepsDspIssue (nn := n) (s0 := s) k t v ctx cls th s rfl
theorem kd_brk {n : Nat} (k t v ctx cls th : Nat) (s : State) : KD n s (brkMatch k t v ctx cls th s) := by
  have e := brk_g (n := n) k t v ctx cls th s
  unfold gD at e
  simp only [Prod.mk.injEq] at e
  exact ⟨e.2.1, e.2.2.2.1, e.2.2.2.2.1, e.2.2.2.2.2.1, e.2.2.2.2.2.2.1, e.2.2.2.2.2.2.2.1⟩
theorem portTake_dsp (b p c rank : Nat) (wr : Bool) (w v : Nat) (s : State) : (portTake b p c rank wr w v s).2.dsp = s.dsp := by
  unfold portTake
  extract_lets x m keep
  split <;> rfl
theorem scrFlag_dsp (b k : Nat) (s : State) : (scrFlag b k s).dsp = s.dsp := by unfold scrFlag; simp
theorem kd_ite {n : Nat} {c : Prop} [Decidable c] {s a b : State} (h : KD n s a) (g : KD n s b) : KD n s (if c then a else b) := by split <;> assumption
theorem portStall_kd (n b p : Nat) (s : State) : KD n s (portStall b p s) := by
  unfold portStall
  dsimp only
  split
  · by_cases h : n = s.rd (SCR.OWNER b p)
    · subst h
      exact KD.trans (kd_dsp (t := s.addTo 64 (DSP.STALLS (s.rd (SCR.OWNER b p))) 1) rfl) (kd_mod fun e => ⟨rfl, rfl, rfl, rfl, rfl, rfl⟩)
    · unfold KD
      rw [dspOf_modDsp_other _ h]
      exact ⟨rfl, rfl, rfl, rfl, rfl, rfl⟩
  · exact kd_refl _ _
theorem runSlot_kd {n nn : Nat} (t : Nat) (ecc : Ecc) (d0 : DspRun) (x : Nat × Nat) (r : SlotRun) (h : n = nn) : KD nn r.st (runSlot n t ecc d0 x r).st := by
  subst h
  unfold runSlot
  extract_lets a b store p tc lo w s pt0 mine extra pt s' at' e0 e1
  have h1 : KD n r.st s := kd_brk _ _ _ _ _ _ _
  have h0 : KD n r.st pt0.2 := h1.trans (kd_dsp (portTake_dsp _ _ _ _ _ _ _ _))
  have h2 : KD n r.st pt.2 := by
    refine h0.trans ?_
    show KD n pt0.2 (if _ then _ else _)
    exact kd_ite (portStall_kd _ _ _ _) (kd_refl _ _)
  split
  · refine h2.trans ?_
    show KD n pt.2 (if _ then _ else _)
    exact kd_ite (kd_dsp (store_dsp ..)) (kd_refl _ _)
  · have h3 : KD n r.st s' := h2.trans (kd_dsp (by
      show (match ecc with
      | .ce => scrFlag b 0 (pt.2.bump 64 (SCR.CE b))
      | .ue | .multi => scrFlag b 1 (pt.2.bump 64 (SCR.UE b))
      | .clean => pt.2).dsp = _
      split <;> first | rfl | rw [scrFlag_dsp]; rfl))
    split
    · exact h3
    · exact h3.trans (kd_mod fun e => ⟨rfl, rfl, rfl, rfl, rfl, rfl⟩)
theorem keepReg_kd (n : Nat) (d0 : DspRun) (x : Nat × Nat) (ecc : Ecc) (s : State) : KD n s (keepReg n d0 x ecc s) := by
  unfold keepReg
  exact kd_ite (kd_mod fun e => ⟨rfl, rfl, rfl, rfl, rfl, rfl⟩) (kd_refl _ _)
theorem runSlots_kd (n t w : Nat) (ecc : List Ecc) (s : State) : KD n s (runSlots n t w ecc s).st := by
  unfold runSlots
  extract_lets d0 pm
  split
  · exact kd_refl _ _
  · extract_lets r
    exact KD.trans (runSlot_kd (nn := n) _ _ _ _ _ rfl : KD n s r.st) (kd_mod fun e => ⟨rfl, rfl, rfl, rfl, rfl, rfl⟩)
  · extract_lets bx by' same r r1 r2 s1 a s2 lo f0 f1 s3
    have h1 : KD n s r2.st := KD.trans (runSlot_kd (nn := n) _ _ _ _ _ rfl : KD n s r.st) (runSlot_kd (nn := n) _ _ _ _ r1 rfl)
    have hp : ∀ z u, KD n u (pm z u) := fun z u => kd_mod fun e => ⟨rfl, rfl, rfl, rfl, rfl, rfl⟩
    have h2 : KD n s s1 := h1.trans ((hp _ _).trans (hp _ _))
    have h3 : KD n s s2 := by
      show KD n s (if _ then _ else _)
      repeat' split
      · exact h2.trans (hp _ _)
      · exact h2
      · exact (h2.trans (kd_mod (f := fun d => { d with a := setReg d.a (slotA _) (a / 2 ^ 14 * 2 ^ 14 + s1.freeVal % 2 ^ 14) }) fun e => ⟨rfl, rfl, rfl, rfl, rfl, rfl⟩)).trans (kd_dsp rfl)
      · exact h2
    split
    · exact (h3.trans (keepReg_kd _ _ _ _ _)).trans (keepReg_kd _ _ _ _ _)
    · split
      · refine KD.trans ?_ (kd_dsp (s := s3) rfl)
        show KD n s (if _ then _ else _)
        split
        · exact h3.trans (kd_mod fun e => ⟨rfl, rfl, rfl, rfl, rfl, rfl⟩)
        · exact h3
      · exact h3
theorem insn_next {n id w : Nat} {s : State} (h : DspIssues n id w s) (act : Nat → Nat → Nat → State → State) :
    insnCommand n id act s = .next (act w (s.dspOf n).pc (dspIssueAt n s) (dspAt n s)) := by
  unfold DspIssues at h
  obtain ⟨hn, h1, h2, h3, h4, h5, h5b, h6, rfl, h8, h9, h10, h11, h12⟩ := h
  unfold insnCommand
  dsimp only
  rw [unitNext hn, if_neg (by rintro (h|h|h|h); exact h h1; all_goals simp_all), if_neg h5b, if_neg h5, if_neg (by omega), if_neg (by simp [h8]), if_neg h9, if_neg (by simp [h10]), if_neg (by simp [h11, h12])]
  rfl
theorem dspAt_g (n : Nat) (s : State) : gD ((dspAt n s).dspOf n) = gD (s.dspOf n) := by
  unfold dspAt; exact (brk_g _ _ _ _ _ _ _).trans rfl
theorem at_v (n : Nat) (s : State) : ((dspAt n s).dspOf n).v = (s.dspOf n).v := congrArg (·.1) (dspAt_g n s)
theorem at_acc (n : Nat) (s : State) : ((dspAt n s).dspOf n).acc = (s.dspOf n).acc := congrArg (·.2.1) (dspAt_g n s)
theorem at_a (n : Nat) (s : State) : ((dspAt n s).dspOf n).a = (s.dspOf n).a := congrArg (·.2.2.1) (dspAt_g n s)
theorem at_c (n : Nat) (s : State) : ((dspAt n s).dspOf n).c = (s.dspOf n).c := congrArg (·.2.2.2.2.1) (dspAt_g n s)
theorem at_bsh (n : Nat) (s : State) : ((dspAt n s).dspOf n).bsh = (s.dspOf n).bsh := congrArg (·.2.2.2.2.2.1) (dspAt_g n s)
theorem at_pc (n : Nat) (s : State) : ((dspAt n s).dspOf n).pc = (s.dspOf n).pc := congrArg (·.2.2.2.2.2.2.1) (dspAt_g n s)
theorem at_rpt (n : Nat) (s : State) : ((dspAt n s).dspOf n).rpt = (s.dspOf n).rpt := congrArg (·.2.2.2.2.2.2.2.1) (dspAt_g n s)
theorem at_moves (n : Nat) (s : State) : ((dspAt n s).dspOf n).moves = (s.dspOf n).moves := congrArg (·.2.2.2.2.2.2.2.2.1) (dspAt_g n s)
def DV (n : Nat) (k : Nat) : Prop := k = DSP.STALLS n ∨ k = DSP.PC n ∨ k = DBG.EVFLAGS ∨ (∃ u, k = DBG.BRK_HITS u) ∨ ∃ u, k = DBG.BRK_STATE u
theorem dspAt_fr (n : Nat) (s : State) : Fr (DV n) False s (dspAt n s) := by
  unfold dspAt; dsimp only
  refine brkMatch_fr _ _ _ _ _ _ _ (wr_fr (stalled_fr _ _ _ (upto_fr _ _ (fr_refl s)) (by simp [DV])) _ _ (by simp [DV])) ?_ ?_ ?_ <;> (try intro u) <;> simp [DV]
theorem at_pcreg (n : Nat) (s : State) : (dspAt n s).rd (DSP.PC n) = (s.dspOf n).pc := by
  unfold dspAt; dsimp only
  refine ((brkMatch_fr (V := fun k => k = DBG.EVFLAGS ∨ (∃ u, k = DBG.BRK_HITS u) ∨ ∃ u, k = DBG.BRK_STATE u) (M := False) _ _ _ _ _ _ _ (fr_refl _) ?_ ?_ ?_).1 _ ?_).trans (rd_wr_same _ _ _)
  · intro u; simp
  · intro u; simp
  · simp
  · rintro (h | ⟨u, h⟩ | ⟨u, h⟩) <;> simp only [DSP.PC, DBG.EVFLAGS, DBG.BRK_HITS, DBG.BRK_STATE] at h <;> omega

theorem stepCount_dsp (n at' : Nat) (s : State) : gD ((dspStepCount n at' s).dspOf n) = gD (s.dspOf n) := by
  unfold dspStepCount; split
  · rw [dspOf_modTgt, dspOf_modDsp]; rfl
  · rfl
  · rfl
theorem retire_pc (n t cost next : Nat) (s : State) : ((retire n t cost next s).dspOf n).pc = match (s.dspOf n).rpt with
      | some k => if 1 < k then (s.dspOf n).pc else next
      | none => next := by
  unfold retire
  extract_lets at' s1
  have h1 : s1.dspOf n = { s.dspOf n with due := at' } := dspOf_modDsp _ _ _
  have h2 : (s1.dspOf n).rpt = (s.dspOf n).rpt := by rw [h1]
  have h3 : (s1.dspOf n).pc = (s.dspOf n).pc := by rw [h1]
  rw [← h2]
  cases hr : (s1.dspOf n).rpt with
  | some k =>
    dsimp only
    split
    · rw [dspOf_modDsp]; exact h3
    · have e := congrArg (·.2.2.2.2.2.2.1) (stepCount_dsp n at' (((s1.wr (DSP.RPT_LEFT n) (k - 1)).modDsp n fun d => { d with rpt := none, pc := next }).setBit (DSP.FLAGS n) 3 false))
      refine Eq.trans e ?_
      show (State.dspOf _ n).pc = next
      rw [dspOf_setBit, dspOf_modDsp]
  | none =>
    have e := congrArg (·.2.2.2.2.2.2.1) (stepCount_dsp n at' (s1.modDsp n fun d => { d with pc := next }))
    refine Eq.trans e ?_
    show (State.dspOf _ n).pc = next
    rw [dspOf_modDsp]
theorem retire_g (n t cost next : Nat) (s : State) : (fun e : DspRun => (e.v, e.acc, e.a, e.o, e.c, e.bsh, e.moves)) ((retire n t cost next s).dspOf n) = (fun e : DspRun => (e.v, e.acc, e.a, e.o, e.c, e.bsh, e.moves)) (s.dspOf n) :=
  retire_keepsDspSlots (nn := n) (s0 := s) n t cost next s rfl
theorem retire_rd {n t cost next : Nat} {s : State} {k : Nat} (h : k ≠ DSP.FLAGS n) (h' : k ≠ DSP.RPT_LEFT n) : (retire n t cost next s).rd k = s.rd k :=
  (retire_fr (V := fun k => k = DSP.FLAGS n ∨ k = DSP.RPT_LEFT n) (M := False) n t cost next s (fr_refl s) (by simp) (by simp)).1 k (by simp [h, h'])
theorem retire_mem (n t cost next : Nat) (s : State) : (retire n t cost next s).mem = s.mem :=
  (retire_fr (V := fun k => k = DSP.FLAGS n ∨ k = DSP.RPT_LEFT n) (M := False) n t cost next s (fr_refl s) (by simp) (by simp)).2 not_false
theorem issued {n t cost next : Nat} {s u : State} (h : u.rd (DSP.PC n) = (s.dspOf n).pc) (h1 : (u.dspOf n).pc = (s.dspOf n).pc) (h2 : (u.dspOf n).rpt = (s.dspOf n).rpt) :
    DspIssued n next s (retire n t cost next u) := by
  refine ⟨?_, ?_⟩
  · rw [retire_rd (by simp) (by simp)]; exact h
  · rw [retire_pc, h1, h2]
    all_goals (cases (s.dspOf n).rpt <;> rfl)
theorem givesI {n id w : Nat} {s : State} {act : Nat → Nat → Nat → State → State} {P : State → Prop}
    (h : DspIssues n id w s) (hp : P (act w (s.dspOf n).pc (dspIssueAt n s) (dspAt n s))) : ∃ t, insnCommand n id act s = .next t ∧ P t :=
  ⟨_, insn_next h act, hp⟩
theorem at_rd {n : Nat} {s : State} {k : Nat} (h : ¬ DV n k) : (dspAt n s).rd k = s.rd k := (dspAt_fr n s).1 k h
theorem ndv {n i : Nat} (h : i < 256) (h1 : i ≠ 16) (h2 : i ≠ 8) (hn : n < 32) : ¬ DV n ((0xA100 + n) * 256 + i) := by
  rintro (e | e | e | ⟨u, e⟩ | ⟨u, e⟩) <;> simp only [DSP.PC, DSP.STALLS, DBG.EVFLAGS, DBG.BRK_HITS, DBG.BRK_STATE] at e <;> omega
theorem DspIssues.lt {n id w : Nat} {s : State} (h : DspIssues n id w s) : n < 32 := h.1
theorem stop_state (n t c : Nat) (s : State) : (dspStopAt n t c s).rd (DSP.STATE n) = c := by
  unfold dspStopAt; extract_lets; rw [rd_raise, rd_modTgt]; exact rd_wr_same _ _ _
theorem stop_rd {n t c k : Nat} {s : State} (h : k ≠ DSP.CYCLES n) (h1 : k ≠ DSP.FLAGS n) (h2 : k ≠ DSP.MOVE_DROPPED n) (h3 : k ≠ DSP.STATE n) (h4 : k ≠ DSP.WDOG_LEFT n) : (dspStopAt n t c s).rd k = s.rd k :=
  (dspStopAt_fr (V := fun k => k = DSP.CYCLES n ∨ k = DSP.FLAGS n ∨ k = DSP.MOVE_DROPPED n ∨ k = DSP.STATE n ∨ k = DSP.WDOG_LEFT n) (M := True) n t c s (fr_refl s) (by simp) (by simp) (by simp) (by simp) (by simp)).1 k (by rintro (e|e|e|e|e); exacts [h e, h1 e, h2 e, h3 e, h4 e])
theorem fitAcc_eq {n : Nat} {s u : State} (h : u.rd (DSP.MODE n) = s.rd (DSP.MODE n)) (r : Int) : (fitAcc n r u).1 = (fitAcc n r s).1 := by
  unfold fitAcc State.bit; rw [h]; split <;> rfl
theorem fitElem_eq {n : Nat} {s u : State} (h : u.rd (DSP.MODE n) = s.rd (DSP.MODE n)) (r : Int) : (fitElem n r u).1 = (fitElem n r s).1 := by
  unfold fitElem State.bit; rw [h]; split <;> rfl
theorem fitAcc_st (n : Nat) (r : Int) (s : State) : (fitAcc n r s).2.dspOf n = s.dspOf n ∧ (fitAcc n r s).2.mem = s.mem ∧ ∀ k, k ≠ DSP.FLAGS n → (fitAcc n r s).2.rd k = s.rd k := by
  unfold fitAcc; split
  · exact ⟨rfl, rfl, fun _ _ => rfl⟩
  · exact ⟨dspOf_setBit _ _ _ _ _, setBit_mem _ _ _ _, fun k h => rd_setBit_other _ h _ _⟩
theorem fitElem_st (n : Nat) (r : Int) (s : State) : (fitElem n r s).2.dspOf n = s.dspOf n ∧ (fitElem n r s).2.mem = s.mem ∧ ∀ k, k ≠ DSP.FLAGS n → (fitElem n r s).2.rd k = s.rd k := by
  unfold fitElem; split
  · exact ⟨rfl, rfl, fun _ _ => rfl⟩
  · exact ⟨dspOf_setBit _ _ _ _ _, setBit_mem _ _ _ _, fun k h => rd_setBit_other _ h _ _⟩
/-- what a write of lanes keeps -/
structure WK (n : Nat) (s t : State) : Prop where
  pc : (t.dspOf n).pc = (s.dspOf n).pc
  rpt : (t.dspOf n).rpt = (s.dspOf n).rpt
  a : (t.dspOf n).a = (s.dspOf n).a
  mem : t.mem = s.mem
  rd : ∀ k, k ≠ DSP.FLAGS n → k ≠ DSP.BEXP n → t.rd k = s.rd k
theorem WK.trans {n : Nat} {a b c : State} (h : WK n a b) (g : WK n b c) : WK n a c :=
  ⟨g.pc.trans h.pc, g.rpt.trans h.rpt, g.a.trans h.a, g.mem.trans h.mem, fun k h1 h2 => (g.rd k h1 h2).trans (h.rd k h1 h2)⟩
def aStep (n a : Nat) (r : Nat → Int) (s : State) (l : Nat) : State :=
    let x := fitAcc n (r l) s
    x.2.modDsp n fun d => { d with acc := setReg d.acc (4 * a + l) x.1 }
theorem aStep_k (n a : Nat) (r : Nat → Int) (s : State) (l : Nat) : WK n s (aStep n a r s l) ∧
    ((aStep n a r s l).dspOf n).acc = setReg (s.dspOf n).acc (4 * a + l) (fitAcc n (r l) s).1 := by
  have h := fitAcc_st n (r l) s
  unfold aStep; dsimp only
  refine ⟨⟨?_, ?_, ?_, h.2.1, fun k h1 _ => h.2.2 k h1⟩, ?_⟩ <;> (rw [dspOf_modDsp]; dsimp only; rw [h.1])
theorem writeA_k (n a : Nat) (r : Nat → Int) (s : State) : WK n s (writeA n a r s) ∧ AccHolds n a r s (writeA n a r s) := by
  have e : writeA n a r s = aStep n a r (aStep n a r (aStep n a r (aStep n a r s 0) 1) 2) 3 := rfl
  have k0 := aStep_k n a r s 0
  generalize aStep n a r s 0 = s0 at e k0
  have k1 := aStep_k n a r s0 1
  generalize aStep n a r s0 1 = s1 at e k1
  have k2 := aStep_k n a r s1 2
  generalize aStep n a r s1 2 = s2 at e k2
  have k3 := aStep_k n a r s2 3
  generalize aStep n a r s2 3 = s3 at e k3
  rw [e]
  have m0 : ∀ {x y : State}, WK n x y → y.rd (DSP.MODE n) = x.rd (DSP.MODE n) := fun h => h.rd _ (by simp) (by simp)
  refine ⟨((k0.1.trans k1.1).trans k2.1).trans k3.1, fun l hl => ?_⟩
  rw [k3.2, k2.2, k1.2, k0.2]
  rw [fitAcc_eq (m0 k0.1), fitAcc_eq (m0 (k0.1.trans k1.1)), fitAcc_eq (m0 ((k0.1.trans k1.1).trans k2.1))]
  obtain rfl | rfl | rfl | rfl : l = 0 ∨ l = 1 ∨ l = 2 ∨ l = 3 := by omega
  · rw [setReg_other _ (by omega), setReg_other _ (by omega), setReg_other _ (by omega), setReg_same]
  · rw [setReg_other _ (by omega), setReg_other _ (by omega), setReg_same]
  · rw [setReg_other _ (by omega), setReg_same]
  · rw [setReg_same]
def vStep (n v : Nat) (block : Bool) (r : Nat → Int) (s : State) (l : Nat) : State :=
    let x := fitElem n (r l) s
    let s := x.2.modDsp n fun d => { d with v := setReg d.v (4 * v + l) x.1 }
    if block then s.wr (DSP.BEXP n) (min (s.rd (DSP.BEXP n)) (signCount x.1)) else s
theorem vStep_k (n v : Nat) (b : Bool) (r : Nat → Int) (s : State) (l : Nat) : WK n s (vStep n v b r s l) ∧
    ((vStep n v b r s l).dspOf n).v = setReg (s.dspOf n).v (4 * v + l) (fitElem n (r l) s).1 := by
  have h := fitElem_st n (r l) s
  unfold vStep; dsimp only
  split
  · refine ⟨⟨?_, ?_, ?_, h.2.1, fun k h1 h2 => (rd_wr_other _ h2 _).trans (h.2.2 k h1)⟩, ?_⟩ <;> (rw [dspOf_wr, dspOf_modDsp]; dsimp only; rw [h.1])
  · refine ⟨⟨?_, ?_, ?_, h.2.1, fun k h1 _ => h.2.2 k h1⟩, ?_⟩ <;> (rw [dspOf_modDsp]; dsimp only; rw [h.1])
theorem writeV_k (n a : Nat) (b : Bool) (r : Nat → Int) (s : State) : WK n s (writeV n a b r s) ∧ VecHolds n a r s (writeV n a b r s) := by
  have e : writeV n a b r s = vStep n a b r (vStep n a b r (vStep n a b r (vStep n a b r s 0) 1) 2) 3 := rfl
  have k0 := vStep_k n a b r s 0
  generalize vStep n a b r s 0 = s0 at e k0
  have k1 := vStep_k n a b r s0 1
  generalize vStep n a b r s0 1 = s1 at e k1
  have k2 := vStep_k n a b r s1 2
  generalize vStep n a b r s1 2 = s2 at e k2
  have k3 := vStep_k n a b r s2 3
  generalize vStep n a b r s2 3 = s3 at e k3
  rw [e]
  have m0 : ∀ {x y : State}, WK n x y → y.rd (DSP.MODE n) = x.rd (DSP.MODE n) := fun h => h.rd _ (by simp) (by simp)
  refine ⟨((k0.1.trans k1.1).trans k2.1).trans k3.1, fun l hl => ?_⟩
  rw [k3.2, k2.2, k1.2, k0.2]
  rw [fitElem_eq (m0 k0.1), fitElem_eq (m0 (k0.1.trans k1.1)), fitElem_eq (m0 ((k0.1.trans k1.1).trans k2.1))]
  obtain rfl | rfl | rfl | rfl : l = 0 ∨ l = 1 ∨ l = 2 ∨ l = 3 := by omega
  · rw [setReg_other _ (by omega), setReg_other _ (by omega), setReg_other _ (by omega), setReg_same]
  · rw [setReg_other _ (by omega), setReg_other _ (by omega), setReg_same]
  · rw [setReg_other _ (by omega), setReg_same]
  · rw [setReg_same]
theorem vreg_at (n v l : Nat) (s : State) : vreg n v l (dspAt n s) = vreg n v l s := by unfold vreg; rw [at_v]
theorem areg_at (n v l : Nat) (s : State) : areg n v l (dspAt n s) = areg n v l s := by unfold areg; rw [at_acc]
theorem mode_at {n : Nat} (hn : n < 32) (s : State) : (dspAt n s).rd (DSP.MODE n) = s.rd (DSP.MODE n) := at_rd (ndv (by omega) (by omega) (by omega) hn)
theorem accGives {n id w a : Nat} {s : State} {f : Nat → Nat → State → Int} {r : Nat → Int} (h : DspIssues n id w s) (ha : a = Dict.bitsOf w 55 54)
    (hr : (fun l => f w l (dspAt n s)) = r) : ∃ t, insnCommand n id (accAct n f) s = .next t ∧ DspIssued n ((s.dspOf n).pc + 1) s t ∧ AccHolds n a r s t := by
  subst ha hr
  refine givesI h ?_
  unfold accAct
  dsimp only
  have k := writeA_k n (Dict.bitsOf w 55 54) (fun l => f w l (dspAt n s)) (dspAt n s)
  generalize writeA n (Dict.bitsOf w 55 54) (fun l => f w l (dspAt n s)) (dspAt n s) = u at k
  refine ⟨issued ?_ ?_ ?_, fun l hl => ?_⟩
  · exact (k.1.rd _ (by simp) (by simp)).trans (at_pcreg _ _)
  · rw [dspOf_modDsp]; exact k.1.pc.trans (at_pc _ _)
  · rw [dspOf_modDsp]; exact k.1.rpt.trans (at_rpt _ _)
  · refine (congrArg (fun x => reg0 x.2.1 _) (retire_g n _ _ _ _)).trans ?_
    dsimp only; rw [dspOf_modDsp]; exact (k.2 l hl).trans (fitAcc_eq (mode_at h.1 s) _)
theorem vecHolds_retire {n v t c m : Nat} {r : Nat → Int} {s u : State} {f : DspRun → DspRun} (hf : ∀ d, (f d).v = d.v ∧ (f d).pc = d.pc ∧ (f d).rpt = d.rpt) (hn : n < 32)
    (k : WK n (dspAt n s) u ∧ VecHolds n v r (dspAt n s) u) : DspIssued n m s (retire n t c m (u.modDsp n f)) ∧ VecHolds n v r s (retire n t c m (u.modDsp n f)) := by
  refine ⟨issued ?_ ?_ ?_, fun l hl => ?_⟩
  · exact (k.1.rd _ (by simp) (by simp)).trans (at_pcreg _ _)
  · rw [dspOf_modDsp, (hf _).2.1]; exact k.1.pc.trans (at_pc _ _)
  · rw [dspOf_modDsp, (hf _).2.2]; exact k.1.rpt.trans (at_rpt _ _)
  · refine (congrArg (fun x => reg0 x.1 _) (retire_g n _ _ _ _)).trans ?_
    dsimp only; rw [dspOf_modDsp, (hf _).1]; exact (k.2 l hl).trans (fitElem_eq (mode_at hn s) _)
theorem vecGives {n id w v : Nat} {s : State} {b : Bool} {f : Nat → Nat → State → Int} {r : Nat → Int} (h : DspIssues n id w s) (ha : v = Dict.bitsOf w 55 52)
    (hr : (fun l => f w l (dspAt n s)) = r) : ∃ t, insnCommand n id (vecAct n b f) s = .next t ∧ DspIssued n ((s.dspOf n).pc + 1) s t ∧ VecHolds n v r s t := by
  subst ha hr
  refine givesI h ?_
  unfold vecAct
  exact vecHolds_retire (fun d => ⟨rfl, rfl, rfl⟩) h.1 (writeV_k _ _ _ _ _)
theorem vecShift_at (n w : Nat) (s : State) : vecShift n w (dspAt n s) = if w.testBit 43 then (s.dspOf n).bsh else Dict.bitsOf w 42 38 := by
  unfold vecShift; rw [at_bsh]
def SV (k : Nat) : Prop := k = DBG.EVFLAGS ∨ (∃ u, k = DBG.BRK_HITS u) ∨ (∃ u, k = DBG.BRK_STATE u) ∨ (∃ u, u < 64 ∧ k = SCR.CE u) ∨ (∃ u, u < 64 ∧ k = SCR.UE u) ∨ (∃ u, u < 64 ∧ k = SCR.EVFLAGS u) ∨ (∃ u, u < 64 ∧ k = SCR.COLLIDE u) ∨ ∃ u, k = DSP.STALLS u
theorem nsv {n i : Nat} (h : i < 256) (h8 : i ≠ 16) (hn : n < 32) : ¬ SV ((0xA100 + n) * 256 + i) := by
  rintro (e | ⟨u, e⟩ | ⟨u, e⟩ | ⟨u, hu, e⟩ | ⟨u, hu, e⟩ | ⟨u, hu, e⟩ | ⟨u, hu, e⟩ | ⟨u, e⟩) <;> simp only [DBG.EVFLAGS, DBG.BRK_HITS, DBG.BRK_STATE, SCR.CE, SCR.UE, SCR.EVFLAGS, SCR.COLLIDE, DSP.STALLS] at e <;> omega
theorem sv1 : ∀ u, SV (DBG.BRK_HITS u) := fun u => Or.inr (Or.inl ⟨u, rfl⟩)
theorem sv2 : ∀ u, SV (DBG.BRK_STATE u) := fun u => Or.inr (Or.inr (Or.inl ⟨u, rfl⟩))
theorem sv3 {u : Nat} (h : u < 64) : SV (SCR.CE u) := Or.inr (Or.inr (Or.inr (Or.inl ⟨u, h, rfl⟩)))
theorem sv4 {u : Nat} (h : u < 64) : SV (SCR.UE u) := Or.inr (Or.inr (Or.inr (Or.inr (Or.inl ⟨u, h, rfl⟩))))
theorem sv5 {u : Nat} (h : u < 64) : SV (SCR.EVFLAGS u) := Or.inr (Or.inr (Or.inr (Or.inr (Or.inr (Or.inl ⟨u, h, rfl⟩)))))
theorem sv6 {u : Nat} (h : u < 64) : SV (SCR.COLLIDE u) := Or.inr (Or.inr (Or.inr (Or.inr (Or.inr (Or.inr (Or.inl ⟨u, h, rfl⟩))))))
theorem sv7 : ∀ u, SV (DSP.STALLS u) := fun u => Or.inr (Or.inr (Or.inr (Or.inr (Or.inr (Or.inr (Or.inr ⟨u, rfl⟩))))))
theorem fr_trans' {V : Nat → Prop} {a b c : State} (h : Fr V True a b) (g : Fr V True b c) : Fr V True a c :=
  ⟨fun k hk => (g.1 k hk).trans (h.1 k hk), fun h => absurd trivial h⟩
theorem runSlot_sv {n : Nat} (t : Nat) (ecc : Ecc) (d0 : DspRun) (x : Nat × Nat) (r : SlotRun) : Fr SV True r.st (runSlot n t ecc d0 x r).st := by
  unfold runSlot
  extract_lets a b store p tc lo w s pt0 mine extra pt s' at' e0 e1
  have hb : b < 64 := Nat.mod_lt _ (by omega)
  have h1 : Fr SV True r.st s := brkMatch_fr _ _ _ _ _ _ _ (fr_refl _) sv1 sv2 (Or.inl rfl)
  have h2 : Fr SV True r.st pt.2 := by
    refine fr_trans' h1 (fr_trans' (b := pt0.2) (portTake_fr _ _ _ _ _ _ _ _ (fr_refl s) (sv6 hb)) ?_)
    show Fr SV True pt0.2 (if _ then _ else _)
    exact fr_ite (portStall_fr _ _ _ (fr_refl _) sv7) (fr_refl _)
  split
  · refine fr_trans' h2 ?_
    show Fr SV True pt.2 (if _ then _ else _)
    split
    · exact store_fr _ _ _ _ (fr_refl _) trivial
    · exact fr_refl _
  · have h3 : Fr SV True r.st s' := by
      refine fr_trans' h2 ?_
      show Fr SV True pt.2 (match ecc with
      | .ce => scrFlag b 0 (pt.2.bump 64 (SCR.CE b))
      | .ue | .multi => scrFlag b 1 (pt.2.bump 64 (SCR.UE b))
      | .clean => pt.2)
      split
      · exact scrFlag_fr _ _ _ (bump_fr _ _ _ (fr_refl _) (sv3 hb)) (sv5 hb)
      · exact scrFlag_fr _ _ _ (bump_fr _ _ _ (fr_refl _) (sv4 hb)) (sv5 hb)
      · exact scrFlag_fr _ _ _ (bump_fr _ _ _ (fr_refl _) (sv4 hb)) (sv5 hb)
      · exact fr_refl _
    split
    · exact h3
    · exact fr_trans' h3 (modDsp_fr _ _ _ (fr_refl _))
theorem md {n : Nat} {f : DspRun → DspRun} (s : State) : Fr SV True s (s.modDsp n f) := modDsp_fr _ _ _ (fr_refl _)
theorem dr (s : State) : Fr SV True s s.drawn := drawn_fr _ (fr_refl _)
theorem runSlots_sv (n t w : Nat) (ecc : List Ecc) (s : State) : Fr SV True s (runSlots n t w ecc s).st := by
  unfold runSlots
  extract_lets d0 pm
  split
  · exact fr_refl _
  · extract_lets r
    exact fr_trans' (runSlot_sv (n := n) _ _ _ _ _ : Fr SV True s r.st) (md _)
  · extract_lets bx by' same r r1 r2 s1 a s2 lo f0 f1 s3
    have h1 : Fr SV True s r2.st := fr_trans' (runSlot_sv (n := n) _ _ _ _ _ : Fr SV True s r.st) (runSlot_sv (n := n) _ _ _ _ r1)
    have hp : ∀ z u, Fr SV True u (pm z u) := fun z u => md _
    have h2 : Fr SV True s s1 := fr_trans' h1 (fr_trans' (hp _ _) (hp _ _))
    have h3 : Fr SV True s s2 := by
      show Fr SV True s (if _ then _ else _)
      repeat' split
      · exact fr_trans' h2 (hp _ _)
      · exact h2
      · exact fr_trans' (fr_trans' h2 (md _)) (dr _)
      · exact h2
    split
    · exact fr_trans' h3 (keepReg_fr _ _ _ _ _ (keepReg_fr _ _ _ _ _ (fr_refl _)))
    · split
      · refine fr_trans' ?_ (fr_trans' (dr s3) (dr _))
        show Fr SV True s (if _ then _ else _)
        split
        · exact fr_trans' h3 (md _)
        · exact h3
      · exact h3
theorem macGives {n id w : Nat} {s : State} {ecc : List Ecc} {f : Int → Int → Int} (h : DspIssues n id w s)
    (h1 : slotsOwned n w (dspAt n s) = true) (h2 : (runSlots n (dspIssueAt n s) w ecc (dspAt n s)).fault = 0) :
    ∃ t, insnCommand n id (macAct n ecc f) s = .next t ∧ DspIssued n ((s.dspOf n).pc + 1) s t ∧ t.mem = (runSlots n (dspIssueAt n s) w ecc (dspAt n s)).st.mem ∧
      AccHolds n (Dict.bitsOf w 57 56) (fun l => f (areg n (Dict.bitsOf w 57 56) l s) (macX n w (runSlots n (dspIssueAt n s) w ecc (dspAt n s)) s l * macY n w (runSlots n (dspIssueAt n s) w ecc (dspAt n s)) s l * 2)) s t := by
  refine givesI h ?_
  unfold macAct
  rw [if_neg (by simp [h1])]
  extract_lets b a r x y free st st1 st2
  rw [if_neg (by simp [r, h2])]
  have hx : ∀ l, x l = macX n w r s l := by intro l; show (if _ then _ else _) = _; unfold macX; rw [vreg_at]
  have hy : ∀ l, y l = macY n w r s l := by
    intro l; unfold macY
    show (match _ with | 1 => _ | 2 => _ | _ => _) = _
    simp only [vreg_at, hx]
    rfl
  have k : WK n r.st st ∧ AccHolds n a (fun l => f (areg n a l (dspAt n s)) (x l * y l * 2)) r.st st := writeA_k _ _ _ _
  have hkd := runSlots_kd n (dspIssueAt n s) w ecc (dspAt n s)
  have hsv := runSlots_sv n (dspIssueAt n s) w ecc (dspAt n s)
  have e0 : st2.rd (DSP.PC n) = st.rd (DSP.PC n) := by show st1.rd _ = _; show (if _ then _ else _ : State).rd _ = _; split <;> rfl
  have e1 : st1.dspOf n = st.dspOf n := by show (if _ then _ else _ : State).dspOf n = _; split <;> rfl
  have e2 : st2.dspOf n = { st.dspOf n with aReady := setReg (st.dspOf n).aReady a (max (reg0 (st.dspOf n).aReady a) ((if b 55 55 = 1 then r.arrive else dspIssueAt n s) + 3 * dspClk)) } := by
    show (State.modDsp _ _ _).dspOf n = _; rw [dspOf_modDsp, e1]
  have e3 : ∀ k, (stalled n k st2).dspOf n = st2.dspOf n := fun k => rfl
  have e4 : st2.mem = st.mem := by show st1.mem = _; show (if _ then _ else _ : State).mem = _; split <;> rfl
  have p1 : (r.st.dspOf n).pc = (s.dspOf n).pc := hkd.2.2.2.2.1.trans (at_pc _ _)
  have p2 : (r.st.dspOf n).rpt = (s.dspOf n).rpt := hkd.2.2.2.2.2.trans (at_rpt _ _)
  refine ⟨issued ?_ ?_ ?_, ?_, ?_⟩
  · unfold stalled; rw [rd_addTo, if_neg (by simp), e0, k.1.rd _ (by simp) (by simp), hsv.1 _ (nsv (by omega) (by omega) h.1)]; exact at_pcreg _ _
  · rw [e3, e2]; exact k.1.pc.trans p1
  · rw [e3, e2]; exact k.1.rpt.trans p2
  · rw [retire_mem]; show st2.mem = _; rw [e4]; exact k.1.mem
  · intro l hl
    refine (congrArg (fun x => reg0 x.2.1 _) (retire_g n _ _ _ _)).trans ?_
    dsimp only; rw [e3, e2]; dsimp only
    refine (k.2 l hl).trans ?_
    rw [fitAcc_eq ((hsv.1 _ (nsv (by omega) (by omega) h.1)).trans (mode_at h.1 s))]
    dsimp only
    rw [areg_at, hx, hy]
theorem like_dsp {u t : State} (h : Like u t) (n : Nat) : t.dspOf n = u.dspOf n := by unfold State.dspOf; rw [h.dsp]
theorem like_drd {u t : State} (h : Like u t) {n i : Nat} : t.rd ((0xA100 + n) * 256 + i) = u.rd ((0xA100 + n) * 256 + i) := h.rd _ (by show _ ≠ 0x300 + 0; omega)
theorem like_st {u t : State} (h : Like u t) {n : Nat} : t.rd (DSP.STATE n) = u.rd (DSP.STATE n) := h.rd _ (by show (0xA100 + n) * 256 + 0 ≠ 0x300 + 0; omega)
theorem inD {l : List Nat} {n : Nat} {s : State} (h : s.rd (DSP.STATE n) ∈ l) : (dspNotIn l n s).1 = false := by
  unfold dspNotIn; simp only [List.contains_iff_mem, h, Bool.not_eq_false', decide_true]
theorem schedFree_dsp (n : Nat) (s : State) : ((schedFree true n s).dspOf n).prior = (s.dspOf n).prior ∧ ∀ k, (schedFree true n s).rd k = s.rd k := by
  refine ⟨congrArg (·.2.2.2.2.2.2.2.2.2.1) (schedFree_keepsDspIssue (nn := n) (s0 := s) true n s rfl), fun k => ?_⟩
  exact (schedFree_fr (V := fun _ => False) (M := True) true n s (fr_refl s)).1 k not_false
theorem freeze_rd {n t k : Nat} {s : State} (h : k ≠ DSP.CYCLES n) (h' : k ≠ DSP.WDOG_LEFT n) : (freezeDsp n t s).rd k = s.rd k :=
  (freezeDsp_fr (V := fun k => k = DSP.CYCLES n ∨ k = DSP.WDOG_LEFT n) (M := True) n t s (fr_refl s) (by simp) (by simp)).1 k (by rintro (e | e); exacts [h e, h' e])
theorem fault_facts (n t c p : Nat) (s : State) : (dspFault n t c p s).rd (DSP.STATE n) = 5 ∧ (dspFault n t c p s).rd (DSP.FAULT n) = c ∧ (dspFault n t c p s).rd (DSP.FAULT_PC n) = p := by
  unfold dspFault
  refine ⟨stop_state _ _ _ _, ?_, ?_⟩
  · rw [stop_rd (by simp) (by simp) (by simp) (by simp) (by simp), rd_wr_other _ (by simp)]; exact rd_wr_same _ _ _
  · rw [stop_rd (by simp) (by simp) (by simp) (by simp) (by simp)]; exact rd_wr_same _ _ _
theorem freeze_pc (n t : Nat) (s : State) : ((freezeDsp n t s).dspOf n).pc = (s.dspOf n).pc := by
  unfold freezeDsp; dsimp only; split
  · rw [dspOf_modDsp]; rfl
  · rfl
theorem nble {a b : Nat} (h : b < a) : Nat.ble a b = false := by
  rw [Bool.eq_false_iff]; intro h'; have := Nat.le_of_ble_eq_true h'; omega
/-- the moves after a pump: as many, and the head names the same move -/
def MvLike (a b : Mv) : Prop := b.k = a.k ∧ b.out = a.out ∧ b.areg = a.areg ∧ b.len = a.len
def MovesLike (a b : List Mv) : Prop := match a with | [] => b = [] | m :: r => ∃ m', b = m' :: r ∧ MvLike m m'
theorem ml_refl (a : List Mv) : MovesLike a a := by cases a <;> simp [MovesLike, MvLike]
theorem ml_trans {a b c : List Mv} (h : MovesLike a b) (g : MovesLike b c) : MovesLike a c := by
  cases a with
  | nil => simp only [MovesLike] at h; subst h; exact g
  | cons m r =>
    obtain ⟨m', rfl, h1, h2, h3, h4⟩ := h
    obtain ⟨m'', rfl, g1, g2, g3, g4⟩ := g
    exact ⟨m'', rfl, g1.trans h1, g2.trans h2, g3.trans h3, g4.trans h4⟩
theorem modHead_ml {n : Nat} {f : Mv → Mv} (hf : ∀ m, MvLike m (f m)) (s : State) : MovesLike (s.dspOf n).moves ((modHead n f s).dspOf n).moves := by
  unfold modHead; rw [dspOf_modDsp]; dsimp only
  cases (s.dspOf n).moves with
  | nil => rfl
  | cons m r => exact ⟨_, rfl, hf m⟩
theorem meshSend_dsp (r : MeshReq) (s : State) : (meshSend r s).dsp = s.dsp := by unfold meshSend; repeat' first | rfl | split
theorem moveSend_dsp (n : Nat) (r : MeshReq) (s : State) : (moveSend n r s).dspOf n = s.dspOf n := by
  unfold moveSend State.dspOf; rw [meshSend_dsp]; rfl
/-- The moves of engine n, and which ports are being handed over, are the same. -/
def MK (n : Nat) (s t : State) : Prop := (t.dspOf n).moves = (s.dspOf n).moves ∧ ∀ j, (t.bankOf j).leaving = (s.bankOf j).leaving
theorem mk_refl (n : Nat) (s : State) : MK n s s := ⟨rfl, fun _ => rfl⟩
theorem MK.trans {n : Nat} {a b c : State} (h : MK n a b) (g : MK n b c) : MK n a c := ⟨g.1.trans h.1, fun j => (g.2 j).trans (h.2 j)⟩
theorem mk_bank {n b : Nat} {f : BankS → BankS} (h : ∀ x, (f x).leaving = x.leaving) (s : State) : MK n s (s.modBank b f) := by
  refine ⟨rfl, fun j => ?_⟩
  by_cases e : j = b
  · subst e; rw [bankOf_modBank]; exact h _
  · rw [bankOf_modBank_other _ e]
theorem mk_dsp {n k : Nat} {f : DspRun → DspRun} (h : ∀ x, (f x).moves = x.moves) (s : State) : MK n s (s.modDsp k f) := by
  refine ⟨?_, fun j => rfl⟩
  by_cases e : n = k
  · subst e; rw [dspOf_modDsp]; exact h _
  · rw [dspOf_modDsp_other _ e]
theorem mk_bump (n w k : Nat) (s : State) : MK n s (s.bump w k) := ⟨rfl, fun _ => rfl⟩
theorem portTake_mk (n b p c rank : Nat) (wr : Bool) (w v : Nat) (s : State) : MK n s (portTake b p c rank wr w v s).2 := by
  unfold portTake
  extract_lets x m keep
  split
  · rename_i u _ _
    exact mk_bank (f := fun y => { y with last := u.1 }) (fun _ => rfl) s
  · exact (mk_bump n 64 (SCR.COLLIDE b) s).trans (mk_bank (f := fun y => { y with last := _, yielded := some (_, c) }) (fun _ => rfl) _)
theorem portStall_mk (n b p : Nat) (s : State) : MK n s (portStall b p s) := by
  unfold portStall
  extract_lets k
  split
  · exact MK.trans (b := s.addTo 64 (DSP.STALLS k) 1) ⟨rfl, fun _ => rfl⟩ (mk_dsp (f := fun d => { d with due := d.due + 10240 }) (fun _ => rfl) _)
  · exact mk_refl _ _
theorem moverTake_mk (k n b : Nat) (wr : Bool) (w v : Nat) (s : State) : MK k s (moverTake n b wr w v s).2 := by
  unfold moverTake
  extract_lets p pt
  refine (portTake_mk k _ _ _ _ _ _ _ s : MK k s pt.2).trans ?_
  dsimp only
  split
  · exact portStall_mk _ _ _ _
  · exact mk_refl _ _
theorem scrFlag_mk (n b k : Nat) (s : State) : MK n s (scrFlag b k s) := by
  unfold scrFlag; exact ⟨by rw [dspOf_flag], fun j => by rw [bankOf_flag]⟩
theorem moveErr_mk (n : Nat) (ue : Bool) (s : State) : MK n s (moveErr n ue s) := by
  unfold moveErr; exact ⟨by rw [dspOf_modDsp], fun _ => rfl⟩
theorem moveWord_mk (n : Nat) (m : Mv) (x : MeshReq × State) (i : Nat) : MK n x.2 (moveWord n m x i).2 := by
  unfold moveWord
  extract_lets b pt put
  have h : MK n x.2 pt.2 := moverTake_mk _ _ _ _ _ _ _
  split
  · exact h
  · exact h.trans ((mk_bump n 64 (SCR.CE b) pt.2).trans (scrFlag_mk _ _ _ _))
  · exact h.trans (((MK.trans (b := pt.2.drawn) ⟨rfl, fun _ => rfl⟩ (mk_bump n 64 (SCR.UE b) _)).trans (scrFlag_mk _ _ _ _)).trans
      (moveErr_mk _ _ _))
theorem moveWords_mk (n : Nat) (m : Mv) : ∀ (l : List Nat) (x : MeshReq × State), MK n x.2 (l.foldl (moveWord n m) x).2
  | [], _ => mk_refl _ _
  | i :: l, x => by rw [List.foldl_cons]; exact (moveWord_mk n m x i).trans (moveWords_mk n m l _)
theorem moveNext_mk (n : Nat) (m : Mv) (s : State) : MK n s (moveNext n m s).2 := by
  unfold moveNext
  extract_lets r
  split
  · exact moveWords_mk n m _ _
  · exact mk_refl _ _
theorem moveNext_moves (n : Nat) (m : Mv) (s : State) : ((moveNext n m s).2.dspOf n).moves = (s.dspOf n).moves := (moveNext_mk n m s).1
theorem portFor_eq {n b i : Nat} {s u : State} (h0 : u.rd (SCR.OWNER b 0) = s.rd (SCR.OWNER b 0)) (h1 : u.rd (SCR.OWNER b 1) = s.rd (SCR.OWNER b 1)) : portFor n b i u = portFor n b i s := by
  unfold portFor; rw [h0, h1]
theorem movePort_eq {n b : Nat} {s u : State} (h0 : u.rd (SCR.OWNER b 0) = s.rd (SCR.OWNER b 0)) (h1 : u.rd (SCR.OWNER b 1) = s.rd (SCR.OWNER b 1))
    (hl : (u.bankOf b).leaving = (s.bankOf b).leaving) : movePort n b u = movePort n b s := by
  unfold movePort; rw [hl, portFor_eq h0 h1]
theorem meshSend_banks (r : MeshReq) (s : State) : (meshSend r s).banks = s.banks := by unfold meshSend; repeat' first | rfl | split
theorem issueLeaving {n j : Nat} {r : MeshReq} {m : Mv} {f : Mv → Mv} {s : State} :
    ((moveSend n r (modHead n f (moveNext n m s).2)).bankOf j).leaving = (s.bankOf j).leaving := by
  refine Eq.trans ?_ ((moveNext_mk n m s).2 j)
  unfold moveSend modHead State.bankOf; rw [meshSend_banks]; rfl
def IV (n k : Nat) : Prop := k = DSP.MOVE_INFLIGHT n ∨ k = DSP.MOVE_ISSUED n ∨ (∃ u, k = SCR.CE u) ∨ (∃ u, k = SCR.EVFLAGS u) ∨ (∃ u, k = SCR.UE u) ∨
  (∃ u, k = SCR.COLLIDE u) ∨ ∃ u, k = DSP.STALLS u
theorem issueOwner {n b k : Nat} {r : MeshReq} {m : Mv} {f : Mv → Mv} {s : State} (hk : k < 2) :
    (moveSend n r (modHead n f (moveNext n m s).2)).rd (SCR.OWNER b k) = s.rd (SCR.OWNER b k) := by
  refine (moveSend_fr (V := IV n) (M := True) n r _ (modHead_fr n f _ (moveNext_fr n m s (fr_refl s) ?_ ?_ ?_ ?_ ?_)) ?_ ?_).1 _ ?_ <;> (try intro u)
  · exact .inr (.inr (.inl ⟨u, rfl⟩))
  · exact .inr (.inr (.inr (.inl ⟨u, rfl⟩)))
  · exact .inr (.inr (.inr (.inr (.inl ⟨u, rfl⟩))))
  · exact .inr (.inr (.inr (.inr (.inr (.inl ⟨u, rfl⟩)))))
  · exact .inr (.inr (.inr (.inr (.inr (.inr ⟨u, rfl⟩)))))
  · exact .inl rfl
  · exact .inr (.inl rfl)
  · rcases u with e | e | ⟨u, e⟩ | ⟨u, e⟩ | ⟨u, e⟩ | ⟨u, e⟩ | ⟨u, e⟩ <;>
      simp only [SCR.OWNER, SCR.CE, SCR.UE, SCR.EVFLAGS, SCR.COLLIDE, DSP.STALLS, DSP.MOVE_INFLIGHT, DSP.MOVE_ISSUED] at e <;> omega
/-- The head move, if any, has its port. -/
def HasPort (n : Nat) (s : State) : Prop := ∀ m r, (s.dspOf n).moves = m :: r → portGone n m s = false
theorem moveIssue_ml (n : Nat) : ∀ k (s : State), HasPort n s → MovesLike (s.dspOf n).moves ((moveIssue n k s).dspOf n).moves
  | 0, s, _ => ml_refl _
  | k + 1, s, hp => by
    unfold moveIssue
    split
    · rename_i m rest hm
      have hg := hp _ _ hm
      split
      · rw [if_neg (by rw [hg]; decide)]
        split
        · exact ml_refl _
        dsimp only
        refine ml_trans ?_ (moveIssue_ml n k _ ?_)
        · rw [moveSend_dsp]
          have := modHead_ml (n := n) (f := fun m' => { m' with issued := m'.issued + (moveNext n m s).1.len, wait := m'.wait ++ [((moveNext n m s).1, m'.issued)] }) (by intro m; exact ⟨rfl, rfl, rfl, rfl⟩) (moveNext n m s).2
          rw [moveNext_moves] at this
          exact this
        · intro m' r' h'
          rw [moveSend_dsp] at h'
          unfold modHead at h'
          rw [dspOf_modDsp] at h'
          dsimp only at h'
          rw [moveNext_moves, hm] at h'
          obtain ⟨rfl, rfl⟩ := List.cons.inj h'
          unfold portGone at hg ⊢
          rw [movePort_eq (issueOwner (by omega)) (issueOwner (by omega)) issueLeaving]
          exact hg
      · exact ml_refl _
    · exact ml_refl _
/-- The head move, if any, has its port now, and will have it where its address register points. -/
def KeepsPort (n : Nat) (s : State) : Prop := ∀ m r, (s.dspOf n).moves = m :: r → portGone n m s = false ∧
  portGone n { m with elem := reg0 (s.dspOf n).a m.areg } s = false
theorem portFor_gone {n : Nat} {m : Mv} {s u : State} (h : u.reg = s.reg) (hb : u.banks = s.banks) : portGone n m u = portGone n m s := by
  unfold portGone
  rw [movePort_eq (s := s)]
  · unfold State.rd; rw [h]
  · unfold State.rd; rw [h]
  · unfold State.bankOf; rw [hb]
theorem gone_setBit (n : Nat) (m : Mv) (k b : Nat) (v : Bool) (s : State) : portGone n m (s.setBit (DSP.FLAGS k) b v) = portGone n m s := by
  unfold portGone
  rw [movePort_eq (s := s)]
  · exact rd_setBit_other _ (by simp only [SCR.OWNER, DSP.FLAGS]; omega) _ _
  · exact rd_setBit_other _ (by simp only [SCR.OWNER, DSP.FLAGS]; omega) _ _
  · rw [bankOf_setBit]
theorem movePump_ml (n : Nat) (s : State) (hp : KeepsPort n s) : MovesLike (s.dspOf n).moves ((movePump n s).dspOf n).moves := by
  unfold movePump
  split
  · rename_i m rest hm
    have hg := hp _ _ hm
    split
    · rw [dspOf_setBit]; exact ml_refl _
    · dsimp only
      split
      · rw [dspOf_setBit]; exact ml_refl _
      · refine ml_trans ?_ (moveIssue_ml n 16 _ ?_)
        · split
          · have := modHead_ml (n := n) (f := fun m => { m with elem := reg0 ((s.setBit (DSP.FLAGS n) 4 false).dspOf n).a m.areg }) (fun m => ⟨rfl, rfl, rfl, rfl⟩) (s.setBit (DSP.FLAGS n) 4 false)
            rw [dspOf_setBit] at this
            refine Eq.mp ?_ this
            congr 2
            unfold modHead
            rw [dspOf_modDsp, dspOf_modDsp, dspOf_setBit]
          · rw [dspOf_setBit]; exact ml_refl _
        · intro m' r' h'
          split at h'
          · unfold modHead at h' ⊢
            rw [dspOf_modDsp, dspOf_setBit] at h'
            dsimp only at h'
            rw [hm] at h'
            obtain ⟨rfl, rfl⟩ := List.cons.inj h'
            rename_i hz
            rw [if_pos hz]
            refine Eq.trans (portFor_gone (s := s.setBit (DSP.FLAGS n) 4 false) rfl rfl) ?_
            rw [gone_setBit]; exact hg.2
          · rename_i hz
            rw [if_neg hz]
            rw [dspOf_setBit, hm] at h'
            obtain ⟨rfl, rfl⟩ := List.cons.inj h'
            rw [gone_setBit]; exact hg.1
  · rw [dspOf_setBit]; exact ml_refl _
def MVV (k : Nat) : Prop := ∃ n, k = DSP.FLAGS n ∨ k = DSP.MOVE_INFLIGHT n ∨ k = DSP.MOVE_ISSUED n
set_option Elab.async false in
theorem pump_g (n : Nat) (s : State) : (fun e : DspRun => (e.v, e.acc, e.a, e.o, e.c, e.bsh, e.pc)) ((movePump n s).dspOf n) = (fun e : DspRun => (e.v, e.acc, e.a, e.o, e.c, e.bsh, e.pc)) (s.dspOf n) :=
  movePump_keepsDspMoves (nn := n) (s0 := s) n s rfl
end Sys2Proof.Laws.CompleteDsp
end

