-- ==== Sys2Proof/Laws/KeepsFacet.lean ====
section
/-! SUPPORT. Functions g of one value of State.facetOf: what the operations it lists leave unchanged. -/
namespace Sys2Proof.Laws
open Sys2Proof.Machine
section
variable {α : Type} {g : FacetS → α} {nn : Nat} {s0 : State}
def KeepsFacet (g : FacetS → α) (nn : Nat) (s0 s : State) : Prop := g (s.facetOf nn) = g (s0.facetOf nn)
theorem keepsFacet_ite {c : Prop} [Decidable c] {x y : State} (hx : KeepsFacet g nn s0 x) (hy : KeepsFacet g nn s0 y) : KeepsFacet g nn s0 (if c then x else y) := by split <;> assumption
theorem keepsFacet_foldl {β : Type} {f : State → β → State} (hf : ∀ s x, KeepsFacet g nn s0 s → KeepsFacet g nn s0 (f s x)) :
    ∀ {l : List β} {s : State}, KeepsFacet g nn s0 s → KeepsFacet g nn s0 (l.foldl f s)
  | [], _, h => h
  | x :: l, s, h => keepsFacet_foldl (l := l) hf (hf s x h)
theorem keepsFacet_cut {s : State} {p : Prop} (h : KeepsFacet g nn s0 s) (f : KeepsFacet g nn s0 s → p) : p := f h
theorem modFacet_keepsFacet (m : Nat) (f : FacetS → FacetS) (s : State) (h : KeepsFacet g nn s0 s) (hf : ∀ e, g (f e) = g e) : KeepsFacet g nn s0 (s.modFacet m f) := by
  unfold KeepsFacet at *
  by_cases e : nn = m
  · subst e; rw [facetOf_modFacet, hf, h]
  · rw [facetOf_modFacet_other s e, h]
theorem wr_keepsFacet (k v : Nat) (s : State) (h : KeepsFacet g nn s0 s) : KeepsFacet g nn s0 (s.wr k v) := h
theorem keepsFacet_mk_iff {s : State} {x_now : Nat} {x_reg : Tab Nat} {x_mem : List Host.Cell} {x_evq : List (Nat × Nat)} {x_freeCtr : Nat} {x_pending : List Instr} {x_hdi : HdiS} {x_clk : ClockS} {x_sched : List Sched} {x_ve : Tab VeRun} {x_outCh : Tab OutCh} {x_inCh : Tab InCh} {x_fcp : Tab FcpS} {x_sq : Tab SqS} {x_brk : Tab BrkS} {x_tgt : Tab TgtS} {x_groupAt : List (Nat × Nat)} {x_dsp : Tab DspRun} {x_focus : FocusS} {x_trim : TrimS} {x_reqs : List MeshReq} {x_resps : List MeshResp} {x_held : List PortReq} {x_steal : List PortReq} {x_labels : List (MeshReq × Nat)} {x_drain : Option Drain} {x_trace : List Nat} {x_dmc : Tab DmcS} {x_autoTrain : Bool} {x_crh : CrhS} {x_cfg : CfgS} {x_fresh : List (Nat × Nat × Nat)} {x_cleared : List (Nat × Nat × Nat)} {x_sup : SupS} {x_dbg : DbgS} {x_tmu : TmuS} {x_lanes : Tab LaneS} {x_cells : Tab (Option CellS)} {x_cellCfg : Tab CellCfg} {x_sels : Tab Nat} {x_tracks : Tab Nat} {x_upsets : List Upset} {x_fev : List (Nat × Nat)} {x_panes : Tab PaneS} {x_banks : Tab BankS} {x_pins : PinsS} :
    KeepsFacet g nn s0 ⟨x_now, x_reg, x_mem, x_evq, x_freeCtr, x_pending, x_hdi, x_clk, x_sched, x_ve, x_outCh, x_inCh, x_fcp, x_sq, x_brk, x_tgt, x_groupAt, x_dsp, x_focus, x_trim, x_reqs, x_resps, x_held, x_steal, x_labels, x_drain, x_trace, x_dmc, x_autoTrain, x_crh, x_cfg, x_fresh, x_cleared, x_sup, x_dbg, x_tmu, x_lanes, x_cells, x_cellCfg, x_sels, x_tracks, x_upsets, s.facets, x_fev, x_panes, x_banks, x_pins⟩ ↔ KeepsFacet g nn s0 s := Iff.rfl
theorem raiseAt_keepsFacet (s : State) (t e : Nat) (hs : KeepsFacet (fun e : FacetS => e) nn s0 s) :
    KeepsFacet (fun e : FacetS => e) nn s0 (State.raiseAt s t e) := by
  unfold State.raiseAt
  repeat' first
    | with_reducible intro _
    | with_reducible assumption
    | simp only [↓keepsFacet_mk_iff]
    | with_reducible apply keepsFacet_ite
    | (extract_lets x; first | (with_reducible refine keepsFacet_cut (s := x) ?_ ?_; (on_goal 2 => clear_value x); (on_goal 1 => unfold x)) | (subst x))
    | split

theorem raise_keepsFacet (s : State) (e : Nat) (hs : KeepsFacet (fun e : FacetS => e) nn s0 s) :
    KeepsFacet (fun e : FacetS => e) nn s0 (State.raise s e) := by
  unfold State.raise
  repeat' first
    | with_reducible intro _
    | with_reducible assumption
    | with_reducible apply raiseAt_keepsFacet
    | simp only [↓keepsFacet_mk_iff]
    | with_reducible apply keepsFacet_ite
    | (extract_lets x; first | (with_reducible refine keepsFacet_cut (s := x) ?_ ?_; (on_goal 2 => clear_value x); (on_goal 1 => unfold x)) | (subst x))
    | split

theorem modVe_keepsFacet (s : State) (n : Nat) (f : VeRun → VeRun) (hs : KeepsFacet (fun e : FacetS => e) nn s0 s) :
    KeepsFacet (fun e : FacetS => e) nn s0 (State.modVe s n f) := by
  unfold State.modVe
  repeat' first
    | with_reducible intro _
    | with_reducible assumption
    | simp only [↓keepsFacet_mk_iff]

theorem modMirror_keepsFacet (s : State) (f : MirrorS → MirrorS) (hs : KeepsFacet (fun e : FacetS => e) nn s0 s) :
    KeepsFacet (fun e : FacetS => e) nn s0 (State.modMirror s f) := by
  unfold State.modMirror
  repeat' first
    | with_reducible intro _
    | with_reducible assumption
    | simp only [↓keepsFacet_mk_iff]

theorem meshSend_keepsFacet (r : MeshReq) (s : State) (hs : KeepsFacet (fun e : FacetS => e) nn s0 s) :
    KeepsFacet (fun e : FacetS => e) nn s0 (meshSend r s) := by
  unfold meshSend
  repeat' first
    | with_reducible intro _
    | with_reducible assumption
    | simp only [↓keepsFacet_mk_iff]
    | with_reducible apply keepsFacet_ite
    | split
end

theorem restartLease_keepsFacet (s : State) (hs : KeepsFacet (fun e : FacetS => e) nn s0 s) :
    KeepsFacet (fun e : FacetS => e) nn s0 (restartLease s) := by
  unfold restartLease
  repeat' first
    | with_reducible intro _
    | with_reducible assumption
    | with_reducible apply modMirror_keepsFacet
    | simp only [↓keepsFacet_mk_iff]

theorem barrierLeft_keepsFacet (n at' : Nat) (s : State) (hs : KeepsFacet (fun e : FacetS => e) nn s0 s) :
    KeepsFacet (fun e : FacetS => e) nn s0 (barrierLeft n at' s) := by
  unfold barrierLeft
  repeat' first
    | with_reducible intro _
    | with_reducible assumption
    | with_reducible apply modVe_keepsFacet
    | simp only [↓keepsFacet_mk_iff]
    | with_reducible apply keepsFacet_ite
    | with_reducible apply keepsFacet_foldl
    | split

theorem disarmStarts_keepsFacet (s : State) (hs : KeepsFacet (fun e : FacetS => e) nn s0 s) :
    KeepsFacet (fun e : FacetS => e) nn s0 (disarmStarts s) := by
  unfold disarmStarts
  repeat' first
    | with_reducible intro _
    | with_reducible assumption
    | with_reducible apply wr_keepsFacet
    | with_reducible apply modVe_keepsFacet
    | with_reducible apply barrierLeft_keepsFacet
    | simp only [↓keepsFacet_mk_iff]
    | with_reducible apply keepsFacet_ite
    | with_reducible apply keepsFacet_foldl
    | (extract_lets x; first | (with_reducible refine keepsFacet_cut (s := x) ?_ ?_; (on_goal 2 => clear_value x); (on_goal 1 => unfold x)) | (subst x))
    | split

theorem disarmTo_keepsFacet (c : Nat) (s : State) (hs : KeepsFacet (fun e : FacetS => e) nn s0 s) :
    KeepsFacet (fun e : FacetS => e) nn s0 (disarmTo c s) := by
  unfold disarmTo
  repeat' first
    | with_reducible intro _
    | with_reducible assumption
    | with_reducible apply restartLease_keepsFacet
    | with_reducible apply disarmStarts_keepsFacet
    | with_reducible apply wr_keepsFacet
    | with_reducible apply modMirror_keepsFacet
    | simp only [↓keepsFacet_mk_iff]

theorem reopen_keepsFacet (s : State) (hs : KeepsFacet (fun e : FacetS => e) nn s0 s) :
    KeepsFacet (fun e : FacetS => e) nn s0 (reopen s) := by
  unfold reopen
  repeat' first
    | with_reducible intro _
    | with_reducible assumption
    | with_reducible apply disarmTo_keepsFacet
    | with_reducible apply wr_keepsFacet
    | with_reducible apply raise_keepsFacet
    | with_reducible apply keepsFacet_ite
    | (extract_lets x; first | (with_reducible refine keepsFacet_cut (s := x) ?_ ?_; (on_goal 2 => clear_value x); (on_goal 1 => unfold x)) | (subst x))
    | split

theorem reopenIf_keepsFacet (c : Bool) (s : State) (hs : KeepsFacet (fun e : FacetS => e) nn s0 s) :
    KeepsFacet (fun e : FacetS => e) nn s0 (reopenIf c s) := by
  unfold reopenIf
  repeat' first
    | with_reducible intro _
    | with_reducible assumption
    | with_reducible apply reopen_keepsFacet
    | with_reducible apply keepsFacet_ite
    | split

theorem clearCells_keepsFacet (f : Nat) (s : State) (hs : KeepsFacet (fun e : FacetS => e) nn s0 s) :
    KeepsFacet (fun e : FacetS => e) nn s0 (clearCells f s) := by
  unfold clearCells
  repeat' first
    | with_reducible intro _
    | with_reducible assumption
    | simp only [↓keepsFacet_mk_iff]

set_option Elab.async false in
theorem facetChanged_keepsFacet (f : Nat) (s : State) (hs : KeepsFacet (fun e : FacetS => e) nn s0 s) :
    KeepsFacet (fun e : FacetS => e) nn s0 (facetChanged f s) := by
  unfold facetChanged
  repeat' first
    | with_reducible intro _
    | with_reducible assumption
    | with_reducible apply reopenIf_keepsFacet

end Sys2Proof.Laws
end

