-- ==== Sys2Proof/Laws/CompleteFab.lean ====
section
/-! SUPPORT. Cells and facets: facts that proofs about their commands cite. -/
namespace Sys2Proof.Laws.CompleteFab
open Sys2Proof.Machine Common
theorem br (x : W16) : bitReverse x = x.reverse := by
  unfold bitReverse
  apply BitVec.eq_of_getLsbD_eq
  intro i hi
  rw [BitVec.getLsbD_reverse]
  have e : ∀ (l : List Nat) (r : W16), (∀ j ∈ l, j < 16) → (l.foldl (fun r j => if x.getLsbD j then r ||| (1#16 <<< (15 - j)) else r) r).getLsbD i = (r.getLsbD i || l.any fun j => x.getLsbD j && decide (15 - j = i)) := by
    intro l
    induction l with
    | nil => intro r _; simp
    | cons a l ih =>
      intro r h
      rw [List.foldl_cons, ih _ (fun j hj => h j (by simp [hj])), List.any_cons]
      have ha := h a (by simp)
      split
      · rename_i hx
        rw [BitVec.getLsbD_or, hx]
        have : (1#16 <<< (15 - a)).getLsbD i = decide (15 - a = i) := by
          interval_cases a <;> interval_cases i <;> rfl
        rw [this]; simp [Bool.or_assoc]
      · rename_i hx
        simp [hx]
  rw [e _ _ (by simp)]
  simp [BitVec.getMsbD]
  interval_cases i <;> simp [List.range, List.range.loop]
theorem ifield_lt (w : BitVec 32) : ifield w 31 27 < 32 := by unfold ifield Dict.bitsOf; simp; omega
theorem cell_done {col row op lo hi : Nat} {s : State} {i : Instr} {g : W16 → W16 → Bool → W16 → W16 × Bool} (h : CellRuns col row op s)
    (he : exec i s = cellCommand col row lo hi s) (ho : lo ≤ op ∧ op ≤ hi)
    (hg : ∀ x y c k, cellOp op x y c k = g x y c k) : Gives i s (CellGives col row g s) := by
  obtain ⟨h1, h2, h3, h4, h5, h6, h7⟩ := h
  unfold Gives
  rw [he]
  unfold cellCommand
  rw [if_pos ⟨h1, h2⟩]
  dsimp only
  rw [if_pos ⟨h3, h4, h5, Or.inr (by rw [h7]; exact ho)⟩, h6]
  simp only [Bool.false_eq_true, if_false]
  refine ⟨_, rfl, ?_, rfl, rfl, ?_⟩
  · unfold regsNow
    dsimp only
    rw [get_set_same, ← hg, ← h7]
    dsimp only
    unfold cellNext cellAfter
    dsimp only
    congr 1
    simp
  · intro k hk
    unfold regsNow
    dsimp only
    rw [get_set_other _ hk]; rfl
theorem cw (c : Bool) : BitVec.ofNat 16 (if c then 1 else 0) = carryWord c := by cases c <;> rfl
theorem cwn (c : Bool) : (if c then 1 else 0) = (carryWord c).toNat := by cases c <;> rfl
theorem like_facet {u t : State} (h : Like u t) (n : Nat) : t.facetOf n = u.facetOf n := by unfold State.facetOf; rw [h.facets]
theorem like_rd {u t : State} (h : Like u t) {k : Nat} (hk : k ≠ 0x300) : t.rd k = u.rd k := h.rd k hk
set_option Elab.async false in
theorem fc_rel (f : Nat) (s : State) : (facetChanged f s).rd FAB.RELEASED = s.rd FAB.RELEASED := by
  refine (facetChanged_fr (V := fun k => k ≠ FAB.RELEASED) (M := True) f s (fr_refl s) ?_ ?_ ?_).1 _ (by simp) <;> (intros; simp only [FAB.RELEASED, HDI.APPLY_OUTCOME, HDI.MIRROR_STATE, VEN.STATE]; omega)
end Sys2Proof.Laws.CompleteFab
end

