-- ==== Sys2Proof/Laws/KeepsFcp.lean ====
section
/-! SUPPORT. Functions g of one value of State.fcpOf: what the operations it lists leave unchanged. -/
set_option linter.unreachableTactic false
set_option linter.unusedSimpArgs false
set_option linter.unusedTactic false
namespace Sys2Proof.Laws
open Sys2Proof.Machine
section
variable {α : Type} {g : FcpS → α} {nn : Nat} {s0 : State}
def KeepsFcp (g : FcpS → α) (nn : Nat) (s0 s : State) : Prop := g (s.fcpOf nn) = g (s0.fcpOf nn)
theorem keepsFcp_ite {c : Prop} [Decidable c] {x y : State} (hx : KeepsFcp g nn s0 x) (hy : KeepsFcp g nn s0 y) : KeepsFcp g nn s0 (if c then x else y) := by split <;> assumption
theorem keepsFcp_foldl {β : Type} {f : State → β → State} (hf : ∀ s x, KeepsFcp g nn s0 s → KeepsFcp g nn s0 (f s x)) :
    ∀ {l : List β} {s : State}, KeepsFcp g nn s0 s → KeepsFcp g nn s0 (l.foldl f s)
  | [], _, h => h
  | x :: l, s, h => keepsFcp_foldl (l := l) hf (hf s x h)
theorem keepsFcp_cut {s : State} {p : Prop} (h : KeepsFcp g nn s0 s) (f : KeepsFcp g nn s0 s → p) : p := f h
theorem modFcp_keepsFcp (m : Nat) (f : FcpS → FcpS) (s : State) (h : KeepsFcp g nn s0 s) (hf : ∀ e, g (f e) = g e) : KeepsFcp g nn s0 (s.modFcp m f) := by
  unfold KeepsFcp at *
  by_cases e : nn = m
  · subst e; rw [fcpOf_modFcp, hf, h]
  · rw [fcpOf_modFcp_other s e, h]
theorem wr_keepsFcp (k v : Nat) (s : State) (h : KeepsFcp g nn s0 s) : KeepsFcp g nn s0 (s.wr k v) := h
theorem keepsFcp_mk_iff {s : State} {x_now : Nat} {x_reg : Tab Nat} {x_mem : List Host.Cell} {x_evq : List (Nat × Nat)} {x_freeCtr : Nat} {x_pending : List Instr} {x_hdi : HdiS} {x_clk : ClockS} {x_sched : List Sched} {x_ve : Tab VeRun} {x_outCh : Tab OutCh} {x_inCh : Tab InCh} {x_sq : Tab SqS} {x_brk : Tab BrkS} {x_tgt : Tab TgtS} {x_groupAt : List (Nat × Nat)} {x_dsp : Tab DspRun} {x_focus : FocusS} {x_trim : TrimS} {x_reqs : List MeshReq} {x_resps : List MeshResp} {x_held : List PortReq} {x_steal : List PortReq} {x_labels : List (MeshReq × Nat)} {x_drain : Option Drain} {x_trace : List Nat} {x_dmc : Tab DmcS} {x_autoTrain : Bool} {x_crh : CrhS} {x_cfg : CfgS} {x_fresh : List (Nat × Nat × Nat)} {x_cleared : List (Nat × Nat × Nat)} {x_sup : SupS} {x_dbg : DbgS} {x_tmu : TmuS} {x_lanes : Tab LaneS} {x_cells : Tab (Option CellS)} {x_cellCfg : Tab CellCfg} {x_sels : Tab Nat} {x_tracks : Tab Nat} {x_upsets : List Upset} {x_facets : Tab FacetS} {x_fev : List (Nat × Nat)} {x_panes : Tab PaneS} {x_banks : Tab BankS} {x_pins : PinsS} :
    KeepsFcp g nn s0 ⟨x_now, x_reg, x_mem, x_evq, x_freeCtr, x_pending, x_hdi, x_clk, x_sched, x_ve, x_outCh, x_inCh, s.fcp, x_sq, x_brk, x_tgt, x_groupAt, x_dsp, x_focus, x_trim, x_reqs, x_resps, x_held, x_steal, x_labels, x_drain, x_trace, x_dmc, x_autoTrain, x_crh, x_cfg, x_fresh, x_cleared, x_sup, x_dbg, x_tmu, x_lanes, x_cells, x_cellCfg, x_sels, x_tracks, x_upsets, x_facets, x_fev, x_panes, x_banks, x_pins⟩ ↔ KeepsFcp g nn s0 s := Iff.rfl
theorem addTo_keepsFcp (s : State) (w k d : Nat) (hs : KeepsFcp (fun e : FcpS => e.cycles) nn s0 s) :
    KeepsFcp (fun e : FcpS => e.cycles) nn s0 (State.addTo s w k d) := by
  unfold State.addTo
  repeat' first
    | with_reducible intro _
    | with_reducible assumption
    | with_reducible apply wr_keepsFcp

theorem bump_keepsFcp (s : State) (w k : Nat) (hs : KeepsFcp (fun e : FcpS => e.cycles) nn s0 s) :
    KeepsFcp (fun e : FcpS => e.cycles) nn s0 (State.bump s w k) := by
  unfold State.bump
  repeat' first
    | with_reducible intro _
    | with_reducible assumption
    | with_reducible apply addTo_keepsFcp

theorem raiseAt_keepsFcp (s : State) (t e : Nat) (hs : KeepsFcp (fun e : FcpS => e.cycles) nn s0 s) :
    KeepsFcp (fun e : FcpS => e.cycles) nn s0 (State.raiseAt s t e) := by
  unfold State.raiseAt
  repeat' first
    | with_reducible intro _
    | with_reducible assumption
    | simp only [↓keepsFcp_mk_iff]
    | with_reducible apply keepsFcp_ite
    | (extract_lets x; first | (with_reducible refine keepsFcp_cut (s := x) ?_ ?_; (on_goal 2 => clear_value x); (on_goal 1 => unfold x)) | (subst x))
    | split

theorem raise_keepsFcp (s : State) (e : Nat) (hs : KeepsFcp (fun e : FcpS => e.cycles) nn s0 s) :
    KeepsFcp (fun e : FcpS => e.cycles) nn s0 (State.raise s e) := by
  unfold State.raise
  repeat' first
    | with_reducible intro _
    | with_reducible assumption
    | with_reducible apply raiseAt_keepsFcp
    | simp only [↓keepsFcp_mk_iff]
    | with_reducible apply keepsFcp_ite
    | (extract_lets x; first | (with_reducible refine keepsFcp_cut (s := x) ?_ ?_; (on_goal 2 => clear_value x); (on_goal 1 => unfold x)) | (subst x))
    | split

theorem setBit_keepsFcp (s : State) (k b : Nat) (v : Bool) (hs : KeepsFcp (fun e : FcpS => e.cycles) nn s0 s) :
    KeepsFcp (fun e : FcpS => e.cycles) nn s0 (State.setBit s k b v) := by
  unfold State.setBit
  repeat' first
    | with_reducible intro _
    | with_reducible assumption
    | with_reducible apply wr_keepsFcp
    | with_reducible apply keepsFcp_ite
    | split

theorem note_keepsFcp (s : State) (k b : Nat) (hs : KeepsFcp (fun e : FcpS => e.cycles) nn s0 s) :
    KeepsFcp (fun e : FcpS => e.cycles) nn s0 (State.note s k b) := by
  unfold State.note
  repeat' first
    | with_reducible intro _
    | with_reducible assumption
    | simp only [↓keepsFcp_mk_iff]
    | with_reducible apply keepsFcp_ite
    | (extract_lets x; first | (with_reducible refine keepsFcp_cut (s := x) ?_ ?_; (on_goal 2 => clear_value x); (on_goal 1 => unfold x)) | (subst x))
    | split

theorem flag_keepsFcp (s : State) (k b e : Nat) (hs : KeepsFcp (fun e : FcpS => e.cycles) nn s0 s) :
    KeepsFcp (fun e : FcpS => e.cycles) nn s0 (State.flag s k b e) := by
  unfold State.flag
  repeat' first
    | with_reducible intro _
    | with_reducible assumption
    | with_reducible apply note_keepsFcp
    | with_reducible apply setBit_keepsFcp
    | with_reducible apply raise_keepsFcp
    | simp only [↓keepsFcp_mk_iff]
    | with_reducible apply keepsFcp_ite
    | (extract_lets x; first | (with_reducible refine keepsFcp_cut (s := x) ?_ ?_; (on_goal 2 => clear_value x); (on_goal 1 => unfold x)) | (subst x))
    | split

theorem drawn_keepsFcp (s : State) (hs : KeepsFcp (fun e : FcpS => e.cycles) nn s0 s) :
    KeepsFcp (fun e : FcpS => e.cycles) nn s0 (State.drawn s) := by
  unfold State.drawn
  repeat' first
    | with_reducible intro _
    | with_reducible assumption
    | simp only [↓keepsFcp_mk_iff]

theorem modVe_keepsFcp (s : State) (n : Nat) (f : VeRun → VeRun) (hs : KeepsFcp (fun e : FcpS => e.cycles) nn s0 s) :
    KeepsFcp (fun e : FcpS => e.cycles) nn s0 (State.modVe s n f) := by
  unfold State.modVe
  repeat' first
    | with_reducible intro _
    | with_reducible assumption
    | simp only [↓keepsFcp_mk_iff]

theorem modSq_keepsFcp (s : State) (q : Nat) (f : SqS → SqS) (hs : KeepsFcp (fun e : FcpS => e.cycles) nn s0 s) :
    KeepsFcp (fun e : FcpS => e.cycles) nn s0 (State.modSq s q f) := by
  unfold State.modSq
  repeat' first
    | with_reducible intro _
    | with_reducible assumption
    | simp only [↓keepsFcp_mk_iff]

theorem modBrk_keepsFcp (s : State) (u : Nat) (f : BrkS → BrkS) (hs : KeepsFcp (fun e : FcpS => e.cycles) nn s0 s) :
    KeepsFcp (fun e : FcpS => e.cycles) nn s0 (State.modBrk s u f) := by
  unfold State.modBrk
  repeat' first
    | with_reducible intro _
    | with_reducible assumption
    | simp only [↓keepsFcp_mk_iff]

theorem modTgt_keepsFcp (s : State) (t : Nat) (f : TgtS → TgtS) (hs : KeepsFcp (fun e : FcpS => e.cycles) nn s0 s) :
    KeepsFcp (fun e : FcpS => e.cycles) nn s0 (State.modTgt s t f) := by
  unfold State.modTgt
  repeat' first
    | with_reducible intro _
    | with_reducible assumption
    | simp only [↓keepsFcp_mk_iff]

theorem modDsp_keepsFcp (s : State) (n : Nat) (f : DspRun → DspRun) (hs : KeepsFcp (fun e : FcpS => e.cycles) nn s0 s) :
    KeepsFcp (fun e : FcpS => e.cycles) nn s0 (State.modDsp s n f) := by
  unfold State.modDsp
  repeat' first
    | with_reducible intro _
    | with_reducible assumption
    | simp only [↓keepsFcp_mk_iff]

theorem meshSend_keepsFcp (r : MeshReq) (s : State) (hs : KeepsFcp (fun e : FcpS => e.cycles) nn s0 s) :
    KeepsFcp (fun e : FcpS => e.cycles) nn s0 (meshSend r s) := by
  unfold meshSend
  repeat' first
    | with_reducible intro _
    | with_reducible assumption
    | simp only [↓keepsFcp_mk_iff]
    | with_reducible apply keepsFcp_ite
    | split
end

theorem latchDebugHalt_keepsFcp (t th : Nat) (s : State) (hs : KeepsFcp (fun e : FcpS => e.cycles) nn s0 s) :
    KeepsFcp (fun e : FcpS => e.cycles) nn s0 (latchDebugHalt t th s) := by
  unfold latchDebugHalt
  repeat' first
    | with_reducible intro _
    | with_reducible assumption
    | with_reducible apply modTgt_keepsFcp
    | with_reducible apply modVe_keepsFcp
    | with_reducible apply modDsp_keepsFcp
    | simp only [↓keepsFcp_mk_iff]
    | with_reducible apply keepsFcp_ite
    | (extract_lets x; first | (with_reducible refine keepsFcp_cut (s := x) ?_ ?_; (on_goal 2 => clear_value x); (on_goal 1 => unfold x)) | (subst x))
    | split

theorem linkFired_keepsFcp (u : Nat) (s : State) (hs : KeepsFcp (fun e : FcpS => e.cycles) nn s0 s) :
    KeepsFcp (fun e : FcpS => e.cycles) nn s0 (linkFired u s) := by
  unfold linkFired
  repeat' first
    | with_reducible intro _
    | with_reducible assumption
    | with_reducible apply modBrk_keepsFcp
    | simp only [↓keepsFcp_mk_iff]
    | with_reducible apply keepsFcp_ite
    | with_reducible apply keepsFcp_foldl
    | split

theorem brkFire_keepsFcp (u t th : Nat) (s : State) (hs : KeepsFcp (fun e : FcpS => e.cycles) nn s0 s) :
    KeepsFcp (fun e : FcpS => e.cycles) nn s0 (brkFire u t th s) := by
  unfold brkFire
  repeat' first
    | with_reducible intro _
    | with_reducible assumption
    | with_reducible apply linkFired_keepsFcp
    | with_reducible apply wr_keepsFcp
    | with_reducible apply flag_keepsFcp
    | with_reducible apply latchDebugHalt_keepsFcp
    | simp only [↓keepsFcp_mk_iff]
    | (extract_lets x; first | (with_reducible refine keepsFcp_cut (s := x) ?_ ?_; (on_goal 2 => clear_value x); (on_goal 1 => unfold x)) | (subst x))
    | split

theorem brkCount_keepsFcp (u t th : Nat) (s : State) (hs : KeepsFcp (fun e : FcpS => e.cycles) nn s0 s) :
    KeepsFcp (fun e : FcpS => e.cycles) nn s0 (brkCount u t th s) := by
  unfold brkCount
  repeat' first
    | with_reducible intro _
    | with_reducible assumption
    | with_reducible apply bump_keepsFcp
    | with_reducible apply modBrk_keepsFcp
    | with_reducible apply brkFire_keepsFcp
    | simp only [↓keepsFcp_mk_iff]
    | with_reducible apply keepsFcp_ite
    | (extract_lets x; first | (with_reducible refine keepsFcp_cut (s := x) ?_ ?_; (on_goal 2 => clear_value x); (on_goal 1 => unfold x)) | (subst x))
    | split

theorem brkMatch_keepsFcp (kind t v ctx cls th : Nat) (s : State) (hs : KeepsFcp (fun e : FcpS => e.cycles) nn s0 s) :
    KeepsFcp (fun e : FcpS => e.cycles) nn s0 (brkMatch kind t v ctx cls th s) := by
  unfold brkMatch
  repeat' first
    | with_reducible intro _
    | with_reducible assumption
    | with_reducible apply brkCount_keepsFcp
    | with_reducible apply keepsFcp_ite
    | with_reducible apply keepsFcp_foldl
    | split

theorem qFlag_keepsFcp (q b th : Nat) (s : State) (hs : KeepsFcp (fun e : FcpS => e.cycles) nn s0 s) :
    KeepsFcp (fun e : FcpS => e.cycles) nn s0 (qFlag q b th s) := by
  unfold qFlag
  repeat' first
    | with_reducible intro _
    | with_reducible assumption
    | with_reducible apply modSq_keepsFcp
    | with_reducible apply note_keepsFcp
    | with_reducible apply setBit_keepsFcp
    | with_reducible apply raise_keepsFcp
    | simp only [↓keepsFcp_mk_iff]
    | with_reducible apply keepsFcp_ite
    | (extract_lets x; first | (with_reducible refine keepsFcp_cut (s := x) ?_ ?_; (on_goal 2 => clear_value x); (on_goal 1 => unfold x)) | (subst x))
    | split

theorem fcpStopOne_keepsFcp (n code th : Nat) (s : State) (hs : KeepsFcp (fun e : FcpS => e.cycles) nn s0 s) :
    KeepsFcp (fun e : FcpS => e.cycles) nn s0 (fcpStopOne n code th s) := by
  unfold fcpStopOne
  repeat' first
    | with_reducible intro _
    | with_reducible assumption
    | with_reducible apply wr_keepsFcp
    | (with_reducible refine modFcp_keepsFcp _ _ _ ?_ ?_; (on_goal 2 => (intro e; rfl)))
    | with_reducible apply qFlag_keepsFcp
    | with_reducible apply modVe_keepsFcp
    | simp only [↓keepsFcp_mk_iff]
    | with_reducible apply keepsFcp_ite
    | (extract_lets x; first | (with_reducible refine keepsFcp_cut (s := x) ?_ ?_; (on_goal 2 => clear_value x); (on_goal 1 => unfold x)) | (subst x))
    | split

theorem fcpStop_keepsFcp (n code policy th : Nat) (s : State) (hs : KeepsFcp (fun e : FcpS => e.cycles) nn s0 s) :
    KeepsFcp (fun e : FcpS => e.cycles) nn s0 (fcpStop n code policy th s) := by
  unfold fcpStop
  repeat' first
    | with_reducible intro _
    | with_reducible assumption
    | with_reducible apply fcpStopOne_keepsFcp
    | with_reducible apply keepsFcp_ite
    | with_reducible apply keepsFcp_foldl
    | (extract_lets x; first | (with_reducible refine keepsFcp_cut (s := x) ?_ ?_; (on_goal 2 => clear_value x); (on_goal 1 => unfold x)) | (subst x))
    | split

theorem fcpDrop_keepsFcp (n counter policy th : Nat) (s : State) (hs : KeepsFcp (fun e : FcpS => e.cycles) nn s0 s) :
    KeepsFcp (fun e : FcpS => e.cycles) nn s0 (fcpDrop n counter policy th s) := by
  unfold fcpDrop
  repeat' first
    | with_reducible intro _
    | with_reducible assumption
    | with_reducible apply qFlag_keepsFcp
    | with_reducible apply bump_keepsFcp
    | with_reducible apply fcpStop_keepsFcp
    | (with_reducible refine modFcp_keepsFcp _ _ _ ?_ ?_; (on_goal 2 => (intro e; rfl)))
    | simp only [↓keepsFcp_mk_iff]
    | with_reducible apply keepsFcp_ite
    | (extract_lets x; first | (with_reducible refine keepsFcp_cut (s := x) ?_ ?_; (on_goal 2 => clear_value x); (on_goal 1 => unfold x)) | (subst x))
    | split

theorem formRecord_keepsFcp (n th : Nat) (r : FailRec) (s : State) (hs : KeepsFcp (fun e : FcpS => e.cycles) nn s0 s) :
    KeepsFcp (fun e : FcpS => e.cycles) nn s0 (formRecord n th r s) := by
  unfold formRecord
  repeat' first
    | with_reducible intro _
    | with_reducible assumption
    | with_reducible apply bump_keepsFcp
    | (with_reducible refine modFcp_keepsFcp _ _ _ ?_ ?_; (on_goal 2 => (intro e; rfl)))
    | with_reducible apply fcpDrop_keepsFcp
    | simp only [↓keepsFcp_mk_iff]
    | with_reducible apply keepsFcp_ite
    | (extract_lets x; first | (with_reducible refine keepsFcp_cut (s := x) ?_ ?_; (on_goal 2 => clear_value x); (on_goal 1 => unfold x)) | (subst x))
    | split

theorem closeRecord_keepsFcp (n th : Nat) (s : State) (hs : KeepsFcp (fun e : FcpS => e.cycles) nn s0 s) :
    KeepsFcp (fun e : FcpS => e.cycles) nn s0 (closeRecord n th s) := by
  unfold closeRecord
  repeat' first
    | with_reducible intro _
    | with_reducible assumption
    | with_reducible apply formRecord_keepsFcp
    | (with_reducible refine modFcp_keepsFcp _ _ _ ?_ ?_; (on_goal 2 => (intro e; rfl)))
    | simp only [↓keepsFcp_mk_iff]
    | split

theorem formBitmap_keepsFcp (n th : Nat) (op : BmOp) (s : State) (hs : KeepsFcp (fun e : FcpS => e.cycles) nn s0 s) :
    KeepsFcp (fun e : FcpS => e.cycles) nn s0 (formBitmap n th op s) := by
  unfold formBitmap
  repeat' first
    | with_reducible intro _
    | with_reducible assumption
    | with_reducible apply bump_keepsFcp
    | (with_reducible refine modFcp_keepsFcp _ _ _ ?_ ?_; (on_goal 2 => (intro e; rfl)))
    | with_reducible apply fcpDrop_keepsFcp
    | simp only [↓keepsFcp_mk_iff]
    | with_reducible apply keepsFcp_ite
    | (extract_lets x; first | (with_reducible refine keepsFcp_cut (s := x) ?_ ?_; (on_goal 2 => clear_value x); (on_goal 1 => unfold x)) | (subst x))
    | split

theorem closeBitmap_keepsFcp (n th : Nat) (s : State) (hs : KeepsFcp (fun e : FcpS => e.cycles) nn s0 s) :
    KeepsFcp (fun e : FcpS => e.cycles) nn s0 (closeBitmap n th s) := by
  unfold closeBitmap
  repeat' first
    | with_reducible intro _
    | with_reducible assumption
    | with_reducible apply formBitmap_keepsFcp
    | (with_reducible refine modFcp_keepsFcp _ _ _ ?_ ?_; (on_goal 2 => (intro e; rfl)))
    | simp only [↓keepsFcp_mk_iff]
    | split

theorem recordCycle_keepsFcp (n th : Nat) (c : CycRec) (s : State) (hs : KeepsFcp (fun e : FcpS => e.cycles) nn s0 s) :
    KeepsFcp (fun e : FcpS => e.cycles) nn s0 (recordCycle n th c s) := by
  unfold recordCycle
  repeat' first
    | with_reducible intro _
    | with_reducible assumption
    | (with_reducible refine modFcp_keepsFcp _ _ _ ?_ ?_; (on_goal 2 => (intro e; rfl)))
    | with_reducible apply closeRecord_keepsFcp
    | simp only [↓keepsFcp_mk_iff]
    | with_reducible apply keepsFcp_ite
    | (extract_lets x; first | (with_reducible refine keepsFcp_cut (s := x) ?_ ?_; (on_goal 2 => clear_value x); (on_goal 1 => unfold x)) | (subst x))
    | split

theorem countCycle_keepsFcp (n : Nat) (c : CycRec) (s : State) (hs : KeepsFcp (fun e : FcpS => e.cycles) nn s0 s) :
    KeepsFcp (fun e : FcpS => e.cycles) nn s0 (countCycle n c s) := by
  unfold countCycle
  repeat' first
    | with_reducible intro _
    | with_reducible assumption
    | with_reducible apply bump_keepsFcp
    | with_reducible apply keepsFcp_ite
    | with_reducible apply keepsFcp_foldl
    | split

theorem bitmapCycle_keepsFcp (n th : Nat) (c : CycRec) (s : State) (hs : KeepsFcp (fun e : FcpS => e.cycles) nn s0 s) :
    KeepsFcp (fun e : FcpS => e.cycles) nn s0 (bitmapCycle n th c s) := by
  unfold bitmapCycle
  repeat' first
    | with_reducible intro _
    | with_reducible assumption
    | (with_reducible refine modFcp_keepsFcp _ _ _ ?_ ?_; (on_goal 2 => (intro e; rfl)))
    | with_reducible apply bump_keepsFcp
    | with_reducible apply closeBitmap_keepsFcp
    | with_reducible apply formBitmap_keepsFcp
    | simp only [↓keepsFcp_mk_iff]
    | with_reducible apply keepsFcp_ite
    | split

theorem stopOnN_keepsFcp (n th : Nat) (c : CycRec) (s : State) (hs : KeepsFcp (fun e : FcpS => e.cycles) nn s0 s) :
    KeepsFcp (fun e : FcpS => e.cycles) nn s0 (stopOnN n th c s) := by
  unfold stopOnN
  repeat' first
    | with_reducible intro _
    | with_reducible assumption
    | with_reducible apply closeRecord_keepsFcp
    | with_reducible apply fcpStop_keepsFcp
    | (with_reducible refine modFcp_keepsFcp _ _ _ ?_ ?_; (on_goal 2 => (intro e; rfl)))
    | simp only [↓keepsFcp_mk_iff]
    | with_reducible apply keepsFcp_ite
    | (extract_lets x; first | (with_reducible refine keepsFcp_cut (s := x) ?_ ?_; (on_goal 2 => clear_value x); (on_goal 1 => unfold x)) | (subst x))
    | split

theorem mergeExpire_keepsFcp (n t : Nat) (s : State) (hs : KeepsFcp (fun e : FcpS => e.cycles) nn s0 s) :
    KeepsFcp (fun e : FcpS => e.cycles) nn s0 (mergeExpire n t s) := by
  unfold mergeExpire
  repeat' first
    | with_reducible intro _
    | with_reducible assumption
    | with_reducible apply closeBitmap_keepsFcp
    | with_reducible apply keepsFcp_ite
    | split

theorem setPkts_keepsFcp (q v : Nat) (s : State) (hs : KeepsFcp (fun e : FcpS => e.cycles) nn s0 s) :
    KeepsFcp (fun e : FcpS => e.cycles) nn s0 (setPkts q v s) := by
  unfold setPkts
  repeat' first
    | with_reducible intro _
    | with_reducible assumption
    | with_reducible apply qFlag_keepsFcp
    | with_reducible apply drawn_keepsFcp
    | with_reducible apply wr_keepsFcp
    | simp only [↓keepsFcp_mk_iff]
    | with_reducible apply keepsFcp_ite
    | (extract_lets x; first | (with_reducible refine keepsFcp_cut (s := x) ?_ ?_; (on_goal 2 => clear_value x); (on_goal 1 => unfold x)) | (subst x))
    | split

set_option Elab.async false in
theorem enterTail_keepsFcp (q : Nat) (ws : List (Nat × Bool)) (s : State) (hs : KeepsFcp (fun e : FcpS => e.cycles) nn s0 s) :
    KeepsFcp (fun e : FcpS => e.cycles) nn s0 (enterTail q ws s) := by
  unfold enterTail
  repeat' first
    | with_reducible intro _
    | with_reducible assumption
    | with_reducible apply modSq_keepsFcp
    | with_reducible apply addTo_keepsFcp
    | with_reducible apply setPkts_keepsFcp
    | simp only [↓keepsFcp_mk_iff]
    | with_reducible apply keepsFcp_ite
    | (extract_lets x; first | (with_reducible refine keepsFcp_cut (s := x) ?_ ?_; (on_goal 2 => clear_value x); (on_goal 1 => unfold x)) | (subst x))
    | split

end Sys2Proof.Laws
end

