-- ==== Sys2Proof/Laws/KeepsFcpOpen.lean ====
section
/-! SUPPORT. Functions g of one value of State.fcpOf: what the operations it lists leave unchanged. -/
set_option linter.unreachableTactic false
set_option linter.unusedSimpArgs false
set_option linter.unusedTactic false
namespace Sys2Proof.Laws
open Sys2Proof.Machine
section
variable {α : Type} {g : FcpS → α} {nn : Nat} {s0 : State}
def KeepsFcpOpen (g : FcpS → α) (nn : Nat) (s0 s : State) : Prop := g (s.fcpOf nn) = g (s0.fcpOf nn)
theorem keepsFcpOpen_ite {c : Prop} [Decidable c] {x y : State} (hx : KeepsFcpOpen g nn s0 x) (hy : KeepsFcpOpen g nn s0 y) : KeepsFcpOpen g nn s0 (if c then x else y) := by split <;> assumption
theorem keepsFcpOpen_foldl {β : Type} {f : State → β → State} (hf : ∀ s x, KeepsFcpOpen g nn s0 s → KeepsFcpOpen g nn s0 (f s x)) :
    ∀ {l : List β} {s : State}, KeepsFcpOpen g nn s0 s → KeepsFcpOpen g nn s0 (l.foldl f s)
  | [], _, h => h
  | x :: l, s, h => keepsFcpOpen_foldl (l := l) hf (hf s x h)
theorem keepsFcpOpen_cut {s : State} {p : Prop} (h : KeepsFcpOpen g nn s0 s) (f : KeepsFcpOpen g nn s0 s → p) : p := f h
theorem modFcp_keepsFcpOpen (m : Nat) (f : FcpS → FcpS) (s : State) (h : KeepsFcpOpen g nn s0 s) (hf : ∀ e, g (f e) = g e) : KeepsFcpOpen g nn s0 (s.modFcp m f) := by
  unfold KeepsFcpOpen at *
  by_cases e : nn = m
  · subst e; rw [fcpOf_modFcp, hf, h]
  · rw [fcpOf_modFcp_other s e, h]
theorem wr_keepsFcpOpen (k v : Nat) (s : State) (h : KeepsFcpOpen g nn s0 s) : KeepsFcpOpen g nn s0 (s.wr k v) := h
theorem keepsFcpOpen_mk_iff {s : State} {x_now : Nat} {x_reg : Tab Nat} {x_mem : List Host.Cell} {x_evq : List (Nat × Nat)} {x_freeCtr : Nat} {x_pending : List Instr} {x_hdi : HdiS} {x_clk : ClockS} {x_sched : List Sched} {x_ve : Tab VeRun} {x_outCh : Tab OutCh} {x_inCh : Tab InCh} {x_sq : Tab SqS} {x_brk : Tab BrkS} {x_tgt : Tab TgtS} {x_groupAt : List (Nat × Nat)} {x_dsp : Tab DspRun} {x_focus : FocusS} {x_trim : TrimS} {x_reqs : List MeshReq} {x_resps : List MeshResp} {x_held : List PortReq} {x_steal : List PortReq} {x_labels : List (MeshReq × Nat)} {x_drain : Option Drain} {x_trace : List Nat} {x_dmc : Tab DmcS} {x_autoTrain : Bool} {x_crh : CrhS} {x_cfg : CfgS} {x_fresh : List (Nat × Nat × Nat)} {x_cleared : List (Nat × Nat × Nat)} {x_sup : SupS} {x_dbg : DbgS} {x_tmu : TmuS} {x_lanes : Tab LaneS} {x_cells : Tab (Option CellS)} {x_cellCfg : Tab CellCfg} {x_sels : Tab Nat} {x_tracks : Tab Nat} {x_upsets : List Upset} {x_facets : Tab FacetS} {x_fev : List (Nat × Nat)} {x_panes : Tab PaneS} {x_banks : Tab BankS} {x_pins : PinsS} :
    KeepsFcpOpen g nn s0 ⟨x_now, x_reg, x_mem, x_evq, x_freeCtr, x_pending, x_hdi, x_clk, x_sched, x_ve, x_outCh, x_inCh, s.fcp, x_sq, x_brk, x_tgt, x_groupAt, x_dsp, x_focus, x_trim, x_reqs, x_resps, x_held, x_steal, x_labels, x_drain, x_trace, x_dmc, x_autoTrain, x_crh, x_cfg, x_fresh, x_cleared, x_sup, x_dbg, x_tmu, x_lanes, x_cells, x_cellCfg, x_sels, x_tracks, x_upsets, x_facets, x_fev, x_panes, x_banks, x_pins⟩ ↔ KeepsFcpOpen g nn s0 s := Iff.rfl
theorem addTo_keepsFcpOpen (s : State) (w k d : Nat) (hs : KeepsFcpOpen (fun e : FcpS => (e.bmOpen, e.cap)) nn s0 s) :
    KeepsFcpOpen (fun e : FcpS => (e.bmOpen, e.cap)) nn s0 (State.addTo s w k d) := by
  unfold State.addTo
  repeat' first
    | with_reducible intro _
    | with_reducible assumption
    | with_reducible apply wr_keepsFcpOpen

theorem bump_keepsFcpOpen (s : State) (w k : Nat) (hs : KeepsFcpOpen (fun e : FcpS => (e.bmOpen, e.cap)) nn s0 s) :
    KeepsFcpOpen (fun e : FcpS => (e.bmOpen, e.cap)) nn s0 (State.bump s w k) := by
  unfold State.bump
  repeat' first
    | with_reducible intro _
    | with_reducible assumption
    | with_reducible apply addTo_keepsFcpOpen

theorem raiseAt_keepsFcpOpen (s : State) (t e : Nat) (hs : KeepsFcpOpen (fun e : FcpS => (e.bmOpen, e.cap)) nn s0 s) :
    KeepsFcpOpen (fun e : FcpS => (e.bmOpen, e.cap)) nn s0 (State.raiseAt s t e) := by
  unfold State.raiseAt
  repeat' first
    | with_reducible intro _
    | with_reducible assumption
    | simp only [↓keepsFcpOpen_mk_iff]
    | with_reducible apply keepsFcpOpen_ite
    | (extract_lets x; first | (with_reducible refine keepsFcpOpen_cut (s := x) ?_ ?_; (on_goal 2 => clear_value x); (on_goal 1 => unfold x)) | (subst x))
    | split

theorem raise_keepsFcpOpen (s : State) (e : Nat) (hs : KeepsFcpOpen (fun e : FcpS => (e.bmOpen, e.cap)) nn s0 s) :
    KeepsFcpOpen (fun e : FcpS => (e.bmOpen, e.cap)) nn s0 (State.raise s e) := by
  unfold State.raise
  repeat' first
    | with_reducible intro _
    | with_reducible assumption
    | with_reducible apply raiseAt_keepsFcpOpen
    | simp only [↓keepsFcpOpen_mk_iff]
    | with_reducible apply keepsFcpOpen_ite
    | (extract_lets x; first | (with_reducible refine keepsFcpOpen_cut (s := x) ?_ ?_; (on_goal 2 => clear_value x); (on_goal 1 => unfold x)) | (subst x))
    | split

theorem setBit_keepsFcpOpen (s : State) (k b : Nat) (v : Bool) (hs : KeepsFcpOpen (fun e : FcpS => (e.bmOpen, e.cap)) nn s0 s) :
    KeepsFcpOpen (fun e : FcpS => (e.bmOpen, e.cap)) nn s0 (State.setBit s k b v) := by
  unfold State.setBit
  repeat' first
    | with_reducible intro _
    | with_reducible assumption
    | with_reducible apply wr_keepsFcpOpen
    | with_reducible apply keepsFcpOpen_ite
    | split

theorem note_keepsFcpOpen (s : State) (k b : Nat) (hs : KeepsFcpOpen (fun e : FcpS => (e.bmOpen, e.cap)) nn s0 s) :
    KeepsFcpOpen (fun e : FcpS => (e.bmOpen, e.cap)) nn s0 (State.note s k b) := by
  unfold State.note
  repeat' first
    | with_reducible intro _
    | with_reducible assumption
    | simp only [↓keepsFcpOpen_mk_iff]
    | with_reducible apply keepsFcpOpen_ite
    | (extract_lets x; first | (with_reducible refine keepsFcpOpen_cut (s := x) ?_ ?_; (on_goal 2 => clear_value x); (on_goal 1 => unfold x)) | (subst x))
    | split

theorem flag_keepsFcpOpen (s : State) (k b e : Nat) (hs : KeepsFcpOpen (fun e : FcpS => (e.bmOpen, e.cap)) nn s0 s) :
    KeepsFcpOpen (fun e : FcpS => (e.bmOpen, e.cap)) nn s0 (State.flag s k b e) := by
  unfold State.flag
  repeat' first
    | with_reducible intro _
    | with_reducible assumption
    | with_reducible apply note_keepsFcpOpen
    | with_reducible apply setBit_keepsFcpOpen
    | with_reducible apply raise_keepsFcpOpen
    | simp only [↓keepsFcpOpen_mk_iff]
    | with_reducible apply keepsFcpOpen_ite
    | (extract_lets x; first | (with_reducible refine keepsFcpOpen_cut (s := x) ?_ ?_; (on_goal 2 => clear_value x); (on_goal 1 => unfold x)) | (subst x))
    | split

theorem drawn_keepsFcpOpen (s : State) (hs : KeepsFcpOpen (fun e : FcpS => (e.bmOpen, e.cap)) nn s0 s) :
    KeepsFcpOpen (fun e : FcpS => (e.bmOpen, e.cap)) nn s0 (State.drawn s) := by
  unfold State.drawn
  repeat' first
    | with_reducible intro _
    | with_reducible assumption
    | simp only [↓keepsFcpOpen_mk_iff]

theorem modVe_keepsFcpOpen (s : State) (n : Nat) (f : VeRun → VeRun) (hs : KeepsFcpOpen (fun e : FcpS => (e.bmOpen, e.cap)) nn s0 s) :
    KeepsFcpOpen (fun e : FcpS => (e.bmOpen, e.cap)) nn s0 (State.modVe s n f) := by
  unfold State.modVe
  repeat' first
    | with_reducible intro _
    | with_reducible assumption
    | simp only [↓keepsFcpOpen_mk_iff]

theorem modSq_keepsFcpOpen (s : State) (q : Nat) (f : SqS → SqS) (hs : KeepsFcpOpen (fun e : FcpS => (e.bmOpen, e.cap)) nn s0 s) :
    KeepsFcpOpen (fun e : FcpS => (e.bmOpen, e.cap)) nn s0 (State.modSq s q f) := by
  unfold State.modSq
  repeat' first
    | with_reducible intro _
    | with_reducible assumption
    | simp only [↓keepsFcpOpen_mk_iff]

theorem meshSend_keepsFcpOpen (r : MeshReq) (s : State) (hs : KeepsFcpOpen (fun e : FcpS => (e.bmOpen, e.cap)) nn s0 s) :
    KeepsFcpOpen (fun e : FcpS => (e.bmOpen, e.cap)) nn s0 (meshSend r s) := by
  unfold meshSend
  repeat' first
    | with_reducible intro _
    | with_reducible assumption
    | simp only [↓keepsFcpOpen_mk_iff]
    | with_reducible apply keepsFcpOpen_ite
    | split
end

theorem qFlag_keepsFcpOpen (q b th : Nat) (s : State) (hs : KeepsFcpOpen (fun e : FcpS => (e.bmOpen, e.cap)) nn s0 s) :
    KeepsFcpOpen (fun e : FcpS => (e.bmOpen, e.cap)) nn s0 (qFlag q b th s) := by
  unfold qFlag
  repeat' first
    | with_reducible intro _
    | with_reducible assumption
    | with_reducible apply modSq_keepsFcpOpen
    | with_reducible apply note_keepsFcpOpen
    | with_reducible apply setBit_keepsFcpOpen
    | with_reducible apply raise_keepsFcpOpen
    | simp only [↓keepsFcpOpen_mk_iff]
    | with_reducible apply keepsFcpOpen_ite
    | (extract_lets x; first | (with_reducible refine keepsFcpOpen_cut (s := x) ?_ ?_; (on_goal 2 => clear_value x); (on_goal 1 => unfold x)) | (subst x))
    | split

theorem fcpStopOne_keepsFcpOpen (n code th : Nat) (s : State) (hs : KeepsFcpOpen (fun e : FcpS => (e.bmOpen, e.cap)) nn s0 s) :
    KeepsFcpOpen (fun e : FcpS => (e.bmOpen, e.cap)) nn s0 (fcpStopOne n code th s) := by
  unfold fcpStopOne
  repeat' first
    | with_reducible intro _
    | with_reducible assumption
    | with_reducible apply wr_keepsFcpOpen
    | (with_reducible refine modFcp_keepsFcpOpen _ _ _ ?_ ?_; (on_goal 2 => (intro e; rfl)))
    | with_reducible apply qFlag_keepsFcpOpen
    | with_reducible apply modVe_keepsFcpOpen
    | simp only [↓keepsFcpOpen_mk_iff]
    | with_reducible apply keepsFcpOpen_ite
    | (extract_lets x; first | (with_reducible refine keepsFcpOpen_cut (s := x) ?_ ?_; (on_goal 2 => clear_value x); (on_goal 1 => unfold x)) | (subst x))
    | split

theorem fcpStop_keepsFcpOpen (n code policy th : Nat) (s : State) (hs : KeepsFcpOpen (fun e : FcpS => (e.bmOpen, e.cap)) nn s0 s) :
    KeepsFcpOpen (fun e : FcpS => (e.bmOpen, e.cap)) nn s0 (fcpStop n code policy th s) := by
  unfold fcpStop
  repeat' first
    | with_reducible intro _
    | with_reducible assumption
    | with_reducible apply fcpStopOne_keepsFcpOpen
    | with_reducible apply keepsFcpOpen_ite
    | with_reducible apply keepsFcpOpen_foldl
    | (extract_lets x; first | (with_reducible refine keepsFcpOpen_cut (s := x) ?_ ?_; (on_goal 2 => clear_value x); (on_goal 1 => unfold x)) | (subst x))
    | split

theorem fcpDrop_keepsFcpOpen (n counter policy th : Nat) (s : State) (hs : KeepsFcpOpen (fun e : FcpS => (e.bmOpen, e.cap)) nn s0 s) :
    KeepsFcpOpen (fun e : FcpS => (e.bmOpen, e.cap)) nn s0 (fcpDrop n counter policy th s) := by
  unfold fcpDrop
  repeat' first
    | with_reducible intro _
    | with_reducible assumption
    | with_reducible apply qFlag_keepsFcpOpen
    | with_reducible apply bump_keepsFcpOpen
    | with_reducible apply fcpStop_keepsFcpOpen
    | (with_reducible refine modFcp_keepsFcpOpen _ _ _ ?_ ?_; (on_goal 2 => (intro e; rfl)))
    | simp only [↓keepsFcpOpen_mk_iff]
    | with_reducible apply keepsFcpOpen_ite
    | (extract_lets x; first | (with_reducible refine keepsFcpOpen_cut (s := x) ?_ ?_; (on_goal 2 => clear_value x); (on_goal 1 => unfold x)) | (subst x))
    | split

theorem formBitmap_keepsFcpOpen (n th : Nat) (op : BmOp) (s : State) (hs : KeepsFcpOpen (fun e : FcpS => (e.bmOpen, e.cap)) nn s0 s) :
    KeepsFcpOpen (fun e : FcpS => (e.bmOpen, e.cap)) nn s0 (formBitmap n th op s) := by
  unfold formBitmap
  repeat' first
    | with_reducible intro _
    | with_reducible assumption
    | with_reducible apply bump_keepsFcpOpen
    | (with_reducible refine modFcp_keepsFcpOpen _ _ _ ?_ ?_; (on_goal 2 => (intro e; rfl)))
    | with_reducible apply fcpDrop_keepsFcpOpen
    | simp only [↓keepsFcpOpen_mk_iff]
    | with_reducible apply keepsFcpOpen_ite
    | (extract_lets x; first | (with_reducible refine keepsFcpOpen_cut (s := x) ?_ ?_; (on_goal 2 => clear_value x); (on_goal 1 => unfold x)) | (subst x))
    | split

theorem setPkts_keepsFcpOpen (q v : Nat) (s : State) (hs : KeepsFcpOpen (fun e : FcpS => (e.bmOpen, e.cap)) nn s0 s) :
    KeepsFcpOpen (fun e : FcpS => (e.bmOpen, e.cap)) nn s0 (setPkts q v s) := by
  unfold setPkts
  repeat' first
    | with_reducible intro _
    | with_reducible assumption
    | with_reducible apply qFlag_keepsFcpOpen
    | with_reducible apply drawn_keepsFcpOpen
    | with_reducible apply wr_keepsFcpOpen
    | simp only [↓keepsFcpOpen_mk_iff]
    | with_reducible apply keepsFcpOpen_ite
    | (extract_lets x; first | (with_reducible refine keepsFcpOpen_cut (s := x) ?_ ?_; (on_goal 2 => clear_value x); (on_goal 1 => unfold x)) | (subst x))
    | split

set_option Elab.async false in
theorem enterTail_keepsFcpOpen (q : Nat) (ws : List (Nat × Bool)) (s : State) (hs : KeepsFcpOpen (fun e : FcpS => (e.bmOpen, e.cap)) nn s0 s) :
    KeepsFcpOpen (fun e : FcpS => (e.bmOpen, e.cap)) nn s0 (enterTail q ws s) := by
  unfold enterTail
  repeat' first
    | with_reducible intro _
    | with_reducible assumption
    | with_reducible apply modSq_keepsFcpOpen
    | with_reducible apply addTo_keepsFcpOpen
    | with_reducible apply setPkts_keepsFcpOpen
    | simp only [↓keepsFcpOpen_mk_iff]
    | with_reducible apply keepsFcpOpen_ite
    | (extract_lets x; first | (with_reducible refine keepsFcpOpen_cut (s := x) ?_ ?_; (on_goal 2 => clear_value x); (on_goal 1 => unfold x)) | (subst x))
    | split

end Sys2Proof.Laws
end

