-- ==== Sys2Proof/Laws/KeepsSq.lean ====
section
/-! SUPPORT. Functions g of one value of State.sqOf: what the operations it lists leave unchanged. -/
set_option linter.unreachableTactic false
set_option linter.unusedSimpArgs false
set_option linter.unusedTactic false
namespace Sys2Proof.Laws
open Sys2Proof.Machine
section
variable {α : Type} {g : SqS → α} {nn : Nat} {s0 : State}
def KeepsSq (g : SqS → α) (nn : Nat) (s0 s : State) : Prop := g (s.sqOf nn) = g (s0.sqOf nn)
theorem keepsSq_ite {c : Prop} [Decidable c] {x y : State} (hx : KeepsSq g nn s0 x) (hy : KeepsSq g nn s0 y) : KeepsSq g nn s0 (if c then x else y) := by split <;> assumption
theorem keepsSq_foldl {β : Type} {f : State → β → State} (hf : ∀ s x, KeepsSq g nn s0 s → KeepsSq g nn s0 (f s x)) :
    ∀ {l : List β} {s : State}, KeepsSq g nn s0 s → KeepsSq g nn s0 (l.foldl f s)
  | [], _, h => h
  | x :: l, s, h => keepsSq_foldl (l := l) hf (hf s x h)
theorem keepsSq_cut {s : State} {p : Prop} (h : KeepsSq g nn s0 s) (f : KeepsSq g nn s0 s → p) : p := f h
theorem modSq_keepsSq (m : Nat) (f : SqS → SqS) (s : State) (h : KeepsSq g nn s0 s) (hf : ∀ e, g (f e) = g e) : KeepsSq g nn s0 (s.modSq m f) := by
  unfold KeepsSq at *
  by_cases e : nn = m
  · subst e; rw [sqOf_modSq, hf, h]
  · rw [sqOf_modSq_other s e, h]
theorem wr_keepsSq (k v : Nat) (s : State) (h : KeepsSq g nn s0 s) : KeepsSq g nn s0 (s.wr k v) := h
theorem keepsSq_mk_iff {s : State} {x_now : Nat} {x_reg : Tab Nat} {x_mem : List Host.Cell} {x_evq : List (Nat × Nat)} {x_freeCtr : Nat} {x_pending : List Instr} {x_hdi : HdiS} {x_clk : ClockS} {x_sched : List Sched} {x_ve : Tab VeRun} {x_outCh : Tab OutCh} {x_inCh : Tab InCh} {x_fcp : Tab FcpS} {x_brk : Tab BrkS} {x_tgt : Tab TgtS} {x_groupAt : List (Nat × Nat)} {x_dsp : Tab DspRun} {x_focus : FocusS} {x_trim : TrimS} {x_reqs : List MeshReq} {x_resps : List MeshResp} {x_held : List PortReq} {x_steal : List PortReq} {x_labels : List (MeshReq × Nat)} {x_drain : Option Drain} {x_trace : List Nat} {x_dmc : Tab DmcS} {x_autoTrain : Bool} {x_crh : CrhS} {x_cfg : CfgS} {x_fresh : List (Nat × Nat × Nat)} {x_cleared : List (Nat × Nat × Nat)} {x_sup : SupS} {x_dbg : DbgS} {x_tmu : TmuS} {x_lanes : Tab LaneS} {x_cells : Tab (Option CellS)} {x_cellCfg : Tab CellCfg} {x_sels : Tab Nat} {x_tracks : Tab Nat} {x_upsets : List Upset} {x_facets : Tab FacetS} {x_fev : List (Nat × Nat)} {x_panes : Tab PaneS} {x_banks : Tab BankS} {x_pins : PinsS} :
    KeepsSq g nn s0 ⟨x_now, x_reg, x_mem, x_evq, x_freeCtr, x_pending, x_hdi, x_clk, x_sched, x_ve, x_outCh, x_inCh, x_fcp, s.sq, x_brk, x_tgt, x_groupAt, x_dsp, x_focus, x_trim, x_reqs, x_resps, x_held, x_steal, x_labels, x_drain, x_trace, x_dmc, x_autoTrain, x_crh, x_cfg, x_fresh, x_cleared, x_sup, x_dbg, x_tmu, x_lanes, x_cells, x_cellCfg, x_sels, x_tracks, x_upsets, x_facets, x_fev, x_panes, x_banks, x_pins⟩ ↔ KeepsSq g nn s0 s := Iff.rfl
theorem raiseAt_keepsSq (s : State) (t e : Nat) (hs : KeepsSq (fun e : SqS => (e.tail, e.head, e.ring, e.wr, e.seq, e.pkt)) nn s0 s) :
    KeepsSq (fun e : SqS => (e.tail, e.head, e.ring, e.wr, e.seq, e.pkt)) nn s0 (State.raiseAt s t e) := by
  unfold State.raiseAt
  repeat' first
    | with_reducible intro _
    | with_reducible assumption
    | simp only [↓keepsSq_mk_iff]
    | with_reducible apply keepsSq_ite
    | (extract_lets x; first | (with_reducible refine keepsSq_cut (s := x) ?_ ?_; (on_goal 2 => clear_value x); (on_goal 1 => unfold x)) | (subst x))
    | split

theorem raise_keepsSq (s : State) (e : Nat) (hs : KeepsSq (fun e : SqS => (e.tail, e.head, e.ring, e.wr, e.seq, e.pkt)) nn s0 s) :
    KeepsSq (fun e : SqS => (e.tail, e.head, e.ring, e.wr, e.seq, e.pkt)) nn s0 (State.raise s e) := by
  unfold State.raise
  repeat' first
    | with_reducible intro _
    | with_reducible assumption
    | with_reducible apply raiseAt_keepsSq
    | simp only [↓keepsSq_mk_iff]
    | with_reducible apply keepsSq_ite
    | (extract_lets x; first | (with_reducible refine keepsSq_cut (s := x) ?_ ?_; (on_goal 2 => clear_value x); (on_goal 1 => unfold x)) | (subst x))
    | split

theorem setBit_keepsSq (s : State) (k b : Nat) (v : Bool) (hs : KeepsSq (fun e : SqS => (e.tail, e.head, e.ring, e.wr, e.seq, e.pkt)) nn s0 s) :
    KeepsSq (fun e : SqS => (e.tail, e.head, e.ring, e.wr, e.seq, e.pkt)) nn s0 (State.setBit s k b v) := by
  unfold State.setBit
  repeat' first
    | with_reducible intro _
    | with_reducible assumption
    | with_reducible apply wr_keepsSq
    | with_reducible apply keepsSq_ite
    | split

theorem note_keepsSq (s : State) (k b : Nat) (hs : KeepsSq (fun e : SqS => (e.tail, e.head, e.ring, e.wr, e.seq, e.pkt)) nn s0 s) :
    KeepsSq (fun e : SqS => (e.tail, e.head, e.ring, e.wr, e.seq, e.pkt)) nn s0 (State.note s k b) := by
  unfold State.note
  repeat' first
    | with_reducible intro _
    | with_reducible assumption
    | simp only [↓keepsSq_mk_iff]
    | with_reducible apply keepsSq_ite
    | (extract_lets x; first | (with_reducible refine keepsSq_cut (s := x) ?_ ?_; (on_goal 2 => clear_value x); (on_goal 1 => unfold x)) | (subst x))
    | split

theorem flag_keepsSq (s : State) (k b e : Nat) (hs : KeepsSq (fun e : SqS => (e.tail, e.head, e.ring, e.wr, e.seq, e.pkt)) nn s0 s) :
    KeepsSq (fun e : SqS => (e.tail, e.head, e.ring, e.wr, e.seq, e.pkt)) nn s0 (State.flag s k b e) := by
  unfold State.flag
  repeat' first
    | with_reducible intro _
    | with_reducible assumption
    | with_reducible apply note_keepsSq
    | with_reducible apply setBit_keepsSq
    | with_reducible apply raise_keepsSq
    | simp only [↓keepsSq_mk_iff]
    | with_reducible apply keepsSq_ite
    | (extract_lets x; first | (with_reducible refine keepsSq_cut (s := x) ?_ ?_; (on_goal 2 => clear_value x); (on_goal 1 => unfold x)) | (subst x))
    | split

theorem drawn_keepsSq (s : State) (hs : KeepsSq (fun e : SqS => (e.tail, e.head, e.ring, e.wr, e.seq, e.pkt)) nn s0 s) :
    KeepsSq (fun e : SqS => (e.tail, e.head, e.ring, e.wr, e.seq, e.pkt)) nn s0 (State.drawn s) := by
  unfold State.drawn
  repeat' first
    | with_reducible intro _
    | with_reducible assumption
    | simp only [↓keepsSq_mk_iff]

theorem modVe_keepsSq (s : State) (n : Nat) (f : VeRun → VeRun) (hs : KeepsSq (fun e : SqS => (e.tail, e.head, e.ring, e.wr, e.seq, e.pkt)) nn s0 s) :
    KeepsSq (fun e : SqS => (e.tail, e.head, e.ring, e.wr, e.seq, e.pkt)) nn s0 (State.modVe s n f) := by
  unfold State.modVe
  repeat' first
    | with_reducible intro _
    | with_reducible assumption
    | simp only [↓keepsSq_mk_iff]

theorem modMirror_keepsSq (s : State) (f : MirrorS → MirrorS) (hs : KeepsSq (fun e : SqS => (e.tail, e.head, e.ring, e.wr, e.seq, e.pkt)) nn s0 s) :
    KeepsSq (fun e : SqS => (e.tail, e.head, e.ring, e.wr, e.seq, e.pkt)) nn s0 (State.modMirror s f) := by
  unfold State.modMirror
  repeat' first
    | with_reducible intro _
    | with_reducible assumption
    | simp only [↓keepsSq_mk_iff]

theorem meshSend_keepsSq (r : MeshReq) (s : State) (hs : KeepsSq (fun e : SqS => (e.tail, e.head, e.ring, e.wr, e.seq, e.pkt)) nn s0 s) :
    KeepsSq (fun e : SqS => (e.tail, e.head, e.ring, e.wr, e.seq, e.pkt)) nn s0 (meshSend r s) := by
  unfold meshSend
  repeat' first
    | with_reducible intro _
    | with_reducible assumption
    | simp only [↓keepsSq_mk_iff]
    | with_reducible apply keepsSq_ite
    | split

theorem respTaken_keepsSq (x : MeshResp) (s : State) (hs : KeepsSq (fun e : SqS => (e.tail, e.head, e.ring, e.wr, e.seq, e.pkt)) nn s0 s) :
    KeepsSq (fun e : SqS => (e.tail, e.head, e.ring, e.wr, e.seq, e.pkt)) nn s0 (respTaken x s) := by
  unfold respTaken
  repeat' first
    | with_reducible intro _
    | with_reducible assumption
    | simp only [↓keepsSq_mk_iff]

theorem restartLease_keepsSq (s : State) (hs : KeepsSq (fun e : SqS => (e.tail, e.head, e.ring, e.wr, e.seq, e.pkt)) nn s0 s) :
    KeepsSq (fun e : SqS => (e.tail, e.head, e.ring, e.wr, e.seq, e.pkt)) nn s0 (restartLease s) := by
  unfold restartLease
  repeat' first
    | with_reducible intro _
    | with_reducible assumption
    | with_reducible apply modMirror_keepsSq
    | simp only [↓keepsSq_mk_iff]

theorem barrierLeft_keepsSq (n at' : Nat) (s : State) (hs : KeepsSq (fun e : SqS => (e.tail, e.head, e.ring, e.wr, e.seq, e.pkt)) nn s0 s) :
    KeepsSq (fun e : SqS => (e.tail, e.head, e.ring, e.wr, e.seq, e.pkt)) nn s0 (barrierLeft n at' s) := by
  unfold barrierLeft
  repeat' first
    | with_reducible intro _
    | with_reducible assumption
    | with_reducible apply modVe_keepsSq
    | simp only [↓keepsSq_mk_iff]
    | with_reducible apply keepsSq_ite
    | with_reducible apply keepsSq_foldl
    | split

theorem disarmStarts_keepsSq (s : State) (hs : KeepsSq (fun e : SqS => (e.tail, e.head, e.ring, e.wr, e.seq, e.pkt)) nn s0 s) :
    KeepsSq (fun e : SqS => (e.tail, e.head, e.ring, e.wr, e.seq, e.pkt)) nn s0 (disarmStarts s) := by
  unfold disarmStarts
  repeat' first
    | with_reducible intro _
    | with_reducible assumption
    | with_reducible apply wr_keepsSq
    | with_reducible apply modVe_keepsSq
    | with_reducible apply barrierLeft_keepsSq
    | simp only [↓keepsSq_mk_iff]
    | with_reducible apply keepsSq_ite
    | with_reducible apply keepsSq_foldl
    | (extract_lets x; first | (with_reducible refine keepsSq_cut (s := x) ?_ ?_; (on_goal 2 => clear_value x); (on_goal 1 => unfold x)) | (subst x))
    | split

theorem disarmTo_keepsSq (c : Nat) (s : State) (hs : KeepsSq (fun e : SqS => (e.tail, e.head, e.ring, e.wr, e.seq, e.pkt)) nn s0 s) :
    KeepsSq (fun e : SqS => (e.tail, e.head, e.ring, e.wr, e.seq, e.pkt)) nn s0 (disarmTo c s) := by
  unfold disarmTo
  repeat' first
    | with_reducible intro _
    | with_reducible assumption
    | with_reducible apply restartLease_keepsSq
    | with_reducible apply disarmStarts_keepsSq
    | with_reducible apply wr_keepsSq
    | with_reducible apply modMirror_keepsSq
    | simp only [↓keepsSq_mk_iff]

theorem reopen_keepsSq (s : State) (hs : KeepsSq (fun e : SqS => (e.tail, e.head, e.ring, e.wr, e.seq, e.pkt)) nn s0 s) :
    KeepsSq (fun e : SqS => (e.tail, e.head, e.ring, e.wr, e.seq, e.pkt)) nn s0 (reopen s) := by
  unfold reopen
  repeat' first
    | with_reducible intro _
    | with_reducible assumption
    | with_reducible apply disarmTo_keepsSq
    | with_reducible apply wr_keepsSq
    | with_reducible apply raise_keepsSq
    | with_reducible apply keepsSq_ite
    | (extract_lets x; first | (with_reducible refine keepsSq_cut (s := x) ?_ ?_; (on_goal 2 => clear_value x); (on_goal 1 => unfold x)) | (subst x))
    | split

theorem reopenIf_keepsSq (c : Bool) (s : State) (hs : KeepsSq (fun e : SqS => (e.tail, e.head, e.ring, e.wr, e.seq, e.pkt)) nn s0 s) :
    KeepsSq (fun e : SqS => (e.tail, e.head, e.ring, e.wr, e.seq, e.pkt)) nn s0 (reopenIf c s) := by
  unfold reopenIf
  repeat' first
    | with_reducible intro _
    | with_reducible assumption
    | with_reducible apply reopen_keepsSq
    | with_reducible apply keepsSq_ite
    | split

theorem qFlag_keepsSq (q b th : Nat) (s : State) (hs : KeepsSq (fun e : SqS => (e.tail, e.head, e.ring, e.wr, e.seq, e.pkt)) nn s0 s) :
    KeepsSq (fun e : SqS => (e.tail, e.head, e.ring, e.wr, e.seq, e.pkt)) nn s0 (qFlag q b th s) := by
  unfold qFlag
  repeat' first
    | with_reducible intro _
    | with_reducible assumption
    | with_reducible apply note_keepsSq
    | with_reducible apply setBit_keepsSq
    | with_reducible apply raise_keepsSq
    | (with_reducible refine modSq_keepsSq _ _ _ ?_ ?_; (on_goal 2 => (intro e; rfl)))
    | simp only [↓keepsSq_mk_iff]
    | with_reducible apply keepsSq_ite
    | (extract_lets x; first | (with_reducible refine keepsSq_cut (s := x) ?_ ?_; (on_goal 2 => clear_value x); (on_goal 1 => unfold x)) | (subst x))
    | split

theorem setPkts_keepsSq (q v : Nat) (s : State) (hs : KeepsSq (fun e : SqS => (e.tail, e.head, e.ring, e.wr, e.seq, e.pkt)) nn s0 s) :
    KeepsSq (fun e : SqS => (e.tail, e.head, e.ring, e.wr, e.seq, e.pkt)) nn s0 (setPkts q v s) := by
  unfold setPkts
  repeat' first
    | with_reducible intro _
    | with_reducible assumption
    | with_reducible apply qFlag_keepsSq
    | with_reducible apply drawn_keepsSq
    | with_reducible apply wr_keepsSq
    | simp only [↓keepsSq_mk_iff]
    | with_reducible apply keepsSq_ite
    | (extract_lets x; first | (with_reducible refine keepsSq_cut (s := x) ?_ ?_; (on_goal 2 => clear_value x); (on_goal 1 => unfold x)) | (subst x))
    | split

set_option Elab.async false in
theorem queueChanged_keepsSq (q : Nat) (s : State) (hs : KeepsSq (fun e : SqS => (e.tail, e.head, e.ring, e.wr, e.seq, e.pkt)) nn s0 s) :
    KeepsSq (fun e : SqS => (e.tail, e.head, e.ring, e.wr, e.seq, e.pkt)) nn s0 (queueChanged q s) := by
  unfold queueChanged
  repeat' first
    | with_reducible intro _
    | with_reducible assumption
    | with_reducible apply reopenIf_keepsSq
end

end Sys2Proof.Laws
end

