-- ==== Sys2Proof/Laws/CompleteFcp.lean ====
section
/-! SUPPORT. Fail capture and spill queues: facts that proofs about their commands cite. -/
namespace Sys2Proof.Laws.CompleteFcp
open Sys2Proof.Machine Common
theorem meshSend_rd (r : MeshReq) (s : State) (k : Nat) : (meshSend r s).rd k = s.rd k := (meshSend_fr (V := fun _ => False) (M := False) r s (fr_refl s)).1 k not_false
theorem fc_rd (n th : Nat) (c : CycRec) (s : State) (hn : n < 32) :
    (stopOnN n th c (bitmapCycle n th c (countCycle n c (recordCycle n th c s)))).rd (FCP.FAILCYC n) = s.rd (FCP.FAILCYC n) := by
  refine (stopOnN_fr (V := fun k => k ≠ FCP.FAILCYC n) (M := True) (s0 := s) n th c _ (bitmapCycle_fr n th c _ (countCycle_fr n c _ (recordCycle_fr n th c s (fr_refl s) ?_ ?_ ?_ ?_ ?_ ?_) ?_ ?_) ?_ ?_ ?_ ?_ ?_) ?_ ?_ ?_ ?_ ?_ ?_).1 _ (by simp) <;>
  (intros; simp only [FCP.FAILCYC, FCP.Q_EVFLAGS, FCP.STOPPED_BY, FCP.BM_DROP, FCP.BM_FORMED, FCP.BM_MERGED, FCP.REC_DROP_RING, FCP.REC_DROP_CAP, FCP.REC_CAPPED, FCP.REC_FORMED, FCP.CNT_SAT, FCP.FCOUNT]; omega)
theorem cl_rd (n th : Nat) (s : State) (hn : n < 32) :
    (closeBitmap n th (closeRecord n th s)).rd (FCP.FAILCYC n) = s.rd (FCP.FAILCYC n) := by
  refine (closeBitmap_fr (V := fun k => k ≠ FCP.FAILCYC n) (M := True) (s0 := s) n th _ (closeRecord_fr n th s (fr_refl s) ?_ ?_ ?_ ?_ ?_ ?_) ?_ ?_ ?_ ?_).1 _ (by simp) <;>
  (intros; simp only [FCP.FAILCYC, FCP.Q_EVFLAGS, FCP.STOPPED_BY, FCP.BM_DROP, FCP.BM_FORMED, FCP.BM_MERGED, FCP.REC_DROP_RING, FCP.REC_DROP_CAP, FCP.REC_CAPPED, FCP.REC_FORMED, FCP.CNT_SAT, FCP.FCOUNT]; omega)
theorem cl1_rd (n th : Nat) (s : State) (hn : n < 32) :
    (mergeExpire n th s).rd (FCP.FAILCYC n) = s.rd (FCP.FAILCYC n) := by
  refine (mergeExpire_fr (V := fun k => k ≠ FCP.FAILCYC n) (M := True) (s0 := s) n th _ (fr_refl s) ?_ ?_ ?_ ?_).1 _ (by simp) <;>
  (intros; simp only [FCP.FAILCYC, FCP.Q_EVFLAGS, FCP.STOPPED_BY, FCP.BM_DROP, FCP.BM_FORMED, FCP.BM_MERGED, FCP.REC_DROP_RING, FCP.REC_DROP_CAP, FCP.REC_CAPPED, FCP.REC_FORMED, FCP.CNT_SAT, FCP.FCOUNT]; omega)
theorem brk_rd (kind t v ctx cls th k : Nat) (s : State) (hk : k / 65536 ≠ 0xF1 ∧ k / 65536 ≠ 0xF0) (hk2 : k < 0xF00000): (brkMatch kind t v ctx cls th s).rd k = s.rd k := by
  refine (brkMatch_fr (V := fun j => j ≠ k) (M := True) kind t v ctx cls th s (fr_refl s) ?_ ?_ ?_).1 k (by simp) <;> (intros; simp only [DBG.BRK_HITS, DBG.BRK_STATE, DBG.EVFLAGS]; omega)
theorem sq_send (r : MeshReq) (s : State) (n : Nat) : (meshSend r s).sqOf n = s.sqOf n := by unfold meshSend; repeat' (first | rfl | split)
theorem sq_taken (r : MeshResp) (s : State) (n : Nat) : (respTaken r s).sqOf n = s.sqOf n := rfl
theorem like_sq {u t : State} (h : Like u t) (n : Nat) : t.sqOf n = u.sqOf n := by unfold State.sqOf; rw [h.sq]
theorem like_rd {u t : State} (h : Like u t) {k : Nat} (hk : k ≠ 0x300) : t.rd k = u.rd k := h.rd k hk
theorem givesRd {i : Instr} {q : Req} {n b k len data : Nat} {extra : List (Bool × Nat)} {eff : State → State} {s : State} {P : State → Prop}
    (he : exec i s = unitCmd n b (readFrom q k len data extra eff s)) (hn : n < b) (h : Takes q k len s) (hq : q.master ≠ 9)
    (hx : ∀ c ∈ extra, c.1 = false) (hp : ∀ t, Like (eff s) t → P t) : Gives i s fun t => AnsweredWith q len data t ∧ P t := by
  have d := readFrom_done (eff := eff) (data := data) h hq hx
  exact ⟨_, by rw [he, unitNext hn], d.1, hp _ d.2⟩
theorem leave_facts (q k : Nat) (s : State) : ((leaveHead q k s).sqOf q).head = (s.sqOf q).head.drop k ∧
    (leaveHead q k s).rd (FCP.Q_OUT q) = min (s.rd (FCP.Q_OUT q) + k) (2 ^ 64 - 1) := by
  unfold leaveHead
  dsimp only
  split
  · refine ⟨?_, ?_⟩
    · rw [sqOf_addTo, sqOf_modSq]
    · rw [rd_addTo, if_pos rfl, rd_modSq]
  · refine ⟨?_, ?_⟩
    · refine (congrArg (·.2.1) (setPkts_keepsSq (nn := q) (s0 := _) q _ _ rfl)).trans ?_
      dsimp only; rw [sqOf_addTo, sqOf_modSq]
    · rw [(setPkts_fr (V := fun k => k ≠ FCP.Q_OUT q) (M := True) q _ _ (fr_refl _) ?_ ?_).1 _ (by simp), rd_addTo, if_pos rfl, rd_modSq]
      all_goals (simp only [FCP.Q_OUT, FCP.Q_EVFLAGS, FCP.Q_PKTS]; omega)
theorem enter_facts (q : Nat) (ws : List (Nat × Bool)) (s : State) : ((enterTail q ws s).sqOf q).tail = (s.sqOf q).tail ++ ws ∧
    ((enterTail q ws s).sqOf q).pkt = (s.sqOf q).pkt ∧
    (enterTail q ws s).rd (FCP.Q_IN q) = min (s.rd (FCP.Q_IN q) + ws.length) (2 ^ 64 - 1) := by
  unfold enterTail
  dsimp only
  split
  · refine ⟨?_, ?_, ?_⟩
    · rw [sqOf_addTo, sqOf_modSq]
    · rw [sqOf_addTo, sqOf_modSq]
    · rw [rd_addTo, if_pos rfl, rd_modSq]
  · refine ⟨?_, ?_, ?_⟩
    · refine (congrArg (·.1) (setPkts_keepsSq (nn := q) (s0 := _) q _ _ rfl)).trans ?_
      dsimp only; rw [sqOf_addTo, sqOf_modSq]
    · refine (congrArg (·.2.2.2.2.2) (setPkts_keepsSq (nn := q) (s0 := _) q _ _ rfl)).trans ?_
      dsimp only; rw [sqOf_addTo, sqOf_modSq]
    · rw [(setPkts_fr (V := fun k => k ≠ FCP.Q_IN q) (M := True) q _ _ (fr_refl _) ?_ ?_).1 _ (by simp), rd_addTo, if_pos rfl, rd_modSq]
      all_goals (simp only [FCP.Q_IN, FCP.Q_EVFLAGS, FCP.Q_PKTS]; omega)
theorem qc_facts (q : Nat) (s : State) : (queueChanged q s).rd (FCP.Q_STATE q) = s.rd (FCP.Q_STATE q) ∨ True := Or.inr trivial
set_option Elab.async false in
theorem pushWord_done {r : Req} {k q v : Nat} {mark : Bool} {s : State} (h : Writes r k 8 v s) (hx : ∀ c ∈ pushConds q mark s, c.1 = false) :
    Answered r 0 (pushWord r k q v mark s) ∧ Like (pushEff q v mark s) (pushWord r k q v mark s) := by
  unfold pushWord
  dsimp only
  rw [statusOf_zero h.1.2 h.2 hx]
  simp only [Nat.zero_ne_add_one, OfNat.zero_ne_ofNat, false_and, if_false]
  exact ⟨(resp_finish h.1.1).1, like_finish h.1.1⟩
end Sys2Proof.Laws.CompleteFcp
end

