-- ==== Sys2Proof/Laws/CompleteFocus.lean ====
section
/-! SUPPORT. Calibration and the trim store: facts that proofs about their commands cite. -/
namespace Sys2Proof.Laws.CompleteFocus
open Sys2Proof.Machine Common
theorem modFocus_focus (f) (s : State) : (modFocus f s).focus = f s.focus := rfl
theorem calKey_ne {x k j : Nat} (hk : k < 16) (hj : j < 16) (h : k ≠ j) : calKey x k ≠ calKey x j := by
  unfold calKey; split <;> simp only [EDG.OCAL, EDG.ICAL] <;> omega
theorem calKey_big (x k : Nat) : 0x8700 * 256 ≤ calKey x k := by unfold calKey; split <;> simp only [EDG.OCAL, EDG.ICAL] <;> omega
theorem calKey_lt {x k : Nat} (h : x < 512) (hk : k < 16) : calKey x k < 0x8900 * 256 := by unfold calKey; split <;> simp only [EDG.OCAL, EDG.ICAL] <;> omega
theorem modFocus_rd (f) (s : State) (k) : (modFocus f s).rd k = s.rd k := rfl
theorem modTrim_rd (f) (s : State) (k) : (modTrim f s).rd k = s.rd k := rfl
theorem exit_focus (x : Nat) (s : State) : (focusExit x s).focus = { s.focus with left := s.focus.left.filter fun e => !(Nat.beq e.1 x) } := rfl
theorem exit_rd {x k : Nat} {s : State} (h : k ≠ calKey x 8) : (focusExit x s).rd k = s.rd k := rd_wr_other _ h _
theorem exit_8 (x : Nat) (s : State) : (focusExit x s).rd (calKey x 8) = 0 := rd_wr_same _ _ _
theorem held_filter (l : List (Nat × Nat)) (x : Nat) : ((l.filter fun e => !(Nat.beq e.1 x)).any fun e => Nat.beq e.1 x) = false := by
  rw [List.any_eq_false]; intro e he h; rw [List.mem_filter] at he; have := he.2; rw [h] at this; exact absurd this (by decide)
theorem settle_rd {g k : Nat} {s : State} (h : k ≠ EDG.STALE_GROUPS) : (settleStale g s).rd k = s.rd k :=
  (settleStale_fr (V := fun k => k = EDG.STALE_GROUPS) (M := True) g s (fr_refl s) rfl).1 k h
theorem settle_rest (g : Nat) (s : State) : (settleStale g s).focus = s.focus ∧ (settleStale g s).trim = s.trim := by
  have e : ∀ (b : Bool) (u : State), (u.setBit EDG.STALE_GROUPS g b).focus = u.focus ∧ (u.setBit EDG.STALE_GROUPS g b).trim = u.trim := by
    intro b u; unfold State.setBit; repeat' (first | exact ⟨rfl, rfl⟩ | split)
  unfold settleStale
  dsimp only
  rw [(e _ _).1, (e _ _).2]
  split
  · unfold State.raise State.raiseAt; split <;> exact ⟨rfl, rfl⟩
  · exact ⟨rfl, rfl⟩
theorem settle_bit (g : Nat) (s : State) (h : g < 64) : (settleStale g s).bit EDG.STALE_GROUPS g = stale g (toS16 (s.rd (EDG.GROUP g))) s := by
  unfold settleStale
  dsimp only
  cases stale g (toS16 (s.rd (EDG.GROUP g))) s
  · exact bit_setBit_false _ _ _
  · exact bit_setBit_true _ _ _
theorem exit_trim (x : Nat) (s : State) : (focusExit x s).trim = s.trim := rfl
theorem chEnd {kind x e : Nat} {pass : Bool} {res : State → State} {s : State}
    (hk : s.focus.kind = kind) (hf : s.focus.left.find? (fun e => Nat.beq (groupOf e.1) (groupOf x)) = some (x, e))
    (hr : ∀ u : State, (res u).focus = u.focus) :
    focusHeld x (channelEnd kind x pass res s) = false ∧
     (∀ k, k ≠ calKey x 8 → k ≠ EDG.FOCUS_STATE → k ≠ EDG.STALE_GROUPS → (channelEnd kind x pass res s).rd k = (res (s.upto e)).rd k) ∧
     (calKey x 8 ≠ EDG.FOCUS_STATE → calKey x 8 ≠ EDG.STALE_GROUPS → (channelEnd kind x pass res s).rd (calKey x 8) = 0) ∧
     (channelEnd kind x pass res s).trim = (res (s.upto e)).trim := by
  unfold channelEnd
  rw [hf]
  dsimp only
  rw [if_pos ⟨hk, rfl⟩]
  generalize hu : modFocus (fun f => { f with failed := f.failed || !pass }) (settleStale (groupOf x) (focusExit x (res (s.upto e)))) = u
  have u1 : u.focus.left = s.focus.left.filter fun e => !(Nat.beq e.1 x) := by
    subst hu; show (settleStale _ (focusExit x (res (s.upto e)))).focus.left = _; rw [(settle_rest _ _).1, exit_focus, hr]; rfl
  have u2 : ∀ k, k ≠ calKey x 8 → k ≠ EDG.STALE_GROUPS → u.rd k = (res (s.upto e)).rd k := by
    intro k h h'; subst hu; rw [modFocus_rd, settle_rd h']; exact exit_rd h
  have u3 : calKey x 8 ≠ EDG.STALE_GROUPS → u.rd (calKey x 8) = 0 := by intro h; subst hu; rw [modFocus_rd, settle_rd h]; exact exit_8 _ _
  have u4 : u.trim = (res (s.upto e)).trim := by
    subst hu; show (settleStale _ (focusExit x (res (s.upto e)))).trim = _; rw [(settle_rest _ _).2, exit_trim]
  generalize hw : (if (u.focus.left.any fun e => Nat.beq (groupOf e.1) (groupOf x)) = true then u else u.raise (129 + 2 * groupOf x)) = w
  have w1 : w.focus = u.focus ∧ w.trim = u.trim := by
    subst hw; split
    · exact ⟨rfl, rfl⟩
    · unfold State.raise State.raiseAt; split <;> exact ⟨rfl, rfl⟩
  have w2 : ∀ k, w.rd k = u.rd k := by intro k; subst hw; split; rfl; exact rd_raise _ _ _
  split
  · refine ⟨rfl, fun k h1 h2 h3 => ?_, fun h h' => ?_, w1.2.trans u4⟩
    · rw [modFocus_rd, rd_wr_other _ h2, w2, u2 _ h1 h3]
    · rw [modFocus_rd, rd_wr_other _ h, w2, u3 h']
  · refine ⟨?_, fun k h1 h2 h3 => ?_, fun h h' => ?_, w1.2.trans u4⟩
    · unfold focusHeld; rw [w1.1, u1]; exact held_filter _ _
    · rw [w2, u2 _ h1 h3]
    · rw [w2, u3 h']
theorem stamp_rd {x k : Nat} {s : State} (h : k ≠ calKey x 5) : (stampFocus x s).rd k = s.rd k := rd_wr_other _ h _
theorem stamp_stamped (x : Nat) (s : State) : (stampFocus x s).rd (calKey x 5) = s.rd (EDG.GROUP (groupOf x)) % 65536 ∧
    Tab.get (fun _ => 0) (stampFocus x s).trim.whens x = (if timeValid s then netNow s / unitsPerSec % 2 ^ 64 else 0) ∧
    (stampFocus x s).focus = s.focus :=
  ⟨rd_wr_same _ _ _, by unfold stampFocus; dsimp only; exact (get_set _ _ _ _).trans (if_pos rfl), rfl⟩
theorem trims_facts (x : Nat) (v : Trims) (s : State) : (takeTrims x v s).rd (calKey x 6) = 1 ∧ (takeTrims x v s).rd (calKey x 0) = v.rise % 65536 ∧
    (takeTrims x v s).rd (calKey x 1) = v.fall % 65536 ∧ (takeTrims x v s).rd (calKey x 4) = s.rd (calKey x 4) ∧
    (takeTrims x v s).focus = s.focus := by
  have n : ∀ {a b : Nat}, a < 16 → b < 16 → a ≠ b → calKey x a ≠ calKey x b := fun h1 h2 h3 => calKey_ne h1 h2 h3
  unfold takeTrims
  refine ⟨?_, ?_, ?_, ?_, rfl⟩
  all_goals
    dsimp only
    rw [modTrim_rd, stamp_rd (n (by omega) (by omega) (by omega))]
    repeat (first | rw [rd_wr_same] | rw [rd_wr_other _ (n (by omega) (by omega) (by omega))])
theorem ck_fs {x k : Nat} (h : x < 512) (hk : k < 16) : calKey x k ≠ EDG.FOCUS_STATE := by have := calKey_lt h hk; simp only [EDG.FOCUS_STATE]; omega
theorem gc_lt {g x : Nat} (hg : g < 32) (h : x ∈ groupChannels g) : x < 512 := by
  unfold groupChannels at h; simp only [List.mem_append, List.mem_map, List.mem_range] at h; omega
theorem step_other {x y : Nat} {t : Int} {s : State} {k : Nat} (h : k ≠ calKey y 8) : (trackStep y t s).rd k = s.rd k := rd_wr_other _ h _
theorem step_cong {x : Nat} {t : Int} {s u : State} (h4 : u.rd (calKey x 4) = s.rd (calKey x 4)) (h5 : u.rd (calKey x 5) = s.rd (calKey x 5)) (h8 : u.rd (calKey x 8) = s.rd (calKey x 8)) :
    (trackStep x t u).rd (calKey x 8) = (trackStep x t s).rd (calKey x 8) := by
  unfold trackStep trackTarget; rw [h4, h5, h8]
  exact (rd_wr_same _ _ _).trans (rd_wr_same _ _ _).symm
theorem calKey_inj {x y k : Nat} (hx : x < 512) (hy : y < 512) (hk : k < 16) (h : calKey x k = calKey y 8) : x = y ∧ k = 8 := by
  unfold calKey at h
  split at h <;> split at h <;> simp only [EDG.OCAL, EDG.ICAL] at h <;> omega
theorem fold_track (t : Int) : ∀ (l : List Nat) (s : State), l.Nodup → (∀ y ∈ l, y < 512) → ∀ x, x < 512 →
    (l.foldl (fun s x => trackStep x t s) s).rd (calKey x 8) = if x ∈ l then (trackStep x t s).rd (calKey x 8) else s.rd (calKey x 8)
  | [], s, _, _, x, _ => by simp
  | y :: l, s, hn, hl, x, hx => by
    rw [List.foldl_cons, fold_track t l _ hn.of_cons (fun z hz => hl z (List.mem_cons_of_mem _ hz)) x hx]
    have hy := hl y (by simp)
    by_cases e : x = y
    · subst e
      rw [if_neg (List.nodup_cons.1 hn).1, if_pos (by simp)]
    · have k : ∀ {j}, j < 16 → calKey x j ≠ calKey y 8 := fun hj h => e (calKey_inj hx hy hj h).1
      have hm : (x ∈ y :: l) ↔ x ∈ l := by simp [e]
      simp only [hm]
      split
      · exact step_cong (step_other (x := x) (k (by omega))) (step_other (x := x) (k (by omega))) (step_other (x := x) (k (by omega)))
      · exact step_other (x := x) (k (by omega))
theorem fold_other (t : Int) : ∀ (l : List Nat) (s : State) (k : Nat), (∀ y ∈ l, k ≠ calKey y 8) → (l.foldl (fun s x => trackStep x t s) s).rd k = s.rd k
  | [], _, _, _ => rfl
  | y :: l, s, k, h => by
    rw [List.foldl_cons, fold_other t l _ k (fun z hz => h z (List.mem_cons_of_mem _ hz))]
    exact step_other (x := y) (h y (by simp))
theorem find_del {p : Nat × Nat → Bool} {k : Nat} (hp : ∀ v, p (k, v) = false) : ∀ t : Tab Nat, (Tab.del k t).find? p = t.find? p
  | [] => rfl
  | e :: t => by
    unfold Tab.del
    split
    · rename_i h
      have : p e = false := by have := hp e.2; rw [← h] at this; exact this
      rw [find_del hp t, List.find?_cons, this]
    · rw [List.find?_cons, List.find?_cons, find_del hp t]
theorem find_ins {p : Nat × Nat → Bool} {k v : Nat} (hp : p (k, v) = false) : ∀ t : Tab Nat, (Tab.ins k v t).find? p = t.find? p
  | [] => by simp [Tab.ins, hp]
  | e :: t => by
    unfold Tab.ins
    split
    · rw [List.find?_cons, hp]
    · rw [List.find?_cons, List.find?_cons, find_ins hp t]
theorem find_set {p : Nat × Nat → Bool} {k v : Nat} {d : Nat → Nat} (hp : ∀ v, p (k, v) = false) (t : Tab Nat) : (Tab.set d t k v).find? p = t.find? p := by
  unfold Tab.set; split
  · exact find_del hp t
  · rw [find_ins (hp v), find_del hp t]
theorem owner_wr {first c k v : Nat} {s : State} (h : first + 32 ≤ k / 256) : ownerIn first c (s.wr k v) = ownerIn first c s := by
  unfold ownerIn
  show (match (Tab.set _ s.reg k v).find? _ with | some e => _ | none => _) = _
  rw [find_set]; try rfl
  intro w
  have : Nat.blt (k / 256) (first + 32) = false := by 
    rw [Bool.eq_false_iff]; intro h'; have h2 : k / 256 < first + 32 := by simpa using h'
    omega
  simp [this]
theorem chOwner_wr {x k v : Nat} {s : State} (h : 0x8700 * 256 ≤ k) : channelOwner x (s.wr k v) = channelOwner x s := by
  unfold channelOwner outOwner inOwner
  rw [owner_wr (by omega), owner_wr (by omega)]
theorem any_congr' {f g : Nat → Bool} : ∀ {l : List Nat}, (∀ x ∈ l, f x = g x) → l.any f = l.any g
  | [], _ => rfl
  | a :: l, h => by rw [List.any_cons, List.any_cons, h a (by simp), any_congr' fun x hx => h x (List.mem_cons_of_mem _ hx)]
theorem stale_wr {g k v : Nat} {t : Int} {s : State} (hg : g < 32) (h : 0x8700 * 256 ≤ k) (h' : ∀ x, x < 512 → k ≠ calKey x 5) : stale g t (s.wr k v) = stale g t s := by
  unfold stale
  refine any_congr' fun x hx => ?_
  rw [chOwner_wr h, rd_wr_other _ (h' x (gc_lt hg hx)).symm]
theorem stale_raise (g e : Nat) (t : Int) (s : State) : stale g t (s.raise e) = stale g t s := by
  unfold stale channelOwner outOwner inOwner ownerIn
  simp only [raise_reg, rd_raise]
theorem gk {g x k : Nat} (hx : x < 512) (hk : k < 16) : calKey x k ≠ EDG.GROUP g := by
  have := calKey_lt hx hk; simp only [EDG.GROUP]; omega
theorem stale_fold {g : Nat} {t : Int} (hg : g < 32) : ∀ (l : List Nat) (s : State), (∀ y ∈ l, y < 512) → stale g t (l.foldl (fun s x => trackStep x t s) s) = stale g t s
  | [], _, _ => rfl
  | y :: l, s, h => by
    rw [List.foldl_cons, stale_fold hg l _ (fun z hz => h z (List.mem_cons_of_mem _ hz))]
    refine stale_wr hg (calKey_big _ _) fun x hx e => ?_
    exact absurd (calKey_inj hx (h y (by simp)) (k := 5) (by omega) e.symm).2 (by omega)
theorem nodup_range_map {f : Nat → Nat} (hf : ∀ a b, f a = f b → a = b) (k : Nat) : ((List.range k).map f).Nodup := List.Nodup.map (fun a b h => hf a b h) List.nodup_range
set_option Elab.async false in
theorem gc_nodup (g : Nat) : (groupChannels g).Nodup ∨ ¬ g < 32 := by
  by_cases hg : g < 32
  · left
    unfold groupChannels
    refine List.Nodup.append (nodup_range_map (by intro a b h; omega) _) (nodup_range_map (by intro a b h; omega) _) ?_
    intro a h1 h2
    simp only [List.mem_map, List.mem_range] at h1 h2
    omega
  · exact Or.inr hg
end Sys2Proof.Laws.CompleteFocus
end

