-- ==== Sys2Proof/Laws/KeepsCrhMesh.lean ====
section
/-! SUPPORT. State.crh: what the operations it lists leave unchanged. -/
set_option linter.unreachableTactic false
set_option linter.unusedSimpArgs false
set_option linter.unusedTactic false
namespace Sys2Proof.Laws
open Sys2Proof.Machine
section
variable {s0 : State}
def KeepsCrhMesh (s0 s : State) : Prop := s.crh = s0.crh
theorem keepsCrhMesh_ite {c : Prop} [Decidable c] {x y : State} (hx : KeepsCrhMesh s0 x) (hy : KeepsCrhMesh s0 y) : KeepsCrhMesh s0 (if c then x else y) := by split <;> assumption
theorem keepsCrhMesh_foldl {β : Type} {f : State → β → State} (hf : ∀ s x, KeepsCrhMesh s0 s → KeepsCrhMesh s0 (f s x)) :
    ∀ {l : List β} {s : State}, KeepsCrhMesh s0 s → KeepsCrhMesh s0 (l.foldl f s)
  | [], _, h => h
  | x :: l, s, h => keepsCrhMesh_foldl (l := l) hf (hf s x h)
theorem keepsCrhMesh_cut {s : State} {p : Prop} (h : KeepsCrhMesh s0 s) (f : KeepsCrhMesh s0 s → p) : p := f h
theorem wr_keepsCrhMesh (k v : Nat) (s : State) (h : KeepsCrhMesh s0 s) : KeepsCrhMesh s0 (s.wr k v) := h
theorem keepsCrhMesh_mk_iff {s : State} {x_now : Nat} {x_reg : Tab Nat} {x_mem : List Host.Cell} {x_evq : List (Nat × Nat)} {x_freeCtr : Nat} {x_pending : List Instr} {x_hdi : HdiS} {x_clk : ClockS} {x_sched : List Sched} {x_ve : Tab VeRun} {x_outCh : Tab OutCh} {x_inCh : Tab InCh} {x_fcp : Tab FcpS} {x_sq : Tab SqS} {x_brk : Tab BrkS} {x_tgt : Tab TgtS} {x_groupAt : List (Nat × Nat)} {x_dsp : Tab DspRun} {x_focus : FocusS} {x_trim : TrimS} {x_reqs : List MeshReq} {x_resps : List MeshResp} {x_held : List PortReq} {x_steal : List PortReq} {x_labels : List (MeshReq × Nat)} {x_drain : Option Drain} {x_trace : List Nat} {x_dmc : Tab DmcS} {x_autoTrain : Bool} {x_cfg : CfgS} {x_fresh : List (Nat × Nat × Nat)} {x_cleared : List (Nat × Nat × Nat)} {x_sup : SupS} {x_dbg : DbgS} {x_tmu : TmuS} {x_lanes : Tab LaneS} {x_cells : Tab (Option CellS)} {x_cellCfg : Tab CellCfg} {x_sels : Tab Nat} {x_tracks : Tab Nat} {x_upsets : List Upset} {x_facets : Tab FacetS} {x_fev : List (Nat × Nat)} {x_panes : Tab PaneS} {x_banks : Tab BankS} {x_pins : PinsS} :
    KeepsCrhMesh s0 ⟨x_now, x_reg, x_mem, x_evq, x_freeCtr, x_pending, x_hdi, x_clk, x_sched, x_ve, x_outCh, x_inCh, x_fcp, x_sq, x_brk, x_tgt, x_groupAt, x_dsp, x_focus, x_trim, x_reqs, x_resps, x_held, x_steal, x_labels, x_drain, x_trace, x_dmc, x_autoTrain, s.crh, x_cfg, x_fresh, x_cleared, x_sup, x_dbg, x_tmu, x_lanes, x_cells, x_cellCfg, x_sels, x_tracks, x_upsets, x_facets, x_fev, x_panes, x_banks, x_pins⟩ ↔ KeepsCrhMesh s0 s := Iff.rfl
theorem addTo_keepsCrhMesh (s : State) (w k d : Nat) (hs : KeepsCrhMesh s0 s) :
    KeepsCrhMesh s0 (State.addTo s w k d) := by
  unfold State.addTo
  repeat' first
    | with_reducible intro _
    | with_reducible assumption
    | with_reducible apply wr_keepsCrhMesh

theorem bump_keepsCrhMesh (s : State) (w k : Nat) (hs : KeepsCrhMesh s0 s) :
    KeepsCrhMesh s0 (State.bump s w k) := by
  unfold State.bump
  repeat' first
    | with_reducible intro _
    | with_reducible assumption
    | with_reducible apply addTo_keepsCrhMesh

theorem raiseAt_keepsCrhMesh (s : State) (t e : Nat) (hs : KeepsCrhMesh s0 s) :
    KeepsCrhMesh s0 (State.raiseAt s t e) := by
  unfold State.raiseAt
  repeat' first
    | with_reducible intro _
    | with_reducible assumption
    | simp only [↓keepsCrhMesh_mk_iff]
    | with_reducible apply keepsCrhMesh_ite
    | (extract_lets x; first | (with_reducible refine keepsCrhMesh_cut (s := x) ?_ ?_; (on_goal 2 => clear_value x); (on_goal 1 => unfold x)) | (subst x))
    | split

theorem raise_keepsCrhMesh (s : State) (e : Nat) (hs : KeepsCrhMesh s0 s) :
    KeepsCrhMesh s0 (State.raise s e) := by
  unfold State.raise
  repeat' first
    | with_reducible intro _
    | with_reducible assumption
    | with_reducible apply raiseAt_keepsCrhMesh
    | simp only [↓keepsCrhMesh_mk_iff]
    | with_reducible apply keepsCrhMesh_ite
    | (extract_lets x; first | (with_reducible refine keepsCrhMesh_cut (s := x) ?_ ?_; (on_goal 2 => clear_value x); (on_goal 1 => unfold x)) | (subst x))
    | split

theorem setBit_keepsCrhMesh (s : State) (k b : Nat) (v : Bool) (hs : KeepsCrhMesh s0 s) :
    KeepsCrhMesh s0 (State.setBit s k b v) := by
  unfold State.setBit
  repeat' first
    | with_reducible intro _
    | with_reducible assumption
    | with_reducible apply wr_keepsCrhMesh
    | with_reducible apply keepsCrhMesh_ite
    | split

theorem note_keepsCrhMesh (s : State) (k b : Nat) (hs : KeepsCrhMesh s0 s) :
    KeepsCrhMesh s0 (State.note s k b) := by
  unfold State.note
  repeat' first
    | with_reducible intro _
    | with_reducible assumption
    | simp only [↓keepsCrhMesh_mk_iff]
    | with_reducible apply keepsCrhMesh_ite
    | (extract_lets x; first | (with_reducible refine keepsCrhMesh_cut (s := x) ?_ ?_; (on_goal 2 => clear_value x); (on_goal 1 => unfold x)) | (subst x))
    | split

theorem flag_keepsCrhMesh (s : State) (k b e : Nat) (hs : KeepsCrhMesh s0 s) :
    KeepsCrhMesh s0 (State.flag s k b e) := by
  unfold State.flag
  repeat' first
    | with_reducible intro _
    | with_reducible assumption
    | with_reducible apply note_keepsCrhMesh
    | with_reducible apply setBit_keepsCrhMesh
    | with_reducible apply raise_keepsCrhMesh
    | simp only [↓keepsCrhMesh_mk_iff]
    | with_reducible apply keepsCrhMesh_ite
    | (extract_lets x; first | (with_reducible refine keepsCrhMesh_cut (s := x) ?_ ?_; (on_goal 2 => clear_value x); (on_goal 1 => unfold x)) | (subst x))
    | split

theorem drawn_keepsCrhMesh (s : State) (hs : KeepsCrhMesh s0 s) :
    KeepsCrhMesh s0 (State.drawn s) := by
  unfold State.drawn
  repeat' first
    | with_reducible intro _
    | with_reducible assumption
    | simp only [↓keepsCrhMesh_mk_iff]

theorem modVe_keepsCrhMesh (s : State) (n : Nat) (f : VeRun → VeRun) (hs : KeepsCrhMesh s0 s) :
    KeepsCrhMesh s0 (State.modVe s n f) := by
  unfold State.modVe
  repeat' first
    | with_reducible intro _
    | with_reducible assumption
    | simp only [↓keepsCrhMesh_mk_iff]

theorem modBrk_keepsCrhMesh (s : State) (u : Nat) (f : BrkS → BrkS) (hs : KeepsCrhMesh s0 s) :
    KeepsCrhMesh s0 (State.modBrk s u f) := by
  unfold State.modBrk
  repeat' first
    | with_reducible intro _
    | with_reducible assumption
    | simp only [↓keepsCrhMesh_mk_iff]

theorem modTgt_keepsCrhMesh (s : State) (t : Nat) (f : TgtS → TgtS) (hs : KeepsCrhMesh s0 s) :
    KeepsCrhMesh s0 (State.modTgt s t f) := by
  unfold State.modTgt
  repeat' first
    | with_reducible intro _
    | with_reducible assumption
    | simp only [↓keepsCrhMesh_mk_iff]

theorem modDsp_keepsCrhMesh (s : State) (n : Nat) (f : DspRun → DspRun) (hs : KeepsCrhMesh s0 s) :
    KeepsCrhMesh s0 (State.modDsp s n f) := by
  unfold State.modDsp
  repeat' first
    | with_reducible intro _
    | with_reducible assumption
    | simp only [↓keepsCrhMesh_mk_iff]

theorem latchDebugHalt_keepsCrhMesh (t th : Nat) (s : State) (hs : KeepsCrhMesh s0 s) :
    KeepsCrhMesh s0 (latchDebugHalt t th s) := by
  unfold latchDebugHalt
  repeat' first
    | with_reducible intro _
    | with_reducible assumption
    | with_reducible apply modTgt_keepsCrhMesh
    | with_reducible apply modVe_keepsCrhMesh
    | with_reducible apply modDsp_keepsCrhMesh
    | simp only [↓keepsCrhMesh_mk_iff]
    | with_reducible apply keepsCrhMesh_ite
    | (extract_lets x; first | (with_reducible refine keepsCrhMesh_cut (s := x) ?_ ?_; (on_goal 2 => clear_value x); (on_goal 1 => unfold x)) | (subst x))
    | split

theorem linkFired_keepsCrhMesh (u : Nat) (s : State) (hs : KeepsCrhMesh s0 s) :
    KeepsCrhMesh s0 (linkFired u s) := by
  unfold linkFired
  repeat' first
    | with_reducible intro _
    | with_reducible assumption
    | with_reducible apply modBrk_keepsCrhMesh
    | simp only [↓keepsCrhMesh_mk_iff]
    | with_reducible apply keepsCrhMesh_ite
    | with_reducible apply keepsCrhMesh_foldl
    | split

theorem brkFire_keepsCrhMesh (u t th : Nat) (s : State) (hs : KeepsCrhMesh s0 s) :
    KeepsCrhMesh s0 (brkFire u t th s) := by
  unfold brkFire
  repeat' first
    | with_reducible intro _
    | with_reducible assumption
    | with_reducible apply linkFired_keepsCrhMesh
    | with_reducible apply wr_keepsCrhMesh
    | with_reducible apply flag_keepsCrhMesh
    | with_reducible apply latchDebugHalt_keepsCrhMesh
    | simp only [↓keepsCrhMesh_mk_iff]
    | (extract_lets x; first | (with_reducible refine keepsCrhMesh_cut (s := x) ?_ ?_; (on_goal 2 => clear_value x); (on_goal 1 => unfold x)) | (subst x))
    | split

theorem brkCount_keepsCrhMesh (u t th : Nat) (s : State) (hs : KeepsCrhMesh s0 s) :
    KeepsCrhMesh s0 (brkCount u t th s) := by
  unfold brkCount
  repeat' first
    | with_reducible intro _
    | with_reducible assumption
    | with_reducible apply bump_keepsCrhMesh
    | with_reducible apply modBrk_keepsCrhMesh
    | with_reducible apply brkFire_keepsCrhMesh
    | simp only [↓keepsCrhMesh_mk_iff]
    | with_reducible apply keepsCrhMesh_ite
    | (extract_lets x; first | (with_reducible refine keepsCrhMesh_cut (s := x) ?_ ?_; (on_goal 2 => clear_value x); (on_goal 1 => unfold x)) | (subst x))
    | split

theorem brkMatch_keepsCrhMesh (kind t v ctx cls th : Nat) (s : State) (hs : KeepsCrhMesh s0 s) :
    KeepsCrhMesh s0 (brkMatch kind t v ctx cls th s) := by
  unfold brkMatch
  repeat' first
    | with_reducible intro _
    | with_reducible assumption
    | with_reducible apply brkCount_keepsCrhMesh
    | with_reducible apply keepsCrhMesh_ite
    | with_reducible apply keepsCrhMesh_foldl
    | split

theorem mshFlag_keepsCrhMesh (b : Nat) (s : State) (hs : KeepsCrhMesh s0 s) :
    KeepsCrhMesh s0 (mshFlag b s) := by
  unfold mshFlag
  repeat' first
    | with_reducible intro _
    | with_reducible assumption
    | with_reducible apply flag_keepsCrhMesh

theorem traceWrite_keepsCrhMesh (p : Nat) (k : Packet) (s : State) (hs : KeepsCrhMesh s0 s) :
    KeepsCrhMesh s0 (traceWrite p k s) := by
  unfold traceWrite
  repeat' first
    | with_reducible intro _
    | with_reducible assumption
    | with_reducible apply drawn_keepsCrhMesh
    | with_reducible apply bump_keepsCrhMesh
    | with_reducible apply mshFlag_keepsCrhMesh
    | simp only [↓keepsCrhMesh_mk_iff]
    | with_reducible apply keepsCrhMesh_ite
    | (extract_lets x; first | (with_reducible refine keepsCrhMesh_cut (s := x) ?_ ?_; (on_goal 2 => clear_value x); (on_goal 1 => unfold x)) | (subst x))
    | split

theorem probesSee_keepsCrhMesh (k : Packet) (s : State) (hs : KeepsCrhMesh s0 s) :
    KeepsCrhMesh s0 (probesSee k s) := by
  unfold probesSee
  repeat' first
    | with_reducible intro _
    | with_reducible assumption
    | with_reducible apply bump_keepsCrhMesh
    | with_reducible apply addTo_keepsCrhMesh
    | with_reducible apply traceWrite_keepsCrhMesh
    | with_reducible apply keepsCrhMesh_ite
    | with_reducible apply keepsCrhMesh_foldl
    | (extract_lets x; first | (with_reducible refine keepsCrhMesh_cut (s := x) ?_ ?_; (on_goal 2 => clear_value x); (on_goal 1 => unfold x)) | (subst x))
    | split

set_option Elab.async false in
theorem noteArrival_keepsCrhMesh (r : MeshReq) (s : State) (hs : KeepsCrhMesh s0 s) :
    KeepsCrhMesh s0 (noteArrival r s) := by
  unfold noteArrival
  repeat' first
    | with_reducible intro _
    | with_reducible assumption
    | with_reducible apply brkMatch_keepsCrhMesh
    | with_reducible apply probesSee_keepsCrhMesh
end

end Sys2Proof.Laws
end

