-- ==== Sys2Proof/Laws/CompleteHdi.lean ====
section
/-! SUPPORT. The bus and requests: facts that proofs about their commands cite. -/
namespace Sys2Proof.Laws.CompleteHdi
open Sys2Proof.Machine Common CompleteCrh.ClockFacts
namespace BusFacts
theorem bus_of {s : State} {f : I3cS → I3cS} : BusGives s f (s.modI3c f) := ⟨rfl, rfl, rfl, rfl⟩
theorem bus_take {s : State} {f : I3cS → I3cS} : BusGives s (fun i => { f i with out := .ack }) (takeCcc f s) := ⟨rfl, rfl, rfl, rfl⟩
theorem bus_show {s : State} {b : BusOut} : BusGives s (fun i => { i with out := b }) (show' b s) := ⟨rfl, rfl, rfl, rfl⟩
theorem direct_at {s : State} {a : Nat} {f : State → State} (hb : busUp s = true) (ha : s.hdi.i3c.dyn = some a) : direct a f s = f s := by
  unfold direct; rw [if_pos hb, ha]; simp
theorem direct_none {s : State} {f : State → State} (hb : busUp s = true) (ha : s.hdi.i3c.dyn = none) : direct 0x3A f s = show' .nack s := by
  unfold direct; rw [if_pos hb, ha]; simp
theorem broad {s : State} {f : State → State} (hb : busUp s = true) : broadcast f s = f s := by unfold broadcast; rw [if_pos hb]
theorem either_at {s : State} {a : Nat} {d : Option Nat} {f : State → State} (hb : busUp s = true) (ha : s.hdi.i3c.dyn = some a) (hd : d ∈ [none, some a]) :
    either d f s = f s := by
  simp only [List.mem_cons, List.not_mem_nil, or_false] at hd
  rcases hd with rfl | rfl
  · exact broad hb
  · exact direct_at hb ha
theorem meshForm_false {q : Req} {op k : Nat} {r : Dict.Row} (hf : Dict.find (k / 256) (k % 256) = some r)
    (h : 16 ≤ q.master → op < 3 ∧ (op = 2 → r.acc ≠ .rws) ∧ r.acc ≠ .rd ∧ r.ty ≠ .str ∧ r.ty ≠ .blob ∧ r.ty ≠ .time128 ∧ r.width ≤ 8) :
    (meshForm q op (k / 256) (k % 256)).1 = false := by
  unfold meshForm
  rw [hf]
  dsimp only
  by_cases hm : 16 ≤ q.master
  · obtain ⟨h1, h2, h3, h4, h5, h6, h7⟩ := h hm
    have e1 : Nat.ble 3 op = false := by rw [← Bool.not_eq_true, Nat.ble_eq]; omega
    have e2 : (Nat.beq op 2 && decide (r.acc = .rws)) = false := by
      rw [Bool.and_eq_false_iff]
      by_cases ho : op = 2
      · exact .inr (decide_eq_false (h2 ho))
      · exact .inl (by rw [← Bool.not_eq_true, Nat.beq_eq]; exact ho)
    have e3 : Nat.blt 8 r.width = false := by rw [← Bool.not_eq_true]; unfold Nat.blt; rw [Nat.ble_eq]; omega
    rw [e1, e2, e3, decide_eq_false h3, decide_eq_false h4, decide_eq_false h5, decide_eq_false h6]
    simp
  · have : Nat.ble 16 q.master = false := by rw [← Bool.not_eq_true, Nat.ble_eq]; exact hm
    rw [this]; rfl
theorem key_back (k : Nat) : k / 256 * 256 + k % 256 = k := Nat.div_add_mod' k 256
theorem reads_conds {q : Req} {k : Nat} {r : Dict.Row} {extra : List (Bool × Nat)} (hm : (meshForm q 1 (k / 256) (k % 256)).1 = false)
    (hx : ∀ c ∈ extra, c.1 = false) : ∀ c ∈ meshForm q 1 (k / 256) (k % 256) :: extra, c.1 = false := by
  intro c hc
  rcases List.mem_cons.1 hc with rfl | hc
  · exact hm
  · exact hx c hc
theorem conds_of {q : Req} {op k : Nat} {extra : List (Bool × Nat)} (hm : (meshForm q op (k / 256) (k % 256)).1 = false)
    (hx : ∀ c ∈ extra, c.1 = false) : ∀ c ∈ meshForm q op (k / 256) (k % 256) :: extra, c.1 = false := by
  intro c hc
  rcases List.mem_cons.1 hc with rfl | hc
  · exact hm
  · exact hx c hc
theorem modMirror_other (s : State) (f : MirrorS → MirrorS) (k : Nat) : (s.modMirror f).rd k = s.rd k := rfl
theorem fold_masters : ∀ (rs : List MeshReq) (s : State), (rs.foldl (fun s r => meshSend r s) s).hdi = s.hdi
  | [], s => rfl
  | r :: rs, s => by
    rw [List.foldl_cons, fold_masters rs]
    unfold meshSend; repeat' (first | rfl | split)
theorem fold_reg : ∀ (rs : List MeshReq) (s : State), (rs.foldl (fun s r => meshSend r s) s).reg = s.reg
  | [], s => rfl
  | r :: rs, s => by
    rw [List.foldl_cons, fold_reg rs]
    unfold meshSend; repeat' (first | rfl | split)
theorem region_reg {s t : State} (h1 : t.rd DMC.MAP_STATE = s.rd DMC.MAP_STATE) (h2 : t.rd DMC.INSTALLED = s.rd DMC.INSTALLED) (a : Nat) : regionOf a t = regionOf a s := by
  unfold regionOf; rw [h1, h2]
theorem fold_reqs : ∀ (rs : List MeshReq) (s : State), (rs.foldl (fun s r => meshSend r s) s).reqs = s.reqs ++ rs.filter (fun r => regionOf r.addr s != 6) ∧
    (rs.foldl (fun s r => meshSend r s) s).resps = s.resps ++ (rs.filter fun r => regionOf r.addr s == 6).map fun r => ⟨r, 2, 0⟩
  | [], s => by simp
  | r :: rs, s => by
    rw [List.foldl_cons]
    have ih := fold_reqs rs (meshSend r s)
    have hreg : (meshSend r s).reg = s.reg := by unfold meshSend; repeat' (first | rfl | split)
    have hr : ∀ k, (meshSend r s).rd k = s.rd k := fun k => by unfold State.rd; rw [hreg]
    have he : ∀ a, regionOf a (meshSend r s) = regionOf a s := region_reg (hr _) (hr _)
    simp only [he] at ih
    rw [ih.1, ih.2]
    unfold meshSend
    by_cases h : regionOf r.addr s = 6
    · rw [if_pos h, List.filter_cons_of_neg (by simp [h]), List.filter_cons_of_pos (by simp [h])]
      simp
    · rw [if_neg h, List.filter_cons_of_pos (by simp [h]), List.filter_cons_of_neg (by simp [h])]
      cases r.own <;> simp
theorem adv_rd (dbg : Bool) (n : Nat) (s : State) {k : Nat} (h : k ≠ addrKey dbg) : (advance dbg n s).rd k = s.rd k := rd_wr_other _ h _
theorem ak {dbg : Bool} {k : Nat} (h1 : k ≠ DBG.MEM_ADDR) (h2 : k ≠ HDI.MESH_ADDR) : k ≠ addrKey dbg := by cases dbg <;> assumption
theorem sent {dbg : Bool} {n : Nat} {rs : List MeshReq} {s u : State} (hu : u = advance dbg n s ∨ ∃ q f, u = (advance dbg n (s.modMaster q f))) :
    BlockSent dbg n rs s (rs.foldl (fun s r => meshSend r s) u) := by
  have h0 : u.reg = (advance dbg n s).reg ∧ u.reqs = s.reqs ∧ u.resps = s.resps := by
    rcases hu with rfl | ⟨q, f, rfl⟩ <;> exact ⟨rfl, rfl, rfl⟩
  have hrd : ∀ k, k ≠ addrKey dbg → u.rd k = s.rd k := fun k hk => by unfold State.rd; rw [h0.1]; exact adv_rd dbg n s hk
  have he : ∀ a, regionOf a u = regionOf a s := region_reg (hrd _ (ak (by decide) (by decide))) (hrd _ (ak (by decide) (by decide)))
  have hf := fold_reqs rs u
  simp only [he] at hf
  refine ⟨?_, ?_, ?_⟩
  · unfold State.rd
    rw [fold_reg, h0.1]
    exact rd_wr_same s (addrKey dbg) _
  · rw [hf.1, h0.2.1]
  · rw [hf.2, h0.2.2]
theorem sent_like {dbg : Bool} {n : Nat} {rs : List MeshReq} {s u t : State} (h : BlockSent dbg n rs s u) (hl : Like u t) : BlockSent dbg n rs s t := by
  refine ⟨?_, ?_, ?_⟩
  · rw [hl.rd _ (by cases dbg <;> decide)]; exact h.1
  · rw [hl.reqs]; exact h.2.1
  · rw [hl.resps]; exact h.2.2
theorem pend_like {u t : State} (hl : Like u t) (m : Nat) : (t.masterOf m).pend = (u.masterOf m).pend ∧ (t.masterOf m).snaps = (u.masterOf m).snaps := by
  obtain ⟨r, hr⟩ := hl.master m; rw [hr]; exact ⟨rfl, rfl⟩
def pendOf (q : Req) (k v : Nat) (s : State) : Pend :=
  { key := k / 256 * 256 + k % 256, implicit := false, tag := q.tag, addr := s.rd (addrKey (isDbg (k / 256))), len := if sized (k / 256) (k % 256) then v else 0, parts := if sized (k / 256) (k % 256) then blockReqs (isDbg (k / 256)) q.master .read (s.rd (addrKey (isDbg (k / 256)))) v 0 else [] }
end BusFacts
open BusFacts

theorem acc_of {o m : Nat} {r : Dict.Row} (h : Dict.find o m = some r) {x : Dict.Row → Bool} {b : Bool} (hx : (Dict.find o m).map x = some b) : x r = b := by
  rw [h] at hx; exact Option.some.inj hx
/-- What a write of v to a W1C member clears: the recorded drops of the groups are brought up to date first. -/
def clearsBits (k v : Nat) (s : State) : State := (if Nat.beq k EDG.DROP_GROUPS then settleDrops s else s).clearBits k v
theorem req_write {q : Req} {k len v : Nat} {r : Dict.Row} {s : State} (hf : Dict.find (k / 256) (k % 256) = some r)
    (h1 : k ≠ CRH.RESET) (h2 : k ≠ DBG.CTRL) (h3 : k ≠ DBG.AUTH_RESP) (h4 : k ≠ TMU.STEP) (h5 : k / 65536 = 0x93 → k % 256 ≠ 0x10 ∧ k % 256 ≠ 0x11) :
    request q 2 (k / 256) (k % 256) len v s = 
    (match r.acc with
    | .rws => ruleWrite q (k / 256) (k % 256) len v (stageConds q k len s, stageEff q k len v) s
    | .w1c => ruleWrite q (k / 256) (k % 256) len v ([], clearsBits k v) s
    | .cmd => ruleWrite q (k / 256) (k % 256) len v (ctrlRule q (k / 256) (k % 256) v s) s
    | .rd =>
      ruleWrite q (k / 256) (k % 256) len v
        (if sized (k / 256) (k % 256) then (meshWriteConds (isDbg (k / 256)) len s, meshWriteEff (isDbg (k / 256)) q.master len v) else ([], fun s => s)) s
    | _ => ruleWrite q (k / 256) (k % 256) len v (writeRule q (k / 256) (k % 256) len v s) s) := by
  unfold request
  rw [hf]
  dsimp only
  unfold writeReq
  dsimp only
  rw [key_back]
  have b : ∀ {a c : Nat}, a ≠ c → Nat.beq a c = false := fun h => by rw [← Bool.not_eq_true, Nat.beq_eq]; exact h
  rw [b h1, b h2, b h3, b h4]
  simp only [Bool.and_false, Bool.false_and, Bool.false_eq_true, if_false]
  split
  · rename_i h
    exfalso
    simp only [Bool.and_eq_true, Bool.or_eq_true, Nat.beq_eq] at h
    have := h5 (by rw [show (65536 : Nat) = 256 * 256 by norm_num, ← Nat.div_div_eq_div_mul]; exact h.1.2)
    rcases h.2 with e | e
    · exact this.1 e
    · exact this.2 e
  · rfl
theorem rule_done {q : Req} {k len v : Nat} {rl : Rule} {s : State} (hm : (meshForm q 2 (k / 256) (k % 256)).1 = false)
    (h : Writes q k len v s) (hx : ∀ c ∈ rl.1, c.1 = false) :
    Answered q 0 (ruleWrite q (k / 256) (k % 256) len v rl s) ∧ Like (rl.2 s) (ruleWrite q (k / 256) (k % 256) len v rl s) := by
  unfold ruleWrite
  rw [statusOf_zero h.1.2 h.2 (conds_of hm hx)]
  exact ⟨(resp_finish h.1.1).1, like_finish h.1.1⟩
theorem find_row {o m : Nat} {r : Dict.Row} (h : Dict.find o m = some r) : r ∈ Dict.rowsOf o ∧ r.holds o m = true := by
  unfold Dict.find at h
  split at h
  · cases h
  · exact ⟨List.mem_of_find?_eq_some h, by have := List.find?_some h; simpa using this⟩
theorem push_acc {k : Nat} {r : Dict.Row} (h : Dict.find (k / 256) (k % 256) = some r) (hk : k / 65536 = 0x93) (hm : k % 256 = 0x10 ∨ k % 256 = 0x11) : r.acc = .wo := by
  obtain ⟨h1, h2⟩ := find_row h
  have hr : Dict.rowsOf (k / 256) = Dict.rows9 := by
    unfold Dict.rowsOf
    have : k / 256 / 4096 = 9 := by omega
    rw [this]; rfl
  rw [hr] at h1
  have key : (Dict.rows9.all fun r => Nat.ble (r.obj + r.cnt) 0x9300 || Nat.ble 0x9400 r.obj || Nat.blt 0x11 r.lo || Nat.blt r.hi 0x10 || decide (r.acc = .wo)) = true := by decide
  have := List.all_eq_true.1 key r h1
  unfold Dict.Row.holds at h2
  simp only [Bool.and_eq_true, Bool.or_eq_true, Nat.ble_eq, Nat.blt, decide_eq_true_eq] at h2 this
  rcases this with (((h | h) | h) | h) | h
  · omega
  · omega
  · omega
  · omega
  · exact h
theorem ne_of_acc {k j : Nat} {r : Dict.Row} {a b : Dict.Acc} (hf : Dict.find (k / 256) (k % 256) = some r) (hb : r.acc = b) (hj : (Dict.find (j / 256) (j % 256)).map (·.acc) = some a) (hab : a ≠ b) : k ≠ j := by
  rintro rfl
  rw [hf] at hj
  exact hab ((Option.some.inj hj).symm.trans hb)

theorem base_read (q : Req) (o m v : Nat) (s : State) : baseConds q 1 o m 0 v s = baseConds q 1 o m 0 0 s := rfl
theorem write_done {q : Req} {k len v : Nat} {r : Dict.Row} {s : State} {rl : Rule} {a : Dict.Acc} (hf : Dict.find (k / 256) (k % 256) = some r) (ha : r.acc = a)
    (hq : 16 ≤ q.master → r.ty ≠ .str ∧ r.ty ≠ .blob ∧ r.ty ≠ .time128 ∧ r.width ≤ 8) (h : Writes q k len v s)
    (hc : a = .w1c ∧ rl = ([], clearsBits k v) ∨ a = .rws ∧ q.master < 9 ∧ rl = (stageConds q k len s, stageEff q k len v) ∨
      a = .rw ∧ rl = writeRule q (k / 256) (k % 256) len v s) (hx : ∀ c ∈ rl.1, c.1 = false) :
    Answered q 0 (request q 2 (k / 256) (k % 256) len v s) ∧ Like (rl.2 s) (request q 2 (k / 256) (k % 256) len v s) := by
  have na : a ≠ .cmd ∧ a ≠ .wo ∧ a ≠ .rd := by rcases hc with ⟨rfl, _⟩ | ⟨rfl, _⟩ | ⟨rfl, _⟩ <;> decide
  have hm : (meshForm q 2 (k / 256) (k % 256)).1 = false := by
    refine meshForm_false hf fun hh => ?_
    obtain ⟨a1, a2, a3, a4⟩ := hq hh
    refine ⟨by decide, fun _ e => ?_, by rw [ha]; exact na.2.2, a1, a2, a3, a4⟩
    rcases hc with ⟨rfl, _⟩ | ⟨rfl, h9, _⟩ | ⟨rfl, _⟩
    · rw [ha] at e; cases e
    · omega
    · rw [ha] at e; cases e
  rw [req_write hf (ne_of_acc hf ha (a := .cmd) (by decide) na.1.symm) (ne_of_acc hf ha (a := .cmd) (by decide) na.1.symm)
    (ne_of_acc hf ha (a := .wo) (by decide) na.2.1.symm) (ne_of_acc hf ha (a := .wo) (by decide) na.2.1.symm)
    (fun h5 => ⟨fun e => na.2.1 (ha.symm.trans (push_acc hf h5 (.inl e))), fun e => na.2.1 (ha.symm.trans (push_acc hf h5 (.inr e)))⟩), ha]
  rcases hc with ⟨rfl, rfl⟩ | ⟨rfl, _, rfl⟩ | ⟨rfl, rfl⟩
  · exact rule_done hm h hx
  · exact rule_done hm h hx
  · exact rule_done hm h hx
theorem mesh_write {dbg : Bool} {q : Req} {len v : Nat} {s : State} (h : Writes q (if dbg then DBG.MEM_DATA else HDI.MESH_DATA) len v s) (h1 : len % 8 = 0) (h2 : s.rd (addrKey dbg) % 8 = 0) :
    Answered q 0 (meshWrite q dbg len v s) ∧ BlockSent dbg len (blockReqs dbg q.master .write (s.rd (addrKey dbg)) len v) s (meshWrite q dbg len v s) := by
  have hx : ∀ c ∈ meshWriteConds dbg len s, c.1 = false := by
    unfold meshWriteConds; simp [h1, h2]
  have d := writeTo_done (eff := meshWriteEff dbg q.master len v) h hx
  exact ⟨d.1, sent_like (sent (.inl rfl)) d.2⟩
set_option Elab.async false in
theorem mesh_fetch {dbg : Bool} {q : Req} {size k : Nat} {s : State} (hk : k = if dbg then DBG.MEM_DATA else HDI.MESH_DATA) (h : Served q 3 k 2 size s)
    (hm : q.master < 16) (hl : responseLong q 0 s = false) (hc : ∀ c ∈ fetchConds q (k / 256) (k % 256) size s, c.1 = false) :
    let t := fetchReq q (k / 256) (k % 256) 2 size s
    Answered q 0 t ∧ (t.masterOf q.master).pend = giveUp false k (s.masterOf q.master).pend ++ [{
        key := k, implicit := false, tag := q.tag
        addr := s.rd (addrKey dbg), len := size, parts := blockReqs dbg q.master .read (s.rd (addrKey dbg)) size 0
        seq := (s.masterOf q.master).fetches }] ∧
    BlockSent dbg size (blockReqs dbg q.master .read (s.rd (addrKey dbg)) size 0) s t := by
  have hs : sized (k / 256) (k % 256) = true := by subst hk; cases dbg <;> decide
  have hd : isDbg (k / 256) = dbg := by subst hk; cases dbg <;> decide
  have hmf : (meshForm q 3 (k / 256) (k % 256)).1 = false := by
    unfold meshForm
    have : Nat.ble 16 q.master = false := by rw [← Bool.not_eq_true, Nat.ble_eq]; omega
    rw [this]; rfl
  dsimp only
  unfold fetchReq
  rw [statusOf_zero h.2 hl (by
    intro c hcc
    rcases List.mem_cons.1 hcc with rfl | hcc
    · exact hmf
    · exact hc c hcc)]
  have d := like_finish (q := q) (op := 3) (o := k / 256) (m := k % 256) (len := 0) (data := 0) (eff := fetchEff q false (k / 256) (k % 256) size) h.1
  have e : fetchEff q false (k / 256) (k % 256) size s = (blockReqs dbg q.master .read (s.rd (addrKey dbg)) size 0).foldl (fun s r => meshSend r s) (advance dbg size (s.modMaster q.master fun x => { x with
        pend := giveUp false k x.pend ++ [{
          key := k, implicit := false, tag := q.tag
          addr := s.rd (addrKey dbg), len := size, parts := blockReqs dbg q.master .read (s.rd (addrKey dbg)) size 0
          seq := (s.masterOf q.master).fetches }]
        fetches := x.fetches + 1
        snaps := x.snaps.filter fun y => !(Nat.beq y.key k) })) := by
    unfold fetchEff
    dsimp only
    rw [hs, hd, key_back]
    rfl
  refine ⟨(resp_finish h.1).1, ?_, ?_⟩
  · rw [(pend_like d q.master).1, e]
    unfold State.masterOf
    rw [fold_masters]
    exact (congrArg MasterS.pend (masterOf_modMaster (s := s) q.master _) : (((s.modMaster q.master (fun x => { x with
        pend := giveUp false k x.pend ++ [{
          key := k, implicit := false, tag := q.tag
          addr := s.rd (addrKey dbg), len := size, parts := blockReqs dbg q.master .read (s.rd (addrKey dbg)) size 0
          seq := (s.masterOf q.master).fetches }]
        fetches := x.fetches + 1
        snaps := x.snaps.filter fun y => !(Nat.beq y.key k) })).masterOf q.master).pend = _))
  · refine sent_like ?_ d
    rw [e]
    exact sent (.inr ⟨_, _, rfl⟩)
end Sys2Proof.Laws.CompleteHdi
end

