-- ==== Sys2Proof/Laws/KeepsLanes.lean ====
section
/-! SUPPORT. State.lanes: what the operations it lists leave unchanged. -/
set_option linter.unreachableTactic false
set_option linter.unusedSimpArgs false
set_option linter.unusedTactic false
namespace Sys2Proof.Laws
open Sys2Proof.Machine
section
variable {s0 : State}
def KeepsLanes (s0 s : State) : Prop := s.lanes = s0.lanes
theorem keepsLanes_ite {c : Prop} [Decidable c] {x y : State} (hx : KeepsLanes s0 x) (hy : KeepsLanes s0 y) : KeepsLanes s0 (if c then x else y) := by split <;> assumption
theorem keepsLanes_foldl {β : Type} {f : State → β → State} (hf : ∀ s x, KeepsLanes s0 s → KeepsLanes s0 (f s x)) :
    ∀ {l : List β} {s : State}, KeepsLanes s0 s → KeepsLanes s0 (l.foldl f s)
  | [], _, h => h
  | x :: l, s, h => keepsLanes_foldl (l := l) hf (hf s x h)
theorem keepsLanes_cut {s : State} {p : Prop} (h : KeepsLanes s0 s) (f : KeepsLanes s0 s → p) : p := f h
theorem wr_keepsLanes (k v : Nat) (s : State) (h : KeepsLanes s0 s) : KeepsLanes s0 (s.wr k v) := h
theorem keepsLanes_mk_iff {s : State} {x_now : Nat} {x_reg : Tab Nat} {x_mem : List Host.Cell} {x_evq : List (Nat × Nat)} {x_freeCtr : Nat} {x_pending : List Instr} {x_hdi : HdiS} {x_clk : ClockS} {x_sched : List Sched} {x_ve : Tab VeRun} {x_outCh : Tab OutCh} {x_inCh : Tab InCh} {x_fcp : Tab FcpS} {x_sq : Tab SqS} {x_brk : Tab BrkS} {x_tgt : Tab TgtS} {x_groupAt : List (Nat × Nat)} {x_dsp : Tab DspRun} {x_focus : FocusS} {x_trim : TrimS} {x_reqs : List MeshReq} {x_resps : List MeshResp} {x_held : List PortReq} {x_steal : List PortReq} {x_labels : List (MeshReq × Nat)} {x_drain : Option Drain} {x_trace : List Nat} {x_dmc : Tab DmcS} {x_autoTrain : Bool} {x_crh : CrhS} {x_cfg : CfgS} {x_fresh : List (Nat × Nat × Nat)} {x_cleared : List (Nat × Nat × Nat)} {x_sup : SupS} {x_dbg : DbgS} {x_tmu : TmuS} {x_cells : Tab (Option CellS)} {x_cellCfg : Tab CellCfg} {x_sels : Tab Nat} {x_tracks : Tab Nat} {x_upsets : List Upset} {x_facets : Tab FacetS} {x_fev : List (Nat × Nat)} {x_panes : Tab PaneS} {x_banks : Tab BankS} {x_pins : PinsS} :
    KeepsLanes s0 ⟨x_now, x_reg, x_mem, x_evq, x_freeCtr, x_pending, x_hdi, x_clk, x_sched, x_ve, x_outCh, x_inCh, x_fcp, x_sq, x_brk, x_tgt, x_groupAt, x_dsp, x_focus, x_trim, x_reqs, x_resps, x_held, x_steal, x_labels, x_drain, x_trace, x_dmc, x_autoTrain, x_crh, x_cfg, x_fresh, x_cleared, x_sup, x_dbg, x_tmu, s.lanes, x_cells, x_cellCfg, x_sels, x_tracks, x_upsets, x_facets, x_fev, x_panes, x_banks, x_pins⟩ ↔ KeepsLanes s0 s := Iff.rfl
theorem addTo_keepsLanes (s : State) (w k d : Nat) (hs : KeepsLanes s0 s) :
    KeepsLanes s0 (State.addTo s w k d) := by
  unfold State.addTo
  repeat' first
    | with_reducible intro _
    | with_reducible assumption
    | with_reducible apply wr_keepsLanes

theorem bump_keepsLanes (s : State) (w k : Nat) (hs : KeepsLanes s0 s) :
    KeepsLanes s0 (State.bump s w k) := by
  unfold State.bump
  repeat' first
    | with_reducible intro _
    | with_reducible assumption
    | with_reducible apply addTo_keepsLanes

theorem raiseAt_keepsLanes (s : State) (t e : Nat) (hs : KeepsLanes s0 s) :
    KeepsLanes s0 (State.raiseAt s t e) := by
  unfold State.raiseAt
  repeat' first
    | with_reducible intro _
    | with_reducible assumption
    | simp only [↓keepsLanes_mk_iff]
    | with_reducible apply keepsLanes_ite
    | (extract_lets x; first | (with_reducible refine keepsLanes_cut (s := x) ?_ ?_; (on_goal 2 => clear_value x); (on_goal 1 => unfold x)) | (subst x))
    | split

theorem raise_keepsLanes (s : State) (e : Nat) (hs : KeepsLanes s0 s) :
    KeepsLanes s0 (State.raise s e) := by
  unfold State.raise
  repeat' first
    | with_reducible intro _
    | with_reducible assumption
    | with_reducible apply raiseAt_keepsLanes
    | simp only [↓keepsLanes_mk_iff]
    | with_reducible apply keepsLanes_ite
    | (extract_lets x; first | (with_reducible refine keepsLanes_cut (s := x) ?_ ?_; (on_goal 2 => clear_value x); (on_goal 1 => unfold x)) | (subst x))
    | split

theorem setBit_keepsLanes (s : State) (k b : Nat) (v : Bool) (hs : KeepsLanes s0 s) :
    KeepsLanes s0 (State.setBit s k b v) := by
  unfold State.setBit
  repeat' first
    | with_reducible intro _
    | with_reducible assumption
    | with_reducible apply wr_keepsLanes
    | with_reducible apply keepsLanes_ite
    | split

theorem note_keepsLanes (s : State) (k b : Nat) (hs : KeepsLanes s0 s) :
    KeepsLanes s0 (State.note s k b) := by
  unfold State.note
  repeat' first
    | with_reducible intro _
    | with_reducible assumption
    | simp only [↓keepsLanes_mk_iff]
    | with_reducible apply keepsLanes_ite
    | (extract_lets x; first | (with_reducible refine keepsLanes_cut (s := x) ?_ ?_; (on_goal 2 => clear_value x); (on_goal 1 => unfold x)) | (subst x))
    | split

theorem flag_keepsLanes (s : State) (k b e : Nat) (hs : KeepsLanes s0 s) :
    KeepsLanes s0 (State.flag s k b e) := by
  unfold State.flag
  repeat' first
    | with_reducible intro _
    | with_reducible assumption
    | with_reducible apply note_keepsLanes
    | with_reducible apply setBit_keepsLanes
    | with_reducible apply raise_keepsLanes
    | simp only [↓keepsLanes_mk_iff]
    | with_reducible apply keepsLanes_ite
    | (extract_lets x; first | (with_reducible refine keepsLanes_cut (s := x) ?_ ?_; (on_goal 2 => clear_value x); (on_goal 1 => unfold x)) | (subst x))
    | split

theorem modVe_keepsLanes (s : State) (n : Nat) (f : VeRun → VeRun) (hs : KeepsLanes s0 s) :
    KeepsLanes s0 (State.modVe s n f) := by
  unfold State.modVe
  repeat' first
    | with_reducible intro _
    | with_reducible assumption
    | simp only [↓keepsLanes_mk_iff]

theorem modDsp_keepsLanes (s : State) (n : Nat) (f : DspRun → DspRun) (hs : KeepsLanes s0 s) :
    KeepsLanes s0 (State.modDsp s n f) := by
  unfold State.modDsp
  repeat' first
    | with_reducible intro _
    | with_reducible assumption
    | simp only [↓keepsLanes_mk_iff]

theorem modTmu_keepsLanes (s : State) (g : TmuS → TmuS) (hs : KeepsLanes s0 s) :
    KeepsLanes s0 (State.modTmu s g) := by
  unfold State.modTmu
  repeat' first
    | with_reducible intro _
    | with_reducible assumption
    | simp only [↓keepsLanes_mk_iff]

theorem modLaneTime_keepsLanes (s : State) (n : Nat) (g : LaneTime → LaneTime) (hs : KeepsLanes s0 s) :
    KeepsLanes s0 (State.modLaneTime s n g) := by
  unfold State.modLaneTime
  repeat' first
    | with_reducible intro _
    | with_reducible assumption
    | with_reducible apply modTmu_keepsLanes
    | simp only [↓keepsLanes_mk_iff]

theorem modTrg_keepsLanes (s : State) (t : Nat) (g : TrgS → TrgS) (hs : KeepsLanes s0 s) :
    KeepsLanes s0 (State.modTrg s t g) := by
  unfold State.modTrg
  repeat' first
    | with_reducible intro _
    | with_reducible assumption
    | with_reducible apply modTmu_keepsLanes
    | simp only [↓keepsLanes_mk_iff]

theorem modMaster_keepsLanes (s : State) (m : Nat) (f : MasterS → MasterS) (hs : KeepsLanes s0 s) :
    KeepsLanes s0 (State.modMaster s m f) := by
  unfold State.modMaster
  repeat' first
    | with_reducible intro _
    | with_reducible assumption
    | simp only [↓keepsLanes_mk_iff]

theorem modSlot_keepsLanes (s : State) (k : Nat) (f : SlotS → SlotS) (hs : KeepsLanes s0 s) :
    KeepsLanes s0 (State.modSlot s k f) := by
  unfold State.modSlot
  repeat' first
    | with_reducible intro _
    | with_reducible assumption
    | simp only [↓keepsLanes_mk_iff]

theorem modMirror_keepsLanes (s : State) (f : MirrorS → MirrorS) (hs : KeepsLanes s0 s) :
    KeepsLanes s0 (State.modMirror s f) := by
  unfold State.modMirror
  repeat' first
    | with_reducible intro _
    | with_reducible assumption
    | simp only [↓keepsLanes_mk_iff]

theorem restartLease_keepsLanes (s : State) (hs : KeepsLanes s0 s) :
    KeepsLanes s0 (restartLease s) := by
  unfold restartLease
  repeat' first
    | with_reducible intro _
    | with_reducible assumption
    | with_reducible apply modMirror_keepsLanes
    | simp only [↓keepsLanes_mk_iff]

theorem barrierLeft_keepsLanes (n at' : Nat) (s : State) (hs : KeepsLanes s0 s) :
    KeepsLanes s0 (barrierLeft n at' s) := by
  unfold barrierLeft
  repeat' first
    | with_reducible intro _
    | with_reducible assumption
    | with_reducible apply modVe_keepsLanes
    | simp only [↓keepsLanes_mk_iff]
    | with_reducible apply keepsLanes_ite
    | with_reducible apply keepsLanes_foldl
    | split

theorem disarmStarts_keepsLanes (s : State) (hs : KeepsLanes s0 s) :
    KeepsLanes s0 (disarmStarts s) := by
  unfold disarmStarts
  repeat' first
    | with_reducible intro _
    | with_reducible assumption
    | with_reducible apply wr_keepsLanes
    | with_reducible apply modVe_keepsLanes
    | with_reducible apply barrierLeft_keepsLanes
    | simp only [↓keepsLanes_mk_iff]
    | with_reducible apply keepsLanes_ite
    | with_reducible apply keepsLanes_foldl
    | (extract_lets x; first | (with_reducible refine keepsLanes_cut (s := x) ?_ ?_; (on_goal 2 => clear_value x); (on_goal 1 => unfold x)) | (subst x))
    | split

theorem disarmTo_keepsLanes (c : Nat) (s : State) (hs : KeepsLanes s0 s) :
    KeepsLanes s0 (disarmTo c s) := by
  unfold disarmTo
  repeat' first
    | with_reducible intro _
    | with_reducible assumption
    | with_reducible apply restartLease_keepsLanes
    | with_reducible apply disarmStarts_keepsLanes
    | with_reducible apply wr_keepsLanes
    | with_reducible apply modMirror_keepsLanes
    | simp only [↓keepsLanes_mk_iff]

theorem reopen_keepsLanes (s : State) (hs : KeepsLanes s0 s) :
    KeepsLanes s0 (reopen s) := by
  unfold reopen
  repeat' first
    | with_reducible intro _
    | with_reducible assumption
    | with_reducible apply disarmTo_keepsLanes
    | with_reducible apply wr_keepsLanes
    | with_reducible apply raise_keepsLanes
    | with_reducible apply keepsLanes_ite
    | (extract_lets x; first | (with_reducible refine keepsLanes_cut (s := x) ?_ ?_; (on_goal 2 => clear_value x); (on_goal 1 => unfold x)) | (subst x))
    | split

theorem reopenIf_keepsLanes (c : Bool) (s : State) (hs : KeepsLanes s0 s) :
    KeepsLanes s0 (reopenIf c s) := by
  unfold reopenIf
  repeat' first
    | with_reducible intro _
    | with_reducible assumption
    | with_reducible apply reopen_keepsLanes
    | with_reducible apply keepsLanes_ite
    | split

theorem releaseMirror_keepsLanes (s : State) (hs : KeepsLanes s0 s) :
    KeepsLanes s0 (releaseMirror s) := by
  unfold releaseMirror
  repeat' first
    | with_reducible intro _
    | with_reducible assumption
    | with_reducible apply wr_keepsLanes
    | with_reducible apply modMirror_keepsLanes

theorem engineChanged_keepsLanes (n : Nat) (s : State) (hs : KeepsLanes s0 s) :
    KeepsLanes s0 (engineChanged n s) := by
  unfold engineChanged
  repeat' first
    | with_reducible intro _
    | with_reducible assumption
    | with_reducible apply reopenIf_keepsLanes

theorem veEnter_keepsLanes (n c : Nat) (s : State) (hs : KeepsLanes s0 s) :
    KeepsLanes s0 (veEnter n c s) := by
  unfold veEnter
  repeat' first
    | with_reducible intro _
    | with_reducible assumption
    | with_reducible apply engineChanged_keepsLanes
    | with_reducible apply wr_keepsLanes

theorem schedFree_keepsLanes (dsp : Bool) (n : Nat) (s : State) (hs : KeepsLanes s0 s) :
    KeepsLanes s0 (schedFree dsp n s) := by
  unfold schedFree
  repeat' first
    | with_reducible intro _
    | with_reducible assumption
    | simp only [↓keepsLanes_mk_iff]

theorem veStopEff_keepsLanes (n : Nat) (s : State) (hs : KeepsLanes s0 s) :
    KeepsLanes s0 (veStopEff n s) := by
  unfold veStopEff
  repeat' first
    | with_reducible intro _
    | with_reducible assumption
    | with_reducible apply schedFree_keepsLanes
    | with_reducible apply setBit_keepsLanes
    | with_reducible apply barrierLeft_keepsLanes
    | with_reducible apply veEnter_keepsLanes
    | with_reducible apply modVe_keepsLanes
    | simp only [↓keepsLanes_mk_iff]
    | with_reducible apply keepsLanes_ite
    | (extract_lets x; first | (with_reducible refine keepsLanes_cut (s := x) ?_ ?_; (on_goal 2 => clear_value x); (on_goal 1 => unfold x)) | (subst x))
    | split

theorem tmuFlag_keepsLanes (b : Nat) (s : State) (hs : KeepsLanes s0 s) :
    KeepsLanes s0 (tmuFlag b s) := by
  unfold tmuFlag
  repeat' first
    | with_reducible intro _
    | with_reducible assumption
    | with_reducible apply flag_keepsLanes

theorem setValid_keepsLanes (v : Bool) (s : State) (hs : KeepsLanes s0 s) :
    KeepsLanes s0 (setValid v s) := by
  unfold setValid
  repeat' first
    | with_reducible intro _
    | with_reducible assumption
    | with_reducible apply setBit_keepsLanes

theorem dropVeStart_keepsLanes (n : Nat) (s : State) (hs : KeepsLanes s0 s) :
    KeepsLanes s0 (dropVeStart n s) := by
  unfold dropVeStart
  repeat' first
    | with_reducible intro _
    | with_reducible assumption
    | with_reducible apply veStopEff_keepsLanes
    | with_reducible apply raise_keepsLanes
    | with_reducible apply keepsLanes_ite
    | split

theorem dropDspStart_keepsLanes (n : Nat) (s : State) (hs : KeepsLanes s0 s) :
    KeepsLanes s0 (dropDspStart n s) := by
  unfold dropDspStart
  repeat' first
    | with_reducible intro _
    | with_reducible assumption
    | with_reducible apply schedFree_keepsLanes
    | with_reducible apply wr_keepsLanes
    | with_reducible apply modDsp_keepsLanes
    | with_reducible apply raise_keepsLanes
    | simp only [↓keepsLanes_mk_iff]
    | with_reducible apply keepsLanes_ite
    | split

theorem dropAperture_keepsLanes (a : Nat) (s : State) (hs : KeepsLanes s0 s) :
    KeepsLanes s0 (dropAperture a s) := by
  unfold dropAperture
  repeat' first
    | with_reducible intro _
    | with_reducible assumption
    | with_reducible apply wr_keepsLanes
    | with_reducible apply keepsLanes_ite
    | split

theorem dropTrigger_keepsLanes (t : Nat) (s : State) (hs : KeepsLanes s0 s) :
    KeepsLanes s0 (dropTrigger t s) := by
  unfold dropTrigger
  repeat' first
    | with_reducible intro _
    | with_reducible assumption
    | with_reducible apply tmuFlag_keepsLanes
    | with_reducible apply wr_keepsLanes
    | with_reducible apply modTrg_keepsLanes
    | simp only [↓keepsLanes_mk_iff]
    | with_reducible apply keepsLanes_ite
    | split

theorem dropTimedApply_keepsLanes (s : State) (hs : KeepsLanes s0 s) :
    KeepsLanes s0 (dropTimedApply s) := by
  unfold dropTimedApply
  repeat' first
    | with_reducible intro _
    | with_reducible assumption
    | with_reducible apply disarmTo_keepsLanes
    | with_reducible apply wr_keepsLanes
    | with_reducible apply raise_keepsLanes
    | with_reducible apply keepsLanes_ite
    | split

theorem validFall_keepsLanes (s : State) (hs : KeepsLanes s0 s) :
    KeepsLanes s0 (validFall s) := by
  unfold validFall
  repeat' first
    | with_reducible intro _
    | with_reducible assumption
    | with_reducible apply dropTimedApply_keepsLanes
    | with_reducible apply tmuFlag_keepsLanes
    | with_reducible apply setValid_keepsLanes
    | with_reducible apply dropDspStart_keepsLanes
    | with_reducible apply dropVeStart_keepsLanes
    | with_reducible apply dropTrigger_keepsLanes
    | with_reducible apply dropAperture_keepsLanes
    | with_reducible apply keepsLanes_ite
    | with_reducible apply keepsLanes_foldl
    | (extract_lets x; first | (with_reducible refine keepsLanes_cut (s := x) ?_ ?_; (on_goal 2 => clear_value x); (on_goal 1 => unfold x)) | (subst x))
    | split

theorem holdover_keepsLanes (s : State) (hs : KeepsLanes s0 s) :
    KeepsLanes s0 (holdover s) := by
  unfold holdover
  repeat' first
    | with_reducible intro _
    | with_reducible assumption
    | with_reducible apply tmuFlag_keepsLanes
    | with_reducible apply validFall_keepsLanes
    | with_reducible apply setBit_keepsLanes
    | with_reducible apply modTmu_keepsLanes
    | simp only [↓keepsLanes_mk_iff]
    | with_reducible apply keepsLanes_ite
    | split

theorem lnkFlag_keepsLanes (n b : Nat) (s : State) (hs : KeepsLanes s0 s) :
    KeepsLanes s0 (lnkFlag n b s) := by
  unfold lnkFlag
  repeat' first
    | with_reducible intro _
    | with_reducible assumption
    | with_reducible apply flag_keepsLanes
    | with_reducible apply keepsLanes_ite
    | split

theorem laneFlag_keepsLanes (n b e : Nat) (s : State) (hs : KeepsLanes s0 s) :
    KeepsLanes s0 (laneFlag n b e s) := by
  unfold laneFlag
  repeat' first
    | with_reducible intro _
    | with_reducible assumption
    | with_reducible apply tmuFlag_keepsLanes
    | with_reducible apply note_keepsLanes
    | with_reducible apply setBit_keepsLanes
    | simp only [↓keepsLanes_mk_iff]
    | with_reducible apply keepsLanes_ite
    | (extract_lets x; first | (with_reducible refine keepsLanes_cut (s := x) ?_ ?_; (on_goal 2 => clear_value x); (on_goal 1 => unfold x)) | (subst x))
    | split

theorem noteSent_keepsLanes (n id stamp : Nat) (s : State) (hs : KeepsLanes s0 s) :
    KeepsLanes s0 (noteSent n id stamp s) := by
  unfold noteSent
  repeat' first
    | with_reducible intro _
    | with_reducible assumption
    | with_reducible apply laneFlag_keepsLanes
    | with_reducible apply modLaneTime_keepsLanes
    | with_reducible apply bump_keepsLanes
    | simp only [↓keepsLanes_mk_iff]
    | with_reducible apply keepsLanes_ite
    | (extract_lets x; first | (with_reducible refine keepsLanes_cut (s := x) ?_ ?_; (on_goal 2 => clear_value x); (on_goal 1 => unfold x)) | (subst x))
    | split

theorem afterSend_keepsLanes (n : Nat) (m : TxMsg) (s : State) (hs : KeepsLanes s0 s) :
    KeepsLanes s0 (afterSend n m s) := by
  unfold afterSend
  repeat' first
    | with_reducible intro _
    | with_reducible assumption
    | with_reducible apply noteSent_keepsLanes
    | with_reducible apply modLaneTime_keepsLanes
    | with_reducible apply modTmu_keepsLanes
    | with_reducible apply bump_keepsLanes
    | simp only [↓keepsLanes_mk_iff]
    | with_reducible apply keepsLanes_ite
    | (extract_lets x; first | (with_reducible refine keepsLanes_cut (s := x) ?_ ?_; (on_goal 2 => clear_value x); (on_goal 1 => unfold x)) | (subst x))
    | split

set_option Elab.async false in
theorem releaseSlot_keepsLanes (k : Nat) (s : State) (hs : KeepsLanes s0 s) :
    KeepsLanes s0 (releaseSlot k s) := by
  unfold releaseSlot
  repeat' first
    | with_reducible intro _
    | with_reducible assumption
    | with_reducible apply releaseMirror_keepsLanes
    | with_reducible apply raise_keepsLanes
    | with_reducible apply wr_keepsLanes
    | with_reducible apply modSlot_keepsLanes
    | with_reducible apply setBit_keepsLanes
    | with_reducible apply modMaster_keepsLanes
    | simp only [↓keepsLanes_mk_iff]
    | with_reducible apply keepsLanes_ite
    | (extract_lets x; first | (with_reducible refine keepsLanes_cut (s := x) ?_ ?_; (on_goal 2 => clear_value x); (on_goal 1 => unfold x)) | (subst x))
    | split

end
end Sys2Proof.Laws
end

