-- ==== Sys2Proof/Laws/KeepsReqsLane.lean ====
section
/-! SUPPORT. State.reqs: what the operations it lists leave unchanged. -/
set_option linter.unreachableTactic false
set_option linter.unusedSimpArgs false
set_option linter.unusedTactic false
namespace Sys2Proof.Laws
open Sys2Proof.Machine
section
variable {s0 : State}
def KeepsReqsLane (s0 s : State) : Prop := s.reqs = s0.reqs
theorem keepsReqsLane_ite {c : Prop} [Decidable c] {x y : State} (hx : KeepsReqsLane s0 x) (hy : KeepsReqsLane s0 y) : KeepsReqsLane s0 (if c then x else y) := by split <;> assumption
theorem keepsReqsLane_foldl {β : Type} {f : State → β → State} (hf : ∀ s x, KeepsReqsLane s0 s → KeepsReqsLane s0 (f s x)) :
    ∀ {l : List β} {s : State}, KeepsReqsLane s0 s → KeepsReqsLane s0 (l.foldl f s)
  | [], _, h => h
  | x :: l, s, h => keepsReqsLane_foldl (l := l) hf (hf s x h)
theorem keepsReqsLane_cut {s : State} {p : Prop} (h : KeepsReqsLane s0 s) (f : KeepsReqsLane s0 s → p) : p := f h
theorem wr_keepsReqsLane (k v : Nat) (s : State) (h : KeepsReqsLane s0 s) : KeepsReqsLane s0 (s.wr k v) := h
theorem keepsReqsLane_mk_iff {s : State} {x_now : Nat} {x_reg : Tab Nat} {x_mem : List Host.Cell} {x_evq : List (Nat × Nat)} {x_freeCtr : Nat} {x_pending : List Instr} {x_hdi : HdiS} {x_clk : ClockS} {x_sched : List Sched} {x_ve : Tab VeRun} {x_outCh : Tab OutCh} {x_inCh : Tab InCh} {x_fcp : Tab FcpS} {x_sq : Tab SqS} {x_brk : Tab BrkS} {x_tgt : Tab TgtS} {x_groupAt : List (Nat × Nat)} {x_dsp : Tab DspRun} {x_focus : FocusS} {x_trim : TrimS} {x_resps : List MeshResp} {x_held : List PortReq} {x_steal : List PortReq} {x_labels : List (MeshReq × Nat)} {x_drain : Option Drain} {x_trace : List Nat} {x_dmc : Tab DmcS} {x_autoTrain : Bool} {x_crh : CrhS} {x_cfg : CfgS} {x_fresh : List (Nat × Nat × Nat)} {x_cleared : List (Nat × Nat × Nat)} {x_sup : SupS} {x_dbg : DbgS} {x_tmu : TmuS} {x_lanes : Tab LaneS} {x_cells : Tab (Option CellS)} {x_cellCfg : Tab CellCfg} {x_sels : Tab Nat} {x_tracks : Tab Nat} {x_upsets : List Upset} {x_facets : Tab FacetS} {x_fev : List (Nat × Nat)} {x_panes : Tab PaneS} {x_banks : Tab BankS} {x_pins : PinsS} :
    KeepsReqsLane s0 ⟨x_now, x_reg, x_mem, x_evq, x_freeCtr, x_pending, x_hdi, x_clk, x_sched, x_ve, x_outCh, x_inCh, x_fcp, x_sq, x_brk, x_tgt, x_groupAt, x_dsp, x_focus, x_trim, s.reqs, x_resps, x_held, x_steal, x_labels, x_drain, x_trace, x_dmc, x_autoTrain, x_crh, x_cfg, x_fresh, x_cleared, x_sup, x_dbg, x_tmu, x_lanes, x_cells, x_cellCfg, x_sels, x_tracks, x_upsets, x_facets, x_fev, x_panes, x_banks, x_pins⟩ ↔ KeepsReqsLane s0 s := Iff.rfl
theorem addTo_keepsReqsLane (s : State) (w k d : Nat) (hs : KeepsReqsLane s0 s) :
    KeepsReqsLane s0 (State.addTo s w k d) := by
  unfold State.addTo
  repeat' first
    | with_reducible intro _
    | with_reducible assumption
    | with_reducible apply wr_keepsReqsLane

theorem bump_keepsReqsLane (s : State) (w k : Nat) (hs : KeepsReqsLane s0 s) :
    KeepsReqsLane s0 (State.bump s w k) := by
  unfold State.bump
  repeat' first
    | with_reducible intro _
    | with_reducible assumption
    | with_reducible apply addTo_keepsReqsLane

theorem raiseAt_keepsReqsLane (s : State) (t e : Nat) (hs : KeepsReqsLane s0 s) :
    KeepsReqsLane s0 (State.raiseAt s t e) := by
  unfold State.raiseAt
  repeat' first
    | with_reducible intro _
    | with_reducible assumption
    | simp only [↓keepsReqsLane_mk_iff]
    | with_reducible apply keepsReqsLane_ite
    | (extract_lets x; first | (with_reducible refine keepsReqsLane_cut (s := x) ?_ ?_; (on_goal 2 => clear_value x); (on_goal 1 => unfold x)) | (subst x))
    | split

theorem raise_keepsReqsLane (s : State) (e : Nat) (hs : KeepsReqsLane s0 s) :
    KeepsReqsLane s0 (State.raise s e) := by
  unfold State.raise
  repeat' first
    | with_reducible intro _
    | with_reducible assumption
    | with_reducible apply raiseAt_keepsReqsLane
    | simp only [↓keepsReqsLane_mk_iff]
    | with_reducible apply keepsReqsLane_ite
    | (extract_lets x; first | (with_reducible refine keepsReqsLane_cut (s := x) ?_ ?_; (on_goal 2 => clear_value x); (on_goal 1 => unfold x)) | (subst x))
    | split

theorem setBit_keepsReqsLane (s : State) (k b : Nat) (v : Bool) (hs : KeepsReqsLane s0 s) :
    KeepsReqsLane s0 (State.setBit s k b v) := by
  unfold State.setBit
  repeat' first
    | with_reducible intro _
    | with_reducible assumption
    | with_reducible apply wr_keepsReqsLane
    | with_reducible apply keepsReqsLane_ite
    | split

theorem note_keepsReqsLane (s : State) (k b : Nat) (hs : KeepsReqsLane s0 s) :
    KeepsReqsLane s0 (State.note s k b) := by
  unfold State.note
  repeat' first
    | with_reducible intro _
    | with_reducible assumption
    | simp only [↓keepsReqsLane_mk_iff]
    | with_reducible apply keepsReqsLane_ite
    | (extract_lets x; first | (with_reducible refine keepsReqsLane_cut (s := x) ?_ ?_; (on_goal 2 => clear_value x); (on_goal 1 => unfold x)) | (subst x))
    | split

theorem flag_keepsReqsLane (s : State) (k b e : Nat) (hs : KeepsReqsLane s0 s) :
    KeepsReqsLane s0 (State.flag s k b e) := by
  unfold State.flag
  repeat' first
    | with_reducible intro _
    | with_reducible assumption
    | with_reducible apply note_keepsReqsLane
    | with_reducible apply setBit_keepsReqsLane
    | with_reducible apply raise_keepsReqsLane
    | simp only [↓keepsReqsLane_mk_iff]
    | with_reducible apply keepsReqsLane_ite
    | (extract_lets x; first | (with_reducible refine keepsReqsLane_cut (s := x) ?_ ?_; (on_goal 2 => clear_value x); (on_goal 1 => unfold x)) | (subst x))
    | split

theorem modLane_keepsReqsLane (s : State) (n : Nat) (g : LaneS → LaneS) (hs : KeepsReqsLane s0 s) :
    KeepsReqsLane s0 (State.modLane s n g) := by
  unfold State.modLane
  repeat' first
    | with_reducible intro _
    | with_reducible assumption
    | simp only [↓keepsReqsLane_mk_iff]

theorem modTmu_keepsReqsLane (s : State) (g : TmuS → TmuS) (hs : KeepsReqsLane s0 s) :
    KeepsReqsLane s0 (State.modTmu s g) := by
  unfold State.modTmu
  repeat' first
    | with_reducible intro _
    | with_reducible assumption
    | simp only [↓keepsReqsLane_mk_iff]

theorem modLaneTime_keepsReqsLane (s : State) (n : Nat) (g : LaneTime → LaneTime) (hs : KeepsReqsLane s0 s) :
    KeepsReqsLane s0 (State.modLaneTime s n g) := by
  unfold State.modLaneTime
  repeat' first
    | with_reducible intro _
    | with_reducible assumption
    | with_reducible apply modTmu_keepsReqsLane
    | simp only [↓keepsReqsLane_mk_iff]

theorem tmuFlag_keepsReqsLane (b : Nat) (s : State) (hs : KeepsReqsLane s0 s) :
    KeepsReqsLane s0 (tmuFlag b s) := by
  unfold tmuFlag
  repeat' first
    | with_reducible intro _
    | with_reducible assumption
    | with_reducible apply flag_keepsReqsLane

theorem laneFlag_keepsReqsLane (n b e : Nat) (s : State) (hs : KeepsReqsLane s0 s) :
    KeepsReqsLane s0 (laneFlag n b e s) := by
  unfold laneFlag
  repeat' first
    | with_reducible intro _
    | with_reducible assumption
    | with_reducible apply tmuFlag_keepsReqsLane
    | with_reducible apply note_keepsReqsLane
    | with_reducible apply setBit_keepsReqsLane
    | simp only [↓keepsReqsLane_mk_iff]
    | with_reducible apply keepsReqsLane_ite
    | (extract_lets x; first | (with_reducible refine keepsReqsLane_cut (s := x) ?_ ?_; (on_goal 2 => clear_value x); (on_goal 1 => unfold x)) | (subst x))
    | split

theorem noteSent_keepsReqsLane (n id stamp : Nat) (s : State) (hs : KeepsReqsLane s0 s) :
    KeepsReqsLane s0 (noteSent n id stamp s) := by
  unfold noteSent
  repeat' first
    | with_reducible intro _
    | with_reducible assumption
    | with_reducible apply laneFlag_keepsReqsLane
    | with_reducible apply modLaneTime_keepsReqsLane
    | with_reducible apply bump_keepsReqsLane
    | simp only [↓keepsReqsLane_mk_iff]
    | with_reducible apply keepsReqsLane_ite
    | (extract_lets x; first | (with_reducible refine keepsReqsLane_cut (s := x) ?_ ?_; (on_goal 2 => clear_value x); (on_goal 1 => unfold x)) | (subst x))
    | split

theorem afterSend_keepsReqsLane (n : Nat) (m : TxMsg) (s : State) (hs : KeepsReqsLane s0 s) :
    KeepsReqsLane s0 (afterSend n m s) := by
  unfold afterSend
  repeat' first
    | with_reducible intro _
    | with_reducible assumption
    | with_reducible apply noteSent_keepsReqsLane
    | with_reducible apply modLaneTime_keepsReqsLane
    | with_reducible apply modTmu_keepsReqsLane
    | with_reducible apply bump_keepsReqsLane
    | simp only [↓keepsReqsLane_mk_iff]
    | with_reducible apply keepsReqsLane_ite
    | (extract_lets x; first | (with_reducible refine keepsReqsLane_cut (s := x) ?_ ?_; (on_goal 2 => clear_value x); (on_goal 1 => unfold x)) | (subst x))
    | split

theorem sendMsg_keepsReqsLane (n : Nat) (m : TxMsg) (s : State) (hs : KeepsReqsLane s0 s) :
    KeepsReqsLane s0 (sendMsg n m s) := by
  unfold sendMsg
  repeat' first
    | with_reducible intro _
    | with_reducible assumption
    | with_reducible apply afterSend_keepsReqsLane
    | with_reducible apply modLane_keepsReqsLane
    | simp only [↓keepsReqsLane_mk_iff]
    | (extract_lets x; first | (with_reducible refine keepsReqsLane_cut (s := x) ?_ ?_; (on_goal 2 => clear_value x); (on_goal 1 => unfold x)) | (subst x))
    | split

theorem sendMsgs_keepsReqsLane (n : Nat) : ∀ (z0 : Nat) (z1 : State), KeepsReqsLane s0 z1 → KeepsReqsLane s0 (sendMsgs n z0 z1)
  | 0, _, h => h
  | k + 1, s, h => by
    unfold sendMsgs
    split
    · exact sendMsgs_keepsReqsLane n k _ (sendMsg_keepsReqsLane n _ _ (modLane_keepsReqsLane _ _ _ h))
    · exact h

set_option Elab.async false in
theorem trySend_keepsReqsLane (n : Nat) (s : State) (hs : KeepsReqsLane s0 s) :
    KeepsReqsLane s0 (trySend n s) := by
  unfold trySend
  repeat' first
    | with_reducible intro _
    | with_reducible assumption
    | with_reducible apply modLane_keepsReqsLane
    | with_reducible apply sendMsgs_keepsReqsLane
    | simp only [↓keepsReqsLane_mk_iff]
    | with_reducible apply keepsReqsLane_ite
    | (extract_lets x; first | (with_reducible refine keepsReqsLane_cut (s := x) ?_ ?_; (on_goal 2 => clear_value x); (on_goal 1 => unfold x)) | (subst x))
    | split

end
end Sys2Proof.Laws
end

