-- ==== Sys2Proof/Laws/KeepsRespsLane.lean ====
section
/-! SUPPORT. State.resps: what the operations it lists leave unchanged. -/
set_option linter.unreachableTactic false
set_option linter.unusedSimpArgs false
set_option linter.unusedTactic false
namespace Sys2Proof.Laws
open Sys2Proof.Machine
section
variable {s0 : State}
def KeepsRespsLane (s0 s : State) : Prop := s.resps = s0.resps
theorem keepsRespsLane_ite {c : Prop} [Decidable c] {x y : State} (hx : KeepsRespsLane s0 x) (hy : KeepsRespsLane s0 y) : KeepsRespsLane s0 (if c then x else y) := by split <;> assumption
theorem keepsRespsLane_foldl {β : Type} {f : State → β → State} (hf : ∀ s x, KeepsRespsLane s0 s → KeepsRespsLane s0 (f s x)) :
    ∀ {l : List β} {s : State}, KeepsRespsLane s0 s → KeepsRespsLane s0 (l.foldl f s)
  | [], _, h => h
  | x :: l, s, h => keepsRespsLane_foldl (l := l) hf (hf s x h)
theorem keepsRespsLane_cut {s : State} {p : Prop} (h : KeepsRespsLane s0 s) (f : KeepsRespsLane s0 s → p) : p := f h
theorem wr_keepsRespsLane (k v : Nat) (s : State) (h : KeepsRespsLane s0 s) : KeepsRespsLane s0 (s.wr k v) := h
theorem keepsRespsLane_mk_iff {s : State} {x_now : Nat} {x_reg : Tab Nat} {x_mem : List Host.Cell} {x_evq : List (Nat × Nat)} {x_freeCtr : Nat} {x_pending : List Instr} {x_hdi : HdiS} {x_clk : ClockS} {x_sched : List Sched} {x_ve : Tab VeRun} {x_outCh : Tab OutCh} {x_inCh : Tab InCh} {x_fcp : Tab FcpS} {x_sq : Tab SqS} {x_brk : Tab BrkS} {x_tgt : Tab TgtS} {x_groupAt : List (Nat × Nat)} {x_dsp : Tab DspRun} {x_focus : FocusS} {x_trim : TrimS} {x_reqs : List MeshReq} {x_held : List PortReq} {x_steal : List PortReq} {x_labels : List (MeshReq × Nat)} {x_drain : Option Drain} {x_trace : List Nat} {x_dmc : Tab DmcS} {x_autoTrain : Bool} {x_crh : CrhS} {x_cfg : CfgS} {x_fresh : List (Nat × Nat × Nat)} {x_cleared : List (Nat × Nat × Nat)} {x_sup : SupS} {x_dbg : DbgS} {x_tmu : TmuS} {x_lanes : Tab LaneS} {x_cells : Tab (Option CellS)} {x_cellCfg : Tab CellCfg} {x_sels : Tab Nat} {x_tracks : Tab Nat} {x_upsets : List Upset} {x_facets : Tab FacetS} {x_fev : List (Nat × Nat)} {x_panes : Tab PaneS} {x_banks : Tab BankS} {x_pins : PinsS} :
    KeepsRespsLane s0 ⟨x_now, x_reg, x_mem, x_evq, x_freeCtr, x_pending, x_hdi, x_clk, x_sched, x_ve, x_outCh, x_inCh, x_fcp, x_sq, x_brk, x_tgt, x_groupAt, x_dsp, x_focus, x_trim, x_reqs, s.resps, x_held, x_steal, x_labels, x_drain, x_trace, x_dmc, x_autoTrain, x_crh, x_cfg, x_fresh, x_cleared, x_sup, x_dbg, x_tmu, x_lanes, x_cells, x_cellCfg, x_sels, x_tracks, x_upsets, x_facets, x_fev, x_panes, x_banks, x_pins⟩ ↔ KeepsRespsLane s0 s := Iff.rfl
theorem addTo_keepsRespsLane (s : State) (w k d : Nat) (hs : KeepsRespsLane s0 s) :
    KeepsRespsLane s0 (State.addTo s w k d) := by
  unfold State.addTo
  repeat' first
    | with_reducible intro _
    | with_reducible assumption
    | with_reducible apply wr_keepsRespsLane

theorem bump_keepsRespsLane (s : State) (w k : Nat) (hs : KeepsRespsLane s0 s) :
    KeepsRespsLane s0 (State.bump s w k) := by
  unfold State.bump
  repeat' first
    | with_reducible intro _
    | with_reducible assumption
    | with_reducible apply addTo_keepsRespsLane

theorem raiseAt_keepsRespsLane (s : State) (t e : Nat) (hs : KeepsRespsLane s0 s) :
    KeepsRespsLane s0 (State.raiseAt s t e) := by
  unfold State.raiseAt
  repeat' first
    | with_reducible intro _
    | with_reducible assumption
    | simp only [↓keepsRespsLane_mk_iff]
    | with_reducible apply keepsRespsLane_ite
    | (extract_lets x; first | (with_reducible refine keepsRespsLane_cut (s := x) ?_ ?_; (on_goal 2 => clear_value x); (on_goal 1 => unfold x)) | (subst x))
    | split

theorem raise_keepsRespsLane (s : State) (e : Nat) (hs : KeepsRespsLane s0 s) :
    KeepsRespsLane s0 (State.raise s e) := by
  unfold State.raise
  repeat' first
    | with_reducible intro _
    | with_reducible assumption
    | with_reducible apply raiseAt_keepsRespsLane
    | simp only [↓keepsRespsLane_mk_iff]
    | with_reducible apply keepsRespsLane_ite
    | (extract_lets x; first | (with_reducible refine keepsRespsLane_cut (s := x) ?_ ?_; (on_goal 2 => clear_value x); (on_goal 1 => unfold x)) | (subst x))
    | split

theorem setBit_keepsRespsLane (s : State) (k b : Nat) (v : Bool) (hs : KeepsRespsLane s0 s) :
    KeepsRespsLane s0 (State.setBit s k b v) := by
  unfold State.setBit
  repeat' first
    | with_reducible intro _
    | with_reducible assumption
    | with_reducible apply wr_keepsRespsLane
    | with_reducible apply keepsRespsLane_ite
    | split

theorem note_keepsRespsLane (s : State) (k b : Nat) (hs : KeepsRespsLane s0 s) :
    KeepsRespsLane s0 (State.note s k b) := by
  unfold State.note
  repeat' first
    | with_reducible intro _
    | with_reducible assumption
    | simp only [↓keepsRespsLane_mk_iff]
    | with_reducible apply keepsRespsLane_ite
    | (extract_lets x; first | (with_reducible refine keepsRespsLane_cut (s := x) ?_ ?_; (on_goal 2 => clear_value x); (on_goal 1 => unfold x)) | (subst x))
    | split

theorem flag_keepsRespsLane (s : State) (k b e : Nat) (hs : KeepsRespsLane s0 s) :
    KeepsRespsLane s0 (State.flag s k b e) := by
  unfold State.flag
  repeat' first
    | with_reducible intro _
    | with_reducible assumption
    | with_reducible apply note_keepsRespsLane
    | with_reducible apply setBit_keepsRespsLane
    | with_reducible apply raise_keepsRespsLane
    | simp only [↓keepsRespsLane_mk_iff]
    | with_reducible apply keepsRespsLane_ite
    | (extract_lets x; first | (with_reducible refine keepsRespsLane_cut (s := x) ?_ ?_; (on_goal 2 => clear_value x); (on_goal 1 => unfold x)) | (subst x))
    | split

theorem modLane_keepsRespsLane (s : State) (n : Nat) (g : LaneS → LaneS) (hs : KeepsRespsLane s0 s) :
    KeepsRespsLane s0 (State.modLane s n g) := by
  unfold State.modLane
  repeat' first
    | with_reducible intro _
    | with_reducible assumption
    | simp only [↓keepsRespsLane_mk_iff]

theorem modTmu_keepsRespsLane (s : State) (g : TmuS → TmuS) (hs : KeepsRespsLane s0 s) :
    KeepsRespsLane s0 (State.modTmu s g) := by
  unfold State.modTmu
  repeat' first
    | with_reducible intro _
    | with_reducible assumption
    | simp only [↓keepsRespsLane_mk_iff]

theorem modLaneTime_keepsRespsLane (s : State) (n : Nat) (g : LaneTime → LaneTime) (hs : KeepsRespsLane s0 s) :
    KeepsRespsLane s0 (State.modLaneTime s n g) := by
  unfold State.modLaneTime
  repeat' first
    | with_reducible intro _
    | with_reducible assumption
    | with_reducible apply modTmu_keepsRespsLane
    | simp only [↓keepsRespsLane_mk_iff]

theorem tmuFlag_keepsRespsLane (b : Nat) (s : State) (hs : KeepsRespsLane s0 s) :
    KeepsRespsLane s0 (tmuFlag b s) := by
  unfold tmuFlag
  repeat' first
    | with_reducible intro _
    | with_reducible assumption
    | with_reducible apply flag_keepsRespsLane

theorem laneFlag_keepsRespsLane (n b e : Nat) (s : State) (hs : KeepsRespsLane s0 s) :
    KeepsRespsLane s0 (laneFlag n b e s) := by
  unfold laneFlag
  repeat' first
    | with_reducible intro _
    | with_reducible assumption
    | with_reducible apply tmuFlag_keepsRespsLane
    | with_reducible apply note_keepsRespsLane
    | with_reducible apply setBit_keepsRespsLane
    | simp only [↓keepsRespsLane_mk_iff]
    | with_reducible apply keepsRespsLane_ite
    | (extract_lets x; first | (with_reducible refine keepsRespsLane_cut (s := x) ?_ ?_; (on_goal 2 => clear_value x); (on_goal 1 => unfold x)) | (subst x))
    | split

theorem noteSent_keepsRespsLane (n id stamp : Nat) (s : State) (hs : KeepsRespsLane s0 s) :
    KeepsRespsLane s0 (noteSent n id stamp s) := by
  unfold noteSent
  repeat' first
    | with_reducible intro _
    | with_reducible assumption
    | with_reducible apply laneFlag_keepsRespsLane
    | with_reducible apply modLaneTime_keepsRespsLane
    | with_reducible apply bump_keepsRespsLane
    | simp only [↓keepsRespsLane_mk_iff]
    | with_reducible apply keepsRespsLane_ite
    | (extract_lets x; first | (with_reducible refine keepsRespsLane_cut (s := x) ?_ ?_; (on_goal 2 => clear_value x); (on_goal 1 => unfold x)) | (subst x))
    | split

theorem afterSend_keepsRespsLane (n : Nat) (m : TxMsg) (s : State) (hs : KeepsRespsLane s0 s) :
    KeepsRespsLane s0 (afterSend n m s) := by
  unfold afterSend
  repeat' first
    | with_reducible intro _
    | with_reducible assumption
    | with_reducible apply noteSent_keepsRespsLane
    | with_reducible apply modLaneTime_keepsRespsLane
    | with_reducible apply modTmu_keepsRespsLane
    | with_reducible apply bump_keepsRespsLane
    | simp only [↓keepsRespsLane_mk_iff]
    | with_reducible apply keepsRespsLane_ite
    | (extract_lets x; first | (with_reducible refine keepsRespsLane_cut (s := x) ?_ ?_; (on_goal 2 => clear_value x); (on_goal 1 => unfold x)) | (subst x))
    | split

theorem sendMsg_keepsRespsLane (n : Nat) (m : TxMsg) (s : State) (hs : KeepsRespsLane s0 s) :
    KeepsRespsLane s0 (sendMsg n m s) := by
  unfold sendMsg
  repeat' first
    | with_reducible intro _
    | with_reducible assumption
    | with_reducible apply afterSend_keepsRespsLane
    | with_reducible apply modLane_keepsRespsLane
    | simp only [↓keepsRespsLane_mk_iff]
    | (extract_lets x; first | (with_reducible refine keepsRespsLane_cut (s := x) ?_ ?_; (on_goal 2 => clear_value x); (on_goal 1 => unfold x)) | (subst x))
    | split

theorem sendMsgs_keepsRespsLane (n : Nat) : ∀ (z0 : Nat) (z1 : State), KeepsRespsLane s0 z1 → KeepsRespsLane s0 (sendMsgs n z0 z1)
  | 0, _, h => h
  | k + 1, s, h => by
    unfold sendMsgs
    split
    · exact sendMsgs_keepsRespsLane n k _ (sendMsg_keepsRespsLane n _ _ (modLane_keepsRespsLane _ _ _ h))
    · exact h

set_option Elab.async false in
theorem trySend_keepsRespsLane (n : Nat) (s : State) (hs : KeepsRespsLane s0 s) :
    KeepsRespsLane s0 (trySend n s) := by
  unfold trySend
  repeat' first
    | with_reducible intro _
    | with_reducible assumption
    | with_reducible apply modLane_keepsRespsLane
    | with_reducible apply sendMsgs_keepsRespsLane
    | simp only [↓keepsRespsLane_mk_iff]
    | with_reducible apply keepsRespsLane_ite
    | (extract_lets x; first | (with_reducible refine keepsRespsLane_cut (s := x) ?_ ?_; (on_goal 2 => clear_value x); (on_goal 1 => unfold x)) | (subst x))
    | split

end
end Sys2Proof.Laws
end

