-- ==== Sys2Proof/Laws/CompleteLnk.lean ====
section
/-! SUPPORT. Lanes: facts that proofs about their commands cite. -/
set_option linter.unusedSimpArgs false
set_option linter.unusedVariables false
namespace Sys2Proof.Laws.CompleteLnk
open Sys2Proof.Machine Common
namespace LaneFacts
theorem lane_of {s t : State} (h : t.lanes = s.lanes) (n : Nat) : t.laneOf n = s.laneOf n := by unfold State.laneOf; rw [h]
abbrev G (x : LaneS) := (x.buf, x.opn, x.freed, x.up, x.inMesh, x.writing, x.parts, x.credit, x.heads, x.good, x.drop, x.prbs, x.oweCredit, x.oweLink, x.creditAt, x.linkAt)
abbrev H (x : LaneS) := (x.buf, x.opn, x.freed, x.up, x.inMesh, x.writing, x.parts, x.credit, x.heads, x.good, x.drop, x.prbs)
theorem ite_cases {α : Type} {c : Prop} [Decidable c] {a b x : α} (h : (if c then a else b) = x) : a = x ∨ b = x := by
  by_cases hc : c
  · left; rwa [if_pos hc] at h
  · right; rwa [if_neg hc] at h
theorem pick_keep {n : Nat} {s : State} {p : TxMsg × LaneS} (h : pickTx n s = some p) : G p.2 = G (s.laneOf n) := by
  unfold pickTx at h
  dsimp only at h
  rcases ite_cases h with h | h
  · cases h; rfl
  · rcases ite_cases h with h | h
    · cases h; rfl
    · rcases ite_cases h with h | h
      · cases h; rfl
      · cases h
theorem send_keep (n : Nat) (m : TxMsg) (s : State) : G ((sendMsg n m s).laneOf n) = G (s.laneOf n) := by
  unfold sendMsg
  dsimp only
  rw [lane_of (afterSend_keepsLanes (s0 := _) n _ _ rfl) n, laneOf_modLane]
theorem sends_keep (n : Nat) : ∀ (k : Nat) (s : State), G ((sendMsgs n k s).laneOf n) = G (s.laneOf n)
  | 0, s => rfl
  | k + 1, s => by
    unfold sendMsgs
    split
    · rename_i m x h
      rw [sends_keep n k, send_keep, laneOf_modLane]
      exact pick_keep h
    · rfl
theorem try_keep (n : Nat) (s : State) : H ((trySend n s).laneOf n) = H (s.laneOf n) := by
  unfold trySend
  split
  · extract_lets s0 s1 s2 x
    have e : ∀ x y : LaneS, G x = G y → H x = H y := by intro x y h; simp only [G, H, Prod.mk.injEq] at h ⊢; tauto
    have k := e _ _ (sends_keep n (x.txTime.length + x.txMgmt.length + x.txMesh.length) s2)
    have a0 : H (s0.laneOf n) = H (s.laneOf n) := by rw [laneOf_modLane]
    have a1 : H (s1.laneOf n) = H (s0.laneOf n) := by
      simp only [s1]; split
      · rw [laneOf_modLane]
      · rfl
    have a2 : H (s2.laneOf n) = H (s1.laneOf n) := by
      simp only [s2]; split
      · rw [laneOf_modLane]
      · rfl
    rw [laneOf_modLane]
    generalize (sendMsgs n (x.txTime.length + x.txMgmt.length + x.txMesh.length) s2).laneOf n = z at k
    exact (show H _ = H z from rfl).trans (k.trans (a2.trans (a1.trans a0)))
  · rfl
theorem try_owe (n : Nat) (s : State) (h : laneState n s = 3) : ((trySend n s).laneOf n).oweCredit = false ∧ ((trySend n s).laneOf n).oweLink = false ∧
    ((trySend n s).laneOf n).creditAt = (if (s.laneOf n).oweCredit = true then s.now else (s.laneOf n).creditAt) ∧
    ((trySend n s).laneOf n).linkAt = (if (s.laneOf n).oweLink = true then s.now else (s.laneOf n).linkAt) := by
  have e : ∀ x y : LaneS, G x = G y → x.oweCredit = y.oweCredit ∧ x.oweLink = y.oweLink ∧ x.creditAt = y.creditAt ∧ x.linkAt = y.linkAt := by
    intro x y h; simp only [G, Prod.mk.injEq] at h ⊢; tauto
  unfold trySend
  rw [if_pos h]
  extract_lets s0 s1 s2 x
  have k := e _ _ (sends_keep n (x.txTime.length + x.txMgmt.length + x.txMesh.length) s2)
  have a0 : s0.laneOf n = { s.laneOf n with line := lineSettled n s, out := [] } := laneOf_modLane _ _ _
  have a1 : (s1.laneOf n).oweCredit = false ∧ (s1.laneOf n).oweLink = (s.laneOf n).oweLink ∧
      (s1.laneOf n).creditAt = (if (s.laneOf n).oweCredit = true then s.now else (s.laneOf n).creditAt) ∧ (s1.laneOf n).linkAt = (s.laneOf n).linkAt ∧ s1.now = s.now := by
    have b : (s0.laneOf n).oweCredit = (s.laneOf n).oweCredit := by rw [a0]
    simp only [s1, b]
    by_cases hc : (s.laneOf n).oweCredit = true
    · rw [if_pos hc, if_pos hc, laneOf_modLane, a0]; exact ⟨rfl, rfl, rfl, rfl, rfl⟩
    · rw [if_neg hc, if_neg hc, a0]; exact ⟨by simpa using hc, rfl, rfl, rfl, rfl⟩
  have a2 : (s2.laneOf n).oweCredit = false ∧ (s2.laneOf n).oweLink = false ∧ (s2.laneOf n).creditAt = (s1.laneOf n).creditAt ∧
      (s2.laneOf n).linkAt = (if (s.laneOf n).oweLink = true then s.now else (s.laneOf n).linkAt) := by
    simp only [s2, a1.2.1]
    by_cases hc : (s.laneOf n).oweLink = true
    · rw [if_pos hc, if_pos hc, laneOf_modLane]; exact ⟨a1.1, rfl, rfl, a1.2.2.2.2⟩
    · rw [if_neg hc, if_neg hc]; exact ⟨a1.1, by rw [a1.2.1]; simpa using hc, rfl, a1.2.2.2.1⟩
  rw [laneOf_modLane]
  exact ⟨k.1.trans a2.1, k.2.1.trans a2.2.1, (k.2.2.1.trans a2.2.2.1).trans a1.2.2.1, k.2.2.2.trans a2.2.2.2⟩
theorem try_rd (n k : Nat) (s : State) (h : 0xD10000 ≤ k) (h2 : k < 0xE00000) (h3 : k % 256 ≠ 23) : (trySend n s).rd k = s.rd k := by
  refine (trySend_fr (V := fun j => j ≠ k) (M := True) n s (fr_refl s) ?_ ?_ ?_ ?_ ?_ ?_).1 k (by simp)
  all_goals first | (intro u; (simp only [LNK.STATE, LNK.BAD_HDR, LNK.FEC_CORR, LNK.FEC_UNCORR, LNK.RX_ABORT, LNK.RX_DISCARD, LNK.TX_DISCARD, LNK.MESH_RESP, LNK.MESH_DISCARD, LNK.LOSSES, LNK.EVFLAGS, TMU.EVFLAGS, TMU.LANE_FLAGS, TMU.TXTS_MADE, TMU.TXTS_READ, TMU.TXTS_LOST, ne_eq]; omega)) | (simp only [LNK.STATE, LNK.BAD_HDR, LNK.FEC_CORR, LNK.FEC_UNCORR, LNK.RX_ABORT, LNK.RX_DISCARD, LNK.TX_DISCARD, LNK.MESH_RESP, LNK.MESH_DISCARD, LNK.LOSSES, LNK.EVFLAGS, TMU.EVFLAGS, TMU.LANE_FLAGS, TMU.TXTS_MADE, TMU.TXTS_READ, TMU.TXTS_LOST, ne_eq]; omega)
theorem try_state {n : Nat} (hn : n < 48) (s : State) : laneState n (trySend n s) = laneState n s :=
  try_rd n _ s (by (simp only [LNK.STATE, LNK.BAD_HDR, LNK.FEC_CORR, LNK.FEC_UNCORR, LNK.RX_ABORT, LNK.RX_DISCARD, LNK.TX_DISCARD, LNK.MESH_RESP, LNK.MESH_DISCARD, LNK.LOSSES, LNK.EVFLAGS, TMU.EVFLAGS, TMU.LANE_FLAGS, TMU.TXTS_MADE, TMU.TXTS_READ, TMU.TXTS_LOST, ne_eq]; omega)) (by (simp only [LNK.STATE, LNK.BAD_HDR, LNK.FEC_CORR, LNK.FEC_UNCORR, LNK.RX_ABORT, LNK.RX_DISCARD, LNK.TX_DISCARD, LNK.MESH_RESP, LNK.MESH_DISCARD, LNK.LOSSES, LNK.EVFLAGS, TMU.EVFLAGS, TMU.LANE_FLAGS, TMU.TXTS_MADE, TMU.TXTS_READ, TMU.TXTS_LOST, ne_eq]; omega)) (by (simp only [LNK.STATE, LNK.BAD_HDR, LNK.FEC_CORR, LNK.FEC_UNCORR, LNK.RX_ABORT, LNK.RX_DISCARD, LNK.TX_DISCARD, LNK.MESH_RESP, LNK.MESH_DISCARD, LNK.LOSSES, LNK.EVFLAGS, TMU.EVFLAGS, TMU.LANE_FLAGS, TMU.TXTS_MADE, TMU.TXTS_READ, TMU.TXTS_LOST, ne_eq]; omega))
theorem try_bit {n b : Nat} (hn : n < 48) (s : State) : (trySend n s).bit (LNK.EVFLAGS n) b = s.bit (LNK.EVFLAGS n) b :=
  bit_of_rd (try_rd n _ s (by (simp only [LNK.STATE, LNK.BAD_HDR, LNK.FEC_CORR, LNK.FEC_UNCORR, LNK.RX_ABORT, LNK.RX_DISCARD, LNK.TX_DISCARD, LNK.MESH_RESP, LNK.MESH_DISCARD, LNK.LOSSES, LNK.EVFLAGS, TMU.EVFLAGS, TMU.LANE_FLAGS, TMU.TXTS_MADE, TMU.TXTS_READ, TMU.TXTS_LOST, ne_eq]; omega)) (by (simp only [LNK.STATE, LNK.BAD_HDR, LNK.FEC_CORR, LNK.FEC_UNCORR, LNK.RX_ABORT, LNK.RX_DISCARD, LNK.TX_DISCARD, LNK.MESH_RESP, LNK.MESH_DISCARD, LNK.LOSSES, LNK.EVFLAGS, TMU.EVFLAGS, TMU.LANE_FLAGS, TMU.TXTS_MADE, TMU.TXTS_READ, TMU.TXTS_LOST, ne_eq]; omega)) (by (simp only [LNK.STATE, LNK.BAD_HDR, LNK.FEC_CORR, LNK.FEC_UNCORR, LNK.RX_ABORT, LNK.RX_DISCARD, LNK.TX_DISCARD, LNK.MESH_RESP, LNK.MESH_DISCARD, LNK.LOSSES, LNK.EVFLAGS, TMU.EVFLAGS, TMU.LANE_FLAGS, TMU.TXTS_MADE, TMU.TXTS_READ, TMU.TXTS_LOST, ne_eq]; omega)))
theorem quad_all {n : Nat} {s : State} : quadReset n s = true → ∀ b, b < 4 → laneState (4 * n + b) s = 0 := by
  unfold quadReset; rw [List.all_eq_true]; intro h b hb; exact Nat.eq_of_beq_eq_true (h b (List.mem_range.2 hb))
theorem enter_id {n c : Nat} {s : State} (h : laneState n s ≠ 3) : laneEnter n c s = (s.wr (LNK.STATE n) c).modLane n fun x =>
    { x with good := 0, prbs := {}, out := [], line := if c = 2 then lineSettled n s else {}, began := if c = 1 then s.now else x.began, codeBlk := 0,
             rxP := if c = 4 then Config.rxBefore n s.now % 4 else 0 } := by
  unfold laneEnter; dsimp only; rw [if_neg h]
end LaneFacts
open LaneFacts
namespace LaneFacts
theorem good_rd (n k : Nat) (s : State) : (goodHeader n s).rd k = s.rd k := rd_modLane _ _ _ _
theorem good_2 {n : Nat} {s : State} (h : laneState n s = 2) : (goodHeader n s).laneOf n = { s.laneOf n with good := (s.laneOf n).good + 1 } := by
  unfold goodHeader; rw [laneOf_modLane, if_pos h]
theorem good_3 {n : Nat} {s : State} (h : laneState n s = 3) : (goodHeader n s).laneOf n = { s.laneOf n with heads := (true :: (s.laneOf n).heads).take 64 } := by
  unfold goodHeader; rw [laneOf_modLane, if_neg (by omega)]
theorem code_facts (n fix : Nat) (s : State) : (∃ a b, (codeIn n fix s).laneOf n = { s.laneOf n with codeBlk := a, codeFix := b }) ∧
    (∀ k, k ≠ LNK.FEC_CORR n → (codeIn n fix s).rd k = s.rd k) ∧ (codeIn n fix s).now = s.now ∧ (codeIn n fix s).clk = s.clk := by
  unfold codeIn
  exact ⟨⟨_, _, laneOf_modLane ..⟩, fun k hk => addTo_ne hk, rfl, rfl⟩
theorem blk {n fix : Nat} {act : State → State} {s : State} {P : State → Prop} (hn : n < 48) (h : laneState n s = 3)
    (hp : ∀ (u : State) (a b : Nat), u.laneOf n = { s.laneOf n with heads := (true :: (s.laneOf n).heads).take 64, codeBlk := a, codeFix := b } →
      (∀ k, k ≠ LNK.FEC_CORR n → u.rd k = s.rd k) → u.now = s.now → u.clk = s.clk → P (trySend n (act u))) : ∃ t, blockIn n fix act s = .next t ∧ P t := by
  unfold blockIn
  refine givesU hn ?_
  rw [if_neg (by omega), if_pos h]
  have c : ∃ u, (if fecOn n s = true then codeIn n fix s else s) = u ∧ (∃ a b, u.laneOf n = { s.laneOf n with codeBlk := a, codeFix := b }) ∧
      (∀ k, k ≠ LNK.FEC_CORR n → u.rd k = s.rd k) ∧ u.now = s.now ∧ u.clk = s.clk := by
    refine ⟨_, rfl, ?_⟩
    split
    · exact code_facts n fix s
    · exact ⟨⟨(s.laneOf n).codeBlk, (s.laneOf n).codeFix, rfl⟩, fun _ _ => rfl, rfl, rfl⟩
  obtain ⟨u, hu, ⟨a, b, e⟩, e2, e3, e4⟩ := c
  rw [hu]
  refine hp _ a b ?_ ?_ ?_ ?_
  · rw [good_3, e]
    unfold laneState; rw [e2 _ (by (simp only [LNK.STATE, LNK.BAD_HDR, LNK.FEC_CORR, LNK.FEC_UNCORR, LNK.RX_ABORT, LNK.RX_DISCARD, LNK.TX_DISCARD, LNK.MESH_RESP, LNK.MESH_DISCARD, LNK.LOSSES, LNK.EVFLAGS, TMU.EVFLAGS, TMU.LANE_FLAGS, TMU.TXTS_MADE, TMU.TXTS_READ, TMU.TXTS_LOST, ne_eq]; omega))]; exact h
  · intro k hk; rw [good_rd, e2 _ hk]
  · exact e3
  · exact e4
theorem H_of {n : Nat} {s : State} {u : State} (h : H (u.laneOf n) = H (s.laneOf n)) : (u.laneOf n).buf = (s.laneOf n).buf ∧ (u.laneOf n).opn = (s.laneOf n).opn ∧
   (u.laneOf n).freed = (s.laneOf n).freed ∧ (u.laneOf n).up = (s.laneOf n).up ∧ (u.laneOf n).inMesh = (s.laneOf n).inMesh ∧ (u.laneOf n).writing = (s.laneOf n).writing ∧
   (u.laneOf n).parts = (s.laneOf n).parts ∧ (u.laneOf n).credit = (s.laneOf n).credit ∧ (u.laneOf n).heads = (s.laneOf n).heads ∧ (u.laneOf n).good = (s.laneOf n).good ∧ (u.laneOf n).prbs = (s.laneOf n).prbs := by
  simp only [H, Prod.mk.injEq] at h; tauto
def try_H (n : Nat) (s : State) := H_of (try_keep n s)
theorem try_lnk {n k : Nat} (s : State) (hk : 0xD10000 ≤ k ∧ k < 0xE00000 ∧ k % 256 ≠ 23) : (trySend n s).rd k = s.rd k := try_rd n k s hk.1 hk.2.1 hk.2.2
theorem bad_2 {n : Nat} {s : State} (h : laneState n s = 2) : badHeader n s = s.modLane n fun x => { x with good := 0 } := by
  unfold badHeader; rw [if_pos h]
theorem flag_bit {k b c e : Nat} {s : State} (h : s.bit k b = true) : (s.flag k c e).bit k b = true := by
  by_cases hc : c = b
  · subst hc; exact bit_flag _ _ _ _
  · have : (s.flag k c e).bit k b = (s.setBit k c true).bit k b := by
      unfold State.flag; dsimp only; split
      · rw [bit_setBit_other _ hc]; rfl
      · split
        · rw [bit_setBit_other _ hc, bit_setBit_other _ hc]; rfl
        · exact (bit_of_rd (rd_raise _ _ _)).trans (by rw [bit_setBit_other _ hc, bit_setBit_other _ hc]; rfl)
    rw [this, bit_setBit_other _ hc]; exact h
theorem rel_rd {n k j : Nat} {s : State} (hk : k ≤ 8) (hj : 0xD10000 ≤ j) (hj2 : j < 0xE00000) : (releaseSlot k s).rd j = s.rd j := by
  refine (releaseSlot_fr (V := fun i => i ≠ j) (M := True) k s (fr_refl s) ?_ ?_ ?_ ?_).1 j (by simp)
  all_goals (simp only [DBG.STATUS, HDI.MIRROR_OWNER, HDI.MIRROR_STATE, HDI.SLOT, ne_eq]; omega)
theorem hold_rd {j : Nat} {s : State} (hj : 0xD10000 ≤ j) (h2 : j < 0xE00000) (h3 : j % 256 ∈ [14, 16, 38]) : (holdover s).rd j = s.rd j := by
  simp only [List.mem_cons, List.not_mem_nil, or_false] at h3
  refine (holdover_fr (V := fun i => i ≠ j) (M := True) s (fr_refl s) ?_ ?_ ?_ ?_ ?_ ?_ ?_ ?_ ?_ ?_).1 j (by simp)
  all_goals first | (simp only [HDI.APPLY_OUTCOME, HDI.MIRROR_STATE, HDI.STATUS, TMU.EVFLAGS, TMU.STATUS, ne_eq]; omega) | (intro u0; simp only [DSP.STATE, TMU.AP_STATE, TMU.TRG_STATE, VEN.FLAGS, VEN.STATE, ne_eq]; omega)
theorem rels_rd {n j : Nat} {s : State} (hj : 0xD10000 ≤ j) (hj2 : j < 0xE00000) : ∀ (l : List Nat) (u : State), (∀ k ∈ l, k ≤ 8) → (l.foldl (fun s k => releaseSlot k s) u).rd j = u.rd j
  | [], _, _ => rfl
  | a :: l, u, h => by rw [List.foldl_cons, rels_rd (n := n) (s := s) hj hj2 l _ (fun k hk => h k (List.mem_cons_of_mem _ hk)), rel_rd (n := n) (h a (by simp)) hj hj2]
theorem disc {n : Nat} {s : State} (hn : n < 48) : (discardLane n s).rd (LNK.BAD_HDR n) = s.rd (LNK.BAD_HDR n) ∧ (discardLane n s).rd (LNK.FEC_UNCORR n) = s.rd (LNK.FEC_UNCORR n) ∧
   (s.bit (LNK.EVFLAGS n) 3 = true → (discardLane n s).bit (LNK.EVFLAGS n) 3 = true) := by
  unfold discardLane
  dsimp only
  have hh : ∀ (u : State) j, 0xD10000 ≤ j → j < 0xE00000 → j % 256 ∈ [14, 16, 38] → (if u.rd TMU.SRC_LANE = n then holdover u else u).rd j = u.rd j := by
    intro u j h1 h2 h3; split
    · exact hold_rd h1 h2 h3
    · rfl
  have e1 : (LNK.BAD_HDR n) % 256 ∈ [14, 16, 38] := by have : LNK.BAD_HDR n % 256 = 14 := by (simp only [LNK.STATE, LNK.BAD_HDR, LNK.FEC_CORR, LNK.FEC_UNCORR, LNK.RX_ABORT, LNK.RX_DISCARD, LNK.TX_DISCARD, LNK.MESH_RESP, LNK.MESH_DISCARD, LNK.LOSSES, LNK.EVFLAGS, TMU.EVFLAGS, TMU.LANE_FLAGS, TMU.TXTS_MADE, TMU.TXTS_READ, TMU.TXTS_LOST, ne_eq]; omega)
                                                       rw [this]; decide
  have e2 : (LNK.FEC_UNCORR n) % 256 ∈ [14, 16, 38] := by have : LNK.FEC_UNCORR n % 256 = 16 := by (simp only [LNK.STATE, LNK.BAD_HDR, LNK.FEC_CORR, LNK.FEC_UNCORR, LNK.RX_ABORT, LNK.RX_DISCARD, LNK.TX_DISCARD, LNK.MESH_RESP, LNK.MESH_DISCARD, LNK.LOSSES, LNK.EVFLAGS, TMU.EVFLAGS, TMU.LANE_FLAGS, TMU.TXTS_MADE, TMU.TXTS_READ, TMU.TXTS_LOST, ne_eq]; omega)
                                                          rw [this]; decide
  have e3 : (LNK.EVFLAGS n) % 256 ∈ [14, 16, 38] := by have : LNK.EVFLAGS n % 256 = 38 := by (simp only [LNK.STATE, LNK.BAD_HDR, LNK.FEC_CORR, LNK.FEC_UNCORR, LNK.RX_ABORT, LNK.RX_DISCARD, LNK.TX_DISCARD, LNK.MESH_RESP, LNK.MESH_DISCARD, LNK.LOSSES, LNK.EVFLAGS, TMU.EVFLAGS, TMU.LANE_FLAGS, TMU.TXTS_MADE, TMU.TXTS_READ, TMU.TXTS_LOST, ne_eq]; omega)
                                                       rw [this]; decide
  have hf : ∀ (c : Prop) [Decidable c] (u : State) j, j ≠ LNK.EVFLAGS n → (if c then u else lnkFlag n 4 u).rd j = u.rd j := by
    intro c _ u j h; split
    · rfl
    · unfold lnkFlag; exact rd_flag_other _ h _ _
  have hb : ∀ (c : Prop) [Decidable c] (u : State), u.bit (LNK.EVFLAGS n) 3 = true → (if c then u else lnkFlag n 4 u).bit (LNK.EVFLAGS n) 3 = true := by
    intro c _ u h; split
    · exact h
    · exact flag_bit h
  have hs : ∀ (u : State), ∀ k ∈ slotsOf n u, k ≤ 8 := by
    intro u k hk; unfold slotsOf at hk; have := (List.mem_filter.1 hk).1
    simp only [List.mem_cons, List.not_mem_nil, or_false] at this; omega
  have hc : ∀ (c : Prop) [Decidable c] (j : Nat), j ≠ LNK.RX_ABORT n → (if c then s.bump 64 (LNK.RX_ABORT n) else s).rd j = s.rd j := by
    intro c _ j h; split
    · exact bump_ne h
    · rfl
  refine ⟨?_, ?_, fun h => ?_⟩
  · rw [hh _ _ (by (simp only [LNK.STATE, LNK.BAD_HDR, LNK.FEC_CORR, LNK.FEC_UNCORR, LNK.RX_ABORT, LNK.RX_DISCARD, LNK.TX_DISCARD, LNK.MESH_RESP, LNK.MESH_DISCARD, LNK.LOSSES, LNK.EVFLAGS, TMU.EVFLAGS, TMU.LANE_FLAGS, TMU.TXTS_MADE, TMU.TXTS_READ, TMU.TXTS_LOST, ne_eq]; omega)) (by (simp only [LNK.STATE, LNK.BAD_HDR, LNK.FEC_CORR, LNK.FEC_UNCORR, LNK.RX_ABORT, LNK.RX_DISCARD, LNK.TX_DISCARD, LNK.MESH_RESP, LNK.MESH_DISCARD, LNK.LOSSES, LNK.EVFLAGS, TMU.EVFLAGS, TMU.LANE_FLAGS, TMU.TXTS_MADE, TMU.TXTS_READ, TMU.TXTS_LOST, ne_eq]; omega)) e1, hf _ _ _ (by (simp only [LNK.STATE, LNK.BAD_HDR, LNK.FEC_CORR, LNK.FEC_UNCORR, LNK.RX_ABORT, LNK.RX_DISCARD, LNK.TX_DISCARD, LNK.MESH_RESP, LNK.MESH_DISCARD, LNK.LOSSES, LNK.EVFLAGS, TMU.EVFLAGS, TMU.LANE_FLAGS, TMU.TXTS_MADE, TMU.TXTS_READ, TMU.TXTS_LOST, ne_eq]; omega)), rels_rd (n := n) (s := s) (by (simp only [LNK.STATE, LNK.BAD_HDR, LNK.FEC_CORR, LNK.FEC_UNCORR, LNK.RX_ABORT, LNK.RX_DISCARD, LNK.TX_DISCARD, LNK.MESH_RESP, LNK.MESH_DISCARD, LNK.LOSSES, LNK.EVFLAGS, TMU.EVFLAGS, TMU.LANE_FLAGS, TMU.TXTS_MADE, TMU.TXTS_READ, TMU.TXTS_LOST, ne_eq]; omega)) (by (simp only [LNK.STATE, LNK.BAD_HDR, LNK.FEC_CORR, LNK.FEC_UNCORR, LNK.RX_ABORT, LNK.RX_DISCARD, LNK.TX_DISCARD, LNK.MESH_RESP, LNK.MESH_DISCARD, LNK.LOSSES, LNK.EVFLAGS, TMU.EVFLAGS, TMU.LANE_FLAGS, TMU.TXTS_MADE, TMU.TXTS_READ, TMU.TXTS_LOST, ne_eq]; omega)) _ _ (hs _), rd_modLane, addTo_ne (by (simp only [LNK.STATE, LNK.BAD_HDR, LNK.FEC_CORR, LNK.FEC_UNCORR, LNK.RX_ABORT, LNK.RX_DISCARD, LNK.TX_DISCARD, LNK.MESH_RESP, LNK.MESH_DISCARD, LNK.LOSSES, LNK.EVFLAGS, TMU.EVFLAGS, TMU.LANE_FLAGS, TMU.TXTS_MADE, TMU.TXTS_READ, TMU.TXTS_LOST, ne_eq]; omega)), addTo_ne (by (simp only [LNK.STATE, LNK.BAD_HDR, LNK.FEC_CORR, LNK.FEC_UNCORR, LNK.RX_ABORT, LNK.RX_DISCARD, LNK.TX_DISCARD, LNK.MESH_RESP, LNK.MESH_DISCARD, LNK.LOSSES, LNK.EVFLAGS, TMU.EVFLAGS, TMU.LANE_FLAGS, TMU.TXTS_MADE, TMU.TXTS_READ, TMU.TXTS_LOST, ne_eq]; omega)), addTo_ne (by (simp only [LNK.STATE, LNK.BAD_HDR, LNK.FEC_CORR, LNK.FEC_UNCORR, LNK.RX_ABORT, LNK.RX_DISCARD, LNK.TX_DISCARD, LNK.MESH_RESP, LNK.MESH_DISCARD, LNK.LOSSES, LNK.EVFLAGS, TMU.EVFLAGS, TMU.LANE_FLAGS, TMU.TXTS_MADE, TMU.TXTS_READ, TMU.TXTS_LOST, ne_eq]; omega)), hc _ _ (by (simp only [LNK.STATE, LNK.BAD_HDR, LNK.FEC_CORR, LNK.FEC_UNCORR, LNK.RX_ABORT, LNK.RX_DISCARD, LNK.TX_DISCARD, LNK.MESH_RESP, LNK.MESH_DISCARD, LNK.LOSSES, LNK.EVFLAGS, TMU.EVFLAGS, TMU.LANE_FLAGS, TMU.TXTS_MADE, TMU.TXTS_READ, TMU.TXTS_LOST, ne_eq]; omega))]
  · rw [hh _ _ (by (simp only [LNK.STATE, LNK.BAD_HDR, LNK.FEC_CORR, LNK.FEC_UNCORR, LNK.RX_ABORT, LNK.RX_DISCARD, LNK.TX_DISCARD, LNK.MESH_RESP, LNK.MESH_DISCARD, LNK.LOSSES, LNK.EVFLAGS, TMU.EVFLAGS, TMU.LANE_FLAGS, TMU.TXTS_MADE, TMU.TXTS_READ, TMU.TXTS_LOST, ne_eq]; omega)) (by (simp only [LNK.STATE, LNK.BAD_HDR, LNK.FEC_CORR, LNK.FEC_UNCORR, LNK.RX_ABORT, LNK.RX_DISCARD, LNK.TX_DISCARD, LNK.MESH_RESP, LNK.MESH_DISCARD, LNK.LOSSES, LNK.EVFLAGS, TMU.EVFLAGS, TMU.LANE_FLAGS, TMU.TXTS_MADE, TMU.TXTS_READ, TMU.TXTS_LOST, ne_eq]; omega)) e2, hf _ _ _ (by (simp only [LNK.STATE, LNK.BAD_HDR, LNK.FEC_CORR, LNK.FEC_UNCORR, LNK.RX_ABORT, LNK.RX_DISCARD, LNK.TX_DISCARD, LNK.MESH_RESP, LNK.MESH_DISCARD, LNK.LOSSES, LNK.EVFLAGS, TMU.EVFLAGS, TMU.LANE_FLAGS, TMU.TXTS_MADE, TMU.TXTS_READ, TMU.TXTS_LOST, ne_eq]; omega)), rels_rd (n := n) (s := s) (by (simp only [LNK.STATE, LNK.BAD_HDR, LNK.FEC_CORR, LNK.FEC_UNCORR, LNK.RX_ABORT, LNK.RX_DISCARD, LNK.TX_DISCARD, LNK.MESH_RESP, LNK.MESH_DISCARD, LNK.LOSSES, LNK.EVFLAGS, TMU.EVFLAGS, TMU.LANE_FLAGS, TMU.TXTS_MADE, TMU.TXTS_READ, TMU.TXTS_LOST, ne_eq]; omega)) (by (simp only [LNK.STATE, LNK.BAD_HDR, LNK.FEC_CORR, LNK.FEC_UNCORR, LNK.RX_ABORT, LNK.RX_DISCARD, LNK.TX_DISCARD, LNK.MESH_RESP, LNK.MESH_DISCARD, LNK.LOSSES, LNK.EVFLAGS, TMU.EVFLAGS, TMU.LANE_FLAGS, TMU.TXTS_MADE, TMU.TXTS_READ, TMU.TXTS_LOST, ne_eq]; omega)) _ _ (hs _), rd_modLane, addTo_ne (by (simp only [LNK.STATE, LNK.BAD_HDR, LNK.FEC_CORR, LNK.FEC_UNCORR, LNK.RX_ABORT, LNK.RX_DISCARD, LNK.TX_DISCARD, LNK.MESH_RESP, LNK.MESH_DISCARD, LNK.LOSSES, LNK.EVFLAGS, TMU.EVFLAGS, TMU.LANE_FLAGS, TMU.TXTS_MADE, TMU.TXTS_READ, TMU.TXTS_LOST, ne_eq]; omega)), addTo_ne (by (simp only [LNK.STATE, LNK.BAD_HDR, LNK.FEC_CORR, LNK.FEC_UNCORR, LNK.RX_ABORT, LNK.RX_DISCARD, LNK.TX_DISCARD, LNK.MESH_RESP, LNK.MESH_DISCARD, LNK.LOSSES, LNK.EVFLAGS, TMU.EVFLAGS, TMU.LANE_FLAGS, TMU.TXTS_MADE, TMU.TXTS_READ, TMU.TXTS_LOST, ne_eq]; omega)), addTo_ne (by (simp only [LNK.STATE, LNK.BAD_HDR, LNK.FEC_CORR, LNK.FEC_UNCORR, LNK.RX_ABORT, LNK.RX_DISCARD, LNK.TX_DISCARD, LNK.MESH_RESP, LNK.MESH_DISCARD, LNK.LOSSES, LNK.EVFLAGS, TMU.EVFLAGS, TMU.LANE_FLAGS, TMU.TXTS_MADE, TMU.TXTS_READ, TMU.TXTS_LOST, ne_eq]; omega)), hc _ _ (by (simp only [LNK.STATE, LNK.BAD_HDR, LNK.FEC_CORR, LNK.FEC_UNCORR, LNK.RX_ABORT, LNK.RX_DISCARD, LNK.TX_DISCARD, LNK.MESH_RESP, LNK.MESH_DISCARD, LNK.LOSSES, LNK.EVFLAGS, TMU.EVFLAGS, TMU.LANE_FLAGS, TMU.TXTS_MADE, TMU.TXTS_READ, TMU.TXTS_LOST, ne_eq]; omega))]
  · rw [bit_of_rd (hh _ _ (by (simp only [LNK.STATE, LNK.BAD_HDR, LNK.FEC_CORR, LNK.FEC_UNCORR, LNK.RX_ABORT, LNK.RX_DISCARD, LNK.TX_DISCARD, LNK.MESH_RESP, LNK.MESH_DISCARD, LNK.LOSSES, LNK.EVFLAGS, TMU.EVFLAGS, TMU.LANE_FLAGS, TMU.TXTS_MADE, TMU.TXTS_READ, TMU.TXTS_LOST, ne_eq]; omega)) (by (simp only [LNK.STATE, LNK.BAD_HDR, LNK.FEC_CORR, LNK.FEC_UNCORR, LNK.RX_ABORT, LNK.RX_DISCARD, LNK.TX_DISCARD, LNK.MESH_RESP, LNK.MESH_DISCARD, LNK.LOSSES, LNK.EVFLAGS, TMU.EVFLAGS, TMU.LANE_FLAGS, TMU.TXTS_MADE, TMU.TXTS_READ, TMU.TXTS_LOST, ne_eq]; omega)) e3)]
    apply hb
    rw [bit_of_rd (s := s)]
    · exact h
    · rw [rels_rd (n := n) (s := s) (by (simp only [LNK.STATE, LNK.BAD_HDR, LNK.FEC_CORR, LNK.FEC_UNCORR, LNK.RX_ABORT, LNK.RX_DISCARD, LNK.TX_DISCARD, LNK.MESH_RESP, LNK.MESH_DISCARD, LNK.LOSSES, LNK.EVFLAGS, TMU.EVFLAGS, TMU.LANE_FLAGS, TMU.TXTS_MADE, TMU.TXTS_READ, TMU.TXTS_LOST, ne_eq]; omega)) (by (simp only [LNK.STATE, LNK.BAD_HDR, LNK.FEC_CORR, LNK.FEC_UNCORR, LNK.RX_ABORT, LNK.RX_DISCARD, LNK.TX_DISCARD, LNK.MESH_RESP, LNK.MESH_DISCARD, LNK.LOSSES, LNK.EVFLAGS, TMU.EVFLAGS, TMU.LANE_FLAGS, TMU.TXTS_MADE, TMU.TXTS_READ, TMU.TXTS_LOST, ne_eq]; omega)) _ _ (hs _), rd_modLane, addTo_ne (by (simp only [LNK.STATE, LNK.BAD_HDR, LNK.FEC_CORR, LNK.FEC_UNCORR, LNK.RX_ABORT, LNK.RX_DISCARD, LNK.TX_DISCARD, LNK.MESH_RESP, LNK.MESH_DISCARD, LNK.LOSSES, LNK.EVFLAGS, TMU.EVFLAGS, TMU.LANE_FLAGS, TMU.TXTS_MADE, TMU.TXTS_READ, TMU.TXTS_LOST, ne_eq]; omega)), addTo_ne (by (simp only [LNK.STATE, LNK.BAD_HDR, LNK.FEC_CORR, LNK.FEC_UNCORR, LNK.RX_ABORT, LNK.RX_DISCARD, LNK.TX_DISCARD, LNK.MESH_RESP, LNK.MESH_DISCARD, LNK.LOSSES, LNK.EVFLAGS, TMU.EVFLAGS, TMU.LANE_FLAGS, TMU.TXTS_MADE, TMU.TXTS_READ, TMU.TXTS_LOST, ne_eq]; omega)), addTo_ne (by (simp only [LNK.STATE, LNK.BAD_HDR, LNK.FEC_CORR, LNK.FEC_UNCORR, LNK.RX_ABORT, LNK.RX_DISCARD, LNK.TX_DISCARD, LNK.MESH_RESP, LNK.MESH_DISCARD, LNK.LOSSES, LNK.EVFLAGS, TMU.EVFLAGS, TMU.LANE_FLAGS, TMU.TXTS_MADE, TMU.TXTS_READ, TMU.TXTS_LOST, ne_eq]; omega)), hc _ _ (by (simp only [LNK.STATE, LNK.BAD_HDR, LNK.FEC_CORR, LNK.FEC_UNCORR, LNK.RX_ABORT, LNK.RX_DISCARD, LNK.TX_DISCARD, LNK.MESH_RESP, LNK.MESH_DISCARD, LNK.LOSSES, LNK.EVFLAGS, TMU.EVFLAGS, TMU.LANE_FLAGS, TMU.TXTS_MADE, TMU.TXTS_READ, TMU.TXTS_LOST, ne_eq]; omega))]
theorem laneEnter_state (n c : Nat) (s : State) : laneState n (laneEnter n c s) = c := by
  unfold laneEnter laneState; dsimp only; rw [rd_modLane]; exact rd_wr_same _ _ _
theorem enter_facts {n c : Nat} {s : State} (hn : n < 48) : (laneEnter n c s).rd (LNK.BAD_HDR n) = s.rd (LNK.BAD_HDR n) ∧ (laneEnter n c s).rd (LNK.FEC_UNCORR n) = s.rd (LNK.FEC_UNCORR n) ∧
   (s.bit (LNK.EVFLAGS n) 3 = true → (laneEnter n c s).bit (LNK.EVFLAGS n) 3 = true) := by
  unfold laneEnter
  dsimp only
  have d := disc (s := s) hn
  have e : ∀ (u : State) (f : LaneS → LaneS) (j : Nat), j ≠ LNK.STATE n → ((u.wr (LNK.STATE n) c).modLane n f).rd j = u.rd j := by
    intro u f j h; rw [rd_modLane, rd_wr_other _ h]
  split
  · refine ⟨?_, ?_, fun h => ?_⟩
    · rw [e _ _ _ (by (simp only [LNK.STATE, LNK.BAD_HDR, LNK.FEC_CORR, LNK.FEC_UNCORR, LNK.RX_ABORT, LNK.RX_DISCARD, LNK.TX_DISCARD, LNK.MESH_RESP, LNK.MESH_DISCARD, LNK.LOSSES, LNK.EVFLAGS, TMU.EVFLAGS, TMU.LANE_FLAGS, TMU.TXTS_MADE, TMU.TXTS_READ, TMU.TXTS_LOST, ne_eq]; omega))]; unfold lnkFlag; rw [rd_flag_other _ (by (simp only [LNK.STATE, LNK.BAD_HDR, LNK.FEC_CORR, LNK.FEC_UNCORR, LNK.RX_ABORT, LNK.RX_DISCARD, LNK.TX_DISCARD, LNK.MESH_RESP, LNK.MESH_DISCARD, LNK.LOSSES, LNK.EVFLAGS, TMU.EVFLAGS, TMU.LANE_FLAGS, TMU.TXTS_MADE, TMU.TXTS_READ, TMU.TXTS_LOST, ne_eq]; omega))]; exact d.1
    · rw [e _ _ _ (by (simp only [LNK.STATE, LNK.BAD_HDR, LNK.FEC_CORR, LNK.FEC_UNCORR, LNK.RX_ABORT, LNK.RX_DISCARD, LNK.TX_DISCARD, LNK.MESH_RESP, LNK.MESH_DISCARD, LNK.LOSSES, LNK.EVFLAGS, TMU.EVFLAGS, TMU.LANE_FLAGS, TMU.TXTS_MADE, TMU.TXTS_READ, TMU.TXTS_LOST, ne_eq]; omega))]; unfold lnkFlag; rw [rd_flag_other _ (by (simp only [LNK.STATE, LNK.BAD_HDR, LNK.FEC_CORR, LNK.FEC_UNCORR, LNK.RX_ABORT, LNK.RX_DISCARD, LNK.TX_DISCARD, LNK.MESH_RESP, LNK.MESH_DISCARD, LNK.LOSSES, LNK.EVFLAGS, TMU.EVFLAGS, TMU.LANE_FLAGS, TMU.TXTS_MADE, TMU.TXTS_READ, TMU.TXTS_LOST, ne_eq]; omega))]; exact d.2.1
    · rw [bit_of_rd (e _ _ _ (by (simp only [LNK.STATE, LNK.BAD_HDR, LNK.FEC_CORR, LNK.FEC_UNCORR, LNK.RX_ABORT, LNK.RX_DISCARD, LNK.TX_DISCARD, LNK.MESH_RESP, LNK.MESH_DISCARD, LNK.LOSSES, LNK.EVFLAGS, TMU.EVFLAGS, TMU.LANE_FLAGS, TMU.TXTS_MADE, TMU.TXTS_READ, TMU.TXTS_LOST, ne_eq]; omega)))]; exact flag_bit (d.2.2 h)
  · refine ⟨e _ _ _ (by (simp only [LNK.STATE, LNK.BAD_HDR, LNK.FEC_CORR, LNK.FEC_UNCORR, LNK.RX_ABORT, LNK.RX_DISCARD, LNK.TX_DISCARD, LNK.MESH_RESP, LNK.MESH_DISCARD, LNK.LOSSES, LNK.EVFLAGS, TMU.EVFLAGS, TMU.LANE_FLAGS, TMU.TXTS_MADE, TMU.TXTS_READ, TMU.TXTS_LOST, ne_eq]; omega)), e _ _ _ (by (simp only [LNK.STATE, LNK.BAD_HDR, LNK.FEC_CORR, LNK.FEC_UNCORR, LNK.RX_ABORT, LNK.RX_DISCARD, LNK.TX_DISCARD, LNK.MESH_RESP, LNK.MESH_DISCARD, LNK.LOSSES, LNK.EVFLAGS, TMU.EVFLAGS, TMU.LANE_FLAGS, TMU.TXTS_MADE, TMU.TXTS_READ, TMU.TXTS_LOST, ne_eq]; omega)), fun h => ?_⟩
    rw [bit_of_rd (e _ _ _ (by (simp only [LNK.STATE, LNK.BAD_HDR, LNK.FEC_CORR, LNK.FEC_UNCORR, LNK.RX_ABORT, LNK.RX_DISCARD, LNK.TX_DISCARD, LNK.MESH_RESP, LNK.MESH_DISCARD, LNK.LOSSES, LNK.EVFLAGS, TMU.EVFLAGS, TMU.LANE_FLAGS, TMU.TXTS_MADE, TMU.TXTS_READ, TMU.TXTS_LOST, ne_eq]; omega)))]; exact h
theorem bad_3 {n : Nat} {s : State} (hn : n < 48) (h : laneState n s = 3) :
    (badHeader n s).rd (LNK.BAD_HDR n) = min (s.rd (LNK.BAD_HDR n) + 1) (2 ^ 64 - 1) ∧
    laneState n (badHeader n s) = (if 16 ≤ (((false :: (s.laneOf n).heads).take 64).filter (! ·)).length then 2 else 3) ∧
    (¬ 16 ≤ (((false :: (s.laneOf n).heads).take 64).filter (! ·)).length → ((badHeader n s).laneOf n).heads = (false :: (s.laneOf n).heads).take 64) ∧
    (badHeader n s).rd (LNK.FEC_UNCORR n) = s.rd (LNK.FEC_UNCORR n) ∧ (s.bit (LNK.EVFLAGS n) 3 = true → (badHeader n s).bit (LNK.EVFLAGS n) 3 = true) := by
  unfold badHeader
  rw [if_neg (by omega), if_pos h]
  dsimp only
  have h3 : laneState n ((s.bump 64 (LNK.BAD_HDR n)).modLane n fun x => { x with heads := (false :: (s.laneOf n).heads).take 64 }) = 3 := by
    unfold laneState; rw [rd_modLane, bump_ne (by (simp only [LNK.STATE, LNK.BAD_HDR, LNK.FEC_CORR, LNK.FEC_UNCORR, LNK.RX_ABORT, LNK.RX_DISCARD, LNK.TX_DISCARD, LNK.MESH_RESP, LNK.MESH_DISCARD, LNK.LOSSES, LNK.EVFLAGS, TMU.EVFLAGS, TMU.LANE_FLAGS, TMU.TXTS_MADE, TMU.TXTS_READ, TMU.TXTS_LOST, ne_eq]; omega))]; exact h
  split
  · refine ⟨?_, laneEnter_state _ _ _, fun x => absurd ‹_› x, ?_, fun hb => ?_⟩
    · rw [(enter_facts hn).1, bump_ne (by (simp only [LNK.STATE, LNK.BAD_HDR, LNK.FEC_CORR, LNK.FEC_UNCORR, LNK.RX_ABORT, LNK.RX_DISCARD, LNK.TX_DISCARD, LNK.MESH_RESP, LNK.MESH_DISCARD, LNK.LOSSES, LNK.EVFLAGS, TMU.EVFLAGS, TMU.LANE_FLAGS, TMU.TXTS_MADE, TMU.TXTS_READ, TMU.TXTS_LOST, ne_eq]; omega)), rd_modLane, bump_eq]
    · rw [(enter_facts hn).2.1, bump_ne (by (simp only [LNK.STATE, LNK.BAD_HDR, LNK.FEC_CORR, LNK.FEC_UNCORR, LNK.RX_ABORT, LNK.RX_DISCARD, LNK.TX_DISCARD, LNK.MESH_RESP, LNK.MESH_DISCARD, LNK.LOSSES, LNK.EVFLAGS, TMU.EVFLAGS, TMU.LANE_FLAGS, TMU.TXTS_MADE, TMU.TXTS_READ, TMU.TXTS_LOST, ne_eq]; omega)), rd_modLane, bump_ne (by (simp only [LNK.STATE, LNK.BAD_HDR, LNK.FEC_CORR, LNK.FEC_UNCORR, LNK.RX_ABORT, LNK.RX_DISCARD, LNK.TX_DISCARD, LNK.MESH_RESP, LNK.MESH_DISCARD, LNK.LOSSES, LNK.EVFLAGS, TMU.EVFLAGS, TMU.LANE_FLAGS, TMU.TXTS_MADE, TMU.TXTS_READ, TMU.TXTS_LOST, ne_eq]; omega))]
    · refine (enter_facts hn).2.2 ?_
      rw [bit_of_rd (s := s) (by rw [bump_ne (by (simp only [LNK.STATE, LNK.BAD_HDR, LNK.FEC_CORR, LNK.FEC_UNCORR, LNK.RX_ABORT, LNK.RX_DISCARD, LNK.TX_DISCARD, LNK.MESH_RESP, LNK.MESH_DISCARD, LNK.LOSSES, LNK.EVFLAGS, TMU.EVFLAGS, TMU.LANE_FLAGS, TMU.TXTS_MADE, TMU.TXTS_READ, TMU.TXTS_LOST, ne_eq]; omega)), rd_modLane, bump_ne (by (simp only [LNK.STATE, LNK.BAD_HDR, LNK.FEC_CORR, LNK.FEC_UNCORR, LNK.RX_ABORT, LNK.RX_DISCARD, LNK.TX_DISCARD, LNK.MESH_RESP, LNK.MESH_DISCARD, LNK.LOSSES, LNK.EVFLAGS, TMU.EVFLAGS, TMU.LANE_FLAGS, TMU.TXTS_MADE, TMU.TXTS_READ, TMU.TXTS_LOST, ne_eq]; omega))])]; exact hb
  · refine ⟨?_, h3, fun _ => ?_, ?_, fun hb => ?_⟩
    · rw [rd_modLane, bump_eq]
    · rw [laneOf_modLane]
    · rw [rd_modLane, bump_ne (by (simp only [LNK.STATE, LNK.BAD_HDR, LNK.FEC_CORR, LNK.FEC_UNCORR, LNK.RX_ABORT, LNK.RX_DISCARD, LNK.TX_DISCARD, LNK.MESH_RESP, LNK.MESH_DISCARD, LNK.LOSSES, LNK.EVFLAGS, TMU.EVFLAGS, TMU.LANE_FLAGS, TMU.TXTS_MADE, TMU.TXTS_READ, TMU.TXTS_LOST, ne_eq]; omega))]
    · rw [bit_of_rd (s := s) (by rw [rd_modLane, bump_ne (by (simp only [LNK.STATE, LNK.BAD_HDR, LNK.FEC_CORR, LNK.FEC_UNCORR, LNK.RX_ABORT, LNK.RX_DISCARD, LNK.TX_DISCARD, LNK.MESH_RESP, LNK.MESH_DISCARD, LNK.LOSSES, LNK.EVFLAGS, TMU.EVFLAGS, TMU.LANE_FLAGS, TMU.TXTS_MADE, TMU.TXTS_READ, TMU.TXTS_LOST, ne_eq]; omega))])]; exact hb
set_option Elab.async false in
theorem trySt {n : Nat} {s : State} : (trySend n s).reqs = s.reqs := trySend_keepsReqsLane (s0 := s) n s rfl
end LaneFacts
end Sys2Proof.Laws.CompleteLnk
end

