-- ==== Sys2Proof/Laws/KeepsReqs.lean ====
section
/-! SUPPORT. State.reqs: what the operations it lists leave unchanged. -/
set_option linter.unreachableTactic false
set_option linter.unusedSimpArgs false
set_option linter.unusedTactic false
namespace Sys2Proof.Laws
open Sys2Proof.Machine
section
variable {s0 : State}
def KeepsReqs (s0 s : State) : Prop := s.reqs = s0.reqs
theorem keepsReqs_ite {c : Prop} [Decidable c] {x y : State} (hx : KeepsReqs s0 x) (hy : KeepsReqs s0 y) : KeepsReqs s0 (if c then x else y) := by split <;> assumption
theorem keepsReqs_foldl {β : Type} {f : State → β → State} (hf : ∀ s x, KeepsReqs s0 s → KeepsReqs s0 (f s x)) :
    ∀ {l : List β} {s : State}, KeepsReqs s0 s → KeepsReqs s0 (l.foldl f s)
  | [], _, h => h
  | x :: l, s, h => keepsReqs_foldl (l := l) hf (hf s x h)
theorem keepsReqs_cut {s : State} {p : Prop} (h : KeepsReqs s0 s) (f : KeepsReqs s0 s → p) : p := f h
theorem wr_keepsReqs (k v : Nat) (s : State) (h : KeepsReqs s0 s) : KeepsReqs s0 (s.wr k v) := h
theorem keepsReqs_mk_iff {s : State} {x_now : Nat} {x_reg : Tab Nat} {x_mem : List Host.Cell} {x_evq : List (Nat × Nat)} {x_freeCtr : Nat} {x_pending : List Instr} {x_hdi : HdiS} {x_clk : ClockS} {x_sched : List Sched} {x_ve : Tab VeRun} {x_outCh : Tab OutCh} {x_inCh : Tab InCh} {x_fcp : Tab FcpS} {x_sq : Tab SqS} {x_brk : Tab BrkS} {x_tgt : Tab TgtS} {x_groupAt : List (Nat × Nat)} {x_dsp : Tab DspRun} {x_focus : FocusS} {x_trim : TrimS} {x_resps : List MeshResp} {x_held : List PortReq} {x_steal : List PortReq} {x_labels : List (MeshReq × Nat)} {x_drain : Option Drain} {x_trace : List Nat} {x_dmc : Tab DmcS} {x_autoTrain : Bool} {x_crh : CrhS} {x_cfg : CfgS} {x_fresh : List (Nat × Nat × Nat)} {x_cleared : List (Nat × Nat × Nat)} {x_sup : SupS} {x_dbg : DbgS} {x_tmu : TmuS} {x_lanes : Tab LaneS} {x_cells : Tab (Option CellS)} {x_cellCfg : Tab CellCfg} {x_sels : Tab Nat} {x_tracks : Tab Nat} {x_upsets : List Upset} {x_facets : Tab FacetS} {x_fev : List (Nat × Nat)} {x_panes : Tab PaneS} {x_banks : Tab BankS} {x_pins : PinsS} :
    KeepsReqs s0 ⟨x_now, x_reg, x_mem, x_evq, x_freeCtr, x_pending, x_hdi, x_clk, x_sched, x_ve, x_outCh, x_inCh, x_fcp, x_sq, x_brk, x_tgt, x_groupAt, x_dsp, x_focus, x_trim, s.reqs, x_resps, x_held, x_steal, x_labels, x_drain, x_trace, x_dmc, x_autoTrain, x_crh, x_cfg, x_fresh, x_cleared, x_sup, x_dbg, x_tmu, x_lanes, x_cells, x_cellCfg, x_sels, x_tracks, x_upsets, x_facets, x_fev, x_panes, x_banks, x_pins⟩ ↔ KeepsReqs s0 s := Iff.rfl
theorem addTo_keepsReqs (s : State) (w k d : Nat) (hs : KeepsReqs s0 s) :
    KeepsReqs s0 (State.addTo s w k d) := by
  unfold State.addTo
  repeat' first
    | with_reducible intro _
    | with_reducible assumption
    | with_reducible apply wr_keepsReqs

theorem bump_keepsReqs (s : State) (w k : Nat) (hs : KeepsReqs s0 s) :
    KeepsReqs s0 (State.bump s w k) := by
  unfold State.bump
  repeat' first
    | with_reducible intro _
    | with_reducible assumption
    | with_reducible apply addTo_keepsReqs

theorem raiseAt_keepsReqs (s : State) (t e : Nat) (hs : KeepsReqs s0 s) :
    KeepsReqs s0 (State.raiseAt s t e) := by
  unfold State.raiseAt
  repeat' first
    | with_reducible intro _
    | with_reducible assumption
    | simp only [↓keepsReqs_mk_iff]
    | with_reducible apply keepsReqs_ite
    | (extract_lets x; first | (with_reducible refine keepsReqs_cut (s := x) ?_ ?_; (on_goal 2 => clear_value x); (on_goal 1 => unfold x)) | (subst x))
    | split

theorem raise_keepsReqs (s : State) (e : Nat) (hs : KeepsReqs s0 s) :
    KeepsReqs s0 (State.raise s e) := by
  unfold State.raise
  repeat' first
    | with_reducible intro _
    | with_reducible assumption
    | with_reducible apply raiseAt_keepsReqs
    | simp only [↓keepsReqs_mk_iff]
    | with_reducible apply keepsReqs_ite
    | (extract_lets x; first | (with_reducible refine keepsReqs_cut (s := x) ?_ ?_; (on_goal 2 => clear_value x); (on_goal 1 => unfold x)) | (subst x))
    | split

theorem setBit_keepsReqs (s : State) (k b : Nat) (v : Bool) (hs : KeepsReqs s0 s) :
    KeepsReqs s0 (State.setBit s k b v) := by
  unfold State.setBit
  repeat' first
    | with_reducible intro _
    | with_reducible assumption
    | with_reducible apply wr_keepsReqs
    | with_reducible apply keepsReqs_ite
    | split

theorem note_keepsReqs (s : State) (k b : Nat) (hs : KeepsReqs s0 s) :
    KeepsReqs s0 (State.note s k b) := by
  unfold State.note
  repeat' first
    | with_reducible intro _
    | with_reducible assumption
    | simp only [↓keepsReqs_mk_iff]
    | with_reducible apply keepsReqs_ite
    | (extract_lets x; first | (with_reducible refine keepsReqs_cut (s := x) ?_ ?_; (on_goal 2 => clear_value x); (on_goal 1 => unfold x)) | (subst x))
    | split

theorem flag_keepsReqs (s : State) (k b e : Nat) (hs : KeepsReqs s0 s) :
    KeepsReqs s0 (State.flag s k b e) := by
  unfold State.flag
  repeat' first
    | with_reducible intro _
    | with_reducible assumption
    | with_reducible apply note_keepsReqs
    | with_reducible apply setBit_keepsReqs
    | with_reducible apply raise_keepsReqs
    | simp only [↓keepsReqs_mk_iff]
    | with_reducible apply keepsReqs_ite
    | (extract_lets x; first | (with_reducible refine keepsReqs_cut (s := x) ?_ ?_; (on_goal 2 => clear_value x); (on_goal 1 => unfold x)) | (subst x))
    | split

theorem drawn_keepsReqs (s : State) (hs : KeepsReqs s0 s) :
    KeepsReqs s0 (State.drawn s) := by
  unfold State.drawn
  repeat' first
    | with_reducible intro _
    | with_reducible assumption
    | simp only [↓keepsReqs_mk_iff]

theorem modVe_keepsReqs (s : State) (n : Nat) (f : VeRun → VeRun) (hs : KeepsReqs s0 s) :
    KeepsReqs s0 (State.modVe s n f) := by
  unfold State.modVe
  repeat' first
    | with_reducible intro _
    | with_reducible assumption
    | simp only [↓keepsReqs_mk_iff]

theorem modBrk_keepsReqs (s : State) (u : Nat) (f : BrkS → BrkS) (hs : KeepsReqs s0 s) :
    KeepsReqs s0 (State.modBrk s u f) := by
  unfold State.modBrk
  repeat' first
    | with_reducible intro _
    | with_reducible assumption
    | simp only [↓keepsReqs_mk_iff]

theorem modTgt_keepsReqs (s : State) (t : Nat) (f : TgtS → TgtS) (hs : KeepsReqs s0 s) :
    KeepsReqs s0 (State.modTgt s t f) := by
  unfold State.modTgt
  repeat' first
    | with_reducible intro _
    | with_reducible assumption
    | simp only [↓keepsReqs_mk_iff]

theorem modDsp_keepsReqs (s : State) (n : Nat) (f : DspRun → DspRun) (hs : KeepsReqs s0 s) :
    KeepsReqs s0 (State.modDsp s n f) := by
  unfold State.modDsp
  repeat' first
    | with_reducible intro _
    | with_reducible assumption
    | simp only [↓keepsReqs_mk_iff]

theorem latchDebugHalt_keepsReqs (t th : Nat) (s : State) (hs : KeepsReqs s0 s) :
    KeepsReqs s0 (latchDebugHalt t th s) := by
  unfold latchDebugHalt
  repeat' first
    | with_reducible intro _
    | with_reducible assumption
    | with_reducible apply modTgt_keepsReqs
    | with_reducible apply modVe_keepsReqs
    | with_reducible apply modDsp_keepsReqs
    | simp only [↓keepsReqs_mk_iff]
    | with_reducible apply keepsReqs_ite
    | (extract_lets x; first | (with_reducible refine keepsReqs_cut (s := x) ?_ ?_; (on_goal 2 => clear_value x); (on_goal 1 => unfold x)) | (subst x))
    | split

theorem linkFired_keepsReqs (u : Nat) (s : State) (hs : KeepsReqs s0 s) :
    KeepsReqs s0 (linkFired u s) := by
  unfold linkFired
  repeat' first
    | with_reducible intro _
    | with_reducible assumption
    | with_reducible apply modBrk_keepsReqs
    | simp only [↓keepsReqs_mk_iff]
    | with_reducible apply keepsReqs_ite
    | with_reducible apply keepsReqs_foldl
    | split

theorem brkFire_keepsReqs (u t th : Nat) (s : State) (hs : KeepsReqs s0 s) :
    KeepsReqs s0 (brkFire u t th s) := by
  unfold brkFire
  repeat' first
    | with_reducible intro _
    | with_reducible assumption
    | with_reducible apply linkFired_keepsReqs
    | with_reducible apply wr_keepsReqs
    | with_reducible apply flag_keepsReqs
    | with_reducible apply latchDebugHalt_keepsReqs
    | simp only [↓keepsReqs_mk_iff]
    | (extract_lets x; first | (with_reducible refine keepsReqs_cut (s := x) ?_ ?_; (on_goal 2 => clear_value x); (on_goal 1 => unfold x)) | (subst x))
    | split

theorem brkCount_keepsReqs (u t th : Nat) (s : State) (hs : KeepsReqs s0 s) :
    KeepsReqs s0 (brkCount u t th s) := by
  unfold brkCount
  repeat' first
    | with_reducible intro _
    | with_reducible assumption
    | with_reducible apply bump_keepsReqs
    | with_reducible apply modBrk_keepsReqs
    | with_reducible apply brkFire_keepsReqs
    | simp only [↓keepsReqs_mk_iff]
    | with_reducible apply keepsReqs_ite
    | (extract_lets x; first | (with_reducible refine keepsReqs_cut (s := x) ?_ ?_; (on_goal 2 => clear_value x); (on_goal 1 => unfold x)) | (subst x))
    | split

theorem brkMatch_keepsReqs (kind t v ctx cls th : Nat) (s : State) (hs : KeepsReqs s0 s) :
    KeepsReqs s0 (brkMatch kind t v ctx cls th s) := by
  unfold brkMatch
  repeat' first
    | with_reducible intro _
    | with_reducible assumption
    | with_reducible apply brkCount_keepsReqs
    | with_reducible apply keepsReqs_ite
    | with_reducible apply keepsReqs_foldl
    | split

theorem mshFlag_keepsReqs (b : Nat) (s : State) (hs : KeepsReqs s0 s) :
    KeepsReqs s0 (mshFlag b s) := by
  unfold mshFlag
  repeat' first
    | with_reducible intro _
    | with_reducible assumption
    | with_reducible apply flag_keepsReqs

theorem traceWrite_keepsReqs (p : Nat) (k : Packet) (s : State) (hs : KeepsReqs s0 s) :
    KeepsReqs s0 (traceWrite p k s) := by
  unfold traceWrite
  repeat' first
    | with_reducible intro _
    | with_reducible assumption
    | with_reducible apply drawn_keepsReqs
    | with_reducible apply bump_keepsReqs
    | with_reducible apply mshFlag_keepsReqs
    | simp only [↓keepsReqs_mk_iff]
    | with_reducible apply keepsReqs_ite
    | (extract_lets x; first | (with_reducible refine keepsReqs_cut (s := x) ?_ ?_; (on_goal 2 => clear_value x); (on_goal 1 => unfold x)) | (subst x))
    | split

theorem probesSee_keepsReqs (k : Packet) (s : State) (hs : KeepsReqs s0 s) :
    KeepsReqs s0 (probesSee k s) := by
  unfold probesSee
  repeat' first
    | with_reducible intro _
    | with_reducible assumption
    | with_reducible apply bump_keepsReqs
    | with_reducible apply addTo_keepsReqs
    | with_reducible apply traceWrite_keepsReqs
    | with_reducible apply keepsReqs_ite
    | with_reducible apply keepsReqs_foldl
    | (extract_lets x; first | (with_reducible refine keepsReqs_cut (s := x) ?_ ?_; (on_goal 2 => clear_value x); (on_goal 1 => unfold x)) | (subst x))
    | split

set_option Elab.async false in
theorem noteArrival_keepsReqs (r : MeshReq) (s : State) (hs : KeepsReqs s0 s) :
    KeepsReqs s0 (noteArrival r s) := by
  unfold noteArrival
  repeat' first
    | with_reducible intro _
    | with_reducible assumption
    | with_reducible apply brkMatch_keepsReqs
    | with_reducible apply probesSee_keepsReqs
end

end Sys2Proof.Laws
end

