-- ==== Sys2Proof/Laws/KeepsResps.lean ====
section
/-! SUPPORT. State.resps: what the operations it lists leave unchanged. -/
set_option linter.unreachableTactic false
set_option linter.unusedSimpArgs false
set_option linter.unusedTactic false
namespace Sys2Proof.Laws
open Sys2Proof.Machine
section
variable {s0 : State}
def KeepsResps (s0 s : State) : Prop := s.resps = s0.resps
theorem keepsResps_ite {c : Prop} [Decidable c] {x y : State} (hx : KeepsResps s0 x) (hy : KeepsResps s0 y) : KeepsResps s0 (if c then x else y) := by split <;> assumption
theorem keepsResps_foldl {β : Type} {f : State → β → State} (hf : ∀ s x, KeepsResps s0 s → KeepsResps s0 (f s x)) :
    ∀ {l : List β} {s : State}, KeepsResps s0 s → KeepsResps s0 (l.foldl f s)
  | [], _, h => h
  | x :: l, s, h => keepsResps_foldl (l := l) hf (hf s x h)
theorem keepsResps_cut {s : State} {p : Prop} (h : KeepsResps s0 s) (f : KeepsResps s0 s → p) : p := f h
theorem wr_keepsResps (k v : Nat) (s : State) (h : KeepsResps s0 s) : KeepsResps s0 (s.wr k v) := h
theorem keepsResps_mk_iff {s : State} {x_now : Nat} {x_reg : Tab Nat} {x_mem : List Host.Cell} {x_evq : List (Nat × Nat)} {x_freeCtr : Nat} {x_pending : List Instr} {x_hdi : HdiS} {x_clk : ClockS} {x_sched : List Sched} {x_ve : Tab VeRun} {x_outCh : Tab OutCh} {x_inCh : Tab InCh} {x_fcp : Tab FcpS} {x_sq : Tab SqS} {x_brk : Tab BrkS} {x_tgt : Tab TgtS} {x_groupAt : List (Nat × Nat)} {x_dsp : Tab DspRun} {x_focus : FocusS} {x_trim : TrimS} {x_reqs : List MeshReq} {x_held : List PortReq} {x_steal : List PortReq} {x_labels : List (MeshReq × Nat)} {x_drain : Option Drain} {x_trace : List Nat} {x_dmc : Tab DmcS} {x_autoTrain : Bool} {x_crh : CrhS} {x_cfg : CfgS} {x_fresh : List (Nat × Nat × Nat)} {x_cleared : List (Nat × Nat × Nat)} {x_sup : SupS} {x_dbg : DbgS} {x_tmu : TmuS} {x_lanes : Tab LaneS} {x_cells : Tab (Option CellS)} {x_cellCfg : Tab CellCfg} {x_sels : Tab Nat} {x_tracks : Tab Nat} {x_upsets : List Upset} {x_facets : Tab FacetS} {x_fev : List (Nat × Nat)} {x_panes : Tab PaneS} {x_banks : Tab BankS} {x_pins : PinsS} :
    KeepsResps s0 ⟨x_now, x_reg, x_mem, x_evq, x_freeCtr, x_pending, x_hdi, x_clk, x_sched, x_ve, x_outCh, x_inCh, x_fcp, x_sq, x_brk, x_tgt, x_groupAt, x_dsp, x_focus, x_trim, x_reqs, s.resps, x_held, x_steal, x_labels, x_drain, x_trace, x_dmc, x_autoTrain, x_crh, x_cfg, x_fresh, x_cleared, x_sup, x_dbg, x_tmu, x_lanes, x_cells, x_cellCfg, x_sels, x_tracks, x_upsets, x_facets, x_fev, x_panes, x_banks, x_pins⟩ ↔ KeepsResps s0 s := Iff.rfl
theorem addTo_keepsResps (s : State) (w k d : Nat) (hs : KeepsResps s0 s) :
    KeepsResps s0 (State.addTo s w k d) := by
  unfold State.addTo
  repeat' first
    | with_reducible intro _
    | with_reducible assumption
    | with_reducible apply wr_keepsResps

theorem bump_keepsResps (s : State) (w k : Nat) (hs : KeepsResps s0 s) :
    KeepsResps s0 (State.bump s w k) := by
  unfold State.bump
  repeat' first
    | with_reducible intro _
    | with_reducible assumption
    | with_reducible apply addTo_keepsResps

theorem raiseAt_keepsResps (s : State) (t e : Nat) (hs : KeepsResps s0 s) :
    KeepsResps s0 (State.raiseAt s t e) := by
  unfold State.raiseAt
  repeat' first
    | with_reducible intro _
    | with_reducible assumption
    | simp only [↓keepsResps_mk_iff]
    | with_reducible apply keepsResps_ite
    | (extract_lets x; first | (with_reducible refine keepsResps_cut (s := x) ?_ ?_; (on_goal 2 => clear_value x); (on_goal 1 => unfold x)) | (subst x))
    | split

theorem raise_keepsResps (s : State) (e : Nat) (hs : KeepsResps s0 s) :
    KeepsResps s0 (State.raise s e) := by
  unfold State.raise
  repeat' first
    | with_reducible intro _
    | with_reducible assumption
    | with_reducible apply raiseAt_keepsResps
    | simp only [↓keepsResps_mk_iff]
    | with_reducible apply keepsResps_ite
    | (extract_lets x; first | (with_reducible refine keepsResps_cut (s := x) ?_ ?_; (on_goal 2 => clear_value x); (on_goal 1 => unfold x)) | (subst x))
    | split

theorem setBit_keepsResps (s : State) (k b : Nat) (v : Bool) (hs : KeepsResps s0 s) :
    KeepsResps s0 (State.setBit s k b v) := by
  unfold State.setBit
  repeat' first
    | with_reducible intro _
    | with_reducible assumption
    | with_reducible apply wr_keepsResps
    | with_reducible apply keepsResps_ite
    | split

theorem note_keepsResps (s : State) (k b : Nat) (hs : KeepsResps s0 s) :
    KeepsResps s0 (State.note s k b) := by
  unfold State.note
  repeat' first
    | with_reducible intro _
    | with_reducible assumption
    | simp only [↓keepsResps_mk_iff]
    | with_reducible apply keepsResps_ite
    | (extract_lets x; first | (with_reducible refine keepsResps_cut (s := x) ?_ ?_; (on_goal 2 => clear_value x); (on_goal 1 => unfold x)) | (subst x))
    | split

theorem flag_keepsResps (s : State) (k b e : Nat) (hs : KeepsResps s0 s) :
    KeepsResps s0 (State.flag s k b e) := by
  unfold State.flag
  repeat' first
    | with_reducible intro _
    | with_reducible assumption
    | with_reducible apply note_keepsResps
    | with_reducible apply setBit_keepsResps
    | with_reducible apply raise_keepsResps
    | simp only [↓keepsResps_mk_iff]
    | with_reducible apply keepsResps_ite
    | (extract_lets x; first | (with_reducible refine keepsResps_cut (s := x) ?_ ?_; (on_goal 2 => clear_value x); (on_goal 1 => unfold x)) | (subst x))
    | split

theorem drawn_keepsResps (s : State) (hs : KeepsResps s0 s) :
    KeepsResps s0 (State.drawn s) := by
  unfold State.drawn
  repeat' first
    | with_reducible intro _
    | with_reducible assumption
    | simp only [↓keepsResps_mk_iff]

theorem modVe_keepsResps (s : State) (n : Nat) (f : VeRun → VeRun) (hs : KeepsResps s0 s) :
    KeepsResps s0 (State.modVe s n f) := by
  unfold State.modVe
  repeat' first
    | with_reducible intro _
    | with_reducible assumption
    | simp only [↓keepsResps_mk_iff]

theorem modBrk_keepsResps (s : State) (u : Nat) (f : BrkS → BrkS) (hs : KeepsResps s0 s) :
    KeepsResps s0 (State.modBrk s u f) := by
  unfold State.modBrk
  repeat' first
    | with_reducible intro _
    | with_reducible assumption
    | simp only [↓keepsResps_mk_iff]

theorem modTgt_keepsResps (s : State) (t : Nat) (f : TgtS → TgtS) (hs : KeepsResps s0 s) :
    KeepsResps s0 (State.modTgt s t f) := by
  unfold State.modTgt
  repeat' first
    | with_reducible intro _
    | with_reducible assumption
    | simp only [↓keepsResps_mk_iff]

theorem modDsp_keepsResps (s : State) (n : Nat) (f : DspRun → DspRun) (hs : KeepsResps s0 s) :
    KeepsResps s0 (State.modDsp s n f) := by
  unfold State.modDsp
  repeat' first
    | with_reducible intro _
    | with_reducible assumption
    | simp only [↓keepsResps_mk_iff]

theorem latchDebugHalt_keepsResps (t th : Nat) (s : State) (hs : KeepsResps s0 s) :
    KeepsResps s0 (latchDebugHalt t th s) := by
  unfold latchDebugHalt
  repeat' first
    | with_reducible intro _
    | with_reducible assumption
    | with_reducible apply modTgt_keepsResps
    | with_reducible apply modVe_keepsResps
    | with_reducible apply modDsp_keepsResps
    | simp only [↓keepsResps_mk_iff]
    | with_reducible apply keepsResps_ite
    | (extract_lets x; first | (with_reducible refine keepsResps_cut (s := x) ?_ ?_; (on_goal 2 => clear_value x); (on_goal 1 => unfold x)) | (subst x))
    | split

theorem linkFired_keepsResps (u : Nat) (s : State) (hs : KeepsResps s0 s) :
    KeepsResps s0 (linkFired u s) := by
  unfold linkFired
  repeat' first
    | with_reducible intro _
    | with_reducible assumption
    | with_reducible apply modBrk_keepsResps
    | simp only [↓keepsResps_mk_iff]
    | with_reducible apply keepsResps_ite
    | with_reducible apply keepsResps_foldl
    | split

theorem brkFire_keepsResps (u t th : Nat) (s : State) (hs : KeepsResps s0 s) :
    KeepsResps s0 (brkFire u t th s) := by
  unfold brkFire
  repeat' first
    | with_reducible intro _
    | with_reducible assumption
    | with_reducible apply linkFired_keepsResps
    | with_reducible apply wr_keepsResps
    | with_reducible apply flag_keepsResps
    | with_reducible apply latchDebugHalt_keepsResps
    | simp only [↓keepsResps_mk_iff]
    | (extract_lets x; first | (with_reducible refine keepsResps_cut (s := x) ?_ ?_; (on_goal 2 => clear_value x); (on_goal 1 => unfold x)) | (subst x))
    | split

theorem brkCount_keepsResps (u t th : Nat) (s : State) (hs : KeepsResps s0 s) :
    KeepsResps s0 (brkCount u t th s) := by
  unfold brkCount
  repeat' first
    | with_reducible intro _
    | with_reducible assumption
    | with_reducible apply bump_keepsResps
    | with_reducible apply modBrk_keepsResps
    | with_reducible apply brkFire_keepsResps
    | simp only [↓keepsResps_mk_iff]
    | with_reducible apply keepsResps_ite
    | (extract_lets x; first | (with_reducible refine keepsResps_cut (s := x) ?_ ?_; (on_goal 2 => clear_value x); (on_goal 1 => unfold x)) | (subst x))
    | split

theorem brkMatch_keepsResps (kind t v ctx cls th : Nat) (s : State) (hs : KeepsResps s0 s) :
    KeepsResps s0 (brkMatch kind t v ctx cls th s) := by
  unfold brkMatch
  repeat' first
    | with_reducible intro _
    | with_reducible assumption
    | with_reducible apply brkCount_keepsResps
    | with_reducible apply keepsResps_ite
    | with_reducible apply keepsResps_foldl
    | split

theorem mshFlag_keepsResps (b : Nat) (s : State) (hs : KeepsResps s0 s) :
    KeepsResps s0 (mshFlag b s) := by
  unfold mshFlag
  repeat' first
    | with_reducible intro _
    | with_reducible assumption
    | with_reducible apply flag_keepsResps

theorem traceWrite_keepsResps (p : Nat) (k : Packet) (s : State) (hs : KeepsResps s0 s) :
    KeepsResps s0 (traceWrite p k s) := by
  unfold traceWrite
  repeat' first
    | with_reducible intro _
    | with_reducible assumption
    | with_reducible apply drawn_keepsResps
    | with_reducible apply bump_keepsResps
    | with_reducible apply mshFlag_keepsResps
    | simp only [↓keepsResps_mk_iff]
    | with_reducible apply keepsResps_ite
    | (extract_lets x; first | (with_reducible refine keepsResps_cut (s := x) ?_ ?_; (on_goal 2 => clear_value x); (on_goal 1 => unfold x)) | (subst x))
    | split

theorem probesSee_keepsResps (k : Packet) (s : State) (hs : KeepsResps s0 s) :
    KeepsResps s0 (probesSee k s) := by
  unfold probesSee
  repeat' first
    | with_reducible intro _
    | with_reducible assumption
    | with_reducible apply bump_keepsResps
    | with_reducible apply addTo_keepsResps
    | with_reducible apply traceWrite_keepsResps
    | with_reducible apply keepsResps_ite
    | with_reducible apply keepsResps_foldl
    | (extract_lets x; first | (with_reducible refine keepsResps_cut (s := x) ?_ ?_; (on_goal 2 => clear_value x); (on_goal 1 => unfold x)) | (subst x))
    | split

set_option Elab.async false in
theorem noteArrival_keepsResps (r : MeshReq) (s : State) (hs : KeepsResps s0 s) :
    KeepsResps s0 (noteArrival r s) := by
  unfold noteArrival
  repeat' first
    | with_reducible intro _
    | with_reducible assumption
    | with_reducible apply brkMatch_keepsResps
    | with_reducible apply probesSee_keepsResps
end

end Sys2Proof.Laws
end

