-- ==== Sys2Proof/Laws/CompleteMesh.lean ====
section
/-! SUPPORT. Panes, scratch banks, the mesh: facts that proofs about their commands cite. -/
namespace Sys2Proof.Laws.CompleteMesh
open Sys2Proof.Machine Common
theorem like_pane {u t : State} (h : Like u t) (n : Nat) : t.paneOf n = u.paneOf n := by unfold State.paneOf; rw [h.panes]
theorem one {c : Bool × Nat} (h : c.1 = false) : ∀ x ∈ [c], x.1 = false := by intro x hx; rw [List.mem_singleton] at hx; rw [hx]; exact h
theorem panFlag_rd {p b k : Nat} {s : State} (h : k ≠ PAN.EVFLAGS p) : (panFlag p b s).rd k = s.rd k :=
  (panFlag_fr (V := fun k => k = PAN.EVFLAGS p) (M := True) p b s (fr_refl s) rfl).1 k h
theorem scrFlag_rd {p b k : Nat} {s : State} (h : k ≠ SCR.EVFLAGS p) : (scrFlag p b s).rd k = s.rd k :=
  (scrFlag_fr (V := fun k => k = SCR.EVFLAGS p) (M := True) p b s (fr_refl s) rfl).1 k h
theorem panFlag_pane (p b n : Nat) (s : State) : (panFlag p b s).paneOf n = s.paneOf n := by unfold panFlag; rw [paneOf_flag]
theorem panFlag_mem (p b : Nat) (s : State) : (panFlag p b s).mem = s.mem := by unfold panFlag; rw [flag_mem]
theorem discard_facts (p : Nat) (s : State) : ((discardQueue p s).paneOf p).q = [] ∧
   (discardQueue p s).rd (PAN.DISCARD p) = if (s.paneOf p).q = [] then s.rd (PAN.DISCARD p) else min (s.rd (PAN.DISCARD p) + (s.paneOf p).q.length) (2 ^ 64 - 1) := by
  unfold discardQueue
  dsimp only
  by_cases h : (s.paneOf p).q = []
  · rw [if_pos (by rw [h]; rfl), if_pos h]; exact ⟨h, rfl⟩
  · rw [if_neg (by intro h'; exact h (List.length_eq_zero_iff.1 h')), if_neg h]
    refine ⟨?_, ?_⟩
    · rw [panFlag_pane, paneOf_modPane]
    · rw [panFlag_rd (by simp), rd_modPane, rd_addTo, if_pos rfl]
theorem rr3 (b n : Nat) : (repairResult b n).1 = 3 ↔ (repairResult b n).1 = 3 := Iff.rfl
theorem testEnd_facts (result repair a n bad spares : Nat) (s : State) (h : result ≠ repair) :
    (testEnd result repair a n bad spares s).rd result = (repairResult bad (spares - s.rd repair % 256)).1 ∧
    (∀ k, k ≠ result → k ≠ repair → (testEnd result repair a n bad spares s).rd k = s.rd k) ∧
    ((repairResult bad (spares - s.rd repair % 256)).1 ≠ 3 → (testEnd result repair a n bad spares s).mem = memClear s.mem a n) := by
  unfold testEnd
  dsimp only
  generalize repairResult bad (spares - s.rd repair % 256) = r
  generalize hu : ((s.wr result r.1).wr repair (r.2 * 256 + s.rd repair % 256)) = u
  have u1 : u.rd result = r.1 := by subst hu; rw [rd_wr_other _ h]; exact rd_wr_same _ _ _
  have u2 : ∀ k, k ≠ result → k ≠ repair → u.rd k = s.rd k := by intro k h1 h2; subst hu; rw [rd_wr_other _ h2, rd_wr_other _ h1]
  have u3 : u.mem = s.mem := by subst hu; rfl
  split
  · exact ⟨u1, u2, fun h => absurd ‹_› h⟩
  · exact ⟨u1, u2, fun _ => by rw [← u3]⟩
theorem bump_p {w k j : Nat} {s : State} (h : j ≠ k) : (s.bump w k).rd j = s.rd j := by rw [rd_bump, if_neg h]
theorem pf_bump {p b k j : Nat} {s : State} (h1 : j ≠ k) (h2 : j ≠ PAN.EVFLAGS p) : (panFlag p b (s.bump 64 k)).rd j = s.rd j := by
  rw [panFlag_rd h2, bump_p h1]
theorem pf_ite (p k : Nat) (c : Bool) (s1 : State) : (if c = true then panFlag p 1 (s1.bump 64 k) else s1).mem = s1.mem ∧ (if c = true then panFlag p 1 (s1.bump 64 k) else s1).paneOf p = s1.paneOf p := by
  split
  · exact ⟨by rw [panFlag_mem]; rfl, by rw [panFlag_pane]; rfl⟩
  · exact ⟨rfl, rfl⟩
theorem row_word (m : Tab Byte) (a w : Nat) : wordOfRow (memRead m (a + 8 * (w / 4)) 8) w = memRead m (a + 2 * w) 2 := by
  have e : a + 2 * w = a + 8 * (w / 4) + 2 * (w % 4) := by omega
  unfold wordOfRow
  rw [e]
  generalize a + 8 * (w / 4) = b
  have hw : w % 4 < 4 := Nat.mod_lt _ (by omega)
  have hb : ∀ x, (memByte m x).toNat < 256 := fun x => (memByte m x).isLt
  generalize w % 4 = k at hw
  have h0 := hb b; have h1 := hb (b + 1); have h2 := hb (b + 2); have h3 := hb (b + 3)
  have h4 := hb (b + 4); have h5 := hb (b + 5); have h6 := hb (b + 6); have h7 := hb (b + 7)
  obtain rfl | rfl | rfl | rfl : k = 0 ∨ k = 1 ∨ k = 2 ∨ k = 3 := by omega
  all_goals simp only [memRead, Nat.add_assoc, Nat.reduceAdd, Nat.reduceMul, Nat.reducePow, Nat.add_zero]
  all_goals omega
theorem first_none {l : List PortUse} {c word : Nat} (h : ∀ u ∈ l, u.clk < c) : firstWrite l c word = none := by
  unfold firstWrite
  have : (l.filter fun e => e.write && Nat.beq e.word word && Nat.ble c e.clk) = [] := by
    rw [List.filter_eq_nil_iff]
    intro u hu h'
    have := h u hu
    simp only [Bool.and_eq_true, Nat.ble_eq] at h'
    omega
  rw [this]; rfl
theorem seen_alone {l : List PortUse} {c word m : Nat} (h : ∀ u ∈ l, u.clk < c) : seenAt l c word m = m := by
  unfold seenAt; rw [first_none h]
theorem write_alone {l : List PortUse} {c word v : Nat} (h : ∀ u ∈ l, u.clk < c + 1) : writeUnder l c word v = (l, true) := by
  unfold writeUnder; rw [first_none h]
theorem place_alone {d : Nat} {l : List PortUse} {u : PortUse} (h : ∀ e ∈ l, e.clk < u.clk) : placeUse d l u = l ++ [u] := by
  have n : ∀ e ∈ l, (Nat.beq e.port u.port && Nat.blt u.rank (min e.rank 2) && Nat.ble u.clk e.clk) = false := by
    intro e he
    have := h e he
    have : Nat.ble u.clk e.clk = false := by rw [Bool.eq_false_iff, ne_eq, Nat.ble_eq]; omega
    rw [this, Bool.and_false]
  unfold placeUse
  dsimp only
  have e1 : (l.filter fun e => Nat.beq e.port u.port && Nat.blt u.rank (min e.rank 2) && Nat.ble u.clk e.clk) = [] :=
    List.filter_eq_nil_iff.2 fun e he => by rw [n e he]; decide
  have e2 : (l.filter fun e => !(Nat.beq e.port u.port && Nat.blt u.rank (min e.rank 2) && Nat.ble u.clk e.clk)) = l :=
    List.filter_eq_self.2 fun e he => by rw [n e he]; rfl
  rw [e1, e2]
  rfl
/-- What a pane reads and writes at edge e, where no mesh access has an edge of its ports from e on. -/
theorem paneRam_facts {p e : Nat} (bad : Bool) {s : State} (hu : ∀ u ∈ (s.paneOf p).uses, u.clk < e) : (paneRam p e bad s).mem = (if (regsBefore (portCell p 1) e s).f then memWrite s.mem (paneBase p + 2 * ((regsBefore (portCell p 1) e s).q.toNat % 4096)) 2 (regsBefore (portCell p 2) e s).q.toNat else s.mem) ∧
  ((regsBefore (portCell p 0) e s).f = true → ((paneRam p e bad s).paneOf p).taps.w0 = memRead s.mem (paneBase p + 2 * ((regsBefore (portCell p 0) e s).q.toNat % 4096)) 2) := by
  unfold paneRam
  have hl : ((s.paneOf p).uses.filter fun u => Nat.ble e u.clk) = [] := by
    rw [List.filter_eq_nil_iff]; intro u h h'; have := hu u h; rw [Nat.ble_eq] at h'; omega
  dsimp only
  rw [hl]
  generalize regsBefore (portCell p 0) e s = k0
  generalize regsBefore (portCell p 1) e s = k1
  generalize regsBefore (portCell p 2) e s = k2
  simp only [seen_alone (l := []) (fun _ h => nomatch h), row_word]
  generalize ht : (if k0.f = true then ({ w0 := memRead s.mem (paneBase p + 2 * (k0.q.toNat % 4096)) 2, c0 := false, w1 := 0, c1 := bad } : Taps) else _) = t'
  generalize hc : (if k1.f = true then writeUnder _ _ _ _ else _) = l2
  have h2 : l2.2 = k1.f := by
    subst hc
    cases k1.f
    · rfl
    · rw [if_pos rfl, write_alone]
      intro u hm
      have p0 : ∀ (u' : PortUse), placeUse fabClk [] u' = [u'] := fun u' => place_alone fun _ h => nomatch h
      by_cases h0 : k0.f = true
      rotate_left
      · rw [if_neg h0, p0, List.mem_singleton] at hm; subst hm; exact Nat.lt_succ_self _
      · rw [if_pos h0, p0] at hm
        have : placeUse fabClk [(⟨e, 0, false, k0.q.toNat % 4096 / 4, 0, 0⟩ : PortUse)] ⟨e, 1, true, k1.q.toNat % 4096 / 4, memRead s.mem (paneBase p + 8 * (k1.q.toNat % 4096 / 4)) 8, 0⟩ =
          [⟨e, 0, false, k0.q.toNat % 4096 / 4, 0, 0⟩, ⟨e, 1, true, k1.q.toNat % 4096 / 4, memRead s.mem (paneBase p + 8 * (k1.q.toNat % 4096 / 4)) 8, 0⟩] := rfl
        rw [this] at hm
        simp only [List.mem_cons, List.not_mem_nil, or_false] at hm
        rcases hm with rfl | rfl <;> exact Nat.lt_succ_self _
  have h := pf_ite p (PAN.PERR p) (k0.f && bad) ((setTaps p e t' s).modPane p fun x => { x with uses := l2.1 })
  generalize (if (k0.f && bad) = true then panFlag p 1 _ else _) = u at h
  have tp : (((setTaps p e t' s).modPane p fun x => { x with uses := l2.1 }).paneOf p).taps = t' := by unfold setTaps; rw [paneOf_modPane, paneOf_modPane]
  rw [h2]
  refine ⟨?_, fun hf => ?_⟩
  · split
    · show memWrite u.mem _ _ _ = _; rw [h.1]; rfl
    · exact h.1
  · have : ∀ z : State, (if k1.f = true then z.store (paneBase p + 2 * (k1.q.toNat % 4096)) 2 k2.q.toNat else z).paneOf p = z.paneOf p := by intro z; split <;> rfl
    rw [this, h.2, tp, ← ht, if_pos hf]
def NV (k : Nat) : Prop := 0xC00000 ≤ k
theorem note_nv (r : MeshReq) (s : State) : Fr NV False s (noteArrival r s) :=
  noteArrival_fr r s (fr_refl s) (fun u => by simp only [NV, DBG.BRK_HITS]; omega) (fun u => by simp only [NV, DBG.BRK_STATE]; omega) (by simp only [NV, DBG.EVFLAGS]; omega) (by simp only [NV, MSH.EVFLAGS]; omega)
    (fun u => by simp only [NV, MSH.PFLITS]; omega) (fun u => by simp only [NV, MSH.PPKTS]; omega) (by simp only [NV, MSH.TLOST]; omega)
/-- What a port looks at beside the registers. -/
def portView (s : State) := (s.now, s.mem, s.resps, s.reqs, s.steal, s.dmc, s.cells, s.cellCfg, s.banks, s.panes)
theorem view_fold {α β : Type} {g : State → β} {f : State → α → State} (hf : ∀ s x, g (f s x) = g s) : ∀ (l : List α) (s : State), g (l.foldl f s) = g s
  | [], _ => rfl
  | x :: l, s => (view_fold hf l _).trans (hf s x)
theorem view_flag (k b e : Nat) (s : State) : portView (s.flag k b e) = portView s := by unfold portView; simp
theorem view_halt (t th : Nat) (s : State) : portView (latchDebugHalt t th s) = portView s := by
  unfold latchDebugHalt
  dsimp only
  repeat' (first | rfl | split)
theorem view_link (u : Nat) (s : State) : portView (linkFired u s) = portView s := by
  unfold linkFired
  refine view_fold (fun s w => ?_) _ _
  split <;> rfl
theorem view_fire (u t th : Nat) (s : State) : portView (brkFire u t th s) = portView s := by
  unfold brkFire
  dsimp only
  split
  · split
    · exact (view_link _ _).trans (view_flag _ _ _ _)
    · rw [view_halt, view_link, view_flag]; rfl
  · exact (view_link _ _).trans (view_flag _ _ _ _)
  · exact (view_link _ _).trans (view_flag _ _ _ _)
theorem view_match (kind t v ctx cls th : Nat) (s : State) : portView (brkMatch kind t v ctx cls th s) = portView s := by
  unfold brkMatch
  split
  · rfl
  refine view_fold (fun s u => ?_) _ _
  split
  · unfold brkCount
    dsimp only
    split
    · rfl
    · split
      · rw [view_fire]; rfl
      · rfl
  · rfl
theorem view_probes (k : Packet) (s : State) : portView (probesSee k s) = portView s := by
  unfold probesSee
  refine view_fold (fun s p => ?_) _ _
  split
  · dsimp only
    split
    · unfold traceWrite mshFlag
      dsimp only
      repeat' split
      · rfl
      · rfl
      · rw [view_flag]; rfl
    · rfl
  · rfl
theorem view_flits (p : List Nat) (fl : List Flit) (s : State) : portView (flitsNoted p fl s) = portView s := by
  unfold flitsNoted
  refine view_fold (fun s f => ?_) _ _
  unfold flitNoted mshFlag
  cases f <;> dsimp only <;> split <;> first | rfl | (rw [view_flag]; rfl)
/-- The state as request r, which met the errors fl on its way, stands at its port. -/
def portState (r : MeshReq) (fl : List Flit) (s : State) : State :=
  flitsNoted (path r.src (destNode (destOf r.addr s))) fl (noteArrival r { s with reqs := s.reqs.erase r })
theorem arrive_eq {op : MeshOp} {r : MeshReq} {fl : List Flit} {ecc : List Ecc} {s : State} (h : Arrives op r s) (hp : Unpoisoned fl r s) :
    arriveCommand op r fl ecc s = atPort ecc r (portState r fl s) := by
  unfold arriveCommand
  rw [if_neg (by rw [h.1]; simp), if_neg (by have := h.2.1; omega), if_pos ⟨by have := h.2.1; omega, h.2.2.1⟩]
  unfold arrivePort
  dsimp only
  rw [if_neg (by rw [hp]; decide)]
  rfl
structure AtP (r : MeshReq) (s u : State) : Prop where
  rd : ∀ k, k < 0xC00000 → u.rd k = s.rd k
  mem : u.mem = s.mem
  resps : u.resps = s.resps
  reqs : u.reqs = s.reqs.erase r
  dmc : u.dmc = s.dmc
  now : u.now = s.now
  steal : u.steal = s.steal
  cells : u.cells = s.cells ∧ u.cellCfg = s.cellCfg
  banks : u.banks = s.banks
  panes : u.panes = s.panes
theorem atP (r : MeshReq) (fl : List Flit) (s : State) : AtP r s (portState r fl s) := by
  have f := note_nv r { s with reqs := s.reqs.erase r }
  have g : Fr NV False s (portState r fl s) := flitsNoted_fr _ fl _ f (by simp only [NV, MSH.EVFLAGS]; omega) (fun u => by simp only [NV, MSH.LINK_CE]; omega) (fun u => by simp only [NV, MSH.LINK_UE]; omega)
  have v : portView (portState r fl s) = portView { s with reqs := s.reqs.erase r } := by
    unfold portState noteArrival
    rw [view_flits, view_match, view_probes]
  unfold portView at v
  simp only [Prod.mk.injEq] at v
  obtain ⟨h1, h2, h3, h4, h5, h6, h7, h8, h9, h10⟩ := v
  exact ⟨fun k hk => g.1 k (by simp only [NV]; omega), h2, h3, h4, h6, h1, h5, ⟨h7, h8⟩, h9, h10⟩
theorem region_eq {a : Nat} {s u : State} (h : ∀ k, k < 0xC00000 → u.rd k = s.rd k) : regionOf a u = regionOf a s := by
  unfold regionOf; rw [h _ (by simp only [DMC.MAP_STATE]; omega), h _ (by simp only [DMC.INSTALLED]; omega)]
theorem ways_eq {s u : State} (h : ∀ k, k < 0xC00000 → u.rd k = s.rd k) : ways u = ways s := by
  unfold ways
  refine List.filter_congr fun n hn => ?_
  rw [List.mem_range] at hn
  rw [h _ (by simp only [DMC.STATE]; omega)]
theorem dest_eq {a : Nat} {s u : State} (h : ∀ k, k < 0xC00000 → u.rd k = s.rd k) : destOf a u = destOf a s := by
  unfold destOf dmcFor; rw [region_eq h, ways_eq h, h _ (by simp only [DMC.WAYS]; omega)]
theorem dmcFor_lt (a : Nat) (s : State) : dmcFor a s < 4 := by
  unfold dmcFor
  rw [List.getD_eq_getElem?_getD]
  cases h : (ways s)[a / 256 % max 1 (s.rd DMC.WAYS)]? with
  | none => simp
  | some x =>
    have := List.mem_of_getElem? h
    unfold ways at this
    rw [List.mem_filter, List.mem_range] at this
    exact this.1
theorem dest_lt {a : Nat} {s : State} (h : regionOf a s < 5) : (destOf a s).1 = regionOf a s ∧ (destOf a s).2 < 1536 ∧
    ((destOf a s).1 = 0 → (destOf a s).2 < 4) ∧ ((destOf a s).1 = 1 → (destOf a s).2 < 64) ∧ ((destOf a s).1 = 3 → (destOf a s).2 < 32) ∧ ((destOf a s).1 = 4 → (destOf a s).2 < 32) := by
  have hd := dmcFor_lt a s
  have h2 : regionOf a s = 2 → a < 0x10100C00000 := by
    intro h; unfold regionOf at h
    by_contra hc
    repeat' split at h
    all_goals omega
  unfold destOf
  obtain e | e | e | e | e : regionOf a s = 0 ∨ regionOf a s = 1 ∨ regionOf a s = 2 ∨ regionOf a s = 3 ∨ regionOf a s = 4 := by omega
  all_goals rw [e]
  · show 0 = 0 ∧ dmcFor a s < 1536 ∧ (0 = 0 → dmcFor a s < 4) ∧ (0 = 1 → dmcFor a s < 64) ∧ (0 = 3 → dmcFor a s < 32) ∧ (0 = 4 → dmcFor a s < 32)
    omega
  · show 1 = 1 ∧ a / 0x10000 % 64 < 1536 ∧ (1 = 0 → a / 0x10000 % 64 < 4) ∧ (1 = 1 → a / 0x10000 % 64 < 64) ∧ (1 = 3 → a / 0x10000 % 64 < 32) ∧ (1 = 4 → a / 0x10000 % 64 < 32)
    omega
  · have := h2 e
    show 2 = 2 ∧ (a - 0x10100000000) / 0x2000 < 1536 ∧ (2 = 0 → (a - 0x10100000000) / 0x2000 < 4) ∧ (2 = 1 → (a - 0x10100000000) / 0x2000 < 64) ∧ (2 = 3 → (a - 0x10100000000) / 0x2000 < 32) ∧ (2 = 4 → (a - 0x10100000000) / 0x2000 < 32)
    omega
  · show 3 = 3 ∧ a / 0x20000 % 32 < 1536 ∧ (3 = 0 → a / 0x20000 % 32 < 4) ∧ (3 = 1 → a / 0x20000 % 32 < 64) ∧ (3 = 3 → a / 0x20000 % 32 < 32) ∧ (3 = 4 → a / 0x20000 % 32 < 32)
    omega
  · show 4 = 4 ∧ a / 0x4000 % 32 < 1536 ∧ (4 = 0 → a / 0x4000 % 32 < 4) ∧ (4 = 1 → a / 0x4000 % 32 < 64) ∧ (4 = 3 → a / 0x4000 % 32 < 32) ∧ (4 = 4 → a / 0x4000 % 32 < 32)
    omega
theorem dest_big {a : Nat} {s : State} (h : ¬ regionOf a s < 5) : gateOf (destOf a s) = none ∧ domainOf (destOf a s) = none := by
  have : regionOf a s = 5 ∨ regionOf a s = 6 := by
    unfold regionOf at h ⊢; repeat' split at h
    all_goals repeat' split
    all_goals omega
  unfold destOf
  rcases this with e | e <;> rw [e] <;> exact ⟨rfl, rfl⟩
theorem gate_lt {a : Nat} {s : State} : (gateOf (destOf a s)).getD 0 < 256 ∧ ∀ p, domainOf (destOf a s) = some p → p < 96 := by
  by_cases h : regionOf a s < 5
  · have d := dest_lt h
    have h1 := d.1
    generalize destOf a s = x at d h1
    obtain ⟨k, m⟩ := x
    unfold gateOf domainOf
    dsimp only at d h1 ⊢
    obtain e | e | e | e | e : k = 0 ∨ k = 1 ∨ k = 2 ∨ k = 3 ∨ k = 4 := by omega
    all_goals subst e; refine ⟨?_, fun p hp => ?_⟩
    all_goals first | (simp only [Option.some.injEq] at hp; omega) | (exact absurd hp (by simp)) | (show _ + m < _; omega) | (show m / 48 < _; omega)
  · have := dest_big h; rw [this.1, this.2]; exact ⟨by decide, fun p hp => absurd hp (by simp)⟩
theorem gate_some {d : Nat × Nat} {x : Nat} (h : gateOf d = some x) (hd : d.1 < 5) (hb : d.2 < 1536) : x < 4096 := by
  obtain ⟨k, m⟩ := d
  unfold gateOf at h
  dsimp only at h hd hb
  obtain rfl | rfl | rfl | rfl | rfl : k = 0 ∨ k = 1 ∨ k = 2 ∨ k = 3 ∨ k = 4 := by omega
  all_goals simp at h
  all_goals omega
theorem domain_some {d : Nat × Nat} {x : Nat} (h : domainOf d = some x) (hd : d.1 < 5) (hb : d.2 < 1536) : x < 4096 := by
  obtain ⟨k, m⟩ := d
  unfold domainOf at h
  dsimp only at h hd hb
  obtain rfl | rfl | rfl | rfl | rfl : k = 0 ∨ k = 1 ∨ k = 2 ∨ k = 3 ∨ k = 4 := by omega
  all_goals simp at h
  all_goals omega
theorem port_eq {op : MeshOp} {r : MeshReq} {ecc : List Ecc} {s u : State} (h : Arrives op r s) (a : AtP r s u) (hw : wellPlaced (destOf r.addr s) r = true) : atPort ecc r u = serve ecc r u := by
  have hd := dest_lt h.2.1
  have h5 : (destOf r.addr s).1 < 5 := by rw [hd.1]; exact h.2.1
  have de : destOf r.addr u = destOf r.addr s := dest_eq a.rd
  have g : ∀ x, gateOf (destOf r.addr s) = some x → u.rd (CRH.GATE_STATE x) = 1 := by
    intro x hx
    have := gate_some hx h5 hd.2.1
    rw [a.rd _ (by simp only [CRH.GATE_STATE]; omega)]; exact h.2.2.2.1 x hx
  have p : ∀ x, domainOf (destOf r.addr s) = some x → u.rd (CRH.PWR_STATE x) = 3 := by
    intro x hx
    have := domain_some hx h5 hd.2.1
    rw [a.rd _ (by simp only [CRH.PWR_STATE]; omega)]; exact h.2.2.2.2 x hx
  unfold atPort
  dsimp only
  rw [de, if_neg (by rw [hw]; decide)]
  generalize gateOf (destOf r.addr s) = G at g
  generalize domainOf (destOf r.addr s) = D at p
  have hw : ∀ x, G = some x → gateWaits x u = false := by
    intro x hx; unfold gateWaits; rw [g x hx]; rfl
  cases G with
  | none =>
    dsimp only
    rw [if_neg (by omega), if_neg (by simp)]
    cases D with
    | none => rfl
    | some x => dsimp only; rw [if_neg (by rw [p x rfl]; omega), if_pos (p x rfl)]
  | some y =>
    dsimp only
    rw [if_neg (by rw [g y rfl]; omega), if_neg (by simp [hw y rfl])]
    cases D with
    | none => rfl
    | some x => dsimp only; rw [if_neg (by rw [p x rfl]; omega), if_pos (p x rfl)]
theorem clean_bad {es : List Ecc} {r : MeshReq} {ecc : List Ecc} (h : ∀ e ∈ ecc, e = Ecc.clean) (hn : es.contains Ecc.clean = false) : badWords es r ecc = 0 := by
  unfold badWords
  rw [List.length_eq_zero_iff, List.filter_eq_nil_iff]
  intro a ha
  rw [h a (List.mem_of_mem_take ha), hn]; simp
theorem perform_read {r : MeshReq} {u s : State} (h : r.op = .read) (a : AtP r s u) : (performMem r u).resps = s.resps ++ [⟨r, 0, memRead s.mem r.addr r.len⟩] ∧ (performMem r u).reqs = s.reqs.erase r ∧ (performMem r u).mem = s.mem := by
  unfold performMem; rw [if_neg (by rw [h]; simp)]
  unfold meshAnswer
  dsimp only
  rw [a.resps, a.mem, a.reqs]; exact ⟨rfl, rfl, rfl⟩
theorem perform_write {r : MeshReq} {u s : State} (h : r.op = .write) (a : AtP r s u) : (performMem r u).resps = s.resps ++ [⟨r, 1, 0⟩] ∧ (performMem r u).reqs = s.reqs.erase r ∧ (performMem r u).mem = memWrite s.mem r.addr r.len r.data := by
  unfold performMem; rw [if_pos h]
  unfold meshAnswer
  dsimp only
  refine ⟨?_, a.reqs, ?_⟩
  · show u.resps ++ _ = _; rw [a.resps]
  · show memWrite u.mem _ _ _ = _; rw [a.mem]
theorem memWrite_add (n : Nat) : ∀ (k : Nat) (m : Tab Byte) (a v : Nat), memWrite m a (k + n) v = memWrite (memWrite m a k v) (a + k) n (v / 256 ^ k)
  | 0, m, a, v => by simp [memWrite]
  | k + 1, m, a, v => by
    rw [show k + 1 + n = (k + n) + 1 by omega]
    show memWrite _ _ (k + n) _ = memWrite (memWrite _ _ k _) _ n _
    rw [memWrite_add n k, Nat.div_div_eq_div_mul, show a + 1 + k = a + (k + 1) by omega, show 256 * 256 ^ k = 256 ^ (k + 1) by ring]
theorem memWrite_mod : ∀ (n : Nat) (m : Tab Byte) (a v : Nat), memWrite m a n (v % 256 ^ n) = memWrite m a n v
  | 0, _, _, _ => rfl
  | n + 1, m, a, v => by
    show memWrite (Tab.set byteDefault m a (BitVec.ofNat 8 (v % 256 ^ (n + 1)))) (a + 1) n (v % 256 ^ (n + 1) / 256) = memWrite (Tab.set byteDefault m a (BitVec.ofNat 8 v)) (a + 1) n (v / 256)
    have h1 : BitVec.ofNat 8 (v % 256 ^ (n + 1)) = BitVec.ofNat 8 v := by
      apply BitVec.eq_of_toNat_eq
      simp only [BitVec.toNat_ofNat]
      exact Nat.mod_mod_of_dvd v ⟨256 ^ n, by ring⟩
    have h2 : v % 256 ^ (n + 1) / 256 = v / 256 % 256 ^ n := by
      rw [show 256 ^ (n + 1) = 256 * 256 ^ n by ring, Nat.mod_mul_right_div_self]
    rw [h1, h2, memWrite_mod n]
theorem memRead_add (n : Nat) : ∀ (k : Nat) (m : Tab Byte) (a : Nat), memRead m a (k + n) = memRead m a k + 256 ^ k * memRead m (a + k) n
  | 0, m, a => by simp [memRead]
  | k + 1, m, a => by
    rw [show k + 1 + n = (k + n) + 1 by omega]
    show _ + 256 * memRead m (a + 1) (k + n) = _ + 256 * memRead m (a + 1) k + _
    rw [memRead_add n k, show a + 1 + k = a + (k + 1) by omega]
    ring
theorem pow_bytes (k : Nat) : (2 : Nat) ^ (64 * k) = 256 ^ (8 * k) := by
  rw [show (256 : Nat) = 2 ^ 8 by norm_num, ← pow_mul, show 8 * (8 * k) = 64 * k by ring]
theorem idle_now {b p c : Nat} {s : State} (h : ∀ u ∈ (s.bankOf b).last, u.clk < c) : idleClock b p c s = c := by
  unfold idleClock idleIn
  rw [List.range_succ_eq_map, List.map_cons, List.find?_cons]
  have : (!((s.bankOf b).last.any fun e => Nat.beq e.port p && Nat.beq e.clk (c + 8192 * 0))) = true := by
    rw [Bool.not_eq_true', List.any_eq_false]
    intro e he
    have := h e he
    simp only [Bool.and_eq_true, Nat.beq_eq, not_and]
    omega
  rw [this]; simp
/-- The uses that a bank remembers after an access at clock c. -/
def usesAfter (l : List PortUse) (u : PortUse) : List PortUse := (l.filter fun e => Nat.blt u.clk (e.clk + 64 * 8192)) ++ [u]
theorem take_alone {b p c rank word v : Nat} {wr : Bool} {s : State} (h : ∀ u ∈ (s.bankOf b).last, u.clk < c) :
    portTake b p c rank wr word v s = ({ write := wr, seen := memRead s.mem (wordAddr b word) 8 },
      s.modBank b fun y => { y with last := usesAfter (s.bankOf b).last ⟨c, p, wr, word, memRead s.mem (wordAddr b word) 8, rank⟩ }) := by
  unfold portTake
  have hk : ∀ u ∈ ((s.bankOf b).last.filter fun e => Nat.blt c (e.clk + 64 * 8192)), u.clk < c := fun u hu => h u (List.mem_of_mem_filter hu)
  unfold usesAfter
  dsimp only
  generalize ((s.bankOf b).last.filter fun e => Nat.blt c (e.clk + 64 * 8192)) = keep at hk
  have : (keep.find? fun e => wr && Nat.beq e.port (1 - p) && Nat.beq e.clk c && e.write && Nat.beq e.word word) = none := by
    rw [List.find?_eq_none]
    intro e he
    have := hk e he
    simp only [Bool.and_eq_true, Nat.beq_eq, not_and]
    omega
  rw [this]
  dsimp only
  rw [place_alone (u := ⟨c, p, wr, word, _, rank⟩) hk, seen_alone hk]
  cases wr
  · rfl
  · rw [if_pos rfl, write_alone]
    intro u hu
    rcases List.mem_append.1 hu with hu | hu
    · have := hk u hu; omega
    · rw [List.mem_singleton] at hu; subst hu; exact Nat.lt_succ_self _
/-- What the first k words of a mesh access leave, where nobody else uses the bank. -/
structure Words (b : Nat) (r : MeshReq) (s : State) (k : Nat) (x : Nat × State) : Prop where
  val : x.1 = if r.op = .write then 0 else memRead s.mem r.addr (8 * k)
  mem : x.2.mem = if r.op = .write then memWrite s.mem r.addr (8 * k) r.data else s.mem
  rest : x.2.now = s.now ∧ x.2.resps = s.resps ∧ x.2.reqs = s.reqs
  last : ∀ u ∈ (x.2.bankOf b).last, u.clk < engEdge s.now + 8192 * k
theorem words_of {b : Nat} {r : MeshReq} {s : State} (ha : ∀ i, wordAddr b (r.addr % 0x10000 / 8 + i) = r.addr + 8 * i) (h : ∀ u ∈ (s.bankOf b).last, u.clk < engEdge s.now) :
    ∀ k, Words b r s k ((List.range k).foldl (bankWord b r) (0, s))
  | 0 => ⟨by simp [memRead], by simp [memWrite], ⟨rfl, rfl, rfl⟩, by simpa using h⟩
  | k + 1 => by
    have ih := words_of ha h k
    rw [List.range_succ, List.foldl_append, List.foldl_cons, List.foldl_nil]
    generalize (List.range k).foldl (bankWord b r) (0, s) = x at ih
    have hl : ∀ u ∈ (x.2.bankOf b).last, u.clk < engEdge x.2.now + 8192 * k := by rw [ih.rest.1]; exact ih.last
    let use : PortUse := ⟨engEdge x.2.now + 8192 * k, meshPort b, decide (r.op = .write), r.addr % 0x10000 / 8 + k, memRead x.2.mem (r.addr + 8 * k) 8, portRank r⟩
    let y := x.2.modBank b fun y => { y with last := usesAfter (x.2.bankOf b).last use }
    have step : bankWord b r x k = (if r.op = .write then (x.1, y.store (r.addr + 8 * k) 8 (r.data / 2 ^ (64 * k) % 2 ^ 64))
      else (x.1 + memRead x.2.mem (r.addr + 8 * k) 8 * 2 ^ (64 * k), y)) := by
      unfold bankWord
      dsimp only
      rw [idle_now hl, take_alone hl, ha]
      dsimp only
      by_cases hw : r.op = .write
      · simp only [hw, decide_true, if_true]; rw [show y = x.2.modBank b fun z => { z with last := usesAfter (x.2.bankOf b).last ⟨engEdge x.2.now + 8192 * k, meshPort b, true, r.addr % 0x10000 / 8 + k, memRead x.2.mem (r.addr + 8 * k) 8, portRank r⟩ } by simp only [y, use, hw, decide_true]]; rfl
      · rw [if_neg hw, if_neg hw]; rfl
    have lst : ∀ (z : State), z.banks = y.banks → ∀ u ∈ (z.bankOf b).last, u.clk < engEdge s.now + 8192 * (k + 1) := by
      intro z hz u hu
      have e : z.bankOf b = y.bankOf b := congrArg (fun t => Tab.get (fun _ => ({} : BankS)) t b) hz
      rw [e, bankOf_modBank] at hu
      rcases List.mem_append.1 hu with hu | hu
      · have := ih.last u (List.mem_of_mem_filter hu); omega
      · rw [List.mem_singleton] at hu; subst hu; show engEdge x.2.now + 8192 * k < _; rw [ih.rest.1]; omega
    rw [step]
    by_cases hw : r.op = .write
    · rw [if_pos hw]
      refine ⟨?_, ?_, ih.rest, lst _ rfl⟩
      · have := ih.val; rw [if_pos hw] at this ⊢; exact this
      · have := ih.mem; rw [if_pos hw] at this ⊢
        show memWrite x.2.mem _ _ _ = _
        rw [this, show 8 * (k + 1) = 8 * k + 8 by ring, memWrite_add 8 (8 * k), pow_bytes k,
          show (2 : Nat) ^ 64 = 256 ^ 8 by norm_num, memWrite_mod]
    · rw [if_neg hw]
      refine ⟨?_, ?_, ih.rest, lst _ rfl⟩
      · have h1 := ih.val; have h2 := ih.mem; rw [if_neg hw] at h1 h2 ⊢
        rw [h1, h2, show 8 * (k + 1) = 8 * k + 8 by ring, memRead_add 8 (8 * k), pow_bytes k]
        ring
      · have := ih.mem; rw [if_neg hw] at this ⊢; exact this
/-- What a request performed at once leaves. -/
def Performed (r : MeshReq) (s t : State) : Prop :=
  (r.op = .read → t.resps = s.resps ++ [⟨r, 0, memRead s.mem r.addr r.len⟩] ∧ t.reqs = s.reqs.erase r ∧ t.mem = s.mem) ∧
  (r.op = .write → t.resps = s.resps ++ [⟨r, 1, 0⟩] ∧ t.reqs = s.reqs.erase r ∧ t.mem = memWrite s.mem r.addr r.len r.data)
theorem performed_mem {r : MeshReq} {u s : State} (a : AtP r s u) : Performed r s (performMem r u) := ⟨fun h => perform_read h a, fun h => perform_write h a⟩
theorem fits_facts {r : MeshReq} {st : Nat} (h : fits r st = true) : r.op ≠ .orw ∧ r.len % 8 = 0 ∧ r.addr % 8 = 0 := by
  unfold fits at h
  simp only [Bool.and_eq_true, decide_eq_true_eq, Nat.beq_eq, Nat.ble_eq] at h
  obtain ⟨⟨⟨⟨⟨h1, h2⟩, h3⟩, h4⟩, h5⟩, h6⟩ := h
  refine ⟨h1, h4, ?_⟩
  have : ∀ al, 8 ∣ al → r.addr % al = 0 → r.addr % 8 = 0 := by
    intro al hd hz
    obtain ⟨c, rfl⟩ := hd
    have := Nat.mod_mod_of_dvd r.addr (c := 8) ⟨c, rfl⟩
    rw [hz] at this; omega
  repeat' split at h5
  all_goals exact this _ (by decide) h5
theorem bank_performed {r : MeshReq} {b : Nat} {u s : State} (hl : r.len % 8 = 0) (ha : ∀ i, wordAddr b (r.addr % 0x10000 / 8 + i) = r.addr + 8 * i)
    (h : ∀ w ∈ (u.bankOf b).last, w.clk < engEdge u.now) (a : AtP r s u) : Performed r s (bankPerform b r u) := by
  have w := words_of (r := r) ha h (r.len / 8)
  have e8 : 8 * (r.len / 8) = r.len := by omega
  unfold bankPerform
  dsimp only
  generalize (List.range (r.len / 8)).foldl (bankWord b r) (0, u) = x at w
  have h1 := w.val; have h2 := w.mem
  rw [e8] at h1 h2
  refine ⟨fun hr => ?_, fun hw => ?_⟩
  · rw [if_neg (by rw [hr]; simp)] at h1 h2 ⊢
    unfold meshAnswer
    dsimp only
    rw [h1, h2, w.rest.2.1, w.rest.2.2, a.resps, a.reqs, a.mem]; exact ⟨rfl, rfl, rfl⟩
  · rw [if_pos hw] at h1 h2 ⊢
    unfold meshAnswer
    dsimp only
    rw [h2, w.rest.2.1, w.rest.2.2, a.resps, a.reqs, a.mem]; exact ⟨rfl, rfl, rfl⟩
/-- What the first k rows of a mesh access to a pane leave. -/
structure Rows (r : MeshReq) (s : State) (k : Nat) (x : Nat × State) : Prop where
  val : x.1 = if r.op = .write then 0 else memRead s.mem r.addr (8 * k)
  mem : x.2.mem = if r.op = .write then memWrite s.mem r.addr (8 * k) r.data else s.mem
  rest : x.2.resps = s.resps ∧ x.2.reqs = s.reqs
theorem rows_of (p : Nat) (r : MeshReq) (s : State) : ∀ k, Rows r s k ((List.range k).foldl (paneRow p r) (0, s))
  | 0 => ⟨by simp [memRead], by simp [memWrite], ⟨rfl, rfl⟩⟩
  | k + 1 => by
    have ih := rows_of p r s k
    rw [List.range_succ, List.foldl_append, List.foldl_cons, List.foldl_nil]
    generalize (List.range k).foldl (paneRow p r) (0, s) = x at ih
    unfold paneRow
    dsimp only
    by_cases hw : r.op = .write
    · rw [if_pos (by simpa using hw)]
      refine ⟨?_, ?_, ih.rest⟩
      · have := ih.val; rw [if_pos hw] at this ⊢; exact this
      · have := ih.mem; rw [if_pos hw] at this ⊢
        show memWrite x.2.mem _ _ _ = _
        rw [this, show 8 * (k + 1) = 8 * k + 8 by ring, memWrite_add 8 (8 * k), pow_bytes k,
          show (2 : Nat) ^ 64 = 256 ^ 8 by norm_num, memWrite_mod]
    · rw [if_neg (by simpa using hw)]
      refine ⟨?_, ?_, ih.rest⟩
      · have h1 := ih.val; have h2 := ih.mem; rw [if_neg hw] at h1 h2 ⊢
        rw [h1, h2, show 8 * (k + 1) = 8 * k + 8 by ring, memRead_add 8 (8 * k), pow_bytes k]
        ring
      · have := ih.mem; rw [if_neg hw] at this ⊢; exact this
theorem pane_performed {p : Nat} {r : MeshReq} {u s : State} (hl : r.len % 8 = 0) (a : AtP r s u) :
    Performed r s (let x := (List.range (r.len / 8)).foldl (paneRow p r) (0, u)
      if r.op = .write then meshAnswer r 1 0 x.2 else meshAnswer r 0 x.1 x.2) := by
  have w := rows_of p r u (r.len / 8)
  have e8 : 8 * (r.len / 8) = r.len := by omega
  dsimp only
  generalize (List.range (r.len / 8)).foldl (paneRow p r) (0, u) = x at w
  have h1 := w.val; have h2 := w.mem
  rw [e8] at h1 h2
  refine ⟨fun hr => ?_, fun hw => ?_⟩
  · rw [if_neg (by rw [hr]; simp)] at h1 h2 ⊢
    unfold meshAnswer
    dsimp only
    rw [h1, h2, w.rest.1, w.rest.2, a.resps, a.reqs, a.mem]; exact ⟨rfl, rfl, rfl⟩
  · rw [if_pos hw] at h1 h2 ⊢
    unfold meshAnswer
    dsimp only
    rw [h2, w.rest.1, w.rest.2, a.resps, a.reqs, a.mem]; exact ⟨rfl, rfl, rfl⟩
theorem regs_same {k e : Nat} {s u : State} (h : u.cells = s.cells ∧ u.cellCfg = s.cellCfg) : regsBefore k e u = regsBefore k e s := by
  unfold regsBefore heldRegs cfgOf; rw [h.1, h.2]
theorem wait_same {p : Nat} {op : MeshOp} {w : PortReq} {s u : State} (h : ∀ k, k < 0xC00000 → u.rd k = s.rd k) : waitsFor p op w u = waitsFor p op w s := by
  unfold waitsFor; rw [dest_eq h]
/-- A request to a unit that serves it keeps the limits of its port, and is performed. -/
theorem serve_perform {r : MeshReq} {ecc : List Ecc} {u s : State} (hc : ∀ e ∈ ecc, e = Ecc.clean) (hr : regionOf r.addr s < 5) (h : UnitServes r s) (a : AtP r s u) :
    wellPlaced (destOf r.addr s) r = true ∧ Performed r s (serve ecc r u) := by
  have hd := dest_lt hr
  have de : destOf r.addr u = destOf r.addr s := dest_eq a.rd
  unfold serve
  dsimp only
  rw [de]
  unfold UnitServes at h
  have hx : (destOf r.addr s).1 = 1 → ∀ i, r.addr % 8 = 0 → wordAddr (destOf r.addr s).2 (r.addr % 0x10000 / 8 + i) = r.addr + 8 * i := by
    intro h1 i h8
    have e1 : regionOf r.addr s = 1 := by rw [← hd.1]; exact h1
    have e2 : (destOf r.addr s).2 = r.addr / 0x10000 % 64 := by unfold destOf; rw [e1]; rfl
    have e3 : 0x10000000000 ≤ r.addr ∧ r.addr < 0x10000400000 := by
      unfold regionOf at e1
      repeat' split at e1
      all_goals omega
    rw [e2]
    unfold wordAddr bankBase
    omega
  generalize destOf r.addr s = d at h hd hx
  obtain ⟨k, m⟩ := d
  dsimp only at hd hx ⊢
  split at h
  · rename_i b e
    simp only [Prod.mk.injEq] at e
    obtain ⟨rfl, rfl⟩ := e
    obtain ⟨g1, g2, g3, g4⟩ := h
    have ff := fits_facts g2
    refine ⟨g2, ?_⟩
    show Performed r s (serveBank m ecc r u)
    have eb : u.bankOf m = s.bankOf m := by unfold State.bankOf; rw [a.banks]
    have g4' : ∀ w ∈ (u.bankOf m).last, w.clk < engEdge u.now := by rw [eb, a.now]; exact g4
    have hp : Performed r s (bankPerform m r u) := bank_performed ff.2.1 (fun i => hx rfl i ff.2.2) g4' a
    unfold serveBank
    rw [a.rd _ (by have := hd.2.2.2.1 rfl; simp only [SCR.STATE]; omega), if_neg g1, idle_now g4', a.rd _ (by simp only [SCR.STEAL_LIMIT]; omega), if_neg (by omega)]
    split
    · exact hp
    · dsimp only
      rw [clean_bad hc (by decide), clean_bad hc (by decide)]
      exact hp
  · rename_i b e
    simp only [Prod.mk.injEq] at e
    obtain ⟨rfl, rfl⟩ := e
    obtain ⟨g1, g2, g3, g4, g5, g6⟩ := h
    refine ⟨g4, ?_⟩
    show Performed r s (servePane m ecc r u)
    have l := hd.2.1
    have ep : paneEdge m u = paneEdge m s := by unfold paneEdge State.paneOf; rw [a.now, a.panes]
    have eb : paneBusy m r.op (paneEdge m u) u = false := by
      rw [ep, ← g5]; unfold paneBusy; rw [a.rd _ (by simp only [PAN.STATE]; omega), regs_same a.cells]
    have es : (u.steal.any fun w => waitsFor m r.op w u) = false := by
      rw [List.any_eq_false, a.steal]
      intro w hw
      rw [wait_same a.rd, g6 w hw]; decide
    unfold servePane
    rw [a.rd _ (by simp only [PAN.STATE]; omega), a.rd _ (by simp only [PAN.MODE]; omega), a.rd _ (by simp only [CFG.FACET_STATE]; omega)]
    rw [if_neg (by rintro (h'|h'|h'); exacts [g1 h', g2 h', g3 h']), eb, es, if_neg (by decide)]
    unfold panePerform
    dsimp only
    rw [clean_bad hc (by decide)]
    simp only [ite_self, if_true]
    exact pane_performed (fits_facts g4).2.1 a
  · rename_i b e
    simp only [Prod.mk.injEq] at e
    obtain ⟨rfl, rfl⟩ := e
    refine ⟨h.1, ?_⟩
    have vs : veStopped m u = veStopped m s := by
      unfold veStopped veState; rw [a.rd _ (by have := hd.2.2.2.2.1 rfl; simp only [VEN.STATE]; omega)]
    show Performed r s (if r.op = .write ∧ veStopped m u = false then meshAnswer r 2 0 u else performMem r u)
    rw [if_neg]
    · exact performed_mem a
    rw [vs]
    rintro ⟨h1, h2⟩
    rw [h.2 h1] at h2; exact absurd h2 (by decide)
  · rename_i b e
    simp only [Prod.mk.injEq] at e
    obtain ⟨rfl, rfl⟩ := e
    refine ⟨h.1, ?_⟩
    have vs : dspStopped m u = dspStopped m s := by
      unfold dspStopped; rw [a.rd _ (by have := hd.2.2.2.2.2 rfl; simp only [DSP.STATE]; omega)]
    show Performed r s (if r.op = .write ∧ dspStopped m u = false then meshAnswer r 2 0 u else performMem r u)
    rw [if_neg]
    · exact performed_mem a
    rw [vs]
    rintro ⟨h1, h2⟩
    rw [h.2 h1] at h2; exact absurd h2 (by decide)
  · exact absurd h not_false
theorem serve_dram {op : MeshOp} {r : MeshReq} {fl : List Flit} {ecc : List Ecc} {s : State} (h : Arrives op r s) (hp : Unpoisoned fl r s) (h0 : (destOf r.addr s).1 = 0) :
   ((arriveCommand op r fl ecc s).dmcOf (destOf r.addr s).2).ingress = (s.dmcOf (destOf r.addr s).2).ingress ++ [r] := by
  rw [arrive_eq h hp]
  have a := atP r fl s
  rw [port_eq h a (by unfold wellPlaced; rw [h0]; rfl)]
  have de : destOf r.addr (portState r fl s) = destOf r.addr s := dest_eq a.rd
  generalize portState r fl s = w at a de
  unfold serve
  dsimp only
  rw [de, h0]
  show ((w.modDmc (destOf r.addr s).2 fun x => { x with ingress := x.ingress ++ [r] }).dmcOf _).ingress = _
  rw [dmcOf_modDmc]
  unfold State.dmcOf; rw [a.dmc]
theorem units_rd {d a b k : Nat} {s : State} (h : k < 0x510000) : (domainUnits d a b s).rd k = s.rd k :=
  (domainUnits_fr (V := fun k => 0x510000 ≤ k) (M := True) d a b s (fr_refl s) (fun u => by simp only [PAN.STATE]; omega) (by simp only [SCR.STATE]; omega)).1 k (by omega)
theorem reset_rd (p : Nat) (v : State) (k : Nat) : (resetTaps p v).rd k = v.rd k := rfl
theorem units_pane (d a : Nat) (hd : d < 32) : ∀ (l : List Nat) (s : State) (i : Nat), i < 48 → i ∈ l → (∀ j ∈ l, j < 48) → (l.foldl (fun s j =>
      resetTaps (48 * d + j) ((s.wr (PAN.STATE (48 * d + j)) a).modPane (48 * d + j) fun x => { x with detachAt := none, attachAt := none, used := false })) s).rd (PAN.STATE (48 * d + i)) = a := by
  intro l
  induction l using List.reverseRecOn with
  | nil => intro s i _ h; exact absurd h (by simp)
  | append_singleton l j ih =>
    intro s i hi hm hl
    rw [List.foldl_append, List.foldl_cons, List.foldl_nil, reset_rd, rd_modPane]
    by_cases hij : i = j
    · subst hij; exact rd_wr_same _ _ _
    · rw [rd_wr_other _ (by simp only [PAN.STATE]; omega)]
      refine ih s i hi ?_ (fun j hj => hl j (by simp [hj]))
      simpa [hij] using hm
theorem atPort_pwr {ecc : List Ecc} {r : MeshReq} {u : State} {d : Nat} (hd : d < 96) (h : u.rd (CRH.PWR_STATE d) = 3) : (atPort ecc r u).rd (CRH.PWR_STATE d) = 3 := by
  have big : ∀ {x y : State}, Fr (fun k => k ≠ CRH.PWR_STATE d) True x y → y.rd (CRH.PWR_STATE d) = x.rd (CRH.PWR_STATE d) := fun f => f.1 _ (by simp)
  have hs : ∀ x : State, (serve ecc r x).rd (CRH.PWR_STATE d) = x.rd (CRH.PWR_STATE d) := by
    intro x
    refine big (serve_fr ecc r x (fr_refl x) trivial ?_ ?_ ?_ ?_ ?_ ?_ ?_ ?_ ?_) <;> intro v <;> simp only [CRH.PWR_STATE, PAN.EVFLAGS, PAN.PERR, SCR.CE, SCR.EVFLAGS, SCR.TEST_TOUCH, SCR.UE, SCR.STEAL_TIMEOUT, SCR.COLLIDE, DSP.STALLS] <;> omega
  have g := gate_lt (a := r.addr) (s := u)
  unfold atPort
  dsimp only
  split
  · exact h
  · split
    all_goals
      split
      · exact (big (gatedTouch_fr _ _ _ (fr_refl _) (by simp only [CRH.PWR_STATE, CRH.EVFLAGS]; omega) (by simp only [CRH.PWR_STATE, CRH.GATED_TOUCHES]; omega) (by simp only [CRH.PWR_STATE, CRH.GATE_TOUCH]; omega))).trans h
      · split
        · exact h
        · split
          · rename_i p hp
            split
            · rename_i h0
              have ne : d ≠ p := by rintro rfl; omega
              rw [big (mshFlag_fr _ _ (fr_refl _) (by simp only [CRH.PWR_STATE, MSH.EVFLAGS]; omega)), rd_bump, if_neg (by simp only [CRH.PWR_STATE, MSH.WAKES]; omega)]
              show ((u.wr (CRH.PWR_STATE p) 1).rd (CRH.PWR_STATE d)) = 3
              rw [rd_wr_other _ (by simp only [CRH.PWR_STATE]; omega)]; exact h
            · split
              · rw [hs]; exact h
              · exact h
          · rw [hs]; exact h
set_option Elab.async false in
theorem fold_pwr {d : Nat} (hd : d < 96) : ∀ (l : List PortReq) (u : State), u.rd (CRH.PWR_STATE d) = 3 → (l.foldl (fun s w => atPort w.ecc w.req s) u).rd (CRH.PWR_STATE d) = 3
  | [], _, h => h
  | w :: l, u, h => by rw [List.foldl_cons]; exact fold_pwr hd l _ (atPort_pwr hd h)
end Sys2Proof.Laws.CompleteMesh
end

