-- ==== Sys2Proof/Laws/KeepsHdi.lean ====
section
/-! SUPPORT. State.hdi: what the operations it lists leave unchanged. -/
set_option linter.unreachableTactic false
set_option linter.unusedSimpArgs false
set_option linter.unusedTactic false
namespace Sys2Proof.Laws
open Sys2Proof.Machine
section
variable {s0 : State}
def KeepsHdi (s0 s : State) : Prop := s.hdi = s0.hdi
theorem keepsHdi_ite {c : Prop} [Decidable c] {x y : State} (hx : KeepsHdi s0 x) (hy : KeepsHdi s0 y) : KeepsHdi s0 (if c then x else y) := by split <;> assumption
theorem keepsHdi_foldl {β : Type} {f : State → β → State} (hf : ∀ s x, KeepsHdi s0 s → KeepsHdi s0 (f s x)) :
    ∀ {l : List β} {s : State}, KeepsHdi s0 s → KeepsHdi s0 (l.foldl f s)
  | [], _, h => h
  | x :: l, s, h => keepsHdi_foldl (l := l) hf (hf s x h)
theorem keepsHdi_cut {s : State} {p : Prop} (h : KeepsHdi s0 s) (f : KeepsHdi s0 s → p) : p := f h
theorem wr_keepsHdi (k v : Nat) (s : State) (h : KeepsHdi s0 s) : KeepsHdi s0 (s.wr k v) := h
theorem keepsHdi_mk_iff {s : State} {x_now : Nat} {x_reg : Tab Nat} {x_mem : List Host.Cell} {x_evq : List (Nat × Nat)} {x_freeCtr : Nat} {x_pending : List Instr} {x_clk : ClockS} {x_sched : List Sched} {x_ve : Tab VeRun} {x_outCh : Tab OutCh} {x_inCh : Tab InCh} {x_fcp : Tab FcpS} {x_sq : Tab SqS} {x_brk : Tab BrkS} {x_tgt : Tab TgtS} {x_groupAt : List (Nat × Nat)} {x_dsp : Tab DspRun} {x_focus : FocusS} {x_trim : TrimS} {x_reqs : List MeshReq} {x_resps : List MeshResp} {x_held : List PortReq} {x_steal : List PortReq} {x_labels : List (MeshReq × Nat)} {x_drain : Option Drain} {x_trace : List Nat} {x_dmc : Tab DmcS} {x_autoTrain : Bool} {x_crh : CrhS} {x_cfg : CfgS} {x_fresh : List (Nat × Nat × Nat)} {x_cleared : List (Nat × Nat × Nat)} {x_sup : SupS} {x_dbg : DbgS} {x_tmu : TmuS} {x_lanes : Tab LaneS} {x_cells : Tab (Option CellS)} {x_cellCfg : Tab CellCfg} {x_sels : Tab Nat} {x_tracks : Tab Nat} {x_upsets : List Upset} {x_facets : Tab FacetS} {x_fev : List (Nat × Nat)} {x_panes : Tab PaneS} {x_banks : Tab BankS} {x_pins : PinsS} :
    KeepsHdi s0 ⟨x_now, x_reg, x_mem, x_evq, x_freeCtr, x_pending, s.hdi, x_clk, x_sched, x_ve, x_outCh, x_inCh, x_fcp, x_sq, x_brk, x_tgt, x_groupAt, x_dsp, x_focus, x_trim, x_reqs, x_resps, x_held, x_steal, x_labels, x_drain, x_trace, x_dmc, x_autoTrain, x_crh, x_cfg, x_fresh, x_cleared, x_sup, x_dbg, x_tmu, x_lanes, x_cells, x_cellCfg, x_sels, x_tracks, x_upsets, x_facets, x_fev, x_panes, x_banks, x_pins⟩ ↔ KeepsHdi s0 s := Iff.rfl
theorem addTo_keepsHdi (s : State) (w k d : Nat) (hs : KeepsHdi s0 s) :
    KeepsHdi s0 (State.addTo s w k d) := by
  unfold State.addTo
  repeat' first
    | with_reducible intro _
    | with_reducible assumption
    | with_reducible apply wr_keepsHdi

theorem bump_keepsHdi (s : State) (w k : Nat) (hs : KeepsHdi s0 s) :
    KeepsHdi s0 (State.bump s w k) := by
  unfold State.bump
  repeat' first
    | with_reducible intro _
    | with_reducible assumption
    | with_reducible apply addTo_keepsHdi

theorem raiseAt_keepsHdi (s : State) (t e : Nat) (hs : KeepsHdi s0 s) :
    KeepsHdi s0 (State.raiseAt s t e) := by
  unfold State.raiseAt
  repeat' first
    | with_reducible intro _
    | with_reducible assumption
    | simp only [↓keepsHdi_mk_iff]
    | with_reducible apply keepsHdi_ite
    | (extract_lets x; first | (with_reducible refine keepsHdi_cut (s := x) ?_ ?_; (on_goal 2 => clear_value x); (on_goal 1 => unfold x)) | (subst x))
    | split

theorem raise_keepsHdi (s : State) (e : Nat) (hs : KeepsHdi s0 s) :
    KeepsHdi s0 (State.raise s e) := by
  unfold State.raise
  repeat' first
    | with_reducible intro _
    | with_reducible assumption
    | with_reducible apply raiseAt_keepsHdi
    | simp only [↓keepsHdi_mk_iff]
    | with_reducible apply keepsHdi_ite
    | (extract_lets x; first | (with_reducible refine keepsHdi_cut (s := x) ?_ ?_; (on_goal 2 => clear_value x); (on_goal 1 => unfold x)) | (subst x))
    | split

theorem setBit_keepsHdi (s : State) (k b : Nat) (v : Bool) (hs : KeepsHdi s0 s) :
    KeepsHdi s0 (State.setBit s k b v) := by
  unfold State.setBit
  repeat' first
    | with_reducible intro _
    | with_reducible assumption
    | with_reducible apply wr_keepsHdi
    | with_reducible apply keepsHdi_ite
    | split

theorem note_keepsHdi (s : State) (k b : Nat) (hs : KeepsHdi s0 s) :
    KeepsHdi s0 (State.note s k b) := by
  unfold State.note
  repeat' first
    | with_reducible intro _
    | with_reducible assumption
    | simp only [↓keepsHdi_mk_iff]
    | with_reducible apply keepsHdi_ite
    | (extract_lets x; first | (with_reducible refine keepsHdi_cut (s := x) ?_ ?_; (on_goal 2 => clear_value x); (on_goal 1 => unfold x)) | (subst x))
    | split

theorem flag_keepsHdi (s : State) (k b e : Nat) (hs : KeepsHdi s0 s) :
    KeepsHdi s0 (State.flag s k b e) := by
  unfold State.flag
  repeat' first
    | with_reducible intro _
    | with_reducible assumption
    | with_reducible apply note_keepsHdi
    | with_reducible apply setBit_keepsHdi
    | with_reducible apply raise_keepsHdi
    | simp only [↓keepsHdi_mk_iff]
    | with_reducible apply keepsHdi_ite
    | (extract_lets x; first | (with_reducible refine keepsHdi_cut (s := x) ?_ ?_; (on_goal 2 => clear_value x); (on_goal 1 => unfold x)) | (subst x))
    | split

theorem drawn_keepsHdi (s : State) (hs : KeepsHdi s0 s) :
    KeepsHdi s0 (State.drawn s) := by
  unfold State.drawn
  repeat' first
    | with_reducible intro _
    | with_reducible assumption
    | simp only [↓keepsHdi_mk_iff]

theorem modVe_keepsHdi (s : State) (n : Nat) (f : VeRun → VeRun) (hs : KeepsHdi s0 s) :
    KeepsHdi s0 (State.modVe s n f) := by
  unfold State.modVe
  repeat' first
    | with_reducible intro _
    | with_reducible assumption
    | simp only [↓keepsHdi_mk_iff]

theorem modOut_keepsHdi (s : State) (c : Nat) (f : OutCh → OutCh) (hs : KeepsHdi s0 s) :
    KeepsHdi s0 (State.modOut s c f) := by
  unfold State.modOut
  repeat' first
    | with_reducible intro _
    | with_reducible assumption
    | simp only [↓keepsHdi_mk_iff]

theorem barrierLeft_keepsHdi (n at' : Nat) (s : State) (hs : KeepsHdi s0 s) :
    KeepsHdi s0 (barrierLeft n at' s) := by
  unfold barrierLeft
  repeat' first
    | with_reducible intro _
    | with_reducible assumption
    | with_reducible apply modVe_keepsHdi
    | simp only [↓keepsHdi_mk_iff]
    | with_reducible apply keepsHdi_ite
    | with_reducible apply keepsHdi_foldl
    | split

theorem disarmStarts_keepsHdi (s : State) (hs : KeepsHdi s0 s) :
    KeepsHdi s0 (disarmStarts s) := by
  unfold disarmStarts
  repeat' first
    | with_reducible intro _
    | with_reducible assumption
    | with_reducible apply wr_keepsHdi
    | with_reducible apply modVe_keepsHdi
    | with_reducible apply barrierLeft_keepsHdi
    | simp only [↓keepsHdi_mk_iff]
    | with_reducible apply keepsHdi_ite
    | with_reducible apply keepsHdi_foldl
    | (extract_lets x; first | (with_reducible refine keepsHdi_cut (s := x) ?_ ?_; (on_goal 2 => clear_value x); (on_goal 1 => unfold x)) | (subst x))
    | split

theorem parkAt_keepsHdi (c set t : Nat) (s : State) (hs : KeepsHdi s0 s) :
    KeepsHdi s0 (parkAt c set t s) := by
  unfold parkAt
  repeat' first
    | with_reducible intro _
    | with_reducible assumption
    | with_reducible apply modOut_keepsHdi
    | simp only [↓keepsHdi_mk_iff]
    | with_reducible apply keepsHdi_ite
    | (extract_lets x; first | (with_reducible refine keepsHdi_cut (s := x) ?_ ?_; (on_goal 2 => clear_value x); (on_goal 1 => unfold x)) | (subst x))
    | split

theorem parkEngine_keepsHdi (n t : Nat) (s : State) (hs : KeepsHdi s0 s) :
    KeepsHdi s0 (parkEngine n t s) := by
  unfold parkEngine
  repeat' first
    | with_reducible intro _
    | with_reducible assumption
    | with_reducible apply parkAt_keepsHdi
    | with_reducible apply keepsHdi_foldl

theorem apgEmpty_keepsHdi (n : Nat) (s : State) (hs : KeepsHdi s0 s) :
    KeepsHdi s0 (apgEmpty n s) := by
  unfold apgEmpty
  repeat' first
    | with_reducible intro _
    | with_reducible assumption
    | with_reducible apply modVe_keepsHdi
    | with_reducible apply raiseAt_keepsHdi
    | with_reducible apply addTo_keepsHdi
    | simp only [↓keepsHdi_mk_iff]
    | with_reducible apply keepsHdi_ite
    | (extract_lets x; first | (with_reducible refine keepsHdi_cut (s := x) ?_ ?_; (on_goal 2 => clear_value x); (on_goal 1 => unfold x)) | (subst x))
    | split

theorem veArm_keepsHdi (n kind parkSet mode : Nat) (s : State) (hs : KeepsHdi s0 s) :
    KeepsHdi s0 (veArm n kind parkSet mode s) := by
  unfold veArm
  repeat' first
    | with_reducible intro _
    | with_reducible assumption
    | with_reducible apply modVe_keepsHdi
    | with_reducible apply wr_keepsHdi
    | with_reducible apply apgEmpty_keepsHdi
    | with_reducible apply parkEngine_keepsHdi
    | simp only [↓keepsHdi_mk_iff]
    | with_reducible apply keepsHdi_ite
    | (extract_lets x; first | (with_reducible refine keepsHdi_cut (s := x) ?_ ?_; (on_goal 2 => clear_value x); (on_goal 1 => unfold x)) | (subst x))
    | split

theorem mshFlag_keepsHdi (b : Nat) (s : State) (hs : KeepsHdi s0 s) :
    KeepsHdi s0 (mshFlag b s) := by
  unfold mshFlag
  repeat' first
    | with_reducible intro _
    | with_reducible assumption
    | with_reducible apply flag_keepsHdi

theorem traceWrite_keepsHdi (p : Nat) (k : Packet) (s : State) (hs : KeepsHdi s0 s) :
    KeepsHdi s0 (traceWrite p k s) := by
  unfold traceWrite
  repeat' first
    | with_reducible intro _
    | with_reducible assumption
    | with_reducible apply drawn_keepsHdi
    | with_reducible apply bump_keepsHdi
    | with_reducible apply mshFlag_keepsHdi
    | simp only [↓keepsHdi_mk_iff]
    | with_reducible apply keepsHdi_ite
    | (extract_lets x; first | (with_reducible refine keepsHdi_cut (s := x) ?_ ?_; (on_goal 2 => clear_value x); (on_goal 1 => unfold x)) | (subst x))
    | split

set_option Elab.async false in
theorem probesSee_keepsHdi (k : Packet) (s : State) (hs : KeepsHdi s0 s) :
    KeepsHdi s0 (probesSee k s) := by
  unfold probesSee
  repeat' first
    | with_reducible intro _
    | with_reducible assumption
    | with_reducible apply bump_keepsHdi
    | with_reducible apply addTo_keepsHdi
    | with_reducible apply traceWrite_keepsHdi
    | with_reducible apply keepsHdi_ite
    | with_reducible apply keepsHdi_foldl
    | (extract_lets x; first | (with_reducible refine keepsHdi_cut (s := x) ?_ ?_; (on_goal 2 => clear_value x); (on_goal 1 => unfold x)) | (subst x))
    | split
end

end Sys2Proof.Laws
end

