-- ==== Sys2Proof/Laws/KeepsReg.lean ====
section
/-! SUPPORT. State.reg: what the operations it lists leave unchanged. -/
namespace Sys2Proof.Laws
open Sys2Proof.Machine
section
variable {s0 : State}
def KeepsReg (s0 s : State) : Prop := s.reg = s0.reg
theorem keepsReg_ite {c : Prop} [Decidable c] {x y : State} (hx : KeepsReg s0 x) (hy : KeepsReg s0 y) : KeepsReg s0 (if c then x else y) := by split <;> assumption
theorem keepsReg_foldl {β : Type} {f : State → β → State} (hf : ∀ s x, KeepsReg s0 s → KeepsReg s0 (f s x)) :
    ∀ {l : List β} {s : State}, KeepsReg s0 s → KeepsReg s0 (l.foldl f s)
  | [], _, h => h
  | x :: l, s, h => keepsReg_foldl (l := l) hf (hf s x h)
theorem keepsReg_cut {s : State} {p : Prop} (h : KeepsReg s0 s) (f : KeepsReg s0 s → p) : p := f h
theorem keepsReg_mk_iff {s : State} {x_now : Nat} {x_mem : List Host.Cell} {x_evq : List (Nat × Nat)} {x_freeCtr : Nat} {x_pending : List Instr} {x_hdi : HdiS} {x_clk : ClockS} {x_sched : List Sched} {x_ve : Tab VeRun} {x_outCh : Tab OutCh} {x_inCh : Tab InCh} {x_fcp : Tab FcpS} {x_sq : Tab SqS} {x_brk : Tab BrkS} {x_tgt : Tab TgtS} {x_groupAt : List (Nat × Nat)} {x_dsp : Tab DspRun} {x_focus : FocusS} {x_trim : TrimS} {x_reqs : List MeshReq} {x_resps : List MeshResp} {x_held : List PortReq} {x_steal : List PortReq} {x_labels : List (MeshReq × Nat)} {x_drain : Option Drain} {x_trace : List Nat} {x_dmc : Tab DmcS} {x_autoTrain : Bool} {x_crh : CrhS} {x_cfg : CfgS} {x_fresh : List (Nat × Nat × Nat)} {x_cleared : List (Nat × Nat × Nat)} {x_sup : SupS} {x_dbg : DbgS} {x_tmu : TmuS} {x_lanes : Tab LaneS} {x_cells : Tab (Option CellS)} {x_cellCfg : Tab CellCfg} {x_sels : Tab Nat} {x_tracks : Tab Nat} {x_upsets : List Upset} {x_facets : Tab FacetS} {x_fev : List (Nat × Nat)} {x_panes : Tab PaneS} {x_banks : Tab BankS} {x_pins : PinsS} :
    KeepsReg s0 ⟨x_now, s.reg, x_mem, x_evq, x_freeCtr, x_pending, x_hdi, x_clk, x_sched, x_ve, x_outCh, x_inCh, x_fcp, x_sq, x_brk, x_tgt, x_groupAt, x_dsp, x_focus, x_trim, x_reqs, x_resps, x_held, x_steal, x_labels, x_drain, x_trace, x_dmc, x_autoTrain, x_crh, x_cfg, x_fresh, x_cleared, x_sup, x_dbg, x_tmu, x_lanes, x_cells, x_cellCfg, x_sels, x_tracks, x_upsets, x_facets, x_fev, x_panes, x_banks, x_pins⟩ ↔ KeepsReg s0 s := Iff.rfl
theorem modOut_keepsReg (s : State) (c : Nat) (f : OutCh → OutCh) (hs : KeepsReg s0 s) :
    KeepsReg s0 (State.modOut s c f) := by
  unfold State.modOut
  repeat' first
    | with_reducible intro _
    | with_reducible assumption
    | simp only [↓keepsReg_mk_iff]

theorem parkAt_keepsReg (c set t : Nat) (s : State) (hs : KeepsReg s0 s) :
    KeepsReg s0 (parkAt c set t s) := by
  unfold parkAt
  repeat' first
    | with_reducible intro _
    | with_reducible assumption
    | with_reducible apply modOut_keepsReg
    | simp only [↓keepsReg_mk_iff]
    | with_reducible apply keepsReg_ite
    | (extract_lets x; first | (with_reducible refine keepsReg_cut (s := x) ?_ ?_; (on_goal 2 => clear_value x); (on_goal 1 => unfold x)) | (subst x))
    | split

theorem offAt_keepsReg (c t : Nat) (s : State) (hs : KeepsReg s0 s) :
    KeepsReg s0 (offAt c t s) := by
  unfold offAt
  repeat' first
    | with_reducible intro _
    | with_reducible assumption
    | with_reducible apply modOut_keepsReg
    | simp only [↓keepsReg_mk_iff]
    | with_reducible apply keepsReg_ite
    | split

set_option Elab.async false in
theorem pinsAtE_keepsReg (e : Nat) (b a : State) (hb : KeepsReg s0 b) (ha : KeepsReg s0 a) :
    KeepsReg s0 (pinsAtE e b a) := by
  unfold pinsAtE
  repeat' first
    | with_reducible intro _
    | with_reducible assumption
    | with_reducible apply offAt_keepsReg
    | with_reducible apply parkAt_keepsReg
    | with_reducible apply keepsReg_ite
    | with_reducible apply keepsReg_foldl
    | (extract_lets x; first | (with_reducible refine keepsReg_cut (s := x) ?_ ?_; (on_goal 2 => clear_value x); (on_goal 1 => unfold x)) | (subst x))
    | split
end

end Sys2Proof.Laws
end

