-- ==== Sys2Proof/Laws/KeepsRespsTaken.lean ====
section
/-! SUPPORT. State.resps: what the operations it lists leave unchanged. -/
namespace Sys2Proof.Laws
open Sys2Proof.Machine
section
variable {s0 : State}
def KeepsRespsTaken (s0 s : State) : Prop := s.resps = s0.resps
theorem keepsRespsTaken_ite {c : Prop} [Decidable c] {x y : State} (hx : KeepsRespsTaken s0 x) (hy : KeepsRespsTaken s0 y) : KeepsRespsTaken s0 (if c then x else y) := by split <;> assumption
theorem keepsRespsTaken_foldl {β : Type} {f : State → β → State} (hf : ∀ s x, KeepsRespsTaken s0 s → KeepsRespsTaken s0 (f s x)) :
    ∀ {l : List β} {s : State}, KeepsRespsTaken s0 s → KeepsRespsTaken s0 (l.foldl f s)
  | [], _, h => h
  | x :: l, s, h => keepsRespsTaken_foldl (l := l) hf (hf s x h)
theorem keepsRespsTaken_cut {s : State} {p : Prop} (h : KeepsRespsTaken s0 s) (f : KeepsRespsTaken s0 s → p) : p := f h
theorem wr_keepsRespsTaken (k v : Nat) (s : State) (h : KeepsRespsTaken s0 s) : KeepsRespsTaken s0 (s.wr k v) := h
theorem keepsRespsTaken_mk_iff {s : State} {x_now : Nat} {x_reg : Tab Nat} {x_mem : List Host.Cell} {x_evq : List (Nat × Nat)} {x_freeCtr : Nat} {x_pending : List Instr} {x_hdi : HdiS} {x_clk : ClockS} {x_sched : List Sched} {x_ve : Tab VeRun} {x_outCh : Tab OutCh} {x_inCh : Tab InCh} {x_fcp : Tab FcpS} {x_sq : Tab SqS} {x_brk : Tab BrkS} {x_tgt : Tab TgtS} {x_groupAt : List (Nat × Nat)} {x_dsp : Tab DspRun} {x_focus : FocusS} {x_trim : TrimS} {x_reqs : List MeshReq} {x_held : List PortReq} {x_steal : List PortReq} {x_labels : List (MeshReq × Nat)} {x_drain : Option Drain} {x_trace : List Nat} {x_dmc : Tab DmcS} {x_autoTrain : Bool} {x_crh : CrhS} {x_cfg : CfgS} {x_fresh : List (Nat × Nat × Nat)} {x_cleared : List (Nat × Nat × Nat)} {x_sup : SupS} {x_dbg : DbgS} {x_tmu : TmuS} {x_lanes : Tab LaneS} {x_cells : Tab (Option CellS)} {x_cellCfg : Tab CellCfg} {x_sels : Tab Nat} {x_tracks : Tab Nat} {x_upsets : List Upset} {x_facets : Tab FacetS} {x_fev : List (Nat × Nat)} {x_panes : Tab PaneS} {x_banks : Tab BankS} {x_pins : PinsS} :
    KeepsRespsTaken s0 ⟨x_now, x_reg, x_mem, x_evq, x_freeCtr, x_pending, x_hdi, x_clk, x_sched, x_ve, x_outCh, x_inCh, x_fcp, x_sq, x_brk, x_tgt, x_groupAt, x_dsp, x_focus, x_trim, x_reqs, s.resps, x_held, x_steal, x_labels, x_drain, x_trace, x_dmc, x_autoTrain, x_crh, x_cfg, x_fresh, x_cleared, x_sup, x_dbg, x_tmu, x_lanes, x_cells, x_cellCfg, x_sels, x_tracks, x_upsets, x_facets, x_fev, x_panes, x_banks, x_pins⟩ ↔ KeepsRespsTaken s0 s := Iff.rfl
theorem addTo_keepsRespsTaken (s : State) (w k d : Nat) (hs : KeepsRespsTaken s0 s) :
    KeepsRespsTaken s0 (State.addTo s w k d) := by
  unfold State.addTo
  repeat' first
    | with_reducible intro _
    | with_reducible assumption
    | with_reducible apply wr_keepsRespsTaken

theorem bump_keepsRespsTaken (s : State) (w k : Nat) (hs : KeepsRespsTaken s0 s) :
    KeepsRespsTaken s0 (State.bump s w k) := by
  unfold State.bump
  repeat' first
    | with_reducible intro _
    | with_reducible assumption
    | with_reducible apply addTo_keepsRespsTaken

theorem raiseAt_keepsRespsTaken (s : State) (t e : Nat) (hs : KeepsRespsTaken s0 s) :
    KeepsRespsTaken s0 (State.raiseAt s t e) := by
  unfold State.raiseAt
  repeat' first
    | with_reducible intro _
    | with_reducible assumption
    | simp only [↓keepsRespsTaken_mk_iff]
    | with_reducible apply keepsRespsTaken_ite
    | (extract_lets x; first | (with_reducible refine keepsRespsTaken_cut (s := x) ?_ ?_; (on_goal 2 => clear_value x); (on_goal 1 => unfold x)) | (subst x))
    | split

theorem raise_keepsRespsTaken (s : State) (e : Nat) (hs : KeepsRespsTaken s0 s) :
    KeepsRespsTaken s0 (State.raise s e) := by
  unfold State.raise
  repeat' first
    | with_reducible intro _
    | with_reducible assumption
    | with_reducible apply raiseAt_keepsRespsTaken
    | simp only [↓keepsRespsTaken_mk_iff]
    | with_reducible apply keepsRespsTaken_ite
    | (extract_lets x; first | (with_reducible refine keepsRespsTaken_cut (s := x) ?_ ?_; (on_goal 2 => clear_value x); (on_goal 1 => unfold x)) | (subst x))
    | split

theorem setBit_keepsRespsTaken (s : State) (k b : Nat) (v : Bool) (hs : KeepsRespsTaken s0 s) :
    KeepsRespsTaken s0 (State.setBit s k b v) := by
  unfold State.setBit
  repeat' first
    | with_reducible intro _
    | with_reducible assumption
    | with_reducible apply wr_keepsRespsTaken
    | with_reducible apply keepsRespsTaken_ite
    | split

theorem note_keepsRespsTaken (s : State) (k b : Nat) (hs : KeepsRespsTaken s0 s) :
    KeepsRespsTaken s0 (State.note s k b) := by
  unfold State.note
  repeat' first
    | with_reducible intro _
    | with_reducible assumption
    | simp only [↓keepsRespsTaken_mk_iff]
    | with_reducible apply keepsRespsTaken_ite
    | (extract_lets x; first | (with_reducible refine keepsRespsTaken_cut (s := x) ?_ ?_; (on_goal 2 => clear_value x); (on_goal 1 => unfold x)) | (subst x))
    | split

theorem flag_keepsRespsTaken (s : State) (k b e : Nat) (hs : KeepsRespsTaken s0 s) :
    KeepsRespsTaken s0 (State.flag s k b e) := by
  unfold State.flag
  repeat' first
    | with_reducible intro _
    | with_reducible assumption
    | with_reducible apply note_keepsRespsTaken
    | with_reducible apply setBit_keepsRespsTaken
    | with_reducible apply raise_keepsRespsTaken
    | simp only [↓keepsRespsTaken_mk_iff]
    | with_reducible apply keepsRespsTaken_ite
    | (extract_lets x; first | (with_reducible refine keepsRespsTaken_cut (s := x) ?_ ?_; (on_goal 2 => clear_value x); (on_goal 1 => unfold x)) | (subst x))
    | split

theorem drawn_keepsRespsTaken (s : State) (hs : KeepsRespsTaken s0 s) :
    KeepsRespsTaken s0 (State.drawn s) := by
  unfold State.drawn
  repeat' first
    | with_reducible intro _
    | with_reducible assumption
    | simp only [↓keepsRespsTaken_mk_iff]

theorem mshFlag_keepsRespsTaken (b : Nat) (s : State) (hs : KeepsRespsTaken s0 s) :
    KeepsRespsTaken s0 (mshFlag b s) := by
  unfold mshFlag
  repeat' first
    | with_reducible intro _
    | with_reducible assumption
    | with_reducible apply flag_keepsRespsTaken

theorem traceWrite_keepsRespsTaken (p : Nat) (k : Packet) (s : State) (hs : KeepsRespsTaken s0 s) :
    KeepsRespsTaken s0 (traceWrite p k s) := by
  unfold traceWrite
  repeat' first
    | with_reducible intro _
    | with_reducible assumption
    | with_reducible apply drawn_keepsRespsTaken
    | with_reducible apply bump_keepsRespsTaken
    | with_reducible apply mshFlag_keepsRespsTaken
    | simp only [↓keepsRespsTaken_mk_iff]
    | with_reducible apply keepsRespsTaken_ite
    | (extract_lets x; first | (with_reducible refine keepsRespsTaken_cut (s := x) ?_ ?_; (on_goal 2 => clear_value x); (on_goal 1 => unfold x)) | (subst x))
    | split

set_option Elab.async false in
theorem probesSee_keepsRespsTaken (k : Packet) (s : State) (hs : KeepsRespsTaken s0 s) :
    KeepsRespsTaken s0 (probesSee k s) := by
  unfold probesSee
  repeat' first
    | with_reducible intro _
    | with_reducible assumption
    | with_reducible apply bump_keepsRespsTaken
    | with_reducible apply addTo_keepsRespsTaken
    | with_reducible apply traceWrite_keepsRespsTaken
    | with_reducible apply keepsRespsTaken_ite
    | with_reducible apply keepsRespsTaken_foldl
    | (extract_lets x; first | (with_reducible refine keepsRespsTaken_cut (s := x) ?_ ?_; (on_goal 2 => clear_value x); (on_goal 1 => unfold x)) | (subst x))
    | split
end

end Sys2Proof.Laws
end

