-- ==== Sys2Proof/Laws/CompleteMirror.lean ====
section
/-! SUPPORT. Batches, management and responses: facts that proofs about their commands cite. -/
namespace Sys2Proof.Laws.CompleteMirror
open Sys2Proof.Machine Common
namespace BatchFacts
theorem key_back (k : Nat) : k / 256 * 256 + k % 256 = k := Nat.div_add_mod' k 256
theorem batchStarts_hdi {s t : State} (h : t.hdi = s.hdi) (n : Nat) : batchStarts n t = batchStarts n s := by unfold batchStarts; rw [h]
theorem veArm_rd {n p m k : Nat} {s : State} (h1 : k ≠ VEN.APG_DISCARD n) (h2 : k ≠ VEN.STATE n) : (veArm n 2 p m s).rd k = s.rd k :=
  (veArm_fr (V := fun k => k = VEN.APG_DISCARD n ∨ k = VEN.STATE n) (M := True) n 2 p m s (fr_refl s) (by simp) (by simp)).1 _ (by rintro (h | h); exact h1 h; exact h2 h)
theorem veArm_st (n p m : Nat) (s : State) : veState n (veArm n 2 p m s) = 2 := by
  unfold veArm
  dsimp only
  have hne : VEN.STATE n ≠ VEN.APG_DISCARD n := by simp only [VEN.STATE, VEN.APG_DISCARD]; omega
  unfold veState
  rw [(apgEmpty_fr (V := fun k => k = VEN.APG_DISCARD n) (M := True) n _ (parkEngine_fr n _ _ (fr_refl _)) rfl).1 _ hne, rd_wr_same]
def armStep (s : State) (n : Nat) : State :=
  if batchStarts n s then veArm n 2 (s.rd (VEN.PARK_TSET n)) (afterBatch s (VEN.BUF_MODE n)) s else s
theorem armStep_hdi (s : State) (n : Nat) : (armStep s n).hdi = s.hdi := by
  unfold armStep; split
  · exact veArm_keepsHdi (s0 := s) _ _ _ _ _ rfl
  · rfl
theorem arm_fold : ∀ (l : List Nat) (s : State), (l.foldl armStep s).hdi = s.hdi
  | [], _ => rfl
  | a :: l, s => by rw [List.foldl_cons, arm_fold l, armStep_hdi]
theorem arm_keep (n : Nat) : ∀ (l : List Nat) (s : State), veState n s = 2 → veState n (l.foldl armStep s) = 2
  | [], _, h => h
  | a :: l, s, h => by
    rw [List.foldl_cons]
    refine arm_keep n l _ ?_
    unfold armStep
    split
    · by_cases e : n = a
      · subst e; exact veArm_st _ _ _ _
      · unfold veState
        rw [veArm_rd (by simp only [VEN.STATE, VEN.APG_DISCARD]; omega) (by simp only [VEN.STATE]; omega)]
        exact h
    · exact h
theorem arm_st (n : Nat) : ∀ (l : List Nat) (s : State), n ∈ l → batchStarts n s = true → veState n (l.foldl armStep s) = 2
  | [], _, h, _ => absurd h (by simp)
  | a :: l, s, h, hb => by
    rw [List.foldl_cons]
    by_cases e : n = a
    · subst e
      refine arm_keep n l _ ?_
      unfold armStep
      rw [if_pos hb]
      exact veArm_st _ _ _ _
    · refine arm_st n l _ (by simpa [e] using h) ?_
      rw [batchStarts_hdi (armStep_hdi s a)]; exact hb
theorem arm_rd (k : Nat) (hk : ∀ n, k ≠ VEN.STATE n ∧ k ≠ VEN.APG_DISCARD n) : ∀ (l : List Nat) (s : State), (l.foldl armStep s).rd k = s.rd k
  | [], _ => rfl
  | a :: l, s => by
    rw [List.foldl_cons, arm_rd k hk l]
    unfold armStep
    split
    · exact veArm_rd (hk a).2 (hk a).1
    · rfl
theorem disarm_rd {k : Nat} (hk : ∀ n, k ≠ VEN.STATE n) (s : State) : (disarmStarts s).rd k = s.rd k :=
  (disarmStarts_fr (V := fun k => ∃ n, k = VEN.STATE n) (M := True) s (fr_refl s) (fun n => ⟨n, rfl⟩)).1 _ (by rintro ⟨n, h⟩; exact hk n h)
theorem fold_vals : ∀ (l : List Staged) (s : State), (l.map (·.key)).Nodup →
    (∀ x ∈ l, (l.foldl (fun s x => s.wr x.key x.val) s).rd x.key = x.val) ∧ ∀ k, k ∉ l.map (·.key) → (l.foldl (fun s x => s.wr x.key x.val) s).rd k = s.rd k
  | [], s, _ => by simp
  | a :: l, s, h => by
    rw [List.map_cons, List.nodup_cons] at h
    have ih := fold_vals l (s.wr a.key a.val) h.2
    rw [List.foldl_cons]
    constructor
    · intro x hx
      rw [List.mem_cons] at hx
      rcases hx with rfl | hx
      · rw [ih.2 _ h.1, rd_wr_same]
      · exact ih.1 x hx
    · intro k hk
      rw [List.map_cons, List.mem_cons, not_or] at hk
      rw [ih.2 k hk.2, rd_wr_other _ hk.1]
theorem fold_ve : ∀ (l : List Staged) (s : State), (l.foldl (fun s x => s.wr x.key x.val) s).ve = s.ve
  | [], _ => rfl
  | a :: l, s => by rw [List.foldl_cons, fold_ve l]; rfl
theorem fold_reg {α : Type} {f : State → α → State} (hf : ∀ s x, (f s x).reg = s.reg) : ∀ (l : List α) (s : State), (l.foldl f s).reg = s.reg
  | [], _ => rfl
  | a :: l, s => by rw [List.foldl_cons, fold_reg hf l, hf]
theorem fold_land {α : Type} {n : Nat} {y : Nat × List Staged} {f : State → α → State} (hf : ∀ s x, y ∈ (s.veOf n).lands → y ∈ ((f s x).veOf n).lands) : ∀ (l : List α) (s : State), y ∈ (s.veOf n).lands → y ∈ ((l.foldl f s).veOf n).lands
  | [], _, h => h
  | a :: l, s, h => by rw [List.foldl_cons]; exact fold_land hf l _ (hf s a h)
def landStep (e : Nat) (s : State) (x : Nat × List Staged) : State :=
  if x.2.isEmpty then s
  else s.modVe x.1 fun v => { v with lands := v.lands ++ [(e + 64 * ticksPerNs, x.2)] }
theorem landStep_keep (e n : Nat) (y : Nat × List Staged) (s : State) (x : Nat × List Staged) (h : y ∈ (s.veOf n).lands) : y ∈ ((landStep e s x).veOf n).lands := by
  unfold landStep
  split
  · exact h
  · by_cases hn : n = x.1
    · subst hn; rw [veOf_modVe]; exact List.mem_append_left _ h
    · rw [veOf_modVe_other _ hn]; exact h
theorem landStep_new (e : Nat) : ∀ (l : List (Nat × List Staged)) (s : State) (n : Nat) (ys : List Staged), (n, ys) ∈ l → ys ≠ [] → (e + 64 * ticksPerNs, ys) ∈ ((l.foldl (landStep e) s).veOf n).lands
  | [], _, _, _, h, _ => absurd h (by simp)
  | a :: l, s, n, ys, h, hy => by
    rw [List.foldl_cons]
    rw [List.mem_cons] at h
    rcases h with rfl | h
    · refine fold_land (landStep_keep e n _) l _ ?_
      unfold landStep
      rw [if_neg (by cases ys <;> simp_all), veOf_modVe]
      exact List.mem_append_right _ (by simp)
    · exact landStep_new e l _ n ys h hy
theorem mirror_mod (u : State) (f : MirrorS → MirrorS) : (u.modMirror f).hdi.mirror = f u.hdi.mirror := rfl
theorem disarm_mirror' (u : State) (c x : Nat) : (((u.wr HDI.MIRROR_STATE c).modMirror fun mi => { mi with edge := none, syncLow := false }).modMirror fun mi => { mi with leaseEnd := x }).hdi.mirror.batch = u.hdi.mirror.batch ∧
    (((u.wr HDI.MIRROR_STATE c).modMirror fun mi => { mi with edge := none, syncLow := false }).modMirror fun mi => { mi with leaseEnd := x }).hdi.mirror.edge = none ∧
    ∀ k, (((u.wr HDI.MIRROR_STATE c).modMirror fun mi => { mi with edge := none, syncLow := false }).modMirror fun mi => { mi with leaseEnd := x }).rd k = (u.wr HDI.MIRROR_STATE c).rd k := ⟨rfl, rfl, fun _ => rfl⟩
theorem disarm_mirror (u : State) (c : Nat) : (restartLease ((u.wr HDI.MIRROR_STATE c).modMirror fun mi => { mi with edge := none, syncLow := false })).hdi.mirror.batch = u.hdi.mirror.batch ∧
    (restartLease ((u.wr HDI.MIRROR_STATE c).modMirror fun mi => { mi with edge := none, syncLow := false })).hdi.mirror.edge = none ∧
    ∀ k, (restartLease ((u.wr HDI.MIRROR_STATE c).modMirror fun mi => { mi with edge := none, syncLow := false })).rd k = (u.wr HDI.MIRROR_STATE c).rd k := by
  unfold restartLease
  exact disarm_mirror' u c _
theorem rws_ne {k j : Nat} {a : Dict.Acc} (h : (Dict.find (k / 256) (k % 256)).map (·.acc) = some .rws) (hj : (Dict.find (j / 256) (j % 256)).map (·.acc) = some a) (hab : a ≠ .rws) : k ≠ j := by
  rintro rfl
  rw [h] at hj
  exact hab (Option.some.inj hj).symm
def tsetStep (b : State) (s : State) (n : Nat) : State :=
  if veState n s = 1 ∧ b.rd (VEN.PARK_TSET n) ≠ s.rd (VEN.PARK_TSET n) then
      s.modVe n fun v => { v with tset := s.rd (VEN.PARK_TSET n) }
    else s
def startStep (b : State) (e : Nat) (s : State) (n : Nat) : State :=
  if veState n s = 2 ∧ (s.veOf n).armKind = 2 ∧ batchStarts n b = true then s.modVe n fun v => { v with start := some e } else s
theorem modVe_land {n m : Nat} {y : Nat × List Staged} {s : State} {f : VeRun → VeRun} (hf : ∀ v, (f v).lands = v.lands) (h : y ∈ (s.veOf n).lands) : y ∈ ((s.modVe m f).veOf n).lands := by
  by_cases hn : n = m
  · subst hn; rw [veOf_modVe, hf]; exact h
  · rw [veOf_modVe_other _ hn]; exact h
theorem step_keep (b : State) (e n : Nat) (y : Nat × List Staged) (s : State) (m : Nat) (h : y ∈ (s.veOf n).lands) : y ∈ ((startStep b e s m).veOf n).lands := by
  unfold startStep
  split
  · exact modVe_land (fun _ => rfl) h
  · exact h
theorem tset_keep (b : State) (n : Nat) (y : Nat × List Staged) (s : State) (m : Nat) (h : y ∈ (s.veOf n).lands) : y ∈ ((tsetStep b s m).veOf n).lands := by
  unfold tsetStep
  split
  · exact modVe_land (fun _ => rfl) h
  · exact h
theorem off_reg (c t : Nat) (s : State) : (offAt c t s).reg = s.reg := offAt_keepsReg (s0 := s) c t s rfl
theorem park_reg (c x t : Nat) (s : State) : (parkAt c x t s).reg = s.reg := parkAt_keepsReg (s0 := s) c x t s rfl
theorem pins_reg (e : Nat) (b a : State) : (pinsAtE e b a).reg = a.reg := by
  unfold pinsAtE
  refine fold_reg (fun s x => ?_) _ _
  dsimp only
  split
  · rw [park_reg]; split
    · exact off_reg _ _ _
    · rfl
  · split
    · exact off_reg _ _ _
    · rfl
theorem fold_vez {α : Type} {f : State → α → State} (hf : ∀ s x, (f s x).ve = s.ve) : ∀ (l : List α) (s : State), (l.foldl f s).ve = s.ve
  | [], _ => rfl
  | a :: l, s => by rw [List.foldl_cons, fold_vez hf l, hf]
theorem pins_ve (e : Nat) (b a : State) : (pinsAtE e b a).ve = a.ve := by
  unfold pinsAtE
  refine fold_vez (fun s x => ?_) _ _
  dsimp only
  have ho : ∀ u : State, (offAt x e u).ve = u.ve := fun u => offAt_keepsVe (s0 := u) x e u rfl
  split
  · rw [parkAt_keepsVe (s0 := _) _ _ _ _ rfl]; split
    · exact ho _
    · rfl
  · split
    · exact ho _
    · rfl
theorem pins_veOf (e : Nat) (b a : State) (n : Nat) : (pinsAtE e b a).veOf n = a.veOf n := by
  unfold State.veOf; rw [pins_ve]
theorem settle_ve (s : State) : (settleStales s).ve = s.ve := by
  unfold settleStales
  refine fold_vez (fun s g => ?_) _ _
  unfold settleStale
  dsimp only
  rw [setBit_ve]
  split
  · rw [raise_ve]
  · rfl
theorem settle_veOf (s : State) (n : Nat) : (settleStales s).veOf n = s.veOf n := by unfold State.veOf; rw [settle_ve]
theorem settle_rd {k : Nat} (h : k ≠ EDG.STALE_GROUPS) (s : State) : (settleStales s).rd k = s.rd k :=
  (settleStales_fr (V := fun k => k = EDG.STALE_GROUPS) (M := True) s (fr_refl s) rfl).1 k h
theorem fold_clk {α : Type} {f : State → α → State} (hf : ∀ s x, (f s x).clk = s.clk) : ∀ (l : List α) (s : State), (l.foldl f s).clk = s.clk
  | [], _ => rfl
  | a :: l, s => by rw [List.foldl_cons, fold_clk hf l, hf]
theorem park_clk (c x t : Nat) (s : State) : (parkAt c x t s).clk = s.clk := by
  unfold parkAt; repeat' split
  all_goals rfl
theorem off_clk (c t : Nat) (s : State) : (offAt c t s).clk = s.clk := by
  unfold offAt; repeat' split
  all_goals rfl
theorem pins_clk (e : Nat) (b a : State) : (pinsAtE e b a).clk = a.clk := by
  unfold pinsAtE
  refine fold_clk (fun s x => ?_) _ _
  dsimp only
  split
  · rw [park_clk]; split
    · exact off_clk _ _ _
    · rfl
  · split
    · exact off_clk _ _ _
    · rfl
/-- The end of applyAt, from state u. -/
def applyEnd (z : Nat) (late : Bool) (u : State) : State :=
  let s := (u.wr HDI.APPLIED_AT z).wr HDI.APPLY_OUTCOME (if late then 2 else 1)
  let s := (releaseMirror s).raise 0
  if late then s.raise 1 else s
theorem applyEnd_facts (z : Nat) (late : Bool) (u : State) : (applyEnd z late u).rd HDI.APPLY_OUTCOME = (if late then 2 else 1) ∧
    (applyEnd z late u).rd HDI.APPLIED_AT = z ∧ (applyEnd z late u).rd HDI.MIRROR_OWNER = 0xFF ∧
    (applyEnd z late u).rd HDI.MIRROR_STATE = 0 ∧ (applyEnd z late u).hdi.mirror.batch = [] ∧ (applyEnd z late u).ve = u.ve ∧
    ∀ k, k ≠ HDI.APPLY_OUTCOME → k ≠ HDI.APPLIED_AT → k ≠ HDI.MIRROR_OWNER → k ≠ HDI.MIRROR_STATE → (applyEnd z late u).rd k = u.rd k := by
  have h : ∀ w : State, (if late then (w.raise 0).raise 1 else w.raise 0).hdi = w.hdi ∧ (if late then (w.raise 0).raise 1 else w.raise 0).ve = w.ve ∧ ∀ k, (if late then (w.raise 0).raise 1 else w.raise 0).rd k = w.rd k := by
    intro w
    split
    · exact ⟨by rw [raise_hdi, raise_hdi], by rw [raise_ve, raise_ve], fun k => by rw [rd_raise, rd_raise]⟩
    · exact ⟨raise_hdi _ _, raise_ve _ _, fun k => rd_raise _ _ _⟩
  have hr : ∀ w : State, (releaseMirror w).hdi.mirror = {} ∧ (releaseMirror w).ve = w.ve ∧ ∀ k, (releaseMirror w).rd k = ((w.wr HDI.MIRROR_OWNER 0xFF).wr HDI.MIRROR_STATE 0).rd k := fun w => ⟨rfl, rfl, fun _ => rfl⟩
  unfold applyEnd
  dsimp only
  have hv : ((u.wr HDI.APPLIED_AT z).wr HDI.APPLY_OUTCOME (if late then 2 else 1)).ve = u.ve := rfl
  refine ⟨?_, ?_, ?_, ?_, ?_, ?_, ?_⟩
  · rw [(h _).2.2, (hr _).2.2, rd_wr_other _ (by decide), rd_wr_other _ (by decide), rd_wr_same]
  · rw [(h _).2.2, (hr _).2.2, rd_wr_other _ (by decide), rd_wr_other _ (by decide), rd_wr_other _ (by decide), rd_wr_same]
  · rw [(h _).2.2, (hr _).2.2, rd_wr_other _ (by decide), rd_wr_same]
  · rw [(h _).2.2, (hr _).2.2, rd_wr_same]
  · rw [(h _).1, (hr _).1]
  · rw [(h _).2.1, (hr _).2.1]; exact hv
  · intro k h1 h2 h3 h4
    rw [(h _).2.2, (hr _).2.2, rd_wr_other _ h4, rd_wr_other _ h3, rd_wr_other _ h1, rd_wr_other _ h2]
def applyMid (e : Nat) (b : State) : State :=
  let later := (running b).map fun n => (n, landsLater n b)
  let waits := later.flatMap fun x => x.2.map (·.key)
  let a := (b.hdi.mirror.batch.filter fun x => !(waits.contains x.key)).foldl (fun s x => s.wr x.key x.val) b
  let a := later.foldl (landStep e) a
  let a := (List.range 32).foldl (tsetStep b) a
  let a := (List.range 32).foldl (startStep b e) a
  settleStales (pinsAtE e b a)
theorem applyAt_eq (e : Nat) (late : Bool) (s : State) : applyAt e late s = applyEnd (toTime128 (netAt (applyMid e (s.upto e)) e)) late (applyMid e (s.upto e)) := rfl
def syn (level : Bool) (e : Nat) (u : State) : State :=
  let mi := u.hdi.mirror
  if mirrorState u = 5 ∧ u.rd HDI.APPLY_MODE = 2 ∧ mi.edge = none then
    if level = false then u.modMirror fun x => { x with syncLow := true }
    else if mi.syncLow then u.modMirror fun x => { x with edge := some (e + u.rd HDI.SYNC_DELAY * ticksPerNs) }
    else u
  else u
theorem syn_facts (level : Bool) (e : Nat) (u : State) : (syn level e u).pins = u.pins ∧ (syn level e u).now = u.now ∧
    (mirrorState u = 5 → u.rd HDI.APPLY_MODE = 2 → u.hdi.mirror.edge = none →
      (level = false → (syn level e u).hdi.mirror.syncLow = true ∧ (syn level e u).hdi.mirror.edge = none) ∧
      (level = true → (syn level e u).hdi.mirror.edge =
        if u.hdi.mirror.syncLow then some (e + u.rd HDI.SYNC_DELAY * ticksPerNs) else none)) := by
  unfold syn
  dsimp only
  refine ⟨?_, ?_, fun h1 h2 h3 => ?_⟩
  · split
    · split
      · rfl
      · split <;> rfl
    · rfl
  · split
    · split
      · rfl
      · split <;> rfl
    · rfl
  · rw [if_pos ⟨h1, h2, h3⟩]
    refine ⟨fun h => ?_, fun h => ?_⟩
    · rw [if_pos h]; exact ⟨rfl, h3⟩
    · rw [if_neg (by rw [h]; decide)]
      by_cases h4 : u.hdi.mirror.syncLow = true
      · rw [if_pos h4, if_pos h4]; rfl
      · rw [if_neg h4, if_neg h4]; exact h3
end BatchFacts
open BatchFacts

theorem try_rd {n j : Nat} {s : State} (h1 : j ≠ TMU.EVFLAGS) (h2 : ∀ l, j ∉ [LNK.MESH_RESP l, TMU.LANE_FLAGS l, TMU.TXTS_LOST l, TMU.TXTS_MADE l, TMU.TXTS_READ l]) :
    (trySend n s).rd j = s.rd j :=
  (trySend_fr (V := fun j => ¬(j ≠ TMU.EVFLAGS ∧ ∀ l, j ∉ [LNK.MESH_RESP l, TMU.LANE_FLAGS l, TMU.TXTS_LOST l, TMU.TXTS_MADE l, TMU.TXTS_READ l])) (M := True) n s (fr_refl s)
    (fun u h => h.2 u (by simp)) (fun h => h.1 rfl) (fun u h => h.2 u (by simp)) (fun u h => h.2 u (by simp)) (fun u h => h.2 u (by simp)) (fun u h => h.2 u (by simp))).1 j (not_not.2 ⟨h1, h2⟩)
theorem flush_rd {j : Nat} (h1 : j ≠ TMU.EVFLAGS) (h2 : ∀ l, j ∉ [LNK.MESH_RESP l, TMU.LANE_FLAGS l, TMU.TXTS_LOST l, TMU.TXTS_MADE l, TMU.TXTS_READ l]) (k : Nat) :
    ∀ (i : Nat) (s : State), (flushSlot k i s).rd j = s.rd j
  | 0, _ => rfl
  | i + 1, s => by
    unfold flushSlot
    split
    · dsimp only
      rw [flush_rd h1 h2 k i, try_rd h1 h2]
      rfl
    · rfl
theorem stats_fold (k v : Nat) : ∀ (l : List Nat) (s : State), k ∈ l ∨ s.rd (HDI.STATS k) = v → (l.foldl (fun s k => s.wr (HDI.STATS k) v) s).rd (HDI.STATS k) = v
  | [], s, h => by simpa using h
  | a :: l, s, h => by
    rw [List.foldl_cons]
    refine stats_fold k v l _ ?_
    by_cases e : k = a
    · subst e; exact .inr (rd_wr_same _ _ _)
    · rw [rd_wr_other _ (by simp only [HDI.STATS]; omega)]
      simpa [e] using h
theorem stats_zero (k : Nat) (s : State) (h : k < 13) : (statsClear s).rd (HDI.STATS k) = 0 := stats_fold k 0 _ s (.inl (List.mem_range.2 h))
theorem vendor_facts (k : Nat) (w : State) : ∃ d b, (if w.dbg.vendor = some k then { w with dbg := { w.dbg with vendor := none } }.setBit DBG.STATUS 2 false else w) = { w with dbg := d, reg := b } ∧
    ∀ j, j ≠ DBG.STATUS → ({ w with dbg := d, reg := b } : State).rd j = w.rd j := by
  split
  · have h : ∀ u : State, ∃ b, u.setBit DBG.STATUS 2 false = { u with reg := b } ∧ ∀ j, j ≠ DBG.STATUS → ({ u with reg := b } : State).rd j = u.rd j := by
      intro u
      unfold State.setBit
      rw [if_neg (by decide)]
      split
      · exact ⟨_, rfl, fun j hj => rd_wr_other _ hj _⟩
      · exact ⟨u.reg, rfl, fun _ _ => rfl⟩
    obtain ⟨b, h1, h2⟩ := h { w with dbg := { w.dbg with vendor := none } }
    rw [h1]
    exact ⟨_, b, rfl, fun j hj => (h2 j hj).trans rfl⟩
  · exact ⟨w.dbg, w.reg, rfl, fun _ _ => rfl⟩
theorem release_facts {k : Nat} {u : State} (h : ¬(u.rd HDI.MIRROR_OWNER = k ∧ mirrorState u ≠ 5)) :
    (releaseSlot k u).slotOf k = {} ∧ (releaseSlot k u).masterOf k = {} ∧ (HDI.SLOT (k - 1) ≠ DBG.STATUS → (releaseSlot k u).rd (HDI.SLOT (k - 1)) = 0) ∧
    (releaseSlot k u).now = u.now ∧ ∀ j, j ≠ k → (releaseSlot k u).slotOf j = u.slotOf j ∧ (releaseSlot k u).masterOf j = u.masterOf j := by
  unfold releaseSlot
  dsimp only
  rw [if_neg h]
  obtain ⟨d, b, h1, h2⟩ := vendor_facts k ((u.wr (HDI.SLOT (k - 1)) 0).modSlot k fun _ => {})
  rw [h1]
  refine ⟨?_, ?_, ?_, rfl, ?_⟩
  · exact get_set_same (d := fun _ => ({} : SlotS)) u.hdi.slots k {}
  · exact masterOf_modMaster (s := _) k _
  · intro hne
    rw [rd_modMaster, h2 _ hne, rd_modSlot, rd_wr_same]
  · intro j hj
    refine ⟨?_, ?_⟩
    · exact get_set_other (d := fun _ => ({} : SlotS)) u.hdi.slots hj {}
    · exact (masterOf_modMaster_other (s := _) hj _).trans rfl
theorem flit_rest (p : List Nat) (f : Flit) (s : State) : (flitNoted p s f).resps = s.resps ∧ (flitNoted p s f).hdi = s.hdi := by
  unfold flitNoted mshFlag
  cases f <;> dsimp only <;> split <;> first | exact ⟨rfl, rfl⟩ | exact ⟨by rw [flag_resps, bump_resps], by rw [flag_hdi, bump_hdi]⟩
theorem flits_rest (p : List Nat) : ∀ (fl : List Flit) (s : State), (flitsNoted p fl s).resps = s.resps ∧ (flitsNoted p fl s).hdi = s.hdi
  | [], _ => ⟨rfl, rfl⟩
  | f :: fl, s => ⟨(flits_rest p fl _).1.trans (flit_rest p f s).1, (flits_rest p fl _).2.trans (flit_rest p f s).2⟩
/-- What the way of response x leaves before its source takes it: x itself, as it arrived, at the front of the responses. -/
theorem noteReturn_facts (fl : List Flit) (x : MeshResp) (s : State) : (noteReturn fl x s).resps = arrived fl x s :: s.resps.erase x ∧ (noteReturn fl x s).hdi = s.hdi ∧
    ∀ k, k ∉ [MSH.EVFLAGS, MSH.TLOST] → (∀ i, k ≠ MSH.PFLITS i ∧ k ≠ MSH.PPKTS i ∧ k ≠ MSH.LINK_CE i ∧ k ≠ MSH.LINK_UE i) → (noteReturn fl x s).rd k = s.rd k := by
  refine ⟨?_, ?_, fun k h1 h2 => ?_⟩
  · unfold noteReturn
    dsimp only
    rw [(flits_rest _ fl _).1]
    split
    · rfl
    · exact probesSee_keepsRespsTaken (s0 := { s with resps := arrived fl x s :: s.resps.erase x }) _ _ rfl
  · unfold noteReturn
    dsimp only
    rw [(flits_rest _ fl _).2]
    split
    · rfl
    · exact probesSee_keepsHdi (s0 := { s with resps := arrived fl x s :: s.resps.erase x }) _ _ rfl
  · exact (noteReturn_fr (V := fun k => ¬(k ∉ [MSH.EVFLAGS, MSH.TLOST] ∧ ∀ i, k ≠ MSH.PFLITS i ∧ k ≠ MSH.PPKTS i ∧ k ≠ MSH.LINK_CE i ∧ k ≠ MSH.LINK_UE i)) (M := True) fl x s (fr_refl s)
      (fun h => h.1 (by simp)) (fun u h => (h.2 u).1 rfl) (fun u h => (h.2 u).2.1 rfl) (fun h => h.1 (by simp)) (fun u h => (h.2 u).2.2.1 rfl) (fun u h => (h.2 u).2.2.2 rfl)).1 k (not_not.2 ⟨h1, h2⟩)
set_option Elab.async false in
/-- A response that can return is taken by its source, after its way is noted. -/
theorem del (r : MeshReq) (x : MeshResp) (kind : Nat) (fl : List Flit) (s : State) (hx : (s.resps.find? fun x => decide (x.req = r) && Nat.beq x.kind kind) = some x)
    (hc : canReturn x s = true) : deliver kind r fl s = respDone (arrived fl x s) (noteReturn fl x s) ∧ x.req = r ∧ x.kind = kind := by
  have h := List.find?_some hx
  simp only [Bool.and_eq_true, decide_eq_true_eq, Nat.beq_eq] at h
  refine ⟨?_, h.1, h.2⟩
  unfold deliver returnBy
  rw [hx]
  exact if_pos hc
end Sys2Proof.Laws.CompleteMirror
end

