-- ==== Sys2Proof/Laws/CompletePark.lean ====
section
/-! SUPPORT. The park of a vector engine's OUT channels when it stops (06 R182, R183). -/
namespace Sys2Proof.Laws.CompletePark
open Sys2Proof Sys2Proof.Machine Sys2Proof.Laws Sys2Proof.Laws.Common Sys2Proof.Laws.CompleteVe Sys2Proof.Laws.CompletePins
/-- The OUT channels of t are those of s. -/
def O (s t : State) : Prop := t.outCh = s.outCh
theorem O.trans {a b c : State} (h : O a b) (g : O b c) : O a c := Eq.trans g h
theorem O.after {a b c : State} (g : O b c) (h : O a b) : O a c := Eq.trans g h
theorem o_ite {s a b : State} {c : Prop} [Decidable c] (h : O s a) (g : O s b) : O s (if c then a else b) := by split <;> assumption
theorem o_note (s : State) (k b : Nat) : O s (s.note k b) := by unfold O State.note; simp
theorem o_qFlag (q b th : Nat) (s : State) : O s (qFlag q b th s) := by
  unfold qFlag O
  dsimp only
  split
  · exact o_note _ _ _
  · split <;> simp
theorem o_fold {α : Type} {f : State → α → State} (hf : ∀ s x, O s (f s x)) : ∀ (l : List α) (s : State), O s (l.foldl f s)
  | [], _ => rfl
  | x :: l, s => (hf s x).trans (o_fold hf l _)
theorem o_stopOne (n code th : Nat) (s : State) : O s (fcpStopOne n code th s) := by
  unfold fcpStopOne
  extract_lets old s1 s2
  have h1 : O s s1 := o_ite rfl rfl
  have h2 : O s s2 := h1.trans (o_qFlag _ _ _ _)
  exact o_ite (h2.trans rfl) h2
theorem o_stop (n code p th : Nat) (s : State) : O s (fcpStop n code p th s) := by
  unfold fcpStop
  dsimp only
  split
  · refine (o_stopOne _ _ _ _).trans (o_fold (fun s m => ?_) _ _)
    split
    · exact o_stopOne _ _ _ _
    · rfl
  · exact o_stopOne _ _ _ _
theorem o_drop (n c p th : Nat) (s : State) : O s (fcpDrop n c p th s) := by
  unfold fcpDrop
  dsimp only
  have h1 : O s (qFlag n 1 th (s.bump 64 c)) := O.trans (b := s.bump 64 c) rfl (o_qFlag _ _ _ _)
  split
  · exact h1.trans (O.trans (b := (State.modFcp _ _ _)) rfl (o_stop _ _ _ _ _))
  · exact h1.trans rfl
theorem o_form (n th : Nat) (r : FailRec) (s : State) : O s (formRecord n th r s) := by
  unfold formRecord
  exact o_ite rfl (o_ite rfl (O.trans (a := s) (b := s.bump 64 (FCP.REC_FORMED n)) rfl (o_drop _ _ _ _ _)))
theorem o_bm (n th : Nat) (r : BmOp) (s : State) : O s (formBitmap n th r s) := by
  unfold formBitmap
  exact o_ite rfl (O.trans (a := s) (b := s.bump 64 (FCP.BM_FORMED n)) rfl (o_drop _ _ _ _ _))
theorem o_closeMark (n th : Nat) (s : State) : O s (closeMark n th s) := by
  unfold closeMark
  split
  · rfl
  · refine O.trans (b := closeRecord n th s) ?_ ?_
    · unfold closeRecord
      split
      · exact o_form _ _ _ _
      · rfl
    · unfold closeBitmap
      split
      · exact o_bm _ _ _ _
      · rfl
theorem o_left (n b : Nat) (s : State) : O s (barrierLeft n b s) := by
  unfold barrierLeft
  refine o_fold (fun s m => ?_) _ _
  show O s (match (s.veOf m).bar with | some (mask, _) => _ | none => s)
  split
  · exact o_ite rfl rfl
  · rfl
theorem o_reopen (s : State) : O s (reopen s) := by
  unfold reopen
  extract_lets s1
  have : O s s1 := by
    refine o_ite ?_ rfl
    unfold disarmTo
    have h : O s (disarmStarts s) := by
      unfold disarmStarts
      refine o_fold (fun s n => ?_) _ _
      exact o_ite (O.after (o_left _ _ _) rfl) rfl
    unfold O restartLease
    simp only [wr_outCh, modMirror_outCh]
    exact h
  exact this.trans (raise_outCh _ _)
theorem o_enter (n c : Nat) (s : State) : O s (veEnter n c s) := by
  unfold veEnter engineChanged reopenIf
  split
  · exact O.trans (b := s.wr _ _) rfl (o_reopen _)
  · rfl
theorem outOf_of {s t : State} (h : O s t) (c : Nat) : t.outOf c = s.outOf c := by unfold State.outOf; rw [h]

theorem undrop_out (c h : Nat) (s : State) (d : Nat) : ((undrop c h s).outOf d).edges = (s.outOf d).edges ∧ ((undrop c h s).outOf d).l = (s.outOf d).l ∧
    ((undrop c h s).outOf d).n = (s.outOf d).n ∧ (undrop c h s).now = s.now ∧ (undrop c h s).reg = s.reg ∧ (undrop c h s).ve = s.ve := by
  unfold undrop
  generalize (s.outOf c).drops.filter _ = l
  induction l generalizing s with
  | nil => exact ⟨rfl, rfl, rfl, rfl, rfl, rfl⟩
  | cons t l ih =>
    rw [List.foldl_cons]
    have g := ih (({ s with evq := s.evq.erase (t, 128 + 2 * (c / 8)) } : State).modOut c fun ch => { ch with drops := ch.drops.erase t })
    have q : (({ s with evq := s.evq.erase (t, 128 + 2 * (c / 8)) } : State).modOut c fun ch => { ch with drops := ch.drops.erase t }).outOf d =
        if d = c then { s.outOf c with drops := (s.outOf c).drops.erase t } else s.outOf d := by
      by_cases hd : d = c
      · subst hd; rw [outOf_modOut, if_pos rfl]; rfl
      · rw [outOf_modOut_other _ hd, if_neg hd]; rfl
    rw [q] at g
    refine ⟨g.1.trans ?_, g.2.1.trans ?_, g.2.2.1.trans ?_, g.2.2.2.1, g.2.2.2.2.1, g.2.2.2.2.2⟩ <;> (split <;> first | rfl | (rename_i h; rw [h]))

/-- Channel c of t is that of s with its edges cut at h. -/
def Cut (h : Nat) (a b : OutCh) : Prop := b.edges = a.edges.filter (fun x => Nat.blt x.1 h) ∧ b.l = a.l ∧ b.n = a.n
/-- t has the time, the members and the engines of s. -/
def Same (s t : State) : Prop := t.now = s.now ∧ t.reg = s.reg ∧ t.ve = s.ve

theorem suppress_out (n h : Nat) : ∀ (ps : List (Nat × Nat)) (s : State), (ps.map (·.2)).Nodup →
    let t := ps.foldl (fun s e => (undrop e.2 h s).modOut e.2 fun ch =>
      { ch with edges := ch.edges.filter (fun x => Nat.blt x.1 h), lastData := none, lastEn := none }) s
    Same s t ∧ (∀ c ∈ ps.map (·.2), Cut h (s.outOf c) (t.outOf c)) ∧ ∀ c, c ∉ ps.map (·.2) → (t.outOf c).edges = (s.outOf c).edges ∧ (t.outOf c).l = (s.outOf c).l ∧ (t.outOf c).n = (s.outOf c).n
  | [], s, _ => ⟨⟨rfl, rfl, rfl⟩, by simp, fun _ _ => ⟨rfl, rfl, rfl⟩⟩
  | e :: ps, s, hn => by
    rw [List.map_cons, List.nodup_cons] at hn
    have u := undrop_out e.2 h s
    have g := suppress_out n h ps ((undrop e.2 h s).modOut e.2 fun ch =>
      { ch with edges := ch.edges.filter (fun x => Nat.blt x.1 h), lastData := none, lastEn := none }) hn.2
    dsimp only at g ⊢
    rw [List.foldl_cons]
    refine ⟨⟨g.1.1.trans (u 0).2.2.2.1, g.1.2.1.trans (u 0).2.2.2.2.1, g.1.2.2.trans (u 0).2.2.2.2.2⟩, fun c hc => ?_, fun c hc => ?_⟩
    · rw [List.map_cons, List.mem_cons] at hc
      rcases hc with rfl | hc
      · have k := g.2.2 _ hn.1
        rw [outOf_modOut] at k
        exact ⟨k.1.trans (by rw [(u e.2).1]), k.2.1.trans (u e.2).2.1, k.2.2.trans (u e.2).2.2.1⟩
      · have ne : c ≠ e.2 := fun x => hn.1 (x ▸ hc)
        have k := g.2.1 c hc
        rw [outOf_modOut_other _ ne] at k
        exact ⟨k.1.trans (by rw [(u c).1]), k.2.1.trans (u c).2.1, k.2.2.trans (u c).2.2.1⟩
    · rw [List.map_cons, List.mem_cons, not_or] at hc
      have k := g.2.2 c hc.2
      rw [outOf_modOut_other _ hc.1] at k
      exact ⟨k.1.trans (u c).1, k.2.1.trans (u c).2.1, k.2.2.trans (u c).2.2.1⟩

theorem park_out (n b : Nat) : ∀ (ps : List (Nat × Nat)) (s : State), (ps.map (·.2)).Nodup →
    let t := ps.foldl (fun s e => parkAt e.2 (s.rd (EDG.OTSET e.2 (s.veOf n).tset)) b s) s
    ∀ c ∈ ps.map (·.2), t.outOf c = (parkAt c (s.rd (EDG.OTSET c (s.veOf n).tset)) b s).outOf c
  | [], s, _ => by simp
  | e :: ps, s, hn => by
    rw [List.map_cons, List.nodup_cons] at hn
    dsimp only
    have rest : ∀ (qs : List (Nat × Nat)) (s : State) (c : Nat), c ∉ qs.map (·.2) → (qs.foldl (fun s e => parkAt e.2 (s.rd (EDG.OTSET e.2 (s.veOf n).tset)) b s) s).outOf c = s.outOf c := by
      intro qs
      induction qs with
      | nil => intros; rfl
      | cons q qs ih =>
        intro s c hc
        rw [List.map_cons, List.mem_cons, not_or] at hc
        rw [List.foldl_cons, ih _ _ hc.2]
        exact outOf_modOut_other _ hc.1 _
    intro c hc
    rw [List.map_cons, List.mem_cons] at hc
    rw [List.foldl_cons]
    rcases hc with rfl | hc
    · exact rest _ _ _ hn.1
    · have ne : c ≠ e.2 := fun x => hn.1 (x ▸ hc)
      have g := park_out n b ps (parkAt e.2 (s.rd (EDG.OTSET e.2 (s.veOf n).tset)) b s) hn.2 c hc
      refine g.trans ?_
      unfold parkAt
      rw [outOf_modOut, outOf_modOut]
      rw [outOf_modOut_other _ ne]
      rfl

theorem levels_lt {ch : OutCh} {b u : Nat} (h : ∀ e ∈ ch.edges, e.1 < b) (hb : b ≤ u) : ch.levels u = ch.levels b := by
  unfold OutCh.levels
  congr 1
  apply List.filter_congr
  intro e he
  have := h e he
  rw [Bool.eq_iff_iff, Nat.ble_eq, Nat.ble_eq]; omega

theorem parked_of {n b : Nat} {s s2 t : State} (hn : n < 32) (hd : ((outMap n s).map (·.2)).Nodup) (e12 : PK (s.upto b) s2)
    (ets : (s2.veOf n).tset = (s.veOf n).tset) (erd : ∀ k, k ≠ VEN.PTO_LEFT n → s2.rd k = s.rd k)
    (ht : O (parkEngine n b (suppressFrom n b s2)) t) : Parked n b s t := by
  have m2 := (pk_map e12 hn).1
  have om : outMap n s2 = outMap n s := m2
  have now1 : s2.now = max s.now b := e12.2.2.2.1
  have ot : ∀ c, s2.outOf c = s.outOf c := by intro c; unfold State.outOf; rw [e12.1]; rfl
  have sup := suppress_out n b (outMap n s2) s2 (by rw [om]; exact hd)
  change Same s2 (suppressFrom n b s2) ∧ _ at sup
  have m4 : outMap n (suppressFrom n b s2) = outMap n s2 := by unfold outMap mapOf; rw [sup.1.2.1]
  have par := park_out n b (outMap n (suppressFrom n b s2)) (suppressFrom n b s2) (by rw [m4, om]; exact hd)
  intro p c' hpc
  have hc : c' ∈ (outMap n (suppressFrom n b s2)).map (·.2) := by rw [m4, om]; exact List.mem_map.2 ⟨_, hpc, rfl⟩
  have k := par c' hc
  have k2 : Cut b (s2.outOf c') ((suppressFrom n b s2).outOf c') := sup.2.1 c' (by rw [← m4]; exact hc)
  have e4 : t.outOf c' = (parkAt c' ((suppressFrom n b s2).rd (EDG.OTSET c' ((suppressFrom n b s2).veOf n).tset)) b (suppressFrom n b s2)).outOf c' := by
    rw [outOf_of ht]; exact k
  have et : (suppressFrom n b s2).rd (EDG.OTSET c' ((suppressFrom n b s2).veOf n).tset) = s.rd (EDG.OTSET c' (s.veOf n).tset) := by
    have : ((suppressFrom n b s2).veOf n).tset = (s.veOf n).tset := by rw [← ets]; unfold State.veOf; rw [sup.1.2.2]
    rw [this]
    have : ∀ k, (suppressFrom n b s2).rd k = s2.rd k := fun k => by unfold State.rd; rw [sup.1.2.1]
    rw [this, erd _ (by unfold EDG.OTSET VEN.PTO_LEFT; omega)]
  rw [et] at e4
  intro park before
  unfold parkAt at e4
  rw [outOf_modOut, ] at e4
  have now2 : (suppressFrom n b s2).now = max s.now b := sup.1.1.trans now1
  generalize hq : (suppressFrom n b s2).outOf c' = q at e4 k2
  rw [ot] at k2
  have qe : ∀ e ∈ q.edges, e.1 < b := by
    intro e he; rw [k2.1, List.mem_filter] at he; exact (by simpa [Nat.blt_eq] using he.2)
  have ql : ∀ u, q.levels u = before.levels u := by
    intro u
    unfold OutCh.levels
    rw [k2.1, k2.2.1, k2.2.2]
  have qs : q.settle (max s.now b) = { q with l := (before.levels b).1, n := (before.levels b).2, edges := [] } := by
    unfold OutCh.settle
    have : q.edges.filter (fun e => Nat.blt (max s.now b) e.1) = [] := by
      rw [List.filter_eq_nil_iff]
      intro e he
      have := qe e he
      rw [Nat.blt_eq]; omega
    rw [this, levels_lt qe (by omega), ql]
  rw [now2, qs] at e4
  rw [e4]
  have pk : outPark (s.rd (EDG.OTSET c' (s.veOf n).tset)) = park := rfl
  rw [pk]
  generalize park = pa
  dsimp only
  unfold OutCh.levels
  rcases pa with _ | _ | _ | pa
  · simp [EdgeOp.app]
  · simp [EdgeOp.app]
  · simp [EdgeOp.app]
  · simp
theorem pto_facts (n b : Nat) (s : State) : let s2 := match (s.veOf n).ptoEnd with
    | some e => (s.wr (VEN.PTO_LEFT n) ((e - b + 8191) / 8192)).modVe n fun v =>
        { v with ptoEnd := none, ptoErr := if e ≤ b then some (e + 20 * ticksPerNs) else v.ptoErr }
    | none => s
    n < 32 → PK s s2 ∧ (s2.veOf n).tset = (s.veOf n).tset ∧ (s2.veOf n).lands = (s.veOf n).lands ∧ ∀ k, k ≠ VEN.PTO_LEFT n → s2.rd k = s.rd k := by
  intro s2 hn
  show PK s (match (s.veOf n).ptoEnd with | some e => _ | none => s) ∧ ((match (s.veOf n).ptoEnd with | some e => _ | none => s : State).veOf n).tset = _ ∧
      ((match (s.veOf n).ptoEnd with | some e => _ | none => s : State).veOf n).lands = _ ∧ ∀ k, k ≠ VEN.PTO_LEFT n → (match (s.veOf n).ptoEnd with | some e => _ | none => s : State).rd k = _
  split
  · refine ⟨(pk_wr _ ?_).trans (pk_modVe _ _ _), ?_, ?_, ?_⟩
    · by_contra h
      simp only [mapKey, VEN.PTO_LEFT, Bool.not_eq_false, Bool.and_eq_true, Nat.ble_eq, Nat.blt_eq] at h
      omega
    · rw [veOf_modVe]; rfl
    · rw [veOf_modVe]; rfl
    · intro k hk; rw [rd_modVe, rd_wr_other _ hk]
  · exact ⟨pk_refl _, rfl, rfl, fun _ _ => rfl⟩
theorem landAll_none {n b : Nat} {s : State} (h : (s.veOf n).lands = []) : landAll n b s = s := by
  unfold landAll landTo landDue
  rw [h]; rfl
theorem o_stopTail (n b c : Nat) (s5 : State) :
    O s5 (
      let s := s5.modVe n fun e => { e with haltAt := none, resumeAt := none, runOff := if veState n s5 = 3 then b else e.runOff }
      if c = 4 then veEnter n 4 s
      else
        let s := s.modVe n fun e =>
          { e with stopAt := none, endAt := none, bar := none, barErr := none, ptoErr := none, offAt := b,
                   stale := e.stale ++ e.inflight, inflight := [] }
        let s := s.setBit (VEN.FLAGS n) 6 false
        barrierLeft n b (veEnter n c (s.modTgt (1 + n) fun g => { g with pend := false, held := false, left := none }))) := by
  refine o_ite (O.after (o_enter _ _ _) rfl) (O.after (o_left _ _ _) (O.after (o_enter _ _ _) ?_))
  unfold O
  simp
theorem stop_parked (n b c : Nat) (s : State) (hn : n < 32) (hl : (s.veOf n).lands = []) (hd : ((outMap n s).map (·.2)).Nodup) :
    Parked n b s (veStopAt n b c s) := by
  have e := pto_facts n b (s.upto b) hn
  unfold veStopAt
  refine parked_of hn hd e.1 (e.2.1.trans rfl) (fun k hk => (e.2.2.2 k hk).trans rfl) ?_
  refine O.trans ?_ (o_stopTail n b c _)
  refine O.after (o_closeMark _ _ _) ?_
  exact congrArg (fun x => (parkEngine n b (suppressFrom n b x)).outCh) (landAll_none (e.2.2.1.trans hl))
theorem parked_out {n b : Nat} {s t u : State} (h : Parked n b s t) (g : O t u) : Parked n b s u := by
  intro p c hp
  rw [outOf_of g]
  exact h p c hp
end Sys2Proof.Laws.CompletePark
end

