-- ==== Sys2Proof/Laws/KeepsDsp.lean ====
section
/-! SUPPORT. State.dsp: what the operations it lists leave unchanged. -/
set_option linter.unreachableTactic false
set_option linter.unusedSimpArgs false
set_option linter.unusedTactic false
namespace Sys2Proof.Laws
open Sys2Proof.Machine
section
variable {s0 : State}
def KeepsDsp (s0 s : State) : Prop := s.dsp = s0.dsp
theorem keepsDsp_ite {c : Prop} [Decidable c] {x y : State} (hx : KeepsDsp s0 x) (hy : KeepsDsp s0 y) : KeepsDsp s0 (if c then x else y) := by split <;> assumption
theorem keepsDsp_foldl {β : Type} {f : State → β → State} (hf : ∀ s x, KeepsDsp s0 s → KeepsDsp s0 (f s x)) :
    ∀ {l : List β} {s : State}, KeepsDsp s0 s → KeepsDsp s0 (l.foldl f s)
  | [], _, h => h
  | x :: l, s, h => keepsDsp_foldl (l := l) hf (hf s x h)
theorem keepsDsp_cut {s : State} {p : Prop} (h : KeepsDsp s0 s) (f : KeepsDsp s0 s → p) : p := f h
theorem wr_keepsDsp (k v : Nat) (s : State) (h : KeepsDsp s0 s) : KeepsDsp s0 (s.wr k v) := h
theorem keepsDsp_mk_iff {s : State} {x_now : Nat} {x_reg : Tab Nat} {x_mem : List Host.Cell} {x_evq : List (Nat × Nat)} {x_freeCtr : Nat} {x_pending : List Instr} {x_hdi : HdiS} {x_clk : ClockS} {x_sched : List Sched} {x_ve : Tab VeRun} {x_outCh : Tab OutCh} {x_inCh : Tab InCh} {x_fcp : Tab FcpS} {x_sq : Tab SqS} {x_brk : Tab BrkS} {x_tgt : Tab TgtS} {x_groupAt : List (Nat × Nat)} {x_focus : FocusS} {x_trim : TrimS} {x_reqs : List MeshReq} {x_resps : List MeshResp} {x_held : List PortReq} {x_steal : List PortReq} {x_labels : List (MeshReq × Nat)} {x_drain : Option Drain} {x_trace : List Nat} {x_dmc : Tab DmcS} {x_autoTrain : Bool} {x_crh : CrhS} {x_cfg : CfgS} {x_fresh : List (Nat × Nat × Nat)} {x_cleared : List (Nat × Nat × Nat)} {x_sup : SupS} {x_dbg : DbgS} {x_tmu : TmuS} {x_lanes : Tab LaneS} {x_cells : Tab (Option CellS)} {x_cellCfg : Tab CellCfg} {x_sels : Tab Nat} {x_tracks : Tab Nat} {x_upsets : List Upset} {x_facets : Tab FacetS} {x_fev : List (Nat × Nat)} {x_panes : Tab PaneS} {x_banks : Tab BankS} {x_pins : PinsS} :
    KeepsDsp s0 ⟨x_now, x_reg, x_mem, x_evq, x_freeCtr, x_pending, x_hdi, x_clk, x_sched, x_ve, x_outCh, x_inCh, x_fcp, x_sq, x_brk, x_tgt, x_groupAt, s.dsp, x_focus, x_trim, x_reqs, x_resps, x_held, x_steal, x_labels, x_drain, x_trace, x_dmc, x_autoTrain, x_crh, x_cfg, x_fresh, x_cleared, x_sup, x_dbg, x_tmu, x_lanes, x_cells, x_cellCfg, x_sels, x_tracks, x_upsets, x_facets, x_fev, x_panes, x_banks, x_pins⟩ ↔ KeepsDsp s0 s := Iff.rfl
theorem raiseAt_keepsDsp (s : State) (t e : Nat) (hs : KeepsDsp s0 s) :
    KeepsDsp s0 (State.raiseAt s t e) := by
  unfold State.raiseAt
  repeat' first
    | with_reducible intro _
    | with_reducible assumption
    | simp only [↓keepsDsp_mk_iff]
    | with_reducible apply keepsDsp_ite
    | (extract_lets x; first | (with_reducible refine keepsDsp_cut (s := x) ?_ ?_; (on_goal 2 => clear_value x); (on_goal 1 => unfold x)) | (subst x))
    | split

theorem raise_keepsDsp (s : State) (e : Nat) (hs : KeepsDsp s0 s) :
    KeepsDsp s0 (State.raise s e) := by
  unfold State.raise
  repeat' first
    | with_reducible intro _
    | with_reducible assumption
    | with_reducible apply raiseAt_keepsDsp
    | simp only [↓keepsDsp_mk_iff]
    | with_reducible apply keepsDsp_ite
    | (extract_lets x; first | (with_reducible refine keepsDsp_cut (s := x) ?_ ?_; (on_goal 2 => clear_value x); (on_goal 1 => unfold x)) | (subst x))
    | split

theorem setBit_keepsDsp (s : State) (k b : Nat) (v : Bool) (hs : KeepsDsp s0 s) :
    KeepsDsp s0 (State.setBit s k b v) := by
  unfold State.setBit
  repeat' first
    | with_reducible intro _
    | with_reducible assumption
    | with_reducible apply wr_keepsDsp
    | with_reducible apply keepsDsp_ite
    | split

theorem modVe_keepsDsp (s : State) (n : Nat) (f : VeRun → VeRun) (hs : KeepsDsp s0 s) :
    KeepsDsp s0 (State.modVe s n f) := by
  unfold State.modVe
  repeat' first
    | with_reducible intro _
    | with_reducible assumption
    | simp only [↓keepsDsp_mk_iff]

theorem modMirror_keepsDsp (s : State) (f : MirrorS → MirrorS) (hs : KeepsDsp s0 s) :
    KeepsDsp s0 (State.modMirror s f) := by
  unfold State.modMirror
  repeat' first
    | with_reducible intro _
    | with_reducible assumption
    | simp only [↓keepsDsp_mk_iff]

theorem restartLease_keepsDsp (s : State) (hs : KeepsDsp s0 s) :
    KeepsDsp s0 (restartLease s) := by
  unfold restartLease
  repeat' first
    | with_reducible intro _
    | with_reducible assumption
    | with_reducible apply modMirror_keepsDsp
    | simp only [↓keepsDsp_mk_iff]

theorem barrierLeft_keepsDsp (n at' : Nat) (s : State) (hs : KeepsDsp s0 s) :
    KeepsDsp s0 (barrierLeft n at' s) := by
  unfold barrierLeft
  repeat' first
    | with_reducible intro _
    | with_reducible assumption
    | with_reducible apply modVe_keepsDsp
    | simp only [↓keepsDsp_mk_iff]
    | with_reducible apply keepsDsp_ite
    | with_reducible apply keepsDsp_foldl
    | split

theorem disarmStarts_keepsDsp (s : State) (hs : KeepsDsp s0 s) :
    KeepsDsp s0 (disarmStarts s) := by
  unfold disarmStarts
  repeat' first
    | with_reducible intro _
    | with_reducible assumption
    | with_reducible apply wr_keepsDsp
    | with_reducible apply modVe_keepsDsp
    | with_reducible apply barrierLeft_keepsDsp
    | simp only [↓keepsDsp_mk_iff]
    | with_reducible apply keepsDsp_ite
    | with_reducible apply keepsDsp_foldl
    | (extract_lets x; first | (with_reducible refine keepsDsp_cut (s := x) ?_ ?_; (on_goal 2 => clear_value x); (on_goal 1 => unfold x)) | (subst x))
    | split

theorem disarmTo_keepsDsp (c : Nat) (s : State) (hs : KeepsDsp s0 s) :
    KeepsDsp s0 (disarmTo c s) := by
  unfold disarmTo
  repeat' first
    | with_reducible intro _
    | with_reducible assumption
    | with_reducible apply restartLease_keepsDsp
    | with_reducible apply disarmStarts_keepsDsp
    | with_reducible apply wr_keepsDsp
    | with_reducible apply modMirror_keepsDsp
    | simp only [↓keepsDsp_mk_iff]

theorem reopen_keepsDsp (s : State) (hs : KeepsDsp s0 s) :
    KeepsDsp s0 (reopen s) := by
  unfold reopen
  repeat' first
    | with_reducible intro _
    | with_reducible assumption
    | with_reducible apply disarmTo_keepsDsp
    | with_reducible apply wr_keepsDsp
    | with_reducible apply raise_keepsDsp
    | with_reducible apply keepsDsp_ite
    | (extract_lets x; first | (with_reducible refine keepsDsp_cut (s := x) ?_ ?_; (on_goal 2 => clear_value x); (on_goal 1 => unfold x)) | (subst x))
    | split

theorem reopenIf_keepsDsp (c : Bool) (s : State) (hs : KeepsDsp s0 s) :
    KeepsDsp s0 (reopenIf c s) := by
  unfold reopenIf
  repeat' first
    | with_reducible intro _
    | with_reducible assumption
    | with_reducible apply reopen_keepsDsp
    | with_reducible apply keepsDsp_ite
    | split

theorem engineChanged_keepsDsp (n : Nat) (s : State) (hs : KeepsDsp s0 s) :
    KeepsDsp s0 (engineChanged n s) := by
  unfold engineChanged
  repeat' first
    | with_reducible intro _
    | with_reducible assumption
    | with_reducible apply reopenIf_keepsDsp

theorem veEnter_keepsDsp (n c : Nat) (s : State) (hs : KeepsDsp s0 s) :
    KeepsDsp s0 (veEnter n c s) := by
  unfold veEnter
  repeat' first
    | with_reducible intro _
    | with_reducible assumption
    | with_reducible apply engineChanged_keepsDsp
    | with_reducible apply wr_keepsDsp

theorem schedFree_keepsDsp (dsp : Bool) (n : Nat) (s : State) (hs : KeepsDsp s0 s) :
    KeepsDsp s0 (schedFree dsp n s) := by
  unfold schedFree
  repeat' first
    | with_reducible intro _
    | with_reducible assumption
    | simp only [↓keepsDsp_mk_iff]

theorem veStopEff_keepsDsp (n : Nat) (s : State) (hs : KeepsDsp s0 s) :
    KeepsDsp s0 (veStopEff n s) := by
  unfold veStopEff
  repeat' first
    | with_reducible intro _
    | with_reducible assumption
    | with_reducible apply schedFree_keepsDsp
    | with_reducible apply setBit_keepsDsp
    | with_reducible apply barrierLeft_keepsDsp
    | with_reducible apply veEnter_keepsDsp
    | with_reducible apply modVe_keepsDsp
    | simp only [↓keepsDsp_mk_iff]
    | with_reducible apply keepsDsp_ite
    | (extract_lets x; first | (with_reducible refine keepsDsp_cut (s := x) ?_ ?_; (on_goal 2 => clear_value x); (on_goal 1 => unfold x)) | (subst x))
    | split
end

set_option Elab.async false in
theorem dropArmed_keepsDsp (s : State) (hs : KeepsDsp s0 s) :
    KeepsDsp s0 (dropArmed s) := by
  unfold dropArmed
  repeat' first
    | with_reducible intro _
    | with_reducible assumption
    | with_reducible apply disarmTo_keepsDsp
    | with_reducible apply wr_keepsDsp
    | with_reducible apply raise_keepsDsp
    | with_reducible apply keepsDsp_ite
    | split

end Sys2Proof.Laws
end

