-- ==== Sys2Proof/Laws/KeepsSup.lean ====
section
/-! SUPPORT. State.sup: what the operations it lists leave unchanged. -/
set_option linter.unreachableTactic false
set_option linter.unusedSimpArgs false
set_option linter.unusedTactic false
namespace Sys2Proof.Laws
open Sys2Proof.Machine
section
variable {s0 : State}
def KeepsSup (s0 s : State) : Prop := s.sup = s0.sup
theorem keepsSup_ite {c : Prop} [Decidable c] {x y : State} (hx : KeepsSup s0 x) (hy : KeepsSup s0 y) : KeepsSup s0 (if c then x else y) := by split <;> assumption
theorem keepsSup_foldl {β : Type} {f : State → β → State} (hf : ∀ s x, KeepsSup s0 s → KeepsSup s0 (f s x)) :
    ∀ {l : List β} {s : State}, KeepsSup s0 s → KeepsSup s0 (l.foldl f s)
  | [], _, h => h
  | x :: l, s, h => keepsSup_foldl (l := l) hf (hf s x h)
theorem keepsSup_cut {s : State} {p : Prop} (h : KeepsSup s0 s) (f : KeepsSup s0 s → p) : p := f h
theorem wr_keepsSup (k v : Nat) (s : State) (h : KeepsSup s0 s) : KeepsSup s0 (s.wr k v) := h
theorem keepsSup_mk_iff {s : State} {x_now : Nat} {x_reg : Tab Nat} {x_mem : List Host.Cell} {x_evq : List (Nat × Nat)} {x_freeCtr : Nat} {x_pending : List Instr} {x_hdi : HdiS} {x_clk : ClockS} {x_sched : List Sched} {x_ve : Tab VeRun} {x_outCh : Tab OutCh} {x_inCh : Tab InCh} {x_fcp : Tab FcpS} {x_sq : Tab SqS} {x_brk : Tab BrkS} {x_tgt : Tab TgtS} {x_groupAt : List (Nat × Nat)} {x_dsp : Tab DspRun} {x_focus : FocusS} {x_trim : TrimS} {x_reqs : List MeshReq} {x_resps : List MeshResp} {x_held : List PortReq} {x_steal : List PortReq} {x_labels : List (MeshReq × Nat)} {x_drain : Option Drain} {x_trace : List Nat} {x_dmc : Tab DmcS} {x_autoTrain : Bool} {x_crh : CrhS} {x_cfg : CfgS} {x_fresh : List (Nat × Nat × Nat)} {x_cleared : List (Nat × Nat × Nat)} {x_dbg : DbgS} {x_tmu : TmuS} {x_lanes : Tab LaneS} {x_cells : Tab (Option CellS)} {x_cellCfg : Tab CellCfg} {x_sels : Tab Nat} {x_tracks : Tab Nat} {x_upsets : List Upset} {x_facets : Tab FacetS} {x_fev : List (Nat × Nat)} {x_panes : Tab PaneS} {x_banks : Tab BankS} {x_pins : PinsS} :
    KeepsSup s0 ⟨x_now, x_reg, x_mem, x_evq, x_freeCtr, x_pending, x_hdi, x_clk, x_sched, x_ve, x_outCh, x_inCh, x_fcp, x_sq, x_brk, x_tgt, x_groupAt, x_dsp, x_focus, x_trim, x_reqs, x_resps, x_held, x_steal, x_labels, x_drain, x_trace, x_dmc, x_autoTrain, x_crh, x_cfg, x_fresh, x_cleared, s.sup, x_dbg, x_tmu, x_lanes, x_cells, x_cellCfg, x_sels, x_tracks, x_upsets, x_facets, x_fev, x_panes, x_banks, x_pins⟩ ↔ KeepsSup s0 s := Iff.rfl
theorem raiseAt_keepsSup (s : State) (t e : Nat) (hs : KeepsSup s0 s) :
    KeepsSup s0 (State.raiseAt s t e) := by
  unfold State.raiseAt
  repeat' first
    | with_reducible intro _
    | with_reducible assumption
    | simp only [↓keepsSup_mk_iff]
    | with_reducible apply keepsSup_ite
    | (extract_lets x; first | (with_reducible refine keepsSup_cut (s := x) ?_ ?_; (on_goal 2 => clear_value x); (on_goal 1 => unfold x)) | (subst x))
    | split

theorem raise_keepsSup (s : State) (e : Nat) (hs : KeepsSup s0 s) :
    KeepsSup s0 (State.raise s e) := by
  unfold State.raise
  repeat' first
    | with_reducible intro _
    | with_reducible assumption
    | with_reducible apply raiseAt_keepsSup
    | simp only [↓keepsSup_mk_iff]
    | with_reducible apply keepsSup_ite
    | (extract_lets x; first | (with_reducible refine keepsSup_cut (s := x) ?_ ?_; (on_goal 2 => clear_value x); (on_goal 1 => unfold x)) | (subst x))
    | split

theorem setBit_keepsSup (s : State) (k b : Nat) (v : Bool) (hs : KeepsSup s0 s) :
    KeepsSup s0 (State.setBit s k b v) := by
  unfold State.setBit
  repeat' first
    | with_reducible intro _
    | with_reducible assumption
    | with_reducible apply wr_keepsSup
    | with_reducible apply keepsSup_ite
    | split

theorem modVe_keepsSup (s : State) (n : Nat) (f : VeRun → VeRun) (hs : KeepsSup s0 s) :
    KeepsSup s0 (State.modVe s n f) := by
  unfold State.modVe
  repeat' first
    | with_reducible intro _
    | with_reducible assumption
    | simp only [↓keepsSup_mk_iff]

theorem modDsp_keepsSup (s : State) (n : Nat) (f : DspRun → DspRun) (hs : KeepsSup s0 s) :
    KeepsSup s0 (State.modDsp s n f) := by
  unfold State.modDsp
  repeat' first
    | with_reducible intro _
    | with_reducible assumption
    | simp only [↓keepsSup_mk_iff]

theorem modMirror_keepsSup (s : State) (f : MirrorS → MirrorS) (hs : KeepsSup s0 s) :
    KeepsSup s0 (State.modMirror s f) := by
  unfold State.modMirror
  repeat' first
    | with_reducible intro _
    | with_reducible assumption
    | simp only [↓keepsSup_mk_iff]

theorem restartLease_keepsSup (s : State) (hs : KeepsSup s0 s) :
    KeepsSup s0 (restartLease s) := by
  unfold restartLease
  repeat' first
    | with_reducible intro _
    | with_reducible assumption
    | with_reducible apply modMirror_keepsSup
    | simp only [↓keepsSup_mk_iff]

theorem barrierLeft_keepsSup (n at' : Nat) (s : State) (hs : KeepsSup s0 s) :
    KeepsSup s0 (barrierLeft n at' s) := by
  unfold barrierLeft
  repeat' first
    | with_reducible intro _
    | with_reducible assumption
    | with_reducible apply modVe_keepsSup
    | simp only [↓keepsSup_mk_iff]
    | with_reducible apply keepsSup_ite
    | with_reducible apply keepsSup_foldl
    | split

theorem disarmStarts_keepsSup (s : State) (hs : KeepsSup s0 s) :
    KeepsSup s0 (disarmStarts s) := by
  unfold disarmStarts
  repeat' first
    | with_reducible intro _
    | with_reducible assumption
    | with_reducible apply wr_keepsSup
    | with_reducible apply modVe_keepsSup
    | with_reducible apply barrierLeft_keepsSup
    | simp only [↓keepsSup_mk_iff]
    | with_reducible apply keepsSup_ite
    | with_reducible apply keepsSup_foldl
    | (extract_lets x; first | (with_reducible refine keepsSup_cut (s := x) ?_ ?_; (on_goal 2 => clear_value x); (on_goal 1 => unfold x)) | (subst x))
    | split

theorem disarmTo_keepsSup (c : Nat) (s : State) (hs : KeepsSup s0 s) :
    KeepsSup s0 (disarmTo c s) := by
  unfold disarmTo
  repeat' first
    | with_reducible intro _
    | with_reducible assumption
    | with_reducible apply restartLease_keepsSup
    | with_reducible apply disarmStarts_keepsSup
    | with_reducible apply wr_keepsSup
    | with_reducible apply modMirror_keepsSup
    | simp only [↓keepsSup_mk_iff]

theorem reopen_keepsSup (s : State) (hs : KeepsSup s0 s) :
    KeepsSup s0 (reopen s) := by
  unfold reopen
  repeat' first
    | with_reducible intro _
    | with_reducible assumption
    | with_reducible apply disarmTo_keepsSup
    | with_reducible apply wr_keepsSup
    | with_reducible apply raise_keepsSup
    | with_reducible apply keepsSup_ite
    | (extract_lets x; first | (with_reducible refine keepsSup_cut (s := x) ?_ ?_; (on_goal 2 => clear_value x); (on_goal 1 => unfold x)) | (subst x))
    | split

theorem reopenIf_keepsSup (c : Bool) (s : State) (hs : KeepsSup s0 s) :
    KeepsSup s0 (reopenIf c s) := by
  unfold reopenIf
  repeat' first
    | with_reducible intro _
    | with_reducible assumption
    | with_reducible apply reopen_keepsSup
    | with_reducible apply keepsSup_ite
    | split

theorem engineChanged_keepsSup (n : Nat) (s : State) (hs : KeepsSup s0 s) :
    KeepsSup s0 (engineChanged n s) := by
  unfold engineChanged
  repeat' first
    | with_reducible intro _
    | with_reducible assumption
    | with_reducible apply reopenIf_keepsSup

theorem veEnter_keepsSup (n c : Nat) (s : State) (hs : KeepsSup s0 s) :
    KeepsSup s0 (veEnter n c s) := by
  unfold veEnter
  repeat' first
    | with_reducible intro _
    | with_reducible assumption
    | with_reducible apply engineChanged_keepsSup
    | with_reducible apply wr_keepsSup

theorem schedFree_keepsSup (dsp : Bool) (n : Nat) (s : State) (hs : KeepsSup s0 s) :
    KeepsSup s0 (schedFree dsp n s) := by
  unfold schedFree
  repeat' first
    | with_reducible intro _
    | with_reducible assumption
    | simp only [↓keepsSup_mk_iff]

theorem veStopEff_keepsSup (n : Nat) (s : State) (hs : KeepsSup s0 s) :
    KeepsSup s0 (veStopEff n s) := by
  unfold veStopEff
  repeat' first
    | with_reducible intro _
    | with_reducible assumption
    | with_reducible apply schedFree_keepsSup
    | with_reducible apply setBit_keepsSup
    | with_reducible apply barrierLeft_keepsSup
    | with_reducible apply veEnter_keepsSup
    | with_reducible apply modVe_keepsSup
    | simp only [↓keepsSup_mk_iff]
    | with_reducible apply keepsSup_ite
    | (extract_lets x; first | (with_reducible refine keepsSup_cut (s := x) ?_ ?_; (on_goal 2 => clear_value x); (on_goal 1 => unfold x)) | (subst x))
    | split

theorem dspStopEff_keepsSup (n : Nat) (s : State) (hs : KeepsSup s0 s) :
    KeepsSup s0 (dspStopEff n s) := by
  unfold dspStopEff
  repeat' first
    | with_reducible intro _
    | with_reducible assumption
    | with_reducible apply schedFree_keepsSup
    | with_reducible apply wr_keepsSup
    | with_reducible apply modDsp_keepsSup
    | simp only [↓keepsSup_mk_iff]
    | with_reducible apply keepsSup_ite
    | split

theorem stopAll_keepsSup (s : State) (hs : KeepsSup s0 s) :
    KeepsSup s0 (stopAll s) := by
  unfold stopAll
  repeat' first
    | with_reducible intro _
    | with_reducible assumption
    | with_reducible apply veStopEff_keepsSup
    | with_reducible apply dspStopEff_keepsSup
    | with_reducible apply keepsSup_ite
    | with_reducible apply keepsSup_foldl
    | (extract_lets x; first | (with_reducible refine keepsSup_cut (s := x) ?_ ?_; (on_goal 2 => clear_value x); (on_goal 1 => unfold x)) | (subst x))
    | split

set_option Elab.async false in
theorem dropArmed_keepsSup (s : State) (hs : KeepsSup s0 s) :
    KeepsSup s0 (dropArmed s) := by
  unfold dropArmed
  repeat' first
    | with_reducible intro _
    | with_reducible assumption
    | with_reducible apply disarmTo_keepsSup
    | with_reducible apply wr_keepsSup
    | with_reducible apply raise_keepsSup
    | with_reducible apply keepsSup_ite
    | split
end

end Sys2Proof.Laws
end

