-- ==== Sys2Proof/Laws/KeepsVeArm.lean ====
section
/-! SUPPORT. Functions g of one value of State.veOf: what the operations it lists leave unchanged. -/
set_option linter.unreachableTactic false
set_option linter.unusedSimpArgs false
set_option linter.unusedTactic false
namespace Sys2Proof.Laws
open Sys2Proof.Machine
section
variable {α : Type} {g : VeRun → α} {nn : Nat} {s0 : State}
def KeepsVeArm (g : VeRun → α) (nn : Nat) (s0 s : State) : Prop := g (s.veOf nn) = g (s0.veOf nn)
theorem keepsVeArm_ite {c : Prop} [Decidable c] {x y : State} (hx : KeepsVeArm g nn s0 x) (hy : KeepsVeArm g nn s0 y) : KeepsVeArm g nn s0 (if c then x else y) := by split <;> assumption
theorem keepsVeArm_foldl {β : Type} {f : State → β → State} (hf : ∀ s x, KeepsVeArm g nn s0 s → KeepsVeArm g nn s0 (f s x)) :
    ∀ {l : List β} {s : State}, KeepsVeArm g nn s0 s → KeepsVeArm g nn s0 (l.foldl f s)
  | [], _, h => h
  | x :: l, s, h => keepsVeArm_foldl (l := l) hf (hf s x h)
theorem keepsVeArm_cut {s : State} {p : Prop} (h : KeepsVeArm g nn s0 s) (f : KeepsVeArm g nn s0 s → p) : p := f h
theorem modVe_keepsVeArm (m : Nat) (f : VeRun → VeRun) (s : State) (h : KeepsVeArm g nn s0 s) (hf : ∀ e, g (f e) = g e) : KeepsVeArm g nn s0 (s.modVe m f) := by
  unfold KeepsVeArm at *
  by_cases e : nn = m
  · subst e; rw [veOf_modVe, hf, h]
  · rw [veOf_modVe_other s e, h]
theorem wr_keepsVeArm (k v : Nat) (s : State) (h : KeepsVeArm g nn s0 s) : KeepsVeArm g nn s0 (s.wr k v) := h
theorem keepsVeArm_mk_iff {s : State} {x_now : Nat} {x_reg : Tab Nat} {x_mem : List Host.Cell} {x_evq : List (Nat × Nat)} {x_freeCtr : Nat} {x_pending : List Instr} {x_hdi : HdiS} {x_clk : ClockS} {x_sched : List Sched} {x_outCh : Tab OutCh} {x_inCh : Tab InCh} {x_fcp : Tab FcpS} {x_sq : Tab SqS} {x_brk : Tab BrkS} {x_tgt : Tab TgtS} {x_groupAt : List (Nat × Nat)} {x_dsp : Tab DspRun} {x_focus : FocusS} {x_trim : TrimS} {x_reqs : List MeshReq} {x_resps : List MeshResp} {x_held : List PortReq} {x_steal : List PortReq} {x_labels : List (MeshReq × Nat)} {x_drain : Option Drain} {x_trace : List Nat} {x_dmc : Tab DmcS} {x_autoTrain : Bool} {x_crh : CrhS} {x_cfg : CfgS} {x_fresh : List (Nat × Nat × Nat)} {x_cleared : List (Nat × Nat × Nat)} {x_sup : SupS} {x_dbg : DbgS} {x_tmu : TmuS} {x_lanes : Tab LaneS} {x_cells : Tab (Option CellS)} {x_cellCfg : Tab CellCfg} {x_sels : Tab Nat} {x_tracks : Tab Nat} {x_upsets : List Upset} {x_facets : Tab FacetS} {x_fev : List (Nat × Nat)} {x_panes : Tab PaneS} {x_banks : Tab BankS} {x_pins : PinsS} :
    KeepsVeArm g nn s0 ⟨x_now, x_reg, x_mem, x_evq, x_freeCtr, x_pending, x_hdi, x_clk, x_sched, s.ve, x_outCh, x_inCh, x_fcp, x_sq, x_brk, x_tgt, x_groupAt, x_dsp, x_focus, x_trim, x_reqs, x_resps, x_held, x_steal, x_labels, x_drain, x_trace, x_dmc, x_autoTrain, x_crh, x_cfg, x_fresh, x_cleared, x_sup, x_dbg, x_tmu, x_lanes, x_cells, x_cellCfg, x_sels, x_tracks, x_upsets, x_facets, x_fev, x_panes, x_banks, x_pins⟩ ↔ KeepsVeArm g nn s0 s := Iff.rfl
theorem raiseAt_keepsVeArm (s : State) (t e : Nat) (hs : KeepsVeArm (fun e : VeRun => e.stopAt) nn s0 s) :
    KeepsVeArm (fun e : VeRun => e.stopAt) nn s0 (State.raiseAt s t e) := by
  unfold State.raiseAt
  repeat' first
    | with_reducible intro _
    | with_reducible assumption
    | simp only [↓keepsVeArm_mk_iff]
    | with_reducible apply keepsVeArm_ite
    | (extract_lets x; first | (with_reducible refine keepsVeArm_cut (s := x) ?_ ?_; (on_goal 2 => clear_value x); (on_goal 1 => unfold x)) | (subst x))
    | split

theorem raise_keepsVeArm (s : State) (e : Nat) (hs : KeepsVeArm (fun e : VeRun => e.stopAt) nn s0 s) :
    KeepsVeArm (fun e : VeRun => e.stopAt) nn s0 (State.raise s e) := by
  unfold State.raise
  repeat' first
    | with_reducible intro _
    | with_reducible assumption
    | with_reducible apply raiseAt_keepsVeArm
    | simp only [↓keepsVeArm_mk_iff]
    | with_reducible apply keepsVeArm_ite
    | (extract_lets x; first | (with_reducible refine keepsVeArm_cut (s := x) ?_ ?_; (on_goal 2 => clear_value x); (on_goal 1 => unfold x)) | (subst x))
    | split

theorem modDsp_keepsVeArm (s : State) (n : Nat) (f : DspRun → DspRun) (hs : KeepsVeArm (fun e : VeRun => e.stopAt) nn s0 s) :
    KeepsVeArm (fun e : VeRun => e.stopAt) nn s0 (State.modDsp s n f) := by
  unfold State.modDsp
  repeat' first
    | with_reducible intro _
    | with_reducible assumption
    | simp only [↓keepsVeArm_mk_iff]

theorem modMirror_keepsVeArm (s : State) (f : MirrorS → MirrorS) (hs : KeepsVeArm (fun e : VeRun => e.stopAt) nn s0 s) :
    KeepsVeArm (fun e : VeRun => e.stopAt) nn s0 (State.modMirror s f) := by
  unfold State.modMirror
  repeat' first
    | with_reducible intro _
    | with_reducible assumption
    | simp only [↓keepsVeArm_mk_iff]

theorem restartLease_keepsVeArm (s : State) (hs : KeepsVeArm (fun e : VeRun => e.stopAt) nn s0 s) :
    KeepsVeArm (fun e : VeRun => e.stopAt) nn s0 (restartLease s) := by
  unfold restartLease
  repeat' first
    | with_reducible intro _
    | with_reducible assumption
    | with_reducible apply modMirror_keepsVeArm
    | simp only [↓keepsVeArm_mk_iff]

theorem barrierLeft_keepsVeArm (n at' : Nat) (s : State) (hs : KeepsVeArm (fun e : VeRun => e.stopAt) nn s0 s) :
    KeepsVeArm (fun e : VeRun => e.stopAt) nn s0 (barrierLeft n at' s) := by
  unfold barrierLeft
  repeat' first
    | with_reducible intro _
    | with_reducible assumption
    | (with_reducible refine modVe_keepsVeArm _ _ _ ?_ ?_; (on_goal 2 => (intro e; rfl)))
    | simp only [↓keepsVeArm_mk_iff]
    | with_reducible apply keepsVeArm_ite
    | with_reducible apply keepsVeArm_foldl
    | split

theorem disarmStarts_keepsVeArm (s : State) (hs : KeepsVeArm (fun e : VeRun => e.stopAt) nn s0 s) :
    KeepsVeArm (fun e : VeRun => e.stopAt) nn s0 (disarmStarts s) := by
  unfold disarmStarts
  repeat' first
    | with_reducible intro _
    | with_reducible assumption
    | with_reducible apply wr_keepsVeArm
    | (with_reducible refine modVe_keepsVeArm _ _ _ ?_ ?_; (on_goal 2 => (intro e; rfl)))
    | with_reducible apply barrierLeft_keepsVeArm
    | simp only [↓keepsVeArm_mk_iff]
    | with_reducible apply keepsVeArm_ite
    | with_reducible apply keepsVeArm_foldl
    | (extract_lets x; first | (with_reducible refine keepsVeArm_cut (s := x) ?_ ?_; (on_goal 2 => clear_value x); (on_goal 1 => unfold x)) | (subst x))
    | split

theorem disarmTo_keepsVeArm (c : Nat) (s : State) (hs : KeepsVeArm (fun e : VeRun => e.stopAt) nn s0 s) :
    KeepsVeArm (fun e : VeRun => e.stopAt) nn s0 (disarmTo c s) := by
  unfold disarmTo
  repeat' first
    | with_reducible intro _
    | with_reducible assumption
    | with_reducible apply restartLease_keepsVeArm
    | with_reducible apply disarmStarts_keepsVeArm
    | with_reducible apply wr_keepsVeArm
    | with_reducible apply modMirror_keepsVeArm
    | simp only [↓keepsVeArm_mk_iff]

theorem reopen_keepsVeArm (s : State) (hs : KeepsVeArm (fun e : VeRun => e.stopAt) nn s0 s) :
    KeepsVeArm (fun e : VeRun => e.stopAt) nn s0 (reopen s) := by
  unfold reopen
  repeat' first
    | with_reducible intro _
    | with_reducible assumption
    | with_reducible apply disarmTo_keepsVeArm
    | with_reducible apply wr_keepsVeArm
    | with_reducible apply raise_keepsVeArm
    | with_reducible apply keepsVeArm_ite
    | (extract_lets x; first | (with_reducible refine keepsVeArm_cut (s := x) ?_ ?_; (on_goal 2 => clear_value x); (on_goal 1 => unfold x)) | (subst x))
    | split

theorem reopenIf_keepsVeArm (c : Bool) (s : State) (hs : KeepsVeArm (fun e : VeRun => e.stopAt) nn s0 s) :
    KeepsVeArm (fun e : VeRun => e.stopAt) nn s0 (reopenIf c s) := by
  unfold reopenIf
  repeat' first
    | with_reducible intro _
    | with_reducible assumption
    | with_reducible apply reopen_keepsVeArm
    | with_reducible apply keepsVeArm_ite
    | split

theorem engineChanged_keepsVeArm (n : Nat) (s : State) (hs : KeepsVeArm (fun e : VeRun => e.stopAt) nn s0 s) :
    KeepsVeArm (fun e : VeRun => e.stopAt) nn s0 (engineChanged n s) := by
  unfold engineChanged
  repeat' first
    | with_reducible intro _
    | with_reducible assumption
    | with_reducible apply reopenIf_keepsVeArm

theorem veEnter_keepsVeArm (n c : Nat) (s : State) (hs : KeepsVeArm (fun e : VeRun => e.stopAt) nn s0 s) :
    KeepsVeArm (fun e : VeRun => e.stopAt) nn s0 (veEnter n c s) := by
  unfold veEnter
  repeat' first
    | with_reducible intro _
    | with_reducible assumption
    | with_reducible apply engineChanged_keepsVeArm
    | with_reducible apply wr_keepsVeArm

theorem schedFree_keepsVeArm (dsp : Bool) (n : Nat) (s : State) (hs : KeepsVeArm (fun e : VeRun => e.stopAt) nn s0 s) :
    KeepsVeArm (fun e : VeRun => e.stopAt) nn s0 (schedFree dsp n s) := by
  unfold schedFree
  repeat' first
    | with_reducible intro _
    | with_reducible assumption
    | simp only [↓keepsVeArm_mk_iff]

theorem dspStopEff_keepsVeArm (n : Nat) (s : State) (hs : KeepsVeArm (fun e : VeRun => e.stopAt) nn s0 s) :
    KeepsVeArm (fun e : VeRun => e.stopAt) nn s0 (dspStopEff n s) := by
  unfold dspStopEff
  repeat' first
    | with_reducible intro _
    | with_reducible assumption
    | with_reducible apply schedFree_keepsVeArm
    | with_reducible apply wr_keepsVeArm
    | with_reducible apply modDsp_keepsVeArm
    | simp only [↓keepsVeArm_mk_iff]
    | with_reducible apply keepsVeArm_ite
    | split
end

set_option Elab.async false in
theorem dropArmed_keepsVeArm (s : State) (hs : KeepsVeArm (fun e : VeRun => e.stopAt) nn s0 s) :
    KeepsVeArm (fun e : VeRun => e.stopAt) nn s0 (dropArmed s) := by
  unfold dropArmed
  repeat' first
    | with_reducible intro _
    | with_reducible assumption
    | with_reducible apply disarmTo_keepsVeArm
    | with_reducible apply wr_keepsVeArm
    | with_reducible apply raise_keepsVeArm
    | with_reducible apply keepsVeArm_ite
    | split

end Sys2Proof.Laws
end

