-- ==== Sys2Proof/Laws/CompleteSup.lean ====
section
/-! SUPPORT. The supervisor and the event matrix: facts that proofs about their commands cite. -/
namespace Sys2Proof.Laws.CompleteSup
open Sys2Proof.Machine Common CompleteCrh.ClockFacts
namespace SupFacts
theorem fold_rd {α : Type} {f : State → α → State} {k : Nat} {p : α → Prop} (hf : ∀ s x, p x → (f s x).rd k = s.rd k) : ∀ (l : List α) (s : State), (∀ x ∈ l, p x) → (l.foldl f s).rd k = s.rd k
  | [], _, _ => rfl
  | a :: l, s, h => by rw [List.foldl_cons, fold_rd hf l _ (fun x hx => h x (List.mem_cons_of_mem _ hx)), hf _ _ (h a (by simp))]
def NV (k : Nat) : Prop := (∀ u, u < 32 → k ≠ VEN.STATE u) ∧ k ≠ HDI.APPLY_OUTCOME ∧ k ≠ HDI.MIRROR_STATE
theorem disarm_rd {k : Nat} {s : State} (h : NV k) : (disarmStarts s).rd k = s.rd k := by
  unfold disarmStarts
  refine fold_rd (p := fun u => u < 32) (fun s u hu => ?_) _ _ fun x hx => List.mem_range.1 hx
  split
  · rw [Common.barrierLeft_rd, rd_modVe, rd_wr_other _ (h.1 u hu)]
  · rfl
theorem disarmTo_rd {k c : Nat} {s : State} (h : NV k) : (disarmTo c s).rd k = s.rd k := by
  unfold disarmTo
  have e : ∀ u : State, (restartLease u).rd k = u.rd k := fun u => rd_modMirror _ _ _
  rw [e, rd_modMirror, rd_wr_other _ h.2.2, disarm_rd h]
theorem reopenIf_rd {k : Nat} {c : Bool} {s : State} (h : NV k) : (reopenIf c s).rd k = s.rd k := by
  unfold reopenIf
  split
  · unfold reopen
    dsimp only
    rw [rd_raise]
    split
    · rw [rd_wr_other _ h.2.1, disarmTo_rd h]
    · rw [rd_wr_other _ h.2.2]
  · rfl
theorem enter_rd {k n c : Nat} {s : State} (h : NV k) (hn : n < 32) : (veEnter n c s).rd k = s.rd k := by
  unfold veEnter engineChanged
  rw [reopenIf_rd h, rd_wr_other _ (h.1 n hn)]
theorem veStop_rd {k n : Nat} {s : State} (h : NV k) (hn : n < 32) (hf : k ≠ VEN.FLAGS n) : (veStopEff n s).rd k = s.rd k := by
  unfold veStopEff
  split
  · dsimp only
    rw [Common.barrierLeft_rd, enter_rd h hn, rd_modVe, rd_setBit_other _ hf]; rfl
  · rw [rd_modVe]
theorem dspStop_rd {k n : Nat} {s : State} (h : k ≠ DSP.STATE n) : (dspStopEff n s).rd k = s.rd k := by
  unfold dspStopEff
  split
  · rw [rd_wr_other _ h]; rfl
  · rw [rd_modDsp]
theorem nv_ven {n : Nat} : ∀ k, 0x810000 ≤ k → k ≠ VEN.STATE n → True := fun _ _ _ => trivial
theorem veStop_other {m n : Nat} (s : State) (h : n ≠ m) (hs : veState n s = 3 ∨ veState n s = 4) : veState n (veStopEff m s) = veState n s := by
  unfold veStopEff
  split
  · dsimp only
    have e1 : ∀ (a : Nat) (u : State), veState n (barrierLeft m a u) = veState n u := fun a u => Common.barrierLeft_rd _ _ _ _
    rw [e1]
    have e2 : veState n ((((schedFree false m s).setBit (VEN.FLAGS m) 7 false).modVe m fun e => { e with start := none, offAt := ((schedFree false m s).setBit (VEN.FLAGS m) 7 false).now, stale := e.stale ++ e.inflight, inflight := [] }).wr (VEN.STATE m) (((schedFree false m s).setBit (VEN.FLAGS m) 7 false).veOf m).prior) = veState n s := by
      unfold veState
      rw [rd_wr_other _ (by show (0x7100 + n) * 256 + 0 ≠ (0x7100 + m) * 256 + 0; omega), rd_modVe, rd_setBit_other _ (by simp only [VEN.FLAGS, VEN.STATE]; omega)]; rfl
    unfold veEnter
    rw [Common.changed_state]
    · exact e2
    · rw [e2]; rintro ⟨_, h2⟩; rcases hs with a | a <;> rw [a] at h2 <;> cases h2
  · unfold veState; rw [rd_modVe]
theorem veStop_stop {m n : Nat} (s : State) (h : (s.veOf n).stopAt.isSome = true) : ((veStopEff m s).veOf n).stopAt.isSome = true := by
  unfold veStopEff
  split
  · dsimp only
    have hw : ((schedFree false m s).setBit (VEN.FLAGS m) 7 false).veOf n = s.veOf n := by
      unfold State.veOf; rw [setBit_ve]; rfl
    generalize (schedFree false m s).setBit (VEN.FLAGS m) 7 false = w at hw
    rw [← hw] at h
    generalize (w.veOf m).prior = pr
    have e1 := Laws.barrierLeft_keepsVeArm (nn := n) (s0 := w) m w.now (veEnter m pr (w.modVe m fun e => { e with start := none, offAt := w.now, stale := e.stale ++ e.inflight, inflight := [] }))
      (Laws.veEnter_keepsVeArm m _ _ (Laws.modVe_keepsVeArm m _ _ rfl (fun e => rfl)))
    rw [show ((barrierLeft m w.now (veEnter m pr (w.modVe m fun e => { e with start := none, offAt := w.now, stale := e.stale ++ e.inflight, inflight := [] }))).veOf n).stopAt = (w.veOf n).stopAt from e1]
    exact h
  · by_cases e : n = m
    · subst e; rw [veOf_modVe]; cases (s.veOf n).stopAt <;> rfl
    · rw [veOf_modVe_other _ e]; exact h
theorem veStop_own {n : Nat} (s : State) (hs : veState n s = 3 ∨ veState n s = 4) : ((veStopEff n s).veOf n).stopAt.isSome = true := by
  unfold veStopEff
  rw [if_neg (by rcases hs with a | a <;> rw [a] <;> decide), veOf_modVe]
  cases (s.veOf n).stopAt <;> rfl
theorem veStop_dsp (m n : Nat) (s : State) : (veStopEff m s).dspOf n = s.dspOf n := by
  have := Laws.veStopEff_keepsDsp (s0 := s) m s rfl
  unfold State.dspOf; rw [show (veStopEff m s).dsp = s.dsp from this]
theorem dspStop_ve (m n : Nat) (s : State) : (dspStopEff m s).veOf n = s.veOf n := by
  unfold dspStopEff; split <;> rfl
theorem dspStop_stop {m n : Nat} (s : State) (h : (s.dspOf n).stop.isSome = true) : ((dspStopEff m s).dspOf n).stop.isSome = true := by
  unfold dspStopEff
  split
  · exact h
  · by_cases e : n = m
    · subst e; rw [dspOf_modDsp]; cases (s.dspOf n).stop <;> rfl
    · rw [dspOf_modDsp_other _ e]; exact h
def body (s : State) (n : Nat) : State :=
    let s := if veLive n s then veStopEff n s else s
    if dspStopped n s then s else dspStopEff n s
theorem body_rd {k n : Nat} {s : State} (h : NV k) (hn : n < 32) (hf : k ≠ VEN.FLAGS n) (hd : k ≠ DSP.STATE n) : (body s n).rd k = s.rd k := by
  unfold body
  dsimp only
  have e : (if veLive n s then veStopEff n s else s).rd k = s.rd k := by split; exact veStop_rd h hn hf; rfl
  generalize (if veLive n s then veStopEff n s else s) = u at e
  split
  · exact e
  · rw [dspStop_rd hd, e]
theorem body_ve {m n : Nat} (hn : n < 32) (s : State) (h : (s.veOf n).stopAt.isSome = true ∨ (n ≠ m ∧ (veState n s = 3 ∨ veState n s = 4))) :
    ((body s m).veOf n).stopAt.isSome = true ∨ (n ≠ m ∧ (veState n (body s m) = 3 ∨ veState n (body s m) = 4)) := by
  unfold body
  dsimp only
  have a : ∀ u : State, ((u.veOf n).stopAt.isSome = true ∨ (n ≠ m ∧ (veState n u = 3 ∨ veState n u = 4))) → (((if dspStopped m u then u else dspStopEff m u).veOf n).stopAt.isSome = true ∨ (n ≠ m ∧ (veState n (if dspStopped m u then u else dspStopEff m u) = 3 ∨ veState n (if dspStopped m u then u else dspStopEff m u) = 4))) := by
    intro u hu
    split
    · exact hu
    · unfold veState
      rw [dspStop_ve, dspStop_rd (by simp only [VEN.STATE, DSP.STATE]; omega)]; exact hu
  apply a
  split
  · rcases h with h | ⟨h1, h2⟩
    · exact Or.inl (veStop_stop _ h)
    · refine Or.inr ⟨h1, ?_⟩; rw [veStop_other _ h1 h2]; exact h2
  · exact h
theorem body_own {n : Nat} (hn : n < 32) (s : State) (h : (s.veOf n).stopAt.isSome = true ∨ (veState n s = 3 ∨ veState n s = 4)) : ((body s n).veOf n).stopAt.isSome = true := by
  unfold body
  dsimp only
  have : ((if veLive n s then veStopEff n s else s).veOf n).stopAt.isSome = true := by
    rcases h with h | h
    · split
      · exact veStop_stop _ h
      · exact h
    · rw [if_pos (by unfold veLive; rcases h with h | h <;> rw [h] <;> rfl)]; exact veStop_own _ h
  generalize (if veLive n s then veStopEff n s else s) = u at this
  split
  · exact this
  · rw [dspStop_ve]; exact this
theorem body_dsp {m n : Nat} (hm : m < 32) (hn : n < 32) (s : State) (h : (s.dspOf n).stop.isSome = true ∨ (n ≠ m ∧ (s.rd (DSP.STATE n) = 2 ∨ s.rd (DSP.STATE n) = 3 ∨ s.rd (DSP.STATE n) = 6))) :
    ((body s m).dspOf n).stop.isSome = true ∨ (n ≠ m ∧ ((body s m).rd (DSP.STATE n) = 2 ∨ (body s m).rd (DSP.STATE n) = 3 ∨ (body s m).rd (DSP.STATE n) = 6)) := by
  rcases h with h | ⟨h1, h2⟩
  · left
    unfold body
    dsimp only
    have : ((if veLive m s then veStopEff m s else s).dspOf n).stop.isSome = true := by split; rw [veStop_dsp]; exact h; exact h
    generalize (if veLive m s then veStopEff m s else s) = u at this
    split
    · exact this
    · exact dspStop_stop _ this
  · right
    refine ⟨h1, ?_⟩
    rw [body_rd ⟨fun u hu => by simp only [VEN.STATE, DSP.STATE]; omega, by simp only [HDI.APPLY_OUTCOME, DSP.STATE]; omega, by simp only [HDI.MIRROR_STATE, DSP.STATE]; omega⟩ hm (by simp only [VEN.FLAGS, DSP.STATE]; omega) (by simp only [DSP.STATE]; omega)]
    exact h2
theorem body_dsp_own {n : Nat} (hn : n < 32) (s : State) (h : (s.dspOf n).stop.isSome = true ∨ (s.rd (DSP.STATE n) = 2 ∨ s.rd (DSP.STATE n) = 3 ∨ s.rd (DSP.STATE n) = 6)) : ((body s n).dspOf n).stop.isSome = true := by
  unfold body
  dsimp only
  have e : (if veLive n s then veStopEff n s else s).rd (DSP.STATE n) = s.rd (DSP.STATE n) := by
    split
    · exact veStop_rd ⟨fun u hu => by simp only [VEN.STATE, DSP.STATE]; omega, by simp only [HDI.APPLY_OUTCOME, DSP.STATE]; omega, by simp only [HDI.MIRROR_STATE, DSP.STATE]; omega⟩ hn (by simp only [VEN.FLAGS, DSP.STATE]; omega)
    · rfl
  have d : (if veLive n s then veStopEff n s else s).dspOf n = s.dspOf n := by split; exact veStop_dsp _ _ _; rfl
  generalize (if veLive n s then veStopEff n s else s) = u at e d
  rcases h with h | h
  · split
    · rw [d]; exact h
    · refine dspStop_stop _ ?_; rw [d]; exact h
  · rw [if_neg (by unfold dspStopped; rw [e]; rcases h with h | h | h <;> rw [h] <;> decide)]
    unfold dspStopEff
    rw [if_neg (by rw [e]; rcases h with h | h | h <;> rw [h] <;> decide), dspOf_modDsp]
    cases (u.dspOf n).stop <;> rfl
theorem fold_ve {n : Nat} (hn : n < 32) : ∀ (l : List Nat) (s : State), (s.veOf n).stopAt.isSome = true ∨ (n ∈ l ∧ (veState n s = 3 ∨ veState n s = 4)) → ((l.foldl body s).veOf n).stopAt.isSome = true
  | [], s, h => by rcases h with h | h; exact h; cases h.1
  | a :: l, s, h => by
    rw [List.foldl_cons]
    refine fold_ve hn l _ ?_
    by_cases e : n = a
    · subst e
      exact Or.inl (body_own hn s (h.imp_right And.right))
    · rcases body_ve hn s (m := a) (h.imp_right fun x => ⟨e, x.2⟩) with h' | ⟨_, h'⟩
      · exact Or.inl h'
      · rcases h with h | ⟨h, _⟩
        · rcases body_ve hn s (m := a) (Or.inl h) with h' | ⟨_, _⟩
          · exact Or.inl h'
          · rename_i q
            left
            unfold body; dsimp only
            have : ((if veLive a s then veStopEff a s else s).veOf n).stopAt.isSome = true := by split; exact veStop_stop _ h; exact h
            generalize (if veLive a s then veStopEff a s else s) = u at this
            split
            · exact this
            · rw [dspStop_ve]; exact this
        · rcases List.mem_cons.1 h with h | h
          · exact absurd h e
          · exact Or.inr ⟨h, h'⟩
theorem fold_dsp {n : Nat} (hn : n < 32) : ∀ (l : List Nat) (s : State), (∀ x ∈ l, x < 32) → (s.dspOf n).stop.isSome = true ∨ (n ∈ l ∧ (s.rd (DSP.STATE n) = 2 ∨ s.rd (DSP.STATE n) = 3 ∨ s.rd (DSP.STATE n) = 6)) → ((l.foldl body s).dspOf n).stop.isSome = true
  | [], s, _, h => by rcases h with h | h; exact h; cases h.1
  | a :: l, s, hl, h => by
    rw [List.foldl_cons]
    refine fold_dsp hn l _ (fun x hx => hl x (List.mem_cons_of_mem _ hx)) ?_
    by_cases e : n = a
    · subst e
      exact Or.inl (body_dsp_own hn s (h.imp_right And.right))
    · rcases h with h | ⟨h, h2⟩
      · left
        unfold body
        dsimp only
        have : ((if veLive a s then veStopEff a s else s).dspOf n).stop.isSome = true := by split; rw [veStop_dsp]; exact h; exact h
        generalize (if veLive a s then veStopEff a s else s) = u at this
        split
        · exact this
        · exact dspStop_stop _ this
      · rcases body_dsp (hl a (by simp)) hn s (m := a) (Or.inr ⟨e, h2⟩) with h' | ⟨_, h'⟩
        · exact Or.inl h'
        · rcases List.mem_cons.1 h with h | h
          · exact absurd h e
          · exact Or.inr ⟨h, h'⟩
theorem crypto_next (s : State) (j : CJob) (h : s.sup.job = some j) : (cryptoNext s).rd = s.rd ∧ ∃ j', (cryptoNext s).sup.job = some j' ∧ j'.key = j.key ∧ j'.addr = j.addr ∧ j'.len = j.len := by
  unfold cryptoNext
  rw [h]
  dsimp only
  have es : ∀ r w, (meshSend r w).rd = w.rd ∧ (meshSend r w).sup = w.sup := by intro r w; unfold meshSend; repeat' (first | exact ⟨rfl, rfl⟩ | split)
  split
  · rw [(es _ _).1, (es _ _).2]
    exact ⟨rfl, _, rfl, rfl, rfl, rfl⟩
  · exact ⟨rfl, _, h, rfl, rfl, rfl⟩
theorem crypto_eff (hm : Bool) (s : State) : (cryptoEff hm s).rd SUP.CJ_STATE = 1 ∧ ∃ j, (cryptoEff hm s).sup.job = some j ∧ j.key = (if hm then s.sup.key else none) ∧ j.addr = s.rd SUP.CJ_ADDR ∧ j.len = s.rd SUP.CJ_LEN := by
  unfold cryptoEff
  have := crypto_next (modSup (fun u => { u with job := some { key := if hm then u.key else none, addr := s.rd SUP.CJ_ADDR, len := s.rd SUP.CJ_LEN } }) (s.wr SUP.CJ_STATE 1)) _ rfl
  refine ⟨?_, this.2⟩
  rw [this.1]
  show (s.wr SUP.CJ_STATE 1).rd _ = _
  exact rd_wr_same _ _ _
theorem sup_bit (b : Nat) (s : State) : (supFlag b s).bit SUP.EVFLAGS b = true := bit_flag _ _ _ _
theorem sup_rd {b k : Nat} {s : State} (h : k ≠ SUP.EVFLAGS) : (supFlag b s).rd k = s.rd k := rd_flag_other _ h _ _
theorem sup_sup (b : Nat) (s : State) : (supFlag b s).sup = s.sup := flag_sup _ _ _ _
theorem go_facts (s : State) (n : Nat) (hn : n < 32) : (veState n s = 3 ∨ veState n s = 4 → ((stopAll (dropArmed s)).veOf n).stopAt.isSome = true) ∧
    (s.rd (DSP.STATE n) = 2 ∨ s.rd (DSP.STATE n) = 3 ∨ s.rd (DSP.STATE n) = 6 → ((stopAll (dropArmed s)).dspOf n).stop.isSome = true) := by
  have e : ∀ u, stopAll u = (List.range 32).foldl body u := fun u => rfl
  rw [e]
  refine ⟨fun h => fold_ve hn _ _ (Or.inr ⟨List.mem_range.2 hn, ?_⟩), fun h => fold_dsp hn _ _ (fun x hx => List.mem_range.1 hx) (Or.inr ⟨List.mem_range.2 hn, ?_⟩)⟩
  · have : veState n (dropArmed s) = veState n s := by
      unfold dropArmed
      split
      · unfold veState
        rw [rd_raise, rd_wr_other _ (by simp only [HDI.APPLY_OUTCOME, VEN.STATE]; omega)]
        unfold disarmTo
        have e2 : ∀ u : State, (restartLease u).rd (VEN.STATE n) = u.rd (VEN.STATE n) := fun u => rd_modMirror _ _ _
        rw [e2, rd_modMirror, rd_wr_other _ (by simp only [HDI.MIRROR_STATE, VEN.STATE]; omega)]
        exact Common.disarm_state n s (by rintro ⟨_, h2⟩; rcases h with a | a <;> rw [a] at h2 <;> cases h2)
      · rfl
    rw [this]; exact h
  · have : (dropArmed s).rd (DSP.STATE n) = s.rd (DSP.STATE n) := by
      unfold dropArmed
      split
      · rw [rd_raise, rd_wr_other _ (by simp only [HDI.APPLY_OUTCOME, DSP.STATE]; omega), disarmTo_rd ⟨fun u hu => by simp only [VEN.STATE, DSP.STATE]; omega, by simp only [HDI.APPLY_OUTCOME, DSP.STATE]; omega, by simp only [HDI.MIRROR_STATE, DSP.STATE]; omega⟩]
      · rfl
    rw [this]; exact h
theorem stopAll_rd {k : Nat} (s : State) (h : NV k) (h1 : ∀ n, n < 32 → k ≠ VEN.FLAGS n ∧ k ≠ DSP.STATE n) : (stopAll s).rd k = s.rd k := by
  have e : stopAll s = (List.range 32).foldl body s := rfl
  rw [e]
  exact fold_rd (p := fun n => n < 32) (fun s n hn => body_rd h hn (h1 n hn).1 (h1 n hn).2) _ _ fun x hx => List.mem_range.1 hx
theorem reopenIf_out {c : Bool} {s : State} (h : s.rd HDI.MIRROR_STATE ≠ 5) : (reopenIf c s).rd HDI.APPLY_OUTCOME = s.rd HDI.APPLY_OUTCOME ∧ (reopenIf c s).rd HDI.MIRROR_STATE ≠ 5 := by
  unfold reopenIf
  split
  · unfold reopen
    dsimp only
    rw [if_neg (show ¬ mirrorState s = 5 from h), rd_raise, rd_raise, rd_wr_other _ (by decide), rd_wr_same]
    exact ⟨rfl, by decide⟩
  · exact ⟨rfl, h⟩
theorem body_out {n : Nat} {s : State} (h : s.rd HDI.MIRROR_STATE ≠ 5) : (body s n).rd HDI.APPLY_OUTCOME = s.rd HDI.APPLY_OUTCOME ∧ (body s n).rd HDI.MIRROR_STATE ≠ 5 := by
  unfold body
  dsimp only
  have : (if veLive n s then veStopEff n s else s).rd HDI.APPLY_OUTCOME = s.rd HDI.APPLY_OUTCOME ∧ (if veLive n s then veStopEff n s else s).rd HDI.MIRROR_STATE ≠ 5 := by
    split
    · unfold veStopEff
      split
      · dsimp only
        rw [Common.barrierLeft_rd, Common.barrierLeft_rd]
        unfold veEnter engineChanged
        have q : ∀ k, k = HDI.APPLY_OUTCOME ∨ k = HDI.MIRROR_STATE → ∀ p g, ((((schedFree false n s).setBit (VEN.FLAGS n) 7 false).modVe n g).wr (VEN.STATE n) p).rd k = s.rd k := by
          intro k hk p g
          rw [rd_wr_other _ (by rcases hk with rfl | rfl <;> simp only [HDI.APPLY_OUTCOME, HDI.MIRROR_STATE, VEN.STATE] <;> omega), rd_modVe,
            rd_setBit_other _ (by rcases hk with rfl | rfl <;> simp only [HDI.APPLY_OUTCOME, HDI.MIRROR_STATE, VEN.FLAGS] <;> omega)]; rfl
        have a := fun p g => reopenIf_out (c := false) (s := (((schedFree false n s).setBit (VEN.FLAGS n) 7 false).modVe n g).wr (VEN.STATE n) p) (by rw [q _ (Or.inr rfl)]; exact h)
        refine ⟨(reopenIf_out (by rw [q _ (Or.inr rfl)]; exact h)).1.trans (q _ (Or.inl rfl) _ _), (reopenIf_out (by rw [q _ (Or.inr rfl)]; exact h)).2⟩
      · exact ⟨rd_modVe _ _ _ _, by rw [rd_modVe]; exact h⟩
    · exact ⟨rfl, h⟩
  generalize (if veLive n s then veStopEff n s else s) = u at this
  split
  · exact this
  · rw [dspStop_rd (by simp only [HDI.APPLY_OUTCOME, DSP.STATE]; omega), dspStop_rd (by simp only [HDI.MIRROR_STATE, DSP.STATE]; omega)]
    exact this
theorem fold_out : ∀ (l : List Nat) (s : State), s.rd HDI.MIRROR_STATE ≠ 5 → (l.foldl body s).rd HDI.APPLY_OUTCOME = s.rd HDI.APPLY_OUTCOME
  | [], _, _ => rfl
  | a :: l, s, h => by rw [List.foldl_cons, fold_out l _ (body_out h).2, (body_out h).1]
theorem drop_out {s : State} (h : mirrorState s = 5) : (dropArmed s).rd HDI.APPLY_OUTCOME = 3 ∧ (dropArmed s).rd HDI.MIRROR_STATE ≠ 5 := by
  unfold dropArmed
  rw [if_pos h, rd_raise, rd_raise, rd_wr_same, rd_wr_other _ (by decide)]
  refine ⟨rfl, ?_⟩
  unfold disarmTo
  have e2 : ∀ u : State, (restartLease u).rd HDI.MIRROR_STATE = u.rd HDI.MIRROR_STATE := fun u => rd_modMirror _ _ _
  rw [e2, rd_modMirror, rd_wr_same]
  decide
end SupFacts
open SupFacts
namespace SupFacts
def lstep (e edge : Nat) (s : State) (k : Nat) : State :=
    if s.rd (SUP.FEV_SEL k) = e then
      if s.sup.due.contains (k, edge) || s.fev.contains (k, edge) then s.bump 64 SUP.FEV_MERGED
      else modSup (fun u => { u with due := u.due ++ [(k, edge)] }) s
    else s
def LP (s t : State) : Prop := (∀ k, k ≠ SUP.FEV_MERGED → t.rd k = s.rd k) ∧ t.sup.log = s.sup.log ∧ t.sup.ibi = s.sup.ibi ∧ t.evq = s.evq ∧ t.now = s.now ∧ t.fev = s.fev ∧ ∀ x ∈ s.sup.due, x ∈ t.sup.due
theorem lstep_lp (e edge k : Nat) (s : State) : LP s (lstep e edge s k) := by
  unfold lstep
  split
  · split
    · exact ⟨fun j hj => bump_ne hj, rfl, rfl, rfl, rfl, rfl, fun x hx => hx⟩
    · exact ⟨fun j hj => rfl, rfl, rfl, rfl, rfl, rfl, fun x hx => List.mem_append_left _ hx⟩
  · exact ⟨fun j hj => rfl, rfl, rfl, rfl, rfl, rfl, fun x hx => hx⟩
theorem lstep_own (e edge k : Nat) (s : State) (h : s.rd (SUP.FEV_SEL k) = e) (hf : (k, edge) ∉ s.fev) : (k, edge) ∈ (lstep e edge s k).sup.due := by
  unfold lstep
  rw [if_pos h]
  have : s.fev.contains (k, edge) = false := by
    rw [Bool.eq_false_iff]; intro h; exact hf (List.contains_iff_mem.1 h)
  rw [this, Bool.or_false]
  split
  · rename_i h; exact List.contains_iff_mem.1 h
  · exact List.mem_append_right _ (by simp)
theorem LP_trans {a b c : State} (h : LP a b) (g : LP b c) : LP a c := by
  obtain ⟨h1, h2, h3, h4, h5, h6, h7⟩ := h
  obtain ⟨g1, g2, g3, g4, g5, g6, g7⟩ := g
  exact ⟨fun k hk => (g1 k hk).trans (h1 k hk), g2.trans h2, g3.trans h3, g4.trans h4, g5.trans h5, g6.trans h6, fun x hx => g7 x (h7 x hx)⟩
theorem lfold (e edge : Nat) : ∀ (l : List Nat) (s : State), LP s (l.foldl (lstep e edge) s) ∧ ∀ k ∈ l, k < 8 → s.rd (SUP.FEV_SEL k) = e → (k, edge) ∉ s.fev → (k, edge) ∈ (l.foldl (lstep e edge) s).sup.due
  | [], s => ⟨⟨fun j hj => rfl, rfl, rfl, rfl, rfl, rfl, fun x hx => hx⟩, fun k h => by cases h⟩
  | a :: l, s => by
    rw [List.foldl_cons]
    have ih := lfold e edge l (lstep e edge s a)
    have o := lstep_lp e edge a s
    refine ⟨LP_trans o ih.1, fun k hk h8 hs hf => ?_⟩
    rcases List.mem_cons.1 hk with rfl | hk
    · exact ih.1.2.2.2.2.2.2 _ (lstep_own _ _ _ _ hs hf)
    · refine ih.2 k hk h8 ?_ ?_
      · rw [o.1 _ (by simp only [SUP.FEV_SEL, SUP.FEV_MERGED]; omega)]; exact hs
      · rw [o.2.2.2.2.2.1]; exact hf
theorem lines_eq (e t : Nat) (s : State) : linePulses e t s = (List.range 8).foldl (lstep e (fabEdge (t + 32 * ticksPerNs))) s := rfl
set_option Elab.async false in
theorem log_facts (e : Nat) (s : State) : (logRecord e s).rd SUP.LOG_MADE = min (s.rd SUP.LOG_MADE + 1) (2 ^ 64 - 1) ∧
      (s.sup.log.length < 256 → (logRecord e s).sup.log = s.sup.log ++ [⟨netAt s s.now, e, timeValid s⟩]) ∧
      (256 ≤ s.sup.log.length → (logRecord e s).sup.log = s.sup.log ∧ (logRecord e s).rd SUP.LOG_LOST = min (s.rd SUP.LOG_LOST + 1) (2 ^ 64 - 1) ∧
        (logRecord e s).bit SUP.EVFLAGS 1 = true) ∧ (∀ k, k ≠ SUP.LOG_MADE → k ≠ SUP.LOG_LOST → k ≠ SUP.EVFLAGS → (logRecord e s).rd k = s.rd k) ∧
      (logRecord e s).sup.ibi = s.sup.ibi ∧ (logRecord e s).now = s.now ∧ (logRecord e s).fev = s.fev := by
  unfold logRecord
  dsimp only
  have r : (s.bump 64 SUP.LOG_MADE).sup = s.sup := rfl
  have n : (s.bump 64 SUP.LOG_MADE).now = s.now := rfl
  have nt : netAt (s.bump 64 SUP.LOG_MADE) s.now = netAt s s.now := by
    unfold netAt mpllLocked
    rw [bit_of_rd (bump_ne (by decide)), bump_ne (by decide)]; rfl
  have tv : timeValid (s.bump 64 SUP.LOG_MADE) = timeValid s := by
    unfold timeValid; rw [bit_of_rd (bump_ne (by decide))]
  by_cases h : 256 ≤ s.sup.log.length
  · rw [if_pos (by rw [r]; exact h)]
    refine ⟨?_, fun h' => by omega, fun _ => ⟨by rw [sup_sup]; rfl, ?_, sup_bit _ _⟩, fun k h1 h2 h3 => ?_, by rw [sup_sup]; rfl, ?_, ?_⟩
    · rw [sup_rd (by decide), bump_ne (by decide), bump_eq]
    · rw [sup_rd (by decide), bump_eq, bump_ne (by decide)]
    · rw [sup_rd h3, bump_ne h2, bump_ne h1]
    · unfold supFlag; rw [flag_now]; rfl
    · unfold supFlag; rw [flag_fev]; rfl
  · rw [if_neg (by rw [r]; exact h)]
    refine ⟨?_, fun _ => ?_, fun h' => absurd h' h, fun k h1 h2 h3 => bump_ne h1, rfl, rfl, rfl⟩
    · exact bump_eq _ _ _
    · show s.sup.log ++ [⟨netAt (s.bump 64 SUP.LOG_MADE) (s.bump 64 SUP.LOG_MADE).now, e, timeValid (s.bump 64 SUP.LOG_MADE)⟩] = _
      rw [n, nt, tv]
end SupFacts
open SupFacts
end Sys2Proof.Laws.CompleteSup
end

