-- ==== Sys2Proof/Laws/KeepsClk.lean ====
section
/-! SUPPORT. State.clk: what the operations it lists leave unchanged. -/
set_option linter.unreachableTactic false
set_option linter.unusedSimpArgs false
set_option linter.unusedTactic false
namespace Sys2Proof.Laws
open Sys2Proof.Machine
section
variable {s0 : State}
def KeepsClk (s0 s : State) : Prop := s.clk = s0.clk
theorem keepsClk_ite {c : Prop} [Decidable c] {x y : State} (hx : KeepsClk s0 x) (hy : KeepsClk s0 y) : KeepsClk s0 (if c then x else y) := by split <;> assumption
theorem keepsClk_foldl {β : Type} {f : State → β → State} (hf : ∀ s x, KeepsClk s0 s → KeepsClk s0 (f s x)) :
    ∀ {l : List β} {s : State}, KeepsClk s0 s → KeepsClk s0 (l.foldl f s)
  | [], _, h => h
  | x :: l, s, h => keepsClk_foldl (l := l) hf (hf s x h)
theorem keepsClk_cut {s : State} {p : Prop} (h : KeepsClk s0 s) (f : KeepsClk s0 s → p) : p := f h
theorem wr_keepsClk (k v : Nat) (s : State) (h : KeepsClk s0 s) : KeepsClk s0 (s.wr k v) := h
theorem keepsClk_mk_iff {s : State} {x_now : Nat} {x_reg : Tab Nat} {x_mem : List Host.Cell} {x_evq : List (Nat × Nat)} {x_freeCtr : Nat} {x_pending : List Instr} {x_hdi : HdiS} {x_sched : List Sched} {x_ve : Tab VeRun} {x_outCh : Tab OutCh} {x_inCh : Tab InCh} {x_fcp : Tab FcpS} {x_sq : Tab SqS} {x_brk : Tab BrkS} {x_tgt : Tab TgtS} {x_groupAt : List (Nat × Nat)} {x_dsp : Tab DspRun} {x_focus : FocusS} {x_trim : TrimS} {x_reqs : List MeshReq} {x_resps : List MeshResp} {x_held : List PortReq} {x_steal : List PortReq} {x_labels : List (MeshReq × Nat)} {x_drain : Option Drain} {x_trace : List Nat} {x_dmc : Tab DmcS} {x_autoTrain : Bool} {x_crh : CrhS} {x_cfg : CfgS} {x_fresh : List (Nat × Nat × Nat)} {x_cleared : List (Nat × Nat × Nat)} {x_sup : SupS} {x_dbg : DbgS} {x_tmu : TmuS} {x_lanes : Tab LaneS} {x_cells : Tab (Option CellS)} {x_cellCfg : Tab CellCfg} {x_sels : Tab Nat} {x_tracks : Tab Nat} {x_upsets : List Upset} {x_facets : Tab FacetS} {x_fev : List (Nat × Nat)} {x_panes : Tab PaneS} {x_banks : Tab BankS} {x_pins : PinsS} :
    KeepsClk s0 ⟨x_now, x_reg, x_mem, x_evq, x_freeCtr, x_pending, x_hdi, s.clk, x_sched, x_ve, x_outCh, x_inCh, x_fcp, x_sq, x_brk, x_tgt, x_groupAt, x_dsp, x_focus, x_trim, x_reqs, x_resps, x_held, x_steal, x_labels, x_drain, x_trace, x_dmc, x_autoTrain, x_crh, x_cfg, x_fresh, x_cleared, x_sup, x_dbg, x_tmu, x_lanes, x_cells, x_cellCfg, x_sels, x_tracks, x_upsets, x_facets, x_fev, x_panes, x_banks, x_pins⟩ ↔ KeepsClk s0 s := Iff.rfl
theorem addTo_keepsClk (s : State) (w k d : Nat) (hs : KeepsClk s0 s) :
    KeepsClk s0 (State.addTo s w k d) := by
  unfold State.addTo
  repeat' first
    | with_reducible intro _
    | with_reducible assumption
    | with_reducible apply wr_keepsClk

theorem bump_keepsClk (s : State) (w k : Nat) (hs : KeepsClk s0 s) :
    KeepsClk s0 (State.bump s w k) := by
  unfold State.bump
  repeat' first
    | with_reducible intro _
    | with_reducible assumption
    | with_reducible apply addTo_keepsClk

theorem raiseAt_keepsClk (s : State) (t e : Nat) (hs : KeepsClk s0 s) :
    KeepsClk s0 (State.raiseAt s t e) := by
  unfold State.raiseAt
  repeat' first
    | with_reducible intro _
    | with_reducible assumption
    | simp only [↓keepsClk_mk_iff]
    | with_reducible apply keepsClk_ite
    | (extract_lets x; first | (with_reducible refine keepsClk_cut (s := x) ?_ ?_; (on_goal 2 => clear_value x); (on_goal 1 => unfold x)) | (subst x))
    | split

theorem raise_keepsClk (s : State) (e : Nat) (hs : KeepsClk s0 s) :
    KeepsClk s0 (State.raise s e) := by
  unfold State.raise
  repeat' first
    | with_reducible intro _
    | with_reducible assumption
    | with_reducible apply raiseAt_keepsClk
    | simp only [↓keepsClk_mk_iff]
    | with_reducible apply keepsClk_ite
    | (extract_lets x; first | (with_reducible refine keepsClk_cut (s := x) ?_ ?_; (on_goal 2 => clear_value x); (on_goal 1 => unfold x)) | (subst x))
    | split

theorem setBit_keepsClk (s : State) (k b : Nat) (v : Bool) (hs : KeepsClk s0 s) :
    KeepsClk s0 (State.setBit s k b v) := by
  unfold State.setBit
  repeat' first
    | with_reducible intro _
    | with_reducible assumption
    | with_reducible apply wr_keepsClk
    | with_reducible apply keepsClk_ite
    | split

theorem note_keepsClk (s : State) (k b : Nat) (hs : KeepsClk s0 s) :
    KeepsClk s0 (State.note s k b) := by
  unfold State.note
  repeat' first
    | with_reducible intro _
    | with_reducible assumption
    | simp only [↓keepsClk_mk_iff]
    | with_reducible apply keepsClk_ite
    | (extract_lets x; first | (with_reducible refine keepsClk_cut (s := x) ?_ ?_; (on_goal 2 => clear_value x); (on_goal 1 => unfold x)) | (subst x))
    | split

theorem flag_keepsClk (s : State) (k b e : Nat) (hs : KeepsClk s0 s) :
    KeepsClk s0 (State.flag s k b e) := by
  unfold State.flag
  repeat' first
    | with_reducible intro _
    | with_reducible assumption
    | with_reducible apply note_keepsClk
    | with_reducible apply setBit_keepsClk
    | with_reducible apply raise_keepsClk
    | simp only [↓keepsClk_mk_iff]
    | with_reducible apply keepsClk_ite
    | (extract_lets x; first | (with_reducible refine keepsClk_cut (s := x) ?_ ?_; (on_goal 2 => clear_value x); (on_goal 1 => unfold x)) | (subst x))
    | split

theorem modVe_keepsClk (s : State) (n : Nat) (f : VeRun → VeRun) (hs : KeepsClk s0 s) :
    KeepsClk s0 (State.modVe s n f) := by
  unfold State.modVe
  repeat' first
    | with_reducible intro _
    | with_reducible assumption
    | simp only [↓keepsClk_mk_iff]

theorem modDsp_keepsClk (s : State) (n : Nat) (f : DspRun → DspRun) (hs : KeepsClk s0 s) :
    KeepsClk s0 (State.modDsp s n f) := by
  unfold State.modDsp
  repeat' first
    | with_reducible intro _
    | with_reducible assumption
    | simp only [↓keepsClk_mk_iff]

theorem modTmu_keepsClk (s : State) (g : TmuS → TmuS) (hs : KeepsClk s0 s) :
    KeepsClk s0 (State.modTmu s g) := by
  unfold State.modTmu
  repeat' first
    | with_reducible intro _
    | with_reducible assumption
    | simp only [↓keepsClk_mk_iff]

theorem modTrg_keepsClk (s : State) (t : Nat) (g : TrgS → TrgS) (hs : KeepsClk s0 s) :
    KeepsClk s0 (State.modTrg s t g) := by
  unfold State.modTrg
  repeat' first
    | with_reducible intro _
    | with_reducible assumption
    | with_reducible apply modTmu_keepsClk
    | simp only [↓keepsClk_mk_iff]

theorem modMirror_keepsClk (s : State) (f : MirrorS → MirrorS) (hs : KeepsClk s0 s) :
    KeepsClk s0 (State.modMirror s f) := by
  unfold State.modMirror
  repeat' first
    | with_reducible intro _
    | with_reducible assumption
    | simp only [↓keepsClk_mk_iff]

theorem restartLease_keepsClk (s : State) (hs : KeepsClk s0 s) :
    KeepsClk s0 (restartLease s) := by
  unfold restartLease
  repeat' first
    | with_reducible intro _
    | with_reducible assumption
    | with_reducible apply modMirror_keepsClk
    | simp only [↓keepsClk_mk_iff]

theorem barrierLeft_keepsClk (n at' : Nat) (s : State) (hs : KeepsClk s0 s) :
    KeepsClk s0 (barrierLeft n at' s) := by
  unfold barrierLeft
  repeat' first
    | with_reducible intro _
    | with_reducible assumption
    | with_reducible apply modVe_keepsClk
    | simp only [↓keepsClk_mk_iff]
    | with_reducible apply keepsClk_ite
    | with_reducible apply keepsClk_foldl
    | split

theorem disarmStarts_keepsClk (s : State) (hs : KeepsClk s0 s) :
    KeepsClk s0 (disarmStarts s) := by
  unfold disarmStarts
  repeat' first
    | with_reducible intro _
    | with_reducible assumption
    | with_reducible apply wr_keepsClk
    | with_reducible apply modVe_keepsClk
    | with_reducible apply barrierLeft_keepsClk
    | simp only [↓keepsClk_mk_iff]
    | with_reducible apply keepsClk_ite
    | with_reducible apply keepsClk_foldl
    | (extract_lets x; first | (with_reducible refine keepsClk_cut (s := x) ?_ ?_; (on_goal 2 => clear_value x); (on_goal 1 => unfold x)) | (subst x))
    | split

theorem disarmTo_keepsClk (c : Nat) (s : State) (hs : KeepsClk s0 s) :
    KeepsClk s0 (disarmTo c s) := by
  unfold disarmTo
  repeat' first
    | with_reducible intro _
    | with_reducible assumption
    | with_reducible apply restartLease_keepsClk
    | with_reducible apply disarmStarts_keepsClk
    | with_reducible apply wr_keepsClk
    | with_reducible apply modMirror_keepsClk
    | simp only [↓keepsClk_mk_iff]

theorem reopen_keepsClk (s : State) (hs : KeepsClk s0 s) :
    KeepsClk s0 (reopen s) := by
  unfold reopen
  repeat' first
    | with_reducible intro _
    | with_reducible assumption
    | with_reducible apply disarmTo_keepsClk
    | with_reducible apply wr_keepsClk
    | with_reducible apply raise_keepsClk
    | with_reducible apply keepsClk_ite
    | (extract_lets x; first | (with_reducible refine keepsClk_cut (s := x) ?_ ?_; (on_goal 2 => clear_value x); (on_goal 1 => unfold x)) | (subst x))
    | split

theorem reopenIf_keepsClk (c : Bool) (s : State) (hs : KeepsClk s0 s) :
    KeepsClk s0 (reopenIf c s) := by
  unfold reopenIf
  repeat' first
    | with_reducible intro _
    | with_reducible assumption
    | with_reducible apply reopen_keepsClk
    | with_reducible apply keepsClk_ite
    | split

theorem engineChanged_keepsClk (n : Nat) (s : State) (hs : KeepsClk s0 s) :
    KeepsClk s0 (engineChanged n s) := by
  unfold engineChanged
  repeat' first
    | with_reducible intro _
    | with_reducible assumption
    | with_reducible apply reopenIf_keepsClk

theorem veEnter_keepsClk (n c : Nat) (s : State) (hs : KeepsClk s0 s) :
    KeepsClk s0 (veEnter n c s) := by
  unfold veEnter
  repeat' first
    | with_reducible intro _
    | with_reducible assumption
    | with_reducible apply engineChanged_keepsClk
    | with_reducible apply wr_keepsClk

theorem schedFree_keepsClk (dsp : Bool) (n : Nat) (s : State) (hs : KeepsClk s0 s) :
    KeepsClk s0 (schedFree dsp n s) := by
  unfold schedFree
  repeat' first
    | with_reducible intro _
    | with_reducible assumption
    | simp only [↓keepsClk_mk_iff]

theorem veStopEff_keepsClk (n : Nat) (s : State) (hs : KeepsClk s0 s) :
    KeepsClk s0 (veStopEff n s) := by
  unfold veStopEff
  repeat' first
    | with_reducible intro _
    | with_reducible assumption
    | with_reducible apply schedFree_keepsClk
    | with_reducible apply setBit_keepsClk
    | with_reducible apply barrierLeft_keepsClk
    | with_reducible apply veEnter_keepsClk
    | with_reducible apply modVe_keepsClk
    | simp only [↓keepsClk_mk_iff]
    | with_reducible apply keepsClk_ite
    | (extract_lets x; first | (with_reducible refine keepsClk_cut (s := x) ?_ ?_; (on_goal 2 => clear_value x); (on_goal 1 => unfold x)) | (subst x))
    | split

theorem tmuFlag_keepsClk (b : Nat) (s : State) (hs : KeepsClk s0 s) :
    KeepsClk s0 (tmuFlag b s) := by
  unfold tmuFlag
  repeat' first
    | with_reducible intro _
    | with_reducible assumption
    | with_reducible apply flag_keepsClk

theorem stepRefused_keepsClk (s : State) (hs : KeepsClk s0 s) :
    KeepsClk s0 (stepRefused s) := by
  unfold stepRefused
  repeat' first
    | with_reducible intro _
    | with_reducible assumption
    | with_reducible apply tmuFlag_keepsClk
    | with_reducible apply bump_keepsClk
end

theorem setValid_keepsClk (v : Bool) (s : State) (hs : KeepsClk s0 s) :
    KeepsClk s0 (setValid v s) := by
  unfold setValid
  repeat' first
    | with_reducible intro _
    | with_reducible assumption
    | with_reducible apply setBit_keepsClk

theorem dropVeStart_keepsClk (n : Nat) (s : State) (hs : KeepsClk s0 s) :
    KeepsClk s0 (dropVeStart n s) := by
  unfold dropVeStart
  repeat' first
    | with_reducible intro _
    | with_reducible assumption
    | with_reducible apply veStopEff_keepsClk
    | with_reducible apply raise_keepsClk
    | with_reducible apply keepsClk_ite
    | split

theorem dropDspStart_keepsClk (n : Nat) (s : State) (hs : KeepsClk s0 s) :
    KeepsClk s0 (dropDspStart n s) := by
  unfold dropDspStart
  repeat' first
    | with_reducible intro _
    | with_reducible assumption
    | with_reducible apply schedFree_keepsClk
    | with_reducible apply wr_keepsClk
    | with_reducible apply modDsp_keepsClk
    | with_reducible apply raise_keepsClk
    | simp only [↓keepsClk_mk_iff]
    | with_reducible apply keepsClk_ite
    | split

theorem dropAperture_keepsClk (a : Nat) (s : State) (hs : KeepsClk s0 s) :
    KeepsClk s0 (dropAperture a s) := by
  unfold dropAperture
  repeat' first
    | with_reducible intro _
    | with_reducible assumption
    | with_reducible apply wr_keepsClk
    | with_reducible apply keepsClk_ite
    | split

theorem dropTrigger_keepsClk (t : Nat) (s : State) (hs : KeepsClk s0 s) :
    KeepsClk s0 (dropTrigger t s) := by
  unfold dropTrigger
  repeat' first
    | with_reducible intro _
    | with_reducible assumption
    | with_reducible apply tmuFlag_keepsClk
    | with_reducible apply wr_keepsClk
    | with_reducible apply modTrg_keepsClk
    | simp only [↓keepsClk_mk_iff]
    | with_reducible apply keepsClk_ite
    | split

theorem dropTimedApply_keepsClk (s : State) (hs : KeepsClk s0 s) :
    KeepsClk s0 (dropTimedApply s) := by
  unfold dropTimedApply
  repeat' first
    | with_reducible intro _
    | with_reducible assumption
    | with_reducible apply disarmTo_keepsClk
    | with_reducible apply wr_keepsClk
    | with_reducible apply raise_keepsClk
    | with_reducible apply keepsClk_ite
    | split

set_option Elab.async false in
theorem validFall_keepsClk (s : State) (hs : KeepsClk s0 s) :
    KeepsClk s0 (validFall s) := by
  unfold validFall
  repeat' first
    | with_reducible intro _
    | with_reducible assumption
    | with_reducible apply dropTimedApply_keepsClk
    | with_reducible apply tmuFlag_keepsClk
    | with_reducible apply setValid_keepsClk
    | with_reducible apply dropDspStart_keepsClk
    | with_reducible apply dropVeStart_keepsClk
    | with_reducible apply dropTrigger_keepsClk
    | with_reducible apply dropAperture_keepsClk
    | with_reducible apply keepsClk_ite
    | with_reducible apply keepsClk_foldl
    | (extract_lets x; first | (with_reducible refine keepsClk_cut (s := x) ?_ ?_; (on_goal 2 => clear_value x); (on_goal 1 => unfold x)) | (subst x))
    | split

end Sys2Proof.Laws
end

