-- ==== Sys2Proof/Laws/CompleteTmu.lean ====
section
/-! SUPPORT. Network time: facts that proofs about their commands cite. -/
set_option linter.unusedSimpArgs false
set_option linter.unusedVariables false
namespace Sys2Proof.Laws.CompleteTmu
open Sys2Proof.Machine Common CompleteLnk.LaneFacts
namespace TimeFacts
theorem valid_of {s t : State} (h : t.rd HDI.STATUS = s.rd HDI.STATUS) : timeValid t = timeValid s := bit_of_rd h
theorem locked_of {s t : State} (h : t.rd HDI.STATUS = s.rd HDI.STATUS) : mpllLocked t = mpllLocked s := bit_of_rd h
theorem setValid_valid (v : Bool) (s : State) : timeValid (setValid v s) = v := by
  unfold setValid
  rw [valid_of (s := s.setBit HDI.STATUS 4 v) (rd_setBit_other _ (by decide) _ _)]
  exact bit_setBit_eq _ _ _ _
theorem fall_valid (s : State) : timeValid (validFall s) = false := by
  unfold validFall
  split
  · dsimp only
    have e1 : ∀ (l : List Nat) (u : State), (l.foldl (fun s n => dropTrigger n (dropAperture n s)) u).rd HDI.STATUS = u.rd HDI.STATUS := by
      intro l; induction l with
      | nil => intro u; rfl
      | cons a l ih =>
        intro u; rw [List.foldl_cons, ih]
        rw [(dropTrigger_fr (V := fun i => i ≠ HDI.STATUS) (M := True) a _ (fr_refl _) (by (simp only [TMU.ROLE, TMU.INCR, TMU.STEP, TMU.SET, TMU.STATUS, TMU.EVFLAGS, TMU.STEPS, TMU.STEPS_REFUSED, TMU.GM_SERIAL, TMU.HOPS, TMU.EXCHANGES, TMU.OFFSET, TMU.DELAY, TMU.LANE_FLAGS, TMU.TXTS_MADE, TMU.TXTS_READ, TMU.TXTS_LOST, TMU.RX_LOST, TMU.AP_STATE, TMU.AP_OPENS, TMU.AP_PERIOD, TMU.AP_CLOSE, TMU.AP_OPEN, TMU.TRG_STATE, TMU.TRG_FIRED, TMU.TRG_MISSED, TMU.TRG_COUNT, TMU.TRG_CFG, TMU.TRG_PERIOD, TMU.TRG_AT, TMU.TRG_WIDTH, TMU.CAP_CFG, TMU.CAP_LOST, TMU.CAP_TAKEN, TMU.SRC_LANE, TMU.SERVE, TMU.INTERVAL, TMU.STEP_LIMIT, TMU.LOCK_LIMIT, HDI.STATUS, HDI.APPLY_OUTCOME, HDI.MIRROR_STATE, DSP.STATE, VEN.STATE, VEN.FLAGS, LNK.MESH_RESP, LNK.EVFLAGS, LNK.STATE, ne_eq]; omega)) (by (simp only [TMU.ROLE, TMU.INCR, TMU.STEP, TMU.SET, TMU.STATUS, TMU.EVFLAGS, TMU.STEPS, TMU.STEPS_REFUSED, TMU.GM_SERIAL, TMU.HOPS, TMU.EXCHANGES, TMU.OFFSET, TMU.DELAY, TMU.LANE_FLAGS, TMU.TXTS_MADE, TMU.TXTS_READ, TMU.TXTS_LOST, TMU.RX_LOST, TMU.AP_STATE, TMU.AP_OPENS, TMU.AP_PERIOD, TMU.AP_CLOSE, TMU.AP_OPEN, TMU.TRG_STATE, TMU.TRG_FIRED, TMU.TRG_MISSED, TMU.TRG_COUNT, TMU.TRG_CFG, TMU.TRG_PERIOD, TMU.TRG_AT, TMU.TRG_WIDTH, TMU.CAP_CFG, TMU.CAP_LOST, TMU.CAP_TAKEN, TMU.SRC_LANE, TMU.SERVE, TMU.INTERVAL, TMU.STEP_LIMIT, TMU.LOCK_LIMIT, HDI.STATUS, HDI.APPLY_OUTCOME, HDI.MIRROR_STATE, DSP.STATE, VEN.STATE, VEN.FLAGS, LNK.MESH_RESP, LNK.EVFLAGS, LNK.STATE, ne_eq]; omega))).1 _ (by simp)]
        exact (dropAperture_fr (V := fun i => i ≠ HDI.STATUS) (M := True) a _ (fr_refl _) (by (simp only [TMU.ROLE, TMU.INCR, TMU.STEP, TMU.SET, TMU.STATUS, TMU.EVFLAGS, TMU.STEPS, TMU.STEPS_REFUSED, TMU.GM_SERIAL, TMU.HOPS, TMU.EXCHANGES, TMU.OFFSET, TMU.DELAY, TMU.LANE_FLAGS, TMU.TXTS_MADE, TMU.TXTS_READ, TMU.TXTS_LOST, TMU.RX_LOST, TMU.AP_STATE, TMU.AP_OPENS, TMU.AP_PERIOD, TMU.AP_CLOSE, TMU.AP_OPEN, TMU.TRG_STATE, TMU.TRG_FIRED, TMU.TRG_MISSED, TMU.TRG_COUNT, TMU.TRG_CFG, TMU.TRG_PERIOD, TMU.TRG_AT, TMU.TRG_WIDTH, TMU.CAP_CFG, TMU.CAP_LOST, TMU.CAP_TAKEN, TMU.SRC_LANE, TMU.SERVE, TMU.INTERVAL, TMU.STEP_LIMIT, TMU.LOCK_LIMIT, HDI.STATUS, HDI.APPLY_OUTCOME, HDI.MIRROR_STATE, DSP.STATE, VEN.STATE, VEN.FLAGS, LNK.MESH_RESP, LNK.EVFLAGS, LNK.STATE, ne_eq]; omega))).1 _ (by simp)
    have e2 : ∀ (l : List Nat) (u : State), (l.foldl (fun s n => dropDspStart n (dropVeStart n s)) u).rd HDI.STATUS = u.rd HDI.STATUS := by
      intro l; induction l with
      | nil => intro u; rfl
      | cons a l ih =>
        intro u; rw [List.foldl_cons, ih]
        rw [(dropDspStart_fr (V := fun i => i ≠ HDI.STATUS) (M := True) a _ (fr_refl _) (by (simp only [TMU.ROLE, TMU.INCR, TMU.STEP, TMU.SET, TMU.STATUS, TMU.EVFLAGS, TMU.STEPS, TMU.STEPS_REFUSED, TMU.GM_SERIAL, TMU.HOPS, TMU.EXCHANGES, TMU.OFFSET, TMU.DELAY, TMU.LANE_FLAGS, TMU.TXTS_MADE, TMU.TXTS_READ, TMU.TXTS_LOST, TMU.RX_LOST, TMU.AP_STATE, TMU.AP_OPENS, TMU.AP_PERIOD, TMU.AP_CLOSE, TMU.AP_OPEN, TMU.TRG_STATE, TMU.TRG_FIRED, TMU.TRG_MISSED, TMU.TRG_COUNT, TMU.TRG_CFG, TMU.TRG_PERIOD, TMU.TRG_AT, TMU.TRG_WIDTH, TMU.CAP_CFG, TMU.CAP_LOST, TMU.CAP_TAKEN, TMU.SRC_LANE, TMU.SERVE, TMU.INTERVAL, TMU.STEP_LIMIT, TMU.LOCK_LIMIT, HDI.STATUS, HDI.APPLY_OUTCOME, HDI.MIRROR_STATE, DSP.STATE, VEN.STATE, VEN.FLAGS, LNK.MESH_RESP, LNK.EVFLAGS, LNK.STATE, ne_eq]; omega))).1 _ (by simp)]
        exact (dropVeStart_fr (V := fun i => i ≠ HDI.STATUS) (M := True) a _ (fr_refl _) (by (simp only [TMU.ROLE, TMU.INCR, TMU.STEP, TMU.SET, TMU.STATUS, TMU.EVFLAGS, TMU.STEPS, TMU.STEPS_REFUSED, TMU.GM_SERIAL, TMU.HOPS, TMU.EXCHANGES, TMU.OFFSET, TMU.DELAY, TMU.LANE_FLAGS, TMU.TXTS_MADE, TMU.TXTS_READ, TMU.TXTS_LOST, TMU.RX_LOST, TMU.AP_STATE, TMU.AP_OPENS, TMU.AP_PERIOD, TMU.AP_CLOSE, TMU.AP_OPEN, TMU.TRG_STATE, TMU.TRG_FIRED, TMU.TRG_MISSED, TMU.TRG_COUNT, TMU.TRG_CFG, TMU.TRG_PERIOD, TMU.TRG_AT, TMU.TRG_WIDTH, TMU.CAP_CFG, TMU.CAP_LOST, TMU.CAP_TAKEN, TMU.SRC_LANE, TMU.SERVE, TMU.INTERVAL, TMU.STEP_LIMIT, TMU.LOCK_LIMIT, HDI.STATUS, HDI.APPLY_OUTCOME, HDI.MIRROR_STATE, DSP.STATE, VEN.STATE, VEN.FLAGS, LNK.MESH_RESP, LNK.EVFLAGS, LNK.STATE, ne_eq]; omega)) (by (simp only [TMU.ROLE, TMU.INCR, TMU.STEP, TMU.SET, TMU.STATUS, TMU.EVFLAGS, TMU.STEPS, TMU.STEPS_REFUSED, TMU.GM_SERIAL, TMU.HOPS, TMU.EXCHANGES, TMU.OFFSET, TMU.DELAY, TMU.LANE_FLAGS, TMU.TXTS_MADE, TMU.TXTS_READ, TMU.TXTS_LOST, TMU.RX_LOST, TMU.AP_STATE, TMU.AP_OPENS, TMU.AP_PERIOD, TMU.AP_CLOSE, TMU.AP_OPEN, TMU.TRG_STATE, TMU.TRG_FIRED, TMU.TRG_MISSED, TMU.TRG_COUNT, TMU.TRG_CFG, TMU.TRG_PERIOD, TMU.TRG_AT, TMU.TRG_WIDTH, TMU.CAP_CFG, TMU.CAP_LOST, TMU.CAP_TAKEN, TMU.SRC_LANE, TMU.SERVE, TMU.INTERVAL, TMU.STEP_LIMIT, TMU.LOCK_LIMIT, HDI.STATUS, HDI.APPLY_OUTCOME, HDI.MIRROR_STATE, DSP.STATE, VEN.STATE, VEN.FLAGS, LNK.MESH_RESP, LNK.EVFLAGS, LNK.STATE, ne_eq]; omega)) (by (simp only [TMU.ROLE, TMU.INCR, TMU.STEP, TMU.SET, TMU.STATUS, TMU.EVFLAGS, TMU.STEPS, TMU.STEPS_REFUSED, TMU.GM_SERIAL, TMU.HOPS, TMU.EXCHANGES, TMU.OFFSET, TMU.DELAY, TMU.LANE_FLAGS, TMU.TXTS_MADE, TMU.TXTS_READ, TMU.TXTS_LOST, TMU.RX_LOST, TMU.AP_STATE, TMU.AP_OPENS, TMU.AP_PERIOD, TMU.AP_CLOSE, TMU.AP_OPEN, TMU.TRG_STATE, TMU.TRG_FIRED, TMU.TRG_MISSED, TMU.TRG_COUNT, TMU.TRG_CFG, TMU.TRG_PERIOD, TMU.TRG_AT, TMU.TRG_WIDTH, TMU.CAP_CFG, TMU.CAP_LOST, TMU.CAP_TAKEN, TMU.SRC_LANE, TMU.SERVE, TMU.INTERVAL, TMU.STEP_LIMIT, TMU.LOCK_LIMIT, HDI.STATUS, HDI.APPLY_OUTCOME, HDI.MIRROR_STATE, DSP.STATE, VEN.STATE, VEN.FLAGS, LNK.MESH_RESP, LNK.EVFLAGS, LNK.STATE, ne_eq]; omega)) (by intro u; (simp only [TMU.ROLE, TMU.INCR, TMU.STEP, TMU.SET, TMU.STATUS, TMU.EVFLAGS, TMU.STEPS, TMU.STEPS_REFUSED, TMU.GM_SERIAL, TMU.HOPS, TMU.EXCHANGES, TMU.OFFSET, TMU.DELAY, TMU.LANE_FLAGS, TMU.TXTS_MADE, TMU.TXTS_READ, TMU.TXTS_LOST, TMU.RX_LOST, TMU.AP_STATE, TMU.AP_OPENS, TMU.AP_PERIOD, TMU.AP_CLOSE, TMU.AP_OPEN, TMU.TRG_STATE, TMU.TRG_FIRED, TMU.TRG_MISSED, TMU.TRG_COUNT, TMU.TRG_CFG, TMU.TRG_PERIOD, TMU.TRG_AT, TMU.TRG_WIDTH, TMU.CAP_CFG, TMU.CAP_LOST, TMU.CAP_TAKEN, TMU.SRC_LANE, TMU.SERVE, TMU.INTERVAL, TMU.STEP_LIMIT, TMU.LOCK_LIMIT, HDI.STATUS, HDI.APPLY_OUTCOME, HDI.MIRROR_STATE, DSP.STATE, VEN.STATE, VEN.FLAGS, LNK.MESH_RESP, LNK.EVFLAGS, LNK.STATE, ne_eq]; omega))).1 _ (by simp)
    rw [valid_of ((e1 _ _).trans (e2 _ _)),
      valid_of ((dropTimedApply_fr (V := fun i => i ≠ HDI.STATUS) (M := True) _ (fr_refl _) (by (simp only [TMU.ROLE, TMU.INCR, TMU.STEP, TMU.SET, TMU.STATUS, TMU.EVFLAGS, TMU.STEPS, TMU.STEPS_REFUSED, TMU.GM_SERIAL, TMU.HOPS, TMU.EXCHANGES, TMU.OFFSET, TMU.DELAY, TMU.LANE_FLAGS, TMU.TXTS_MADE, TMU.TXTS_READ, TMU.TXTS_LOST, TMU.RX_LOST, TMU.AP_STATE, TMU.AP_OPENS, TMU.AP_PERIOD, TMU.AP_CLOSE, TMU.AP_OPEN, TMU.TRG_STATE, TMU.TRG_FIRED, TMU.TRG_MISSED, TMU.TRG_COUNT, TMU.TRG_CFG, TMU.TRG_PERIOD, TMU.TRG_AT, TMU.TRG_WIDTH, TMU.CAP_CFG, TMU.CAP_LOST, TMU.CAP_TAKEN, TMU.SRC_LANE, TMU.SERVE, TMU.INTERVAL, TMU.STEP_LIMIT, TMU.LOCK_LIMIT, HDI.STATUS, HDI.APPLY_OUTCOME, HDI.MIRROR_STATE, DSP.STATE, VEN.STATE, VEN.FLAGS, LNK.MESH_RESP, LNK.EVFLAGS, LNK.STATE, ne_eq]; omega)) (by (simp only [TMU.ROLE, TMU.INCR, TMU.STEP, TMU.SET, TMU.STATUS, TMU.EVFLAGS, TMU.STEPS, TMU.STEPS_REFUSED, TMU.GM_SERIAL, TMU.HOPS, TMU.EXCHANGES, TMU.OFFSET, TMU.DELAY, TMU.LANE_FLAGS, TMU.TXTS_MADE, TMU.TXTS_READ, TMU.TXTS_LOST, TMU.RX_LOST, TMU.AP_STATE, TMU.AP_OPENS, TMU.AP_PERIOD, TMU.AP_CLOSE, TMU.AP_OPEN, TMU.TRG_STATE, TMU.TRG_FIRED, TMU.TRG_MISSED, TMU.TRG_COUNT, TMU.TRG_CFG, TMU.TRG_PERIOD, TMU.TRG_AT, TMU.TRG_WIDTH, TMU.CAP_CFG, TMU.CAP_LOST, TMU.CAP_TAKEN, TMU.SRC_LANE, TMU.SERVE, TMU.INTERVAL, TMU.STEP_LIMIT, TMU.LOCK_LIMIT, HDI.STATUS, HDI.APPLY_OUTCOME, HDI.MIRROR_STATE, DSP.STATE, VEN.STATE, VEN.FLAGS, LNK.MESH_RESP, LNK.EVFLAGS, LNK.STATE, ne_eq]; omega)) (by intro u; (simp only [TMU.ROLE, TMU.INCR, TMU.STEP, TMU.SET, TMU.STATUS, TMU.EVFLAGS, TMU.STEPS, TMU.STEPS_REFUSED, TMU.GM_SERIAL, TMU.HOPS, TMU.EXCHANGES, TMU.OFFSET, TMU.DELAY, TMU.LANE_FLAGS, TMU.TXTS_MADE, TMU.TXTS_READ, TMU.TXTS_LOST, TMU.RX_LOST, TMU.AP_STATE, TMU.AP_OPENS, TMU.AP_PERIOD, TMU.AP_CLOSE, TMU.AP_OPEN, TMU.TRG_STATE, TMU.TRG_FIRED, TMU.TRG_MISSED, TMU.TRG_COUNT, TMU.TRG_CFG, TMU.TRG_PERIOD, TMU.TRG_AT, TMU.TRG_WIDTH, TMU.CAP_CFG, TMU.CAP_LOST, TMU.CAP_TAKEN, TMU.SRC_LANE, TMU.SERVE, TMU.INTERVAL, TMU.STEP_LIMIT, TMU.LOCK_LIMIT, HDI.STATUS, HDI.APPLY_OUTCOME, HDI.MIRROR_STATE, DSP.STATE, VEN.STATE, VEN.FLAGS, LNK.MESH_RESP, LNK.EVFLAGS, LNK.STATE, ne_eq]; omega))).1 _ (by simp)),
      valid_of (s := setValid false s) (by unfold tmuFlag; exact rd_flag_other _ (by decide) _ _)]
    exact setValid_valid _ _
  · rename_i h; simpa using h
theorem rise_valid (s : State) : timeValid (validRise s) = true := by
  unfold validRise
  split
  · assumption
  · rw [valid_of (s := setValid true s) (by unfold tmuFlag; exact rd_flag_other _ (by decide) _ _)]; exact setValid_valid _ _
theorem rise_rd {k : Nat} {s : State} (h1 : k ≠ HDI.STATUS) (h2 : k ≠ TMU.STATUS) (h3 : k ≠ TMU.EVFLAGS) : (validRise s).rd k = s.rd k := by
  unfold validRise setValid tmuFlag
  split
  · rfl
  · rw [rd_flag_other _ h3, rd_setBit_other _ h2, rd_setBit_other _ h1]
theorem like_net {u t : State} (h : Like u t) : mpllLocked t = mpllLocked u ∧ t.clk = u.clk ∧ t.rd TMU.INCR = u.rd TMU.INCR :=
  ⟨locked_of (h.rd _ (by decide)), h.clk, like_k h (by decide)⟩
theorem net_of {t u : State} (h : mpllLocked t = mpllLocked u ∧ t.clk = u.clk ∧ t.rd TMU.INCR = u.rd TMU.INCR) (x : Nat) : netAt t x = netAt u x := by
  unfold netAt; rw [h.1, h.2.1, h.2.2]
theorem net_move (t : State) (base e j : Nat) (hm : mpllLocked t = true) (hb : t.clk.base = base) (ha : t.clk.anchor = e) :
    netAt t (e + 8192 * j) = base + t.rd TMU.INCR * j := by
  unfold netAt; rw [if_pos hm, if_neg (by omega), hb, ha, Nat.add_sub_cancel_left, Nat.mul_div_cancel_left _ (by decide)]
theorem at4_2 (l : List Nat) (c : Nat) (f : Nat → Nat) (h : c ≠ 2) : (at4 l c f).getD 2 0 = l.getD 2 0 := by
  show (if 2 = c then _ else _) = _; rw [if_neg (Ne.symm h)]
def K2 (x : LaneS) := (x.txTime, x.credit.getD 2 0, x.sent.getD 2 0)
theorem cred_of {n : Nat} {m : TxMsg} {s t : State} (hm : (txChan m).1 = 2) (h : K2 (t.laneOf n) = K2 (s.laneOf n)) : creditFor n m t = creditFor n m s := by
  unfold K2 at h; simp only [Prod.mk.injEq] at h
  unfold creditFor; dsimp only; rw [hm, h.2.1, h.2.2]
theorem head_ok {n : Nat} {s : State} {l : List TxMsg} (h : firstCredit n l s = true) : creditFor n (l.headD (.host 0)) s = true := by
  cases l with
  | nil => cases h
  | cons a l => exact h
theorem pick_no {n : Nat} {m : TxMsg} {s : State} {p : TxMsg × LaneS} (h1 : (s.laneOf n).txTime = [m]) (h2 : creditFor n m s = false) (h : pickTx n s = some p) :
    K2 p.2 = K2 (s.laneOf n) ∧ creditFor n p.1 s = true := by
  unfold pickTx at h
  dsimp only at h
  have c0 : firstCredit n (s.laneOf n).txTime s = false := by rw [h1]; exact h2
  rw [c0, if_neg (by decide)] at h
  by_cases c : firstCredit n (s.laneOf n).txMgmt s = true
  · rw [if_pos c] at h; cases h; exact ⟨rfl, head_ok c⟩
  · rw [if_neg c] at h
    by_cases d : firstCredit n (s.laneOf n).txMesh s = true
    · rw [if_pos d] at h; cases h; exact ⟨rfl, head_ok d⟩
    · rw [if_neg d] at h; cases h
theorem chan2 {m : TxMsg} (h : (txChan m).1 = 2) : (txChan m).2 = 32 := by cases m <;> first | rfl | cases h
theorem cred2 {n : Nat} {m a : TxMsg} {s : State} (hm : (txChan m).1 = 2) (ha : (txChan a).1 = 2) : creditFor n a s = creditFor n m s := by
  unfold creditFor; dsimp only; rw [hm, ha, chan2 hm, chan2 ha]
theorem send_bytes {n : Nat} {m : TxMsg} {u : State} : ∃ m', (txChan m').1 = (txChan m).1 ∧ (txChan m').2 = (txChan m).2 ∧ ∃ bytes : List LineBlock, sendMsg n m u = afterSend n m' (u.modLane n fun x => { x with sent := at4 x.sent (txChan m').1 fun v => (v + blocksOf (txChan m').2) % 65536, out := x.out ++ bytes }) := by
  unfold sendMsg
  dsimp only
  refine ⟨_, ?_, ?_, _, rfl⟩
  · split <;> rfl
  · split <;> rfl
theorem send_K2 {n : Nat} {m : TxMsg} {u : State} (h : (txChan m).1 ≠ 2) : K2 ((sendMsg n m u).laneOf n) = K2 (u.laneOf n) := by
  obtain ⟨m', h1, h2, b, e⟩ := send_bytes (n := n) (m := m) (u := u)
  rw [e, lane_of (afterSend_keepsLanes (s0 := _) n _ _ rfl) n, laneOf_modLane]
  unfold K2
  dsimp only
  rw [at4_2 _ _ _ (by rw [h1]; exact h)]
theorem sends_no {n : Nat} {m : TxMsg} (hm : (txChan m).1 = 2) : ∀ (k : Nat) (s : State), (s.laneOf n).txTime = [m] → creditFor n m s = false → ((sendMsgs n k s).laneOf n).txTime = [m]
  | 0, s, h, _ => h
  | k + 1, s, h1, h2 => by
    unfold sendMsgs
    split
    · rename_i a x h
      have := pick_no h1 h2 h
      have hc : (txChan a).1 ≠ 2 := by
        intro hc; have := this.2; rw [cred2 hm hc, h2] at this; cases this
      have e : K2 ((sendMsg n a (s.modLane n fun _ => x)).laneOf n) = K2 (s.laneOf n) := by
        rw [send_K2 hc, laneOf_modLane]; exact this.1
      refine sends_no hm k _ ?_ ?_
      · have := congrArg (·.1) e; exact this.trans h1
      · rw [cred_of hm e]; exact h2
    · exact h1
def F2 (n : Nat) (w : State) := (K2 (w.laneOf n), (w.laneOf n).txMgmt, (w.laneOf n).txMesh, w.tmu, w.reg)
theorem mod2 (n : Nat) (w : State) (f : LaneS → LaneS) (hf : ∀ x, K2 (f x) = K2 x ∧ (f x).txMgmt = x.txMgmt ∧ (f x).txMesh = x.txMesh) :
    F2 n (w.modLane n f) = F2 n w := by
  unfold F2; rw [laneOf_modLane, (hf _).1, (hf _).2.1, (hf _).2.2]; rfl
theorem owe_K2 (n : Nat) (s : State) : ∃ u : State, trySend n s = (if laneState n s = 3 then
      (sendMsgs n ((s.laneOf n).txTime.length + (s.laneOf n).txMgmt.length + (s.laneOf n).txMesh.length) u).modLane n fun x => { x with out := x.out ++ [idleBlock] } else s) ∧
    K2 (u.laneOf n) = K2 (s.laneOf n) ∧ u.tmu = s.tmu ∧ u.reg = s.reg ∧
    (u.laneOf n).txMgmt = (s.laneOf n).txMgmt ∧ (u.laneOf n).txMesh = (s.laneOf n).txMesh := by
  by_cases h : laneState n s = 3
  · unfold trySend
    rw [if_pos h]
    extract_lets s0 s1 s2 x
    have e0 : F2 n s0 = F2 n s := mod2 n s _ fun x => ⟨rfl, rfl, rfl⟩
    have e1 : F2 n s1 = F2 n s0 := by
      simp only [s1]; split
      · exact mod2 n s0 _ fun x => ⟨rfl, rfl, rfl⟩
      · rfl
    have e2 : F2 n s2 = F2 n s1 := by
      simp only [s2]; split
      · exact mod2 n s1 _ fun x => ⟨rfl, rfl, rfl⟩
      · rfl
    have e2 : F2 n s2 = F2 n s := e2.trans (e1.trans e0)
    clear_value s2
    unfold F2 at e2
    simp only [Prod.mk.injEq] at e2
    have e3 : (s2.laneOf n).txTime = (s.laneOf n).txTime := congrArg (·.1) e2.1
    refine ⟨s2, ?_, e2.1, e2.2.2.2.1, e2.2.2.2.2, e2.2.1, e2.2.2.1⟩
    rw [if_pos h, ← e3, ← e2.2.1, ← e2.2.2.1]
  · refine ⟨s, ?_, rfl, rfl, rfl, rfl, rfl⟩
    unfold trySend
    rw [if_neg h, if_neg h]
theorem try_no {n : Nat} {m : TxMsg} {s : State} (hm : (txChan m).1 = 2) (h1 : (s.laneOf n).txTime = [m]) (h2 : creditFor n m s = false) : ((trySend n s).laneOf n).txTime = [m] := by
  obtain ⟨u, e, h, _⟩ := owe_K2 n s
  rw [e]
  split
  · rw [laneOf_modLane]
    refine sends_no hm _ _ ?_ ?_
    · have := congrArg (·.1) h; exact this.trans h1
    · rw [cred_of hm h]; exact h2
  · exact h1
theorem laneFlag_rd {n b e k : Nat} {s : State} (h : k ≠ TMU.LANE_FLAGS n) (h' : k ≠ TMU.EVFLAGS) : (laneFlag n b e s).rd k = s.rd k :=
  (laneFlag_fr (V := fun j => j = TMU.LANE_FLAGS n ∨ j = TMU.EVFLAGS) (M := True) n b e s (fr_refl s) (.inl rfl) (.inr rfl)).1 k (by rintro (h1 | h1) <;> contradiction)
theorem laneFlag_tmu (n b e : Nat) (s : State) : (laneFlag n b e s).tmu = s.tmu := by
  unfold laneFlag tmuFlag
  dsimp only
  split
  · rw [setBit_tmu]; rfl
  · rw [flag_tmu, setBit_tmu]; rfl
theorem note_made (n i st : Nat) (s : State) : (noteSent n i st s).rd (TMU.TXTS_MADE n) = min (s.rd (TMU.TXTS_MADE n) + 1) (2 ^ 64 - 1) := by
  rw [← bump_eq]
  unfold noteSent
  dsimp only
  generalize s.bump 64 (TMU.TXTS_MADE n) = x
  split
  · split
    · exact rd_modLaneTime _ _ _ _
    · rw [laneFlag_rd (by (simp only [TMU.ROLE, TMU.INCR, TMU.STEP, TMU.SET, TMU.STATUS, TMU.EVFLAGS, TMU.STEPS, TMU.STEPS_REFUSED, TMU.GM_SERIAL, TMU.HOPS, TMU.EXCHANGES, TMU.OFFSET, TMU.DELAY, TMU.LANE_FLAGS, TMU.TXTS_MADE, TMU.TXTS_READ, TMU.TXTS_LOST, TMU.RX_LOST, TMU.AP_STATE, TMU.AP_OPENS, TMU.AP_PERIOD, TMU.AP_CLOSE, TMU.AP_OPEN, TMU.TRG_STATE, TMU.TRG_FIRED, TMU.TRG_MISSED, TMU.TRG_COUNT, TMU.TRG_CFG, TMU.TRG_PERIOD, TMU.TRG_AT, TMU.TRG_WIDTH, TMU.CAP_CFG, TMU.CAP_LOST, TMU.CAP_TAKEN, TMU.SRC_LANE, TMU.SERVE, TMU.INTERVAL, TMU.STEP_LIMIT, TMU.LOCK_LIMIT, HDI.STATUS, HDI.APPLY_OUTCOME, HDI.MIRROR_STATE, DSP.STATE, VEN.STATE, VEN.FLAGS, LNK.MESH_RESP, LNK.EVFLAGS, LNK.STATE, ne_eq]; omega)) (by (simp only [TMU.ROLE, TMU.INCR, TMU.STEP, TMU.SET, TMU.STATUS, TMU.EVFLAGS, TMU.STEPS, TMU.STEPS_REFUSED, TMU.GM_SERIAL, TMU.HOPS, TMU.EXCHANGES, TMU.OFFSET, TMU.DELAY, TMU.LANE_FLAGS, TMU.TXTS_MADE, TMU.TXTS_READ, TMU.TXTS_LOST, TMU.RX_LOST, TMU.AP_STATE, TMU.AP_OPENS, TMU.AP_PERIOD, TMU.AP_CLOSE, TMU.AP_OPEN, TMU.TRG_STATE, TMU.TRG_FIRED, TMU.TRG_MISSED, TMU.TRG_COUNT, TMU.TRG_CFG, TMU.TRG_PERIOD, TMU.TRG_AT, TMU.TRG_WIDTH, TMU.CAP_CFG, TMU.CAP_LOST, TMU.CAP_TAKEN, TMU.SRC_LANE, TMU.SERVE, TMU.INTERVAL, TMU.STEP_LIMIT, TMU.LOCK_LIMIT, HDI.STATUS, HDI.APPLY_OUTCOME, HDI.MIRROR_STATE, DSP.STATE, VEN.STATE, VEN.FLAGS, LNK.MESH_RESP, LNK.EVFLAGS, LNK.STATE, ne_eq]; omega))]; exact bump_ne (by (simp only [TMU.ROLE, TMU.INCR, TMU.STEP, TMU.SET, TMU.STATUS, TMU.EVFLAGS, TMU.STEPS, TMU.STEPS_REFUSED, TMU.GM_SERIAL, TMU.HOPS, TMU.EXCHANGES, TMU.OFFSET, TMU.DELAY, TMU.LANE_FLAGS, TMU.TXTS_MADE, TMU.TXTS_READ, TMU.TXTS_LOST, TMU.RX_LOST, TMU.AP_STATE, TMU.AP_OPENS, TMU.AP_PERIOD, TMU.AP_CLOSE, TMU.AP_OPEN, TMU.TRG_STATE, TMU.TRG_FIRED, TMU.TRG_MISSED, TMU.TRG_COUNT, TMU.TRG_CFG, TMU.TRG_PERIOD, TMU.TRG_AT, TMU.TRG_WIDTH, TMU.CAP_CFG, TMU.CAP_LOST, TMU.CAP_TAKEN, TMU.SRC_LANE, TMU.SERVE, TMU.INTERVAL, TMU.STEP_LIMIT, TMU.LOCK_LIMIT, HDI.STATUS, HDI.APPLY_OUTCOME, HDI.MIRROR_STATE, DSP.STATE, VEN.STATE, VEN.FLAGS, LNK.MESH_RESP, LNK.EVFLAGS, LNK.STATE, ne_eq]; omega))
  · exact bump_ne (by (simp only [TMU.ROLE, TMU.INCR, TMU.STEP, TMU.SET, TMU.STATUS, TMU.EVFLAGS, TMU.STEPS, TMU.STEPS_REFUSED, TMU.GM_SERIAL, TMU.HOPS, TMU.EXCHANGES, TMU.OFFSET, TMU.DELAY, TMU.LANE_FLAGS, TMU.TXTS_MADE, TMU.TXTS_READ, TMU.TXTS_LOST, TMU.RX_LOST, TMU.AP_STATE, TMU.AP_OPENS, TMU.AP_PERIOD, TMU.AP_CLOSE, TMU.AP_OPEN, TMU.TRG_STATE, TMU.TRG_FIRED, TMU.TRG_MISSED, TMU.TRG_COUNT, TMU.TRG_CFG, TMU.TRG_PERIOD, TMU.TRG_AT, TMU.TRG_WIDTH, TMU.CAP_CFG, TMU.CAP_LOST, TMU.CAP_TAKEN, TMU.SRC_LANE, TMU.SERVE, TMU.INTERVAL, TMU.STEP_LIMIT, TMU.LOCK_LIMIT, HDI.STATUS, HDI.APPLY_OUTCOME, HDI.MIRROR_STATE, DSP.STATE, VEN.STATE, VEN.FLAGS, LNK.MESH_RESP, LNK.EVFLAGS, LNK.STATE, ne_eq]; omega))
theorem try_one {n v : Nat} {s : State} (hs : laneState n s = 3) (h1 : (s.laneOf n).txTime = [.host v]) (h2 : creditFor n (.host v) s = true)
    (h3 : (s.laneOf n).txMgmt = []) (h4 : (s.laneOf n).txMesh = []) :
    ((trySend n s).laneOf n).txTime = [] ∧ (∃ l, ((trySend n s).laneOf n).out = l ++ blocksFor (.host v) s ++ [idleBlock]) ∧ (trySend n s).rd (TMU.TXTS_MADE n) = min (s.rd (TMU.TXTS_MADE n) + 1) (2 ^ 64 - 1) := by
  obtain ⟨u, e, h, et, er, g3, g4⟩ := owe_K2 n s
  rw [e, if_pos hs, h1, h3, h4]
  have g1 : (u.laneOf n).txTime = [.host v] := (congrArg (·.1) h).trans h1
  have g2 : creditFor n (.host v) u = true := by rw [cred_of rfl h]; exact h2
  have hk : [TxMsg.host v].length + ([] : List TxMsg).length + ([] : List TxMsg).length = 1 := rfl
  rw [hk]
  have hp : pickTx n u = some (.host v, { u.laneOf n with txTime := [] }) := by
    have c0 : firstCredit n (u.laneOf n).txTime u = true := by rw [g1]; exact g2
    unfold pickTx; dsimp only; rw [if_pos c0, g1]; rfl
  have es : sendMsgs n 1 u = sendMsg n (.host v) (u.modLane n fun _ => { u.laneOf n with txTime := [] }) := by
    unfold sendMsgs; rw [hp]; dsimp only; unfold sendMsgs; rfl
  rw [es]
  unfold sendMsg
  dsimp only
  refine ⟨?_, ?_, ?_⟩
  · rw [laneOf_modLane, lane_of (afterSend_keepsLanes (s0 := _) n _ _ rfl) n, laneOf_modLane, laneOf_modLane]
  · refine ⟨(u.laneOf n).out, ?_⟩
    rw [laneOf_modLane, lane_of (afterSend_keepsLanes (s0 := _) n _ _ rfl) n, laneOf_modLane, laneOf_modLane]
    rfl
  · rw [rd_modLane]
    unfold afterSend
    dsimp only
    have ud : u.rd (TMU.TXTS_MADE n) = s.rd (TMU.TXTS_MADE n) := by unfold State.rd; rw [er]
    rw [note_made]
    show min (u.rd _ + 1) _ = _
    rw [ud]
end TimeFacts
open TimeFacts
namespace TimeFacts
def X3 (x : Option Exch) := x.map fun e => (e.seq, e.t2, e.t1)
def P3 (n : Nat) (s : State) := (s.tmu.seq, s.tmu.startAt, X3 s.tmu.xch, (s.laneTimeOf n).rx, (s.laneTimeOf n).inbox)
theorem P3_tmu {n : Nat} {s t : State} (h : t.tmu = s.tmu) : P3 n t = P3 n s := by unfold P3 State.laneTimeOf; rw [h]
theorem P3_lt (n m : Nat) (f : LaneTime → LaneTime) (s : State) (hf : ∀ x, (f x).rx = x.rx ∧ (f x).inbox = x.inbox) : P3 n (s.modLaneTime m f) = P3 n s := by
  unfold P3
  by_cases e : n = m
  · subst e; rw [laneTimeOf_modLaneTime, (hf _).1, (hf _).2]; rfl
  · rw [laneTimeOf_modLaneTime_other _ e]; rfl
theorem note_P3 (n m i st : Nat) (s : State) : P3 n (noteSent m i st s) = P3 n s := by
  unfold noteSent
  dsimp only
  split
  · split
    · exact (P3_lt n m (fun t => { t with txts := t.txts ++ [(st, i)] }) _ (fun x => ⟨rfl, rfl⟩)).trans (P3_tmu rfl)
    · exact P3_tmu (by rw [laneFlag_tmu]; rfl)
  · exact P3_tmu rfl
theorem after_P3 (n m : Nat) (x : TxMsg) (s : State) : P3 n (afterSend m x s) = P3 n s := by
  unfold afterSend
  cases x with
  | host d => exact note_P3 _ _ _ _ _
  | mgmt a b c => rfl
  | mesh a b => exact P3_tmu rfl
  | time ty q t =>
    dsimp only
    rw [← note_P3 n m q (stampAt s s.now) s]
    generalize noteSent m q (stampAt s s.now) s = u
    split
    · exact P3_lt _ _ _ _ (fun x => ⟨rfl, rfl⟩)
    · split
      · unfold P3 X3
        show (u.tmu.seq, u.tmu.startAt, (u.tmu.xch.map fun e => { e with t3 := some (stampAt s s.now) }).map _, _, _) = _
        rw [Option.map_map]; rfl
      · rfl
theorem send_P3 (n m : Nat) (x : TxMsg) (s : State) : P3 n (sendMsg m x s) = P3 n s := by
  unfold sendMsg; dsimp only; rw [after_P3]; exact P3_tmu rfl
theorem sends_P3 (n m : Nat) : ∀ (k : Nat) (s : State), P3 n (sendMsgs m k s) = P3 n s
  | 0, _ => rfl
  | k + 1, s => by
    unfold sendMsgs
    split
    · rw [sends_P3 n m k, send_P3]; exact P3_tmu rfl
    · rfl
theorem try_P3 (n m : Nat) (s : State) : P3 n (trySend m s) = P3 n s := by
  obtain ⟨u, e, h, et, _⟩ := owe_K2 m s
  rw [e]
  split
  · rw [P3_tmu (show ((sendMsgs m _ u).modLane m _).tmu = (sendMsgs m _ u).tmu from rfl), sends_P3]; exact P3_tmu et
  · rfl
theorem P3_of {n : Nat} {s t : State} (h : P3 n t = P3 n s) : t.tmu.seq = s.tmu.seq ∧ t.tmu.startAt = s.tmu.startAt ∧ X3 t.tmu.xch = X3 s.tmu.xch ∧ (t.laneTimeOf n).rx = (s.laneTimeOf n).rx ∧ (t.laneTimeOf n).inbox = (s.laneTimeOf n).inbox := by
  unfold P3 at h; simp only [Prod.mk.injEq] at h; exact h
theorem X3_some {a : Option Exch} {y : Exch} (h : X3 a = some (y.seq, y.t2, y.t1)) : ∃ z, a = some z ∧ z.seq = y.seq ∧ z.t2 = y.t2 ∧ z.t1 = y.t1 := by
  cases a with
  | none => cases h
  | some z => unfold X3 at h; simp only [Option.map_some, Option.some.injEq, Prod.mk.injEq] at h; exact ⟨z, rfl, h⟩
theorem help {n type : Nat} {act : TimeIn → State → State} {s : State} {m : TimeIn} {P : State → Prop} (hn : n < 48) (hh : (s.tgtOf 0).held = false)
    (hm : (s.laneTimeOf n).inbox.find? (fun m => Nat.beq (Dict.bitsOf m.msg 23 16) type) = some m)
    (hp : ∀ u : State, (u.laneTimeOf n).inbox = (s.laneTimeOf n).inbox.erase m → u.reg = s.reg → u.lanes = s.lanes → u.tmu.xch = s.tmu.xch → u.tgt = s.tgt → u.now = s.now → P (act m u)) : ∃ t, helper n type act s = .next t ∧ P t := by
  unfold helper
  refine givesU hn ?_
  rw [hh, if_neg (by decide), hm]
  dsimp only
  exact hp _ (by rw [laneTimeOf_modLaneTime]) rfl rfl rfl rfl rfl
theorem incr_bound (theta : Int) (s : State) : 0xFFBE76C9 ≤ (slew theta s).rd TMU.INCR ∧ (slew theta s).rd TMU.INCR ≤ 0x100418937 := by
  unfold slew setIncr
  dsimp only
  rw [rd_wr_same]
  generalize (2 ^ 32 + _ - _ : Int) = x
  unfold clampInt
  split
  · decide
  · split
    · decide
    · omega
theorem lock_rd {theta : Int} {s : State} {k : Nat} (h1 : k ≠ HDI.STATUS) (h2 : k ≠ TMU.STATUS) (h3 : k ≠ TMU.EVFLAGS) : (countLock theta s).rd k = s.rd k := by
  unfold countLock
  split
  · dsimp only
    split
    · rw [rise_rd h1 h2 h3, rd_setBit_other _ h2]; rfl
    · rfl
  · rfl
theorem servo_rd {theta : Int} {s : State} {k : Nat} (h0 : k ∈ [TMU.EXCHANGES, TMU.OFFSET, TMU.DELAY]) : (servo theta s).rd k = s.rd k := by
  have hi : k ≠ TMU.INCR ∧ k ≠ HDI.STATUS ∧ k ≠ TMU.STATUS ∧ k ≠ TMU.EVFLAGS ∧ k ≠ TMU.STEPS ∧ k ≠ TMU.STEPS_REFUSED := by
    simp only [List.mem_cons, List.not_mem_nil, or_false] at h0
    rcases h0 with rfl | rfl | rfl <;> decide
  have sl : ∀ u : State, (slew theta u).rd k = u.rd k := by intro u; unfold slew setIncr; dsimp only; rw [rd_wr_other _ hi.1]; rfl
  unfold servo
  split
  · split
    · rw [lock_rd hi.2.1 hi.2.2.1 hi.2.2.2.1, sl]
      show (stepRefused s).rd k = _
      unfold stepRefused tmuFlag; rw [rd_flag_other _ hi.2.2.2.1, bump_ne hi.2.2.2.2.2]
    · unfold stepBy stepTo tmuFlag; rw [rd_flag_other _ hi.2.2.2.1, bump_ne hi.2.2.2.2.1]; rfl
  · rw [lock_rd hi.2.1 hi.2.2.1 hi.2.2.2.1, sl]
theorem tmu_xch_flag (b : Nat) (s : State) : (tmuFlag b s).tmu = s.tmu := by unfold tmuFlag; exact flag_tmu _ _ _ _
theorem rise_tmu (s : State) : (validRise s).tmu = s.tmu := by unfold validRise setValid; split; rfl; rw [tmu_xch_flag, setBit_tmu, setBit_tmu]
theorem lock_xch (theta : Int) (s : State) : (countLock theta s).tmu.xch = s.tmu.xch := by
  unfold countLock; split
  · dsimp only; split
    · rw [rise_tmu, setBit_tmu]; rfl
    · rfl
  · rfl
theorem servo_xch (theta : Int) (s : State) : (servo theta s).tmu.xch = s.tmu.xch := by
  unfold servo
  split
  · split
    · rw [lock_xch]; show (stepRefused s).tmu.xch = _; unfold stepRefused; rw [tmu_xch_flag]; rfl
    · unfold stepBy stepTo; rw [tmu_xch_flag]; rfl
  · rw [lock_xch]; rfl
theorem not_armed {a : Nat} {s : State} (h : apArmed a s = false) : True := trivial
theorem pulses_rd {a k : Nat} {s : State} (h : ∀ u, u < 16 → k ≠ TMU.TRG_FIRED u) : (aperturePulses a s).rd k = s.rd k := by
  unfold aperturePulses
  have : ∀ (l : List Nat) (u : State), (∀ t ∈ l, t < 16) → (l.foldl (fun s t =>
    if s.rd (TMU.TRG_STATE t) = 1 ∧ Dict.bitsOf (s.rd (TMU.TRG_CFG t)) 2 1 = 1 ∧ Dict.bitsOf (s.rd (TMU.TRG_CFG t)) 7 4 = a then
      s.bump 64 (TMU.TRG_FIRED t)
    else s) u).rd k = u.rd k := by
    intro l; induction l with
    | nil => intro u _; rfl
    | cons b l ih =>
      intro u hl; rw [List.foldl_cons, ih _ (fun t ht => hl t (List.mem_cons_of_mem _ ht))]
      split
      · exact bump_ne (h b (hl b (by simp)))
      · rfl
  exact this _ _ (fun t ht => List.mem_range.1 ht)
theorem pulses_now (a : Nat) (s : State) : (aperturePulses a s).now = s.now := by
  unfold aperturePulses
  generalize List.range 16 = l
  induction l generalizing s with
  | nil => rfl
  | cons b l ih => rw [List.foldl_cons, ih]; split <;> rfl
theorem tmuFlag_now (b : Nat) (s : State) : (tmuFlag b s).now = s.now := by unfold tmuFlag; exact flag_now _ _ _ _
theorem tmuFlag_rd {b k : Nat} {s : State} (h : k ≠ TMU.EVFLAGS) : (tmuFlag b s).rd k = s.rd k := by unfold tmuFlag; exact rd_flag_other _ h _ _
theorem trg_of {n : Nat} {s t : State} (h : t.tmu = s.tmu) : t.trgOf n = s.trgOf n := by unfold State.trgOf; rw [h]
theorem cap_of {n : Nat} {s t : State} (h : t.tmu = s.tmu) : t.capOf n = s.capOf n := by unfold State.capOf; rw [h]
theorem setApK_rd (a k j : Nat) (s : State) : (setApK a k s).rd j = s.rd j := rfl
set_option Elab.async false in
theorem pin_bit (b n : Nat) (r : Bool) : (if r = true then b ||| 2 ^ n else b - (if b.testBit n then 2 ^ n else 0)).testBit n = r := by
  cases r
  · simp only [Bool.false_eq_true, if_false]
    by_cases h : b.testBit n = true
    · rw [if_pos h, sub_bit _ _ _ h, h]; simp
    · rw [if_neg h, Nat.sub_zero]; simpa using h
  · simp
end TimeFacts
end Sys2Proof.Laws.CompleteTmu
end

