-- ==== Sys2Proof/Laws/KeepsVeFifo.lean ====
section
/-! SUPPORT. Functions g of one value of State.veOf: what the operations it lists leave unchanged. -/
namespace Sys2Proof.Laws
open Sys2Proof.Machine
section
variable {α : Type} {g : VeRun → α} {nn : Nat} {s0 : State}
def KeepsVeFifo (g : VeRun → α) (nn : Nat) (s0 s : State) : Prop := g (s.veOf nn) = g (s0.veOf nn)
theorem keepsVeFifo_ite {c : Prop} [Decidable c] {x y : State} (hx : KeepsVeFifo g nn s0 x) (hy : KeepsVeFifo g nn s0 y) : KeepsVeFifo g nn s0 (if c then x else y) := by split <;> assumption
theorem keepsVeFifo_foldl {β : Type} {f : State → β → State} (hf : ∀ s x, KeepsVeFifo g nn s0 s → KeepsVeFifo g nn s0 (f s x)) :
    ∀ {l : List β} {s : State}, KeepsVeFifo g nn s0 s → KeepsVeFifo g nn s0 (l.foldl f s)
  | [], _, h => h
  | x :: l, s, h => keepsVeFifo_foldl (l := l) hf (hf s x h)
theorem keepsVeFifo_cut {s : State} {p : Prop} (h : KeepsVeFifo g nn s0 s) (f : KeepsVeFifo g nn s0 s → p) : p := f h
theorem modVe_keepsVeFifo (m : Nat) (f : VeRun → VeRun) (s : State) (h : KeepsVeFifo g nn s0 s) (hf : ∀ e, g (f e) = g e) : KeepsVeFifo g nn s0 (s.modVe m f) := by
  unfold KeepsVeFifo at *
  by_cases e : nn = m
  · subst e; rw [veOf_modVe, hf, h]
  · rw [veOf_modVe_other s e, h]
theorem wr_keepsVeFifo (k v : Nat) (s : State) (h : KeepsVeFifo g nn s0 s) : KeepsVeFifo g nn s0 (s.wr k v) := h
theorem keepsVeFifo_mk_iff {s : State} {x_now : Nat} {x_reg : Tab Nat} {x_mem : List Host.Cell} {x_evq : List (Nat × Nat)} {x_freeCtr : Nat} {x_pending : List Instr} {x_hdi : HdiS} {x_clk : ClockS} {x_sched : List Sched} {x_outCh : Tab OutCh} {x_inCh : Tab InCh} {x_fcp : Tab FcpS} {x_sq : Tab SqS} {x_brk : Tab BrkS} {x_tgt : Tab TgtS} {x_groupAt : List (Nat × Nat)} {x_dsp : Tab DspRun} {x_focus : FocusS} {x_trim : TrimS} {x_reqs : List MeshReq} {x_resps : List MeshResp} {x_held : List PortReq} {x_steal : List PortReq} {x_labels : List (MeshReq × Nat)} {x_drain : Option Drain} {x_trace : List Nat} {x_dmc : Tab DmcS} {x_autoTrain : Bool} {x_crh : CrhS} {x_cfg : CfgS} {x_fresh : List (Nat × Nat × Nat)} {x_cleared : List (Nat × Nat × Nat)} {x_sup : SupS} {x_dbg : DbgS} {x_tmu : TmuS} {x_lanes : Tab LaneS} {x_cells : Tab (Option CellS)} {x_cellCfg : Tab CellCfg} {x_sels : Tab Nat} {x_tracks : Tab Nat} {x_upsets : List Upset} {x_facets : Tab FacetS} {x_fev : List (Nat × Nat)} {x_panes : Tab PaneS} {x_banks : Tab BankS} {x_pins : PinsS} :
    KeepsVeFifo g nn s0 ⟨x_now, x_reg, x_mem, x_evq, x_freeCtr, x_pending, x_hdi, x_clk, x_sched, s.ve, x_outCh, x_inCh, x_fcp, x_sq, x_brk, x_tgt, x_groupAt, x_dsp, x_focus, x_trim, x_reqs, x_resps, x_held, x_steal, x_labels, x_drain, x_trace, x_dmc, x_autoTrain, x_crh, x_cfg, x_fresh, x_cleared, x_sup, x_dbg, x_tmu, x_lanes, x_cells, x_cellCfg, x_sels, x_tracks, x_upsets, x_facets, x_fev, x_panes, x_banks, x_pins⟩ ↔ KeepsVeFifo g nn s0 s := Iff.rfl
theorem meshSend_keepsVeFifo (r : MeshReq) (s : State) (hs : KeepsVeFifo (fun e : VeRun => e.inflight) nn s0 s) :
    KeepsVeFifo (fun e : VeRun => e.inflight) nn s0 (meshSend r s) := by
  unfold meshSend
  repeat' first
    | with_reducible intro _
    | with_reducible assumption
    | simp only [↓keepsVeFifo_mk_iff]
    | with_reducible apply keepsVeFifo_ite
    | split

set_option Elab.async false in
theorem respTaken_keepsVeFifo (x : MeshResp) (s : State) (hs : KeepsVeFifo (fun e : VeRun => e.inflight) nn s0 s) :
    KeepsVeFifo (fun e : VeRun => e.inflight) nn s0 (respTaken x s) := by
  unfold respTaken
  repeat' first
    | with_reducible intro _
    | with_reducible assumption
    | simp only [↓keepsVeFifo_mk_iff]
end

end Sys2Proof.Laws
end

