-- ==== Sys2Proof/Laws/KeepsVeLines.lean ====
section
/-! SUPPORT. Functions g of one value of State.veOf: what the operations it lists leave unchanged. -/
set_option linter.unreachableTactic false
set_option linter.unusedSimpArgs false
set_option linter.unusedTactic false
namespace Sys2Proof.Laws
open Sys2Proof.Machine
section
variable {α : Type} {g : VeRun → α} {nn : Nat} {s0 : State}
def KeepsVeLines (g : VeRun → α) (nn : Nat) (s0 s : State) : Prop := g (s.veOf nn) = g (s0.veOf nn)
theorem keepsVeLines_ite {c : Prop} [Decidable c] {x y : State} (hx : KeepsVeLines g nn s0 x) (hy : KeepsVeLines g nn s0 y) : KeepsVeLines g nn s0 (if c then x else y) := by split <;> assumption
theorem keepsVeLines_foldl {β : Type} {f : State → β → State} (hf : ∀ s x, KeepsVeLines g nn s0 s → KeepsVeLines g nn s0 (f s x)) :
    ∀ {l : List β} {s : State}, KeepsVeLines g nn s0 s → KeepsVeLines g nn s0 (l.foldl f s)
  | [], _, h => h
  | x :: l, s, h => keepsVeLines_foldl (l := l) hf (hf s x h)
theorem keepsVeLines_cut {s : State} {p : Prop} (h : KeepsVeLines g nn s0 s) (f : KeepsVeLines g nn s0 s → p) : p := f h
theorem modVe_keepsVeLines (m : Nat) (f : VeRun → VeRun) (s : State) (h : KeepsVeLines g nn s0 s) (hf : ∀ e, g (f e) = g e) : KeepsVeLines g nn s0 (s.modVe m f) := by
  unfold KeepsVeLines at *
  by_cases e : nn = m
  · subst e; rw [veOf_modVe, hf, h]
  · rw [veOf_modVe_other s e, h]
theorem wr_keepsVeLines (k v : Nat) (s : State) (h : KeepsVeLines g nn s0 s) : KeepsVeLines g nn s0 (s.wr k v) := h
theorem keepsVeLines_mk_iff {s : State} {x_now : Nat} {x_reg : Tab Nat} {x_mem : List Host.Cell} {x_evq : List (Nat × Nat)} {x_freeCtr : Nat} {x_pending : List Instr} {x_hdi : HdiS} {x_clk : ClockS} {x_sched : List Sched} {x_outCh : Tab OutCh} {x_inCh : Tab InCh} {x_fcp : Tab FcpS} {x_sq : Tab SqS} {x_brk : Tab BrkS} {x_tgt : Tab TgtS} {x_groupAt : List (Nat × Nat)} {x_dsp : Tab DspRun} {x_focus : FocusS} {x_trim : TrimS} {x_reqs : List MeshReq} {x_resps : List MeshResp} {x_held : List PortReq} {x_steal : List PortReq} {x_labels : List (MeshReq × Nat)} {x_drain : Option Drain} {x_trace : List Nat} {x_dmc : Tab DmcS} {x_autoTrain : Bool} {x_crh : CrhS} {x_cfg : CfgS} {x_fresh : List (Nat × Nat × Nat)} {x_cleared : List (Nat × Nat × Nat)} {x_sup : SupS} {x_dbg : DbgS} {x_tmu : TmuS} {x_lanes : Tab LaneS} {x_cells : Tab (Option CellS)} {x_cellCfg : Tab CellCfg} {x_sels : Tab Nat} {x_tracks : Tab Nat} {x_upsets : List Upset} {x_facets : Tab FacetS} {x_fev : List (Nat × Nat)} {x_panes : Tab PaneS} {x_banks : Tab BankS} {x_pins : PinsS} :
    KeepsVeLines g nn s0 ⟨x_now, x_reg, x_mem, x_evq, x_freeCtr, x_pending, x_hdi, x_clk, x_sched, s.ve, x_outCh, x_inCh, x_fcp, x_sq, x_brk, x_tgt, x_groupAt, x_dsp, x_focus, x_trim, x_reqs, x_resps, x_held, x_steal, x_labels, x_drain, x_trace, x_dmc, x_autoTrain, x_crh, x_cfg, x_fresh, x_cleared, x_sup, x_dbg, x_tmu, x_lanes, x_cells, x_cellCfg, x_sels, x_tracks, x_upsets, x_facets, x_fev, x_panes, x_banks, x_pins⟩ ↔ KeepsVeLines g nn s0 s := Iff.rfl
theorem addTo_keepsVeLines (s : State) (w k d : Nat) (hs : KeepsVeLines (fun e : VeRun => e.cyc) nn s0 s) :
    KeepsVeLines (fun e : VeRun => e.cyc) nn s0 (State.addTo s w k d) := by
  unfold State.addTo
  repeat' first
    | with_reducible intro _
    | with_reducible assumption
    | with_reducible apply wr_keepsVeLines

theorem bump_keepsVeLines (s : State) (w k : Nat) (hs : KeepsVeLines (fun e : VeRun => e.cyc) nn s0 s) :
    KeepsVeLines (fun e : VeRun => e.cyc) nn s0 (State.bump s w k) := by
  unfold State.bump
  repeat' first
    | with_reducible intro _
    | with_reducible assumption
    | with_reducible apply addTo_keepsVeLines

theorem raiseAt_keepsVeLines (s : State) (t e : Nat) (hs : KeepsVeLines (fun e : VeRun => e.cyc) nn s0 s) :
    KeepsVeLines (fun e : VeRun => e.cyc) nn s0 (State.raiseAt s t e) := by
  unfold State.raiseAt
  repeat' first
    | with_reducible intro _
    | with_reducible assumption
    | simp only [↓keepsVeLines_mk_iff]
    | with_reducible apply keepsVeLines_ite
    | (extract_lets x; first | (with_reducible refine keepsVeLines_cut (s := x) ?_ ?_; (on_goal 2 => clear_value x); (on_goal 1 => unfold x)) | (subst x))
    | split

theorem raise_keepsVeLines (s : State) (e : Nat) (hs : KeepsVeLines (fun e : VeRun => e.cyc) nn s0 s) :
    KeepsVeLines (fun e : VeRun => e.cyc) nn s0 (State.raise s e) := by
  unfold State.raise
  repeat' first
    | with_reducible intro _
    | with_reducible assumption
    | with_reducible apply raiseAt_keepsVeLines
    | simp only [↓keepsVeLines_mk_iff]
    | with_reducible apply keepsVeLines_ite
    | (extract_lets x; first | (with_reducible refine keepsVeLines_cut (s := x) ?_ ?_; (on_goal 2 => clear_value x); (on_goal 1 => unfold x)) | (subst x))
    | split

theorem setBit_keepsVeLines (s : State) (k b : Nat) (v : Bool) (hs : KeepsVeLines (fun e : VeRun => e.cyc) nn s0 s) :
    KeepsVeLines (fun e : VeRun => e.cyc) nn s0 (State.setBit s k b v) := by
  unfold State.setBit
  repeat' first
    | with_reducible intro _
    | with_reducible assumption
    | with_reducible apply wr_keepsVeLines
    | with_reducible apply keepsVeLines_ite
    | split

theorem note_keepsVeLines (s : State) (k b : Nat) (hs : KeepsVeLines (fun e : VeRun => e.cyc) nn s0 s) :
    KeepsVeLines (fun e : VeRun => e.cyc) nn s0 (State.note s k b) := by
  unfold State.note
  repeat' first
    | with_reducible intro _
    | with_reducible assumption
    | simp only [↓keepsVeLines_mk_iff]
    | with_reducible apply keepsVeLines_ite
    | (extract_lets x; first | (with_reducible refine keepsVeLines_cut (s := x) ?_ ?_; (on_goal 2 => clear_value x); (on_goal 1 => unfold x)) | (subst x))
    | split

theorem modFcp_keepsVeLines (s : State) (n : Nat) (f : FcpS → FcpS) (hs : KeepsVeLines (fun e : VeRun => e.cyc) nn s0 s) :
    KeepsVeLines (fun e : VeRun => e.cyc) nn s0 (State.modFcp s n f) := by
  unfold State.modFcp
  repeat' first
    | with_reducible intro _
    | with_reducible assumption
    | simp only [↓keepsVeLines_mk_iff]

theorem modSq_keepsVeLines (s : State) (q : Nat) (f : SqS → SqS) (hs : KeepsVeLines (fun e : VeRun => e.cyc) nn s0 s) :
    KeepsVeLines (fun e : VeRun => e.cyc) nn s0 (State.modSq s q f) := by
  unfold State.modSq
  repeat' first
    | with_reducible intro _
    | with_reducible assumption
    | simp only [↓keepsVeLines_mk_iff]

theorem qFlag_keepsVeLines (q b th : Nat) (s : State) (hs : KeepsVeLines (fun e : VeRun => e.cyc) nn s0 s) :
    KeepsVeLines (fun e : VeRun => e.cyc) nn s0 (qFlag q b th s) := by
  unfold qFlag
  repeat' first
    | with_reducible intro _
    | with_reducible assumption
    | with_reducible apply modSq_keepsVeLines
    | with_reducible apply note_keepsVeLines
    | with_reducible apply setBit_keepsVeLines
    | with_reducible apply raise_keepsVeLines
    | simp only [↓keepsVeLines_mk_iff]
    | with_reducible apply keepsVeLines_ite
    | (extract_lets x; first | (with_reducible refine keepsVeLines_cut (s := x) ?_ ?_; (on_goal 2 => clear_value x); (on_goal 1 => unfold x)) | (subst x))
    | split

theorem fcpStopOne_keepsVeLines (n code th : Nat) (s : State) (hs : KeepsVeLines (fun e : VeRun => e.cyc) nn s0 s) :
    KeepsVeLines (fun e : VeRun => e.cyc) nn s0 (fcpStopOne n code th s) := by
  unfold fcpStopOne
  repeat' first
    | with_reducible intro _
    | with_reducible assumption
    | with_reducible apply wr_keepsVeLines
    | with_reducible apply modFcp_keepsVeLines
    | with_reducible apply qFlag_keepsVeLines
    | (with_reducible refine modVe_keepsVeLines _ _ _ ?_ ?_; (on_goal 2 => (intro e; rfl)))
    | simp only [↓keepsVeLines_mk_iff]
    | with_reducible apply keepsVeLines_ite
    | (extract_lets x; first | (with_reducible refine keepsVeLines_cut (s := x) ?_ ?_; (on_goal 2 => clear_value x); (on_goal 1 => unfold x)) | (subst x))
    | split

theorem fcpStop_keepsVeLines (n code policy th : Nat) (s : State) (hs : KeepsVeLines (fun e : VeRun => e.cyc) nn s0 s) :
    KeepsVeLines (fun e : VeRun => e.cyc) nn s0 (fcpStop n code policy th s) := by
  unfold fcpStop
  repeat' first
    | with_reducible intro _
    | with_reducible assumption
    | with_reducible apply fcpStopOne_keepsVeLines
    | with_reducible apply keepsVeLines_ite
    | with_reducible apply keepsVeLines_foldl
    | (extract_lets x; first | (with_reducible refine keepsVeLines_cut (s := x) ?_ ?_; (on_goal 2 => clear_value x); (on_goal 1 => unfold x)) | (subst x))
    | split

theorem fcpDrop_keepsVeLines (n counter policy th : Nat) (s : State) (hs : KeepsVeLines (fun e : VeRun => e.cyc) nn s0 s) :
    KeepsVeLines (fun e : VeRun => e.cyc) nn s0 (fcpDrop n counter policy th s) := by
  unfold fcpDrop
  repeat' first
    | with_reducible intro _
    | with_reducible assumption
    | with_reducible apply qFlag_keepsVeLines
    | with_reducible apply bump_keepsVeLines
    | with_reducible apply fcpStop_keepsVeLines
    | with_reducible apply modFcp_keepsVeLines
    | simp only [↓keepsVeLines_mk_iff]
    | with_reducible apply keepsVeLines_ite
    | (extract_lets x; first | (with_reducible refine keepsVeLines_cut (s := x) ?_ ?_; (on_goal 2 => clear_value x); (on_goal 1 => unfold x)) | (subst x))
    | split

theorem formRecord_keepsVeLines (n th : Nat) (r : FailRec) (s : State) (hs : KeepsVeLines (fun e : VeRun => e.cyc) nn s0 s) :
    KeepsVeLines (fun e : VeRun => e.cyc) nn s0 (formRecord n th r s) := by
  unfold formRecord
  repeat' first
    | with_reducible intro _
    | with_reducible assumption
    | with_reducible apply bump_keepsVeLines
    | with_reducible apply modFcp_keepsVeLines
    | with_reducible apply fcpDrop_keepsVeLines
    | simp only [↓keepsVeLines_mk_iff]
    | with_reducible apply keepsVeLines_ite
    | (extract_lets x; first | (with_reducible refine keepsVeLines_cut (s := x) ?_ ?_; (on_goal 2 => clear_value x); (on_goal 1 => unfold x)) | (subst x))
    | split

theorem closeRecord_keepsVeLines (n th : Nat) (s : State) (hs : KeepsVeLines (fun e : VeRun => e.cyc) nn s0 s) :
    KeepsVeLines (fun e : VeRun => e.cyc) nn s0 (closeRecord n th s) := by
  unfold closeRecord
  repeat' first
    | with_reducible intro _
    | with_reducible assumption
    | with_reducible apply formRecord_keepsVeLines
    | with_reducible apply modFcp_keepsVeLines
    | simp only [↓keepsVeLines_mk_iff]
    | split

theorem formBitmap_keepsVeLines (n th : Nat) (op : BmOp) (s : State) (hs : KeepsVeLines (fun e : VeRun => e.cyc) nn s0 s) :
    KeepsVeLines (fun e : VeRun => e.cyc) nn s0 (formBitmap n th op s) := by
  unfold formBitmap
  repeat' first
    | with_reducible intro _
    | with_reducible assumption
    | with_reducible apply bump_keepsVeLines
    | with_reducible apply modFcp_keepsVeLines
    | with_reducible apply fcpDrop_keepsVeLines
    | simp only [↓keepsVeLines_mk_iff]
    | with_reducible apply keepsVeLines_ite
    | (extract_lets x; first | (with_reducible refine keepsVeLines_cut (s := x) ?_ ?_; (on_goal 2 => clear_value x); (on_goal 1 => unfold x)) | (subst x))
    | split

theorem closeBitmap_keepsVeLines (n th : Nat) (s : State) (hs : KeepsVeLines (fun e : VeRun => e.cyc) nn s0 s) :
    KeepsVeLines (fun e : VeRun => e.cyc) nn s0 (closeBitmap n th s) := by
  unfold closeBitmap
  repeat' first
    | with_reducible intro _
    | with_reducible assumption
    | with_reducible apply formBitmap_keepsVeLines
    | with_reducible apply modFcp_keepsVeLines
    | simp only [↓keepsVeLines_mk_iff]
    | split

theorem closeMark_keepsVeLines (n th : Nat) (s : State) (hs : KeepsVeLines (fun e : VeRun => e.cyc) nn s0 s) :
    KeepsVeLines (fun e : VeRun => e.cyc) nn s0 (closeMark n th s) := by
  unfold closeMark
  repeat' first
    | with_reducible intro _
    | with_reducible assumption
    | with_reducible apply modFcp_keepsVeLines
    | with_reducible apply closeBitmap_keepsVeLines
    | with_reducible apply closeRecord_keepsVeLines
    | simp only [↓keepsVeLines_mk_iff]
    | split

theorem barFail_keepsVeLines (n t : Nat) (s : State) (hs : KeepsVeLines (fun e : VeRun => e.cyc) nn s0 s) :
    KeepsVeLines (fun e : VeRun => e.cyc) nn s0 (barFail n t s) := by
  unfold barFail
  repeat' first
    | with_reducible intro _
    | with_reducible assumption
    | (with_reducible refine modVe_keepsVeLines _ _ _ ?_ ?_; (on_goal 2 => (intro e; rfl)))
    | simp only [↓keepsVeLines_mk_iff]

theorem failNaming_keepsVeLines (i j t : Nat) (s : State) (hs : KeepsVeLines (fun e : VeRun => e.cyc) nn s0 s) :
    KeepsVeLines (fun e : VeRun => e.cyc) nn s0 (failNaming i j t s) := by
  unfold failNaming
  repeat' first
    | with_reducible intro _
    | with_reducible assumption
    | with_reducible apply barFail_keepsVeLines
    | with_reducible apply keepsVeLines_ite
    | with_reducible apply keepsVeLines_foldl
    | split

theorem regrid_keepsVeLines (n t : Nat) (s : State) (hs : KeepsVeLines (fun e : VeRun => e.cyc) nn s0 s) :
    KeepsVeLines (fun e : VeRun => e.cyc) nn s0 (regrid n t s) := by
  unfold regrid
  repeat' first
    | with_reducible intro _
    | with_reducible assumption
    | with_reducible apply failNaming_keepsVeLines
    | simp only [↓keepsVeLines_mk_iff]
    | with_reducible apply keepsVeLines_ite
    | with_reducible apply keepsVeLines_foldl
    | (extract_lets x; first | (with_reducible refine keepsVeLines_cut (s := x) ?_ ?_; (on_goal 2 => clear_value x); (on_goal 1 => unfold x)) | (subst x))
    | split

theorem siteNoted_keepsVeLines (n t v : Nat) (s : State) (hs : KeepsVeLines (fun e : VeRun => e.cyc) nn s0 s) :
    KeepsVeLines (fun e : VeRun => e.cyc) nn s0 (siteNoted n t v s) := by
  unfold siteNoted
  repeat' first
    | with_reducible intro _
    | with_reducible assumption
    | (with_reducible refine modVe_keepsVeLines _ _ _ ?_ ?_; (on_goal 2 => (intro e; rfl)))
    | simp only [↓keepsVeLines_mk_iff]
    | with_reducible apply keepsVeLines_ite
    | (extract_lets x; first | (with_reducible refine keepsVeLines_cut (s := x) ?_ ?_; (on_goal 2 => clear_value x); (on_goal 1 => unfold x)) | (subst x))
    | split

set_option Elab.async false in
theorem landTo_keepsVeLines (n t b : Nat) (s : State) (hs : KeepsVeLines (fun e : VeRun => e.cyc) nn s0 s) :
    KeepsVeLines (fun e : VeRun => e.cyc) nn s0 (landTo n t b s) := by
  unfold landTo
  repeat' first
    | with_reducible intro _
    | with_reducible assumption
    | with_reducible apply siteNoted_keepsVeLines
    | with_reducible apply regrid_keepsVeLines
    | with_reducible apply closeMark_keepsVeLines
    | (with_reducible refine modVe_keepsVeLines _ _ _ ?_ ?_; (on_goal 2 => (intro e; rfl)))
    | with_reducible apply wr_keepsVeLines
    | simp only [↓keepsVeLines_mk_iff]
    | with_reducible apply keepsVeLines_foldl
    | with_reducible apply keepsVeLines_ite
    | (extract_lets x; first | (with_reducible refine keepsVeLines_cut (s := x) ?_ ?_; (on_goal 2 => clear_value x); (on_goal 1 => unfold x)) | (subst x))
    | split

end
end Sys2Proof.Laws
end

