-- ==== Sys2Proof/Laws/CompleteVeEvents.lean ====
section
/-! SUPPORT. Events of vector engines and line reads: facts that proofs about their commands cite. -/
namespace Sys2Proof.Laws.CompleteVeEvents
open Sys2Proof.Machine Common CompleteVe
theorem stop4 (n b : Nat) (s : State) : veState n (veStopAt n b 4 s) = 4 := by
  unfold veStopAt
  extract_lets s1 s2 s3 s4 s5 s6
  rw [if_pos rfl]; exact enter_state _ _ _ (fun h => absurd h.2 (by decide))
theorem stopN (n b c : Nat) (s : State) (hc : c ≠ 4) (hc2 : c ≠ 2) : veState n (veStopAt n b c s) = c := by
  unfold veStopAt
  extract_lets s1 s2 s3 s4 s5 s6 s7 s8
  rw [if_neg hc]
  show (barrierLeft _ _ _).rd _ = _
  rw [barrierLeft_rd]; exact enter_state _ _ _ (by intro h; exact hc2 h.2)
theorem raise_state (n e : Nat) (s : State) : veState n (s.raise e) = veState n s := rd_raise _ _ _
theorem faultAt_land (n b : Nat) (s : State) : ((faultAt n b s).1.veOf n).lands = (s.veOf n).lands := by
  have hk := decideNext_keepsVeRun (nn := n) (s0 := s) n (s.upto (b - 18 * ticksPerNs)) rfl
  have e : (faultAt n b s).1 = (decideNext n (s.upto (b - 18 * ticksPerNs))).1 := by
    unfold faultAt; dsimp only; split <;> rfl
  rw [e]
  exact congrArg (·.2.2.1) hk
theorem regrid_rd (n t k : Nat) (s : State) : (regrid n t s).rd k = s.rd k :=
  (regrid_fr (V := fun _ => False) (M := True) n t s (fr_refl s)).1 k not_false
theorem kA (n k j : Nat) (hc : k = VEN.CYCLES n ∨ k = VEN.PTO_LEFT n) (hj : j < 16) : k ≠ VEN.CTR n j := by
  rcases hc with rfl | rfl <;> (simp only [VEN.CTR, VEN.CYCLES, VEN.PTO_LEFT]; omega)
theorem kB (n k : Nat) (hn : n < 32) (hc : k = VEN.CYCLES n ∨ k = VEN.PTO_LEFT n) : k ≠ VEN.START_ON_APPLY n ∧ k ≠ FCP.RUN_FAILS n ∧ k ≠ FCP.STOPPED_BY n ∧
   HDI.APPLY_OUTCOME ≠ k ∧ HDI.MIRROR_STATE ≠ k ∧ ∀ x, VEN.STATE x ≠ k := by
  refine ⟨?_, ?_, ?_, ?_, ?_, ?_⟩ <;> intros <;> rcases hc with rfl | rfl <;> (simp only [VEN.CYCLES, VEN.PTO_LEFT, VEN.START_ON_APPLY, VEN.STATE, HDI.MIRROR_STATE, HDI.APPLY_OUTCOME, FCP.RUN_FAILS, FCP.STOPPED_BY]; omega)
theorem meshSend_mem (r : MeshReq) (s : State) : (meshSend r s).mem = s.mem := (meshSend_fr (V := fun _ => False) (M := False) r s (fr_refl s)).2 not_false
set_option Elab.async false in
theorem meshSend_rd (r : MeshReq) (s : State) (k : Nat) : (meshSend r s).rd k = s.rd k := (meshSend_fr (V := fun _ => False) (M := False) r s (fr_refl s)).1 k not_false
end Sys2Proof.Laws.CompleteVeEvents
end

