-- ==== Sys2Proof/Laws/KeepsDspRegs.lean ====
section
/-! SUPPORT. Functions g of one value of State.dspOf: what the operations it lists leave unchanged. -/
set_option linter.unreachableTactic false
set_option linter.unusedSimpArgs false
set_option linter.unusedTactic false
namespace Sys2Proof.Laws
open Sys2Proof.Machine
section
variable {α : Type} {g : DspRun → α} {nn : Nat} {s0 : State}
def KeepsDspRegs (g : DspRun → α) (nn : Nat) (s0 s : State) : Prop := g (s.dspOf nn) = g (s0.dspOf nn)
theorem keepsDspRegs_ite {c : Prop} [Decidable c] {x y : State} (hx : KeepsDspRegs g nn s0 x) (hy : KeepsDspRegs g nn s0 y) : KeepsDspRegs g nn s0 (if c then x else y) := by split <;> assumption
theorem keepsDspRegs_foldl {β : Type} {f : State → β → State} (hf : ∀ s x, KeepsDspRegs g nn s0 s → KeepsDspRegs g nn s0 (f s x)) :
    ∀ {l : List β} {s : State}, KeepsDspRegs g nn s0 s → KeepsDspRegs g nn s0 (l.foldl f s)
  | [], _, h => h
  | x :: l, s, h => keepsDspRegs_foldl (l := l) hf (hf s x h)
theorem keepsDspRegs_cut {s : State} {p : Prop} (h : KeepsDspRegs g nn s0 s) (f : KeepsDspRegs g nn s0 s → p) : p := f h
theorem modDsp_keepsDspRegs (m : Nat) (f : DspRun → DspRun) (s : State) (h : KeepsDspRegs g nn s0 s) (hf : ∀ e, g (f e) = g e) : KeepsDspRegs g nn s0 (s.modDsp m f) := by
  unfold KeepsDspRegs at *
  by_cases e : nn = m
  · subst e; rw [dspOf_modDsp, hf, h]
  · rw [dspOf_modDsp_other s e, h]
theorem wr_keepsDspRegs (k v : Nat) (s : State) (h : KeepsDspRegs g nn s0 s) : KeepsDspRegs g nn s0 (s.wr k v) := h
theorem keepsDspRegs_mk_iff {s : State} {x_now : Nat} {x_reg : Tab Nat} {x_mem : List Host.Cell} {x_evq : List (Nat × Nat)} {x_freeCtr : Nat} {x_pending : List Instr} {x_hdi : HdiS} {x_clk : ClockS} {x_sched : List Sched} {x_ve : Tab VeRun} {x_outCh : Tab OutCh} {x_inCh : Tab InCh} {x_fcp : Tab FcpS} {x_sq : Tab SqS} {x_brk : Tab BrkS} {x_tgt : Tab TgtS} {x_groupAt : List (Nat × Nat)} {x_focus : FocusS} {x_trim : TrimS} {x_reqs : List MeshReq} {x_resps : List MeshResp} {x_held : List PortReq} {x_steal : List PortReq} {x_labels : List (MeshReq × Nat)} {x_drain : Option Drain} {x_trace : List Nat} {x_dmc : Tab DmcS} {x_autoTrain : Bool} {x_crh : CrhS} {x_cfg : CfgS} {x_fresh : List (Nat × Nat × Nat)} {x_cleared : List (Nat × Nat × Nat)} {x_sup : SupS} {x_dbg : DbgS} {x_tmu : TmuS} {x_lanes : Tab LaneS} {x_cells : Tab (Option CellS)} {x_cellCfg : Tab CellCfg} {x_sels : Tab Nat} {x_tracks : Tab Nat} {x_upsets : List Upset} {x_facets : Tab FacetS} {x_fev : List (Nat × Nat)} {x_panes : Tab PaneS} {x_banks : Tab BankS} {x_pins : PinsS} :
    KeepsDspRegs g nn s0 ⟨x_now, x_reg, x_mem, x_evq, x_freeCtr, x_pending, x_hdi, x_clk, x_sched, x_ve, x_outCh, x_inCh, x_fcp, x_sq, x_brk, x_tgt, x_groupAt, s.dsp, x_focus, x_trim, x_reqs, x_resps, x_held, x_steal, x_labels, x_drain, x_trace, x_dmc, x_autoTrain, x_crh, x_cfg, x_fresh, x_cleared, x_sup, x_dbg, x_tmu, x_lanes, x_cells, x_cellCfg, x_sels, x_tracks, x_upsets, x_facets, x_fev, x_panes, x_banks, x_pins⟩ ↔ KeepsDspRegs g nn s0 s := Iff.rfl
theorem keepsDspRegs_foldl_snd {A B : Type} {f : A × State → B → A × State} (hf : ∀ x i, KeepsDspRegs g nn s0 x.2 → KeepsDspRegs g nn s0 (f x i).2) :
    ∀ {l : List B} {x : A × State}, KeepsDspRegs g nn s0 x.2 → KeepsDspRegs g nn s0 (l.foldl f x).2
  | [], _, h => h
  | i :: l, x, h => keepsDspRegs_foldl_snd (l := l) hf (hf x i h)
theorem addTo_keepsDspRegs (s : State) (w k d : Nat) (hs : KeepsDspRegs (fun e : DspRun => (e.v, e.acc, e.a, e.o, e.c)) nn s0 s) :
    KeepsDspRegs (fun e : DspRun => (e.v, e.acc, e.a, e.o, e.c)) nn s0 (State.addTo s w k d) := by
  unfold State.addTo
  repeat' first
    | with_reducible intro _
    | with_reducible assumption
    | with_reducible apply wr_keepsDspRegs

theorem bump_keepsDspRegs (s : State) (w k : Nat) (hs : KeepsDspRegs (fun e : DspRun => (e.v, e.acc, e.a, e.o, e.c)) nn s0 s) :
    KeepsDspRegs (fun e : DspRun => (e.v, e.acc, e.a, e.o, e.c)) nn s0 (State.bump s w k) := by
  unfold State.bump
  repeat' first
    | with_reducible intro _
    | with_reducible assumption
    | with_reducible apply addTo_keepsDspRegs

theorem raiseAt_keepsDspRegs (s : State) (t e : Nat) (hs : KeepsDspRegs (fun e : DspRun => (e.v, e.acc, e.a, e.o, e.c)) nn s0 s) :
    KeepsDspRegs (fun e : DspRun => (e.v, e.acc, e.a, e.o, e.c)) nn s0 (State.raiseAt s t e) := by
  unfold State.raiseAt
  repeat' first
    | with_reducible intro _
    | with_reducible assumption
    | simp only [↓keepsDspRegs_mk_iff]
    | with_reducible apply keepsDspRegs_ite
    | (extract_lets x; first | (with_reducible refine keepsDspRegs_cut (s := x) ?_ ?_; (on_goal 2 => clear_value x); (on_goal 1 => unfold x)) | (subst x))
    | split

theorem raise_keepsDspRegs (s : State) (e : Nat) (hs : KeepsDspRegs (fun e : DspRun => (e.v, e.acc, e.a, e.o, e.c)) nn s0 s) :
    KeepsDspRegs (fun e : DspRun => (e.v, e.acc, e.a, e.o, e.c)) nn s0 (State.raise s e) := by
  unfold State.raise
  repeat' first
    | with_reducible intro _
    | with_reducible assumption
    | with_reducible apply raiseAt_keepsDspRegs
    | simp only [↓keepsDspRegs_mk_iff]
    | with_reducible apply keepsDspRegs_ite
    | (extract_lets x; first | (with_reducible refine keepsDspRegs_cut (s := x) ?_ ?_; (on_goal 2 => clear_value x); (on_goal 1 => unfold x)) | (subst x))
    | split

theorem setBit_keepsDspRegs (s : State) (k b : Nat) (v : Bool) (hs : KeepsDspRegs (fun e : DspRun => (e.v, e.acc, e.a, e.o, e.c)) nn s0 s) :
    KeepsDspRegs (fun e : DspRun => (e.v, e.acc, e.a, e.o, e.c)) nn s0 (State.setBit s k b v) := by
  unfold State.setBit
  repeat' first
    | with_reducible intro _
    | with_reducible assumption
    | with_reducible apply wr_keepsDspRegs
    | with_reducible apply keepsDspRegs_ite
    | split

theorem note_keepsDspRegs (s : State) (k b : Nat) (hs : KeepsDspRegs (fun e : DspRun => (e.v, e.acc, e.a, e.o, e.c)) nn s0 s) :
    KeepsDspRegs (fun e : DspRun => (e.v, e.acc, e.a, e.o, e.c)) nn s0 (State.note s k b) := by
  unfold State.note
  repeat' first
    | with_reducible intro _
    | with_reducible assumption
    | simp only [↓keepsDspRegs_mk_iff]
    | with_reducible apply keepsDspRegs_ite
    | (extract_lets x; first | (with_reducible refine keepsDspRegs_cut (s := x) ?_ ?_; (on_goal 2 => clear_value x); (on_goal 1 => unfold x)) | (subst x))
    | split

theorem flag_keepsDspRegs (s : State) (k b e : Nat) (hs : KeepsDspRegs (fun e : DspRun => (e.v, e.acc, e.a, e.o, e.c)) nn s0 s) :
    KeepsDspRegs (fun e : DspRun => (e.v, e.acc, e.a, e.o, e.c)) nn s0 (State.flag s k b e) := by
  unfold State.flag
  repeat' first
    | with_reducible intro _
    | with_reducible assumption
    | with_reducible apply note_keepsDspRegs
    | with_reducible apply setBit_keepsDspRegs
    | with_reducible apply raise_keepsDspRegs
    | simp only [↓keepsDspRegs_mk_iff]
    | with_reducible apply keepsDspRegs_ite
    | (extract_lets x; first | (with_reducible refine keepsDspRegs_cut (s := x) ?_ ?_; (on_goal 2 => clear_value x); (on_goal 1 => unfold x)) | (subst x))
    | split

theorem upto_keepsDspRegs (s : State) (t : Nat) (hs : KeepsDspRegs (fun e : DspRun => (e.v, e.acc, e.a, e.o, e.c)) nn s0 s) : KeepsDspRegs (fun e : DspRun => (e.v, e.acc, e.a, e.o, e.c)) nn s0 (State.upto s t) :=
  hs

theorem drawn_keepsDspRegs (s : State) (hs : KeepsDspRegs (fun e : DspRun => (e.v, e.acc, e.a, e.o, e.c)) nn s0 s) :
    KeepsDspRegs (fun e : DspRun => (e.v, e.acc, e.a, e.o, e.c)) nn s0 (State.drawn s) := by
  unfold State.drawn
  repeat' first
    | with_reducible intro _
    | with_reducible assumption
    | simp only [↓keepsDspRegs_mk_iff]
    | with_reducible apply keepsDspRegs_ite
    | (extract_lets x; first | (with_reducible refine keepsDspRegs_cut (s := x) ?_ ?_; (on_goal 2 => clear_value x); (on_goal 1 => unfold x)) | (subst x))
    | split

theorem modVe_keepsDspRegs (s : State) (n : Nat) (f : VeRun → VeRun) (hs : KeepsDspRegs (fun e : DspRun => (e.v, e.acc, e.a, e.o, e.c)) nn s0 s) :
    KeepsDspRegs (fun e : DspRun => (e.v, e.acc, e.a, e.o, e.c)) nn s0 (State.modVe s n f) := by
  unfold State.modVe
  repeat' first
    | with_reducible intro _
    | with_reducible assumption
    | simp only [↓keepsDspRegs_mk_iff]

theorem modBrk_keepsDspRegs (s : State) (u : Nat) (f : BrkS → BrkS) (hs : KeepsDspRegs (fun e : DspRun => (e.v, e.acc, e.a, e.o, e.c)) nn s0 s) :
    KeepsDspRegs (fun e : DspRun => (e.v, e.acc, e.a, e.o, e.c)) nn s0 (State.modBrk s u f) := by
  unfold State.modBrk
  repeat' first
    | with_reducible intro _
    | with_reducible assumption
    | simp only [↓keepsDspRegs_mk_iff]

theorem modTgt_keepsDspRegs (s : State) (t : Nat) (f : TgtS → TgtS) (hs : KeepsDspRegs (fun e : DspRun => (e.v, e.acc, e.a, e.o, e.c)) nn s0 s) :
    KeepsDspRegs (fun e : DspRun => (e.v, e.acc, e.a, e.o, e.c)) nn s0 (State.modTgt s t f) := by
  unfold State.modTgt
  repeat' first
    | with_reducible intro _
    | with_reducible assumption
    | simp only [↓keepsDspRegs_mk_iff]

theorem meshSend_keepsDspRegs (r : MeshReq) (s : State) (hs : KeepsDspRegs (fun e : DspRun => (e.v, e.acc, e.a, e.o, e.c)) nn s0 s) :
    KeepsDspRegs (fun e : DspRun => (e.v, e.acc, e.a, e.o, e.c)) nn s0 (meshSend r s) := by
  unfold meshSend
  repeat' first
    | with_reducible intro _
    | with_reducible assumption
    | simp only [↓keepsDspRegs_mk_iff]
    | with_reducible apply keepsDspRegs_ite
    | split

theorem latchDebugHalt_keepsDspRegs (t th : Nat) (s : State) (hs : KeepsDspRegs (fun e : DspRun => (e.v, e.acc, e.a, e.o, e.c)) nn s0 s) :
    KeepsDspRegs (fun e : DspRun => (e.v, e.acc, e.a, e.o, e.c)) nn s0 (latchDebugHalt t th s) := by
  unfold latchDebugHalt
  repeat' first
    | with_reducible intro _
    | with_reducible assumption
    | with_reducible apply modTgt_keepsDspRegs
    | with_reducible apply modVe_keepsDspRegs
    | (with_reducible refine modDsp_keepsDspRegs _ _ _ ?_ ?_; (on_goal 2 => (intro e; rfl)))
    | simp only [↓keepsDspRegs_mk_iff]
    | with_reducible apply keepsDspRegs_ite
    | (extract_lets x; first | (with_reducible refine keepsDspRegs_cut (s := x) ?_ ?_; (on_goal 2 => clear_value x); (on_goal 1 => unfold x)) | (subst x))
    | split

theorem linkFired_keepsDspRegs (u : Nat) (s : State) (hs : KeepsDspRegs (fun e : DspRun => (e.v, e.acc, e.a, e.o, e.c)) nn s0 s) :
    KeepsDspRegs (fun e : DspRun => (e.v, e.acc, e.a, e.o, e.c)) nn s0 (linkFired u s) := by
  unfold linkFired
  repeat' first
    | with_reducible intro _
    | with_reducible assumption
    | with_reducible apply modBrk_keepsDspRegs
    | simp only [↓keepsDspRegs_mk_iff]
    | with_reducible apply keepsDspRegs_ite
    | with_reducible apply keepsDspRegs_foldl
    | split

theorem brkFire_keepsDspRegs (u t th : Nat) (s : State) (hs : KeepsDspRegs (fun e : DspRun => (e.v, e.acc, e.a, e.o, e.c)) nn s0 s) :
    KeepsDspRegs (fun e : DspRun => (e.v, e.acc, e.a, e.o, e.c)) nn s0 (brkFire u t th s) := by
  unfold brkFire
  repeat' first
    | with_reducible intro _
    | with_reducible assumption
    | with_reducible apply linkFired_keepsDspRegs
    | with_reducible apply wr_keepsDspRegs
    | with_reducible apply flag_keepsDspRegs
    | with_reducible apply latchDebugHalt_keepsDspRegs
    | simp only [↓keepsDspRegs_mk_iff]
    | (extract_lets x; first | (with_reducible refine keepsDspRegs_cut (s := x) ?_ ?_; (on_goal 2 => clear_value x); (on_goal 1 => unfold x)) | (subst x))
    | split

theorem brkCount_keepsDspRegs (u t th : Nat) (s : State) (hs : KeepsDspRegs (fun e : DspRun => (e.v, e.acc, e.a, e.o, e.c)) nn s0 s) :
    KeepsDspRegs (fun e : DspRun => (e.v, e.acc, e.a, e.o, e.c)) nn s0 (brkCount u t th s) := by
  unfold brkCount
  repeat' first
    | with_reducible intro _
    | with_reducible assumption
    | with_reducible apply bump_keepsDspRegs
    | with_reducible apply modBrk_keepsDspRegs
    | with_reducible apply brkFire_keepsDspRegs
    | simp only [↓keepsDspRegs_mk_iff]
    | with_reducible apply keepsDspRegs_ite
    | (extract_lets x; first | (with_reducible refine keepsDspRegs_cut (s := x) ?_ ?_; (on_goal 2 => clear_value x); (on_goal 1 => unfold x)) | (subst x))
    | split

theorem brkMatch_keepsDspRegs (kind t v ctx cls th : Nat) (s : State) (hs : KeepsDspRegs (fun e : DspRun => (e.v, e.acc, e.a, e.o, e.c)) nn s0 s) :
    KeepsDspRegs (fun e : DspRun => (e.v, e.acc, e.a, e.o, e.c)) nn s0 (brkMatch kind t v ctx cls th s) := by
  unfold brkMatch
  repeat' first
    | with_reducible intro _
    | with_reducible assumption
    | with_reducible apply brkCount_keepsDspRegs
    | with_reducible apply keepsDspRegs_ite
    | with_reducible apply keepsDspRegs_foldl
    | split

theorem scrFlag_keepsDspRegs (b k : Nat) (s : State) (hs : KeepsDspRegs (fun e : DspRun => (e.v, e.acc, e.a, e.o, e.c)) nn s0 s) :
    KeepsDspRegs (fun e : DspRun => (e.v, e.acc, e.a, e.o, e.c)) nn s0 (scrFlag b k s) := by
  unfold scrFlag
  repeat' first
    | with_reducible intro _
    | with_reducible assumption
    | with_reducible apply flag_keepsDspRegs
    | simp only [↓keepsDspRegs_mk_iff]
    | with_reducible apply keepsDspRegs_ite
    | (extract_lets x; first | (with_reducible refine keepsDspRegs_cut (s := x) ?_ ?_; (on_goal 2 => clear_value x); (on_goal 1 => unfold x)) | (subst x))
    | split

theorem freezeDsp_keepsDspRegs (n t : Nat) (s : State) (hs : KeepsDspRegs (fun e : DspRun => (e.v, e.acc, e.a, e.o, e.c)) nn s0 s) :
    KeepsDspRegs (fun e : DspRun => (e.v, e.acc, e.a, e.o, e.c)) nn s0 (freezeDsp n t s) := by
  unfold freezeDsp
  repeat' first
    | with_reducible intro _
    | with_reducible assumption
    | with_reducible apply addTo_keepsDspRegs
    | with_reducible apply wr_keepsDspRegs
    | (with_reducible refine modDsp_keepsDspRegs _ _ _ ?_ ?_; (on_goal 2 => (intro e; rfl)))
    | simp only [↓keepsDspRegs_mk_iff]
    | (extract_lets x; first | (with_reducible refine keepsDspRegs_cut (s := x) ?_ ?_; (on_goal 2 => clear_value x); (on_goal 1 => unfold x)) | (subst x))
    | split

theorem dspStopAt_keepsDspRegs (n t c : Nat) (s : State) (hs : KeepsDspRegs (fun e : DspRun => (e.v, e.acc, e.a, e.o, e.c)) nn s0 s) :
    KeepsDspRegs (fun e : DspRun => (e.v, e.acc, e.a, e.o, e.c)) nn s0 (dspStopAt n t c s) := by
  unfold dspStopAt
  repeat' first
    | with_reducible intro _
    | with_reducible assumption
    | with_reducible apply upto_keepsDspRegs
    | with_reducible apply freezeDsp_keepsDspRegs
    | with_reducible apply addTo_keepsDspRegs
    | (with_reducible refine modDsp_keepsDspRegs _ _ _ ?_ ?_; (on_goal 2 => (intro e; rfl)))
    | with_reducible apply setBit_keepsDspRegs
    | with_reducible apply wr_keepsDspRegs
    | with_reducible apply modTgt_keepsDspRegs
    | with_reducible apply raise_keepsDspRegs
    | simp only [↓keepsDspRegs_mk_iff]
    | with_reducible apply keepsDspRegs_ite
    | (extract_lets x; first | (with_reducible refine keepsDspRegs_cut (s := x) ?_ ?_; (on_goal 2 => clear_value x); (on_goal 1 => unfold x)) | (subst x))
    | split

theorem dspFault_keepsDspRegs (n t cause pc : Nat) (s : State) (hs : KeepsDspRegs (fun e : DspRun => (e.v, e.acc, e.a, e.o, e.c)) nn s0 s) :
    KeepsDspRegs (fun e : DspRun => (e.v, e.acc, e.a, e.o, e.c)) nn s0 (dspFault n t cause pc s) := by
  unfold dspFault
  repeat' first
    | with_reducible intro _
    | with_reducible assumption
    | with_reducible apply dspStopAt_keepsDspRegs
    | with_reducible apply wr_keepsDspRegs

theorem dspStepCount_keepsDspRegs (n at' : Nat) (s : State) (hs : KeepsDspRegs (fun e : DspRun => (e.v, e.acc, e.a, e.o, e.c)) nn s0 s) :
    KeepsDspRegs (fun e : DspRun => (e.v, e.acc, e.a, e.o, e.c)) nn s0 (dspStepCount n at' s) := by
  unfold dspStepCount
  repeat' first
    | with_reducible intro _
    | with_reducible assumption
    | (with_reducible refine modDsp_keepsDspRegs _ _ _ ?_ ?_; (on_goal 2 => (intro e; rfl)))
    | with_reducible apply modTgt_keepsDspRegs
    | simp only [↓keepsDspRegs_mk_iff]
    | split

theorem retire_keepsDspRegs (n t cost next : Nat) (s : State) (hs : KeepsDspRegs (fun e : DspRun => (e.v, e.acc, e.a, e.o, e.c)) nn s0 s) :
    KeepsDspRegs (fun e : DspRun => (e.v, e.acc, e.a, e.o, e.c)) nn s0 (retire n t cost next s) := by
  unfold retire
  repeat' first
    | with_reducible intro _
    | with_reducible assumption
    | (with_reducible refine modDsp_keepsDspRegs _ _ _ ?_ ?_; (on_goal 2 => (intro e; rfl)))
    | with_reducible apply wr_keepsDspRegs
    | with_reducible apply dspStepCount_keepsDspRegs
    | with_reducible apply setBit_keepsDspRegs
    | simp only [↓keepsDspRegs_mk_iff]
    | with_reducible apply keepsDspRegs_ite
    | (extract_lets x; first | (with_reducible refine keepsDspRegs_cut (s := x) ?_ ?_; (on_goal 2 => clear_value x); (on_goal 1 => unfold x)) | (subst x))
    | split

theorem stalled_keepsDspRegs (n k : Nat) (s : State) (hs : KeepsDspRegs (fun e : DspRun => (e.v, e.acc, e.a, e.o, e.c)) nn s0 s) :
    KeepsDspRegs (fun e : DspRun => (e.v, e.acc, e.a, e.o, e.c)) nn s0 (stalled n k s) := by
  unfold stalled
  repeat' first
    | with_reducible intro _
    | with_reducible assumption
    | with_reducible apply addTo_keepsDspRegs

theorem stallOn_keepsDspRegs (n : Nat) (s : State) (hs : KeepsDspRegs (fun e : DspRun => (e.v, e.acc, e.a, e.o, e.c)) nn s0 s) :
    KeepsDspRegs (fun e : DspRun => (e.v, e.acc, e.a, e.o, e.c)) nn s0 (stallOn n s) := by
  unfold stallOn
  repeat' first
    | with_reducible intro _
    | with_reducible assumption
    | with_reducible apply stalled_keepsDspRegs
    | (with_reducible refine modDsp_keepsDspRegs _ _ _ ?_ ?_; (on_goal 2 => (intro e; rfl)))
    | simp only [↓keepsDspRegs_mk_iff]
    | with_reducible apply keepsDspRegs_ite
    | (extract_lets x; first | (with_reducible refine keepsDspRegs_cut (s := x) ?_ ?_; (on_goal 2 => clear_value x); (on_goal 1 => unfold x)) | (subst x))
    | split

theorem moveSend_keepsDspRegs (n : Nat) (r : MeshReq) (s : State) (hs : KeepsDspRegs (fun e : DspRun => (e.v, e.acc, e.a, e.o, e.c)) nn s0 s) :
    KeepsDspRegs (fun e : DspRun => (e.v, e.acc, e.a, e.o, e.c)) nn s0 (moveSend n r s) := by
  unfold moveSend
  repeat' first
    | with_reducible intro _
    | with_reducible assumption
    | with_reducible apply meshSend_keepsDspRegs
    | with_reducible apply bump_keepsDspRegs

theorem modHead_keepsDspRegs (n : Nat) (f : Mv → Mv) (s : State) (hs : KeepsDspRegs (fun e : DspRun => (e.v, e.acc, e.a, e.o, e.c)) nn s0 s) :
    KeepsDspRegs (fun e : DspRun => (e.v, e.acc, e.a, e.o, e.c)) nn s0 (modHead n f s) := by
  unfold modHead
  repeat' first
    | with_reducible intro _
    | with_reducible assumption
    | (with_reducible refine modDsp_keepsDspRegs _ _ _ ?_ ?_; (on_goal 2 => (intro e; rfl)))
    | simp only [↓keepsDspRegs_mk_iff]
    | split

theorem modBank_keepsDspRegs (s : State) (b : Nat) (g : BankS → BankS) (hs : KeepsDspRegs (fun e : DspRun => (e.v, e.acc, e.a, e.o, e.c)) nn s0 s) :
    KeepsDspRegs (fun e : DspRun => (e.v, e.acc, e.a, e.o, e.c)) nn s0 (State.modBank s b g) := by
  unfold State.modBank
  repeat' first
    | with_reducible intro _
    | with_reducible assumption
    | simp only [↓keepsDspRegs_mk_iff]

theorem portTake_keepsDspRegs (b p c rank : Nat) (wr : Bool) (word v : Nat) (s : State) (hs : KeepsDspRegs (fun e : DspRun => (e.v, e.acc, e.a, e.o, e.c)) nn s0 s) :
    KeepsDspRegs (fun e : DspRun => (e.v, e.acc, e.a, e.o, e.c)) nn s0 (portTake b p c rank wr word v s).2 := by
  unfold portTake
  repeat' first
    | with_reducible intro _
    | with_reducible assumption
    | with_reducible apply modBank_keepsDspRegs
    | with_reducible apply wr_keepsDspRegs
    | with_reducible apply bump_keepsDspRegs
    | simp only [↓keepsDspRegs_mk_iff]
    | with_reducible apply keepsDspRegs_ite
    | (extract_lets x; first | (with_reducible refine keepsDspRegs_cut (s := x) ?_ ?_; (on_goal 2 => clear_value x); (on_goal 1 => unfold x)) | (subst x))
    | split

theorem portStall_keepsDspRegs (b p : Nat) (s : State) (hs : KeepsDspRegs (fun e : DspRun => (e.v, e.acc, e.a, e.o, e.c)) nn s0 s) :
    KeepsDspRegs (fun e : DspRun => (e.v, e.acc, e.a, e.o, e.c)) nn s0 (portStall b p s) := by
  unfold portStall
  repeat' first
    | with_reducible intro _
    | with_reducible assumption
    | with_reducible apply stalled_keepsDspRegs
    | with_reducible apply bump_keepsDspRegs
    | with_reducible apply wr_keepsDspRegs
    | with_reducible apply addTo_keepsDspRegs
    | (with_reducible refine modDsp_keepsDspRegs _ _ _ ?_ ?_; (on_goal 2 => (intro e; rfl)))
    | simp only [↓keepsDspRegs_mk_iff]
    | with_reducible apply keepsDspRegs_ite
    | (extract_lets x; first | (with_reducible refine keepsDspRegs_cut (s := x) ?_ ?_; (on_goal 2 => clear_value x); (on_goal 1 => unfold x)) | (subst x))
    | split

theorem moverTake_keepsDspRegs (n b : Nat) (wr : Bool) (word v : Nat) (s : State) (hs : KeepsDspRegs (fun e : DspRun => (e.v, e.acc, e.a, e.o, e.c)) nn s0 s) :
    KeepsDspRegs (fun e : DspRun => (e.v, e.acc, e.a, e.o, e.c)) nn s0 (moverTake n b wr word v s).2 := by
  unfold moverTake
  extract_lets p pt
  have hp : KeepsDspRegs (fun e : DspRun => (e.v, e.acc, e.a, e.o, e.c)) nn s0 pt.2 := portTake_keepsDspRegs _ _ _ _ _ _ _ _ hs
  exact keepsDspRegs_ite (portStall_keepsDspRegs _ _ _ hp) hp

theorem moveWord_keepsDspRegs (n : Nat) (m : Mv) (s : MeshReq × State) (i : Nat) (hs : KeepsDspRegs (fun e : DspRun => (e.v, e.acc, e.a, e.o, e.c)) nn s0 s.2) :
    KeepsDspRegs (fun e : DspRun => (e.v, e.acc, e.a, e.o, e.c)) nn s0 (moveWord n m s i).2 := by
  unfold moveWord
  extract_lets b pt put
  have hp : KeepsDspRegs (fun e : DspRun => (e.v, e.acc, e.a, e.o, e.c)) nn s0 pt.2 := moverTake_keepsDspRegs n b false _ 0 s.2 hs
  split
  · exact hp
  · exact scrFlag_keepsDspRegs _ _ _ (bump_keepsDspRegs _ _ _ hp)
  · exact modDsp_keepsDspRegs _ _ _ (scrFlag_keepsDspRegs _ _ _ (bump_keepsDspRegs _ _ _ (drawn_keepsDspRegs _ hp))) (fun _ => rfl)

theorem moveNext_keepsDspRegs (n : Nat) (m : Mv) (s : State) (hs : KeepsDspRegs (fun e : DspRun => (e.v, e.acc, e.a, e.o, e.c)) nn s0 s) :
    KeepsDspRegs (fun e : DspRun => (e.v, e.acc, e.a, e.o, e.c)) nn s0 (moveNext n m s).2 := by
  unfold moveNext
  dsimp only
  split
  · exact keepsDspRegs_foldl_snd (moveWord_keepsDspRegs n m) hs
  · exact hs

theorem dropLost_keepsDspRegs (n : Nat) (s : State) (hs : KeepsDspRegs (fun e : DspRun => (e.v, e.acc, e.a, e.o, e.c)) nn s0 s) :
    KeepsDspRegs (fun e : DspRun => (e.v, e.acc, e.a, e.o, e.c)) nn s0 (dropLost n s) := by
  unfold dropLost
  repeat' first
    | with_reducible intro _
    | with_reducible assumption
    | (with_reducible refine modDsp_keepsDspRegs _ _ _ ?_ ?_; (on_goal 2 => (intro e; rfl)))
    | simp only [↓keepsDspRegs_mk_iff]
    | with_reducible apply keepsDspRegs_ite
    | (extract_lets x; first | (with_reducible refine keepsDspRegs_cut (s := x) ?_ ?_; (on_goal 2 => clear_value x); (on_goal 1 => unfold x)) | (subst x))
    | split

theorem moveLost_keepsDspRegs (n : Nat) (s : State) (hs : KeepsDspRegs (fun e : DspRun => (e.v, e.acc, e.a, e.o, e.c)) nn s0 s) :
    KeepsDspRegs (fun e : DspRun => (e.v, e.acc, e.a, e.o, e.c)) nn s0 (moveLost n s) := by
  unfold moveLost
  repeat' first
    | with_reducible intro _
    | with_reducible assumption
    | with_reducible apply dropLost_keepsDspRegs
    | with_reducible apply modHead_keepsDspRegs
    | with_reducible apply dspFault_keepsDspRegs
    | simp only [↓keepsDspRegs_mk_iff]
    | with_reducible apply keepsDspRegs_ite
    | (extract_lets x; first | (with_reducible refine keepsDspRegs_cut (s := x) ?_ ?_; (on_goal 2 => clear_value x); (on_goal 1 => unfold x)) | (subst x))
    | split

theorem moveIssue_keepsDspRegs (n : Nat) : ∀ (z0 : Nat) (z1 : State), KeepsDspRegs (fun e : DspRun => (e.v, e.acc, e.a, e.o, e.c)) nn s0 z1 → KeepsDspRegs (fun e : DspRun => (e.v, e.acc, e.a, e.o, e.c)) nn s0 (moveIssue n z0 z1)
  | 0, _, h => h
  | k + 1, s, h => by
    unfold moveIssue
    split
    · split
      · refine keepsDspRegs_ite (moveLost_keepsDspRegs n s h) (keepsDspRegs_ite h ?_)
        exact moveIssue_keepsDspRegs n k _ (moveSend_keepsDspRegs n _ _ (modHead_keepsDspRegs n _ _ (moveNext_keepsDspRegs n _ s h)))
      · exact h
    · exact h

set_option Elab.async false in
theorem movePump_keepsDspRegs (n : Nat) (s : State) (hs : KeepsDspRegs (fun e : DspRun => (e.v, e.acc, e.a, e.o, e.c)) nn s0 s) :
    KeepsDspRegs (fun e : DspRun => (e.v, e.acc, e.a, e.o, e.c)) nn s0 (movePump n s) := by
  unfold movePump
  repeat' first
    | with_reducible intro _
    | with_reducible assumption
    | with_reducible apply setBit_keepsDspRegs
    | with_reducible apply moveIssue_keepsDspRegs
    | with_reducible apply modHead_keepsDspRegs
    | simp only [↓keepsDspRegs_mk_iff]
    | with_reducible apply keepsDspRegs_ite
    | (extract_lets x; first | (with_reducible refine keepsDspRegs_cut (s := x) ?_ ?_; (on_goal 2 => clear_value x); (on_goal 1 => unfold x)) | (subst x))
    | split

end
end Sys2Proof.Laws
end

