-- ==== Sys2Proof/Laws/DspFrames.lean ====
section
/-! SUPPORT. Registers of DSP engines: facts that proofs about their commands cite. -/
set_option linter.unusedVariables false
namespace Sys2Proof.Laws.DspFrames
open Sys2Proof.Machine Common
namespace DspRegFacts
theorem setReg_other (t : Tab Nat) {i j : Nat} (h : j ≠ i) (v : Nat) : reg0 (setReg t i v) j = reg0 t j := get_set_other _ h _
def rg (e : DspRun) := (e.v, e.acc, e.a, e.o, e.c)
/-- g of the engine's registers and every register of the others are as they were. -/
def D {β : Type} (n : Nat) (g : DspRun → β) (s t : State) : Prop := g (t.dspOf n) = g (s.dspOf n) ∧ ∀ m, m ≠ n → rg (t.dspOf m) = rg (s.dspOf m)
def Of {β : Type} (g : DspRun → β) : Prop := ∀ d e, rg d = rg e → g d = g e
variable {β : Type} {n : Nat} {g : DspRun → β}
theorem D_refl (s : State) : D n g s s := ⟨rfl, fun _ _ => rfl⟩
theorem D.trans {a b c : State} (h : D n g a b) (k : D n g b c) : D n g a c := ⟨k.1.trans h.1, fun m hm => (k.2 m hm).trans (h.2 m hm)⟩
theorem D_all (hg : Of g) {s t : State} (h : ∀ m, rg (t.dspOf m) = rg (s.dspOf m)) : D n g s t := ⟨hg _ _ (h n), fun m _ => h m⟩
theorem D_dsp {s t : State} (h : t.dsp = s.dsp) : D n g s t := by
  have : ∀ m, t.dspOf m = s.dspOf m := fun m => by unfold State.dspOf; rw [h]
  exact ⟨by rw [this], fun m _ => by rw [this]⟩
theorem D_mod {s : State} {f : DspRun → DspRun} (h : ∀ e, g (f e) = g e) : D n g s (s.modDsp n f) :=
  ⟨by rw [dspOf_modDsp]; exact h _, fun m hm => by rw [dspOf_modDsp_other s hm]⟩
theorem D_ite {c : Prop} [Decidable c] {s a b : State} (h : D n g s a) (k : D n g s b) : D n g s (if c then a else b) := by split <;> assumption
theorem D_brk (hg : Of g) (k t v ctx cls th : Nat) (s : State) : D n g s (brkMatch k t v ctx cls th s) :=
  D_all hg fun m => brkMatch_keepsDspRegs (nn := m) (s0 := s) k t v ctx cls th s rfl
theorem D_retire (hg : Of g) (m t c x : Nat) (s : State) : D n g s (retire m t c x s) := D_all hg fun j => retire_keepsDspRegs (nn := j) (s0 := s) m t c x s rfl
theorem D_fault (hg : Of g) (m t c x : Nat) (s : State) : D n g s (dspFault m t c x s) := D_all hg fun j => dspFault_keepsDspRegs (nn := j) (s0 := s) m t c x s rfl
theorem D_stall (hg : Of g) (m : Nat) (s : State) : D n g s (stallOn m s) := D_all hg fun j => stallOn_keepsDspRegs (nn := j) (s0 := s) m s rfl
theorem D_stalled (hg : Of g) (m k : Nat) (s : State) : D n g s (stalled m k s) := D_all hg fun j => stalled_keepsDspRegs (nn := j) (s0 := s) m k s rfl
theorem D_stop (hg : Of g) (m t c : Nat) (s : State) : D n g s (dspStopAt m t c s) := D_all hg fun j => dspStopAt_keepsDspRegs (nn := j) (s0 := s) m t c s rfl
theorem D_pump (hg : Of g) (m : Nat) (s : State) : D n g s (movePump m s) := D_all hg fun j => movePump_keepsDspRegs (nn := j) (s0 := s) m s rfl
theorem D_boundary (hg : Of g) (m e c : Nat) (s : State) : D n g s (boundaryFault m e c s) := by
  unfold boundaryFault waited
  extract_lets d t
  exact (D_stalled hg _ _ _).trans (D_fault hg _ _ _ _ _)
/-- An instruction command keeps what its effect keeps. -/
theorem insn_D (hg : Of g) {id : Nat} {act : Nat → Nat → Nat → State → State} {s t : State} (he : insnCommand n id act s = .next t)
    (ha : ∀ pc at' u, D n g s u → D n g s (act (nextInsn n s) pc at' u)) : D n g s t := by
  unfold insnCommand unitCmd at he
  split at he
  · cases he
    dsimp only
    refine D_ite (D_refl s) (D_ite (D_boundary hg _ _ _ _) (D_ite (D_boundary hg _ _ _ _) (D_ite (D_fault hg _ _ _ _ _) (D_ite (D_fault hg _ _ _ _ _) (D_ite (D_fault hg _ _ _ _ _)
      (D_ite (D_refl s) (D_ite (D_stall hg _ _) (ha _ _ _ ?_))))))))
    generalize issueAt n (nextInsn n s) s = t
    refine D.trans ?_ (D_brk hg _ _ _ _ _ _ _)
    refine D.trans ?_ (D_dsp rfl)
    unfold waited
    exact D.trans (b := s.upto t) (D_dsp rfl) (D_stalled hg n ((t - ((s.upto t).dspOf n).due) / dspClk) (s.upto t))
  · cases he
theorem D_fitA (hg : Of g) (r : Int) (s : State) : D n g s (fitAcc n r s).2 := by
  unfold fitAcc
  split
  · exact D_refl s
  · exact D_all hg fun m => by show rg ((State.setBit _ _ _ _).dspOf m) = _; rw [dspOf_setBit]
theorem D_fitE (hg : Of g) (r : Int) (s : State) : D n g s (fitElem n r s).2 := by
  unfold fitElem
  split
  · exact D_refl s
  · exact D_all hg fun m => by show rg ((State.setBit _ _ _ _).dspOf m) = _; rw [dspOf_setBit]
theorem D_foldl {α : Type} {f : State → α → State} : ∀ (l : List α) (s0 s : State), (∀ x ∈ l, ∀ u, D n g u (f u x)) → D n g s0 s → D n g s0 (l.foldl f s)
  | [], _, _, _, h => h
  | x :: l, s0, s, hf, h => D_foldl l s0 _ (fun y hy => hf y (List.mem_cons_of_mem _ hy)) (h.trans (hf x (by simp) s))
theorem D_writeA (hg : Of g) (a : Nat) (r : Nat → Int) (s : State) (h : ∀ (e : DspRun) l x, l < 4 → g { e with acc := setReg e.acc (4 * a + l) x } = g e) : D n g s (writeA n a r s) := by
  unfold writeA
  refine D_foldl _ s s (fun l hl u => ?_) (D_refl s)
  have hl : l < 4 := by simp [lanes4] at hl; omega
  exact (D_fitA hg _ u).trans (D_mod fun e => h e l _ hl)
theorem D_writeV (hg : Of g) (v : Nat) (b : Bool) (r : Nat → Int) (s : State) (h : ∀ (e : DspRun) l x, l < 4 → g { e with v := setReg e.v (4 * v + l) x } = g e) : D n g s (writeV n v b r s) := by
  unfold writeV
  refine D_foldl _ s s (fun l hl u => ?_) (D_refl s)
  have hl : l < 4 := by simp [lanes4] at hl; omega
  have := (D_fitE (n := n) hg (r l) u).trans (D_mod (n := n) (f := fun d => { d with v := setReg d.v (4 * v + l) (fitElem n (r l) u).1 }) fun e => h e l _ hl)
  exact D_ite (this.trans (D_dsp rfl)) this
theorem portTake_dsp (b p c rank : Nat) (wr : Bool) (w v : Nat) (s : State) : (portTake b p c rank wr w v s).2.dsp = s.dsp := by
  unfold portTake
  extract_lets x m keep
  split <;> rfl
theorem scrFlag_dsp (b k : Nat) (s : State) : (scrFlag b k s).dsp = s.dsp := by unfold scrFlag; simp
theorem D_portStall (hg : Of g) (b p : Nat) (s : State) : D n g s (portStall b p s) := D_all hg fun j => by
  unfold portStall
  dsimp only
  split
  · by_cases h : j = s.rd (SCR.OWNER b p)
    · subst h; rw [dspOf_modDsp]; rfl
    · rw [dspOf_modDsp_other _ h]; rfl
  · rfl
/-- Loads change vector registers. -/
def Loads (g : DspRun → β) : Prop := ∀ (e : DspRun) (v r a : Tab Nat), g { e with v := v, vReady := r, a := a } = g e
theorem D_slot (hg : Of g) (hl : Loads g) (t : Nat) (ecc : Ecc) (d0 : DspRun) (x : Nat × Nat) (r : SlotRun) : D n g r.st (runSlot n t ecc d0 x r).st := by
  unfold runSlot
  extract_lets a b store p tc lo w s pt0 mine extra pt s' at' e0 e1
  have h1 : D n g r.st s := D_brk hg _ _ _ _ _ _ _
  have h2 : D n g r.st pt.2 := by
    refine (h1.trans (D_dsp (portTake_dsp _ _ _ _ _ _ _ _) : D n g s pt0.2)).trans ?_
    show D n g pt0.2 (if _ then _ else _)
    exact D_ite (D_portStall hg _ _ _) (D_refl _)
  split
  · refine h2.trans ?_
    show D n g pt.2 (if _ then _ else _)
    exact D_ite (D_dsp (store_dsp ..)) (D_refl _)
  · have h3 : D n g r.st s' := h2.trans (D_dsp (by
      show (match ecc with
      | .ce => scrFlag b 0 (pt.2.bump 64 (SCR.CE b))
      | .ue | .multi => scrFlag b 1 (pt.2.bump 64 (SCR.UE b))
      | .clean => pt.2).dsp = _
      split <;> first | rfl | rw [scrFlag_dsp]; rfl))
    split
    · exact h3
    · exact h3.trans (D_mod fun e => hl e _ _ e.a)
theorem D_keepReg (hl : Loads g) (d0 : DspRun) (x : Nat × Nat) (ecc : Ecc) (s : State) : D n g s (keepReg n d0 x ecc s) := by
  unfold keepReg
  exact D_ite (D_mod fun e => hl e _ _ e.a) (D_refl _)
theorem D_slots (hg : Of g) (hl : Loads g) (t w : Nat) (ecc : List Ecc) (s : State) : D n g s (runSlots n t w ecc s).st := by
  unfold runSlots
  extract_lets d0 pm
  have ha : ∀ (f : DspRun → Tab Nat) (u : State), D n g u (u.modDsp n fun d => { d with a := f d }) := fun f u => D_mod fun e => hl e e.v e.vReady _
  split
  · exact D_refl _
  · extract_lets r
    exact D.trans (D_slot hg hl _ _ _ _ _ : D n g s r.st) (ha _ _)
  · extract_lets bx by' same r r1 r2 s1 a s2 lo f0 f1 s3
    have h1 : D n g s r2.st := D.trans (D_slot hg hl _ _ _ _ _ : D n g s r.st) (D_slot hg hl _ _ _ _ r1)
    have hp : ∀ z u, D n g u (pm z u) := fun z u => ha _ _
    have h2 : D n g s s1 := h1.trans ((hp _ _).trans (hp _ _))
    have h3 : D n g s s2 := by
      show D n g s (if _ then _ else _)
      repeat' split
      · exact h2.trans (hp _ _)
      · exact h2
      · exact (h2.trans (ha (fun d => setReg d.a (slotA _) (a / 2 ^ 14 * 2 ^ 14 + s1.freeVal % 2 ^ 14)) _)).trans (D_dsp rfl)
      · exact h2
    split
    · exact (h3.trans (D_keepReg hl _ _ _ _)).trans (D_keepReg hl _ _ _ _)
    · split
      · refine D.trans ?_ (D_dsp (s := s3) rfl)
        show D n g s (if _ then _ else _)
        split
        · exact h3.trans (D_mod fun e => hl e _ e.vReady e.a)
        · exact h3
      · exact h3
theorem out {g : DspRun → β} {s t : State} {P : DspRun → DspRun → Prop} (h : D n g s t) (hp : ∀ d e, g e = g d → P d e) : P (s.dspOf n) (t.dspOf n) ∧ ∀ m, m ≠ n → rg (t.dspOf m) = rg (s.dspOf m) :=
  ⟨hp _ _ h.1, h.2⟩
def gC (k0 : Nat) (e : DspRun) := (e.v, e.acc, e.a, e.o, fun k : { k // k ≠ k0 } => reg0 e.c k.1)
def gA (k0 : Nat) (e : DspRun) := (e.v, e.acc, e.o, e.c, fun k : { k // k ≠ k0 } => reg0 e.a k.1)
def gO (k0 : Nat) (e : DspRun) := (e.v, e.acc, e.a, e.c, fun k : { k // k ≠ k0 } => reg0 e.o k.1)
def gAcc (a : Nat) (e : DspRun) := (e.v, e.a, e.o, e.c, fun k : { k // k / 4 ≠ a } => reg0 e.acc k.1)
def gV (v : Nat) (e : DspRun) := (e.acc, e.a, e.o, e.c, fun k : { k // k / 4 ≠ v } => reg0 e.v k.1)
def gMac (a : Nat) (e : DspRun) := (e.o, e.c, fun k : { k // k / 4 ≠ a } => reg0 e.acc k.1)
def gMem (e : DspRun) := (e.acc, e.o, e.c)
theorem ofRg : Of rg := fun _ _ h => h
theorem of_rg {d e : DspRun} (h : rg d = rg e) : d.v = e.v ∧ d.acc = e.acc ∧ d.a = e.a ∧ d.o = e.o ∧ d.c = e.c := by
  unfold rg at h; simpa only [Prod.mk.injEq] using h
theorem ofC (k : Nat) : Of (gC k) := fun d e h => by obtain ⟨h1, h2, h3, h4, h5⟩ := of_rg h; unfold gC; rw [h1, h2, h3, h4, h5]
theorem ofA (k : Nat) : Of (gA k) := fun d e h => by obtain ⟨h1, h2, h3, h4, h5⟩ := of_rg h; unfold gA; rw [h1, h2, h3, h4, h5]
theorem ofO (k : Nat) : Of (gO k) := fun d e h => by obtain ⟨h1, h2, h3, h4, h5⟩ := of_rg h; unfold gO; rw [h1, h2, h3, h4, h5]
theorem ofAcc (k : Nat) : Of (gAcc k) := fun d e h => by obtain ⟨h1, h2, h3, h4, h5⟩ := of_rg h; unfold gAcc; rw [h1, h2, h3, h4, h5]
theorem ofV (k : Nat) : Of (gV k) := fun d e h => by obtain ⟨h1, h2, h3, h4, h5⟩ := of_rg h; unfold gV; rw [h1, h2, h3, h4, h5]
theorem ofMac (k : Nat) : Of (gMac k) := fun d e h => by obtain ⟨h1, h2, h3, h4, h5⟩ := of_rg h; unfold gMac; rw [h2, h4, h5]
theorem ofMem : Of gMem := fun d e h => by obtain ⟨h1, h2, h3, h4, h5⟩ := of_rg h; unfold gMem; rw [h2, h4, h5]
theorem fun_reg {k0 : Nat} (t : Tab Nat) (v : Nat) : (fun k : { k // k ≠ k0 } => reg0 (setReg t k0 v) k.1) = fun k => reg0 t k.1 := by
  funext k; exact setReg_other _ k.2 _
theorem fun_lane {a l : Nat} (hl : l < 4) (t : Tab Nat) (v : Nat) : (fun k : { k // k / 4 ≠ a } => reg0 (setReg t (4 * a + l) v) k.1) = fun k => reg0 t k.1 := by
  funext k; exact setReg_other _ (fun e => k.2 (by rw [e]; omega)) _
theorem pC {k0 : Nat} {d e : DspRun} (h : gC k0 e = gC k0 d) : e.v = d.v ∧ e.acc = d.acc ∧ e.a = d.a ∧ e.o = d.o ∧ ∀ k, k ≠ k0 → reg0 e.c k = reg0 d.c k := by
  unfold gC at h; simp only [Prod.mk.injEq] at h
  exact ⟨h.1, h.2.1, h.2.2.1, h.2.2.2.1, fun k hk => congrFun h.2.2.2.2 ⟨k, hk⟩⟩
theorem pA {k0 : Nat} {d e : DspRun} (h : gA k0 e = gA k0 d) : e.v = d.v ∧ e.acc = d.acc ∧ e.o = d.o ∧ e.c = d.c ∧ ∀ k, k ≠ k0 → reg0 e.a k = reg0 d.a k := by
  unfold gA at h; simp only [Prod.mk.injEq] at h
  exact ⟨h.1, h.2.1, h.2.2.1, h.2.2.2.1, fun k hk => congrFun h.2.2.2.2 ⟨k, hk⟩⟩
theorem pO {k0 : Nat} {d e : DspRun} (h : gO k0 e = gO k0 d) : e.v = d.v ∧ e.acc = d.acc ∧ e.a = d.a ∧ e.c = d.c ∧ ∀ k, k ≠ k0 → reg0 e.o k = reg0 d.o k := by
  unfold gO at h; simp only [Prod.mk.injEq] at h
  exact ⟨h.1, h.2.1, h.2.2.1, h.2.2.2.1, fun k hk => congrFun h.2.2.2.2 ⟨k, hk⟩⟩
theorem pAcc {a : Nat} {d e : DspRun} (h : gAcc a e = gAcc a d) : e.v = d.v ∧ e.a = d.a ∧ e.o = d.o ∧ e.c = d.c ∧ ∀ k, k / 4 ≠ a → reg0 e.acc k = reg0 d.acc k := by
  unfold gAcc at h; simp only [Prod.mk.injEq] at h
  exact ⟨h.1, h.2.1, h.2.2.1, h.2.2.2.1, fun k hk => congrFun h.2.2.2.2 ⟨k, hk⟩⟩
theorem pV {a : Nat} {d e : DspRun} (h : gV a e = gV a d) : e.acc = d.acc ∧ e.a = d.a ∧ e.o = d.o ∧ e.c = d.c ∧ ∀ k, k / 4 ≠ a → reg0 e.v k = reg0 d.v k := by
  unfold gV at h; simp only [Prod.mk.injEq] at h
  exact ⟨h.1, h.2.1, h.2.2.1, h.2.2.2.1, fun k hk => congrFun h.2.2.2.2 ⟨k, hk⟩⟩
theorem pMac {a : Nat} {d e : DspRun} (h : gMac a e = gMac a d) : e.o = d.o ∧ e.c = d.c ∧ ∀ k, k / 4 ≠ a → reg0 e.acc k = reg0 d.acc k := by
  unfold gMac at h; simp only [Prod.mk.injEq] at h
  exact ⟨h.1, h.2.1, fun k hk => congrFun h.2.2 ⟨k, hk⟩⟩
theorem pMem {d e : DspRun} (h : gMem e = gMem d) : e.acc = d.acc ∧ e.o = d.o ∧ e.c = d.c := by
  unfold gMem at h; simpa only [Prod.mk.injEq] using h
theorem gAcc_lane (a : Nat) (e : DspRun) (l x : Nat) (hl : l < 4) : gAcc a { e with acc := setReg e.acc (4 * a + l) x } = gAcc a e := by
  unfold gAcc
  dsimp only
  rw [fun_lane hl]
theorem gV_lane (a : Nat) (e : DspRun) (l x : Nat) (hl : l < 4) : gV a { e with v := setReg e.v (4 * a + l) x } = gV a e := by
  unfold gV
  dsimp only
  rw [fun_lane hl]
theorem gAcc_ready (a : Nat) (e : DspRun) (r : Tab Nat) : gAcc a { e with aReady := r } = gAcc a e := rfl
theorem gV_ready (a : Nat) (e : DspRun) (r : Tab Nat) : gV a { e with vReady := r } = gV a e := rfl
theorem accTail (a t c pc : Nat) (r : Nat → Int) (f : DspRun → Tab Nat) (s u : State) (hu : D n (gAcc a) s u) :
    D n (gAcc a) s (retire n t c pc ((writeA n a r u).modDsp n fun d => { d with aReady := f d })) := by
  have h1 : D n (gAcc a) u (writeA n a r u) := D_writeA (ofAcc a) a r u fun e l x hl => gAcc_lane a e l x hl
  have h2 : D n (gAcc a) (writeA n a r u) ((writeA n a r u).modDsp n fun d => { d with aReady := f d }) := D_mod fun e => gAcc_ready a e (f e)
  exact ((hu.trans h1).trans h2).trans (D_retire (ofAcc a) _ _ _ _ _)
theorem vecTail (a t c pc : Nat) (b : Bool) (r : Nat → Int) (f : DspRun → Tab Nat) (s u : State) (hu : D n (gV a) s u) :
    D n (gV a) s (retire n t c pc ((writeV n a b r u).modDsp n fun d => { d with vReady := f d })) := by
  have h1 : D n (gV a) u (writeV n a b r u) := D_writeV (ofV a) a b r u fun e l x hl => gV_lane a e l x hl
  have h2 : D n (gV a) (writeV n a b r u) ((writeV n a b r u).modDsp n fun d => { d with vReady := f d }) := D_mod fun e => gV_ready a e (f e)
  exact ((hu.trans h1).trans h2).trans (D_retire (ofV a) _ _ _ _ _)
theorem acc_D {id : Nat} {f : Nat → Nat → State → Int} {s t : State} (he : insnCommand n id (accAct n f) s = .next t) : D n (gAcc (Dict.bitsOf (nextInsn n s) 55 54)) s t :=
  insn_D (ofAcc _) he fun pc at' u hu => accTail (Dict.bitsOf (nextInsn n s) 55 54) at' 1 (pc + 1) (fun l => f (nextInsn n s) l u) (fun d => setReg d.aReady (Dict.bitsOf (nextInsn n s) 55 54) 0) s u hu
theorem vec_D {id : Nat} {b : Bool} {f : Nat → Nat → State → Int} {s t : State} (he : insnCommand n id (vecAct n b f) s = .next t) : D n (gV (Dict.bitsOf (nextInsn n s) 55 52)) s t :=
  insn_D (ofV _) he fun pc at' u hu => vecTail (Dict.bitsOf (nextInsn n s) 55 52) at' 1 (pc + 1) b (fun l => f (nextInsn n s) l u) (fun d => setReg d.vReady (Dict.bitsOf (nextInsn n s) 55 52) 0) s u hu
theorem mac_D {id : Nat} {ecc : List Ecc} {f : Int → Int → Int} {s t : State} (he : insnCommand n id (macAct n ecc f) s = .next t) : D n (gMac (Dict.bitsOf (nextInsn n s) 57 56)) s t := by
  refine insn_D (ofMac _) he fun pc at' u hu => hu.trans ?_
  unfold macAct
  extract_lets b a r x y free st st2 st3
  refine D_ite (D_fault (ofMac _) _ _ _ _ _) ?_
  have h0 : D n (gMac (Dict.bitsOf (nextInsn n s) 57 56)) u r.st := D_slots (ofMac _) (fun e v r a => rfl) _ _ _ _
  have h1 : D n (gMac (Dict.bitsOf (nextInsn n s) 57 56)) u st := h0.trans (D_writeA (ofMac _) _ _ _ fun e l x hl => by
    show gMac (b 57 56) _ = _
    unfold gMac
    dsimp only
    rw [fun_lane hl])
  have h2 : D n (gMac (Dict.bitsOf (nextInsn n s) 57 56)) u st2 := by
    show D n _ u (if _ then _ else _)
    exact D_ite (h1.trans (D_dsp rfl)) h1
  have h3 : D n (gMac (Dict.bitsOf (nextInsn n s) 57 56)) u st3 := h2.trans (D_mod fun e => rfl)
  refine D_ite (h0.trans (D_fault (ofMac _) _ _ _ _ _)) ?_
  exact (h3.trans (D_stalled (ofMac _) _ _ _)).trans (D_retire (ofMac _) _ _ _ _ _)
theorem x_dspNop {s t : State} (he : exec (.dspNop n) s = .next t) : D n rg s t := by
  change execDspNop n s = .next t at he
  unfold execDspNop at he
  exact insn_D ofRg he fun pc at' u hu => hu.trans (D_retire ofRg _ _ _ _ _)
theorem x_dspJmp {s t : State} (he : exec (.dspJmp n) s = .next t) : D n rg s t := by
  change execDspJmp n s = .next t at he
  unfold execDspJmp at he
  exact insn_D ofRg he fun pc at' u hu => hu.trans (D_retire ofRg _ _ _ _ _)
theorem x_dspEvt {s t : State} (he : exec (.dspEvt n) s = .next t) : D n rg s t := by
  change execDspEvt n s = .next t at he
  unfold execDspEvt at he
  refine insn_D ofRg he fun pc at' u hu => (hu.trans (D_all ofRg fun m => ?_)).trans (D_retire ofRg _ _ _ _ _)
  show rg ((State.raise _ _).dspOf m) = _
  rw [dspOf_raise, dspOf_bump]
theorem x_dspHaltInsn {s t : State} (he : exec (.dspHaltInsn n) s = .next t) : D n rg s t := by
  change execDspHaltInsn n s = .next t at he
  unfold execDspHaltInsn at he
  exact insn_D ofRg he fun pc at' u hu => hu.trans (D_stop ofRg _ _ _ _)
theorem x_waitm {s t : State} (he : exec (.waitm n) s = .next t) : D n rg s t := by
  change execWaitm n s = .next t at he
  unfold execWaitm at he
  exact insn_D ofRg he fun pc at' u hu => hu.trans (D_retire ofRg _ _ _ _ _)
theorem x_bclr {s t : State} (he : exec (.bclr n) s = .next t) : D n rg s t := by
  change execBclr n s = .next t at he
  unfold execBclr at he
  refine insn_D ofRg he fun pc at' u hu => ?_
  have h1 : D n rg u (u.wr (DSP.BEXP n) 23) := D_dsp rfl
  exact (hu.trans h1).trans (D_retire ofRg _ _ _ _ _)
theorem x_blk {s t : State} (he : exec (.blk n) s = .next t) : D n rg s t := by
  change execBlk n s = .next t at he
  unfold execBlk at he
  refine insn_D ofRg he fun pc at' u hu => ?_
  have h1 : D n rg u (u.wr (DSP.BEXP n) 23) := D_dsp rfl
  have h2 : ∀ (b : Nat) (v : State), D n rg v (v.modDsp n fun d => { d with bsh := b }) := fun b v => D_mod fun e => rfl
  refine D.trans ?_ (D_retire ofRg _ _ _ _ _)
  have h3 : ∀ (k x : Nat) (v : State), D n rg v (v.wr k x) := fun k x v => D_dsp rfl
  exact ((hu.trans h1).trans (h2 _ _)).trans (h3 _ _ _)
theorem x_dspRpt {s t : State} (he : exec (.dspRpt n) s = .next t) : D n rg s t := by
  change execDspRpt n s = .next t at he
  unfold execDspRpt at he
  refine insn_D ofRg he fun pc at' u hu => ?_
  refine hu.trans (D.trans (D_all ofRg fun m => ?_) (D_mod fun e => rfl))
  rw [dspOf_setBit]; rfl
theorem x_move {ecc : List Ecc} {s t : State} (he : exec (.move ⟨n, ecc⟩) s = .next t) : D n rg s t := by
  change moveInsn n ecc s = .next t at he
  unfold moveInsn at he
  refine insn_D ofRg he fun pc at' u hu => ?_
  dsimp only
  refine D_ite (hu.trans (D_fault ofRg _ _ _ _ _)) ?_
  have hm : ∀ m : Mv, D n rg s (u.modDsp n fun d => { d with moves := d.moves ++ [m] }) := fun m => hu.trans (D_mod fun e => rfl)
  exact (D_ite ((hm _).trans (D_pump ofRg _ _)) (hm _)).trans (D_retire ofRg _ _ _ _ _)
theorem x_djnz {s t : State} (he : exec (.djnz n) s = .next t) : D n (gC (Dict.bitsOf (nextInsn n s) 55 54)) s t := by
  have hm : ∀ (f : DspRun → Nat) (u : State), D n (gC (Dict.bitsOf (nextInsn n s) 55 54)) u (u.modDsp n fun d => { d with c := setReg d.c (Dict.bitsOf (nextInsn n s) 55 54) (f d) }) :=
      fun f u => D_mod fun e => by unfold gC; dsimp only; rw [fun_reg]
  change execDjnz n s = .next t at he
  unfold execDjnz at he
  refine insn_D (ofC _) he fun pc at' u hu => ?_
  dsimp only
  generalize (reg0 (u.dspOf n).c (Dict.bitsOf (nextInsn n s) 55 54) + 65535) % 65536 = v
  exact D_ite ((hu.trans (hm (fun _ => v) _)).trans (D_retire (ofC _) _ _ _ _ _)) ((hu.trans (hm (fun _ => v) _)).trans (D_retire (ofC _) _ _ _ _ _))
theorem x_dspLdc {s t : State} (he : exec (.dspLdc n) s = .next t) : D n (gC (Dict.bitsOf (nextInsn n s) 55 54)) s t := by
  have hm : ∀ (f : DspRun → Nat) (u : State), D n (gC (Dict.bitsOf (nextInsn n s) 55 54)) u (u.modDsp n fun d => { d with c := setReg d.c (Dict.bitsOf (nextInsn n s) 55 54) (f d) }) :=
      fun f u => D_mod fun e => by unfold gC; dsimp only; rw [fun_reg]
  change execDspLdc n s = .next t at he
  unfold execDspLdc at he
  exact insn_D (ofC _) he fun pc at' u hu => (hu.trans (hm (fun _ => Dict.bitsOf (nextInsn n s) 47 32) _)).trans (D_retire (ofC _) _ _ _ _ _)
theorem x_seta {s t : State} (he : exec (.seta n) s = .next t) : D n (gA (Dict.bitsOf (nextInsn n s) 57 55)) s t := by
  have hm : ∀ (f : DspRun → Nat) (u : State), D n (gA (Dict.bitsOf (nextInsn n s) 57 55)) u (u.modDsp n fun d => { d with a := setReg d.a (Dict.bitsOf (nextInsn n s) 57 55) (f d) }) :=
      fun f u => D_mod fun e => by unfold gA; dsimp only; rw [fun_reg]
  change execSeta n s = .next t at he
  unfold execSeta at he
  exact insn_D (ofA _) he fun pc at' u hu => (hu.trans (hm (fun _ => (nextInsn n s) % 2 ^ 20) _)).trans (D_retire (ofA _) _ _ _ _ _)
theorem x_inca {s t : State} (he : exec (.inca n) s = .next t) : D n (gA (Dict.bitsOf (nextInsn n s) 57 55)) s t := by
  have hm : ∀ (f : DspRun → Nat) (u : State), D n (gA (Dict.bitsOf (nextInsn n s) 57 55)) u (u.modDsp n fun d => { d with a := setReg d.a (Dict.bitsOf (nextInsn n s) 57 55) (f d) }) :=
      fun f u => D_mod fun e => by unfold gA; dsimp only; rw [fun_reg]
  change execInca n s = .next t at he
  unfold execInca at he
  exact insn_D (ofA _) he fun pc at' u hu => (hu.trans (hm (fun d => postModify 2 (reg0 d.a (Dict.bitsOf (nextInsn n s) 57 55)) ((nextInsn n s) % 2 ^ 20)) _)).trans (D_retire (ofA _) _ _ _ _ _)
theorem x_seto {s t : State} (he : exec (.seto n) s = .next t) : D n (gO (Dict.bitsOf (nextInsn n s) 57 55)) s t := by
  have hm : ∀ (f : DspRun → Nat) (u : State), D n (gO (Dict.bitsOf (nextInsn n s) 57 55)) u (u.modDsp n fun d => { d with o := setReg d.o (Dict.bitsOf (nextInsn n s) 57 55) (f d) }) :=
      fun f u => D_mod fun e => by unfold gO; dsimp only; rw [fun_reg]
  change execSeto n s = .next t at he
  unfold execSeto at he
  exact insn_D (ofO _) he fun pc at' u hu => (hu.trans (hm (fun _ => (nextInsn n s) % 2 ^ 20) _)).trans (D_retire (ofO _) _ _ _ _ _)
theorem x_accClr {s t : State} (he : exec (.accClr n) s = .next t) : D n (gAcc (Dict.bitsOf (nextInsn n s) 55 54)) s t := by
  change execAccClr n s = .next t at he
  unfold execAccClr at he
  exact acc_D he
theorem x_accLda {s t : State} (he : exec (.accLda n) s = .next t) : D n (gAcc (Dict.bitsOf (nextInsn n s) 55 54)) s t := by
  change execAccLda n s = .next t at he
  unfold execAccLda at he
  exact acc_D he
theorem x_accAdda {s t : State} (he : exec (.accAdda n) s = .next t) : D n (gAcc (Dict.bitsOf (nextInsn n s) 55 54)) s t := by
  change execAccAdda n s = .next t at he
  unfold execAccAdda at he
  exact acc_D he
theorem x_accSuml {s t : State} (he : exec (.accSuml n) s = .next t) : D n (gAcc (Dict.bitsOf (nextInsn n s) 55 54)) s t := by
  change execAccSuml n s = .next t at he
  unfold execAccSuml at he
  exact acc_D he
theorem x_accShra {s t : State} (he : exec (.accShra n) s = .next t) : D n (gAcc (Dict.bitsOf (nextInsn n s) 55 54)) s t := by
  change execAccShra n s = .next t at he
  unfold execAccShra at he
  exact acc_D he
theorem x_accStr {s t : State} (he : exec (.accStr n) s = .next t) : D n (gV (Dict.bitsOf (nextInsn n s) 51 48)) s t := by
  change execAccStr n s = .next t at he
  unfold execAccStr at he
  refine insn_D (ofV (Dict.bitsOf (nextInsn n s) 51 48)) he fun pc at' u hu => ?_
  exact vecTail (Dict.bitsOf (nextInsn n s) 51 48) at' 1 (pc + 1) true
    (fun l => halfUp (areg n (Dict.bitsOf (nextInsn n s) 55 54) l u) (24 + Dict.bitsOf (nextInsn n s) 47 43))
    (fun d => setReg d.vReady (Dict.bitsOf (nextInsn n s) 51 48) 0) s u hu
theorem x_vmov {s t : State} (he : exec (.vmov n) s = .next t) : D n (gV (Dict.bitsOf (nextInsn n s) 55 52)) s t := by
  change execVmov n s = .next t at he
  unfold execVmov at he
  exact vec_D he
theorem x_vadd {s t : State} (he : exec (.vadd n) s = .next t) : D n (gV (Dict.bitsOf (nextInsn n s) 55 52)) s t := by
  change execVadd n s = .next t at he
  unfold execVadd at he
  exact vec_D he
theorem x_vsub {s t : State} (he : exec (.vsub n) s = .next t) : D n (gV (Dict.bitsOf (nextInsn n s) 55 52)) s t := by
  change execVsub n s = .next t at he
  unfold execVsub at he
  exact vec_D he
theorem x_vshl {s t : State} (he : exec (.vshl n) s = .next t) : D n (gV (Dict.bitsOf (nextInsn n s) 55 52)) s t := by
  change execVshl n s = .next t at he
  unfold execVshl at he
  exact vec_D he
theorem x_vshr {s t : State} (he : exec (.vshr n) s = .next t) : D n (gV (Dict.bitsOf (nextInsn n s) 55 52)) s t := by
  change execVshr n s = .next t at he
  unfold execVshr at he
  exact vec_D he
theorem x_mpy {ecc : List Ecc} {s t : State} (he : exec (.mpy n ecc) s = .next t) : D n (gMac (Dict.bitsOf (nextInsn n s) 57 56)) s t := by
  change execMpy n ecc s = .next t at he
  unfold execMpy at he
  exact mac_D he
theorem x_mac {ecc : List Ecc} {s t : State} (he : exec (.mac n ecc) s = .next t) : D n (gMac (Dict.bitsOf (nextInsn n s) 57 56)) s t := by
  change execMac n ecc s = .next t at he
  unfold execMac at he
  exact mac_D he
theorem x_msu {ecc : List Ecc} {s t : State} (he : exec (.msu n ecc) s = .next t) : D n (gMac (Dict.bitsOf (nextInsn n s) 57 56)) s t := by
  change execMsu n ecc s = .next t at he
  unfold execMsu at he
  exact mac_D he
set_option Elab.async false in
theorem x_mem {ecc : List Ecc} {s t : State} (he : exec (.mem n ecc) s = .next t) : D n gMem s t := by
  change execMem n ecc s = .next t at he
  unfold execMem at he
  refine insn_D ofMem he fun pc at' u hu => hu.trans ?_
  dsimp only
  have h0 : D n gMem u (runSlots n at' (nextInsn n s) ecc u).st := D_slots ofMem (fun e v r a => rfl) _ _ _ _
  refine D_ite (D_fault ofMem _ _ _ _ _) (D_ite (h0.trans (D_fault ofMem _ _ _ _ _)) ?_)
  exact (h0.trans (D_stalled ofMem _ _ _)).trans (D_retire ofMem _ _ _ _ _)
end DspRegFacts
open DspRegFacts
end Sys2Proof.Laws.DspFrames
end

