-- ==== Sys2Proof/Laws/Sound.lean ====
section
/-! SUPPORT. The predicate that every operation of the machine keeps: the queue is left alone, time does not run
backwards, memory and members stay in their canonical form. One lemma per operation follows in the files Laws/Sound*.lean. -/
namespace Sys2Proof.Laws
open Sys2Proof Sys2Proof.Machine

/-- Nothing that every command keeps has been lost: p is the queue, b a bound from below of the time. -/
structure Sound (p : List Instr) (b : Nat) (s : State) : Prop where
  pending : s.pending = p
  now : b ≤ s.now
  mem : Memory.wf s.mem
  reg : Members.wf s.reg

/-- The same of an outcome: it holds of a next state. -/
def SoundOut (p : List Instr) (b : Nat) (o : Out) : Prop := ∀ t, o = .next t → Sound p b t
/-- The same of the effect of a rule. -/
def SoundRule (p : List Instr) (b : Nat) (r : Rule) : Prop := ∀ s, Sound p b s → Sound p b (r.2 s)

variable {p : List Instr} {b : Nat}

/-- A state that differs from a sound one in other fields alone is sound. -/
theorem sound_of {s t : State} (h : Sound p b s) (h1 : t.pending = s.pending) (h2 : s.now ≤ t.now) (h3 : t.mem = s.mem)
    (h4 : t.reg = s.reg) : Sound p b t :=
  ⟨h1.trans h.pending, Nat.le_trans h.now h2, h3 ▸ h.mem, h4 ▸ h.reg⟩

theorem sound_cut {s : State} {g : Prop} (h : Sound p b s) (f : Sound p b s → g) : g := f h

theorem sound_ite {c : Prop} [Decidable c] {x y : State} (hx : Sound p b x) (hy : Sound p b y) :
    Sound p b (if c then x else y) := by split <;> assumption

theorem sound_foldl {α : Type} {f : State → α → State} (hf : ∀ s x, Sound p b s → Sound p b (f s x)) :
    ∀ {l : List α} {s : State}, Sound p b s → Sound p b (l.foldl f s)
  | [], _, h => h
  | x :: l, s, h => sound_foldl (l := l) hf (hf s x h)

theorem sound_foldl_snd {α β : Type} {f : α × State → β → α × State} (hf : ∀ q x, Sound p b q.2 → Sound p b (f q x).2) :
    ∀ {l : List β} {q : α × State}, Sound p b q.2 → Sound p b (l.foldl f q).2
  | [], _, h => h
  | x :: l, q, h => sound_foldl_snd (l := l) hf (hf q x h)

theorem soundOut_next {s : State} (h : Sound p b s) : SoundOut p b (.next s) := fun _ e => by cases e; exact h
theorem soundOut_fault (f : Fault) : SoundOut p b (.fault f) := fun _ e => by cases e
theorem soundOut_ite {c : Prop} [Decidable c] {x y : Out} (hx : SoundOut p b x) (hy : SoundOut p b y) :
    SoundOut p b (if c then x else y) := by split <;> assumption
theorem unitCmd_sound {n k : Nat} {t : State} (h : Sound p b t) : SoundOut p b (unitCmd n k t) := by
  unfold unitCmd
  exact soundOut_ite (soundOut_next h) (soundOut_fault _)

theorem wr_sound {s : State} (h : Sound p b s) (k v : Nat) : Sound p b (s.wr k v) :=
  ⟨h.pending, h.now, h.mem, tab_wf_set h.reg k v⟩

theorem soundRule_mk {c : List (Bool × Nat)} {f : State → State} (h : ∀ s, Sound p b s → Sound p b (f s)) : SoundRule p b (c, f) := h
theorem soundRule_ite {c : Prop} [Decidable c] {x y : Rule} (hx : SoundRule p b x) (hy : SoundRule p b y) :
    SoundRule p b (if c then x else y) := by split <;> assumption

set_option Elab.async false in
/-- A change of fields other than queue, time, memory and members. -/
theorem sound_mk_iff {s : State} {x_evq : List (Nat × Nat)} {x_freeCtr : Nat} {x_hdi : HdiS} {x_clk : ClockS} {x_sched : List Sched} {x_ve : Tab VeRun} {x_outCh : Tab OutCh} {x_inCh : Tab InCh} {x_fcp : Tab FcpS} {x_sq : Tab SqS} {x_brk : Tab BrkS} {x_tgt : Tab TgtS} {x_groupAt : List (Nat × Nat)} {x_dsp : Tab DspRun} {x_focus : FocusS} {x_trim : TrimS} {x_reqs : List MeshReq} {x_resps : List MeshResp} {x_held : List PortReq} {x_steal : List PortReq} {x_labels : List (MeshReq × Nat)} {x_drain : Option Drain} {x_trace : List Nat} {x_dmc : Tab DmcS} {x_autoTrain : Bool} {x_crh : CrhS} {x_cfg : CfgS} {x_fresh : List (Nat × Nat × Nat)} {x_cleared : List (Nat × Nat × Nat)} {x_sup : SupS} {x_dbg : DbgS} {x_tmu : TmuS} {x_lanes : Tab LaneS} {x_cells : Tab (Option CellS)} {x_cellCfg : Tab CellCfg} {x_sels : Tab Nat} {x_tracks : Tab Nat} {x_upsets : List Upset} {x_facets : Tab FacetS} {x_fev : List (Nat × Nat)} {x_panes : Tab PaneS} {x_banks : Tab BankS} {x_pins : PinsS} :
    Sound p b ⟨s.now, s.reg, s.mem, x_evq, x_freeCtr, s.pending, x_hdi, x_clk, x_sched, x_ve, x_outCh, x_inCh, x_fcp, x_sq, x_brk, x_tgt, x_groupAt, x_dsp, x_focus, x_trim, x_reqs, x_resps, x_held, x_steal, x_labels, x_drain, x_trace, x_dmc, x_autoTrain, x_crh, x_cfg, x_fresh, x_cleared, x_sup, x_dbg, x_tmu, x_lanes, x_cells, x_cellCfg, x_sels, x_tracks, x_upsets, x_facets, x_fev, x_panes, x_banks, x_pins⟩ ↔ Sound p b s := ⟨fun h => ⟨h.pending, h.now, h.mem, h.reg⟩, fun h => ⟨h.pending, h.now, h.mem, h.reg⟩⟩

end Sys2Proof.Laws
end

