-- ==== Sys2Proof/Laws/SoundOps.lean ====
section
/-! SUPPORT. What every operation of Machine/Ops.lean keeps. -/
namespace Sys2Proof.Laws
open Sys2Proof Sys2Proof.Machine
set_option linter.unusedVariables false
set_option linter.unusedTactic false
set_option linter.unreachableTactic false

variable {qq : List Instr} {t0 : Nat}

theorem addTo_sound (s : State) (w k d : Nat) (hs : Sound qq t0 s) :
    Sound qq t0 (State.addTo s w k d) := by
  unfold State.addTo
  repeat' first
    | with_reducible intro _
    | with_reducible assumption
    | with_reducible apply wr_sound

theorem bump_sound (s : State) (w k : Nat) (hs : Sound qq t0 s) :
    Sound qq t0 (State.bump s w k) := by
  unfold State.bump
  repeat' first
    | with_reducible intro _
    | with_reducible assumption
    | with_reducible apply addTo_sound

theorem raiseAt_sound (s : State) (t e : Nat) (hs : Sound qq t0 s) :
    Sound qq t0 (State.raiseAt s t e) := by
  unfold State.raiseAt
  repeat' first
    | with_reducible intro _
    | with_reducible assumption
    | simp only [↓sound_mk_iff]
    | with_reducible apply sound_ite
    | (extract_lets x; first | (with_reducible refine sound_cut (s := x) ?_ ?_; (on_goal 2 => clear_value x); (on_goal 1 => unfold x)) | (subst x))
    | split

theorem raise_sound (s : State) (e : Nat) (hs : Sound qq t0 s) :
    Sound qq t0 (State.raise s e) := by
  unfold State.raise
  repeat' first
    | with_reducible intro _
    | with_reducible assumption
    | with_reducible apply raiseAt_sound
    | simp only [↓sound_mk_iff]
    | with_reducible apply sound_ite
    | (extract_lets x; first | (with_reducible refine sound_cut (s := x) ?_ ?_; (on_goal 2 => clear_value x); (on_goal 1 => unfold x)) | (subst x))
    | split

theorem setBit_sound (s : State) (k b : Nat) (v : Bool) (hs : Sound qq t0 s) :
    Sound qq t0 (State.setBit s k b v) := by
  unfold State.setBit
  repeat' first
    | with_reducible intro _
    | with_reducible assumption
    | with_reducible apply wr_sound
    | with_reducible apply sound_ite
    | split

theorem note_sound (s : State) (k b : Nat) (hs : Sound qq t0 s) :
    Sound qq t0 (State.note s k b) := by
  unfold State.note
  repeat' first
    | with_reducible intro _
    | with_reducible assumption
    | simp only [↓sound_mk_iff]
    | with_reducible apply sound_ite
    | (extract_lets x; first | (with_reducible refine sound_cut (s := x) ?_ ?_; (on_goal 2 => clear_value x); (on_goal 1 => unfold x)) | (subst x))
    | split

theorem flag_sound (s : State) (k b e : Nat) (hs : Sound qq t0 s) :
    Sound qq t0 (State.flag s k b e) := by
  unfold State.flag
  repeat' first
    | with_reducible intro _
    | with_reducible assumption
    | with_reducible apply note_sound
    | with_reducible apply setBit_sound
    | with_reducible apply raise_sound
    | simp only [↓sound_mk_iff]
    | with_reducible apply sound_ite
    | (extract_lets x; first | (with_reducible refine sound_cut (s := x) ?_ ?_; (on_goal 2 => clear_value x); (on_goal 1 => unfold x)) | (subst x))
    | split

theorem clearBits_sound (s : State) (k v : Nat) (hs : Sound qq t0 s) :
    Sound qq t0 (State.clearBits s k v) := by
  unfold State.clearBits
  repeat' first
    | with_reducible intro _
    | with_reducible assumption
    | with_reducible apply wr_sound
    | simp only [↓sound_mk_iff]
    | with_reducible apply sound_ite
    | (extract_lets x; first | (with_reducible refine sound_cut (s := x) ?_ ?_; (on_goal 2 => clear_value x); (on_goal 1 => unfold x)) | (subst x))
    | split

theorem upto_sound (s : State) (t : Nat) (hs : Sound qq t0 s) : Sound qq t0 (State.upto s t) :=
  ⟨hs.pending, Nat.le_trans hs.now (Nat.le_max_left _ _), hs.mem, hs.reg⟩

theorem drawn_sound (s : State) (hs : Sound qq t0 s) :
    Sound qq t0 (State.drawn s) := by
  unfold State.drawn
  repeat' first
    | with_reducible intro _
    | with_reducible assumption
    | simp only [↓sound_mk_iff]

theorem modVe_sound (s : State) (n : Nat) (f : VeRun → VeRun) (hs : Sound qq t0 s) :
    Sound qq t0 (State.modVe s n f) := by
  unfold State.modVe
  repeat' first
    | with_reducible intro _
    | with_reducible assumption
    | simp only [↓sound_mk_iff]

theorem modOut_sound (s : State) (c : Nat) (f : OutCh → OutCh) (hs : Sound qq t0 s) :
    Sound qq t0 (State.modOut s c f) := by
  unfold State.modOut
  repeat' first
    | with_reducible intro _
    | with_reducible assumption
    | simp only [↓sound_mk_iff]

theorem modIn_sound (s : State) (c : Nat) (f : InCh → InCh) (hs : Sound qq t0 s) :
    Sound qq t0 (State.modIn s c f) := by
  unfold State.modIn
  repeat' first
    | with_reducible intro _
    | with_reducible assumption
    | simp only [↓sound_mk_iff]

theorem modFcp_sound (s : State) (n : Nat) (f : FcpS → FcpS) (hs : Sound qq t0 s) :
    Sound qq t0 (State.modFcp s n f) := by
  unfold State.modFcp
  repeat' first
    | with_reducible intro _
    | with_reducible assumption
    | simp only [↓sound_mk_iff]

theorem modSq_sound (s : State) (q : Nat) (f : SqS → SqS) (hs : Sound qq t0 s) :
    Sound qq t0 (State.modSq s q f) := by
  unfold State.modSq
  repeat' first
    | with_reducible intro _
    | with_reducible assumption
    | simp only [↓sound_mk_iff]

theorem modBrk_sound (s : State) (u : Nat) (f : BrkS → BrkS) (hs : Sound qq t0 s) :
    Sound qq t0 (State.modBrk s u f) := by
  unfold State.modBrk
  repeat' first
    | with_reducible intro _
    | with_reducible assumption
    | simp only [↓sound_mk_iff]

theorem modTgt_sound (s : State) (t : Nat) (f : TgtS → TgtS) (hs : Sound qq t0 s) :
    Sound qq t0 (State.modTgt s t f) := by
  unfold State.modTgt
  repeat' first
    | with_reducible intro _
    | with_reducible assumption
    | simp only [↓sound_mk_iff]

theorem modDsp_sound (s : State) (n : Nat) (f : DspRun → DspRun) (hs : Sound qq t0 s) :
    Sound qq t0 (State.modDsp s n f) := by
  unfold State.modDsp
  repeat' first
    | with_reducible intro _
    | with_reducible assumption
    | simp only [↓sound_mk_iff]

theorem modFacet_sound (s : State) (f : Nat) (g : FacetS → FacetS) (hs : Sound qq t0 s) :
    Sound qq t0 (State.modFacet s f g) := by
  unfold State.modFacet
  repeat' first
    | with_reducible intro _
    | with_reducible assumption
    | simp only [↓sound_mk_iff]

theorem modPane_sound (s : State) (p : Nat) (g : PaneS → PaneS) (hs : Sound qq t0 s) :
    Sound qq t0 (State.modPane s p g) := by
  unfold State.modPane
  repeat' first
    | with_reducible intro _
    | with_reducible assumption
    | simp only [↓sound_mk_iff]

theorem modBank_sound (s : State) (b : Nat) (g : BankS → BankS) (hs : Sound qq t0 s) :
    Sound qq t0 (State.modBank s b g) := by
  unfold State.modBank
  repeat' first
    | with_reducible intro _
    | with_reducible assumption
    | simp only [↓sound_mk_iff]

theorem modDmc_sound (s : State) (n : Nat) (g : DmcS → DmcS) (hs : Sound qq t0 s) :
    Sound qq t0 (State.modDmc s n g) := by
  unfold State.modDmc
  repeat' first
    | with_reducible intro _
    | with_reducible assumption
    | simp only [↓sound_mk_iff]

theorem modLane_sound (s : State) (n : Nat) (g : LaneS → LaneS) (hs : Sound qq t0 s) :
    Sound qq t0 (State.modLane s n g) := by
  unfold State.modLane
  repeat' first
    | with_reducible intro _
    | with_reducible assumption
    | simp only [↓sound_mk_iff]

theorem modTmu_sound (s : State) (g : TmuS → TmuS) (hs : Sound qq t0 s) :
    Sound qq t0 (State.modTmu s g) := by
  unfold State.modTmu
  repeat' first
    | with_reducible intro _
    | with_reducible assumption
    | simp only [↓sound_mk_iff]

theorem modLaneTime_sound (s : State) (n : Nat) (g : LaneTime → LaneTime) (hs : Sound qq t0 s) :
    Sound qq t0 (State.modLaneTime s n g) := by
  unfold State.modLaneTime
  repeat' first
    | with_reducible intro _
    | with_reducible assumption
    | with_reducible apply modTmu_sound
    | simp only [↓sound_mk_iff]

theorem modTrg_sound (s : State) (t : Nat) (g : TrgS → TrgS) (hs : Sound qq t0 s) :
    Sound qq t0 (State.modTrg s t g) := by
  unfold State.modTrg
  repeat' first
    | with_reducible intro _
    | with_reducible assumption
    | with_reducible apply modTmu_sound
    | simp only [↓sound_mk_iff]

theorem modCap_sound (s : State) (t : Nat) (g : CapS → CapS) (hs : Sound qq t0 s) :
    Sound qq t0 (State.modCap s t g) := by
  unfold State.modCap
  repeat' first
    | with_reducible intro _
    | with_reducible assumption
    | with_reducible apply modTmu_sound
    | simp only [↓sound_mk_iff]

theorem store_sound (s : State) (a n v : Nat) (hs : Sound qq t0 s) : Sound qq t0 (State.store s a n v) :=
  ⟨hs.pending, hs.now, mem_wf_write hs.mem, hs.reg⟩

theorem modMaster_sound (s : State) (m : Nat) (f : MasterS → MasterS) (hs : Sound qq t0 s) :
    Sound qq t0 (State.modMaster s m f) := by
  unfold State.modMaster
  repeat' first
    | with_reducible intro _
    | with_reducible assumption
    | simp only [↓sound_mk_iff]

theorem modSlot_sound (s : State) (k : Nat) (f : SlotS → SlotS) (hs : Sound qq t0 s) :
    Sound qq t0 (State.modSlot s k f) := by
  unfold State.modSlot
  repeat' first
    | with_reducible intro _
    | with_reducible assumption
    | simp only [↓sound_mk_iff]

theorem modI3c_sound (s : State) (f : I3cS → I3cS) (hs : Sound qq t0 s) :
    Sound qq t0 (State.modI3c s f) := by
  unfold State.modI3c
  repeat' first
    | with_reducible intro _
    | with_reducible assumption
    | simp only [↓sound_mk_iff]

theorem modMirror_sound (s : State) (f : MirrorS → MirrorS) (hs : Sound qq t0 s) :
    Sound qq t0 (State.modMirror s f) := by
  unfold State.modMirror
  repeat' first
    | with_reducible intro _
    | with_reducible assumption
    | simp only [↓sound_mk_iff]

theorem meshSend_sound (r : MeshReq) (s : State) (hs : Sound qq t0 s) :
    Sound qq t0 (meshSend r s) := by
  unfold meshSend
  repeat' first
    | with_reducible intro _
    | with_reducible assumption
    | simp only [↓sound_mk_iff]
    | with_reducible apply sound_ite
    | (extract_lets x; first | (with_reducible refine sound_cut (s := x) ?_ ?_; (on_goal 2 => clear_value x); (on_goal 1 => unfold x)) | (subst x))
    | split

theorem meshAnswer_sound (r : MeshReq) (kind data : Nat) (s : State) (hs : Sound qq t0 s) :
    Sound qq t0 (meshAnswer r kind data s) := by
  unfold meshAnswer
  repeat' first
    | with_reducible intro _
    | with_reducible assumption
    | simp only [↓sound_mk_iff]

theorem respTaken_sound (x : MeshResp) (s : State) (hs : Sound qq t0 s) :
    Sound qq t0 (respTaken x s) := by
  unfold respTaken
  repeat' first
    | with_reducible intro _
    | with_reducible assumption
    | simp only [↓sound_mk_iff]
    | with_reducible apply sound_ite
    | (extract_lets x; first | (with_reducible refine sound_cut (s := x) ?_ ?_; (on_goal 2 => clear_value x); (on_goal 1 => unfold x)) | (subst x))
    | split

theorem restartLease_sound (s : State) (hs : Sound qq t0 s) :
    Sound qq t0 (restartLease s) := by
  unfold restartLease
  repeat' first
    | with_reducible intro _
    | with_reducible assumption
    | with_reducible apply modMirror_sound
    | simp only [↓sound_mk_iff]

theorem respond_sound (q : Req) (op o m st len data : Nat) (s : State) (hs : Sound qq t0 s) :
    Sound qq t0 (respond q op o m st len data s) := by
  unfold respond
  repeat' first
    | with_reducible intro _
    | with_reducible assumption
    | with_reducible apply modMaster_sound
    | with_reducible apply bump_sound
    | simp only [↓sound_mk_iff]
    | with_reducible apply sound_ite
    | (extract_lets x; first | (with_reducible refine sound_cut (s := x) ?_ ?_; (on_goal 2 => clear_value x); (on_goal 1 => unfold x)) | (subst x))
    | split

theorem finish_sound (q : Req) (op o m st len data : Nat) (eff : State → State) (s : State) (heff : ∀ (y0 : State), Sound qq t0 y0 → Sound qq t0 (eff y0)) (hs : Sound qq t0 s) :
    Sound qq t0 (finish q op o m st len data eff s) := by
  unfold finish
  repeat' first
    | with_reducible intro _
    | with_reducible assumption
    | with_reducible apply heff
    | with_reducible apply respond_sound
    | with_reducible apply restartLease_sound
    | with_reducible apply sound_ite
    | (extract_lets x; first | (with_reducible refine sound_cut (s := x) ?_ ?_; (on_goal 2 => clear_value x); (on_goal 1 => unfold x)) | (subst x))
    | split

theorem command_sound (q : Req) (k code : Nat) (extra : List (Bool × Nat)) (eff : State → State) (s : State) (heff : ∀ (y0 : State), Sound qq t0 y0 → Sound qq t0 (eff y0)) (hs : Sound qq t0 s) :
    Sound qq t0 (command q k code extra eff s) := by
  unfold command
  repeat' first
    | with_reducible intro _
    | with_reducible assumption
    | with_reducible apply heff
    | with_reducible apply finish_sound

theorem writeTo_sound (q : Req) (k len v : Nat) (extra : List (Bool × Nat)) (eff : State → State) (s : State) (heff : ∀ (y0 : State), Sound qq t0 y0 → Sound qq t0 (eff y0)) (hs : Sound qq t0 s) :
    Sound qq t0 (writeTo q k len v extra eff s) := by
  unfold writeTo
  repeat' first
    | with_reducible intro _
    | with_reducible assumption
    | with_reducible apply heff
    | with_reducible apply finish_sound

set_option Elab.async false in
theorem readFrom_sound (q : Req) (k len data : Nat) (extra : List (Bool × Nat)) (eff : State → State) (s : State) (hs : Sound qq t0 s) (heff : ∀ (y0 : State), Sound qq t0 y0 → Sound qq t0 (eff y0)) :
    Sound qq t0 (readFrom q k len data extra eff s) := by
  unfold readFrom
  repeat' first
    | with_reducible intro _
    | with_reducible assumption
    | with_reducible apply heff
    | with_reducible apply finish_sound
    | simp only [↓sound_mk_iff]
    | with_reducible apply sound_ite
    | (extract_lets x; first | (with_reducible refine sound_cut (s := x) ?_ ?_; (on_goal 2 => clear_value x); (on_goal 1 => unfold x)) | (subst x))
    | split

end Sys2Proof.Laws
end

