-- ==== Sys2Proof/Laws/SoundBrk.lean ====
section
/-! SUPPORT. What every operation of Machine/Brk.lean keeps. -/
namespace Sys2Proof.Laws
open Sys2Proof Sys2Proof.Machine
set_option linter.unusedVariables false
set_option linter.unusedTactic false
set_option linter.unreachableTactic false

variable {qq : List Instr} {t0 : Nat}

theorem latchDebugHalt_sound (t th : Nat) (s : State) (hs : Sound qq t0 s) :
    Sound qq t0 (latchDebugHalt t th s) := by
  unfold latchDebugHalt
  repeat' first
    | with_reducible intro _
    | with_reducible assumption
    | with_reducible apply modTgt_sound
    | with_reducible apply modVe_sound
    | with_reducible apply modDsp_sound
    | simp only [↓sound_mk_iff]
    | with_reducible apply sound_ite
    | (extract_lets x; first | (with_reducible refine sound_cut (s := x) ?_ ?_; (on_goal 2 => clear_value x); (on_goal 1 => unfold x)) | (subst x))
    | split

theorem linkFired_sound (u : Nat) (s : State) (hs : Sound qq t0 s) :
    Sound qq t0 (linkFired u s) := by
  unfold linkFired
  repeat' first
    | with_reducible intro _
    | with_reducible assumption
    | with_reducible apply modBrk_sound
    | simp only [↓sound_mk_iff]
    | with_reducible apply sound_ite
    | with_reducible apply sound_foldl
    | split

theorem brkFire_sound (u t th : Nat) (s : State) (hs : Sound qq t0 s) :
    Sound qq t0 (brkFire u t th s) := by
  unfold brkFire
  repeat' first
    | with_reducible intro _
    | with_reducible assumption
    | with_reducible apply linkFired_sound
    | with_reducible apply latchDebugHalt_sound
    | with_reducible apply flag_sound
    | with_reducible apply wr_sound
    | simp only [↓sound_mk_iff]
    | with_reducible apply sound_ite
    | (extract_lets x; first | (with_reducible refine sound_cut (s := x) ?_ ?_; (on_goal 2 => clear_value x); (on_goal 1 => unfold x)) | (subst x))
    | split

theorem brkCount_sound (u t th : Nat) (s : State) (hs : Sound qq t0 s) :
    Sound qq t0 (brkCount u t th s) := by
  unfold brkCount
  repeat' first
    | with_reducible intro _
    | with_reducible assumption
    | with_reducible apply bump_sound
    | with_reducible apply modBrk_sound
    | with_reducible apply brkFire_sound
    | simp only [↓sound_mk_iff]
    | with_reducible apply sound_ite
    | (extract_lets x; first | (with_reducible refine sound_cut (s := x) ?_ ?_; (on_goal 2 => clear_value x); (on_goal 1 => unfold x)) | (subst x))
    | split

set_option Elab.async false in
theorem brkMatch_sound (kind t v ctx cls th : Nat) (s : State) (hs : Sound qq t0 s) :
    Sound qq t0 (brkMatch kind t v ctx cls th s) := by
  unfold brkMatch
  repeat' first
    | with_reducible intro _
    | with_reducible assumption
    | with_reducible apply brkCount_sound
    | simp only [↓sound_mk_iff]
    | with_reducible apply sound_foldl
    | with_reducible apply sound_foldl_snd
    | with_reducible apply sound_ite
    | (extract_lets x; first | (with_reducible refine sound_cut (s := x) ?_ ?_; (on_goal 2 => clear_value x); (on_goal 1 => unfold x)) | (subst x))
    | split

end Sys2Proof.Laws
end

