-- ==== Sys2Proof/Laws/SoundCapture.lean ====
section
/-! SUPPORT. What every operation of Machine/Capture.lean keeps. -/
namespace Sys2Proof.Laws
open Sys2Proof Sys2Proof.Machine
set_option linter.unusedVariables false
set_option linter.unusedTactic false
set_option linter.unreachableTactic false

variable {qq : List Instr} {t0 : Nat}

theorem qFlag_sound (q b th : Nat) (s : State) (hs : Sound qq t0 s) :
    Sound qq t0 (qFlag q b th s) := by
  unfold qFlag
  repeat' first
    | with_reducible intro _
    | with_reducible assumption
    | with_reducible apply modSq_sound
    | with_reducible apply note_sound
    | with_reducible apply setBit_sound
    | with_reducible apply raise_sound
    | simp only [↓sound_mk_iff]
    | with_reducible apply sound_ite
    | (extract_lets x; first | (with_reducible refine sound_cut (s := x) ?_ ?_; (on_goal 2 => clear_value x); (on_goal 1 => unfold x)) | (subst x))
    | split

theorem fcpStopOne_sound (n code th : Nat) (s : State) (hs : Sound qq t0 s) :
    Sound qq t0 (fcpStopOne n code th s) := by
  unfold fcpStopOne
  repeat' first
    | with_reducible intro _
    | with_reducible assumption
    | with_reducible apply wr_sound
    | with_reducible apply modFcp_sound
    | with_reducible apply qFlag_sound
    | with_reducible apply modVe_sound
    | simp only [↓sound_mk_iff]
    | with_reducible apply sound_ite
    | (extract_lets x; first | (with_reducible refine sound_cut (s := x) ?_ ?_; (on_goal 2 => clear_value x); (on_goal 1 => unfold x)) | (subst x))
    | split

theorem fcpStop_sound (n code policy th : Nat) (s : State) (hs : Sound qq t0 s) :
    Sound qq t0 (fcpStop n code policy th s) := by
  unfold fcpStop
  repeat' first
    | with_reducible intro _
    | with_reducible assumption
    | with_reducible apply fcpStopOne_sound
    | with_reducible apply sound_ite
    | with_reducible apply sound_foldl
    | (extract_lets x; first | (with_reducible refine sound_cut (s := x) ?_ ?_; (on_goal 2 => clear_value x); (on_goal 1 => unfold x)) | (subst x))
    | split

theorem fcpDrop_sound (n counter policy th : Nat) (s : State) (hs : Sound qq t0 s) :
    Sound qq t0 (fcpDrop n counter policy th s) := by
  unfold fcpDrop
  repeat' first
    | with_reducible intro _
    | with_reducible assumption
    | with_reducible apply qFlag_sound
    | with_reducible apply bump_sound
    | with_reducible apply fcpStop_sound
    | with_reducible apply modFcp_sound
    | simp only [↓sound_mk_iff]
    | with_reducible apply sound_ite
    | (extract_lets x; first | (with_reducible refine sound_cut (s := x) ?_ ?_; (on_goal 2 => clear_value x); (on_goal 1 => unfold x)) | (subst x))
    | split

theorem formRecord_sound (n th : Nat) (r : FailRec) (s : State) (hs : Sound qq t0 s) :
    Sound qq t0 (formRecord n th r s) := by
  unfold formRecord
  repeat' first
    | with_reducible intro _
    | with_reducible assumption
    | with_reducible apply bump_sound
    | with_reducible apply modFcp_sound
    | with_reducible apply fcpDrop_sound
    | simp only [↓sound_mk_iff]
    | with_reducible apply sound_ite
    | (extract_lets x; first | (with_reducible refine sound_cut (s := x) ?_ ?_; (on_goal 2 => clear_value x); (on_goal 1 => unfold x)) | (subst x))
    | split

theorem closeRecord_sound (n th : Nat) (s : State) (hs : Sound qq t0 s) :
    Sound qq t0 (closeRecord n th s) := by
  unfold closeRecord
  repeat' first
    | with_reducible intro _
    | with_reducible assumption
    | with_reducible apply formRecord_sound
    | with_reducible apply modFcp_sound
    | simp only [↓sound_mk_iff]
    | split

theorem formBitmap_sound (n th : Nat) (op : BmOp) (s : State) (hs : Sound qq t0 s) :
    Sound qq t0 (formBitmap n th op s) := by
  unfold formBitmap
  repeat' first
    | with_reducible intro _
    | with_reducible assumption
    | with_reducible apply bump_sound
    | with_reducible apply modFcp_sound
    | with_reducible apply fcpDrop_sound
    | simp only [↓sound_mk_iff]
    | with_reducible apply sound_ite
    | (extract_lets x; first | (with_reducible refine sound_cut (s := x) ?_ ?_; (on_goal 2 => clear_value x); (on_goal 1 => unfold x)) | (subst x))
    | split

theorem closeBitmap_sound (n th : Nat) (s : State) (hs : Sound qq t0 s) :
    Sound qq t0 (closeBitmap n th s) := by
  unfold closeBitmap
  repeat' first
    | with_reducible intro _
    | with_reducible assumption
    | with_reducible apply formBitmap_sound
    | with_reducible apply modFcp_sound
    | simp only [↓sound_mk_iff]
    | split

set_option Elab.async false in
theorem closeMark_sound (n th : Nat) (s : State) (hs : Sound qq t0 s) :
    Sound qq t0 (closeMark n th s) := by
  unfold closeMark
  repeat' first
    | with_reducible intro _
    | with_reducible assumption
    | with_reducible apply modFcp_sound
    | with_reducible apply closeBitmap_sound
    | with_reducible apply closeRecord_sound
    | simp only [↓sound_mk_iff]
    | split

end Sys2Proof.Laws
end

