-- ==== Sys2Proof/Laws/SoundChan.lean ====
section
/-! SUPPORT. What every operation of Machine/Chan.lean keeps. -/
namespace Sys2Proof.Laws
open Sys2Proof Sys2Proof.Machine
set_option linter.unusedVariables false
set_option linter.unusedTactic false
set_option linter.unreachableTactic false

variable {qq : List Instr} {t0 : Nat}

theorem settleOut_sound (c : Nat) (s : State) (hs : Sound qq t0 s) :
    Sound qq t0 (settleOut c s) := by
  unfold settleOut
  repeat' first
    | with_reducible intro _
    | with_reducible assumption
    | with_reducible apply modOut_sound
    | with_reducible apply setBit_sound
    | with_reducible apply wr_sound
    | simp only [↓sound_mk_iff]
    | with_reducible apply sound_ite
    | (extract_lets x; first | (with_reducible refine sound_cut (s := x) ?_ ?_; (on_goal 2 => clear_value x); (on_goal 1 => unfold x)) | (subst x))
    | split

theorem settleIn_sound (c : Nat) (s : State) (hs : Sound qq t0 s) :
    Sound qq t0 (settleIn c s) := by
  unfold settleIn
  repeat' first
    | with_reducible intro _
    | with_reducible assumption
    | with_reducible apply modIn_sound
    | with_reducible apply setBit_sound
    | with_reducible apply wr_sound
    | simp only [↓sound_mk_iff]
    | with_reducible apply sound_ite
    | (extract_lets x; first | (with_reducible refine sound_cut (s := x) ?_ ?_; (on_goal 2 => clear_value x); (on_goal 1 => unfold x)) | (subst x))
    | split

theorem settleDrops_sound (s : State) (hs : Sound qq t0 s) :
    Sound qq t0 (settleDrops s) := by
  unfold settleDrops
  repeat' first
    | with_reducible intro _
    | with_reducible assumption
    | with_reducible apply settleIn_sound
    | with_reducible apply settleOut_sound
    | simp only [↓sound_mk_iff]
    | with_reducible apply sound_foldl
    | with_reducible apply sound_foldl_snd
    | with_reducible apply sound_ite
    | (extract_lets x; first | (with_reducible refine sound_cut (s := x) ?_ ?_; (on_goal 2 => clear_value x); (on_goal 1 => unfold x)) | (subst x))
    | split

theorem dropOut_sound (c t : Nat) (s : State) (hs : Sound qq t0 s) :
    Sound qq t0 (dropOut c t s) := by
  unfold dropOut
  repeat' first
    | with_reducible intro _
    | with_reducible assumption
    | with_reducible apply settleOut_sound
    | with_reducible apply modOut_sound
    | with_reducible apply raiseAt_sound
    | simp only [↓sound_mk_iff]
    | with_reducible apply sound_ite
    | (extract_lets x; first | (with_reducible refine sound_cut (s := x) ?_ ?_; (on_goal 2 => clear_value x); (on_goal 1 => unfold x)) | (subst x))
    | split

theorem dropIn_sound (c t : Nat) (s : State) (hs : Sound qq t0 s) :
    Sound qq t0 (dropIn c t s) := by
  unfold dropIn
  repeat' first
    | with_reducible intro _
    | with_reducible assumption
    | with_reducible apply settleIn_sound
    | with_reducible apply modIn_sound
    | with_reducible apply raiseAt_sound
    | simp only [↓sound_mk_iff]
    | with_reducible apply sound_ite
    | (extract_lets x; first | (with_reducible refine sound_cut (s := x) ?_ ?_; (on_goal 2 => clear_value x); (on_goal 1 => unfold x)) | (subst x))
    | split

theorem placeData_sound (c t : Nat) (op : Option EdgeOp) (s : State) (hs : Sound qq t0 s) :
    Sound qq t0 (placeData c t op s) := by
  unfold placeData
  repeat' first
    | with_reducible intro _
    | with_reducible assumption
    | with_reducible apply dropOut_sound
    | with_reducible apply modOut_sound
    | simp only [↓sound_mk_iff]
    | with_reducible apply sound_ite
    | (extract_lets x; first | (with_reducible refine sound_cut (s := x) ?_ ?_; (on_goal 2 => clear_value x); (on_goal 1 => unfold x)) | (subst x))
    | split

theorem placeEnable_sound (c t : Nat) (n : Bool) (s : State) (hs : Sound qq t0 s) :
    Sound qq t0 (placeEnable c t n s) := by
  unfold placeEnable
  repeat' first
    | with_reducible intro _
    | with_reducible assumption
    | with_reducible apply dropOut_sound
    | with_reducible apply modOut_sound
    | simp only [↓sound_mk_iff]
    | with_reducible apply sound_ite
    | (extract_lets x; first | (with_reducible refine sound_cut (s := x) ?_ ?_; (on_goal 2 => clear_value x); (on_goal 1 => unfold x)) | (subst x))
    | split

theorem placeMark_sound (c t : Nat) (s : State) (hs : Sound qq t0 s) :
    Sound qq t0 (placeMark c t s) := by
  unfold placeMark
  repeat' first
    | with_reducible intro _
    | with_reducible assumption
    | with_reducible apply dropIn_sound
    | with_reducible apply modIn_sound
    | simp only [↓sound_mk_iff]
    | with_reducible apply sound_ite
    | (extract_lets x; first | (with_reducible refine sound_cut (s := x) ?_ ?_; (on_goal 2 => clear_value x); (on_goal 1 => unfold x)) | (subst x))
    | split

theorem placeMarks_sound (c : Nat) : ∀ (z0 : List Nat) (z1 : State × Bool), Sound qq t0 z1.1 → Sound qq t0 (placeMarks c z0 z1).1
  | [], _, h => h
  | t :: ts, (s, lost), h => by
    unfold placeMarks
    exact placeMarks_sound c ts _ (placeMark_sound c t s h)

theorem strobeIn_sound (n tset tc p c : Nat) (d : Bool) (smp : Samples) (s : State) (hs : Sound qq t0 s) :
    Sound qq t0 (strobeIn n tset tc p c d smp s).1 := by
  unfold strobeIn
  repeat' first
    | with_reducible intro _
    | with_reducible assumption
    | with_reducible apply placeMarks_sound
    | with_reducible apply drawn_sound
    | simp only [↓sound_mk_iff]
    | with_reducible apply sound_ite
    | (extract_lets x; first | (with_reducible refine sound_cut (s := x) ?_ ?_; (on_goal 2 => clear_value x); (on_goal 1 => unfold x)) | (subst x))
    | split

theorem leaveLevel_sound (c p : Nat) (smp : Samples) (s : State) (hs : Sound qq t0 s) :
    Sound qq t0 (leaveLevel c p smp s) := by
  unfold leaveLevel
  repeat' first
    | with_reducible intro _
    | with_reducible assumption
    | simp only [↓sound_mk_iff]
    | with_reducible apply sound_ite
    | (extract_lets x; first | (with_reducible refine sound_cut (s := x) ?_ ?_; (on_goal 2 => clear_value x); (on_goal 1 => unfold x)) | (subst x))
    | split

theorem strobeAll_sound (n tset tc d : Nat) (smp : Samples) : ∀ (z0 : List (Nat × Nat)) (z1 : State), Sound qq t0 z1 →
    Sound qq t0 (strobeAll n tset tc d smp z0 z1).1
  | [], _, h => h
  | (p, c) :: ps, s, h => by
    unfold strobeAll
    exact strobeAll_sound n tset tc d smp ps _ (strobeIn_sound n tset tc p c _ smp _ (leaveLevel_sound c p smp s h))

theorem driveOut_sound (n tset tc p c : Nat) (d : Bool) (found : List Strobe) (s : State) (hs : Sound qq t0 s) :
    Sound qq t0 (driveOut n tset tc p c d found s) := by
  unfold driveOut
  repeat' first
    | with_reducible intro _
    | with_reducible assumption
    | with_reducible apply placeEnable_sound
    | with_reducible apply placeData_sound
    | with_reducible apply settleOut_sound
    | with_reducible apply modOut_sound
    | simp only [↓sound_mk_iff]
    | with_reducible apply sound_foldl
    | with_reducible apply sound_foldl_snd
    | with_reducible apply sound_ite
    | (extract_lets x; first | (with_reducible refine sound_cut (s := x) ?_ ?_; (on_goal 2 => clear_value x); (on_goal 1 => unfold x)) | (subst x))
    | split

theorem parkAt_sound (c set t : Nat) (s : State) (hs : Sound qq t0 s) :
    Sound qq t0 (parkAt c set t s) := by
  unfold parkAt
  repeat' first
    | with_reducible intro _
    | with_reducible assumption
    | with_reducible apply modOut_sound
    | simp only [↓sound_mk_iff]
    | with_reducible apply sound_ite
    | (extract_lets x; first | (with_reducible refine sound_cut (s := x) ?_ ?_; (on_goal 2 => clear_value x); (on_goal 1 => unfold x)) | (subst x))
    | split

theorem parkEngine_sound (n t : Nat) (s : State) (hs : Sound qq t0 s) :
    Sound qq t0 (parkEngine n t s) := by
  unfold parkEngine
  repeat' first
    | with_reducible intro _
    | with_reducible assumption
    | with_reducible apply parkAt_sound
    | with_reducible apply sound_foldl

theorem offAt_sound (c t : Nat) (s : State) (hs : Sound qq t0 s) :
    Sound qq t0 (offAt c t s) := by
  unfold offAt
  repeat' first
    | with_reducible intro _
    | with_reducible assumption
    | with_reducible apply modOut_sound
    | simp only [↓sound_mk_iff]
    | with_reducible apply sound_ite
    | (extract_lets x; first | (with_reducible refine sound_cut (s := x) ?_ ?_; (on_goal 2 => clear_value x); (on_goal 1 => unfold x)) | (subst x))
    | split

theorem undrop_sound (c h : Nat) (s : State) (hs : Sound qq t0 s) :
    Sound qq t0 (undrop c h s) := by
  unfold undrop
  repeat' first
    | with_reducible intro _
    | with_reducible assumption
    | with_reducible apply modOut_sound
    | simp only [↓sound_mk_iff]
    | with_reducible apply sound_foldl
    | with_reducible apply sound_foldl_snd
    | with_reducible apply sound_ite
    | (extract_lets x; first | (with_reducible refine sound_cut (s := x) ?_ ?_; (on_goal 2 => clear_value x); (on_goal 1 => unfold x)) | (subst x))
    | split

set_option Elab.async false in
theorem suppressFrom_sound (n h : Nat) (s : State) (hs : Sound qq t0 s) :
    Sound qq t0 (suppressFrom n h s) := by
  unfold suppressFrom
  repeat' first
    | with_reducible intro _
    | with_reducible assumption
    | with_reducible apply undrop_sound
    | with_reducible apply modOut_sound
    | simp only [↓sound_mk_iff]
    | with_reducible apply sound_foldl
    | with_reducible apply sound_foldl_snd
    | with_reducible apply sound_ite
    | (extract_lets x; first | (with_reducible refine sound_cut (s := x) ?_ ?_; (on_goal 2 => clear_value x); (on_goal 1 => unfold x)) | (subst x))
    | split

end Sys2Proof.Laws
end

