-- ==== Sys2Proof/Laws/SoundMirror.lean ====
section
/-! SUPPORT. What every operation of Machine/Mirror.lean keeps. -/
namespace Sys2Proof.Laws
open Sys2Proof Sys2Proof.Machine
set_option linter.unusedVariables false
set_option linter.unusedTactic false
set_option linter.unreachableTactic false

variable {qq : List Instr} {t0 : Nat}

theorem barrierLeft_sound (n at' : Nat) (s : State) (hs : Sound qq t0 s) :
    Sound qq t0 (barrierLeft n at' s) := by
  unfold barrierLeft
  repeat' first
    | with_reducible intro _
    | with_reducible assumption
    | with_reducible apply modVe_sound
    | simp only [↓sound_mk_iff]
    | with_reducible apply sound_ite
    | with_reducible apply sound_foldl
    | split

theorem disarmStarts_sound (s : State) (hs : Sound qq t0 s) :
    Sound qq t0 (disarmStarts s) := by
  unfold disarmStarts
  repeat' first
    | with_reducible intro _
    | with_reducible assumption
    | with_reducible apply barrierLeft_sound
    | with_reducible apply modVe_sound
    | with_reducible apply wr_sound
    | simp only [↓sound_mk_iff]
    | with_reducible apply sound_foldl
    | with_reducible apply sound_foldl_snd
    | with_reducible apply sound_ite
    | (extract_lets x; first | (with_reducible refine sound_cut (s := x) ?_ ?_; (on_goal 2 => clear_value x); (on_goal 1 => unfold x)) | (subst x))
    | split

theorem disarmTo_sound (c : Nat) (s : State) (hs : Sound qq t0 s) :
    Sound qq t0 (disarmTo c s) := by
  unfold disarmTo
  repeat' first
    | with_reducible intro _
    | with_reducible assumption
    | with_reducible apply restartLease_sound
    | with_reducible apply disarmStarts_sound
    | with_reducible apply wr_sound
    | with_reducible apply modMirror_sound
    | simp only [↓sound_mk_iff]

theorem reopen_sound (s : State) (hs : Sound qq t0 s) :
    Sound qq t0 (reopen s) := by
  unfold reopen
  repeat' first
    | with_reducible intro _
    | with_reducible assumption
    | with_reducible apply disarmTo_sound
    | with_reducible apply wr_sound
    | with_reducible apply raise_sound
    | with_reducible apply sound_ite
    | (extract_lets x; first | (with_reducible refine sound_cut (s := x) ?_ ?_; (on_goal 2 => clear_value x); (on_goal 1 => unfold x)) | (subst x))
    | split

theorem reopenIf_sound (c : Bool) (s : State) (hs : Sound qq t0 s) :
    Sound qq t0 (reopenIf c s) := by
  unfold reopenIf
  repeat' first
    | with_reducible intro _
    | with_reducible assumption
    | with_reducible apply reopen_sound
    | with_reducible apply sound_ite
    | split

theorem releaseMirror_sound (s : State) (hs : Sound qq t0 s) :
    Sound qq t0 (releaseMirror s) := by
  unfold releaseMirror
  repeat' first
    | with_reducible intro _
    | with_reducible assumption
    | with_reducible apply wr_sound
    | with_reducible apply modMirror_sound

set_option Elab.async false in
theorem engineChanged_sound (n : Nat) (s : State) (hs : Sound qq t0 s) :
    Sound qq t0 (engineChanged n s) := by
  unfold engineChanged
  repeat' first
    | with_reducible intro _
    | with_reducible assumption
    | with_reducible apply reopenIf_sound

end Sys2Proof.Laws
end

