-- ==== Sys2Proof/Laws/SoundVe.lean ====
section
/-! SUPPORT. What every operation of Machine/Ve.lean keeps. -/
namespace Sys2Proof.Laws
open Sys2Proof Sys2Proof.Machine
set_option linter.unusedVariables false
set_option linter.unusedTactic false
set_option linter.unreachableTactic false

variable {qq : List Instr} {t0 : Nat}

theorem veEnter_sound (n c : Nat) (s : State) (hs : Sound qq t0 s) :
    Sound qq t0 (veEnter n c s) := by
  unfold veEnter
  repeat' first
    | with_reducible intro _
    | with_reducible assumption
    | with_reducible apply engineChanged_sound
    | with_reducible apply wr_sound

theorem apgEmpty_sound (n : Nat) (s : State) (hs : Sound qq t0 s) :
    Sound qq t0 (apgEmpty n s) := by
  unfold apgEmpty
  repeat' first
    | with_reducible intro _
    | with_reducible assumption
    | with_reducible apply modVe_sound
    | with_reducible apply raiseAt_sound
    | with_reducible apply addTo_sound
    | simp only [↓sound_mk_iff]
    | with_reducible apply sound_ite
    | (extract_lets x; first | (with_reducible refine sound_cut (s := x) ?_ ?_; (on_goal 2 => clear_value x); (on_goal 1 => unfold x)) | (subst x))
    | split

theorem veArm_sound (n kind parkSet mode : Nat) (s : State) (hs : Sound qq t0 s) :
    Sound qq t0 (veArm n kind parkSet mode s) := by
  unfold veArm
  repeat' first
    | with_reducible intro _
    | with_reducible assumption
    | with_reducible apply apgEmpty_sound
    | with_reducible apply parkEngine_sound
    | with_reducible apply modVe_sound
    | with_reducible apply wr_sound
    | simp only [↓sound_mk_iff]
    | with_reducible apply sound_ite
    | (extract_lets x; first | (with_reducible refine sound_cut (s := x) ?_ ?_; (on_goal 2 => clear_value x); (on_goal 1 => unfold x)) | (subst x))
    | split

theorem barFail_sound (n t : Nat) (s : State) (hs : Sound qq t0 s) :
    Sound qq t0 (barFail n t s) := by
  unfold barFail
  repeat' first
    | with_reducible intro _
    | with_reducible assumption
    | with_reducible apply modVe_sound
    | simp only [↓sound_mk_iff]

theorem failNaming_sound (i j t : Nat) (s : State) (hs : Sound qq t0 s) :
    Sound qq t0 (failNaming i j t s) := by
  unfold failNaming
  repeat' first
    | with_reducible intro _
    | with_reducible assumption
    | with_reducible apply barFail_sound
    | with_reducible apply sound_ite
    | with_reducible apply sound_foldl
    | split

theorem regrid_sound (n t : Nat) (s : State) (hs : Sound qq t0 s) :
    Sound qq t0 (regrid n t s) := by
  unfold regrid
  repeat' first
    | with_reducible intro _
    | with_reducible assumption
    | with_reducible apply failNaming_sound
    | simp only [↓sound_mk_iff]
    | with_reducible apply sound_ite
    | with_reducible apply sound_foldl
    | (extract_lets x; first | (with_reducible refine sound_cut (s := x) ?_ ?_; (on_goal 2 => clear_value x); (on_goal 1 => unfold x)) | (subst x))
    | split

theorem siteNoted_sound (n t v : Nat) (s : State) (hs : Sound qq t0 s) :
    Sound qq t0 (siteNoted n t v s) := by
  unfold siteNoted
  repeat' first
    | with_reducible intro _
    | with_reducible assumption
    | with_reducible apply modVe_sound
    | simp only [↓sound_mk_iff]
    | with_reducible apply sound_ite
    | (extract_lets x; first | (with_reducible refine sound_cut (s := x) ?_ ?_; (on_goal 2 => clear_value x); (on_goal 1 => unfold x)) | (subst x))
    | split

theorem landTo_sound (n t b : Nat) (s : State) (hs : Sound qq t0 s) :
    Sound qq t0 (landTo n t b s) := by
  unfold landTo
  repeat' first
    | with_reducible intro _
    | with_reducible assumption
    | with_reducible apply siteNoted_sound
    | with_reducible apply regrid_sound
    | with_reducible apply closeMark_sound
    | with_reducible apply modVe_sound
    | with_reducible apply wr_sound
    | simp only [↓sound_mk_iff]
    | with_reducible apply sound_foldl
    | with_reducible apply sound_foldl_snd
    | with_reducible apply sound_ite
    | (extract_lets x; first | (with_reducible refine sound_cut (s := x) ?_ ?_; (on_goal 2 => clear_value x); (on_goal 1 => unfold x)) | (subst x))
    | split

theorem landAll_sound (n h : Nat) (s : State) (hs : Sound qq t0 s) :
    Sound qq t0 (landAll n h s) := by
  unfold landAll
  repeat' first
    | with_reducible intro _
    | with_reducible assumption
    | with_reducible apply landTo_sound
    | simp only [↓sound_mk_iff]
    | with_reducible apply sound_foldl
    | with_reducible apply sound_foldl_snd
    | with_reducible apply sound_ite
    | (extract_lets x; first | (with_reducible refine sound_cut (s := x) ?_ ?_; (on_goal 2 => clear_value x); (on_goal 1 => unfold x)) | (subst x))
    | split

theorem veStopAt_sound (n b c : Nat) (s : State) (hs : Sound qq t0 s) :
    Sound qq t0 (veStopAt n b c s) := by
  unfold veStopAt
  repeat' first
    | with_reducible intro _
    | with_reducible assumption
    | with_reducible apply landAll_sound
    | with_reducible apply veEnter_sound
    | with_reducible apply suppressFrom_sound
    | with_reducible apply offAt_sound
    | with_reducible apply parkEngine_sound
    | with_reducible apply closeMark_sound
    | with_reducible apply barrierLeft_sound
    | with_reducible apply modTgt_sound
    | with_reducible apply modVe_sound
    | with_reducible apply upto_sound
    | with_reducible apply setBit_sound
    | with_reducible apply wr_sound
    | simp only [↓sound_mk_iff]
    | with_reducible apply sound_ite
    | (extract_lets x; first | (with_reducible refine sound_cut (s := x) ?_ ?_; (on_goal 2 => clear_value x); (on_goal 1 => unfold x)) | (subst x))
    | split

theorem veFault_sound (n b cause addr : Nat) (s : State) (hs : Sound qq t0 s) :
    Sound qq t0 (veFault n b cause addr s) := by
  unfold veFault
  repeat' first
    | with_reducible intro _
    | with_reducible assumption
    | with_reducible apply veStopAt_sound
    | with_reducible apply wr_sound
    | with_reducible apply raise_sound

theorem learn_sound (n : Nat) (c : Cmp) (s : State) (hs : Sound qq t0 s) :
    Sound qq t0 (learn n c s) := by
  unfold learn
  repeat' first
    | with_reducible intro _
    | with_reducible assumption
    | with_reducible apply modVe_sound
    | with_reducible apply setBit_sound
    | simp only [↓sound_mk_iff]
    | with_reducible apply sound_ite
    | (extract_lets x; first | (with_reducible refine sound_cut (s := x) ?_ ?_; (on_goal 2 => clear_value x); (on_goal 1 => unfold x)) | (subst x))
    | split

theorem learnUpTo_sound (n b : Nat) (s : State) (hs : Sound qq t0 s) :
    Sound qq t0 (learnUpTo n b s) := by
  unfold learnUpTo
  repeat' first
    | with_reducible intro _
    | with_reducible assumption
    | with_reducible apply learn_sound
    | with_reducible apply modVe_sound
    | simp only [↓sound_mk_iff]
    | with_reducible apply sound_foldl
    | (extract_lets x; first | (with_reducible refine sound_cut (s := x) ?_ ?_; (on_goal 2 => clear_value x); (on_goal 1 => unfold x)) | (subst x))

theorem closeLoop_sound (n : Nat) (mto : Bool) (s : State) (hs : Sound qq t0 s) :
    Sound qq t0 (closeLoop n mto s) := by
  unfold closeLoop
  repeat' first
    | with_reducible intro _
    | with_reducible assumption
    | with_reducible apply modVe_sound
    | with_reducible apply setBit_sound
    | simp only [↓sound_mk_iff]

theorem decideMatch_sound (n c : Nat) (s : State) (hs : Sound qq t0 s) :
    Sound qq t0 (decideMatch n c s).1 := by
  unfold decideMatch
  repeat' first
    | with_reducible intro _
    | with_reducible assumption
    | with_reducible apply closeLoop_sound
    | with_reducible apply modVe_sound
    | simp only [↓sound_mk_iff]
    | with_reducible apply sound_ite
    | (extract_lets x; first | (with_reducible refine sound_cut (s := x) ?_ ?_; (on_goal 2 => clear_value x); (on_goal 1 => unfold x)) | (subst x))
    | split

theorem resolve_sound (n : Nat) (s : State) (hs : Sound qq t0 s) :
    Sound qq t0 (resolve n s).1 := by
  unfold resolve
  repeat' first
    | with_reducible intro _
    | with_reducible assumption
    | with_reducible apply decideMatch_sound
    | with_reducible apply sound_ite
    | split

theorem markUsed_sound (n a c : Nat) (s : State) (hs : Sound qq t0 s) :
    Sound qq t0 (markUsed n a c s) := by
  unfold markUsed
  repeat' first
    | with_reducible intro _
    | with_reducible assumption
    | with_reducible apply modVe_sound
    | simp only [↓sound_mk_iff]
    | with_reducible apply sound_ite
    | split

theorem decideNext_sound (n : Nat) (s : State) (hs : Sound qq t0 s) :
    Sound qq t0 (decideNext n s).1 := by
  unfold decideNext
  repeat' first
    | with_reducible intro _
    | with_reducible assumption
    | with_reducible apply learnUpTo_sound
    | with_reducible apply resolve_sound
    | with_reducible apply modVe_sound
    | simp only [↓sound_mk_iff]
    | with_reducible apply sound_ite
    | (extract_lets x; first | (with_reducible refine sound_cut (s := x) ?_ ?_; (on_goal 2 => clear_value x); (on_goal 1 => unfold x)) | (subst x))
    | split

theorem consume_sound (n b : Nat) (s : State) (hs : Sound qq t0 s) :
    Sound qq t0 (consume n b s) := by
  unfold consume
  repeat' first
    | with_reducible intro _
    | with_reducible assumption
    | with_reducible apply bump_sound
    | with_reducible apply modVe_sound
    | with_reducible apply setBit_sound
    | simp only [↓sound_mk_iff]
    | (extract_lets x; first | (with_reducible refine sound_cut (s := x) ?_ ?_; (on_goal 2 => clear_value x); (on_goal 1 => unfold x)) | (subst x))
    | split

theorem stepCount_sound (n next : Nat) (s : State) (hs : Sound qq t0 s) :
    Sound qq t0 (stepCount n next s) := by
  unfold stepCount
  repeat' first
    | with_reducible intro _
    | with_reducible assumption
    | with_reducible apply modVe_sound
    | with_reducible apply modTgt_sound
    | simp only [↓sound_mk_iff]
    | split

theorem issueCycle_sound (n b w a : Nat) (smp : Samples) (s : State) (hs : Sound qq t0 s) :
    Sound qq t0 (issueCycle n b w a smp s) := by
  unfold issueCycle
  repeat' first
    | with_reducible intro _
    | with_reducible assumption
    | with_reducible apply brkMatch_sound
    | with_reducible apply consume_sound
    | with_reducible apply strobeAll_sound
    | with_reducible apply driveOut_sound
    | with_reducible apply modFcp_sound
    | with_reducible apply modVe_sound
    | with_reducible apply wr_sound
    | with_reducible apply bump_sound
    | with_reducible apply stepCount_sound
    | with_reducible apply modTgt_sound
    | simp only [↓sound_mk_iff]
    | with_reducible apply sound_ite
    | with_reducible apply sound_foldl
    | (extract_lets x; first | (with_reducible refine sound_cut (s := x) ?_ ?_; (on_goal 2 => clear_value x); (on_goal 1 => unfold x)) | (subst x))
    | split

theorem wordCommand_sound (n opc : Nat) (smp : Samples) (act : Nat → Nat → Nat → Bool → State → State) (s : State) (hs : Sound qq t0 s) (hact : ∀ (y0 : Nat) (y1 : Nat) (y2 : Nat) (y3 : Bool) (y4 : State), Sound qq t0 y4 → Sound qq t0 (act y0 y1 y2 y3 y4)) :
    SoundOut qq t0 (wordCommand n opc smp act s) := by
  unfold wordCommand
  repeat' first
    | with_reducible intro _
    | with_reducible assumption
    | with_reducible apply hact
    | with_reducible apply issueCycle_sound
    | with_reducible apply decideNext_sound
    | with_reducible apply markUsed_sound
    | with_reducible apply veFault_sound
    | with_reducible apply modVe_sound
    | with_reducible apply upto_sound
    | with_reducible apply setBit_sound
    | simp only [↓sound_mk_iff]
    | with_reducible apply sound_ite
    | with_reducible apply soundOut_next
    | with_reducible apply soundOut_fault
    | with_reducible apply soundOut_ite
    | with_reducible apply unitCmd_sound
    | (extract_lets x; first | (with_reducible refine sound_cut (s := x) ?_ ?_; (on_goal 2 => clear_value x); (on_goal 1 => unfold x)) | (subst x))
    | split

theorem setAfter_sound (n : Nat) (x : After) (s : State) (hs : Sound qq t0 s) :
    Sound qq t0 (setAfter n x s) := by
  unfold setAfter
  repeat' first
    | with_reducible intro _
    | with_reducible assumption
    | with_reducible apply modVe_sound
    | simp only [↓sound_mk_iff]

theorem execVec_sound (n : Nat) (smp : Samples) (s : State) (hs : Sound qq t0 s) :
    SoundOut qq t0 (execVec n smp s) := by
  unfold execVec
  repeat' first
    | with_reducible intro _
    | with_reducible assumption
    | with_reducible apply wordCommand_sound
    | with_reducible apply soundOut_next
    | with_reducible apply soundOut_fault

theorem execRpt_sound (n : Nat) (smp : Samples) (s : State) (hs : Sound qq t0 s) :
    SoundOut qq t0 (execRpt n smp s) := by
  unfold execRpt
  repeat' first
    | with_reducible intro _
    | with_reducible assumption
    | with_reducible apply wordCommand_sound
    | with_reducible apply modVe_sound
    | with_reducible apply soundOut_next
    | with_reducible apply soundOut_fault
    | with_reducible apply soundOut_ite
    | simp only [↓sound_mk_iff]
    | with_reducible apply sound_ite
    | split

theorem execVeLdc_sound (n : Nat) (smp : Samples) (s : State) (hs : Sound qq t0 s) :
    SoundOut qq t0 (execVeLdc n smp s) := by
  unfold execVeLdc
  repeat' first
    | with_reducible intro _
    | with_reducible assumption
    | with_reducible apply wordCommand_sound
    | with_reducible apply wr_sound
    | with_reducible apply soundOut_next
    | with_reducible apply soundOut_fault

theorem execLoop_sound (n : Nat) (smp : Samples) (s : State) (hs : Sound qq t0 s) :
    SoundOut qq t0 (execLoop n smp s) := by
  unfold execLoop
  repeat' first
    | with_reducible intro _
    | with_reducible assumption
    | with_reducible apply wordCommand_sound
    | with_reducible apply setAfter_sound
    | with_reducible apply wr_sound
    | with_reducible apply soundOut_next
    | with_reducible apply soundOut_fault
    | with_reducible apply soundOut_ite
    | with_reducible apply sound_ite
    | (extract_lets x; first | (with_reducible refine sound_cut (s := x) ?_ ?_; (on_goal 2 => clear_value x); (on_goal 1 => unfold x)) | (subst x))
    | split

theorem execVeJmp_sound (n : Nat) (smp : Samples) (s : State) (hs : Sound qq t0 s) :
    SoundOut qq t0 (execVeJmp n smp s) := by
  unfold execVeJmp
  repeat' first
    | with_reducible intro _
    | with_reducible assumption
    | with_reducible apply wordCommand_sound
    | with_reducible apply setAfter_sound
    | with_reducible apply soundOut_next
    | with_reducible apply soundOut_fault

theorem execCall_sound (n : Nat) (smp : Samples) (s : State) (hs : Sound qq t0 s) :
    SoundOut qq t0 (execCall n smp s) := by
  unfold execCall
  repeat' first
    | with_reducible intro _
    | with_reducible assumption
    | with_reducible apply wordCommand_sound
    | with_reducible apply setAfter_sound
    | with_reducible apply modVe_sound
    | with_reducible apply soundOut_next
    | with_reducible apply soundOut_fault
    | simp only [↓sound_mk_iff]

theorem execRet_sound (n : Nat) (smp : Samples) (s : State) (hs : Sound qq t0 s) :
    SoundOut qq t0 (execRet n smp s) := by
  unfold execRet
  repeat' first
    | with_reducible intro _
    | with_reducible assumption
    | with_reducible apply wordCommand_sound
    | with_reducible apply setAfter_sound
    | with_reducible apply modVe_sound
    | with_reducible apply soundOut_next
    | with_reducible apply soundOut_fault
    | simp only [↓sound_mk_iff]

theorem execJc_sound (n : Nat) (smp : Samples) (s : State) (hs : Sound qq t0 s) :
    SoundOut qq t0 (execJc n smp s) := by
  unfold execJc
  repeat' first
    | with_reducible intro _
    | with_reducible assumption
    | with_reducible apply wordCommand_sound
    | with_reducible apply setAfter_sound
    | with_reducible apply soundOut_next
    | with_reducible apply soundOut_fault

theorem execClrf_sound (n : Nat) (smp : Samples) (s : State) (hs : Sound qq t0 s) :
    SoundOut qq t0 (execClrf n smp s) := by
  unfold execClrf
  repeat' first
    | with_reducible intro _
    | with_reducible assumption
    | with_reducible apply wordCommand_sound
    | with_reducible apply soundOut_next
    | with_reducible apply soundOut_fault

theorem execMbeg_sound (n : Nat) (smp : Samples) (s : State) (hs : Sound qq t0 s) :
    SoundOut qq t0 (execMbeg n smp s) := by
  unfold execMbeg
  repeat' first
    | with_reducible intro _
    | with_reducible assumption
    | with_reducible apply wordCommand_sound
    | with_reducible apply modVe_sound
    | with_reducible apply setBit_sound
    | with_reducible apply soundOut_next
    | with_reducible apply soundOut_fault
    | with_reducible apply soundOut_ite
    | simp only [↓sound_mk_iff]
    | with_reducible apply sound_ite
    | split

theorem execMatchEnd_sound (n : Nat) (smp : Samples) (s : State) (hs : Sound qq t0 s) :
    SoundOut qq t0 (execMatchEnd n smp s) := by
  unfold execMatchEnd
  repeat' first
    | with_reducible intro _
    | with_reducible assumption
    | with_reducible apply wordCommand_sound
    | with_reducible apply setAfter_sound
    | with_reducible apply soundOut_next
    | with_reducible apply soundOut_fault

theorem arrive_sound (n mask t : Nat) (s : State) (hs : Sound qq t0 s) :
    Sound qq t0 (arrive n mask t s) := by
  unfold arrive
  repeat' first
    | with_reducible intro _
    | with_reducible assumption
    | with_reducible apply failNaming_sound
    | with_reducible apply barFail_sound
    | simp only [↓sound_mk_iff]
    | with_reducible apply sound_foldl
    | with_reducible apply sound_foldl_snd
    | with_reducible apply sound_ite
    | (extract_lets x; first | (with_reducible refine sound_cut (s := x) ?_ ?_; (on_goal 2 => clear_value x); (on_goal 1 => unfold x)) | (subst x))
    | split

theorem execBar_sound (n : Nat) (smp : Samples) (s : State) (hs : Sound qq t0 s) :
    SoundOut qq t0 (execBar n smp s) := by
  unfold execBar
  repeat' first
    | with_reducible intro _
    | with_reducible assumption
    | with_reducible apply wordCommand_sound
    | with_reducible apply arrive_sound
    | with_reducible apply modVe_sound
    | with_reducible apply setBit_sound
    | with_reducible apply soundOut_next
    | with_reducible apply soundOut_fault
    | with_reducible apply soundOut_ite
    | simp only [↓sound_mk_iff]
    | with_reducible apply sound_ite
    | (extract_lets x; first | (with_reducible refine sound_cut (s := x) ?_ ?_; (on_goal 2 => clear_value x); (on_goal 1 => unfold x)) | (subst x))
    | split

theorem settleEvts_sound (n : Nat) (s : State) (hs : Sound qq t0 s) :
    Sound qq t0 (settleEvts n s) := by
  unfold settleEvts
  repeat' first
    | with_reducible intro _
    | with_reducible assumption
    | with_reducible apply modVe_sound
    | with_reducible apply wr_sound
    | simp only [↓sound_mk_iff]
    | with_reducible apply sound_ite
    | (extract_lets x; first | (with_reducible refine sound_cut (s := x) ?_ ?_; (on_goal 2 => clear_value x); (on_goal 1 => unfold x)) | (subst x))
    | split

theorem execVeEvt_sound (n : Nat) (smp : Samples) (s : State) (hs : Sound qq t0 s) :
    SoundOut qq t0 (execVeEvt n smp s) := by
  unfold execVeEvt
  repeat' first
    | with_reducible intro _
    | with_reducible assumption
    | with_reducible apply settleEvts_sound
    | with_reducible apply wordCommand_sound
    | with_reducible apply modVe_sound
    | with_reducible apply raiseAt_sound
    | simp only [↓sound_mk_iff]
    | with_reducible apply sound_ite
    | with_reducible apply soundOut_next
    | with_reducible apply soundOut_fault
    | with_reducible apply soundOut_ite
    | with_reducible apply unitCmd_sound
    | (extract_lets x; first | (with_reducible refine sound_cut (s := x) ?_ ?_; (on_goal 2 => clear_value x); (on_goal 1 => unfold x)) | (subst x))
    | split

theorem execVeHaltWord_sound (n : Nat) (smp : Samples) (s : State) (hs : Sound qq t0 s) :
    SoundOut qq t0 (execVeHaltWord n smp s) := by
  unfold execVeHaltWord
  repeat' first
    | with_reducible intro _
    | with_reducible assumption
    | with_reducible apply unitCmd_sound
    | with_reducible apply veStopAt_sound
    | with_reducible apply raise_sound
    | with_reducible apply wordCommand_sound
    | with_reducible apply modVe_sound
    | with_reducible apply soundOut_next
    | with_reducible apply soundOut_fault
    | simp only [↓sound_mk_iff]
    | split

theorem execBarrierRelease_sound (mask : Nat) (s : State) (hs : Sound qq t0 s) :
    SoundOut qq t0 (execBarrierRelease mask s) := by
  unfold execBarrierRelease
  repeat' first
    | with_reducible intro _
    | with_reducible assumption
    | with_reducible apply modVe_sound
    | with_reducible apply setBit_sound
    | with_reducible apply soundOut_next
    | with_reducible apply soundOut_fault
    | with_reducible apply soundOut_ite
    | simp only [↓sound_mk_iff]
    | with_reducible apply sound_ite
    | with_reducible apply sound_foldl
    | split

theorem faultAt_sound (n b : Nat) (s : State) (hs : Sound qq t0 s) :
    Sound qq t0 (faultAt n b s).1 := by
  unfold faultAt
  repeat' first
    | with_reducible intro _
    | with_reducible assumption
    | with_reducible apply decideNext_sound
    | with_reducible apply upto_sound
    | (extract_lets x; first | (with_reducible refine sound_cut (s := x) ?_ ?_; (on_goal 2 => clear_value x); (on_goal 1 => unfold x)) | (subst x))
    | split

theorem execBarrierError_sound (n : Nat) (s : State) (hs : Sound qq t0 s) :
    SoundOut qq t0 (execBarrierError n s) := by
  unfold execBarrierError
  repeat' first
    | with_reducible intro _
    | with_reducible assumption
    | with_reducible apply faultAt_sound
    | with_reducible apply veFault_sound
    | simp only [↓sound_mk_iff]
    | with_reducible apply sound_ite
    | with_reducible apply soundOut_next
    | with_reducible apply soundOut_fault
    | with_reducible apply soundOut_ite
    | with_reducible apply unitCmd_sound
    | (extract_lets x; first | (with_reducible refine sound_cut (s := x) ?_ ?_; (on_goal 2 => clear_value x); (on_goal 1 => unfold x)) | (subst x))
    | split

theorem execPatternTimeout_sound (n : Nat) (s : State) (hs : Sound qq t0 s) :
    SoundOut qq t0 (execPatternTimeout n s) := by
  unfold execPatternTimeout
  repeat' first
    | with_reducible intro _
    | with_reducible assumption
    | with_reducible apply faultAt_sound
    | with_reducible apply veFault_sound
    | simp only [↓sound_mk_iff]
    | with_reducible apply sound_ite
    | with_reducible apply soundOut_next
    | with_reducible apply soundOut_fault
    | with_reducible apply soundOut_ite
    | with_reducible apply unitCmd_sound
    | (extract_lets x; first | (with_reducible refine sound_cut (s := x) ?_ ?_; (on_goal 2 => clear_value x); (on_goal 1 => unfold x)) | (subst x))
    | split

theorem execVeHaltTakesEffect_sound (n : Nat) (s : State) (hs : Sound qq t0 s) :
    SoundOut qq t0 (execVeHaltTakesEffect n s) := by
  unfold execVeHaltTakesEffect
  apply unitCmd_sound
  extract_lets b
  split
  · split
    · rename_i r c a he
      exact veFault_sound n b c a r (by have := faultAt_sound n b s hs; rw [he] at this; exact this)
    · split
      · exact raise_sound _ _ (veStopAt_sound n b 5 s hs)
      · have hu : Sound qq t0 ((veStopAt n b 4 s).raise (65 + 2 * n)) := raise_sound _ _ (veStopAt_sound n b 4 s hs)
        exact sound_ite (flag_sound _ _ _ _ (modTgt_sound _ _ _ hu)) hu
  · exact hs

theorem execVeStopTakesEffect_sound (n : Nat) (s : State) (hs : Sound qq t0 s) :
    SoundOut qq t0 (execVeStopTakesEffect n s) := by
  unfold execVeStopTakesEffect
  apply unitCmd_sound
  split
  · exact hs
  · rename_i th _
    split
    · extract_lets b
      split
      · split
        · rename_i r c a he
          exact veFault_sound n b c a r (by have := faultAt_sound n b s hs; rw [he] at this; exact this)
        · exact raise_sound _ _ (veStopAt_sound n b 5 s hs)
      · exact hs
    · exact sound_ite (raise_sound _ _ (veStopAt_sound n _ 5 s hs)) hs

theorem execVeResumeLands_sound (n : Nat) (s : State) (hs : Sound qq t0 s) :
    SoundOut qq t0 (execVeResumeLands n s) := by
  unfold execVeResumeLands
  repeat' first
    | with_reducible intro _
    | with_reducible assumption
    | with_reducible apply arrive_sound
    | with_reducible apply veEnter_sound
    | with_reducible apply modVe_sound
    | with_reducible apply upto_sound
    | simp only [↓sound_mk_iff]
    | with_reducible apply sound_ite
    | with_reducible apply soundOut_next
    | with_reducible apply soundOut_fault
    | with_reducible apply soundOut_ite
    | with_reducible apply unitCmd_sound
    | (extract_lets x; first | (with_reducible refine sound_cut (s := x) ?_ ?_; (on_goal 2 => clear_value x); (on_goal 1 => unfold x)) | (subst x))
    | split

theorem execApplyLandsRunning_sound (n : Nat) (s : State) (hs : Sound qq t0 s) :
    SoundOut qq t0 (execApplyLandsRunning n s) := by
  unfold execApplyLandsRunning
  repeat' first
    | with_reducible intro _
    | with_reducible assumption
    | with_reducible apply landTo_sound
    | with_reducible apply upto_sound
    | simp only [↓sound_mk_iff]
    | with_reducible apply sound_ite
    | with_reducible apply soundOut_next
    | with_reducible apply soundOut_fault
    | with_reducible apply soundOut_ite
    | with_reducible apply unitCmd_sound
    | (extract_lets x; first | (with_reducible refine sound_cut (s := x) ?_ ?_; (on_goal 2 => clear_value x); (on_goal 1 => unfold x)) | (subst x))
    | split

theorem veEnableEff_sound (n : Nat) (s : State) (hs : Sound qq t0 s) :
    Sound qq t0 (veEnableEff n s) := by
  unfold veEnableEff
  repeat' first
    | with_reducible intro _
    | with_reducible assumption
    | with_reducible apply veEnter_sound
    | with_reducible apply parkEngine_sound
    | with_reducible apply modVe_sound
    | simp only [↓sound_mk_iff]

theorem veDisableEff_sound (n : Nat) (s : State) (hs : Sound qq t0 s) :
    Sound qq t0 (veDisableEff n s) := by
  unfold veDisableEff
  repeat' first
    | with_reducible intro _
    | with_reducible assumption
    | with_reducible apply barrierLeft_sound
    | with_reducible apply veEnter_sound
    | with_reducible apply offAt_sound
    | with_reducible apply sound_foldl

theorem schedFree_sound (dsp : Bool) (n : Nat) (s : State) (hs : Sound qq t0 s) :
    Sound qq t0 (schedFree dsp n s) := by
  unfold schedFree
  repeat' first
    | with_reducible intro _
    | with_reducible assumption
    | simp only [↓sound_mk_iff]

theorem veStartEff_sound (n : Nat) (s : State) (hs : Sound qq t0 s) :
    Sound qq t0 (veStartEff n s) := by
  unfold veStartEff
  repeat' first
    | with_reducible intro _
    | with_reducible assumption
    | with_reducible apply engineChanged_sound
    | with_reducible apply veArm_sound

theorem veStartAtEff_sound (n : Nat) (s : State) (hs : Sound qq t0 s) :
    Sound qq t0 (veStartAtEff n s) := by
  unfold veStartAtEff
  repeat' first
    | with_reducible intro _
    | with_reducible assumption
    | with_reducible apply veArm_sound
    | with_reducible apply engineChanged_sound
    | with_reducible apply setBit_sound
    | simp only [↓sound_mk_iff]
    | (extract_lets x; first | (with_reducible refine sound_cut (s := x) ?_ ?_; (on_goal 2 => clear_value x); (on_goal 1 => unfold x)) | (subst x))

theorem veHaltEff_sound (n : Nat) (s : State) (hs : Sound qq t0 s) :
    Sound qq t0 (veHaltEff n s) := by
  unfold veHaltEff
  repeat' first
    | with_reducible intro _
    | with_reducible assumption
    | with_reducible apply modVe_sound
    | simp only [↓sound_mk_iff]

theorem veGoOn_sound (n : Nat) (s : State) (hs : Sound qq t0 s) :
    Sound qq t0 (veGoOn n s) := by
  unfold veGoOn
  repeat' first
    | with_reducible intro _
    | with_reducible assumption
    | with_reducible apply modVe_sound
    | simp only [↓sound_mk_iff]
    | with_reducible apply sound_ite
    | (extract_lets x; first | (with_reducible refine sound_cut (s := x) ?_ ?_; (on_goal 2 => clear_value x); (on_goal 1 => unfold x)) | (subst x))
    | split

theorem veResumeEff_sound (n : Nat) (s : State) (hs : Sound qq t0 s) :
    Sound qq t0 (veResumeEff n s) := by
  unfold veResumeEff
  repeat' first
    | with_reducible intro _
    | with_reducible assumption
    | with_reducible apply veGoOn_sound
    | with_reducible apply modTgt_sound
    | simp only [↓sound_mk_iff]
    | with_reducible apply sound_ite
    | (extract_lets x; first | (with_reducible refine sound_cut (s := x) ?_ ?_; (on_goal 2 => clear_value x); (on_goal 1 => unfold x)) | (subst x))
    | split

theorem veStopEff_sound (n : Nat) (s : State) (hs : Sound qq t0 s) :
    Sound qq t0 (veStopEff n s) := by
  unfold veStopEff
  repeat' first
    | with_reducible intro _
    | with_reducible assumption
    | with_reducible apply schedFree_sound
    | with_reducible apply veEnter_sound
    | with_reducible apply offAt_sound
    | with_reducible apply barrierLeft_sound
    | with_reducible apply modVe_sound
    | with_reducible apply setBit_sound
    | simp only [↓sound_mk_iff]
    | with_reducible apply sound_ite
    | (extract_lets x; first | (with_reducible refine sound_cut (s := x) ?_ ?_; (on_goal 2 => clear_value x); (on_goal 1 => unfold x)) | (subst x))
    | split

theorem veClearFaultEff_sound (n : Nat) (s : State) (hs : Sound qq t0 s) :
    Sound qq t0 (veClearFaultEff n s) := by
  unfold veClearFaultEff
  repeat' first
    | with_reducible intro _
    | with_reducible assumption
    | with_reducible apply veEnter_sound

theorem veSelfcheckEff_sound (n : Nat) (s : State) (hs : Sound qq t0 s) :
    Sound qq t0 (veSelfcheckEff n s) := by
  unfold veSelfcheckEff
  repeat' first
    | with_reducible intro _
    | with_reducible assumption
    | with_reducible apply veEnter_sound
    | with_reducible apply modVe_sound
    | simp only [↓sound_mk_iff]

theorem execVeEnable_sound (q : Req) (n : Nat) (s : State) (hs : Sound qq t0 s) :
    SoundOut qq t0 (execVeEnable q n s) := by
  unfold execVeEnable
  repeat' first
    | with_reducible intro _
    | with_reducible assumption
    | with_reducible apply unitCmd_sound
    | with_reducible apply command_sound
    | with_reducible apply veEnableEff_sound
    | with_reducible apply soundOut_next
    | with_reducible apply soundOut_fault

theorem execVeDisable_sound (q : Req) (n : Nat) (s : State) (hs : Sound qq t0 s) :
    SoundOut qq t0 (execVeDisable q n s) := by
  unfold execVeDisable
  repeat' first
    | with_reducible intro _
    | with_reducible assumption
    | with_reducible apply unitCmd_sound
    | with_reducible apply command_sound
    | with_reducible apply veDisableEff_sound
    | with_reducible apply soundOut_next
    | with_reducible apply soundOut_fault

theorem execVeStart_sound (q : Req) (n : Nat) (s : State) (hs : Sound qq t0 s) :
    SoundOut qq t0 (execVeStart q n s) := by
  unfold execVeStart
  repeat' first
    | with_reducible intro _
    | with_reducible assumption
    | with_reducible apply unitCmd_sound
    | with_reducible apply command_sound
    | with_reducible apply veStartEff_sound
    | with_reducible apply soundOut_next
    | with_reducible apply soundOut_fault

theorem execVeStartAt_sound (q : Req) (n : Nat) (s : State) (hs : Sound qq t0 s) :
    SoundOut qq t0 (execVeStartAt q n s) := by
  unfold execVeStartAt
  repeat' first
    | with_reducible intro _
    | with_reducible assumption
    | with_reducible apply unitCmd_sound
    | with_reducible apply command_sound
    | with_reducible apply veStartAtEff_sound
    | with_reducible apply soundOut_next
    | with_reducible apply soundOut_fault

theorem execVeHalt_sound (q : Req) (n : Nat) (s : State) (hs : Sound qq t0 s) :
    SoundOut qq t0 (execVeHalt q n s) := by
  unfold execVeHalt
  repeat' first
    | with_reducible intro _
    | with_reducible assumption
    | with_reducible apply unitCmd_sound
    | with_reducible apply command_sound
    | with_reducible apply veHaltEff_sound
    | with_reducible apply soundOut_next
    | with_reducible apply soundOut_fault

theorem execVeResume_sound (q : Req) (n : Nat) (s : State) (hs : Sound qq t0 s) :
    SoundOut qq t0 (execVeResume q n s) := by
  unfold execVeResume
  repeat' first
    | with_reducible intro _
    | with_reducible assumption
    | with_reducible apply unitCmd_sound
    | with_reducible apply command_sound
    | with_reducible apply veResumeEff_sound
    | with_reducible apply soundOut_next
    | with_reducible apply soundOut_fault

theorem execVeStop_sound (q : Req) (n : Nat) (s : State) (hs : Sound qq t0 s) :
    SoundOut qq t0 (execVeStop q n s) := by
  unfold execVeStop
  repeat' first
    | with_reducible intro _
    | with_reducible assumption
    | with_reducible apply unitCmd_sound
    | with_reducible apply command_sound
    | with_reducible apply veStopEff_sound
    | with_reducible apply soundOut_next
    | with_reducible apply soundOut_fault

theorem execVeClearFault_sound (q : Req) (n : Nat) (s : State) (hs : Sound qq t0 s) :
    SoundOut qq t0 (execVeClearFault q n s) := by
  unfold execVeClearFault
  repeat' first
    | with_reducible intro _
    | with_reducible assumption
    | with_reducible apply unitCmd_sound
    | with_reducible apply command_sound
    | with_reducible apply veClearFaultEff_sound
    | with_reducible apply soundOut_next
    | with_reducible apply soundOut_fault

theorem execVeSelfcheck_sound (q : Req) (n : Nat) (s : State) (hs : Sound qq t0 s) :
    SoundOut qq t0 (execVeSelfcheck q n s) := by
  unfold execVeSelfcheck
  repeat' first
    | with_reducible intro _
    | with_reducible assumption
    | with_reducible apply unitCmd_sound
    | with_reducible apply command_sound
    | with_reducible apply veSelfcheckEff_sound
    | with_reducible apply soundOut_next
    | with_reducible apply soundOut_fault

theorem execVeSelfcheckEnd_sound (n : Nat) (pass : Bool) (s : State) (hs : Sound qq t0 s) :
    SoundOut qq t0 (execVeSelfcheckEnd n pass s) := by
  unfold execVeSelfcheckEnd
  repeat' first
    | with_reducible intro _
    | with_reducible assumption
    | with_reducible apply unitCmd_sound
    | with_reducible apply veEnter_sound
    | with_reducible apply wr_sound
    | with_reducible apply raise_sound
    | with_reducible apply soundOut_next
    | with_reducible apply soundOut_fault
    | with_reducible apply soundOut_ite
    | with_reducible apply sound_ite
    | split

theorem execLineReadIssue_sound (n : Nat) (s : State) (hs : Sound qq t0 s) :
    SoundOut qq t0 (execLineReadIssue n s) := by
  unfold execLineReadIssue
  repeat' first
    | with_reducible intro _
    | with_reducible assumption
    | with_reducible apply meshSend_sound
    | with_reducible apply modVe_sound
    | with_reducible apply bump_sound
    | simp only [↓sound_mk_iff]
    | with_reducible apply sound_ite
    | with_reducible apply soundOut_next
    | with_reducible apply soundOut_fault
    | with_reducible apply soundOut_ite
    | with_reducible apply unitCmd_sound
    | (extract_lets x; first | (with_reducible refine sound_cut (s := x) ?_ ?_; (on_goal 2 => clear_value x); (on_goal 1 => unfold x)) | (subst x))
    | split

theorem lineDone_sound (n line : Nat) (x : MeshResp) (s : State) (hs : Sound qq t0 s) : Sound qq t0 (lineDone n line x s) := by
  unfold lineDone
  extract_lets u slot v w
  have hu : Sound qq t0 u := bump_sound _ _ _ (respTaken_sound x s hs)
  have hm : Sound qq t0 (u.store (bufAddr n + 256 * slot) 256 x.data) := store_sound _ _ _ _ hu
  have hv : Sound qq t0 v := by
    show Sound qq t0 (if x.kind = 0 then u.store (bufAddr n + 256 * slot) 256 x.data else u)
    exact sound_ite hm hu
  have hw : Sound qq t0 w := modVe_sound _ _ _ hv
  exact sound_ite (modVe_sound _ _ _ hu) (sound_ite (modVe_sound _ _ _ hw) hw)

theorem veBegin_sound (n edge : Nat) (s : State) (hs : Sound qq t0 s) :
    Sound qq t0 (veBegin n edge s) := by
  unfold veBegin
  repeat' first
    | with_reducible intro _
    | with_reducible assumption
    | with_reducible apply regrid_sound
    | with_reducible apply veEnter_sound
    | with_reducible apply modFcp_sound
    | with_reducible apply modVe_sound
    | with_reducible apply upto_sound
    | with_reducible apply raise_sound
    | with_reducible apply wr_sound
    | simp only [↓sound_mk_iff]
    | with_reducible apply sound_foldl
    | with_reducible apply sound_foldl_snd
    | with_reducible apply sound_ite
    | (extract_lets x; first | (with_reducible refine sound_cut (s := x) ?_ ?_; (on_goal 2 => clear_value x); (on_goal 1 => unfold x)) | (subst x))
    | split

set_option Elab.async false in
theorem execVeStartEdge_sound (n : Nat) (s : State) (hs : Sound qq t0 s) :
    SoundOut qq t0 (execVeStartEdge n s) := by
  unfold execVeStartEdge
  repeat' first
    | with_reducible intro _
    | with_reducible assumption
    | with_reducible apply unitCmd_sound
    | with_reducible apply veBegin_sound
    | with_reducible apply soundOut_next
    | with_reducible apply soundOut_fault
    | with_reducible apply soundOut_ite
    | with_reducible apply sound_ite
    | split

end Sys2Proof.Laws
end

