-- ==== Sys2Proof/Laws/SoundFab.lean ====
section
/-! SUPPORT. What every operation of Machine/Fab.lean keeps. -/
namespace Sys2Proof.Laws
open Sys2Proof Sys2Proof.Machine
set_option linter.unusedVariables false
set_option linter.unusedTactic false
set_option linter.unreachableTactic false

variable {qq : List Instr} {t0 : Nat}

theorem cellCommand_sound (col row lo hi : Nat) (s : State) (hs : Sound qq t0 s) :
    SoundOut qq t0 (cellCommand col row lo hi s) := by
  unfold cellCommand
  repeat' first
    | with_reducible intro _
    | with_reducible assumption
    | with_reducible apply drawn_sound
    | with_reducible apply upto_sound
    | simp only [↓sound_mk_iff]
    | with_reducible apply sound_ite
    | with_reducible apply soundOut_next
    | with_reducible apply soundOut_fault
    | with_reducible apply soundOut_ite
    | with_reducible apply unitCmd_sound
    | (extract_lets x; first | (with_reducible refine sound_cut (s := x) ?_ ?_; (on_goal 2 => clear_value x); (on_goal 1 => unfold x)) | (subst x))
    | split

theorem execCellPass_sound (col row : Nat) (s : State) (hs : Sound qq t0 s) :
    SoundOut qq t0 (execCellPass col row s) := by
  unfold execCellPass
  repeat' first
    | with_reducible intro _
    | with_reducible assumption
    | with_reducible apply cellCommand_sound
    | with_reducible apply soundOut_next
    | with_reducible apply soundOut_fault

theorem execCellAdd_sound (col row : Nat) (s : State) (hs : Sound qq t0 s) :
    SoundOut qq t0 (execCellAdd col row s) := by
  unfold execCellAdd
  repeat' first
    | with_reducible intro _
    | with_reducible assumption
    | with_reducible apply cellCommand_sound
    | with_reducible apply soundOut_next
    | with_reducible apply soundOut_fault

theorem execCellSub_sound (col row : Nat) (s : State) (hs : Sound qq t0 s) :
    SoundOut qq t0 (execCellSub col row s) := by
  unfold execCellSub
  repeat' first
    | with_reducible intro _
    | with_reducible assumption
    | with_reducible apply cellCommand_sound
    | with_reducible apply soundOut_next
    | with_reducible apply soundOut_fault

theorem execCellAnd_sound (col row : Nat) (s : State) (hs : Sound qq t0 s) :
    SoundOut qq t0 (execCellAnd col row s) := by
  unfold execCellAnd
  repeat' first
    | with_reducible intro _
    | with_reducible assumption
    | with_reducible apply cellCommand_sound
    | with_reducible apply soundOut_next
    | with_reducible apply soundOut_fault

theorem execCellOr_sound (col row : Nat) (s : State) (hs : Sound qq t0 s) :
    SoundOut qq t0 (execCellOr col row s) := by
  unfold execCellOr
  repeat' first
    | with_reducible intro _
    | with_reducible assumption
    | with_reducible apply cellCommand_sound
    | with_reducible apply soundOut_next
    | with_reducible apply soundOut_fault

theorem execCellXor_sound (col row : Nat) (s : State) (hs : Sound qq t0 s) :
    SoundOut qq t0 (execCellXor col row s) := by
  unfold execCellXor
  repeat' first
    | with_reducible intro _
    | with_reducible assumption
    | with_reducible apply cellCommand_sound
    | with_reducible apply soundOut_next
    | with_reducible apply soundOut_fault

theorem execCellAndn_sound (col row : Nat) (s : State) (hs : Sound qq t0 s) :
    SoundOut qq t0 (execCellAndn col row s) := by
  unfold execCellAndn
  repeat' first
    | with_reducible intro _
    | with_reducible assumption
    | with_reducible apply cellCommand_sound
    | with_reducible apply soundOut_next
    | with_reducible apply soundOut_fault

theorem execCellNot_sound (col row : Nat) (s : State) (hs : Sound qq t0 s) :
    SoundOut qq t0 (execCellNot col row s) := by
  unfold execCellNot
  repeat' first
    | with_reducible intro _
    | with_reducible assumption
    | with_reducible apply cellCommand_sound
    | with_reducible apply soundOut_next
    | with_reducible apply soundOut_fault

theorem execCellShl1_sound (col row : Nat) (s : State) (hs : Sound qq t0 s) :
    SoundOut qq t0 (execCellShl1 col row s) := by
  unfold execCellShl1
  repeat' first
    | with_reducible intro _
    | with_reducible assumption
    | with_reducible apply cellCommand_sound
    | with_reducible apply soundOut_next
    | with_reducible apply soundOut_fault

theorem execCellShl_sound (col row : Nat) (s : State) (hs : Sound qq t0 s) :
    SoundOut qq t0 (execCellShl col row s) := by
  unfold execCellShl
  repeat' first
    | with_reducible intro _
    | with_reducible assumption
    | with_reducible apply cellCommand_sound
    | with_reducible apply soundOut_next
    | with_reducible apply soundOut_fault

theorem execCellShr_sound (col row : Nat) (s : State) (hs : Sound qq t0 s) :
    SoundOut qq t0 (execCellShr col row s) := by
  unfold execCellShr
  repeat' first
    | with_reducible intro _
    | with_reducible assumption
    | with_reducible apply cellCommand_sound
    | with_reducible apply soundOut_next
    | with_reducible apply soundOut_fault

theorem execCellRol_sound (col row : Nat) (s : State) (hs : Sound qq t0 s) :
    SoundOut qq t0 (execCellRol col row s) := by
  unfold execCellRol
  repeat' first
    | with_reducible intro _
    | with_reducible assumption
    | with_reducible apply cellCommand_sound
    | with_reducible apply soundOut_next
    | with_reducible apply soundOut_fault

theorem execCellBrev_sound (col row : Nat) (s : State) (hs : Sound qq t0 s) :
    SoundOut qq t0 (execCellBrev col row s) := by
  unfold execCellBrev
  repeat' first
    | with_reducible intro _
    | with_reducible assumption
    | with_reducible apply cellCommand_sound
    | with_reducible apply soundOut_next
    | with_reducible apply soundOut_fault

theorem execCellBsel_sound (col row : Nat) (s : State) (hs : Sound qq t0 s) :
    SoundOut qq t0 (execCellBsel col row s) := by
  unfold execCellBsel
  repeat' first
    | with_reducible intro _
    | with_reducible assumption
    | with_reducible apply cellCommand_sound
    | with_reducible apply soundOut_next
    | with_reducible apply soundOut_fault

theorem execCellEq_sound (col row : Nat) (s : State) (hs : Sound qq t0 s) :
    SoundOut qq t0 (execCellEq col row s) := by
  unfold execCellEq
  repeat' first
    | with_reducible intro _
    | with_reducible assumption
    | with_reducible apply cellCommand_sound
    | with_reducible apply soundOut_next
    | with_reducible apply soundOut_fault

theorem execCellPar_sound (col row : Nat) (s : State) (hs : Sound qq t0 s) :
    SoundOut qq t0 (execCellPar col row s) := by
  unfold execCellPar
  repeat' first
    | with_reducible intro _
    | with_reducible assumption
    | with_reducible apply cellCommand_sound
    | with_reducible apply soundOut_next
    | with_reducible apply soundOut_fault

theorem execCellCntk_sound (col row : Nat) (s : State) (hs : Sound qq t0 s) :
    SoundOut qq t0 (execCellCntk col row s) := by
  unfold execCellCntk
  repeat' first
    | with_reducible intro _
    | with_reducible assumption
    | with_reducible apply cellCommand_sound
    | with_reducible apply soundOut_next
    | with_reducible apply soundOut_fault

theorem execCellMin_sound (col row : Nat) (s : State) (hs : Sound qq t0 s) :
    SoundOut qq t0 (execCellMin col row s) := by
  unfold execCellMin
  repeat' first
    | with_reducible intro _
    | with_reducible assumption
    | with_reducible apply cellCommand_sound
    | with_reducible apply soundOut_next
    | with_reducible apply soundOut_fault

theorem execCellMax_sound (col row : Nat) (s : State) (hs : Sound qq t0 s) :
    SoundOut qq t0 (execCellMax col row s) := by
  unfold execCellMax
  repeat' first
    | with_reducible intro _
    | with_reducible assumption
    | with_reducible apply cellCommand_sound
    | with_reducible apply soundOut_next
    | with_reducible apply soundOut_fault

theorem execCellReservedOp_sound (col row : Nat) (s : State) (hs : Sound qq t0 s) :
    SoundOut qq t0 (execCellReservedOp col row s) := by
  unfold execCellReservedOp
  repeat' first
    | with_reducible intro _
    | with_reducible assumption
    | with_reducible apply cellCommand_sound
    | with_reducible apply soundOut_next
    | with_reducible apply soundOut_fault

theorem flipTarget_sound (u : Upset) (s : State) (hs : Sound qq t0 s) :
    Sound qq t0 (flipTarget u s) := by
  unfold flipTarget
  repeat' first
    | with_reducible intro _
    | with_reducible assumption
    | simp only [↓sound_mk_iff]
    | with_reducible apply sound_ite
    | (extract_lets x; first | (with_reducible refine sound_cut (s := x) ?_ ?_; (on_goal 2 => clear_value x); (on_goal 1 => unfold x)) | (subst x))
    | split

theorem clearCells_sound (f : Nat) (s : State) (hs : Sound qq t0 s) :
    Sound qq t0 (clearCells f s) := by
  unfold clearCells
  repeat' first
    | with_reducible intro _
    | with_reducible assumption
    | simp only [↓sound_mk_iff]

theorem facetChanged_sound (f : Nat) (s : State) (hs : Sound qq t0 s) :
    Sound qq t0 (facetChanged f s) := by
  unfold facetChanged
  repeat' first
    | with_reducible intro _
    | with_reducible assumption
    | with_reducible apply reopenIf_sound

theorem holdFacet_sound (f : Nat) (s : State) (hs : Sound qq t0 s) :
    Sound qq t0 (holdFacet f s) := by
  unfold holdFacet
  repeat' first
    | with_reducible intro _
    | with_reducible assumption
    | with_reducible apply facetChanged_sound
    | with_reducible apply clearCells_sound
    | with_reducible apply modFacet_sound
    | with_reducible apply setBit_sound
    | simp only [↓sound_mk_iff]
    | with_reducible apply sound_ite
    | (extract_lets x; first | (with_reducible refine sound_cut (s := x) ?_ ?_; (on_goal 2 => clear_value x); (on_goal 1 => unfold x)) | (subst x))
    | split

theorem releaseFacet_sound (f e : Nat) (s : State) (hs : Sound qq t0 s) :
    Sound qq t0 (releaseFacet f e s) := by
  unfold releaseFacet
  repeat' first
    | with_reducible intro _
    | with_reducible assumption
    | with_reducible apply facetChanged_sound
    | with_reducible apply clearCells_sound
    | with_reducible apply setBit_sound
    | with_reducible apply modFacet_sound
    | simp only [↓sound_mk_iff]

theorem releaseEff_sound (f : Nat) (s : State) (hs : Sound qq t0 s) :
    Sound qq t0 (releaseEff f s) := by
  unfold releaseEff
  repeat' first
    | with_reducible intro _
    | with_reducible assumption
    | with_reducible apply modFacet_sound
    | simp only [↓sound_mk_iff]
    | with_reducible apply sound_ite
    | (extract_lets x; first | (with_reducible refine sound_cut (s := x) ?_ ?_; (on_goal 2 => clear_value x); (on_goal 1 => unfold x)) | (subst x))
    | split

theorem holdEff_sound (f : Nat) (s : State) (hs : Sound qq t0 s) :
    Sound qq t0 (holdEff f s) := by
  unfold holdEff
  repeat' first
    | with_reducible intro _
    | with_reducible assumption
    | with_reducible apply modFacet_sound
    | simp only [↓sound_mk_iff]
    | with_reducible apply sound_ite
    | (extract_lets x; first | (with_reducible refine sound_cut (s := x) ?_ ?_; (on_goal 2 => clear_value x); (on_goal 1 => unfold x)) | (subst x))
    | split

theorem execFacetRelease_sound (q : Req) (f : Nat) (s : State) (hs : Sound qq t0 s) :
    SoundOut qq t0 (execFacetRelease q f s) := by
  unfold execFacetRelease
  repeat' first
    | with_reducible intro _
    | with_reducible assumption
    | with_reducible apply unitCmd_sound
    | with_reducible apply command_sound
    | with_reducible apply releaseEff_sound
    | with_reducible apply soundOut_next
    | with_reducible apply soundOut_fault

theorem execFacetHold_sound (q : Req) (f : Nat) (s : State) (hs : Sound qq t0 s) :
    SoundOut qq t0 (execFacetHold q f s) := by
  unfold execFacetHold
  repeat' first
    | with_reducible intro _
    | with_reducible assumption
    | with_reducible apply unitCmd_sound
    | with_reducible apply command_sound
    | with_reducible apply holdEff_sound
    | with_reducible apply soundOut_next
    | with_reducible apply soundOut_fault

theorem execFacetReleaseLands_sound (f : Nat) (s : State) (hs : Sound qq t0 s) :
    SoundOut qq t0 (execFacetReleaseLands f s) := by
  unfold execFacetReleaseLands
  repeat' first
    | with_reducible intro _
    | with_reducible assumption
    | with_reducible apply unitCmd_sound
    | with_reducible apply releaseFacet_sound
    | with_reducible apply upto_sound
    | with_reducible apply raise_sound
    | with_reducible apply soundOut_next
    | with_reducible apply soundOut_fault
    | split

theorem execFacetHoldLands_sound (f : Nat) (s : State) (hs : Sound qq t0 s) :
    SoundOut qq t0 (execFacetHoldLands f s) := by
  unfold execFacetHoldLands
  repeat' first
    | with_reducible intro _
    | with_reducible assumption
    | with_reducible apply unitCmd_sound
    | with_reducible apply holdFacet_sound
    | with_reducible apply upto_sound
    | with_reducible apply raise_sound
    | with_reducible apply soundOut_next
    | with_reducible apply soundOut_fault
    | split

theorem userInEff_sound (f k v : Nat) (s : State) (hs : Sound qq t0 s) :
    Sound qq t0 (userInEff f k v s) := by
  unfold userInEff
  repeat' first
    | with_reducible intro _
    | with_reducible assumption
    | with_reducible apply wr_sound
    | with_reducible apply modFacet_sound
    | simp only [↓sound_mk_iff]
    | with_reducible apply sound_ite
    | (extract_lets x; first | (with_reducible refine sound_cut (s := x) ?_ ?_; (on_goal 2 => clear_value x); (on_goal 1 => unfold x)) | (subst x))
    | split

theorem execUserInWrite_sound (q : Req) (f k v : Nat) (s : State) (hs : Sound qq t0 s) :
    SoundOut qq t0 (execUserInWrite q f k v s) := by
  unfold execUserInWrite
  repeat' first
    | with_reducible intro _
    | with_reducible assumption
    | with_reducible apply writeTo_sound
    | with_reducible apply userInEff_sound
    | with_reducible apply soundOut_next
    | with_reducible apply soundOut_fault
    | with_reducible apply soundOut_ite
    | with_reducible apply sound_ite
    | split

theorem userReqSet_sound (f : Nat) (s : State) (hs : Sound qq t0 s) :
    Sound qq t0 (userReqSet f s) := by
  unfold userReqSet
  repeat' first
    | with_reducible intro _
    | with_reducible assumption
    | with_reducible apply note_sound
    | with_reducible apply setBit_sound
    | with_reducible apply raise_sound
    | simp only [↓sound_mk_iff]
    | with_reducible apply sound_ite
    | (extract_lets x; first | (with_reducible refine sound_cut (s := x) ?_ ?_; (on_goal 2 => clear_value x); (on_goal 1 => unfold x)) | (subst x))
    | split

theorem execUserReq_sound (f : Nat) (s : State) (hs : Sound qq t0 s) :
    SoundOut qq t0 (execUserReq f s) := by
  unfold execUserReq
  repeat' first
    | with_reducible intro _
    | with_reducible assumption
    | with_reducible apply userReqSet_sound
    | with_reducible apply modFacet_sound
    | simp only [↓sound_mk_iff]
    | with_reducible apply sound_ite
    | with_reducible apply soundOut_next
    | with_reducible apply soundOut_fault
    | with_reducible apply soundOut_ite
    | with_reducible apply unitCmd_sound
    | (extract_lets x; first | (with_reducible refine sound_cut (s := x) ?_ ?_; (on_goal 2 => clear_value x); (on_goal 1 => unfold x)) | (subst x))
    | split

theorem execFacetMeshRequest_sound (f : Nat) (op : MeshOp) (addr len data : Nat) (s : State) (hs : Sound qq t0 s) :
    SoundOut qq t0 (execFacetMeshRequest f op addr len data s) := by
  unfold execFacetMeshRequest
  repeat' first
    | with_reducible intro _
    | with_reducible assumption
    | with_reducible apply meshSend_sound
    | with_reducible apply bump_sound
    | simp only [↓sound_mk_iff]
    | with_reducible apply sound_ite
    | with_reducible apply soundOut_next
    | with_reducible apply soundOut_fault
    | with_reducible apply soundOut_ite
    | with_reducible apply unitCmd_sound
    | (extract_lets x; first | (with_reducible refine sound_cut (s := x) ?_ ?_; (on_goal 2 => clear_value x); (on_goal 1 => unfold x)) | (subst x))
    | split

theorem facetDone_sound (f : Nat) (x : MeshResp) (s : State) (hs : Sound qq t0 s) :
    Sound qq t0 (facetDone f x s) := by
  unfold facetDone
  repeat' first
    | with_reducible intro _
    | with_reducible assumption
    | with_reducible apply respTaken_sound
    | with_reducible apply bump_sound
    | with_reducible apply modFacet_sound
    | simp only [↓sound_mk_iff]
    | with_reducible apply sound_ite
    | (extract_lets x; first | (with_reducible refine sound_cut (s := x) ?_ ?_; (on_goal 2 => clear_value x); (on_goal 1 => unfold x)) | (subst x))
    | split

set_option Elab.async false in
theorem execApgTransfer_sound (n : Nat) (s : State) (hs : Sound qq t0 s) :
    SoundOut qq t0 (execApgTransfer n s) := by
  unfold execApgTransfer
  repeat' first
    | with_reducible intro _
    | with_reducible assumption
    | with_reducible apply unitCmd_sound
    | with_reducible apply upto_sound
    | with_reducible apply modVe_sound
    | with_reducible apply addTo_sound
    | with_reducible apply soundOut_next
    | with_reducible apply soundOut_fault
    | with_reducible apply soundOut_ite
    | simp only [↓sound_mk_iff]
    | with_reducible apply sound_ite
    | (extract_lets x; first | (with_reducible refine sound_cut (s := x) ?_ ?_; (on_goal 2 => clear_value x); (on_goal 1 => unfold x)) | (subst x))
    | split

end Sys2Proof.Laws
end

