-- ==== Sys2Proof/Laws/SoundPanScr.lean ====
section
/-! SUPPORT. What every operation of Machine/PanScr.lean keeps. -/
namespace Sys2Proof.Laws
open Sys2Proof Sys2Proof.Machine
set_option linter.unusedVariables false
set_option linter.unusedTactic false
set_option linter.unreachableTactic false

variable {qq : List Instr} {t0 : Nat}

theorem panFlag_sound (p b : Nat) (s : State) (hs : Sound qq t0 s) :
    Sound qq t0 (panFlag p b s) := by
  unfold panFlag
  repeat' first
    | with_reducible intro _
    | with_reducible assumption
    | with_reducible apply flag_sound
    | with_reducible apply sound_ite
    | split

theorem scrFlag_sound (b k : Nat) (s : State) (hs : Sound qq t0 s) :
    Sound qq t0 (scrFlag b k s) := by
  unfold scrFlag
  repeat' first
    | with_reducible intro _
    | with_reducible assumption
    | with_reducible apply flag_sound

theorem discardQueue_sound (p : Nat) (s : State) (hs : Sound qq t0 s) :
    Sound qq t0 (discardQueue p s) := by
  unfold discardQueue
  repeat' first
    | with_reducible intro _
    | with_reducible assumption
    | with_reducible apply panFlag_sound
    | with_reducible apply addTo_sound
    | with_reducible apply modPane_sound
    | simp only [↓sound_mk_iff]
    | with_reducible apply sound_ite
    | (extract_lets x; first | (with_reducible refine sound_cut (s := x) ?_ ?_; (on_goal 2 => clear_value x); (on_goal 1 => unfold x)) | (subst x))
    | split

theorem resetTaps_sound (p : Nat) (s : State) (hs : Sound qq t0 s) :
    Sound qq t0 (resetTaps p s) := by
  unfold resetTaps
  repeat' first
    | with_reducible intro _
    | with_reducible assumption
    | with_reducible apply modPane_sound
    | simp only [↓sound_mk_iff]

theorem setTaps_sound (p e : Nat) (t : Taps) (s : State) (hs : Sound qq t0 s) :
    Sound qq t0 (setTaps p e t s) := by
  unfold setTaps
  repeat' first
    | with_reducible intro _
    | with_reducible assumption
    | with_reducible apply modPane_sound
    | simp only [↓sound_mk_iff]

theorem paneRam_sound (p e : Nat) (bad : Bool) (s : State) (hs : Sound qq t0 s) :
    Sound qq t0 (paneRam p e bad s) := by
  unfold paneRam
  repeat' first
    | with_reducible intro _
    | with_reducible assumption
    | with_reducible apply setTaps_sound
    | with_reducible apply panFlag_sound
    | with_reducible apply store_sound
    | with_reducible apply modPane_sound
    | with_reducible apply bump_sound
    | simp only [↓sound_mk_iff]
    | with_reducible apply sound_ite
    | (extract_lets x; first | (with_reducible refine sound_cut (s := x) ?_ ?_; (on_goal 2 => clear_value x); (on_goal 1 => unfold x)) | (subst x))
    | split

theorem paneQueue_sound (p e : Nat) (bad : Bool) (s : State) (hs : Sound qq t0 s) :
    Sound qq t0 (paneQueue p e bad s) := by
  unfold paneQueue
  repeat' first
    | with_reducible intro _
    | with_reducible assumption
    | with_reducible apply setTaps_sound
    | with_reducible apply panFlag_sound
    | with_reducible apply modPane_sound
    | with_reducible apply bump_sound
    | simp only [↓sound_mk_iff]
    | with_reducible apply sound_ite
    | (extract_lets x; first | (with_reducible refine sound_cut (s := x) ?_ ?_; (on_goal 2 => clear_value x); (on_goal 1 => unfold x)) | (subst x))
    | split

theorem paneDetachEff_sound (p : Nat) (s : State) (hs : Sound qq t0 s) :
    Sound qq t0 (paneDetachEff p s) := by
  unfold paneDetachEff
  repeat' first
    | with_reducible intro _
    | with_reducible assumption
    | with_reducible apply modPane_sound
    | simp only [↓sound_mk_iff]
    | with_reducible apply sound_ite
    | (extract_lets x; first | (with_reducible refine sound_cut (s := x) ?_ ?_; (on_goal 2 => clear_value x); (on_goal 1 => unfold x)) | (subst x))
    | split

theorem paneAttachEff_sound (p : Nat) (s : State) (hs : Sound qq t0 s) :
    Sound qq t0 (paneAttachEff p s) := by
  unfold paneAttachEff
  repeat' first
    | with_reducible intro _
    | with_reducible assumption
    | with_reducible apply modPane_sound
    | simp only [↓sound_mk_iff]
    | with_reducible apply sound_ite
    | (extract_lets x; first | (with_reducible refine sound_cut (s := x) ?_ ?_; (on_goal 2 => clear_value x); (on_goal 1 => unfold x)) | (subst x))
    | split

theorem paneTestEff_sound (p : Nat) (s : State) (hs : Sound qq t0 s) :
    Sound qq t0 (paneTestEff p s) := by
  unfold paneTestEff
  repeat' first
    | with_reducible intro _
    | with_reducible assumption
    | with_reducible apply wr_sound
    | with_reducible apply modPane_sound
    | simp only [↓sound_mk_iff]

theorem queueLeft_sound (p : Nat) (s : State) (hs : Sound qq t0 s) :
    Sound qq t0 (queueLeft p s) := by
  unfold queueLeft
  repeat' first
    | with_reducible intro _
    | with_reducible assumption
    | with_reducible apply store_sound
    | with_reducible apply modPane_sound
    | with_reducible apply drawn_sound
    | simp only [↓sound_mk_iff]
    | with_reducible apply sound_ite
    | (extract_lets x; first | (with_reducible refine sound_cut (s := x) ?_ ?_; (on_goal 2 => clear_value x); (on_goal 1 => unfold x)) | (subst x))
    | split

theorem paneModeEff_sound (p v : Nat) (s : State) (hs : Sound qq t0 s) :
    Sound qq t0 (paneModeEff p v s) := by
  unfold paneModeEff
  repeat' first
    | with_reducible intro _
    | with_reducible assumption
    | with_reducible apply queueLeft_sound
    | with_reducible apply discardQueue_sound
    | with_reducible apply wr_sound
    | simp only [↓sound_mk_iff]
    | with_reducible apply sound_ite
    | (extract_lets x; first | (with_reducible refine sound_cut (s := x) ?_ ?_; (on_goal 2 => clear_value x); (on_goal 1 => unfold x)) | (subst x))
    | split

theorem execPaneDetach_sound (q : Req) (p : Nat) (s : State) (hs : Sound qq t0 s) :
    SoundOut qq t0 (execPaneDetach q p s) := by
  unfold execPaneDetach
  repeat' first
    | with_reducible intro _
    | with_reducible assumption
    | with_reducible apply unitCmd_sound
    | with_reducible apply command_sound
    | with_reducible apply paneDetachEff_sound
    | with_reducible apply soundOut_next
    | with_reducible apply soundOut_fault

theorem execPaneAttach_sound (q : Req) (p : Nat) (s : State) (hs : Sound qq t0 s) :
    SoundOut qq t0 (execPaneAttach q p s) := by
  unfold execPaneAttach
  repeat' first
    | with_reducible intro _
    | with_reducible assumption
    | with_reducible apply unitCmd_sound
    | with_reducible apply command_sound
    | with_reducible apply paneAttachEff_sound
    | with_reducible apply soundOut_next
    | with_reducible apply soundOut_fault

theorem execPaneTest_sound (q : Req) (p : Nat) (s : State) (hs : Sound qq t0 s) :
    SoundOut qq t0 (execPaneTest q p s) := by
  unfold execPaneTest
  repeat' first
    | with_reducible intro _
    | with_reducible assumption
    | with_reducible apply unitCmd_sound
    | with_reducible apply command_sound
    | with_reducible apply paneTestEff_sound
    | with_reducible apply soundOut_next
    | with_reducible apply soundOut_fault

theorem execPaneModeWrite_sound (q : Req) (p v : Nat) (s : State) (hs : Sound qq t0 s) :
    SoundOut qq t0 (execPaneModeWrite q p v s) := by
  unfold execPaneModeWrite
  repeat' first
    | with_reducible intro _
    | with_reducible assumption
    | with_reducible apply unitCmd_sound
    | with_reducible apply writeTo_sound
    | with_reducible apply paneModeEff_sound
    | with_reducible apply soundOut_next
    | with_reducible apply soundOut_fault

theorem execPaneAttachLands_sound (p : Nat) (s : State) (hs : Sound qq t0 s) :
    SoundOut qq t0 (execPaneAttachLands p s) := by
  unfold execPaneAttachLands
  repeat' first
    | with_reducible intro _
    | with_reducible assumption
    | with_reducible apply unitCmd_sound
    | with_reducible apply resetTaps_sound
    | with_reducible apply upto_sound
    | with_reducible apply wr_sound
    | with_reducible apply modPane_sound
    | with_reducible apply soundOut_next
    | with_reducible apply soundOut_fault
    | simp only [↓sound_mk_iff]
    | split

theorem testEnd_sound (result repair a n bad spares : Nat) (s : State) (hs : Sound qq t0 s) :
    Sound qq t0 (testEnd result repair a n bad spares s) := by
  unfold testEnd
  extract_lets fused r u
  have hu : Sound qq t0 u := wr_sound (wr_sound hs _ _) _ _
  exact sound_ite (drawn_sound _ (store_sound _ _ _ _ hu)) ⟨hu.pending, hu.now, mem_wf_clear hu.mem, hu.reg⟩

theorem testedQueue_sound (p : Nat) (s : State) (hs : Sound qq t0 s) :
    Sound qq t0 (testedQueue p s) := by
  unfold testedQueue
  repeat' first
    | with_reducible intro _
    | with_reducible assumption
    | with_reducible apply modPane_sound
    | with_reducible apply drawn_sound
    | simp only [↓sound_mk_iff]
    | with_reducible apply sound_ite
    | (extract_lets x; first | (with_reducible refine sound_cut (s := x) ?_ ?_; (on_goal 2 => clear_value x); (on_goal 1 => unfold x)) | (subst x))
    | split

theorem execPaneTestEnd_sound (p bad : Nat) (s : State) (hs : Sound qq t0 s) :
    SoundOut qq t0 (execPaneTestEnd p bad s) := by
  unfold execPaneTestEnd
  repeat' first
    | with_reducible intro _
    | with_reducible assumption
    | with_reducible apply testedQueue_sound
    | with_reducible apply testEnd_sound
    | with_reducible apply panFlag_sound
    | with_reducible apply wr_sound
    | simp only [↓sound_mk_iff]
    | with_reducible apply sound_ite
    | with_reducible apply soundOut_next
    | with_reducible apply soundOut_fault
    | with_reducible apply soundOut_ite
    | with_reducible apply unitCmd_sound
    | (extract_lets x; first | (with_reducible refine sound_cut (s := x) ?_ ?_; (on_goal 2 => clear_value x); (on_goal 1 => unfold x)) | (subst x))
    | split

theorem ownerEff_sound (b port v : Nat) (s : State) (hs : Sound qq t0 s) :
    Sound qq t0 (ownerEff b port v s) := by
  unfold ownerEff
  repeat' first
    | with_reducible intro _
    | with_reducible assumption
    | with_reducible apply modBank_sound
    | with_reducible apply wr_sound
    | simp only [↓sound_mk_iff]
    | with_reducible apply sound_ite
    | (extract_lets x; first | (with_reducible refine sound_cut (s := x) ?_ ?_; (on_goal 2 => clear_value x); (on_goal 1 => unfold x)) | (subst x))
    | split

theorem execScratchOwnerWrite_sound (q : Req) (b port v : Nat) (s : State) (hs : Sound qq t0 s) :
    SoundOut qq t0 (execScratchOwnerWrite q b port v s) := by
  unfold execScratchOwnerWrite
  repeat' first
    | with_reducible intro _
    | with_reducible assumption
    | with_reducible apply writeTo_sound
    | with_reducible apply ownerEff_sound
    | with_reducible apply soundOut_next
    | with_reducible apply soundOut_fault
    | with_reducible apply soundOut_ite
    | with_reducible apply sound_ite
    | split

theorem execHandoverEnd_sound (b : Nat) (s : State) (hs : Sound qq t0 s) :
    SoundOut qq t0 (execHandoverEnd b s) := by
  unfold execHandoverEnd
  repeat' first
    | with_reducible intro _
    | with_reducible assumption
    | with_reducible apply scrFlag_sound
    | with_reducible apply modBank_sound
    | with_reducible apply upto_sound
    | with_reducible apply wr_sound
    | simp only [↓sound_mk_iff]
    | with_reducible apply sound_ite
    | with_reducible apply soundOut_next
    | with_reducible apply soundOut_fault
    | with_reducible apply soundOut_ite
    | with_reducible apply unitCmd_sound
    | (extract_lets x; first | (with_reducible refine sound_cut (s := x) ?_ ?_; (on_goal 2 => clear_value x); (on_goal 1 => unfold x)) | (subst x))
    | split

theorem scrTestEff_sound (b : Nat) (s : State) (hs : Sound qq t0 s) :
    Sound qq t0 (scrTestEff b s) := by
  unfold scrTestEff
  repeat' first
    | with_reducible intro _
    | with_reducible assumption
    | with_reducible apply wr_sound

theorem execScratchTest_sound (q : Req) (b : Nat) (s : State) (hs : Sound qq t0 s) :
    SoundOut qq t0 (execScratchTest q b s) := by
  unfold execScratchTest
  repeat' first
    | with_reducible intro _
    | with_reducible assumption
    | with_reducible apply unitCmd_sound
    | with_reducible apply command_sound
    | with_reducible apply scrTestEff_sound
    | with_reducible apply soundOut_next
    | with_reducible apply soundOut_fault

theorem execScratchTestEnd_sound (b bad : Nat) (s : State) (hs : Sound qq t0 s) :
    SoundOut qq t0 (execScratchTestEnd b bad s) := by
  unfold execScratchTestEnd
  repeat' first
    | with_reducible intro _
    | with_reducible assumption
    | with_reducible apply unitCmd_sound
    | with_reducible apply scrFlag_sound
    | with_reducible apply testEnd_sound
    | with_reducible apply wr_sound
    | with_reducible apply soundOut_next
    | with_reducible apply soundOut_fault
    | with_reducible apply soundOut_ite
    | with_reducible apply sound_ite
    | split

theorem portTake_sound (b p c rank : Nat) (wr : Bool) (word v : Nat) (s : State) (hs : Sound qq t0 s) :
    Sound qq t0 (portTake b p c rank wr word v s).2 := by
  unfold portTake
  repeat' first
    | with_reducible intro _
    | with_reducible assumption
    | with_reducible apply modBank_sound
    | with_reducible apply bump_sound
    | with_reducible apply wr_sound
    | simp only [↓sound_mk_iff]
    | with_reducible apply sound_ite
    | (extract_lets x; first | (with_reducible refine sound_cut (s := x) ?_ ?_; (on_goal 2 => clear_value x); (on_goal 1 => unfold x)) | (subst x))
    | split

theorem portStall_sound (b p : Nat) (s : State) (hs : Sound qq t0 s) :
    Sound qq t0 (portStall b p s) := by
  unfold portStall
  repeat' first
    | with_reducible intro _
    | with_reducible assumption
    | with_reducible apply modDsp_sound
    | with_reducible apply addTo_sound
    | simp only [↓sound_mk_iff]
    | with_reducible apply sound_ite
    | (extract_lets x; first | (with_reducible refine sound_cut (s := x) ?_ ?_; (on_goal 2 => clear_value x); (on_goal 1 => unfold x)) | (subst x))
    | split

theorem loseDomain_sound (d : Nat) (s : State) (hs : Sound qq t0 s) : Sound qq t0 (loseDomain d s) := by
  unfold loseDomain
  have hu : Sound qq t0 ((List.range 48).foldl (fun s j => discardQueue (48 * d + j) s) s) :=
    sound_foldl (fun s j h => discardQueue_sound _ s h) hs
  generalize (List.range 48).foldl (fun s j => discardQueue (48 * d + j) s) s = u at hu ⊢
  split
  · exact ⟨hu.pending, hu.now, mem_wf_clear hs.mem, hu.reg⟩
  · exact ⟨hs.pending, hs.now, mem_wf_clear hs.mem, hs.reg⟩

set_option Elab.async false in
theorem domainUnits_sound (d pan scr : Nat) (s : State) (hs : Sound qq t0 s) :
    Sound qq t0 (domainUnits d pan scr s) := by
  unfold domainUnits
  repeat' first
    | with_reducible intro _
    | with_reducible assumption
    | with_reducible apply resetTaps_sound
    | with_reducible apply modBank_sound
    | with_reducible apply modPane_sound
    | with_reducible apply wr_sound
    | simp only [↓sound_mk_iff]
    | with_reducible apply sound_foldl
    | with_reducible apply sound_foldl_snd
    | with_reducible apply sound_ite
    | (extract_lets x; first | (with_reducible refine sound_cut (s := x) ?_ ?_; (on_goal 2 => clear_value x); (on_goal 1 => unfold x)) | (subst x))
    | split

end Sys2Proof.Laws
end

