-- ==== Sys2Proof/Laws/SoundMesh.lean ====
section
/-! SUPPORT. What every operation of Machine/Mesh.lean keeps. -/
namespace Sys2Proof.Laws
open Sys2Proof Sys2Proof.Machine
set_option linter.unusedVariables false
set_option linter.unusedTactic false
set_option linter.unreachableTactic false

variable {qq : List Instr} {t0 : Nat}

theorem mshFlag_sound (b : Nat) (s : State) (hs : Sound qq t0 s) :
    Sound qq t0 (mshFlag b s) := by
  unfold mshFlag
  repeat' first
    | with_reducible intro _
    | with_reducible assumption
    | with_reducible apply flag_sound

theorem traceWrite_sound (p : Nat) (k : Packet) (s : State) (hs : Sound qq t0 s) :
    Sound qq t0 (traceWrite p k s) := by
  unfold traceWrite
  repeat' first
    | with_reducible intro _
    | with_reducible assumption
    | with_reducible apply mshFlag_sound
    | with_reducible apply bump_sound
    | simp only [↓sound_mk_iff]
    | with_reducible apply sound_ite
    | (extract_lets x; first | (with_reducible refine sound_cut (s := x) ?_ ?_; (on_goal 2 => clear_value x); (on_goal 1 => unfold x)) | (subst x))
    | split

theorem probesSee_sound (k : Packet) (s : State) (hs : Sound qq t0 s) :
    Sound qq t0 (probesSee k s) := by
  unfold probesSee
  repeat' first
    | with_reducible intro _
    | with_reducible assumption
    | with_reducible apply bump_sound
    | with_reducible apply addTo_sound
    | with_reducible apply traceWrite_sound
    | with_reducible apply sound_ite
    | with_reducible apply sound_foldl
    | (extract_lets x; first | (with_reducible refine sound_cut (s := x) ?_ ?_; (on_goal 2 => clear_value x); (on_goal 1 => unfold x)) | (subst x))
    | split

theorem noteArrival_sound (r : MeshReq) (s : State) (hs : Sound qq t0 s) :
    Sound qq t0 (noteArrival r s) := by
  unfold noteArrival
  repeat' first
    | with_reducible intro _
    | with_reducible assumption
    | with_reducible apply brkMatch_sound
    | with_reducible apply probesSee_sound

theorem flitNoted_sound (p : List Nat) (s : State) (f : Flit) (hs : Sound qq t0 s) :
    Sound qq t0 (flitNoted p s f) := by
  unfold flitNoted
  repeat' first
    | with_reducible intro _
    | with_reducible assumption
    | with_reducible apply mshFlag_sound
    | with_reducible apply bump_sound
    | simp only [↓sound_mk_iff]
    | with_reducible apply sound_ite
    | (extract_lets x; first | (with_reducible refine sound_cut (s := x) ?_ ?_; (on_goal 2 => clear_value x); (on_goal 1 => unfold x)) | (subst x))
    | split

theorem flitsNoted_sound (p : List Nat) (fl : List Flit) (s : State) (hs : Sound qq t0 s) :
    Sound qq t0 (flitsNoted p fl s) := by
  unfold flitsNoted
  repeat' first
    | with_reducible intro _
    | with_reducible assumption
    | with_reducible apply flitNoted_sound
    | simp only [↓sound_mk_iff]
    | with_reducible apply sound_foldl
    | with_reducible apply sound_foldl_snd
    | with_reducible apply sound_ite
    | (extract_lets x; first | (with_reducible refine sound_cut (s := x) ?_ ?_; (on_goal 2 => clear_value x); (on_goal 1 => unfold x)) | (subst x))
    | split

theorem performMem_sound (r : MeshReq) (s : State) (hs : Sound qq t0 s) :
    Sound qq t0 (performMem r s) := by
  unfold performMem
  repeat' first
    | with_reducible intro _
    | with_reducible assumption
    | with_reducible apply meshAnswer_sound
    | with_reducible apply store_sound
    | with_reducible apply sound_ite
    | split

theorem bankTimeout_sound (b : Nat) (r : MeshReq) (s : State) (hs : Sound qq t0 s) :
    Sound qq t0 (bankTimeout b r s) := by
  unfold bankTimeout
  repeat' first
    | with_reducible intro _
    | with_reducible assumption
    | with_reducible apply scrFlag_sound
    | with_reducible apply meshAnswer_sound
    | with_reducible apply bump_sound
    | simp only [↓sound_mk_iff]
    | with_reducible apply sound_ite
    | (extract_lets x; first | (with_reducible refine sound_cut (s := x) ?_ ?_; (on_goal 2 => clear_value x); (on_goal 1 => unfold x)) | (subst x))
    | split

theorem bankWord_sound (b : Nat) (r : MeshReq) (x : Nat × State) (i : Nat) (hs : Sound qq t0 x.2) : Sound qq t0 (bankWord b r x i).2 := by
  unfold bankWord
  extract_lets s word v c pt t
  have hp : Sound qq t0 pt.2 := portTake_sound _ _ _ _ _ _ _ _ hs
  have ht : Sound qq t0 t := sound_ite (portStall_sound _ _ _ hp) hp
  split
  · exact sound_ite (store_sound _ _ _ _ ht) ht
  · exact ht

theorem bankPerform_sound (b : Nat) (r : MeshReq) (s : State) (hs : Sound qq t0 s) :
    Sound qq t0 (bankPerform b r s) := by
  unfold bankPerform
  repeat' first
    | with_reducible intro _
    | with_reducible assumption
    | with_reducible apply bankWord_sound
    | with_reducible apply meshAnswer_sound
    | simp only [↓sound_mk_iff]
    | with_reducible apply sound_foldl
    | with_reducible apply sound_foldl_snd
    | with_reducible apply sound_ite
    | (extract_lets x; first | (with_reducible refine sound_cut (s := x) ?_ ?_; (on_goal 2 => clear_value x); (on_goal 1 => unfold x)) | (subst x))
    | split

theorem serveBank_sound (b : Nat) (ecc : List Ecc) (r : MeshReq) (s : State) (hs : Sound qq t0 s) :
    Sound qq t0 (serveBank b ecc r s) := by
  unfold serveBank
  repeat' first
    | with_reducible intro _
    | with_reducible assumption
    | with_reducible apply bankPerform_sound
    | with_reducible apply bankTimeout_sound
    | with_reducible apply scrFlag_sound
    | with_reducible apply meshAnswer_sound
    | with_reducible apply bump_sound
    | with_reducible apply addTo_sound
    | simp only [↓sound_mk_iff]
    | with_reducible apply sound_ite
    | (extract_lets x; first | (with_reducible refine sound_cut (s := x) ?_ ?_; (on_goal 2 => clear_value x); (on_goal 1 => unfold x)) | (subst x))
    | split

theorem paneRow_sound (p : Nat) (r : MeshReq) (x : Nat × State) (i : Nat) (hs : Sound qq t0 x.2) : Sound qq t0 (paneRow p r x i).2 := by
  unfold paneRow
  extract_lets s wr port l m t
  have ht : Sound qq t0 t := modPane_sound _ _ _ hs
  split
  · exact store_sound _ _ _ _ ht
  · exact ht

theorem panePerform_sound (p : Nat) (ecc : List Ecc) (r : MeshReq) (s : State) (hs : Sound qq t0 s) :
    Sound qq t0 (panePerform p ecc r s) := by
  unfold panePerform
  extract_lets bad x
  have hx : Sound qq t0 x.2 := sound_foldl_snd (fun y i h => paneRow_sound p r y i h) hs
  exact sound_ite (sound_ite (meshAnswer_sound _ _ _ _ hx) (meshAnswer_sound _ _ _ _ hx)) (meshAnswer_sound _ _ _ _ (panFlag_sound _ _ _ (addTo_sound _ _ _ _ hs)))

theorem servePane_sound (p : Nat) (ecc : List Ecc) (r : MeshReq) (s : State) (hs : Sound qq t0 s) :
    Sound qq t0 (servePane p ecc r s) := by
  unfold servePane
  repeat' first
    | with_reducible intro _
    | with_reducible assumption
    | with_reducible apply panePerform_sound
    | with_reducible apply meshAnswer_sound
    | simp only [↓sound_mk_iff]
    | with_reducible apply sound_ite
    | (extract_lets x; first | (with_reducible refine sound_cut (s := x) ?_ ?_; (on_goal 2 => clear_value x); (on_goal 1 => unfold x)) | (subst x))
    | split

theorem paneServe_sound (p : Nat) (op : MeshOp) (s : State) (hs : Sound qq t0 s) :
    Sound qq t0 (paneServe p op s) := by
  unfold paneServe
  repeat' first
    | with_reducible intro _
    | with_reducible assumption
    | with_reducible apply panePerform_sound
    | simp only [↓sound_mk_iff]
    | with_reducible apply sound_ite
    | (extract_lets x; first | (with_reducible refine sound_cut (s := x) ?_ ?_; (on_goal 2 => clear_value x); (on_goal 1 => unfold x)) | (subst x))
    | split

theorem paneServeAll_sound (p : Nat) (s : State) (hs : Sound qq t0 s) :
    Sound qq t0 (paneServeAll p s) := by
  unfold paneServeAll
  repeat' first
    | with_reducible intro _
    | with_reducible assumption
    | with_reducible apply panePerform_sound
    | simp only [↓sound_mk_iff]
    | with_reducible apply sound_foldl
    | with_reducible apply sound_foldl_snd
    | with_reducible apply sound_ite
    | (extract_lets x; first | (with_reducible refine sound_cut (s := x) ?_ ?_; (on_goal 2 => clear_value x); (on_goal 1 => unfold x)) | (subst x))
    | split

theorem failWaiting_sound (f : Nat) (s : State) (hs : Sound qq t0 s) :
    Sound qq t0 (failWaiting f s) := by
  unfold failWaiting
  repeat' first
    | with_reducible intro _
    | with_reducible assumption
    | with_reducible apply meshAnswer_sound
    | simp only [↓sound_mk_iff]
    | with_reducible apply sound_foldl
    | with_reducible apply sound_foldl_snd
    | with_reducible apply sound_ite
    | (extract_lets x; first | (with_reducible refine sound_cut (s := x) ?_ ?_; (on_goal 2 => clear_value x); (on_goal 1 => unfold x)) | (subst x))
    | split

theorem execPaneFabricAccess_sound (p : Nat) (bad : Bool) (s : State) (hs : Sound qq t0 s) :
    SoundOut qq t0 (execPaneFabricAccess p bad s) := by
  unfold execPaneFabricAccess
  repeat' first
    | with_reducible intro _
    | with_reducible assumption
    | with_reducible apply paneServe_sound
    | with_reducible apply paneQueue_sound
    | with_reducible apply paneRam_sound
    | with_reducible apply panFlag_sound
    | with_reducible apply modPane_sound
    | with_reducible apply upto_sound
    | with_reducible apply bump_sound
    | simp only [↓sound_mk_iff]
    | with_reducible apply sound_ite
    | with_reducible apply soundOut_next
    | with_reducible apply soundOut_fault
    | with_reducible apply soundOut_ite
    | with_reducible apply unitCmd_sound
    | (extract_lets x; first | (with_reducible refine sound_cut (s := x) ?_ ?_; (on_goal 2 => clear_value x); (on_goal 1 => unfold x)) | (subst x))
    | split

theorem execPaneDetachLands_sound (p : Nat) (s : State) (hs : Sound qq t0 s) :
    SoundOut qq t0 (execPaneDetachLands p s) := by
  unfold execPaneDetachLands
  repeat' first
    | with_reducible intro _
    | with_reducible assumption
    | with_reducible apply paneServeAll_sound
    | with_reducible apply modPane_sound
    | with_reducible apply upto_sound
    | with_reducible apply wr_sound
    | simp only [↓sound_mk_iff]
    | with_reducible apply sound_ite
    | with_reducible apply soundOut_next
    | with_reducible apply soundOut_fault
    | with_reducible apply soundOut_ite
    | with_reducible apply unitCmd_sound
    | (extract_lets x; first | (with_reducible refine sound_cut (s := x) ?_ ?_; (on_goal 2 => clear_value x); (on_goal 1 => unfold x)) | (subst x))
    | split

theorem serve_sound (ecc : List Ecc) (r : MeshReq) (s : State) (hs : Sound qq t0 s) :
    Sound qq t0 (serve ecc r s) := by
  unfold serve
  repeat' first
    | with_reducible intro _
    | with_reducible assumption
    | with_reducible apply servePane_sound
    | with_reducible apply serveBank_sound
    | with_reducible apply performMem_sound
    | with_reducible apply meshAnswer_sound
    | with_reducible apply modDmc_sound
    | simp only [↓sound_mk_iff]
    | with_reducible apply sound_ite
    | (extract_lets x; first | (with_reducible refine sound_cut (s := x) ?_ ?_; (on_goal 2 => clear_value x); (on_goal 1 => unfold x)) | (subst x))
    | split

theorem crhFlag_sound (b : Nat) (s : State) (hs : Sound qq t0 s) :
    Sound qq t0 (crhFlag b s) := by
  unfold crhFlag
  repeat' first
    | with_reducible intro _
    | with_reducible assumption
    | with_reducible apply flag_sound

theorem gatedTouch_sound (u : Nat) (r : MeshReq) (s : State) (hs : Sound qq t0 s) :
    Sound qq t0 (gatedTouch u r s) := by
  unfold gatedTouch
  repeat' first
    | with_reducible intro _
    | with_reducible assumption
    | with_reducible apply meshAnswer_sound
    | with_reducible apply crhFlag_sound
    | with_reducible apply bump_sound
    | with_reducible apply sound_ite
    | split

theorem hold_sound (ecc : List Ecc) (r : MeshReq) (s : State) (hs : Sound qq t0 s) :
    Sound qq t0 (hold ecc r s) := by
  unfold hold
  repeat' first
    | with_reducible intro _
    | with_reducible assumption
    | simp only [↓sound_mk_iff]
    | with_reducible apply sound_ite
    | (extract_lets x; first | (with_reducible refine sound_cut (s := x) ?_ ?_; (on_goal 2 => clear_value x); (on_goal 1 => unfold x)) | (subst x))
    | split

theorem wakeDomain_sound (d : Nat) (s : State) (hs : Sound qq t0 s) :
    Sound qq t0 (wakeDomain d s) := by
  unfold wakeDomain
  repeat' first
    | with_reducible intro _
    | with_reducible assumption
    | with_reducible apply wr_sound
    | simp only [↓sound_mk_iff]

theorem atPort_sound (ecc : List Ecc) (r : MeshReq) (s : State) (hs : Sound qq t0 s) :
    Sound qq t0 (atPort ecc r s) := by
  unfold atPort
  repeat' first
    | with_reducible intro _
    | with_reducible assumption
    | with_reducible apply wakeDomain_sound
    | with_reducible apply hold_sound
    | with_reducible apply gatedTouch_sound
    | with_reducible apply serve_sound
    | with_reducible apply mshFlag_sound
    | with_reducible apply meshAnswer_sound
    | with_reducible apply bump_sound
    | simp only [↓sound_mk_iff]
    | with_reducible apply sound_ite
    | (extract_lets x; first | (with_reducible refine sound_cut (s := x) ?_ ?_; (on_goal 2 => clear_value x); (on_goal 1 => unfold x)) | (subst x))
    | split

theorem arrivePort_sound (fl : List Flit) (ecc : List Ecc) (r : MeshReq) (s : State) (hs : Sound qq t0 s) :
    Sound qq t0 (arrivePort fl ecc r s) := by
  unfold arrivePort
  repeat' first
    | with_reducible intro _
    | with_reducible assumption
    | with_reducible apply atPort_sound
    | with_reducible apply flitsNoted_sound
    | with_reducible apply noteArrival_sound
    | with_reducible apply meshAnswer_sound
    | simp only [↓sound_mk_iff]
    | with_reducible apply sound_ite
    | (extract_lets x; first | (with_reducible refine sound_cut (s := x) ?_ ?_; (on_goal 2 => clear_value x); (on_goal 1 => unfold x)) | (subst x))
    | split

theorem arriveCommand_sound (op : MeshOp) (r : MeshReq) (fl : List Flit) (ecc : List Ecc) (s : State) (hs : Sound qq t0 s) :
    Sound qq t0 (arriveCommand op r fl ecc s) := by
  unfold arriveCommand
  repeat' first
    | with_reducible intro _
    | with_reducible assumption
    | with_reducible apply arrivePort_sound
    | with_reducible apply meshAnswer_sound
    | simp only [↓sound_mk_iff]
    | with_reducible apply sound_ite
    | (extract_lets x; first | (with_reducible refine sound_cut (s := x) ?_ ?_; (on_goal 2 => clear_value x); (on_goal 1 => unfold x)) | (subst x))
    | split

theorem execMeshRead_sound (r : MeshReq) (fl : List Flit) (ecc : List Ecc) (s : State) (hs : Sound qq t0 s) :
    SoundOut qq t0 (execMeshRead r fl ecc s) := by
  unfold execMeshRead
  repeat' first
    | with_reducible intro _
    | with_reducible assumption
    | with_reducible apply arriveCommand_sound
    | simp only [↓sound_mk_iff]
    | with_reducible apply sound_ite
    | with_reducible apply soundOut_next
    | with_reducible apply soundOut_fault
    | with_reducible apply soundOut_ite
    | with_reducible apply unitCmd_sound
    | (extract_lets x; first | (with_reducible refine sound_cut (s := x) ?_ ?_; (on_goal 2 => clear_value x); (on_goal 1 => unfold x)) | (subst x))
    | split

theorem execMeshWrite_sound (r : MeshReq) (fl : List Flit) (s : State) (hs : Sound qq t0 s) :
    SoundOut qq t0 (execMeshWrite r fl s) := by
  unfold execMeshWrite
  repeat' first
    | with_reducible intro _
    | with_reducible assumption
    | with_reducible apply arriveCommand_sound
    | simp only [↓sound_mk_iff]
    | with_reducible apply sound_ite
    | with_reducible apply soundOut_next
    | with_reducible apply soundOut_fault
    | with_reducible apply soundOut_ite
    | with_reducible apply unitCmd_sound
    | (extract_lets x; first | (with_reducible refine sound_cut (s := x) ?_ ?_; (on_goal 2 => clear_value x); (on_goal 1 => unfold x)) | (subst x))
    | split

theorem execMeshOr_sound (r : MeshReq) (fl : List Flit) (s : State) (hs : Sound qq t0 s) :
    SoundOut qq t0 (execMeshOr r fl s) := by
  unfold execMeshOr
  repeat' first
    | with_reducible intro _
    | with_reducible assumption
    | with_reducible apply arriveCommand_sound
    | simp only [↓sound_mk_iff]
    | with_reducible apply sound_ite
    | with_reducible apply soundOut_next
    | with_reducible apply soundOut_fault
    | with_reducible apply soundOut_ite
    | with_reducible apply unitCmd_sound
    | (extract_lets x; first | (with_reducible refine sound_cut (s := x) ?_ ?_; (on_goal 2 => clear_value x); (on_goal 1 => unfold x)) | (subst x))
    | split

theorem performHeld_sound (t : MeshReq → Bool) (s : State) (hs : Sound qq t0 s) :
    Sound qq t0 (performHeld t s) := by
  unfold performHeld
  repeat' first
    | with_reducible intro _
    | with_reducible assumption
    | with_reducible apply atPort_sound
    | simp only [↓sound_mk_iff]
    | with_reducible apply sound_foldl
    | with_reducible apply sound_foldl_snd
    | with_reducible apply sound_ite
    | (extract_lets x; first | (with_reducible refine sound_cut (s := x) ?_ ?_; (on_goal 2 => clear_value x); (on_goal 1 => unfold x)) | (subst x))
    | split

theorem execStealTimeout_sound (r : MeshReq) (s : State) (hs : Sound qq t0 s) :
    SoundOut qq t0 (execStealTimeout r s) := by
  unfold execStealTimeout
  repeat' first
    | with_reducible intro _
    | with_reducible assumption
    | with_reducible apply panFlag_sound
    | with_reducible apply meshAnswer_sound
    | with_reducible apply upto_sound
    | with_reducible apply bump_sound
    | simp only [↓sound_mk_iff]
    | with_reducible apply sound_ite
    | with_reducible apply soundOut_next
    | with_reducible apply soundOut_fault
    | with_reducible apply soundOut_ite
    | with_reducible apply unitCmd_sound
    | (extract_lets x; first | (with_reducible refine sound_cut (s := x) ?_ ?_; (on_goal 2 => clear_value x); (on_goal 1 => unfold x)) | (subst x))
    | split

theorem execDomainPowered_sound (d : Nat) (s : State) (hs : Sound qq t0 s) :
    SoundOut qq t0 (execDomainPowered d s) := by
  unfold execDomainPowered
  repeat' first
    | with_reducible intro _
    | with_reducible assumption
    | with_reducible apply unitCmd_sound
    | with_reducible apply domainUnits_sound
    | with_reducible apply wr_sound
    | with_reducible apply soundOut_next
    | with_reducible apply soundOut_fault
    | with_reducible apply soundOut_ite
    | simp only [↓sound_mk_iff]
    | with_reducible apply sound_ite
    | split

theorem drainEff_sound (n : Nat) (cfg : Option Nat) (s : State) (hs : Sound qq t0 s) :
    Sound qq t0 (drainEff n cfg s) := by
  unfold drainEff
  repeat' first
    | with_reducible intro _
    | with_reducible assumption
    | with_reducible apply wr_sound
    | simp only [↓sound_mk_iff]
    | with_reducible apply sound_ite
    | (extract_lets x; first | (with_reducible refine sound_cut (s := x) ?_ ?_; (on_goal 2 => clear_value x); (on_goal 1 => unfold x)) | (subst x))
    | split

theorem execRouterSelfcheck_sound (q : Req) (n : Nat) (s : State) (hs : Sound qq t0 s) :
    SoundOut qq t0 (execRouterSelfcheck q n s) := by
  unfold execRouterSelfcheck
  repeat' first
    | with_reducible intro _
    | with_reducible assumption
    | with_reducible apply unitCmd_sound
    | with_reducible apply command_sound
    | with_reducible apply drainEff_sound
    | with_reducible apply soundOut_next
    | with_reducible apply soundOut_fault

theorem execRcfgWrite_sound (q : Req) (n v : Nat) (s : State) (hs : Sound qq t0 s) :
    SoundOut qq t0 (execRcfgWrite q n v s) := by
  unfold execRcfgWrite
  repeat' first
    | with_reducible intro _
    | with_reducible assumption
    | with_reducible apply unitCmd_sound
    | with_reducible apply writeTo_sound
    | with_reducible apply drainEff_sound
    | with_reducible apply soundOut_next
    | with_reducible apply soundOut_fault

theorem execDrainEnd_sound (n : Nat) (pass : Bool) (s : State) (hs : Sound qq t0 s) :
    SoundOut qq t0 (execDrainEnd n pass s) := by
  unfold execDrainEnd
  repeat' first
    | with_reducible intro _
    | with_reducible assumption
    | with_reducible apply mshFlag_sound
    | with_reducible apply bump_sound
    | with_reducible apply wr_sound
    | simp only [↓sound_mk_iff]
    | with_reducible apply sound_ite
    | with_reducible apply soundOut_next
    | with_reducible apply soundOut_fault
    | with_reducible apply soundOut_ite
    | with_reducible apply unitCmd_sound
    | (extract_lets x; first | (with_reducible refine sound_cut (s := x) ?_ ?_; (on_goal 2 => clear_value x); (on_goal 1 => unfold x)) | (subst x))
    | split

theorem probeRunEff_sound (p : Nat) (s : State) (hs : Sound qq t0 s) :
    Sound qq t0 (probeRunEff p s) := by
  unfold probeRunEff
  repeat' first
    | with_reducible intro _
    | with_reducible assumption
    | with_reducible apply wr_sound

theorem probeStopEff_sound (p : Nat) (s : State) (hs : Sound qq t0 s) :
    Sound qq t0 (probeStopEff p s) := by
  unfold probeStopEff
  repeat' first
    | with_reducible intro _
    | with_reducible assumption
    | with_reducible apply wr_sound

theorem probeClearEff_sound (p : Nat) (s : State) (hs : Sound qq t0 s) :
    Sound qq t0 (probeClearEff p s) := by
  unfold probeClearEff
  repeat' first
    | with_reducible intro _
    | with_reducible assumption
    | with_reducible apply wr_sound

theorem tclearEff_sound (s : State) (hs : Sound qq t0 s) :
    Sound qq t0 (tclearEff s) := by
  unfold tclearEff
  repeat' first
    | with_reducible intro _
    | with_reducible assumption
    | simp only [↓sound_mk_iff]

theorem execProbeRun_sound (q : Req) (p : Nat) (s : State) (hs : Sound qq t0 s) :
    SoundOut qq t0 (execProbeRun q p s) := by
  unfold execProbeRun
  repeat' first
    | with_reducible intro _
    | with_reducible assumption
    | with_reducible apply unitCmd_sound
    | with_reducible apply command_sound
    | with_reducible apply probeRunEff_sound
    | with_reducible apply soundOut_next
    | with_reducible apply soundOut_fault

theorem execProbeStop_sound (q : Req) (p : Nat) (s : State) (hs : Sound qq t0 s) :
    SoundOut qq t0 (execProbeStop q p s) := by
  unfold execProbeStop
  repeat' first
    | with_reducible intro _
    | with_reducible assumption
    | with_reducible apply unitCmd_sound
    | with_reducible apply command_sound
    | with_reducible apply probeStopEff_sound
    | with_reducible apply soundOut_next
    | with_reducible apply soundOut_fault

theorem execProbeClear_sound (q : Req) (p : Nat) (s : State) (hs : Sound qq t0 s) :
    SoundOut qq t0 (execProbeClear q p s) := by
  unfold execProbeClear
  repeat' first
    | with_reducible intro _
    | with_reducible assumption
    | with_reducible apply unitCmd_sound
    | with_reducible apply command_sound
    | with_reducible apply probeClearEff_sound
    | with_reducible apply soundOut_next
    | with_reducible apply soundOut_fault

set_option Elab.async false in
theorem execTclear_sound (q : Req) (v : Nat) (s : State) (hs : Sound qq t0 s) :
    SoundOut qq t0 (execTclear q v s) := by
  unfold execTclear
  repeat' first
    | with_reducible intro _
    | with_reducible assumption
    | with_reducible apply command_sound
    | with_reducible apply tclearEff_sound
    | with_reducible apply soundOut_next
    | with_reducible apply soundOut_fault

end Sys2Proof.Laws
end

