-- ==== Sys2Proof/Laws/SoundDmc.lean ====
section
/-! SUPPORT. What every operation of Machine/Dmc.lean keeps. -/
namespace Sys2Proof.Laws
open Sys2Proof Sys2Proof.Machine
set_option linter.unusedVariables false
set_option linter.unusedTactic false
set_option linter.unreachableTactic false

variable {qq : List Instr} {t0 : Nat}

theorem dmcFlag_sound (n b : Nat) (s : State) (hs : Sound qq t0 s) :
    Sound qq t0 (dmcFlag n b s) := by
  unfold dmcFlag
  repeat' first
    | with_reducible intro _
    | with_reducible assumption
    | with_reducible apply flag_sound

theorem dmcEnter_sound (n c : Nat) (s : State) (hs : Sound qq t0 s) :
    Sound qq t0 (dmcEnter n c s) := by
  unfold dmcEnter
  repeat' first
    | with_reducible intro _
    | with_reducible assumption
    | with_reducible apply dmcFlag_sound
    | with_reducible apply wr_sound

theorem spdRead_sound (n : Nat) (s : State) (hs : Sound qq t0 s) :
    Sound qq t0 (spdRead n s) := by
  unfold spdRead
  repeat' first
    | with_reducible intro _
    | with_reducible assumption
    | with_reducible apply wr_sound
    | simp only [↓sound_mk_iff]
    | with_reducible apply sound_foldl
    | with_reducible apply sound_foldl_snd
    | with_reducible apply sound_ite
    | (extract_lets x; first | (with_reducible refine sound_cut (s := x) ?_ ?_; (on_goal 2 => clear_value x); (on_goal 1 => unfold x)) | (subst x))
    | split

theorem ddrLock_sound (n : Nat) (v : Bool) (s : State) (hs : Sound qq t0 s) :
    Sound qq t0 (ddrLock n v s) := by
  unfold ddrLock
  repeat' first
    | with_reducible intro _
    | with_reducible assumption
    | with_reducible apply setBit_sound

theorem trainStart_sound (n : Nat) (s : State) (hs : Sound qq t0 s) :
    Sound qq t0 (trainStart n s) := by
  unfold trainStart
  repeat' first
    | with_reducible intro _
    | with_reducible assumption
    | with_reducible apply ddrLock_sound
    | with_reducible apply spdRead_sound
    | with_reducible apply dmcEnter_sound
    | with_reducible apply modDmc_sound
    | simp only [↓sound_mk_iff]
    | with_reducible apply sound_ite
    | (extract_lets x; first | (with_reducible refine sound_cut (s := x) ?_ ?_; (on_goal 2 => clear_value x); (on_goal 1 => unfold x)) | (subst x))
    | split

theorem execDmcTrain_sound (q : Req) (n : Nat) (s : State) (hs : Sound qq t0 s) :
    SoundOut qq t0 (execDmcTrain q n s) := by
  unfold execDmcTrain
  repeat' first
    | with_reducible intro _
    | with_reducible assumption
    | with_reducible apply unitCmd_sound
    | with_reducible apply command_sound
    | with_reducible apply trainStart_sound
    | with_reducible apply soundOut_next
    | with_reducible apply soundOut_fault

theorem execAutoTrainStart_sound (s : State) (hs : Sound qq t0 s) :
    SoundOut qq t0 (execAutoTrainStart s) := by
  unfold execAutoTrainStart
  repeat' first
    | with_reducible intro _
    | with_reducible assumption
    | with_reducible apply trainStart_sound
    | with_reducible apply soundOut_next
    | with_reducible apply soundOut_fault
    | with_reducible apply soundOut_ite
    | simp only [↓sound_mk_iff]
    | with_reducible apply sound_ite
    | with_reducible apply sound_foldl
    | split

theorem dmcChanged_sound (s : State) (hs : Sound qq t0 s) :
    Sound qq t0 (dmcChanged s) := by
  unfold dmcChanged
  repeat' first
    | with_reducible intro _
    | with_reducible assumption
    | with_reducible apply reopenIf_sound

theorem dmcFail_sound (n : Nat) (s : State) (hs : Sound qq t0 s) :
    Sound qq t0 (dmcFail n s) := by
  unfold dmcFail
  repeat' first
    | with_reducible intro _
    | with_reducible assumption
    | with_reducible apply dmcFlag_sound
    | with_reducible apply ddrLock_sound
    | with_reducible apply dmcEnter_sound
    | with_reducible apply wr_sound

theorem execTrainingEnd_sound (n : Nat) (eye : Bool) (s : State) (hs : Sound qq t0 s) :
    SoundOut qq t0 (execTrainingEnd n eye s) := by
  unfold execTrainingEnd
  repeat' first
    | with_reducible intro _
    | with_reducible assumption
    | with_reducible apply dmcFail_sound
    | with_reducible apply dmcEnter_sound
    | with_reducible apply modDmc_sound
    | with_reducible apply wr_sound
    | simp only [↓sound_mk_iff]
    | with_reducible apply sound_ite
    | with_reducible apply soundOut_next
    | with_reducible apply soundOut_fault
    | with_reducible apply soundOut_ite
    | with_reducible apply unitCmd_sound
    | (extract_lets x; first | (with_reducible refine sound_cut (s := x) ?_ ?_; (on_goal 2 => clear_value x); (on_goal 1 => unfold x)) | (subst x))
    | split

theorem setRate_sound (n v : Nat) (s : State) (hs : Sound qq t0 s) :
    Sound qq t0 (setRate n v s) := by
  unfold setRate
  repeat' first
    | with_reducible intro _
    | with_reducible assumption
    | with_reducible apply wr_sound
    | simp only [↓sound_mk_iff]
    | with_reducible apply sound_ite
    | (extract_lets x; first | (with_reducible refine sound_cut (s := x) ?_ ?_; (on_goal 2 => clear_value x); (on_goal 1 => unfold x)) | (subst x))
    | split

theorem retrainStart_sound (n : Nat) (s : State) (hs : Sound qq t0 s) :
    Sound qq t0 (retrainStart n s) := by
  unfold retrainStart
  repeat' first
    | with_reducible intro _
    | with_reducible assumption
    | with_reducible apply setRate_sound
    | with_reducible apply dmcChanged_sound
    | with_reducible apply dmcEnter_sound
    | with_reducible apply bump_sound
    | simp only [↓sound_mk_iff]
    | with_reducible apply sound_ite
    | (extract_lets x; first | (with_reducible refine sound_cut (s := x) ?_ ?_; (on_goal 2 => clear_value x); (on_goal 1 => unfold x)) | (subst x))
    | split

theorem execDmcRetrain_sound (q : Req) (n : Nat) (s : State) (hs : Sound qq t0 s) :
    SoundOut qq t0 (execDmcRetrain q n s) := by
  unfold execDmcRetrain
  repeat' first
    | with_reducible intro _
    | with_reducible assumption
    | with_reducible apply unitCmd_sound
    | with_reducible apply command_sound
    | with_reducible apply retrainStart_sound
    | with_reducible apply soundOut_next
    | with_reducible apply soundOut_fault

theorem execAutoRetrain_sound (n : Nat) (s : State) (hs : Sound qq t0 s) :
    SoundOut qq t0 (execAutoRetrain n s) := by
  unfold execAutoRetrain
  repeat' first
    | with_reducible intro _
    | with_reducible assumption
    | with_reducible apply retrainStart_sound
    | with_reducible apply modDmc_sound
    | with_reducible apply upto_sound
    | simp only [↓sound_mk_iff]
    | with_reducible apply sound_ite
    | with_reducible apply soundOut_next
    | with_reducible apply soundOut_fault
    | with_reducible apply soundOut_ite
    | with_reducible apply unitCmd_sound
    | (extract_lets x; first | (with_reducible refine sound_cut (s := x) ?_ ?_; (on_goal 2 => clear_value x); (on_goal 1 => unfold x)) | (subst x))
    | split

theorem execRetrainingEnd_sound (n : Nat) (ok : Bool) (s : State) (hs : Sound qq t0 s) :
    SoundOut qq t0 (execRetrainingEnd n ok s) := by
  unfold execRetrainingEnd
  repeat' first
    | with_reducible intro _
    | with_reducible assumption
    | with_reducible apply setRate_sound
    | with_reducible apply dmcFail_sound
    | with_reducible apply dmcEnter_sound
    | with_reducible apply modDmc_sound
    | simp only [↓sound_mk_iff]
    | with_reducible apply sound_ite
    | with_reducible apply soundOut_next
    | with_reducible apply soundOut_fault
    | with_reducible apply soundOut_ite
    | with_reducible apply unitCmd_sound
    | (extract_lets x; first | (with_reducible refine sound_cut (s := x) ?_ ?_; (on_goal 2 => clear_value x); (on_goal 1 => unfold x)) | (subst x))
    | split

theorem execDimmTempRead_sound (n temp : Nat) (s : State) (hs : Sound qq t0 s) :
    SoundOut qq t0 (execDimmTempRead n temp s) := by
  unfold execDimmTempRead
  repeat' first
    | with_reducible intro _
    | with_reducible assumption
    | with_reducible apply dmcFlag_sound
    | with_reducible apply modDmc_sound
    | simp only [↓sound_mk_iff]
    | with_reducible apply sound_ite
    | with_reducible apply soundOut_next
    | with_reducible apply soundOut_fault
    | with_reducible apply soundOut_ite
    | with_reducible apply unitCmd_sound
    | (extract_lets x; first | (with_reducible refine sound_cut (s := x) ?_ ?_; (on_goal 2 => clear_value x); (on_goal 1 => unfold x)) | (subst x))
    | split

theorem execDdrPllLock_sound (n : Nat) (s : State) (hs : Sound qq t0 s) :
    SoundOut qq t0 (execDdrPllLock n s) := by
  unfold execDdrPllLock
  repeat' first
    | with_reducible intro _
    | with_reducible assumption
    | with_reducible apply ddrLock_sound
    | with_reducible apply crhFlag_sound
    | with_reducible apply modDmc_sound
    | simp only [↓sound_mk_iff]
    | with_reducible apply sound_ite
    | with_reducible apply soundOut_next
    | with_reducible apply soundOut_fault
    | with_reducible apply soundOut_ite
    | with_reducible apply unitCmd_sound
    | (extract_lets x; first | (with_reducible refine sound_cut (s := x) ?_ ?_; (on_goal 2 => clear_value x); (on_goal 1 => unfold x)) | (subst x))
    | split

theorem excludeNamed_sound (s : State) (hs : Sound qq t0 s) :
    Sound qq t0 (excludeNamed s) := by
  unfold excludeNamed
  repeat' first
    | with_reducible intro _
    | with_reducible assumption
    | with_reducible apply ddrLock_sound
    | with_reducible apply wr_sound
    | with_reducible apply dmcFlag_sound
    | with_reducible apply sound_ite
    | with_reducible apply sound_foldl
    | (extract_lets x; first | (with_reducible refine sound_cut (s := x) ?_ ?_; (on_goal 2 => clear_value x); (on_goal 1 => unfold x)) | (subst x))
    | split

theorem formMap_sound (s : State) (hs : Sound qq t0 s) :
    Sound qq t0 (formMap s) := by
  unfold formMap
  repeat' first
    | with_reducible intro _
    | with_reducible assumption
    | with_reducible apply excludeNamed_sound
    | with_reducible apply wr_sound
    | simp only [↓sound_mk_iff]
    | with_reducible apply sound_ite
    | (extract_lets x; first | (with_reducible refine sound_cut (s := x) ?_ ?_; (on_goal 2 => clear_value x); (on_goal 1 => unfold x)) | (subst x))
    | split

theorem execMapForm_sound (s : State) (hs : Sound qq t0 s) :
    SoundOut qq t0 (execMapForm s) := by
  unfold execMapForm
  repeat' first
    | with_reducible intro _
    | with_reducible assumption
    | with_reducible apply formMap_sound
    | with_reducible apply soundOut_next
    | with_reducible apply soundOut_fault
    | with_reducible apply soundOut_ite
    | with_reducible apply sound_ite
    | split

theorem excludeEff_sound (v : Nat) (s : State) (hs : Sound qq t0 s) :
    Sound qq t0 (excludeEff v s) := by
  unfold excludeEff
  repeat' first
    | with_reducible intro _
    | with_reducible assumption
    | with_reducible apply formMap_sound
    | with_reducible apply dmcChanged_sound
    | with_reducible apply wr_sound
    | simp only [↓sound_mk_iff]
    | with_reducible apply sound_ite
    | (extract_lets x; first | (with_reducible refine sound_cut (s := x) ?_ ?_; (on_goal 2 => clear_value x); (on_goal 1 => unfold x)) | (subst x))
    | split

theorem execExcludeWrite_sound (q : Req) (v : Nat) (s : State) (hs : Sound qq t0 s) :
    SoundOut qq t0 (execExcludeWrite q v s) := by
  unfold execExcludeWrite
  repeat' first
    | with_reducible intro _
    | with_reducible assumption
    | with_reducible apply writeTo_sound
    | with_reducible apply excludeEff_sound
    | with_reducible apply soundOut_next
    | with_reducible apply soundOut_fault

theorem execRetainWrite_sound (q : Req) (v : Nat) (s : State) (hs : Sound qq t0 s) :
    SoundOut qq t0 (execRetainWrite q v s) := by
  unfold execRetainWrite
  repeat' first
    | with_reducible intro _
    | with_reducible assumption
    | with_reducible apply writeTo_sound
    | with_reducible apply wr_sound
    | with_reducible apply soundOut_next
    | with_reducible apply soundOut_fault

theorem acceptReq_sound (n : Nat) (r : MeshReq) (s : State) (hs : Sound qq t0 s) :
    Sound qq t0 (acceptReq n r s) := by
  unfold acceptReq
  repeat' first
    | with_reducible intro _
    | with_reducible assumption
    | with_reducible apply dmcFlag_sound
    | with_reducible apply meshAnswer_sound
    | with_reducible apply modDmc_sound
    | with_reducible apply bump_sound
    | simp only [↓sound_mk_iff]
    | with_reducible apply sound_ite
    | (extract_lets x; first | (with_reducible refine sound_cut (s := x) ?_ ?_; (on_goal 2 => clear_value x); (on_goal 1 => unfold x)) | (subst x))
    | split

theorem execDmcAccept_sound (n : Nat) (s : State) (hs : Sound qq t0 s) :
    SoundOut qq t0 (execDmcAccept n s) := by
  unfold execDmcAccept
  repeat' first
    | with_reducible intro _
    | with_reducible assumption
    | with_reducible apply acceptReq_sound
    | with_reducible apply upto_sound
    | simp only [↓sound_mk_iff]
    | with_reducible apply sound_foldl
    | with_reducible apply sound_foldl_snd
    | with_reducible apply sound_ite
    | with_reducible apply soundOut_next
    | with_reducible apply soundOut_fault
    | with_reducible apply soundOut_ite
    | with_reducible apply unitCmd_sound
    | (extract_lets x; first | (with_reducible refine sound_cut (s := x) ?_ ?_; (on_goal 2 => clear_value x); (on_goal 1 => unfold x)) | (subst x))
    | split

theorem throttle_sound (n src cls t : Nat) (s : State) (hs : Sound qq t0 s) :
    Sound qq t0 (throttle n src cls t s) := by
  unfold throttle
  repeat' first
    | with_reducible intro _
    | with_reducible assumption
    | with_reducible apply dmcFlag_sound
    | with_reducible apply modDmc_sound
    | simp only [↓sound_mk_iff]
    | with_reducible apply sound_ite
    | (extract_lets x; first | (with_reducible refine sound_cut (s := x) ?_ ?_; (on_goal 2 => clear_value x); (on_goal 1 => unfold x)) | (subst x))
    | split

theorem rfmIssue_sound (n bank : Nat) (s : State) (hs : Sound qq t0 s) :
    Sound qq t0 (rfmIssue n bank s) := by
  unfold rfmIssue
  repeat' first
    | with_reducible intro _
    | with_reducible assumption
    | with_reducible apply modDmc_sound
    | with_reducible apply drawn_sound
    | simp only [↓sound_mk_iff]
    | with_reducible apply sound_ite
    | (extract_lets x; first | (with_reducible refine sound_cut (s := x) ?_ ?_; (on_goal 2 => clear_value x); (on_goal 1 => unfold x)) | (subst x))
    | split

theorem countRow_sound (n row t : Nat) (r : Option MeshReq) (bank : Nat) (s : State) (hs : Sound qq t0 s) :
    Sound qq t0 (countRow n row t r bank s) := by
  unfold countRow
  repeat' first
    | with_reducible intro _
    | with_reducible assumption
    | with_reducible apply rfmIssue_sound
    | with_reducible apply throttle_sound
    | with_reducible apply modDmc_sound
    | with_reducible apply bump_sound
    | simp only [↓sound_mk_iff]
    | with_reducible apply sound_ite
    | (extract_lets x; first | (with_reducible refine sound_cut (s := x) ?_ ?_; (on_goal 2 => clear_value x); (on_goal 1 => unfold x)) | (subst x))
    | split

theorem activate_sound (n b row t cycle : Nat) (r : Option MeshReq) (s : State) (hs : Sound qq t0 s) :
    Sound qq t0 (activate n b row t cycle r s) := by
  unfold activate
  repeat' first
    | with_reducible intro _
    | with_reducible assumption
    | with_reducible apply countRow_sound
    | with_reducible apply modDmc_sound
    | simp only [↓sound_mk_iff]
    | with_reducible apply sound_ite
    | (extract_lets x; first | (with_reducible refine sound_cut (s := x) ?_ ?_; (on_goal 2 => clear_value x); (on_goal 1 => unfold x)) | (subst x))
    | split

theorem issueAccess_sound (n : Nat) (x : Access) (t : Nat) (s : State) (hs : Sound qq t0 s) :
    Sound qq t0 (issueAccess n x t s) := by
  unfold issueAccess
  repeat' first
    | with_reducible intro _
    | with_reducible assumption
    | with_reducible apply activate_sound
    | with_reducible apply modDmc_sound
    | simp only [↓sound_mk_iff]
    | with_reducible apply sound_ite
    | (extract_lets x; first | (with_reducible refine sound_cut (s := x) ?_ ?_; (on_goal 2 => clear_value x); (on_goal 1 => unfold x)) | (subst x))
    | split

theorem issuePatrol_sound (n : Nat) (p : Patrol) (t : Nat) (s : State) (hs : Sound qq t0 s) :
    Sound qq t0 (issuePatrol n p t s) := by
  unfold issuePatrol
  repeat' first
    | with_reducible intro _
    | with_reducible assumption
    | with_reducible apply activate_sound
    | with_reducible apply modDmc_sound
    | simp only [↓sound_mk_iff]
    | with_reducible apply sound_ite
    | (extract_lets x; first | (with_reducible refine sound_cut (s := x) ?_ ?_; (on_goal 2 => clear_value x); (on_goal 1 => unfold x)) | (subst x))
    | split

theorem execDmcAccessIssue_sound (n : Nat) (s : State) (hs : Sound qq t0 s) :
    SoundOut qq t0 (execDmcAccessIssue n s) := by
  unfold execDmcAccessIssue
  repeat' first
    | with_reducible intro _
    | with_reducible assumption
    | with_reducible apply issuePatrol_sound
    | with_reducible apply issueAccess_sound
    | with_reducible apply modDmc_sound
    | with_reducible apply upto_sound
    | simp only [↓sound_mk_iff]
    | with_reducible apply sound_foldl
    | with_reducible apply sound_foldl_snd
    | with_reducible apply sound_ite
    | with_reducible apply soundOut_next
    | with_reducible apply soundOut_fault
    | with_reducible apply soundOut_ite
    | with_reducible apply unitCmd_sound
    | (extract_lets x; first | (with_reducible refine sound_cut (s := x) ?_ ?_; (on_goal 2 => clear_value x); (on_goal 1 => unfold x)) | (subst x))
    | split

theorem finishReq_sound (n : Nat) (bad : Bool) (data : Nat) (s : State) (x : Trk) (hs : Sound qq t0 s) :
    Sound qq t0 (finishReq n bad data s x) := by
  unfold finishReq
  repeat' first
    | with_reducible intro _
    | with_reducible assumption
    | with_reducible apply bump_sound
    | with_reducible apply dmcFlag_sound
    | with_reducible apply meshAnswer_sound
    | with_reducible apply sound_ite
    | (extract_lets x; first | (with_reducible refine sound_cut (s := x) ?_ ?_; (on_goal 2 => clear_value x); (on_goal 1 => unfold x)) | (subst x))
    | split

theorem applyBurst_sound (r : MeshReq) (s : State) (b : Nat) (hs : Sound qq t0 s) : Sound qq t0 (applyBurst r s b) := by
  unfold applyBurst
  dsimp only
  split
  · exact hs
  · exact store_sound _ _ _ _ hs
  · exact ⟨hs.pending, hs.now, mem_wf_or hs.mem, hs.reg⟩

theorem burstCorrected_sound (n : Nat) (s : State) (hs : Sound qq t0 s) :
    Sound qq t0 (burstCorrected n s) := by
  unfold burstCorrected
  repeat' first
    | with_reducible intro _
    | with_reducible assumption
    | with_reducible apply dmcFlag_sound
    | with_reducible apply bump_sound

theorem burstLost_sound (n a : Nat) (s : State) (hs : Sound qq t0 s) :
    Sound qq t0 (burstLost n a s) := by
  unfold burstLost
  repeat' first
    | with_reducible intro _
    | with_reducible assumption
    | with_reducible apply dmcFlag_sound
    | with_reducible apply bump_sound
    | with_reducible apply wr_sound

theorem checkBurst_sound (n a : Nat) (e : Ecc) (s : State) (hs : Sound qq t0 s) :
    Sound qq t0 (checkBurst n a e s).1 := by
  unfold checkBurst
  repeat' first
    | with_reducible intro _
    | with_reducible assumption
    | with_reducible apply burstCorrected_sound
    | with_reducible apply burstLost_sound
    | with_reducible apply drawn_sound
    | with_reducible apply store_sound
    | with_reducible apply sound_ite
    | split

theorem checkBursts_sound (n : Nat) : ∀ (z0 : List Nat) (z1 : List Ecc) (z2 : State), Sound qq t0 z2 →
    Sound qq t0 (checkBursts n z0 z1 z2).1
  | b :: bs, e :: es, s, h => by
    unfold checkBursts
    exact checkBursts_sound n bs es _ (checkBurst_sound n _ e s h)
  | [], _, _, h => by unfold checkBursts; exact h
  | _ :: _, [], _, h => by unfold checkBursts; exact h

theorem completeAccess_sound (n : Nat) (x : Access) (e : List Ecc) (s : State) (hs : Sound qq t0 s) :
    Sound qq t0 (completeAccess n x e s) := by
  unfold completeAccess
  repeat' first
    | with_reducible intro _
    | with_reducible assumption
    | with_reducible apply checkBursts_sound
    | with_reducible apply applyBurst_sound
    | with_reducible apply finishReq_sound
    | with_reducible apply modDmc_sound
    | simp only [↓sound_mk_iff]
    | with_reducible apply sound_foldl
    | with_reducible apply sound_foldl_snd
    | with_reducible apply sound_ite
    | (extract_lets x; first | (with_reducible refine sound_cut (s := x) ?_ ?_; (on_goal 2 => clear_value x); (on_goal 1 => unfold x)) | (subst x))
    | split

theorem completePatrol_sound (n : Nat) (p : Patrol) (s : State) (hs : Sound qq t0 s) :
    Sound qq t0 (completePatrol n p s) := by
  unfold completePatrol
  repeat' first
    | with_reducible intro _
    | with_reducible assumption
    | with_reducible apply checkBurst_sound
    | with_reducible apply modDmc_sound
    | simp only [↓sound_mk_iff]
    | with_reducible apply sound_ite
    | (extract_lets x; first | (with_reducible refine sound_cut (s := x) ?_ ?_; (on_goal 2 => clear_value x); (on_goal 1 => unfold x)) | (subst x))
    | split

theorem execDmcAccessComplete_sound (n : Nat) (ecc : List Ecc) (s : State) (hs : Sound qq t0 s) :
    SoundOut qq t0 (execDmcAccessComplete n ecc s) := by
  unfold execDmcAccessComplete
  repeat' first
    | with_reducible intro _
    | with_reducible assumption
    | with_reducible apply completePatrol_sound
    | with_reducible apply completeAccess_sound
    | with_reducible apply upto_sound
    | simp only [↓sound_mk_iff]
    | with_reducible apply sound_ite
    | with_reducible apply soundOut_next
    | with_reducible apply soundOut_fault
    | with_reducible apply soundOut_ite
    | with_reducible apply unitCmd_sound
    | (extract_lets x; first | (with_reducible refine sound_cut (s := x) ?_ ?_; (on_goal 2 => clear_value x); (on_goal 1 => unfold x)) | (subst x))
    | split

theorem execAgePromotion_sound (n : Nat) (s : State) (hs : Sound qq t0 s) :
    SoundOut qq t0 (execAgePromotion n s) := by
  unfold execAgePromotion
  repeat' first
    | with_reducible intro _
    | with_reducible assumption
    | with_reducible apply modDmc_sound
    | with_reducible apply upto_sound
    | with_reducible apply bump_sound
    | simp only [↓sound_mk_iff]
    | with_reducible apply sound_foldl
    | with_reducible apply sound_foldl_snd
    | with_reducible apply sound_ite
    | with_reducible apply soundOut_next
    | with_reducible apply soundOut_fault
    | with_reducible apply soundOut_ite
    | with_reducible apply unitCmd_sound
    | (extract_lets x; first | (with_reducible refine sound_cut (s := x) ?_ ?_; (on_goal 2 => clear_value x); (on_goal 1 => unfold x)) | (subst x))
    | split

theorem execThrottleEnd_sound (n : Nat) (s : State) (hs : Sound qq t0 s) :
    SoundOut qq t0 (execThrottleEnd n s) := by
  unfold execThrottleEnd
  repeat' first
    | with_reducible intro _
    | with_reducible assumption
    | with_reducible apply unitCmd_sound
    | with_reducible apply upto_sound
    | with_reducible apply modDmc_sound
    | with_reducible apply soundOut_next
    | with_reducible apply soundOut_fault
    | with_reducible apply soundOut_ite
    | simp only [↓sound_mk_iff]
    | with_reducible apply sound_ite
    | with_reducible apply sound_foldl
    | (extract_lets x; first | (with_reducible refine sound_cut (s := x) ?_ ?_; (on_goal 2 => clear_value x); (on_goal 1 => unfold x)) | (subst x))
    | split

theorem execRowTableClear_sound (n : Nat) (s : State) (hs : Sound qq t0 s) :
    SoundOut qq t0 (execRowTableClear n s) := by
  unfold execRowTableClear
  repeat' first
    | with_reducible intro _
    | with_reducible assumption
    | with_reducible apply unitCmd_sound
    | with_reducible apply upto_sound
    | with_reducible apply modDmc_sound
    | with_reducible apply soundOut_next
    | with_reducible apply soundOut_fault
    | simp only [↓sound_mk_iff]

theorem execRefresh_sound (n : Nat) (s : State) (hs : Sound qq t0 s) :
    SoundOut qq t0 (execRefresh n s) := by
  unfold execRefresh
  repeat' first
    | with_reducible intro _
    | with_reducible assumption
    | with_reducible apply unitCmd_sound
    | with_reducible apply modDmc_sound
    | with_reducible apply soundOut_next
    | with_reducible apply soundOut_fault
    | with_reducible apply soundOut_ite
    | simp only [↓sound_mk_iff]
    | with_reducible apply sound_ite
    | split

set_option Elab.async false in
theorem execPatrolScrub_sound (n : Nat) (ecc : Ecc) (s : State) (hs : Sound qq t0 s) :
    SoundOut qq t0 (execPatrolScrub n ecc s) := by
  unfold execPatrolScrub
  repeat' first
    | with_reducible intro _
    | with_reducible assumption
    | with_reducible apply modDmc_sound
    | simp only [↓sound_mk_iff]
    | with_reducible apply sound_ite
    | with_reducible apply soundOut_next
    | with_reducible apply soundOut_fault
    | with_reducible apply soundOut_ite
    | with_reducible apply unitCmd_sound
    | (extract_lets x; first | (with_reducible refine sound_cut (s := x) ?_ ?_; (on_goal 2 => clear_value x); (on_goal 1 => unfold x)) | (subst x))
    | split

end Sys2Proof.Laws
end

