-- ==== Sys2Proof/Laws/SoundTime.lean ====
section
/-! SUPPORT. What every operation of Machine/Time.lean keeps. -/
namespace Sys2Proof.Laws
open Sys2Proof Sys2Proof.Machine
set_option linter.unusedVariables false
set_option linter.unusedTactic false
set_option linter.unreachableTactic false

variable {qq : List Instr} {t0 : Nat}

theorem tmuFlag_sound (b : Nat) (s : State) (hs : Sound qq t0 s) :
    Sound qq t0 (tmuFlag b s) := by
  unfold tmuFlag
  repeat' first
    | with_reducible intro _
    | with_reducible assumption
    | with_reducible apply flag_sound

theorem clockMove_sound (base : Nat) (stepped : Bool) (s : State) (hs : Sound qq t0 s) :
    Sound qq t0 (clockMove base stepped s) := by
  unfold clockMove
  repeat' first
    | with_reducible intro _
    | with_reducible assumption
    | simp only [↓sound_mk_iff]
    | with_reducible apply sound_ite
    | (extract_lets x; first | (with_reducible refine sound_cut (s := x) ?_ ?_; (on_goal 2 => clear_value x); (on_goal 1 => unfold x)) | (subst x))
    | split

theorem setIncr_sound (v : Nat) (s : State) (hs : Sound qq t0 s) :
    Sound qq t0 (setIncr v s) := by
  unfold setIncr
  repeat' first
    | with_reducible intro _
    | with_reducible assumption
    | with_reducible apply clockMove_sound
    | with_reducible apply wr_sound

theorem stepTo_sound (base : Nat) (s : State) (hs : Sound qq t0 s) :
    Sound qq t0 (stepTo base s) := by
  unfold stepTo
  repeat' first
    | with_reducible intro _
    | with_reducible assumption
    | with_reducible apply tmuFlag_sound
    | with_reducible apply clockMove_sound
    | with_reducible apply bump_sound

theorem stepBy_sound (d : Int) (s : State) (hs : Sound qq t0 s) :
    Sound qq t0 (stepBy d s) := by
  unfold stepBy
  repeat' first
    | with_reducible intro _
    | with_reducible assumption
    | with_reducible apply stepTo_sound

theorem stepRefused_sound (s : State) (hs : Sound qq t0 s) :
    Sound qq t0 (stepRefused s) := by
  unfold stepRefused
  repeat' first
    | with_reducible intro _
    | with_reducible assumption
    | with_reducible apply tmuFlag_sound
    | with_reducible apply bump_sound

theorem setValid_sound (v : Bool) (s : State) (hs : Sound qq t0 s) :
    Sound qq t0 (setValid v s) := by
  unfold setValid
  repeat' first
    | with_reducible intro _
    | with_reducible assumption
    | with_reducible apply setBit_sound

theorem validRise_sound (s : State) (hs : Sound qq t0 s) :
    Sound qq t0 (validRise s) := by
  unfold validRise
  repeat' first
    | with_reducible intro _
    | with_reducible assumption
    | with_reducible apply tmuFlag_sound
    | with_reducible apply setValid_sound
    | with_reducible apply sound_ite
    | split

theorem dropVeStart_sound (n : Nat) (s : State) (hs : Sound qq t0 s) :
    Sound qq t0 (dropVeStart n s) := by
  unfold dropVeStart
  repeat' first
    | with_reducible intro _
    | with_reducible assumption
    | with_reducible apply veStopEff_sound
    | with_reducible apply raise_sound
    | with_reducible apply sound_ite
    | split

theorem dropDspStart_sound (n : Nat) (s : State) (hs : Sound qq t0 s) :
    Sound qq t0 (dropDspStart n s) := by
  unfold dropDspStart
  repeat' first
    | with_reducible intro _
    | with_reducible assumption
    | with_reducible apply schedFree_sound
    | with_reducible apply wr_sound
    | with_reducible apply modDsp_sound
    | with_reducible apply raise_sound
    | simp only [↓sound_mk_iff]
    | with_reducible apply sound_ite
    | split

theorem dropAperture_sound (a : Nat) (s : State) (hs : Sound qq t0 s) :
    Sound qq t0 (dropAperture a s) := by
  unfold dropAperture
  repeat' first
    | with_reducible intro _
    | with_reducible assumption
    | with_reducible apply wr_sound
    | with_reducible apply sound_ite
    | split

theorem dropTrigger_sound (t : Nat) (s : State) (hs : Sound qq t0 s) :
    Sound qq t0 (dropTrigger t s) := by
  unfold dropTrigger
  repeat' first
    | with_reducible intro _
    | with_reducible assumption
    | with_reducible apply tmuFlag_sound
    | with_reducible apply modTrg_sound
    | with_reducible apply wr_sound
    | simp only [↓sound_mk_iff]
    | with_reducible apply sound_ite
    | (extract_lets x; first | (with_reducible refine sound_cut (s := x) ?_ ?_; (on_goal 2 => clear_value x); (on_goal 1 => unfold x)) | (subst x))
    | split

theorem dropTimedApply_sound (s : State) (hs : Sound qq t0 s) :
    Sound qq t0 (dropTimedApply s) := by
  unfold dropTimedApply
  repeat' first
    | with_reducible intro _
    | with_reducible assumption
    | with_reducible apply disarmTo_sound
    | with_reducible apply wr_sound
    | with_reducible apply raise_sound
    | with_reducible apply sound_ite
    | split

theorem validFall_sound (s : State) (hs : Sound qq t0 s) :
    Sound qq t0 (validFall s) := by
  unfold validFall
  repeat' first
    | with_reducible intro _
    | with_reducible assumption
    | with_reducible apply dropTimedApply_sound
    | with_reducible apply tmuFlag_sound
    | with_reducible apply setValid_sound
    | with_reducible apply dropDspStart_sound
    | with_reducible apply dropVeStart_sound
    | with_reducible apply dropTrigger_sound
    | with_reducible apply dropAperture_sound
    | with_reducible apply sound_ite
    | with_reducible apply sound_foldl
    | (extract_lets x; first | (with_reducible refine sound_cut (s := x) ?_ ?_; (on_goal 2 => clear_value x); (on_goal 1 => unfold x)) | (subst x))
    | split

set_option Elab.async false in
theorem holdover_sound (s : State) (hs : Sound qq t0 s) :
    Sound qq t0 (holdover s) := by
  unfold holdover
  repeat' first
    | with_reducible intro _
    | with_reducible assumption
    | with_reducible apply tmuFlag_sound
    | with_reducible apply validFall_sound
    | with_reducible apply setBit_sound
    | with_reducible apply modTmu_sound
    | simp only [↓sound_mk_iff]
    | with_reducible apply sound_ite
    | split

end Sys2Proof.Laws
end

