-- ==== Sys2Proof/Laws/SoundLnk.lean ====
section
/-! SUPPORT. What every operation of Machine/Lnk.lean keeps. -/
namespace Sys2Proof.Laws
open Sys2Proof Sys2Proof.Machine
set_option linter.unusedVariables false
set_option linter.unusedTactic false
set_option linter.unreachableTactic false

variable {qq : List Instr} {t0 : Nat}

theorem lnkFlag_sound (n b : Nat) (s : State) (hs : Sound qq t0 s) :
    Sound qq t0 (lnkFlag n b s) := by
  unfold lnkFlag
  repeat' first
    | with_reducible intro _
    | with_reducible assumption
    | with_reducible apply flag_sound
    | with_reducible apply sound_ite
    | split

theorem freeBlocks_sound (n c k : Nat) (s : State) (hs : Sound qq t0 s) :
    Sound qq t0 (freeBlocks n c k s) := by
  unfold freeBlocks
  repeat' first
    | with_reducible intro _
    | with_reducible assumption
    | with_reducible apply modLane_sound
    | simp only [↓sound_mk_iff]

theorem laneFlag_sound (n b e : Nat) (s : State) (hs : Sound qq t0 s) :
    Sound qq t0 (laneFlag n b e s) := by
  unfold laneFlag
  repeat' first
    | with_reducible intro _
    | with_reducible assumption
    | with_reducible apply tmuFlag_sound
    | with_reducible apply note_sound
    | with_reducible apply setBit_sound
    | simp only [↓sound_mk_iff]
    | with_reducible apply sound_ite
    | (extract_lets x; first | (with_reducible refine sound_cut (s := x) ?_ ?_; (on_goal 2 => clear_value x); (on_goal 1 => unfold x)) | (subst x))
    | split

theorem noteSent_sound (n id stamp : Nat) (s : State) (hs : Sound qq t0 s) :
    Sound qq t0 (noteSent n id stamp s) := by
  unfold noteSent
  repeat' first
    | with_reducible intro _
    | with_reducible assumption
    | with_reducible apply laneFlag_sound
    | with_reducible apply modLaneTime_sound
    | with_reducible apply bump_sound
    | simp only [↓sound_mk_iff]
    | with_reducible apply sound_ite
    | (extract_lets x; first | (with_reducible refine sound_cut (s := x) ?_ ?_; (on_goal 2 => clear_value x); (on_goal 1 => unfold x)) | (subst x))
    | split

theorem afterSend_sound (n : Nat) (m : TxMsg) (s : State) (hs : Sound qq t0 s) :
    Sound qq t0 (afterSend n m s) := by
  unfold afterSend
  repeat' first
    | with_reducible intro _
    | with_reducible assumption
    | with_reducible apply noteSent_sound
    | with_reducible apply modLaneTime_sound
    | with_reducible apply modTmu_sound
    | with_reducible apply bump_sound
    | simp only [↓sound_mk_iff]
    | with_reducible apply sound_ite
    | (extract_lets x; first | (with_reducible refine sound_cut (s := x) ?_ ?_; (on_goal 2 => clear_value x); (on_goal 1 => unfold x)) | (subst x))
    | split

theorem sendMsg_sound (n : Nat) (m : TxMsg) (s : State) (hs : Sound qq t0 s) :
    Sound qq t0 (sendMsg n m s) := by
  unfold sendMsg
  repeat' first
    | with_reducible intro _
    | with_reducible assumption
    | with_reducible apply afterSend_sound
    | with_reducible apply modLane_sound
    | simp only [↓sound_mk_iff]
    | with_reducible apply sound_ite
    | (extract_lets x; first | (with_reducible refine sound_cut (s := x) ?_ ?_; (on_goal 2 => clear_value x); (on_goal 1 => unfold x)) | (subst x))
    | split

theorem sendMsgs_sound (n : Nat) : ∀ (z0 : Nat) (z1 : State), Sound qq t0 z1 → Sound qq t0 (sendMsgs n z0 z1)
  | 0, _, h => h
  | k + 1, s, h => by
    unfold sendMsgs
    split
    · exact sendMsgs_sound n k _ (sendMsg_sound n _ _ (modLane_sound _ _ _ h))
    · exact h

theorem trySend_sound (n : Nat) (s : State) (hs : Sound qq t0 s) :
    Sound qq t0 (trySend n s) := by
  unfold trySend
  repeat' first
    | with_reducible intro _
    | with_reducible assumption
    | with_reducible apply sendMsgs_sound
    | with_reducible apply modLane_sound
    | simp only [↓sound_mk_iff]
    | with_reducible apply sound_ite
    | (extract_lets x; first | (with_reducible refine sound_cut (s := x) ?_ ?_; (on_goal 2 => clear_value x); (on_goal 1 => unfold x)) | (subst x))
    | split

theorem releaseSlot_sound (k : Nat) (s : State) (hs : Sound qq t0 s) :
    Sound qq t0 (releaseSlot k s) := by
  unfold releaseSlot
  repeat' first
    | with_reducible intro _
    | with_reducible assumption
    | with_reducible apply releaseMirror_sound
    | with_reducible apply raise_sound
    | with_reducible apply wr_sound
    | with_reducible apply modSlot_sound
    | with_reducible apply setBit_sound
    | with_reducible apply modMaster_sound
    | simp only [↓sound_mk_iff]
    | with_reducible apply sound_ite
    | (extract_lets x; first | (with_reducible refine sound_cut (s := x) ?_ ?_; (on_goal 2 => clear_value x); (on_goal 1 => unfold x)) | (subst x))
    | split

theorem discardLane_sound (n : Nat) (s : State) (hs : Sound qq t0 s) :
    Sound qq t0 (discardLane n s) := by
  unfold discardLane
  repeat' first
    | with_reducible intro _
    | with_reducible assumption
    | with_reducible apply releaseSlot_sound
    | with_reducible apply lnkFlag_sound
    | with_reducible apply holdover_sound
    | with_reducible apply modLane_sound
    | with_reducible apply bump_sound
    | with_reducible apply addTo_sound
    | simp only [↓sound_mk_iff]
    | with_reducible apply sound_foldl
    | with_reducible apply sound_foldl_snd
    | with_reducible apply sound_ite
    | (extract_lets x; first | (with_reducible refine sound_cut (s := x) ?_ ?_; (on_goal 2 => clear_value x); (on_goal 1 => unfold x)) | (subst x))
    | split

theorem laneEnter_sound (n c : Nat) (s : State) (hs : Sound qq t0 s) :
    Sound qq t0 (laneEnter n c s) := by
  unfold laneEnter
  repeat' first
    | with_reducible intro _
    | with_reducible assumption
    | with_reducible apply discardLane_sound
    | with_reducible apply lnkFlag_sound
    | with_reducible apply modLane_sound
    | with_reducible apply wr_sound
    | simp only [↓sound_mk_iff]
    | with_reducible apply sound_ite
    | (extract_lets x; first | (with_reducible refine sound_cut (s := x) ?_ ?_; (on_goal 2 => clear_value x); (on_goal 1 => unfold x)) | (subst x))
    | split

theorem laneStartEff_sound (n : Nat) (s : State) (hs : Sound qq t0 s) :
    Sound qq t0 (laneStartEff n s) := by
  unfold laneStartEff
  repeat' first
    | with_reducible intro _
    | with_reducible assumption
    | with_reducible apply laneEnter_sound
    | with_reducible apply wr_sound
    | with_reducible apply sound_ite
    | split

theorem execLaneStart_sound (q : Req) (n : Nat) (s : State) (hs : Sound qq t0 s) :
    SoundOut qq t0 (execLaneStart q n s) := by
  unfold execLaneStart
  repeat' first
    | with_reducible intro _
    | with_reducible assumption
    | with_reducible apply unitCmd_sound
    | with_reducible apply command_sound
    | with_reducible apply laneStartEff_sound
    | with_reducible apply soundOut_next
    | with_reducible apply soundOut_fault

theorem execLaneReset_sound (q : Req) (n : Nat) (s : State) (hs : Sound qq t0 s) :
    SoundOut qq t0 (execLaneReset q n s) := by
  unfold execLaneReset
  repeat' first
    | with_reducible intro _
    | with_reducible assumption
    | with_reducible apply unitCmd_sound
    | with_reducible apply command_sound
    | with_reducible apply laneEnter_sound
    | with_reducible apply soundOut_next
    | with_reducible apply soundOut_fault

theorem execLaneRetrain_sound (q : Req) (n : Nat) (s : State) (hs : Sound qq t0 s) :
    SoundOut qq t0 (execLaneRetrain q n s) := by
  unfold execLaneRetrain
  repeat' first
    | with_reducible intro _
    | with_reducible assumption
    | with_reducible apply unitCmd_sound
    | with_reducible apply command_sound
    | with_reducible apply laneEnter_sound
    | with_reducible apply soundOut_next
    | with_reducible apply soundOut_fault

theorem execAdaptEnd_sound (n : Nat) (s : State) (hs : Sound qq t0 s) :
    SoundOut qq t0 (execAdaptEnd n s) := by
  unfold execAdaptEnd
  repeat' first
    | with_reducible intro _
    | with_reducible assumption
    | with_reducible apply unitCmd_sound
    | with_reducible apply laneEnter_sound
    | with_reducible apply soundOut_next
    | with_reducible apply soundOut_fault
    | with_reducible apply soundOut_ite
    | with_reducible apply sound_ite
    | split

theorem qrateEff_sound (k v : Nat) (s : State) (hs : Sound qq t0 s) :
    Sound qq t0 (qrateEff k v s) := by
  unfold qrateEff
  repeat' first
    | with_reducible intro _
    | with_reducible assumption
    | with_reducible apply setBit_sound
    | with_reducible apply wr_sound
    | simp only [↓sound_mk_iff]
    | with_reducible apply sound_ite
    | (extract_lets x; first | (with_reducible refine sound_cut (s := x) ?_ ?_; (on_goal 2 => clear_value x); (on_goal 1 => unfold x)) | (subst x))
    | split

theorem execQrateWrite_sound (q : Req) (k v : Nat) (s : State) (hs : Sound qq t0 s) :
    SoundOut qq t0 (execQrateWrite q k v s) := by
  unfold execQrateWrite
  repeat' first
    | with_reducible intro _
    | with_reducible assumption
    | with_reducible apply unitCmd_sound
    | with_reducible apply writeTo_sound
    | with_reducible apply qrateEff_sound
    | with_reducible apply soundOut_next
    | with_reducible apply soundOut_fault

theorem execQpllLock_sound (k : Nat) (s : State) (hs : Sound qq t0 s) :
    SoundOut qq t0 (execQpllLock k s) := by
  unfold execQpllLock
  repeat' first
    | with_reducible intro _
    | with_reducible assumption
    | with_reducible apply crhFlag_sound
    | with_reducible apply setBit_sound
    | with_reducible apply wr_sound
    | simp only [↓sound_mk_iff]
    | with_reducible apply sound_ite
    | with_reducible apply soundOut_next
    | with_reducible apply soundOut_fault
    | with_reducible apply soundOut_ite
    | with_reducible apply unitCmd_sound
    | (extract_lets x; first | (with_reducible refine sound_cut (s := x) ?_ ?_; (on_goal 2 => clear_value x); (on_goal 1 => unfold x)) | (subst x))
    | split

theorem execLrefLoss_sound (k : Nat) (s : State) (hs : Sound qq t0 s) :
    SoundOut qq t0 (execLrefLoss k s) := by
  unfold execLrefLoss
  repeat' first
    | with_reducible intro _
    | with_reducible assumption
    | with_reducible apply unitCmd_sound
    | with_reducible apply wr_sound
    | with_reducible apply setBit_sound
    | with_reducible apply soundOut_next
    | with_reducible apply soundOut_fault

theorem laneMapEff_sound (k v : Nat) (s : State) (hs : Sound qq t0 s) :
    Sound qq t0 (laneMapEff k v s) := by
  unfold laneMapEff
  repeat' first
    | with_reducible intro _
    | with_reducible assumption
    | with_reducible apply wr_sound
    | with_reducible apply sound_foldl

theorem execLaneMapWrite_sound (q : Req) (k v : Nat) (s : State) (hs : Sound qq t0 s) :
    SoundOut qq t0 (execLaneMapWrite q k v s) := by
  unfold execLaneMapWrite
  repeat' first
    | with_reducible intro _
    | with_reducible assumption
    | with_reducible apply unitCmd_sound
    | with_reducible apply writeTo_sound
    | with_reducible apply laneMapEff_sound
    | with_reducible apply soundOut_next
    | with_reducible apply soundOut_fault

theorem goodHeader_sound (n : Nat) (s : State) (hs : Sound qq t0 s) :
    Sound qq t0 (goodHeader n s) := by
  unfold goodHeader
  repeat' first
    | with_reducible intro _
    | with_reducible assumption
    | with_reducible apply modLane_sound
    | simp only [↓sound_mk_iff]
    | with_reducible apply sound_ite
    | split

theorem badHeader_sound (n : Nat) (s : State) (hs : Sound qq t0 s) :
    Sound qq t0 (badHeader n s) := by
  unfold badHeader
  repeat' first
    | with_reducible intro _
    | with_reducible assumption
    | with_reducible apply modLane_sound
    | with_reducible apply bump_sound
    | with_reducible apply laneEnter_sound
    | simp only [↓sound_mk_iff]
    | with_reducible apply sound_ite
    | (extract_lets x; first | (with_reducible refine sound_cut (s := x) ?_ ?_; (on_goal 2 => clear_value x); (on_goal 1 => unfold x)) | (subst x))
    | split

theorem execInvalidHeader_sound (n : Nat) (s : State) (hs : Sound qq t0 s) :
    SoundOut qq t0 (execInvalidHeader n s) := by
  unfold execInvalidHeader
  repeat' first
    | with_reducible intro _
    | with_reducible assumption
    | with_reducible apply badHeader_sound
    | with_reducible apply lnkFlag_sound
    | with_reducible apply modLane_sound
    | with_reducible apply bump_sound
    | simp only [↓sound_mk_iff]
    | with_reducible apply sound_foldl
    | with_reducible apply sound_foldl_snd
    | with_reducible apply sound_ite
    | with_reducible apply soundOut_next
    | with_reducible apply soundOut_fault
    | with_reducible apply soundOut_ite
    | with_reducible apply unitCmd_sound
    | (extract_lets x; first | (with_reducible refine sound_cut (s := x) ?_ ?_; (on_goal 2 => clear_value x); (on_goal 1 => unfold x)) | (subst x))
    | split

theorem execLockGained_sound (n : Nat) (s : State) (hs : Sound qq t0 s) :
    SoundOut qq t0 (execLockGained n s) := by
  unfold execLockGained
  repeat' first
    | with_reducible intro _
    | with_reducible assumption
    | with_reducible apply unitCmd_sound
    | with_reducible apply trySend_sound
    | with_reducible apply lnkFlag_sound
    | with_reducible apply wr_sound
    | with_reducible apply modLane_sound
    | with_reducible apply soundOut_next
    | with_reducible apply soundOut_fault
    | with_reducible apply soundOut_ite
    | simp only [↓sound_mk_iff]
    | with_reducible apply sound_ite
    | split

theorem rxInvalid_sound (n : Nat) (s : State) (hs : Sound qq t0 s) :
    Sound qq t0 (rxInvalid n s) := by
  unfold rxInvalid
  repeat' first
    | with_reducible intro _
    | with_reducible assumption
    | with_reducible apply bump_sound

theorem codeIn_sound (n fix : Nat) (s : State) (hs : Sound qq t0 s) :
    Sound qq t0 (codeIn n fix s) := by
  unfold codeIn
  repeat' first
    | with_reducible intro _
    | with_reducible assumption
    | with_reducible apply modLane_sound
    | with_reducible apply addTo_sound
    | simp only [↓sound_mk_iff]
    | with_reducible apply sound_ite
    | (extract_lets x; first | (with_reducible refine sound_cut (s := x) ?_ ?_; (on_goal 2 => clear_value x); (on_goal 1 => unfold x)) | (subst x))
    | split

theorem blockIn_sound (n fix : Nat) (act : State → State) (s : State) (hs : Sound qq t0 s) (hact : ∀ (y0 : State), Sound qq t0 y0 → Sound qq t0 (act y0)) :
    SoundOut qq t0 (blockIn n fix act s) := by
  unfold blockIn
  repeat' first
    | with_reducible intro _
    | with_reducible assumption
    | with_reducible apply hact
    | with_reducible apply codeIn_sound
    | with_reducible apply goodHeader_sound
    | with_reducible apply trySend_sound
    | simp only [↓sound_mk_iff]
    | with_reducible apply sound_ite
    | with_reducible apply soundOut_next
    | with_reducible apply soundOut_fault
    | with_reducible apply soundOut_ite
    | with_reducible apply unitCmd_sound
    | (extract_lets x; first | (with_reducible refine sound_cut (s := x) ?_ ?_; (on_goal 2 => clear_value x); (on_goal 1 => unfold x)) | (subst x))
    | split

theorem execIdleBlock_sound (n v fix : Nat) (s : State) (hs : Sound qq t0 s) :
    SoundOut qq t0 (execIdleBlock n v fix s) := by
  unfold execIdleBlock
  repeat' first
    | with_reducible intro _
    | with_reducible assumption
    | with_reducible apply blockIn_sound
    | with_reducible apply rxInvalid_sound
    | with_reducible apply soundOut_next
    | with_reducible apply soundOut_fault
    | with_reducible apply soundOut_ite
    | with_reducible apply sound_ite
    | split

theorem execCreditBlock_sound (n v fix : Nat) (s : State) (hs : Sound qq t0 s) :
    SoundOut qq t0 (execCreditBlock n v fix s) := by
  unfold execCreditBlock
  repeat' first
    | with_reducible intro _
    | with_reducible assumption
    | with_reducible apply blockIn_sound
    | with_reducible apply rxInvalid_sound
    | with_reducible apply modLane_sound
    | with_reducible apply soundOut_next
    | with_reducible apply soundOut_fault
    | with_reducible apply soundOut_ite
    | simp only [↓sound_mk_iff]
    | with_reducible apply sound_ite
    | split

theorem execLinkBlock_sound (n v fix : Nat) (s : State) (hs : Sound qq t0 s) :
    SoundOut qq t0 (execLinkBlock n v fix s) := by
  unfold execLinkBlock
  repeat' first
    | with_reducible intro _
    | with_reducible assumption
    | with_reducible apply blockIn_sound
    | with_reducible apply rxInvalid_sound
    | with_reducible apply lnkFlag_sound
    | with_reducible apply modLane_sound
    | with_reducible apply wr_sound
    | simp only [↓sound_mk_iff]
    | with_reducible apply sound_ite
    | with_reducible apply soundOut_next
    | with_reducible apply soundOut_fault
    | with_reducible apply soundOut_ite
    | with_reducible apply unitCmd_sound
    | (extract_lets x; first | (with_reducible refine sound_cut (s := x) ?_ ?_; (on_goal 2 => clear_value x); (on_goal 1 => unfold x)) | (subst x))
    | split

theorem abortOpen_sound (n : Nat) (s : State) (hs : Sound qq t0 s) :
    Sound qq t0 (abortOpen n s) := by
  unfold abortOpen
  repeat' first
    | with_reducible intro _
    | with_reducible assumption
    | with_reducible apply freeBlocks_sound
    | with_reducible apply bump_sound
    | with_reducible apply modLane_sound
    | simp only [↓sound_mk_iff]
    | split

theorem execStartBlock_sound (n v fix : Nat) (s : State) (hs : Sound qq t0 s) :
    SoundOut qq t0 (execStartBlock n v fix s) := by
  unfold execStartBlock
  repeat' first
    | with_reducible intro _
    | with_reducible assumption
    | with_reducible apply blockIn_sound
    | with_reducible apply rxInvalid_sound
    | with_reducible apply abortOpen_sound
    | with_reducible apply modLane_sound
    | with_reducible apply freeBlocks_sound
    | with_reducible apply soundOut_next
    | with_reducible apply soundOut_fault
    | with_reducible apply soundOut_ite
    | simp only [↓sound_mk_iff]
    | with_reducible apply sound_ite
    | (extract_lets x; first | (with_reducible refine sound_cut (s := x) ?_ ?_; (on_goal 2 => clear_value x); (on_goal 1 => unfold x)) | (subst x))
    | split

theorem rxComplete_sound (n crc : Nat) (m : LaneMsg) (s : State) (hs : Sound qq t0 s) :
    Sound qq t0 (rxComplete n crc m s) := by
  unfold rxComplete
  repeat' first
    | with_reducible intro _
    | with_reducible assumption
    | with_reducible apply lnkFlag_sound
    | with_reducible apply freeBlocks_sound
    | with_reducible apply bump_sound
    | with_reducible apply rxInvalid_sound
    | with_reducible apply modLane_sound
    | simp only [↓sound_mk_iff]
    | with_reducible apply sound_ite
    | (extract_lets x; first | (with_reducible refine sound_cut (s := x) ?_ ?_; (on_goal 2 => clear_value x); (on_goal 1 => unfold x)) | (subst x))
    | split

theorem execDataBlock_sound (n v fix : Nat) (s : State) (hs : Sound qq t0 s) :
    SoundOut qq t0 (execDataBlock n v fix s) := by
  unfold execDataBlock
  repeat' first
    | with_reducible intro _
    | with_reducible assumption
    | with_reducible apply blockIn_sound
    | with_reducible apply rxInvalid_sound
    | with_reducible apply modLane_sound
    | with_reducible apply rxComplete_sound
    | with_reducible apply soundOut_next
    | with_reducible apply soundOut_fault
    | with_reducible apply soundOut_ite
    | simp only [↓sound_mk_iff]
    | with_reducible apply sound_ite
    | (extract_lets x; first | (with_reducible refine sound_cut (s := x) ?_ ?_; (on_goal 2 => clear_value x); (on_goal 1 => unfold x)) | (subst x))
    | split

theorem takeMsg_sound (n : Nat) (m : LaneMsg) (s : State) (hs : Sound qq t0 s) :
    Sound qq t0 (takeMsg n m s) := by
  unfold takeMsg
  repeat' first
    | with_reducible intro _
    | with_reducible assumption
    | with_reducible apply freeBlocks_sound
    | with_reducible apply modLane_sound
    | simp only [↓sound_mk_iff]

theorem execMeshMessage_sound (n : Nat) (s : State) (hs : Sound qq t0 s) :
    SoundOut qq t0 (execMeshMessage n s) := by
  unfold execMeshMessage
  repeat' first
    | with_reducible intro _
    | with_reducible assumption
    | with_reducible apply takeMsg_sound
    | with_reducible apply trySend_sound
    | with_reducible apply meshSend_sound
    | with_reducible apply modLane_sound
    | simp only [↓sound_mk_iff]
    | with_reducible apply sound_ite
    | with_reducible apply soundOut_next
    | with_reducible apply soundOut_fault
    | with_reducible apply soundOut_ite
    | with_reducible apply unitCmd_sound
    | (extract_lets x; first | (with_reducible refine sound_cut (s := x) ?_ ?_; (on_goal 2 => clear_value x); (on_goal 1 => unfold x)) | (subst x))
    | split

theorem laneDone_sound (n : Nat) (x : MeshResp) (s : State) (hs : Sound qq t0 s) :
    Sound qq t0 (laneDone n x s) := by
  unfold laneDone
  repeat' first
    | with_reducible intro _
    | with_reducible assumption
    | with_reducible apply modLane_sound
    | with_reducible apply trySend_sound
    | with_reducible apply drawn_sound
    | simp only [↓sound_mk_iff]
    | with_reducible apply sound_ite
    | (extract_lets x; first | (with_reducible refine sound_cut (s := x) ?_ ?_; (on_goal 2 => clear_value x); (on_goal 1 => unfold x)) | (subst x))
    | split

theorem execStreamMessage_sound (n : Nat) (s : State) (hs : Sound qq t0 s) :
    SoundOut qq t0 (execStreamMessage n s) := by
  unfold execStreamMessage
  repeat' first
    | with_reducible intro _
    | with_reducible assumption
    | with_reducible apply unitCmd_sound
    | with_reducible apply trySend_sound
    | with_reducible apply lnkFlag_sound
    | with_reducible apply takeMsg_sound
    | with_reducible apply bump_sound
    | with_reducible apply meshSend_sound
    | with_reducible apply modLane_sound
    | with_reducible apply soundOut_next
    | with_reducible apply soundOut_fault
    | with_reducible apply soundOut_ite
    | simp only [↓sound_mk_iff]
    | with_reducible apply sound_ite
    | with_reducible apply sound_foldl
    | (extract_lets x; first | (with_reducible refine sound_cut (s := x) ?_ ?_; (on_goal 2 => clear_value x); (on_goal 1 => unfold x)) | (subst x))
    | split

theorem streamDone_sound (n : Nat) (x : MeshResp) (s : State) (hs : Sound qq t0 s) :
    Sound qq t0 (streamDone n x s) := by
  unfold streamDone
  repeat' first
    | with_reducible intro _
    | with_reducible assumption
    | with_reducible apply modLane_sound
    | simp only [↓sound_mk_iff]

theorem execStreamWritesDone_sound (n : Nat) (err : Bool) (s : State) (hs : Sound qq t0 s) :
    SoundOut qq t0 (execStreamWritesDone n err s) := by
  unfold execStreamWritesDone
  repeat' first
    | with_reducible intro _
    | with_reducible assumption
    | with_reducible apply trySend_sound
    | with_reducible apply freeBlocks_sound
    | with_reducible apply lnkFlag_sound
    | with_reducible apply modLane_sound
    | with_reducible apply bump_sound
    | with_reducible apply addTo_sound
    | simp only [↓sound_mk_iff]
    | with_reducible apply sound_ite
    | with_reducible apply soundOut_next
    | with_reducible apply soundOut_fault
    | with_reducible apply soundOut_ite
    | with_reducible apply unitCmd_sound
    | (extract_lets x; first | (with_reducible refine sound_cut (s := x) ?_ ?_; (on_goal 2 => clear_value x); (on_goal 1 => unfold x)) | (subst x))
    | split

theorem execCreditSendTimer_sound (n : Nat) (s : State) (hs : Sound qq t0 s) :
    SoundOut qq t0 (execCreditSendTimer n s) := by
  unfold execCreditSendTimer
  repeat' first
    | with_reducible intro _
    | with_reducible assumption
    | with_reducible apply unitCmd_sound
    | with_reducible apply trySend_sound
    | with_reducible apply upto_sound
    | with_reducible apply modLane_sound
    | with_reducible apply soundOut_next
    | with_reducible apply soundOut_fault
    | with_reducible apply soundOut_ite
    | simp only [↓sound_mk_iff]
    | with_reducible apply sound_ite
    | split

theorem execLinkSendTimer_sound (n : Nat) (s : State) (hs : Sound qq t0 s) :
    SoundOut qq t0 (execLinkSendTimer n s) := by
  unfold execLinkSendTimer
  repeat' first
    | with_reducible intro _
    | with_reducible assumption
    | with_reducible apply unitCmd_sound
    | with_reducible apply trySend_sound
    | with_reducible apply upto_sound
    | with_reducible apply modLane_sound
    | with_reducible apply soundOut_next
    | with_reducible apply soundOut_fault
    | with_reducible apply soundOut_ite
    | simp only [↓sound_mk_iff]
    | with_reducible apply sound_ite
    | split

theorem checkBit_sound (n c : Nat) (b : Bool) (s : State) (hs : Sound qq t0 s) :
    Sound qq t0 (checkBit n c b s) := by
  unfold checkBit
  repeat' first
    | with_reducible intro _
    | with_reducible assumption
    | with_reducible apply lnkFlag_sound
    | with_reducible apply modLane_sound
    | with_reducible apply addTo_sound
    | simp only [↓sound_mk_iff]
    | with_reducible apply sound_ite
    | (extract_lets x; first | (with_reducible refine sound_cut (s := x) ?_ ?_; (on_goal 2 => clear_value x); (on_goal 1 => unfold x)) | (subst x))
    | split

set_option Elab.async false in
theorem execPrbsChecker_sound (n : Nat) (syms : List Nat) (s : State) (hs : Sound qq t0 s) :
    SoundOut qq t0 (execPrbsChecker n syms s) := by
  unfold execPrbsChecker
  repeat' first
    | with_reducible intro _
    | with_reducible assumption
    | with_reducible apply checkBit_sound
    | with_reducible apply modLane_sound
    | simp only [↓sound_mk_iff]
    | with_reducible apply sound_foldl
    | with_reducible apply sound_foldl_snd
    | with_reducible apply sound_ite
    | with_reducible apply soundOut_next
    | with_reducible apply soundOut_fault
    | with_reducible apply soundOut_ite
    | with_reducible apply unitCmd_sound
    | (extract_lets x; first | (with_reducible refine sound_cut (s := x) ?_ ?_; (on_goal 2 => clear_value x); (on_goal 1 => unfold x)) | (subst x))
    | split

end Sys2Proof.Laws
end

