-- ==== Sys2Proof/Laws/SoundTmu.lean ====
section
/-! SUPPORT. What every operation of Machine/Tmu.lean keeps. -/
namespace Sys2Proof.Laws
open Sys2Proof Sys2Proof.Machine
set_option linter.unusedVariables false
set_option linter.unusedTactic false
set_option linter.unreachableTactic false

variable {qq : List Instr} {t0 : Nat}

theorem roleEff_sound (v : Nat) (s : State) (hs : Sound qq t0 s) :
    Sound qq t0 (roleEff v s) := by
  unfold roleEff
  repeat' first
    | with_reducible intro _
    | with_reducible assumption
    | with_reducible apply validFall_sound
    | with_reducible apply validRise_sound
    | with_reducible apply modTmu_sound
    | with_reducible apply setBit_sound
    | with_reducible apply wr_sound
    | simp only [↓sound_mk_iff]
    | with_reducible apply sound_ite
    | (extract_lets x; first | (with_reducible refine sound_cut (s := x) ?_ ?_; (on_goal 2 => clear_value x); (on_goal 1 => unfold x)) | (subst x))
    | split

theorem execTmuRoleWrite_sound (q : Req) (v : Nat) (s : State) (hs : Sound qq t0 s) :
    SoundOut qq t0 (execTmuRoleWrite q v s) := by
  unfold execTmuRoleWrite
  repeat' first
    | with_reducible intro _
    | with_reducible assumption
    | with_reducible apply writeTo_sound
    | with_reducible apply roleEff_sound
    | with_reducible apply soundOut_next
    | with_reducible apply soundOut_fault

theorem execIncrWrite_sound (q : Req) (v : Nat) (s : State) (hs : Sound qq t0 s) :
    SoundOut qq t0 (execIncrWrite q v s) := by
  unfold execIncrWrite
  repeat' first
    | with_reducible intro _
    | with_reducible assumption
    | with_reducible apply writeTo_sound
    | with_reducible apply setIncr_sound
    | with_reducible apply soundOut_next
    | with_reducible apply soundOut_fault

theorem stepWrite_sound (q : Req) (v : Nat) (s : State) (hs : Sound qq t0 s) :
    Sound qq t0 (stepWrite q v s) := by
  unfold stepWrite
  repeat' first
    | with_reducible intro _
    | with_reducible assumption
    | with_reducible apply writeTo_sound
    | with_reducible apply stepBy_sound
    | with_reducible apply stepRefused_sound
    | with_reducible apply sound_ite
    | (extract_lets x; first | (with_reducible refine sound_cut (s := x) ?_ ?_; (on_goal 2 => clear_value x); (on_goal 1 => unfold x)) | (subst x))
    | split

theorem execTmuStep_sound (q : Req) (v : Nat) (s : State) (hs : Sound qq t0 s) :
    SoundOut qq t0 (execTmuStep q v s) := by
  unfold execTmuStep
  repeat' first
    | with_reducible intro _
    | with_reducible assumption
    | with_reducible apply stepWrite_sound
    | with_reducible apply soundOut_next
    | with_reducible apply soundOut_fault

theorem execTmuSet_sound (q : Req) (v : Nat) (s : State) (hs : Sound qq t0 s) :
    SoundOut qq t0 (execTmuSet q v s) := by
  unfold execTmuSet
  repeat' first
    | with_reducible intro _
    | with_reducible assumption
    | with_reducible apply writeTo_sound
    | with_reducible apply stepTo_sound
    | with_reducible apply soundOut_next
    | with_reducible apply soundOut_fault

theorem execExchangeStart_sound (s : State) (hs : Sound qq t0 s) :
    SoundOut qq t0 (execExchangeStart s) := by
  unfold execExchangeStart
  repeat' first
    | with_reducible intro _
    | with_reducible assumption
    | with_reducible apply upto_sound
    | with_reducible apply modTmu_sound
    | with_reducible apply trySend_sound
    | with_reducible apply modLane_sound
    | with_reducible apply soundOut_next
    | with_reducible apply soundOut_fault
    | with_reducible apply soundOut_ite
    | simp only [↓sound_mk_iff]
    | with_reducible apply sound_ite
    | with_reducible apply sound_foldl
    | (extract_lets x; first | (with_reducible refine sound_cut (s := x) ?_ ?_; (on_goal 2 => clear_value x); (on_goal 1 => unfold x)) | (subst x))
    | split

theorem execTimeMessage_sound (n : Nat) (s : State) (hs : Sound qq t0 s) :
    SoundOut qq t0 (execTimeMessage n s) := by
  unfold execTimeMessage
  repeat' first
    | with_reducible intro _
    | with_reducible assumption
    | with_reducible apply takeMsg_sound
    | with_reducible apply trySend_sound
    | with_reducible apply laneFlag_sound
    | with_reducible apply modLaneTime_sound
    | with_reducible apply bump_sound
    | simp only [↓sound_mk_iff]
    | with_reducible apply sound_ite
    | with_reducible apply soundOut_next
    | with_reducible apply soundOut_fault
    | with_reducible apply soundOut_ite
    | with_reducible apply unitCmd_sound
    | (extract_lets x; first | (with_reducible refine sound_cut (s := x) ?_ ?_; (on_goal 2 => clear_value x); (on_goal 1 => unfold x)) | (subst x))
    | split

theorem helper_sound (n type : Nat) (act : TimeIn → State → State) (s : State) (hact : ∀ (y0 : TimeIn) (y1 : State), Sound qq t0 y1 → Sound qq t0 (act y0 y1)) (hs : Sound qq t0 s) :
    SoundOut qq t0 (helper n type act s) := by
  unfold helper
  repeat' first
    | with_reducible intro _
    | with_reducible assumption
    | with_reducible apply hact
    | with_reducible apply unitCmd_sound
    | with_reducible apply modLaneTime_sound
    | with_reducible apply soundOut_next
    | with_reducible apply soundOut_fault
    | with_reducible apply soundOut_ite
    | simp only [↓sound_mk_iff]
    | with_reducible apply sound_ite
    | split

theorem execSync_sound (n : Nat) (s : State) (hs : Sound qq t0 s) :
    SoundOut qq t0 (execSync n s) := by
  unfold execSync
  repeat' first
    | with_reducible intro _
    | with_reducible assumption
    | with_reducible apply helper_sound
    | with_reducible apply modTmu_sound
    | with_reducible apply soundOut_next
    | with_reducible apply soundOut_fault
    | with_reducible apply soundOut_ite
    | simp only [↓sound_mk_iff]
    | with_reducible apply sound_ite
    | split

theorem execFollow_sound (n : Nat) (s : State) (hs : Sound qq t0 s) :
    SoundOut qq t0 (execFollow n s) := by
  unfold execFollow
  repeat' first
    | with_reducible intro _
    | with_reducible assumption
    | with_reducible apply helper_sound
    | with_reducible apply tmuFlag_sound
    | with_reducible apply wr_sound
    | with_reducible apply modTmu_sound
    | with_reducible apply trySend_sound
    | with_reducible apply modLane_sound
    | with_reducible apply soundOut_next
    | with_reducible apply soundOut_fault
    | with_reducible apply soundOut_ite
    | simp only [↓sound_mk_iff]
    | with_reducible apply sound_ite
    | (extract_lets x; first | (with_reducible refine sound_cut (s := x) ?_ ?_; (on_goal 2 => clear_value x); (on_goal 1 => unfold x)) | (subst x))
    | split

theorem execDreq_sound (n : Nat) (s : State) (hs : Sound qq t0 s) :
    SoundOut qq t0 (execDreq n s) := by
  unfold execDreq
  repeat' first
    | with_reducible intro _
    | with_reducible assumption
    | with_reducible apply helper_sound
    | with_reducible apply trySend_sound
    | with_reducible apply modLane_sound
    | with_reducible apply soundOut_next
    | with_reducible apply soundOut_fault
    | with_reducible apply soundOut_ite
    | simp only [↓sound_mk_iff]
    | with_reducible apply sound_ite
    | split

theorem slew_sound (theta : Int) (s : State) (hs : Sound qq t0 s) :
    Sound qq t0 (slew theta s) := by
  unfold slew
  repeat' first
    | with_reducible intro _
    | with_reducible assumption
    | with_reducible apply setIncr_sound
    | with_reducible apply modTmu_sound
    | simp only [↓sound_mk_iff]
    | (extract_lets x; first | (with_reducible refine sound_cut (s := x) ?_ ?_; (on_goal 2 => clear_value x); (on_goal 1 => unfold x)) | (subst x))

theorem countLock_sound (theta : Int) (s : State) (hs : Sound qq t0 s) :
    Sound qq t0 (countLock theta s) := by
  unfold countLock
  repeat' first
    | with_reducible intro _
    | with_reducible assumption
    | with_reducible apply modTmu_sound
    | with_reducible apply validRise_sound
    | with_reducible apply setBit_sound
    | simp only [↓sound_mk_iff]
    | with_reducible apply sound_ite
    | (extract_lets x; first | (with_reducible refine sound_cut (s := x) ?_ ?_; (on_goal 2 => clear_value x); (on_goal 1 => unfold x)) | (subst x))
    | split

theorem servo_sound (theta : Int) (s : State) (hs : Sound qq t0 s) :
    Sound qq t0 (servo theta s) := by
  unfold servo
  repeat' first
    | with_reducible intro _
    | with_reducible assumption
    | with_reducible apply countLock_sound
    | with_reducible apply slew_sound
    | with_reducible apply stepRefused_sound
    | with_reducible apply modTmu_sound
    | with_reducible apply stepBy_sound
    | simp only [↓sound_mk_iff]
    | with_reducible apply sound_ite
    | split

theorem execDresp_sound (n : Nat) (s : State) (hs : Sound qq t0 s) :
    SoundOut qq t0 (execDresp n s) := by
  unfold execDresp
  repeat' first
    | with_reducible intro _
    | with_reducible assumption
    | with_reducible apply servo_sound
    | with_reducible apply helper_sound
    | with_reducible apply modTmu_sound
    | with_reducible apply bump_sound
    | with_reducible apply wr_sound
    | simp only [↓sound_mk_iff]
    | with_reducible apply sound_ite
    | with_reducible apply soundOut_next
    | with_reducible apply soundOut_fault
    | with_reducible apply soundOut_ite
    | with_reducible apply unitCmd_sound
    | (extract_lets x; first | (with_reducible refine sound_cut (s := x) ?_ ?_; (on_goal 2 => clear_value x); (on_goal 1 => unfold x)) | (subst x))
    | split

theorem execExchangeTimeout_sound (s : State) (hs : Sound qq t0 s) :
    SoundOut qq t0 (execExchangeTimeout s) := by
  unfold execExchangeTimeout
  repeat' first
    | with_reducible intro _
    | with_reducible assumption
    | with_reducible apply holdover_sound
    | with_reducible apply upto_sound
    | with_reducible apply soundOut_next
    | with_reducible apply soundOut_fault
    | with_reducible apply soundOut_ite
    | with_reducible apply sound_ite
    | split

theorem txmsgEff_sound (n v : Nat) (s : State) (hs : Sound qq t0 s) :
    Sound qq t0 (txmsgEff n v s) := by
  unfold txmsgEff
  repeat' first
    | with_reducible intro _
    | with_reducible assumption
    | with_reducible apply trySend_sound
    | with_reducible apply modLane_sound
    | simp only [↓sound_mk_iff]

theorem execTxmsg_sound (q : Req) (n v : Nat) (s : State) (hs : Sound qq t0 s) :
    SoundOut qq t0 (execTxmsg q n v s) := by
  unfold execTxmsg
  repeat' first
    | with_reducible intro _
    | with_reducible assumption
    | with_reducible apply unitCmd_sound
    | with_reducible apply writeTo_sound
    | with_reducible apply txmsgEff_sound
    | with_reducible apply soundOut_next
    | with_reducible apply soundOut_fault

theorem txtsEff_sound (n : Nat) (s : State) (hs : Sound qq t0 s) :
    Sound qq t0 (txtsEff n s) := by
  unfold txtsEff
  repeat' first
    | with_reducible intro _
    | with_reducible assumption
    | with_reducible apply bump_sound
    | with_reducible apply modLaneTime_sound
    | simp only [↓sound_mk_iff]

theorem execTxts_sound (q : Req) (n : Nat) (s : State) (hs : Sound qq t0 s) :
    SoundOut qq t0 (execTxts q n s) := by
  unfold execTxts
  repeat' first
    | with_reducible intro _
    | with_reducible assumption
    | with_reducible apply unitCmd_sound
    | with_reducible apply readFrom_sound
    | with_reducible apply txtsEff_sound
    | with_reducible apply soundOut_next
    | with_reducible apply soundOut_fault

theorem rxmsgEff_sound (n : Nat) (s : State) (hs : Sound qq t0 s) :
    Sound qq t0 (rxmsgEff n s) := by
  unfold rxmsgEff
  repeat' first
    | with_reducible intro _
    | with_reducible assumption
    | with_reducible apply modLaneTime_sound
    | simp only [↓sound_mk_iff]

theorem execRxmsg_sound (q : Req) (n : Nat) (s : State) (hs : Sound qq t0 s) :
    SoundOut qq t0 (execRxmsg q n s) := by
  unfold execRxmsg
  repeat' first
    | with_reducible intro _
    | with_reducible assumption
    | with_reducible apply unitCmd_sound
    | with_reducible apply readFrom_sound
    | with_reducible apply rxmsgEff_sound
    | with_reducible apply soundOut_next
    | with_reducible apply soundOut_fault

theorem setApK_sound (a k : Nat) (s : State) (hs : Sound qq t0 s) :
    Sound qq t0 (setApK a k s) := by
  unfold setApK
  repeat' first
    | with_reducible intro _
    | with_reducible assumption
    | with_reducible apply modTmu_sound
    | simp only [↓sound_mk_iff]

theorem apArmEff_sound (a : Nat) (s : State) (hs : Sound qq t0 s) :
    Sound qq t0 (apArmEff a s) := by
  unfold apArmEff
  repeat' first
    | with_reducible intro _
    | with_reducible assumption
    | with_reducible apply setApK_sound
    | with_reducible apply wr_sound
    | with_reducible apply sound_ite
    | split

theorem execApertureArm_sound (q : Req) (a : Nat) (s : State) (hs : Sound qq t0 s) :
    SoundOut qq t0 (execApertureArm q a s) := by
  unfold execApertureArm
  repeat' first
    | with_reducible intro _
    | with_reducible assumption
    | with_reducible apply unitCmd_sound
    | with_reducible apply command_sound
    | with_reducible apply apArmEff_sound
    | with_reducible apply soundOut_next
    | with_reducible apply soundOut_fault

theorem apDisarmEff_sound (a : Nat) (s : State) (hs : Sound qq t0 s) :
    Sound qq t0 (apDisarmEff a s) := by
  unfold apDisarmEff
  repeat' first
    | with_reducible intro _
    | with_reducible assumption
    | with_reducible apply wr_sound

theorem execApertureDisarm_sound (q : Req) (a : Nat) (s : State) (hs : Sound qq t0 s) :
    SoundOut qq t0 (execApertureDisarm q a s) := by
  unfold execApertureDisarm
  repeat' first
    | with_reducible intro _
    | with_reducible assumption
    | with_reducible apply unitCmd_sound
    | with_reducible apply command_sound
    | with_reducible apply apDisarmEff_sound
    | with_reducible apply soundOut_next
    | with_reducible apply soundOut_fault

theorem aperturePulses_sound (a : Nat) (s : State) (hs : Sound qq t0 s) :
    Sound qq t0 (aperturePulses a s) := by
  unfold aperturePulses
  repeat' first
    | with_reducible intro _
    | with_reducible assumption
    | with_reducible apply bump_sound
    | with_reducible apply sound_ite
    | with_reducible apply sound_foldl
    | split

theorem execApertureOpen_sound (a : Nat) (s : State) (hs : Sound qq t0 s) :
    SoundOut qq t0 (execApertureOpen a s) := by
  unfold execApertureOpen
  repeat' first
    | with_reducible intro _
    | with_reducible assumption
    | with_reducible apply aperturePulses_sound
    | with_reducible apply setApK_sound
    | with_reducible apply tmuFlag_sound
    | with_reducible apply upto_sound
    | with_reducible apply bump_sound
    | with_reducible apply wr_sound
    | simp only [↓sound_mk_iff]
    | with_reducible apply sound_ite
    | with_reducible apply soundOut_next
    | with_reducible apply soundOut_fault
    | with_reducible apply soundOut_ite
    | with_reducible apply unitCmd_sound
    | (extract_lets x; first | (with_reducible refine sound_cut (s := x) ?_ ?_; (on_goal 2 => clear_value x); (on_goal 1 => unfold x)) | (subst x))
    | split

theorem execApertureClose_sound (a : Nat) (s : State) (hs : Sound qq t0 s) :
    SoundOut qq t0 (execApertureClose a s) := by
  unfold execApertureClose
  repeat' first
    | with_reducible intro _
    | with_reducible assumption
    | with_reducible apply setApK_sound
    | with_reducible apply upto_sound
    | with_reducible apply wr_sound
    | simp only [↓sound_mk_iff]
    | with_reducible apply sound_ite
    | with_reducible apply soundOut_next
    | with_reducible apply soundOut_fault
    | with_reducible apply soundOut_ite
    | with_reducible apply unitCmd_sound
    | (extract_lets x; first | (with_reducible refine sound_cut (s := x) ?_ ?_; (on_goal 2 => clear_value x); (on_goal 1 => unfold x)) | (subst x))
    | split

theorem trgArmEff_sound (t : Nat) (s : State) (hs : Sound qq t0 s) :
    Sound qq t0 (trgArmEff t s) := by
  unfold trgArmEff
  repeat' first
    | with_reducible intro _
    | with_reducible assumption
    | with_reducible apply modTrg_sound
    | with_reducible apply bump_sound
    | with_reducible apply wr_sound
    | simp only [↓sound_mk_iff]
    | with_reducible apply sound_ite
    | (extract_lets x; first | (with_reducible refine sound_cut (s := x) ?_ ?_; (on_goal 2 => clear_value x); (on_goal 1 => unfold x)) | (subst x))
    | split

theorem trgDisarmEff_sound (t : Nat) (s : State) (hs : Sound qq t0 s) :
    Sound qq t0 (trgDisarmEff t s) := by
  unfold trgDisarmEff
  repeat' first
    | with_reducible intro _
    | with_reducible assumption
    | with_reducible apply wr_sound
    | with_reducible apply modTrg_sound

theorem execTriggerArm_sound (q : Req) (t : Nat) (s : State) (hs : Sound qq t0 s) :
    SoundOut qq t0 (execTriggerArm q t s) := by
  unfold execTriggerArm
  repeat' first
    | with_reducible intro _
    | with_reducible assumption
    | with_reducible apply unitCmd_sound
    | with_reducible apply command_sound
    | with_reducible apply trgArmEff_sound
    | with_reducible apply soundOut_next
    | with_reducible apply soundOut_fault

theorem execTriggerDisarm_sound (q : Req) (t : Nat) (s : State) (hs : Sound qq t0 s) :
    SoundOut qq t0 (execTriggerDisarm q t s) := by
  unfold execTriggerDisarm
  repeat' first
    | with_reducible intro _
    | with_reducible assumption
    | with_reducible apply unitCmd_sound
    | with_reducible apply command_sound
    | with_reducible apply trgDisarmEff_sound
    | with_reducible apply soundOut_next
    | with_reducible apply soundOut_fault

theorem execTriggerPulse_sound (t : Nat) (s : State) (hs : Sound qq t0 s) :
    SoundOut qq t0 (execTriggerPulse t s) := by
  unfold execTriggerPulse
  repeat' first
    | with_reducible intro _
    | with_reducible assumption
    | with_reducible apply unitCmd_sound
    | with_reducible apply tmuFlag_sound
    | with_reducible apply upto_sound
    | with_reducible apply bump_sound
    | with_reducible apply wr_sound
    | with_reducible apply modTrg_sound
    | with_reducible apply soundOut_next
    | with_reducible apply soundOut_fault
    | with_reducible apply soundOut_ite
    | simp only [↓sound_mk_iff]
    | with_reducible apply sound_ite
    | (extract_lets x; first | (with_reducible refine sound_cut (s := x) ?_ ?_; (on_goal 2 => clear_value x); (on_goal 1 => unfold x)) | (subst x))
    | split

theorem setTrgi_sound (t : Nat) (high : Bool) (s : State) (hs : Sound qq t0 s) :
    Sound qq t0 (setTrgi t high s) := by
  unfold setTrgi
  repeat' first
    | with_reducible intro _
    | with_reducible assumption
    | simp only [↓sound_mk_iff]
    | with_reducible apply sound_ite
    | (extract_lets x; first | (with_reducible refine sound_cut (s := x) ?_ ?_; (on_goal 2 => clear_value x); (on_goal 1 => unfold x)) | (subst x))
    | split

theorem takeCapture_sound (t stamp : Nat) (rising : Bool) (s : State) (hs : Sound qq t0 s) :
    Sound qq t0 (takeCapture t stamp rising s) := by
  unfold takeCapture
  repeat' first
    | with_reducible intro _
    | with_reducible assumption
    | with_reducible apply bump_sound
    | with_reducible apply tmuFlag_sound
    | with_reducible apply modCap_sound
    | simp only [↓sound_mk_iff]
    | with_reducible apply sound_ite
    | (extract_lets x; first | (with_reducible refine sound_cut (s := x) ?_ ?_; (on_goal 2 => clear_value x); (on_goal 1 => unfold x)) | (subst x))
    | split

theorem execCaptureEdge_sound (t : Nat) (rising : Bool) (s : State) (hs : Sound qq t0 s) :
    SoundOut qq t0 (execCaptureEdge t rising s) := by
  unfold execCaptureEdge
  repeat' first
    | with_reducible intro _
    | with_reducible assumption
    | with_reducible apply unitCmd_sound
    | with_reducible apply setTrgi_sound
    | with_reducible apply drawn_sound
    | with_reducible apply modCap_sound
    | with_reducible apply takeCapture_sound
    | with_reducible apply soundOut_next
    | with_reducible apply soundOut_fault
    | with_reducible apply soundOut_ite
    | simp only [↓sound_mk_iff]
    | with_reducible apply sound_ite
    | (extract_lets x; first | (with_reducible refine sound_cut (s := x) ?_ ?_; (on_goal 2 => clear_value x); (on_goal 1 => unfold x)) | (subst x))
    | split

theorem capEff_sound (t : Nat) (s : State) (hs : Sound qq t0 s) :
    Sound qq t0 (capEff t s) := by
  unfold capEff
  repeat' first
    | with_reducible intro _
    | with_reducible assumption
    | with_reducible apply modCap_sound
    | simp only [↓sound_mk_iff]

theorem execCapPop_sound (q : Req) (t : Nat) (s : State) (hs : Sound qq t0 s) :
    SoundOut qq t0 (execCapPop q t s) := by
  unfold execCapPop
  repeat' first
    | with_reducible intro _
    | with_reducible assumption
    | with_reducible apply unitCmd_sound
    | with_reducible apply readFrom_sound
    | with_reducible apply capEff_sound
    | with_reducible apply soundOut_next
    | with_reducible apply soundOut_fault

theorem schedStart_sound (e : Nat) (x : Sched) (s : State) (hs : Sound qq t0 s) :
    Sound qq t0 (schedStart e x s) := by
  unfold schedStart
  repeat' first
    | with_reducible intro _
    | with_reducible assumption
    | with_reducible apply modDsp_sound
    | with_reducible apply modVe_sound
    | simp only [↓sound_mk_iff]
    | with_reducible apply sound_ite
    | split

set_option Elab.async false in
theorem execScheduleFire_sound (s : State) (hs : Sound qq t0 s) :
    SoundOut qq t0 (execScheduleFire s) := by
  unfold execScheduleFire
  repeat' first
    | with_reducible intro _
    | with_reducible assumption
    | with_reducible apply upto_sound
    | with_reducible apply schedStart_sound
    | with_reducible apply soundOut_next
    | with_reducible apply soundOut_fault
    | simp only [↓sound_mk_iff]
    | with_reducible apply sound_foldl
    | (extract_lets x; first | (with_reducible refine sound_cut (s := x) ?_ ?_; (on_goal 2 => clear_value x); (on_goal 1 => unfold x)) | (subst x))
    | split

end Sys2Proof.Laws
end

