-- ==== Sys2Proof/Laws/SoundDsp.lean ====
section
/-! SUPPORT. What every operation of Machine/Dsp.lean keeps. -/
namespace Sys2Proof.Laws
open Sys2Proof Sys2Proof.Machine
set_option linter.unusedVariables false
set_option linter.unusedTactic false
set_option linter.unreachableTactic false

variable {qq : List Instr} {t0 : Nat}

theorem freezeDsp_sound (n t : Nat) (s : State) (hs : Sound qq t0 s) :
    Sound qq t0 (freezeDsp n t s) := by
  unfold freezeDsp
  repeat' first
    | with_reducible intro _
    | with_reducible assumption
    | with_reducible apply modDsp_sound
    | with_reducible apply addTo_sound
    | with_reducible apply wr_sound
    | simp only [↓sound_mk_iff]
    | with_reducible apply sound_ite
    | (extract_lets x; first | (with_reducible refine sound_cut (s := x) ?_ ?_; (on_goal 2 => clear_value x); (on_goal 1 => unfold x)) | (subst x))
    | split

theorem stalled_sound (n k : Nat) (s : State) (hs : Sound qq t0 s) :
    Sound qq t0 (stalled n k s) := by
  unfold stalled
  repeat' first
    | with_reducible intro _
    | with_reducible assumption
    | with_reducible apply addTo_sound

theorem waited_sound (n t : Nat) (s : State) (hs : Sound qq t0 s) :
    Sound qq t0 (waited n t s) := by
  unfold waited
  repeat' first
    | with_reducible intro _
    | with_reducible assumption
    | with_reducible apply stalled_sound
    | simp only [↓sound_mk_iff]
    | with_reducible apply sound_ite
    | (extract_lets x; first | (with_reducible refine sound_cut (s := x) ?_ ?_; (on_goal 2 => clear_value x); (on_goal 1 => unfold x)) | (subst x))
    | split

theorem dspStopAt_sound (n t c : Nat) (s : State) (hs : Sound qq t0 s) :
    Sound qq t0 (dspStopAt n t c s) := by
  unfold dspStopAt
  repeat' first
    | with_reducible intro _
    | with_reducible assumption
    | with_reducible apply freezeDsp_sound
    | with_reducible apply modDsp_sound
    | with_reducible apply modTgt_sound
    | with_reducible apply upto_sound
    | with_reducible apply setBit_sound
    | with_reducible apply raise_sound
    | with_reducible apply addTo_sound
    | with_reducible apply wr_sound
    | simp only [↓sound_mk_iff]
    | with_reducible apply sound_ite
    | (extract_lets x; first | (with_reducible refine sound_cut (s := x) ?_ ?_; (on_goal 2 => clear_value x); (on_goal 1 => unfold x)) | (subst x))
    | split

theorem dspFault_sound (n t cause pc : Nat) (s : State) (hs : Sound qq t0 s) :
    Sound qq t0 (dspFault n t cause pc s) := by
  unfold dspFault
  repeat' first
    | with_reducible intro _
    | with_reducible assumption
    | with_reducible apply dspStopAt_sound
    | with_reducible apply wr_sound

theorem boundaryFault_sound (n e cause : Nat) (s : State) (hs : Sound qq t0 s) :
    Sound qq t0 (boundaryFault n e cause s) := by
  unfold boundaryFault
  repeat' first
    | with_reducible intro _
    | with_reducible assumption
    | with_reducible apply dspFault_sound
    | with_reducible apply waited_sound
    | simp only [↓sound_mk_iff]
    | with_reducible apply sound_ite
    | (extract_lets x; first | (with_reducible refine sound_cut (s := x) ?_ ?_; (on_goal 2 => clear_value x); (on_goal 1 => unfold x)) | (subst x))
    | split

theorem dspStepCount_sound (n at' : Nat) (s : State) (hs : Sound qq t0 s) :
    Sound qq t0 (dspStepCount n at' s) := by
  unfold dspStepCount
  repeat' first
    | with_reducible intro _
    | with_reducible assumption
    | with_reducible apply modDsp_sound
    | with_reducible apply modTgt_sound
    | simp only [↓sound_mk_iff]
    | split

theorem retire_sound (n t cost next : Nat) (s : State) (hs : Sound qq t0 s) :
    Sound qq t0 (retire n t cost next s) := by
  unfold retire
  repeat' first
    | with_reducible intro _
    | with_reducible assumption
    | with_reducible apply modDsp_sound
    | with_reducible apply wr_sound
    | with_reducible apply dspStepCount_sound
    | with_reducible apply setBit_sound
    | simp only [↓sound_mk_iff]
    | with_reducible apply sound_ite
    | (extract_lets x; first | (with_reducible refine sound_cut (s := x) ?_ ?_; (on_goal 2 => clear_value x); (on_goal 1 => unfold x)) | (subst x))
    | split

theorem stallOn_sound (n : Nat) (s : State) (hs : Sound qq t0 s) :
    Sound qq t0 (stallOn n s) := by
  unfold stallOn
  repeat' first
    | with_reducible intro _
    | with_reducible assumption
    | with_reducible apply stalled_sound
    | with_reducible apply modDsp_sound
    | simp only [↓sound_mk_iff]
    | with_reducible apply sound_ite
    | (extract_lets x; first | (with_reducible refine sound_cut (s := x) ?_ ?_; (on_goal 2 => clear_value x); (on_goal 1 => unfold x)) | (subst x))
    | split

theorem insnCommand_sound (n id : Nat) (act : (w pc t : Nat) → State → State) (s : State) (hs : Sound qq t0 s) (hact : ∀ (y0 : Nat) (y1 : Nat) (y2 : Nat) (y3 : State), Sound qq t0 y3 → Sound qq t0 (act y0 y1 y2 y3)) :
    SoundOut qq t0 (insnCommand n id act s) := by
  unfold insnCommand
  repeat' first
    | with_reducible intro _
    | with_reducible assumption
    | with_reducible apply hact
    | with_reducible apply stallOn_sound
    | with_reducible apply boundaryFault_sound
    | with_reducible apply dspFault_sound
    | with_reducible apply waited_sound
    | with_reducible apply brkMatch_sound
    | with_reducible apply modTgt_sound
    | with_reducible apply upto_sound
    | with_reducible apply wr_sound
    | simp only [↓sound_mk_iff]
    | with_reducible apply sound_ite
    | with_reducible apply soundOut_next
    | with_reducible apply soundOut_fault
    | with_reducible apply soundOut_ite
    | with_reducible apply unitCmd_sound
    | (extract_lets x; first | (with_reducible refine sound_cut (s := x) ?_ ?_; (on_goal 2 => clear_value x); (on_goal 1 => unfold x)) | (subst x))
    | split

theorem fitElem_sound (n : Nat) (r : Int) (s : State) (hs : Sound qq t0 s) :
    Sound qq t0 (fitElem n r s).2 := by
  unfold fitElem
  repeat' first
    | with_reducible intro _
    | with_reducible assumption
    | with_reducible apply setBit_sound
    | with_reducible apply sound_ite
    | split

theorem fitAcc_sound (n : Nat) (r : Int) (s : State) (hs : Sound qq t0 s) :
    Sound qq t0 (fitAcc n r s).2 := by
  unfold fitAcc
  repeat' first
    | with_reducible intro _
    | with_reducible assumption
    | with_reducible apply setBit_sound
    | with_reducible apply sound_ite
    | split

theorem writeV_sound (n v : Nat) (block : Bool) (r : Nat → Int) (s : State) (hs : Sound qq t0 s) :
    Sound qq t0 (writeV n v block r s) := by
  unfold writeV
  repeat' first
    | with_reducible intro _
    | with_reducible assumption
    | with_reducible apply fitElem_sound
    | with_reducible apply modDsp_sound
    | with_reducible apply wr_sound
    | simp only [↓sound_mk_iff]
    | with_reducible apply sound_ite
    | with_reducible apply sound_foldl
    | (extract_lets x; first | (with_reducible refine sound_cut (s := x) ?_ ?_; (on_goal 2 => clear_value x); (on_goal 1 => unfold x)) | (subst x))
    | split

theorem writeA_sound (n a : Nat) (r : Nat → Int) (s : State) (hs : Sound qq t0 s) :
    Sound qq t0 (writeA n a r s) := by
  unfold writeA
  repeat' first
    | with_reducible intro _
    | with_reducible assumption
    | with_reducible apply fitAcc_sound
    | with_reducible apply modDsp_sound
    | simp only [↓sound_mk_iff]
    | with_reducible apply sound_foldl
    | (extract_lets x; first | (with_reducible refine sound_cut (s := x) ?_ ?_; (on_goal 2 => clear_value x); (on_goal 1 => unfold x)) | (subst x))

theorem runSlot_sound (n t : Nat) (ecc : Ecc) (d0 : DspRun) (x : Nat × Nat) (r : SlotRun) (hr : Sound qq t0 r.st) :
    Sound qq t0 (runSlot n t ecc d0 x r).st := by
  unfold runSlot
  extract_lets a b store p tc lo w s1 pt mine extra pt1 s2 at' e0 e1
  have h1 : Sound qq t0 s1 := brkMatch_sound _ _ _ _ _ _ _ hr
  have h0 : Sound qq t0 pt.2 := portTake_sound _ _ _ _ _ _ _ _ h1
  have h2 : Sound qq t0 pt1.2 := sound_ite (portStall_sound _ _ _ h0) h0
  have h3 : Sound qq t0 s2 := by
    show Sound qq t0 (match ecc with
      | .ce => scrFlag b 0 (pt1.2.bump 64 (SCR.CE b))
      | .ue | .multi => scrFlag b 1 (pt1.2.bump 64 (SCR.UE b))
      | .clean => pt1.2)
    cases ecc
    · exact h2
    · exact scrFlag_sound _ _ _ (bump_sound _ _ _ h2)
    · exact scrFlag_sound _ _ _ (bump_sound _ _ _ h2)
    · exact scrFlag_sound _ _ _ (bump_sound _ _ _ h2)
  split
  · exact sound_ite (store_sound _ _ _ _ h2) h2
  · split
    · exact h3
    · dsimp only
      exact modDsp_sound _ _ _ h3

theorem keepReg_sound (n : Nat) (d0 : DspRun) (x : Nat × Nat) (ecc : Ecc) (s : State) (hs : Sound qq t0 s) :
    Sound qq t0 (keepReg n d0 x ecc s) := by
  unfold keepReg
  repeat' first
    | with_reducible intro _
    | with_reducible assumption
    | with_reducible apply modDsp_sound
    | simp only [↓sound_mk_iff]
    | with_reducible apply sound_foldl
    | with_reducible apply sound_foldl_snd
    | with_reducible apply sound_ite
    | (extract_lets x; first | (with_reducible refine sound_cut (s := x) ?_ ?_; (on_goal 2 => clear_value x); (on_goal 1 => unfold x)) | (subst x))
    | split

theorem runSlots_sound (n t w : Nat) (ecc : List Ecc) (s : State) (hs : Sound qq t0 s) : Sound qq t0 (runSlots n t w ecc s).st := by
  unfold runSlots
  extract_lets d0 pm
  split
  · exact hs
  · dsimp only
    exact modDsp_sound _ _ _ (runSlot_sound n t _ d0 _ { st := s, arrive := t } hs)
  · rename_i x y _ _
    extract_lets bx by' same r1 r2 r3 s1 a s2
    have h1 : Sound qq t0 r1.st := runSlot_sound n t _ d0 _ { st := s, arrive := t } hs
    have h3 : Sound qq t0 r3.st := runSlot_sound n t _ d0 _ r2 h1
    have hp : ∀ z u, Sound qq t0 u → Sound qq t0 (pm z u) := fun z u h => modDsp_sound _ _ _ h
    have hs1 : Sound qq t0 s1 := hp _ _ (hp _ _ h3)
    have hs2 : Sound qq t0 s2 := sound_ite (sound_ite (hp _ _ hs1) (sound_ite hs1 (drawn_sound _ (modDsp_sound _ _ _ hs1)))) hs1
    split
    · exact keepReg_sound n d0 y (eccOf ecc y.1) _ (keepReg_sound n d0 x (eccOf ecc x.1) s2 hs2)
    · split
      · exact drawn_sound _ (drawn_sound _ (sound_ite (modDsp_sound _ _ _ hs2) hs2))
      · exact hs2

theorem macAct_sound (n : Nat) (ecc : List Ecc) (f : Int → Int → Int) (w pc t : Nat) (s : State) (hs : Sound qq t0 s) :
    Sound qq t0 (macAct n ecc f w pc t s) := by
  unfold macAct
  repeat' first
    | with_reducible intro _
    | with_reducible assumption
    | with_reducible apply runSlots_sound
    | with_reducible apply writeA_sound
    | with_reducible apply stalled_sound
    | with_reducible apply retire_sound
    | with_reducible apply dspFault_sound
    | with_reducible apply arrive_sound
    | with_reducible apply modDsp_sound
    | simp only [↓sound_mk_iff]
    | with_reducible apply sound_ite
    | (extract_lets x; first | (with_reducible refine sound_cut (s := x) ?_ ?_; (on_goal 2 => clear_value x); (on_goal 1 => unfold x)) | (subst x))
    | split

theorem execMpy_sound (n : Nat) (ecc : List Ecc) (s : State) (hs : Sound qq t0 s) :
    SoundOut qq t0 (execMpy n ecc s) := by
  unfold execMpy
  repeat' first
    | with_reducible intro _
    | with_reducible assumption
    | with_reducible apply macAct_sound
    | with_reducible apply insnCommand_sound
    | simp only [↓sound_mk_iff]
    | with_reducible apply sound_ite
    | with_reducible apply soundOut_next
    | with_reducible apply soundOut_fault
    | with_reducible apply soundOut_ite
    | with_reducible apply unitCmd_sound
    | (extract_lets x; first | (with_reducible refine sound_cut (s := x) ?_ ?_; (on_goal 2 => clear_value x); (on_goal 1 => unfold x)) | (subst x))
    | split

theorem execMac_sound (n : Nat) (ecc : List Ecc) (s : State) (hs : Sound qq t0 s) :
    SoundOut qq t0 (execMac n ecc s) := by
  unfold execMac
  repeat' first
    | with_reducible intro _
    | with_reducible assumption
    | with_reducible apply macAct_sound
    | with_reducible apply insnCommand_sound
    | simp only [↓sound_mk_iff]
    | with_reducible apply sound_ite
    | with_reducible apply soundOut_next
    | with_reducible apply soundOut_fault
    | with_reducible apply soundOut_ite
    | with_reducible apply unitCmd_sound
    | (extract_lets x; first | (with_reducible refine sound_cut (s := x) ?_ ?_; (on_goal 2 => clear_value x); (on_goal 1 => unfold x)) | (subst x))
    | split

theorem execMsu_sound (n : Nat) (ecc : List Ecc) (s : State) (hs : Sound qq t0 s) :
    SoundOut qq t0 (execMsu n ecc s) := by
  unfold execMsu
  repeat' first
    | with_reducible intro _
    | with_reducible assumption
    | with_reducible apply macAct_sound
    | with_reducible apply insnCommand_sound
    | simp only [↓sound_mk_iff]
    | with_reducible apply sound_ite
    | with_reducible apply soundOut_next
    | with_reducible apply soundOut_fault
    | with_reducible apply soundOut_ite
    | with_reducible apply unitCmd_sound
    | (extract_lets x; first | (with_reducible refine sound_cut (s := x) ?_ ?_; (on_goal 2 => clear_value x); (on_goal 1 => unfold x)) | (subst x))
    | split

theorem execMem_sound (n : Nat) (ecc : List Ecc) (s : State) (hs : Sound qq t0 s) :
    SoundOut qq t0 (execMem n ecc s) := by
  unfold execMem
  repeat' first
    | with_reducible intro _
    | with_reducible assumption
    | with_reducible apply runSlots_sound
    | with_reducible apply insnCommand_sound
    | with_reducible apply stalled_sound
    | with_reducible apply retire_sound
    | with_reducible apply dspFault_sound
    | simp only [↓sound_mk_iff]
    | with_reducible apply sound_ite
    | with_reducible apply soundOut_next
    | with_reducible apply soundOut_fault
    | with_reducible apply soundOut_ite
    | with_reducible apply unitCmd_sound
    | (extract_lets x; first | (with_reducible refine sound_cut (s := x) ?_ ?_; (on_goal 2 => clear_value x); (on_goal 1 => unfold x)) | (subst x))
    | split

theorem accAct_sound (n : Nat) (f : (w : Nat) → (l : Nat) → State → Int) (w pc t : Nat) (s : State) (hs : Sound qq t0 s) :
    Sound qq t0 (accAct n f w pc t s) := by
  unfold accAct
  repeat' first
    | with_reducible intro _
    | with_reducible assumption
    | with_reducible apply retire_sound
    | with_reducible apply writeA_sound
    | with_reducible apply modDsp_sound
    | simp only [↓sound_mk_iff]
    | (extract_lets x; first | (with_reducible refine sound_cut (s := x) ?_ ?_; (on_goal 2 => clear_value x); (on_goal 1 => unfold x)) | (subst x))

theorem execAccClr_sound (n : Nat) (s : State) (hs : Sound qq t0 s) :
    SoundOut qq t0 (execAccClr n s) := by
  unfold execAccClr
  repeat' first
    | with_reducible intro _
    | with_reducible assumption
    | with_reducible apply insnCommand_sound
    | with_reducible apply accAct_sound
    | with_reducible apply soundOut_next
    | with_reducible apply soundOut_fault

theorem execAccLda_sound (n : Nat) (s : State) (hs : Sound qq t0 s) :
    SoundOut qq t0 (execAccLda n s) := by
  unfold execAccLda
  repeat' first
    | with_reducible intro _
    | with_reducible assumption
    | with_reducible apply insnCommand_sound
    | with_reducible apply accAct_sound
    | with_reducible apply soundOut_next
    | with_reducible apply soundOut_fault

theorem execAccAdda_sound (n : Nat) (s : State) (hs : Sound qq t0 s) :
    SoundOut qq t0 (execAccAdda n s) := by
  unfold execAccAdda
  repeat' first
    | with_reducible intro _
    | with_reducible assumption
    | with_reducible apply insnCommand_sound
    | with_reducible apply accAct_sound
    | with_reducible apply soundOut_next
    | with_reducible apply soundOut_fault

theorem execAccSuml_sound (n : Nat) (s : State) (hs : Sound qq t0 s) :
    SoundOut qq t0 (execAccSuml n s) := by
  unfold execAccSuml
  repeat' first
    | with_reducible intro _
    | with_reducible assumption
    | with_reducible apply insnCommand_sound
    | with_reducible apply accAct_sound
    | with_reducible apply soundOut_next
    | with_reducible apply soundOut_fault
    | with_reducible apply soundOut_ite
    | with_reducible apply sound_ite
    | (extract_lets x; first | (with_reducible refine sound_cut (s := x) ?_ ?_; (on_goal 2 => clear_value x); (on_goal 1 => unfold x)) | (subst x))
    | split

theorem execAccShra_sound (n : Nat) (s : State) (hs : Sound qq t0 s) :
    SoundOut qq t0 (execAccShra n s) := by
  unfold execAccShra
  repeat' first
    | with_reducible intro _
    | with_reducible assumption
    | with_reducible apply insnCommand_sound
    | with_reducible apply accAct_sound
    | with_reducible apply soundOut_next
    | with_reducible apply soundOut_fault

theorem execAccStr_sound (n : Nat) (s : State) (hs : Sound qq t0 s) :
    SoundOut qq t0 (execAccStr n s) := by
  unfold execAccStr
  repeat' first
    | with_reducible intro _
    | with_reducible assumption
    | with_reducible apply insnCommand_sound
    | with_reducible apply writeV_sound
    | with_reducible apply retire_sound
    | with_reducible apply modDsp_sound
    | with_reducible apply soundOut_next
    | with_reducible apply soundOut_fault
    | simp only [↓sound_mk_iff]
    | (extract_lets x; first | (with_reducible refine sound_cut (s := x) ?_ ?_; (on_goal 2 => clear_value x); (on_goal 1 => unfold x)) | (subst x))

theorem addrAct_sound (n : Nat) (f : (k imm : Nat) → DspRun → DspRun) (w pc t : Nat) (s : State) (hs : Sound qq t0 s) :
    Sound qq t0 (addrAct n f w pc t s) := by
  unfold addrAct
  repeat' first
    | with_reducible intro _
    | with_reducible assumption
    | with_reducible apply retire_sound
    | with_reducible apply modDsp_sound

theorem execSeta_sound (n : Nat) (s : State) (hs : Sound qq t0 s) :
    SoundOut qq t0 (execSeta n s) := by
  unfold execSeta
  repeat' first
    | with_reducible intro _
    | with_reducible assumption
    | with_reducible apply insnCommand_sound
    | with_reducible apply addrAct_sound
    | with_reducible apply soundOut_next
    | with_reducible apply soundOut_fault
    | simp only [↓sound_mk_iff]

theorem execSeto_sound (n : Nat) (s : State) (hs : Sound qq t0 s) :
    SoundOut qq t0 (execSeto n s) := by
  unfold execSeto
  repeat' first
    | with_reducible intro _
    | with_reducible assumption
    | with_reducible apply insnCommand_sound
    | with_reducible apply addrAct_sound
    | with_reducible apply soundOut_next
    | with_reducible apply soundOut_fault
    | simp only [↓sound_mk_iff]

theorem execInca_sound (n : Nat) (s : State) (hs : Sound qq t0 s) :
    SoundOut qq t0 (execInca n s) := by
  unfold execInca
  repeat' first
    | with_reducible intro _
    | with_reducible assumption
    | with_reducible apply insnCommand_sound
    | with_reducible apply addrAct_sound
    | with_reducible apply soundOut_next
    | with_reducible apply soundOut_fault
    | simp only [↓sound_mk_iff]

theorem vecAct_sound (n : Nat) (block : Bool) (f : (w l : Nat) → State → Int) (w pc t : Nat) (s : State) (hs : Sound qq t0 s) :
    Sound qq t0 (vecAct n block f w pc t s) := by
  unfold vecAct
  repeat' first
    | with_reducible intro _
    | with_reducible assumption
    | with_reducible apply retire_sound
    | with_reducible apply writeV_sound
    | with_reducible apply modDsp_sound
    | simp only [↓sound_mk_iff]
    | (extract_lets x; first | (with_reducible refine sound_cut (s := x) ?_ ?_; (on_goal 2 => clear_value x); (on_goal 1 => unfold x)) | (subst x))

theorem execVmov_sound (n : Nat) (s : State) (hs : Sound qq t0 s) :
    SoundOut qq t0 (execVmov n s) := by
  unfold execVmov
  repeat' first
    | with_reducible intro _
    | with_reducible assumption
    | with_reducible apply insnCommand_sound
    | with_reducible apply vecAct_sound
    | with_reducible apply soundOut_next
    | with_reducible apply soundOut_fault

theorem execVadd_sound (n : Nat) (s : State) (hs : Sound qq t0 s) :
    SoundOut qq t0 (execVadd n s) := by
  unfold execVadd
  repeat' first
    | with_reducible intro _
    | with_reducible assumption
    | with_reducible apply insnCommand_sound
    | with_reducible apply vecAct_sound
    | with_reducible apply soundOut_next
    | with_reducible apply soundOut_fault

theorem execVsub_sound (n : Nat) (s : State) (hs : Sound qq t0 s) :
    SoundOut qq t0 (execVsub n s) := by
  unfold execVsub
  repeat' first
    | with_reducible intro _
    | with_reducible assumption
    | with_reducible apply insnCommand_sound
    | with_reducible apply vecAct_sound
    | with_reducible apply soundOut_next
    | with_reducible apply soundOut_fault

theorem execVshl_sound (n : Nat) (s : State) (hs : Sound qq t0 s) :
    SoundOut qq t0 (execVshl n s) := by
  unfold execVshl
  repeat' first
    | with_reducible intro _
    | with_reducible assumption
    | with_reducible apply insnCommand_sound
    | with_reducible apply vecAct_sound
    | with_reducible apply soundOut_next
    | with_reducible apply soundOut_fault

theorem execVshr_sound (n : Nat) (s : State) (hs : Sound qq t0 s) :
    SoundOut qq t0 (execVshr n s) := by
  unfold execVshr
  repeat' first
    | with_reducible intro _
    | with_reducible assumption
    | with_reducible apply insnCommand_sound
    | with_reducible apply vecAct_sound
    | with_reducible apply soundOut_next
    | with_reducible apply soundOut_fault

theorem execDspNop_sound (n : Nat) (s : State) (hs : Sound qq t0 s) :
    SoundOut qq t0 (execDspNop n s) := by
  unfold execDspNop
  repeat' first
    | with_reducible intro _
    | with_reducible assumption
    | with_reducible apply insnCommand_sound
    | with_reducible apply retire_sound
    | with_reducible apply soundOut_next
    | with_reducible apply soundOut_fault

theorem execDspJmp_sound (n : Nat) (s : State) (hs : Sound qq t0 s) :
    SoundOut qq t0 (execDspJmp n s) := by
  unfold execDspJmp
  repeat' first
    | with_reducible intro _
    | with_reducible assumption
    | with_reducible apply insnCommand_sound
    | with_reducible apply retire_sound
    | with_reducible apply soundOut_next
    | with_reducible apply soundOut_fault

theorem execDjnz_sound (n : Nat) (s : State) (hs : Sound qq t0 s) :
    SoundOut qq t0 (execDjnz n s) := by
  unfold execDjnz
  repeat' first
    | with_reducible intro _
    | with_reducible assumption
    | with_reducible apply insnCommand_sound
    | with_reducible apply modDsp_sound
    | with_reducible apply retire_sound
    | with_reducible apply soundOut_next
    | with_reducible apply soundOut_fault
    | with_reducible apply soundOut_ite
    | simp only [↓sound_mk_iff]
    | with_reducible apply sound_ite
    | (extract_lets x; first | (with_reducible refine sound_cut (s := x) ?_ ?_; (on_goal 2 => clear_value x); (on_goal 1 => unfold x)) | (subst x))
    | split

theorem execDspLdc_sound (n : Nat) (s : State) (hs : Sound qq t0 s) :
    SoundOut qq t0 (execDspLdc n s) := by
  unfold execDspLdc
  repeat' first
    | with_reducible intro _
    | with_reducible assumption
    | with_reducible apply insnCommand_sound
    | with_reducible apply retire_sound
    | with_reducible apply modDsp_sound
    | with_reducible apply soundOut_next
    | with_reducible apply soundOut_fault
    | simp only [↓sound_mk_iff]

theorem execDspEvt_sound (n : Nat) (s : State) (hs : Sound qq t0 s) :
    SoundOut qq t0 (execDspEvt n s) := by
  unfold execDspEvt
  repeat' first
    | with_reducible intro _
    | with_reducible assumption
    | with_reducible apply insnCommand_sound
    | with_reducible apply retire_sound
    | with_reducible apply bump_sound
    | with_reducible apply raise_sound
    | with_reducible apply soundOut_next
    | with_reducible apply soundOut_fault

theorem execDspHaltInsn_sound (n : Nat) (s : State) (hs : Sound qq t0 s) :
    SoundOut qq t0 (execDspHaltInsn n s) := by
  unfold execDspHaltInsn
  repeat' first
    | with_reducible intro _
    | with_reducible assumption
    | with_reducible apply insnCommand_sound
    | with_reducible apply dspStopAt_sound
    | with_reducible apply soundOut_next
    | with_reducible apply soundOut_fault
    | with_reducible apply sound_foldl
    | (extract_lets x; first | (with_reducible refine sound_cut (s := x) ?_ ?_; (on_goal 2 => clear_value x); (on_goal 1 => unfold x)) | (subst x))

theorem execWaitm_sound (n : Nat) (s : State) (hs : Sound qq t0 s) :
    SoundOut qq t0 (execWaitm n s) := by
  unfold execWaitm
  repeat' first
    | with_reducible intro _
    | with_reducible assumption
    | with_reducible apply insnCommand_sound
    | with_reducible apply retire_sound
    | with_reducible apply soundOut_next
    | with_reducible apply soundOut_fault

theorem execBclr_sound (n : Nat) (s : State) (hs : Sound qq t0 s) :
    SoundOut qq t0 (execBclr n s) := by
  unfold execBclr
  repeat' first
    | with_reducible intro _
    | with_reducible assumption
    | with_reducible apply insnCommand_sound
    | with_reducible apply retire_sound
    | with_reducible apply wr_sound
    | with_reducible apply soundOut_next
    | with_reducible apply soundOut_fault

theorem execBlk_sound (n : Nat) (s : State) (hs : Sound qq t0 s) :
    SoundOut qq t0 (execBlk n s) := by
  unfold execBlk
  repeat' first
    | with_reducible intro _
    | with_reducible assumption
    | with_reducible apply insnCommand_sound
    | with_reducible apply retire_sound
    | with_reducible apply modDsp_sound
    | with_reducible apply wr_sound
    | simp only [↓sound_mk_iff]
    | with_reducible apply sound_ite
    | with_reducible apply soundOut_next
    | with_reducible apply soundOut_fault
    | with_reducible apply soundOut_ite
    | with_reducible apply unitCmd_sound
    | (extract_lets x; first | (with_reducible refine sound_cut (s := x) ?_ ?_; (on_goal 2 => clear_value x); (on_goal 1 => unfold x)) | (subst x))
    | split

theorem execDspRpt_sound (n : Nat) (s : State) (hs : Sound qq t0 s) :
    SoundOut qq t0 (execDspRpt n s) := by
  unfold execDspRpt
  repeat' first
    | with_reducible intro _
    | with_reducible assumption
    | with_reducible apply insnCommand_sound
    | with_reducible apply wr_sound
    | with_reducible apply setBit_sound
    | with_reducible apply modDsp_sound
    | with_reducible apply soundOut_next
    | with_reducible apply soundOut_fault
    | simp only [↓sound_mk_iff]

theorem moveSend_sound (n : Nat) (r : MeshReq) (s : State) (hs : Sound qq t0 s) :
    Sound qq t0 (moveSend n r s) := by
  unfold moveSend
  repeat' first
    | with_reducible intro _
    | with_reducible assumption
    | with_reducible apply meshSend_sound
    | with_reducible apply bump_sound

theorem moverTake_sound (n b : Nat) (wr : Bool) (word v : Nat) (s : State) (hs : Sound qq t0 s) :
    Sound qq t0 (moverTake n b wr word v s).2 := by
  unfold moverTake
  repeat' first
    | with_reducible intro _
    | with_reducible assumption
    | with_reducible apply portStall_sound
    | with_reducible apply portTake_sound
    | with_reducible apply wr_sound
    | simp only [↓sound_mk_iff]
    | with_reducible apply sound_ite
    | (extract_lets x; first | (with_reducible refine sound_cut (s := x) ?_ ?_; (on_goal 2 => clear_value x); (on_goal 1 => unfold x)) | (subst x))
    | split

theorem modHead_sound (n : Nat) (f : Mv → Mv) (s : State) (hs : Sound qq t0 s) :
    Sound qq t0 (modHead n f s) := by
  unfold modHead
  repeat' first
    | with_reducible intro _
    | with_reducible assumption
    | with_reducible apply modDsp_sound
    | simp only [↓sound_mk_iff]
    | split

theorem moveErr_sound (n : Nat) (ue : Bool) (s : State) (hs : Sound qq t0 s) :
    Sound qq t0 (moveErr n ue s) := by
  unfold moveErr
  repeat' first
    | with_reducible intro _
    | with_reducible assumption
    | with_reducible apply modDsp_sound
    | simp only [↓sound_mk_iff]
    | with_reducible apply sound_ite
    | (extract_lets x; first | (with_reducible refine sound_cut (s := x) ?_ ?_; (on_goal 2 => clear_value x); (on_goal 1 => unfold x)) | (subst x))
    | split

theorem moveWord_sound (n : Nat) (m : Mv) (x : MeshReq × State) (i : Nat) (hs : Sound qq t0 x.2) : Sound qq t0 (moveWord n m x i).2 := by
  unfold moveWord
  extract_lets b pt put
  have hp : Sound qq t0 pt.2 := moverTake_sound n b false _ 0 x.2 hs
  split
  · exact hp
  · exact scrFlag_sound _ _ _ (bump_sound _ _ _ hp)
  · exact moveErr_sound n true _ (scrFlag_sound _ _ _ (bump_sound _ _ _ (drawn_sound _ hp)))

theorem moveNext_sound (n : Nat) (m : Mv) (s : State) (hs : Sound qq t0 s) : Sound qq t0 (moveNext n m s).2 := by
  unfold moveNext
  extract_lets r
  split
  · exact sound_foldl_snd (fun y i h => moveWord_sound n m y i h) hs
  · exact hs

theorem dropLost_sound (n : Nat) (s : State) (hs : Sound qq t0 s) :
    Sound qq t0 (dropLost n s) := by
  unfold dropLost
  repeat' first
    | with_reducible intro _
    | with_reducible assumption
    | with_reducible apply modDsp_sound
    | simp only [↓sound_mk_iff]
    | with_reducible apply sound_ite
    | (extract_lets x; first | (with_reducible refine sound_cut (s := x) ?_ ?_; (on_goal 2 => clear_value x); (on_goal 1 => unfold x)) | (subst x))
    | split

theorem moveLost_sound (n : Nat) (s : State) (hs : Sound qq t0 s) :
    Sound qq t0 (moveLost n s) := by
  unfold moveLost
  repeat' first
    | with_reducible intro _
    | with_reducible assumption
    | with_reducible apply dropLost_sound
    | with_reducible apply modHead_sound
    | with_reducible apply dspFault_sound
    | simp only [↓sound_mk_iff]
    | with_reducible apply sound_ite
    | (extract_lets x; first | (with_reducible refine sound_cut (s := x) ?_ ?_; (on_goal 2 => clear_value x); (on_goal 1 => unfold x)) | (subst x))
    | split

theorem moveIssue_sound (n : Nat) : ∀ (z0 : Nat) (z1 : State), Sound qq t0 z1 → Sound qq t0 (moveIssue n z0 z1)
  | 0, _, h => h
  | k + 1, s, h => by
    unfold moveIssue
    split
    · split
      · refine sound_ite (moveLost_sound n s h) (sound_ite h ?_)
        exact moveIssue_sound n k _ (moveSend_sound n _ _ (modHead_sound n _ _ (moveNext_sound n _ s h)))
      · exact h
    · exact h

theorem movePump_sound (n : Nat) (s : State) (hs : Sound qq t0 s) :
    Sound qq t0 (movePump n s) := by
  unfold movePump
  split
  · refine sound_ite (setBit_sound _ _ _ _ hs) ?_
    have h : Sound qq t0 (s.setBit (DSP.FLAGS n) 4 false) := setBit_sound _ _ _ _ hs
    exact sound_ite h (moveIssue_sound n _ _ (sound_ite (modHead_sound n _ _ h) h))
  · exact setBit_sound _ _ _ _ hs

theorem execMove_sound (n : DspMove) (s : State) (hs : Sound qq t0 s) :
    SoundOut qq t0 (execMove n s) := by
  unfold execMove moveInsn
  repeat' first
    | with_reducible intro _
    | with_reducible assumption
    | with_reducible apply movePump_sound
    | with_reducible apply insnCommand_sound
    | with_reducible apply retire_sound
    | with_reducible apply dspFault_sound
    | with_reducible apply modDsp_sound
    | simp only [↓sound_mk_iff]
    | with_reducible apply sound_ite
    | with_reducible apply soundOut_next
    | with_reducible apply soundOut_fault
    | with_reducible apply soundOut_ite
    | with_reducible apply unitCmd_sound
    | (extract_lets x; first | (with_reducible refine sound_cut (s := x) ?_ ?_; (on_goal 2 => clear_value x); (on_goal 1 => unfold x)) | (subst x))
    | split

theorem execMoveGatePoll_sound (n : Nat) (s : State) (hs : Sound qq t0 s) :
    SoundOut qq t0 (execMoveGatePoll n s) := by
  unfold execMoveGatePoll
  repeat' first
    | with_reducible intro _
    | with_reducible assumption
    | with_reducible apply unitCmd_sound
    | with_reducible apply upto_sound
    | with_reducible apply moveSend_sound
    | with_reducible apply modHead_sound
    | with_reducible apply soundOut_next
    | with_reducible apply soundOut_fault
    | with_reducible apply soundOut_ite
    | simp only [↓sound_mk_iff]
    | with_reducible apply sound_ite
    | (extract_lets x; first | (with_reducible refine sound_cut (s := x) ?_ ?_; (on_goal 2 => clear_value x); (on_goal 1 => unfold x)) | (subst x))
    | split

theorem moveAnswered_sound (n : Nat) (x : MeshResp) (s : State) (hs : Sound qq t0 s) :
    Sound qq t0 (moveAnswered n x s) := by
  unfold moveAnswered
  repeat' first
    | with_reducible intro _
    | with_reducible assumption
    | with_reducible apply moveErr_sound
    | with_reducible apply bump_sound
    | with_reducible apply wr_sound
    | simp only [↓sound_mk_iff]
    | with_reducible apply sound_ite
    | (extract_lets x; first | (with_reducible refine sound_cut (s := x) ?_ ?_; (on_goal 2 => clear_value x); (on_goal 1 => unfold x)) | (subst x))
    | split

theorem gateDone_sound (n : Nat) (x : MeshResp) (s : State) (hs : Sound qq t0 s) :
    Sound qq t0 (gateDone n x s) := by
  unfold gateDone
  repeat' first
    | with_reducible intro _
    | with_reducible assumption
    | with_reducible apply moveAnswered_sound
    | with_reducible apply movePump_sound
    | with_reducible apply modHead_sound
    | with_reducible apply modDsp_sound
    | simp only [↓sound_mk_iff]
    | with_reducible apply sound_ite
    | (extract_lets x; first | (with_reducible refine sound_cut (s := x) ?_ ?_; (on_goal 2 => clear_value x); (on_goal 1 => unfold x)) | (subst x))
    | split

theorem moveStore_sound (n : Nat) (m : Mv) (k data : Nat) (s : State) (i : Nat) (hs : Sound qq t0 s) :
    Sound qq t0 (moveStore n m k data s i) := by
  unfold moveStore
  repeat' first
    | with_reducible intro _
    | with_reducible assumption
    | with_reducible apply moverTake_sound
    | with_reducible apply store_sound
    | simp only [↓sound_mk_iff]
    | with_reducible apply sound_ite
    | (extract_lets x; first | (with_reducible refine sound_cut (s := x) ?_ ?_; (on_goal 2 => clear_value x); (on_goal 1 => unfold x)) | (subst x))
    | split

theorem moveDone_sound (n : Nat) (x : MeshResp) (s : State) (hs : Sound qq t0 s) :
    Sound qq t0 (moveDone n x s) := by
  unfold moveDone
  repeat' first
    | with_reducible intro _
    | with_reducible assumption
    | with_reducible apply moveStore_sound
    | with_reducible apply moveAnswered_sound
    | with_reducible apply movePump_sound
    | with_reducible apply moveLost_sound
    | with_reducible apply modHead_sound
    | simp only [↓sound_mk_iff]
    | with_reducible apply sound_foldl
    | with_reducible apply sound_foldl_snd
    | with_reducible apply sound_ite
    | (extract_lets x; first | (with_reducible refine sound_cut (s := x) ?_ ?_; (on_goal 2 => clear_value x); (on_goal 1 => unfold x)) | (subst x))
    | split

theorem execMoveComplete_sound (n : Nat) (s : State) (hs : Sound qq t0 s) :
    SoundOut qq t0 (execMoveComplete n s) := by
  unfold execMoveComplete
  repeat' first
    | with_reducible intro _
    | with_reducible assumption
    | with_reducible apply movePump_sound
    | with_reducible apply moveSend_sound
    | with_reducible apply modDsp_sound
    | with_reducible apply note_sound
    | with_reducible apply wr_sound
    | simp only [↓sound_mk_iff]
    | with_reducible apply sound_ite
    | with_reducible apply soundOut_next
    | with_reducible apply soundOut_fault
    | with_reducible apply soundOut_ite
    | with_reducible apply unitCmd_sound
    | (extract_lets x; first | (with_reducible refine sound_cut (s := x) ?_ ?_; (on_goal 2 => clear_value x); (on_goal 1 => unfold x)) | (subst x))
    | split

theorem dspStartEff_sound (n : Nat) (s : State) (hs : Sound qq t0 s) :
    Sound qq t0 (dspStartEff n s) := by
  unfold dspStartEff
  repeat' first
    | with_reducible intro _
    | with_reducible assumption
    | with_reducible apply modDsp_sound
    | with_reducible apply wr_sound
    | simp only [↓sound_mk_iff]

theorem dspStartAtEff_sound (n : Nat) (s : State) (hs : Sound qq t0 s) :
    Sound qq t0 (dspStartAtEff n s) := by
  unfold dspStartAtEff
  repeat' first
    | with_reducible intro _
    | with_reducible assumption
    | with_reducible apply dspStartEff_sound
    | with_reducible apply modDsp_sound
    | simp only [↓sound_mk_iff]
    | (extract_lets x; first | (with_reducible refine sound_cut (s := x) ?_ ?_; (on_goal 2 => clear_value x); (on_goal 1 => unfold x)) | (subst x))

theorem dspStopEff_sound (n : Nat) (s : State) (hs : Sound qq t0 s) :
    Sound qq t0 (dspStopEff n s) := by
  unfold dspStopEff
  repeat' first
    | with_reducible intro _
    | with_reducible assumption
    | with_reducible apply schedFree_sound
    | with_reducible apply wr_sound
    | with_reducible apply modDsp_sound
    | simp only [↓sound_mk_iff]
    | with_reducible apply sound_ite
    | split

theorem dspHaltEff_sound (n : Nat) (s : State) (hs : Sound qq t0 s) :
    Sound qq t0 (dspHaltEff n s) := by
  unfold dspHaltEff
  repeat' first
    | with_reducible intro _
    | with_reducible assumption
    | with_reducible apply modDsp_sound
    | simp only [↓sound_mk_iff]

theorem dspGoOn_sound (n : Nat) (s : State) (hs : Sound qq t0 s) :
    Sound qq t0 (dspGoOn n s) := by
  unfold dspGoOn
  repeat' first
    | with_reducible intro _
    | with_reducible assumption
    | with_reducible apply modDsp_sound
    | with_reducible apply wr_sound
    | simp only [↓sound_mk_iff]
    | with_reducible apply sound_ite
    | (extract_lets x; first | (with_reducible refine sound_cut (s := x) ?_ ?_; (on_goal 2 => clear_value x); (on_goal 1 => unfold x)) | (subst x))
    | split

theorem dspResumeEff_sound (n : Nat) (s : State) (hs : Sound qq t0 s) :
    Sound qq t0 (dspResumeEff n s) := by
  unfold dspResumeEff
  repeat' first
    | with_reducible intro _
    | with_reducible assumption
    | with_reducible apply dspGoOn_sound
    | with_reducible apply modTgt_sound
    | simp only [↓sound_mk_iff]
    | with_reducible apply sound_ite
    | (extract_lets x; first | (with_reducible refine sound_cut (s := x) ?_ ?_; (on_goal 2 => clear_value x); (on_goal 1 => unfold x)) | (subst x))
    | split

theorem dspSelfcheckEff_sound (n : Nat) (s : State) (hs : Sound qq t0 s) :
    Sound qq t0 (dspSelfcheckEff n s) := by
  unfold dspSelfcheckEff
  repeat' first
    | with_reducible intro _
    | with_reducible assumption
    | with_reducible apply modDsp_sound
    | with_reducible apply wr_sound
    | simp only [↓sound_mk_iff]

theorem execDspStart_sound (q : Req) (n : Nat) (s : State) (hs : Sound qq t0 s) :
    SoundOut qq t0 (execDspStart q n s) := by
  unfold execDspStart
  repeat' first
    | with_reducible intro _
    | with_reducible assumption
    | with_reducible apply unitCmd_sound
    | with_reducible apply command_sound
    | with_reducible apply dspStartEff_sound
    | with_reducible apply soundOut_next
    | with_reducible apply soundOut_fault

theorem execDspStartAt_sound (q : Req) (n : Nat) (s : State) (hs : Sound qq t0 s) :
    SoundOut qq t0 (execDspStartAt q n s) := by
  unfold execDspStartAt
  repeat' first
    | with_reducible intro _
    | with_reducible assumption
    | with_reducible apply unitCmd_sound
    | with_reducible apply command_sound
    | with_reducible apply dspStartAtEff_sound
    | with_reducible apply soundOut_next
    | with_reducible apply soundOut_fault

theorem execDspStop_sound (q : Req) (n : Nat) (s : State) (hs : Sound qq t0 s) :
    SoundOut qq t0 (execDspStop q n s) := by
  unfold execDspStop
  repeat' first
    | with_reducible intro _
    | with_reducible assumption
    | with_reducible apply unitCmd_sound
    | with_reducible apply command_sound
    | with_reducible apply dspStopEff_sound
    | with_reducible apply soundOut_next
    | with_reducible apply soundOut_fault

theorem execDspHalt_sound (q : Req) (n : Nat) (s : State) (hs : Sound qq t0 s) :
    SoundOut qq t0 (execDspHalt q n s) := by
  unfold execDspHalt
  repeat' first
    | with_reducible intro _
    | with_reducible assumption
    | with_reducible apply unitCmd_sound
    | with_reducible apply command_sound
    | with_reducible apply dspHaltEff_sound
    | with_reducible apply soundOut_next
    | with_reducible apply soundOut_fault

theorem execDspResume_sound (q : Req) (n : Nat) (s : State) (hs : Sound qq t0 s) :
    SoundOut qq t0 (execDspResume q n s) := by
  unfold execDspResume
  repeat' first
    | with_reducible intro _
    | with_reducible assumption
    | with_reducible apply unitCmd_sound
    | with_reducible apply command_sound
    | with_reducible apply dspResumeEff_sound
    | with_reducible apply soundOut_next
    | with_reducible apply soundOut_fault

theorem execDspSelfcheck_sound (q : Req) (n : Nat) (s : State) (hs : Sound qq t0 s) :
    SoundOut qq t0 (execDspSelfcheck q n s) := by
  unfold execDspSelfcheck
  repeat' first
    | with_reducible intro _
    | with_reducible assumption
    | with_reducible apply unitCmd_sound
    | with_reducible apply command_sound
    | with_reducible apply dspSelfcheckEff_sound
    | with_reducible apply soundOut_next
    | with_reducible apply soundOut_fault

theorem execDspSelfcheckEnd_sound (n : Nat) (pass : Bool) (s : State) (hs : Sound qq t0 s) :
    SoundOut qq t0 (execDspSelfcheckEnd n pass s) := by
  unfold execDspSelfcheckEnd
  repeat' first
    | with_reducible intro _
    | with_reducible assumption
    | with_reducible apply modDsp_sound
    | with_reducible apply raise_sound
    | with_reducible apply wr_sound
    | simp only [↓sound_mk_iff]
    | with_reducible apply sound_ite
    | with_reducible apply soundOut_next
    | with_reducible apply soundOut_fault
    | with_reducible apply soundOut_ite
    | with_reducible apply unitCmd_sound
    | (extract_lets x; first | (with_reducible refine sound_cut (s := x) ?_ ?_; (on_goal 2 => clear_value x); (on_goal 1 => unfold x)) | (subst x))
    | split

theorem execDspStartEdge_sound (n : Nat) (s : State) (hs : Sound qq t0 s) :
    SoundOut qq t0 (execDspStartEdge n s) := by
  unfold execDspStartEdge
  repeat' first
    | with_reducible intro _
    | with_reducible assumption
    | with_reducible apply modDsp_sound
    | with_reducible apply upto_sound
    | with_reducible apply raise_sound
    | with_reducible apply wr_sound
    | simp only [↓sound_mk_iff]
    | with_reducible apply sound_ite
    | with_reducible apply soundOut_next
    | with_reducible apply soundOut_fault
    | with_reducible apply soundOut_ite
    | with_reducible apply unitCmd_sound
    | (extract_lets x; first | (with_reducible refine sound_cut (s := x) ?_ ?_; (on_goal 2 => clear_value x); (on_goal 1 => unfold x)) | (subst x))
    | split

theorem dspLand_sound (n th : Nat) (halt : Bool) (s : State) (hs : Sound qq t0 s) :
    Sound qq t0 (dspLand n th halt s) := by
  unfold dspLand
  repeat' first
    | with_reducible intro _
    | with_reducible assumption
    | with_reducible apply dspFault_sound
    | with_reducible apply dspStopAt_sound
    | with_reducible apply waited_sound
    | with_reducible apply freezeDsp_sound
    | with_reducible apply modDsp_sound
    | with_reducible apply modTgt_sound
    | with_reducible apply upto_sound
    | with_reducible apply flag_sound
    | with_reducible apply raise_sound
    | with_reducible apply wr_sound
    | simp only [↓sound_mk_iff]
    | with_reducible apply sound_ite
    | (extract_lets x; first | (with_reducible refine sound_cut (s := x) ?_ ?_; (on_goal 2 => clear_value x); (on_goal 1 => unfold x)) | (subst x))
    | split

theorem execDspHaltLands_sound (n : Nat) (s : State) (hs : Sound qq t0 s) :
    SoundOut qq t0 (execDspHaltLands n s) := by
  unfold execDspHaltLands
  repeat' first
    | with_reducible intro _
    | with_reducible assumption
    | with_reducible apply unitCmd_sound
    | with_reducible apply dspLand_sound
    | with_reducible apply soundOut_next
    | with_reducible apply soundOut_fault
    | with_reducible apply soundOut_ite
    | with_reducible apply sound_ite
    | split

theorem execDspStopLands_sound (n : Nat) (s : State) (hs : Sound qq t0 s) :
    SoundOut qq t0 (execDspStopLands n s) := by
  unfold execDspStopLands
  repeat' first
    | with_reducible intro _
    | with_reducible assumption
    | with_reducible apply unitCmd_sound
    | with_reducible apply dspStopAt_sound
    | with_reducible apply dspLand_sound
    | with_reducible apply soundOut_next
    | with_reducible apply soundOut_fault
    | with_reducible apply soundOut_ite
    | with_reducible apply sound_ite
    | split

set_option Elab.async false in
theorem execDspWatchdogExpiry_sound (n : Nat) (s : State) (hs : Sound qq t0 s) :
    SoundOut qq t0 (execDspWatchdogExpiry n s) := by
  unfold execDspWatchdogExpiry
  repeat' first
    | with_reducible intro _
    | with_reducible assumption
    | with_reducible apply boundaryFault_sound
    | simp only [↓sound_mk_iff]
    | with_reducible apply sound_ite
    | with_reducible apply soundOut_next
    | with_reducible apply soundOut_fault
    | with_reducible apply soundOut_ite
    | with_reducible apply unitCmd_sound
    | (extract_lets x; first | (with_reducible refine sound_cut (s := x) ?_ ?_; (on_goal 2 => clear_value x); (on_goal 1 => unfold x)) | (subst x))
    | split

end Sys2Proof.Laws
end

