-- ==== Sys2Proof/Laws/SoundCrh.lean ====
section
/-! SUPPORT. What every operation of Machine/Crh.lean keeps. -/
namespace Sys2Proof.Laws
open Sys2Proof Sys2Proof.Machine
set_option linter.unusedVariables false
set_option linter.unusedTactic false
set_option linter.unreachableTactic false

variable {qq : List Instr} {t0 : Nat}

theorem repair_dflt : ∀ k, repairKey k = true → Dict.dflt k = 0 := by
  intro k hk
  unfold repairKey at hk
  rw [Bool.or_eq_true] at hk
  rcases hk with hk | hk
  · simp only [Bool.and_eq_true, Nat.ble_eq, Nat.blt_eq, Nat.beq_eq] at hk
    have h : ∀ p < 1536, Dict.dflt ((0x5100 + p) * 256 + 11) = 0 := by decide +kernel
    have e : k = (0x5100 + (k / 256 - 0x5100)) * 256 + 11 := by omega
    rw [e]
    exact h _ (by omega)
  · simp only [Bool.and_eq_true, Nat.ble_eq, Nat.blt_eq, decide_eq_true_eq] at hk
    have h : ∀ b < 64, Dict.dflt (SCR.REPAIR b) = 0 := by decide +kernel
    rw [hk.2]
    exact h _ (by omega)

theorem resetReg_wf : ∀ {r : Tab Nat}, Members.wf r → Members.wf (resetReg r)
  | [], _ => rfl
  | e :: r, h => by
    have h' := (tab_wf_cons e r).1 h
    have ih := resetReg_wf h'.2.2
    have up : ∀ (k : Nat) (t : Tab Nat), above k t → Members.wf t → above k (resetReg t) := by
      intro k t
      induction t with
      | nil => intro _ _; trivial
      | cons f t iht =>
        intro ha hw
        have hw' := (tab_wf_cons f t).1 hw
        have hk : above k t := by
          cases t with
          | nil => trivial
          | cons g t => exact Nat.lt_trans ha hw'.2.1
        unfold resetReg
        rw [List.filterMap_cons]
        split
        · exact iht hk hw'.2.2
        · rename_i x hx
          have : x.1 = f.1 := by
            split at hx
            · cases hx; rfl
            · split at hx
              · cases hx; rfl
              · cases hx
          show k < x.1
          rw [this]
          exact ha
    unfold resetReg
    rw [List.filterMap_cons]
    split
    · exact ih
    · rename_i x hx
      have hx' : x.1 = e.1 ∧ x.2 ≠ Dict.dflt e.1 := by
        split at hx
        · cases hx; exact ⟨rfl, h'.1⟩
        · split at hx
          · rename_i hr
            cases hx
            simp only [Bool.and_eq_true, bne_iff_ne] at hr
            exact ⟨rfl, by rw [repair_dflt _ hr.1]; exact hr.2⟩
          · cases hx
      refine (tab_wf_cons _ _).2 ⟨?_, ?_, ih⟩
      · rw [hx'.1]; exact hx'.2
      · rw [hx'.1]; exact up _ _ h'.2.1 h'.2.2

theorem modCrh_sound (f : CrhS → CrhS) (s : State) (hs : Sound qq t0 s) :
    Sound qq t0 (modCrh f s) := by
  unfold modCrh
  repeat' first
    | with_reducible intro _
    | with_reducible assumption
    | simp only [↓sound_mk_iff]

theorem graded_sound (s : State) (hs : Sound qq t0 s) :
    Sound qq t0 (graded s) := by
  unfold graded
  repeat' first
    | with_reducible intro _
    | with_reducible assumption
    | with_reducible apply wr_sound
    | with_reducible apply sound_ite
    | with_reducible apply sound_foldl
    | (extract_lets x; first | (with_reducible refine sound_cut (s := x) ?_ ?_; (on_goal 2 => clear_value x); (on_goal 1 => unfold x)) | (subst x))
    | split

theorem clearPart_sound (s : State) (hs : Sound qq t0 s) : Sound qq t0 (clearPart s) := by
  unfold clearPart
  extract_lets refin refsel t u v
  have ht : Sound qq t0 t := ⟨hs.pending, hs.now, rfl, resetReg_wf hs.reg⟩
  have hu : Sound qq t0 u := setBit_sound _ _ _ _ (setBit_sound _ _ _ _ (setBit_sound _ _ _ _ ht))
  have hv : Sound qq t0 v := setBit_sound _ _ _ _ (setBit_sound _ _ _ _ hu)
  exact graded_sound _ (setBit_sound _ _ _ _ (setBit_sound _ _ _ _ hv))

theorem noteCause_sound (b : Nat) (s : State) (hs : Sound qq t0 s) :
    Sound qq t0 (noteCause b s) := by
  unfold noteCause
  repeat' first
    | with_reducible intro _
    | with_reducible assumption
    | with_reducible apply setBit_sound
    | with_reducible apply bump_sound
    | with_reducible apply sound_ite
    | (extract_lets x; first | (with_reducible refine sound_cut (s := x) ?_ ?_; (on_goal 2 => clear_value x); (on_goal 1 => unfold x)) | (subst x))
    | split

theorem partReset_sound (b : Nat) (s : State) (hs : Sound qq t0 s) :
    Sound qq t0 (partReset b s) := by
  unfold partReset
  repeat' first
    | with_reducible intro _
    | with_reducible assumption
    | with_reducible apply noteCause_sound
    | with_reducible apply clearPart_sound
    | with_reducible apply modCrh_sound
    | with_reducible apply bump_sound
    | simp only [↓sound_mk_iff]
    | with_reducible apply sound_ite
    | (extract_lets x; first | (with_reducible refine sound_cut (s := x) ?_ ?_; (on_goal 2 => clear_value x); (on_goal 1 => unfold x)) | (subst x))
    | split

theorem coldReset_sound (b : Nat) (s : State) (hs : Sound qq t0 s) :
    Sound qq t0 (coldReset b s) := by
  unfold coldReset
  repeat' first
    | with_reducible intro _
    | with_reducible assumption
    | with_reducible apply clearPart_sound
    | with_reducible apply modCrh_sound
    | with_reducible apply wr_sound
    | simp only [↓sound_mk_iff]
    | with_reducible apply sound_ite
    | (extract_lets x; first | (with_reducible refine sound_cut (s := x) ?_ ?_; (on_goal 2 => clear_value x); (on_goal 1 => unfold x)) | (subst x))
    | split

theorem refinGone_sound (s : State) (hs : Sound qq t0 s) :
    Sound qq t0 (refinGone s) := by
  unfold refinGone
  repeat' first
    | with_reducible intro _
    | with_reducible assumption
    | with_reducible apply setBit_sound

theorem sampleStraps_sound (v : Nat) (s : State) (hs : Sound qq t0 s) :
    Sound qq t0 (sampleStraps v s) := by
  unfold sampleStraps
  repeat' first
    | with_reducible intro _
    | with_reducible assumption
    | with_reducible apply wr_sound
    | with_reducible apply setBit_sound

theorem execPor_sound (board : Board) (s : State) (hs : Sound qq t0 s) :
    SoundOut qq t0 (execPor board s) := by
  unfold execPor
  repeat' first
    | with_reducible intro _
    | with_reducible assumption
    | with_reducible apply refinGone_sound
    | with_reducible apply sampleStraps_sound
    | with_reducible apply coldReset_sound
    | with_reducible apply graded_sound
    | with_reducible apply modCrh_sound
    | with_reducible apply modDmc_sound
    | with_reducible apply soundOut_next
    | with_reducible apply soundOut_fault
    | simp only [↓sound_mk_iff]
    | with_reducible apply sound_foldl
    | (extract_lets x; first | (with_reducible refine sound_cut (s := x) ?_ ?_; (on_goal 2 => clear_value x); (on_goal 1 => unfold x)) | (subst x))

theorem execBrownout_sound (s : State) (hs : Sound qq t0 s) :
    SoundOut qq t0 (execBrownout s) := by
  unfold execBrownout
  repeat' first
    | with_reducible intro _
    | with_reducible assumption
    | with_reducible apply sampleStraps_sound
    | with_reducible apply coldReset_sound
    | with_reducible apply drawn_sound
    | simp only [↓sound_mk_iff]
    | with_reducible apply sound_ite
    | with_reducible apply soundOut_next
    | with_reducible apply soundOut_fault
    | with_reducible apply soundOut_ite
    | with_reducible apply unitCmd_sound
    | (extract_lets x; first | (with_reducible refine sound_cut (s := x) ?_ ?_; (on_goal 2 => clear_value x); (on_goal 1 => unfold x)) | (subst x))
    | split

theorem execPinReset_sound (s : State) (hs : Sound qq t0 s) :
    SoundOut qq t0 (execPinReset s) := by
  unfold execPinReset
  repeat' first
    | with_reducible intro _
    | with_reducible assumption
    | with_reducible apply modCrh_sound
    | with_reducible apply partReset_sound
    | with_reducible apply soundOut_next
    | with_reducible apply soundOut_fault
    | simp only [↓sound_mk_iff]

theorem execNresetRise_sound (straps : Nat) (s : State) (hs : Sound qq t0 s) :
    SoundOut qq t0 (execNresetRise straps s) := by
  unfold execNresetRise
  repeat' first
    | with_reducible intro _
    | with_reducible assumption
    | with_reducible apply modCrh_sound
    | with_reducible apply sampleStraps_sound
    | with_reducible apply soundOut_next
    | with_reducible apply soundOut_fault
    | with_reducible apply soundOut_ite
    | simp only [↓sound_mk_iff]
    | with_reducible apply sound_ite
    | split

theorem softReset_sound (q : Req) (s : State) (hs : Sound qq t0 s) :
    Sound qq t0 (softReset q s) := by
  unfold softReset
  repeat' first
    | with_reducible intro _
    | with_reducible assumption
    | with_reducible apply command_sound
    | with_reducible apply partReset_sound
    | with_reducible apply sound_ite
    | (extract_lets x; first | (with_reducible refine sound_cut (s := x) ?_ ?_; (on_goal 2 => clear_value x); (on_goal 1 => unfold x)) | (subst x))
    | split

theorem execSoftReset_sound (q : Req) (s : State) (hs : Sound qq t0 s) :
    SoundOut qq t0 (execSoftReset q s) := by
  unfold execSoftReset
  repeat' first
    | with_reducible intro _
    | with_reducible assumption
    | with_reducible apply softReset_sound
    | with_reducible apply soundOut_next
    | with_reducible apply soundOut_fault

theorem execThermalTrip_sound (s : State) (hs : Sound qq t0 s) :
    SoundOut qq t0 (execThermalTrip s) := by
  unfold execThermalTrip
  repeat' first
    | with_reducible intro _
    | with_reducible assumption
    | with_reducible apply modCrh_sound
    | with_reducible apply partReset_sound
    | with_reducible apply soundOut_next
    | with_reducible apply soundOut_fault
    | with_reducible apply soundOut_ite
    | simp only [↓sound_mk_iff]
    | with_reducible apply sound_ite
    | split

theorem execResetEnd_sound (s : State) (hs : Sound qq t0 s) :
    SoundOut qq t0 (execResetEnd s) := by
  unfold execResetEnd
  repeat' first
    | with_reducible intro _
    | with_reducible assumption
    | with_reducible apply modCrh_sound
    | with_reducible apply upto_sound
    | simp only [↓sound_mk_iff]
    | with_reducible apply sound_ite
    | with_reducible apply soundOut_next
    | with_reducible apply soundOut_fault
    | with_reducible apply soundOut_ite
    | with_reducible apply unitCmd_sound
    | (extract_lets x; first | (with_reducible refine sound_cut (s := x) ?_ ?_; (on_goal 2 => clear_value x); (on_goal 1 => unfold x)) | (subst x))
    | split

theorem execRefinPresent_sound (s : State) (hs : Sound qq t0 s) :
    SoundOut qq t0 (execRefinPresent s) := by
  unfold execRefinPresent
  repeat' first
    | with_reducible intro _
    | with_reducible assumption
    | with_reducible apply modCrh_sound
    | with_reducible apply setBit_sound
    | with_reducible apply soundOut_next
    | with_reducible apply soundOut_fault
    | with_reducible apply soundOut_ite
    | simp only [↓sound_mk_iff]
    | with_reducible apply sound_ite
    | split

theorem execMpllLock_sound (s : State) (hs : Sound qq t0 s) :
    SoundOut qq t0 (execMpllLock s) := by
  unfold execMpllLock
  repeat' first
    | with_reducible intro _
    | with_reducible assumption
    | with_reducible apply upto_sound
    | with_reducible apply setBit_sound
    | with_reducible apply modCrh_sound
    | with_reducible apply flag_sound
    | with_reducible apply soundOut_next
    | with_reducible apply soundOut_fault
    | with_reducible apply soundOut_ite
    | simp only [↓sound_mk_iff]
    | with_reducible apply sound_ite
    | (extract_lets x; first | (with_reducible refine sound_cut (s := x) ?_ ?_; (on_goal 2 => clear_value x); (on_goal 1 => unfold x)) | (subst x))
    | split

theorem execRefinLoss_sound (s : State) (hs : Sound qq t0 s) :
    SoundOut qq t0 (execRefinLoss s) := by
  unfold execRefinLoss lockLost refinLost
  repeat' first
    | with_reducible intro _
    | with_reducible assumption
    | with_reducible apply refinGone_sound
    | with_reducible apply partReset_sound
    | with_reducible apply drawn_sound
    | simp only [↓sound_mk_iff]
    | with_reducible apply sound_ite
    | with_reducible apply soundOut_next
    | with_reducible apply soundOut_fault
    | with_reducible apply soundOut_ite
    | with_reducible apply unitCmd_sound
    | (extract_lets x; first | (with_reducible refine sound_cut (s := x) ?_ ?_; (on_goal 2 => clear_value x); (on_goal 1 => unfold x)) | (subst x))
    | split

theorem clkoutEff_sound (v : Nat) (s : State) (hs : Sound qq t0 s) :
    Sound qq t0 (clkoutEff v s) := by
  unfold clkoutEff
  repeat' first
    | with_reducible intro _
    | with_reducible assumption
    | with_reducible apply modCrh_sound
    | with_reducible apply setBit_sound
    | with_reducible apply wr_sound
    | simp only [↓sound_mk_iff]
    | with_reducible apply sound_ite
    | (extract_lets x; first | (with_reducible refine sound_cut (s := x) ?_ ?_; (on_goal 2 => clear_value x); (on_goal 1 => unfold x)) | (subst x))
    | split

theorem clkoutStart_sound (v : Nat) (s : State) (hs : Sound qq t0 s) :
    Sound qq t0 (clkoutStart v s) := by
  unfold clkoutStart
  repeat' first
    | with_reducible intro _
    | with_reducible assumption
    | with_reducible apply modCrh_sound
    | simp only [↓sound_mk_iff]
    | with_reducible apply sound_ite
    | (extract_lets x; first | (with_reducible refine sound_cut (s := x) ?_ ?_; (on_goal 2 => clear_value x); (on_goal 1 => unfold x)) | (subst x))
    | split

theorem execClkoutCfgWrite_sound (q : Req) (v : Nat) (s : State) (hs : Sound qq t0 s) :
    SoundOut qq t0 (execClkoutCfgWrite q v s) := by
  unfold execClkoutCfgWrite
  repeat' first
    | with_reducible intro _
    | with_reducible assumption
    | with_reducible apply writeTo_sound
    | with_reducible apply clkoutEff_sound
    | with_reducible apply soundOut_next
    | with_reducible apply soundOut_fault

theorem execClockSwitchDone_sound (s : State) (hs : Sound qq t0 s) :
    SoundOut qq t0 (execClockSwitchDone s) := by
  unfold execClockSwitchDone
  repeat' first
    | with_reducible intro _
    | with_reducible assumption
    | with_reducible apply clkoutStart_sound
    | with_reducible apply modCrh_sound
    | with_reducible apply crhFlag_sound
    | with_reducible apply upto_sound
    | with_reducible apply setBit_sound
    | simp only [↓sound_mk_iff]
    | with_reducible apply sound_ite
    | with_reducible apply soundOut_next
    | with_reducible apply soundOut_fault
    | with_reducible apply soundOut_ite
    | with_reducible apply unitCmd_sound
    | (extract_lets x; first | (with_reducible refine sound_cut (s := x) ?_ ?_; (on_goal 2 => clear_value x); (on_goal 1 => unfold x)) | (subst x))
    | split

theorem execClockSwitchTimeout_sound (s : State) (hs : Sound qq t0 s) :
    SoundOut qq t0 (execClockSwitchTimeout s) := by
  unfold execClockSwitchTimeout
  repeat' first
    | with_reducible intro _
    | with_reducible assumption
    | with_reducible apply modCrh_sound
    | with_reducible apply crhFlag_sound
    | with_reducible apply upto_sound
    | with_reducible apply setBit_sound
    | simp only [↓sound_mk_iff]
    | with_reducible apply sound_ite
    | with_reducible apply soundOut_next
    | with_reducible apply soundOut_fault
    | with_reducible apply soundOut_ite
    | with_reducible apply unitCmd_sound
    | (extract_lets x; first | (with_reducible refine sound_cut (s := x) ?_ ?_; (on_goal 2 => clear_value x); (on_goal 1 => unfold x)) | (subst x))
    | split

theorem fmEff_sound (s : State) (hs : Sound qq t0 s) :
    Sound qq t0 (fmEff s) := by
  unfold fmEff
  repeat' first
    | with_reducible intro _
    | with_reducible assumption
    | with_reducible apply modCrh_sound
    | with_reducible apply wr_sound
    | simp only [↓sound_mk_iff]

theorem execFmStart_sound (q : Req) (s : State) (hs : Sound qq t0 s) :
    SoundOut qq t0 (execFmStart q s) := by
  unfold execFmStart
  repeat' first
    | with_reducible intro _
    | with_reducible assumption
    | with_reducible apply command_sound
    | with_reducible apply fmEff_sound
    | with_reducible apply soundOut_next
    | with_reducible apply soundOut_fault

theorem execFmDone_sound (count : Nat) (s : State) (hs : Sound qq t0 s) :
    SoundOut qq t0 (execFmDone count s) := by
  unfold execFmDone
  repeat' first
    | with_reducible intro _
    | with_reducible assumption
    | with_reducible apply upto_sound
    | with_reducible apply crhFlag_sound
    | with_reducible apply wr_sound
    | with_reducible apply soundOut_next
    | with_reducible apply soundOut_fault
    | with_reducible apply soundOut_ite
    | with_reducible apply sound_ite
    | (extract_lets x; first | (with_reducible refine sound_cut (s := x) ?_ ?_; (on_goal 2 => clear_value x); (on_goal 1 => unfold x)) | (subst x))
    | split

theorem gateEff_sound (u v : Nat) (s : State) (hs : Sound qq t0 s) :
    Sound qq t0 (gateEff u v s) := by
  unfold gateEff
  repeat' first
    | with_reducible intro _
    | with_reducible assumption
    | with_reducible apply modCrh_sound
    | with_reducible apply wr_sound
    | with_reducible apply reopenIf_sound
    | simp only [↓sound_mk_iff]
    | with_reducible apply sound_ite
    | (extract_lets x; first | (with_reducible refine sound_cut (s := x) ?_ ?_; (on_goal 2 => clear_value x); (on_goal 1 => unfold x)) | (subst x))
    | split

theorem execGateClose_sound (q : Req) (u : Nat) (s : State) (hs : Sound qq t0 s) :
    SoundOut qq t0 (execGateClose q u s) := by
  unfold execGateClose
  repeat' first
    | with_reducible intro _
    | with_reducible assumption
    | with_reducible apply unitCmd_sound
    | with_reducible apply writeTo_sound
    | with_reducible apply gateEff_sound
    | with_reducible apply soundOut_next
    | with_reducible apply soundOut_fault

theorem execGateOpen_sound (q : Req) (u : Nat) (s : State) (hs : Sound qq t0 s) :
    SoundOut qq t0 (execGateOpen q u s) := by
  unfold execGateOpen
  repeat' first
    | with_reducible intro _
    | with_reducible assumption
    | with_reducible apply unitCmd_sound
    | with_reducible apply writeTo_sound
    | with_reducible apply gateEff_sound
    | with_reducible apply soundOut_next
    | with_reducible apply soundOut_fault

theorem gateEnds_sound (u st : Nat) (s : State) (hs : Sound qq t0 s) :
    Sound qq t0 (gateEnds u st s) := by
  unfold gateEnds
  repeat' first
    | with_reducible intro _
    | with_reducible assumption
    | with_reducible apply modCrh_sound
    | with_reducible apply performHeld_sound
    | with_reducible apply crhFlag_sound
    | with_reducible apply modFacet_sound
    | with_reducible apply wr_sound
    | simp only [↓sound_mk_iff]
    | with_reducible apply sound_ite
    | (extract_lets x; first | (with_reducible refine sound_cut (s := x) ?_ ?_; (on_goal 2 => clear_value x); (on_goal 1 => unfold x)) | (subst x))
    | split

theorem execGateClosed_sound (u : Nat) (s : State) (hs : Sound qq t0 s) :
    SoundOut qq t0 (execGateClosed u s) := by
  unfold execGateClosed
  repeat' first
    | with_reducible intro _
    | with_reducible assumption
    | with_reducible apply gateEnds_sound
    | simp only [↓sound_mk_iff]
    | with_reducible apply sound_ite
    | with_reducible apply soundOut_next
    | with_reducible apply soundOut_fault
    | with_reducible apply soundOut_ite
    | with_reducible apply unitCmd_sound
    | (extract_lets x; first | (with_reducible refine sound_cut (s := x) ?_ ?_; (on_goal 2 => clear_value x); (on_goal 1 => unfold x)) | (subst x))
    | split

theorem execGateCloseForce_sound (u : Nat) (s : State) (hs : Sound qq t0 s) :
    SoundOut qq t0 (execGateCloseForce u s) := by
  unfold execGateCloseForce
  repeat' first
    | with_reducible intro _
    | with_reducible assumption
    | with_reducible apply unitCmd_sound
    | with_reducible apply modCrh_sound
    | with_reducible apply upto_sound
    | with_reducible apply soundOut_next
    | with_reducible apply soundOut_fault
    | with_reducible apply soundOut_ite
    | simp only [↓sound_mk_iff]
    | with_reducible apply sound_ite
    | split

theorem execGateOpened_sound (u : Nat) (s : State) (hs : Sound qq t0 s) :
    SoundOut qq t0 (execGateOpened u s) := by
  unfold execGateOpened
  repeat' first
    | with_reducible intro _
    | with_reducible assumption
    | with_reducible apply unitCmd_sound
    | with_reducible apply gateEnds_sound
    | with_reducible apply upto_sound
    | with_reducible apply soundOut_next
    | with_reducible apply soundOut_fault
    | with_reducible apply soundOut_ite
    | with_reducible apply sound_ite
    | split

theorem pwrEff_sound (d v : Nat) (s : State) (hs : Sound qq t0 s) :
    Sound qq t0 (pwrEff d v s) := by
  unfold pwrEff
  repeat' first
    | with_reducible intro _
    | with_reducible assumption
    | with_reducible apply modCrh_sound
    | with_reducible apply wakeDomain_sound
    | with_reducible apply offAt_sound
    | with_reducible apply wr_sound
    | simp only [↓sound_mk_iff]
    | with_reducible apply sound_ite
    | (extract_lets x; first | (with_reducible refine sound_cut (s := x) ?_ ?_; (on_goal 2 => clear_value x); (on_goal 1 => unfold x)) | (subst x))
    | split

theorem execPowerOff_sound (q : Req) (d : Nat) (s : State) (hs : Sound qq t0 s) :
    SoundOut qq t0 (execPowerOff q d s) := by
  unfold execPowerOff
  repeat' first
    | with_reducible intro _
    | with_reducible assumption
    | with_reducible apply unitCmd_sound
    | with_reducible apply writeTo_sound
    | with_reducible apply pwrEff_sound
    | with_reducible apply soundOut_next
    | with_reducible apply soundOut_fault

theorem execPowerOn_sound (q : Req) (d : Nat) (s : State) (hs : Sound qq t0 s) :
    SoundOut qq t0 (execPowerOn q d s) := by
  unfold execPowerOn
  repeat' first
    | with_reducible intro _
    | with_reducible assumption
    | with_reducible apply unitCmd_sound
    | with_reducible apply writeTo_sound
    | with_reducible apply pwrEff_sound
    | with_reducible apply soundOut_next
    | with_reducible apply soundOut_fault

theorem execDomainOff_sound (d : Nat) (s : State) (hs : Sound qq t0 s) :
    SoundOut qq t0 (execDomainOff d s) := by
  unfold execDomainOff
  repeat' first
    | with_reducible intro _
    | with_reducible assumption
    | with_reducible apply modCrh_sound
    | with_reducible apply domainUnits_sound
    | with_reducible apply loseDomain_sound
    | with_reducible apply offAt_sound
    | with_reducible apply wr_sound
    | simp only [↓sound_mk_iff]
    | with_reducible apply sound_ite
    | with_reducible apply soundOut_next
    | with_reducible apply soundOut_fault
    | with_reducible apply soundOut_ite
    | with_reducible apply unitCmd_sound
    | (extract_lets x; first | (with_reducible refine sound_cut (s := x) ?_ ?_; (on_goal 2 => clear_value x); (on_goal 1 => unfold x)) | (subst x))
    | split

theorem pumpBank_sound (b : Nat) (s : State) (hs : Sound qq t0 s) :
    Sound qq t0 (pumpBank b s) := by
  unfold pumpBank
  repeat' first
    | with_reducible intro _
    | with_reducible assumption
    | with_reducible apply movePump_sound
    | simp only [↓sound_mk_iff]
    | with_reducible apply sound_foldl
    | with_reducible apply sound_foldl_snd
    | with_reducible apply sound_ite
    | (extract_lets x; first | (with_reducible refine sound_cut (s := x) ?_ ?_; (on_goal 2 => clear_value x); (on_goal 1 => unfold x)) | (subst x))
    | split

theorem execClearEnd_sound (d : Nat) (s : State) (hs : Sound qq t0 s) :
    SoundOut qq t0 (execClearEnd d s) := by
  unfold execClearEnd
  repeat' first
    | with_reducible intro _
    | with_reducible assumption
    | with_reducible apply pumpBank_sound
    | with_reducible apply performHeld_sound
    | with_reducible apply crhFlag_sound
    | with_reducible apply domainUnits_sound
    | with_reducible apply wr_sound
    | simp only [↓sound_mk_iff]
    | with_reducible apply sound_ite
    | with_reducible apply soundOut_next
    | with_reducible apply soundOut_fault
    | with_reducible apply soundOut_ite
    | with_reducible apply unitCmd_sound
    | (extract_lets x; first | (with_reducible refine sound_cut (s := x) ?_ ?_; (on_goal 2 => clear_value x); (on_goal 1 => unfold x)) | (subst x))
    | split

theorem railHolds_sound (r mv : Nat) (s : State) (hs : Sound qq t0 s) :
    Sound qq t0 (railHolds r mv s) := by
  unfold railHolds
  repeat' first
    | with_reducible intro _
    | with_reducible assumption
    | with_reducible apply modCrh_sound
    | simp only [↓sound_mk_iff]
    | with_reducible apply sound_ite
    | (extract_lets x; first | (with_reducible refine sound_cut (s := x) ?_ ?_; (on_goal 2 => clear_value x); (on_goal 1 => unfold x)) | (subst x))
    | split

theorem execRailSample_sound (r mv : Nat) (s : State) (hs : Sound qq t0 s) :
    SoundOut qq t0 (execRailSample r mv s) := by
  unfold execRailSample
  repeat' first
    | with_reducible intro _
    | with_reducible assumption
    | with_reducible apply railHolds_sound
    | with_reducible apply crhFlag_sound
    | with_reducible apply wr_sound
    | simp only [↓sound_mk_iff]
    | with_reducible apply sound_ite
    | with_reducible apply soundOut_next
    | with_reducible apply soundOut_fault
    | with_reducible apply soundOut_ite
    | with_reducible apply unitCmd_sound
    | (extract_lets x; first | (with_reducible refine sound_cut (s := x) ?_ ?_; (on_goal 2 => clear_value x); (on_goal 1 => unfold x)) | (subst x))
    | split

theorem followLevel_sound (k old new : Nat) (s : State) (hs : Sound qq t0 s) :
    Sound qq t0 (followLevel k old new s) := by
  unfold followLevel
  repeat' first
    | with_reducible intro _
    | with_reducible assumption
    | with_reducible apply wr_sound
    | with_reducible apply sound_ite
    | split

theorem senseBank_sound (b level : Nat) (s : State) (hs : Sound qq t0 s) :
    Sound qq t0 (senseBank b level s) := by
  unfold senseBank
  repeat' first
    | with_reducible intro _
    | with_reducible assumption
    | with_reducible apply wr_sound

theorem execPullselChange_sound (b v : Nat) (s : State) (hs : Sound qq t0 s) :
    SoundOut qq t0 (execPullselChange b v s) := by
  unfold execPullselChange
  repeat' first
    | with_reducible intro _
    | with_reducible assumption
    | with_reducible apply unitCmd_sound
    | with_reducible apply senseBank_sound
    | with_reducible apply soundOut_next
    | with_reducible apply soundOut_fault
    | with_reducible apply soundOut_ite
    | simp only [↓sound_mk_iff]
    | with_reducible apply sound_ite
    | (extract_lets x; first | (with_reducible refine sound_cut (s := x) ?_ ?_; (on_goal 2 => clear_value x); (on_goal 1 => unfold x)) | (subst x))
    | split

set_option Elab.async false in
theorem execVioRailChange_sound (b : Nat) (ok : Bool) (level : Nat) (s : State) (hs : Sound qq t0 s) :
    SoundOut qq t0 (execVioRailChange b ok level s) := by
  unfold execVioRailChange
  repeat' first
    | with_reducible intro _
    | with_reducible assumption
    | with_reducible apply unitCmd_sound
    | with_reducible apply senseBank_sound
    | with_reducible apply followLevel_sound
    | with_reducible apply soundOut_next
    | with_reducible apply soundOut_fault
    | with_reducible apply soundOut_ite
    | simp only [↓sound_mk_iff]
    | with_reducible apply sound_ite
    | (extract_lets x; first | (with_reducible refine sound_cut (s := x) ?_ ?_; (on_goal 2 => clear_value x); (on_goal 1 => unfold x)) | (subst x))
    | split

end Sys2Proof.Laws
end

