-- ==== Sys2Proof/Laws/SoundCfg.lean ====
section
/-! SUPPORT. What every operation of Machine/Cfg.lean keeps. -/
namespace Sys2Proof.Laws
open Sys2Proof Sys2Proof.Machine
set_option linter.unusedVariables false
set_option linter.unusedTactic false
set_option linter.unreachableTactic false

variable {qq : List Instr} {t0 : Nat}

theorem modCfg_sound (f : CfgS → CfgS) (s : State) (hs : Sound qq t0 s) :
    Sound qq t0 (modCfg f s) := by
  unfold modCfg
  repeat' first
    | with_reducible intro _
    | with_reducible assumption
    | simp only [↓sound_mk_iff]

theorem facetLoaded_sound (l : LoadS) (h : Header) (f : Nat) (s : State) (hs : Sound qq t0 s) :
    Sound qq t0 (facetLoaded l h f s) := by
  unfold facetLoaded
  repeat' first
    | with_reducible intro _
    | with_reducible assumption
    | with_reducible apply modCfg_sound
    | with_reducible apply bump_sound
    | with_reducible apply wr_sound
    | simp only [↓sound_mk_iff]
    | with_reducible apply sound_ite
    | (extract_lets x; first | (with_reducible refine sound_cut (s := x) ?_ ?_; (on_goal 2 => clear_value x); (on_goal 1 => unfold x)) | (subst x))
    | split

theorem tearFacets_sound (l : LoadS) (h : Header) (s : State) (hs : Sound qq t0 s) :
    Sound qq t0 (tearFacets l h s) := by
  unfold tearFacets
  repeat' first
    | with_reducible intro _
    | with_reducible assumption
    | with_reducible apply facetLoaded_sound
    | with_reducible apply wr_sound
    | simp only [↓sound_mk_iff]
    | with_reducible apply sound_foldl
    | with_reducible apply sound_foldl_snd
    | with_reducible apply sound_ite
    | (extract_lets x; first | (with_reducible refine sound_cut (s := x) ?_ ?_; (on_goal 2 => clear_value x); (on_goal 1 => unfold x)) | (subst x))
    | split

theorem setSources_sound (l : LoadS) (region : Nat) (s : State) (hs : Sound qq t0 s) :
    Sound qq t0 (setSources l region s) := by
  unfold setSources
  repeat' first
    | with_reducible intro _
    | with_reducible assumption
    | with_reducible apply wr_sound
    | simp only [↓sound_mk_iff]
    | with_reducible apply sound_ite
    | with_reducible apply sound_foldl
    | split

theorem loadEnd_sound (c at' : Nat) (s : State) (hs : Sound qq t0 s) :
    Sound qq t0 (loadEnd c at' s) := by
  unfold loadEnd
  repeat' first
    | with_reducible intro _
    | with_reducible assumption
    | with_reducible apply setSources_sound
    | with_reducible apply tearFacets_sound
    | with_reducible apply modCfg_sound
    | with_reducible apply raise_sound
    | with_reducible apply wr_sound
    | simp only [↓sound_mk_iff]
    | with_reducible apply sound_ite
    | (extract_lets x; first | (with_reducible refine sound_cut (s := x) ?_ ?_; (on_goal 2 => clear_value x); (on_goal 1 => unfold x)) | (subst x))
    | split

theorem loadFail_sound (c at' : Nat) (s : State) (hs : Sound qq t0 s) :
    Sound qq t0 (loadFail c at' s) := by
  unfold loadFail
  repeat' first
    | with_reducible intro _
    | with_reducible assumption
    | with_reducible apply modCfg_sound
    | with_reducible apply wr_sound
    | with_reducible apply loadEnd_sound
    | simp only [↓sound_mk_iff]
    | with_reducible apply sound_ite
    | split

theorem abandon_sound (gone : FrameId → Nat → Bool) (s : State) (hs : Sound qq t0 s) :
    Sound qq t0 (abandon gone s) := by
  unfold abandon
  repeat' first
    | with_reducible intro _
    | with_reducible assumption
    | with_reducible apply modCfg_sound
    | with_reducible apply addTo_sound
    | with_reducible apply sound_ite
    | (extract_lets x; first | (with_reducible refine sound_cut (s := x) ?_ ?_; (on_goal 2 => clear_value x); (on_goal 1 => unfold x)) | (subst x))
    | split

theorem loadStart_sound (l : LoadS) (s : State) (hs : Sound qq t0 s) :
    Sound qq t0 (loadStart l s) := by
  unfold loadStart
  repeat' first
    | with_reducible intro _
    | with_reducible assumption
    | with_reducible apply abandon_sound
    | with_reducible apply modCfg_sound
    | with_reducible apply wr_sound
    | simp only [↓sound_mk_iff]
    | with_reducible apply sound_ite
    | (extract_lets x; first | (with_reducible refine sound_cut (s := x) ?_ ?_; (on_goal 2 => clear_value x); (on_goal 1 => unfold x)) | (subst x))
    | split

theorem loadEff_sound (full : Bool) (flash : Flash) (s : State) (hs : Sound qq t0 s) :
    Sound qq t0 (loadEff full flash s) := by
  unfold loadEff
  repeat' first
    | with_reducible intro _
    | with_reducible assumption
    | with_reducible apply loadStart_sound
    | with_reducible apply modCfg_sound
    | simp only [↓sound_mk_iff]

theorem abortEff_sound (s : State) (hs : Sound qq t0 s) :
    Sound qq t0 (abortEff s) := by
  unfold abortEff
  repeat' first
    | with_reducible intro _
    | with_reducible assumption
    | with_reducible apply loadEnd_sound
    | split

theorem execAutoLoad_sound (flash : Flash) (s : State) (hs : Sound qq t0 s) :
    SoundOut qq t0 (execAutoLoad flash s) := by
  unfold execAutoLoad
  repeat' first
    | with_reducible intro _
    | with_reducible assumption
    | with_reducible apply modCfg_sound
    | with_reducible apply loadStart_sound
    | with_reducible apply soundOut_next
    | with_reducible apply soundOut_fault
    | with_reducible apply soundOut_ite
    | simp only [↓sound_mk_iff]
    | with_reducible apply sound_ite
    | (extract_lets x; first | (with_reducible refine sound_cut (s := x) ?_ ?_; (on_goal 2 => clear_value x); (on_goal 1 => unfold x)) | (subst x))
    | split

theorem execLoadFull_sound (q : Req) (flash : Flash) (s : State) (hs : Sound qq t0 s) :
    SoundOut qq t0 (execLoadFull q flash s) := by
  unfold execLoadFull
  repeat' first
    | with_reducible intro _
    | with_reducible assumption
    | with_reducible apply command_sound
    | with_reducible apply loadEff_sound
    | with_reducible apply soundOut_next
    | with_reducible apply soundOut_fault

theorem execLoadPartial_sound (q : Req) (flash : Flash) (s : State) (hs : Sound qq t0 s) :
    SoundOut qq t0 (execLoadPartial q flash s) := by
  unfold execLoadPartial
  repeat' first
    | with_reducible intro _
    | with_reducible assumption
    | with_reducible apply command_sound
    | with_reducible apply loadEff_sound
    | with_reducible apply soundOut_next
    | with_reducible apply soundOut_fault

theorem execLoadAbort_sound (q : Req) (s : State) (hs : Sound qq t0 s) :
    SoundOut qq t0 (execLoadAbort q s) := by
  unfold execLoadAbort
  repeat' first
    | with_reducible intro _
    | with_reducible assumption
    | with_reducible apply command_sound
    | with_reducible apply abortEff_sound
    | with_reducible apply soundOut_next
    | with_reducible apply soundOut_fault

theorem received_sound (n v : Nat) (s : State) (hs : Sound qq t0 s) :
    Sound qq t0 (received n v s) := by
  unfold received
  repeat' first
    | with_reducible intro _
    | with_reducible assumption
    | with_reducible apply modCfg_sound
    | with_reducible apply wr_sound
    | simp only [↓sound_mk_iff]
    | split

theorem execStreamWrite_sound (q : Req) (len v : Nat) (s : State) (hs : Sound qq t0 s) :
    SoundOut qq t0 (execStreamWrite q len v s) := by
  unfold execStreamWrite
  repeat' first
    | with_reducible intro _
    | with_reducible assumption
    | with_reducible apply writeTo_sound
    | with_reducible apply received_sound
    | with_reducible apply soundOut_next
    | with_reducible apply soundOut_fault

theorem execHostDataTimeout_sound (s : State) (hs : Sound qq t0 s) :
    SoundOut qq t0 (execHostDataTimeout s) := by
  unfold execHostDataTimeout
  repeat' first
    | with_reducible intro _
    | with_reducible assumption
    | with_reducible apply loadFail_sound
    | with_reducible apply upto_sound
    | with_reducible apply soundOut_next
    | with_reducible apply soundOut_fault
    | with_reducible apply soundOut_ite
    | with_reducible apply sound_ite
    | split

theorem execFlashTimeout_sound (s : State) (hs : Sound qq t0 s) :
    SoundOut qq t0 (execFlashTimeout s) := by
  unfold execFlashTimeout
  repeat' first
    | with_reducible intro _
    | with_reducible assumption
    | with_reducible apply loadFail_sound
    | with_reducible apply soundOut_next
    | with_reducible apply soundOut_fault
    | with_reducible apply soundOut_ite
    | with_reducible apply sound_ite
    | split

theorem flpNext_sound (s : State) (hs : Sound qq t0 s) :
    Sound qq t0 (flpNext s) := by
  unfold flpNext
  repeat' first
    | with_reducible intro _
    | with_reducible assumption
    | with_reducible apply meshSend_sound
    | with_reducible apply modCfg_sound
    | simp only [↓sound_mk_iff]
    | with_reducible apply sound_ite
    | (extract_lets x; first | (with_reducible refine sound_cut (s := x) ?_ ?_; (on_goal 2 => clear_value x); (on_goal 1 => unfold x)) | (subst x))
    | split

theorem flpDone_sound (x : MeshResp) (s : State) (hs : Sound qq t0 s) :
    Sound qq t0 (flpDone x s) := by
  unfold flpDone
  repeat' first
    | with_reducible intro _
    | with_reducible assumption
    | with_reducible apply respTaken_sound
    | with_reducible apply modCfg_sound
    | with_reducible apply loadFail_sound
    | with_reducible apply flpNext_sound
    | with_reducible apply received_sound
    | simp only [↓sound_mk_iff]
    | with_reducible apply sound_ite
    | (extract_lets x; first | (with_reducible refine sound_cut (s := x) ?_ ?_; (on_goal 2 => clear_value x); (on_goal 1 => unfold x)) | (subst x))
    | split

theorem flpEff_sound (s : State) (hs : Sound qq t0 s) :
    Sound qq t0 (flpEff s) := by
  unfold flpEff
  repeat' first
    | with_reducible intro _
    | with_reducible assumption
    | with_reducible apply flpNext_sound
    | with_reducible apply loadStart_sound
    | simp only [↓sound_mk_iff]
    | with_reducible apply sound_ite
    | (extract_lets x; first | (with_reducible refine sound_cut (s := x) ?_ ?_; (on_goal 2 => clear_value x); (on_goal 1 => unfold x)) | (subst x))
    | split

theorem execFlpStart_sound (q : Req) (s : State) (hs : Sound qq t0 s) :
    SoundOut qq t0 (execFlpStart q s) := by
  unfold execFlpStart
  repeat' first
    | with_reducible intro _
    | with_reducible assumption
    | with_reducible apply command_sound
    | with_reducible apply flpEff_sound
    | with_reducible apply soundOut_next
    | with_reducible apply soundOut_fault

theorem execFlpAbort_sound (q : Req) (s : State) (hs : Sound qq t0 s) :
    SoundOut qq t0 (execFlpAbort q s) := by
  unfold execFlpAbort
  repeat' first
    | with_reducible intro _
    | with_reducible assumption
    | with_reducible apply command_sound
    | with_reducible apply abortEff_sound
    | with_reducible apply soundOut_next
    | with_reducible apply soundOut_fault

theorem facetBegins_sound (full : Bool) (s : State) (f : Nat) (hs : Sound qq t0 s) :
    Sound qq t0 (facetBegins full s f) := by
  unfold facetBegins
  repeat' first
    | with_reducible intro _
    | with_reducible assumption
    | with_reducible apply modCfg_sound
    | with_reducible apply failWaiting_sound
    | with_reducible apply discardQueue_sound
    | with_reducible apply holdFacet_sound
    | with_reducible apply modFacet_sound
    | with_reducible apply setBit_sound
    | with_reducible apply wr_sound
    | simp only [↓sound_mk_iff]
    | with_reducible apply sound_foldl
    | with_reducible apply sound_foldl_snd
    | with_reducible apply sound_ite
    | (extract_lets x; first | (with_reducible refine sound_cut (s := x) ?_ ?_; (on_goal 2 => clear_value x); (on_goal 1 => unfold x)) | (subst x))
    | split

theorem passEnds_sound (from' : Nat) (s : State) (hs : Sound qq t0 s) :
    Sound qq t0 (passEnds from' s) := by
  unfold passEnds
  repeat' first
    | with_reducible intro _
    | with_reducible assumption
    | with_reducible apply modCfg_sound
    | with_reducible apply bump_sound
    | with_reducible apply wr_sound
    | simp only [↓sound_mk_iff]
    | with_reducible apply sound_ite
    | (extract_lets x; first | (with_reducible refine sound_cut (s := x) ?_ ?_; (on_goal 2 => clear_value x); (on_goal 1 => unfold x)) | (subst x))
    | split

theorem passCheck_sound (s : State) (hs : Sound qq t0 s) :
    Sound qq t0 (passCheck s) := by
  unfold passCheck
  repeat' first
    | with_reducible intro _
    | with_reducible assumption
    | with_reducible apply passEnds_sound
    | simp only [↓sound_mk_iff]
    | with_reducible apply sound_ite
    | (extract_lets x; first | (with_reducible refine sound_cut (s := x) ?_ ?_; (on_goal 2 => clear_value x); (on_goal 1 => unfold x)) | (subst x))
    | split

theorem paneClear_sound (s : State) (hs : Sound qq t0 s) : Sound qq t0 (paneClear s) := by
  unfold paneClear
  exact sound_foldl (fun t e h => modPane_sound _ _ _ h) ⟨hs.pending, hs.now, mem_wf_clear hs.mem, hs.reg⟩

theorem headerPasses_sound (l : LoadS) (h : Header) (s : State) (hs : Sound qq t0 s) :
    Sound qq t0 (headerPasses l h s) := by
  unfold headerPasses
  repeat' first
    | with_reducible intro _
    | with_reducible assumption
    | with_reducible apply paneClear_sound
    | with_reducible apply passCheck_sound
    | with_reducible apply facetBegins_sound
    | with_reducible apply abandon_sound
    | with_reducible apply modCfg_sound
    | with_reducible apply modFacet_sound
    | with_reducible apply upto_sound
    | with_reducible apply setBit_sound
    | with_reducible apply wr_sound
    | simp only [↓sound_mk_iff]
    | with_reducible apply sound_foldl
    | with_reducible apply sound_foldl_snd
    | with_reducible apply sound_ite
    | (extract_lets x; first | (with_reducible refine sound_cut (s := x) ?_ ?_; (on_goal 2 => clear_value x); (on_goal 1 => unfold x)) | (subst x))
    | split

theorem execStreamHeader_sound (s : State) (hs : Sound qq t0 s) :
    SoundOut qq t0 (execStreamHeader s) := by
  unfold execStreamHeader
  repeat' first
    | with_reducible intro _
    | with_reducible assumption
    | with_reducible apply headerPasses_sound
    | with_reducible apply loadFail_sound
    | with_reducible apply modCfg_sound
    | with_reducible apply upto_sound
    | with_reducible apply wr_sound
    | simp only [↓sound_mk_iff]
    | with_reducible apply sound_ite
    | with_reducible apply soundOut_next
    | with_reducible apply soundOut_fault
    | with_reducible apply soundOut_ite
    | with_reducible apply unitCmd_sound
    | (extract_lets x; first | (with_reducible refine sound_cut (s := x) ?_ ?_; (on_goal 2 => clear_value x); (on_goal 1 => unfold x)) | (subst x))
    | split

theorem execChunkCheck_sound (s : State) (hs : Sound qq t0 s) :
    SoundOut qq t0 (execChunkCheck s) := by
  unfold execChunkCheck
  repeat' first
    | with_reducible intro _
    | with_reducible assumption
    | with_reducible apply upto_sound
    | with_reducible apply wr_sound
    | with_reducible apply loadFail_sound
    | with_reducible apply flpNext_sound
    | with_reducible apply modCfg_sound
    | with_reducible apply soundOut_next
    | with_reducible apply soundOut_fault
    | with_reducible apply soundOut_ite
    | simp only [↓sound_mk_iff]
    | with_reducible apply sound_ite
    | (extract_lets x; first | (with_reducible refine sound_cut (s := x) ?_ ?_; (on_goal 2 => clear_value x); (on_goal 1 => unfold x)) | (subst x))
    | split

theorem frameDone_sound (l : LoadS) (h : Header) (id : FrameId) (size payload : Nat) (s : State) (hs : Sound qq t0 s) :
    Sound qq t0 (frameDone l h id size payload s) := by
  unfold frameDone
  repeat' first
    | with_reducible intro _
    | with_reducible assumption
    | with_reducible apply facetLoaded_sound
    | with_reducible apply modCfg_sound
    | with_reducible apply releaseFacet_sound
    | with_reducible apply upto_sound
    | simp only [↓sound_mk_iff]
    | with_reducible apply sound_ite
    | (extract_lets x; first | (with_reducible refine sound_cut (s := x) ?_ ?_; (on_goal 2 => clear_value x); (on_goal 1 => unfold x)) | (subst x))
    | split

theorem frameRead_sound (l : LoadS) (h : Header) (n : Nat) (s : State) (hs : Sound qq t0 s) :
    Sound qq t0 (frameRead l h n s) := by
  unfold frameRead
  repeat' first
    | with_reducible intro _
    | with_reducible assumption
    | with_reducible apply upto_sound
    | with_reducible apply wr_sound
    | simp only [↓sound_mk_iff]
    | with_reducible apply sound_ite
    | (extract_lets x; first | (with_reducible refine sound_cut (s := x) ?_ ?_; (on_goal 2 => clear_value x); (on_goal 1 => unfold x)) | (subst x))
    | split

theorem frameRow_sound (t : Nat) (bad : Bool) (ready : Nat → State → Bool) (put : (f i payload : Nat) → State → State) (s : State) (hs : Sound qq t0 s) (hput : ∀ (y0 : Nat) (y1 : Nat) (y2 : Nat) (y3 : State), Sound qq t0 y3 → Sound qq t0 (put y0 y1 y2 y3)) :
    Sound qq t0 (frameRow t bad ready put s) := by
  unfold frameRow
  repeat' first
    | with_reducible intro _
    | with_reducible assumption
    | with_reducible apply hput
    | with_reducible apply frameRead_sound
    | with_reducible apply frameDone_sound
    | with_reducible apply loadFail_sound
    | with_reducible apply raise_sound
    | simp only [↓sound_mk_iff]
    | with_reducible apply sound_ite
    | (extract_lets x; first | (with_reducible refine sound_cut (s := x) ?_ ?_; (on_goal 2 => clear_value x); (on_goal 1 => unfold x)) | (subst x))
    | split

theorem putManifest_sound (c : Manifest) (f _i _p : Nat) (s : State) (hs : Sound qq t0 s) :
    Sound qq t0 (putManifest c f _i _p s) := by
  unfold putManifest
  repeat' first
    | with_reducible intro _
    | with_reducible assumption
    | with_reducible apply paneModeEff_sound
    | with_reducible apply resetTaps_sound
    | with_reducible apply modFacet_sound
    | simp only [↓sound_mk_iff]
    | with_reducible apply sound_foldl
    | with_reducible apply sound_foldl_snd
    | with_reducible apply sound_ite
    | (extract_lets x; first | (with_reducible refine sound_cut (s := x) ?_ ?_; (on_goal 2 => clear_value x); (on_goal 1 => unfold x)) | (subst x))
    | split

theorem execManifestFrame_sound (c : Manifest) (s : State) (hs : Sound qq t0 s) :
    SoundOut qq t0 (execManifestFrame c s) := by
  unfold execManifestFrame
  repeat' first
    | with_reducible intro _
    | with_reducible assumption
    | with_reducible apply frameRow_sound
    | with_reducible apply putManifest_sound
    | with_reducible apply soundOut_next
    | with_reducible apply soundOut_fault

theorem putCell_sound (k : Nat) (c : CellCfg) (s : State) (hs : Sound qq t0 s) :
    Sound qq t0 (putCell k c s) := by
  unfold putCell
  repeat' first
    | with_reducible intro _
    | with_reducible assumption
    | simp only [↓sound_mk_iff]

theorem putCells_sound (c : List CellCfg) (f v _p : Nat) (s : State) (hs : Sound qq t0 s) :
    Sound qq t0 (putCells c f v _p s) := by
  unfold putCells
  repeat' first
    | with_reducible intro _
    | with_reducible assumption
    | with_reducible apply putCell_sound
    | with_reducible apply sound_foldl

theorem execCellFrame_sound (c : List CellCfg) (s : State) (hs : Sound qq t0 s) :
    SoundOut qq t0 (execCellFrame c s) := by
  unfold execCellFrame
  repeat' first
    | with_reducible intro _
    | with_reducible assumption
    | with_reducible apply frameRow_sound
    | with_reducible apply putCells_sound
    | with_reducible apply soundOut_next
    | with_reducible apply soundOut_fault

theorem setTrack_sound (k v : Nat) (s : State) (hs : Sound qq t0 s) :
    Sound qq t0 (setTrack k v s) := by
  unfold setTrack
  repeat' first
    | with_reducible intro _
    | with_reducible assumption
    | simp only [↓sound_mk_iff]

theorem putSelect_sound (f v i w : Nat) (s : State) (hs : Sound qq t0 s) :
    Sound qq t0 (putSelect f v i w s) := by
  unfold putSelect
  repeat' first
    | with_reducible intro _
    | with_reducible assumption
    | with_reducible apply setTrack_sound
    | simp only [↓sound_mk_iff]
    | with_reducible apply sound_ite
    | (extract_lets x; first | (with_reducible refine sound_cut (s := x) ?_ ?_; (on_goal 2 => clear_value x); (on_goal 1 => unfold x)) | (subst x))
    | split

theorem putSelects_sound (f v : Nat) : ∀ (z0 : Nat) (z1 : List Nat) (z2 : State), Sound qq t0 z2 →
    Sound qq t0 (putSelects f v z0 z1 z2)
  | _, [], _, h => h
  | i, w :: ws, s, h => by
    unfold putSelects
    exact putSelects_sound f v (i + 1) ws _ (putSelect_sound f v i w s h)

theorem execRouteFrame_sound (sels : List Nat) (s : State) (hs : Sound qq t0 s) :
    SoundOut qq t0 (execRouteFrame sels s) := by
  unfold execRouteFrame
  repeat' first
    | with_reducible intro _
    | with_reducible assumption
    | with_reducible apply putSelects_sound
    | with_reducible apply frameRow_sound
    | simp only [↓sound_mk_iff]
    | with_reducible apply sound_ite
    | with_reducible apply soundOut_next
    | with_reducible apply soundOut_fault
    | with_reducible apply soundOut_ite
    | with_reducible apply unitCmd_sound
    | (extract_lets x; first | (with_reducible refine sound_cut (s := x) ?_ ?_; (on_goal 2 => clear_value x); (on_goal 1 => unfold x)) | (subst x))
    | split

theorem putPane_sound (f j p : Nat) (s : State) (hs : Sound qq t0 s) :
    Sound qq t0 (putPane f j p s) := by
  unfold putPane
  repeat' first
    | with_reducible intro _
    | with_reducible assumption
    | with_reducible apply store_sound
    | simp only [↓sound_mk_iff]
    | with_reducible apply sound_ite
    | (extract_lets x; first | (with_reducible refine sound_cut (s := x) ?_ ?_; (on_goal 2 => clear_value x); (on_goal 1 => unfold x)) | (subst x))
    | split

theorem execPaneFrame_sound (s : State) (hs : Sound qq t0 s) :
    SoundOut qq t0 (execPaneFrame s) := by
  unfold execPaneFrame
  repeat' first
    | with_reducible intro _
    | with_reducible assumption
    | with_reducible apply putPane_sound
    | with_reducible apply frameRow_sound
    | with_reducible apply wakeDomain_sound
    | simp only [↓sound_mk_iff]
    | with_reducible apply sound_ite
    | with_reducible apply soundOut_next
    | with_reducible apply soundOut_fault
    | with_reducible apply soundOut_ite
    | with_reducible apply unitCmd_sound
    | (extract_lets x; first | (with_reducible refine sound_cut (s := x) ?_ ?_; (on_goal 2 => clear_value x); (on_goal 1 => unfold x)) | (subst x))
    | split

theorem execIoFrame_sound (s : State) (hs : Sound qq t0 s) :
    SoundOut qq t0 (execIoFrame s) := by
  unfold execIoFrame
  repeat' first
    | with_reducible intro _
    | with_reducible assumption
    | with_reducible apply frameRow_sound
    | with_reducible apply modFacet_sound
    | with_reducible apply soundOut_next
    | with_reducible apply soundOut_fault
    | simp only [↓sound_mk_iff]

theorem loadCompletes_sound (l : LoadS) (h : Header) (s : State) (hs : Sound qq t0 s) :
    Sound qq t0 (loadCompletes l h s) := by
  unfold loadCompletes
  repeat' first
    | with_reducible intro _
    | with_reducible assumption
    | with_reducible apply facetLoaded_sound
    | with_reducible apply upto_sound
    | with_reducible apply releaseFacet_sound
    | with_reducible apply loadEnd_sound
    | with_reducible apply setBit_sound
    | with_reducible apply sound_ite
    | with_reducible apply sound_foldl
    | (extract_lets x; first | (with_reducible refine sound_cut (s := x) ?_ ?_; (on_goal 2 => clear_value x); (on_goal 1 => unfold x)) | (subst x))
    | split

theorem execEndFrame_sound (s : State) (hs : Sound qq t0 s) :
    SoundOut qq t0 (execEndFrame s) := by
  unfold execEndFrame
  repeat' first
    | with_reducible intro _
    | with_reducible assumption
    | with_reducible apply loadCompletes_sound
    | with_reducible apply frameRead_sound
    | with_reducible apply loadFail_sound
    | with_reducible apply upto_sound
    | with_reducible apply raise_sound
    | with_reducible apply wr_sound
    | simp only [↓sound_mk_iff]
    | with_reducible apply sound_ite
    | with_reducible apply soundOut_next
    | with_reducible apply soundOut_fault
    | with_reducible apply soundOut_ite
    | with_reducible apply unitCmd_sound
    | (extract_lets x; first | (with_reducible refine sound_cut (s := x) ?_ ?_; (on_goal 2 => clear_value x); (on_goal 1 => unfold x)) | (subst x))
    | split

theorem zeroiseKey_sound (b : Nat) (s : State) (hs : Sound qq t0 s) :
    Sound qq t0 (zeroiseKey b s) := by
  unfold zeroiseKey
  repeat' first
    | with_reducible intro _
    | with_reducible assumption
    | with_reducible apply modCfg_sound
    | with_reducible apply note_sound
    | with_reducible apply setBit_sound
    | with_reducible apply raise_sound
    | with_reducible apply bump_sound
    | with_reducible apply wr_sound
    | simp only [↓sound_mk_iff]
    | with_reducible apply sound_ite
    | (extract_lets x; first | (with_reducible refine sound_cut (s := x) ?_ ?_; (on_goal 2 => clear_value x); (on_goal 1 => unfold x)) | (subst x))
    | split

theorem keyEff_sound (code : Nat) (s : State) (hs : Sound qq t0 s) :
    Sound qq t0 (keyEff code s) := by
  unfold keyEff
  repeat' first
    | with_reducible intro _
    | with_reducible assumption
    | with_reducible apply setBit_sound
    | with_reducible apply modCfg_sound
    | with_reducible apply zeroiseKey_sound
    | simp only [↓sound_mk_iff]
    | with_reducible apply sound_ite
    | (extract_lets x; first | (with_reducible refine sound_cut (s := x) ?_ ?_; (on_goal 2 => clear_value x); (on_goal 1 => unfold x)) | (subst x))
    | split

theorem execWriteBbram_sound (q : Req) (s : State) (hs : Sound qq t0 s) :
    SoundOut qq t0 (execWriteBbram q s) := by
  unfold execWriteBbram
  repeat' first
    | with_reducible intro _
    | with_reducible assumption
    | with_reducible apply command_sound
    | with_reducible apply keyEff_sound
    | with_reducible apply soundOut_next
    | with_reducible apply soundOut_fault

theorem execZeroise_sound (q : Req) (s : State) (hs : Sound qq t0 s) :
    SoundOut qq t0 (execZeroise q s) := by
  unfold execZeroise
  repeat' first
    | with_reducible intro _
    | with_reducible assumption
    | with_reducible apply command_sound
    | with_reducible apply keyEff_sound
    | with_reducible apply soundOut_next
    | with_reducible apply soundOut_fault

theorem execFuseKey_sound (q : Req) (s : State) (hs : Sound qq t0 s) :
    SoundOut qq t0 (execFuseKey q s) := by
  unfold execFuseKey
  repeat' first
    | with_reducible intro _
    | with_reducible assumption
    | with_reducible apply command_sound
    | with_reducible apply keyEff_sound
    | with_reducible apply soundOut_next
    | with_reducible apply soundOut_fault

theorem execFusePolicy_sound (q : Req) (s : State) (hs : Sound qq t0 s) :
    SoundOut qq t0 (execFusePolicy q s) := by
  unfold execFusePolicy
  repeat' first
    | with_reducible intro _
    | with_reducible assumption
    | with_reducible apply command_sound
    | with_reducible apply keyEff_sound
    | with_reducible apply soundOut_next
    | with_reducible apply soundOut_fault

theorem keyEnds_sound (code v : Nat) (ok : Bool) (s : State) (hs : Sound qq t0 s) :
    Sound qq t0 (keyEnds code v ok s) := by
  unfold keyEnds
  repeat' first
    | with_reducible intro _
    | with_reducible assumption
    | with_reducible apply modCfg_sound
    | with_reducible apply wr_sound
    | with_reducible apply setBit_sound
    | with_reducible apply drawn_sound
    | simp only [↓sound_mk_iff]
    | with_reducible apply sound_ite
    | (extract_lets x; first | (with_reducible refine sound_cut (s := x) ?_ ?_; (on_goal 2 => clear_value x); (on_goal 1 => unfold x)) | (subst x))
    | split

theorem execKeyCommandEnd_sound (ok : Bool) (s : State) (hs : Sound qq t0 s) :
    SoundOut qq t0 (execKeyCommandEnd ok s) := by
  unfold execKeyCommandEnd
  repeat' first
    | with_reducible intro _
    | with_reducible assumption
    | with_reducible apply modCfg_sound
    | with_reducible apply keyEnds_sound
    | with_reducible apply setBit_sound
    | with_reducible apply raise_sound
    | with_reducible apply soundOut_next
    | with_reducible apply soundOut_fault
    | simp only [↓sound_mk_iff]
    | split

set_option Elab.async false in
theorem execTamper_sound (cause : Nat) (s : State) (hs : Sound qq t0 s) :
    SoundOut qq t0 (execTamper cause s) := by
  unfold execTamper
  repeat' first
    | with_reducible intro _
    | with_reducible assumption
    | with_reducible apply zeroiseKey_sound
    | with_reducible apply modCfg_sound
    | with_reducible apply drawn_sound
    | with_reducible apply note_sound
    | with_reducible apply setBit_sound
    | with_reducible apply wr_sound
    | simp only [↓sound_mk_iff]
    | with_reducible apply sound_foldl
    | with_reducible apply sound_foldl_snd
    | with_reducible apply sound_ite
    | with_reducible apply soundOut_next
    | with_reducible apply soundOut_fault
    | with_reducible apply soundOut_ite
    | with_reducible apply unitCmd_sound
    | (extract_lets x; first | (with_reducible refine sound_cut (s := x) ?_ ?_; (on_goal 2 => clear_value x); (on_goal 1 => unfold x)) | (subst x))
    | split

end Sys2Proof.Laws
end

