-- ==== Sys2Proof/Laws/SoundLoupe.lean ====
section
/-! SUPPORT. What every operation of Machine/Loupe.lean keeps. -/
namespace Sys2Proof.Laws
open Sys2Proof Sys2Proof.Machine
set_option linter.unusedVariables false
set_option linter.unusedTactic false
set_option linter.unreachableTactic false

variable {qq : List Instr} {t0 : Nat}

theorem loupeFlag_sound (b : Nat) (s : State) (hs : Sound qq t0 s) :
    Sound qq t0 (loupeFlag b s) := by
  unfold loupeFlag
  repeat' first
    | with_reducible intro _
    | with_reducible assumption
    | with_reducible apply flag_sound
    | with_reducible apply sound_ite
    | split

theorem loupeLast_sound (kind : Nat) (x : FrameId) (s : State) (hs : Sound qq t0 s) :
    Sound qq t0 (loupeLast kind x s) := by
  unfold loupeLast
  repeat' first
    | with_reducible intro _
    | with_reducible assumption
    | with_reducible apply wr_sound

theorem execConfigUpset_sound (u : Upset) (s : State) (hs : Sound qq t0 s) :
    SoundOut qq t0 (execConfigUpset u s) := by
  unfold execConfigUpset
  repeat' first
    | with_reducible intro _
    | with_reducible assumption
    | with_reducible apply loupeFlag_sound
    | with_reducible apply flipTarget_sound
    | with_reducible apply bump_sound
    | simp only [↓sound_mk_iff]
    | with_reducible apply sound_ite
    | with_reducible apply soundOut_next
    | with_reducible apply soundOut_fault
    | with_reducible apply soundOut_ite
    | with_reducible apply unitCmd_sound
    | (extract_lets x; first | (with_reducible refine sound_cut (s := x) ?_ ?_; (on_goal 2 => clear_value x); (on_goal 1 => unfold x)) | (subst x))
    | split

theorem undo_sound (us : List Upset) (s : State) (hs : Sound qq t0 s) :
    Sound qq t0 (undo us s) := by
  unfold undo
  repeat' first
    | with_reducible intro _
    | with_reducible assumption
    | with_reducible apply flipTarget_sound
    | simp only [↓sound_mk_iff]
    | with_reducible apply sound_foldl

theorem scanWord_sound (x : FrameId) (us : List Upset) (s : State) (hs : Sound qq t0 s) :
    Sound qq t0 (scanWord x us s) := by
  unfold scanWord
  repeat' first
    | with_reducible intro _
    | with_reducible assumption
    | with_reducible apply undo_sound
    | with_reducible apply loupeLast_sound
    | with_reducible apply loupeFlag_sound
    | with_reducible apply upto_sound
    | with_reducible apply bump_sound
    | simp only [↓sound_mk_iff]
    | with_reducible apply sound_ite
    | (extract_lets x; first | (with_reducible refine sound_cut (s := x) ?_ ?_; (on_goal 2 => clear_value x); (on_goal 1 => unfold x)) | (subst x))
    | split

theorem uncorrectable_sound (x : FrameId) (s : State) (hs : Sound qq t0 s) :
    Sound qq t0 (uncorrectable x s) := by
  unfold uncorrectable
  repeat' first
    | with_reducible intro _
    | with_reducible assumption
    | with_reducible apply loupeLast_sound
    | with_reducible apply loupeFlag_sound
    | with_reducible apply modCfg_sound
    | with_reducible apply bump_sound
    | simp only [↓sound_mk_iff]
    | with_reducible apply sound_ite
    | (extract_lets x; first | (with_reducible refine sound_cut (s := x) ?_ ?_; (on_goal 2 => clear_value x); (on_goal 1 => unfold x)) | (subst x))
    | split

theorem scanFrame_sound (x : FrameId) (begun : Nat) (s : State) (hs : Sound qq t0 s) :
    Sound qq t0 (scanFrame x begun s) := by
  unfold scanFrame
  repeat' first
    | with_reducible intro _
    | with_reducible assumption
    | with_reducible apply uncorrectable_sound
    | with_reducible apply scanWord_sound
    | with_reducible apply upto_sound
    | simp only [↓sound_mk_iff]
    | with_reducible apply sound_foldl
    | with_reducible apply sound_foldl_snd
    | with_reducible apply sound_ite
    | (extract_lets x; first | (with_reducible refine sound_cut (s := x) ?_ ?_; (on_goal 2 => clear_value x); (on_goal 1 => unfold x)) | (subst x))
    | split

theorem heartbeat_sound (s : State) (hs : Sound qq t0 s) :
    Sound qq t0 (heartbeat s) := by
  unfold heartbeat
  repeat' first
    | with_reducible intro _
    | with_reducible assumption
    | with_reducible apply wr_sound

theorem execLoupeFrameScan_sound (s : State) (hs : Sound qq t0 s) :
    SoundOut qq t0 (execLoupeFrameScan s) := by
  unfold execLoupeFrameScan
  repeat' first
    | with_reducible intro _
    | with_reducible assumption
    | with_reducible apply heartbeat_sound
    | with_reducible apply scanFrame_sound
    | with_reducible apply passEnds_sound
    | with_reducible apply modCfg_sound
    | with_reducible apply upto_sound
    | simp only [↓sound_mk_iff]
    | with_reducible apply sound_ite
    | with_reducible apply soundOut_next
    | with_reducible apply soundOut_fault
    | with_reducible apply soundOut_ite
    | with_reducible apply unitCmd_sound
    | (extract_lets x; first | (with_reducible refine sound_cut (s := x) ?_ ?_; (on_goal 2 => clear_value x); (on_goal 1 => unfold x)) | (subst x))
    | split

theorem reloadNext_sound (s : State) (hs : Sound qq t0 s) :
    Sound qq t0 (reloadNext s) := by
  unfold reloadNext
  repeat' first
    | with_reducible intro _
    | with_reducible assumption
    | with_reducible apply modCfg_sound
    | with_reducible apply meshSend_sound
    | simp only [↓sound_mk_iff]
    | with_reducible apply sound_ite
    | (extract_lets x; first | (with_reducible refine sound_cut (s := x) ?_ ?_; (on_goal 2 => clear_value x); (on_goal 1 => unfold x)) | (subst x))
    | split

theorem execLoupeReload_sound (s : State) (hs : Sound qq t0 s) :
    SoundOut qq t0 (execLoupeReload s) := by
  unfold execLoupeReload
  repeat' first
    | with_reducible intro _
    | with_reducible assumption
    | with_reducible apply reloadNext_sound
    | with_reducible apply modCfg_sound
    | simp only [↓sound_mk_iff]
    | with_reducible apply sound_ite
    | with_reducible apply soundOut_next
    | with_reducible apply soundOut_fault
    | with_reducible apply soundOut_ite
    | with_reducible apply unitCmd_sound
    | (extract_lets x; first | (with_reducible refine sound_cut (s := x) ?_ ?_; (on_goal 2 => clear_value x); (on_goal 1 => unfold x)) | (subst x))
    | split

theorem reloadDone_sound (x : MeshResp) (s : State) (hs : Sound qq t0 s) :
    Sound qq t0 (reloadDone x s) := by
  unfold reloadDone
  repeat' first
    | with_reducible intro _
    | with_reducible assumption
    | with_reducible apply reloadNext_sound
    | with_reducible apply modCfg_sound
    | with_reducible apply respTaken_sound
    | simp only [↓sound_mk_iff]
    | with_reducible apply sound_ite
    | (extract_lets x; first | (with_reducible refine sound_cut (s := x) ?_ ?_; (on_goal 2 => clear_value x); (on_goal 1 => unfold x)) | (subst x))
    | split

theorem reloadFailed_sound (x : FrameId) (s : State) (hs : Sound qq t0 s) :
    Sound qq t0 (reloadFailed x s) := by
  unfold reloadFailed
  repeat' first
    | with_reducible intro _
    | with_reducible assumption
    | with_reducible apply loupeFlag_sound
    | with_reducible apply bump_sound
    | with_reducible apply setBit_sound
    | with_reducible apply modCfg_sound
    | with_reducible apply veStopEff_sound
    | simp only [↓sound_mk_iff]
    | with_reducible apply sound_ite
    | (extract_lets x; first | (with_reducible refine sound_cut (s := x) ?_ ?_; (on_goal 2 => clear_value x); (on_goal 1 => unfold x)) | (subst x))
    | split

theorem execLoupeReloadEnd_sound (ok : Bool) (s : State) (hs : Sound qq t0 s) :
    SoundOut qq t0 (execLoupeReloadEnd ok s) := by
  unfold execLoupeReloadEnd
  repeat' first
    | with_reducible intro _
    | with_reducible assumption
    | with_reducible apply reloadFailed_sound
    | with_reducible apply undo_sound
    | with_reducible apply loupeFlag_sound
    | with_reducible apply modCfg_sound
    | with_reducible apply upto_sound
    | with_reducible apply bump_sound
    | simp only [↓sound_mk_iff]
    | with_reducible apply sound_ite
    | with_reducible apply soundOut_next
    | with_reducible apply soundOut_fault
    | with_reducible apply soundOut_ite
    | with_reducible apply unitCmd_sound
    | (extract_lets x; first | (with_reducible refine sound_cut (s := x) ?_ ?_; (on_goal 2 => clear_value x); (on_goal 1 => unfold x)) | (subst x))
    | split

theorem execLoupeHeartbeatIdle_sound (s : State) (hs : Sound qq t0 s) :
    SoundOut qq t0 (execLoupeHeartbeatIdle s) := by
  unfold execLoupeHeartbeatIdle
  repeat' first
    | with_reducible intro _
    | with_reducible assumption
    | with_reducible apply heartbeat_sound
    | with_reducible apply soundOut_next
    | with_reducible apply soundOut_fault
    | with_reducible apply soundOut_ite
    | with_reducible apply sound_ite
    | split

theorem execHeartbeatCheck_sound (s : State) (hs : Sound qq t0 s) :
    SoundOut qq t0 (execHeartbeatCheck s) := by
  unfold execHeartbeatCheck
  repeat' first
    | with_reducible intro _
    | with_reducible assumption
    | with_reducible apply abandon_sound
    | with_reducible apply modCfg_sound
    | with_reducible apply upto_sound
    | with_reducible apply note_sound
    | with_reducible apply setBit_sound
    | with_reducible apply raise_sound
    | with_reducible apply bump_sound
    | simp only [↓sound_mk_iff]
    | with_reducible apply sound_ite
    | with_reducible apply soundOut_next
    | with_reducible apply soundOut_fault
    | with_reducible apply soundOut_ite
    | with_reducible apply unitCmd_sound
    | (extract_lets x; first | (with_reducible refine sound_cut (s := x) ?_ ?_; (on_goal 2 => clear_value x); (on_goal 1 => unfold x)) | (subst x))
    | split

theorem loupeEnEff_sound (v : Nat) (s : State) (hs : Sound qq t0 s) :
    Sound qq t0 (loupeEnEff v s) := by
  unfold loupeEnEff
  repeat' first
    | with_reducible intro _
    | with_reducible assumption
    | with_reducible apply wr_sound
    | with_reducible apply abandon_sound
    | with_reducible apply modCfg_sound
    | simp only [↓sound_mk_iff]
    | with_reducible apply sound_ite
    | (extract_lets x; first | (with_reducible refine sound_cut (s := x) ?_ ?_; (on_goal 2 => clear_value x); (on_goal 1 => unfold x)) | (subst x))
    | split

set_option Elab.async false in
theorem execLoupeEnWrite_sound (q : Req) (v : Nat) (s : State) (hs : Sound qq t0 s) :
    SoundOut qq t0 (execLoupeEnWrite q v s) := by
  unfold execLoupeEnWrite
  repeat' first
    | with_reducible intro _
    | with_reducible assumption
    | with_reducible apply writeTo_sound
    | with_reducible apply loupeEnEff_sound
    | with_reducible apply soundOut_next
    | with_reducible apply soundOut_fault

end Sys2Proof.Laws
end

