-- ==== Sys2Proof/Laws/SoundFocus.lean ====
section
/-! SUPPORT. What every operation of Machine/Focus.lean keeps. -/
namespace Sys2Proof.Laws
open Sys2Proof Sys2Proof.Machine
set_option linter.unusedVariables false
set_option linter.unusedTactic false
set_option linter.unreachableTactic false

variable {qq : List Instr} {t0 : Nat}

theorem modFocus_sound (f : FocusS → FocusS) (s : State) (hs : Sound qq t0 s) :
    Sound qq t0 (modFocus f s) := by
  unfold modFocus
  repeat' first
    | with_reducible intro _
    | with_reducible assumption
    | simp only [↓sound_mk_iff]

theorem modTrim_sound (f : TrimS → TrimS) (s : State) (hs : Sound qq t0 s) :
    Sound qq t0 (modTrim f s) := by
  unfold modTrim
  repeat' first
    | with_reducible intro _
    | with_reducible assumption
    | simp only [↓sound_mk_iff]

theorem settleStale_sound (g : Nat) (s : State) (hs : Sound qq t0 s) :
    Sound qq t0 (settleStale g s) := by
  unfold settleStale
  repeat' first
    | with_reducible intro _
    | with_reducible assumption
    | with_reducible apply setBit_sound
    | with_reducible apply raise_sound
    | simp only [↓sound_mk_iff]
    | with_reducible apply sound_ite
    | (extract_lets x; first | (with_reducible refine sound_cut (s := x) ?_ ?_; (on_goal 2 => clear_value x); (on_goal 1 => unfold x)) | (subst x))
    | split

theorem settleStales_sound (s : State) (hs : Sound qq t0 s) :
    Sound qq t0 (settleStales s) := by
  unfold settleStales
  repeat' first
    | with_reducible intro _
    | with_reducible assumption
    | with_reducible apply settleStale_sound
    | simp only [↓sound_mk_iff]
    | with_reducible apply sound_foldl
    | with_reducible apply sound_foldl_snd
    | with_reducible apply sound_ite
    | (extract_lets x; first | (with_reducible refine sound_cut (s := x) ?_ ?_; (on_goal 2 => clear_value x); (on_goal 1 => unfold x)) | (subst x))
    | split

theorem focusEff_sound (kind : Nat) (s : State) (hs : Sound qq t0 s) :
    Sound qq t0 (focusEff kind s) := by
  unfold focusEff
  repeat' first
    | with_reducible intro _
    | with_reducible assumption
    | with_reducible apply modFocus_sound
    | with_reducible apply wr_sound
    | (extract_lets x; first | (with_reducible refine sound_cut (s := x) ?_ ?_; (on_goal 2 => clear_value x); (on_goal 1 => unfold x)) | (subst x))

theorem focusExit_sound (x : Nat) (s : State) (hs : Sound qq t0 s) :
    Sound qq t0 (focusExit x s) := by
  unfold focusExit
  repeat' first
    | with_reducible intro _
    | with_reducible assumption
    | with_reducible apply modFocus_sound
    | with_reducible apply wr_sound
    | simp only [↓sound_mk_iff]
    | with_reducible apply sound_ite
    | (extract_lets x; first | (with_reducible refine sound_cut (s := x) ?_ ?_; (on_goal 2 => clear_value x); (on_goal 1 => unfold x)) | (subst x))
    | split

theorem focusAbortEff_sound (s : State) (hs : Sound qq t0 s) :
    Sound qq t0 (focusAbortEff s) := by
  unfold focusAbortEff
  repeat' first
    | with_reducible intro _
    | with_reducible assumption
    | with_reducible apply focusExit_sound
    | with_reducible apply modFocus_sound
    | with_reducible apply wr_sound
    | simp only [↓sound_mk_iff]
    | with_reducible apply sound_foldl
    | with_reducible apply sound_foldl_snd
    | with_reducible apply sound_ite
    | (extract_lets x; first | (with_reducible refine sound_cut (s := x) ?_ ?_; (on_goal 2 => clear_value x); (on_goal 1 => unfold x)) | (subst x))
    | split

theorem execFocus_sound (q : Req) (s : State) (hs : Sound qq t0 s) :
    SoundOut qq t0 (execFocus q s) := by
  unfold execFocus
  repeat' first
    | with_reducible intro _
    | with_reducible assumption
    | with_reducible apply command_sound
    | with_reducible apply focusEff_sound
    | with_reducible apply soundOut_next
    | with_reducible apply soundOut_fault

theorem execEdgSelfcheck_sound (q : Req) (s : State) (hs : Sound qq t0 s) :
    SoundOut qq t0 (execEdgSelfcheck q s) := by
  unfold execEdgSelfcheck
  repeat' first
    | with_reducible intro _
    | with_reducible assumption
    | with_reducible apply command_sound
    | with_reducible apply focusEff_sound
    | with_reducible apply soundOut_next
    | with_reducible apply soundOut_fault

theorem execFocusAbort_sound (q : Req) (s : State) (hs : Sound qq t0 s) :
    SoundOut qq t0 (execFocusAbort q s) := by
  unfold execFocusAbort
  repeat' first
    | with_reducible intro _
    | with_reducible assumption
    | with_reducible apply command_sound
    | with_reducible apply focusAbortEff_sound
    | with_reducible apply soundOut_next
    | with_reducible apply soundOut_fault

theorem channelEnd_sound (kind x : Nat) (pass : Bool) (res : State → State) (s : State) (hs : Sound qq t0 s) (hres : ∀ (y0 : State), Sound qq t0 y0 → Sound qq t0 (res y0)) :
    Sound qq t0 (channelEnd kind x pass res s) := by
  unfold channelEnd
  repeat' first
    | with_reducible intro _
    | with_reducible assumption
    | with_reducible apply hres
    | with_reducible apply focusExit_sound
    | with_reducible apply settleStale_sound
    | with_reducible apply modFocus_sound
    | with_reducible apply upto_sound
    | with_reducible apply raise_sound
    | with_reducible apply wr_sound
    | simp only [↓sound_mk_iff]
    | with_reducible apply sound_ite
    | (extract_lets x; first | (with_reducible refine sound_cut (s := x) ?_ ?_; (on_goal 2 => clear_value x); (on_goal 1 => unfold x)) | (subst x))
    | split

theorem stampFocus_sound (x : Nat) (s : State) (hs : Sound qq t0 s) :
    Sound qq t0 (stampFocus x s) := by
  unfold stampFocus
  repeat' first
    | with_reducible intro _
    | with_reducible assumption
    | with_reducible apply modTrim_sound
    | with_reducible apply wr_sound
    | simp only [↓sound_mk_iff]
    | with_reducible apply sound_ite
    | (extract_lets x; first | (with_reducible refine sound_cut (s := x) ?_ ?_; (on_goal 2 => clear_value x); (on_goal 1 => unfold x)) | (subst x))
    | split

theorem takeTrims_sound (x : Nat) (t : Trims) (s : State) (hs : Sound qq t0 s) :
    Sound qq t0 (takeTrims x t s) := by
  unfold takeTrims
  repeat' first
    | with_reducible intro _
    | with_reducible assumption
    | with_reducible apply stampFocus_sound
    | with_reducible apply modTrim_sound
    | with_reducible apply wr_sound
    | simp only [↓sound_mk_iff]
    | with_reducible apply sound_foldl
    | with_reducible apply sound_foldl_snd
    | with_reducible apply sound_ite
    | (extract_lets x; first | (with_reducible refine sound_cut (s := x) ?_ ?_; (on_goal 2 => clear_value x); (on_goal 1 => unfold x)) | (subst x))
    | split

theorem execFocusChannelEnd_sound (ch : Nat) (found : Option Trims) (s : State) (hs : Sound qq t0 s) :
    SoundOut qq t0 (execFocusChannelEnd ch found s) := by
  unfold execFocusChannelEnd
  repeat' first
    | with_reducible intro _
    | with_reducible assumption
    | with_reducible apply takeTrims_sound
    | with_reducible apply stampFocus_sound
    | with_reducible apply channelEnd_sound
    | with_reducible apply wr_sound
    | simp only [↓sound_mk_iff]
    | with_reducible apply sound_ite
    | with_reducible apply soundOut_next
    | with_reducible apply soundOut_fault
    | with_reducible apply soundOut_ite
    | with_reducible apply unitCmd_sound
    | (extract_lets x; first | (with_reducible refine sound_cut (s := x) ?_ ?_; (on_goal 2 => clear_value x); (on_goal 1 => unfold x)) | (subst x))
    | split

theorem execSelfcheckChannelEnd_sound (ch : Nat) (pass : Bool) (s : State) (hs : Sound qq t0 s) :
    SoundOut qq t0 (execSelfcheckChannelEnd ch pass s) := by
  unfold execSelfcheckChannelEnd
  repeat' first
    | with_reducible intro _
    | with_reducible assumption
    | with_reducible apply unitCmd_sound
    | with_reducible apply channelEnd_sound
    | with_reducible apply wr_sound
    | with_reducible apply soundOut_next
    | with_reducible apply soundOut_fault
    | with_reducible apply soundOut_ite
    | with_reducible apply sound_ite
    | split

theorem trackStep_sound (x : Nat) (t : Int) (s : State) (hs : Sound qq t0 s) :
    Sound qq t0 (trackStep x t s) := by
  unfold trackStep
  repeat' first
    | with_reducible intro _
    | with_reducible assumption
    | with_reducible apply wr_sound
    | with_reducible apply sound_ite
    | (extract_lets x; first | (with_reducible refine sound_cut (s := x) ?_ ?_; (on_goal 2 => clear_value x); (on_goal 1 => unfold x)) | (subst x))
    | split

theorem putTemp_sound (i temp : Nat) (s : State) (hs : Sound qq t0 s) :
    Sound qq t0 (putTemp i temp s) := by
  unfold putTemp
  repeat' first
    | with_reducible intro _
    | with_reducible assumption
    | with_reducible apply modCrh_sound
    | with_reducible apply wr_sound
    | simp only [↓sound_mk_iff]
    | with_reducible apply sound_ite
    | (extract_lets x; first | (with_reducible refine sound_cut (s := x) ?_ ?_; (on_goal 2 => clear_value x); (on_goal 1 => unfold x)) | (subst x))
    | split

theorem tempTaken_sound (s : State) (hs : Sound qq t0 s) :
    Sound qq t0 (tempTaken s) := by
  unfold tempTaken
  repeat' first
    | with_reducible intro _
    | with_reducible assumption
    | with_reducible apply crhFlag_sound
    | with_reducible apply wr_sound
    | simp only [↓sound_mk_iff]
    | with_reducible apply sound_ite
    | (extract_lets x; first | (with_reducible refine sound_cut (s := x) ?_ ?_; (on_goal 2 => clear_value x); (on_goal 1 => unfold x)) | (subst x))
    | split

theorem execTempTrackSample_sound (g temp : Nat) (s : State) (hs : Sound qq t0 s) :
    SoundOut qq t0 (execTempTrackSample g temp s) := by
  unfold execTempTrackSample
  repeat' first
    | with_reducible intro _
    | with_reducible assumption
    | with_reducible apply tempTaken_sound
    | with_reducible apply putTemp_sound
    | with_reducible apply trackStep_sound
    | with_reducible apply settleStale_sound
    | with_reducible apply modTrim_sound
    | with_reducible apply raise_sound
    | simp only [↓sound_mk_iff]
    | with_reducible apply sound_foldl
    | with_reducible apply sound_foldl_snd
    | with_reducible apply sound_ite
    | with_reducible apply soundOut_next
    | with_reducible apply soundOut_fault
    | with_reducible apply soundOut_ite
    | with_reducible apply unitCmd_sound
    | (extract_lets x; first | (with_reducible refine sound_cut (s := x) ?_ ?_; (on_goal 2 => clear_value x); (on_goal 1 => unfold x)) | (subst x))
    | split

theorem execTempSample_sound (temps : List Nat) (s : State) (hs : Sound qq t0 s) :
    SoundOut qq t0 (execTempSample temps s) := by
  unfold execTempSample
  repeat' first
    | with_reducible intro _
    | with_reducible assumption
    | with_reducible apply tempTaken_sound
    | with_reducible apply putTemp_sound
    | with_reducible apply settleStales_sound
    | simp only [↓sound_mk_iff]
    | with_reducible apply sound_foldl
    | with_reducible apply sound_foldl_snd
    | with_reducible apply sound_ite
    | with_reducible apply soundOut_next
    | with_reducible apply soundOut_fault
    | with_reducible apply soundOut_ite
    | with_reducible apply unitCmd_sound
    | (extract_lets x; first | (with_reducible refine sound_cut (s := x) ?_ ?_; (on_goal 2 => clear_value x); (on_goal 1 => unfold x)) | (subst x))
    | split

theorem trimEff_sound (st body : Nat) (s : State) (hs : Sound qq t0 s) :
    Sound qq t0 (trimEff st body s) := by
  unfold trimEff
  repeat' first
    | with_reducible intro _
    | with_reducible assumption
    | with_reducible apply modTrim_sound
    | with_reducible apply wr_sound
    | simp only [↓sound_mk_iff]
    | with_reducible apply sound_ite
    | split

theorem commitEff_sound (s : State) (hs : Sound qq t0 s) :
    Sound qq t0 (commitEff s) := by
  unfold commitEff
  repeat' first
    | with_reducible intro _
    | with_reducible assumption
    | with_reducible apply trimEff_sound

theorem importEff_sound (s : State) (hs : Sound qq t0 s) :
    Sound qq t0 (importEff s) := by
  unfold importEff
  repeat' first
    | with_reducible intro _
    | with_reducible assumption
    | with_reducible apply trimEff_sound

theorem execTrimCommit_sound (q : Req) (s : State) (hs : Sound qq t0 s) :
    SoundOut qq t0 (execTrimCommit q s) := by
  unfold execTrimCommit
  repeat' first
    | with_reducible intro _
    | with_reducible assumption
    | with_reducible apply command_sound
    | with_reducible apply commitEff_sound
    | with_reducible apply soundOut_next
    | with_reducible apply soundOut_fault

theorem execTrimImport_sound (q : Req) (s : State) (hs : Sound qq t0 s) :
    SoundOut qq t0 (execTrimImport q s) := by
  unfold execTrimImport
  repeat' first
    | with_reducible intro _
    | with_reducible assumption
    | with_reducible apply command_sound
    | with_reducible apply importEff_sound
    | with_reducible apply soundOut_next
    | with_reducible apply soundOut_fault

theorem execTrimWriteEnd_sound (s : State) (hs : Sound qq t0 s) :
    SoundOut qq t0 (execTrimWriteEnd s) := by
  unfold execTrimWriteEnd
  repeat' first
    | with_reducible intro _
    | with_reducible assumption
    | with_reducible apply modTrim_sound
    | with_reducible apply wr_sound
    | with_reducible apply raise_sound
    | with_reducible apply soundOut_next
    | with_reducible apply soundOut_fault
    | with_reducible apply soundOut_ite
    | simp only [↓sound_mk_iff]
    | with_reducible apply sound_ite
    | split

theorem loadTable_sound (im : Nat) (s : State) (hs : Sound qq t0 s) :
    Sound qq t0 (loadTable im s) := by
  unfold loadTable
  repeat' first
    | with_reducible intro _
    | with_reducible assumption
    | with_reducible apply modTrim_sound
    | with_reducible apply wr_sound
    | simp only [↓sound_mk_iff]
    | with_reducible apply sound_foldl
    | with_reducible apply sound_foldl_snd
    | with_reducible apply sound_ite
    | (extract_lets x; first | (with_reducible refine sound_cut (s := x) ?_ ?_; (on_goal 2 => clear_value x); (on_goal 1 => unfold x)) | (subst x))
    | split

set_option Elab.async false in
theorem trimLoad_sound (s : State) (hs : Sound qq t0 s) :
    Sound qq t0 (trimLoad s) := by
  unfold trimLoad
  repeat' first
    | with_reducible intro _
    | with_reducible assumption
    | with_reducible apply loadTable_sound
    | with_reducible apply wr_sound
    | with_reducible apply raise_sound
    | split

end Sys2Proof.Laws
end

