-- ==== Sys2Proof/Laws/SoundSup.lean ====
section
/-! SUPPORT. What every operation of Machine/Sup.lean keeps. -/
namespace Sys2Proof.Laws
open Sys2Proof Sys2Proof.Machine
set_option linter.unusedVariables false
set_option linter.unusedTactic false
set_option linter.unreachableTactic false

variable {qq : List Instr} {t0 : Nat}

theorem modSup_sound (f : SupS → SupS) (s : State) (hs : Sound qq t0 s) :
    Sound qq t0 (modSup f s) := by
  unfold modSup
  repeat' first
    | with_reducible intro _
    | with_reducible assumption
    | simp only [↓sound_mk_iff]

theorem supFlag_sound (b : Nat) (s : State) (hs : Sound qq t0 s) :
    Sound qq t0 (supFlag b s) := by
  unfold supFlag
  repeat' first
    | with_reducible intro _
    | with_reducible assumption
    | with_reducible apply flag_sound

theorem wdStart_sound (s : State) (hs : Sound qq t0 s) :
    Sound qq t0 (wdStart s) := by
  unfold wdStart
  repeat' first
    | with_reducible intro _
    | with_reducible assumption
    | with_reducible apply modSup_sound
    | simp only [↓sound_mk_iff]

theorem execWdogRestart_sound (s : State) (hs : Sound qq t0 s) :
    SoundOut qq t0 (execWdogRestart s) := by
  unfold execWdogRestart
  repeat' first
    | with_reducible intro _
    | with_reducible assumption
    | with_reducible apply wdStart_sound
    | with_reducible apply soundOut_next
    | with_reducible apply soundOut_fault
    | with_reducible apply soundOut_ite
    | with_reducible apply sound_ite
    | split

theorem execWdogWarn_sound (s : State) (hs : Sound qq t0 s) :
    SoundOut qq t0 (execWdogWarn s) := by
  unfold execWdogWarn
  repeat' first
    | with_reducible intro _
    | with_reducible assumption
    | with_reducible apply modSup_sound
    | with_reducible apply supFlag_sound
    | with_reducible apply upto_sound
    | with_reducible apply soundOut_next
    | with_reducible apply soundOut_fault
    | with_reducible apply soundOut_ite
    | simp only [↓sound_mk_iff]
    | with_reducible apply sound_ite
    | split

theorem execWdogExpiry_sound (s : State) (hs : Sound qq t0 s) :
    SoundOut qq t0 (execWdogExpiry s) := by
  unfold execWdogExpiry
  repeat' first
    | with_reducible intro _
    | with_reducible assumption
    | with_reducible apply partReset_sound
    | with_reducible apply upto_sound
    | with_reducible apply soundOut_next
    | with_reducible apply soundOut_fault
    | split

theorem execSupReady_sound (s : State) (hs : Sound qq t0 s) :
    SoundOut qq t0 (execSupReady s) := by
  unfold execSupReady
  repeat' first
    | with_reducible intro _
    | with_reducible assumption
    | with_reducible apply wdStart_sound
    | with_reducible apply trimLoad_sound
    | with_reducible apply modCfg_sound
    | with_reducible apply crhFlag_sound
    | with_reducible apply upto_sound
    | with_reducible apply setBit_sound
    | with_reducible apply raise_sound
    | with_reducible apply wr_sound
    | simp only [↓sound_mk_iff]
    | with_reducible apply sound_foldl
    | with_reducible apply sound_foldl_snd
    | with_reducible apply sound_ite
    | with_reducible apply soundOut_next
    | with_reducible apply soundOut_fault
    | with_reducible apply soundOut_ite
    | with_reducible apply unitCmd_sound
    | (extract_lets x; first | (with_reducible refine sound_cut (s := x) ?_ ?_; (on_goal 2 => clear_value x); (on_goal 1 => unfold x)) | (subst x))
    | split

theorem cryptoNext_sound (s : State) (hs : Sound qq t0 s) :
    Sound qq t0 (cryptoNext s) := by
  unfold cryptoNext
  repeat' first
    | with_reducible intro _
    | with_reducible assumption
    | with_reducible apply modSup_sound
    | with_reducible apply meshSend_sound
    | simp only [↓sound_mk_iff]
    | with_reducible apply sound_ite
    | (extract_lets x; first | (with_reducible refine sound_cut (s := x) ?_ ?_; (on_goal 2 => clear_value x); (on_goal 1 => unfold x)) | (subst x))
    | split

theorem cryptoEff_sound (hmac : Bool) (s : State) (hs : Sound qq t0 s) :
    Sound qq t0 (cryptoEff hmac s) := by
  unfold cryptoEff
  repeat' first
    | with_reducible intro _
    | with_reducible assumption
    | with_reducible apply cryptoNext_sound
    | with_reducible apply modSup_sound
    | with_reducible apply wr_sound
    | simp only [↓sound_mk_iff]
    | with_reducible apply sound_ite
    | split

theorem execCjSha256_sound (q : Req) (s : State) (hs : Sound qq t0 s) :
    SoundOut qq t0 (execCjSha256 q s) := by
  unfold execCjSha256
  repeat' first
    | with_reducible intro _
    | with_reducible assumption
    | with_reducible apply command_sound
    | with_reducible apply cryptoEff_sound
    | with_reducible apply soundOut_next
    | with_reducible apply soundOut_fault

theorem execCjHmac_sound (q : Req) (s : State) (hs : Sound qq t0 s) :
    SoundOut qq t0 (execCjHmac q s) := by
  unfold execCjHmac
  repeat' first
    | with_reducible intro _
    | with_reducible assumption
    | with_reducible apply command_sound
    | with_reducible apply cryptoEff_sound
    | with_reducible apply soundOut_next
    | with_reducible apply soundOut_fault

theorem cryptoDone_sound (x : MeshResp) (s : State) (hs : Sound qq t0 s) :
    Sound qq t0 (cryptoDone x s) := by
  unfold cryptoDone
  repeat' first
    | with_reducible intro _
    | with_reducible assumption
    | with_reducible apply respTaken_sound
    | with_reducible apply modSup_sound
    | with_reducible apply cryptoNext_sound
    | simp only [↓sound_mk_iff]
    | with_reducible apply sound_ite
    | (extract_lets x; first | (with_reducible refine sound_cut (s := x) ?_ ?_; (on_goal 2 => clear_value x); (on_goal 1 => unfold x)) | (subst x))
    | split

theorem execCryptoJobEnd_sound (s : State) (hs : Sound qq t0 s) :
    SoundOut qq t0 (execCryptoJobEnd s) := by
  unfold execCryptoJobEnd
  repeat' first
    | with_reducible intro _
    | with_reducible assumption
    | with_reducible apply cryptoNext_sound
    | with_reducible apply supFlag_sound
    | with_reducible apply modSup_sound
    | with_reducible apply wr_sound
    | simp only [↓sound_mk_iff]
    | with_reducible apply sound_ite
    | with_reducible apply soundOut_next
    | with_reducible apply soundOut_fault
    | with_reducible apply soundOut_ite
    | with_reducible apply unitCmd_sound
    | (extract_lets x; first | (with_reducible refine sound_cut (s := x) ?_ ?_; (on_goal 2 => clear_value x); (on_goal 1 => unfold x)) | (subst x))
    | split

theorem hostRestart_sound (s : State) (hs : Sound qq t0 s) :
    Sound qq t0 (hostRestart s) := by
  unfold hostRestart
  repeat' first
    | with_reducible intro _
    | with_reducible assumption
    | with_reducible apply modSup_sound
    | with_reducible apply sound_ite
    | split

theorem hostKickEff_sound (s : State) (hs : Sound qq t0 s) :
    Sound qq t0 (hostKickEff s) := by
  unfold hostKickEff
  repeat' first
    | with_reducible intro _
    | with_reducible assumption
    | with_reducible apply hostRestart_sound
    | with_reducible apply sound_ite
    | split

theorem execHostKick_sound (q : Req) (v : Nat) (s : State) (hs : Sound qq t0 s) :
    SoundOut qq t0 (execHostKick q v s) := by
  unfold execHostKick
  repeat' first
    | with_reducible intro _
    | with_reducible assumption
    | with_reducible apply command_sound
    | with_reducible apply hostKickEff_sound
    | with_reducible apply soundOut_next
    | with_reducible apply soundOut_fault

theorem stopAll_sound (s : State) (hs : Sound qq t0 s) :
    Sound qq t0 (stopAll s) := by
  unfold stopAll
  repeat' first
    | with_reducible intro _
    | with_reducible assumption
    | with_reducible apply dspStopEff_sound
    | with_reducible apply veStopEff_sound
    | simp only [↓sound_mk_iff]
    | with_reducible apply sound_foldl
    | with_reducible apply sound_foldl_snd
    | with_reducible apply sound_ite
    | (extract_lets x; first | (with_reducible refine sound_cut (s := x) ?_ ?_; (on_goal 2 => clear_value x); (on_goal 1 => unfold x)) | (subst x))
    | split

theorem dropArmed_sound (s : State) (hs : Sound qq t0 s) :
    Sound qq t0 (dropArmed s) := by
  unfold dropArmed
  repeat' first
    | with_reducible intro _
    | with_reducible assumption
    | with_reducible apply disarmTo_sound
    | with_reducible apply wr_sound
    | with_reducible apply raise_sound
    | with_reducible apply sound_ite
    | split

theorem execHostWdExpiry_sound (s : State) (hs : Sound qq t0 s) :
    SoundOut qq t0 (execHostWdExpiry s) := by
  unfold execHostWdExpiry
  repeat' first
    | with_reducible intro _
    | with_reducible assumption
    | with_reducible apply stopAll_sound
    | with_reducible apply dropArmed_sound
    | with_reducible apply upto_sound
    | with_reducible apply supFlag_sound
    | with_reducible apply modSup_sound
    | with_reducible apply bump_sound
    | with_reducible apply soundOut_next
    | with_reducible apply soundOut_fault
    | simp only [↓sound_mk_iff]
    | (extract_lets x; first | (with_reducible refine sound_cut (s := x) ?_ ?_; (on_goal 2 => clear_value x); (on_goal 1 => unfold x)) | (subst x))
    | split

theorem logRecord_sound (e : Nat) (s : State) (hs : Sound qq t0 s) :
    Sound qq t0 (logRecord e s) := by
  unfold logRecord
  repeat' first
    | with_reducible intro _
    | with_reducible assumption
    | with_reducible apply bump_sound
    | with_reducible apply supFlag_sound
    | with_reducible apply modSup_sound
    | simp only [↓sound_mk_iff]
    | with_reducible apply sound_ite
    | (extract_lets x; first | (with_reducible refine sound_cut (s := x) ?_ ?_; (on_goal 2 => clear_value x); (on_goal 1 => unfold x)) | (subst x))
    | split

theorem linePulses_sound (e t : Nat) (s : State) (hs : Sound qq t0 s) :
    Sound qq t0 (linePulses e t s) := by
  unfold linePulses
  repeat' first
    | with_reducible intro _
    | with_reducible assumption
    | with_reducible apply bump_sound
    | with_reducible apply modSup_sound
    | simp only [↓sound_mk_iff]
    | with_reducible apply sound_ite
    | with_reducible apply sound_foldl
    | (extract_lets x; first | (with_reducible refine sound_cut (s := x) ?_ ?_; (on_goal 2 => clear_value x); (on_goal 1 => unfold x)) | (subst x))
    | split

theorem register_sound (e t : Nat) (s : State) (hs : Sound qq t0 s) :
    Sound qq t0 (register e t s) := by
  unfold register
  repeat' first
    | with_reducible intro _
    | with_reducible assumption
    | with_reducible apply linePulses_sound
    | with_reducible apply logRecord_sound
    | with_reducible apply modSup_sound
    | with_reducible apply note_sound
    | with_reducible apply setBit_sound
    | with_reducible apply bump_sound
    | simp only [↓sound_mk_iff]
    | with_reducible apply sound_ite
    | (extract_lets x; first | (with_reducible refine sound_cut (s := x) ?_ ?_; (on_goal 2 => clear_value x); (on_goal 1 => unfold x)) | (subst x))
    | split

theorem execEventRaise_sound (s : State) (hs : Sound qq t0 s) :
    SoundOut qq t0 (execEventRaise s) := by
  unfold execEventRaise
  repeat' first
    | with_reducible intro _
    | with_reducible assumption
    | with_reducible apply register_sound
    | with_reducible apply upto_sound
    | with_reducible apply soundOut_next
    | with_reducible apply soundOut_fault
    | simp only [↓sound_mk_iff]
    | split

theorem execFabricEventPulse_sound (k : Nat) (s : State) (hs : Sound qq t0 s) :
    SoundOut qq t0 (execFabricEventPulse k s) := by
  unfold execFabricEventPulse
  repeat' first
    | with_reducible intro _
    | with_reducible assumption
    | with_reducible apply unitCmd_sound
    | with_reducible apply modSup_sound
    | with_reducible apply upto_sound
    | with_reducible apply soundOut_next
    | with_reducible apply soundOut_fault
    | simp only [↓sound_mk_iff]
    | (extract_lets x; first | (with_reducible refine sound_cut (s := x) ?_ ?_; (on_goal 2 => clear_value x); (on_goal 1 => unfold x)) | (subst x))
    | split

theorem logPopEff_sound (s : State) (hs : Sound qq t0 s) :
    Sound qq t0 (logPopEff s) := by
  unfold logPopEff
  repeat' first
    | with_reducible intro _
    | with_reducible assumption
    | with_reducible apply modSup_sound
    | with_reducible apply bump_sound
    | simp only [↓sound_mk_iff]

theorem execLogPop_sound (q : Req) (s : State) (hs : Sound qq t0 s) :
    SoundOut qq t0 (execLogPop q s) := by
  unfold execLogPop
  repeat' first
    | with_reducible intro _
    | with_reducible assumption
    | with_reducible apply readFrom_sound
    | with_reducible apply logPopEff_sound
    | with_reducible apply soundOut_next
    | with_reducible apply soundOut_fault

set_option Elab.async false in
theorem execIbiRequest_sound (ack : Bool) (s : State) (hs : Sound qq t0 s) :
    SoundOut qq t0 (execIbiRequest ack s) := by
  unfold execIbiRequest
  repeat' first
    | with_reducible intro _
    | with_reducible assumption
    | with_reducible apply modSup_sound
    | with_reducible apply bump_sound
    | with_reducible apply modI3c_sound
    | with_reducible apply soundOut_next
    | with_reducible apply soundOut_fault
    | with_reducible apply soundOut_ite
    | simp only [↓sound_mk_iff]
    | with_reducible apply sound_ite
    | split

end Sys2Proof.Laws
end

