-- ==== Sys2Proof/Laws/SoundDbg.lean ====
section
/-! SUPPORT. What every operation of Machine/Dbg.lean keeps. -/
namespace Sys2Proof.Laws
open Sys2Proof Sys2Proof.Machine
set_option linter.unusedVariables false
set_option linter.unusedTactic false
set_option linter.unreachableTactic false

variable {qq : List Instr} {t0 : Nat}

theorem modDbg_sound (f : DbgS → DbgS) (s : State) (hs : Sound qq t0 s) :
    Sound qq t0 (modDbg f s) := by
  unfold modDbg
  repeat' first
    | with_reducible intro _
    | with_reducible assumption
    | simp only [↓sound_mk_iff]

theorem dbgFlag_sound (b : Nat) (s : State) (hs : Sound qq t0 s) :
    Sound qq t0 (dbgFlag b s) := by
  unfold dbgFlag
  repeat' first
    | with_reducible intro _
    | with_reducible assumption
    | with_reducible apply flag_sound

theorem vendorEnds_sound (m : Nat) (s : State) (hs : Sound qq t0 s) :
    Sound qq t0 (vendorEnds m s) := by
  unfold vendorEnds
  repeat' first
    | with_reducible intro _
    | with_reducible assumption
    | with_reducible apply modDbg_sound
    | with_reducible apply setBit_sound
    | simp only [↓sound_mk_iff]
    | with_reducible apply sound_ite
    | split

theorem grant_sound (m l : Nat) (s : State) (hs : Sound qq t0 s) :
    Sound qq t0 (grant m l s) := by
  unfold grant
  repeat' first
    | with_reducible intro _
    | with_reducible assumption
    | with_reducible apply modMaster_sound
    | simp only [↓sound_mk_iff]

theorem challengeFor_sound (m l : Nat) (s : State) (hs : Sound qq t0 s) :
    Sound qq t0 (challengeFor m l s) := by
  unfold challengeFor
  repeat' first
    | with_reducible intro _
    | with_reducible assumption
    | with_reducible apply modMaster_sound
    | with_reducible apply drawn_sound

theorem authEff_sound (q : Req) (code : Nat) (s : State) (hs : Sound qq t0 s) :
    Sound qq t0 (authEff q code s) := by
  unfold authEff
  repeat' first
    | with_reducible intro _
    | with_reducible assumption
    | with_reducible apply challengeFor_sound
    | with_reducible apply grant_sound
    | with_reducible apply vendorEnds_sound
    | with_reducible apply modMaster_sound
    | simp only [↓sound_mk_iff]
    | with_reducible apply sound_ite
    | split

theorem execAuthCustomerL2_sound (q : Req) (s : State) (hs : Sound qq t0 s) :
    SoundOut qq t0 (execAuthCustomerL2 q s) := by
  unfold execAuthCustomerL2
  repeat' first
    | with_reducible intro _
    | with_reducible assumption
    | with_reducible apply command_sound
    | with_reducible apply authEff_sound
    | with_reducible apply soundOut_next
    | with_reducible apply soundOut_fault

theorem execAuthCustomerL3_sound (q : Req) (s : State) (hs : Sound qq t0 s) :
    SoundOut qq t0 (execAuthCustomerL3 q s) := by
  unfold execAuthCustomerL3
  repeat' first
    | with_reducible intro _
    | with_reducible assumption
    | with_reducible apply command_sound
    | with_reducible apply authEff_sound
    | with_reducible apply soundOut_next
    | with_reducible apply soundOut_fault

theorem execAuthVendor_sound (q : Req) (s : State) (hs : Sound qq t0 s) :
    SoundOut qq t0 (execAuthVendor q s) := by
  unfold execAuthVendor
  repeat' first
    | with_reducible intro _
    | with_reducible assumption
    | with_reducible apply command_sound
    | with_reducible apply authEff_sound
    | with_reducible apply soundOut_next
    | with_reducible apply soundOut_fault

theorem execAuthDrop_sound (q : Req) (s : State) (hs : Sound qq t0 s) :
    SoundOut qq t0 (execAuthDrop q s) := by
  unfold execAuthDrop
  repeat' first
    | with_reducible intro _
    | with_reducible assumption
    | with_reducible apply command_sound
    | with_reducible apply authEff_sound
    | with_reducible apply soundOut_next
    | with_reducible apply soundOut_fault

theorem respGrants_sound (q : Req) (s : State) (hs : Sound qq t0 s) :
    Sound qq t0 (respGrants q s) := by
  unfold respGrants
  repeat' first
    | with_reducible intro _
    | with_reducible assumption
    | with_reducible apply dbgFlag_sound
    | with_reducible apply grant_sound
    | with_reducible apply modDbg_sound
    | with_reducible apply setBit_sound
    | simp only [↓sound_mk_iff]
    | with_reducible apply sound_ite
    | (extract_lets x; first | (with_reducible refine sound_cut (s := x) ?_ ?_; (on_goal 2 => clear_value x); (on_goal 1 => unfold x)) | (subst x))
    | split

theorem respFails_sound (q : Req) (s : State) (hs : Sound qq t0 s) :
    Sound qq t0 (respFails q s) := by
  unfold respFails
  repeat' first
    | with_reducible intro _
    | with_reducible assumption
    | with_reducible apply bump_sound
    | with_reducible apply modMaster_sound
    | with_reducible apply dbgFlag_sound
    | with_reducible apply modDbg_sound
    | with_reducible apply setBit_sound
    | simp only [↓sound_mk_iff]
    | with_reducible apply sound_ite
    | (extract_lets x; first | (with_reducible refine sound_cut (s := x) ?_ ?_; (on_goal 2 => clear_value x); (on_goal 1 => unfold x)) | (subst x))
    | split

theorem authResp_sound (q : Req) (len v : Nat) (s : State) (hs : Sound qq t0 s) :
    Sound qq t0 (authResp q len v s) := by
  unfold authResp
  repeat' first
    | with_reducible intro _
    | with_reducible assumption
    | with_reducible apply respFails_sound
    | with_reducible apply respGrants_sound
    | with_reducible apply writeTo_sound
    | simp only [↓sound_mk_iff]
    | with_reducible apply sound_ite
    | (extract_lets x; first | (with_reducible refine sound_cut (s := x) ?_ ?_; (on_goal 2 => clear_value x); (on_goal 1 => unfold x)) | (subst x))
    | split

theorem execAuthResp_sound (q : Req) (v : Nat) (s : State) (hs : Sound qq t0 s) :
    SoundOut qq t0 (execAuthResp q v s) := by
  unfold execAuthResp
  repeat' first
    | with_reducible intro _
    | with_reducible assumption
    | with_reducible apply authResp_sound
    | simp only [↓sound_mk_iff]
    | with_reducible apply sound_ite
    | with_reducible apply soundOut_next
    | with_reducible apply soundOut_fault
    | with_reducible apply soundOut_ite
    | with_reducible apply unitCmd_sound
    | (extract_lets x; first | (with_reducible refine sound_cut (s := x) ?_ ?_; (on_goal 2 => clear_value x); (on_goal 1 => unfold x)) | (subst x))
    | split

theorem fuseEff_sound (code : Nat) (s : State) (hs : Sound qq t0 s) :
    Sound qq t0 (fuseEff code s) := by
  unfold fuseEff
  repeat' first
    | with_reducible intro _
    | with_reducible assumption
    | with_reducible apply modDbg_sound
    | with_reducible apply setBit_sound
    | with_reducible apply wr_sound
    | simp only [↓sound_mk_iff]
    | (extract_lets x; first | (with_reducible refine sound_cut (s := x) ?_ ?_; (on_goal 2 => clear_value x); (on_goal 1 => unfold x)) | (subst x))
    | split

theorem execDbgFuseKey2_sound (q : Req) (s : State) (hs : Sound qq t0 s) :
    SoundOut qq t0 (execDbgFuseKey2 q s) := by
  unfold execDbgFuseKey2
  repeat' first
    | with_reducible intro _
    | with_reducible assumption
    | with_reducible apply command_sound
    | with_reducible apply fuseEff_sound
    | with_reducible apply soundOut_next
    | with_reducible apply soundOut_fault

theorem execDbgFuseKey3_sound (q : Req) (s : State) (hs : Sound qq t0 s) :
    SoundOut qq t0 (execDbgFuseKey3 q s) := by
  unfold execDbgFuseKey3
  repeat' first
    | with_reducible intro _
    | with_reducible assumption
    | with_reducible apply command_sound
    | with_reducible apply fuseEff_sound
    | with_reducible apply soundOut_next
    | with_reducible apply soundOut_fault

theorem execDbgFusePolicy_sound (q : Req) (s : State) (hs : Sound qq t0 s) :
    SoundOut qq t0 (execDbgFusePolicy q s) := by
  unfold execDbgFusePolicy
  repeat' first
    | with_reducible intro _
    | with_reducible assumption
    | with_reducible apply command_sound
    | with_reducible apply fuseEff_sound
    | with_reducible apply soundOut_next
    | with_reducible apply soundOut_fault

theorem dbgReset_sound (q : Req) (s : State) (hs : Sound qq t0 s) :
    Sound qq t0 (dbgReset q s) := by
  unfold dbgReset
  repeat' first
    | with_reducible intro _
    | with_reducible assumption
    | with_reducible apply command_sound
    | with_reducible apply partReset_sound
    | with_reducible apply sound_ite
    | (extract_lets x; first | (with_reducible refine sound_cut (s := x) ?_ ?_; (on_goal 2 => clear_value x); (on_goal 1 => unfold x)) | (subst x))
    | split

theorem execDbgReset_sound (q : Req) (s : State) (hs : Sound qq t0 s) :
    SoundOut qq t0 (execDbgReset q s) := by
  unfold execDbgReset
  repeat' first
    | with_reducible intro _
    | with_reducible assumption
    | with_reducible apply dbgReset_sound
    | with_reducible apply soundOut_next
    | with_reducible apply soundOut_fault

theorem brkAllocEff_sound (q : Req) (s : State) (hs : Sound qq t0 s) :
    Sound qq t0 (brkAllocEff q s) := by
  unfold brkAllocEff
  repeat' first
    | with_reducible intro _
    | with_reducible assumption
    | with_reducible apply modBrk_sound
    | with_reducible apply wr_sound
    | with_reducible apply modMaster_sound
    | simp only [↓sound_mk_iff]
    | split

theorem execBrkAlloc_sound (q : Req) (s : State) (hs : Sound qq t0 s) :
    SoundOut qq t0 (execBrkAlloc q s) := by
  unfold execBrkAlloc
  repeat' first
    | with_reducible intro _
    | with_reducible assumption
    | with_reducible apply command_sound
    | with_reducible apply brkAllocEff_sound
    | with_reducible apply soundOut_next
    | with_reducible apply soundOut_fault

theorem rearm_sound (u : Nat) (s : State) (hs : Sound qq t0 s) :
    Sound qq t0 (rearm u s) := by
  unfold rearm
  repeat' first
    | with_reducible intro _
    | with_reducible assumption
    | with_reducible apply modBrk_sound
    | with_reducible apply wr_sound

theorem brkCfgEff_sound (u v : Nat) (s : State) (hs : Sound qq t0 s) :
    Sound qq t0 (brkCfgEff u v s) := by
  unfold brkCfgEff
  repeat' first
    | with_reducible intro _
    | with_reducible assumption
    | with_reducible apply rearm_sound
    | with_reducible apply wr_sound

theorem execBrkCfgWrite_sound (q : Req) (u v : Nat) (s : State) (hs : Sound qq t0 s) :
    SoundOut qq t0 (execBrkCfgWrite q u v s) := by
  unfold execBrkCfgWrite
  repeat' first
    | with_reducible intro _
    | with_reducible assumption
    | with_reducible apply unitCmd_sound
    | with_reducible apply writeTo_sound
    | with_reducible apply brkCfgEff_sound
    | with_reducible apply soundOut_next
    | with_reducible apply soundOut_fault

theorem brkFreeEff_sound (u : Nat) (s : State) (hs : Sound qq t0 s) :
    Sound qq t0 (brkFreeEff u s) := by
  unfold brkFreeEff
  repeat' first
    | with_reducible intro _
    | with_reducible assumption
    | with_reducible apply modBrk_sound
    | with_reducible apply wr_sound

theorem execBrkRearm_sound (q : Req) (u : Nat) (s : State) (hs : Sound qq t0 s) :
    SoundOut qq t0 (execBrkRearm q u s) := by
  unfold execBrkRearm
  repeat' first
    | with_reducible intro _
    | with_reducible assumption
    | with_reducible apply unitCmd_sound
    | with_reducible apply command_sound
    | with_reducible apply rearm_sound
    | with_reducible apply soundOut_next
    | with_reducible apply soundOut_fault

theorem execBrkFree_sound (q : Req) (u : Nat) (s : State) (hs : Sound qq t0 s) :
    SoundOut qq t0 (execBrkFree q u s) := by
  unfold execBrkFree
  repeat' first
    | with_reducible intro _
    | with_reducible assumption
    | with_reducible apply unitCmd_sound
    | with_reducible apply command_sound
    | with_reducible apply brkFreeEff_sound
    | with_reducible apply soundOut_next
    | with_reducible apply soundOut_fault

theorem execGroupHaltLatch_sound (g : Nat) (s : State) (hs : Sound qq t0 s) :
    SoundOut qq t0 (execGroupHaltLatch g s) := by
  unfold execGroupHaltLatch
  repeat' first
    | with_reducible intro _
    | with_reducible assumption
    | with_reducible apply unitCmd_sound
    | with_reducible apply upto_sound
    | with_reducible apply latchDebugHalt_sound
    | with_reducible apply soundOut_next
    | with_reducible apply soundOut_fault
    | with_reducible apply soundOut_ite
    | simp only [↓sound_mk_iff]
    | with_reducible apply sound_ite
    | with_reducible apply sound_foldl
    | (extract_lets x; first | (with_reducible refine sound_cut (s := x) ?_ ?_; (on_goal 2 => clear_value x); (on_goal 1 => unfold x)) | (subst x))
    | split

theorem execDbgHalt_sound (q : Req) (t : Nat) (s : State) (hs : Sound qq t0 s) :
    SoundOut qq t0 (execDbgHalt q t s) := by
  unfold execDbgHalt
  repeat' first
    | with_reducible intro _
    | with_reducible assumption
    | with_reducible apply unitCmd_sound
    | with_reducible apply command_sound
    | with_reducible apply latchDebugHalt_sound
    | with_reducible apply soundOut_next
    | with_reducible apply soundOut_fault

theorem molxoIssue_sound (s : State) (hs : Sound qq t0 s) :
    Sound qq t0 (molxoIssue s) := by
  unfold molxoIssue
  repeat' first
    | with_reducible intro _
    | with_reducible assumption
    | with_reducible apply brkMatch_sound
    | with_reducible apply drawn_sound
    | simp only [↓sound_mk_iff]
    | with_reducible apply sound_ite
    | (extract_lets x; first | (with_reducible refine sound_cut (s := x) ?_ ?_; (on_goal 2 => clear_value x); (on_goal 1 => unfold x)) | (subst x))
    | split

theorem molxoGo_sound (s : State) (hs : Sound qq t0 s) :
    Sound qq t0 (molxoGo s) := by
  unfold molxoGo
  repeat' first
    | with_reducible intro _
    | with_reducible assumption
    | with_reducible apply molxoIssue_sound
    | with_reducible apply modSup_sound
    | with_reducible apply modCfg_sound
    | with_reducible apply modTgt_sound
    | simp only [↓sound_mk_iff]
    | with_reducible apply sound_ite
    | (extract_lets x; first | (with_reducible refine sound_cut (s := x) ?_ ?_; (on_goal 2 => clear_value x); (on_goal 1 => unfold x)) | (subst x))
    | split

theorem goOn_sound (t : Nat) (s : State) (hs : Sound qq t0 s) :
    Sound qq t0 (goOn t s) := by
  unfold goOn
  repeat' first
    | with_reducible intro _
    | with_reducible assumption
    | with_reducible apply molxoGo_sound
    | with_reducible apply dspGoOn_sound
    | with_reducible apply veGoOn_sound
    | simp only [↓sound_mk_iff]
    | with_reducible apply sound_ite
    | (extract_lets x; first | (with_reducible refine sound_cut (s := x) ?_ ?_; (on_goal 2 => clear_value x); (on_goal 1 => unfold x)) | (subst x))
    | split

theorem resumeEff_sound (t : Nat) (s : State) (hs : Sound qq t0 s) :
    Sound qq t0 (resumeEff t s) := by
  unfold resumeEff
  repeat' first
    | with_reducible intro _
    | with_reducible assumption
    | with_reducible apply goOn_sound
    | with_reducible apply modTgt_sound
    | simp only [↓sound_mk_iff]
    | with_reducible apply sound_ite
    | (extract_lets x; first | (with_reducible refine sound_cut (s := x) ?_ ?_; (on_goal 2 => clear_value x); (on_goal 1 => unfold x)) | (subst x))
    | split

theorem stepEff_sound (t : Nat) (s : State) (hs : Sound qq t0 s) :
    Sound qq t0 (stepEff t s) := by
  unfold stepEff
  repeat' first
    | with_reducible intro _
    | with_reducible assumption
    | with_reducible apply goOn_sound
    | with_reducible apply modTgt_sound
    | simp only [↓sound_mk_iff]
    | with_reducible apply sound_ite
    | (extract_lets x; first | (with_reducible refine sound_cut (s := x) ?_ ?_; (on_goal 2 => clear_value x); (on_goal 1 => unfold x)) | (subst x))
    | split

theorem execDbgResume_sound (q : Req) (t : Nat) (s : State) (hs : Sound qq t0 s) :
    SoundOut qq t0 (execDbgResume q t s) := by
  unfold execDbgResume
  repeat' first
    | with_reducible intro _
    | with_reducible assumption
    | with_reducible apply unitCmd_sound
    | with_reducible apply command_sound
    | with_reducible apply resumeEff_sound
    | with_reducible apply soundOut_next
    | with_reducible apply soundOut_fault

theorem execDbgStep_sound (q : Req) (t : Nat) (s : State) (hs : Sound qq t0 s) :
    SoundOut qq t0 (execDbgStep q t s) := by
  unfold execDbgStep
  repeat' first
    | with_reducible intro _
    | with_reducible assumption
    | with_reducible apply unitCmd_sound
    | with_reducible apply command_sound
    | with_reducible apply stepEff_sound
    | with_reducible apply soundOut_next
    | with_reducible apply soundOut_fault

theorem molxoHold_sound (s : State) (hs : Sound qq t0 s) :
    Sound qq t0 (molxoHold s) := by
  unfold molxoHold
  repeat' first
    | with_reducible intro _
    | with_reducible assumption
    | with_reducible apply dbgFlag_sound
    | with_reducible apply modSup_sound
    | with_reducible apply modTgt_sound
    | simp only [↓sound_mk_iff]
    | with_reducible apply sound_ite
    | (extract_lets x; first | (with_reducible refine sound_cut (s := x) ?_ ?_; (on_goal 2 => clear_value x); (on_goal 1 => unfold x)) | (subst x))
    | split

theorem execMolxoHaltLands_sound (s : State) (hs : Sound qq t0 s) :
    SoundOut qq t0 (execMolxoHaltLands s) := by
  unfold execMolxoHaltLands
  repeat' first
    | with_reducible intro _
    | with_reducible assumption
    | with_reducible apply molxoHold_sound
    | with_reducible apply molxoIssue_sound
    | with_reducible apply modTgt_sound
    | simp only [↓sound_mk_iff]
    | with_reducible apply sound_ite
    | with_reducible apply soundOut_next
    | with_reducible apply soundOut_fault
    | with_reducible apply soundOut_ite
    | with_reducible apply unitCmd_sound
    | (extract_lets x; first | (with_reducible refine sound_cut (s := x) ?_ ?_; (on_goal 2 => clear_value x); (on_goal 1 => unfold x)) | (subst x))
    | split

theorem regWrite_sound (t sel v : Nat) (s : State) (hs : Sound qq t0 s) :
    Sound qq t0 (regWrite t sel v s) := by
  unfold regWrite
  repeat' first
    | with_reducible intro _
    | with_reducible assumption
    | with_reducible apply wr_sound
    | with_reducible apply modVe_sound
    | with_reducible apply modDsp_sound
    | simp only [↓sound_mk_iff]
    | with_reducible apply sound_ite
    | (extract_lets x; first | (with_reducible refine sound_cut (s := x) ?_ ?_; (on_goal 2 => clear_value x); (on_goal 1 => unfold x)) | (subst x))
    | split

theorem regWriteEff_sound (t v : Nat) (s : State) (hs : Sound qq t0 s) :
    Sound qq t0 (regWriteEff t v s) := by
  unfold regWriteEff
  repeat' first
    | with_reducible intro _
    | with_reducible assumption
    | with_reducible apply regWrite_sound

theorem execDbgRegAccess_sound (q : Req) (t : Nat) (wr : Bool) (v : Nat) (s : State) (hs : Sound qq t0 s) :
    SoundOut qq t0 (execDbgRegAccess q t wr v s) := by
  unfold execDbgRegAccess
  repeat' first
    | with_reducible intro _
    | with_reducible assumption
    | with_reducible apply unitCmd_sound
    | with_reducible apply wr_sound
    | with_reducible apply writeTo_sound
    | with_reducible apply regWriteEff_sound
    | with_reducible apply readFrom_sound
    | with_reducible apply drawn_sound
    | with_reducible apply soundOut_next
    | with_reducible apply soundOut_fault
    | with_reducible apply soundOut_ite
    | with_reducible apply sound_ite
    | split

theorem tdtxEff_sound (t v : Nat) (s : State) (hs : Sound qq t0 s) :
    Sound qq t0 (tdtxEff t v s) := by
  unfold tdtxEff
  repeat' first
    | with_reducible intro _
    | with_reducible assumption
    | with_reducible apply dbgFlag_sound
    | with_reducible apply modTgt_sound
    | simp only [↓sound_mk_iff]

theorem execTDtxWrite_sound (q : Req) (t v : Nat) (s : State) (hs : Sound qq t0 s) :
    SoundOut qq t0 (execTDtxWrite q t v s) := by
  unfold execTDtxWrite
  repeat' first
    | with_reducible intro _
    | with_reducible assumption
    | with_reducible apply unitCmd_sound
    | with_reducible apply writeTo_sound
    | with_reducible apply tdtxEff_sound
    | with_reducible apply soundOut_next
    | with_reducible apply soundOut_fault

theorem dtxEff_sound (t : Nat) (s : State) (hs : Sound qq t0 s) :
    Sound qq t0 (dtxEff t s) := by
  unfold dtxEff
  repeat' first
    | with_reducible intro _
    | with_reducible assumption
    | with_reducible apply modTgt_sound
    | simp only [↓sound_mk_iff]

theorem execDtxRead_sound (q : Req) (t : Nat) (s : State) (hs : Sound qq t0 s) :
    SoundOut qq t0 (execDtxRead q t s) := by
  unfold execDtxRead
  repeat' first
    | with_reducible intro _
    | with_reducible assumption
    | with_reducible apply unitCmd_sound
    | with_reducible apply readFrom_sound
    | with_reducible apply dtxEff_sound
    | with_reducible apply soundOut_next
    | with_reducible apply soundOut_fault

theorem drxEff_sound (t v : Nat) (s : State) (hs : Sound qq t0 s) :
    Sound qq t0 (drxEff t v s) := by
  unfold drxEff
  repeat' first
    | with_reducible intro _
    | with_reducible assumption
    | with_reducible apply modTgt_sound
    | simp only [↓sound_mk_iff]

theorem execDrxWrite_sound (q : Req) (t v : Nat) (s : State) (hs : Sound qq t0 s) :
    SoundOut qq t0 (execDrxWrite q t v s) := by
  unfold execDrxWrite
  repeat' first
    | with_reducible intro _
    | with_reducible assumption
    | with_reducible apply unitCmd_sound
    | with_reducible apply writeTo_sound
    | with_reducible apply drxEff_sound
    | with_reducible apply soundOut_next
    | with_reducible apply soundOut_fault

theorem tdrxEff_sound (t : Nat) (s : State) (hs : Sound qq t0 s) :
    Sound qq t0 (tdrxEff t s) := by
  unfold tdrxEff
  repeat' first
    | with_reducible intro _
    | with_reducible assumption
    | with_reducible apply dbgFlag_sound
    | with_reducible apply modTgt_sound
    | simp only [↓sound_mk_iff]

theorem execTDrxRead_sound (q : Req) (t : Nat) (s : State) (hs : Sound qq t0 s) :
    SoundOut qq t0 (execTDrxRead q t s) := by
  unfold execTDrxRead
  repeat' first
    | with_reducible intro _
    | with_reducible assumption
    | with_reducible apply unitCmd_sound
    | with_reducible apply readFrom_sound
    | with_reducible apply tdrxEff_sound
    | with_reducible apply soundOut_next
    | with_reducible apply soundOut_fault

theorem loadInsn_sound (c : Nat) (s : State) (hs : Sound qq t0 s) :
    Sound qq t0 (loadInsn c s) := by
  unfold loadInsn
  repeat' first
    | with_reducible intro _
    | with_reducible assumption
    | with_reducible apply modDbg_sound
    | with_reducible apply partReset_sound
    | with_reducible apply modCrh_sound
    | with_reducible apply drawn_sound
    | simp only [↓sound_mk_iff]
    | with_reducible apply sound_ite
    | (extract_lets x; first | (with_reducible refine sound_cut (s := x) ?_ ?_; (on_goal 2 => clear_value x); (on_goal 1 => unfold x)) | (subst x))
    | split

theorem execExtest_sound (s : State) (hs : Sound qq t0 s) :
    SoundOut qq t0 (execExtest s) := by
  unfold execExtest
  repeat' first
    | with_reducible intro _
    | with_reducible assumption
    | with_reducible apply loadInsn_sound
    | with_reducible apply soundOut_next
    | with_reducible apply soundOut_fault

theorem execSamplePreload_sound (s : State) (hs : Sound qq t0 s) :
    SoundOut qq t0 (execSamplePreload s) := by
  unfold execSamplePreload
  repeat' first
    | with_reducible intro _
    | with_reducible assumption
    | with_reducible apply loadInsn_sound
    | with_reducible apply modDbg_sound
    | with_reducible apply drawn_sound
    | simp only [↓sound_mk_iff]
    | with_reducible apply sound_ite
    | with_reducible apply soundOut_next
    | with_reducible apply soundOut_fault
    | with_reducible apply soundOut_ite
    | with_reducible apply unitCmd_sound
    | (extract_lets x; first | (with_reducible refine sound_cut (s := x) ?_ ?_; (on_goal 2 => clear_value x); (on_goal 1 => unfold x)) | (subst x))
    | split

theorem execIdcode_sound (s : State) (hs : Sound qq t0 s) :
    SoundOut qq t0 (execIdcode s) := by
  unfold execIdcode
  repeat' first
    | with_reducible intro _
    | with_reducible assumption
    | with_reducible apply loadInsn_sound
    | with_reducible apply soundOut_next
    | with_reducible apply soundOut_fault

theorem execClamp_sound (s : State) (hs : Sound qq t0 s) :
    SoundOut qq t0 (execClamp s) := by
  unfold execClamp
  repeat' first
    | with_reducible intro _
    | with_reducible assumption
    | with_reducible apply loadInsn_sound
    | with_reducible apply soundOut_next
    | with_reducible apply soundOut_fault

theorem execHighz_sound (s : State) (hs : Sound qq t0 s) :
    SoundOut qq t0 (execHighz s) := by
  unfold execHighz
  repeat' first
    | with_reducible intro _
    | with_reducible assumption
    | with_reducible apply loadInsn_sound
    | with_reducible apply soundOut_next
    | with_reducible apply soundOut_fault

theorem execExtestPulse_sound (s : State) (hs : Sound qq t0 s) :
    SoundOut qq t0 (execExtestPulse s) := by
  unfold execExtestPulse
  repeat' first
    | with_reducible intro _
    | with_reducible assumption
    | with_reducible apply loadInsn_sound
    | with_reducible apply soundOut_next
    | with_reducible apply soundOut_fault

theorem execExtestTrain_sound (s : State) (hs : Sound qq t0 s) :
    SoundOut qq t0 (execExtestTrain s) := by
  unfold execExtestTrain
  repeat' first
    | with_reducible intro _
    | with_reducible assumption
    | with_reducible apply loadInsn_sound
    | with_reducible apply soundOut_next
    | with_reducible apply soundOut_fault

theorem execBypass_sound (s : State) (hs : Sound qq t0 s) :
    SoundOut qq t0 (execBypass s) := by
  unfold execBypass
  repeat' first
    | with_reducible intro _
    | with_reducible assumption
    | with_reducible apply loadInsn_sound
    | with_reducible apply soundOut_next
    | with_reducible apply soundOut_fault

set_option Elab.async false in
theorem execTrst_sound (s : State) (hs : Sound qq t0 s) :
    SoundOut qq t0 (execTrst s) := by
  unfold execTrst
  repeat' first
    | with_reducible intro _
    | with_reducible assumption
    | with_reducible apply vendorEnds_sound
    | with_reducible apply loadInsn_sound
    | with_reducible apply modMaster_sound
    | with_reducible apply soundOut_next
    | with_reducible apply soundOut_fault
    | simp only [↓sound_mk_iff]

end Sys2Proof.Laws
end

