-- ==== Sys2Proof/Laws/SoundFcp.lean ====
section
/-! SUPPORT. What every operation of Machine/Fcp.lean keeps. -/
namespace Sys2Proof.Laws
open Sys2Proof Sys2Proof.Machine
set_option linter.unusedVariables false
set_option linter.unusedTactic false
set_option linter.unreachableTactic false

variable {qq : List Instr} {t0 : Nat}

theorem recordCycle_sound (n th : Nat) (c : CycRec) (s : State) (hs : Sound qq t0 s) :
    Sound qq t0 (recordCycle n th c s) := by
  unfold recordCycle
  repeat' first
    | with_reducible intro _
    | with_reducible assumption
    | with_reducible apply modFcp_sound
    | with_reducible apply closeRecord_sound
    | simp only [↓sound_mk_iff]
    | with_reducible apply sound_ite
    | (extract_lets x; first | (with_reducible refine sound_cut (s := x) ?_ ?_; (on_goal 2 => clear_value x); (on_goal 1 => unfold x)) | (subst x))
    | split

theorem countCycle_sound (n : Nat) (c : CycRec) (s : State) (hs : Sound qq t0 s) :
    Sound qq t0 (countCycle n c s) := by
  unfold countCycle
  repeat' first
    | with_reducible intro _
    | with_reducible assumption
    | with_reducible apply bump_sound
    | with_reducible apply sound_ite
    | with_reducible apply sound_foldl
    | split

theorem bitmapCycle_sound (n th : Nat) (c : CycRec) (s : State) (hs : Sound qq t0 s) :
    Sound qq t0 (bitmapCycle n th c s) := by
  unfold bitmapCycle
  repeat' first
    | with_reducible intro _
    | with_reducible assumption
    | with_reducible apply modFcp_sound
    | with_reducible apply bump_sound
    | with_reducible apply closeBitmap_sound
    | with_reducible apply formBitmap_sound
    | simp only [↓sound_mk_iff]
    | with_reducible apply sound_ite
    | split

theorem stopOnN_sound (n th : Nat) (c : CycRec) (s : State) (hs : Sound qq t0 s) :
    Sound qq t0 (stopOnN n th c s) := by
  unfold stopOnN
  repeat' first
    | with_reducible intro _
    | with_reducible assumption
    | with_reducible apply closeRecord_sound
    | with_reducible apply fcpStop_sound
    | with_reducible apply modFcp_sound
    | simp only [↓sound_mk_iff]
    | with_reducible apply sound_ite
    | (extract_lets x; first | (with_reducible refine sound_cut (s := x) ?_ ?_; (on_goal 2 => clear_value x); (on_goal 1 => unfold x)) | (subst x))
    | split

theorem mergeExpire_sound (n t : Nat) (s : State) (hs : Sound qq t0 s) :
    Sound qq t0 (mergeExpire n t s) := by
  unfold mergeExpire
  repeat' first
    | with_reducible intro _
    | with_reducible assumption
    | with_reducible apply closeBitmap_sound
    | with_reducible apply sound_ite
    | split

theorem processCycle_sound (n th : Nat) (c : CycRec) (s : State) (hs : Sound qq t0 s) :
    Sound qq t0 (processCycle n th c s) := by
  unfold processCycle
  repeat' first
    | with_reducible intro _
    | with_reducible assumption
    | with_reducible apply mergeExpire_sound
    | with_reducible apply stopOnN_sound
    | with_reducible apply bitmapCycle_sound
    | with_reducible apply countCycle_sound
    | with_reducible apply recordCycle_sound
    | with_reducible apply closeBitmap_sound
    | with_reducible apply closeRecord_sound
    | with_reducible apply brkMatch_sound
    | with_reducible apply modFcp_sound
    | with_reducible apply bump_sound
    | simp only [↓sound_mk_iff]
    | with_reducible apply sound_ite
    | (extract_lets x; first | (with_reducible refine sound_cut (s := x) ?_ ?_; (on_goal 2 => clear_value x); (on_goal 1 => unfold x)) | (subst x))
    | split

theorem execFailCycle_sound (n : Nat) (s : State) (hs : Sound qq t0 s) :
    SoundOut qq t0 (execFailCycle n s) := by
  unfold execFailCycle
  repeat' first
    | with_reducible intro _
    | with_reducible assumption
    | with_reducible apply unitCmd_sound
    | with_reducible apply processCycle_sound
    | with_reducible apply upto_sound
    | with_reducible apply soundOut_next
    | with_reducible apply soundOut_fault
    | (extract_lets x; first | (with_reducible refine sound_cut (s := x) ?_ ?_; (on_goal 2 => clear_value x); (on_goal 1 => unfold x)) | (subst x))
    | split

theorem execMergeTimeout_sound (n : Nat) (s : State) (hs : Sound qq t0 s) :
    SoundOut qq t0 (execMergeTimeout n s) := by
  unfold execMergeTimeout
  repeat' first
    | with_reducible intro _
    | with_reducible assumption
    | with_reducible apply unitCmd_sound
    | with_reducible apply closeBitmap_sound
    | with_reducible apply upto_sound
    | with_reducible apply soundOut_next
    | with_reducible apply soundOut_fault
    | split

theorem bitmapDone_sound (n : Nat) (x : MeshResp) (s : State) (hs : Sound qq t0 s) :
    Sound qq t0 (bitmapDone n x s) := by
  unfold bitmapDone
  repeat' first
    | with_reducible intro _
    | with_reducible assumption
    | with_reducible apply qFlag_sound
    | with_reducible apply respTaken_sound
    | with_reducible apply bump_sound
    | with_reducible apply wr_sound
    | simp only [↓sound_mk_iff]
    | with_reducible apply sound_ite
    | (extract_lets x; first | (with_reducible refine sound_cut (s := x) ?_ ?_; (on_goal 2 => clear_value x); (on_goal 1 => unfold x)) | (subst x))
    | split

theorem setPkts_sound (q v : Nat) (s : State) (hs : Sound qq t0 s) :
    Sound qq t0 (setPkts q v s) := by
  unfold setPkts
  repeat' first
    | with_reducible intro _
    | with_reducible assumption
    | with_reducible apply qFlag_sound
    | with_reducible apply drawn_sound
    | with_reducible apply wr_sound
    | simp only [↓sound_mk_iff]
    | with_reducible apply sound_ite
    | (extract_lets x; first | (with_reducible refine sound_cut (s := x) ?_ ?_; (on_goal 2 => clear_value x); (on_goal 1 => unfold x)) | (subst x))
    | split

theorem enterTail_sound (q : Nat) (ws : List (Nat × Bool)) (s : State) (hs : Sound qq t0 s) :
    Sound qq t0 (enterTail q ws s) := by
  unfold enterTail
  repeat' first
    | with_reducible intro _
    | with_reducible assumption
    | with_reducible apply modSq_sound
    | with_reducible apply addTo_sound
    | with_reducible apply setPkts_sound
    | simp only [↓sound_mk_iff]
    | with_reducible apply sound_ite
    | (extract_lets x; first | (with_reducible refine sound_cut (s := x) ?_ ?_; (on_goal 2 => clear_value x); (on_goal 1 => unfold x)) | (subst x))
    | split

theorem leaveHead_sound (q k : Nat) (s : State) (hs : Sound qq t0 s) :
    Sound qq t0 (leaveHead q k s) := by
  unfold leaveHead
  repeat' first
    | with_reducible intro _
    | with_reducible assumption
    | with_reducible apply modSq_sound
    | with_reducible apply addTo_sound
    | with_reducible apply setPkts_sound
    | simp only [↓sound_mk_iff]
    | with_reducible apply sound_ite
    | (extract_lets x; first | (with_reducible refine sound_cut (s := x) ?_ ?_; (on_goal 2 => clear_value x); (on_goal 1 => unfold x)) | (subst x))
    | split

theorem execRecordToTail_sound (n : Nat) (s : State) (hs : Sound qq t0 s) :
    SoundOut qq t0 (execRecordToTail n s) := by
  unfold execRecordToTail
  repeat' first
    | with_reducible intro _
    | with_reducible assumption
    | with_reducible apply unitCmd_sound
    | with_reducible apply upto_sound
    | with_reducible apply modFcp_sound
    | with_reducible apply enterTail_sound
    | with_reducible apply bump_sound
    | with_reducible apply soundOut_next
    | with_reducible apply soundOut_fault
    | with_reducible apply soundOut_ite
    | simp only [↓sound_mk_iff]
    | with_reducible apply sound_ite
    | (extract_lets x; first | (with_reducible refine sound_cut (s := x) ?_ ?_; (on_goal 2 => clear_value x); (on_goal 1 => unfold x)) | (subst x))
    | split

theorem execTailToHeadMove_sound (q : Nat) (s : State) (hs : Sound qq t0 s) :
    SoundOut qq t0 (execTailToHeadMove q s) := by
  unfold execTailToHeadMove
  repeat' first
    | with_reducible intro _
    | with_reducible assumption
    | with_reducible apply modSq_sound
    | with_reducible apply upto_sound
    | simp only [↓sound_mk_iff]
    | with_reducible apply sound_ite
    | with_reducible apply soundOut_next
    | with_reducible apply soundOut_fault
    | with_reducible apply soundOut_ite
    | with_reducible apply unitCmd_sound
    | (extract_lets x; first | (with_reducible refine sound_cut (s := x) ?_ ?_; (on_goal 2 => clear_value x); (on_goal 1 => unfold x)) | (subst x))
    | split

theorem execRingWriteIssue_sound (q : Nat) (s : State) (hs : Sound qq t0 s) :
    SoundOut qq t0 (execRingWriteIssue q s) := by
  unfold execRingWriteIssue
  repeat' first
    | with_reducible intro _
    | with_reducible assumption
    | with_reducible apply meshSend_sound
    | with_reducible apply modSq_sound
    | with_reducible apply upto_sound
    | with_reducible apply wr_sound
    | simp only [↓sound_mk_iff]
    | with_reducible apply sound_ite
    | with_reducible apply soundOut_next
    | with_reducible apply soundOut_fault
    | with_reducible apply soundOut_ite
    | with_reducible apply unitCmd_sound
    | (extract_lets x; first | (with_reducible refine sound_cut (s := x) ?_ ?_; (on_goal 2 => clear_value x); (on_goal 1 => unfold x)) | (subst x))
    | split

theorem execRingReadIssue_sound (q : Nat) (s : State) (hs : Sound qq t0 s) :
    SoundOut qq t0 (execRingReadIssue q s) := by
  unfold execRingReadIssue
  repeat' first
    | with_reducible intro _
    | with_reducible assumption
    | with_reducible apply meshSend_sound
    | with_reducible apply modSq_sound
    | with_reducible apply upto_sound
    | simp only [↓sound_mk_iff]
    | with_reducible apply sound_ite
    | with_reducible apply soundOut_next
    | with_reducible apply soundOut_fault
    | with_reducible apply soundOut_ite
    | with_reducible apply unitCmd_sound
    | (extract_lets x; first | (with_reducible refine sound_cut (s := x) ?_ ?_; (on_goal 2 => clear_value x); (on_goal 1 => unfold x)) | (subst x))
    | split

theorem dropLine_sound (q l : Nat) (s : State) (hs : Sound qq t0 s) :
    Sound qq t0 (dropLine q l s) := by
  unfold dropLine
  repeat' first
    | with_reducible intro _
    | with_reducible assumption
    | with_reducible apply modSq_sound
    | simp only [↓sound_mk_iff]

theorem damage_sound (q : Nat) (s : State) (hs : Sound qq t0 s) :
    Sound qq t0 (damage q s) := by
  unfold damage
  repeat' first
    | with_reducible intro _
    | with_reducible assumption
    | with_reducible apply setPkts_sound
    | with_reducible apply qFlag_sound
    | with_reducible apply addTo_sound
    | with_reducible apply wr_sound
    | simp only [↓sound_mk_iff]
    | with_reducible apply sound_ite
    | (extract_lets x; first | (with_reducible refine sound_cut (s := x) ?_ ?_; (on_goal 2 => clear_value x); (on_goal 1 => unfold x)) | (subst x))
    | split

theorem flushedLine_sound (q l : Nat) (s : State) (hs : Sound qq t0 s) :
    Sound qq t0 (flushedLine q l s) := by
  unfold flushedLine
  repeat' first
    | with_reducible intro _
    | with_reducible assumption
    | with_reducible apply dropLine_sound
    | with_reducible apply qFlag_sound
    | with_reducible apply addTo_sound
    | simp only [↓sound_mk_iff]
    | with_reducible apply sound_ite
    | (extract_lets x; first | (with_reducible refine sound_cut (s := x) ?_ ?_; (on_goal 2 => clear_value x); (on_goal 1 => unfold x)) | (subst x))
    | split

theorem intoHead_sound (q : Nat) (ws : List (Nat × Bool)) (s : State) (hs : Sound qq t0 s) :
    Sound qq t0 (intoHead q ws s) := by
  unfold intoHead
  repeat' first
    | with_reducible intro _
    | with_reducible assumption
    | with_reducible apply modSq_sound
    | simp only [↓sound_mk_iff]
    | with_reducible apply sound_ite
    | (extract_lets x; first | (with_reducible refine sound_cut (s := x) ?_ ?_; (on_goal 2 => clear_value x); (on_goal 1 => unfold x)) | (subst x))
    | split

theorem readWords_sound (q : Nat) (older : Bool) (ws : List (Nat × Bool)) (s : State) (hs : Sound qq t0 s) :
    Sound qq t0 (readWords q older ws s) := by
  unfold readWords
  repeat' first
    | with_reducible intro _
    | with_reducible assumption
    | with_reducible apply intoHead_sound
    | with_reducible apply modSq_sound
    | simp only [↓sound_mk_iff]
    | with_reducible apply sound_ite
    | (extract_lets x; first | (with_reducible refine sound_cut (s := x) ?_ ?_; (on_goal 2 => clear_value x); (on_goal 1 => unfold x)) | (subst x))
    | split

theorem ringWriteDone_sound (q line : Nat) (x : MeshResp) (s : State) (hs : Sound qq t0 s) :
    Sound qq t0 (ringWriteDone q line x s) := by
  unfold ringWriteDone
  repeat' first
    | with_reducible intro _
    | with_reducible assumption
    | with_reducible apply flushedLine_sound
    | with_reducible apply damage_sound
    | with_reducible apply dropLine_sound
    | with_reducible apply respTaken_sound
    | with_reducible apply modSq_sound
    | simp only [↓sound_mk_iff]
    | with_reducible apply sound_ite
    | (extract_lets x; first | (with_reducible refine sound_cut (s := x) ?_ ?_; (on_goal 2 => clear_value x); (on_goal 1 => unfold x)) | (subst x))
    | split

theorem ringReadDone_sound (q l : Nat) (x : MeshResp) (s : State) (hs : Sound qq t0 s) :
    Sound qq t0 (ringReadDone q l x s) := by
  unfold ringReadDone
  repeat' first
    | with_reducible intro _
    | with_reducible assumption
    | with_reducible apply readWords_sound
    | with_reducible apply flushedLine_sound
    | with_reducible apply damage_sound
    | with_reducible apply dropLine_sound
    | with_reducible apply respTaken_sound
    | simp only [↓sound_mk_iff]
    | with_reducible apply sound_ite
    | (extract_lets x; first | (with_reducible refine sound_cut (s := x) ?_ ?_; (on_goal 2 => clear_value x); (on_goal 1 => unfold x)) | (subst x))
    | split

theorem popEff_sound (q : Nat) (s : State) (hs : Sound qq t0 s) :
    Sound qq t0 (popEff q s) := by
  unfold popEff
  repeat' first
    | with_reducible intro _
    | with_reducible assumption
    | with_reducible apply leaveHead_sound
    | with_reducible apply wr_sound
    | with_reducible apply sound_ite
    | split

theorem execPop_sound (r : Req) (q : Nat) (s : State) (hs : Sound qq t0 s) :
    SoundOut qq t0 (execPop r q s) := by
  unfold execPop
  repeat' first
    | with_reducible intro _
    | with_reducible assumption
    | with_reducible apply unitCmd_sound
    | with_reducible apply readFrom_sound
    | with_reducible apply popEff_sound
    | with_reducible apply soundOut_next
    | with_reducible apply soundOut_fault

theorem poprecEff_sound (q k : Nat) (s : State) (hs : Sound qq t0 s) :
    Sound qq t0 (poprecEff q k s) := by
  unfold poprecEff
  repeat' first
    | with_reducible intro _
    | with_reducible assumption
    | with_reducible apply leaveHead_sound
    | with_reducible apply wr_sound

theorem execPoprec_sound (r : Req) (q : Nat) (s : State) (hs : Sound qq t0 s) :
    SoundOut qq t0 (execPoprec r q s) := by
  unfold execPoprec
  repeat' first
    | with_reducible intro _
    | with_reducible assumption
    | with_reducible apply unitCmd_sound
    | with_reducible apply readFrom_sound
    | with_reducible apply poprecEff_sound
    | with_reducible apply soundOut_next
    | with_reducible apply soundOut_fault
    | (extract_lets x; first | (with_reducible refine sound_cut (s := x) ?_ ?_; (on_goal 2 => clear_value x); (on_goal 1 => unfold x)) | (subst x))

theorem queueChanged_sound (q : Nat) (s : State) (hs : Sound qq t0 s) :
    Sound qq t0 (queueChanged q s) := by
  unfold queueChanged
  repeat' first
    | with_reducible intro _
    | with_reducible assumption
    | with_reducible apply reopenIf_sound

theorem queueEnableEff_sound (q : Nat) (s : State) (hs : Sound qq t0 s) :
    Sound qq t0 (queueEnableEff q s) := by
  unfold queueEnableEff
  repeat' first
    | with_reducible intro _
    | with_reducible assumption
    | with_reducible apply queueChanged_sound
    | with_reducible apply modSq_sound
    | with_reducible apply wr_sound
    | simp only [↓sound_mk_iff]
    | with_reducible apply sound_ite
    | (extract_lets x; first | (with_reducible refine sound_cut (s := x) ?_ ?_; (on_goal 2 => clear_value x); (on_goal 1 => unfold x)) | (subst x))
    | split

theorem queueDisableEff_sound (q : Nat) (s : State) (hs : Sound qq t0 s) :
    Sound qq t0 (queueDisableEff q s) := by
  unfold queueDisableEff
  repeat' first
    | with_reducible intro _
    | with_reducible assumption
    | with_reducible apply queueChanged_sound
    | with_reducible apply wr_sound

theorem flushEff_sound (q : Nat) (s : State) (hs : Sound qq t0 s) :
    Sound qq t0 (flushEff q s) := by
  unfold flushEff
  repeat' first
    | with_reducible intro _
    | with_reducible assumption
    | with_reducible apply qFlag_sound
    | with_reducible apply modSq_sound
    | with_reducible apply addTo_sound
    | with_reducible apply wr_sound
    | simp only [↓sound_mk_iff]
    | with_reducible apply sound_ite
    | (extract_lets x; first | (with_reducible refine sound_cut (s := x) ?_ ?_; (on_goal 2 => clear_value x); (on_goal 1 => unfold x)) | (subst x))
    | split

theorem execQueueEnable_sound (r : Req) (q : Nat) (s : State) (hs : Sound qq t0 s) :
    SoundOut qq t0 (execQueueEnable r q s) := by
  unfold execQueueEnable
  repeat' first
    | with_reducible intro _
    | with_reducible assumption
    | with_reducible apply unitCmd_sound
    | with_reducible apply command_sound
    | with_reducible apply queueEnableEff_sound
    | with_reducible apply soundOut_next
    | with_reducible apply soundOut_fault

theorem execQueueDisable_sound (r : Req) (q : Nat) (s : State) (hs : Sound qq t0 s) :
    SoundOut qq t0 (execQueueDisable r q s) := by
  unfold execQueueDisable
  repeat' first
    | with_reducible intro _
    | with_reducible assumption
    | with_reducible apply unitCmd_sound
    | with_reducible apply command_sound
    | with_reducible apply queueDisableEff_sound
    | with_reducible apply soundOut_next
    | with_reducible apply soundOut_fault

theorem execFlush_sound (r : Req) (q : Nat) (s : State) (hs : Sound qq t0 s) :
    SoundOut qq t0 (execFlush r q s) := by
  unfold execFlush
  repeat' first
    | with_reducible intro _
    | with_reducible assumption
    | with_reducible apply unitCmd_sound
    | with_reducible apply command_sound
    | with_reducible apply flushEff_sound
    | with_reducible apply soundOut_next
    | with_reducible apply soundOut_fault

theorem pushEff_sound (q v : Nat) (mark : Bool) (s : State) (hs : Sound qq t0 s) :
    Sound qq t0 (pushEff q v mark s) := by
  unfold pushEff
  repeat' first
    | with_reducible intro _
    | with_reducible assumption
    | with_reducible apply enterTail_sound
    | with_reducible apply modSq_sound
    | simp only [↓sound_mk_iff]
    | with_reducible apply sound_ite
    | split

theorem pushWord_sound (r : Req) (k q v : Nat) (mark : Bool) (s : State) (hs : Sound qq t0 s) :
    Sound qq t0 (pushWord r k q v mark s) := by
  unfold pushWord
  repeat' first
    | with_reducible intro _
    | with_reducible assumption
    | with_reducible apply pushEff_sound
    | with_reducible apply qFlag_sound
    | with_reducible apply finish_sound
    | with_reducible apply bump_sound
    | simp only [↓sound_mk_iff]
    | with_reducible apply sound_ite
    | (extract_lets x; first | (with_reducible refine sound_cut (s := x) ?_ ?_; (on_goal 2 => clear_value x); (on_goal 1 => unfold x)) | (subst x))
    | split

theorem execPush_sound (r : Req) (q v : Nat) (s : State) (hs : Sound qq t0 s) :
    SoundOut qq t0 (execPush r q v s) := by
  unfold execPush
  repeat' first
    | with_reducible intro _
    | with_reducible assumption
    | with_reducible apply unitCmd_sound
    | with_reducible apply pushWord_sound
    | with_reducible apply soundOut_next
    | with_reducible apply soundOut_fault

theorem execPushEnd_sound (r : Req) (q v : Nat) (s : State) (hs : Sound qq t0 s) :
    SoundOut qq t0 (execPushEnd r q v s) := by
  unfold execPushEnd
  repeat' first
    | with_reducible intro _
    | with_reducible assumption
    | with_reducible apply unitCmd_sound
    | with_reducible apply pushWord_sound
    | with_reducible apply soundOut_next
    | with_reducible apply soundOut_fault

theorem fcountEff_sound (c : Nat) (s : State) (hs : Sound qq t0 s) :
    Sound qq t0 (fcountEff c s) := by
  unfold fcountEff
  repeat' first
    | with_reducible intro _
    | with_reducible assumption
    | with_reducible apply wr_sound

set_option Elab.async false in
theorem execFcountClr_sound (r : Req) (c v : Nat) (s : State) (hs : Sound qq t0 s) :
    SoundOut qq t0 (execFcountClr r c v s) := by
  unfold execFcountClr
  repeat' first
    | with_reducible intro _
    | with_reducible assumption
    | with_reducible apply unitCmd_sound
    | with_reducible apply command_sound
    | with_reducible apply fcountEff_sound
    | with_reducible apply soundOut_next
    | with_reducible apply soundOut_fault

end Sys2Proof.Laws
end

