-- ==== Sys2Proof/Laws/SoundLook.lean ====
section
/-! SUPPORT. What every operation of Machine/Look.lean keeps. -/
namespace Sys2Proof.Laws
open Sys2Proof Sys2Proof.Machine
set_option linter.unusedVariables false
set_option linter.unusedTactic false
set_option linter.unreachableTactic false

variable {qq : List Instr} {t0 : Nat}

theorem ledgerPass_sound (s : State) (hs : Sound qq t0 s) :
    Sound qq t0 (ledgerPass s) := by
  unfold ledgerPass
  repeat' first
    | with_reducible intro _
    | with_reducible assumption
    | with_reducible apply bump_sound
    | with_reducible apply supFlag_sound
    | with_reducible apply addTo_sound
    | with_reducible apply wr_sound
    | (extract_lets x; first | (with_reducible refine sound_cut (s := x) ?_ ?_; (on_goal 2 => clear_value x); (on_goal 1 => unfold x)) | (subst x))
    | split

theorem ledgerDue_sound (s : State) (hs : Sound qq t0 s) :
    Sound qq t0 (ledgerDue s) := by
  unfold ledgerDue
  repeat' first
    | with_reducible intro _
    | with_reducible assumption
    | with_reducible apply upto_sound
    | simp only [↓sound_mk_iff]
    | with_reducible apply sound_ite
    | (extract_lets x; first | (with_reducible refine sound_cut (s := x) ?_ ?_; (on_goal 2 => clear_value x); (on_goal 1 => unfold x)) | (subst x))
    | split

set_option Elab.async false in
theorem execLedgerCheck_sound (s : State) (hs : Sound qq t0 s) :
    SoundOut qq t0 (execLedgerCheck s) := by
  unfold execLedgerCheck
  repeat' first
    | with_reducible intro _
    | with_reducible assumption
    | with_reducible apply ledgerDue_sound
    | with_reducible apply ledgerPass_sound
    | simp only [↓sound_mk_iff]
    | with_reducible apply sound_ite
    | with_reducible apply soundOut_next
    | with_reducible apply soundOut_fault
    | with_reducible apply soundOut_ite
    | with_reducible apply unitCmd_sound
    | (extract_lets x; first | (with_reducible refine sound_cut (s := x) ?_ ?_; (on_goal 2 => clear_value x); (on_goal 1 => unfold x)) | (subst x))
    | split

end Sys2Proof.Laws
end

