-- ==== Sys2Proof/Laws/SoundBatch.lean ====
section
/-! SUPPORT. What every operation of Machine/Batch.lean keeps. -/
namespace Sys2Proof.Laws
open Sys2Proof Sys2Proof.Machine
set_option linter.unusedVariables false
set_option linter.unusedTactic false
set_option linter.unreachableTactic false

variable {qq : List Instr} {t0 : Nat}

theorem batchEdited_sound (s : State) (hs : Sound qq t0 s) :
    Sound qq t0 (batchEdited s) := by
  unfold batchEdited
  repeat' first
    | with_reducible intro _
    | with_reducible assumption
    | with_reducible apply wr_sound
    | with_reducible apply raise_sound
    | with_reducible apply sound_ite
    | split

theorem stageEff_sound (q : Req) (k len v : Nat) (s : State) (hs : Sound qq t0 s) :
    Sound qq t0 (stageEff q k len v s) := by
  unfold stageEff
  repeat' first
    | with_reducible intro _
    | with_reducible assumption
    | with_reducible apply wr_sound
    | with_reducible apply batchEdited_sound
    | with_reducible apply modMirror_sound
    | simp only [↓sound_mk_iff]
    | with_reducible apply sound_ite
    | (extract_lets x; first | (with_reducible refine sound_cut (s := x) ?_ ?_; (on_goal 2 => clear_value x); (on_goal 1 => unfold x)) | (subst x))
    | split

theorem dropEff_sound (k : Nat) (s : State) (hs : Sound qq t0 s) :
    Sound qq t0 (dropEff k s) := by
  unfold dropEff
  repeat' first
    | with_reducible intro _
    | with_reducible assumption
    | with_reducible apply batchEdited_sound
    | with_reducible apply modMirror_sound
    | simp only [↓sound_mk_iff]
    | with_reducible apply sound_ite
    | split

theorem mread_sound (q : Req) (o m len : Nat) (s : State) (hs : Sound qq t0 s) :
    Sound qq t0 (mread q o m len s) := by
  unfold mread
  repeat' first
    | with_reducible intro _
    | with_reducible assumption
    | with_reducible apply finish_sound
    | (extract_lets x; first | (with_reducible refine sound_cut (s := x) ?_ ?_; (on_goal 2 => clear_value x); (on_goal 1 => unfold x)) | (subst x))
    | split

theorem execMread_sound (q : Req) (o : Nat) (m : MirrorMem) (s : State) (hs : Sound qq t0 s) :
    SoundOut qq t0 (execMread q o m s) := by
  unfold execMread
  repeat' first
    | with_reducible intro _
    | with_reducible assumption
    | with_reducible apply mread_sound
    | simp only [↓sound_mk_iff]
    | with_reducible apply sound_ite
    | with_reducible apply soundOut_next
    | with_reducible apply soundOut_fault
    | with_reducible apply soundOut_ite
    | with_reducible apply unitCmd_sound
    | (extract_lets x; first | (with_reducible refine sound_cut (s := x) ?_ ?_; (on_goal 2 => clear_value x); (on_goal 1 => unfold x)) | (subst x))
    | split

theorem mdrop_sound (q : Req) (o m len : Nat) (s : State) (hs : Sound qq t0 s) :
    Sound qq t0 (mdrop q o m len s) := by
  unfold mdrop
  repeat' first
    | with_reducible intro _
    | with_reducible assumption
    | with_reducible apply finish_sound
    | with_reducible apply dropEff_sound

theorem execMdrop_sound (q : Req) (o : Nat) (m : MirrorMem) (s : State) (hs : Sound qq t0 s) :
    SoundOut qq t0 (execMdrop q o m s) := by
  unfold execMdrop
  repeat' first
    | with_reducible intro _
    | with_reducible assumption
    | with_reducible apply mdrop_sound
    | simp only [↓sound_mk_iff]
    | with_reducible apply sound_ite
    | with_reducible apply soundOut_next
    | with_reducible apply soundOut_fault
    | with_reducible apply soundOut_ite
    | with_reducible apply unitCmd_sound
    | (extract_lets x; first | (with_reducible refine sound_cut (s := x) ?_ ?_; (on_goal 2 => clear_value x); (on_goal 1 => unfold x)) | (subst x))
    | split

theorem landedState_sound (s : State) (hs : Sound qq t0 s) :
    Sound qq t0 (landedState s) := by
  unfold landedState
  repeat' first
    | with_reducible intro _
    | with_reducible assumption
    | with_reducible apply wr_sound
    | simp only [↓sound_mk_iff]
    | with_reducible apply sound_foldl
    | with_reducible apply sound_foldl_snd
    | with_reducible apply sound_ite
    | (extract_lets x; first | (with_reducible refine sound_cut (s := x) ?_ ?_; (on_goal 2 => clear_value x); (on_goal 1 => unfold x)) | (subst x))
    | split

theorem afterState_sound (s : State) (hs : Sound qq t0 s) :
    Sound qq t0 (afterState s) := by
  unfold afterState
  repeat' first
    | with_reducible intro _
    | with_reducible assumption
    | with_reducible apply landedState_sound
    | with_reducible apply wr_sound
    | simp only [↓sound_mk_iff]
    | with_reducible apply sound_foldl
    | with_reducible apply sound_foldl_snd
    | with_reducible apply sound_ite
    | (extract_lets x; first | (with_reducible refine sound_cut (s := x) ?_ ?_; (on_goal 2 => clear_value x); (on_goal 1 => unfold x)) | (subst x))
    | split

theorem checkEff_sound (s : State) (hs : Sound qq t0 s) :
    Sound qq t0 (checkEff s) := by
  unfold checkEff
  repeat' first
    | with_reducible intro _
    | with_reducible assumption
    | with_reducible apply wr_sound

theorem execBatchCheck_sound (q : Req) (v : Nat) (s : State) (hs : Sound qq t0 s) :
    SoundOut qq t0 (execBatchCheck q v s) := by
  unfold execBatchCheck
  repeat' first
    | with_reducible intro _
    | with_reducible assumption
    | with_reducible apply command_sound
    | with_reducible apply checkEff_sound
    | with_reducible apply soundOut_next
    | with_reducible apply soundOut_fault

theorem execBatchCheckEnd_sound (s : State) (hs : Sound qq t0 s) :
    SoundOut qq t0 (execBatchCheckEnd s) := by
  unfold execBatchCheckEnd
  repeat' first
    | with_reducible intro _
    | with_reducible assumption
    | with_reducible apply wr_sound
    | with_reducible apply raise_sound
    | with_reducible apply soundOut_next
    | with_reducible apply soundOut_fault
    | with_reducible apply soundOut_ite
    | with_reducible apply sound_ite
    | split

theorem discardEff_sound (s : State) (hs : Sound qq t0 s) :
    Sound qq t0 (discardEff s) := by
  unfold discardEff
  repeat' first
    | with_reducible intro _
    | with_reducible assumption
    | with_reducible apply releaseMirror_sound
    | with_reducible apply sound_ite
    | split

theorem execBatchDiscard_sound (q : Req) (v : Nat) (s : State) (hs : Sound qq t0 s) :
    SoundOut qq t0 (execBatchDiscard q v s) := by
  unfold execBatchDiscard
  repeat' first
    | with_reducible intro _
    | with_reducible assumption
    | with_reducible apply command_sound
    | with_reducible apply discardEff_sound
    | with_reducible apply soundOut_next
    | with_reducible apply soundOut_fault

theorem armEff_sound (s : State) (hs : Sound qq t0 s) :
    Sound qq t0 (armEff s) := by
  unfold armEff
  repeat' first
    | with_reducible intro _
    | with_reducible assumption
    | with_reducible apply veArm_sound
    | with_reducible apply modMirror_sound
    | with_reducible apply wr_sound
    | simp only [↓sound_mk_iff]
    | with_reducible apply sound_foldl
    | with_reducible apply sound_foldl_snd
    | with_reducible apply sound_ite
    | (extract_lets x; first | (with_reducible refine sound_cut (s := x) ?_ ?_; (on_goal 2 => clear_value x); (on_goal 1 => unfold x)) | (subst x))
    | split

theorem execApplyArm_sound (q : Req) (v : Nat) (s : State) (hs : Sound qq t0 s) :
    SoundOut qq t0 (execApplyArm q v s) := by
  unfold execApplyArm
  repeat' first
    | with_reducible intro _
    | with_reducible assumption
    | with_reducible apply command_sound
    | with_reducible apply armEff_sound
    | with_reducible apply soundOut_next
    | with_reducible apply soundOut_fault

theorem cancelEff_sound (s : State) (hs : Sound qq t0 s) :
    Sound qq t0 (cancelEff s) := by
  unfold cancelEff
  repeat' first
    | with_reducible intro _
    | with_reducible assumption
    | with_reducible apply disarmTo_sound
    | with_reducible apply sound_ite
    | split

theorem execApplyCancel_sound (q : Req) (v : Nat) (s : State) (hs : Sound qq t0 s) :
    SoundOut qq t0 (execApplyCancel q v s) := by
  unfold execApplyCancel
  repeat' first
    | with_reducible intro _
    | with_reducible assumption
    | with_reducible apply command_sound
    | with_reducible apply cancelEff_sound
    | with_reducible apply soundOut_next
    | with_reducible apply soundOut_fault

theorem execMirrorLeaseExpiry_sound (s : State) (hs : Sound qq t0 s) :
    SoundOut qq t0 (execMirrorLeaseExpiry s) := by
  unfold execMirrorLeaseExpiry
  repeat' first
    | with_reducible intro _
    | with_reducible assumption
    | with_reducible apply releaseMirror_sound
    | with_reducible apply upto_sound
    | with_reducible apply raise_sound
    | with_reducible apply soundOut_next
    | with_reducible apply soundOut_fault
    | with_reducible apply soundOut_ite
    | with_reducible apply sound_ite
    | split

theorem execSyncinCapture_sound (level : Bool) (s : State) (hs : Sound qq t0 s) :
    SoundOut qq t0 (execSyncinCapture level s) := by
  unfold execSyncinCapture
  repeat' first
    | with_reducible intro _
    | with_reducible assumption
    | with_reducible apply modMirror_sound
    | with_reducible apply upto_sound
    | simp only [↓sound_mk_iff]
    | with_reducible apply sound_ite
    | with_reducible apply soundOut_next
    | with_reducible apply soundOut_fault
    | with_reducible apply soundOut_ite
    | with_reducible apply unitCmd_sound
    | (extract_lets x; first | (with_reducible refine sound_cut (s := x) ?_ ?_; (on_goal 2 => clear_value x); (on_goal 1 => unfold x)) | (subst x))
    | split

theorem pinsAtE_sound (e : Nat) (b a : State) (hb : Sound qq t0 b) (ha : Sound qq t0 a) :
    Sound qq t0 (pinsAtE e b a) := by
  unfold pinsAtE
  repeat' first
    | with_reducible intro _
    | with_reducible assumption
    | with_reducible apply offAt_sound
    | with_reducible apply parkAt_sound
    | with_reducible apply sound_ite
    | with_reducible apply sound_foldl
    | (extract_lets x; first | (with_reducible refine sound_cut (s := x) ?_ ?_; (on_goal 2 => clear_value x); (on_goal 1 => unfold x)) | (subst x))
    | split

theorem applyAt_sound (e : Nat) (late : Bool) (s : State) (hs : Sound qq t0 s) :
    Sound qq t0 (applyAt e late s) := by
  unfold applyAt
  repeat' first
    | with_reducible intro _
    | with_reducible assumption
    | with_reducible apply pinsAtE_sound
    | with_reducible apply settleStales_sound
    | with_reducible apply releaseMirror_sound
    | with_reducible apply modVe_sound
    | with_reducible apply upto_sound
    | with_reducible apply raise_sound
    | with_reducible apply wr_sound
    | simp only [↓sound_mk_iff]
    | with_reducible apply sound_foldl
    | with_reducible apply sound_foldl_snd
    | with_reducible apply sound_ite
    | (extract_lets x; first | (with_reducible refine sound_cut (s := x) ?_ ?_; (on_goal 2 => clear_value x); (on_goal 1 => unfold x)) | (subst x))
    | split

set_option Elab.async false in
theorem execApply_sound (s : State) (hs : Sound qq t0 s) :
    SoundOut qq t0 (execApply s) := by
  unfold execApply
  repeat' first
    | with_reducible intro _
    | with_reducible assumption
    | with_reducible apply applyAt_sound
    | with_reducible apply drawn_sound
    | with_reducible apply soundOut_next
    | with_reducible apply soundOut_fault
    | with_reducible apply soundOut_ite
    | with_reducible apply sound_ite
    | split

end Sys2Proof.Laws
end

