-- ==== Sys2Proof/Laws/SoundAccess.lean ====
section
/-! SUPPORT. What every operation of Machine/Access.lean keeps. -/
namespace Sys2Proof.Laws
open Sys2Proof Sys2Proof.Machine
set_option linter.unusedVariables false
set_option linter.unusedTactic false
set_option linter.unreachableTactic false

variable {qq : List Instr} {t0 : Nat}

theorem retireEff_sound (k v : Nat) (s : State) (hs : Sound qq t0 s) :
    Sound qq t0 (retireEff k v s) := by
  unfold retireEff
  repeat' first
    | with_reducible intro _
    | with_reducible assumption
    | with_reducible apply reopenIf_sound
    | with_reducible apply wr_sound

theorem execRetireWrite_sound (q : Req) (k v : Nat) (s : State) (hs : Sound qq t0 s) :
    SoundOut qq t0 (execRetireWrite q k v s) := by
  unfold execRetireWrite
  repeat' first
    | with_reducible intro _
    | with_reducible assumption
    | with_reducible apply unitCmd_sound
    | with_reducible apply writeTo_sound
    | with_reducible apply retireEff_sound
    | with_reducible apply soundOut_next
    | with_reducible apply soundOut_fault
    | with_reducible apply soundOut_ite
    | with_reducible apply sound_ite
    | split

theorem statsClear_sound (s : State) (hs : Sound qq t0 s) :
    Sound qq t0 (statsClear s) := by
  unfold statsClear
  repeat' first
    | with_reducible intro _
    | with_reducible assumption
    | with_reducible apply wr_sound
    | with_reducible apply sound_foldl

theorem execStatsClr_sound (q : Req) (v : Nat) (s : State) (hs : Sound qq t0 s) :
    SoundOut qq t0 (execStatsClr q v s) := by
  unfold execStatsClr
  repeat' first
    | with_reducible intro _
    | with_reducible assumption
    | with_reducible apply command_sound
    | with_reducible apply statsClear_sound
    | with_reducible apply soundOut_next
    | with_reducible apply soundOut_fault

theorem ctrlLow_sound (q : Req) (k code : Nat) (s : State) (hs : Sound qq t0 s) :
    SoundRule qq t0 (ctrlLow q k code s) := by
  unfold ctrlLow
  repeat' first
    | with_reducible intro _
    | with_reducible assumption
    | with_reducible apply statsClear_sound
    | with_reducible apply checkEff_sound
    | with_reducible apply discardEff_sound
    | with_reducible apply armEff_sound
    | with_reducible apply cancelEff_sound
    | with_reducible apply hostKickEff_sound
    | with_reducible apply cryptoEff_sound
    | with_reducible apply fmEff_sound
    | with_reducible apply loadEff_sound
    | with_reducible apply abortEff_sound
    | with_reducible apply flpEff_sound
    | with_reducible apply keyEff_sound
    | with_reducible apply commitEff_sound
    | with_reducible apply importEff_sound
    | with_reducible apply soundRule_ite
    | with_reducible apply sound_ite
    | split
    | with_reducible apply soundRule_mk

theorem ctrlMid_sound (o n code : Nat) (s : State) (hs : Sound qq t0 s) :
    SoundRule qq t0 (ctrlMid o n code s) := by
  unfold ctrlMid
  repeat' first
    | with_reducible intro _
    | with_reducible assumption
    | with_reducible apply releaseEff_sound
    | with_reducible apply holdEff_sound
    | with_reducible apply paneDetachEff_sound
    | with_reducible apply paneAttachEff_sound
    | with_reducible apply paneTestEff_sound
    | with_reducible apply scrTestEff_sound
    | with_reducible apply veEnableEff_sound
    | with_reducible apply veDisableEff_sound
    | with_reducible apply veStartEff_sound
    | with_reducible apply veStartAtEff_sound
    | with_reducible apply veHaltEff_sound
    | with_reducible apply veResumeEff_sound
    | with_reducible apply veStopEff_sound
    | with_reducible apply veClearFaultEff_sound
    | with_reducible apply veSelfcheckEff_sound
    | with_reducible apply focusAbortEff_sound
    | with_reducible apply focusEff_sound
    | with_reducible apply fcountEff_sound
    | with_reducible apply queueEnableEff_sound
    | with_reducible apply queueDisableEff_sound
    | with_reducible apply flushEff_sound
    | with_reducible apply soundRule_ite
    | with_reducible apply sound_ite
    | (extract_lets x; first | (with_reducible refine sound_cut (s := x) ?_ ?_; (on_goal 2 => clear_value x); (on_goal 1 => unfold x)) | (subst x))
    | split
    | with_reducible apply soundRule_mk

theorem ctrlHigh_sound (o n code : Nat) (s : State) (hs : Sound qq t0 s) :
    SoundRule qq t0 (ctrlHigh o n code s) := by
  unfold ctrlHigh
  repeat' first
    | with_reducible intro _
    | with_reducible assumption
    | with_reducible apply dspStartEff_sound
    | with_reducible apply dspStartAtEff_sound
    | with_reducible apply dspStopEff_sound
    | with_reducible apply dspHaltEff_sound
    | with_reducible apply dspResumeEff_sound
    | with_reducible apply dspSelfcheckEff_sound
    | with_reducible apply trainStart_sound
    | with_reducible apply retrainStart_sound
    | with_reducible apply drainEff_sound
    | with_reducible apply probeRunEff_sound
    | with_reducible apply probeStopEff_sound
    | with_reducible apply probeClearEff_sound
    | with_reducible apply tclearEff_sound
    | with_reducible apply laneStartEff_sound
    | with_reducible apply laneEnter_sound
    | with_reducible apply apArmEff_sound
    | with_reducible apply apDisarmEff_sound
    | with_reducible apply trgArmEff_sound
    | with_reducible apply trgDisarmEff_sound
    | with_reducible apply soundRule_ite
    | simp only [↓sound_mk_iff]
    | with_reducible apply sound_ite
    | split
    | with_reducible apply soundRule_mk

theorem ctrlDbg_sound (q : Req) (o m code : Nat) (s : State) (hs : Sound qq t0 s) :
    SoundRule qq t0 (ctrlDbg q o m code s) := by
  unfold ctrlDbg
  repeat' first
    | with_reducible intro _
    | with_reducible assumption
    | with_reducible apply authEff_sound
    | with_reducible apply brkAllocEff_sound
    | with_reducible apply fuseEff_sound
    | with_reducible apply rearm_sound
    | with_reducible apply brkFreeEff_sound
    | with_reducible apply latchDebugHalt_sound
    | with_reducible apply resumeEff_sound
    | with_reducible apply stepEff_sound
    | with_reducible apply soundRule_ite
    | with_reducible apply sound_ite
    | (extract_lets x; first | (with_reducible refine sound_cut (s := x) ?_ ?_; (on_goal 2 => clear_value x); (on_goal 1 => unfold x)) | (subst x))
    | split
    | with_reducible apply soundRule_mk

theorem ctrlRule_sound (q : Req) (o m code : Nat) (s : State) (hs : Sound qq t0 s) :
    SoundRule qq t0 (ctrlRule q o m code s) := by
  unfold ctrlRule
  repeat' first
    | with_reducible intro _
    | with_reducible assumption
    | with_reducible apply ctrlLow_sound
    | with_reducible apply ctrlMid_sound
    | with_reducible apply ctrlHigh_sound
    | with_reducible apply ctrlDbg_sound
    | with_reducible apply soundRule_ite
    | with_reducible apply sound_ite
    | split
    | with_reducible apply soundRule_mk

theorem blobWrite_sound (w len v : Nat) (eff : Nat → State → State) (s : State) (heff : ∀ x s, Sound qq t0 s → Sound qq t0 (eff x s)) (hs : Sound qq t0 s) :
    Sound qq t0 (blobWrite w len v eff s) := heff _ _ (sound_ite hs (drawn_sound _ hs))

theorem plain_sound (k v : Nat)  :
    SoundRule qq t0 (plain k v) := by
  unfold plain
  repeat' first
    | with_reducible intro _
    | with_reducible assumption
    | with_reducible apply wr_sound
    | with_reducible apply soundRule_ite
    | with_reducible apply soundRule_mk

theorem plainUnless_sound (c : Bool) (k v : Nat)  :
    SoundRule qq t0 (plainUnless c k v) := by
  unfold plainUnless
  repeat' first
    | with_reducible intro _
    | with_reducible assumption
    | with_reducible apply wr_sound
    | with_reducible apply soundRule_ite
    | with_reducible apply soundRule_mk

theorem writeLow_sound (q : Req) (o m len v : Nat) (s : State) (hs : Sound qq t0 s) :
    SoundRule qq t0 (writeLow q o m len v s) := by
  unfold writeLow
  repeat' first
    | with_reducible intro _
    | with_reducible assumption
    | with_reducible apply wr_sound
    | with_reducible apply retireEff_sound
    | with_reducible apply hostRestart_sound
    | with_reducible apply modSup_sound
    | with_reducible apply blobWrite_sound
    | with_reducible apply plain_sound
    | with_reducible apply gateEff_sound
    | with_reducible apply pwrEff_sound
    | with_reducible apply clkoutEff_sound
    | with_reducible apply received_sound
    | with_reducible apply plainUnless_sound
    | with_reducible apply modCfg_sound
    | with_reducible apply loupeEnEff_sound
    | with_reducible apply soundRule_ite
    | simp only [↓sound_mk_iff]
    | with_reducible apply sound_ite
    | (extract_lets x; first | (with_reducible refine sound_cut (s := x) ?_ ?_; (on_goal 2 => clear_value x); (on_goal 1 => unfold x)) | (subst x))
    | split
    | with_reducible apply soundRule_mk

theorem writeMid_sound (o m v : Nat) (s : State) (hs : Sound qq t0 s) :
    SoundRule qq t0 (writeMid o m v s) := by
  unfold writeMid
  repeat' first
    | with_reducible intro _
    | with_reducible assumption
    | with_reducible apply userInEff_sound
    | with_reducible apply paneModeEff_sound
    | with_reducible apply ownerEff_sound
    | with_reducible apply plainUnless_sound
    | with_reducible apply plain_sound
    | with_reducible apply soundRule_ite
    | with_reducible apply sound_ite
    | (extract_lets x; first | (with_reducible refine sound_cut (s := x) ?_ ?_; (on_goal 2 => clear_value x); (on_goal 1 => unfold x)) | (subst x))
    | split
    | with_reducible apply soundRule_mk

theorem writeHigh_sound (o m v : Nat) (s : State) (hs : Sound qq t0 s) :
    SoundRule qq t0 (writeHigh o m v s) := by
  unfold writeHigh
  repeat' first
    | with_reducible intro _
    | with_reducible assumption
    | with_reducible apply plainUnless_sound
    | with_reducible apply excludeEff_sound
    | with_reducible apply wr_sound
    | with_reducible apply plain_sound
    | with_reducible apply drainEff_sound
    | with_reducible apply qrateEff_sound
    | with_reducible apply laneMapEff_sound
    | with_reducible apply soundRule_ite
    | with_reducible apply sound_ite
    | (extract_lets x; first | (with_reducible refine sound_cut (s := x) ?_ ?_; (on_goal 2 => clear_value x); (on_goal 1 => unfold x)) | (subst x))
    | split
    | with_reducible apply soundRule_mk

theorem writeTmu_sound (o m len v : Nat) (s : State) (hs : Sound qq t0 s) : SoundRule qq t0 (writeTmu o m len v s) := by
  have hw : ∀ c k w, SoundRule qq t0 (c, fun s => s.wr k w) := fun c k w s h => wr_sound h _ _
  unfold writeTmu
  dsimp only
  split
  · split
    · exact soundRule_mk fun s h => roleEff_sound _ s h
    · exact soundRule_mk fun s h => setIncr_sound _ s h
    · exact soundRule_mk fun s h => stepTo_sound _ s h
    · exact hw _ _ _
    · exact hw _ _ _
    · exact hw _ _ _
    · exact soundRule_mk fun s h => blobWrite_sound _ _ _ _ s (fun _ s h => txmsgEff_sound _ _ s h) h
    · exact plain_sound _ _
  all_goals repeat' first
    | exact plain_sound _ _
    | exact plainUnless_sound _ _ _
    | split

theorem writeDbg_sound (q : Req) (o m len v : Nat) (s : State) (hs : Sound qq t0 s) :
    SoundRule qq t0 (writeDbg q o m len v s) := by
  unfold writeDbg
  repeat' first
    | with_reducible intro _
    | with_reducible assumption
    | with_reducible apply modDbg_sound
    | with_reducible apply wr_sound
    | with_reducible apply brkCfgEff_sound
    | with_reducible apply plainUnless_sound
    | with_reducible apply regWriteEff_sound
    | with_reducible apply blobWrite_sound
    | with_reducible apply plain_sound
    | with_reducible apply drxEff_sound
    | with_reducible apply tdtxEff_sound
    | with_reducible apply soundRule_ite
    | simp only [↓sound_mk_iff]
    | with_reducible apply sound_ite
    | (extract_lets x; first | (with_reducible refine sound_cut (s := x) ?_ ?_; (on_goal 2 => clear_value x); (on_goal 1 => unfold x)) | (subst x))
    | split
    | with_reducible apply soundRule_mk

theorem writeRule_sound (q : Req) (o m len v : Nat) (s : State) (hs : Sound qq t0 s) :
    SoundRule qq t0 (writeRule q o m len v s) := by
  unfold writeRule
  repeat' first
    | with_reducible intro _
    | with_reducible assumption
    | with_reducible apply writeLow_sound
    | with_reducible apply writeMid_sound
    | with_reducible apply writeHigh_sound
    | with_reducible apply writeTmu_sound
    | with_reducible apply writeDbg_sound
    | with_reducible apply soundRule_ite
    | with_reducible apply sound_ite
    | split
    | with_reducible apply soundRule_mk

theorem openRule_sound (q : Req) (o m width : Nat) (u : State) (s : State) (hs : Sound qq t0 s) :
    Sound qq t0 ((openRule q o m width u).eff s) := by
  unfold openRule
  dsimp only
  split
  · exact logPopEff_sound s hs
  · exact popEff_sound _ s hs
  · exact poprecEff_sound _ _ s hs
  · exact capEff_sound _ s hs
  · dsimp only
    split
    · exact drawn_sound s hs
    · exact hs
  · exact dtxEff_sound _ s hs
  · exact tdrxEff_sound _ s hs
  · split
    · exact txtsEff_sound _ s hs
    · exact rxmsgEff_sound _ s hs
    · exact hs
  · exact hs

set_option Elab.async false in
theorem readRule_sound (q : Req) (o m width : Nat) (u : State) (s : State) (hs : Sound qq t0 s) :
    Sound qq t0 ((readRule q o m width u).eff s) := by
  unfold readRule
  extract_lets r
  split
  · exact hs
  · exact openRule_sound q o m width u s hs

end Sys2Proof.Laws
end

