-- ==== Sys2Proof/Laws/SoundHdi.lean ====
section
/-! SUPPORT. What every operation of Machine/Hdi.lean keeps. -/
namespace Sys2Proof.Laws
open Sys2Proof Sys2Proof.Machine
set_option linter.unusedVariables false
set_option linter.unusedTactic false
set_option linter.unreachableTactic false

variable {qq : List Instr} {t0 : Nat}

theorem advance_sound (dbg : Bool) (n : Nat) (s : State) (hs : Sound qq t0 s) :
    Sound qq t0 (advance dbg n s) := by
  unfold advance
  repeat' first
    | with_reducible intro _
    | with_reducible assumption
    | with_reducible apply wr_sound

theorem meshWriteEff_sound (dbg : Bool) (q n v : Nat) (s : State) (hs : Sound qq t0 s) :
    Sound qq t0 (meshWriteEff dbg q n v s) := by
  unfold meshWriteEff
  repeat' first
    | with_reducible intro _
    | with_reducible assumption
    | with_reducible apply meshSend_sound
    | with_reducible apply advance_sound
    | with_reducible apply sound_foldl

theorem meshWrite_sound (q : Req) (dbg : Bool) (len v : Nat) (s : State) (hs : Sound qq t0 s) :
    Sound qq t0 (meshWrite q dbg len v s) := by
  unfold meshWrite
  repeat' first
    | with_reducible intro _
    | with_reducible assumption
    | with_reducible apply writeTo_sound
    | with_reducible apply meshWriteEff_sound
    | with_reducible apply sound_ite
    | split

theorem execMeshDataWrite_sound (q : Req) (len v : Nat) (s : State) (hs : Sound qq t0 s) :
    SoundOut qq t0 (execMeshDataWrite q len v s) := by
  unfold execMeshDataWrite
  repeat' first
    | with_reducible intro _
    | with_reducible assumption
    | with_reducible apply meshWrite_sound
    | with_reducible apply soundOut_next
    | with_reducible apply soundOut_fault

theorem execMemDataWrite_sound (q : Req) (len v : Nat) (s : State) (hs : Sound qq t0 s) :
    SoundOut qq t0 (execMemDataWrite q len v s) := by
  unfold execMemDataWrite
  repeat' first
    | with_reducible intro _
    | with_reducible assumption
    | with_reducible apply meshWrite_sound
    | with_reducible apply soundOut_next
    | with_reducible apply soundOut_fault

theorem fetchEff_sound (q : Req) (implicit : Bool) (o m n : Nat) (s : State) (hs : Sound qq t0 s) :
    Sound qq t0 (fetchEff q implicit o m n s) := by
  unfold fetchEff
  repeat' first
    | with_reducible intro _
    | with_reducible assumption
    | with_reducible apply advance_sound
    | with_reducible apply meshSend_sound
    | with_reducible apply modMaster_sound
    | simp only [↓sound_mk_iff]
    | with_reducible apply sound_foldl
    | with_reducible apply sound_foldl_snd
    | with_reducible apply sound_ite
    | (extract_lets x; first | (with_reducible refine sound_cut (s := x) ?_ ?_; (on_goal 2 => clear_value x); (on_goal 1 => unfold x)) | (subst x))
    | split

theorem fetchReq_sound (q : Req) (o m len v : Nat) (s : State) (hs : Sound qq t0 s) :
    Sound qq t0 (fetchReq q o m len v s) := by
  unfold fetchReq
  repeat' first
    | with_reducible intro _
    | with_reducible assumption
    | with_reducible apply fetchEff_sound
    | with_reducible apply finish_sound
    | simp only [↓sound_mk_iff]
    | with_reducible apply sound_ite
    | (extract_lets x; first | (with_reducible refine sound_cut (s := x) ?_ ?_; (on_goal 2 => clear_value x); (on_goal 1 => unfold x)) | (subst x))
    | split

theorem snapRead_sound (q : Req) (o m len : Nat) (s : State) (hs : Sound qq t0 s) :
    Sound qq t0 (snapRead q o m len s) := by
  unfold snapRead
  repeat' first
    | with_reducible intro _
    | with_reducible assumption
    | with_reducible apply finish_sound
    | simp only [↓sound_mk_iff]
    | with_reducible apply sound_ite
    | (extract_lets x; first | (with_reducible refine sound_cut (s := x) ?_ ?_; (on_goal 2 => clear_value x); (on_goal 1 => unfold x)) | (subst x))
    | split

theorem slotRead_sound (q : Req) (o m len v : Nat) (s : State) (hs : Sound qq t0 s) :
    Sound qq t0 (slotRead q o m len v s) := by
  unfold slotRead
  repeat' first
    | with_reducible intro _
    | with_reducible assumption
    | with_reducible apply fetchEff_sound
    | with_reducible apply respond_sound
    | simp only [↓sound_mk_iff]
    | with_reducible apply sound_ite
    | (extract_lets x; first | (with_reducible refine sound_cut (s := x) ?_ ?_; (on_goal 2 => clear_value x); (on_goal 1 => unfold x)) | (subst x))
    | split

theorem plainRead_sound (q : Req) (o m len width : Nat) (s : State) (hs : Sound qq t0 s) :
    Sound qq t0 (plainRead q o m len width s) := by
  unfold plainRead
  repeat' first
    | with_reducible intro _
    | with_reducible assumption
    | with_reducible apply readRule_sound
    | with_reducible apply finish_sound
    | simp only [↓sound_mk_iff]
    | with_reducible apply sound_ite
    | (extract_lets x; first | (with_reducible refine sound_cut (s := x) ?_ ?_; (on_goal 2 => clear_value x); (on_goal 1 => unfold x)) | (subst x))
    | split

theorem ruleWrite_sound (q : Req) (o m len v : Nat) (r : Rule) (s : State)
    (hr : SoundRule qq t0 r) (hs : Sound qq t0 s) : Sound qq t0 (ruleWrite q o m len v r s) :=
  finish_sound _ _ _ _ _ _ _ _ _ hr hs

theorem writeReq_sound (q : Req) (o m len v : Nat) (r : Dict.Row) (s : State) (hs : Sound qq t0 s) :
    Sound qq t0 (writeReq q o m len v r s) := by
  unfold writeReq
  repeat' first
    | with_reducible intro _
    | with_reducible assumption
    | with_reducible apply ruleWrite_sound
    | with_reducible apply meshWriteEff_sound
    | with_reducible apply writeRule_sound
    | with_reducible apply ctrlRule_sound
    | with_reducible apply stageEff_sound
    | with_reducible apply pushWord_sound
    | with_reducible apply dbgReset_sound
    | with_reducible apply authResp_sound
    | with_reducible apply softReset_sound
    | with_reducible apply stepWrite_sound
    | with_reducible apply settleDrops_sound
    | with_reducible apply clearBits_sound
    | simp only [↓sound_mk_iff]
    | with_reducible apply sound_ite
    | with_reducible apply soundRule_mk
    | with_reducible apply soundRule_ite
    | (extract_lets x; first | (with_reducible refine sound_cut (s := x) ?_ ?_; (on_goal 2 => clear_value x); (on_goal 1 => unfold x)) | (subst x))
    | split

theorem readReq_sound (q : Req) (o m len v : Nat) (r : Dict.Row) (s : State) (hs : Sound qq t0 s) :
    Sound qq t0 (readReq q o m len v r s) := by
  unfold readReq
  repeat' first
    | with_reducible intro _
    | with_reducible assumption
    | with_reducible apply plainRead_sound
    | with_reducible apply slotRead_sound
    | with_reducible apply snapRead_sound
    | simp only [↓sound_mk_iff]
    | with_reducible apply sound_ite
    | with_reducible apply soundRule_mk
    | with_reducible apply soundRule_ite
    | (extract_lets x; first | (with_reducible refine sound_cut (s := x) ?_ ?_; (on_goal 2 => clear_value x); (on_goal 1 => unfold x)) | (subst x))
    | split

theorem request_sound (q : Req) (op o m len v : Nat) (s : State) (hs : Sound qq t0 s) :
    Sound qq t0 (request q op o m len v s) := by
  unfold request
  repeat' first
    | with_reducible intro _
    | with_reducible assumption
    | with_reducible apply readReq_sound
    | with_reducible apply writeReq_sound
    | with_reducible apply fetchReq_sound
    | with_reducible apply mdrop_sound
    | with_reducible apply mread_sound
    | with_reducible apply finish_sound
    | simp only [↓sound_mk_iff]
    | with_reducible apply sound_ite
    | (extract_lets x; first | (with_reducible refine sound_cut (s := x) ?_ ?_; (on_goal 2 => clear_value x); (on_goal 1 => unfold x)) | (subst x))
    | split

theorem execDictRead_sound (q : Req) (o m len v : Nat) (s : State) (hs : Sound qq t0 s) :
    SoundOut qq t0 (execDictRead q o m len v s) := by
  unfold execDictRead
  repeat' first
    | with_reducible intro _
    | with_reducible assumption
    | with_reducible apply request_sound
    | simp only [↓sound_mk_iff]
    | with_reducible apply sound_ite
    | with_reducible apply soundOut_next
    | with_reducible apply soundOut_fault
    | with_reducible apply soundOut_ite
    | with_reducible apply unitCmd_sound
    | (extract_lets x; first | (with_reducible refine sound_cut (s := x) ?_ ?_; (on_goal 2 => clear_value x); (on_goal 1 => unfold x)) | (subst x))
    | split

theorem execDictWrite_sound (q : Req) (o m len v : Nat) (s : State) (hs : Sound qq t0 s) :
    SoundOut qq t0 (execDictWrite q o m len v s) := by
  unfold execDictWrite
  repeat' first
    | with_reducible intro _
    | with_reducible assumption
    | with_reducible apply request_sound
    | simp only [↓sound_mk_iff]
    | with_reducible apply sound_ite
    | with_reducible apply soundOut_next
    | with_reducible apply soundOut_fault
    | with_reducible apply soundOut_ite
    | with_reducible apply unitCmd_sound
    | (extract_lets x; first | (with_reducible refine sound_cut (s := x) ?_ ?_; (on_goal 2 => clear_value x); (on_goal 1 => unfold x)) | (subst x))
    | split

theorem execFetch_sound (q : Req) (o m len v : Nat) (s : State) (hs : Sound qq t0 s) :
    SoundOut qq t0 (execFetch q o m len v s) := by
  unfold execFetch
  repeat' first
    | with_reducible intro _
    | with_reducible assumption
    | with_reducible apply request_sound
    | simp only [↓sound_mk_iff]
    | with_reducible apply sound_ite
    | with_reducible apply soundOut_next
    | with_reducible apply soundOut_fault
    | with_reducible apply soundOut_ite
    | with_reducible apply unitCmd_sound
    | (extract_lets x; first | (with_reducible refine sound_cut (s := x) ?_ ?_; (on_goal 2 => clear_value x); (on_goal 1 => unfold x)) | (subst x))
    | split

theorem execMeshDataFetch_sound (q : Req) (size : Nat) (s : State) (hs : Sound qq t0 s) :
    SoundOut qq t0 (execMeshDataFetch q size s) := by
  unfold execMeshDataFetch
  repeat' first
    | with_reducible intro _
    | with_reducible assumption
    | with_reducible apply fetchReq_sound
    | simp only [↓sound_mk_iff]
    | with_reducible apply sound_ite
    | with_reducible apply soundOut_next
    | with_reducible apply soundOut_fault
    | with_reducible apply soundOut_ite
    | with_reducible apply unitCmd_sound
    | (extract_lets x; first | (with_reducible refine sound_cut (s := x) ?_ ?_; (on_goal 2 => clear_value x); (on_goal 1 => unfold x)) | (subst x))
    | split

theorem execMemDataFetch_sound (q : Req) (size : Nat) (s : State) (hs : Sound qq t0 s) :
    SoundOut qq t0 (execMemDataFetch q size s) := by
  unfold execMemDataFetch
  repeat' first
    | with_reducible intro _
    | with_reducible assumption
    | with_reducible apply fetchReq_sound
    | simp only [↓sound_mk_iff]
    | with_reducible apply sound_ite
    | with_reducible apply soundOut_next
    | with_reducible apply soundOut_fault
    | with_reducible apply soundOut_ite
    | with_reducible apply unitCmd_sound
    | (extract_lets x; first | (with_reducible refine sound_cut (s := x) ?_ ?_; (on_goal 2 => clear_value x); (on_goal 1 => unfold x)) | (subst x))
    | split

theorem flushSlot_sound (k : Nat) : ∀ (z0 : Nat) (z1 : State), Sound qq t0 z1 → Sound qq t0 (flushSlot k z0 z1)
  | 0, _, h => h
  | j + 1, s, h => by
    unfold flushSlot
    split
    · exact flushSlot_sound k j _ (trySend_sound _ _ (modLane_sound _ _ _ (modSlot_sound _ _ _ h)))
    · exact h

theorem fetchDone_sound (master : Nat) (p : Pend) (s : State) (hs : Sound qq t0 s) :
    Sound qq t0 (fetchDone master p s) := by
  unfold fetchDone
  repeat' first
    | with_reducible intro _
    | with_reducible assumption
    | with_reducible apply flushSlot_sound
    | with_reducible apply respond_sound
    | with_reducible apply modSlot_sound
    | with_reducible apply modMaster_sound
    | with_reducible apply drawn_sound
    | with_reducible apply raise_sound
    | with_reducible apply bump_sound
    | simp only [↓sound_mk_iff]
    | with_reducible apply sound_ite
    | (extract_lets x; first | (with_reducible refine sound_cut (s := x) ?_ ?_; (on_goal 2 => clear_value x); (on_goal 1 => unfold x)) | (subst x))
    | split

theorem execFetchComplete_sound (master o m : Nat) (s : State) (hs : Sound qq t0 s) :
    SoundOut qq t0 (execFetchComplete master o m s) := by
  unfold execFetchComplete
  repeat' first
    | with_reducible intro _
    | with_reducible assumption
    | with_reducible apply fetchDone_sound
    | with_reducible apply soundOut_next
    | with_reducible apply soundOut_fault
    | split

theorem memError_sound (s : State) (hs : Sound qq t0 s) :
    Sound qq t0 (memError s) := by
  unfold memError
  repeat' first
    | with_reducible intro _
    | with_reducible assumption
    | with_reducible apply dbgFlag_sound
    | with_reducible apply setBit_sound

theorem meshDataDone_sound (dbg : Bool) (master : Nat) (r : MeshReq) (kind data : Nat) (s : State) (hs : Sound qq t0 s) :
    Sound qq t0 (meshDataDone dbg master r kind data s) := by
  unfold meshDataDone
  repeat' first
    | with_reducible intro _
    | with_reducible assumption
    | with_reducible apply modMaster_sound
    | with_reducible apply memError_sound
    | with_reducible apply bump_sound
    | simp only [↓sound_mk_iff]
    | with_reducible apply sound_ite
    | (extract_lets x; first | (with_reducible refine sound_cut (s := x) ?_ ?_; (on_goal 2 => clear_value x); (on_goal 1 => unfold x)) | (subst x))
    | split

theorem windowServe_sound (r : MeshReq) (s : State) (hs : Sound qq t0 s) :
    Sound qq t0 (windowServe r s) := by
  unfold windowServe
  repeat' first
    | with_reducible intro _
    | with_reducible assumption
    | with_reducible apply request_sound
    | with_reducible apply readRule_sound
    | with_reducible apply finish_sound
    | with_reducible apply meshAnswer_sound
    | with_reducible apply setBit_sound
    | simp only [↓sound_mk_iff]
    | with_reducible apply sound_ite
    | (extract_lets x; first | (with_reducible refine sound_cut (s := x) ?_ ?_; (on_goal 2 => clear_value x); (on_goal 1 => unfold x)) | (subst x))
    | split

theorem execDictWindowAccess_sound (r : Arriving) (s : State) (hs : Sound qq t0 s) :
    SoundOut qq t0 (execDictWindowAccess r s) := by
  unfold execDictWindowAccess windowAccess
  repeat' first
    | with_reducible intro _
    | with_reducible assumption
    | with_reducible apply windowServe_sound
    | with_reducible apply flitsNoted_sound
    | with_reducible apply noteArrival_sound
    | with_reducible apply meshAnswer_sound
    | with_reducible apply bump_sound
    | simp only [↓sound_mk_iff]
    | with_reducible apply sound_ite
    | with_reducible apply soundOut_next
    | with_reducible apply soundOut_fault
    | with_reducible apply soundOut_ite
    | with_reducible apply unitCmd_sound
    | (extract_lets x; first | (with_reducible refine sound_cut (s := x) ?_ ?_; (on_goal 2 => clear_value x); (on_goal 1 => unfold x)) | (subst x))
    | split

theorem show'_sound (b : BusOut) (s : State) (hs : Sound qq t0 s) :
    Sound qq t0 (show' b s) := by
  unfold show'
  repeat' first
    | with_reducible intro _
    | with_reducible assumption
    | with_reducible apply modI3c_sound
    | simp only [↓sound_mk_iff]

theorem direct_sound (dest : Nat) (f : State → State) (s : State) (hf : ∀ (y0 : State), Sound qq t0 y0 → Sound qq t0 (f y0)) (hs : Sound qq t0 s) :
    Sound qq t0 (direct dest f s) := by
  unfold direct
  repeat' first
    | with_reducible intro _
    | with_reducible assumption
    | with_reducible apply hf
    | with_reducible apply show'_sound
    | with_reducible apply sound_ite
    | split

theorem broadcast_sound (f : State → State) (s : State) (hf : ∀ (y0 : State), Sound qq t0 y0 → Sound qq t0 (f y0)) (hs : Sound qq t0 s) :
    Sound qq t0 (broadcast f s) := by
  unfold broadcast
  repeat' first
    | with_reducible intro _
    | with_reducible assumption
    | with_reducible apply hf
    | with_reducible apply sound_ite
    | split

theorem either_sound (dest : Option Nat) (f : State → State) (s : State) (hf : ∀ (y0 : State), Sound qq t0 y0 → Sound qq t0 (f y0)) (hs : Sound qq t0 s) :
    Sound qq t0 (either dest f s) := by
  unfold either
  repeat' first
    | with_reducible intro _
    | with_reducible assumption
    | with_reducible apply hf
    | with_reducible apply direct_sound
    | with_reducible apply broadcast_sound
    | split

theorem takeCcc_sound (f : I3cS → I3cS) (s : State) (hs : Sound qq t0 s) :
    Sound qq t0 (takeCcc f s) := by
  unfold takeCcc
  repeat' first
    | with_reducible intro _
    | with_reducible assumption
    | with_reducible apply modI3c_sound
    | simp only [↓sound_mk_iff]

theorem takeAddr_sound (a : Nat) (s : State) (hs : Sound qq t0 s) :
    Sound qq t0 (takeAddr a s) := by
  unfold takeAddr
  repeat' first
    | with_reducible intro _
    | with_reducible assumption
    | with_reducible apply takeCcc_sound
    | simp only [↓sound_mk_iff]

theorem execEnec_sound (dest : Option Nat) (events : Nat) (s : State) (hs : Sound qq t0 s) :
    SoundOut qq t0 (execEnec dest events s) := by
  unfold execEnec
  repeat' first
    | with_reducible intro _
    | with_reducible assumption
    | with_reducible apply either_sound
    | with_reducible apply takeCcc_sound
    | with_reducible apply soundOut_next
    | with_reducible apply soundOut_fault
    | simp only [↓sound_mk_iff]

theorem execDisec_sound (dest : Option Nat) (events : Nat) (s : State) (hs : Sound qq t0 s) :
    SoundOut qq t0 (execDisec dest events s) := by
  unfold execDisec
  repeat' first
    | with_reducible intro _
    | with_reducible assumption
    | with_reducible apply either_sound
    | with_reducible apply takeCcc_sound
    | with_reducible apply soundOut_next
    | with_reducible apply soundOut_fault
    | simp only [↓sound_mk_iff]

theorem execRstdaa_sound (s : State) (hs : Sound qq t0 s) :
    SoundOut qq t0 (execRstdaa s) := by
  unfold execRstdaa
  repeat' first
    | with_reducible intro _
    | with_reducible assumption
    | with_reducible apply broadcast_sound
    | with_reducible apply takeCcc_sound
    | with_reducible apply soundOut_next
    | with_reducible apply soundOut_fault
    | simp only [↓sound_mk_iff]

theorem execEntdaa_sound (addr : Nat) (rivals : List Nat) (s : State) (hs : Sound qq t0 s) :
    SoundOut qq t0 (execEntdaa addr rivals s) := by
  unfold execEntdaa
  repeat' first
    | with_reducible intro _
    | with_reducible assumption
    | with_reducible apply broadcast_sound
    | with_reducible apply takeAddr_sound
    | with_reducible apply soundOut_next
    | with_reducible apply soundOut_fault
    | with_reducible apply soundOut_ite
    | with_reducible apply sound_ite
    | split

theorem execSetaasa_sound (s : State) (hs : Sound qq t0 s) :
    SoundOut qq t0 (execSetaasa s) := by
  unfold execSetaasa
  repeat' first
    | with_reducible intro _
    | with_reducible assumption
    | with_reducible apply broadcast_sound
    | with_reducible apply takeAddr_sound
    | with_reducible apply soundOut_next
    | with_reducible apply soundOut_fault
    | with_reducible apply soundOut_ite
    | with_reducible apply sound_ite
    | split

theorem execSetdasa_sound (dest addr : Nat) (s : State) (hs : Sound qq t0 s) :
    SoundOut qq t0 (execSetdasa dest addr s) := by
  unfold execSetdasa
  repeat' first
    | with_reducible intro _
    | with_reducible assumption
    | with_reducible apply takeAddr_sound
    | with_reducible apply show'_sound
    | with_reducible apply soundOut_next
    | with_reducible apply soundOut_fault
    | with_reducible apply soundOut_ite
    | with_reducible apply sound_ite
    | split

theorem execSetnewda_sound (dest addr : Nat) (s : State) (hs : Sound qq t0 s) :
    SoundOut qq t0 (execSetnewda dest addr s) := by
  unfold execSetnewda
  repeat' first
    | with_reducible intro _
    | with_reducible assumption
    | with_reducible apply direct_sound
    | with_reducible apply takeAddr_sound
    | with_reducible apply soundOut_next
    | with_reducible apply soundOut_fault

theorem execSetmwl_sound (dest : Option Nat) (v : Nat) (s : State) (hs : Sound qq t0 s) :
    SoundOut qq t0 (execSetmwl dest v s) := by
  unfold execSetmwl
  repeat' first
    | with_reducible intro _
    | with_reducible assumption
    | with_reducible apply either_sound
    | with_reducible apply takeCcc_sound
    | with_reducible apply soundOut_next
    | with_reducible apply soundOut_fault
    | simp only [↓sound_mk_iff]

theorem execSetmrl_sound (dest : Option Nat) (v : Nat) (s : State) (hs : Sound qq t0 s) :
    SoundOut qq t0 (execSetmrl dest v s) := by
  unfold execSetmrl
  repeat' first
    | with_reducible intro _
    | with_reducible assumption
    | with_reducible apply either_sound
    | with_reducible apply takeCcc_sound
    | with_reducible apply soundOut_next
    | with_reducible apply soundOut_fault
    | simp only [↓sound_mk_iff]

theorem execGetmwl_sound (dest : Nat) (s : State) (hs : Sound qq t0 s) :
    SoundOut qq t0 (execGetmwl dest s) := by
  unfold execGetmwl
  repeat' first
    | with_reducible intro _
    | with_reducible assumption
    | with_reducible apply direct_sound
    | with_reducible apply show'_sound
    | with_reducible apply soundOut_next
    | with_reducible apply soundOut_fault

theorem execGetmrl_sound (dest : Nat) (s : State) (hs : Sound qq t0 s) :
    SoundOut qq t0 (execGetmrl dest s) := by
  unfold execGetmrl
  repeat' first
    | with_reducible intro _
    | with_reducible assumption
    | with_reducible apply direct_sound
    | with_reducible apply show'_sound
    | with_reducible apply soundOut_next
    | with_reducible apply soundOut_fault

theorem execGetpid_sound (dest : Nat) (s : State) (hs : Sound qq t0 s) :
    SoundOut qq t0 (execGetpid dest s) := by
  unfold execGetpid
  repeat' first
    | with_reducible intro _
    | with_reducible assumption
    | with_reducible apply direct_sound
    | with_reducible apply show'_sound
    | with_reducible apply soundOut_next
    | with_reducible apply soundOut_fault

theorem execGetbcr_sound (dest : Nat) (s : State) (hs : Sound qq t0 s) :
    SoundOut qq t0 (execGetbcr dest s) := by
  unfold execGetbcr
  repeat' first
    | with_reducible intro _
    | with_reducible assumption
    | with_reducible apply direct_sound
    | with_reducible apply show'_sound
    | with_reducible apply soundOut_next
    | with_reducible apply soundOut_fault

theorem execGetdcr_sound (dest : Nat) (s : State) (hs : Sound qq t0 s) :
    SoundOut qq t0 (execGetdcr dest s) := by
  unfold execGetdcr
  repeat' first
    | with_reducible intro _
    | with_reducible assumption
    | with_reducible apply direct_sound
    | with_reducible apply show'_sound
    | with_reducible apply soundOut_next
    | with_reducible apply soundOut_fault

theorem execGetstatus_sound (dest : Nat) (s : State) (hs : Sound qq t0 s) :
    SoundOut qq t0 (execGetstatus dest s) := by
  unfold execGetstatus
  repeat' first
    | with_reducible intro _
    | with_reducible assumption
    | with_reducible apply direct_sound
    | with_reducible apply show'_sound
    | with_reducible apply drawn_sound
    | with_reducible apply soundOut_next
    | with_reducible apply soundOut_fault

theorem execEnthdr0_sound (s : State) (hs : Sound qq t0 s) :
    SoundOut qq t0 (execEnthdr0 s) := by
  unfold execEnthdr0
  repeat' first
    | with_reducible intro _
    | with_reducible assumption
    | with_reducible apply broadcast_sound
    | with_reducible apply takeCcc_sound
    | with_reducible apply soundOut_next
    | with_reducible apply soundOut_fault
    | simp only [↓sound_mk_iff]

theorem execEnthdrUnsupported_sound (k : Nat) (s : State) (hs : Sound qq t0 s) :
    SoundOut qq t0 (execEnthdrUnsupported k s) := by
  unfold execEnthdrUnsupported
  repeat' first
    | with_reducible intro _
    | with_reducible assumption
    | with_reducible apply broadcast_sound
    | with_reducible apply modI3c_sound
    | with_reducible apply soundOut_next
    | with_reducible apply soundOut_fault
    | with_reducible apply soundOut_ite
    | simp only [↓sound_mk_iff]
    | with_reducible apply sound_ite
    | split

theorem execHdrExit_sound (s : State) (hs : Sound qq t0 s) :
    SoundOut qq t0 (execHdrExit s) := by
  unfold execHdrExit
  repeat' first
    | with_reducible intro _
    | with_reducible assumption
    | with_reducible apply modI3c_sound
    | with_reducible apply soundOut_next
    | with_reducible apply soundOut_fault
    | with_reducible apply soundOut_ite
    | simp only [↓sound_mk_iff]
    | with_reducible apply sound_ite
    | split

theorem execRstact_sound (dest : Option Nat) (b : Nat) (s : State) (hs : Sound qq t0 s) :
    SoundOut qq t0 (execRstact dest b s) := by
  unfold execRstact
  repeat' first
    | with_reducible intro _
    | with_reducible assumption
    | with_reducible apply either_sound
    | with_reducible apply takeCcc_sound
    | with_reducible apply soundOut_next
    | with_reducible apply soundOut_fault
    | simp only [↓sound_mk_iff]

theorem frontReset_sound (s : State) (hs : Sound qq t0 s) :
    Sound qq t0 (frontReset s) := by
  unfold frontReset
  repeat' first
    | with_reducible intro _
    | with_reducible assumption
    | with_reducible apply modI3c_sound
    | with_reducible apply modMaster_sound
    | simp only [↓sound_mk_iff]

theorem execTargetResetPattern_sound (s : State) (hs : Sound qq t0 s) :
    SoundOut qq t0 (execTargetResetPattern s) := by
  unfold execTargetResetPattern
  repeat' first
    | with_reducible intro _
    | with_reducible assumption
    | with_reducible apply modI3c_sound
    | with_reducible apply partReset_sound
    | with_reducible apply frontReset_sound
    | with_reducible apply soundOut_next
    | with_reducible apply soundOut_fault
    | with_reducible apply soundOut_ite
    | simp only [↓sound_mk_iff]
    | with_reducible apply sound_ite
    | split

theorem execUnsupportedCcc_sound (dest : Option Nat) (s : State) (hs : Sound qq t0 s) :
    SoundOut qq t0 (execUnsupportedCcc dest s) := by
  unfold execUnsupportedCcc
  repeat' first
    | with_reducible intro _
    | with_reducible assumption
    | with_reducible apply direct_sound
    | with_reducible apply show'_sound
    | with_reducible apply soundOut_next
    | with_reducible apply soundOut_fault
    | simp only [↓sound_mk_iff]
    | split

theorem readBuffer_sound (s : State) (hs : Sound qq t0 s) :
    Sound qq t0 (readBuffer s) := by
  unfold readBuffer
  repeat' first
    | with_reducible intro _
    | with_reducible assumption
    | with_reducible apply show'_sound
    | (extract_lets x; first | (with_reducible refine sound_cut (s := x) ?_ ?_; (on_goal 2 => clear_value x); (on_goal 1 => unfold x)) | (subst x))

theorem execResponseRead_sound (s : State) (hs : Sound qq t0 s) :
    SoundOut qq t0 (execResponseRead s) := by
  unfold execResponseRead
  repeat' first
    | with_reducible intro _
    | with_reducible assumption
    | with_reducible apply readBuffer_sound
    | with_reducible apply soundOut_next
    | with_reducible apply soundOut_fault
    | with_reducible apply soundOut_ite
    | with_reducible apply sound_ite
    | split

theorem execI2cTransfer_sound (rd : Bool) (op : Nat) (tag : FrameTag) (o m len v : Nat) (s : State) (hs : Sound qq t0 s) :
    SoundOut qq t0 (execI2cTransfer rd op tag o m len v s) := by
  unfold execI2cTransfer
  repeat' first
    | with_reducible intro _
    | with_reducible assumption
    | with_reducible apply readBuffer_sound
    | with_reducible apply show'_sound
    | with_reducible apply request_sound
    | simp only [↓sound_mk_iff]
    | with_reducible apply sound_ite
    | with_reducible apply soundOut_next
    | with_reducible apply soundOut_fault
    | with_reducible apply soundOut_ite
    | with_reducible apply unitCmd_sound
    | (extract_lets x; first | (with_reducible refine sound_cut (s := x) ?_ ?_; (on_goal 2 => clear_value x); (on_goal 1 => unfold x)) | (subst x))
    | split

set_option Elab.async false in
theorem execDbgframe_sound (op : Nat) (tag : FrameTag) (o m len v : Nat) (s : State) (hs : Sound qq t0 s) :
    SoundOut qq t0 (execDbgframe op tag o m len v s) := by
  unfold execDbgframe
  repeat' first
    | with_reducible intro _
    | with_reducible assumption
    | with_reducible apply request_sound
    | with_reducible apply loadInsn_sound
    | with_reducible apply modDbg_sound
    | simp only [↓sound_mk_iff]
    | with_reducible apply sound_ite
    | with_reducible apply soundOut_next
    | with_reducible apply soundOut_fault
    | with_reducible apply soundOut_ite
    | with_reducible apply unitCmd_sound
    | (extract_lets x; first | (with_reducible refine sound_cut (s := x) ?_ ?_; (on_goal 2 => clear_value x); (on_goal 1 => unfold x)) | (subst x))
    | split

end Sys2Proof.Laws
end

