-- ==== Sys2Proof/Laws/SoundMgmt.lean ====
section
/-! SUPPORT. What every operation of Machine/Mgmt.lean keeps. -/
namespace Sys2Proof.Laws
open Sys2Proof Sys2Proof.Machine
set_option linter.unusedVariables false
set_option linter.unusedTactic false
set_option linter.unreachableTactic false

variable {qq : List Instr} {t0 : Nat}

theorem bindSlot_sound (k n src : Nat) (s : State) (hs : Sound qq t0 s) :
    Sound qq t0 (bindSlot k n src s) := by
  unfold bindSlot
  repeat' first
    | with_reducible intro _
    | with_reducible assumption
    | with_reducible apply wr_sound
    | with_reducible apply modSlot_sound

theorem slotRequest_sound (k len f : Nat) (s : State) (hs : Sound qq t0 s) :
    Sound qq t0 (slotRequest k len f s) := by
  unfold slotRequest
  repeat' first
    | with_reducible intro _
    | with_reducible assumption
    | with_reducible apply flushSlot_sound
    | with_reducible apply request_sound
    | with_reducible apply modSlot_sound
    | simp only [↓sound_mk_iff]
    | with_reducible apply sound_ite
    | (extract_lets x; first | (with_reducible refine sound_cut (s := x) ?_ ?_; (on_goal 2 => clear_value x); (on_goal 1 => unfold x)) | (subst x))
    | split

theorem noSlot_sound (n src f : Nat) (s : State) (hs : Sound qq t0 s) :
    Sound qq t0 (noSlot n src f s) := by
  unfold noSlot
  repeat' first
    | with_reducible intro _
    | with_reducible assumption
    | with_reducible apply trySend_sound
    | with_reducible apply bump_sound
    | with_reducible apply modLane_sound
    | with_reducible apply raise_sound
    | simp only [↓sound_mk_iff]
    | (extract_lets x; first | (with_reducible refine sound_cut (s := x) ?_ ?_; (on_goal 2 => clear_value x); (on_goal 1 => unfold x)) | (subst x))

theorem execMgmtMessage_sound (n : Nat) (s : State) (hs : Sound qq t0 s) :
    SoundOut qq t0 (execMgmtMessage n s) := by
  unfold execMgmtMessage
  repeat' first
    | with_reducible intro _
    | with_reducible assumption
    | with_reducible apply noSlot_sound
    | with_reducible apply slotRequest_sound
    | with_reducible apply bindSlot_sound
    | with_reducible apply takeMsg_sound
    | with_reducible apply trySend_sound
    | simp only [↓sound_mk_iff]
    | with_reducible apply sound_ite
    | with_reducible apply soundOut_next
    | with_reducible apply soundOut_fault
    | with_reducible apply soundOut_ite
    | with_reducible apply unitCmd_sound
    | (extract_lets x; first | (with_reducible refine sound_cut (s := x) ?_ ?_; (on_goal 2 => clear_value x); (on_goal 1 => unfold x)) | (subst x))
    | split

set_option Elab.async false in
theorem execMgmtSlotIdleTimeout_sound (k : Nat) (s : State) (hs : Sound qq t0 s) :
    SoundOut qq t0 (execMgmtSlotIdleTimeout k s) := by
  unfold execMgmtSlotIdleTimeout
  repeat' first
    | with_reducible intro _
    | with_reducible assumption
    | with_reducible apply releaseSlot_sound
    | with_reducible apply upto_sound
    | with_reducible apply soundOut_next
    | with_reducible apply soundOut_fault
    | with_reducible apply soundOut_ite
    | with_reducible apply sound_ite
    | split

end Sys2Proof.Laws
end

