-- ==== Sys2Proof/Laws/SoundDeliver.lean ====
section
/-! SUPPORT. What every operation of Machine/Deliver.lean keeps. -/
namespace Sys2Proof.Laws
open Sys2Proof Sys2Proof.Machine
set_option linter.unusedVariables false
set_option linter.unusedTactic false
set_option linter.unreachableTactic false

variable {qq : List Instr} {t0 : Nat}

theorem ringAnswered_sound (q : Nat) (x : MeshResp) (s : State) (hs : Sound qq t0 s) :
    Sound qq t0 (ringAnswered q x s) := by
  unfold ringAnswered
  repeat' first
    | with_reducible intro _
    | with_reducible assumption
    | with_reducible apply ringReadDone_sound
    | simp only [↓sound_mk_iff]
    | with_reducible apply sound_ite
    | (extract_lets x; first | (with_reducible refine sound_cut (s := x) ?_ ?_; (on_goal 2 => clear_value x); (on_goal 1 => unfold x)) | (subst x))
    | split

theorem respDone_sound (x : MeshResp) (s : State) (hs : Sound qq t0 s) :
    Sound qq t0 (respDone x s) := by
  unfold respDone
  repeat' first
    | with_reducible intro _
    | with_reducible assumption
    | with_reducible apply ringAnswered_sound
    | with_reducible apply meshDataDone_sound
    | with_reducible apply ringWriteDone_sound
    | with_reducible apply bitmapDone_sound
    | with_reducible apply cryptoDone_sound
    | with_reducible apply reloadDone_sound
    | with_reducible apply flpDone_sound
    | with_reducible apply moveDone_sound
    | with_reducible apply gateDone_sound
    | with_reducible apply moveAnswered_sound
    | with_reducible apply streamDone_sound
    | with_reducible apply laneDone_sound
    | with_reducible apply facetDone_sound
    | with_reducible apply lineDone_sound
    | with_reducible apply respTaken_sound
    | simp only [↓sound_mk_iff]
    | with_reducible apply sound_ite
    | (extract_lets x; first | (with_reducible refine sound_cut (s := x) ?_ ?_; (on_goal 2 => clear_value x); (on_goal 1 => unfold x)) | (subst x))
    | split

theorem noteReturn_sound (fl : List Flit) (x : MeshResp) (s : State) (hs : Sound qq t0 s) :
    Sound qq t0 (noteReturn fl x s) := by
  unfold noteReturn
  repeat' first
    | with_reducible intro _
    | with_reducible assumption
    | with_reducible apply flitsNoted_sound
    | with_reducible apply probesSee_sound
    | simp only [↓sound_mk_iff]
    | with_reducible apply sound_ite
    | (extract_lets x; first | (with_reducible refine sound_cut (s := x) ?_ ?_; (on_goal 2 => clear_value x); (on_goal 1 => unfold x)) | (subst x))
    | split

theorem returnBy_sound (done : MeshResp → State → State) (fl : List Flit) (x : MeshResp) (s : State)
    (hd : ∀ y t, Sound qq t0 t → Sound qq t0 (done y t)) (hs : Sound qq t0 s) : Sound qq t0 (returnBy done fl x s) :=
  sound_ite (hd _ _ (noteReturn_sound _ _ _ hs)) hs

theorem deliver_sound (kind : Nat) (r : MeshReq) (fl : List Flit) (s : State) (hs : Sound qq t0 s) :
    Sound qq t0 (deliver kind r fl s) := by
  unfold deliver
  repeat' first
    | with_reducible intro _
    | with_reducible assumption
    | with_reducible apply returnBy_sound
    | with_reducible apply respDone_sound
    | simp only [↓sound_mk_iff]
    | with_reducible apply sound_ite
    | (extract_lets x; first | (with_reducible refine sound_cut (s := x) ?_ ?_; (on_goal 2 => clear_value x); (on_goal 1 => unfold x)) | (subst x))
    | split

theorem execMeshDataResponse_sound (r : MeshReq) (fl : List Flit) (s : State) (hs : Sound qq t0 s) :
    SoundOut qq t0 (execMeshDataResponse r fl s) := by
  unfold execMeshDataResponse
  repeat' first
    | with_reducible intro _
    | with_reducible assumption
    | with_reducible apply deliver_sound
    | simp only [↓sound_mk_iff]
    | with_reducible apply sound_ite
    | with_reducible apply soundOut_next
    | with_reducible apply soundOut_fault
    | with_reducible apply soundOut_ite
    | with_reducible apply unitCmd_sound
    | (extract_lets x; first | (with_reducible refine sound_cut (s := x) ?_ ?_; (on_goal 2 => clear_value x); (on_goal 1 => unfold x)) | (subst x))
    | split

theorem execMeshAckResponse_sound (r : MeshReq) (fl : List Flit) (s : State) (hs : Sound qq t0 s) :
    SoundOut qq t0 (execMeshAckResponse r fl s) := by
  unfold execMeshAckResponse
  repeat' first
    | with_reducible intro _
    | with_reducible assumption
    | with_reducible apply deliver_sound
    | simp only [↓sound_mk_iff]
    | with_reducible apply sound_ite
    | with_reducible apply soundOut_next
    | with_reducible apply soundOut_fault
    | with_reducible apply soundOut_ite
    | with_reducible apply unitCmd_sound
    | (extract_lets x; first | (with_reducible refine sound_cut (s := x) ?_ ?_; (on_goal 2 => clear_value x); (on_goal 1 => unfold x)) | (subst x))
    | split

theorem execMeshErrorResponse_sound (r : Arriving) (s : State) (hs : Sound qq t0 s) :
    SoundOut qq t0 (execMeshErrorResponse r s) := by
  unfold execMeshErrorResponse
  repeat' first
    | with_reducible intro _
    | with_reducible assumption
    | with_reducible apply deliver_sound
    | simp only [↓sound_mk_iff]
    | with_reducible apply sound_ite
    | with_reducible apply soundOut_next
    | with_reducible apply soundOut_fault
    | with_reducible apply soundOut_ite
    | with_reducible apply unitCmd_sound
    | (extract_lets x; first | (with_reducible refine sound_cut (s := x) ?_ ?_; (on_goal 2 => clear_value x); (on_goal 1 => unfold x)) | (subst x))
    | split

theorem execLineReadComplete_sound (n : Nat) (line : LineBack) (s : State) (hs : Sound qq t0 s) :
    SoundOut qq t0 (execLineReadComplete n line s) := by
  unfold execLineReadComplete
  repeat' first
    | with_reducible intro _
    | with_reducible assumption
    | with_reducible apply returnBy_sound
    | with_reducible apply lineDone_sound
    | simp only [↓sound_mk_iff]
    | with_reducible apply sound_ite
    | with_reducible apply soundOut_next
    | with_reducible apply soundOut_fault
    | with_reducible apply soundOut_ite
    | with_reducible apply unitCmd_sound
    | (extract_lets x; first | (with_reducible refine sound_cut (s := x) ?_ ?_; (on_goal 2 => clear_value x); (on_goal 1 => unfold x)) | (subst x))
    | split

theorem execRingWriteDone_sound (q line : Nat) (err : RingBack) (s : State) (hs : Sound qq t0 s) :
    SoundOut qq t0 (execRingWriteDone q line err s) := by
  unfold execRingWriteDone
  repeat' first
    | with_reducible intro _
    | with_reducible assumption
    | with_reducible apply returnBy_sound
    | with_reducible apply ringWriteDone_sound
    | simp only [↓sound_mk_iff]
    | with_reducible apply sound_ite
    | with_reducible apply soundOut_next
    | with_reducible apply soundOut_fault
    | with_reducible apply soundOut_ite
    | with_reducible apply unitCmd_sound
    | (extract_lets x; first | (with_reducible refine sound_cut (s := x) ?_ ?_; (on_goal 2 => clear_value x); (on_goal 1 => unfold x)) | (subst x))
    | split

theorem execRingReadDone_sound (q : Nat) (err : RingBack) (s : State) (hs : Sound qq t0 s) :
    SoundOut qq t0 (execRingReadDone q err s) := by
  unfold execRingReadDone
  repeat' first
    | with_reducible intro _
    | with_reducible assumption
    | with_reducible apply returnBy_sound
    | with_reducible apply ringAnswered_sound
    | simp only [↓sound_mk_iff]
    | with_reducible apply sound_ite
    | with_reducible apply soundOut_next
    | with_reducible apply soundOut_fault
    | with_reducible apply soundOut_ite
    | with_reducible apply unitCmd_sound
    | (extract_lets x; first | (with_reducible refine sound_cut (s := x) ?_ ?_; (on_goal 2 => clear_value x); (on_goal 1 => unfold x)) | (subst x))
    | split

set_option Elab.async false in
theorem execBitmapIssue_sound (n : Nat) (s : State) (hs : Sound qq t0 s) :
    SoundOut qq t0 (execBitmapIssue n s) := by
  unfold execBitmapIssue
  repeat' first
    | with_reducible intro _
    | with_reducible assumption
    | with_reducible apply meshSend_sound
    | with_reducible apply modFcp_sound
    | with_reducible apply upto_sound
    | with_reducible apply bump_sound
    | simp only [↓sound_mk_iff]
    | with_reducible apply sound_ite
    | with_reducible apply soundOut_next
    | with_reducible apply soundOut_fault
    | with_reducible apply soundOut_ite
    | with_reducible apply unitCmd_sound
    | (extract_lets x; first | (with_reducible refine sound_cut (s := x) ?_ ?_; (on_goal 2 => clear_value x); (on_goal 1 => unfold x)) | (subst x))
    | split

end Sys2Proof.Laws
end

