-- ==== Sys2Proof/Laws/ExecAll.lean ====
section
/-! SUPPORT. Every command keeps soundness, and completes where it is well formed: facts that proofs about their commands cite. -/
set_option linter.unreachableTactic false
set_option linter.unusedTactic false
namespace Sys2Proof.Laws.ExecAll
open Sys2Proof.Machine Common
theorem exec_sound {p : List Instr} {b : Nat} (i : Instr) (s : State) (h : Sound p b s) : SoundOut p b (exec i s) := by
  cases i
  case dictRead q o m len v => exact execDictRead_sound q o m len v s h
  case dictWrite q o m len v => exact execDictWrite_sound q o m len v s h
  case fetch q o m len v => exact execFetch_sound q o m len v s h
  case mread q o m => exact execMread_sound q o m s h
  case mdrop q o m => exact execMdrop_sound q o m s h
  case fetchComplete master o m => exact execFetchComplete_sound master o m s h
  case responseRead => exact execResponseRead_sound s h
  case i2cTransfer rd op tag o m len v => exact execI2cTransfer_sound rd op tag o m len v s h
  case enec dest events => exact execEnec_sound dest events s h
  case disec dest events => exact execDisec_sound dest events s h
  case rstdaa => exact execRstdaa_sound s h
  case entdaa addr rivals => exact execEntdaa_sound addr rivals s h
  case setaasa => exact execSetaasa_sound s h
  case setdasa dest addr => exact execSetdasa_sound dest addr s h
  case setnewda dest addr => exact execSetnewda_sound dest addr s h
  case setmwl dest v => exact execSetmwl_sound dest v s h
  case setmrl dest v => exact execSetmrl_sound dest v s h
  case getmwl dest => exact execGetmwl_sound dest s h
  case getmrl dest => exact execGetmrl_sound dest s h
  case getpid dest => exact execGetpid_sound dest s h
  case getbcr dest => exact execGetbcr_sound dest s h
  case getdcr dest => exact execGetdcr_sound dest s h
  case getstatus dest => exact execGetstatus_sound dest s h
  case enthdr0 => exact execEnthdr0_sound s h
  case enthdrUnsupported k => exact execEnthdrUnsupported_sound k s h
  case hdrExit => exact execHdrExit_sound s h
  case rstact dest b => exact execRstact_sound dest b s h
  case targetResetPattern => exact execTargetResetPattern_sound s h
  case unsupportedCcc dest => exact execUnsupportedCcc_sound dest s h
  case mgmtSlotIdleTimeout k => exact execMgmtSlotIdleTimeout_sound k s h
  case dictWindowAccess r => exact execDictWindowAccess_sound r s h
  case statsClr q v => exact execStatsClr_sound q v s h
  case meshDataWrite q len v => exact execMeshDataWrite_sound q len v s h
  case meshDataFetch q size => exact execMeshDataFetch_sound q size s h
  case mirrorLeaseExpiry => exact execMirrorLeaseExpiry_sound s h
  case batchCheck q v => exact execBatchCheck_sound q v s h
  case batchCheckEnd => exact execBatchCheckEnd_sound s h
  case batchDiscard q v => exact execBatchDiscard_sound q v s h
  case applyArm q v => exact execApplyArm_sound q v s h
  case applyCancel q v => exact execApplyCancel_sound q v s h
  case syncinCapture level => exact execSyncinCapture_sound level s h
  case apply => exact execApply_sound s h
  case veEnable q n => exact execVeEnable_sound q n s h
  case veDisable q n => exact execVeDisable_sound q n s h
  case veStart q n => exact execVeStart_sound q n s h
  case veStartAt q n => exact execVeStartAt_sound q n s h
  case veHalt q n => exact execVeHalt_sound q n s h
  case veResume q n => exact execVeResume_sound q n s h
  case veStop q n => exact execVeStop_sound q n s h
  case veClearFault q n => exact execVeClearFault_sound q n s h
  case veSelfcheck q n => exact execVeSelfcheck_sound q n s h
  case veSelfcheckEnd n pass => exact execVeSelfcheckEnd_sound n pass s h
  case veStartEdge n => exact execVeStartEdge_sound n s h
  case vec n smp => exact execVec_sound n smp s h
  case rpt n smp => exact execRpt_sound n smp s h
  case veLdc n smp => exact execVeLdc_sound n smp s h
  case loop n smp => exact execLoop_sound n smp s h
  case veJmp n smp => exact execVeJmp_sound n smp s h
  case call n smp => exact execCall_sound n smp s h
  case ret n smp => exact execRet_sound n smp s h
  case jc n smp => exact execJc_sound n smp s h
  case clrf n smp => exact execClrf_sound n smp s h
  case mbeg n smp => exact execMbeg_sound n smp s h
  case matchEnd n smp => exact execMatchEnd_sound n smp s h
  case bar n smp => exact execBar_sound n smp s h
  case veEvt n smp => exact execVeEvt_sound n smp s h
  case veHaltWord n smp => exact execVeHaltWord_sound n smp s h
  case barrierRelease mask => exact execBarrierRelease_sound mask s h
  case barrierError n => exact execBarrierError_sound n s h
  case veHaltTakesEffect n => exact execVeHaltTakesEffect_sound n s h
  case veStopTakesEffect n => exact execVeStopTakesEffect_sound n s h
  case veResumeLands n => exact execVeResumeLands_sound n s h
  case applyLandsRunning n => exact execApplyLandsRunning_sound n s h
  case patternTimeout n => exact execPatternTimeout_sound n s h
  case lineReadIssue n => exact execLineReadIssue_sound n s h
  case lineReadComplete n line => exact execLineReadComplete_sound n line s h
  case apgTransfer n => exact execApgTransfer_sound n s h
  case cellPass col row => exact execCellPass_sound col row s h
  case cellAdd col row => exact execCellAdd_sound col row s h
  case cellSub col row => exact execCellSub_sound col row s h
  case cellAnd col row => exact execCellAnd_sound col row s h
  case cellOr col row => exact execCellOr_sound col row s h
  case cellXor col row => exact execCellXor_sound col row s h
  case cellAndn col row => exact execCellAndn_sound col row s h
  case cellNot col row => exact execCellNot_sound col row s h
  case cellShl1 col row => exact execCellShl1_sound col row s h
  case cellShl col row => exact execCellShl_sound col row s h
  case cellShr col row => exact execCellShr_sound col row s h
  case cellRol col row => exact execCellRol_sound col row s h
  case cellBrev col row => exact execCellBrev_sound col row s h
  case cellBsel col row => exact execCellBsel_sound col row s h
  case cellEq col row => exact execCellEq_sound col row s h
  case cellPar col row => exact execCellPar_sound col row s h
  case cellCntk col row => exact execCellCntk_sound col row s h
  case cellMin col row => exact execCellMin_sound col row s h
  case cellMax col row => exact execCellMax_sound col row s h
  case cellReservedOp col row => exact execCellReservedOp_sound col row s h
  case configUpset u => exact execConfigUpset_sound u s h
  case facetRelease q f => exact execFacetRelease_sound q f s h
  case facetHold q f => exact execFacetHold_sound q f s h
  case facetReleaseLands f => exact execFacetReleaseLands_sound f s h
  case facetHoldLands f => exact execFacetHoldLands_sound f s h
  case userInWrite q f k v => exact execUserInWrite_sound q f k v s h
  case userReq f => exact execUserReq_sound f s h
  case facetMeshRequest f op addr len data => exact execFacetMeshRequest_sound f op addr len data s h
  case focus q => exact execFocus_sound q s h
  case edgSelfcheck q => exact execEdgSelfcheck_sound q s h
  case focusAbort q => exact execFocusAbort_sound q s h
  case focusChannelEnd ch found => exact execFocusChannelEnd_sound ch found s h
  case selfcheckChannelEnd ch pass => exact execSelfcheckChannelEnd_sound ch pass s h
  case tempTrackSample g temp => exact execTempTrackSample_sound g temp s h
  case trimCommit q => exact execTrimCommit_sound q s h
  case trimImport q => exact execTrimImport_sound q s h
  case trimWriteEnd => exact execTrimWriteEnd_sound s h
  case failCycle n => exact execFailCycle_sound n s h
  case recordToTail n => exact execRecordToTail_sound n s h
  case ringWriteIssue q => exact execRingWriteIssue_sound q s h
  case ringReadIssue q => exact execRingReadIssue_sound q s h
  case ringWriteDone q line err => exact execRingWriteDone_sound q line err s h
  case ringReadDone q err => exact execRingReadDone_sound q err s h
  case pop r q => exact execPop_sound r q s h
  case poprec r q => exact execPoprec_sound r q s h
  case queueEnable r q => exact execQueueEnable_sound r q s h
  case queueDisable r q => exact execQueueDisable_sound r q s h
  case flush r q => exact execFlush_sound r q s h
  case push r q v => exact execPush_sound r q v s h
  case pushEnd r q v => exact execPushEnd_sound r q v s h
  case fcountClr r c v => exact execFcountClr_sound r c v s h
  case mergeTimeout n => exact execMergeTimeout_sound n s h
  case bitmapIssue n => exact execBitmapIssue_sound n s h
  case dmcTrain q n => exact execDmcTrain_sound q n s h
  case dmcRetrain q n => exact execDmcRetrain_sound q n s h
  case autoTrainStart => exact execAutoTrainStart_sound s h
  case trainingEnd n eye => exact execTrainingEnd_sound n eye s h
  case retrainingEnd n ok => exact execRetrainingEnd_sound n ok s h
  case autoRetrain n => exact execAutoRetrain_sound n s h
  case dimmTempRead n temp => exact execDimmTempRead_sound n temp s h
  case mapForm => exact execMapForm_sound s h
  case excludeWrite q v => exact execExcludeWrite_sound q v s h
  case dmcAccept n => exact execDmcAccept_sound n s h
  case dmcAccessIssue n => exact execDmcAccessIssue_sound n s h
  case dmcAccessComplete n ecc => exact execDmcAccessComplete_sound n ecc s h
  case agePromotion n => exact execAgePromotion_sound n s h
  case throttleEnd n => exact execThrottleEnd_sound n s h
  case rowTableClear n => exact execRowTableClear_sound n s h
  case refresh n => exact execRefresh_sound n s h
  case patrolScrub n ecc => exact execPatrolScrub_sound n ecc s h
  case retainWrite q v => exact execRetainWrite_sound q v s h
  case paneFabricAccess p bad => exact execPaneFabricAccess_sound p bad s h
  case stealTimeout r => exact execStealTimeout_sound r s h
  case paneDetach q p => exact execPaneDetach_sound q p s h
  case paneAttach q p => exact execPaneAttach_sound q p s h
  case paneDetachLands p => exact execPaneDetachLands_sound p s h
  case paneAttachLands p => exact execPaneAttachLands_sound p s h
  case paneTest q p => exact execPaneTest_sound q p s h
  case paneTestEnd p bad => exact execPaneTestEnd_sound p bad s h
  case paneModeWrite q p v => exact execPaneModeWrite_sound q p v s h
  case scratchOwnerWrite q b port v => exact execScratchOwnerWrite_sound q b port v s h
  case handoverEnd b => exact execHandoverEnd_sound b s h
  case scratchTest q b => exact execScratchTest_sound q b s h
  case scratchTestEnd b bad => exact execScratchTestEnd_sound b bad s h
  case clearEnd d => exact execClearEnd_sound d s h
  case meshRead r flit ecc => exact execMeshRead_sound r flit ecc s h
  case meshWrite r flit => exact execMeshWrite_sound r flit s h
  case meshOr r flit => exact execMeshOr_sound r flit s h
  case meshDataResponse r flit => exact execMeshDataResponse_sound r flit s h
  case meshAckResponse r flit => exact execMeshAckResponse_sound r flit s h
  case meshErrorResponse r => exact execMeshErrorResponse_sound r s h
  case domainPowered d => exact execDomainPowered_sound d s h
  case routerSelfcheck q n => exact execRouterSelfcheck_sound q n s h
  case rcfgWrite q n v => exact execRcfgWrite_sound q n v s h
  case drainEnd n pass => exact execDrainEnd_sound n pass s h
  case probeRun q p => exact execProbeRun_sound q p s h
  case probeStop q p => exact execProbeStop_sound q p s h
  case probeClear q p => exact execProbeClear_sound q p s h
  case tclear q v => exact execTclear_sound q v s h
  case laneStart q n => exact execLaneStart_sound q n s h
  case laneReset q n => exact execLaneReset_sound q n s h
  case laneRetrain q n => exact execLaneRetrain_sound q n s h
  case adaptEnd n => exact execAdaptEnd_sound n s h
  case lockGained n => exact execLockGained_sound n s h
  case qrateWrite q k v => exact execQrateWrite_sound q k v s h
  case qpllLock k => exact execQpllLock_sound k s h
  case laneMapWrite q k v => exact execLaneMapWrite_sound q k v s h
  case dataBlock n v fix => exact execDataBlock_sound n v fix s h
  case idleBlock n v fix => exact execIdleBlock_sound n v fix s h
  case startBlock n v fix => exact execStartBlock_sound n v fix s h
  case creditBlock n v fix => exact execCreditBlock_sound n v fix s h
  case linkBlock n v fix => exact execLinkBlock_sound n v fix s h
  case meshMessage n => exact execMeshMessage_sound n s h
  case mgmtMessage n => exact execMgmtMessage_sound n s h
  case timeMessage n => exact execTimeMessage_sound n s h
  case streamMessage n => exact execStreamMessage_sound n s h
  case streamWritesDone n err => exact execStreamWritesDone_sound n err s h
  case creditSendTimer n => exact execCreditSendTimer_sound n s h
  case linkSendTimer n => exact execLinkSendTimer_sound n s h
  case tmuRoleWrite q v => exact execTmuRoleWrite_sound q v s h
  case incrWrite q v => exact execIncrWrite_sound q v s h
  case tmuStep q v => exact execTmuStep_sound q v s h
  case tmuSet q v => exact execTmuSet_sound q v s h
  case exchangeStart => exact execExchangeStart_sound s h
  case sync n => exact execSync_sound n s h
  case follow n => exact execFollow_sound n s h
  case dreq n => exact execDreq_sound n s h
  case dresp n => exact execDresp_sound n s h
  case exchangeTimeout => exact execExchangeTimeout_sound s h
  case txmsg q n v => exact execTxmsg_sound q n v s h
  case txts q n => exact execTxts_sound q n s h
  case rxmsg q n => exact execRxmsg_sound q n s h
  case apertureArm q a => exact execApertureArm_sound q a s h
  case apertureDisarm q a => exact execApertureDisarm_sound q a s h
  case apertureOpen a => exact execApertureOpen_sound a s h
  case apertureClose a => exact execApertureClose_sound a s h
  case triggerArm q t => exact execTriggerArm_sound q t s h
  case triggerDisarm q t => exact execTriggerDisarm_sound q t s h
  case triggerPulse t => exact execTriggerPulse_sound t s h
  case captureEdge t rising => exact execCaptureEdge_sound t rising s h
  case capPop q t => exact execCapPop_sound q t s h
  case scheduleFire => exact execScheduleFire_sound s h
  case mpy n ecc => exact execMpy_sound n ecc s h
  case mac n ecc => exact execMac_sound n ecc s h
  case msu n ecc => exact execMsu_sound n ecc s h
  case accClr n => exact execAccClr_sound n s h
  case accLda n => exact execAccLda_sound n s h
  case accAdda n => exact execAccAdda_sound n s h
  case accSuml n => exact execAccSuml_sound n s h
  case accStr n => exact execAccStr_sound n s h
  case accShra n => exact execAccShra_sound n s h
  case mem n ecc => exact execMem_sound n ecc s h
  case seta n => exact execSeta_sound n s h
  case seto n => exact execSeto_sound n s h
  case inca n => exact execInca_sound n s h
  case vmov n => exact execVmov_sound n s h
  case vadd n => exact execVadd_sound n s h
  case vsub n => exact execVsub_sound n s h
  case vshl n => exact execVshl_sound n s h
  case vshr n => exact execVshr_sound n s h
  case dspNop n => exact execDspNop_sound n s h
  case dspJmp n => exact execDspJmp_sound n s h
  case djnz n => exact execDjnz_sound n s h
  case dspLdc n => exact execDspLdc_sound n s h
  case dspEvt n => exact execDspEvt_sound n s h
  case dspHaltInsn n => exact execDspHaltInsn_sound n s h
  case waitm n => exact execWaitm_sound n s h
  case bclr n => exact execBclr_sound n s h
  case blk n => exact execBlk_sound n s h
  case dspRpt n => exact execDspRpt_sound n s h
  case move n => exact execMove_sound n s h
  case moveGatePoll n => exact execMoveGatePoll_sound n s h
  case moveComplete n => exact execMoveComplete_sound n s h
  case dspStart q n => exact execDspStart_sound q n s h
  case dspStartAt q n => exact execDspStartAt_sound q n s h
  case dspStop q n => exact execDspStop_sound q n s h
  case dspHalt q n => exact execDspHalt_sound q n s h
  case dspResume q n => exact execDspResume_sound q n s h
  case dspSelfcheck q n => exact execDspSelfcheck_sound q n s h
  case dspSelfcheckEnd n pass => exact execDspSelfcheckEnd_sound n pass s h
  case dspStartEdge n => exact execDspStartEdge_sound n s h
  case dspHaltLands n => exact execDspHaltLands_sound n s h
  case dspStopLands n => exact execDspStopLands_sound n s h
  case dspWatchdogExpiry n => exact execDspWatchdogExpiry_sound n s h
  case refinPresent => exact execRefinPresent_sound s h
  case mpllLock => exact execMpllLock_sound s h
  case refinLoss => exact execRefinLoss_sound s h
  case clkoutCfgWrite q v => exact execClkoutCfgWrite_sound q v s h
  case clockSwitchDone => exact execClockSwitchDone_sound s h
  case clockSwitchTimeout => exact execClockSwitchTimeout_sound s h
  case ddrPllLock n => exact execDdrPllLock_sound n s h
  case fmStart q => exact execFmStart_sound q s h
  case fmDone count => exact execFmDone_sound count s h
  case gateClose q u => exact execGateClose_sound q u s h
  case gateOpen q u => exact execGateOpen_sound q u s h
  case gateClosed u => exact execGateClosed_sound u s h
  case gateCloseForce u => exact execGateCloseForce_sound u s h
  case gateOpened u => exact execGateOpened_sound u s h
  case powerOff q d => exact execPowerOff_sound q d s h
  case powerOn q d => exact execPowerOn_sound q d s h
  case por board => exact execPor_sound board s h
  case brownout => exact execBrownout_sound s h
  case pinReset => exact execPinReset_sound s h
  case nresetRise straps => exact execNresetRise_sound straps s h
  case softReset q => exact execSoftReset_sound q s h
  case thermalTrip => exact execThermalTrip_sound s h
  case resetEnd => exact execResetEnd_sound s h
  case supReady => exact execSupReady_sound s h
  case tempSample temps => exact execTempSample_sound temps s h
  case railSample r mv => exact execRailSample_sound r mv s h
  case autoLoad flash => exact execAutoLoad_sound flash s h
  case loadFull q flash => exact execLoadFull_sound q flash s h
  case loadPartial q flash => exact execLoadPartial_sound q flash s h
  case loadAbort q => exact execLoadAbort_sound q s h
  case streamWrite q len v => exact execStreamWrite_sound q len v s h
  case streamHeader => exact execStreamHeader_sound s h
  case chunkCheck => exact execChunkCheck_sound s h
  case manifestFrame c => exact execManifestFrame_sound c s h
  case cellFrame c => exact execCellFrame_sound c s h
  case routeFrame sels => exact execRouteFrame_sound sels s h
  case paneFrame => exact execPaneFrame_sound s h
  case ioFrame => exact execIoFrame_sound s h
  case endFrame => exact execEndFrame_sound s h
  case hostDataTimeout => exact execHostDataTimeout_sound s h
  case flpStart q => exact execFlpStart_sound q s h
  case flpAbort q => exact execFlpAbort_sound q s h
  case writeBbram q => exact execWriteBbram_sound q s h
  case zeroise q => exact execZeroise_sound q s h
  case fuseKey q => exact execFuseKey_sound q s h
  case fusePolicy q => exact execFusePolicy_sound q s h
  case keyCommandEnd ok => exact execKeyCommandEnd_sound ok s h
  case tamper cause => exact execTamper_sound cause s h
  case loupeFrameScan => exact execLoupeFrameScan_sound s h
  case loupeReload => exact execLoupeReload_sound s h
  case loupeReloadEnd ok => exact execLoupeReloadEnd_sound ok s h
  case heartbeatCheck => exact execHeartbeatCheck_sound s h
  case loupeEnWrite q v => exact execLoupeEnWrite_sound q v s h
  case cjSha256 q => exact execCjSha256_sound q s h
  case cjHmac q => exact execCjHmac_sound q s h
  case cryptoJobEnd => exact execCryptoJobEnd_sound s h
  case wdogWarn => exact execWdogWarn_sound s h
  case wdogExpiry => exact execWdogExpiry_sound s h
  case hostKick q v => exact execHostKick_sound q v s h
  case hostWdExpiry => exact execHostWdExpiry_sound s h
  case eventRaise => exact execEventRaise_sound s h
  case fabricEventPulse k => exact execFabricEventPulse_sound k s h
  case logPop q => exact execLogPop_sound q s h
  case ibiRequest ack => exact execIbiRequest_sound ack s h
  case ledgerCheck => exact execLedgerCheck_sound s h
  case extest => exact execExtest_sound s h
  case samplePreload => exact execSamplePreload_sound s h
  case idcode => exact execIdcode_sound s h
  case clamp => exact execClamp_sound s h
  case highz => exact execHighz_sound s h
  case extestPulse => exact execExtestPulse_sound s h
  case extestTrain => exact execExtestTrain_sound s h
  case dbgframe op tag o m len v => exact execDbgframe_sound op tag o m len v s h
  case bypass => exact execBypass_sound s h
  case trst => exact execTrst_sound s h
  case authCustomerL2 q => exact execAuthCustomerL2_sound q s h
  case authCustomerL3 q => exact execAuthCustomerL3_sound q s h
  case authVendor q => exact execAuthVendor_sound q s h
  case authDrop q => exact execAuthDrop_sound q s h
  case authResp q v => exact execAuthResp_sound q v s h
  case dbgFuseKey2 q => exact execDbgFuseKey2_sound q s h
  case dbgFuseKey3 q => exact execDbgFuseKey3_sound q s h
  case dbgFusePolicy q => exact execDbgFusePolicy_sound q s h
  case dbgReset q => exact execDbgReset_sound q s h
  case brkAlloc q => exact execBrkAlloc_sound q s h
  case brkCfgWrite q u v => exact execBrkCfgWrite_sound q u v s h
  case brkRearm q u => exact execBrkRearm_sound q u s h
  case brkFree q u => exact execBrkFree_sound q u s h
  case groupHaltLatch g => exact execGroupHaltLatch_sound g s h
  case dbgHalt q t => exact execDbgHalt_sound q t s h
  case dbgResume q t => exact execDbgResume_sound q t s h
  case dbgStep q t => exact execDbgStep_sound q t s h
  case molxoHaltLands => exact execMolxoHaltLands_sound s h
  case dbgRegAccess q t wr v => exact execDbgRegAccess_sound q t wr v s h
  case memDataWrite q len v => exact execMemDataWrite_sound q len v s h
  case memDataFetch q size => exact execMemDataFetch_sound q size s h
  case tDtxWrite q t v => exact execTDtxWrite_sound q t v s h
  case dtxRead q t => exact execDtxRead_sound q t s h
  case drxWrite q t v => exact execDrxWrite_sound q t v s h
  case tDrxRead q t => exact execTDrxRead_sound q t s h
  case retireWrite q k v => exact execRetireWrite_sound q k v s h
  case invalidHeader n => exact execInvalidHeader_sound n s h
  case prbsChecker n syms => exact execPrbsChecker_sound n syms s h
  case lrefLoss k => exact execLrefLoss_sound k s h
  case tailToHeadMove q => exact execTailToHeadMove_sound q s h
  case domainOff d => exact execDomainOff_sound d s h
  case flashTimeout => exact execFlashTimeout_sound s h
  case wdogRestart => exact execWdogRestart_sound s h
  case loupeHeartbeatIdle => exact execLoupeHeartbeatIdle_sound s h
  case pullselChange b v => exact execPullselChange_sound b v s h
  case vioRailChange b ok level => exact execVioRailChange_sound b ok level s h
structure OkOut (b : Bool) (o : Out) : Prop where
  next : b = true → ∃ t, o = .next t
  fault : ∀ f, o = .fault f → f = .noSuchUnit ∧ b = false
  refused : ∀ r, o ≠ .refused r
theorem ok_next {b : Bool} {t : State} : OkOut b (.next t) := ⟨fun _ => ⟨t, rfl⟩, nofun, nofun⟩
theorem ok_ite {b : Bool} {c : Prop} [Decidable c] {t : State} (h : b = true → c) : OkOut b (if c then .next t else .fault .noSuchUnit) := by
  split
  · exact ok_next
  · rename_i hc
    have hb : b = false := by cases b; rfl; exact absurd (h rfl) hc
    exact ⟨fun e => Bool.noConfusion (hb.symm.trans e), fun f e => by cases e; exact ⟨rfl, hb⟩, nofun⟩
theorem ok_unit {b : Bool} {n k : Nat} {t : State} (h : b = true → n < k) : OkOut b (unitCmd n k t) := ok_ite h
theorem cell_ok {b : Bool} {col row lo hi : Nat} {s : State} (h : b = true → col < 256 ∧ row < 512) : OkOut b (cellCommand col row lo hi s) := by
  unfold cellCommand
  split
  · dsimp only
    split <;> exact ok_next
  · rename_i hc
    have hb : b = false := by cases b; rfl; exact absurd (h rfl) hc
    exact ⟨fun e => Bool.noConfusion (hb.symm.trans e), fun f e => by cases e; exact ⟨rfl, hb⟩, nofun⟩
set_option Elab.async false in
theorem exec_ok (i : Instr) (s : State) : OkOut i.wf (exec i s) := by
  cases i
  case dictRead q o m len v => exact ok_next
  case dictWrite q o m len v => exact ok_next
  case fetch q o m len v => exact ok_next
  case mread q o m => exact ok_next
  case mdrop q o m => exact ok_next
  case fetchComplete master o m => exact ok_next
  case responseRead => exact ok_next
  case i2cTransfer rd op tag o m len v => exact ok_next
  case enec dest events => exact ok_next
  case disec dest events => exact ok_next
  case rstdaa => exact ok_next
  case entdaa addr rivals => exact ok_next
  case setaasa => exact ok_next
  case setdasa dest addr => exact ok_next
  case setnewda dest addr => exact ok_next
  case setmwl dest v => exact ok_next
  case setmrl dest v => exact ok_next
  case getmwl dest => exact ok_next
  case getmrl dest => exact ok_next
  case getpid dest => exact ok_next
  case getbcr dest => exact ok_next
  case getdcr dest => exact ok_next
  case getstatus dest => exact ok_next
  case enthdr0 => exact ok_next
  case enthdrUnsupported k =>
    show OkOut _ (execEnthdrUnsupported k s)
    unfold execEnthdrUnsupported
    first
    | exact ok_next
    | (refine ok_unit ?_
       intro h
       simp [Instr.wf] at h
       omega)
    | (refine ok_ite ?_
       intro h
       simp [Instr.wf] at h
       omega)
    | (refine ok_ite ?_
       intro h
       simp [Instr.wf, upsetOk, bits] at h
       omega)
  case hdrExit => exact ok_next
  case rstact dest b => exact ok_next
  case targetResetPattern => exact ok_next
  case unsupportedCcc dest => exact ok_next
  case mgmtSlotIdleTimeout k =>
    show OkOut _ (execMgmtSlotIdleTimeout k s)
    unfold execMgmtSlotIdleTimeout
    first
    | exact ok_next
    | (refine ok_unit ?_
       intro h
       simp [Instr.wf] at h
       omega)
    | (refine ok_ite ?_
       intro h
       simp [Instr.wf] at h
       omega)
    | (refine ok_ite ?_
       intro h
       simp [Instr.wf, upsetOk, bits] at h
       omega)
  case dictWindowAccess r => exact ok_next
  case statsClr q v => exact ok_next
  case meshDataWrite q len v => exact ok_next
  case meshDataFetch q size => exact ok_next
  case mirrorLeaseExpiry => exact ok_next
  case batchCheck q v => exact ok_next
  case batchCheckEnd => exact ok_next
  case batchDiscard q v => exact ok_next
  case applyArm q v => exact ok_next
  case applyCancel q v => exact ok_next
  case syncinCapture level => exact ok_next
  case apply => exact ok_next
  case veEnable q n =>
    show OkOut _ (execVeEnable q n s)
    unfold execVeEnable
    first
    | exact ok_next
    | (refine ok_unit ?_
       intro h
       simp [Instr.wf] at h
       omega)
    | (refine ok_ite ?_
       intro h
       simp [Instr.wf] at h
       omega)
    | (refine ok_ite ?_
       intro h
       simp [Instr.wf, upsetOk, bits] at h
       omega)
  case veDisable q n =>
    show OkOut _ (execVeDisable q n s)
    unfold execVeDisable
    first
    | exact ok_next
    | (refine ok_unit ?_
       intro h
       simp [Instr.wf] at h
       omega)
    | (refine ok_ite ?_
       intro h
       simp [Instr.wf] at h
       omega)
    | (refine ok_ite ?_
       intro h
       simp [Instr.wf, upsetOk, bits] at h
       omega)
  case veStart q n =>
    show OkOut _ (execVeStart q n s)
    unfold execVeStart
    first
    | exact ok_next
    | (refine ok_unit ?_
       intro h
       simp [Instr.wf] at h
       omega)
    | (refine ok_ite ?_
       intro h
       simp [Instr.wf] at h
       omega)
    | (refine ok_ite ?_
       intro h
       simp [Instr.wf, upsetOk, bits] at h
       omega)
  case veStartAt q n =>
    show OkOut _ (execVeStartAt q n s)
    unfold execVeStartAt
    first
    | exact ok_next
    | (refine ok_unit ?_
       intro h
       simp [Instr.wf] at h
       omega)
    | (refine ok_ite ?_
       intro h
       simp [Instr.wf] at h
       omega)
    | (refine ok_ite ?_
       intro h
       simp [Instr.wf, upsetOk, bits] at h
       omega)
  case veHalt q n =>
    show OkOut _ (execVeHalt q n s)
    unfold execVeHalt
    first
    | exact ok_next
    | (refine ok_unit ?_
       intro h
       simp [Instr.wf] at h
       omega)
    | (refine ok_ite ?_
       intro h
       simp [Instr.wf] at h
       omega)
    | (refine ok_ite ?_
       intro h
       simp [Instr.wf, upsetOk, bits] at h
       omega)
  case veResume q n =>
    show OkOut _ (execVeResume q n s)
    unfold execVeResume
    first
    | exact ok_next
    | (refine ok_unit ?_
       intro h
       simp [Instr.wf] at h
       omega)
    | (refine ok_ite ?_
       intro h
       simp [Instr.wf] at h
       omega)
    | (refine ok_ite ?_
       intro h
       simp [Instr.wf, upsetOk, bits] at h
       omega)
  case veStop q n =>
    show OkOut _ (execVeStop q n s)
    unfold execVeStop
    first
    | exact ok_next
    | (refine ok_unit ?_
       intro h
       simp [Instr.wf] at h
       omega)
    | (refine ok_ite ?_
       intro h
       simp [Instr.wf] at h
       omega)
    | (refine ok_ite ?_
       intro h
       simp [Instr.wf, upsetOk, bits] at h
       omega)
  case veClearFault q n =>
    show OkOut _ (execVeClearFault q n s)
    unfold execVeClearFault
    first
    | exact ok_next
    | (refine ok_unit ?_
       intro h
       simp [Instr.wf] at h
       omega)
    | (refine ok_ite ?_
       intro h
       simp [Instr.wf] at h
       omega)
    | (refine ok_ite ?_
       intro h
       simp [Instr.wf, upsetOk, bits] at h
       omega)
  case veSelfcheck q n =>
    show OkOut _ (execVeSelfcheck q n s)
    unfold execVeSelfcheck
    first
    | exact ok_next
    | (refine ok_unit ?_
       intro h
       simp [Instr.wf] at h
       omega)
    | (refine ok_ite ?_
       intro h
       simp [Instr.wf] at h
       omega)
    | (refine ok_ite ?_
       intro h
       simp [Instr.wf, upsetOk, bits] at h
       omega)
  case veSelfcheckEnd n pass =>
    show OkOut _ (execVeSelfcheckEnd n pass s)
    unfold execVeSelfcheckEnd
    first
    | exact ok_next
    | (refine ok_unit ?_
       intro h
       simp [Instr.wf] at h
       omega)
    | (refine ok_ite ?_
       intro h
       simp [Instr.wf] at h
       omega)
    | (refine ok_ite ?_
       intro h
       simp [Instr.wf, upsetOk, bits] at h
       omega)
  case veStartEdge n =>
    show OkOut _ (execVeStartEdge n s)
    unfold execVeStartEdge
    first
    | exact ok_next
    | (refine ok_unit ?_
       intro h
       simp [Instr.wf] at h
       omega)
    | (refine ok_ite ?_
       intro h
       simp [Instr.wf] at h
       omega)
    | (refine ok_ite ?_
       intro h
       simp [Instr.wf, upsetOk, bits] at h
       omega)
  case vec n smp =>
    show OkOut _ (execVec n smp s)
    unfold execVec wordCommand
    first
    | exact ok_next
    | (refine ok_unit ?_
       intro h
       simp [Instr.wf] at h
       omega)
    | (refine ok_ite ?_
       intro h
       simp [Instr.wf] at h
       omega)
    | (refine ok_ite ?_
       intro h
       simp [Instr.wf, upsetOk, bits] at h
       omega)
  case rpt n smp =>
    show OkOut _ (execRpt n smp s)
    unfold execRpt wordCommand
    first
    | exact ok_next
    | (refine ok_unit ?_
       intro h
       simp [Instr.wf] at h
       omega)
    | (refine ok_ite ?_
       intro h
       simp [Instr.wf] at h
       omega)
    | (refine ok_ite ?_
       intro h
       simp [Instr.wf, upsetOk, bits] at h
       omega)
  case veLdc n smp =>
    show OkOut _ (execVeLdc n smp s)
    unfold execVeLdc wordCommand
    first
    | exact ok_next
    | (refine ok_unit ?_
       intro h
       simp [Instr.wf] at h
       omega)
    | (refine ok_ite ?_
       intro h
       simp [Instr.wf] at h
       omega)
    | (refine ok_ite ?_
       intro h
       simp [Instr.wf, upsetOk, bits] at h
       omega)
  case loop n smp =>
    show OkOut _ (execLoop n smp s)
    unfold execLoop wordCommand
    first
    | exact ok_next
    | (refine ok_unit ?_
       intro h
       simp [Instr.wf] at h
       omega)
    | (refine ok_ite ?_
       intro h
       simp [Instr.wf] at h
       omega)
    | (refine ok_ite ?_
       intro h
       simp [Instr.wf, upsetOk, bits] at h
       omega)
  case veJmp n smp =>
    show OkOut _ (execVeJmp n smp s)
    unfold execVeJmp wordCommand
    first
    | exact ok_next
    | (refine ok_unit ?_
       intro h
       simp [Instr.wf] at h
       omega)
    | (refine ok_ite ?_
       intro h
       simp [Instr.wf] at h
       omega)
    | (refine ok_ite ?_
       intro h
       simp [Instr.wf, upsetOk, bits] at h
       omega)
  case call n smp =>
    show OkOut _ (execCall n smp s)
    unfold execCall wordCommand
    first
    | exact ok_next
    | (refine ok_unit ?_
       intro h
       simp [Instr.wf] at h
       omega)
    | (refine ok_ite ?_
       intro h
       simp [Instr.wf] at h
       omega)
    | (refine ok_ite ?_
       intro h
       simp [Instr.wf, upsetOk, bits] at h
       omega)
  case ret n smp =>
    show OkOut _ (execRet n smp s)
    unfold execRet wordCommand
    first
    | exact ok_next
    | (refine ok_unit ?_
       intro h
       simp [Instr.wf] at h
       omega)
    | (refine ok_ite ?_
       intro h
       simp [Instr.wf] at h
       omega)
    | (refine ok_ite ?_
       intro h
       simp [Instr.wf, upsetOk, bits] at h
       omega)
  case jc n smp =>
    show OkOut _ (execJc n smp s)
    unfold execJc wordCommand
    first
    | exact ok_next
    | (refine ok_unit ?_
       intro h
       simp [Instr.wf] at h
       omega)
    | (refine ok_ite ?_
       intro h
       simp [Instr.wf] at h
       omega)
    | (refine ok_ite ?_
       intro h
       simp [Instr.wf, upsetOk, bits] at h
       omega)
  case clrf n smp =>
    show OkOut _ (execClrf n smp s)
    unfold execClrf wordCommand
    first
    | exact ok_next
    | (refine ok_unit ?_
       intro h
       simp [Instr.wf] at h
       omega)
    | (refine ok_ite ?_
       intro h
       simp [Instr.wf] at h
       omega)
    | (refine ok_ite ?_
       intro h
       simp [Instr.wf, upsetOk, bits] at h
       omega)
  case mbeg n smp =>
    show OkOut _ (execMbeg n smp s)
    unfold execMbeg wordCommand
    first
    | exact ok_next
    | (refine ok_unit ?_
       intro h
       simp [Instr.wf] at h
       omega)
    | (refine ok_ite ?_
       intro h
       simp [Instr.wf] at h
       omega)
    | (refine ok_ite ?_
       intro h
       simp [Instr.wf, upsetOk, bits] at h
       omega)
  case matchEnd n smp =>
    show OkOut _ (execMatchEnd n smp s)
    unfold execMatchEnd wordCommand
    first
    | exact ok_next
    | (refine ok_unit ?_
       intro h
       simp [Instr.wf] at h
       omega)
    | (refine ok_ite ?_
       intro h
       simp [Instr.wf] at h
       omega)
    | (refine ok_ite ?_
       intro h
       simp [Instr.wf, upsetOk, bits] at h
       omega)
  case bar n smp =>
    show OkOut _ (execBar n smp s)
    unfold execBar wordCommand
    first
    | exact ok_next
    | (refine ok_unit ?_
       intro h
       simp [Instr.wf] at h
       omega)
    | (refine ok_ite ?_
       intro h
       simp [Instr.wf] at h
       omega)
    | (refine ok_ite ?_
       intro h
       simp [Instr.wf, upsetOk, bits] at h
       omega)
  case veEvt n smp =>
    show OkOut _ (execVeEvt n smp s)
    unfold execVeEvt wordCommand
    first
    | exact ok_next
    | (refine ok_unit ?_
       intro h
       simp [Instr.wf] at h
       omega)
    | (refine ok_ite ?_
       intro h
       simp [Instr.wf] at h
       omega)
    | (refine ok_ite ?_
       intro h
       simp [Instr.wf, upsetOk, bits] at h
       omega)
  case veHaltWord n smp =>
    show OkOut _ (execVeHaltWord n smp s)
    unfold execVeHaltWord wordCommand
    split <;> refine ok_unit ?_ <;> intro h <;> simp [Instr.wf] at h <;> omega
  case barrierRelease mask => exact ok_next
  case barrierError n =>
    show OkOut _ (execBarrierError n s)
    unfold execBarrierError
    first
    | exact ok_next
    | (refine ok_unit ?_
       intro h
       simp [Instr.wf] at h
       omega)
    | (refine ok_ite ?_
       intro h
       simp [Instr.wf] at h
       omega)
    | (refine ok_ite ?_
       intro h
       simp [Instr.wf, upsetOk, bits] at h
       omega)
  case veHaltTakesEffect n =>
    show OkOut _ (execVeHaltTakesEffect n s)
    unfold execVeHaltTakesEffect
    first
    | exact ok_next
    | (refine ok_unit ?_
       intro h
       simp [Instr.wf] at h
       omega)
    | (refine ok_ite ?_
       intro h
       simp [Instr.wf] at h
       omega)
    | (refine ok_ite ?_
       intro h
       simp [Instr.wf, upsetOk, bits] at h
       omega)
  case veStopTakesEffect n =>
    show OkOut _ (execVeStopTakesEffect n s)
    unfold execVeStopTakesEffect
    first
    | exact ok_next
    | (refine ok_unit ?_
       intro h
       simp [Instr.wf] at h
       omega)
    | (refine ok_ite ?_
       intro h
       simp [Instr.wf] at h
       omega)
    | (refine ok_ite ?_
       intro h
       simp [Instr.wf, upsetOk, bits] at h
       omega)
  case veResumeLands n =>
    show OkOut _ (execVeResumeLands n s)
    unfold execVeResumeLands
    first
    | exact ok_next
    | (refine ok_unit ?_
       intro h
       simp [Instr.wf] at h
       omega)
    | (refine ok_ite ?_
       intro h
       simp [Instr.wf] at h
       omega)
    | (refine ok_ite ?_
       intro h
       simp [Instr.wf, upsetOk, bits] at h
       omega)
  case applyLandsRunning n =>
    show OkOut _ (execApplyLandsRunning n s)
    unfold execApplyLandsRunning
    first
    | exact ok_next
    | (refine ok_unit ?_
       intro h
       simp [Instr.wf] at h
       omega)
    | (refine ok_ite ?_
       intro h
       simp [Instr.wf] at h
       omega)
    | (refine ok_ite ?_
       intro h
       simp [Instr.wf, upsetOk, bits] at h
       omega)
  case patternTimeout n =>
    show OkOut _ (execPatternTimeout n s)
    unfold execPatternTimeout
    first
    | exact ok_next
    | (refine ok_unit ?_
       intro h
       simp [Instr.wf] at h
       omega)
    | (refine ok_ite ?_
       intro h
       simp [Instr.wf] at h
       omega)
    | (refine ok_ite ?_
       intro h
       simp [Instr.wf, upsetOk, bits] at h
       omega)
  case lineReadIssue n =>
    show OkOut _ (execLineReadIssue n s)
    unfold execLineReadIssue
    first
    | exact ok_next
    | (refine ok_unit ?_
       intro h
       simp [Instr.wf] at h
       omega)
    | (refine ok_ite ?_
       intro h
       simp [Instr.wf] at h
       omega)
    | (refine ok_ite ?_
       intro h
       simp [Instr.wf, upsetOk, bits] at h
       omega)
  case lineReadComplete n line =>
    show OkOut _ (execLineReadComplete n line s)
    unfold execLineReadComplete
    first
    | exact ok_next
    | (refine ok_unit ?_
       intro h
       simp [Instr.wf] at h
       omega)
    | (refine ok_ite ?_
       intro h
       simp [Instr.wf] at h
       omega)
    | (refine ok_ite ?_
       intro h
       simp [Instr.wf, upsetOk, bits] at h
       omega)
  case apgTransfer n =>
    show OkOut _ (execApgTransfer n s)
    unfold execApgTransfer
    first
    | exact ok_next
    | (refine ok_unit ?_
       intro h
       simp [Instr.wf] at h
       omega)
    | (refine ok_ite ?_
       intro h
       simp [Instr.wf] at h
       omega)
    | (refine ok_ite ?_
       intro h
       simp [Instr.wf, upsetOk, bits] at h
       omega)
  case cellPass col row => exact cell_ok (by simp [Instr.wf])
  case cellAdd col row => exact cell_ok (by simp [Instr.wf])
  case cellSub col row => exact cell_ok (by simp [Instr.wf])
  case cellAnd col row => exact cell_ok (by simp [Instr.wf])
  case cellOr col row => exact cell_ok (by simp [Instr.wf])
  case cellXor col row => exact cell_ok (by simp [Instr.wf])
  case cellAndn col row => exact cell_ok (by simp [Instr.wf])
  case cellNot col row => exact cell_ok (by simp [Instr.wf])
  case cellShl1 col row => exact cell_ok (by simp [Instr.wf])
  case cellShl col row => exact cell_ok (by simp [Instr.wf])
  case cellShr col row => exact cell_ok (by simp [Instr.wf])
  case cellRol col row => exact cell_ok (by simp [Instr.wf])
  case cellBrev col row => exact cell_ok (by simp [Instr.wf])
  case cellBsel col row => exact cell_ok (by simp [Instr.wf])
  case cellEq col row => exact cell_ok (by simp [Instr.wf])
  case cellPar col row => exact cell_ok (by simp [Instr.wf])
  case cellCntk col row => exact cell_ok (by simp [Instr.wf])
  case cellMin col row => exact cell_ok (by simp [Instr.wf])
  case cellMax col row => exact cell_ok (by simp [Instr.wf])
  case cellReservedOp col row => exact cell_ok (by simp [Instr.wf])
  case configUpset u =>
    show OkOut _ (execConfigUpset u s)
    unfold execConfigUpset
    first
    | exact ok_next
    | (refine ok_unit ?_
       intro h
       simp [Instr.wf] at h
       omega)
    | (refine ok_ite ?_
       intro h
       simp [Instr.wf] at h
       omega)
    | (refine ok_ite ?_
       intro h
       simp [Instr.wf, upsetOk, bits] at h
       omega)
  case facetRelease q f =>
    show OkOut _ (execFacetRelease q f s)
    unfold execFacetRelease
    first
    | exact ok_next
    | (refine ok_unit ?_
       intro h
       simp [Instr.wf] at h
       omega)
    | (refine ok_ite ?_
       intro h
       simp [Instr.wf] at h
       omega)
    | (refine ok_ite ?_
       intro h
       simp [Instr.wf, upsetOk, bits] at h
       omega)
  case facetHold q f =>
    show OkOut _ (execFacetHold q f s)
    unfold execFacetHold
    first
    | exact ok_next
    | (refine ok_unit ?_
       intro h
       simp [Instr.wf] at h
       omega)
    | (refine ok_ite ?_
       intro h
       simp [Instr.wf] at h
       omega)
    | (refine ok_ite ?_
       intro h
       simp [Instr.wf, upsetOk, bits] at h
       omega)
  case facetReleaseLands f =>
    show OkOut _ (execFacetReleaseLands f s)
    unfold execFacetReleaseLands
    first
    | exact ok_next
    | (refine ok_unit ?_
       intro h
       simp [Instr.wf] at h
       omega)
    | (refine ok_ite ?_
       intro h
       simp [Instr.wf] at h
       omega)
    | (refine ok_ite ?_
       intro h
       simp [Instr.wf, upsetOk, bits] at h
       omega)
  case facetHoldLands f =>
    show OkOut _ (execFacetHoldLands f s)
    unfold execFacetHoldLands
    first
    | exact ok_next
    | (refine ok_unit ?_
       intro h
       simp [Instr.wf] at h
       omega)
    | (refine ok_ite ?_
       intro h
       simp [Instr.wf] at h
       omega)
    | (refine ok_ite ?_
       intro h
       simp [Instr.wf, upsetOk, bits] at h
       omega)
  case userInWrite q f k v =>
    show OkOut _ (execUserInWrite q f k v s)
    unfold execUserInWrite
    first
    | exact ok_next
    | (refine ok_unit ?_
       intro h
       simp [Instr.wf] at h
       omega)
    | (refine ok_ite ?_
       intro h
       simp [Instr.wf] at h
       omega)
    | (refine ok_ite ?_
       intro h
       simp [Instr.wf, upsetOk, bits] at h
       omega)
  case userReq f =>
    show OkOut _ (execUserReq f s)
    unfold execUserReq
    first
    | exact ok_next
    | (refine ok_unit ?_
       intro h
       simp [Instr.wf] at h
       omega)
    | (refine ok_ite ?_
       intro h
       simp [Instr.wf] at h
       omega)
    | (refine ok_ite ?_
       intro h
       simp [Instr.wf, upsetOk, bits] at h
       omega)
  case facetMeshRequest f op addr len data =>
    show OkOut _ (execFacetMeshRequest f op addr len data s)
    unfold execFacetMeshRequest
    first
    | exact ok_next
    | (refine ok_unit ?_
       intro h
       simp [Instr.wf] at h
       omega)
    | (refine ok_ite ?_
       intro h
       simp [Instr.wf] at h
       omega)
    | (refine ok_ite ?_
       intro h
       simp [Instr.wf, upsetOk, bits] at h
       omega)
  case focus q => exact ok_next
  case edgSelfcheck q => exact ok_next
  case focusAbort q => exact ok_next
  case focusChannelEnd ch found =>
    show OkOut _ (execFocusChannelEnd ch found s)
    unfold execFocusChannelEnd
    first
    | exact ok_next
    | (refine ok_unit ?_
       intro h
       simp [Instr.wf] at h
       omega)
    | (refine ok_ite ?_
       intro h
       simp [Instr.wf] at h
       omega)
    | (refine ok_ite ?_
       intro h
       simp [Instr.wf, upsetOk, bits] at h
       omega)
  case selfcheckChannelEnd ch pass =>
    show OkOut _ (execSelfcheckChannelEnd ch pass s)
    unfold execSelfcheckChannelEnd
    first
    | exact ok_next
    | (refine ok_unit ?_
       intro h
       simp [Instr.wf] at h
       omega)
    | (refine ok_ite ?_
       intro h
       simp [Instr.wf] at h
       omega)
    | (refine ok_ite ?_
       intro h
       simp [Instr.wf, upsetOk, bits] at h
       omega)
  case tempTrackSample g temp =>
    show OkOut _ (execTempTrackSample g temp s)
    unfold execTempTrackSample
    first
    | exact ok_next
    | (refine ok_unit ?_
       intro h
       simp [Instr.wf] at h
       omega)
    | (refine ok_ite ?_
       intro h
       simp [Instr.wf] at h
       omega)
    | (refine ok_ite ?_
       intro h
       simp [Instr.wf, upsetOk, bits] at h
       omega)
  case trimCommit q => exact ok_next
  case trimImport q => exact ok_next
  case trimWriteEnd => exact ok_next
  case failCycle n =>
    show OkOut _ (execFailCycle n s)
    unfold execFailCycle
    first
    | exact ok_next
    | (refine ok_unit ?_
       intro h
       simp [Instr.wf] at h
       omega)
    | (refine ok_ite ?_
       intro h
       simp [Instr.wf] at h
       omega)
    | (refine ok_ite ?_
       intro h
       simp [Instr.wf, upsetOk, bits] at h
       omega)
  case recordToTail n =>
    show OkOut _ (execRecordToTail n s)
    unfold execRecordToTail
    first
    | exact ok_next
    | (refine ok_unit ?_
       intro h
       simp [Instr.wf] at h
       omega)
    | (refine ok_ite ?_
       intro h
       simp [Instr.wf] at h
       omega)
    | (refine ok_ite ?_
       intro h
       simp [Instr.wf, upsetOk, bits] at h
       omega)
  case ringWriteIssue q =>
    show OkOut _ (execRingWriteIssue q s)
    unfold execRingWriteIssue
    first
    | exact ok_next
    | (refine ok_unit ?_
       intro h
       simp [Instr.wf] at h
       omega)
    | (refine ok_ite ?_
       intro h
       simp [Instr.wf] at h
       omega)
    | (refine ok_ite ?_
       intro h
       simp [Instr.wf, upsetOk, bits] at h
       omega)
  case ringReadIssue q =>
    show OkOut _ (execRingReadIssue q s)
    unfold execRingReadIssue
    first
    | exact ok_next
    | (refine ok_unit ?_
       intro h
       simp [Instr.wf] at h
       omega)
    | (refine ok_ite ?_
       intro h
       simp [Instr.wf] at h
       omega)
    | (refine ok_ite ?_
       intro h
       simp [Instr.wf, upsetOk, bits] at h
       omega)
  case ringWriteDone q line err =>
    show OkOut _ (execRingWriteDone q line err s)
    unfold execRingWriteDone
    first
    | exact ok_next
    | (refine ok_unit ?_
       intro h
       simp [Instr.wf] at h
       omega)
    | (refine ok_ite ?_
       intro h
       simp [Instr.wf] at h
       omega)
    | (refine ok_ite ?_
       intro h
       simp [Instr.wf, upsetOk, bits] at h
       omega)
  case ringReadDone q err =>
    show OkOut _ (execRingReadDone q err s)
    unfold execRingReadDone
    first
    | exact ok_next
    | (refine ok_unit ?_
       intro h
       simp [Instr.wf] at h
       omega)
    | (refine ok_ite ?_
       intro h
       simp [Instr.wf] at h
       omega)
    | (refine ok_ite ?_
       intro h
       simp [Instr.wf, upsetOk, bits] at h
       omega)
  case pop r q =>
    show OkOut _ (execPop r q s)
    unfold execPop
    first
    | exact ok_next
    | (refine ok_unit ?_
       intro h
       simp [Instr.wf] at h
       omega)
    | (refine ok_ite ?_
       intro h
       simp [Instr.wf] at h
       omega)
    | (refine ok_ite ?_
       intro h
       simp [Instr.wf, upsetOk, bits] at h
       omega)
  case poprec r q =>
    show OkOut _ (execPoprec r q s)
    unfold execPoprec
    first
    | exact ok_next
    | (refine ok_unit ?_
       intro h
       simp [Instr.wf] at h
       omega)
    | (refine ok_ite ?_
       intro h
       simp [Instr.wf] at h
       omega)
    | (refine ok_ite ?_
       intro h
       simp [Instr.wf, upsetOk, bits] at h
       omega)
  case queueEnable r q =>
    show OkOut _ (execQueueEnable r q s)
    unfold execQueueEnable
    first
    | exact ok_next
    | (refine ok_unit ?_
       intro h
       simp [Instr.wf] at h
       omega)
    | (refine ok_ite ?_
       intro h
       simp [Instr.wf] at h
       omega)
    | (refine ok_ite ?_
       intro h
       simp [Instr.wf, upsetOk, bits] at h
       omega)
  case queueDisable r q =>
    show OkOut _ (execQueueDisable r q s)
    unfold execQueueDisable
    first
    | exact ok_next
    | (refine ok_unit ?_
       intro h
       simp [Instr.wf] at h
       omega)
    | (refine ok_ite ?_
       intro h
       simp [Instr.wf] at h
       omega)
    | (refine ok_ite ?_
       intro h
       simp [Instr.wf, upsetOk, bits] at h
       omega)
  case flush r q =>
    show OkOut _ (execFlush r q s)
    unfold execFlush
    first
    | exact ok_next
    | (refine ok_unit ?_
       intro h
       simp [Instr.wf] at h
       omega)
    | (refine ok_ite ?_
       intro h
       simp [Instr.wf] at h
       omega)
    | (refine ok_ite ?_
       intro h
       simp [Instr.wf, upsetOk, bits] at h
       omega)
  case push r q v =>
    show OkOut _ (execPush r q v s)
    unfold execPush
    first
    | exact ok_next
    | (refine ok_unit ?_
       intro h
       simp [Instr.wf] at h
       omega)
    | (refine ok_ite ?_
       intro h
       simp [Instr.wf] at h
       omega)
    | (refine ok_ite ?_
       intro h
       simp [Instr.wf, upsetOk, bits] at h
       omega)
  case pushEnd r q v =>
    show OkOut _ (execPushEnd r q v s)
    unfold execPushEnd
    first
    | exact ok_next
    | (refine ok_unit ?_
       intro h
       simp [Instr.wf] at h
       omega)
    | (refine ok_ite ?_
       intro h
       simp [Instr.wf] at h
       omega)
    | (refine ok_ite ?_
       intro h
       simp [Instr.wf, upsetOk, bits] at h
       omega)
  case fcountClr r c v =>
    show OkOut _ (execFcountClr r c v s)
    unfold execFcountClr
    first
    | exact ok_next
    | (refine ok_unit ?_
       intro h
       simp [Instr.wf] at h
       omega)
    | (refine ok_ite ?_
       intro h
       simp [Instr.wf] at h
       omega)
    | (refine ok_ite ?_
       intro h
       simp [Instr.wf, upsetOk, bits] at h
       omega)
  case mergeTimeout n =>
    show OkOut _ (execMergeTimeout n s)
    unfold execMergeTimeout
    first
    | exact ok_next
    | (refine ok_unit ?_
       intro h
       simp [Instr.wf] at h
       omega)
    | (refine ok_ite ?_
       intro h
       simp [Instr.wf] at h
       omega)
    | (refine ok_ite ?_
       intro h
       simp [Instr.wf, upsetOk, bits] at h
       omega)
  case bitmapIssue n =>
    show OkOut _ (execBitmapIssue n s)
    unfold execBitmapIssue
    first
    | exact ok_next
    | (refine ok_unit ?_
       intro h
       simp [Instr.wf] at h
       omega)
    | (refine ok_ite ?_
       intro h
       simp [Instr.wf] at h
       omega)
    | (refine ok_ite ?_
       intro h
       simp [Instr.wf, upsetOk, bits] at h
       omega)
  case dmcTrain q n =>
    show OkOut _ (execDmcTrain q n s)
    unfold execDmcTrain
    first
    | exact ok_next
    | (refine ok_unit ?_
       intro h
       simp [Instr.wf] at h
       omega)
    | (refine ok_ite ?_
       intro h
       simp [Instr.wf] at h
       omega)
    | (refine ok_ite ?_
       intro h
       simp [Instr.wf, upsetOk, bits] at h
       omega)
  case dmcRetrain q n =>
    show OkOut _ (execDmcRetrain q n s)
    unfold execDmcRetrain
    first
    | exact ok_next
    | (refine ok_unit ?_
       intro h
       simp [Instr.wf] at h
       omega)
    | (refine ok_ite ?_
       intro h
       simp [Instr.wf] at h
       omega)
    | (refine ok_ite ?_
       intro h
       simp [Instr.wf, upsetOk, bits] at h
       omega)
  case autoTrainStart => exact ok_next
  case trainingEnd n eye =>
    show OkOut _ (execTrainingEnd n eye s)
    unfold execTrainingEnd
    first
    | exact ok_next
    | (refine ok_unit ?_
       intro h
       simp [Instr.wf] at h
       omega)
    | (refine ok_ite ?_
       intro h
       simp [Instr.wf] at h
       omega)
    | (refine ok_ite ?_
       intro h
       simp [Instr.wf, upsetOk, bits] at h
       omega)
  case retrainingEnd n ok =>
    show OkOut _ (execRetrainingEnd n ok s)
    unfold execRetrainingEnd
    first
    | exact ok_next
    | (refine ok_unit ?_
       intro h
       simp [Instr.wf] at h
       omega)
    | (refine ok_ite ?_
       intro h
       simp [Instr.wf] at h
       omega)
    | (refine ok_ite ?_
       intro h
       simp [Instr.wf, upsetOk, bits] at h
       omega)
  case autoRetrain n =>
    show OkOut _ (execAutoRetrain n s)
    unfold execAutoRetrain
    first
    | exact ok_next
    | (refine ok_unit ?_
       intro h
       simp [Instr.wf] at h
       omega)
    | (refine ok_ite ?_
       intro h
       simp [Instr.wf] at h
       omega)
    | (refine ok_ite ?_
       intro h
       simp [Instr.wf, upsetOk, bits] at h
       omega)
  case dimmTempRead n temp =>
    show OkOut _ (execDimmTempRead n temp s)
    unfold execDimmTempRead
    first
    | exact ok_next
    | (refine ok_unit ?_
       intro h
       simp [Instr.wf] at h
       omega)
    | (refine ok_ite ?_
       intro h
       simp [Instr.wf] at h
       omega)
    | (refine ok_ite ?_
       intro h
       simp [Instr.wf, upsetOk, bits] at h
       omega)
  case mapForm => exact ok_next
  case excludeWrite q v => exact ok_next
  case dmcAccept n =>
    show OkOut _ (execDmcAccept n s)
    unfold execDmcAccept
    first
    | exact ok_next
    | (refine ok_unit ?_
       intro h
       simp [Instr.wf] at h
       omega)
    | (refine ok_ite ?_
       intro h
       simp [Instr.wf] at h
       omega)
    | (refine ok_ite ?_
       intro h
       simp [Instr.wf, upsetOk, bits] at h
       omega)
  case dmcAccessIssue n =>
    show OkOut _ (execDmcAccessIssue n s)
    unfold execDmcAccessIssue
    first
    | exact ok_next
    | (refine ok_unit ?_
       intro h
       simp [Instr.wf] at h
       omega)
    | (refine ok_ite ?_
       intro h
       simp [Instr.wf] at h
       omega)
    | (refine ok_ite ?_
       intro h
       simp [Instr.wf, upsetOk, bits] at h
       omega)
  case dmcAccessComplete n ecc =>
    show OkOut _ (execDmcAccessComplete n ecc s)
    unfold execDmcAccessComplete
    first
    | exact ok_next
    | (refine ok_unit ?_
       intro h
       simp [Instr.wf] at h
       omega)
    | (refine ok_ite ?_
       intro h
       simp [Instr.wf] at h
       omega)
    | (refine ok_ite ?_
       intro h
       simp [Instr.wf, upsetOk, bits] at h
       omega)
  case agePromotion n =>
    show OkOut _ (execAgePromotion n s)
    unfold execAgePromotion
    first
    | exact ok_next
    | (refine ok_unit ?_
       intro h
       simp [Instr.wf] at h
       omega)
    | (refine ok_ite ?_
       intro h
       simp [Instr.wf] at h
       omega)
    | (refine ok_ite ?_
       intro h
       simp [Instr.wf, upsetOk, bits] at h
       omega)
  case throttleEnd n =>
    show OkOut _ (execThrottleEnd n s)
    unfold execThrottleEnd
    first
    | exact ok_next
    | (refine ok_unit ?_
       intro h
       simp [Instr.wf] at h
       omega)
    | (refine ok_ite ?_
       intro h
       simp [Instr.wf] at h
       omega)
    | (refine ok_ite ?_
       intro h
       simp [Instr.wf, upsetOk, bits] at h
       omega)
  case rowTableClear n =>
    show OkOut _ (execRowTableClear n s)
    unfold execRowTableClear
    first
    | exact ok_next
    | (refine ok_unit ?_
       intro h
       simp [Instr.wf] at h
       omega)
    | (refine ok_ite ?_
       intro h
       simp [Instr.wf] at h
       omega)
    | (refine ok_ite ?_
       intro h
       simp [Instr.wf, upsetOk, bits] at h
       omega)
  case refresh n =>
    show OkOut _ (execRefresh n s)
    unfold execRefresh
    first
    | exact ok_next
    | (refine ok_unit ?_
       intro h
       simp [Instr.wf] at h
       omega)
    | (refine ok_ite ?_
       intro h
       simp [Instr.wf] at h
       omega)
    | (refine ok_ite ?_
       intro h
       simp [Instr.wf, upsetOk, bits] at h
       omega)
  case patrolScrub n ecc =>
    show OkOut _ (execPatrolScrub n ecc s)
    unfold execPatrolScrub
    first
    | exact ok_next
    | (refine ok_unit ?_
       intro h
       simp [Instr.wf] at h
       omega)
    | (refine ok_ite ?_
       intro h
       simp [Instr.wf] at h
       omega)
    | (refine ok_ite ?_
       intro h
       simp [Instr.wf, upsetOk, bits] at h
       omega)
  case retainWrite q v => exact ok_next
  case paneFabricAccess p bad =>
    show OkOut _ (execPaneFabricAccess p bad s)
    unfold execPaneFabricAccess
    first
    | exact ok_next
    | (refine ok_unit ?_
       intro h
       simp [Instr.wf] at h
       omega)
    | (refine ok_ite ?_
       intro h
       simp [Instr.wf] at h
       omega)
    | (refine ok_ite ?_
       intro h
       simp [Instr.wf, upsetOk, bits] at h
       omega)
  case stealTimeout r => exact ok_next
  case paneDetach q p =>
    show OkOut _ (execPaneDetach q p s)
    unfold execPaneDetach
    first
    | exact ok_next
    | (refine ok_unit ?_
       intro h
       simp [Instr.wf] at h
       omega)
    | (refine ok_ite ?_
       intro h
       simp [Instr.wf] at h
       omega)
    | (refine ok_ite ?_
       intro h
       simp [Instr.wf, upsetOk, bits] at h
       omega)
  case paneAttach q p =>
    show OkOut _ (execPaneAttach q p s)
    unfold execPaneAttach
    first
    | exact ok_next
    | (refine ok_unit ?_
       intro h
       simp [Instr.wf] at h
       omega)
    | (refine ok_ite ?_
       intro h
       simp [Instr.wf] at h
       omega)
    | (refine ok_ite ?_
       intro h
       simp [Instr.wf, upsetOk, bits] at h
       omega)
  case paneDetachLands p =>
    show OkOut _ (execPaneDetachLands p s)
    unfold execPaneDetachLands
    first
    | exact ok_next
    | (refine ok_unit ?_
       intro h
       simp [Instr.wf] at h
       omega)
    | (refine ok_ite ?_
       intro h
       simp [Instr.wf] at h
       omega)
    | (refine ok_ite ?_
       intro h
       simp [Instr.wf, upsetOk, bits] at h
       omega)
  case paneAttachLands p =>
    show OkOut _ (execPaneAttachLands p s)
    unfold execPaneAttachLands
    first
    | exact ok_next
    | (refine ok_unit ?_
       intro h
       simp [Instr.wf] at h
       omega)
    | (refine ok_ite ?_
       intro h
       simp [Instr.wf] at h
       omega)
    | (refine ok_ite ?_
       intro h
       simp [Instr.wf, upsetOk, bits] at h
       omega)
  case paneTest q p =>
    show OkOut _ (execPaneTest q p s)
    unfold execPaneTest
    first
    | exact ok_next
    | (refine ok_unit ?_
       intro h
       simp [Instr.wf] at h
       omega)
    | (refine ok_ite ?_
       intro h
       simp [Instr.wf] at h
       omega)
    | (refine ok_ite ?_
       intro h
       simp [Instr.wf, upsetOk, bits] at h
       omega)
  case paneTestEnd p bad =>
    show OkOut _ (execPaneTestEnd p bad s)
    unfold execPaneTestEnd
    first
    | exact ok_next
    | (refine ok_unit ?_
       intro h
       simp [Instr.wf] at h
       omega)
    | (refine ok_ite ?_
       intro h
       simp [Instr.wf] at h
       omega)
    | (refine ok_ite ?_
       intro h
       simp [Instr.wf, upsetOk, bits] at h
       omega)
  case paneModeWrite q p v =>
    show OkOut _ (execPaneModeWrite q p v s)
    unfold execPaneModeWrite
    first
    | exact ok_next
    | (refine ok_unit ?_
       intro h
       simp [Instr.wf] at h
       omega)
    | (refine ok_ite ?_
       intro h
       simp [Instr.wf] at h
       omega)
    | (refine ok_ite ?_
       intro h
       simp [Instr.wf, upsetOk, bits] at h
       omega)
  case scratchOwnerWrite q b port v =>
    show OkOut _ (execScratchOwnerWrite q b port v s)
    unfold execScratchOwnerWrite
    first
    | exact ok_next
    | (refine ok_unit ?_
       intro h
       simp [Instr.wf] at h
       omega)
    | (refine ok_ite ?_
       intro h
       simp [Instr.wf] at h
       omega)
    | (refine ok_ite ?_
       intro h
       simp [Instr.wf, upsetOk, bits] at h
       omega)
  case handoverEnd b =>
    show OkOut _ (execHandoverEnd b s)
    unfold execHandoverEnd
    first
    | exact ok_next
    | (refine ok_unit ?_
       intro h
       simp [Instr.wf] at h
       omega)
    | (refine ok_ite ?_
       intro h
       simp [Instr.wf] at h
       omega)
    | (refine ok_ite ?_
       intro h
       simp [Instr.wf, upsetOk, bits] at h
       omega)
  case scratchTest q b =>
    show OkOut _ (execScratchTest q b s)
    unfold execScratchTest
    first
    | exact ok_next
    | (refine ok_unit ?_
       intro h
       simp [Instr.wf] at h
       omega)
    | (refine ok_ite ?_
       intro h
       simp [Instr.wf] at h
       omega)
    | (refine ok_ite ?_
       intro h
       simp [Instr.wf, upsetOk, bits] at h
       omega)
  case scratchTestEnd b bad =>
    show OkOut _ (execScratchTestEnd b bad s)
    unfold execScratchTestEnd
    first
    | exact ok_next
    | (refine ok_unit ?_
       intro h
       simp [Instr.wf] at h
       omega)
    | (refine ok_ite ?_
       intro h
       simp [Instr.wf] at h
       omega)
    | (refine ok_ite ?_
       intro h
       simp [Instr.wf, upsetOk, bits] at h
       omega)
  case clearEnd d =>
    show OkOut _ (execClearEnd d s)
    unfold execClearEnd
    first
    | exact ok_next
    | (refine ok_unit ?_
       intro h
       simp [Instr.wf] at h
       omega)
    | (refine ok_ite ?_
       intro h
       simp [Instr.wf] at h
       omega)
    | (refine ok_ite ?_
       intro h
       simp [Instr.wf, upsetOk, bits] at h
       omega)
  case meshRead r flit ecc => exact ok_next
  case meshWrite r flit => exact ok_next
  case meshOr r flit => exact ok_next
  case meshDataResponse r flit => exact ok_next
  case meshAckResponse r flit => exact ok_next
  case meshErrorResponse r => exact ok_next
  case domainPowered d =>
    show OkOut _ (execDomainPowered d s)
    unfold execDomainPowered
    first
    | exact ok_next
    | (refine ok_unit ?_
       intro h
       simp [Instr.wf] at h
       omega)
    | (refine ok_ite ?_
       intro h
       simp [Instr.wf] at h
       omega)
    | (refine ok_ite ?_
       intro h
       simp [Instr.wf, upsetOk, bits] at h
       omega)
  case routerSelfcheck q n =>
    show OkOut _ (execRouterSelfcheck q n s)
    unfold execRouterSelfcheck
    first
    | exact ok_next
    | (refine ok_unit ?_
       intro h
       simp [Instr.wf] at h
       omega)
    | (refine ok_ite ?_
       intro h
       simp [Instr.wf] at h
       omega)
    | (refine ok_ite ?_
       intro h
       simp [Instr.wf, upsetOk, bits] at h
       omega)
  case rcfgWrite q n v =>
    show OkOut _ (execRcfgWrite q n v s)
    unfold execRcfgWrite
    first
    | exact ok_next
    | (refine ok_unit ?_
       intro h
       simp [Instr.wf] at h
       omega)
    | (refine ok_ite ?_
       intro h
       simp [Instr.wf] at h
       omega)
    | (refine ok_ite ?_
       intro h
       simp [Instr.wf, upsetOk, bits] at h
       omega)
  case drainEnd n pass =>
    show OkOut _ (execDrainEnd n pass s)
    unfold execDrainEnd
    first
    | exact ok_next
    | (refine ok_unit ?_
       intro h
       simp [Instr.wf] at h
       omega)
    | (refine ok_ite ?_
       intro h
       simp [Instr.wf] at h
       omega)
    | (refine ok_ite ?_
       intro h
       simp [Instr.wf, upsetOk, bits] at h
       omega)
  case probeRun q p =>
    show OkOut _ (execProbeRun q p s)
    unfold execProbeRun
    first
    | exact ok_next
    | (refine ok_unit ?_
       intro h
       simp [Instr.wf] at h
       omega)
    | (refine ok_ite ?_
       intro h
       simp [Instr.wf] at h
       omega)
    | (refine ok_ite ?_
       intro h
       simp [Instr.wf, upsetOk, bits] at h
       omega)
  case probeStop q p =>
    show OkOut _ (execProbeStop q p s)
    unfold execProbeStop
    first
    | exact ok_next
    | (refine ok_unit ?_
       intro h
       simp [Instr.wf] at h
       omega)
    | (refine ok_ite ?_
       intro h
       simp [Instr.wf] at h
       omega)
    | (refine ok_ite ?_
       intro h
       simp [Instr.wf, upsetOk, bits] at h
       omega)
  case probeClear q p =>
    show OkOut _ (execProbeClear q p s)
    unfold execProbeClear
    first
    | exact ok_next
    | (refine ok_unit ?_
       intro h
       simp [Instr.wf] at h
       omega)
    | (refine ok_ite ?_
       intro h
       simp [Instr.wf] at h
       omega)
    | (refine ok_ite ?_
       intro h
       simp [Instr.wf, upsetOk, bits] at h
       omega)
  case tclear q v => exact ok_next
  case laneStart q n =>
    show OkOut _ (execLaneStart q n s)
    unfold execLaneStart
    first
    | exact ok_next
    | (refine ok_unit ?_
       intro h
       simp [Instr.wf] at h
       omega)
    | (refine ok_ite ?_
       intro h
       simp [Instr.wf] at h
       omega)
    | (refine ok_ite ?_
       intro h
       simp [Instr.wf, upsetOk, bits] at h
       omega)
  case laneReset q n =>
    show OkOut _ (execLaneReset q n s)
    unfold execLaneReset
    first
    | exact ok_next
    | (refine ok_unit ?_
       intro h
       simp [Instr.wf] at h
       omega)
    | (refine ok_ite ?_
       intro h
       simp [Instr.wf] at h
       omega)
    | (refine ok_ite ?_
       intro h
       simp [Instr.wf, upsetOk, bits] at h
       omega)
  case laneRetrain q n =>
    show OkOut _ (execLaneRetrain q n s)
    unfold execLaneRetrain
    first
    | exact ok_next
    | (refine ok_unit ?_
       intro h
       simp [Instr.wf] at h
       omega)
    | (refine ok_ite ?_
       intro h
       simp [Instr.wf] at h
       omega)
    | (refine ok_ite ?_
       intro h
       simp [Instr.wf, upsetOk, bits] at h
       omega)
  case adaptEnd n =>
    show OkOut _ (execAdaptEnd n s)
    unfold execAdaptEnd
    first
    | exact ok_next
    | (refine ok_unit ?_
       intro h
       simp [Instr.wf] at h
       omega)
    | (refine ok_ite ?_
       intro h
       simp [Instr.wf] at h
       omega)
    | (refine ok_ite ?_
       intro h
       simp [Instr.wf, upsetOk, bits] at h
       omega)
  case lockGained n =>
    show OkOut _ (execLockGained n s)
    unfold execLockGained
    first
    | exact ok_next
    | (refine ok_unit ?_
       intro h
       simp [Instr.wf] at h
       omega)
    | (refine ok_ite ?_
       intro h
       simp [Instr.wf] at h
       omega)
    | (refine ok_ite ?_
       intro h
       simp [Instr.wf, upsetOk, bits] at h
       omega)
  case qrateWrite q k v =>
    show OkOut _ (execQrateWrite q k v s)
    unfold execQrateWrite
    first
    | exact ok_next
    | (refine ok_unit ?_
       intro h
       simp [Instr.wf] at h
       omega)
    | (refine ok_ite ?_
       intro h
       simp [Instr.wf] at h
       omega)
    | (refine ok_ite ?_
       intro h
       simp [Instr.wf, upsetOk, bits] at h
       omega)
  case qpllLock k =>
    show OkOut _ (execQpllLock k s)
    unfold execQpllLock
    first
    | exact ok_next
    | (refine ok_unit ?_
       intro h
       simp [Instr.wf] at h
       omega)
    | (refine ok_ite ?_
       intro h
       simp [Instr.wf] at h
       omega)
    | (refine ok_ite ?_
       intro h
       simp [Instr.wf, upsetOk, bits] at h
       omega)
  case laneMapWrite q k v =>
    show OkOut _ (execLaneMapWrite q k v s)
    unfold execLaneMapWrite
    first
    | exact ok_next
    | (refine ok_unit ?_
       intro h
       simp [Instr.wf] at h
       omega)
    | (refine ok_ite ?_
       intro h
       simp [Instr.wf] at h
       omega)
    | (refine ok_ite ?_
       intro h
       simp [Instr.wf, upsetOk, bits] at h
       omega)
  case dataBlock n v fix =>
    show OkOut _ (execDataBlock n v fix s)
    unfold execDataBlock blockIn
    first
    | exact ok_next
    | (refine ok_unit ?_
       intro h
       simp [Instr.wf] at h
       omega)
    | (refine ok_ite ?_
       intro h
       simp [Instr.wf] at h
       omega)
    | (refine ok_ite ?_
       intro h
       simp [Instr.wf, upsetOk, bits] at h
       omega)
  case idleBlock n v fix =>
    show OkOut _ (execIdleBlock n v fix s)
    unfold execIdleBlock blockIn
    first
    | exact ok_next
    | (refine ok_unit ?_
       intro h
       simp [Instr.wf] at h
       omega)
    | (refine ok_ite ?_
       intro h
       simp [Instr.wf] at h
       omega)
    | (refine ok_ite ?_
       intro h
       simp [Instr.wf, upsetOk, bits] at h
       omega)
  case startBlock n v fix =>
    show OkOut _ (execStartBlock n v fix s)
    unfold execStartBlock blockIn
    first
    | exact ok_next
    | (refine ok_unit ?_
       intro h
       simp [Instr.wf] at h
       omega)
    | (refine ok_ite ?_
       intro h
       simp [Instr.wf] at h
       omega)
    | (refine ok_ite ?_
       intro h
       simp [Instr.wf, upsetOk, bits] at h
       omega)
  case creditBlock n v fix =>
    show OkOut _ (execCreditBlock n v fix s)
    unfold execCreditBlock blockIn
    first
    | exact ok_next
    | (refine ok_unit ?_
       intro h
       simp [Instr.wf] at h
       omega)
    | (refine ok_ite ?_
       intro h
       simp [Instr.wf] at h
       omega)
    | (refine ok_ite ?_
       intro h
       simp [Instr.wf, upsetOk, bits] at h
       omega)
  case linkBlock n v fix =>
    show OkOut _ (execLinkBlock n v fix s)
    unfold execLinkBlock blockIn
    first
    | exact ok_next
    | (refine ok_unit ?_
       intro h
       simp [Instr.wf] at h
       omega)
    | (refine ok_ite ?_
       intro h
       simp [Instr.wf] at h
       omega)
    | (refine ok_ite ?_
       intro h
       simp [Instr.wf, upsetOk, bits] at h
       omega)
  case meshMessage n =>
    show OkOut _ (execMeshMessage n s)
    unfold execMeshMessage
    first
    | exact ok_next
    | (refine ok_unit ?_
       intro h
       simp [Instr.wf] at h
       omega)
    | (refine ok_ite ?_
       intro h
       simp [Instr.wf] at h
       omega)
    | (refine ok_ite ?_
       intro h
       simp [Instr.wf, upsetOk, bits] at h
       omega)
  case mgmtMessage n =>
    show OkOut _ (execMgmtMessage n s)
    unfold execMgmtMessage
    first
    | exact ok_next
    | (refine ok_unit ?_
       intro h
       simp [Instr.wf] at h
       omega)
    | (refine ok_ite ?_
       intro h
       simp [Instr.wf] at h
       omega)
    | (refine ok_ite ?_
       intro h
       simp [Instr.wf, upsetOk, bits] at h
       omega)
  case timeMessage n =>
    show OkOut _ (execTimeMessage n s)
    unfold execTimeMessage
    first
    | exact ok_next
    | (refine ok_unit ?_
       intro h
       simp [Instr.wf] at h
       omega)
    | (refine ok_ite ?_
       intro h
       simp [Instr.wf] at h
       omega)
    | (refine ok_ite ?_
       intro h
       simp [Instr.wf, upsetOk, bits] at h
       omega)
  case streamMessage n =>
    show OkOut _ (execStreamMessage n s)
    unfold execStreamMessage
    first
    | exact ok_next
    | (refine ok_unit ?_
       intro h
       simp [Instr.wf] at h
       omega)
    | (refine ok_ite ?_
       intro h
       simp [Instr.wf] at h
       omega)
    | (refine ok_ite ?_
       intro h
       simp [Instr.wf, upsetOk, bits] at h
       omega)
  case streamWritesDone n err =>
    show OkOut _ (execStreamWritesDone n err s)
    unfold execStreamWritesDone
    first
    | exact ok_next
    | (refine ok_unit ?_
       intro h
       simp [Instr.wf] at h
       omega)
    | (refine ok_ite ?_
       intro h
       simp [Instr.wf] at h
       omega)
    | (refine ok_ite ?_
       intro h
       simp [Instr.wf, upsetOk, bits] at h
       omega)
  case creditSendTimer n =>
    show OkOut _ (execCreditSendTimer n s)
    unfold execCreditSendTimer
    first
    | exact ok_next
    | (refine ok_unit ?_
       intro h
       simp [Instr.wf] at h
       omega)
    | (refine ok_ite ?_
       intro h
       simp [Instr.wf] at h
       omega)
    | (refine ok_ite ?_
       intro h
       simp [Instr.wf, upsetOk, bits] at h
       omega)
  case linkSendTimer n =>
    show OkOut _ (execLinkSendTimer n s)
    unfold execLinkSendTimer
    first
    | exact ok_next
    | (refine ok_unit ?_
       intro h
       simp [Instr.wf] at h
       omega)
    | (refine ok_ite ?_
       intro h
       simp [Instr.wf] at h
       omega)
    | (refine ok_ite ?_
       intro h
       simp [Instr.wf, upsetOk, bits] at h
       omega)
  case tmuRoleWrite q v => exact ok_next
  case incrWrite q v => exact ok_next
  case tmuStep q v => exact ok_next
  case tmuSet q v => exact ok_next
  case exchangeStart => exact ok_next
  case sync n =>
    show OkOut _ (execSync n s)
    unfold execSync helper
    first
    | exact ok_next
    | (refine ok_unit ?_
       intro h
       simp [Instr.wf] at h
       omega)
    | (refine ok_ite ?_
       intro h
       simp [Instr.wf] at h
       omega)
    | (refine ok_ite ?_
       intro h
       simp [Instr.wf, upsetOk, bits] at h
       omega)
  case follow n =>
    show OkOut _ (execFollow n s)
    unfold execFollow helper
    first
    | exact ok_next
    | (refine ok_unit ?_
       intro h
       simp [Instr.wf] at h
       omega)
    | (refine ok_ite ?_
       intro h
       simp [Instr.wf] at h
       omega)
    | (refine ok_ite ?_
       intro h
       simp [Instr.wf, upsetOk, bits] at h
       omega)
  case dreq n =>
    show OkOut _ (execDreq n s)
    unfold execDreq helper
    first
    | exact ok_next
    | (refine ok_unit ?_
       intro h
       simp [Instr.wf] at h
       omega)
    | (refine ok_ite ?_
       intro h
       simp [Instr.wf] at h
       omega)
    | (refine ok_ite ?_
       intro h
       simp [Instr.wf, upsetOk, bits] at h
       omega)
  case dresp n =>
    show OkOut _ (execDresp n s)
    unfold execDresp helper
    first
    | exact ok_next
    | (refine ok_unit ?_
       intro h
       simp [Instr.wf] at h
       omega)
    | (refine ok_ite ?_
       intro h
       simp [Instr.wf] at h
       omega)
    | (refine ok_ite ?_
       intro h
       simp [Instr.wf, upsetOk, bits] at h
       omega)
  case exchangeTimeout => exact ok_next
  case txmsg q n v =>
    show OkOut _ (execTxmsg q n v s)
    unfold execTxmsg
    first
    | exact ok_next
    | (refine ok_unit ?_
       intro h
       simp [Instr.wf] at h
       omega)
    | (refine ok_ite ?_
       intro h
       simp [Instr.wf] at h
       omega)
    | (refine ok_ite ?_
       intro h
       simp [Instr.wf, upsetOk, bits] at h
       omega)
  case txts q n =>
    show OkOut _ (execTxts q n s)
    unfold execTxts
    first
    | exact ok_next
    | (refine ok_unit ?_
       intro h
       simp [Instr.wf] at h
       omega)
    | (refine ok_ite ?_
       intro h
       simp [Instr.wf] at h
       omega)
    | (refine ok_ite ?_
       intro h
       simp [Instr.wf, upsetOk, bits] at h
       omega)
  case rxmsg q n =>
    show OkOut _ (execRxmsg q n s)
    unfold execRxmsg
    first
    | exact ok_next
    | (refine ok_unit ?_
       intro h
       simp [Instr.wf] at h
       omega)
    | (refine ok_ite ?_
       intro h
       simp [Instr.wf] at h
       omega)
    | (refine ok_ite ?_
       intro h
       simp [Instr.wf, upsetOk, bits] at h
       omega)
  case apertureArm q a =>
    show OkOut _ (execApertureArm q a s)
    unfold execApertureArm
    first
    | exact ok_next
    | (refine ok_unit ?_
       intro h
       simp [Instr.wf] at h
       omega)
    | (refine ok_ite ?_
       intro h
       simp [Instr.wf] at h
       omega)
    | (refine ok_ite ?_
       intro h
       simp [Instr.wf, upsetOk, bits] at h
       omega)
  case apertureDisarm q a =>
    show OkOut _ (execApertureDisarm q a s)
    unfold execApertureDisarm
    first
    | exact ok_next
    | (refine ok_unit ?_
       intro h
       simp [Instr.wf] at h
       omega)
    | (refine ok_ite ?_
       intro h
       simp [Instr.wf] at h
       omega)
    | (refine ok_ite ?_
       intro h
       simp [Instr.wf, upsetOk, bits] at h
       omega)
  case apertureOpen a =>
    show OkOut _ (execApertureOpen a s)
    unfold execApertureOpen
    first
    | exact ok_next
    | (refine ok_unit ?_
       intro h
       simp [Instr.wf] at h
       omega)
    | (refine ok_ite ?_
       intro h
       simp [Instr.wf] at h
       omega)
    | (refine ok_ite ?_
       intro h
       simp [Instr.wf, upsetOk, bits] at h
       omega)
  case apertureClose a =>
    show OkOut _ (execApertureClose a s)
    unfold execApertureClose
    first
    | exact ok_next
    | (refine ok_unit ?_
       intro h
       simp [Instr.wf] at h
       omega)
    | (refine ok_ite ?_
       intro h
       simp [Instr.wf] at h
       omega)
    | (refine ok_ite ?_
       intro h
       simp [Instr.wf, upsetOk, bits] at h
       omega)
  case triggerArm q t =>
    show OkOut _ (execTriggerArm q t s)
    unfold execTriggerArm
    first
    | exact ok_next
    | (refine ok_unit ?_
       intro h
       simp [Instr.wf] at h
       omega)
    | (refine ok_ite ?_
       intro h
       simp [Instr.wf] at h
       omega)
    | (refine ok_ite ?_
       intro h
       simp [Instr.wf, upsetOk, bits] at h
       omega)
  case triggerDisarm q t =>
    show OkOut _ (execTriggerDisarm q t s)
    unfold execTriggerDisarm
    first
    | exact ok_next
    | (refine ok_unit ?_
       intro h
       simp [Instr.wf] at h
       omega)
    | (refine ok_ite ?_
       intro h
       simp [Instr.wf] at h
       omega)
    | (refine ok_ite ?_
       intro h
       simp [Instr.wf, upsetOk, bits] at h
       omega)
  case triggerPulse t =>
    show OkOut _ (execTriggerPulse t s)
    unfold execTriggerPulse
    first
    | exact ok_next
    | (refine ok_unit ?_
       intro h
       simp [Instr.wf] at h
       omega)
    | (refine ok_ite ?_
       intro h
       simp [Instr.wf] at h
       omega)
    | (refine ok_ite ?_
       intro h
       simp [Instr.wf, upsetOk, bits] at h
       omega)
  case captureEdge t rising =>
    show OkOut _ (execCaptureEdge t rising s)
    unfold execCaptureEdge
    first
    | exact ok_next
    | (refine ok_unit ?_
       intro h
       simp [Instr.wf] at h
       omega)
    | (refine ok_ite ?_
       intro h
       simp [Instr.wf] at h
       omega)
    | (refine ok_ite ?_
       intro h
       simp [Instr.wf, upsetOk, bits] at h
       omega)
  case capPop q t =>
    show OkOut _ (execCapPop q t s)
    unfold execCapPop
    first
    | exact ok_next
    | (refine ok_unit ?_
       intro h
       simp [Instr.wf] at h
       omega)
    | (refine ok_ite ?_
       intro h
       simp [Instr.wf] at h
       omega)
    | (refine ok_ite ?_
       intro h
       simp [Instr.wf, upsetOk, bits] at h
       omega)
  case scheduleFire => exact ok_next
  case mpy n ecc =>
    show OkOut _ (execMpy n ecc s)
    unfold execMpy insnCommand
    first
    | exact ok_next
    | (refine ok_unit ?_
       intro h
       simp [Instr.wf] at h
       omega)
    | (refine ok_ite ?_
       intro h
       simp [Instr.wf] at h
       omega)
    | (refine ok_ite ?_
       intro h
       simp [Instr.wf, upsetOk, bits] at h
       omega)
  case mac n ecc =>
    show OkOut _ (execMac n ecc s)
    unfold execMac insnCommand
    first
    | exact ok_next
    | (refine ok_unit ?_
       intro h
       simp [Instr.wf] at h
       omega)
    | (refine ok_ite ?_
       intro h
       simp [Instr.wf] at h
       omega)
    | (refine ok_ite ?_
       intro h
       simp [Instr.wf, upsetOk, bits] at h
       omega)
  case msu n ecc =>
    show OkOut _ (execMsu n ecc s)
    unfold execMsu insnCommand
    first
    | exact ok_next
    | (refine ok_unit ?_
       intro h
       simp [Instr.wf] at h
       omega)
    | (refine ok_ite ?_
       intro h
       simp [Instr.wf] at h
       omega)
    | (refine ok_ite ?_
       intro h
       simp [Instr.wf, upsetOk, bits] at h
       omega)
  case accClr n =>
    show OkOut _ (execAccClr n s)
    unfold execAccClr insnCommand
    first
    | exact ok_next
    | (refine ok_unit ?_
       intro h
       simp [Instr.wf] at h
       omega)
    | (refine ok_ite ?_
       intro h
       simp [Instr.wf] at h
       omega)
    | (refine ok_ite ?_
       intro h
       simp [Instr.wf, upsetOk, bits] at h
       omega)
  case accLda n =>
    show OkOut _ (execAccLda n s)
    unfold execAccLda insnCommand
    first
    | exact ok_next
    | (refine ok_unit ?_
       intro h
       simp [Instr.wf] at h
       omega)
    | (refine ok_ite ?_
       intro h
       simp [Instr.wf] at h
       omega)
    | (refine ok_ite ?_
       intro h
       simp [Instr.wf, upsetOk, bits] at h
       omega)
  case accAdda n =>
    show OkOut _ (execAccAdda n s)
    unfold execAccAdda insnCommand
    first
    | exact ok_next
    | (refine ok_unit ?_
       intro h
       simp [Instr.wf] at h
       omega)
    | (refine ok_ite ?_
       intro h
       simp [Instr.wf] at h
       omega)
    | (refine ok_ite ?_
       intro h
       simp [Instr.wf, upsetOk, bits] at h
       omega)
  case accSuml n =>
    show OkOut _ (execAccSuml n s)
    unfold execAccSuml insnCommand
    first
    | exact ok_next
    | (refine ok_unit ?_
       intro h
       simp [Instr.wf] at h
       omega)
    | (refine ok_ite ?_
       intro h
       simp [Instr.wf] at h
       omega)
    | (refine ok_ite ?_
       intro h
       simp [Instr.wf, upsetOk, bits] at h
       omega)
  case accStr n =>
    show OkOut _ (execAccStr n s)
    unfold execAccStr insnCommand
    first
    | exact ok_next
    | (refine ok_unit ?_
       intro h
       simp [Instr.wf] at h
       omega)
    | (refine ok_ite ?_
       intro h
       simp [Instr.wf] at h
       omega)
    | (refine ok_ite ?_
       intro h
       simp [Instr.wf, upsetOk, bits] at h
       omega)
  case accShra n =>
    show OkOut _ (execAccShra n s)
    unfold execAccShra insnCommand
    first
    | exact ok_next
    | (refine ok_unit ?_
       intro h
       simp [Instr.wf] at h
       omega)
    | (refine ok_ite ?_
       intro h
       simp [Instr.wf] at h
       omega)
    | (refine ok_ite ?_
       intro h
       simp [Instr.wf, upsetOk, bits] at h
       omega)
  case mem n ecc =>
    show OkOut _ (execMem n ecc s)
    unfold execMem insnCommand
    first
    | exact ok_next
    | (refine ok_unit ?_
       intro h
       simp [Instr.wf] at h
       omega)
    | (refine ok_ite ?_
       intro h
       simp [Instr.wf] at h
       omega)
    | (refine ok_ite ?_
       intro h
       simp [Instr.wf, upsetOk, bits] at h
       omega)
  case seta n =>
    show OkOut _ (execSeta n s)
    unfold execSeta insnCommand
    first
    | exact ok_next
    | (refine ok_unit ?_
       intro h
       simp [Instr.wf] at h
       omega)
    | (refine ok_ite ?_
       intro h
       simp [Instr.wf] at h
       omega)
    | (refine ok_ite ?_
       intro h
       simp [Instr.wf, upsetOk, bits] at h
       omega)
  case seto n =>
    show OkOut _ (execSeto n s)
    unfold execSeto insnCommand
    first
    | exact ok_next
    | (refine ok_unit ?_
       intro h
       simp [Instr.wf] at h
       omega)
    | (refine ok_ite ?_
       intro h
       simp [Instr.wf] at h
       omega)
    | (refine ok_ite ?_
       intro h
       simp [Instr.wf, upsetOk, bits] at h
       omega)
  case inca n =>
    show OkOut _ (execInca n s)
    unfold execInca insnCommand
    first
    | exact ok_next
    | (refine ok_unit ?_
       intro h
       simp [Instr.wf] at h
       omega)
    | (refine ok_ite ?_
       intro h
       simp [Instr.wf] at h
       omega)
    | (refine ok_ite ?_
       intro h
       simp [Instr.wf, upsetOk, bits] at h
       omega)
  case vmov n =>
    show OkOut _ (execVmov n s)
    unfold execVmov insnCommand
    first
    | exact ok_next
    | (refine ok_unit ?_
       intro h
       simp [Instr.wf] at h
       omega)
    | (refine ok_ite ?_
       intro h
       simp [Instr.wf] at h
       omega)
    | (refine ok_ite ?_
       intro h
       simp [Instr.wf, upsetOk, bits] at h
       omega)
  case vadd n =>
    show OkOut _ (execVadd n s)
    unfold execVadd insnCommand
    first
    | exact ok_next
    | (refine ok_unit ?_
       intro h
       simp [Instr.wf] at h
       omega)
    | (refine ok_ite ?_
       intro h
       simp [Instr.wf] at h
       omega)
    | (refine ok_ite ?_
       intro h
       simp [Instr.wf, upsetOk, bits] at h
       omega)
  case vsub n =>
    show OkOut _ (execVsub n s)
    unfold execVsub insnCommand
    first
    | exact ok_next
    | (refine ok_unit ?_
       intro h
       simp [Instr.wf] at h
       omega)
    | (refine ok_ite ?_
       intro h
       simp [Instr.wf] at h
       omega)
    | (refine ok_ite ?_
       intro h
       simp [Instr.wf, upsetOk, bits] at h
       omega)
  case vshl n =>
    show OkOut _ (execVshl n s)
    unfold execVshl insnCommand
    first
    | exact ok_next
    | (refine ok_unit ?_
       intro h
       simp [Instr.wf] at h
       omega)
    | (refine ok_ite ?_
       intro h
       simp [Instr.wf] at h
       omega)
    | (refine ok_ite ?_
       intro h
       simp [Instr.wf, upsetOk, bits] at h
       omega)
  case vshr n =>
    show OkOut _ (execVshr n s)
    unfold execVshr insnCommand
    first
    | exact ok_next
    | (refine ok_unit ?_
       intro h
       simp [Instr.wf] at h
       omega)
    | (refine ok_ite ?_
       intro h
       simp [Instr.wf] at h
       omega)
    | (refine ok_ite ?_
       intro h
       simp [Instr.wf, upsetOk, bits] at h
       omega)
  case dspNop n =>
    show OkOut _ (execDspNop n s)
    unfold execDspNop insnCommand
    first
    | exact ok_next
    | (refine ok_unit ?_
       intro h
       simp [Instr.wf] at h
       omega)
    | (refine ok_ite ?_
       intro h
       simp [Instr.wf] at h
       omega)
    | (refine ok_ite ?_
       intro h
       simp [Instr.wf, upsetOk, bits] at h
       omega)
  case dspJmp n =>
    show OkOut _ (execDspJmp n s)
    unfold execDspJmp insnCommand
    first
    | exact ok_next
    | (refine ok_unit ?_
       intro h
       simp [Instr.wf] at h
       omega)
    | (refine ok_ite ?_
       intro h
       simp [Instr.wf] at h
       omega)
    | (refine ok_ite ?_
       intro h
       simp [Instr.wf, upsetOk, bits] at h
       omega)
  case djnz n =>
    show OkOut _ (execDjnz n s)
    unfold execDjnz insnCommand
    first
    | exact ok_next
    | (refine ok_unit ?_
       intro h
       simp [Instr.wf] at h
       omega)
    | (refine ok_ite ?_
       intro h
       simp [Instr.wf] at h
       omega)
    | (refine ok_ite ?_
       intro h
       simp [Instr.wf, upsetOk, bits] at h
       omega)
  case dspLdc n =>
    show OkOut _ (execDspLdc n s)
    unfold execDspLdc insnCommand
    first
    | exact ok_next
    | (refine ok_unit ?_
       intro h
       simp [Instr.wf] at h
       omega)
    | (refine ok_ite ?_
       intro h
       simp [Instr.wf] at h
       omega)
    | (refine ok_ite ?_
       intro h
       simp [Instr.wf, upsetOk, bits] at h
       omega)
  case dspEvt n =>
    show OkOut _ (execDspEvt n s)
    unfold execDspEvt insnCommand
    first
    | exact ok_next
    | (refine ok_unit ?_
       intro h
       simp [Instr.wf] at h
       omega)
    | (refine ok_ite ?_
       intro h
       simp [Instr.wf] at h
       omega)
    | (refine ok_ite ?_
       intro h
       simp [Instr.wf, upsetOk, bits] at h
       omega)
  case dspHaltInsn n =>
    show OkOut _ (execDspHaltInsn n s)
    unfold execDspHaltInsn insnCommand
    first
    | exact ok_next
    | (refine ok_unit ?_
       intro h
       simp [Instr.wf] at h
       omega)
    | (refine ok_ite ?_
       intro h
       simp [Instr.wf] at h
       omega)
    | (refine ok_ite ?_
       intro h
       simp [Instr.wf, upsetOk, bits] at h
       omega)
  case waitm n =>
    show OkOut _ (execWaitm n s)
    unfold execWaitm insnCommand
    first
    | exact ok_next
    | (refine ok_unit ?_
       intro h
       simp [Instr.wf] at h
       omega)
    | (refine ok_ite ?_
       intro h
       simp [Instr.wf] at h
       omega)
    | (refine ok_ite ?_
       intro h
       simp [Instr.wf, upsetOk, bits] at h
       omega)
  case bclr n =>
    show OkOut _ (execBclr n s)
    unfold execBclr insnCommand
    first
    | exact ok_next
    | (refine ok_unit ?_
       intro h
       simp [Instr.wf] at h
       omega)
    | (refine ok_ite ?_
       intro h
       simp [Instr.wf] at h
       omega)
    | (refine ok_ite ?_
       intro h
       simp [Instr.wf, upsetOk, bits] at h
       omega)
  case blk n =>
    show OkOut _ (execBlk n s)
    unfold execBlk insnCommand
    first
    | exact ok_next
    | (refine ok_unit ?_
       intro h
       simp [Instr.wf] at h
       omega)
    | (refine ok_ite ?_
       intro h
       simp [Instr.wf] at h
       omega)
    | (refine ok_ite ?_
       intro h
       simp [Instr.wf, upsetOk, bits] at h
       omega)
  case dspRpt n =>
    show OkOut _ (execDspRpt n s)
    unfold execDspRpt insnCommand
    first
    | exact ok_next
    | (refine ok_unit ?_
       intro h
       simp [Instr.wf] at h
       omega)
    | (refine ok_ite ?_
       intro h
       simp [Instr.wf] at h
       omega)
    | (refine ok_ite ?_
       intro h
       simp [Instr.wf, upsetOk, bits] at h
       omega)
  case move n =>
    show OkOut _ (execMove n s)
    unfold execMove moveInsn insnCommand
    first
    | exact ok_next
    | (refine ok_unit ?_
       intro h
       simp [Instr.wf] at h
       omega)
    | (refine ok_ite ?_
       intro h
       simp [Instr.wf] at h
       omega)
    | (refine ok_ite ?_
       intro h
       simp [Instr.wf, upsetOk, bits] at h
       omega)
  case moveGatePoll n =>
    show OkOut _ (execMoveGatePoll n s)
    unfold execMoveGatePoll
    first
    | exact ok_next
    | (refine ok_unit ?_
       intro h
       simp [Instr.wf] at h
       omega)
    | (refine ok_ite ?_
       intro h
       simp [Instr.wf] at h
       omega)
    | (refine ok_ite ?_
       intro h
       simp [Instr.wf, upsetOk, bits] at h
       omega)
  case moveComplete n =>
    show OkOut _ (execMoveComplete n s)
    unfold execMoveComplete
    first
    | exact ok_next
    | (refine ok_unit ?_
       intro h
       simp [Instr.wf] at h
       omega)
    | (refine ok_ite ?_
       intro h
       simp [Instr.wf] at h
       omega)
    | (refine ok_ite ?_
       intro h
       simp [Instr.wf, upsetOk, bits] at h
       omega)
  case dspStart q n =>
    show OkOut _ (execDspStart q n s)
    unfold execDspStart
    first
    | exact ok_next
    | (refine ok_unit ?_
       intro h
       simp [Instr.wf] at h
       omega)
    | (refine ok_ite ?_
       intro h
       simp [Instr.wf] at h
       omega)
    | (refine ok_ite ?_
       intro h
       simp [Instr.wf, upsetOk, bits] at h
       omega)
  case dspStartAt q n =>
    show OkOut _ (execDspStartAt q n s)
    unfold execDspStartAt
    first
    | exact ok_next
    | (refine ok_unit ?_
       intro h
       simp [Instr.wf] at h
       omega)
    | (refine ok_ite ?_
       intro h
       simp [Instr.wf] at h
       omega)
    | (refine ok_ite ?_
       intro h
       simp [Instr.wf, upsetOk, bits] at h
       omega)
  case dspStop q n =>
    show OkOut _ (execDspStop q n s)
    unfold execDspStop
    first
    | exact ok_next
    | (refine ok_unit ?_
       intro h
       simp [Instr.wf] at h
       omega)
    | (refine ok_ite ?_
       intro h
       simp [Instr.wf] at h
       omega)
    | (refine ok_ite ?_
       intro h
       simp [Instr.wf, upsetOk, bits] at h
       omega)
  case dspHalt q n =>
    show OkOut _ (execDspHalt q n s)
    unfold execDspHalt
    first
    | exact ok_next
    | (refine ok_unit ?_
       intro h
       simp [Instr.wf] at h
       omega)
    | (refine ok_ite ?_
       intro h
       simp [Instr.wf] at h
       omega)
    | (refine ok_ite ?_
       intro h
       simp [Instr.wf, upsetOk, bits] at h
       omega)
  case dspResume q n =>
    show OkOut _ (execDspResume q n s)
    unfold execDspResume
    first
    | exact ok_next
    | (refine ok_unit ?_
       intro h
       simp [Instr.wf] at h
       omega)
    | (refine ok_ite ?_
       intro h
       simp [Instr.wf] at h
       omega)
    | (refine ok_ite ?_
       intro h
       simp [Instr.wf, upsetOk, bits] at h
       omega)
  case dspSelfcheck q n =>
    show OkOut _ (execDspSelfcheck q n s)
    unfold execDspSelfcheck
    first
    | exact ok_next
    | (refine ok_unit ?_
       intro h
       simp [Instr.wf] at h
       omega)
    | (refine ok_ite ?_
       intro h
       simp [Instr.wf] at h
       omega)
    | (refine ok_ite ?_
       intro h
       simp [Instr.wf, upsetOk, bits] at h
       omega)
  case dspSelfcheckEnd n pass =>
    show OkOut _ (execDspSelfcheckEnd n pass s)
    unfold execDspSelfcheckEnd
    first
    | exact ok_next
    | (refine ok_unit ?_
       intro h
       simp [Instr.wf] at h
       omega)
    | (refine ok_ite ?_
       intro h
       simp [Instr.wf] at h
       omega)
    | (refine ok_ite ?_
       intro h
       simp [Instr.wf, upsetOk, bits] at h
       omega)
  case dspStartEdge n =>
    show OkOut _ (execDspStartEdge n s)
    unfold execDspStartEdge
    first
    | exact ok_next
    | (refine ok_unit ?_
       intro h
       simp [Instr.wf] at h
       omega)
    | (refine ok_ite ?_
       intro h
       simp [Instr.wf] at h
       omega)
    | (refine ok_ite ?_
       intro h
       simp [Instr.wf, upsetOk, bits] at h
       omega)
  case dspHaltLands n =>
    show OkOut _ (execDspHaltLands n s)
    unfold execDspHaltLands
    first
    | exact ok_next
    | (refine ok_unit ?_
       intro h
       simp [Instr.wf] at h
       omega)
    | (refine ok_ite ?_
       intro h
       simp [Instr.wf] at h
       omega)
    | (refine ok_ite ?_
       intro h
       simp [Instr.wf, upsetOk, bits] at h
       omega)
  case dspStopLands n =>
    show OkOut _ (execDspStopLands n s)
    unfold execDspStopLands
    first
    | exact ok_next
    | (refine ok_unit ?_
       intro h
       simp [Instr.wf] at h
       omega)
    | (refine ok_ite ?_
       intro h
       simp [Instr.wf] at h
       omega)
    | (refine ok_ite ?_
       intro h
       simp [Instr.wf, upsetOk, bits] at h
       omega)
  case dspWatchdogExpiry n =>
    show OkOut _ (execDspWatchdogExpiry n s)
    unfold execDspWatchdogExpiry
    first
    | exact ok_next
    | (refine ok_unit ?_
       intro h
       simp [Instr.wf] at h
       omega)
    | (refine ok_ite ?_
       intro h
       simp [Instr.wf] at h
       omega)
    | (refine ok_ite ?_
       intro h
       simp [Instr.wf, upsetOk, bits] at h
       omega)
  case refinPresent => exact ok_next
  case mpllLock => exact ok_next
  case refinLoss => exact ok_next
  case clkoutCfgWrite q v => exact ok_next
  case clockSwitchDone => exact ok_next
  case clockSwitchTimeout => exact ok_next
  case ddrPllLock n =>
    show OkOut _ (execDdrPllLock n s)
    unfold execDdrPllLock
    first
    | exact ok_next
    | (refine ok_unit ?_
       intro h
       simp [Instr.wf] at h
       omega)
    | (refine ok_ite ?_
       intro h
       simp [Instr.wf] at h
       omega)
    | (refine ok_ite ?_
       intro h
       simp [Instr.wf, upsetOk, bits] at h
       omega)
  case fmStart q => exact ok_next
  case fmDone count => exact ok_next
  case gateClose q u =>
    show OkOut _ (execGateClose q u s)
    unfold execGateClose
    first
    | exact ok_next
    | (refine ok_unit ?_
       intro h
       simp [Instr.wf] at h
       omega)
    | (refine ok_ite ?_
       intro h
       simp [Instr.wf] at h
       omega)
    | (refine ok_ite ?_
       intro h
       simp [Instr.wf, upsetOk, bits] at h
       omega)
  case gateOpen q u =>
    show OkOut _ (execGateOpen q u s)
    unfold execGateOpen
    first
    | exact ok_next
    | (refine ok_unit ?_
       intro h
       simp [Instr.wf] at h
       omega)
    | (refine ok_ite ?_
       intro h
       simp [Instr.wf] at h
       omega)
    | (refine ok_ite ?_
       intro h
       simp [Instr.wf, upsetOk, bits] at h
       omega)
  case gateClosed u =>
    show OkOut _ (execGateClosed u s)
    unfold execGateClosed
    first
    | exact ok_next
    | (refine ok_unit ?_
       intro h
       simp [Instr.wf] at h
       omega)
    | (refine ok_ite ?_
       intro h
       simp [Instr.wf] at h
       omega)
    | (refine ok_ite ?_
       intro h
       simp [Instr.wf, upsetOk, bits] at h
       omega)
  case gateCloseForce u =>
    show OkOut _ (execGateCloseForce u s)
    unfold execGateCloseForce
    first
    | exact ok_next
    | (refine ok_unit ?_
       intro h
       simp [Instr.wf] at h
       omega)
    | (refine ok_ite ?_
       intro h
       simp [Instr.wf] at h
       omega)
    | (refine ok_ite ?_
       intro h
       simp [Instr.wf, upsetOk, bits] at h
       omega)
  case gateOpened u =>
    show OkOut _ (execGateOpened u s)
    unfold execGateOpened
    first
    | exact ok_next
    | (refine ok_unit ?_
       intro h
       simp [Instr.wf] at h
       omega)
    | (refine ok_ite ?_
       intro h
       simp [Instr.wf] at h
       omega)
    | (refine ok_ite ?_
       intro h
       simp [Instr.wf, upsetOk, bits] at h
       omega)
  case powerOff q d =>
    show OkOut _ (execPowerOff q d s)
    unfold execPowerOff
    first
    | exact ok_next
    | (refine ok_unit ?_
       intro h
       simp [Instr.wf] at h
       omega)
    | (refine ok_ite ?_
       intro h
       simp [Instr.wf] at h
       omega)
    | (refine ok_ite ?_
       intro h
       simp [Instr.wf, upsetOk, bits] at h
       omega)
  case powerOn q d =>
    show OkOut _ (execPowerOn q d s)
    unfold execPowerOn
    first
    | exact ok_next
    | (refine ok_unit ?_
       intro h
       simp [Instr.wf] at h
       omega)
    | (refine ok_ite ?_
       intro h
       simp [Instr.wf] at h
       omega)
    | (refine ok_ite ?_
       intro h
       simp [Instr.wf, upsetOk, bits] at h
       omega)
  case por board => exact ok_next
  case brownout => exact ok_next
  case pinReset => exact ok_next
  case nresetRise straps => exact ok_next
  case softReset q => exact ok_next
  case thermalTrip => exact ok_next
  case resetEnd => exact ok_next
  case supReady => exact ok_next
  case tempSample temps => exact ok_next
  case railSample r mv =>
    show OkOut _ (execRailSample r mv s)
    unfold execRailSample
    first
    | exact ok_next
    | (refine ok_unit ?_
       intro h
       simp [Instr.wf] at h
       omega)
    | (refine ok_ite ?_
       intro h
       simp [Instr.wf] at h
       omega)
    | (refine ok_ite ?_
       intro h
       simp [Instr.wf, upsetOk, bits] at h
       omega)
  case autoLoad flash => exact ok_next
  case loadFull q flash => exact ok_next
  case loadPartial q flash => exact ok_next
  case loadAbort q => exact ok_next
  case streamWrite q len v => exact ok_next
  case streamHeader => exact ok_next
  case chunkCheck => exact ok_next
  case manifestFrame c => exact ok_next
  case cellFrame c => exact ok_next
  case routeFrame sels => exact ok_next
  case paneFrame => exact ok_next
  case ioFrame => exact ok_next
  case endFrame => exact ok_next
  case hostDataTimeout => exact ok_next
  case flpStart q => exact ok_next
  case flpAbort q => exact ok_next
  case writeBbram q => exact ok_next
  case zeroise q => exact ok_next
  case fuseKey q => exact ok_next
  case fusePolicy q => exact ok_next
  case keyCommandEnd ok => exact ok_next
  case tamper cause =>
    show OkOut _ (execTamper cause s)
    unfold execTamper
    split
    case h_5 h1 h2 h3 h4 =>
      have hb : (Instr.tamper cause).wf = false := by
        cases h : (Instr.tamper cause).wf
        · rfl
        · simp [Instr.wf] at h
          obtain ⟨ha, hb⟩ := h
          interval_cases cause <;> simp_all
      exact ⟨fun e => Bool.noConfusion (hb.symm.trans e), fun f e => by cases e; exact ⟨rfl, hb⟩, nofun⟩
    all_goals exact ok_next
  case loupeFrameScan => exact ok_next
  case loupeReload => exact ok_next
  case loupeReloadEnd ok => exact ok_next
  case heartbeatCheck => exact ok_next
  case loupeEnWrite q v => exact ok_next
  case cjSha256 q => exact ok_next
  case cjHmac q => exact ok_next
  case cryptoJobEnd => exact ok_next
  case wdogWarn => exact ok_next
  case wdogExpiry => exact ok_next
  case hostKick q v => exact ok_next
  case hostWdExpiry => exact ok_next
  case eventRaise => exact ok_next
  case fabricEventPulse k =>
    show OkOut _ (execFabricEventPulse k s)
    unfold execFabricEventPulse
    first
    | exact ok_next
    | (refine ok_unit ?_
       intro h
       simp [Instr.wf] at h
       omega)
    | (refine ok_ite ?_
       intro h
       simp [Instr.wf] at h
       omega)
    | (refine ok_ite ?_
       intro h
       simp [Instr.wf, upsetOk, bits] at h
       omega)
  case logPop q => exact ok_next
  case ibiRequest ack => exact ok_next
  case ledgerCheck => exact ok_next
  case extest => exact ok_next
  case samplePreload => exact ok_next
  case idcode => exact ok_next
  case clamp => exact ok_next
  case highz => exact ok_next
  case extestPulse => exact ok_next
  case extestTrain => exact ok_next
  case dbgframe op tag o m len v => exact ok_next
  case bypass => exact ok_next
  case trst => exact ok_next
  case authCustomerL2 q => exact ok_next
  case authCustomerL3 q => exact ok_next
  case authVendor q => exact ok_next
  case authDrop q => exact ok_next
  case authResp q v => exact ok_next
  case dbgFuseKey2 q => exact ok_next
  case dbgFuseKey3 q => exact ok_next
  case dbgFusePolicy q => exact ok_next
  case dbgReset q => exact ok_next
  case brkAlloc q => exact ok_next
  case brkCfgWrite q u v =>
    show OkOut _ (execBrkCfgWrite q u v s)
    unfold execBrkCfgWrite
    first
    | exact ok_next
    | (refine ok_unit ?_
       intro h
       simp [Instr.wf] at h
       omega)
    | (refine ok_ite ?_
       intro h
       simp [Instr.wf] at h
       omega)
    | (refine ok_ite ?_
       intro h
       simp [Instr.wf, upsetOk, bits] at h
       omega)
  case brkRearm q u =>
    show OkOut _ (execBrkRearm q u s)
    unfold execBrkRearm
    first
    | exact ok_next
    | (refine ok_unit ?_
       intro h
       simp [Instr.wf] at h
       omega)
    | (refine ok_ite ?_
       intro h
       simp [Instr.wf] at h
       omega)
    | (refine ok_ite ?_
       intro h
       simp [Instr.wf, upsetOk, bits] at h
       omega)
  case brkFree q u =>
    show OkOut _ (execBrkFree q u s)
    unfold execBrkFree
    first
    | exact ok_next
    | (refine ok_unit ?_
       intro h
       simp [Instr.wf] at h
       omega)
    | (refine ok_ite ?_
       intro h
       simp [Instr.wf] at h
       omega)
    | (refine ok_ite ?_
       intro h
       simp [Instr.wf, upsetOk, bits] at h
       omega)
  case groupHaltLatch g =>
    show OkOut _ (execGroupHaltLatch g s)
    unfold execGroupHaltLatch
    first
    | exact ok_next
    | (refine ok_unit ?_
       intro h
       simp [Instr.wf] at h
       omega)
    | (refine ok_ite ?_
       intro h
       simp [Instr.wf] at h
       omega)
    | (refine ok_ite ?_
       intro h
       simp [Instr.wf, upsetOk, bits] at h
       omega)
  case dbgHalt q t =>
    show OkOut _ (execDbgHalt q t s)
    unfold execDbgHalt
    first
    | exact ok_next
    | (refine ok_unit ?_
       intro h
       simp [Instr.wf] at h
       omega)
    | (refine ok_ite ?_
       intro h
       simp [Instr.wf] at h
       omega)
    | (refine ok_ite ?_
       intro h
       simp [Instr.wf, upsetOk, bits] at h
       omega)
  case dbgResume q t =>
    show OkOut _ (execDbgResume q t s)
    unfold execDbgResume
    first
    | exact ok_next
    | (refine ok_unit ?_
       intro h
       simp [Instr.wf] at h
       omega)
    | (refine ok_ite ?_
       intro h
       simp [Instr.wf] at h
       omega)
    | (refine ok_ite ?_
       intro h
       simp [Instr.wf, upsetOk, bits] at h
       omega)
  case dbgStep q t =>
    show OkOut _ (execDbgStep q t s)
    unfold execDbgStep
    first
    | exact ok_next
    | (refine ok_unit ?_
       intro h
       simp [Instr.wf] at h
       omega)
    | (refine ok_ite ?_
       intro h
       simp [Instr.wf] at h
       omega)
    | (refine ok_ite ?_
       intro h
       simp [Instr.wf, upsetOk, bits] at h
       omega)
  case molxoHaltLands => exact ok_next
  case dbgRegAccess q t wr v =>
    show OkOut _ (execDbgRegAccess q t wr v s)
    unfold execDbgRegAccess
    first
    | exact ok_next
    | (refine ok_unit ?_
       intro h
       simp [Instr.wf] at h
       omega)
    | (refine ok_ite ?_
       intro h
       simp [Instr.wf] at h
       omega)
    | (refine ok_ite ?_
       intro h
       simp [Instr.wf, upsetOk, bits] at h
       omega)
  case memDataWrite q len v => exact ok_next
  case memDataFetch q size => exact ok_next
  case tDtxWrite q t v =>
    show OkOut _ (execTDtxWrite q t v s)
    unfold execTDtxWrite
    first
    | exact ok_next
    | (refine ok_unit ?_
       intro h
       simp [Instr.wf] at h
       omega)
    | (refine ok_ite ?_
       intro h
       simp [Instr.wf] at h
       omega)
    | (refine ok_ite ?_
       intro h
       simp [Instr.wf, upsetOk, bits] at h
       omega)
  case dtxRead q t =>
    show OkOut _ (execDtxRead q t s)
    unfold execDtxRead
    first
    | exact ok_next
    | (refine ok_unit ?_
       intro h
       simp [Instr.wf] at h
       omega)
    | (refine ok_ite ?_
       intro h
       simp [Instr.wf] at h
       omega)
    | (refine ok_ite ?_
       intro h
       simp [Instr.wf, upsetOk, bits] at h
       omega)
  case drxWrite q t v =>
    show OkOut _ (execDrxWrite q t v s)
    unfold execDrxWrite
    first
    | exact ok_next
    | (refine ok_unit ?_
       intro h
       simp [Instr.wf] at h
       omega)
    | (refine ok_ite ?_
       intro h
       simp [Instr.wf] at h
       omega)
    | (refine ok_ite ?_
       intro h
       simp [Instr.wf, upsetOk, bits] at h
       omega)
  case tDrxRead q t =>
    show OkOut _ (execTDrxRead q t s)
    unfold execTDrxRead
    first
    | exact ok_next
    | (refine ok_unit ?_
       intro h
       simp [Instr.wf] at h
       omega)
    | (refine ok_ite ?_
       intro h
       simp [Instr.wf] at h
       omega)
    | (refine ok_ite ?_
       intro h
       simp [Instr.wf, upsetOk, bits] at h
       omega)
  case retireWrite q k v =>
    show OkOut _ (execRetireWrite q k v s)
    unfold execRetireWrite
    first
    | exact ok_next
    | (refine ok_unit ?_
       intro h
       simp [Instr.wf] at h
       omega)
    | (refine ok_ite ?_
       intro h
       simp [Instr.wf] at h
       omega)
    | (refine ok_ite ?_
       intro h
       simp [Instr.wf, upsetOk, bits] at h
       omega)
  case invalidHeader n =>
    show OkOut _ (execInvalidHeader n s)
    unfold execInvalidHeader
    first
    | exact ok_next
    | (refine ok_unit ?_
       intro h
       simp [Instr.wf] at h
       omega)
    | (refine ok_ite ?_
       intro h
       simp [Instr.wf] at h
       omega)
    | (refine ok_ite ?_
       intro h
       simp [Instr.wf, upsetOk, bits] at h
       omega)
  case prbsChecker n syms =>
    show OkOut _ (execPrbsChecker n syms s)
    unfold execPrbsChecker
    first
    | exact ok_next
    | (refine ok_unit ?_
       intro h
       simp [Instr.wf] at h
       omega)
    | (refine ok_ite ?_
       intro h
       simp [Instr.wf] at h
       omega)
    | (refine ok_ite ?_
       intro h
       simp [Instr.wf, upsetOk, bits] at h
       omega)
  case lrefLoss k =>
    show OkOut _ (execLrefLoss k s)
    unfold execLrefLoss
    first
    | exact ok_next
    | (refine ok_unit ?_
       intro h
       simp [Instr.wf] at h
       omega)
    | (refine ok_ite ?_
       intro h
       simp [Instr.wf] at h
       omega)
    | (refine ok_ite ?_
       intro h
       simp [Instr.wf, upsetOk, bits] at h
       omega)
  case tailToHeadMove q =>
    show OkOut _ (execTailToHeadMove q s)
    unfold execTailToHeadMove
    first
    | exact ok_next
    | (refine ok_unit ?_
       intro h
       simp [Instr.wf] at h
       omega)
    | (refine ok_ite ?_
       intro h
       simp [Instr.wf] at h
       omega)
    | (refine ok_ite ?_
       intro h
       simp [Instr.wf, upsetOk, bits] at h
       omega)
  case domainOff d =>
    show OkOut _ (execDomainOff d s)
    unfold execDomainOff
    first
    | exact ok_next
    | (refine ok_unit ?_
       intro h
       simp [Instr.wf] at h
       omega)
    | (refine ok_ite ?_
       intro h
       simp [Instr.wf] at h
       omega)
    | (refine ok_ite ?_
       intro h
       simp [Instr.wf, upsetOk, bits] at h
       omega)
  case flashTimeout => exact ok_next
  case wdogRestart => exact ok_next
  case loupeHeartbeatIdle => exact ok_next
  case pullselChange b v =>
    show OkOut _ (execPullselChange b v s)
    unfold execPullselChange
    first
    | exact ok_next
    | (refine ok_unit ?_
       intro h
       simp [Instr.wf] at h
       omega)
    | (refine ok_ite ?_
       intro h
       simp [Instr.wf] at h
       omega)
    | (refine ok_ite ?_
       intro h
       simp [Instr.wf, upsetOk, bits] at h
       omega)
  case vioRailChange b ok level =>
    show OkOut _ (execVioRailChange b ok level s)
    unfold execVioRailChange
    first
    | exact ok_next
    | (refine ok_unit ?_
       intro h
       simp [Instr.wf] at h
       omega)
    | (refine ok_ite ?_
       intro h
       simp [Instr.wf] at h
       omega)
    | (refine ok_ite ?_
       intro h
       simp [Instr.wf, upsetOk, bits] at h
       omega)
end Sys2Proof.Laws.ExecAll
end

