-- ==== Sys2Proof/Laws/ExecFrames.lean ====
section
/-! SUPPORT. One lemma for each command: the members it may change, and whether it may change memory. -/
set_option linter.unreachableTactic false
set_option linter.unusedTactic false
namespace Sys2Proof.Laws.ExecFrames
open Sys2Proof.Machine
theorem has_one {c : Change} {k : Nat} (h : k ∈ c.ones) : c.has k := .inl h
theorem has_run {c : Change} {f : Nat → Nat} (h : f ∈ c.runs) (u : Nat) : c.has (f u) := .inr (.inl ⟨f, h, u, rfl⟩)
theorem has_pair {c : Change} {f : Nat → Nat → Nat} (h : f ∈ c.pairs) (u v : Nat) : c.has (f u v) := .inr (.inr ⟨f, h, u, v, rfl⟩)
theorem fr_concl {c : Change} {s t : State} {o : Out} (h : FrOut c.has (c.mem = true) s o) (e : o = .next t) :
    OnlyMembers c.has s t ∧ (c.mem = false → t.mem = s.mem) :=
  ⟨(h t e).1, fun hm => (h t e).2 (by rw [hm]; decide)⟩
theorem opOf_cases (q : Req) (d : Nat) : opOf q d = d ∨ opOf q d = 0 ∨ 5 < opOf q d := by
  unfold opOf
  split
  · split
    · exact .inl rfl
    · omega
  · exact .inl rfl
theorem frame_fetch (q o m len v : _) {c : Change} {s t : State} (hc : changesControl (.fetch q o m len v) = some c) (he : exec (.fetch q o m len v) s = .next t) :
    OnlyMembers c.has s t ∧ (c.mem = false → t.mem = s.mem) := by
  cases hc
  refine fr_concl ?_ he
  have ks : ∀ u, Change.has { ones := [DBG.MEM_ADDR, HDI.MESH_ADDR], runs := [HDI.STATS] } (HDI.STATS u) := fun u => has_run (f := HDI.STATS) (by simp) u
  have ka : ∀ u, Change.has { ones := [DBG.MEM_ADDR, HDI.MESH_ADDR], runs := [HDI.STATS] } (addrKey u) := fun u =>
    match u with
    | true => has_one (by simp [addrKey])
    | false => has_one (by simp [addrKey])
  refine frOut_next ?_
  have ho := opOf_cases q 3
  unfold request
  split
  · exact finish_fr _ _ _ _ _ _ _ _ _ (fun _ h => h) (fr_refl s) (ks _) (ks _)
  · split
    · omega
    · omega
    · exact fetchReq_fr _ _ _ _ _ _ (fr_refl s) ks ka
    · omega
    · omega
    · exact finish_fr _ _ _ _ _ _ _ _ _ (fun _ h => h) (fr_refl s) (ks _) (ks _)
theorem frame_mread (q o m : _) {c : Change} {s t : State} (hc : changesControl (.mread q o m) = some c) (he : exec (.mread q o m) s = .next t) :
    OnlyMembers c.has s t ∧ (c.mem = false → t.mem = s.mem) := by
  cases hc
  refine fr_concl (execMread_fr q o m s (fr_refl s) (fun u => has_run (f := HDI.STATS) (by simp) u)) he
theorem frame_mdrop (q o m : _) {c : Change} {s t : State} (hc : changesControl (.mdrop q o m) = some c) (he : exec (.mdrop q o m) s = .next t) :
    OnlyMembers c.has s t ∧ (c.mem = false → t.mem = s.mem) := by
  cases hc
  refine fr_concl (execMdrop_fr q o m s (fr_refl s) (has_one (by first | simp | decide)) (fun u => has_run (f := HDI.STATS) (by simp) u)) he
theorem frame_fetchComplete (master o m : _) {c : Change} {s t : State} (hc : changesControl (.fetchComplete master o m) = some c) (he : exec (.fetchComplete master o m) s = .next t) :
    OnlyMembers c.has s t ∧ (c.mem = false → t.mem = s.mem) := by
  cases hc
  refine fr_concl (execFetchComplete_fr master o m s (fr_refl s) (has_one (by first | simp | decide)) (has_one (by first | simp | decide)) (has_one (by first | simp | decide)) (fun u => has_run (f := LNK.MESH_RESP) (by simp) u) (has_one (by first | simp | decide)) (fun u => has_run (f := TMU.LANE_FLAGS) (by simp) u) (fun u => has_run (f := TMU.TXTS_LOST) (by simp) u) (fun u => has_run (f := TMU.TXTS_MADE) (by simp) u) (fun u => has_run (f := TMU.TXTS_READ) (by simp) u)) he
theorem frame_responseRead {c : Change} {s t : State} (hc : changesControl (.responseRead) = some c) (he : exec (.responseRead) s = .next t) :
    OnlyMembers c.has s t ∧ (c.mem = false → t.mem = s.mem) := by
  cases hc
  refine fr_concl (execResponseRead_fr s (fr_refl s)) he
theorem frame_enec (dest events : _) {c : Change} {s t : State} (hc : changesControl (.enec dest events) = some c) (he : exec (.enec dest events) s = .next t) :
    OnlyMembers c.has s t ∧ (c.mem = false → t.mem = s.mem) := by
  cases hc
  refine fr_concl (execEnec_fr dest events s (fr_refl s)) he
theorem frame_disec (dest events : _) {c : Change} {s t : State} (hc : changesControl (.disec dest events) = some c) (he : exec (.disec dest events) s = .next t) :
    OnlyMembers c.has s t ∧ (c.mem = false → t.mem = s.mem) := by
  cases hc
  refine fr_concl (execDisec_fr dest events s (fr_refl s)) he
theorem frame_rstdaa {c : Change} {s t : State} (hc : changesControl (.rstdaa) = some c) (he : exec (.rstdaa) s = .next t) :
    OnlyMembers c.has s t ∧ (c.mem = false → t.mem = s.mem) := by
  cases hc
  refine fr_concl (execRstdaa_fr s (fr_refl s)) he
theorem frame_entdaa (addr rivals : _) {c : Change} {s t : State} (hc : changesControl (.entdaa addr rivals) = some c) (he : exec (.entdaa addr rivals) s = .next t) :
    OnlyMembers c.has s t ∧ (c.mem = false → t.mem = s.mem) := by
  cases hc
  refine fr_concl (execEntdaa_fr addr rivals s (fr_refl s)) he
theorem frame_setaasa {c : Change} {s t : State} (hc : changesControl (.setaasa) = some c) (he : exec (.setaasa) s = .next t) :
    OnlyMembers c.has s t ∧ (c.mem = false → t.mem = s.mem) := by
  cases hc
  refine fr_concl (execSetaasa_fr s (fr_refl s)) he
theorem frame_setdasa (dest addr : _) {c : Change} {s t : State} (hc : changesControl (.setdasa dest addr) = some c) (he : exec (.setdasa dest addr) s = .next t) :
    OnlyMembers c.has s t ∧ (c.mem = false → t.mem = s.mem) := by
  cases hc
  refine fr_concl (execSetdasa_fr dest addr s (fr_refl s)) he
theorem frame_setnewda (dest addr : _) {c : Change} {s t : State} (hc : changesControl (.setnewda dest addr) = some c) (he : exec (.setnewda dest addr) s = .next t) :
    OnlyMembers c.has s t ∧ (c.mem = false → t.mem = s.mem) := by
  cases hc
  refine fr_concl (execSetnewda_fr dest addr s (fr_refl s)) he
theorem frame_setmwl (dest v : _) {c : Change} {s t : State} (hc : changesControl (.setmwl dest v) = some c) (he : exec (.setmwl dest v) s = .next t) :
    OnlyMembers c.has s t ∧ (c.mem = false → t.mem = s.mem) := by
  cases hc
  refine fr_concl (execSetmwl_fr dest v s (fr_refl s)) he
theorem frame_setmrl (dest v : _) {c : Change} {s t : State} (hc : changesControl (.setmrl dest v) = some c) (he : exec (.setmrl dest v) s = .next t) :
    OnlyMembers c.has s t ∧ (c.mem = false → t.mem = s.mem) := by
  cases hc
  refine fr_concl (execSetmrl_fr dest v s (fr_refl s)) he
theorem frame_getmwl (dest : _) {c : Change} {s t : State} (hc : changesControl (.getmwl dest) = some c) (he : exec (.getmwl dest) s = .next t) :
    OnlyMembers c.has s t ∧ (c.mem = false → t.mem = s.mem) := by
  cases hc
  refine fr_concl (execGetmwl_fr dest s (fr_refl s)) he
theorem frame_getmrl (dest : _) {c : Change} {s t : State} (hc : changesControl (.getmrl dest) = some c) (he : exec (.getmrl dest) s = .next t) :
    OnlyMembers c.has s t ∧ (c.mem = false → t.mem = s.mem) := by
  cases hc
  refine fr_concl (execGetmrl_fr dest s (fr_refl s)) he
theorem frame_getpid (dest : _) {c : Change} {s t : State} (hc : changesControl (.getpid dest) = some c) (he : exec (.getpid dest) s = .next t) :
    OnlyMembers c.has s t ∧ (c.mem = false → t.mem = s.mem) := by
  cases hc
  refine fr_concl (execGetpid_fr dest s (fr_refl s)) he
theorem frame_getbcr (dest : _) {c : Change} {s t : State} (hc : changesControl (.getbcr dest) = some c) (he : exec (.getbcr dest) s = .next t) :
    OnlyMembers c.has s t ∧ (c.mem = false → t.mem = s.mem) := by
  cases hc
  refine fr_concl (execGetbcr_fr dest s (fr_refl s)) he
theorem frame_getdcr (dest : _) {c : Change} {s t : State} (hc : changesControl (.getdcr dest) = some c) (he : exec (.getdcr dest) s = .next t) :
    OnlyMembers c.has s t ∧ (c.mem = false → t.mem = s.mem) := by
  cases hc
  refine fr_concl (execGetdcr_fr dest s (fr_refl s)) he
theorem frame_getstatus (dest : _) {c : Change} {s t : State} (hc : changesControl (.getstatus dest) = some c) (he : exec (.getstatus dest) s = .next t) :
    OnlyMembers c.has s t ∧ (c.mem = false → t.mem = s.mem) := by
  cases hc
  refine fr_concl (execGetstatus_fr dest s (fr_refl s)) he
theorem frame_enthdr0 {c : Change} {s t : State} (hc : changesControl (.enthdr0) = some c) (he : exec (.enthdr0) s = .next t) :
    OnlyMembers c.has s t ∧ (c.mem = false → t.mem = s.mem) := by
  cases hc
  refine fr_concl (execEnthdr0_fr s (fr_refl s)) he
theorem frame_enthdrUnsupported (k : _) {c : Change} {s t : State} (hc : changesControl (.enthdrUnsupported k) = some c) (he : exec (.enthdrUnsupported k) s = .next t) :
    OnlyMembers c.has s t ∧ (c.mem = false → t.mem = s.mem) := by
  cases hc
  refine fr_concl (execEnthdrUnsupported_fr k s (fr_refl s)) he
theorem frame_hdrExit {c : Change} {s t : State} (hc : changesControl (.hdrExit) = some c) (he : exec (.hdrExit) s = .next t) :
    OnlyMembers c.has s t ∧ (c.mem = false → t.mem = s.mem) := by
  cases hc
  refine fr_concl (execHdrExit_fr s (fr_refl s)) he
theorem frame_rstact (dest b : _) {c : Change} {s t : State} (hc : changesControl (.rstact dest b) = some c) (he : exec (.rstact dest b) s = .next t) :
    OnlyMembers c.has s t ∧ (c.mem = false → t.mem = s.mem) := by
  cases hc
  refine fr_concl (execRstact_fr dest b s (fr_refl s)) he
theorem frame_unsupportedCcc (dest : _) {c : Change} {s t : State} (hc : changesControl (.unsupportedCcc dest) = some c) (he : exec (.unsupportedCcc dest) s = .next t) :
    OnlyMembers c.has s t ∧ (c.mem = false → t.mem = s.mem) := by
  cases hc
  refine fr_concl (execUnsupportedCcc_fr dest s (fr_refl s)) he
theorem frame_mgmtSlotIdleTimeout (k : _) {c : Change} {s t : State} (hc : changesControl (.mgmtSlotIdleTimeout k) = some c) (he : exec (.mgmtSlotIdleTimeout k) s = .next t) :
    OnlyMembers c.has s t ∧ (c.mem = false → t.mem = s.mem) := by
  cases hc
  refine fr_concl (execMgmtSlotIdleTimeout_fr k s (fr_refl s) (has_one (by first | simp | decide)) (has_one (by first | simp | decide)) (has_one (by first | simp | decide)) (has_one (by first | simp | decide))) he
theorem frame_statsClr (q v : _) {c : Change} {s t : State} (hc : changesControl (.statsClr q v) = some c) (he : exec (.statsClr q v) s = .next t) :
    OnlyMembers c.has s t ∧ (c.mem = false → t.mem = s.mem) := by
  cases hc
  refine fr_concl (execStatsClr_fr q v s (fr_refl s) (fun u => has_run (f := HDI.STATS) (by simp) u)) he
theorem frame_meshDataWrite (q len v : _) {c : Change} {s t : State} (hc : changesControl (.meshDataWrite q len v) = some c) (he : exec (.meshDataWrite q len v) s = .next t) :
    OnlyMembers c.has s t ∧ (c.mem = false → t.mem = s.mem) := by
  cases hc
  refine fr_concl (execMeshDataWrite_fr q len v s (fr_refl s) (fun u => has_run (f := HDI.STATS) (by simp) u) (fun u => match u with | true => has_one (by simp [addrKey]) | false => has_one (by simp [addrKey]))) he
theorem frame_meshDataFetch (q size : _) {c : Change} {s t : State} (hc : changesControl (.meshDataFetch q size) = some c) (he : exec (.meshDataFetch q size) s = .next t) :
    OnlyMembers c.has s t ∧ (c.mem = false → t.mem = s.mem) := by
  cases hc
  refine fr_concl (execMeshDataFetch_fr q size s (fr_refl s) (fun u => has_run (f := HDI.STATS) (by simp) u) (fun u => match u with | true => has_one (by simp [addrKey]) | false => has_one (by simp [addrKey]))) he
theorem frame_mirrorLeaseExpiry {c : Change} {s t : State} (hc : changesControl (.mirrorLeaseExpiry) = some c) (he : exec (.mirrorLeaseExpiry) s = .next t) :
    OnlyMembers c.has s t ∧ (c.mem = false → t.mem = s.mem) := by
  cases hc
  refine fr_concl (execMirrorLeaseExpiry_fr s (fr_refl s) (has_one (by first | simp | decide)) (has_one (by first | simp | decide))) he
theorem frame_batchCheck (q v : _) {c : Change} {s t : State} (hc : changesControl (.batchCheck q v) = some c) (he : exec (.batchCheck q v) s = .next t) :
    OnlyMembers c.has s t ∧ (c.mem = false → t.mem = s.mem) := by
  cases hc
  refine fr_concl (execBatchCheck_fr q v s (fr_refl s) (has_one (by first | simp | decide)) (fun u => has_run (f := HDI.STATS) (by simp) u)) he
theorem frame_batchCheckEnd {c : Change} {s t : State} (hc : changesControl (.batchCheckEnd) = some c) (he : exec (.batchCheckEnd) s = .next t) :
    OnlyMembers c.has s t ∧ (c.mem = false → t.mem = s.mem) := by
  cases hc
  refine fr_concl (execBatchCheckEnd_fr s (fr_refl s) (has_one (by first | simp | decide)) (has_one (by first | simp | decide)) (has_one (by first | simp | decide))) he
theorem frame_batchDiscard (q v : _) {c : Change} {s t : State} (hc : changesControl (.batchDiscard q v) = some c) (he : exec (.batchDiscard q v) s = .next t) :
    OnlyMembers c.has s t ∧ (c.mem = false → t.mem = s.mem) := by
  cases hc
  refine fr_concl (execBatchDiscard_fr q v s (fr_refl s) (has_one (by first | simp | decide)) (has_one (by first | simp | decide)) (fun u => has_run (f := HDI.STATS) (by simp) u)) he
theorem frame_applyArm (q v : _) {c : Change} {s t : State} (hc : changesControl (.applyArm q v) = some c) (he : exec (.applyArm q v) s = .next t) :
    OnlyMembers c.has s t ∧ (c.mem = false → t.mem = s.mem) := by
  cases hc
  refine fr_concl (execApplyArm_fr q v s (fr_refl s) (has_one (by first | simp | decide)) (fun u => has_run (f := HDI.STATS) (by simp) u) (fun u => has_run (f := VEN.APG_DISCARD) (by simp) u) (fun u => has_run (f := VEN.STATE) (by simp) u)) he
theorem frame_applyCancel (q v : _) {c : Change} {s t : State} (hc : changesControl (.applyCancel q v) = some c) (he : exec (.applyCancel q v) s = .next t) :
    OnlyMembers c.has s t ∧ (c.mem = false → t.mem = s.mem) := by
  cases hc
  refine fr_concl (execApplyCancel_fr q v s (fr_refl s) (has_one (by first | simp | decide)) (fun u => has_run (f := HDI.STATS) (by simp) u) (fun u => has_run (f := VEN.STATE) (by simp) u)) he
theorem frame_syncinCapture (level : _) {c : Change} {s t : State} (hc : changesControl (.syncinCapture level) = some c) (he : exec (.syncinCapture level) s = .next t) :
    OnlyMembers c.has s t ∧ (c.mem = false → t.mem = s.mem) := by
  cases hc
  refine fr_concl (execSyncinCapture_fr level s (fr_refl s)) he
theorem frame_veEnable (q n : _) {c : Change} {s t : State} (hc : changesEngines (.veEnable q n) = some c) (he : exec (.veEnable q n) s = .next t) :
    OnlyMembers c.has s t ∧ (c.mem = false → t.mem = s.mem) := by
  cases hc
  refine fr_concl (execVeEnable_fr q n s (fr_refl s) (has_one (by first | simp | decide)) (has_one (by first | simp | decide)) (fun u => has_run (f := HDI.STATS) (by simp) u) (fun u => has_run (f := VEN.STATE) (by simp) u)) he
theorem frame_veDisable (q n : _) {c : Change} {s t : State} (hc : changesEngines (.veDisable q n) = some c) (he : exec (.veDisable q n) s = .next t) :
    OnlyMembers c.has s t ∧ (c.mem = false → t.mem = s.mem) := by
  cases hc
  refine fr_concl (execVeDisable_fr q n s (fr_refl s) (has_one (by first | simp | decide)) (has_one (by first | simp | decide)) (fun u => has_run (f := HDI.STATS) (by simp) u) (fun u => has_run (f := VEN.STATE) (by simp) u)) he
theorem frame_veStart (q n : _) {c : Change} {s t : State} (hc : changesEngines (.veStart q n) = some c) (he : exec (.veStart q n) s = .next t) :
    OnlyMembers c.has s t ∧ (c.mem = false → t.mem = s.mem) := by
  cases hc
  refine fr_concl (execVeStart_fr q n s (fr_refl s) (has_one (by first | simp | decide)) (has_one (by first | simp | decide)) (fun u => has_run (f := HDI.STATS) (by simp) u) (has_one (by first | simp | decide)) (fun u => has_run (f := VEN.STATE) (by simp) u)) he
theorem frame_veStartAt (q n : _) {c : Change} {s t : State} (hc : changesEngines (.veStartAt q n) = some c) (he : exec (.veStartAt q n) s = .next t) :
    OnlyMembers c.has s t ∧ (c.mem = false → t.mem = s.mem) := by
  cases hc
  refine fr_concl (execVeStartAt_fr q n s (fr_refl s) (has_one (by first | simp | decide)) (has_one (by first | simp | decide)) (fun u => has_run (f := HDI.STATS) (by simp) u) (has_one (by first | simp | decide)) (has_one (by first | simp | decide)) (fun u => has_run (f := VEN.STATE) (by simp) u)) he
theorem frame_veHalt (q n : _) {c : Change} {s t : State} (hc : changesEngines (.veHalt q n) = some c) (he : exec (.veHalt q n) s = .next t) :
    OnlyMembers c.has s t ∧ (c.mem = false → t.mem = s.mem) := by
  cases hc
  refine fr_concl (execVeHalt_fr q n s (fr_refl s) (fun u => has_run (f := HDI.STATS) (by simp) u)) he
theorem frame_veResume (q n : _) {c : Change} {s t : State} (hc : changesEngines (.veResume q n) = some c) (he : exec (.veResume q n) s = .next t) :
    OnlyMembers c.has s t ∧ (c.mem = false → t.mem = s.mem) := by
  cases hc
  refine fr_concl (execVeResume_fr q n s (fr_refl s) (fun u => has_run (f := HDI.STATS) (by simp) u)) he
theorem frame_veStop (q n : _) {c : Change} {s t : State} (hc : changesEngines (.veStop q n) = some c) (he : exec (.veStop q n) s = .next t) :
    OnlyMembers c.has s t ∧ (c.mem = false → t.mem = s.mem) := by
  cases hc
  refine fr_concl (execVeStop_fr q n s (fr_refl s) (has_one (by first | simp | decide)) (has_one (by first | simp | decide)) (fun u => has_run (f := HDI.STATS) (by simp) u) (has_one (by first | simp | decide)) (fun u => has_run (f := VEN.STATE) (by simp) u)) he
theorem frame_veClearFault (q n : _) {c : Change} {s t : State} (hc : changesEngines (.veClearFault q n) = some c) (he : exec (.veClearFault q n) s = .next t) :
    OnlyMembers c.has s t ∧ (c.mem = false → t.mem = s.mem) := by
  cases hc
  refine fr_concl (execVeClearFault_fr q n s (fr_refl s) (has_one (by first | simp | decide)) (has_one (by first | simp | decide)) (fun u => has_run (f := HDI.STATS) (by simp) u) (fun u => has_run (f := VEN.STATE) (by simp) u)) he
theorem frame_veSelfcheck (q n : _) {c : Change} {s t : State} (hc : changesEngines (.veSelfcheck q n) = some c) (he : exec (.veSelfcheck q n) s = .next t) :
    OnlyMembers c.has s t ∧ (c.mem = false → t.mem = s.mem) := by
  cases hc
  refine fr_concl (execVeSelfcheck_fr q n s (fr_refl s) (has_one (by first | simp | decide)) (has_one (by first | simp | decide)) (fun u => has_run (f := HDI.STATS) (by simp) u) (fun u => has_run (f := VEN.STATE) (by simp) u)) he
theorem frame_veSelfcheckEnd (n pass : _) {c : Change} {s t : State} (hc : changesEngines (.veSelfcheckEnd n pass) = some c) (he : exec (.veSelfcheckEnd n pass) s = .next t) :
    OnlyMembers c.has s t ∧ (c.mem = false → t.mem = s.mem) := by
  cases hc
  refine fr_concl (execVeSelfcheckEnd_fr n pass s (fr_refl s) (has_one (by first | simp | decide)) (has_one (by first | simp | decide)) (has_one (by first | simp | decide)) (fun u => has_run (f := VEN.STATE) (by simp) u)) he
theorem frame_veStartEdge (n : _) {c : Change} {s t : State} (hc : changesEngines (.veStartEdge n) = some c) (he : exec (.veStartEdge n) s = .next t) :
    OnlyMembers c.has s t ∧ (c.mem = false → t.mem = s.mem) := by
  cases hc
  refine fr_concl (execVeStartEdge_fr n s (fr_refl s) (has_one (by first | simp | decide)) (has_one (by first | simp | decide)) (has_one (by first | simp | decide)) (has_one (by first | simp | decide)) (fun u => has_run (f := (VEN.CTR n)) (by simp) u) (has_one (by first | simp | decide)) (has_one (by first | simp | decide)) (has_one (by first | simp | decide)) (has_one (by first | simp | decide)) (has_one (by first | simp | decide)) (fun u => has_run (f := VEN.STATE) (by simp) u) (has_one (by first | simp | decide))) he
theorem frame_barrierRelease (mask : _) {c : Change} {s t : State} (hc : changesEngines (.barrierRelease mask) = some c) (he : exec (.barrierRelease mask) s = .next t) :
    OnlyMembers c.has s t ∧ (c.mem = false → t.mem = s.mem) := by
  cases hc
  refine fr_concl (execBarrierRelease_fr mask s (fr_refl s) (fun u => has_run (f := VEN.FLAGS) (by simp) u)) he
theorem frame_veResumeLands (n : _) {c : Change} {s t : State} (hc : changesEngines (.veResumeLands n) = some c) (he : exec (.veResumeLands n) s = .next t) :
    OnlyMembers c.has s t ∧ (c.mem = false → t.mem = s.mem) := by
  cases hc
  refine fr_concl (execVeResumeLands_fr n s (fr_refl s) (has_one (by first | simp | decide)) (has_one (by first | simp | decide)) (fun u => has_run (f := VEN.STATE) (by simp) u)) he
theorem frame_lineReadIssue (n : _) {c : Change} {s t : State} (hc : changesEngines (.lineReadIssue n) = some c) (he : exec (.lineReadIssue n) s = .next t) :
    OnlyMembers c.has s t ∧ (c.mem = false → t.mem = s.mem) := by
  cases hc
  refine fr_concl (execLineReadIssue_fr n s (fr_refl s) (has_one (by first | simp | decide))) he
theorem frame_lineReadComplete (n line : _) {c : Change} {s t : State} (hc : changesEngines (.lineReadComplete n line) = some c) (he : exec (.lineReadComplete n line) s = .next t) :
    OnlyMembers c.has s t ∧ (c.mem = false → t.mem = s.mem) := by
  cases hc
  refine fr_concl (execLineReadComplete_fr n line s (fr_refl s) rfl (has_one (by first | simp | decide)) (has_one (by first | simp | decide)) (fun u => has_run (f := MSH.PFLITS) (by simp) u) (fun u => has_run (f := MSH.PPKTS) (by simp) u) (has_one (by first | simp | decide)) (fun u => has_run (f := MSH.LINK_CE) (by simp) u) (fun u => has_run (f := MSH.LINK_UE) (by simp) u)) he
theorem frame_apgTransfer (n : _) {c : Change} {s t : State} (hc : changesEngines (.apgTransfer n) = some c) (he : exec (.apgTransfer n) s = .next t) :
    OnlyMembers c.has s t ∧ (c.mem = false → t.mem = s.mem) := by
  cases hc
  refine fr_concl (execApgTransfer_fr n s (fr_refl s) (has_one (by first | simp | decide))) he
theorem frame_cellPass (col row : _) {c : Change} {s t : State} (hc : changesEngines (.cellPass col row) = some c) (he : exec (.cellPass col row) s = .next t) :
    OnlyMembers c.has s t ∧ (c.mem = false → t.mem = s.mem) := by
  cases hc
  refine fr_concl (execCellPass_fr col row s (fr_refl s)) he
theorem frame_cellAdd (col row : _) {c : Change} {s t : State} (hc : changesEngines (.cellAdd col row) = some c) (he : exec (.cellAdd col row) s = .next t) :
    OnlyMembers c.has s t ∧ (c.mem = false → t.mem = s.mem) := by
  cases hc
  refine fr_concl (execCellAdd_fr col row s (fr_refl s)) he
theorem frame_cellSub (col row : _) {c : Change} {s t : State} (hc : changesEngines (.cellSub col row) = some c) (he : exec (.cellSub col row) s = .next t) :
    OnlyMembers c.has s t ∧ (c.mem = false → t.mem = s.mem) := by
  cases hc
  refine fr_concl (execCellSub_fr col row s (fr_refl s)) he
theorem frame_cellAnd (col row : _) {c : Change} {s t : State} (hc : changesEngines (.cellAnd col row) = some c) (he : exec (.cellAnd col row) s = .next t) :
    OnlyMembers c.has s t ∧ (c.mem = false → t.mem = s.mem) := by
  cases hc
  refine fr_concl (execCellAnd_fr col row s (fr_refl s)) he
theorem frame_cellOr (col row : _) {c : Change} {s t : State} (hc : changesEngines (.cellOr col row) = some c) (he : exec (.cellOr col row) s = .next t) :
    OnlyMembers c.has s t ∧ (c.mem = false → t.mem = s.mem) := by
  cases hc
  refine fr_concl (execCellOr_fr col row s (fr_refl s)) he
theorem frame_cellXor (col row : _) {c : Change} {s t : State} (hc : changesEngines (.cellXor col row) = some c) (he : exec (.cellXor col row) s = .next t) :
    OnlyMembers c.has s t ∧ (c.mem = false → t.mem = s.mem) := by
  cases hc
  refine fr_concl (execCellXor_fr col row s (fr_refl s)) he
theorem frame_cellAndn (col row : _) {c : Change} {s t : State} (hc : changesEngines (.cellAndn col row) = some c) (he : exec (.cellAndn col row) s = .next t) :
    OnlyMembers c.has s t ∧ (c.mem = false → t.mem = s.mem) := by
  cases hc
  refine fr_concl (execCellAndn_fr col row s (fr_refl s)) he
theorem frame_cellNot (col row : _) {c : Change} {s t : State} (hc : changesEngines (.cellNot col row) = some c) (he : exec (.cellNot col row) s = .next t) :
    OnlyMembers c.has s t ∧ (c.mem = false → t.mem = s.mem) := by
  cases hc
  refine fr_concl (execCellNot_fr col row s (fr_refl s)) he
theorem frame_cellShl1 (col row : _) {c : Change} {s t : State} (hc : changesEngines (.cellShl1 col row) = some c) (he : exec (.cellShl1 col row) s = .next t) :
    OnlyMembers c.has s t ∧ (c.mem = false → t.mem = s.mem) := by
  cases hc
  refine fr_concl (execCellShl1_fr col row s (fr_refl s)) he
theorem frame_cellShl (col row : _) {c : Change} {s t : State} (hc : changesEngines (.cellShl col row) = some c) (he : exec (.cellShl col row) s = .next t) :
    OnlyMembers c.has s t ∧ (c.mem = false → t.mem = s.mem) := by
  cases hc
  refine fr_concl (execCellShl_fr col row s (fr_refl s)) he
theorem frame_cellShr (col row : _) {c : Change} {s t : State} (hc : changesEngines (.cellShr col row) = some c) (he : exec (.cellShr col row) s = .next t) :
    OnlyMembers c.has s t ∧ (c.mem = false → t.mem = s.mem) := by
  cases hc
  refine fr_concl (execCellShr_fr col row s (fr_refl s)) he
theorem frame_cellRol (col row : _) {c : Change} {s t : State} (hc : changesEngines (.cellRol col row) = some c) (he : exec (.cellRol col row) s = .next t) :
    OnlyMembers c.has s t ∧ (c.mem = false → t.mem = s.mem) := by
  cases hc
  refine fr_concl (execCellRol_fr col row s (fr_refl s)) he
theorem frame_cellBrev (col row : _) {c : Change} {s t : State} (hc : changesEngines (.cellBrev col row) = some c) (he : exec (.cellBrev col row) s = .next t) :
    OnlyMembers c.has s t ∧ (c.mem = false → t.mem = s.mem) := by
  cases hc
  refine fr_concl (execCellBrev_fr col row s (fr_refl s)) he
theorem frame_cellBsel (col row : _) {c : Change} {s t : State} (hc : changesEngines (.cellBsel col row) = some c) (he : exec (.cellBsel col row) s = .next t) :
    OnlyMembers c.has s t ∧ (c.mem = false → t.mem = s.mem) := by
  cases hc
  refine fr_concl (execCellBsel_fr col row s (fr_refl s)) he
theorem frame_cellEq (col row : _) {c : Change} {s t : State} (hc : changesEngines (.cellEq col row) = some c) (he : exec (.cellEq col row) s = .next t) :
    OnlyMembers c.has s t ∧ (c.mem = false → t.mem = s.mem) := by
  cases hc
  refine fr_concl (execCellEq_fr col row s (fr_refl s)) he
theorem frame_cellPar (col row : _) {c : Change} {s t : State} (hc : changesEngines (.cellPar col row) = some c) (he : exec (.cellPar col row) s = .next t) :
    OnlyMembers c.has s t ∧ (c.mem = false → t.mem = s.mem) := by
  cases hc
  refine fr_concl (execCellPar_fr col row s (fr_refl s)) he
theorem frame_cellCntk (col row : _) {c : Change} {s t : State} (hc : changesEngines (.cellCntk col row) = some c) (he : exec (.cellCntk col row) s = .next t) :
    OnlyMembers c.has s t ∧ (c.mem = false → t.mem = s.mem) := by
  cases hc
  refine fr_concl (execCellCntk_fr col row s (fr_refl s)) he
theorem frame_cellMin (col row : _) {c : Change} {s t : State} (hc : changesEngines (.cellMin col row) = some c) (he : exec (.cellMin col row) s = .next t) :
    OnlyMembers c.has s t ∧ (c.mem = false → t.mem = s.mem) := by
  cases hc
  refine fr_concl (execCellMin_fr col row s (fr_refl s)) he
theorem frame_cellMax (col row : _) {c : Change} {s t : State} (hc : changesEngines (.cellMax col row) = some c) (he : exec (.cellMax col row) s = .next t) :
    OnlyMembers c.has s t ∧ (c.mem = false → t.mem = s.mem) := by
  cases hc
  refine fr_concl (execCellMax_fr col row s (fr_refl s)) he
theorem frame_cellReservedOp (col row : _) {c : Change} {s t : State} (hc : changesEngines (.cellReservedOp col row) = some c) (he : exec (.cellReservedOp col row) s = .next t) :
    OnlyMembers c.has s t ∧ (c.mem = false → t.mem = s.mem) := by
  cases hc
  refine fr_concl (execCellReservedOp_fr col row s (fr_refl s)) he
theorem frame_configUpset (u : _) {c : Change} {s t : State} (hc : changesEngines (.configUpset u) = some c) (he : exec (.configUpset u) s = .next t) :
    OnlyMembers c.has s t ∧ (c.mem = false → t.mem = s.mem) := by
  cases hc
  refine fr_concl (execConfigUpset_fr u s (fr_refl s) (has_one (by first | simp | decide)) (has_one (by first | simp | decide))) he
theorem frame_facetRelease (q f : _) {c : Change} {s t : State} (hc : changesEngines (.facetRelease q f) = some c) (he : exec (.facetRelease q f) s = .next t) :
    OnlyMembers c.has s t ∧ (c.mem = false → t.mem = s.mem) := by
  cases hc
  refine fr_concl (execFacetRelease_fr q f s (fr_refl s) (fun u => has_run (f := HDI.STATS) (by simp) u)) he
theorem frame_facetHold (q f : _) {c : Change} {s t : State} (hc : changesEngines (.facetHold q f) = some c) (he : exec (.facetHold q f) s = .next t) :
    OnlyMembers c.has s t ∧ (c.mem = false → t.mem = s.mem) := by
  cases hc
  refine fr_concl (execFacetHold_fr q f s (fr_refl s) (fun u => has_run (f := HDI.STATS) (by simp) u)) he
theorem frame_facetReleaseLands (f : _) {c : Change} {s t : State} (hc : changesEngines (.facetReleaseLands f) = some c) (he : exec (.facetReleaseLands f) s = .next t) :
    OnlyMembers c.has s t ∧ (c.mem = false → t.mem = s.mem) := by
  cases hc
  refine fr_concl (execFacetReleaseLands_fr f s (fr_refl s) (has_one (by first | simp | decide)) (has_one (by first | simp | decide)) (has_one (by first | simp | decide)) (fun u => has_run (f := VEN.STATE) (by simp) u)) he
theorem frame_facetHoldLands (f : _) {c : Change} {s t : State} (hc : changesEngines (.facetHoldLands f) = some c) (he : exec (.facetHoldLands f) s = .next t) :
    OnlyMembers c.has s t ∧ (c.mem = false → t.mem = s.mem) := by
  cases hc
  refine fr_concl (execFacetHoldLands_fr f s (fr_refl s) (has_one (by first | simp | decide)) (has_one (by first | simp | decide)) (has_one (by first | simp | decide)) (fun u => has_run (f := VEN.STATE) (by simp) u)) he
theorem frame_userInWrite (q f k v : _) {c : Change} {s t : State} (hc : changesEngines (.userInWrite q f k v) = some c) (he : exec (.userInWrite q f k v) s = .next t) :
    OnlyMembers c.has s t ∧ (c.mem = false → t.mem = s.mem) := by
  cases hc
  refine fr_concl (execUserInWrite_fr q f k v s (fr_refl s) (has_one (by first | simp | decide)) (fun u => has_run (f := HDI.STATS) (by simp) u)) he
theorem frame_userReq (f : _) {c : Change} {s t : State} (hc : changesEngines (.userReq f) = some c) (he : exec (.userReq f) s = .next t) :
    OnlyMembers c.has s t ∧ (c.mem = false → t.mem = s.mem) := by
  cases hc
  refine fr_concl (execUserReq_fr f s (fr_refl s) (has_one (by first | simp | decide))) he
theorem frame_facetMeshRequest (f op addr len data : _) {c : Change} {s t : State} (hc : changesEngines (.facetMeshRequest f op addr len data) = some c) (he : exec (.facetMeshRequest f op addr len data) s = .next t) :
    OnlyMembers c.has s t ∧ (c.mem = false → t.mem = s.mem) := by
  cases hc
  refine fr_concl (execFacetMeshRequest_fr f op addr len data s (fr_refl s) (has_one (by first | simp | decide))) he
theorem frame_focus (q : _) {c : Change} {s t : State} (hc : changesEngines (.focus q) = some c) (he : exec (.focus q) s = .next t) :
    OnlyMembers c.has s t ∧ (c.mem = false → t.mem = s.mem) := by
  cases hc
  refine fr_concl (execFocus_fr q s (fr_refl s) (has_one (by first | simp | decide)) (fun u => has_run (f := HDI.STATS) (by simp) u)) he
theorem frame_edgSelfcheck (q : _) {c : Change} {s t : State} (hc : changesEngines (.edgSelfcheck q) = some c) (he : exec (.edgSelfcheck q) s = .next t) :
    OnlyMembers c.has s t ∧ (c.mem = false → t.mem = s.mem) := by
  cases hc
  refine fr_concl (execEdgSelfcheck_fr q s (fr_refl s) (has_one (by first | simp | decide)) (fun u => has_run (f := HDI.STATS) (by simp) u)) he
theorem frame_focusAbort (q : _) {c : Change} {s t : State} (hc : changesEngines (.focusAbort q) = some c) (he : exec (.focusAbort q) s = .next t) :
    OnlyMembers c.has s t ∧ (c.mem = false → t.mem = s.mem) := by
  cases hc
  refine fr_concl (execFocusAbort_fr q s (fr_refl s) (has_one (by first | simp | decide)) (fun u => has_run (f := HDI.STATS) (by simp) u) (fun u => has_run (f := fun u0 => calKey u0 6) (by simp) u) (fun u => has_run (f := fun u0 => calKey u0 8) (by simp) u)) he
theorem frame_focusChannelEnd (ch found : _) {c : Change} {s t : State} (hc : changesEngines (.focusChannelEnd ch found) = some c) (he : exec (.focusChannelEnd ch found) s = .next t) :
    OnlyMembers c.has s t ∧ (c.mem = false → t.mem = s.mem) := by
  cases hc
  refine fr_concl (execFocusChannelEnd_fr ch found s (fr_refl s) (has_one (by first | simp | decide)) (fun u => has_run (f := (calKey ch)) (by simp) u) (has_one (by first | simp | decide))) he
theorem frame_selfcheckChannelEnd (ch pass : _) {c : Change} {s t : State} (hc : changesEngines (.selfcheckChannelEnd ch pass) = some c) (he : exec (.selfcheckChannelEnd ch pass) s = .next t) :
    OnlyMembers c.has s t ∧ (c.mem = false → t.mem = s.mem) := by
  cases hc
  refine fr_concl (execSelfcheckChannelEnd_fr ch pass s (fr_refl s) (has_one (by first | simp | decide)) (has_one (by first | simp | decide)) (has_one (by first | simp | decide)) (has_one (by first | simp | decide))) he
theorem frame_tempTrackSample (g temp : _) {c : Change} {s t : State} (hc : changesEngines (.tempTrackSample g temp) = some c) (he : exec (.tempTrackSample g temp) s = .next t) :
    OnlyMembers c.has s t ∧ (c.mem = false → t.mem = s.mem) := by
  cases hc
  refine fr_concl (execTempTrackSample_fr g temp s (fr_refl s) (has_one (by first | simp | decide)) (fun u => has_run (f := fun u0 => calKey u0 8) (by simp) u) (fun u => has_run (f := CRH.TEMP) (by simp) u) (fun u => has_run (f := EDG.GROUP) (by simp) u) (has_one (by first | simp | decide)) (has_one (by first | simp | decide))) he
theorem frame_trimCommit (q : _) {c : Change} {s t : State} (hc : changesEngines (.trimCommit q) = some c) (he : exec (.trimCommit q) s = .next t) :
    OnlyMembers c.has s t ∧ (c.mem = false → t.mem = s.mem) := by
  cases hc
  refine fr_concl (execTrimCommit_fr q s (fr_refl s) (has_one (by first | simp | decide)) (fun u => has_run (f := HDI.STATS) (by simp) u)) he
theorem frame_trimImport (q : _) {c : Change} {s t : State} (hc : changesEngines (.trimImport q) = some c) (he : exec (.trimImport q) s = .next t) :
    OnlyMembers c.has s t ∧ (c.mem = false → t.mem = s.mem) := by
  cases hc
  refine fr_concl (execTrimImport_fr q s (fr_refl s) (has_one (by first | simp | decide)) (fun u => has_run (f := HDI.STATS) (by simp) u)) he
theorem frame_trimWriteEnd {c : Change} {s t : State} (hc : changesEngines (.trimWriteEnd) = some c) (he : exec (.trimWriteEnd) s = .next t) :
    OnlyMembers c.has s t ∧ (c.mem = false → t.mem = s.mem) := by
  cases hc
  refine fr_concl (execTrimWriteEnd_fr s (fr_refl s) (has_one (by first | simp | decide)) (has_one (by first | simp | decide))) he
theorem frame_failCycle (n : _) {c : Change} {s t : State} (hc : changesEngines (.failCycle n) = some c) (he : exec (.failCycle n) s = .next t) :
    OnlyMembers c.has s t ∧ (c.mem = false → t.mem = s.mem) := by
  cases hc
  refine fr_concl (execFailCycle_fr n s (fr_refl s) (fun u => has_run (f := DBG.BRK_HITS) (by simp) u) (fun u => has_run (f := DBG.BRK_STATE) (by simp) u) (has_one (by first | simp | decide)) (has_one (by first | simp | decide)) (has_one (by first | simp | decide)) (has_one (by first | simp | decide)) (has_one (by first | simp | decide)) (has_one (by first | simp | decide)) (fun u => has_run (f := FCP.FCOUNT) (by simp) u) (fun u => has_run (f := FCP.Q_EVFLAGS) (by simp) u) (has_one (by first | simp | decide)) (has_one (by first | simp | decide)) (has_one (by first | simp | decide)) (has_one (by first | simp | decide)) (has_one (by first | simp | decide)) (fun u => has_run (f := FCP.STOPPED_BY) (by simp) u)) he
theorem frame_recordToTail (n : _) {c : Change} {s t : State} (hc : changesEngines (.recordToTail n) = some c) (he : exec (.recordToTail n) s = .next t) :
    OnlyMembers c.has s t ∧ (c.mem = false → t.mem = s.mem) := by
  cases hc
  refine fr_concl (execRecordToTail_fr n s (fr_refl s) (has_one (by first | simp | decide)) (has_one (by first | simp | decide)) (has_one (by first | simp | decide)) (has_one (by first | simp | decide))) he
theorem frame_ringWriteIssue (q : _) {c : Change} {s t : State} (hc : changesEngines (.ringWriteIssue q) = some c) (he : exec (.ringWriteIssue q) s = .next t) :
    OnlyMembers c.has s t ∧ (c.mem = false → t.mem = s.mem) := by
  cases hc
  refine fr_concl (execRingWriteIssue_fr q s (fr_refl s) (has_one (by first | simp | decide))) he
theorem frame_ringReadIssue (q : _) {c : Change} {s t : State} (hc : changesEngines (.ringReadIssue q) = some c) (he : exec (.ringReadIssue q) s = .next t) :
    OnlyMembers c.has s t ∧ (c.mem = false → t.mem = s.mem) := by
  cases hc
  refine fr_concl (execRingReadIssue_fr q s (fr_refl s)) he
theorem frame_ringWriteDone (q line err : _) {c : Change} {s t : State} (hc : changesEngines (.ringWriteDone q line err) = some c) (he : exec (.ringWriteDone q line err) s = .next t) :
    OnlyMembers c.has s t ∧ (c.mem = false → t.mem = s.mem) := by
  cases hc
  refine fr_concl (execRingWriteDone_fr q line err s (fr_refl s) (has_one (by first | simp | decide)) (has_one (by first | simp | decide)) (has_one (by first | simp | decide)) (has_one (by first | simp | decide)) (has_one (by first | simp | decide)) (has_one (by first | simp | decide)) (fun u => has_run (f := MSH.PFLITS) (by simp) u) (fun u => has_run (f := MSH.PPKTS) (by simp) u) (has_one (by first | simp | decide)) (fun u => has_run (f := MSH.LINK_CE) (by simp) u) (fun u => has_run (f := MSH.LINK_UE) (by simp) u)) he
theorem frame_ringReadDone (q err : _) {c : Change} {s t : State} (hc : changesEngines (.ringReadDone q err) = some c) (he : exec (.ringReadDone q err) s = .next t) :
    OnlyMembers c.has s t ∧ (c.mem = false → t.mem = s.mem) := by
  cases hc
  refine fr_concl (execRingReadDone_fr q err s (fr_refl s) (has_one (by first | simp | decide)) (has_one (by first | simp | decide)) (has_one (by first | simp | decide)) (has_one (by first | simp | decide)) (has_one (by first | simp | decide)) (fun u => has_run (f := MSH.PFLITS) (by simp) u) (fun u => has_run (f := MSH.PPKTS) (by simp) u) (has_one (by first | simp | decide)) (fun u => has_run (f := MSH.LINK_CE) (by simp) u) (fun u => has_run (f := MSH.LINK_UE) (by simp) u) (has_one (by first | simp | decide))) he
theorem frame_pop (r q : _) {c : Change} {s t : State} (hc : changesEngines (.pop r q) = some c) (he : exec (.pop r q) s = .next t) :
    OnlyMembers c.has s t ∧ (c.mem = false → t.mem = s.mem) := by
  cases hc
  refine fr_concl (execPop_fr r q s (fr_refl s) (has_one (by first | simp | decide)) (has_one (by first | simp | decide)) (has_one (by first | simp | decide)) (has_one (by first | simp | decide)) (fun u => has_run (f := HDI.STATS) (by simp) u)) he
theorem frame_poprec (r q : _) {c : Change} {s t : State} (hc : changesEngines (.poprec r q) = some c) (he : exec (.poprec r q) s = .next t) :
    OnlyMembers c.has s t ∧ (c.mem = false → t.mem = s.mem) := by
  cases hc
  refine fr_concl (execPoprec_fr r q s (fr_refl s) (has_one (by first | simp | decide)) (has_one (by first | simp | decide)) (has_one (by first | simp | decide)) (has_one (by first | simp | decide)) (fun u => has_run (f := HDI.STATS) (by simp) u)) he
theorem frame_queueEnable (r q : _) {c : Change} {s t : State} (hc : changesEngines (.queueEnable r q) = some c) (he : exec (.queueEnable r q) s = .next t) :
    OnlyMembers c.has s t ∧ (c.mem = false → t.mem = s.mem) := by
  cases hc
  refine fr_concl (execQueueEnable_fr r q s (fr_refl s) (has_one (by first | simp | decide)) (has_one (by first | simp | decide)) (has_one (by first | simp | decide)) (has_one (by first | simp | decide)) (fun u => has_run (f := HDI.STATS) (by simp) u) (fun u => has_run (f := VEN.STATE) (by simp) u) (has_one (by first | simp | decide))) he
theorem frame_queueDisable (r q : _) {c : Change} {s t : State} (hc : changesEngines (.queueDisable r q) = some c) (he : exec (.queueDisable r q) s = .next t) :
    OnlyMembers c.has s t ∧ (c.mem = false → t.mem = s.mem) := by
  cases hc
  refine fr_concl (execQueueDisable_fr r q s (fr_refl s) (has_one (by first | simp | decide)) (has_one (by first | simp | decide)) (has_one (by first | simp | decide)) (fun u => has_run (f := HDI.STATS) (by simp) u) (fun u => has_run (f := VEN.STATE) (by simp) u)) he
theorem frame_flush (r q : _) {c : Change} {s t : State} (hc : changesEngines (.flush r q) = some c) (he : exec (.flush r q) s = .next t) :
    OnlyMembers c.has s t ∧ (c.mem = false → t.mem = s.mem) := by
  cases hc
  refine fr_concl (execFlush_fr r q s (fr_refl s) (has_one (by first | simp | decide)) (has_one (by first | simp | decide)) (has_one (by first | simp | decide)) (has_one (by first | simp | decide)) (fun u => has_run (f := HDI.STATS) (by simp) u)) he
theorem frame_push (r q v : _) {c : Change} {s t : State} (hc : changesEngines (.push r q v) = some c) (he : exec (.push r q v) s = .next t) :
    OnlyMembers c.has s t ∧ (c.mem = false → t.mem = s.mem) := by
  cases hc
  refine fr_concl (execPush_fr r q v s (fr_refl s) (has_one (by first | simp | decide)) (has_one (by first | simp | decide)) (has_one (by first | simp | decide)) (has_one (by first | simp | decide)) (fun u => has_run (f := HDI.STATS) (by simp) u)) he
theorem frame_pushEnd (r q v : _) {c : Change} {s t : State} (hc : changesEngines (.pushEnd r q v) = some c) (he : exec (.pushEnd r q v) s = .next t) :
    OnlyMembers c.has s t ∧ (c.mem = false → t.mem = s.mem) := by
  cases hc
  refine fr_concl (execPushEnd_fr r q v s (fr_refl s) (has_one (by first | simp | decide)) (has_one (by first | simp | decide)) (has_one (by first | simp | decide)) (has_one (by first | simp | decide)) (fun u => has_run (f := HDI.STATS) (by simp) u)) he
theorem frame_fcountClr (r c' v : _) {c : Change} {s t : State} (hc : changesEngines (.fcountClr r c' v) = some c) (he : exec (.fcountClr r c' v) s = .next t) :
    OnlyMembers c.has s t ∧ (c.mem = false → t.mem = s.mem) := by
  cases hc
  refine fr_concl (execFcountClr_fr r c' v s (fr_refl s) (has_one (by first | simp | decide)) (fun u => has_run (f := HDI.STATS) (by simp) u)) he
theorem frame_mergeTimeout (n : _) {c : Change} {s t : State} (hc : changesEngines (.mergeTimeout n) = some c) (he : exec (.mergeTimeout n) s = .next t) :
    OnlyMembers c.has s t ∧ (c.mem = false → t.mem = s.mem) := by
  cases hc
  refine fr_concl (execMergeTimeout_fr n s (fr_refl s) (has_one (by first | simp | decide)) (has_one (by first | simp | decide)) (fun u => has_run (f := FCP.Q_EVFLAGS) (by simp) u) (fun u => has_run (f := FCP.STOPPED_BY) (by simp) u)) he
theorem frame_bitmapIssue (n : _) {c : Change} {s t : State} (hc : changesEngines (.bitmapIssue n) = some c) (he : exec (.bitmapIssue n) s = .next t) :
    OnlyMembers c.has s t ∧ (c.mem = false → t.mem = s.mem) := by
  cases hc
  refine fr_concl (execBitmapIssue_fr n s (fr_refl s) (has_one (by first | simp | decide))) he
theorem frame_dmcTrain (q n : _) {c : Change} {s t : State} (hc : changesData (.dmcTrain q n) = some c) (he : exec (.dmcTrain q n) s = .next t) :
    OnlyMembers c.has s t ∧ (c.mem = false → t.mem = s.mem) := by
  cases hc
  refine fr_concl (execDmcTrain_fr q n s (fr_refl s) (has_one (by first | simp | decide)) (has_one (by first | simp | decide)) (has_one (by first | simp | decide)) (has_one (by first | simp | decide)) (has_one (by first | simp | decide)) (fun u => has_run (f := HDI.STATS) (by simp) u)) he
theorem frame_dmcRetrain (q n : _) {c : Change} {s t : State} (hc : changesData (.dmcRetrain q n) = some c) (he : exec (.dmcRetrain q n) s = .next t) :
    OnlyMembers c.has s t ∧ (c.mem = false → t.mem = s.mem) := by
  cases hc
  refine fr_concl (execDmcRetrain_fr q n s (fr_refl s) (has_one (by first | simp | decide)) (has_one (by first | simp | decide)) (has_one (by first | simp | decide)) (has_one (by first | simp | decide)) (has_one (by first | simp | decide)) (fun u => has_run (f := HDI.STATS) (by simp) u) (fun u => has_run (f := VEN.STATE) (by simp) u) (has_one (by first | simp | decide))) he
theorem frame_autoTrainStart {c : Change} {s t : State} (hc : changesData (.autoTrainStart) = some c) (he : exec (.autoTrainStart) s = .next t) :
    OnlyMembers c.has s t ∧ (c.mem = false → t.mem = s.mem) := by
  cases hc
  refine fr_concl (execAutoTrainStart_fr s (fr_refl s) (has_one (by first | simp | decide)) (fun u => has_run (f := DMC.CAPACITY) (by simp) u) (fun u => has_run (f := DMC.CONFIG) (by simp) u) (fun u => has_run (f := DMC.EVFLAGS) (by simp) u) (fun u => has_run (f := DMC.STATE) (by simp) u)) he
theorem frame_trainingEnd (n eye : _) {c : Change} {s t : State} (hc : changesData (.trainingEnd n eye) = some c) (he : exec (.trainingEnd n eye) s = .next t) :
    OnlyMembers c.has s t ∧ (c.mem = false → t.mem = s.mem) := by
  cases hc
  refine fr_concl (execTrainingEnd_fr n eye s (fr_refl s) (has_one (by first | simp | decide)) (has_one (by first | simp | decide)) (has_one (by first | simp | decide)) (has_one (by first | simp | decide)) (has_one (by first | simp | decide))) he
theorem frame_retrainingEnd (n ok : _) {c : Change} {s t : State} (hc : changesData (.retrainingEnd n ok) = some c) (he : exec (.retrainingEnd n ok) s = .next t) :
    OnlyMembers c.has s t ∧ (c.mem = false → t.mem = s.mem) := by
  cases hc
  refine fr_concl (execRetrainingEnd_fr n ok s (fr_refl s) (has_one (by first | simp | decide)) (has_one (by first | simp | decide)) (has_one (by first | simp | decide)) (has_one (by first | simp | decide))) he
theorem frame_autoRetrain (n : _) {c : Change} {s t : State} (hc : changesData (.autoRetrain n) = some c) (he : exec (.autoRetrain n) s = .next t) :
    OnlyMembers c.has s t ∧ (c.mem = false → t.mem = s.mem) := by
  cases hc
  refine fr_concl (execAutoRetrain_fr n s (fr_refl s) (has_one (by first | simp | decide)) (has_one (by first | simp | decide)) (has_one (by first | simp | decide)) (has_one (by first | simp | decide)) (has_one (by first | simp | decide)) (fun u => has_run (f := VEN.STATE) (by simp) u) (has_one (by first | simp | decide))) he
theorem frame_dimmTempRead (n temp : _) {c : Change} {s t : State} (hc : changesData (.dimmTempRead n temp) = some c) (he : exec (.dimmTempRead n temp) s = .next t) :
    OnlyMembers c.has s t ∧ (c.mem = false → t.mem = s.mem) := by
  cases hc
  refine fr_concl (execDimmTempRead_fr n temp s (fr_refl s) (has_one (by first | simp | decide))) he
theorem frame_mapForm {c : Change} {s t : State} (hc : changesData (.mapForm) = some c) (he : exec (.mapForm) s = .next t) :
    OnlyMembers c.has s t ∧ (c.mem = false → t.mem = s.mem) := by
  cases hc
  refine fr_concl (execMapForm_fr s (fr_refl s) (has_one (by first | simp | decide)) (fun u => has_run (f := DMC.CONFIG) (by simp) u) (fun u => has_run (f := DMC.EVFLAGS) (by simp) u) (has_one (by first | simp | decide)) (has_one (by first | simp | decide)) (has_one (by first | simp | decide)) (fun u => has_run (f := DMC.STATE) (by simp) u) (has_one (by first | simp | decide))) he
theorem frame_excludeWrite (q v : _) {c : Change} {s t : State} (hc : changesData (.excludeWrite q v) = some c) (he : exec (.excludeWrite q v) s = .next t) :
    OnlyMembers c.has s t ∧ (c.mem = false → t.mem = s.mem) := by
  cases hc
  refine fr_concl (execExcludeWrite_fr q v s (fr_refl s) (has_one (by first | simp | decide)) (fun u => has_run (f := DMC.CONFIG) (by simp) u) (fun u => has_run (f := DMC.EVFLAGS) (by simp) u) (has_one (by first | simp | decide)) (has_one (by first | simp | decide)) (has_one (by first | simp | decide)) (has_one (by first | simp | decide)) (fun u => has_run (f := DMC.STATE) (by simp) u) (has_one (by first | simp | decide)) (fun u => has_run (f := HDI.STATS) (by simp) u) (has_one (by first | simp | decide)) (has_one (by first | simp | decide)) (fun u => has_run (f := VEN.STATE) (by simp) u)) he
theorem frame_dmcAccept (n : _) {c : Change} {s t : State} (hc : changesData (.dmcAccept n) = some c) (he : exec (.dmcAccept n) s = .next t) :
    OnlyMembers c.has s t ∧ (c.mem = false → t.mem = s.mem) := by
  cases hc
  refine fr_concl (execDmcAccept_fr n s (fr_refl s) (fun u => has_run (f := (DMC.ACCEPTED n)) (by simp) u) (has_one (by first | simp | decide)) (fun u => has_run (f := (DMC.ERRORS n)) (by simp) u) (has_one (by first | simp | decide)) (has_one (by first | simp | decide))) he
theorem frame_dmcAccessIssue (n : _) {c : Change} {s t : State} (hc : changesData (.dmcAccessIssue n) = some c) (he : exec (.dmcAccessIssue n) s = .next t) :
    OnlyMembers c.has s t ∧ (c.mem = false → t.mem = s.mem) := by
  cases hc
  refine fr_concl (execDmcAccessIssue_fr n s (fr_refl s) (has_one (by first | simp | decide)) (has_one (by first | simp | decide))) he
theorem frame_dmcAccessComplete (n ecc : _) {c : Change} {s t : State} (hc : changesData (.dmcAccessComplete n ecc) = some c) (he : exec (.dmcAccessComplete n ecc) s = .next t) :
    OnlyMembers c.has s t ∧ (c.mem = false → t.mem = s.mem) := by
  cases hc
  refine fr_concl (execDmcAccessComplete_fr n ecc s (fr_refl s) (fun u => has_run (f := DMC.CE) (by simp) u) (fun u => has_run (f := (DMC.DONE n)) (by simp) u) (fun u => has_run (f := (DMC.ERRORS n)) (by simp) u) (fun u => has_run (f := DMC.EVFLAGS) (by simp) u) (has_one (by first | simp | decide)) (fun u => has_run (f := DMC.UE) (by simp) u) (fun u => has_run (f := DMC.UE_ADDR) (by simp) u) rfl) he
theorem frame_agePromotion (n : _) {c : Change} {s t : State} (hc : changesData (.agePromotion n) = some c) (he : exec (.agePromotion n) s = .next t) :
    OnlyMembers c.has s t ∧ (c.mem = false → t.mem = s.mem) := by
  cases hc
  refine fr_concl (execAgePromotion_fr n s (fr_refl s) (has_one (by first | simp | decide))) he
theorem frame_throttleEnd (n : _) {c : Change} {s t : State} (hc : changesData (.throttleEnd n) = some c) (he : exec (.throttleEnd n) s = .next t) :
    OnlyMembers c.has s t ∧ (c.mem = false → t.mem = s.mem) := by
  cases hc
  refine fr_concl (execThrottleEnd_fr n s (fr_refl s)) he
theorem frame_rowTableClear (n : _) {c : Change} {s t : State} (hc : changesData (.rowTableClear n) = some c) (he : exec (.rowTableClear n) s = .next t) :
    OnlyMembers c.has s t ∧ (c.mem = false → t.mem = s.mem) := by
  cases hc
  refine fr_concl (execRowTableClear_fr n s (fr_refl s)) he
theorem frame_refresh (n : _) {c : Change} {s t : State} (hc : changesData (.refresh n) = some c) (he : exec (.refresh n) s = .next t) :
    OnlyMembers c.has s t ∧ (c.mem = false → t.mem = s.mem) := by
  cases hc
  refine fr_concl (execRefresh_fr n s (fr_refl s)) he
theorem frame_patrolScrub (n ecc : _) {c : Change} {s t : State} (hc : changesData (.patrolScrub n ecc) = some c) (he : exec (.patrolScrub n ecc) s = .next t) :
    OnlyMembers c.has s t ∧ (c.mem = false → t.mem = s.mem) := by
  cases hc
  refine fr_concl (execPatrolScrub_fr n ecc s (fr_refl s) (has_one (by first | simp | decide)) (has_one (by first | simp | decide)) (has_one (by first | simp | decide)) (has_one (by first | simp | decide)) rfl) he
theorem frame_retainWrite (q v : _) {c : Change} {s t : State} (hc : changesData (.retainWrite q v) = some c) (he : exec (.retainWrite q v) s = .next t) :
    OnlyMembers c.has s t ∧ (c.mem = false → t.mem = s.mem) := by
  cases hc
  refine fr_concl (execRetainWrite_fr q v s (fr_refl s) (has_one (by first | simp | decide)) (fun u => has_run (f := HDI.STATS) (by simp) u)) he
theorem frame_paneFabricAccess (p bad : _) {c : Change} {s t : State} (hc : changesData (.paneFabricAccess p bad) = some c) (he : exec (.paneFabricAccess p bad) s = .next t) :
    OnlyMembers c.has s t ∧ (c.mem = false → t.mem = s.mem) := by
  cases hc
  refine fr_concl (execPaneFabricAccess_fr p bad s (fr_refl s) rfl (has_one (by first | simp | decide)) (has_one (by first | simp | decide)) (has_one (by first | simp | decide)) (has_one (by first | simp | decide)) (has_one (by first | simp | decide))) he
theorem frame_stealTimeout (r : _) {c : Change} {s t : State} (hc : changesData (.stealTimeout r) = some c) (he : exec (.stealTimeout r) s = .next t) :
    OnlyMembers c.has s t ∧ (c.mem = false → t.mem = s.mem) := by
  cases hc
  refine fr_concl (execStealTimeout_fr r s (fr_refl s) (fun u => has_run (f := DBG.BRK_HITS) (by simp) u) (fun u => has_run (f := DBG.BRK_STATE) (by simp) u) (has_one (by first | simp | decide)) (has_one (by first | simp | decide)) (fun u => has_run (f := MSH.PFLITS) (by simp) u) (fun u => has_run (f := MSH.PPKTS) (by simp) u) (has_one (by first | simp | decide)) (fun u => has_run (f := PAN.EVFLAGS) (by simp) u) (fun u => has_run (f := PAN.STEAL_TIMEOUT) (by simp) u) (fun u => has_run (f := SCR.EVFLAGS) (by simp) u) (fun u => has_run (f := SCR.STEAL_TIMEOUT) (by simp) u)) he
theorem frame_paneDetach (q p : _) {c : Change} {s t : State} (hc : changesData (.paneDetach q p) = some c) (he : exec (.paneDetach q p) s = .next t) :
    OnlyMembers c.has s t ∧ (c.mem = false → t.mem = s.mem) := by
  cases hc
  refine fr_concl (execPaneDetach_fr q p s (fr_refl s) (fun u => has_run (f := HDI.STATS) (by simp) u)) he
theorem frame_paneAttach (q p : _) {c : Change} {s t : State} (hc : changesData (.paneAttach q p) = some c) (he : exec (.paneAttach q p) s = .next t) :
    OnlyMembers c.has s t ∧ (c.mem = false → t.mem = s.mem) := by
  cases hc
  refine fr_concl (execPaneAttach_fr q p s (fr_refl s) (fun u => has_run (f := HDI.STATS) (by simp) u)) he
theorem frame_paneDetachLands (p : _) {c : Change} {s t : State} (hc : changesData (.paneDetachLands p) = some c) (he : exec (.paneDetachLands p) s = .next t) :
    OnlyMembers c.has s t ∧ (c.mem = false → t.mem = s.mem) := by
  cases hc
  refine fr_concl (execPaneDetachLands_fr p s (fr_refl s) (has_one (by first | simp | decide)) rfl (has_one (by first | simp | decide)) (has_one (by first | simp | decide))) he
theorem frame_paneAttachLands (p : _) {c : Change} {s t : State} (hc : changesData (.paneAttachLands p) = some c) (he : exec (.paneAttachLands p) s = .next t) :
    OnlyMembers c.has s t ∧ (c.mem = false → t.mem = s.mem) := by
  cases hc
  refine fr_concl (execPaneAttachLands_fr p s (fr_refl s) (has_one (by first | simp | decide))) he
theorem frame_paneTest (q p : _) {c : Change} {s t : State} (hc : changesData (.paneTest q p) = some c) (he : exec (.paneTest q p) s = .next t) :
    OnlyMembers c.has s t ∧ (c.mem = false → t.mem = s.mem) := by
  cases hc
  refine fr_concl (execPaneTest_fr q p s (fr_refl s) (fun u => has_run (f := HDI.STATS) (by simp) u) (has_one (by first | simp | decide))) he
theorem frame_paneTestEnd (p bad : _) {c : Change} {s t : State} (hc : changesData (.paneTestEnd p bad) = some c) (he : exec (.paneTestEnd p bad) s = .next t) :
    OnlyMembers c.has s t ∧ (c.mem = false → t.mem = s.mem) := by
  cases hc
  refine fr_concl (execPaneTestEnd_fr p bad s (fr_refl s) rfl (has_one (by first | simp | decide)) (has_one (by first | simp | decide)) (has_one (by first | simp | decide)) (has_one (by first | simp | decide))) he
theorem frame_paneModeWrite (q p v : _) {c : Change} {s t : State} (hc : changesData (.paneModeWrite q p v) = some c) (he : exec (.paneModeWrite q p v) s = .next t) :
    OnlyMembers c.has s t ∧ (c.mem = false → t.mem = s.mem) := by
  cases hc
  refine fr_concl (execPaneModeWrite_fr q p v s (fr_refl s) (fun u => has_run (f := HDI.STATS) (by simp) u) (has_one (by first | simp | decide)) (has_one (by first | simp | decide)) (has_one (by first | simp | decide)) rfl) he
theorem frame_scratchOwnerWrite (q b port v : _) {c : Change} {s t : State} (hc : changesData (.scratchOwnerWrite q b port v) = some c) (he : exec (.scratchOwnerWrite q b port v) s = .next t) :
    OnlyMembers c.has s t ∧ (c.mem = false → t.mem = s.mem) := by
  cases hc
  refine fr_concl (execScratchOwnerWrite_fr q b port v s (fr_refl s) (fun u => has_run (f := HDI.STATS) (by simp) u) (has_one (by first | simp | decide)) (has_one (by first | simp | decide))) he
theorem frame_handoverEnd (b : _) {c : Change} {s t : State} (hc : changesData (.handoverEnd b) = some c) (he : exec (.handoverEnd b) s = .next t) :
    OnlyMembers c.has s t ∧ (c.mem = false → t.mem = s.mem) := by
  cases hc
  refine fr_concl (execHandoverEnd_fr b s (fr_refl s) (has_one (by first | simp | decide)) (has_one (by first | simp | decide))) he
theorem frame_scratchTest (q b : _) {c : Change} {s t : State} (hc : changesData (.scratchTest q b) = some c) (he : exec (.scratchTest q b) s = .next t) :
    OnlyMembers c.has s t ∧ (c.mem = false → t.mem = s.mem) := by
  cases hc
  refine fr_concl (execScratchTest_fr q b s (fr_refl s) (fun u => has_run (f := HDI.STATS) (by simp) u) (has_one (by first | simp | decide))) he
theorem frame_scratchTestEnd (b bad : _) {c : Change} {s t : State} (hc : changesData (.scratchTestEnd b bad) = some c) (he : exec (.scratchTestEnd b bad) s = .next t) :
    OnlyMembers c.has s t ∧ (c.mem = false → t.mem = s.mem) := by
  cases hc
  refine fr_concl (execScratchTestEnd_fr b bad s (fr_refl s) rfl (has_one (by first | simp | decide)) (has_one (by first | simp | decide)) (has_one (by first | simp | decide)) (has_one (by first | simp | decide))) he
theorem frame_clearEnd (d : _) {c : Change} {s t : State} (hc : changesData (.clearEnd d) = some c) (he : exec (.clearEnd d) s = .next t) :
    OnlyMembers c.has s t ∧ (c.mem = false → t.mem = s.mem) := by
  cases hc
  refine fr_concl (execClearEnd_fr d s (fr_refl s) (has_one (by first | simp | decide)) (has_one (by first | simp | decide)) (fun u => has_run (f := CRH.GATE_TOUCH) (by simp) u) (fun u => has_run (f := CRH.PWR_STATE) (by simp) u) rfl (has_one (by first | simp | decide)) (fun u => has_run (f := MSH.WAKES) (by simp) u) (fun u => has_run (f := PAN.EVFLAGS) (by simp) u) (fun u => has_run (f := PAN.PERR) (by simp) u) (fun u => has_run (f := PAN.STATE) (by simp) u) (fun u => has_run (f := SCR.CE) (by simp) u) (fun u => has_run (f := SCR.EVFLAGS) (by simp) u) (has_one (by first | simp | decide)) (fun u => has_run (f := SCR.TEST_TOUCH) (by simp) u) (fun u => has_run (f := SCR.UE) (by simp) u) (fun u => has_run (f := SCR.STEAL_TIMEOUT) (by simp) u) (fun u => has_run (f := SCR.COLLIDE) (by simp) u) (fun u => has_run (f := DSP.STALLS) (by simp) u) (fun u => has_run (f := DSP.FLAGS) (by simp) u) (fun u => has_run (f := DSP.MOVE_INFLIGHT) (by simp) u) (fun u => has_run (f := DSP.MOVE_ISSUED) (by simp) u) (fun u => has_run (f := DSP.CYCLES) (by simp) u) (fun u => has_run (f := DSP.FAULT) (by simp) u) (fun u => has_run (f := DSP.FAULT_PC) (by simp) u) (fun u => has_run (f := DSP.MOVE_DROPPED) (by simp) u) (fun u => has_run (f := DSP.STATE) (by simp) u) (fun u => has_run (f := DSP.WDOG_LEFT) (by simp) u)) he
theorem frame_meshRead (r flit ecc : _) {c : Change} {s t : State} (hc : changesData (.meshRead r flit ecc) = some c) (he : exec (.meshRead r flit ecc) s = .next t) :
    OnlyMembers c.has s t ∧ (c.mem = false → t.mem = s.mem) := by
  cases hc
  refine fr_concl (execMeshRead_fr r flit ecc s (fr_refl s) (has_one (by first | simp | decide)) (has_one (by first | simp | decide)) (fun u => has_run (f := CRH.GATE_TOUCH) (by simp) u) (fun u => has_run (f := CRH.PWR_STATE) (by simp) u) (fun u => has_run (f := DBG.BRK_HITS) (by simp) u) (fun u => has_run (f := DBG.BRK_STATE) (by simp) u) (has_one (by first | simp | decide)) rfl (has_one (by first | simp | decide)) (fun u => has_run (f := MSH.LINK_CE) (by simp) u) (fun u => has_run (f := MSH.LINK_UE) (by simp) u) (fun u => has_run (f := MSH.PFLITS) (by simp) u) (fun u => has_run (f := MSH.PPKTS) (by simp) u) (has_one (by first | simp | decide)) (fun u => has_run (f := MSH.WAKES) (by simp) u) (fun u => has_run (f := PAN.EVFLAGS) (by simp) u) (fun u => has_run (f := PAN.PERR) (by simp) u) (fun u => has_run (f := SCR.CE) (by simp) u) (fun u => has_run (f := SCR.EVFLAGS) (by simp) u) (fun u => has_run (f := SCR.TEST_TOUCH) (by simp) u) (fun u => has_run (f := SCR.UE) (by simp) u) (fun u => has_run (f := SCR.STEAL_TIMEOUT) (by simp) u) (fun u => has_run (f := SCR.COLLIDE) (by simp) u) (fun u => has_run (f := DSP.STALLS) (by simp) u)) he
theorem frame_meshWrite (r flit : _) {c : Change} {s t : State} (hc : changesData (.meshWrite r flit) = some c) (he : exec (.meshWrite r flit) s = .next t) :
    OnlyMembers c.has s t ∧ (c.mem = false → t.mem = s.mem) := by
  cases hc
  refine fr_concl (execMeshWrite_fr r flit s (fr_refl s) (has_one (by first | simp | decide)) (has_one (by first | simp | decide)) (fun u => has_run (f := CRH.GATE_TOUCH) (by simp) u) (fun u => has_run (f := CRH.PWR_STATE) (by simp) u) (fun u => has_run (f := DBG.BRK_HITS) (by simp) u) (fun u => has_run (f := DBG.BRK_STATE) (by simp) u) (has_one (by first | simp | decide)) rfl (has_one (by first | simp | decide)) (fun u => has_run (f := MSH.LINK_CE) (by simp) u) (fun u => has_run (f := MSH.LINK_UE) (by simp) u) (fun u => has_run (f := MSH.PFLITS) (by simp) u) (fun u => has_run (f := MSH.PPKTS) (by simp) u) (has_one (by first | simp | decide)) (fun u => has_run (f := MSH.WAKES) (by simp) u) (fun u => has_run (f := PAN.EVFLAGS) (by simp) u) (fun u => has_run (f := PAN.PERR) (by simp) u) (fun u => has_run (f := SCR.CE) (by simp) u) (fun u => has_run (f := SCR.EVFLAGS) (by simp) u) (fun u => has_run (f := SCR.TEST_TOUCH) (by simp) u) (fun u => has_run (f := SCR.UE) (by simp) u) (fun u => has_run (f := SCR.STEAL_TIMEOUT) (by simp) u) (fun u => has_run (f := SCR.COLLIDE) (by simp) u) (fun u => has_run (f := DSP.STALLS) (by simp) u)) he
theorem frame_meshOr (r flit : _) {c : Change} {s t : State} (hc : changesData (.meshOr r flit) = some c) (he : exec (.meshOr r flit) s = .next t) :
    OnlyMembers c.has s t ∧ (c.mem = false → t.mem = s.mem) := by
  cases hc
  refine fr_concl (execMeshOr_fr r flit s (fr_refl s) (has_one (by first | simp | decide)) (has_one (by first | simp | decide)) (fun u => has_run (f := CRH.GATE_TOUCH) (by simp) u) (fun u => has_run (f := CRH.PWR_STATE) (by simp) u) (fun u => has_run (f := DBG.BRK_HITS) (by simp) u) (fun u => has_run (f := DBG.BRK_STATE) (by simp) u) (has_one (by first | simp | decide)) rfl (has_one (by first | simp | decide)) (fun u => has_run (f := MSH.LINK_CE) (by simp) u) (fun u => has_run (f := MSH.LINK_UE) (by simp) u) (fun u => has_run (f := MSH.PFLITS) (by simp) u) (fun u => has_run (f := MSH.PPKTS) (by simp) u) (has_one (by first | simp | decide)) (fun u => has_run (f := MSH.WAKES) (by simp) u) (fun u => has_run (f := PAN.EVFLAGS) (by simp) u) (fun u => has_run (f := PAN.PERR) (by simp) u) (fun u => has_run (f := SCR.CE) (by simp) u) (fun u => has_run (f := SCR.EVFLAGS) (by simp) u) (fun u => has_run (f := SCR.TEST_TOUCH) (by simp) u) (fun u => has_run (f := SCR.UE) (by simp) u) (fun u => has_run (f := SCR.STEAL_TIMEOUT) (by simp) u) (fun u => has_run (f := SCR.COLLIDE) (by simp) u) (fun u => has_run (f := DSP.STALLS) (by simp) u)) he
theorem frame_meshDataResponse (r flit : _) {c : Change} {s t : State} (hc : changesControl (.meshDataResponse r flit) = some c) (he : exec (.meshDataResponse r flit) s = .next t) :
    OnlyMembers c.has s t ∧ (c.mem = false → t.mem = s.mem) := by
  cases hc
  refine fr_concl (execMeshDataResponse_fr r flit s (fr_refl s) (fun u => has_run (f := CFG.FACET_STATE) (by simp) u) (has_one (by first | simp | decide)) (has_one (by first | simp | decide)) (has_one (by first | simp | decide)) (has_one (by first | simp | decide)) (has_one (by first | simp | decide)) (has_one (by first | simp | decide)) (fun u => has_run (f := CFG.LOUPE_SRC_ADDR) (by simp) u) (fun u => has_run (f := CFG.LOUPE_SRC_TYPE) (by simp) u) (has_one (by first | simp | decide)) (has_one (by first | simp | decide)) (fun u => has_run (f := DSP.FLAGS) (by simp) u) (fun u => has_run (f := DSP.MOVE_DONE) (by simp) u) (fun u => has_run (f := DSP.MOVE_ERR) (by simp) u) (fun u => has_run (f := DSP.MOVE_INFLIGHT) (by simp) u) (fun u => has_run (f := DSP.MOVE_ISSUED) (by simp) u) (fun u => has_run (f := FAB.MESH_DISCARD) (by simp) u) (fun u => has_run (f := FAB.MESH_DONE) (by simp) u) (fun u => has_run (f := FCP.BM_DONE) (by simp) u) (fun u => has_run (f := FCP.BM_ERR) (by simp) u) (fun u => has_run (f := FCP.BM_INFLIGHT) (by simp) u) (fun u => has_run (f := FCP.Q_ERR_WORDS) (by simp) u) (fun u => has_run (f := FCP.Q_EVFLAGS) (by simp) u) (fun u => has_run (f := FCP.Q_FLUSHED) (by simp) u) (fun u => has_run (f := FCP.Q_STATE) (by simp) u) (has_one (by first | simp | decide)) (fun u => has_run (f := LNK.MESH_RESP) (by simp) u) rfl (has_one (by first | simp | decide)) (fun u => has_run (f := MSH.LINK_CE) (by simp) u) (fun u => has_run (f := MSH.LINK_UE) (by simp) u) (fun u => has_run (f := MSH.PFLITS) (by simp) u) (fun u => has_run (f := MSH.PPKTS) (by simp) u) (has_one (by first | simp | decide)) (has_one (by first | simp | decide)) (fun u => has_run (f := TMU.LANE_FLAGS) (by simp) u) (fun u => has_run (f := TMU.TXTS_LOST) (by simp) u) (fun u => has_run (f := TMU.TXTS_MADE) (by simp) u) (fun u => has_run (f := TMU.TXTS_READ) (by simp) u) (fun u => has_run (f := VEN.REFILL_DONE) (by simp) u) (fun u => has_run (f := FCP.Q_PKTS) (by simp) u) (fun u => has_run (f := DSP.CYCLES) (by simp) u) (fun u => has_run (f := DSP.FAULT) (by simp) u) (fun u => has_run (f := DSP.FAULT_PC) (by simp) u) (fun u => has_run (f := DSP.MOVE_DROPPED) (by simp) u) (fun u => has_run (f := DSP.STATE) (by simp) u) (fun u => has_run (f := DSP.WDOG_LEFT) (by simp) u) (fun u => has_run (f := SCR.CE) (by simp) u) (fun u => has_run (f := SCR.EVFLAGS) (by simp) u) (fun u => has_run (f := SCR.UE) (by simp) u) (fun u => has_run (f := SCR.COLLIDE) (by simp) u) (fun u => has_run (f := DSP.STALLS) (by simp) u) (fun u => has_run (f := CFG.FACET_LOADS) (by simp) u) (fun u => has_run (f := FAB.DESIGN_ID) (by simp) u)) he
theorem frame_meshAckResponse (r flit : _) {c : Change} {s t : State} (hc : changesControl (.meshAckResponse r flit) = some c) (he : exec (.meshAckResponse r flit) s = .next t) :
    OnlyMembers c.has s t ∧ (c.mem = false → t.mem = s.mem) := by
  cases hc
  refine fr_concl (execMeshAckResponse_fr r flit s (fr_refl s) (fun u => has_run (f := CFG.FACET_STATE) (by simp) u) (has_one (by first | simp | decide)) (has_one (by first | simp | decide)) (has_one (by first | simp | decide)) (has_one (by first | simp | decide)) (has_one (by first | simp | decide)) (has_one (by first | simp | decide)) (fun u => has_run (f := CFG.LOUPE_SRC_ADDR) (by simp) u) (fun u => has_run (f := CFG.LOUPE_SRC_TYPE) (by simp) u) (has_one (by first | simp | decide)) (has_one (by first | simp | decide)) (fun u => has_run (f := DSP.FLAGS) (by simp) u) (fun u => has_run (f := DSP.MOVE_DONE) (by simp) u) (fun u => has_run (f := DSP.MOVE_ERR) (by simp) u) (fun u => has_run (f := DSP.MOVE_INFLIGHT) (by simp) u) (fun u => has_run (f := DSP.MOVE_ISSUED) (by simp) u) (fun u => has_run (f := FAB.MESH_DISCARD) (by simp) u) (fun u => has_run (f := FAB.MESH_DONE) (by simp) u) (fun u => has_run (f := FCP.BM_DONE) (by simp) u) (fun u => has_run (f := FCP.BM_ERR) (by simp) u) (fun u => has_run (f := FCP.BM_INFLIGHT) (by simp) u) (fun u => has_run (f := FCP.Q_ERR_WORDS) (by simp) u) (fun u => has_run (f := FCP.Q_EVFLAGS) (by simp) u) (fun u => has_run (f := FCP.Q_FLUSHED) (by simp) u) (fun u => has_run (f := FCP.Q_STATE) (by simp) u) (has_one (by first | simp | decide)) (fun u => has_run (f := LNK.MESH_RESP) (by simp) u) rfl (has_one (by first | simp | decide)) (fun u => has_run (f := MSH.LINK_CE) (by simp) u) (fun u => has_run (f := MSH.LINK_UE) (by simp) u) (fun u => has_run (f := MSH.PFLITS) (by simp) u) (fun u => has_run (f := MSH.PPKTS) (by simp) u) (has_one (by first | simp | decide)) (has_one (by first | simp | decide)) (fun u => has_run (f := TMU.LANE_FLAGS) (by simp) u) (fun u => has_run (f := TMU.TXTS_LOST) (by simp) u) (fun u => has_run (f := TMU.TXTS_MADE) (by simp) u) (fun u => has_run (f := TMU.TXTS_READ) (by simp) u) (fun u => has_run (f := VEN.REFILL_DONE) (by simp) u) (fun u => has_run (f := FCP.Q_PKTS) (by simp) u) (fun u => has_run (f := DSP.CYCLES) (by simp) u) (fun u => has_run (f := DSP.FAULT) (by simp) u) (fun u => has_run (f := DSP.FAULT_PC) (by simp) u) (fun u => has_run (f := DSP.MOVE_DROPPED) (by simp) u) (fun u => has_run (f := DSP.STATE) (by simp) u) (fun u => has_run (f := DSP.WDOG_LEFT) (by simp) u) (fun u => has_run (f := SCR.CE) (by simp) u) (fun u => has_run (f := SCR.EVFLAGS) (by simp) u) (fun u => has_run (f := SCR.UE) (by simp) u) (fun u => has_run (f := SCR.COLLIDE) (by simp) u) (fun u => has_run (f := DSP.STALLS) (by simp) u) (fun u => has_run (f := CFG.FACET_LOADS) (by simp) u) (fun u => has_run (f := FAB.DESIGN_ID) (by simp) u)) he
theorem frame_meshErrorResponse (r : _) {c : Change} {s t : State} (hc : changesControl (.meshErrorResponse r) = some c) (he : exec (.meshErrorResponse r) s = .next t) :
    OnlyMembers c.has s t ∧ (c.mem = false → t.mem = s.mem) := by
  cases hc
  refine fr_concl (execMeshErrorResponse_fr r s (fr_refl s) (fun u => has_run (f := CFG.FACET_STATE) (by simp) u) (has_one (by first | simp | decide)) (has_one (by first | simp | decide)) (has_one (by first | simp | decide)) (has_one (by first | simp | decide)) (has_one (by first | simp | decide)) (has_one (by first | simp | decide)) (fun u => has_run (f := CFG.LOUPE_SRC_ADDR) (by simp) u) (fun u => has_run (f := CFG.LOUPE_SRC_TYPE) (by simp) u) (has_one (by first | simp | decide)) (has_one (by first | simp | decide)) (fun u => has_run (f := DSP.FLAGS) (by simp) u) (fun u => has_run (f := DSP.MOVE_DONE) (by simp) u) (fun u => has_run (f := DSP.MOVE_ERR) (by simp) u) (fun u => has_run (f := DSP.MOVE_INFLIGHT) (by simp) u) (fun u => has_run (f := DSP.MOVE_ISSUED) (by simp) u) (fun u => has_run (f := FAB.MESH_DISCARD) (by simp) u) (fun u => has_run (f := FAB.MESH_DONE) (by simp) u) (fun u => has_run (f := FCP.BM_DONE) (by simp) u) (fun u => has_run (f := FCP.BM_ERR) (by simp) u) (fun u => has_run (f := FCP.BM_INFLIGHT) (by simp) u) (fun u => has_run (f := FCP.Q_ERR_WORDS) (by simp) u) (fun u => has_run (f := FCP.Q_EVFLAGS) (by simp) u) (fun u => has_run (f := FCP.Q_FLUSHED) (by simp) u) (fun u => has_run (f := FCP.Q_STATE) (by simp) u) (has_one (by first | simp | decide)) (fun u => has_run (f := LNK.MESH_RESP) (by simp) u) rfl (has_one (by first | simp | decide)) (fun u => has_run (f := MSH.LINK_CE) (by simp) u) (fun u => has_run (f := MSH.LINK_UE) (by simp) u) (fun u => has_run (f := MSH.PFLITS) (by simp) u) (fun u => has_run (f := MSH.PPKTS) (by simp) u) (has_one (by first | simp | decide)) (has_one (by first | simp | decide)) (fun u => has_run (f := TMU.LANE_FLAGS) (by simp) u) (fun u => has_run (f := TMU.TXTS_LOST) (by simp) u) (fun u => has_run (f := TMU.TXTS_MADE) (by simp) u) (fun u => has_run (f := TMU.TXTS_READ) (by simp) u) (fun u => has_run (f := VEN.REFILL_DONE) (by simp) u) (fun u => has_run (f := FCP.Q_PKTS) (by simp) u) (fun u => has_run (f := DSP.CYCLES) (by simp) u) (fun u => has_run (f := DSP.FAULT) (by simp) u) (fun u => has_run (f := DSP.FAULT_PC) (by simp) u) (fun u => has_run (f := DSP.MOVE_DROPPED) (by simp) u) (fun u => has_run (f := DSP.STATE) (by simp) u) (fun u => has_run (f := DSP.WDOG_LEFT) (by simp) u) (fun u => has_run (f := SCR.CE) (by simp) u) (fun u => has_run (f := SCR.EVFLAGS) (by simp) u) (fun u => has_run (f := SCR.UE) (by simp) u) (fun u => has_run (f := SCR.COLLIDE) (by simp) u) (fun u => has_run (f := DSP.STALLS) (by simp) u) (fun u => has_run (f := CFG.FACET_LOADS) (by simp) u) (fun u => has_run (f := FAB.DESIGN_ID) (by simp) u)) he
theorem frame_domainPowered (d : _) {c : Change} {s t : State} (hc : changesData (.domainPowered d) = some c) (he : exec (.domainPowered d) s = .next t) :
    OnlyMembers c.has s t ∧ (c.mem = false → t.mem = s.mem) := by
  cases hc
  refine fr_concl (execDomainPowered_fr d s (fr_refl s) (has_one (by first | simp | decide)) (fun u => has_run (f := PAN.STATE) (by simp) u) (has_one (by first | simp | decide))) he
theorem frame_routerSelfcheck (q n : _) {c : Change} {s t : State} (hc : changesData (.routerSelfcheck q n) = some c) (he : exec (.routerSelfcheck q n) s = .next t) :
    OnlyMembers c.has s t ∧ (c.mem = false → t.mem = s.mem) := by
  cases hc
  refine fr_concl (execRouterSelfcheck_fr q n s (fr_refl s) (fun u => has_run (f := HDI.STATS) (by simp) u) (has_one (by first | simp | decide))) he
theorem frame_rcfgWrite (q n v : _) {c : Change} {s t : State} (hc : changesData (.rcfgWrite q n v) = some c) (he : exec (.rcfgWrite q n v) s = .next t) :
    OnlyMembers c.has s t ∧ (c.mem = false → t.mem = s.mem) := by
  cases hc
  refine fr_concl (execRcfgWrite_fr q n v s (fr_refl s) (fun u => has_run (f := HDI.STATS) (by simp) u) (has_one (by first | simp | decide))) he
theorem frame_drainEnd (n pass : _) {c : Change} {s t : State} (hc : changesData (.drainEnd n pass) = some c) (he : exec (.drainEnd n pass) s = .next t) :
    OnlyMembers c.has s t ∧ (c.mem = false → t.mem = s.mem) := by
  cases hc
  refine fr_concl (execDrainEnd_fr n pass s (fr_refl s) (has_one (by first | simp | decide)) (has_one (by first | simp | decide)) (has_one (by first | simp | decide)) (has_one (by first | simp | decide)) (has_one (by first | simp | decide))) he
theorem frame_probeRun (q p : _) {c : Change} {s t : State} (hc : changesData (.probeRun q p) = some c) (he : exec (.probeRun q p) s = .next t) :
    OnlyMembers c.has s t ∧ (c.mem = false → t.mem = s.mem) := by
  cases hc
  refine fr_concl (execProbeRun_fr q p s (fr_refl s) (fun u => has_run (f := HDI.STATS) (by simp) u) (has_one (by first | simp | decide))) he
theorem frame_probeStop (q p : _) {c : Change} {s t : State} (hc : changesData (.probeStop q p) = some c) (he : exec (.probeStop q p) s = .next t) :
    OnlyMembers c.has s t ∧ (c.mem = false → t.mem = s.mem) := by
  cases hc
  refine fr_concl (execProbeStop_fr q p s (fr_refl s) (fun u => has_run (f := HDI.STATS) (by simp) u) (has_one (by first | simp | decide))) he
theorem frame_probeClear (q p : _) {c : Change} {s t : State} (hc : changesData (.probeClear q p) = some c) (he : exec (.probeClear q p) s = .next t) :
    OnlyMembers c.has s t ∧ (c.mem = false → t.mem = s.mem) := by
  cases hc
  refine fr_concl (execProbeClear_fr q p s (fr_refl s) (fun u => has_run (f := HDI.STATS) (by simp) u) (has_one (by first | simp | decide)) (has_one (by first | simp | decide))) he
theorem frame_tclear (q v : _) {c : Change} {s t : State} (hc : changesData (.tclear q v) = some c) (he : exec (.tclear q v) s = .next t) :
    OnlyMembers c.has s t ∧ (c.mem = false → t.mem = s.mem) := by
  cases hc
  refine fr_concl (execTclear_fr q v s (fr_refl s) (fun u => has_run (f := HDI.STATS) (by simp) u)) he
theorem frame_laneStart (q n : _) {c : Change} {s t : State} (hc : changesData (.laneStart q n) = some c) (he : exec (.laneStart q n) s = .next t) :
    OnlyMembers c.has s t ∧ (c.mem = false → t.mem = s.mem) := by
  cases hc
  refine fr_concl (execLaneStart_fr q n s (fr_refl s) (has_one (by first | simp | decide)) (fun u => has_run (f := DSP.STATE) (by simp) u) (has_one (by first | simp | decide)) (has_one (by first | simp | decide)) (has_one (by first | simp | decide)) (fun u => has_run (f := HDI.SLOT) (by simp) u) (fun u => has_run (f := HDI.STATS) (by simp) u) (has_one (by first | simp | decide)) (has_one (by first | simp | decide)) (has_one (by first | simp | decide)) (has_one (by first | simp | decide)) (has_one (by first | simp | decide)) (has_one (by first | simp | decide)) (has_one (by first | simp | decide)) (has_one (by first | simp | decide)) (has_one (by first | simp | decide)) (fun u => has_run (f := TMU.AP_STATE) (by simp) u) (has_one (by first | simp | decide)) (has_one (by first | simp | decide)) (fun u => has_run (f := TMU.TRG_STATE) (by simp) u) (fun u => has_run (f := VEN.FLAGS) (by simp) u) (fun u => has_run (f := VEN.STATE) (by simp) u)) he
theorem frame_laneReset (q n : _) {c : Change} {s t : State} (hc : changesData (.laneReset q n) = some c) (he : exec (.laneReset q n) s = .next t) :
    OnlyMembers c.has s t ∧ (c.mem = false → t.mem = s.mem) := by
  cases hc
  refine fr_concl (execLaneReset_fr q n s (fr_refl s) (has_one (by first | simp | decide)) (fun u => has_run (f := DSP.STATE) (by simp) u) (has_one (by first | simp | decide)) (has_one (by first | simp | decide)) (has_one (by first | simp | decide)) (fun u => has_run (f := HDI.SLOT) (by simp) u) (fun u => has_run (f := HDI.STATS) (by simp) u) (has_one (by first | simp | decide)) (has_one (by first | simp | decide)) (has_one (by first | simp | decide)) (has_one (by first | simp | decide)) (has_one (by first | simp | decide)) (has_one (by first | simp | decide)) (has_one (by first | simp | decide)) (fun u => has_run (f := TMU.AP_STATE) (by simp) u) (has_one (by first | simp | decide)) (has_one (by first | simp | decide)) (fun u => has_run (f := TMU.TRG_STATE) (by simp) u) (fun u => has_run (f := VEN.FLAGS) (by simp) u) (fun u => has_run (f := VEN.STATE) (by simp) u)) he
theorem frame_laneRetrain (q n : _) {c : Change} {s t : State} (hc : changesData (.laneRetrain q n) = some c) (he : exec (.laneRetrain q n) s = .next t) :
    OnlyMembers c.has s t ∧ (c.mem = false → t.mem = s.mem) := by
  cases hc
  refine fr_concl (execLaneRetrain_fr q n s (fr_refl s) (has_one (by first | simp | decide)) (fun u => has_run (f := DSP.STATE) (by simp) u) (has_one (by first | simp | decide)) (has_one (by first | simp | decide)) (has_one (by first | simp | decide)) (fun u => has_run (f := HDI.SLOT) (by simp) u) (fun u => has_run (f := HDI.STATS) (by simp) u) (has_one (by first | simp | decide)) (has_one (by first | simp | decide)) (has_one (by first | simp | decide)) (has_one (by first | simp | decide)) (has_one (by first | simp | decide)) (has_one (by first | simp | decide)) (has_one (by first | simp | decide)) (fun u => has_run (f := TMU.AP_STATE) (by simp) u) (has_one (by first | simp | decide)) (has_one (by first | simp | decide)) (fun u => has_run (f := TMU.TRG_STATE) (by simp) u) (fun u => has_run (f := VEN.FLAGS) (by simp) u) (fun u => has_run (f := VEN.STATE) (by simp) u)) he
theorem frame_adaptEnd (n : _) {c : Change} {s t : State} (hc : changesData (.adaptEnd n) = some c) (he : exec (.adaptEnd n) s = .next t) :
    OnlyMembers c.has s t ∧ (c.mem = false → t.mem = s.mem) := by
  cases hc
  refine fr_concl (execAdaptEnd_fr n s (fr_refl s) (has_one (by first | simp | decide)) (fun u => has_run (f := DSP.STATE) (by simp) u) (has_one (by first | simp | decide)) (has_one (by first | simp | decide)) (has_one (by first | simp | decide)) (fun u => has_run (f := HDI.SLOT) (by simp) u) (has_one (by first | simp | decide)) (has_one (by first | simp | decide)) (has_one (by first | simp | decide)) (has_one (by first | simp | decide)) (has_one (by first | simp | decide)) (has_one (by first | simp | decide)) (has_one (by first | simp | decide)) (fun u => has_run (f := TMU.AP_STATE) (by simp) u) (has_one (by first | simp | decide)) (has_one (by first | simp | decide)) (fun u => has_run (f := TMU.TRG_STATE) (by simp) u) (fun u => has_run (f := VEN.FLAGS) (by simp) u) (fun u => has_run (f := VEN.STATE) (by simp) u)) he
theorem frame_lockGained (n : _) {c : Change} {s t : State} (hc : changesData (.lockGained n) = some c) (he : exec (.lockGained n) s = .next t) :
    OnlyMembers c.has s t ∧ (c.mem = false → t.mem = s.mem) := by
  cases hc
  refine fr_concl (execLockGained_fr n s (fr_refl s) (has_one (by first | simp | decide)) (fun u => has_run (f := LNK.MESH_RESP) (by simp) u) (has_one (by first | simp | decide)) (has_one (by first | simp | decide)) (fun u => has_run (f := TMU.LANE_FLAGS) (by simp) u) (fun u => has_run (f := TMU.TXTS_LOST) (by simp) u) (fun u => has_run (f := TMU.TXTS_MADE) (by simp) u) (fun u => has_run (f := TMU.TXTS_READ) (by simp) u)) he
theorem frame_qrateWrite (q k v : _) {c : Change} {s t : State} (hc : changesData (.qrateWrite q k v) = some c) (he : exec (.qrateWrite q k v) s = .next t) :
    OnlyMembers c.has s t ∧ (c.mem = false → t.mem = s.mem) := by
  cases hc
  refine fr_concl (execQrateWrite_fr q k v s (fr_refl s) (has_one (by first | simp | decide)) (fun u => has_run (f := HDI.STATS) (by simp) u) (has_one (by first | simp | decide)) (has_one (by first | simp | decide))) he
theorem frame_qpllLock (k : _) {c : Change} {s t : State} (hc : changesData (.qpllLock k) = some c) (he : exec (.qpllLock k) s = .next t) :
    OnlyMembers c.has s t ∧ (c.mem = false → t.mem = s.mem) := by
  cases hc
  refine fr_concl (execQpllLock_fr k s (fr_refl s) (has_one (by first | simp | decide)) (has_one (by first | simp | decide)) (has_one (by first | simp | decide))) he
theorem frame_laneMapWrite (q k v : _) {c : Change} {s t : State} (hc : changesData (.laneMapWrite q k v) = some c) (he : exec (.laneMapWrite q k v) s = .next t) :
    OnlyMembers c.has s t ∧ (c.mem = false → t.mem = s.mem) := by
  cases hc
  refine fr_concl (execLaneMapWrite_fr q k v s (fr_refl s) (fun u => has_run (f := HDI.STATS) (by simp) u) (has_one (by first | simp | decide)) (fun u => has_run (f := LNK.PHYS) (by simp) u)) he
theorem frame_dataBlock (n v fix : _) {c : Change} {s t : State} (hc : changesData (.dataBlock n v fix) = some c) (he : exec (.dataBlock n v fix) s = .next t) :
    OnlyMembers c.has s t ∧ (c.mem = false → t.mem = s.mem) := by
  cases hc
  refine fr_concl (execDataBlock_fr n v fix s (fr_refl s) (fun u => has_run (f := LNK.EVFLAGS) (by simp) u) (fun u => has_run (f := LNK.FEC_CORR) (by simp) u) (fun u => has_run (f := LNK.MESH_IN) (by simp) u) (fun u => has_run (f := LNK.MESH_RESP) (by simp) u) (fun u => has_run (f := LNK.RX_CRC) (by simp) u) (fun u => has_run (f := LNK.RX_INVALID) (by simp) u) (fun u => has_run (f := LNK.SRX_MSGS) (by simp) u) (has_one (by first | simp | decide)) (fun u => has_run (f := TMU.LANE_FLAGS) (by simp) u) (fun u => has_run (f := TMU.TXTS_LOST) (by simp) u) (fun u => has_run (f := TMU.TXTS_MADE) (by simp) u) (fun u => has_run (f := TMU.TXTS_READ) (by simp) u)) he
theorem frame_idleBlock (n v fix : _) {c : Change} {s t : State} (hc : changesData (.idleBlock n v fix) = some c) (he : exec (.idleBlock n v fix) s = .next t) :
    OnlyMembers c.has s t ∧ (c.mem = false → t.mem = s.mem) := by
  cases hc
  refine fr_concl (execIdleBlock_fr n v fix s (fr_refl s) (has_one (by first | simp | decide)) (fun u => has_run (f := LNK.MESH_RESP) (by simp) u) (has_one (by first | simp | decide)) (has_one (by first | simp | decide)) (fun u => has_run (f := TMU.LANE_FLAGS) (by simp) u) (fun u => has_run (f := TMU.TXTS_LOST) (by simp) u) (fun u => has_run (f := TMU.TXTS_MADE) (by simp) u) (fun u => has_run (f := TMU.TXTS_READ) (by simp) u)) he
theorem frame_startBlock (n v fix : _) {c : Change} {s t : State} (hc : changesData (.startBlock n v fix) = some c) (he : exec (.startBlock n v fix) s = .next t) :
    OnlyMembers c.has s t ∧ (c.mem = false → t.mem = s.mem) := by
  cases hc
  refine fr_concl (execStartBlock_fr n v fix s (fr_refl s) (has_one (by first | simp | decide)) (fun u => has_run (f := LNK.MESH_RESP) (by simp) u) (has_one (by first | simp | decide)) (has_one (by first | simp | decide)) (has_one (by first | simp | decide)) (fun u => has_run (f := TMU.LANE_FLAGS) (by simp) u) (fun u => has_run (f := TMU.TXTS_LOST) (by simp) u) (fun u => has_run (f := TMU.TXTS_MADE) (by simp) u) (fun u => has_run (f := TMU.TXTS_READ) (by simp) u)) he
theorem frame_creditBlock (n v fix : _) {c : Change} {s t : State} (hc : changesData (.creditBlock n v fix) = some c) (he : exec (.creditBlock n v fix) s = .next t) :
    OnlyMembers c.has s t ∧ (c.mem = false → t.mem = s.mem) := by
  cases hc
  refine fr_concl (execCreditBlock_fr n v fix s (fr_refl s) (has_one (by first | simp | decide)) (fun u => has_run (f := LNK.MESH_RESP) (by simp) u) (has_one (by first | simp | decide)) (has_one (by first | simp | decide)) (fun u => has_run (f := TMU.LANE_FLAGS) (by simp) u) (fun u => has_run (f := TMU.TXTS_LOST) (by simp) u) (fun u => has_run (f := TMU.TXTS_MADE) (by simp) u) (fun u => has_run (f := TMU.TXTS_READ) (by simp) u)) he
theorem frame_linkBlock (n v fix : _) {c : Change} {s t : State} (hc : changesData (.linkBlock n v fix) = some c) (he : exec (.linkBlock n v fix) s = .next t) :
    OnlyMembers c.has s t ∧ (c.mem = false → t.mem = s.mem) := by
  cases hc
  refine fr_concl (execLinkBlock_fr n v fix s (fr_refl s) (has_one (by first | simp | decide)) (has_one (by first | simp | decide)) (fun u => has_run (f := LNK.MESH_RESP) (by simp) u) (has_one (by first | simp | decide)) (has_one (by first | simp | decide)) (has_one (by first | simp | decide)) (has_one (by first | simp | decide)) (fun u => has_run (f := TMU.LANE_FLAGS) (by simp) u) (fun u => has_run (f := TMU.TXTS_LOST) (by simp) u) (fun u => has_run (f := TMU.TXTS_MADE) (by simp) u) (fun u => has_run (f := TMU.TXTS_READ) (by simp) u)) he
theorem frame_meshMessage (n : _) {c : Change} {s t : State} (hc : changesData (.meshMessage n) = some c) (he : exec (.meshMessage n) s = .next t) :
    OnlyMembers c.has s t ∧ (c.mem = false → t.mem = s.mem) := by
  cases hc
  refine fr_concl (execMeshMessage_fr n s (fr_refl s) (fun u => has_run (f := LNK.MESH_RESP) (by simp) u) (has_one (by first | simp | decide)) (fun u => has_run (f := TMU.LANE_FLAGS) (by simp) u) (fun u => has_run (f := TMU.TXTS_LOST) (by simp) u) (fun u => has_run (f := TMU.TXTS_MADE) (by simp) u) (fun u => has_run (f := TMU.TXTS_READ) (by simp) u)) he
theorem frame_timeMessage (n : _) {c : Change} {s t : State} (hc : changesData (.timeMessage n) = some c) (he : exec (.timeMessage n) s = .next t) :
    OnlyMembers c.has s t ∧ (c.mem = false → t.mem = s.mem) := by
  cases hc
  refine fr_concl (execTimeMessage_fr n s (fr_refl s) (fun u => has_run (f := LNK.MESH_RESP) (by simp) u) (has_one (by first | simp | decide)) (fun u => has_run (f := TMU.LANE_FLAGS) (by simp) u) (has_one (by first | simp | decide)) (fun u => has_run (f := TMU.TXTS_LOST) (by simp) u) (fun u => has_run (f := TMU.TXTS_MADE) (by simp) u) (fun u => has_run (f := TMU.TXTS_READ) (by simp) u)) he
theorem frame_streamMessage (n : _) {c : Change} {s t : State} (hc : changesData (.streamMessage n) = some c) (he : exec (.streamMessage n) s = .next t) :
    OnlyMembers c.has s t ∧ (c.mem = false → t.mem = s.mem) := by
  cases hc
  refine fr_concl (execStreamMessage_fr n s (fr_refl s) (has_one (by first | simp | decide)) (fun u => has_run (f := LNK.MESH_RESP) (by simp) u) (has_one (by first | simp | decide)) (has_one (by first | simp | decide)) (fun u => has_run (f := TMU.LANE_FLAGS) (by simp) u) (fun u => has_run (f := TMU.TXTS_LOST) (by simp) u) (fun u => has_run (f := TMU.TXTS_MADE) (by simp) u) (fun u => has_run (f := TMU.TXTS_READ) (by simp) u)) he
theorem frame_streamWritesDone (n err : _) {c : Change} {s t : State} (hc : changesData (.streamWritesDone n err) = some c) (he : exec (.streamWritesDone n err) s = .next t) :
    OnlyMembers c.has s t ∧ (c.mem = false → t.mem = s.mem) := by
  cases hc
  refine fr_concl (execStreamWritesDone_fr n err s (fr_refl s) (has_one (by first | simp | decide)) (fun u => has_run (f := LNK.MESH_RESP) (by simp) u) (has_one (by first | simp | decide)) (has_one (by first | simp | decide)) (has_one (by first | simp | decide)) (has_one (by first | simp | decide)) (fun u => has_run (f := TMU.LANE_FLAGS) (by simp) u) (fun u => has_run (f := TMU.TXTS_LOST) (by simp) u) (fun u => has_run (f := TMU.TXTS_MADE) (by simp) u) (fun u => has_run (f := TMU.TXTS_READ) (by simp) u)) he
theorem frame_creditSendTimer (n : _) {c : Change} {s t : State} (hc : changesData (.creditSendTimer n) = some c) (he : exec (.creditSendTimer n) s = .next t) :
    OnlyMembers c.has s t ∧ (c.mem = false → t.mem = s.mem) := by
  cases hc
  refine fr_concl (execCreditSendTimer_fr n s (fr_refl s) (fun u => has_run (f := LNK.MESH_RESP) (by simp) u) (has_one (by first | simp | decide)) (fun u => has_run (f := TMU.LANE_FLAGS) (by simp) u) (fun u => has_run (f := TMU.TXTS_LOST) (by simp) u) (fun u => has_run (f := TMU.TXTS_MADE) (by simp) u) (fun u => has_run (f := TMU.TXTS_READ) (by simp) u)) he
theorem frame_linkSendTimer (n : _) {c : Change} {s t : State} (hc : changesData (.linkSendTimer n) = some c) (he : exec (.linkSendTimer n) s = .next t) :
    OnlyMembers c.has s t ∧ (c.mem = false → t.mem = s.mem) := by
  cases hc
  refine fr_concl (execLinkSendTimer_fr n s (fr_refl s) (fun u => has_run (f := LNK.MESH_RESP) (by simp) u) (has_one (by first | simp | decide)) (fun u => has_run (f := TMU.LANE_FLAGS) (by simp) u) (fun u => has_run (f := TMU.TXTS_LOST) (by simp) u) (fun u => has_run (f := TMU.TXTS_MADE) (by simp) u) (fun u => has_run (f := TMU.TXTS_READ) (by simp) u)) he
theorem frame_tmuRoleWrite (q v : _) {c : Change} {s t : State} (hc : changesData (.tmuRoleWrite q v) = some c) (he : exec (.tmuRoleWrite q v) s = .next t) :
    OnlyMembers c.has s t ∧ (c.mem = false → t.mem = s.mem) := by
  cases hc
  refine fr_concl (execTmuRoleWrite_fr q v s (fr_refl s) (fun u => has_run (f := DSP.STATE) (by simp) u) (has_one (by first | simp | decide)) (has_one (by first | simp | decide)) (fun u => has_run (f := HDI.STATS) (by simp) u) (has_one (by first | simp | decide)) (fun u => has_run (f := TMU.AP_STATE) (by simp) u) (has_one (by first | simp | decide)) (has_one (by first | simp | decide)) (has_one (by first | simp | decide)) (fun u => has_run (f := TMU.TRG_STATE) (by simp) u) (fun u => has_run (f := VEN.FLAGS) (by simp) u) (fun u => has_run (f := VEN.STATE) (by simp) u)) he
theorem frame_incrWrite (q v : _) {c : Change} {s t : State} (hc : changesData (.incrWrite q v) = some c) (he : exec (.incrWrite q v) s = .next t) :
    OnlyMembers c.has s t ∧ (c.mem = false → t.mem = s.mem) := by
  cases hc
  refine fr_concl (execIncrWrite_fr q v s (fr_refl s) (fun u => has_run (f := HDI.STATS) (by simp) u) (has_one (by first | simp | decide))) he
theorem frame_tmuStep (q v : _) {c : Change} {s t : State} (hc : changesData (.tmuStep q v) = some c) (he : exec (.tmuStep q v) s = .next t) :
    OnlyMembers c.has s t ∧ (c.mem = false → t.mem = s.mem) := by
  cases hc
  refine fr_concl (execTmuStep_fr q v s (fr_refl s) (fun u => has_run (f := HDI.STATS) (by simp) u) (has_one (by first | simp | decide)) (has_one (by first | simp | decide)) (has_one (by first | simp | decide))) he
theorem frame_tmuSet (q v : _) {c : Change} {s t : State} (hc : changesData (.tmuSet q v) = some c) (he : exec (.tmuSet q v) s = .next t) :
    OnlyMembers c.has s t ∧ (c.mem = false → t.mem = s.mem) := by
  cases hc
  refine fr_concl (execTmuSet_fr q v s (fr_refl s) (fun u => has_run (f := HDI.STATS) (by simp) u) (has_one (by first | simp | decide)) (has_one (by first | simp | decide))) he
theorem frame_exchangeStart {c : Change} {s t : State} (hc : changesData (.exchangeStart) = some c) (he : exec (.exchangeStart) s = .next t) :
    OnlyMembers c.has s t ∧ (c.mem = false → t.mem = s.mem) := by
  cases hc
  refine fr_concl (execExchangeStart_fr s (fr_refl s) (fun u => has_run (f := LNK.MESH_RESP) (by simp) u) (has_one (by first | simp | decide)) (fun u => has_run (f := TMU.LANE_FLAGS) (by simp) u) (fun u => has_run (f := TMU.TXTS_LOST) (by simp) u) (fun u => has_run (f := TMU.TXTS_MADE) (by simp) u) (fun u => has_run (f := TMU.TXTS_READ) (by simp) u)) he
theorem frame_sync (n : _) {c : Change} {s t : State} (hc : changesData (.sync n) = some c) (he : exec (.sync n) s = .next t) :
    OnlyMembers c.has s t ∧ (c.mem = false → t.mem = s.mem) := by
  cases hc
  refine fr_concl (execSync_fr n s (fr_refl s)) he
theorem frame_follow (n : _) {c : Change} {s t : State} (hc : changesData (.follow n) = some c) (he : exec (.follow n) s = .next t) :
    OnlyMembers c.has s t ∧ (c.mem = false → t.mem = s.mem) := by
  cases hc
  refine fr_concl (execFollow_fr n s (fr_refl s) (fun u => has_run (f := LNK.MESH_RESP) (by simp) u) (has_one (by first | simp | decide)) (has_one (by first | simp | decide)) (has_one (by first | simp | decide)) (fun u => has_run (f := TMU.LANE_FLAGS) (by simp) u) (fun u => has_run (f := TMU.TXTS_LOST) (by simp) u) (fun u => has_run (f := TMU.TXTS_MADE) (by simp) u) (fun u => has_run (f := TMU.TXTS_READ) (by simp) u)) he
theorem frame_dreq (n : _) {c : Change} {s t : State} (hc : changesData (.dreq n) = some c) (he : exec (.dreq n) s = .next t) :
    OnlyMembers c.has s t ∧ (c.mem = false → t.mem = s.mem) := by
  cases hc
  refine fr_concl (execDreq_fr n s (fr_refl s) (fun u => has_run (f := LNK.MESH_RESP) (by simp) u) (has_one (by first | simp | decide)) (fun u => has_run (f := TMU.LANE_FLAGS) (by simp) u) (fun u => has_run (f := TMU.TXTS_LOST) (by simp) u) (fun u => has_run (f := TMU.TXTS_MADE) (by simp) u) (fun u => has_run (f := TMU.TXTS_READ) (by simp) u)) he
theorem frame_dresp (n : _) {c : Change} {s t : State} (hc : changesData (.dresp n) = some c) (he : exec (.dresp n) s = .next t) :
    OnlyMembers c.has s t ∧ (c.mem = false → t.mem = s.mem) := by
  cases hc
  refine fr_concl (execDresp_fr n s (fr_refl s) (has_one (by first | simp | decide)) (has_one (by first | simp | decide)) (has_one (by first | simp | decide)) (has_one (by first | simp | decide)) (has_one (by first | simp | decide)) (has_one (by first | simp | decide)) (has_one (by first | simp | decide)) (has_one (by first | simp | decide)) (has_one (by first | simp | decide))) he
theorem frame_exchangeTimeout {c : Change} {s t : State} (hc : changesData (.exchangeTimeout) = some c) (he : exec (.exchangeTimeout) s = .next t) :
    OnlyMembers c.has s t ∧ (c.mem = false → t.mem = s.mem) := by
  cases hc
  refine fr_concl (execExchangeTimeout_fr s (fr_refl s) (fun u => has_run (f := DSP.STATE) (by simp) u) (has_one (by first | simp | decide)) (has_one (by first | simp | decide)) (has_one (by first | simp | decide)) (fun u => has_run (f := TMU.AP_STATE) (by simp) u) (has_one (by first | simp | decide)) (has_one (by first | simp | decide)) (fun u => has_run (f := TMU.TRG_STATE) (by simp) u) (fun u => has_run (f := VEN.FLAGS) (by simp) u) (fun u => has_run (f := VEN.STATE) (by simp) u)) he
theorem frame_txmsg (q n v : _) {c : Change} {s t : State} (hc : changesData (.txmsg q n v) = some c) (he : exec (.txmsg q n v) s = .next t) :
    OnlyMembers c.has s t ∧ (c.mem = false → t.mem = s.mem) := by
  cases hc
  refine fr_concl (execTxmsg_fr q n v s (fr_refl s) (fun u => has_run (f := HDI.STATS) (by simp) u) (fun u => has_run (f := LNK.MESH_RESP) (by simp) u) (has_one (by first | simp | decide)) (fun u => has_run (f := TMU.LANE_FLAGS) (by simp) u) (fun u => has_run (f := TMU.TXTS_LOST) (by simp) u) (fun u => has_run (f := TMU.TXTS_MADE) (by simp) u) (fun u => has_run (f := TMU.TXTS_READ) (by simp) u)) he
theorem frame_txts (q n : _) {c : Change} {s t : State} (hc : changesData (.txts q n) = some c) (he : exec (.txts q n) s = .next t) :
    OnlyMembers c.has s t ∧ (c.mem = false → t.mem = s.mem) := by
  cases hc
  refine fr_concl (execTxts_fr q n s (fr_refl s) (fun u => has_run (f := HDI.STATS) (by simp) u) (has_one (by first | simp | decide))) he
theorem frame_rxmsg (q n : _) {c : Change} {s t : State} (hc : changesData (.rxmsg q n) = some c) (he : exec (.rxmsg q n) s = .next t) :
    OnlyMembers c.has s t ∧ (c.mem = false → t.mem = s.mem) := by
  cases hc
  refine fr_concl (execRxmsg_fr q n s (fr_refl s) (fun u => has_run (f := HDI.STATS) (by simp) u)) he
theorem frame_apertureArm (q a : _) {c : Change} {s t : State} (hc : changesData (.apertureArm q a) = some c) (he : exec (.apertureArm q a) s = .next t) :
    OnlyMembers c.has s t ∧ (c.mem = false → t.mem = s.mem) := by
  cases hc
  refine fr_concl (execApertureArm_fr q a s (fr_refl s) (fun u => has_run (f := HDI.STATS) (by simp) u) (has_one (by first | simp | decide))) he
theorem frame_apertureDisarm (q a : _) {c : Change} {s t : State} (hc : changesData (.apertureDisarm q a) = some c) (he : exec (.apertureDisarm q a) s = .next t) :
    OnlyMembers c.has s t ∧ (c.mem = false → t.mem = s.mem) := by
  cases hc
  refine fr_concl (execApertureDisarm_fr q a s (fr_refl s) (fun u => has_run (f := HDI.STATS) (by simp) u) (has_one (by first | simp | decide))) he
theorem frame_apertureOpen (a : _) {c : Change} {s t : State} (hc : changesData (.apertureOpen a) = some c) (he : exec (.apertureOpen a) s = .next t) :
    OnlyMembers c.has s t ∧ (c.mem = false → t.mem = s.mem) := by
  cases hc
  refine fr_concl (execApertureOpen_fr a s (fr_refl s) (has_one (by first | simp | decide)) (has_one (by first | simp | decide)) (has_one (by first | simp | decide)) (fun u => has_run (f := TMU.TRG_FIRED) (by simp) u)) he
theorem frame_apertureClose (a : _) {c : Change} {s t : State} (hc : changesData (.apertureClose a) = some c) (he : exec (.apertureClose a) s = .next t) :
    OnlyMembers c.has s t ∧ (c.mem = false → t.mem = s.mem) := by
  cases hc
  refine fr_concl (execApertureClose_fr a s (fr_refl s) (has_one (by first | simp | decide))) he
theorem frame_triggerArm (q t' : _) {c : Change} {s t : State} (hc : changesData (.triggerArm q t') = some c) (he : exec (.triggerArm q t') s = .next t) :
    OnlyMembers c.has s t ∧ (c.mem = false → t.mem = s.mem) := by
  cases hc
  refine fr_concl (execTriggerArm_fr q t' s (fr_refl s) (fun u => has_run (f := HDI.STATS) (by simp) u) (has_one (by first | simp | decide)) (has_one (by first | simp | decide))) he
theorem frame_triggerDisarm (q t' : _) {c : Change} {s t : State} (hc : changesData (.triggerDisarm q t') = some c) (he : exec (.triggerDisarm q t') s = .next t) :
    OnlyMembers c.has s t ∧ (c.mem = false → t.mem = s.mem) := by
  cases hc
  refine fr_concl (execTriggerDisarm_fr q t' s (fr_refl s) (fun u => has_run (f := HDI.STATS) (by simp) u) (has_one (by first | simp | decide))) he
theorem frame_triggerPulse (t' : _) {c : Change} {s t : State} (hc : changesData (.triggerPulse t') = some c) (he : exec (.triggerPulse t') s = .next t) :
    OnlyMembers c.has s t ∧ (c.mem = false → t.mem = s.mem) := by
  cases hc
  refine fr_concl (execTriggerPulse_fr t' s (fr_refl s) (has_one (by first | simp | decide)) (has_one (by first | simp | decide)) (has_one (by first | simp | decide)) (has_one (by first | simp | decide))) he
theorem frame_captureEdge (t' rising : _) {c : Change} {s t : State} (hc : changesData (.captureEdge t' rising) = some c) (he : exec (.captureEdge t' rising) s = .next t) :
    OnlyMembers c.has s t ∧ (c.mem = false → t.mem = s.mem) := by
  cases hc
  refine fr_concl (execCaptureEdge_fr t' rising s (fr_refl s) (has_one (by first | simp | decide)) (has_one (by first | simp | decide)) (has_one (by first | simp | decide))) he
theorem frame_capPop (q t' : _) {c : Change} {s t : State} (hc : changesData (.capPop q t') = some c) (he : exec (.capPop q t') s = .next t) :
    OnlyMembers c.has s t ∧ (c.mem = false → t.mem = s.mem) := by
  cases hc
  refine fr_concl (execCapPop_fr q t' s (fr_refl s) (fun u => has_run (f := HDI.STATS) (by simp) u)) he
theorem frame_scheduleFire {c : Change} {s t : State} (hc : changesData (.scheduleFire) = some c) (he : exec (.scheduleFire) s = .next t) :
    OnlyMembers c.has s t ∧ (c.mem = false → t.mem = s.mem) := by
  cases hc
  refine fr_concl (execScheduleFire_fr s (fr_refl s)) he
theorem frame_mpy (n ecc : _) {c : Change} {s t : State} (hc : changesEngines (.mpy n ecc) = some c) (he : exec (.mpy n ecc) s = .next t) :
    OnlyMembers c.has s t ∧ (c.mem = false → t.mem = s.mem) := by
  cases hc
  refine fr_concl (execMpy_fr n ecc s (fr_refl s) (fun u => has_run (f := DBG.BRK_HITS) (by simp) u) (fun u => has_run (f := DBG.BRK_STATE) (by simp) u) (has_one (by first | simp | decide)) (has_one (by first | simp | decide)) (has_one (by first | simp | decide)) (has_one (by first | simp | decide)) (has_one (by first | simp | decide)) (has_one (by first | simp | decide)) (has_one (by first | simp | decide)) (has_one (by first | simp | decide)) (has_one (by first | simp | decide)) (has_one (by first | simp | decide)) rfl (fun u => has_run (f := SCR.CE) (by simp) u) (fun u => has_run (f := SCR.COLLIDE) (by simp) u) (fun u => has_run (f := SCR.EVFLAGS) (by simp) u) (fun u => has_run (f := SCR.UE) (by simp) u) (fun u => has_run (f := DSP.STALLS) (by simp) u)) he
theorem frame_mac (n ecc : _) {c : Change} {s t : State} (hc : changesEngines (.mac n ecc) = some c) (he : exec (.mac n ecc) s = .next t) :
    OnlyMembers c.has s t ∧ (c.mem = false → t.mem = s.mem) := by
  cases hc
  refine fr_concl (execMac_fr n ecc s (fr_refl s) (fun u => has_run (f := DBG.BRK_HITS) (by simp) u) (fun u => has_run (f := DBG.BRK_STATE) (by simp) u) (has_one (by first | simp | decide)) (has_one (by first | simp | decide)) (has_one (by first | simp | decide)) (has_one (by first | simp | decide)) (has_one (by first | simp | decide)) (has_one (by first | simp | decide)) (has_one (by first | simp | decide)) (has_one (by first | simp | decide)) (has_one (by first | simp | decide)) (has_one (by first | simp | decide)) rfl (fun u => has_run (f := SCR.CE) (by simp) u) (fun u => has_run (f := SCR.COLLIDE) (by simp) u) (fun u => has_run (f := SCR.EVFLAGS) (by simp) u) (fun u => has_run (f := SCR.UE) (by simp) u) (fun u => has_run (f := DSP.STALLS) (by simp) u)) he
theorem frame_msu (n ecc : _) {c : Change} {s t : State} (hc : changesEngines (.msu n ecc) = some c) (he : exec (.msu n ecc) s = .next t) :
    OnlyMembers c.has s t ∧ (c.mem = false → t.mem = s.mem) := by
  cases hc
  refine fr_concl (execMsu_fr n ecc s (fr_refl s) (fun u => has_run (f := DBG.BRK_HITS) (by simp) u) (fun u => has_run (f := DBG.BRK_STATE) (by simp) u) (has_one (by first | simp | decide)) (has_one (by first | simp | decide)) (has_one (by first | simp | decide)) (has_one (by first | simp | decide)) (has_one (by first | simp | decide)) (has_one (by first | simp | decide)) (has_one (by first | simp | decide)) (has_one (by first | simp | decide)) (has_one (by first | simp | decide)) (has_one (by first | simp | decide)) rfl (fun u => has_run (f := SCR.CE) (by simp) u) (fun u => has_run (f := SCR.COLLIDE) (by simp) u) (fun u => has_run (f := SCR.EVFLAGS) (by simp) u) (fun u => has_run (f := SCR.UE) (by simp) u) (fun u => has_run (f := DSP.STALLS) (by simp) u)) he
theorem frame_accClr (n : _) {c : Change} {s t : State} (hc : changesEngines (.accClr n) = some c) (he : exec (.accClr n) s = .next t) :
    OnlyMembers c.has s t ∧ (c.mem = false → t.mem = s.mem) := by
  cases hc
  refine fr_concl (execAccClr_fr n s (fr_refl s) (fun u => has_run (f := DBG.BRK_HITS) (by simp) u) (fun u => has_run (f := DBG.BRK_STATE) (by simp) u) (has_one (by first | simp | decide)) (has_one (by first | simp | decide)) (has_one (by first | simp | decide)) (has_one (by first | simp | decide)) (has_one (by first | simp | decide)) (has_one (by first | simp | decide)) (has_one (by first | simp | decide)) (has_one (by first | simp | decide)) (has_one (by first | simp | decide)) (has_one (by first | simp | decide)) (has_one (by first | simp | decide))) he
theorem frame_accLda (n : _) {c : Change} {s t : State} (hc : changesEngines (.accLda n) = some c) (he : exec (.accLda n) s = .next t) :
    OnlyMembers c.has s t ∧ (c.mem = false → t.mem = s.mem) := by
  cases hc
  refine fr_concl (execAccLda_fr n s (fr_refl s) (fun u => has_run (f := DBG.BRK_HITS) (by simp) u) (fun u => has_run (f := DBG.BRK_STATE) (by simp) u) (has_one (by first | simp | decide)) (has_one (by first | simp | decide)) (has_one (by first | simp | decide)) (has_one (by first | simp | decide)) (has_one (by first | simp | decide)) (has_one (by first | simp | decide)) (has_one (by first | simp | decide)) (has_one (by first | simp | decide)) (has_one (by first | simp | decide)) (has_one (by first | simp | decide)) (has_one (by first | simp | decide))) he
theorem frame_accAdda (n : _) {c : Change} {s t : State} (hc : changesEngines (.accAdda n) = some c) (he : exec (.accAdda n) s = .next t) :
    OnlyMembers c.has s t ∧ (c.mem = false → t.mem = s.mem) := by
  cases hc
  refine fr_concl (execAccAdda_fr n s (fr_refl s) (fun u => has_run (f := DBG.BRK_HITS) (by simp) u) (fun u => has_run (f := DBG.BRK_STATE) (by simp) u) (has_one (by first | simp | decide)) (has_one (by first | simp | decide)) (has_one (by first | simp | decide)) (has_one (by first | simp | decide)) (has_one (by first | simp | decide)) (has_one (by first | simp | decide)) (has_one (by first | simp | decide)) (has_one (by first | simp | decide)) (has_one (by first | simp | decide)) (has_one (by first | simp | decide)) (has_one (by first | simp | decide))) he
theorem frame_accSuml (n : _) {c : Change} {s t : State} (hc : changesEngines (.accSuml n) = some c) (he : exec (.accSuml n) s = .next t) :
    OnlyMembers c.has s t ∧ (c.mem = false → t.mem = s.mem) := by
  cases hc
  refine fr_concl (execAccSuml_fr n s (fr_refl s) (fun u => has_run (f := DBG.BRK_HITS) (by simp) u) (fun u => has_run (f := DBG.BRK_STATE) (by simp) u) (has_one (by first | simp | decide)) (has_one (by first | simp | decide)) (has_one (by first | simp | decide)) (has_one (by first | simp | decide)) (has_one (by first | simp | decide)) (has_one (by first | simp | decide)) (has_one (by first | simp | decide)) (has_one (by first | simp | decide)) (has_one (by first | simp | decide)) (has_one (by first | simp | decide)) (has_one (by first | simp | decide))) he
theorem frame_accStr (n : _) {c : Change} {s t : State} (hc : changesEngines (.accStr n) = some c) (he : exec (.accStr n) s = .next t) :
    OnlyMembers c.has s t ∧ (c.mem = false → t.mem = s.mem) := by
  cases hc
  refine fr_concl (execAccStr_fr n s (fr_refl s) (fun u => has_run (f := DBG.BRK_HITS) (by simp) u) (fun u => has_run (f := DBG.BRK_STATE) (by simp) u) (has_one (by first | simp | decide)) (has_one (by first | simp | decide)) (has_one (by first | simp | decide)) (has_one (by first | simp | decide)) (has_one (by first | simp | decide)) (has_one (by first | simp | decide)) (has_one (by first | simp | decide)) (has_one (by first | simp | decide)) (has_one (by first | simp | decide)) (has_one (by first | simp | decide)) (has_one (by first | simp | decide)) (has_one (by first | simp | decide))) he
theorem frame_accShra (n : _) {c : Change} {s t : State} (hc : changesEngines (.accShra n) = some c) (he : exec (.accShra n) s = .next t) :
    OnlyMembers c.has s t ∧ (c.mem = false → t.mem = s.mem) := by
  cases hc
  refine fr_concl (execAccShra_fr n s (fr_refl s) (fun u => has_run (f := DBG.BRK_HITS) (by simp) u) (fun u => has_run (f := DBG.BRK_STATE) (by simp) u) (has_one (by first | simp | decide)) (has_one (by first | simp | decide)) (has_one (by first | simp | decide)) (has_one (by first | simp | decide)) (has_one (by first | simp | decide)) (has_one (by first | simp | decide)) (has_one (by first | simp | decide)) (has_one (by first | simp | decide)) (has_one (by first | simp | decide)) (has_one (by first | simp | decide)) (has_one (by first | simp | decide))) he
theorem frame_mem (n ecc : _) {c : Change} {s t : State} (hc : changesEngines (.mem n ecc) = some c) (he : exec (.mem n ecc) s = .next t) :
    OnlyMembers c.has s t ∧ (c.mem = false → t.mem = s.mem) := by
  cases hc
  refine fr_concl (execMem_fr n ecc s (fr_refl s) (fun u => has_run (f := DBG.BRK_HITS) (by simp) u) (fun u => has_run (f := DBG.BRK_STATE) (by simp) u) (has_one (by first | simp | decide)) (has_one (by first | simp | decide)) (has_one (by first | simp | decide)) (has_one (by first | simp | decide)) (has_one (by first | simp | decide)) (has_one (by first | simp | decide)) (has_one (by first | simp | decide)) (has_one (by first | simp | decide)) (has_one (by first | simp | decide)) (has_one (by first | simp | decide)) rfl (fun u => has_run (f := SCR.CE) (by simp) u) (fun u => has_run (f := SCR.COLLIDE) (by simp) u) (fun u => has_run (f := SCR.EVFLAGS) (by simp) u) (fun u => has_run (f := SCR.UE) (by simp) u) (fun u => has_run (f := DSP.STALLS) (by simp) u)) he
theorem frame_seta (n : _) {c : Change} {s t : State} (hc : changesEngines (.seta n) = some c) (he : exec (.seta n) s = .next t) :
    OnlyMembers c.has s t ∧ (c.mem = false → t.mem = s.mem) := by
  cases hc
  refine fr_concl (execSeta_fr n s (fr_refl s) (fun u => has_run (f := DBG.BRK_HITS) (by simp) u) (fun u => has_run (f := DBG.BRK_STATE) (by simp) u) (has_one (by first | simp | decide)) (has_one (by first | simp | decide)) (has_one (by first | simp | decide)) (has_one (by first | simp | decide)) (has_one (by first | simp | decide)) (has_one (by first | simp | decide)) (has_one (by first | simp | decide)) (has_one (by first | simp | decide)) (has_one (by first | simp | decide)) (has_one (by first | simp | decide)) (has_one (by first | simp | decide))) he
theorem frame_seto (n : _) {c : Change} {s t : State} (hc : changesEngines (.seto n) = some c) (he : exec (.seto n) s = .next t) :
    OnlyMembers c.has s t ∧ (c.mem = false → t.mem = s.mem) := by
  cases hc
  refine fr_concl (execSeto_fr n s (fr_refl s) (fun u => has_run (f := DBG.BRK_HITS) (by simp) u) (fun u => has_run (f := DBG.BRK_STATE) (by simp) u) (has_one (by first | simp | decide)) (has_one (by first | simp | decide)) (has_one (by first | simp | decide)) (has_one (by first | simp | decide)) (has_one (by first | simp | decide)) (has_one (by first | simp | decide)) (has_one (by first | simp | decide)) (has_one (by first | simp | decide)) (has_one (by first | simp | decide)) (has_one (by first | simp | decide)) (has_one (by first | simp | decide))) he
theorem frame_inca (n : _) {c : Change} {s t : State} (hc : changesEngines (.inca n) = some c) (he : exec (.inca n) s = .next t) :
    OnlyMembers c.has s t ∧ (c.mem = false → t.mem = s.mem) := by
  cases hc
  refine fr_concl (execInca_fr n s (fr_refl s) (fun u => has_run (f := DBG.BRK_HITS) (by simp) u) (fun u => has_run (f := DBG.BRK_STATE) (by simp) u) (has_one (by first | simp | decide)) (has_one (by first | simp | decide)) (has_one (by first | simp | decide)) (has_one (by first | simp | decide)) (has_one (by first | simp | decide)) (has_one (by first | simp | decide)) (has_one (by first | simp | decide)) (has_one (by first | simp | decide)) (has_one (by first | simp | decide)) (has_one (by first | simp | decide)) (has_one (by first | simp | decide))) he
theorem frame_vmov (n : _) {c : Change} {s t : State} (hc : changesEngines (.vmov n) = some c) (he : exec (.vmov n) s = .next t) :
    OnlyMembers c.has s t ∧ (c.mem = false → t.mem = s.mem) := by
  cases hc
  refine fr_concl (execVmov_fr n s (fr_refl s) (fun u => has_run (f := DBG.BRK_HITS) (by simp) u) (fun u => has_run (f := DBG.BRK_STATE) (by simp) u) (has_one (by first | simp | decide)) (has_one (by first | simp | decide)) (has_one (by first | simp | decide)) (has_one (by first | simp | decide)) (has_one (by first | simp | decide)) (has_one (by first | simp | decide)) (has_one (by first | simp | decide)) (has_one (by first | simp | decide)) (has_one (by first | simp | decide)) (has_one (by first | simp | decide)) (has_one (by first | simp | decide)) (has_one (by first | simp | decide))) he
theorem frame_vadd (n : _) {c : Change} {s t : State} (hc : changesEngines (.vadd n) = some c) (he : exec (.vadd n) s = .next t) :
    OnlyMembers c.has s t ∧ (c.mem = false → t.mem = s.mem) := by
  cases hc
  refine fr_concl (execVadd_fr n s (fr_refl s) (fun u => has_run (f := DBG.BRK_HITS) (by simp) u) (fun u => has_run (f := DBG.BRK_STATE) (by simp) u) (has_one (by first | simp | decide)) (has_one (by first | simp | decide)) (has_one (by first | simp | decide)) (has_one (by first | simp | decide)) (has_one (by first | simp | decide)) (has_one (by first | simp | decide)) (has_one (by first | simp | decide)) (has_one (by first | simp | decide)) (has_one (by first | simp | decide)) (has_one (by first | simp | decide)) (has_one (by first | simp | decide)) (has_one (by first | simp | decide))) he
theorem frame_vsub (n : _) {c : Change} {s t : State} (hc : changesEngines (.vsub n) = some c) (he : exec (.vsub n) s = .next t) :
    OnlyMembers c.has s t ∧ (c.mem = false → t.mem = s.mem) := by
  cases hc
  refine fr_concl (execVsub_fr n s (fr_refl s) (fun u => has_run (f := DBG.BRK_HITS) (by simp) u) (fun u => has_run (f := DBG.BRK_STATE) (by simp) u) (has_one (by first | simp | decide)) (has_one (by first | simp | decide)) (has_one (by first | simp | decide)) (has_one (by first | simp | decide)) (has_one (by first | simp | decide)) (has_one (by first | simp | decide)) (has_one (by first | simp | decide)) (has_one (by first | simp | decide)) (has_one (by first | simp | decide)) (has_one (by first | simp | decide)) (has_one (by first | simp | decide)) (has_one (by first | simp | decide))) he
theorem frame_vshl (n : _) {c : Change} {s t : State} (hc : changesEngines (.vshl n) = some c) (he : exec (.vshl n) s = .next t) :
    OnlyMembers c.has s t ∧ (c.mem = false → t.mem = s.mem) := by
  cases hc
  refine fr_concl (execVshl_fr n s (fr_refl s) (fun u => has_run (f := DBG.BRK_HITS) (by simp) u) (fun u => has_run (f := DBG.BRK_STATE) (by simp) u) (has_one (by first | simp | decide)) (has_one (by first | simp | decide)) (has_one (by first | simp | decide)) (has_one (by first | simp | decide)) (has_one (by first | simp | decide)) (has_one (by first | simp | decide)) (has_one (by first | simp | decide)) (has_one (by first | simp | decide)) (has_one (by first | simp | decide)) (has_one (by first | simp | decide)) (has_one (by first | simp | decide)) (has_one (by first | simp | decide))) he
theorem frame_vshr (n : _) {c : Change} {s t : State} (hc : changesEngines (.vshr n) = some c) (he : exec (.vshr n) s = .next t) :
    OnlyMembers c.has s t ∧ (c.mem = false → t.mem = s.mem) := by
  cases hc
  refine fr_concl (execVshr_fr n s (fr_refl s) (fun u => has_run (f := DBG.BRK_HITS) (by simp) u) (fun u => has_run (f := DBG.BRK_STATE) (by simp) u) (has_one (by first | simp | decide)) (has_one (by first | simp | decide)) (has_one (by first | simp | decide)) (has_one (by first | simp | decide)) (has_one (by first | simp | decide)) (has_one (by first | simp | decide)) (has_one (by first | simp | decide)) (has_one (by first | simp | decide)) (has_one (by first | simp | decide)) (has_one (by first | simp | decide)) (has_one (by first | simp | decide)) (has_one (by first | simp | decide))) he
theorem frame_dspNop (n : _) {c : Change} {s t : State} (hc : changesEngines (.dspNop n) = some c) (he : exec (.dspNop n) s = .next t) :
    OnlyMembers c.has s t ∧ (c.mem = false → t.mem = s.mem) := by
  cases hc
  refine fr_concl (execDspNop_fr n s (fr_refl s) (fun u => has_run (f := DBG.BRK_HITS) (by simp) u) (fun u => has_run (f := DBG.BRK_STATE) (by simp) u) (has_one (by first | simp | decide)) (has_one (by first | simp | decide)) (has_one (by first | simp | decide)) (has_one (by first | simp | decide)) (has_one (by first | simp | decide)) (has_one (by first | simp | decide)) (has_one (by first | simp | decide)) (has_one (by first | simp | decide)) (has_one (by first | simp | decide)) (has_one (by first | simp | decide)) (has_one (by first | simp | decide))) he
theorem frame_dspJmp (n : _) {c : Change} {s t : State} (hc : changesEngines (.dspJmp n) = some c) (he : exec (.dspJmp n) s = .next t) :
    OnlyMembers c.has s t ∧ (c.mem = false → t.mem = s.mem) := by
  cases hc
  refine fr_concl (execDspJmp_fr n s (fr_refl s) (fun u => has_run (f := DBG.BRK_HITS) (by simp) u) (fun u => has_run (f := DBG.BRK_STATE) (by simp) u) (has_one (by first | simp | decide)) (has_one (by first | simp | decide)) (has_one (by first | simp | decide)) (has_one (by first | simp | decide)) (has_one (by first | simp | decide)) (has_one (by first | simp | decide)) (has_one (by first | simp | decide)) (has_one (by first | simp | decide)) (has_one (by first | simp | decide)) (has_one (by first | simp | decide)) (has_one (by first | simp | decide))) he
theorem frame_djnz (n : _) {c : Change} {s t : State} (hc : changesEngines (.djnz n) = some c) (he : exec (.djnz n) s = .next t) :
    OnlyMembers c.has s t ∧ (c.mem = false → t.mem = s.mem) := by
  cases hc
  refine fr_concl (execDjnz_fr n s (fr_refl s) (fun u => has_run (f := DBG.BRK_HITS) (by simp) u) (fun u => has_run (f := DBG.BRK_STATE) (by simp) u) (has_one (by first | simp | decide)) (has_one (by first | simp | decide)) (has_one (by first | simp | decide)) (has_one (by first | simp | decide)) (has_one (by first | simp | decide)) (has_one (by first | simp | decide)) (has_one (by first | simp | decide)) (has_one (by first | simp | decide)) (has_one (by first | simp | decide)) (has_one (by first | simp | decide)) (has_one (by first | simp | decide))) he
theorem frame_dspLdc (n : _) {c : Change} {s t : State} (hc : changesEngines (.dspLdc n) = some c) (he : exec (.dspLdc n) s = .next t) :
    OnlyMembers c.has s t ∧ (c.mem = false → t.mem = s.mem) := by
  cases hc
  refine fr_concl (execDspLdc_fr n s (fr_refl s) (fun u => has_run (f := DBG.BRK_HITS) (by simp) u) (fun u => has_run (f := DBG.BRK_STATE) (by simp) u) (has_one (by first | simp | decide)) (has_one (by first | simp | decide)) (has_one (by first | simp | decide)) (has_one (by first | simp | decide)) (has_one (by first | simp | decide)) (has_one (by first | simp | decide)) (has_one (by first | simp | decide)) (has_one (by first | simp | decide)) (has_one (by first | simp | decide)) (has_one (by first | simp | decide)) (has_one (by first | simp | decide))) he
theorem frame_dspEvt (n : _) {c : Change} {s t : State} (hc : changesEngines (.dspEvt n) = some c) (he : exec (.dspEvt n) s = .next t) :
    OnlyMembers c.has s t ∧ (c.mem = false → t.mem = s.mem) := by
  cases hc
  refine fr_concl (execDspEvt_fr n s (fr_refl s) (fun u => has_run (f := DBG.BRK_HITS) (by simp) u) (fun u => has_run (f := DBG.BRK_STATE) (by simp) u) (has_one (by first | simp | decide)) (has_one (by first | simp | decide)) (has_one (by first | simp | decide)) (has_one (by first | simp | decide)) (has_one (by first | simp | decide)) (has_one (by first | simp | decide)) (has_one (by first | simp | decide)) (has_one (by first | simp | decide)) (has_one (by first | simp | decide)) (has_one (by first | simp | decide)) (has_one (by first | simp | decide)) (has_one (by first | simp | decide))) he
theorem frame_dspHaltInsn (n : _) {c : Change} {s t : State} (hc : changesEngines (.dspHaltInsn n) = some c) (he : exec (.dspHaltInsn n) s = .next t) :
    OnlyMembers c.has s t ∧ (c.mem = false → t.mem = s.mem) := by
  cases hc
  refine fr_concl (execDspHaltInsn_fr n s (fr_refl s) (fun u => has_run (f := DBG.BRK_HITS) (by simp) u) (fun u => has_run (f := DBG.BRK_STATE) (by simp) u) (has_one (by first | simp | decide)) (has_one (by first | simp | decide)) (has_one (by first | simp | decide)) (has_one (by first | simp | decide)) (has_one (by first | simp | decide)) (has_one (by first | simp | decide)) (has_one (by first | simp | decide)) (has_one (by first | simp | decide)) (has_one (by first | simp | decide)) (has_one (by first | simp | decide))) he
theorem frame_waitm (n : _) {c : Change} {s t : State} (hc : changesEngines (.waitm n) = some c) (he : exec (.waitm n) s = .next t) :
    OnlyMembers c.has s t ∧ (c.mem = false → t.mem = s.mem) := by
  cases hc
  refine fr_concl (execWaitm_fr n s (fr_refl s) (fun u => has_run (f := DBG.BRK_HITS) (by simp) u) (fun u => has_run (f := DBG.BRK_STATE) (by simp) u) (has_one (by first | simp | decide)) (has_one (by first | simp | decide)) (has_one (by first | simp | decide)) (has_one (by first | simp | decide)) (has_one (by first | simp | decide)) (has_one (by first | simp | decide)) (has_one (by first | simp | decide)) (has_one (by first | simp | decide)) (has_one (by first | simp | decide)) (has_one (by first | simp | decide)) (has_one (by first | simp | decide))) he
theorem frame_bclr (n : _) {c : Change} {s t : State} (hc : changesEngines (.bclr n) = some c) (he : exec (.bclr n) s = .next t) :
    OnlyMembers c.has s t ∧ (c.mem = false → t.mem = s.mem) := by
  cases hc
  refine fr_concl (execBclr_fr n s (fr_refl s) (fun u => has_run (f := DBG.BRK_HITS) (by simp) u) (fun u => has_run (f := DBG.BRK_STATE) (by simp) u) (has_one (by first | simp | decide)) (has_one (by first | simp | decide)) (has_one (by first | simp | decide)) (has_one (by first | simp | decide)) (has_one (by first | simp | decide)) (has_one (by first | simp | decide)) (has_one (by first | simp | decide)) (has_one (by first | simp | decide)) (has_one (by first | simp | decide)) (has_one (by first | simp | decide)) (has_one (by first | simp | decide)) (has_one (by first | simp | decide))) he
theorem frame_blk (n : _) {c : Change} {s t : State} (hc : changesEngines (.blk n) = some c) (he : exec (.blk n) s = .next t) :
    OnlyMembers c.has s t ∧ (c.mem = false → t.mem = s.mem) := by
  cases hc
  refine fr_concl (execBlk_fr n s (fr_refl s) (fun u => has_run (f := DBG.BRK_HITS) (by simp) u) (fun u => has_run (f := DBG.BRK_STATE) (by simp) u) (has_one (by first | simp | decide)) (has_one (by first | simp | decide)) (has_one (by first | simp | decide)) (has_one (by first | simp | decide)) (has_one (by first | simp | decide)) (has_one (by first | simp | decide)) (has_one (by first | simp | decide)) (has_one (by first | simp | decide)) (has_one (by first | simp | decide)) (has_one (by first | simp | decide)) (has_one (by first | simp | decide)) (has_one (by first | simp | decide)) (has_one (by first | simp | decide))) he
theorem frame_dspRpt (n : _) {c : Change} {s t : State} (hc : changesEngines (.dspRpt n) = some c) (he : exec (.dspRpt n) s = .next t) :
    OnlyMembers c.has s t ∧ (c.mem = false → t.mem = s.mem) := by
  cases hc
  refine fr_concl (execDspRpt_fr n s (fr_refl s) (fun u => has_run (f := DBG.BRK_HITS) (by simp) u) (fun u => has_run (f := DBG.BRK_STATE) (by simp) u) (has_one (by first | simp | decide)) (has_one (by first | simp | decide)) (has_one (by first | simp | decide)) (has_one (by first | simp | decide)) (has_one (by first | simp | decide)) (has_one (by first | simp | decide)) (has_one (by first | simp | decide)) (has_one (by first | simp | decide)) (has_one (by first | simp | decide)) (has_one (by first | simp | decide)) (has_one (by first | simp | decide))) he
theorem frame_move (n : _) {c : Change} {s t : State} (hc : changesEngines (.move n) = some c) (he : exec (.move n) s = .next t) :
    OnlyMembers c.has s t ∧ (c.mem = false → t.mem = s.mem) := by
  cases hc
  refine fr_concl (execMove_fr n s (fr_refl s) (fun u => has_run (f := DBG.BRK_HITS) (by simp) u) (fun u => has_run (f := DBG.BRK_STATE) (by simp) u) (has_one (by first | simp | decide)) (has_one (by first | simp | decide)) (has_one (by first | simp | decide)) (has_one (by first | simp | decide)) (has_one (by first | simp | decide)) (has_one (by first | simp | decide)) (fun u => has_run (f := DSP.MOVE_INFLIGHT) (by simp) u) (fun u => has_run (f := DSP.MOVE_ISSUED) (by simp) u) (has_one (by first | simp | decide)) (has_one (by first | simp | decide)) (fun u => has_run (f := DSP.STALLS) (by simp) u) (has_one (by first | simp | decide)) (has_one (by first | simp | decide)) (fun u => has_run (f := SCR.CE) (by simp) u) (fun u => has_run (f := SCR.EVFLAGS) (by simp) u) (fun u => has_run (f := SCR.UE) (by simp) u) (fun u => has_run (f := SCR.COLLIDE) (by simp) u)) he
theorem frame_moveGatePoll (n : _) {c : Change} {s t : State} (hc : changesEngines (.moveGatePoll n) = some c) (he : exec (.moveGatePoll n) s = .next t) :
    OnlyMembers c.has s t ∧ (c.mem = false → t.mem = s.mem) := by
  cases hc
  refine fr_concl (execMoveGatePoll_fr n s (fr_refl s) (has_one (by first | simp | decide)) (has_one (by first | simp | decide))) he
theorem frame_moveComplete (n : _) {c : Change} {s t : State} (hc : changesEngines (.moveComplete n) = some c) (he : exec (.moveComplete n) s = .next t) :
    OnlyMembers c.has s t ∧ (c.mem = false → t.mem = s.mem) := by
  cases hc
  refine fr_concl (execMoveComplete_fr n s (fr_refl s) (has_one (by first | simp | decide)) (fun u => has_run (f := (DSP.MCOUNT n)) (by simp) u) (fun u => has_run (f := DSP.MOVE_INFLIGHT) (by simp) u) (fun u => has_run (f := DSP.MOVE_ISSUED) (by simp) u) (has_one (by first | simp | decide)) (has_one (by first | simp | decide)) (has_one (by first | simp | decide)) (has_one (by first | simp | decide)) (has_one (by first | simp | decide)) (has_one (by first | simp | decide)) (fun u => has_run (f := SCR.CE) (by simp) u) (fun u => has_run (f := SCR.EVFLAGS) (by simp) u) (fun u => has_run (f := SCR.UE) (by simp) u) (fun u => has_run (f := SCR.COLLIDE) (by simp) u) (fun u => has_run (f := DSP.STALLS) (by simp) u)) he
theorem frame_dspStart (q n : _) {c : Change} {s t : State} (hc : changesEngines (.dspStart q n) = some c) (he : exec (.dspStart q n) s = .next t) :
    OnlyMembers c.has s t ∧ (c.mem = false → t.mem = s.mem) := by
  cases hc
  refine fr_concl (execDspStart_fr q n s (fr_refl s) (has_one (by first | simp | decide)) (fun u => has_run (f := HDI.STATS) (by simp) u)) he
theorem frame_dspStartAt (q n : _) {c : Change} {s t : State} (hc : changesEngines (.dspStartAt q n) = some c) (he : exec (.dspStartAt q n) s = .next t) :
    OnlyMembers c.has s t ∧ (c.mem = false → t.mem = s.mem) := by
  cases hc
  refine fr_concl (execDspStartAt_fr q n s (fr_refl s) (has_one (by first | simp | decide)) (fun u => has_run (f := HDI.STATS) (by simp) u)) he
theorem frame_dspStop (q n : _) {c : Change} {s t : State} (hc : changesEngines (.dspStop q n) = some c) (he : exec (.dspStop q n) s = .next t) :
    OnlyMembers c.has s t ∧ (c.mem = false → t.mem = s.mem) := by
  cases hc
  refine fr_concl (execDspStop_fr q n s (fr_refl s) (has_one (by first | simp | decide)) (fun u => has_run (f := HDI.STATS) (by simp) u)) he
theorem frame_dspHalt (q n : _) {c : Change} {s t : State} (hc : changesEngines (.dspHalt q n) = some c) (he : exec (.dspHalt q n) s = .next t) :
    OnlyMembers c.has s t ∧ (c.mem = false → t.mem = s.mem) := by
  cases hc
  refine fr_concl (execDspHalt_fr q n s (fr_refl s) (fun u => has_run (f := HDI.STATS) (by simp) u)) he
theorem frame_dspResume (q n : _) {c : Change} {s t : State} (hc : changesEngines (.dspResume q n) = some c) (he : exec (.dspResume q n) s = .next t) :
    OnlyMembers c.has s t ∧ (c.mem = false → t.mem = s.mem) := by
  cases hc
  refine fr_concl (execDspResume_fr q n s (fr_refl s) (has_one (by first | simp | decide)) (fun u => has_run (f := HDI.STATS) (by simp) u)) he
theorem frame_dspSelfcheck (q n : _) {c : Change} {s t : State} (hc : changesEngines (.dspSelfcheck q n) = some c) (he : exec (.dspSelfcheck q n) s = .next t) :
    OnlyMembers c.has s t ∧ (c.mem = false → t.mem = s.mem) := by
  cases hc
  refine fr_concl (execDspSelfcheck_fr q n s (fr_refl s) (has_one (by first | simp | decide)) (fun u => has_run (f := HDI.STATS) (by simp) u)) he
theorem frame_dspSelfcheckEnd (n pass : _) {c : Change} {s t : State} (hc : changesEngines (.dspSelfcheckEnd n pass) = some c) (he : exec (.dspSelfcheckEnd n pass) s = .next t) :
    OnlyMembers c.has s t ∧ (c.mem = false → t.mem = s.mem) := by
  cases hc
  refine fr_concl (execDspSelfcheckEnd_fr n pass s (fr_refl s) (has_one (by first | simp | decide)) (has_one (by first | simp | decide))) he
theorem frame_dspStartEdge (n : _) {c : Change} {s t : State} (hc : changesEngines (.dspStartEdge n) = some c) (he : exec (.dspStartEdge n) s = .next t) :
    OnlyMembers c.has s t ∧ (c.mem = false → t.mem = s.mem) := by
  cases hc
  refine fr_concl (execDspStartEdge_fr n s (fr_refl s) (has_one (by first | simp | decide)) (has_one (by first | simp | decide)) (has_one (by first | simp | decide)) (has_one (by first | simp | decide)) (has_one (by first | simp | decide)) (has_one (by first | simp | decide)) (has_one (by first | simp | decide))) he
theorem frame_dspHaltLands (n : _) {c : Change} {s t : State} (hc : changesEngines (.dspHaltLands n) = some c) (he : exec (.dspHaltLands n) s = .next t) :
    OnlyMembers c.has s t ∧ (c.mem = false → t.mem = s.mem) := by
  cases hc
  refine fr_concl (execDspHaltLands_fr n s (fr_refl s) (has_one (by first | simp | decide)) (has_one (by first | simp | decide)) (has_one (by first | simp | decide)) (has_one (by first | simp | decide)) (has_one (by first | simp | decide)) (has_one (by first | simp | decide)) (has_one (by first | simp | decide)) (has_one (by first | simp | decide)) (has_one (by first | simp | decide))) he
theorem frame_dspStopLands (n : _) {c : Change} {s t : State} (hc : changesEngines (.dspStopLands n) = some c) (he : exec (.dspStopLands n) s = .next t) :
    OnlyMembers c.has s t ∧ (c.mem = false → t.mem = s.mem) := by
  cases hc
  refine fr_concl (execDspStopLands_fr n s (fr_refl s) (has_one (by first | simp | decide)) (has_one (by first | simp | decide)) (has_one (by first | simp | decide)) (has_one (by first | simp | decide)) (has_one (by first | simp | decide)) (has_one (by first | simp | decide)) (has_one (by first | simp | decide)) (has_one (by first | simp | decide)) (has_one (by first | simp | decide))) he
theorem frame_dspWatchdogExpiry (n : _) {c : Change} {s t : State} (hc : changesEngines (.dspWatchdogExpiry n) = some c) (he : exec (.dspWatchdogExpiry n) s = .next t) :
    OnlyMembers c.has s t ∧ (c.mem = false → t.mem = s.mem) := by
  cases hc
  refine fr_concl (execDspWatchdogExpiry_fr n s (fr_refl s) (has_one (by first | simp | decide)) (has_one (by first | simp | decide)) (has_one (by first | simp | decide)) (has_one (by first | simp | decide)) (has_one (by first | simp | decide)) (has_one (by first | simp | decide)) (has_one (by first | simp | decide)) (has_one (by first | simp | decide))) he
theorem frame_refinPresent {c : Change} {s t : State} (hc : changesControl (.refinPresent) = some c) (he : exec (.refinPresent) s = .next t) :
    OnlyMembers c.has s t ∧ (c.mem = false → t.mem = s.mem) := by
  cases hc
  refine fr_concl (execRefinPresent_fr s (fr_refl s) (has_one (by first | simp | decide)) (has_one (by first | simp | decide))) he
theorem frame_mpllLock {c : Change} {s t : State} (hc : changesControl (.mpllLock) = some c) (he : exec (.mpllLock) s = .next t) :
    OnlyMembers c.has s t ∧ (c.mem = false → t.mem = s.mem) := by
  cases hc
  refine fr_concl (execMpllLock_fr s (fr_refl s) (has_one (by first | simp | decide)) (has_one (by first | simp | decide)) (has_one (by first | simp | decide))) he
theorem frame_clkoutCfgWrite (q v : _) {c : Change} {s t : State} (hc : changesControl (.clkoutCfgWrite q v) = some c) (he : exec (.clkoutCfgWrite q v) s = .next t) :
    OnlyMembers c.has s t ∧ (c.mem = false → t.mem = s.mem) := by
  cases hc
  refine fr_concl (execClkoutCfgWrite_fr q v s (fr_refl s) (has_one (by first | simp | decide)) (has_one (by first | simp | decide)) (fun u => has_run (f := HDI.STATS) (by simp) u)) he
theorem frame_clockSwitchDone {c : Change} {s t : State} (hc : changesControl (.clockSwitchDone) = some c) (he : exec (.clockSwitchDone) s = .next t) :
    OnlyMembers c.has s t ∧ (c.mem = false → t.mem = s.mem) := by
  cases hc
  refine fr_concl (execClockSwitchDone_fr s (fr_refl s) (has_one (by first | simp | decide)) (has_one (by first | simp | decide))) he
theorem frame_clockSwitchTimeout {c : Change} {s t : State} (hc : changesControl (.clockSwitchTimeout) = some c) (he : exec (.clockSwitchTimeout) s = .next t) :
    OnlyMembers c.has s t ∧ (c.mem = false → t.mem = s.mem) := by
  cases hc
  refine fr_concl (execClockSwitchTimeout_fr s (fr_refl s) (has_one (by first | simp | decide)) (has_one (by first | simp | decide))) he
theorem frame_ddrPllLock (n : _) {c : Change} {s t : State} (hc : changesData (.ddrPllLock n) = some c) (he : exec (.ddrPllLock n) s = .next t) :
    OnlyMembers c.has s t ∧ (c.mem = false → t.mem = s.mem) := by
  cases hc
  refine fr_concl (execDdrPllLock_fr n s (fr_refl s) (has_one (by first | simp | decide)) (has_one (by first | simp | decide))) he
theorem frame_fmStart (q : _) {c : Change} {s t : State} (hc : changesControl (.fmStart q) = some c) (he : exec (.fmStart q) s = .next t) :
    OnlyMembers c.has s t ∧ (c.mem = false → t.mem = s.mem) := by
  cases hc
  refine fr_concl (execFmStart_fr q s (fr_refl s) (has_one (by first | simp | decide)) (fun u => has_run (f := HDI.STATS) (by simp) u)) he
theorem frame_fmDone (count : _) {c : Change} {s t : State} (hc : changesControl (.fmDone count) = some c) (he : exec (.fmDone count) s = .next t) :
    OnlyMembers c.has s t ∧ (c.mem = false → t.mem = s.mem) := by
  cases hc
  refine fr_concl (execFmDone_fr count s (fr_refl s) (has_one (by first | simp | decide)) (has_one (by first | simp | decide)) (has_one (by first | simp | decide)) (has_one (by first | simp | decide))) he
theorem frame_gateClose (q u : _) {c : Change} {s t : State} (hc : changesControl (.gateClose q u) = some c) (he : exec (.gateClose q u) s = .next t) :
    OnlyMembers c.has s t ∧ (c.mem = false → t.mem = s.mem) := by
  cases hc
  refine fr_concl (execGateClose_fr q u s (fr_refl s) (has_one (by first | simp | decide)) (has_one (by first | simp | decide)) (has_one (by first | simp | decide)) (has_one (by first | simp | decide)) (fun u => has_run (f := HDI.STATS) (by simp) u) (fun u => has_run (f := VEN.STATE) (by simp) u)) he
theorem frame_gateOpen (q u : _) {c : Change} {s t : State} (hc : changesControl (.gateOpen q u) = some c) (he : exec (.gateOpen q u) s = .next t) :
    OnlyMembers c.has s t ∧ (c.mem = false → t.mem = s.mem) := by
  cases hc
  refine fr_concl (execGateOpen_fr q u s (fr_refl s) (has_one (by first | simp | decide)) (has_one (by first | simp | decide)) (has_one (by first | simp | decide)) (has_one (by first | simp | decide)) (fun u => has_run (f := HDI.STATS) (by simp) u) (fun u => has_run (f := VEN.STATE) (by simp) u)) he
theorem frame_gateClosed (u : _) {c : Change} {s t : State} (hc : changesControl (.gateClosed u) = some c) (he : exec (.gateClosed u) s = .next t) :
    OnlyMembers c.has s t ∧ (c.mem = false → t.mem = s.mem) := by
  cases hc
  refine fr_concl (execGateClosed_fr u s (fr_refl s) (has_one (by first | simp | decide)) (has_one (by first | simp | decide)) (has_one (by first | simp | decide)) (fun u => has_run (f := CRH.GATE_TOUCH) (by simp) u) (fun u => has_run (f := CRH.PWR_STATE) (by simp) u) rfl (has_one (by first | simp | decide)) (fun u => has_run (f := MSH.WAKES) (by simp) u) (fun u => has_run (f := PAN.EVFLAGS) (by simp) u) (fun u => has_run (f := PAN.PERR) (by simp) u) (fun u => has_run (f := SCR.CE) (by simp) u) (fun u => has_run (f := SCR.EVFLAGS) (by simp) u) (fun u => has_run (f := SCR.TEST_TOUCH) (by simp) u) (fun u => has_run (f := SCR.UE) (by simp) u) (fun u => has_run (f := SCR.STEAL_TIMEOUT) (by simp) u) (fun u => has_run (f := SCR.COLLIDE) (by simp) u) (fun u => has_run (f := DSP.STALLS) (by simp) u)) he
theorem frame_gateCloseForce (u : _) {c : Change} {s t : State} (hc : changesControl (.gateCloseForce u) = some c) (he : exec (.gateCloseForce u) s = .next t) :
    OnlyMembers c.has s t ∧ (c.mem = false → t.mem = s.mem) := by
  cases hc
  refine fr_concl (execGateCloseForce_fr u s (fr_refl s)) he
theorem frame_gateOpened (u : _) {c : Change} {s t : State} (hc : changesControl (.gateOpened u) = some c) (he : exec (.gateOpened u) s = .next t) :
    OnlyMembers c.has s t ∧ (c.mem = false → t.mem = s.mem) := by
  cases hc
  refine fr_concl (execGateOpened_fr u s (fr_refl s) (has_one (by first | simp | decide)) (has_one (by first | simp | decide)) (has_one (by first | simp | decide)) (fun u => has_run (f := CRH.GATE_TOUCH) (by simp) u) (fun u => has_run (f := CRH.PWR_STATE) (by simp) u) rfl (has_one (by first | simp | decide)) (fun u => has_run (f := MSH.WAKES) (by simp) u) (fun u => has_run (f := PAN.EVFLAGS) (by simp) u) (fun u => has_run (f := PAN.PERR) (by simp) u) (fun u => has_run (f := SCR.CE) (by simp) u) (fun u => has_run (f := SCR.EVFLAGS) (by simp) u) (fun u => has_run (f := SCR.TEST_TOUCH) (by simp) u) (fun u => has_run (f := SCR.UE) (by simp) u) (fun u => has_run (f := SCR.STEAL_TIMEOUT) (by simp) u) (fun u => has_run (f := SCR.COLLIDE) (by simp) u) (fun u => has_run (f := DSP.STALLS) (by simp) u)) he
theorem frame_powerOff (q d : _) {c : Change} {s t : State} (hc : changesControl (.powerOff q d) = some c) (he : exec (.powerOff q d) s = .next t) :
    OnlyMembers c.has s t ∧ (c.mem = false → t.mem = s.mem) := by
  cases hc
  refine fr_concl (execPowerOff_fr q d s (fr_refl s) (has_one (by first | simp | decide)) (has_one (by first | simp | decide)) (fun u => has_run (f := HDI.STATS) (by simp) u)) he
theorem frame_powerOn (q d : _) {c : Change} {s t : State} (hc : changesControl (.powerOn q d) = some c) (he : exec (.powerOn q d) s = .next t) :
    OnlyMembers c.has s t ∧ (c.mem = false → t.mem = s.mem) := by
  cases hc
  refine fr_concl (execPowerOn_fr q d s (fr_refl s) (has_one (by first | simp | decide)) (has_one (by first | simp | decide)) (fun u => has_run (f := HDI.STATS) (by simp) u)) he
theorem frame_nresetRise (straps : _) {c : Change} {s t : State} (hc : changesControl (.nresetRise straps) = some c) (he : exec (.nresetRise straps) s = .next t) :
    OnlyMembers c.has s t ∧ (c.mem = false → t.mem = s.mem) := by
  cases hc
  refine fr_concl (execNresetRise_fr straps s (fr_refl s) (has_one (by first | simp | decide)) (has_one (by first | simp | decide))) he
theorem frame_resetEnd {c : Change} {s t : State} (hc : changesControl (.resetEnd) = some c) (he : exec (.resetEnd) s = .next t) :
    OnlyMembers c.has s t ∧ (c.mem = false → t.mem = s.mem) := by
  cases hc
  refine fr_concl (execResetEnd_fr s (fr_refl s)) he
theorem frame_supReady {c : Change} {s t : State} (hc : changesControl (.supReady) = some c) (he : exec (.supReady) s = .next t) :
    OnlyMembers c.has s t ∧ (c.mem = false → t.mem = s.mem) := by
  cases hc
  refine fr_concl (execSupReady_fr s (fr_refl s) (has_one (by first | simp | decide)) (has_one (by first | simp | decide)) (has_one (by first | simp | decide)) (fun u => has_run (f := DMC.STATE) (by simp) u) (has_one (by first | simp | decide)) (fun u v => has_pair (f := calKey) (by simp) u v)) he
theorem frame_tempSample (temps : _) {c : Change} {s t : State} (hc : changesControl (.tempSample temps) = some c) (he : exec (.tempSample temps) s = .next t) :
    OnlyMembers c.has s t ∧ (c.mem = false → t.mem = s.mem) := by
  cases hc
  refine fr_concl (execTempSample_fr temps s (fr_refl s) (has_one (by first | simp | decide)) (fun u => has_run (f := CRH.TEMP) (by simp) u) (has_one (by first | simp | decide)) (fun u => has_run (f := EDG.GROUP) (by simp) u) (has_one (by first | simp | decide))) he
theorem frame_railSample (r mv : _) {c : Change} {s t : State} (hc : changesControl (.railSample r mv) = some c) (he : exec (.railSample r mv) s = .next t) :
    OnlyMembers c.has s t ∧ (c.mem = false → t.mem = s.mem) := by
  cases hc
  refine fr_concl (execRailSample_fr r mv s (fr_refl s) (has_one (by first | simp | decide)) (has_one (by first | simp | decide))) he
theorem frame_autoLoad (flash : _) {c : Change} {s t : State} (hc : changesData (.autoLoad flash) = some c) (he : exec (.autoLoad flash) s = .next t) :
    OnlyMembers c.has s t ∧ (c.mem = false → t.mem = s.mem) := by
  cases hc
  refine fr_concl (execAutoLoad_fr flash s (fr_refl s) (has_one (by first | simp | decide)) (has_one (by first | simp | decide)) (has_one (by first | simp | decide)) (has_one (by first | simp | decide)) (has_one (by first | simp | decide))) he
theorem frame_loadFull (q flash : _) {c : Change} {s t : State} (hc : changesData (.loadFull q flash) = some c) (he : exec (.loadFull q flash) s = .next t) :
    OnlyMembers c.has s t ∧ (c.mem = false → t.mem = s.mem) := by
  cases hc
  refine fr_concl (execLoadFull_fr q flash s (fr_refl s) (has_one (by first | simp | decide)) (has_one (by first | simp | decide)) (has_one (by first | simp | decide)) (has_one (by first | simp | decide)) (has_one (by first | simp | decide)) (fun u => has_run (f := HDI.STATS) (by simp) u)) he
theorem frame_loadPartial (q flash : _) {c : Change} {s t : State} (hc : changesData (.loadPartial q flash) = some c) (he : exec (.loadPartial q flash) s = .next t) :
    OnlyMembers c.has s t ∧ (c.mem = false → t.mem = s.mem) := by
  cases hc
  refine fr_concl (execLoadPartial_fr q flash s (fr_refl s) (has_one (by first | simp | decide)) (has_one (by first | simp | decide)) (has_one (by first | simp | decide)) (has_one (by first | simp | decide)) (has_one (by first | simp | decide)) (fun u => has_run (f := HDI.STATS) (by simp) u)) he
theorem frame_loadAbort (q : _) {c : Change} {s t : State} (hc : changesData (.loadAbort q) = some c) (he : exec (.loadAbort q) s = .next t) :
    OnlyMembers c.has s t ∧ (c.mem = false → t.mem = s.mem) := by
  cases hc
  refine fr_concl (execLoadAbort_fr q s (fr_refl s) (fun u => has_run (f := CFG.FACET_STATE) (by simp) u) (has_one (by first | simp | decide)) (has_one (by first | simp | decide)) (has_one (by first | simp | decide)) (has_one (by first | simp | decide)) (has_one (by first | simp | decide)) (fun u => has_run (f := CFG.LOUPE_SRC_ADDR) (by simp) u) (fun u => has_run (f := CFG.LOUPE_SRC_TYPE) (by simp) u) (fun u => has_run (f := HDI.STATS) (by simp) u) (fun u => has_run (f := CFG.FACET_LOADS) (by simp) u) (fun u => has_run (f := FAB.DESIGN_ID) (by simp) u)) he
theorem frame_streamWrite (q len v : _) {c : Change} {s t : State} (hc : changesData (.streamWrite q len v) = some c) (he : exec (.streamWrite q len v) s = .next t) :
    OnlyMembers c.has s t ∧ (c.mem = false → t.mem = s.mem) := by
  cases hc
  refine fr_concl (execStreamWrite_fr q len v s (fr_refl s) (has_one (by first | simp | decide)) (fun u => has_run (f := HDI.STATS) (by simp) u)) he
theorem frame_streamHeader {c : Change} {s t : State} (hc : changesData (.streamHeader) = some c) (he : exec (.streamHeader) s = .next t) :
    OnlyMembers c.has s t ∧ (c.mem = false → t.mem = s.mem) := by
  cases hc
  refine fr_concl (execStreamHeader_fr s (fr_refl s) (fun u => has_run (f := CFG.FACET_STATE) (by simp) u) (has_one (by first | simp | decide)) (has_one (by first | simp | decide)) (has_one (by first | simp | decide)) (has_one (by first | simp | decide)) (has_one (by first | simp | decide)) (has_one (by first | simp | decide)) (has_one (by first | simp | decide)) (has_one (by first | simp | decide)) (has_one (by first | simp | decide)) (has_one (by first | simp | decide)) (fun u => has_run (f := CFG.LOUPE_SRC_ADDR) (by simp) u) (fun u => has_run (f := CFG.LOUPE_SRC_TYPE) (by simp) u) (has_one (by first | simp | decide)) (has_one (by first | simp | decide)) (has_one (by first | simp | decide)) (has_one (by first | simp | decide)) rfl (fun u => has_run (f := PAN.DISCARD) (by simp) u) (fun u => has_run (f := PAN.EVFLAGS) (by simp) u) (fun u => has_run (f := VEN.STATE) (by simp) u) (has_one (by first | simp | decide)) (has_one (by first | simp | decide)) (fun u => has_run (f := CFG.FACET_LOADS) (by simp) u) (fun u => has_run (f := FAB.DESIGN_ID) (by simp) u)) he
theorem frame_chunkCheck {c : Change} {s t : State} (hc : changesData (.chunkCheck) = some c) (he : exec (.chunkCheck) s = .next t) :
    OnlyMembers c.has s t ∧ (c.mem = false → t.mem = s.mem) := by
  cases hc
  refine fr_concl (execChunkCheck_fr s (fr_refl s) (fun u => has_run (f := CFG.FACET_STATE) (by simp) u) (has_one (by first | simp | decide)) (has_one (by first | simp | decide)) (has_one (by first | simp | decide)) (has_one (by first | simp | decide)) (has_one (by first | simp | decide)) (has_one (by first | simp | decide)) (fun u => has_run (f := CFG.LOUPE_SRC_ADDR) (by simp) u) (fun u => has_run (f := CFG.LOUPE_SRC_TYPE) (by simp) u) (fun u => has_run (f := CFG.FACET_LOADS) (by simp) u) (fun u => has_run (f := FAB.DESIGN_ID) (by simp) u)) he
theorem frame_manifestFrame (c' : _) {c : Change} {s t : State} (hc : changesData (.manifestFrame c') = some c) (he : exec (.manifestFrame c') s = .next t) :
    OnlyMembers c.has s t ∧ (c.mem = false → t.mem = s.mem) := by
  cases hc
  refine fr_concl (execManifestFrame_fr c' s (fr_refl s) (fun u => has_run (f := CFG.FACET_LOADS) (by simp) u) (fun u => has_run (f := CFG.FACET_STATE) (by simp) u) (has_one (by first | simp | decide)) (has_one (by first | simp | decide)) (has_one (by first | simp | decide)) (has_one (by first | simp | decide)) (has_one (by first | simp | decide)) (has_one (by first | simp | decide)) (fun u => has_run (f := CFG.LOUPE_SRC_ADDR) (by simp) u) (fun u => has_run (f := CFG.LOUPE_SRC_TYPE) (by simp) u) (fun u => has_run (f := FAB.DESIGN_ID) (by simp) u) (has_one (by first | simp | decide)) (has_one (by first | simp | decide)) (has_one (by first | simp | decide)) (fun u => has_run (f := PAN.MODE) (by simp) u) (fun u => has_run (f := VEN.STATE) (by simp) u) (fun u => has_run (f := PAN.DISCARD) (by simp) u) (fun u => has_run (f := PAN.EVFLAGS) (by simp) u) rfl) he
theorem frame_cellFrame (c' : _) {c : Change} {s t : State} (hc : changesData (.cellFrame c') = some c) (he : exec (.cellFrame c') s = .next t) :
    OnlyMembers c.has s t ∧ (c.mem = false → t.mem = s.mem) := by
  cases hc
  refine fr_concl (execCellFrame_fr c' s (fr_refl s) (fun u => has_run (f := CFG.FACET_LOADS) (by simp) u) (fun u => has_run (f := CFG.FACET_STATE) (by simp) u) (has_one (by first | simp | decide)) (has_one (by first | simp | decide)) (has_one (by first | simp | decide)) (has_one (by first | simp | decide)) (has_one (by first | simp | decide)) (has_one (by first | simp | decide)) (fun u => has_run (f := CFG.LOUPE_SRC_ADDR) (by simp) u) (fun u => has_run (f := CFG.LOUPE_SRC_TYPE) (by simp) u) (fun u => has_run (f := FAB.DESIGN_ID) (by simp) u) (has_one (by first | simp | decide)) (has_one (by first | simp | decide)) (has_one (by first | simp | decide)) (fun u => has_run (f := VEN.STATE) (by simp) u)) he
theorem frame_routeFrame (sels : _) {c : Change} {s t : State} (hc : changesData (.routeFrame sels) = some c) (he : exec (.routeFrame sels) s = .next t) :
    OnlyMembers c.has s t ∧ (c.mem = false → t.mem = s.mem) := by
  cases hc
  refine fr_concl (execRouteFrame_fr sels s (fr_refl s) (fun u => has_run (f := CFG.FACET_LOADS) (by simp) u) (fun u => has_run (f := CFG.FACET_STATE) (by simp) u) (has_one (by first | simp | decide)) (has_one (by first | simp | decide)) (has_one (by first | simp | decide)) (has_one (by first | simp | decide)) (has_one (by first | simp | decide)) (has_one (by first | simp | decide)) (fun u => has_run (f := CFG.LOUPE_SRC_ADDR) (by simp) u) (fun u => has_run (f := CFG.LOUPE_SRC_TYPE) (by simp) u) (fun u => has_run (f := FAB.DESIGN_ID) (by simp) u) (has_one (by first | simp | decide)) (has_one (by first | simp | decide)) (has_one (by first | simp | decide)) (fun u => has_run (f := VEN.STATE) (by simp) u)) he
theorem frame_paneFrame {c : Change} {s t : State} (hc : changesData (.paneFrame) = some c) (he : exec (.paneFrame) s = .next t) :
    OnlyMembers c.has s t ∧ (c.mem = false → t.mem = s.mem) := by
  cases hc
  refine fr_concl (execPaneFrame_fr s (fr_refl s) (fun u => has_run (f := CFG.FACET_LOADS) (by simp) u) (fun u => has_run (f := CFG.FACET_STATE) (by simp) u) (has_one (by first | simp | decide)) (has_one (by first | simp | decide)) (has_one (by first | simp | decide)) (has_one (by first | simp | decide)) (has_one (by first | simp | decide)) (has_one (by first | simp | decide)) (fun u => has_run (f := CFG.LOUPE_SRC_ADDR) (by simp) u) (fun u => has_run (f := CFG.LOUPE_SRC_TYPE) (by simp) u) (fun u => has_run (f := CRH.PWR_STATE) (by simp) u) (fun u => has_run (f := FAB.DESIGN_ID) (by simp) u) (has_one (by first | simp | decide)) (has_one (by first | simp | decide)) (has_one (by first | simp | decide)) rfl (fun u => has_run (f := VEN.STATE) (by simp) u)) he
theorem frame_ioFrame {c : Change} {s t : State} (hc : changesData (.ioFrame) = some c) (he : exec (.ioFrame) s = .next t) :
    OnlyMembers c.has s t ∧ (c.mem = false → t.mem = s.mem) := by
  cases hc
  refine fr_concl (execIoFrame_fr s (fr_refl s) (fun u => has_run (f := CFG.FACET_LOADS) (by simp) u) (fun u => has_run (f := CFG.FACET_STATE) (by simp) u) (has_one (by first | simp | decide)) (has_one (by first | simp | decide)) (has_one (by first | simp | decide)) (has_one (by first | simp | decide)) (has_one (by first | simp | decide)) (has_one (by first | simp | decide)) (fun u => has_run (f := CFG.LOUPE_SRC_ADDR) (by simp) u) (fun u => has_run (f := CFG.LOUPE_SRC_TYPE) (by simp) u) (fun u => has_run (f := FAB.DESIGN_ID) (by simp) u) (has_one (by first | simp | decide)) (has_one (by first | simp | decide)) (has_one (by first | simp | decide)) (fun u => has_run (f := VEN.STATE) (by simp) u)) he
theorem frame_endFrame {c : Change} {s t : State} (hc : changesData (.endFrame) = some c) (he : exec (.endFrame) s = .next t) :
    OnlyMembers c.has s t ∧ (c.mem = false → t.mem = s.mem) := by
  cases hc
  refine fr_concl (execEndFrame_fr s (fr_refl s) (fun u => has_run (f := CFG.FACET_LOADS) (by simp) u) (fun u => has_run (f := CFG.FACET_STATE) (by simp) u) (has_one (by first | simp | decide)) (has_one (by first | simp | decide)) (has_one (by first | simp | decide)) (has_one (by first | simp | decide)) (has_one (by first | simp | decide)) (has_one (by first | simp | decide)) (fun u => has_run (f := CFG.LOUPE_SRC_ADDR) (by simp) u) (fun u => has_run (f := CFG.LOUPE_SRC_TYPE) (by simp) u) (fun u => has_run (f := FAB.DESIGN_ID) (by simp) u) (has_one (by first | simp | decide)) (has_one (by first | simp | decide)) (has_one (by first | simp | decide)) (has_one (by first | simp | decide)) (fun u => has_run (f := VEN.STATE) (by simp) u)) he
theorem frame_hostDataTimeout {c : Change} {s t : State} (hc : changesData (.hostDataTimeout) = some c) (he : exec (.hostDataTimeout) s = .next t) :
    OnlyMembers c.has s t ∧ (c.mem = false → t.mem = s.mem) := by
  cases hc
  refine fr_concl (execHostDataTimeout_fr s (fr_refl s) (fun u => has_run (f := CFG.FACET_STATE) (by simp) u) (has_one (by first | simp | decide)) (has_one (by first | simp | decide)) (has_one (by first | simp | decide)) (has_one (by first | simp | decide)) (has_one (by first | simp | decide)) (has_one (by first | simp | decide)) (fun u => has_run (f := CFG.LOUPE_SRC_ADDR) (by simp) u) (fun u => has_run (f := CFG.LOUPE_SRC_TYPE) (by simp) u) (fun u => has_run (f := CFG.FACET_LOADS) (by simp) u) (fun u => has_run (f := FAB.DESIGN_ID) (by simp) u)) he
theorem frame_flpStart (q : _) {c : Change} {s t : State} (hc : changesData (.flpStart q) = some c) (he : exec (.flpStart q) s = .next t) :
    OnlyMembers c.has s t ∧ (c.mem = false → t.mem = s.mem) := by
  cases hc
  refine fr_concl (execFlpStart_fr q s (fr_refl s) (has_one (by first | simp | decide)) (has_one (by first | simp | decide)) (has_one (by first | simp | decide)) (has_one (by first | simp | decide)) (has_one (by first | simp | decide)) (fun u => has_run (f := HDI.STATS) (by simp) u)) he
theorem frame_flpAbort (q : _) {c : Change} {s t : State} (hc : changesData (.flpAbort q) = some c) (he : exec (.flpAbort q) s = .next t) :
    OnlyMembers c.has s t ∧ (c.mem = false → t.mem = s.mem) := by
  cases hc
  refine fr_concl (execFlpAbort_fr q s (fr_refl s) (fun u => has_run (f := CFG.FACET_STATE) (by simp) u) (has_one (by first | simp | decide)) (has_one (by first | simp | decide)) (has_one (by first | simp | decide)) (has_one (by first | simp | decide)) (has_one (by first | simp | decide)) (fun u => has_run (f := CFG.LOUPE_SRC_ADDR) (by simp) u) (fun u => has_run (f := CFG.LOUPE_SRC_TYPE) (by simp) u) (fun u => has_run (f := HDI.STATS) (by simp) u) (fun u => has_run (f := CFG.FACET_LOADS) (by simp) u) (fun u => has_run (f := FAB.DESIGN_ID) (by simp) u)) he
theorem frame_writeBbram (q : _) {c : Change} {s t : State} (hc : changesData (.writeBbram q) = some c) (he : exec (.writeBbram q) s = .next t) :
    OnlyMembers c.has s t ∧ (c.mem = false → t.mem = s.mem) := by
  cases hc
  refine fr_concl (execWriteBbram_fr q s (fr_refl s) (has_one (by first | simp | decide)) (has_one (by first | simp | decide)) (has_one (by first | simp | decide)) (has_one (by first | simp | decide)) (fun u => has_run (f := HDI.STATS) (by simp) u)) he
theorem frame_zeroise (q : _) {c : Change} {s t : State} (hc : changesData (.zeroise q) = some c) (he : exec (.zeroise q) s = .next t) :
    OnlyMembers c.has s t ∧ (c.mem = false → t.mem = s.mem) := by
  cases hc
  refine fr_concl (execZeroise_fr q s (fr_refl s) (has_one (by first | simp | decide)) (has_one (by first | simp | decide)) (has_one (by first | simp | decide)) (has_one (by first | simp | decide)) (fun u => has_run (f := HDI.STATS) (by simp) u)) he
theorem frame_fuseKey (q : _) {c : Change} {s t : State} (hc : changesData (.fuseKey q) = some c) (he : exec (.fuseKey q) s = .next t) :
    OnlyMembers c.has s t ∧ (c.mem = false → t.mem = s.mem) := by
  cases hc
  refine fr_concl (execFuseKey_fr q s (fr_refl s) (has_one (by first | simp | decide)) (has_one (by first | simp | decide)) (has_one (by first | simp | decide)) (has_one (by first | simp | decide)) (fun u => has_run (f := HDI.STATS) (by simp) u)) he
theorem frame_fusePolicy (q : _) {c : Change} {s t : State} (hc : changesData (.fusePolicy q) = some c) (he : exec (.fusePolicy q) s = .next t) :
    OnlyMembers c.has s t ∧ (c.mem = false → t.mem = s.mem) := by
  cases hc
  refine fr_concl (execFusePolicy_fr q s (fr_refl s) (has_one (by first | simp | decide)) (has_one (by first | simp | decide)) (has_one (by first | simp | decide)) (has_one (by first | simp | decide)) (fun u => has_run (f := HDI.STATS) (by simp) u)) he
theorem frame_keyCommandEnd (ok : _) {c : Change} {s t : State} (hc : changesData (.keyCommandEnd ok) = some c) (he : exec (.keyCommandEnd ok) s = .next t) :
    OnlyMembers c.has s t ∧ (c.mem = false → t.mem = s.mem) := by
  cases hc
  refine fr_concl (execKeyCommandEnd_fr ok s (fr_refl s) (has_one (by first | simp | decide)) (has_one (by first | simp | decide)) (has_one (by first | simp | decide)) (has_one (by first | simp | decide))) he
theorem frame_tamper (cause : _) {c : Change} {s t : State} (hc : changesData (.tamper cause) = some c) (he : exec (.tamper cause) s = .next t) :
    OnlyMembers c.has s t ∧ (c.mem = false → t.mem = s.mem) := by
  cases hc
  refine fr_concl (execTamper_fr cause s (fr_refl s) (has_one (by first | simp | decide)) (has_one (by first | simp | decide)) (has_one (by first | simp | decide)) (has_one (by first | simp | decide))) he
theorem frame_loupeFrameScan {c : Change} {s t : State} (hc : changesData (.loupeFrameScan) = some c) (he : exec (.loupeFrameScan) s = .next t) :
    OnlyMembers c.has s t ∧ (c.mem = false → t.mem = s.mem) := by
  cases hc
  refine fr_concl (execLoupeFrameScan_fr s (fr_refl s) (has_one (by first | simp | decide)) (has_one (by first | simp | decide)) (has_one (by first | simp | decide)) (has_one (by first | simp | decide)) (has_one (by first | simp | decide)) (has_one (by first | simp | decide)) (has_one (by first | simp | decide)) (has_one (by first | simp | decide)) (has_one (by first | simp | decide))) he
theorem frame_loupeReload {c : Change} {s t : State} (hc : changesData (.loupeReload) = some c) (he : exec (.loupeReload) s = .next t) :
    OnlyMembers c.has s t ∧ (c.mem = false → t.mem = s.mem) := by
  cases hc
  refine fr_concl (execLoupeReload_fr s (fr_refl s)) he
theorem frame_loupeReloadEnd (ok : _) {c : Change} {s t : State} (hc : changesData (.loupeReloadEnd ok) = some c) (he : exec (.loupeReloadEnd ok) s = .next t) :
    OnlyMembers c.has s t ∧ (c.mem = false → t.mem = s.mem) := by
  cases hc
  refine fr_concl (execLoupeReloadEnd_fr ok s (fr_refl s) (has_one (by first | simp | decide)) (has_one (by first | simp | decide)) (has_one (by first | simp | decide)) (has_one (by first | simp | decide)) (has_one (by first | simp | decide)) (has_one (by first | simp | decide)) (fun u => has_run (f := VEN.FLAGS) (by simp) u) (fun u => has_run (f := VEN.STATE) (by simp) u)) he
theorem frame_heartbeatCheck {c : Change} {s t : State} (hc : changesData (.heartbeatCheck) = some c) (he : exec (.heartbeatCheck) s = .next t) :
    OnlyMembers c.has s t ∧ (c.mem = false → t.mem = s.mem) := by
  cases hc
  refine fr_concl (execHeartbeatCheck_fr s (fr_refl s) (has_one (by first | simp | decide)) (has_one (by first | simp | decide)) (has_one (by first | simp | decide))) he
theorem frame_loupeEnWrite (q v : _) {c : Change} {s t : State} (hc : changesData (.loupeEnWrite q v) = some c) (he : exec (.loupeEnWrite q v) s = .next t) :
    OnlyMembers c.has s t ∧ (c.mem = false → t.mem = s.mem) := by
  cases hc
  refine fr_concl (execLoupeEnWrite_fr q v s (fr_refl s) (has_one (by first | simp | decide)) (has_one (by first | simp | decide)) (fun u => has_run (f := HDI.STATS) (by simp) u)) he
theorem frame_cjSha256 (q : _) {c : Change} {s t : State} (hc : changesControl (.cjSha256 q) = some c) (he : exec (.cjSha256 q) s = .next t) :
    OnlyMembers c.has s t ∧ (c.mem = false → t.mem = s.mem) := by
  cases hc
  refine fr_concl (execCjSha256_fr q s (fr_refl s) (fun u => has_run (f := HDI.STATS) (by simp) u) (has_one (by first | simp | decide))) he
theorem frame_cjHmac (q : _) {c : Change} {s t : State} (hc : changesControl (.cjHmac q) = some c) (he : exec (.cjHmac q) s = .next t) :
    OnlyMembers c.has s t ∧ (c.mem = false → t.mem = s.mem) := by
  cases hc
  refine fr_concl (execCjHmac_fr q s (fr_refl s) (fun u => has_run (f := HDI.STATS) (by simp) u) (has_one (by first | simp | decide))) he
theorem frame_cryptoJobEnd {c : Change} {s t : State} (hc : changesControl (.cryptoJobEnd) = some c) (he : exec (.cryptoJobEnd) s = .next t) :
    OnlyMembers c.has s t ∧ (c.mem = false → t.mem = s.mem) := by
  cases hc
  refine fr_concl (execCryptoJobEnd_fr s (fr_refl s) (has_one (by first | simp | decide)) (has_one (by first | simp | decide)) (has_one (by first | simp | decide))) he
theorem frame_wdogWarn {c : Change} {s t : State} (hc : changesControl (.wdogWarn) = some c) (he : exec (.wdogWarn) s = .next t) :
    OnlyMembers c.has s t ∧ (c.mem = false → t.mem = s.mem) := by
  cases hc
  refine fr_concl (execWdogWarn_fr s (fr_refl s) (has_one (by first | simp | decide))) he
theorem frame_hostKick (q v : _) {c : Change} {s t : State} (hc : changesControl (.hostKick q v) = some c) (he : exec (.hostKick q v) s = .next t) :
    OnlyMembers c.has s t ∧ (c.mem = false → t.mem = s.mem) := by
  cases hc
  refine fr_concl (execHostKick_fr q v s (fr_refl s) (fun u => has_run (f := HDI.STATS) (by simp) u)) he
theorem frame_hostWdExpiry {c : Change} {s t : State} (hc : changesControl (.hostWdExpiry) = some c) (he : exec (.hostWdExpiry) s = .next t) :
    OnlyMembers c.has s t ∧ (c.mem = false → t.mem = s.mem) := by
  cases hc
  refine fr_concl (execHostWdExpiry_fr s (fr_refl s) (fun u => has_run (f := DSP.STATE) (by simp) u) (has_one (by first | simp | decide)) (has_one (by first | simp | decide)) (has_one (by first | simp | decide)) (has_one (by first | simp | decide)) (fun u => has_run (f := VEN.FLAGS) (by simp) u) (fun u => has_run (f := VEN.STATE) (by simp) u)) he
theorem frame_eventRaise {c : Change} {s t : State} (hc : changesControl (.eventRaise) = some c) (he : exec (.eventRaise) s = .next t) :
    OnlyMembers c.has s t ∧ (c.mem = false → t.mem = s.mem) := by
  cases hc
  refine fr_concl (execEventRaise_fr s (fr_refl s) (has_one (by first | simp | decide)) (fun u => has_run (f := SUP.EV_COUNT) (by simp) u) (fun u => has_run (f := SUP.EV_PEND) (by simp) u) (has_one (by first | simp | decide)) (has_one (by first | simp | decide)) (has_one (by first | simp | decide))) he
theorem frame_fabricEventPulse (k : _) {c : Change} {s t : State} (hc : changesControl (.fabricEventPulse k) = some c) (he : exec (.fabricEventPulse k) s = .next t) :
    OnlyMembers c.has s t ∧ (c.mem = false → t.mem = s.mem) := by
  cases hc
  refine fr_concl (execFabricEventPulse_fr k s (fr_refl s)) he
theorem frame_logPop (q : _) {c : Change} {s t : State} (hc : changesControl (.logPop q) = some c) (he : exec (.logPop q) s = .next t) :
    OnlyMembers c.has s t ∧ (c.mem = false → t.mem = s.mem) := by
  cases hc
  refine fr_concl (execLogPop_fr q s (fr_refl s) (fun u => has_run (f := HDI.STATS) (by simp) u) (has_one (by first | simp | decide))) he
theorem frame_ibiRequest (ack : _) {c : Change} {s t : State} (hc : changesControl (.ibiRequest ack) = some c) (he : exec (.ibiRequest ack) s = .next t) :
    OnlyMembers c.has s t ∧ (c.mem = false → t.mem = s.mem) := by
  cases hc
  refine fr_concl (execIbiRequest_fr ack s (fr_refl s) (has_one (by first | simp | decide))) he
theorem frame_ledgerCheck {c : Change} {s t : State} (hc : changesControl (.ledgerCheck) = some c) (he : exec (.ledgerCheck) s = .next t) :
    OnlyMembers c.has s t ∧ (c.mem = false → t.mem = s.mem) := by
  cases hc
  refine fr_concl (execLedgerCheck_fr s (fr_refl s) (has_one (by first | simp | decide)) (has_one (by first | simp | decide)) (has_one (by first | simp | decide)) (has_one (by first | simp | decide))) he
theorem frame_authCustomerL2 (q : _) {c : Change} {s t : State} (hc : changesControl (.authCustomerL2 q) = some c) (he : exec (.authCustomerL2 q) s = .next t) :
    OnlyMembers c.has s t ∧ (c.mem = false → t.mem = s.mem) := by
  cases hc
  refine fr_concl (execAuthCustomerL2_fr q s (fr_refl s) (has_one (by first | simp | decide)) (fun u => has_run (f := HDI.STATS) (by simp) u)) he
theorem frame_authCustomerL3 (q : _) {c : Change} {s t : State} (hc : changesControl (.authCustomerL3 q) = some c) (he : exec (.authCustomerL3 q) s = .next t) :
    OnlyMembers c.has s t ∧ (c.mem = false → t.mem = s.mem) := by
  cases hc
  refine fr_concl (execAuthCustomerL3_fr q s (fr_refl s) (has_one (by first | simp | decide)) (fun u => has_run (f := HDI.STATS) (by simp) u)) he
theorem frame_authVendor (q : _) {c : Change} {s t : State} (hc : changesControl (.authVendor q) = some c) (he : exec (.authVendor q) s = .next t) :
    OnlyMembers c.has s t ∧ (c.mem = false → t.mem = s.mem) := by
  cases hc
  refine fr_concl (execAuthVendor_fr q s (fr_refl s) (has_one (by first | simp | decide)) (fun u => has_run (f := HDI.STATS) (by simp) u)) he
theorem frame_authDrop (q : _) {c : Change} {s t : State} (hc : changesControl (.authDrop q) = some c) (he : exec (.authDrop q) s = .next t) :
    OnlyMembers c.has s t ∧ (c.mem = false → t.mem = s.mem) := by
  cases hc
  refine fr_concl (execAuthDrop_fr q s (fr_refl s) (has_one (by first | simp | decide)) (fun u => has_run (f := HDI.STATS) (by simp) u)) he
theorem frame_authResp (q v : _) {c : Change} {s t : State} (hc : changesControl (.authResp q v) = some c) (he : exec (.authResp q v) s = .next t) :
    OnlyMembers c.has s t ∧ (c.mem = false → t.mem = s.mem) := by
  cases hc
  refine fr_concl (execAuthResp_fr q v s (fr_refl s) (has_one (by first | simp | decide)) (has_one (by first | simp | decide)) (has_one (by first | simp | decide)) (fun u => has_run (f := HDI.STATS) (by simp) u)) he
theorem frame_dbgFuseKey2 (q : _) {c : Change} {s t : State} (hc : changesControl (.dbgFuseKey2 q) = some c) (he : exec (.dbgFuseKey2 q) s = .next t) :
    OnlyMembers c.has s t ∧ (c.mem = false → t.mem = s.mem) := by
  cases hc
  refine fr_concl (execDbgFuseKey2_fr q s (fr_refl s) (has_one (by first | simp | decide)) (has_one (by first | simp | decide)) (fun u => has_run (f := HDI.STATS) (by simp) u)) he
theorem frame_dbgFuseKey3 (q : _) {c : Change} {s t : State} (hc : changesControl (.dbgFuseKey3 q) = some c) (he : exec (.dbgFuseKey3 q) s = .next t) :
    OnlyMembers c.has s t ∧ (c.mem = false → t.mem = s.mem) := by
  cases hc
  refine fr_concl (execDbgFuseKey3_fr q s (fr_refl s) (has_one (by first | simp | decide)) (has_one (by first | simp | decide)) (fun u => has_run (f := HDI.STATS) (by simp) u)) he
theorem frame_dbgFusePolicy (q : _) {c : Change} {s t : State} (hc : changesControl (.dbgFusePolicy q) = some c) (he : exec (.dbgFusePolicy q) s = .next t) :
    OnlyMembers c.has s t ∧ (c.mem = false → t.mem = s.mem) := by
  cases hc
  refine fr_concl (execDbgFusePolicy_fr q s (fr_refl s) (has_one (by first | simp | decide)) (has_one (by first | simp | decide)) (fun u => has_run (f := HDI.STATS) (by simp) u)) he
theorem frame_brkAlloc (q : _) {c : Change} {s t : State} (hc : changesControl (.brkAlloc q) = some c) (he : exec (.brkAlloc q) s = .next t) :
    OnlyMembers c.has s t ∧ (c.mem = false → t.mem = s.mem) := by
  cases hc
  refine fr_concl (execBrkAlloc_fr q s (fr_refl s) (fun u => has_run (f := DBG.BRK_STATE) (by simp) u) (fun u => has_run (f := HDI.STATS) (by simp) u)) he
theorem frame_brkCfgWrite (q u v : _) {c : Change} {s t : State} (hc : changesControl (.brkCfgWrite q u v) = some c) (he : exec (.brkCfgWrite q u v) s = .next t) :
    OnlyMembers c.has s t ∧ (c.mem = false → t.mem = s.mem) := by
  cases hc
  refine fr_concl (execBrkCfgWrite_fr q u v s (fr_refl s) (has_one (by first | simp | decide)) (has_one (by first | simp | decide)) (fun u => has_run (f := HDI.STATS) (by simp) u)) he
theorem frame_brkRearm (q u : _) {c : Change} {s t : State} (hc : changesControl (.brkRearm q u) = some c) (he : exec (.brkRearm q u) s = .next t) :
    OnlyMembers c.has s t ∧ (c.mem = false → t.mem = s.mem) := by
  cases hc
  refine fr_concl (execBrkRearm_fr q u s (fr_refl s) (has_one (by first | simp | decide)) (fun u => has_run (f := HDI.STATS) (by simp) u)) he
theorem frame_brkFree (q u : _) {c : Change} {s t : State} (hc : changesControl (.brkFree q u) = some c) (he : exec (.brkFree q u) s = .next t) :
    OnlyMembers c.has s t ∧ (c.mem = false → t.mem = s.mem) := by
  cases hc
  refine fr_concl (execBrkFree_fr q u s (fr_refl s) (has_one (by first | simp | decide)) (fun u => has_run (f := HDI.STATS) (by simp) u)) he
theorem frame_groupHaltLatch (g : _) {c : Change} {s t : State} (hc : changesControl (.groupHaltLatch g) = some c) (he : exec (.groupHaltLatch g) s = .next t) :
    OnlyMembers c.has s t ∧ (c.mem = false → t.mem = s.mem) := by
  cases hc
  refine fr_concl (execGroupHaltLatch_fr g s (fr_refl s)) he
theorem frame_dbgHalt (q t' : _) {c : Change} {s t : State} (hc : changesControl (.dbgHalt q t') = some c) (he : exec (.dbgHalt q t') s = .next t) :
    OnlyMembers c.has s t ∧ (c.mem = false → t.mem = s.mem) := by
  cases hc
  refine fr_concl (execDbgHalt_fr q t' s (fr_refl s) (fun u => has_run (f := HDI.STATS) (by simp) u)) he
theorem frame_dbgResume (q t' : _) {c : Change} {s t : State} (hc : changesControl (.dbgResume q t') = some c) (he : exec (.dbgResume q t') s = .next t) :
    OnlyMembers c.has s t ∧ (c.mem = false → t.mem = s.mem) := by
  cases hc
  refine fr_concl (execDbgResume_fr q t' s (fr_refl s) (fun u => has_run (f := HDI.STATS) (by simp) u) (fun u => has_run (f := DSP.STATE) (by simp) u) (fun u => has_run (f := DBG.BRK_HITS) (by simp) u) (fun u => has_run (f := DBG.BRK_STATE) (by simp) u) (has_one (by first | simp | decide))) he
theorem frame_dbgStep (q t' : _) {c : Change} {s t : State} (hc : changesControl (.dbgStep q t') = some c) (he : exec (.dbgStep q t') s = .next t) :
    OnlyMembers c.has s t ∧ (c.mem = false → t.mem = s.mem) := by
  cases hc
  refine fr_concl (execDbgStep_fr q t' s (fr_refl s) (fun u => has_run (f := HDI.STATS) (by simp) u) (fun u => has_run (f := DSP.STATE) (by simp) u) (fun u => has_run (f := DBG.BRK_HITS) (by simp) u) (fun u => has_run (f := DBG.BRK_STATE) (by simp) u) (has_one (by first | simp | decide))) he
theorem frame_molxoHaltLands {c : Change} {s t : State} (hc : changesControl (.molxoHaltLands) = some c) (he : exec (.molxoHaltLands) s = .next t) :
    OnlyMembers c.has s t ∧ (c.mem = false → t.mem = s.mem) := by
  cases hc
  refine fr_concl (execMolxoHaltLands_fr s (fr_refl s) (has_one (by first | simp | decide)) (fun u => has_run (f := DBG.BRK_HITS) (by simp) u) (fun u => has_run (f := DBG.BRK_STATE) (by simp) u)) he
theorem frame_dbgRegAccess (q t' wr v : _) {c : Change} {s t : State} (hc : changesControl (.dbgRegAccess q t' wr v) = some c) (he : exec (.dbgRegAccess q t' wr v) s = .next t) :
    OnlyMembers c.has s t ∧ (c.mem = false → t.mem = s.mem) := by
  cases hc
  refine fr_concl (execDbgRegAccess_fr q t' wr v s (fr_refl s) (fun u => has_run (f := DSP.BEXP) (by simp) u) (fun u => has_run (f := DSP.EXPACC) (by simp) u) (fun u => has_run (f := HDI.STATS) (by simp) u) (fun u v => has_pair (f := VEN.CTR) (by simp) u v)) he
theorem frame_memDataWrite (q len v : _) {c : Change} {s t : State} (hc : changesControl (.memDataWrite q len v) = some c) (he : exec (.memDataWrite q len v) s = .next t) :
    OnlyMembers c.has s t ∧ (c.mem = false → t.mem = s.mem) := by
  cases hc
  refine fr_concl (execMemDataWrite_fr q len v s (fr_refl s) (fun u => has_run (f := HDI.STATS) (by simp) u) (fun u => match u with | true => has_one (by simp [addrKey]) | false => has_one (by simp [addrKey]))) he
theorem frame_memDataFetch (q size : _) {c : Change} {s t : State} (hc : changesControl (.memDataFetch q size) = some c) (he : exec (.memDataFetch q size) s = .next t) :
    OnlyMembers c.has s t ∧ (c.mem = false → t.mem = s.mem) := by
  cases hc
  refine fr_concl (execMemDataFetch_fr q size s (fr_refl s) (fun u => has_run (f := HDI.STATS) (by simp) u) (fun u => match u with | true => has_one (by simp [addrKey]) | false => has_one (by simp [addrKey]))) he
theorem frame_tDtxWrite (q t' v : _) {c : Change} {s t : State} (hc : changesControl (.tDtxWrite q t' v) = some c) (he : exec (.tDtxWrite q t' v) s = .next t) :
    OnlyMembers c.has s t ∧ (c.mem = false → t.mem = s.mem) := by
  cases hc
  refine fr_concl (execTDtxWrite_fr q t' v s (fr_refl s) (has_one (by first | simp | decide)) (fun u => has_run (f := HDI.STATS) (by simp) u)) he
theorem frame_dtxRead (q t' : _) {c : Change} {s t : State} (hc : changesControl (.dtxRead q t') = some c) (he : exec (.dtxRead q t') s = .next t) :
    OnlyMembers c.has s t ∧ (c.mem = false → t.mem = s.mem) := by
  cases hc
  refine fr_concl (execDtxRead_fr q t' s (fr_refl s) (fun u => has_run (f := HDI.STATS) (by simp) u)) he
theorem frame_drxWrite (q t' v : _) {c : Change} {s t : State} (hc : changesControl (.drxWrite q t' v) = some c) (he : exec (.drxWrite q t' v) s = .next t) :
    OnlyMembers c.has s t ∧ (c.mem = false → t.mem = s.mem) := by
  cases hc
  refine fr_concl (execDrxWrite_fr q t' v s (fr_refl s) (fun u => has_run (f := HDI.STATS) (by simp) u)) he
theorem frame_tDrxRead (q t' : _) {c : Change} {s t : State} (hc : changesControl (.tDrxRead q t') = some c) (he : exec (.tDrxRead q t') s = .next t) :
    OnlyMembers c.has s t ∧ (c.mem = false → t.mem = s.mem) := by
  cases hc
  refine fr_concl (execTDrxRead_fr q t' s (fr_refl s) (has_one (by first | simp | decide)) (fun u => has_run (f := HDI.STATS) (by simp) u)) he
theorem frame_retireWrite (q k v : _) {c : Change} {s t : State} (hc : changesControl (.retireWrite q k v) = some c) (he : exec (.retireWrite q k v) s = .next t) :
    OnlyMembers c.has s t ∧ (c.mem = false → t.mem = s.mem) := by
  cases hc
  refine fr_concl ?_ he
  have kv : ∀ u, Change.has { ones := [HDI.APPLY_OUTCOME, HDI.MIRROR_STATE, HDI.RETIRE_VE + k], runs := [HDI.STATS, VEN.STATE] } (VEN.STATE u) := fun u => has_run (f := VEN.STATE) (by simp) u
  have ks : ∀ u, Change.has { ones := [HDI.APPLY_OUTCOME, HDI.MIRROR_STATE, HDI.RETIRE_VE + k], runs := [HDI.STATS, VEN.STATE] } (HDI.STATS u) := fun u => has_run (f := HDI.STATS) (by simp) u
  refine unitCmd_fr (writeTo_fr _ _ _ _ _ _ _ (fun y hy => ?_) (fr_refl s) ks)
  exact retireEff_fr _ _ _ hy (has_one (by simp)) (has_one (by simp)) (has_one (by simp)) kv
theorem frame_invalidHeader (n : _) {c : Change} {s t : State} (hc : changesData (.invalidHeader n) = some c) (he : exec (.invalidHeader n) s = .next t) :
    OnlyMembers c.has s t ∧ (c.mem = false → t.mem = s.mem) := by
  cases hc
  refine fr_concl (execInvalidHeader_fr n s (fr_refl s) (has_one (by first | simp | decide)) (fun u => has_run (f := DSP.STATE) (by simp) u) (has_one (by first | simp | decide)) (has_one (by first | simp | decide)) (has_one (by first | simp | decide)) (fun u => has_run (f := HDI.SLOT) (by simp) u) (has_one (by first | simp | decide)) (has_one (by first | simp | decide)) (has_one (by first | simp | decide)) (has_one (by first | simp | decide)) (has_one (by first | simp | decide)) (has_one (by first | simp | decide)) (has_one (by first | simp | decide)) (has_one (by first | simp | decide)) (has_one (by first | simp | decide)) (has_one (by first | simp | decide)) (fun u => has_run (f := TMU.AP_STATE) (by simp) u) (has_one (by first | simp | decide)) (has_one (by first | simp | decide)) (fun u => has_run (f := TMU.TRG_STATE) (by simp) u) (fun u => has_run (f := VEN.FLAGS) (by simp) u) (fun u => has_run (f := VEN.STATE) (by simp) u)) he
theorem frame_prbsChecker (n syms : _) {c : Change} {s t : State} (hc : changesData (.prbsChecker n syms) = some c) (he : exec (.prbsChecker n syms) s = .next t) :
    OnlyMembers c.has s t ∧ (c.mem = false → t.mem = s.mem) := by
  cases hc
  refine fr_concl (execPrbsChecker_fr n syms s (fr_refl s) (has_one (by first | simp | decide)) (has_one (by first | simp | decide)) (has_one (by first | simp | decide)) (has_one (by first | simp | decide))) he
theorem frame_lrefLoss (k : _) {c : Change} {s t : State} (hc : changesData (.lrefLoss k) = some c) (he : exec (.lrefLoss k) s = .next t) :
    OnlyMembers c.has s t ∧ (c.mem = false → t.mem = s.mem) := by
  cases hc
  refine fr_concl (execLrefLoss_fr k s (fr_refl s) (has_one (by first | simp | decide)) (has_one (by first | simp | decide))) he
theorem frame_tailToHeadMove (q : _) {c : Change} {s t : State} (hc : changesEngines (.tailToHeadMove q) = some c) (he : exec (.tailToHeadMove q) s = .next t) :
    OnlyMembers c.has s t ∧ (c.mem = false → t.mem = s.mem) := by
  cases hc
  refine fr_concl (execTailToHeadMove_fr q s (fr_refl s)) he
theorem frame_domainOff (d : _) {c : Change} {s t : State} (hc : changesControl (.domainOff d) = some c) (he : exec (.domainOff d) s = .next t) :
    OnlyMembers c.has s t ∧ (c.mem = false → t.mem = s.mem) := by
  cases hc
  refine fr_concl (execDomainOff_fr d s (fr_refl s) (has_one (by first | simp | decide)) rfl (fun u => has_run (f := PAN.DISCARD) (by simp) u) (fun u => has_run (f := PAN.EVFLAGS) (by simp) u) (fun u => has_run (f := PAN.STATE) (by simp) u) (has_one (by first | simp | decide))) he
theorem frame_flashTimeout {c : Change} {s t : State} (hc : changesData (.flashTimeout) = some c) (he : exec (.flashTimeout) s = .next t) :
    OnlyMembers c.has s t ∧ (c.mem = false → t.mem = s.mem) := by
  cases hc
  refine fr_concl (execFlashTimeout_fr s (fr_refl s) (fun u => has_run (f := CFG.FACET_STATE) (by simp) u) (has_one (by first | simp | decide)) (has_one (by first | simp | decide)) (has_one (by first | simp | decide)) (has_one (by first | simp | decide)) (has_one (by first | simp | decide)) (has_one (by first | simp | decide)) (fun u => has_run (f := CFG.LOUPE_SRC_ADDR) (by simp) u) (fun u => has_run (f := CFG.LOUPE_SRC_TYPE) (by simp) u) (fun u => has_run (f := CFG.FACET_LOADS) (by simp) u) (fun u => has_run (f := FAB.DESIGN_ID) (by simp) u)) he
theorem frame_wdogRestart {c : Change} {s t : State} (hc : changesControl (.wdogRestart) = some c) (he : exec (.wdogRestart) s = .next t) :
    OnlyMembers c.has s t ∧ (c.mem = false → t.mem = s.mem) := by
  cases hc
  refine fr_concl (execWdogRestart_fr s (fr_refl s)) he
theorem frame_loupeHeartbeatIdle {c : Change} {s t : State} (hc : changesData (.loupeHeartbeatIdle) = some c) (he : exec (.loupeHeartbeatIdle) s = .next t) :
    OnlyMembers c.has s t ∧ (c.mem = false → t.mem = s.mem) := by
  cases hc
  refine fr_concl (execLoupeHeartbeatIdle_fr s (fr_refl s) (has_one (by first | simp | decide))) he
theorem frame_pullselChange (b v : _) {c : Change} {s t : State} (hc : changesControl (.pullselChange b v) = some c) (he : exec (.pullselChange b v) s = .next t) :
    OnlyMembers c.has s t ∧ (c.mem = false → t.mem = s.mem) := by
  cases hc
  refine fr_concl (execPullselChange_fr b v s (fr_refl s) (has_one (by first | simp | decide))) he
set_option Elab.async false in
theorem frame_vioRailChange (b ok level : _) {c : Change} {s t : State} (hc : changesControl (.vioRailChange b ok level) = some c) (he : exec (.vioRailChange b ok level) s = .next t) :
    OnlyMembers c.has s t ∧ (c.mem = false → t.mem = s.mem) := by
  cases hc
  refine fr_concl (execVioRailChange_fr b ok level s (fr_refl s) (has_one (by first | simp | decide)) (has_one (by first | simp | decide)) (has_one (by first | simp | decide))) he
end Sys2Proof.Laws.ExecFrames
end

