-- ==== Sys2Proof/Laws/KeepsRespsFetch.lean ====
section
/-! SUPPORT. State.resps: what the operations it lists leave unchanged. -/
namespace Sys2Proof.Laws
open Sys2Proof.Machine
section
variable {s0 : State}
def KeepsRespsFetch (s0 s : State) : Prop := s.resps = s0.resps
theorem keepsRespsFetch_ite {c : Prop} [Decidable c] {x y : State} (hx : KeepsRespsFetch s0 x) (hy : KeepsRespsFetch s0 y) : KeepsRespsFetch s0 (if c then x else y) := by split <;> assumption
theorem keepsRespsFetch_foldl {β : Type} {f : State → β → State} (hf : ∀ s x, KeepsRespsFetch s0 s → KeepsRespsFetch s0 (f s x)) :
    ∀ {l : List β} {s : State}, KeepsRespsFetch s0 s → KeepsRespsFetch s0 (l.foldl f s)
  | [], _, h => h
  | x :: l, s, h => keepsRespsFetch_foldl (l := l) hf (hf s x h)
theorem keepsRespsFetch_cut {s : State} {p : Prop} (h : KeepsRespsFetch s0 s) (f : KeepsRespsFetch s0 s → p) : p := f h
theorem wr_keepsRespsFetch (k v : Nat) (s : State) (h : KeepsRespsFetch s0 s) : KeepsRespsFetch s0 (s.wr k v) := h
theorem keepsRespsFetch_mk_iff {s : State} {x_now : Nat} {x_reg : Tab Nat} {x_mem : List Host.Cell} {x_evq : List (Nat × Nat)} {x_freeCtr : Nat} {x_pending : List Instr} {x_hdi : HdiS} {x_clk : ClockS} {x_sched : List Sched} {x_ve : Tab VeRun} {x_outCh : Tab OutCh} {x_inCh : Tab InCh} {x_fcp : Tab FcpS} {x_sq : Tab SqS} {x_brk : Tab BrkS} {x_tgt : Tab TgtS} {x_groupAt : List (Nat × Nat)} {x_dsp : Tab DspRun} {x_focus : FocusS} {x_trim : TrimS} {x_reqs : List MeshReq} {x_held : List PortReq} {x_steal : List PortReq} {x_labels : List (MeshReq × Nat)} {x_drain : Option Drain} {x_trace : List Nat} {x_dmc : Tab DmcS} {x_autoTrain : Bool} {x_crh : CrhS} {x_cfg : CfgS} {x_fresh : List (Nat × Nat × Nat)} {x_cleared : List (Nat × Nat × Nat)} {x_sup : SupS} {x_dbg : DbgS} {x_tmu : TmuS} {x_lanes : Tab LaneS} {x_cells : Tab (Option CellS)} {x_cellCfg : Tab CellCfg} {x_sels : Tab Nat} {x_tracks : Tab Nat} {x_upsets : List Upset} {x_facets : Tab FacetS} {x_fev : List (Nat × Nat)} {x_panes : Tab PaneS} {x_banks : Tab BankS} {x_pins : PinsS} :
    KeepsRespsFetch s0 ⟨x_now, x_reg, x_mem, x_evq, x_freeCtr, x_pending, x_hdi, x_clk, x_sched, x_ve, x_outCh, x_inCh, x_fcp, x_sq, x_brk, x_tgt, x_groupAt, x_dsp, x_focus, x_trim, x_reqs, s.resps, x_held, x_steal, x_labels, x_drain, x_trace, x_dmc, x_autoTrain, x_crh, x_cfg, x_fresh, x_cleared, x_sup, x_dbg, x_tmu, x_lanes, x_cells, x_cellCfg, x_sels, x_tracks, x_upsets, x_facets, x_fev, x_panes, x_banks, x_pins⟩ ↔ KeepsRespsFetch s0 s := Iff.rfl
theorem addTo_keepsRespsFetch (s : State) (w k d : Nat) (hs : KeepsRespsFetch s0 s) :
    KeepsRespsFetch s0 (State.addTo s w k d) := by
  unfold State.addTo
  repeat' first
    | with_reducible intro _
    | with_reducible assumption
    | with_reducible apply wr_keepsRespsFetch

theorem bump_keepsRespsFetch (s : State) (w k : Nat) (hs : KeepsRespsFetch s0 s) :
    KeepsRespsFetch s0 (State.bump s w k) := by
  unfold State.bump
  repeat' first
    | with_reducible intro _
    | with_reducible assumption
    | with_reducible apply addTo_keepsRespsFetch

theorem raiseAt_keepsRespsFetch (s : State) (t e : Nat) (hs : KeepsRespsFetch s0 s) :
    KeepsRespsFetch s0 (State.raiseAt s t e) := by
  unfold State.raiseAt
  repeat' first
    | with_reducible intro _
    | with_reducible assumption
    | simp only [↓keepsRespsFetch_mk_iff]
    | with_reducible apply keepsRespsFetch_ite
    | (extract_lets x; first | (with_reducible refine keepsRespsFetch_cut (s := x) ?_ ?_; (on_goal 2 => clear_value x); (on_goal 1 => unfold x)) | (subst x))
    | split

theorem raise_keepsRespsFetch (s : State) (e : Nat) (hs : KeepsRespsFetch s0 s) :
    KeepsRespsFetch s0 (State.raise s e) := by
  unfold State.raise
  repeat' first
    | with_reducible intro _
    | with_reducible assumption
    | with_reducible apply raiseAt_keepsRespsFetch
    | simp only [↓keepsRespsFetch_mk_iff]
    | with_reducible apply keepsRespsFetch_ite
    | (extract_lets x; first | (with_reducible refine keepsRespsFetch_cut (s := x) ?_ ?_; (on_goal 2 => clear_value x); (on_goal 1 => unfold x)) | (subst x))
    | split

theorem setBit_keepsRespsFetch (s : State) (k b : Nat) (v : Bool) (hs : KeepsRespsFetch s0 s) :
    KeepsRespsFetch s0 (State.setBit s k b v) := by
  unfold State.setBit
  repeat' first
    | with_reducible intro _
    | with_reducible assumption
    | with_reducible apply wr_keepsRespsFetch
    | with_reducible apply keepsRespsFetch_ite
    | split

theorem note_keepsRespsFetch (s : State) (k b : Nat) (hs : KeepsRespsFetch s0 s) :
    KeepsRespsFetch s0 (State.note s k b) := by
  unfold State.note
  repeat' first
    | with_reducible intro _
    | with_reducible assumption
    | simp only [↓keepsRespsFetch_mk_iff]
    | with_reducible apply keepsRespsFetch_ite
    | (extract_lets x; first | (with_reducible refine keepsRespsFetch_cut (s := x) ?_ ?_; (on_goal 2 => clear_value x); (on_goal 1 => unfold x)) | (subst x))
    | split

theorem flag_keepsRespsFetch (s : State) (k b e : Nat) (hs : KeepsRespsFetch s0 s) :
    KeepsRespsFetch s0 (State.flag s k b e) := by
  unfold State.flag
  repeat' first
    | with_reducible intro _
    | with_reducible assumption
    | with_reducible apply note_keepsRespsFetch
    | with_reducible apply setBit_keepsRespsFetch
    | with_reducible apply raise_keepsRespsFetch
    | simp only [↓keepsRespsFetch_mk_iff]
    | with_reducible apply keepsRespsFetch_ite
    | (extract_lets x; first | (with_reducible refine keepsRespsFetch_cut (s := x) ?_ ?_; (on_goal 2 => clear_value x); (on_goal 1 => unfold x)) | (subst x))
    | split

theorem mshFlag_keepsRespsFetch (b : Nat) (s : State) (hs : KeepsRespsFetch s0 s) :
    KeepsRespsFetch s0 (mshFlag b s) := by
  unfold mshFlag
  repeat' first
    | with_reducible intro _
    | with_reducible assumption
    | with_reducible apply flag_keepsRespsFetch

set_option Elab.async false in
theorem flitNoted_keepsRespsFetch (p : List Nat) (s : State) (f : Flit) (hs : KeepsRespsFetch s0 s) :
    KeepsRespsFetch s0 (flitNoted p s f) := by
  unfold flitNoted
  repeat' first
    | with_reducible intro _
    | with_reducible assumption
    | with_reducible apply mshFlag_keepsRespsFetch
    | with_reducible apply bump_keepsRespsFetch
    | simp only [↓keepsRespsFetch_mk_iff]
    | with_reducible apply keepsRespsFetch_ite
    | (extract_lets x; first | (with_reducible refine keepsRespsFetch_cut (s := x) ?_ ?_; (on_goal 2 => clear_value x); (on_goal 1 => unfold x)) | (subst x))
    | split

end
end Sys2Proof.Laws
end

