-- ==== Sys2Proof/Laws/KeepsVeLand.lean ====
section
/-! SUPPORT. Functions g of one value of State.veOf: what the operations it lists leave unchanged. -/
set_option linter.unreachableTactic false
set_option linter.unusedSimpArgs false
set_option linter.unusedTactic false
namespace Sys2Proof.Laws
open Sys2Proof.Machine
section
variable {α : Type} {g : VeRun → α} {nn : Nat} {s0 : State}
def KeepsVeLand (g : VeRun → α) (nn : Nat) (s0 s : State) : Prop := g (s.veOf nn) = g (s0.veOf nn)
theorem keepsVeLand_ite {c : Prop} [Decidable c] {x y : State} (hx : KeepsVeLand g nn s0 x) (hy : KeepsVeLand g nn s0 y) : KeepsVeLand g nn s0 (if c then x else y) := by split <;> assumption
theorem keepsVeLand_foldl {β : Type} {f : State → β → State} (hf : ∀ s x, KeepsVeLand g nn s0 s → KeepsVeLand g nn s0 (f s x)) :
    ∀ {l : List β} {s : State}, KeepsVeLand g nn s0 s → KeepsVeLand g nn s0 (l.foldl f s)
  | [], _, h => h
  | x :: l, s, h => keepsVeLand_foldl (l := l) hf (hf s x h)
theorem keepsVeLand_cut {s : State} {p : Prop} (h : KeepsVeLand g nn s0 s) (f : KeepsVeLand g nn s0 s → p) : p := f h
theorem modVe_keepsVeLand (m : Nat) (f : VeRun → VeRun) (s : State) (h : KeepsVeLand g nn s0 s) (hf : ∀ e, g (f e) = g e) : KeepsVeLand g nn s0 (s.modVe m f) := by
  unfold KeepsVeLand at *
  by_cases e : nn = m
  · subst e; rw [veOf_modVe, hf, h]
  · rw [veOf_modVe_other s e, h]
theorem wr_keepsVeLand (k v : Nat) (s : State) (h : KeepsVeLand g nn s0 s) : KeepsVeLand g nn s0 (s.wr k v) := h
theorem keepsVeLand_mk_iff {s : State} {x_now : Nat} {x_reg : Tab Nat} {x_mem : List Host.Cell} {x_evq : List (Nat × Nat)} {x_freeCtr : Nat} {x_pending : List Instr} {x_hdi : HdiS} {x_clk : ClockS} {x_sched : List Sched} {x_outCh : Tab OutCh} {x_inCh : Tab InCh} {x_fcp : Tab FcpS} {x_sq : Tab SqS} {x_brk : Tab BrkS} {x_tgt : Tab TgtS} {x_groupAt : List (Nat × Nat)} {x_dsp : Tab DspRun} {x_focus : FocusS} {x_trim : TrimS} {x_reqs : List MeshReq} {x_resps : List MeshResp} {x_held : List PortReq} {x_steal : List PortReq} {x_labels : List (MeshReq × Nat)} {x_drain : Option Drain} {x_trace : List Nat} {x_dmc : Tab DmcS} {x_autoTrain : Bool} {x_crh : CrhS} {x_cfg : CfgS} {x_fresh : List (Nat × Nat × Nat)} {x_cleared : List (Nat × Nat × Nat)} {x_sup : SupS} {x_dbg : DbgS} {x_tmu : TmuS} {x_lanes : Tab LaneS} {x_cells : Tab (Option CellS)} {x_cellCfg : Tab CellCfg} {x_sels : Tab Nat} {x_tracks : Tab Nat} {x_upsets : List Upset} {x_facets : Tab FacetS} {x_fev : List (Nat × Nat)} {x_panes : Tab PaneS} {x_banks : Tab BankS} {x_pins : PinsS} :
    KeepsVeLand g nn s0 ⟨x_now, x_reg, x_mem, x_evq, x_freeCtr, x_pending, x_hdi, x_clk, x_sched, s.ve, x_outCh, x_inCh, x_fcp, x_sq, x_brk, x_tgt, x_groupAt, x_dsp, x_focus, x_trim, x_reqs, x_resps, x_held, x_steal, x_labels, x_drain, x_trace, x_dmc, x_autoTrain, x_crh, x_cfg, x_fresh, x_cleared, x_sup, x_dbg, x_tmu, x_lanes, x_cells, x_cellCfg, x_sels, x_tracks, x_upsets, x_facets, x_fev, x_panes, x_banks, x_pins⟩ ↔ KeepsVeLand g nn s0 s := Iff.rfl
theorem addTo_keepsVeLand (s : State) (w k d : Nat) (hs : KeepsVeLand (fun e : VeRun => (e.lands, e.stack)) nn s0 s) :
    KeepsVeLand (fun e : VeRun => (e.lands, e.stack)) nn s0 (State.addTo s w k d) := by
  unfold State.addTo
  repeat' first
    | with_reducible intro _
    | with_reducible assumption
    | with_reducible apply wr_keepsVeLand

theorem bump_keepsVeLand (s : State) (w k : Nat) (hs : KeepsVeLand (fun e : VeRun => (e.lands, e.stack)) nn s0 s) :
    KeepsVeLand (fun e : VeRun => (e.lands, e.stack)) nn s0 (State.bump s w k) := by
  unfold State.bump
  repeat' first
    | with_reducible intro _
    | with_reducible assumption
    | with_reducible apply addTo_keepsVeLand

theorem raiseAt_keepsVeLand (s : State) (t e : Nat) (hs : KeepsVeLand (fun e : VeRun => (e.lands, e.stack)) nn s0 s) :
    KeepsVeLand (fun e : VeRun => (e.lands, e.stack)) nn s0 (State.raiseAt s t e) := by
  unfold State.raiseAt
  repeat' first
    | with_reducible intro _
    | with_reducible assumption
    | simp only [↓keepsVeLand_mk_iff]
    | with_reducible apply keepsVeLand_ite
    | (extract_lets x; first | (with_reducible refine keepsVeLand_cut (s := x) ?_ ?_; (on_goal 2 => clear_value x); (on_goal 1 => unfold x)) | (subst x))
    | split

theorem raise_keepsVeLand (s : State) (e : Nat) (hs : KeepsVeLand (fun e : VeRun => (e.lands, e.stack)) nn s0 s) :
    KeepsVeLand (fun e : VeRun => (e.lands, e.stack)) nn s0 (State.raise s e) := by
  unfold State.raise
  repeat' first
    | with_reducible intro _
    | with_reducible assumption
    | with_reducible apply raiseAt_keepsVeLand
    | simp only [↓keepsVeLand_mk_iff]
    | with_reducible apply keepsVeLand_ite
    | (extract_lets x; first | (with_reducible refine keepsVeLand_cut (s := x) ?_ ?_; (on_goal 2 => clear_value x); (on_goal 1 => unfold x)) | (subst x))
    | split

theorem setBit_keepsVeLand (s : State) (k b : Nat) (v : Bool) (hs : KeepsVeLand (fun e : VeRun => (e.lands, e.stack)) nn s0 s) :
    KeepsVeLand (fun e : VeRun => (e.lands, e.stack)) nn s0 (State.setBit s k b v) := by
  unfold State.setBit
  repeat' first
    | with_reducible intro _
    | with_reducible assumption
    | with_reducible apply wr_keepsVeLand
    | with_reducible apply keepsVeLand_ite
    | split

theorem note_keepsVeLand (s : State) (k b : Nat) (hs : KeepsVeLand (fun e : VeRun => (e.lands, e.stack)) nn s0 s) :
    KeepsVeLand (fun e : VeRun => (e.lands, e.stack)) nn s0 (State.note s k b) := by
  unfold State.note
  repeat' first
    | with_reducible intro _
    | with_reducible assumption
    | simp only [↓keepsVeLand_mk_iff]
    | with_reducible apply keepsVeLand_ite
    | (extract_lets x; first | (with_reducible refine keepsVeLand_cut (s := x) ?_ ?_; (on_goal 2 => clear_value x); (on_goal 1 => unfold x)) | (subst x))
    | split

theorem flag_keepsVeLand (s : State) (k b e : Nat) (hs : KeepsVeLand (fun e : VeRun => (e.lands, e.stack)) nn s0 s) :
    KeepsVeLand (fun e : VeRun => (e.lands, e.stack)) nn s0 (State.flag s k b e) := by
  unfold State.flag
  repeat' first
    | with_reducible intro _
    | with_reducible assumption
    | with_reducible apply note_keepsVeLand
    | with_reducible apply setBit_keepsVeLand
    | with_reducible apply raise_keepsVeLand
    | simp only [↓keepsVeLand_mk_iff]
    | with_reducible apply keepsVeLand_ite
    | (extract_lets x; first | (with_reducible refine keepsVeLand_cut (s := x) ?_ ?_; (on_goal 2 => clear_value x); (on_goal 1 => unfold x)) | (subst x))
    | split

theorem drawn_keepsVeLand (s : State) (hs : KeepsVeLand (fun e : VeRun => (e.lands, e.stack)) nn s0 s) :
    KeepsVeLand (fun e : VeRun => (e.lands, e.stack)) nn s0 (State.drawn s) := by
  unfold State.drawn
  repeat' first
    | with_reducible intro _
    | with_reducible assumption
    | simp only [↓keepsVeLand_mk_iff]
    | with_reducible apply keepsVeLand_ite
    | (extract_lets x; first | (with_reducible refine keepsVeLand_cut (s := x) ?_ ?_; (on_goal 2 => clear_value x); (on_goal 1 => unfold x)) | (subst x))
    | split

theorem modOut_keepsVeLand (s : State) (c : Nat) (f : OutCh → OutCh) (hs : KeepsVeLand (fun e : VeRun => (e.lands, e.stack)) nn s0 s) :
    KeepsVeLand (fun e : VeRun => (e.lands, e.stack)) nn s0 (State.modOut s c f) := by
  unfold State.modOut
  repeat' first
    | with_reducible intro _
    | with_reducible assumption
    | simp only [↓keepsVeLand_mk_iff]

theorem modIn_keepsVeLand (s : State) (c : Nat) (f : InCh → InCh) (hs : KeepsVeLand (fun e : VeRun => (e.lands, e.stack)) nn s0 s) :
    KeepsVeLand (fun e : VeRun => (e.lands, e.stack)) nn s0 (State.modIn s c f) := by
  unfold State.modIn
  repeat' first
    | with_reducible intro _
    | with_reducible assumption
    | simp only [↓keepsVeLand_mk_iff]

theorem modFcp_keepsVeLand (s : State) (n : Nat) (f : FcpS → FcpS) (hs : KeepsVeLand (fun e : VeRun => (e.lands, e.stack)) nn s0 s) :
    KeepsVeLand (fun e : VeRun => (e.lands, e.stack)) nn s0 (State.modFcp s n f) := by
  unfold State.modFcp
  repeat' first
    | with_reducible intro _
    | with_reducible assumption
    | simp only [↓keepsVeLand_mk_iff]

theorem modBrk_keepsVeLand (s : State) (u : Nat) (f : BrkS → BrkS) (hs : KeepsVeLand (fun e : VeRun => (e.lands, e.stack)) nn s0 s) :
    KeepsVeLand (fun e : VeRun => (e.lands, e.stack)) nn s0 (State.modBrk s u f) := by
  unfold State.modBrk
  repeat' first
    | with_reducible intro _
    | with_reducible assumption
    | simp only [↓keepsVeLand_mk_iff]

theorem modTgt_keepsVeLand (s : State) (t : Nat) (f : TgtS → TgtS) (hs : KeepsVeLand (fun e : VeRun => (e.lands, e.stack)) nn s0 s) :
    KeepsVeLand (fun e : VeRun => (e.lands, e.stack)) nn s0 (State.modTgt s t f) := by
  unfold State.modTgt
  repeat' first
    | with_reducible intro _
    | with_reducible assumption
    | simp only [↓keepsVeLand_mk_iff]

theorem modDsp_keepsVeLand (s : State) (n : Nat) (f : DspRun → DspRun) (hs : KeepsVeLand (fun e : VeRun => (e.lands, e.stack)) nn s0 s) :
    KeepsVeLand (fun e : VeRun => (e.lands, e.stack)) nn s0 (State.modDsp s n f) := by
  unfold State.modDsp
  repeat' first
    | with_reducible intro _
    | with_reducible assumption
    | simp only [↓keepsVeLand_mk_iff]

theorem latchDebugHalt_keepsVeLand (t th : Nat) (s : State) (hs : KeepsVeLand (fun e : VeRun => (e.lands, e.stack)) nn s0 s) :
    KeepsVeLand (fun e : VeRun => (e.lands, e.stack)) nn s0 (latchDebugHalt t th s) := by
  unfold latchDebugHalt
  repeat' first
    | with_reducible intro _
    | with_reducible assumption
    | with_reducible apply modTgt_keepsVeLand
    | (with_reducible refine modVe_keepsVeLand _ _ _ ?_ ?_; (on_goal 2 => (intro e; rfl)))
    | with_reducible apply modDsp_keepsVeLand
    | simp only [↓keepsVeLand_mk_iff]
    | with_reducible apply keepsVeLand_ite
    | (extract_lets x; first | (with_reducible refine keepsVeLand_cut (s := x) ?_ ?_; (on_goal 2 => clear_value x); (on_goal 1 => unfold x)) | (subst x))
    | split

theorem linkFired_keepsVeLand (u : Nat) (s : State) (hs : KeepsVeLand (fun e : VeRun => (e.lands, e.stack)) nn s0 s) :
    KeepsVeLand (fun e : VeRun => (e.lands, e.stack)) nn s0 (linkFired u s) := by
  unfold linkFired
  repeat' first
    | with_reducible intro _
    | with_reducible assumption
    | with_reducible apply modBrk_keepsVeLand
    | simp only [↓keepsVeLand_mk_iff]
    | with_reducible apply keepsVeLand_ite
    | with_reducible apply keepsVeLand_foldl
    | split

theorem brkFire_keepsVeLand (u t th : Nat) (s : State) (hs : KeepsVeLand (fun e : VeRun => (e.lands, e.stack)) nn s0 s) :
    KeepsVeLand (fun e : VeRun => (e.lands, e.stack)) nn s0 (brkFire u t th s) := by
  unfold brkFire
  repeat' first
    | with_reducible intro _
    | with_reducible assumption
    | with_reducible apply linkFired_keepsVeLand
    | with_reducible apply wr_keepsVeLand
    | with_reducible apply flag_keepsVeLand
    | with_reducible apply latchDebugHalt_keepsVeLand
    | simp only [↓keepsVeLand_mk_iff]
    | (extract_lets x; first | (with_reducible refine keepsVeLand_cut (s := x) ?_ ?_; (on_goal 2 => clear_value x); (on_goal 1 => unfold x)) | (subst x))
    | split

theorem brkCount_keepsVeLand (u t th : Nat) (s : State) (hs : KeepsVeLand (fun e : VeRun => (e.lands, e.stack)) nn s0 s) :
    KeepsVeLand (fun e : VeRun => (e.lands, e.stack)) nn s0 (brkCount u t th s) := by
  unfold brkCount
  repeat' first
    | with_reducible intro _
    | with_reducible assumption
    | with_reducible apply bump_keepsVeLand
    | with_reducible apply modBrk_keepsVeLand
    | with_reducible apply brkFire_keepsVeLand
    | simp only [↓keepsVeLand_mk_iff]
    | with_reducible apply keepsVeLand_ite
    | (extract_lets x; first | (with_reducible refine keepsVeLand_cut (s := x) ?_ ?_; (on_goal 2 => clear_value x); (on_goal 1 => unfold x)) | (subst x))
    | split

theorem brkMatch_keepsVeLand (kind t v ctx cls th : Nat) (s : State) (hs : KeepsVeLand (fun e : VeRun => (e.lands, e.stack)) nn s0 s) :
    KeepsVeLand (fun e : VeRun => (e.lands, e.stack)) nn s0 (brkMatch kind t v ctx cls th s) := by
  unfold brkMatch
  repeat' first
    | with_reducible intro _
    | with_reducible assumption
    | with_reducible apply brkCount_keepsVeLand
    | with_reducible apply keepsVeLand_ite
    | with_reducible apply keepsVeLand_foldl
    | split

theorem settleOut_keepsVeLand (c : Nat) (s : State) (hs : KeepsVeLand (fun e : VeRun => (e.lands, e.stack)) nn s0 s) :
    KeepsVeLand (fun e : VeRun => (e.lands, e.stack)) nn s0 (settleOut c s) := by
  unfold settleOut
  repeat' first
    | with_reducible intro _
    | with_reducible assumption
    | with_reducible apply modOut_keepsVeLand
    | with_reducible apply setBit_keepsVeLand
    | with_reducible apply wr_keepsVeLand
    | simp only [↓keepsVeLand_mk_iff]
    | with_reducible apply keepsVeLand_ite
    | (extract_lets x; first | (with_reducible refine keepsVeLand_cut (s := x) ?_ ?_; (on_goal 2 => clear_value x); (on_goal 1 => unfold x)) | (subst x))
    | split

theorem settleIn_keepsVeLand (c : Nat) (s : State) (hs : KeepsVeLand (fun e : VeRun => (e.lands, e.stack)) nn s0 s) :
    KeepsVeLand (fun e : VeRun => (e.lands, e.stack)) nn s0 (settleIn c s) := by
  unfold settleIn
  repeat' first
    | with_reducible intro _
    | with_reducible assumption
    | with_reducible apply modIn_keepsVeLand
    | with_reducible apply setBit_keepsVeLand
    | with_reducible apply wr_keepsVeLand
    | simp only [↓keepsVeLand_mk_iff]
    | with_reducible apply keepsVeLand_ite
    | (extract_lets x; first | (with_reducible refine keepsVeLand_cut (s := x) ?_ ?_; (on_goal 2 => clear_value x); (on_goal 1 => unfold x)) | (subst x))
    | split

theorem dropOut_keepsVeLand (c t : Nat) (s : State) (hs : KeepsVeLand (fun e : VeRun => (e.lands, e.stack)) nn s0 s) :
    KeepsVeLand (fun e : VeRun => (e.lands, e.stack)) nn s0 (dropOut c t s) := by
  unfold dropOut
  repeat' first
    | with_reducible intro _
    | with_reducible assumption
    | with_reducible apply settleOut_keepsVeLand
    | with_reducible apply modOut_keepsVeLand
    | with_reducible apply raiseAt_keepsVeLand
    | simp only [↓keepsVeLand_mk_iff]
    | with_reducible apply keepsVeLand_ite
    | (extract_lets x; first | (with_reducible refine keepsVeLand_cut (s := x) ?_ ?_; (on_goal 2 => clear_value x); (on_goal 1 => unfold x)) | (subst x))
    | split

theorem dropIn_keepsVeLand (c t : Nat) (s : State) (hs : KeepsVeLand (fun e : VeRun => (e.lands, e.stack)) nn s0 s) :
    KeepsVeLand (fun e : VeRun => (e.lands, e.stack)) nn s0 (dropIn c t s) := by
  unfold dropIn
  repeat' first
    | with_reducible intro _
    | with_reducible assumption
    | with_reducible apply settleIn_keepsVeLand
    | with_reducible apply modIn_keepsVeLand
    | with_reducible apply raiseAt_keepsVeLand
    | simp only [↓keepsVeLand_mk_iff]
    | with_reducible apply keepsVeLand_ite
    | (extract_lets x; first | (with_reducible refine keepsVeLand_cut (s := x) ?_ ?_; (on_goal 2 => clear_value x); (on_goal 1 => unfold x)) | (subst x))
    | split

theorem placeData_keepsVeLand (c t : Nat) (op : Option EdgeOp) (s : State) (hs : KeepsVeLand (fun e : VeRun => (e.lands, e.stack)) nn s0 s) :
    KeepsVeLand (fun e : VeRun => (e.lands, e.stack)) nn s0 (placeData c t op s) := by
  unfold placeData
  repeat' first
    | with_reducible intro _
    | with_reducible assumption
    | with_reducible apply dropOut_keepsVeLand
    | with_reducible apply modOut_keepsVeLand
    | simp only [↓keepsVeLand_mk_iff]
    | with_reducible apply keepsVeLand_ite
    | (extract_lets x; first | (with_reducible refine keepsVeLand_cut (s := x) ?_ ?_; (on_goal 2 => clear_value x); (on_goal 1 => unfold x)) | (subst x))
    | split

theorem placeEnable_keepsVeLand (c t : Nat) (n : Bool) (s : State) (hs : KeepsVeLand (fun e : VeRun => (e.lands, e.stack)) nn s0 s) :
    KeepsVeLand (fun e : VeRun => (e.lands, e.stack)) nn s0 (placeEnable c t n s) := by
  unfold placeEnable
  repeat' first
    | with_reducible intro _
    | with_reducible assumption
    | with_reducible apply dropOut_keepsVeLand
    | with_reducible apply modOut_keepsVeLand
    | simp only [↓keepsVeLand_mk_iff]
    | with_reducible apply keepsVeLand_ite
    | (extract_lets x; first | (with_reducible refine keepsVeLand_cut (s := x) ?_ ?_; (on_goal 2 => clear_value x); (on_goal 1 => unfold x)) | (subst x))
    | split

theorem placeMark_keepsVeLand (c t : Nat) (s : State) (hs : KeepsVeLand (fun e : VeRun => (e.lands, e.stack)) nn s0 s) :
    KeepsVeLand (fun e : VeRun => (e.lands, e.stack)) nn s0 (placeMark c t s) := by
  unfold placeMark
  repeat' first
    | with_reducible intro _
    | with_reducible assumption
    | with_reducible apply dropIn_keepsVeLand
    | with_reducible apply modIn_keepsVeLand
    | simp only [↓keepsVeLand_mk_iff]
    | with_reducible apply keepsVeLand_ite
    | (extract_lets x; first | (with_reducible refine keepsVeLand_cut (s := x) ?_ ?_; (on_goal 2 => clear_value x); (on_goal 1 => unfold x)) | (subst x))
    | split

theorem placeMarks_keepsVeLand (c : Nat) : ∀ (z0 : List Nat) (z1 : State × Bool), KeepsVeLand (fun e : VeRun => (e.lands, e.stack)) nn s0 z1.1 → KeepsVeLand (fun e : VeRun => (e.lands, e.stack)) nn s0 (placeMarks c z0 z1).1
  | [], _, h => h
  | t :: ts, (s, lost), h => by
    unfold placeMarks
    exact placeMarks_keepsVeLand c ts _ (placeMark_keepsVeLand c t s h)

theorem strobeIn_keepsVeLand (n tset tc p c : Nat) (d : Bool) (smp : Samples) (s : State) (hs : KeepsVeLand (fun e : VeRun => (e.lands, e.stack)) nn s0 s) :
    KeepsVeLand (fun e : VeRun => (e.lands, e.stack)) nn s0 (strobeIn n tset tc p c d smp s).1 := by
  unfold strobeIn
  repeat' first
    | with_reducible intro _
    | with_reducible assumption
    | with_reducible apply placeMarks_keepsVeLand
    | with_reducible apply drawn_keepsVeLand
    | simp only [↓keepsVeLand_mk_iff]
    | with_reducible apply keepsVeLand_ite
    | (extract_lets x; first | (with_reducible refine keepsVeLand_cut (s := x) ?_ ?_; (on_goal 2 => clear_value x); (on_goal 1 => unfold x)) | (subst x))
    | split

theorem leaveLevel_keepsVeLand (c p : Nat) (smp : Samples) (s : State) (hs : KeepsVeLand (fun e : VeRun => (e.lands, e.stack)) nn s0 s) :
    KeepsVeLand (fun e : VeRun => (e.lands, e.stack)) nn s0 (leaveLevel c p smp s) := by
  unfold leaveLevel
  repeat' first
    | with_reducible intro _
    | with_reducible assumption
    | with_reducible apply modIn_keepsVeLand
    | simp only [↓keepsVeLand_mk_iff]
    | with_reducible apply keepsVeLand_ite
    | split

theorem strobeAll_keepsVeLand (n tset tc d : Nat) (smp : Samples) : ∀ (z0 : List (Nat × Nat)) (z1 : State), KeepsVeLand (fun e : VeRun => (e.lands, e.stack)) nn s0 z1 →
    KeepsVeLand (fun e : VeRun => (e.lands, e.stack)) nn s0 (strobeAll n tset tc d smp z0 z1).1
  | [], _, h => h
  | (p, c) :: ps, s, h => by
    unfold strobeAll
    exact strobeAll_keepsVeLand n tset tc d smp ps _ (strobeIn_keepsVeLand n tset tc p c _ smp _ (leaveLevel_keepsVeLand c p smp s h))

theorem driveOut_keepsVeLand (n tset tc p c : Nat) (d : Bool) (found : List Strobe) (s : State) (hs : KeepsVeLand (fun e : VeRun => (e.lands, e.stack)) nn s0 s) :
    KeepsVeLand (fun e : VeRun => (e.lands, e.stack)) nn s0 (driveOut n tset tc p c d found s) := by
  unfold driveOut
  repeat' first
    | with_reducible intro _
    | with_reducible assumption
    | with_reducible apply placeEnable_keepsVeLand
    | with_reducible apply placeData_keepsVeLand
    | with_reducible apply settleOut_keepsVeLand
    | with_reducible apply modOut_keepsVeLand
    | simp only [↓keepsVeLand_mk_iff]
    | with_reducible apply keepsVeLand_foldl
    | with_reducible apply keepsVeLand_ite
    | (extract_lets x; first | (with_reducible refine keepsVeLand_cut (s := x) ?_ ?_; (on_goal 2 => clear_value x); (on_goal 1 => unfold x)) | (subst x))
    | split

theorem barFail_keepsVeLand (n t : Nat) (s : State) (hs : KeepsVeLand (fun e : VeRun => (e.lands, e.stack)) nn s0 s) :
    KeepsVeLand (fun e : VeRun => (e.lands, e.stack)) nn s0 (barFail n t s) := by
  unfold barFail
  repeat' first
    | with_reducible intro _
    | with_reducible assumption
    | (with_reducible refine modVe_keepsVeLand _ _ _ ?_ ?_; (on_goal 2 => (intro e; rfl)))
    | simp only [↓keepsVeLand_mk_iff]

theorem failNaming_keepsVeLand (i j t : Nat) (s : State) (hs : KeepsVeLand (fun e : VeRun => (e.lands, e.stack)) nn s0 s) :
    KeepsVeLand (fun e : VeRun => (e.lands, e.stack)) nn s0 (failNaming i j t s) := by
  unfold failNaming
  repeat' first
    | with_reducible intro _
    | with_reducible assumption
    | with_reducible apply barFail_keepsVeLand
    | with_reducible apply keepsVeLand_ite
    | with_reducible apply keepsVeLand_foldl
    | split

theorem learn_keepsVeLand (n : Nat) (c : Cmp) (s : State) (hs : KeepsVeLand (fun e : VeRun => (e.lands, e.stack)) nn s0 s) :
    KeepsVeLand (fun e : VeRun => (e.lands, e.stack)) nn s0 (learn n c s) := by
  unfold learn
  repeat' first
    | with_reducible intro _
    | with_reducible assumption
    | (with_reducible refine modVe_keepsVeLand _ _ _ ?_ ?_; (on_goal 2 => (intro e; rfl)))
    | with_reducible apply setBit_keepsVeLand
    | simp only [↓keepsVeLand_mk_iff]
    | with_reducible apply keepsVeLand_ite
    | (extract_lets x; first | (with_reducible refine keepsVeLand_cut (s := x) ?_ ?_; (on_goal 2 => clear_value x); (on_goal 1 => unfold x)) | (subst x))
    | split

theorem learnUpTo_keepsVeLand (n b : Nat) (s : State) (hs : KeepsVeLand (fun e : VeRun => (e.lands, e.stack)) nn s0 s) :
    KeepsVeLand (fun e : VeRun => (e.lands, e.stack)) nn s0 (learnUpTo n b s) := by
  unfold learnUpTo
  repeat' first
    | with_reducible intro _
    | with_reducible assumption
    | with_reducible apply learn_keepsVeLand
    | (with_reducible refine modVe_keepsVeLand _ _ _ ?_ ?_; (on_goal 2 => (intro e; rfl)))
    | simp only [↓keepsVeLand_mk_iff]
    | with_reducible apply keepsVeLand_foldl
    | (extract_lets x; first | (with_reducible refine keepsVeLand_cut (s := x) ?_ ?_; (on_goal 2 => clear_value x); (on_goal 1 => unfold x)) | (subst x))

theorem closeLoop_keepsVeLand (n : Nat) (mto : Bool) (s : State) (hs : KeepsVeLand (fun e : VeRun => (e.lands, e.stack)) nn s0 s) :
    KeepsVeLand (fun e : VeRun => (e.lands, e.stack)) nn s0 (closeLoop n mto s) := by
  unfold closeLoop
  repeat' first
    | with_reducible intro _
    | with_reducible assumption
    | (with_reducible refine modVe_keepsVeLand _ _ _ ?_ ?_; (on_goal 2 => (intro e; rfl)))
    | with_reducible apply setBit_keepsVeLand
    | simp only [↓keepsVeLand_mk_iff]

theorem decideMatch_keepsVeLand (n c : Nat) (s : State) (hs : KeepsVeLand (fun e : VeRun => (e.lands, e.stack)) nn s0 s) :
    KeepsVeLand (fun e : VeRun => (e.lands, e.stack)) nn s0 (decideMatch n c s).1 := by
  unfold decideMatch
  repeat' first
    | with_reducible intro _
    | with_reducible assumption
    | with_reducible apply closeLoop_keepsVeLand
    | (with_reducible refine modVe_keepsVeLand _ _ _ ?_ ?_; (on_goal 2 => (intro e; rfl)))
    | simp only [↓keepsVeLand_mk_iff]
    | with_reducible apply keepsVeLand_ite
    | (extract_lets x; first | (with_reducible refine keepsVeLand_cut (s := x) ?_ ?_; (on_goal 2 => clear_value x); (on_goal 1 => unfold x)) | (subst x))
    | split

theorem resolve_keepsVeLand (n : Nat) (s : State) (hs : KeepsVeLand (fun e : VeRun => (e.lands, e.stack)) nn s0 s) :
    KeepsVeLand (fun e : VeRun => (e.lands, e.stack)) nn s0 (resolve n s).1 := by
  unfold resolve
  repeat' first
    | with_reducible intro _
    | with_reducible assumption
    | with_reducible apply decideMatch_keepsVeLand
    | with_reducible apply keepsVeLand_ite
    | split

theorem markUsed_keepsVeLand (n a c : Nat) (s : State) (hs : KeepsVeLand (fun e : VeRun => (e.lands, e.stack)) nn s0 s) :
    KeepsVeLand (fun e : VeRun => (e.lands, e.stack)) nn s0 (markUsed n a c s) := by
  unfold markUsed
  repeat' first
    | with_reducible intro _
    | with_reducible assumption
    | (with_reducible refine modVe_keepsVeLand _ _ _ ?_ ?_; (on_goal 2 => (intro e; rfl)))
    | simp only [↓keepsVeLand_mk_iff]
    | with_reducible apply keepsVeLand_ite
    | split

theorem decideNext_keepsVeLand (n : Nat) (s : State) (hs : KeepsVeLand (fun e : VeRun => (e.lands, e.stack)) nn s0 s) :
    KeepsVeLand (fun e : VeRun => (e.lands, e.stack)) nn s0 (decideNext n s).1 := by
  unfold decideNext
  repeat' first
    | with_reducible intro _
    | with_reducible assumption
    | with_reducible apply learnUpTo_keepsVeLand
    | with_reducible apply resolve_keepsVeLand
    | (with_reducible refine modVe_keepsVeLand _ _ _ ?_ ?_; (on_goal 2 => (intro e; rfl)))
    | simp only [↓keepsVeLand_mk_iff]
    | with_reducible apply keepsVeLand_ite
    | (extract_lets x; first | (with_reducible refine keepsVeLand_cut (s := x) ?_ ?_; (on_goal 2 => clear_value x); (on_goal 1 => unfold x)) | (subst x))
    | split

theorem consume_keepsVeLand (n b : Nat) (s : State) (hs : KeepsVeLand (fun e : VeRun => (e.lands, e.stack)) nn s0 s) :
    KeepsVeLand (fun e : VeRun => (e.lands, e.stack)) nn s0 (consume n b s) := by
  unfold consume
  repeat' first
    | with_reducible intro _
    | with_reducible assumption
    | with_reducible apply bump_keepsVeLand
    | (with_reducible refine modVe_keepsVeLand _ _ _ ?_ ?_; (on_goal 2 => (intro e; rfl)))
    | with_reducible apply setBit_keepsVeLand
    | simp only [↓keepsVeLand_mk_iff]
    | (extract_lets x; first | (with_reducible refine keepsVeLand_cut (s := x) ?_ ?_; (on_goal 2 => clear_value x); (on_goal 1 => unfold x)) | (subst x))
    | split

theorem stepCount_keepsVeLand (n next : Nat) (s : State) (hs : KeepsVeLand (fun e : VeRun => (e.lands, e.stack)) nn s0 s) :
    KeepsVeLand (fun e : VeRun => (e.lands, e.stack)) nn s0 (stepCount n next s) := by
  unfold stepCount
  repeat' first
    | with_reducible intro _
    | with_reducible assumption
    | (with_reducible refine modVe_keepsVeLand _ _ _ ?_ ?_; (on_goal 2 => (intro e; rfl)))
    | with_reducible apply modTgt_keepsVeLand
    | simp only [↓keepsVeLand_mk_iff]
    | split

theorem issueCycle_keepsVeLand (n b w a : Nat) (smp : Samples) (s : State) (hs : KeepsVeLand (fun e : VeRun => (e.lands, e.stack)) nn s0 s) :
    KeepsVeLand (fun e : VeRun => (e.lands, e.stack)) nn s0 (issueCycle n b w a smp s) := by
  unfold issueCycle
  repeat' first
    | with_reducible intro _
    | with_reducible assumption
    | with_reducible apply brkMatch_keepsVeLand
    | with_reducible apply consume_keepsVeLand
    | with_reducible apply strobeAll_keepsVeLand
    | with_reducible apply driveOut_keepsVeLand
    | with_reducible apply modFcp_keepsVeLand
    | (with_reducible refine modVe_keepsVeLand _ _ _ ?_ ?_; (on_goal 2 => (intro e; rfl)))
    | with_reducible apply wr_keepsVeLand
    | with_reducible apply bump_keepsVeLand
    | with_reducible apply stepCount_keepsVeLand
    | with_reducible apply modTgt_keepsVeLand
    | simp only [↓keepsVeLand_mk_iff]
    | with_reducible apply keepsVeLand_ite
    | with_reducible apply keepsVeLand_foldl
    | (extract_lets x; first | (with_reducible refine keepsVeLand_cut (s := x) ?_ ?_; (on_goal 2 => clear_value x); (on_goal 1 => unfold x)) | (subst x))
    | split

set_option Elab.async false in
theorem arrive_keepsVeLand (n mask t : Nat) (s : State) (hs : KeepsVeLand (fun e : VeRun => (e.lands, e.stack)) nn s0 s) :
    KeepsVeLand (fun e : VeRun => (e.lands, e.stack)) nn s0 (arrive n mask t s) := by
  unfold arrive
  repeat' first
    | with_reducible intro _
    | with_reducible assumption
    | with_reducible apply barFail_keepsVeLand
    | with_reducible apply failNaming_keepsVeLand
    | with_reducible apply keepsVeLand_ite
    | with_reducible apply keepsVeLand_foldl
    | (extract_lets x; first | (with_reducible refine keepsVeLand_cut (s := x) ?_ ?_; (on_goal 2 => clear_value x); (on_goal 1 => unfold x)) | (subst x))
    | split

end
end Sys2Proof.Laws
end

