-- ==== Sys2Proof/Laws/MeshLaws.lean ====
section
/-! SUPPORT. Mesh accesses, DRAM addresses, debug reads: facts that proofs about their commands cite. -/
namespace Sys2Proof.Laws.MeshLaws
open Sys2Proof.Machine Common CompleteMesh
namespace LawFacts
theorem key_back (k : Nat) : k / 256 * 256 + k % 256 = k := Nat.div_add_mod' k 256
theorem filter_length_lt {b : List Staged} {k : Nat} {e : Staged} (h : b.find? (fun e => Nat.beq e.key k) = some e) :
    (b.filter fun e => !(Nat.beq e.key k)).length < b.length ∧ ((b.filter fun e => !(Nat.beq e.key k)).map (·.len)).sum + e.len ≤ (b.map (·.len)).sum := by
  induction b with
  | nil => cases h
  | cons a b ih =>
    rw [List.find?_cons] at h
    cases ha : Nat.beq a.key k
    · rw [ha] at h
      have := ih h
      rw [List.filter_cons, ha]
      simp only [Bool.not_false, if_true, List.length_cons, List.map_cons, List.sum_cons]
      omega
    · rw [ha] at h
      simp only [Option.some.injEq] at h
      subst h
      rw [List.filter_cons, ha]
      simp only [Bool.not_true, Bool.false_eq_true, if_false, List.length_cons, List.map_cons, List.sum_cons]
      have h1 := List.length_filter_le (fun e : Staged => !(Nat.beq e.key k)) b
      have h2 : ∀ b : List Staged, ((b.filter fun e => !(Nat.beq e.key k)).map (·.len)).sum ≤ (b.map (·.len)).sum := by
        intro b
        induction b with
        | nil => simp
        | cons c b ih => rw [List.filter_cons]; split <;> simp only [List.map_cons, List.sum_cons] <;> omega
      have := h2 b
      omega
theorem find_filter_same (b : List Staged) (k : Nat) : (b.filter fun e => !(Nat.beq e.key k)).find? (fun e => Nat.beq e.key k) = none := by
  rw [List.find?_eq_none]
  intro x hx
  rw [List.mem_filter] at hx
  rw [Bool.not_eq_true]
  simpa only [Bool.not_eq_true'] using hx.2
theorem find_filter_other {k j : Nat} (h : j ≠ k) (b : List Staged) : (b.filter fun e => !(Nat.beq e.key k)).find? (fun e => Nat.beq e.key j) = b.find? (fun e => Nat.beq e.key j) := by
  rw [List.find?_filter]
  congr 1
  funext e
  cases h1 : Nat.beq e.key k
  · cases h2 : Nat.beq e.key j <;> simp_all
  · have : e.key = k := Nat.eq_of_beq_eq_true h1
    rw [this]
    have h2 : Nat.beq k j = false := by rw [← Bool.not_eq_true, Nat.beq_eq]; exact fun e => h e.symm
    rw [h2]; rfl
end LawFacts
open LawFacts
theorem region_dsp {a n : Nat} {s : State} (hn : n < 32) (h1 : 0x10300000000 + 0x4000 * n ≤ a) (h2 : a < 0x10300000000 + 0x4000 * (n + 1)) : regionOf a s = 4 := by
  unfold regionOf
  rw [if_neg (by omega), if_neg (by omega), if_neg (by omega), if_neg (by omega), if_pos (by omega)]
theorem serve_dsp {ecc : List Ecc} {r : MeshReq} {n : Nat} {u : State} (h : destOf r.addr u = (4, n)) :
    serve ecc r u = if r.op = .write ∧ dspStopped n u = false then meshAnswer r 2 0 u else performMem r u := by
  unfold serve; rw [h]; rfl
theorem read_write : ∀ (n : Nat) (m : List Host.Cell) (a v : Nat), memRead (memWrite m a n v) a n = v % 256 ^ n
  | 0, m, a, v => by rw [pow_zero, Nat.mod_one]; rfl
  | n + 1, m, a, v => by
    show (memByte (memWrite (Tab.set byteDefault m a (BitVec.ofNat 8 v)) (a + 1) n (v / 256)) a).toNat +
      256 * memRead (memWrite (Tab.set byteDefault m a (BitVec.ofNat 8 v)) (a + 1) n (v / 256)) (a + 1) n = _
    rw [read_write n, memByte_write_outside (by omega)]
    have : memByte (Tab.set byteDefault m a (BitVec.ofNat 8 v)) a = BitVec.ofNat 8 v := get_set_same _ _ _
    have e : (256 : Nat) ^ (n + 1) = 256 * 256 ^ n := by rw [pow_succ, Nat.mul_comm]
    rw [this, BitVec.toNat_ofNat, e, Nat.mod_mul]
theorem read_zero : ∀ (n : Nat) (m : List Host.Cell) (a : Nat), (∀ x, a ≤ x → x < a + n → memByte m x = 0#8) → memRead m a n = 0
  | 0, _, _, _ => rfl
  | n + 1, m, a, h => by
    show (memByte m a).toNat + 256 * memRead m (a + 1) n = 0
    rw [read_zero n m (a + 1) (fun x h1 h2 => h x (by omega) (by omega)), h a (Nat.le_refl _) (by omega)]; rfl
theorem ways_nodup (s : State) : (ways s).Nodup := List.Nodup.filter _ List.nodup_range
theorem find_idx {l : List Nat} (h : l.Nodup) {w : Nat} (hw : w < l.length) : (l.findIdx? fun m => Nat.beq m (l.getD w 0)) = some w := by
  rw [List.findIdx?_eq_some_iff_getElem]
  have e : l.getD w 0 = l[w] := by simp [hw]
  refine ⟨hw, ?_, fun j hj => ?_⟩
  · rw [e]; simp
  · rw [e]
    have : l[j] ≠ l[w] := fun he => by
      have := (List.Nodup.getElem_inj_iff h).1 he
      omega
    simpa using this
def Silent (q : Req) (s t : State) : Prop := (t.masterOf 9).resp.op = q.op.getD 0x81 ∧ ∃ o m st len data, t = respond q 1 o m st len data s


theorem rc_low : ∀ (l : List Dict.Row), (l.all fun x => decide (x.acc ≠ Dict.Acc.rc)) = true → ∀ o m x, l.find? (·.holds o m) = some x → x.acc ≠ .rc := by
  intro l h o m x hx
  have := List.mem_of_find?_eq_some hx
  rw [List.all_eq_true] at h
  simpa using h x this
theorem rc_obj {o m : Nat} {x : Dict.Row} (h : Dict.find o m = some x) (hc : x.acc = .rc) : o ≠ 0x10 ∧ o ≠ 0x11 := by
  have : ∀ o, o < 4096 → Dict.find o m = some x → False := by
    intro o ho h
    unfold Dict.find at h
    split at h
    · cases h
    · have e : Dict.rowsOf o = Dict.rows0 := by unfold Dict.rowsOf; rw [Nat.div_eq_of_lt ho]; rfl
      rw [e] at h
      exact rc_low _ (by decide) o m x h hc
  exact ⟨fun e => this o (by omega) h, fun e => this o (by omega) h⟩
theorem silent_finish {q : Req} {o m st len data : Nat} {s : State} {x : Dict.Row} (hq : q.master = 9) (hd : deaf q s = false) (h : Dict.find o m = some x) (hc : x.acc = .rc) :
    Silent q s (finish q 1 o m st len data (fun s => s) s) := by
  have ho := rc_obj h hc
  have hl : leases q 1 o m s = false := by
    unfold leases
    have h1 : Nat.beq o 0x10 = false := by rw [← Bool.not_eq_true, Nat.beq_eq]; exact ho.1
    have h2 : Nat.beq o 0x11 = false := by rw [← Bool.not_eq_true, Nat.beq_eq]; exact ho.2
    rw [h1, h2]
    show (_ && (false || false || false || false || (false && _))) = false
    simp
  have hdr : debugRead q 1 o m = true := by
    unfold debugRead; rw [hq, h]; simp [hc]
  have hop : ∀ st len data, ((respond q 1 o m st len data s).masterOf 9).resp.op = q.op.getD 0x81 := by
    intro st len data
    unfold respond
    have e : respOp q 1 o m = q.op.getD 0x81 := by unfold respOp; rw [hdr]; cases q.op <;> rfl
    rw [e, ← hq]
    unfold State.modMaster State.masterOf
    rw [get_set_same]
  unfold finish
  rw [if_neg (by rw [hd]; simp)]
  split
  · dsimp only
    rw [hl, if_neg (by simp)]
    exact ⟨hop _ _ _, _, _, _, _, _, rfl⟩
  · exact ⟨hop _ _ _, _, _, _, _, _, rfl⟩
theorem silent_from {q : Req} {k len data : Nat} {extra : List (Bool × Nat)} {eff : State → State} {s : State} {x : Dict.Row} (hq : q.master = 9) (hd : deaf q s = false)
    (h : Dict.find (k / 256) (k % 256) = some x) (hc : x.acc = .rc) : Silent q s (readFrom q k len data extra eff s) := by
  unfold readFrom
  have hdr : debugRead q 1 (k / 256) (k % 256) = true := by
    unfold debugRead; rw [hq, h]; simp [hc]
  dsimp only
  rw [hdr, Bool.or_true, if_pos rfl]
  exact silent_finish hq hd h hc
def isRc (k : Nat) : Bool := match Dict.find (k / 256) (k % 256) with | some x => decide (x.acc = .rc) | none => false
theorem of_isRc {k : Nat} (h : isRc k = true) : ∃ x, Dict.find (k / 256) (k % 256) = some x ∧ x.acc = .rc := by
  unfold isRc at h
  split at h
  · rename_i x hx; exact ⟨x, hx, by simpa using h⟩
  · cases h
set_option Elab.async false in
theorem silent_unit {q : Req} {n b k len data : Nat} {extra : List (Bool × Nat)} {eff : State → State} {s t : State} (hq : q.master = 9) (hd : deaf q s = false)
    (h : n < b → isRc k = true) (he : unitCmd n b (readFrom q k len data extra eff s) = .next t) : Silent q s t := by
  unfold unitCmd at he
  split at he
  · rename_i hn
    cases he
    obtain ⟨x, h1, h2⟩ := of_isRc (h hn)
    exact silent_from hq hd h1 h2
  · cases he
end Sys2Proof.Laws.MeshLaws
end

