-- ==== Sys2Proof/Laws/RunFrames.lean ====
section
/-! SUPPORT. Words, ends of runs and applies: facts that proofs about their commands cite. -/
namespace Sys2Proof.Laws.RunFrames
open Sys2Proof.Machine Common
namespace RunFacts
theorem unit_next {n k : Nat} {t u : State} (h : unitCmd n k u = .next t) : t = u := by
  unfold unitCmd at h
  split at h <;> cases h
  rfl
def WK (n w : Nat) (i : Instr) (smp : Samples) (k : Nat) : Prop := k ∈ [VEN.FLAGS n, VEN.CYCLES n, VEN.PC n, VEN.APG_USED n, EDG.DROP_GROUPS, DBG.EVFLAGS] ∨
      (∃ u, k = EDG.EDGE_DROP u ∨ k = EDG.STROBE_DROP u ∨ k = DBG.BRK_HITS u ∨ k = DBG.BRK_STATE u) ∨
      ((i = .veLdc n smp ∨ i = .loop n smp) ∧ k = VEN.CTR n (wSel w)) ∨ (i = .veEvt n smp ∧ k = VEN.EVENTS n)
abbrev St (n : Nat) (s t : State) : Prop := KeepsVeLand (fun e : VeRun => (e.lands, e.stack)) n s t
theorem word_frame {n w a opc : Nat} {fresh : Bool} {i : Instr} {smp : Samples} {s t : State} {act : Nat → Nat → Nat → Bool → State → State}
    (h : VeDecides n w a fresh s) (he : wordCommand n opc smp act s = .next t)
    (ha : ∀ y, Fr (WK n w i smp) False s y → St n s y → Fr (WK n w i smp) False s (act w a (veBoundary n s) fresh y)) :
    Fr (WK n w i smp) False s t ∧ ((∀ y, St n s y → St n s (act w a (veBoundary n s) fresh y)) → (t.veOf n).stack = (s.veOf n).stack) := by
  obtain ⟨hn, hi, hb, u, hu⟩ := h
  unfold wordCommand at he
  have he := unit_next he
  dsimp only at he
  rw [if_neg (by simp [hi, hb]), hu] at he
  dsimp only at he
  split at he
  · subst he; exact ⟨fr_refl _, fun _ => rfl⟩
  · generalize hv : (if opc = 8 ∧ fresh = true then (u.setBit (VEN.FLAGS n) 1 false).modVe n fun e => { e with clrf := e.cyc, failOff := if u.bit (VEN.FLAGS n) 1 then u.now else e.failOff } else u) = v at he
    have kf : WK n w i smp (VEN.FLAGS n) := .inl (by simp)
    have fu : Fr (WK n w i smp) False s u := by
      have := decideNext_fr (V := WK n w i smp) (M := False) (s0 := s) n (s.upto (veBoundary n s - 18 * ticksPerNs)) (upto_fr _ _ (fr_refl s)) kf
      rw [hu] at this; exact this
    have su : St n s u := by
      have := decideNext_keepsVeLand (nn := n) (s0 := s) n (s.upto (veBoundary n s - 18 * ticksPerNs)) rfl
      rw [hu] at this; exact this
    have fv : Fr (WK n w i smp) False s v := by subst hv; exact fr_ite (modVe_fr _ _ _ (setBit_fr _ _ _ _ fu kf)) fu
    have sv : St n s v := by subst hv; exact keepsVeLand_ite (modVe_keepsVeLand _ _ _ (setBit_keepsVeLand _ _ _ _ su) (fun e => rfl)) su
    have fz := issueCycle_fr (V := WK n w i smp) (M := False) (s0 := s) n (veBoundary n s) w a smp _ (markUsed_fr n a (v.veOf n).cyc v fv)
      (fun u => .inr (.inl ⟨u, by simp⟩)) (fun u => .inr (.inl ⟨u, by simp⟩)) (.inl (by simp)) (.inl (by simp)) (fun u => .inr (.inl ⟨u, by simp⟩)) (fun u => .inr (.inl ⟨u, by simp⟩))
      (.inl (by simp)) (.inl (by simp)) kf (.inl (by simp))
    have sz := issueCycle_keepsVeLand (nn := n) (s0 := s) n (veBoundary n s) w a smp _ (markUsed_keepsVeLand n a (v.veOf n).cyc v sv)
    generalize issueCycle n (veBoundary n s) w a smp (markUsed n a (v.veOf n).cyc v) = z at he fz sz
    have fy : Fr (WK n w i smp) False s (if fresh then z.modVe n fun e => { e with next := a + 1 } else z) := fr_ite (modVe_fr _ _ _ fz) fz
    have sy : St n s (if fresh then z.modVe n fun e => { e with next := a + 1 } else z) := keepsVeLand_ite (modVe_keepsVeLand _ _ _ sz (fun e => rfl)) sz
    subst he
    exact ⟨ha _ fy sy, fun hs => congrArg (·.2) (hs _ sy)⟩
theorem word_out {n w : Nat} {i : Instr} {smp : Samples} {s t : State} (h : Fr (WK n w i smp) False s t ∧ (i ≠ .call n smp → i ≠ .ret n smp → (t.veOf n).stack = (s.veOf n).stack)) :
    t.mem = s.mem ∧ OnlyMembers (fun k => WK n w i smp k) s t ∧ (i ≠ .call n smp → i ≠ .ret n smp → (t.veOf n).stack = (s.veOf n).stack) :=
  ⟨h.1.2 not_false, h.1.1, h.2⟩
theorem setAfter_st (n m : Nat) (x : After) (s0 s : State) (h : St n s0 s) : St n s0 (setAfter m x s) := modVe_keepsVeLand _ _ _ h (fun _ => rfl)
theorem loop_frame {n w a : Nat} {fresh : Bool} {smp : Samples} {s t : State} (g : Nat → Nat) (h : VeDecides n w a fresh s)
    (he : wordCommand n 3 smp (fun w _ _ _ s =>
      let v := g (s.rd (VEN.CTR n (wSel w)))
      setAfter n (if v = 0 then .seq else .goto (wOperand w)) (s.wr (VEN.CTR n (wSel w)) v)) s = .next t) :
    Fr (WK n w (.loop n smp) smp) False s t ∧ (Instr.loop n smp ≠ .call n smp → Instr.loop n smp ≠ .ret n smp → (t.veOf n).stack = (s.veOf n).stack) := by
  have r := word_frame (i := .loop n smp) h he (fun y fy _ => setAfter_fr _ _ _ (wr_fr fy _ _ (.inr (.inr (.inl ⟨.inr rfl, rfl⟩)))))
  exact ⟨r.1, fun _ _ => r.2 fun y h => setAfter_st _ _ _ _ _ h⟩
end RunFacts
open RunFacts
def EK (n : Nat) (s : State) (k : Nat) : Prop := k ∈ [VEN.PTO_LEFT n, VEN.FLAGS n, VEN.FAULT n, VEN.FAULT_PC n, VEN.LAND_CYCLE n, HDI.MIRROR_STATE,
        HDI.APPLY_OUTCOME, DBG.EVFLAGS, FCP.BM_DROP n, FCP.BM_FORMED n, FCP.REC_CAPPED n, FCP.REC_DROP_CAP n,
        FCP.REC_DROP_RING n, FCP.REC_FORMED n] ∨
      (∃ u, k = VEN.STATE u ∨ k = FCP.Q_EVFLAGS u ∨ k = FCP.STOPPED_BY u) ∨ ∃ l ∈ (s.veOf n).lands, ∃ e ∈ l.2, k = e.key
theorem foldl_ch {V : Nat → Prop} {M : Prop} {s0 : State} : ∀ (l : List Staged) (s : State), (∀ e ∈ l, V e.key) → Fr V M s0 s → Fr V M s0 (l.foldl (fun s e => s.wr e.key e.val) s)
  | [], _, _, h => h
  | e :: l, s, hk, h => by
    rw [List.foldl_cons]
    exact foldl_ch l _ (fun x hx => hk x (List.mem_cons_of_mem _ hx)) (wr_fr h _ _ (hk e (by simp)))
theorem close_ek {n th : Nat} {s0 s : State} (h : Fr (EK n s0) False s0 s) : Fr (EK n s0) False s0 (closeMark n th s) :=
  closeMark_fr n th s h (.inl (by simp)) (.inl (by simp)) (fun u => .inr (.inl ⟨u, by simp⟩)) (.inl (by simp)) (.inl (by simp)) (.inl (by simp)) (.inl (by simp)) (fun u => .inr (.inl ⟨u, by simp⟩))
theorem landTo_ek {n x b : Nat} {s0 s : State} (h : Fr (EK n s0) False s0 s) (hl : (s.veOf n).lands = (s0.veOf n).lands) : Fr (EK n s0) False s0 (landTo n x b s) := by
  unfold landTo
  split
  · dsimp only
    refine regrid_fr _ _ _ (wr_fr (siteNoted_fr _ _ _ _ (foldl_ch _ _ (fun e he => ?_) (modVe_fr _ _ _ ?_))) _ _ (.inl (by simp)))
    · unfold landsBy at he
      rw [List.mem_flatMap] at he
      obtain ⟨l, hm, he⟩ := he
      exact .inr (.inr ⟨l, by rw [← hl]; exact (List.mem_filter.mp hm).1, e, he, rfl⟩)
    · exact fr_ite (close_ek h) h
  · exact h
theorem landAll_ek {n b : Nat} {s0 s : State} (h : Fr (EK n s0) False s0 s) (hl : (s.veOf n).lands = (s0.veOf n).lands) : Fr (EK n s0) False s0 (landAll n b s) := landTo_ek h hl
theorem enter_ek {n m c : Nat} {s0 s : State} (h : Fr (EK n s0) False s0 s) : Fr (EK n s0) False s0 (veEnter m c s) :=
  veEnter_fr _ _ _ h (.inl (by simp)) (.inl (by simp)) (fun u => .inr (.inl ⟨u, by simp⟩))
theorem tail_ek {n b c : Nat} {s0 v : State} (h : Fr (EK n s0) False s0 v) (hl : (v.veOf n).lands = (s0.veOf n).lands) : Fr (EK n s0) False s0
    (let s := landAll n b v
     let s := parkEngine n b (suppressFrom n b s)
     let s := closeMark n (engEdge b) s
     let s := s.modVe n fun e => { e with haltAt := none, resumeAt := none, runOff := if veState n s = 3 then b else e.runOff }
     if c = 4 then veEnter n 4 s
     else
       let s := s.modVe n fun e => { e with stopAt := none, endAt := none, bar := none, barErr := none, ptoErr := none, offAt := b, stale := e.stale ++ e.inflight, inflight := [] }
       let s := s.setBit (VEN.FLAGS n) 6 false
       barrierLeft n b (veEnter n c (s.modTgt (1 + n) fun g => { g with pend := false, held := false, left := none }))) := by
  have h4 := modVe_fr _ n (fun e : VeRun => { e with haltAt := none, resumeAt := none, runOff := if veState n (closeMark n (engEdge b)
      (parkEngine n b (suppressFrom n b (landAll n b v)))) = 3 then b else e.runOff })
    (close_ek (th := engEdge b) (parkEngine_fr n b _ (suppressFrom_fr n b _ (landAll_ek (b := b) h hl))))
  exact fr_ite (enter_ek h4) (barrierLeft_fr _ _ _ (enter_ek (modTgt_fr _ _ _ (setBit_fr _ _ _ _ (modVe_fr _ _ _ h4) (.inl (by simp))))))
theorem stopAt_ek {n b c : Nat} {s0 s : State} (h : Fr (EK n s0) False s0 s) (hl : (s.veOf n).lands = (s0.veOf n).lands) : Fr (EK n s0) False s0 (veStopAt n b c s) := by
  unfold veStopAt
  have hu : Fr (EK n s0) False s0 (s.upto b) := upto_fr _ _ h
  have lu : ((s.upto b).veOf n).lands = (s0.veOf n).lands := hl
  refine tail_ek ?_ ?_
  · split
    · exact modVe_fr _ _ _ (wr_fr hu _ _ (.inl (by simp)))
    · exact hu
  · split
    · rw [veOf_modVe]; exact lu
    · exact lu
theorem fault_ek {n b c a : Nat} {s0 s : State} (h : Fr (EK n s0) False s0 s) (hl : (s.veOf n).lands = (s0.veOf n).lands) : Fr (EK n s0) False s0 (veFault n b c a s) := by
  unfold veFault
  exact raise_fr _ _ (stopAt_ek (wr_fr (wr_fr h _ _ (.inl (by simp))) _ _ (.inl (by simp))) hl)
theorem faultAt_ek (n b : Nat) (s : State) : Fr (EK n s) False s (faultAt n b s).1 ∧ ((faultAt n b s).1.veOf n).lands = (s.veOf n).lands := by
  refine ⟨faultAt_fr n b s (fr_refl s) (.inl (by simp)), ?_⟩
  have := decideNext_keepsVeLand (nn := n) (s0 := s) n (s.upto (b - 18 * ticksPerNs)) rfl
  unfold faultAt
  dsimp only
  split <;> exact congrArg (·.1) this
theorem done_ek {n : Nat} {s t : State} (h : Fr (EK n s) False s t) : t.mem = s.mem ∧ OnlyMembers (fun k => EK n s k) s t := ⟨h.2 not_false, h.1⟩
theorem end_ek {n b : Nat} {s : State} : Fr (EK n s) False s ((veStopAt n b 5 s).raise (64 + 2 * n)) := raise_fr _ _ (stopAt_ek (fr_refl s) rfl)
set_option Elab.async false in
theorem foldl_fr_mem {α : Type} {V : Nat → Prop} {M : Prop} {s0 : State} {f : State → α → State} : ∀ (l : List α) (s : State),
    (∀ x ∈ l, ∀ s, Fr V M s0 s → Fr V M s0 (f s x)) → Fr V M s0 s → Fr V M s0 (l.foldl f s)
  | [], _, _, h => h
  | x :: l, s, hf, h => foldl_fr_mem l _ (fun y hy => hf y (List.mem_cons_of_mem _ hy)) (hf x (by simp) s h)
end Sys2Proof.Laws.RunFrames
end

