-- ==== Sys2Proof/Laws/StoredBytes.lean ====
section
/-! SUPPORT. Which bytes of memory an access at a port, a response and a change of mode can change: lemmas that the proofs about the
bytes of Changes.stored cite. -/
namespace Sys2Proof.Laws.StoredBytes
open Sys2Proof Sys2Proof.Machine Sys2Proof.Laws

/-- Outside the bytes of P, memory reads in t as in s. -/
def Kp (P : Nat → Prop) (s t : State) : Prop := ∀ b, ¬P b → memByte t.mem b = memByte s.mem b
variable {P : Nat → Prop} {s t u : State}
theorem kp_refl (s : State) : Kp P s s := fun _ _ => rfl
theorem kp_mem (h : Kp P s t) (e : u.mem = t.mem) : Kp P s u := fun b hb => by rw [e]; exact h b hb
theorem kp_mono {Q : Nat → Prop} (h : Kp P s t) (hq : ∀ b, P b → Q b) : Kp Q s t := fun b hb => h b fun x => hb (hq b x)
theorem kp_store {a n v : Nat} (h : Kp P s t) (e : ∀ b, InSpan a n b → P b) : Kp P s (t.store a n v) := fun b hb => by
  show memByte (memWrite t.mem a n v) b = _
  rw [memByte_write_outside (by have : ¬ (a ≤ b ∧ b < a + n) := fun x => hb (e b x); omega)]
  exact h b hb
theorem kp_clear {a n : Nat} (h : Kp P s t) (e : ∀ b, InSpan a n b → P b) (hu : u.mem = memClear t.mem a n) : Kp P s u := fun b hb => by
  rw [hu, memByte_clear, if_neg (show ¬(a ≤ b ∧ b < a + n) from fun x => hb (e b x))]
  exact h b hb
theorem kp_foldl {α : Type} {f : State → α → State} (hf : ∀ u x, Kp P s u → Kp P s (f u x)) : ∀ {l : List α} {t : State}, Kp P s t → Kp P s (l.foldl f t)
  | [], _, h => h
  | x :: l, t, h => kp_foldl (l := l) hf (hf t x h)
theorem kp_foldl_mem {α : Type} {f : State → α → State} : ∀ {l : List α} {t : State} (_ : ∀ u x, x ∈ l → Kp P s u → Kp P s (f u x)), Kp P s t → Kp P s (l.foldl f t)
  | [], _, _, h => h
  | x :: l, t, hf, h => kp_foldl_mem (l := l) (fun u y hy => hf u y (List.mem_cons_of_mem _ hy)) (hf t x (List.mem_cons_self ..) h)
theorem kp_foldl_snd {α β : Type} {f : α × State → β → α × State} : ∀ {l : List β} {p : α × State} (_ : ∀ p x, x ∈ l → Kp P s p.2 → Kp P s (f p x).2), Kp P s p.2 → Kp P s (l.foldl f p).2
  | [], _, _, h => h
  | x :: l, p, hf, h => kp_foldl_snd (l := l) (fun u y hy => hf u y (List.mem_cons_of_mem _ hy)) (hf p x (List.mem_cons_self ..) h)
theorem of_fr (h : Fr (fun _ => True) False s t) : t.mem = s.mem := h.2 id
theorem ans_mem (r : MeshReq) (k d : Nat) (s : State) : (meshAnswer r k d s).mem = s.mem := rfl
theorem take_mem (b p c rank : Nat) (wr : Bool) (word v : Nat) (s : State) : (portTake b p c rank wr word v s).2.mem = s.mem := by
  apply of_fr; apply portTake_fr; all_goals first | exact fr_refl _ | trivial | (intros; trivial) | assumption | (simp only [forall_const]; done)
theorem pstall_mem (b p : Nat) (s : State) : (portStall b p s).mem = s.mem := by
  apply of_fr; apply portStall_fr; all_goals first | exact fr_refl _ | trivial | (intros; trivial) | assumption | (simp only [forall_const]; done)
theorem scr_mem (b k : Nat) (s : State) : (scrFlag b k s).mem = s.mem := by apply of_fr; apply scrFlag_fr; all_goals first | exact fr_refl _ | trivial | (intros; trivial) | assumption | (simp only [forall_const]; done)
theorem pan_mem (b k : Nat) (s : State) : (panFlag b k s).mem = s.mem := by apply of_fr; apply panFlag_fr; all_goals first | exact fr_refl _ | trivial | (intros; trivial) | assumption | (simp only [forall_const]; done)
theorem msh_mem (k : Nat) (s : State) : (mshFlag k s).mem = s.mem := by apply of_fr; apply mshFlag_fr; all_goals first | exact fr_refl _ | trivial | (intros; trivial) | assumption | (simp only [forall_const]; done)
theorem touch_mem (u : Nat) (r : MeshReq) (s : State) : (gatedTouch u r s).mem = s.mem := by apply of_fr; apply gatedTouch_fr; all_goals first | exact fr_refl _ | trivial | (intros; trivial) | assumption | (simp only [forall_const]; done)
/-- The bytes that a request would write. -/
def W (r : MeshReq) (b : Nat) : Prop := r.op = .write ∧ InSpan r.addr r.len b
theorem bank_kp {r : MeshReq} {b : Nat} {s t : State} (hl : ∀ i, r.op = .write → i < r.len / 8 → ∀ x, InSpan (wordAddr b (r.addr % 0x10000 / 8 + i)) 8 x → P x) (h : Kp P s t) : Kp P s (bankPerform b r t) := by
  unfold bankPerform
  have : Kp P s ((List.range (r.len / 8)).foldl (bankWord b r) (0, t)).2 := by
    apply kp_foldl_snd
    · intro p i hi hp
      unfold bankWord
      dsimp only
      have h1 : ∀ (c : Bool) (x : State), x.mem = p.2.mem → (if c then portStall b (1 - meshPort b) x else x).mem = p.2.mem := by
        intro c x hx; split
        · rw [pstall_mem, hx]
        · exact hx
      split
      · rename_i hw
        dsimp only
        split
        · exact kp_store (kp_mem hp (h1 _ _ (take_mem ..))) (hl i hw (List.mem_range.mp hi))
        · exact kp_mem hp (h1 _ _ (take_mem ..))
      · exact kp_mem hp (h1 _ _ (take_mem ..))
    · exact h
  dsimp only
  split
  · exact kp_mem this rfl
  · exact kp_mem this rfl
theorem serveBank_kp {r : MeshReq} {b : Nat} {ecc : List Ecc} {s t : State} (hl : ∀ i, r.op = .write → i < r.len / 8 → ∀ x, InSpan (wordAddr b (r.addr % 0x10000 / 8 + i)) 8 x → P x) (h : Kp P s t) : Kp P s (serveBank b ecc r t) := by
  unfold serveBank
  split
  · exact kp_mem h rfl
  · split
    · unfold bankTimeout; exact kp_mem h (by rw [ans_mem, scr_mem, Laws.bump_mem])
    · split
      · exact bank_kp hl h
      · have : Kp P s (if badWords [.ce] r ecc = 0 then t else scrFlag b 0 (t.addTo 64 (SCR.CE b) (badWords [.ce] r ecc))) := by
          split
          · exact h
          · exact kp_mem h (by rw [scr_mem]; rfl)
        dsimp only
        split
        · exact bank_kp hl this
        · exact kp_mem this (by rw [ans_mem, scr_mem]; rfl)
theorem pane_kp {r : MeshReq} {p : Nat} {ecc : List Ecc} {s t : State} (hl : ∀ x, W r x → P x) (h : Kp P s t) : Kp P s (panePerform p ecc r t) := by
  unfold panePerform
  have : Kp P s ((List.range (r.len / 8)).foldl (paneRow p r) (0, t)).2 := by
    apply kp_foldl_snd
    · intro y i hi hp
      have hi := List.mem_range.mp hi
      unfold paneRow
      dsimp only
      split
      · rename_i hw
        refine kp_store (kp_mem hp rfl) fun x hx => hl x ⟨of_decide_eq_true hw, ?_⟩
        unfold InSpan at hx ⊢
        omega
      · exact kp_mem hp rfl
    · exact h
  generalize (List.range (r.len / 8)).foldl (paneRow p r) (0, t) = z at this
  dsimp only
  generalize (if r.op = .read then badWords [.ce, .ue, .multi] r ecc else 0) = bad
  split
  · split
    · exact kp_mem this rfl
    · exact kp_mem this rfl
  · exact kp_mem h (by rw [ans_mem, pan_mem]; rfl)
theorem servePane_kp {r : MeshReq} {p : Nat} {ecc : List Ecc} {s t : State} (hl : ∀ x, W r x → P x) (h : Kp P s t) : Kp P s (servePane p ecc r t) := by
  unfold servePane
  split
  · exact kp_mem h rfl
  · split
    · exact kp_mem h rfl
    · exact pane_kp hl h
theorem perform_kp {r : MeshReq} {s t : State} (hl : ∀ x, W r x → P x) (h : Kp P s t) : Kp P s (performMem r t) := by
  unfold performMem
  split
  · rename_i hw
    exact kp_mem (kp_store h fun x hx => hl x ⟨hw, hx⟩) (ans_mem ..)
  · exact kp_mem h rfl
theorem serve_kp {r : MeshReq} {ecc : List Ecc} {s t : State} (hw : wellPlaced (destOf r.addr t) r = true) (hl : ∀ x, W r x → P x) (h : Kp P s t) : Kp P s (serve ecc r t) := by
  have hx : (destOf r.addr t).1 = 1 → ∀ i, r.addr % 8 = 0 → wordAddr (destOf r.addr t).2 (r.addr % 0x10000 / 8 + i) = r.addr + 8 * i := by
    intro h1 i h8
    have e1 : regionOf r.addr t = 1 := by
      unfold destOf at h1
      split at h1
      all_goals simp_all
    have e2 : (destOf r.addr t).2 = r.addr / 0x10000 % 64 := by unfold destOf; rw [e1]; rfl
    have e3 : 0x10000000000 ≤ r.addr ∧ r.addr < 0x10000400000 := by
      unfold regionOf at e1
      repeat' split at e1
      all_goals omega
    rw [e2]
    unfold wordAddr bankBase
    omega
  unfold serve
  dsimp only
  generalize destOf r.addr t = d at hw hx ⊢
  obtain ⟨k, m⟩ := d
  split
  · exact kp_mem h rfl
  · rename_i e
    dsimp only at e
    subst e
    have ff := CompleteMesh.fits_facts hw
    refine serveBank_kp (fun i ho hi x hxx => ?_) h
    rw [hx rfl i ff.2.2] at hxx
    refine hl x ⟨ho, ?_⟩
    unfold InSpan at hxx ⊢
    omega
  · exact servePane_kp hl h
  · split
    · exact kp_mem h rfl
    · exact perform_kp hl h
  · split
    · exact kp_mem h rfl
    · exact perform_kp hl h
  · exact h
theorem atPort_kp {r : MeshReq} {ecc : List Ecc} {s t : State} (hl : ∀ x, W r x → P x) (h : Kp P s t) : Kp P s (atPort ecc r t) := by
  unfold atPort
  dsimp only
  by_cases hw : wellPlaced (destOf r.addr t) r = false
  · rw [if_pos hw]; exact kp_mem h rfl
  rw [if_neg hw]
  rw [Bool.not_eq_false] at hw
  generalize (match gateOf (destOf r.addr t) with | some u => t.rd (CRH.GATE_STATE u) | none => 1) = gg
  split
  all_goals repeat' split
  all_goals first
    | with_reducible exact serve_kp hw hl h
    | (refine kp_mem h ?_; with_reducible exact touch_mem ..)
    | (refine kp_mem h ?_; exact rfl)
    | (refine kp_mem h ?_; rw [msh_mem]; rfl)
theorem held_kp {f : MeshReq → Bool} {s t : State} (hl : ∀ x, WrittenBy ((t.held ++ t.steal).filter fun w => f w.req) x → P x) (h : Kp P s t) : Kp P s (performHeld f t) := by
  unfold performHeld
  apply kp_foldl_mem
  · intro u w hw hu
    exact atPort_kp (fun x hx => hl x ⟨w, hw, hx⟩) hu
  · exact kp_mem h rfl
theorem up_mem (s : State) (e : Nat) : (s.upto e).mem = s.mem := by apply of_fr; apply upto_fr; all_goals first | exact fr_refl _ | trivial | (intros; trivial) | assumption | (simp only [forall_const]; done)

theorem reset_mem (p : Nat) (s : State) : (resetTaps p s).mem = s.mem := by apply of_fr; apply resetTaps_fr; all_goals first | exact fr_refl _ | trivial | (intros; trivial) | assumption | (simp only [forall_const]; done)
theorem dun_mem (d a b : Nat) (s : State) : (domainUnits d a b s).mem = s.mem := by apply of_fr; apply domainUnits_fr; all_goals first | exact fr_refl _ | trivial | (intros; trivial) | assumption | (simp only [forall_const]; done)
theorem crh_mem (b : Nat) (s : State) : (crhFlag b s).mem = s.mem := by apply of_fr; apply crhFlag_fr; all_goals first | exact fr_refl _ | trivial | (intros; trivial) | assumption | (simp only [forall_const]; done)
theorem pump_mem (b : Nat) (s : State) : (pumpBank b s).mem = s.mem := by apply of_fr; apply pumpBank_fr; all_goals first | exact fr_refl _ | trivial | (intros; trivial) | assumption | (simp only [forall_const]; done)
theorem mpump_mem (b : Nat) (s : State) : (movePump b s).mem = s.mem := by apply of_fr; apply movePump_fr; all_goals first | exact fr_refl _ | trivial | (intros; trivial) | assumption | (simp only [forall_const]; done)
theorem mlost_mem (b : Nat) (s : State) : (moveLost b s).mem = s.mem := by apply of_fr; apply moveLost_fr; all_goals first | exact fr_refl _ | trivial | (intros; trivial) | assumption | (simp only [forall_const]; done)
theorem mtake_mem (n b : Nat) (wr : Bool) (word v : Nat) (s : State) : (moverTake n b wr word v s).2.mem = s.mem := by apply of_fr; apply moverTake_fr; all_goals first | exact fr_refl _ | trivial | (intros; trivial) | assumption | (simp only [forall_const]; done)
theorem mans_mem (n : Nat) (x : MeshResp) (s : State) : (moveAnswered n x s).mem = s.mem := by apply of_fr; apply moveAnswered_fr; all_goals first | exact fr_refl _ | trivial | (intros; trivial) | assumption | (simp only [forall_const]; done)
theorem note_mem (fl : List Flit) (x : MeshResp) (s : State) : (noteReturn fl x s).mem = s.mem := by apply of_fr; apply noteReturn_fr; all_goals first | exact fr_refl _ | trivial | (intros; trivial) | assumption | (simp only [forall_const]; done)
theorem disc_mem (p : Nat) (s : State) : (discardQueue p s).mem = s.mem := by apply of_fr; apply discardQueue_fr; all_goals first | exact fr_refl _ | trivial | (intros; trivial) | assumption | (simp only [forall_const]; done)
theorem unit_next {n k : Nat} {t x : State} (h : unitCmd n k t = .next x) : x = t := by
  unfold unitCmd at h
  split at h
  · exact (Host.Outcome.next.inj h).symm
  · cases h
theorem mode_kp {p v : Nat} (hl : ∀ x, InSpan (paneBase p) 0x2000 x → P x) (h : Kp P s t) : Kp P s (paneModeEff p v t) := by
  unfold paneModeEff queueLeft
  split
  · exact h
  · split
    · exact kp_mem (kp_store (v := (discardQueue p t).freeVal) (kp_mem h (disc_mem p t)) hl) (by simp)
    · exact kp_mem (kp_mem h (disc_mem p t)) (by simp)
theorem finish_kp {q : Req} {op o m st len d : Nat} {eff : State → State} (h : ∀ u, Kp P s u → Kp P s (eff u)) (g : Kp P s t) : Kp P s (finish q op o m st len d eff t) := by
  have r : ∀ (st len d : Nat) (u : State), (respond q op o m st len d u).mem = u.mem := by
    intro st len d u; apply of_fr; apply respond_fr; all_goals first | exact fr_refl _ | trivial | (intros; trivial) | assumption | (simp only [forall_const]; done)
  unfold finish
  split
  · exact g
  · split
    · dsimp only
      refine kp_mem (h _ g) ?_
      rw [r]
      split
      · apply of_fr; apply restartLease_fr; all_goals first | exact fr_refl _ | trivial | (intros; trivial) | assumption | (simp only [forall_const]; done)
      · rfl
    · exact kp_mem g (r ..)
theorem lineDone_kp {n line : Nat} {x : MeshResp} (h : Kp P s t)
    (hl : x.kind = 0 → ∀ b, InSpan (bufAddr n + 256 * slotFor n line ((respTaken x t).bump 64 (VEN.REFILL_DONE n))) 256 b → P b) : Kp P s (lineDone n line x t) := by
  unfold lineDone
  extract_lets s1 slot s2 s3
  have h1 : Kp P s s1 := kp_mem h rfl
  split
  · exact kp_mem h1 rfl
  · have h2 : Kp P s s2 := by
      show Kp P s (ite _ _ _)
      split
      · rename_i hk
        exact kp_store (v := x.data) h1 (hl hk)
      · exact h1
    have h3 : Kp P s s3 := kp_mem h2 rfl
    split
    · exact kp_mem h3 rfl
    · exact h3
theorem moveDone_kp {n : Nat} {x : MeshResp} (h : Kp P s t)
    (hl : x.kind = 0 → ∀ m rest e i, ((moveAnswered n x t).dspOf n).moves = m :: rest →
      m.wait.find? (fun e => decide (e.1 = x.req)) = some e → i < x.req.len / 8 → ∀ b, 
      InSpan (wordAddr (bankIn m.elem) (moveWordNo m (e.2 + 8 * i))) 8 b → P b) : Kp P s (moveDone n x t) := by
  unfold moveDone
  extract_lets s1
  have h1 : Kp P s s1 := kp_mem h (mans_mem ..)
  split
  · rename_i m rest hm
    split
    · rename_i e he
      extract_lets g s2 s3
      have h2 : Kp P s s2 := by
        show Kp P s (ite _ _ _)
        split
        · exact h1
        · rename_i hc
          apply kp_foldl_mem
          · intro u i hi hu
            unfold moveStore
            extract_lets b v pt
            have h3 : Kp P s pt.2 := kp_mem hu (mtake_mem ..)
            split
            · exact kp_store h3 (hl (by by_contra hk; exact hc (.inr (.inl hk))) m rest e i hm he (List.mem_range.mp hi))
            · exact h3
          · exact h1
      have h3 : Kp P s s3 := kp_mem h2 rfl
      split
      · exact kp_mem h3 (mlost_mem ..)
      · exact kp_mem h3 (mpump_mem ..)
    · exact h1
  · exact h1
theorem respDone_kp {x : MeshResp} (h : Kp P s t) (hl : ∀ b, storedBack x t b → P b) : Kp P s (respDone x t) := by
  unfold storedBack at hl
  unfold respDone
  split
  · refine kp_mem h ?_; apply of_fr; apply meshDataDone_fr <;> first | (apply respTaken_fr; exact fr_refl _) | skip
    all_goals first | exact fr_refl _ | trivial | (intros; trivial) | assumption | (simp only [forall_const]; done)
  · refine kp_mem h ?_; apply of_fr; apply meshDataDone_fr <;> first | (apply respTaken_fr; exact fr_refl _) | skip
    all_goals first | exact fr_refl _ | trivial | (intros; trivial) | assumption | (simp only [forall_const]; done)
  · rename_i n line ho
    rw [ho] at hl
    exact lineDone_kp h fun hk b hb => hl b ⟨hk, hb⟩
  · refine kp_mem h ?_; apply of_fr; apply ringWriteDone_fr; all_goals first | exact fr_refl _ | trivial | (intros; trivial) | assumption | (simp only [forall_const]; done)
  · refine kp_mem h ?_; apply of_fr; apply ringAnswered_fr; all_goals first | exact fr_refl _ | trivial | (intros; trivial) | assumption | (simp only [forall_const]; done)
  · refine kp_mem h ?_; apply of_fr; apply bitmapDone_fr; all_goals first | exact fr_refl _ | trivial | (intros; trivial) | assumption | (simp only [forall_const]; done)
  · refine kp_mem h ?_; apply of_fr; apply facetDone_fr; all_goals first | exact fr_refl _ | trivial | (intros; trivial) | assumption | (simp only [forall_const]; done)
  · rename_i n k ho
    rw [ho] at hl
    split
    · refine kp_mem h ?_; apply of_fr; apply gateDone_fr <;> first | (apply respTaken_fr; exact fr_refl _) | skip
      all_goals first | exact fr_refl _ | trivial | (intros; trivial) | assumption | (simp only [forall_const]; done)
    · rename_i hk8
      refine moveDone_kp (kp_mem h rfl) fun hk m rest e i hm he hi b hb => hl b ⟨hk, hk8, m, rest, e, i, hm, he, hi, hb⟩
  · refine kp_mem h ?_; apply of_fr; apply moveAnswered_fr <;> first | (apply respTaken_fr; exact fr_refl _) | skip
    all_goals first | exact fr_refl _ | trivial | (intros; trivial) | assumption | (simp only [forall_const]; done)
  · refine kp_mem h ?_; apply of_fr; apply laneDone_fr <;> first | (apply respTaken_fr; exact fr_refl _) | skip
    all_goals first | exact fr_refl _ | trivial | (intros; trivial) | assumption | (simp only [forall_const]; done)
  · refine kp_mem h ?_; apply of_fr; apply streamDone_fr <;> first | (apply respTaken_fr; exact fr_refl _) | skip
    all_goals first | exact fr_refl _ | trivial | (intros; trivial) | assumption | (simp only [forall_const]; done)
  · refine kp_mem h ?_; apply of_fr; apply cryptoDone_fr; all_goals first | exact fr_refl _ | trivial | (intros; trivial) | assumption | (simp only [forall_const]; done)
  · refine kp_mem h ?_; apply of_fr; apply flpDone_fr; all_goals first | exact fr_refl _ | trivial | (intros; trivial) | assumption | (simp only [forall_const]; done)
  · refine kp_mem h ?_; apply of_fr; apply reloadDone_fr; all_goals first | exact fr_refl _ | trivial | (intros; trivial) | assumption | (simp only [forall_const]; done)
  · exact kp_mem h rfl
theorem deliver_kp {k : Nat} {r : MeshReq} {fl : List Flit} (hl : ∀ b x, s.resps.find? (fun x => decide (x.req = r) && Nat.beq x.kind k) = some x → storedBack (arrived fl x s) (noteReturn fl x s) b → P b) : Kp P s (deliver k r fl s) := by
  unfold deliver
  split
  · rename_i x hx
    unfold returnBy
    split
    · exact respDone_kp (kp_mem (kp_refl s) (note_mem ..)) fun b hb => hl b x hx hb
    · exact kp_refl _
  · exact kp_refl _
theorem back_kind {fl : List Flit} {x : MeshResp} {s u : State} {b : Nat} (h : storedBack (arrived fl x s) u b) : x.kind = 0 := by
  have := h.1
  unfold arrived at this
  split at this
  · cases this
  · exact this
theorem fail_mem (c a : Nat) (s : State) : (loadFail c a s).mem = s.mem := by apply of_fr; apply loadFail_fr; all_goals first | exact fr_refl _ | trivial | (intros; trivial) | assumption | (simp only [forall_const]; done)

end Sys2Proof.Laws.StoredBytes
end

