-- ==== Sys2Proof/Tests/Slice0.lean ====
section
/-! SUPPORT. Tests of the model: the checks of well-formedness each refuse a term, steps on small states give what the manual
says, and for every statement with hypotheses a concrete state and operands meet them, clause by clause. -/
set_option Elab.async false
namespace Sys2Proof.Tests
open Sys2Proof Sys2Proof.Machine

/-! States. -/

/-- The I3C port as a master. -/
def host : Req := .of 0 1
/-- The debug port as a master. -/
def port : Req := .of 9 1
/-- The part with the given members. -/
def having (l : List (Nat × Nat)) : State := l.foldl (fun s e => s.wr e.1 e.2) State.reset
/-- The part after SUP_READY, with valid network time and the given members (02 R54). -/
def up (l : List (Nat × Nat)) : State := having ((HDI.STATUS, 0x1F) :: l)
/-- up, with level 3 and the vendor session at the I3C port. -/
def trusted (l : List (Nat × Nat)) : State :=
  let s := (up l).modMaster 0 fun m => { m with level := 3 }
  { s with dbg := { s.dbg with vendor := some 0 } }
/-- A mesh request of 8 bytes from node 0. -/
def ask (op : MeshOp) (own : Owner) (a : Nat) : MeshReq := ⟨op, own, 0, 3, a, 8, 0x55⟩
/-- VE0 RUNNING at word 0 of its vector buffer, which holds w (04 R119). -/
def running (w : Nat) (l : List (Nat × Nat)) : State :=
  { up ((VEN.STATE 0, 3) :: (VEN.BUF_MODE 0, 2) :: l) with
    mem := memWrite [] (bufAddr 0) 16 w
    ve := [(0, { base := 1000 * 8192 })] }
/-- The request is under way. -/
def sent (r : MeshReq) (s : State) : State := { s with reqs := [r] }
/-- The request is answered with a response of the kind. -/
def answered (r : MeshReq) (kind : Nat) (s : State) : State := { s with resps := [⟨r, kind, 0x55⟩] }
/-! Well-formed commands: a term for each check, which the check refuses. -/

theorem test_wf_master : Instr.wf (.dictRead (.of 10 1) 0 0 0 0) = false := by decide
theorem test_wf_tag : Instr.wf (.dictRead (.of 0 256) 0 0 0 0) = false := by decide
theorem test_wf_form : Instr.wf (.dictRead { host with rsv := 256 } 0 0 0 0) = false := by decide
theorem test_wf_operation : Instr.wf (.dictRead { host with op := some 3 } 0 0 0 0) = false := by decide
theorem test_wf_mesh_master : Instr.wf (.dictRead { Req.of 16 0 with rsv := 1 } 0 0 0 0) = false := by decide
theorem test_wf_object : Instr.wf (.dictWrite host 0x10000 0 1 0) = false := by decide
theorem test_wf_value : Instr.wf (.dictWrite host 0x7100 1 1 0x100) = false := by decide
theorem test_wf_length : Instr.wf (.dictWrite host 0x30 1 2049 0) = false := by decide
theorem test_wf_bus_address : Instr.wf (.getpid 128) = false := by decide
theorem test_wf_broadcast : Instr.wf (.enec (some 128) 1) = false := by decide
theorem test_wf_engine : Instr.wf (.veEnable host 32) = false := by decide
theorem test_wf_samples : Instr.wf (.vec 0 ⟨2 ^ 64, []⟩) = false := by decide
theorem test_wf_changes : Instr.wf (.vec 0 ⟨0, [(64, 1)]⟩) = false := by decide
theorem test_wf_symbols : Instr.wf (.prbsChecker 0 [4]) = false := by decide
theorem test_wf_straps : Instr.wf (.nresetRise 8) = false := by decide
theorem test_wf_cell : Instr.wf (.cellAdd 0 512) = false := by decide
theorem test_wf_upset : Instr.wf (.configUpset ⟨0, 6, 0, 0, 0, .other⟩) = false := by decide
theorem test_wf_mesh_length : Instr.wf (.meshRead { ask .read (.mesh 0 0) 0 with len := 12 } [] []) = false := by decide
theorem test_wf_flit : Instr.wf (.meshWrite (ask .write (.mesh 0 0) 0) [.poisoned 64]) = false := by decide
theorem test_wf_trims : Instr.wf (.focusChannelEnd 0 (some ⟨2 ^ 16, 0, 0, 0, []⟩)) = false := by decide
theorem test_wf_board : Instr.wf (.por ⟨0, 0, []⟩) = false := by decide
theorem test_wf_flash : Instr.wf (.autoLoad ⟨true, true, false, false, true, true, 33, []⟩) = false := by decide
theorem test_wf_manifest : Instr.wf (.manifestFrame ⟨0, [], 2 ^ 48, 0, false⟩) = false := by decide
theorem test_wf_cell_frame : Instr.wf (.cellFrame [⟨[], false, false, 0, 0#16, 0#16, 0#16⟩]) = false := by decide
theorem test_wf_accepts : Instr.wf (.veEnable host 31) = true := by decide

/-! One step each, with results from the manual. -/

/-- The reply to master m in the state answered by the outcome. -/
def reply (m : Nat) : Out → Option Resp
  | .next t => some (t.masterOf m).resp
  | _ => none

-- 0000:01 of chapter 02: the part name, first letter first.
theorem test_ident : reply 0 (exec (.dictRead host 0 1 0 0) (up [])) = some ⟨0, 1, 1, 0, 1, 8, 0x303437372D46584F⟩ := by decide
-- 00 R5.
theorem test_no_such_object : (reply 0 (exec (.dictRead host 0xFFFF 0 0 0) (up []))).map Resp.status = some 0x01 := by decide
-- 00 R3.
theorem test_little_endian : memRead (memWrite [] 64 2 0x1234) 64 1 = 0x34 := by decide
-- The example of chapter 01 on addresses.
theorem test_pane_address : paneBase 100 = 0x101000C8000 := by decide
theorem test_buffer_address : bufAddr 2 = 0x10200040000 := by decide
-- Log entry 1: the command at the front of the queue runs.
theorem test_step_takes_front : step { State.reset with pending := [.wdogRestart, .mapForm] } =
    exec .wdogRestart { State.reset with pending := [.mapForm] } := rfl
-- The table of 05 R144.
theorem test_add_carries : cellOp 0x01 0xFFFF#16 0#16 true 0#16 = (0#16, true) := by decide
theorem test_sub_orders : cellOp 0x02 3#16 5#16 true 0#16 = (0xFFFE#16, false) := by decide
theorem test_shl1_takes_carry : cellOp 0x08 0x8000#16 0#16 true 0#16 = (1#16, true) := by decide
theorem test_brev : cellOp 0x0C 1#16 0#16 false 0#16 = (0x8000#16, false) := by decide
theorem test_bsel_mask_is_k : cellOp 0x0D 0x1234#16 0xABCD#16 false 0xFF00#16 = (0x12CD#16, false) := by decide
theorem test_cntk_wraps : cellOp 0x10 7#16 0#16 true 7#16 = (0#16, true) := by decide
theorem test_max_unsigned : cellOp 0x12 0x8000#16 1#16 false 0#16 = (0x8000#16, true) := by decide
theorem test_reserved_op : cellOp 0x13 5#16 5#16 true 5#16 = (0#16, false) := by decide
-- 12 R329 names the CRC of IEEE 802.3, whose value for the letter a is this one.
theorem test_crc : crc32 0x61 1 = 0xE8B7BE43 := by decide

/-! Hash, cipher and tag: the digest of "abc" of FIPS 180-4, a HMAC-SHA256 computed by another implementation, the AES-256 block of
FIPS 197 C.3, and the plaintext and tag of a published AES-256-GCM vector. -/

theorem test_sha256 : sha256 0x636261 3 = 0xad1500f261ff10b49c7a1796a36103b02322ae5dde404141eacf018fbf1678ba := by decide +kernel
theorem test_hmac256 : hmac256 0x1f1e1d1c1b1a191817161514131211100f0e0d0c0b0a09080706050403020100
    0x3f676e6968746f6e20726f6620746e6177206179206f642074616877 28 =
    0x6ad3be4423313802e231ae20b46208c55c51db98c0658596860731acf4059809 := by decide +kernel
theorem test_aes256 : aesBlock (aesKeys 0x1f1e1d1c1b1a191817161514131211100f0e0d0c0b0a09080706050403020100)
    0xffeeddccbbaa99887766554433221100 = 0x8960494b9049fceabf456751cab7a28e := by decide +kernel
theorem test_gcm_plaintext : gcmPlain 0x8833067948f6a6d1c73658692e9fffe08833067948f6a6d1c73658692e9fffe 0xcafebabefacedbaddecaf888
    0x62f6c9bc0a7aba93631ef6c538888256108bb0a73dbb0d59488eb08caad15525bda29875c9c0e5bfdc8c3a647d42842aa3377ff4077d5699f0c12d52 60 =
    0x397b63ba57e60daaf5ed6ab125b5a649240ecf2f53096895950c3c1c728a318a3d304c2edaf7341553a9a7869a26f5afc50959a5e50684f8253231d9 := by
  decide +kernel
theorem test_gcm_tag : gcmTag 0x8833067948f6a6d1c73658692e9fffe08833067948f6a6d1c73658692e9fffe 0xcafebabefacedbaddecaf888
    0xd2daadabefbeaddecefaedfeefbeaddecefaedfe 20
    0x62f6c9bc0a7aba93631ef6c538888256108bb0a73dbb0d59488eb08caad15525bda29875c9c0e5bfdc8c3a647d42842aa3377ff4077d5699f0c12d52 60 =
    0x1b552dbb5388dfcd68174e0fce6efc76 := by decide +kernel

/-! Hypotheses of the statements, met by a state and operands. -/

theorem meets_StepRunsFrontCommand : (∃ c rest, { State.reset with pending := [.wdogRestart] }.pending = c :: rest) ∧
    State.reset.pending = [] := ⟨⟨_, _, rfl⟩, rfl⟩

theorem meets_TimeAndQueue : Canon (up []) ∧ ∃ t, exec .wdogRestart (up []) = .next t := by
  refine ⟨?_, _, rfl⟩; unfold Canon; decide

theorem meets_StepKeepsCanonical : Canon (up []) ∧ ∃ t, step (up []) = .next t := by
  refine ⟨?_, _, rfl⟩; unfold Canon; decide

theorem meets_EveryCommandCompletes : Instr.wf (.veEnable host 31) = true ∧
    ∃ f, exec (.veEnable host 32) State.reset = .fault f := ⟨by decide, _, rfl⟩

theorem meets_ControlFrames : ∃ c t, changesControl .wdogRestart = some c ∧ exec .wdogRestart (up []) = .next t := ⟨_, _, rfl, rfl⟩
theorem meets_EngineFrames : ∃ c t, changesEngines (.veEnable host 0) = some c ∧ exec (.veEnable host 0) (up []) = .next t :=
  ⟨_, _, rfl, rfl⟩
theorem meets_DataFrames : ∃ c t, changesData .mapForm = some c ∧ exec .mapForm (up []) = .next t := ⟨_, _, rfl, rfl⟩

/-- The decision gives word w at address a, which begins with this cycle. -/
def wordIs (w a : Nat) : Decided → Bool
  | .word x b f => Nat.beq x w && Nat.beq b a && f
  | .fault _ _ => false

theorem decides (w a : Nat) (s : State) (h0 : issuing 0 s = true) (h : blocked 0 (veBoundary 0 s) s = false)
    (hw : wordIs w a (decideNext 0 (s.upto (veBoundary 0 s - 18 * ticksPerNs))).2 = true) : VeDecides 0 w a true s := by
  refine ⟨by decide, h0, h, (decideNext 0 (s.upto (veBoundary 0 s - 18 * ticksPerNs))).1, Prod.ext rfl ?_⟩
  revert hw; generalize (decideNext 0 (s.upto (veBoundary 0 s - 18 * ticksPerNs))).2 = d
  cases d <;> simp [wordIs]; rintro rfl rfl rfl; simp

/-- The members of a state in which VE0 may start: EO0 mapped to it, its program in the vector buffer. -/
def ready : List (Nat × Nat) := [(VEN.STATE 0, 1), (VEN.BUF_MODE 0, 2), (0x850000, 0)]

theorem meets_EngineRunFrames :
    (VeDecides 0 0 0 true (running 0 []) ∧ ∃ t, exec (.vec 0 {}) (running 0 []) = .next t) ∧
    (∃ t, exec (.veHaltTakesEffect 0) ((running 0 []).modVe 0 fun e => { e with haltAt := some 0 }) = .next t) ∧
    (let s := (running 0 []).modVe 0 fun e => { e with endAt := some 0 };
      veState 0 s = 3 ∧ (s.veOf 0).endAt.isSome = true ∧ ∃ t, exec (.veHaltWord 0 {}) s = .next t) ∧
    ∃ t, exec .apply (up [(HDI.MIRROR_STATE, 5)]) = .next t :=
  ⟨⟨decides _ _ _ (by decide) (by decide) (by decide), _, rfl⟩, ⟨_, rfl⟩, ⟨by decide, by decide, _, rfl⟩, _, rfl⟩

theorem meets_DspRegisterFrames : ∃ t, exec (.dspNop 0) (up [(DSP.STATE 0, 2)]) = .next t := ⟨_, rfl⟩

theorem meets_FirstStatusInOrder : (∀ c ∈ [(true, 7)], c.2 ∈ [1, 2, 3, 0xC, 4, 0xA, 5, 7, 6, 8, 0xB, 9]) ∧
    statusOf host 1 0 3 0 0 0 [(true, 7)] (up []) = 7 ∧ statusOf host 1 0 3 0 0 0 [(false, 7)] (up []) = 0 ∧
    (let s := (up []).modI3c fun i => { i with mrl := 8 };
      statusOf host 1 0 3 0 0 2 [] s = 3 ∧ responseLong host 2 s = true) := by decide

theorem meets_RefusedAccessChangesNothing :
    (let s := (up []).modI3c fun i => { i with bus := .ignore };
      requestOf (.veEnable host 0) = some host ∧ deaf host s = true ∧ ∃ t, exec (.veEnable host 0) s = .next t) ∧
    (deaf host (up [(VEN.STATE 0, 1)]) = false ∧ (up [(VEN.STATE 0, 1)]).crh.inReset = false ∧
      ∃ t, exec (.veEnable host 0) (up [(VEN.STATE 0, 1)]) = .next t ∧ (t.masterOf 0).resp.status ≠ 0) :=
  ⟨⟨rfl, by decide, _, rfl⟩, by decide, by decide, _, rfl, by decide⟩

/-- A part whose mirror holds one staged member, VEN.SITE_TAG of VE0, for the I3C port, in state st. -/
def staged (st : Nat) : State :=
  (up [(HDI.MIRROR_OWNER, 0), (HDI.MIRROR_STATE, st)]).modMirror fun m => { m with batch := [⟨VEN.SITE_TAG 0, 1, 7⟩] }

theorem meets_StagedReadAndDrop :
    (host.master < 9 ∧ (ownerCond host (staged 1)).1 = false) ∧
    (stagedAt (VEN.SITE_TAG 0) (staged 1) = some ⟨VEN.SITE_TAG 0, 1, 7⟩ ∧ Served host 4 (VEN.SITE_TAG 0) 0 0 (staged 1) ∧
      responseLong host 1 (staged 1) = false) ∧
    (stagedAt (VEN.SITE_TAG 1) (staged 1) = none ∧ Served host 4 (VEN.SITE_TAG 1) 0 0 (staged 1)) ∧
    (Served host 5 (VEN.SITE_TAG 0) 0 0 (staged 1) ∧ Served host 5 (VEN.SITE_TAG 1) 0 0 (staged 1) ∧
      responseLong host 0 (staged 1) = false ∧ ∀ c ∈ mdropConds host (staged 1), c.1 = false) := by
  simp only [Served]; decide

/-- The gate and the power domain of the unit of a request, as far as it has one, are open. -/
theorem arrives {op : MeshOp} {r : MeshReq} {s : State} (h : r.op = op ∧ regionOf r.addr s < 5 ∧ canArrive r s = true ∧
    ((gateOf (destOf r.addr s)).all fun u => decide (s.rd (CRH.GATE_STATE u) = 1)) = true ∧
    ((domainOf (destOf r.addr s)).all fun d => decide (s.rd (CRH.PWR_STATE d) = 3)) = true) : Arrives op r s := by
  obtain ⟨h1, h2, h3, h4, h5⟩ := h
  refine ⟨h1, h2, h3, fun u hu => ?_, fun d hd => ?_⟩
  · rw [hu] at h4; simpa using h4
  · rw [hd] at h5; simpa using h5

/-- An instruction memory's first word, of DSP0. -/
def imem : Nat := 0x10300000000

theorem meets_DspMemoryAccess :
    (∀ r s, Unpoisoned [.corrected 0] r s) ∧
    (let r := ask .read (.mesh 0 0) imem;
      Arrives .read r (sent r (up [])) ∧ destOf r.addr (sent r (up [])) = (4, 0) ∧ fits r 0x4000 = true) ∧
    (let r := ask .write (.mesh 0 0) imem;
      Arrives .write r (sent r (up [])) ∧ destOf r.addr (sent r (up [])) = (4, 0) ∧ fits r 0x4000 = true ∧
      dspStopped 0 (sent r (up [])) = true) ∧
    (let r := ask .write (.mesh 0 0) (imem + 0x4000 * 31 + 0x3FF8);
      Arrives .write r (sent r (up [(DSP.STATE 31, 2)])) ∧ destOf r.addr (sent r (up [(DSP.STATE 31, 2)])) = (4, 31) ∧
      fits r 0x4000 = true ∧ dspStopped 31 (sent r (up [(DSP.STATE 31, 2)])) = false) := by
  exact ⟨fun _ _ => rfl, ⟨arrives (by decide), by decide, by decide⟩, ⟨arrives (by decide), by decide, by decide, by decide⟩,
    arrives (by decide), by decide, by decide, by decide⟩

theorem meets_GatedTouches : ∀ op ∈ [MeshOp.read, .write, .orw], ∀ len ∈ [8, 12],
    let r := { ask op (.mesh 0 0) imem with len := len }
    let s := sent r (up [(CRH.GATE_STATE 64, 0)])
    Unpoisoned [] r s ∧ regionOf r.addr s < 5 ∧ canArrive r s = true ∧ gateOf (destOf r.addr s) = some 64 ∧
      s.rd (CRH.GATE_STATE 64) = 0 ∧ r.op = op ∧ (wellPlaced (destOf r.addr s) r = true ↔ op ≠ .orw ∧ len = 8) := by
  simp only [Unpoisoned]; decide

/-- OR-writes that a gated unit takes: those of a memory controller. -/
theorem meets_GatedTouches_or : let r := ask .orw (.mesh 0 0) 0; let s := sent r (up [(DMC.MAP_STATE, 1), (DMC.INSTALLED, 2 ^ 30), (DMC.WAYS, 1),
      (DMC.STATE 0, 3), (CRH.GATE_STATE 0xA0, 0)])
    Unpoisoned [] r s ∧ regionOf r.addr s < 5 ∧ canArrive r s = true ∧ gateOf (destOf r.addr s) = some 0xA0 ∧
      s.rd (CRH.GATE_STATE 0xA0) = 0 ∧ r.op = .orw ∧ wellPlaced (destOf r.addr s) r = true := by
  simp only [Unpoisoned]; decide

/-- DRAM mapped over the first 2^j controllers, with the given members (09 R254). -/
def mapped (j : Nat) (l : List (Nat × Nat)) : State :=
  up ([(DMC.MAP_STATE, 1), (DMC.INSTALLED, 2 ^ 30), (DMC.WAYS, 2 ^ j)] ++ (List.range (2 ^ j)).map (fun n => (DMC.STATE n, 3)) ++ l)

theorem meets_GranulesRotate : ∀ j, j ≤ 2 → (mapped j []).rd DMC.WAYS = 2 ^ j ∧ (ways (mapped j [])).length = 2 ^ j ∧
    regionOf (2 ^ 30 - 1) (mapped j []) = 0 ∧ regionOf 0 (mapped j []) = 0 ∧ regionOf (0 + 256 * 4) (mapped j []) = 0 := by decide

theorem meets_MemoryReadsBack : Memory.wf [] ∧ memWrite [] 7 2 0x0100 = [(8, 1)] := by decide

theorem meets_DebugReadsChangeNothing : port.master = 9 ∧ deaf port (up []) = false ∧
    (Dict.find (SUP.LOG_POP / 256) (SUP.LOG_POP % 256)).map (·.acc) = some .rc ∧ (∃ t, exec (.logPop port) (up []) = .next t) ∧
    ∃ t, exec (.pop port 0) (up []) = .next t := ⟨rfl, by decide, by decide, ⟨_, rfl⟩, _, rfl⟩

theorem meets_VeCommandsComplete :
    (Writes host (VEN.CTRL 0) 1 1 (up []) ∧ veState 0 (up []) = 0) ∧
    (∀ st ∈ [1, 5, 6], Writes host (VEN.CTRL 31) 1 2 (up [(VEN.STATE 31, st)]) ∧ veState 31 (up [(VEN.STATE 31, st)]) = st ∧
      Writes host (VEN.CTRL 31) 1 9 (up [(VEN.STATE 31, st)])) ∧
    (Writes host (VEN.CTRL 0) 1 3 (up ready) ∧ ∀ c ∈ veStartConds 0 (up ready), c.1 = false) ∧
    (let s := up ((VEN.START_AT 0, 2 ^ 64) :: ready); Writes host (VEN.CTRL 0) 1 4 s ∧ ∀ c ∈ veStartAtConds 0 s, c.1 = false) ∧
    (∀ st ∈ [3, 4], let s := up [(VEN.STATE 0, st)]; Writes host (VEN.CTRL 0) 1 (st + 2) s ∧ Writes host (VEN.CTRL 0) 1 7 s ∧
      veState 0 s = st ∧ (s.veOf 0).stopAt = none) ∧
    (let s := (up [(VEN.STATE 0, 2)]).modVe 0 fun e => { e with prior := 1 };
      Writes host (VEN.CTRL 0) 1 7 s ∧ veState 0 s = 2 ∧ (s.veOf 0).prior ≠ 2) ∧
    (Writes host (VEN.CTRL 0) 1 8 (up [(VEN.STATE 0, 6)]) ∧ veState 0 (up [(VEN.STATE 0, 6)]) = 6) := by
  simp only [Writes, Served]; decide

/-- A state in which VE0 takes the word of operation code o: a return address stands, and a loop is open for MATCH. -/
def words (o : Nat) : State := (running (o * 2 ^ 122) []).modVe 0 fun e => { e with
  stack := [5], loop := if o = 10 then some ⟨0, 9, 1, []⟩ else none }

theorem meets_VeWordsComplete : ∀ o, o < 14 → VeDecides 0 (o * 2 ^ 122) 0 true (words o) ∧ wOpc (o * 2 ^ 122) = o := by
  have h : ∀ o, o < 14 → issuing 0 (words o) = true ∧ blocked 0 (veBoundary 0 (words o)) (words o) = false ∧
      wordIs (o * 2 ^ 122) 0 (decideNext 0 ((words o).upto (veBoundary 0 (words o) - 18 * ticksPerNs))).2 = true ∧
      wOpc (o * 2 ^ 122) = o := by decide
  exact fun o ho => ⟨decides _ _ _ (h o ho).1 (h o ho).2.1 (h o ho).2.2.1, (h o ho).2.2.2⟩

theorem meets_VeEventsComplete :
    (veState 0 (up [(VEN.STATE 0, 2)]) = 2 ∧ startEdge 0 ((up [(VEN.STATE 0, 2)]).modVe 0 fun e => { e with armKind := 1, start := some 8192 }) = some 8192) ∧
    (veState 0 (up [(VEN.STATE 0, 7)]) = 7 ∧ ((up [(VEN.STATE 0, 7)]).veOf 0).prior ≠ 2) ∧
    (let s := (running 0 []).modVe 0 fun e => { e with barErr := some 0 };
      endsAt 0 (veBoundary 0 s) s = true ∧ due (s.veOf 0).barErr (veBoundary 0 s) = true ∧ (s.veOf 0).lands = []) ∧
    (let s := (running 0 []).modVe 0 fun e => { e with ptoEnd := some 0 };
      endsAt 0 (veBoundary 0 s) s = true ∧ timedFault 0 (veBoundary 0 s) s = some 4 ∧ (s.veOf 0).lands = []) ∧
    (let s := (running 0 []).modVe 0 fun e => { e with haltAt := some (1000 * 8192) };
      endsAt 0 (veBoundary 0 s) s = true ∧ due (s.veOf 0).haltAt (veBoundary 0 s) = true ∧ (faultAt 0 (veBoundary 0 s) s).2 = none ∧
      due (s.veOf 0).stopAt (veBoundary 0 s) = false ∧ (s.veOf 0).lands = []) ∧
    (let s := (running 0 []).modVe 0 fun e => { e with stopAt := some (1000 * 8192) };
      endsAt 0 (veBoundary 0 s) s = true ∧ (s.veOf 0).stopAt = some (1000 * 8192) ∧ 1000 * 8192 ≤ veBoundary 0 s ∧
      (faultAt 0 (veBoundary 0 s) s).2 = none ∧ (s.veOf 0).lands = []) ∧
    (let s := (up [(VEN.STATE 0, 4)]).modVe 0 fun e => { e with stopAt := some 0, resumeAt := some 0 };
      veState 0 s = 4 ∧ (s.veOf 0).stopAt = some 0 ∧ (s.veOf 0).lands = [] ∧ (s.veOf 0).resumeAt = some 0) ∧
    (let s := (running 0 []).modVe 0 fun e => { e with endAt := some 0 };
      veState 0 s = 3 ∧ (s.veOf 0).endAt = some 0 ∧ (s.veOf 0).lands = []) ∧
    (let s := (running 0 []).modVe 0 fun e => { e with lands := [(0, [⟨VEN.SITE_TAG 0, 1, 7⟩]), (2000 * 8192, [])] };
      issuing 0 s = true ∧ landDue 0 (veBoundary 0 s) s = true ∧ landsBy 0 (veBoundary 0 s) s = [] ++ [⟨VEN.SITE_TAG 0, 1, 7⟩] ∧
      VEN.SITE_TAG 0 ≠ VEN.LAND_CYCLE 0) := by decide

/-- The decision is a fault of the cause at address a. -/
def faultIs (c a : Nat) : Decided → Bool
  | .fault x b => Nat.beq x c && Nat.beq b a
  | .word _ _ _ => false

/-- Two engines at a barrier with mask 3 whose boundaries lie 32 ns after their arrival. -/
def barred : State :=
  let e : VeRun := { bar := some (3, 0), base := 1000 * 8192 }
  { up [(VEN.STATE 0, 3), (VEN.STATE 1, 3)] with ve := [(0, e), (1, e)] }

theorem meets_VeFaultsBarriersLines :
    (let s := (running 0 []).modVe 0 fun e => { e with next := 8192 };
      issuing 0 s = true ∧ blocked 0 (veBoundary 0 s) s = false ∧ (s.veOf 0).lands = [] ∧
      faultIs 7 8192 (decideNext 0 (s.upto (veBoundary 0 s - 18 * ticksPerNs))).2 = true) ∧
    (barrierMet 3 barred = true ∧ ∀ m < 32, Nat.testBit 3 m = true → lastArrival 3 barred + 32 * ticksPerNs ≤ veBoundary m barred) ∧
    (let s := up [(VEN.STATE 0, 3)]; veLive 0 s = true ∧ (s.veOf 0).inflight.length + (s.veOf 0).stale.length < 32 ∧
      nextLine 0 s = some 0) ∧
    (∀ gone ∈ [[], [(5, 0)]], let r := ask .read (.veLine 0 5) 0; let s := (answered r 0 (up [(VEN.STATE 0, 3)])).modVe 0 fun e => { e with stale := gone };
      respFor (.veLine 0 5) s = some ⟨r, 0, 0x55⟩ ∧ canReturn ⟨r, 0, 0x55⟩ s = true ∧ ((5, r.addr) ∈ (s.veOf 0).stale ↔ gone ≠ [])) := by decide

/-- A spill queue SQ40, enabled, with a ring of 64 lines and x in it. -/
def queue (x : SqS) : State := (mapped 0 [(FCP.Q_STATE 40, 1), (FCP.Q_RING_LINES 40, 64)]).modSq 40 fun _ => x

/-- A cycle with nothing to record. -/
def noCycle : CycRec := ⟨0, 0, 0, [], false, false, 0, 0, 0, 0, 0, 0, 0, 0, 0, 0, 0, false⟩

theorem meets_FailCaptureCompletes :
    (((up []).modFcp 0 fun f => { f with cycles := [noCycle] }).fcpOf 0).cycles = [noCycle] ∧
    (((up []).modFcp 0 fun f => { f with bmOpen := some ⟨0, 1, 0, 0⟩ }).fcpOf 0).bmOpen = some ⟨0, 1, 0, 0⟩ ∧
    (∀ l ∈ [[], [(DMC.MAP_STATE, 1), (DMC.INSTALLED, 2 ^ 30), (DMC.WAYS, 1), (DMC.STATE 0, 3)]],
      let s := (up l).modFcp 0 fun f => { f with bmFifo := [⟨0, 1, 0, 0⟩] };
      (s.fcpOf 0).bmFifo = [⟨0, 1, 0, 0⟩] ∧ (if l = [] then regionOf 0 s = 6 else creditFree (bitmapReq 0 ⟨0, 1, 0, 0⟩) s = true)) ∧
    (let s := (up [(FCP.Q_STATE 0, 1)]).modFcp 0 fun f => { f with cap := [[1, 2, 3, 4]] };
      (s.fcpOf 0).cap = [1, 2, 3, 4] :: [] ∧ s.rd (FCP.Q_STATE 0) ≠ 0 ∧ (s.sqOf 0).tail.length + 4 ≤ 64) ∧
    (let s := queue { tail := [(1, true)] }; s.rd (FCP.Q_STATE 40) ≠ 0 ∧ movesDirect 40 s = true ∧ (s.sqOf 40).tail ≠ []) ∧
    (let s := queue { tail := List.replicate 31 (1, false), ring := [(0, .written)], wr := 1 };
      s.rd (FCP.Q_STATE 40) ≠ 0 ∧ movesDirect 40 s = false ∧ 31 ≤ (s.sqOf 40).tail.length ∧ ringFull 40 s = false ∧
      writesOf 40 s < 32 ∧ 31 ≤ headRoom 40 s ∧ readsOf 40 s < 2 ∧ nextRead 40 s = some 0) ∧
    (∀ kind ∈ [1, 2], let r := ask .write (.ringWrite 40 3) 0; let s := answered r kind (queue { ring := [(3, .writing)] });
      respFor (.ringWrite 40 3) s = some ⟨r, kind, 0x55⟩ ∧ canReturn ⟨r, kind, 0x55⟩ s = true ∧
      (arrived [] ⟨r, kind, 0x55⟩ s).kind = kind ∧ (s.sqOf 40).ring.find? (fun e => Nat.beq e.1 3) = some (3, .writing)) ∧
    (∀ older ∈ [[], [(2, LineSt.reading)]], let r := ask .read (.ringRead 40) 768; let x : MeshResp := ⟨r, 0, 0x55⟩;
      let s := answered r 0 (queue { ring := older ++ [(3, .reading)] });
      respFor (.ringRead 40) s = some x ∧ canReturn x s = true ∧ (arrived [] x s).kind ≠ 2 ∧
      (x.req.addr - s.rd (FCP.Q_RING_BASE 40)) / 256 = 3 ∧ (s.sqOf 40).ring.find? (fun e => Nat.beq e.1 3) = some (3, .reading) ∧
      (olderRead 40 3 s = true ↔ older ≠ [])) := by decide

theorem meets_QueueAccessesComplete :
    (let s := queue { head := [(7, false), (8, true)] };
      Takes host (FCP.POP 40) 8 s ∧ host.master ≠ 9 ∧ (s.sqOf 40).head = (7, false) :: [(8, true)] ∧ packetLen 40 s = some 2 ∧
      Takes host (FCP.POPREC 40) (8 * 2) s) ∧
    (let s := mapped 0 [(FCP.Q_RING_LINES 40, 64)];
      Writes host (FCP.Q_CTRL 40) 1 1 s ∧ ∀ c ∈ queueEnableConds 40 s, c.1 = false) ∧
    (Writes host (FCP.Q_CTRL 40) 1 2 (queue {}) ∧ ∀ c ∈ queueDisableConds 40 (queue {}), c.1 = false) ∧
    (Writes host (FCP.Q_CTRL 40) 1 3 (queue {}) ∧ ∀ c ∈ flushConds 40 (queue {}), c.1 = false) ∧
    (Writes host (FCP.PUSH 40) 8 5 (queue {}) ∧ ∀ c ∈ pushConds 40 false (queue {}), c.1 = false) ∧
    (Writes host (FCP.PUSH_END 40) 8 5 (queue {}) ∧ ∀ c ∈ pushConds 40 true (queue {}), c.1 = false) ∧
    (Writes host (FCP.FCOUNT_CLR 255) 1 1 (up []) ∧ ∀ x ∈ fcountConds 255 (up []), x.1 = false) := by
  simp only [Writes, Takes, Reads, Served]; decide

/-- A part whose facets 0 and 31 are released, and whose cell in column col and row row holds the instruction with operation o. -/
def celled (col row o : Nat) : State := { up [(FAB.RELEASED, 2 ^ 31 + 1)] with
  now := 16384, cellCfg := [(cellKey col row, ⟨[BitVec.ofNat 32 (o * 2 ^ 27)], false, false, 0, 0#16, 0#16, 0#16⟩)] }

theorem meets_CellOperationsComplete :
    ∀ o, o < 32 → CellRuns 0 0 o (celled 0 0 o) ∧ CellRuns 255 511 o (celled 255 511 o) := by
  simp only [CellRuns]; decide

theorem meets_FacetsComplete :
    (let s := up [(CFG.FACET_STATE 0, 2)]; Writes host (FAB.CTRL 0) 1 1 s ∧ (∀ c ∈ releaseConds 0 s, c.1 = false) ∧ released 0 s = false) ∧
    (let s := up [(FAB.RELEASED, 1)]; Writes host (FAB.CTRL 0) 1 2 s ∧ (∀ c ∈ holdConds 0 s, c.1 = false) ∧ released 0 s = true) ∧
    (let s := up [(CFG.FACET_STATE 0, 2), (FAB.RELEASED, 1)]; Writes host (FAB.CTRL 0) 1 1 s ∧ (∀ c ∈ releaseConds 0 s, c.1 = false) ∧ released 0 s = true) ∧
    (Writes host (FAB.CTRL 0) 1 2 (up []) ∧ (∀ c ∈ holdConds 0 (up []), c.1 = false) ∧ released 0 (up []) = false) ∧
    (((up []).modFacet 0 fun x => { x with relAt := some 0 }).facetOf 0).relAt = some 0 ∧
    (((up []).modFacet 0 fun x => { x with holdAt := some 0 }).facetOf 0).holdAt = some 0 ∧
    Writes host (FAB.USER_IN 31 3) 8 5 (up []) ∧
    (let s := { up [(FAB.RELEASED, 1)] with cells := [(cellKey 0 2, some ⟨{ f := true }, 0, {}, 0, {}⟩)] };
      released 0 s = true ∧ (regsNow (cellKey (colOf 0 0) (rowOf 0 2)) s).f = true ∧ (s.facetOf 0).reqLast = false) ∧
    (let s := (up [(FAB.RELEASED, 1)]).modFacet 0 fun x => { x with man := { x.man with meshPort := true } };
      released 0 s = true ∧ (s.facetOf 0).man.meshPort = true ∧ clocked 0 s = true ∧
      s.rd (FAB.MESH_ISSUED 0) - s.rd (FAB.MESH_DONE 0) - s.rd (FAB.MESH_DISCARD 0) < 32 ∧ regionOf imem s ≠ 6) ∧
    (let s := { up [(VEN.STATE 0, 3), (VEN.APG_BIND 0, 1), (FAB.RELEASED, 1)] with
        cells := [(cellKey 0 1, some ⟨{ q := 1#16 }, 0, {}, 0, {}⟩)], now := 16384 };
      fabEdge s.now = 16384 ∧ (s.veOf 0).apgAt = 0 ∧ apgTaken 0 16384 s = 1) ∧
    (∀ x ∈ [UpsetTarget.sel 0 0, .track 512 0], (⟨0, 3, 0, 0, 0, x⟩ : Upset).target ≠ .own) ∧ trackOf 0 0 512 ≠ none ∧
    (⟨0, 3, 0, 0, 0, .own⟩ : Upset).target = .own := by
  simp only [Writes, Served]; decide

/-- DSP0 RUNNING at its instruction 0, which is w; it owns port 0 of bank 0. -/
def dspRuns (w : Nat) : State := { up [(DSP.STATE 0, 2), (SCR.OWNER 0 0, 0)] with mem := memWrite [] imem 8 w }
/-- The instruction word of a class and operation id, other fields 0. -/
def insn (id : Nat) : Nat := id / 16 * 2 ^ 60 + id % 16 * (if id / 16 = 1 ∨ id / 16 = 4 then 2 ^ 58 else 2 ^ 56)

theorem meets_DspControlComplete : ∀ id ∈ [0, 1, 2, 3, 4, 5, 6, 7, 8, 0x60, 0x40, 0x41, 0x42],
    DspIssues 0 id (insn id) (dspRuns (insn id)) := by
  simp only [DspIssues]; decide

theorem meets_DspVectorComplete : ∀ id ∈ [0x20, 0x21, 0x22, 0x23, 0x24, 0x25, 0x50, 0x51, 0x52, 0x53, 0x54],
    DspIssues 0 id (insn id) (dspRuns (insn id)) := by
  simp only [DspIssues]; decide

/-- An inbound move that stands first. -/
def move0 : Mv := { k := 0, out := false, areg := 0, elem := 0, len := 1 }

theorem meets_DspMemoryAndMovesComplete :
    (∀ id ∈ [0x10, 0x11, 0x12, 0x30], let w := insn id + 2 ^ 41; let s := dspRuns w;
      DspIssues 0 id w s ∧ slotsIn w ≠ [] ∧ slotsOwned 0 w (dspAt 0 s) = true ∧
        (runSlots 0 (dspIssueAt 0 s) w [] (dspAt 0 s)).fault = 0) ∧
    (let s := dspRuns (insn 0x70); DspIssues 0 0x70 (insn 0x70) s ∧ portFor 0 (bankIn (reg0 (s.dspOf 0).a 0)) 0 s ≠ none) ∧
    (let s := (up [(DSP.MGATE 0 0, 8)]).modDsp 0 fun d => { d with moves := [move0] };
      (s.dspOf 0).moves = move0 :: [] ∧ move0.out = false ∧ s.rd (DSP.MGATE 0 move0.k) ≠ 0 ∧ move0.open' = false ∧
      move0.polling = false ∧ s.rd (DSP.MOVE_INFLIGHT 0) < 16) ∧
    (let m := { move0 with issued := 8 }; let s := (up []).modDsp 0 fun d => { d with moves := [m] };
      (s.dspOf 0).moves = m :: [] ∧ m.issued = 8 * m.len ∧ m.wait = [] ∧ m.lost = false ∧ m.k < 16) := by
  simp only [DspIssues]; decide

/-- DSP0 in state st with run data d. -/
def dspIn (st : Nat) (d : DspRun) : State := (up [(DSP.STATE 0, st), (DSP.START_AT 0, 2 ^ 64)]).modDsp 0 fun _ => d

theorem meets_DspRunsComplete :
    (∀ st ∈ [0, 4, 5], Writes host (DSP.CTRL 0) 1 1 (dspIn st {}) ∧ (∀ c ∈ dspStartConds 0 (dspIn st {}), c.1 = false) ∧
      Writes host (DSP.CTRL 0) 1 2 (dspIn st {}) ∧ (∀ c ∈ dspStartAtConds 0 (dspIn st {}), c.1 = false) ∧
      Writes host (DSP.CTRL 0) 1 6 (dspIn st {}) ∧ (dspIn st {}).rd (DSP.STATE 0) = st) ∧
    (∀ st ∈ [1, 2, 3], Writes host (DSP.CTRL 0) 1 3 (dspIn st {}) ∧ Writes host (DSP.CTRL 0) 1 4 (dspIn st {}) ∧
      Writes host (DSP.CTRL 0) 1 5 (dspIn st {}) ∧ (dspIn st {}).rd (DSP.STATE 0) = st) ∧
    ((dspIn 1 {}).rd (DSP.STATE 0) = 1 ∧ ((dspIn 1 {}).dspOf 0).timed = false) ∧
    (let s := dspIn 1 { timed := true, start := some 8192 }; (s.dspOf 0).timed = true ∧ (s.dspOf 0).start = some 8192) ∧
    (let s := dspIn 2 { halt := some 0 }; (s.dspOf 0).halt = some 0 ∧ landsNow 0 (some 0) s = true ∧
      (s.dspOf 0).moveBad = false ∧ (s.dspOf 0).moveUe = false ∧ (s.dspOf 0).wdEnd = none ∧ (s.dspOf 0).stop = none) ∧
    (let s := dspIn 2 { stop := some 0 }; (s.dspOf 0).stop = some 0 ∧ landsNow 0 (some 0) s = true ∧
      (s.dspOf 0).moveBad = false ∧ (s.dspOf 0).moveUe = false ∧ (s.dspOf 0).wdEnd = none) ∧
    ((dspIn 3 { stop := some 0 }).dspOf 0).stop ≠ none ∧
    (let s := dspIn 2 { wdEnd := some 0 }; landsNow 0 (s.dspOf 0).wdEnd s = true ∧ s.rd (DSP.STATE 0) = 2) ∧
    (dspIn 6 {}).rd (DSP.STATE 0) = 6 := by
  simp only [Writes, Served]; decide

/-- The trim store without an image. -/
def blank (s : State) : State := { s with trim := {} }
/-- A run of the kind with channel x left. -/
def focusing (kind x : Nat) : State := { up [] with focus := ⟨kind, [(x, 8192)], false⟩ }

theorem meets_CalibrationCompletes :
    (let s := up [(EDG.FOCUS_SEL 7, 2 ^ 63)]; Writes host EDG.FOCUS_CTRL 1 1 s ∧ Writes host EDG.FOCUS_CTRL 1 2 s ∧
      (∀ c ∈ focusConds s, c.1 = false) ∧ focusSel s = [511]) ∧
    (Writes host EDG.FOCUS_CTRL 1 3 (focusing 1 0) ∧ (focusing 1 0).focus.kind ≠ 0) ∧
    (∀ kind ∈ [1, 2], ∀ x ∈ [0, 511], (focusing kind x).focus.kind = kind ∧
      (focusing kind x).focus.left.find? (fun e => Nat.beq (groupOf e.1) (groupOf x)) = some (x, 8192)) ∧
    (Writes host CFG.TRIM_CTRL 1 1 (blank (trusted [])) ∧ (∀ c ∈ trimConds host 1 (blank (trusted [])), c.1 = false) ∧
      nextSlot (blank (trusted [])) = some 0) ∧
    (Writes host CFG.TRIM_CTRL 1 2 (blank (trusted [])) ∧ ∀ c ∈ trimConds host 2 (blank (trusted [])), c.1 = false) ∧
    ({ up [] with trim := { job := some (0, 1, 0) } } : State).trim.job = some (0, 1, 0) := by
  simp only [Writes, Served]; decide +kernel

theorem meets_PanesComplete :
    (∀ st ∈ [0, 1], let s := up [(PAN.STATE 1535, st)]; s.rd (PAN.STATE 1535) = st ∧
      Writes host (PAN.CTRL 1535) 1 1 s ∧ Writes host (PAN.CTRL 1535) 1 2 s ∧ Writes host (PAN.CTRL 1535) 1 3 s ∧
      Writes host (PAN.MODE 1535) 1 1 s) ∧
    (let s := (up [(PAN.STATE 0, 2)]).modPane 0 fun p => { p with detachAt := some 0, attachAt := some 0 };
      (s.paneOf 0).detachAt = some 0 ∧ (s.paneOf 0).attachAt = some 0 ∧ s.rd (PAN.STATE 0) = 2 ∧
      clocked 0 s = true ∧ (repairResult 9 (2 - s.rd (PAN.REPAIR 0) % 256)).1 = 3 ∧
      (repairResult 0 (2 - s.rd (PAN.REPAIR 0) % 256)).1 ≠ 3) ∧
    ((up []).rd (PAN.STATE 0) = 0 ∧ (up []).rd (PAN.MODE 0) ≠ 1 ∧ (up [(PAN.MODE 0, 1)]).rd (PAN.MODE 0) = 1 ∧
      (up [(PAN.STATE 0, 1)]).rd (PAN.STATE 0) ≠ 0 ∧ clocked 0 (up []) = true ∧ (up []).steal = []) ∧
    (let w : PortReq := ⟨ask .write (.mesh 0 0) 0x10100000000, [], 0⟩; let s := { up [] with steal := [w] };
      (s.steal.find? fun x => waitsFor 0 .write x s) = some w ∧ (regsBefore (portCell 0 1) (paneEdge 0 s) (s.upto (paneEdge 0 s))).f = false ∧
      ∀ x ∈ s.steal, waitsFor 0 .read x s = false) ∧
    (Writes host (SCR.OWNER 7 1) 1 31 (up []) ∧ (∀ c ∈ ownerConds 7 1 31 (up []), c.1 = false)) ∧
    (∀ st ∈ [1, 2], (up [(SCR.STATE 63, st)]).rd (SCR.STATE 63) = st) ∧
    (Writes host (SCR.CTRL 63) 1 1 (up []) ∧ ∀ c ∈ scrTestConds 63 (up []), c.1 = false) := by
  simp only [Writes, Served]; decide

theorem meets_MeshDeliveryCompletes :
    (∀ r s, Unpoisoned [.corrected 0] r s) ∧ (∀ e ∈ ([] : List Ecc), e = .clean) ∧
    (let r := ask .read (.mesh 0 0) 0x10000000000; Arrives .read r (sent r (up [])) ∧ UnitServes r (sent r (up []))) ∧
    (let r := ask .write (.mesh 0 0) 0x10100000000; Arrives .write r (sent r (up [])) ∧ UnitServes r (sent r (up []))) ∧
    (let r := ask .write (.mesh 0 0) 0x10200000000; Arrives .write r (sent r (up [])) ∧ UnitServes r (sent r (up []))) ∧
    (let r := ask .read (.mesh 0 0) imem; Arrives .read r (sent r (up [])) ∧ UnitServes r (sent r (up []))) ∧
    (∀ op ∈ [MeshOp.read, .write, .orw], let r := ask op (.mesh 0 0) 512; Arrives op r (sent r (mapped 1 [])) ∧ (destOf r.addr (sent r (mapped 1 []))).1 = 0) ∧
    (∀ d ∈ [0, 95], ∀ st ∈ [1, 2], (up [(CRH.PWR_STATE d, st)]).rd (CRH.PWR_STATE d) = st) := by
  refine ⟨fun _ _ => rfl, by decide, ⟨arrives (by decide), ?_⟩, ⟨arrives (by decide), ?_⟩, ⟨arrives (by decide), ?_⟩, ⟨arrives (by decide), ?_⟩,
    fun op _ => ⟨arrives (by cases op <;> decide), by cases op <;> decide⟩, by decide⟩ <;>
  first | exact ⟨by decide, by decide⟩ | exact ⟨by decide, by decide, by decide, by decide⟩

/-- A pane whose port 0 its facet uses at the next FAB edge, and a bank whose port an engine uses for two clocks. -/
def busy : State := { up [(FAB.RELEASED, 1), (SCR.STEAL_LIMIT, 1)] with
  cells := [(portCell 0 0, some ⟨{ f := true }, 0, {}, 0, {}⟩)], banks := [(0, { last := [⟨0, 1, false, 0, 0, 0⟩, ⟨8192, 1, false, 0, 0, 0⟩] })] }

theorem meets_MeshDeliveryCompletes_waits :
    (let r := ask .read (.mesh 0 0) 0x10100000000; let s := sent r busy; Arrives .read r s ∧ destOf r.addr s = (2, 0) ∧
      s.rd (PAN.STATE 0) ≠ 2 ∧ s.rd (PAN.MODE 0) ≠ 1 ∧ s.rd (CFG.FACET_STATE (0 / 48)) ≠ 1 ∧ fits r 0x2000 = true ∧
      paneBusy 0 .read (paneEdge 0 s) s = true) ∧
    (let r := ask .read (.mesh 0 0) 0x10000000000; let s := sent r busy; Arrives .read r s ∧ destOf r.addr s = (1, 0) ∧
      s.rd (SCR.STATE 0) ≠ 2 ∧ fits r 0x10000 = true ∧
      engEdge s.now + s.rd SCR.STEAL_LIMIT * 8192 ≤ idleClock 0 (meshPort 0) (engEdge s.now) s) ∧
    (let w : PortReq := ⟨ask .read (.mesh 0 0) 0x10100000000, [], 0⟩; let s := { up [] with steal := [w] };
      (s.steal.find? fun x => decide (x.req = w.req)) = some w ∧ destOf w.req.addr s = (2, 0)) :=
  ⟨⟨arrives (by decide), by decide⟩, ⟨arrives (by decide), by decide⟩, by decide⟩

theorem meets_RouterCommandsComplete :
    (Writes host (MSH.RCTRL 63) 1 1 (up []) ∧ ∀ c ∈ drainConds 63 (up []), c.1 = false) ∧
    (Writes host (MSH.RCFG 0) 4 64 (up []) ∧ ∀ c ∈ drainConds 0 (up []), c.1 = false) ∧
    ({ up [] with drain := some ⟨63, none, true⟩ } : State).drain = some ⟨63, none, true⟩ ∧
    (∀ k ∈ [1, 2, 3], Writes host (MSH.PCTRL 31) 1 k (up [])) ∧ Writes host MSH.TCLEAR 1 1 (up []) := by
  simp only [Writes, Served]; decide

theorem meets_DmcControlCompletes :
    (∀ n ∈ [0, 3], let s := (up [(DMC.STATE n, 1)]).modDmc n fun d => { d with dimms := [⟨true, true, 4800, 1, 1⟩] };
      Writes host (DMC.CTRL n) 1 1 s ∧ ∀ c ∈ trainConds n s, c.1 = false) ∧
    (let s := up [(DMC.STATE 0, 3), (DMC.AUTO_RETRAIN 0, 80)]; Writes host (DMC.CTRL 0) 1 2 s ∧ dmcState 0 s = 3) ∧
    (Writes host DMC.EXCLUDE 4 1 (up []) ∧ (up []).rd DMC.MAP_STATE ≠ 1) ∧
    (Writes host DMC.RETAIN 4 0 (up []) ∧ ∀ c ∈ retainConds 0 (up []), c.1 = false) ∧
    ({ up [] with autoTrain := true } : State).autoTrain = true ∧
    (∀ st ∈ [1, 2, 3, 4], dmcState 3 (up [(DMC.STATE 3, st)]) = st) ∧
    (let s := (up [(DMC.STATE 0, 3), (DMC.AUTO_RETRAIN 0, 80)]).modDmc 0 fun d => { d with temp := 80, trainTemp := some 0 };
      dmcState 0 s = 3 ∧ s.rd (DMC.AUTO_RETRAIN 0) ≠ 0 ∧
      (s.dmcOf 0).trainTemp = some 0 ∧ s.rd (DMC.AUTO_RETRAIN 0) ≤ (toS16 (s.dmcOf 0).temp - toS16 0).natAbs) ∧
    (let s := up [(DMC.STATE 0, 4)]; dmcState 0 s = 4 ∧ (s.dmcOf 0).track = [] ∧ (s.dmcOf 0).scrub = none ∧ s.bit CRH.CLK_STATUS 5 = false) ∧
    (let s := up [(DMC.STATE 0, 3), (DMC.STATE 2, 3)]; s.rd DMC.MAP_STATE = 0 ∧ mapReady s = true ∧ s.rd DMC.EXCLUDE = 0 ∧
      (List.range 4).filter (fun n => Nat.beq (dmcState n s) 3) = [0, 2] ∧
      ∀ n, n < 4 → populated n s = true → dmcState n s = 3) ∧
    (let s := up [(DMC.STATE 0, 3), (DMC.STATE 1, 3), (DMC.STATE 2, 3)]; mapReady s = true ∧
      ((List.range 4).filter (fun n => Nat.beq (dmcState n s) 3)).length ∉ [1, 2, 4]) := by
  simp only [Writes, Served]; decide

/-- A read of 8 bytes from DRAM. -/
def dread (a : Nat) : MeshReq := ask .read (.mesh 0 0) a
/-- DMC0 READY under a map, with what d gives it. -/
def dram (d : DmcS) : State := (mapped 0 [(DMC.CAPACITY 0, 2 ^ 30), (DMC.PATROL 0, 1)]).modDmc 0 fun _ => d

theorem meets_DmcTrafficCompletes :
    (let s := dram { ingress := [dread 0] }; dmcState 0 s = 3 ∧ (s.dmcOf 0).ingress = dread 0 :: [] ∧ (dread 0).cls < 4 ∧
      admits 0 (dread 0).cls s = true ∧ dramFits (dread 0) = true ∧ s.bit DMC.RETAIN (rankOf 0 0 s) = false ∧
      acceptFrom 0 (dread 0) s ≤ s.now) ∧
    dramFits { dread 255 with len := 8 } = false ∧
    (let x : Trk := { id := 0, req := dread 0, at' := 0, acts := [(0, none)] }; let s := dram { track := [x] };
      let at' := max s.now (readyAt 0 (x, 0) s);
      candidates 0 s = (x, 0) :: [] ∧ patrolReady 0 s = none ∧
      (choose (accClass 0 s) (promoted 0 s) ([(x, 0)].filter fun x => Nat.ble (readyAt 0 x s) at') (s.dmcOf 0).rot (s.dmcOf 0).lastLow at').1 = some (x, 0) ∧
      (s.dmcOf 0).track.filter (fun x => unissued 0 s x && !x.prom) = x :: []) ∧
    (let x : Trk := { id := 0, req := dread 0, at' := 0, acts := [(0, some 0)] };
      ((nextDone 0 (dram { track := [x] })).map (·.1)) = some (x, 0) ∧ patrolDone 0 (dram { track := [x] }) = none) ∧
    (let p : Patrol := ⟨0, .clean, 0, none⟩; let s := dram { scrub := some p }; candidates 0 s = [] ∧ (patrolReady 0 s).map (·.1) = some p) ∧
    (∀ ecc ∈ [Ecc.clean, .ce, .ue], let p : Patrol := ⟨0, ecc, 0, some 0⟩; let s := dram { scrub := some p };
      nextDone 0 s = none ∧ (patrolDone 0 s).map (·.1) = some p ∧ p.ecc = ecc) ∧
    ((dram { throttles := [⟨0, 0, 5, 0⟩] }).dmcOf 0).throttles = ⟨0, 0, 5, 0⟩ :: [] ∧
    ((dram {}).rd DMC.MAP_STATE = 1 ∧ (dram {}).rd (DMC.PATROL 0) ≠ 0 ∧ dmcState 0 (dram {}) = 3 ∧ ((dram {}).dmcOf 0).scrub = none) := by decide

/-- Lane n in state st, with what x gives it. -/
def laned (n st : Nat) (x : LaneS) : State := (up [(LNK.STATE n, st), (LNK.QPLL (n / 4), 1)]).modLane n fun _ => x

theorem meets_LaneCommandsComplete :
    (∀ n ∈ [0, 47], Writes host (LNK.CTRL n) 1 1 (laned n 0 {}) ∧ (∀ c ∈ laneStartConds n (laned n 0 {}), c.1 = false)) ∧
    (∀ st ∈ [1, 2, 3, 4], Writes host (LNK.CTRL 0) 1 2 (laned 0 st {}) ∧ Writes host (LNK.CTRL 0) 1 3 (laned 0 st {}) ∧
      laneState 0 (laned 0 st {}) = st) ∧
    (Writes host (LNK.QRATE 11) 1 4 (up []) ∧ (∀ c ∈ qrateConds 11 (up []), c.1 = false) ∧ (up []).rd (LNK.QPLL 11) ≠ 1) ∧
    (Writes host (LNK.MAP 11) 1 0x1B (up []) ∧ quadReset 11 (up []) = true) := by
  simp only [Writes, Served]; decide +kernel

/-- A MGMT message of 8 bytes. -/
def mgmt8 : LaneMsg := ⟨1, 8, 2, 3, 0, 0⟩

theorem meets_LaneBlocksComplete :
    (∀ st ∈ [2, 3], laneState 47 (laned 47 st {}) = st ∧ fecOn 47 (laned 47 st {}) = false) ∧
    (let s := (laned 0 3 {}).wr (LNK.FEC 0) 1; laneState 0 s = 3 ∧ fecOn 0 s = true) ∧
    (laneState 0 (laned 0 2 { good := 64 }) = 2 ∧ 64 ≤ ((laned 0 2 { good := 64 }).laneOf 0).good) ∧
    ctlBad 0 0 [(247, 0)] = false ∧ ctlBad 1 0 [(247, 0)] = true ∧ ctlBad (0x5A * 2 ^ 248) 0x5A [(247, 240), (175, 0)] = false ∧
    (let v := 0x66 * 2 ^ 248 + 2 ^ 168; ctlBad v 0x66 [(167, 0)] = false ∧ Dict.bitsOf v 175 168 = 1) ∧
    (let v := 0x4B * 2 ^ 248 + 2 * 2 ^ 246 + 32 * 2 ^ 224; ctlBad v 0x4B [(245, 240), (159, 0)] = false ∧
      startOk (Dict.bitsOf v 247 246) (Dict.bitsOf v 239 224) false = true) ∧
    (∀ len ∈ [8, 64], ∀ crc ∈ [crc32 0 len, crc32 0 len + 1],
      ((laned 0 3 { opn := some ⟨{ mgmt8 with len := len }, crc, 0⟩ }).laneOf 0).opn = some ⟨{ mgmt8 with len := len }, crc, 0⟩) ∧
    mgmt8.chan ≠ 0 := by decide +kernel

/-- A MESH message: a read of 8 bytes at address a. -/
def meshRead8 (a : Nat) : LaneMsg := ⟨0, 64, 0, 1, a * 2 ^ 144, 0⟩
/-- A STREAM message of 32 bytes. -/
def stream32 : LaneMsg := ⟨3, 32, 0, 1, 7, 0⟩

theorem meets_LaneEventsComplete :
    (let s := laned 0 3 { buf := [meshRead8 imem] }; oldest 0 0 s = some (meshRead8 imem) ∧ (s.laneOf 0).inMesh.length + (s.laneOf 0).drop.length < 32 ∧
      regionOf (meshOf 0 (meshRead8 imem) s).addr s = 4 ∧ meshMsgOk (meshRead8 imem) = true) ∧
    (let s := laned 0 3 { buf := [stream32] }; oldest 0 3 s = some stream32 ∧ (s.laneOf 0).writing = none ∧
      s.rd (LNK.SRX_WR 0) - s.rd (LNK.SRX_RD 0) + stream32.len ≤ s.rd (LNK.SRX_BYTES 0) ∧
      (s.wr (LNK.SRX_WR 0) 4096).rd (LNK.SRX_BYTES 0) <
        (s.wr (LNK.SRX_WR 0) 4096).rd (LNK.SRX_WR 0) - (s.wr (LNK.SRX_WR 0) 4096).rd (LNK.SRX_RD 0) + stream32.len) ∧
    (let s := laned 0 3 { writing := some (32, 1, false) }; (s.laneOf 0).writing = some (32, 1, false) ∧ (s.laneOf 0).parts = [] ∧
      (s.laneOf 0).relost = false) ∧
    (laneState 0 (laned 0 4 {}) = 4 ∧ lineReceived 0 [1] (laned 0 4 {}) = [true] ∧ Dict.bitsOf ((laned 0 4 {}).rd (LNK.RAW 0)) 6 4 < 4) := by decide +kernel

theorem meets_TimeControlCompletes :
    (∀ v ∈ [0, 1, 2], Writes host TMU.ROLE 1 v (up [])) ∧
    (Writes host TMU.INCR 8 0x100000000 (up []) ∧ (up []).rd TMU.ROLE ≠ 2 ∧ mpllLocked (up []) = true) ∧
    (Writes host TMU.STEP 8 5 (up []) ∧ ∀ c ∈ stepConds 5 (up []), c.1 = false) ∧
    (Writes host TMU.SET 16 (2 ^ 64) (up []) ∧ (up []).rd TMU.ROLE = 0) ∧
    (let s := (laned 5 3 {}).wr TMU.HOST_LANES (2 ^ 5); Writes host (TMU.TXMSG 5) 32 9 s ∧ (∀ c ∈ txmsgConds 5 s, c.1 = false) ∧
      (s.laneOf 5).txTime = [] ∧ (s.laneOf 5).txMgmt = [] ∧ (s.laneOf 5).txMesh = [] ∧ creditFor 5 (.host 9) s = false) ∧
    creditFor 5 (.host 9) (laned 5 3 { credit := [0, 0, 2, 0] }) = true ∧
    (let s := (up [(TMU.HOST_LANES, 2 ^ 5)]).modLaneTime 5 fun t => { t with txts := [(1, 2)], rx := [(3, 4)] };
      host.master ≠ 9 ∧ Takes host (TMU.TXTS 5) 24 s ∧ Takes host (TMU.RXMSG 5) 48 s ∧ s.bit TMU.HOST_LANES 5 = true ∧
      (s.laneTimeOf 5).txts = (1, 2) :: [] ∧ (s.laneTimeOf 5).rx = (3, 4) :: []) := by
  simp only [Writes, Takes, Reads, Served]; decide +kernel

/-- A TIME message of the type. -/
def time32 (type : Nat) : LaneMsg := ⟨2, 32, 0, 1, type * 2 ^ 16, 0⟩
/-- A follower on lane 7 with a message of the type waiting for the helper. -/
def follower (type : Nat) (x : Option Exch) : State :=
  ((up [(TMU.ROLE, 2), (TMU.SRC_LANE, 7), (TMU.SERVE, 2 ^ 7)]).modLaneTime 7 fun t => { t with inbox := [⟨type * 2 ^ 16, 5⟩] }).modTmu
    fun t => { t with xch := x }

theorem meets_TimeExchangeCompletes :
    (serving (up [(TMU.ROLE, 1), (TMU.SERVE, 1)]) = true ∧ (up [(TMU.ROLE, 1), (TMU.SERVE, 1)]).rd TMU.SERVE ≠ 0) ∧
    (let s := (laned 5 3 { buf := [time32 1] }).wr TMU.HOST_LANES (2 ^ 5); oldest 5 2 s = some (time32 1) ∧
      s.bit TMU.HOST_LANES 5 = true ∧ (s.laneTimeOf 5).rx.length < 16) ∧
    (let s := (laned 5 3 { buf := [time32 1] }).wr TMU.SERVE (2 ^ 5); oldest 5 2 s = some (time32 1) ∧
      s.bit TMU.HOST_LANES 5 = false ∧ s.bit TMU.SERVE 5 = true ∧ 1 ≤ Dict.bitsOf (time32 1).data 23 16 ∧
      Dict.bitsOf (time32 1).data 23 16 ≤ 4 ∧ Dict.bitsOf (time32 1).data 31 24 = s.rd TMU.DOMAIN) ∧
    (∀ type ∈ [1, 2, 3, 4], let x : Exch := ⟨0, 1, some 2, some 3⟩; let s := follower type (some x);
      (s.tgtOf 0).held = false ∧ (s.laneTimeOf 7).inbox.find? (fun m => Nat.beq (Dict.bitsOf m.msg 23 16) type) = some ⟨type * 2 ^ 16, 5⟩ ∧
      isSource 7 s = true ∧ serving s = true ∧ s.bit TMU.SERVE 7 = true ∧ s.tmu.xch = some x ∧ x.seq = msgSeq ⟨type * 2 ^ 16, 5⟩ ∧
      (s.laneOf 7).txTime = [] ∧ creditFor 7 (.time 4 0 5) s = false) ∧
    ((follower 1 none).rd TMU.ROLE = 2 ∧ timeValid (follower 1 none) = true) := by decide +kernel

/-- A window and a pulse a second from now, in units 0 and 15. -/
def timed (l : List (Nat × Nat)) : State :=
  up ([0, 15].foldr (fun n r => (TMU.AP_OPEN n, 2 ^ 64) :: (TMU.AP_CLOSE n, 2 ^ 65) :: (TMU.TRG_AT n, 2 ^ 64) ::
    (TMU.TRG_WIDTH n, 16384) :: (TMU.TRG_COUNT n, 1) :: (TMU.CAP_CFG n, 1) :: r) l)

theorem meets_TimedUnitsComplete :
    (∀ n ∈ [0, 15], let s := timed []; Writes host (TMU.AP_CTRL n) 1 1 s ∧ (∀ c ∈ apArmConds n s, c.1 = false) ∧ apArmed n s = false ∧
      Writes host (TMU.AP_CTRL n) 1 2 s ∧ Writes host (TMU.TRG_CTRL n) 1 1 s ∧ (∀ c ∈ trgArmConds n s, c.1 = false) ∧
      Writes host (TMU.TRG_CTRL n) 1 2 s) ∧
    (∀ st ∈ [1, 2], let s := timed [(TMU.AP_STATE 15, st)]; s.rd (TMU.AP_STATE 15) = st ∧
      netAt s (edgeOfTime s s.now (apOpenAt 15 (apK 15 s) s)) < apCloseAt 15 (apK 15 s) s) ∧
    (let s := timed [(TMU.TRG_STATE 0, 1)]; s.rd (TMU.TRG_STATE 0) = 1 ∧ Dict.bitsOf (s.rd (TMU.TRG_CFG 0)) 2 1 = 0 ∧
      (s.rd (TMU.CAP_CFG 0)).testBit (if true then 0 else 1) = true ∧ (s.rd (TMU.CAP_CFG 0)).testBit 2 = false ∧ (s.capOf 0).last = none) ∧
    (let s := (up []).modCap 3 fun c => { c with q := [(7, true)] }; host.master ≠ 9 ∧ Takes host (TMU.CAP_POP 3) 24 s ∧
      (s.capOf 3).q = (7, true) :: []) ∧
    (let s := { up [] with sched := [⟨false, 3, 2 ^ 32⟩, ⟨true, 4, 2 ^ 33⟩] }; s.sched = ⟨false, 3, 2 ^ 32⟩ :: [⟨true, 4, 2 ^ 33⟩]) := by
  simp only [Writes, Takes, Reads, Served]; decide +kernel

/-- The part 20 us after power-on. -/
def later (l : List (Nat × Nat)) : State := { up l with now := 20 * ticksPerUs }

theorem meets_ResetsComplete :
    (let s := later [(CRH.TTRIP, 0)]; s.crh.inReset = false ∧ s.crh.rstFrom + ticksPerUs < s.now ∧ Writes host CRH.RESET 1 0xA5 s ∧
      toS16 (s.rd CRH.TTRIP) ≤ hottest s ∧ s.crh.hot = false ∧ refinOk s = true ∧ mpllLocked s = true) ∧
    (let s := { up [] with crh := { inReset := true, pinLow := true } }; s.crh.inReset = true ∧ s.crh.pinLow = true) ∧
    (let s := { up [] with crh := { inReset := true } }; s.crh.inReset = true ∧ s.crh.pinLow = false ∧ s.crh.hot = false ∧
      testInsn s.dbg.insn = false) ∧
    (let s := having [(CRH.CLK_STATUS, 1)]; refinOk s = false ∧ s.bit CRH.CLK_STATUS 0 = true ∧ s.crh.inReset = false ∧
      mpllLocked s = false) := by
  simp only [Writes, Served]; decide +kernel

theorem meets_ClocksAndSensorsComplete :
    (Writes host CRH.CLKOUT_CFG 4 4000 (up []) ∧ ∀ c ∈ clkoutConds 4000 (up []), c.1 = false) ∧
    (let s := { up [] with crh := { switch := some (4000, 0) } }; s.crh.switch = some (4000, 0) ∧ s.now ≤ 0 + 1000 * ticksPerUs) ∧
    (Writes host CRH.FM_CTRL 1 1 (up []) ∧ ∀ c ∈ fmConds (up []), c.1 = false) ∧
    (up [(CRH.FM_STATE, 1)]).rd CRH.FM_STATE = 1 ∧ (List.replicate 48 400).length = 48 ∧
    (let s := up []; s.rd (CRH.VLOW 16) ≤ s.rd (CRH.VOLT 16) ∧ s.rd (CRH.VOLT 16) ≤ s.rd (CRH.VHIGH 16) ∧ s.crh.inReset = false ∧
      (0 < s.rd (CRH.VLOW 16) ∨ s.rd (CRH.VHIGH 16) < 65535) ∧ vioOk 9 s = true) := by
  simp only [Writes, Served]; decide +kernel

theorem meets_GatesAndDomainsComplete :
    (∀ u ∈ [0, 177], Writes host (CRH.GATE_EN u) 1 0 (up []) ∧ (∀ c ∈ gateConds u 0 (up []), c.1 = false) ∧
      Writes host (CRH.GATE_EN u) 1 1 (up []) ∧ (∀ c ∈ gateConds u 1 (up []), c.1 = false)) ∧
    (∀ st ∈ [2, 3], (up [(CRH.GATE_STATE 177, st)]).rd (CRH.GATE_STATE 177) = st) ∧ (up []).crh.forced.contains 177 = false ∧
    (∀ d ∈ [0, 95], Writes host (CRH.PWR d) 1 0 (up []) ∧ (∀ c ∈ pwrConds d 0 (up []), c.1 = false) ∧
      Writes host (CRH.PWR d) 1 1 (up []) ∧ (∀ c ∈ pwrConds d 1 (up []), c.1 = false)) ∧
    ({ up [] with crh := { offAt := [(95, 0)] } } : State).crh.offAt.any (fun e => Nat.beq e.1 95) = true := by
  simp only [Writes, Served]; decide +kernel

/-- A flash device with an octal interface and 64 MiB. -/
def flash64 : Flash := ⟨true, true, false, false, true, true, 26, []⟩
/-- The part with configuration x. -/
def cfgd (l : List (Nat × Nat)) (x : CfgS) : State := { up l with cfg := x }
/-- A header of a full OXF-5 stream of 64 body bytes (16 R426). -/
def header5 : Nat := 0x05F5A55A + 0x5001 * 2 ^ 32 + 0xFFFF * 2 ^ 64 + 64 * 2 ^ 128
/-- The load from the host whose stream begins with that header. -/
def load1 (v : Nat) : LoadS := { full := true, src := 1, flash := flash64, addr := 0, got := 256, buf := v }
/-- What a header for facet 0 with a body of n bytes says. -/
def head0 (n : Nat) : Header := ⟨false, 0, 0, 0, 1, n, 1, 0, 0, 0⟩

theorem meets_LoadsComplete :
    ({ up [] with cfg := { autoDue := true } } : State).cfg.autoDue = true ∧
    (let s := up [(CFG.LOAD_SRC, 1)]; Writes host CFG.LOAD_CTRL 1 1 s ∧ (∀ c ∈ fullConds s, c.1 = false) ∧
      Writes host CFG.LOAD_CTRL 1 2 s ∧ (∀ c ∈ partialConds s, c.1 = false) ∧ Writes host CFG.LOAD_CTRL 1 3 s) ∧
    (let s := up [(CFG.FLP_ADDR, 256), (CFG.FLP_LEN, 272)]; Writes host CFG.FLP_CTRL 1 1 s ∧ (∀ c ∈ flpConds s, c.1 = false) ∧
      Writes host CFG.FLP_CTRL 1 2 s) ∧
    (let s := cfgd [] { load := some (load1 0) }; Writes host CFG.STREAM 8 5 s ∧ (load1 0).src = 1 ∧
      buffersFull (load1 0) = false ∧ (load1 0).auto = false ∧ (load1 0).hdr = none ∧ (load1 0).src ≠ 0) ∧
    (let l : LoadS := { full := true, src := 0, flash := flash64, addr := 0, auto := true }; l.src = 0 ∧ l.auto = true ∧
      l.second = false ∧ l.hdr = none ∧ l.flash.present = true ∧ l.flash.sfdp = true ∧ 26 ≤ l.flash.density) ∧
    (let l := load1 header5; streamHas l 4 = true ∧ streamHas l (headerLen l) = true ∧ isOxf5 l = true ∧
      oxf5Cause l (streamBytes l 0 (headerLen l)) (up []) = 0) ∧
    (let l := load1 0; streamHas l 4 = true ∧ streamHas l (headerLen l) = true ∧ isOxf5 l = false ∧
      nativeCause l (streamBytes l 0 (headerLen l)) (up []) = 3) := by
  simp only [Writes, Served]; decide +kernel

/-- A stream whose first chunk, one body byte of 0, carries tag x. -/
def chunked (x : Nat) : LoadS :=
  { full := true, src := 1, flash := flash64, addr := 0, got := 273, buf := x * 2 ^ (2048 + 8), hdr := some (head0 1) }

theorem above (x a b : Nat) : x * 2 ^ (a + b) / 2 ^ a % 2 ^ b = 0 := by
  rw [Nat.pow_add, Nat.mul_comm (2 ^ a), ← Nat.mul_assoc, Nat.mul_div_cancel _ (Nat.two_pow_pos a), Nat.mul_mod_left]

theorem exactly (x a b : Nat) (h : x < 2 ^ b) : x * 2 ^ a / 2 ^ a % 2 ^ b = x := by
  rw [Nat.mul_div_cancel _ (Nat.two_pow_pos a), Nat.mod_eq_of_lt h]

/-- A chunk with its tag, and one with another (16 R421). -/
theorem meets_LoadsComplete_chunk : ∃ x y, x < 2 ^ 128 ∧ y < 2 ^ 128 ∧
    (head0 1).oxf5 = false ∧ (chunked x).chunk < (head0 1).chunks ∧ chunkLen' (head0 1) 0 = 1 ∧ (chunked x).hdr = some (head0 1) ∧
    streamHas (chunked x) (256 + 1 + 16) = true ∧
    streamBytes (chunked x) (256 + 1) 16 = tagFor (head0 1) 0 (streamBytes (chunked x) 256 1) 1 (up []) ∧
    streamBytes (chunked y) (256 + 1) 16 ≠ tagFor (head0 1) 0 (streamBytes (chunked y) 256 1) 1 (up []) := by
  have body : ∀ x, streamBytes (chunked x) 256 1 = 0 := fun x => Eq.trans (if_neg Nat.one_ne_zero) (above x 2048 8)
  have tag : ∀ x, x < 2 ^ 128 → streamBytes (chunked x) (256 + 1) 16 = x := fun x hx =>
    Eq.trans (if_neg Nat.one_ne_zero) (exactly x (2048 + 8) 128 hx)
  have small : tagFor (head0 1) 0 0 1 (up []) < 2 ^ 128 := by
    simp only [tagFor, head0, if_true]; exact Nat.mod_lt _ (by decide)
  generalize ht : tagFor (head0 1) 0 0 1 (up []) = t at small
  refine ⟨t, (t + 1) % 2 ^ 128, small, Nat.mod_lt _ (by decide), rfl, Nat.zero_lt_one, by decide, rfl, rfl, ?_, ?_⟩
  · rw [body, tag t small, ht]
  · rw [body, tag _ (Nat.mod_lt _ (by decide)), ht]; omega

/-- The running load whose body begins with a frame of the type, for facet f, with index i and payload p. -/
def framed (t f i p : Nat) (seen : List FrameRef) : LoadS :=
  { full := false, src := 1, flash := flash64, addr := 0, bodyLen := 16 + payloadLen t, seen := seen
    hdr := some { head0 (16 + payloadLen t) with region := 2 ^ f }
    body := t + f * 2 ^ 8 + i * 2 ^ 16 + payloadLen t * 2 ^ 32 + p * 2 ^ 128 }
/-- The state with that load; the manifest of facet f, which has come, gives three frames. -/
def framing (t f i p : Nat) (seen : List FrameRef) : State :=
  (cfgd [(CFG.FACET_STATE f, 1)] { load := some (framed t f i p seen) }).modFacet f fun x => { x with man := { x.man with frames := 1 } }

theorem meets_FramesComplete :
    (let l := framed 1 0 0 7 []; FrameIs l { head0 (16 + 1024) with region := 1 } 1 0 0 1024 7 (framing 1 0 0 7 [])) ∧
    (∀ x ∈ [(2, 2560), (3, 3584), (5, 256)], let l := framed x.1 22 0 7 [⟨⟨22, 1, 0⟩, 0, 0, 0, 0⟩];
      let s := (framing x.1 22 0 7 [⟨⟨22, 1, 0⟩, 0, 0, 0, 0⟩]).modFacet 22 fun y => { y with man := { y.man with frames := 2 } };
      FrameIs l { head0 (16 + x.2) with region := 2 ^ 22 } x.1 22 0 x.2 7 s) ∧
    selsBad 0 [1, 2, 4] = false ∧ selsBad 0 [3] = true ∧
    (∀ off ∈ [0, 3], let l := framed 4 0 47 7 [⟨⟨0, 1, 0⟩, 0, 0, 0, 0⟩];
      let s := ((framing 4 0 47 7 [⟨⟨0, 1, 0⟩, 0, 0, 0, 0⟩]).modFacet 0 fun y => { y with man := { y.man with frames := 2 } }).wr (CRH.PWR_STATE 0) off;
      FrameIs l { head0 (16 + 8192) with region := 1 } 4 0 47 8192 7 s ∧ s.rd (CRH.PWR_STATE 0) = off) ∧
    (∀ p ∈ [2, 9], let l := framed 15 0 0 p [⟨⟨0, 1, 0⟩, 0, 0, 0, 0⟩]; let h := { head0 (16 + 8) with region := 1 };
      FrameIs l h 15 0 0 8 p (framing 15 0 0 p [⟨⟨0, 1, 0⟩, 0, 0, 0, 0⟩]) ∧ h.oxf5 = false ∧ l.bodyAt + 16 + 8 = h.bodyLen ∧
      allComplete l h (framing 15 0 0 p [⟨⟨0, 1, 0⟩, 0, 0, 0, 0⟩]) = true ∧ l.seen.length + 1 = 2) := by
  simp only [FrameIs]; decide +kernel

theorem meets_KeysComplete :
    (∀ code ∈ [1, 2, 3, 4], let s := { trusted [] with cfg := { stage := 2 ^ 256 } };
      Writes host CFG.KEY_CTRL 1 code s ∧ ∀ c ∈ keyConds host code s, c.1 = false) ∧
    (∀ code ∈ [1, 2, 3, 4], ({ up [] with cfg := { job := some (code, 5) } } : State).cfg.job = some (code, 5)) := by
  simp only [Writes, Served]; decide +kernel

/-- The loupe on, with facet 0 loaded and us struck. -/
def loupe (us : List Upset) (x : CfgS) : State := { cfgd [(CFG.LOUPE_EN, 1), (CFG.FACET_STATE 0, 2)] x with upsets := us }
/-- An upset of the frame that is scanned first. -/
def strike (word u : Nat) : Upset := ⟨0, 1, 0, word, u, .other⟩

theorem meets_LoupeCompletes :
    (loupeOn (loupe [] {}) = true ∧ (scanFrom 0 (loupe [] {})).or (scanFrom 0 (loupe [] {})) = some 0 ∧
      (loupe [] {}).upsets.filter (upsetOf (frameAtPos 0)) = [] ∧
      (loupe [strike 0 0] {}).upsets.filter (upsetOf (frameAtPos 0)) = [strike 0 0] ∧
      (loupe [strike 0 0, strike 0 1] {}).upsets.filter (upsetOf (frameAtPos 0)) = [strike 0 0, strike 0 1] ∧
      (strike 0 0).word = (strike 0 1).word) ∧
    (let s := loupe [] { waiting := [⟨0, 1, 0⟩] }; s.cfg.reload = none ∧
      s.cfg.waiting.find? (fun x => !(reloadWaits s x)) = some ⟨0, 1, 0⟩) ∧
    (∀ src ∈ [0, 1, 2], let r : Reload := ⟨⟨0, 1, 0⟩, src, 256, 256, none, false, 0, 0, 0⟩; let s := loupe [] { reload := some r };
      s.cfg.reload = some r ∧ r.wait = none ∧ r.stop ≤ r.next ∧ r.bad = false) ∧
    (loupeOn (up [(CFG.LOUPE_EN, 1)]) = true ∧
      ((up [(CFG.LOUPE_EN, 1)]).tgtOf 0).held = false ∧
      (up [(CFG.LOUPE_EN, 1)]).rd CFG.LOUPE_HEARTBEAT = (up [(CFG.LOUPE_EN, 1)]).cfg.beatLast ∧
      (up [(CFG.LOUPE_HEARTBEAT, 1)]).rd CFG.LOUPE_HEARTBEAT ≠ (up []).cfg.beatLast) ∧
    (∀ v ∈ [0, 1], Writes host CFG.LOUPE_EN 1 v (trusted [])) := by
  simp only [Writes, Served]; decide +kernel

/-- The supervisor with x. -/
def supd (l : List (Nat × Nat)) (x : SupS) : State := { later l with sup := x }

theorem meets_SupervisorAndEventsComplete :
    (let s := having [(HDI.STATUS, 3)]; mpllLocked s = true ∧ s.crh.inReset = false ∧ supOpen s = false) ∧
    (supOpen (up []) = true ∧ molxoHeld (up []) = false) ∧
    (let s := supd [] { wd := some (0, 100) }; s.sup.wd = some (0, 100) ∧ s.sup.warned = false ∧ s.crh.inReset = false ∧
      s.crh.rstFrom + ticksPerUs < max s.now (0 + 100 * supClk)) ∧
    (let s := supd [(SUP.CJ_LEN, 64)] { key := some 5 }; Writes host SUP.CJ_CTRL 1 1 s ∧ (∀ c ∈ cryptoConds false s, c.1 = false) ∧
      Writes host SUP.CJ_CTRL 1 2 s ∧ ∀ c ∈ cryptoConds true s, c.1 = false) ∧
    (∀ bad : Bool, let j : CJob := { key := none, addr := 0, len := 8, got := 8, bad := bad }; (supd [] { job := some j }).sup.job = some j ∧
      j.got = j.len) ∧
    (Writes host SUP.HOST_KICK 1 1 (up [(SUP.HOST_WD, 1)]) ∧ (up [(SUP.HOST_WD, 1)]).rd SUP.HOST_WD ≠ 0) ∧
    (supd [] { hostEnd := some 5 }).sup.hostEnd = some 5 ∧
    nextRaising ({ up [] with evq := [(9, 511), (9, 3)] } : State).evq = some (9, 3) ∧
    ((supd [] { due := [(7, 16384)] }).sup.due.find? fun x => Nat.beq x.1 7) = some (7, 16384) ∧
    (let s := supd [] { log := [⟨1, 2, true⟩] }; host.master ≠ 9 ∧ Takes host SUP.LOG_POP 24 s ∧ s.sup.log = ⟨1, 2, true⟩ :: []) ∧
    (let s := (supd [] { ibi := [5] }).modI3c fun i => { i with dyn := some 9 }; s.sup.ibi = 5 :: [] ∧ s.hdi.i3c.dyn.isSome = true ∧
      s.hdi.i3c.enInt = true ∧ s.hdi.i3c.bus = .sdr) := by
  simp only [Writes, Takes, Reads, Served]; decide +kernel

/-- The I3C port with a challenge under way. -/
def challenged : State := (up []).modMaster 0 fun m => { m with chal := some 5, flow := 2 }

theorem meets_AuthorisationCompletes :
    (∀ code ∈ [1, 2, 3, 4], Writes host DBG.AUTH_CTRL 1 code (up []) ∧ ∀ c ∈ authConds host code (up []), c.1 = false) ∧
    (∀ code ∈ [1, 2, 3, 4], let s := { trusted [] with now := 20 * ticksPerUs };
      Writes host DBG.CTRL 1 code s ∧ (∀ c ∈ dbgCtrlConds host code s, c.1 = false) ∧ s.crh.rstFrom + ticksPerUs < s.now) := by
  simp only [Writes, Served]; decide +kernel

/-- A right answer to a challenge, and a wrong one. -/
theorem meets_AuthorisationCompletes_answer : ∃ v w, Writes host DBG.AUTH_RESP 32 v challenged ∧ authOk 0 v challenged = true ∧
    Writes host DBG.AUTH_RESP 32 w challenged ∧ (challenged.masterOf 0).chal.isSome = true ∧ authOk 0 w challenged = false := by
  have hw : ∀ v, Writes host DBG.AUTH_RESP 32 v challenged := fun v => ⟨⟨by decide, rfl⟩, by decide⟩
  have hc : challenged.masterOf 0 = { chal := some 5, flow := 2 } := by decide
  have hn : challenged.now = 0 := by decide
  refine ⟨hmac256 (authKey 2 challenged) (5 + 2 * 2 ^ 256) 33 % 2 ^ 256,
    hmac256 (authKey 2 challenged) (5 + 2 * 2 ^ 256) 33 % 2 ^ 256 + 1, hw _, ?_, hw _, by decide, ?_⟩
  · simp [authOk, hc, hn]
  · simp [authOk, hc, hn]

/-- Target n held by debug, in state st of its engine, with register select r. -/
def heldTgt (n r : Nat) (l : List (Nat × Nat)) : State :=
  let s := (trusted ((DBG.REGSEL n, r) :: l)).modTgt n fun g => { g with held := true }
  s

theorem meets_DebugControlCompletes :
    (Writes host DBG.BRK_ALLOC 1 1 (trusted []) ∧ freeUnit (trusted []) = some 0) ∧
    (let s := (trusted []).modBrk 63 fun _ => { on := true }; Writes host (DBG.BRK_CFG 63) 8 0x100 s ∧
      (∀ c ∈ brkCfgConds host 63 0x100 s, c.1 = false) ∧ Writes host (DBG.BRK_CMD 63) 1 2 s ∧ Writes host (DBG.BRK_CMD 63) 1 3 s ∧
      ∀ c ∈ brkCmdConds host 63 s, c.1 = false) ∧
    (({ up [] with groupAt := [(3, 9)] } : State).groupAt.find? fun x => Nat.beq x.1 3) = some (3, 9) ∧
    (∀ n ∈ [0, 1, 64], let s := trusted [(VEN.STATE 0, 3), (DSP.STATE 31, 2)]; Writes host (DBG.HCTRL n) 1 1 s ∧
      ∀ c ∈ haltConds host n s, c.1 = false) ∧
    (∀ n ∈ [0, 1, 64], let s := heldTgt n 0 [(VEN.STATE 0, 4), (DSP.STATE 31, 3)]; Writes host (DBG.HCTRL n) 1 2 s ∧
      Writes host (DBG.HCTRL n) 1 3 s ∧ ∀ c ∈ resumeConds host n s, c.1 = false) ∧
    (((up []).modTgt 0 fun g => { g with pend := true }).tgtOf 0).pend = true ∧
    (∀ n ∈ [0, 1, 64], let s := heldTgt n (if n = 64 then 0x100 else 0) []; Takes host (DBG.REG n) 8 s ∧ (∀ c ∈ regConds host n false 0 s, c.1 = false) ∧
      Writes host (DBG.REG n) 8 1 s ∧ ∀ c ∈ regConds host n true 1 s, c.1 = false) ∧
    (∀ n ∈ [0, 64], Writes host (DBG.T_DTX n) 4 5 (trusted []) ∧ ((trusted []).tgtOf n).dtxFull = false ∧
      Writes host (DBG.DRX n) 4 5 (trusted []) ∧ ((trusted []).tgtOf n).drxFull = false) ∧
    (let s := (trusted []).modTgt 64 fun g => { g with dtxFull := true, drxFull := true };
      Takes host (DBG.DTX 64) 4 s ∧ (s.tgtOf 64).dtxFull = true ∧ Takes host (DBG.T_DRX 64) 4 s ∧ (s.tgtOf 64).drxFull = true) := by
  simp only [Writes, Takes, Reads, Served]; decide +kernel

theorem meets_BusCodesComplete :
    (busUp (up []) = true ∧ (up []).crh.inReset = false ∧ (up []).hdi.i3c.dyn = none ∧ (up []).hdi.i3c.bus ≠ .ignore ∧
      (up []).hdi.i3c.rstact = none ∧ ∀ r ∈ [provisionalId (up []) + 1], provisionalId (up []) < r) ∧
    (let s := (later []).modI3c fun i => { i with dyn := some 9, rstact := some 2 }; busUp s = true ∧ s.hdi.i3c.dyn = some 9 ∧
      s.hdi.i3c.rstact = some 2 ∧ s.crh.rstFrom + ticksPerUs < s.now) ∧
    ((up []).modI3c fun i => { i with rstact := some 0 }).hdi.i3c.rstact = some 0 := by decide +kernel

/-- The access code of the member of key k. -/
def accOf (k : Nat) : Option Dict.Acc := (Dict.find (k / 256) (k % 256)).map (·.acc)

theorem meets_RequestsComplete :
    (accOf HDI.STATUS = some .ro ∧ (readRule host 1 0 4 (up [])).len = 4 ∧ (∀ c ∈ (readRule host 1 0 4 (up [])).conds, c.1 = false) ∧
      Reads host HDI.STATUS 4 (up [])) ∧
    (let s := (up []).modMaster 0 fun m => { m with snaps := [⟨HDI.MESH_DATA, 8, 5, true⟩] }; accOf HDI.MESH_DATA = some .rd ∧
      snapFor host HDI.MESH_DATA s = some ⟨HDI.MESH_DATA, 8, 5, true⟩ ∧ (∀ p ∈ (s.masterOf 0).pend, p.key ≠ HDI.MESH_DATA) ∧
      Reads host HDI.MESH_DATA 8 s) ∧
    (accOf TMU.EVFLAGS = some .w1c ∧ Writes host TMU.EVFLAGS 4 1 (up []) ∧ TMU.EVFLAGS ≠ EDG.DROP_GROUPS) ∧
    Writes host EDG.DROP_GROUPS 4 1 (up []) ∧
    (accOf (VEN.SITE_TAG 0) = some .rws ∧ Writes host (VEN.SITE_TAG 0) 1 7 (up []) ∧
      ∀ c ∈ stageConds host (VEN.SITE_TAG 0) 1 (up []), c.1 = false) ∧
    Writes host HDI.MIRROR_LEASE 4 1000 (up []) ∧
    (Served host 3 HDI.MESH_DATA 2 8 (up []) ∧ (∀ c ∈ fetchConds host 0x30 1 8 (up []), c.1 = false) ∧
      responseLong host 0 (up []) = false) ∧
    (let p : Pend := { key := HDI.MESH_DATA, implicit := false, tag := 1 };
      ((((up []).modMaster 0 fun m => { m with pend := [p] }).masterOf 0).pend.find? fun p =>
        Nat.beq p.key (0x30 * 256 + 1) && p.parts.isEmpty) = some p) ∧
    Dict.find 0x30 1 ≠ none := by
  simp only [Writes, Takes, Reads, Served]; decide +kernel

/-- The address of member m of object o in the dictionary window. -/
def window (o m : Nat) : Nat := 0xF0000000000 + o * 2048 + m * 8

theorem meets_MeshDataComplete :
    (let s := up [(HDI.MESH_ADDR, 512)]; Writes host HDI.MESH_DATA 16 5 s ∧ 16 % 8 = 0 ∧ s.rd HDI.MESH_ADDR % 8 = 0 ∧
      Served host 3 HDI.MESH_DATA 2 2048 s ∧ responseLong host 0 s = false ∧ ∀ c ∈ fetchConds host 0x30 1 2048 s, c.1 = false) ∧
    (let s := trusted [(DBG.MEM_ADDR, 512)]; Writes host DBG.MEM_DATA 16 5 s ∧ s.rd DBG.MEM_ADDR % 8 = 0 ∧
      Served host 3 DBG.MEM_DATA 2 8 s ∧ responseLong host 0 s = false ∧ ∀ c ∈ fetchConds host 0xF500 1 8 s, c.1 = false) ∧
    (∀ op ∈ [MeshOp.read, .write, .orw], let r := ask op (.mesh 0 0) (window 0x10 1); let s := sent r (up []);
      regionOf r.addr s = 5 ∧ canArrive r s = true ∧ s.crh.inReset = false ∧ r.len = 8 ∧ r.addr % 8 = 0 ∧ windowMaster r = 16 ∨ op = .orw) ∧
    (let r := ask .read (.mesh 0 0) (window 0x10 1); let s := sent r (up []);
      let u := flitsNoted (path r.src 0) [] (noteArrival r { s with reqs := s.reqs.erase r }); let p := Req.of (windowMaster r) 0;
      isPoison (path r.src 0) [.poisoned 0] = true ∧ isPoison (path r.src 0) [] = false ∧ windowObj r = 0x10 ∧ windowMem r = 1 ∧
      statusOf p 1 0x10 1 0 0 (readRule p 0x10 1 (windowWidth r) u).len (meshForm p 1 0x10 1 :: (readRule p 0x10 1 (windowWidth r) u).conds) u = 0) ∧
    (let r := ask .write (.mesh 0 0) (window 0x10 1); let s := sent r (up []);
      let u := flitsNoted (path r.src 0) [] (noteArrival r { s with reqs := s.reqs.erase r });
      ∃ w, exec (.dictWrite (.of (windowMaster r) 0) (windowObj r) (windowMem r) (windowWidth r)
        (r.data % 2 ^ (8 * windowWidth r) &&& fieldsOf (windowObj r) (windowMem r))) u = .next w) := by
  refine ⟨?_, ?_, by decide +kernel, by decide +kernel, _, rfl⟩ <;> (simp only [Writes, Served]; decide +kernel)

theorem meets_BatchesComplete :
    (Served host 4 (VEN.SITE_TAG 0) 0 0 (staged 1) ∧ Served host 5 (VEN.SITE_TAG 0) 0 0 (staged 1) ∧
      (ownerCond host (staged 1)).1 = false ∧ stagedAt (VEN.SITE_TAG 0) (staged 1) = some ⟨VEN.SITE_TAG 0, 1, 7⟩ ∧
      stagedAt (VEN.SITE_TAG 1) (staged 1) = none ∧ (∀ c ∈ mdropConds host (staged 1), c.1 = false)) ∧
    ((staged 1).rd HDI.MIRROR_OWNER ≠ 0xFF ∧ mirrorState (staged 1) ≠ 5) ∧
    (Writes host HDI.BATCH_CHECK 1 1 (staged 1) ∧ ∀ c ∈ checkConds host (staged 1), c.1 = false) ∧
    (mirrorState (staged 2) = 2 ∧ firstFailing (staged 2) = none ∧
      (firstFailing ((staged 2).modMirror fun m => { m with batch := [⟨VEN.START_ON_APPLY 0, 1, 1⟩] })).isSome = true) ∧
    (Writes host HDI.BATCH_DISCARD 1 1 (staged 1) ∧ ∀ c ∈ discardConds host (staged 1), c.1 = false) ∧
    (∀ mode ∈ [0, 1, 2], let s := ((staged 3).wr HDI.APPLY_MODE mode).wr HDI.APPLY_TIME (2 ^ 64);
      Writes host HDI.APPLY_ARM 1 1 s ∧ ∀ c ∈ armConds host s, c.1 = false) ∧
    (Writes host HDI.APPLY_CANCEL 1 1 (staged 5) ∧ (∀ c ∈ cancelConds host (staged 5), c.1 = false) ∧ mirrorState (staged 5) = 5) ∧
    (let s := (staged 5).wr HDI.APPLY_MODE 2; mirrorState s = 5 ∧ s.rd HDI.APPLY_MODE = 2 ∧ s.hdi.mirror.edge = none) ∧
    (let s := ((staged 5).wr HDI.APPLY_MODE 0).modMirror fun m => { m with edge := some 8192 };
      mirrorState s = 5 ∧ applyEdge s = some (8192, false) ∧ (s.hdi.mirror.batch.map (·.key)).Nodup ∧
      ∀ x ∈ s.hdi.mirror.batch, (Dict.find (x.key / 256) (x.key % 256)).map (·.acc) = some .rws) ∧
    (let s := ((staged 5).wr HDI.APPLY_MODE 0).wr (VEN.STATE 0) 3; veState 0 s = 3 ∧ keyOfEngine 0 (VEN.SITE_TAG 0) s = true ∧
      s.rd (VEN.SITE_TAG 0) ≠ 7) := by
  simp only [Writes, Served]; decide +kernel

/-- Lane 5 with a request frame on channel MGMT. -/
def slotted (slots : Tab SlotS) : State :=
  { (laned 5 3 { buf := [mgmt8] }).wr (HDI.SLOT 0) (5 * 65536 + 2) with hdi := { slots := slots } }

theorem meets_ManagementCompletes :
    (oldest 5 1 (slotted [(1, { bound := true })]) = some mgmt8 ∧ slotBound 5 mgmt8.src (slotted [(1, { bound := true })]) = some 1 ∧
      outstanding 1 5 mgmt8.src (slotted [(1, { bound := true })]) < 16) ∧
    (let s := laned 5 3 { buf := [mgmt8] }; slotBound 5 mgmt8.src s = none ∧ slotFree s = some 1) ∧
    (let s := { laned 5 3 { buf := [mgmt8] } with hdi := { slots := (List.range 8).map fun k => (k + 1, { bound := true }) } };
      oldest 5 1 s = some mgmt8 ∧ slotBound 5 mgmt8.src s = none ∧ slotFree s = none) ∧
    (((slotted [(8, { bound := true })]).slotOf 8).bound = true ∧ (slotted [(8, { bound := true })]).rd HDI.MIRROR_OWNER ≠ 8) ∧
    Writes host HDI.STATS_CLR 1 1 (up []) ∧
    (∀ k ∈ [0, 12], Writes host (HDI.RETIRE_VE + k) (if retireBits (0x4000 + k) = 32 then 4 else 8) 1 (trusted []) ∧
      ∀ c ∈ retireConds (0x4000 + k) 1 (trusted []), c.1 = false) ∧
    (supOpen (up []) = true ∧ molxoHeld (up []) = false ∧ (up []).rd SUP.LEDGER_PERIOD ≠ 0) := by
  simp only [Writes, Served]; decide +kernel

/-- The counters of a pane are 0 at reset. -/
theorem pane_dflt {o m : Nat} (lo : 0x5100 ≤ o) (hi : o < 0x6000) (hm : m ∈ [4, 5, 6]) : Dict.dflt (o * 256 + m) = 0 := by
  have m8 : m < 256 := (by decide : ∀ m ∈ [4, 5, 6], m < 256) m hm
  have h1 : (o * 256 + m) / 256 = o := by omega
  have h2 : (o * 256 + m) % 256 = m := by omega
  have row : ∀ r ∈ Dict.rows5, 0x5100 < r.obj + r.cnt → ∀ m ∈ [4, 5, 6], r.lo ≤ m → m ≤ r.hi → r.dflt = 0 := by decide
  have five : Dict.rowsOf o = Dict.rows5 := by
    unfold Dict.rowsOf; rw [show o / 4096 = 5 by omega]; rfl
  unfold Dict.dflt
  simp only [h1, h2]
  rw [if_neg (by simp; omega), if_neg (by simp; omega), if_neg (by simp; omega), if_neg (by simp; omega), if_neg (by simp; omega),
    if_neg (by simp; omega), if_neg (by simp; omega)]
  split
  · next r h =>
    unfold Dict.find at h
    rw [if_neg (by simp; omega), five] at h
    have this := List.find?_some h
    simp only [Dict.Row.holds, Bool.and_eq_true, Nat.ble_eq, Nat.blt_eq] at this
    exact row r (List.mem_of_find?_eq_some h) (by omega) m hm this.1.2 this.2
  · rfl

/-- Where no entry has the key, a table reads its default. -/
theorem get_unlisted {k : Nat} : ∀ t : Tab Nat, (∀ e ∈ t, e.1 ≠ k) → Tab.get Dict.dflt t k = Dict.dflt k
  | [], _ => rfl
  | e :: t, h => by
    unfold Tab.get
    rw [if_neg (h e (by simp)), get_unlisted t fun x hx => h x (by simp [hx])]

/-- A pane of a part after SUP_READY has counted nothing. -/
theorem pane_rd {o m : Nat} (lo : 0x5100 ≤ o) (hi : o < 0x6000) (hm : m ∈ [4, 5, 6]) : (up []).rd (o * 256 + m) = 0 := by
  have out : ∀ e ∈ (up []).reg, e.1 < 0x510000 ∨ 0x600000 ≤ e.1 := by decide
  have m8 : m < 256 := (by decide : ∀ m ∈ [4, 5, 6], m < 256) m hm
  exact (get_unlisted _ fun e he => by have := out e he; omega).trans (pane_dflt lo hi hm)

/-- The ledgers of a part after SUP_READY balance. -/
theorem balanced : ∀ c, ((ledger c (up [])).filter fun x => !x.2.2) = []
  | 4 => by
    rw [List.filter_eq_nil_iff]
    simp only [ledger, List.mem_map, List.mem_range]
    rintro x ⟨n, hn, rfl⟩
    have q : ((up []).paneOf n).q.length = 0 := rfl
    rw [PAN.PUSHED, PAN.POPPED, PAN.DISCARD, q, pane_rd (by omega) (by omega) (by simp), pane_rd (by omega) (by omega) (by simp),
      pane_rd (by omega) (by omega) (by simp)]
    simp
  | 0 | 1 | 2 | 3 | 5 | 6 | 7 | 8 | 9 | 10 | 11 | 12 | 13 | 14 | 15 | 16 => by decide +kernel
  | _ + 17 => rfl

/-- The ledgers balance, and one of a part that misses a line read does not. -/
theorem meets_ManagementCompletes_ledgers : ledgerFails (up []) = [] ∧
    ∃ x, (ledgerFails (up [(VEN.REFILL_ISSUED 0, 1)])).getLast? = some x := by
  refine ⟨?_, _, List.getLast?_eq_some_getLast (List.ne_nil_of_mem (a := 1 * 2 ^ 24) ?_)⟩
  · unfold ledgerFails
    rw [List.flatMap_eq_nil_iff]
    intro c _
    rw [balanced]; rfl
  · exact List.mem_flatMap.2 ⟨1, by decide, by decide +kernel⟩

theorem meets_ResponsesComplete : ∀ kind ∈ [0, 1, 2],
    (let r := ask .read (.mesh 1 2) imem; ((answered r kind (up [])).resps.find? fun x => decide (x.req = r) && Nat.beq x.kind kind) =
      some ⟨r, kind, 0x55⟩ ∧ canReturn ⟨r, kind, 0x55⟩ (answered r kind (up [])) = true ∧ r.own = .mesh 1 2) ∧
    (let r := ask .read (.hdi 0) imem; let p : Pend := { key := HDI.MESH_DATA, implicit := false, tag := 1, addr := imem, len := 8, parts := [r] };
      let s := (answered r kind (up [])).modMaster 0 fun m => { m with pend := [p] };
      (s.resps.find? fun x => decide (x.req = r) && Nat.beq x.kind kind) = some ⟨r, kind, 0x55⟩ ∧ canReturn ⟨r, kind, 0x55⟩ s = true ∧ r.own = .hdi 0 ∧ r.op = .read ∧
      ((s.masterOf 0).pend.find? fun p => p.parts.contains r) = some p) ∧
    (let r := ask .write (.dbg 9) imem; ((answered r kind (up [])).resps.find? fun x => decide (x.req = r) && Nat.beq x.kind kind) =
      some ⟨r, kind, 0x55⟩ ∧ canReturn ⟨r, kind, 0x55⟩ (answered r kind (up [])) = true ∧
      (arrived [] ⟨r, kind, 0x55⟩ (answered r kind (up []))).kind = kind ∧ r.own = .dbg 9 ∧ r.op ≠ .read ∧ (ask .write (.hdi 0) imem).own = .hdi 0) := by decide +kernel

/-- A lane with PAM4, with and without the precoder, and one without either. -/
theorem meets_LineReadsBack :
    (∀ p ∈ [0, 1], let s := up [(LNK.RATE 0, 4), (LNK.PRECODE 0, p)]; (s.laneOf 0).rxP < 4 ∧ pam4 0 s = true ∧ (precodeOn 0 s = true ↔ p = 1) ∧
      Writes host (LNK.CTRL 0) 1 1 (laned 0 0 {}) ∧ (∀ c ∈ laneStartConds 0 (laned 0 0 {}), c.1 = false)) ∧
    (let s := up [(LNK.RATE 0, 1), (LNK.PRECODE 0, 1)]; pam4 0 s = false) := by
  simp only [Writes, Served]; decide +kernel

/-! Clauses of the wider statements. -/

/-- The bytes that a command may change are named, and byte 0 is none of them. -/
def Spares (i : Instr) (s : State) : Prop := ∃ P t, exec i s = .next t ∧ stored i s = some P ∧ ¬P 0

theorem meets_Frames_bytes :
    (changesControl (.gateClosed 0)).isSome = true ∧ Spares (.gateClosed 0) (up [(CRH.GATE_STATE 0, 2)]) ∧
    (changesControl (.domainOff 31)).isSome = true ∧ Spares (.domainOff 31) (up []) ∧
    (changesEngines (.lineReadComplete 0 ⟨5, []⟩)).isSome = true ∧ Spares (.lineReadComplete 0 ⟨5, []⟩) (up []) ∧
    (changesData (.paneModeWrite host 0 1)).isSome = true ∧ Spares (.paneModeWrite host 0 1) (up [(PAN.STATE 0, 1)]) ∧
    (changesControl (.meshAckResponse (ask .write (.hdi 0) 0) [])).isSome = true ∧ Spares (.meshAckResponse (ask .write (.hdi 0) 0) []) (up []) := by
  refine ⟨rfl, ⟨_, _, rfl, rfl, ?_⟩, rfl, ⟨_, _, rfl, rfl, ?_⟩, rfl, ⟨_, _, rfl, rfl, ?_⟩, rfl, ⟨_, _, rfl, rfl, ?_⟩, rfl, ⟨_, _, rfl, rfl, id⟩⟩
  · rintro ⟨w, h, -⟩; cases h
  · rintro ⟨h, -⟩; exact absurd h (by decide)
  · rintro ⟨x, h, -⟩; cases h
  · rintro ⟨h, -⟩; exact absurd h (by decide)

/-- A full tail for SQ40, whose ring is full too. -/
def full40 : State := queue { tail := List.replicate 64 (1, false), ring := (List.range 64).map fun k => (k, LineSt.written) }

theorem meets_RefusedAccessChangesNothing_counted :
    (deaf host challenged = false ∧ ∃ v, statusOf host 2 0xF001 2 32 v 0 (respConds host 32 v challenged) challenged = 9) ∧
    (deaf host (up []) = false ∧ statusOf host 2 0xE000 3 8 (2 ^ 63) 0 (stepConds (2 ^ 63) (up [])) (up []) = 4 ∧
      (let s := up [(TMU.ROLE, 1)]; statusOf host 2 0xE000 3 8 (2 ^ 43) 0 (stepConds (2 ^ 43) s) s = 0xB)) ∧
    (deaf host full40 = false ∧ ∀ mark : Bool, let k := if mark then FCP.PUSH_END 40 else FCP.PUSH 40;
      statusOf host 2 (k / 256) (k % 256) 8 5 0 (pushConds 40 mark full40) full40 = 8) := by
  refine ⟨⟨by decide, ?_⟩, by decide +kernel, by decide +kernel⟩
  obtain ⟨v, w, -, -, hw, -, ho⟩ := meets_AuthorisationCompletes_answer
  refine ⟨w, ?_⟩
  have e : respConds host 32 w challenged = [(false, 2), (false, 7), (true, 9)] := by
    unfold respConds
    rw [show authOk host.master w challenged = false from ho]
    decide
  have h9 := Laws.CompleteDbg.DebugFacts.firstOf_nine (b := [(false, 2), (false, 7), (true, 9)]) hw.1.2 (by decide) ⟨(true, 9), by decide, rfl⟩
  unfold statusOf
  rw [e, show baseConds host 2 0xF001 2 32 w challenged = baseConds host 2 (DBG.AUTH_RESP / 256) (DBG.AUTH_RESP % 256) 32 w challenged from rfl, h9]
  rfl

theorem meets_DebugReadsChangeNothing_entries :
    (let s := supd [] { log := [⟨1, 2, true⟩] }; Takes port SUP.LOG_POP 24 s ∧ deaf port s = false ∧ s.sup.log = [⟨1, 2, true⟩]) ∧
    (let s := queue { head := [(7, false), (8, true)] }; Takes port (FCP.POP 40) 8 s ∧ Takes port (FCP.POPREC 40) 16 s ∧
      (s.sqOf 40).head = [(7, false), (8, true)] ∧ packetLen 40 s = some 2) ∧
    (let s := (up [(TMU.HOST_LANES, 32)]).modLaneTime 5 fun x => { x with txts := [(1, 2)], rx := [(3, 4)] };
      Takes port (TMU.TXTS 5) 24 s ∧ Takes port (TMU.RXMSG 5) 48 s ∧ s.bit TMU.HOST_LANES 5 = true ∧ (s.laneTimeOf 5).txts = [(1, 2)] ∧
      (s.laneTimeOf 5).rx = [(3, 4)]) ∧
    (let s := (up []).modCap 3 fun c => { c with q := [(7, true)] }; Takes port (TMU.CAP_POP 3) 24 s ∧ (s.capOf 3).q = [(7, true)]) ∧
    (let s := (up []).modTgt 64 fun g => { g with dtxFull := true, drxFull := true };
      Takes port (DBG.DTX 64) 4 s ∧ (s.tgtOf 64).dtxFull = true ∧ Takes port (DBG.T_DRX 64) 4 s ∧ (s.tgtOf 64).drxFull = true) := by
  simp only [Takes, Reads, Served]; decide +kernel

/-- VE0 at a decision of its own, with what x gives it, and the word of operation code o at word 0. -/
def deciding (o : Nat) (x : VeRun → VeRun) : State := (running (o * 2 ^ 122) []).modVe 0 fun e => x { e with base := 1000 * 8192 }

/-- VE0 decides at a boundary of its own the word of code o at word 0: what x gives it leaves the decision open. -/
def Free (o : Nat) (x : VeRun → VeRun) : Prop :=
  let s := deciding o x
  issuing 0 s = true ∧ blocked 0 (veBoundary 0 s) s = false ∧ (s.veOf 0).lands = [] ∧ (s.veOf 0).rptLeft = 0 ∧ (s.veOf 0).bar = none

theorem chooses {o : Nat} {x : VeRun → VeRun} (h : Free o x) : VeChooses 0 (deciding o x) := ⟨by decide, h⟩

/-- The fetch at address a gives word w. -/
def fetches (a w : Nat) (s : State) : Bool := match fetchWord 0 a s with | .ok x => Nat.beq x w | .error _ => false

theorem fetched {a w : Nat} {s : State} (h : fetches a w s = true) : fetchWord 0 a s = .ok w := by
  unfold fetches at h
  split at h
  · rename_i x hx; rw [hx, Nat.eq_of_beq_eq_true h]
  · cases h

/-- After a taken transfer near, or with none. -/
def jumps (near : Bool) (e : VeRun) : VeRun := { e with after := .goto 0, lastXfer := if near then some (1000 * 8192) else none }
/-- After JC with condition c. -/
def tests (c : Nat) (e : VeRun) : VeRun := { e with after := .jc c 0 }
/-- After MATCH of a loop with timeout T, in cycle 1. -/
def closes (T : Nat) (e : VeRun) : VeRun := { e with after := .matchEnd, loop := some ⟨0, T, 0, []⟩, cyc := 1 }
/-- With a full stack for CALL, an empty one, and an open loop for MBEG. -/
def stacked (o : Nat) (e : VeRun) : VeRun :=
  { e with stack := if o = 5 then List.replicate 16 0 else [], loop := if o = 9 then some ⟨0, 9, 0, []⟩ else none }

theorem meets_VeFaultsBarriersLines_decisions :
    (VeChooses 0 (deciding 0 id) ∧ ((deciding 0 id).veOf 0).after = .seq ∧ VecAt 0 0 0 (deciding 0 id)) ∧
    (∀ near : Bool, VeChooses 0 (deciding 0 (jumps near)) ∧ ((deciding 0 (jumps near)).veOf 0).after = .goto 0 ∧
      VecAt 0 0 0 (deciding 0 (jumps near)) ∧ ((deciding 0 (jumps near)).veOf 0).lastXfer = (if near then some (1000 * 8192) else none) ∧
      veBoundary 0 (deciding 0 (jumps near)) < 1000 * 8192 + ticksPerNs) ∧
    (∀ c < 6, VeChooses 0 (deciding 0 (tests c)) ∧ ((deciding 0 (tests c)).veOf 0).after = .jc c 0) ∧
    (∀ T ∈ [0, 9], VeChooses 0 (deciding 0 (closes T)) ∧ ((deciding 0 (closes T)).veOf 0).after = .matchEnd ∧
      ((veKnows 0 (deciding 0 (closes T))).veOf 0).loop = some ⟨0, T, 0, []⟩) ∧
    (∀ o ∈ [5, 6, 9, 10, 14], VeChooses 0 (deciding o (stacked o)) ∧ fetchWord 0 0 (deciding o (stacked o)) = .ok (o * 2 ^ 122) ∧
      (wInvalid (o * 2 ^ 122) = true ↔ o = 14)) := by
  have h0 : Free 0 id ∧ fetches 0 0 (deciding 0 id) = true ∧ wInvalid 0 = false ∧ wOpc 0 = 0 ∧ wDsrc 0 ≠ 1 := by unfold Free; decide
  have h1 : ∀ near : Bool, Free 0 (jumps near) ∧ fetches 0 0 (deciding 0 (jumps near)) = true := by unfold Free; decide
  have h2 : ∀ c < 6, Free 0 (tests c) := by unfold Free; decide
  have h3 : ∀ T ∈ [0, 9], Free 0 (closes T) := by unfold Free; decide
  have h4 : ∀ o ∈ [5, 6, 9, 10, 14], Free o (stacked o) ∧ fetches 0 (o * 2 ^ 122) (deciding o (stacked o)) = true ∧
      (wInvalid (o * 2 ^ 122) = true ↔ o = 14) := by unfold Free; decide
  exact ⟨⟨chooses h0.1, rfl, fetched h0.2.1, h0.2.2⟩, fun n => ⟨chooses (h1 n).1, rfl, ⟨fetched (h1 n).2, h0.2.2⟩, rfl, by cases n <;> decide⟩,
    fun c hc => ⟨chooses (h2 c hc), rfl⟩, fun T hT => ⟨chooses (h3 T hT), rfl, by revert T; decide⟩,
    fun o ho => ⟨chooses (h4 o ho).1, fetched (h4 o ho).2.1, (h4 o ho).2.2⟩⟩

/-- The answer to a ring read of line 3 is an error, with and without an older read under way. -/
theorem meets_FailCaptureCompletes_error : ∀ older ∈ [[], [(2, LineSt.reading)]], let r := ask .read (.ringRead 40) 768
    let s := answered r 2 (queue { ring := older ++ [(3, .reading)] })
    respFor (.ringRead 40) s = some ⟨r, 2, 0x55⟩ ∧ canReturn ⟨r, 2, 0x55⟩ s = true ∧ (arrived [] ⟨r, 2, 0x55⟩ s).kind = 2 ∧
      3 = (r.addr - s.rd (FCP.Q_RING_BASE 40)) / 256 ∧ (s.sqOf 40).ring.find? (fun e => Nat.beq e.1 3) = some (3, .reading) ∧
      (olderRead 40 3 s = true ↔ older ≠ []) := by decide

/-- VE0 issues a VEC word that drives EO0 with its position 0, action x, and compares EI0. -/
def pinned (x : Nat) : State := running 0 [(0x850000, 0), (0x860000, 0), (VEN.ACTION 0 0, x)]

theorem meets_VeWordsComplete_pins :
    (∀ x ∈ [0, 1, 2, 3], VeDecides 0 0 0 true (pinned x) ∧ actionOf 0 0 0 (pinned x) = x ∧
      spaced ((pinned x).outOf 0).lastEn (veBoundary 0 (pinned x) + tfield ((pinned x).rd (EDG.OTSET 0 0)) 3) = true ∧
      allSpaced ((pinned x).outOf 0).lastData ((formatEdges ((pinned x).rd (EDG.OTSET 0 0)) (veBoundary 0 (pinned x)) false).map (·.1)) = true ∧
      allSpaced ((pinned x).inOf 0).last ((inMarks ((pinned x).rd (EDG.ITSET 0 0)) x).map (veBoundary 0 (pinned x) + ·)) = true) ∧
    wOpc 0 = 0 ∧ wDsrc 0 = 0 ∧ wTset 0 = 0 ∧ outMap 0 (pinned 1) = [(0, 0)] ∧ inMap 0 (pinned 1) = [(0, 0)] := by
  have h : ∀ x ∈ [0, 1, 2, 3], issuing 0 (pinned x) = true ∧ blocked 0 (veBoundary 0 (pinned x)) (pinned x) = false ∧
      wordIs 0 0 (decideNext 0 ((pinned x).upto (veBoundary 0 (pinned x) - 18 * ticksPerNs))).2 = true := by decide
  exact ⟨fun x hx => ⟨decides _ _ _ (h x hx).1 (h x hx).2.1 (h x hx).2.2, by revert x; decide⟩, by decide⟩

theorem meets_RequestsComplete_writes :
    (let k := SUP.EV_ROUTE 5; accOf k = some .rw ∧ writeActs (k / 256) (k % 256) = false ∧ Writes host k 1 1 (up []) ∧
      (writeRule host (k / 256) (k % 256) 1 1 (up [])).1 = []) ∧
    (let k := CRH.GATE_EN 0; accOf k = some .rw ∧ writeActs (k / 256) (k % 256) = true ∧ Writes host k 1 0 (up []) ∧
      ∀ c ∈ (writeRule host (k / 256) (k % 256) 1 0 (up [])).1, c.1 = false) := by
  simp only [Writes, Served]; decide +kernel

theorem meets_others_widened :
    (let s := (up []).modTgt 0 fun g => { g with left := some 2 }; (s.tgtOf 0).pend = false ∧ molxoHeld s = false ∧ supOpen s = true ∧
      (s.tgtOf 0).left = some (0 + 2)) ∧
    (let s := supd [] { job := some { key := none, addr := 0, len := 8 } };
      helperTaken s = false ∧ helperTaken { s with cfg := { load := some (load1 0) } } = true) ∧
    (sourceLocked 4000 (up [(CRH.CLK_STATUS, 3)]) = true ∧ resetLasts { up [] with crh := { inReset := true, pinLow := true } } = true ∧
      accessRuns 0 (up []) = false ∧ turnsOff 0 (up []) = false) := by decide +kernel

end Sys2Proof.Tests
end

section
/-! The batch of the mirror under MREAD and MDROP (02_control_dictionary.md R58). -/
namespace Sys2Proof.Proofs.StagedBatch
open Sys2Proof.Machine Sys2Proof.Laws Common
open CompleteMirror.BatchFacts (key_back)

/-! What a batch loses with the entries of one member. -/

/-- Some staged entry makes the batch shorter when it goes. -/
theorem length_filter_lt_of_mem {p : Staged → Bool} {e : Staged} {b : List Staged} (he : e ∈ b) (hp : ¬p e = true) :
    (b.filter p).length < b.length :=
  List.length_filter_lt_length_iff_exists.2 ⟨e, he, hp⟩

/-- The bytes of an entry that goes are free (R57, R58). -/
theorem stagedBytes_filter_add_le {p : Staged → Bool} {e : Staged} {b : List Staged} (he : e ∈ b) (hp : ¬p e = true) :
    stagedBytes (b.filter p) + e.len ≤ stagedBytes b := by
  have split : stagedBytes (b.filter p) + stagedBytes (b.filter (!p ·)) = stagedBytes b := by
    unfold stagedBytes
    rw [← List.sum_append, ← List.map_append]
    exact ((List.filter_append_perm p b).map _).sum_eq
  have gone : e.len ≤ stagedBytes (b.filter (!p ·)) :=
    List.le_sum_of_mem (List.mem_map_of_mem (List.mem_filter.2 ⟨he, by simpa using hp⟩))
  omega

/-! The staged entry of a member. -/

/-- The model compares keys by Nat.beq; simp has its lemmas for ==. -/
theorem natBeq_eq_beq (a b : Nat) : Nat.beq a b = (a == b) := by
  rw [Bool.eq_iff_iff, Nat.beq_eq, beq_iff_eq]

theorem stagedAt_eq_find (k : Nat) (s : State) : stagedAt k s = s.hdi.mirror.batch.find? (·.key == k) := by
  unfold stagedAt
  simp only [natBeq_eq_beq]

/-- The staged entries are those of the batch. -/
theorem stagedAt_congr {s t : State} (h : t.hdi.mirror.batch = s.hdi.mirror.batch) (k : Nat) :
    stagedAt k t = stagedAt k s := by
  rw [stagedAt_eq_find, stagedAt_eq_find, h]

theorem mem_batch_of_stagedAt {k : Nat} {e : Staged} {s : State} (h : stagedAt k s = some e) :
    e ∈ s.hdi.mirror.batch ∧ e.key = k := by
  rw [stagedAt_eq_find] at h
  exact ⟨List.mem_of_find?_eq_some h, by simpa using List.find?_some h⟩

theorem key_ne_of_stagedAt_none {k : Nat} {s : State} (h : stagedAt k s = none) :
    ∀ e ∈ s.hdi.mirror.batch, e.key ≠ k := by
  rw [stagedAt_eq_find] at h
  simpa using h

/-! What dropEff does. -/

@[simp] theorem batchEdited_hdi (s : State) : (batchEdited s).hdi = s.hdi := by
  unfold batchEdited; split <;> simp

theorem dropEff_of_not_staged {k : Nat} {s : State} (h : stagedAt k s = none) : dropEff k s = s := by
  unfold dropEff; rw [h]; rfl

/-- MDROP leaves the entries of the other members, staged or not (R58). -/
theorem dropEff_batch (k : Nat) (s : State) :
    (dropEff k s).hdi.mirror.batch = s.hdi.mirror.batch.filter (·.key != k) := by
  cases h : stagedAt k s with
  | none =>
    rw [dropEff_of_not_staged h, List.filter_eq_self.2]
    intro e he
    simpa using key_ne_of_stagedAt_none h e he
  | some e =>
    unfold dropEff
    rw [h, if_neg (by simp)]
    show (batchEdited s).hdi.mirror.batch.filter (fun e => !(Nat.beq e.key k)) = _
    simp only [batchEdited_hdi, natBeq_eq_beq, bne]

theorem stagedAt_dropEff_same (k : Nat) (s : State) : stagedAt k (dropEff k s) = none := by
  rw [stagedAt_eq_find, dropEff_batch]
  simp

theorem stagedAt_dropEff_other {j k : Nat} (h : j ≠ k) (s : State) : stagedAt j (dropEff k s) = stagedAt j s := by
  rw [stagedAt_eq_find, stagedAt_eq_find, dropEff_batch, List.find?_filter]
  congr 1
  funext e
  by_cases hj : e.key = j <;> simp [hj, h]

theorem dropEff_batch_length_lt {k : Nat} {e : Staged} {s : State} (h : stagedAt k s = some e) :
    (dropEff k s).hdi.mirror.batch.length < s.hdi.mirror.batch.length := by
  obtain ⟨he, hk⟩ := mem_batch_of_stagedAt h
  rw [dropEff_batch]
  exact length_filter_lt_of_mem he (by simp [hk])

theorem dropEff_stagedBytes_add_le {k : Nat} {e : Staged} {s : State} (h : stagedAt k s = some e) :
    stagedBytes (dropEff k s).hdi.mirror.batch + e.len ≤ stagedBytes s.hdi.mirror.batch := by
  obtain ⟨he, hk⟩ := mem_batch_of_stagedAt h
  rw [dropEff_batch]
  exact stagedBytes_filter_add_le he (by simp [hk])

/-! The two accesses, when nothing refuses them. -/

/-- The data length and the data that an MREAD of the member of key k answers. -/
def stagedAnswer (k : Nat) (s : State) : Nat × Nat := ((stagedAt k s).map fun e => (e.len, e.val)).getD (0, 0)

theorem exec_mread (q : Req) (k : Nat) (s : State) :
    exec (.mread q (k / 256) ⟨k % 256, 0⟩) s = .next (mread q (k / 256) (k % 256) 0 s) := rfl

theorem exec_mdrop (q : Req) (k : Nat) (s : State) :
    exec (.mdrop q (k / 256) ⟨k % 256, 0⟩) s = .next (mdrop q (k / 256) (k % 256) 0 s) := rfl

theorem mread_eq_finish (q : Req) (k : Nat) (s : State) :
    mread q (k / 256) (k % 256) 0 s = finish q 4 (k / 256) (k % 256)
      (statusOf q 4 (k / 256) (k % 256) 0 0 (stagedAnswer k s).1 [ownerCond q s, (Nat.ble 9 q.master, 5)] s)
      (stagedAnswer k s).1 (stagedAnswer k s).2 (fun s => s) s := by
  unfold mread stagedAnswer
  rw [key_back]
  cases stagedAt k s <;> rfl

/-- A master with a place as owner, while no other owns the mirror, meets neither condition of an MREAD (R56, 19 R479). -/
theorem mreadConds_false {q : Req} {s : State} (hm : q.master < 9) (ho : (ownerCond q s).1 = false) :
    ∀ c ∈ [ownerCond q s, (Nat.ble 9 q.master, 5)], c.1 = false := by
  have hp : Nat.ble 9 q.master = false := by
    simpa [Bool.eq_false_iff, Nat.ble_eq] using hm
  simp [ho, hp]

theorem mread_gives {q : Req} {k : Nat} {s : State} (hm : q.master < 9) (ho : (ownerCond q s).1 = false)
    (hs : Served q 4 k 0 0 s) (hl : responseLong q (stagedAnswer k s).1 s = false) :
    Gives (.mread q (k / 256) ⟨k % 256, 0⟩) s (AnsweredWith q (stagedAnswer k s).1 (stagedAnswer k s).2) := by
  obtain ⟨heard, base⟩ := hs
  refine ⟨_, exec_mread q k s, ?_⟩
  rw [mread_eq_finish, statusOf_zero base hl (mreadConds_false hm ho)]
  exact resp_finish heard

/-- An MDROP that nothing refuses is answered with 0x00, and dropEff is its effect. -/
theorem mdrop_gives {q : Req} {k : Nat} {s : State} {P : State → Prop} (hs : Served q 5 k 0 0 s)
    (hl : responseLong q 0 s = false) (hc : ∀ c ∈ mdropConds q s, c.1 = false) (hP : ∀ t, Like (dropEff k s) t → P t) :
    Gives (.mdrop q (k / 256) ⟨k % 256, 0⟩) s fun t => Answered q 0 t ∧ P t := by
  obtain ⟨heard, base⟩ := hs
  refine ⟨_, exec_mdrop q k s, ?_⟩
  unfold mdrop
  rw [key_back, statusOf_zero base hl hc]
  exact ⟨(resp_finish heard).1, hP _ (like_finish heard)⟩

/-- Settles O14: an MREAD answers the staged entry, and an MDROP filters the member out of the batch. -/
theorem stagedReadAndDrop : Obligations.StagedReadAndDrop := by
  unfold Obligations.StagedReadAndDrop
  intro q k s hm ho
  refine ⟨fun e he hs hl => ?_, fun hn hs hl => ?_, fun e he hs hl hc => ?_, fun hn hs hl hc => ?_⟩
  · have answer : stagedAnswer k s = (e.len, e.val) := by simp [stagedAnswer, he]
    simpa [answer] using mread_gives hm ho hs (by simpa [answer] using hl)
  · have answer : stagedAnswer k s = (0, 0) := by simp [stagedAnswer, hn]
    simpa [answer] using mread_gives hm ho hs (by simpa [answer] using hl)
  · refine mdrop_gives hs hl hc fun t like => ?_
    have batch := like.mirror_batch
    refine ⟨?_, fun j hj => ?_, ?_, ?_⟩
    · rw [stagedAt_congr batch, stagedAt_dropEff_same]
    · rw [stagedAt_congr batch, stagedAt_dropEff_other hj]
    · rw [batch]; exact dropEff_batch_length_lt he
    · rw [batch]; exact dropEff_stagedBytes_add_le he
  · refine mdrop_gives hs hl hc fun t like => ?_
    rw [dropEff_of_not_staged hn] at like
    exact ⟨like.mirror_batch, like.mem, like.rd⟩

end Sys2Proof.Proofs.StagedBatch
end

section
/-! The operations of a word cell (05_fabric.md R144, R145). -/
namespace Sys2Proof.Proofs.WordCell
open Sys2Proof.Machine Sys2Proof.Laws Common

/-! What an operation computes. -/

@[simp] theorem ofNat_carry (c : Bool) : BitVec.ofNat 16 (if c then 1 else 0) = carryWord c := by cases c <;> rfl

@[simp] theorem toNat_carryWord (c : Bool) : (carryWord c).toNat = if c then 1 else 0 := by cases c <;> rfl

/-- Once bits 0 to n - 1 have moved, bit i of the result is bit 15 - i of x where that one has moved. -/
theorem getLsbD_foldl_bitReverse (x : W16) {i : Nat} (hi : i < 16) : ∀ n, n ≤ 16 →
    ((List.range n).foldl (fun r j => if x.getLsbD j then r ||| (1#16 <<< (15 - j)) else r) 0#16).getLsbD i
      = (decide (15 - i < n) && x.getLsbD (15 - i))
  | 0, _ => by simp
  | n + 1, hn => by
    have ih := getLsbD_foldl_bitReverse x hi n (by omega)
    rw [List.range_succ, List.foldl_append, List.foldl_cons, List.foldl_nil]
    have bit : (1#16 <<< (15 - n)).getLsbD i = decide (15 - i = n) := by
      rw [← BitVec.twoPow_eq, BitVec.getLsbD_twoPow, Bool.eq_iff_iff, Bool.and_eq_true, decide_eq_true_iff,
        decide_eq_true_iff, decide_eq_true_iff]
      omega
    have grown : decide (15 - i < n + 1) = (decide (15 - i < n) || decide (15 - i = n)) := by
      rw [← Bool.decide_or, decide_eq_decide, Nat.lt_succ_iff_lt_or_eq]
    rw [grown]
    by_cases now : 15 - i = n
    · cases one : x.getLsbD n <;> simp [bit, ih, now, one]
    · cases x.getLsbD n <;> simp [bit, ih, now]

theorem bitReverse_eq_reverse (x : W16) : bitReverse x = x.reverse := by
  refine BitVec.eq_of_getLsbD_eq fun i hi => ?_
  have low : 15 - i < 16 := by omega
  rw [bitReverse, getLsbD_foldl_bitReverse x hi 16 le_rfl, BitVec.getLsbD_reverse, BitVec.getMsbD]
  simp [hi, low]

theorem cellOp_add : cellOp 0x01 = fun x y c _ =>
    (x + y + carryWord c, decide (2 ^ 16 ≤ x.toNat + y.toNat + (carryWord c).toNat)) := by
  funext x y c k
  simp [cellOp]

theorem cellOp_sub : cellOp 0x02 = fun x y c _ =>
    (x + ~~~y + carryWord c, decide (2 ^ 16 ≤ x.toNat + (~~~y).toNat + (carryWord c).toNat)) := by
  funext x y c k
  simp [cellOp]

theorem cellOp_shl1 : cellOp 0x08 = fun (x _ : W16) c (_ : W16) => (x <<< 1 ||| carryWord c, x.getLsbD 15) := by
  funext x y c k
  simp [cellOp]

theorem cellOp_brev : cellOp 0x0C = fun x _ _ _ => (x.reverse, false) := by
  funext x y c k
  simp [cellOp, bitReverse_eq_reverse]

theorem cellOp_par : cellOp 0x0F = fun x _ c _ => (carryWord (parity x), xor c (parity x)) := by
  funext x y c k
  simp [cellOp]

theorem cellOp_reserved {op : Nat} (hlo : 0x13 ≤ op) (hhi : op ≤ 0x1F) :
    cellOp op = fun _ _ _ _ => (0#16, false) := by
  interval_cases op <;> rfl

/-! One update of a cell. -/

/-- R and CO of a cell are those of its OP on the X, Y, C and K that its instruction selects (R145). -/
theorem cellOut_eq_cellOp (f u v e : Nat) (ci : Bool) (s : State) :
    cellOut f u v e ci s =
      cellOp (ifield (cellInsn f u v e s) 31 27) (cellArgs f u v e ci s).1 (cellArgs f u v e ci s).2.1
        (cellArgs f u v e ci s).2.2.1 (cellArgs f u v e ci s).2.2.2 := rfl

/-- CESEL set and CT3 at 0 hold the registers; otherwise both sides take them from R and CO (R145). -/
theorem cellNext_eq_cellAfter (f u v e : Nat) (s : State) :
    cellNext f u v e s = cellAfter f u v e (cellOut f u v e (carryIn f v e s u) s) s := by
  have holds : ((cfgOf (cellKey (colOf f u) (rowOf f v)) s).cesel && !(ctlIn f u v 3 e s)) = true ↔
      (cfgOf (cellKey (colOf f u) (rowOf f v)) s).cesel = true ∧ ctlIn f u v 3 e s = false := by
    rw [Bool.and_eq_true, Bool.not_eq_true']
  exact if_congr holds rfl rfl

/-- The state after an update of the cell of key k to the registers n at FAB edge e. -/
def cellUpdated (k e : Nat) (n : Regs) (s : State) : State :=
  let c : CellS := (Tab.get (fun _ => none) s.cells k).getD ⟨heldRegs k s, 0, heldRegs k s, 0, heldRegs k s⟩
  { s.upto e with cells := Tab.set (fun _ => none) s.cells k (some ⟨n, e, c.cur, c.edge, c.old⟩) }

@[simp] theorem regsNow_cellUpdated_same (k e : Nat) (n : Regs) (s : State) : regsNow k (cellUpdated k e n s) = n := by
  simp [regsNow, cellUpdated, get_set_same]

theorem regsNow_cellUpdated_other {j k : Nat} (h : j ≠ k) (e : Nat) (n : Regs) (s : State) :
    regsNow j (cellUpdated k e n s) = regsNow j s := by
  have entry : Tab.get (fun _ => none) (cellUpdated k e n s).cells j = Tab.get (fun _ => none) s.cells j := by
    unfold cellUpdated
    rw [get_set_other _ h]
  unfold regsNow
  rw [entry]
  rfl

/-- A command whose range of operations holds the one that the cell runs updates the cell (R145, R146, R155). -/
theorem cellCommand_of_cellRuns {col row op lo hi : Nat} {s : State} (runs : CellRuns col row op s)
    (hlo : lo ≤ op) (hhi : op ≤ hi) :
    cellCommand col row lo hi s = .next (cellUpdated (cellKey col row) (cellEdge (cellKey col row) s)
      (cellNext (facetAt col row) (col % 64) (row % 64) (cellEdge (cellKey col row) s) s) s) := by
  obtain ⟨hcol, hrow, release, since, clock, whole, rfl⟩ := runs
  unfold cellCommand
  rw [if_pos ⟨hcol, hrow⟩]
  simp only [whole]
  rw [if_pos ⟨release, since, clock, .inr ⟨hlo, hhi⟩⟩]
  rfl

/-- An instruction that is the command of an operation gives the cell what that operation computes. -/
theorem gives_of_cellRuns {i : Instr} {col row op lo hi : Nat} {g : W16 → W16 → Bool → W16 → W16 × Bool} {s : State}
    (runs : CellRuns col row op s) (command : exec i s = cellCommand col row lo hi s) (hlo : lo ≤ op) (hhi : op ≤ hi)
    (computes : cellOp op = g) : Gives i s (CellGives col row g s) := by
  refine ⟨_, command.trans (cellCommand_of_cellRuns runs hlo hhi), ?_, rfl, rfl, fun k hk => ?_⟩
  · obtain ⟨-, -, -, -, -, -, rfl⟩ := runs
    rw [regsNow_cellUpdated_same, cellNext_eq_cellAfter, cellOut_eq_cellOp, computes]
  · exact regsNow_cellUpdated_other hk ..

/-- The same for the command of a single OP. -/
theorem gives_of_cellRuns_single {i : Instr} {col row op : Nat} {g : W16 → W16 → Bool → W16 → W16 × Bool} {s : State}
    (command : exec i s = cellCommand col row op op s) (computes : cellOp op = g) (runs : CellRuns col row op s) :
    Gives i s (CellGives col row g s) :=
  gives_of_cellRuns runs command le_rfl le_rfl computes

/-- Settles O26: the command of each OP updates the cell with what cellOp computes for that OP. -/
theorem cellOperationsComplete : Obligations.CellOperationsComplete := by
  unfold Obligations.CellOperationsComplete
  intro col row s
  exact ⟨
    gives_of_cellRuns_single rfl rfl,
    gives_of_cellRuns_single rfl cellOp_add,
    gives_of_cellRuns_single rfl cellOp_sub,
    gives_of_cellRuns_single rfl rfl,
    gives_of_cellRuns_single rfl rfl,
    gives_of_cellRuns_single rfl rfl,
    gives_of_cellRuns_single rfl rfl,
    gives_of_cellRuns_single rfl rfl,
    gives_of_cellRuns_single rfl cellOp_shl1,
    gives_of_cellRuns_single rfl rfl,
    gives_of_cellRuns_single rfl rfl,
    gives_of_cellRuns_single rfl rfl,
    gives_of_cellRuns_single rfl cellOp_brev,
    gives_of_cellRuns_single rfl rfl,
    gives_of_cellRuns_single rfl rfl,
    gives_of_cellRuns_single rfl cellOp_par,
    gives_of_cellRuns_single rfl rfl,
    gives_of_cellRuns_single rfl rfl,
    gives_of_cellRuns_single rfl rfl,
    fun _ hlo hhi runs => gives_of_cellRuns runs rfl hlo hhi (cellOp_reserved hlo hhi)⟩

end Sys2Proof.Proofs.WordCell
end

section
/-! Where a DRAM address goes: its way and its channel address (09_dram.md R255). -/
namespace Sys2Proof.Proofs.DramPlaces
open Sys2Proof.Machine
open Sys2Proof.Laws.MeshLaws (ways_nodup find_idx)

/-! The way and the channel address of an address, with k ways. -/

theorem destOf_dram {a : Nat} {s : State} (h : regionOf a s = 0) : destOf a s = (0, dmcFor a s) := by
  simp only [destOf, h]

section
variable {k a : Nat} {s : State}

theorem dmcFor_eq_getD (hk : 0 < k) (h : s.rd DMC.WAYS = k) : dmcFor a s = (ways s).getD (a / 256 % k) 0 := by
  rw [dmcFor, h, max_eq_right hk]

theorem chanAddr_eq (hk : 0 < k) (h : s.rd DMC.WAYS = k) : chanAddr a s = a % 256 + a / 256 / k * 256 := by
  rw [chanAddr, h, max_eq_right hk, Nat.div_div_eq_div_mul]

/-- The granule of an address is its way and its granule within the channel put together. -/
theorem granule_split (k a : Nat) : a % 256 + a / 256 % k * 256 + a / 256 / k * (256 * k) = a := by
  calc a % 256 + a / 256 % k * 256 + a / 256 / k * (256 * k)
      = a % 256 + 256 * (a / 256 % k + k * (a / 256 / k)) := by ring
    _ = a % 256 + 256 * (a / 256) := by rw [Nat.mod_add_div]
    _ = a := Nat.mod_add_div a 256

/-- For every number of ways: no controller is two ways, so the search of dramAddr finds the way of the address again. -/
theorem dramAddr_dmcFor_chanAddr (hk : 0 < k) (h : s.rd DMC.WAYS = k) (hw : (ways s).length = k) :
    dramAddr (dmcFor a s) (chanAddr a s) s = a := by
  have way : a / 256 % k < (ways s).length := by rw [hw]; exact Nat.mod_lt _ hk
  have low : (a % 256 + a / 256 / k * 256) % 256 = a % 256 := by omega
  have high : (a % 256 + a / 256 / k * 256) / 256 = a / 256 / k := by omega
  rw [dramAddr, dmcFor_eq_getD hk h, chanAddr_eq hk h, find_idx (ways_nodup s) way, h, max_eq_right hk, low, high]
  exact granule_split k a

theorem destOf_congr_granule {b : Nat} (ha : regionOf a s = 0) (hb : regionOf b s = 0) (same : b / 256 = a / 256) :
    destOf b s = destOf a s := by
  rw [destOf_dram ha, destOf_dram hb, dmcFor, dmcFor, same]

/-- The granule i granules on goes to the way i ways on. -/
theorem dmcFor_add_granules (hk : 0 < k) (h : s.rd DMC.WAYS = k) (i : Nat) :
    dmcFor (a + 256 * i) s = (ways s).getD ((a / 256 % k + i) % k) 0 := by
  rw [dmcFor_eq_getD hk h, Nat.add_mul_div_left a i (by norm_num), Nat.mod_add_mod]

end

/-- Settles O17: with k = 2 ^ j the quotient and the remainder by k are the fields of the address. -/
theorem granulesRotate : Obligations.GranulesRotate := by
  unfold Obligations.GranulesRotate
  intro j a s _ hways hlen ha
  have hk : 0 < 2 ^ j := Nat.two_pow_pos j
  have granule (b : Nat) : b >>> 8 = b / 256 := Nat.shiftRight_eq_div_pow b 8
  have inChannel : (a >>> (8 + j)) <<< 8 = a / 256 / 2 ^ j * 256 := by
    rw [Nat.shiftRight_add, granule, Nat.shiftRight_eq_div_pow, Nat.shiftLeft_eq]
  simp only [granule, inChannel]
  refine ⟨?_, chanAddr_eq hk hways, fun b hb same => destOf_congr_granule ha hb same, fun i hi => ?_,
    dramAddr_dmcFor_chanAddr hk hways hlen⟩
  · rw [destOf_dram ha, dmcFor_eq_getD hk hways]
  · rw [destOf_dram hi, dmcFor_add_granules hk hways]

end Sys2Proof.Proofs.DramPlaces
end

section
/-! Mesh accesses to the instruction memory of a DSP engine (14_dsp.md R387). -/
namespace Sys2Proof.Proofs.DspMemory
open Sys2Proof.Machine
open Sys2Proof.Laws.CompleteMesh (portState atP arrive_eq port_eq dest_eq perform_read perform_write)
open Sys2Proof.Laws.MeshLaws (region_dsp serve_dsp)

/-! Where the memory and its instructions lie. -/

theorem destOf_imem {a n : Nat} {s : State} (hn : n < 32) (lo : 0x10300000000 + 0x4000 * n ≤ a)
    (hi : a < 0x10300000000 + 0x4000 * (n + 1)) : destOf a s = (4, n) := by
  have unit : a / 0x4000 % 32 = n := by omega
  simp only [destOf, region_dsp hn lo hi, unit]

theorem nextInsn_eq_memRead (n : Nat) (s : State) :
    nextInsn n s = memRead s.mem (0x10300000000 + 0x4000 * n + 8 * (s.dspOf n).pc) 8 := by
  rw [nextInsn, imemBase, Nat.mul_comm n]

/-! A request that arrives at the memory. -/

section
variable {op : MeshOp} {r : MeshReq} {fl : List Flit} {ecc : List Ecc} {n : Nat} {s : State}

/-- A packet on its way to the port leaves the members of DSP engines alone. -/
theorem rd_portState_dsp {k : Nat} (hi : k < 0xA30000) : (portState r fl s).rd k = s.rd k :=
  (atP r fl s).rd k (by omega)

theorem dspStopped_portState (hn : n < 32) : dspStopped n (portState r fl s) = dspStopped n s := by
  have key : DSP.STATE n < 0xA30000 := by simp only [DSP.STATE]; omega
  rw [dspStopped, dspStopped, rd_portState_dsp key]

/-- Only a write while the engine is not stopped is refused; every other request is performed (R387). -/
theorem arriveCommand_imem (hn : n < 32) (arrives : Arrives op r s) (whole : Unpoisoned fl r s)
    (dest : destOf r.addr s = (4, n)) (fit : fits r 0x4000 = true) :
    arriveCommand op r fl ecc s =
      if op = .write ∧ dspStopped n s = false then meshAnswer r 2 0 (portState r fl s)
      else performMem r (portState r fl s) := by
  have port := atP r fl s
  have placed : wellPlaced (destOf r.addr s) r = true := by rw [dest]; exact fit
  have dest' : destOf r.addr (portState r fl s) = (4, n) := (dest_eq port.rd).trans dest
  rw [arrive_eq arrives whole, port_eq arrives port placed, serve_dsp dest', arrives.1, dspStopped_portState hn]

end

/-- Settles O15: a request reaches the port with the memory and the engine's members as they were, and there only a write
asks for the engine's state. -/
theorem dspMemoryAccess : Obligations.DspMemoryAccess := by
  unfold Obligations.DspMemoryAccess
  intro n s hn
  refine ⟨fun a => destOf_imem hn, nextInsn_eq_memRead n s, fun r fl ecc arrives whole dest fit => ⟨_, rfl, ?_⟩,
    fun r fl arrives whole dest fit => ⟨fun stopped => ⟨_, rfl, ?_⟩, fun running => ⟨_, rfl, ?_⟩⟩⟩
  · obtain ⟨answered, -, -⟩ := perform_read arrives.1 (atP r fl s)
    rw [arriveCommand_imem hn arrives whole dest fit, if_neg (by simp)]
    exact answered
  · obtain ⟨answered, -, stored⟩ := perform_write arrives.1 (atP r fl s)
    rw [arriveCommand_imem hn arrives whole dest fit, if_neg (by simp [stopped])]
    exact ⟨answered, stored⟩
  · have port := atP r fl s
    rw [arriveCommand_imem hn arrives whole dest fit, if_pos ⟨rfl, running⟩]
    refine ⟨?_, port.mem, fun k _ hi => rd_portState_dsp hi⟩
    rw [meshAnswer, port.resps]

end Sys2Proof.Proofs.DspMemory
end

section
/-! Mesh accesses to a unit whose gate is closed (15_clocks_reset.md R402; 11_mesh.md R309, R537). -/
namespace Sys2Proof.Proofs.GatedTouch
open Sys2Proof.Machine Sys2Proof.Laws
open Sys2Proof.Laws.CompleteMesh (portState AtP atP dest_eq gate_lt)
open Sys2Proof.Laws.StoredBytes (touch_mem)

/-! What a gated touch does to the state at the port. -/

section
variable (u : Nat) (r : MeshReq) (s : State)

theorem gatedTouch_resps :
    (gatedTouch u r s).resps = s.resps ++ [⟨r, if r.op = .read then 0 else 1, 0⟩] := by
  simp [gatedTouch, meshAnswer, crhFlag]

theorem gatedTouch_reqs : (gatedTouch u r s).reqs = s.reqs := by
  simp [gatedTouch, meshAnswer, crhFlag]

/-- The members of a gated touch are those of its two counters and the flag. -/
theorem rd_gatedTouch {k : Nat} (hk : k ≠ CRH.EVFLAGS) :
    (gatedTouch u r s).rd k = ((s.bump 64 CRH.GATED_TOUCHES).bump 32 (CRH.GATE_TOUCH u)).rd k :=
  rd_flag_other _ hk _ _

theorem rd_gatedTouch_total :
    (gatedTouch u r s).rd CRH.GATED_TOUCHES = min (s.rd CRH.GATED_TOUCHES + 1) (2 ^ 64 - 1) := by
  have other : CRH.GATED_TOUCHES ≠ CRH.GATE_TOUCH u := by simp only [CRH.GATED_TOUCHES, CRH.GATE_TOUCH]; omega
  rw [rd_gatedTouch u r s (by decide), rd_bump, if_neg other, rd_bump, if_pos rfl]

theorem rd_gatedTouch_unit {u : Nat} (hu : u < 256) :
    (gatedTouch u r s).rd (CRH.GATE_TOUCH u) = min (s.rd (CRH.GATE_TOUCH u) + 1) (2 ^ 32 - 1) := by
  have flagKey : CRH.GATE_TOUCH u ≠ CRH.EVFLAGS := by simp only [CRH.EVFLAGS, CRH.GATE_TOUCH]; omega
  have other : CRH.GATE_TOUCH u ≠ CRH.GATED_TOUCHES := by simp only [CRH.GATED_TOUCHES, CRH.GATE_TOUCH]; omega
  rw [rd_gatedTouch u r s flagKey, rd_bump, if_pos rfl, rd_bump, if_neg other]

theorem bit_gatedTouch : (gatedTouch u r s).bit CRH.EVFLAGS 7 = true := bit_flag _ _ _ _

end

/-! A request that arrives at a unit whose gate is closed. -/

/-- t is s after a gated touch of unit u by request r, answered with kind. -/
def Touched (r : MeshReq) (u kind : Nat) (s t : State) : Prop :=
  t.resps = s.resps ++ [⟨r, kind, 0⟩] ∧ t.reqs = s.reqs.erase r ∧ t.mem = s.mem ∧
    t.rd CRH.GATED_TOUCHES = min (s.rd CRH.GATED_TOUCHES + 1) (2 ^ 64 - 1) ∧
    t.rd (CRH.GATE_TOUCH u) = min (s.rd (CRH.GATE_TOUCH u) + 1) (2 ^ 32 - 1) ∧ t.bit CRH.EVFLAGS 7 = true

/-- t is s after an error response to request r, which counts no gated touch of unit u. -/
def Refused (r : MeshReq) (u : Nat) (s t : State) : Prop :=
  t.resps = s.resps ++ [⟨r, 2, 0⟩] ∧ t.reqs = s.reqs.erase r ∧ t.mem = s.mem ∧
    t.rd CRH.GATED_TOUCHES = s.rd CRH.GATED_TOUCHES ∧ t.rd (CRH.GATE_TOUCH u) = s.rd (CRH.GATE_TOUCH u)

/-- A request that can arrive gets to the port of its unit, whatever the gate there. -/
theorem arriveCommand_eq_atPort {op : MeshOp} {r : MeshReq} {f : List Flit} {ecc : List Ecc} {s : State} (is : r.op = op)
    (whole : Unpoisoned f r s) (region : regionOf r.addr s < 5) (can : canArrive r s = true) :
    arriveCommand op r f ecc s = atPort ecc r (portState r f s) := by
  have routed : regionOf r.addr s ≠ 6 := by omega
  have notWindow : regionOf r.addr s ≠ 5 := by omega
  have clean : ¬isPoison (path r.src (destNode (destOf r.addr s))) f = true := by rw [whole]; decide
  rw [arriveCommand, if_neg (not_not_intro is), if_neg routed, if_pos ⟨notWindow, can⟩]
  exact if_neg clean

section
variable {op : MeshOp} {r : MeshReq} {f : List Flit} {ecc : List Ecc} {u : Nat} {s w : State}

/-- The limits of the port come before its gate (R537). -/
theorem atPort_closed (port : AtP r s w) (gate : gateOf (destOf r.addr s) = some u) (closed : w.rd (CRH.GATE_STATE u) = 0) :
    atPort ecc r w = if wellPlaced (destOf r.addr s) r = false then meshAnswer r 2 0 w else gatedTouch u r w := by
  simp only [atPort, dest_eq port.rd, gate, closed, Option.getD_some, if_true]

theorem gateOf_destOf_lt (gate : gateOf (destOf r.addr s) = some u) : u < 256 := by
  have bound := (gate_lt (a := r.addr) (s := s)).1
  rwa [gate] at bound

theorem rd_gateTouch (port : AtP r s w) (hu : u < 256) : w.rd (CRH.GATE_TOUCH u) = s.rd (CRH.GATE_TOUCH u) :=
  port.rd _ (by simp only [CRH.GATE_TOUCH]; omega)

theorem touched_gatedTouch (is : r.op = op) (port : AtP r s w) (hu : u < 256) :
    Touched r u (if op = .read then 0 else 1) s (gatedTouch u r w) := by
  have total : w.rd CRH.GATED_TOUCHES = s.rd CRH.GATED_TOUCHES := port.rd _ (by decide)
  refine ⟨?_, ?_, ?_, ?_, ?_, bit_gatedTouch u r w⟩
  · rw [gatedTouch_resps, port.resps, is]
  · rw [gatedTouch_reqs, port.reqs]
  · rw [touch_mem, port.mem]
  · rw [rd_gatedTouch_total, total]
  · rw [rd_gatedTouch_unit r w hu, rd_gateTouch port hu]

theorem refused_meshAnswer (port : AtP r s w) (hu : u < 256) : Refused r u s (meshAnswer r 2 0 w) := by
  have unit := rd_gateTouch port hu
  exact ⟨by rw [meshAnswer, port.resps], port.reqs, port.mem, port.rd _ (by decide), unit⟩

/-- What the request finds at the closed gate: a touch, or the refusal of the port. -/
theorem arriveCommand_closed (is : r.op = op) (whole : Unpoisoned f r s) (region : regionOf r.addr s < 5)
    (can : canArrive r s = true) (gate : gateOf (destOf r.addr s) = some u) (closed : s.rd (CRH.GATE_STATE u) = 0) :
    (wellPlaced (destOf r.addr s) r = true →
      Touched r u (if op = .read then 0 else 1) s (arriveCommand op r f ecc s)) ∧
    (¬wellPlaced (destOf r.addr s) r = true → Refused r u s (arriveCommand op r f ecc s)) := by
  have port := atP r f s
  have hu := gateOf_destOf_lt gate
  have closed' : (portState r f s).rd (CRH.GATE_STATE u) = 0 := by
    rw [port.rd _ (by simp only [CRH.GATE_STATE]; omega), closed]
  rw [arriveCommand_eq_atPort is whole region can, atPort_closed port gate closed']
  refine ⟨fun fine => ?_, fun broken => ?_⟩
  · rw [if_neg (show ¬wellPlaced (destOf r.addr s) r = false by rw [fine]; decide)]
    exact touched_gatedTouch is port hu
  · rw [if_pos (Bool.eq_false_of_not_eq_true broken)]
    exact refused_meshAnswer port hu

end

/-- Settles O16: a request reaches the port with members and memory as they were, and there the port's limits are asked
before the gate. -/
theorem gatedTouches : Obligations.GatedTouches := by
  unfold Obligations.GatedTouches
  intro r f ecc u s whole region can gate closed
  have arrival (op : MeshOp) (ecc : List Ecc) (is : r.op = op) :=
    arriveCommand_closed (ecc := ecc) is whole region can gate closed
  exact ⟨fun is fine => ⟨_, rfl, (arrival .read ecc is).1 fine⟩, fun is fine => ⟨_, rfl, (arrival .write [] is).1 fine⟩,
    fun is fine => ⟨_, rfl, (arrival .orw [] is).1 fine⟩, fun is broken => ⟨_, rfl, (arrival .read ecc is).2 broken⟩,
    fun is broken => ⟨_, rfl, (arrival .write [] is).2 broken⟩, fun is broken => ⟨_, rfl, (arrival .orw [] is).2 broken⟩⟩

end Sys2Proof.Proofs.GatedTouch
end

section
/-! What every command keeps, and that every well-formed command completes (00_scope.md). -/
namespace Sys2Proof.Proofs.EveryStep
open Sys2Proof.Machine Sys2Proof.Laws ExecAll

/-- A canonical state is sound, with its own queue, and its own time as the bound. -/
theorem sound_of_canon {s : State} (canon : Canon s) : Sound s.pending s.now s := ⟨rfl, Nat.le_refl _, canon.1, canon.2⟩

/-- Settles O4: the queue's rest leaves a canonical state canonical, and a command on it keeps soundness; a step on an empty
queue changes the time alone. -/
theorem stepKeepsCanonical : Obligations.StepKeepsCanonical := by
  unfold Obligations.StepKeepsCanonical
  intro s t canon ran
  unfold step at ran
  split at ran
  case h_1 =>
    cases ran
    exact canon
  case h_2 c rest _ =>
    have dequeued : Canon { s with pending := rest } := canon
    have sound := exec_sound c _ (sound_of_canon dequeued) t ran
    exact ⟨sound.mem, sound.reg⟩

/-- Settles O5: queue and time are part of soundness. -/
theorem timeAndQueue : Obligations.TimeAndQueue := by
  unfold Obligations.TimeAndQueue
  intro i s t canon ran
  have sound := exec_sound i s (sound_of_canon canon) t ran
  exact ⟨sound.now, sound.pending⟩

/-- Settles O6: exec_ok says it of each command. -/
theorem everyCommandCompletes : Obligations.EveryCommandCompletes := by
  unfold Obligations.EveryCommandCompletes
  exact ⟨fun i s wf => (exec_ok i s).next wf, fun i s => (exec_ok i s).fault, fun i s => (exec_ok i s).refused⟩

end Sys2Proof.Proofs.EveryStep
end

section
/-! Bytes of memory (00_scope.md R3). -/
namespace Sys2Proof.Proofs.MemoryBytes
open Sys2Proof.Machine Sys2Proof.Laws MeshLaws

theorem memRead_clear (m : List Host.Cell) (a n : Nat) : memRead (memClear m a n) a n = 0 :=
  read_zero n _ a fun x low high => by rw [memByte_clear, if_pos ⟨low, high⟩]

/-- Settles O18: a read takes up a write byte by byte, and both writes and clears say of each byte what it is after them. -/
theorem memoryReadsBack : Obligations.MemoryReadsBack := by
  unfold Obligations.MemoryReadsBack
  intro m a n v
  refine ⟨read_write n m a v, fun b outside => memByte_write_outside outside, mem_wf_write, memRead_clear m a n,
    fun b outside => ?_, read_write n m a _⟩
  rw [memByte_clear, if_neg (by omega)]

end Sys2Proof.Proofs.MemoryBytes
end

section
/-! The registers of a DSP engine that an instruction may change (14_dsp.md). -/
namespace Sys2Proof.Proofs.DspRegister
open Sys2Proof.Machine Sys2Proof.Laws DspFrames DspRegFacts

/-- Settles O11: each command keeps the registers that the support lemma of its class names, and every register of the other
engines. -/
theorem dspRegisterFrames : Obligations.DspRegisterFrames := by
  unfold Obligations.DspRegisterFrames
  intro n ecc s
  refine ⟨?_, ?_, ?_, ?_, ?_, ?_, ?_, ?_, ?_⟩ <;> intro i mem t ran <;>
    simp only [List.mem_cons, List.not_mem_nil, or_false] at mem
  · rcases mem with rfl | rfl | rfl | rfl | rfl | rfl | rfl | rfl | rfl
    · exact out (x_dspNop ran) fun _ _ h => h
    · exact out (x_dspJmp ran) fun _ _ h => h
    · exact out (x_dspEvt ran) fun _ _ h => h
    · exact out (x_dspHaltInsn ran) fun _ _ h => h
    · exact out (x_waitm ran) fun _ _ h => h
    · exact out (x_bclr ran) fun _ _ h => h
    · exact out (x_blk ran) fun _ _ h => h
    · exact out (x_dspRpt ran) fun _ _ h => h
    · exact out (x_move ran) fun _ _ h => h
  · rcases mem with rfl | rfl
    · exact out (x_djnz ran) fun _ _ => pC
    · exact out (x_dspLdc ran) fun _ _ => pC
  · rcases mem with rfl | rfl
    · exact out (x_seta ran) fun _ _ => pA
    · exact out (x_inca ran) fun _ _ => pA
  · subst mem
    exact out (x_seto ran) fun _ _ => pO
  · rcases mem with rfl | rfl | rfl | rfl | rfl
    · exact out (x_accClr ran) fun _ _ => pAcc
    · exact out (x_accLda ran) fun _ _ => pAcc
    · exact out (x_accAdda ran) fun _ _ => pAcc
    · exact out (x_accSuml ran) fun _ _ => pAcc
    · exact out (x_accShra ran) fun _ _ => pAcc
  · subst mem
    exact out (x_accStr ran) fun _ _ => pV
  · rcases mem with rfl | rfl | rfl | rfl | rfl
    · exact out (x_vmov ran) fun _ _ => pV
    · exact out (x_vadd ran) fun _ _ => pV
    · exact out (x_vsub ran) fun _ _ => pV
    · exact out (x_vshl ran) fun _ _ => pV
    · exact out (x_vshr ran) fun _ _ => pV
  · rcases mem with rfl | rfl | rfl
    · exact out (x_mpy ran) fun _ _ => pMac
    · exact out (x_mac ran) fun _ _ => pMac
    · exact out (x_msu ran) fun _ _ => pMac
  · subst mem
    exact out (x_mem ran) fun _ _ => pMem

end Sys2Proof.Proofs.DspRegister
end

section
/-! The order in which conditions are reported (00_scope.md R12). -/
namespace Sys2Proof.Proofs.StatusOrder
open Sys2Proof.Machine Sys2Proof.Laws AccessStatus

/-- R12's order of the statuses. -/
def order : List Nat := [1, 2, 3, 0xC, 4, 0xA, 5, 7, 6, 8, 0xB, 9]

/-- Some condition of status c applies. -/
def applies (cs : List (Bool × Nat)) (c : Nat) : Bool := cs.any fun p => p.1 && Nat.beq p.2 c

theorem applies_iff {cs : List (Bool × Nat)} {c : Nat} : applies cs c = true ↔ (true, c) ∈ cs := by
  simp [applies]

theorem firstOf_eq (cs : List (Bool × Nat)) : firstOf cs = (order.find? (applies cs)).getD 0 := rfl

/-- firstOf answers 0 where no condition of a listed status applies, and else the first in the order that does. -/
theorem firstOf_cases {cs : List (Bool × Nat)} (listed : ∀ c ∈ cs, c.2 ∈ order) :
    (firstOf cs = 0 ∧ ∀ c ∈ cs, c.1 = false) ∨
      (firstOf cs ≠ 0 ∧ (true, firstOf cs) ∈ cs ∧ ∀ c ∈ cs, c.1 = true → order.idxOf (firstOf cs) ≤ order.idxOf c.2) := by
  rw [firstOf_eq]
  cases found : order.find? (applies cs) with
  | none =>
    refine .inl ⟨rfl, fun c mem => Bool.eq_false_of_not_eq_true fun holds => ?_⟩
    have := List.find?_eq_none.1 found c.2 (listed c mem)
    exact this (applies_iff.2 (by rw [← holds]; exact mem))
  | some st =>
    obtain ⟨holds, mem, first⟩ := find_first found
    refine .inr ⟨?_, applies_iff.1 holds, fun c memc on => first c.2 (listed c memc) (applies_iff.2 (by rw [← on]; exact memc))⟩
    rintro rfl
    exact absurd mem (by decide)

/-- Settles O12: the status is that of firstOf, or 3 where that is 0 and the response is too long. -/
theorem firstStatusInOrder : Obligations.FirstStatusInOrder := by
  unfold Obligations.FirstStatusInOrder
  intro order q op o m len v rlen extra s listed cs st
  have all : ∀ c ∈ cs, c.2 ∈ order := fun c mem =>
    (List.mem_append.1 mem).elim (base_order q op o m len v s c) (listed c)
  have is : st = if firstOf cs = 0 ∧ responseLong q rlen s = true then 3 else firstOf cs := rfl
  rcases firstOf_cases all with ⟨none, clear⟩ | ⟨some, applies, first⟩
  · rw [none] at is
    cases long : responseLong q rlen s
    · have zero : st = 0 := by rw [is, long]; rfl
      rw [zero]
      exact ⟨⟨fun _ => ⟨clear, rfl⟩, fun _ => rfl⟩, fun c mem on => absurd (clear c mem) (by simp [on]), fun h => absurd rfl h⟩
    · have three : st = 3 := by rw [is, long]; rfl
      rw [three]
      exact ⟨⟨fun h => absurd h (by decide), fun h => absurd h.2 (by decide)⟩,
        fun c mem on => absurd (clear c mem) (by simp [on]), fun _ => .inr ⟨rfl, rfl⟩⟩
  · have same : st = firstOf cs := by rw [is, if_neg fun h => some h.1]
    rw [same]
    exact ⟨⟨fun h => absurd h some, fun h => absurd (h.1 _ applies) (by simp)⟩, first, fun _ => .inl applies⟩

end Sys2Proof.Proofs.StatusOrder
end

section
/-! A refused access (00_scope.md R13, 02_control_dictionary.md R46). -/
namespace Sys2Proof.Proofs.RefusedAccess
open Sys2Proof.Machine Sys2Proof.Laws Common AccessStatus

/-! What a refused request leaves. -/

/-- The refusals that leave more than a response: those that are counted, and the READ of a slot that waits for its fetch. -/
def CountedOrDeferred (i : Instr) (q : Req) (s t : State) : Prop :=
  (countedWrite i = some DBG.AUTH_RESP ∧ t = respFails q (respond q 2 0xF001 2 9 0 0 s)) ∨
  (countedWrite i = some TMU.STEP ∧ ∃ st, (st = 4 ∨ st = 0xB) ∧ t = stepRefused (respond q 2 0xE000 3 st 0 0 s)) ∨
  (∃ n k, n < 256 ∧ (k = FCP.PUSH n ∨ k = FCP.PUSH_END n) ∧ countedWrite i = some k ∧
    t = qFlag n 4 (engEdge s.now) ((respond q 2 (k / 256) (k % 256) 8 0 0 s).bump 64 (FCP.Q_REFUSED n))) ∨
  ∃ o m len v, i = .dictRead q o m len v ∧ 1 ≤ q.master ∧ q.master ≤ 8 ∧ t = fetchEff q true o m v s

theorem countedOrDeferred_of_counted {i : Instr} {q : Req} {k : Nat} {s t : State} (write : countedWrite i = some k)
    (counted : Counted q k s t) : CountedOrDeferred i q s t := by
  rcases counted with ⟨rfl, is⟩ | ⟨rfl, is⟩ | ⟨n, hn, hk, is⟩
  · exact .inl ⟨write, is⟩
  · exact .inr (.inl ⟨write, is⟩)
  · exact .inr (.inr (.inl ⟨n, k, hn, hk, write, is⟩))

/-- A request whose command gives outcome o leaves what Ref says of a refusal, in each next state. -/
def RefOut (q : Req) (s : State) (o : Out) (P : State → Prop) : Prop := ∀ t, o = .next t → Ref q s t (P t)

theorem refOut_next {q : Req} {s u : State} {P : State → Prop} (ref : Ref q s u (P u)) : RefOut q s (.next u) P :=
  fun _ ran => by cases ran; exact ref

theorem refOut_ite {q : Req} {s u : State} {P : State → Prop} {c : Prop} [Decidable c] (ref : c → Ref q s u (P u)) :
    RefOut q s (if c then .next u else .fault .noSuchUnit) P := fun t ran => by
  split at ran <;> cases ran
  exact ref ‹c›

theorem refOut_unit {q : Req} {n k : Nat} {s u : State} {P : State → Prop} (ref : n < k → Ref q s u (P u)) :
    RefOut q s (unitCmd n k u) P := refOut_ite ref

/-- The member of an access by the frame's OP is read or written only by the command of that OP. -/
theorem ref_opOf {i : Instr} {q : Req} {d o m len v : Nat} {s : State}
    (reads : d = 1 → i = .dictRead q o m len v) (writes : d = 2 → countedWrite i = some (o * 256 + m)) :
    Ref q s (request q (opOf q d) o m len v s) (CountedOrDeferred i q s (request q (opOf q d) o m len v s)) := by
  have op := ExecFrames.opOf_cases q d
  refine ref_request (fun one low high is => ?_) (fun two counted => ?_)
  · exact .inr (.inr (.inr ⟨o, m, len, v, reads (by omega), low, high, is⟩))
  · exact countedOrDeferred_of_counted (writes (by omega)) counted

theorem ref_pushWord {i : Instr} {q : Req} {k n v : Nat} {mark : Bool} {s : State} (hn : n < 64)
    (member : k = FCP.PUSH n ∨ k = FCP.PUSH_END n) (write : countedWrite i = some k) :
    Ref q s (pushWord q k n v mark s) (CountedOrDeferred i q s (pushWord q k n v mark s)) :=
  ref_push fun is => countedOrDeferred_of_counted write (.inr (.inr ⟨n, by omega, member, is⟩))

/-- What a refused command leaves, for every command that is a request. -/
theorem exec_ref {i : Instr} {q : Req} (s : State) (of : requestOf i = some q) :
    RefOut q s (exec i s) (CountedOrDeferred i q s) := by
  cases i <;> cases of
  case dictRead => exact refOut_next (ref_opOf (fun _ => rfl) (fun h => by cases h))
  case dictWrite => exact refOut_next (ref_opOf (fun h => by cases h) (fun _ => rfl))
  case fetch => exact refOut_next (ref_opOf (fun h => by cases h) (fun h => by cases h))
  case authResp => exact refOut_next (ref_auth fun is => .inl ⟨rfl, is⟩)
  case tmuStep => exact refOut_next (ref_step fun st is eq => .inr (.inl ⟨rfl, st, is, eq⟩))
  case push => exact refOut_unit fun hn => ref_pushWord hn (.inl rfl) rfl
  case pushEnd => exact refOut_unit fun hn => ref_pushWord hn (.inr rfl) rfl
  case softReset => exact refOut_next ref_soft
  case dbgReset => exact refOut_next ref_dbgReset
  case dbgRegAccess n wr v =>
    cases wr
    · exact refOut_unit fun _ => ref_finish
    · exact refOut_unit fun _ => ref_finish
  case mread =>
    unfold exec execMread mread
    exact refOut_next ref_finish
  case mdrop | statsClr | batchCheck | batchDiscard | applyArm | applyCancel | focus | edgSelfcheck | focusAbort |
      trimCommit | trimImport | tclear | fmStart | loadFull | loadPartial | loadAbort | flpStart | flpAbort | writeBbram |
      zeroise | fuseKey | fusePolicy | cjSha256 | cjHmac | hostKick | authCustomerL2 | authCustomerL3 | authVendor |
      authDrop | dbgFuseKey2 | dbgFuseKey3 | dbgFusePolicy | brkAlloc | meshDataWrite | memDataWrite | meshDataFetch |
      memDataFetch | excludeWrite | retainWrite | tmuRoleWrite | incrWrite | tmuSet | clkoutCfgWrite | streamWrite |
      loupeEnWrite | logPop => exact refOut_next ref_finish
  case userInWrite | scratchOwnerWrite => exact refOut_ite fun _ => ref_finish
  all_goals exact refOut_unit fun _ => ref_finish

/-! The refusals that are counted. -/

theorem exec_authResp_refused {q : Req} {v : Nat} {s : State} (heard : deaf q s = false)
    (wrong : statusOf q 2 0xF001 2 32 v 0 (respConds q 32 v s) s = 9) :
    exec (.authResp q v) s = .next (respFails q (respond q 2 0xF001 2 9 0 0 s)) := by
  have write : writeTo q DBG.AUTH_RESP 32 v (respConds q 32 v s) (respGrants q) s = respond q 2 0xF001 2 9 0 0 s := by
    rw [show writeTo q DBG.AUTH_RESP 32 v (respConds q 32 v s) (respGrants q) s =
      finish q 2 0xF001 2 (statusOf q 2 0xF001 2 32 v 0 (respConds q 32 v s) s) 0 0 (respGrants q) s from rfl, wrong]
    exact finish_ref heard (by decide)
  show Host.Outcome.next (authResp q 32 v s) = _
  unfold authResp
  rw [write, if_pos ⟨wrong, heard⟩]

theorem exec_tmuStep_refused {q : Req} {v st : Nat} {s : State} (heard : deaf q s = false) (hst : st = 4 ∨ st = 0xB)
    (bad : statusOf q 2 0xE000 3 8 v 0 (stepConds v s) s = st) :
    exec (.tmuStep q v) s = .next (stepRefused (respond q 2 0xE000 3 st 0 0 s)) := by
  have write : writeTo q TMU.STEP 8 v (stepConds v s) (stepBy (toSigned 64 v)) s = respond q 2 0xE000 3 st 0 0 s := by
    rw [show writeTo q TMU.STEP 8 v (stepConds v s) (stepBy (toSigned 64 v)) s =
      finish q 2 0xE000 3 (statusOf q 2 0xE000 3 8 v 0 (stepConds v s) s) 0 0 (stepBy (toSigned 64 v)) s from rfl, bad]
    exact finish_ref heard (by omega)
  show Host.Outcome.next (stepWrite q v s) = _
  unfold stepWrite
  rw [write, if_pos ⟨by rw [bad]; exact hst.symm, heard⟩]

theorem pushWord_refused {q : Req} {k n v : Nat} {mark : Bool} {s : State} (heard : deaf q s = false)
    (full : statusOf q 2 (k / 256) (k % 256) 8 v 0 (pushConds n mark s) s = 8) :
    pushWord q k n v mark s = qFlag n 4 (seenEdge s) ((respond q 2 (k / 256) (k % 256) 8 0 0 s).bump 64 (FCP.Q_REFUSED n)) := by
  unfold pushWord
  dsimp only
  rw [full, finish_ref heard (by decide), if_pos ⟨rfl, heard⟩]

theorem respond_answered {q : Req} {op o m st : Nat} {s : State} : Answered q st (respond q op o m st 0 0 s) := by
  rw [Answered, respond_resp]

theorem rd_respond_other {q : Req} {op o m st k : Nat} {s : State} (h : k ≠ 0x300 + st) :
    (respond q op o m st 0 0 s).rd k = s.rd k := by rw [rd_respond, if_neg h]

/-- A wrong answer before the check of the count: counted, the challenge gone, and a second without authorisation. -/
def wrongAnswer (q : Req) (u : State) : State :=
  let a := (u.bump 32 DBG.AUTH_FAILS).modMaster q.master fun x => { x with chal := none }
  dbgFlag 3 (modDbg (fun d => { d with lockUntil := a.now + 1000000 * ticksPerUs }) a)

theorem respFails_eq (q : Req) (u : State) : respFails q u =
    if 16 ≤ (wrongAnswer q u).rd DBG.AUTH_FAILS then (wrongAnswer q u).setBit DBG.STATUS 3 true else wrongAnswer q u := rfl

theorem rd_modDbg (f : DbgS → DbgS) (u : State) (k : Nat) : (modDbg f u).rd k = u.rd k := rfl

theorem masterOf_modDbg (f : DbgS → DbgS) (u : State) (m : Nat) : (modDbg f u).masterOf m = u.masterOf m := rfl

theorem rd_wrongAnswer (q : Req) (u : State) {k : Nat} (h : k ≠ DBG.EVFLAGS) :
    (wrongAnswer q u).rd k = (u.bump 32 DBG.AUTH_FAILS).rd k := by
  unfold wrongAnswer dbgFlag
  rw [rd_flag_other _ h, rd_modDbg, rd_modMaster]

theorem masterOf_wrongAnswer (q : Req) (u : State) :
    (wrongAnswer q u).masterOf q.master = { u.masterOf q.master with chal := none } := by
  unfold wrongAnswer dbgFlag
  rw [masterOf_flag, masterOf_modDbg, masterOf_modMaster, masterOf_bump]

theorem dbg_wrongAnswer (q : Req) (u : State) :
    (wrongAnswer q u).dbg = { u.dbg with lockUntil := u.now + 1000000 * ticksPerUs } := flag_dbg ..

/-- What a wrong answer leaves (19 R482); the 16th locks the authorisation. -/
theorem respFails_facts (q : Req) (u : State) : ((respFails q u).masterOf q.master).resp = (u.masterOf q.master).resp ∧
    ((respFails q u).masterOf q.master).chal = none ∧ (respFails q u).dbg.lockUntil = u.now + 1000000 * ticksPerUs ∧
    (respFails q u).rd DBG.AUTH_FAILS = min (u.rd DBG.AUTH_FAILS + 1) (2 ^ 32 - 1) ∧
    (respFails q u).bit DBG.EVFLAGS 3 = true ∧
    (respFails q u).bit DBG.STATUS 3 = (u.bit DBG.STATUS 3 || decide (16 ≤ (respFails q u).rd DBG.AUTH_FAILS)) := by
  have fails : (wrongAnswer q u).rd DBG.AUTH_FAILS = min (u.rd DBG.AUTH_FAILS + 1) (2 ^ 32 - 1) :=
    (rd_wrongAnswer q u (by decide)).trans (bump_eq ..)
  have status : (wrongAnswer q u).bit DBG.STATUS 3 = u.bit DBG.STATUS 3 :=
    bit_of_rd ((rd_wrongAnswer q u (by decide)).trans (bump_ne (by decide)))
  have flag : (wrongAnswer q u).bit DBG.EVFLAGS 3 = true := bit_flag ..
  rw [respFails_eq]
  split
  case isTrue many =>
    have count : ((wrongAnswer q u).setBit DBG.STATUS 3 true).rd DBG.AUTH_FAILS = (wrongAnswer q u).rd DBG.AUTH_FAILS :=
      rd_setBit_other _ (by decide) ..
    rw [masterOf_setBit, masterOf_wrongAnswer, setBit_dbg, dbg_wrongAnswer, count, bit_setBit_true,
      bit_of_rd (rd_setBit_other (k := DBG.STATUS) (j := DBG.EVFLAGS) _ (by decide) ..)]
    exact ⟨rfl, rfl, rfl, fails, flag, by simp [many]⟩
  case isFalse few =>
    rw [masterOf_wrongAnswer, dbg_wrongAnswer]
    exact ⟨rfl, rfl, rfl, fails, flag, by simp [status, few]⟩

theorem stepRefused_facts (u : State) : (∀ m, (stepRefused u).masterOf m = u.masterOf m) ∧ (stepRefused u).tmu = u.tmu ∧
    (stepRefused u).rd TMU.STEPS_REFUSED = min (u.rd TMU.STEPS_REFUSED + 1) (2 ^ 64 - 1) ∧
    (stepRefused u).bit TMU.EVFLAGS 3 = true := by
  unfold stepRefused tmuFlag
  refine ⟨fun m => ?_, ?_, ?_, bit_flag ..⟩
  · rw [masterOf_flag, masterOf_bump]
  · rw [flag_tmu, bump_tmu]
  · rw [rd_flag_other _ (by decide), bump_eq]

theorem qFlag_bit (q b th : Nat) (u : State) : (qFlag q b th u).bit (FCP.Q_EVFLAGS q) b = true := by
  unfold qFlag
  extract_lets n t
  split
  · assumption
  · have set : t.bit (FCP.Q_EVFLAGS q) b = true := bit_setBit_true ..
    split
    · exact set
    · exact (bit_of_rd ((rd_raise ..).trans (rd_modSq ..))).trans set

theorem qFlag_masterOf (q b th m : Nat) (u : State) : (qFlag q b th u).masterOf m = u.masterOf m := by
  unfold qFlag
  extract_lets n t
  have kept : t.masterOf m = u.masterOf m := (masterOf_setBit ..).trans (masterOf_note ..)
  split
  · exact masterOf_note ..
  · split
    · exact kept
    · rw [masterOf_raise, masterOf_modSq, kept]

/-- A push that is refused for want of room leaves the tail, and is counted (08 R233). -/
theorem refusedPush_facts {r : Req} {n k th : Nat} {s : State} (hk : 0x400 ≤ FCP.Q_REFUSED n)
    (t : State) (is : t = qFlag n 4 th ((respond r 2 (k / 256) (k % 256) 8 0 0 s).bump 64 (FCP.Q_REFUSED n))) :
    Answered r 8 t ∧ (t.sqOf n).tail = (s.sqOf n).tail ∧
      t.rd (FCP.Q_REFUSED n) = min (s.rd (FCP.Q_REFUSED n) + 1) (2 ^ 64 - 1) ∧ t.bit (FCP.Q_EVFLAGS n) 4 = true := by
  subst is
  refine ⟨?_, ?_, ?_, qFlag_bit ..⟩
  · rw [Answered, qFlag_masterOf, masterOf_bump]
    exact respond_answered
  · refine (congrArg (·.1) (qFlag_keepsSq (nn := n) (s0 := s) n 4 th _ ?_))
    show (_, _) = (_, _)
    rw [sqOf_bump]
    rfl
  · rw [frq (f := qFlag n 4 th) (qFlag_fr n 4 th _ (fr_refl _) (by simp only [FCP.Q_REFUSED, FCP.Q_EVFLAGS]; omega)), bump_eq,
      rd_respond_other (by omega)]

/-- Settles O13: a refused request goes through finish, whose refusal is the response alone, or through one of the writes whose
refusals are counted. -/
theorem refusedAccessChangesNothing : Obligations.RefusedAccessChangesNothing := by
  unfold Obligations.RefusedAccessChangesNothing
  refine ⟨fun i q s t of ran => exec_ref s of t ran, fun q s heard => ⟨fun v wrong => ?_, fun v st hst bad => ?_, ?_⟩⟩
  · obtain ⟨resp, chal, lock, fails, flag, status⟩ := respFails_facts q (respond q 2 0xF001 2 9 0 0 s)
    refine ⟨_, exec_authResp_refused heard wrong, ?_, chal, lock, ?_, flag, ?_⟩
    · rw [Answered, resp]
      exact respond_answered
    · rw [fails, rd_respond_other (by decide)]
    · rw [status, bit_of_rd (rd_respond_other (by decide))]
  · obtain ⟨masters, tmu, count, flag⟩ := stepRefused_facts (respond q 2 0xE000 3 st 0 0 s)
    refine ⟨_, exec_tmuStep_refused heard hst bad, ?_, tmu, ?_, flag⟩
    · rw [Answered, masters]
      exact respond_answered
    · rw [count, rd_respond_other (by simp only [TMU.STEPS_REFUSED]; omega)]
  · intro n k v mark hn member full
    have key : 0x400 ≤ FCP.Q_REFUSED n := by simp only [FCP.Q_REFUSED]; omega
    refine ⟨_, ?_, refusedPush_facts (k := k) (th := seenEdge s) key _ rfl⟩
    cases mark <;> subst member
    · exact (unitNext hn).trans (congrArg _ (pushWord_refused heard full))
    · exact (unitNext hn).trans (congrArg _ (pushWord_refused heard full))

end Sys2Proof.Proofs.RefusedAccess
end

section
/-! The commands of VEN.CTRL (03_vector_engines.md R71, R72, R78, R102, R103, R107). -/
namespace Sys2Proof.Proofs.VeCommand
open Sys2Proof.Machine Sys2Proof.Laws Common CompleteVe

variable {n : Nat} {s : State}

theorem veState_modVe (m : Nat) (f : VeRun → VeRun) : veState n (s.modVe m f) = veState n s := rd_modVe ..

theorem veState_barrierLeft (m t : Nat) : veState n (barrierLeft m t s) = veState n s := barrierLeft_rd ..

/-- A state other than ARMED that an engine enters stays. -/
theorem veState_veEnter {c : Nat} (h : c ≠ 2) : veState n (veEnter n c s) = c := enter_state n c s fun armed => h armed.2

/-- An arm that is no arm by the batch outlasts the change of its own engine. -/
theorem veState_engineChanged (h : (s.veOf n).armKind ≠ 2) : veState n (engineChanged n s) = veState n s :=
  changed_state n n s fun armed => h armed.1

theorem prior_engineChanged : ((engineChanged n s).veOf n).prior = (s.veOf n).prior :=
  congrArg (·.1) (engineChanged_keepsVeArmed (nn := n) (s0 := s) n s rfl)

theorem sched_engineChanged (m : Nat) : (engineChanged m s).sched = s.sched := engineChanged_keepsSched (s0 := s) m s rfl

theorem sched_veArm (kind set mode : Nat) : (veArm n kind set mode s).sched = s.sched :=
  veArm_keepsSched (s0 := s) n kind set mode s rfl

theorem flags_engineChanged : (engineChanged n s).rd (VEN.FLAGS n) = s.rd (VEN.FLAGS n) := by
  refine frq (k := VEN.FLAGS n) (engineChanged_fr n s (fr_refl s) ?_ ?_ fun u => ?_) <;>
    simp only [VEN.FLAGS, VEN.STATE, HDI.APPLY_OUTCOME, HDI.MIRROR_STATE] <;> omega

theorem startAt_veArm (kind set mode : Nat) : (veArm n kind set mode s).rd (VEN.START_AT n) = s.rd (VEN.START_AT n) := by
  refine frq (k := VEN.START_AT n) (f := veArm n kind set mode) (veArm_fr n kind set mode s (fr_refl s) ?_ ?_) <;>
    simp only [VEN.START_AT, VEN.STATE, VEN.APG_DISCARD] <;> omega

/-- The start of VEn at network time u enters the start schedule. -/
def enlisted (n u : Nat) (a : State) : State :=
  ({ a with sched := a.sched ++ [(⟨false, n, u⟩ : Sched)] }).setBit (VEN.FLAGS n) 7 true

theorem veState_enlisted (u : Nat) : veState n (enlisted n u s) = veState n s := by
  unfold enlisted veState
  rw [rd_setBit_other _ (by simp only [VEN.STATE, VEN.FLAGS]; omega)]
  rfl

theorem veOf_enlisted (u m : Nat) : (enlisted n u s).veOf m = s.veOf m := veOf_setBit ..

theorem sched_enlisted (u : Nat) : (enlisted n u s).sched = s.sched ++ [⟨false, n, u⟩] := setBit_sched ..

theorem veStartAtEff_eq : veStartAtEff n s = engineChanged n
    (enlisted n (ofTime128 (s.rd (VEN.START_AT n))) (veArm n 1 (s.rd (VEN.PARK_TSET n)) (s.rd (VEN.BUF_MODE n)) s)) := by
  rw [← startAt_veArm 1 (s.rd (VEN.PARK_TSET n)) (s.rd (VEN.BUF_MODE n))]
  rfl

theorem veStartAtEff_facts : veState n (veStartAtEff n s) = 2 ∧ (veStartAtEff n s).bit (VEN.FLAGS n) 7 = true ∧
    (veStartAtEff n s).sched = s.sched ++ [⟨false, n, ofTime128 (s.rd (VEN.START_AT n))⟩] := by
  obtain ⟨state, -, kind⟩ := veArm_facts n 1 (s.rd (VEN.PARK_TSET n)) (s.rd (VEN.BUF_MODE n)) s
  rw [veStartAtEff_eq, veState_engineChanged (by rw [veOf_enlisted, kind]; decide), bit_of_rd flags_engineChanged,
    sched_engineChanged, veState_enlisted, sched_enlisted, sched_veArm]
  exact ⟨state, bit_setBit_true .., rfl⟩

theorem veStartEff_facts : veState n (veStartEff n s) = 2 ∧ ((veStartEff n s).veOf n).prior = veState n s := by
  obtain ⟨state, prior, kind⟩ := veArm_facts n 0 (s.rd (VEN.PARK_TSET n)) (s.rd (VEN.BUF_MODE n)) s
  unfold veStartEff
  rw [veState_engineChanged (by omega), prior_engineChanged]
  exact ⟨state, prior⟩

/-- STOP of an engine that is ARMED gives back the state held before. -/
theorem veState_veStopEff_armed (armed : veState n s = 2) (prior : (s.veOf n).prior ≠ 2) :
    veState n (veStopEff n s) = (s.veOf n).prior := by
  unfold veStopEff
  rw [if_pos armed]
  dsimp only
  rw [veState_barrierLeft, veState_veEnter] <;> rw [veOf_setBit]
  · rfl
  · exact prior

theorem veStopEff_of_not_armed (h : veState n s ≠ 2) : veStopEff n s =
    s.modVe n fun e => { e with stopAt := earlier e.stopAt (stopFrom s.now), resumeAt := none } := if_neg h

/-- Settles O20: each command's effect enters the state of its row, or latches its instant. -/
theorem veCommandsComplete : Obligations.VeCommandsComplete := by
  unfold Obligations.VeCommandsComplete
  intro q n s hn
  refine ⟨fun h st => ?_, fun h st => ?_, fun h hc => ?_, fun h hc => ?_, fun h st => ?_, fun h st hs => ?_,
    fun h st => ?_, fun h st hp => ?_, fun h st => ?_, fun h st => ?_⟩
  · refine givesCmd rfl hn h (List.forall_mem_singleton.2 (notInF (by simp [st]))) fun t like => ?_
    rw [like_veState like]
    exact veState_veEnter (by decide)
  · refine givesCmd rfl hn h (List.forall_mem_singleton.2 (notInF (by simpa using st))) fun t like => ?_
    rw [like_veState like]
    exact (veState_barrierLeft ..).trans (veState_veEnter (by decide))
  · refine givesCmd rfl hn h hc fun t like => ?_
    rw [like_veState like, like_veOf like]
    exact veStartEff_facts
  · refine givesCmd rfl hn h hc fun t like => ?_
    rw [like_veState like, bit_of_rd (like_k like (by simp only [VEN.FLAGS]; omega)), like.sched]
    exact veStartAtEff_facts
  · refine givesCmd rfl hn h (List.forall_mem_singleton.2 (notInF (by simp [st]))) fun t like => ?_
    rw [like_veState like, like_veOf like]
    exact ⟨(veState_modVe ..).trans st, by rw [veHaltEff, veOf_modVe]⟩
  · have free : ∀ c ∈ veResumeConds n s, c.1 = false := by
      simp [veResumeConds, notInF, st, hs]
    refine givesCmd rfl hn h free fun t like => ?_
    rw [like_veState like, like_veOf like]
    refine ⟨Eq.trans ?_ st, ?_⟩
    · unfold veResumeEff veGoOn veState
      rw [rd_modTgt, rd_modVe]
    · rw [veResumeEff, veOf_modTgt, veGoOn, veOf_modVe]
  · refine givesCmd rfl hn h (List.forall_mem_singleton.2 (notInF (by rcases st with st | st <;> simp [st]))) fun t like => ?_
    rw [like_veState like, like_veOf like, veStopEff_of_not_armed (by omega), veState_modVe, veOf_modVe]
    exact ⟨rfl, rfl⟩
  · refine givesCmd rfl hn h (List.forall_mem_singleton.2 (notInF (by simp [st]))) fun t like => ?_
    rw [like_veState like]
    exact veState_veStopEff_armed st hp
  · refine givesCmd rfl hn h (List.forall_mem_singleton.2 (notInF (by simp [st]))) fun t like => ?_
    rw [like_veState like]
    exact veState_veEnter (by decide)
  · refine givesCmd rfl hn h (List.forall_mem_singleton.2 (notInF (by simpa using st))) fun t like => ?_
    have prior : ((veSelfcheckEff n s).veOf n).prior = veState n s :=
      (congrArg (·.1) (veEnter_keepsVeArmed (nn := n) n 7 _ rfl)).trans (by rw [veOf_modVe])
    rw [like_veState like, like_veOf like]
    exact ⟨veState_veEnter (by decide), prior⟩

end Sys2Proof.Proofs.VeCommand
end

section
/-! READs from the debug port of members that a READ empties (00_scope.md R10, 02_control_dictionary.md R39, chapter 19, R496). -/
namespace Sys2Proof.Proofs.DebugRead
open Sys2Proof.Machine Sys2Proof.Laws Common MeshLaws CompleteHdi BusFacts

variable {q : Req} {s : State}

/-! A frame that names no OP of its own. -/

theorem opOf_of_none (h : q.op = none) (d : Nat) : opOf q d = d := by rw [opOf, h]

/-- A frame that names another OP is refused. -/
theorem statusOf_ne_zero_of_op {op o m len v rlen : Nat} {extra : List (Bool × Nat)} {r : Dict.Row}
    (found : Dict.find o m = some r) (named : q.op.isSome = true) : statusOf q op o m len v rlen extra s ≠ 0 := by
  have cond : (true, 3) ∈ baseConds q op o m len v s ++ extra := by simp [baseConds, found, named]
  intro zero
  unfold statusOf at zero
  dsimp only at zero
  split at zero
  · cases zero
  · exact absurd (firstOf_eq_zero zero _ cond (by decide)) (by decide)

/-- A READ that is served names no other OP. -/
theorem op_of_served {k v : Nat} {r : Dict.Row} (found : Dict.find (k / 256) (k % 256) = some r) (h : Served q 1 k 0 v s) :
    q.op = none := by
  cases named : q.op with
  | none => rfl
  | some c =>
    have cond : (true, 3) ∈ baseConds q 1 (k / 256) (k % 256) 0 v s := by simp [baseConds, found, named]
    exact absurd (firstOf_eq_zero h.2 _ cond (by decide)) (by decide)

/-- The effect of a READ that is taken, left out of a debug read. -/
theorem request_read_of_rc {o m len v : Nat} {r : Dict.Row} (found : Dict.find o m = some r) (rc : r.acc = .rc) :
    request q 1 o m len v s = plainRead q o m len r.width s := by
  have other : r.acc ≠ .rd := by rw [rc]; decide
  unfold request
  rw [found]
  exact if_neg other

theorem silent_respond {op o m st len data : Nat} (hq : q.master = 9) (named : q.op.isSome = true) :
    Silent q s (respond q op o m st len data s) := by
  obtain ⟨c, is⟩ := Option.isSome_iff_exists.1 named
  have byte (d : Nat) : respOp q d o m = c := by unfold respOp; rw [is]
  have same : respond q op o m st len data s = respond q 1 o m st len data s := by unfold respond; rw [byte, byte]
  refine ⟨?_, o, m, st, len, data, same⟩
  rw [← hq, respond_resp, is, ← byte op]
  rfl

theorem silent_refused {op o m st : Nat} {eff : State → State} (hq : q.master = 9) (heard : deaf q s = false)
    (named : q.op.isSome = true) (h : st ≠ 0) : Silent q s (finish q op o m st 0 0 eff s) := by
  rw [AccessStatus.finish_ref heard h]
  exact silent_respond hq named

theorem silent_dictRead {o m len v : Nat} {r : Dict.Row} (hq : q.master = 9) (heard : deaf q s = false)
    (found : Dict.find o m = some r) (rc : r.acc = .rc) : Silent q s (request q (opOf q 1) o m len v s) := by
  have debug : debugRead q 1 o m = true := by simp [debugRead, hq, found, rc]
  cases named : q.op with
  | none =>
    rw [opOf_of_none named, request_read_of_rc found rc, plainRead, debug]
    exact silent_finish hq heard found rc
  | some c =>
    have named : q.op.isSome = true := by rw [named]; rfl
    rcases ExecFrames.opOf_cases q 1 with is | is
    · rw [is, request_read_of_rc found rc, plainRead, debug]
      exact silent_finish hq heard found rc
    · have nonzero (rlen : Nat) := statusOf_ne_zero_of_op (op := opOf q 1) (len := len) (v := v) (rlen := rlen) (extra := [])
        (s := s) found named
      have none : request q (opOf q 1) o m len v s =
          finish q (opOf q 1) o m (statusOf q (opOf q 1) o m len v 0 [] s) 0 0 (fun s => s) s := by
        unfold request
        rw [found]
        generalize opOf q 1 = op at is
        match op, is with
        | 0, _ => rfl
        | _ + 6, _ => rfl
      rw [none]
      exact silent_refused hq heard named (nonzero 0)

/-! The READ of a member by its own command and through the dictionary. -/

/-- A command that reads the member of key k answers what the member holds, and so does DICT_READ. -/
theorem both_answer {i : Instr} {k len data : Nat} {extra : List (Bool × Nat)} {eff : State → State} (hq : q.master = 9)
    (rc : isRc k = true) (own : exec i s = .next (readFrom q k len data extra eff s))
    (rule : ∀ w, openRule q (k / 256) (k % 256) w s = ⟨len, data, extra, eff⟩) (takes : Takes q k len s)
    (free : ∀ c ∈ extra, c.1 = false) :
    Gives i s (AnsweredWith q len data) ∧ Gives (.dictRead q (k / 256) (k % 256) 0 0) s (AnsweredWith q len data) := by
  refine ⟨⟨_, own, (readFrom_any takes free).1⟩, _, rfl, ?_⟩
  obtain ⟨⟨served, short⟩, gate⟩ := takes
  obtain ⟨r, found, acc⟩ := of_isRc rc
  have form := meshForm_false (q := q) (op := 1) found (fun big => absurd big (by omega))
  rw [opOf_of_none (op_of_served found served), request_read_of_rc found acc, plainRead, readRule, rule, gate]
  dsimp only
  rw [if_neg (by decide), statusOf_zero served.2 short (reads_conds (r := r) form free)]
  exact resp_finish served.1

theorem exec_unit {i : Instr} {n b : Nat} {t : State} (hn : n < b) (is : exec i s = unitCmd n b t) : exec i s = .next t := by
  rw [is, unitNext hn]

theorem isRc_POP : ∀ n, n < 64 → isRc (FCP.POP n) = true := by decide
theorem isRc_POPREC : ∀ n, n < 64 → isRc (FCP.POPREC n) = true := by decide
theorem isRc_TXTS : ∀ n, n < 48 → isRc (TMU.TXTS n) = true := by decide
theorem isRc_RXMSG : ∀ n, n < 48 → isRc (TMU.RXMSG n) = true := by decide
theorem isRc_CAP_POP : ∀ n, n < 16 → isRc (TMU.CAP_POP n) = true := by decide
theorem isRc_DTX : ∀ n, n < 65 → isRc (DBG.DTX n) = true := by decide
theorem isRc_T_DRX : ∀ n, n < 65 → isRc (DBG.T_DRX n) = true := by decide

/-- The rule of a READ goes by the object's class and index, and the member. -/
theorem key_parts {a b c k : Nat} (hb : b < 256) (hc : c < 256) (is : k = (a * 256 + b) * 256 + c) :
    k / 256 / 256 = a ∧ k / 256 % 256 = b ∧ k % 256 = c := by omega

/-- Settles O19: a debug read leaves the effect of its READ out, and both ways to the member answer by the same rule. -/
theorem debugReadsChangeNothing : Obligations.DebugReadsChangeNothing := by
  unfold Obligations.DebugReadsChangeNothing
  intro q s hq heard
  refine ⟨fun o m len v x found rc t ran => ?_, fun t ran => ?_, fun n => ⟨?_, ?_, ?_, ?_, ?_, ?_, ?_⟩, ?_, fun n => ⟨?_, ?_, ?_, ?_, ?_, ?_, ?_⟩⟩
  · cases ran
    exact silent_dictRead hq heard found rc
  · cases ran
    obtain ⟨x, found, rc⟩ := of_isRc (show isRc SUP.LOG_POP = true by decide)
    exact silent_from hq heard found rc
  · exact fun t ran => silent_unit hq heard (isRc_RXMSG n) ran
  · exact fun t ran => silent_unit hq heard (isRc_TXTS n) ran
  · exact fun t ran => silent_unit hq heard (isRc_CAP_POP n) ran
  · exact fun t ran => silent_unit hq heard (isRc_DTX n) ran
  · exact fun t ran => silent_unit hq heard (isRc_T_DRX n) ran
  · exact fun t ran => silent_unit hq heard (isRc_POP n) ran
  · exact fun t ran => silent_unit hq heard (isRc_POPREC n) ran
  · intro r rest log takes
    refine both_answer hq (by decide) (eff := logPopEff) (extra := [(s.sup.log.isEmpty, 7)]) ?_ ?_ takes (by simp [log])
    · show Host.Outcome.next (readFrom ..) = _
      rw [log]; rfl
    · intro w
      show (⟨24, (s.sup.log.head?.map logBytes).getD 0, [(s.sup.log.isEmpty, 7)], logPopEff⟩ : ReadRule) = _
      rw [log]; rfl
  · intro w rest hn head takes
    obtain ⟨a, b, c⟩ := key_parts (a := 0x93) (b := n) (c := 0x12) (k := FCP.POP n) (by omega) (by decide) rfl
    refine both_answer hq (isRc_POP n hn) (eff := popEff n) (extra := [((s.sqOf n).head.isEmpty, 7)]) (exec_unit hn ?_) ?_ takes
      (by simp [head])
    · show unitCmd n 64 (readFrom ..) = _
      rw [head]; rfl
    · intro w
      simp only [openRule, a, b, c, head, List.headD_cons]
  · intro k hn len takes
    obtain ⟨a, b, c⟩ := key_parts (a := 0x93) (b := n) (c := 0x14) (k := FCP.POPREC n) (by omega) (by decide) rfl
    refine both_answer hq (isRc_POPREC n hn) (eff := poprecEff n k) (extra := [((packetLen n s).isNone, 7)]) (exec_unit hn ?_) ?_ takes
      (by simp [len])
    · show unitCmd n 64 (readFrom ..) = _
      rw [len]; rfl
    · intro w
      simp only [openRule, a, b, c, len, Option.getD_some]
  · intro e rest hn host txts takes
    obtain ⟨a, b, c⟩ := key_parts (a := 0xE0) (b := 4) (c := n) (k := TMU.TXTS n) (by omega) (by omega) rfl
    refine both_answer hq (isRc_TXTS n hn) (eff := txtsEff n) (extra := txtsConds n s) (exec_unit hn ?_) ?_ takes
      (by simp [txtsConds, hostLane, host, txts])
    · show unitCmd n 48 (readFrom ..) = _
      simp only [txtsData, txts]
    · intro w
      simp only [openRule, a, b, c, txtsData, txts]
  · intro e rest hn host rx takes
    obtain ⟨a, b, c⟩ := key_parts (a := 0xE0) (b := 6) (c := n) (k := TMU.RXMSG n) (by omega) (by omega) rfl
    refine both_answer hq (isRc_RXMSG n hn) (eff := rxmsgEff n) (extra := rxmsgConds n s) (exec_unit hn ?_) ?_ takes
      (by simp [rxmsgConds, hostLane, host, rx])
    · show unitCmd n 48 (readFrom ..) = _
      simp only [rxmsgData, rx]
    · intro w
      simp only [openRule, a, b, c, rxmsgData, rx]
  · intro e rest hn cap takes
    obtain ⟨a, b, c⟩ := key_parts (a := 0xE3) (b := n) (c := 1) (k := TMU.CAP_POP n) (by omega) (by decide) rfl
    refine both_answer hq (isRc_CAP_POP n hn) (eff := capEff n) (extra := capConds n s) (exec_unit hn ?_) ?_ takes
      (by simp [capConds, cap])
    · show unitCmd n 16 (readFrom ..) = _
      simp only [capData, cap]
    · intro w
      simp only [openRule, a, b, c, capData, cap]
  · intro hn full takes
    obtain ⟨a, b, c⟩ := key_parts (a := 0xF4) (b := n) (c := 0) (k := DBG.DTX n) (by omega) (by decide) rfl
    refine both_answer hq (isRc_DTX n hn) (eff := dtxEff n) (extra := [(!((s.tgtOf n).dtxFull), 7)]) (exec_unit hn rfl) ?_ takes
      (by simp [full])
    intro w
    simp only [openRule, a, b, c]
  · intro hn full takes
    obtain ⟨a, b, c⟩ := key_parts (a := 0xF4) (b := n) (c := 4) (k := DBG.T_DRX n) (by omega) (by decide) rfl
    refine both_answer hq (isRc_T_DRX n hn) (eff := tdrxEff n) (extra := [(!((s.tgtOf n).drxFull), 7)]) (exec_unit hn rfl) ?_ takes
      (by simp [full])
    intro w
    simp only [openRule, a, b, c]

end Sys2Proof.Proofs.DebugRead
end

section
/-! The accesses to a spill queue and to the fail counters (08_fail_capture.md R228 to R233, R238). -/
namespace Sys2Proof.Proofs.QueueAccess
open Sys2Proof.Machine Sys2Proof.Laws Common CompleteFcp

variable {q : Nat} {s : State}

/-- What a change of SQq that a batch may see leaves: the words of the queue, and its members. -/
theorem queueChanged_words : (let x := (queueChanged q s).sqOf q; (x.tail, x.head, x.ring, x.wr, x.seq, x.pkt)) =
    (let x := (s.sqOf q); (x.tail, x.head, x.ring, x.wr, x.seq, x.pkt)) :=
  queueChanged_keepsSq (nn := q) (s0 := s) q s rfl

theorem early_barrierLeft (n t : Nat) : ((barrierLeft n t s).sqOf q).early = (s.sqOf q).early := by
  refine keepsSq_foldl (g := (·.early)) (nn := q) (s0 := s) (fun u m hu => ?_) rfl
  split
  · split <;> exact hu
  · exact hu

theorem early_disarmStarts : ((disarmStarts s).sqOf q).early = (s.sqOf q).early := by
  refine keepsSq_foldl (g := (·.early)) (nn := q) (s0 := s) (fun u n hu => ?_) rfl
  dsimp only
  split
  · exact (early_barrierLeft ..).trans hu
  · exact hu

theorem early_queueChanged : ((queueChanged q s).sqOf q).early = (s.sqOf q).early := by
  unfold queueChanged reopenIf
  split
  · unfold reopen
    rw [sqOf_raise]
    split
    · unfold disarmTo restartLease
      rw [sqOf_wr, sqOf_modMirror, sqOf_modMirror, sqOf_wr]
      exact early_disarmStarts
    · rfl
  · rfl

theorem rd_queueChanged_state : (queueChanged q s).rd (FCP.Q_STATE q) = s.rd (FCP.Q_STATE q) := by
  refine frq (f := queueChanged q) (queueChanged_fr q s (fr_refl s) ?_ ?_ fun u => ?_) <;>
    simp only [FCP.Q_STATE, HDI.APPLY_OUTCOME, HDI.MIRROR_STATE, VEN.STATE] <;> omega

theorem popEff_facts {w : Nat × Bool} {rest : List (Nat × Bool)} (head : (s.sqOf q).head = w :: rest) :
    ((popEff q s).sqOf q).head = rest ∧ (popEff q s).rd (FCP.Q_OUT q) = min (s.rd (FCP.Q_OUT q) + 1) (2 ^ 64 - 1) := by
  unfold popEff
  rw [head]
  obtain ⟨left, out⟩ := leave_facts q 1 (s.wr (FCP.POP_MARK q) (if w.2 then 1 else 0))
  rw [sqOf_wr, head] at left
  rw [rd_wr_other _ (by simp only [FCP.Q_OUT, FCP.POP_MARK]; omega)] at out
  exact ⟨left, out⟩

theorem poprecEff_facts (k : Nat) : ((poprecEff q k s).sqOf q).head = (s.sqOf q).head.drop k ∧
    (poprecEff q k s).rd (FCP.Q_OUT q) = min (s.rd (FCP.Q_OUT q) + k) (2 ^ 64 - 1) := by
  obtain ⟨left, out⟩ := leave_facts q k (s.wr (FCP.POP_MARK q) 1)
  rw [rd_wr_other _ (by simp only [FCP.Q_OUT, FCP.POP_MARK]; omega)] at out
  exact ⟨left, out⟩

theorem queueEnableEff_facts : (queueEnableEff q s).rd (FCP.Q_STATE q) = 1 ∧ qWords q (queueEnableEff q s) = 0 ∧
    ((queueEnableEff q s).sqOf q).seq = 0 := by
  unfold queueEnableEff
  generalize is : ((((s.modSq q fun x => { evAt := x.evAt, wrFrom := x.wrFrom, rdFrom := x.rdFrom }).wr (FCP.Q_STATE q) 1).wr
    (FCP.Q_HWM q) 0).wr (FCP.Q_PKTS q) 0) = u
  have queue : u.sqOf q = { evAt := (s.sqOf q).evAt, wrFrom := (s.sqOf q).wrFrom, rdFrom := (s.sqOf q).rdFrom } := by
    rw [← is, sqOf_wr, sqOf_wr, sqOf_wr, sqOf_modSq]
  have state : u.rd (FCP.Q_STATE q) = 1 := by
    rw [← is, rd_wr_other _ (by simp only [FCP.Q_STATE, FCP.Q_PKTS]; omega),
      rd_wr_other _ (by simp only [FCP.Q_STATE, FCP.Q_HWM]; omega), rd_wr_same]
  have early := early_queueChanged (q := q) (s := u)
  have words := queueChanged_words (q := q) (s := u)
  simp only [queue, Prod.mk.injEq] at words early
  obtain ⟨tail, head, ring, -, seq, -⟩ := words
  refine ⟨rd_queueChanged_state.trans state, ?_, seq⟩
  rw [qWords, tail, head, ring, early]
  rfl

theorem queueDisableEff_state : (queueDisableEff q s).rd (FCP.Q_STATE q) = 0 :=
  rd_queueChanged_state.trans (rd_wr_same ..)

theorem rd_qFlag {j b th : Nat} (h : j ≠ FCP.Q_EVFLAGS q) : (qFlag q b th s).rd j = s.rd j :=
  frq (f := qFlag q b th) (qFlag_fr q b th s (fr_refl s) h.symm)

theorem qFlag_words (b th : Nat) : ((qFlag q b th s).sqOf q).tail = (s.sqOf q).tail ∧
    ((qFlag q b th s).sqOf q).head = (s.sqOf q).head := by
  have words := qFlag_keepsSq (nn := q) (s0 := s) q b th s rfl
  exact ⟨congrArg (·.1) words, congrArg (·.2.1) words⟩

theorem flushEff_facts : (flushEff q s).rd (FCP.Q_STATE q) = 1 ∧ (flushEff q s).rd (FCP.Q_PKTS q) = 0 ∧
    ((flushEff q s).sqOf q).tail = [] ∧ ((flushEff q s).sqOf q).head = [] := by
  unfold flushEff
  extract_lets x k t
  have state : t.rd (FCP.Q_STATE q) = 1 := by
    rw [show t = State.modSq _ _ _ from rfl, rd_modSq, rd_wr_other _ (by simp only [FCP.Q_STATE, FCP.Q_PKTS]; omega), rd_wr_same]
  have packets : t.rd (FCP.Q_PKTS q) = 0 := by
    rw [show t = State.modSq _ _ _ from rfl, rd_modSq, rd_wr_same]
  have queue : (t.sqOf q).tail = [] ∧ (t.sqOf q).head = [] := by
    rw [show t = State.modSq _ _ _ from rfl, sqOf_modSq]
    exact ⟨rfl, rfl⟩
  clear_value t
  split
  · exact ⟨state, packets, queue⟩
  · obtain ⟨tail, head⟩ := qFlag_words (q := q) (s := t.addTo 64 (FCP.Q_FLUSHED q) k) 6 (seenEdge t)
    rw [tail, head, rd_qFlag (by simp only [FCP.Q_STATE, FCP.Q_EVFLAGS]; omega),
      rd_qFlag (by simp only [FCP.Q_PKTS, FCP.Q_EVFLAGS]; omega), addTo_ne (by simp only [FCP.Q_STATE, FCP.Q_FLUSHED]; omega),
      addTo_ne (by simp only [FCP.Q_PKTS, FCP.Q_FLUSHED]; omega), sqOf_addTo]
    exact ⟨state, packets, queue⟩

theorem pushEff_facts (v : Nat) (mark : Bool) : ((pushEff q v mark s).sqOf q).tail = (s.sqOf q).tail ++ [(v % 2 ^ 64, mark)] ∧
    ((pushEff q v mark s).sqOf q).pkt = (if mark then 0 else (s.sqOf q).pkt + 1) ∧
    (pushEff q v mark s).rd (FCP.Q_IN q) = min (s.rd (FCP.Q_IN q) + 1) (2 ^ 64 - 1) := by
  obtain ⟨tail, pkt, count⟩ := enter_facts q [(v % 2 ^ 64, mark)] (s.modSq q fun x => { x with pkt := if mark then 0 else x.pkt + 1 })
  rw [sqOf_modSq] at tail pkt
  rw [rd_modSq] at count
  exact ⟨tail, pkt, count⟩

theorem push_gives {i : Instr} {r : Req} {k v : Nat} {mark : Bool} {P : State → Prop} (hq : q < 64)
    (is : exec i s = unitCmd q 64 (pushWord r k q v mark s)) (writes : Writes r k 8 v s)
    (free : ∀ c ∈ pushConds q mark s, c.1 = false) (hp : ∀ t, Like (pushEff q v mark s) t → P t) :
    Gives i s fun t => Answered r 0 t ∧ P t := by
  obtain ⟨answered, like⟩ := pushWord_done writes free
  exact ⟨_, by rw [is, unitNext hq], answered, hp _ like⟩

/-- Settles O25: each access has the effect of its row on the head, the tail and the counts of the queue. -/
theorem queueAccessesComplete : Obligations.QueueAccessesComplete := by
  unfold Obligations.QueueAccessesComplete
  intro r q s hq
  refine ⟨fun w rest takes other head => ?_, fun k len takes other => ?_, fun h hc => ?_, fun h hc => ?_, fun h hc => ?_,
    fun v h hc => ?_, fun v h hc => ?_, fun c v hc h free => ?_⟩
  · have own : exec (.pop r q) s = unitCmd q 64 (readFrom r (FCP.POP q) 8 w.1 [((s.sqOf q).head.isEmpty, 7)] (popEff q) s) := by
      show unitCmd q 64 (readFrom ..) = _
      rw [head]; rfl
    refine givesRd own hq takes other (by simp [head]) fun t like => ?_
    rw [like_sq like, like_rd like (by simp only [FCP.Q_OUT]; omega)]
    exact popEff_facts head
  · have own : exec (.poprec r q) s = unitCmd q 64 (readFrom r (FCP.POPREC q) (8 * k)
        (wordsData (((s.sqOf q).head.take k).map (·.1))) [((packetLen q s).isNone, 7)] (poprecEff q k) s) := by
      show unitCmd q 64 (readFrom ..) = _
      rw [len]; rfl
    refine givesRd own hq takes other (by simp [len]) fun t like => ?_
    rw [like_sq like, like_rd like (by simp only [FCP.Q_OUT]; omega)]
    exact poprecEff_facts k
  · refine givesCmd rfl hq h hc fun t like => ?_
    rw [qWords, like_sq like, like_rd like (by simp only [FCP.Q_STATE]; omega)]
    exact queueEnableEff_facts
  · refine givesCmd rfl hq h hc fun t like => ?_
    rw [like_rd like (by simp only [FCP.Q_STATE]; omega)]
    exact queueDisableEff_state
  · refine givesCmd rfl hq h hc fun t like => ?_
    rw [like_sq like, like_rd like (by simp only [FCP.Q_STATE]; omega), like_rd like (by simp only [FCP.Q_PKTS]; omega)]
    exact flushEff_facts
  · refine push_gives hq rfl h hc fun t like => ?_
    obtain ⟨tail, -, count⟩ := pushEff_facts (q := q) (s := s) v false
    rw [like_sq like, like_rd like (by simp only [FCP.Q_IN]; omega)]
    exact ⟨tail, count⟩
  · refine push_gives hq rfl h hc fun t like => ?_
    rw [like_sq like, like_rd like (by simp only [FCP.Q_IN]; omega)]
    exact pushEff_facts v true
  · refine givesCmd rfl hc h free fun t like => ?_
    rw [like_rd like (by simp only [FCP.FCOUNT]; omega)]
    exact rd_wr_same ..

end Sys2Proof.Proofs.QueueAccess
end

section
/-! Facets (05_fabric.md R157, R161): a user request whose bit was cleared in the same SUPCLK cycle. -/
namespace Sys2Proof.Proofs.FacetRequest
open Sys2Proof.Machine

/-- FACET0 is released and its user request cell has F set, and bit 0 of FAB.USER_REQ has been cleared in this SUPCLK cycle. -/
def clearedThisCycle : State :=
  { reg := [(HDI.STATUS, 2), (FAB.RELEASED, 1)]
    cells := [(cellKey (colOf 0 0) (rowOf 0 2), some ⟨{ f := true }, 0, {}, 0, {}⟩)]
    cleared := [(State.supCycle 0, FAB.USER_REQ, 1)] }

/-- Refutes O27: a request in the SUPCLK cycle in which its bit has been cleared sets the bit again and raises no event, and the
statement lets only a bit that is set, and a request of another facet in the cycle, keep the event back. -/
theorem not_facetsComplete : ¬ Obligations.FacetsComplete := by
  unfold Obligations.FacetsComplete
  intro facets
  obtain ⟨-, -, -, -, -, -, -, request, -⟩ := facets ⟨0, 0, 0, none, none⟩ 0 clearedThisCycle (by decide)
  obtain ⟨t, ran, -, -, raised⟩ := request (by decide) (by decide) (by decide)
  have silent : t.evq = [] := by
    cases ran
    decide
  have event := raised (by decide)
  rw [silent] at event
  exact absurd event (by decide)

end Sys2Proof.Proofs.FacetRequest
end

section
/-! Instructions of a DSP engine that change control, addresses, accumulators and vector registers (14_dsp.md R371 to R380). -/
namespace Sys2Proof.Proofs.DspInstruction
open Sys2Proof.Machine Sys2Proof.Laws Common CompleteDsp

variable {n w : Nat} {s : State}

/-- An instruction that issues gives what its action makes of the state in which it acts. -/
theorem gives_of {i : Instr} {id : Nat} {act : Nat → Nat → Nat → State → State} {P : State → Prop}
    (h : DspIssues n id w s) (he : exec i s = insnCommand n id act s)
    (hp : P (act w (s.dspOf n).pc (dspIssueAt n s) (dspAt n s))) : Gives i s P :=
  ⟨_, he.trans (insn_next h act), hp⟩

/-- An instruction that changes the engine's registers alone has issued, with the registers as it left them. -/
theorem issued_modDsp {t cost next : Nat} {f : DspRun → DspRun} (hf : ∀ d, (f d).pc = d.pc ∧ (f d).rpt = d.rpt) :
    DspIssued n next s (retire n t cost next ((dspAt n s).modDsp n f)) := by
  refine issued (at_pcreg n s) ?_ ?_
  · rw [dspOf_modDsp, (hf _).1, at_pc]
  · rw [dspOf_modDsp, (hf _).2, at_rpt]

/-- An instruction that leaves DSP.PC and the engine's place in the program has issued. -/
theorem issued_of_fr {t cost next : Nat} {u : State} (hd : u.dspOf n = (dspAt n s).dspOf n)
    (hk : u.rd (DSP.PC n) = (dspAt n s).rd (DSP.PC n)) : DspIssued n next s (retire n t cost next u) :=
  issued (hk.trans (at_pcreg n s)) (by rw [hd, at_pc]) (by rw [hd, at_rpt])

/-- The registers after an instruction are those that its action left. -/
theorem regs_retire (n t cost next : Nat) (u : State) :
    let e := (retire n t cost next u).dspOf n
    let d := u.dspOf n
    e.v = d.v ∧ e.acc = d.acc ∧ e.a = d.a ∧ e.o = d.o ∧ e.c = d.c ∧ e.bsh = d.bsh ∧ e.moves = d.moves := by
  simpa only [Prod.mk.injEq] using retire_g n t cost next u

theorem c_retire {t cost next : Nat} (u : State) : ((retire n t cost next u).dspOf n).c = (u.dspOf n).c :=
  (regs_retire n t cost next u).2.2.2.2.1
theorem a_retire {t cost next : Nat} (u : State) : ((retire n t cost next u).dspOf n).a = (u.dspOf n).a :=
  (regs_retire n t cost next u).2.2.1
theorem o_retire {t cost next : Nat} (u : State) : ((retire n t cost next u).dspOf n).o = (u.dspOf n).o :=
  (regs_retire n t cost next u).2.2.2.1
theorem v_retire {t cost next : Nat} (u : State) : ((retire n t cost next u).dspOf n).v = (u.dspOf n).v :=
  (regs_retire n t cost next u).1
theorem bsh_retire {t cost next : Nat} (u : State) : ((retire n t cost next u).dspOf n).bsh = (u.dspOf n).bsh :=
  (regs_retire n t cost next u).2.2.2.2.2.1
theorem moves_retire {t cost next : Nat} (u : State) : ((retire n t cost next u).dspOf n).moves = (u.dspOf n).moves :=
  (regs_retire n t cost next u).2.2.2.2.2.2

/-- A loop counter that an instruction sets holds what it was set to. -/
theorem counter_retire (t cost next k v : Nat) (u : State) :
    reg0 ((retire n t cost next (u.modDsp n fun d => { d with c := setReg d.c k v })).dspOf n).c k = v := by
  rw [c_retire, dspOf_modDsp]
  exact setReg_same _ _ _

/-- A taken DJNZ and one that falls through both leave the loop counter one lower. -/
theorem djnz_gives (h : DspIssues n 2 w s) : Gives (.djnz n) s fun t =>
    let v := (reg0 (s.dspOf n).c (Dict.bitsOf w 55 54) + 65535) % 65536
    reg0 (t.dspOf n).c (Dict.bitsOf w 55 54) = v ∧ DspIssued n (if v = 0 then (s.dspOf n).pc + 1 else w % 2048) s t := by
  refine gives_of h (show execDjnz n s = _ from rfl) ?_
  simp only [at_c]
  generalize (reg0 (s.dspOf n).c (Dict.bitsOf w 55 54) + 65535) % 65536 = v
  split
  · exact ⟨counter_retire .., issued_modDsp fun d => ⟨rfl, rfl⟩⟩
  · exact ⟨counter_retire .., issued_modDsp fun d => ⟨rfl, rfl⟩⟩

theorem ldc_gives (h : DspIssues n 3 w s) : Gives (.dspLdc n) s fun t => DspIssued n ((s.dspOf n).pc + 1) s t ∧
    reg0 (t.dspOf n).c (Dict.bitsOf w 55 54) = Dict.bitsOf w 47 32 := by
  refine gives_of h (show execDspLdc n s = _ from rfl) ?_
  refine ⟨issued_modDsp fun d => ⟨rfl, rfl⟩, ?_⟩
  exact counter_retire ..

theorem evt_gives (h : DspIssues n 4 w s) : Gives (.dspEvt n) s fun t => DspIssued n ((s.dspOf n).pc + 1) s t ∧
    t.rd (DSP.EVENTS n) = min (s.rd (DSP.EVENTS n) + 1) (2 ^ 32 - 1) := by
  have hn := h.1
  refine gives_of h (show execDspEvt n s = _ from rfl) ?_
  refine ⟨issued_of_fr (dspOf_raise ..) ?_, ?_⟩
  · rw [rd_raise, bump_ne (by simp)]
  · rw [retire_rd (by simp) (by simp), rd_raise, bump_eq,
      show (dspAt n s).rd (DSP.EVENTS n) = s.rd (DSP.EVENTS n) from at_rd (ndv (by omega) (by omega) (by omega) hn)]

theorem halt_gives (h : DspIssues n 5 w s) : Gives (.dspHaltInsn n) s fun t =>
    t.rd (DSP.PC n) = (s.dspOf n).pc ∧ t.rd (DSP.STATE n) = 4 := by
  refine gives_of h (show execDspHaltInsn n s = _ from rfl) ?_
  refine ⟨?_, stop_state ..⟩
  rw [stop_rd (by simp) (by simp) (by simp) (by simp) (by simp), at_pcreg]

theorem waitm_gives (h : DspIssues n 6 w s) : Gives (.waitm n) s fun t => DspIssued n ((s.dspOf n).pc + 1) s t ∧ (t.dspOf n).moves = [] := by
  have none : (s.dspOf n).moves = [] := by
    obtain ⟨-, -, -, -, -, -, -, -, -, -, -, hid, hw, -⟩ := h
    simpa [waitsMove, hid] using hw
  refine gives_of h (show execWaitm n s = _ from rfl) ?_
  refine ⟨issued_of_fr rfl rfl, ?_⟩
  rw [moves_retire, at_moves, none]

theorem bclr_gives (h : DspIssues n 7 w s) : Gives (.bclr n) s fun t => DspIssued n ((s.dspOf n).pc + 1) s t ∧ t.rd (DSP.BEXP n) = 23 := by
  refine gives_of h (show execBclr n s = _ from rfl) ?_
  refine ⟨issued_of_fr rfl (rd_wr_other _ (by simp) _), ?_⟩
  rw [retire_rd (by simp) (by simp), rd_wr_same]

theorem blk_gives (h : DspIssues n 8 w s) : Gives (.blk n) s fun t => DspIssued n ((s.dspOf n).pc + 1) s t ∧ t.rd (DSP.BEXP n) = 23 ∧
    (t.dspOf n).bsh = s.rd (DSP.BEXP n) - Dict.bitsOf w 52 48 ∧
    t.rd (DSP.EXPACC n) = ofSigned 32 (min (toSigned 32 (s.rd (DSP.EXPACC n)) + ((t.dspOf n).bsh : Int)) 32767) := by
  have hn := h.1
  have bexp : (dspAt n s).rd (DSP.BEXP n) = s.rd (DSP.BEXP n) := at_rd (ndv (by omega) (by omega) (by omega) hn)
  have expacc : (dspAt n s).rd (DSP.EXPACC n) = s.rd (DSP.EXPACC n) := at_rd (ndv (by omega) (by omega) (by omega) hn)
  refine gives_of h (show execBlk n s = _ from rfl) ?_
  simp only [bsh_retire, retire_rd (k := DSP.BEXP n) (n := n) (by simp) (by simp),
    retire_rd (k := DSP.EXPACC n) (n := n) (by simp) (by simp), dspOf_wr, dspOf_modDsp, rd_wr_same, bexp, expacc]
  refine ⟨issued ?_ ?_ ?_, ?_, trivial, trivial⟩
  · rw [rd_wr_other _ (by simp), rd_modDsp, rd_wr_other _ (by simp), at_pcreg]
  · rw [dspOf_wr, dspOf_modDsp]; exact at_pc n s
  · rw [dspOf_wr, dspOf_modDsp]; exact at_rpt n s
  · rw [rd_wr_other _ (by simp), rd_modDsp, rd_wr_same]

theorem rpt_gives (h : DspIssues n 0x60 w s) : Gives (.dspRpt n) s fun t => t.rd (DSP.PC n) = (s.dspOf n).pc ∧
    (t.dspOf n).pc = (s.dspOf n).pc + 1 ∧ (t.dspOf n).rpt = some (w % 65536 + 1) ∧ t.rd (DSP.RPT_LEFT n) = w % 65536 + 1 ∧
    t.bit (DSP.FLAGS n) 3 = true := by
  refine gives_of h (show execDspRpt n s = _ from rfl) ?_
  refine ⟨?_, ?_, ?_, ?_, ?_⟩
  · rw [rd_modDsp, rd_setBit_other _ (by simp), rd_wr_other _ (by simp), at_pcreg]
  · rw [dspOf_modDsp]
  · rw [dspOf_modDsp]
  · rw [rd_modDsp, rd_setBit_other _ (by simp), rd_wr_same]
  · exact bit_setBit_true ..

theorem seta_gives (h : DspIssues n 0x40 w s) : Gives (.seta n) s fun t => DspIssued n ((s.dspOf n).pc + 1) s t ∧
    reg0 (t.dspOf n).a (Dict.bitsOf w 57 55) = w % 2 ^ 20 := by
  refine gives_of h (show execSeta n s = _ from rfl) ?_
  refine ⟨issued_modDsp fun d => ⟨rfl, rfl⟩, ?_⟩
  unfold addrAct
  rw [a_retire, dspOf_modDsp]
  exact setReg_same _ _ _

theorem seto_gives (h : DspIssues n 0x41 w s) : Gives (.seto n) s fun t => DspIssued n ((s.dspOf n).pc + 1) s t ∧
    reg0 (t.dspOf n).o (Dict.bitsOf w 57 55) = w % 2 ^ 20 := by
  refine gives_of h (show execSeto n s = _ from rfl) ?_
  refine ⟨issued_modDsp fun d => ⟨rfl, rfl⟩, ?_⟩
  unfold addrAct
  rw [o_retire, dspOf_modDsp]
  exact setReg_same _ _ _

theorem inca_gives (h : DspIssues n 0x42 w s) : Gives (.inca n) s fun t => DspIssued n ((s.dspOf n).pc + 1) s t ∧
    let a := reg0 (s.dspOf n).a (Dict.bitsOf w 57 55)
    reg0 (t.dspOf n).a (Dict.bitsOf w 57 55) = a / 2 ^ 14 * 2 ^ 14 + (a + w % 2 ^ 20) % 2 ^ 14 := by
  refine gives_of h (show execInca n s = _ from rfl) ?_
  refine ⟨issued_modDsp fun d => ⟨rfl, rfl⟩, ?_⟩
  unfold addrAct
  rw [a_retire, dspOf_modDsp]
  refine (setReg_same _ _ _).trans ?_
  rw [at_a]
  rfl

theorem nop_gives (h : DspIssues n 0 w s) : Gives (.dspNop n) s (DspIssued n ((s.dspOf n).pc + 1) s) := by
  refine gives_of h (show execDspNop n s = _ from rfl) ?_
  exact issued_of_fr rfl rfl

theorem jmp_gives (h : DspIssues n 1 w s) : Gives (.dspJmp n) s (DspIssued n (w % 2048) s) := by
  refine gives_of h (show execDspJmp n s = _ from rfl) ?_
  exact issued_of_fr rfl rfl

/-- Settles O28: each instruction issues in the state after its stalls and breakpoints, and its action and its retirement leave
what it names. -/
theorem dspControlComplete : Obligations.DspControlComplete := fun _ _ _ =>
  ⟨nop_gives, jmp_gives, djnz_gives, ldc_gives, evt_gives, halt_gives, waitm_gives, bclr_gives, blk_gives, rpt_gives, seta_gives,
    seto_gives, inca_gives⟩

/-- An ACC operation leaves in its accumulator what f gives of the registers as they stood. -/
theorem acc_gives {i : Instr} {id : Nat} {f : Nat → Nat → State → Int} {r : Nat → Int} (h : DspIssues n id w s)
    (he : exec i s = insnCommand n id (accAct n f) s) (hr : (fun l => f w l (dspAt n s)) = r) :
    Gives i s fun t => DspIssued n ((s.dspOf n).pc + 1) s t ∧ AccHolds n (Dict.bitsOf w 55 54) r s t := by
  obtain ⟨t, next, holds⟩ := accGives h rfl hr
  exact ⟨t, he.trans next, holds⟩

/-- A VEC operation leaves in its register what f gives of the registers as they stood. -/
theorem vec_gives {i : Instr} {id : Nat} {b : Bool} {f : Nat → Nat → State → Int} {r : Nat → Int} (h : DspIssues n id w s)
    (he : exec i s = insnCommand n id (vecAct n b f) s) (hr : (fun l => f w l (dspAt n s)) = r) :
    Gives i s fun t => DspIssued n ((s.dspOf n).pc + 1) s t ∧ VecHolds n (Dict.bitsOf w 55 52) r s t := by
  obtain ⟨t, next, holds⟩ := vecGives h rfl hr
  exact ⟨t, he.trans next, holds⟩

theorem accStr_gives (h : DspIssues n 0x24 w s) : Gives (.accStr n) s fun t => DspIssued n ((s.dspOf n).pc + 1) s t ∧
    VecHolds n (Dict.bitsOf w 51 48) (fun l => halfUp (areg n (Dict.bitsOf w 55 54) l s) (24 + Dict.bitsOf w 47 43)) s t := by
  refine gives_of h (show execAccStr n s = _ from rfl) ?_
  simp only [areg_at]
  exact vecHolds_retire (fun d => ⟨rfl, rfl, rfl⟩) h.1 (writeV_k ..)

/-- Settles O29: an operation of class ACC or VEC writes its destination lane by lane, from the registers as they stood. -/
theorem dspVectorComplete : Obligations.DspVectorComplete := fun n w s =>
  ⟨fun h => acc_gives h (show execAccClr n s = _ from rfl) rfl,
    fun h => acc_gives h (show execAccLda n s = _ from rfl) (by simp only [vreg_at]),
    fun h => acc_gives h (show execAccAdda n s = _ from rfl) (by simp only [areg_at]),
    fun h => acc_gives h (show execAccSuml n s = _ from rfl) (by simp only [areg_at]),
    accStr_gives,
    fun h => acc_gives h (show execAccShra n s = _ from rfl) (by simp only [areg_at]),
    fun h => vec_gives h (show execVmov n s = _ from rfl) (by simp only [vecA, vreg_at]),
    fun h => vec_gives h (show execVadd n s = _ from rfl) (by simp only [vecA, vecB, vreg_at]),
    fun h => vec_gives h (show execVsub n s = _ from rfl) (by simp only [vecA, vecB, vreg_at]),
    fun h => vec_gives h (show execVshl n s = _ from rfl) (by simp only [vecA, vreg_at, vecShift_at]),
    fun h => vec_gives h (show execVshr n s = _ from rfl) (by simp only [vecA, vreg_at, vecShift_at])⟩
end Sys2Proof.Proofs.DspInstruction
end

section
/-! Instructions of a DSP engine with slots, and its moves (14_dsp.md R371 to R375, R381, R382, R389). -/
namespace Sys2Proof.Proofs.DspMove
open Sys2Proof.Machine Sys2Proof.Laws Common CompleteDsp DspInstruction

variable {n w : Nat} {ecc : List Ecc} {s : State}

theorem mac_of {i : Instr} {id : Nat} {f : Int → Int → Int} (h : DspIssues n id w s)
    (he : exec i s = insnCommand n id (macAct n ecc f) s) (owned : slotsOwned n w (dspAt n s) = true)
    (sound : (runSlots n (dspIssueAt n s) w ecc (dspAt n s)).fault = 0) :
    let r := runSlots n (dspIssueAt n s) w ecc (dspAt n s)
    Gives i s fun t => DspIssued n ((s.dspOf n).pc + 1) s t ∧ t.mem = r.st.mem ∧ AccHolds n (Dict.bitsOf w 57 56)
      (fun l => f (areg n (Dict.bitsOf w 57 56) l s) (macX n w r s l * macY n w r s l * 2)) s t := by
  obtain ⟨t, next, holds⟩ := macGives h owned sound
  exact ⟨t, he.trans next, holds⟩

theorem mem_gives (h : DspIssues n 0x30 w s) (owned : slotsOwned n w (dspAt n s) = true)
    (sound : (runSlots n (dspIssueAt n s) w ecc (dspAt n s)).fault = 0) :
    let r := runSlots n (dspIssueAt n s) w ecc (dspAt n s)
    Gives (.mem n ecc) s fun t => DspIssued n ((s.dspOf n).pc + 1) s t ∧ t.mem = r.st.mem ∧
      (t.dspOf n).v = (r.st.dspOf n).v ∧ (t.dspOf n).a = (r.st.dspOf n).a := by
  intro r
  obtain ⟨-, -, -, -, pc, rpt⟩ := runSlots_kd n (dspIssueAt n s) w ecc (dspAt n s)
  have pcreg := (runSlots_sv n (dspIssueAt n s) w ecc (dspAt n s)).1 (DSP.PC n) (nsv (by omega) (by omega) h.1)
  refine gives_of h (show execMem n ecc s = _ from rfl) ?_
  rw [if_neg (by simp [owned]), if_neg (by simp [sound])]
  refine ⟨issued ?_ ?_ ?_, retire_mem .., v_retire _, a_retire _⟩
  · unfold stalled
    rw [addTo_ne (by simp), pcreg, at_pcreg]
  · exact pc.trans (at_pc n s)
  · exact rpt.trans (at_rpt n s)

/-! A pump of the moves that begins no repetition. -/

theorem rpt_of_dsp {t : State} (h : t.dsp = s.dsp) : (t.dspOf n).rpt = (s.dspOf n).rpt := by unfold State.dspOf; rw [h]

theorem rpt_modDsp {k : Nat} {f : DspRun → DspRun} (hf : ∀ d, (f d).rpt = d.rpt) : ((s.modDsp k f).dspOf n).rpt = (s.dspOf n).rpt := by
  by_cases e : n = k
  · subst e; rw [dspOf_modDsp, hf]
  · rw [dspOf_modDsp_other _ e]

theorem rpt_portStall (b p : Nat) : ((portStall b p s).dspOf n).rpt = (s.dspOf n).rpt := by
  unfold portStall
  extract_lets k
  split
  · exact rpt_modDsp (s := s.addTo 64 (DSP.STALLS k) 1) fun _ => rfl
  · rfl

theorem rpt_moverTake (k b v word : Nat) (wr : Bool) : ((moverTake k b wr word v s).2.dspOf n).rpt = (s.dspOf n).rpt := by
  unfold moverTake
  extract_lets p pt
  have taken : (pt.2.dspOf n).rpt = (s.dspOf n).rpt := rpt_of_dsp (portTake_dsp ..)
  dsimp only
  split
  · exact (rpt_portStall ..).trans taken
  · exact taken

theorem rpt_moveErr (k : Nat) (ue : Bool) : ((moveErr k ue s).dspOf n).rpt = (s.dspOf n).rpt := rpt_modDsp fun _ => rfl

theorem rpt_moveWord (k : Nat) (m : Mv) (x : MeshReq × State) (i : Nat) : ((moveWord k m x i).2.dspOf n).rpt = (x.2.dspOf n).rpt := by
  unfold moveWord
  extract_lets b pt put
  have taken : (pt.2.dspOf n).rpt = (x.2.dspOf n).rpt := rpt_moverTake ..
  split
  · exact taken
  · exact (rpt_of_dsp (scrFlag_dsp ..)).trans taken
  · exact (rpt_moveErr ..).trans ((rpt_of_dsp (scrFlag_dsp ..)).trans taken)

theorem rpt_moveWords (k : Nat) (m : Mv) : ∀ (l : List Nat) (x : MeshReq × State),
    ((l.foldl (moveWord k m) x).2.dspOf n).rpt = (x.2.dspOf n).rpt
  | [], _ => rfl
  | i :: l, x => (rpt_moveWords k m l _).trans (rpt_moveWord k m x i)

theorem rpt_moveNext (k : Nat) (m : Mv) : ((moveNext k m s).2.dspOf n).rpt = (s.dspOf n).rpt := by
  unfold moveNext
  extract_lets r
  split
  · exact rpt_moveWords k m _ _
  · rfl

theorem rpt_modHead (k : Nat) (f : Mv → Mv) : ((modHead k f s).dspOf n).rpt = (s.dspOf n).rpt :=
  rpt_modDsp (f := fun d => { d with moves := match d.moves with | m :: r => f m :: r | [] => [] }) fun _ => rfl

theorem rpt_moveSend (k : Nat) (r : MeshReq) : ((moveSend k r s).dspOf n).rpt = (s.dspOf n).rpt := rpt_of_dsp (meshSend_dsp ..)

theorem rpt_dspStopAt (t c : Nat) : ((dspStopAt n t c s).dspOf n).rpt = none := by
  unfold dspStopAt
  extract_lets u v lost gates stopped unflagged
  rw [dspOf_raise, dspOf_modTgt, dspOf_wr, show unflagged = (stopped.setBit (DSP.FLAGS n) 4 false).setBit (DSP.FLAGS n) 3 false from rfl,
    dspOf_setBit, dspOf_setBit, show stopped = State.modDsp _ n _ from rfl, dspOf_modDsp]

theorem rpt_moveLost (h : (s.dspOf n).rpt = none) : ((moveLost n s).dspOf n).rpt = none := by
  have dropped (u : State) : ((dropLost n u).dspOf n).rpt = (u.dspOf n).rpt := by
    unfold dropLost
    split
    · split
      · exact rpt_modDsp fun _ => rfl
      · rfl
    · rfl
  unfold moveLost
  split
  · rw [dropped]
    split
    · exact h
    · exact rpt_dspStopAt ..
  · exact h

theorem rpt_moveIssue : ∀ (k : Nat) (u : State), (u.dspOf n).rpt = none → ((moveIssue n k u).dspOf n).rpt = none
  | 0, _, h => h
  | k + 1, u, h => by
    unfold moveIssue
    split
    · split
      · split
        · exact rpt_moveLost h
        · split
          · exact h
          · exact rpt_moveIssue k _ ((rpt_moveSend ..).trans ((rpt_modHead ..).trans ((rpt_moveNext ..).trans h)))
      · exact h
    · exact h

theorem rpt_movePump (h : (s.dspOf n).rpt = none) : ((movePump n s).dspOf n).rpt = none := by
  have h' : ((s.setBit (DSP.FLAGS n) 4 false).dspOf n).rpt = none := by rw [dspOf_setBit]; exact h
  unfold movePump
  split
  · split
    · rw [dspOf_setBit]; exact h
    · dsimp only
      split
      · exact h'
      · refine rpt_moveIssue _ _ ?_
        split
        · exact (rpt_modHead ..).trans h'
        · exact h'
  · exact h'

theorem pcreg_movePump : (movePump n s).rd (DSP.PC n) = s.rd (DSP.PC n) := by
  refine frq (k := DSP.PC n) (movePump_fr n s (fr_refl s) ?_ (fun u => ?_) (fun u => ?_) ?_ ?_ ?_ ?_ ?_ ?_ (fun u => ?_) (fun u => ?_)
    (fun u => ?_) (fun u => ?_) fun u => ?_) <;>
    simp only [DSP.PC, DSP.FLAGS, DSP.MOVE_INFLIGHT, DSP.MOVE_ISSUED, DSP.CYCLES, DSP.FAULT, DSP.FAULT_PC, DSP.MOVE_DROPPED,
      DSP.STATE, DSP.WDOG_LEFT, SCR.CE, SCR.EVFLAGS, SCR.UE, SCR.COLLIDE, DSP.STALLS] <;> omega

/-- An engine with a port to the bank of its head move has not lost it. -/
theorem portGone_of_portFor {m : Mv} (lost : m.lost = false) (port : portFor n (bankIn m.elem) 0 s ≠ none) : portGone n m s = false := by
  unfold portGone movePort
  rw [lost, Bool.false_or, Option.isNone_eq_false_iff, Option.isSome_iff_ne_none]
  split
  · split
    · exact Option.some_ne_none _
    · exact port
  · exact port

/-- The one move that has just become pending, its port owned, stays the only one when it is pumped. -/
theorem pumped_one {m : Mv} {u : State} (hm : (u.dspOf n).moves = [m]) (lost : m.lost = false)
    (helem : reg0 (u.dspOf n).a m.areg = m.elem) (port : portFor n (bankIn m.elem) 0 u ≠ none) :
    ∃ m', ((movePump n u).dspOf n).moves = [m'] ∧ MvLike m m' := by
  have like := movePump_ml n u fun m' r h' => by
    obtain ⟨rfl, -⟩ := List.cons.inj (hm.symm.trans h')
    rw [helem]
    exact ⟨portGone_of_portFor lost port, portGone_of_portFor lost port⟩
  rwa [hm] at like

/-- The move that instruction w of engine n makes pending, its element that of its address register. -/
def moveOf (w : Nat) (ecc : List Ecc) (d : DspRun) : Mv :=
  { k := Dict.bitsOf w 58 56, out := w.testBit 59, areg := Dict.bitsOf w 55 53, elem := reg0 d.a (Dict.bitsOf w 55 53),
    len := w % 256 + 1, ecc := ecc }

/-- The move has joined those that are pending. -/
def withMove (n w : Nat) (ecc : List Ecc) (s : State) : State :=
  s.modDsp n fun d => { d with moves := d.moves ++ [moveOf w ecc (s.dspOf n)] }

/-- The action of MOVE: its port missing, a fault; else it is pending, and begins if it is the only one. -/
def moveAct (n : Nat) (ecc : List Ecc) (w pc t : Nat) (s : State) : State :=
  if (portFor n (bankIn (reg0 (s.dspOf n).a (Dict.bitsOf w 55 53))) 0 s).isNone then dspFault n t 3 pc s
  else retire n t 1 (pc + 1) (if (s.dspOf n).moves.isEmpty then movePump n (withMove n w ecc s) else withMove n w ecc s)

theorem moveInsn_eq : moveInsn n ecc s = insnCommand n 0x70 (moveAct n ecc) s := rfl

theorem exec_move : exec (.move ⟨n, ecc⟩) s = moveInsn n ecc s := rfl

/-- A move is never repeated: RPT before it faults. -/
theorem rpt_of_move (h : DspIssues n 0x70 w s) : (s.dspOf n).rpt = none := by
  obtain ⟨-, -, -, -, -, -, -, -, -, -, rpt, hid, -⟩ := h
  have hclass : Dict.bitsOf w 63 60 = 7 := by
    have h4 : Dict.bitsOf w 59 58 < 4 := Nat.mod_lt _ (by decide)
    have h16 : Dict.bitsOf w 59 56 < 16 := Nat.mod_lt _ (by decide)
    unfold insnId at hid
    dsimp only at hid
    split at hid <;> omega
  rw [hclass] at rpt
  simpa using rpt

theorem bankIn_lt (a : Nat) : bankIn a < 64 := Nat.mod_lt _ (by decide)

theorem portFor_dspAt {b : Nat} (hb : b < 64) (i : Nat) : portFor n b i (dspAt n s) = portFor n b i s := by
  have owner (k : Nat) (hk : k < 2) : (dspAt n s).rd (SCR.OWNER b k) = s.rd (SCR.OWNER b k) := by
    refine at_rd ?_
    rintro (e | e | e | ⟨u, e⟩ | ⟨u, e⟩) <;>
      simp only [SCR.OWNER, DSP.PC, DSP.STALLS, DBG.EVFLAGS, DBG.BRK_HITS, DBG.BRK_STATE] at e <;> omega
  exact portFor_eq (owner 0 (by omega)) (owner 1 (by omega))

/-- MOVE makes its move pending, the first of an engine begins at once. -/
theorem move_gives (h : DspIssues n 0x70 w s) (port : portFor n (bankIn (reg0 (s.dspOf n).a (Dict.bitsOf w 55 53))) 0 s ≠ none) :
    Gives (.move ⟨n, ecc⟩) s fun t => DspIssued n ((s.dspOf n).pc + 1) s t ∧ ∃ m, (t.dspOf n).moves = (s.dspOf n).moves ++ [m] ∧
      m.k = Dict.bitsOf w 58 56 ∧ m.out = w.testBit 59 ∧ m.areg = Dict.bitsOf w 55 53 ∧ m.len = w % 256 + 1 := by
  have once := rpt_of_move h
  have port' : portFor n (bankIn (reg0 ((dspAt n s).dspOf n).a (Dict.bitsOf w 55 53))) 0 (dspAt n s) ≠ none := by
    rw [portFor_dspAt (bankIn_lt _), at_a]; exact port
  refine gives_of h (exec_move.trans moveInsn_eq) ?_
  unfold moveAct
  rw [if_neg (by rw [Option.isNone_iff_eq_none]; exact port')]
  generalize hu : withMove n w ecc (dspAt n s) = u
  have hd : u.dspOf n = { (dspAt n s).dspOf n with moves := (s.dspOf n).moves ++ [moveOf w ecc ((dspAt n s).dspOf n)] } := by
    rw [← hu, withMove, dspOf_modDsp, at_moves]
  have hpc : (u.dspOf n).pc = (s.dspOf n).pc := by rw [hd]; exact at_pc n s
  have hrpt : (u.dspOf n).rpt = none := by rw [hd]; exact (at_rpt n s).trans once
  have hreg : u.rd (DSP.PC n) = (s.dspOf n).pc := by rw [← hu]; exact at_pcreg n s
  split
  next first =>
    rw [at_moves, List.isEmpty_iff] at first
    have ha : (u.dspOf n).a = ((dspAt n s).dspOf n).a := by rw [hd]
    have hport : portFor n (bankIn (moveOf w ecc ((dspAt n s).dspOf n)).elem) 0 u ≠ none := by
      rw [← hu]; exact port'
    obtain ⟨m', hm, hk, hout, hareg, hlen⟩ := pumped_one (by rw [hd, first]; rfl) rfl (by rw [ha]; rfl) hport
    have pumpedPc : ((movePump n u).dspOf n).pc = (u.dspOf n).pc := congrArg (·.2.2.2.2.2.2) (pump_g n u)
    refine ⟨issued (pcreg_movePump.trans hreg) (pumpedPc.trans hpc) ((rpt_movePump hrpt).trans once.symm), m', ?_, hk, hout, hareg, hlen⟩
    rw [moves_retire, hm, first]
    rfl
  · refine ⟨issued hreg hpc (hrpt.trans once.symm), moveOf w ecc ((dspAt n s).dspOf n), ?_, rfl, rfl, rfl, rfl⟩
    rw [moves_retire, hd]

theorem now_moveSend (k : Nat) (r : MeshReq) : (moveSend k r s).now = s.now := by
  unfold moveSend meshSend
  repeat' split
  all_goals rfl

theorem inflight_moveSend (r : MeshReq) (few : s.rd (DSP.MOVE_INFLIGHT n) < 16) :
    (moveSend n r s).rd (DSP.MOVE_INFLIGHT n) = s.rd (DSP.MOVE_INFLIGHT n) + 1 := by
  unfold moveSend
  rw [CompleteFcp.meshSend_rd, bump_eq, bump_ne (by simp)]
  omega

/-- The head move polls its gate at instant now. -/
def polled (n : Nat) (s : State) : State := modHead n (fun m => { m with polling := true, polled := some s.now }) s

/-- The instant of the next poll of move m has come. -/
def polledFrom (m : Mv) (s : State) : State := match m.polled with | some t => s.upto (t + ticksPerUs) | none => s

theorem execMoveGatePoll_of_polls {m : Mv} {rest : List Mv} (hn : n < 32) (hm : (s.dspOf n).moves = m :: rest)
    (polls : m.out = false ∧ s.rd (DSP.MGATE n m.k) ≠ 0 ∧ m.open' = false ∧ m.polling = false ∧ s.rd (DSP.MOVE_INFLIGHT n) < 16) :
    ∃ u r, execMoveGatePoll n s = .next (moveSend n r (polled n u)) ∧ u.dspOf n = s.dspOf n ∧ ∀ k, u.rd k = s.rd k := by
  have he : execMoveGatePoll n s = .next (moveSend n ⟨.read, .dspMove n 8, dspNode n, 3, (polledFrom m s).rd (DSP.MGATE n m.k), 8, 0⟩
      (polled n (polledFrom m s))) := by
    unfold execMoveGatePoll
    rw [unitNext hn, hm]
    dsimp only
    rw [if_pos polls]
    rfl
  refine ⟨_, _, he, ?_, fun k => ?_⟩ <;> (unfold polledFrom; split <;> rfl)

/-- The gate of the head move is read: the poll is marked with its instant. -/
theorem gatePoll_gives {m : Mv} {rest : List Mv} (hn : n < 32) (hm : (s.dspOf n).moves = m :: rest)
    (polls : m.out = false ∧ s.rd (DSP.MGATE n m.k) ≠ 0 ∧ m.open' = false ∧ m.polling = false ∧ s.rd (DSP.MOVE_INFLIGHT n) < 16) :
    Gives (.moveGatePoll n) s fun t => (∃ m', (t.dspOf n).moves = m' :: rest ∧ m'.polling = true ∧ m'.polled = some t.now) ∧
      t.rd (DSP.MOVE_INFLIGHT n) = s.rd (DSP.MOVE_INFLIGHT n) + 1 := by
  obtain ⟨u, r, next, hdsp, hrd⟩ := execMoveGatePoll_of_polls hn hm polls
  have hfew : (polled n u).rd (DSP.MOVE_INFLIGHT n) = s.rd (DSP.MOVE_INFLIGHT n) := hrd _
  refine ⟨_, next, ⟨{ m with polling := true, polled := some u.now }, ?_, rfl, ?_⟩, ?_⟩
  · rw [moveSend_dsp, polled, modHead, dspOf_modDsp, hdsp, hm]
  · rw [now_moveSend]; rfl
  · rw [inflight_moveSend r (hfew ▸ polls.2.2.2.2), hfew]

theorem mcount_movePump {k : Nat} (hk : k < 16) : (movePump n s).rd (DSP.MCOUNT n k) = s.rd (DSP.MCOUNT n k) := by
  refine frq (k := DSP.MCOUNT n k) (movePump_fr n s (fr_refl s) ?_ (fun u => ?_) (fun u => ?_) ?_ ?_ ?_ ?_ ?_ ?_ (fun u => ?_)
    (fun u => ?_) (fun u => ?_) (fun u => ?_) fun u => ?_) <;>
    simp only [DSP.MCOUNT, DSP.FLAGS, DSP.MOVE_INFLIGHT, DSP.MOVE_ISSUED, DSP.CYCLES, DSP.FAULT, DSP.FAULT_PC, DSP.MOVE_DROPPED,
      DSP.STATE, DSP.WDOG_LEFT, SCR.CE, SCR.EVFLAGS, SCR.UE, SCR.COLLIDE, DSP.STALLS] <;> omega

/-- The registers of the engine after a pump of its moves. -/
theorem a_movePump : ((movePump n s).dspOf n).a = (s.dspOf n).a := congrArg (·.2.2.1) (pump_g n s)

theorem moves_movePump_of_nil (h : (s.dspOf n).moves = []) : ((movePump n s).dspOf n).moves = [] := by
  unfold movePump
  rw [h, dspOf_setBit, h]

/-- The head move that ends leaves the list, adds to its count and moves its address register. -/
def moveEnded (n : Nat) (m : Mv) (rest : List Mv) (s : State) : State :=
  (s.wr (DSP.MCOUNT n m.k) (min (s.rd (DSP.MCOUNT n m.k) + 8 * m.len) (2 ^ 64 - 1))).modDsp n fun d =>
    { d with moves := rest, freeAt := s.now, a := setReg d.a m.areg (postModify 2 (reg0 d.a m.areg) (2 * m.len)) }

/-- The note of move m is posted with the count c, if it has an address (R381). -/
def noted (n : Nat) (m : Mv) (c : Nat) (s : State) : State :=
  if s.rd (DSP.MNOTE n m.k) = 0 then s else moveSend n ⟨.write, .dspNote n m.k, dspNode n, 3, s.rd (DSP.MNOTE n m.k), 8, c⟩ s

theorem dspOf_noted (m : Mv) (c : Nat) : (noted n m c s).dspOf n = s.dspOf n := by
  unfold noted
  split
  · rfl
  · exact moveSend_dsp ..

theorem mcount_noted (m : Mv) (c k : Nat) (hk : k < 16) : (noted n m c s).rd (DSP.MCOUNT n k) = s.rd (DSP.MCOUNT n k) := by
  unfold noted
  split
  · rfl
  · exact frq (moveSend_fr n _ s (fr_refl s) (by simp only [DSP.MOVE_INFLIGHT, DSP.MCOUNT]; omega)
      (by simp only [DSP.MOVE_ISSUED, DSP.MCOUNT]; omega))

theorem execMoveComplete_of_ends {m : Mv} {rest : List Mv} (hn : n < 32) (hm : (s.dspOf n).moves = m :: rest)
    (ends : m.issued = 8 * m.len ∧ m.wait = [] ∧ m.lost = false) : execMoveComplete n s =
      .next (movePump n (noted n m (min (s.rd (DSP.MCOUNT n m.k) + 8 * m.len) (2 ^ 64 - 1)) (moveEnded n m rest s))) := by
  unfold execMoveComplete
  rw [unitNext hn, hm]
  dsimp only
  rw [if_pos ends]
  rfl

theorem moveComplete_gives {m : Mv} {rest : List Mv} (hn : n < 32) (hm : (s.dspOf n).moves = m :: rest)
    (ends : m.issued = 8 * m.len ∧ m.wait = [] ∧ m.lost = false) (hk : m.k < 16) :
    Gives (.moveComplete n) s fun t => (rest = [] → (t.dspOf n).moves = []) ∧
      t.rd (DSP.MCOUNT n m.k) = min (s.rd (DSP.MCOUNT n m.k) + 8 * m.len) (2 ^ 64 - 1) ∧
      reg0 (t.dspOf n).a m.areg = postModify 2 (reg0 (s.dspOf n).a m.areg) (2 * m.len) := by
  refine ⟨_, execMoveComplete_of_ends hn hm ends, fun last => ?_, ?_, ?_⟩
  · refine moves_movePump_of_nil ?_
    rw [dspOf_noted, moveEnded, dspOf_modDsp]
    exact last
  · rw [mcount_movePump hk, mcount_noted _ _ _ hk, moveEnded, rd_modDsp, rd_wr_same]
  · rw [a_movePump, dspOf_noted, moveEnded, dspOf_modDsp]
    exact setReg_same _ _ _

/-- Settles O30: the slots' effect is that of `runSlots`, and a pump of the moves keeps the move that is pending, its count and
the registers. -/
theorem dspMemoryAndMovesComplete : Obligations.DspMemoryAndMovesComplete :=
  ⟨fun n _ ecc s owned sound =>
    ⟨fun h => mac_of (f := fun _ p => p) h (show execMpy n ecc s = _ from rfl) owned sound,
      fun h => mac_of (f := fun a p => a + p) h (show execMac n ecc s = _ from rfl) owned sound,
      fun h => mac_of (f := fun a p => a - p) h (show execMsu n ecc s = _ from rfl) owned sound,
      fun h => mem_gives h owned sound⟩,
    fun _ _ _ _ => ⟨move_gives,
      fun _ _ hn hm inward gate shut idle few => gatePoll_gives hn hm ⟨inward, gate, shut, idle, few⟩,
      fun _ _ hn hm issued answered kept hk => moveComplete_gives hn hm ⟨issued, answered, kept⟩ hk⟩⟩

end Sys2Proof.Proofs.DspMove
end

section
/-! Runs of a DSP engine: the commands of DSP.CTRL and the events of a run (14_dsp.md R380, R384, R385, R388). -/
namespace Sys2Proof.Proofs.DspRuns
open Sys2Proof.Machine Sys2Proof.Laws Common CompleteDsp

variable {n : Nat} {s : State}

theorem inState {l : List Nat} {c : Nat} (st : s.rd (DSP.STATE n) = c) (h : c ∈ l) : ∀ c ∈ [dspNotIn l n s], c.1 = false :=
  List.forall_mem_singleton.2 (inD (st ▸ h))

theorem dspStartEff_facts : (dspStartEff n s).rd (DSP.STATE n) = 1 ∧ ((dspStartEff n s).dspOf n).prior = s.rd (DSP.STATE n) ∧
    ((dspStartEff n s).dspOf n).armAt = s.now := by
  unfold dspStartEff
  rw [rd_wr_same, dspOf_wr, dspOf_modDsp]
  exact ⟨rfl, rfl, rfl⟩

theorem dspStartAtEff_facts : (dspStartAtEff n s).rd (DSP.STATE n) = 1 ∧
    (dspStartAtEff n s).sched = s.sched ++ [⟨true, n, ofTime128 (s.rd (DSP.START_AT n))⟩] := by
  refine ⟨dspStartEff_facts.1, ?_⟩
  show s.sched ++ [(⟨true, n, ofTime128 (((dspStartEff n s).modDsp n _).rd (DSP.START_AT n))⟩ : Sched)] = _
  rw [rd_modDsp, dspStartEff, rd_wr_other _ (by simp), rd_modDsp]

theorem dspStopEff_of_armed (h : s.rd (DSP.STATE n) = 1) : (dspStopEff n s).rd (DSP.STATE n) = (s.dspOf n).prior := by
  unfold dspStopEff
  rw [if_pos h, rd_wr_same]

theorem dspStopEff_of_run (h : s.rd (DSP.STATE n) ≠ 1) : dspStopEff n s = s.modDsp n fun d => { d with stop := earlier d.stop s.now } :=
  if_neg h

theorem dspResumeEff_facts : (dspResumeEff n s).rd (DSP.STATE n) = 2 ∧ ((dspResumeEff n s).dspOf n).wdEnd =
    if s.rd (DSP.WDOG n) = 0 then none else some (dspEdge s.now + max (s.rd (DSP.WDOG_LEFT n)) 65536 * dspClk) := by
  unfold dspResumeEff dspGoOn
  rw [rd_modTgt, rd_modDsp, rd_wr_same, dspOf_modTgt, dspOf_modDsp]
  exact ⟨rfl, rfl⟩

theorem dspSelfcheckEff_facts : (dspSelfcheckEff n s).rd (DSP.STATE n) = 6 ∧ ((dspSelfcheckEff n s).dspOf n).prior = s.rd (DSP.STATE n) := by
  unfold dspSelfcheckEff
  rw [rd_wr_same, dspOf_wr, dspOf_modDsp]
  exact ⟨rfl, rfl⟩

theorem commands_complete (q : Req) (hn : n < 32) :
    (Writes q (DSP.CTRL n) 1 1 s → (∀ c ∈ dspStartConds n s, c.1 = false) →
      Gives (.dspStart q n) s fun t => Answered q 0 t ∧ t.rd (DSP.STATE n) = 1 ∧ (t.dspOf n).prior = s.rd (DSP.STATE n) ∧
        (t.dspOf n).armAt = s.now) ∧
    (Writes q (DSP.CTRL n) 1 2 s → (∀ c ∈ dspStartAtConds n s, c.1 = false) →
      Gives (.dspStartAt q n) s fun t => Answered q 0 t ∧ t.rd (DSP.STATE n) = 1 ∧
        t.sched = s.sched ++ [⟨true, n, ofTime128 (s.rd (DSP.START_AT n))⟩]) ∧
    (Writes q (DSP.CTRL n) 1 3 s → s.rd (DSP.STATE n) = 1 →
      Gives (.dspStop q n) s fun t => Answered q 0 t ∧ t.rd (DSP.STATE n) = (s.dspOf n).prior) ∧
    (Writes q (DSP.CTRL n) 1 3 s → s.rd (DSP.STATE n) = 2 ∨ s.rd (DSP.STATE n) = 3 →
      Gives (.dspStop q n) s fun t => Answered q 0 t ∧ (t.dspOf n).stop = earlier (s.dspOf n).stop s.now) ∧
    (Writes q (DSP.CTRL n) 1 4 s → s.rd (DSP.STATE n) = 2 →
      Gives (.dspHalt q n) s fun t => Answered q 0 t ∧ (t.dspOf n).halt = earlier (s.dspOf n).halt s.now) ∧
    (Writes q (DSP.CTRL n) 1 5 s → s.rd (DSP.STATE n) = 3 →
      Gives (.dspResume q n) s fun t => Answered q 0 t ∧ t.rd (DSP.STATE n) = 2 ∧ (t.dspOf n).wdEnd =
        if s.rd (DSP.WDOG n) = 0 then none else some (dspEdge s.now + max (s.rd (DSP.WDOG_LEFT n)) 65536 * dspClk)) ∧
    (Writes q (DSP.CTRL n) 1 6 s → s.rd (DSP.STATE n) = 0 ∨ s.rd (DSP.STATE n) = 4 ∨ s.rd (DSP.STATE n) = 5 →
      Gives (.dspSelfcheck q n) s fun t => Answered q 0 t ∧ t.rd (DSP.STATE n) = 6 ∧ (t.dspOf n).prior = s.rd (DSP.STATE n)) := by
  refine ⟨fun h hc => ?_, fun h hc => ?_, fun h st => ?_, fun h st => ?_, fun h st => ?_, fun h st => ?_, fun h st => ?_⟩
  · refine givesCmd rfl hn h hc fun t like => ?_
    rw [like_st like, like_dsp like]
    exact dspStartEff_facts
  · refine givesCmd rfl hn h hc fun t like => ?_
    rw [like_st like, like.sched]
    exact dspStartAtEff_facts
  · refine givesCmd rfl hn h (inState st (by decide)) fun t like => ?_
    rw [like_st like]
    exact dspStopEff_of_armed st
  · refine givesCmd rfl hn h (st.elim (inState · (by decide)) (inState · (by decide))) fun t like => ?_
    rw [like_dsp like, dspStopEff_of_run (by omega), dspOf_modDsp]
  · refine givesCmd rfl hn h (inState st (by decide)) fun t like => ?_
    rw [like_dsp like, dspHaltEff, dspOf_modDsp]
  · refine givesCmd rfl hn h (inState st (by decide)) fun t like => ?_
    rw [like_st like, like_dsp like]
    exact dspResumeEff_facts
  · refine givesCmd rfl hn h (inState rfl (by simpa using st)) fun t like => ?_
    rw [like_st like, like_dsp like]
    exact dspSelfcheckEff_facts

/-! Events. -/

/-- The members of an engine whose run begins at edge e (R384, R385). -/
def cleared (n e : Nat) (s : State) : State :=
  ((((((s.upto e).wr (DSP.FLAGS n) 0).wr (DSP.CYCLES n) 0).wr (DSP.RPT_LEFT n) 0).wr (DSP.EXPACC n) 0).wr (DSP.BEXP n) 23).wr
    (DSP.WDOG_LEFT n) ((s.upto e).rd (DSP.WDOG n))
/-- The engine whose members have been cleared runs from edge e (R384, R385). -/
def started (n e : Nat) (s : State) : State :=
  (s.modDsp n fun d =>
    { d with bsh := 0, c := [], pc := s.rd (DSP.ENTRY n), due := dspEdge (e + 20 * ticksPerNs), rpt := none, moveBad := false, moveUe := false,
             runFrom := dspEdge e, start := none, timed := false, halt := none, stop := none,
             wdEnd := if s.rd (DSP.WDOG n) = 0 then none else some (dspEdge e + s.rd (DSP.WDOG n) * dspClk) }).wr (DSP.STATE n) 2

theorem rd_cleared {k : Nat} (e : Nat) (h : k ∉ [DSP.FLAGS n, DSP.CYCLES n, DSP.RPT_LEFT n, DSP.EXPACC n, DSP.BEXP n, DSP.WDOG_LEFT n]) :
    (cleared n e s).rd k = s.rd k := by
  simp only [List.mem_cons, List.not_mem_nil, not_or] at h
  obtain ⟨h1, h2, h3, h4, h5, h6, -⟩ := h
  unfold cleared
  rw [rd_wr_other _ h6, rd_wr_other _ h5, rd_wr_other _ h4, rd_wr_other _ h3, rd_wr_other _ h2, rd_wr_other _ h1]
  rfl

theorem cleared_facts (e : Nat) : (cleared n e s).rd (DSP.FLAGS n) = 0 ∧ (cleared n e s).rd (DSP.CYCLES n) = 0 ∧
    (cleared n e s).rd (DSP.EXPACC n) = 0 ∧ (cleared n e s).rd (DSP.BEXP n) = 23 := by
  unfold cleared
  refine ⟨?_, ?_, ?_, ?_⟩
  · rw [rd_wr_other _ (by simp), rd_wr_other _ (by simp), rd_wr_other _ (by simp), rd_wr_other _ (by simp), rd_wr_other _ (by simp),
      rd_wr_same]
  · rw [rd_wr_other _ (by simp), rd_wr_other _ (by simp), rd_wr_other _ (by simp), rd_wr_other _ (by simp), rd_wr_same]
  · rw [rd_wr_other _ (by simp), rd_wr_other _ (by simp), rd_wr_same]
  · rw [rd_wr_other _ (by simp), rd_wr_same]

theorem started_facts (e : Nat) : (started n e s).rd (DSP.STATE n) = 2 ∧ ((started n e s).dspOf n).pc = s.rd (DSP.ENTRY n) ∧
    ((started n e s).dspOf n).due = dspEdge (e + 20 * ticksPerNs) ∧ ∀ k, k ≠ DSP.STATE n → (started n e s).rd k = s.rd k := by
  refine ⟨rd_wr_same .., ?_, ?_, fun k h => ?_⟩
  · rw [started, dspOf_wr, dspOf_modDsp]
  · rw [started, dspOf_wr, dspOf_modDsp]
  · rw [started, rd_wr_other _ h, rd_modDsp]

/-- The edge at which an ARMED engine starts. -/
def startEdge (n : Nat) (s : State) : Nat :=
  if (s.dspOf n).timed then (s.dspOf n).start.getD 0 else engEdge ((s.dspOf n).armAt + ticksPerUs)

theorem execDspStartEdge_of_armed (hn : n < 32) (st : s.rd (DSP.STATE n) = 1)
    (ready : (s.dspOf n).timed = false ∨ (s.dspOf n).start.isSome = true) : execDspStartEdge n s =
      .next ((started n (startEdge n s) (cleared n (startEdge n s) s)).raise (257 + 2 * n)) := by
  unfold execDspStartEdge
  rw [unitNext hn]
  dsimp only
  rw [if_pos ⟨st, ready⟩]
  rfl

theorem startEdge_gives (hn : n < 32) (st : s.rd (DSP.STATE n) = 1)
    (ready : (s.dspOf n).timed = false ∨ (s.dspOf n).start.isSome = true) :
    Gives (.dspStartEdge n) s fun t => t.rd (DSP.STATE n) = 2 ∧ (t.dspOf n).pc = s.rd (DSP.ENTRY n) ∧
      (t.dspOf n).due = dspEdge (startEdge n s + 20 * ticksPerNs) ∧
      t.rd (DSP.FLAGS n) = 0 ∧ t.rd (DSP.CYCLES n) = 0 ∧ t.rd (DSP.EXPACC n) = 0 ∧ t.rd (DSP.BEXP n) = 23 := by
  obtain ⟨run, pc, due, other⟩ := started_facts (n := n) (s := cleared n (startEdge n s) s) (startEdge n s)
  obtain ⟨flags, cycles, expacc, bexp⟩ := cleared_facts (n := n) (s := s) (startEdge n s)
  refine ⟨_, execDspStartEdge_of_armed hn st ready, ?_⟩
  simp only [rd_raise, dspOf_raise]
  refine ⟨run, pc.trans (rd_cleared _ (by simp)), due, ?_, ?_, ?_, ?_⟩
  · rw [other _ (by simp), flags]
  · rw [other _ (by simp), cycles]
  · rw [other _ (by simp), expacc]
  · rw [other _ (by simp), bexp]

/-- The edge at which a request of instant th takes effect. -/
def landEdge (n th : Nat) (s : State) : Nat := dspEdge (max (s.dspOf n).due th)

/-- A boundary that no fault falls on: the HALT that comes before any STOP takes effect. -/
theorem dspLand_halts {th : Nat} (hn : n < 32) (bad : (s.dspOf n).moveBad = false) (ue : (s.dspOf n).moveUe = false)
    (wd : ∀ e, (s.dspOf n).wdEnd = some e → landEdge n th s < e) (stop : ∀ e, (s.dspOf n).stop = some e → landEdge n th s < e) :
    (dspLand n th true s).rd (DSP.STATE n) = 3 ∧ ((dspLand n th true s).dspOf n).pc = (s.dspOf n).pc := by
  unfold dspLand
  extract_lets d t u dbg v w
  have hstop (e : Nat) (he : d.stop = some e) : Nat.ble e t = false := nble (stop e he)
  rw [if_neg (by simp [d, ue]), if_neg (by simp [d, bad]), if_neg, if_pos]
  rotate_left
  · split
    · rw [hstop _ ‹_›]; rfl
    · rfl
  · split
    · exact ne_true_of_eq_false (nble (wd _ ‹_›))
    · exact Bool.false_ne_true
  have hv : v.rd (DSP.STATE n) = 3 ∧ (v.dspOf n).pc = (s.dspOf n).pc := by
    refine ⟨rd_wr_same .., ?_⟩
    rw [show v = State.modDsp _ n _ from rfl, dspOf_modDsp, dspOf_wr]
    exact freeze_pc ..
  split
  · rw [rd_flag_other _ (by simp only [DSP.STATE, DBG.EVFLAGS]; omega), rd_modTgt, rd_raise, dspOf_flag, dspOf_modTgt, dspOf_raise]
    exact hv
  · rw [rd_raise, dspOf_raise]
    exact hv

theorem dspLand_stops {th : Nat} (bad : (s.dspOf n).moveBad = false) (ue : (s.dspOf n).moveUe = false)
    (wd : ∀ e, (s.dspOf n).wdEnd = some e → landEdge n th s < e) : (dspLand n th false s).rd (DSP.STATE n) = 4 := by
  unfold dspLand
  extract_lets d t u dbg v w
  rw [if_neg (by simp [d, ue]), if_neg (by simp [d, bad]), if_neg, if_neg (by simp)]
  · exact stop_state ..
  · split
    · exact ne_true_of_eq_false (nble (wd _ ‹_›))
    · exact Bool.false_ne_true

/-- A request of instant th finds the engine RUNNING at its boundary. -/
theorem haltLands_gives {th : Nat} (hn : n < 32) (st : s.rd (DSP.STATE n) = 2) (halt : (s.dspOf n).halt = some th)
    (lands : landsNow n (some th) s = true) : execDspHaltLands n s = .next (dspLand n th true s) := by
  unfold execDspHaltLands
  rw [unitNext hn, halt, if_pos ⟨st, lands⟩]
  rfl

theorem stopLands_of_running {th : Nat} (hn : n < 32) (st : s.rd (DSP.STATE n) = 2) (stop : (s.dspOf n).stop = some th)
    (lands : landsNow n (some th) s = true) : execDspStopLands n s = .next (dspLand n th false s) := by
  unfold execDspStopLands
  rw [unitNext hn, stop, if_neg (by omega), if_pos ⟨st, lands⟩]
  rfl

theorem stopLands_of_halted (hn : n < 32) (st : s.rd (DSP.STATE n) = 3) (stop : (s.dspOf n).stop ≠ none) :
    execDspStopLands n s = .next (dspStopAt n s.now 4 s) := by
  unfold execDspStopLands
  rw [unitNext hn, if_pos ⟨st, Option.isSome_iff_ne_none.2 stop⟩]

theorem watchdogExpiry_gives (hn : n < 32) (lands : landsNow n (s.dspOf n).wdEnd s = true) (st : s.rd (DSP.STATE n) = 2) :
    Gives (.dspWatchdogExpiry n) s fun t => t.rd (DSP.STATE n) = 5 ∧ t.rd (DSP.FAULT n) = 5 ∧ t.rd (DSP.FAULT_PC n) = (s.dspOf n).pc := by
  refine ⟨_, unitNext hn, ?_⟩
  rw [if_pos ⟨st, lands⟩]
  exact fault_facts ..

/-- The self-check of an engine ends with its result. -/
def checked (n : Nat) (pass : Bool) (s : State) : State :=
  ((s.wr (DSP.STATE n) (s.dspOf n).prior).wr (DSP.SELFCHECK n) (if pass then 1 else 2)).modDsp n fun d =>
    { d with v := [], acc := [], stop := none }

theorem selfcheckEnd_gives (hn : n < 32) (pass : Bool) (st : s.rd (DSP.STATE n) = 6) :
    Gives (.dspSelfcheckEnd n pass) s fun t => t.rd (DSP.STATE n) = (s.dspOf n).prior ∧
      t.rd (DSP.SELFCHECK n) = (if pass then 1 else 2) ∧ (t.dspOf n).v = [] ∧ (t.dspOf n).acc = [] := by
  have he : execDspSelfcheckEnd n pass s = .next ((checked n pass s).raise (257 + 2 * n)) := by
    unfold execDspSelfcheckEnd
    rw [unitNext hn, if_pos st]
    rfl
  refine ⟨_, he, ?_⟩
  dsimp only
  rw [rd_raise, rd_raise, dspOf_raise, checked, rd_modDsp, rd_modDsp, dspOf_modDsp, rd_wr_same, rd_wr_other _ (by simp), rd_wr_same]
  exact ⟨rfl, rfl, rfl, rfl⟩

/-- Settles O31: the commands by their effects, the events by the boundary at which they fall. -/
theorem dspRunsComplete : Obligations.DspRunsComplete := by
  refine ⟨fun q n s hn => commands_complete q hn, fun n s hn => ⟨fun st untimed => ?_, fun e st timed start => ?_,
    fun th st halt lands bad ue wd stop => ⟨_, haltLands_gives hn st halt lands, dspLand_halts hn bad ue wd stop⟩,
    fun th st stop lands bad ue wd => ⟨_, stopLands_of_running hn st stop lands, dspLand_stops bad ue wd⟩,
    fun st stop => ⟨_, stopLands_of_halted hn st stop, stop_state ..⟩,
    watchdogExpiry_gives hn, selfcheckEnd_gives hn⟩⟩
  · have edge : startEdge n s = engEdge ((s.dspOf n).armAt + ticksPerUs) := by simp [startEdge, untimed]
    exact edge ▸ startEdge_gives hn st (.inl untimed)
  · have edge : startEdge n s = e := by simp [startEdge, timed, start]
    obtain ⟨t, next, run, pc, due, -⟩ := startEdge_gives hn st (.inr (by rw [start]; rfl))
    exact ⟨t, next, run, pc, edge ▸ due⟩

end Sys2Proof.Proofs.DspRuns
end

section
/-! The coder of a lane's line: Gray symbols and the precoder (12_lanes.md R322; log entry 51). -/
namespace Sys2Proof.Proofs.LineCoder
open Sys2Proof.Machine Sys2Proof.Laws Common CompleteLnk.LaneFacts

theorem ungray_gray (a b : Bool) : ungray (gray a b) = [a, b] := by
  cases a <;> cases b <;> rfl

theorem gray_lt (a b : Bool) : gray a b < 4 := by
  cases a <;> cases b <;> decide

/-- An even row of bits reads back from its Gray symbols, each below 4. -/
theorem ungray_grayPairs : ∀ bits : List Bool, bits.length % 2 = 0 →
    (grayPairs bits).1.flatMap ungray = bits ∧ ∀ g ∈ (grayPairs bits).1, g < 4
  | [], _ => ⟨rfl, by simp [grayPairs]⟩
  | [_], h => absurd (show 1 % 2 = 0 from h) (by decide)
  | a :: b :: t, h => by
    obtain ⟨back, small⟩ := ungray_grayPairs t (by rw [List.length_cons, List.length_cons] at h; omega)
    exact ⟨by rw [grayPairs, List.flatMap_cons, ungray_gray, back]; rfl,
      by simpa [grayPairs, gray_lt] using small⟩

/-- A precoded symbol and the one before it add up to the Gray symbol. -/
theorem precoded_add {g : Nat} (p : Nat) (hg : g < 4) : ((g + 4 - p % 4) % 4 + p) % 4 = g := by omega

theorem unprecode_precode : ∀ (gs : List Nat) (p : Nat), (∀ g ∈ gs, g < 4) → unprecode p (precode p gs).1 = gs
  | [], _, _ => rfl
  | g :: t, p, h => by
    obtain ⟨hg, ht⟩ := List.forall_mem_cons.1 h
    rw [precode, unprecode, precoded_add p hg, unprecode_precode t _ ht]

/-- Each precoded symbol is the Gray symbol less the one before it. -/
theorem precode_getD : ∀ (gs : List Nat) (p j : Nat), j < gs.length → (precode p gs).1.getD j 0 =
    (gs.getD j 0 + 4 - (if j = 0 then p else (precode p gs).1.getD (j - 1) 0) % 4) % 4
  | [], _, _, h => absurd h (Nat.not_lt_zero _)
  | _ :: _, _, 0, _ => rfl
  | g :: t, p, j + 1, h => by
    have later := precode_getD t ((g + 4 - p % 4) % 4) j (by simpa using h)
    cases j with
    | zero => exact later
    | succ i => exact later

theorem bit_of_toNat (b : Bool) : Nat.beq (b.toNat % 2) 1 = b := by cases b <;> rfl

variable {n : Nat} {s : State}

/-- The bits of a PAM4 line read back, with the precoder and without it. -/
theorem pam4_reads_back {bits : List Bool} (pam : pam4 n s = true) (even : bits.length % 2 = 0) :
    lineReceived n (codeBits true (precodeOn n s) { p := (s.laneOf n).rxP } bits).1 s = bits := by
  obtain ⟨back, small⟩ := ungray_grayPairs bits even
  unfold lineReceived codeBits
  rw [if_pos pam]
  cases precodeOn n s with
  | true =>
    show (unprecode _ (precode _ (grayPairs bits).1).1).flatMap ungray = bits
    rw [unprecode_precode _ _ small, back]
  | false => exact back

theorem nrz_reads_back {pre : Bool} {bits : List Bool} (nrz : pam4 n s = false) :
    lineReceived n (codeBits false pre {} bits).1 s = bits := by
  unfold lineReceived
  rw [if_neg (by simp [nrz])]
  show (bits.map Bool.toNat).map _ = bits
  rw [List.map_map]
  exact (List.map_congr_left fun b _ => bit_of_toNat b).trans (List.map_id bits)

/-- START begins a line, and reception, at symbol 0. -/
theorem laneStartEff_coder (st : laneState n s = 0) : ((laneStartEff n s).laneOf n).line.p = 0 ∧ ((laneStartEff n s).laneOf n).rxP = 0 := by
  unfold laneStartEff
  have out : laneState n (if s.rd (LNK.MODE n) = 0 then (s.wr (LNK.SRX_WR n) 0).wr (LNK.SRX_RD n) 0 else s) ≠ 3 := by
    split
    · unfold laneState
      rw [rd_wr_other _ (by simp), rd_wr_other _ (by simp)]
      exact fun h => by rw [laneState] at st; omega
    · omega
  rw [enter_id out, laneOf_modLane]
  exact ⟨rfl, rfl⟩

theorem start_resets_coder {q : Req} (hn : n < 48) (h : Writes q (LNK.CTRL n) 1 1 s) (hc : ∀ c ∈ laneStartConds n s, c.1 = false) :
    Gives (.laneStart q n) s fun t => (t.laneOf n).line.p = 0 ∧ (t.laneOf n).rxP = 0 := by
  have st : laneState n s = 0 := by simpa using hc _ (List.mem_cons_self ..)
  obtain ⟨t, next, -, coder⟩ := givesCmd (i := .laneStart q n) (P := fun t => (t.laneOf n).line.p = 0 ∧ (t.laneOf n).rxP = 0)
    rfl hn h hc fun t like => by
      rw [lane_of like.lanes]
      exact laneStartEff_coder st
  exact ⟨t, next, coder⟩

/-- Settles O60, by induction over the row of bits and over the row of symbols. -/
theorem lineReadsBack : Obligations.LineReadsBack :=
  ⟨fun _ _ _ _ => ⟨pam4_reads_back, fun nrz => ⟨by simp [precodeOn, nrz], nrz_reads_back nrz⟩, fun _ => start_resets_coder⟩,
    fun p gs j small hj => ⟨precode_getD gs p j hj, by rw [unprecode_precode gs p small]⟩⟩

end Sys2Proof.Proofs.LineCoder
end

section
/-! What a step takes, and what reset leaves. -/
namespace Sys2Proof.Proofs.Reset
open Sys2Proof.Machine Sys2Proof.Laws

/-- Settles O1, by the two forms of the queue. -/
theorem stepRunsFrontCommand : Obligations.StepRunsFrontCommand := by
  refine ⟨fun c rest s h => ?_, fun s h => ?_⟩ <;> unfold step <;> split
  · exact absurd ‹_› (by rw [h]; exact List.cons_ne_nil _ _)
  · obtain ⟨rfl, rfl⟩ := List.cons.inj (h.symm.trans ‹_›)
    rfl
  · rfl
  · exact absurd h (by rw [‹s.pending = _›]; exact List.cons_ne_nil _ _)

/-- Settles O3: the one member that reset lists is not at its default. -/
theorem resetCanonical : Obligations.ResetCanonical := by
  unfold Obligations.ResetCanonical Canon
  decide

/-- A member that reset does not list reads its default. -/
theorem rd_reset {k : Nat} (h : k ≠ CRH.RESET_CAUSE) : State.reset.rd k = Dict.dflt k := by
  exact if_neg h.symm

/-- APG_SEL reads as the number of its pin. -/
theorem dflt_apgSel {n p : Nat} (hn : n < 32) (hp : p < 64) : Dict.dflt (VEN.APG_SEL n p) = p := by
  have object : VEN.APG_SEL n p / 256 = 0x7400 + n := by simp only [VEN.APG_SEL]; omega
  have member : VEN.APG_SEL n p % 256 = p := by simp only [VEN.APG_SEL]; omega
  unfold Dict.dflt
  rw [object, member]
  exact if_pos (by simp [hp]; omega)

theorem dflt_stats : ∀ st < 13, Dict.dflt (HDI.STATS st) = 0 := by decide +kernel
theorem dflt_veState : ∀ n < 32, Dict.dflt (VEN.STATE n) = 0 := by decide +kernel
theorem dflt_dspState : ∀ n < 32, Dict.dflt (DSP.STATE n) = 0 := by decide +kernel
theorem dflt_gate : ∀ u < 0xB2, Dict.dflt (CRH.GATE_STATE u) = 1 := by decide +kernel
theorem dflt_domain : ∀ d < 0x60, Dict.dflt (CRH.PWR_STATE d) = 3 := by decide +kernel

/-- Settles O2: every member but the cause reads its default, and no engine, channel or queue has run. -/
theorem resetLeaves : Obligations.ResetLeaves := by
  refine ⟨rfl, ?_, ?_, ?_, ?_, rfl, fun st h => ?_, rfl, rfl, rfl, rfl, fun n h => ?_, fun n h => ?_, ?_, ?_, ?_, fun u h => ?_,
    fun d h => ?_, fun n p hn hp => ?_, fun c => ⟨rfl, rfl⟩, fun n r => ⟨rfl, rfl⟩, rfl, rfl⟩
  · decide +kernel
  · decide +kernel
  · decide +kernel
  · decide +kernel
  · exact (rd_reset (by simp only [HDI.STATS, CRH.RESET_CAUSE]; omega)).trans (dflt_stats st h)
  · exact (rd_reset (by simp only [VEN.STATE, CRH.RESET_CAUSE]; omega)).trans (dflt_veState n h)
  · exact (rd_reset (by simp only [DSP.STATE, CRH.RESET_CAUSE]; omega)).trans (dflt_dspState n h)
  · decide +kernel
  · decide +kernel
  · decide +kernel
  · exact (rd_reset (by simp only [CRH.GATE_STATE, CRH.RESET_CAUSE]; omega)).trans (dflt_gate u h)
  · exact (rd_reset (by simp only [CRH.PWR_STATE, CRH.RESET_CAUSE]; omega)).trans (dflt_domain d h)
  · exact (rd_reset (by simp only [VEN.APG_SEL, CRH.RESET_CAUSE]; omega)).trans (dflt_apgSel hn hp)

end Sys2Proof.Proofs.Reset
end

section
/-! The words of a vector engine's program and the pins of its cycles (03_vector_engines.md R85 to R97; 06_edge_channels.md R172 to
R180). -/
namespace Sys2Proof.Proofs.VeWord
open Sys2Proof.Machine Sys2Proof.Laws Common CompleteVe CompletePins

variable {n w a opc : Nat} {fresh : Bool} {smp : Samples} {s : State}

/-- What a word finds once its cycle has begun: the counters, the stack and the repetitions as they stood. -/
structure Begun (n w a opc : Nat) (fresh : Bool) (s y : State) : Prop where
  issued : VeIssued n a s y
  ctr : ∀ k < 16, y.rd (VEN.CTR n k) = s.rd (VEN.CTR n k)
  events : y.rd (VEN.EVENTS n) = s.rd (VEN.EVENTS n)
  stack : (y.veOf n).stack = (s.veOf n).stack
  rptLeft : (y.veOf n).rptLeft = (s.veOf n).rptLeft
  clrf : opc = 8 → fresh = true → y.bit (VEN.FLAGS n) 1 = false

/-- A word command gives what its opcode makes of the state in which the cycle has begun. -/
theorem gives_word {i : Instr} {act : Nat → Nat → Nat → Bool → State → State} {P : State → Prop} (h : VeDecides n w a fresh s)
    (ho : wOpc w = opc) (he : exec i s = wordCommand n opc smp act s)
    (hp : ∀ y, Begun n w a opc fresh s y → P (act w a (veBoundary n s) fresh y)) : Gives i s P := by
  obtain ⟨y, next, issued, ctr, events, stack, rptLeft, clrf⟩ := word_facts (smp := smp) h opc ho
  exact ⟨_, he.trans (next act), hp y ⟨issued, ctr, events, stack, rptLeft, clrf⟩⟩

/-- A change of the engine's own run leaves the cycle issued. -/
theorem issued_modVe {y : State} {f : VeRun → VeRun} (h : VeIssued n a s y) : VeIssued n a s (y.modVe n f) := h

theorem vec_gives (h : VeDecides n w a fresh s) (ho : wOpc w = 0) : Gives (.vec n smp) s (VeIssued n a s) :=
  gives_word h ho (show execVec n smp s = _ from rfl) fun _ begun => begun.issued

theorem rpt_gives (h : VeDecides n w a fresh s) (ho : wOpc w = 1) : Gives (.rpt n smp) s fun t => VeIssued n a s t ∧
    (t.veOf n).rptLeft = if fresh then (if wOperand w = 0 then 2 ^ 32 else wOperand w) - 1 else (s.veOf n).rptLeft - 1 := by
  refine gives_word h ho (show execRpt n smp s = _ from rfl) fun y begun => ⟨begun.issued, ?_⟩
  rw [veOf_modVe, ← begun.rptLeft]

theorem ldc_gives (h : VeDecides n w a fresh s) (ho : wOpc w = 2) : Gives (.veLdc n smp) s fun t => VeIssued n a s t ∧
    t.rd (VEN.CTR n (wSel w)) = wOperand w := by
  refine gives_word h ho (show execVeLdc n smp s = _ from rfl) fun y begun => ⟨issued_of begun.issued ?_ ?_, rd_wr_same ..⟩ <;>
    exact rd_wr_other _ (by have := wSel_lt w; simp only [VEN.CTR, VEN.PC, VEN.CYCLES]; omega) _

/-- Loop counter k takes the value v, and the program goes on by it. -/
def looped (n k d v : Nat) (y : State) : State := setAfter n (if v = 0 then .seq else .goto d) (y.wr (VEN.CTR n k) v)

theorem execLoop_eq : execLoop n smp s = wordCommand n 3 smp (fun w _ _ _ y =>
    looped n (wSel w) (wOperand w) ((y.rd (VEN.CTR n (wSel w)) + (2 ^ 32 - 1)) % 2 ^ 32) y) s := rfl

theorem looped_facts {k d v : Nat} {y : State} (hk : k < 16) (h : VeIssued n a s y) : VeIssued n a s (looped n k d v y) ∧
    (looped n k d v y).rd (VEN.CTR n k) = v ∧
    ((looped n k d v y).veOf n).after = if (looped n k d v y).rd (VEN.CTR n k) = 0 then .seq else .goto d := by
  have ctr : (looped n k d v y).rd (VEN.CTR n k) = v := rd_wr_same ..
  refine ⟨issued_of h ?_ ?_, ctr, ?_⟩
  · exact rd_wr_other _ (by simp only [VEN.CTR, VEN.PC]; omega) _
  · exact rd_wr_other _ (by simp only [VEN.CTR, VEN.CYCLES]; omega) _
  · rw [ctr, looped, setAfter, veOf_modVe]

theorem loop_gives (h : VeDecides n w a fresh s) (ho : wOpc w = 3) : Gives (.loop n smp) s fun t => VeIssued n a s t ∧
    t.rd (VEN.CTR n (wSel w)) = (s.rd (VEN.CTR n (wSel w)) + (2 ^ 32 - 1)) % 2 ^ 32 ∧
    (t.veOf n).after = if t.rd (VEN.CTR n (wSel w)) = 0 then .seq else .goto (wOperand w) := by
  refine gives_word h ho (show execLoop n smp s = _ from execLoop_eq) fun y begun => ?_
  rw [begun.ctr _ (wSel_lt w)]
  exact looped_facts (wSel_lt w) begun.issued

theorem after_setAfter (x : After) : ((setAfter n x s).veOf n).after = x := by rw [setAfter, veOf_modVe]

theorem jmp_gives (h : VeDecides n w a fresh s) (ho : wOpc w = 4) : Gives (.veJmp n smp) s fun t => VeIssued n a s t ∧
    (t.veOf n).after = .goto (wOperand w) :=
  gives_word h ho (show execVeJmp n smp s = _ from rfl) fun _ begun => ⟨begun.issued, after_setAfter _⟩

theorem call_gives (h : VeDecides n w a fresh s) (ho : wOpc w = 5) : Gives (.call n smp) s fun t => VeIssued n a s t ∧
    (t.veOf n).after = .goto (wOperand w) ∧ (t.veOf n).stack = (s.veOf n).stack ++ [a + 1] := by
  refine gives_word h ho (show execCall n smp s = _ from rfl) fun y begun => ⟨begun.issued, after_setAfter _, ?_⟩
  rw [setAfter, veOf_modVe, veOf_modVe, ← begun.stack]

theorem ret_gives (h : VeDecides n w a fresh s) (ho : wOpc w = 6) : Gives (.ret n smp) s fun t => VeIssued n a s t ∧
    (t.veOf n).after = .goto ((s.veOf n).stack.getLastD 0) ∧ (t.veOf n).stack = (s.veOf n).stack.dropLast := by
  refine gives_word h ho (show execRet n smp s = _ from rfl) fun y begun => ⟨begun.issued, ?_, ?_⟩
  · rw [after_setAfter, begun.stack]
  · rw [setAfter, veOf_modVe, veOf_modVe, ← begun.stack]

theorem jc_gives (h : VeDecides n w a fresh s) (ho : wOpc w = 7) : Gives (.jc n smp) s fun t => VeIssued n a s t ∧
    (t.veOf n).after = .jc (wSel w) (wOperand w) :=
  gives_word h ho (show execJc n smp s = _ from rfl) fun _ begun => ⟨begun.issued, after_setAfter _⟩

theorem clrf_gives (h : VeDecides n w a fresh s) (ho : wOpc w = 8) (first : fresh = true) : Gives (.clrf n smp) s fun t =>
    VeIssued n a s t ∧ t.bit (VEN.FLAGS n) 1 = false :=
  gives_word h ho (show execClrf n smp s = _ from rfl) fun _ begun => ⟨begun.issued, begun.clrf rfl first⟩

/-- A flag of the engine that a word sets leaves the cycle issued. -/
theorem issued_setBit {y : State} {b : Nat} {v : Bool} (h : VeIssued n a s y) : VeIssued n a s (y.setBit (VEN.FLAGS n) b v) :=
  issued_of h (rd_setBit_other _ (by simp) _ _) (rd_setBit_other _ (by simp) _ _)

/-- The loop that MBEG opens. -/
def opened (w a cyc : Nat) : MLoop := ⟨cyc, if wOperand w = 0 then 2 ^ 32 else wOperand w, a + 1, [⟨cyc, none, false⟩]⟩

theorem mbeg_gives (h : VeDecides n w a fresh s) (ho : wOpc w = 9) : Gives (.mbeg n smp) s fun t => VeIssued n a s t ∧
    t.bit (VEN.FLAGS n) 5 = true ∧
    ∃ l, (t.veOf n).loop = some l ∧ l.body = a + 1 ∧ l.t = if wOperand w = 0 then 2 ^ 32 else wOperand w := by
  refine gives_word h ho (show execMbeg n smp s = _ from rfl) fun y begun =>
    ⟨issued_setBit (issued_modVe begun.issued), bit_setBit_true .., opened w a (y.veOf n).cyc, ?_, rfl, rfl⟩
  rw [veOf_setBit, veOf_modVe]
  rfl

theorem matchEnd_gives (h : VeDecides n w a fresh s) (ho : wOpc w = 10) : Gives (.matchEnd n smp) s fun t => VeIssued n a s t ∧
    (t.veOf n).after = .matchEnd :=
  gives_word h ho (show execMatchEnd n smp s = _ from rfl) fun _ begun => ⟨begun.issued, after_setAfter _⟩

theorem rd_arrive (mask t k : Nat) : (arrive n mask t s).rd k = s.rd k := frq (f := arrive n mask t) (arrive_fr n mask t s (fr_refl s))

theorem bar_arrive (mask t : Nat) : ((arrive n mask t s).veOf n).bar = (s.veOf n).bar :=
  arrive_keepsVeStack (nn := n) (s0 := s) n mask t s rfl

theorem bar_gives (h : VeDecides n w a fresh s) (ho : wOpc w = 11) (first : fresh = true) : Gives (.bar n smp) s fun t =>
    VeIssued n a s t ∧ t.bit (VEN.FLAGS n) 6 = true ∧ (t.veOf n).bar = some (wOperand w, veBoundary n s) := by
  refine gives_word h ho (show execBar n smp s = _ from rfl) fun y begun => ?_
  rw [if_pos first]
  refine ⟨issued_of (issued_setBit (issued_modVe begun.issued)) (rd_arrive ..) (rd_arrive ..), ?_, ?_⟩
  · rw [bit_of_rd (rd_arrive ..)]
    exact bit_setBit_true ..
  · rw [bar_arrive, veOf_setBit, veOf_modVe]

theorem halt_gives (h : VeDecides n w a fresh s) (ho : wOpc w = 13) : Gives (.veHaltWord n smp) s fun t => VeIssued n a s t ∧
    (t.veOf n).endAt ≠ none := by
  have running : (s.veOf n).endAt = none := by
    obtain ⟨-, issuing', -⟩ := h
    simp [issuing] at issuing'
    exact issuing'.2
  have he : execVeHaltWord n smp s = wordCommand n 13 smp (fun _ _ _ _ s => s.modVe n fun e => { e with endAt := some (veBoundary n s) }) s := by
    unfold execVeHaltWord
    rw [running]
    split <;> simp_all
  refine gives_word h ho (show execVeHaltWord n smp s = _ from he) fun y begun => ⟨issued_modVe begun.issued, ?_⟩
  rw [veOf_modVe]
  exact Option.some_ne_none _

/-! The instants of an engine's cycles, for EVT. -/

/-- The pending ends of EVT words, and the instants that give the boundaries. -/
def times (e : VeRun) : List Nat × Nat × Nat := (e.evts, e.base, e.cyc0)

theorem times_learn (c : Cmp) : times ((learn n c s).veOf n) = times (s.veOf n) := by
  unfold learn
  extract_lets s1 s2
  have h1 : times (s1.veOf n) = times (s.veOf n) := modVe_g (g := times) (by intro e; rfl)
  have h2 : times (s2.veOf n) = times (s.veOf n) := setBit_g.trans h1
  split
  · split
    · refine setBit_g.trans ?_
      split
      · exact h2
      · exact (modVe_g (g := times) (by intro e; rfl)).trans h2
    · exact h2
  · exact h1

theorem times_learnUpTo (b : Nat) : times ((learnUpTo n b s).veOf n) = times (s.veOf n) := by
  unfold learnUpTo
  dsimp only
  exact (modVe_g (g := times) (by intro e; rfl)).trans (fold_g (fun _ c => times_learn c) _ _)

theorem times_closeLoop (x : Bool) : times ((closeLoop n x s).veOf n) = times (s.veOf n) :=
  setBit_g.trans (setBit_g.trans (modVe_g (g := times) (by intro e; rfl)))

theorem times_decideMatch (c : Nat) : times ((decideMatch n c s).1.veOf n) = times (s.veOf n) := by
  unfold decideMatch
  cases (s.veOf n).loop with
  | none => rfl
  | some l =>
    dsimp only
    generalize (List.any _ _) = passed
    cases passed with
    | true => rw [if_pos rfl]; exact times_closeLoop false
    | false =>
      rw [if_neg Bool.false_ne_true]
      by_cases late : l.c0 + l.t ≤ c
      · rw [if_pos late]; exact times_closeLoop true
      · rw [if_neg late]; exact modVe_g (g := times) (n := n) (m := n) (s := s) fun _ => rfl

theorem times_resolve : times ((resolve n s).1.veOf n) = times (s.veOf n) := by
  unfold resolve
  split
  · rfl
  · rfl
  · rfl
  · exact times_decideMatch _

theorem times_decideNext : times ((decideNext n s).1.veOf n) = times (s.veOf n) := by
  unfold decideNext
  extract_lets b s1 e pc r s2 a too s3
  have h1 : times (s1.veOf n) = times (s.veOf n) := times_learnUpTo _
  have h3 : times (s3.veOf n) = times (s.veOf n) := (modVe_g (g := times) (by intro e; rfl)).trans (times_resolve.trans h1)
  split
  · split <;> exact h1
  · split
    · exact h3
    · split
      · exact h3
      · split
        · exact h3
        · split <;> exact h3

theorem times_stepCount (x : Nat) : times ((stepCount n x s).veOf n) = times (s.veOf n) ∧ ((stepCount n x s).veOf n).cyc = (s.veOf n).cyc := by
  unfold stepCount
  split
  · rw [veOf_modTgt]
    exact ⟨modVe_g (g := times) (by intro e; rfl), modVe_g (g := VeRun.cyc) (by intro e; rfl)⟩
  · exact ⟨rfl, rfl⟩
  · exact ⟨rfl, rfl⟩

theorem times_consume (b : Nat) : times ((consume n b s).veOf n) = times (s.veOf n) ∧ ((consume n b s).veOf n).cyc = (s.veOf n).cyc := by
  unfold consume
  split
  · dsimp only
    exact ⟨setBit_g.trans (modVe_g (g := times) (s := s.bump 64 (VEN.APG_USED n)) (by intro e; rfl)),
      setBit_g.trans (modVe_g (g := VeRun.cyc) (s := s.bump 64 (VEN.APG_USED n)) (by intro e; rfl))⟩
  · exact ⟨rfl, rfl⟩

/-- A cycle that begins is counted, and moves no instant. -/
theorem times_issueCycle (b : Nat) : times ((issueCycle n b w a smp s).veOf n) = times (s.veOf n) ∧
    ((issueCycle n b w a smp s).veOf n).cyc = (s.veOf n).cyc + 1 := by
  unfold issueCycle
  extract_lets t s1 s2 masked d r s3 rec_ s4 cyc s5 s6
  have h1 : times (s1.veOf n) = times (s.veOf n) ∧ (s1.veOf n).cyc = (s.veOf n).cyc :=
    ⟨(brk_g (g := times) (fun _ _ => rfl) ..).trans (brk_g (g := times) (fun _ _ => rfl) ..), (brk_cyc ..).trans (brk_cyc ..)⟩
  have h2 : times (s2.veOf n) = times (s.veOf n) ∧ (s2.veOf n).cyc = (s.veOf n).cyc := by
    show times ((if wDsrc w = 1 then consume n b s1 else s1).veOf n) = _ ∧ ((if wDsrc w = 1 then consume n b s1 else s1).veOf n).cyc = _
    split
    · exact ⟨(times_consume b).1.trans h1.1, (times_consume b).2.trans h1.2⟩
    · exact h1
  have h3 : s3.ve = s2.ve := (fold_ve (fun s e => drive_ve ..) _ _).trans (strobes_ve ..)
  have h4 : s4.veOf n = s2.veOf n := by unfold State.veOf; rw [show s4.ve = s3.ve from rfl, h3]
  have h6 : s6.veOf n = s5.veOf n := rfl
  rw [(times_stepCount _).1, (times_stepCount _).2, veOf_modTgt, h6, show s5 = s4.modVe n _ from rfl, veOf_modVe]
  refine ⟨?_, ?_⟩
  · exact (congrArg times h4).trans h2.1
  · exact congrArg (· + 1) ((congrArg VeRun.cyc h4).trans h2.2)

theorem now_brkMatch (k t v ctx cls th : Nat) : (brkMatch k t v ctx cls th s).now = s.now := (pk_brk (n := t) k v ctx cls th s).2.2.2.1

theorem now_stepCount (x : Nat) : (stepCount n x s).now = s.now := by
  unfold stepCount
  split <;> rfl

theorem now_placeMark (c t : Nat) : (placeMark c t s).now = s.now := by
  unfold placeMark
  split
  · rfl
  · unfold dropIn settleIn
    dsimp only
    split <;> simp

theorem now_placeMarks (c : Nat) : ∀ (ts : List Nat) (r : State × Bool), (placeMarks c ts r).1.now = r.1.now
  | [], _ => rfl
  | t :: ts, (_, _) => (now_placeMarks c ts _).trans (now_placeMark c t)

theorem now_strobeAll (t tc d : Nat) : ∀ (ps : List (Nat × Nat)) (s : State), (strobeAll n t tc d smp ps s).1.now = s.now
  | [], _ => rfl
  | (p, c) :: ps, s => by
    refine (now_strobeAll t tc d ps _).trans ?_
    unfold strobeIn
    dsimp only
    split
    · exact now_placeMarks c _ _
    · rfl

theorem now_dropOut (c t : Nat) : (dropOut c t s).now = s.now := by
  unfold dropOut settleOut
  dsimp only
  split <;> simp

theorem now_placeData (c t : Nat) (op : Option EdgeOp) : (placeData c t op s).now = s.now := by
  unfold placeData
  split
  · rfl
  · exact now_dropOut c t

theorem now_foldl {α : Type} {f : State → α → State} (hf : ∀ s x, (f s x).now = s.now) : ∀ (l : List α) (s : State), (l.foldl f s).now = s.now
  | [], _ => rfl
  | x :: l, s => (now_foldl hf l _).trans (hf s x)

theorem now_acted (act set n t tc p c : Nat) (d : Bool) (found : List Strobe) : (acted act set n t tc p c d found s).now = s.now := by
  unfold acted
  split
  · exact now_foldl (fun _ (e : Nat × Option EdgeOp) => now_placeData c e.1 e.2) _ _
  · exact now_foldl (fun _ (e : Nat × Option EdgeOp) => now_placeData c e.1 e.2) _ _
  · split
    · exact now_placeData ..
    · rfl
  · rfl

theorem now_driveOut (t tc p c : Nat) (d : Bool) (found : List Strobe) : (driveOut n t tc p c d found s).now = s.now := by
  have settled : (settleOut c s).now = s.now := by
    unfold settleOut
    dsimp only
    split <;> simp
  rw [drive_eq]
  unfold placeEnable
  split
  · exact (now_acted ..).trans settled
  · exact (now_dropOut ..).trans ((now_acted ..).trans settled)

theorem now_consume (b : Nat) : (consume n b s).now = s.now := by
  unfold consume
  split
  · exact setBit_now ..
  · rfl

/-- A cycle that begins takes no time of its own. -/
theorem now_issueCycle (b : Nat) : (issueCycle n b w a smp s).now = s.now := by
  unfold issueCycle
  extract_lets t s1 s2 masked d r s3 rec_ s4 cyc s5 s6
  have h1 : s1.now = s.now := (now_brkMatch ..).trans (now_brkMatch ..)
  have h2 : s2.now = s1.now := by
    show (if wDsrc w = 1 then consume n b s1 else s1).now = _
    split
    · exact now_consume b
    · rfl
  have hr : r.1.now = s2.now := now_strobeAll ..
  have h3 : s3.now = r.1.now := now_foldl (fun _ (e : Nat × Nat) => now_driveOut t b e.1 e.2 (d.testBit e.1) r.2) _ _
  have h6 : s6.now = s3.now := rfl
  rw [now_stepCount, modTgt_now, h6, h3, hr, h2, h1]

/-- The members of another unit, the period and the events stay as a cycle begins. -/
theorem rd_issueCycle (b : Nat) {k : Nat} (h : k = VEN.PERIOD n ∨ k = VEN.EVENTS n ∨ k = HDI.STATUS) :
    (issueCycle n b w a smp s).rd k = s.rd k := by
  refine frq (f := issueCycle n b w a smp) (issueCycle_fr n b w a smp s (fr_refl s) ?_ ?_ ?_ ?_ ?_ ?_ ?_ ?_ ?_ ?_) <;>
    (intros; rcases h with rfl | rfl | rfl <;>
      simp only [EDG.DROP_GROUPS, EDG.EDGE_DROP, EDG.STROBE_DROP, VEN.CYCLES, VEN.FLAGS, VEN.PC, VEN.APG_USED, DBG.BRK_HITS,
        DBG.BRK_STATE, DBG.EVFLAGS, VEN.PERIOD, VEN.EVENTS, HDI.STATUS] <;> omega)

/-- The state in which a word acts that clears no FAIL: its cycle has begun after the decision that left u. -/
def cycleOf (n b w a : Nat) (fresh : Bool) (smp : Samples) (u : State) : State :=
  let z := issueCycle n b w a smp (markUsed n a (u.veOf n).cyc u)
  if fresh then z.modVe n fun e => { e with next := a + 1 } else z

/-- The state that the decision for the next cycle leaves. -/
def decided (n : Nat) (s : State) : State := (decideNext n (s.upto (veBoundary n s - 18 * ticksPerNs))).1

theorem wordCommand_eq (h : VeDecides n w a fresh s) (ho : wOpc w = opc) (h8 : opc ≠ 8) (act : Nat → Nat → Nat → Bool → State → State) :
    wordCommand n opc smp act s =
      .next (act w a (veBoundary n s) fresh (cycleOf n (veBoundary n s) w a fresh smp (decided n s))) := by
  obtain ⟨hn, running, free, u, hu⟩ := h
  unfold wordCommand decided
  rw [unitNext hn]
  dsimp only
  rw [if_neg (by simp [running, free]), hu]
  dsimp only
  have keep : ¬(opc = 8 ∧ fresh = true) := fun clears => h8 clears.1
  rw [if_neg (by simp [ho]), if_neg keep]
  rfl

theorem issued_cycleOf (h : VeDecides n w a fresh s) (h8 : wOpc w ≠ 8) :
    VeIssued n a s (cycleOf n (veBoundary n s) w a fresh smp (decided n s)) := by
  obtain ⟨y, next, issued, -⟩ := word_facts (smp := smp) h _ rfl
  have same := (next fun _ _ _ _ s => s).symm.trans (wordCommand_eq h rfl h8 _)
  exact Host.Outcome.next.inj same ▸ issued

theorem times_markUsed (c : Nat) : times ((markUsed n a c s).veOf n) = times (s.veOf n) ∧ ((markUsed n a c s).veOf n).cyc = (s.veOf n).cyc :=
  ⟨modVe_g (g := times) (by intro e; rfl), modVe_g (g := VeRun.cyc) (by intro e; rfl)⟩

/-- The instants of the engine, its time and three members once the cycle has begun. -/
theorem cycleOf_facts (hn : n < 32) : let y := cycleOf n (veBoundary n s) w a fresh smp (decided n s)
    times (y.veOf n) = times (s.veOf n) ∧ (y.veOf n).cyc = (s.veOf n).cyc + 1 ∧
    y.now = max s.now (veBoundary n s - 18 * ticksPerNs) ∧
    ∀ k, k = VEN.PERIOD n ∨ k = VEN.EVENTS n ∨ k = HDI.STATUS → y.rd k = s.rd k := by
  intro y
  have decidedTimes : times ((decided n s).veOf n) = times (s.veOf n) := times_decideNext
  have decidedCyc : ((decided n s).veOf n).cyc = (s.veOf n).cyc := congrArg (·.1) (decide_gD n n (s.upto (veBoundary n s - 18 * ticksPerNs)))
  have decidedNow : (decided n s).now = max s.now (veBoundary n s - 18 * ticksPerNs) :=
    (pk_decide hn (s.upto (veBoundary n s - 18 * ticksPerNs))).2.2.2.1
  have decidedRd (k : Nat) (hk : k ≠ VEN.FLAGS n) : (decided n s).rd k = s.rd k := decide_facts n (s.upto (veBoundary n s - 18 * ticksPerNs)) k hk
  generalize hz : issueCycle n (veBoundary n s) w a smp (markUsed n a ((decided n s).veOf n).cyc (decided n s)) = z
  have zt : times (z.veOf n) = times (s.veOf n) := by
    rw [← hz, (times_issueCycle _).1, (times_markUsed _).1, decidedTimes]
  have zc : (z.veOf n).cyc = (s.veOf n).cyc + 1 := by
    rw [← hz, (times_issueCycle _).2, (times_markUsed _).2, decidedCyc]
  have zn : z.now = max s.now (veBoundary n s - 18 * ticksPerNs) := by
    rw [← hz, now_issueCycle]; exact decidedNow
  have zr (k : Nat) (h : k = VEN.PERIOD n ∨ k = VEN.EVENTS n ∨ k = HDI.STATUS) : z.rd k = s.rd k := by
    rw [← hz, rd_issueCycle _ h]
    refine (rd_modVe ..).trans (decidedRd k ?_)
    rcases h with rfl | rfl | rfl <;> simp only [VEN.PERIOD, VEN.EVENTS, VEN.FLAGS, HDI.STATUS] <;> omega
  have hy : y = if fresh then z.modVe n fun e => { e with next := a + 1 } else z := by rw [← hz]; rfl
  rw [hy]
  split
  · exact ⟨(modVe_g (g := times) (by intro e; rfl)).trans zt, (modVe_g (g := VeRun.cyc) (by intro e; rfl)).trans zc, zn, zr⟩
  · exact ⟨zt, zc, zn, zr⟩

/-- Ends up to x, and those after x up to a later N, are the ends up to N. -/
theorem ended_split (L : List Nat) {x N : Nat} (h : x ≤ N) :
    (L.filter fun t => Nat.ble t x).length + ((L.filter fun t => Nat.blt x t).filter fun t => Nat.ble t N).length =
      (L.filter fun t => Nat.ble t N).length := by
  induction L with
  | nil => rfl
  | cons t L ih =>
    by_cases hx : t ≤ x
    · have hN : t ≤ N := hx.trans h
      simp [hx, hN, Nat.not_lt.2 hx] at ih ⊢
      omega
    · by_cases hN : t ≤ N
      · simp [hx, hN, Nat.lt_of_not_le hx] at ih ⊢
        omega
      · simp [hx, hN, Nat.lt_of_not_le hx] at ih ⊢
        omega

/-- The EVT word whose cycle ends at instant e. -/
def evtAt (n e : Nat) (s : State) : State := (settleEvts n s).modVe n fun v => { v with evts := v.evts ++ [e] }

theorem evtAt_boundary (e : Nat) : veBoundary n (evtAt n e s) = veBoundary n s := by
  unfold veBoundary evtAt settleEvts
  rw [veOf_modVe, veOf_modVe, rd_modVe, rd_modVe, rd_wr_other _ (by simp)]
  rfl

theorem min_counts (E p q M : Nat) : min (min (E + p) M + (q + 1)) M = min (min (E + (p + q)) M + 1) M := by omega

/-- The event of an EVT word counts once its cycle has ended. -/
theorem eventsNow_evtAt (e : Nat) : eventsNow n ((evtAt n e s).upto e) = min (eventsNow n (s.upto e) + 1) (2 ^ 32 - 1) := by
  have settled : (((evtAt n e s).upto e).veOf n).evts = ((s.veOf n).evts.filter fun t => Nat.blt s.now t) ++ [e] := by
    show (State.veOf (evtAt n e s) n).evts = _
    rw [evtAt, settleEvts, veOf_modVe, veOf_modVe]
    rfl
  have taken : ((evtAt n e s).upto e).rd (VEN.EVENTS n) = eventsNow n s := by
    show (evtAt n e s).rd (VEN.EVENTS n) = _
    rw [evtAt, settleEvts, rd_modVe, rd_modVe, rd_wr_same]
  have time : ((evtAt n e s).upto e).now = max s.now e := rfl
  have reached : Nat.ble e (max s.now e) = true := Nat.ble_eq_true_of_le (le_max_right ..)
  have split := ended_split (s.veOf n).evts (le_max_left s.now e)
  unfold eventsNow evtsEnded at taken ⊢
  rw [settled, taken, time, List.filter_append, List.length_append, List.filter_singleton, reached]
  show min (min (_ + _) _ + (_ + 1)) _ = min (min (s.rd (VEN.EVENTS n) + ((s.veOf n).evts.filter fun t => Nat.ble t (max s.now e)).length) _ + 1) _
  rw [min_counts, split]

/-- Events as an instant sees them rest on the register, the pending ends and the time. -/
theorem eventsNow_congr {y : State} {e : Nat} (hr : y.rd (VEN.EVENTS n) = s.rd (VEN.EVENTS n)) (hv : (y.veOf n).evts = (s.veOf n).evts)
    (ht : max y.now e = max s.now e) : eventsNow n (y.upto e) = eventsNow n (s.upto e) := by
  unfold eventsNow evtsEnded
  show min (y.rd _ + ((y.veOf n).evts.filter fun t => Nat.ble t (max y.now e)).length) _ =
    min (s.rd _ + ((s.veOf n).evts.filter fun t => Nat.ble t (max s.now e)).length) _
  rw [hr, hv, ht]

theorem evt_gives (h : VeDecides n w a fresh s) (ho : wOpc w = 12) : Gives (.veEvt n smp) s fun t => VeIssued n a s t ∧
    let e := veBoundary n t
    eventsNow n (t.upto e) = min (eventsNow n (s.upto e) + 1) (2 ^ 32 - 1) ∧
    (s.bit HDI.STATUS 1 = true → (e, 65 + 2 * n) ∈ t.evq) := by
  have issued := issued_cycleOf (smp := smp) h (by omega)
  obtain ⟨hk, hc, hnow, hrd⟩ := cycleOf_facts (w := w) (a := a) (fresh := fresh) (smp := smp) (s := s) h.1
  refine ⟨_, (show execVeEvt n smp s = _ from wordCommand_eq h ho (by decide) _), ?_⟩
  generalize cycleOf n (veBoundary n s) w a fresh smp (decided n s) = y at *
  simp only [times, Prod.mk.injEq] at hk
  obtain ⟨hevts, hbase, hcyc0⟩ := hk
  have later : veBoundary n s ≤ veBoundary n y := by
    unfold veBoundary
    rw [hbase, hcyc0, hc, hrd _ (.inl rfl)]
    exact Nat.add_le_add_left (Nat.mul_le_mul_right _ (by omega)) _
  generalize hb : veBoundary n y = e at later
  have evtRd (k : Nat) (hk : k ≠ VEN.EVENTS n) : ((evtAt n e y).raiseAt e (65 + 2 * n)).rd k = y.rd k := by
    rw [rd_raiseAt, evtAt, settleEvts, rd_modVe, rd_modVe, rd_wr_other _ hk]
  have boundary : veBoundary n ((evtAt n e y).raiseAt e (65 + 2 * n)) = e := by
    refine Eq.trans ?_ ((evtAt_boundary (s := y) e).trans hb)
    unfold veBoundary
    rw [veOf_raiseAt, rd_raiseAt]
  change VeIssued n a s ((evtAt n e y).raiseAt e (65 + 2 * n)) ∧
    eventsNow n (((evtAt n e y).raiseAt e (65 + 2 * n)).upto (veBoundary n ((evtAt n e y).raiseAt e (65 + 2 * n)))) =
      min (eventsNow n (s.upto (veBoundary n ((evtAt n e y).raiseAt e (65 + 2 * n)))) + 1) (2 ^ 32 - 1) ∧
    (s.bit HDI.STATUS 1 = true → (veBoundary n ((evtAt n e y).raiseAt e (65 + 2 * n)), 65 + 2 * n) ∈
      ((evtAt n e y).raiseAt e (65 + 2 * n)).evq)
  rw [boundary]
  refine ⟨issued_of issued (evtRd _ (by simp)) (evtRd _ (by simp)), ?_, fun on => ?_⟩
  · rw [eventsNow_congr (s := evtAt n e y) (rd_raiseAt ..) (by rw [veOf_raiseAt]) (by rw [raiseAt_now]), eventsNow_evtAt,
      eventsNow_congr (hrd _ (.inr (.inl rfl))) hevts (by rw [hnow]; omega)]
  · have status : (evtAt n e y).bit HDI.STATUS 1 = true := by
      refine (bit_of_rd ?_).trans on
      rw [evtAt, settleEvts, rd_modVe, rd_modVe, rd_wr_other _ (by simp only [HDI.STATUS, VEN.EVENTS]; omega), hrd _ (.inr (.inr rfl))]
    unfold State.raiseAt
    rw [if_pos status]
    exact List.mem_append_right _ (List.mem_singleton_self _)

/-! The pins of an issued cycle. -/

/-- The state whose pins the cycle of the word at address a finds. -/
def pinState (n a : Nat) (s : State) : State := markUsed n a ((decided n s).veOf n).cyc (decided n s)

theorem pk_markUsed (c : Nat) : PK s (markUsed n a c s) := pk_modVe ..

theorem rd_markUsed (c k : Nat) : (markUsed n a c s).rd k = s.rd k := rd_modVe ..

theorem pk_decided (hn : n < 32) : PK (s.upto (veBoundary n s - 18 * ticksPerNs)) (decided n s) :=
  pk_decide hn (s.upto (veBoundary n s - 18 * ticksPerNs))

theorem rd_decided {k : Nat} (h : k ≠ VEN.FLAGS n) : (decided n s).rd k = s.rd k :=
  decide_facts n (s.upto (veBoundary n s - 18 * ticksPerNs)) k h

theorem pk_pinState (hn : n < 32) : PK (s.upto (veBoundary n s - 18 * ticksPerNs)) (pinState n a s) := by
  unfold pinState
  exact (pk_decided hn).trans (pk_markUsed _)

theorem outOf_pinState (hn : n < 32) (c : Nat) : (pinState n a s).outOf c = s.outOf c := by
  unfold State.outOf
  rw [(pk_pinState hn).1, upto_outCh]

theorem inOf_pinState (hn : n < 32) (c : Nat) : (pinState n a s).inOf c = s.inOf c := by
  unfold State.inOf
  rw [(pk_pinState hn).2.1, upto_inCh]

theorem fcpOf_pinState (hn : n < 32) : (pinState n a s).fcpOf n = s.fcpOf n := by
  unfold State.fcpOf
  rw [(pk_pinState hn).2.2.1, upto_fcp]

theorem now_pinState (hn : n < 32) : (pinState n a s).now = max s.now (veBoundary n s - 18 * ticksPerNs) := (pk_pinState hn).2.2.2.1

theorem rd_pinState {k : Nat} (h : k ≠ VEN.FLAGS n) : (pinState n a s).rd k = s.rd k := by
  unfold pinState
  rw [rd_markUsed, rd_decided h]

theorem cyc_pinState : ((pinState n a s).veOf n).cyc = (s.veOf n).cyc := by
  unfold pinState
  exact (times_markUsed _).2.trans (congrArg (·.1) (decide_gD n n (s.upto (veBoundary n s - 18 * ticksPerNs))))

theorem maps_pinState (hn : n < 32) : outMap n (pinState n a s) = outMap n s ∧ inMap n (pinState n a s) = inMap n s := by
  obtain ⟨out, ins⟩ := pk_map (pk_pinState (a := a) (s := s) hn) hn
  exact ⟨out, ins⟩

/-- The next address of the program changes no pin, record or compare. -/
theorem pins_next (z : State) : let y := if fresh then z.modVe n fun e => { e with next := a + 1 } else z
    (∀ c, y.outOf c = z.outOf c) ∧ y.fcpOf n = z.fcpOf n ∧ (y.veOf n).cmps = (z.veOf n).cmps := by
  intro y
  cases fresh with
  | true => exact ⟨fun c => rfl, rfl, modVe_g (g := VeRun.cmps) (n := n) (m := n) (s := z) (f := fun e => { e with next := a + 1 }) (by intro e; rfl)⟩
  | false => exact ⟨fun c => rfl, rfl, rfl⟩

theorem cycleOf_eq (b : Nat) : cycleOf n b w a fresh smp (decided n s) =
    if fresh then (issueCycle n b w a smp (pinState n a s)).modVe n fun e => { e with next := a + 1 }
    else issueCycle n b w a smp (pinState n a s) := rfl

/-- A format that does not return leaves the data bit, driven. -/
theorem levels_of_nonReturn {ch : OutCh} {u set tc en : Nat} {d : Bool} {old : List (Nat × EdgeOp)} (h0 : outFormat set = 0)
    (h : ch.edges = old ++ (formatEdges set tc d).filterMap (fun e => e.2.map fun o => (e.1, o)) ++ [(en, .drive true)])
    (hu : ∀ e ∈ ch.edges, e.1 ≤ u) : ch.levels u = (d, true) := by
  rw [levels_end h hu]
  have edges : formatEdges set tc d = [(tc + tfield set 0, some (.level d))] := by
    unfold formatEdges
    rw [h0]
    rfl
  rw [edges, List.foldl_append]
  rfl

theorem levels_of_undriven {ch : OutCh} {u en : Nat} {old : List (Nat × EdgeOp)} (h : ch.edges = old ++ [(en, .drive false)])
    (hu : ∀ e ∈ ch.edges, e.1 ≤ u) : (ch.levels u).2 = false := by
  rw [levels_end h hu]
  rfl

theorem pins_give (h : VeDecides n w a fresh s) (ho : wOpc w = 0) (hd : wDsrc w = 0) (outs : ((outMap n s).map (·.2)).Nodup)
    (places : ((inMap n s).map (·.1)).Nodup) (ins : ((inMap n s).map (·.2)).Nodup) (channels : ∀ e ∈ outMap n s ++ inMap n s, e.2 < 256) :
    let b := veBoundary n s
    let k := wTset w
    Gives (.vec n smp) s fun t =>
      (∀ p c, (p, c) ∈ outMap n s →
        let set := s.rd (EDG.OTSET c k)
        let act := actionOf n k p s
        let es := formatEdges set b ((wData w).testBit p)
        let en := b + tfield set 3
        let old := ((s.outOf c).settle (max s.now (b - 18 * ticksPerNs))).edges
        spaced (s.outOf c).lastEn en = true →
        (act = 0 ∨ act = 2 → allSpaced (s.outOf c).lastData (es.map (·.1)) = true →
          (t.outOf c).edges = old ++ es.filterMap (fun e => e.2.map fun o => (e.1, o)) ++ [(en, .drive true)] ∧
          (outFormat set = 0 → ∀ u, (∀ e ∈ (t.outOf c).edges, e.1 ≤ u) → (t.outOf c).levels u = ((wData w).testBit p, true))) ∧
        (act ≠ 0 → act ≠ 2 → act ≠ 4 → (t.outOf c).edges = old ++ [(en, .drive false)] ∧
          ∀ u, (∀ e ∈ (t.outOf c).edges, e.1 ≤ u) → ((t.outOf c).levels u).2 = false)) ∧
      ∃ r, (t.fcpOf n).cycles = (s.fcpOf n).cycles ++ [r] ∧ r.cyc = (s.veOf n).cyc ∧ r.pc = a ∧ r.addr = a ∧ r.tset = k ∧
        r.site = s.rd (VEN.SITE_TAG n) ∧ r.mode = s.rd (FCP.MODE n) ∧
        (smp.chg = [] → ∀ p c, (p, c) ∈ inMap n s → actionOf n k p s = 1 ∨ actionOf n k p s = 2 →
          let set := s.rd (EDG.ITSET c k)
          let d := (wData w).testBit p
          let v := xor (smp.level.testBit p) (decide (s.rd (EDG.IPOL c) = 1))
          let marks := inMarks set (actionOf n k p s)
          let bad := if inMode set = 2 then true else v != d
          allSpaced (s.inOf c).last (marks.map (b + ·)) = true →
            ⟨b + marks.getLastD 0 + deskewLate c s, (s.veOf n).cyc, bad, wMaskf w⟩ ∈ (t.veOf n).cmps ∧
            r.fv.testBit p = (bad && !(wMaskf w))) := by
  intro b k
  have hn := h.1
  have hk : k < 64 := tset_lt w
  refine ⟨_, (show execVec n smp s = _ from wordCommand_eq h ho (by decide) _), ?_⟩
  rw [cycleOf_eq]
  obtain ⟨sameOut, sameFcp, sameCmps⟩ := pins_next (n := n) (a := a) (fresh := fresh)
    (issueCycle n (veBoundary n s) w a smp (pinState n a s))
  obtain ⟨mapOut, mapIn⟩ := maps_pinState (a := a) (s := s) hn
  obtain ⟨driven, r, record, compares⟩ := issue_pins (b := b) (w := w) (a := a) (smp := smp) (s := pinState n a s) hn hd
    (mapOut ▸ outs) (mapIn ▸ ins) (mapIn ▸ places) (by rw [mapOut, mapIn]; exact channels)
  have outOf := outOf_pinState (a := a) (s := s) hn
  have inOf := inOf_pinState (a := a) (s := s) hn
  have now := now_pinState (a := a) (s := s) hn
  have cycles := congrArg FcpS.cycles (fcpOf_pinState (a := a) (s := s) hn)
  have cyc := cyc_pinState (n := n) (a := a) (s := s)
  have rd (j : Nat) (hj : j ≠ VEN.FLAGS n) : (pinState n a s).rd j = s.rd j := rd_pinState hj
  generalize pinState n a s = m at *
  have act (p : Nat) : actionOf n k p m = actionOf n k p s := by
    unfold actionOf
    rw [rd _ (by simp only [VEN.ACTION, VEN.FLAGS]; omega)]
  have late (c : Nat) : deskewLate c m = deskewLate c s := by
    unfold deskewLate
    rw [rd _ (by simp only [EDG.IDESKEW, VEN.FLAGS]; omega)]
  have otset (c : Nat) : m.rd (EDG.OTSET c k) = s.rd (EDG.OTSET c k) := rd _ (by simp only [EDG.OTSET, VEN.FLAGS]; omega)
  have itset (c : Nat) : m.rd (EDG.ITSET c k) = s.rd (EDG.ITSET c k) := rd _ (by simp only [EDG.ITSET, VEN.FLAGS]; omega)
  have ipol (c : Nat) : m.rd (EDG.IPOL c) = s.rd (EDG.IPOL c) := rd _ (by simp only [EDG.IPOL, VEN.FLAGS]; omega)
  have site : m.rd (VEN.SITE_TAG n) = s.rd (VEN.SITE_TAG n) := rd _ (by simp only [VEN.SITE_TAG, VEN.FLAGS]; omega)
  have mode : m.rd (FCP.MODE n) = s.rd (FCP.MODE n) := rd _ (by simp only [FCP.MODE, VEN.FLAGS]; omega)
  refine ⟨fun p c hpc => ?_, r, ?_⟩
  · intro set act' es en old spacedEn
    obtain ⟨s', found, hnow, hout, haction, hotset, hdrive⟩ := driven p c (mapOut ▸ hpc)
    obtain ⟨drives, clears⟩ := drive_val (s := m) (d := (wData w).testBit p) (found := found) (n := n) (p := p) (tc := b) hnow hout
      (channels _ (List.mem_append_left _ hpc)) haction hotset (by rw [outOf, otset]; exact spacedEn)
    rw [outOf, act, otset, now] at drives clears
    rw [sameOut, hdrive]
    exact ⟨fun drive spaced => ⟨drives drive spaced, fun h0 u hu => levels_of_nonReturn h0 (drives drive spaced) hu⟩,
      fun h0 h2 h4 => ⟨clears h0 h2 h4, fun u hu => levels_of_undriven (clears h0 h2 h4) hu⟩⟩
  · rw [sameFcp, sameCmps]
    obtain ⟨hcyc, hpc, haddr, htset, hsite, hmode, hcmp⟩ := compares
    refine ⟨record.trans (by rw [cycles]), hcyc.trans cyc, hpc, haddr, htset, hsite.trans site, hmode.trans mode, ?_⟩
    intro steady p c hpc hact
    have compared := hcmp steady p c (mapIn ▸ hpc) (by rw [act]; exact hact)
    rw [act, inOf, itset, ipol, late, cyc] at compared
    exact compared

/-- Settles O21: the words by what their opcode leaves once the cycle has begun, the pins by what the cycle places and samples. -/
theorem veWordsComplete : Obligations.VeWordsComplete :=
  ⟨fun _ _ _ _ _ _ h => ⟨vec_gives h, rpt_gives h, ldc_gives h, loop_gives h, jmp_gives h, call_gives h, ret_gives h, jc_gives h,
      clrf_gives h, mbeg_gives h, matchEnd_gives h, bar_gives h, evt_gives h, halt_gives h⟩,
    fun _ _ _ _ _ _ h ho hd outs places ins channels => pins_give h ho hd outs places ins channels⟩

end Sys2Proof.Proofs.VeWord
end

section
/-! What starts, ends and lands on a vector engine, and the park of its pins (03_vector_engines.md R71, R76, R77, R98, R100, R102,
R103, R106, R107; 06_edge_channels.md R171, R182). -/
namespace Sys2Proof.Proofs.VeEvent
open Sys2Proof.Machine Sys2Proof.Laws Common CompleteVe CompleteVeEvents CompletePark

variable {n : Nat} {s : State}

/-- The state of VEn once the edge has reset its members and its run, before it is RUNNING. -/
def reset (n edge : Nat) (s0 : State) : State :=
  let s := s0.upto edge
  let t0 := if timeValid s then toTime128 (netAt s edge + 64 * 2 ^ 32) else 0
  let late := if (s.veOf n).armKind = 1 then (s.veOf n).late else s.bit (VEN.FLAGS n) 8
  ((((s.wr (VEN.T0 n) t0).wr (VEN.PTO_LEFT n) (s.rd (VEN.PTO n))).wr (VEN.CYCLES n) 0).wr (VEN.EVENTS n) 0).wr (VEN.FLAGS n)
    (if late then 2 ^ 8 else 0)

theorem reset_facts (edge : Nat) : (reset n edge s).rd (VEN.CYCLES n) = 0 ∧ (reset n edge s).rd (VEN.PTO_LEFT n) = s.rd (VEN.PTO n) := by
  unfold reset
  refine ⟨?_, ?_⟩
  · rw [rd_wr_other _ (by simp), rd_wr_other _ (by simp), rd_wr_same]
  · rw [rd_wr_other _ (by simp), rd_wr_other _ (by simp), rd_wr_other _ (by simp), rd_wr_same]
    rfl

theorem begin_facts (edge : Nat) (hn : n < 32) : veState n (veBegin n edge s) = 3 ∧ (veBegin n edge s).rd (VEN.CYCLES n) = 0 ∧
    (veBegin n edge s).rd (VEN.PTO_LEFT n) = s.rd (VEN.PTO n) := by
  have kept {k : Nat} (hk : k = VEN.CYCLES n ∨ k = VEN.PTO_LEFT n) : (veBegin n edge s).rd k = (reset n edge s).rd k := by
    obtain ⟨h1, h2, h3, h4, h5, h6⟩ := kB n k hn hk
    unfold veBegin
    rw [rd_raise, regrid_rd, frq (k := k) (f := veEnter n 3) (veEnter_fr n 3 _ (fr_refl _) h4 h5 h6), rd_wr_other _ h1,
      rd_modFcp, rd_wr_other _ h3, rd_wr_other _ h2, rd_modVe, foldl_wr _ _ fun j hj => kA n k j hk (List.mem_range.1 hj)]
    rfl
  refine ⟨?_, (kept (.inl rfl)).trans (reset_facts edge).1, (kept (.inr rfl)).trans (reset_facts edge).2⟩
  unfold veBegin veState
  rw [rd_raise, regrid_rd]
  exact enter_state n 3 _ fun armed => absurd armed.2 (by decide)

theorem startEdge_gives {e : Nat} (hn : n < 32) (armed : veState n s = 2) (edge : startEdge n s = some e) :
    Gives (.veStartEdge n) s fun t => veState n t = 3 ∧ t.rd (VEN.CYCLES n) = 0 ∧ t.rd (VEN.PTO_LEFT n) = s.rd (VEN.PTO n) := by
  refine ⟨_, unitNext hn, ?_⟩
  rw [if_pos armed, edge]
  exact begin_facts e hn

theorem selfcheckEnd_gives (pass : Bool) (hn : n < 32) (checking : veState n s = 7) (prior : (s.veOf n).prior ≠ 2) :
    Gives (.veSelfcheckEnd n pass) s fun t => veState n t = (s.veOf n).prior ∧ t.rd (VEN.SELFCHECK n) = if pass then 1 else 2 := by
  refine ⟨_, unitNext hn, ?_⟩
  rw [if_pos checking]
  dsimp only
  rw [raise_state, rd_raise]
  refine ⟨enter_state n _ _ fun armed => prior armed.2, ?_⟩
  refine (frq (k := VEN.SELFCHECK n) (f := veEnter n _) (veEnter_fr n _ _ (fr_refl _) ?_ ?_ fun u => ?_)).trans (rd_wr_same ..) <;>
    simp only [VEN.SELFCHECK, VEN.STATE, HDI.APPLY_OUTCOME, HDI.MIRROR_STATE] <;> omega

/-- A fault of cause c at boundary b ends the run of VEn, whatever was decided there. -/
theorem faultAt_faults {b c a : Nat} (hn : n < 32) (lands : (s.veOf n).lands = []) :
    veState n (veFault n b c a (faultAt n b s).1) = 6 ∧ (veFault n b c a (faultAt n b s).1).rd (VEN.FAULT n) = c := by
  obtain ⟨state, cause, -⟩ := fault_facts n b c a (faultAt n b s).1 hn ((faultAt_land ..).trans lands)
  exact ⟨state, cause⟩

theorem barrierError_gives (hn : n < 32) (ends : endsAt n (veBoundary n s) s = true)
    (err : Machine.due (s.veOf n).barErr (veBoundary n s) = true) (lands : (s.veOf n).lands = []) :
    Gives (.barrierError n) s fun t => veState n t = 6 ∧ t.rd (VEN.FAULT n) = 6 := by
  refine ⟨_, unitNext hn, ?_⟩
  dsimp only
  rw [if_pos ⟨ends, err⟩]
  exact faultAt_faults hn lands

theorem patternTimeout_gives (hn : n < 32) (ends : endsAt n (veBoundary n s) s = true)
    (timed : timedFault n (veBoundary n s) s = some 4) (lands : (s.veOf n).lands = []) :
    Gives (.patternTimeout n) s fun t => veState n t = 6 ∧ t.rd (VEN.FAULT n) = 4 := by
  refine ⟨_, unitNext hn, ?_⟩
  dsimp only
  rw [if_pos ⟨ends, timed⟩]
  exact faultAt_faults hn lands

theorem outCh_raise (e : Nat) : O s (s.raise e) := raise_outCh ..

/-- VEn is HALTED at boundary b, by its debug group too if that asked for it. -/
def halted (n b : Nat) (s : State) : State :=
  let t := (veStopAt n b 4 s).raise (65 + 2 * n)
  if (s.tgtOf (1 + n)).pend then (t.modTgt (1 + n) fun g => { g with pend := false, held := true }).flag DBG.EVFLAGS 1 497 else t

theorem halted_facts (b : Nat) (hn : n < 32) (lands : (s.veOf n).lands = []) : veState n (halted n b s) = 4 ∧
    (((outMap n s).map (·.2)).Nodup → Parked n b s (halted n b s)) := by
  have state : veState n ((veStopAt n b 4 s).raise (65 + 2 * n)) = 4 := (raise_state ..).trans (stop4 ..)
  have parked (hd : ((outMap n s).map (·.2)).Nodup) : Parked n b s ((veStopAt n b 4 s).raise (65 + 2 * n)) :=
    parked_out (stop_parked n b 4 s hn lands hd) (outCh_raise ..)
  unfold halted
  dsimp only
  split
  · refine ⟨Eq.trans ?_ state, fun hd => parked_out (parked hd) ?_⟩
    · unfold veState
      rw [rd_flag_other _ (by simp only [VEN.STATE, DBG.EVFLAGS]; omega), rd_modTgt]
    · exact flag_outCh ..
  · exact ⟨state, parked⟩

theorem haltTakesEffect_gives (hn : n < 32) (ends : endsAt n (veBoundary n s) s = true)
    (halt : Machine.due (s.veOf n).haltAt (veBoundary n s) = true) (sound : (faultAt n (veBoundary n s) s).2 = none)
    (stop : Machine.due (s.veOf n).stopAt (veBoundary n s) = false) (lands : (s.veOf n).lands = []) :
    Gives (.veHaltTakesEffect n) s fun t => veState n t = 4 ∧
      (((outMap n s).map (·.2)).Nodup → Parked n (veBoundary n s) s t) := by
  refine ⟨halted n (veBoundary n s) s, (unitNext hn).trans (congrArg _ ?_), halted_facts _ hn lands⟩
  dsimp only
  rw [if_pos ⟨ends, halt⟩]
  generalize hr : faultAt n (veBoundary n s) s = r at sound
  obtain ⟨r, c⟩ := r
  subst sound
  dsimp only
  rw [stop]
  rfl

theorem stopped_facts (b : Nat) (hn : n < 32) (lands : (s.veOf n).lands = []) :
    veState n ((veStopAt n b 5 s).raise (64 + 2 * n)) = 5 ∧
      (((outMap n s).map (·.2)).Nodup → Parked n b s ((veStopAt n b 5 s).raise (64 + 2 * n))) :=
  ⟨(raise_state ..).trans (stopN n b 5 s (by decide) (by decide)), fun hd => parked_out (stop_parked n b 5 s hn lands hd) (outCh_raise ..)⟩

theorem issuing_of_endsAt {b : Nat} (ends : endsAt n b s = true) : issuing n s = true ∧ releaseDue n b s = false := by
  simpa [endsAt] using ends

theorem stopTakesEffect_gives {h : Nat} (hn : n < 32) (ends : endsAt n (veBoundary n s) s = true) (stop : (s.veOf n).stopAt = some h)
    (due : h ≤ veBoundary n s) (sound : (faultAt n (veBoundary n s) s).2 = none) (lands : (s.veOf n).lands = []) :
    Gives (.veStopTakesEffect n) s fun t => veState n t = 5 ∧
      (((outMap n s).map (·.2)).Nodup → Parked n (veBoundary n s) s t) := by
  obtain ⟨issues, held⟩ := issuing_of_endsAt ends
  refine ⟨_, (unitNext hn).trans (congrArg _ ?_), stopped_facts (veBoundary n s) hn lands⟩
  rw [stop]
  dsimp only
  rw [if_pos issues, if_pos ⟨due, held⟩]
  generalize hr : faultAt n (veBoundary n s) s = r at sound
  obtain ⟨r, c⟩ := r
  subst sound
  rfl

theorem not_issuing_of_halted (st : veState n s = 4) : issuing n s = false := by simp [issuing, st]

theorem stopHalted_gives {h : Nat} (hn : n < 32) (st : veState n s = 4) (stop : (s.veOf n).stopAt = some h)
    (lands : (s.veOf n).lands = []) : Gives (.veStopTakesEffect n) s fun t => veState n t = 5 := by
  refine ⟨_, (unitNext hn).trans (congrArg _ ?_), (stopped_facts (veGridFrom n h s) hn lands).1⟩
  rw [stop]
  dsimp only
  rw [if_neg (ne_true_of_eq_false (not_issuing_of_halted st)), if_pos st]

theorem haltWord_gives {h : Nat} (smp : Samples) (hn : n < 32) (st : veState n s = 3) (ends : (s.veOf n).endAt = some h)
    (lands : (s.veOf n).lands = []) : Gives (.veHaltWord n smp) s fun t => veState n t = 5 := by
  refine ⟨_, ?_, (stopped_facts h hn lands).1⟩
  show execVeHaltWord n smp s = _
  unfold execVeHaltWord
  rw [st, ends]
  exact unitNext hn

/-- VEn goes on from boundary b. -/
def goesOn (n b : Nat) (s : State) : State :=
  let left := max ((s.upto b).rd (VEN.PTO_LEFT n)) 65536
  veEnter n 3 ((s.upto b).modVe n fun e =>
    { e with resumeAt := none, runOn := b, base := b, cyc0 := e.cyc, bar := e.bar.map fun x => (x.1, b),
             ptoEnd := if e.limited then some ((b / 8192 + left) * 8192) else none })

theorem goesOn_state (b : Nat) : veState n (goesOn n b s) = 3 := enter_state n 3 _ fun armed => absurd armed.2 (by decide)

theorem resumeLands_gives {h : Nat} (hn : n < 32) (st : veState n s = 4) (resume : (s.veOf n).resumeAt = some h) :
    Gives (.veResumeLands n) s fun t => veState n t = 3 := by
  have next : exec (.veResumeLands n) s = .next (match ((goesOn n (veGridFrom n h s) s).veOf n).bar with
      | some x => arrive n x.1 (veGridFrom n h s) (goesOn n (veGridFrom n h s) s)
      | none => goesOn n (veGridFrom n h s) s) := by
    refine (unitNext hn).trans (congrArg _ ?_)
    rw [resume]
    dsimp only
    rw [if_pos st]
    rfl
  refine ⟨_, next, ?_⟩
  split
  · exact (frq (k := VEN.STATE n) (f := arrive n _ _) (arrive_fr n _ _ _ (fr_refl _))).trans (goesOn_state _)
  · exact goesOn_state _

/-! A batch that lands on a running engine. -/

theorem lands_regrid (t : Nat) : ((regrid n t s).veOf n).lands = (s.veOf n).lands := by
  suffices h : KeepsVeLand (fun e : VeRun => (e.lands, e.stack)) n s (regrid n t s) from congrArg (·.1) h
  refine keepsVeLand_foldl (fun u m hu => ?_) rfl
  dsimp only
  split
  · exact hu
  · exact keepsVeLand_ite (failNaming_keepsVeLand n m t u hu) hu

theorem rd_siteNoted (t v k : Nat) : (siteNoted n t v s).rd k = s.rd k := frq (f := siteNoted n t v) (siteNoted_fr n t v s (fr_refl s))

theorem lands_siteNoted (t v : Nat) : ((siteNoted n t v s).veOf n).lands = (s.veOf n).lands := by
  unfold siteNoted
  split
  · rfl
  · rw [veOf_modVe]

/-- The members of a batch take their values. -/
def write (l : List Staged) (s : State) : State := l.foldl (fun s e => s.wr e.key e.val) s

theorem rd_write_last (l : List Staged) (e : Staged) : (write (l ++ [e]) s).rd e.key = e.val := by
  unfold write
  rw [List.foldl_append]
  exact rd_wr_same ..

theorem veOf_write (m : Nat) : ∀ (l : List Staged) (s : State), (write l s).veOf m = s.veOf m
  | [], _ => rfl
  | e :: l, s => (veOf_write m l (s.wr e.key e.val)).trans (veOf_wr ..)

/-- The record of the batch that lands at t is dropped, and the grid begins anew at b. -/
def rebased (n t b : Nat) (s : State) : State :=
  s.modVe n fun e => { e with base := b, cyc0 := e.cyc, lands := e.lands.filter fun l => !(Nat.ble l.1 t) }

theorem lands_rebased {t : Nat} (b : Nat) : ∀ x ∈ ((rebased n t b s).veOf n).lands, t < x.1 := by
  unfold rebased
  rw [veOf_modVe]
  intro x hx
  have later : Nat.ble x.1 t = false := by simpa using (List.mem_filter.1 hx).2
  exact Nat.lt_of_not_le fun le => Bool.false_ne_true (later.symm.trans (Nat.ble_eq_true_of_le le))

theorem landTo_of_due {t b : Nat} (due : landDue n t s = true) : ∃ u, landTo n t b s =
    regrid n b (((siteNoted n b (u.rd (VEN.SITE_TAG n)) (write (landsBy n t s) (rebased n t b u))).wr (VEN.LAND_CYCLE n)
      ((siteNoted n b (u.rd (VEN.SITE_TAG n)) (write (landsBy n t s) (rebased n t b u))).veOf n).cyc)) := by
  unfold landTo
  rw [if_pos due]
  exact ⟨if landsFcp n t s then closeMark n (engEdge b) s else s, rfl⟩

theorem landTo_facts {t b : Nat} {l : List Staged} {e : Staged} (due : landDue n t s = true) (last : landsBy n t s = l ++ [e])
    (key : e.key ≠ VEN.LAND_CYCLE n) : (landTo n t b s).rd e.key = e.val ∧ (landTo n t b s).rd (VEN.LAND_CYCLE n) = (s.veOf n).cyc ∧
    ∀ x ∈ ((landTo n t b s).veOf n).lands, t < x.1 := by
  have cyc : ((landTo n t b s).veOf n).cyc = (s.veOf n).cyc := landTo_keepsVeLines (nn := n) (s0 := s) n t b s rfl
  obtain ⟨u, eq⟩ := landTo_of_due (b := b) due
  rw [eq] at cyc ⊢
  refine ⟨?_, ?_, ?_⟩
  · rw [regrid_rd, rd_wr_other _ key, rd_siteNoted, last, rd_write_last]
  · rw [regrid_rd, rd_wr_same, ← cyc]
    refine Eq.symm ((regrid_keepsVeLines (nn := n) n b _ rfl).trans ?_)
    rw [veOf_wr]
  · rw [lands_regrid, veOf_wr, lands_siteNoted, veOf_write]
    exact lands_rebased b

theorem applyLands_gives {l : List Staged} {e : Staged} (hn : n < 32) (issues : issuing n s = true)
    (due : landDue n (veBoundary n s) s = true) (last : landsBy n (veBoundary n s) s = l ++ [e]) (key : e.key ≠ VEN.LAND_CYCLE n) :
    Gives (.applyLandsRunning n) s fun t => t.rd e.key = e.val ∧ t.rd (VEN.LAND_CYCLE n) = (s.veOf n).cyc ∧
      ∀ x ∈ (t.veOf n).lands, veBoundary n s < x.1 := by
  refine ⟨landTo n (veBoundary n s) (veBoundary n s) (s.upto (veBoundary n s - 18 * ticksPerNs)), (unitNext hn).trans (congrArg _ ?_),
    landTo_facts (s := s.upto (veBoundary n s - 18 * ticksPerNs)) due last key⟩
  exact if_pos ⟨issues, due⟩

/-- Settles O22: each event by the boundary or edge at which it takes effect. -/
theorem veEventsComplete : Obligations.VeEventsComplete := fun _ _ hn =>
  ⟨fun _ => startEdge_gives hn, fun pass => selfcheckEnd_gives pass hn, barrierError_gives hn, patternTimeout_gives hn,
    haltTakesEffect_gives hn, fun _ => stopTakesEffect_gives hn, fun _ => stopHalted_gives hn, fun _ smp => haltWord_gives smp hn,
    fun _ => resumeLands_gives hn, fun _ _ => applyLands_gives hn⟩

end Sys2Proof.Proofs.VeEvent
end

section
/-! What the way of a packet through the mesh leaves alone: the probes and the checks of its links change flags, counts, events and
the trace buffer (11_mesh.md). -/
namespace Sys2Proof.Proofs.MeshWay
open Sys2Proof.Machine Sys2Proof.Laws Common

/-- t is s but for its members, its events and its trace buffer. -/
def Noted (s t : State) : Prop := t = { s with reg := t.reg, evq := t.evq, fresh := t.fresh, trace := t.trace }

variable {s t u : State}

theorem Noted.refl (s : State) : Noted s s := rfl
theorem Noted.trans (h : Noted s t) (g : Noted t u) : Noted s u := by
  unfold Noted at *
  rw [g, h]
/-- Whatever does not look at members, events or the trace buffer reads the same. -/
theorem Noted.field {α : Type} {f : State → α} (h : Noted s t) (hf : ∀ (u : State) reg evq fresh trace,
    f { u with reg := reg, evq := evq, fresh := fresh, trace := trace } = f u) : f t = f s :=
  (congrArg f (show t = _ from h)).trans (hf ..)
theorem Noted.foldl {α : Type} {f : State → α → State} (hf : ∀ s x, Noted s (f s x)) : ∀ (l : List α) (s : State), Noted s (l.foldl f s)
  | [], s => .refl s
  | x :: l, s => (hf s x).trans (Noted.foldl hf l _)
theorem noted_wr (k v : Nat) : Noted s (s.wr k v) := rfl
theorem noted_addTo (w k d : Nat) : Noted s (s.addTo w k d) := rfl
theorem noted_bump (w k : Nat) : Noted s (s.bump w k) := rfl
theorem noted_trace (l : List Nat) : Noted s { s with trace := l } := rfl
theorem noted_note (k b : Nat) : Noted s (s.note k b) := rfl
theorem noted_raise (e : Nat) : Noted s (s.raise e) := by
  unfold State.raise State.raiseAt
  split
  · exact rfl
  · exact .refl s
theorem noted_setBit (k b : Nat) (v : Bool) : Noted s (s.setBit k b v) := by
  unfold State.setBit
  split
  · exact noted_wr ..
  · split
    · exact noted_wr ..
    · exact .refl s
theorem noted_flag (k b e : Nat) : Noted s (s.flag k b e) := by
  unfold State.flag
  dsimp only
  split
  · exact noted_note ..
  · split
    · exact (noted_note k b).trans (noted_setBit ..)
    · exact ((noted_note k b).trans (noted_setBit ..)).trans (noted_raise e)

theorem noted_traceWrite (p : Nat) (k : Packet) (s : State) : Noted s (traceWrite p k s) := by
  unfold traceWrite
  dsimp only
  split
  · exact noted_trace _
  · split
    · exact (noted_bump ..).trans (noted_trace _)
    · exact (noted_bump ..).trans (noted_flag ..)
theorem noted_probesSee (k : Packet) (s : State) : Noted s (probesSee k s) := by
  refine Noted.foldl (fun s p => ?_) _ s
  dsimp only
  split
  · have counted : Noted s ((s.bump 64 (MSH.PPKTS p)).addTo 64 (MSH.PFLITS p) (1 + k.flits)) := (noted_bump ..).trans (noted_addTo ..)
    split
    · exact counted.trans (noted_traceWrite ..)
    · exact counted
  · exact .refl s
theorem noted_flitNoted (p : List Nat) (s : State) (f : Flit) : Noted s (flitNoted p s f) := by
  cases f <;> (unfold flitNoted; dsimp only; split)
  · exact (noted_bump ..).trans (noted_flag ..)
  · exact .refl s
  · exact (noted_bump ..).trans (noted_flag ..)
  · exact .refl s
theorem noted_flitsNoted (p : List Nat) (fl : List Flit) (s : State) : Noted s (flitsNoted p fl s) :=
  Noted.foldl (noted_flitNoted p) fl s

/-- The responses with that of x as it arrived, at the front. -/
def returned (fl : List Flit) (x : MeshResp) (s : State) : State := { s with resps := arrived fl x s :: s.resps.erase x }

theorem noted_noteReturn (fl : List Flit) (x : MeshResp) (s : State) : Noted (returned fl x s) (noteReturn fl x s) := by
  unfold noteReturn
  refine Noted.trans ?_ (noted_flitsNoted ..)
  split
  · exact .refl _
  · exact noted_probesSee _ (returned fl x s)

theorem ve_noteReturn (fl : List Flit) (x : MeshResp) (s : State) : (noteReturn fl x s).ve = s.ve :=
  (noted_noteReturn fl x s).field (f := State.ve) fun _ _ _ _ _ => rfl
theorem mem_noteReturn (fl : List Flit) (x : MeshResp) (s : State) : (noteReturn fl x s).mem = s.mem :=
  (noted_noteReturn fl x s).field (f := State.mem) fun _ _ _ _ _ => rfl
theorem sqOf_noteReturn (fl : List Flit) (x : MeshResp) (s : State) (q : Nat) : (noteReturn fl x s).sqOf q = s.sqOf q :=
  (noted_noteReturn fl x s).field (f := fun s => s.sqOf q) fun _ _ _ _ _ => rfl

/-- The members of the units below the mesh stand as they were. -/
theorem rd_noteReturn {k : Nat} (fl : List Flit) (x : MeshResp) (s : State) (h : k < 0xC00000) : (noteReturn fl x s).rd k = s.rd k := by
  refine (CompleteMirror.noteReturn_facts fl x s).2.2 k (fun listed => ?_) fun i => ⟨?_, ?_, ?_, ?_⟩
  · simp only [List.mem_cons, List.not_mem_nil, or_false, MSH.EVFLAGS, MSH.TLOST] at listed
    omega
  all_goals simp only [MSH.PFLITS, MSH.PPKTS, MSH.LINK_CE, MSH.LINK_UE]; omega

/-- A response that can return is taken by its source once its way is noted. -/
theorem returnBy_of_can {done : MeshResp → State → State} {fl : List Flit} {x : MeshResp} {s : State} (h : canReturn x s = true) :
    returnBy done fl x s = done (arrived fl x s) (noteReturn fl x s) := if_pos h

/-- A request sent changes the requests, the responses and the labels of requests. -/
theorem meshSend_only (r : MeshReq) (s : State) : ∃ reqs resps labels ctr,
    meshSend r s = { s with reqs := reqs, resps := resps, labels := labels, freeCtr := ctr } := by
  unfold meshSend
  split
  · exact ⟨_, _, _, _, rfl⟩
  · split <;> exact ⟨_, _, _, _, rfl⟩
theorem veOf_meshSend (r : MeshReq) (s : State) (n : Nat) : (meshSend r s).veOf n = s.veOf n := by
  obtain ⟨_, _, _, _, h⟩ := meshSend_only r s
  rw [h]
  rfl
theorem fcpOf_meshSend (r : MeshReq) (s : State) (n : Nat) : (meshSend r s).fcpOf n = s.fcpOf n := by
  obtain ⟨_, _, _, _, h⟩ := meshSend_only r s
  rw [h]
  rfl

theorem reqs_meshSend {r : MeshReq} (s : State) (h : regionOf r.addr s ≠ 6) : (meshSend r s).reqs = s.reqs ++ [r] := by
  unfold meshSend
  rw [if_neg h]
  split <;> rfl

end Sys2Proof.Proofs.MeshWay
end

section
/-! The faults of a word and the decisions of a vector engine (03_vector_engines.md R83, R87 to R95, R105). -/
namespace Sys2Proof.Proofs.VeDecision
open Sys2Proof.Machine Sys2Proof.Laws Common CompleteVe CompletePins CompleteChoose

variable {n a c w : Nat} {smp : Samples} {s u : State}

/-! A fault that the decision finds. -/

theorem lands_of_decide {b : Nat} {d : Decided} (dec : decideNext n (s.upto b) = (u, d)) : (u.veOf n).lands = (s.veOf n).lands := by
  have kept := decideNext_keepsVeRun (nn := n) (s0 := s) n (s.upto b) rfl
  rw [dec] at kept
  exact congrArg (·.2.2.1) kept

/-- A word command whose decision finds a fault ends the run, whichever word it names. -/
theorem wordCommand_faults {i : Instr} {opc : Nat} {act : Nat → Nat → Nat → Bool → State → State} (hn : n < 32)
    (issues : issuing n s = true) (free : blocked n (veBoundary n s) s = false) (lands : (s.veOf n).lands = [])
    (dec : decideNext n (s.upto (veBoundary n s - 18 * ticksPerNs)) = (u, .fault c a))
    (he : exec i s = wordCommand n opc smp act s) : Gives i s (VeFaulted n c a) := by
  refine ⟨veFault n (veBoundary n s) c a u, he.trans ?_, fault_facts n _ c a u hn ((lands_of_decide dec).trans lands)⟩
  unfold wordCommand
  rw [unitNext hn]
  dsimp only
  rw [if_neg (by simp [issues, free]), dec]

theorem execVeHaltWord_of_issuing (issues : issuing n s = true) : execVeHaltWord n smp s =
    wordCommand n 13 smp (fun _ _ _ _ s => s.modVe n fun e => { e with endAt := some (veBoundary n s) }) s := by
  have open' : (s.veOf n).endAt = none := by
    have h : (s.veOf n).endAt.isNone = true := by
      unfold issuing at issues
      exact (Bool.and_eq_true _ _ ▸ issues).2
    exact Option.isNone_iff_eq_none.1 h
  unfold execVeHaltWord
  rw [open']
  split
  · cases ‹none = some _›
  · rfl

theorem words_fault (hn : n < 32) (issues : issuing n s = true) (free : blocked n (veBoundary n s) s = false)
    (lands : (s.veOf n).lands = []) (dec : decideNext n (s.upto (veBoundary n s - 18 * ticksPerNs)) = (u, .fault c a)) :
    ∀ i ∈ [Instr.vec n smp, .rpt n smp, .veLdc n smp, .loop n smp, .veJmp n smp, .call n smp, .ret n smp, .jc n smp, .clrf n smp,
      .mbeg n smp, .matchEnd n smp, .bar n smp, .veEvt n smp, .veHaltWord n smp], Gives i s (VeFaulted n c a) := by
  have faults {i : Instr} {opc : Nat} {act : Nat → Nat → Nat → Bool → State → State}
      (he : exec i s = wordCommand n opc smp act s) : Gives i s (VeFaulted n c a) := wordCommand_faults hn issues free lands dec he
  simp only [List.forall_mem_cons]
  exact ⟨faults (show execVec n smp s = _ from rfl), faults (show execRpt n smp s = _ from rfl), faults (show execVeLdc n smp s = _ from rfl),
    faults (show execLoop n smp s = _ from rfl), faults (show execVeJmp n smp s = _ from rfl), faults (show execCall n smp s = _ from rfl),
    faults (show execRet n smp s = _ from rfl), faults (show execJc n smp s = _ from rfl), faults (show execClrf n smp s = _ from rfl),
    faults (show execMbeg n smp s = _ from rfl), faults (show execMatchEnd n smp s = _ from rfl), faults (show execBar n smp s = _ from rfl),
    faults (show execVeEvt n smp s = _ from rfl), faults (show execVeHaltWord n smp s = _ from execVeHaltWord_of_issuing issues),
    List.forall_mem_nil _⟩

/-! The decision for the next cycle. -/

/-- The transfers of the boundary are at least 1 ns apart. -/
def Far (n : Nat) (s : State) : Prop := ∀ x, (s.veOf n).lastXfer = some x → x + ticksPerNs ≤ veBoundary n s
/-- The last transfer lies less than 1 ns before the boundary. -/
def Near (n : Nat) (s : State) : Prop := ∃ x, (s.veOf n).lastXfer = some x ∧ veBoundary n s < x + ticksPerNs

theorem res_of_eq {r : State} {o : Option Nat} (h : resolve n (veKnows n s) = (r, o)) : Res n s r o := by
  have res := res_of n s
  rwa [h] at res

theorem veKnows_fields : ((veKnows n s).veOf n).after = (s.veOf n).after ∧ ((veKnows n s).veOf n).cyc = (s.veOf n).cyc ∧
    ((veKnows n s).veOf n).stack = (s.veOf n).stack := by
  obtain ⟨-, -, -, fields, -⟩ := knows_facts n s
  exact ⟨congrArg (fun g => g.2.2.2.1) fields, congrArg (fun g => g.1) fields, congrArg (fun g => g.2.2.2.2.2.2.1) fields⟩

theorem res_seq (after : (s.veOf n).after = .seq) : Res n s (veKnows n s) none := by
  refine res_of_eq ?_
  unfold resolve
  rw [veKnows_fields.1, after]

theorem res_goto {d : Nat} (after : (s.veOf n).after = .goto d) : Res n s (veKnows n s) (some d) := by
  refine res_of_eq ?_
  unfold resolve
  rw [veKnows_fields.1, after]

theorem res_jc {d : Nat} (after : (s.veOf n).after = .jc c d) :
    Res n s (veKnows n s) (if condHolds n c (veKnows n s) then some d else none) := by
  refine res_of_eq ?_
  unfold resolve
  rw [veKnows_fields.1, after]

theorem res_matchEnd (after : (s.veOf n).after = .matchEnd) :
    Res n s (decideMatch n (s.veOf n).cyc (veKnows n s)).1 (decideMatch n (s.veOf n).cyc (veKnows n s)).2 := by
  refine res_of_eq ?_
  unfold resolve
  rw [veKnows_fields.1, after, veKnows_fields.2.1]

/-- A VEC follows at the address a that the decision chose, and keeps the flags and the loop that it left. -/
theorem vec_follows {r : State} {o : Option Nat} (h : VeChooses n s) (res : Res n s r o) (far : o ≠ none → Far n s)
    (vec : VecAt n (o.getD (s.veOf n).next) w s) : Gives (.vec n smp) s fun t => VeIssued n (o.getD (s.veOf n).next) s t ∧
      (∀ k, t.bit (VEN.FLAGS n) k = r.bit (VEN.FLAGS n) k) ∧ (t.veOf n).loop = (r.veOf n).loop := by
  obtain ⟨t, next, issued, flags, loop⟩ :=
    vec_goes (smp := smp) h res rfl (fun some' => far (Option.isSome_iff_ne_none.1 some')) vec
  exact ⟨t, next, issued, fun k => bit_of_rd flags, loop⟩

theorem vec_faults (h : VeChooses n s) (dec : decideNext n (s.upto (veBoundary n s - 18 * ticksPerNs)) = (u, .fault c a)) :
    Gives (.vec n smp) s (VeFaulted n c a) := by
  obtain ⟨hn, issues, free, lands, -⟩ := h
  exact wordCommand_faults hn issues free lands dec (show execVec n smp s = _ from rfl)

/-- A second taken transfer within 1 ns. -/
theorem near_faults {r : State} {d : Nat} (h : VeChooses n s) (res : Res n s r (some d)) (near : Near n s) :
    Gives (.vec n smp) s (VeFaulted n 5 d) := by
  obtain ⟨x, last, soon⟩ := near
  have dec := choose_eq h res
  dsimp only at dec
  rw [last, if_pos (by simpa using soon)] at dec
  exact vec_faults h dec

/-- Without a transfer the next word is judged where it stands. -/
theorem choose_seq (h : VeChooses n s) (after : (s.veOf n).after = .seq) :
    decideNext n (s.upto (veBoundary n s - 18 * ticksPerNs)) =
      (let z := goTo n (veBoundary n s) (veKnows n s) none (s.veOf n).next
       match fetchWord n (s.veOf n).next s with
        | .error c => (z, .fault c (s.veOf n).next)
        | .ok w => match wordFault n w z with
          | some c => (z, .fault c (s.veOf n).next)
          | none => match apgNeed n (veBoundary n s) w z with
            | some none => (z, .fault 8 (s.veOf n).next)
            | _ => (z, .word w (s.veOf n).next true)) := choose_eq h (res_seq after)

theorem fetch_faults (h : VeChooses n s) (after : (s.veOf n).after = .seq) (fetch : fetchWord n (s.veOf n).next s = .error c) :
    Gives (.vec n smp) s (VeFaulted n c (s.veOf n).next) := by
  have dec := choose_seq h after
  rw [fetch] at dec
  exact vec_faults h dec

theorem word_faults (h : VeChooses n s) (after : (s.veOf n).after = .seq) (fetch : fetchWord n (s.veOf n).next s = .ok w)
    (bad : wordFault n w (goTo n (veBoundary n s) (veKnows n s) none (s.veOf n).next) = some c) :
    Gives (.vec n smp) s (VeFaulted n c (s.veOf n).next) := by
  have dec := choose_seq h after
  rw [fetch] at dec
  dsimp only at dec
  rw [bad] at dec
  exact vec_faults h dec

theorem goTo_fields {r : State} {b : Nat} {o : Option Nat} : ((goTo n b r o a).veOf n).stack = (r.veOf n).stack ∧
    ((goTo n b r o a).veOf n).loop = (r.veOf n).loop := by
  unfold goTo
  rw [veOf_modVe]
  exact ⟨rfl, rfl⟩

/-- The stack that the fetched word finds. -/
theorem stack_fetched : ((goTo n (veBoundary n s) (veKnows n s) none (s.veOf n).next).veOf n).stack = (s.veOf n).stack :=
  goTo_fields.1.trans veKnows_fields.2.2

theorem loop_fetched : ((goTo n (veBoundary n s) (veKnows n s) none (s.veOf n).next).veOf n).loop = none ↔ (s.veOf n).loop = none := by
  rw [goTo_fields.2]
  exact (knows_facts n s).2.2.2.2

theorem words_refused (h : VeChooses n s) (after : (s.veOf n).after = .seq) (fetch : fetchWord n (s.veOf n).next s = .ok w) :
    (wInvalid w = true → Gives (.vec n smp) s (VeFaulted n 1 (s.veOf n).next)) ∧
    (wInvalid w = false →
      (wOpc w = 5 → 16 ≤ (s.veOf n).stack.length → Gives (.vec n smp) s (VeFaulted n 2 (s.veOf n).next)) ∧
      (wOpc w = 6 → (s.veOf n).stack = [] → Gives (.vec n smp) s (VeFaulted n 3 (s.veOf n).next)) ∧
      (wOpc w = 9 → (s.veOf n).loop ≠ none → Gives (.vec n smp) s (VeFaulted n 9 (s.veOf n).next)) ∧
      (wOpc w = 10 → (s.veOf n).loop = none → Gives (.vec n smp) s (VeFaulted n 9 (s.veOf n).next))) := by
  refine ⟨fun invalid => word_faults h after fetch ?_, fun valid => ⟨fun opc full => word_faults h after fetch ?_,
    fun opc empty => word_faults h after fetch ?_, fun opc inside => word_faults h after fetch ?_,
    fun opc outside => word_faults h after fetch ?_⟩⟩ <;> unfold wordFault
  · rw [if_pos invalid]
  · simp [valid, opc, stack_fetched, full]
  · simp [valid, opc, stack_fetched, empty]
  · simp [valid, opc, Option.isSome_iff_ne_none, loop_fetched, inside]
  · simp [valid, opc, loop_fetched, outside]

/-! What the decision knows, and the ways it goes. -/

theorem flags_known :
    ((veKnows n s).bit (VEN.FLAGS n) 1 = (s.bit (VEN.FLAGS n) 1 || (s.veOf n).cmps.any fun x => x.bad && !x.masked &&
      decide (x.ts + 24 * ticksPerNs ≤ veBoundary n s) && decide ((s.veOf n).clrf ≤ x.cyc))) ∧
    ((veKnows n s).bit (VEN.FLAGS n) 2 = (s.bit (VEN.FLAGS n) 2 || (s.veOf n).cmps.any fun x => x.bad && !x.masked &&
      decide (x.ts + 24 * ticksPerNs ≤ veBoundary n s))) ∧
    (veKnows n s).bit (VEN.FLAGS n) 3 = s.bit (VEN.FLAGS n) 3 ∧ (veKnows n s).bit (VEN.FLAGS n) 4 = s.bit (VEN.FLAGS n) 4 := by
  obtain ⟨known, -⟩ := knows_facts n s
  refine ⟨(known 1).trans (by simp), (known 2).trans (by simp), (known 3).trans (by simp), (known 4).trans (by simp)⟩

/-- The flags FAIL and FAIL_RUN in t as the decision in s knows them. -/
def SameFlags (n : Nat) (s t : State) : Prop :=
  t.bit (VEN.FLAGS n) 1 = (veKnows n s).bit (VEN.FLAGS n) 1 ∧ t.bit (VEN.FLAGS n) 2 = (veKnows n s).bit (VEN.FLAGS n) 2

/-- A VEC at a is issued next, and P holds of what it leaves. -/
def GoesTo (n : Nat) (smp : Samples) (s : State) (a : Nat) (P : State → Prop) : Prop :=
  ∀ w, VecAt n a w s → Gives (.vec n smp) s fun t => VeIssued n a s t ∧ P t

theorem goesTo_of_res {o : Option Nat} (h : VeChooses n s) (res : Res n s (veKnows n s) o) (far : o ≠ none → Far n s) :
    GoesTo n smp s (o.getD (s.veOf n).next) (SameFlags n s) := fun _ vec =>
  (vec_follows h res far vec).imp fun _ ⟨next, issued, flags, _⟩ => ⟨next, issued, flags 1, flags 2⟩

/-- What a JC tests. -/
def jcHolds (n c : Nat) (u : State) : Bool :=
  [u.bit (VEN.FLAGS n) 1, !(u.bit (VEN.FLAGS n) 1), u.bit (VEN.FLAGS n) 4, !(u.bit (VEN.FLAGS n) 4), u.bit (VEN.FLAGS n) 3,
    !(u.bit (VEN.FLAGS n) 3)].getD c false

theorem condHolds_eq (hc : c < 6) : condHolds n c u = jcHolds n c u := by
  interval_cases c <;> rfl

theorem jc_decides {d : Nat} (h : VeChooses n s) (after : (s.veOf n).after = .jc c d) (hc : c < 6) :
    (jcHolds n c (veKnows n s) = true → Far n s → GoesTo n smp s d (SameFlags n s)) ∧
    (jcHolds n c (veKnows n s) = true → Near n s → Gives (.vec n smp) s (VeFaulted n 5 d)) ∧
    (jcHolds n c (veKnows n s) = false → GoesTo n smp s (s.veOf n).next (SameFlags n s)) := by
  have res := res_jc after
  rw [condHolds_eq hc] at res
  refine ⟨fun holds far => ?_, fun holds near => ?_, fun fails => ?_⟩
  · rw [if_pos holds] at res
    exact goesTo_of_res h res fun _ => far
  · rw [if_pos holds] at res
    exact near_faults h res near
  · rw [if_neg (ne_true_of_eq_false fails)] at res
    exact goesTo_of_res h res (absurd rfl ·)

/-- The iterations of a loop when MATCH decides for cycle c. -/
def stoppedAt (c : Nat) (l : MLoop) : List Iter := l.iters.map fun i => { i with stop := some (i.stop.getD c) }

theorem closeLoop_facts (timeout : Bool) : ((closeLoop n timeout u).veOf n).loop = none ∧ (closeLoop n timeout u).bit (VEN.FLAGS n) 5 = false ∧
    (closeLoop n timeout u).bit (VEN.FLAGS n) 4 = timeout := by
  unfold closeLoop
  refine ⟨?_, ?_, bit_setBit_eq ..⟩
  · rw [veOf_setBit, veOf_setBit, veOf_modVe]
  · exact (bit_setBit_other _ (by decide) _).trans (bit_setBit_eq ..)

/-- MATCH leaves its loop when an iteration passed or at its timeout. -/
theorem match_leaves {timeout : Bool} (h : VeChooses n s) (after : (s.veOf n).after = .matchEnd)
    (dec : decideMatch n (s.veOf n).cyc (veKnows n s) = (closeLoop n timeout (veKnows n s), none)) :
    GoesTo n smp s (s.veOf n).next fun t => (t.veOf n).loop = none ∧ t.bit (VEN.FLAGS n) 5 = false ∧ t.bit (VEN.FLAGS n) 4 = timeout := by
  have res := res_matchEnd after
  rw [dec] at res
  obtain ⟨loop, inside, mto⟩ := closeLoop_facts (n := n) (u := veKnows n s) timeout
  intro w vec
  refine (vec_follows h res (absurd rfl ·) vec).imp fun t ⟨next, issued, flags, loop'⟩ => ⟨next, issued, loop'.trans loop, ?_, ?_⟩
  · rw [flags, inside]
  · rw [flags, mto]

theorem decideMatch_of_passed {l : MLoop} (loop : (u.veOf n).loop = some l) (passed : (stoppedAt c l).any (iterPassed (u.veOf n).cmps) = true) :
    decideMatch n c u = (closeLoop n false u, none) := by
  unfold decideMatch
  rw [loop]
  exact if_pos passed

theorem decideMatch_of_timeout {l : MLoop} (loop : (u.veOf n).loop = some l)
    (failed : (stoppedAt c l).any (iterPassed (u.veOf n).cmps) = false) (late : l.c0 + l.t ≤ c) :
    decideMatch n c u = (closeLoop n true u, none) := by
  unfold decideMatch
  rw [loop]
  exact (if_neg (ne_true_of_eq_false failed)).trans (if_pos late)

/-- MATCH goes back to the body of its loop. -/
def again (n c : Nat) (l : MLoop) (u : State) : State :=
  u.modVe n fun e => { e with loop := some { l with iters := ((stoppedAt c l).filter fun i => !i.bad) ++ [⟨c, none, false⟩] } }

theorem decideMatch_of_failed {l : MLoop} (loop : (u.veOf n).loop = some l)
    (failed : (stoppedAt c l).any (iterPassed (u.veOf n).cmps) = false) (inTime : c < l.c0 + l.t) :
    decideMatch n c u = (again n c l u, some l.body) := by
  unfold decideMatch
  rw [loop]
  exact (if_neg (ne_true_of_eq_false failed)).trans (if_neg (Nat.not_le.2 inTime))

theorem match_returns {l : MLoop} (h : VeChooses n s) (after : (s.veOf n).after = .matchEnd)
    (dec : decideMatch n (s.veOf n).cyc (veKnows n s) = (again n (s.veOf n).cyc l (veKnows n s), some l.body)) (far : Far n s) :
    GoesTo n smp s l.body fun t => t.bit (VEN.FLAGS n) 4 = s.bit (VEN.FLAGS n) 4 ∧ (t.veOf n).loop =
      some { l with iters := ((stoppedAt (s.veOf n).cyc l).filter fun i => !i.bad) ++ [⟨(s.veOf n).cyc, none, false⟩] } := by
  have res := res_matchEnd after
  rw [dec] at res
  intro w vec
  refine (vec_follows h res (fun _ => far) vec).imp fun t ⟨next, issued, flags, loop⟩ => ⟨next, issued, ?_, ?_⟩
  · rw [flags, bit_of_rd (s := veKnows n s) (by rw [again, rd_modVe])]
    exact flags_known.2.2.2
  · rw [loop, again, veOf_modVe]

end Sys2Proof.Proofs.VeDecision
end
section
/-! The release of a barrier, line reads of a vector buffer, and with the decisions of an engine the whole of O23
(03_vector_engines.md R97; 04_vector_data_apg.md R120 to R126). -/
namespace Sys2Proof.Proofs.VeFaultBarrierLine
open Sys2Proof.Machine Sys2Proof.Laws Common CompleteVe CompleteVeEvents MeshWay VeDecision

variable {n mask : Nat} {s : State}

/-- No engine of the mask waits at its barrier any more. -/
def releaseOne (mask : Nat) (s : State) (m : Nat) : State :=
  if mask.testBit m then (s.modVe m fun e => { e with bar := none }).setBit (VEN.FLAGS m) 6 false else s

/-- VEn waits at no barrier. -/
def Free (n : Nat) (s : State) : Prop := (s.veOf n).bar = none ∧ s.bit (VEN.FLAGS n) 6 = false

theorem free_releaseOne_self (member : mask.testBit n = true) : Free n (releaseOne mask s n) := by
  unfold releaseOne
  rw [if_pos member]
  exact ⟨by rw [veOf_setBit, veOf_modVe], bit_setBit_eq ..⟩

theorem free_releaseOne {m : Nat} (free : Free n s) (member : mask.testBit n = true) : Free n (releaseOne mask s m) := by
  by_cases same : m = n
  · exact same ▸ free_releaseOne_self (same ▸ member)
  obtain ⟨bar, waits⟩ := free
  unfold releaseOne
  split
  · refine ⟨?_, ?_⟩
    · rw [veOf_setBit, veOf_modVe_other _ (Ne.symm same), bar]
    · rw [bit_of_rd (rd_setBit_other _ (by simp only [VEN.FLAGS]; omega) _ _), bit_of_rd (rd_modVe ..), waits]
  · exact ⟨bar, waits⟩

theorem free_releases (member : mask.testBit n = true) : ∀ (l : List Nat) (s : State), n ∈ l ∨ Free n s → Free n (l.foldl (releaseOne mask) s)
  | [], _, h => h.resolve_left List.not_mem_nil
  | m :: l, s, h => by
    refine free_releases member l _ ?_
    rcases h with there | free
    · rcases List.mem_cons.1 there with rfl | later
      · exact .inr (free_releaseOne_self member)
      · exact .inl later
    · exact .inr (free_releaseOne free member)

theorem barrierRelease_gives (hn : n < 32) (member : mask.testBit n = true) (met : barrierMet mask s = true)
    (arrived : ∀ m < 32, mask.testBit m = true → lastArrival mask s + 32 * ticksPerNs ≤ veBoundary m s) :
    Gives (.barrierRelease mask) s fun t => (t.veOf n).bar = none ∧ t.bit (VEN.FLAGS n) 6 = false := by
  refine ⟨(List.range 32).foldl (releaseOne mask) s, ?_, free_releases member _ s (.inl (List.mem_range.2 hn))⟩
  show execBarrierRelease mask s = _
  unfold execBarrierRelease
  rw [if_pos]
  · rfl
  · rw [met, Bool.true_and, List.all_eq_true]
    intro m hm
    by_cases h : mask.testBit m = true
    · simpa [h] using arrived m (List.mem_range.1 hm) h
    · simp [h]

theorem lineReadIssue_gives {l : Nat} (hn : n < 32) (live : veLive n s = true)
    (room : (s.veOf n).inflight.length + (s.veOf n).stale.length < 32) (next : nextLine n s = some l) :
    Gives (.lineReadIssue n) s fun t => t.rd (VEN.REFILL_ISSUED n) = min (s.rd (VEN.REFILL_ISSUED n) + 1) (2 ^ 64 - 1) ∧
      (t.veOf n).inflight = (s.veOf n).inflight ++ [(l, fillVal n (VEN.PROG_BASE n) s + 256 * l)] ∧
      (regionOf (fillVal n (VEN.PROG_BASE n) s + 256 * l) s ≠ 6 →
        t.reqs = s.reqs ++ [⟨.read, .veLine n l, veNode n, 0, fillVal n (VEN.PROG_BASE n) s + 256 * l, 256, 0⟩]) := by
  refine ⟨_, unitNext hn, ?_⟩
  rw [if_pos ⟨live, room⟩, next]
  refine ⟨?_, ?_, fun valid => reqs_meshSend _ (Eq.trans_ne (CompleteHdi.BusFacts.region_reg ?_ ?_ _) valid)⟩
  · rw [meshSend_rd, rd_modVe, bump_eq]
  · rw [veOf_meshSend, veOf_modVe]
    rfl
  · exact (rd_modVe ..).trans (bump_ne (by simp only [DMC.MAP_STATE, VEN.REFILL_ISSUED]; omega))
  · exact (rd_modVe ..).trans (bump_ne (by simp only [DMC.INSTALLED, VEN.REFILL_ISSUED]; omega))

/-- The state in which a line read of VEn has been counted as answered. -/
def counted (n : Nat) (y : MeshResp) (s : State) : State := (respTaken y s).bump 64 (VEN.REFILL_DONE n)

/-- The data of response y stored in a slot of the buffer of VEn. -/
def stored (n slot : Nat) (y : MeshResp) (s : State) : State :=
  if y.kind = 0 then { s with mem := memWrite s.mem (bufAddr n + 256 * slot) 256 y.data } else s

/-- The line entered in the buffer of VEn. -/
def entered (n line slot : Nat) (y : MeshResp) (s : State) : State :=
  let s := s.modVe n fun e =>
    { e with inflight := e.inflight.filter fun y => !(Nat.beq y.1 line),
             lines := (e.lines.filter fun l => !(Nat.beq l.slot slot)) ++ [(⟨line, slot, 0, y.kind != 0⟩ : BufLine)] }
  if veState n s = 2 then s.modVe n fun e => { e with fillEnd := s.now } else s

variable {line slot : Nat} {y : MeshResp}

theorem lineDone_eq : lineDone n line y s = if ((counted n y s).veOf n).stale.contains (line, y.req.addr) then
      (counted n y s).modVe n fun e => { e with stale := e.stale.erase (line, y.req.addr) }
    else entered n line (slotFor n line (counted n y s)) y (stored n (slotFor n line (counted n y s)) y (counted n y s)) := rfl

theorem stored_facts : (∀ k, (stored n slot y s).rd k = s.rd k) ∧ (∀ m, (stored n slot y s).veOf m = s.veOf m) ∧
    (stored n slot y s).mem = if y.kind = 0 then memWrite s.mem (bufAddr n + 256 * slot) 256 y.data else s.mem := by
  unfold stored
  generalize memWrite s.mem _ 256 y.data = bytes
  by_cases h : y.kind = 0
  · rw [if_pos h, if_pos h]
    exact ⟨fun _ => rfl, fun _ => rfl, rfl⟩
  · rw [if_neg h, if_neg h]
    exact ⟨fun _ => rfl, fun _ => rfl, rfl⟩

theorem entered_facts : (∀ k, (entered n line slot y s).rd k = s.rd k) ∧ (entered n line slot y s).mem = s.mem ∧
    ((entered n line slot y s).veOf n).lines =
      ((s.veOf n).lines.filter fun l => !(Nat.beq l.slot slot)) ++ [⟨line, slot, 0, y.kind != 0⟩] := by
  unfold entered
  dsimp only
  split
  · exact ⟨fun _ => rfl, rfl, by rw [veOf_modVe, veOf_modVe]⟩
  · exact ⟨fun _ => rfl, rfl, by rw [veOf_modVe]⟩

theorem rd_counted : (counted n y s).rd (VEN.REFILL_DONE n) = min (s.rd (VEN.REFILL_DONE n) + 1) (2 ^ 64 - 1) := bump_eq ..

theorem lineDone_fresh (fresh : (line, y.req.addr) ∉ (s.veOf n).stale) :
    (lineDone n line y s).rd (VEN.REFILL_DONE n) = min (s.rd (VEN.REFILL_DONE n) + 1) (2 ^ 64 - 1) ∧
    ((lineDone n line y s).veOf n).lines = ((s.veOf n).lines.filter fun l => !(Nat.beq l.slot (slotFor n line (counted n y s)))) ++
      [⟨line, slotFor n line (counted n y s), 0, y.kind != 0⟩] ∧
    (lineDone n line y s).mem =
      if y.kind = 0 then memWrite s.mem (bufAddr n + 256 * slotFor n line (counted n y s)) 256 y.data else s.mem := by
  have wanted : ((counted n y s).veOf n).stale.contains (line, y.req.addr) = false := by
    show (s.veOf n).stale.contains (line, y.req.addr) = false
    simpa using fresh
  rw [lineDone_eq, if_neg (ne_true_of_eq_false wanted)]
  generalize slotFor n line (counted n y s) = slot
  obtain ⟨rd, ve, mem⟩ := stored_facts (n := n) (slot := slot) (y := y) (s := counted n y s)
  obtain ⟨rd', mem', lines⟩ := entered_facts (n := n) (line := line) (slot := slot) (y := y) (s := stored n slot y (counted n y s))
  exact ⟨by rw [rd', rd, rd_counted], by rw [lines, ve]; rfl, mem'.trans mem⟩

theorem lineDone_stale (stale : (line, y.req.addr) ∈ (s.veOf n).stale) :
    (lineDone n line y s).rd (VEN.REFILL_DONE n) = min (s.rd (VEN.REFILL_DONE n) + 1) (2 ^ 64 - 1) ∧
    ((lineDone n line y s).veOf n).lines = (s.veOf n).lines ∧
    ((lineDone n line y s).veOf n).stale = (s.veOf n).stale.erase (line, y.req.addr) ∧ (lineDone n line y s).mem = s.mem := by
  have unwanted : ((counted n y s).veOf n).stale.contains (line, y.req.addr) = true := by
    show (s.veOf n).stale.contains (line, y.req.addr) = true
    simpa using stale
  rw [lineDone_eq, if_pos unwanted, veOf_modVe]
  exact ⟨(rd_modVe ..).trans rd_counted, rfl, rfl, rfl⟩

theorem addr_arrived (fl : List Flit) (x : MeshResp) (s : State) : (arrived fl x s).req = x.req := by
  unfold arrived
  split <;> rfl

theorem execLineReadComplete_of_can {fl : List Flit} {x : MeshResp} (hn : n < 32) (resp : respFor (.veLine n line) s = some x)
    (can : canReturn x s = true) : exec (.lineReadComplete n ⟨line, fl⟩) s =
      .next (lineDone n line (arrived fl x s) (noteReturn fl x s)) := by
  refine (unitNext hn).trans (congrArg _ ?_)
  rw [resp]
  exact returnBy_of_can can

theorem veOf_noteReturn (fl : List Flit) (x : MeshResp) : (noteReturn fl x s).veOf n = s.veOf n := by
  unfold State.veOf
  rw [ve_noteReturn]

theorem rd_refill_noteReturn (hn : n < 32) (fl : List Flit) (x : MeshResp) :
    (noteReturn fl x s).rd (VEN.REFILL_DONE n) = s.rd (VEN.REFILL_DONE n) :=
  rd_noteReturn fl x s (by simp only [VEN.REFILL_DONE]; omega)

theorem lineReadComplete_gives {fl : List Flit} {x : MeshResp} (hn : n < 32) (resp : respFor (.veLine n line) s = some x)
    (can : canReturn x s = true) :
    ((line, x.req.addr) ∉ (s.veOf n).stale →
      Gives (.lineReadComplete n ⟨line, fl⟩) s fun t =>
        t.rd (VEN.REFILL_DONE n) = min (s.rd (VEN.REFILL_DONE n) + 1) (2 ^ 64 - 1) ∧
        (t.veOf n).lines = ((s.veOf n).lines.filter fun l =>
            !(Nat.beq l.slot (slotFor n line (counted n (arrived fl x s) (noteReturn fl x s))))) ++
          [⟨line, slotFor n line (counted n (arrived fl x s) (noteReturn fl x s)), 0, (arrived fl x s).kind != 0⟩] ∧
        t.mem = if (arrived fl x s).kind = 0 then memWrite s.mem
            (bufAddr n + 256 * slotFor n line (counted n (arrived fl x s) (noteReturn fl x s))) 256 (arrived fl x s).data else s.mem) ∧
    ((line, x.req.addr) ∈ (s.veOf n).stale →
      Gives (.lineReadComplete n ⟨line, fl⟩) s fun t =>
        t.rd (VEN.REFILL_DONE n) = min (s.rd (VEN.REFILL_DONE n) + 1) (2 ^ 64 - 1) ∧ (t.veOf n).lines = (s.veOf n).lines ∧
        (t.veOf n).stale = (s.veOf n).stale.erase (line, x.req.addr) ∧ t.mem = s.mem) := by
  have next := execLineReadComplete_of_can (fl := fl) hn resp can
  have ve := veOf_noteReturn (n := n) (s := s) fl x
  have addr := congrArg (·.addr) (addr_arrived fl x s)
  have count := rd_refill_noteReturn (s := s) hn fl x
  have mem := mem_noteReturn fl x s
  refine ⟨fun fresh => ⟨_, next, ?_⟩, fun stale => ⟨_, next, ?_⟩⟩
  · have done := lineDone_fresh (n := n) (line := line) (y := arrived fl x s) (s := noteReturn fl x s) (by rwa [ve, addr])
    rwa [ve, count, mem] at done
  · have done := lineDone_stale (n := n) (line := line) (y := arrived fl x s) (s := noteReturn fl x s) (by rwa [ve, addr])
    rwa [ve, count, mem, addr] at done

/-- Settles O23: the fault or the address that the decision comes to, the release of each engine of the mask, and the answer of a
line read by the run it belongs to. -/
theorem veFaultsBarriersLines : Obligations.VeFaultsBarriersLines := by
  refine ⟨fun n c a u s smp hn issues free lands dec => words_fault hn issues free lands dec, fun n smp s h => ?_,
    fun mask n s => barrierRelease_gives, fun n s hn => ⟨fun l => lineReadIssue_gives hn, ?_⟩⟩
  · refine ⟨flags_known, fun after => goesTo_of_res h (res_seq after) (absurd rfl ·), fun d after =>
      ⟨fun far => goesTo_of_res h (res_goto after) fun _ => far, near_faults h (res_goto after)⟩, fun c d => jc_decides h,
      fun l after loop => ⟨fun passed => match_leaves h after (decideMatch_of_passed loop passed),
        fun failed late => match_leaves h after (decideMatch_of_timeout loop failed late),
        fun failed inTime => match_returns h after (decideMatch_of_failed loop failed inTime)⟩,
      fun c => fetch_faults h, fun w => words_refused h⟩
  · rintro line fl x y u resp can rfl rfl
    exact lineReadComplete_gives hn resp can

end Sys2Proof.Proofs.VeFaultBarrierLine
end

section
/-! Fail capture, and the mover and ring of a spill queue (08_fail_capture.md R216, R222 to R231, R238 to R241). -/
namespace Sys2Proof.Proofs.FailCapture
open Sys2Proof.Machine Sys2Proof.Laws Common CompleteFcp MeshWay

variable {n q : Nat} {s : State}

/-! A waiting cycle processed. -/

/-- The waiting cycles leave those of the state as they are. -/
abbrev SameCycles (n : Nat) (s t : State) : Prop := KeepsFcp (fun e : FcpS => e.cycles) n s t

/-- The oldest cycle leaves those that wait. -/
def taken (n th : Nat) (s : State) : State :=
  s.modFcp n fun f => { f with cycles := f.cycles.drop 1, lastProc := th, onEdge := if f.lastProc = th then f.onEdge + 1 else 1 }

/-- A cycle that failed is counted, and meets the break units. -/
def failCounted (n th : Nat) (c : CycRec) (s : State) : State :=
  if c.fv = 0 then s
  else brkMatch 3 (1 + n) c.cyc c.site 0 th ((s.bump 64 (FCP.FAILCYC n)).bump 64 (FCP.RUN_FAILS n))

/-- The cycle recorded, counted per channel, merged into the bitmap and judged by stop-on-N. -/
def captured (n th : Nat) (c : CycRec) (s : State) : State :=
  stopOnN n th c (bitmapCycle n th c (countCycle n c (recordCycle n th c s)))

/-- Record and operation close after the last cycle before a change of settings, the operation after the last of a run. -/
def closedAfter (n th : Nat) (c : CycRec) (s : State) : State :=
  let last := (s.fcpOf n).cycles.isEmpty
  if c.closeAfter || (last && lastBefore n s) then closeBitmap n th (closeRecord n th s)
  else if last && lastOfRun n s then closeBitmap n th s else s

theorem processCycle_eq (th : Nat) (c : CycRec) : processCycle n th c s =
    closedAfter n th c (captured n th c (failCounted n th c (mergeExpire n th (taken n th s)))) := rfl

theorem closedAfter_cases {th : Nat} {c : CycRec} {P : State → Prop} (same : P s) (closed : P (closeBitmap n th s))
    (ended : P (closeBitmap n th (closeRecord n th s))) : P (closedAfter n th c s) := by
  unfold closedAfter
  dsimp only
  split
  · exact ended
  · split
    · exact closed
    · exact same

theorem cycles_failCounted (th : Nat) (c : CycRec) {u : State} (h : SameCycles n s u) : SameCycles n s (failCounted n th c u) := by
  unfold failCounted
  split
  · exact h
  · exact brkMatch_keepsFcp _ _ _ _ _ _ _ (bump_keepsFcp _ _ _ (bump_keepsFcp _ _ _ h))

theorem cycles_processCycle (th : Nat) (c : CycRec) : ((processCycle n th c s).fcpOf n).cycles = (s.fcpOf n).cycles.drop 1 := by
  suffices h : SameCycles n (taken n th s) (processCycle n th c s) by
    refine Eq.trans h ?_
    unfold taken
    rw [fcpOf_modFcp]
  have kept : SameCycles n (taken n th s) (captured n th c (failCounted n th c (mergeExpire n th (taken n th s)))) :=
    stopOnN_keepsFcp n th c _ (bitmapCycle_keepsFcp n th c _ (countCycle_keepsFcp n c _ (recordCycle_keepsFcp n th c _
      (cycles_failCounted th c (mergeExpire_keepsFcp n th _ rfl)))))
  exact closedAfter_cases kept (closeBitmap_keepsFcp n th _ kept) (closeBitmap_keepsFcp n th _ (closeRecord_keepsFcp n th _ kept))

theorem failcyc_closeBitmap (th : Nat) : (closeBitmap n th s).rd (FCP.FAILCYC n) = s.rd (FCP.FAILCYC n) := by
  refine frq (k := FCP.FAILCYC n) (f := closeBitmap n th) (closeBitmap_fr n th s (fr_refl s) ?_ ?_ (fun u => ?_) fun u => ?_) <;>
    simp only [FCP.FAILCYC, FCP.BM_DROP, FCP.BM_FORMED, FCP.Q_EVFLAGS, FCP.STOPPED_BY] <;> omega

theorem failcyc_failCounted (hn : n < 32) (th : Nat) (c : CycRec) : (failCounted n th c s).rd (FCP.FAILCYC n) =
    if c.fv = 0 then s.rd (FCP.FAILCYC n) else min (s.rd (FCP.FAILCYC n) + 1) (2 ^ 64 - 1) := by
  unfold failCounted
  split
  · rfl
  · rw [brk_rd _ _ _ _ _ _ _ _ (by simp only [FCP.FAILCYC]; omega) (by simp only [FCP.FAILCYC]; omega), bump_ne (by simp), bump_eq]

theorem failcyc_processCycle (hn : n < 32) (th : Nat) (c : CycRec) : (processCycle n th c s).rd (FCP.FAILCYC n) =
    if c.fv = 0 then s.rd (FCP.FAILCYC n) else min (s.rd (FCP.FAILCYC n) + 1) (2 ^ 64 - 1) := by
  have counted : (captured n th c (failCounted n th c (mergeExpire n th (taken n th s)))).rd (FCP.FAILCYC n) =
      if c.fv = 0 then s.rd (FCP.FAILCYC n) else min (s.rd (FCP.FAILCYC n) + 1) (2 ^ 64 - 1) := by
    rw [captured, fc_rd n th c _ hn, failcyc_failCounted hn, cl1_rd n th _ hn]
    rfl
  rw [processCycle_eq, ← counted]
  exact closedAfter_cases (P := fun t => t.rd (FCP.FAILCYC n) = _) rfl (failcyc_closeBitmap th) (cl_rd n th _ hn)

theorem failCycle_gives {c : CycRec} {rest : List CycRec} (hn : n < 32) (waits : (s.fcpOf n).cycles = c :: rest) :
    Gives (.failCycle n) s fun t => (t.fcpOf n).cycles = rest ∧
      t.rd (FCP.FAILCYC n) = if c.fv = 0 then s.rd (FCP.FAILCYC n) else min (s.rd (FCP.FAILCYC n) + 1) (2 ^ 64 - 1) := by
  refine ⟨_, unitNext hn, ?_⟩
  rw [waits]
  refine ⟨(cycles_processCycle ..).trans ?_, failcyc_processCycle hn ..⟩
  exact congrArg (List.drop 1) waits

/-! Bitmap operations and records. -/

theorem formBitmap_facts (th : Nat) (op : BmOp) : ((formBitmap n th op s).fcpOf n).bmOpen = (s.fcpOf n).bmOpen ∧
    (formBitmap n th op s).rd (FCP.BM_FORMED n) = min (s.rd (FCP.BM_FORMED n) + 1) (2 ^ 64 - 1) := by
  refine ⟨congrArg (·.1) (formBitmap_keepsFcpOpen (nn := n) (s0 := s) n th op s rfl), ?_⟩
  unfold formBitmap
  dsimp only
  split
  · rw [rd_modFcp, bump_eq]
  · refine Eq.trans (frq (k := FCP.BM_FORMED n) (f := fcpDrop n (FCP.BM_DROP n) op.policy th)
      (fcpDrop_fr n _ _ th _ (fr_refl _) ?_ (fun u => ?_) fun u => ?_)) (bump_eq ..) <;>
      simp only [FCP.BM_DROP, FCP.BM_FORMED, FCP.Q_EVFLAGS, FCP.STOPPED_BY] <;> omega

theorem mergeTimeout_gives {o : BmOp} (hn : n < 32) (waits : (s.fcpOf n).bmOpen = some o) :
    Gives (.mergeTimeout n) s fun t => (t.fcpOf n).bmOpen = none ∧
      t.rd (FCP.BM_FORMED n) = min (s.rd (FCP.BM_FORMED n) + 1) (2 ^ 64 - 1) := by
  refine ⟨_, unitNext hn, ?_⟩
  rw [waits]
  dsimp only
  unfold closeBitmap
  rw [show ((s.upto (o.opened + 32 * 8192)).fcpOf n).bmOpen = some o from waits]
  obtain ⟨merge, formed⟩ := formBitmap_facts (s := (s.upto (o.opened + 32 * 8192)).modFcp n fun f => { f with bmOpen := none })
    (o.opened + 32 * 8192) o
  exact ⟨merge.trans (by rw [fcpOf_modFcp]), formed⟩

theorem bitmapIssue_gives {op : BmOp} {rest : List BmOp} (hn : n < 32) (waits : (s.fcpOf n).bmFifo = op :: rest)
    (goes : regionOf op.addr s = 6 ∨ creditFree (bitmapReq n op) s = true) :
    Gives (.bitmapIssue n) s fun t => (t.fcpOf n).bmFifo = rest ∧
      t.rd (FCP.BM_INFLIGHT n) = min (s.rd (FCP.BM_INFLIGHT n) + 1) (2 ^ 16 - 1) := by
  refine ⟨_, unitNext hn, ?_⟩
  rw [waits]
  dsimp only
  rw [if_pos goes]
  refine ⟨?_, ?_⟩
  · rw [fcpOf_meshSend, fcpOf_bump, fcpOf_modFcp]
  · rw [meshSend_rd, bump_eq]
    rfl

theorem recordToTail_gives {ws : List Nat} {rest : List (List Nat)} (hn : n < 32) (waits : (s.fcpOf n).cap = ws :: rest)
    (live : s.rd (FCP.Q_STATE n) ≠ 0) (room : (s.sqOf n).tail.length + 4 ≤ 64) :
    Gives (.recordToTail n) s fun t => (t.fcpOf n).cap = rest ∧
      (t.sqOf n).tail = (s.sqOf n).tail ++ (ws.take 3).map (·, false) ++ (ws.drop 3).map (·, true) ∧
      t.rd (FCP.REC_QUEUED n) = min (s.rd (FCP.REC_QUEUED n) + 1) (2 ^ 64 - 1) := by
  refine ⟨_, unitNext hn, ?_⟩
  rw [waits]
  dsimp only
  rw [if_pos ⟨live, room⟩]
  refine ⟨?_, ?_, ?_⟩
  · refine (congrArg (·.2) (enterTail_keepsFcpOpen (nn := n) (s0 := _) n _ _ rfl)).trans ?_
    dsimp only
    rw [fcpOf_bump, fcpOf_modFcp]
  · exact (enter_facts ..).1.trans (List.append_assoc ..).symm
  · refine Eq.trans (frq (k := FCP.REC_QUEUED n) (f := enterTail n _) (enterTail_fr n _ _ (fr_refl _) ?_ ?_ ?_)) (bump_eq ..) <;>
      simp only [FCP.REC_QUEUED, FCP.Q_EVFLAGS, FCP.Q_IN, FCP.Q_PKTS] <;> omega

/-! The mover of a spill queue. -/

theorem tailToHeadMove_gives (hq : q < 64) (live : s.rd (FCP.Q_STATE q) ≠ 0) (direct : movesDirect q s = true)
    (words : (s.sqOf q).tail ≠ []) : Gives (.tailToHeadMove q) s fun t =>
      (t.sqOf q).head = (s.sqOf q).head ++ (s.sqOf q).tail.take (min 8 (headRoom q s)) ∧
      (t.sqOf q).tail = (s.sqOf q).tail.drop (min 8 (headRoom q s)) := by
  refine ⟨_, unitNext hq, ?_⟩
  rw [if_pos ⟨live, direct, words⟩]
  dsimp only
  rw [sqOf_modSq]
  exact ⟨rfl, rfl⟩

theorem ringWriteIssue_gives (hq : q < 64) (live : s.rd (FCP.Q_STATE q) ≠ 0) (direct : movesDirect q s = false)
    (words : 31 ≤ (s.sqOf q).tail.length) (room : ringFull q s = false) (writes : writesOf q s < 32) :
    Gives (.ringWriteIssue q) s fun t => (t.sqOf q).tail = (s.sqOf q).tail.drop 31 ∧
      (t.sqOf q).ring = (s.sqOf q).ring ++ [(ringLine q s, .writing)] ∧ (t.sqOf q).seq = (s.sqOf q).seq + 1 := by
  refine ⟨_, unitNext hq, ?_⟩
  dsimp only
  rw [if_pos ⟨live, direct, words, room, writes⟩, sq_send, sqOf_wr, sqOf_modSq]
  exact ⟨rfl, rfl, rfl⟩

theorem ringReadIssue_gives {l : Nat} (hq : q < 64) (live : s.rd (FCP.Q_STATE q) ≠ 0) (room : 31 ≤ headRoom q s)
    (reads : readsOf q s < 2) (next : nextRead q s = some l) :
    Gives (.ringReadIssue q) s fun t => (t.sqOf q).head = (s.sqOf q).head ∧
      (t.sqOf q).ring = (s.sqOf q).ring.map fun e => if e.1 = l then (l, .reading) else e := by
  refine ⟨_, unitNext hq, ?_⟩
  rw [if_pos ⟨live, room, reads⟩, next]
  dsimp only
  rw [sq_send, sqOf_modSq]
  exact ⟨rfl, rfl⟩

/-! Answered transfers of the ring. -/

theorem sqOf_qFlag (b th : Nat) : ∃ e, (qFlag q b th s).sqOf q = { s.sqOf q with evAt := e } := by
  unfold qFlag
  dsimp only
  split
  · exact ⟨(s.sqOf q).evAt, rfl⟩
  · split
    · exact ⟨(s.sqOf q).evAt, sqOf_setBit ..⟩
    · exact ⟨some th, by rw [sqOf_raise, sqOf_modSq, sqOf_setBit]; rfl⟩

/-- The count of packets takes its new value. -/
def repriced (q v : Nat) (s : State) : State :=
  (if s.rd (FCP.Q_STATE q) = 2 then s.drawn else s).wr (FCP.Q_PKTS q) (if s.rd (FCP.Q_STATE q) = 2 then s.freeVal % 2 ^ 64 else v)

theorem sqOf_repriced (v : Nat) : (repriced q v s).sqOf q = s.sqOf q := by
  unfold repriced
  split <;> rfl

theorem setPkts_cases (v : Nat) : setPkts q v s = repriced q v s ∨
    setPkts q v s = qFlag q 0 (seenEdge (repriced q v s)) (repriced q v s) := (ite_eq_or_eq _ _ _).symm

theorem sqOf_setPkts (v : Nat) : ∃ e, (setPkts q v s).sqOf q = { s.sqOf q with evAt := e } := by
  rcases setPkts_cases (q := q) (s := s) v with h | h
  · exact ⟨(s.sqOf q).evAt, by rw [h, sqOf_repriced]⟩
  · obtain ⟨e, flagged⟩ := sqOf_qFlag (q := q) (s := repriced q v s) 0 (seenEdge (repriced q v s))
    exact ⟨e, by rw [h, flagged, sqOf_repriced]⟩

/-- A line lost to an error: its words are counted, the queue is DAMAGED with its flag, and its words stand as they were. -/
theorem damage_facts : (damage q s).rd (FCP.Q_STATE q) = 2 ∧
    (damage q s).rd (FCP.Q_ERR_WORDS q) = min (s.rd (FCP.Q_ERR_WORDS q) + 31) (2 ^ 64 - 1) ∧
    (damage q s).bit (FCP.Q_EVFLAGS q) 5 = true ∧ (∃ e, (damage q s).sqOf q = { s.sqOf q with evAt := e }) ∧
    (damage q s).rd (FCP.Q_OUT q) = s.rd (FCP.Q_OUT q) ∧ (damage q s).rd (FCP.Q_IN q) = s.rd (FCP.Q_IN q) := by
  have kept {k : Nat} (flags : FCP.Q_EVFLAGS q ≠ k) (pkts : FCP.Q_PKTS q ≠ k) : (damage q s).rd k =
      ((s.addTo 64 (FCP.Q_ERR_WORDS q) 31).wr (FCP.Q_STATE q) 2).rd k := by
    unfold damage
    exact (frq (f := qFlag q 5 _) (qFlag_fr q 5 _ _ (fr_refl _) flags)).trans
      (frq (f := setPkts q 0) (setPkts_fr q 0 _ (fr_refl _) flags pkts))
  refine ⟨?_, ?_, RefusedAccess.qFlag_bit .., ?_, ?_, ?_⟩
  · rw [kept (by simp) (by simp), rd_wr_same]
  · rw [kept (by simp) (by simp), rd_wr_other _ (by simp), addTo_eq]
  · obtain ⟨e, flagged⟩ := sqOf_qFlag (q := q) (s := setPkts q 0 ((s.addTo 64 (FCP.Q_ERR_WORDS q) 31).wr (FCP.Q_STATE q) 2)) 5
      (seenEdge ((s.addTo 64 (FCP.Q_ERR_WORDS q) 31).wr (FCP.Q_STATE q) 2))
    obtain ⟨e', set⟩ := sqOf_setPkts (q := q) (s := (s.addTo 64 (FCP.Q_ERR_WORDS q) 31).wr (FCP.Q_STATE q) 2) 0
    exact ⟨e, flagged.trans (by rw [set]; rfl)⟩
  · rw [kept (by simp) (by simp), rd_wr_other _ (by simp), addTo_ne (by simp)]
  · rw [kept (by simp) (by simp), rd_wr_other _ (by simp), addTo_ne (by simp)]

theorem sqOf_dropLine (l : Nat) : (dropLine q l s).sqOf q =
    { s.sqOf q with ring := (s.sqOf q).ring.filter fun e => !(Nat.beq e.1 l) } := by rw [dropLine, sqOf_modSq]

theorem rd_dropLine (l k : Nat) : (dropLine q l s).rd k = s.rd k := rd_modSq ..

/-- Words of a read line enter the head if no older line is read, else they wait. -/
theorem readWords_facts (older : Bool) (ws : List (Nat × Bool)) : ((readWords q older ws s).sqOf q).ring = (s.sqOf q).ring ∧
    (older = false → ((readWords q older ws s).sqOf q).early = [] ∧
      ((readWords q older ws s).sqOf q).head = (s.sqOf q).head ++ ws ++ (s.sqOf q).early) ∧
    (older = true → ((readWords q older ws s).sqOf q).head = (s.sqOf q).head ∧
      ((readWords q older ws s).sqOf q).early = (s.sqOf q).early ++ ws) ∧ ∀ k, (readWords q older ws s).rd k = s.rd k := by
  unfold readWords intoHead
  cases older
  · rw [if_neg Bool.false_ne_true, sqOf_modSq]
    exact ⟨rfl, fun _ => ⟨rfl, rfl⟩, fun h => absurd h Bool.false_ne_true, fun _ => rd_modSq ..⟩
  · rw [if_pos rfl, sqOf_modSq]
    exact ⟨rfl, fun h => absurd h.symm Bool.false_ne_true, fun _ => ⟨rfl, rfl⟩, fun _ => rd_modSq ..⟩

theorem respTaken_words (x : MeshResp) : (respTaken x s).sqOf q = s.sqOf q ∧ ∀ k, (respTaken x s).rd k = s.rd k := ⟨rfl, fun _ => rfl⟩

section
variable {l i : Nat} {x y : MeshResp} {fl : List Flit}

theorem ringWriteDone_of_written (writing : (s.sqOf q).ring.find? (fun e => Nat.beq e.1 l) = some (i, .writing)) (good : y.kind ≠ 2) :
    ringWriteDone q l y s =
      (respTaken y s).modSq q fun x => { x with ring := x.ring.map fun e => if e.1 = l then (l, .written) else e } := by
  unfold ringWriteDone
  dsimp only
  rw [show ((respTaken y s).sqOf q).ring.find? (fun e => Nat.beq e.1 l) = _ from writing]
  exact if_neg good

theorem ringWriteDone_of_error (writing : (s.sqOf q).ring.find? (fun e => Nat.beq e.1 l) = some (i, .writing)) (bad : y.kind = 2) :
    ringWriteDone q l y s = damage q (dropLine q l (respTaken y s)) := by
  unfold ringWriteDone
  dsimp only
  rw [show ((respTaken y s).sqOf q).ring.find? (fun e => Nat.beq e.1 l) = _ from writing]
  exact if_pos bad

theorem ringReadDone_of_read (reading : (s.sqOf q).ring.find? (fun e => Nat.beq e.1 l) = some (i, .reading)) (good : y.kind ≠ 2) :
    ringReadDone q l y s = readWords q (olderRead q l s) (blockWords y.data) (dropLine q l (respTaken y s)) := by
  unfold ringReadDone
  dsimp only
  rw [show ((respTaken y s).sqOf q).ring.find? (fun e => Nat.beq e.1 l) = _ from reading]
  exact if_neg good

theorem ringReadDone_of_error (reading : (s.sqOf q).ring.find? (fun e => Nat.beq e.1 l) = some (i, .reading)) (bad : y.kind = 2) :
    ringReadDone q l y s = damage q (readWords q (olderRead q l s) [] (dropLine q l (respTaken y s))) := by
  unfold ringReadDone
  dsimp only
  rw [show ((respTaken y s).sqOf q).ring.find? (fun e => Nat.beq e.1 l) = _ from reading]
  exact if_pos bad

theorem execRingWriteDone_of_can {err : Bool} (hq : q < 64) (resp : respFor (.ringWrite q l) s = some x) (can : canReturn x s = true)
    (kind : err = Nat.beq (arrived fl x s).kind 2) : exec (.ringWriteDone q l ⟨err, fl⟩) s =
      .next (ringWriteDone q l (arrived fl x s) (noteReturn fl x s)) := by
  refine (unitNext hq).trans (congrArg _ ?_)
  rw [resp]
  exact (if_pos kind).trans (returnBy_of_can can)

theorem req_arrived : (arrived fl x s).req = x.req := by
  unfold arrived
  split <;> rfl

theorem execRingReadDone_of_can {err : Bool} (hq : q < 64) (resp : respFor (.ringRead q) s = some x) (can : canReturn x s = true)
    (kind : err = Nat.beq (arrived fl x s).kind 2) : exec (.ringReadDone q ⟨err, fl⟩) s =
      .next (ringReadDone q ((x.req.addr - s.rd (FCP.Q_RING_BASE q)) / 256) (arrived fl x s) (noteReturn fl x s)) := by
  refine (unitNext hq).trans (congrArg _ ?_)
  rw [resp]
  refine (if_pos kind).trans ((returnBy_of_can can).trans ?_)
  unfold ringAnswered
  rw [req_arrived, rd_noteReturn fl x s (by simp only [FCP.Q_RING_BASE]; omega)]

theorem good_kind {y : MeshResp} (good : y.kind ≠ 2) : false = Nat.beq y.kind 2 :=
  (Bool.eq_false_iff.2 fun same => good (Nat.eq_of_beq_eq_true same)).symm
theorem bad_kind {y : MeshResp} (bad : y.kind = 2) : true = Nat.beq y.kind 2 := by simp [bad]

theorem olderRead_noteReturn : olderRead q l (noteReturn fl x s) = olderRead q l s := by
  unfold olderRead
  rw [sqOf_noteReturn]

theorem ringWriteDone_gives (hq : q < 64) (resp : respFor (.ringWrite q l) s = some x) (can : canReturn x s = true)
    (good : (arrived fl x s).kind ≠ 2) (writing : (s.sqOf q).ring.find? (fun e => Nat.beq e.1 l) = some (i, .writing)) :
    Gives (.ringWriteDone q l ⟨false, fl⟩) s fun t => t.rd (FCP.Q_STATE q) = s.rd (FCP.Q_STATE q) ∧
      (t.sqOf q).ring = (s.sqOf q).ring.map fun e => if e.1 = l then (l, .written) else e := by
  refine ⟨_, execRingWriteDone_of_can hq resp can (good_kind good), ?_⟩
  dsimp only
  rw [ringWriteDone_of_written (by rwa [sqOf_noteReturn]) good, sqOf_modSq]
  refine ⟨?_, ?_⟩
  · exact rd_noteReturn fl x s (by simp only [FCP.Q_STATE]; omega)
  · rw [(respTaken_words _).1, sqOf_noteReturn]

theorem ringReadDone_gives (hq : q < 64) (resp : respFor (.ringRead q) s = some x) (can : canReturn x s = true)
    (good : (arrived fl x s).kind ≠ 2) (line : l = (x.req.addr - s.rd (FCP.Q_RING_BASE q)) / 256)
    (reading : (s.sqOf q).ring.find? (fun e => Nat.beq e.1 l) = some (i, .reading)) :
    Gives (.ringReadDone q ⟨false, fl⟩) s fun t => (t.sqOf q).ring = ((s.sqOf q).ring.filter fun e => !(Nat.beq e.1 l)) ∧
      (olderRead q l s = false → (t.sqOf q).early = [] ∧
        (t.sqOf q).head = (s.sqOf q).head ++ blockWords (arrived fl x s).data ++ (s.sqOf q).early) ∧
      (olderRead q l s = true → (t.sqOf q).head = (s.sqOf q).head ∧
        (t.sqOf q).early = (s.sqOf q).early ++ blockWords (arrived fl x s).data) := by
  refine ⟨_, execRingReadDone_of_can hq resp can (good_kind good), ?_⟩
  rw [← line, ringReadDone_of_read (by rwa [sqOf_noteReturn]) good, olderRead_noteReturn]
  obtain ⟨ring, last, waits, -⟩ := readWords_facts (q := q) (s := dropLine q l (respTaken (arrived fl x s) (noteReturn fl x s)))
    (olderRead q l s) (blockWords (arrived fl x s).data)
  rw [sqOf_dropLine, (respTaken_words _).1, sqOf_noteReturn] at ring last waits
  exact ⟨ring, last, waits⟩

theorem ringWriteDone_damages (hq : q < 64) (resp : respFor (.ringWrite q l) s = some x) (can : canReturn x s = true)
    (bad : (arrived fl x s).kind = 2) (writing : (s.sqOf q).ring.find? (fun e => Nat.beq e.1 l) = some (i, .writing)) :
    Gives (.ringWriteDone q l ⟨true, fl⟩) s fun t => t.rd (FCP.Q_STATE q) = 2 ∧
      t.rd (FCP.Q_ERR_WORDS q) = min (s.rd (FCP.Q_ERR_WORDS q) + 31) (2 ^ 64 - 1) ∧ t.bit (FCP.Q_EVFLAGS q) 5 = true ∧
      (t.sqOf q).ring = (s.sqOf q).ring.filter fun e => !(Nat.beq e.1 l) := by
  refine ⟨_, execRingWriteDone_of_can hq resp can (bad_kind bad), ?_⟩
  dsimp only
  rw [ringWriteDone_of_error (by rwa [sqOf_noteReturn]) bad]
  obtain ⟨state, lost, flag, ⟨e, words⟩, -⟩ := damage_facts (s := dropLine q l (respTaken (arrived fl x s) (noteReturn fl x s)))
  refine ⟨state, lost.trans ?_, flag, ?_⟩
  · rw [rd_dropLine, (respTaken_words (q := q) _).2, rd_noteReturn fl x s (by simp only [FCP.Q_ERR_WORDS]; omega)]
  · rw [words, sqOf_dropLine, (respTaken_words _).1, sqOf_noteReturn]

theorem ringReadDone_damages (hq : q < 64) (resp : respFor (.ringRead q) s = some x) (can : canReturn x s = true)
    (bad : (arrived fl x s).kind = 2) (line : l = (x.req.addr - s.rd (FCP.Q_RING_BASE q)) / 256)
    (reading : (s.sqOf q).ring.find? (fun e => Nat.beq e.1 l) = some (i, .reading)) :
    Gives (.ringReadDone q ⟨true, fl⟩) s fun t => t.rd (FCP.Q_STATE q) = 2 ∧
      t.rd (FCP.Q_ERR_WORDS q) = min (s.rd (FCP.Q_ERR_WORDS q) + 31) (2 ^ 64 - 1) ∧ t.bit (FCP.Q_EVFLAGS q) 5 = true ∧
      (t.sqOf q).ring = ((s.sqOf q).ring.filter fun e => !(Nat.beq e.1 l)) ∧
      t.rd (FCP.Q_OUT q) = s.rd (FCP.Q_OUT q) ∧ t.rd (FCP.Q_IN q) = s.rd (FCP.Q_IN q) ∧
      (olderRead q l s = false → (t.sqOf q).head = (s.sqOf q).head ++ (s.sqOf q).early ∧ (t.sqOf q).early = []) ∧
      (olderRead q l s = true → (t.sqOf q).head = (s.sqOf q).head ∧ (t.sqOf q).early = (s.sqOf q).early) := by
  refine ⟨_, execRingReadDone_of_can hq resp can (bad_kind bad), ?_⟩
  rw [← line, ringReadDone_of_error (by rwa [sqOf_noteReturn]) bad, olderRead_noteReturn]
  obtain ⟨ring, last, waits, rd⟩ := readWords_facts (q := q) (s := dropLine q l (respTaken (arrived fl x s) (noteReturn fl x s)))
    (olderRead q l s) []
  rw [sqOf_dropLine, (respTaken_words _).1, sqOf_noteReturn] at ring last waits
  simp only [List.append_nil] at last waits
  generalize readWords q _ [] _ = u at ring last waits rd ⊢
  have kept {k : Nat} (hk : k < 0xC00000) : u.rd k = s.rd k := by
    rw [rd, rd_dropLine, (respTaken_words (q := q) _).2, rd_noteReturn fl x s hk]
  obtain ⟨state, lost, flag, ⟨e, words⟩, out, into⟩ := damage_facts (s := u)
  rw [words]
  refine ⟨state, ?_, flag, ring, ?_, ?_, fun h => (last h).symm, waits⟩
  · rw [lost, kept (by simp only [FCP.Q_ERR_WORDS]; omega)]
  · rw [out, kept (by simp only [FCP.Q_OUT]; omega)]
  · rw [into, kept (by simp only [FCP.Q_IN]; omega)]

end

/-- Settles O24: a cycle processed, the merge stage, the FIFOs, and each transfer of a queue's mover and ring. -/
theorem failCaptureCompletes : Obligations.FailCaptureCompletes :=
  ⟨fun _ _ hn => ⟨fun _ _ => failCycle_gives hn, fun _ => mergeTimeout_gives hn, fun _ _ => bitmapIssue_gives hn,
      fun _ _ => recordToTail_gives hn⟩,
    fun _ _ hq => ⟨tailToHeadMove_gives hq, ringWriteIssue_gives hq, fun _ => ringReadIssue_gives hq,
      fun _ _ _ _ => ringWriteDone_gives hq, fun _ _ _ _ => ringReadDone_gives hq⟩,
    fun _ _ _ _ _ _ => ringWriteDone_damages, fun _ _ _ _ _ _ => ringReadDone_damages⟩

end Sys2Proof.Proofs.FailCapture
end

section
/-! Temperature tracking (07_edge_calibration.md R205; 15_clocks_reset.md R401): a sample behind the closed gate of EDG. -/
namespace Sys2Proof.Proofs.TempSample
open Sys2Proof.Machine

/-- The gate of EDG is closed, VE0 owns EO1, and its group and the TF of its trims read 0. -/
def gateClosed : State := { reg := [(CRH.GATE_STATE 0xB0, 0), (0x850000, 1)] }

/-- Bit 0 of EDG.STALE_GROUPS in the next state. -/
def staleAfter (o : Out) : Bool := match o with
  | .next t => t.bit EDG.STALE_GROUPS 0
  | _ => true

/-- Refutes O32: behind the closed gate EDG.GROUP keeps its value and EDG.STALE_GROUPS follows that value, so a sample of 62.5 degC
leaves bit 0 at 0, which the statement has follow the sample. -/
theorem not_calibrationCompletes : ¬ Obligations.CalibrationCompletes := by
  unfold Obligations.CalibrationCompletes
  rintro ⟨-, track, -⟩
  obtain ⟨t, ran, -, -, bit, -⟩ := track 0 1000 gateClosed (by decide)
  have fresh : staleAfter (exec (.tempTrackSample 0 1000) gateClosed) = false := by decide +kernel
  rw [ran] at fresh
  have due : stale 0 (toS16 1000) gateClosed = true := by decide +kernel
  exact absurd (fresh.symm.trans (bit.trans due)) (by decide)

end Sys2Proof.Proofs.TempSample
end

section
/-! Mesh accesses that wait for a pane (10_panes_scratch.md R283): rows of eight bytes are written, whatever length stands in the
request. -/
namespace Sys2Proof.Proofs.PaneWait
open Sys2Proof.Machine

/-- A write of four bytes to PANE0: no request that a pane takes has such a length (11 R537). -/
def shortWrite : PortReq := ⟨⟨.write, .mesh 0 0, 0, 3, 0x10100000000, 4, 0x55⟩, [], 0⟩

/-- FACET0 has its clock, and the short write waits for PANE0. -/
def waiting : State := { reg := [(CRH.GATE_STATE 0, 1)], steal := [shortWrite] }

/-- The memory of the next state. -/
def memAfter (o : Out) : List Host.Cell := match o with
  | .next t => t.mem
  | _ => []

/-- Refutes O33: a waiting access is performed row by row, none of a request of four bytes, and the statement, which asks nothing of
the length, has its four bytes written. -/
theorem not_panesComplete : ¬ Obligations.PanesComplete := by
  unfold Obligations.PanesComplete
  rintro ⟨-, fabric, -⟩
  obtain ⟨-, served, -⟩ := fabric 0 false waiting (by decide) (by decide)
  obtain ⟨t, ran, -, -, mem⟩ := served shortWrite (by decide) (by decide) (by decide) (by decide) (by decide) (by decide)
  have kept : memAfter (exec (.paneFabricAccess 0 false) waiting) = [] := by decide +kernel
  rw [ran] at kept
  exact absurd (mem.symm.trans kept) (by decide +kernel)

end Sys2Proof.Proofs.PaneWait
end

section
/-! Requests of the mesh performed and answered, and what waits for a port or for power (11_mesh.md R300 to R310; 10_panes_scratch.md
R283 to R287, R294; 15_clocks_reset.md R404). -/
namespace Sys2Proof.Proofs.MeshDelivery
open Sys2Proof.Machine Sys2Proof.Laws Common CompleteMesh

variable {s : State}

section
variable {r : MeshReq} {fl : List Flit} {ecc : List Ecc} {op : MeshOp}

/-- A request that its unit serves is performed once its way is noted. -/
theorem arrive_performed (clean : ∀ e ∈ ecc, e = .clean) (sound : Unpoisoned fl r s) (arrives : Arrives op r s) (serves : UnitServes r s) :
    Performed r s (arriveCommand op r fl ecc s) := by
  have at' := atP r fl s
  obtain ⟨placed, performed⟩ := serve_perform clean arrives.2.1 serves at'
  rwa [arrive_eq arrives sound, port_eq arrives at' placed]

/-- A request that keeps the limits of its port comes to the unit, in a state that agrees with s but for the way. -/
theorem arrive_serve (sound : Unpoisoned fl r s) (arrives : Arrives op r s) (placed : wellPlaced (destOf r.addr s) r = true) :
    ∃ u, arriveCommand op r fl ecc s = serve ecc r u ∧ AtP r s u :=
  ⟨portState r fl s, by rw [arrive_eq arrives sound, port_eq arrives (atP r fl s) placed], atP r fl s⟩

theorem paneOf_at {u : State} (at' : AtP r s u) (p : Nat) : u.paneOf p = s.paneOf p := by
  unfold State.paneOf
  rw [at'.panes]

theorem paneBusy_at {p : Nat} {u : State} (hp : p < 1536) (at' : AtP r s u) :
    paneBusy p op (paneEdge p u) u = paneBusy p op (paneEdge p s) s := by
  have edge : paneEdge p u = paneEdge p s := by
    unfold paneEdge
    rw [at'.now, paneOf_at at']
  unfold paneBusy
  rw [edge, at'.rd _ (by simp only [PAN.STATE]; omega), regs_same at'.cells]

theorem pane_waits {p : Nat} (sound : Unpoisoned fl r s) (arrives : Arrives .read r s) (dest : destOf r.addr s = (2, p))
    (test : s.rd (PAN.STATE p) ≠ 2) (ram : s.rd (PAN.MODE p) ≠ 1) (loaded : s.rd (CFG.FACET_STATE (p / 48)) ≠ 1)
    (fit : fits r 0x2000 = true) (busy : paneBusy p .read (paneEdge p s) s = true) :
    Gives (.meshRead r fl ecc) s fun t => t.steal = s.steal ++ [⟨r, ecc, s.now⟩] ∧ t.resps = s.resps ∧ t.mem = s.mem := by
  have hp : p < 1536 := by
    have bound := (dest_lt arrives.2.1).2.1
    rwa [dest] at bound
  obtain ⟨u, next, at'⟩ := arrive_serve (ecc := ecc) sound arrives (by rw [dest]; exact fit)
  have served : serve ecc r u = { u with steal := u.steal ++ [⟨r, ecc, u.now⟩] } := by
    unfold serve
    rw [dest_eq at'.rd, dest]
    show servePane p ecc r u = _
    unfold servePane
    rw [at'.rd _ (by simp only [PAN.STATE]; omega), at'.rd _ (by simp only [PAN.MODE]; omega),
      at'.rd _ (by simp only [CFG.FACET_STATE]; omega), if_neg (by rintro (h | h | h); exacts [test h, ram h, loaded h]),
      if_pos (by rw [arrives.1, paneBusy_at hp at', busy]; rfl)]
  refine ⟨_, congrArg Host.Outcome.next (next.trans served), ?_⟩
  exact ⟨by rw [← at'.steal, ← at'.now], at'.resps, at'.mem⟩

theorem bank_times_out {b : Nat} (sound : Unpoisoned fl r s) (arrives : Arrives .read r s) (dest : destOf r.addr s = (1, b))
    (test : s.rd (SCR.STATE b) ≠ 2) (fit : fits r 0x10000 = true) (owned : meshFree b s = false)
    (late : engEdge s.now + s.rd SCR.STEAL_LIMIT * 8192 ≤ idleClock b (meshPort b) (engEdge s.now) s) :
    Gives (.meshRead r fl ecc) s fun t => t.resps = s.resps ++ [⟨r, 2, 0⟩] ∧ t.mem = s.mem ∧
      t.rd (SCR.STEAL_TIMEOUT b) = min (s.rd (SCR.STEAL_TIMEOUT b) + 1) (2 ^ 64 - 1) := by
  have hb : b < 64 := by
    have bound := (dest_lt arrives.2.1).2.2.2.1
    rw [dest] at bound
    exact bound rfl
  obtain ⟨u, next, at'⟩ := arrive_serve (ecc := ecc) sound arrives (by rw [dest]; exact fit)
  have idle : idleClock b (meshPort b) (engEdge u.now) u = idleClock b (meshPort b) (engEdge s.now) s := by
    unfold idleClock State.bankOf
    rw [at'.banks, at'.now]
  have free : meshFree b u = meshFree b s := by
    unfold meshFree
    rw [at'.rd _ (by simp only [SCR.OWNER]; omega)]
  have served : serve ecc r u = bankTimeout b r u := by
    unfold serve
    rw [dest_eq at'.rd, dest]
    show serveBank b ecc r u = _
    unfold serveBank
    rw [at'.rd _ (by simp only [SCR.STATE]; omega), if_neg test, free, idle, at'.now, at'.rd _ (by simp only [SCR.STEAL_LIMIT]; omega),
      if_pos ⟨owned, late⟩]
  refine ⟨_, congrArg Host.Outcome.next (next.trans served), ?_⟩
  unfold bankTimeout meshAnswer
  refine ⟨?_, ?_, ?_⟩
  · show (scrFlag b 2 (u.bump 64 (SCR.STEAL_TIMEOUT b))).resps ++ _ = _
    rw [scrFlag, flag_resps, bump_resps, at'.resps]
  · show (scrFlag b 2 (u.bump 64 (SCR.STEAL_TIMEOUT b))).mem = _
    rw [scrFlag, flag_mem, bump_mem, at'.mem]
  · show (scrFlag b 2 (u.bump 64 (SCR.STEAL_TIMEOUT b))).rd _ = _
    rw [scrFlag_rd (by simp), bump_eq, at'.rd _ (by simp only [SCR.STEAL_TIMEOUT]; omega)]

end

/-- A steal that has waited too long is given up: counted, flagged and answered with an error. -/
def givenUp (p : Nat) (w : PortReq) (s : State) : State :=
  panFlag p 2 (({ s.upto (w.at' + s.rd PAN.STEAL_LIMIT * fabClk) with steal := s.steal.erase w } : State).bump 64 (PAN.STEAL_TIMEOUT p))

theorem stealTimeout_gives {r : MeshReq} {w : PortReq} {p : Nat} (waits : (s.steal.find? fun w => decide (w.req = r)) = some w)
    (dest : destOf r.addr s = (2, p)) :
    Gives (.stealTimeout r) s fun t => t.resps = s.resps ++ [⟨r, 2, 0⟩] ∧ t.steal = s.steal.erase w ∧ t.mem = s.mem ∧
      t.rd (PAN.STEAL_TIMEOUT p) = min (s.rd (PAN.STEAL_TIMEOUT p) + 1) (2 ^ 64 - 1) := by
  have next : exec (.stealTimeout r) s = .next (meshAnswer r 2 0 (givenUp p w s)) := by
    show execStealTimeout r s = _
    unfold execStealTimeout
    rw [waits]
    dsimp only
    rw [dest]
    rfl
  refine ⟨_, next, ?_⟩
  unfold meshAnswer
  refine ⟨?_, ?_, ?_, ?_⟩
  · show (givenUp p w s).resps ++ _ = _
    rw [givenUp, panFlag, flag_resps, bump_resps]
    rfl
  · show (givenUp p w s).steal = _
    rw [givenUp, panFlag, flag_steal, bump_steal]
  · show (givenUp p w s).mem = _
    rw [givenUp, panFlag_mem, bump_mem]
    rfl
  · show (givenUp p w s).rd _ = _
    rw [givenUp, panFlag_rd (by simp), bump_eq]
    rfl

/-! Power domains. -/

theorem domainPowered_gives {d : Nat} (hd : d < 96) (wakes : s.rd (CRH.PWR_STATE d) = 1) :
    Gives (.domainPowered d) s fun t => t.rd (CRH.PWR_STATE d) = 2 ∧ (32 ≤ d → t.rd (SCR.STATE (d - 32)) = 3) ∧
      ∀ j, d < 32 → j < 48 → t.rd (PAN.STATE (48 * d + j)) = 3 := by
  refine ⟨_, unitNext hd, ?_⟩
  rw [if_pos wakes]
  refine ⟨?_, fun bank => ?_, fun j pane hj => ?_⟩
  · show (domainUnits d 3 3 (s.wr (CRH.PWR_STATE d) 2)).rd _ = _
    rw [units_rd (by simp only [CRH.PWR_STATE]; omega), rd_wr_same]
  · show (domainUnits d 3 3 (s.wr (CRH.PWR_STATE d) 2)).rd _ = _
    unfold domainUnits
    rw [if_neg (by omega), rd_modBank, rd_wr_same]
  · show (domainUnits d 3 3 (s.wr (CRH.PWR_STATE d) 2)).rd _ = _
    unfold domainUnits
    rw [if_pos pane]
    exact units_pane d 3 pane _ _ j hj (List.mem_range.2 hj) fun i => List.mem_range.1

theorem pwr_performHeld {d : Nat} (hd : d < 96) (which : MeshReq → Bool) (on : s.rd (CRH.PWR_STATE d) = 3) :
    (performHeld which s).rd (CRH.PWR_STATE d) = 3 := fold_pwr hd _ _ on

theorem pwr_pumpBank {d : Nat} (hd : d < 96) (b : Nat) : (pumpBank b s).rd (CRH.PWR_STATE d) = s.rd (CRH.PWR_STATE d) := by
  refine frq (k := CRH.PWR_STATE d) (f := pumpBank b) (pumpBank_fr b s (fr_refl s) (fun u => ?_) (fun u => ?_) (fun u => ?_) (fun u => ?_)
    (fun u => ?_) (fun u => ?_) (fun u => ?_) (fun u => ?_) (fun u => ?_) (fun u => ?_) (fun u => ?_) (fun u => ?_) (fun u => ?_)
    fun u => ?_) <;>
  simp only [CRH.PWR_STATE, DSP.FLAGS, DSP.MOVE_INFLIGHT, DSP.MOVE_ISSUED, DSP.CYCLES, DSP.FAULT, DSP.FAULT_PC, DSP.MOVE_DROPPED,
    DSP.STATE, DSP.WDOG_LEFT, SCR.CE, SCR.EVFLAGS, SCR.UE, SCR.COLLIDE, DSP.STALLS] <;> omega

theorem clearEnd_gives {d : Nat} (hd : d < 96) (clears : s.rd (CRH.PWR_STATE d) = 2) :
    Gives (.clearEnd d) s fun t => t.rd (CRH.PWR_STATE d) = 3 := by
  have on : (crhFlag 2 (domainUnits d 0 0 (s.wr (CRH.PWR_STATE d) 3))).rd (CRH.PWR_STATE d) = 3 := by
    rw [crhFlag, rd_flag_other _ (by simp only [CRH.PWR_STATE, CRH.EVFLAGS]; omega), units_rd (by simp only [CRH.PWR_STATE]; omega),
      rd_wr_same]
  refine ⟨_, unitNext hd, ?_⟩
  rw [if_pos clears]
  dsimp only
  split
  · exact pwr_performHeld hd _ on
  · exact (pwr_pumpBank hd _).trans (pwr_performHeld hd _ on)

/-- Settles O34: what arrives by the unit that serves it, what waits by the port or the domain it waits for. -/
theorem meshDeliveryCompletes : Obligations.MeshDeliveryCompletes := by
  refine ⟨fun r fl ecc s sound clean => ⟨fun arrives serves => ⟨_, rfl, (arrive_performed clean sound arrives serves).1 arrives.1⟩,
      fun arrives serves => ⟨_, rfl, (arrive_performed (ecc := []) (by simp) sound arrives serves).2 arrives.1⟩,
      fun arrives dram => ⟨_, rfl, serve_dram arrives sound dram⟩, fun arrives dram => ⟨_, rfl, serve_dram arrives sound dram⟩,
      fun arrives dram => ⟨_, rfl, serve_dram arrives sound dram⟩, fun p => pane_waits sound, fun b => bank_times_out sound⟩,
    fun s => ⟨fun r w p waits dest _ => stealTimeout_gives waits dest, fun d => domainPowered_gives, fun d => clearEnd_gives⟩⟩

end Sys2Proof.Proofs.MeshDelivery
end

section
/-! Routers, probes and the trace buffer (11_mesh.md R311 to R315). -/
namespace Sys2Proof.Proofs.Router
open Sys2Proof.Machine Sys2Proof.Laws Common

variable {n : Nat} {s : State}

theorem drainEff_facts (cfg : Option Nat) : (drainEff n cfg s).rd (MSH.RSTATE n) = 1 ∧
    (drainEff n cfg s).rd (MSH.RCFG n) = s.rd (MSH.RCFG n) ∧
    (drainEff n cfg s).drain = some ⟨n, cfg <|> s.drain.bind (·.cfg), cfg.isNone || s.drain.any (·.check)⟩ := by
  refine ⟨rd_wr_same .., rd_wr_other _ (by simp) _, ?_⟩
  unfold drainEff
  cases s.drain <;> rfl

/-- Beyond the members of HDI. -/
theorem rcfg_high : 0x400 ≤ MSH.RCFG n := by simp only [MSH.RCFG]; omega
theorem rstate_high : 0x400 ≤ MSH.RSTATE n := by simp only [MSH.RSTATE]; omega

/-- The settings that a drain loads, and its end flagged. -/
def resumed (n : Nat) (cfg : Option Nat) (s : State) : State :=
  mshFlag 0 ((match cfg with
    | some v => s.wr (MSH.RCFG n) v
    | none => s).bump 64 (MSH.DRAINS n))

/-- The router has resumed, with the result of its check. -/
def checked (n : Nat) (check pass : Bool) (s : State) : State :=
  let t := { s.wr (MSH.RSTATE n) 0 with drain := none }
  if check then t.wr (MSH.RCHECK n) (if pass then 1 else 2) else t

theorem resumed_other {k : Nat} (cfg : Option Nat) (h : k ∉ [MSH.RCFG n, MSH.DRAINS n, MSH.EVFLAGS]) : (resumed n cfg s).rd k = s.rd k := by
  simp only [List.mem_cons, List.not_mem_nil, not_or] at h
  obtain ⟨h1, h2, h3, -⟩ := h
  unfold resumed mshFlag
  rw [rd_flag_other _ h3, bump_ne h2]
  cases cfg
  · rfl
  · exact rd_wr_other _ h1 _

theorem resumed_cfg (v : Nat) : (resumed n (some v) s).rd (MSH.RCFG n) = v := by
  unfold resumed mshFlag
  rw [rd_flag_other _ (by simp only [MSH.RCFG, MSH.EVFLAGS]; omega), bump_ne (by simp), rd_wr_same]

theorem resumed_drain (cfg : Option Nat) : (resumed n cfg s).drain = s.drain := by
  unfold resumed mshFlag
  rw [flag_drain, bump_drain]
  cases cfg <;> rfl

theorem checked_facts (check pass : Bool) : (checked n check pass s).rd (MSH.RSTATE n) = 0 ∧ (checked n check pass s).drain = none ∧
    (check = true → (checked n check pass s).rd (MSH.RCHECK n) = if pass then 1 else 2) := by
  unfold checked
  cases check
  · exact ⟨rd_wr_same .., rfl, fun h => absurd h Bool.false_ne_true⟩
  · exact ⟨(rd_wr_other _ (by simp) _).trans (rd_wr_same ..), rfl, fun _ => rd_wr_same ..⟩

theorem drainEnd_gives {cfg : Option Nat} {check : Bool} (pass : Bool) (hn : n < 64) (drains : s.drain = some ⟨n, cfg, check⟩) :
    Gives (.drainEnd n pass) s fun t => t.rd (MSH.RSTATE n) = 0 ∧ t.drain = none ∧
      (check = true → t.rd (MSH.RCHECK n) = if pass then 1 else 2) ∧ ∀ v, cfg = some v → t.rd (MSH.RCFG n) = v := by
  have next : exec (.drainEnd n pass) s = .next (resumed n cfg (checked n check pass s)) := by
    refine (unitNext hn).trans (congrArg _ ?_)
    rw [drains]
    exact if_pos rfl
  obtain ⟨state, drain, check'⟩ := checked_facts (n := n) (s := s) check pass
  refine ⟨_, next, ?_, (resumed_drain _).trans drain, fun h => ?_, ?_⟩
  · exact (resumed_other _ (by simp [MSH.RSTATE, MSH.RCFG, MSH.DRAINS, MSH.EVFLAGS]; omega)).trans state
  · exact (resumed_other _ (by simp [MSH.RCHECK, MSH.RCFG, MSH.DRAINS, MSH.EVFLAGS]; omega)).trans (check' h)
  · rintro v rfl
    exact resumed_cfg v

/-- Settles O35: each command by its effect. -/
theorem routerCommandsComplete : Obligations.RouterCommandsComplete := by
  refine fun q s => ⟨fun n hn h hc => ?_, fun n v hn h hc => ?_, fun n cfg check pass hn => drainEnd_gives pass hn, fun p hp h => ?_,
    fun p hp h => ?_, fun p hp h => ?_, fun v h => ?_⟩
  · refine givesCmd rfl hn h hc fun t like => ?_
    obtain ⟨state, -, drain⟩ := drainEff_facts (n := n) (s := s) none
    exact ⟨(like_k like rstate_high).trans state, like.drain.trans drain⟩
  · refine givesWr rfl hn h hc fun t like => ?_
    obtain ⟨state, cfg, drain⟩ := drainEff_facts (n := n) (s := s) (some v)
    exact ⟨(like_k like rstate_high).trans state, like.drain.trans drain, (like_k like rcfg_high).trans cfg⟩
  · exact givesCmd rfl hp h noC fun t like => (like_k like (by simp only [MSH.PSTATE]; omega)).trans (rd_wr_same ..)
  · exact givesCmd rfl hp h noC fun t like => (like_k like (by simp only [MSH.PSTATE]; omega)).trans (rd_wr_same ..)
  · refine givesCmd rfl hp h noC fun t like => ⟨(like_k like (by simp only [MSH.PPKTS]; omega)).trans ?_,
      (like_k like (by simp only [MSH.PFLITS]; omega)).trans (rd_wr_same ..)⟩
    exact (rd_wr_other _ (by simp) _).trans (rd_wr_same ..)
  · exact givesCmd' rfl h noC fun t like => like.trace

end Sys2Proof.Proofs.Router
end

section
/-! Commands of a memory controller, training and the DRAM map (09_dram.md R250 to R256, R268). -/
namespace Sys2Proof.Proofs.DmcControl
open Sys2Proof.Machine Sys2Proof.Laws Common CompleteDmc

variable {n : Nat} {s : State}

theorem state_high : 0x400 ≤ DMC.STATE n := by simp only [DMC.STATE]; omega

/-! Commands of DMC.CTRL. -/

theorem like_dmcState {u t : State} (like : Like u t) : dmcState n t = dmcState n u := like_k like state_high

theorem train_gives {q : Req} (hn : n < 4) (h : Writes q (DMC.CTRL n) 1 1 s) (hc : ∀ c ∈ trainConds n s, c.1 = false) :
    Gives (.dmcTrain q n) s fun t => Answered q 0 t ∧ dmcState n t = 2 ∧ (t.dmcOf n).rate = trainRate s ∧
      t.rd (DMC.CAPACITY n) = (answering n s).foldl (fun a d => a + dimmBytes d) 0 := by
  refine givesCmd rfl hn h hc fun t like => ?_
  rw [like_dmcState like, like_dmc like, like_k like (by simp only [DMC.CAPACITY]; omega)]
  exact train_facts n s

theorem retrainStart_config : (retrainStart n s).rd (DMC.CONFIG n) / 2 ^ 16 = 0 := by
  unfold retrainStart setRate
  rw [dchg (by simp only [DMC.CONFIG]; omega) (by simp only [DMC.CONFIG]; omega), rd_wr_same, Nat.zero_mul, Nat.add_zero]
  exact Nat.div_eq_of_lt (Nat.mod_lt _ (by decide))

theorem retrain_gives {q : Req} (hn : n < 4) (h : Writes q (DMC.CTRL n) 1 2 s) (running : dmcState n s = 3) :
    Gives (.dmcRetrain q n) s fun t => Answered q 0 t ∧ dmcState n t = 4 ∧ t.rd (DMC.CONFIG n) / 2 ^ 16 = 0 ∧
      t.rd (DMC.RETRAINS n) = min (s.rd (DMC.RETRAINS n) + 1) (2 ^ 64 - 1) := by
  refine givesCmd rfl hn h (one (by simp [running])) fun t like => ?_
  rw [like_dmcState like, like_k like (by simp only [DMC.CONFIG]; omega), like_k like (by simp only [DMC.RETRAINS]; omega)]
  exact ⟨(retrain_facts n s).1, retrainStart_config, (retrain_facts n s).2⟩

/-! The exclusion of a controller (R256). -/

/-- The controllers that DMC.EXCLUDE names leave one by one. -/
def excludeOne (s : State) (n : Nat) : State :=
  if s.bit DMC.EXCLUDE n = true ∧ dmcState n s ≠ 0 ∧ dmcState n s ≠ 6 then
    let t := ddrLock n false ((s.wr (DMC.STATE n) 6).wr (DMC.CONFIG n) (s.rd (DMC.CONFIG n) % 2 ^ 16))
    if dmcState n s = 2 ∨ dmcState n s = 4 then dmcFlag n 0 t else t
  else s

theorem excludeNamed_eq : excludeNamed s = (List.range 4).foldl excludeOne s := rfl

theorem excludeOne_rd {k : Nat} (hs : k ≠ DMC.STATE n) (hc : k ≠ DMC.CONFIG n) (he : k ≠ DMC.EVFLAGS n) (hl : k ≠ CRH.CLK_STATUS) :
    (excludeOne s n).rd k = s.rd k := by
  unfold excludeOne
  dsimp only
  split
  · split
    · rw [df he, dl hl, rd_wr_other _ hc, rd_wr_other _ hs]
    · rw [dl hl, rd_wr_other _ hc, rd_wr_other _ hs]
  · rfl

theorem excludeOne_exclude : (excludeOne s n).rd DMC.EXCLUDE = s.rd DMC.EXCLUDE :=
  excludeOne_rd (by simp only [DMC.EXCLUDE, DMC.STATE]; omega) (by simp only [DMC.EXCLUDE, DMC.CONFIG]; omega)
    (by simp only [DMC.EXCLUDE, DMC.EVFLAGS]; omega) (by decide)

theorem excludeOne_state : dmcState n (excludeOne s n) =
    if s.bit DMC.EXCLUDE n = true ∧ dmcState n s ≠ 0 ∧ dmcState n s ≠ 6 then 6 else dmcState n s := by
  unfold excludeOne
  dsimp only
  split
  · have left : dmcState n (ddrLock n false ((s.wr (DMC.STATE n) 6).wr (DMC.CONFIG n) (s.rd (DMC.CONFIG n) % 2 ^ 16))) = 6 := by
      unfold dmcState
      rw [dl (cs _ _), rd_wr_other _ (by simp), rd_wr_same]
    split
    · exact (df (by simp)).trans left
    · exact left
  · rfl

theorem excludeOne_other {m : Nat} (h : m ≠ n) : dmcState m (excludeOne s n) = dmcState m s :=
  excludeOne_rd (by simp only [DMC.STATE]; omega) (by simp only [DMC.STATE, DMC.CONFIG]; omega)
    (by simp only [DMC.STATE, DMC.EVFLAGS]; omega) (cs _ _)

/-- A controller that is absent or excluded stays so. -/
theorem excludeOne_gone {m : Nat} (gone : dmcState m s = 0 ∨ dmcState m s = 6) : dmcState m (excludeOne s n) = 0 ∨ dmcState m (excludeOne s n) = 6 := by
  by_cases e : m = n
  · subst e
    rw [excludeOne_state, if_neg (by omega)]
    exact gone
  · rw [excludeOne_other e]
    exact gone

theorem excludeOne_self (named : s.bit DMC.EXCLUDE n = true) : dmcState n (excludeOne s n) = 0 ∨ dmcState n (excludeOne s n) = 6 := by
  rw [excludeOne_state]
  split
  · exact .inr rfl
  next h =>
    rw [not_and_or, not_and_or, not_not, not_not] at h
    exact h.resolve_left (absurd named)

theorem excluded_gone {m : Nat} : ∀ (l : List Nat) (s : State), s.bit DMC.EXCLUDE m = true → m ∈ l ∨ dmcState m s = 0 ∨ dmcState m s = 6 →
    dmcState m (l.foldl excludeOne s) = 0 ∨ dmcState m (l.foldl excludeOne s) = 6
  | [], _, _, h => h.resolve_left List.not_mem_nil
  | a :: l, s, named, h => by
    refine excluded_gone l (excludeOne s a) ((bit_of_rd excludeOne_exclude).trans named) ?_
    rcases h with h | gone
    · rcases List.mem_cons.1 h with rfl | h
      · exact .inr (excludeOne_self named)
      · exact .inl h
    · exact .inr (excludeOne_gone gone)

theorem excludeNamed_exclude : (excludeNamed s).rd DMC.EXCLUDE = s.rd DMC.EXCLUDE := by
  have all : ∀ (l : List Nat) (s : State), (l.foldl excludeOne s).rd DMC.EXCLUDE = s.rd DMC.EXCLUDE := by
    intro l
    induction l with
    | nil => exact fun _ => rfl
    | cons a l ih => exact fun s => (ih _).trans excludeOne_exclude
  rw [excludeNamed_eq]
  exact all _ _

/-- Among the controllers that are left, one in state 3 is populated. -/
theorem ready_populated (hn : n < 4) (ready : dmcState n (excludeNamed s) = 3) : populated n (excludeNamed s) = true := by
  have kept : (excludeNamed s).bit DMC.EXCLUDE n = false := by
    by_contra named
    rw [Bool.not_eq_false, bit_of_rd excludeNamed_exclude] at named
    have := excluded_gone (List.range 4) s named (.inl (List.mem_range.2 hn))
    rw [← excludeNamed_eq] at this
    omega
  unfold populated
  rw [ready, kept]
  rfl

/-! The map (R255). -/

/-- The controllers in state 3. -/
def members (s : State) : List Nat := (List.range 4).filter fun n => Nat.beq (dmcState n s) 3

/-- The members of the map, as it forms over ways channels of cap bytes each, or does not. -/
def mapped (st ways installed rank : Nat) (s : State) : State :=
  (((s.wr DMC.MAP_STATE st).wr DMC.WAYS ways).wr DMC.INSTALLED installed).wr DMC.RANK_BYTES rank

theorem mapped_facts (st ways installed rank : Nat) : (mapped st ways installed rank s).rd DMC.MAP_STATE = st ∧
    (mapped st ways installed rank s).rd DMC.WAYS = ways ∧ (mapped st ways installed rank s).rd DMC.INSTALLED = installed := by
  unfold mapped
  refine ⟨?_, ?_, ?_⟩
  · rw [rd_wr_other _ (by decide), rd_wr_other _ (by decide), rd_wr_other _ (by decide), rd_wr_same]
  · rw [rd_wr_other _ (by decide), rd_wr_other _ (by decide), rd_wr_same]
  · rw [rd_wr_other _ (by decide), rd_wr_same]

theorem mapped_low {k : Nat} (st ways installed rank : Nat) (h : k ∉ [DMC.MAP_STATE, DMC.WAYS, DMC.INSTALLED, DMC.RANK_BYTES]) :
    (mapped st ways installed rank s).rd k = s.rd k := by
  simp only [List.mem_cons, List.not_mem_nil, not_or] at h
  obtain ⟨h1, h2, h3, h4, -⟩ := h
  unfold mapped
  rw [rd_wr_other _ h4, rd_wr_other _ h3, rd_wr_other _ h2, rd_wr_other _ h1]

/-- Can the controllers in state 3 form a map (R255)? -/
def Forms (s : State) : Prop :=
  let m := members s
  (m.length = 1 ∨ m.length = 2 ∨ m.length = 4) ∧ ((List.range 4).all fun n => !(populated n s) || Nat.beq (dmcState n s) 3) = true ∧
    (m.all fun n => Nat.beq (s.rd (DMC.CAPACITY n)) (s.rd (DMC.CAPACITY (m.headD 0)))
      && Nat.beq (s.rd (DMC.CONFIG n) % 16) (s.rd (DMC.CONFIG (m.headD 0)) % 16)) = true

theorem formMap_of_forms (h : Forms (excludeNamed s)) : ∃ rank, formMap s =
    mapped 1 (members (excludeNamed s)).length
      ((members (excludeNamed s)).length * (excludeNamed s).rd (DMC.CAPACITY ((members (excludeNamed s)).headD 0))) rank (excludeNamed s) :=
  ⟨_, if_pos h⟩

theorem formMap_of_not (h : ¬ Forms (excludeNamed s)) : formMap s =
    mapped (if (List.range 4).any (fun n => populated n (excludeNamed s)) then 2 else 0) (members (excludeNamed s)).length 0 0 (excludeNamed s) :=
  if_neg h

/-- Whichever way it goes, the map leaves the controllers as the exclusion left them. -/
theorem formMap_low {k : Nat} (h : k ∉ [DMC.MAP_STATE, DMC.WAYS, DMC.INSTALLED, DMC.RANK_BYTES]) : (formMap s).rd k = (excludeNamed s).rd k := by
  by_cases f : Forms (excludeNamed s)
  · obtain ⟨rank, e⟩ := formMap_of_forms f
    rw [e, mapped_low _ _ _ _ h]
  · rw [formMap_of_not f, mapped_low _ _ _ _ h]

theorem populated_formMap : populated n (formMap s) = populated n (excludeNamed s) := by
  have state : dmcState n (formMap s) = dmcState n (excludeNamed s) :=
    formMap_low (by simp [DMC.STATE, DMC.MAP_STATE, DMC.WAYS, DMC.INSTALLED, DMC.RANK_BYTES]; omega)
  unfold populated
  rw [state, bit_of_rd (formMap_low (by decide))]

/-- With no controller populated no map forms. -/
theorem formMap_empty (h : ∀ n, n < 4 → populated n (formMap s) = false) : (formMap s).rd DMC.MAP_STATE = 0 := by
  have none : ∀ n, n < 4 → populated n (excludeNamed s) = false := fun n hn => populated_formMap.symm.trans (h n hn)
  have empty : members (excludeNamed s) = [] := List.filter_eq_nil_iff.2 fun m hm ready => by
    have pop := ready_populated (List.mem_range.1 hm) (Nat.eq_of_beq_eq_true ready)
    rw [none m (List.mem_range.1 hm)] at pop
    exact Bool.false_ne_true pop
  have not : ¬ Forms (excludeNamed s) := by
    rintro ⟨size, -⟩
    rw [empty] at size
    exact absurd size (by decide)
  rw [formMap_of_not not, (mapped_facts ..).1, if_neg]
  rw [Bool.not_eq_true, List.any_eq_false]
  exact fun n hn => by rw [none n (List.mem_range.1 hn)]; decide

theorem excludeEff_facts {v : Nat} : (excludeEff v s).rd DMC.EXCLUDE = v ∧
    (s.rd DMC.MAP_STATE = 2 → (∀ n, n < 4 → populated n (excludeEff v s) = false) → (excludeEff v s).rd DMC.MAP_STATE = 0) := by
  unfold excludeEff
  dsimp only
  have set : (dmcChanged (s.wr DMC.EXCLUDE v)).rd DMC.EXCLUDE = v := (dchg (by decide) (by decide)).trans (rd_wr_same ..)
  split
  · exact ⟨(form_excl _).trans set, fun _ => formMap_empty⟩
  next h => exact ⟨set, fun e => absurd e h⟩

theorem exclude_gives {q : Req} {v : Nat} (h : Writes q DMC.EXCLUDE 4 v s) (free : s.rd DMC.MAP_STATE ≠ 1) :
    Gives (.excludeWrite q v) s fun t => Answered q 0 t ∧ t.rd DMC.EXCLUDE = v ∧
      (s.rd DMC.MAP_STATE = 2 → (∀ n, n < 4 → populated n t = false) → t.rd DMC.MAP_STATE = 0) := by
  refine givesWr' rfl h (one (Bool.eq_false_iff.2 fun h => free (Nat.eq_of_beq_eq_true h))) fun t like => ?_
  have pop (n : Nat) : populated n t = populated n (excludeEff v s) := by
    unfold populated
    rw [like_dmcState like, bit_of_rd (like_k like (by decide))]
  simp only [pop]
  rw [like_k like (by decide), like_k like (by decide)]
  exact excludeEff_facts

theorem retain_gives {q : Req} {v : Nat} (h : Writes q DMC.RETAIN 4 v s) (hc : ∀ c ∈ retainConds v s, c.1 = false) :
    Gives (.retainWrite q v) s fun t => Answered q 0 t ∧ t.rd DMC.RETAIN = v :=
  givesWr' rfl h hc fun t like => (like_k like (by decide)).trans (rd_wr_same ..)

/-- What lets the map form, with the word of R255 for the members' agreement. -/
theorem forms_iff : Forms s ↔ (members s).length ∈ [1, 2, 4] ∧ (∀ n, n < 4 → populated n s = true → dmcState n s = 3) ∧
    ∀ n ∈ members s, s.rd (DMC.CAPACITY n) = s.rd (DMC.CAPACITY ((members s).headD 0)) ∧
      s.rd (DMC.CONFIG n) % 16 = s.rd (DMC.CONFIG ((members s).headD 0)) % 16 := by
  unfold Forms
  dsimp only
  rw [pop4, same_iff]
  simp

theorem execMapForm_of_ready (open' : s.rd DMC.MAP_STATE = 0) (ready : mapReady s = true) : exec .mapForm s = .next (formMap s) :=
  congrArg _ (if_pos ⟨open', ready⟩)

theorem mapForm_gives (open' : s.rd DMC.MAP_STATE = 0) (ready : mapReady s = true) (none : s.rd DMC.EXCLUDE = 0) :
    (Forms s → Gives .mapForm s fun t => t.rd DMC.MAP_STATE = 1 ∧ t.rd DMC.WAYS = (members s).length ∧
      t.rd DMC.INSTALLED = (members s).length * s.rd (DMC.CAPACITY ((members s).headD 0))) ∧
    (¬ Forms s → Gives .mapForm s fun t => t.rd DMC.MAP_STATE = 2 ∧ t.rd DMC.INSTALLED = 0) := by
  have kept : excludeNamed s = s := exclNone none
  refine ⟨fun f => ⟨_, execMapForm_of_ready open' ready, ?_⟩, fun f => ⟨_, execMapForm_of_ready open' ready, ?_⟩⟩
  · obtain ⟨rank, e⟩ := formMap_of_forms (kept.symm ▸ f)
    rw [e, kept]
    exact mapped_facts ..
  · rw [formMap_of_not (kept.symm ▸ f), kept]
    have some : (List.range 4).any (fun n => populated n s) = true := by
      unfold mapReady at ready
      exact (Bool.and_eq_true_iff.1 ready).1
    rw [if_pos some]
    exact ⟨(mapped_facts ..).1, (mapped_facts ..).2.2⟩

/-! Training (R251 to R254). -/

theorem trainStart_auto : (trainStart n s).autoTrain = s.autoTrain := by
  simp [trainStart, ddrLock, spdRead, dmcEnter, dmcFlag]

/-- One controller begins its automatic training (R251). -/
def autoOne (s : State) (n : Nat) : State := if dmcState n s = 1 ∧ s.bit DMC.EXCLUDE n = false then trainStart n s else s

theorem fold_auto : ∀ (l : List Nat) (s : State), (l.foldl autoOne s).autoTrain = s.autoTrain
  | [], _ => rfl
  | n :: l, s => (fold_auto l (autoOne s n)).trans (by unfold autoOne; split; exacts [trainStart_auto, rfl])

theorem execAutoTrainStart_of_due (due : s.autoTrain = true) : exec .autoTrainStart s =
    .next ((List.range 4).foldl autoOne { s with autoTrain := false }) :=
  congrArg Host.Outcome.next (if_pos due)

theorem autoTrain_gives (due : s.autoTrain = true) : Gives .autoTrainStart s fun t => t.autoTrain = false ∧
    ∀ n, n < 4 → dmcState n s = 1 → s.bit DMC.EXCLUDE n = false → dmcState n t = 2 :=
  ⟨_, execAutoTrainStart_of_due due, fold_auto (List.range 4) _, fun n hn waits kept =>
    (auto_fold (List.range 4) { s with autoTrain := false } List.nodup_range n).1 (List.mem_range.2 hn) waits kept⟩

/-- A training with result 1 makes the controller READY (R252). -/
def trained (n : Nat) (s t : State) : State :=
  (dmcEnter n 3 (t.wr (DMC.CONFIG n) (t.rd (DMC.CONFIG n) % 2 ^ 16 + (s.dmcOf n).rate * 2 ^ 16))).modDmc n
    fun x => { x with trainTemp := none, bankFree := [], rows := [], rowsAt := s.now }

theorem execTrainingEnd_of_training (hn : n < 4) (st : dmcState n s = 2) (eye : Bool) : exec (.trainingEnd n eye) s =
    .next (if trainResult n eye s = 1 then trained n s (s.wr (DMC.TRAIN_RESULT n) (trainResult n eye s))
      else dmcFail n (s.wr (DMC.TRAIN_RESULT n) (trainResult n eye s))) :=
  (unitNext hn).trans (congrArg _ (if_pos st))

theorem trainingEnd_gives (hn : n < 4) (st : dmcState n s = 2) (eye : Bool) : Gives (.trainingEnd n eye) s fun t =>
    t.rd (DMC.TRAIN_RESULT n) = trainResult n eye s ∧ dmcState n t = if trainResult n eye s = 1 then 3 else 5 := by
  refine ⟨_, execTrainingEnd_of_training hn st eye, ?_⟩
  split
  · unfold trained dmcState
    rw [rd_modDmc, rd_modDmc, enter_rd (by simp) (by simp), rd_wr_other _ (by simp), rd_wr_same]
    exact ⟨rfl, dmcEnter_state ..⟩
  · rw [dmcFail_tr, rd_wr_same]
    exact ⟨rfl, dmcFail_state ..⟩

/-- The instant of the automatic retraining, not sooner than its limit allows, recorded (R254). -/
def autoAt (n : Nat) (s : State) : State :=
  let s := match (s.dmcOf n).lastAuto with
    | some t => s.upto (t + 100000 * ticksPerUs)
    | none => s
  s.modDmc n fun y => { y with lastAuto := some s.now }

theorem autoAt_rd (k : Nat) : (autoAt n s).rd k = s.rd k := by
  unfold autoAt
  dsimp only
  rw [rd_modDmc]
  split <;> rfl

theorem autoRetrain_gives {tt : Nat} (hn : n < 4) (st : dmcState n s = 3) (on : s.rd (DMC.AUTO_RETRAIN n) ≠ 0)
    (ht : (s.dmcOf n).trainTemp = some tt) (moved : s.rd (DMC.AUTO_RETRAIN n) ≤ (toS16 (s.dmcOf n).temp - toS16 tt).natAbs) :
    Gives (.autoRetrain n) s fun t => dmcState n t = 4 ∧ t.rd (DMC.RETRAINS n) = min (s.rd (DMC.RETRAINS n) + 1) (2 ^ 64 - 1) := by
  have far : s.rd (DMC.AUTO_RETRAIN n) ≤ sensorMoved (s.dmcOf n) := by unfold sensorMoved; rw [ht]; exact moved
  refine ⟨retrainStart n (autoAt n s), (unitNext hn).trans (congrArg _ (if_pos ⟨st, on, far⟩)), (retrain_facts ..).1, ?_⟩
  rw [(retrain_facts ..).2, autoAt_rd]

/-- A retraining that passed (R253). -/
def retrained (n : Nat) (s : State) : State :=
  (setRate n (s.dmcOf n).rate (dmcEnter n 3 s)).modDmc n fun x => { x with trainTemp := x.trainTemp.map fun _ => x.temp }

theorem retrainingEnd_gives (hn : n < 4) (st : dmcState n s = 4) (idle : (s.dmcOf n).track = []) (quiet : (s.dmcOf n).scrub = none) (ok : Bool) :
    Gives (.retrainingEnd n ok) s fun t => dmcState n t = (if ok then 3 else 5) ∧
      (ok = true → t.rd (DMC.CONFIG n) / 2 ^ 16 = (s.dmcOf n).rate) := by
  refine ⟨if ok then retrained n s else dmcFail n s, (unitNext hn).trans (congrArg _ (if_pos ⟨st, idle, quiet⟩)), ?_⟩
  cases ok
  · exact ⟨dmcFail_state .., fun h => absurd h Bool.false_ne_true⟩
  · rw [if_pos rfl, if_pos rfl]
    unfold retrained dmcState setRate
    rw [rd_modDmc, rd_modDmc, rd_wr_other _ (by simp), rd_wr_same]
    refine ⟨dmcEnter_state .., fun _ => ?_⟩
    rw [Nat.add_mul_div_right _ _ (by decide), Nat.div_eq_of_lt (Nat.mod_lt _ (by decide)), Nat.zero_add]

/-- The sensor's value taken (R268). -/
def sensed (n temp : Nat) (s : State) : State :=
  s.modDmc n fun x => { x with temp := temp % 65536, hot := decide (1360 < toS16 temp), trainTemp := some (x.trainTemp.getD (temp % 65536)) }

theorem dimmTempRead_gives (temp : Nat) (hn : n < 4) (st : dmcState n s = 3 ∨ dmcState n s = 4) : Gives (.dimmTempRead n temp) s fun t =>
    (t.dmcOf n).temp = temp % 65536 ∧ (t.dmcOf n).hot = decide (1360 < toS16 temp) := by
  refine ⟨if decide (1360 < toS16 temp) = (s.dmcOf n).hot then sensed n temp s else dmcFlag n 6 (sensed n temp s),
    (unitNext hn).trans (congrArg _ (if_pos st)), ?_⟩
  have taken : (if decide (1360 < toS16 temp) = (s.dmcOf n).hot then sensed n temp s else dmcFlag n 6 (sensed n temp s)).dmcOf n =
      (sensed n temp s).dmcOf n := by
    split
    · rfl
    · exact df_dmc ..
  dsimp only
  rw [taken, sensed, dmcOf_modDmc]
  exact ⟨rfl, rfl⟩

/-- The clock of a controller locked at its rate (R403). -/
def locked (n : Nat) (s : State) : State := (ddrLock n true s).modDmc n fun y => { y with pllRate := (s.dmcOf n).rate }

theorem execDdrPllLock_of_unlocked (hn : n < 4) (st : dmcState n s = 2 ∨ dmcState n s = 3 ∨ dmcState n s = 4)
    (out : s.bit CRH.CLK_STATUS (5 + n) = false) : exec (.ddrPllLock n) s =
      .next (if (locked n s).crh.plls.any (fun e => Nat.beq e.1 n) then
        crhFlag 3 { locked n s with crh := { (locked n s).crh with plls := (locked n s).crh.plls.filter fun e => !(Nat.beq e.1 n) } }
      else locked n s) :=
  (unitNext hn).trans (congrArg _ (if_pos ⟨st, out⟩))

theorem ddrPllLock_gives (hn : n < 4) (st : dmcState n s = 2 ∨ dmcState n s = 3 ∨ dmcState n s = 4)
    (out : s.bit CRH.CLK_STATUS (5 + n) = false) :
    Gives (.ddrPllLock n) s fun t => t.bit CRH.CLK_STATUS (5 + n) = true ∧ (t.dmcOf n).pllRate = (s.dmcOf n).rate := by
  refine ⟨_, execDdrPllLock_of_unlocked hn st out, ?_⟩
  have lock : (locked n s).bit CRH.CLK_STATUS (5 + n) = true := bit_setBit_true ..
  have rate : ((locked n s).dmcOf n).pllRate = (s.dmcOf n).rate := by rw [locked, dmcOf_modDmc]
  split
  · exact ⟨(bit_of_rd (rd_flag_other _ (by decide : CRH.CLK_STATUS ≠ CRH.EVFLAGS) ..)).trans lock,
      (congrArg DmcS.pllRate (dmcOf_flag ..)).trans rate⟩
  · exact ⟨lock, rate⟩

/-- Settles O36: each command by its effect, each end of a training by what it leaves. -/
theorem dmcControlCompletes : Obligations.DmcControlCompletes := by
  unfold Obligations.DmcControlCompletes
  refine ⟨fun q s => ?_, fun s => ?_⟩
  · exact ⟨fun n => train_gives, fun n => retrain_gives, fun v => exclude_gives, fun v => retain_gives⟩
  · exact ⟨autoTrain_gives, fun n eye hn st => trainingEnd_gives hn st eye, fun n tt => autoRetrain_gives,
      fun n ok hn st idle quiet => retrainingEnd_gives hn st idle quiet ok, fun n temp hn st => dimmTempRead_gives temp hn st,
      fun n => ddrPllLock_gives, fun open' ready none => ⟨fun f => (mapForm_gives open' ready none).1 (forms_iff.2 f),
        fun f => (mapForm_gives open' ready none).2 (mt forms_iff.1 f)⟩⟩
end Sys2Proof.Proofs.DmcControl
end

section
/-! Requests at a memory controller, refresh, promotion and patrol (09_dram.md R257 to R272). -/
namespace Sys2Proof.Proofs.DmcTraffic
open Sys2Proof.Machine Sys2Proof.Laws Common CompleteDmc

variable {n : Nat} {s : State}

/-! The tracker takes a request (R257, R262). -/

/-- The request has left the ingress buffer, counted (R257). -/
def admitted (n : Nat) (r : MeshReq) (s : State) : State :=
  (s.bump 64 (DMC.ACCEPTED n r.cls)).modDmc n fun x =>
    { x with ingress := x.ingress.erase r,
             throttles := x.throttles.map fun t => if t.src = r.src ∧ t.cls = r.cls then { t with last := s.now } else t }

theorem admitted_accepted (r : MeshReq) : (admitted n r s).rd (DMC.ACCEPTED n r.cls) = min (s.rd (DMC.ACCEPTED n r.cls) + 1) (2 ^ 64 - 1) := by
  unfold admitted
  rw [rd_modDmc, bump_eq]

theorem admitted_rd {r : MeshReq} {k : Nat} (h : k ≠ DMC.ACCEPTED n r.cls) : (admitted n r s).rd k = s.rd k := by
  unfold admitted
  rw [rd_modDmc, bump_ne h]

theorem admitted_dmc (r : MeshReq) : ((admitted n r s).dmcOf n).ingress = (s.dmcOf n).ingress.erase r ∧
    ((admitted n r s).dmcOf n).track = (s.dmcOf n).track ∧ ((admitted n r s).dmcOf n).nextId = (s.dmcOf n).nextId ∧
    ((admitted n r s).dmcOf n).rate = (s.dmcOf n).rate := by
  unfold admitted
  rw [dmcOf_modDmc]
  exact ⟨rfl, rfl, rfl, rfl⟩

/-- The tracker's entry of request r (R257, R259). -/
def entry (n : Nat) (r : MeshReq) (s : State) : Trk :=
  { id := (s.dmcOf n).nextId, req := r, at' := s.now, lead := (joins n r s).map (·.id),
    acts := if (joins n r s).isSome then [] else (subsOf r).map (·, none) }

theorem acceptReq_of_bad {r : MeshReq} (bad : dramFits r = false) : acceptReq n r s =
    meshAnswer r 2 0 ((admitted n r s).bump 64 (DMC.ERRORS n r.cls)) := if_pos bad

/-- The combined write is counted (R259). -/
def combined (n : Nat) (r : MeshReq) (s : State) : State :=
  if (joins n r s).isSome then s.bump 64 (DMC.COMBINED n) else s

theorem acceptReq_of_fit {r : MeshReq} (fit : dramFits r = true) (kept : (admitted n r s).bit DMC.RETAIN (rankOf n r.addr (admitted n r s)) = false) :
    acceptReq n r s = (combined n r (admitted n r s)).modDmc n fun x =>
      { x with track := x.track ++ [{ id := x.nextId, req := r, at' := (combined n r (admitted n r s)).now,
                                      lead := (joins n r (admitted n r s)).map (·.id),
                                      acts := if (joins n r (admitted n r s)).isSome then [] else (subsOf r).map (·, none) }],
               nextId := x.nextId + 1 } := by
  refine (if_neg (by rw [fit]; decide)).trans ((if_neg ?_).trans rfl)
  exact ne_true_of_eq_false kept

theorem combined_facts {r : MeshReq} : (combined n r s).dmcOf n = s.dmcOf n ∧ (combined n r s).now = s.now ∧
    ∀ c, c < 4 → (combined n r s).rd (DMC.ACCEPTED n c) = s.rd (DMC.ACCEPTED n c) := by
  unfold combined
  split
  · exact ⟨dmcOf_bump .., rfl, fun c low => bump_ne (by simp only [DMC.ACCEPTED, DMC.COMBINED]; omega)⟩
  · exact ⟨rfl, rfl, fun _ _ => rfl⟩

theorem acceptReq_entered {r : MeshReq} (low : r.cls < 4) (fit : dramFits r = true) (kept : s.bit DMC.RETAIN (rankOf n r.addr s) = false) :
    ((acceptReq n r s).dmcOf n).ingress = (s.dmcOf n).ingress.erase r ∧
    (acceptReq n r s).rd (DMC.ACCEPTED n r.cls) = min (s.rd (DMC.ACCEPTED n r.cls) + 1) (2 ^ 64 - 1) ∧
    ((acceptReq n r s).dmcOf n).track = (s.dmcOf n).track ++ [entry n r s] := by
  obtain ⟨ingress, track, nextId, rate⟩ := admitted_dmc (n := n) (s := s) r
  obtain ⟨same, now, rd⟩ := combined_facts (n := n) (s := admitted n r s) (r := r)
  have rank : rankOf n r.addr (admitted n r s) = rankOf n r.addr s :=
    rank_eq (admitted_rd (by simp only [DMC.CONFIG, DMC.ACCEPTED]; omega)) (admitted_rd (by simp only [DMC.WAYS, DMC.ACCEPTED]; omega))
  have ret : (admitted n r s).bit DMC.RETAIN (rankOf n r.addr s) = s.bit DMC.RETAIN (rankOf n r.addr s) :=
    bit_of_rd (admitted_rd (by simp only [DMC.RETAIN, DMC.ACCEPTED]; omega))
  rw [acceptReq_of_fit fit (by rw [rank, ret, kept]), dmcOf_modDmc, rd_modDmc, rd _ low, admitted_accepted, same, now,
    joins_eq track rate rfl, track, nextId]
  exact ⟨ingress, rfl, rfl⟩

theorem acceptReq_refused {r : MeshReq} (bad : dramFits r = false) : ((acceptReq n r s).dmcOf n).ingress = (s.dmcOf n).ingress.erase r ∧
    (acceptReq n r s).resps = s.resps ++ [⟨r, 2, 0⟩] ∧
    (r.cls < 4 → (acceptReq n r s).rd (DMC.ERRORS n r.cls) = min (s.rd (DMC.ERRORS n r.cls) + 1) (2 ^ 64 - 1)) := by
  rw [acceptReq_of_bad bad]
  refine ⟨?_, rfl, fun low => ?_⟩
  · change (((admitted n r s).bump 64 (DMC.ERRORS n r.cls)).dmcOf n).ingress = _
    rw [dmcOf_bump, (admitted_dmc r).1]
  change ((admitted n r s).bump 64 (DMC.ERRORS n r.cls)).rd (DMC.ERRORS n r.cls) = _
  rw [bump_eq, admitted_rd (by simp only [DMC.ERRORS, DMC.ACCEPTED]; omega)]

theorem execDmcAccept_of_head {r : MeshReq} {rest : List MeshReq} (hn : n < 4) (ready : dmcState n s = 3)
    (head : (s.dmcOf n).ingress = r :: rest) (room : admits n r.cls s = true) (open' : acceptFrom n r s ≤ s.now) :
    exec (.dmcAccept n) s = .next (acceptReq n r s) := by
  refine (unitNext hn).trans (congrArg _ ((if_pos ready).trans ?_))
  have first : ((s.dmcOf n).ingress.filter fun r => admits n r.cls s).find? (fun r => Nat.ble (acceptFrom n r s) s.now) = some r := by
    rw [head, List.filter_cons, if_pos room]
    exact List.find?_cons_of_pos (Nat.ble_eq_true_of_le open')
  dsimp only
  rw [first]

theorem accept_gives {r : MeshReq} {rest : List MeshReq} (hn : n < 4) (ready : dmcState n s = 3)
    (head : (s.dmcOf n).ingress = r :: rest) (low : r.cls < 4) (room : admits n r.cls s = true) (open' : acceptFrom n r s ≤ s.now) :
    (dramFits r = true → s.bit DMC.RETAIN (rankOf n r.addr s) = false → Gives (.dmcAccept n) s fun t =>
      (t.dmcOf n).ingress = rest ∧ t.rd (DMC.ACCEPTED n r.cls) = min (s.rd (DMC.ACCEPTED n r.cls) + 1) (2 ^ 64 - 1) ∧
      (t.dmcOf n).track = (s.dmcOf n).track ++ [entry n r s]) ∧
    (dramFits r = false → Gives (.dmcAccept n) s fun t => (t.dmcOf n).ingress = rest ∧ t.resps = s.resps ++ [⟨r, 2, 0⟩] ∧
      t.rd (DMC.ERRORS n r.cls) = min (s.rd (DMC.ERRORS n r.cls) + 1) (2 ^ 64 - 1)) := by
  have next := execDmcAccept_of_head hn ready head room open'
  have first : (s.dmcOf n).ingress.erase r = rest := by rw [head, List.erase_cons_head]
  refine ⟨fun fit kept => ⟨_, next, ?_⟩, fun bad => ⟨_, next, ?_⟩⟩
  · obtain ⟨ingress, count, track⟩ := acceptReq_entered (n := n) low fit kept
    exact ⟨ingress.trans first, count, track⟩
  · obtain ⟨ingress, resps, count⟩ := acceptReq_refused (n := n) (s := s) bad
    exact ⟨ingress.trans first, resps, count low⟩

/-! An access is issued (R258, R263). -/

theorem activate_kept (b row t cycle : Nat) (r : Option MeshReq) : ((activate n b row t cycle r s).dmcOf n).rot = (s.dmcOf n).rot ∧
    ((activate n b row t cycle r s).dmcOf n).track = (s.dmcOf n).track := by
  have kept := countRow_g n row t r b (s.modDmc n fun d => { d with bankFree := (d.bankFree.filter fun e => !(Nat.beq e.1 b)) ++ [(b, t + cycle)] })
  rw [dmcOf_modDmc] at kept
  simp only [Prod.mk.injEq] at kept
  obtain ⟨-, track, -, rot, -⟩ := kept
  exact ⟨rot, track⟩

theorem rfmIssue_scrub (b : Nat) : ((rfmIssue n b s).dmcOf n).scrub = (s.dmcOf n).scrub := by
  unfold rfmIssue
  dsimp only
  rw [dmcOf_modDmc]
  rfl

theorem countRow_scrub (row t b : Nat) : ((countRow n row t none b s).dmcOf n).scrub = (s.dmcOf n).scrub := by
  unfold countRow
  dsimp only
  split
  · rw [rfmIssue_scrub, dmcOf_bump, dmcOf_modDmc]
  · rw [dmcOf_modDmc]

theorem activate_scrub (b row t cycle : Nat) : ((activate n b row t cycle none s).dmcOf n).scrub = (s.dmcOf n).scrub := by
  unfold activate
  rw [countRow_scrub, dmcOf_modDmc]

/-- The tracker with access x issued at t. -/
def issuedAt (x : Access) (t : Nat) (l : List Trk) : List Trk :=
  l.map fun y => if y.id = x.1.id then { y with acts := y.acts.map fun e => if e.1 = x.2 then (e.1, some t) else e } else y

theorem issueAccess_facts (x : Access) (t : Nat) : ((issueAccess n x t s).dmcOf n).rot = (s.dmcOf n).rot ∧
    ((issueAccess n x t s).dmcOf n).track = issuedAt x t (s.dmcOf n).track := by
  unfold issueAccess
  dsimp only
  rw [(activate_kept ..).1, (activate_kept ..).2, dmcOf_modDmc]
  exact ⟨rfl, rfl⟩

/-- The instant of the earliest of several activates, not before now. -/
def earliest (now a : Nat) (rest : List Nat) : Nat := max now (rest.foldl min a)

/-- What the issue of an access does once its candidates and the patrol are known. -/
def issueOne (n a : Nat) (rest : List Nat) (s : State) : State :=
  let t := earliest s.now a rest
  let pick := choose (accClass n s) (promoted n s) ((candidates n s).filter fun x => Nat.ble (readyAt n x s) t) (s.dmcOf n).rot (s.dmcOf n).lastLow t
  match (patrolReady n s).filter fun p => Nat.ble p.2 t && patrolFirst n pick.1 p.1 s with
  | some p => issuePatrol n p.1 t (s.upto t)
  | none =>
    match pick.1 with
    | some x => issueAccess n x t ((s.upto t).modDmc n fun d => { d with rot := pick.2 })
    | none => s

theorem execDmcAccessIssue_of {a : Nat} {rest : List Nat} (hn : n < 4) (on : dmcState n s = 3 ∨ dmcState n s = 4)
    (all : (candidates n s).map (fun x => readyAt n x s) ++ ((patrolReady n s).map (·.2)).toList = a :: rest) :
    exec (.dmcAccessIssue n) s = .next (issueOne n a rest s) := by
  refine (unitNext hn).trans (congrArg _ ((if_pos on).trans ?_))
  dsimp only
  rw [all]
  rfl

theorem issue_gives {c x : Access} {rest : List Access} {rot : Nat} (hn : n < 4) (on : dmcState n s = 3 ∨ dmcState n s = 4)
    (cands : candidates n s = c :: rest) (quiet : patrolReady n s = none) :
    let at' := max s.now (rest.foldl (fun m x => min m (readyAt n x s)) (readyAt n c s))
    choose (accClass n s) (promoted n s) ((c :: rest).filter fun x => Nat.ble (readyAt n x s) at') (s.dmcOf n).rot (s.dmcOf n).lastLow at' = (some x, rot) →
    Gives (.dmcAccessIssue n) s fun t => (t.dmcOf n).rot = rot ∧ (t.dmcOf n).track = issuedAt x at' (s.dmcOf n).track := by
  intro at' pick
  have first : earliest s.now (readyAt n c s) (rest.map fun x => readyAt n x s) = at' := congrArg (max s.now) List.foldl_map
  refine ⟨_, execDmcAccessIssue_of hn on (a := readyAt n c s) (rest := rest.map fun x => readyAt n x s) ?_, ?_⟩
  · rw [cands, quiet]
    exact List.append_nil _
  · have issue : issueOne n (readyAt n c s) (rest.map fun x => readyAt n x s) s =
        issueAccess n x at' ((s.upto at').modDmc n fun d => { d with rot := rot }) := by
      unfold issueOne
      dsimp only
      rw [first, cands, quiet, pick]
      rfl
    rw [issue]
    obtain ⟨rot', track⟩ := issueAccess_facts (n := n) (s := (s.upto at').modDmc n fun d => { d with rot := rot }) x at'
    rw [dmcOf_modDmc] at rot' track
    exact ⟨rot', track⟩

theorem issuePatrol_facts (p : Patrol) (t : Nat) : ((issuePatrol n p t s).dmcOf n).scrub = some { p with act := some t } ∧
    ((issuePatrol n p t s).dmcOf n).track = (s.dmcOf n).track := by
  unfold issuePatrol
  dsimp only
  rw [activate_scrub, (activate_kept ..).2, dmcOf_modDmc]
  exact ⟨rfl, rfl⟩

theorem issuePatrol_gives {p : Patrol} {e : Nat} (hn : n < 4) (on : dmcState n s = 3 ∨ dmcState n s = 4) (none' : candidates n s = [])
    (ready : patrolReady n s = some (p, e)) : Gives (.dmcAccessIssue n) s fun t =>
      (t.dmcOf n).scrub = some { p with act := some (max s.now e) } ∧ (t.dmcOf n).track = (s.dmcOf n).track := by
  refine ⟨_, execDmcAccessIssue_of hn on (a := e) (rest := []) (by rw [none', ready]; rfl), ?_⟩
  have issue : issueOne n e [] s = issuePatrol n p (max s.now e) (s.upto (max s.now e)) := by
    unfold issueOne
    have nobody (rot t : Nat) (l : Option Nat) : (choose (accClass n s) (promoted n s) [] rot l t).1 = none := rfl
    have due : (Nat.ble e (earliest s.now e []) && patrolFirst n none p s) = true := by
      change (Nat.ble e (max s.now e) && patrolFirst n none p s) = true
      rw [Nat.ble_eq_true_of_le (Nat.le_max_right ..)]
      rfl
    dsimp only
    rw [none', ready, List.filter_nil, nobody, Option.filter_some]
    dsimp only
    rw [if_pos due]
    rfl
  rw [issue]
  exact issuePatrol_facts ..

/-! An access completes (R262, R264, R266). -/

theorem finishReq_facts (bad : Bool) (data : Nat) (x : Trk) : (finishReq n bad data s x).mem = s.mem ∧
    (finishReq n bad data s x).resps = s.resps ++ [⟨x.req, if bad then 2 else if x.req.op = .read then 0 else 1, if x.req.op = .read then data else 0⟩] := by
  unfold finishReq
  extract_lets late counted flagged
  have kept : flagged.mem = s.mem ∧ flagged.resps = s.resps := by
    change (if late then dmcFlag n 5 (counted.bump 64 (DMC.LATE n)) else counted).mem = _ ∧
      (if late then dmcFlag n 5 (counted.bump 64 (DMC.LATE n)) else counted).resps = _
    split
    · exact ⟨df_mem .., df_resps ..⟩
    · exact ⟨rfl, rfl⟩
  exact ⟨kept.1, congrArg (· ++ _) kept.2⟩

/-- The bursts of an access and of the writes combined with it, performed (R259, R264). -/
def performed (r : MeshReq) (mine : List Nat) (joined : List Trk) (s : State) : State :=
  joined.foldl (fun s y => applyBurst y.req s (y.req.addr / 64)) (mine.foldl (applyBurst r) s)

theorem performed_mem (r : MeshReq) (mine : List Nat) (joined : List Trk) {u : State} (same : u.mem = s.mem) :
    (performed r mine joined u).mem = (performed r mine joined s).mem := by
  have own := fold_apply (fun b => (r, b)) mine s u same
  obtain ⟨own, -, -⟩ := own
  have from' {a b : State} (h : a.mem = b.mem) := (fold_apply (fun y : Trk => (y.req, y.req.addr / 64)) joined b a h).1
  have base (a : State) : (joined.foldl (fun s y => applyBurst y.req s (y.req.addr / 64)) a).mem =
      (joined.foldl (fun s y => applyBurst y.req s (y.req.addr / 64)) ({ s with mem := a.mem })).mem := from' rfl
  unfold performed
  rw [base (mine.foldl (applyBurst r) u), base (mine.foldl (applyBurst r) s)]
  exact congrArg (fun m => (joined.foldl (fun s y => applyBurst y.req s (y.req.addr / 64)) { s with mem := m }).mem) own

theorem performed_resps (r : MeshReq) (mine : List Nat) (joined : List Trk) : (performed r mine joined s).resps = s.resps := by
  have own := fold_apply (fun b => (r, b)) mine s s rfl
  have rest := fold_apply (fun y : Trk => (y.req, y.req.addr / 64)) joined (mine.foldl (applyBurst r) s) (mine.foldl (applyBurst r) s) rfl
  exact rest.2.2.trans own.2.2

/-- The tracker entry of an access that completed without error. -/
def served (x : Access) (s : State) : Trk :=
  { x.1 with acts := x.1.acts.filter fun a => !(Nat.beq a.1 x.2), bad := x.1.bad || false,
             data := x.1.data + if x.1.req.op = .read && !false then readBursts x.1.req (onSub x.2 (burstsOf x.1.req)) s else 0 }

/-- The requests combined in access x (R259). -/
def joinedTo (n : Nat) (x : Access) (s : State) : List Trk :=
  (s.dmcOf n).track.filter fun y => decide (y.lead = some x.1.id) && Nat.beq (y.req.addr / 64 % 2) x.2

/-- The tracker as an access without error leaves it. -/
def untracked (n : Nat) (joined : List Trk) (y : Trk) (s : State) : State :=
  s.modDmc n fun d =>
    { d with track := (d.track.filter fun z => !(joined.contains z) && !(Nat.beq z.id y.id && y.acts.isEmpty)).map fun z =>
               if z.id = y.id then y else z }

/-- The request of the access ends with its last access (R262). -/
def ended (n : Nat) (y : Trk) (s : State) : State := if y.acts.isEmpty then finishReq n y.bad y.data s y else s

theorem completeAccess_clean (x : Access) : completeAccess n x [] s =
    (joinedTo n x s).foldl (finishReq n false 0) (ended n (served x s)
      (untracked n (joinedTo n x s) (served x s) (performed x.1.req (onSub x.2 (burstsOf x.1.req)) (joinedTo n x s) s))) := by
  have clean (l : List Nat) : checkBursts n l [] s = (s, false) := by cases l <;> rfl
  unfold completeAccess
  simp only [clean, Bool.false_eq_true, if_false]
  rfl

theorem ended_facts (y : Trk) : (ended n y s).mem = s.mem ∧ (ended n y s).resps = s.resps ++ if y.acts = [] then
    [⟨y.req, if y.bad then 2 else if y.req.op = .read then 0 else 1, if y.req.op = .read then y.data else 0⟩] else [] := by
  unfold ended
  by_cases last : y.acts = []
  · rw [if_pos (List.isEmpty_iff.2 last), if_pos last]
    exact finishReq_facts ..
  · rw [if_neg (mt List.isEmpty_iff.1 last), if_neg last]
    exact ⟨rfl, (List.append_nil _).symm⟩

/-- What the request of access x answers with, where it was its last one. -/
def answerOf (x : Access) (s : State) : List MeshResp :=
  if (x.1.acts.filter fun a => !(Nat.beq a.1 x.2)) = [] then
    [⟨x.1.req, if x.1.bad then 2 else if x.1.req.op = .read then 0 else 1,
      if x.1.req.op = .read then x.1.data + readBursts x.1.req (onSub x.2 (burstsOf x.1.req)) s else 0⟩]
  else []

theorem ended_answer (x : Access) (u : State) : (ended n (served x s) u).resps = u.resps ++ answerOf x s := by
  have read : (if x.1.req.op = .read then (served x s).data else 0) =
      if x.1.req.op = .read then x.1.data + readBursts x.1.req (onSub x.2 (burstsOf x.1.req)) s else 0 := by
    by_cases read : x.1.req.op = .read
    · simp [served, read]
    · rw [if_neg read, if_neg read]
  have bad : (served x s).bad = x.1.bad := Bool.or_false _
  rw [(ended_facts _).2, bad, show (served x s).req = x.1.req from rfl, read]
  rfl

theorem completeAccess_facts (x : Access) :
    (completeAccess n x [] s).mem = (performed x.1.req (onSub x.2 (burstsOf x.1.req)) (joinedTo n x s) s).mem ∧
    (completeAccess n x [] s).resps = s.resps ++ answerOf x s ++
      (joinedTo n x s).map fun y => ⟨y.req, if y.req.op = .read then 0 else 1, 0⟩ := by
  rw [completeAccess_clean]
  obtain ⟨mem, -, resps⟩ := fold_finish n 0 (joinedTo n x s) (ended n (served x s)
      (untracked n (joinedTo n x s) (served x s) (performed x.1.req (onSub x.2 (burstsOf x.1.req)) (joinedTo n x s) s)))
  refine ⟨mem.trans (ended_facts _).1, resps.trans ?_⟩
  rw [ended_answer]
  simp only [ite_self]
  exact congrArg (· ++ _ ++ _) (performed_resps ..)

theorem complete_gives {x : Access} {e : Nat} (hn : n < 4) (next : nextDone n s = some (x, e)) (quiet : patrolDone n s = none) :
    Gives (.dmcAccessComplete n []) s fun t =>
      t.mem = (performed x.1.req (onSub x.2 (burstsOf x.1.req)) (joinedTo n x s) s).mem ∧
      t.resps = s.resps ++ answerOf x s ++ (joinedTo n x s).map fun y => ⟨y.req, if y.req.op = .read then 0 else 1, 0⟩ := by
  refine ⟨completeAccess n x [] (s.upto e), (unitNext hn).trans (congrArg _ (by rw [next, quiet])), ?_⟩
  obtain ⟨mem, resps⟩ := completeAccess_facts (n := n) (s := s.upto e) x
  exact ⟨mem.trans (performed_mem _ _ _ rfl), resps⟩

/-! The patrol's burst (R268). -/

theorem completePatrol_facts (p : Patrol) : ((completePatrol n p s).dmcOf n).scrub = none ∧
    (p.ecc = .clean → (completePatrol n p s).mem = s.mem ∧ (completePatrol n p s).rd (DMC.CE n) = s.rd (DMC.CE n)) ∧
    (p.ecc = .ce → (completePatrol n p s).mem = s.mem ∧ (completePatrol n p s).rd (DMC.CE n) = min (s.rd (DMC.CE n) + 1) (2 ^ 64 - 1)) ∧
    (p.ecc = .ue → (completePatrol n p s).rd (DMC.UE n) = min (s.rd (DMC.UE n) + 1) (2 ^ 64 - 1) ∧
      (completePatrol n p s).rd (DMC.UE_ADDR n) = dramAddr n (64 * p.burst) s) := by
  unfold completePatrol
  refine ⟨by rw [dmcOf_modDmc], fun e => ?_, fun e => ?_, fun e => ?_⟩
  · rw [e]
    exact ⟨rfl, rfl⟩
  · rw [e, rd_modDmc]
    refine ⟨df_mem .., ?_⟩
    change (dmcFlag n 2 _).rd _ = _
    rw [df (by simp), bump_eq]
  · rw [e, rd_modDmc, rd_modDmc]
    change (dmcFlag n 3 _).rd _ = _ ∧ (dmcFlag n 3 _).rd _ = _
    rw [df (by simp), df (by simp), rd_wr_other _ (by simp), rd_wr_same, bump_eq]
    exact ⟨rfl, rfl⟩

theorem completePatrol_gives {p : Patrol} {e : Nat} (ecc : List Ecc) (hn : n < 4) (next : nextDone n s = none) (done : patrolDone n s = some (p, e)) :
    (p.ecc = .clean → Gives (.dmcAccessComplete n ecc) s fun t => (t.dmcOf n).scrub = none ∧ t.mem = s.mem ∧
      t.rd (DMC.CE n) = s.rd (DMC.CE n)) ∧
    (p.ecc = .ce → Gives (.dmcAccessComplete n ecc) s fun t => (t.dmcOf n).scrub = none ∧ t.mem = s.mem ∧
      t.rd (DMC.CE n) = min (s.rd (DMC.CE n) + 1) (2 ^ 64 - 1)) ∧
    (p.ecc = .ue → Gives (.dmcAccessComplete n ecc) s fun t => (t.dmcOf n).scrub = none ∧
      t.rd (DMC.UE n) = min (s.rd (DMC.UE n) + 1) (2 ^ 64 - 1) ∧ t.rd (DMC.UE_ADDR n) = dramAddr n (64 * p.burst) s) := by
  have run : exec (.dmcAccessComplete n ecc) s = .next (completePatrol n p (s.upto e)) :=
    (unitNext hn).trans (congrArg _ (by rw [next, done]))
  obtain ⟨scrub, clean, ce, ue⟩ := completePatrol_facts (n := n) (s := s.upto e) p
  exact ⟨fun h => ⟨_, run, scrub, clean h⟩, fun h => ⟨_, run, scrub, ce h⟩, fun h => ⟨_, run, scrub, ue h⟩⟩

/-! Promotion, throttles, row tables, refresh and the patrol's next burst. -/

theorem agePromotion_gives {c : Trk} {rest : List Trk} (hn : n < 4)
    (waits : (s.dmcOf n).track.filter (fun x => unissued n s x && !x.prom) = c :: rest) :
    let lim := fun x : Trk => x.at' + s.rd (DMC.AGE_LIMIT n x.req.cls) * ticksPerNs
    let x := rest.foldl (fun m y => if lim y < lim m then y else m) c
    Gives (.agePromotion n) s fun t => t.rd (DMC.PROMOTED n) = min (s.rd (DMC.PROMOTED n) + 1) (2 ^ 64 - 1) ∧
      (t.dmcOf n).track = (s.dmcOf n).track.map fun y => if y.id = x.id then { y with prom := true } else y := by
  intro lim x
  refine ⟨((s.upto (lim x + 1)).bump 64 (DMC.PROMOTED n)).modDmc n fun d =>
    { d with track := d.track.map fun y => if y.id = x.id then { y with prom := true } else y },
    (unitNext hn).trans (congrArg _ (by dsimp only; rw [waits])), ?_⟩
  beta_reduce
  rw [rd_modDmc, bump_eq, dmcOf_modDmc]
  exact ⟨rfl, rfl⟩

theorem throttleEnd_gives {c : Throttle} {rest : List Throttle} (hn : n < 4) (held : (s.dmcOf n).throttles = c :: rest) :
    Gives (.throttleEnd n) s fun t => (t.dmcOf n).throttles =
      (s.dmcOf n).throttles.erase (rest.foldl (fun m y => if y.until' < m.until' then y else m) c) := by
  refine ⟨(s.upto (rest.foldl (fun m y => if y.until' < m.until' then y else m) c).until').modDmc n fun d =>
    { d with throttles := d.throttles.erase (rest.foldl (fun m y => if y.until' < m.until' then y else m) c) },
    (unitNext hn).trans (congrArg _ (by rw [held])), ?_⟩
  beta_reduce
  rw [dmcOf_modDmc]
  rfl

theorem rowTableClear_gives (hn : n < 4) : Gives (.rowTableClear n) s fun t => (t.dmcOf n).rows = [] :=
  ⟨_, unitNext hn, by beta_reduce; rw [dmcOf_modDmc]⟩

theorem refresh_gives (hn : n < 4) (ready : dmcState n s = 3) : Gives (.refresh n) s fun t =>
    (t.dmcOf n).refreshed = ((s.dmcOf n).refreshed + 1) % 4 ∧ (t.dmcOf n).refreshEnd = s.now + 200 * ticksPerNs :=
  ⟨_, (unitNext hn).trans (congrArg _ (if_pos ready)), by beta_reduce; rw [dmcOf_modDmc]; exact ⟨rfl, rfl⟩⟩

/-- The patrol goes on to its next burst (R268). -/
def patrolled (n : Nat) (s : State) : State := s.modDmc n fun d => { d with patrol := nextBurst n (s.dmcOf n).patrol s }

theorem patrolScrub_gives (ecc : Ecc) (hn : n < 4) (ready : dmcState n s = 3) (map : s.rd DMC.MAP_STATE = 1) (on : s.rd (DMC.PATROL n) ≠ 0)
    (idle : (s.dmcOf n).scrub = none) :
    let p := (s.dmcOf n).patrol
    let held := s.bit DMC.RETAIN (rankOf n (dramAddr n (64 * p) s) s)
    Gives (.patrolScrub n ecc) s fun t => (t.dmcOf n).patrol = (p + 1) % max 1 (s.rd (DMC.CAPACITY n) / 64) ∧ t.mem = s.mem ∧
      (t.dmcOf n).scrub = if held then none else some ⟨p, ecc, s.now, none⟩ := by
  intro p held
  refine ⟨if held then patrolled n s else (patrolled n s).modDmc n fun d => { d with scrub := some ⟨p, ecc, s.now, none⟩ },
    (unitNext hn).trans (congrArg _ (if_pos ⟨ready, map, on, idle⟩)), ?_⟩
  dsimp only
  split
  · rw [patrolled, dmcOf_modDmc]
    exact ⟨rfl, rfl, idle⟩
  · rw [patrolled, dmcOf_modDmc, dmcOf_modDmc]
    exact ⟨rfl, rfl, rfl⟩

/-- Settles O37: each request and each event of a controller by its rule. -/
theorem dmcTrafficCompletes : Obligations.DmcTrafficCompletes := by
  unfold Obligations.DmcTrafficCompletes
  refine ⟨fun n s hn => ⟨fun r rest => accept_gives hn, fun c rest x rot => issue_gives hn, fun p e => issuePatrol_gives hn,
    fun x e next quiet => complete_gives hn next quiet, fun p e ecc => completePatrol_gives ecc hn⟩, fun n s hn => ?_⟩
  exact ⟨fun c rest => agePromotion_gives hn, fun c rest => throttleEnd_gives hn, rowTableClear_gives hn, refresh_gives hn,
    fun ecc => patrolScrub_gives ecc hn⟩
end Sys2Proof.Proofs.DmcTraffic
end

section
/-! Commands of a lane and of a quad, and the lane PLLs (12_lanes.md R320, R324, R325, R338, R341, R342). -/
namespace Sys2Proof.Proofs.LaneCommand
open Sys2Proof.Machine Sys2Proof.Laws Common CompleteLnk LaneFacts

variable {q : Req} {n v : Nat} {s : State}

theorem like_laneState {u t : State} (like : Like u t) : laneState n t = laneState n u :=
  like_k like (by simp only [LNK.STATE]; omega)

/-- Slots released leave the lanes alone. -/
theorem releases_lanes : ∀ (l : List Nat) (s : State), (l.foldl (fun s k => releaseSlot k s) s).lanes = s.lanes
  | [], _ => rfl
  | k :: l, s => (releases_lanes l (releaseSlot k s)).trans (releaseSlot_keepsLanes (s0 := s) k s rfl)

/-- What a lane that leaves UP discards (R338). -/
def dropped (x : LaneS) : LaneS :=
  { x with heads := [], good := 0, up := false, opn := none, buf := [], txTime := [], txMgmt := [], txMesh := [], inMesh := [],
           drop := x.drop ++ x.inMesh, oweCredit := false, oweLink := false,
           relost := x.writing.isSome, gone := x.gone + (x.buf.filter fun m => Nat.beq m.chan 3).length }

theorem discardLane_lane : ∃ x, (discardLane n s).laneOf n = dropped x := by
  unfold discardLane
  extract_lets x mesh rest tx s1 s2 s3 s4 s5
  have kept : (if s5.rd TMU.SRC_LANE = n then holdover s5 else s5).lanes = s3.lanes := by
    have flagged : s5.lanes = s4.lanes := by
      change (if mesh + rest + tx = 0 ∧ x.opn.isNone = true then s4 else lnkFlag n 4 s4).lanes = s4.lanes
      split
      · rfl
      · exact lnkFlag_keepsLanes (s0 := s4) n 4 s4 rfl
    split
    · exact (holdover_keepsLanes (s0 := s5) s5 rfl).trans (flagged.trans (releases_lanes ..))
    · exact flagged.trans (releases_lanes ..)
  exact ⟨s2.laneOf n, (lane_of kept n).trans (laneOf_modLane ..)⟩

/-- A lane that leaves UP says so, and holds nothing that it received or would send (R338). -/
theorem laneEnter_of_up (c : Nat) (up : laneState n s = 3) : (laneEnter n c s).bit (LNK.EVFLAGS n) 0 = true ∧
    ((laneEnter n c s).laneOf n).buf = [] ∧ ((laneEnter n c s).laneOf n).txMgmt = [] ∧ ((laneEnter n c s).laneOf n).up = false := by
  obtain ⟨x, drops⟩ := discardLane_lane (n := n) (s := s)
  have lane : (lnkFlag n 0 (discardLane n s)).laneOf n = dropped x := by
    rw [lane_of (lnkFlag_keepsLanes (s0 := discardLane n s) n 0 _ rfl) n, drops]
  unfold laneEnter
  dsimp only
  rw [if_pos up, laneOf_modLane, laneOf_wr, lane, bit_of_rd (s := lnkFlag n 0 (discardLane n s)) (by rw [rd_modLane, rd_wr_other _ (by simp)])]
  exact ⟨bit_flag .., rfl, rfl, rfl⟩

theorem laneEnter_rd {c k : Nat} (down : laneState n s ≠ 3) (h : k ≠ LNK.STATE n) : (laneEnter n c s).rd k = s.rd k := by
  rw [enter_id down, rd_modLane, rd_wr_other _ h]

/-! Lanes. -/

/-- A vector lane begins with an empty stream buffer (R338). -/
def emptied (n : Nat) (s : State) : State := if s.rd (LNK.MODE n) = 0 then (s.wr (LNK.SRX_WR n) 0).wr (LNK.SRX_RD n) 0 else s

theorem emptied_state : laneState n (emptied n s) = laneState n s := by
  unfold emptied laneState
  split
  · rw [rd_wr_other _ (by simp), rd_wr_other _ (by simp)]
  · rfl

theorem start_gives (hn : n < 48) (h : Writes q (LNK.CTRL n) 1 1 s) (hc : ∀ c ∈ laneStartConds n s, c.1 = false) :
    Gives (.laneStart q n) s fun t => Answered q 0 t ∧ laneState n t = 1 ∧
      (s.rd (LNK.MODE n) = 0 → t.rd (LNK.SRX_WR n) = 0 ∧ t.rd (LNK.SRX_RD n) = 0) := by
  refine givesCmd (eff := fun s => laneEnter n 1 (emptied n s)) rfl hn h hc fun t like => ?_
  have reset : laneState n s = 0 := by
    have off : (laneState n s != 0) = false := hc (laneState n s != 0, 9) (by unfold laneStartConds; exact List.mem_cons_self)
    simpa using off
  rw [like_laneState like, like_k like (by simp only [LNK.SRX_WR]; omega), like_k like (by simp only [LNK.SRX_RD]; omega)]
  refine ⟨laneEnter_state .., fun vector => ?_⟩
  rw [laneEnter_rd (by rw [emptied_state]; omega) (by simp), laneEnter_rd (by rw [emptied_state]; omega) (by simp), emptied, if_pos vector,
    rd_wr_other _ (by simp), rd_wr_same, rd_wr_same]
  exact ⟨rfl, rfl⟩

theorem reset_gives (hn : n < 48) (h : Writes q (LNK.CTRL n) 1 2 s) : Gives (.laneReset q n) s fun t =>
    Answered q 0 t ∧ laneState n t = 0 ∧ (laneState n s = 3 → t.bit (LNK.EVFLAGS n) 0 = true ∧ (t.laneOf n).buf = [] ∧
      (t.laneOf n).txMgmt = [] ∧ (t.laneOf n).up = false) := by
  refine givesCmd rfl hn h noC fun t like => ?_
  rw [like_laneState like, bit_of_rd (like_k like (by simp only [LNK.EVFLAGS]; omega)), lane_of like.lanes]
  exact ⟨laneEnter_state .., laneEnter_of_up 0⟩

theorem retrain_gives (hn : n < 48) (h : Writes q (LNK.CTRL n) 1 3 s) (on : laneState n s ≠ 0) :
    Gives (.laneRetrain q n) s fun t => Answered q 0 t ∧ laneState n t = 1 := by
  refine givesCmd rfl hn h (List.forall_mem_singleton.2 (Bool.eq_false_iff.2 fun e => on (Nat.eq_of_beq_eq_true e))) fun t like => ?_
  rw [like_laneState like]
  exact laneEnter_state ..

theorem adaptEnd_gives (hn : n < 48) (adapts : laneState n s = 1) :
    Gives (.adaptEnd n) s fun t => laneState n t = if s.rd (LNK.MODE n) = 0 then 2 else 4 :=
  ⟨_, (unitNext hn).trans (congrArg _ (if_pos adapts)), laneEnter_state ..⟩

/-! Quads. -/

/-- The rate of a quad, its PLL out of lock (R320). -/
def rated (n v : Nat) (s : State) : State := ((s.wr (LNK.QRATE n) v).wr (LNK.QPLL n) 0).setBit CRH.CLK_STATUS (9 + n) false

theorem rated_facts : (rated n v s).rd (LNK.QRATE n) = v ∧ (rated n v s).rd (LNK.QPLL n) = 0 ∧
    (rated n v s).bit CRH.CLK_STATUS (9 + n) = false := by
  unfold rated
  refine ⟨?_, ?_, bit_setBit_false ..⟩
  · rw [rd_setBit_other _ (by simp only [LNK.QRATE, CRH.CLK_STATUS]; omega), rd_wr_other _ (by simp), rd_wr_same]
  · rw [rd_setBit_other _ (by simp only [LNK.QPLL, CRH.CLK_STATUS]; omega), rd_wr_same]

theorem qrateEff_rd (k : Nat) : (qrateEff n v s).rd k = (rated n v s).rd k := by
  unfold qrateEff
  dsimp only
  split <;> rfl

theorem qrate_gives (hn : n < 12) (h : Writes q (LNK.QRATE n) 1 v s) (hc : ∀ c ∈ qrateConds n s, c.1 = false) :
    Gives (.qrateWrite q n v) s fun t => Answered q 0 t ∧ t.rd (LNK.QRATE n) = v ∧ t.rd (LNK.QPLL n) = 0 ∧
      t.bit CRH.CLK_STATUS (9 + n) = false := by
  refine givesWr rfl hn h hc fun t like => ?_
  obtain ⟨rate, pll, lock⟩ := rated_facts (n := n) (v := v) (s := s)
  refine ⟨?_, ?_, ?_⟩
  · rw [like_k like (by simp only [LNK.QRATE]; omega), qrateEff_rd, rate]
  · rw [like_k like (by simp only [LNK.QPLL]; omega), qrateEff_rd, pll]
  · rw [bit_of_rd (like_k like (by decide)), bit_of_rd (qrateEff_rd _), lock]

/-- The lanes of a quad written one by one (R325). -/
def physTo (n v : Nat) (s : State) (b : Nat) : State := s.wr (LNK.PHYS (4 * n + b)) (mapLane v b)

theorem physTo_other {k b : Nat} (h : k ≠ LNK.PHYS (4 * n + b)) : (physTo n v s b).rd k = s.rd k := rd_wr_other _ h _

theorem laneMapEff_map : (laneMapEff n v s).rd (LNK.MAP n) = v := by
  have map (b : Nat) : LNK.MAP n ≠ LNK.PHYS (4 * n + b) := by simp only [LNK.MAP, LNK.PHYS]; omega
  change (physTo n v (physTo n v (physTo n v (physTo n v (s.wr (LNK.MAP n) v) 0) 1) 2) 3).rd _ = v
  rw [physTo_other (map 3), physTo_other (map 2), physTo_other (map 1), physTo_other (map 0), rd_wr_same]

theorem foldl_phys_other {k : Nat} : ∀ (l : List Nat) (s : State), (∀ c ∈ l, k ≠ LNK.PHYS (4 * n + c)) → (l.foldl (physTo n v) s).rd k = s.rd k
  | [], _, _ => rfl
  | c :: l, s, h => (foldl_phys_other l (physTo n v s c) fun d hd => h d (List.mem_cons_of_mem _ hd)).trans
      (physTo_other (h c List.mem_cons_self))

theorem phys_ne {b c : Nat} (h : b ≠ c) : LNK.PHYS (4 * n + b) ≠ LNK.PHYS (4 * n + c) := by
  simp only [LNK.PHYS]
  omega

theorem foldl_phys {b : Nat} : ∀ (l : List Nat) (s : State), b ∈ l → l.Nodup → (l.foldl (physTo n v) s).rd (LNK.PHYS (4 * n + b)) = mapLane v b
  | [], _, mem, _ => absurd mem List.not_mem_nil
  | c :: l, s, mem, nodup => by
    rw [List.foldl_cons]
    by_cases here : b = c
    · subst here
      rw [foldl_phys_other l _ fun d hd => phys_ne fun (e : b = d) => (List.nodup_cons.1 nodup).1 (e.symm ▸ hd : b ∈ l), physTo, rd_wr_same]
    · exact foldl_phys l _ ((List.mem_cons.1 mem).resolve_left here) nodup.of_cons

theorem laneMap_gives (hn : n < 12) (h : Writes q (LNK.MAP n) 1 v s) (reset : quadReset n s = true) :
    Gives (.laneMapWrite q n v) s fun t => Answered q 0 t ∧ t.rd (LNK.MAP n) = v ∧
      ∀ b, b < 4 → t.rd (LNK.PHYS (4 * n + b)) = mapLane v b := by
  refine givesWr rfl hn h (List.forall_mem_singleton.2 (by rw [reset]; rfl)) fun t like => ⟨?_, fun b hb => ?_⟩
  · rw [like_k like (by simp only [LNK.MAP]; omega), laneMapEff_map]
  · rw [like_k like (by simp only [LNK.PHYS]; omega)]
    exact foldl_phys (List.range 4) _ (List.mem_range.2 hb) List.nodup_range

/-! Lane PLLs (R341). -/

/-- The lane PLL in state c, its lock in CRH.CLK_STATUS. -/
def pll (n c : Nat) (lock : Bool) (s : State) : State := (s.wr (LNK.QPLL n) c).setBit CRH.CLK_STATUS (9 + n) lock

theorem pll_facts (c : Nat) (lock : Bool) : (pll n c lock s).rd (LNK.QPLL n) = c ∧ (pll n c lock s).bit CRH.CLK_STATUS (9 + n) = lock :=
  ⟨(rd_setBit_other _ (by simp only [LNK.QPLL, CRH.CLK_STATUS]; omega) _ _).trans (rd_wr_same ..), bit_setBit_eq ..⟩

theorem execQpllLock_of_unlocked (hn : n < 12) (out : s.rd (LNK.QPLL n) ≠ 1) : exec (.qpllLock n) s =
    .next (if (pll n 1 true s).crh.plls.any (fun e => Nat.beq e.1 (4 + n)) then
      crhFlag 3 { pll n 1 true s with crh := { (pll n 1 true s).crh with plls := (pll n 1 true s).crh.plls.filter fun e => !(Nat.beq e.1 (4 + n)) } }
    else pll n 1 true s) :=
  (unitNext hn).trans (congrArg _ (if_neg out))

theorem qpllLock_gives (hn : n < 12) (out : s.rd (LNK.QPLL n) ≠ 1) : Gives (.qpllLock n) s fun t =>
    t.rd (LNK.QPLL n) = 1 ∧ t.bit CRH.CLK_STATUS (9 + n) = true ∧
    ((s.crh.plls.any fun e => Nat.beq e.1 (4 + n)) = true → t.bit CRH.EVFLAGS 3 = true) := by
  refine ⟨_, execQpllLock_of_unlocked hn out, ?_⟩
  obtain ⟨on, lock⟩ := pll_facts (n := n) (s := s) 1 true
  split
  · exact ⟨(rd_flag_other _ (by simp only [LNK.QPLL, CRH.EVFLAGS]; omega) ..).trans on,
      (bit_of_rd (rd_flag_other _ (by decide : CRH.CLK_STATUS ≠ CRH.EVFLAGS) ..)).trans lock, fun _ => bit_flag ..⟩
  next none =>
    exact ⟨on, lock, fun some => absurd (by unfold pll; simpa using some) none⟩

theorem lrefLoss_gives (hn : n < 12) : Gives (.lrefLoss n) s fun t => t.rd (LNK.QPLL n) = 2 ∧ t.bit CRH.CLK_STATUS (9 + n) = false :=
  ⟨_, unitNext hn, pll_facts 2 false⟩

/-- Settles O38: each command by its effect, each event of a PLL by what it leaves. -/
theorem laneCommandsComplete : Obligations.LaneCommandsComplete := fun _ _ _ =>
  ⟨start_gives, reset_gives, retrain_gives, adaptEnd_gives, fun _ => qrate_gives, fun _ => laneMap_gives, qpllLock_gives, lrefLoss_gives⟩
end Sys2Proof.Proofs.LaneCommand
end

section
/-! Lock and the blocks that a lane receives (12_lanes.md R327 to R333). -/
namespace Sys2Proof.Proofs.LaneBlock
open Sys2Proof.Machine Sys2Proof.Laws Common CompleteLnk LaneFacts

variable {n v fix : Nat} {s : State}

/-- A member of a lane is one that what the lane sends leaves alone, LNK.MESH_RESP apart. -/
theorem member_kept {j : Nat} (hn : n < 48) (hj : j < 256) (h : j ≠ 23) :
    0xD10000 ≤ (0xD100 + n) * 256 + j ∧ (0xD100 + n) * 256 + j < 0xE00000 ∧ ((0xD100 + n) * 256 + j) % 256 ≠ 23 := by
  omega

theorem trySend_member {j : Nat} (hn : n < 48) (u : State) (hj : j < 256) (h : j ≠ 23) :
    (trySend n u).rd ((0xD100 + n) * 256 + j) = u.rd ((0xD100 + n) * 256 + j) :=
  try_lnk u (member_kept hn hj h)

/-! Invalid headers (R328). -/

theorem invalid_seeking (hn : n < 48) (seeks : laneState n s = 2) (off : fecOn n s = false) :
    Gives (.invalidHeader n) s fun t => laneState n t = 2 ∧ (t.laneOf n).good = 0 := by
  refine ⟨badHeader n s, (unitNext hn).trans (congrArg _ (if_neg (by rw [off]; decide))), ?_⟩
  rw [bad_2 seeks]
  exact ⟨(rd_modLane ..).trans seeks, congrArg LaneS.good (laneOf_modLane ..)⟩

theorem invalid_up (hn : n < 48) (up : laneState n s = 3) (off : fecOn n s = false) : Gives (.invalidHeader n) s fun t =>
    t.rd (LNK.BAD_HDR n) = min (s.rd (LNK.BAD_HDR n) + 1) (2 ^ 64 - 1) ∧
    laneState n t = if 16 ≤ (((false :: (s.laneOf n).heads).take 64).filter (! ·)).length then 2 else 3 := by
  refine ⟨badHeader n s, (unitNext hn).trans (congrArg _ (if_neg (by rw [off]; decide))), ?_⟩
  obtain ⟨count, state, -⟩ := bad_3 hn up
  exact ⟨count, state⟩

/-- After k bad headers in a row the lane has lost its lock, or k is below the limit and they lead its history. -/
def Losing (n k : Nat) (s : State) : Prop :=
  laneState n s = 2 ∨ laneState n s = 3 ∧ k < 16 ∧ List.replicate k false <+: (s.laneOf n).heads

theorem replicate_prefix {k : Nat} {l : List Bool} (h : List.replicate k false <+: l) (small : k < 16) :
    List.replicate (k + 1) false <+: (false :: l).take 64 := by
  rw [List.prefix_take_iff]
  refine ⟨?_, by rw [List.length_replicate]; omega⟩
  rw [List.replicate_succ]
  exact List.cons_prefix_cons.2 ⟨rfl, h⟩

theorem falses_counted {k : Nat} {l : List Bool} (h : List.replicate k false <+: l) : k ≤ (l.filter (! ·)).length := by
  have kept : (List.replicate k false).filter (! ·) = List.replicate k false := by
    rw [List.filter_replicate]
    rfl
  have := (h.filter (! ·)).length_le
  rwa [kept, List.length_replicate] at this

theorem losing_step {k : Nat} (hn : n < 48) (h : Losing n k s) : Losing n (k + 1) (badHeader n s) := by
  rcases h with lost | ⟨up, small, lead⟩
  · rw [bad_2 lost]
    exact .inl ((rd_modLane ..).trans lost)
  · obtain ⟨-, state, heads, -⟩ := bad_3 hn up
    have lead' := replicate_prefix lead small
    by_cases many : 16 ≤ (((false :: (s.laneOf n).heads).take 64).filter (! ·)).length
    · exact .inl (state.trans (if_pos many))
    · have count := falses_counted lead'
      refine .inr ⟨state.trans (if_neg many), by omega, ?_⟩
      rw [heads many]
      exact lead'

/-- What the loss of a code word leaves of its count and its flag (R328). -/
def Counted (n : Nat) (s t : State) : Prop :=
  t.rd (LNK.FEC_UNCORR n) = s.rd (LNK.FEC_UNCORR n) ∧ (s.bit (LNK.EVFLAGS n) 3 = true → t.bit (LNK.EVFLAGS n) 3 = true)

theorem counted_step (hn : n < 48) (on : laneState n s = 2 ∨ laneState n s = 3) : Counted n s (badHeader n s) := by
  rcases on with seeks | up
  · rw [bad_2 seeks]
    exact ⟨rd_modLane .., fun h => (bit_of_rd (rd_modLane ..)).trans h⟩
  · obtain ⟨-, -, -, count, flag⟩ := bad_3 hn up
    exact ⟨count, flag⟩

theorem losing_on {k : Nat} (h : Losing n k s) : laneState n s = 2 ∨ laneState n s = 3 := h.imp_right And.left

theorem losing_run (hn : n < 48) : ∀ (l : List Nat) (k : Nat) (s : State), Losing n k s →
    Losing n (k + l.length) (l.foldl (fun s _ => badHeader n s) s) ∧ Counted n s (l.foldl (fun s _ => badHeader n s) s)
  | [], _, _, h => ⟨h, rfl, id⟩
  | _ :: l, k, s, h => by
    obtain ⟨count, flag⟩ := counted_step hn (losing_on h)
    obtain ⟨lost, count', flag'⟩ := losing_run hn l (k + 1) (badHeader n s) (losing_step hn h)
    rw [List.foldl_cons, List.length_cons, Nat.add_comm l.length, ← Nat.add_assoc]
    exact ⟨lost, count'.trans count, flag' ∘ flag⟩

/-- A code word that cannot be corrected, counted and flagged (R328). -/
def uncorrected (n : Nat) (s : State) : State := (lnkFlag n 3 (s.bump 64 (LNK.FEC_UNCORR n))).modLane n fun x => { x with codeBlk := 0 }

theorem uncorrected_facts : (uncorrected n s).rd (LNK.FEC_UNCORR n) = min (s.rd (LNK.FEC_UNCORR n) + 1) (2 ^ 64 - 1) ∧
    (uncorrected n s).bit (LNK.EVFLAGS n) 3 = true ∧ laneState n (uncorrected n s) = laneState n s := by
  unfold uncorrected laneState lnkFlag
  refine ⟨?_, (bit_of_rd (rd_modLane ..)).trans (bit_flag ..), ?_⟩
  · rw [rd_modLane, rd_flag_other _ (by simp), bump_eq]
  · rw [rd_modLane, rd_flag_other _ (by simp), bump_ne (by simp)]

theorem execInvalidHeader_of_fec (hn : n < 48) (on : laneState n s = 2 ∨ laneState n s = 3) (fec : fecOn n s = true) :
    exec (.invalidHeader n) s = .next ((List.range 20).foldl (fun s _ => badHeader n s) (uncorrected n s)) := by
  refine (unitNext hn).trans (congrArg _ ((if_pos fec).trans ?_))
  rw [if_pos on]
  rfl

theorem invalid_fec (hn : n < 48) (on : laneState n s = 2 ∨ laneState n s = 3) (fec : fecOn n s = true) :
    Gives (.invalidHeader n) s fun t => laneState n t = 2 ∧
      t.rd (LNK.FEC_UNCORR n) = min (s.rd (LNK.FEC_UNCORR n) + 1) (2 ^ 64 - 1) ∧ t.bit (LNK.EVFLAGS n) 3 = true := by
  obtain ⟨count, flag, state⟩ := uncorrected_facts (n := n) (s := s)
  have start : Losing n 0 (uncorrected n s) :=
    on.imp (state.trans ·) fun up => ⟨state.trans up, by decide, List.nil_prefix⟩
  obtain ⟨lost, count', flag'⟩ := losing_run hn (List.range 20) 0 _ start
  refine ⟨_, execInvalidHeader_of_fec hn on fec, lost.resolve_right ?_, count'.trans count, flag' flag⟩
  rintro ⟨-, small, -⟩
  rw [List.length_range] at small
  omega

/-! Lock (R329). -/

/-- A lane that has just gained its lock (R329). -/
def gained (n : Nat) (s : State) : State :=
  (s.wr (LNK.STATE n) 3).modLane n fun x =>
    { x with heads := [], good := 0, up := false, opn := none, buf := [], freed := [320, 1056, 64, 512], credit := [0, 0, 0, 0],
             sent := [0, 0, 0, 0], oweCredit := true, oweLink := true }

theorem lockGained_gives (hn : n < 48) (seeks : laneState n s = 2) (enough : 64 ≤ (s.laneOf n).good) :
    Gives (.lockGained n) s fun t => laneState n t = 3 ∧ t.bit (LNK.EVFLAGS n) 0 = true ∧
      (t.laneOf n).freed = [320, 1056, 64, 512] ∧ (t.laneOf n).buf = [] ∧ (t.laneOf n).up = false := by
  refine ⟨trySend n (lnkFlag n 0 (gained n s)), (unitNext hn).trans (congrArg _ (if_pos ⟨seeks, enough⟩)), ?_⟩
  have lane : (lnkFlag n 0 (gained n s)).laneOf n = (gained n s).laneOf n := lane_of (lnkFlag_keepsLanes (s0 := gained n s) n 0 _ rfl) n
  obtain ⟨buf, -, freed, up, -⟩ := try_H n (lnkFlag n 0 (gained n s))
  beta_reduce
  rw [try_state hn, try_bit hn, buf, freed, up, lane, gained, laneOf_modLane]
  refine ⟨?_, bit_flag .., rfl, rfl, rfl⟩
  unfold laneState lnkFlag
  rw [rd_flag_other _ (by simp), rd_modLane, rd_wr_same]

/-! Blocks by their kind (R330 to R333). -/

def idleAct (n v : Nat) (s : State) : State := if ctlBad v 0 [(247, 0)] then rxInvalid n s else s

theorem exec_idle : exec (.idleBlock n v fix) s = blockIn n fix (idleAct n v) s := rfl

/-- The credit of a lane after a credit block (R331). -/
def credited (n v : Nat) (s : State) : State :=
  s.modLane n fun x => { x with credit := [Dict.bitsOf v 239 224, Dict.bitsOf v 223 208, Dict.bitsOf v 207 192, Dict.bitsOf v 191 176] }

def creditAct (n v : Nat) (s : State) : State := if ctlBad v 0x5A [(247, 240), (175, 0)] then rxInvalid n s else credited n v s

theorem exec_credit : exec (.creditBlock n v fix) s = blockIn n fix (creditAct n v) s := rfl

/-- The peer that the first link block names (R331). -/
def linked (n v : Nat) (s : State) : State :=
  lnkFlag n 1 (((s.wr (LNK.PEER n) (Dict.bitsOf v 239 176)).wr (LNK.PEER_LANE n) (Dict.bitsOf v 247 240)).modLane n fun x => { x with up := true })

def linkAct (n v : Nat) (s : State) : State :=
  if ctlBad v 0x66 [(167, 0)] || Dict.bitsOf v 175 168 != 1 then rxInvalid n s else if (s.laneOf n).up then s else linked n v s

theorem exec_link : exec (.linkBlock n v fix) s = blockIn n fix (linkAct n v) s := rfl

/-- The message that a start block opens (R332). -/
def opened (v : Nat) (s : State) : OpenMsg :=
  ⟨⟨Dict.bitsOf v 247 246, Dict.bitsOf v 239 224, Dict.bitsOf v 223 208, Dict.bitsOf v 207 192, 0, stampAt s s.now⟩, Dict.bitsOf v 191 160, 0⟩

/-- The open message cut off, the new one open. -/
def begun (n v : Nat) (s : State) : State := (abortOpen n s).modLane n fun x => { x with opn := some (opened v (abortOpen n s)) }

def startAct (n v : Nat) (s : State) : State :=
  if ctlBad v 0x4B [(245, 240), (159, 0)] then rxInvalid n s
  else if startOk (Dict.bitsOf v 247 246) (Dict.bitsOf v 239 224) ((abortOpen n s).laneOf n).up then begun n v s
  else freeBlocks n (Dict.bitsOf v 247 246) 1 (rxInvalid n (abortOpen n s))

theorem exec_start : exec (.startBlock n v fix) s = blockIn n fix (startAct n v) s := rfl

/-- The message with the bytes of a data block (R333). -/
def grown (v : Nat) (o : OpenMsg) : LaneMsg := { o.msg with data := (o.msg.data + v % 2 ^ 256 * 2 ^ (8 * o.got)) % 2 ^ (8 * o.msg.len) }

/-- What a data block does to the lane whose message o is open. -/
def growOpen (n v : Nat) (o : OpenMsg) (s : State) : State :=
  if o.got + 32 < o.msg.len then s.modLane n fun x => { x with opn := some { o with msg := grown v o, got := o.got + 32 } }
  else rxComplete n o.crc (grown v o) (s.modLane n fun x => { x with opn := none })

def dataAct (n v : Nat) (s : State) : State :=
  match (s.laneOf n).opn with
  | none => rxInvalid n s
  | some o => growOpen n v o s

theorem exec_data : exec (.dataBlock n v fix) s = blockIn n fix (dataAct n v) s := rfl

/-! Blocks, whatever their kind (R327). -/

/-- The state in which the code leaves the lane before a block is taken. -/
def coded (n fix : Nat) (s : State) : State := if fecOn n s then codeIn n fix s else s

theorem coded_facts : laneState n (coded n fix s) = laneState n s ∧ ((coded n fix s).laneOf n).good = (s.laneOf n).good ∧
    (coded n fix s).rd (LNK.FEC_CORR n) = if fecOn n s = true
      then min (s.rd (LNK.FEC_CORR n) + min fix (15 - if (s.laneOf n).codeBlk = 0 then 0 else (s.laneOf n).codeFix)) (2 ^ 64 - 1)
      else s.rd (LNK.FEC_CORR n) := by
  unfold coded
  split
  · obtain ⟨⟨a, b, lane⟩, rd, -⟩ := code_facts n fix s
    refine ⟨rd _ (by simp), by rw [lane], ?_⟩
    unfold codeIn
    exact (rd_modLane ..).trans (addTo_eq ..)
  · exact ⟨rfl, rfl, rfl⟩

theorem block_seeking {i : Instr} {act : State → State} (hn : n < 48) (block : exec i s = blockIn n fix act s) (seeks : laneState n s = 2) :
    Gives i s fun t => laneState n t = 2 ∧ (t.laneOf n).good = (s.laneOf n).good + 1 ∧
      t.rd (LNK.FEC_CORR n) = if fecOn n s = true
        then min (s.rd (LNK.FEC_CORR n) + min fix (15 - if (s.laneOf n).codeBlk = 0 then 0 else (s.laneOf n).codeFix)) (2 ^ 64 - 1)
        else s.rd (LNK.FEC_CORR n) := by
  refine ⟨goodHeader n (coded n fix s), block.trans ((unitNext hn).trans (congrArg _ (if_pos seeks))), ?_⟩
  obtain ⟨state, good, corr⟩ := coded_facts (n := n) (fix := fix) (s := s)
  refine ⟨(good_rd ..).trans (state.trans seeks), ?_, (good_rd ..).trans corr⟩
  rw [good_2 (state.trans seeks), good]

theorem blocks_seeking (hn : n < 48) (seeks : laneState n s = 2) : ∀ i ∈ [Instr.idleBlock n v fix, .creditBlock n v fix, .linkBlock n v fix,
    .startBlock n v fix, .dataBlock n v fix], Gives i s fun t => laneState n t = 2 ∧ (t.laneOf n).good = (s.laneOf n).good + 1 ∧
      t.rd (LNK.FEC_CORR n) = if fecOn n s = true
        then min (s.rd (LNK.FEC_CORR n) + min fix (15 - if (s.laneOf n).codeBlk = 0 then 0 else (s.laneOf n).codeFix)) (2 ^ 64 - 1)
        else s.rd (LNK.FEC_CORR n) := by
  intro i hi
  simp only [List.mem_cons, List.not_mem_nil, or_false] at hi
  rcases hi with rfl | rfl | rfl | rfl | rfl
  · exact block_seeking hn exec_idle seeks
  · exact block_seeking hn exec_credit seeks
  · exact block_seeking hn exec_link seeks
  · exact block_seeking hn exec_start seeks
  · exact block_seeking hn exec_data seeks

/-- The lane whose header history has grown by a good one. -/
def headed (a b : Nat) (x : LaneS) : LaneS := { x with heads := (true :: x.heads).take 64, codeBlk := a, codeFix := b }

/-- A state that differs from s in the code and the header history of lane n alone. -/
structure Headed (n : Nat) (s u : State) : Prop where
  lane : ∃ a b, u.laneOf n = headed a b (s.laneOf n)
  rd : ∀ k, k ≠ LNK.FEC_CORR n → u.rd k = s.rd k
  now : u.now = s.now
  clk : u.clk = s.clk

/-- A block taken in UP: the action of its kind, and then what the lane sends. -/
theorem block_up {i : Instr} {act : State → State} {P : State → Prop} (hn : n < 48) (block : exec i s = blockIn n fix act s)
    (up : laneState n s = 3) (h : ∀ u, Headed n s u → P (trySend n (act u))) : Gives i s P := by
  obtain ⟨t, next, ht⟩ := blk hn up fun u a b lane rd now clk => h u ⟨⟨a, b, lane⟩, rd, now, clk⟩
  exact ⟨t, block.trans next, ht⟩

theorem Headed.state {u : State} (h : Headed n s u) : laneState n u = laneState n s := h.rd _ (by simp)

theorem Headed.up {u : State} (h : Headed n s u) : (u.laneOf n).up = (s.laneOf n).up := by
  obtain ⟨a, b, lane⟩ := h.lane
  rw [lane, headed]

theorem Headed.opn {u : State} (h : Headed n s u) : (u.laneOf n).opn = (s.laneOf n).opn := by
  obtain ⟨a, b, lane⟩ := h.lane
  rw [lane, headed]

theorem Headed.buf {u : State} (h : Headed n s u) : (u.laneOf n).buf = (s.laneOf n).buf := by
  obtain ⟨a, b, lane⟩ := h.lane
  rw [lane, headed]

theorem Headed.stampAt {u : State} (hn : n < 48) (h : Headed n s u) (t : Nat) : stampAt u t = stampAt s t := by
  have rd {k : Nat} (hk : k < 0xD10000 ∨ 0xE00000 ≤ k) : u.rd k = s.rd k := h.rd k (by simp only [LNK.FEC_CORR]; omega)
  unfold Machine.stampAt netAt mpllLocked State.bit
  rw [rd (by decide), rd (by decide), h.clk]

/-! Idle, credit and link blocks (R330, R331). -/

theorem idle_bad (hn : n < 48) (up : laneState n s = 3) (bad : ctlBad v 0 [(247, 0)] = true) : Gives (.idleBlock n v fix) s fun t =>
    t.rd (LNK.RX_INVALID n) = min (s.rd (LNK.RX_INVALID n) + 1) (2 ^ 64 - 1) := by
  refine block_up hn exec_idle up fun u hu => ?_
  rw [idleAct, if_pos bad, trySend_member hn _ (by decide) (by decide), rxInvalid, bump_eq, hu.rd _ (by simp)]

theorem idle_good (hn : n < 48) (up : laneState n s = 3) (good : ctlBad v 0 [(247, 0)] = false) : Gives (.idleBlock n v fix) s fun t =>
    laneState n t = 3 ∧ t.rd (LNK.RX_INVALID n) = s.rd (LNK.RX_INVALID n) ∧ (t.laneOf n).heads = (true :: (s.laneOf n).heads).take 64 := by
  refine block_up hn exec_idle up fun u hu => ?_
  obtain ⟨-, -, -, -, -, -, -, -, heads, -⟩ := try_H n u
  obtain ⟨a, b, lane⟩ := hu.lane
  rw [idleAct, if_neg (ne_true_of_eq_false good), try_state hn, trySend_member hn _ (by decide) (by decide), heads, lane, hu.rd _ (by simp)]
  exact ⟨hu.state.trans up, rfl, rfl⟩

theorem credit_gives (hn : n < 48) (up : laneState n s = 3) (good : ctlBad v 0x5A [(247, 240), (175, 0)] = false) :
    Gives (.creditBlock n v fix) s fun t =>
      (t.laneOf n).credit = [Dict.bitsOf v 239 224, Dict.bitsOf v 223 208, Dict.bitsOf v 207 192, Dict.bitsOf v 191 176] := by
  refine block_up hn exec_credit up fun u _ => ?_
  rw [creditAct, if_neg (ne_true_of_eq_false good)]
  obtain ⟨-, -, -, -, -, -, -, credit, -⟩ := try_H n (credited n v u)
  refine credit.trans ?_
  rw [credited, laneOf_modLane]

theorem linked_facts : (linked n v s).rd (LNK.PEER n) = Dict.bitsOf v 239 176 ∧ (linked n v s).rd (LNK.PEER_LANE n) = Dict.bitsOf v 247 240 ∧
    (linked n v s).bit (LNK.EVFLAGS n) 1 = true ∧ ((linked n v s).laneOf n).up = true := by
  unfold linked
  rw [lane_of (lnkFlag_keepsLanes n 1 _ rfl) n, laneOf_modLane]
  unfold lnkFlag
  rw [rd_flag_other _ (by simp), rd_flag_other _ (by simp), rd_modLane, rd_modLane, rd_wr_other _ (by simp), rd_wr_same, rd_wr_same]
  exact ⟨rfl, rfl, bit_flag .., rfl⟩

theorem link_gives (hn : n < 48) (up : laneState n s = 3) (good : ctlBad v 0x66 [(167, 0)] = false) (version : Dict.bitsOf v 175 168 = 1) :
    Gives (.linkBlock n v fix) s fun t => (t.laneOf n).up = true ∧
      ((s.laneOf n).up = false → t.rd (LNK.PEER n) = Dict.bitsOf v 239 176 ∧
        t.rd (LNK.PEER_LANE n) = Dict.bitsOf v 247 240 ∧ t.bit (LNK.EVFLAGS n) 1 = true) ∧
      ((s.laneOf n).up = true → t.rd (LNK.PEER n) = s.rd (LNK.PEER n) ∧ t.rd (LNK.PEER_LANE n) = s.rd (LNK.PEER_LANE n)) := by
  refine block_up hn exec_link up fun u hu => ?_
  rw [linkAct, if_neg (by rw [good, version]; decide)]
  by_cases known : (s.laneOf n).up = true
  · rw [if_pos (hu.up.trans known)]
    obtain ⟨-, -, -, up', -⟩ := try_H n u
    refine ⟨up'.trans (hu.up.trans known), fun new => absurd known (ne_true_of_eq_false new), fun _ => ?_⟩
    rw [trySend_member hn _ (by decide) (by decide), trySend_member hn _ (by decide) (by decide), hu.rd _ (by simp), hu.rd _ (by simp)]
    exact ⟨rfl, rfl⟩
  · rw [if_neg (by rw [hu.up]; exact known)]
    obtain ⟨-, -, -, up', -⟩ := try_H n (linked n v u)
    obtain ⟨peer, lane, flag, linkUp⟩ := linked_facts (n := n) (v := v) (s := u)
    exact ⟨up'.trans linkUp, fun _ => ⟨(trySend_member hn _ (by decide) (by decide)).trans peer,
      (trySend_member hn _ (by decide) (by decide)).trans lane, (try_bit hn _).trans flag⟩, fun h => absurd h known⟩

/-! Start and data blocks (R332, R333). -/

/-- What an open message that a new one cuts off leaves (R332). -/
theorem abortOpen_facts : ((abortOpen n s).laneOf n).up = (s.laneOf n).up ∧ (abortOpen n s).now = s.now ∧ (abortOpen n s).clk = s.clk ∧
    (∀ k, k ≠ LNK.RX_ABORT n → (abortOpen n s).rd k = s.rd k) ∧
    ((s.laneOf n).opn.isSome = true → (abortOpen n s).rd (LNK.RX_ABORT n) = min (s.rd (LNK.RX_ABORT n) + 1) (2 ^ 64 - 1)) := by
  unfold abortOpen
  cases opn : (s.laneOf n).opn with
  | none => exact ⟨rfl, rfl, rfl, fun _ _ => rfl, fun h => absurd h Bool.false_ne_true⟩
  | some o =>
    dsimp only
    unfold freeBlocks
    rw [laneOf_modLane, laneOf_modLane, rd_modLane, rd_modLane, bump_eq]
    refine ⟨by rw [laneOf_bump], rfl, rfl, fun k hk => ?_, fun _ => rfl⟩
    rw [rd_modLane, rd_modLane, bump_ne hk]

theorem abortOpen_stampAt (hn : n < 48) (t : Nat) : stampAt (abortOpen n s) t = stampAt s t := by
  obtain ⟨-, -, clk, rd, -⟩ := abortOpen_facts (n := n) (s := s)
  have rd {k : Nat} (hk : k < 0xD10000 ∨ 0xE00000 ≤ k) : (abortOpen n s).rd k = s.rd k := rd k (by simp only [LNK.RX_ABORT]; omega)
  unfold stampAt netAt mpllLocked State.bit
  rw [rd (by decide), rd (by decide), clk]

theorem start_gives (hn : n < 48) (up : laneState n s = 3) (good : ctlBad v 0x4B [(245, 240), (159, 0)] = false)
    (ok : startOk (Dict.bitsOf v 247 246) (Dict.bitsOf v 239 224) (s.laneOf n).up = true) :
    Gives (.startBlock n v fix) s fun t => (t.laneOf n).opn = some (opened v s) ∧
      ((s.laneOf n).opn.isSome = true → t.rd (LNK.RX_ABORT n) = min (s.rd (LNK.RX_ABORT n) + 1) (2 ^ 64 - 1)) := by
  refine block_up hn exec_start up fun u hu => ?_
  obtain ⟨up', now, -, -, aborts⟩ := abortOpen_facts (n := n) (s := u)
  rw [startAct, if_neg (ne_true_of_eq_false good), if_pos (by rw [up', hu.up]; exact ok)]
  obtain ⟨-, opn, -⟩ := try_H n (begun n v u)
  rw [opn, trySend_member hn _ (by decide) (by decide), begun, laneOf_modLane, rd_modLane]
  refine ⟨?_, fun some => ?_⟩
  · unfold opened
    rw [abortOpen_stampAt hn, hu.stampAt hn, now, hu.now]
  · rw [aborts (by rw [hu.opn]; exact some), hu.rd _ (by simp)]

theorem data_block {o : OpenMsg} {P : State → Prop} (hn : n < 48) (up : laneState n s = 3) (opn : (s.laneOf n).opn = some o)
    (h : ∀ u, Headed n s u → P (trySend n (growOpen n v o u))) : Gives (.dataBlock n v fix) s P := by
  refine block_up hn exec_data up fun u hu => ?_
  rw [dataAct, hu.opn.trans opn]
  exact h u hu

theorem data_more {o : OpenMsg} (hn : n < 48) (up : laneState n s = 3) (opn : (s.laneOf n).opn = some o) (more : o.got + 32 < o.msg.len) :
    Gives (.dataBlock n v fix) s fun t => (t.laneOf n).opn = some { o with msg := grown v o, got := o.got + 32 } := by
  refine data_block hn up opn fun u _ => ?_
  obtain ⟨-, opn, -⟩ := try_H n (growOpen n v o u)
  rw [opn, growOpen, if_pos more, laneOf_modLane]

/-- A message whose check sum agrees enters the buffer (R333). -/
theorem rxComplete_of_good {crc : Nat} {m : LaneMsg} (sum : crc32 m.data m.len = crc) (ok : m.chan = 0 → meshMsgOk m = true) :
    (rxComplete n crc m s).laneOf n = { s.laneOf n with buf := (s.laneOf n).buf ++ [m] } := by
  unfold rxComplete
  rw [if_neg (not_not.2 sum), if_neg (fun h => absurd (ok h.1) (ne_true_of_eq_false h.2))]
  dsimp only
  rw [laneOf_modLane]
  have kept : (if m.chan = 0 then s.bump 64 (LNK.MESH_IN n) else if m.chan = 3 then s.bump 64 (LNK.SRX_MSGS n) else s).laneOf n = s.laneOf n := by
    split
    · exact laneOf_bump ..
    · split
      · exact laneOf_bump ..
      · rfl
  rw [kept]

theorem data_good {o : OpenMsg} (hn : n < 48) (up : laneState n s = 3) (opn : (s.laneOf n).opn = some o) (last : o.msg.len ≤ o.got + 32)
    (sum : crc32 (grown v o).data (grown v o).len = o.crc) (ok : (grown v o).chan = 0 → meshMsgOk (grown v o) = true) :
    Gives (.dataBlock n v fix) s fun t => (t.laneOf n).opn = none ∧ (t.laneOf n).buf = (s.laneOf n).buf ++ [grown v o] := by
  refine data_block hn up opn fun u hu => ?_
  obtain ⟨buf, opn, -⟩ := try_H n (growOpen n v o u)
  rw [opn, buf, growOpen, if_neg (Nat.not_lt.2 last), rxComplete_of_good sum ok, laneOf_modLane]
  exact ⟨rfl, congrArg (· ++ _) hu.buf⟩

/-- A message whose check sum disagrees is dropped and counted (R333). -/
theorem rxComplete_of_bad {crc : Nat} {m : LaneMsg} (sum : crc32 m.data m.len ≠ crc) :
    ((rxComplete n crc m s).laneOf n).opn = (s.laneOf n).opn ∧ ((rxComplete n crc m s).laneOf n).buf = (s.laneOf n).buf ∧
    (rxComplete n crc m s).bit (LNK.EVFLAGS n) 2 = true ∧
    (rxComplete n crc m s).rd (LNK.RX_CRC n) = min (s.rd (LNK.RX_CRC n) + 1) (2 ^ 64 - 1) := by
  unfold rxComplete
  rw [if_pos sum, lane_of (lnkFlag_keepsLanes n 2 _ rfl) n]
  unfold freeBlocks lnkFlag
  rw [laneOf_modLane, laneOf_bump, rd_flag_other _ (by simp), rd_modLane, bump_eq]
  exact ⟨rfl, rfl, bit_flag .., rfl⟩

theorem data_bad {o : OpenMsg} (hn : n < 48) (up : laneState n s = 3) (opn : (s.laneOf n).opn = some o) (last : o.msg.len ≤ o.got + 32)
    (sum : crc32 (grown v o).data (grown v o).len ≠ o.crc) : Gives (.dataBlock n v fix) s fun t =>
      (t.laneOf n).opn = none ∧ (t.laneOf n).buf = (s.laneOf n).buf ∧ t.bit (LNK.EVFLAGS n) 2 = true ∧
      t.rd (LNK.RX_CRC n) = min (s.rd (LNK.RX_CRC n) + 1) (2 ^ 64 - 1) := by
  refine data_block hn up opn fun u hu => ?_
  obtain ⟨buf, opn, -⟩ := try_H n (growOpen n v o u)
  obtain ⟨opn', buf', flag, count⟩ := rxComplete_of_bad (n := n) (s := u.modLane n fun x => { x with opn := none }) sum
  rw [opn, buf, try_bit hn, trySend_member hn _ (by decide) (by decide), growOpen, if_neg (Nat.not_lt.2 last), opn', buf', count, laneOf_modLane,
    rd_modLane, hu.rd _ (by simp)]
  exact ⟨rfl, hu.buf, flag, rfl⟩

/-- Settles O39: each block by what it leaves of the lane, the rest by what the lane sends after it. -/
theorem laneBlocksComplete : Obligations.LaneBlocksComplete := fun _ _ _ _ hn =>
  ⟨invalid_seeking hn, invalid_up hn, invalid_fec hn, lockGained_gives hn, blocks_seeking hn, fun up =>
    ⟨idle_bad hn up, idle_good hn up, credit_gives hn up, link_gives hn up, start_gives hn up, fun _ opn =>
      ⟨data_more hn up opn, data_good hn up opn, data_bad hn up opn⟩⟩⟩
end Sys2Proof.Proofs.LaneBlock
end

section
/-! Mesh and stream messages, the timers of a lane, and the PRBS checker (12_lanes.md R321, R322, R331, R335, R338, R340). -/
namespace Sys2Proof.Proofs.LaneEvent
open Sys2Proof.Machine Sys2Proof.Laws Common CompleteLnk LaneFacts Proofs.LaneBlock Proofs.MeshWay

variable {n : Nat} {s : State}

/-! What a lane sends leaves of the stream it writes. -/

theorem pickTx_relost {p : TxMsg × LaneS} (h : pickTx n s = some p) : p.2.relost = (s.laneOf n).relost := by
  unfold pickTx at h
  dsimp only at h
  rcases ite_cases h with h | h
  · cases h
    rfl
  rcases ite_cases h with h | h
  · cases h
    rfl
  rcases ite_cases h with h | h
  · cases h
    rfl
  · exact absurd h nofun

theorem sendMsg_relost (m : TxMsg) : ((sendMsg n m s).laneOf n).relost = (s.laneOf n).relost := by
  unfold sendMsg
  dsimp only
  rw [lane_of (afterSend_keepsLanes n _ _ rfl) n, laneOf_modLane]

theorem sendMsgs_relost : ∀ (k : Nat) (s : State), ((sendMsgs n k s).laneOf n).relost = (s.laneOf n).relost
  | 0, _ => rfl
  | k + 1, s => by
    unfold sendMsgs
    cases h : pickTx n s with
    | none => rfl
    | some p =>
      dsimp only
      rw [sendMsgs_relost k, sendMsg_relost, laneOf_modLane]
      exact pickTx_relost h

theorem trySend_relost : ((trySend n s).laneOf n).relost = (s.laneOf n).relost := by
  unfold trySend
  split
  · extract_lets s0 s1 s2 x
    have settled : (s0.laneOf n).relost = (s.laneOf n).relost := by rw [laneOf_modLane]
    have credit : (s1.laneOf n).relost = (s0.laneOf n).relost := by
      simp only [s1]
      split
      · rw [laneOf_modLane]
      · rfl
    have link : (s2.laneOf n).relost = (s1.laneOf n).relost := by
      simp only [s2]
      split
      · rw [laneOf_modLane]
      · rfl
    rw [laneOf_modLane]
    dsimp only
    rw [sendMsgs_relost, link, credit, settled]
  · rfl

theorem lanes_meshSend (r : MeshReq) (s : State) : (meshSend r s).lanes = s.lanes := by
  obtain ⟨_, _, _, _, h⟩ := meshSend_only r s
  rw [h]

theorem lanes_sends : ∀ (l : List MeshReq) (s : State), (l.foldl (fun s r => meshSend r s) s).lanes = s.lanes
  | [], _ => rfl
  | r :: l, s => (lanes_sends l (meshSend r s)).trans (lanes_meshSend r s)

/-! Mesh and stream messages (R335, R338). -/

/-- The lane with message m taken and its request on the way (R335). -/
def asked (n : Nat) (m : LaneMsg) (r : MeshReq) (s : State) : State := (takeMsg n m s).modLane n fun x => { x with inMesh := x.inMesh ++ [r] }

theorem takeMsg_lane (m : LaneMsg) : ((takeMsg n m s).laneOf n).buf = (s.laneOf n).buf.erase m ∧
    ((takeMsg n m s).laneOf n).inMesh = (s.laneOf n).inMesh := by
  unfold takeMsg freeBlocks
  rw [laneOf_modLane, laneOf_modLane]
  exact ⟨rfl, rfl⟩

theorem asked_lane (m : LaneMsg) (r : MeshReq) : ((asked n m r s).laneOf n).buf = (s.laneOf n).buf.erase m ∧
    ((asked n m r s).laneOf n).inMesh = (s.laneOf n).inMesh ++ [r] := by
  obtain ⟨buf, inMesh⟩ := takeMsg_lane (n := n) (s := s) m
  unfold asked
  rw [laneOf_modLane, inMesh]
  exact ⟨buf, rfl⟩

theorem asked_reqs (m : LaneMsg) (r : MeshReq) : (asked n m r s).reqs = s.reqs := by
  unfold asked takeMsg freeBlocks
  rw [modLane_reqs, modLane_reqs, modLane_reqs]

theorem takeMsg_rd (m : LaneMsg) (k : Nat) : (takeMsg n m s).rd k = s.rd k := by
  unfold takeMsg freeBlocks
  rw [rd_modLane, rd_modLane]

theorem regionOf_of_rd {t : State} (h : ∀ k, t.rd k = s.rd k) (a : Nat) : regionOf a t = regionOf a s := by
  unfold regionOf
  rw [h, h]

theorem meshMessage_gives {m : LaneMsg} (hn : n < 48) (first : oldest n 0 s = some m)
    (room : (s.laneOf n).inMesh.length + (s.laneOf n).drop.length < 32) (there : regionOf (meshOf n m s).addr s ≠ 6) :
    Gives (.meshMessage n) s fun t => t.reqs = s.reqs ++ [meshOf n m s] ∧ (t.laneOf n).buf = (s.laneOf n).buf.erase m ∧
      (t.laneOf n).inMesh = (s.laneOf n).inMesh ++ [meshOf n m s] := by
  refine ⟨trySend n (meshSend (meshOf n m s) (asked n m (meshOf n m s) s)), (unitNext hn).trans (congrArg _ (by rw [first]; exact if_pos room)), ?_⟩
  have there' : regionOf (meshOf n m s).addr (asked n m (meshOf n m s) s) ≠ 6 := by
    rw [asked, regionOf_of_rd fun k => (rd_modLane ..).trans (takeMsg_rd m k)]
    exact there
  obtain ⟨buf, -, -, -, inMesh, -⟩ := try_H n (meshSend (meshOf n m s) (asked n m (meshOf n m s) s))
  obtain ⟨buf', inMesh'⟩ := asked_lane (n := n) (s := s) m (meshOf n m s)
  rw [lane_of (lanes_meshSend ..)] at buf inMesh
  refine ⟨?_, buf.trans buf', inMesh.trans inMesh'⟩
  rw [trySt, reqs_meshSend _ there', asked_reqs]

theorem streamMessage_full {m : LaneMsg} (hn : n < 48) (first : oldest n 3 s = some m) (idle : (s.laneOf n).writing = none)
    (full : s.rd (LNK.SRX_BYTES n) < s.rd (LNK.SRX_WR n) - s.rd (LNK.SRX_RD n) + m.len) : Gives (.streamMessage n) s fun t =>
      (t.laneOf n).buf = (s.laneOf n).buf.erase m ∧ t.rd (LNK.SRX_DROP n) = min (s.rd (LNK.SRX_DROP n) + 1) (2 ^ 64 - 1) ∧
      t.bit (LNK.EVFLAGS n) 4 = true := by
  refine ⟨trySend n (lnkFlag n 4 ((takeMsg n m s).bump 64 (LNK.SRX_DROP n))),
    (unitNext hn).trans (congrArg _ (by rw [first, idle]; exact if_pos full)), ?_⟩
  obtain ⟨buf, -⟩ := try_H n (lnkFlag n 4 ((takeMsg n m s).bump 64 (LNK.SRX_DROP n)))
  rw [lane_of (lnkFlag_keepsLanes n 4 _ rfl) n, laneOf_bump] at buf
  refine ⟨buf.trans (takeMsg_lane m).1, ?_, (try_bit hn _).trans (bit_flag ..)⟩
  rw [trySend_member hn _ (by decide) (by decide), lnkFlag, rd_flag_other _ (by simp), bump_eq, takeMsg_rd]

/-- The lane that writes message m in parts (R338). -/
def writes (n : Nat) (m : LaneMsg) (ps : List MeshReq) (s : State) : State :=
  s.modLane n fun x => { x with buf := x.buf.erase m, writing := some (m.len, ps.length, false), parts := ps }

theorem streamMessage_fits {m : LaneMsg} (hn : n < 48) (first : oldest n 3 s = some m) (idle : (s.laneOf n).writing = none)
    (fits : s.rd (LNK.SRX_WR n) - s.rd (LNK.SRX_RD n) + m.len ≤ s.rd (LNK.SRX_BYTES n)) : Gives (.streamMessage n) s fun t =>
      let ps := streamParts n (s.rd (LNK.SRX_BASE n)) (s.rd (LNK.SRX_BYTES n)) 64 (s.rd (LNK.SRX_WR n)) m.len m.data s
      (t.laneOf n).buf = (s.laneOf n).buf.erase m ∧ (t.laneOf n).writing = some (m.len, ps.length, false) ∧ (t.laneOf n).parts = ps := by
  have run : exec (.streamMessage n) s = .next ((streamParts n (s.rd (LNK.SRX_BASE n)) (s.rd (LNK.SRX_BYTES n)) 64 (s.rd (LNK.SRX_WR n))
      m.len m.data s).foldl (fun s r => meshSend r s) (writes n m (streamParts n (s.rd (LNK.SRX_BASE n)) (s.rd (LNK.SRX_BYTES n)) 64
        (s.rd (LNK.SRX_WR n)) m.len m.data s) s)) :=
    (unitNext hn).trans (congrArg _ (by rw [first, idle]; exact if_neg (Nat.not_lt.2 fits)))
  refine ⟨_, run, ?_⟩
  dsimp only
  rw [lane_of (lanes_sends ..), writes, laneOf_modLane]
  exact ⟨rfl, rfl, rfl⟩

/-! The writes of a stream message done (R338). -/

/-- The message written, its bytes counted. -/
def stored (n len : Nat) (s : State) : State :=
  ((s.addTo 64 (LNK.SRX_WR n) len).bump 64 (LNK.SRX_DONE n)).modLane n fun l => { l with writing := none, relost := false }

/-- An error among the writes, counted and flagged. -/
def spoiled (n : Nat) (err : Bool) (s : State) : State := if err then lnkFlag n 6 (s.bump 64 (LNK.SRX_ERR n)) else s

theorem spoiled_facts (err : Bool) : (spoiled n err s).laneOf n = s.laneOf n ∧ (spoiled n err s).rd (LNK.SRX_WR n) = s.rd (LNK.SRX_WR n) ∧
    (spoiled n err s).rd (LNK.SRX_DONE n) = s.rd (LNK.SRX_DONE n) ∧
    (err = true → (spoiled n err s).rd (LNK.SRX_ERR n) = min (s.rd (LNK.SRX_ERR n) + 1) (2 ^ 64 - 1) ∧ (spoiled n err s).bit (LNK.EVFLAGS n) 6 = true) := by
  unfold spoiled
  cases err
  · exact ⟨rfl, rfl, rfl, fun h => absurd h Bool.false_ne_true⟩
  · rw [if_pos rfl, lane_of (lnkFlag_keepsLanes n 6 _ rfl) n, laneOf_bump]
    unfold lnkFlag
    rw [rd_flag_other _ (by simp), rd_flag_other _ (by simp), rd_flag_other _ (by simp), bump_ne (by simp), bump_ne (by simp), bump_eq]
    exact ⟨rfl, rfl, rfl, fun _ => ⟨rfl, bit_flag ..⟩⟩

theorem stored_facts (len : Nat) : (stored n len s).rd (LNK.SRX_WR n) = min (s.rd (LNK.SRX_WR n) + len) (2 ^ 64 - 1) ∧
    (stored n len s).rd (LNK.SRX_DONE n) = min (s.rd (LNK.SRX_DONE n) + 1) (2 ^ 64 - 1) ∧
    (stored n len s).rd (LNK.SRX_ERR n) = s.rd (LNK.SRX_ERR n) ∧ (stored n len s).laneOf n = { s.laneOf n with writing := none, relost := false } := by
  unfold stored
  rw [rd_modLane, rd_modLane, rd_modLane, laneOf_modLane, laneOf_bump, laneOf_addTo, bump_ne (by simp), bump_eq, bump_ne (by simp), addTo_eq,
    addTo_ne (by simp), addTo_ne (by simp)]
  exact ⟨rfl, rfl, rfl, rfl⟩

/-- The blocks of the message returned to its sender, unless the lane lost its link meanwhile (R338). -/
def returnedBlocks (n len : Nat) (lost : Bool) (s : State) : State := if lost then s else freeBlocks n 3 (blocksOf len) s

theorem returnedBlocks_facts (len : Nat) (lost : Bool) : (∀ k, (returnedBlocks n len lost s).rd k = s.rd k) ∧
    ((returnedBlocks n len lost s).laneOf n).writing = (s.laneOf n).writing ∧ ((returnedBlocks n len lost s).laneOf n).relost = (s.laneOf n).relost ∧
    ((returnedBlocks n len lost s).laneOf n).freed =
      if lost = true then (s.laneOf n).freed else at4 (s.laneOf n).freed 3 fun v => (v + blocksOf len) % 65536 := by
  unfold returnedBlocks freeBlocks
  cases lost
  · rw [if_neg Bool.false_ne_true, laneOf_modLane]
    exact ⟨fun k => rd_modLane .., rfl, rfl, rfl⟩
  · exact ⟨fun _ => rfl, rfl, rfl, rfl⟩

theorem streamWritesDone_gives {len k : Nat} {err : Bool} (hn : n < 48) (writing : (s.laneOf n).writing = some (len, k, err))
    (whole : (s.laneOf n).parts = []) : Gives (.streamWritesDone n err) s fun t => (t.laneOf n).writing = none ∧ (t.laneOf n).relost = false ∧
      (t.laneOf n).freed = (if (s.laneOf n).relost = true then (s.laneOf n).freed
        else at4 (s.laneOf n).freed 3 fun v => (v + blocksOf len) % 65536) ∧
      t.rd (LNK.SRX_WR n) = min (s.rd (LNK.SRX_WR n) + len) (2 ^ 64 - 1) ∧
      t.rd (LNK.SRX_DONE n) = min (s.rd (LNK.SRX_DONE n) + 1) (2 ^ 64 - 1) ∧
      (err = true → t.rd (LNK.SRX_ERR n) = min (s.rd (LNK.SRX_ERR n) + 1) (2 ^ 64 - 1) ∧ t.bit (LNK.EVFLAGS n) 6 = true) := by
  have run : exec (.streamWritesDone n err) s =
      .next (trySend n (returnedBlocks n len (s.laneOf n).relost (spoiled n err (stored n len s)))) :=
    (unitNext hn).trans (congrArg _ (by rw [writing]; exact if_pos ⟨whole, rfl⟩))
  refine ⟨_, run, ?_⟩
  obtain ⟨wr, done, serr, lane⟩ := stored_facts (n := n) (s := s) len
  obtain ⟨lane', wr', done', bad⟩ := spoiled_facts (n := n) (s := stored n len s) err
  obtain ⟨rd, writing', relost, freed⟩ := returnedBlocks_facts (n := n) (s := spoiled n err (stored n len s)) len (s.laneOf n).relost
  obtain ⟨-, -, hfreed, -, -, hwriting, -⟩ := try_H n (returnedBlocks n len (s.laneOf n).relost (spoiled n err (stored n len s)))
  rw [lane', lane] at writing' relost freed
  refine ⟨hwriting.trans writing', trySend_relost.trans relost, hfreed.trans freed, ?_, ?_, fun e => ⟨?_, ?_⟩⟩
  · rw [trySend_member hn _ (by decide) (by decide), rd, wr', wr]
  · rw [trySend_member hn _ (by decide) (by decide), rd, done', done]
  · rw [trySend_member hn _ (by decide) (by decide), rd, (bad e).1, serr]
  · exact ((try_bit hn _).trans (bit_of_rd (rd _))).trans (bad e).2

/-! Timers (R331). -/

theorem creditTimer_gives (hn : n < 48) (up : laneState n s = 3) : Gives (.creditSendTimer n) s fun t =>
    (t.laneOf n).oweCredit = false ∧ (t.laneOf n).creditAt = max s.now ((s.laneOf n).creditAt + 10 * ticksPerUs) := by
  refine ⟨_, (unitNext hn).trans (congrArg _ (if_pos up)), ?_⟩
  obtain ⟨owes, -, at', -⟩ := try_owe n ((s.upto ((s.laneOf n).creditAt + 10 * ticksPerUs)).modLane n fun x => { x with oweCredit := true })
    ((rd_modLane ..).trans up)
  rw [laneOf_modLane, if_pos rfl] at at'
  exact ⟨owes, at'⟩

theorem linkTimer_gives (hn : n < 48) (up : laneState n s = 3) : Gives (.linkSendTimer n) s fun t =>
    (t.laneOf n).oweLink = false ∧ (t.laneOf n).linkAt = max s.now ((s.laneOf n).linkAt + 1000 * ticksPerUs) := by
  refine ⟨_, (unitNext hn).trans (congrArg _ (if_pos up)), ?_⟩
  obtain ⟨-, owes, -, at'⟩ := try_owe n ((s.upto ((s.laneOf n).linkAt + 1000 * ticksPerUs)).modLane n fun x => { x with oweLink := true })
    ((rd_modLane ..).trans up)
  rw [laneOf_modLane, if_pos rfl] at at'
  exact ⟨owes, at'⟩

/-! The PRBS checker (R321, R322). -/

/-- The checker after bit b, its counts taken. -/
def checked (n : Nat) (r : PrbsS × Nat × Nat × Nat) (s : State) : State :=
  (((s.modLane n fun x => { x with prbs := r.1 }).addTo 64 (LNK.PRBS_BITS n) r.2.1).addTo 64 (LNK.PRBS_ERR n) r.2.2.1).addTo 64
    (LNK.PRBS_RESYNC n) r.2.2.2

theorem checked_facts (r : PrbsS × Nat × Nat × Nat) : (checked n r s).laneOf n = { s.laneOf n with prbs := r.1 } ∧
    (checked n r s).rd (LNK.PRBS_BITS n) = min (s.rd (LNK.PRBS_BITS n) + r.2.1) (2 ^ 64 - 1) ∧
    (checked n r s).rd (LNK.PRBS_ERR n) = min (s.rd (LNK.PRBS_ERR n) + r.2.2.1) (2 ^ 64 - 1) ∧
    (checked n r s).rd (LNK.PRBS_RESYNC n) = min (s.rd (LNK.PRBS_RESYNC n) + r.2.2.2) (2 ^ 64 - 1) := by
  unfold checked
  refine ⟨by rw [laneOf_addTo, laneOf_addTo, laneOf_addTo, laneOf_modLane], ?_, ?_, ?_⟩
  · rw [addTo_ne (by simp), addTo_ne (by simp), addTo_eq, rd_modLane]
  · rw [addTo_ne (by simp), addTo_eq, addTo_ne (by simp), rd_modLane]
  · rw [addTo_eq, addTo_ne (by simp), addTo_ne (by simp), rd_modLane]

theorem checkBit_facts (c : Nat) (b : Bool) :
    let r := prbsBit c b (s.laneOf n).prbs
    (checkBit n c b s).laneOf n = { s.laneOf n with prbs := r.1 } ∧
    (r.2.2.1 = 1 → (s.laneOf n).prbs.missed = false → (checkBit n c b s).bit (LNK.EVFLAGS n) 5 = true) ∧
    (checkBit n c b s).rd (LNK.PRBS_BITS n) = min (s.rd (LNK.PRBS_BITS n) + r.2.1) (2 ^ 64 - 1) ∧
    (checkBit n c b s).rd (LNK.PRBS_ERR n) = min (s.rd (LNK.PRBS_ERR n) + r.2.2.1) (2 ^ 64 - 1) ∧
    (checkBit n c b s).rd (LNK.PRBS_RESYNC n) = min (s.rd (LNK.PRBS_RESYNC n) + r.2.2.2) (2 ^ 64 - 1) := by
  intro r
  have act : checkBit n c b s = if r.2.2.1 = 1 ∧ (s.laneOf n).prbs.missed = false then lnkFlag n 5 (checked n r s) else checked n r s := rfl
  obtain ⟨lane, bits, errs, resyncs⟩ := checked_facts (n := n) (s := s) r
  rw [act]
  by_cases hit : r.2.2.1 = 1 ∧ (s.laneOf n).prbs.missed = false
  · rw [if_pos hit, lane_of (lnkFlag_keepsLanes n 5 _ rfl) n]
    unfold lnkFlag
    rw [rd_flag_other _ (by simp), rd_flag_other _ (by simp), rd_flag_other _ (by simp)]
    exact ⟨lane, fun _ _ => bit_flag .., bits, errs, resyncs⟩
  · rw [if_neg hit]
    exact ⟨lane, fun h h' => absurd ⟨h, h'⟩ hit, bits, errs, resyncs⟩

theorem prbs_gives {v : Nat} {b : Bool} (hn : n < 48) (raw : laneState n s = 4) (one : lineReceived n [v] s = [b]) :
    let c := Dict.bitsOf (s.rd (LNK.RAW n)) 6 4
    let r := prbsBit c (xor b (s.bit (LNK.RAW n) 1)) (s.laneOf n).prbs
    c < 4 → Gives (.prbsChecker n [v]) s fun t => (t.laneOf n).prbs = r.1 ∧ (t.laneOf n).rxP = v ∧
      (r.2.2.1 = 1 → (s.laneOf n).prbs.missed = false → t.bit (LNK.EVFLAGS n) 5 = true) ∧
      t.rd (LNK.PRBS_BITS n) = min (s.rd (LNK.PRBS_BITS n) + r.2.1) (2 ^ 64 - 1) ∧
      t.rd (LNK.PRBS_ERR n) = min (s.rd (LNK.PRBS_ERR n) + r.2.2.1) (2 ^ 64 - 1) ∧
      t.rd (LNK.PRBS_RESYNC n) = min (s.rd (LNK.PRBS_RESYNC n) + r.2.2.2) (2 ^ 64 - 1) := by
  intro c r checks
  refine ⟨checkBit n c (xor b (s.bit (LNK.RAW n) 1)) (s.modLane n fun x => { x with rxP := v }),
    (unitNext hn).trans (congrArg _ ((if_pos raw).trans ((if_pos checks).trans (by rw [one]; rfl)))), ?_⟩
  have facts := checkBit_facts (n := n) (s := s.modLane n fun x => { x with rxP := v }) c (xor b (s.bit (LNK.RAW n) 1))
  dsimp only at facts
  rw [laneOf_modLane, rd_modLane, rd_modLane, rd_modLane] at facts
  obtain ⟨lane, flag, counts⟩ := facts
  beta_reduce
  rw [lane]
  exact ⟨rfl, rfl, flag, counts⟩

/-- Settles O40: each message by its effect, each timer by what the lane owes, each symbol by its bit. -/
theorem laneEventsComplete : Obligations.LaneEventsComplete := fun _ _ hn =>
  ⟨fun _ => meshMessage_gives hn, fun _ first idle => ⟨streamMessage_full hn first idle, streamMessage_fits hn first idle⟩,
    fun _ _ _ => streamWritesDone_gives hn, creditTimer_gives hn, linkTimer_gives hn, fun _ _ => prbs_gives hn⟩
end Sys2Proof.Proofs.LaneEvent
end

section
/-! Role, increment and steps of network time, and the message queues of a host lane (13_time_unit.md R346 to R349, R352, R353). -/
namespace Sys2Proof.Proofs.TimeControl
open Sys2Proof.Machine Sys2Proof.Laws Common CompleteLnk.LaneFacts CompleteTmu TimeFacts

variable {q : Req} {v n : Nat} {s : State}

/-! The role (R346). -/

/-- The unit in its new role, its time invalid and its servo at rest (R346). -/
def roled (v : Nat) (s : State) : State :=
  (((validFall s).wr TMU.ROLE v).setBit TMU.STATUS 1 false).modTmu fun t => { t with lock := 0, integ := 0, xch := none, lastAt := s.now, done := false }

theorem roleEff_of_new (new : s.rd TMU.ROLE ≠ v) : roleEff v s = if v = 1 then validRise (roled v s) else roled v s :=
  if_neg (Ne.symm new)

theorem roled_facts : (roled v s).rd TMU.ROLE = v ∧ timeValid (roled v s) = false := by
  unfold roled
  refine ⟨?_, ?_⟩
  · rw [rd_modTmu, rd_setBit_other _ (by decide), rd_wr_same]
  · rw [valid_of (s := validFall s) (by rw [rd_modTmu, rd_setBit_other _ (by decide), rd_wr_other _ (by decide)])]
    exact fall_valid s

theorem roleEff_role : (roleEff v s).rd TMU.ROLE = v := by
  by_cases same : s.rd TMU.ROLE = v
  · rw [roleEff, if_pos same.symm, same]
  · rw [roleEff_of_new same]
    split
    · exact (rise_rd (by decide) (by decide) (by decide)).trans roled_facts.1
    · exact roled_facts.1

theorem role_gives (h : Writes q TMU.ROLE 1 v s) : Gives (.tmuRoleWrite q v) s fun t => Answered q 0 t ∧ t.rd TMU.ROLE = v ∧
    (v = 1 → s.rd TMU.ROLE ≠ 1 → timeValid t = true) ∧ (v ≠ 1 → s.rd TMU.ROLE ≠ v → timeValid t = false) := by
  refine givesWr' rfl h noC fun t like => ?_
  rw [like_k like (by decide), valid_of (like.rd _ (by decide))]
  refine ⟨roleEff_role, fun one new => ?_, fun other new => ?_⟩
  · rw [roleEff_of_new (one ▸ new), if_pos one]
    exact rise_valid _
  · rw [roleEff_of_new new, if_neg other]
    exact roled_facts.2

/-! The increment and the steps (R347 to R349). -/

/-- The clock moved so that its count reads base at the next engine edge. -/
theorem clockMove_net {t : State} {base j : Nat} {stepped : Bool} (like : t.clk = (clockMove base stepped s).clk) (locked : mpllLocked t = true) :
    netAt t (engAfter s.now + 8192 * j) = base + t.rd TMU.INCR * j := net_move t base _ j locked (by rw [like]; rfl) (by rw [like]; rfl)

theorem setIncr_facts : (setIncr v s).rd TMU.INCR = v ∧ mpllLocked (setIncr v s) = mpllLocked s :=
  ⟨rd_wr_same .., locked_of (rd_wr_other _ (by decide) _)⟩

theorem incr_gives (h : Writes q TMU.INCR 8 v s) (free : s.rd TMU.ROLE ≠ 2) : Gives (.incrWrite q v) s fun t =>
    Answered q 0 t ∧ t.rd TMU.INCR = v ∧ (mpllLocked s = true → ∀ j, netAt t (engAfter s.now + 8192 * j) =
      netAt s (engAfter s.now) + v - s.rd TMU.INCR + v * j) := by
  refine givesWr' rfl h (List.forall_mem_singleton.2 (Bool.eq_false_iff.2 fun e => free (Nat.eq_of_beq_eq_true e))) fun t like => ?_
  obtain ⟨locked, clk, incr⟩ := like_net like
  obtain ⟨set, kept⟩ := setIncr_facts (v := v) (s := s)
  refine ⟨incr.trans set, fun on j => ?_⟩
  rw [clockMove_net clk (locked.trans (kept.trans on)), incr, set]

theorem stepTo_facts (base : Nat) : (stepTo base s).rd TMU.STEPS = min (s.rd TMU.STEPS + 1) (2 ^ 64 - 1) ∧
    (stepTo base s).bit TMU.EVFLAGS 2 = true ∧ (stepTo base s).clk = (clockMove base true s).clk ∧ mpllLocked (stepTo base s) = mpllLocked s := by
  unfold stepTo tmuFlag
  refine ⟨?_, bit_flag .., ?_, locked_of ?_⟩
  · rw [rd_flag_other _ (by decide), bump_eq]
    rfl
  · rw [flag_clk, bump_clk]
  · rw [rd_flag_other _ (by decide), bump_ne (by decide)]
    rfl

theorem stepTo_net {base : Nat} {t : State} (like : Like (stepTo base s) t) (on : mpllLocked s = true) : netAt t (engAfter s.now) = base := by
  obtain ⟨-, -, clk, kept⟩ := stepTo_facts (s := s) base
  obtain ⟨locked, clk', -⟩ := like_net like
  have := clockMove_net (j := 0) (clk'.trans clk) (locked.trans (kept.trans on))
  rwa [Nat.mul_zero, Nat.mul_zero, Nat.add_zero, Nat.add_zero] at this

theorem stepWrite_of_ok (h : Writes q TMU.STEP 8 v s) (hc : ∀ c ∈ stepConds v s, c.1 = false) :
    exec (.tmuStep q v) s = .next (writeTo q TMU.STEP 8 v (stepConds v s) (stepBy (toSigned 64 v)) s) := by
  have ok : statusOf q 2 0xE000 3 8 v 0 (stepConds v s) s = 0 := statusOf_zero h.1.2 h.2 hc
  refine congrArg Host.Outcome.next ?_
  unfold stepWrite
  dsimp only
  rw [ok]
  exact if_neg fun refused => absurd refused.1 (by decide)

theorem step_gives (h : Writes q TMU.STEP 8 v s) (hc : ∀ c ∈ stepConds v s, c.1 = false) : Gives (.tmuStep q v) s fun t =>
    Answered q 0 t ∧ t.rd TMU.STEPS = min (s.rd TMU.STEPS + 1) (2 ^ 64 - 1) ∧ t.bit TMU.EVFLAGS 2 = true ∧
    (mpllLocked s = true → netAt t (engAfter s.now) = ((netAt s (engAfter s.now) : Int) + toSigned 64 v).toNat) := by
  refine givesWr' (stepWrite_of_ok h hc) h hc fun t like => ?_
  obtain ⟨steps, flag, -⟩ := stepTo_facts (s := s) ((netAt s (engAfter s.now) : Int) + toSigned 64 v).toNat
  exact ⟨(like_k like (by decide)).trans steps, (bit_of_rd (like_k like (by decide))).trans flag, stepTo_net like⟩

theorem set_gives (h : Writes q TMU.SET 16 v s) (free : s.rd TMU.ROLE = 0) : Gives (.tmuSet q v) s fun t => Answered q 0 t ∧
    t.rd TMU.STEPS = min (s.rd TMU.STEPS + 1) (2 ^ 64 - 1) ∧ (mpllLocked s = true → netAt t (engAfter s.now) = ofTime128 v) := by
  refine givesWr' rfl h (List.forall_mem_singleton.2 (by rw [free]; rfl)) fun t like => ?_
  exact ⟨(like_k like (by decide)).trans (stepTo_facts _).1, stepTo_net like⟩

/-! The message queues of a host lane (R352, R353). -/

/-- The host's message at the end of the queue. -/
def queued (n v : Nat) (s : State) : State := s.modLane n fun x => { x with txTime := x.txTime ++ [.host v] }

theorem queued_lane : (queued n v s).laneOf n = { s.laneOf n with txTime := (s.laneOf n).txTime ++ [.host v] } := laneOf_modLane ..

theorem queued_credit (m : TxMsg) : creditFor n m (queued n v s) = creditFor n m s := by
  unfold creditFor
  rw [queued_lane]

theorem txmsg_gives (hn : n < 48) (h : Writes q (TMU.TXMSG n) 32 v s) (hc : ∀ c ∈ txmsgConds n s, c.1 = false) :
    Gives (.txmsg q n v) s fun t => Answered q 0 t ∧
      ((s.laneOf n).txTime = [] → creditFor n (.host v) s = false → (t.laneOf n).txTime = [.host v]) ∧
      ((s.laneOf n).txTime = [] → (s.laneOf n).txMgmt = [] → (s.laneOf n).txMesh = [] → creditFor n (.host v) s = true →
        (∃ l, (t.laneOf n).out = l ++ blocksFor (.host v) s ++ [idleBlock]) ∧ (t.laneOf n).txTime = [] ∧
        t.rd (TMU.TXTS_MADE n) = min (s.rd (TMU.TXTS_MADE n) + 1) (2 ^ 64 - 1)) := by
  refine givesWr rfl hn h hc fun t like => ?_
  have up : laneState n s = 3 := by
    have open' : (laneState n s != 3) = false := hc (laneState n s != 3, 7) (List.mem_cons_of_mem _ List.mem_cons_self)
    simpa using open'
  have up' : laneState n (queued n v s) = 3 := (rd_modLane ..).trans up
  have alone (h : (s.laneOf n).txTime = []) : ((queued n v s).laneOf n).txTime = [.host v] := by
    rw [queued_lane, h]
    rfl
  rw [lane_of like.lanes, like_k like (by simp only [TMU.TXTS_MADE]; omega)]
  refine ⟨fun empty none => try_no rfl (alone empty) ((queued_credit _).trans none), fun empty mgmt mesh some => ?_⟩
  obtain ⟨sent, out, made⟩ := try_one up' (alone empty) ((queued_credit _).trans some) (by rw [queued_lane]; exact mgmt) (by rw [queued_lane]; exact mesh)
  exact ⟨out, sent, made.trans (by rw [queued, rd_modLane])⟩

theorem txts_gives {e : Nat × Nat} {rest : List (Nat × Nat)} (hn : n < 48) (hq : q.master ≠ 9) (h : Takes q (TMU.TXTS n) 24 s)
    (host : s.bit TMU.HOST_LANES n = true) (first : (s.laneTimeOf n).txts = e :: rest) : Gives (.txts q n) s fun t =>
      AnsweredWith q 24 (toTime128 e.1 + e.2 * 2 ^ 128) t ∧ (t.laneTimeOf n).txts = rest ∧
      t.rd (TMU.TXTS_READ n) = min (s.rd (TMU.TXTS_READ n) + 1) (2 ^ 64 - 1) := by
  have data : txtsData n s = toTime128 e.1 + e.2 * 2 ^ 128 := by rw [txtsData, first]
  rw [← data]
  refine CompleteFcp.givesRd rfl hn h hq (by simp [txtsConds, hostLane, host, first]) fun t like => ⟨?_, ?_⟩
  · have taken : (txtsEff n s).laneTimeOf n = { s.laneTimeOf n with txts := (s.laneTimeOf n).txts.drop 1 } := by
      rw [txtsEff, laneTimeOf_modLaneTime]
      rfl
    rw [State.laneTimeOf, like.tmu]
    exact (congrArg LaneTime.txts taken).trans (by rw [first]; rfl)
  · rw [like_k like (by simp only [TMU.TXTS_READ]; omega), txtsEff, rd_modLaneTime, bump_eq]

theorem rxmsg_gives {e : Nat × Nat} {rest : List (Nat × Nat)} (hn : n < 48) (hq : q.master ≠ 9) (h : Takes q (TMU.RXMSG n) 48 s)
    (host : s.bit TMU.HOST_LANES n = true) (first : (s.laneTimeOf n).rx = e :: rest) : Gives (.rxmsg q n) s fun t =>
      AnsweredWith q 48 (e.1 % 2 ^ 256 + toTime128 e.2 * 2 ^ 256) t ∧ (t.laneTimeOf n).rx = rest := by
  have data : rxmsgData n s = e.1 % 2 ^ 256 + toTime128 e.2 * 2 ^ 256 := by rw [rxmsgData, first]
  rw [← data]
  refine CompleteFcp.givesRd rfl hn h hq (by simp [rxmsgConds, hostLane, host, first]) fun t like => ?_
  have taken : (rxmsgEff n s).laneTimeOf n = { s.laneTimeOf n with rx := (s.laneTimeOf n).rx.drop 1 } := laneTimeOf_modLaneTime ..
  rw [State.laneTimeOf, like.tmu]
  exact (congrArg LaneTime.rx taken).trans (by rw [first]; rfl)

/-- Settles O41: the count at the next engine edge by the move of the clock, the queues by what a lane sends. -/
theorem timeControlCompletes : Obligations.TimeControlCompletes := fun _ _ _ =>
  ⟨role_gives, incr_gives, step_gives, set_gives, fun _ => txmsg_gives, fun _ _ _ => txts_gives, fun _ _ _ => rxmsg_gives⟩
end Sys2Proof.Proofs.TimeControl
end

section
/-! The exchange of time with a master and with followers (13_time_unit.md R348, R353 to R360). -/
namespace Sys2Proof.Proofs.TimeExchange
open Sys2Proof.Machine Sys2Proof.Laws Common CompleteLnk.LaneFacts CompleteTmu TimeFacts Proofs.LaneEvent

variable {n : Nat} {s : State}

/-! The start of an exchange (R354). -/

/-- The two messages that open an exchange queued on a lane that serves, and what the lane sends. -/
def sendSync (seq : Nat) (s : State) (n : Nat) : State :=
  if s.bit TMU.SERVE n = true ∧ laneState n s = 3 then
    trySend n (s.modLane n fun x => { x with txTime := x.txTime ++ [.time 1 seq 0, .time 2 seq 0] })
  else s

theorem sendSync_keeps (seq m : Nat) : P3 n (sendSync seq s m) = P3 n s := by
  unfold sendSync
  split
  · exact (try_P3 ..).trans (P3_tmu rfl)
  · rfl

theorem sendSyncs_keep (seq : Nat) : ∀ (l : List Nat) (s : State), P3 n (l.foldl (sendSync seq) s) = P3 n s
  | [], _ => rfl
  | m :: l, s => (sendSyncs_keep seq l (sendSync seq s m)).trans (sendSync_keeps seq m)

/-- The instant of the exchange, not sooner than the interval allows. -/
def startInstant (s : State) : State := if s.tmu.startAt = 0 then s else s.upto (s.tmu.startAt + s.rd TMU.INTERVAL * ticksPerUs)

theorem execExchangeStart_of_serving (serves : serving s = true) (any : s.rd TMU.SERVE ≠ 0) : exec .exchangeStart s =
    .next ((List.range 48).foldl (sendSync (startInstant s).tmu.seq)
      ((startInstant s).modTmu fun t => { t with seq := ((startInstant s).tmu.seq + 1) % 65536, startAt := (startInstant s).now })) :=
  congrArg Host.Outcome.next (if_pos ⟨serves, any⟩)

theorem startInstant_facts : (startInstant s).tmu = s.tmu ∧ (startInstant s).now =
    if s.tmu.startAt = 0 then s.now else max s.now (s.tmu.startAt + s.rd TMU.INTERVAL * ticksPerUs) := by
  unfold startInstant
  split <;> exact ⟨rfl, rfl⟩

theorem exchangeStart_gives (serves : serving s = true) (any : s.rd TMU.SERVE ≠ 0) : Gives .exchangeStart s fun t =>
    t.tmu.seq = (s.tmu.seq + 1) % 65536 ∧
    t.tmu.startAt = if s.tmu.startAt = 0 then s.now else max s.now (s.tmu.startAt + s.rd TMU.INTERVAL * ticksPerUs) := by
  refine ⟨_, execExchangeStart_of_serving serves any, ?_⟩
  obtain ⟨seq, startAt, -⟩ := P3_of (sendSyncs_keep (n := 0) (startInstant s).tmu.seq (List.range 48)
    ((startInstant s).modTmu fun t => { t with seq := ((startInstant s).tmu.seq + 1) % 65536, startAt := (startInstant s).now }))
  obtain ⟨tmu, now⟩ := startInstant_facts (s := s)
  refine ⟨seq.trans ?_, startAt.trans now⟩
  exact congrArg (fun t => (t.seq + 1) % 65536) tmu

/-! A received message of time (R353). -/

/-- What a received message of time does once it is taken from the buffer. -/
def sortTime (n : Nat) (m : LaneMsg) (s : State) : State :=
  if s.bit TMU.HOST_LANES n then
    if (s.laneTimeOf n).rx.length < 16 then s.modLaneTime n fun t => { t with rx := t.rx ++ [(m.data, m.stamp)] }
    else laneFlag n 1 6 (s.bump 64 (TMU.RX_LOST n))
  else if (s.rd TMU.SRC_LANE = n ∨ s.bit TMU.SERVE n = true) ∧ 1 ≤ Dict.bitsOf m.data 23 16 ∧ Dict.bitsOf m.data 23 16 ≤ 4 ∧
      Dict.bitsOf m.data 31 24 = s.rd TMU.DOMAIN then
    s.modLaneTime n fun t => { t with inbox := t.inbox ++ [⟨m.data, m.stamp⟩] }
  else s.bump 64 (TMU.RX_LOST n)

theorem execTimeMessage_of_first {m : LaneMsg} (hn : n < 48) (first : oldest n 2 s = some m) :
    exec (.timeMessage n) s = .next (trySend n (sortTime n m (takeMsg n m s))) :=
  (unitNext hn).trans (congrArg _ (by rw [first]; rfl))

theorem takeMsg_bit (m : LaneMsg) (k b : Nat) : (takeMsg n m s).bit k b = s.bit k b := bit_of_rd (takeMsg_rd m k)

theorem takeMsg_time (m : LaneMsg) : (takeMsg n m s).laneTimeOf n = s.laneTimeOf n := by
  unfold takeMsg freeBlocks
  rw [laneTimeOf_modLane, laneTimeOf_modLane]

theorem timeMessage_host {m : LaneMsg} (hn : n < 48) (first : oldest n 2 s = some m) (host : s.bit TMU.HOST_LANES n = true)
    (room : (s.laneTimeOf n).rx.length < 16) : Gives (.timeMessage n) s fun t => (t.laneOf n).buf = (s.laneOf n).buf.erase m ∧
      (t.laneTimeOf n).rx = (s.laneTimeOf n).rx ++ [(m.data, m.stamp)] := by
  refine ⟨_, execTimeMessage_of_first hn first, ?_⟩
  obtain ⟨buf, -⟩ := try_H n (sortTime n m (takeMsg n m s))
  obtain ⟨-, -, -, rx, -⟩ := P3_of (try_P3 n n (sortTime n m (takeMsg n m s)))
  have kept : sortTime n m (takeMsg n m s) = (takeMsg n m s).modLaneTime n fun t => { t with rx := t.rx ++ [(m.data, m.stamp)] } := by
    unfold sortTime
    rw [if_pos ((takeMsg_bit ..).trans host), if_pos (by rw [takeMsg_time]; exact room)]
  rw [kept] at buf rx
  rw [laneTimeOf_modLaneTime, takeMsg_time] at rx
  rw [kept]
  exact ⟨buf.trans (takeMsg_lane m).1, rx⟩

theorem timeMessage_inbox {m : LaneMsg} (hn : n < 48) (first : oldest n 2 s = some m) (own : s.bit TMU.HOST_LANES n = false)
    (ours : s.rd TMU.SRC_LANE = n ∨ s.bit TMU.SERVE n = true) (low : 1 ≤ Dict.bitsOf m.data 23 16) (high : Dict.bitsOf m.data 23 16 ≤ 4)
    (domain : Dict.bitsOf m.data 31 24 = s.rd TMU.DOMAIN) : Gives (.timeMessage n) s fun t => (t.laneOf n).buf = (s.laneOf n).buf.erase m ∧
      (t.laneTimeOf n).inbox = (s.laneTimeOf n).inbox ++ [⟨m.data, m.stamp⟩] := by
  refine ⟨_, execTimeMessage_of_first hn first, ?_⟩
  obtain ⟨buf, -⟩ := try_H n (sortTime n m (takeMsg n m s))
  obtain ⟨-, -, -, -, inbox⟩ := P3_of (try_P3 n n (sortTime n m (takeMsg n m s)))
  have kept : sortTime n m (takeMsg n m s) = (takeMsg n m s).modLaneTime n fun t => { t with inbox := t.inbox ++ [⟨m.data, m.stamp⟩] } := by
    unfold sortTime
    rw [if_neg (by rw [takeMsg_bit, own]; decide), if_pos (by rw [takeMsg_bit, takeMsg_rd, takeMsg_rd]; exact ⟨ours, low, high, domain⟩)]
  rw [kept] at buf inbox
  rw [laneTimeOf_modLaneTime, takeMsg_time] at inbox
  rw [kept]
  exact ⟨buf.trans (takeMsg_lane m).1, inbox⟩

/-! The helper takes messages from the inbox (R355 to R359). -/

/-- Message m taken from the inbox of lane n. -/
structure Taken (n : Nat) (m : TimeIn) (s u : State) : Prop where
  inbox : (u.laneTimeOf n).inbox = (s.laneTimeOf n).inbox.erase m
  reg : u.reg = s.reg
  lanes : u.lanes = s.lanes
  xch : u.tmu.xch = s.tmu.xch
  tgt : u.tgt = s.tgt

theorem Taken.rd {m : TimeIn} {u : State} (h : Taken n m s u) (k : Nat) : u.rd k = s.rd k := by
  unfold State.rd
  rw [h.reg]

theorem Taken.source {m : TimeIn} {u : State} (h : Taken n m s u) : isSource n u = isSource n s := by
  unfold isSource
  rw [h.rd, h.rd]

theorem Taken.serving {m : TimeIn} {u : State} (h : Taken n m s u) : serving u = serving s := by
  unfold Machine.serving State.tgtOf
  rw [h.rd, h.tgt, valid_of (h.rd _)]

theorem helper_gives {i : Instr} {type : Nat} {act : TimeIn → State → State} {m : TimeIn} {P : State → Prop} (hn : n < 48)
    (run : exec i s = helper n type act s) (free : (s.tgtOf 0).held = false)
    (first : (s.laneTimeOf n).inbox.find? (fun m => Nat.beq (Dict.bitsOf m.msg 23 16) type) = some m)
    (h : ∀ u, Taken n m s u → P (act m u)) : Gives i s P := by
  obtain ⟨t, next, ht⟩ := help hn free first fun u inbox reg lanes xch tgt _ => h u ⟨inbox, reg, lanes, xch, tgt⟩
  exact ⟨t, run.trans next, ht⟩

def syncAct (n : Nat) (m : TimeIn) (s : State) : State :=
  if isSource n s then s.modTmu fun t => { t with xch := some { seq := msgSeq m, t2 := m.stamp } } else s

theorem sync_gives {m : TimeIn} (hn : n < 48) (free : (s.tgtOf 0).held = false)
    (first : (s.laneTimeOf n).inbox.find? (fun m => Nat.beq (Dict.bitsOf m.msg 23 16) 1) = some m) (source : isSource n s = true) :
    Gives (.sync n) s fun t => t.tmu.xch = some { seq := msgSeq m, t2 := m.stamp } ∧
      (t.laneTimeOf n).inbox = (s.laneTimeOf n).inbox.erase m := by
  refine helper_gives (act := syncAct n) hn rfl free first fun u hu => ?_
  rw [syncAct, if_pos (hu.source.trans source)]
  exact ⟨rfl, hu.inbox⟩

/-- The grandmaster that a FOLLOW message names (R357). -/
def named (m : TimeIn) (s : State) : State :=
  let gm := Dict.bitsOf m.msg 127 64
  if gm = s.rd TMU.GM_SERIAL then s else tmuFlag 4 ((s.wr TMU.GM_SERIAL gm).wr TMU.HOPS (Dict.bitsOf m.msg 39 32))

theorem named_facts (m : TimeIn) : (named m s).rd TMU.GM_SERIAL = Dict.bitsOf m.msg 127 64 ∧ (named m s).tmu = s.tmu := by
  unfold named
  dsimp only
  split
  next same => exact ⟨same.symm, rfl⟩
  · exact ⟨(tmuFlag_rd (by decide)).trans ((rd_wr_other _ (by decide) _).trans (rd_wr_same ..)), tmu_xch_flag ..⟩

/-- The exchange x with the master's time, its request queued (R357). -/
def followed (n : Nat) (x : Exch) (m : TimeIn) (s : State) : State :=
  ((named m s).modTmu fun t => { t with xch := some { x with t1 := some (msgTime m) } }).modLane n fun l =>
    { l with txTime := l.txTime ++ [.time 3 x.seq 0] }

def followAct (n : Nat) (m : TimeIn) (s : State) : State :=
  match s.tmu.xch with
  | some x => if isSource n s ∧ x.seq = msgSeq m then trySend n (followed n x m s) else s
  | none => s

theorem trySend_gm (n : Nat) (s : State) : (trySend n s).rd TMU.GM_SERIAL = s.rd TMU.GM_SERIAL := by
  refine frq (f := trySend n) (trySend_fr n s (fr_refl s) (fun u => ?_) ?_ (fun u => ?_) (fun u => ?_) (fun u => ?_) (fun u => ?_))
  all_goals
    simp only [LNK.MESH_RESP, TMU.EVFLAGS, TMU.LANE_FLAGS, TMU.TXTS_LOST, TMU.TXTS_MADE, TMU.TXTS_READ, TMU.GM_SERIAL]
    omega

theorem follow_gives {m : TimeIn} {x : Exch} (hn : n < 48) (free : (s.tgtOf 0).held = false)
    (first : (s.laneTimeOf n).inbox.find? (fun m => Nat.beq (Dict.bitsOf m.msg 23 16) 2) = some m) (source : isSource n s = true)
    (xch : s.tmu.xch = some x) (seq : x.seq = msgSeq m) : Gives (.follow n) s fun t =>
      t.rd TMU.GM_SERIAL = Dict.bitsOf m.msg 127 64 ∧ (t.laneTimeOf n).inbox = (s.laneTimeOf n).inbox.erase m ∧
      ∃ y, t.tmu.xch = some y ∧ y.seq = x.seq ∧ y.t2 = x.t2 ∧ y.t1 = some (msgTime m) := by
  refine helper_gives (act := followAct n) hn rfl free first fun u hu => ?_
  rw [followAct, hu.xch, xch]
  dsimp only
  rw [if_pos ⟨hu.source.trans source, seq⟩]
  obtain ⟨gm, tmu⟩ := named_facts (s := u) m
  obtain ⟨-, -, keeps, -, inbox⟩ := P3_of (try_P3 n n (followed n x m u))
  refine ⟨(trySend_gm ..).trans gm, inbox.trans (Eq.trans ?_ hu.inbox), ?_⟩
  · change ((named m u).laneTimeOf n).inbox = _
    rw [State.laneTimeOf, tmu]
    rfl
  · obtain ⟨z, some, hseq, ht2, ht1⟩ := X3_some (y := { x with t1 := some (msgTime m) }) keeps
    exact ⟨z, some, hseq, ht2, ht1⟩

/-- The answer to a request of the follower on lane n queued (R358). -/
def answered (n : Nat) (m : TimeIn) (s : State) : State := s.modLane n fun l => { l with txTime := l.txTime ++ [.time 4 (msgSeq m) m.stamp] }

def dreqAct (n : Nat) (m : TimeIn) (s : State) : State :=
  if serving s ∧ s.bit TMU.SERVE n = true then trySend n (answered n m s) else s

theorem dreq_gives {m : TimeIn} (hn : n < 48) (free : (s.tgtOf 0).held = false)
    (first : (s.laneTimeOf n).inbox.find? (fun m => Nat.beq (Dict.bitsOf m.msg 23 16) 3) = some m) (serves : serving s = true)
    (on : s.bit TMU.SERVE n = true) : Gives (.dreq n) s fun t => (t.laneTimeOf n).inbox = (s.laneTimeOf n).inbox.erase m ∧
      ((s.laneOf n).txTime = [] → creditFor n (.time 4 (msgSeq m) m.stamp) s = false → (t.laneOf n).txTime = [.time 4 (msgSeq m) m.stamp]) := by
  refine helper_gives (act := dreqAct n) hn rfl free first fun u hu => ?_
  rw [dreqAct, if_pos ⟨hu.serving.trans serves, (bit_of_rd (hu.rd _)).trans on⟩]
  obtain ⟨-, -, -, -, inbox⟩ := P3_of (try_P3 n n (answered n m u))
  have lane : (answered n m u).laneOf n = { s.laneOf n with txTime := (s.laneOf n).txTime ++ [.time 4 (msgSeq m) m.stamp] } := by
    rw [answered, laneOf_modLane, lane_of hu.lanes]
  refine ⟨inbox.trans hu.inbox, fun empty none => try_no rfl (by rw [lane, empty]; rfl) ?_⟩
  rw [← none]
  unfold creditFor
  rw [lane]

/-- The offset and the delay of a whole exchange recorded (R359). -/
def measured (t1 t2 t3 t4 : Nat) (theta : Int) (s : State) : State :=
  (((s.bump 64 TMU.EXCHANGES).wr TMU.OFFSET (ofSigned 64 theta)).wr TMU.DELAY (ofSigned 64 (delayOf t1 t2 t3 t4))).modTmu fun t =>
    { t with xch := none, lastAt := (((s.bump 64 TMU.EXCHANGES).wr TMU.OFFSET (ofSigned 64 theta)).wr TMU.DELAY
      (ofSigned 64 (delayOf t1 t2 t3 t4))).now, done := true }

/-- The offset that an exchange of lane n gives (R359). -/
def offsetAt (n t1 t2 t3 : Nat) (m : TimeIn) (s : State) : Int :=
  offsetOf t1 t2 t3 (msgTime m) (Int.tdiv (toSigned 32 (s.rd (TMU.ASYM n)) * unitsPerNs) 1000)

def drespAct (n : Nat) (m : TimeIn) (s : State) : State :=
  match s.tmu.xch with
  | some ⟨seq, t2, some t1, some t3⟩ =>
    if isSource n s ∧ seq = msgSeq m then
      servo (offsetAt n t1 t2 t3 m s) (measured t1 t2 t3 (msgTime m) (offsetAt n t1 t2 t3 m s) s)
    else s
  | _ => s

theorem measured_facts (t1 t2 t3 t4 : Nat) (theta : Int) :
    (measured t1 t2 t3 t4 theta s).rd TMU.EXCHANGES = min (s.rd TMU.EXCHANGES + 1) (2 ^ 64 - 1) ∧
    (measured t1 t2 t3 t4 theta s).rd TMU.OFFSET = ofSigned 64 theta ∧
    (measured t1 t2 t3 t4 theta s).rd TMU.DELAY = ofSigned 64 (delayOf t1 t2 t3 t4) ∧
    (measured t1 t2 t3 t4 theta s).tmu.xch = none := by
  unfold measured
  rw [rd_modTmu, rd_modTmu, rd_modTmu, rd_wr_other _ (by decide), rd_wr_other _ (by decide), bump_eq, rd_wr_other _ (by decide), rd_wr_same, rd_wr_same]
  exact ⟨rfl, rfl, rfl, rfl⟩

theorem servo_incr {theta : Int} (near : theta.natAbs ≤ 100 * unitsPerNs) :
    0xFFBE76C9 ≤ (servo theta s).rd TMU.INCR ∧ (servo theta s).rd TMU.INCR ≤ 0x100418937 := by
  unfold servo
  rw [if_neg (Nat.not_lt.2 near), lock_rd (by decide) (by decide) (by decide)]
  exact incr_bound ..

theorem dresp_gives {m : TimeIn} {t2 t1 t3 : Nat} (hn : n < 48) (free : (s.tgtOf 0).held = false)
    (first : (s.laneTimeOf n).inbox.find? (fun m => Nat.beq (Dict.bitsOf m.msg 23 16) 4) = some m) (source : isSource n s = true)
    (xch : s.tmu.xch = some ⟨msgSeq m, t2, some t1, some t3⟩) : Gives (.dresp n) s fun t =>
      t.rd TMU.EXCHANGES = min (s.rd TMU.EXCHANGES + 1) (2 ^ 64 - 1) ∧ t.rd TMU.OFFSET = ofSigned 64 (offsetAt n t1 t2 t3 m s) ∧
      t.rd TMU.DELAY = ofSigned 64 (delayOf t1 t2 t3 (msgTime m)) ∧ t.tmu.xch = none ∧
      ((offsetAt n t1 t2 t3 m s).natAbs ≤ 100 * unitsPerNs → 0xFFBE76C9 ≤ t.rd TMU.INCR ∧ t.rd TMU.INCR ≤ 0x100418937) := by
  refine helper_gives (act := drespAct n) hn rfl free first fun u hu => ?_
  have theta : offsetAt n t1 t2 t3 m u = offsetAt n t1 t2 t3 m s := by
    unfold offsetAt
    rw [hu.rd]
  rw [drespAct, hu.xch, xch]
  dsimp only
  rw [if_pos ⟨hu.source.trans source, rfl⟩, theta]
  obtain ⟨count, offset, delay, none⟩ := measured_facts (s := u) t1 t2 t3 (msgTime m) (offsetAt n t1 t2 t3 m s)
  refine ⟨?_, ?_, ?_, (servo_xch ..).trans none, servo_incr⟩
  · rw [servo_rd (by decide), count, hu.rd]
  · rw [servo_rd (by decide), offset]
  · rw [servo_rd (by decide), delay]

/-! The timeout (R360). -/

theorem validFall_incr : (validFall s).rd TMU.INCR = s.rd TMU.INCR := by
  refine frq (f := validFall) (validFall_fr s (fr_refl s) (fun u => ?_) ?_ ?_ ?_ (fun u => ?_) ?_ ?_ (fun u => ?_) (fun u => ?_) (fun u => ?_))
  all_goals
    simp only [DSP.STATE, HDI.APPLY_OUTCOME, HDI.MIRROR_STATE, HDI.STATUS, TMU.AP_STATE, TMU.EVFLAGS, TMU.STATUS, TMU.TRG_STATE, VEN.FLAGS,
      VEN.STATE, TMU.INCR]
    omega

theorem holdover_facts (role : s.rd TMU.ROLE = 2) (valid : timeValid s = true) : timeValid (holdover s) = false ∧
    (holdover s).bit TMU.STATUS 1 = true ∧ (holdover s).bit TMU.EVFLAGS 12 = true ∧ (holdover s).rd TMU.INCR = s.rd TMU.INCR := by
  unfold holdover
  rw [if_pos ⟨role, valid⟩]
  refine ⟨?_, ?_, (bit_of_rd (rd_modTmu ..)).trans (bit_flag ..), ?_⟩
  · rw [valid_of (s := validFall s) (by rw [rd_modTmu, tmuFlag_rd (by decide), rd_setBit_other _ (by decide)])]
    exact fall_valid s
  · rw [bit_of_rd (s := (validFall s).setBit TMU.STATUS 1 true) (by rw [rd_modTmu, tmuFlag_rd (by decide)])]
    exact bit_setBit_true ..
  · rw [rd_modTmu, tmuFlag_rd (by decide), rd_setBit_other _ (by decide), validFall_incr]

theorem exchangeTimeout_gives (role : s.rd TMU.ROLE = 2) (valid : timeValid s = true) : Gives .exchangeTimeout s fun t =>
    timeValid t = false ∧ t.bit TMU.STATUS 1 = true ∧ t.bit TMU.EVFLAGS 12 = true ∧ t.rd TMU.INCR = s.rd TMU.INCR :=
  ⟨_, congrArg Host.Outcome.next (if_pos ⟨role, valid⟩),
    holdover_facts (s := s.upto (s.tmu.lastAt + 4 * s.rd TMU.INTERVAL * ticksPerUs)) role valid⟩

/-- Settles O42: each message by what the helper does with it, the frame of what lanes send for the rest. -/
theorem timeExchangeCompletes : Obligations.TimeExchangeCompletes := by
  refine fun n s hn => ⟨exchangeStart_gives, fun m => timeMessage_host hn, fun m => timeMessage_inbox hn, fun m type free first => ?_,
    exchangeTimeout_gives⟩
  refine ⟨?_, ?_, ?_, ?_⟩
  · rintro rfl
    exact sync_gives hn free first
  · rintro x rfl
    exact follow_gives hn free first
  · rintro rfl
    exact dreq_gives hn free first
  · rintro t2 t1 t3 rfl
    exact dresp_gives hn free first
end Sys2Proof.Proofs.TimeExchange
end

section
/-! Apertures, triggers, captures and the start schedule (13_time_unit.md R350, R362 to R365). -/
namespace Sys2Proof.Proofs.TimedUnit
open Sys2Proof.Machine Sys2Proof.Laws Common CompleteTmu TimeFacts

variable {q : Req} {n : Nat} {s : State}

/-! Apertures (R362). -/

theorem arm_gives (hn : n < 16) (h : Writes q (TMU.AP_CTRL n) 1 1 s) (hc : ∀ c ∈ apArmConds n s, c.1 = false) (idle : apArmed n s = false) :
    Gives (.apertureArm q n) s fun t => Answered q 0 t ∧ t.rd (TMU.AP_STATE n) = 1 := by
  refine givesCmd rfl hn h hc fun t like => ?_
  rw [like_k like (by simp only [TMU.AP_STATE]; omega), apArmEff, if_neg (ne_true_of_eq_false idle), setApK_rd, rd_wr_same]

theorem disarm_gives (hn : n < 16) (h : Writes q (TMU.AP_CTRL n) 1 2 s) :
    Gives (.apertureDisarm q n) s fun t => Answered q 0 t ∧ t.rd (TMU.AP_STATE n) = 0 := by
  refine givesCmd rfl hn h noC fun t like => ?_
  rw [like_k like (by simp only [TMU.AP_STATE]; omega), apDisarmEff, rd_wr_same]

/-- The aperture open, counted and flagged (R362). -/
def opened (n : Nat) (s : State) : State := tmuFlag 11 ((s.wr (TMU.AP_STATE n) 2).bump 64 (TMU.AP_OPENS n))

theorem opened_facts : (opened n s).rd (TMU.AP_STATE n) = 2 ∧ (opened n s).rd (TMU.AP_OPENS n) = min (s.rd (TMU.AP_OPENS n) + 1) (2 ^ 64 - 1) ∧
    (opened n s).bit TMU.EVFLAGS 11 = true ∧ (opened n s).now = s.now := by
  unfold opened
  refine ⟨?_, ?_, bit_flag .., tmuFlag_now ..⟩
  · rw [tmuFlag_rd (by simp only [TMU.AP_STATE, TMU.EVFLAGS]; omega), bump_ne (by simp), rd_wr_same]
  · rw [tmuFlag_rd (by simp only [TMU.AP_OPENS, TMU.EVFLAGS]; omega), bump_eq, rd_wr_other _ (by simp)]

theorem open_gives (hn : n < 16) (armed : apState n s = 1) :
    let e := edgeOfTime s s.now (apOpenAt n (apK n s) s)
    netAt s e < apCloseAt n (apK n s) s → Gives (.apertureOpen n) s fun t => t.rd (TMU.AP_STATE n) = 2 ∧
      t.rd (TMU.AP_OPENS n) = min (s.rd (TMU.AP_OPENS n) + 1) (2 ^ 64 - 1) ∧ t.bit TMU.EVFLAGS 11 = true ∧ t.now = max s.now e := by
  intro e early
  refine ⟨aperturePulses n (opened n (s.upto e)), (unitNext hn).trans (congrArg _ ((if_pos armed).trans (if_pos early))), ?_⟩
  obtain ⟨state, opens, flag, now⟩ := opened_facts (n := n) (s := s.upto e)
  refine ⟨?_, ?_, ?_, ?_⟩
  · rw [pulses_rd fun u _ => by simp only [TMU.AP_STATE, TMU.TRG_FIRED]; omega, state]
  · rw [pulses_rd fun u _ => by simp only [TMU.AP_OPENS, TMU.TRG_FIRED]; omega, opens, rd_upto]
  · rw [bit_of_rd (pulses_rd fun u _ => by simp only [TMU.EVFLAGS, TMU.TRG_FIRED]; omega), flag]
  · rw [pulses_now, now]
    rfl

/-- The aperture closed, for good or until its next period (R362). -/
def closed (n k e : Nat) (s : State) : State :=
  if s.rd (TMU.AP_PERIOD n) = 0 then s.wr (TMU.AP_STATE n) 3 else setApK n (apNext n k (netAt s e) s) (s.wr (TMU.AP_STATE n) 1)

theorem close_gives (hn : n < 16) (is : apState n s = 2) : Gives (.apertureClose n) s fun t =>
    t.rd (TMU.AP_STATE n) = (if s.rd (TMU.AP_PERIOD n) = 0 then 3 else 1) ∧
    t.now = max s.now (edgeOfTime s s.now (apCloseAt n (apK n s) s)) := by
  have next : exec (.apertureClose n) s = .next (closed n (apK n s) (edgeOfTime s s.now (apCloseAt n (apK n s) s))
      (s.upto (edgeOfTime s s.now (apCloseAt n (apK n s) s)))) := (unitNext hn).trans (congrArg _ (if_pos is))
  refine ⟨_, next, ?_⟩
  unfold closed
  rw [rd_upto]
  split
  · exact ⟨rd_wr_same .., rfl⟩
  · exact ⟨(setApK_rd ..).trans (rd_wr_same ..), rfl⟩

/-! Triggers (R363). -/

/-- A trigger armed in an open aperture fires at once (R363). -/
def firedIn (n : Nat) (s : State) : State :=
  if trgInAperture n s && s.rd (TMU.TRG_STATE n) != 1 then s.bump 64 (TMU.TRG_FIRED n) else s

theorem firedIn_fired : (firedIn n s).rd (TMU.TRG_FIRED n) = if trgInAperture n s = true ∧ s.rd (TMU.TRG_STATE n) ≠ 1
    then min (s.rd (TMU.TRG_FIRED n) + 1) (2 ^ 64 - 1) else s.rd (TMU.TRG_FIRED n) := by
  have cond : (trgInAperture n s && s.rd (TMU.TRG_STATE n) != 1) = true ↔ trgInAperture n s = true ∧ s.rd (TMU.TRG_STATE n) ≠ 1 := by simp
  unfold firedIn
  by_cases h : trgInAperture n s = true ∧ s.rd (TMU.TRG_STATE n) ≠ 1
  · rw [if_pos (cond.2 h), if_pos h, bump_eq]
  · rw [if_neg (mt cond.1 h), if_neg h]

theorem trgArmEff_facts : (trgArmEff n s).rd (TMU.TRG_STATE n) = 1 ∧ ((trgArmEff n s).trgOf n).k = 0 ∧
    (trgArmEff n s).rd (TMU.TRG_FIRED n) = (firedIn n s).rd (TMU.TRG_FIRED n) := by
  change (((firedIn n s).wr (TMU.TRG_STATE n) 1).modTrg n fun _ => {}).rd _ = 1 ∧ _ ∧ (((firedIn n s).wr (TMU.TRG_STATE n) 1).modTrg n fun _ => {}).rd _ = _
  rw [rd_modTrg, rd_modTrg, rd_wr_same, rd_wr_other _ (by simp)]
  exact ⟨rfl, congrArg TrgS.k (trgOf_modTrg ..), rfl⟩

theorem trgArm_gives (hn : n < 16) (h : Writes q (TMU.TRG_CTRL n) 1 1 s) (hc : ∀ c ∈ trgArmConds n s, c.1 = false) :
    Gives (.triggerArm q n) s fun t => Answered q 0 t ∧ t.rd (TMU.TRG_STATE n) = 1 ∧ (t.trgOf n).k = 0 ∧
      t.rd (TMU.TRG_FIRED n) = if trgInAperture n s = true ∧ s.rd (TMU.TRG_STATE n) ≠ 1
        then min (s.rd (TMU.TRG_FIRED n) + 1) (2 ^ 64 - 1) else s.rd (TMU.TRG_FIRED n) := by
  refine givesCmd rfl hn h hc fun t like => ?_
  obtain ⟨state, k, fired⟩ := trgArmEff_facts (n := n) (s := s)
  rw [like_k like (by simp only [TMU.TRG_STATE]; omega), like_k like (by simp only [TMU.TRG_FIRED]; omega), trg_of like.tmu]
  exact ⟨state, k, fired.trans firedIn_fired⟩

theorem trgDisarm_gives (hn : n < 16) (h : Writes q (TMU.TRG_CTRL n) 1 2 s) : Gives (.triggerDisarm q n) s fun t =>
    Answered q 0 t ∧ t.rd (TMU.TRG_STATE n) = 0 ∧ (t.trgOf n).high = none := by
  refine givesCmd rfl hn h noC fun t like => ?_
  rw [like_k like (by simp only [TMU.TRG_STATE]; omega), trg_of like.tmu, trgDisarmEff, rd_modTrg, rd_wr_same, trgOf_modTrg]
  exact ⟨rfl, rfl⟩

/-- The last pulse of a trigger leaves it done (R363). -/
def lastPulse (n : Nat) (done : Prop) [Decidable done] (f : TrgS → TrgS) (s : State) : State :=
  (if done then s.wr (TMU.TRG_STATE n) 2 else s).modTrg n f

theorem lastPulse_facts {done : Prop} [Decidable done] {f : TrgS → TrgS} (armed : s.rd (TMU.TRG_STATE n) = 1) :
    (lastPulse n done f s).rd (TMU.TRG_STATE n) = (if done then 2 else 1) ∧ (lastPulse n done f s).trgOf n = f (s.trgOf n) ∧
    ∀ j, j ≠ TMU.TRG_STATE n → (lastPulse n done f s).rd j = s.rd j := by
  unfold lastPulse
  rw [rd_modTrg, trgOf_modTrg]
  split
  · exact ⟨rd_wr_same .., congrArg f (trgOf_wr ..), fun j h => (rd_modTrg ..).trans (rd_wr_other _ h _)⟩
  · exact ⟨armed, rfl, fun j _ => rd_modTrg ..⟩

/-- A pulse that a step carried the time past (R350). -/
def missed (n e : Nat) (s : State) : State := tmuFlag 7 ((s.upto e).bump 64 (TMU.TRG_MISSED n))

theorem missed_facts (e : Nat) : (missed n e s).rd (TMU.TRG_MISSED n) = min (s.rd (TMU.TRG_MISSED n) + 1) (2 ^ 64 - 1) ∧
    (missed n e s).trgOf n = s.trgOf n ∧ (missed n e s).rd (TMU.TRG_STATE n) = s.rd (TMU.TRG_STATE n) ∧
    (missed n e s).rd (TMU.TRG_FIRED n) = s.rd (TMU.TRG_FIRED n) := by
  unfold missed
  rw [tmuFlag_rd (by simp only [TMU.TRG_MISSED, TMU.EVFLAGS]; omega), tmuFlag_rd (by simp only [TMU.TRG_STATE, TMU.EVFLAGS]; omega),
    tmuFlag_rd (by simp only [TMU.TRG_FIRED, TMU.EVFLAGS]; omega), bump_eq, bump_ne (by simp), bump_ne (by simp), trg_of (tmu_xch_flag ..)]
  exact ⟨rfl, rfl, rfl, rfl⟩

/-- The time of pulse k of a trigger (R363). -/
def pulseTime (n : Nat) (s : State) : Nat := ofTime128 (s.rd (TMU.TRG_AT n)) + (s.trgOf n).k * s.rd (TMU.TRG_PERIOD n) * unitsPerTick

/-- The pulse at its instant, counted. -/
def counted (n : Nat) (s : State) : State := (s.upto (instantOf (pulseTime n s) s)).bump 64 (TMU.TRG_FIRED n)

/-- Is the pulse the last of its trigger? -/
abbrev IsLast (n : Nat) (s : State) : Prop := s.rd (TMU.TRG_COUNT n) = (s.trgOf n).k + 1

theorem execTriggerPulse_of (hn : n < 16) (armed : s.rd (TMU.TRG_STATE n) = 1) (timed : Dict.bitsOf (s.rd (TMU.TRG_CFG n)) 2 1 = 0) :
    exec (.triggerPulse n) s = .next (if steppedOver s (edgeOfTime s s.now (pulseTime n s)) (pulseTime n s) then
      lastPulse n (IsLast n s) (fun x => { x with k := (s.trgOf n).k + 1 }) (missed n (edgeOfTime s s.now (pulseTime n s)) s)
    else
      lastPulse n (IsLast n s) (fun _ => ⟨(s.trgOf n).k + 1, some (instantOf (pulseTime n s) s + (counted n s).rd (TMU.TRG_WIDTH n))⟩)
        (counted n s)) :=
  (unitNext hn).trans (congrArg _ (if_pos ⟨armed, timed⟩))

theorem pulse_gives (hn : n < 16) (armed : s.rd (TMU.TRG_STATE n) = 1) (timed : Dict.bitsOf (s.rd (TMU.TRG_CFG n)) 2 1 = 0) :
    let past := steppedOver s (edgeOfTime s s.now (pulseTime n s)) (pulseTime n s)
    Gives (.triggerPulse n) s fun t => (t.trgOf n).k = (s.trgOf n).k + 1 ∧
      t.rd (TMU.TRG_STATE n) = (if s.rd (TMU.TRG_COUNT n) = (s.trgOf n).k + 1 then 2 else 1) ∧
      t.rd (TMU.TRG_FIRED n) = (if past then s.rd (TMU.TRG_FIRED n) else min (s.rd (TMU.TRG_FIRED n) + 1) (2 ^ 64 - 1)) ∧
      t.rd (TMU.TRG_MISSED n) = (if past then min (s.rd (TMU.TRG_MISSED n) + 1) (2 ^ 64 - 1) else s.rd (TMU.TRG_MISSED n)) ∧
      (past = false → (t.trgOf n).high = some (instantOf (pulseTime n s) s + s.rd (TMU.TRG_WIDTH n))) := by
  intro past
  refine ⟨_, execTriggerPulse_of hn armed timed, ?_⟩
  by_cases over' : past = true
  · rw [if_pos over', if_pos over', if_pos over']
    obtain ⟨miss, trg, state, fired⟩ := missed_facts (n := n) (s := s) (edgeOfTime s s.now (pulseTime n s))
    obtain ⟨state', trg', other⟩ := lastPulse_facts (done := IsLast n s) (f := fun x => { x with k := (s.trgOf n).k + 1 })
      (state.trans armed)
    exact ⟨congrArg TrgS.k trg', state', (other _ (by simp)).trans fired, (other _ (by simp)).trans miss,
      fun h => absurd over' (ne_true_of_eq_false h)⟩
  · rw [if_neg over', if_neg over', if_neg over']
    obtain ⟨state', trg', other⟩ := lastPulse_facts (n := n) (s := counted n s)
      (done := IsLast n s) (f := fun _ => (⟨(s.trgOf n).k + 1, some (instantOf (pulseTime n s) s + (counted n s).rd (TMU.TRG_WIDTH n))⟩ : TrgS)) ((bump_ne (by simp)).trans armed)
    exact ⟨congrArg TrgS.k trg', state', (other _ (by simp)).trans (bump_eq ..), (other _ (by simp)).trans (bump_ne (by simp)),
      fun _ => (congrArg TrgS.high trg').trans (by rw [counted, bump_ne (by simp), rd_upto])⟩

/-! Captures (R364). -/

/-- The input of a capture at its new level. -/
def seen (n : Nat) (rising : Bool) (s : State) : State := setTrgi n rising (s.modCap n fun c => { c with last := some s.now })

theorem seen_facts (rising : Bool) : (seen n rising s).pins.trgi.testBit n = rising ∧ ((seen n rising s).capOf n).q = (s.capOf n).q ∧
    ∀ k, (seen n rising s).rd k = s.rd k := by
  unfold seen
  refine ⟨pin_bit .., ?_, fun k => ?_⟩
  · have kept : ((s.modCap n fun c => { c with last := some s.now }).capOf n).q = (s.capOf n).q := by rw [capOf_modCap]
    exact kept
  · exact rd_modCap (s := s) n (fun c => { c with last := some s.now }) k

theorem execCaptureEdge_of {rising : Bool} (hn : n < 16) (on : (s.rd (TMU.CAP_CFG n)).testBit (if rising then 0 else 1) = true)
    (free : (s.rd (TMU.CAP_CFG n)).testBit 2 = false) (apart : ∀ l, (s.capOf n).last = some l → l + 2 * ticksPerNs ≤ s.now) :
    exec (.captureEdge n rising) s = .next (takeCapture n (stampAt s s.now) rising (seen n rising s)) := by
  have clear : closeEdge n s = false := by
    unfold closeEdge
    split
    next l last => exact CompleteDsp.nble (Nat.lt_succ_of_le (apart l last))
    · rfl
  refine (unitNext hn).trans (congrArg _ ?_)
  dsimp only
  rw [clear, on, free]
  rfl

theorem capTaken_ne_flags : TMU.CAP_TAKEN n ≠ TMU.EVFLAGS := by
  simp only [TMU.CAP_TAKEN, TMU.EVFLAGS]
  omega
theorem capLost_ne_flags : TMU.CAP_LOST n ≠ TMU.EVFLAGS := by
  simp only [TMU.CAP_LOST, TMU.EVFLAGS]
  omega

theorem takeCapture_facts (stamp : Nat) (rising : Bool) : (takeCapture n stamp rising s).pins = s.pins ∧
    (takeCapture n stamp rising s).rd (TMU.CAP_TAKEN n) = min (s.rd (TMU.CAP_TAKEN n) + 1) (2 ^ 64 - 1) ∧
    (if (s.capOf n).q.length < 16 then ((takeCapture n stamp rising s).capOf n).q = (s.capOf n).q ++ [(stamp, !rising)]
      else ((takeCapture n stamp rising s).capOf n).q = (s.capOf n).q ∧
        (takeCapture n stamp rising s).rd (TMU.CAP_LOST n) = min (s.rd (TMU.CAP_LOST n) + 1) (2 ^ 64 - 1)) := by
  unfold takeCapture
  extract_lets u first w
  have cap : u.capOf n = s.capOf n := capOf_bump ..
  have taken : u.rd (TMU.CAP_TAKEN n) = min (s.rd (TMU.CAP_TAKEN n) + 1) (2 ^ 64 - 1) := bump_eq ..
  have lost : u.rd (TMU.CAP_LOST n) = s.rd (TMU.CAP_LOST n) := bump_ne (by simp)
  have pins : u.pins = s.pins := rfl
  have grown : w.capOf n = { s.capOf n with q := (s.capOf n).q ++ [(stamp, !rising)] } := (capOf_modCap ..).trans (by rw [cap])
  have wpins : w.pins = s.pins := rfl
  have wtaken : w.rd (TMU.CAP_TAKEN n) = min (s.rd (TMU.CAP_TAKEN n) + 1) (2 ^ 64 - 1) := (rd_modCap ..).trans taken
  clear_value u w
  by_cases room : (s.capOf n).q.length < 16
  · rw [if_pos room, if_neg (by rw [cap]; omega)]
    split
    · rw [tmuFlag_rd capTaken_ne_flags, cap_of (tmu_xch_flag ..), grown]
      exact ⟨(flag_pins ..).trans wpins, wtaken, rfl⟩
    · rw [grown]
      exact ⟨wpins, wtaken, rfl⟩
  · rw [if_neg room, if_pos (by rw [cap]; omega), tmuFlag_rd capTaken_ne_flags, tmuFlag_rd capLost_ne_flags,
      bump_ne (by simp), bump_eq, lost, cap_of (tmu_xch_flag ..), capOf_bump, cap]
    exact ⟨(flag_pins ..).trans ((bump_pins ..).trans pins), taken, rfl, rfl⟩

theorem capture_gives {rising : Bool} (hn : n < 16) (on : (s.rd (TMU.CAP_CFG n)).testBit (if rising then 0 else 1) = true)
    (free : (s.rd (TMU.CAP_CFG n)).testBit 2 = false) (apart : ∀ l, (s.capOf n).last = some l → l + 2 * ticksPerNs ≤ s.now) :
    Gives (.captureEdge n rising) s fun t => t.pins.trgi.testBit n = rising ∧
      t.rd (TMU.CAP_TAKEN n) = min (s.rd (TMU.CAP_TAKEN n) + 1) (2 ^ 64 - 1) ∧
      (if (s.capOf n).q.length < 16 then (t.capOf n).q = (s.capOf n).q ++ [(stampAt s s.now, !rising)]
        else (t.capOf n).q = (s.capOf n).q ∧ t.rd (TMU.CAP_LOST n) = min (s.rd (TMU.CAP_LOST n) + 1) (2 ^ 64 - 1)) := by
  refine ⟨_, execCaptureEdge_of hn on free apart, ?_⟩
  obtain ⟨level, q, rd⟩ := seen_facts (n := n) (s := s) rising
  obtain ⟨pins, taken, entry⟩ := takeCapture_facts (n := n) (s := seen n rising s) (stampAt s s.now) rising
  rw [q, rd] at entry
  exact ⟨by rw [pins, level], by rw [taken, rd], entry⟩

theorem capPop_gives {e : Nat × Bool} {rest : List (Nat × Bool)} (hn : n < 16) (hq : q.master ≠ 9) (h : Takes q (TMU.CAP_POP n) 24 s)
    (first : (s.capOf n).q = e :: rest) : Gives (.capPop q n) s fun t =>
      AnsweredWith q 24 (toTime128 e.1 + (if e.2 then 2 ^ 128 else 0)) t ∧ (t.capOf n).q = rest := by
  have data : capData n s = toTime128 e.1 + (if e.2 then 2 ^ 128 else 0) := by rw [capData, first]
  rw [← data]
  refine CompleteFcp.givesRd rfl hn h hq (by simp [capConds, first]) fun t like => ?_
  rw [cap_of like.tmu, capEff, capOf_modCap, first]
  rfl

/-! The start schedule (R365). -/

/-- The engines whose start a list of entries sets. -/
theorem starts_keep (e : Nat) : ∀ (l : List Sched) (s : State), (l.foldl (fun s y => schedStart e y s) s).now = s.now ∧
    (l.foldl (fun s y => schedStart e y s) s).sched = s.sched
  | [], _ => ⟨rfl, rfl⟩
  | x :: l, s => by
    obtain ⟨now, sched⟩ := starts_keep e l (schedStart e x s)
    have one : (schedStart e x s).now = s.now ∧ (schedStart e x s).sched = s.sched := by
      unfold schedStart
      split <;> exact ⟨rfl, rfl⟩
    exact ⟨now.trans one.1, sched.trans one.2⟩

/-- The engine of entry y starts at e. -/
def Starts (e : Nat) (y : Sched) (s : State) : Prop := if y.dsp then (s.dspOf y.n).start = some e else (s.veOf y.n).start = some e

theorem schedStart_of_dsp {e : Nat} {x : Sched} (h : x.dsp = true) : schedStart e x s = s.modDsp x.n fun d => { d with start := some e } := if_pos h

theorem schedStart_of_ve {e : Nat} {x : Sched} (h : x.dsp = false) :
    schedStart e x s = s.modVe x.n fun v => { v with start := some e, late := steppedOver s e x.time } := if_neg (ne_true_of_eq_false h)

theorem schedStart_starts (e : Nat) (y : Sched) (s : State) : Starts e y (schedStart e y s) := by
  unfold Starts
  cases h : y.dsp
  · rw [schedStart_of_ve h, if_neg Bool.false_ne_true, veOf_modVe]
  · rw [schedStart_of_dsp h, if_pos rfl, dspOf_modDsp]

/-- A later entry of the same engine starts it at the same edge, one of another engine leaves it alone. -/
theorem schedStart_keeps {e : Nat} {y : Sched} (x : Sched) (h : Starts e y s) : Starts e y (schedStart e x s) := by
  unfold Starts at *
  cases dsp : y.dsp <;> rw [dsp] at h <;> cases dsp' : x.dsp
  · rw [schedStart_of_ve dsp']
    by_cases same : y.n = x.n
    · rw [same, if_neg Bool.false_ne_true, veOf_modVe]
    · rwa [veOf_modVe_other _ same]
  · rw [schedStart_of_dsp dsp']
    exact h
  · rw [schedStart_of_ve dsp']
    exact h
  · rw [schedStart_of_dsp dsp']
    by_cases same : y.n = x.n
    · rw [same, if_pos rfl, dspOf_modDsp]
    · rwa [dspOf_modDsp_other _ same]

theorem starts_kept {e : Nat} {y : Sched} : ∀ (l : List Sched) (s : State), Starts e y s → Starts e y (l.foldl (fun s y => schedStart e y s) s)
  | [], _, h => h
  | x :: l, _, h => starts_kept l _ (schedStart_keeps x h)

theorem starts_all {e : Nat} {y : Sched} : ∀ (l : List Sched) (s : State), y ∈ l → Starts e y (l.foldl (fun s y => schedStart e y s) s)
  | [], _, h => absurd h List.not_mem_nil
  | x :: l, s, h => by
    by_cases here : y = x
    · subst here
      exact starts_kept l _ (schedStart_starts e y s)
    · exact starts_all l (schedStart e x s) ((List.mem_cons.1 h).resolve_left here)

/-- The earliest time of a schedule. -/
def earliest (x : Sched) (rest : List Sched) : Nat := rest.foldl (fun m y => min m y.time) x.time

/-- The schedule fires at edge e. -/
def fired (e : Nat) (s : State) : State :=
  (s.sched.filter fun y : Sched => Nat.ble y.time (netAt s e)).foldl (fun s y => schedStart e y s)
    { s with sched := s.sched.filter fun y => !(Nat.ble y.time (netAt s e)) }

theorem execScheduleFire_of {x : Sched} {rest : List Sched} (first : s.sched = x :: rest) : exec .scheduleFire s =
    .next (fired (edgeOfTime s s.now (earliest x rest)) (s.upto (edgeOfTime s s.now (earliest x rest)))) := by
  change execScheduleFire s = _
  unfold execScheduleFire
  rw [first]
  rfl

theorem fire_gives {x : Sched} {rest : List Sched} (first : s.sched = x :: rest) :
    let e := edgeOfTime s s.now (rest.foldl (fun m y => min m y.time) x.time)
    Gives .scheduleFire s fun t => t.now = max s.now e ∧ t.sched = s.sched.filter (fun y => !(Nat.ble y.time (netAt s e))) ∧
      ∀ y ∈ s.sched, y.time ≤ netAt s e → if y.dsp then (t.dspOf y.n).start = some e else (t.veOf y.n).start = some e := by
  intro e
  obtain ⟨now, sched⟩ := starts_keep e (s.sched.filter fun y : Sched => Nat.ble y.time (netAt s e))
    { s.upto e with sched := s.sched.filter fun y => !(Nat.ble y.time (netAt s e)) }
  exact ⟨_, execScheduleFire_of first, now, sched, fun y mem due =>
    starts_all _ _ (List.mem_filter.2 ⟨mem, Nat.ble_eq_true_of_le due⟩)⟩

/-- Settles O43: each unit of time by what its instant does. -/
theorem timedUnitsComplete : Obligations.TimedUnitsComplete := fun _ _ _ hn =>
  ⟨arm_gives hn, disarm_gives hn, open_gives hn, close_gives hn, trgArm_gives hn, trgDisarm_gives hn, pulse_gives hn,
    fun _ => capture_gives hn, fun _ _ => capPop_gives hn, fun _ _ => fire_gives⟩
end Sys2Proof.Proofs.TimedUnit
end

section
/-! CLKOUT, the frequency meter, the sensors and the sensed levels of the GIO banks (15_clocks_reset.md R397 to R399, R408, R409;
22_pins_package.md R529). -/
namespace Sys2Proof.Proofs.ClockSensor
open Sys2Proof.Machine Sys2Proof.Laws Common CompleteCrh ClockFacts CompleteFocus

variable {q : Req} {v n b r g i k t0 level : Nat} {s t : State}

theorem crhFlag_bit : (crhFlag b s).bit CRH.EVFLAGS b = true := bit_flag ..

/-! CLKOUT (R397, R398). -/

theorem clkout_gives (h : Writes q CRH.CLKOUT_CFG 4 v s) (free : ∀ c ∈ clkoutConds v s, c.1 = false) : Gives (.clkoutCfgWrite q v) s fun t =>
    Answered q 0 t ∧ t.rd CRH.CLKOUT_CFG = v ∧ t.bit CRH.CLK_STATUS 21 = false ∧ t.crh.switch = some (v, s.now) ∧
    t.crh.outEnd = earlier s.crh.outEnd (clkoutFall s) := by
  refine givesWr' rfl h free fun t like => ⟨?_, ?_, ?_, ?_⟩
  · rw [like_k like (by decide)]
    exact (rd_setBit_other _ (by decide) _ _).trans (rd_wr_same ..)
  · rw [bit_of_rd (like_k like (by decide))]
    exact bit_setBit_false ..
  · rw [like.crh]
    rfl
  · rw [like.crh]
    simp [clkoutEff, modCrh]

/-- The output has been low for 20 ns, and carries the source of v from its start on (R397). -/
def switched (v t0 : Nat) (s : State) : State :=
  clkoutStart v (modCrh (fun c => { c with switch := none }) (s.upto (s.crh.outEnd.getD t0 + 20 * ticksPerNs)))

/-- The state in which READY rises. -/
def readyState (u : State) : State := crhFlag 3 (((u.upto (clkoutFirst u)).setBit CRH.CLK_STATUS 21 true).setBit CRH.CLK_STATUS 22 false)

theorem readyState_crh (u : State) : (readyState u).crh = u.crh := by
  unfold readyState
  rw [crhFlag_crh]
  simp

theorem readyState_now (u : State) : (readyState u).now = max u.now (clkoutFirst u) := by
  unfold readyState
  rw [crhFlag_now]
  simp [State.upto]

theorem readyState_bits (u : State) : (readyState u).bit CRH.CLK_STATUS 21 = true ∧ (readyState u).bit CRH.CLK_STATUS 22 = false := by
  unfold readyState
  refine ⟨?_, ?_⟩ <;> rw [bit_of_rd (crhFlag_rd (by decide))]
  · rw [bit_setBit_other _ (by decide)]
    exact bit_setBit_true ..
  · exact bit_setBit_false ..

theorem exec_switchDone (at_ : s.crh.switch = some (v, t0)) (soon : s.now ≤ t0 + 1000 * ticksPerUs) (locked : sourceLocked v s = true) :
    exec .clockSwitchDone s = .next (readyState (switched v t0 s)) := by
  refine congrArg Host.Outcome.next ?_
  rw [at_]
  exact if_pos ⟨soon, locked⟩

theorem switchDone_gives (at_ : s.crh.switch = some (v, t0)) (soon : s.now ≤ t0 + 1000 * ticksPerUs) (locked : sourceLocked v s = true) :
    Gives .clockSwitchDone s fun t => t.crh.switch = none ∧
      t.bit CRH.CLK_STATUS 21 = true ∧ t.bit CRH.CLK_STATUS 22 = false ∧ t.bit CRH.EVFLAGS 3 = true ∧
      s.crh.outEnd.getD t0 + 20 * ticksPerNs ≤ t.now ∧ ∀ x, t.crh.out = some x → x.2.2 ≤ t.now := by
  refine ⟨_, exec_switchDone at_ soon locked, ?_⟩
  obtain ⟨ready, clear⟩ := readyState_bits (switched v t0 s)
  have low : s.crh.outEnd.getD t0 + 20 * ticksPerNs ≤ (switched v t0 s).now := le_max_right ..
  refine ⟨by rw [readyState_crh]; rfl, ready, clear, crhFlag_bit, ?_, fun x out => ?_⟩ <;> rw [readyState_now]
  · exact low.trans (le_max_left ..)
  · rw [readyState_crh] at out
    have first : clkoutFirst (switched v t0 s) = x.2.2 := by rw [clkoutFirst, out]; rfl
    rw [first]
    exact le_max_right ..

/-- No lock within 1 ms: ERR, and CLKOUT stays low (R397). -/
def unlocked (t0 : Nat) (s : State) : State :=
  crhFlag 3 (modCrh (fun c => { c with switch := none }) ((s.upto (t0 + 1000 * ticksPerUs)).setBit CRH.CLK_STATUS 22 true))

theorem exec_switchTimeout (at_ : s.crh.switch = some (v, t0)) : exec .clockSwitchTimeout s = .next (unlocked t0 s) := by
  refine congrArg Host.Outcome.next ?_
  rw [at_]
  rfl

theorem switchTimeout_gives (at_ : s.crh.switch = some (v, t0)) : Gives .clockSwitchTimeout s fun t =>
    t.crh.switch = none ∧ t.bit CRH.CLK_STATUS 22 = true ∧ t.bit CRH.EVFLAGS 3 = true ∧
      t.bit CRH.CLK_STATUS 21 = s.bit CRH.CLK_STATUS 21 ∧ t.now = max s.now (t0 + 1000 * ticksPerUs) := by
  refine ⟨_, exec_switchTimeout at_, ?_⟩
  unfold unlocked
  refine ⟨by rw [crhFlag_crh]; rfl, ?_, crhFlag_bit, ?_, ?_⟩
  · rw [bit_of_rd (crhFlag_rd (by decide))]
    exact bit_setBit_true ..
  · rw [bit_of_rd (crhFlag_rd (by decide))]
    exact bit_setBit_other _ (by decide) _
  · rw [crhFlag_now]
    simp [modCrh, State.upto]

/-! The frequency meter (R399). -/

theorem rd_modCrh (f : CrhS → CrhS) (s : State) (k : Nat) : (modCrh f s).rd k = s.rd k := rfl

theorem fmEff_facts : (fmEff s).rd CRH.FM_STATE = 1 ∧ (fmEff s).crh.fmEnd = engEdge s.now + s.rd CRH.FM_GATE * ticksPerUs := by
  unfold fmEff
  exact ⟨(rd_modCrh ..).trans (rd_wr_same ..), rfl⟩

theorem fmStart_gives (h : Writes q CRH.FM_CTRL 1 1 s) (free : ∀ c ∈ fmConds s, c.1 = false) : Gives (.fmStart q) s fun t =>
    Answered q 0 t ∧ t.rd CRH.FM_STATE = 1 ∧ t.crh.fmEnd = engEdge s.now + s.rd CRH.FM_GATE * ticksPerUs := by
  refine givesCmd' rfl h free fun t like => ⟨?_, ?_⟩
  · rw [like_k like (by decide)]
    exact fmEff_facts.1
  · rw [like.crh]
    exact fmEff_facts.2

/-- The gate of the meter has ended with count edges (R399). -/
def counted (count : Nat) (s : State) : State :=
  crhFlag 4 ((((s.upto s.crh.fmEnd).wr CRH.FM_COUNT (count % 2 ^ 64)).wr CRH.FM_HZ
    (count * 1000000000 / max 1 (s.rd CRH.FM_GATE) % 2 ^ 64)).wr CRH.FM_STATE 2)

theorem fmDone_gives (count : Nat) (runs : s.rd CRH.FM_STATE = 1) : Gives (.fmDone count) s fun t => t.rd CRH.FM_STATE = 2 ∧
    t.rd CRH.FM_COUNT = count % 2 ^ 64 ∧ t.rd CRH.FM_HZ = count * 1000000000 / max 1 (s.rd CRH.FM_GATE) % 2 ^ 64 ∧
    t.bit CRH.EVFLAGS 4 = true ∧ t.now = max s.now s.crh.fmEnd := by
  refine ⟨counted count s, congrArg Host.Outcome.next (if_pos runs), ?_⟩
  unfold counted
  refine ⟨?_, ?_, ?_, crhFlag_bit, crhFlag_now ..⟩ <;> rw [crhFlag_rd (by decide)]
  · exact rd_wr_same ..
  · rw [rd_wr_other _ (by decide), rd_wr_other _ (by decide), rd_wr_same]
  · rw [rd_wr_other _ (by decide), rd_wr_same]

/-! Temperature (R408). -/

/-- The member that sensor i sets. -/
def sensorKey (i : Nat) : Nat := if i < 16 then CRH.TEMP i else EDG.GROUP (i - 16)

theorem sensorKey_range (hi : i < 48) : sensorKey i < 0x260100 ∧ 0x260000 ≤ sensorKey i ∨ 0x890000 ≤ sensorKey i ∧ sensorKey i < 0x8F0000 := by
  unfold sensorKey
  split <;> simp only [CRH.TEMP, EDG.GROUP] <;> omega

theorem sensorKey_inj {j : Nat} (hi : i < 48) (hj : j < 48) (ne : i ≠ j) : sensorKey i ≠ sensorKey j := by
  unfold sensorKey
  split <;> split <;> simp only [CRH.TEMP, EDG.GROUP] <;> omega

/-- What sensor i sets with a reading: an edge group behind the closed gate of EDG keeps what it holds (R401). -/
def sensed (i temp : Nat) (s : State) : Nat := if 16 ≤ i ∧ gateShut s 0x8900 = true then s.rd (sensorKey i) else temp % 65536

theorem putTemp_rd_other {temp : Nat} (ne : k ≠ sensorKey i) : (putTemp i temp s).rd k = s.rd k := by
  unfold putTemp
  unfold sensorKey at ne
  split
  · rename_i die
    rw [if_pos die] at ne
    exact rd_wr_other _ ne _
  · rename_i edge
    rw [if_neg edge] at ne
    dsimp only
    split
    · rfl
    · exact rd_wr_other _ ne _

theorem putTemp_rd (i temp : Nat) (s : State) : (putTemp i temp s).rd (sensorKey i) = sensed i temp s := by
  unfold putTemp sensorKey sensed sensorKey
  by_cases die : i < 16
  · rw [if_pos die, if_pos die, if_neg (fun h => absurd h.1 (by omega))]
    exact rd_wr_same ..
  · rw [if_neg die, if_neg die]
    dsimp only
    have edge : 16 ≤ i := by omega
    by_cases shut : gateShut s 0x8900 = true
    · rw [if_pos (c := gateShut s 0x8900 = true) shut, if_pos ⟨edge, shut⟩]
      rfl
    · rw [if_neg (c := gateShut s 0x8900 = true) shut, if_neg (fun h => shut h.2)]
      exact rd_wr_same ..

theorem gateShut_of_rd (h : t.rd (CRH.GATE_STATE 0xB0) = s.rd (CRH.GATE_STATE 0xB0)) : gateShut t 0x8900 = gateShut s 0x8900 := by
  show Nat.beq (t.rd (CRH.GATE_STATE 0xB0)) 0 = Nat.beq (s.rd (CRH.GATE_STATE 0xB0)) 0
  rw [h]

theorem gate_ne_sensor (hi : i < 48) : CRH.GATE_STATE 0xB0 ≠ sensorKey i := by
  have := sensorKey_range hi
  simp only [CRH.GATE_STATE]
  omega

theorem sensed_putTemp {j temp other : Nat} (hi : i < 48) (hj : j < 48) (ne : i ≠ j) : sensed i temp (putTemp j other s) = sensed i temp s := by
  unfold sensed
  rw [gateShut_of_rd (putTemp_rd_other (gate_ne_sensor hj)), putTemp_rd_other (sensorKey_inj hi hj ne)]

/-- The sensors of l have their readings. -/
def putTemps (temps : List Nat) (l : List Nat) (s : State) : State := l.foldl (fun s i => putTemp i (temps.getD i 0) s) s

theorem putTemps_rd_other {temps : List Nat} : ∀ {l : List Nat} {s : State}, (∀ j ∈ l, k ≠ sensorKey j) → (putTemps temps l s).rd k = s.rd k
  | [], _, _ => rfl
  | j :: l, _, ne =>
    (putTemps_rd_other (l := l) fun m hm => ne m (List.mem_cons_of_mem _ hm)).trans (putTemp_rd_other (ne j (List.mem_cons_self ..)))

theorem putTemps_rd {temps : List Nat} (hi : i < 48) : ∀ {l : List Nat} {s : State}, l.Nodup → (∀ j ∈ l, j < 48) → i ∈ l →
    (putTemps temps l s).rd (sensorKey i) = sensed i (temps.getD i 0) s
  | [], _, _, _, here => nomatch here
  | j :: l, s, once, small, here => by
    obtain ⟨fresh, once⟩ := List.nodup_cons.1 once
    have hj := small j (List.mem_cons_self ..)
    have small' : ∀ m ∈ l, m < 48 := fun m hm => small m (List.mem_cons_of_mem _ hm)
    by_cases e : i = j
    · subst e
      exact (putTemps_rd_other fun m hm => sensorKey_inj hi (small' m hm) fun e => fresh (e ▸ hm)).trans (putTemp_rd ..)
    · exact (putTemps_rd hi once small' ((List.mem_cons.1 here).resolve_left e)).trans (sensed_putTemp hi hj e)

theorem tempTaken_max (s : State) : (tempTaken s).rd CRH.TEMP_MAX = ofSigned 16 (hottest s) := by
  unfold tempTaken
  dsimp only
  split
  · exact (crhFlag_rd (by decide)).trans (rd_wr_same ..)
  · exact rd_wr_same ..

theorem tempTaken_rd (hm : k ≠ CRH.TEMP_MAX) (he : k ≠ CRH.EVFLAGS) : (tempTaken s).rd k = s.rd k := by
  unfold tempTaken
  dsimp only
  split
  · exact (crhFlag_rd he).trans (rd_wr_other _ hm _)
  · exact rd_wr_other _ hm _

theorem tempTaken_groupT (s : State) : (tempTaken s).crh.groupT = s.crh.groupT := by
  unfold tempTaken
  dsimp only
  split
  · rw [crhFlag_crh]
    rfl
  · rfl

theorem settleStale_crh (g : Nat) (s : State) : (settleStale g s).crh = s.crh := by
  unfold settleStale
  dsimp only
  split <;> simp

theorem settleStales_keeps (s : State) : (settleStales s).crh = s.crh ∧ ∀ k, k ≠ EDG.STALE_GROUPS → (settleStales s).rd k = s.rd k := by
  unfold settleStales
  generalize List.range 32 = l
  induction l generalizing s with
  | nil => exact ⟨rfl, fun _ _ => rfl⟩
  | cons g l ih =>
    obtain ⟨crh, rd⟩ := ih (settleStale g s)
    exact ⟨crh.trans (settleStale_crh g s), fun k ne => (rd k ne).trans (settle_rd ne)⟩

theorem hottest_congr (crh : t.crh.groupT = s.crh.groupT) (rd : ∀ i, i < 16 → t.rd (CRH.TEMP i) = s.rd (CRH.TEMP i)) : hottest t = hottest s := by
  unfold hottest tempReadings
  have die : (List.range 16).map (fun i => toS16 (t.rd (CRH.TEMP i))) = (List.range 16).map fun i => toS16 (s.rd (CRH.TEMP i)) :=
    List.map_congr_left fun i hi => congrArg toS16 (rd i (List.mem_range.1 hi))
  rw [die, crh]

/-- The readings taken, and what follows from them (R205, R408). -/
def sampled (temps : List Nat) (s : State) : State := settleStales (tempTaken (putTemps temps (List.range 48) s))

theorem sampled_rd {temps : List Nat} (hm : k ≠ CRH.TEMP_MAX) (he : k ≠ CRH.EVFLAGS) (hs : k ≠ EDG.STALE_GROUPS) :
    (sampled temps s).rd k = (putTemps temps (List.range 48) s).rd k :=
  ((settleStales_keeps _).2 k hs).trans (tempTaken_rd hm he)

theorem sampled_sensor {temps : List Nat} (hi : i < 48) : (sampled temps s).rd (sensorKey i) = sensed i (temps.getD i 0) s := by
  have range := sensorKey_range hi
  rw [sampled_rd (by simp only [CRH.TEMP_MAX]; omega) (by simp only [CRH.EVFLAGS]; omega) (by simp only [EDG.STALE_GROUPS]; omega)]
  exact putTemps_rd hi List.nodup_range (fun j hj => List.mem_range.1 hj) (List.mem_range.2 hi)

theorem sampled_groupT (temps : List Nat) (s : State) :
    (sampled temps s).crh.groupT = (putTemps temps (List.range 48) s).crh.groupT := by
  unfold sampled
  rw [(settleStales_keeps _).1, tempTaken_groupT]

theorem sampled_hottest (temps : List Nat) (s : State) : hottest (sampled temps s) = hottest (putTemps temps (List.range 48) s) := by
  refine hottest_congr (sampled_groupT temps s) fun i hi => sampled_rd ?_ ?_ ?_ <;>
    simp only [CRH.TEMP, CRH.TEMP_MAX, CRH.EVFLAGS, EDG.STALE_GROUPS] <;> omega

theorem sampled_max (temps : List Nat) (s : State) : (sampled temps s).rd CRH.TEMP_MAX = ofSigned 16 (hottest (sampled temps s)) := by
  rw [sampled_hottest, sampled, (settleStales_keeps _).2 _ (by decide)]
  exact tempTaken_max _

theorem temps_gives (temps : List Nat) (all : temps.length = 48) : Gives (.tempSample temps) s fun t =>
    (∀ i, i < 16 → t.rd (CRH.TEMP i) = temps.getD i 0 % 65536) ∧
    (∀ g, g < 32 → t.rd (EDG.GROUP g) = if gateShut s 0x8900 = true then s.rd (EDG.GROUP g) else temps.getD (16 + g) 0 % 65536) ∧
    t.rd CRH.TEMP_MAX = ofSigned 16 (hottest t) := by
  have run : exec (.tempSample temps) s = .next (sampled temps s) := by
    show Host.Outcome.next (settleStales (tempTaken (putTemps temps (List.range (min temps.length 48)) s))) = _
    rw [all]
    rfl
  refine ⟨_, run, fun i hi => ?_, fun g hg => ?_, sampled_max temps s⟩
  · have at_ := sampled_sensor (temps := temps) (s := s) (show i < 48 by omega)
    rwa [sensorKey, if_pos hi, sensed, if_neg (fun h => absurd h.1 (by omega))] at at_
  · have at_ := sampled_sensor (temps := temps) (s := s) (show 16 + g < 48 by omega)
    have key : sensorKey (16 + g) = EDG.GROUP g := by
      rw [sensorKey, if_neg (by omega), Nat.add_sub_cancel_left]
    rw [sensed, key] at at_
    by_cases shut : gateShut s 0x8900 = true
    · exact at_.trans ((if_pos ⟨Nat.le_add_right .., shut⟩).trans (if_pos shut).symm)
    · exact at_.trans ((if_neg fun h => shut h.2).trans (if_neg shut).symm)

/-! Rails and sensed levels (R409; 22 R529). -/

theorem railHolds_out {mv : Nat} (out : s.crh.inReset = false) : railHolds r mv s = s := by
  unfold railHolds
  rw [out]
  rfl

/-- Does v lie in the window of rail r? -/
def inWindow (r v : Nat) (s : State) : Bool := Nat.ble (s.rd (CRH.VLOW r)) v && Nat.ble v (s.rd (CRH.VHIGH r))

theorem inWindow_of (low : s.rd (CRH.VLOW r) ≤ v) (high : v ≤ s.rd (CRH.VHIGH r)) : inWindow r v s = true := by
  rw [inWindow, Nat.ble_eq_true_of_le low, Nat.ble_eq_true_of_le high]
  rfl

theorem not_inWindow_of (outside : v < s.rd (CRH.VLOW r) ∨ s.rd (CRH.VHIGH r) < v) : inWindow r v s = false := by
  rcases outside with below | above
  · rw [inWindow, CompleteDsp.nble below, Bool.false_and]
  · rw [inWindow, CompleteDsp.nble above, Bool.and_false]

/-- Rail r reads mv, which is flagged where it leaves its window outside a reset (R409). -/
def railRead (r mv : Nat) (s : State) : State :=
  if inWindow r (s.rd (CRH.VOLT r)) s && !(inWindow r mv s) && !s.crh.inReset then crhFlag 6 (s.wr (CRH.VOLT r) mv) else s.wr (CRH.VOLT r) mv

theorem railRead_volt {mv : Nat} (hr : r < 17) : (railRead r mv s).rd (CRH.VOLT r) = mv := by
  unfold railRead
  split
  · exact (crhFlag_rd (by simp only [CRH.VOLT, CRH.EVFLAGS]; omega)).trans (rd_wr_same ..)
  · exact rd_wr_same ..

theorem rail_gives {mv : Nat} (hr : r < 17) : Gives (.railSample r mv) s fun t => t.rd (CRH.VOLT r) = mv % 65536 ∧
    (s.rd (CRH.VLOW r) ≤ s.rd (CRH.VOLT r) → s.rd (CRH.VOLT r) ≤ s.rd (CRH.VHIGH r) →
      mv % 65536 < s.rd (CRH.VLOW r) ∨ s.rd (CRH.VHIGH r) < mv % 65536 → s.crh.inReset = false →
      t.bit CRH.EVFLAGS 6 = true) := by
  refine ⟨railRead r (mv % 65536) (railHolds r (mv % 65536) s), unitNext hr, railRead_volt hr, fun low high outside out => ?_⟩
  rw [railHolds_out out, railRead, inWindow_of low high, not_inWindow_of outside, out]
  exact crhFlag_bit

/-- The strap of bank b shows code v. -/
def strapped (b v : Nat) (s : State) : State :=
  { s with pins := { s.pins with pull := s.pins.pull - s.pins.pull / 4 ^ b % 4 * 4 ^ b + v * 4 ^ b } }

theorem pullsel_gives (hb : b < 10) (hv : v < 3) : Gives (.pullselChange b v) s fun t => t.pins.pull / 4 ^ b % 4 = v ∧
    (vioOk b s = true → t.rd (FAB.IO_BANK b) = s.rd (FAB.IO_BANK b) % 2 + 2 * v) := by
  have strap : (strapped b v s).pins.pull / 4 ^ b % 4 = v := pull_set _ _ _ (by omega)
  have run : exec (.pullselChange b v) s = .next (if vioOk b (strapped b v s) then senseBank b (s.rd (FAB.IO_BANK b)) (strapped b v s) else strapped b v s) :=
    (unitNext hb).trans (congrArg _ (if_pos hv))
  refine ⟨_, run, ?_, fun ok => ?_⟩
  · split <;> exact strap
  · have ok' : vioOk b (strapped b v s) = true := ok
    rw [if_pos ok', senseBank, rd_wr_same, strap, Nat.mul_comm]

/-- The rails less VIOb among those that are low. -/
def raised (b : Nat) (s : State) : Nat := s.pins.vioLow - (if s.pins.vioLow.testBit b then 2 ^ b else 0)

theorem raised_bit : (raised b s).testBit b = false := by
  unfold raised
  by_cases h : s.pins.vioLow.testBit b = true
  · rw [if_pos h, sub_bit _ _ _ h]
    simp
  · rw [if_neg h, Nat.sub_zero]
    exact Bool.eq_false_iff.2 h

theorem vioUp_gives (hb : b < 10) : Gives (.vioRailChange b true level) s fun t => vioOk b t = true ∧
    t.rd (FAB.IO_BANK b) = level % 2 + s.pins.pull / 4 ^ b % 4 * 2 := by
  refine ⟨_, unitNext hb, ?_, ?_⟩
  · dsimp only
    rw [if_pos rfl, vioOk, follow_pins, follow_pins]
    exact congrArg (!·) (raised_bit (s := s))
  · dsimp only
    rw [if_pos rfl, follow_rd (by simp only [FAB.IO_BANK, CRH.VHIGH]; omega), follow_rd (by simp only [FAB.IO_BANK, CRH.VLOW]; omega)]
    exact rd_wr_same ..

theorem vioDown_gives (hb : b < 10) : Gives (.vioRailChange b false level) s fun t => vioOk b t = false ∧
    t.rd (FAB.IO_BANK b) = s.rd (FAB.IO_BANK b) := by
  refine ⟨_, unitNext hb, ?_, rfl⟩
  show (!((raised b s + 2 ^ b).testBit b)) = false
  rw [Nat.add_comm, Nat.testBit_two_pow_add_eq, raised_bit]
  rfl

/-- Settles O45: clause by clause, a switch of CLKOUT by the branches of its end, a sample of the temperatures by induction on the
sensors, and the banks by the bits of their straps and rails. -/
theorem clocksAndSensorsComplete : Obligations.ClocksAndSensorsComplete := by
  unfold Obligations.ClocksAndSensorsComplete
  exact fun s => ⟨fun _ _ => clkout_gives, fun _ _ at_ => ⟨switchDone_gives at_, switchTimeout_gives at_⟩, fun _ => fmStart_gives,
    fun count => fmDone_gives count, temps_gives, fun _ _ => rail_gives, fun _ _ => pullsel_gives, fun _ _ => vioUp_gives,
    fun _ _ => vioDown_gives⟩

end Sys2Proof.Proofs.ClockSensor
end

section
/-! Clock gates and power domains (15_clocks_reset.md R400, R401, R404). -/
namespace Sys2Proof.Proofs.GateDomain
open Sys2Proof.Machine Sys2Proof.Laws Common CompleteCrh ClockFacts CompleteSup SupFacts

variable {q : Req} {u d v st k : Nat} {s : State}

/-! Clock gates (R400, R401). -/

theorem rd_modCrh (f : CrhS → CrhS) (s : State) (k : Nat) : (modCrh f s).rd k = s.rd k := rfl

/-- Enable u set to v and its gate changing (R400). -/
def gateTurns (u v : Nat) (s : State) : State :=
  modCrh (fun c => { c with gateAt := c.gateAt ++ [(u, s.now)] })
    ((s.wr (CRH.GATE_EN u) v).wr (CRH.GATE_STATE u) (if v = 0 then 2 else 3))

theorem nv_gate (lo : 0x220000 ≤ k) (hi : k < 0x220200) : NV k := by
  refine ⟨fun u hu => ?_, ?_⟩
  · simp only [VEN.STATE]; omega
  · simp only [HDI.MIRROR_STATE, HDI.APPLY_OUTCOME]; omega

theorem gateEff_of_new (new : v ≠ s.rd (CRH.GATE_EN u)) : gateEff u v s =
    if v = 0 then reopenIf (s.hdi.mirror.batch.any fun e => Dict.gateUnit (e.key / 256) == some u) (gateTurns u v s) else gateTurns u v s :=
  if_neg new

theorem gateEff_rd (new : v ≠ s.rd (CRH.GATE_EN u)) (lo : 0x220000 ≤ k) (hi : k < 0x220200) :
    (gateEff u v s).rd k = (gateTurns u v s).rd k := by
  rw [gateEff_of_new new]
  split
  · exact reopenIf_rd (nv_gate lo hi)
  · rfl

theorem gateEff_members (hu : u < 178) : (gateEff u v s).rd (CRH.GATE_EN u) = v ∧
    (gateEff u v s).rd (CRH.GATE_STATE u) = if s.rd (CRH.GATE_EN u) = v then s.rd (CRH.GATE_STATE u) else if v = 0 then 2 else 3 := by
  by_cases same : v = s.rd (CRH.GATE_EN u)
  · rw [gateEff, if_pos same, if_pos same.symm]
    exact ⟨same.symm, rfl⟩
  · have enable := gateEff_rd same (k := CRH.GATE_EN u) (by simp only [CRH.GATE_EN]; omega) (by simp only [CRH.GATE_EN]; omega)
    have gate := gateEff_rd same (k := CRH.GATE_STATE u) (by simp only [CRH.GATE_STATE]; omega) (by simp only [CRH.GATE_STATE]; omega)
    rw [enable, gate, if_neg (Ne.symm same), gateTurns, rd_modCrh, rd_modCrh, rd_wr_same,
      rd_wr_other _ (by simp only [CRH.GATE_EN, CRH.GATE_STATE]; omega), rd_wr_same]
    exact ⟨rfl, rfl⟩

theorem gateWrite_gives {i : Instr} (hu : u < 178)
    (run : exec i s = unitCmd u 178 (writeTo q (CRH.GATE_EN u) 1 v (gateConds u v s) (gateEff u v) s))
    (h : Writes q (CRH.GATE_EN u) 1 v s) (free : ∀ c ∈ gateConds u v s, c.1 = false) : Gives i s fun t =>
    Answered q 0 t ∧ t.rd (CRH.GATE_EN u) = v ∧
      t.rd (CRH.GATE_STATE u) = if s.rd (CRH.GATE_EN u) = v then s.rd (CRH.GATE_STATE u) else if v = 0 then 2 else 3 := by
  refine givesWr run hu h free fun t like => ?_
  rw [like_k like (by simp only [CRH.GATE_EN]; omega), like_k like (by simp only [CRH.GATE_STATE]; omega)]
  exact gateEff_members hu

theorem performHeld_gate {m : MeshReq → Bool} (hu : u < 178) : (performHeld m s).rd (CRH.GATE_STATE u) = s.rd (CRH.GATE_STATE u) := by
  refine frq (f := performHeld m) (performHeld_fr m s (fr_refl s) ?_ ?_ ?_ ?_ trivial ?_ ?_ ?_ ?_ ?_ ?_ ?_ ?_ ?_ ?_ ?_) <;>
    (intros; simp only [CRH.GATE_STATE, CRH.EVFLAGS, CRH.GATED_TOUCHES, CRH.GATE_TOUCH, CRH.PWR_STATE, MSH.EVFLAGS, MSH.WAKES, PAN.EVFLAGS,
      PAN.PERR, SCR.CE, SCR.EVFLAGS, SCR.TEST_TOUCH, SCR.UE, SCR.STEAL_TIMEOUT, SCR.COLLIDE, DSP.STALLS]; omega)

theorem gateEnds_state (hu : u < 178) : (gateEnds u st s).rd (CRH.GATE_STATE u) = st := by
  unfold gateEnds
  dsimp only
  rw [performHeld_gate hu, rd_modCrh, crhFlag_rd (by simp only [CRH.GATE_STATE, CRH.EVFLAGS]; omega)]
  exact rd_wr_same ..

theorem closed_gives (hu : u < 178) (closes : s.rd (CRH.GATE_STATE u) = 2) (idle : accessRuns u s = false) :
    Gives (.gateClosed u) s fun t => t.rd (CRH.GATE_STATE u) = 0 :=
  ⟨gateEnds u 0 s, (unitNext hu).trans (congrArg _ (if_pos ⟨closes, idle⟩)), gateEnds_state hu⟩

theorem force_gives (hu : u < 178) (closes : s.rd (CRH.GATE_STATE u) = 2) (new : s.crh.forced.contains u = false) :
    Gives (.gateCloseForce u) s fun t => t.rd (CRH.GATE_STATE u) = 2 ∧ t.crh.forced = s.crh.forced ++ [u] ∧
      t.now = max s.now (gateSince u s + 256 * unitClk u) :=
  ⟨modCrh (fun c => { c with forced := c.forced ++ [u] }) (s.upto (gateSince u s + 256 * unitClk u)),
    (unitNext hu).trans (congrArg _ (if_pos ⟨closes, new⟩)), closes, rfl, rfl⟩

theorem opened_gives (hu : u < 178) (opens : s.rd (CRH.GATE_STATE u) = 3) : Gives (.gateOpened u) s fun t => t.rd (CRH.GATE_STATE u) = 1 :=
  ⟨_, (unitNext hu).trans (congrArg _ (if_pos opens)), gateEnds_state hu⟩

/-! Power domains (R404). -/

theorem off_gives (hd : d < 96) (h : Writes q (CRH.PWR d) 1 0 s) (free : ∀ c ∈ pwrConds d 0 s, c.1 = false) :
    Gives (.powerOff q d) s fun t => Answered q 0 t ∧ t.rd (CRH.PWR d) = 0 ∧
      (s.rd (CRH.PWR_STATE d) ≠ 0 → turnsOff d s = false → t.crh.offAt = s.crh.offAt ++ [(d, s.now)]) := by
  refine givesWr rfl hd h free fun t like => ?_
  rw [like_k like (by simp only [CRH.PWR]; omega), like.crh, pwrEff, if_pos rfl]
  refine ⟨?_, fun on stays => ?_⟩
  · split
    · exact rd_wr_same ..
    · exact (rd_modCrh ..).trans (rd_wr_same ..)
  · rw [if_neg (not_or.2 ⟨on, Bool.eq_false_iff.1 stays⟩)]
    rfl

/-- CRH.PWR reads 1 and the domain no longer turns off (R404). -/
def stays (d : Nat) (s : State) : State :=
  modCrh (fun c => { c with offAt := c.offAt.filter fun e => !(Nat.beq e.1 d) }) (s.wr (CRH.PWR d) 1)

theorem pwrEff_on : pwrEff d 1 s = if s.rd (CRH.PWR_STATE d) = 0 then wakeDomain d (stays d s) else stays d s := by
  unfold pwrEff
  exact if_neg Nat.one_ne_zero

theorem on_gives (hd : d < 96) (h : Writes q (CRH.PWR d) 1 1 s) (free : ∀ c ∈ pwrConds d 1 s, c.1 = false) :
    Gives (.powerOn q d) s fun t => Answered q 0 t ∧ t.rd (CRH.PWR d) = 1 ∧ t.crh.offAt = s.crh.offAt.filter (fun e => !(Nat.beq e.1 d)) ∧
      (s.rd (CRH.PWR_STATE d) = 0 → t.rd (CRH.PWR_STATE d) = 1) := by
  refine givesWr rfl hd h free fun t like => ?_
  rw [like_k like (by simp only [CRH.PWR]; omega), like_k like (by simp only [CRH.PWR_STATE]; omega), like.crh, pwrEff_on]
  have enable : (stays d s).rd (CRH.PWR d) = 1 := (rd_modCrh ..).trans (rd_wr_same ..)
  by_cases off : s.rd (CRH.PWR_STATE d) = 0
  · rw [if_pos off]
    exact ⟨(rd_wr_other _ (by simp only [CRH.PWR, CRH.PWR_STATE]; omega) _).trans enable, rfl, fun _ => rd_wr_same ..⟩
  · rw [if_neg off]
    exact ⟨enable, rfl, fun h => absurd h off⟩

/-- Domain d has turned off, its content not yet lost (R404). -/
def turnedOff (d : Nat) (s : State) : State :=
  (modCrh (fun c => { c with offAt := c.offAt.filter fun e => !(Nat.beq e.1 d), wakeAt := c.wakeAt.filter fun e => !(Nat.beq e.1 d) }) s).wr
    (CRH.PWR_STATE d) 0

theorem domainUnits_pwr (hd : d < 96) (pan scr : Nat) : (domainUnits d pan scr s).rd (CRH.PWR_STATE d) = s.rd (CRH.PWR_STATE d) := by
  refine frq (f := domainUnits d pan scr) (domainUnits_fr d pan scr s (fr_refl s) (fun p => ?_) ?_) <;>
    simp only [CRH.PWR_STATE, PAN.STATE, SCR.STATE] <;> omega

theorem loseDomain_pwr (hd : d < 96) : (loseDomain d s).rd (CRH.PWR_STATE d) = s.rd (CRH.PWR_STATE d) := by
  refine frq (f := loseDomain d) (loseDomain_fr d s (fr_refl s) trivial (fun p => ?_) fun p => ?_) <;>
    simp only [CRH.PWR_STATE, PAN.DISCARD, PAN.EVFLAGS] <;> omega

theorem discards_crh : ∀ (l : List Nat) (s : State), (l.foldl (fun s j => discardQueue (48 * d + j) s) s).crh = s.crh
  | [], _ => rfl
  | j :: l, s => (discards_crh l _).trans (discardQueue_keepsCrh (48 * d + j) s rfl)

theorem loseDomain_crh (d : Nat) (s : State) : (loseDomain d s).crh = s.crh := by
  unfold loseDomain
  split
  · dsimp only
    rw [discards_crh]
  · rfl

theorem not_turningOff (l : List (Nat × Nat)) : ((l.filter fun e => !(Nat.beq e.1 d)).any fun e => Nat.beq e.1 d) = false := by
  simp [List.any_eq_false]

theorem domainOff_gives (hd : d < 96) (turns : (s.crh.offAt.any fun e => Nat.beq e.1 d) = true) : Gives (.domainOff d) s fun t =>
    t.rd (CRH.PWR_STATE d) = 0 ∧ (t.crh.offAt.any fun e => Nat.beq e.1 d) = false ∧
      (32 ≤ d → t.rd (SCR.STATE (d - 32)) = 4 ∧ t.mem = memClear s.mem (bankBase (d - 32)) 0x10000) := by
  have run : exec (.domainOff d) s = .next (domainUnits d 4 4 (loseDomain d (turnedOff d s))) :=
    (unitNext hd).trans (congrArg _ (if_pos turns))
  refine ⟨_, run, ?_, ?_, fun bank => ?_⟩
  · rw [domainUnits_pwr hd, loseDomain_pwr hd]
    exact rd_wr_same ..
  · have crh : (domainUnits d 4 4 (loseDomain d (turnedOff d s))).crh = (turnedOff d s).crh :=
      (domainUnits_keepsCrh d 4 4 (loseDomain d (turnedOff d s)) rfl).trans (loseDomain_crh ..)
    rw [crh]
    exact not_turningOff _
  · rw [domainUnits, if_neg (by omega), loseDomain, if_neg (by omega)]
    exact ⟨rd_wr_same .., rfl⟩

/-- Settles O46: clause by clause, the writes of an enable or a domain by whether they change it, and the ends by the members that the
waiting accesses leave alone. -/
theorem gatesAndDomainsComplete : Obligations.GatesAndDomainsComplete := by
  unfold Obligations.GatesAndDomainsComplete
  exact fun q s => ⟨fun _ hu => gateWrite_gives hu rfl, fun _ hu => gateWrite_gives hu rfl, fun _ => closed_gives, fun _ => force_gives,
    fun _ => opened_gives, fun _ => off_gives, fun _ => on_gives, fun _ => domainOff_gives⟩

end Sys2Proof.Proofs.GateDomain
end

section
/-! Loads (16_configuration.md R414 to R421, R424, R425, R432, R433, R440). -/
namespace Sys2Proof.Proofs.Load
open Sys2Proof.Machine Sys2Proof.Laws Common CompleteCfg LoadFacts

variable {q : Req} {l : LoadS} {s t u : State}

/-! The start (R414, R432). -/

theorem auto_gives (flash : Flash) (due : s.cfg.autoDue = true) : Gives (.autoLoad flash) s fun t => t.cfg.autoDue = false ∧
    t.rd CFG.LOAD_STATE = 1 ∧ t.rd CFG.LOAD_BYTES = 0 ∧
    t.cfg.load = some { full := true, src := 0, flash := flash, addr := 0, auto := true, dataAt := s.cfg.autoAt } := by
  refine ⟨_, congrArg Host.Outcome.next (if_pos due), ?_⟩
  obtain ⟨state, -, bytes, load, auto, -⟩ := start_facts { full := true, src := 0, flash := flash, addr := 0, auto := true }
    (modCfg (fun c => { c with flash := flash }) s)
  exact ⟨auto, state, bytes, load⟩

theorem load_gives {i : Instr} {full : Bool} {code : Nat} {conds : List (Bool × Nat)} {flash : Flash}
    (run : exec i s = .next (command q CFG.LOAD_CTRL code conds (loadEff full flash) s))
    (h : Writes q CFG.LOAD_CTRL 1 code s) (free : ∀ c ∈ conds, c.1 = false) : Gives i s fun t =>
    Answered q 0 t ∧ t.rd CFG.LOAD_STATE = (if s.rd CFG.LOAD_SRC = 0 then 1 else 2) ∧ t.rd CFG.LOAD_CAUSE = 0 ∧
    t.cfg.load = some { full := full, src := s.rd CFG.LOAD_SRC, flash := flash, addr := s.rd CFG.FLASH_OFFSET, dataAt := s.now } := by
  refine givesCmd' run h free fun t like => ?_
  rw [like_k like (by decide), like_k like (by decide), like.cfg]
  obtain ⟨state, cause, -, load, -, -⟩ := start_facts
    { full := full, src := s.rd CFG.LOAD_SRC, flash := flash, addr := s.rd CFG.FLASH_OFFSET } (modCfg (fun c => { c with flash := flash }) s)
  exact ⟨state, cause, load⟩

/-! The Facet Loading Port (R440). -/

theorem meshSend_keeps (r : MeshReq) (s : State) : (meshSend r s).cfg = s.cfg ∧ ∀ k, (meshSend r s).rd k = s.rd k := by
  obtain ⟨_, _, _, _, only⟩ := MeshWay.meshSend_only r s
  rw [only]
  exact ⟨rfl, fun _ => rfl⟩

/-- The next 256 bytes that the port reads for load l. -/
def portRead (l : LoadS) : MeshReq := ⟨.read, .flp, 0, 3, l.addr + l.got, 256, 0⟩

theorem flpNext_reads (loads : s.cfg.load = some l) (port : l.src = 2) (idle : l.wait = none) (more : l.got < l.len)
    (room : buffersFull l = false) : flpNext s = meshSend (portRead l) (modCfg (fun x => { x with load := some { l with wait := some (portRead l) } }) s) := by
  unfold flpNext
  rw [loads]
  exact if_pos ⟨port, idle, more, room⟩

/-- The load that START begins (R440). -/
def portLoad (s : State) : LoadS :=
  { full := false, src := 2, flash := ⟨false, false, false, false, false, false, 0, []⟩, addr := s.rd CFG.FLP_ADDR, len := s.rd CFG.FLP_LEN }

theorem flpEff_facts (enough : 272 ≤ s.rd CFG.FLP_LEN) : (flpEff s).rd CFG.LOAD_STATE = 2 ∧
    (flpEff s).cfg.load = some { portLoad s with dataAt := s.now, wait := some (portRead (portLoad s)) } := by
  obtain ⟨state, -, -, load, -, -⟩ := start_facts (portLoad s) s
  have next := flpNext_reads (s := loadStart (portLoad s) s) load rfl rfl (show 0 < s.rd CFG.FLP_LEN by omega) rfl
  obtain ⟨cfg, rd⟩ := meshSend_keeps (portRead { portLoad s with dataAt := s.now })
    (modCfg (fun x => { x with load := some { portLoad s with dataAt := s.now, wait := some (portRead (portLoad s)) } }) (loadStart (portLoad s) s))
  have eff : flpEff s = meshSend (portRead { portLoad s with dataAt := s.now })
      (modCfg (fun x => { x with load := some { portLoad s with dataAt := s.now, wait := some (portRead (portLoad s)) } }) (loadStart (portLoad s) s)) := next
  rw [eff, rd, cfg]
  exact ⟨state, rfl⟩

theorem flp_gives (h : Writes q CFG.FLP_CTRL 1 1 s) (free : ∀ c ∈ flpConds s, c.1 = false) : Gives (.flpStart q) s fun t => Answered q 0 t ∧
    t.rd CFG.LOAD_STATE = 2 ∧ ∃ l, t.cfg.load = some l ∧ l.full = false ∧ l.src = 2 ∧ l.addr = s.rd CFG.FLP_ADDR ∧
      l.len = s.rd CFG.FLP_LEN ∧ l.wait = some ⟨.read, .flp, 0, 3, s.rd CFG.FLP_ADDR, 256, 0⟩ := by
  refine givesCmd' rfl h free fun t like => ?_
  have short : Nat.blt (s.rd CFG.FLP_LEN) 272 = false := (Bool.or_eq_false_iff.1 (free _ (List.mem_cons_self ..))).2
  have enough : 272 ≤ s.rd CFG.FLP_LEN := by
    by_contra less
    exact absurd (short.symm.trans (Nat.ble_eq_true_of_le (Nat.lt_of_not_le less))) Bool.noConfusion
  obtain ⟨state, load⟩ := flpEff_facts enough
  rw [like_k like (by decide), like.cfg]
  exact ⟨state, _, load, rfl, rfl, rfl, rfl, rfl⟩

/-! Ends by command and for want of data (R425, R432). -/

theorem abort_gives {i : Instr} {k code : Nat} (run : exec i s = .next (command q k code [] abortEff s)) (h : Writes q k 1 code s) :
    Gives i s fun t => Answered q 0 t ∧ (s.cfg.load.isSome = true → LoadEnded 0xA 9 5 t) := by
  refine givesCmd' run h noC fun t like runs => ?_
  obtain ⟨l, loads⟩ := Option.isSome_iff_exists.1 runs
  exact Ended_like (abort_ended loads) like

theorem stream_gives {len v : Nat} (h : Writes q CFG.STREAM len v s) (loads : s.cfg.load = some l) (host : l.src = 1)
    (room : buffersFull l = false) : Gives (.streamWrite q len v) s fun t => Answered q 0 t ∧ t.rd CFG.LOAD_BYTES = l.got + len ∧
      t.cfg.load = some { l with buf := l.buf + v % 2 ^ (8 * len) * 2 ^ (8 * (l.got - l.base)), got := l.got + len, dataAt := s.now } := by
  have free : ∀ c ∈ streamConds s, c.1 = false := by
    rw [streamConds, loads]
    dsimp only
    rw [if_pos host]
    exact List.forall_mem_singleton.2 room
  refine givesWr' rfl h free fun t like => ?_
  rw [like_k like (by decide), like.cfg, received, loads]
  exact ⟨rd_wr_same .., rfl⟩

theorem tearFacets_now (h : Header) (s : State) : (tearFacets l h s).now = s.now := by
  unfold tearFacets
  generalize facetsIn h.region = fs
  induction fs generalizing s with
  | nil => rfl
  | cons f fs ih =>
    refine (ih _).trans ?_
    dsimp only
    split
    · split <;> rfl
    · rfl

theorem R_now (h : R s t) : t.now = s.now := by
  obtain ⟨_, rfl⟩ := h
  rfl

theorem loadEnd_now (c at' : Nat) (s : State) : (loadEnd c at' s).now = s.now := by
  unfold loadEnd
  split
  · rfl
  · rename_i l _
    dsimp only
    rw [raise_now]
    split
    · rfl
    · refine (R_now (R_src ..)).trans ?_
      split
      · rfl
      · exact tearFacets_now ..

theorem hostTimeout_gives (loads : s.cfg.load = some l) (host : l.src = 1) (command : l.auto = false) :
    Gives .hostDataTimeout s fun t => LoadEnded 0xC 7 5 t ∧ t.now = max s.now (l.dataAt + 1000000 * ticksPerUs) := by
  have run : exec .hostDataTimeout s = .next (loadFail 0xC l.bodyAt (s.upto (l.dataAt + 1000000 * ticksPerUs))) := by
    refine congrArg Host.Outcome.next ?_
    rw [loads]
    exact if_pos host
  have loads' : (s.upto (l.dataAt + 1000000 * ticksPerUs)).cfg.load = some l := loads
  refine ⟨_, run, failed loads' (.inl command), ?_⟩
  rw [fail_end loads' (.inl command), loadEnd_now]
  rfl

theorem exec_flashTimeout (loads : s.cfg.load = some l) (flash : l.src = 0) : exec .flashTimeout s = .next (loadFail 0xC l.bodyAt s) := by
  refine congrArg Host.Outcome.next ?_
  rw [loads]
  exact if_pos flash

theorem flashTimeout_gives (loads : s.cfg.load = some l) (flash : l.src = 0) (command : l.auto = false) :
    Gives .flashTimeout s fun t => LoadEnded 0xC 7 5 t := ⟨_, exec_flashTimeout loads flash, failed loads (.inl command)⟩

/-- The automatic load begins anew at offset 0x0200_0000 (R414). -/
def secondTry (l : LoadS) (s : State) : State :=
  modCfg (fun x => { x with load := some { l with addr := 0x2000000, second := true, got := 0 } }) ((s.wr CFG.LOAD_STATE 2).wr CFG.LOAD_BYTES 0)

theorem loadFail_second {c a : Nat} (loads : s.cfg.load = some l) (auto : l.auto = true) (first : l.second = false) (early : l.hdr = none)
    (other : c ≠ 0xA) (there : l.flash.present = true) (table : l.flash.sfdp = true) (large : 26 ≤ l.flash.density) :
    loadFail c a s = secondTry l s := by
  unfold loadFail
  rw [loads]
  refine if_pos ?_
  rw [auto, first, early, there, table, Nat.ble_eq_true_of_le large, bne_iff_ne.2 other]
  rfl

theorem second_gives (loads : s.cfg.load = some l) (flash : l.src = 0) (auto : l.auto = true) (first : l.second = false) (early : l.hdr = none)
    (there : l.flash.present = true) (table : l.flash.sfdp = true) (large : 26 ≤ l.flash.density) : Gives .flashTimeout s fun t =>
      t.rd CFG.LOAD_STATE = 2 ∧ t.cfg.load = some { l with addr := 0x2000000, second := true, got := 0 } := by
  refine ⟨_, exec_flashTimeout loads flash, ?_⟩
  rw [loadFail_second loads auto first early (by decide) there table large]
  have state : ((s.wr CFG.LOAD_STATE 2).wr CFG.LOAD_BYTES 0).rd CFG.LOAD_STATE = 2 := by rw [rd_wr_other _ (by decide), rd_wr_same]
  exact ⟨state, rfl⟩

/-! The header (R416, R419, R426). -/

/-- The discovery of a flash has failed (R416). -/
def undiscovered (l : LoadS) (s : State) : State :=
  (modCfg (fun x => { x with flashMode := 0 }) (s.upto (l.dataAt + 110 * ticksPerUs))).wr CFG.FLASH_INFO 0

theorem exec_header_undiscovered (loads : s.cfg.load = some l) (early : l.hdr = none) (flash : l.src = 0)
    (absent : (l.flash.present && l.flash.sfdp) = false) : exec .streamHeader s = .next (loadFail 2 0 (undiscovered l s)) := by
  refine congrArg Host.Outcome.next ?_
  rw [loads]
  dsimp only
  rw [early, if_neg (show ¬((none : Option Header).isSome = true) from Bool.noConfusion), if_pos flash, if_pos flash, if_pos ⟨flash, absent⟩, absent]
  rfl

theorem notFacetEnds_info : ¬FacetEnds CFG.FLASH_INFO := by
  rintro ⟨f, small, key⟩
  simp only [CFG.FLASH_INFO, CFG.FACET_STATE, CFG.FACET_LOADS, FAB.DESIGN_ID, CFG.LOUPE_SRC_TYPE, CFG.LOUPE_SRC_ADDR] at key
  omega

theorem absent_gives (loads : s.cfg.load = some l) (early : l.hdr = none) (flash : l.src = 0)
    (absent : l.flash.present = false ∨ l.flash.sfdp = false) : Gives .streamHeader s fun t =>
      LoadEnded 2 7 5 t ∧ t.rd CFG.FLASH_INFO = 0 := by
  have no : (l.flash.present && l.flash.sfdp) = false := Bool.and_eq_false_iff.2 absent
  have loads' : (undiscovered l s).cfg.load = some l := loads
  refine ⟨_, exec_header_undiscovered loads early flash no, ?_⟩
  rw [fail_end2 loads' no]
  refine ⟨ended loads', ?_⟩
  rw [end_rd loads' notFacetEnds_info (by decide) (by decide), rd_wr_other _ (by decide), rd_wr_other _ (by decide), rd_wr_other _ (by decide)]
  exact rd_wr_same ..

/-- The cause with which the header of load l fails; 0 if it passes (R419, R426). -/
def headerCause (l : LoadS) (s : State) : Nat :=
  if isOxf5 l then oxf5Cause l (streamBytes l 0 (headerLen l)) s else nativeCause l (streamBytes l 0 (headerLen l)) s

theorem exec_header (loads : s.cfg.load = some l) (early : l.hdr = none) (sent : l.src ≠ 0) (magic : streamHas l 4 = true)
    (whole : streamHas l (headerLen l) = true) : exec .streamHeader s = .next (if headerCause l s = 0 then
      headerPasses l (headerOf l (streamBytes l 0 (headerLen l))) s else loadFail (headerCause l s) 0 s) := by
  refine congrArg Host.Outcome.next ?_
  rw [loads]
  dsimp only
  rw [early, if_neg (show ¬((none : Option Header).isSome = true) from Bool.noConfusion), if_neg sent, if_neg sent,
    if_neg fun h => sent h.1, magic, whole, if_neg (by decide), if_neg sent, if_neg sent]
  rfl

theorem passes_gives (loads : s.cfg.load = some l) (early : l.hdr = none) (sent : l.src ≠ 0) (magic : streamHas l 4 = true)
    (whole : streamHas l (headerLen l) = true) (good : headerCause l s = 0) : Gives .streamHeader s fun t =>
      t.rd CFG.LOAD_STATE = 3 ∧ t.rd CFG.LOAD_REGION = (headerOf l (streamBytes l 0 (headerLen l))).region ∧
        (∃ l', t.cfg.load = some l' ∧ l'.hdr = some (headerOf l (streamBytes l 0 (headerLen l)))) ∧
        ∀ f, f < 32 → (headerOf l (streamBytes l 0 (headerLen l))).region.testBit f = true → t.rd (CFG.FACET_STATE f) = 1 := by
  refine ⟨_, exec_header loads early sent magic whole, ?_⟩
  rw [if_pos good]
  exact header_facts ..

theorem fails_gives (loads : s.cfg.load = some l) (early : l.hdr = none) (sent : l.src ≠ 0) (command : l.auto = false)
    (magic : streamHas l 4 = true) (whole : streamHas l (headerLen l) = true) (bad : headerCause l s ≠ 0) : Gives .streamHeader s fun t =>
      LoadEnded (headerCause l s) (causeStatus (headerCause l s)) (if headerCause l s = 1 then 4 else 5) t := by
  refine ⟨_, exec_header loads early sent magic whole, ?_⟩
  rw [if_neg bad]
  exact failed loads (.inl command)

/-! Chunks (R420, R421). -/

/-- Byte of the stream at which chunk c begins. -/
def chunkPos (c : Nat) : Nat := 256 + c * chunkSize

/-- The chunk of load l and n body bytes has been read: a flash takes its time (R436). -/
def chunkRead (l : LoadS) (n : Nat) (s : State) : State :=
  if l.src = 0 then
    (s.upto (l.headAt + flashTicks l.flash (chunkPos l.chunk + n + 16 - 256) s)).wr CFG.LOAD_BYTES (chunkPos l.chunk + n + 16)
  else s

theorem chunkRead_cfg (n : Nat) : (chunkRead l n s).cfg = s.cfg := by
  unfold chunkRead
  split <;> rfl

/-- Load l of header h with the n body bytes of its next chunk taken in, p in plain. -/
def chunkTaken (l : LoadS) (h : Header) (n p : Nat) : LoadS :=
  dropTo (chunkPos l.chunk + n + 16) { l with
    hdr := some h, got := max l.got (chunkPos l.chunk + n + 16), chunk := l.chunk + 1, body := l.body + p * 2 ^ (8 * l.bodyLen), bodyLen := l.bodyLen + n }

/-- The check of the next chunk of load l with header h, once it has come (R420). -/
def chunkChecked (l : LoadS) (h : Header) (s : State) : State :=
  let n := chunkLen' h l.chunk
  let body := streamBytes l (chunkPos l.chunk) n
  let t := chunkRead l n s
  if streamBytes l (chunkPos l.chunk + n) 16 ≠ tagFor h l.chunk body n t then loadFail 6 (l.chunk * chunkBody) t
  else flpNext (modCfg (fun x => { x with load := some (chunkTaken l h n (plainOf h l.chunk body n t)) }) t)

theorem exec_chunk {h : Header} (loads : s.cfg.load = some l) (head : l.hdr = some h) (native : h.oxf5 = false) (more : l.chunk < h.chunks)
    (come : streamHas l (chunkPos l.chunk + chunkLen' h l.chunk + 16) = true) : exec .chunkCheck s = .next (chunkChecked l h s) := by
  refine congrArg Host.Outcome.next ?_
  rw [loads]
  dsimp only
  rw [head]
  dsimp only
  refine (if_neg ?_).trans rfl
  rintro (new | done | wait)
  · exact absurd (native.symm.trans new) Bool.noConfusion
  · omega
  · exact absurd (come.symm.trans wait) Bool.noConfusion

theorem tagFor_congr {h : Header} {c body n : Nat} (cfg : t.cfg = s.cfg) : tagFor h c body n t = tagFor h c body n s := by
  unfold tagFor keyOf
  rw [cfg]

theorem plainOf_congr {h : Header} {c body n : Nat} (cfg : t.cfg = s.cfg) : plainOf h c body n t = plainOf h c body n s := by
  unfold plainOf keyOf
  rw [cfg]

theorem chunkPasses_gives {h : Header} (loads : s.cfg.load = some l) (head : l.hdr = some h) (native : h.oxf5 = false) (more : l.chunk < h.chunks)
    (come : streamHas l (chunkPos l.chunk + chunkLen' h l.chunk + 16) = true)
    (tag : streamBytes l (chunkPos l.chunk + chunkLen' h l.chunk) 16 =
      tagFor h l.chunk (streamBytes l (chunkPos l.chunk) (chunkLen' h l.chunk)) (chunkLen' h l.chunk) s) :
    Gives .chunkCheck s fun t => ∃ l', t.cfg.load = some l' ∧ l'.chunk = l.chunk + 1 ∧ l'.bodyLen = l.bodyLen + chunkLen' h l.chunk ∧
      l'.body = l.body + plainOf h l.chunk (streamBytes l (chunkPos l.chunk) (chunkLen' h l.chunk)) (chunkLen' h l.chunk) s * 2 ^ (8 * l.bodyLen) := by
  refine ⟨_, exec_chunk loads head native more come, ?_⟩
  have cfg := chunkRead_cfg (l := l) (s := s) (chunkLen' h l.chunk)
  rw [chunkChecked]
  dsimp only
  rw [if_neg (not_not.2 (tag.trans (tagFor_congr cfg).symm)), plainOf_congr cfg]
  obtain ⟨l', load, chunk, len, body⟩ := flp_keeps (s := modCfg (fun x => { x with load := some (chunkTaken l h (chunkLen' h l.chunk)
    (plainOf h l.chunk (streamBytes l (chunkPos l.chunk) (chunkLen' h l.chunk)) (chunkLen' h l.chunk) s)) }) (chunkRead l (chunkLen' h l.chunk) s)) rfl
  obtain ⟨chunk', len', body'⟩ := drop_keeps (chunkPos l.chunk + chunkLen' h l.chunk + 16) { l with
    hdr := some h, got := max l.got (chunkPos l.chunk + chunkLen' h l.chunk + 16), chunk := l.chunk + 1,
    body := l.body + plainOf h l.chunk (streamBytes l (chunkPos l.chunk) (chunkLen' h l.chunk)) (chunkLen' h l.chunk) s * 2 ^ (8 * l.bodyLen),
    bodyLen := l.bodyLen + chunkLen' h l.chunk }
  exact ⟨l', load, chunk.trans chunk', len.trans len', body.trans body'⟩

theorem chunkFails_gives {h : Header} (loads : s.cfg.load = some l) (head : l.hdr = some h) (native : h.oxf5 = false) (more : l.chunk < h.chunks)
    (come : streamHas l (chunkPos l.chunk + chunkLen' h l.chunk + 16) = true)
    (tag : streamBytes l (chunkPos l.chunk + chunkLen' h l.chunk) 16 ≠
      tagFor h l.chunk (streamBytes l (chunkPos l.chunk) (chunkLen' h l.chunk)) (chunkLen' h l.chunk) s) :
    Gives .chunkCheck s fun t => LoadEnded 6 9 5 t ∧ t.rd CFG.LOAD_FAIL_AT = l.chunk * chunkBody := by
  refine ⟨_, exec_chunk loads head native more come, ?_⟩
  have cfg := chunkRead_cfg (l := l) (s := s) (chunkLen' h l.chunk)
  have loads' : (chunkRead l (chunkLen' h l.chunk) s).cfg.load = some l := (congrArg CfgS.load cfg).trans loads
  rw [chunkChecked]
  dsimp only
  rw [if_pos (fun e => tag (e.trans (tagFor_congr cfg)))]
  exact ⟨failed loads' (.inr (.inl (Option.isSome_iff_exists.2 ⟨h, head⟩))), fail_at loads' head (by decide)⟩

/-- Settles O47: clause by clause, a failing load by its end or its second try, and a chunk by the comparison of its tag. -/
theorem loadsComplete : Obligations.LoadsComplete := by
  unfold Obligations.LoadsComplete
  exact fun q s => ⟨auto_gives, fun _ => load_gives rfl, fun _ => load_gives rfl, flp_gives, abort_gives rfl, abort_gives rfl, fun l loads =>
    ⟨fun _ _ h => stream_gives h loads, hostTimeout_gives loads, flashTimeout_gives loads,
      fun flash auto first early => second_gives loads flash auto first early, absent_gives loads,
      fun early sent command magic whole => ⟨passes_gives loads early sent magic whole, fails_gives loads early sent command magic whole⟩,
      fun _ head native more come => ⟨chunkPasses_gives loads head native more come, chunkFails_gives loads head native more come⟩⟩⟩

end Sys2Proof.Proofs.Load
end

section
/-! Frames, and the end of a load (16_configuration.md R422 to R424, R427, R434, R441; 10_panes_scratch.md R281). -/
namespace Sys2Proof.Proofs.Frame
open Sys2Proof.Machine Sys2Proof.Laws Common CompleteCfg LoadFacts

variable {l : LoadS} {h : Header} {c : Manifest} {f i j n len p v : Nat} {sels : List Nat} {s t u : State}

/-! A frame that is written. -/

/-- Frame f, i of type ty has been written by put and is used up. -/
def framed (l : LoadS) (h : Header) (ty f i len p : Nat) (put : (f i payload : Nat) → State → State) (s : State) : State :=
  frameDone l h ⟨f, ty, i⟩ (16 + len) p (put f i p (frameRead l h (16 + len) s))

theorem frameRow_good {ty : Nat} (F : FrameIs l h ty f i len p s) {ready : Nat → State → Bool} (go : ready f s = true)
    (put : (f i payload : Nat) → State → State) : frameRow ty false ready put s = framed l h ty f i len p put s :=
  frame_row F false go put

theorem framed_used {ty : Nat} (put : (f i payload : Nat) → State → State) (s : State) : FrameUsed l ⟨f, ty, i⟩ len (framed l h ty f i len p put s) :=
  done_used ..

theorem frameRead_only (l : LoadS) (h : Header) (n : Nat) (s : State) : ∃ now reg, frameRead l h n s = { s with now := now, reg := reg } := by
  obtain ⟨now, reg, only, -⟩ := read_facts l h n s
  exact ⟨now, reg, only⟩

/-! MANIFEST (R281). -/

theorem discardQueue_facets (p : Nat) (s : State) : (discardQueue p s).facets = s.facets := by
  unfold discardQueue panFlag
  dsimp only
  split
  · rfl
  · split <;> simp

theorem queueLeft_facets (p : Nat) (s : State) : (queueLeft p s).facets = s.facets := by
  unfold queueLeft
  split
  · rw [modPane_facets, drawn_facets, store_facets]
  · rfl

theorem paneModeEff_facets (p v : Nat) (s : State) : (paneModeEff p v s).facets = s.facets := by
  unfold paneModeEff
  split
  · rfl
  · exact (queueLeft_facets ..).trans (discardQueue_facets ..)

theorem paneModeEff_own (p v : Nat) (s : State) : (paneModeEff p v s).rd (PAN.MODE p) = v := by
  unfold paneModeEff
  split
  · rename_i same
    exact same.symm
  · exact rd_wr_same ..

theorem paneModeEff_other {a b : Nat} (ne : b ≠ a) (v : Nat) (s : State) : (paneModeEff a v s).rd (PAN.MODE b) = s.rd (PAN.MODE b) := by
  refine frq (f := paneModeEff a v) (paneModeEff_fr a v s (fr_refl s) ?_ ?_ ?_ trivial) <;>
    simp only [PAN.MODE, PAN.DISCARD, PAN.EVFLAGS] <;> omega

theorem resetTaps_rd (p k : Nat) (s : State) : (resetTaps p s).rd k = s.rd k := rfl

/-- The panes before the n-th of FACETf have the modes that the manifest gives. -/
def modesSet (c : Manifest) (f n : Nat) (s : State) : State :=
  (List.range n).foldl (fun s j => resetTaps (48 * f + j) (paneModeEff (48 * f + j) (if c.queueMask.testBit j then 1 else 0) s)) s

theorem modesSet_succ (c : Manifest) (f n : Nat) (s : State) : modesSet c f (n + 1) s =
    resetTaps (48 * f + n) (paneModeEff (48 * f + n) (if c.queueMask.testBit n then 1 else 0) (modesSet c f n s)) := by
  unfold modesSet
  rw [List.range_succ, List.foldl_append]
  rfl

theorem modesSet_facets (c : Manifest) (f : Nat) (s : State) : ∀ n, (modesSet c f n s).facets = s.facets
  | 0 => rfl
  | n + 1 => by
    rw [modesSet_succ]
    exact (paneModeEff_facets ..).trans (modesSet_facets c f s n)

theorem modesSet_rd (s : State) (hj : j < n) : (modesSet c f n s).rd (PAN.MODE (48 * f + j)) = if c.queueMask.testBit j then 1 else 0 := by
  induction n with
  | zero => exact absurd hj (Nat.not_lt_zero j)
  | succ n ih =>
    rw [modesSet_succ, resetTaps_rd]
    by_cases e : j = n
    · subst e
      exact paneModeEff_own ..
    · rw [paneModeEff_other (by omega)]
      exact ih (by omega)

/-- The manifest is taken (R281). -/
def taken (c : Manifest) (f : Nat) (s : State) : State := s.modFacet f fun x => { x with man := c }

theorem putManifest_eq : putManifest c f i p s = modesSet c f 48 (taken c f s) := rfl

theorem putManifest_man : ((putManifest c f i p s).facetOf f).man = c := by
  have facets : (putManifest c f i p s).facets = (taken c f s).facets := modesSet_facets c f (taken c f s) 48
  have man : ((taken c f s).facetOf f).man = c := by rw [taken, facetOf_modFacet]
  rw [State.facetOf] at man ⊢
  rw [facets]
  exact man

theorem framed_mode {ty : Nat} {put : (f i payload : Nat) → State → State} (hf : f < 32) (hj : j < 48) :
    (framed l h ty f i len p put s).rd (PAN.MODE (48 * f + j)) = (put f i p (frameRead l h (16 + len) s)).rd (PAN.MODE (48 * f + j)) := by
  refine done_rd _ _ _ _ _ _ _ (.inr trivial) ?_ ?_ ?_ ?_ ?_ ?_ fun u => ?_ <;>
    simp only [PAN.MODE, CFG.FACET_LOADS, CFG.FACET_STATE, FAB.DESIGN_ID, FAB.RELEASED, HDI.APPLY_OUTCOME, HDI.MIRROR_STATE, VEN.STATE] <;> omega

theorem manifest_gives (F : FrameIs l h 1 f i len p s) : Gives (.manifestFrame c) s fun t => FrameUsed l ⟨f, 1, i⟩ len t ∧ (t.facetOf f).man = c ∧
    ∀ j, j < 48 → t.rd (PAN.MODE (48 * f + j)) = if c.queueMask.testBit j then 1 else 0 := by
  refine ⟨framed l h 1 f i len p (putManifest c) s, congrArg Host.Outcome.next (frameRow_good F rfl _), framed_used .., ?_, fun j hj => ?_⟩
  · exact (frameDone_keepsFacetMan (s0 := putManifest c f i p (frameRead l h (16 + len) s)) (nn := f) l h ⟨f, 1, i⟩ (16 + len) p _ rfl).trans putManifest_man
  · rw [framed_mode (inside_lt F (by decide)) hj, putManifest_eq, modesSet_rd _ hj]

/-! CELL and ROUTE (R422). -/

theorem cell_gives (c : List CellCfg) (F : FrameIs l h 2 f i len p s) : Gives (.cellFrame c) s fun t => FrameUsed l ⟨f, 2, i⟩ len t ∧
    ∀ u, u < 64 → Tab.get (fun _ => ⟨[], false, false, 0, 0#16, 0#16, 0#16⟩) t.cellCfg (cellKey (colOf f u) (rowOf f i)) =
      c.getD u ⟨[], false, false, 0, 0#16, 0#16, 0#16⟩ := by
  refine ⟨framed l h 2 f i len p (putCells c) s, congrArg Host.Outcome.next (frameRow_good F rfl _), framed_used .., fun u hu => ?_⟩
  have kept : (framed l h 2 f i len p (putCells c) s).cellCfg = (putCells c f i p (frameRead l h (16 + len) s)).cellCfg :=
    frameDone_keepsCellCfg l h ⟨f, 2, i⟩ (16 + len) p _ rfl
  rw [kept]
  exact cells_get c f i u 64 _ hu (Nat.le_refl _)

/-- The selects of a row frame written (R422). -/
def putRow (sels : List Nat) (f v _p : Nat) (s : State) : State := putSelects f v 0 (wholeRow sels) s

theorem wholeRow_length (sels : List Nat) : 2716 ≤ (wholeRow sels).length := by
  rw [wholeRow, List.length_append, List.length_replicate]
  simp only [rowSelects]
  omega

theorem wholeRow_listed {m : Nat} (hm : m < sels.length) : (wholeRow sels).getD m 0 = sels.getD m 0 := by
  rw [wholeRow, List.getD_append _ _ _ _ hm]

theorem wholeRow_beyond {m : Nat} (hm : m < 512) (beyond : sels.length ≤ m) : (wholeRow sels).getD m 0 = 1 := by
  rw [wholeRow, List.getD_append_right _ _ _ _ beyond]
  exact List.getD_replicate _ (by simp only [rowSelects]; omega)

theorem route_run (F : FrameIs l h 3 f i len p s) (good : selsBad 0 sels = false) :
    exec (.routeFrame sels) s = .next (framed l h 3 f i len p (putRow sels) s) := by
  refine congrArg Host.Outcome.next ?_
  rw [good]
  exact frameRow_good F rfl _

theorem route_sel {a k : Nat} (ha : a < 64) (hk : k < 8) :
    selOf (cellKey (colOf f a) (rowOf f i)) k (framed l h 3 f i len p (putRow sels) s) = (wholeRow sels).getD (8 * a + k) 0 := by
  have kept : (framed l h 3 f i len p (putRow sels) s).sels = (putRow sels f i p (frameRead l h (16 + len) s)).sels :=
    frameDone_keepsSels l h ⟨f, 3, i⟩ (16 + len) p _ rfl
  have at_ := (sels_get f i (8 * a + k) (by omega) (wholeRow sels) 0 (frameRead l h (16 + len) s)).1 (Nat.zero_le _)
    (by have := wholeRow_length sels; omega)
  rw [show (8 * a + k) / 8 = a by omega, show (8 * a + k) % 8 = k by omega] at at_
  rw [selOf, kept]
  exact at_

theorem route_gives (F : FrameIs l h 3 f i len p s) (good : selsBad 0 sels = false) : Gives (.routeFrame sels) s fun t =>
    FrameUsed l ⟨f, 3, i⟩ len t ∧ ∀ u k, u < 64 → k < 8 → 8 * u + k < sels.length →
      selOf (cellKey (colOf f u) (rowOf f i)) k t = sels.getD (8 * u + k) 0 :=
  ⟨_, route_run F good, framed_used .., fun _ _ ha hk listed => (route_sel ha hk).trans (wholeRow_listed listed)⟩

theorem route_beyond_gives (F : FrameIs l h 3 f i len p s) (good : selsBad 0 sels = false) : Gives (.routeFrame sels) s fun t =>
    FrameUsed l ⟨f, 3, i⟩ len t ∧ ∀ u k, u < 64 → k < 8 → sels.length ≤ 8 * u + k → selOf (cellKey (colOf f u) (rowOf f i)) k t = 1 :=
  ⟨_, route_run F good, framed_used .., fun _ _ ha hk beyond => (route_sel ha hk).trans (wholeRow_beyond (by omega) beyond)⟩

theorem badRoute_gives (F : FrameIs l h 3 f i len p s) (bad : selsBad 0 sels = true) : Gives (.routeFrame sels) s fun t => LoadEnded 9 9 5 t := by
  have run : exec (.routeFrame sels) s = .next (loadFail 9 l.bodyAt ((frameRead l h (16 + len) s).raise 35)) := by
    refine congrArg Host.Outcome.next ?_
    rw [bad]
    exact frame_row F true rfl _
  obtain ⟨loads, head, -⟩ := F
  refine ⟨_, run, failed (l := l) ?_ (.inr (.inl (Option.isSome_iff_exists.2 ⟨h, head⟩)))⟩
  obtain ⟨_, _, -, cfg, -⟩ := read_facts l h (16 + len) s
  rw [raise_cfg, cfg, loads]

/-! PANE and IO (R281, R422, R441). -/

/-- Does the next frame of the load set a pane whose domain is off? -/
def paneWakes (l : LoadS) (h : Header) (s : State) : Prop :=
  bodyHas l h 16 = true ∧ field (bodyBytes l h 0 16) 0 1 = 4 ∧ frameCause l h (bodyBytes l h 0 16) s = 0 ∧
    s.rd (CRH.PWR_STATE (field (bodyBytes l h 0 16) 1 1)) = 0

theorem pane_run_on (F : FrameIs l h 4 f i len p s) (on : s.rd (CRH.PWR_STATE f) = 3) :
    exec .paneFrame s = .next (framed l h 4 f i len p putPane s) := by
  have row : frameRow 4 false (fun f s => Nat.beq (s.rd (CRH.PWR_STATE f)) 3) putPane s = framed l h 4 f i len p putPane s :=
    frameRow_good F (by rw [on]; rfl) _
  obtain ⟨loads, head, -, -, -, -, facet, -⟩ := F
  refine congrArg Host.Outcome.next ?_
  rw [row, loads]
  dsimp only
  rw [head]
  refine if_neg ?_
  rintro ⟨-, -, -, off⟩
  rw [facet, on] at off
  exact absurd off (by decide)

theorem pane_run_off (F : FrameIs l h 4 f i len p s) (off : s.rd (CRH.PWR_STATE f) = 0) : exec .paneFrame s = .next (wakeDomain f s) := by
  obtain ⟨loads, head, -, come, -, type, facet, -, -, good, -⟩ := F
  refine congrArg Host.Outcome.next ?_
  rw [loads]
  dsimp only
  rw [head]
  refine (if_pos ⟨come, type, good, ?_⟩).trans ?_ <;> rw [facet]
  exact off

theorem putPane_mem (f j p : Nat) (s : State) : (putPane f j p s).mem =
    if (s.facetOf f).man.paneMask.testBit j = true then memWrite s.mem (paneBase (48 * f + j)) 0x2000 p else s.mem := by
  unfold putPane
  split
  · rw [State.store]
  · rfl

theorem pane_gives (F : FrameIs l h 4 f i len p s) (on : s.rd (CRH.PWR_STATE f) = 3) : Gives .paneFrame s fun t => FrameUsed l ⟨f, 4, i⟩ len t ∧
    t.mem = if (s.facetOf f).man.paneMask.testBit i = true then memWrite s.mem (paneBase (48 * f + i)) 0x2000 p else s.mem := by
  refine ⟨_, pane_run_on F on, framed_used .., ?_⟩
  obtain ⟨_, _, only⟩ := frameRead_only l h (16 + len) s
  rw [framed, done_mem, putPane_mem, only]
  rfl

theorem sleeping_gives (F : FrameIs l h 4 f i len p s) (off : s.rd (CRH.PWR_STATE f) = 0) : Gives .paneFrame s fun t =>
    t.rd (CRH.PWR_STATE f) = 1 ∧ t.cfg.load = some l := by
  have run := pane_run_off F off
  obtain ⟨loads, -⟩ := F
  exact ⟨_, run, rd_wr_same .., loads⟩

theorem io_gives (F : FrameIs l h 5 f i len p s) : Gives .ioFrame s fun t => FrameUsed l ⟨f, 5, i⟩ len t ∧ (t.facetOf f).io = p := by
  refine ⟨framed l h 5 f i len p (fun f _ p s => s.modFacet f (fun x => { x with io := p })) s,
    congrArg Host.Outcome.next (frameRow_good F rfl _), framed_used .., ?_⟩
  refine (frameDone_keepsFacetIo (s0 := (frameRead l h (16 + len) s).modFacet f fun x => { x with io := p }) (nn := f) l h ⟨f, 5, i⟩ (16 + len) p _ rfl).trans ?_
  rw [facetOf_modFacet]

/-! END (R423, R434). -/

/-- What the END frame of load l does with payload p, the frame at its place and of its length (R423, R434). -/
def nativeEnd (l : LoadS) (h : Header) (len p : Nat) (s : State) : State :=
  if l.bodyAt + 16 + len ≠ h.bodyLen ∨ p ≠ l.seen.length + 1 ∨ allComplete l h s = false then loadFail 7 l.bodyAt s
  else loadCompletes l h (if l.src = 0 then
    (s.upto (l.headAt + flashTicks l.flash (streamLen h - headerLen l) s)).wr CFG.LOAD_BYTES (streamLen h) else s)

theorem end_run (F : FrameIs l h 15 f i len p s) (native : h.oxf5 = false) : exec .endFrame s = .next (nativeEnd l h len p s) := by
  obtain ⟨loads, head, room, come, all, type, -, -, size, good, payload⟩ := F
  refine congrArg Host.Outcome.next ?_
  rw [native, if_neg Bool.false_ne_true] at payload
  have same : frameRead l h (16 + len) s = s := if_neg fun e => Bool.false_ne_true (native.symm.trans e.1)
  rw [loads]
  dsimp only
  rw [head]
  dsimp only
  rw [if_neg (by omega), if_neg (by rw [come]; exact Bool.noConfusion), if_neg (by rw [type]; exact fun e => e.1 rfl), if_neg (by rw [good]; exact fun e => e rfl),
    size, if_neg (by rw [all]; exact Bool.noConfusion), same, if_neg (by rw [native]; exact Bool.noConfusion), payload]
  dsimp only
  rw [nativeEnd]
  split
  · rfl
  · exact if_neg fun e => Bool.false_ne_true (native.symm.trans e.1)

/-- The time and the bytes that a flash took for the whole stream (R436). -/
theorem flashRead_keeps (l : LoadS) (h : Header) (s : State) : ∃ u, (if l.src = 0 then
    (s.upto (l.headAt + flashTicks l.flash (streamLen h - headerLen l) s)).wr CFG.LOAD_BYTES (streamLen h) else s) = u ∧
    u.cfg = s.cfg ∧ ∀ k, k ≠ CFG.LOAD_BYTES → u.rd k = s.rd k := by
  refine ⟨_, rfl, ?_⟩
  split
  · exact ⟨rfl, fun k ne => rd_wr_other _ ne _⟩
  · exact ⟨rfl, fun _ _ => rfl⟩

theorem end_gives (F : FrameIs l h 15 f i len p s) (native : h.oxf5 = false) (last : l.bodyAt + 16 + len = h.bodyLen)
    (count : p = l.seen.length + 1) (all : allComplete l h s = true) : Gives .endFrame s fun t =>
      LoadEnded 1 0 4 t ∧ (l.full = true → configDone t = true) ∧
      ∀ g, g < 32 → h.region.testBit g = true → s.rd (CFG.FACET_STATE g) = 1 → t.rd (CFG.FACET_STATE g) = 2 := by
  refine ⟨_, end_run F native, ?_⟩
  obtain ⟨loads, -⟩ := F
  obtain ⟨u, read, cfg, rd⟩ := flashRead_keeps l h s
  rw [nativeEnd, if_neg, read]
  · obtain ⟨ended, done, loaded⟩ := completes_facts (h := h) ((congrArg CfgS.load cfg).trans loads)
    refine ⟨ended, done, fun g hg inside loading => loaded g hg inside ((rd _ ?_).trans loading)⟩
    simp only [CFG.FACET_STATE, CFG.LOAD_BYTES]
    omega
  · rintro (wrong | wrong | wrong)
    · exact wrong last
    · exact wrong count
    · exact Bool.false_ne_true (wrong.symm.trans all)

theorem badEnd_gives (F : FrameIs l h 15 f i len p s) (native : h.oxf5 = false) (count : p ≠ l.seen.length + 1) :
    Gives .endFrame s fun t => LoadEnded 7 9 5 t := by
  refine ⟨_, end_run F native, ?_⟩
  obtain ⟨loads, head, -⟩ := F
  rw [nativeEnd, if_pos (.inr (.inl count))]
  exact failed loads (.inr (.inl (Option.isSome_iff_exists.2 ⟨h, head⟩)))

/-- Settles O48: clause by clause, what a row writes and that the use of its frame leaves it, and the END frame by its checks. -/
theorem framesComplete : Obligations.FramesComplete := by
  unfold Obligations.FramesComplete
  exact fun l h f i len p s => ⟨fun _ => manifest_gives, cell_gives, fun _ => route_gives, fun _ => route_beyond_gives,
    fun _ => badRoute_gives, pane_gives, sleeping_gives, io_gives, fun F native => ⟨end_gives F native, badEnd_gives F native⟩⟩

end Sys2Proof.Proofs.Frame
end

section
/-! Keys and tampering (16_configuration.md R428 to R431). -/
namespace Sys2Proof.Proofs.Key
open Sys2Proof.Machine Sys2Proof.Laws Common CompleteCfg LoadFacts

variable {q : Req} {b code v : Nat} {ok : Bool} {s : State}

/-! Commands (R428, R429). -/

theorem zeroise_gives (h : Writes q CFG.KEY_CTRL 1 2 s) (free : ∀ c ∈ keyConds q 2 s, c.1 = false) : Gives (.zeroise q) s fun t =>
    Answered q 0 t ∧ t.cfg.bbKey = 0 ∧ t.rd CFG.BBRAM_KEY_ID = 0 ∧ t.bit CFG.KEY_STATUS 1 = false ∧ t.bit CFG.TAMPER_CAUSE 1 = true ∧
    t.cfg.job = some (2, 0) := by
  refine givesCmd' rfl h free fun t like => ?_
  rw [like_k like (by decide), bit_of_rd (like_k like (by decide)), bit_of_rd (like_k like (by decide)), like.cfg]
  obtain ⟨key, id, there, cause, -⟩ := zero_facts 1 (s.setBit CFG.KEY_STATUS 3 true)
  exact ⟨key, id, there, cause, rfl⟩

/-! Their ends (R428, R429). -/

/-- The key command of job (code, v) has ended. -/
def keyEnded (code v : Nat) (ok : Bool) (s : State) : State :=
  (((modCfg (fun c => { c with job := none }) (keyEnds code v ok s)).setBit CFG.KEY_STATUS 3 false).setBit CFG.KEY_STATUS 2
    (!ok && Nat.ble 3 code)).raise 37

theorem exec_keyEnd (job : s.cfg.job = some (code, v)) : exec (.keyCommandEnd ok) s = .next (keyEnded code v ok s) := by
  refine congrArg Host.Outcome.next ?_
  rw [job]
  rfl

theorem keyEnded_cfg : (keyEnded code v ok s).cfg = { (keyEnds code v ok s).cfg with job := none } := by
  unfold keyEnded
  rw [raise_cfg, setBit_cfg, setBit_cfg]
  rfl

theorem keyEnd_gives (job : s.cfg.job = some (code, v)) : Gives (.keyCommandEnd ok) s fun t => t.cfg.job = none ∧
    t.bit CFG.KEY_STATUS 3 = false ∧ (code = 1 → t.cfg.bbKey = v % 2 ^ 256 ∧ t.rd CFG.BBRAM_KEY_ID = v / 2 ^ 256 % 2 ^ 64 ∧
      t.bit CFG.KEY_STATUS 1 = true) := by
  obtain ⟨busy, -, battery, -⟩ := job_bit code v ok s
  refine ⟨_, exec_keyEnd job, congrArg CfgS.job keyEnded_cfg, busy, ?_⟩
  rintro rfl
  refine ⟨(congrArg CfgS.bbKey keyEnded_cfg).trans rfl, (job_end 1 v ok s _ (by decide)).trans ?_, battery.trans (bit_setBit_eq ..)⟩
  show ((s.wr CFG.BBRAM_KEY_ID (v / 2 ^ 256 % 2 ^ 64)).setBit CFG.KEY_STATUS 1 true).rd CFG.BBRAM_KEY_ID = _
  rw [rd_setBit_other _ (by decide), rd_wr_same]

theorem fuse_read (v : Nat) (s : State) : (keyEnds 3 v true s).rd CFG.FUSE_KEY_ID = v / 2 ^ 256 % 2 ^ 64 := by
  show ((s.wr CFG.FUSE_KEY_ID (v / 2 ^ 256 % 2 ^ 64)).setBit CFG.KEY_STATUS 0 true).rd CFG.FUSE_KEY_ID = _
  rw [rd_setBit_other _ (by decide), rd_wr_same]

theorem policy_read (v : Nat) (s : State) : (keyEnds 4 v true s).rd CFG.POLICY = s.rd CFG.POLICY ||| v % 16 := by
  have low : v % 16 &&& 15 = v % 16 := (Nat.and_two_pow_sub_one_eq_mod (v % 16) 4).trans (Nat.mod_mod v 16)
  refine (rd_wr_same s CFG.POLICY (s.rd CFG.POLICY ||| v % 16 &&& 15)).trans ?_
  rw [low]

theorem goodEnd_gives (job : s.cfg.job = some (code, v)) : Gives (.keyCommandEnd true) s fun t => t.bit CFG.KEY_STATUS 2 = false ∧
    (code = 3 → t.cfg.fuseKey = v % 2 ^ 256 ∧ t.rd CFG.FUSE_KEY_ID = v / 2 ^ 256 % 2 ^ 64 ∧ t.bit CFG.KEY_STATUS 0 = true) ∧
    (code = 4 → t.rd CFG.POLICY = s.rd CFG.POLICY ||| v % 16) := by
  obtain ⟨-, bad, -, fused⟩ := job_bit code v true s
  refine ⟨_, exec_keyEnd job, bad, ?_, ?_⟩
  · rintro rfl
    exact ⟨(congrArg CfgS.fuseKey keyEnded_cfg).trans rfl, (job_end 3 v true s _ (by decide)).trans (fuse_read v s), fused.trans (bit_setBit_eq ..)⟩
  · rintro rfl
    exact (job_end 4 v true s _ (by decide)).trans (policy_read v s)

/-! Tampering (R430). -/

/-- The battery domain has lost its content: the causes and their count are open but for the loss itself. -/
def lost (s : State) : State :=
  (((s.wr CFG.BBRAM_KEY_ID 0).setBit CFG.KEY_STATUS 1 false).wr CFG.TAMPER_CAUSE (16 + s.freeVal % 16)).wr CFG.TAMPER_COUNT
    (s.freeVal / 16 % 2 ^ 32)

theorem notes_keep : ∀ (l : List Nat) (s : State), (l.foldl (fun t b => t.note CFG.TAMPER_CAUSE b) s).reg = s.reg ∧
    (l.foldl (fun t b => t.note CFG.TAMPER_CAUSE b) s).cfg = s.cfg
  | [], _ => ⟨rfl, rfl⟩
  | b :: l, s => notes_keep l (s.note CFG.TAMPER_CAUSE b)

theorem notes_rd (l : List Nat) (s : State) (k : Nat) : (l.foldl (fun t b => t.note CFG.TAMPER_CAUSE b) s).rd k = s.rd k :=
  congrArg (fun r => Tab.get Dict.dflt r k) (notes_keep l s).1

/-- Its key is gone with it. -/
def emptied (s : State) : State := (modCfg (fun c => { c with bbKey := 0 }) (lost s)).drawn

theorem emptied_rd (s : State) (k : Nat) : (emptied s).rd k = (lost s).rd k := rfl

theorem bit_of_sum {x : Nat} (small : x < 2 ^ 4) : (2 ^ 4 + x).testBit 4 = true := by
  rw [Nat.testBit_two_pow_add_eq, Nat.testBit_lt_two_pow small]
  rfl

theorem loss_gives : Gives (.tamper 4) s fun t => t.cfg.bbKey = 0 ∧ t.rd CFG.BBRAM_KEY_ID = 0 ∧ t.bit CFG.KEY_STATUS 1 = false ∧
    t.bit CFG.TAMPER_CAUSE 4 = true := by
  refine ⟨(List.range 5).foldl (fun t b => t.note CFG.TAMPER_CAUSE b) (emptied s), rfl, ?_⟩
  beta_reduce
  rw [(notes_keep ..).2, State.bit, State.bit, notes_rd, notes_rd, notes_rd, emptied_rd, emptied_rd, emptied_rd]
  unfold lost
  refine ⟨rfl, ?_, ?_, ?_⟩
  · rw [rd_wr_other _ (by decide), rd_wr_other _ (by decide), rd_setBit_other _ (by decide), rd_wr_same]
  · rw [rd_wr_other _ (by decide), rd_wr_other _ (by decide)]
    exact bit_setBit_eq ..
  · rw [rd_wr_other _ (by decide), rd_wr_same]
    exact bit_of_sum (Nat.mod_lt _ (by decide))

/-- Settles O49: clause by clause, the end of a command by its code, and a loss of the battery domain by its two registers. -/
theorem keysComplete : Obligations.KeysComplete := by
  unfold Obligations.KeysComplete
  refine fun q s => ⟨fun h free => keyCmd 1 rfl h free (by decide), zeroise_gives, fun h free => keyCmd 3 rfl h free (by decide),
    fun h free => keyCmd 4 rfl h free (by decide), fun _ _ job => ⟨fun _ => keyEnd_gives job, goodEnd_gives job⟩, fun b listed => ?_, loss_gives⟩
  simp only [List.mem_cons, List.not_mem_nil, or_false] at listed
  rcases listed with rfl | rfl | rfl
  · exact tamper_gives 0 s
  · exact tamper_gives 2 s
  · exact tamper_gives 3 s

end Sys2Proof.Proofs.Key
end

section
/-! The loupe (17_scrubbing.md R445 to R455). -/
namespace Sys2Proof.Proofs.Loupe
open Sys2Proof.Machine Sys2Proof.Laws Common CompleteCfg LoadFacts

variable {q : Req} {x : FrameId} {u v : Upset} {p b : Nat} {s t : State}

/-! A frame scanned (R445, R447, R448, R450). -/

theorem clean_gives (on : loupeOn s = true) (next : (scanFrom s.cfg.scan s).or (scanFrom 0 s) = some p)
    (none : s.upsets.filter (upsetOf (frameAtPos p)) = []) : Gives .loupeFrameScan s fun t => t.upsets = s.upsets ∧
      t.rd CFG.LOUPE_HEARTBEAT = (s.rd CFG.LOUPE_HEARTBEAT + 1) % 2 ^ 32 ∧ t.rd CFG.LOUPE_CE = s.rd CFG.LOUPE_CE ∧
      t.rd CFG.LOUPE_UE = s.rd CFG.LOUPE_UE ∧ t.now = max s.now s.cfg.scanAt + scanTicks (frameAtPos p) := by
  refine scan_gives on next _ fun t => ?_
  dsimp only
  rw [no_up none]
  intro upsets now _ rd beat
  refine ⟨upsets, beat, rd _ (by decide) (by decide) (by decide), rd _ (by decide) (by decide) (by decide), ?_⟩
  have early : s.now ≤ max s.now s.cfg.scanAt := le_max_left ..
  omega

theorem corrected_gives (on : loupeOn s = true) (next : (scanFrom s.cfg.scan s).or (scanFrom 0 s) = some p)
    (one : s.upsets.filter (upsetOf (frameAtPos p)) = [u]) : Gives .loupeFrameScan s fun t => t.upsets = s.upsets.erase u ∧
      t.rd CFG.LOUPE_HEARTBEAT = (s.rd CFG.LOUPE_HEARTBEAT + 1) % 2 ^ 32 ∧
      t.rd CFG.LOUPE_CE = min (s.rd CFG.LOUPE_CE + 1) (2 ^ 64 - 1) ∧ t.rd CFG.LOUPE_UE = s.rd CFG.LOUPE_UE := by
  refine scan_gives on next _ fun t => ?_
  dsimp only
  intro upsets _ _ rd beat
  obtain ⟨erased, -, ce, ue⟩ := one_up (b := max s.now s.cfg.scanAt) one
  exact ⟨upsets.trans erased, beat, (rd _ (by decide) (by decide) (by decide)).trans ce, (rd _ (by decide) (by decide) (by decide)).trans ue⟩

theorem scanWord_pair (x : FrameId) (u v : Upset) (s : State) : (scanWord x [u, v] s).upsets = s.upsets ∧ (scanWord x [u, v] s).cfg = s.cfg ∧
    ∀ k, k ≠ CFG.LOUPE_EVFLAGS → k ≠ CFG.LOUPE_LAST → k ≠ CFG.LOUPE_SEL → (scanWord x [u, v] s).rd k = s.rd k := by
  unfold scanWord
  dsimp only
  split
  · obtain ⟨upsets, -, cfg⟩ := last_rest 2 1 x (s.bump 64 CFG.LOUPE_SEL)
    exact ⟨upsets, cfg, fun k hf hl hs => (last_rd hf hl).trans (bump_ne hs)⟩
  · exact ⟨rfl, rfl, fun _ _ _ _ => rfl⟩

theorem scanFrame_pair (two : s.upsets.filter (upsetOf x) = [u, v]) (word : u.word = v.word) :
    scanFrame x b s = uncorrectable x (scanWord x [u, v] (s.upto (wordRead b u.word))) := by
  have struck : struckWords [u, v] = [u.word] := by
    show putNum u.word [v.word] = _
    rw [putNum, word, if_neg (Nat.lt_irrefl _), if_pos rfl]
  have both : (([u, v] : List Upset).filter fun y => Nat.beq y.word u.word) = [u, v] := by simp [word]
  have wrong : crcAgrees x (scanWord x [u, v] (s.upto (wordRead b u.word))) = false := by
    rw [crcAgrees, (scanWord_pair x u v _).1]
    show (s.upsets.filter (upsetOf x)).isEmpty = false
    rw [two]
    rfl
  rw [scanFrame, two]
  rw [struck, List.foldl_cons, List.foldl_nil, both, wrong]
  rfl

theorem waitRoom_congr (cfg : t.cfg = s.cfg) (rd : ∀ f, t.rd (CFG.LOUPE_SRC_TYPE f) = s.rd (CFG.LOUPE_SRC_TYPE f)) : waitRoom x t = waitRoom x s := by
  have waits : reloadWaits t = reloadWaits s := funext fun y => by unfold reloadWaits; rw [cfg, rd]
  rw [waitRoom, waitRoom, waits, cfg]

theorem srcType_ne (f : Nat) : CFG.LOUPE_SRC_TYPE f ≠ CFG.LOUPE_EVFLAGS ∧ CFG.LOUPE_SRC_TYPE f ≠ CFG.LOUPE_LAST ∧
    CFG.LOUPE_SRC_TYPE f ≠ CFG.LOUPE_SEL ∧ CFG.LOUPE_SRC_TYPE f ≠ CFG.LOUPE_UE := by
  simp only [CFG.LOUPE_SRC_TYPE, CFG.LOUPE_EVFLAGS, CFG.LOUPE_LAST, CFG.LOUPE_SEL, CFG.LOUPE_UE]
  omega

/-- The uncorrectable frame x has been counted and recorded (R450). -/
def recorded (x : FrameId) (s : State) : State := loupeLast 3 x (loupeFlag 2 (s.bump 64 CFG.LOUPE_UE))

theorem recorded_cfg (x : FrameId) (s : State) : (recorded x s).cfg = s.cfg := (last_rest 3 2 x (s.bump 64 CFG.LOUPE_UE)).2.2

theorem recorded_rd {k : Nat} (hf : k ≠ CFG.LOUPE_EVFLAGS) (hl : k ≠ CFG.LOUPE_LAST) (hu : k ≠ CFG.LOUPE_UE) : (recorded x s).rd k = s.rd k :=
  (last_rd hf hl).trans (bump_ne hu)

theorem uncorrectable_waits (fresh : s.cfg.waiting.contains x = false) (other : ∀ r, s.cfg.reload = some r → r.frame ≠ x)
    (room : s.cfg.waiting.length < waitRoom x s) : (uncorrectable x s).cfg.waiting = s.cfg.waiting ++ [x] := by
  have idle : (s.cfg.reload.any fun r => decide (r.frame = x)) = false := by
    cases reload : s.cfg.reload with
    | none => rfl
    | some r => exact decide_eq_false (other r reload)
  have cfg := recorded_cfg x s
  have room' : (recorded x s).cfg.waiting.length < waitRoom x (recorded x s) := by
    rw [waitRoom_congr cfg fun f => recorded_rd (srcType_ne f).1 (srcType_ne f).2.1 (srcType_ne f).2.2.2, cfg]
    exact room
  have out : uncorrectable x s = if (recorded x s).cfg.waiting.contains x || ((recorded x s).cfg.reload.any fun r => decide (r.frame = x)) then recorded x s
      else if (recorded x s).cfg.waiting.length < waitRoom x (recorded x s) then modCfg (fun c => { c with waiting := c.waiting ++ [x] }) (recorded x s)
      else (recorded x s).bump 64 CFG.LOUPE_DEFERRED := rfl
  rw [out, if_neg (by rw [cfg, fresh, idle]; exact Bool.noConfusion), if_pos room']
  show (recorded x s).cfg.waiting ++ [x] = _
  rw [cfg]

theorem pair_waits (two : s.upsets.filter (upsetOf x) = [u, v]) (word : u.word = v.word) (fresh : s.cfg.waiting.contains x = false)
    (other : ∀ r, s.cfg.reload = some r → r.frame ≠ x) (room : s.cfg.waiting.length < waitRoom x s) :
    (scanFrame x b s).cfg.waiting = s.cfg.waiting ++ [x] := by
  obtain ⟨-, cfg, rd⟩ := scanWord_pair x u v (s.upto (wordRead b u.word))
  have cfg' : (scanWord x [u, v] (s.upto (wordRead b u.word))).cfg = s.cfg := cfg
  rw [scanFrame_pair two word, uncorrectable_waits, cfg']
  · rw [cfg', fresh]
  · rw [cfg']
    exact other
  · rw [waitRoom_congr cfg' fun f => rd _ (srcType_ne f).1 (srcType_ne f).2.1 (srcType_ne f).2.2.1, cfg']
    exact room

theorem uncorrectable_gives (on : loupeOn s = true) (next : (scanFrom s.cfg.scan s).or (scanFrom 0 s) = some p)
    (two : s.upsets.filter (upsetOf (frameAtPos p)) = [u, v]) (word : u.word = v.word) : Gives .loupeFrameScan s fun t => t.upsets = s.upsets ∧
      t.rd CFG.LOUPE_HEARTBEAT = (s.rd CFG.LOUPE_HEARTBEAT + 1) % 2 ^ 32 ∧
      t.rd CFG.LOUPE_UE = min (s.rd CFG.LOUPE_UE + 1) (2 ^ 64 - 1) ∧ t.rd CFG.LOUPE_CE = s.rd CFG.LOUPE_CE ∧
      (s.cfg.waiting.contains (frameAtPos p) = false → (∀ r, s.cfg.reload = some r → r.frame ≠ frameAtPos p) →
        s.cfg.waiting.length < waitRoom (frameAtPos p) s → t.cfg.waiting = s.cfg.waiting ++ [frameAtPos p]) := by
  refine scan_gives on next _ fun t => ?_
  dsimp only
  intro upsets _ waiting rd beat
  obtain ⟨kept, -, ue, ce, -⟩ := two_up (b := max s.now s.cfg.scanAt) two word
  exact ⟨upsets.trans kept, beat, (rd _ (by decide) (by decide) (by decide)).trans ue, (rd _ (by decide) (by decide) (by decide)).trans ce,
    fun fresh other room => waiting.trans (pair_waits two word fresh other room)⟩

/-! Reloads (R450 to R452). -/

/-- The reload of frame x as it starts, before its first read (R450). -/
def reloadOf (x : FrameId) (s : State) : Reload :=
  let span := ((s.cfg.refs.find? fun r => decide (r.id = x)).map fun r => (r.lo, r.hi)).getD (0, 0)
  let a := span.1 / 256 * 256
  ⟨x, s.rd (CFG.LOUPE_SRC_TYPE x.f), a, span.2, none, false, s.rd (CFG.LOUPE_SRC_ADDR x.f), a, 0⟩

/-- The first waiting frame has begun its reload. -/
def reloadBegun (x : FrameId) (s : State) : State :=
  modCfg (fun c => { c with waiting := c.waiting.erase x, reload := some (reloadOf x s) }) s

theorem reload_gives (on : loupeOn s = true) (idle : s.cfg.reload = none) (first : s.cfg.waiting.find? (fun x => !(reloadWaits s x)) = some x) :
    Gives .loupeReload s fun t => t.cfg.waiting = s.cfg.waiting.erase x ∧
      ∃ r, t.cfg.reload = some r ∧ r.frame = x ∧ r.src = s.rd (CFG.LOUPE_SRC_TYPE x.f) := by
  have run : exec .loupeReload s = .next (reloadNext (reloadBegun x s)) := by
    refine congrArg Host.Outcome.next ((if_pos ⟨on, idle⟩).trans ?_)
    rw [first]
    rfl
  obtain ⟨waiting, r, reload, frame, src⟩ := reload_next (s := reloadBegun x s) rfl
  exact ⟨_, run, waiting, r, reload, frame, src⟩

/-- No frame reloads any more. -/
def reloadOver (s : State) : State := modCfg (fun c => { c with reload := none }) s

theorem reloadChunks_over (r : Reload) (h : Header) (s : State) : ∀ k c, reloadChunks r h (reloadOver s) k c = reloadChunks r h s k c
  | 0, _ => rfl
  | k + 1, c => by
    unfold reloadChunks
    rw [reloadChunks_over r h s k]
    rfl

theorem reloadGood_over (r : Reload) (s : State) : reloadGood r (reloadOver s) = reloadGood r s := by
  have payload : ∀ e h, reloadPayload r e h (reloadOver s) = reloadPayload r e h s := fun e h => by
    unfold reloadPayload
    dsimp only
    rw [reloadChunks_over]
    rfl
  unfold reloadGood
  simp only [payload]
  rfl

theorem exec_reloadEnd {r : Reload} (reload : s.cfg.reload = some r) (idle : r.wait = none) (all : r.src = 2 → r.bad = true ∨ r.stop ≤ r.next) (ok : Bool) :
    exec (.loupeReloadEnd ok) s = .next (if ok && r.src != 0 && !r.bad && reloadGood r (reloadOver s) then
      loupeFlag 3 ((modCfg (fun c => { c with damaged := c.damaged.erase r.frame })
        (undo (((reloadOver s).upto (fabEdge (s.now + 1))).upsets.filter (upsetOf r.frame)) ((reloadOver s).upto (fabEdge (s.now + 1))))).bump 64 CFG.LOUPE_RELOADS)
      else reloadFailed r.frame (reloadOver s)) := by
  have ends : (r.wait.isSome || (Nat.beq r.src 2 && !r.bad && Nat.blt r.next r.stop)) = false := by
    rw [idle, Option.isSome_none, Bool.false_or]
    by_cases mesh : r.src = 2
    · rcases all mesh with bad | read
      · rw [bad, Bool.not_true, Bool.and_false, Bool.false_and]
      · rw [show Nat.blt r.next r.stop = false from CompleteDsp.nble (by omega), Bool.and_false]
    · rw [Bool.eq_false_iff.2 fun e => mesh (Nat.eq_of_beq_eq_true e), Bool.false_and, Bool.false_and]
  refine congrArg Host.Outcome.next ?_
  rw [reload]
  dsimp only
  rw [ends]
  rfl

theorem restored_gives {r : Reload} (reload : s.cfg.reload = some r) (idle : r.wait = none) (all : r.src = 2 → r.bad = true ∨ r.stop ≤ r.next)
    (source : r.src ≠ 0) (read : r.bad = false) (good : reloadGood r s = true) : Gives (.loupeReloadEnd true) s fun t => t.cfg.reload = none ∧
      t.rd CFG.LOUPE_RELOADS = min (s.rd CFG.LOUPE_RELOADS + 1) (2 ^ 64 - 1) ∧ t.bit CFG.LOUPE_EVFLAGS 3 = true := by
  have pass : (true && r.src != 0 && !r.bad && reloadGood r (reloadOver s)) = true := by
    rw [reloadGood_over, good, read, bne_iff_ne.2 source]
    rfl
  refine ⟨_, (exec_reloadEnd reload idle all true).trans (congrArg _ (if_pos pass)), ?_, ?_, flag_set ..⟩
  · rw [loupeFlag, flag_cfg, bump_cfg]
    refine (congrArg CfgS.reload (undo_keepsCfgLoupe (s0 := reloadOver s) _ _ ?_)).trans rfl
    rfl
  · rw [loupeFlag, rd_flag_other _ (by decide), bump_eq]
    have kept : (undo (((reloadOver s).upto (fabEdge (s.now + 1))).upsets.filter (upsetOf r.frame)) ((reloadOver s).upto (fabEdge (s.now + 1)))).rd CFG.LOUPE_RELOADS
        = s.rd CFG.LOUPE_RELOADS := (undo_fr (V := fun _ => False) (M := True) _ _ (fr_refl _)).1 _ not_false
    exact congrArg (fun n => min (n + 1) (2 ^ 64 - 1)) kept

theorem unrestored_gives {r : Reload} (reload : s.cfg.reload = some r) (idle : r.wait = none) (all : r.src = 2 → r.bad = true ∨ r.stop ≤ r.next) :
    Gives (.loupeReloadEnd false) s fun t => t.cfg.reload = none ∧ t.bit CFG.LOUPE_DAMAGED r.frame.f = true ∧
      t.rd CFG.LOUPE_RELOAD_FAIL = min (s.rd CFG.LOUPE_RELOAD_FAIL + 1) (2 ^ 64 - 1) :=
  ⟨_, exec_reloadEnd reload idle all false, reload_failed r.frame (reloadOver s) rfl⟩

/-! Heartbeat and enable (R454, R455). -/

theorem idle_gives (on : loupeOn s = true) (idle : scanFrom 0 s = none ∨ s.cfg.reload.isSome = true) : Gives .loupeHeartbeatIdle s fun t =>
    t.rd CFG.LOUPE_HEARTBEAT = (s.rd CFG.LOUPE_HEARTBEAT + 1) % 2 ^ 32 :=
  ⟨heartbeat s, congrArg Host.Outcome.next (if_pos ⟨on, idle⟩), rd_wr_same ..⟩

/-- The heartbeat has been sampled (R454). -/
def sampled (s : State) : State :=
  modCfg (fun c => { c with beatLast := s.rd CFG.LOUPE_HEARTBEAT, beatAt := (s.upto (s.cfg.beatAt + 1000 * ticksPerUs)).now })
    (s.upto (s.cfg.beatAt + 1000 * ticksPerUs))

/-- A loupe that stood still has been reset (R454). -/
def restarted (s : State) : State :=
  modCfg (fun c => { c with scan := 0 })
    (((((abandon (fun _ _ => true) (sampled s)).bump 32 CFG.LOUPE_RESETS).setBit CFG.LOUPE_EVFLAGS 6 true).note CFG.LOUPE_EVFLAGS 6).raise 40)

theorem exec_check (on : loupeOn s = true) (free : (s.tgtOf 0).held = false) :
    exec .heartbeatCheck s = .next (if s.rd CFG.LOUPE_HEARTBEAT = s.cfg.beatLast then restarted s else sampled s) :=
  congrArg Host.Outcome.next (if_pos ⟨on, free⟩)

theorem restarted_cfg (s : State) : (restarted s).cfg = { (abandon (fun _ _ => true) (sampled s)).cfg with scan := 0 } := by
  unfold restarted
  show CfgS.mk .. = _
  rw [raise_cfg, note_cfg, setBit_cfg, bump_cfg]

theorem restarted_rd {k : Nat} (he : k ≠ CFG.LOUPE_EVFLAGS) : (restarted s).rd k = ((abandon (fun _ _ => true) (sampled s)).bump 32 CFG.LOUPE_RESETS).rd k := by
  show (State.raise _ 40).rd k = _
  rw [rd_raise, rd_note, rd_setBit_other _ he]

theorem restarted_flag (s : State) : (restarted s).bit CFG.LOUPE_EVFLAGS 6 = true := by
  show (State.raise _ 40).bit CFG.LOUPE_EVFLAGS 6 = true
  rw [bit_of_rd (rd_raise ..)]
  exact bit_setBit_eq (((abandon (fun _ _ => true) (sampled s))).bump 32 CFG.LOUPE_RESETS) CFG.LOUPE_EVFLAGS 6 true

theorem stuck_gives (on : loupeOn s = true) (free : (s.tgtOf 0).held = false) (stuck : s.rd CFG.LOUPE_HEARTBEAT = s.cfg.beatLast) :
    Gives .heartbeatCheck s fun t => t.rd CFG.LOUPE_RESETS = min (s.rd CFG.LOUPE_RESETS + 1) (2 ^ 32 - 1) ∧ t.cfg.scan = 0 ∧ t.cfg.waiting = [] ∧
      t.cfg.reload = none ∧ t.bit CFG.LOUPE_EVFLAGS 6 = true := by
  refine ⟨restarted s, (exec_check on free).trans (congrArg _ (if_pos stuck)), ?_⟩
  obtain ⟨waiting, reload⟩ := abandon_all (sampled s)
  rw [restarted_cfg, restarted_rd (by decide), bump_eq, abandon_rd (by decide)]
  exact ⟨rfl, rfl, waiting, reload, restarted_flag s⟩

theorem beating_gives (on : loupeOn s = true) (free : (s.tgtOf 0).held = false) (beats : s.rd CFG.LOUPE_HEARTBEAT ≠ s.cfg.beatLast) :
    Gives .heartbeatCheck s fun t => t.rd CFG.LOUPE_RESETS = s.rd CFG.LOUPE_RESETS ∧ t.cfg.beatLast = s.rd CFG.LOUPE_HEARTBEAT :=
  ⟨sampled s, (exec_check on free).trans (congrArg _ (if_neg beats)), rfl, rfl⟩

theorem enable_gives {v : Nat} (h : Writes q CFG.LOUPE_EN 1 v s) : Gives (.loupeEnWrite q v) s fun t => Answered q 0 t ∧ t.rd CFG.LOUPE_EN = v ∧
    (v = 0 → t.cfg.waiting = [] ∧ t.cfg.reload = none) ∧ (v ≠ 0 → t.cfg.scan = 0) := by
  refine givesWr' rfl h noC fun t like => ?_
  rw [like_k like (by decide), like.cfg]
  have set : (s.wr CFG.LOUPE_EN v).rd CFG.LOUPE_EN = v := rd_wr_same ..
  by_cases off : v = 0
  · rw [loupeEnEff, if_pos off]
    exact ⟨(abandon_rd (by decide)).trans set, fun _ => abandon_all _, fun on => absurd off on⟩
  · rw [loupeEnEff, if_neg off]
    exact ⟨set, fun e => absurd e off, fun _ => rfl⟩

/-- Settles O50: clause by clause, a scan by the upsets of its frame, the end of a reload by its source, and a check by the
heartbeat. -/
theorem loupeCompletes : Obligations.LoupeCompletes := by
  unfold Obligations.LoupeCompletes
  exact fun s => ⟨fun _ on next => ⟨clean_gives on next, fun _ => corrected_gives on next, fun _ _ => uncorrectable_gives on next⟩,
    fun _ => reload_gives, fun _ reload idle all => ⟨restored_gives reload idle all, unrestored_gives reload idle all⟩, idle_gives,
    fun on free => ⟨stuck_gives on free, beating_gives on free⟩, fun _ _ => enable_gives⟩

end Sys2Proof.Proofs.Loupe
end

section
/-! The supervisor and the event matrix (18_supervisor_events.md R460 to R471; 15_clocks_reset.md R407). -/
namespace Sys2Proof.Proofs.Supervisor
open Sys2Proof.Machine Sys2Proof.Laws Common CompleteCrh ClockFacts CompleteSup SupFacts

variable {q : Req} {a e k v r : Nat} {s t : State}

/-! The start (15 R407). -/

/-- The dictionary opens and the watchdog starts. -/
def opened (s : State) : State := wdStart (crhFlag 0 (s.setBit HDI.STATUS 2 true))

/-- The zeroisations found while the part was off are raised. -/
def toldOf (s : State) : State := (List.range s.cfg.zeroised).foldl (fun t _ => t.raise 36) (modCfg (fun c => { c with zeroised := 0 }) s)

/-- Configuration proceeds as BOOTSEL selects. -/
def proceeds (s : State) : State :=
  let t := modCfg (fun c => { c with beatAt := s.now, autoDue := bootsel s != 0, autoAt := s.now }) s
  if bootsel t = 0 then { t with autoTrain := true } else t

/-- The trim image is loaded and the channels are read. -/
def prepared (s : State) : State :=
  (List.range 4).foldl (fun s n => if (answering n s).isEmpty then s else s.wr (DMC.STATE n) 1) (trimLoad (s.upto (s.crh.rstAt + 2 * ticksPerUs)))

theorem opened_facts (s : State) : supOpen (opened s) = true ∧ (opened s).sup.wd = some ((opened s).now, (opened s).rd SUP.WDOG_TIMEOUT) := by
  refine ⟨?_, rfl⟩
  show (crhFlag 0 (s.setBit HDI.STATUS 2 true)).bit HDI.STATUS 2 = true
  rw [bit_of_rd (crhFlag_rd (by decide)), bit_setBit_eq]

theorem raises_keep : ∀ (l : List Nat) (s : State), (l.foldl (fun t _ => t.raise 36) s).sup = s.sup ∧
    (l.foldl (fun t _ => t.raise 36) s).now = s.now ∧ ∀ k, (l.foldl (fun t _ => t.raise 36) s).rd k = s.rd k
  | [], _ => ⟨rfl, rfl, fun _ => rfl⟩
  | _ :: l, s => by
    obtain ⟨sup, now, rd⟩ := raises_keep l (s.raise 36)
    exact ⟨sup.trans (raise_sup ..), now.trans (raise_now ..), fun k => (rd k).trans (rd_raise ..)⟩

theorem proceeds_facts (s : State) : (proceeds s).sup = s.sup ∧ (proceeds s).now = s.now ∧ (∀ k, (proceeds s).rd k = s.rd k) ∧
    (proceeds s).cfg.autoDue = (bootsel (proceeds s) != 0) ∧ (bootsel (proceeds s) = 0 → (proceeds s).autoTrain = true) := by
  unfold proceeds
  dsimp only
  split
  · exact ⟨rfl, rfl, fun _ => rfl, rfl, fun _ => rfl⟩
  · rename_i loads
    exact ⟨rfl, rfl, fun _ => rfl, rfl, fun none => absurd none loads⟩

theorem ready_gives (locked : mpllLocked s = true) (out : s.crh.inReset = false) (closed : supOpen s = false) : Gives .supReady s fun t =>
    supOpen t = true ∧ t.sup.wd = some (t.now, t.rd SUP.WDOG_TIMEOUT) ∧ t.cfg.autoDue = (bootsel t != 0) ∧ (bootsel t = 0 → t.autoTrain = true) := by
  refine ⟨proceeds (toldOf (opened (prepared s))), congrArg Host.Outcome.next (if_pos ⟨locked, out, closed⟩), ?_⟩
  obtain ⟨sup, now, rd, due, trains⟩ := proceeds_facts (toldOf (opened (prepared s)))
  obtain ⟨sup', now', rd'⟩ := raises_keep (List.range (opened (prepared s)).cfg.zeroised) (modCfg (fun c => { c with zeroised := 0 }) (opened (prepared s)))
  obtain ⟨open_, watch⟩ := opened_facts (prepared s)
  refine ⟨(bit_of_rd ((rd _).trans (rd' _))).trans open_, ?_, due, trains⟩
  rw [sup, now, rd]
  exact (congrArg SupS.wd sup').trans (watch.trans (by rw [toldOf, now', rd']; rfl))

/-! The watchdog (R462, R463). -/

theorem restart_gives (open_ : supOpen s = true) (free : molxoHeld s = false) : Gives .wdogRestart s fun t =>
    t.sup.wd = some (s.now, s.rd SUP.WDOG_TIMEOUT) ∧ t.sup.warned = false :=
  ⟨wdStart s, congrArg Host.Outcome.next (if_pos ⟨open_, free⟩), rfl, rfl⟩

/-- Fewer than half of the clocks remain (R463). -/
def warnedAt (at' : Nat) (s : State) : State := modSup (fun u => { u with warned := true }) (supFlag 0 (s.upto at'))

theorem warn_gives (runs : s.sup.wd = some (a, k)) (quiet : s.sup.warned = false) : Gives .wdogWarn s fun t => t.sup.warned = true ∧
    t.bit SUP.EVFLAGS 0 = true ∧ t.now = max s.now (a + (k - (s.sup.wdFull - 1) / 2) * supClk) := by
  have run : exec .wdogWarn s = .next (warnedAt (a + (k - (s.sup.wdFull - 1) / 2) * supClk) s) := by
    refine congrArg Host.Outcome.next ?_
    rw [runs]
    exact if_neg (Bool.eq_false_iff.1 quiet)
  exact ⟨_, run, rfl, sup_bit .., flag_now ..⟩

theorem expiry_gives (runs : s.sup.wd = some (a, k)) (out : s.crh.inReset = false)
    (late : s.crh.rstFrom + ticksPerUs < max s.now (a + k * supClk)) : Gives .wdogExpiry s (PartReset s 4) := by
  have run : exec .wdogExpiry s = .next (partReset 4 (s.upto (a + k * supClk))) := by
    refine congrArg Host.Outcome.next ?_
    rw [runs]
  refine ⟨_, run, Part_like (s' := s.upto (a + k * supClk)) ?_ fun _ _ => rfl⟩
  exact (part_facts (s := s.upto (a + k * supClk)) (by decide) out late).1

/-! Crypto jobs (R460, R461). -/

theorem job_gives {i : Instr} {hmac : Bool} {code : Nat} (run : exec i s = .next (command q SUP.CJ_CTRL code (cryptoConds hmac s) (cryptoEff hmac) s))
    (h : Writes q SUP.CJ_CTRL 1 code s) (free : ∀ c ∈ cryptoConds hmac s, c.1 = false) : Gives i s fun t => Answered q 0 t ∧
    t.rd SUP.CJ_STATE = 1 ∧ ∃ j, t.sup.job = some j ∧ j.key = (if hmac then s.sup.key else none) ∧ j.addr = s.rd SUP.CJ_ADDR ∧ j.len = s.rd SUP.CJ_LEN := by
  refine givesCmd' run h free fun t like => ?_
  rw [like_k like (by decide), like.sup]
  exact crypto_eff hmac s

/-- The job is over. -/
def jobOver (s : State) : State := modSup (fun u => { u with job := none }) s

/-- The digest of a job. -/
def digest (j : CJob) : Nat := (match j.key with | some k => hmac256 k j.buf j.len | none => sha256 j.buf j.len) % 2 ^ 256

theorem exec_jobEnd {j : CJob} (job : s.sup.job = some j) : exec .cryptoJobEnd s = .next (if helperTaken s then s
    else if j.bad then supFlag 3 (((jobOver s).wr SUP.CJ_STATE 3).wr SUP.CJ_RESULT 0)
    else if j.got = j.len then supFlag 2 (((jobOver s).wr SUP.CJ_STATE 2).wr SUP.CJ_RESULT (digest j)) else cryptoNext s) := by
  refine congrArg Host.Outcome.next ?_
  rw [job]
  rfl

theorem result_facts {b st x : Nat} : (supFlag b (((jobOver s).wr SUP.CJ_STATE st).wr SUP.CJ_RESULT x)).sup.job = none ∧
    (supFlag b (((jobOver s).wr SUP.CJ_STATE st).wr SUP.CJ_RESULT x)).rd SUP.CJ_STATE = st ∧
    (supFlag b (((jobOver s).wr SUP.CJ_STATE st).wr SUP.CJ_RESULT x)).rd SUP.CJ_RESULT = x := by
  rw [sup_sup, sup_rd (by decide), sup_rd (by decide), rd_wr_other _ (by decide), rd_wr_same, rd_wr_same]
  exact ⟨rfl, rfl, rfl⟩

theorem pauses_gives {j : CJob} (job : s.sup.job = some j) (taken : helperTaken s = true) : Gives .cryptoJobEnd s fun t => t = s :=
  ⟨s, (exec_jobEnd job).trans (congrArg _ (if_pos taken)), rfl⟩

theorem failed_gives {j : CJob} (job : s.sup.job = some j) (free : helperTaken s = false) (bad : j.bad = true) :
    Gives .cryptoJobEnd s fun t => t.sup.job = none ∧ t.rd SUP.CJ_STATE = 3 ∧ t.rd SUP.CJ_RESULT = 0 ∧ t.bit SUP.EVFLAGS 3 = true := by
  refine ⟨_, (exec_jobEnd job).trans (congrArg _ ((if_neg (Bool.eq_false_iff.1 free)).trans (if_pos bad))), ?_⟩
  obtain ⟨none, state, result⟩ := result_facts (s := s) (b := 3) (st := 3) (x := 0)
  exact ⟨none, state, result, sup_bit ..⟩

theorem digest_gives {j : CJob} (job : s.sup.job = some j) (free : helperTaken s = false) (good : j.bad = false) (all : j.got = j.len) :
    Gives .cryptoJobEnd s fun t => t.sup.job = none ∧ t.rd SUP.CJ_STATE = 2 ∧ t.bit SUP.EVFLAGS 2 = true ∧
      (j.key = none → t.rd SUP.CJ_RESULT = sha256 j.buf j.len % 2 ^ 256) ∧
      ∀ k, j.key = some k → t.rd SUP.CJ_RESULT = hmac256 k j.buf j.len % 2 ^ 256 := by
  refine ⟨_, (exec_jobEnd job).trans (congrArg _ ((if_neg (Bool.eq_false_iff.1 free)).trans ((if_neg (Bool.eq_false_iff.1 good)).trans (if_pos all)))), ?_⟩
  obtain ⟨over', state, result⟩ := result_facts (s := s) (b := 2) (st := 2) (x := digest j)
  refine ⟨over', state, sup_bit .., fun plain => result.trans ?_, fun k keyed => result.trans ?_⟩
  · rw [digest, plain]
  · rw [digest, keyed]

/-! The host watchdog (R464). -/

theorem kick_gives (h : Writes q SUP.HOST_KICK 1 v s) : Gives (.hostKick q v) s fun t => Answered q 0 t ∧
    (s.rd SUP.HOST_WD ≠ 0 → molxoHeld s = false → t.sup.hostEnd = some (s.now + s.rd SUP.HOST_WD * 1000 * ticksPerUs)) ∧
    (s.rd SUP.HOST_WD = 0 → t.sup = s.sup) := by
  refine givesCmd' rfl h noC fun t like => ?_
  rw [like.sup]
  refine ⟨fun on free => ?_, fun off => ?_⟩
  · rw [hostKickEff, if_neg on, hostRestart]
    exact if_neg fun h => h.elim on (Bool.eq_false_iff.1 free)
  · rw [hostKickEff, if_pos off]

/-- Every run has been asked to stop and an armed batch dropped at instant e (R464). -/
def halted (e : Nat) (s : State) : State := stopAll (dropArmed (s.upto (edgeAt supClk e)))

/-- The host watchdog has expired (R464). -/
def expired (e : Nat) (s : State) : State := supFlag 5 ((modSup (fun u => { u with hostEnd := none }) (halted e s)).bump 32 SUP.HOST_WD_TRIPS)

theorem exec_expiry (runs : s.sup.hostEnd = some e) : exec .hostWdExpiry s = .next (expired e s) := by
  refine congrArg Host.Outcome.next ?_
  rw [runs]
  rfl

theorem dropArmed_rd (nv : NV k) : (dropArmed s).rd k = s.rd k := by
  unfold dropArmed
  split
  · rw [rd_raise, rd_wr_other _ nv.2.1, disarmTo_rd nv]
  · rfl

theorem halted_trips : (halted e s).rd SUP.HOST_WD_TRIPS = s.rd SUP.HOST_WD_TRIPS := by
  have nv : NV SUP.HOST_WD_TRIPS := ⟨fun u hu => by simp only [VEN.STATE, SUP.HOST_WD_TRIPS]; omega, by decide, by decide⟩
  rw [halted, stopAll_rd _ nv fun n hn => ⟨by simp only [VEN.FLAGS, SUP.HOST_WD_TRIPS]; omega, by simp only [DSP.STATE, SUP.HOST_WD_TRIPS]; omega⟩,
    dropArmed_rd nv]
  rfl

theorem stopAll_bodies (s : State) : stopAll s = (List.range 32).foldl body s := rfl

theorem halted_outcome (armed : mirrorState s = 5) : (halted e s).rd HDI.APPLY_OUTCOME = 3 := by
  obtain ⟨outcome, left⟩ := drop_out (s := s.upto (edgeAt supClk e)) armed
  rw [halted, stopAll_bodies, fold_out _ _ left, outcome]

theorem rd_modSup (f : SupS → SupS) (s : State) (k : Nat) : (modSup f s).rd k = s.rd k := rfl

theorem modSup_units (f : SupS → SupS) (s : State) : (modSup f s).ve = s.ve ∧ (modSup f s).dsp = s.dsp := ⟨rfl, rfl⟩

theorem expired_rd (ne : k ≠ SUP.EVFLAGS) (trips : k ≠ SUP.HOST_WD_TRIPS) : (expired e s).rd k = (halted e s).rd k := by
  rw [expired, sup_rd ne, bump_ne trips, rd_modSup]

theorem expired_units (e : Nat) (s : State) : (expired e s).ve = (halted e s).ve ∧ (expired e s).dsp = (halted e s).dsp := by
  unfold expired supFlag
  rw [flag_ve, flag_dsp, bump_ve, bump_dsp]
  exact modSup_units ..

theorem trip_gives (runs : s.sup.hostEnd = some e) : Gives .hostWdExpiry s fun t => t.sup.hostEnd = none ∧ t.bit SUP.EVFLAGS 5 = true ∧
    t.rd SUP.HOST_WD_TRIPS = min (s.rd SUP.HOST_WD_TRIPS + 1) (2 ^ 32 - 1) ∧
    (mirrorState s = 5 → t.rd HDI.APPLY_OUTCOME = 3) ∧
    (∀ n, n < 32 → veState n s = 3 ∨ veState n s = 4 → (t.veOf n).stopAt.isSome = true) ∧
    ∀ n, n < 32 → s.rd (DSP.STATE n) = 2 ∨ s.rd (DSP.STATE n) = 3 ∨ s.rd (DSP.STATE n) = 6 → (t.dspOf n).stop.isSome = true := by
  obtain ⟨ve, dsp⟩ := expired_units e s
  refine ⟨expired e s, exec_expiry runs, congrArg SupS.hostEnd (sup_sup ..), sup_bit .., ?_, fun armed => ?_, fun n hn live => ?_, fun n hn live => ?_⟩
  · rw [expired, sup_rd (by decide), bump_eq, rd_modSup, halted_trips]
  · rw [expired_rd (by decide) (by decide), halted_outcome armed]
  · have stops := (go_facts (s.upto (edgeAt supClk e)) n hn).1 live
    rw [State.veOf] at stops ⊢
    rw [ve]
    exact stops
  · have stops := (go_facts (s.upto (edgeAt supClk e)) n hn).2 live
    rw [State.dspOf] at stops ⊢
    rw [dsp]
    exact stops

/-! The next raising registered (R465 to R471). -/

/-- Event e is counted and pending (R465). -/
def countedOf (e : Nat) (s : State) : State := ((s.bump 32 (SUP.EV_COUNT e)).setBit (SUP.EV_PEND (e / 64)) (e % 64) true).note (SUP.EV_PEND (e / 64)) (e % 64)

/-- It is logged where its route r has bit 2 (R468). -/
def loggedOf (r e : Nat) (s : State) : State := if r.testBit 2 then logRecord e s else s

/-- It joins the in-band interrupts where its route r has bit 0 and it was not pending (R469). -/
def queuedOf (r : Nat) (was : Bool) (e : Nat) (s : State) : State :=
  if r.testBit 0 && !was && Nat.blt s.sup.ibi.length 512 then modSup (fun u => { u with ibi := u.ibi ++ [e] }) s else s

theorem register_eq : register e a s = linePulses e a (queuedOf (s.rd (SUP.EV_ROUTE e)) (s.bit (SUP.EV_PEND (e / 64)) (e % 64)) e
    (loggedOf (s.rd (SUP.EV_ROUTE e)) e (countedOf e s))) := rfl

theorem countedOf_rest (e : Nat) (s : State) : (countedOf e s).sup = s.sup ∧ (countedOf e s).evq = s.evq ∧ (countedOf e s).now = s.now ∧
    (countedOf e s).fev = s.fev ∧ (countedOf e s).clk = s.clk := by
  unfold countedOf
  simp

theorem countedOf_rd (hc : k ≠ SUP.EV_COUNT e) (hp : k ≠ SUP.EV_PEND (e / 64)) : (countedOf e s).rd k = s.rd k := by
  rw [countedOf, rd_note, rd_setBit_other _ hp, bump_ne hc]

theorem pend_ne_count (he : e < 512) : SUP.EV_COUNT e ≠ SUP.EV_PEND (e / 64) := by
  simp only [SUP.EV_COUNT, SUP.EV_PEND]
  omega

theorem countedOf_count (he : e < 512) : (countedOf e s).rd (SUP.EV_COUNT e) = min (s.rd (SUP.EV_COUNT e) + 1) (2 ^ 32 - 1) := by
  rw [countedOf, rd_note, rd_setBit_other _ (pend_ne_count he), bump_eq]

theorem countedOf_pend (e : Nat) (s : State) : (countedOf e s).bit (SUP.EV_PEND (e / 64)) (e % 64) = true := by
  rw [countedOf, bit_of_rd (rd_note ..), bit_setBit_eq]

theorem countedOf_low (he : e < 512) (low : k < 0x110000) : (countedOf e s).rd k = s.rd k := by
  refine countedOf_rd ?_ ?_ <;> simp only [SUP.EV_COUNT, SUP.EV_PEND] <;> omega

theorem countedOf_high (he : e < 512) (high : 0x140000 ≤ k) : (countedOf e s).rd k = s.rd k := by
  refine countedOf_rd ?_ ?_ <;> simp only [SUP.EV_COUNT, SUP.EV_PEND] <;> omega

theorem netAt_congr {x : Nat} (clk : t.clk = s.clk) (status : t.rd HDI.STATUS = s.rd HDI.STATUS) (incr : t.rd TMU.INCR = s.rd TMU.INCR) :
    netAt t x = netAt s x := by
  rw [netAt, netAt, mpllLocked, mpllLocked, bit_of_rd status, clk, incr]

theorem countedOf_stamp (he : e < 512) (x : Nat) : netAt (countedOf e s) x = netAt s x ∧ timeValid (countedOf e s) = timeValid s := by
  have status : (countedOf e s).rd HDI.STATUS = s.rd HDI.STATUS := countedOf_low he (by decide)
  exact ⟨netAt_congr (countedOf_rest e s).2.2.2.2 status (countedOf_high he (by decide)), bit_of_rd status⟩

/-- t is s but for the log and its counts. -/
structure Logged (s t : State) : Prop where
  rd : ∀ k, k ≠ SUP.LOG_MADE → k ≠ SUP.LOG_LOST → k ≠ SUP.EVFLAGS → t.rd k = s.rd k
  ibi : t.sup.ibi = s.sup.ibi
  now : t.now = s.now
  fev : t.fev = s.fev

theorem loggedOf_logged (r e : Nat) (s : State) : Logged s (loggedOf r e s) := by
  unfold loggedOf
  split
  · obtain ⟨-, -, -, rd, ibi, now, fev⟩ := log_facts e s
    exact ⟨rd, ibi, now, fev⟩
  · exact ⟨fun _ _ _ _ => rfl, rfl, rfl, rfl⟩

theorem logRecord_evq (room : s.sup.log.length < 256) : (logRecord e s).evq = s.evq := by
  unfold logRecord
  dsimp only
  rw [if_neg (show ¬256 ≤ (s.bump 64 SUP.LOG_MADE).sup.log.length by rw [bump_sup]; omega)]
  rfl

theorem loggedOf_evq (room : r.testBit 2 = false ∨ s.sup.log.length < 256) : (loggedOf r e s).evq = s.evq := by
  unfold loggedOf
  split
  · rename_i on
    exact logRecord_evq (room.resolve_left fun off => Bool.false_ne_true (off.symm.trans on))
  · rfl

theorem queuedOf_keeps (r : Nat) (was : Bool) (e : Nat) (s : State) : (∀ k, (queuedOf r was e s).rd k = s.rd k) ∧ (queuedOf r was e s).evq = s.evq ∧
    (queuedOf r was e s).now = s.now ∧ (queuedOf r was e s).fev = s.fev ∧ (queuedOf r was e s).sup.log = s.sup.log := by
  unfold queuedOf
  split
  · exact ⟨fun _ => rfl, rfl, rfl, rfl, rfl⟩
  · exact ⟨fun _ => rfl, rfl, rfl, rfl, rfl⟩

theorem queuedOf_ibi (r : Nat) (was : Bool) (e : Nat) (s : State) : (queuedOf r was e s).sup.ibi =
    s.sup.ibi ++ (if r.testBit 0 = true ∧ was = false ∧ s.sup.ibi.length < 512 then [e] else []) := by
  have cond : (r.testBit 0 && !was && Nat.blt s.sup.ibi.length 512) = true ↔ r.testBit 0 = true ∧ was = false ∧ s.sup.ibi.length < 512 := by
    simp [and_assoc, Nat.blt]
  unfold queuedOf
  by_cases on : r.testBit 0 = true ∧ was = false ∧ s.sup.ibi.length < 512
  · rw [if_pos on, if_pos (cond.2 on)]
    rfl
  · rw [if_neg on, if_neg fun h => on (cond.1 h), List.append_nil]

/-- Event e, raised at a, of route r and pending or not before, has been registered. -/
def registered (r : Nat) (was : Bool) (e a : Nat) (s : State) : State := linePulses e a (queuedOf r was e (loggedOf r e (countedOf e s)))

theorem registered_lp (r : Nat) (was : Bool) (e a : Nat) (s : State) :
    LP (queuedOf r was e (loggedOf r e (countedOf e s))) (registered r was e a s) := by
  rw [registered, lines_eq]
  exact (lfold ..).1

theorem registered_log_rd {was : Bool} (hm : k ≠ SUP.FEV_MERGED) : (registered r was e a s).rd k = (loggedOf r e (countedOf e s)).rd k := by
  rw [(registered_lp r was e a s).1 k hm, (queuedOf_keeps ..).1]

theorem registered_rd {was : Bool} (hm : k ≠ SUP.FEV_MERGED) (hl : k ≠ SUP.LOG_MADE) (hlost : k ≠ SUP.LOG_LOST) (hf : k ≠ SUP.EVFLAGS) :
    (registered r was e a s).rd k = (countedOf e s).rd k := by
  rw [registered_log_rd hm, (loggedOf_logged r e _).rd k hl hlost hf]

theorem registered_rest (r : Nat) (was : Bool) (e a : Nat) (s : State) : (registered r was e a s).sup.log = (loggedOf r e (countedOf e s)).sup.log ∧
    (registered r was e a s).evq = (loggedOf r e (countedOf e s)).evq ∧ (registered r was e a s).now = s.now ∧
    (registered r was e a s).sup.ibi = s.sup.ibi ++ (if r.testBit 0 = true ∧ was = false ∧ s.sup.ibi.length < 512 then [e] else []) := by
  obtain ⟨-, log, ibi, evq, now, -⟩ := registered_lp r was e a s
  obtain ⟨-, evq', now', -, log'⟩ := queuedOf_keeps r was e (loggedOf r e (countedOf e s))
  have kept := loggedOf_logged r e (countedOf e s)
  obtain ⟨sup, -, now'', -⟩ := countedOf_rest e s
  rw [log, evq, now, ibi, log', evq', now', queuedOf_ibi, kept.now, now'', kept.ibi, sup]
  exact ⟨rfl, rfl, rfl, rfl⟩

theorem registered_due {was : Bool} (he : e < 512) (hk : k < 8) (selects : s.rd (SUP.FEV_SEL k) = e) (free : (k, fabEdge (a + 32 * ticksPerNs)) ∉ s.fev) :
    (k, fabEdge (a + 32 * ticksPerNs)) ∈ (registered r was e a s).sup.due := by
  obtain ⟨rd, -, -, fev, -⟩ := queuedOf_keeps r was e (loggedOf r e (countedOf e s))
  have kept := loggedOf_logged r e (countedOf e s)
  rw [registered, lines_eq]
  refine (lfold ..).2 k (List.mem_range.2 hk) hk ?_ ?_
  · have made : SUP.FEV_SEL k ≠ SUP.LOG_MADE := by simp only [SUP.FEV_SEL, SUP.LOG_MADE]; omega
    have lost : SUP.FEV_SEL k ≠ SUP.LOG_LOST := by simp only [SUP.FEV_SEL, SUP.LOG_LOST]; omega
    have flags : SUP.FEV_SEL k ≠ SUP.EVFLAGS := by simp only [SUP.FEV_SEL, SUP.EVFLAGS]; omega
    have high : 0x140000 ≤ SUP.FEV_SEL k := by simp only [SUP.FEV_SEL]; omega
    rw [rd, kept.rd _ made lost flags, countedOf_high he high, selects]
  · rw [fev, kept.fev, (countedOf_rest e s).2.2.2.1]
    exact free

theorem registered_count {was : Bool} (he : e < 512) : (registered r was e a s).rd (SUP.EV_COUNT e) = min (s.rd (SUP.EV_COUNT e) + 1) (2 ^ 32 - 1) := by
  rw [registered_rd, countedOf_count he] <;> simp only [SUP.EV_COUNT, SUP.FEV_MERGED, SUP.LOG_MADE, SUP.LOG_LOST, SUP.EVFLAGS] <;> omega

theorem registered_pend {was : Bool} (he : e < 512) : (registered r was e a s).bit (SUP.EV_PEND (e / 64)) (e % 64) = true := by
  refine (bit_of_rd (registered_rd ?_ ?_ ?_ ?_)).trans (countedOf_pend e s) <;>
    simp only [SUP.EV_PEND, SUP.FEV_MERGED, SUP.LOG_MADE, SUP.LOG_LOST, SUP.EVFLAGS] <;> omega

theorem registered_made {was : Bool} (he : e < 512) (logs : r.testBit 2 = true) :
    (registered r was e a s).rd SUP.LOG_MADE = min (s.rd SUP.LOG_MADE + 1) (2 ^ 64 - 1) ∧
      (s.sup.log.length < 256 → (registered r was e a s).sup.log = s.sup.log ++ [⟨netAt s s.now, e, timeValid s⟩]) ∧
      (256 ≤ s.sup.log.length → (registered r was e a s).sup.log = s.sup.log ∧
        (registered r was e a s).rd SUP.LOG_LOST = min (s.rd SUP.LOG_LOST + 1) (2 ^ 64 - 1) ∧ (registered r was e a s).bit SUP.EVFLAGS 1 = true) := by
  obtain ⟨made, room, full, -⟩ := log_facts e (countedOf e s)
  obtain ⟨sup, -, now, -⟩ := countedOf_rest e s
  have log := (registered_rest r was e a s).1
  have record : loggedOf r e (countedOf e s) = logRecord e (countedOf e s) := if_pos logs
  rw [record] at log
  rw [registered_log_rd (by decide), registered_log_rd (by decide), bit_of_rd (registered_log_rd (by decide)), log, record, made,
    countedOf_high he (by decide)]
  refine ⟨rfl, fun few => ?_, fun many => ?_⟩
  · rw [room (by rw [sup]; exact few), sup, now, (countedOf_stamp he s.now).1, (countedOf_stamp he s.now).2]
  · obtain ⟨kept, lost, flag⟩ := full (by rw [sup]; exact many)
    rw [kept, lost, flag, sup, countedOf_high he (by decide)]
    exact ⟨rfl, rfl, rfl⟩

theorem registered_unlogged {was : Bool} (he : e < 512) (quiet : r.testBit 2 = false) : (registered r was e a s).sup.log = s.sup.log ∧
    (registered r was e a s).rd SUP.LOG_MADE = s.rd SUP.LOG_MADE := by
  have same : loggedOf r e (countedOf e s) = countedOf e s := if_neg (Bool.eq_false_iff.1 quiet)
  rw [registered_log_rd (by decide), (registered_rest ..).1, same, (countedOf_rest ..).1, countedOf_high he (by decide)]
  exact ⟨rfl, rfl⟩

/-- The raising (a, e) leaves the queue at its edge (R467). -/
def leaves (a e : Nat) (s : State) : State := { s with evq := s.evq.erase (a, e) }.upto (registerEdge a)

theorem raise_gives (he : e < 512) (next : nextRaising s.evq = some (a, e)) : Gives .eventRaise s fun t =>
    ((s.rd (SUP.EV_ROUTE e)).testBit 2 = false ∨ s.sup.log.length < 256 → t.evq = s.evq.erase (a, e)) ∧ t.now = max s.now (registerEdge a) ∧
    t.rd (SUP.EV_COUNT e) = min (s.rd (SUP.EV_COUNT e) + 1) (2 ^ 32 - 1) ∧ t.bit (SUP.EV_PEND (e / 64)) (e % 64) = true ∧
    ((s.rd (SUP.EV_ROUTE e)).testBit 2 = true → t.rd SUP.LOG_MADE = min (s.rd SUP.LOG_MADE + 1) (2 ^ 64 - 1) ∧
      (s.sup.log.length < 256 → t.sup.log = s.sup.log ++ [⟨netAt s t.now, e, timeValid s⟩]) ∧
      (256 ≤ s.sup.log.length → t.sup.log = s.sup.log ∧ t.rd SUP.LOG_LOST = min (s.rd SUP.LOG_LOST + 1) (2 ^ 64 - 1) ∧
        t.bit SUP.EVFLAGS 1 = true)) ∧
    ((s.rd (SUP.EV_ROUTE e)).testBit 2 = false → t.sup.log = s.sup.log ∧ t.rd SUP.LOG_MADE = s.rd SUP.LOG_MADE) ∧
    t.sup.ibi = s.sup.ibi ++ (if (s.rd (SUP.EV_ROUTE e)).testBit 0 = true ∧ s.bit (SUP.EV_PEND (e / 64)) (e % 64) = false ∧ s.sup.ibi.length < 512
      then [e] else []) ∧
    ∀ k, k < 8 → s.rd (SUP.FEV_SEL k) = e → (k, fabEdge (a + 32 * ticksPerNs)) ∉ s.fev →
      (k, fabEdge (a + 32 * ticksPerNs)) ∈ t.sup.due := by
  have run : exec .eventRaise s = .next (registered (s.rd (SUP.EV_ROUTE e)) (s.bit (SUP.EV_PEND (e / 64)) (e % 64)) e a (leaves a e s)) := by
    refine congrArg Host.Outcome.next ?_
    rw [next]
    rfl
  obtain ⟨-, evq, now, ibi⟩ := registered_rest (s.rd (SUP.EV_ROUTE e)) (s.bit (SUP.EV_PEND (e / 64)) (e % 64)) e a (leaves a e s)
  refine ⟨_, run, fun room => ?_, now, registered_count he, registered_pend he, fun logs => ?_, registered_unlogged he, ibi,
    fun k hk => registered_due (s := leaves a e s) he hk⟩
  · rw [evq, loggedOf_evq (by rw [(countedOf_rest ..).1]; exact room), (countedOf_rest ..).2.1]
    rfl
  · rw [now]
    exact registered_made (s := leaves a e s) he logs

/-! Lines, the log and in-band interrupts (R468, R469, R471). -/

theorem pulse_gives {x : Nat × Nat} (hk : k < 8) (due : (s.sup.due.find? fun x => Nat.beq x.1 k) = some x) : Gives (.fabricEventPulse k) s fun t =>
    t.sup.due = s.sup.due.erase x ∧ t.now = max s.now x.2 ∧ x ∈ t.fev ∧ t.reg = s.reg := by
  have run : exec (.fabricEventPulse k) s = .next { modSup (fun u => { u with due := u.due.erase x }) (s.upto x.2) with
      fev := s.fev.filter (fun y => !(Nat.beq y.1 k)) ++ [x] } := by
    refine (unitNext hk).trans (congrArg _ ?_)
    rw [due]
    rfl
  exact ⟨_, run, rfl, rfl, List.mem_append_right _ (List.mem_singleton_self x), rfl⟩

theorem pop_gives {r : LogRec} {rest : List LogRec} (other : q.master ≠ 9) (h : Takes q SUP.LOG_POP 24 s) (log : s.sup.log = r :: rest) :
    Gives (.logPop q) s fun t => AnsweredWith q 24 (logBytes r) t ∧ t.sup.log = rest ∧ t.rd SUP.LOG_READ = min (s.rd SUP.LOG_READ + 1) (2 ^ 64 - 1) := by
  have first : (s.sup.log.head?.map logBytes).getD 0 = logBytes r := by rw [log]; rfl
  have free : ∀ c ∈ [(s.sup.log.isEmpty, 7)], c.1 = false := by rw [log]; exact List.forall_mem_singleton.2 rfl
  have run : exec (.logPop q) s = unitCmd 0 1 (readFrom q SUP.LOG_POP 24 (logBytes r) [(s.sup.log.isEmpty, 7)] logPopEff s) := by
    rw [← first]
    rfl
  refine CompleteFcp.givesRd run Nat.zero_lt_one h other free fun t like => ?_
  rw [like.sup, like_k like (by decide), logPopEff, bump_eq, bump_sup]
  exact ⟨congrArg (List.drop 1) log, rfl⟩

theorem ibi_gives {rest : List Nat} (first : s.sup.ibi = e :: rest) (address : s.hdi.i3c.dyn.isSome = true) (enabled : s.hdi.i3c.enInt = true)
    (sdr : s.hdi.i3c.bus = .sdr) : Gives (.ibiRequest true) s fun t => t.sup.ibi = rest ∧
      t.rd SUP.IBI_SENT = min (s.rd SUP.IBI_SENT + 1) (2 ^ 64 - 1) ∧
      t.hdi.i3c.out = .data 5 (0x1E + e % 65536 * 2 ^ 8 + rest.length % 65536 * 2 ^ 24) := by
  have run : exec (.ibiRequest true) s = .next (((modSup (fun u => { u with ibi := rest }) s).bump 64 SUP.IBI_SENT).modI3c fun i =>
      { i with out := .data 5 (0x1E + e % 65536 * 2 ^ 8 + rest.length % 65536 * 2 ^ 24) }) := by
    refine congrArg Host.Outcome.next ?_
    rw [first]
    dsimp only
    rw [address, enabled, sdr]
    rfl
  exact ⟨_, run, rfl, bump_eq .., rfl⟩

theorem unacked_gives : Gives (.ibiRequest false) s fun t => t = s := by
  refine ⟨s, congrArg Host.Outcome.next ?_, rfl⟩
  split
  · rw [Bool.and_false]
    rfl
  · rfl

/-- Settles O51: clause by clause, the host watchdog by its folds over the engines, and a raising by what each of its steps leaves. -/
theorem supervisorAndEventsComplete : Obligations.SupervisorAndEventsComplete := by
  unfold Obligations.SupervisorAndEventsComplete
  exact ⟨fun q s => ⟨ready_gives, restart_gives, fun _ _ runs => ⟨warn_gives runs, expiry_gives runs⟩, job_gives rfl, job_gives rfl,
      fun _ job => ⟨pauses_gives job, failed_gives job, digest_gives job⟩, fun _ => kick_gives, fun _ => trip_gives⟩,
    fun s => ⟨fun _ _ => raise_gives, fun _ _ => pulse_gives, fun _ _ _ => pop_gives, fun _ _ first => ⟨ibi_gives first, unacked_gives⟩⟩⟩

end Sys2Proof.Proofs.Supervisor
end

section
/-! Authorisation, the debug fuses and the test access port (chapter 19, R478, R480 to R484). -/
namespace Sys2Proof.Proofs.Authorisation
open Sys2Proof.Machine Sys2Proof.Laws Common CompleteCrh ClockFacts CompleteDbg DebugFacts

variable {q : Req} {m l v : Nat} {s t : State}

/-! The start of a flow (R480, R481). -/

/-- Master m holds a challenge for level byte l, drawn at instant a. -/
def Challenged (m l a : Nat) (t : State) : Prop :=
  (t.masterOf m).chal.isSome = true ∧ (t.masterOf m).flow = l ∧ (t.masterOf m).chalAt = a

theorem challenged_like (like : Like (challengeFor m l s) t) : Challenged m l s.now t ∧ (t.masterOf m).level = (s.masterOf m).level := by
  obtain ⟨level, chal, flow, at_, -⟩ := lk like m
  obtain ⟨chal', flow', at', level'⟩ := chal_facts m l s
  exact ⟨⟨(congrArg Option.isSome chal).trans chal', flow.trans flow', at_.trans at'⟩, level.trans level'⟩

theorem grant_level (m l : Nat) (s : State) : ((grant m l s).masterOf m).level = max (s.masterOf m).level l := by
  rw [grant, masterOf_modMaster]

/-- A customer's flow to level l: without a key in the fuses, whose bit is b of DBG.STATUS, the level is granted at once (R481). -/
theorem customer_gives {i : Instr} {code b : Nat} (run : exec i s = .next (command q DBG.AUTH_CTRL code (authConds q code s) (authEff q code) s))
    (eff : authEff q code s = if s.bit DBG.STATUS b then challengeFor q.master l s else grant q.master l s)
    (h : Writes q DBG.AUTH_CTRL 1 code s) (free : ∀ c ∈ authConds q code s, c.1 = false) : Gives i s fun t => Answered q 0 t ∧
      (s.bit DBG.STATUS b = false → (t.masterOf q.master).level = max (s.masterOf q.master).level l) ∧
      (s.bit DBG.STATUS b = true → Challenged q.master l s.now t ∧ (t.masterOf q.master).level = (s.masterOf q.master).level) := by
  refine givesCmd' run h free fun t like => ?_
  rw [eff] at like
  refine ⟨fun none => ?_, fun fused => ?_⟩
  · rw [if_neg (Bool.eq_false_iff.1 none)] at like
    exact (lk like q.master).1.trans (grant_level ..)
  · rw [if_pos fused] at like
    exact challenged_like like

theorem vendor_gives (h : Writes q DBG.AUTH_CTRL 1 3 s) (free : ∀ c ∈ authConds q 3 s, c.1 = false) : Gives (.authVendor q) s fun t =>
    Answered q 0 t ∧ Challenged q.master 0x83 s.now t ∧ (t.masterOf q.master).level = (s.masterOf q.master).level :=
  givesCmd' rfl h free fun _ like => challenged_like like

theorem drop_gives (h : Writes q DBG.AUTH_CTRL 1 4 s) (free : ∀ c ∈ authConds q 4 s, c.1 = false) : Gives (.authDrop q) s fun t =>
    Answered q 0 t ∧ (t.masterOf q.master).level = 1 ∧ t.dbg.vendor ≠ some q.master := by
  refine givesCmd' rfl h free fun t like => ?_
  obtain ⟨vendor, masters, -⟩ := vendor_ends q.master (s.modMaster q.master fun x => { x with level := 1, chal := none })
  rw [(lk like q.master).1, like.dbg]
  refine ⟨(congrArg MasterS.level (masters q.master)).trans ?_, vendor⟩
  rw [masterOf_modMaster]

/-! A response (R481, R482). -/

theorem authOk_chal (ok : authOk m v s = true) : (s.masterOf m).chal.isNone = false := by
  unfold authOk at ok
  cases chal : (s.masterOf m).chal with
  | none => simp [chal] at ok
  | some _ => rfl

/-- What a correct response leaves beside the vendor session. -/
def granted (q : Req) (s : State) : State := dbgFlag 2 (grant q.master (if (s.masterOf q.master).flow = 2 then 2 else 3) s)

theorem granted_facts (q : Req) (s : State) : (granted q s).bit DBG.EVFLAGS 2 = true ∧
    ((granted q s).masterOf q.master).level = max (s.masterOf q.master).level (if (s.masterOf q.master).flow = 2 then 2 else 3) ∧
    ((granted q s).masterOf q.master).chal = none := by
  have master : (granted q s).masterOf q.master = (grant q.master (if (s.masterOf q.master).flow = 2 then 2 else 3) s).masterOf q.master := mo (flag_hdi ..)
  rw [master]
  refine ⟨bit_flag .., grant_level .., ?_⟩
  rw [grant, masterOf_modMaster]

theorem respGrants_eq (q : Req) (s : State) : respGrants q s = if (s.masterOf q.master).flow = 0x83 then
    (modDbg (fun d => { d with vendor := some q.master }) (granted q s)).setBit DBG.STATUS 2 true else granted q s := rfl

theorem respGrants_facts (q : Req) (s : State) : (respGrants q s).bit DBG.EVFLAGS 2 = true ∧
    ((respGrants q s).masterOf q.master).level = max (s.masterOf q.master).level (if (s.masterOf q.master).flow = 2 then 2 else 3) ∧
    ((respGrants q s).masterOf q.master).chal = none ∧
    ((s.masterOf q.master).flow = 0x83 → (respGrants q s).dbg.vendor = some q.master ∧ (respGrants q s).bit DBG.STATUS 2 = true) := by
  obtain ⟨flag, level, chal⟩ := granted_facts q s
  rw [respGrants_eq]
  split
  · have master : ((modDbg (fun d => { d with vendor := some q.master }) (granted q s)).setBit DBG.STATUS 2 true).masterOf q.master = (granted q s).masterOf q.master :=
      mo (setBit_hdi ..)
    rw [master]
    exact ⟨(bit_of_rd (rd_setBit_other _ (by decide) _ _)).trans flag, level, chal, fun _ => ⟨congrArg DbgS.vendor (setBit_dbg ..), bit_setBit_eq ..⟩⟩
  · rename_i customer
    exact ⟨flag, level, chal, fun vendor => absurd vendor customer⟩

theorem correct_gives (h : Writes q DBG.AUTH_RESP 32 v s) (small : q.master < 16) (ok : authOk q.master v s = true) :
    Gives (.authResp q v) s fun t => Answered q 0 t ∧ t.bit DBG.EVFLAGS 2 = true ∧
      (t.masterOf q.master).level = max (s.masterOf q.master).level (if (s.masterOf q.master).flow = 2 then 2 else 3) ∧
      (t.masterOf q.master).chal = none ∧
      ((s.masterOf q.master).flow = 0x83 → t.dbg.vendor = some q.master ∧ t.bit DBG.STATUS 2 = true) := by
  have free : ∀ c ∈ respConds q 32 v s, c.1 = false := by
    rw [respConds, CompleteDsp.nble small, authOk_chal ok, ok]
    simp
  have status : statusOf q 2 0xF001 2 32 v 0 (respConds q 32 v s) s = 0 := statusOf_zero h.1.2 h.2 free
  obtain ⟨answered, like⟩ := writeTo_done (eff := respGrants q) h free
  refine ⟨writeTo q DBG.AUTH_RESP 32 v (respConds q 32 v s) (respGrants q) s, ?_, answered, ?_⟩
  · refine congrArg Host.Outcome.next (if_neg fun wrong => ?_)
    rw [status] at wrong
    exact absurd wrong.1 (by decide)
  · obtain ⟨flag, level, chal, vendor⟩ := respGrants_facts q s
    obtain ⟨level', chal', -⟩ := lk like q.master
    rw [bit_of_rd (like_k like (by decide)), bit_of_rd (like_k like (by decide)), like.dbg, level', chal']
    exact ⟨flag, level, chal, vendor⟩

theorem wrong_status (h : Writes q DBG.AUTH_RESP 32 v s) (small : q.master < 16) (flow : (s.masterOf q.master).chal.isSome = true)
    (bad : authOk q.master v s = false) : statusOf q 2 0xF001 2 32 v 0 (respConds q 32 v s) s = 9 := by
  have none : (s.masterOf q.master).chal.isNone = false := by
    obtain ⟨c, chal⟩ := Option.isSome_iff_exists.1 flow
    rw [chal]
    rfl
  have conds : respConds q 32 v s = [(false, 2), (false, 7), (true, 9)] := by
    rw [respConds, CompleteDsp.nble small, none, bad]
    rfl
  have nine := firstOf_nine (b := [(false, 2), (false, 7), (true, 9)]) h.1.2 (by decide) ⟨(true, 9), by decide, rfl⟩
  rw [statusOf, conds]
  rw [show firstOf (baseConds q 2 0xF001 2 32 v s ++ [(false, 2), (false, 7), (true, 9)]) = 9 from nine]
  rfl

/-- The refusal of the response, before it is counted (R482). -/
def refused (q : Req) (s : State) : State := respond q 2 0xF001 2 9 0 0 s

theorem exec_wrong (h : Writes q DBG.AUTH_RESP 32 v s) (small : q.master < 16) (flow : (s.masterOf q.master).chal.isSome = true)
    (bad : authOk q.master v s = false) : exec (.authResp q v) s = .next (respFails q (refused q s)) := by
  have status := wrong_status h small flow bad
  have write : writeTo q DBG.AUTH_RESP 32 v (respConds q 32 v s) (respGrants q) s = refused q s := by
    have code : writeTo q DBG.AUTH_RESP 32 v (respConds q 32 v s) (respGrants q) s =
      finish q 2 0xF001 2 (statusOf q 2 0xF001 2 32 v 0 (respConds q 32 v s) s) 0 0 (respGrants q) s := rfl
    rw [code, status]
    exact AccessStatus.finish_ref h.1.1 (by decide)
  refine congrArg Host.Outcome.next ?_
  rw [authResp, write]
  exact if_pos ⟨status, h.1.1⟩

/-- The wrong response counted, the master's flow over. -/
def countedFail (q : Req) (s : State) : State := (s.bump 32 DBG.AUTH_FAILS).modMaster q.master fun x => { x with chal := none }

/-- The lock of a second begun. -/
def locked (q : Req) (s : State) : State :=
  dbgFlag 3 (modDbg (fun d => { d with lockUntil := (countedFail q s).now + 1000000 * ticksPerUs }) (countedFail q s))

theorem respFails_eq (q : Req) (s : State) :
    respFails q s = if 16 ≤ (locked q s).rd DBG.AUTH_FAILS then (locked q s).setBit DBG.STATUS 3 true else locked q s := rfl

theorem locked_fails (q : Req) (s : State) : (locked q s).rd DBG.AUTH_FAILS = min (s.rd DBG.AUTH_FAILS + 1) (2 ^ 32 - 1) := by
  rw [locked, dbg_rd (by decide)]
  exact bump_eq 32 DBG.AUTH_FAILS s

theorem locked_master (q : Req) (s : State) : (locked q s).masterOf q.master = { s.masterOf q.master with chal := none } := by
  have master : (locked q s).masterOf q.master = (countedFail q s).masterOf q.master := mo (flag_hdi ..)
  rw [master, countedFail, masterOf_modMaster]
  rfl

theorem respFails_facts (q : Req) (s : State) : (respFails q s).masterOf q.master = { s.masterOf q.master with chal := none } ∧
    (respFails q s).bit DBG.EVFLAGS 3 = true ∧ (respFails q s).rd DBG.AUTH_FAILS = min (s.rd DBG.AUTH_FAILS + 1) (2 ^ 32 - 1) ∧
    (respFails q s).dbg.lockUntil = s.now + 1000000 * ticksPerUs ∧ (15 ≤ s.rd DBG.AUTH_FAILS → (respFails q s).bit DBG.STATUS 3 = true) := by
  have flag : (locked q s).bit DBG.EVFLAGS 3 = true := bit_flag ..
  have until_ : (locked q s).dbg.lockUntil = s.now + 1000000 * ticksPerUs := congrArg DbgS.lockUntil (flag_dbg ..)
  rw [respFails_eq]
  split
  · rw [mo (setBit_hdi ..), rd_setBit_other _ (by decide), bit_of_rd (rd_setBit_other _ (by decide) _ _), setBit_dbg]
    exact ⟨locked_master q s, flag, locked_fails q s, until_, fun _ => bit_setBit_eq ..⟩
  · rename_i few
    refine ⟨locked_master q s, flag, locked_fails q s, until_, fun many => absurd ?_ few⟩
    rw [locked_fails]
    omega

theorem refused_fails (q : Req) (s : State) : (refused q s).rd DBG.AUTH_FAILS = s.rd DBG.AUTH_FAILS := bump_ne (by decide)

theorem refused_master (q : Req) (s : State) : ((refused q s).masterOf q.master).resp.status = 9 ∧
    ((refused q s).masterOf q.master).level = (s.masterOf q.master).level := by
  rw [refused, respond, masterOf_modMaster]
  exact ⟨rfl, rfl⟩

theorem wrong_gives (h : Writes q DBG.AUTH_RESP 32 v s) (small : q.master < 16) (flow : (s.masterOf q.master).chal.isSome = true)
    (bad : authOk q.master v s = false) : Gives (.authResp q v) s fun t => Answered q 9 t ∧
      (t.masterOf q.master).level = (s.masterOf q.master).level ∧ (t.masterOf q.master).chal = none ∧ t.bit DBG.EVFLAGS 3 = true ∧
      t.rd DBG.AUTH_FAILS = min (s.rd DBG.AUTH_FAILS + 1) (2 ^ 32 - 1) ∧ t.dbg.lockUntil = s.now + 1000000 * ticksPerUs ∧
      (15 ≤ s.rd DBG.AUTH_FAILS → t.bit DBG.STATUS 3 = true) := by
  refine ⟨_, exec_wrong h small flow bad, ?_⟩
  obtain ⟨master, flag, fails, until_, lock⟩ := respFails_facts q (refused q s)
  obtain ⟨status, level⟩ := refused_master q s
  rw [refused_fails] at fails lock
  rw [Answered, master]
  exact ⟨status, level, rfl, flag, fails, until_, lock⟩

/-! DBG.CTRL (R484). -/

theorem key2_gives (h : Writes q DBG.CTRL 1 1 s) (free : ∀ c ∈ dbgCtrlConds q 1 s, c.1 = false) : Gives (.dbgFuseKey2 q) s fun t =>
    Answered q 0 t ∧ t.dbg.key2 = s.dbg.stage ∧ t.bit DBG.STATUS 0 = true ∧ t.dbg.stage = 0 := by
  refine givesCmd' rfl h free fun t like => ?_
  rw [bit_of_rd (like_k like (by decide)), like.dbg]
  exact ⟨rfl, bit_setBit_eq .., rfl⟩

theorem key3_gives (h : Writes q DBG.CTRL 1 2 s) (free : ∀ c ∈ dbgCtrlConds q 2 s, c.1 = false) : Gives (.dbgFuseKey3 q) s fun t =>
    Answered q 0 t ∧ t.dbg.key3 = s.dbg.stage ∧ t.bit DBG.STATUS 1 = true ∧ t.dbg.stage = 0 := by
  refine givesCmd' rfl h free fun t like => ?_
  rw [bit_of_rd (like_k like (by decide)), like.dbg]
  exact ⟨rfl, bit_setBit_eq .., rfl⟩

theorem policy_gives (h : Writes q DBG.CTRL 1 3 s) (free : ∀ c ∈ dbgCtrlConds q 3 s, c.1 = false) : Gives (.dbgFusePolicy q) s fun t =>
    Answered q 0 t ∧ t.rd DBG.POLICY = s.rd DBG.POLICY ||| s.dbg.stage % 4 ∧ t.dbg.stage = 0 := by
  refine givesCmd' rfl h free fun t like => ?_
  rw [like_k like (by decide), like.dbg]
  exact ⟨rd_wr_same s DBG.POLICY (s.rd DBG.POLICY ||| s.dbg.stage % 4), rfl⟩

theorem reset_gives (h : Writes q DBG.CTRL 1 4 s) (free : ∀ c ∈ dbgCtrlConds q 4 s, c.1 = false) (late : s.crh.rstFrom + ticksPerUs < s.now) :
    Gives (.dbgReset q) s (PartReset s 7) := by
  obtain ⟨-, like⟩ := command_done (eff := fun s => s) h free
  have out : s.crh.inReset = false := by
    have hears := h.1.1
    rw [deaf, Bool.or_eq_false_iff, Bool.or_eq_false_iff] at hears
    exact hears.1.1
  have status : statusOf q 2 0xF000 2 1 4 0 (dbgCtrlConds q 4 s) s = 0 := statusOf_zero h.1.2 h.2 free
  have run : exec (.dbgReset q) s = .next (partReset 7 (command q DBG.CTRL 4 (dbgCtrlConds q 4 s) (fun s => s) s)) :=
    congrArg Host.Outcome.next (if_pos ⟨status, h.1.1⟩)
  refine ⟨_, run, Part_like (part_facts (by decide) ?_ ?_).1 like.rd⟩
  · rw [like.crh]
    exact out
  · rw [like.crh, like.now]
    exact late

/-! The test access port (R476 to R478). -/

/-- Instruction c has been loaded, which none of the five of R478 is: no reset begins, and one that such an instruction held ends. -/
def PlainLoad (c : Nat) (s t : State) : Prop :=
  t.dbg.insn = c ∧ t.mem = s.mem ∧ (∀ k, k ≠ DBG.STATUS → t.rd k = s.rd k) ∧
    (testInsn s.dbg.insn = true → t.crh.rstAt = max s.crh.rstAt s.now) ∧ (testInsn s.dbg.insn = false → t.crh = s.crh)

theorem loadInsn_plain {c : Nat} (plain : testInsn c = false) : PlainLoad c s (loadInsn c s) := by
  obtain ⟨dbg, mem, rd, -, -, held, free⟩ := load_plain plain s
  exact ⟨congrArg DbgS.insn dbg, mem, fun k _ => rd k, held, free⟩

/-- SAMPLE/PRELOAD has sampled the pins into the boundary register and taken its update stage from outside. -/
def sampled (s : State) : State :=
  (modDbg (fun d => { d with bound := pinCells s, upd := freeCells s.drawn.freeVal }) s.drawn).drawn

theorem exec_sample : exec .samplePreload s = .next (sampled (loadInsn 0x01 s)) := rfl

theorem sample_plain : PlainLoad 0x01 s (sampled (loadInsn 0x01 s)) := loadInsn_plain (c := 0x01) (s := s) (by decide)

/-- TRST has reset the TAP controller and the level of the debug port. -/
def portReset (s : State) : State := (loadInsn 0x02 s).modMaster 9 fun x => { x with level := 1, chal := none }

theorem exec_trst : exec .trst s = .next (vendorEnds 9 (portReset s)) := rfl

theorem trst_plain : PlainLoad 0x02 s (vendorEnds 9 (portReset s)) := by
  obtain ⟨insn, mem, rd, held, free⟩ := loadInsn_plain (c := 0x02) (s := s) (by decide)
  obtain ⟨-, -, rd', mem', crh, insn'⟩ := vendor_ends 9 (portReset s)
  refine ⟨insn'.trans insn, mem'.trans mem, fun k ne => (rd' k ne).trans (rd k ne), ?_⟩
  rw [crh]
  exact ⟨held, free⟩

theorem plain_gives : ∀ x ∈ [(Instr.samplePreload, 0x01), (.idcode, 0x02), (.bypass, 0xFF), (.trst, 0x02)], Gives x.1 s (PlainLoad x.2 s) := by
  intro x listed
  simp only [List.mem_cons, List.not_mem_nil, or_false] at listed
  rcases listed with rfl | rfl | rfl | rfl
  · exact ⟨_, exec_sample, sample_plain⟩
  · exact ⟨_, rfl, loadInsn_plain (by decide)⟩
  · exact ⟨_, rfl, loadInsn_plain (by decide)⟩
  · exact ⟨_, exec_trst, trst_plain⟩

theorem test_gives : ∀ x ∈ [(Instr.extest, 0x00), (.clamp, 0x03), (.highz, 0x04), (.extestPulse, 0x05), (.extestTrain, 0x06)],
    Gives x.1 s fun t => t.dbg.insn = x.2 ∧ t.dbg.test = true ∧ t.bit CRH.RESET_CAUSE 7 = true ∧
      (s.crh.inReset = false → s.crh.rstFrom + ticksPerUs < s.now → PartReset s 7 t) := by
  intro x listed
  simp only [List.mem_cons, List.not_mem_nil, or_false] at listed
  rcases listed with rfl | rfl | rfl | rfl | rfl <;> exact ⟨_, rfl, load_test (by decide) s⟩

theorem pins_gives : Gives .samplePreload s fun t => t.dbg.bound.syncin = s.pins.syncin ∧ t.dbg.bound.trgi = s.pins.trgi ∧
    t.dbg.bound = pinCells (loadInsn 0x01 s) := by
  obtain ⟨-, -, -, -, pins, -⟩ := load_plain (c := 0x01) (by decide) s
  exact ⟨_, exec_sample, congrArg PinsS.syncin pins, congrArg PinsS.trgi pins, rfl⟩

theorem identification_gives : Gives .idcode s fun t => t.dbg.dr = idcode s := by
  obtain ⟨dbg, -⟩ := load_plain (c := 0x02) (by decide) s
  exact ⟨_, rfl, congrArg DbgS.dr dbg⟩

theorem bypass_gives : Gives .bypass s fun t => t.dbg.dr = 0 := by
  obtain ⟨dbg, -⟩ := load_plain (c := 0xFF) (by decide) s
  exact ⟨_, rfl, congrArg DbgS.dr dbg⟩

theorem trst_gives : Gives .trst s fun t => (t.masterOf 9).level = 1 ∧ (t.masterOf 9).chal = none ∧ t.dbg.vendor ≠ some 9 ∧
    ∀ m, m ≠ 9 → t.masterOf m = s.masterOf m := by
  obtain ⟨vendor, masters, -⟩ := vendor_ends 9 (portReset s)
  obtain ⟨-, -, -, hdi, -⟩ := load_plain (c := 0x02) (by decide) s
  have own : (portReset s).masterOf 9 = { (loadInsn 0x02 s).masterOf 9 with level := 1, chal := none } := by
    rw [portReset, masterOf_modMaster]
  refine ⟨_, exec_trst, ?_, ?_, vendor, fun m ne => ?_⟩
  · rw [masters, own]
  · rw [masters, own]
  · rw [masters, portReset, masterOf_modMaster_other _ ne, mo hdi]

/-- Settles O52: clause by clause, a response by whether it is correct, and an instruction of the TAP by whether it is one of the
five that hold the part in reset. -/
theorem authorisationCompletes : Obligations.AuthorisationCompletes := by
  unfold Obligations.AuthorisationCompletes
  exact fun q s => ⟨customer_gives rfl rfl, customer_gives rfl rfl, vendor_gives, drop_gives,
    fun _ h small => ⟨correct_gives h small, wrong_gives h small⟩, key2_gives, key3_gives, policy_gives, reset_gives, test_gives,
    plain_gives, pins_gives, identification_gives, bypass_gives, trst_gives⟩

end Sys2Proof.Proofs.Authorisation
end

section
/-! Break units, run control, and a target's registers and terminal (chapter 19, R474, R485 to R498). -/
namespace Sys2Proof.Proofs.DebugControl
open Sys2Proof.Machine Sys2Proof.Laws Common CompleteDbg DebugFacts CompletePins

variable {q : Req} {n u v k g sel : Nat} {s t : State}

/-! Break units (R485 to R488). -/

theorem alloc_gives (h : Writes q DBG.BRK_ALLOC 1 1 s) (free : freeUnit s = some u) : Gives (.brkAlloc q) s fun t => Answered q 0 t ∧ u < 64 ∧
    (s.brkOf u).on = false ∧ (t.brkOf u).on = true ∧ (t.brkOf u).count = 0 ∧ t.rd (DBG.BRK_STATE u) = 1 ∧ (t.masterOf q.master).brkLast = u := by
  obtain ⟨low, off⟩ := free_unit free
  refine givesCmd' rfl h (by simp [free]) fun t like => ?_
  have eff : brkAllocEff q s = (rearm u s).modMaster q.master fun x => { x with brkLast := u } := by
    rw [brkAllocEff, free]
    rfl
  rw [eff] at like
  obtain ⟨state, unit, _⟩ := rearm_facts u s
  have armed : t.brkOf u = { on := true } := (brk_like like u).trans unit
  obtain ⟨_, is⟩ := like.master q.master
  rw [armed, is, masterOf_modMaster, like_k like (by simp only [DBG.BRK_STATE]; omega)]
  exact ⟨low, off, rfl, rfl, state, rfl⟩

theorem config_gives (low : u < 64) (h : Writes q (DBG.BRK_CFG u) 8 v s) (free : ∀ c ∈ brkCfgConds q u v s, c.1 = false) :
    Gives (.brkCfgWrite q u v) s fun t =>
    Answered q 0 t ∧ t.rd (DBG.BRK_CFG u) = v ∧ t.rd (DBG.BRK_STATE u) = 1 ∧ t.brkOf u = { on := true } := by
  refine givesWr rfl low h free fun t like => ?_
  obtain ⟨state, unit, others⟩ := rearm_facts u (s.wr (DBG.BRK_CFG u) v)
  refine ⟨?_, ?_, (brk_like like u).trans unit⟩
  · rw [like_k like (by simp only [DBG.BRK_CFG]; omega)]
    exact (others _ (by simp only [DBG.BRK_CFG, DBG.BRK_STATE]; omega)).trans (rd_wr_same ..)
  · rw [like_k like (by simp only [DBG.BRK_STATE]; omega)]
    exact state

theorem rearm_gives (low : u < 64) (h : Writes q (DBG.BRK_CMD u) 1 2 s) (free : ∀ c ∈ brkCmdConds q u s, c.1 = false) :
    Gives (.brkRearm q u) s fun t => Answered q 0 t ∧ t.rd (DBG.BRK_STATE u) = 1 ∧ t.brkOf u = { on := true } := by
  refine givesCmd rfl low h free fun t like => ?_
  obtain ⟨state, unit, _⟩ := rearm_facts u s
  rw [like_k like (by simp only [DBG.BRK_STATE]; omega), brk_like like]
  exact ⟨state, unit⟩

theorem free_gives (low : u < 64) (h : Writes q (DBG.BRK_CMD u) 1 3 s) (free : ∀ c ∈ brkCmdConds q u s, c.1 = false) :
    Gives (.brkFree q u) s fun t => Answered q 0 t ∧ t.rd (DBG.BRK_STATE u) = 0 ∧ t.brkOf u = {} := by
  refine givesCmd rfl low h free fun t like => ?_
  rw [like_k like (by simp only [DBG.BRK_STATE]; omega), brk_like like]
  exact ⟨rd_wr_same .., brkOf_modBrk (s := s) u fun _ => {}⟩

/-! The halt of a group (R489, R494). -/

theorem exec_groupHalt {x : Nat × Nat} (low : g < 4) (due : (s.groupAt.find? fun x => Nat.beq x.1 g) = some x) :
    exec (.groupHaltLatch g) s = .next ((List.range 64).foldl (gstep g x.2) ({ s with groupAt := s.groupAt.erase x }.upto x.2)) := by
  refine (unitNext low).trans (congrArg _ ?_)
  rw [due]
  rfl

theorem groupHalt_gives {x : Nat × Nat} (low : g < 4) (due : (s.groupAt.find? fun x => Nat.beq x.1 g) = some x) :
    Gives (.groupHaltLatch g) s fun t => t.groupAt = s.groupAt.erase x ∧ t.now = max s.now x.2 ∧ ∀ i, i < 32 →
      (s.bit (DBG.GROUP g) i = true → veState i s = 3 → (s.veOf i).haltAt = none →
        (t.veOf i).haltAt = some (stopFrom x.2) ∧ (t.tgtOf (1 + i)).pend = true) ∧
      (s.bit (DBG.GROUP g) (32 + i) = true → s.rd (DSP.STATE i) = 2 → (s.dspOf i).halt = none →
        (t.dspOf i).halt = some x.2 ∧ (t.tgtOf (33 + i)).pend = true) := by
  refine ⟨_, exec_groupHalt low due, (gfold_rest ..).1, (gfold_rest ..).2, fun i small => ⟨fun named runs steady => ?_, fun named runs steady => ?_⟩⟩
  · exact gfold_ve small _ _ List.nodup_range (List.mem_range.2 (by omega)) named runs steady
  · exact gfold_dsp small _ _ List.nodup_range (List.mem_range.2 (by omega)) named runs steady

/-! HALT, RESUME and STEP (R490 to R493). -/

theorem halt_gives (low : n < 65) (h : Writes q (DBG.HCTRL n) 1 1 s) (free : ∀ c ∈ haltConds q n s, c.1 = false) :
    Gives (.dbgHalt q n) s fun t => Answered q 0 t ∧ (n = 0 → (t.tgtOf 0).pend = true) ∧
    (1 ≤ n → n ≤ 32 → (s.veOf (n - 1)).haltAt = none → (t.veOf (n - 1)).haltAt = some (stopFrom s.now) ∧ (t.tgtOf n).pend = true) ∧
    (33 ≤ n → (s.dspOf (n - 33)).halt = none → (t.dspOf (n - 33)).halt = some s.now ∧ (t.tgtOf n).pend = true) := by
  refine givesCmd rfl low h free fun t like => ⟨fun zero => ?_, fun above below steady => ?_, fun above steady => ?_⟩
  · subst zero
    have runs := free (tstate 0 s != 0 || s.cfg.load.isSome, 9) (by simp [haltConds])
    have loose : (s.tgtOf 0).held = false := by
      cases held : (s.tgtOf 0).held with
      | false => rfl
      | true => simp [tstate, held] at runs
    rw [tgt_like like, latchDebugHalt, if_pos rfl, tgtOf_modTgt]
    simp [loose]
  · obtain ⟨i, rfl⟩ : ∃ i, n = 1 + i := ⟨n - 1, by omega⟩
    have runs : s.rd (VEN.STATE i) = 3 := by
      have := free (s.rd (VEN.STATE (1 + i - 1)) != 3, 9) (by rw [haltConds, if_neg (by omega), if_pos below]; exact List.mem_singleton_self _)
      simpa using this
    rw [Nat.add_sub_cancel_left] at steady ⊢
    rw [ve_like like, tgt_like like]
    exact latch_ve_own (by omega) runs steady
  · obtain ⟨i, rfl⟩ : ∃ i, n = 33 + i := ⟨n - 33, by omega⟩
    have runs : s.rd (DSP.STATE i) = 2 := by
      have := free (s.rd (DSP.STATE (33 + i - 33)) != 2, 9) (by rw [haltConds, if_neg (by omega), if_neg (by omega)]; exact List.mem_singleton_self _)
      simpa using this
    rw [Nat.add_sub_cancel_left] at steady ⊢
    rw [dsp_like like, tgt_like like]
    exact latch_dsp_own (by omega) runs steady

theorem resume_gives (low : n < 65) (h : Writes q (DBG.HCTRL n) 1 2 s) (free : ∀ c ∈ resumeConds q n s, c.1 = false) :
    Gives (.dbgResume q n) s fun t => Answered q 0 t ∧
    (t.tgtOf n).left = none ∧ (n = 0 → (t.tgtOf n).held = false) ∧ (1 ≤ n → (t.tgtOf n).held = (s.tgtOf n).held) ∧
    (1 ≤ n → n ≤ 32 → (t.veOf (n - 1)).resumeAt = earlier (s.veOf (n - 1)).resumeAt (engEdge s.now + 64 * ticksPerNs)) ∧
    (33 ≤ n → t.rd (DSP.STATE (n - 33)) = 2) := by
  refine givesCmd rfl low h free fun t like => ?_
  obtain ⟨left, loose, same, engine, dsp⟩ := resume_facts n s
  rw [tgt_like like, ve_like like, like_k like (by simp only [DSP.STATE]; omega)]
  exact ⟨left, loose, fun above => by rw [same above], engine, dsp⟩

/-- A step of a target is its going on, with the steps to go. -/
theorem step_facts (n : Nat) (s : State) : ((stepEff n s).tgtOf n).left = some (s.rd (DBG.STEP_N n)) ∧
    (n = 0 → ((stepEff n s).tgtOf n).held = false) ∧ (1 ≤ n → ((stepEff n s).tgtOf n).held = (s.tgtOf n).held) ∧
    (1 ≤ n → n ≤ 32 → ((stepEff n s).veOf (n - 1)).resumeAt = earlier (s.veOf (n - 1)).resumeAt (engEdge s.now + 64 * ticksPerNs)) ∧
    (33 ≤ n → (stepEff n s).rd (DSP.STATE (n - 33)) = 2) := by
  unfold stepEff
  dsimp only
  rw [tgtOf_modTgt]
  refine ⟨rfl, fun zero => ?_, fun above => ?_, fun above below => ?_, fun above => ?_⟩
  · subst zero
    exact (go_tgt s).1
  · show ((goOn n s).tgtOf n).held = _
    rw [(goOn_engine (by omega) s).1]
  · exact (goOn_engine (n := n) (by omega) s).2.1 below
  · exact (goOn_engine (n := n) (by omega) s).2.2 above

theorem step_gives (low : n < 65) (h : Writes q (DBG.HCTRL n) 1 3 s) (free : ∀ c ∈ resumeConds q n s, c.1 = false) :
    Gives (.dbgStep q n) s fun t => Answered q 0 t ∧
    (t.tgtOf n).left = some (s.rd (DBG.STEP_N n)) ∧ (n = 0 → (t.tgtOf n).held = false) ∧
    (1 ≤ n → (t.tgtOf n).held = (s.tgtOf n).held) ∧
    (1 ≤ n → n ≤ 32 → (t.veOf (n - 1)).resumeAt = earlier (s.veOf (n - 1)).resumeAt (engEdge s.now + 64 * ticksPerNs)) ∧
    (33 ≤ n → t.rd (DSP.STATE (n - 33)) = 2) := by
  refine givesCmd rfl low h free fun t like => ?_
  rw [tgt_like like, ve_like like, like_k like (by simp only [DSP.STATE]; omega)]
  exact step_facts n s

/-! Instruction boundaries of Molxo (R474, R490, R493). -/

/-- Molxo before its watchdogs stop. -/
def heldMolxo (s : State) : State := dbgFlag 1 (s.modTgt 0 fun g => { g with pend := false, held := true, left := none })

theorem hold_tgt (s : State) : (molxoHold s).tgtOf 0 = { s.tgtOf 0 with pend := false, held := true, left := none } := by
  show (heldMolxo s).tgtOf 0 = _
  rw [State.tgtOf, heldMolxo, dbgFlag, flag_tgt]
  exact tgtOf_modTgt ..

theorem held_sup (s : State) : (heldMolxo s).sup = s.sup := flag_sup ..

theorem held_now (s : State) : (heldMolxo s).now = s.now := flag_now ..

theorem hold_sup (s : State) : (molxoHold s).sup.wd = none ∧ (molxoHold s).sup.hostEnd = none ∧
    (s.sup.frozen = none → s.sup.wd.isSome = true → (molxoHold s).sup.frozen = some (supWdLeft s s.now)) ∧
    ∀ e, s.sup.hostEnd = some e → (molxoHold s).sup.hostLeft = some (e - s.now) := by
  have code : molxoHold s = modSup (fun u => { u with
    frozen := if u.wd.isSome then some (supWdLeft (heldMolxo s) (heldMolxo s).now) else u.frozen, wd := none,
    hostLeft := match u.hostEnd with | some e => some (e - (heldMolxo s).now) | none => u.hostLeft, hostEnd := none }) (heldMolxo s) := rfl
  refine ⟨rfl, rfl, fun thawed runs => ?_, fun e host => ?_⟩
  · obtain ⟨w, is⟩ := Option.isSome_iff_exists.1 runs
    rw [code]
    show (if (heldMolxo s).sup.wd.isSome then some (supWdLeft (heldMolxo s) (heldMolxo s).now) else (heldMolxo s).sup.frozen) = _
    rw [supWdLeft, supWdLeft, held_sup, held_now, is, thawed]
    rfl
  · rw [code]
    show (match (heldMolxo s).sup.hostEnd with | some e => some (e - (heldMolxo s).now) | none => (heldMolxo s).sup.hostLeft) = _
    rw [held_sup, held_now, host]

theorem lands_gives (pend : (s.tgtOf 0).pend = true) : Gives .molxoHaltLands s fun t => (t.tgtOf 0).held = true ∧ (t.tgtOf 0).pend = false ∧
    t.bit DBG.EVFLAGS 1 = true ∧ t.sup.wd = none ∧ t.sup.hostEnd = none ∧
    (s.sup.frozen = none → s.sup.wd.isSome = true → t.sup.frozen = some (supWdLeft s s.now)) ∧
    ∀ e, s.sup.hostEnd = some e → t.sup.hostLeft = some (e - s.now) := by
  refine ⟨molxoHold s, congrArg Host.Outcome.next (if_pos pend), ?_⟩
  beta_reduce
  rw [hold_tgt]
  exact ⟨rfl, rfl, bit_flag .., hold_sup s⟩

/-- Molxo issues an instruction, with k steps to go. -/
def stepped (k : Nat) (s : State) : State := s.modTgt 0 fun g => { g with left := some k }

theorem exec_boundary (quiet : (s.tgtOf 0).pend = false) (loose : molxoHeld s = false) (runs : supOpen s = true) :
    exec .molxoHaltLands s = .next (match (s.tgtOf 0).left with
      | some (k + 2) => molxoIssue (stepped (k + 1) s)
      | some _ => molxoHold s
      | none => molxoIssue s) := by
  refine congrArg Host.Outcome.next ((if_neg (Bool.eq_false_iff.1 quiet)).trans (if_neg ?_))
  rw [runs, show (s.tgtOf 0).held = false from loose]
  decide

theorem lastStep_gives (quiet : (s.tgtOf 0).pend = false) (loose : molxoHeld s = false) (runs : supOpen s = true)
    (last : (s.tgtOf 0).left = some 1) : Gives .molxoHaltLands s fun t => (t.tgtOf 0).held = true ∧ (t.tgtOf 0).left = none := by
  refine ⟨molxoHold s, ?_, ?_⟩
  · rw [exec_boundary quiet loose runs, last]
  · beta_reduce
    rw [hold_tgt]
    exact ⟨rfl, rfl⟩

theorem nextStep_gives (quiet : (s.tgtOf 0).pend = false) (loose : molxoHeld s = false) (runs : supOpen s = true)
    (more : (s.tgtOf 0).left = some (k + 2)) :
    Gives .molxoHaltLands s fun t => (t.tgtOf 0).held = false ∧ (t.tgtOf 0).left = some (k + 1) := by
  refine ⟨molxoIssue (stepped (k + 1) s), ?_, ?_⟩
  · rw [exec_boundary quiet loose runs, more]
  · have issue (u : State) : Holds 0 u (molxoIssue u) := brk_holds 6 0 (u.freeVal % 2 ^ 64) 0 0 u.now 0 u.drawn
    have left : (stepped (k + 1) s).tgtOf 0 = { s.tgtOf 0 with left := some (k + 1) } := tgtOf_modTgt ..
    obtain ⟨held, count⟩ := issue (stepped (k + 1) s)
    beta_reduce
    rw [held, count, left]
    exact ⟨loose, rfl⟩

/-! DBG.REG (R495). -/

/-- A selector of a vector engine names one of its registers, and its next word is the one a decision without a transfer takes. -/
theorem ve_register (above : 1 ≤ n) (below : n ≤ 32) (named : regWidth n sel ≠ 0) (plain : sel ≠ 0x22)
    (deep : 0x10 ≤ sel → sel < 0x20 → sel < 0x10 + (s.veOf (n - 1)).stack.length) (like : Like (regWrite n sel v s) t) :
    regValue n sel t = v := by
  have range : sel ≤ 0x22 := by
    rw [regWidth, if_neg (by omega), if_pos below] at named
    by_contra out
    exact named (if_neg out)
  rw [regWrite, if_neg (by omega), if_pos below] at like
  rw [regValue, if_neg (by omega), if_pos below]
  dsimp only at like ⊢
  by_cases counter : sel < 0x10
  · rw [if_pos counter] at like ⊢
    rw [like_k like (by simp only [VEN.CTR]; omega)]
    exact rd_wr_same ..
  rw [if_neg counter] at like ⊢
  by_cases level : sel < 0x20
  · rw [if_pos level] at like ⊢
    rw [ve_like like, veOf_modVe]
    have := deep (by omega) level
    simp only [List.getD_eq_getElem?_getD]
    rw [List.getElem?_set_self (by omega)]
    rfl
  rw [if_neg level] at like ⊢
  by_cases next : sel = 0x20
  · rw [if_pos next] at like ⊢
    have known := learnUpTo_gV (n - 1) (n - 1) (t.now + 18 * ticksPerNs) t
    have own : t.veOf (n - 1) = { s.veOf (n - 1) with next := v, after := .seq } := (ve_like like _).trans (veOf_modVe ..)
    have straight : ((learnUpTo (n - 1) (t.now + 18 * ticksPerNs) t).veOf (n - 1)).after = .seq :=
      (congrArg (·.2.2.2.1) known).trans (congrArg VeRun.after own)
    rw [resolve, straight, own]
    rfl
  rw [if_neg next] at like ⊢
  rw [if_pos (show sel = 0x21 by omega), ve_like like, veOf_modVe]

/-- A selector of a DSP engine names one of its registers. -/
theorem dsp_register (above : 33 ≤ n) (named : regWidth n sel ≠ 0) (fits : v < 2 ^ regWidth n sel) (like : Like (regWrite n sel v s) t) :
    regValue n sel t = v := by
  rw [regWidth, if_neg (by omega), if_neg (by omega)] at named fits
  rw [regWrite, if_neg (by omega), if_neg (by omega)] at like
  rw [regValue, if_neg (by omega), if_neg (by omega)]
  dsimp only at like ⊢
  by_cases vector : sel < 0x140
  · rw [if_pos vector] at like ⊢
    rw [dsp_like like, dspOf_modDsp, get_set0]
  rw [if_neg vector] at like ⊢
  by_cases sum : sel < 0x150
  · rw [if_pos sum] at like ⊢
    rw [dsp_like like, dspOf_modDsp, get_set0]
  rw [if_neg sum] at like ⊢
  by_cases address : sel < 0x168
  · rw [if_pos address] at like ⊢
    rw [dsp_like like, dspOf_modDsp, get_set0]
  rw [if_neg address] at like ⊢
  by_cases offset : sel < 0x170
  · rw [if_pos offset] at like ⊢
    rw [dsp_like like, dspOf_modDsp, get_set0]
  rw [if_neg offset] at like ⊢
  by_cases loop : sel < 0x174
  · rw [if_pos loop] at like ⊢
    rw [dsp_like like, dspOf_modDsp, get_set0]
  rw [if_neg loop] at like ⊢
  rw [if_neg (by omega), if_neg vector, if_neg sum, if_neg (by omega), if_neg offset, if_neg loop] at named fits
  have range : sel < 0x178 := by
    by_contra out
    refine named ?_
    rw [List.getD_eq_getElem?_getD, List.getElem?_eq_none (by simp; omega)]
    rfl
  obtain rfl | rfl | rfl | rfl : sel = 0x174 ∨ sel = 0x175 ∨ sel = 0x176 ∨ sel = 0x177 := by omega
  · show t.rd _ = v
    rw [like_k like (by simp only [DSP.BEXP]; omega)]
    exact rd_wr_same ..
  · show (t.dspOf _).bsh = v
    rw [dsp_like like]
    exact congrArg DspRun.bsh (dspOf_modDsp ..)
  · show t.rd _ % 2 ^ 16 = v
    rw [like_k like (by simp only [DSP.EXPACC]; omega)]
    have value : (if v < 2 ^ 15 then v else v + 2 ^ 32 - 2 ^ 16) % 2 ^ 16 = v := by
      have : v < 2 ^ 16 := fits
      split <;> omega
    exact (congrArg (· % 2 ^ 16) (rd_wr_same ..)).trans value
  · show (t.dspOf _).pc = v
    rw [dsp_like like]
    exact congrArg DspRun.pc (dspOf_modDsp ..)

theorem regRead_gives (low : n < 65) (h : Takes q (DBG.REG n) 8 s) (free : ∀ c ∈ regConds q n false 0 s, c.1 = false) :
    Gives (.dbgRegAccess q n false v) s (AnsweredWith q 8 (regValue n (s.rd (DBG.REGSEL n)) s)) :=
  ⟨_, unitNext low, (readFrom_any h free).1⟩

theorem regWrite_gives (low : n < 65) (h : Writes q (DBG.REG n) 8 v s) (free : ∀ c ∈ regConds q n true v s, c.1 = false) :
    Gives (.dbgRegAccess q n true v) s fun t =>
    Answered q 0 t ∧ (1 ≤ n → (n ≤ 32 → 0x10 ≤ s.rd (DBG.REGSEL n) → s.rd (DBG.REGSEL n) < 0x20 →
      s.rd (DBG.REGSEL n) < 0x10 + (s.veOf (n - 1)).stack.length) → regValue n (s.rd (DBG.REGSEL n)) t = v) := by
  refine givesWr rfl low h free fun t like above deep => ?_
  have plain := free (true && Nat.ble 1 n && Nat.ble n 32 && Nat.beq (s.rd (DBG.REGSEL n)) 0x22, 2) (by simp [regConds])
  have limits := free (Nat.beq (regWidth n (s.rd (DBG.REGSEL n))) 0 || (true && Nat.ble (2 ^ regWidth n (s.rd (DBG.REGSEL n))) v), 4) (by simp [regConds])
  rw [regWriteEff] at like
  generalize s.rd (DBG.REGSEL n) = sel at like deep plain limits ⊢
  simp only [Bool.true_and, Bool.or_eq_false_iff] at plain limits
  have named : regWidth n sel ≠ 0 := Nat.ne_of_beq_eq_false limits.1
  by_cases engine : n ≤ 32
  · refine ve_register above engine named (fun ro => ?_) (deep engine) like
    rw [Nat.ble_eq_true_of_le above, Nat.ble_eq_true_of_le engine, ro] at plain
    cases plain
  · refine dsp_register (by omega) named ?_ like
    exact Nat.lt_of_not_le fun wide => by rw [Nat.ble_eq_true_of_le wide] at limits; cases limits.2

/-! Terminal registers (R498). -/

theorem tdtx_gives (low : n < 65) (h : Writes q (DBG.T_DTX n) 4 v s) (empty : (s.tgtOf n).dtxFull = false) :
    Gives (.tDtxWrite q n v) s fun t => Answered q 0 t ∧
    (t.tgtOf n).dtx = v ∧ (t.tgtOf n).dtxFull = true ∧ t.bit DBG.EVFLAGS 4 = true := by
  refine givesWr rfl low h (by simp [tdtxConds, empty]) fun t like => ?_
  have own : t.tgtOf n = { s.tgtOf n with dtx := v, dtxFull := true } := by
    rw [tgt_like like, State.tgtOf, tdtxEff, dbgFlag, flag_tgt]
    exact tgtOf_modTgt ..
  rw [own, bit_of_rd (like_k like (by decide))]
  exact ⟨rfl, rfl, bit_flag ..⟩

theorem dtx_gives (low : n < 65) (h : Takes q (DBG.DTX n) 4 s) (full : (s.tgtOf n).dtxFull = true) :
    Gives (.dtxRead q n) s fun t => AnsweredWith q 4 (s.tgtOf n).dtx t ∧
    (q.master ≠ 9 → (t.tgtOf n).dtxFull = false ∧ (t.tgtOf n).dtxReads = (s.tgtOf n).dtxReads + 1) ∧
    (q.master = 9 → t.tgtOf n = s.tgtOf n) := by
  have free : ∀ c ∈ [(!((s.tgtOf n).dtxFull), 7)], c.1 = false := by simp [full]
  by_cases port : q.master = 9
  · obtain ⟨answered, like⟩ := readFrom_any (eff := dtxEff n) (data := (s.tgtOf n).dtx) h free
    obtain ⟨r, found, rc⟩ := MeshLaws.of_isRc (DebugRead.isRc_DTX n low)
    have debug : debugRead q 1 (DBG.DTX n / 256) (DBG.DTX n % 256) = true := by
      rw [debugRead, port, found]
      simp [rc]
    rw [debug] at like
    exact ⟨_, unitNext low, answered, fun other => absurd port other, fun _ => tgt_like like n⟩
  · obtain ⟨answered, like⟩ := readFrom_done (eff := dtxEff n) (data := (s.tgtOf n).dtx) h port free
    refine ⟨_, unitNext low, answered, fun _ => ?_, fun same => absurd same port⟩
    rw [tgt_like like, dtxEff, tgtOf_modTgt]
    exact ⟨rfl, rfl⟩

theorem drx_gives (low : n < 65) (h : Writes q (DBG.DRX n) 4 v s) (empty : (s.tgtOf n).drxFull = false) :
    Gives (.drxWrite q n v) s fun t => Answered q 0 t ∧
    (t.tgtOf n).drx = v ∧ (t.tgtOf n).drxFull = true ∧ (t.tgtOf n).drxWrites = (s.tgtOf n).drxWrites + 1 := by
  refine givesWr rfl low h (by simp [drxConds, empty]) fun t like => ?_
  rw [tgt_like like, drxEff, tgtOf_modTgt]
  exact ⟨rfl, rfl, rfl⟩

theorem tdrx_gives (low : n < 65) (h : Takes q (DBG.T_DRX n) 4 s) (full : (s.tgtOf n).drxFull = true) :
    Gives (.tDrxRead q n) s fun t => AnsweredWith q 4 (s.tgtOf n).drx t ∧
    (q.master ≠ 9 → (t.tgtOf n).drxFull = false ∧ t.bit DBG.EVFLAGS 5 = true) := by
  have free : ∀ c ∈ [(!((s.tgtOf n).drxFull), 7)], c.1 = false := by simp [full]
  refine ⟨_, unitNext low, (readFrom_any h free).1, fun own => ?_⟩
  have like := (readFrom_done (eff := tdrxEff n) (data := (s.tgtOf n).drx) h own free).2
  have empty : (tdrxEff n s).tgtOf n = { s.tgtOf n with drxFull := false } := by
    rw [State.tgtOf, tdrxEff, dbgFlag, flag_tgt]
    exact tgtOf_modTgt ..
  rw [tgt_like like, empty, bit_of_rd (like_k like (by decide))]
  exact ⟨rfl, bit_flag ..⟩

/-- Settles O53: each command of a break unit, of a target's run and of its registers by its own lemma. -/
theorem debugControlCompletes : Obligations.DebugControlCompletes := by
  unfold Obligations.DebugControlCompletes
  refine ⟨fun q u s => ?_, fun q n s low => ?_⟩
  · exact ⟨alloc_gives, fun _ => config_gives, rearm_gives, free_gives, fun _ _ => groupHalt_gives⟩
  · exact ⟨halt_gives low, resume_gives low, step_gives low, lands_gives,
      fun quiet loose runs => ⟨lastStep_gives quiet loose runs, fun _ => nextStep_gives quiet loose runs⟩,
      fun _ => regRead_gives low, fun _ => regWrite_gives low, fun _ => tdtx_gives low, dtx_gives low, fun _ => drx_gives low, tdrx_gives low⟩

end Sys2Proof.Proofs.DebugControl
end

section
/-! The I3C target (02_control_dictionary.md R32 to R39, R43; 15_clocks_reset.md R405, R406). -/
namespace Sys2Proof.Proofs.BusCode
open Sys2Proof.Machine Sys2Proof.Laws Common CompleteCrh ClockFacts CompleteHdi BusFacts

variable {i : Instr} {f : I3cS → I3cS} {act : State → State} {a x : Nat} {d : Option Nat} {s : State}

/-- A change of the target's own state alone. -/
theorem bus_gives (run : exec i s = .next (s.modI3c f)) : Gives i s (BusGives s f) := ⟨_, run, rfl, rfl, rfl, rfl⟩

/-! The forms of a common command code (R33). -/

/-- A code with both forms, at a part that has an address. -/
theorem either_gives (up : busUp s = true) (own : s.hdi.i3c.dyn = some a) (form : d ∈ [none, some a])
    (run : exec i s = .next (either d (takeCcc f) s)) : Gives i s (BusGives s fun i => { f i with out := .ack }) :=
  bus_gives (run.trans (congrArg _ (either_at up own form)))

/-- A code directed at the part's address. -/
theorem direct_gives (up : busUp s = true) (own : s.hdi.i3c.dyn = some a) (change : act s = s.modI3c f)
    (run : exec i s = .next (direct a act s)) : Gives i s (BusGives s f) :=
  bus_gives (run.trans (congrArg _ ((direct_at up own).trans change)))

/-- A code that is broadcast. -/
theorem broadcast_gives (up : busUp s = true) (change : act s = s.modI3c f)
    (run : exec i s = .next (broadcast act s)) : Gives i s (BusGives s f) :=
  bus_gives (run.trans (congrArg _ ((broad up).trans change)))

/-! Codes of a part with an address and of one without (R33 to R36). -/

/-- The two bytes of GETSTATUS (R36). -/
def statusShown (v : Nat) (s : State) : State := (show' (.data 2 v) s).drawn

theorem exec_getstatus (up : busUp s = true) (own : s.hdi.i3c.dyn = some a) :
    exec (.getstatus a) s = .next (statusShown (s.freeVal % 2 ^ 16) s) := by
  have run : exec (.getstatus a) s = .next (direct a (fun s => statusShown (s.freeVal % 2 ^ 16) s) s) := rfl
  rw [run, direct_at up own]

theorem status_gives (up : busUp s = true) (own : s.hdi.i3c.dyn = some a) :
    Gives (.getstatus a) s (fun t => ∃ v, v < 2 ^ 16 ∧ BusGives s (fun i => { i with out := .data 2 v }) t) := by
  have shown (v : Nat) : BusGives s (fun i => { i with out := .data 2 v }) (statusShown v s) := ⟨rfl, rfl, rfl, rfl⟩
  have small : s.freeVal % 2 ^ 16 < 2 ^ 16 := by omega
  have run := exec_getstatus up own
  generalize s.freeVal % 2 ^ 16 = v at run small
  exact ⟨_, run, v, small, shown v⟩

theorem setdasa_addressed (up : busUp s = true) (own : s.hdi.i3c.dyn = some a) :
    Gives (.setdasa a x) s (BusGives s fun i => { i with out := .nack }) := by
  refine bus_gives (congrArg Host.Outcome.next ((if_pos up).trans ?_))
  rw [own]
  exact if_pos (Or.inl rfl)

theorem setdasa_bare (up : busUp s = true) (bare : s.hdi.i3c.dyn = none) :
    Gives (.setdasa 0x3A x) s (BusGives s fun i => { i with dyn := some x, out := .ack }) := by
  refine bus_gives (congrArg Host.Outcome.next ((if_pos up).trans ?_))
  rw [bare]
  exact if_pos rfl

theorem all_above {p : Nat} {rivals : List Nat} (lowest : ∀ r ∈ rivals, p < r) : (rivals.all fun y => Nat.blt p y) = true :=
  List.all_eq_true.2 fun y rival => Nat.ble_eq_true_of_le (lowest y rival)

/-- The part's side of an arbitration (R34). -/
def arbitrated (x : Nat) (rivals : List Nat) (s : State) : State :=
  if s.hdi.i3c.dyn.isNone && rivals.all (fun y => Nat.blt (provisionalId s) y) then takeAddr x s else s

theorem arbitrated_wins {rivals : List Nat} (bare : s.hdi.i3c.dyn = none) (lowest : ∀ r ∈ rivals, provisionalId s < r) :
    arbitrated x rivals s = takeAddr x s := by
  rw [arbitrated, bare, all_above lowest]
  exact if_pos rfl

/-- A part with the lowest provisional ID wins the arbitration (R34). -/
theorem entdaa_gives {rivals : List Nat} (up : busUp s = true) (bare : s.hdi.i3c.dyn = none) (lowest : ∀ r ∈ rivals, provisionalId s < r) :
    Gives (.entdaa x rivals) s (BusGives s fun i => { i with dyn := some x, out := .ack }) :=
  broadcast_gives (act := arbitrated x rivals) up (arbitrated_wins bare lowest) rfl

theorem setaasa_gives (up : busUp s = true) (bare : s.hdi.i3c.dyn = none) :
    Gives .setaasa s (BusGives s fun i => { i with dyn := some 0x3A, out := .ack }) :=
  broadcast_gives up (if_pos (by rw [bare]; rfl)) rfl

/-- Without an address the part answers no other code at its static one. -/
theorem static_gives (up : busUp s = true) (bare : s.hdi.i3c.dyn = none) : ∀ c ∈ [Instr.getmwl 0x3A, .getmrl 0x3A, .getpid 0x3A,
    .getbcr 0x3A, .getdcr 0x3A, .getstatus 0x3A, .unsupportedCcc (some 0x3A)], Gives c s (BusGives s fun i => { i with out := .nack }) := by
  have nacked (act : State → State) : direct 0x3A act s = s.modI3c fun i => { i with out := .nack } := direct_none up bare
  intro c code
  simp only [List.mem_cons, List.not_mem_nil, or_false] at code
  obtain rfl | rfl | rfl | rfl | rfl | rfl | rfl := code <;> exact bus_gives (congrArg Host.Outcome.next (nacked _))

/-! The exit and reset patterns (15 R405). -/

theorem exit_gives (out : s.crh.inReset = false) : Gives .hdrExit s (BusGives s fun i => { i with bus := .sdr }) :=
  bus_gives (congrArg Host.Outcome.next (if_neg (Bool.eq_false_iff.1 out)))

theorem exec_pattern (out : s.crh.inReset = false) : exec .targetResetPattern s = .next (match s.hdi.i3c.rstact with
    | some 0 => s.modI3c fun i => { i with rstact := none }
    | some 2 => partReset 6 s
    | _ => frontReset s) :=
  congrArg Host.Outcome.next (if_neg (Bool.eq_false_iff.1 out))

theorem noReset_gives (out : s.crh.inReset = false) (action : s.hdi.i3c.rstact = some 0) :
    Gives .targetResetPattern s (BusGives s fun i => { i with rstact := none }) := by
  refine bus_gives ?_
  rw [exec_pattern out, action]
  rfl

theorem whole_gives (out : s.crh.inReset = false) (action : s.hdi.i3c.rstact = some 2) (late : s.crh.rstFrom + ticksPerUs < s.now) :
    Gives .targetResetPattern s (PartReset s 6) := by
  refine ⟨partReset 6 s, ?_, (part_facts (by decide) out late).1⟩
  rw [exec_pattern out, action]
  rfl

theorem front_gives (out : s.crh.inReset = false) (some_ : s.hdi.i3c.rstact ≠ some 0) (part : s.hdi.i3c.rstact ≠ some 2) :
    Gives .targetResetPattern s fun t => t.hdi.i3c = { dyn := s.hdi.i3c.dyn } ∧ (t.masterOf 0).resp = {} ∧ t.reg = s.reg ∧ t.mem = s.mem := by
  refine ⟨frontReset s, ?_, rfl, ?_, rfl, rfl⟩
  · rw [exec_pattern out]
    split
    · contradiction
    · contradiction
    · rfl
  · rw [frontReset, masterOf_modMaster]

/-! The response buffer and I2C transfers (R35, R39, R43). -/

theorem hears (out : s.crh.inReset = false) (follows : s.hdi.i3c.bus ≠ .ignore) : ¬(s.crh.inReset = true ∨ s.hdi.i3c.bus = .ignore) :=
  fun h => h.elim (Bool.eq_false_iff.1 out) follows

theorem response_gives (out : s.crh.inReset = false) (follows : s.hdi.i3c.bus ≠ .ignore) :
    Gives .responseRead s (BusGives s fun i => { i with out := .data (8 + (s.masterOf 0).resp.len) (respBytes (s.masterOf 0).resp) }) :=
  bus_gives (congrArg Host.Outcome.next (if_neg (hears out follows)))

variable {op o m len v : Nat} {tag : FrameTag} {rd : Bool}

theorem exec_transfer (out : s.crh.inReset = false) (follows : s.hdi.i3c.bus ≠ .ignore) (bare : s.hdi.i3c.dyn = none) :
    exec (.i2cTransfer rd op tag o m len v) s = .next (if rd then readBuffer s
      else show' .ack (request ⟨0, tag.tag, tag.rsv, tag.got, none⟩ op o m len v s)) := by
  refine congrArg Host.Outcome.next ((if_neg (hears out follows)).trans (if_neg ?_))
  rw [bare]
  decide

theorem i2cRead_gives (out : s.crh.inReset = false) (follows : s.hdi.i3c.bus ≠ .ignore) (bare : s.hdi.i3c.dyn = none) :
    Gives (.i2cTransfer true op tag o m len v) s
      (BusGives s fun i => { i with out := .data (8 + (s.masterOf 0).resp.len) (respBytes (s.masterOf 0).resp) }) :=
  bus_gives (exec_transfer out follows bare)

theorem i2cFrame_gives (out : s.crh.inReset = false) (follows : s.hdi.i3c.bus ≠ .ignore) (bare : s.hdi.i3c.dyn = none) :
    ∀ c ∈ [(1, Instr.dictRead ⟨0, tag.tag, tag.rsv, tag.got, none⟩ o m len v), (2, .dictWrite ⟨0, tag.tag, tag.rsv, tag.got, none⟩ o m len v),
      (3, .fetch ⟨0, tag.tag, tag.rsv, tag.got, none⟩ o m len v)], c.1 = op → Gives (.i2cTransfer false op tag o m len v) s fun t =>
        ∃ u, exec c.2 s = .next u ∧ t = { u with hdi := { u.hdi with i3c := { u.hdi.i3c with out := .ack } } } := by
  intro c frame kind
  subst kind
  simp only [List.mem_cons, List.not_mem_nil, or_false] at frame
  obtain rfl | rfl | rfl := frame <;> exact ⟨_, exec_transfer out follows bare, _, rfl, rfl⟩

theorem i2cAddressed_gives (out : s.crh.inReset = false) (follows : s.hdi.i3c.bus ≠ .ignore) (own : s.hdi.i3c.dyn ≠ none) :
    Gives (.i2cTransfer rd op tag o m len v) s (BusGives s fun i => { i with out := .none }) :=
  bus_gives (congrArg Host.Outcome.next ((if_neg (hears out follows)).trans (if_pos (Option.isSome_iff_ne_none.2 own))))

/-- Settles O54: each code runs in the form that the part's address selects, and changes the target's own state alone. -/
theorem busCodesComplete : Obligations.BusCodesComplete := by
  unfold Obligations.BusCodesComplete
  refine fun s => ⟨fun up => ⟨fun a own => ⟨fun d form => ?_, broadcast_gives up rfl rfl, fun _ => direct_gives up own rfl rfl,
      direct_gives up own rfl rfl, direct_gives up own rfl rfl, direct_gives up own rfl rfl, direct_gives up own rfl rfl,
      direct_gives up own rfl rfl, status_gives up own, direct_gives up own rfl rfl, fun _ => setdasa_addressed up own⟩,
      fun bare => ⟨fun _ _ => entdaa_gives up bare, setaasa_gives up bare, fun _ => setdasa_bare up bare, static_gives up bare⟩,
      broadcast_gives up rfl rfl, fun k low high => ?_, bus_gives rfl⟩,
    fun out => ⟨exit_gives out, noReset_gives out, whole_gives out, front_gives out, fun follows => ⟨response_gives out follows,
      fun op tag rsv got o m len v => ⟨i2cRead_gives out follows, i2cFrame_gives (tag := ⟨tag, rsv, got⟩) out follows,
        fun _ => i2cAddressed_gives out follows⟩⟩⟩⟩
  · exact ⟨fun e => either_gives (f := fun i => { i with enInt := i.enInt || e.testBit 0 }) up own form rfl,
      fun e => either_gives (f := fun i => { i with enInt := i.enInt && !(e.testBit 0) }) up own form rfl,
      fun v => either_gives (f := fun i => { i with mwl := newLimit v i.mwl }) up own form rfl,
      fun v => either_gives (f := fun i => { i with mrl := newLimit v i.mrl }) up own form rfl,
      fun b => either_gives (f := fun i => { i with rstact := some b }) up own form rfl⟩
  · exact bus_gives ((if_pos ⟨low, high⟩).trans (congrArg _ (broad up)))

end Sys2Proof.Proofs.BusCode
end

section
/-! Responses of the mesh taken by their source (11_mesh.md R302, R308; 02_control_dictionary.md R55; chapter 19, R497). -/
namespace Sys2Proof.Proofs.Response
open Sys2Proof.Machine Sys2Proof.Laws Common CompleteMirror MeshWay

variable {r : MeshReq} {fl : List Flit} {x : MeshResp} {kind m a b : Nat} {i : Instr} {s : State}

/-- The response has reached the part, and is off the mesh. -/
def taken (fl : List Flit) (x : MeshResp) (s : State) : State := respTaken (arrived fl x s) (noteReturn fl x s)

theorem taken_resps (fl : List Flit) (x : MeshResp) (s : State) : (taken fl x s).resps = s.resps.erase x := by
  show (noteReturn fl x s).resps.erase (arrived fl x s) = _
  rw [(noteReturn_facts fl x s).1, List.erase_cons_head]

theorem taken_master (fl : List Flit) (x : MeshResp) (s : State) : (taken fl x s).masterOf m = s.masterOf m := by
  show (noteReturn fl x s).masterOf m = _
  unfold State.masterOf
  rw [(noteReturn_facts fl x s).2.1]

theorem taken_rd {k : Nat} (low : k < 0xC00000) : (taken fl x s).rd k = s.rd k := rd_noteReturn fl x s low

theorem arrived_req (fl : List Flit) (x : MeshResp) (s : State) : (arrived fl x s).req = x.req := by
  unfold arrived
  split
  · rfl
  · rfl

/-- A command of a response is the delivery of the first of its kind. -/
theorem exec_response (is : (kind, i) ∈ [(0, Instr.meshDataResponse r fl), (1, .meshAckResponse r fl), (2, .meshErrorResponse ⟨r, fl⟩)])
    (found : (s.resps.find? fun x => decide (x.req = r) && Nat.beq x.kind kind) = some x) (free : canReturn x s = true) :
    x.req = r ∧ exec i s = .next (respDone (arrived fl x s) (noteReturn fl x s)) := by
  obtain ⟨taken, own, _⟩ := del r x kind fl s found free
  have code : exec i s = .next (deliver kind r fl s) := by
    simp only [List.mem_cons, Prod.mk.injEq, List.not_mem_nil, or_false] at is
    obtain ⟨rfl, rfl⟩ | ⟨rfl, rfl⟩ | ⟨rfl, rfl⟩ := is
    · rfl
    · rfl
    · rfl
  exact ⟨own, code.trans (congrArg _ taken)⟩

/-- What the source of a response does with it. -/
theorem respDone_hdi (own : x.req = r) (source : r.own = .hdi m) : respDone (arrived fl x s) (noteReturn fl x s) =
    meshDataDone false m r (arrived fl x s).kind (arrived fl x s).data (taken fl x s) := by
  rw [respDone, arrived_req, own, source]
  rfl

theorem respDone_dbg (own : x.req = r) (source : r.own = .dbg m) : respDone (arrived fl x s) (noteReturn fl x s) =
    meshDataDone true m r (arrived fl x s).kind (arrived fl x s).data (taken fl x s) := by
  rw [respDone, arrived_req, own, source]
  rfl

theorem respDone_mesh (own : x.req = r) (source : r.own = .mesh a b) : respDone (arrived fl x s) (noteReturn fl x s) = taken fl x s := by
  rw [respDone, arrived_req, own, source]
  rfl

/-- The fetch of which the request was a part, with the bytes of its response. -/
def withBytes (r : MeshReq) (x : MeshResp) (p : Pend) : Pend :=
  { p with
    parts := p.parts.erase r
    bad := p.bad || Nat.beq x.kind 2
    data := p.data + x.data % 2 ^ (8 * r.len) * 2 ^ (8 * (r.addr - p.addr)) }

theorem meshDataDone_read {p : Pend} (read : r.op = .read) (part : ((s.masterOf m).pend.find? fun p => p.parts.contains r) = some p) :
    meshDataDone false m r x.kind x.data s =
      s.modMaster m fun y => { y with pend := y.pend.map fun y => if y = p then withBytes r x p else y } := by
  rw [meshDataDone, if_pos read, part]
  rfl

theorem memError_facts (s : State) : (memError s).resps = s.resps ∧ (memError s).bit DBG.MEM_STATUS 0 = true ∧ (memError s).bit DBG.EVFLAGS 6 = true := by
  refine ⟨?_, ?_, bit_flag ..⟩
  · rw [memError, dbgFlag, flag_resps, setBit_resps]
  · rw [memError, dbgFlag, bit_of_rd (rd_flag_other _ (by decide) ..), bit_setBit_eq]

/-- Settles O59: the response is taken off the mesh, and then its source takes it. -/
theorem responsesComplete : Obligations.ResponsesComplete := by
  unfold Obligations.ResponsesComplete
  intro r fl x kind i s is found free
  obtain ⟨own, run⟩ := exec_response is found free
  refine ⟨fun a b source => ?_, fun m p source read part => ?_, fun m source other => ?_, fun m source other error => ?_⟩
  · exact ⟨_, run.trans (congrArg _ (respDone_mesh own source)), taken_resps ..⟩
  · have same : ((taken fl x s).masterOf m).pend.find? (fun p => p.parts.contains r) = some p := by rw [taken_master, part]
    refine ⟨_, run.trans (congrArg _ ((respDone_hdi own source).trans (meshDataDone_read read same))), taken_resps .., ?_⟩
    rw [masterOf_modMaster, taken_master]
    rfl
  · refine ⟨_, run.trans (congrArg _ ((respDone_hdi own source).trans (if_neg other))), ?_⟩
    beta_reduce
    split
    · exact ⟨taken_resps .., (bump_eq ..).trans (by rw [taken_rd (by decide)])⟩
    · exact ⟨taken_resps .., taken_rd (by decide)⟩
  · refine ⟨_, run.trans (congrArg _ ((respDone_dbg own source).trans ((if_neg other).trans (if_pos error)))), ?_⟩
    obtain ⟨resps, status, event⟩ := memError_facts (taken fl x s)
    exact ⟨resps.trans (taken_resps ..), status, event⟩

end Sys2Proof.Proofs.Response
end

section
/-! Management slots, cleared counts, retirement and the pass over the ledgers (02_control_dictionary.md R48 to R50, R53;
20_guarantees_limits.md R506, R512; 12_lanes.md R334). -/
namespace Sys2Proof.Proofs.Management
open Sys2Proof.Machine Sys2Proof.Laws Common CompleteMirror CompleteSup SupFacts

variable {n k j v : Nat} {q : Req} {x : LaneMsg} {s : State}

/-! Management messages (R48 to R50). -/

/-- The request that the bytes of a management frame of len bytes spell (R37, R38). -/
def framed (k len f : Nat) (s : State) : State :=
  request ⟨k, frameByte f 1, frameByte f 5, if f / 2 ^ 48 % 65536 + 8 = len then none else some (len - 8), none⟩ (frameByte f 0)
    (f / 2 ^ 16 % 65536) (frameByte f 4) (f / 2 ^ 48 % 65536) (f / 2 ^ 64) s

/-- A slot's request is processed as its frame, and its responses sent. -/
theorem slotRequest_rd (event : j ≠ TMU.EVFLAGS)
    (lane : ∀ l, j ∉ [LNK.MESH_RESP l, TMU.LANE_FLAGS l, TMU.TXTS_LOST l, TMU.TXTS_MADE l, TMU.TXTS_READ l]) (k len f : Nat) (s : State) :
    (slotRequest k len f s).rd j = (framed k len f (s.modSlot k fun y => { y with last := s.now })).rd j := by
  unfold slotRequest
  extract_lets o m c q u waiting t later r
  split
  · rfl
  · exact flush_rd event lane ..

theorem exec_mgmt (low : n < 48) (waits : oldest n 1 s = some x) : exec (.mgmtMessage n) s = .next (match slotBound n x.src s with
    | some k => if outstanding k n x.src s < 16 then trySend n (slotRequest k x.len x.data (takeMsg n x s)) else s
    | none =>
      match slotFree s with
      | some k => trySend n (slotRequest k x.len x.data (bindSlot k n x.src (takeMsg n x s)))
      | none => noSlot n x.src x.data (takeMsg n x s)) := by
  refine (unitNext low).trans (congrArg _ ?_)
  rw [waits] <;> rfl

theorem bound_gives (low : n < 48) (waits : oldest n 1 s = some x) (bound : slotBound n x.src s = some k) (few : outstanding k n x.src s < 16) :
    Gives (.mgmtMessage n) s fun t => ∃ u, u = (takeMsg n x s).modSlot k (fun y => { y with last := s.now }) ∧ ∀ j, j ≠ TMU.EVFLAGS →
        (∀ l, j ∉ [LNK.MESH_RESP l, TMU.LANE_FLAGS l, TMU.TXTS_LOST l, TMU.TXTS_MADE l, TMU.TXTS_READ l]) →
          t.rd j = (framed k x.len x.data u).rd j := by
  refine ⟨trySend n (slotRequest k x.len x.data (takeMsg n x s)), ?_, _, rfl, fun j event lane => ?_⟩
  · rw [exec_mgmt low waits, bound]
    exact congrArg _ (if_pos few)
  · rw [try_rd event lane, slotRequest_rd event lane]
    rfl

theorem full_gives (low : n < 48) (waits : oldest n 1 s = some x) (new : slotBound n x.src s = none) (full : slotFree s = none) :
    Gives (.mgmtMessage n) s fun t => t.rd (HDI.STATS 8) = min (s.rd (HDI.STATS 8) + 1) (2 ^ 32 - 1) := by
  refine ⟨noSlot n x.src x.data (takeMsg n x s), ?_, ?_⟩
  · rw [exec_mgmt low waits, new, full]
  · unfold noSlot
    dsimp only
    rw [try_rd (by decide) fun l => ?_, rd_raise]
    · exact bump_eq ..
    · simp only [List.mem_cons, List.not_mem_nil, or_false, not_or, LNK.MESH_RESP, TMU.LANE_FLAGS, TMU.TXTS_LOST, TMU.TXTS_MADE, TMU.TXTS_READ, HDI.STATS]
      omega

theorem binds_gives (low : n < 48) (waits : oldest n 1 s = some x) (new : slotBound n x.src s = none) (free : slotFree s = some k) :
    Gives (.mgmtMessage n) s fun t => ∃ u, (u.slotOf k).bound = true ∧ u.rd (HDI.SLOT (k - 1)) = n * 65536 + x.src ∧
      t = trySend n (slotRequest k x.len x.data u) := by
  refine ⟨trySend n (slotRequest k x.len x.data (bindSlot k n x.src (takeMsg n x s))), ?_, bindSlot k n x.src (takeMsg n x s), ?_, rd_wr_same .., rfl⟩
  · rw [exec_mgmt low waits, new, free]
  · rw [bindSlot, slotOf_modSlot]

theorem idle_gives (low : 1 ≤ k) (high : k ≤ 8) (bound : (s.slotOf k).bound = true) (other : s.rd HDI.MIRROR_OWNER ≠ k) :
    Gives (.mgmtSlotIdleTimeout k) s fun t => t.slotOf k = {} ∧ t.masterOf k = {} ∧ t.rd (HDI.SLOT (k - 1)) = 0 ∧
    t.now = max s.now ((s.slotOf k).last + 1000000 * ticksPerUs) ∧ ∀ j, j ≠ k → t.slotOf j = s.slotOf j ∧ t.masterOf j = s.masterOf j := by
  have run : exec (.mgmtSlotIdleTimeout k) s = .next (releaseSlot k (s.upto ((s.slotOf k).last + 1000000 * ticksPerUs))) :=
    (if_pos ⟨low, high⟩).trans (congrArg _ (if_pos ⟨bound, other⟩))
  generalize (s.slotOf k).last + 1000000 * ticksPerUs = e at run ⊢
  obtain ⟨slot, master, key, now, others⟩ := release_facts (k := k) (u := s.upto e) fun owner => other owner.1
  exact ⟨_, run, slot, master, key (by simp only [HDI.SLOT, DBG.STATUS]; omega), now, others⟩

/-! Cleared counts and retirement (R53, 20 R512). -/

/-- The count of the accesses that ended with 0x00 counts one that did. -/
theorem finish_stats {op o m : Nat} {eff : State → State} (heard : deaf q s = false) :
    (finish q op o m 0 0 0 eff s).rd (HDI.STATS 0) = min ((eff s).rd (HDI.STATS 0) + 1) (2 ^ 32 - 1) := by
  rw [finish_ok heard, respond, rd_modMaster, bump_eq]
  split
  · rw [restartLease, rd_modMirror]
  · rfl

theorem clear_gives (h : Writes q HDI.STATS_CLR 1 v s) : Gives (.statsClr q v) s fun t => Answered q 0 t ∧ t.rd (HDI.STATS 0) = 1 ∧
    ∀ k, 1 ≤ k → k < 13 → t.rd (HDI.STATS k) = 0 := by
  obtain ⟨answered, like⟩ := command_done (extra := []) (eff := statsClear) h noC
  refine ⟨_, rfl, answered, ?_, fun k low high => ?_⟩
  · rw [command, statusOf_zero h.1.2 h.2 noC, finish_stats h.1.1, stats_zero 0 s (by decide)]
    rfl
  · exact (like.rd _ (by simp only [HDI.STATS]; omega)).trans (stats_zero k s high)

theorem retire_gives (low : k < 13) (h : Writes q (HDI.RETIRE_VE + k) (if retireBits (0x4000 + k) = 32 then 4 else 8) v s)
    (free : ∀ c ∈ retireConds (0x4000 + k) v s, c.1 = false) : Gives (.retireWrite q k v) s fun t => Answered q 0 t ∧ t.rd (HDI.RETIRE_VE + k) = v := by
  refine givesWr rfl low h free fun t like => ?_
  rw [like_k like (by simp only [HDI.RETIRE_VE]; omega)]
  refine (frq (f := reopenIf _) (reopenIf_fr _ _ (fr_refl _) ?_ ?_ fun u => ?_)).trans (rd_wr_same ..)
  all_goals simp only [HDI.APPLY_OUTCOME, HDI.MIRROR_STATE, HDI.RETIRE_VE, VEN.STATE]; omega

/-! The pass over the ledgers (20 R506). -/

theorem pass_now (s : State) : (ledgerPass s).now = s.now := by
  unfold ledgerPass
  dsimp only
  split
  · rfl
  · exact flag_now ..

theorem ledger_gives (runs : supOpen s = true) (free : molxoHeld s = false) (period : s.rd SUP.LEDGER_PERIOD ≠ 0) :
    Gives .ledgerCheck s fun t => t.now = (ledgerDue s).now ∧ t.rd SUP.LEDGER_PASSES = min (s.rd SUP.LEDGER_PASSES + 1) (2 ^ 64 - 1) ∧
    (ledgerFails (ledgerDue s) = [] → t.rd SUP.LEDGER_IMBAL = s.rd SUP.LEDGER_IMBAL) ∧
    ∀ x, (ledgerFails (ledgerDue s)).getLast? = some x → t.rd SUP.LEDGER_FAIL = x ∧ t.bit SUP.EVFLAGS 4 = true ∧
      t.rd SUP.LEDGER_IMBAL = min (s.rd SUP.LEDGER_IMBAL + (ledgerFails (ledgerDue s)).length) (2 ^ 64 - 1) := by
  have run : exec .ledgerCheck s = .next (ledgerPass (ledgerDue s)) := by
    refine congrArg Host.Outcome.next (if_neg ?_)
    rw [runs, free]
    simp [period]
  have due (k : Nat) : (ledgerDue s).rd k = s.rd k := rfl
  refine ⟨_, run, pass_now _, ?_, fun balanced => ?_, fun x last => ?_⟩
  · rw [ledgerPass]
    split
    · rw [bump_eq, due]
    · rw [sup_rd (by decide), rd_wr_other _ (by decide), addTo_ne (by decide), bump_eq, due]
  · rw [ledgerPass, balanced]
    exact bump_ne (by decide)
  · rw [ledgerPass, last]
    rw [sup_rd (by decide), rd_wr_same, sup_rd (by decide), rd_wr_other _ (by decide), addTo_eq, bump_ne (by decide), due]
    exact ⟨rfl, sup_bit .., rfl⟩

/-- Settles O58: messages by the slot that they find, and each of the other commands by its own lemma. -/
theorem managementCompletes : Obligations.ManagementCompletes := by
  unfold Obligations.ManagementCompletes
  exact fun s => ⟨fun n x low waits => ⟨fun k => bound_gives low waits, full_gives low waits, fun k => binds_gives low waits⟩,
    fun k => idle_gives, fun q v => clear_gives, fun q k v => retire_gives, ledger_gives⟩

end Sys2Proof.Proofs.Management
end

section
/-! The batch of the mirror (02_control_dictionary.md R56 to R67; 03_vector_engines.md R71, R76, R100). -/
namespace Sys2Proof.Proofs.Batch
open Sys2Proof.Machine Sys2Proof.Laws Common CompleteMirror BatchFacts

variable {q : Req} {k v n e : Nat} {level late : Bool} {s b : State} {x : Staged}

/-! MREAD and MDROP (R58). -/

/-- An MREAD that is served answers what it finds in the batch. -/
theorem mread_served {len data : Nat} (h : Served q 4 k 0 0 s) (owner : (ownerCond q s).1 = false) (low : q.master < 9)
    (short : responseLong q len s = false) : AnsweredWith q len data (finish q 4 (k / 256) (k % 256)
      (statusOf q 4 (k / 256) (k % 256) 0 0 len [ownerCond q s, (Nat.ble 9 q.master, 5)] s) len data (fun s => s) s) := by
  have free : ∀ c ∈ [ownerCond q s, (Nat.ble 9 q.master, 5)], c.1 = false := by
    simp only [List.mem_cons, List.not_mem_nil, or_false, forall_eq_or_imp, forall_eq]
    exact ⟨owner, CompleteDsp.nble low⟩
  rw [statusOf_zero h.2 short free]
  exact resp_finish h.1

theorem mread_none (h : Served q 4 k 0 0 s) (owner : (ownerCond q s).1 = false) (low : q.master < 9) (unstaged : stagedAt k s = none)
    (short : responseLong q 0 s = false) : Gives (.mread q (k / 256) ⟨k % 256, 0⟩) s (AnsweredWith q 0 0) := by
  refine ⟨mread q (k / 256) (k % 256) 0 s, rfl, ?_⟩
  rw [mread, key_back, unstaged]
  exact mread_served h owner low short

theorem mread_some (h : Served q 4 k 0 0 s) (owner : (ownerCond q s).1 = false) (low : q.master < 9) (staged : stagedAt k s = some x)
    (short : responseLong q x.len s = false) : Gives (.mread q (k / 256) ⟨k % 256, 0⟩) s (AnsweredWith q x.len x.val) := by
  refine ⟨mread q (k / 256) (k % 256) 0 s, rfl, ?_⟩
  rw [mread, key_back, staged]
  exact mread_served h owner low short

theorem edited_facts (s : State) : (batchEdited s).mem = s.mem ∧ (batchEdited s).hdi = s.hdi ∧
    ∀ j, j ≠ HDI.MIRROR_STATE → (batchEdited s).rd j = s.rd j := by
  unfold batchEdited
  split
  · exact ⟨raise_mem .., raise_hdi .., fun j other => (rd_raise ..).trans (rd_wr_other _ other _)⟩
  · exact ⟨rfl, rfl, fun _ _ => rfl⟩

theorem drop_facts (k : Nat) (s : State) : (dropEff k s).mem = s.mem ∧
    (dropEff k s).hdi.mirror.batch = (s.hdi.mirror.batch.filter fun e => !(Nat.beq e.key k)) ∧
    ∀ j, j ≠ HDI.MIRROR_STATE → (dropEff k s).rd j = s.rd j := by
  unfold dropEff
  split
  · rename_i unstaged
    have absent : ∀ e ∈ s.hdi.mirror.batch, ¬Nat.beq e.key k = true :=
      List.find?_eq_none.1 (Option.isNone_iff_eq_none.1 unstaged)
    refine ⟨rfl, (List.filter_eq_self.2 fun e member => ?_).symm, fun _ _ => rfl⟩
    rw [Bool.eq_false_iff.2 (absent e member)]
    rfl
  · obtain ⟨mem, hdi, rd⟩ := edited_facts s
    refine ⟨mem, ?_, rd⟩
    show ((batchEdited s).hdi.mirror.batch.filter _) = _
    rw [hdi]

theorem mdrop_gives (h : Served q 5 k 0 0 s) (short : responseLong q 0 s = false) (free : ∀ c ∈ mdropConds q s, c.1 = false) :
    Gives (.mdrop q (k / 256) ⟨k % 256, 0⟩) s fun t => Answered q 0 t ∧
      t.hdi.mirror.batch = (s.hdi.mirror.batch.filter fun e => !(Nat.beq e.key k)) ∧
      Only (fun j => j = HDI.STATS 0 ∨ j = HDI.MIRROR_STATE) s t := by
  obtain ⟨mem, batch, rd⟩ := drop_facts k s
  have ran : exec (.mdrop q (k / 256) ⟨k % 256, 0⟩) s = .next (finish q 5 (k / 256) (k % 256) 0 0 0 (dropEff k) s) := by
    show Host.Outcome.next (mdrop q (k / 256) (k % 256) 0 s) = _
    rw [mdrop, key_back, statusOf_zero h.2 short free]
  have like : Like (dropEff k s) (finish q 5 (k / 256) (k % 256) 0 0 0 (dropEff k) s) := like_finish h.1
  refine ⟨_, ran, (resp_finish h.1).1, like.mirror_batch.trans batch, like.mem.trans mem, fun j other => ?_⟩
  exact (like.rd j fun same => other (.inl same)).trans (rd j fun same => other (.inr same))

/-! The lease, the check and the discard (R59 to R62). -/

theorem release_rd (s : State) : (releaseMirror s).rd HDI.MIRROR_OWNER = 0xFF ∧ (releaseMirror s).rd HDI.MIRROR_STATE = 0 := by
  rw [releaseMirror, rd_modMirror, rd_modMirror, rd_wr_other _ (by decide), rd_wr_same, rd_wr_same]
  exact ⟨rfl, rfl⟩

theorem lease_gives (owned : s.rd HDI.MIRROR_OWNER ≠ 0xFF) (calm : mirrorState s ≠ 5) : Gives .mirrorLeaseExpiry s fun t =>
    t.rd HDI.MIRROR_OWNER = 0xFF ∧ t.rd HDI.MIRROR_STATE = 0 ∧ t.hdi.mirror = {} ∧ t.now = max s.now s.hdi.mirror.leaseEnd := by
  have some_ : ¬(noBatch s = true ∨ mirrorState s = 5) := fun h => h.elim (fun none => owned (Nat.eq_of_beq_eq_true none)) calm
  refine ⟨(releaseMirror (s.upto s.hdi.mirror.leaseEnd)).raise 4, congrArg Host.Outcome.next (if_neg some_), ?_⟩
  beta_reduce
  rw [rd_raise, rd_raise, raise_hdi, raise_now]
  exact ⟨(release_rd _).1, (release_rd _).2, rfl, rfl⟩

theorem check_gives (h : Writes q HDI.BATCH_CHECK 1 v s) (free : ∀ c ∈ checkConds q s, c.1 = false) : Gives (.batchCheck q v) s fun t =>
    Answered q 0 t ∧ t.rd HDI.MIRROR_STATE = 2 ∧ t.hdi.mirror.batch = s.hdi.mirror.batch := by
  refine givesCmd' rfl h free fun t like => ?_
  rw [like_k like (by decide), like.mirror_batch]
  exact ⟨rd_wr_same .., rfl⟩

theorem exec_checkEnd (checking : mirrorState s = 2) : exec .batchCheckEnd s = .next ((match firstFailing s with
    | none => (s.wr HDI.BATCH_RESULT 0).wr HDI.MIRROR_STATE 3
    | some x => ((s.wr HDI.BATCH_RESULT x.2).wr HDI.BATCH_FAIL x.1).wr HDI.MIRROR_STATE 4).raise 3) :=
  congrArg Host.Outcome.next (if_pos checking)

theorem passes_gives (checking : mirrorState s = 2) (pass : firstFailing s = none) :
    Gives .batchCheckEnd s fun t => t.rd HDI.BATCH_RESULT = 0 ∧ t.rd HDI.MIRROR_STATE = 3 := by
  refine ⟨_, exec_checkEnd checking, ?_⟩
  beta_reduce
  rw [pass, rd_raise, rd_raise]
  exact ⟨(rd_wr_other _ (by decide) _).trans (rd_wr_same ..), rd_wr_same ..⟩

theorem fails_gives {x : Nat × Nat} (checking : mirrorState s = 2) (fails : firstFailing s = some x) : Gives .batchCheckEnd s fun t =>
    t.rd HDI.BATCH_RESULT = x.2 ∧ t.rd HDI.BATCH_FAIL = x.1 ∧ t.rd HDI.MIRROR_STATE = 4 := by
  refine ⟨_, exec_checkEnd checking, ?_⟩
  beta_reduce
  rw [fails, rd_raise, rd_raise, rd_raise]
  dsimp only
  rw [rd_wr_other _ (by decide), rd_wr_other _ (by decide), rd_wr_same, rd_wr_other _ (by decide), rd_wr_same, rd_wr_same]
  exact ⟨rfl, rfl, rfl⟩

theorem discard_gives (h : Writes q HDI.BATCH_DISCARD 1 v s) (free : ∀ c ∈ discardConds q s, c.1 = false) (owned : s.rd HDI.MIRROR_OWNER ≠ 0xFF) :
    Gives (.batchDiscard q v) s fun t => Answered q 0 t ∧ t.rd HDI.MIRROR_OWNER = 0xFF ∧ t.rd HDI.MIRROR_STATE = 0 ∧
      t.hdi.mirror.batch = [] := by
  refine givesCmd' rfl h free fun t like => ?_
  have released : discardEff s = releaseMirror s := if_neg fun none => owned (Nat.eq_of_beq_eq_true none)
  rw [released] at like
  rw [like_k like (by decide), like_k like (by decide), like.mirror_batch]
  exact ⟨(release_rd s).1, (release_rd s).2, rfl⟩

/-! Arm and cancel (R61, R64, R66; 03 R71). -/

theorem arm_gives (h : Writes q HDI.APPLY_ARM 1 v s) (free : ∀ c ∈ armConds q s, c.1 = false) : Gives (.applyArm q v) s fun t => Answered q 0 t ∧
    t.rd HDI.MIRROR_STATE = 5 ∧ t.hdi.mirror.batch = s.hdi.mirror.batch ∧ t.hdi.mirror.syncLow = false ∧
    t.hdi.mirror.edge = (if s.rd HDI.APPLY_MODE = 0 then some (engEdge (s.now + ticksPerUs)) else none) ∧
    ∀ n, n < 32 → batchStarts n s = true → veState n t = 2 := by
  refine givesCmd' rfl h free fun t like => ?_
  have eff : armEff s = (((List.range 32).foldl armStep s).wr HDI.MIRROR_STATE 5).modMirror fun mi =>
    { mi with edge := if s.rd HDI.APPLY_MODE = 0 then some (engEdge (s.now + ticksPerUs)) else none, syncLow := false,
              armedAt := ((List.range 32).foldl armStep s).now } := rfl
  rw [eff] at like
  have hdi := arm_fold (List.range 32) s
  have armed (n : Nat) := arm_st n (List.range 32) s
  generalize (List.range 32).foldl armStep s = u at like hdi armed
  rw [like_k like (by decide), like.mirror_batch, like.mirror_syncLow, like.mirror_edge]
  rw [rd_modMirror]
  refine ⟨rd_wr_same .., congrArg (·.mirror.batch) hdi, rfl, rfl, fun n low starts => ?_⟩
  have key : VEN.STATE n ≠ HDI.MIRROR_STATE := by simp only [VEN.STATE, HDI.MIRROR_STATE]; omega
  rw [veState, like_k like (by simp only [VEN.STATE]; omega), rd_modMirror, rd_wr_other _ key]
  exact armed n (List.mem_range.2 low) starts

theorem cancel_gives (h : Writes q HDI.APPLY_CANCEL 1 v s) (free : ∀ c ∈ cancelConds q s, c.1 = false) : Gives (.applyCancel q v) s fun t =>
    Answered q 0 t ∧ (mirrorState s = 5 → t.rd HDI.MIRROR_STATE = 3 ∧ t.hdi.mirror.edge = none ∧
      t.hdi.mirror.batch = s.hdi.mirror.batch) := by
  refine givesCmd' rfl h free fun t like armed => ?_
  have eff : cancelEff s = restartLease (((disarmStarts s).wr HDI.MIRROR_STATE 3).modMirror fun mi => { mi with edge := none, syncLow := false }) :=
    if_pos armed
  rw [eff] at like
  obtain ⟨batch, edge, rd⟩ := disarm_mirror (disarmStarts s) 3
  rw [like_k like (by decide), like.mirror_batch, like.mirror_edge, batch, edge, rd, rd_wr_same]
  exact ⟨rfl, rfl, congrArg (·.mirror.batch) (disarmStarts_keepsHdi (s0 := s) s rfl)⟩

/-! SYNCIN (R66). -/

theorem syncin_gives (level : Bool) (s : State) : Gives (.syncinCapture level) s fun t => t.pins.syncin = level ∧ t.now = max s.now (engAfter s.now) ∧
    (mirrorState s = 5 → s.rd HDI.APPLY_MODE = 2 → s.hdi.mirror.edge = none →
      (level = false → t.hdi.mirror.syncLow = true ∧ t.hdi.mirror.edge = none) ∧
      (level = true → t.hdi.mirror.edge =
        if s.hdi.mirror.syncLow = true ∨ (s.pins.syncin = false ∧ engAfter s.hdi.mirror.armedAt < engAfter s.now) then some (engAfter s.now + s.rd HDI.SYNC_DELAY * ticksPerNs) else none)) := by
  generalize hu : ({ s.upto (engAfter s.now) with pins := { s.pins with syncin := level } } : State) = u
  have run : exec (.syncinCapture level) s = .next (
      if mirrorState u = 5 ∧ u.rd HDI.APPLY_MODE = 2 ∧ u.hdi.mirror.edge = none then
        if level = false then u.modMirror fun x => { x with syncLow := true }
        else if s.hdi.mirror.syncLow || (!s.pins.syncin && Nat.blt (engAfter s.hdi.mirror.armedAt) (engAfter s.now)) then
          u.modMirror fun x => { x with edge := some (engAfter s.now + u.rd HDI.SYNC_DELAY * ticksPerNs) }
        else u
      else u) := by
    rw [← hu]
    rfl
  have pins : u.pins.syncin = level := by rw [← hu]
  have now : u.now = max s.now (engAfter s.now) := by rw [← hu]; rfl
  have hdi : u.hdi = s.hdi := by rw [← hu]; rfl
  have rd (k : Nat) : u.rd k = s.rd k := by rw [← hu]; rfl
  refine ⟨_, run, ?_, ?_, fun armed mode open_ => ?_⟩
  · split
    · split
      · exact pins
      · split
        · exact pins
        · exact pins
    · exact pins
  · split
    · split
      · exact now
      · split
        · exact now
        · exact now
    · exact now
  · rw [if_pos ⟨(rd _).trans armed, (rd _).trans mode, by rw [hdi]; exact open_⟩]
    refine ⟨fun low => ?_, fun high => ?_⟩
    · rw [if_pos low]
      exact ⟨rfl, by show u.hdi.mirror.edge = none; rw [hdi, open_]⟩
    · rw [if_neg (by rw [high]; decide)]
      have same : (s.hdi.mirror.syncLow || (!s.pins.syncin && Nat.blt (engAfter s.hdi.mirror.armedAt) (engAfter s.now))) = true ↔
          (s.hdi.mirror.syncLow = true ∨ (s.pins.syncin = false ∧ engAfter s.hdi.mirror.armedAt < engAfter s.now)) := by
        simp [Nat.blt, Nat.ble_eq]
      by_cases first : s.hdi.mirror.syncLow = true ∨ (s.pins.syncin = false ∧ engAfter s.hdi.mirror.armedAt < engAfter s.now)
      · rw [if_pos (same.2 first), if_pos first, rd]
        rfl
      · rw [if_neg (fun seen => first (same.1 seen)), if_neg first, hdi, open_]

/-! The apply (R64 to R67; 03 R100). -/

/-- The keys that wait for a landing. -/
def waitsOf (b : State) : List Nat := ((running b).map fun n => (n, landsLater n b)).flatMap fun x => x.2.map (·.key)

/-- The values that take effect at once, written. -/
def written (b : State) : State := (b.hdi.mirror.batch.filter fun x => !((waitsOf b).contains x.key)).foldl (fun s x => s.wr x.key x.val) b

/-- The changes that wait, noted at their engines. -/
def landed (e : Nat) (b : State) : State := ((running b).map fun n => (n, landsLater n b)).foldl (landStep e) (written b)

/-- Channel settings and starts that follow the values. -/
def started (e : Nat) (b : State) : State := (List.range 32).foldl (startStep b e) ((List.range 32).foldl (tsetStep b) (landed e b))

theorem mid_eq (e : Nat) (b : State) : applyMid e b = settleStales (pinsAtE e b (started e b)) := rfl

theorem landStep_only (e : Nat) (s : State) (x : Nat × List Staged) : (landStep e s x).reg = s.reg ∧ (landStep e s x).clk = s.clk := by
  unfold landStep
  split <;> exact ⟨rfl, rfl⟩

theorem tsetStep_only (b s : State) (n : Nat) : (tsetStep b s n).reg = s.reg ∧ (tsetStep b s n).clk = s.clk := by
  unfold tsetStep
  split <;> exact ⟨rfl, rfl⟩

theorem startStep_only (b : State) (e : Nat) (s : State) (n : Nat) : (startStep b e s n).reg = s.reg ∧ (startStep b e s n).clk = s.clk := by
  unfold startStep
  split <;> exact ⟨rfl, rfl⟩

theorem started_reg (e : Nat) (b : State) : (started e b).reg = (written b).reg :=
  ((fold_reg (fun s n => (startStep_only b e s n).1) _ _).trans (fold_reg (fun s n => (tsetStep_only b s n).1) _ _)).trans
    (fold_reg (fun s x => (landStep_only e s x).1) _ _)

theorem written_clk (b : State) : (written b).clk = b.clk := fold_clk (f := fun s (x : Staged) => s.wr x.key x.val) (fun _ _ => rfl) _ _

theorem started_clk (e : Nat) (b : State) : (started e b).clk = b.clk :=
  (((fold_clk (fun s n => (startStep_only b e s n).2) _ _).trans (fold_clk (fun s n => (tsetStep_only b s n).2) _ _)).trans
    (fold_clk (fun s x => (landStep_only e s x).2) _ _)).trans (written_clk b)

theorem settle_clk (s : State) : (settleStales s).clk = s.clk := by
  unfold settleStales
  refine fold_clk (fun s g => ?_) _ _
  unfold settleStale
  dsimp only
  rw [setBit_clk]
  split
  · rw [raise_clk]
  · rfl

theorem mid_rd (other : k ≠ EDG.STALE_GROUPS) (e : Nat) (b : State) : (applyMid e b).rd k = (written b).rd k := by
  rw [mid_eq, settle_rd other, State.rd, State.rd, pins_reg, started_reg]

theorem mid_clk (e : Nat) (b : State) : (applyMid e b).clk = b.clk := by rw [mid_eq, settle_clk, pins_clk, started_clk]

/-- A key that no value of the batch names reads as before. -/
theorem written_other (b : State) (absent : ∀ x ∈ b.hdi.mirror.batch, x.key ≠ k) : (written b).rd k = b.rd k := by
  have keep : ∀ (l : List Staged) (s : State), (∀ x ∈ l, x.key ≠ k) → (l.foldl (fun s x => s.wr x.key x.val) s).rd k = s.rd k := by
    intro l
    induction l with
    | nil => exact fun _ _ => rfl
    | cons a l ih =>
      intro s apart
      rw [List.foldl_cons, ih _ fun x member => apart x (List.mem_cons_of_mem _ member), rd_wr_other _ (apart a List.mem_cons_self).symm]
  exact keep _ _ fun x member => absent x (List.mem_filter.1 member).1

theorem mid_net (rws : ∀ x ∈ b.hdi.mirror.batch, (Dict.find (x.key / 256) (x.key % 256)).map (·.acc) = some .rws) (e i : Nat) :
    netAt (applyMid e b) i = netAt b i := by
  refine Supervisor.netAt_congr (mid_clk e b) ?_ ?_
  · rw [mid_rd (by decide), written_other b fun x member => rws_ne (rws x member) (a := .ro) (by decide) (by decide)]
  · rw [mid_rd (by decide), written_other b fun x member => rws_ne (rws x member) (a := .rw) (by decide) (by decide)]

/-- A member that no running engine keeps for its landing takes its value. -/
theorem written_own (distinct : (b.hdi.mirror.batch.map (·.key)).Nodup) (member : x ∈ b.hdi.mirror.batch) (free : x.key ∉ waitsOf b) :
    (written b).rd x.key = x.val := by
  have sub : ((b.hdi.mirror.batch.filter fun x => !((waitsOf b).contains x.key)).map (·.key)).Nodup :=
    distinct.sublist (List.filter_sublist.map _)
  refine (fold_vals _ b sub).1 x (List.mem_filter.2 ⟨member, ?_⟩)
  simpa using free

/-- One that waits keeps its value till then. -/
theorem written_waits (waits : k ∈ waitsOf b) (distinct : (b.hdi.mirror.batch.map (·.key)).Nodup) : (written b).rd k = b.rd k := by
  have sub : ((b.hdi.mirror.batch.filter fun x => !((waitsOf b).contains x.key)).map (·.key)).Nodup :=
    distinct.sublist (List.filter_sublist.map _)
  refine (fold_vals _ b sub).2 k fun listed => ?_
  obtain ⟨y, member, rfl⟩ := List.mem_map.1 listed
  have := (List.mem_filter.1 member).2
  simp [waits] at this

theorem mem_running (low : n < 32) (runs : veState n b = 3) : n ∈ running b :=
  List.mem_filter.2 ⟨List.mem_range.2 low, by rw [runs]; rfl⟩

theorem mem_waitsOf : k ∈ waitsOf b ↔ ∃ n ∈ running b, ∃ x ∈ landsLater n b, x.key = k := by
  simp [waitsOf]

theorem mid_lands {l : List Staged} (runs : n ∈ running b) (is : landsLater n b = l) (some_ : l ≠ []) :
    (e + 64 * ticksPerNs, l) ∈ ((applyMid e b).veOf n).lands := by
  rw [mid_eq, settle_veOf, pins_veOf, started]
  refine fold_land (step_keep b e n _) _ _ (fold_land (tset_keep b n _) _ _ ?_)
  exact landStep_new e _ _ n l (List.mem_map.2 ⟨n, runs, by rw [is]⟩) some_

/-- The batch has been applied at edge e. -/
def applied (e : Nat) (late : Bool) (b : State) : State := applyEnd (toTime128 (netAt (applyMid e b) e)) late (applyMid e b)

theorem exec_apply (armed : mirrorState s = 5) (edge : applyEdge s = some (e, late)) :
    exec .apply s = .next (applied e late (s.drawn.upto e)) := by
  refine congrArg Host.Outcome.next ((if_pos armed).trans ?_)
  rw [edge]
  exact applyAt_eq e late s.drawn

/-- The end of an apply leaves the value of a staged member. -/
theorem applied_rd (rws : (Dict.find (k / 256) (k % 256)).map (·.acc) = some .rws) : (applied e late b).rd k = (written b).rd k := by
  obtain ⟨_, _, _, _, _, _, rd⟩ := applyEnd_facts (toTime128 (netAt (applyMid e b) e)) late (applyMid e b)
  have outcome : k ≠ HDI.APPLY_OUTCOME := rws_ne rws (a := .ro) (by decide) (by decide)
  have instant : k ≠ HDI.APPLIED_AT := rws_ne rws (a := .ro) (by decide) (by decide)
  have owner : k ≠ HDI.MIRROR_OWNER := rws_ne rws (a := .ro) (by decide) (by decide)
  have state : k ≠ HDI.MIRROR_STATE := rws_ne rws (a := .ro) (by decide) (by decide)
  have stale : k ≠ EDG.STALE_GROUPS := rws_ne rws (a := .ro) (by decide) (by decide)
  exact (rd k outcome instant owner state).trans (mid_rd stale e b)

theorem applied_veOf : (applied e late b).veOf n = (applyMid e b).veOf n := by
  obtain ⟨_, _, _, _, _, ve, _⟩ := applyEnd_facts (toTime128 (netAt (applyMid e b) e)) late (applyMid e b)
  rw [State.veOf, State.veOf, applied, ve]

theorem apply_gives (armed : mirrorState s = 5) (edge : applyEdge s = some (e, late)) (distinct : (s.hdi.mirror.batch.map (·.key)).Nodup)
    (rws : ∀ x ∈ s.hdi.mirror.batch, (Dict.find (x.key / 256) (x.key % 256)).map (·.acc) = some .rws) : Gives .apply s fun t =>
    t.rd HDI.APPLY_OUTCOME = (if late then 2 else 1) ∧ t.rd HDI.APPLIED_AT = toTime128 (netAt s e) ∧
    t.rd HDI.MIRROR_OWNER = 0xFF ∧ t.rd HDI.MIRROR_STATE = 0 ∧ t.hdi.mirror.batch = [] ∧
    ∀ x ∈ s.hdi.mirror.batch,
      ((∀ n, n < 32 → veState n s = 3 → keyOfEngine n x.key s = false) → t.rd x.key = x.val) ∧
      ∀ n, n < 32 → veState n s = 3 → keyOfEngine n x.key s = true → s.rd x.key ≠ x.val →
        t.rd x.key = s.rd x.key ∧ (e + 64 * ticksPerNs, landsLater n (s.upto e)) ∈ (t.veOf n).lands ∧ x ∈ landsLater n (s.upto e) := by
  refine ⟨_, exec_apply armed edge, ?_⟩
  have batch : (s.drawn.upto e).hdi.mirror.batch = s.hdi.mirror.batch := rfl
  have rd (k : Nat) : (s.drawn.upto e).rd k = s.rd k := rfl
  have state (n : Nat) : veState n (s.drawn.upto e) = veState n s := rfl
  have own (n k : Nat) : keyOfEngine n k (s.drawn.upto e) = keyOfEngine n k s := rfl
  have later (n : Nat) : landsLater n (s.drawn.upto e) = landsLater n (s.upto e) := rfl
  have stamp : netAt (s.drawn.upto e) e = netAt s e := rfl
  generalize s.drawn.upto e = b at batch rd state own later stamp
  rw [← batch] at distinct rws ⊢
  obtain ⟨outcome, instant, owner, open_, empty, _, _⟩ := applyEnd_facts (toTime128 (netAt (applyMid e b) e)) late (applyMid e b)
  refine ⟨outcome, instant.trans (by rw [mid_net rws, stamp]), owner, open_, empty, fun x member => ⟨fun free => ?_, fun n low runs mine differs => ?_⟩⟩
  · refine (applied_rd (rws x member)).trans (written_own distinct member fun waits => ?_)
    obtain ⟨n, runs, y, waiting, same⟩ := mem_waitsOf.1 waits
    obtain ⟨low, three⟩ := List.mem_filter.1 runs
    have kept := (List.mem_filter.1 waiting).2
    rw [same, own, free n (List.mem_range.1 low) ((state n).symm.trans (Nat.eq_of_beq_eq_true three))] at kept
    cases kept
  · have listed : x ∈ landsLater n b := by
      refine List.mem_filter.2 ⟨member, ?_⟩
      rw [own, mine, rd]
      simp [differs]
    have runs' : n ∈ running b := mem_running low ((state n).trans runs)
    have kept := (written_waits (mem_waitsOf.2 ⟨n, runs', x, listed, rfl⟩) distinct).trans (rd x.key)
    rw [later] at listed
    refine ⟨(applied_rd (rws x member)).trans kept, ?_, listed⟩
    rw [applied_veOf]
    exact mid_lands runs' (later n) (List.ne_nil_of_mem listed)

/-- Settles O57: each command of the batch by its own lemma, and the apply by what it writes at once and what it leaves to land. -/
theorem batchesComplete : Obligations.BatchesComplete := by
  unfold Obligations.BatchesComplete
  intro q s
  exact ⟨fun k h owner low => ⟨mread_none h owner low, fun e => mread_some h owner low⟩, fun k => mdrop_gives, lease_gives, fun v => check_gives,
    fun checking => ⟨passes_gives checking, fun x => fails_gives checking⟩, fun v => discard_gives, fun v => arm_gives, fun v => cancel_gives,
    fun level => syncin_gives level s, fun e late => apply_gives⟩

end Sys2Proof.Proofs.Batch
end

section
/-! Mesh data through HDI and DBG, and the dictionary window (02_control_dictionary.md R51, R55; 11_mesh.md R308; chapter 19, R497). -/
namespace Sys2Proof.Proofs.MeshData
open Sys2Proof.Machine Sys2Proof.Laws Common CompleteHdi MeshWay

variable {q : Req} {len v size : Nat} {r : MeshReq} {fl : List Flit} {s u : State}

/-! Posted writes and fetches (R55). -/

theorem hdiFetch_gives (h : Served q 3 HDI.MESH_DATA 2 size s) (low : q.master < 16) (short : responseLong q 0 s = false)
    (free : ∀ c ∈ fetchConds q 0x0030 1 size s, c.1 = false) : Gives (.meshDataFetch q size) s fun t => Answered q 0 t ∧
      (t.masterOf q.master).pend = giveUp false HDI.MESH_DATA (s.masterOf q.master).pend ++ [{
        key := HDI.MESH_DATA, implicit := false, tag := q.tag
        seq := (s.masterOf q.master).fetches, addr := s.rd HDI.MESH_ADDR, len := size, parts := blockReqs false q.master .read (s.rd HDI.MESH_ADDR) size 0 }] ∧
      BlockSent false size (blockReqs false q.master .read (s.rd HDI.MESH_ADDR) size 0) s t :=
  ⟨_, rfl, mesh_fetch (dbg := false) (k := HDI.MESH_DATA) rfl h low short free⟩

theorem dbgFetch_gives (h : Served q 3 DBG.MEM_DATA 2 size s) (low : q.master < 16) (short : responseLong q 0 s = false)
    (free : ∀ c ∈ fetchConds q 0xF500 1 size s, c.1 = false) : Gives (.memDataFetch q size) s fun t => Answered q 0 t ∧
      (t.masterOf q.master).pend = giveUp false DBG.MEM_DATA (s.masterOf q.master).pend ++ [{
        key := DBG.MEM_DATA, implicit := false, tag := q.tag
        seq := (s.masterOf q.master).fetches, addr := s.rd DBG.MEM_ADDR, len := size, parts := blockReqs true q.master .read (s.rd DBG.MEM_ADDR) size 0 }] ∧
      BlockSent true size (blockReqs true q.master .read (s.rd DBG.MEM_ADDR) size 0) s t :=
  ⟨_, rfl, mesh_fetch (dbg := true) (k := DBG.MEM_DATA) rfl h low short free⟩

/-! The dictionary window (R51). -/

/-- The request has arrived at the window, and what its flits met is noted. -/
def atWindow (r : MeshReq) (fl : List Flit) (s : State) : State := flitsNoted (path r.src 0) fl (noteArrival r { s with reqs := s.reqs.erase r })

theorem atWindow_crh (r : MeshReq) (fl : List Flit) (s : State) : (atWindow r fl s).crh = s.crh :=
  ((noted_flitsNoted (path r.src 0) fl _).field (f := State.crh) fun _ _ _ _ _ => rfl).trans (noteArrival_keepsCrhMesh (s0 := s) r _ rfl)

/-- The access of a request that arrives whole and in form. -/
theorem exec_window (here : regionOf r.addr s = 5) (can : canArrive r s = true) : exec (.dictWindowAccess ⟨r, fl⟩) s =
    .next (if isPoison (path r.src 0) fl then meshAnswer r 2 0 (atWindow r fl s)
      else if r.op = .orw ∨ r.len ≠ 8 ∨ r.addr % 8 ≠ 0 then meshAnswer r 2 0 ((atWindow r fl s).bump 32 (HDI.STATS 3))
      else windowServe r (atWindow r fl s)) :=
  congrArg Host.Outcome.next (if_pos ⟨here, can⟩)

theorem poisoned_gives (here : regionOf r.addr s = 5) (can : canArrive r s = true) (bad : isPoison (path r.src 0) fl = true) :
    Gives (.dictWindowAccess ⟨r, fl⟩) s fun t => t.resps = (atWindow r fl s).resps ++ [⟨r, 2, 0⟩] ∧ t.reg = (atWindow r fl s).reg ∧
      t.mem = (atWindow r fl s).mem :=
  ⟨_, (exec_window here can).trans (congrArg _ (if_pos bad)), rfl, rfl, rfl⟩

theorem malformed_gives (here : regionOf r.addr s = 5) (can : canArrive r s = true) (whole : isPoison (path r.src 0) fl = false)
    (form : r.op = .orw ∨ r.len ≠ 8 ∨ r.addr % 8 ≠ 0) : Gives (.dictWindowAccess ⟨r, fl⟩) s fun t =>
      t.resps = (atWindow r fl s).resps ++ [⟨r, 2, 0⟩] ∧
      t.rd (HDI.STATS 3) = min ((atWindow r fl s).rd (HDI.STATS 3) + 1) (2 ^ 32 - 1) := by
  refine ⟨_, (exec_window here can).trans (congrArg _ ((if_neg (Bool.eq_false_iff.1 whole)).trans (if_pos form))), ?_, bump_eq ..⟩
  show ((atWindow r fl s).bump 32 (HDI.STATS 3)).resps ++ _ = _
  rw [bump_resps]

theorem exec_served (here : regionOf r.addr s = 5) (can : canArrive r s = true) (whole : isPoison (path r.src 0) fl = false)
    (word : r.op ≠ .orw) (one : r.len = 8) (aligned : r.addr % 8 = 0) :
    exec (.dictWindowAccess ⟨r, fl⟩) s = .next (windowServe r (atWindow r fl s)) := by
  refine (exec_window here can).trans (congrArg _ ((if_neg (Bool.eq_false_iff.1 whole)).trans (if_neg ?_)))
  rintro (other | other | other)
  · exact word other
  · exact other one
  · exact other aligned

theorem windowMaster_high (r : MeshReq) : 16 ≤ windowMaster r := by
  unfold windowMaster
  omega

theorem window_heard (out : u.crh.inReset = false) : deaf (Req.of (windowMaster r) 0) u = false := by
  have high := windowMaster_high r
  have bus : Nat.beq (windowMaster r) 0 = false := Bool.eq_false_iff.2 fun same => by have := Nat.eq_of_beq_eq_true same; omega
  have port : Nat.beq (windowMaster r) 9 = false := Bool.eq_false_iff.2 fun same => by have := Nat.eq_of_beq_eq_true same; omega
  rw [deaf, out]
  show (false || (Nat.beq (windowMaster r) 0 && _) || (Nat.beq (windowMaster r) 9 && _)) = false
  rw [bus, port]
  rfl

/-- The rule of the member that a request of the window reads. -/
def windowRule (r : MeshReq) (u : State) : ReadRule := readRule (Req.of (windowMaster r) 0) (windowObj r) (windowMem r) (windowWidth r) u

/-- The read of the member, made for the mesh. -/
def windowRead (r : MeshReq) (u : State) : State :=
  finish (Req.of (windowMaster r) 0) 1 (windowObj r) (windowMem r) 0 (windowRule r u).len (windowRule r u).data
    (if windowDebug r (windowObj r) (windowMem r) then fun s => s else (windowRule r u).eff) u

theorem serve_read (read : r.op = .read) (out : u.crh.inReset = false)
    (free : statusOf (Req.of (windowMaster r) 0) 1 (windowObj r) (windowMem r) 0 0 (windowRule r u).len
      (meshForm (Req.of (windowMaster r) 0) 1 (windowObj r) (windowMem r) :: (windowRule r u).conds) u = 0) :
    windowServe r u = meshAnswer r 0 ((windowRule r u).data % 2 ^ (8 * windowWidth r))
      (if windowDebug r (windowObj r) (windowMem r) then (windowRead r u).setBit DBG.MEM_STATUS 1 true else windowRead r u) := by
  unfold windowServe
  dsimp only
  rw [if_pos read, if_neg (Bool.eq_false_iff.1 out)]
  unfold windowRule at free
  rw [free]
  exact if_pos rfl

theorem read_gives (here : regionOf r.addr s = 5) (can : canArrive r s = true) (out : s.crh.inReset = false) (whole : isPoison (path r.src 0) fl = false)
    (word : r.op ≠ .orw) (one : r.len = 8) (aligned : r.addr % 8 = 0) (read : r.op = .read)
    (free : statusOf (Req.of (windowMaster r) 0) 1 (windowObj r) (windowMem r) 0 0 (windowRule r (atWindow r fl s)).len
      (meshForm (Req.of (windowMaster r) 0) 1 (windowObj r) (windowMem r) :: (windowRule r (atWindow r fl s)).conds) (atWindow r fl s) = 0) :
    Gives (.dictWindowAccess ⟨r, fl⟩) s fun t => ((Req.of (windowMaster r) 0).master ≠ 9 →
        AnsweredWith (Req.of (windowMaster r) 0) (windowRule r (atWindow r fl s)).len (windowRule r (atWindow r fl s)).data t) ∧
      ∃ l, t.resps = l ++ [⟨r, 0, (windowRule r (atWindow r fl s)).data % 2 ^ (8 * windowWidth r)⟩] := by
  have out' : (atWindow r fl s).crh.inReset = false := by rw [atWindow_crh, out]
  refine ⟨_, (exec_served here can whole word one aligned).trans (congrArg _ (serve_read read out' free)), fun _ => ?_, _, rfl⟩
  have answered : AnsweredWith (Req.of (windowMaster r) 0) (windowRule r (atWindow r fl s)).len (windowRule r (atWindow r fl s)).data
      (windowRead r (atWindow r fl s)) := resp_finish (window_heard out')
  have marked (t : State) : (t.setBit DBG.MEM_STATUS 1 true).masterOf (windowMaster r) = t.masterOf (windowMaster r) := masterOf_setBit ..
  unfold AnsweredWith at answered ⊢
  split
  · show ((State.setBit _ _ _ _).masterOf (windowMaster r)).resp.status = 0 ∧ _
    have same := marked (windowRead r (atWindow r fl s))
    exact same.symm ▸ answered
  · exact answered

theorem write_gives (here : regionOf r.addr s = 5) (can : canArrive r s = true) (out : s.crh.inReset = false) (whole : isPoison (path r.src 0) fl = false)
    (word : r.op ≠ .orw) (one : r.len = 8) (aligned : r.addr % 8 = 0) (write : r.op = .write) {w : State}
    (ran : exec (.dictWrite (Req.of (windowMaster r) 0) (windowObj r) (windowMem r) (windowWidth r)
      (r.data % 2 ^ (8 * windowWidth r) &&& fieldsOf (windowObj r) (windowMem r))) (atWindow r fl s) = .next w) :
    Gives (.dictWindowAccess ⟨r, fl⟩) s fun t =>
      t = { w with resps := w.resps ++ [⟨r, if (w.masterOf (Req.of (windowMaster r) 0).master).resp.status = 0 ∨ w.crh.inReset = true then 1 else 2, 0⟩] } := by
  have out' : (atWindow r fl s).crh.inReset = false := by rw [atWindow_crh, out]
  have is : request (Req.of (windowMaster r) 0) 2 (windowObj r) (windowMem r) (windowWidth r)
      (r.data % 2 ^ (8 * windowWidth r) &&& fieldsOf (windowObj r) (windowMem r)) (atWindow r fl s) = w := Host.Outcome.next.inj ran
  refine ⟨windowServe r (atWindow r fl s), exec_served here can whole word one aligned, ?_⟩
  unfold windowServe
  dsimp only
  rw [if_neg (by rw [write]; decide), if_neg (Bool.eq_false_iff.1 out'), is]
  rfl

/-- Settles O56: the writes and fetches of mesh data send their block, and a request to the window is served as its form says. -/
theorem meshDataComplete : Obligations.MeshDataComplete := by
  unfold Obligations.MeshDataComplete
  intro q s
  refine ⟨fun len v h _ whole aligned => ⟨_, rfl, mesh_write (dbg := false) h whole aligned⟩,
    fun len v h _ whole aligned => ⟨_, rfl, mesh_write (dbg := true) h whole aligned⟩, fun size => hdiFetch_gives, fun size => dbgFetch_gives,
    fun r fl here can out => ⟨poisoned_gives here can, fun whole word one aligned => ⟨?_, ?_⟩, malformed_gives here can⟩⟩
  · exact read_gives here can out whole word one aligned
  · exact fun write w => write_gives here can out whole word one aligned write

end Sys2Proof.Proofs.MeshData
end

section
/-! A frame of the debug port against the same request made behind its instruction (chapter 19, R476, R479). -/
namespace Sys2Proof.Proofs.PortFrame
open Sys2Proof.Machine

/-- The debug port has had a response. -/
def portAnswered : State := { hdi := { masters := [(9, { resp := { status := 0, op := 0x81 } })] } }

/-- What Capture-DR has loaded in the next state. -/
def dataAfter (o : Out) : Nat := match o with
  | .next t => t.dbg.dr
  | _ => 0

/-- Refutes O55: DBGFRAME has Capture-DR load READY and the last response before its request (R479), while the statement has it give
the very state that the request gives behind the instruction alone, which loads 0. -/
theorem not_requestsComplete : ¬ Obligations.RequestsComplete := by
  unfold Obligations.RequestsComplete
  intro holds
  obtain ⟨r, found⟩ : ∃ r, Dict.find (HDI.MESH_ADDR / 256) (HDI.MESH_ADDR % 256) = some r := Option.isSome_iff_exists.1 (by decide)
  obtain ⟨-, -, -, -, -, -, -, -, -, -, frames⟩ := holds (.of 0 0) HDI.MESH_ADDR r portAnswered found (fun mesh => absurd mesh (by decide))
  obtain ⟨u, alone, framed⟩ := frames 0 0 none 0 0 (1, .dictRead ⟨9, 0, 0, none, none⟩ (HDI.MESH_ADDR / 256) (HDI.MESH_ADDR % 256) 0 0) List.mem_cons_self
  have empty : dataAfter (exec (.dictRead ⟨9, 0, 0, none, none⟩ (HDI.MESH_ADDR / 256) (HDI.MESH_ADDR % 256) 0 0) (loadInsn 0x10 portAnswered)) = 0 := by
    decide +kernel
  have ready : dataAfter (exec (.dbgframe 1 ⟨0, 0, none⟩ (HDI.MESH_ADDR / 256) (HDI.MESH_ADDR % 256) 0 0) portAnswered) ≠ 0 := by
    decide +kernel
  rw [alone] at empty
  rw [framed] at ready
  exact ready empty

end Sys2Proof.Proofs.PortFrame
end

section
/-! Resets of the part, and the start and loss of its clocks (15_clocks_reset.md R393, R394, R405 to R408): every clause of O44 but
that on REFIN_LOSS holds whatever the free values are, and that one holds exactly where no free value has bit 0 set. -/
namespace Sys2Proof.Proofs.Resets
open Sys2Proof.Machine Sys2Proof.Laws Common CompleteCrh ClockFacts

variable {q : Req} {k b : Nat} {s t : State}

/-! The cold resets (R405). -/

theorem straps_R (v : Nat) (s : State) : R s (sampleStraps v s) := R_trans (R_wr ..) (R_setBit ..)

/-- A field beside the members is as it was where the members alone changed. -/
theorem field_of_R {α : Type} (f : State → α) (keeps : ∀ s r, f { s with reg := r } = f s) (r : R s t) : f t = f s := by
  obtain ⟨x, rfl⟩ := r
  exact keeps s x

/-- A power-on reset before the grade and the DIMMs are known: the straps sampled, no REFIN. -/
def dark (v : Nat) (s : State) : State := refinGone (sampleStraps v (coldReset 0 s))

/-- The members at the defaults of the board's grade. -/
def boarded (board : Board) (s : State) : State := graded (modCrh (fun c => { c with grade := board.grade }) (dark board.straps s))

/-- The DIMMs of the board found. -/
def fitted (board : Board) (s : State) : State := (List.range 4).foldl (fun s n => s.modDmc n fun _ => { dimms := board.dimms.getD n [] }) s

theorem fitted_rest (board : Board) (s : State) : (∀ k, (fitted board s).rd k = s.rd k) ∧ (fitted board s).crh = s.crh ∧ (fitted board s).mem = s.mem ∧ (fitted board s).ve = s.ve := by
  have keep : ∀ (l : List Nat) (s : State), let t := l.foldl (fun s n => s.modDmc n fun _ => { dimms := board.dimms.getD n [] }) s
      (∀ k, t.rd k = s.rd k) ∧ t.crh = s.crh ∧ t.mem = s.mem ∧ t.ve = s.ve := by
    intro l
    induction l with
    | nil => exact fun s => ⟨fun _ => rfl, rfl, rfl, rfl⟩
    | cons a l ih => exact fun s => ih (s.modDmc a _)
  exact keep _ s

theorem fitted_dimms (board : Board) (s : State) {n : Nat} (hn : n < 4) : ((fitted board s).dmcOf n).dimms = board.dimms.getD n [] := by
  have one : ∀ (l : List Nat) (s : State), n ∈ l ∨ (s.dmcOf n).dimms = board.dimms.getD n [] →
      ((l.foldl (fun s n => s.modDmc n fun _ => { dimms := board.dimms.getD n [] }) s).dmcOf n).dimms = board.dimms.getD n [] := by
    intro l
    induction l with
    | nil => intro s h; simpa using h
    | cons a l ih =>
      intro s h
      rw [List.foldl_cons]
      refine ih _ ?_
      by_cases e : n = a
      · subst e; right; rw [dmcOf_modDmc]
      · rw [dmcOf_modDmc_other _ e]
        rcases h with h | h
        · left; simpa [e] using h
        · exact .inr h
  exact one _ s (.inl (List.mem_range.2 hn))

theorem por_gives (board : Board) (s : State) : Gives (.por board) s fun t => t.rd CRH.RESET_CAUSE = 1 ∧ t.rd CRH.RESET_COUNT = 0 ∧ t.rd CRH.MPLL_LOSSES = 0 ∧
    t.rd CRH.STRAPS = board.straps % 8 ∧ refinOk t = false ∧ mpllLocked t = false ∧ t.crh.inReset = true ∧
    t.crh.grade = board.grade ∧ t.mem = [] ∧ t.ve = [] ∧ ∀ n, n < 4 → (t.dmcOf n).dimms = board.dimms.getD n [] := by
  refine ⟨fitted board (boarded board s), rfl, ?_⟩
  obtain ⟨rd, crh, mem, ve⟩ := fitted_rest board (boarded board s)
  obtain ⟨cause, count, losses, inReset, mem', ve', locked⟩ := cold_facts 0 s
  have r : R (coldReset 0 s) (dark board.straps s) := R_trans (straps_R ..) (gone_R _)
  have g : R (modCrh (fun c => { c with grade := board.grade }) (dark board.straps s)) (boarded board s) := R_graded _
  have low {k : Nat} (h1 : k ≠ CRH.TWARN) (h2 : k ≠ CRH.TTRIP) (h3 : k < 0x270100 ∨ 0x270300 ≤ k) : (boarded board s).rd k = (dark board.straps s).rd k :=
    graded_rd h1 h2 h3
  have cold {k : Nat} (h1 : k ≠ CRH.CLK_STATUS) (h2 : k ≠ HDI.STATUS) (h3 : k ≠ CRH.STRAPS) : (dark board.straps s).rd k = (coldReset 0 s).rd k :=
    (gone_rd h1 h2).trans (straps_rd h3 h1)
  have crh' : (boarded board s).crh = { (coldReset 0 s).crh with grade := board.grade } := by
    rw [field_of_R State.crh (fun _ _ => rfl) g]
    show ({ (dark board.straps s).crh with grade := board.grade } : CrhS) = _
    rw [field_of_R State.crh (fun _ _ => rfl) r]
  refine ⟨?_, ?_, ?_, ?_, ?_, ?_, ?_, ?_, ?_, ?_, fun n hn => fitted_dimms board _ hn⟩
  · rw [rd, low (by decide) (by decide) (by decide), cold (by decide) (by decide) (by decide), cause]; rfl
  · rw [rd, low (by decide) (by decide) (by decide), cold (by decide) (by decide) (by decide), count]
  · rw [rd, low (by decide) (by decide) (by decide), cold (by decide) (by decide) (by decide), losses]
  · rw [rd, low (by decide) (by decide) (by decide), dark, gone_rd (by decide) (by decide), sampleStraps, rd_setBit_other _ (by decide), rd_wr_same]
  · exact (bit_of_rd ((rd _).trans (low (by decide) (by decide) (by decide)))).trans (gone_refin _)
  · refine (bit_of_rd ((rd _).trans (low (by decide) (by decide) (by decide)))).trans ?_
    exact gone_locked.trans ((R_locked (straps_rd (by decide) (by decide))).trans locked)
  · rw [crh, crh']; exact inReset
  · rw [crh, crh']
  · rw [mem, field_of_R State.mem (fun _ _ => rfl) g]; exact (field_of_R State.mem (fun _ _ => rfl) r).trans mem'
  · rw [ve, field_of_R State.ve (fun _ _ => rfl) g]; exact (field_of_R State.ve (fun _ _ => rfl) r).trans ve'

theorem brownout_gives (s : State) : Gives .brownout s fun t => t.rd CRH.RESET_CAUSE = 2 ∧ t.rd CRH.RESET_COUNT = 0 ∧
    t.rd CRH.MPLL_LOSSES = 0 ∧ t.rd CRH.STRAPS = s.freeVal % 8 ∧ t.crh.inReset = true ∧ t.mem = [] ∧ t.ve = [] := by
  refine ⟨sampleStraps s.freeVal (coldReset 1 s.drawn), rfl, ?_⟩
  obtain ⟨cause, count, losses, inReset, mem, ve, _⟩ := cold_facts 1 s.drawn
  have r := straps_R s.freeVal (coldReset 1 s.drawn)
  refine ⟨?_, ?_, ?_, ?_, ?_, ?_, ?_⟩
  · rw [straps_rd (by decide) (by decide), cause]; rfl
  · rw [straps_rd (by decide) (by decide), count]
  · rw [straps_rd (by decide) (by decide), losses]
  · rw [sampleStraps, rd_setBit_other _ (by decide), rd_wr_same]
  · rw [field_of_R State.crh (fun _ _ => rfl) r]; exact inReset
  · exact (field_of_R State.mem (fun _ _ => rfl) r).trans mem
  · exact (field_of_R State.ve (fun _ _ => rfl) r).trans ve

/-! Part resets (R405 to R408). -/

theorem pin_gives (h1 : s.crh.inReset = false) (h2 : s.crh.rstFrom + ticksPerUs < s.now) : Gives .pinReset s fun t => PartReset s 2 t ∧ t.crh.pinLow = true :=
  ⟨modCrh (fun c => { c with pinLow := true }) (partReset 2 s), rfl, (part_facts (by decide) h1 h2).1, rfl⟩

theorem soft_gives (h1 : s.crh.inReset = false) (h2 : s.crh.rstFrom + ticksPerUs < s.now) (h : Writes q CRH.RESET 1 0xA5 s) :
    Gives (.softReset q) s fun t => PartReset s 5 t := by
  obtain ⟨-, like⟩ := command_done (extra := []) (eff := fun s => s) h noC
  have run : exec (.softReset q) s = .next (partReset 5 (command q CRH.RESET 0xA5 [] (fun s => s) s)) :=
    congrArg Host.Outcome.next (if_pos ⟨statusOf_zero h.1.2 h.2 noC, h.1.1⟩)
  generalize command q CRH.RESET 0xA5 [] (fun s => s) s = u at like run
  refine ⟨_, run, Part_like (part_facts (by decide) ?_ ?_).1 like.rd⟩
  · rw [like.crh]; exact h1
  · rw [like.crh, like.now]; exact h2

theorem trip_gives (h1 : s.crh.inReset = false) (h2 : s.crh.rstFrom + ticksPerUs < s.now) (hot : toS16 (s.rd CRH.TTRIP) ≤ hottest s) (cool : s.crh.hot = false) :
    Gives .thermalTrip s fun t => PartReset s 8 t ∧ t.crh.hot = true :=
  ⟨modCrh (fun c => { c with hot := true }) (partReset 8 s), congrArg Host.Outcome.next (if_pos ⟨hot, cool⟩), (part_facts (by decide) h1 h2).1, rfl⟩

/-- A part reset stays one when REFIN has gone. -/
theorem gone_part (h : PartReset s b t) : PartReset s b (refinGone t) := by
  obtain ⟨cause, count, inReset, locked, mem, ve, lanes, reqs, kept⟩ := h
  have r := gone_R t
  refine ⟨?_, ?_, ?_, ?_, ?_, ?_, ?_, ?_, fun k hk => ?_⟩
  · rw [bit_of_rd (gone_rd (by decide) (by decide))]; exact cause
  · rw [gone_rd (by decide) (by decide)]; exact count
  · rw [field_of_R State.crh (fun _ _ => rfl) r]; exact inReset
  · rw [gone_locked]; exact locked
  · exact (field_of_R State.mem (fun _ _ => rfl) r).trans mem
  · exact (field_of_R State.ve (fun _ _ => rfl) r).trans ve
  · exact (field_of_R State.lanes (fun _ _ => rfl) r).trans lanes
  · exact (field_of_R State.reqs (fun _ _ => rfl) r).trans reqs
  · rw [← kept k hk]
    simp only [List.mem_cons, List.not_mem_nil, or_false] at hk
    rcases hk with rfl | rfl | rfl | rfl | rfl | rfl <;> exact gone_rd (by decide) (by decide)

theorem loss_gives (h1 : s.crh.inReset = false) (h2 : s.crh.rstFrom + ticksPerUs < s.now) (ok : refinOk s = true) (free : s.freeVal.testBit 0 = false) :
    Gives .refinLoss s fun t => PartReset s 3 t ∧ refinOk t = (mpllLocked s && s.freeVal.testBit 0) ∧
      t.rd CRH.MPLL_LOSSES = min (s.rd CRH.MPLL_LOSSES + 1) (2 ^ 32 - 1) := by
  have run : exec .refinLoss s = .next (refinGone (partReset 3 s.drawn)) := by
    refine congrArg Host.Outcome.next ((if_neg fun h => ?_).trans (if_pos ok))
    rw [free] at h
    cases h.2
  obtain ⟨part, losses⟩ := part_facts (s := s.drawn) (b := 3) (by decide) h1 h2
  refine ⟨_, run, gone_part part, ?_, ?_⟩
  · rw [free, Bool.and_false]; exact gone_refin _
  · rw [gone_rd (by decide) (by decide)]; exact losses rfl

theorem joins_gives (lasts : resetLasts s = true) : Gives .pinReset s fun t => t.bit CRH.RESET_CAUSE 2 = true ∧ t.crh.pinLow = true ∧
    t.rd CRH.RESET_COUNT = s.rd CRH.RESET_COUNT := by
  have run : exec .pinReset s = .next (modCrh (fun c => { c with pinLow := true }) (noteCause 2 s)) :=
    congrArg (fun t => Host.Outcome.next (modCrh (fun c => { c with pinLow := true }) t)) (if_pos (.inl lasts))
  obtain ⟨cause, count, _⟩ := cause_facts 2 s (by decide)
  exact ⟨_, run, cause, rfl, count⟩

theorem rise_gives (straps : Nat) (low : s.crh.pinLow = true) : Gives (.nresetRise straps) s fun t => t.crh.pinLow = false ∧
    t.rd CRH.STRAPS = straps % 8 ∧ t.bit CRH.CLK_STATUS 2 = straps.testBit 2 ∧ t.crh.rstAt = s.now := by
  have run : exec (.nresetRise straps) s = .next (modCrh (fun c => { c with pinLow := false, rstAt := s.now }) (sampleStraps straps s)) :=
    congrArg Host.Outcome.next (if_pos low)
  refine ⟨_, run, rfl, ?_, ?_, rfl⟩
  · show (sampleStraps straps s).rd _ = _
    rw [sampleStraps, rd_setBit_other _ (by decide), rd_wr_same]
  · exact bit_setBit_eq ..

theorem end_gives (h1 : s.crh.inReset = true) (h2 : s.crh.pinLow = false) (h3 : s.crh.hot = false ∨ cooled s = true) (h4 : s.crh.low = 0) (h5 : testInsn s.dbg.insn = false) :
    Gives .resetEnd s fun t => t.crh.inReset = false ∧ t.crh.hot = false ∧ t.now = max s.now (s.crh.rstAt + 10 * ticksPerUs) := by
  have run : exec .resetEnd s = .next (modCrh (fun c => { c with inReset := false, hot := false }) (s.upto (s.crh.rstAt + 10 * ticksPerUs))) :=
    congrArg Host.Outcome.next (if_pos ⟨h1, h2, h3, h4, h5⟩)
  generalize s.crh.rstAt + 10 * ticksPerUs = e at run
  exact ⟨_, run, rfl, rfl, rfl⟩

theorem present_gives (gone : refinOk s = false) : Gives .refinPresent s fun t => refinOk t = true ∧ t.bit CRH.CLK_STATUS 0 = true ∧ t.crh.refinAt = s.now := by
  have run : exec .refinPresent s = .next (modCrh (fun c => { c with refinAt := s.now }) ((s.setBit CRH.CLK_STATUS 0 true).setBit HDI.STATUS 0 true)) :=
    congrArg Host.Outcome.next (if_neg (Bool.eq_false_iff.1 gone))
  refine ⟨_, run, bit_setBit_eq .., ?_, rfl⟩
  show ((s.setBit CRH.CLK_STATUS 0 true).setBit HDI.STATUS 0 true).bit CRH.CLK_STATUS 0 = true
  rw [bit_of_rd (rd_setBit_other _ (by decide) _ _), bit_setBit_eq]

/-- The clocks derived from the MPLL start at instant e (R393). -/
def clocked (e : Nat) (s : State) : State :=
  let s := ((s.upto e).setBit CRH.CLK_STATUS 1 true).setBit HDI.STATUS 1 true
  let s := modCrh (fun c => { c with rstAt := e }) { s with clk := { base := 0, anchor := e } }
  if s.dbg.test then { s with dbg := { s.dbg with test := false } }.flag DBG.EVFLAGS 7 503 else s

theorem clocked_facts (e : Nat) (s : State) : mpllLocked (clocked e s) = true ∧ (clocked e s).bit CRH.CLK_STATUS 1 = true ∧ (clocked e s).now = max s.now e ∧
    (clocked e s).clk = { base := 0, anchor := e } := by
  unfold clocked
  dsimp only
  generalize hu : ((s.upto e).setBit CRH.CLK_STATUS 1 true).setBit HDI.STATUS 1 true = u
  have now : u.now = max s.now e := by subst hu; rw [setBit_now, setBit_now]; rfl
  have lock : u.bit HDI.STATUS 1 = true := by subst hu; exact bit_setBit_eq ..
  have clk : u.bit CRH.CLK_STATUS 1 = true := by subst hu; rw [bit_of_rd (rd_setBit_other _ (by decide) _ _), bit_setBit_eq]
  split
  · refine ⟨?_, ?_, ?_, ?_⟩
    · unfold mpllLocked; rw [bit_of_rd (rd_flag_other _ (by decide) ..)]; exact lock
    · rw [bit_of_rd (rd_flag_other _ (by decide) ..)]; exact clk
    · rw [flag_now]; exact now
    · rw [flag_clk]; rfl
  · exact ⟨lock, clk, now, rfl⟩

theorem edge_le (t : Nat) : t ≤ edgeAt 163840 t := by unfold edgeAt; omega

theorem lock_gives (h1 : s.bit CRH.CLK_STATUS 0 = true) (h2 : s.crh.inReset = false) (h3 : mpllLocked s = false) : Gives .mpllLock s fun t =>
    mpllLocked t = true ∧ t.bit CRH.CLK_STATUS 1 = true ∧ t.now = edgeAt 163840 s.now ∧ netNow t = 0 := by
  have run : exec .mpllLock s = .next (clocked (edgeAt 163840 s.now) s) := congrArg Host.Outcome.next (if_pos ⟨h1, h2, h3⟩)
  obtain ⟨lock, status, now, clk⟩ := clocked_facts (edgeAt 163840 s.now) s
  have now' : (clocked (edgeAt 163840 s.now) s).now = edgeAt 163840 s.now := now.trans (max_eq_right (edge_le _))
  refine ⟨_, run, lock, status, now', ?_⟩
  rw [netNow, netAt, if_pos lock, clk, now', if_neg (Nat.lt_irrefl _), Nat.sub_self]
  simp

/-! What O44 asks of the free values. -/

theorem complete_of_free (free : ∀ c, (Config.free c).testBit 0 = false) : Obligations.ResetsComplete := by
  unfold Obligations.ResetsComplete
  exact fun s => ⟨fun board => por_gives board s, brownout_gives s, fun h1 h2 => ⟨pin_gives h1 h2, fun q => soft_gives h1 h2, trip_gives h1 h2,
    fun ok => loss_gives h1 h2 ok (free _)⟩, joins_gives, fun straps => rise_gives straps, end_gives, present_gives, lock_gives⟩

/-- A part reset takes whether REFIN is there from CRH.CLK_STATUS. -/
theorem clear_refin (s : State) : refinOk (clearPart s) = s.bit CRH.CLK_STATUS 0 := by
  unfold clearPart refinOk
  dsimp only
  rw [bit_of_rd (graded_rd (by decide) (by decide) (by decide)), bit_of_rd (rd_setBit_other _ (by decide) _ _), bit_of_rd (rd_setBit_other _ (by decide) _ _),
    bit_of_rd (rd_setBit_other _ (by decide) _ _), bit_of_rd (rd_setBit_other _ (by decide) _ _), bit_setBit_eq]

/-- The MPLL is locked while CRH.CLK_STATUS shows no REFIN, and the next free value is that of c. -/
def lockedDark (c : Nat) : State := { reg := [(HDI.STATUS, 3)], freeCtr := c, now := ticksPerUs + 1 }

theorem lockedDark_rd (c k : Nat) : (lockedDark c).rd k = Tab.get Dict.dflt [(HDI.STATUS, 3)] k := rfl

theorem lockedDark_runs (c : Nat) : refinOk (lockedDark c) = true ∧ mpllLocked (lockedDark c) = true ∧ (lockedDark c).bit CRH.CLK_STATUS 0 = false := by
  unfold refinOk mpllLocked State.bit
  rw [lockedDark_rd, lockedDark_rd]
  decide +kernel

theorem lockedDark_reset (c : Nat) : refinOk (partReset 3 (lockedDark c).drawn) = false := by
  have starts : ¬(resetLasts (lockedDark c).drawn = true ∨ (((lockedDark c).drawn.crh.inReset = true ∨ 0 < (lockedDark c).drawn.crh.rstFrom) ∧
      (lockedDark c).drawn.now ≤ (lockedDark c).drawn.crh.rstFrom + ticksPerUs)) := by
    rintro (lasts | ⟨held | from_, -⟩)
    · cases lasts
    · cases held
    · exact absurd from_ (Nat.lt_irrefl 0)
  rw [partReset, if_neg starts, clear_refin]
  show ((noteCause 3 (lockedDark c).drawn).bump 32 CRH.RESET_COUNT).bit CRH.CLK_STATUS 0 = false
  rw [bit_of_rd (bump_ne (by decide)), noteCause, if_pos rfl, bit_of_rd (bump_ne (by decide)), bit_of_rd (rd_setBit_other _ (by decide) _ _)]
  exact (lockedDark_runs c).2.2

theorem free_of_complete (holds : Obligations.ResetsComplete) (c : Nat) : (Config.free c).testBit 0 = false := by
  cases bit : (Config.free c).testBit 0 with
  | false => rfl
  | true =>
    unfold Obligations.ResetsComplete at holds
    obtain ⟨-, -, parts, -⟩ := holds (lockedDark c)
    obtain ⟨-, -, -, loss⟩ := parts rfl (by show 0 + ticksPerUs < ticksPerUs + 1; omega)
    obtain ⟨ok, locked, -⟩ := lockedDark_runs c
    obtain ⟨t, ran, -, refin, -⟩ := loss ok
    have draws : (lockedDark c).freeVal.testBit 0 = true := bit
    have run : exec .refinLoss (lockedDark c) = .next (partReset 3 (lockedDark c).drawn) :=
      congrArg Host.Outcome.next ((if_pos ⟨locked, draws⟩).trans (if_pos locked))
    rw [run] at ran
    cases ran
    rw [locked, draws, lockedDark_reset] at refin
    cases refin

/-- O44 is a claim about the free values alone: where both a loss of REFIN and a loss of lock can be, bit 0 of a free value chooses (log
entry 30). After a loss of lock the model reads REFIN from CRH.CLK_STATUS, and the statement has it stay, so the statement holds exactly
if no free value chooses a loss of lock. Config.free has no body, so neither it nor its negation follows. -/
theorem resetsComplete_iff : Obligations.ResetsComplete ↔ ∀ c, (Config.free c).testBit 0 = false := ⟨free_of_complete, complete_of_free⟩
end Sys2Proof.Proofs.Resets
end
